-- ==== Sys2Proof/Word.lean ====
section
/-! DEFINITION. The word types of the Zorsan model and their plainest arithmetic: bytes, little-endian
fields (R4), bit fields (R5) and fixed-size tables read and written by number. -/

namespace Sys2Proof

/-- One byte of a memory, a register image or a message. -/
abbrev Byte := BitVec 8

/-- A 64-bit register or counter. -/
abbrev Word64 := BitVec 64

/-- A 32-bit register or counter. -/
abbrev Word32 := BitVec 32

/-- The number that a list of bytes spells, least significant byte first (R4). -/
def leNat : List Byte → Nat
  | [] => 0
  | b :: bs => b.toNat + 256 * leNat bs

/-- `n` bytes of a number, least significant first (R4). -/
def leBytes : Nat → Nat → List Byte
  | 0, _ => []
  | n + 1, v => BitVec.ofNat 8 v :: leBytes n (v / 256)

/-- The bytes at `off .. off + n - 1` of a structure; bytes past its end read 0. -/
def bytesAt (bs : List Byte) (off n : Nat) : List Byte :=
  (bs.drop off).take n ++ List.replicate (n - ((bs.drop off).take n).length) 0#8

/-- The little-endian field of `n` bytes at `off` (R4). -/
def field (bs : List Byte) (off n : Nat) : Nat := leNat (bytesAt bs off n)

/-- Bits `[lo + w - 1 : lo]` of a number (R5). -/
def bits (v lo w : Nat) : Nat := v / 2 ^ lo % 2 ^ w

/-- Bit `i` of a number (R5). -/
def bit (v i : Nat) : Bool := v.testBit i

/-- A Boolean as a bit. -/
def b2n (b : Bool) : Nat := if b then 1 else 0

/-- `v` with bits `[lo + w - 1 : lo]` replaced by `x`. -/
def setBits (v lo w x : Nat) : Nat :=
  v - (bits v lo w) * 2 ^ lo + (x % 2 ^ w) * 2 ^ lo

/-- A count that stops at its field's largest value. -/
def satInc (w v : Nat) (by_ : Nat := 1) : Nat := min (2 ^ w - 1) (v + by_)

/-- True when every byte of the list is 0. -/
def allZero (bs : List Byte) : Bool := bs.all (· == 0#8)

/-- Entry `i` of a fixed-size table; outside the table, the default value. -/
def tget {α : Type} [Inhabited α] {n : Nat} (v : Vector α n) (i : Nat) : α := v[i]?.getD default

/-- The table with entry `i` replaced; outside the table, unchanged. -/
def tset {α : Type} {n : Nat} (v : Vector α n) (i : Nat) (x : α) : Vector α n := v.setIfInBounds i x

/-- The table with entry `i` changed by `f`. -/
def tmod {α : Type} [Inhabited α] {n : Nat} (v : Vector α n) (i : Nat) (f : α → α) : Vector α n :=
  tset v i (f (tget v i))

/-- The value a key holds in an association list. -/
def alookup {β : Type} (l : List (Nat × β)) (k : Nat) : Option β :=
  (l.find? (fun p => p.1 == k)).map (·.2)

/-- The association list with key `k` holding `x`. -/
def ainsert {β : Type} (l : List (Nat × β)) (k : Nat) (x : β) : List (Nat × β) :=
  (k, x) :: l.filter (fun p => p.1 != k)

/-- The association list without key `k`. -/
def aerase {β : Type} (l : List (Nat × β)) (k : Nat) : List (Nat × β) :=
  l.filter (fun p => p.1 != k)

/-- The first `n` numbers from `lo`. -/
def rangeFrom (lo n : Nat) : List Nat := (List.range n).map (lo + ·)

/-- Repeat a state change for each number below `n`, from 0 up. -/
def forUpto {σ : Type} : Nat → (Nat → σ → σ) → σ → σ
  | 0, _, s => s
  | n + 1, f, s => f n (forUpto n f s)

end Sys2Proof
end

