-- ==== Sys2Proof/Machine/Num.lean ====
section
/-! DEFINITION. Number formats (chapter 8): the value of an element, exact arithmetic, rounding, encoding and
the ZB4 block (R148 to R161). Values are exact; every rounding is one call of `roundRat`. -/

namespace Sys2Proof.Machine

/-- An element's value: NaN, an infinity, or (-1)^neg × m × 2^e exactly (R149 keeps the sign of zero). -/
inductive FP where
  | nan
  | inf (neg : Bool)
  | fin (neg : Bool) (m : Nat) (e : Int)
deriving DecidableEq, Repr, Inhabited

/-- Table 8.4. -/
inductive RMode where
  | nearest
  | zero
  | down
  | up
deriving DecidableEq, Repr, Inhabited

/-- The mode of CONVERT param bits [1:0] (Table 8.4). -/
def RMode.ofCode (c : Nat) : RMode :=
  match c % 4 with
  | 0 => .nearest
  | 1 => .zero
  | 2 => .down
  | _ => .up

/-- The eight element formats with their codes (Table 8.1). -/
inductive Fmt where
  | fp32
  | bf16
  | fp16
  | e4m3
  | e5m2
  | int8
  | zb4
  | bin1
deriving DecidableEq, Repr, Inhabited

/-- The format of a descriptor's format byte (Table 7.4), for the formats whose elements are whole bytes; ZB4 blocks and BIN1
bits have codecs of their own (R150 to R152). -/
def Fmt.ofCode : Nat → Option Fmt
  | 0 => some .fp32
  | 1 => some .bf16
  | 2 => some .fp16
  | 3 => some .e4m3
  | 4 => some .e5m2
  | 5 => some .int8
  | _ => none

/-- The code of a format. -/
def Fmt.code : Fmt → Nat
  | .fp32 => 0
  | .bf16 => 1
  | .fp16 => 2
  | .e4m3 => 3
  | .e5m2 => 4
  | .int8 => 5
  | .zb4 => 6
  | .bin1 => 7

/-- The shape of a floating-point format: exponent bits, mantissa bits, bias (Table 8.1). -/
structure FShape where
  ew : Nat
  mw : Nat
  bias : Nat
deriving DecidableEq, Repr

/-- Table 8.1 for the floating-point formats; the others are not laid out this way. -/
def Fmt.shape : Fmt → FShape
  | .fp32 => ⟨8, 23, 127⟩
  | .bf16 => ⟨8, 7, 127⟩
  | .fp16 => ⟨5, 10, 15⟩
  | .e4m3 => ⟨4, 3, 7⟩
  | .e5m2 => ⟨5, 2, 15⟩
  | _ => ⟨8, 23, 127⟩

/-- Exponent of the smallest subnormal of a shape. -/
def FShape.emin (f : FShape) : Int := 1 - (f.bias : Int) - f.mw

/-- Largest finite magnitude as (m, e) (Table 8.1); FP8-E4M3 uses its top exponent for values. -/
def Fmt.maxFinite : Fmt → Nat × Int
  | .fp32 => (2 ^ 24 - 1, 104)
  | .bf16 => (2 ^ 8 - 1, 120)
  | .fp16 => (2 ^ 11 - 1, 5)
  | .e4m3 => (14, 5)
  | .e5m2 => (7, 13)
  | _ => (2 ^ 24 - 1, 104)

/-- The value a format's bits spell (R148); INT8 and BIN1 elements are integers, ZB4 is a block format. -/
def decodeElem (f : Fmt) (v : Nat) : FP :=
  match f with
  | .int8 => let x := v % 256; if x < 128 then .fin false x 0 else .fin true (256 - x) 0
  | .bin1 => .fin false (v % 2) 0
  | .zb4 => .fin false 0 0
  | _ =>
    let sh := f.shape
    let mant := bits v 0 sh.mw
    let ex := bits v sh.mw sh.ew
    let neg := bit v (sh.mw + sh.ew)
    let top := 2 ^ sh.ew - 1
    if f = .e4m3 then
      if ex = top ∧ mant = 7 then .nan
      else if ex = 0 then .fin neg mant sh.emin
      else .fin neg (2 ^ sh.mw + mant) (sh.emin + (ex - 1))
    else if ex = top then (if mant = 0 then .inf neg else .nan)
    else if ex = 0 then .fin neg mant sh.emin
    else .fin neg (2 ^ sh.mw + mant) (sh.emin + (ex - 1))

/-- `m × 2^e` as a numerator and denominator. -/
def scalePow (m : Nat) (e : Int) : Nat × Nat :=
  if 0 ≤ e then (m * 2 ^ e.toNat, 1) else (m, 2 ^ (-e).toNat)

/-- Round the positive rational num / den to `p` bits with ulp exponent at least `emin`: the pair (q, u) stands
for q × 2^u. The exponent is unbounded above (R157, R160). -/
def roundPos (p : Nat) (emin : Int) (mode : RMode) (neg : Bool) (num den : Nat) : Nat × Int :=
  if num = 0 then (0, emin) else
  let l : Int := (Nat.log2 num : Int) - (Nat.log2 den : Int) - 1
  let quo (u : Int) : Nat × Nat × Nat :=
    let n := if u < 0 then num * 2 ^ (-u).toNat else num
    let d := if u < 0 then den else den * 2 ^ u.toNat
    (n / d, n % d, d)
  let u0 := max emin (l - ((p : Int) - 1))
  let u := if (quo u0).1 ≥ 2 ^ p then u0 + 1 else u0
  let (q, r, d) := quo u
  let inc : Bool :=
    match mode with
    | .nearest => decide (2 * r > d) || (decide (2 * r = d) && decide (q % 2 = 1))
    | .zero => false
    | .down => neg && decide (r ≠ 0)
    | .up => !neg && decide (r ≠ 0)
  (if inc then q + 1 else q, u)

/-- Is m × 2^e above m' × 2^e' ? -/
def magGt (a b : Nat × Int) : Bool :=
  let e := min a.2 b.2
  decide (a.1 * 2 ^ (a.2 - e).toNat > b.1 * 2 ^ (b.2 - e).toNat)

/-- What a finite overflow becomes (R157, R160). -/
inductive Overflow where
  /-- IEEE 754 for the mode. -/
  | ieee
  /-- The largest finite value of the same sign. -/
  | clamp
deriving DecidableEq, Repr

/-- A rational (-1)^neg × num / den rounded into a floating-point format under a mode (R160). -/
def roundRat (f : Fmt) (mode : RMode) (ov : Overflow) (neg : Bool) (num den : Nat) : FP :=
  let sh := f.shape
  let r := roundPos (sh.mw + 1) sh.emin mode neg num den
  if magGt r f.maxFinite then
    let mx := FP.fin neg f.maxFinite.1 f.maxFinite.2
    let infy := if f = .e4m3 then FP.nan else FP.inf neg
    match ov with
    | .clamp => mx
    | .ieee =>
      match mode with
      | .nearest => infy
      | .zero => mx
      | .down => if neg then infy else mx
      | .up => if neg then mx else infy
  else .fin neg r.1 r.2

/-- A value rounded into a floating-point format; NaN and infinities pass (R158). -/
def roundFP (f : Fmt) (mode : RMode) (ov : Overflow) : FP → FP
  | .nan => .nan
  | .inf neg => if f = .e4m3 then .nan else .inf neg
  | .fin neg m e => let s := scalePow m e; roundRat f mode ov neg s.1 s.2

/-- Round to FP32, to nearest even: the rounding of every engine operation (R155). -/
def rnd32 (x : FP) : FP := roundFP .fp32 .nearest .ieee x

/-- Zero, positive. -/
def FP.zero : FP := .fin false 0 0

/-- One. -/
def FP.one : FP := .fin false 1 0

/-- The signed numerator of a finite value over 2^e. -/
def signedAt (neg : Bool) (m : Nat) (e lo : Int) : Int :=
  let v : Int := (m : Int) * 2 ^ (e - lo).toNat
  if neg then -v else v

/-- The exact sum of two values (R149, R158). -/
def fadd : FP → FP → FP
  | .nan, _ => .nan
  | _, .nan => .nan
  | .inf a, .inf b => if a = b then .inf a else .nan
  | .inf a, _ => .inf a
  | _, .inf b => .inf b
  | .fin n1 m1 e1, .fin n2 m2 e2 =>
    let lo := min e1 e2
    let v := signedAt n1 m1 e1 lo + signedAt n2 m2 e2 lo
    if v = 0 then .fin (n1 && n2 && decide (m1 = 0) && decide (m2 = 0)) 0 0
    else .fin (decide (v < 0)) v.natAbs lo

/-- The exact product of two values (R149, R158). -/
def fmul : FP → FP → FP
  | .nan, _ => .nan
  | _, .nan => .nan
  | .inf a, .inf b => .inf (a != b)
  | .inf a, .fin n m _ => if m = 0 then .nan else .inf (a != n)
  | .fin n m _, .inf a => if m = 0 then .nan else .inf (a != n)
  | .fin n1 m1 e1, .fin n2 m2 e2 => .fin (n1 != n2) (m1 * m2) (e1 + e2)

/-- The negated value. -/
def fneg : FP → FP
  | .nan => .nan
  | .inf n => .inf (!n)
  | .fin n m e => .fin (!n) m e

/-- FP32 addition, subtraction and multiplication with one rounding to nearest even (R155). -/
def add32 (a b : FP) : FP := rnd32 (fadd a b)
def sub32 (a b : FP) : FP := rnd32 (fadd a (fneg b))
def mul32 (a b : FP) : FP := rnd32 (fmul a b)

/-- Fused multiply-add with one rounding (R166). -/
def fma32 (a b c : FP) : FP := rnd32 (fadd (fmul a b) c)

/-- FP32 division, correctly rounded. -/
def div32 : FP → FP → FP
  | .nan, _ => .nan
  | _, .nan => .nan
  | .inf _, .inf _ => .nan
  | .inf a, .fin n _ _ => .inf (a != n)
  | .fin n _ _, .inf a => .fin (n != a) 0 0
  | .fin n1 m1 e1, .fin n2 m2 e2 =>
    if m2 = 0 then (if m1 = 0 then .nan else .inf (n1 != n2))
    else
      let s := scalePow m1 (e1 - e2)
      roundRat .fp32 .nearest .ieee (n1 != n2) s.1 (s.2 * m2)

/-- Is the first value less than the second? False when either is NaN. -/
def flt : FP → FP → Bool
  | .nan, _ => false
  | _, .nan => false
  | .inf a, .inf b => a && !b
  | .inf a, .fin _ _ _ => a
  | .fin _ _ _, .inf b => !b
  | .fin n1 m1 e1, .fin n2 m2 e2 =>
    let lo := min e1 e2
    decide (signedAt n1 m1 e1 lo < signedAt n2 m2 e2 lo)

/-- The larger of two values that are not NaN. -/
def fmax (a b : FP) : FP := if flt a b then b else a

/-- The smaller of two values that are not NaN. -/
def fmin (a b : FP) : FP := if flt b a then b else a

/-- Is the value zero of either sign? -/
def FP.isZero : FP → Bool
  | .fin _ m _ => m == 0
  | _ => false

/-- Is the value NaN? -/
def FP.isNan : FP → Bool
  | .nan => true
  | _ => false

/-- Is the value an infinity? -/
def FP.isInf : FP → Bool
  | .inf _ => true
  | _ => false

/-- The sign of a value; NaN counts as positive. -/
def FP.neg : FP → Bool
  | .nan => false
  | .inf n => n
  | .fin n _ _ => n

/-- The magnitude of a value. -/
def FP.abs : FP → FP
  | .nan => .nan
  | .inf _ => .inf false
  | .fin _ m e => .fin false m e

/-- 2^e as a value. -/
def pow2 (e : Int) : FP := .fin false 1 e

/-- The exact sum of a list; the empty sum is +0, and a sum of terms that are all -0 is -0 (R149). -/
def exactSum : List FP → FP
  | [] => .zero
  | [x] => x
  | x :: xs => fadd x (exactSum xs)

/-- A sum taken in order from its first term, rounded at each addition (R155). -/
def orderedSum : List FP → FP
  | [] => .zero
  | x :: xs => xs.foldl add32 x

/-- The bits of a value that the format holds exactly; NaN takes the canonical encoding (Table 8.1, R149). -/
def encodeElem (f : Fmt) (x : FP) : Nat :=
  let sh := f.shape
  let top := 2 ^ sh.ew - 1
  match x with
  | .nan =>
    match f with
    | .fp32 => 0x7FC00000
    | .bf16 => 0x7FC0
    | .fp16 => 0x7E00
    | .e4m3 => 0x7F
    | .e5m2 => 0x7E
    | _ => 0
  | .inf neg => b2n neg * 2 ^ (sh.mw + sh.ew) + top * 2 ^ sh.mw
  | .fin neg m e =>
    let s := b2n neg * 2 ^ (sh.mw + sh.ew)
    if m = 0 then s else
    let l : Int := Nat.log2 m
    let expo : Int := l + e
    let emin := sh.emin
    if expo < emin + sh.mw then
      s + (scalePow m (e - emin)).1 / (scalePow m (e - emin)).2
    else
      let mant := scalePow m (e - expo + sh.mw)
      s + (expo - emin - sh.mw + 1).toNat * 2 ^ sh.mw + (mant.1 / mant.2 - 2 ^ sh.mw)

/-- An integer nearest a value under a mode, and 0 for NaN; infinities stand as the bounds given. -/
def roundInt (mode : RMode) (lo hi : Int) : FP → Int
  | .nan => 0
  | .inf neg => if neg then lo else hi
  | .fin neg m e =>
    let s := scalePow m e
    let q := s.1 / s.2
    let r := s.1 % s.2
    let inc : Bool :=
      match mode with
      | .nearest => decide (2 * r > s.2) || (decide (2 * r = s.2) && decide (q % 2 = 1))
      | .zero => false
      | .down => neg && decide (r ≠ 0)
      | .up => !neg && decide (r ≠ 0)
    let a : Int := (if inc then q + 1 else q : Nat)
    max lo (min hi (if neg then -a else a))

/-- INT8 bits of an integer already clamped. -/
def int8Bits (v : Int) : Nat := (v % 256).toNat

/-- The value of an integer. -/
def ofInt (v : Int) : FP := .fin (decide (v < 0)) v.natAbs 0

/-- Conversion of a result written by a macro-instruction other than CONVERT (R157). -/
def convertOut (f : Fmt) (x : FP) : FP :=
  match f with
  | .e5m2 => roundFP .e5m2 .nearest .clamp x
  | .e4m3 => roundFP .e4m3 .nearest .clamp x
  | f => roundFP f .nearest .ieee x

/-- CONVERT's fourth stage into a floating-point, INT8 or BIN1 element, as bits (R160, R161). -/
def convertElem (f : Fmt) (mode : RMode) (sat : Bool) (x : FP) : Nat :=
  match f with
  | .int8 => int8Bits (roundInt mode (-128) 127 x)
  | .bin1 => b2n (flt .zero x)
  | .zb4 => 0
  | f =>
    match x with
    | .inf neg =>
      if sat then encodeElem f (.fin neg f.maxFinite.1 f.maxFinite.2)
      else encodeElem f (if f = .e4m3 then .nan else .inf neg)
    | x => encodeElem f (roundFP f mode (if sat then .clamp else .ieee) x)

/-- The 32 values of a ZB4 block's 18 bytes (R150). -/
def zb4Decode (blk : List Byte) : List FP :=
  let e := field blk 0 1
  (List.range 32).map fun i =>
    if e = 0xFF then .nan
    else
      let s := bits (field blk 1 1) (2 * (i / 8)) 2
      let nib := bits (field blk (2 + i / 2) 1) (4 * (i % 2)) 4
      let q : Int := if nib < 8 then nib else (nib : Int) - 16
      .fin (decide (q < 0)) q.natAbs ((e : Int) - 130 - s)

/-- x ÷ 2^k rounded to an integer within the bounds (R151). -/
def stepRound (mode : RMode) (lo hi : Int) (x : FP) (k : Int) : Int :=
  match x with
  | .fin n m e => roundInt mode lo hi (.fin n m (e - k))
  | x => roundInt mode lo hi x

/-- "Fits at step 2^k" for every element (R151). -/
def fitsAt (mode : RMode) (xs : List FP) (k : Int) : Bool :=
  xs.all fun x => decide (-7 ≤ stepRound mode (-8) 8 x k) && decide (stepRound mode (-8) 8 x k ≤ 7)

/-- The smallest block exponent at or above `e` at which the block fits, searched for `fuel` values (R151). -/
def zb4Exp (mode : RMode) (xs : List FP) : Nat → Nat → Option Nat
  | 0, _ => none
  | fuel + 1, e => if fitsAt mode xs ((e : Int) - 130) then some e else zb4Exp mode xs fuel (e + 1)

/-- CONVERT's ZB4 encoding of one block: its 18 bytes and whether it was clamped (R151). -/
def zb4Encode (mode : RMode) (sat : Bool) (xs : List FP) : List Byte × Bool :=
  let nanBlock := 0xFF#8 :: List.replicate 17 0#8
  if xs.any FP.isNan then (nanBlock, false)
  else if xs.any FP.isInf && !sat then (nanBlock, false)
  else
    let ys := xs.map fun x => match x with
      | .inf neg => .fin neg (2 ^ 24 - 1) 104
      | x => x
    if ys.all FP.isZero then (List.replicate 18 0#8, false)
    else
      let found := zb4Exp mode ys 255 0
      let e := found.getD 254
      let clamped := found.isNone
      let shiftOf (j : Nat) : Nat :=
        if clamped then 0
        else
          let sub := (ys.drop (8 * j)).take 8
          if fitsAt mode sub ((e : Int) - 130 - 3) then 3
          else if fitsAt mode sub ((e : Int) - 130 - 2) then 2
          else if fitsAt mode sub ((e : Int) - 130 - 1) then 1 else 0
      let nib (i : Nat) : Nat :=
        ((max (-7) (min 7 (stepRound mode (-8) 8 (ys.getD i .zero) ((e : Int) - 130 - shiftOf (i / 8))))) % 16).toNat
      let sh := shiftOf 0 + 4 * shiftOf 1 + 16 * shiftOf 2 + 64 * shiftOf 3
      (BitVec.ofNat 8 e :: BitVec.ofNat 8 sh ::
        (List.range 16).map (fun m => BitVec.ofNat 8 (nib (2 * m) + 16 * nib (2 * m + 1))), clamped)

/-- The tensor array's walk over a K chunk list in floating point: groups of 32 exact sums, each times the
combined scale and rounded, added in order to the accumulator; `none` is an accumulator with no value yet
(R153, R154). -/
def accGroup (scale : FP) (acc : Option FP) (products : List FP) : Option FP :=
  match products with
  | [] => acc
  | _ =>
    let g := rnd32 (fmul (exactSum products) scale)
    some (match acc with
      | none => g
      | some a => add32 a g)

/-- The accumulation of a list of products in groups of 32 (R153); `fuel` bounds the number of groups. -/
def accProducts (scale : FP) : Nat → Option FP → List FP → Option FP
  | 0, acc, _ => acc
  | fuel + 1, acc, ps =>
    match ps with
    | [] => acc
    | _ => accProducts scale fuel (accGroup scale acc (ps.take 32)) (ps.drop 32)

/-- The INT32 accumulator with saturation at each group of 32 products, and whether it saturated (R153);
`fuel` bounds the number of groups. -/
def accInt : Nat → Int → Bool → List Int → Int × Bool
  | 0, acc, sat, _ => (acc, sat)
  | fuel + 1, acc, sat, ps =>
    match ps with
    | [] => (acc, sat)
    | _ =>
      let v := acc + (ps.take 32).foldl (· + ·) 0
      let c := max (-(2 : Int) ^ 31) (min (2 ^ 31 - 1) v)
      accInt fuel c (sat || decide (c ≠ v)) (ps.drop 32)

end Sys2Proof.Machine
end

