-- ==== Sys2Proof/Machine/Tables.lean ====
section
/-! DEFINITION. The table unit (chapter 9): table values and their validity (R164, R165), range reduction and
evaluation (R166), the published tables (R172) and SHA-384, whose first bytes are a table's digest. -/

namespace Sys2Proof.Machine

/-- The round constants of SHA-384 (the standard governs: FIPS 180-4). -/
def shaK : List Word64 :=
  [0x428A2F98D728AE22, 0x7137449123EF65CD, 0xB5C0FBCFEC4D3B2F, 0xE9B5DBA58189DBBC,
   0x3956C25BF348B538, 0x59F111F1B605D019, 0x923F82A4AF194F9B, 0xAB1C5ED5DA6D8118,
   0xD807AA98A3030242, 0x12835B0145706FBE, 0x243185BE4EE4B28C, 0x550C7DC3D5FFB4E2,
   0x72BE5D74F27B896F, 0x80DEB1FE3B1696B1, 0x9BDC06A725C71235, 0xC19BF174CF692694,
   0xE49B69C19EF14AD2, 0xEFBE4786384F25E3, 0x0FC19DC68B8CD5B5, 0x240CA1CC77AC9C65] ++
  [0x2DE92C6F592B0275, 0x4A7484AA6EA6E483, 0x5CB0A9DCBD41FBD4, 0x76F988DA831153B5,
   0x983E5152EE66DFAB, 0xA831C66D2DB43210, 0xB00327C898FB213F, 0xBF597FC7BEEF0EE4,
   0xC6E00BF33DA88FC2, 0xD5A79147930AA725, 0x06CA6351E003826F, 0x142929670A0E6E70,
   0x27B70A8546D22FFC, 0x2E1B21385C26C926, 0x4D2C6DFC5AC42AED, 0x53380D139D95B3DF,
   0x650A73548BAF63DE, 0x766A0ABB3C77B2A8, 0x81C2C92E47EDAEE6, 0x92722C851482353B] ++
  [0xA2BFE8A14CF10364, 0xA81A664BBC423001, 0xC24B8B70D0F89791, 0xC76C51A30654BE30,
   0xD192E819D6EF5218, 0xD69906245565A910, 0xF40E35855771202A, 0x106AA07032BBD1B8,
   0x19A4C116B8D2D0C8, 0x1E376C085141AB53, 0x2748774CDF8EEB99, 0x34B0BCB5E19B48A8,
   0x391C0CB3C5C95A63, 0x4ED8AA4AE3418ACB, 0x5B9CCA4F7763E373, 0x682E6FF3D6B2B8A3,
   0x748F82EE5DEFB2FC, 0x78A5636F43172F60, 0x84C87814A1F0AB72, 0x8CC702081A6439EC] ++
  [0x90BEFFFA23631E28, 0xA4506CEBDE82BDE9, 0xBEF9A3F7B2C67915, 0xC67178F2E372532B,
   0xCA273ECEEA26619C, 0xD186B8C721C0C207, 0xEADA7DD6CDE0EB1E, 0xF57D4F7FEE6ED178,
   0x06F067AA72176FBA, 0x0A637DC5A2C898A6, 0x113F9804BEF90DAE, 0x1B710B35131C471B,
   0x28DB77F523047D84, 0x32CAAB7B40C72493, 0x3C9EBE0A15C9BEBC, 0x431D67C49C100D4C,
   0x4CC5D4BECB3E42B6, 0x597F299CFC657E2A, 0x5FCB6FAB3AD6FAEC, 0x6C44198C4A475817]

/-- The initial value of SHA-384. -/
def shaH : List Word64 :=
  [0xCBBB9D5DC1059ED8, 0x629A292A367CD507, 0x9159015A3070DD17, 0x152FECD8F70E5939,
   0x67332667FFC00B31, 0x8EB44A8768581511, 0xDB0C2E0D64F98FA7, 0x47B5481DBEFA4FA4]

/-- One round of SHA-384's compression on its eight working words. -/
def shaRound (st : List Word64) (k w : Word64) : List Word64 :=
  match st with
  | [a, b, c, d, e, f, g, h] =>
    let s1 := e.rotateRight 14 ^^^ e.rotateRight 18 ^^^ e.rotateRight 41
    let ch := (e &&& f) ^^^ (~~~e &&& g)
    let t1 := h + s1 + ch + k + w
    let s0 := a.rotateRight 28 ^^^ a.rotateRight 34 ^^^ a.rotateRight 39
    let maj := (a &&& b) ^^^ (a &&& c) ^^^ (b &&& c)
    [t1 + (s0 + maj), a, b, c, d + t1, e, f, g]
  | st => st

/-- The message schedule, newest word first: 16 words extended `n` times. -/
def shaExtend : Nat → List Word64 → List Word64
  | 0, ws => ws
  | n + 1, ws =>
    let w15 := ws.getD 14 0
    let w2 := ws.getD 1 0
    let s0 := w15.rotateRight 1 ^^^ w15.rotateRight 8 ^^^ (w15 >>> 7)
    let s1 := w2.rotateRight 19 ^^^ w2.rotateRight 61 ^^^ (w2 >>> 6)
    shaExtend n ((ws.getD 15 0 + s0 + ws.getD 6 0 + s1) :: ws)

/-- The compression of one 128-byte block, its 16 words given in order. -/
def shaBlock (st : List Word64) (blk : List Word64) : List Word64 :=
  let ws := (shaExtend 64 blk.reverse).reverse
  let r := ((shaK.zip ws).foldl (fun s kw => shaRound s kw.1 kw.2) st)
  (st.zip r).map fun p => p.1 + p.2

/-- A big-endian number of a list of bytes. -/
def beNat (bs : List Byte) : Nat := bs.foldl (fun a b => 256 * a + b.toNat) 0

/-- `n` bytes of a number, most significant first. -/
def beBytes (n v : Nat) : List Byte := (leBytes n v).reverse

/-- The blocks of a padded message folded into the state; `fuel` bounds their number. -/
def shaBlocks : Nat → List Word64 → List Byte → List Word64
  | 0, st, _ => st
  | fuel + 1, st, bs =>
    match bs with
    | [] => st
    | _ =>
      shaBlocks fuel (shaBlock st ((List.range 16).map fun i => BitVec.ofNat 64 (beNat (bytesAt bs (8 * i) 8))))
        (bs.drop 128)

/-- SHA-384 of a byte string, 48 bytes. -/
def sha384 (msg : List Byte) : List Byte :=
  let n := msg.length
  let pad := (239 - n % 128) % 128
  let full := msg ++ (0x80#8 :: List.replicate pad 0#8) ++ beBytes 16 (8 * n)
  ((shaBlocks (full.length / 128 + 1) shaH full).take 6).flatMap fun w => beBytes 8 w.toNat

/-- One segment of a table: breakpoint, slope and intercept as FP32 bits (Table 9.1). -/
structure Seg where
  b : Nat
  a : Nat
  c : Nat
deriving DecidableEq, Repr, Inhabited

/-- A table of the table unit, without its slot byte (Table 9.1). -/
structure SfnTable where
  mode : Nat := 0
  preScale : Nat := 0x3F800000
  k : Nat := 0
  segs : List Seg := []
deriving DecidableEq, Repr, Inhabited

/-- The FP32 value of 32 bits. -/
def f32 (v : Nat) : FP := decodeElem .fp32 v

/-- Is the FP32 bit pattern finite? -/
def finite32 (v : Nat) : Bool := bits v 23 8 != 255

/-- The table a record value holds (R164). -/
def SfnTable.parse (bs : List Byte) : SfnTable :=
  { mode := field bs 1 1, preScale := field bs 4 4, k := field bs 8 4,
    segs := (List.range (field bs 2 1)).map fun i =>
      { b := field bs (0x10 + 12 * i) 4, a := field bs (0x14 + 12 * i) 4, c := field bs (0x18 + 12 * i) 4 } }

/-- Are the breakpoints strictly ascending? -/
def ascendingSegs : List Seg → Bool
  | x :: y :: rest => flt (f32 x.b) (f32 y.b) && ascendingSegs (y :: rest)
  | _ => true

/-- A table value is valid (R165). -/
def tableValid (bs : List Byte) : Bool :=
  let t := SfnTable.parse bs
  let s := field bs 2 1
  decide (field bs 0 1 ≤ 31) && decide (t.mode ≤ 5) && decide (1 ≤ s ∧ s ≤ 64) && decide (field bs 3 1 = 0)
    && finite32 t.preScale && !(f32 t.preScale).isZero
    && finite32 t.k && (decide (t.mode = 2) || decide (t.k = 0))
    && decide (field bs 0x0C 4 = 0)
    && t.segs.all (fun g => finite32 g.b && finite32 g.a && finite32 g.c)
    && ascendingSegs t.segs && decide (bs.length = 16 + 12 * s)

/-- The value bytes 0x01 to the end (R172). -/
def SfnTable.valueBytes (t : SfnTable) : List Byte :=
  leBytes 1 t.mode ++ leBytes 1 t.segs.length ++ [0#8] ++ leBytes 4 t.preScale ++ leBytes 4 t.k ++ leBytes 4 0
    ++ t.segs.flatMap fun g => leBytes 4 g.b ++ leBytes 4 g.a ++ leBytes 4 g.c

/-- The first 64 bits of a table's digest, byte 0 in bits [7:0] (Table 9.8). -/
def SfnTable.digest (t : SfnTable) : Nat := leNat ((sha384 t.valueBytes).take 8)

/-- The segment for an input: the last one whose breakpoint is at or below it, or segment 0 (R166). -/
def segFor (t : SfnTable) (u : FP) : Seg :=
  t.segs.foldl (fun best g => if flt u (f32 g.b) then best else g) (t.segs.headD default)

/-- T(u) (R166). -/
def tableT (t : SfnTable) (u : FP) : FP :=
  let g := segFor t u
  if u.isInf then (if (f32 g.a).isZero then f32 g.c else rnd32 (fmul (f32 g.a) u))
  else fma32 (f32 g.a) u (f32 g.c)

/-- floor of a finite value. -/
def floorFP : FP → Int
  | .fin neg m e => roundInt .down (-(2 : Int) ^ 200) (2 ^ 200) (.fin neg m e)
  | _ => 0

/-- x′ = u × 2^e with 1 ≤ u < 2: the exponent e (R166). -/
def expOf : FP → Int
  | .fin _ m e => (Nat.log2 m : Int) + e
  | _ => 0

/-- A finite value times 2^k, exactly. -/
def scaleFP (x : FP) (k : Int) : FP :=
  match x with
  | .fin n m e => .fin n m (e + k)
  | x => x

/-- The table unit's result on an FP32 input (R166, Table 9.2). EXP2 clamps n: an FP32 value times 2^400 or more is
infinite, and times 2^-400 or less it rounds to zero. -/
def evalTable (t : SfnTable) (x : FP) : FP :=
  if x.isNan then .nan else
  let x' := mul32 x (f32 t.preScale)
  match t.mode with
  | 1 =>
    match x' with
    | .inf neg => if neg then .zero else .inf false
    | _ =>
      let n := floorFP x'
      rnd32 (scaleFP (tableT t (fadd x' (fneg (ofInt n)))) (max (-400) (min 400 n)))
  | 2 =>
    if x'.isZero then .inf true
    else if x'.neg then .nan
    else if x'.isInf then .inf false
    else
      let e := expOf x'
      fma32 (ofInt e) (f32 t.k) (tableT t (scaleFP x' (-e)))
  | 3 =>
    let y := tableT t x'.abs
    if x'.neg then fneg y else y
  | 4 => tableT t x'.abs
  | 5 =>
    if x'.isZero then .inf false
    else if x'.neg then .nan
    else if x'.isInf then .zero
    else
      let e := Int.ediv (expOf x') 2
      rnd32 (scaleFP (tableT t (scaleFP x' (-(2 * e)))) (-e))
  | _ => tableT t x'

/-- 2^x at i ÷ 64, correctly rounded to FP32 (R172, Table 9.3). -/
def exp2F : List Nat :=
  [0x3F800000, 0x3F8164D2, 0x3F82CD87, 0x3F843A29, 0x3F85AAC3, 0x3F871F62, 0x3F88980F, 0x3F8A14D5,
   0x3F8B95C2, 0x3F8D1ADF, 0x3F8EA43A, 0x3F9031DC, 0x3F91C3D3, 0x3F935A2B, 0x3F94F4F0, 0x3F96942D,
   0x3F9837F0, 0x3F99E046, 0x3F9B8D3A, 0x3F9D3EDA, 0x3F9EF532, 0x3FA0B051, 0x3FA27043, 0x3FA43516,
   0x3FA5FED7, 0x3FA7CD94, 0x3FA9A15B, 0x3FAB7A3A, 0x3FAD583F, 0x3FAF3B79, 0x3FB123F6, 0x3FB311C4] ++
  [0x3FB504F3, 0x3FB6FD92, 0x3FB8FBAF, 0x3FBAFF5B, 0x3FBD08A4, 0x3FBF179A, 0x3FC12C4D, 0x3FC346CD,
   0x3FC5672A, 0x3FC78D75, 0x3FC9B9BE, 0x3FCBEC15, 0x3FCE248C, 0x3FD06334, 0x3FD2A81E, 0x3FD4F35B,
   0x3FD744FD, 0x3FD99D16, 0x3FDBFBB8, 0x3FDE60F5, 0x3FE0CCDF, 0x3FE33F89, 0x3FE5B907, 0x3FE8396A,
   0x3FEAC0C7, 0x3FED4F30, 0x3FEFE4BA, 0x3FF28177, 0x3FF5257D, 0x3FF7D0DF, 0x3FFA83B3, 0x3FFD3E0C] ++
  [0x40000000]

/-- log2 x at 1 + i ÷ 64, correctly rounded to FP32 (R172, Table 9.3). -/
def log2F : List Nat :=
  [0x00000000, 0x3CB73CB4, 0x3D35D69C, 0x3D8759C5, 0x3DB31FB8, 0x3DDE4212, 0x3E0462C4, 0x3E19574F,
   0x3E2E00D2, 0x3E42615F, 0x3E567AF1, 0x3E6A4F72, 0x3E7DE0B6, 0x3E88983F, 0x3E92203D, 0x3E9B8926,
   0x3EA4D3C2, 0x3EAE00D2, 0x3EB7110E, 0x3EC0052B, 0x3EC8DDD4, 0x3ED19BB0, 0x3EDA3F60, 0x3EE2C97D,
   0x3EEB3A9F, 0x3EF39355, 0x3EFBD42B, 0x3F01FED4, 0x3F060828, 0x3F0A0650, 0x3F0DF989, 0x3F11E20F] ++
  [0x3F15C01A, 0x3F1993E3, 0x3F1D5DA0, 0x3F211D84, 0x3F24D3C2, 0x3F28808C, 0x3F2C2411, 0x3F2FBE80,
   0x3F335004, 0x3F36D8CB, 0x3F3A58FF, 0x3F3DD0C8, 0x3F41404F, 0x3F44A7BA, 0x3F480731, 0x3F4B5ED7,
   0x3F4EAED0, 0x3F51F740, 0x3F553848, 0x3F587209, 0x3F5BA4A4, 0x3F5ED039, 0x3F61F4E5, 0x3F6512C7,
   0x3F6829FB, 0x3F6B3A9F, 0x3F6E44CD, 0x3F7148A1, 0x3F744636, 0x3F773DA4, 0x3F7A2F04, 0x3F7D1A71] ++
  [0x3F800000]

/-- ln x at 1 + i ÷ 64, correctly rounded to FP32 (R172, Table 9.3). -/
def lnF : List Nat :=
  [0x00000000, 0x3C7E0546, 0x3CFC14D8, 0x3D3BA2C8, 0x3D785186, 0x3D9A0EBD, 0x3DB78694, 0x3DD4936A,
   0x3DF1383B, 0x3E06BBF4, 0x3E14AA98, 0x3E22695B, 0x3E2FF984, 0x3E3D5C48, 0x3E4A92D5, 0x3E579E4A,
   0x3E647FBE, 0x3E71383B, 0x3E7DC8C3, 0x3E851927, 0x3E8B3AE5, 0x3E914A10, 0x3E974716, 0x3E9D3263,
   0x3EA30C5E, 0x3EA8D56C, 0x3EAE8DEE, 0x3EB43641, 0x3EB9CEC0, 0x3EBF57C2, 0x3EC4D19C, 0x3ECA3CA1] ++
  [0x3ECF991F, 0x3ED4E765, 0x3EDA27BC, 0x3EDF5A6D, 0x3EE47FBE, 0x3EE997F4, 0x3EEEA350, 0x3EF3A213,
   0x3EF8947B, 0x3EFD7AC4, 0x3F012A95, 0x3F0391F3, 0x3F05F397, 0x3F084F9D, 0x3F0AA61F, 0x3F0CF736,
   0x3F0F42FB, 0x3F118987, 0x3F13CAF1, 0x3F16074F, 0x3F183EBA, 0x3F1A7145, 0x3F1C9F07, 0x3F1EC813,
   0x3F20EC7F, 0x3F230C5E, 0x3F2527C3, 0x3F273EC1, 0x3F295169, 0x3F2B5FCF, 0x3F2D6A02, 0x3F2F7015] ++
  [0x3F317218]

/-- x^(-1/2) at 1 + 3i ÷ 64, correctly rounded to FP32 (R172, Table 9.3). -/
def rsqrtF : List Nat :=
  [0x3F800000, 0x3F7A33F9, 0x3F74C867, 0x3F6FB345, 0x3F6AEBF5, 0x3F666B02, 0x3F6229ED, 0x3F5E2305,
   0x3F5A514A, 0x3F56B051, 0x3F533C2E, 0x3F4FF162, 0x3F4CCCCD, 0x3F49CBA2, 0x3F46EB5A, 0x3F4429AF,
   0x3F41848F, 0x3F3EFA1C, 0x3F3C889F, 0x3F3A2E8C, 0x3F37EA74, 0x3F35BB09, 0x3F339F19, 0x3F319589,
   0x3F2F9D53, 0x3F2DB587, 0x3F2BDD46, 0x3F2A13C0, 0x3F285835, 0x3F26A9F4, 0x3F250855, 0x3F2372BD] ++
  [0x3F21E89B, 0x3F206968, 0x3F1EF4A4, 0x3F1D89D9, 0x3F1C2896, 0x3F1AD073, 0x3F19810C, 0x3F183A05,
   0x3F16FB06, 0x3F15C3BC, 0x3F1493D9, 0x3F136B13, 0x3F124925, 0x3F112DCA, 0x3F1018C6, 0x3F0F09DD,
   0x3F0E00D5, 0x3F0CFD79, 0x3F0BFF97, 0x3F0B06FD, 0x3F0A137D, 0x3F0924EC, 0x3F083B1E, 0x3F0755ED,
   0x3F067532, 0x3F0598C7, 0x3F04C08B, 0x3F03EC5C, 0x3F031C1A, 0x3F024FA6, 0x3F0186E2, 0x3F00C1B4] ++
  [0x3F000000]

/-- the logistic function at -7.75 + 0.25 i, correctly rounded to FP32 (R172, Table 9.3). -/
def sigmoidF : List Nat :=
  [0x39E1BC65, 0x3A10E859, 0x3A3A092D, 0x3A6ED39C, 0x3A994A41, 0x3AC4C351, 0x3AFC8A7D, 0x3B220BBC,
   0x3B4FECC9, 0x3B855ECA, 0x3BAB0D97, 0x3BDB4FB4, 0x3C0C8895, 0x3C340294, 0x3C666B21, 0x3C9357D1,
   0x3CBC3B0A, 0x3CF02034, 0x3D18E414, 0x3D4241A2, 0x3D761D6B, 0x3D9B5B89, 0x3DC34695, 0x3DF420A9,
   0x3E1799AF, 0x3E3ACDC2, 0x3E640B81, 0x3E89B2B1, 0x3EA442B1, 0x3EC14D03, 0x3EE02A67, 0x3F000000] ++
  [0x3F0FEACD, 0x3F1F597F, 0x3F2DDEA8, 0x3F3B26A8, 0x3F46FD20, 0x3F514C90, 0x3F5A1994, 0x3F617BEB,
   0x3F67972D, 0x3F6C948F, 0x3F709E29, 0x3F73DBE6, 0x3F7671BF, 0x3F787EFE, 0x3F7A1E28, 0x3F7B6541,
   0x3F7C6653, 0x3F7D2FF6, 0x3F7DCDDE, 0x3F7E4961, 0x3F7EA9E5, 0x3F7EF542, 0x3F7F3013, 0x3F7F5DF4,
   0x3F7F81BB, 0x3F7F9D9E, 0x3F7FB35B, 0x3F7FC44B, 0x3F7FD17E, 0x3F7FDBC6, 0x3F7FE3C8]

/-- x times the logistic function at -7.75 + 0.25 i, correctly rounded to FP32 (R172, Table 9.3). -/
def siluF : List Nat :=
  [0xBB5AAE82, 0xBB87D9D3, 0xBBA89850, 0xBBD0F929, 0xBC0156A7, 0xBC1FDEB2, 0xBC454C31, 0xBC731199,
   0xBC957231, 0xBCB76256, 0xBCE081D6, 0xBD0911D0, 0xBD26E231, 0xBD4A82E6, 0xBD74D1D3, 0xBD9357D1,
   0xBDB07759, 0xBDD21C2E, 0xBDF872A1, 0xBE11B139, 0xBE29343A, 0xBE42326B, 0xBE5BAF67, 0xBE7420A9,
   0xBE84A679, 0xBE8C1A51, 0xBE8E8731, 0xBE89B2B1, 0xBE766409, 0xBE414D03, 0xBDE02A67, 0x00000000] ++
  [0x3E0FEACD, 0x3E9F597F, 0x3F0266FE, 0x3F3B26A8, 0x3F78BC68, 0x3F9CF96C, 0x3FBED662, 0x3FE17BEB,
   0x4002450A, 0x4013DCD9, 0x40256CBC, 0x4036E4EC, 0x40483C6B, 0x40596F1F, 0x406A7C45, 0x407B6541,
   0x4086165C, 0x408E6AFA, 0x4096B23C, 0x409EEDDC, 0x40A71F7E, 0x40AF489E, 0x40B76A8E, 0x40BF8677,
   0x40C79D5A, 0x40CFB011, 0x40D7BF55, 0x40DFCBC2, 0x40E7D5DA, 0x40EFDE0A, 0x40F7E4AA]

/-- ln (1 + e^x) at -7.75 + 0.25 i, correctly rounded to FP32 (R172, Table 9.3). -/
def softplusF : List Nat :=
  [0x39E1C8D6, 0x3A10F29A, 0x3A3A1A15, 0x3A6EEF7A, 0x3A996138, 0x3AC4E92A, 0x3AFCC8D9, 0x3B223F1B,
   0x3B504167, 0x3B85A476, 0x3BAB8048, 0x3BDC0C6D, 0x3C0D23C4, 0x3C35019A, 0x3C680DD8, 0x3C94AF28,
   0x3CBE6D46, 0x3CF3B726, 0x3D1BD145, 0x3D470388, 0x3D7DD1BA, 0x3DA190F1, 0x3DCD3919, 0x3E01F96B,
   0x3E2411CD, 0x3E4E3F48, 0x3E80FCD9, 0x3EA063D6, 0x3EC613F5, 0x3EF2BA38, 0x3F1370C4, 0x3F317218] ++
  [0x3F5370C4, 0x3F795D1C, 0x3F9184FD, 0x3FA818F5, 0x3FC03F36, 0x3FD9C7E9, 0x3FF4823A, 0x40081F97,
   0x401669C9, 0x40250C88, 0x4033F747, 0x40431C0E, 0x40526F45, 0x4061E76E, 0x40717CDB, 0x408094AF,
   0x40887407, 0x40905A81, 0x40984692, 0x40A03703, 0x40A82AE0, 0x40B02169, 0x40B81A08, 0x40C01448,
   0x40C80FCD, 0x40D00C4F, 0x40D80996, 0x40E00777, 0x40E805D1, 0x40F00488, 0x40F80387]

/-- tanh x at i ÷ 16, correctly rounded to FP32 (R172, Table 9.3). -/
def tanhF : List Nat :=
  [0x00000000, 0x3D7FAACD, 0x3DFEACC9, 0x3E3DC7FD, 0x3E7ACBF5, 0x3E9AFCC5, 0x3EB77A9F, 0x3ED2B94F,
   0x3EEC9A9F, 0x3F028438, 0x3F0DFA3F, 0x3F18ABF0, 0x3F22991F, 0x3F2BC480, 0x3F343328, 0x3F3BEC1C,
   0x3F42F7D6, 0x3F495FDA, 0x3F4F2E5B, 0x3F546DE6, 0x3F59291E, 0x3F5D6A85, 0x3F613C53, 0x3F64A852,
   0x3F67B7CC, 0x3F6A737A, 0x3F6CE37D, 0x3F6F0F5B, 0x3F70FDFD, 0x3F72B5B8, 0x3F743C4F, 0x3F7596FF] ++
  [0x3F76CA83, 0x3F77DB1E, 0x3F78CCA7, 0x3F79A28F, 0x3F7A5FEB, 0x3F7B077E, 0x3F7B9BBB, 0x3F7C1ED6,
   0x3F7C92C1, 0x3F7CF939, 0x3F7D53CA, 0x3F7DA3D0, 0x3F7DEA85, 0x3F7E28FB, 0x3F7E6026, 0x3F7E90E0,
   0x3F7EBBE9, 0x3F7EE1E8, 0x3F7F0376, 0x3F7F2115, 0x3F7F3B3D, 0x3F7F5254, 0x3F7F66B6, 0x3F7F78B4,
   0x3F7F8896, 0x3F7F969B, 0x3F7FA2FB, 0x3F7FADE8, 0x3F7FB78C, 0x3F7FC00E, 0x3F7FC791, 0x3F7FCE32]

/-- erf x at i ÷ 16, correctly rounded to FP32 (R172, Table 9.3). -/
def erfF : List Nat :=
  [0x00000000, 0x3D903EA4, 0x3E0FAF0D, 0x3E5622F2, 0x3E8D7AA7, 0x3EAED4FA, 0x3ECEE869, 0x3EED840E,
   0x3F053F7B, 0x3F12DC54, 0x3F1F8CB7, 0x3F2B4922, 0x3F360E4C, 0x3F3FDCE0, 0x3F48B925, 0x3F50AA8D,
   0x3F57BB3D, 0x3F5DF788, 0x3F636D69, 0x3F682C06, 0x3F6C432F, 0x3F6FC2F5, 0x3F72BB46, 0x3F753B98,
   0x3F7752AB, 0x3F790E50, 0x3F7A7B4A, 0x3F7BA537, 0x3F7C9684, 0x3F7D586F, 0x3F7DF30F, 0x3F7E6D66] ++
  [0x3F7ECD71, 0x3F7F1840, 0x3F7F5211, 0x3F7F7E67, 0x3F7FA024, 0x3F7FB99C, 0x3F7FCCB0, 0x3F7FDADF,
   0x3F7FE554, 0x3F7FECFC, 0x3F7FF28A, 0x3F7FF68B, 0x3F7FF968, 0x3F7FFB6F, 0x3F7FFCDD, 0x3F7FFDDC,
   0x3F7FFE8D, 0x3F7FFF07, 0x3F7FFF5A, 0x3F7FFF92, 0x3F7FFFB8, 0x3F7FFFD1, 0x3F7FFFE2, 0x3F7FFFEC,
   0x3F7FFFF4, 0x3F7FFFF8, 0x3F7FFFFB, 0x3F7FFFFD, 0x3F7FFFFE, 0x3F7FFFFF, 0x3F7FFFFF, 0x3F800000]

/-- x (1 + erf (x ÷ √2)) ÷ 2 at -3.875 + 0.125 i, correctly rounded to FP32 (R172, Table 9.3). -/
def geluF : List Nat :=
  [0xB9589ED6, 0xB9ADD5E0, 0xBA094BC6, 0xBA557028, 0xBAA344BC, 0xBAF5CDAE, 0xBB361288, 0xBB84B34C,
   0xBBBE5028, 0xBC064197, 0xBC3A5477, 0xBC7E590F, 0xBCAAB758, 0xBCE1524D, 0xBD122B40, 0xBD3A5E7C,
   0xBD6971AE, 0xBD8F9270, 0xBDAD5395, 0xBDCD3B52, 0xBDEE2317, 0xBE073B51, 0xBE16196B, 0xBE227686,
   0xBE2AF1F3, 0xBE2E0CC0, 0xBE2A3B12, 0xBE1DF8A2, 0xBE07DEED, 0xBDCD765D, 0xBD6688B6, 0x00000000] ++
  [0x3D8CBBA5, 0x3E1944D1, 0x3E782113, 0x3EB103AF, 0x3EEAE277, 0x3F147CD0, 0x3F354383, 0x3F57625F,
   0x3F7A79A5, 0x3F8F1896, 0x3FA11DCF, 0x3FB32C4B, 0x3FC52AC7, 0x3FD706D9, 0x3FE8B473, 0x3FFA2D0C,
   0x4005B753, 0x400E3D5B, 0x4016AA91, 0x401F01A7, 0x402745AC, 0x402F79BE, 0x4037A0D8, 0x403FBDA6,
   0x4047D27B, 0x404FE146, 0x4057EB97, 0x405FF2A9, 0x4067F76B, 0x406FFA91, 0x4077FC9E]

/-- The FP32 bits nearest a rational given as a signed numerator and a positive denominator. -/
def rat32 (num : Int) (den : Nat) : Nat :=
  encodeElem .fp32 (roundRat .fp32 .nearest .ieee (decide (num < 0)) num.natAbs den)

/-- A finite FP32 value as an integer multiple of 2^-149. -/
def fix149 (v : Nat) : Int :=
  match f32 v with
  | .fin n m e => signedAt n m e (-149)
  | _ => 0

/-- The chord of a function over [b, b'], its end values F and F' given as FP32 bits; b and b' are multiples of
1 ÷ 64, given as numerators (R172). -/
def chord (b b' : Int) (fb fb' : Nat) : Seg :=
  let df := fix149 fb' - fix149 fb
  let db := b' - b
  { b := rat32 b 64
    a := rat32 (64 * df) (db.toNat * 2 ^ 149)
    c := rat32 (fix149 fb * db - df * b) (db.toNat * 2 ^ 149) }

/-- The chords between consecutive points of a list of values, from breakpoint `b` in steps of `step` (÷ 64). -/
def chords (b step : Int) : List Nat → List Seg
  | x :: y :: rest => chord b (b + step) x y :: chords (b + step) step (y :: rest)
  | _ => []

/-- A segment given explicitly as (b, a, c) in 64ths, ones and ones. -/
def endSeg (b : Int) (a c : Nat) : Seg := { b := rat32 b 64, a := rat32 a 1, c := rat32 c 1 }

/-- The published tables of slots 0 to 12 (R172, Table 9.3). -/
def publishedTable : Nat → Option SfnTable
  | 0 => some { mode := 1, segs := chords 0 1 exp2F }
  | 1 => some { mode := 1, preScale := 0x3FB8AA3B, segs := chords 0 1 exp2F }
  | 2 => some { mode := 2, k := 0x3F800000, segs := chords 64 1 log2F }
  | 3 => some { mode := 2, k := 0x3F317218, segs := chords 64 1 lnF }
  | 4 => some { mode := 5, segs := chords 64 3 rsqrtF }
  | 5 => some { mode := 0, segs := endSeg (-512) 0 0 :: chords (-496) 16 sigmoidF ++ [endSeg 496 0 1] }
  | 6 => some { mode := 3, segs := chords 0 4 tanhF ++ [endSeg 252 0 1] }
  | 7 => some { mode := 0, segs := endSeg (-256) 0 0 :: chords (-248) 8 geluF ++ [endSeg 248 1 0] }
  | 8 => some { mode := 0, segs := endSeg (-512) 0 0 :: chords (-496) 16 siluF ++ [endSeg 496 1 0] }
  | 9 => some { mode := 0, segs := endSeg (-512) 0 0 :: chords (-496) 16 softplusF ++ [endSeg 496 1 0] }
  | 10 => some { mode := 3, segs := chords 0 4 erfF ++ [endSeg 252 0 1] }
  | 11 => some { mode := 0, segs := [endSeg (-64) 0 0, endSeg 0 1 0] }
  | 12 => some { mode := 0, segs := [endSeg 0 1 0] }
  | _ => none

/-- The fixed EXP2 and RSQRT tables of ATTEND and NORM (R167). -/
def fixedExp2 : SfnTable := (publishedTable 0).getD {}
def fixedRsqrt : SfnTable := (publishedTable 4).getD {}

end Sys2Proof.Machine
end

