-- ==== Sys2Proof/Machine/Types.lean ====
section
/-! DEFINITION. The kinds of data that the commands and the state share: what the outside world answers, what the
package sends, and the state of the claims, shoes and the ledger (chapters 4 to 6 of the spec). -/

namespace Sys2Proof.Machine

/-- What a host memory read brought back: the bytes, or an error (R289: a timeout, UR, CA or poison). -/
inductive HostResp where
  | ok (bytes : List Byte)
  | err
deriving DecidableEq, Repr, Inhabited

/-- What the package sends outside; every constructor is one effect that an outside agent can see. -/
inductive Output where
  /-- A posted PCIe memory write by function `fn` (0 physical, n + 1 claim n). -/
  | hostWrite (fn addr : Nat) (bytes : List Byte)
  /-- A PCIe memory read issued by function `fn`. -/
  | hostRead (fn addr len : Nat)
  /-- An MSI-X message of a function's vector. -/
  | msix (fn vector : Nat)
  /-- A PCIe completion with Unsupported Request. -/
  | unsupported (fn : Nat)
  /-- The 256 bytes of a flit on a port's lane (Table 12.4). -/
  | flit (port lane : Nat) (bytes : List Byte)
  /-- Training sequences begin on a port, or its lanes go to electrical idle. -/
  | training (port : Nat)
  | idle (port : Nat)
  /-- What an Ethernet port sends: 0 a raw frame; 1 a packet of a request, 2 ACK, 3 NAK, 4 RNR NAK, 5 a packet of a READ
  response and 6 CNP of a queue pair, whose fields begin with its addresses, DSCP and ECN; 7 a PFC frame. -/
  | ethernet (port kind : Nat) (fields : List Nat) (payload : List Byte)
  /-- A management message on SMBus: its MCTP type, its command, its completion code and what it carries. -/
  | mgmt (type command completion : Nat) (data : List Byte)
  /-- The completion of a host's read of a register: function, offset and value. -/
  | regRead (fn off value : Nat)
  /-- A level driven on a pin. -/
  | pin (name : String) (level : Bool)
  /-- The pin beat sent on: the count, and the high time of the pulse in thousandths of the period (R48). -/
  | beat (count high : Nat)
  /-- What a JTAG data register holds: 0 IDCODE, 1 bypass, 2 boundary, 4 the access port's answer (R390). -/
  | jtag (reg value : Nat)
  /-- A command on AVSBus. -/
  | avs (rail value : Nat)
deriving DecidableEq, Repr, Inhabited

/-- What the lanes of a port find while they train (Table 12.2, steps 1 to 6): this end's and the peer's good-lane
bitmaps, reversal, the lanes with inverted polarity, the peer's max_lanes and the mean echo round trip in ns. -/
structure TrainResult where
  good : Nat := 0
  peerGood : Nat := 0
  isReversed : Bool := false
  polarity : Nat := 0
  peerMax : Nat := 8
  roundTrip : Nat := 0
deriving DecidableEq, Repr, Inhabited

/-- What the environment decides about a boot or a die release: the step (Table 2.7) at which it rests for want of an
answer, 0 for none; for how many ns the reset that ends was held; and the Swezo-P links that do not train.
DESIGN CHOICE, log entry 13. -/
structure BootEnv where
  stall : Nat := 0
  heldNs : Nat := 0
  failed : List Nat := []
deriving DecidableEq, Repr, Inhabited

/-- What the debug access port is asked for (R390). -/
inductive DapAction where
  | scan
  | observe (core ctx res idx : Nat)
  | halt (claim : Nat)
  | step (claim : Nat)
  | resume (claim : Nat)
deriving DecidableEq, Repr, Inhabited

/-- What the monitors report of a unit when roll call looks: class, unit, powered, enabled, healthy, faulted. -/
structure UnitView where
  cls : Nat
  idx : Nat
  powered : Bool
  enabled : Bool
  healthy : Bool
  faulted : Bool
deriving DecidableEq, Repr, Inhabited

/-- The action whose host memory read ends in an error (R289): the fetch of a shoe's entry, or of the deck that the
entry (already read) names; a command by item, level and granule; a queue-pair command or an entry of a send or receive
queue; a raw send slot; a security block. -/
inductive ReadTarget where
  | entry (shoe : Nat)
  | deck (shoe : Nat) (entry : List Byte)
  | waitMem (shoe seq level granule : Nat)
  | call (shoe seq level granule : Nat)
  | laneDeck (shoe seq level granule : Nat)
  | hostCopy (shoe seq level granule : Nat)
  | claimBlock (create : Bool) (seq level : Nat)
  | table (seq level : Nat)
  | common (seq level : Nat)
  | qpContext (claim : Nat) (create : Bool) (handle : Nat)
  | sendEntry (claim handle produce : Nat)
  | recvEntry (claim handle produce : Nat)
  | rawSlot (control : Nat)
  | keySlot
  | grant
  | unlock (env : BootEnv)
deriving DecidableEq, Repr, Inhabited

/-- A headframe structure in which a word is uncorrectable (Table 17.7). -/
inductive HeadFault where
  | store (shoe seq : Nat)
  | subdeck (lane : Nat)
  | dispatch (mid : Nat)
  | tally (n : Nat)
  | ledgerCopy (shoe seq : Nat)
  | ledgerBoth (shoe seq : Nat)
deriving DecidableEq, Repr, Inhabited

/-- CLM_STATUS.state (R64, Table 4.11). -/
inductive ClaimState where
  | free
  | active
  | resetting
  | releasing
deriving DecidableEq, Repr, Inhabited

/-- The code of a claim state in CLM_STATUS.state (Table 4.11). -/
def ClaimState.code : ClaimState → Nat
  | .free => 0
  | .active => 1
  | .resetting => 2
  | .releasing => 3

/-- One claim's parameters, holds and reset report (Tables 4.11 to 4.16). -/
structure Claim where
  st : ClaimState := .free
  ledgerFull : Bool := false
  /-- The beat count at whose edge checkpoint_window clears, while a window is open (R80). -/
  ckptUntil : Option Nat := none
  ledgerQuota : Nat := 0
  t1Pages : Nat := 0
  t2Pages : Nat := 0
  queuePairs : Nat := 0
  tallyBase : Nat := 0
  tallyCount : Nat := 0
  descriptors : Nat := 0
  vectors : Nat := 0
  activeProfile : Nat := 0
  profiles : Vector Word32 8 := Vector.replicate 8 0
  /-- Effective reserved stakes; above the profile's value while a lowering is pending (R76). -/
  effResv : Nat := 0
  resvPending : Bool := false
  resetLast : Nat := 0
  resetFailed : Nat := 0
  resetCompleted : Nat := 0
  /-- What a release has resolved, for CLM_RESET_LAST and CLM_RESET_COUNTS at its step 5: the last sequence number, if
  any, and the items failed and completed (R70). -/
  report : Option (Option Nat × Nat × Nat) := none
  /-- The T1 frames of the pinned descriptor table, in order (R68). -/
  descFrames : List Nat := []
  /-- The step of a release or a function-level reset in progress, and the item that waits on the release. -/
  releaseItem : Option Nat := none
deriving DecidableEq, Repr, Inhabited

/-- One event ring's registers and counters (R80, R81, Table 4.19). -/
structure EvtRing where
  base : Nat := 0
  sizeLog2 : Nat := 0
  enable : Bool := false
  consumed : Nat := 0
  produce : Nat := 0
  overflow : Bool := false
  lost : Nat := 0
  validPhase : Bool := false
  /-- The number the next event takes (R80: from 1, never reused until cold start). -/
  nextEvent : Nat := 1
  /-- Events that wait for bus mastering (R288): type, cause and the bodies of their records. -/
  waiting : List (Nat × Nat × List (List Byte)) := []
deriving DecidableEq, Repr, Inhabited

/-- A real-time lane binding (Table 4.18). -/
structure RtBind where
  lane : Nat := 0
  claim : Nat := 0
  valid : Bool := false
deriving DecidableEq, Repr, Inhabited

/-- What an engine (a lane or a core) keeps to arbitrate among claims (R71, R78). Times are ns. -/
structure Arb where
  credit : Vector Int 8 := Vector.replicate 8 0
  beyond : Vector Nat 8 := Vector.replicate 8 0
  boost : Vector Nat 8 := Vector.replicate 8 0
  /-- The claim that holds the grant, and whether the grant was made at levels 1 to 3. -/
  grant : Option (Nat × Bool) := none
deriving DecidableEq, Repr, Inhabited

/-- One shoe's registers (Table 5.8) and what the Dealer keeps beside them. -/
structure Shoe where
  base : Nat := 0
  sizeLog2 : Nat := 0
  enable : Bool := false
  timeoutUs : Nat := 0xF4240
  produce : Nat := 0
  fetch : Nat := 0
  configError : Bool := false
  resumeWait : Bool := false
  nextSeq : Nat := 1
  scorecard : Nat := 0
  lastScore : Nat := 0
  sheetBase : Nat := 0
  sheetSizeLog2 : Nat := 0
  sheetEnable : Bool := false
  consumed : Nat := 0
  sheetProduce : Nat := 0
  sheetPhase : Bool := false
  modCount : Nat := 1
  modDelay : Nat := 0
  /-- Items that have advanced the scorecard since the last source 0 message (R106). -/
  modItems : Nat := 0
  /-- The item that holds the call store, and the bytes of it in use (R115). -/
  callOwner : Option Nat := none
  callUsed : Nat := 0
  /-- The next due outcome could not be written for want of sheet room (R104). -/
  sheetHold : Bool := false
  /-- Items numbered below it were resolved when the registers last reset: they are written, once the shoe is enabled,
  before any entry is fetched (R105). -/
  backlog : Nat := 0
  /-- The scorecard is still to be written for an enable of the shoe (R103, R288). -/
  scoreDue : Bool := false
deriving DecidableEq, Repr, Inhabited

/-- Table 6.1. -/
inductive ItemState where
  | fetching
  | queued
  | running
  | committed
  | resolved
deriving DecidableEq, Repr, Inhabited

/-- The code of Table 6.1. -/
def ItemState.code : ItemState → Nat
  | .fetching => 0
  | .queued => 1
  | .running => 2
  | .committed => 3
  | .resolved => 4

/-- What a started command of a level is doing while it has not completed (R92). -/
inductive CmdState where
  /-- A MACRO the Dealer has evaluated: it waits for room in its lane's queue, or its parts are on lanes. -/
  | macroWait (lane : Nat)
  | macroRun (parts : List Nat)
  /-- WAIT_GE or WAIT_EQ on a device-wide tally number (R215). -/
  | tallyWait (claimTally : Nat) (eq : Bool) (threshold : Nat)
  /-- WAIT_MEM: a read is outstanding, or the next read is awaited (R99). -/
  | waitMem (reading : Bool)
  /-- WAIT_MEM with a read outstanding, when SHOE_PRODUCE has been written since it was issued (R99). -/
  | waitMemRung
  /-- HOST_COPY with this many bytes moved (R210), and when it first asked for the hoist (R79). -/
  | hostCopy (done age : Nat)
  | loop
  | callWait
  | callRun (level : Nat)
  | laneWait
  | laneRun (level : Nat)
  /-- ASSAY: a search that waits for a window or is in a batch (R315). -/
  | assay
  /-- PAGE, and a removal of COMMON pages, that waits: masks over its range of the pages that DEMOTE has still to consider and of
  those whose move it awaits (R198, R209); an UNMAP or a removal that waits for moves holds none. -/
  | pages (late own : Nat)
  /-- CLEAR with a number of units still to zero (R207). -/
  | clear (left : Nat) (all : Bool) (freed : Nat)
  /-- A steward command that waits for an event of its own (release, table bank, COMMON data, seal). -/
  | steward
deriving DecidableEq, Repr, Inhabited

/-- A command of a level that has started and not completed. -/
structure Active where
  granule : Nat
  st : CmdState
  /-- The local timer when the command first requested an engine (R72). -/
  age : Nat := 0
deriving DecidableEq, Repr, Inhabited

/-- A LOOP in progress: its own granule, its body's granules and the iterations still to start (mode 0). -/
structure LoopFrame where
  granule : Nat
  first : Nat
  last : Nat
  left : Nat
deriving DecidableEq, Repr, Inhabited

/-- What a deck level is: the item's own deck or single, a CALL's deck, or a lane's sub-deck. -/
inductive LevelKind where
  | own
  | call (parent granule : Nat)
  | lane (lane granule : Nat)
deriving DecidableEq, Repr, Inhabited

/-- A deck level in progress (R92, R110 to R114). -/
structure Level where
  id : Nat
  kind : LevelKind := .own
  depth : Nat := 0
  bytes : List Byte := []
  pc : Nat := 0
  events : BitVec 8 := 0
  active : List Active := []
  loops : List LoopFrame := []
deriving DecidableEq, Repr, Inhabited

/-- An outcome as the score sheet reports it (Table 5.7). -/
structure Outcome where
  cause : Nat := 0
  failed : Bool := false
  failOffset : Nat := 0xFFFFFFFF
  tag : Nat := 0
  depth : Nat := 0
  detail : Nat := 0
  redeal : Bool := false
  retry : Bool := false
deriving DecidableEq, Repr, Inhabited

/-- One ledger item (R124, Table 6.1). -/
structure Item where
  shoe : Nat
  seq : Nat
  userTag : Nat := 0
  flags : Nat := 0
  isDeck : Bool := false
  deckAddr : Nat := 0
  deckLen : Nat := 0
  st : ItemState := .fetching
  /-- A check fault of the item's deck that waits for the deck's start (R97). -/
  held : Option Outcome := none
  levels : List Level := []
  nextLevel : Nat := 1
  /-- The informational cause noted while the item ran (R162). -/
  note : Nat := 0
  noteDetail : Nat := 0
  /-- Active time in µs that the Dealer's timer has counted, as last reported (R100). -/
  activeUs : Nat := 0
  out : Outcome := {}
deriving DecidableEq, Repr, Inhabited

/-- The lookup registers of the ledger (Table 6.6). -/
structure Lookup where
  seq : Nat := 0
  shoe : Nat := 0
  done : Bool := false
  found : Bool := false
  state : Nat := 0
  cause : Nat := 0
  failOffset : Nat := 0
deriving DecidableEq, Repr, Inhabited

/-- One dispatch lane (R109, R118, R119, Table 6.4). -/
structure Lane where
  /-- Macro-instruction parts queued for dispatch, oldest first, at most 16. -/
  queue : List Nat := []
  /-- Parts dispatched and not complete. -/
  dispatched : List Nat := []
  /-- The item (shoe, seq) and level whose sub-deck the store holds. -/
  subdeck : Option (Nat × Nat × Nat) := none
  arb : Arb := {}
deriving DecidableEq, Repr, Inhabited

end Sys2Proof.Machine
end

