-- ==== Sys2Proof/Machine/TypesCore.lean ====
section
/-! DEFINITION. State of the cores and macro-instructions (chapter 7), the table slots (chapter 9), the memory
tiers (chapter 10) and the tallies, tricks and canary (chapter 11). -/

namespace Sys2Proof.Machine

/-- Where a macro-instruction comes from: a MACRO command's place (shoe, item, level, granule), or a round
controller's step. -/
inductive MacroOwner where
  | item (shoe seq level granule : Nat)
  | round (ctrl : Nat)
deriving DecidableEq, Repr, Inhabited

/-- How far a macro-instruction's part has come (R118, R140). DEDUCED, log entry 74. -/
inductive MacroPhase where
  | queued
  | dispatched
  | running
  | finished
deriving DecidableEq, Repr, Inhabited

/-- A part of a macro-instruction: its cut of the length and batch axes (R123). -/
structure PartCut where
  lenLo : Nat := 0
  lenN : Nat := 0
  batchLo : Nat := 0
  batchN : Nat := 0
  firstLen : Bool := true
  lastLen : Bool := true
deriving DecidableEq, Repr, Inhabited

/-- The block of the walk that a core works on: its next chunk, the accumulators so far as FP32 or INT32 words by row, and
whether a context switch has written them to T0 (R132, R135). -/
structure GroupWork where
  core : Nat
  block : Nat
  chunk : Nat := 0
  acc : List (List Word32) := []
  inT0 : Bool := false
deriving DecidableEq, Repr, Inhabited

/-- One macro-instruction part from its queueing to its completion (R139, R140). -/
structure MacroInst where
  id : Nat
  claim : Nat
  owner : MacroOwner
  code : Nat
  programVa : Nat := 0
  param : Nat := 0
  descs : List (List Byte) := []
  t0Units : Nat := 0
  lane : Option Nat := none
  cut : PartCut := {}
  /-- The table latched at dispatch for an epilogue or SFN: the slot, its bank and its table (R171). -/
  table : Option (Nat × Bool × SfnTable) := none
  phase : MacroPhase := .queued
  /-- A core has granted its first tile group (R121). -/
  granted : Bool := false
  cores : List Nat := []
  /-- Tile groups done and their total (R135). -/
  nextGroup : Nat := 0
  groups : Nat := 0
  /-- Tile groups of each block of the walk: K chunks or position groups (R135). -/
  chunks : Nat := 1
  /-- The next block of the walk that no core has taken, and the blocks that cores work on (R135). -/
  nextBlock : Nat := 0
  works : List GroupWork := []
  /-- FP32 accumulators of rows that a length split carries from part to part where O is narrower (R135, R180). -/
  carry : List ((Nat × Nat × Nat) × List Word32) := []
  age : Nat := 0
  /-- The detail with which it fails its item once the cores that run its tile groups have ended them: a participant was
  fenced and could not finish (R369). -/
  fencedBy : Option Nat := none
  /-- The numeric note's bits so far (R162). -/
  note : Nat := 0
  /-- The cores whose context of it a debug halt holds (R386). -/
  halted : List Nat := []
  /-- Its item or round has ended: only the tile groups that hold a grant still end (R76, R98, R278). -/
  stopping : Bool := false
  /-- The header of the program set, for its variant (R145). -/
  header : List Byte := []
deriving DecidableEq, Repr, Inhabited

/-- Blocks of the walk (R135). -/
def MacroInst.blocks (m : MacroInst) : Nat := m.groups / m.chunks

/-- The block that a core works on, if any. -/
def MacroInst.workOn (m : MacroInst) (c : Nat) : Option GroupWork := m.works.find? (·.core == c)

/-- A core has a tile group of the part to run: of its own block, or of one that no core has taken (R135). -/
def MacroInst.workFor (m : MacroInst) (c : Nat) : Bool := (m.workOn c).isSome || decide (m.nextBlock < m.blocks)

/-- A core without a block takes the next one of the walk (R135). -/
def MacroInst.takeBlock (m : MacroInst) (c : Nat) : MacroInst :=
  if (m.workOn c).isSome ∨ m.blocks ≤ m.nextBlock then m
  else { m with works := m.works ++ [{ core := c, block := m.nextBlock }], nextBlock := m.nextBlock + 1 }

/-- What holds a 64 KiB unit of a core's face buffer (R133). -/
inductive T0Use where
  | free
  | work (mid : Nat)
  | pin (ctrl : Nat)
  | faulted
deriving DecidableEq, Repr, Inhabited

/-- One T0 unit: its use, the claim that last held it, whether its words are the never-written pattern, and which of its
64-byte pieces have been written since it was allocated (R133). -/
structure T0Unit where
  use_ : T0Use := .free
  last : Option Nat := none
  unwritten : Bool := true
  tested : Bool := false
  written : BitVec 1024 := 0
deriving DecidableEq, Repr, Inhabited

/-- A region in an engine's use (R131): in a part's working set or, for `none`, in the gallery; in 64-byte units. -/
structure EngRegion where
  space : Option Nat
  lo : Nat
  units : Nat
deriving DecidableEq, Repr, Inhabited

/-- An instruction in an engine's queue, with the regions that it holds on the scoreboard (R128, R131). -/
structure Queued where
  mid : Nat
  claim : Nat
  reads : List EngRegion := []
  write : Option EngRegion := none
  descriptors : Nat := 0
deriving DecidableEq, Repr, Inhabited

/-- An address register (Table 7.2). -/
structure AddrReg where
  base : BitVec 40 := 0
  stride : BitVec 24 := 0
  bound : BitVec 40 := 0
  current : BitVec 40 := 0
deriving DecidableEq, Repr, Inhabited

/-- A hardware loop level: the bytes it repeats and the iterations left; 0 is no loop. -/
structure LoopReg where
  start : Nat := 0
  stop : Nat := 0
  left : BitVec 24 := 0
deriving DecidableEq, Repr, Inhabited

/-- What a context of the control core holds (Table 7.2): its registers, its loaded program and place in it, the
instructions run in its tile group, and whether it has read T0 bytes that were never written (R133). -/
structure CoreCtx where
  addrs : Vector AddrReg 32 := Vector.replicate 32 {}
  loops : Vector LoopReg 4 := Vector.replicate 4 {}
  scalars : Vector Word32 16 := Vector.replicate 16 0
  program : List Byte := []
  pc : Nat := 0
  steps : Nat := 0
  fault : Bool := false
deriving DecidableEq, Repr, Inhabited

/-- A context as it stood at its last tile group boundary, with the queue depths and scoreboard entries (R388). -/
structure CtxSeen where
  ctx : CoreCtx := {}
  depths : List Nat := [0, 0, 0, 0]
  entries : Nat := 0
deriving DecidableEq, Repr, Inhabited

/-- An entry of a program cache: the claim, the variant's address and its bytes (R145). -/
structure CacheEntry where
  claim : Nat
  va : Nat
  bytes : List Byte
deriving DecidableEq, Repr, Inhabited

/-- One core (R128 to R133, Table 7.11). -/
structure Core where
  /-- The macro-instruction part in each of the 12 contexts. -/
  slots : Vector (Option Nat) 12 := Vector.replicate 12 none
  units : Vector T0Unit 48 := Vector.replicate 48 {}
  arb : Arb := {}
  /-- The context that holds the engines. -/
  current : Option Nat := none
  clockMhz : Nat := 0
  gated : Bool := false
  /-- Program cache entries, newest first (R145). -/
  cache : List CacheEntry := []
  /-- The control core's contexts, and each as debug observe shows it (R130, R388). -/
  ctxs : Vector CoreCtx 12 := Vector.replicate 12 {}
  seen : Vector CtxSeen 12 := Vector.replicate 12 {}
  /-- The queues of the tensor array, the vector unit, the table unit and the hoist (R128). -/
  queues : Vector (List Queued) 4 := Vector.replicate 4 []
deriving DecidableEq, Repr, Inhabited

/-- The parts that hold contexts of a core, by context number. -/
def Core.contexts (c : Core) : List Nat := c.slots.toList.filterMap id

/-- TBL_SLOT_STATUS.source (Table 9.7). -/
inductive TblSource where
  | empty
  | published
  | image
  | load
deriving DecidableEq, Repr, Inhabited

/-- The code of a table source. -/
def TblSource.code : TblSource → Nat
  | .empty => 0
  | .published => 1
  | .image => 2
  | .load => 3

/-- A TABLE_LOAD whose table has been read and that has not committed (R171). -/
structure TblLoad where
  seq : Nat
  table : SfnTable
deriving DecidableEq, Repr, Inhabited

/-- One table slot of every core (R167, R171). -/
structure TblSlot where
  source : TblSource := .empty
  bank : Bool := false
  table : Option SfnTable := none
  loads : List TblLoad := []
deriving DecidableEq, Repr, Inhabited

/-- A T1 frame or T2 handle that is not FREE (R193): its owner (0 to 7, or 8 COMMON) and whether it is FOREIGN. -/
structure Owned where
  owner : Nat
  isForeign : Bool := false
  /-- T2: the sectors each of the 16 blocks stores (R202). -/
  sectors : List Nat := []
  group : Nat := 0
  /-- T2: the key under which its blocks are stored, and the page whose address gives their tweaks (R208). -/
  key : Option Nat := none
  page : Nat := 0
deriving DecidableEq, Repr, Inhabited

/-- A page table entry (Table 10.4); `pins` counts what pins the page. -/
structure Pte where
  tier2 : Bool := false
  pins : Nat := 0
  moving : Bool := false
  heat : Nat := 0
  frame : Nat := 0
  touchCur : BitVec 8 := 0
  touchPrev : BitVec 8 := 0
deriving DecidableEq, Repr, Inhabited

/-- One page table: its pages by page number, its level-1 frame and its level-2 tables in order of allocation
(R190). -/
structure PageTable where
  pages : List (Nat × Pte) := []
  l1 : Option Nat := none
  /-- Level-1 index, frame and half of each level-2 table. -/
  l2 : List (Nat × Nat × Bool) := []
deriving DecidableEq, Repr, Inhabited

/-- A move in progress (R197): the table (0 to 7, 8 COMMON), the page, its direction, the target and the claim
charged; and, for a victim's demotion, the page that waits for its room (R195, R203). -/
structure Move where
  table : Nat
  page : Nat
  promote : Bool
  target : Nat
  charged : Option Nat
  waiter : Option (Nat × Nat) := none
  /-- What the target's frame or handle was before it was granted: none for FREE, or FOREIGN (R198, R200). -/
  before : Option Owned := none
deriving DecidableEq, Repr, Inhabited

/-- The memory tiers (chapter 10). -/
structure Tiers where
  /-- T1 bytes by frame × 65,536 + offset, and T2 bytes by handle × 65,536 + offset; an unlisted byte has never
  been written (R202, R207, R333). -/
  t1 : List Host.Cell := []
  t2 : List Host.Cell := []
  frames : List (Nat × Owned) := []
  handles : List (Nat × Owned) := []
  tables : Vector PageTable 9 := Vector.replicate 9 {}
  moves : List Move := []
  promote : Nat := 0x20
  demote : Nat := 0x08
  auto : Bool := true
  clearT1 : Bool := false
  clearT2 : Bool := false
  shareRefused : Bool := false
  commonAccess : BitVec 8 := 0
  shares : Vector Nat 8 := Vector.replicate 8 0
  promotions : Vector Nat 8 := Vector.replicate 8 0
  demotions : Vector Nat 8 := Vector.replicate 8 0
  lookupVa : Nat := 0
  lookupTable : Nat := 0
  lookupDone : Bool := false
  lookupL1 : Bool := false
  lookupEntry : Nat := 0
  /-- Vault key generations: per claim and COMMON (R208); no key is visible. -/
  keys : Vector (Option Nat) 9 := Vector.replicate 9 none
deriving DecidableEq, Repr, Inhabited

/-- One tally (R213). -/
structure Tally where
  value : Word32 := 0
  poisoned : Bool := false
  cause : Nat := 0
  /-- The seat that poisoned the trick, for cause 0x0520 (R216). -/
  origin : Nat × Nat × Nat := (0, 0, 0)
deriving DecidableEq, Repr, Inhabited

/-- A host wait slot: its fields as written and the values latched at arming (R220). -/
structure HostWait where
  tally : Nat := 0
  eq : Bool := false
  arm : Bool := false
  met : Bool := false
  failed : Bool := false
  threshold : Nat := 0
  latTally : Nat := 0
  latEq : Bool := false
  latThreshold : Nat := 0
deriving DecidableEq, Repr, Inhabited

/-- A claim's tally window and canary (Table 11.6). -/
structure ClaimTally where
  masks : Vector Word64 15 := Vector.replicate 15 0
  waits : Vector HostWait 16 := Vector.replicate 16 {}
  refused : Bool := false
  count : Nat := 0
  declared : Bool := false
  stalemateId : Nat := 0
deriving DecidableEq, Repr, Inhabited

/-- A seat's coordinates. -/
abbrev Seat := Nat × Nat × Nat

/-- A live trick (R221, R222). -/
structure Trick where
  claim : Nat
  index : Nat
  round : Nat
  roundTag : Nat
  arriveTally : Nat
  releaseTally : Nat
  quota : Nat
  seats : List Seat
  lead : Bool
  gen : Nat := 1
  arrived : Bool := false
  poisoned : Bool := false
  arrivals : List Seat := []
  origin : Seat := (0, 0, 0)
deriving DecidableEq, Repr, Inhabited

/-- Tallies, tricks and canary (chapter 11). -/
structure Sync where
  tallies : Vector Tally 1024 := Vector.replicate 1024 {}
  claims : Vector ClaimTally 8 := Vector.replicate 8 {}
  canaryBeats : Nat := 4
  tricks : Vector (Option Trick) 64 := Vector.replicate 64 none
  stale : Nat := 0
deriving DecidableEq, Repr, Inhabited

/-- Claims, their rings and their real-time bindings (chapter 4). -/
structure Claims where
  claims : Vector Claim 8 := Vector.replicate 8 {}
  rtWritten : Vector RtBind 4 := Vector.replicate 4 {}
  rtInForce : Vector RtBind 4 := Vector.replicate 4 {}
  /-- Event rings 0 to 7 of the claims and 8 of the steward. -/
  rings : Vector EvtRing 9 := Vector.replicate 9 {}
  vectorMap : Vector Word32 8 := Vector.replicate 8 0x76543210
  stewardVectors : Word64 := 0
deriving DecidableEq, Repr, Inhabited

/-- Shoes, ledger, lanes and cores (chapters 5 to 7, 9). -/
structure Dealer where
  /-- Shoes 0 to 7 of the claims and 8 of the steward. -/
  shoes : Vector Shoe 9 := Vector.replicate 9 {}
  items : List Item := []
  lanes : Vector Lane 16 := Vector.replicate 16 {}
  cores : Vector Core 96 := Vector.replicate 96 {}
  macros : List MacroInst := []
  nextMacro : Nat := 0
  rtTimeout : Vector Nat 4 := Vector.replicate 4 0x3E8
  lookup : Lookup := {}
  /-- The claim served last within each effective class (R125). -/
  lastServed : Vector Nat 4 := Vector.replicate 4 7
  slots : Vector TblSlot 32 := Vector.replicate 32 {}
deriving DecidableEq, Repr, Inhabited

end Sys2Proof.Machine
end

