-- ==== Sys2Proof/Machine/TypesIo.lean ====
section
/-! DEFINITION. State of start-up, the beat, the host interface, faults and fences (chapters 2, 3, 14, 17). -/

namespace Sys2Proof.Machine

/-- HST_STATUS.state (Table 2.8). -/
inductive DevState where
  | booting
  | newSeat
  | ready
  | redealing
  | held
  | failed
deriving DecidableEq, Repr, Inhabited

/-- A host memory window of a function: 4 KiB page numbers of its first and last page (Table 14.7). -/
structure HostWin where
  valid : Bool := false
  base : Nat := 0
  limit : Nat := 0
deriving DecidableEq, Repr, Inhabited

/-- An MSI-X vector of a function (R290). -/
structure MsixVec where
  masked : Bool := true
  pending : Bool := false
deriving DecidableEq, Repr, Inhabited

/-- One PCIe function: 0 physical, n + 1 for claim n (R282 to R290). -/
structure Fn where
  wins : Vector HostWin 4 := Vector.replicate 4 {}
  busMaster : Bool := false
  d3hot : Bool := false
  msixEnable : Bool := false
  msixMask : Bool := false
  vecs : Vector MsixVec 64 := Vector.replicate 64 {}
  /-- Latched high halves of 64-bit registers read by their low half, by offset (R8); the latched words of an entry
  that is read in parts (R418), by offset + 2^32. -/
  latches : List (Nat × Nat) := []
  /-- Low halves held for 64-bit registers, by offset (R8). -/
  holds : List (Nat × Nat) := []
  /-- A function-level reset is in progress and the function answers configuration with Retry. -/
  resetting : Bool := false
deriving DecidableEq, Repr, Inhabited

/-- LDG_REDEAL_STATUS.phase (Table 17.12). -/
inductive RedealPhase where
  | none
  | resolving
  | walking
  | waiting
deriving DecidableEq, Repr, Inhabited

/-- The redeal registers and progress (Table 17.12, R354 to R361). -/
structure Redeal where
  phase : RedealPhase := .none
  resumeSeen : Bool := false
  commonErrors : Nat := 0
  id : Nat := 0
  trigger : Nat := 0
  faulting : Nat := 0
  durationUs : Nat := 0
  faultSeq : Nat := 0
  failed : Vector Nat 8 := Vector.replicate 8 0
  completed : Vector Nat 8 := Vector.replicate 8 0
  walkErrors : Vector Nat 8 := Vector.replicate 8 0
  confirmed : Vector Bool 8 := Vector.replicate 8 false
  /-- The device state that the redeal interrupted, and the local timer at its trigger. -/
  before : DevState := .ready
  started : Nat := 0
  /-- SHARE_SET entries that fired during the redeal: claim and profile, latest last (R61). -/
  heldShares : List (Nat × Nat) := []
deriving DecidableEq, Repr, Inhabited

/-- One unit as the Lamphouse and the Dealer see it, its fence and its run of agreed-up roll calls (R367 to
R370). -/
structure FenceUnit where
  powered : Bool := true
  enabled : Bool := true
  healthy : Bool := true
  faulted : Bool := false
  fenced : Bool := false
  agreed : Nat := 0
deriving DecidableEq, Repr, Inhabited

/-- The fenceable units by class (Table 17.13): cores, lanes, ports, vault channel groups. -/
structure Fences where
  cores : Vector FenceUnit 96 := Vector.replicate 96 {}
  lanes : Vector FenceUnit 16 := Vector.replicate 16 {}
  ports : Vector FenceUnit 12 := Vector.replicate 12 {}
  groups : Vector FenceUnit 32 := Vector.replicate 32 {}
  rollCalls : Nat := 0
  fenceCount : Nat := 0
deriving DecidableEq, Repr, Inhabited

/-- A port's entry of the PORT_MAP record: direction 0 to 5 or 7 dark, reach class, most lanes (Table 2.4). -/
structure PortMap where
  dir : Nat := 7
  reach : Nat := 2
  maxLanes : Nat := 8
deriving DecidableEq, Repr, Inhabited

/-- A decoded House Rules Image with Table 2.4's defaults. -/
structure Image where
  generation : Nat := 0
  securityVersion : Nat := 0
  rollbackFloor : Nat := 0
  keySlot : Nat := 0
  /-- True for copy B. -/
  copyB : Bool := false
  slab : Bool := false
  dims : Seat := (1, 1, 1)
  coord : Seat := (0, 0, 0)
  ports : Vector PortMap 12 := Vector.replicate 12 {}
  claimCount : Nat := 8
  defaultStakes : Nat := 0
  defaultTallies : Nat := 64
  defaultT1 : Nat := 1024
  defaultLedger : Nat := 1024
  defaultT2 : Nat := 3072
  defaultQps : Nat := 256
  defaultDescs : Nat := 4096
  beatSource : Nat := 0
  forwardOut : Bool := false
  linkPort : Nat := 0
  nominalHz : Nat := 10000
  lockPpm : Nat := 1000
  lossBeats : Nat := 4
  /-- The calendar's entries, 16 bytes each; none when the record is absent (the default calendar). -/
  calendar : Option (List (List Byte)) := none
  sfnTables : List (Nat × SfnTable) := []
  repairs : List (List Byte) := []
  canaryBeats : Nat := 4
  rtLanes : Nat := 0
  boost : Bool := true
  powerLimitW : Nat := 1050
  ethEnable : Nat := 0
  mac0 : Nat := 0
  mac1 : Nat := 0
  smbusAddr : Nat := 0x4C
  smbusRate : Nat := 0
  staticEid : Nat := 0
  maxGen : Nat := 6
  maxWidth : Nat := 16
  /-- The copy's bytes that measurements 1 and 2 hash (R376). -/
  bytes : List Byte := []
deriving DecidableEq, Repr, Inhabited

/-- An owner key slot of the fuse block (R33). -/
structure KeySlot where
  programmed : Bool := false
  revoked : Bool := false
  hash : List Byte := []
deriving DecidableEq, Repr, Inhabited

/-- The fuse block (R33, R35, R40, R344, Table 18.1). -/
structure Fuses where
  slots : Vector KeySlot 4 := Vector.replicate 4 {}
  rollback : Nat := 0
  killed : Bool := false
  /-- The identity seed (Table 18.1); no output shows it. -/
  seed : List Byte := []
  vendorHash : List Byte := []
  vendorOpen : Bool := false
  repairMap : List (List Byte) := []
  /-- The block cannot be sensed (R42). -/
  senseError : Bool := false
deriving DecidableEq, Repr, Inhabited

/-- A seat record (Table 2.6). -/
structure SeatRecord where
  bytes : List Byte := []
  sequence : Nat := 0
  own : List Byte := []
  coord : Seat := (0, 0, 0)
  neighbours : List (List Byte) := []
  bank : Nat := 0
deriving DecidableEq, Repr, Inhabited

/-- The boot flash as the Lamphouse finds it (R22 to R24). -/
structure Flash where
  present : Bool := true
  sfdp : List Byte := []
  /-- Bytes that do not read 0xFF. -/
  cells : List Host.Cell := []
  readMode : Nat := 0
deriving DecidableEq, Repr, Inhabited

/-- Start-up, image and pins (chapters 2, 17, 21). -/
structure Boot where
  dev : DevState := .booting
  /-- The boot step in progress (Table 2.7); 0 before the Lamphouse runs. -/
  step : Nat := 0
  lamphouse : Bool := false
  released : Bool := false
  newSeat : Bool := false
  fallback : Bool := false
  imageStale : Bool := false
  img : Option Image := none
  otherValid : Bool := false
  copyACause : Nat := 1
  copyBCause : Nat := 1
  seatCause : Nat := 1
  releaseCause : Nat := 0
  releaseToReadyUs : Nat := 0
  releasedAt : Nat := 0
  flash : Flash := {}
  fuses : Fuses := {}
  seat : Option SeatRecord := none
  stbyPwrok : Bool := false
  pwrok : Bool := false
  resetL : Bool := false
  qualified : Bool := false
  mainEn : Bool := false
  refclk : Bool := true
  crystal : Bool := true
  railsOk : Bool := true
  /-- Local timer at which the main dies were last taken into reset, and whether the alert was raised. -/
  heldSince : Nat := 0
  heldAlert : Bool := false
  shortPulses : Nat := 0
  lastHeldMs : Nat := 0
  failCause : Nat := 0
  /-- The board's flash and the fuses have been found (the model's own: they are the environment's before that). -/
  found : Bool := false
  /-- Copies whose headers are still to be read (step 3), or candidates still to be checked (steps 4 to 7). -/
  cands : List Nat := []
  /-- Qualified PWROK has been high since STBY_PWROK rose. -/
  wasQualified : Bool := false
deriving DecidableEq, Repr, Inhabited

/-- A 16-byte calendar entry, as bytes (Table 3.3). -/
abbrev CalEntry := List Byte

/-- The beat and the shift calendar (chapter 3). DESIGN CHOICE, log entry 6. -/
structure Beat where
  source : Nat := 0
  aligned : Bool := false
  locked : Bool := false
  holdover : Bool := false
  filler : Bool := false
  hop : Nat := 0
  count : Nat := 0
  /-- The phase that the beat in progress is known to have reached, and the local timer at its edge (R55). -/
  phase : Nat := 0
  edgeAt : Nat := 0
  period : Nat := 0
  loss : Bool := false
  relock : Bool := false
  jumpHold : Bool := false
  jumpFwd : Bool := false
  jumpFar : Bool := false
  redesignated : Bool := false
  commitCancelled : Bool := false
  commitRefused : Bool := false
  refusedEntry : Nat := 0
  frameError : Nat := 0
  skipped : Nat := 0
  tokenRound : Nat := 0
  designate : Bool := false
  atBeat : Nat := 0
  commitPending : Bool := false
  active : Vector CalEntry 64 := Vector.replicate 64 (List.replicate 16 0#8)
  shadow : Vector CalEntry 64 := Vector.replicate 64 (List.replicate 16 0#8)
  /-- Consecutive in-window intervals and consecutive out-of-window ones. -/
  goodRun : Nat := 0
  badRun : Nat := 0
  /-- The last 16 intervals in ns, newest first (R55). -/
  intervals : List Nat := []
  /-- The last valid received count, the edges since, and whether it agreed with the one before it (R52, R54). -/
  lastValid : Option Nat := none
  since : Nat := 0
  agreed : Bool := false
  /-- The last valid received count differed from the own count, a hold in progress allowed for (R54). -/
  differed : Bool := false
  /-- Edges for which the count is held (R54). -/
  held : Nat := 0
  /-- Calendar entries that have fired, or been passed over, in the beat in progress, and whether it is a filler. -/
  fired : List Nat := []
  inFiller : Bool := false
  /-- Beats that a jump skipped and whose entries wait for the next edge: first and last (R54). -/
  skippedRange : Option (Nat × Nat) := none
deriving DecidableEq, Repr, Inhabited

end Sys2Proof.Machine
end

