-- ==== Sys2Proof/Machine/TypesEcc.lean ====
section
/-! DEFINITION. State of error detection, correction and repair (chapter 16). -/

namespace Sys2Proof.Machine

/-- The classes of Table 16.2, in the order of ECC_TEST_RESULT.class. -/
inductive WordClass where
  | clean
  | corrected
  | unwritten
  | poisoned
  | uncorrectable
deriving DecidableEq, Repr, Inhabited

/-- The code of a class in ECC_TEST_RESULT.class (Table 16.6). -/
def WordClass.code : WordClass → Nat
  | .clean => 0
  | .corrected => 1
  | .unwritten => 2
  | .poisoned => 3
  | .uncorrectable => 4

/-- A valid error log entry (Table 16.4). -/
structure EccLog where
  kind : Nat := 1
  source : Nat := 0
  tier : Nat := 0
  patched : Bool := false
  mac : Nat := 0
  row : Nat := 0
  word : Nat := 0
  bit : Nat := 0xFF
  syndrome : Nat := 0
  owner : Nat := 0xF
  count : Nat := 1
  stamp : Nat := 0
  timerUs : Nat := 0
deriving DecidableEq, Repr, Inhabited

/-- A patch entry (R345). The word it serves is named by its place; its bits are the location's. -/
structure EccPatch where
  runtime : Bool := false
  mac : Nat := 0
  row : Nat := 0
  word : Nat := 0
deriving DecidableEq, Repr, Inhabited

/-- One die's log, scrub cursors, patch table and group counters (Table 16.6). -/
structure EccDie where
  log : Vector (Option EccLog) 16 := Vector.replicate 16 none
  lost : Nat := 0
  cursor : Nat := 0
  t0Cursor : Nat := 0
  passes : Nat := 0
  t0Passes : Nat := 0
  patches : Vector (Option EccPatch) 32 := Vector.replicate 32 none
  /-- Count and over, by group (R340). -/
  ce : Vector (Nat × Bool) 88 := Vector.replicate 88 (0, false)
deriving DecidableEq, Repr, Inhabited

/-- The ECC_ block and what the SRAM cells hold beside the bytes of the tiers. -/
structure Ecc where
  threshold : Nat := 0x10
  unwritten : Nat := 0
  poisoned : Nat := 0
  target : Nat := 0
  data : Nat := 0
  check : Nat := 0
  flipData : Nat := 0
  flipCheck : Nat := 0
  /-- The armed flip: the word's key and the masks (R347). -/
  armed : Option (Nat × Nat × Nat) := none
  /-- The reset value of ECC_TEST_RESULT.done is 1. -/
  resDone : Bool := true
  resClass : Nat := 0
  resSyndrome : Nat := 0
  resBit : Nat := 0
  resData : Nat := 0
  patchCmd : Nat := 0
  patchDone : Bool := true
  patchRefused : Bool := false
  patchEntry : Nat := 0
  patchReason : Nat := 0
  dies : Vector EccDie 7 := Vector.replicate 7 {}
  /-- Words whose stored bits differ from a plain encoding of their bytes: key, XOR of the data bits and XOR of the
  check bits (R331 to R334). A word that is not listed is CLEAN, or UNWRITTEN where its bytes were never written. -/
  marks : List (Nat × Nat × Nat) := []
  /-- Corrected words that are still to be written back (R338), oldest first. -/
  writeBacks : List Nat := []
  /-- Stored data of T0 words that a test wrote (R347), by key. -/
  t0Data : List (Nat × Nat) := []
  /-- Repairs applied at die release: 16-byte overrides (R344). -/
  repairs : List (List Byte) := []
deriving DecidableEq, Repr, Inhabited

end Sys2Proof.Machine
end

