-- ==== Sys2Proof/Machine/TypesLink.lean ====
section
/-! DEFINITION. State of the Swezo link and of the round controllers (chapters 12 and 13). -/

namespace Sys2Proof.Machine

/-- Table 12.3. -/
inductive PortState where
  | dark
  | down
  | training
  | up
  | quarantined
deriving DecidableEq, Repr, Inhabited

/-- The code of Table 12.3. -/
def PortState.code : PortState → Nat
  | .dark => 0
  | .down => 1
  | .training => 2
  | .up => 3
  | .quarantined => 4

/-- What a DATA flit carries (Table 12.4); sequence, ack and credits are the lane's. -/
structure Flit where
  vc : Nat := 0
  dclass : Nat := 0
  first : Bool := false
  closing : Bool := false
  msgId : Nat := 0
  index : Nat := 0
  payload : List Byte := []
deriving DecidableEq, Repr, Inhabited

/-- A flit in a lane's replay buffer: its sequence, how often it was sent, and the flit (R242). -/
structure Unacked where
  seq : Nat
  sends : Nat := 1
  flit : Flit
  /-- Its message goes on over other ports: an ack of this copy counts for nothing (R249). -/
  moved : Bool := false
deriving DecidableEq, Repr, Inhabited

/-- One lane of a port (R242). -/
structure LinkLane where
  good : Bool := false
  /-- The peer reports the lane good. -/
  peerGood : Bool := false
  inUse : Bool := false
  next : Nat := 0
  buffer : List Unacked := []
  /-- The last sequence received in order with a good CRC. -/
  received : Nat := 255
  naked : Bool := false
  /-- Something was received that no flit sent since has acked. -/
  ackDue : Bool := false
  /-- Flits sent since the last IDLE flit (R232). -/
  sinceIdle : Nat := 0
deriving DecidableEq, Repr, Inhabited

/-- One off-package port (Table 12.12). -/
structure Port where
  st : PortState := .down
  dir : Nat := 7
  reach : Nat := 0
  width : Nat := 0
  maxLanes : Nat := 8
  peerMax : Nat := 8
  reason : Nat := 0
  reversed : Bool := false
  polarity : Nat := 0
  peerCoords : Nat := 0
  peerPort : Nat := 0
  digest : List Byte := []
  crcErrors : Nat := 0
  replays : Nat := 0
  fec : Nat := 0
  malformed : Nat := 0
  evUp : Bool := false
  evDown : Bool := false
  evQuar : Bool := false
  evDegrade : Bool := false
  holdDown : Bool := false
  latency : Nat := 0
  /-- The last 16 echo round trips less turnaround, in ns (R248). -/
  echoes : List Nat := []
  lanes : Vector LinkLane 8 := Vector.replicate 8 {}
  /-- Credits held for each virtual channel, and how many of those in use are of dateline class 0 (R241). -/
  credits : Vector Nat 4 := Vector.replicate 4 0
  used0 : Vector Nat 4 := Vector.replicate 4 0
  /-- Credits to return: channel, class and count. -/
  owed : List (Nat × Nat × Nat) := []
  /-- Flits of lanes that left the set, sent first and with no further credit (R253). -/
  held : List Flit := []
  /-- Management messages waiting, oldest first. -/
  mgmt : List (List Byte) := []
  /-- A lane set change is in progress: no new flit is sent (Table 12.10). -/
  changing : Bool := false
  /-- The port has just become UP or left quarantine with a fresh HELLO sent. -/
  helloSent : Bool := false
deriving DecidableEq, Repr, Inhabited

/-- A message that this seat sends or forwards on a direction (R243, R244). -/
structure OutMsg where
  vc : Nat
  dclass : Nat := 0
  /-- Sent by this seat itself, and to which seat. -/
  own : Bool := true
  dest : Seat := (0, 0, 0)
  /-- The incoming message that a cut-through message passes on, by direction, channel and number, and its flits that
  wait, each with the port whose receive buffer holds it (R241, R265). -/
  relay : Option (Nat × Nat × Nat) := none
  queue : List (Nat × Flit) := []
  /-- The transfer it belongs to, when it draws a receipt. -/
  xfer : Option Nat := none
  /-- 48-byte message header, or none for a single flit with its own payload. -/
  header : Option (List Byte) := none
  data : List Byte := []
  /-- The trailer of a forwarded message, as it came. -/
  trailer : Option (List Byte) := none
  msgId : Option Nat := none
  next : Nat := 0
  acked : Nat := 0
deriving DecidableEq, Repr, Inhabited

/-- A direction's outgoing traffic: messages in order, the next message number of each channel, and the flits that
left failed or narrowed lanes and go first (R244, R253, R254). -/
structure Group where
  msgs : List OutMsg := []
  nextId : Vector Nat 4 := Vector.replicate 4 0
  held : List Flit := []
deriving DecidableEq, Repr, Inhabited

/-- How a message that arrives flit by flit is handled (R245, R265): its header has not come; its data is placed in a
claim's memory from an address, as a hand with its number or as a PUT; its flits go on by a direction; or it is discarded
as it arrives. -/
inductive InMode where
  | waiting
  | placing (claim base : Nat) (hand : Option Nat)
  | relay (dir : Nat)
  | dropped
deriving DecidableEq, Repr, Inhabited

/-- A message that arrives flit by flit: its direction, channel and number, its header, the data placed by flit index, and
the flits still in the receive buffers with their ports (R241). -/
structure InMsg where
  dir : Nat
  vc : Nat
  msgId : Nat
  header : List Byte := []
  mode : InMode := .waiting
  data : List (Nat × List Byte) := []
  early : List (Nat × Flit) := []
  /-- It was partly received, without its header, when a redeal began (R247). -/
  redealt : Bool := false
deriving DecidableEq, Repr, Inhabited

/-- What a round controller's transfer carries. -/
inductive XferKind where
  | hand (send : Nat)
  | signal
  | result
deriving DecidableEq, Repr, Inhabited

/-- A transfer that this seat has started (R246). -/
structure Xfer where
  id : Nat
  ctrl : Nat
  kind : XferKind
  dest : Seat
  header : List Byte
  data : List Byte
  crcFails : Nat := 0
  /-- The closing flit has been acked, so the receipt is awaited. -/
  awaiting : Bool := false
deriving DecidableEq, Repr, Inhabited

/-- One Swezo-P link (R257). -/
structure SzlP where
  failed : Bool := false
  retraining : Bool := false
deriving DecidableEq, Repr, Inhabited

/-- The SZL_ block and the traffic of the ports. -/
structure Link where
  ports : Vector Port 12 := Vector.replicate 12 {}
  timeoutMs : Nat := 0x00A
  szlp : Vector SzlP 14 := Vector.replicate 14 {}
  refused : Nat := 0
  late : Nat := 0
  groups : Vector Group 6 := Vector.replicate 6 {}
  inbox : List InMsg := []
  /-- Messages for the own seat: header and data (R262). -/
  localMsgs : List (List Byte × List Byte) := []
  xfers : List Xfer := []
  nextXfer : Nat := 1
  /-- The off-package ports were put into electrical idle (R363, R365). -/
  idle : Bool := false
deriving DecidableEq, Repr, Inhabited

/-- RND_STATUS.state (Table 13.6). -/
inductive RoundState where
  | free
  | barrier
  | idle
  | dealing
deriving DecidableEq, Repr, Inhabited

/-- The code of a controller's state. -/
def RoundState.code : RoundState → Nat
  | .free => 0
  | .barrier => 1
  | .idle => 2
  | .dealing => 3

/-- A received hand that holds its slot (R272): its number in the round, whether its step is computed or skipped, and
whether its own send is delivered or none is due. -/
structure HeldHand where
  number : Nat
  computed : Bool := false
  passed : Bool := false
deriving DecidableEq, Repr, Inhabited

/-- A round controller's wait on a tally (R213, R215, R217): not begun, waiting on the device tally that it resolved when
it began, met, or failed with a cause. -/
inductive TallyWait where
  | idle
  | waiting (tally : Nat)
  | met
  | failed (cause : Nat)
deriving DecidableEq, Repr, Inhabited

/-- An armed round (Tables 13.2 and 13.6). Tallies are claim-relative. -/
structure Armed where
  claim : Nat
  round : Nat
  backward : Bool := false
  causal : Bool := false
  causalSkip : Bool := false
  seatCount : Nat := 1
  rank : Nat := 0
  seats : List Seat := []
  /-- Index of the commit trick (R270). -/
  commit : Option Nat := none
  tag : Nat := 0
  startTally : Nat := 0
  readyTally : Nat := 0
  doneTally : Nat := 0
  timeoutUs : Nat := 100
  dealCount : Nat := 1
  stateUnits : Nat := 0
  coreMask : Nat := 0
  horizon : Nat := 0
  recallVa : Nat := 0
  slot0 : Nat := 0
  slot1 : Nat := 0
  slotBytes : Nat := 0
  descs : List (List Byte) := []
  resultDesc : List Byte := []
  param : Nat := 0
  strides : List Nat := []
  resultStride : Nat := 0
  /-- Trick table slots of the round's tricks, in order. -/
  tricks : List Nat := []
  /-- The controller's waits on its start tally and on its ready tally (R272). -/
  startWait : TallyWait := .idle
  readyWait : TallyWait := .idle
  /-- Deals started, and whether one is in progress. -/
  deal : Nat := 0
  dealing : Bool := false
  /-- The deal's steps: skipped, or attended with recall set or not (R273, R275). -/
  plan : List (Option Bool) := []
  /-- Steps of the deal triggered and computed. -/
  trig : Nat := 0
  comp : Nat := 0
  /-- Hands sent since arming (R271). -/
  sent : Nat := 0
  /-- Hands whose header has been accepted since arming, those of them that wait to be sent again after a bad message
  CRC (source transfer and hand number), and those landed whose slots are not yet free. -/
  accepted : Nat := 0
  resent : List (Nat × Nat) := []
  landed : List HeldHand := []
  resultSent : Bool := false
  resultIn : Bool := false
  /-- The soft-maximum state of rows, kept in the pinned T0 units between a deal's calls (R272): row, head and batch
  index, and its 8 bytes. -/
  rows : List ((Nat × Nat × Nat) × List Byte) := []
  /-- Pages of the claim's table that the round pins. -/
  pins : List Nat := []
deriving DecidableEq, Repr, Inhabited

/-- One round controller (Table 13.6); the failure registers stay until it is next armed. -/
structure RoundCtl where
  armed : Option Armed := none
  failCause : Nat := 0
  failOrigin : Seat := (0, 0, 0)
  failSuspect : Seat := (0, 0, 0)
deriving DecidableEq, Repr, Inhabited

/-- The RND_ block. -/
structure Rounds where
  ctrls : Vector RoundCtl 16 := Vector.replicate 16 {}
  forwarded : Nat := 0
  noRoute : Nat := 0
deriving DecidableEq, Repr, Inhabited

end Sys2Proof.Machine
end

