-- ==== Sys2Proof/Machine/TypesMgmt.lean ====
section
/-! DEFINITION. State of security, debug and power (chapter 18), of management (chapter 19), and of the clocks, rails
and temperatures (chapter 21). -/

namespace Sys2Proof.Machine

/-- A claim's debug grant (R383, Table 18.10). -/
structure Grant where
  live : Bool := false
  observe : Bool := false
  halt : Bool := false
  /-- Its duration in seconds, and the local timer when it was accepted. -/
  duration : Nat := 0
  since : Nat := 0
deriving DecidableEq, Repr, Inhabited

/-- A claim's debug window (Table 18.12). -/
structure DebugWin where
  halted : Bool := false
  /-- Contexts that still run the one tile group of a step, as part and core (R387). -/
  stepping : List (Nat × Nat) := []
  breakHit : Bool := false
  result : Nat := 0
  mode : Nat := 0
  tag : Nat := 0
  count : Nat := 0
  commands : Nat := 0
  obsSel : Nat := 0
  obsData : Nat := 0
  /-- The command that a break holds: item, level and granule. -/
  held : Option (Nat × Nat × Nat) := none
deriving DecidableEq, Repr, Inhabited

/-- The security state (R382). -/
inductive SecState where
  | isSealed
  | claimDebug
  | vendorOpen
deriving DecidableEq, Repr, Inhabited

/-- The code of SEC_STATE.state. -/
def SecState.code : SecState → Nat
  | .isSealed => 0
  | .claimDebug => 1
  | .vendorOpen => 2

/-- The SEC_ block, the debug windows and the measurements (Tables 18.2, 18.10 and 18.12). -/
structure Debug where
  st : SecState := .isSealed
  identity : Bool := false
  nonce : Nat := 0
  cmdAddr : Nat := 0
  done : Bool := true
  code : Nat := 0
  grants : Vector Grant 8 := Vector.replicate 8 {}
  wins : Vector DebugWin 8 := Vector.replicate 8 {}
  /-- Measurements 1 to 5; empty before boot step 8. -/
  measures : Vector (List Byte) 5 := Vector.replicate 5 []
  sealResult : Nat := 0
  /-- JTAG: the instruction in force (0 IDCODE, 1 BYPASS, 2 SAMPLE/PRELOAD, 3 EXTEST, 4 debug access), and the access
  port's status (R390). -/
  jtag : Nat := 0
  dapStatus : Nat := 0
  /-- A scan has stopped the main-die clocks (Table 18.9). -/
  scanned : Bool := false
deriving DecidableEq, Repr, Inhabited

/-- The PWR_ block, the clocks and the temperatures (Table 18.11, chapter 21). -/
structure Power where
  /-- 0 P0, 2 P2, 3 P3. -/
  level : Nat := 0
  request : Nat := 0
  wakeOnDoorbell : Bool := false
  refused : Bool := false
  reason : Nat := 0
  powerThrottled : Bool := false
  thermalThrottled : Bool := false
  limitW : Nat := 0x41A
  avgW : Nat := 0
  peakW : Nat := 0
  /-- Clock of each face die in MHz. -/
  clocks : Vector Nat 4 := Vector.replicate 4 0
  /-- Temperatures of F0 to F3, V0, V1, H and L, and which dies have tripped. -/
  temps : Vector Int 8 := Vector.replicate 8 0
  tripped : Vector Bool 8 := Vector.replicate 8 false
  /-- A main die tripped while the dies were held: reported once they run (R412, chapter 19). -/
  heldTrip : Bool := false
  /-- Consecutive 10 µs checks at which power_throttled stood. -/
  throttledChecks : Nat := 0
  /-- Rail values in mV commanded and acknowledged, by rail number. -/
  rails : List (Nat × Nat) := []
  /-- Retries of the unanswered command, by rail. -/
  avsTries : List (Nat × Nat) := []
  boostWithheld : Bool := false
  /-- The face dies whose rails stand at the voltage of boost stakes (R429). -/
  boosted : Vector Bool 4 := Vector.replicate 4 false
deriving DecidableEq, Repr, Inhabited

/-- A record for management (R409). -/
inductive MgmtEvent where
  /-- A standard sensor event: the sensor, its previous and its new state. -/
  | sensor (id prev cur : Nat)
  /-- An OEM event of class 0xF0 with its 64-byte record. -/
  | oem (bytes : List Byte)
deriving DecidableEq, Repr, Inhabited

/-- How events reach management (R409). -/
inductive EventMode where
  | off
  | async
  | polling
deriving DecidableEq, Repr, Inhabited

/-- A message that is being assembled from packets (R400). -/
structure Assembly where
  src : Nat
  tag : Nat
  nextSeq : Nat
  bytes : List Byte
  tooLong : Bool := false
deriving DecidableEq, Repr, Inhabited

/-- The management endpoint (chapter 19). -/
structure Mgmt where
  addr : Nat := 0x4C
  rate : Nat := 0
  staticEid : Nat := 0
  /-- The endpoint id in use; 0 while none is assigned. -/
  eid : Nat := 0
  /-- The endpoint answers: the Lamphouse runs. -/
  running : Bool := false
  assembly : List Assembly := []
  tid : Nat := 0
  queue : List MgmtEvent := []
  lost : Nat := 0
  mode : EventMode := .off
  receiver : Nat := 0
  /-- The head record was sent this many times without an acknowledgement. -/
  tries : Nat := 0
  awaiting : Bool := false
  nextSeq : Nat := 1
  alerts : Nat := 0
  mask : Nat := 0
  /-- Levels last driven on ALERT_CRIT_L and ALERT_WARN_L. -/
  critLow : Bool := false
  warnLow : Bool := false
  spdmVersion : Bool := false
  spdmCaps : Bool := false
  spdmAlgs : Bool := false
  /-- The Lamphouse's copies of main-die figures while the main dies are in reset (R407): fenced units by class, the
  redeal number and the twelve port states. -/
  copies : List Nat := []
deriving DecidableEq, Repr, Inhabited

end Sys2Proof.Machine
end

