-- ==== Sys2Proof/Machine/TypesNet.lean ====
section
/-! DEFINITION. State of the PCIe endpoint and the Ethernet ports (chapter 14) and of the Assay engine (chapter 15). -/

namespace Sys2Proof.Machine

/-- The PCIe endpoint (Table 14.1, Table 14.7); its functions are beside it. DESIGN CHOICE, log entry 5. -/
structure Pcie where
  linkUp : Bool := false
  gen : Nat := 0
  width : Nat := 0
  flit : Bool := false
  belowFloor : Bool := false
  vfEnable : Bool := false
  numVfs : Nat := 0
  /-- Errors logged through AER (R289). -/
  aerErrors : Nat := 0
deriving DecidableEq, Repr, Inhabited

/-- A region table entry of a claim (R302, Table 14.8). -/
structure Region where
  base : Nat := 0
  length : Nat := 0
  valid : Bool := false
  host : Bool := false
  remoteRead : Bool := false
  remoteWrite : Bool := false
  key : Nat := 0
deriving DecidableEq, Repr, Inhabited

/-- A work queue entry that has been read, with its place in its queue (Table 14.5). -/
structure Wqe where
  index : Nat
  bytes : List Byte
  /-- The entry could not be read: its read was not issued or ended in an error (R285, R289). -/
  lost : Bool := false
  /-- First packet sequence number and number of packets, once started. -/
  psn : Nat := 0
  packets : Nat := 1
  tries : Nat := 0
  rnrTries : Nat := 0
  /-- The bytes that a SEND or WRITE carries. -/
  payload : List Byte := []
deriving DecidableEq, Repr, Inhabited

/-- State of a queue pair (Table 14.4, Table 14.8). -/
inductive QpState where
  | init
  | rtr
  | rts
  | err
deriving DecidableEq, Repr, Inhabited

/-- The code of a queue pair's state. -/
def QpState.code : QpState → Nat
  | .init => 1
  | .rtr => 2
  | .rts => 3
  | .err => 4

/-- A queue pair (R298 to R305). Times are ns of the local timer. -/
structure Qp where
  claim : Nat
  handle : Nat
  /-- The package's number of the queue pair, 0 to 2,047 (Table 14.3). -/
  dev : Nat := 0
  ctx : List Byte
  st : QpState := .init
  sqProduce : Nat := 0
  /-- Entries of each queue that have been read from host memory. -/
  sqRead : Nat := 0
  rqProduce : Nat := 0
  rqRead : Nat := 0
  /-- Send entries read and not started, those started and not complete, and receive entries read and unused. -/
  waiting : List Wqe := []
  sent : List Wqe := []
  recvs : List Wqe := []
  cqProduce : Nat := 0
  cqPhase : Bool := true
  cqConsumed : Nat := 0
  /-- Records that wait for room in the completion queue or for bus mastering, each with the claim-relative tally that
  takes ADD 1 after it (0xFFFF none). -/
  records : List (List Byte × Nat) := []
  sqPsn : Nat := 0
  rqPsn : Nat := 0
  /-- Sending rate in Mb/s, the last cut, and the last CNP sent. -/
  rate : Nat := 400000
  lastCut : Option Nat := none
  lastCnp : Option Nat := none
  /-- The RNR timer runs. -/
  rnrWait : Bool := false
  /-- Entries start only after the claim's shoe is next enabled (R361). -/
  heldForShoe : Bool := false
deriving DecidableEq, Repr, Inhabited

/-- The queue-pair command registers and regions of a claim (Table 14.8). -/
structure ClaimNet where
  cmdAddr : Nat := 0
  cmdOp : Nat := 0
  cmdHandle : Nat := 0
  /-- False while a command waits for bus mastering (R288). -/
  done : Bool := true
  resHandle : Nat := 0
  cause : Nat := 0
  qpn : Nat := 0
  regions : Vector Region 64 := Vector.replicate 64 {}
deriving DecidableEq, Repr, Inhabited

/-- An Ethernet port (Table 14.7, R295, R306). -/
structure EthPort where
  up : Bool := false
  c2m : Bool := false
  dropped : Nat := 0
  pfcSent : Nat := 0
  /-- Received PFC holds RoCE traffic, and this port has sent XOFF. -/
  paused : Bool := false
  xoff : Bool := false
  /-- RoCE packets that wait for the pause to end. -/
  held : List Output := []
  gids : Vector Nat 16 := Vector.replicate 16 0
  /-- Held low words of GIDs that have not been committed (R418). -/
  gidHeld : List (Nat × Nat) := []
deriving DecidableEq, Repr, Inhabited

/-- A raw ring (R297). -/
structure RawRing where
  base : Nat := 0
  sizeLog2 : Nat := 0
  index : Nat := 0
  enable : Bool := false
  /-- The device's own index: the next slot to write or to send. -/
  next : Nat := 0
  phase : Bool := true
deriving DecidableEq, Repr, Inhabited

/-- The ENT_ block. -/
structure Net where
  ports : Vector EthPort 2 := Vector.replicate 2 {}
  cnpDscp : Nat := 0x30
  pfcPriority : Nat := 3
  pfcEnable : Bool := true
  rx : RawRing := {}
  tx : RawRing := {}
  claims : Vector ClaimNet 8 := Vector.replicate 8 {}
  qps : List Qp := []
deriving DecidableEq, Repr, Inhabited

/-- ASY_INDEX_STATUS.state (Table 15.8). -/
inductive IndexState where
  | unbound
  | bound
  | stuck
deriving DecidableEq, Repr, Inhabited

/-- The code of an index's state; binding is one step, so its code 1 is never read. -/
def IndexState.code : IndexState → Nat
  | .unbound => 0
  | .bound => 2
  | .stuck => 3

/-- One index (R309 to R312, Table 15.8). -/
structure Index where
  headerVa : Nat := 0
  claim : Nat := 0
  valid : Bool := false
  st : IndexState := .unbound
  cause : Nat := 0
  /-- The header's 256 bytes as read at binding. -/
  header : List Byte := []
  epoch : Nat := 0
  heapHead : Nat := 0
  heapTaken : Nat := 0
  publishPoisoned : Bool := false
  heapBlocked : Bool := false
  skipped : Nat := 0
  spilled : Nat := 0
  /-- Pages of the claim's table that the vein heads pin. -/
  pins : List Nat := []
  /-- The header address and claim that a write of valid 0 left while a batch of the index ran (R312). -/
  closing : Option (Nat × Nat) := none
deriving DecidableEq, Repr, Inhabited

/-- A search command (R315): where it stands and its checked operands. -/
structure Search where
  shoe : Nat
  seq : Nat
  level : Nat
  granule : Nat
  index : Nat
  k : Nat
  probes : Nat
  queries : Nat
  qDesc : List Byte
  pDesc : List Byte
  rDesc : List Byte
  age : Nat := 0
  /-- What the batch start fixes (R317, R324): the index's header, epoch, heap positions, vein heads and permit, or the
  failure met in reading them. -/
  header : List Byte := []
  epoch : Nat := 0
  heapHead : Nat := 0
  heapTaken : Nat := 0
  heads : List Byte := []
  permit : List Byte := []
  fail : Option (Nat × Nat) := none
deriving DecidableEq, Repr, Inhabited

/-- The ASY_ block and the engine. -/
structure Assay where
  continuous : Bool := false
  windowOpen : Bool := false
  overruns : Nat := 0
  batches : Nat := 0
  indexes : Vector Index 64 := Vector.replicate 64 {}
  waiting : List Search := []
  /-- The running batch. -/
  batch : Option (List Search) := none
deriving DecidableEq, Repr, Inhabited

end Sys2Proof.Machine
end

