-- ==== Sys2Proof/Syntax.lean ====
section
/-! DEFINITION. The commands of the package: one constructor per row of the table of operations and events, in the
table's order. Operands are what the sender gives: the register access, the queue item meant, the host bytes that a
read returned, the message received or the value measured. The meaning of each, in Machine/*Cmds.lean, says what its
operands are. -/

namespace Sys2Proof

open Machine

/-- A command (spec/opcode_table.json). Each constructor's line names its row and its rule.
DESIGN CHOICE, log entry 7. -/
inductive Instr where
  /-- REGISTER_WRITE (R6). -/
  | registerWrite (fn off width v : Nat)
  /-- REG_LOW_HALF_READ (R8). -/
  | regLowHalfRead (fn off : Nat) (width : Nat := 4)
  /-- REG_LOW_HALF_WRITE (R8). -/
  | regLowHalfWrite (fn off v : Nat)
  /-- REG_HIGH_HALF_WRITE (R8). -/
  | regHighHalfWrite (fn off v : Nat)
  /-- PWR_MEASURE_READ (R420). -/
  | pwrMeasureRead (wide : Bool)
  /-- STBY_PWROK_RISE (R42). -/
  | stbyPwrokRise (flash : Flash) (fuses : Fuses) (env : BootEnv)
  /-- FLASH_READ_TIMEOUT (R33). -/
  | flashReadTimeout (env : BootEnv)
  /-- BOOT_STEP_TIMEOUT (R42). -/
  | bootStepTimeout (env : BootEnv)
  /-- RESET_L_RISE (R41). -/
  | resetLRise (env : BootEnv)
  /-- PWROK_RISE (R434). -/
  | pwrokRise (env : BootEnv)
  /-- BOOT_READY (R42). -/
  | bootReady (us : Nat)
  /-- PIN_BEAT_EDGE (R47). -/
  | pinBeatEdge (ns : Nat)
  /-- PIN_BEAT_FRAME (R48). -/
  | pinBeatFrame (pulses : List Nat)
  /-- RESERVATION_APPLY_TIMEOUT (R76). -/
  | reservationApplyTimeout (claim : Nat)
  /-- LINK_BEAT_MESSAGE (R49). -/
  | linkBeatMessage (port hop count ns : Nat)
  /-- TOKEN_BEAT_COMMIT (R50). -/
  | tokenBeatCommit
  /-- FILLER_BEAT (R51). -/
  | fillerBeat
  /-- BEAT_LOSS (R53). -/
  | beatLoss
  /-- HOLDOVER_BEAT_EDGE (R53). -/
  | holdoverBeatEdge
  /-- BEAT_CAL_COMMIT_ARM (R60). -/
  | beatCalCommitArm (atBeat : Nat)
  /-- BEAT_CAL_SHADOW_WRITE (R60). -/
  | beatCalShadowWrite (entry word v : Nat)
  /-- BEAT_TOKEN_DESIGNATE (R50). -/
  | beatTokenDesignate (round : Nat)
  /-- SHARE_SET (R75). -/
  | shareSet (i : Nat)
  /-- SCRUB_SLICE (R348). -/
  | scrubSlice (i : Nat)
  /-- HEAT_AGE (R194). -/
  | heatAge (i : Nat)
  /-- ASSAY_WINDOW (R319). -/
  | assayWindow (i : Nat)
  /-- ASSAY_WINDOW_CLOSE (R319). -/
  | assayWindowClose
  /-- EPOCH_ADVANCE (R322). -/
  | epochAdvance (i : Nat)
  /-- ROLL_CALL (R367). -/
  | rollCall (i : Nat) (views : List UnitView)
  /-- CHECKPOINT_WINDOW (R57). -/
  | checkpointWindow (i : Nat)
  /-- CHECKPOINT_WINDOW_END (R80). -/
  | checkpointWindowEnd
  /-- MARK (R57). -/
  | markCmd (i : Nat)
  /-- CLAIM_CREATE (R67). -/
  | claimCreate (seq level : Nat) (block : HostResp)
  /-- CLAIM_MODIFY (R67). -/
  | claimModify (seq level : Nat) (block : HostResp)
  /-- CLAIM_RELEASE (R70). -/
  | claimRelease (seq level : Nat)
  /-- CLAIM_RELEASE_END (R70). -/
  | claimReleaseEnd (claim : Nat)
  /-- ARBITRATION_FRAME_START (R71). -/
  | arbitrationFrameStart (core : Bool) (i : Nat)
  /-- ARBITRATION_GRANT (R72). -/
  | arbitrationGrant (core : Bool) (i ns : Nat)
  /-- EVT_RING_ENABLE (R81). -/
  | evtRingEnable (ring v : Nat)
  /-- EVT_RING_CONSUMED_WRITE (R81). -/
  | evtRingConsumedWrite (ring v : Nat)
  /-- FUNCTION_LEVEL_RESET (R83). -/
  | functionLevelReset (claim : Nat)
  /-- FLR_COMPLETE (R83). -/
  | flrComplete (claim : Nat)
  /-- VF_ENABLE_CLEAR (R84). -/
  | vfEnableClear (enable : Bool) (numVfs : Nat)
  /-- CLM_RT_BIND_WRITE (R85). -/
  | clmRtBindWrite (v : Nat)
  /-- RT_BIND_APPLY (R121). -/
  | rtBindApply
  /-- SHOE_DOORBELL (R88). -/
  | shoeDoorbell (shoe v : Nat)
  /-- SHOE_FETCH_ENTRY (R88). -/
  | shoeFetchEntry (shoe : Nat)
  /-- DECK_READ_COMPLETE (R89). -/
  | deckReadComplete (shoe : Nat) (entry deck : HostResp)
  /-- ITEM_START (R125). -/
  | itemStart (shoe : Nat)
  /-- NOP (R92). -/
  | nop (shoe seq level : Nat)
  /-- MATMUL (R135). -/
  | matmul (shoe seq level : Nat)
  /-- ATTEND (R177). -/
  | attend (shoe seq level : Nat)
  /-- ATTEND_BWD (R181). -/
  | attendBwd (shoe seq level : Nat)
  /-- SFN (R166). -/
  | sfn (shoe seq level : Nat)
  /-- NORM (R182). -/
  | norm (shoe seq level : Nat)
  /-- REDUCE (R155). -/
  | reduceCmd (shoe seq level : Nat)
  /-- HOIST (R155). -/
  | hoist (shoe seq level : Nat)
  /-- CONVERT (R159). -/
  | convertCmd (shoe seq level : Nat)
  /-- ASSAY_RERANK (R325). -/
  | assayRerank (shoe seq level : Nat)
  /-- MACRO_DISPATCH (R118). -/
  | macroDispatch (shoe seq level granule : Nat)
  /-- MACRO_START (R140). -/
  | macroStart (part : Nat)
  /-- TILE_GROUP_END (R132). -/
  | tileGroupEnd (core ns : Nat) (bad : Option (HeadFault × Nat × Nat × Nat))
  /-- MACRO_COMPLETE (R140). -/
  | macroComplete (part : Nat)
  /-- P1_ENTRY (R391). -/
  | p1Entry (core : Nat)
  /-- LANE_DECK (R119). -/
  | laneDeck (shoe seq level granule : Nat) (deck : HostResp)
  /-- LANE_DECK_COMPLETE (R119). -/
  | laneDeckComplete (shoe seq level : Nat)
  /-- TALLY_ADD (R214). -/
  | tallyAdd (shoe seq level : Nat)
  /-- TALLY_SET (R214). -/
  | tallySet (shoe seq level : Nat)
  /-- TALLY_WAIT_GE (R215). -/
  | tallyWaitGe (shoe seq level : Nat)
  /-- TALLY_WAIT_EQ (R215). -/
  | tallyWaitEq (shoe seq level : Nat)
  /-- TALLY_ARM (R218). -/
  | tallyArm (shoe seq level : Nat)
  /-- TALLY_POISON (R217). -/
  | tallyPoison (shoe seq level : Nat)
  /-- WAIT_MEM (R99). -/
  | waitMem (shoe seq level : Nat)
  /-- WAIT_MEM_POLL (R99). -/
  | waitMemPoll (shoe seq level granule : Nat)
  /-- WAIT_MEM_READ_RETURN (R99). -/
  | waitMemReadReturn (shoe seq level granule : Nat) (value : HostResp)
  /-- WRITE_MEM (R93). -/
  | writeMem (shoe seq level : Nat)
  /-- HOST_COPY (R210). -/
  | hostCopy (shoe seq level granule bursts : Nat) (data : HostResp)
  /-- IF (R110). -/
  | ifCmd (shoe seq level : Nat)
  /-- LOOP (R111). -/
  | loopCmd (shoe seq level : Nat)
  /-- LOOP_ITERATION_START (R111). -/
  | loopIterationStart (shoe seq level : Nat)
  /-- CALL (R114). -/
  | callCmd (shoe seq level granule : Nat) (deck : HostResp)
  /-- CALL_COMPLETE (R114). -/
  | callComplete (shoe seq level : Nat)
  /-- ROUND_ARM (R268). -/
  | roundArm (shoe seq level : Nat)
  /-- ROUND_DISARM (R269). -/
  | roundDisarm (shoe seq level : Nat)
  /-- ASSAY_SEARCH (R315). -/
  | assaySearch (shoe seq level : Nat)
  /-- ASSAY_MERGE (R326). -/
  | assayMerge (shoe seq level : Nat)
  /-- PAGE_MAP (R209). -/
  | pageMap (shoe seq level : Nat)
  /-- PAGE_UNMAP (R209). -/
  | pageUnmap (shoe seq level : Nat)
  /-- PAGE_PROMOTE (R209). -/
  | pagePromote (shoe seq level : Nat)
  /-- PAGE_DEMOTE (R209). -/
  | pageDemote (shoe seq level : Nat)
  /-- PAGE_MOVE_COMMIT (R197). -/
  | pageMoveCommit (table page : Nat)
  /-- CLEAR (R207). -/
  | clearCmd (seq level units : Nat)
  /-- CLEAR_COMPLETE (R207). -/
  | clearComplete (seq level : Nat)
  /-- COMMON_LOAD (R211). -/
  | commonLoad (seq level : Nat) (data : HostResp)
  /-- COMMON_REMOVE (R211). -/
  | commonRemove (seq level : Nat)
  /-- TABLE_LOAD (R170). -/
  | tableLoad (seq level : Nat) (table : HostResp)
  /-- TABLE_LOAD_COMMIT (R171). -/
  | tableLoadCommit (slot : Nat)
  /-- FENCE_CLEAR (R370). -/
  | fenceClear (seq level : Nat)
  /-- SEAL (R379). -/
  | sealCmd (seq level : Nat) (flashOk : Bool)
  /-- SHOE_TIMEOUT (R101); `activeUs` is what the timer of the item that faults has counted (R100, Table 5.7). -/
  | shoeTimeout (shoe seq activeUs : Nat) (others : List (Nat × Nat)) (finish : Bool)
  /-- RT_LANE_TIMEOUT (R121). -/
  | rtLaneTimeout (lane mid : Nat) (finish : Bool)
  /-- ITEM_COMMIT (R124). -/
  | itemCommit (shoe seq : Nat)
  /-- OUTCOME_WRITE (R103). -/
  | outcomeWrite (shoe : Nat) (bad : Option (HeadFault × Nat × Nat × Nat))
  /-- MODERATION_TIMEOUT (R106). -/
  | moderationTimeout (shoe : Nat)
  /-- SHEET_CONSUMED_WRITE (R104). -/
  | sheetConsumedWrite (shoe v : Nat)
  /-- SHOE_ENABLE (R107). -/
  | shoeEnable (shoe v : Nat) (feeds : List (Nat × HostResp × HostResp))
  /-- SHOE_DISABLE (R107). -/
  | shoeDisable (shoe v : Nat)
  /-- SHEET_ENABLE (R102). -/
  | sheetEnable (shoe v : Nat)
  /-- SHOE_FETCH_WRITE (R108). -/
  | shoeFetchWrite (shoe v : Nat)
  /-- LDG_LOOKUP (R127). -/
  | ldgLookup (shoe : Nat)
  /-- TIER_LOOKUP (R212). -/
  | tierLookup (va table : Nat)
  /-- TIER_COMMON_SHARE_WRITE (R205). -/
  | tierCommonShareWrite (claim v : Nat)
  /-- TLY_OP_ADD (R219). -/
  | tlyOpAdd (claim tally v : Nat)
  /-- TLY_OP_SET (R219). -/
  | tlyOpSet (claim tally v : Nat)
  /-- TLY_OP_POISON (R219). -/
  | tlyOpPoison (claim tally : Nat)
  /-- TLY_HOST_WAIT_ARM (R220). -/
  | tlyHostWaitArm (claim slot tally : Nat) (eq : Bool) (threshold : Nat)
  /-- TLY_DEV_OP_ADD (R231). -/
  | tlyDevOpAdd (tally v : Nat)
  /-- TLY_DEV_OP_SET (R231). -/
  | tlyDevOpSet (tally v : Nat)
  /-- TLY_DEV_OP_ARM (R231). -/
  | tlyDevOpArm (tally v : Nat)
  /-- TLY_DEV_OP_POISON (R231). -/
  | tlyDevOpPoison (tally : Nat)
  /-- TRICK_ARRIVE_RECEIVED (R222). -/
  | trickArriveReceived (round index generation : Nat) (origin : Seat) (tag : Nat)
  /-- TRICK_RELEASE_RECEIVED (R222). -/
  | trickReleaseReceived (round index generation tag : Nat)
  /-- TRICK_POISON_RECEIVED (R224). -/
  | trickPoisonReceived (round index : Nat) (origin : Seat) (tag : Nat)
  /-- PORT_TRAINING_START (R234). -/
  | portTrainingStart (port : Nat) (result : TrainResult)
  /-- PORT_TRAINING_TIMEOUT (R234). -/
  | portTrainingTimeout (port : Nat)
  /-- PORT_RETRAIN_TIMER (R234). -/
  | portRetrainTimer (port : Nat) (result : TrainResult)
  /-- HELLO_RECEIVED (R249). -/
  | helloReceived (port : Nat) (payload : List Byte)
  /-- QUARANTINE_RECEIVED (R249). -/
  | quarantineReceived (port : Nat)
  /-- FLIT_RECEIVED (R239). -/
  | flitReceived (port lane : Nat) (bytes : List Byte) (dest : Seat) (ns : Nat)
  /-- NAK_RECEIVED (R242). -/
  | nakReceived (port lane ack : Nat)
  /-- REPLAY_LIMIT_REACHED (R252). -/
  | replayLimitReached (port lane : Nat)
  /-- LANE_FAILURE (R252). -/
  | laneFailure (port lane : Nat)
  /-- LANES_RECEIVED (R253). -/
  | lanesReceived (port bitmap : Nat)
  /-- LANES_ACK_RECEIVED (R253). -/
  | lanesAckReceived (port bitmap : Nat)
  /-- PORT_FAILURE (R254). -/
  | portFailure (port : Nat)
  /-- ECHO_TIMER (R248). -/
  | echoTimer
  /-- ECHO_RECEIVED (R248). -/
  | echoReceived (port : Nat) (payload : List Byte) (ns : Nat)
  /-- HAND_RECEIVED (R245). -/
  | handReceived (header data : List Byte) (crcOk : Bool)
  /-- PUT_RECEIVED (R245). -/
  | putReceived (header data : List Byte) (crcOk : Bool)
  /-- SIGNAL_RECEIVED (R245). -/
  | signalReceived (header : List Byte)
  /-- RECEIPT_RECEIVED (R246). -/
  | receiptReceived (header : List Byte)
  /-- ABORT_RECEIVED (R247). -/
  | abortReceived (header : List Byte)
  /-- RECEIPT_TIMEOUT (R246). -/
  | receiptTimeout (transfer : Nat)
  /-- MESSAGE_FORWARD (R265). -/
  | messageForward (port cls : Nat) (trick : Bool) (dest : Seat) (header data trailer : List Byte)
  /-- SZL_HOLD_DOWN (R256). -/
  | szlHoldDown (port : Nat) (hold : Bool)
  /-- SZL_RETRAIN (R256). -/
  | szlRetrain (port : Nat) (result : TrainResult)
  /-- SZL_CLEAR_COUNTERS (R258). -/
  | szlClearCounters (port : Nat)
  /-- SZLP_LINK_FAILURE (R257). -/
  | szlpLinkFailure (link : Nat)
  /-- SZLP_RETRAIN (R257). -/
  | szlpRetrain (link : Nat) (ok : Bool)
  /-- FAILED_PORT_IDLE (R363). -/
  | failedPortIdle
  /-- ROUND_STEP_TRIGGER (R272). -/
  | roundStepTrigger (ctrl : Nat)
  /-- ROUND_HAND_SEND (R272). -/
  | roundHandSend (ctrl : Nat)
  /-- PASS_TIMEOUT (R278). -/
  | passTimeout (ctrl : Nat)
  /-- PCIE_LINK_TRAIN (R281). -/
  | pcieLinkTrain (gen width : Nat)
  /-- PCIE_LINK_DOWN (R293). -/
  | pcieLinkDown
  /-- PF_FUNCTION_LEVEL_RESET (R292). -/
  | pfFunctionLevelReset
  /-- BUS_MASTER_ENABLE_WRITE (R288). -/
  | busMasterEnableWrite (fn : Nat) (on : Bool) (context : HostResp) (feeds : List (Nat × HostResp × HostResp))
  /-- D3HOT_TRANSITION (R288). -/
  | d3hotTransition (fn : Nat) (d3hot : Bool) (context : HostResp) (feeds : List (Nat × HostResp × HostResp))
  /-- MSIX_MASK_CHANGE (R290). -/
  | msixMaskChange (fn : Nat) (enable mask : Bool) (vector : Nat) (masked : Bool)
  /-- HST_WIN_WRITE (R286). -/
  | hstWinWrite (fn window : Nat) (limit : Bool) (v : Nat)
  /-- UNSUPPORTED_REQUEST_RECEIVED (R289). -/
  | unsupportedRequestReceived (fn : Nat)
  /-- HOST_READ_ERROR (R289). -/
  | hostReadError (target : ReadTarget)
  /-- ETH_LINK_NEGOTIATE (R295). -/
  | ethLinkNegotiate (port : Nat) (linked : Bool)
  /-- ETH_FRAME_RECEIVED (R296). -/
  | ethFrameReceived (port : Nat) (good : Bool) (fill : Nat) (frame : List Byte)
  /-- RAW_RX_CONSUMED_WRITE (R297). -/
  | rawRxConsumedWrite (v : Nat)
  /-- RAW_TX_PRODUCE (R297). -/
  | rawTxProduce (v : Nat) (feeds : List HostResp)
  /-- QP_CREATE (R298). -/
  | qpCreate (claim : Nat) (context : HostResp)
  /-- QP_MODIFY (R298). -/
  | qpModify (claim handle : Nat) (context : HostResp)
  /-- QP_DESTROY (R298). -/
  | qpDestroy (claim handle : Nat)
  /-- QP_QUERY (R298). -/
  | qpQuery (claim handle : Nat)
  /-- SQ_DOORBELL (R300). -/
  | sqDoorbell (claim handle v : Nat) (feeds : List (HostResp × HostResp))
  /-- RQ_DOORBELL (R300). -/
  | rqDoorbell (claim handle v : Nat) (feeds : List HostResp)
  /-- CQ_CONSUMED_WRITE (R303). -/
  | cqConsumedWrite (claim handle v : Nat) (feeds : List (HostResp × HostResp))
  /-- ROCE_ACK_RECEIVED (R303). -/
  | roceAckReceived (claim handle psn : Nat) (reads : List (List Byte)) (feeds : List (HostResp × HostResp))
  /-- ROCE_NAK_RECEIVED (R303). -/
  | roceNakReceived (claim handle psn code : Nat) (reads : List (List Byte))
  /-- QP_ACK_TIMEOUT (R303). -/
  | qpAckTimeout (claim handle : Nat)
  /-- RDMA_WRITE_RECEIVED (R302). -/
  | rdmaWriteReceived (claim handle psn rkey addr : Nat) (payload : List Byte) (imm : Option Nat) (feeds : List HostResp)
  /-- RDMA_READ_RECEIVED (R302). -/
  | rdmaReadReceived (claim handle psn rkey addr len : Nat) (data : HostResp)
  /-- ROCE_SEND_RECEIVED (R301). -/
  | roceSendReceived (claim handle psn : Nat) (payload : List Byte) (imm : Option Nat) (feeds : List HostResp)
  /-- CNP_RECEIVED (R305). -/
  | cnpReceived (claim handle : Nat)
  /-- CE_PACKET_RECEIVED (R305). -/
  | cePacketReceived (claim handle : Nat)
  /-- RATE_INCREASE_TIMER (R305). -/
  | rateIncreaseTimer (claim handle : Nat)
  /-- PFC_FRAME_RECEIVED (R306). -/
  | pfcFrameReceived (port priority : Nat) (xoff : Bool)
  /-- ENT_MR_WRITE (R419). -/
  | entMrWrite (claim region word v : Nat)
  /-- ENT_GID_COMMIT (R418). -/
  | entGidCommit (port gid v : Nat)
  /-- ASY_INDEX_BIND (R311). -/
  | asyIndexBind (index va claim : Nat)
  /-- ASY_INDEX_UNBIND (R312). -/
  | asyIndexUnbind (index v : Nat)
  /-- BATCH_COMPLETE (R317). -/
  | batchComplete
  /-- CONTINUOUS_BATCH (R320). -/
  | continuousBatch
  /-- ASY_ADVANCE_WRITE (R322). -/
  | asyAdvanceWrite (index : Nat)
  /-- BACKFILL (R323). -/
  | backfill
  /-- ECC_WRITE_BACK (R338). -/
  | eccWriteBack
  /-- ECC_CE_OVER_CLEAR (R340). -/
  | eccCeOverClear (die group : Nat)
  /-- ECC_LOG_RELEASE (R342). -/
  | eccLogRelease (die entry : Nat)
  /-- ECC_PATCH_INSTALL (R345). -/
  | eccPatchInstall (die mac row word : Nat)
  /-- ECC_PATCH_REMOVE (R345). -/
  | eccPatchRemove (die mac row word : Nat)
  /-- ECC_TEST_WRITE_NORMAL (R347). -/
  | eccTestWriteNormal
  /-- ECC_TEST_WRITE_SPLIT (R347). -/
  | eccTestWriteSplit
  /-- ECC_TEST_READ (R347). -/
  | eccTestRead
  /-- ECC_TEST_ARM_FLIP (R347). -/
  | eccTestArmFlip
  /-- REDEAL_REQUEST (R354). -/
  | redealRequest (finish : Bool)
  /-- REDEAL_WALK_END (R359). -/
  | redealWalkEnd
  /-- REDEAL_RESUME (R360). -/
  | redealResume
  /-- REDEAL_BOUND_EXPIRY (R357). -/
  | redealBoundExpiry
  /-- REDEAL_STALL_ALERT (R360). -/
  | redealStallAlert
  /-- RESET_L_FALL (R364). -/
  | resetLFall
  /-- PWROK_FALL (R364). -/
  | pwrokFall
  /-- STBY_PWROK_FALL (R364). -/
  | stbyPwrokFall
  /-- RESET_HELD_ALERT (R365). -/
  | resetHeldAlert
  /-- DEALER_UNIT_FAULT (R368). -/
  | dealerUnitFault (cls unit : Nat)
  /-- LAMPHOUSE_UNIT_DISABLE (R368). -/
  | lamphouseUnitDisable (cls unit : Nat) (power : Bool)
  /-- SEC_KEY_SLOT (R378). -/
  | secKeySlot (block : HostResp) (verified : Bool)
  /-- SEC_DEBUG_GRANT (R383). -/
  | secDebugGrant (block : HostResp)
  /-- SEC_DEBUG_REVOKE (R384). -/
  | secDebugRevoke (claim : Nat)
  /-- SEC_VENDOR_OPEN (R385). -/
  | secVendorOpen (block : HostResp) (env : BootEnv)
  /-- DEBUG_GRANT_EXPIRY (R384). -/
  | debugGrantExpiry (claim : Nat)
  /-- DBG_HALT (R386). -/
  | dbgHalt (claim : Nat)
  /-- DBG_RESUME (R387). -/
  | dbgResume (claim : Nat)
  /-- DBG_STEP (R387). -/
  | dbgStep (claim : Nat)
  /-- DBG_OBSERVE (R388). -/
  | dbgObserve (claim v : Nat)
  /-- JTAG_IDCODE (R390). -/
  | jtagIdcode
  /-- JTAG_BYPASS (R390). -/
  | jtagBypass
  /-- JTAG_SAMPLE_PRELOAD (R390). -/
  | jtagSamplePreload (v : Nat)
  /-- JTAG_EXTEST (R390). -/
  | jtagExtest (v : Nat)
  /-- JTAG_DEBUG_ACCESS (R390). -/
  | jtagDebugAccess (action : DapAction)
  /-- PWR_REQUEST_P2 (R392). -/
  | pwrRequestP2 (wake : Bool)
  /-- PWR_REQUEST_P0 (R393). -/
  | pwrRequestP0 (wake : Bool)
  /-- PWR_REQUEST_P3 (R394). -/
  | pwrRequestP3 (wake : Bool)
  /-- POWER_LIMIT_CHECK (R395). -/
  | powerLimitCheck (avg sample : Nat)
  /-- THERMAL_SAMPLE (R437). -/
  | thermalSample (temps : List Int)
  /-- AVSBUS_COMMAND_TIMEOUT (R429). -/
  | avsbusCommandTimeout (rail readBack : Nat)
  /-- RAIL_MONITOR_FAULT (R434). -/
  | railMonitorFault
  /-- REFCLK_SZ_LOSS (R434). -/
  | refclkSzLoss
  /-- CRYSTAL_LOSS (R434). -/
  | crystalLoss
  /-- QUALIFIED_PWROK_RESTORE (R434). -/
  | qualifiedPwrokRestore (env : BootEnv)
  /-- MCTP_PACKET_RECEIVED (R400). -/
  | mctpPacketReceived (packet : List Byte) (pecOk hardwareOk : Bool) (env : BootEnv)
  /-- SET_ENDPOINT_ID (R401). -/
  | setEndpointId (eid : Nat)
  /-- GET_NONCE (R402). -/
  | getNonce
  /-- MGMT_SECURITY_KEY_SLOT (R404). -/
  | mgmtSecurityKeySlot (block : List Byte) (verified : Bool)
  /-- MGMT_SECURITY_DEBUG_GRANT (R404). -/
  | mgmtSecurityDebugGrant (block : List Byte)
  /-- MGMT_SECURITY_DEBUG_REVOKE (R404). -/
  | mgmtSecurityDebugRevoke (claim : Nat)
  /-- MGMT_SECURITY_VENDOR_OPEN (R404). -/
  | mgmtSecurityVendorOpen (block : List Byte) (env : BootEnv)
  /-- FLASH_READ (R403). -/
  | flashRead (off len : Nat)
  /-- FLASH_ERASE (R403). -/
  | flashErase (off count : Nat) (ok : Bool)
  /-- FLASH_WRITE (R403). -/
  | flashWrite (off : Nat) (data : List Byte) (ok : Bool)
  /-- BOOT_RETRY (R405). -/
  | bootRetry (env : BootEnv)
  /-- GET_TID (R406). -/
  | getTid
  /-- SET_TID (R406). -/
  | setTid (tid : Nat)
  /-- GET_PLDM_VERSION (R406). -/
  | getPldmVersion (type : Nat)
  /-- GET_PLDM_TYPES (R406). -/
  | getPldmTypes
  /-- GET_PLDM_COMMANDS (R406). -/
  | getPldmCommands (type : Nat)
  /-- GET_PDR_REPOSITORY_INFO (R406). -/
  | getPdrRepositoryInfo
  /-- GET_PDR (R406). -/
  | getPdr (handle : Nat)
  /-- GET_SENSOR_READING (R407). -/
  | getSensorReading (id : Nat)
  /-- GET_STATE_SENSOR_READINGS (R407). -/
  | getStateSensorReadings (id : Nat)
  /-- GET_NUMERIC_EFFECTER_VALUE (R406). -/
  | getNumericEffecterValue (id : Nat)
  /-- GET_STATE_EFFECTER_STATES (R406). -/
  | getStateEffecterStates (id : Nat)
  /-- POWER_REQUEST_EFFECTER (R408). -/
  | powerRequestEffecter (request : Nat) (env : BootEnv)
  /-- POWER_LIMIT_EFFECTER (R408). -/
  | powerLimitEffecter (watts : Nat)
  /-- ALERT_ACKNOWLEDGE (R412). -/
  | alertAcknowledge (causes : Nat)
  /-- ALERT_MASK (R412). -/
  | alertMask (causes : Nat)
  /-- SET_EVENT_RECEIVER (R409). -/
  | setEventReceiver (mode receiver : Nat)
  /-- POLL_FOR_PLATFORM_EVENT_MESSAGE (R409). -/
  | pollForPlatformEventMessage
  /-- PLATFORM_EVENT_MESSAGE (R409). -/
  | platformEventMessage
  /-- PLATFORM_EVENT_RETRY (R409). -/
  | platformEventRetry
  /-- PLATFORM_EVENT_ACK (R409). -/
  | platformEventAck
  /-- GET_VERSION (R410). -/
  | getVersion
  /-- GET_CAPABILITIES (R410). -/
  | getCapabilities
  /-- NEGOTIATE_ALGORITHMS (R410). -/
  | negotiateAlgorithms
  /-- GET_DIGESTS (R410). -/
  | getDigests
  /-- GET_CERTIFICATE (R410). -/
  | getCertificate (slot off len : Nat)
  /-- CHALLENGE (R410). -/
  | challenge (nonce : List Byte)
  /-- GET_MEASUREMENTS (R411). -/
  | getMeasurements (index : Nat) (signed : Bool) (nonce : List Byte)
  /-- VF_ENABLE_SET (R282). -/
  | vfEnableSet (numVfs : Nat)
  /-- ETH_LINK_LOSS (R295). -/
  | ethLinkLoss (port : Nat)
  /-- RNR_TIMER_EXPIRY (R298). -/
  | rnrTimerExpiry (claim handle : Nat)
deriving DecidableEq, Repr

end Sys2Proof
end

