-- ==== Sys2Proof/WellFormed.lean ====
section
/-! DEFINITION. Well-formed commands: every operand within the range that its register field, message field or place in
the machine has. -/

namespace Sys2Proof

open Machine

/-- An operand is below a bound. -/
def below (n k : Nat) : Bool := decide (k < n)

/-- A list has a length. -/
def sized {α : Type} (n : Nat) (l : List α) : Bool := l.length == n

/-- A register offset is aligned to 32 bits and lies within a BAR0 (Table 20.2). -/
def offOk (off : Nat) : Bool := decide (off % 4 = 0) && decide (off < 2 ^ 26)

/-- An access of a PCIe request has 1, 2, 4 or 8 bytes (R8, R9) and lies within a BAR0. -/
def accessOk (off w : Nat) : Bool := decide (off < 2 ^ 26) && [1, 2, 4, 8].contains w

/-- A seat's coordinates are bytes (Table 12.6). -/
def seatOk (v : Seat) : Bool := decide (v.1 < 256) && decide (v.2.1 < 256) && decide (v.2.2 < 256)

/-- A forwarded claim message has a 48-byte header; a trick message has none (Tables 11.2 and 12.6). -/
def headerLen (trick : Bool) (h : List Byte) : Bool := if trick then h.isEmpty else sized 48 h

/-- An MCTP packet holds its 4-byte header and at most 64 bytes of payload (R400). -/
def packetOk (b : List Byte) : Bool := decide (4 ≤ b.length) && decide (b.length ≤ 68)

/-- The command is well-formed. -/
def Instr.wf : Instr → Bool
  | .registerWrite fn off width v => below 9 fn && accessOk off width && below (2 ^ 64) v
  | .regLowHalfRead fn off width => below 9 fn && accessOk off width
  | .regLowHalfWrite fn off v => below 9 fn && offOk off && below (2 ^ 64) v
  | .regHighHalfWrite fn off v => below 9 fn && offOk off && below (2 ^ 64) v
  | .pwrMeasureRead _ => true
  | .stbyPwrokRise _ _ _ => true
  | .flashReadTimeout _ => true
  | .bootStepTimeout _ => true
  | .resetLRise _ => true
  | .pwrokRise _ => true
  | .bootReady _ => true
  | .pinBeatEdge _ => true
  | .pinBeatFrame pulses => sized 64 pulses
  | .reservationApplyTimeout claim => below 8 claim
  | .linkBeatMessage port hop count _ => below 12 port && below 256 hop && below (2 ^ 48) count
  | .tokenBeatCommit => true
  | .fillerBeat => true
  | .beatLoss => true
  | .holdoverBeatEdge => true
  | .beatCalCommitArm atBeat => below (2 ^ 48) atBeat
  | .beatCalShadowWrite entry word v => below 64 entry && below 2 word && below (2 ^ 64) v
  | .beatTokenDesignate round => below (2 ^ 16) round
  | .shareSet i => below 64 i
  | .scrubSlice i => below 64 i
  | .heatAge i => below 64 i
  | .assayWindow i => below 64 i
  | .assayWindowClose => true
  | .epochAdvance i => below 64 i
  | .rollCall i _ => below 64 i
  | .checkpointWindow i => below 64 i
  | .checkpointWindowEnd => true
  | .markCmd i => below 64 i
  | .claimCreate _ _ _ => true
  | .claimModify _ _ _ => true
  | .claimRelease _ _ => true
  | .claimReleaseEnd claim => below 8 claim
  | .arbitrationFrameStart core i => below (if core then 96 else 16) i
  | .arbitrationGrant core i _ => below (if core then 96 else 16) i
  | .evtRingEnable ring v => below 9 ring && below (2 ^ 64) v
  | .evtRingConsumedWrite ring v => below 9 ring && below (2 ^ 64) v
  | .functionLevelReset claim => below 8 claim
  | .flrComplete claim => below 8 claim
  | .vfEnableClear _ numVfs => below (2 ^ 16) numVfs
  | .clmRtBindWrite v => below (2 ^ 64) v
  | .rtBindApply => true
  | .shoeDoorbell shoe v => below 9 shoe && below (2 ^ 64) v
  | .shoeFetchEntry shoe => below 9 shoe
  | .deckReadComplete shoe _ _ => below 9 shoe
  | .itemStart shoe => below 9 shoe
  | .nop shoe _ _ => below 9 shoe
  | .matmul shoe _ _ => below 9 shoe
  | .attend shoe _ _ => below 9 shoe
  | .attendBwd shoe _ _ => below 9 shoe
  | .sfn shoe _ _ => below 9 shoe
  | .norm shoe _ _ => below 9 shoe
  | .reduceCmd shoe _ _ => below 9 shoe
  | .hoist shoe _ _ => below 9 shoe
  | .convertCmd shoe _ _ => below 9 shoe
  | .assayRerank shoe _ _ => below 9 shoe
  | .macroDispatch shoe _ _ _ => below 9 shoe
  | .macroStart _ => true
  | .tileGroupEnd core _ _ => below 96 core
  | .macroComplete _ => true
  | .p1Entry core => below 96 core
  | .laneDeck shoe _ _ _ _ => below 9 shoe
  | .laneDeckComplete shoe _ _ => below 9 shoe
  | .tallyAdd shoe _ _ => below 9 shoe
  | .tallySet shoe _ _ => below 9 shoe
  | .tallyWaitGe shoe _ _ => below 9 shoe
  | .tallyWaitEq shoe _ _ => below 9 shoe
  | .tallyArm shoe _ _ => below 9 shoe
  | .tallyPoison shoe _ _ => below 9 shoe
  | .waitMem shoe _ _ => below 9 shoe
  | .waitMemPoll shoe _ _ _ => below 9 shoe
  | .waitMemReadReturn shoe _ _ _ _ => below 9 shoe
  | .writeMem shoe _ _ => below 9 shoe
  | .hostCopy shoe _ _ _ _ _ => below 9 shoe
  | .ifCmd shoe _ _ => below 9 shoe
  | .loopCmd shoe _ _ => below 9 shoe
  | .loopIterationStart shoe _ _ => below 9 shoe
  | .callCmd shoe _ _ _ _ => below 9 shoe
  | .callComplete shoe _ _ => below 9 shoe
  | .roundArm shoe _ _ => below 9 shoe
  | .roundDisarm shoe _ _ => below 9 shoe
  | .assaySearch shoe _ _ => below 9 shoe
  | .assayMerge shoe _ _ => below 9 shoe
  | .pageMap shoe _ _ => below 9 shoe
  | .pageUnmap shoe _ _ => below 9 shoe
  | .pagePromote shoe _ _ => below 9 shoe
  | .pageDemote shoe _ _ => below 9 shoe
  | .pageMoveCommit table page => below 9 table && below (2 ^ 24) page
  | .clearCmd _ _ _ => true
  | .clearComplete _ _ => true
  | .commonLoad _ _ _ => true
  | .commonRemove _ _ => true
  | .tableLoad _ _ _ => true
  | .tableLoadCommit slot => below 32 slot
  | .fenceClear _ _ => true
  | .sealCmd _ _ _ => true
  | .shoeTimeout shoe _ _ _ _ => below 9 shoe
  | .rtLaneTimeout lane _ _ => below 16 lane
  | .itemCommit shoe _ => below 9 shoe
  | .outcomeWrite shoe _ => below 9 shoe
  | .moderationTimeout shoe => below 9 shoe
  | .sheetConsumedWrite shoe v => below 9 shoe && below (2 ^ 64) v
  | .shoeEnable shoe v _ => below 9 shoe && below (2 ^ 64) v
  | .shoeDisable shoe v => below 9 shoe && below (2 ^ 64) v
  | .sheetEnable shoe v => below 9 shoe && below (2 ^ 64) v
  | .shoeFetchWrite shoe v => below 9 shoe && below (2 ^ 64) v
  | .ldgLookup shoe => below 16 shoe
  | .tierLookup va table => below (2 ^ 40) va && below 16 table
  | .tierCommonShareWrite claim v => below 8 claim && below (2 ^ 64) v
  | .tlyOpAdd claim tally v => below 8 claim && below 1024 tally && below (2 ^ 64) v
  | .tlyOpSet claim tally v => below 8 claim && below 1024 tally && below (2 ^ 64) v
  | .tlyOpPoison claim tally => below 8 claim && below 1024 tally
  | .tlyHostWaitArm claim slot tally _ threshold => below 8 claim && below 16 slot && below 1024 tally && below (2 ^ 32) threshold
  | .tlyDevOpAdd tally v => below 64 tally && below (2 ^ 64) v
  | .tlyDevOpSet tally v => below 64 tally && below (2 ^ 64) v
  | .tlyDevOpArm tally v => below 64 tally && below (2 ^ 64) v
  | .tlyDevOpPoison tally => below 64 tally
  | .trickArriveReceived round index generation origin tag => below (2 ^ 16) round && below 8 index && below (2 ^ 32) generation && seatOk origin && below (2 ^ 64) tag
  | .trickReleaseReceived round index generation tag => below (2 ^ 16) round && below 8 index && below (2 ^ 32) generation && below (2 ^ 64) tag
  | .trickPoisonReceived round index origin tag => below (2 ^ 16) round && below 8 index && seatOk origin && below (2 ^ 64) tag
  | .portTrainingStart port _ => below 12 port
  | .portTrainingTimeout port => below 12 port
  | .portRetrainTimer port _ => below 12 port
  | .helloReceived port payload => below 12 port && sized 240 payload
  | .quarantineReceived port => below 12 port
  | .flitReceived port lane bytes dest _ => below 12 port && below 8 lane && sized 256 bytes && seatOk dest
  | .nakReceived port lane ack => below 12 port && below 8 lane && below 256 ack
  | .replayLimitReached port lane => below 12 port && below 8 lane
  | .laneFailure port lane => below 12 port && below 8 lane
  | .lanesReceived port bitmap => below 12 port && below 256 bitmap
  | .lanesAckReceived port bitmap => below 12 port && below 256 bitmap
  | .portFailure port => below 12 port
  | .echoTimer => true
  | .echoReceived port payload _ => below 12 port && sized 240 payload
  | .handReceived header _ _ => sized 48 header
  | .putReceived header _ _ => sized 48 header
  | .signalReceived header => sized 48 header
  | .receiptReceived header => sized 48 header
  | .abortReceived header => sized 48 header
  | .receiptTimeout _ => true
  | .messageForward port cls trick dest header _ _ => below 12 port && below 2 cls && seatOk dest && headerLen trick header
  | .szlHoldDown port _ => below 12 port
  | .szlRetrain port _ => below 12 port
  | .szlClearCounters port => below 12 port
  | .szlpLinkFailure link => below 14 link
  | .szlpRetrain link _ => below 14 link
  | .failedPortIdle => true
  | .roundStepTrigger ctrl => below 16 ctrl
  | .roundHandSend ctrl => below 16 ctrl
  | .passTimeout ctrl => below 16 ctrl
  | .pcieLinkTrain gen width => below 7 gen && below 17 width
  | .pcieLinkDown => true
  | .pfFunctionLevelReset => true
  | .busMasterEnableWrite fn _ _ _ => below 9 fn
  | .d3hotTransition fn _ _ _ => below 9 fn
  | .msixMaskChange fn _ _ vector _ => below 9 fn && below 64 vector
  | .hstWinWrite fn window _ v => below 9 fn && below 4 window && below (2 ^ 64) v
  | .unsupportedRequestReceived fn => below 9 fn
  | .hostReadError _ => true
  | .ethLinkNegotiate port _ => below 2 port
  | .ethFrameReceived port _ _ _ => below 2 port
  | .rawRxConsumedWrite v => below (2 ^ 64) v
  | .rawTxProduce v _ => below (2 ^ 64) v
  | .qpCreate claim _ => below 8 claim
  | .qpModify claim handle _ => below 8 claim && below (2 ^ 11) handle
  | .qpDestroy claim handle => below 8 claim && below (2 ^ 11) handle
  | .qpQuery claim handle => below 8 claim && below (2 ^ 11) handle
  | .sqDoorbell claim handle v _ => below 8 claim && below (2 ^ 11) handle && below (2 ^ 64) v
  | .rqDoorbell claim handle v _ => below 8 claim && below (2 ^ 11) handle && below (2 ^ 64) v
  | .cqConsumedWrite claim handle v _ => below 8 claim && below (2 ^ 11) handle && below (2 ^ 64) v
  | .roceAckReceived claim handle psn _ _ => below 8 claim && below (2 ^ 11) handle && below (2 ^ 24) psn
  | .roceNakReceived claim handle psn code _ => below 8 claim && below (2 ^ 11) handle && below (2 ^ 24) psn && below 256 code
  | .qpAckTimeout claim handle => below 8 claim && below (2 ^ 11) handle
  | .rdmaWriteReceived claim handle psn rkey addr _ _ _ => below 8 claim && below (2 ^ 11) handle && below (2 ^ 24) psn && below (2 ^ 32) rkey && below (2 ^ 64) addr
  | .rdmaReadReceived claim handle psn rkey addr len _ => below 8 claim && below (2 ^ 11) handle && below (2 ^ 24) psn && below (2 ^ 32) rkey && below (2 ^ 64) addr && below (2 ^ 32) len
  | .roceSendReceived claim handle psn _ _ _ => below 8 claim && below (2 ^ 11) handle && below (2 ^ 24) psn
  | .cnpReceived claim handle => below 8 claim && below (2 ^ 11) handle
  | .cePacketReceived claim handle => below 8 claim && below (2 ^ 11) handle
  | .rateIncreaseTimer claim handle => below 8 claim && below (2 ^ 11) handle
  | .pfcFrameReceived port priority _ => below 2 port && below 8 priority
  | .entMrWrite claim region word v => below 8 claim && below 64 region && below 3 word && below (2 ^ 64) v
  | .entGidCommit port gid v => below 2 port && below 16 gid && below (2 ^ 64) v
  | .asyIndexBind index va claim => below 64 index && below (2 ^ 40) va && below 8 claim
  | .asyIndexUnbind index v => below 64 index && below (2 ^ 64) v
  | .batchComplete => true
  | .continuousBatch => true
  | .asyAdvanceWrite index => below (2 ^ 16) index
  | .backfill => true
  | .eccWriteBack => true
  | .eccCeOverClear die group => below 7 die && below 88 group
  | .eccLogRelease die entry => below 7 die && below 16 entry
  | .eccPatchInstall die mac row word => below 7 die && below (2 ^ 14) mac && below 512 row && below 32 word
  | .eccPatchRemove die mac row word => below 7 die && below (2 ^ 14) mac && below 512 row && below 32 word
  | .eccTestWriteNormal => true
  | .eccTestWriteSplit => true
  | .eccTestRead => true
  | .eccTestArmFlip => true
  | .redealRequest _ => true
  | .redealWalkEnd => true
  | .redealResume => true
  | .redealBoundExpiry => true
  | .redealStallAlert => true
  | .resetLFall => true
  | .pwrokFall => true
  | .stbyPwrokFall => true
  | .resetHeldAlert => true
  | .dealerUnitFault cls unit => below 4 cls && below 96 unit
  | .lamphouseUnitDisable cls unit _ => below 4 cls && below 96 unit
  | .secKeySlot _ _ => true
  | .secDebugGrant _ => true
  | .secDebugRevoke claim => below 8 claim
  | .secVendorOpen _ _ => true
  | .debugGrantExpiry claim => below 8 claim
  | .dbgHalt claim => below 8 claim
  | .dbgResume claim => below 8 claim
  | .dbgStep claim => below 8 claim
  | .dbgObserve claim v => below 8 claim && below (2 ^ 64) v
  | .jtagIdcode => true
  | .jtagBypass => true
  | .jtagSamplePreload v => below (2 ^ 64) v
  | .jtagExtest v => below (2 ^ 64) v
  | .jtagDebugAccess _ => true
  | .pwrRequestP2 _ => true
  | .pwrRequestP0 _ => true
  | .pwrRequestP3 _ => true
  | .powerLimitCheck _ _ => true
  | .thermalSample temps => sized 8 temps
  | .avsbusCommandTimeout _ _ => true
  | .railMonitorFault => true
  | .refclkSzLoss => true
  | .crystalLoss => true
  | .qualifiedPwrokRestore _ => true
  | .mctpPacketReceived packet _ _ _ => packetOk packet
  | .setEndpointId eid => below 256 eid
  | .getNonce => true
  | .mgmtSecurityKeySlot _ _ => true
  | .mgmtSecurityDebugGrant _ => true
  | .mgmtSecurityDebugRevoke claim => below 8 claim
  | .mgmtSecurityVendorOpen _ _ => true
  | .flashRead off len => below (2 ^ 32) off && below (2 ^ 16) len
  | .flashErase off count _ => below (2 ^ 32) off && below (2 ^ 16) count
  | .flashWrite off _ _ => below (2 ^ 32) off
  | .bootRetry _ => true
  | .getTid => true
  | .setTid tid => below 256 tid
  | .getPldmVersion type => below 256 type
  | .getPldmTypes => true
  | .getPldmCommands type => below 256 type
  | .getPdrRepositoryInfo => true
  | .getPdr handle => below (2 ^ 32) handle
  | .getSensorReading id => below (2 ^ 16) id
  | .getStateSensorReadings id => below (2 ^ 16) id
  | .getNumericEffecterValue id => below (2 ^ 16) id
  | .getStateEffecterStates id => below (2 ^ 16) id
  | .powerRequestEffecter request _ => below 4 request
  | .powerLimitEffecter watts => below (2 ^ 11) watts
  | .alertAcknowledge causes => below (2 ^ 16) causes
  | .alertMask causes => below (2 ^ 16) causes
  | .setEventReceiver mode receiver => below 3 mode && below 256 receiver
  | .pollForPlatformEventMessage => true
  | .platformEventMessage => true
  | .platformEventRetry => true
  | .platformEventAck => true
  | .getVersion => true
  | .getCapabilities => true
  | .negotiateAlgorithms => true
  | .getDigests => true
  | .getCertificate slot off len => below 256 slot && below (2 ^ 16) off && below (2 ^ 16) len
  | .challenge nonce => sized 32 nonce
  | .getMeasurements index _ nonce => below 256 index && sized 32 nonce
  | .vfEnableSet numVfs => below (2 ^ 16) numVfs
  | .ethLinkLoss port => below 2 port
  | .rnrTimerExpiry claim handle => below 8 claim && below (2 ^ 11) handle

end Sys2Proof
end

