-- ==== Sys2Proof/Machine/TypesEngine.lean ====
section
/-! DEFINITION. What a core's control core issues (R128 to R131, Table 7.2): the encoding of core programs is private
(R3), and these are the effects that the description fixes. -/

namespace Sys2Proof.Machine

/-- The four engines that the control core issues to, in the order of their queues (Tables 7.1 and 18.7). -/
inductive EngineKind where
  | tensor
  | vector
  | table
  | hoist
deriving DecidableEq, Repr, Inhabited

/-- The number of an engine's queue. -/
def EngineKind.index : EngineKind → Nat
  | .tensor => 0
  | .vector => 1
  | .table => 2
  | .hoist => 3

/-- A region that an instruction names (R131): from the current address of a register, in 64-byte units, in the
context's working set or in the gallery. -/
structure EngOperand where
  reg : Nat := 0
  units : Nat := 1
  inT1 : Bool := false
deriving DecidableEq, Repr, Inhabited

/-- An instruction for an engine: up to three regions read, one written, and the hoist descriptors it puts in flight. -/
structure EngInstr where
  engine : EngineKind := .vector
  reads : List EngOperand := []
  write : Option EngOperand := none
  descriptors : Nat := 1
deriving DecidableEq, Repr, Inhabited

/-- What the control core does with one instruction (R128, R130): it issues to one engine, or sets a resource of
Table 7.2. A loop runs the instructions of the next `len` bytes `count` times. -/
inductive CoreInstr where
  | issue (i : EngInstr)
  | setAddr (reg : Nat) (base : BitVec 40) (stride : BitVec 24) (bound current : BitVec 40)
  | setLoop (level : Nat) (count : BitVec 24) (len : Nat)
  | setScalar (reg : Nat) (value : BitVec 32)
deriving DecidableEq, Repr, Inhabited

end Sys2Proof.Machine
end

