-- ==== Sys2Proof/Config.lean ====
section
/-! DEFINITION. The free values: what the spec leaves open and no definition of the model can evaluate. -/

namespace Sys2Proof

/-- The sectors in which the lossless compressor stores a block's bytes, before the bounds of R202; `none` is a
byte that was never written. The compressor itself is not described. DESIGN CHOICE, log entry 54. -/
opaque Config.blockSectors : List (Option Byte) → Nat

/-- The channel group to which a handle's hash sends a page, per draw (R187); the hash is not described. -/
opaque Config.handleGroup : Nat → Nat → Nat

/-- The hash h of a handle, which places its blocks on the channels of its group (R187); it is not described. -/
opaque Config.handleHash : Nat → Nat

/-- The word of its channel that stores word `k` of handle `h` (R202, R330): how sectors lie within a channel is not
described. DESIGN CHOICE, log entry 57. -/
opaque Config.vaultWord : Nat → Nat → Nat

/-- What the vault gives for the bytes of a block that was stored under another key or tweak, from both keys, both tweaks
and the bytes (R208); AES-256-XTS there yields no byte that was stored. DESIGN CHOICE, log entry 132. -/
opaque Config.wrongKey : Option Nat × Nat → Option Nat × Nat → List Byte → List Byte

/-- The KiB of a vault die's scrub order in which word `k` of handle `h` is stored (R348). -/
opaque Config.vaultKib : Nat → Nat → Nat

/-- Whether the private remainder of a program set passes the cores' own check (R143). DESIGN CHOICE, log entry 76. -/
opaque Config.programPrivateOk : List Byte → Bool

/-- Whether a program set carries buckets; its directory is private (R122). -/
opaque Config.programBucketed : List Byte → Bool

/-- Where the selected variant of a program set lies within it and how long it is (R122, R145), from the set's bytes
and the length and batch extents; the directory is private. -/
opaque Config.programVariant : List Byte → Nat → Nat → Nat × Nat

/-- A byte that the spec leaves indeterminate, per draw. -/
opaque Config.indeterminate : Nat → Byte

/-- A word drawn from the entropy source (R377), per draw. -/
opaque Config.entropy : Nat → Nat

/-- The identity public key, X followed by Y, of an identity seed (R374); the derivation is not described. -/
opaque Config.identityKey : List Byte → List Byte

/-- The identity signature, r followed by s, over a message, for a seed (R39, R374, R410), per draw. -/
opaque Config.identitySign : List Byte → List Byte → Nat → List Byte

/-- SHA-384 of the mask ROM of stepping A1 (Table 18.2). -/
opaque Config.romHash : List Byte

/-- How the inputs of measurement 2 are laid out for hashing (Table 18.2): the slot hashes, the revoke fuses, the
rollback counter and the security state. -/
opaque Config.fuseLayout : List (List Byte) → List Bool → Nat → Nat → List Byte

/-- The vendor certificate chain of a seed's identity key (R375). -/
opaque Config.certChain : List Byte → List Byte

/-- The instruction at a byte of a program variant and its length, where the scalar registers hold given values; the
encoding of core programs is private (R3). DESIGN CHOICE, log entry 97. -/
opaque Config.coreInstr : List Byte → Nat → List (BitVec 32) → Machine.CoreInstr × Nat

/-- How many instructions of its program the control core runs in one tile group (R3), by block and chunk. -/
opaque Config.groupSteps : List Byte → Nat → Nat → Nat

/-- The scalar register that holds the core's rank, and how far behind it the one with the participant count lies (Table
7.2); which they are is the program's own (R3). -/
opaque Config.rankRegister : List Byte → Nat
opaque Config.countRegister : List Byte → Nat

/-- Whether an engine of a core completes the instruction at the head of its queue now; how long an instruction takes is
not given. -/
opaque Config.engineDone : Nat → Nat → Nat → Bool

/-- The voltage in mV fused for a face die at nominal clock (R429). -/
opaque Config.faceVoltage : Nat → Nat

/-- The voltage in mV, above the fused one and within the rail's range, of a face die that runs boost stakes (R429); the
spec names none. -/
opaque Config.boostVoltage : Nat → Nat

/-- Huatermet's IANA enterprise number (R402). -/
opaque Config.enterprise : Nat

/-- Huatermet's manufacturer identity in IDCODE (R390). -/
opaque Config.manufacturer : Nat

end Sys2Proof
end

