-- ==== Sys2Proof/Machine/State.lean ====
section
/-! DEFINITION. The state of the package and its value after reset. Every field is plain data. -/

namespace Sys2Proof.Machine

/-- Reasons to stop with a fault. No meaning of this model raises one: the spec gives every command an effect. -/
inductive Fault where
  /-- Raised by nobody; kept so that the outcome type has a fault. Safe. -/
  | unreachable
deriving DecidableEq, Repr, Inhabited

/-- Reasons to refuse a command. -/
inductive Refusal where
  /-- The command has no meaning yet; raised by exec's arms only. Safe. -/
  | notModelled (mnemonic : String)
deriving DecidableEq, Repr, Inhabited

/-- The package (chapters 1 to 21). -/
structure State where
  /-- Commands that wait, first in first out (the model's own). -/
  pending : List Instr := []
  /-- Register writes that came in P2 and apply when P0 returns, in order (R393). -/
  held : List Instr := []
  /-- The number of free values drawn so far (the model's own). -/
  freeCtr : Nat := 0
  /-- The local timer in ns (R71, R100). -/
  now : Nat := 0
  /-- What the package has sent, oldest first. -/
  out : List Output := []
  boot : Boot := {}
  beat : Beat := {}
  cl : Claims := {}
  dl : Dealer := {}
  tiers : Tiers := {}
  sync : Sync := {}
  fns : Vector Fn 9 := Vector.replicate 9 {}
  redeal : Redeal := {}
  fences : Fences := {}
  ecc : Ecc := {}
  link : Link := {}
  rounds : Rounds := {}
  dbg : Debug := {}
  power : Power := {}
  mgmt : Mgmt := {}
  pcie : Pcie := {}
  net : Net := {}
  asy : Assay := {}
deriving DecidableEq, Repr, Inhabited

/-- The machine right after reset. DESIGN CHOICE, log entry 4. -/
def State.reset : State := {}

end Sys2Proof.Machine
end

