-- ==== Sys2Proof/Machine/Ops.lean ====
section
/-! DEFINITION. Operations that every family shares: what the package sends, host requests and their checks
(R285, R288), interrupts (R82, R290), events (R80, R81), free values, and the small readings of the state that the
rules name. -/

namespace Sys2Proof.Machine

/-- The state with one more thing sent. DESIGN CHOICE, log entry 2. -/
def State.emit (s : State) (o : Output) : State := { s with out := s.out ++ [o] }

/-- The number of the next free value, and the state with it drawn. DESIGN CHOICE, log entry 1. -/
def State.draw (s : State) : State := { s with freeCtr := s.freeCtr + 1 }

/-- The function of a shoe, ring or claim: claim n is function n + 1, the steward (8) is function 0 (R63). -/
def fnOf (n : Nat) : Nat := if n < 8 then n + 1 else 0

/-- The function may issue requests (R288). -/
def canIssue (s : State) (fn : Nat) : Bool :=
  let f := tget s.fns fn
  f.busMaster && !f.d3hot

/-- The range lies wholly inside one window in force of the function (R285). -/
def winOk (s : State) (fn addr len : Nat) : Bool :=
  (tget s.fns fn).wins.toList.any fun w =>
    w.valid && decide (w.base * 4096 ≤ addr) && decide (addr + len ≤ w.limit * 4096 + 4096)

/-- A host access of the function would be issued and not fail its check (R285, R288). -/
def hostOk (s : State) (fn addr len : Nat) : Bool := canIssue s fn && winOk s fn addr len

/-- A posted write that is issued only when R285 and R288 let it; otherwise nothing is sent.
DESIGN CHOICE, log entry 11. -/
def postHost (s : State) (fn addr : Nat) (bytes : List Byte) : State :=
  if hostOk s fn addr bytes.length then s.emit (.hostWrite fn addr bytes) else s

/-- The bytes a host read brought, cut or padded to the length asked for; `none` for an error (R289). -/
def HostResp.bytes (r : HostResp) (len : Nat) : Option (List Byte) :=
  match r with
  | .ok bs => some (bytesAt bs 0 len)
  | .err => none

/-- An error is logged through AER (R289). -/
def aerLog (s : State) : State := { s with pcie := { s.pcie with aerErrors := s.pcie.aerErrors + 1 } }

/-- A read that has been issued comes back: its bytes, or an error, which is logged (R289). -/
def readBack (s : State) (r : HostResp) (n : Nat) : State × Option (List Byte) :=
  match r.bytes n with
  | some b => (s, some b)
  | none => (aerLog s, none)

/-- Issue a read that has passed its check, and take what it brings (R285, R289). -/
def readHost (s : State) (fn addr len : Nat) (r : HostResp) : State × Option (List Byte) :=
  readBack (s.emit (.hostRead fn addr len)) r len

/-- Change one function. -/
def State.modFn (s : State) (fn : Nat) (f : Fn → Fn) : State := { s with fns := tmod s.fns fn f }

/-- Change the claims block. -/
def State.modCl (s : State) (f : Claims → Claims) : State := { s with cl := f s.cl }

/-- Change the Dealer's block. -/
def State.modDl (s : State) (f : Dealer → Dealer) : State := { s with dl := f s.dl }

/-- Change the memory tiers. -/
def State.modTiers (s : State) (f : Tiers → Tiers) : State := { s with tiers := f s.tiers }

/-- Change the tallies block. -/
def State.modSync (s : State) (f : Sync → Sync) : State := { s with sync := f s.sync }

/-- Change the power block. -/
def State.modPower (s : State) (f : Power → Power) : State := { s with power := f s.power }

/-- The Lamphouse commands a rail (R429). -/
def avsWrite (s : State) (rail mv : Nat) : State :=
  (s.modPower fun p => { p with rails := ainsert p.rails rail mv, avsTries := aerase p.avsTries rail }).emit (.avs rail mv)

/-- Claim n. -/
def State.claim (s : State) (n : Nat) : Claim := tget s.cl.claims n

/-- Change claim n. -/
def State.modClaim (s : State) (n : Nat) (f : Claim → Claim) : State :=
  s.modCl fun c => { c with claims := tmod c.claims n f }

/-- Event ring n (8 the steward's). -/
def State.ring (s : State) (n : Nat) : EvtRing := tget s.cl.rings n

/-- Change event ring n. -/
def State.modRing (s : State) (n : Nat) (f : EvtRing → EvtRing) : State :=
  s.modCl fun c => { c with rings := tmod c.rings n f }

/-- Shoe n (8 the steward's). -/
def State.shoe (s : State) (n : Nat) : Shoe := tget s.dl.shoes n

/-- Change shoe n. -/
def State.modShoe (s : State) (n : Nat) (f : Shoe → Shoe) : State :=
  s.modDl fun d => { d with shoes := tmod d.shoes n f }

/-- The held image, with the defaults where none is held. -/
def State.image (s : State) : Image := s.boot.img.getD {}

/-- A claim number is valid (R63). -/
def claimValid (s : State) (n : Nat) : Bool := decide (n < 8) && decide (n < s.image.claimCount)

/-- Vector v of a function is raised (R290). DEDUCED, log entry 39. -/
def raiseVector (s : State) (fn v : Nat) : State :=
  let f := tget s.fns fn
  if canIssue s fn && f.msixEnable && !f.msixMask && !(tget f.vecs v).masked then s.emit (.msix fn v)
  else s.modFn fn fun f => { f with vecs := tmod f.vecs v fun x => { x with pending := true } }

/-- The vector of an interrupt source of ring n: the claim's map or the steward's (R82, Table 4.19). -/
def sourceVector (s : State) (n src : Nat) : Nat :=
  if n < 8 then bits (tget s.cl.vectorMap n).toNat (4 * src) 4 else bits s.cl.stewardVectors.toNat (8 * src) 6

/-- How many vectors ring n's function has (R82). -/
def vectorLimit (s : State) (n : Nat) : Nat := if n < 8 then (s.claim n).vectors else 64

/-- Interrupt source src of ring n is raised (R82); a vector that the claim does not have raises nothing. -/
def raiseSource (s : State) (n src : Nat) : State :=
  if sourceVector s n src < vectorLimit s n then raiseVector s (fnOf n) (sourceVector s n src) else s

/-- The ring takes records (R81). -/
def EvtRing.active (r : EvtRing) : Bool :=
  r.enable && decide (6 ≤ r.sizeLog2) && decide (r.sizeLog2 ≤ 12) && decide (r.consumed < 2 ^ r.sizeLog2)

/-- Free record slots of a ring (R81). -/
def EvtRing.room (r : EvtRing) : Nat :=
  if r.active then (r.consumed + 2 ^ r.sizeLog2 - r.produce % 2 ^ r.sizeLog2 - 1) % 2 ^ r.sizeLog2 else 0

/-- The source that a record of a type raises on a claim ring or on the steward ring (Table 4.7, R206). -/
def eventSource (steward : Bool) (type : Nat) : Nat :=
  match type with
  | 0x0001 => 4
  | 0x0002 => 2
  | 0x0003 => 2
  | 0x0004 => 3
  | 0x0005 => if steward then 6 else 5
  | 0x0006 => if steward then 5 else 2
  | 0x0007 => 2
  | 0x0008 => 2
  | 0x0010 => 3
  | 0x0011 => 4
  | _ => 2

/-- The phase counter (R55): 65,536 steps a measured period from the edge on, stopped at 0xFFFF, and not below the phase
of an entry that has fired. DESIGN CHOICE, log entry 121. -/
def beatPhase (s : State) : Nat :=
  if s.beat.aligned then min 0xFFFF (max s.beat.phase ((s.now - s.beat.edgeAt) * 65536 / s.beat.period)) else 0

/-- The beat field of a record (Table 4.6): count and phase, or 0 while unaligned. -/
def beatStamp (s : State) : Nat :=
  if s.beat.aligned then s.beat.count % 2 ^ 48 + 2 ^ 48 * beatPhase s else 0

/-- The 64 bytes of an event record (Table 4.6). -/
def eventRecord (s : State) (n type cause : Nat) (phase more : Bool) (seq : Nat) (body : List Byte) : List Byte :=
  leBytes 2 type ++ leBytes 2 cause ++ leBytes 1 (b2n phase + 2 * b2n more)
    ++ leBytes 1 (if n < 8 then n else 0xFF) ++ leBytes 2 0 ++ leBytes 8 (beatStamp s) ++ leBytes 8 seq
    ++ bytesAt body 0 40

/-- Write an event's records at the ring's produce index, the last one without `continued` (R80, R81). -/
def writeRecords (s : State) (n type cause : Nat) : List (List Byte) → State
  | [] => s
  | body :: rest =>
    let r := s.ring n
    let rec_ := eventRecord s n type cause r.validPhase (!rest.isEmpty) r.nextEvent body
    let s1 := postHost s (fnOf n) (64 * r.base + 64 * r.produce) rec_
    let wrap := decide (r.produce + 1 = 2 ^ r.sizeLog2)
    let s2 := s1.modRing n fun r =>
      { r with produce := if wrap then 0 else r.produce + 1, validPhase := if wrap then !r.validPhase else r.validPhase }
    writeRecords s2 n type cause rest

/-- An event meets a full or disabled ring: it is counted as lost and raises source 7 (R81). -/
def eventLost (s : State) (n : Nat) : State :=
  raiseSource (s.modRing n fun r => { r with overflow := true, lost := satInc 16 r.lost }) n 7

/-- Write an event now, or count it as lost (R81). -/
def writeEvent (s : State) (n type cause : Nat) (bodies : List (List Byte)) : State :=
  if bodies.length ≤ (s.ring n).room ∧ (s.ring n).active then
    let s1 := writeRecords s n type cause bodies
    let s2 := s1.modRing n fun r => { r with nextEvent := r.nextEvent + 1 }
    raiseSource s2 n (eventSource (decide (8 ≤ n)) type)
  else eventLost s n

/-- Post an event to ring n (0 to 7 a claim's, 8 the steward's): it waits while the function may not issue
requests, and is otherwise written or lost (R81, R288). DEDUCED, log entry 38. -/
def postEvent (s : State) (n type cause : Nat) (bodies : List (List Byte)) : State :=
  if (s.ring n).active && !canIssue s (fnOf n) then
    s.modRing n fun r => { r with waiting := r.waiting ++ [(type, cause, bodies)] }
  else writeEvent s n type cause bodies

/-- Write the events that waited for bus mastering, oldest first (R288). -/
def flushEvents (s : State) (n : Nat) : State :=
  let ws := (s.ring n).waiting
  ws.foldl (fun s w => writeEvent s n w.1 w.2.1 w.2.2) (s.modRing n fun r => { r with waiting := [] })

/-- The package is between a redeal's trigger and its end. -/
def State.redealing (s : State) : Bool := s.boot.dev = .redealing

/-- The package runs work: READY, NEW_SEAT or REDEALING. -/
def State.up (s : State) : Bool :=
  s.boot.dev = .ready || s.boot.dev = .newSeat || s.boot.dev = .redealing

/-- Table 4.5: the fields of a share profile. -/
def profClass (p : Word32) : Nat := bits p.toNat 0 2
def profResv (p : Word32) : Nat := bits p.toNat 8 7
def profBoost (p : Word32) : Nat := bits p.toNat 16 7
def profWeight (p : Word32) : Nat := bits p.toNat 24 8

/-- A share profile is valid (R74). -/
def profValid (p : Word32) : Bool :=
  decide (bits p.toNat 2 6 = 0) && decide (bits p.toNat 15 1 = 0) && decide (bits p.toNat 23 1 = 0)
    && decide (profWeight p ≠ 0) && decide (profResv p ≤ 64) && decide (profBoost p ≤ 64)
    && !(decide (profClass p = 0) && decide (profResv p ≠ 0))

/-- Is binding i among those in force: valid, below POLICY.rt_lanes, and naming no lane or claim of a lower one
in force (R77, Table 4.18). -/
def rtLive (s : State) : List (Nat × RtBind) :=
  let all := (List.range 4).map fun i => (i, tget s.cl.rtInForce i)
  (all.filter fun b => b.2.valid && decide (b.1 < s.image.rtLanes)).foldl
    (fun acc b => if acc.any (fun a => decide (a.2.lane = b.2.lane) || decide (a.2.claim = b.2.claim)) then acc
      else acc ++ [b]) []

/-- The lane bound to a claim in real time (R121). -/
def rtLaneOf (s : State) (claim : Nat) : Option Nat :=
  ((rtLive s).find? fun b => b.2.claim == claim).map (·.2.lane)

/-- The claim bound to a lane in real time (R121). -/
def rtClaimOf (s : State) (lane : Nat) : Option Nat :=
  ((rtLive s).find? fun b => b.2.lane == lane).map (·.2.claim)

/-- The binding in force that names a lane. -/
def rtBindingOf (s : State) (lane : Nat) : Option Nat :=
  ((rtLive s).find? fun b => b.2.lane == lane).map (·.1)

/-- The active profile of a claim. -/
def activeProf (c : Claim) : Word32 := tget c.profiles c.activeProfile

/-- The effective class: real-time without a bound lane is served as high (R77). -/
def effClass (s : State) (n : Nat) : Nat :=
  let k := profClass (activeProf (s.claim n))
  if k = 3 ∧ (rtLaneOf s n).isNone then 2 else k

/-- Effective boost stakes (R78). -/
def effBoost (s : State) (n : Nat) : Nat :=
  if s.image.boost then profBoost (activeProf (s.claim n)) else 0

/-- CLM_SHARE of a claim (Table 4.14). -/
def clmShare (s : State) (n : Nat) : Nat :=
  let c := s.claim n
  c.activeProfile + 2 ^ 4 * effClass s n + 2 ^ 8 * c.effResv + 2 ^ 16 * effBoost s n
    + 2 ^ 24 * profWeight (activeProf c)

/-- CLM_QUOTA of a claim (Table 4.12). -/
def clmQuota (c : Claim) : Nat :=
  c.ledgerQuota + 2 ^ 16 * c.t1Pages + 2 ^ 32 * c.t2Pages + 2 ^ 48 * c.queuePairs

/-- CLM_ALLOC of a claim (Table 4.13). -/
def clmAlloc (c : Claim) : Nat :=
  c.tallyBase + 2 ^ 16 * c.tallyCount + 2 ^ 32 * c.descriptors + 2 ^ 48 * c.vectors

/-- Ledger items of a shoe. -/
def itemsOf (s : State) (shoe : Nat) : List Item := s.dl.items.filter (·.shoe == shoe)

/-- The ledger's item of a shoe and sequence number. -/
def findItem (s : State) (shoe seq : Nat) : Option Item :=
  s.dl.items.find? fun i => i.shoe == shoe && i.seq == seq

/-- Change one ledger item. -/
def State.modItem (s : State) (shoe seq : Nat) (f : Item → Item) : State :=
  s.modDl fun d => { d with items := d.items.map fun i => if i.shoe == shoe && i.seq == seq then f i else i }

/-- Fenced units (R368). -/
def laneFenced (s : State) (l : Nat) : Bool :=
  (tget s.fences.lanes l).fenced
    || (List.range 6).all fun k => (tget s.fences.cores (6 * l + k)).fenced

/-- The six cores of a lane (R109). -/
def laneCores (l : Nat) : List Nat := rangeFrom (24 * (l / 4) + 6 * (l % 4)) 6

/-- Set or clear ledger_full as the quota, or the bound of the package, holds the claim's fetch back, with its event when
it changes (R68, R126). -/
def updateLedgerFull (s : State) (n : Nat) : State :=
  if n < 8 then
    let c := s.claim n
    let k := (itemsOf s n).length
    let full := (decide (c.ledgerQuota ≤ k) || decide (8192 ≤ s.dl.items.length)) && decide (c.st ≠ .free)
    if full = c.ledgerFull then s
    else
      postEvent (s.modClaim n fun c => { c with ledgerFull := full }) n 0x0001 0
        [leBytes 1 (b2n full) ++ leBytes 1 0 ++ leBytes 2 k]
  else s

end Sys2Proof.Machine
end

