-- ==== Sys2Proof/Machine/Decks.lean ====
section
/-! DEFINITION. Shoe entries and deck commands: their fields (R86, R91, Tables 5.1 to 5.4), where each command is
legal (R95) and the checks in the order of R444. -/

namespace Sys2Proof.Machine

/-- The bytes of the command at granule `g` of a level. -/
def cmdAt (bs : List Byte) (g : Nat) : List Byte := bs.drop (16 * g)

/-- Header fields (Table 5.2). -/
def cmdOp (b : List Byte) : Nat := field b 0 1
def cmdExtra (b : List Byte) : Nat := bits (field b 1 1) 0 2
def cmdWaitAll (b : List Byte) : Bool := bit (field b 1 1) 2
def cmdSigValid (b : List Byte) : Bool := bit (field b 1 1) 3
def cmdSignal (b : List Byte) : Nat := bits (field b 1 1) 4 3
def cmdWaits (b : List Byte) : BitVec 8 := BitVec.ofNat 8 (field b 2 1)
def cmdTag (b : List Byte) : Nat := field b 4 2

/-- Granules a command occupies. -/
def cmdSize (b : List Byte) : Nat := 1 + cmdExtra b

/-- Extra granules of an opcode; none for an opcode outside Table 5.3. -/
def opExtra (op : Nat) : Option Nat :=
  match op with
  | 0x00 => some 0
  | 0x01 => some 1
  | 0x02 => some 1
  | 0x03 => some 0
  | 0x04 => some 1
  | 0x05 => some 1
  | 0x06 => some 1
  | 0x07 => some 0
  | 0x08 => some 0
  | 0x09 => some 1
  | 0x0A => some 0
  | 0x0B => some 1
  | 0x0C => some 0
  | 0x40 => some 0
  | 0x41 => some 0
  | 0x42 => some 0
  | 0x43 => some 0
  | 0x44 => some 1
  | 0x45 => some 1
  | 0x46 => some 0
  | 0x47 => some 0
  | _ => none

/-- The operand bytes that Table 5.4 lists for an opcode, as (offset, length). -/
def opFields (op : Nat) : List (Nat × Nat) :=
  match op with
  | 0x01 => [(0x06, 1), (0x07, 1), (0x08, 5), (0x10, 16)]
  | 0x02 => [(0x06, 1), (0x08, 8), (0x10, 4)]
  | 0x03 => [(0x06, 1), (0x08, 2), (0x0C, 4)]
  | 0x04 => [(0x06, 2), (0x08, 24)]
  | 0x05 => [(0x06, 1), (0x08, 16)]
  | 0x06 => [(0x06, 1), (0x08, 8), (0x10, 5), (0x18, 4)]
  | 0x07 => [(0x06, 1), (0x08, 8)]
  | 0x08 => [(0x06, 10)]
  | 0x09 => [(0x08, 8), (0x10, 4)]
  | 0x0A => [(0x06, 7)]
  | 0x0B => [(0x06, 14)]
  | 0x0C => [(0x06, 2), (0x08, 5), (0x0E, 2)]
  | 0x40 => [(0x08, 8)]
  | 0x41 => [(0x08, 8)]
  | 0x42 => [(0x06, 1)]
  | 0x43 => [(0x06, 1), (0x08, 4)]
  | 0x44 => [(0x08, 8), (0x10, 5), (0x18, 4)]
  | 0x45 => [(0x06, 1), (0x08, 8), (0x10, 4)]
  | 0x46 => [(0x06, 1), (0x08, 2)]
  | _ => []

/-- Every byte of the command's `n` bytes from 6 that Table 5.4 does not list is 0, and so are byte 3 and ctl bit 7. -/
def reservedOk (b : List Byte) (n : Nat) : Bool :=
  decide (field b 3 1 = 0) && !bit (field b 1 1) 7 &&
    (rangeFrom 6 (n - 6)).all fun i =>
      (opFields (cmdOp b)).any (fun f => decide (f.1 ≤ i) && decide (i < f.1 + f.2)) || decide (field b i 1 = 0)

/-- A descriptor index, with 0xFFFF where the table allows none (R93). -/
def descOk (count idx : Nat) (none_ : Bool) : Bool := decide (idx < count) || (none_ && decide (idx = 0xFFFF))

/-- MACRO's param rows (Table 7.5a), but for the rules that need a descriptor. -/
def paramOk (code p : Nat) : Bool :=
  match code with
  | 1 => decide (bits p 8 24 = 0)
  | 2 => decide (bits p 12 4 = 0) && decide (1 ≤ bits p 4 8 ∧ bits p 4 8 ≤ 128)
  | 3 => decide (bits p 12 4 = 0) && decide (bits p 0 2 = 0) && !bit p 3 && decide (1 ≤ bits p 4 8 ∧ bits p 4 8 ≤ 128)
  | 4 => decide (bits p 5 27 = 0)
  | 5 => decide (bits p 1 15 = 0) && !bit p 31 && decide (bits p 23 8 ≠ 0xFF) && decide (bits p 16 16 ≠ 0)
  | 6 => decide (bits p 4 28 = 0)
  | 7 => decide (p = 0)
  | 8 => decide (bits p 3 29 = 0)
  | 9 => decide (bits p 13 19 = 0) && decide (1 ≤ bits p 0 11 ∧ bits p 0 11 ≤ 1024) && decide (bits p 11 2 ≤ 2)
  | _ => false

/-- A deck's length field (Table 5.4). -/
def deckLenOk (n : Nat) : Bool := decide (n % 16 = 0) && decide (16 ≤ n) && decide (n ≤ 1048576)

/-- The operand ranges of Table 5.4 and R93; `descs` and `tallies` are the claim's counts, or 64 tallies on the
steward shoe (R113). -/
def operandsOk (b : List Byte) (descs tallies : Nat) : Bool :=
  match cmdOp b with
  | 0x01 =>
    decide (1 ≤ field b 6 1 ∧ field b 6 1 ≤ 9) && (decide (field b 7 1 ≤ 15) || decide (field b 7 1 = 0xFF))
      && decide (field b 8 5 % 64 = 0)
      && (List.range 6).all (fun i => descOk descs (field b (0x10 + 2 * i) 2) true)
      && paramOk (field b 6 1) (field b 0x1C 4)
  | 0x02 => decide (field b 6 1 ≤ 15) && decide (field b 8 8 % 64 = 0) && deckLenOk (field b 0x10 4)
  | 0x03 => decide (field b 6 1 ≤ 5) && decide (field b 8 2 < tallies)
  | 0x04 =>
    let wide := bit (field b 6 1) 3
    decide (bits (field b 6 1) 0 3 ≤ 3) && decide (bits (field b 6 1) 4 4 = 0) && decide (1 ≤ field b 7 1)
      && decide (field b 8 8 % (if wide then 8 else 4) = 0)
      && (wide || (decide (field b 0x14 4 = 0) && decide (field b 0x1C 4 = 0)))
  | 0x05 =>
    let wide := bit (field b 6 1) 0
    let src := bits (field b 6 1) 1 2
    decide (bits (field b 6 1) 3 5 = 0) && decide (src ≤ 2) && decide (field b 8 8 % (if wide then 8 else 4) = 0)
      && (wide || (decide (src = 0) && decide (field b 0x14 4 = 0))) && (decide (src = 0) || decide (field b 0x10 8 = 0))
  | 0x06 =>
    decide (field b 6 1 ≤ 1) && decide (field b 8 8 % 32 = 0) && decide (field b 0x10 5 % 32 = 0)
      && decide (field b 0x18 4 % 32 = 0) && decide (32 ≤ field b 0x18 4 ∧ field b 0x18 4 ≤ 268435456)
      && decide (field b 0x10 5 + field b 0x18 4 ≤ 2 ^ 40)
  | 0x07 => decide (field b 6 1 ≤ 3) && decide (field b 8 2 < tallies) && decide (1 ≤ field b 0xA 2)
  | 0x08 =>
    decide (1 ≤ field b 0xA 2) &&
      (match field b 6 1 with
       | 0 => decide (field b 7 1 = 0) && decide (field b 8 2 = 0) && decide (1 ≤ field b 0xC 4)
       | 1 => decide (field b 7 1 ≤ 3) && decide (field b 8 2 < tallies)
       | _ => false)
  | 0x09 => decide (field b 8 8 % 64 = 0) && deckLenOk (field b 0x10 4)
  | 0x0B =>
    (decide (field b 6 2 ≤ 63) || decide (field b 6 2 = 0xFFFF)) && decide (1 ≤ field b 8 2 ∧ field b 8 2 ≤ 1024)
      && decide (1 ≤ field b 0xA 2 ∧ field b 0xA 2 ≤ 256) && decide (1 ≤ field b 0xC 2 ∧ field b 0xC 2 ≤ 256)
      && descOk descs (field b 0xE 2) true && descOk descs (field b 0x10 2) false && descOk descs (field b 0x12 2) false
  | 0x0C =>
    let op := field b 6 1
    let tier := field b 7 1
    decide (op ≤ 3) && decide (field b 8 5 % 65536 = 0) && decide (1 ≤ field b 0xE 2)
      && decide (field b 8 5 + 65536 * field b 0xE 2 ≤ 0xF000000000)
      && (match op with
          | 2 => decide (tier = 1)
          | 3 => decide (tier = 2)
          | _ => decide (tier = 1) || decide (tier = 2))
  | 0x40 => decide (field b 8 8 % 64 = 0)
  | 0x41 => decide (field b 8 8 % 64 = 0)
  | 0x42 => decide (field b 6 1 ≤ 7)
  | 0x43 => decide (field b 6 1 = 1) || decide (field b 6 1 = 2)
  | 0x44 =>
    decide (field b 8 8 % 65536 = 0) && decide (field b 0x10 5 % 65536 = 0) && decide (field b 0x18 4 % 65536 = 0)
      && decide (field b 0x18 4 ≠ 0) && decide (field b 0x10 5 + field b 0x18 4 - 1 ≤ 0x0FFFFBFFFF)
  | 0x45 =>
    decide (field b 6 1 ≤ 31) && decide (field b 8 8 % 16 = 0)
      && decide (28 ≤ field b 0x10 4 ∧ field b 0x10 4 ≤ 784) && decide ((field b 0x10 4 - 16) % 12 = 0)
  | 0x46 =>
    match field b 6 1 with
    | 0 => decide (field b 8 2 < 96)
    | 1 => decide (field b 8 2 < 16)
    | 2 => decide (field b 8 2 < 12)
    | 3 => decide (field b 8 2 < 32)
    | _ => false
  | _ => true

/-- Where commands stand: a claim's deck (with lane mode or not), a claim's single, a steward deck, a steward
single, a lane's sub-deck. -/
inductive Place where
  | claimDeck (laneMode : Bool)
  | claimSingle
  | stewardDeck
  | stewardSingle
  | laneSub
deriving DecidableEq, Repr, Inhabited

/-- Table 5.5. -/
def legalAt (p : Place) (b : List Byte) : Bool :=
  let op := cmdOp b
  let arm := decide (op = 3) && decide (field b 6 1 = 4)
  let steward := decide (0x40 ≤ op)
  match p with
  | .claimDeck lm => !steward && !arm && (decide (op ≠ 2) || lm)
  | .claimSingle => !steward
  | .stewardDeck => [0x00, 0x04, 0x05, 0x07, 0x08, 0x09].contains op
  | .stewardSingle => steward || [0x00, 0x04, 0x05].contains op
  | .laneSub => true

/-- A lane sub-deck's commands (R120). -/
def laneLegal (b : List Byte) : Bool :=
  [0x00, 0x01, 0x07, 0x08].contains (cmdOp b) || (decide (cmdOp b = 3) && [0, 1, 2, 3, 5].contains (field b 6 1))

/-- Does a place hold a single? -/
def Place.single : Place → Bool
  | .claimSingle => true
  | .stewardSingle => true
  | _ => false

/-- R87's rules for a single's command. -/
def singleOk (b : List Byte) : Bool :=
  !([0x02, 0x07, 0x08, 0x09].contains (cmdOp b)) && decide (cmdWaits b = 0) && !cmdWaitAll b && !cmdSigValid b

/-- The checks of one command in R444's order; `left` is how many granules the deck still holds from it, and the
answer is the cause of the first fault. -/
def checkCmd (p : Place) (descs tallies : Nat) (b : List Byte) (left : Nat) : Option Nat :=
  if opExtra (cmdOp b) ≠ some (cmdExtra b) then some 0x0102
  else if !p.single && decide (left < cmdSize b) then some 0x0103
  else if p.single && !singleOk b then some 0x0102
  else if p = .laneSub ∧ !laneLegal b then some 0x0109
  else if !legalAt p b then some 0x0201
  else if !reservedOk b (if p.single then 32 else 16 * cmdSize b) || !operandsOk b descs tallies then some 0x0102
  else none

/-- Check a deck's commands in deck order from granule `g`; the answer is the first fault's cause and granule. -/
def checkCmds (p : Place) (descs tallies : Nat) (bs : List Byte) (total : Nat) : Nat → Nat → Option (Nat × Nat)
  | 0, _ => none
  | fuel + 1, g =>
    if total ≤ g then none
    else
      match checkCmd p descs tallies (cmdAt bs g) (total - g) with
      | some c => some (c, g)
      | none => checkCmds p descs tallies bs total fuel (g + cmdSize (cmdAt bs g))

/-- The granules at which commands begin. -/
def boundaries (bs : List Byte) (total : Nat) : Nat → Nat → List Nat
  | 0, _ => []
  | fuel + 1, g => if total ≤ g then [] else g :: boundaries bs total fuel (g + cmdSize (cmdAt bs g))

/-- The granules [first, end) that an IF skips or a LOOP holds as its body. -/
def controlRange (bs : List Byte) (g : Nat) : Nat × Nat := (g + 1, g + 1 + field (cmdAt bs g) 0xA 2)

/-- The control-range checks of a level in deck order (R112): the first fault's cause and granule. -/
def checkControl (bs : List Byte) (total : Nat) : Option (Nat × Nat) :=
  let starts := boundaries bs total (total + 1) 0
  let loops := (starts.filter fun g => cmdOp (cmdAt bs g) == 8).map (controlRange bs)
  let around (g : Nat) : List (Nat × Nat) := loops.filter fun r => decide (r.1 ≤ g) && decide (g < r.2)
  (starts.filter fun g => cmdOp (cmdAt bs g) == 7 || cmdOp (cmdAt bs g) == 8).findSome? fun g =>
    let r := controlRange bs g
    if !(decide (r.2 = total) || starts.contains r.2) then some (0x0106, g)
    else if !((around g).all fun o => decide (r.2 ≤ o.2)) then some (0x0106, g)
    else if cmdOp (cmdAt bs g) = 8 ∧ 8 ≤ (around g).length then some (0x0107, g)
    else none

/-- All checks of a level's commands and control ranges (R444, steps 2 and 3): cause and granule. -/
def checkLevel (p : Place) (descs tallies : Nat) (bs : List Byte) : Option (Nat × Nat) :=
  let total := bs.length / 16
  match checkCmds p descs tallies bs total (total + 1) 0 with
  | some f => some f
  | none => if p.single then none else checkControl bs total

/-- Shoe entry fields (Table 5.1). -/
def entryType (e : List Byte) : Nat := field e 0 1
def entryFlags (e : List Byte) : Nat := field e 1 1
def entryLen (e : List Byte) : Nat := field e 4 4
def entryAddr (e : List Byte) : Nat := field e 8 8
def entryTag (e : List Byte) : Nat := field e 0x10 8
def entryCmd (e : List Byte) : List Byte := bytesAt e 0x20 32

/-- The flags of an entry (Table 5.1). -/
def fReport (f : Nat) : Bool := bit f 0
def fIrqNow (f : Nat) : Bool := bit f 1
def fAfterPrior (f : Nat) : Bool := bit f 2
def fLaneMode (f : Nat) : Bool := bit f 3

/-- Every field of Table 5.1 but the command (R444, step 1). A DECK's command field must be 0 too (R11).
DEDUCED, log entry 41. -/
def entryOk (e : List Byte) : Bool :=
  decide (bits (entryFlags e) 4 4 = 0) && decide (field e 2 2 = 0) && decide (field e 0x18 8 = 0) &&
    match entryType e with
    | 1 => deckLenOk (entryLen e) && decide (entryAddr e % 64 = 0) && allZero (entryCmd e)
    | 2 => decide (entryLen e = 0) && decide (entryAddr e = 0) && !fLaneMode (entryFlags e)
    | _ => false

/-- The descriptor and tally counts against which a shoe's commands are checked (R93, R113). -/
def countsOf (s : State) (shoe : Nat) : Nat × Nat :=
  if shoe < 8 then ((s.claim shoe).descriptors, (s.claim shoe).tallyCount) else (0, 64)

/-- The place of a shoe's deck, or of its single. -/
def placeOf (shoe : Nat) (deck laneMode : Bool) : Place :=
  if shoe < 8 then (if deck then .claimDeck laneMode else .claimSingle)
  else (if deck then .stewardDeck else .stewardSingle)

end Sys2Proof.Machine
end

