-- ==== Sys2Proof/Machine/MgmtBase.lean ====
section
/-! DEFINITION. What reaches management: the event queue (R409), the alert causes and pins (R412), and the changes of
device state that are reported (Table 19.5). -/

namespace Sys2Proof.Machine

/-- Change the management endpoint. -/
def State.modMgmt (s : State) (f : Mgmt → Mgmt) : State := { s with mgmt := f s.mgmt }

/-- The pin of an alert cause (Table 19.6): true for ALERT_CRIT_L. -/
def alertCritical (b : Nat) : Bool := b == 0 || b == 2 || b == 3 || b == 4 || b == 6

/-- Whether an unmasked latched cause is assigned to a pin. -/
def pinWanted (m : Mgmt) (critical : Bool) : Bool :=
  (List.range 12).any fun b => m.alerts.testBit b && !m.mask.testBit b && (alertCritical b == critical)

/-- Drive the two pins as the causes and the mask ask (R412). -/
def drivePins (s : State) : State :=
  let c := pinWanted s.mgmt true
  let w := pinWanted s.mgmt false
  let s1 := if c ≠ s.mgmt.critLow then s.emit (.pin "ALERT_CRIT_L" (!c)) else s
  let s2 := if w ≠ s.mgmt.warnLow then s1.emit (.pin "ALERT_WARN_L" (!w)) else s1
  s2.modMgmt fun m => { m with critLow := c, warnLow := w }

/-- A record joins the queue, or is dropped and counted, latching cause 10 (R409). The record of that latching meets
the same full queue. -/
def mgmtPush (s : State) (e : MgmtEvent) : State :=
  if s.mgmt.queue.length < 32 then s.modMgmt fun m => { m with queue := m.queue ++ [e] }
  else
    let k := if s.mgmt.alerts.testBit 10 then 1 else 2
    drivePins (s.modMgmt fun m => { m with lost := satInc 32 m.lost k, alerts := m.alerts ||| 2 ^ 10 })

/-- An OEM event: a 64-byte record of Table 4.6 with claim 0xFF and management's own sequence (R409). -/
def mgmtOem (s : State) (type cause : Nat) (body : List Byte) : State :=
  let rec_ := leBytes 2 type ++ leBytes 2 cause ++ [0#8] ++ leBytes 1 0xFF ++ leBytes 2 0 ++ leBytes 8 (beatStamp s)
    ++ leBytes 8 s.mgmt.nextSeq ++ bytesAt body 0 40
  mgmtPush (s.modMgmt fun m => { m with nextSeq := m.nextSeq + 1 }) (.oem rec_)

/-- A state sensor changed (R409). -/
def mgmtSensor (s : State) (id prev cur : Nat) : State :=
  if prev = cur then s else mgmtPush s (.sensor id prev cur)

/-- An alert cause latches (R412). -/
def alertLatch (s : State) (b : Nat) : State :=
  if s.mgmt.alerts.testBit b then s
  else
    let s1 := drivePins (s.modMgmt fun m => { m with alerts := m.alerts ||| 2 ^ b })
    mgmtOem s1 0x0019 0 [BitVec.ofNat 8 b, 1#8, if alertCritical b then 0#8 else 1#8]

/-- A latched cause clears (R412). -/
def alertClear (s : State) (b : Nat) : State :=
  if s.mgmt.alerts.testBit b then
    let s1 := drivePins (s.modMgmt fun m => { m with alerts := m.alerts ^^^ 2 ^ b })
    mgmtOem s1 0x0019 0 [BitVec.ofNat 8 b, 0#8, if alertCritical b then 0#8 else 1#8]
  else s

/-- An event for the steward ring and for management alike (Table 19.5). -/
def postSteward (s : State) (type cause : Nat) (body : List Byte) : State :=
  mgmtOem (postEvent s 8 type cause [body]) type cause body

/-- The code of HST_STATUS.state (Table 2.8). -/
def DevState.code : DevState → Nat
  | .booting => 0
  | .newSeat => 1
  | .ready => 2
  | .redealing => 3
  | .held => 4
  | .failed => 5

/-- HST_STATUS.state changes, with its records and the alert of NEW_SEAT (Table 19.5, Table 19.6).
DEDUCED, log entry 20. -/
def setDev (s : State) (d : DevState) (cause : Nat) : State :=
  let o := s.boot.dev
  if o = d then s
  else
    let s1 := { s with boot := { s.boot with dev := d } }
    let s2 := mgmtSensor s1 0x0100 o.code d.code
    let s3 := mgmtOem s2 0x0018 0 (leBytes 1 o.code ++ leBytes 1 d.code ++ leBytes 2 cause)
    if d = .newSeat then alertLatch s3 1 else s3

end Sys2Proof.Machine
end

