-- ==== Sys2Proof/Machine/LinkBase.lean ====
section
/-! DEFINITION. Directions, routing between seats (R260 to R264) and how messages join a direction's queue (R244). -/

namespace Sys2Proof.Machine

/-- Change the link block, a port, a direction's group, and the round block. -/
def State.modLink (s : State) (f : Link → Link) : State := { s with link := f s.link }
def State.port (s : State) (p : Nat) : Port := tget s.link.ports p
def State.modPort (s : State) (p : Nat) (f : Port → Port) : State :=
  s.modLink fun l => { l with ports := tmod l.ports p f }
def State.modGroup (s : State) (d : Nat) (f : Group → Group) : State :=
  s.modLink fun l => { l with groups := tmod l.groups d f }
def State.modRounds (s : State) (f : Rounds → Rounds) : State := { s with rounds := f s.rounds }

/-- The axis component of a seat. -/
def Seat.axis (v : Seat) (a : Nat) : Nat :=
  match a with
  | 0 => v.1
  | 1 => v.2.1
  | _ => v.2.2

/-- Own seat (R260). -/
def ownSeat (s : State) : Seat := s.image.coord

/-- The ports of a direction that are UP (R236). A fenced port is in no direction group (R369). -/
def upPorts (s : State) (d : Nat) : List Nat :=
  (List.range 12).filter fun p => decide ((s.port p).st = .up) && decide ((s.port p).dir = d) && !(tget s.fences.ports p).fenced

/-- The direction has an UP port. -/
def dirUp (s : State) (d : Nat) : Bool := !(upPorts s d).isEmpty

/-- The opposite direction: 0 X+, 1 X−, 2 Y+, 3 Y−, 4 Z+, 5 Z−. -/
def opposite (d : Nat) : Nat := if d % 2 = 0 then d + 1 else d - 1

/-- R262: the direction of a message for another seat; none for the own seat. -/
def chooseDir (s : State) (dest : Seat) : Option Nat :=
  match (List.range 3).find? fun a => (ownSeat s).axis a != dest.axis a with
  | none => none
  | some a =>
    let o := (ownSeat s).axis a
    let t := dest.axis a
    let n := s.image.dims.axis a
    if s.image.slab then some (if o < t then 2 * a else 2 * a + 1)
    else
      let up := (t + n - o % n) % n
      some (if up ≤ n - up then 2 * a else 2 * a + 1)

/-- Where a message leaves: here, by a direction, or nowhere (R264). -/
inductive Route where
  | here
  | dir (d : Nat)
  | none
deriving DecidableEq, Repr, Inhabited

/-- The route at the source seat (R264: the long way in torus mode when the chosen direction has no UP port). -/
def routeFrom (s : State) (dest : Seat) : Route :=
  match chooseDir s dest with
  | none => .here
  | some d =>
    if dirUp s d then .dir d
    else if !s.image.slab && decide (3 ≤ s.image.dims.axis (d / 2)) && dirUp s (opposite d) then .dir (opposite d)
    else .none

/-- The route at a forwarding seat for a message that came in on a port facing `inDir`: a message that came the long
way keeps its direction on that axis (R264). -/
def routeOn (s : State) (inDir : Nat) (dest : Seat) : Route :=
  match chooseDir s dest with
  | none => .here
  | some d =>
    let d1 := if d = inDir then opposite d else d
    if dirUp s d1 then .dir d1 else .none

/-- Is the link over which a message came in on a port facing `d` the wrap link of its axis? -/
def isWrap (s : State) (d : Nat) : Bool :=
  let o := (ownSeat s).axis (d / 2)
  let n := s.image.dims.axis (d / 2)
  !s.image.slab && (if d % 2 = 0 then decide (o + 1 = n) else decide (o = 0))

/-- The dateline class on the next link (R263). -/
def nextClass (s : State) (inDir outDir cls : Nat) : Nat :=
  if s.image.slab || decide (inDir / 2 ≠ outDir / 2) then 0 else if isWrap s inDir then 1 else cls

/-- The identity public key, X followed by Y, that the Lamphouse derives from the fused seed (R374); none once the kill
fuse is blown. DESIGN CHOICE, log entry 90. -/
def identityKey (s : State) : List Byte := if s.boot.fuses.killed then [] else bytesAt (Config.identityKey s.boot.fuses.seed) 0 96

/-- The identity digest (R375); without a key there is none. -/
def identityDigest (s : State) : List Byte := if s.boot.fuses.killed then [] else sha384 (identityKey s)

/-- Count a message that found no route (R264). -/
def countNoRoute (s : State) : State := s.modRounds fun r => { r with noRoute := satInc 32 r.noRoute }

/-- A message joins a direction's queue. -/
def enqueue (s : State) (d : Nat) (m : OutMsg) : State := s.modGroup d fun g => { g with msgs := g.msgs ++ [m] }

/-- A 48-byte message header (Table 12.6). -/
structure MsgHeader where
  kind : Nat := 0
  claim : Nat := 0
  round : Nat := 0
  dest : Seat := (0, 0, 0)
  src : Seat := (0, 0, 0)
  length : Nat := 0
  target : Nat := 0
  tally : Nat := 0xFFFF
  status : Nat := 0
  xfer : Nat := 0
  tag : Nat := 0
  cause : Nat := 0
deriving DecidableEq, Repr, Inhabited

/-- The bytes of a seat: its three coordinates. -/
def seatBytes (v : Seat) : List Byte := leBytes 1 v.1 ++ leBytes 1 v.2.1 ++ leBytes 1 v.2.2

/-- The seat that three bytes name. -/
def seatAt (bs : List Byte) (off : Nat) : Seat := (field bs off 1, field bs (off + 1) 1, field bs (off + 2) 1)

/-- Table 12.6. -/
def MsgHeader.bytes (h : MsgHeader) : List Byte :=
  leBytes 1 h.kind ++ leBytes 1 h.claim ++ leBytes 2 h.round ++ seatBytes h.dest ++ [0] ++ seatBytes h.src ++ [0#8]
    ++ leBytes 4 h.length ++ leBytes 8 h.target ++ leBytes 2 h.tally ++ leBytes 1 h.status ++ [0#8]
    ++ leBytes 4 h.xfer ++ leBytes 8 h.tag ++ leBytes 2 h.cause ++ List.replicate 6 0#8

/-- Read a message header. -/
def MsgHeader.read (b : List Byte) : MsgHeader :=
  { kind := field b 0 1, claim := field b 1 1, round := field b 2 2, dest := seatAt b 4, src := seatAt b 8,
    length := field b 0xC 4, target := field b 0x10 8, tally := field b 0x18 2, status := field b 0x1A 1,
    xfer := field b 0x1C 4, tag := field b 0x20 8, cause := field b 0x28 2 }

/-- The virtual channel of a message kind (Table 12.5). -/
def kindVc (kind : Nat) : Nat := if kind ≤ 2 then 0 else 1

/-- Send a claim message that draws no receipt: RECEIPT or ABORT. Without a route it is discarded and counted
(R264). -/
def sendControl (s : State) (h : MsgHeader) : State :=
  match routeFrom s h.dest with
  | .here => s.modLink fun l => { l with localMsgs := l.localMsgs ++ [(h.bytes, [])] }
  | .dir d => enqueue s d { vc := 1, dest := h.dest, header := some h.bytes }
  | .none => countNoRoute s

/-- Answer a message with a RECEIPT (R245, R247). -/
def sendReceipt (s : State) (h : MsgHeader) (status cause : Nat) : State :=
  sendControl s
    { kind := 4, claim := h.claim, round := h.round, dest := h.src, src := ownSeat s, status := status,
      xfer := h.xfer, tag := h.tag, cause := cause }

/-- Send a trick message to a seat (R225, R265). -/
def sendTrick (s : State) (seat : Seat) (msg : List Byte) : State :=
  match routeFrom s seat with
  | .here => s
  | .dir d => enqueue s d { vc := 2, dest := seat, data := msg }
  | .none => countNoRoute s

/-- The LINK event of a port (R259), with the state sensor and the quarantine alert (R407, R412). -/
def linkEvent (s : State) (p : Nat) (old : PortState) : State :=
  let x := s.port p
  let usable := (List.range 8).foldl (fun a i =>
    if (tget x.lanes i).good && (tget x.lanes i).peerGood then a + 2 ^ i else a) 0
  let used := (List.range 8).foldl (fun a i => if (tget x.lanes i).inUse then a + 2 ^ i else a) 0
  let body := leBytes 1 p ++ leBytes 1 old.code ++ leBytes 1 x.st.code ++ leBytes 1 x.width ++ leBytes 1 x.reason
    ++ leBytes 1 usable ++ leBytes 1 used
  let s1 := mgmtSensor (postSteward s 0x0014 0 body) (0x0110 + p) old.code x.st.code
  if x.st = .quarantined ∧ old ≠ .quarantined then alertLatch s1 9 else s1

/-- A port changes state, with its sticky event bit and its LINK event (Table 12.12, R259). -/
def setPort (s : State) (p : Nat) (st : PortState) : State :=
  let old := (s.port p).st
  if old = st then s
  else
    linkEvent (s.modPort p fun x =>
      { x with
        st := st
        evUp := x.evUp || decide (st = .up)
        evDown := x.evDown || decide (st = .down)
        evQuar := x.evQuar || decide (st = .quarantined) }) p old

end Sys2Proof.Machine
end

