-- ==== Sys2Proof/Machine/ItemOps.lean ====
section
/-! DEFINITION. What happens to ledger items (R92, R98, R124): starting and completing commands, failing an item,
ending its macro-instructions, and resolving it. Also tallies, whose operations release and fail waiters (R213 to
R218), tricks as far as a tally drives them (R222 to R224), and the host wait slots (R220). -/

namespace Sys2Proof.Machine

/-- The level of an item. -/
def Item.level (i : Item) (l : Nat) : Option Level := i.levels.find? (·.id == l)

/-- Change one level of an item. -/
def Item.modLevel (i : Item) (l : Nat) (f : Level → Level) : Item :=
  { i with levels := i.levels.map fun v => if v.id == l then f v else v }

/-- Change one level of an item of the ledger. -/
def State.modLevel (s : State) (shoe seq l : Nat) (f : Level → Level) : State :=
  s.modItem shoe seq fun i => i.modLevel l f

/-- The retry flag's causes (R371). -/
def retryCause (c : Nat) : Bool := c == 0x0701 || c == 0x0702 || c == 0x0513 || c == 0x0514

/-- The failure outcome of the command at a granule of a level. -/
def failOutcome (lv : Level) (g cause detail : Nat) : Outcome :=
  { cause := cause, failed := true, failOffset := g, tag := cmdTag (cmdAt lv.bytes g), depth := lv.depth,
    detail := detail, retry := retryCause cause }

/-- The unit of a core's face buffer that a macro-instruction or a pin held is free again. -/
def freeUnits (u : T0Use) (c : Core) : Core :=
  { c with units := c.units.map fun t => if t.use_ = u then { t with use_ := .free } else t }

/-- A core gives back a macro-instruction's context and working set (R133, R140). -/
def leaveCore (mid : Nat) (c : Core) : Core :=
  if c.contexts.contains mid then
    let c := freeUnits (.work mid) c
    { c with
      slots := c.slots.map fun x => if x = some mid then none else x
      current := if c.current = some mid then none else c.current
      queues := c.queues.map fun q => q.filter (·.mid != mid) }
  else c

/-- A macro-instruction part is in no lane's lists. -/
def leaveLane (mid : Nat) (l : Lane) : Lane :=
  { l with queue := l.queue.filter (· != mid), dispatched := l.dispatched.filter (· != mid) }

/-- Take a macro-instruction part off its lane and its cores at once (R140, R356). -/
def removeMacro (s : State) (mid : Nat) : State :=
  s.modDl fun d =>
    { d with macros := d.macros.filter fun m => m.id != mid, lanes := d.lanes.map (leaveLane mid), cores := d.cores.map (leaveCore mid) }

/-- A macro-instruction part is abandoned: cores whose engines it holds end their current tile group (R76, R98, R278),
and everything else of it is given back now. -/
def dropMacro (s : State) (mid : Nat) : State :=
  if s.dl.cores.toList.any fun c => c.current == some mid then
    s.modDl fun d =>
      { d with
        macros := d.macros.map fun m => if m.id = mid then { m with stopping := true } else m
        lanes := d.lanes.map (leaveLane mid)
        cores := d.cores.map fun c => if c.current = some mid then c else leaveCore mid c }
  else removeMacro s mid

/-- The macro-instruction parts of an item. -/
def macrosOf (s : State) (shoe seq : Nat) : List Nat :=
  (s.dl.macros.filter fun m => match m.owner with
    | .item a b _ _ => a == shoe && b == seq && !m.stopping
    | .round _ => false).map (·.id)

/-- Give back what an item's running levels hold: macro-instructions, the call store, lanes' sub-deck stores and
table loads (R98, R115, R119, R171). -/
def releaseHoldings (s : State) (shoe seq : Nat) : State :=
  let s := (macrosOf s shoe seq).foldl dropMacro s
  let s := s.modShoe shoe fun h => if h.callOwner = some seq then { h with callOwner := none, callUsed := 0 } else h
  s.modDl fun d =>
    { d with
      lanes := d.lanes.map fun l => match l.subdeck with
        | some (a, b, _) => if a = shoe ∧ b = seq then { l with subdeck := none } else l
        | none => l
      slots := if shoe = 8 then d.slots.map fun t => { t with loads := t.loads.filter (·.seq != seq) } else d.slots }

/-- The item is past its commit point or resolved, and so no fault changes it (R124, R351). -/
def Item.fixed (i : Item) : Bool := i.st = .committed || i.st = .resolved

/-- An item ends as failed with an outcome (R98): its commands are abandoned. -/
def failItem (s : State) (shoe seq : Nat) (o : Outcome) : State :=
  match findItem s shoe seq with
  | none => s
  | some i =>
    if i.fixed then s
    else
      (releaseHoldings s shoe seq).modItem shoe seq fun i =>
        { i with st := .resolved, out := o, levels := [], held := none }

/-- An item fails at a command of one of its levels (R98). -/
def failAt (s : State) (shoe seq l g cause : Nat) (detail : Nat := 0) : State :=
  match findItem s shoe seq with
  | none => s
  | some i =>
    match i.level l with
    | none => failItem s shoe seq { cause := cause, failed := true, detail := detail, retry := retryCause cause }
    | some lv => failItem s shoe seq (failOutcome lv g cause detail)

/-- The events of a level after the command at `g` completes (R92). -/
def signalled (lv : Level) (g : Nat) : BitVec 8 :=
  let b := cmdAt lv.bytes g
  if cmdSigValid b then lv.events ||| (1#8 <<< cmdSignal b) else lv.events

/-- A started command completes: it is no longer active and its event is set (R92). -/
def completeCmd (s : State) (shoe seq l g : Nat) : State :=
  s.modLevel shoe seq l fun lv =>
    { lv with active := lv.active.filter (·.granule != g), events := signalled lv g }

/-- A command starts and stays active. -/
def activate (s : State) (shoe seq l g : Nat) (st : CmdState) : State :=
  s.modLevel shoe seq l fun lv => { lv with active := lv.active ++ [{ granule := g, st := st, age := s.now }] }

/-- Change what an active command is doing. -/
def setActive (s : State) (shoe seq l g : Nat) (st : CmdState) : State :=
  s.modLevel shoe seq l fun lv =>
    { lv with active := lv.active.map fun a => if a.granule == g then { a with st := st } else a }

/-- Tally n of the package. -/
def State.tally (s : State) (n : Nat) : Tally := tget s.sync.tallies n

/-- Change tally n of the package. -/
def State.modTally (s : State) (n : Nat) (f : Tally → Tally) : State :=
  s.modSync fun y => { y with tallies := tmod y.tallies n f }

/-- The package-wide number of a shoe's tally, resolved against the range in force (R113, R213). -/
def resolveTally (s : State) (shoe n : Nat) : Option Nat :=
  if shoe < 8 then
    if n < (s.claim shoe).tallyCount then some ((s.claim shoe).tallyBase + n) else none
  else if n < 64 then some n else none

/-- The live trick that uses a tally, with its slot. -/
def trickOfTally (s : State) (n : Nat) : Option (Nat × Trick) :=
  (List.range 64).findSome? fun k =>
    match tget s.sync.tricks k with
    | some t => if t.arriveTally = n ∨ t.releaseTally = n then some (k, t) else none
    | none => none

/-- Is the tally the release tally of a live trick (R223)? -/
def isRelease (s : State) (n : Nat) : Bool :=
  match trickOfTally s n with
  | some (_, t) => t.releaseTally == n
  | none => false

/-- The detail of an item that fails on a poisoned tally (R216). DEDUCED, log entry 66. -/
def poisonDetail (t : Tally) (rel : Nat) : Nat :=
  rel % 65536 + (if t.cause = 0x0520 then 2 ^ 16 * (t.origin.1 % 16) + 2 ^ 20 * (t.origin.2.1 % 16)
    + 2 ^ 24 * (t.origin.2.2 % 16) else 0)

/-- A wait's comparison (Table 11.1). -/
def waitMet (eq : Bool) (value threshold : Nat) : Bool :=
  if eq then decide (value = threshold) else decide (threshold ≤ value)

/-- Every tally wait of the ledger on a tally: item, level, granule and the wait (R215). -/
def waitersOn (s : State) (n : Nat) : List (Nat × Nat × Nat × Nat × Bool × Nat) :=
  s.dl.items.flatMap fun i => i.levels.flatMap fun lv => lv.active.filterMap fun a =>
    match a.st with
    | .tallyWait t eq thr => if t = n then some (i.shoe, i.seq, lv.id, a.granule, eq, thr) else none
    | _ => none

/-- Host wait slots of every claim that wait on a tally: claim and slot (R220). -/
def hostWaitsOn (s : State) (n : Nat) : List (Nat × Nat) :=
  (List.range 8).flatMap fun c => (List.range 16).filterMap fun w =>
    let h := tget (tget s.sync.claims c).waits w
    if h.arm ∧ h.latTally = n then some (c, w) else none

/-- Change a host wait slot. -/
def State.modWait (s : State) (c w : Nat) (f : HostWait → HostWait) : State :=
  s.modSync fun y => { y with claims := tmod y.claims c fun t => { t with waits := tmod t.waits w f } }

/-- A host wait slot ends: it disarms, reports, and raises source 6 (R220). -/
def endHostWait (s : State) (c w : Nat) (failed : Bool) : State :=
  raiseSource (s.modWait c w fun h => { h with arm := false, met := true, failed := h.failed || failed }) c 6

/-- Change a round controller. -/
def State.modCtrl (s : State) (c : Nat) (f : RoundCtl → RoundCtl) : State :=
  s.modRounds fun r => { r with ctrls := tmod r.ctrls c f }

/-- The round a controller holds. -/
def State.armed (s : State) (c : Nat) : Option Armed := (tget s.rounds.ctrls c).armed

/-- Change the round a controller holds. -/
def State.modArmed (s : State) (c : Nat) (f : Armed → Armed) : State :=
  s.modCtrl c fun x => { x with armed := x.armed.map f }

/-- Change every armed round. -/
def State.modRoundsArmed (s : State) (f : Armed → Armed) : State :=
  s.modRounds fun r => { r with ctrls := r.ctrls.map fun x => { x with armed := x.armed.map f } }

/-- A wait of a controller for a threshold, after an operation left a tally at a value (R215). -/
def TallyWait.test (w : TallyWait) (n v thr : Nat) : TallyWait := if w = .waiting n ∧ thr ≤ v then .met else w

/-- A wait of a controller when a tally is poisoned (R217). -/
def TallyWait.fail (w : TallyWait) (n cause : Nat) : TallyWait := if w = .waiting n then .failed cause else w

/-- A controller's waits after an operation left a tally at a value: deal `deal` waits for deal + 1 on the start tally,
send `sent` for sent + 1 on the ready tally (R272). -/
def Armed.testWaits (n v : Nat) (a : Armed) : Armed :=
  { a with startWait := a.startWait.test n v (a.deal + 1), readyWait := a.readyWait.test n v (a.sent + 1) }

/-- A controller's waits when a tally is poisoned. -/
def Armed.failWaits (n cause : Nat) (a : Armed) : Armed :=
  { a with startWait := a.startWait.fail n cause, readyWait := a.readyWait.fail n cause }

/-- A controller waits on the tally (R69, R213). -/
def ctrlWaitsOn (s : State) (n : Nat) : Bool :=
  (List.range 16).any fun c => (s.armed c).any fun a => a.startWait == .waiting n || a.readyWait == .waiting n

/-- Waits, those of round controllers among them, and host wait slots are tested after an operation on a tally (R215,
R220). -/
def testTally (s : State) (n : Nat) : State :=
  let v := (s.tally n).value.toNat
  let s := s.modRoundsArmed (Armed.testWaits n v)
  let s1 := (waitersOn s n).foldl (fun s w =>
    if waitMet w.2.2.2.2.1 v w.2.2.2.2.2 then completeCmd s w.1 w.2.1 w.2.2.1 w.2.2.2.1 else s) s
  (hostWaitsOn s n).foldl (fun s cw =>
    let h := tget (tget s.sync.claims cw.1).waits cw.2
    if waitMet h.latEq v h.latThreshold then endHostWait s cw.1 cw.2 false else s) s1

/-- GE_WRAP in 32 bits (Table 5.4, R222). -/
def geWrap32 (v thr : Nat) : Bool := decide ((v + 2 ^ 32 - thr % 2 ^ 32) % 2 ^ 32 < 2 ^ 31)

/-- A 32-byte trick message (Table 11.2): kind 1 ARRIVE, 2 RELEASE, 3 POISON. -/
def trickMessage (t : Trick) (kind cause : Nat) (origin : Seat) : List Byte :=
  leBytes 1 kind ++ leBytes 1 t.index ++ leBytes 2 t.round ++ leBytes 4 t.gen
    ++ leBytes 1 origin.1 ++ leBytes 1 origin.2.1 ++ leBytes 1 origin.2.2 ++ [0#8]
    ++ leBytes 2 cause ++ leBytes 2 0 ++ leBytes 8 t.roundTag ++ leBytes 8 0

/-- Set a trick slot. -/
def State.setTrick (s : State) (k : Nat) (t : Option Trick) : State :=
  s.modSync fun y => { y with tricks := tset y.tricks k t }

/-- The distinct seats of a table (R222: a coordinate listed more than once is one seat). -/
def distinctSeats (ss : List Seat) : List Seat := ss.eraseDups

/-- Trick 0 of an armed round has released its first generation: the barrier of arming has passed (R268). -/
def barrierPassed (s : State) (a : Armed) : Bool :=
  match a.tricks.head?.bind fun k => tget s.sync.tricks k with
  | some t => decide (2 ≤ t.gen)
  | none => false

/-- The deal and step of the next hand to send (R271). -/
def Armed.sendStep (a : Armed) : Nat × Nat := (a.sent / (a.seatCount - 1), a.sent % (a.seatCount - 1))

/-- The next hand may be gathered: its step has been triggered, and in a backward round computed too (R272, R276). -/
def Armed.sendDue (a : Armed) : Bool :=
  let d := a.sendStep
  decide (1 < a.seatCount) &&
    (decide (d.1 + 1 < a.deal) || (decide (d.1 + 1 = a.deal) && decide (d.2 < if a.backward then a.comp else a.trig)))

/-- A controller's wait begins: its tally is resolved against the range in force, and tested (R213, R215). A number
outside the range and a POISONED tally fail it. DESIGN CHOICE, log entry 133. -/
def waitFrom (s : State) (n rel thr : Nat) : TallyWait :=
  match resolveTally s n rel with
  | none => .failed 0x0102
  | some t =>
    if (s.tally t).poisoned then .failed (s.tally t).cause
    else if thr ≤ (s.tally t).value.toNat then .met else .waiting t

/-- The waits of a controller that are due and have not begun begin: for the next deal's start, between deals, and for
the next send's ready credit (R272). -/
def beginWaits (s : State) (c : Nat) : State :=
  s.modArmed c fun a =>
    { a with
      startWait := if a.startWait = .idle ∧ barrierPassed s a ∧ !a.dealing then waitFrom s a.claim a.startTally (a.deal + 1) else a.startWait
      readyWait := if a.readyWait = .idle ∧ a.sendDue then waitFrom s a.claim a.readyTally (a.sent + 1) else a.readyWait }

/-- The controller whose armed round holds a trick. -/
def ctrlOfTrick (s : State) (k : Nat) : Option Nat :=
  (List.range 16).find? fun c => match s.armed c with
    | some a => a.tricks.contains k
    | none => false

/-- The release of generation g reaches this seat (R222, step 4): the release tally takes g and the next
generation begins. DEDUCED, log entry 68. -/
def applyRelease (s : State) (k g : Nat) : State :=
  match tget s.sync.tricks k with
  | none => s
  | some t =>
    let s1 := s.setTrick k (some { t with gen := g + 1, arrived := false, arrivals := [] })
    let s2 := testTally (s1.modTally t.releaseTally fun y => { y with value := BitVec.ofNat 32 g }) t.releaseTally
    match ctrlOfTrick s2 k with
    | some c => beginWaits s2 c
    | none => s2

/-- The lead counts an arrival and, with every seat arrived, sends RELEASE to every seat and applies it (R222,
steps 2 to 4). -/
def collectArrival (s : State) (k : Nat) (origin : Seat) : State :=
  match tget s.sync.tricks k with
  | none => s
  | some t =>
    let arr := if t.arrivals.contains origin then t.arrivals else t.arrivals ++ [origin]
    if (distinctSeats t.seats).length ≤ arr.length then
      let others := (distinctSeats t.seats).filter (· != ownSeat s)
      let s1 := others.foldl (fun s seat => sendTrick s seat (trickMessage t 2 0 (ownSeat s))) s
      applyRelease (s1.setTrick k (some { t with arrivals := arr })) k t.gen
    else s.setTrick k (some { t with arrivals := arr })

/-- A local arrival: when the arrive tally has reached g × quota, ARRIVE(g) goes to the lead once (R222, step 1). A
one-seat round may pass many generations at once, and `fuel` bounds them. -/
def arriveFrom : Nat → State → Nat → State
  | 0, s, _ => s
  | fuel + 1, s, k =>
    match tget s.sync.tricks k with
    | none => s
    | some t =>
      if t.poisoned || t.arrived || !geWrap32 (s.tally t.arriveTally).value.toNat (t.gen * t.quota) then s
      else
        let s1 := s.setTrick k (some { t with arrived := true })
        if t.lead then arriveFrom fuel (collectArrival s1 k (ownSeat s)) k
        else sendTrick s1 (t.seats.headD (0, 0, 0)) (trickMessage t 1 0 (ownSeat s))

/-- How many generations a value may pass: a comparison modulo 2^32 passes at most 2^31 of them (R222). -/
def arriveFuel : Nat := 2 ^ 32

/-- The local arrivals that the arrive tally's value gives (R222, step 1). -/
def arriveCheck (s : State) (k : Nat) : State := arriveFrom arriveFuel s k

/-- Fail every waiter of a poisoned tally, round controllers and host wait slots included (R216, R217). -/
def failWaiters (s : State) (n : Nat) : State :=
  let t := s.tally n
  let s1 := (waitersOn s n).foldl (fun s w =>
    failAt s w.1 w.2.1 w.2.2.1 w.2.2.2.1 t.cause
      (poisonDetail t (n - (if w.1 < 8 then (s.claim w.1).tallyBase else 0)))) (s.modRoundsArmed (Armed.failWaits n t.cause))
  (hostWaitsOn s n).foldl (fun s cw => endHostWait s cw.1 cw.2 true) s1

/-- One tally becomes POISONED with a cause, unless it already is (R217, R224). -/
def poisonOne (s : State) (n cause : Nat) (origin : Seat) : State :=
  if (s.tally n).poisoned then s
  else failWaiters (s.modTally n fun t => { t with poisoned := true, cause := cause, origin := origin }) n

/-- A trick is poisoned on this seat: the origin is recorded, and both tallies are poisoned with 0x0520, also where one
has been re-armed since an earlier POISON (R224). -/
def poisonTrickHere (s : State) (k : Nat) (origin : Seat) : State :=
  match tget s.sync.tricks k with
  | none => s
  | some t =>
    let s1 := s.setTrick k (some { t with poisoned := true, origin := if t.poisoned then t.origin else origin })
    poisonOne (poisonOne s1 t.arriveTally 0x0520 origin) t.releaseTally 0x0520 origin

/-- This seat is the first to poison a trick: POISON goes to every other seat (R224). -/
def poisonTrick (s : State) (k cause : Nat) : State :=
  match tget s.sync.tricks k with
  | none => s
  | some t =>
    if t.poisoned then s
    else
      let me := ownSeat s
      let s1 := ((distinctSeats t.seats).filter (· != me)).foldl
        (fun s seat => sendTrick s seat (trickMessage t 3 cause me)) s
      poisonTrickHere s1 k me

/-- A tally is poisoned: its waiters fail, and the live trick that uses it is poisoned everywhere (R217, R224). -/
def poisonTally (s : State) (n cause : Nat) : State :=
  let was := (s.tally n).poisoned
  let s1 := poisonOne s n cause (0, 0, 0)
  if was then s1
  else
    match trickOfTally s n with
    | some (k, _) => poisonTrick s1 k cause
    | none => s1

/-- An ADD or SET that reaches a READY tally (Table 11.1): the value changes, waits are tested, and a trick's
arrival may go out. -/
def applyTally (s : State) (n : Nat) (v : Word32) : State :=
  let s1 := testTally (s.modTally n fun t => { t with value := v }) n
  match trickOfTally s n with
  | some (k, t) => if t.arriveTally = n then arriveCheck s1 k else s1
  | none => s1

/-- ADD by an agent other than a deck command: it acts on a READY tally and not on a live trick's release tally. -/
def agentAdd (s : State) (n : Nat) (v : Nat) : State :=
  if (s.tally n).poisoned || isRelease s n then s
  else applyTally s n ((s.tally n).value + BitVec.ofNat 32 v)

/-- SET by an agent other than a deck command. -/
def agentSet (s : State) (n : Nat) (v : Nat) : State :=
  if (s.tally n).poisoned || isRelease s n then s else applyTally s n (BitVec.ofNat 32 v)

/-- ARM: the value is set and the tally is READY (R218); a trick's arrival may go out. -/
def armTally (s : State) (n : Nat) (v : Nat) : State :=
  applyTally (s.modTally n fun _ => {}) n (BitVec.ofNat 32 v)

/-- Every tally of a claim's range is poisoned with 0x0303, and then the live tricks that use one of them (R217, R224). -/
def poisonClaimTallies (s : State) (c : Nat) : State :=
  let ns := rangeFrom (s.claim c).tallyBase (s.claim c).tallyCount
  ns.foldl (fun s n => match trickOfTally s n with
    | some (k, _) => poisonTrick s k 0x0303
    | none => s) (ns.foldl (fun s n => poisonOne s n 0x0303 (0, 0, 0)) s)

/-- A refused write of a claim's tally window (R219, R220). -/
def windowRefused (s : State) (c : Nat) : State :=
  s.modSync fun y => { y with claims := tmod y.claims c fun t => { t with refused := true } }

/-- A tally is in the claim's range and host-writable (R219). -/
def hostWritable (s : State) (c n : Nat) : Bool :=
  decide (n < (s.claim c).tallyCount) && (tget (tget s.sync.claims c).masks (n / 64)).toNat.testBit (n % 64)

/-- The host window's rule for ADD and SET of a claim's tally (R219, R223): it acts on a READY, host-writable tally that
is no live trick's release tally, and is refused otherwise. -/
def windowOp (s : State) (c n : Nat) (act : State → Nat → State) : State :=
  let d := (s.claim c).tallyBase + n
  if hostWritable s c n && !(s.tally d).poisoned && !isRelease s d then act s d else windowRefused s c

end Sys2Proof.Machine
end

