-- ==== Sys2Proof/Machine/CmdOps.lean ====
section
/-! DEFINITION. Starting the next command of a deck level (R92, R110 to R113), and the simple commands: NOP, TALLY,
WRITE_MEM, WAIT_MEM, IF and LOOP. Each answers the state unchanged where its command is not the one to start. -/

namespace Sys2Proof.Machine

/-- Granules of a level. -/
def Level.total (lv : Level) : Nat := lv.bytes.length / 16

/-- The LOOP whose body the level is running, innermost first (R111). -/
def Level.atLoopEnd (lv : Level) : Bool :=
  match lv.loops with
  | f :: _ => decide (f.last ≤ lv.pc)
  | [] => false

/-- A MACRO of the level waits in the Dealer, and later commands wait behind it (R118). -/
def Level.blocked (lv : Level) : Bool :=
  lv.active.any fun a => match a.st with
    | .macroWait _ => true
    | _ => false

/-- The next command of the level may start (R92): its events are set, with wait_all every earlier command but an
enclosing LOOP has completed, and nothing holds the level back. DEDUCED, log entry 42. -/
def Level.ready (lv : Level) : Bool :=
  let b := cmdAt lv.bytes lv.pc
  decide (lv.pc < lv.total) && !lv.atLoopEnd && !lv.blocked
    && decide (cmdWaits b &&& ~~~lv.events = 0)
    && (!cmdWaitAll b || lv.active.all fun a => lv.loops.any fun f => f.granule == a.granule)

/-- A granted debug halt holds the claim of a shoe (R386). -/
def shoeHalted (s : State) (shoe : Nat) : Bool := decide (shoe < 8) && (tget s.dbg.wins shoe).halted

/-- The next item of a shoe that may start (R97, R125): the first that has not started, once it is QUEUED; with
after_prior once every earlier item is resolved, and with a held fault once every earlier one has ended. -/
def nextItem (s : State) (shoe : Nat) : Option Item :=
  match (itemsOf s shoe).find? fun i => i.st = .fetching || i.st = .queued with
  | none => none
  | some i =>
    let prior (p : Item → Bool) : Bool := (itemsOf s shoe).all fun j => decide (i.seq ≤ j.seq) || p j
    if i.st = .queued ∧ (fAfterPrior i.flags → prior fun j => j.st = .resolved) ∧ (i.held.isSome → prior Item.fixed) then some i
    else none

/-- The lane whose sequencer runs a level; the Dealer runs the others (R119). -/
def Level.onLane (lv : Level) : Bool :=
  match lv.kind with
  | .lane _ _ => true
  | _ => false

/-- A shoe has an item or a command that the Dealer may start now (R125). -/
def dealerWork (s : State) (shoe : Nat) : Bool :=
  !shoeHalted s shoe && ((nextItem s shoe).isSome ||
    (itemsOf s shoe).any fun i => i.st = .running && i.levels.any fun lv => !lv.onLane && lv.ready)

/-- The distance of a claim's shoe from the one served last in its class (R125). -/
def turnOf (s : State) (n : Nat) : Nat := (n + 7 - tget s.dl.lastServed (effClass s n)) % 8

/-- A shoe that is served before another one (R125). -/
def servedBefore (s : State) (a b : Nat) : Bool :=
  decide (b < 8) && (decide (8 ≤ a) || decide (effClass s b < effClass s a)
    || (decide (effClass s a = effClass s b) && decide (turnOf s a < turnOf s b)))

/-- It is the shoe's turn: no shoe served before it has anything to start. -/
def turnNow (s : State) (shoe : Nat) : Bool :=
  (List.range 9).all fun a => !dealerWork s a || !servedBefore s a shoe

/-- A shoe has had its turn: within its class the next one follows (R125). -/
def served (s : State) (shoe : Nat) : State :=
  if shoe < 8 then s.modDl fun d => { d with lastServed := tset d.lastServed (effClass s shoe) shoe } else s

/-- The item, level and granule of the next command of a level, when it may start and has the opcode; the Dealer starts
one command of a shoe in its turn (R125). -/
def nextCmd (s : State) (shoe seq l op : Nat) : Option (Level × Nat × List Byte) :=
  match findItem s shoe seq with
  | none => none
  | some i =>
    match i.level l with
    | none => none
    | some lv =>
      let b := cmdAt lv.bytes lv.pc
      if i.st = .running ∧ lv.ready ∧ cmdOp b = op ∧ ¬ s.redealing ∧ ¬ shoeHalted s shoe ∧ (lv.onLane ∨ turnNow s shoe) then
        some (lv, lv.pc, b)
      else none

/-- The level is one that the Dealer runs. -/
def dealerLevel (s : State) (shoe seq l : Nat) : Bool :=
  ((findItem s shoe seq).bind (·.level l)).any fun lv => !lv.onLane

/-- The Dealer, or the lane's sequencer, passes the command that starts (R92, R125). -/
def passCmd (s : State) (shoe seq l : Nat) (b : List Byte) : State :=
  (if dealerLevel s shoe seq l then served s shoe else s).modLevel shoe seq l fun lv => { lv with pc := lv.pc + cmdSize b }

/-- A command that starts and completes at once. -/
def doneCmd (s : State) (shoe seq l g : Nat) (b : List Byte) : State :=
  completeCmd (passCmd s shoe seq l b) shoe seq l g

/-- A command that starts and stays active. -/
def heldCmd (s : State) (shoe seq l g : Nat) (b : List Byte) (st : CmdState) : State :=
  activate (passCmd s shoe seq l b) shoe seq l g st

/-- A TALLY command's own effect on its tally: complete, wait, or fail the item (R213 to R218, R223). -/
def runTally (s : State) (shoe seq l g : Nat) (b : List Byte) : State :=
  let op := field b 6 1
  let rel := field b 8 2
  let v := field b 0xC 4
  match resolveTally s shoe rel with
  | none => failAt s shoe seq l g 0x0102
  | some n =>
    let t := s.tally n
    if op = 5 then doneCmd (poisonTally s n 0x0303) shoe seq l g b
    else if op = 4 then
      if isRelease s n then failAt s shoe seq l g 0x0522
      else doneCmd (armTally s n v) shoe seq l g b
    else if t.poisoned then failAt s shoe seq l g t.cause (poisonDetail t rel)
    else if op ≤ 1 ∧ isRelease s n then failAt s shoe seq l g 0x0522
    else if op = 0 then doneCmd (applyTally s n (t.value + BitVec.ofNat 32 v)) shoe seq l g b
    else if op = 1 then doneCmd (applyTally s n (BitVec.ofNat 32 v)) shoe seq l g b
    else if waitMet (op == 3) t.value.toNat v then doneCmd s shoe seq l g b
    else heldCmd s shoe seq l g b (.tallyWait n (op == 3) v)

/-- A TALLY command with operation `op` at the front of a level. -/
def tallyCmd (s : State) (shoe seq l op : Nat) : State :=
  match nextCmd s shoe seq l 0x03 with
  | none => s
  | some (_, g, b) => if field b 6 1 = op then runTally s shoe seq l g b else s

/-- The comparisons of IF and LOOP (Table 5.4). -/
def compareTally (cmp v operand : Nat) : Bool :=
  match cmp with
  | 0 => decide (operand ≤ v)
  | 1 => decide (v = operand)
  | 2 => decide (v ≠ operand)
  | _ => decide (v < operand)

/-- What a read of an IF's or a LOOP's tally gives: its comparison, or the cause and detail of a failure (R113,
R213). -/
def testCond (s : State) (shoe : Nat) (b : List Byte) (cmp : Nat) : Except (Nat × Nat) Bool :=
  let rel := field b 8 2
  match resolveTally s shoe rel with
  | none => .error (0x0102, 0)
  | some n =>
    let t := s.tally n
    if t.poisoned then .error (t.cause, poisonDetail t rel)
    else .ok (compareTally cmp t.value.toNat (field b 0xC 4))

/-- IF (R110). -/
def runIf (s : State) (shoe seq l g : Nat) (b : List Byte) : State :=
  match testCond s shoe b (field b 6 1) with
  | .error (c, d) => failAt s shoe seq l g c d
  | .ok holds =>
    let s1 := doneCmd s shoe seq l g b
    if holds then s1 else s1.modLevel shoe seq l fun lv => { lv with pc := lv.pc + field b 0xA 2 }

/-- The events that commands of a LOOP's body signal (R111). -/
def bodySignals (lv : Level) (f : LoopFrame) : BitVec 8 :=
  (boundaries lv.bytes lv.total (lv.total + 1) 0).foldl (fun e g =>
    if f.first ≤ g ∧ g < f.last ∧ cmdSigValid (cmdAt lv.bytes g) then e ||| (1#8 <<< cmdSignal (cmdAt lv.bytes g))
    else e) 0

/-- A LOOP ends: the first command after its body is next, and it signals (R111). -/
def endLoop (s : State) (shoe seq l : Nat) (f : LoopFrame) : State :=
  completeCmd (s.modLevel shoe seq l fun lv => { lv with pc := f.last, loops := lv.loops.tail }) shoe seq l f.granule

/-- LOOP starts its first iteration, or completes at once when a mode 1 test fails (R111). -/
def runLoop (s : State) (shoe seq l g : Nat) (b : List Byte) : State :=
  let f : LoopFrame := { granule := g, first := g + 1, last := g + 1 + field b 0xA 2, left := field b 0xC 4 - 1 }
  let enter (s : State) : State :=
    (heldCmd s shoe seq l g b .loop).modLevel shoe seq l fun lv => { lv with loops := f :: lv.loops }
  if field b 6 1 = 0 then enter s
  else
    match testCond s shoe b (field b 7 1) with
    | .error (c, d) => failAt s shoe seq l g c d
    | .ok true => enter s
    | .ok false => endLoop (enter s) shoe seq l f

/-- The next iteration of the innermost LOOP of a level, once every command of the body has completed (R111). -/
def loopIterate (s : State) (shoe seq l : Nat) : State :=
  match findItem s shoe seq with
  | none => s
  | some i =>
    match i.level l with
    | none => s
    | some lv =>
      match lv.loops with
      | [] => s
      | f :: rest =>
        let busy := lv.active.any fun a => decide (f.first ≤ a.granule) && decide (a.granule < f.last)
        if i.st ≠ .running ∨ lv.pc < f.last ∨ busy ∨ s.redealing ∨ shoeHalted s shoe then s
        else
          let b := cmdAt lv.bytes f.granule
          let again (s : State) (f' : LoopFrame) : State :=
            s.modLevel shoe seq l fun lv =>
              { lv with pc := f.first, events := lv.events &&& ~~~(bodySignals lv f), loops := f' :: rest }
          if field b 6 1 = 0 then
            if f.left = 0 then endLoop s shoe seq l f else again s { f with left := f.left - 1 }
          else
            match testCond s shoe b (field b 7 1) with
            | .error (c, d) => failAt s shoe seq l f.granule c d
            | .ok true => again s f
            | .ok false => endLoop s shoe seq l f

/-- WRITE_MEM's bytes (Table 5.4): the immediate, the beat count and phase, or the local timer in µs. -/
def writeMemBytes (s : State) (b : List Byte) : List Byte :=
  let wide := bit (field b 6 1) 0
  match bits (field b 6 1) 1 2 with
  | 0 => leBytes (if wide then 8 else 4) (field b 0x10 8)
  | 1 => leBytes 8 (beatStamp s)
  | _ => leBytes 8 (s.now / 1000)

/-- WRITE_MEM (R93): a posted write, or a failure of the host access with 0x0411 (R285, R288). -/
def runWriteMem (s : State) (shoe seq l g : Nat) (b : List Byte) : State :=
  let bs := writeMemBytes s b
  if hostOk s (fnOf shoe) (field b 8 8) bs.length then
    doneCmd (postHost s (fnOf shoe) (field b 8 8) bs) shoe seq l g b
  else failAt s shoe seq l g 0x0411

/-- The width in bytes of a WAIT_MEM. -/
def waitMemLen (b : List Byte) : Nat := if bit (field b 6 1) 3 then 8 else 4

/-- WAIT_MEM issues a read, or fails the item with 0x0411 (R99, R285, R288). -/
def waitMemRead (s : State) (shoe seq l g : Nat) (b : List Byte) : State :=
  if hostOk s (fnOf shoe) (field b 8 8) (waitMemLen b) then
    setActive (s.emit (.hostRead (fnOf shoe) (field b 8 8) (waitMemLen b))) shoe seq l g (.waitMem true)
  else failAt s shoe seq l g 0x0411

/-- WAIT_MEM's comparison (Table 5.4, R99). -/
def waitMemHolds (b : List Byte) (v : Nat) : Bool :=
  let w := 8 * waitMemLen b
  let mask := field b 0x18 8 % 2 ^ w
  let x := v % 2 ^ w &&& mask
  let t := field b 0x10 8 % 2 ^ w &&& mask
  match bits (field b 6 1) 0 3 with
  | 0 => decide (t ≤ x)
  | 1 => decide (x = t)
  | 2 => decide (x ≠ t)
  | _ => decide ((x + 2 ^ w - t) % 2 ^ w < 2 ^ (w - 1))

/-- The level and command of an active command. -/
def activeCmd (s : State) (shoe seq l g : Nat) : Option (Level × Active × List Byte) :=
  match findItem s shoe seq with
  | none => none
  | some i =>
    match i.level l with
    | none => none
    | some lv =>
      match lv.active.find? (·.granule == g) with
      | none => none
      | some a => if i.st = .running then some (lv, a, cmdAt lv.bytes g) else none

/-- A WAIT_MEM that waits for its next read reads again (R99). DEDUCED, log entry 96. -/
def waitMemPoll (s : State) (shoe seq l g : Nat) : State :=
  match activeCmd s shoe seq l g with
  | some (_, a, b) =>
    if a.st = .waitMem false ∧ ¬ s.redealing then waitMemRead s shoe seq l g b else s
  | none => s

/-- Every WAIT_MEM of a shoe whose read has not been issued, or is outstanding (R99). -/
def memWaits (s : State) (shoe : Nat) (reading : Bool) : List (Nat × Nat × Nat) :=
  (itemsOf s shoe).flatMap fun i => i.levels.flatMap fun lv => lv.active.filterMap fun a =>
    if a.st = .waitMem reading then some (i.seq, lv.id, a.granule) else none

/-- SHOE_PRODUCE has been written: every WAIT_MEM of the shoe reads again, those with a read outstanding once it has
returned (R99). -/
def ringWaits (s : State) (shoe : Nat) : State :=
  let s1 := (memWaits s shoe true).foldl (fun s w => setActive s shoe w.1 w.2.1 w.2.2 .waitMemRung) s
  (memWaits s shoe false).foldl (fun s w => waitMemPoll s shoe w.1 w.2.1 w.2.2) s1

/-- A WAIT_MEM's read returned (R99, R98). -/
def waitMemReturn (s : State) (shoe seq l g : Nat) (r : HostResp) : State :=
  match activeCmd s shoe seq l g with
  | some (_, a, b) =>
    if a.st = .waitMem true ∨ a.st = .waitMemRung then
      match readBack s r (waitMemLen b) with
      | (s, none) => failAt s shoe seq l g 0x0411
      | (s, some bs) =>
        if waitMemHolds b (leNat bs) then completeCmd s shoe seq l g
        else if a.st = .waitMemRung ∧ ¬ s.redealing then waitMemRead s shoe seq l g b
        else setActive s shoe seq l g (.waitMem false)
    else s
  | none => s

end Sys2Proof.Machine
end

