-- ==== Sys2Proof/Machine/ShoeOps.lean ====
section
/-! DEFINITION. The shoe's ring, its score sheet and scorecard (R86 to R108): fetching entries, reading decks, writing
outcomes, moderation and the register writes that have rows of their own. -/

namespace Sys2Proof.Machine

/-- The score sheet takes records (R102, R104, R108). -/
def Shoe.sheetActive (h : Shoe) : Bool :=
  h.sheetEnable && decide (6 ≤ h.sheetSizeLog2) && decide (h.sheetSizeLog2 ≤ 16) && decide (h.consumed < 2 ^ h.sheetSizeLog2)

/-- The score sheet is full (R104). -/
def Shoe.sheetFull (h : Shoe) : Bool := decide ((h.sheetProduce + 1) % 2 ^ h.sheetSizeLog2 = h.consumed)

/-- A record is due for the item (R102). -/
def recordDue (i : Item) : Bool :=
  i.out.failed || fReport i.flags || (decide (1 ≤ i.out.cause) && decide (i.out.cause ≤ 0xFF))

/-- The 32 bytes of a score sheet record (Table 5.7). -/
def sheetRecord (i : Item) (phase : Bool) : List Byte :=
  leBytes 8 i.seq ++ leBytes 8 i.userTag ++ leBytes 2 i.out.cause
    ++ leBytes 1 (b2n phase + 2 * b2n i.out.failed + 4 * b2n i.out.retry + 8 * b2n i.out.redeal) ++ [0#8]
    ++ leBytes 4 i.out.failOffset ++ leBytes 2 i.out.tag ++ leBytes 1 i.out.depth ++ [0#8] ++ leBytes 4 i.out.detail

/-- Write one record at the sheet's produce index; a failure record raises source 1 (R102, R106). -/
def writeSheet (s : State) (shoe : Nat) (i : Item) : State :=
  let h := s.shoe shoe
  let s1 := postHost s (fnOf shoe) (32 * h.sheetBase + 32 * h.sheetProduce) (sheetRecord i h.sheetPhase)
  let wrap := decide (h.sheetProduce + 1 = 2 ^ h.sheetSizeLog2)
  let s2 := s1.modShoe shoe fun h =>
    { h with sheetProduce := if wrap then 0 else h.sheetProduce + 1, sheetPhase := if wrap then !h.sheetPhase else h.sheetPhase }
  if i.out.failed then raiseSource s2 shoe 1 else s2

/-- Write the scorecard (R103). -/
def writeScore (s : State) (shoe v : Nat) : State :=
  (postHost s (fnOf shoe) (8 * (s.shoe shoe).scorecard) (leBytes 8 v)).modShoe shoe fun h =>
    { h with lastScore := v, scoreDue := false }

/-- The sequence number up to which every item of the shoe has been reported (R103). -/
def scoreOf (s : State) (shoe : Nat) : Nat :=
  match itemsOf s shoe with
  | i :: _ => i.seq - 1
  | [] => (s.shoe shoe).nextSeq - 1

/-- COMMITTED items whose success is fixed become RESOLVED (Table 6.1). -/
def fixOutcomes (s : State) (shoe : Nat) : State :=
  s.modDl fun d =>
    { d with items := d.items.map fun i => if i.shoe = shoe ∧ i.st = .committed then { i with st := .resolved } else i }

/-- A due record waits among the outcomes that stand at the head of the shoe's items (R104). -/
def dueWaits (s : State) (shoe : Nat) : Bool := ((itemsOf s shoe).takeWhile Item.fixed).any recordDue

/-- The shoe's next outcome cannot be reported: its record finds no room (R104), the function may issue nothing (R288), or
it is left over from a reset and the shoe is not enabled yet (R105). -/
def outcomeHeld (s : State) (shoe : Nat) (i : Item) : Bool :=
  let h := s.shoe shoe
  (recordDue i && (h.sheetFull || !canIssue s (fnOf shoe))) || (decide (i.seq < h.backlog) && (!h.enable || h.resumeWait))

/-- SHOE_STATUS.sheet_hold follows the outcomes that wait (R104). -/
def holdSheet (s : State) (shoe : Nat) : State := s.modShoe shoe fun h => { h with sheetHold := dueWaits s shoe }

/-- Source 0 after a scorecard write that passed `k` items, one of them with irq_now or not (R106). -/
def moderate (s : State) (shoe k : Nat) (irqNow : Bool) : State :=
  let h := s.shoe shoe
  let n := h.modItems + k
  if irqNow ∨ h.modCount ≤ 1 ∨ h.modCount ≤ n then
    raiseSource (s.modShoe shoe fun h => { h with modItems := 0 }) shoe 0
  else s.modShoe shoe fun h => { h with modItems := n }

/-- Report the shoe's outcomes in sequence order while records can be written (R102 to R104): the state, the highest
sequence number reported, how many items it passed and whether one had irq_now. -/
def reportItems (shoe : Nat) : Nat → State → Nat → Nat → Bool → State × Nat × Nat × Bool
  | 0, s, hi, k, q => (s, hi, k, q)
  | fuel + 1, s, hi, k, q =>
    match itemsOf s shoe with
    | [] => (holdSheet s shoe, hi, k, q)
    | i :: _ =>
      if !i.fixed || outcomeHeld s shoe i then (holdSheet s shoe, hi, k, q)
      else
        let s1 := if recordDue i then writeSheet s shoe i else s
        let s2 := s1.modDl fun d => { d with items := d.items.filter fun j => !(j.shoe == shoe && j.seq == i.seq) }
        reportItems shoe fuel s2 i.seq (k + 1) (q || fIrqNow i.flags)

/-- Write the due outcomes of a shoe and advance its scorecard (R103, R104); an enable's scorecard follows the outcomes
that stood before it, in one write (R103, R105). DEDUCED, log entry 44. -/
def writeOutcomes (s0 : State) (shoe : Nat) : State :=
  let s := fixOutcomes s0 shoe
  if (s.shoe shoe).sheetActive ∧ canIssue s (fnOf shoe) then
    let r := reportItems shoe ((itemsOf s shoe).length + 1) s 0 0 false
    if (r.1.shoe shoe).scoreDue then
      updateLedgerFull (moderate (writeScore r.1 shoe (scoreOf r.1 shoe)) shoe r.2.2.1 r.2.2.2) shoe
    else if r.2.2.1 = 0 then r.1
    else updateLedgerFull (moderate (writeScore r.1 shoe r.2.1) shoe r.2.2.1 r.2.2.2) shoe
  else holdSheet s shoe

/-- Decks of a shoe in the deck store (R88, R124): fetched and not past RUNNING. DEDUCED, log entry 46. -/
def decksHeld (s : State) (shoe : Nat) : Nat :=
  ((itemsOf s shoe).filter fun i =>
    (i.isDeck || i.st = .fetching) && (i.st = .fetching || i.st = .queued || i.st = .running)).length

/-- The ledger has room for another item of the shoe (R68, R126). -/
def ledgerRoom (s : State) (shoe : Nat) : Bool :=
  decide (s.dl.items.length < 8192) &&
    (decide (8 ≤ shoe) || decide ((itemsOf s shoe).length < (s.claim shoe).ledgerQuota))

/-- The Dealer may fetch the shoe's next entry (R88, R288). -/
def mayFetch (s : State) (shoe : Nat) : Bool :=
  let h := s.shoe shoe
  h.enable && !h.resumeWait && (s.boot.dev = .ready || s.boot.dev = .newSeat)
    && decide (s.power.level = 0) && decide (h.fetch ≠ h.produce) && ledgerRoom s shoe && decide (decksHeld s shoe < 2)
    && canIssue s (fnOf shoe) && (decide (8 ≤ shoe) || (s.claim shoe).st = .active)
    && (itemsOf s shoe).all fun i => i.st != .fetching && decide (h.backlog ≤ i.seq)

/-- Fetch the next entry: it takes the next sequence number and a ledger item (R88), and its read is issued where the
function's windows hold it (R285). DEDUCED, log entry 40. -/
def fetchEntry (s : State) (shoe : Nat) : State :=
  if mayFetch s shoe then
    let h := s.shoe shoe
    let s1 := s.modShoe shoe fun h => { h with nextSeq := h.nextSeq + 1 }
    let s2 := s1.modDl fun d => { d with items := d.items ++ [{ shoe := shoe, seq := h.nextSeq }] }
    let a := 64 * h.base + 64 * h.fetch
    updateLedgerFull (if winOk s2 (fnOf shoe) a 64 then s2.emit (.hostRead (fnOf shoe) a 64) else s2) shoe
  else updateLedgerFull s shoe

/-- SHOE_FETCH passes the entry that has been read (R89). -/
def passEntry (s : State) (shoe : Nat) : State :=
  s.modShoe shoe fun h => { h with fetch := (h.fetch + 1) % 2 ^ h.sizeLog2 }

/-- A check fault of a fetched item: it fails at once, or a claim deck's fault is held until its start (R96, R97). -/
def faultAtFetch (s : State) (shoe seq : Nat) (o : Outcome) (held : Bool) : State :=
  if held then s.modItem shoe seq fun i => { i with st := .queued, held := some o }
  else s.modItem shoe seq fun i => { i with st := .resolved, out := o }

/-- The outcome of a check fault at a granule of a level's bytes. DEDUCED, log entry 45. -/
def checkOutcome (bs : List Byte) (depth cause g : Nat) : Outcome :=
  { cause := cause, failed := true, failOffset := g, tag := cmdTag (cmdAt bs g), depth := depth }

/-- A fault found before any command is reached. -/
def bareOutcome (cause : Nat) (detail : Nat := 0) : Outcome :=
  { cause := cause, failed := true, detail := detail, retry := retryCause cause }

/-- The entry has been read, and its deck is read if it names one: R444's checks, and the item is QUEUED or fails (R89,
R96). Where the function may not issue the deck's read, the item goes on waiting for it (R288). -/
def deckRead (s0 : State) (shoe : Nat) (entry deck : HostResp) : State :=
  let s := s0
  match (itemsOf s shoe).find? fun i => i.st = .fetching with
  | none => s
  | some i =>
    let h := s.shoe shoe
    let fail (s : State) (o : Outcome) (held : Bool) : State := faultAtFetch (passEntry s shoe) shoe i.seq o held
    if !winOk s (fnOf shoe) (64 * h.base + 64 * h.fetch) 64 then fail s (bareOutcome 0x0105) false
    else
      match readBack s entry 64 with
      | (s, none) => fail s (bareOutcome 0x0105) false
      | (s, some e) =>
        let isDeck := decide (entryType e = 1)
        let s := s.modItem shoe i.seq fun i =>
          { i with userTag := entryTag e, flags := entryFlags e % 16, isDeck := isDeck, deckAddr := entryAddr e, deckLen := entryLen e }
        if !entryOk e then fail s (bareOutcome 0x0101) false
        else if isDeck && !winOk s (fnOf shoe) (entryAddr e) (entryLen e) then fail s (bareOutcome 0x0104) false
        else if isDeck && !canIssue s (fnOf shoe) then s0
        else
          match (if isDeck then readHost s (fnOf shoe) (entryAddr e) (entryLen e) deck else (s, some (entryCmd e))) with
          | (s, none) => fail s (bareOutcome 0x0105) false
          | (s, some bs) =>
            let c := countsOf s shoe
            match checkLevel (placeOf shoe isDeck (fLaneMode (entryFlags e))) c.1 c.2 bs with
            | some (cause, g) => fail s (checkOutcome bs 0 cause g) (isDeck && decide (shoe < 8))
            | none =>
              let lv : Level := { id := 0, bytes := if isDeck then bs else bs.take (16 * cmdSize bs) }
              (passEntry s shoe).modItem shoe i.seq fun i => { i with st := .queued, levels := [lv] }

/-- SHOE_PRODUCE is written: the doorbell (R108, R99). -/
def writeProduce (s : State) (shoe v : Nat) : State :=
  let idx := bits v 0 12
  let s1 :=
    if 2 ^ (s.shoe shoe).sizeLog2 ≤ idx then s.modShoe shoe fun h => { h with configError := true }
    else s.modShoe shoe fun h => { h with produce := idx }
  ringWaits s1 shoe

/-- SHOE_FETCH is written (R107, R108). -/
def writeFetch (s : State) (shoe v : Nat) : State :=
  let idx := bits v 0 12
  if 2 ^ (s.shoe shoe).sizeLog2 ≤ idx then s.modShoe shoe fun h => { h with configError := true }
  else if (s.shoe shoe).enable then s
  else s.modShoe shoe fun h => { h with fetch := idx }

/-- SHEET_CONSUMED is written, and held outcomes resume (R104, R108). -/
def writeConsumed (s : State) (shoe v : Nat) : State :=
  let idx := bits v 0 16
  if 2 ^ (s.shoe shoe).sheetSizeLog2 ≤ idx then s.modShoe shoe fun h => { h with configError := true }
  else writeOutcomes (s.modShoe shoe fun h => { h with consumed := idx }) shoe

/-- SHEET_CTRL is written: the size while the shoe is disabled, and a first pass when a disabled sheet is enabled
(R102, R107). -/
def writeSheetCtrl (s : State) (shoe v : Nat) : State :=
  s.modShoe shoe fun h =>
    let h1 := if h.enable then h else { h with sheetSizeLog2 := bits v 0 5 }
    let en := bit v 31
    if en && !h.sheetEnable then { h1 with sheetEnable := true, sheetProduce := 0, sheetPhase := true }
    else { h1 with sheetEnable := en }

/-- The configuration with which a shoe may be enabled (R107, R108). -/
def enableOk (s : State) (shoe : Nat) : Bool :=
  let h := s.shoe shoe
  let fn := fnOf shoe
  decide (6 ≤ h.sizeLog2) && decide (h.sizeLog2 ≤ 12) && decide (6 ≤ h.sheetSizeLog2) && decide (h.sheetSizeLog2 ≤ 16)
    && decide (100 ≤ h.timeoutUs) && decide (h.timeoutUs ≤ 60000000) && h.sheetEnable
    && winOk s fn (64 * h.base) (64 * 2 ^ h.sizeLog2) && winOk s fn (32 * h.sheetBase) (32 * 2 ^ h.sheetSizeLog2)
    && winOk s fn (8 * h.scorecard) 8 && decide (h.produce < 2 ^ h.sizeLog2) && decide (h.fetch < 2 ^ h.sizeLog2)
    && decide (h.consumed < 2 ^ h.sheetSizeLog2)

/-- What enabling a shoe does outside a redeal: waiting outcomes are written first, then the scorecard (R103, R105), with
SHOE_NEXT_SEQ - 1 where no item of the shoe is left in the ledger. -/
def startShoe (s : State) (shoe : Nat) : State := writeOutcomes (s.modShoe shoe fun h => { h with scoreDue := true }) shoe

/-- SHOE_CTRL is written with enable 1 (R107). DEDUCED, log entry 44. -/
def enableShoe (s : State) (shoe v : Nat) : State :=
  if (s.shoe shoe).enable then s
  else
    let s1 := s.modShoe shoe fun h => { h with sizeLog2 := bits v 0 4 }
    if !enableOk s1 shoe then s1.modShoe shoe fun h => { h with configError := true }
    else
      let s2 := s1.modShoe shoe fun h => { h with enable := true }
      if s.redealing then s2.modShoe shoe fun h => { h with resumeWait := true }
      else startShoe s2 shoe

/-- SHOE_CTRL is written with enable 0 (R107). -/
def disableShoe (s : State) (shoe v : Nat) : State :=
  s.modShoe shoe fun h =>
    if h.enable then { h with enable := false, resumeWait := false } else { h with sizeLog2 := bits v 0 4 }

/-- An item's last command has completed and its writes are acknowledged (R124). -/
def Item.done (i : Item) : Bool :=
  i.st = .running &&
    match i.levels with
    | [lv] => decide (lv.total ≤ lv.pc) && lv.active.isEmpty && lv.loops.isEmpty
    | _ => false

/-- The item is COMMITTED and its success is fixed, with its note (R124, R162). -/
def commitItem (s : State) (shoe seq : Nat) : State :=
  match findItem s shoe seq with
  | none => s
  | some i =>
    if i.done then
      s.modItem shoe seq fun i =>
        { i with st := .committed, levels := [], out := { cause := i.note, detail := i.noteDetail } }
    else s

/-- Note an informational cause for an item: numeric notes add up, and otherwise the first stands (R162, R13).
DEDUCED, log entry 43. -/
def noteItem (s : State) (shoe seq cause detail : Nat) : State :=
  s.modItem shoe seq fun i =>
    if i.note = 0 then { i with note := cause, noteDetail := detail }
    else if i.note = cause ∧ cause = 0x0021 then { i with noteDetail := i.noteDetail ||| detail }
    else i

/-- A lookup of the ledger (R127, Table 6.6). -/
def ledgerLookup (s : State) (shoe : Nat) : State :=
  s.modDl fun d =>
    match d.items.find? fun i => i.shoe == shoe && i.seq == d.lookup.seq with
    | none => { d with lookup := { d.lookup with shoe := shoe, done := true, found := false, state := 0, cause := 0, failOffset := 0 } }
    | some i =>
      let r := i.st = .resolved
      { d with lookup := { d.lookup with shoe := shoe, done := true, found := true, state := i.st.code, cause := if r then i.out.cause else 0, failOffset := if r then i.out.failOffset else 0 } }

end Sys2Proof.Machine
end

