-- ==== Sys2Proof/Machine/ClaimOps.lean ====
section
/-! DEFINITION. Shares, arbitration, real-time bindings and event ring registers of the claims (R71 to R82, R85). -/

namespace Sys2Proof.Machine

/-- A real-time lane bound to the claim holds dispatched items (R76). -/
def rtLaneBusy (s : State) (n : Nat) : Bool :=
  match rtLaneOf s n with
  | some l => !(tget s.dl.lanes l).dispatched.isEmpty
  | none => false

/-- The reservation in force follows the active profile, but is not lowered while the claim's real-time lane holds
dispatched items, nor, where a lowering waits already, before the edge at which it takes effect (R76). -/
def settleReservation (s : State) (n : Nat) : State :=
  let want := profResv (activeProf (s.claim n))
  if want < (s.claim n).effResv ∧ (rtLaneBusy s n ∨ (s.claim n).resvPending) then s.modClaim n fun c => { c with resvPending := true }
  else s.modClaim n fun c => { c with effResv := want, resvPending := false }

/-- A claim's profiles and active profile change (R75); SHARE_CHANGED is posted when the active profile's number or
any field of CLM_SHARE changes. -/
def changeShare (s : State) (n : Nat) (profiles : Vector Word32 8) (active : Nat) : State :=
  let old := clmShare s n
  let oldP := (s.claim n).activeProfile
  let s1 := settleReservation (s.modClaim n fun c => { c with profiles := profiles, activeProfile := active }) n
  if clmShare s1 n = old ∧ oldP = active then s1
  else
    postEvent s1 n 0x0003 0 [leBytes 1 oldP ++ leBytes 1 active ++ leBytes 2 0 ++ leBytes 4 (clmShare s1 n)]

/-- A pending lowered reservation of a claim takes effect once its lane is empty (R76). -/
def applyReservation (s : State) (n : Nat) : State :=
  if (s.claim n).resvPending ∧ ¬ rtLaneBusy s n then
    let s1 := s.modClaim n fun c => { c with effResv := profResv (activeProf c), resvPending := false }
    postEvent s1 n 0x0008 0 [leBytes 4 (clmShare s1 n)]
  else s

/-- Pending reservations of every claim are looked at, as at a beat edge (R76). -/
def applyReservations (s : State) : State := (List.range 8).foldl applyReservation s

/-- An engine that arbitrates: a lane or a core (R71). -/
inductive Engine where
  | lane (l : Nat)
  | core (c : Nat)
deriving DecidableEq, Repr, Inhabited

/-- An engine's arbitration record. -/
def arbOf (s : State) : Engine → Arb
  | .lane l => (tget s.dl.lanes l).arb
  | .core c => (tget s.dl.cores c).arb

/-- Change an engine's arbitration record. -/
def State.modArb (s : State) (e : Engine) (f : Arb → Arb) : State :=
  match e with
  | .lane l => s.modDl fun d => { d with lanes := tmod d.lanes l fun x => { x with arb := f x.arb } }
  | .core c => s.modDl fun d => { d with cores := tmod d.cores c fun x => { x with arb := f x.arb } }

/-- A macro-instruction part by its number. -/
def findMacro (s : State) (mid : Nat) : Option MacroInst := s.dl.macros.find? (·.id == mid)

/-- Change a macro-instruction part. -/
def State.modMacro (s : State) (mid : Nat) (f : MacroInst → MacroInst) : State :=
  s.modDl fun d => { d with macros := d.macros.map fun m => if m.id == mid then f m else m }

/-- What requests an engine: parts queued on a lane, of claims that are not halted, or the contexts of a core that are not
halted (R386). -/
def requesters (s : State) : Engine → List MacroInst
  | .lane l => ((tget s.dl.lanes l).queue.filterMap fun m => findMacro s m).filter fun m => !shoeHalted s m.claim
  | .core c => ((tget s.dl.cores c).contexts.filterMap fun m => findMacro s m).filter fun m =>
      !m.halted.contains c && !m.stopping && m.fencedBy.isNone && m.phase = .running && m.workFor c

/-- The level of Table 4.5a at which a claim's request stands on an engine. DESIGN CHOICE, log entry 37. -/
def arbLevel (s : State) (e : Engine) (n : Nat) : Nat :=
  let credit := decide (0 < tget (arbOf s e).credit n)
  match effClass s n with
  | 3 => if credit then 1 else 5
  | 2 => if credit then 2 else 4
  | 1 => if credit then 3 else 5
  | _ => 6

/-- The first of two requesters: by level, then at levels 4 to 6 by the claim's use ÷ weight, then by age (Table
4.5a). -/
def arbBefore (s : State) (e : Engine) (a b : MacroInst) : Bool :=
  let la := arbLevel s e a.claim
  let lb := arbLevel s e b.claim
  if la ≠ lb then decide (la < lb)
  else
    let ua := tget (arbOf s e).beyond a.claim * profWeight (activeProf (s.claim b.claim))
    let ub := tget (arbOf s e).beyond b.claim * profWeight (activeProf (s.claim a.claim))
    if 4 ≤ la ∧ ua ≠ ub then decide (ua < ub) else decide (a.age < b.age)

/-- The requester that an engine grants (R72); the earlier one stands where two are equal. -/
def arbWinner (s : State) (e : Engine) : Option MacroInst :=
  (requesters s e).foldl (fun best m => match best with
    | none => some m
    | some b => if arbBefore s e m b then some m else some b) none

/-- A new arbitration frame: credits, debts, uses and boost (R71, R78). -/
def frameStart (s : State) (e : Engine) : State :=
  s.modArb e fun a =>
    { a with
      credit := Vector.ofFn fun n : Fin 8 => ((s.claim n).effResv * 2000 : Int) + min 0 (tget a.credit n)
      beyond := Vector.replicate 8 0
      boost := Vector.ofFn fun n : Fin 8 => effBoost s n * 2000 }

/-- The grant that ended is charged for its duration in ns (R71, R78). -/
def chargeGrant (s : State) (e : Engine) (ns : Nat) : State :=
  s.modArb e fun a =>
    match a.grant with
    | none => a
    | some (n, withCredit) =>
      let a1 := if withCredit then { a with credit := tmod a.credit n (· - (ns : Int)) }
        else { a with beyond := tmod a.beyond n (· + ns) }
      { a1 with boost := tmod a1.boost n (· - ns), grant := none }

/-- A command is active in the sense of R100: it is evaluated, holds a grant or waits for something other than arbitration.
A container (LOOP, CALL, LANE_DECK) is as active as what it holds. DEDUCED, log entry 127. -/
def cmdActive (s : State) (a : Active) : Bool :=
  match a.st with
  | .macroWait _ => false
  | .macroRun ps => ps.any fun p => s.dl.cores.toList.any fun c => c.current == some p
  | .loop => false
  | .callWait => false
  | .callRun _ => false
  | .laneWait => false
  | .laneRun _ => false
  | _ => true

/-- An item's activity timer runs: one of its commands is active, or is about to start (R100). -/
def itemActive (s : State) (i : Item) : Bool :=
  i.st = .running && i.levels.any fun lv => lv.ready || lv.active.any (cmdActive s)

/-- The clock of a core that runs a claim's work (R14, R78): above 1,750 MHz, up to 1,950 MHz, only while the claim has
boost credit on the core, its die runs at 1,750 MHz, and boost is not withheld (R429). DESIGN CHOICE, log entry 128. -/
def grantClock (s : State) (c n : Nat) : Nat :=
  let base := tget s.power.clocks (c / 24)
  if 0 < tget (tget s.dl.cores c).arb.boost n ∧ base = 1750 ∧ !s.power.boostWithheld then 1950 else base

/-- The engine grants its first requester (R72); a core's engines pass to that context, at its clock, for the next tile
group of its block (R78, R132, R135). -/
def grantNext (s : State) (e : Engine) : State :=
  match arbWinner s e with
  | none => s
  | some m =>
    let s1 := s.modArb e fun a => { a with grant := some (m.claim, decide (arbLevel s e m.claim ≤ 3)) }
    match e with
    | .lane _ => s1
    | .core c => (s1.modMacro m.id fun x => { x with granted := true }.takeBlock c).modDl fun d => { d with cores := tmod d.cores c fun x =>
        { x with current := some m.id, clockMhz := if x.gated then 0 else grantClock s c m.claim } }

/-- The rail of a face die follows whether a core of it runs above 1,750 MHz (R78, R429). -/
def followRail (s : State) (d : Nat) : State :=
  let want := (rangeFrom (24 * d) 24).any fun c => decide (1750 < (tget s.dl.cores c).clockMhz)
  if want = tget s.power.boosted d then s
  else
    (avsWrite s d (if want then Config.boostVoltage d else Config.faceVoltage d)).modPower fun p => { p with boosted := tset p.boosted d want }

/-- A binding byte of CLM_RT_BIND (Table 4.18). -/
def rtBindOf (v i : Nat) : RtBind :=
  { lane := bits v (8 * i) 4, claim := bits v (8 * i + 4) 3, valid := bit v (8 * i + 7) }

/-- What binding i would have in force: the value written, unless a valid binding of lower index in force names its lane
or claim (Table 4.18). -/
def rtWanted (s : State) (i : Nat) : RtBind :=
  let w := tget s.cl.rtWritten i
  let hidden := (List.range i).any fun j =>
    let o := tget s.cl.rtInForce j
    o.valid && (o.lane == w.lane || o.claim == w.claim)
  if w.valid && hidden then { w with valid := false } else w

/-- The lanes that a change of binding affects hold no dispatched items (Table 4.18). -/
def rtDrained (s : State) (i : Nat) : Bool :=
  let o := tget s.cl.rtInForce i
  let w := rtWanted s i
  (!o.valid || (tget s.dl.lanes o.lane).dispatched.isEmpty) && (!w.valid || (tget s.dl.lanes w.lane).dispatched.isEmpty)

/-- The bindings whose lanes are drained come into force, the lower ones first (Table 4.18, R121). -/
def rtApply (s : State) : State :=
  (List.range 4).foldl (fun s i =>
    if rtDrained s i then s.modCl fun c => { c with rtInForce := tset c.rtInForce i (rtWanted s i) } else s) s

/-- CLM_RT_BIND is written (R85). -/
def rtWrite (s : State) (v : Nat) : State :=
  rtApply (s.modCl fun c => { c with rtWritten := Vector.ofFn fun i : Fin 4 => rtBindOf v i })

/-- EVT_RING_SIZE is written: enabling a disabled ring starts a first pass (R81). -/
def writeRingSize (s : State) (n v : Nat) : State :=
  s.modRing n fun r =>
    let r1 := { r with sizeLog2 := bits v 0 4, enable := bit v 31 }
    if bit v 31 && !r.active then { r1 with produce := 0, validPhase := true } else r1

/-- EVT_RING_CONSUMED is written (R81). -/
def writeRingConsumed (s : State) (n v : Nat) : State :=
  s.modRing n fun r => if bits v 0 12 < 2 ^ r.sizeLog2 then { r with consumed := bits v 0 12 } else r

/-- EVT_RING_STATUS is written: overflow is W1C and clears lost (Table 4.19). -/
def writeRingStatus (s : State) (n v : Nat) : State :=
  s.modRing n fun r => if bit v 12 then { r with overflow := false, lost := 0 } else r

end Sys2Proof.Machine
end

