-- ==== Sys2Proof/Machine/MemOps.lean ====
section
/-! DEFINITION. The memory tiers (chapter 10): the canonical list of written bytes, frames and handles, page tables,
translation, grants, quotas, moves and heat. -/

namespace Sys2Proof.Machine

/-- A memory is in canonical form: its addresses rise strictly. An unlisted byte has never been written, so no entry
equals what an unlisted address reads as. -/
def Memory.wf : List Host.Cell → Bool
  | a :: b :: rest => decide (a.1 < b.1) && Memory.wf (b :: rest)
  | _ => true

/-- The byte at an address; none when it has never been written. DESIGN CHOICE, log entry 55. -/
def memGet (m : List Host.Cell) (a : Nat) : Option Byte := (m.find? fun c => c.1 == a).map (·.2)

/-- Write one byte. -/
def memPut (m : List Host.Cell) (a : Nat) (v : Byte) : List Host.Cell :=
  m.filter (fun c => decide (c.1 < a)) ++ (a, v) :: m.filter (fun c => decide (a < c.1))

/-- Write bytes from an address up. -/
def memPutAll (m : List Host.Cell) (a : Nat) : List Byte → List Host.Cell
  | [] => m
  | b :: bs => memPutAll (memPut m a b) (a + 1) bs

/-- The bytes of [lo, lo + n) become never-written. -/
def memDrop (m : List Host.Cell) (lo n : Nat) : List Host.Cell :=
  m.filter fun c => !(decide (lo ≤ c.1) && decide (c.1 < lo + n))

/-- Put optional bytes: a byte that was never written leaves its address unwritten. -/
def memPutOpt (m : List Host.Cell) (a : Nat) : List (Option Byte) → List Host.Cell
  | [] => m
  | none :: bs => memPutOpt (memDrop m a 1) (a + 1) bs
  | some b :: bs => memPutOpt (memPut m a b) (a + 1) bs

/-- The optional bytes of [a, a + n). -/
def memRange (m : List Host.Cell) (a n : Nat) : List (Option Byte) := (List.range n).map fun i => memGet m (a + i)

/-- The base address of a frame or handle in its tier's memory. -/
def pageBase (frame : Nat) : Nat := frame * 65536

/-- The optional bytes of a whole 64 KiB page, kept as the cells of its range: cheaper than a list of bytes. -/
def pageCells (m : List Host.Cell) (frame : Nat) : List Host.Cell :=
  m.filter fun c => decide (pageBase frame ≤ c.1) && decide (c.1 < pageBase frame + 65536)

/-- Copy a page's bytes from one memory's frame into another's (R197). -/
def copyPage (src dst : List Host.Cell) (from_ to_ : Nat) : List Host.Cell :=
  (pageCells src from_).foldl (fun m c => memPut m (c.1 - pageBase from_ + pageBase to_) c.2) (memDrop dst (pageBase to_) 65536)

/-- The sectors in which a block of 4 KiB is stored, 1 to 16 (R202). -/
def blockSectorCount (bs : List (Option Byte)) : Nat := max 1 (min 16 (Config.blockSectors bs))

/-- The sectors of each of a page's 16 blocks. -/
def pageSectors (m : List Host.Cell) (frame : Nat) : List Nat :=
  (List.range 16).map fun i => blockSectorCount (memRange m (pageBase frame + 4096 * i) 4096)

/-- Sum of a list of counts. -/
def total (l : List Nat) : Nat := l.foldl (· + ·) 0

/-- Face die of a T1 frame and vault die of a T2 handle (R186, R187). -/
def frameDie (f : Nat) : Nat := f / 3072
def handleDie (h : Nat) : Nat := h / 32768

/-- The FREE sectors of a vault die (R187, Table 10.1). -/
def freeSectors (t : Tiers) (die : Nat) : Nat :=
  4194304 - total ((t.handles.filter fun h => handleDie h.1 == die).map fun h => total h.2.sectors)

/-- The FOREIGN sectors of a vault die. -/
def foreignSectors (t : Tiers) (die : Nat) : Nat :=
  total ((t.handles.filter fun h => handleDie h.1 == die && h.2.isForeign).map fun h => total h.2.sectors)

/-- A frame of a die that can be granted to an owner (R200): the lowest FREE one, else its lowest FOREIGN one. -/
def grantOnDie (t : Tiers) (owner die : Nat) : Option Nat :=
  let fs := rangeFrom (3072 * die) 3072
  match fs.find? fun f => (alookup t.frames f).isNone with
  | some f => some f
  | none => fs.find? fun f => match alookup t.frames f with
    | some o => o.isForeign && o.owner == owner
    | none => false

/-- The T1 frame granted to an owner whose page's home die is `home` (R186, R200). DESIGN CHOICE, log entry 53. -/
def grantFrame (t : Tiers) (owner home : Nat) : Option Nat :=
  (List.range 4).findSome? fun k => grantOnDie t owner ((home + k) % 4)

/-- The home die of a page number (R186: bits [17:16] of its address). -/
def homeDie (page : Nat) : Nat := page % 4

/-- Every channel group of a vault die is fenced (R187). -/
def vaultFenced (s : State) (die : Nat) : Bool :=
  (List.range 16).all fun g => (tget s.fences.groups (16 * die + g)).fenced

/-- The vault die that a page enters (R187). -/
def vaultDie (s : State) : Option Nat :=
  match vaultFenced s 0, vaultFenced s 1 with
  | true, true => none
  | true, false => some 1
  | false, true => some 0
  | false, false => some (if freeSectors s.tiers 0 < freeSectors s.tiers 1 then 1 else 0)

/-- The T2 handle granted to an owner for a page that needs `need` sectors (R200). -/
def grantHandle (s : State) (owner need : Nat) : Option Nat :=
  match vaultDie s with
  | none => none
  | some die =>
    let t := s.tiers
    let hs := rangeFrom (32768 * die) 32768
    let pick := match hs.find? fun h => (alookup t.handles h).isNone with
      | some h => some h
      | none => hs.find? fun h => match alookup t.handles h with
        | some o => o.isForeign && o.owner == owner
        | none => false
    match pick with
    | none => none
    | some h =>
      let kept := match alookup t.handles h with
        | some o => total o.sectors
        | none => 0
      if need ≤ kept + freeSectors t die then some h else none

/-- The channel group of a page that enters T2: the hash is drawn again while its group is fenced (R187). -/
def drawGroup (s : State) (h : Nat) : Nat :=
  let die := handleDie h
  let ok (g : Nat) : Bool := !(tget s.fences.groups (16 * die + g)).fenced
  match (List.range 64).find? fun d => ok (Config.handleGroup h d % 16) with
  | some d => Config.handleGroup h d % 16
  | none => ((List.range 16).find? ok).getD 0

/-- Page table t (0 to 7 a claim's, 8 COMMON). -/
def State.ptab (s : State) (t : Nat) : PageTable := tget s.tiers.tables t

/-- The entry of a page. -/
def pteOf (s : State) (t page : Nat) : Option Pte := alookup (s.ptab t).pages page

/-- Pages sorted by address. -/
def insertPage (l : List (Nat × Pte)) (page : Nat) (p : Pte) : List (Nat × Pte) :=
  l.filter (fun x => decide (x.1 < page)) ++ (page, p) :: l.filter (fun x => decide (page < x.1))

/-- Set a page's entry. -/
def State.setPte (s : State) (t page : Nat) (p : Pte) : State :=
  s.modTiers fun x => { x with tables := tmod x.tables t fun pt => { pt with pages := insertPage pt.pages page p } }

/-- Change a page's entry, if it is mapped. -/
def State.modPte (s : State) (t page : Nat) (f : Pte → Pte) : State :=
  match pteOf s t page with
  | some p => s.setPte t page (f p)
  | none => s

/-- Remove a page's entry. -/
def State.dropPte (s : State) (t page : Nat) : State :=
  s.modTiers fun x => { x with tables := tmod x.tables t fun pt => { pt with pages := aerase pt.pages page } }

/-- Page-table pages of a table (R190). -/
def tablePages (pt : PageTable) : Nat := (if pt.l1.isSome then 1 else 0) + (pt.l2.length + 1) / 2

/-- The COMMON pages in T1 for which a claim is charged (R203). -/
def commonCharges (s : State) (n : Nat) : Nat :=
  ((s.ptab 8).pages.filter fun p => !p.2.tier2 && ((p.2.touchCur ||| p.2.touchPrev).getLsbD n)).length

/-- Moves of a kind charged to a claim. -/
def movesOf (s : State) (n : Nat) (promote : Bool) : List Move :=
  s.tiers.moves.filter fun m => m.charged == some n && m.promote == promote

/-- A claim's T1 use in frames (R199). -/
def t1Use (s : State) (n : Nat) : Nat :=
  ((s.ptab n).pages.filter fun p => !p.2.tier2).length + tablePages (s.ptab n) + (s.claim n).descFrames.length
    + commonCharges s n + (movesOf s n true).length

/-- The sectors a T2 page stores. -/
def pageStored (s : State) (p : Pte) : Nat :=
  match alookup s.tiers.handles p.frame with
  | some o => total o.sectors
  | none => 0

/-- A claim's T2 use in sectors without its COMMON share (R199, Table 10.7). -/
def t2Sectors (s : State) (n : Nat) : Nat :=
  total (((s.ptab n).pages.filter fun p => p.2.tier2).map fun p => pageStored s p.2)
    + 256 * ((movesOf s n false).filter fun m => m.table == n).length

/-- A claim's T2 use in sectors (R199). -/
def t2Use (s : State) (n : Nat) : Nat := t2Sectors s n + 256 * tget s.tiers.shares n

/-- Over quota (R201). -/
def overT1 (s : State) (n : Nat) : Bool := decide ((s.claim n).t1Pages < t1Use s n)
def overT2 (s : State) (n : Nat) : Bool := decide ((s.claim n).t2Pages * 256 < t2Use s n)

/-- Vault room for one more page (R199). -/
def vaultRoom (s : State) (n : Nat) : Bool := decide (t2Use s n + 256 ≤ (s.claim n).t2Pages * 256)

/-- T1 room for one more frame. -/
def t1Room (s : State) (n : Nat) : Bool := decide (t1Use s n < (s.claim n).t1Pages)

/-- The COMMON pool's capacity and use in sectors (R205). -/
def poolCapacity (s : State) : Nat := 256 * total s.tiers.shares.toList
def poolUse (s : State) : Nat :=
  total ((s.ptab 8).pages.map fun p => if p.2.tier2 then pageStored s p.2 else 256) + 256 * tablePages (s.ptab 8)

/-- Mark a frame or handle owned, FOREIGN or FREE. -/
def State.setFrame (s : State) (f : Nat) (o : Option Owned) : State :=
  s.modTiers fun t => { t with frames := match o with
    | some o => ainsert t.frames f o
    | none => aerase t.frames f }
def State.setHandle (s : State) (h : Nat) (o : Option Owned) : State :=
  s.modTiers fun t => { t with handles := match o with
    | some o => ainsert t.handles h o
    | none => aerase t.handles h }

/-- A frame or handle becomes FOREIGN with its owner's tag (R206). -/
def foreignFrame (s : State) (f : Nat) : State :=
  match alookup s.tiers.frames f with
  | some o => s.setFrame f (some { o with isForeign := true })
  | none => s
def foreignHandle (s : State) (h : Nat) : State :=
  match alookup s.tiers.handles h with
  | some o => s.setHandle h (some { o with isForeign := true })
  | none => s

/-- The CLEAR_NEEDED event of R206 for a tier, claim and count wanted. -/
def clearNeeded (s : State) (tier2 : Bool) (claim wanted : Nat) : State :=
  let s1 := s.modTiers fun t => if tier2 then { t with clearT2 := true } else { t with clearT1 := true }
  postEvent s1 8 0x0013 0 [leBytes 1 (if tier2 then 2 else 1) ++ leBytes 1 claim ++ leBytes 2 0 ++ leBytes 4 wanted]

/-- Where an access goes: the table and page whose heat it raises (none for the descriptor table), and the physical
place. -/
structure Place2 where
  page : Option (Nat × Nat) := none
  tier2 : Bool := false
  frame : Nat := 0
  off : Nat := 0
deriving DecidableEq, Repr, Inhabited

/-- The address from which claim descriptors are seen (R138), and that of the COMMON window (Table 10.2). -/
def descBase : Nat := 0xFFFFFC0000
def commonBase : Nat := 0xF000000000

/-- Translate a claim's access to a byte (R138, R188, R189): its place, or the cause and detail of the failure. -/
def translate (s : State) (n va : Nat) (write : Bool) : Except (Nat × Nat) Place2 :=
  let unmapped : Except (Nat × Nat) Place2 := .error (0x0403, bits va 16 24)
  if descBase ≤ va then
    let o := va - descBase
    if o < 64 * (s.claim n).descriptors then
      match (s.claim n).descFrames[o / 65536]? with
      | some f => .ok { frame := f, off := o % 65536 }
      | none => unmapped
    else unmapped
  else
    let window := decide (commonBase ≤ va)
    let t := if window then 8 else n
    let page := (if window then va - commonBase else va) / 65536
    if window && !s.tiers.commonAccess.getLsbD n then .error (0x0405, 0)
    else if window && write then .error (0x0404, 0)
    else
      match pteOf s t page with
      | some p => .ok { page := some (t, page), tier2 := p.tier2, frame := p.frame, off := va % 65536 }
      | none => unmapped

/-- The bytes of the tier that a place lies in. -/
def tierMem (s : State) (tier2 : Bool) : List Host.Cell := if tier2 then s.tiers.t2 else s.tiers.t1

/-- Replace the bytes of a tier. -/
def State.setMem (s : State) (tier2 : Bool) (m : List Host.Cell) : State :=
  s.modTiers fun t => if tier2 then { t with t2 := m } else { t with t1 := m }

/-- The level-2 tables of a claim or COMMON needed for a page, as frames still to be granted: the level-1 table and a
new half (R190). -/
def needsL1 (pt : PageTable) : Bool := pt.l1.isNone
def needsL2 (pt : PageTable) (page : Nat) : Bool := !(pt.l2.any fun e => e.1 == page / 4096)
def l2NewFrame (pt : PageTable) (page : Nat) : Bool := needsL2 pt page && decide (pt.l2.length % 2 = 0)

/-- Grant one T1 frame to an owner, or none. -/
def takeFrame (s : State) (owner home : Nat) : Option (Nat × State) :=
  (grantFrame s.tiers owner home).map fun f => (f, s.setFrame f (some { owner := owner }))

/-- Make the page tables that a page of table t needs (R190): the state, or `none` when a frame cannot be granted. -/
def ensureTables (s : State) (t page : Nat) : Option State :=
  let s1? :=
    if needsL1 (s.ptab t) then
      (takeFrame s t (homeDie page)).map fun r =>
        r.2.modTiers fun x => { x with tables := tmod x.tables t fun pt => { pt with l1 := some r.1 } }
    else some s
  match s1? with
  | none => none
  | some s1 =>
    let pt := s1.ptab t
    if !needsL2 pt page then some s1
    else if l2NewFrame pt page then
      (takeFrame s1 t (homeDie page)).map fun r =>
        r.2.modTiers fun x => { x with tables := tmod x.tables t fun pt => { pt with l2 := pt.l2 ++ [(page / 4096, r.1, false)] } }
    else
      let f := match pt.l2.getLast? with
        | some e => e.2.1
        | none => 0
      some (s1.modTiers fun x => { x with tables := tmod x.tables t fun pt => { pt with l2 := pt.l2 ++ [(page / 4096, f, true)] } })

/-- A new page of never-written granules in T1 (R209). -/
def placeT1 (s : State) (t page : Nat) : Option State :=
  (takeFrame s t (homeDie page)).map fun r =>
    (r.2.setMem false (memDrop r.2.tiers.t1 (pageBase r.1) 65536)).setPte t page { frame := r.1 }

/-- The sectors of a page that was never written. -/
def emptySectors : List Nat := List.replicate 16 (blockSectorCount (List.replicate 4096 none))

/-- A handle as it is granted to a table's page: its sectors, its channel group, and the key and tweaks of what is stored in it
(R187, R208). -/
def grantedHandle (s : State) (t page h : Nat) (sectors : List Nat) : Owned :=
  { owner := t, sectors := sectors, group := drawGroup s h, key := tget s.tiers.keys t, page := page }

/-- A new page of never-written granules in T2. -/
def placeT2 (s : State) (t page : Nat) : Option State :=
  (grantHandle s t (total emptySectors)).map fun h =>
    let s1 := s.setHandle h (some (grantedHandle s t page h emptySectors))
    (s1.setMem true (memDrop s1.tiers.t2 (pageBase h) 65536)).setPte t page { tier2 := true, frame := h }

/-- How a MAP ends: done, or a cause and how much of which tier was wanted. -/
inductive MapEnd where
  | ok (s : State)
  | quota
  | frames (tier2 : Bool)
deriving Inhabited

/-- Map one page in the preferred tier, else the other (R209, Table 10.5); its tables stand. -/
def mapOne (s : State) (n page : Nat) (preferT2 : Bool) : MapEnd :=
  let q1 := t1Room s n
  let q2 := vaultRoom s n
  let in1 := if q1 then placeT1 s n page else none
  let in2 := if q2 then placeT2 s n page else none
  match (if preferT2 then in2 else in1), (if preferT2 then in1 else in2) with
  | some s2, _ => .ok s2
  | none, some s2 => .ok s2
  | none, none => if q1 || q2 then .frames (if preferT2 then q2 else !q1) else .quota

/-- The page-table pages that a range needs are allocated first (R190, R209). -/
def mapTables (n : Nat) (s : State) : List Nat → Option State
  | [] => some s
  | p :: ps => (ensureTables s n p).bind fun s1 => mapTables n s1 ps

/-- Map pages one by one, stopping at the first that cannot be (R209). -/
def mapPages (n : Nat) (preferT2 : Bool) : State → List Nat → MapEnd
  | s, [] => .ok s
  | s, p :: ps =>
    match mapOne s n p preferT2 with
    | .ok s1 => mapPages n preferT2 s1 ps
    | e => e

/-- The page-table pages that a range needs (R190). -/
def tablesNeeded : PageTable → List Nat → Nat
  | _, [] => 0
  | pt, p :: ps =>
    b2n (needsL1 pt) + b2n (l2NewFrame pt p)
      + tablesNeeded { pt with l1 := some 0, l2 := if needsL2 pt p then pt.l2 ++ [(p / 4096, 0, false)] else pt.l2 } ps

/-- Do the quotas of both tiers hold so many pages (Table 10.5), whatever frames can be granted? `u1` frames, the tables
among them, and `u2` sectors are in use. -/
def pagesHold (c : Claim) (preferT2 : Bool) : Nat → Nat → Nat → Bool
  | 0, _, _ => true
  | k + 1, u1, u2 =>
    let in1 := decide (u1 < c.t1Pages)
    let in2 := decide (u2 + 256 ≤ c.t2Pages * 256)
    if in2 && (preferT2 || !in1) then pagesHold c preferT2 k u1 (u2 + total emptySectors)
    else if in1 then pagesHold c preferT2 k (u1 + 1) u2
    else false

/-- Do the quotas hold a range with the tables that it needs? -/
def quotasHold (c : Claim) (preferT2 : Bool) (pt : PageTable) (u1 u2 : Nat) (pages : List Nat) : Bool :=
  let u := u1 + tablesNeeded pt pages
  decide (u ≤ c.t1Pages) && pagesHold c preferT2 pages.length u u2

/-- Map a range of pages, all or none (R209): a range that the quotas cannot hold fails for them even where a frame
lacks too. DEDUCED, log entry 51. -/
def mapRange (n : Nat) (preferT2 : Bool) (s : State) (pages : List Nat) : MapEnd :=
  if quotasHold (s.claim n) preferT2 (s.ptab n) (t1Use s n) (t2Use s n) pages then
    match mapTables n s pages with
    | none => .frames false
    | some s1 => mapPages n preferT2 s1 pages
  else .quota

/-- A page leaves a claim: its frame or handle becomes FOREIGN (R206). DEDUCED, log entry 50. -/
def unmapOne (s : State) (t page : Nat) : State :=
  match pteOf s t page with
  | none => s
  | some p =>
    let s1 := if p.tier2 then foreignHandle s p.frame else foreignFrame s p.frame
    s1.dropPte t page

/-- A move in progress of a page. -/
def moveOf (s : State) (t page : Nat) : Option Move :=
  s.tiers.moves.find? fun m => m.table == t && m.page == page

/-- Take a move off the list and clear the page's moving flag. -/
def dropMove (s : State) (t page : Nat) : State :=
  (s.modTiers fun x => { x with moves := x.moves.filter fun m => !(m.table == t && m.page == page) }).modPte t page
    fun p => { p with moving := false }

/-- A move that has not committed is cancelled and its source stands (R198); its target is again what it was. -/
def cancelMove (s : State) (t page : Nat) : State :=
  match moveOf s t page with
  | none => s
  | some m =>
    let s1 := dropMove s t page
    if m.promote then s1.setFrame m.target m.before else s1.setHandle m.target m.before

/-- Start a demotion of a T1 page (R196, R197, R199): it reserves 256 sectors with its handle, those that a FOREIGN handle
keeps among them, else the event of R206 is posted. The answer tells whether it started. -/
def startDemotion (s : State) (t page : Nat) (charged : Option Nat) (waiter : Option (Nat × Nat)) : State × Bool :=
  match grantHandle s t 256 with
  | none => (clearNeeded s true (charged.getD 8) 256, false)
  | some h =>
    let s1 := s.setHandle h (some (grantedHandle s t page h (List.replicate 16 16)))
    let s2 := s1.modTiers fun x =>
      { x with moves := x.moves ++ [{ table := t, page := page, promote := false, target := h, charged := charged, waiter := waiter, before := alookup s.tiers.handles h }] }
    (s2.modPte t page fun p => { p with moving := true }, true)

/-- Demote a claim's own T1 page if it has vault room and a handle (R196). -/
def demoteOwn (s : State) (n page : Nat) (waiter : Option (Nat × Nat)) : State × Bool :=
  match pteOf s n page with
  | some p =>
    if p.tier2 ∨ p.pins ≠ 0 ∨ p.moving ∨ ¬ vaultRoom s n ∨ overT2 s n then (s, false)
    else startDemotion s n page (some n) waiter
  | none => (s, false)

/-- A COMMON page in T1 with no charge starts its demotion into the pool's space (R204). -/
def commonSettle (s : State) (page : Nat) : State :=
  match pteOf s 8 page with
  | some p =>
    if p.tier2 ∨ p.moving ∨ p.touchCur ||| p.touchPrev ≠ 0 then s
    else (startDemotion s 8 page none none).1
  | none => s

/-- A claim's charge on a COMMON page is evicted (R203). -/
def evictCharge (s : State) (n page : Nat) : State :=
  let clr (v : BitVec 8) : BitVec 8 := v &&& ~~~(1#8 <<< n)
  commonSettle (s.modPte 8 page fun p => { p with touchCur := clr p.touchCur, touchPrev := clr p.touchPrev }) page

/-- A victim of a claim's quota pressure (R195): own unpinned T1 pages and charged COMMON pages of heat at most the
limit, lowest heat first, own pages before COMMON ones, then lowest address. -/
def victimOf (s : State) (n : Nat) (heatBelow : Option Nat) : Option (Nat × Nat) :=
  let ok (p : Pte) : Bool := match heatBelow with
    | some h => decide (p.heat ≤ s.tiers.demote) && decide (p.heat < h)
    | none => true
  let own := ((s.ptab n).pages.filter fun p => !p.2.tier2 && decide (p.2.pins = 0) && !p.2.moving && ok p.2).map fun p => (n, p)
  let com := ((s.ptab 8).pages.filter fun p => !p.2.tier2 && ((p.2.touchCur ||| p.2.touchPrev).getLsbD n) && ok p.2).map fun p => (8, p)
  ((own ++ com).foldl (fun best c => match best with
    | none => some c
    | some b => if c.2.2.heat < b.2.2.heat then some c else some b) none).map fun c => (c.1, c.2.1)

/-- One victim step: demote an own victim or evict a COMMON charge (R195). The answer tells whether anything moved. -/
def victimStep (s : State) (n : Nat) (heatBelow : Option Nat) (waiter : Option (Nat × Nat)) : State × Bool :=
  match victimOf s n heatBelow with
  | none => (s, false)
  | some (t, page) => if t = n then demoteOwn s n page waiter else (evictCharge s n page, true)

/-- Start a promotion of a T2 page, charging a claim (R197), or say which tier lacked a frame. -/
def startPromotion (s : State) (t page n : Nat) : Option State :=
  match takeFrame s t (homeDie page) with
  | none => none
  | some (f, s1) =>
    let s2 := s1.modTiers fun x =>
      { x with moves := x.moves ++ [{ table := t, page := page, promote := true, target := f, charged := some n, before := alookup s.tiers.frames f }] }
    some (s2.modPte t page fun p => { p with moving := true })

/-- A page already waits for the demotion of the victim that is to make room for it (R195, R203). -/
def awaitsVictim (s : State) (t page : Nat) : Bool := s.tiers.moves.any fun m => m.waiter == some (t, page)

/-- A promotion request of a page by a claim (R195, R198): a demotion in progress is cancelled, and a T2 page is
promoted when the claim has T1 room, after a victim step where `victims` allows one. -/
def promoteRequest (s : State) (t page n : Nat) (victims : Bool) : State :=
  match pteOf s t page with
  | none => s
  | some p =>
    match moveOf s t page with
    | some m => if m.promote then s else cancelMove s t page
    | none =>
      if !p.tier2 then s
      else
        let go (s : State) : State := match startPromotion s t page n with
          | some s1 => s1
          | none => clearNeeded s false n 1
        if overT1 s n then s
        else if t1Room s n then go s
        else if victims && !awaitsVictim s t page then
          match victimStep s n (some p.heat) (some (t, page)) with
          | (s1, true) => if t1Room s1 n then go s1 else s1
          | (s1, false) => s1
        else s

/-- A claim over its T1 quota gives pages up in victim order without heat limits (R201); `fuel` bounds the steps. -/
def relieveT1 : Nat → State → Nat → State
  | 0, s, _ => s
  | fuel + 1, s, n =>
    if (s.claim n).t1Pages + (movesOf s n false).length < t1Use s n then
      match victimStep s n none none with
      | (s1, true) => relieveT1 fuel s1 n
      | (s1, false) => s1
    else s

/-- A claim is charged for a COMMON page in T1 (R203). -/
def markCommon (s : State) (n page : Nat) : State :=
  s.modPte 8 page fun p => { p with touchCur := p.touchCur ||| (1#8 <<< n) }

/-- The page that waited for a victim's room (R195, R198, R203, R204): a COMMON page in T1 is charged, which cancels its
demotion, and another page is promoted. DEDUCED, log entry 110. -/
def serveWaiter (s : State) (n t page : Nat) : State :=
  match pteOf s t page with
  | none => s
  | some p =>
    if p.tier2 then promoteRequest s t page n false
    else if t = 8 ∧ t1Room s n then markCommon (cancelMove s 8 page) n page
    else s

/-- A move's copy commits (R197): the entry switches tier, the source is freed and its tier credited. -/
def commitMove (s : State) (t page : Nat) : State :=
  match moveOf s t page, pteOf s t page with
  | some m, some p =>
    let s1 := dropMove s t page
    if m.promote then
      let s2 := s1.setMem false (copyPage s1.tiers.t2 s1.tiers.t1 p.frame m.target)
      let s3 := (s2.setMem true (memDrop s2.tiers.t2 (pageBase p.frame) 65536)).setHandle p.frame none
      let s4 := s3.modPte t page fun p =>
        let only : BitVec 8 := 1#8 <<< m.charged.getD 0
        if t = 8 then { p with tier2 := false, frame := m.target, touchCur := p.touchCur &&& only, touchPrev := p.touchPrev &&& only }
        else { p with tier2 := false, frame := m.target }
      let s5 := if t = 8 then commonSettle s4 page else s4
      match m.charged with
      | some n => s5.modTiers fun x => { x with promotions := tmod x.promotions n fun v => (v + 1) % 2 ^ 32 }
      | none => s5
    else
      let s2 := s1.setMem true (copyPage s1.tiers.t1 s1.tiers.t2 p.frame m.target)
      let s3 := (s2.setMem false (memDrop s2.tiers.t1 (pageBase p.frame) 65536)).setFrame p.frame none
      let s4 := match alookup s3.tiers.handles m.target with
        | some o => s3.setHandle m.target (some { o with sectors := pageSectors s3.tiers.t2 m.target })
        | none => s3
      let s5 := s4.modPte t page fun p => { p with tier2 := true, frame := m.target }
      match m.charged with
      | some n =>
        let s6 := relieveT1 16 (s5.modTiers fun x => { x with demotions := tmod x.demotions n fun v => (v + 1) % 2 ^ 32 }) n
        match m.waiter with
        | some w => serveWaiter s6 n w.1 w.2
        | none => s6
      | none => s5
  | _, _ => s

/-- One access touches a page (R194, R195, R203): heat rises, COMMON touch bits and charges follow, and a T2 page
whose heat reaches the threshold becomes a promotion candidate. -/
def touchPage (s : State) (n t page : Nat) : State :=
  match pteOf s t page with
  | none => s
  | some p =>
    let s1 := s.modPte t page fun p => { p with heat := min 255 (p.heat + 1) }
    let s2 :=
      if t = 8 ∧ n < 8 then
        let had := (p.touchCur ||| p.touchPrev).getLsbD n
        let charge (s : State) : State :=
          markCommon (match moveOf s 8 page with
            | some m => if m.promote then s else cancelMove s 8 page
            | none => s) n page
        if p.tier2 || had then markCommon s1 n page
        else if t1Room s1 n then charge s1
        else if awaitsVictim s1 8 page then s1
        else
          match victimStep s1 n (some (min 255 (p.heat + 1))) (some (8, page)) with
          | (v, true) => if t1Room v n then charge v else v
          | (v, false) => v
      else s1
    if s2.tiers.auto ∧ p.tier2 ∧ p.heat < 255 ∧ s2.tiers.promote ≤ p.heat + 1 ∧ n < 8 then promoteRequest s2 t page n true
    else s2

/-- HEAT_AGE (R194, R203, R204): heat shifts right, COMMON touch masks age, and uncharged pages start their way
back. -/
def heatAge (s : State) (shift : Nat) : State :=
  let s1 := s.modTiers fun x =>
    { x with tables := x.tables.map fun pt => { pt with pages := pt.pages.map fun p => (p.1, { p.2 with heat := p.2.heat >>> shift }) } }
  let s2 := s1.modTiers fun x =>
    { x with tables := tmod x.tables 8 fun pt => { pt with pages := pt.pages.map fun p => (p.1, { p.2 with touchPrev := p.2.touchCur, touchCur := 0 }) } }
  ((s2.ptab 8).pages.map (·.1)).foldl commonSettle s2

/-- A page's entry as the lookup reads it (Table 10.4). -/
def pteWord (p : Pte) : Nat :=
  1 + 2 * b2n p.tier2 + 4 * b2n (decide (p.pins ≠ 0)) + 8 * b2n p.moving + 2 ^ 8 * p.heat + 2 ^ 16 * p.frame
    + 2 ^ 36 * p.touchCur.toNat + 2 ^ 44 * p.touchPrev.toNat

/-- A level-1 entry as it lies in its table (Table 10.3); 0 where no level-2 table exists. -/
def l1Word (pt : PageTable) (i : Nat) : Nat :=
  match pt.l2.find? fun e => e.1 == i with
  | some e => 1 + 2 * b2n e.2.2 + 2 ^ 16 * e.2.1
  | none => 0

/-- The page table lookup (R191, R212): its level-1 entry, then the page's entry. -/
def tierLookup (s : State) (v : Nat) : State :=
  let va := bits v 0 40
  let t := bits v 40 4
  let page := va / 65536
  s.modTiers fun x =>
    { x with
      lookupVa := va
      lookupTable := t
      lookupDone := true
      lookupL1 := decide (t ≤ 8) && bit (l1Word (s.ptab t) (page / 4096)) 0
      lookupEntry := if t ≤ 8 then (match pteOf s t page with
        | some p => pteWord p
        | none => 0) else 0 }

/-- A write of a COMMON share (R205, R423). -/
def writeShare (s : State) (n v : Nat) : State :=
  let old := tget s.tiers.shares n
  let new := bits v 0 16
  let s1 := s.modTiers fun x => { x with shares := tset x.shares n new }
  let refuse := (decide (old < new) && decide ((s.claim n).t2Pages * 256 < t2Use s1 n))
    || (decide (new < old) && decide (poolCapacity s1 < poolUse s))
  if refuse then s.modTiers fun x => { x with shareRefused := true } else s1

/-- CLEAR's next unit of a tier: the lowest FOREIGN frame or handle (R207). -/
def nextForeign (s : State) (tier2 : Bool) : Option Nat :=
  ((if tier2 then s.tiers.handles else s.tiers.frames).filter fun f => f.2.isForeign).foldl
    (fun best f => match best with
      | none => some f.1
      | some b => some (min b f.1)) none

/-- Zero one FOREIGN unit, give it the never-written pattern and free it (R207). -/
def clearOne (s : State) (tier2 : Bool) (f : Nat) : State :=
  let s1 := s.setMem tier2 (memDrop (tierMem s tier2) (pageBase f) 65536)
  if tier2 then s1.setHandle f none else s1.setFrame f none

/-- Zero FOREIGN units in ascending order, at most `fuel`; the count freed is added. -/
def clearUnits (tier2 : Bool) : Nat → State → Nat → State × Nat
  | 0, s, k => (s, k)
  | fuel + 1, s, k =>
    match nextForeign s tier2 with
    | none => (s, k)
    | some f => clearUnits tier2 fuel (clearOne s tier2 f) (k + 1)

end Sys2Proof.Machine
end

