-- ==== Sys2Proof/Machine/EccOps.lean ====
section
/-! DEFINITION. The check codes and their classes (R331 to R334), counting and logging (R339 to R343), and reads and
writes of the bytes of T1 and T2 through the decoder (R335 to R338). -/

namespace Sys2Proof.Machine

/-- The number of set bits among the low 8 bits of a column. -/
def weight8 (v : Nat) : Nat := ((List.range 8).filter fun i => v.testBit i).length

/-- The 8-bit values of a weight, ascending (R332). -/
def columnsOf (w : Nat) : List Nat := (List.range 256).filter fun v => weight8 v == w

/-- Data columns of the T1, T2 and headframe code (R332). -/
def dataCols64 : List Nat := columnsOf 3 ++ columnsOf 7

/-- Address-hash columns of that code (R332). -/
def hashCols64 : List Nat := (columnsOf 5).take 16

/-- Data and address-hash columns of the T0 code (R331). -/
def dataCols0 : List Nat := [0x0E, 0x13, 0x15, 0x16, 0x19, 0x1A, 0x1C, 0x1F]
def hashCols0 : List Nat := [0x07, 0x0B, 0x0D]

/-- The XOR of the columns of a number's set bits. -/
def xorCols (v : Nat) (cols : List Nat) : Nat :=
  (cols.zipIdx.foldl (fun a c => if v.testBit c.2 then a ^^^ c.1 else a) 0)

/-- The address hash of physical word n (R332). -/
def hash64 (n : Nat) : Nat := bits n 0 16 ^^^ bits n 16 16

/-- The address hash of T0 byte b (R331). -/
def hash0 (b : Nat) : Nat :=
  ((List.range 7).foldl (fun a i => a ^^^ bits b (3 * i) 3) 0) ^^^ bits b 21 1

/-- The check bits of a T1, T2 or headframe word (R332). -/
def code64 (data n : Nat) : Nat := xorCols data dataCols64 ^^^ xorCols (hash64 n) hashCols64

/-- The check bits of a T0 byte (R331). -/
def code0 (data b : Nat) : Nat := xorCols data dataCols0 ^^^ xorCols (hash0 b) hashCols0

/-- A decoded syndrome: its class and the stored bit it corrects (Table 16.2). -/
def classify (syn unwritten poison checks : Nat) (dataCols : List Nat) : WordClass × Option Nat :=
  if syn = 0 then (.clean, none)
  else if syn = unwritten then (.unwritten, none)
  else if syn = poison then (.poisoned, none)
  else
    match dataCols.idxOf? syn with
    | some i => (.corrected, some i)
    | none =>
      match (List.range checks).find? fun i => syn == 2 ^ i with
      | some i => (.corrected, some (dataCols.length + i))
      | none => (.uncorrectable, none)

/-- Table 16.2 for the 72-bit words. -/
def classify64 (syn : Nat) : WordClass × Option Nat := classify syn 0xFF 0x0F 8 dataCols64

/-- Table 16.2 for a T0 byte. -/
def classify0 (syn : Nat) : WordClass × Option Nat := classify syn 0x1E 0x03 5 dataCols0

/-- A word's place: die, tier, macro, row and word within the row (Table 16.1), and its counting group. -/
structure WordLoc where
  key : Nat
  die : Nat
  tier : Nat
  mac : Nat
  row : Nat
  word : Nat
  group : Nat
  /-- The physical word number, for the address hash. -/
  phys : Nat
deriving DecidableEq, Repr, Inhabited

/-- Word k of T1 frame f. -/
def locT1 (f k : Nat) : WordLoc :=
  let m := 1152 + f % 3072
  { key := 2 ^ 28 * (f / 3072) + 2 ^ 14 * m + k, die := f / 3072, tier := 1, mac := m, row := k / 16, word := k % 16,
    group := 24 + f % 3072 % 64, phys := m * 8192 + k }

/-- The physical word, within its vault die, of word k of T2 handle h stored in a channel group: block i lies on channel
(i XOR h) of the group, with h the handle's hash (R187), 64 macros a channel (Table 16.1). -/
def vaultPlace (group h k : Nat) : Nat :=
  2 ^ 19 * (16 * (group % 16) + (k / 512 ^^^ Config.handleHash h) % 16) + Config.vaultWord h k % 2 ^ 19

/-- Word k of T2 handle h, in the group where its page is stored, or else where a page first would be (R187). Its key is
logical; its place is where the vault stores it. -/
def locT2 (s : State) (h k : Nat) : WordLoc :=
  let n := vaultPlace (((alookup s.tiers.handles h).map (·.group)).getD (Config.handleGroup h 0)) h k
  { key := 2 ^ 28 * (4 + h / 32768) + 2 ^ 13 * (h % 32768) + k, die := 4 + h / 32768, tier := 2, mac := n / 8192,
    row := n % 8192 / 16, word := n % 16, group := n / 8192 / 64 / 16, phys := n }

/-- Word k of T0 unit u of core c. -/
def locT0 (c u k : Nat) : WordLoc :=
  let m := c % 24 * 48 + u
  { key := 2 ^ 28 * (c / 24) + 2 ^ 14 * m + k, die := c / 24, tier := 0, mac := m, row := k / 32, word := k % 32,
    group := c % 24, phys := m * 16384 + k }

/-- Change the ECC block, and one die of it. -/
def State.modEcc (s : State) (f : Ecc → Ecc) : State := { s with ecc := f s.ecc }
def State.modDie (s : State) (d : Nat) (f : EccDie → EccDie) : State :=
  s.modEcc fun e => { e with dies := tmod e.dies d f }

/-- The body of an ECC event (R343). -/
def eccBody (loc : WordLoc) (entry kind reason group : Nat) : List Byte :=
  leBytes 1 loc.die ++ leBytes 1 entry ++ leBytes 1 kind ++ leBytes 1 loc.tier ++ leBytes 2 loc.mac
    ++ leBytes 2 loc.row ++ leBytes 1 loc.word ++ leBytes 1 reason ++ leBytes 1 group

/-- A CORRECTED read is counted in its group, with its event at the threshold (R340). -/
def countCorrected (s : State) (loc : WordLoc) : State :=
  let c := tget (tget s.ecc.dies loc.die).ce loc.group
  let n := satInc 16 c.1
  let cross := decide (s.ecc.threshold ≤ n) && !c.2
  let s1 := s.modDie loc.die fun d => { d with ce := tset d.ce loc.group (n, c.2 || cross) }
  if cross then postSteward s1 0x0015 0 (eccBody loc 0xFF 1 1 loc.group) else s1

/-- The entry of a die's log that a new detection takes (R342): the lowest invalid one, else the CORRECTED one with
the oldest time. -/
def logSlot (d : EccDie) : Option Nat :=
  match (List.range 16).find? fun i => (tget d.log i).isNone with
  | some i => some i
  | none =>
    ((List.range 16).foldl (fun best i =>
      match tget d.log i with
      | some e =>
        if e.kind = 1 then
          match best with
          | some (b, t) => if e.timerUs < t then some (i, e.timerUs) else some (b, t)
          | none => some (i, e.timerUs)
        else best
      | none => best) (none : Option (Nat × Nat))).map (·.1)

/-- The event of an entry made or raised (R343), and alert cause 7 when it is uncorrectable (R412). -/
def eccEvent (s : State) (loc : WordLoc) (entry kind : Nat) : State :=
  let s1 := postSteward s 0x0015 0 (eccBody loc entry kind 0 loc.group)
  if 2 ≤ kind then alertLatch s1 7 else s1

/-- Log a detection (R342, R343): the state and the entry, when one was made or raised. -/
def logDetection (s : State) (loc : WordLoc) (kind source syndrome bit owner : Nat) : State × Option Nat :=
  let d := tget s.ecc.dies loc.die
  let same (e : Option EccLog) : Bool := match e with
    | some e => e.mac == loc.mac && e.row == loc.row && e.word == loc.word
    | none => false
  match (List.range 16).find? fun i => same (tget d.log i) with
  | some i =>
    let e := (tget d.log i).getD {}
    let worse := decide (e.kind = 1) && decide (1 < kind)
    let e1 := { e with count := satInc 32 e.count }
    let e2 := if worse then { e1 with kind := kind, syndrome := syndrome, bit := bit } else e1
    let s1 := s.modDie loc.die fun d => { d with log := tset d.log i (some e2) }
    (if worse then eccEvent s1 loc i kind else s1, some i)
  | none =>
    match logSlot d with
    | none => (s.modDie loc.die fun d => { d with lost := satInc 16 d.lost }, none)
    | some i =>
      let e : EccLog :=
        { kind := kind, source := source, tier := loc.tier, mac := loc.mac, row := loc.row, word := loc.word,
          bit := bit, syndrome := syndrome, owner := owner, stamp := beatStamp s, timerUs := s.now / 1000 }
      let s1 := s.modDie loc.die fun d => { d with log := tset d.log i (some e) }
      (eccEvent s1 loc i kind, some i)

/-- The detail of an item that fails on a word (R339). -/
def eccDetail (loc : WordLoc) (entry : Option Nat) : Nat :=
  loc.die + 2 ^ 3 * loc.tier + (match entry with
    | some e => 2 ^ 8 * e + 2 ^ 12
    | none => 0)

/-- The mark of a word. -/
def markOf (s : State) (key : Nat) : Option (Nat × Nat) := alookup s.ecc.marks key

/-- A T1 or T2 word's bytes as a number, or none when it was never written. DESIGN CHOICE, log entry 58. -/
def wordBytes (s : State) (tier2 : Bool) (frame k : Nat) : Option Nat :=
  let bs := memRange (tierMem s tier2) (pageBase frame + 8 * k) 8
  if bs.any Option.isNone then none else some (leNat (bs.map fun b => b.getD 0))

/-- What the decoder makes of a T1 or T2 word (R333): class, syndrome, corrected stored bit, corrected data. -/
def decodeWord (s : State) (tier2 : Bool) (frame k : Nat) (flip : Nat × Nat) : WordClass × Nat × Nat × Nat :=
  let loc := if tier2 then locT2 s frame k else locT1 frame k
  let m := (markOf s loc.key).getD (0, 0)
  let dm := m.1 ^^^ flip.1
  let base := wordBytes s tier2 frame k
  let syn := m.2 ^^^ flip.2 ^^^ xorCols dm dataCols64 ^^^ (if base.isNone then 0xFF else 0)
  let c := classify64 syn
  let data := (base.getD 0) ^^^ dm
  match c.2 with
  | some i => (c.1, syn, i, if i < 64 then data ^^^ 2 ^ i else data)
  | none => (c.1, syn, 0xFF, data)

/-- The owner tag of a frame or handle (R193): 0xF when it is FREE. -/
def ownerTag (s : State) (tier2 : Bool) (frame : Nat) : Nat :=
  match alookup (if tier2 then s.tiers.handles else s.tiers.frames) frame with
  | some o => o.owner
  | none => 0xF

/-- A word of the vault block holds an UNCORRECTABLE stored word, so that the block cannot be decoded (R337). -/
def blockBad (s : State) (h blk : Nat) : Bool :=
  s.ecc.marks.any fun m =>
    decide ((locT2 s h (512 * blk)).key ≤ m.1) && decide (m.1 < (locT2 s h (512 * blk)).key + 512)
      && decide ((decodeWord s true h (m.1 % 8192) (0, 0)).1 = .uncorrectable)

/-- How a read for an item ends: bytes, or a cause and detail. -/
abbrev ReadEnd (α : Type) := Except (Nat × Nat) α

/-- A memory action: the state after it and its answer, or the cause and detail that end the item. -/
abbrev Run (α : Type) := State × ReadEnd α

/-- Go on with the answer of an action. -/
def Run.andThen {α β : Type} (r : Run α) (k : α → State → Run β) : Run β :=
  match r with
  | (s, .ok a) => k a s
  | (s, .error e) => (s, .error e)

/-- Read one word for an item or an engine (R335, R338, R339): the state, and its data or the failure. -/
def readWord (s : State) (tier2 : Bool) (frame k source : Nat) : Run Nat :=
  let loc := if tier2 then locT2 s frame k else locT1 frame k
  let bad (s : State) (kind syn bit : Nat) : Run Nat :=
    let r := logDetection s loc kind source syn bit (ownerTag s tier2 frame)
    (r.1, .error (0x0409, eccDetail loc r.2))
  let r := decodeWord s tier2 frame k (0, 0)
  if tier2 && blockBad s frame (k / 512) then bad s 2 r.2.1 r.2.2.1
  else
    match r.1 with
    | .clean => (s, .ok r.2.2.2)
    | .corrected =>
      let s1 := (logDetection (countCorrected s loc) loc 1 source r.2.1 r.2.2.1 (ownerTag s tier2 frame)).1
      (s1.modEcc fun e => { e with writeBacks := if e.writeBacks.contains loc.key then e.writeBacks else e.writeBacks ++ [loc.key] },
        .ok r.2.2.2)
    | .unwritten => (s.modEcc fun e => { e with unwritten := satInc 32 e.unwritten }, .error (0x040A, 0))
    | .poisoned =>
      (s.modEcc fun e => { e with poisoned := satInc 32 e.poisoned }, .error (0x040B, eccDetail loc none))
    | .uncorrectable => bad s 2 r.2.1 r.2.2.1

/-- Read consecutive words of one frame or handle; the first failure ends the read. -/
def readWords (tier2 : Bool) (frame source : Nat) : List Nat → State → Run (List Byte)
  | [], s => (s, .ok [])
  | k :: ks, s =>
    match readWord s tier2 frame k source with
    | (s1, .error e) => (s1, .error e)
    | (s1, .ok v) =>
      match readWords tier2 frame source ks s1 with
      | (s2, .error e) => (s2, .error e)
      | (s2, .ok bs) => (s2, .ok (leBytes 8 v ++ bs))

/-- The channel group of a vault page does not answer: it is without power, disabled or faulted (R369, Table 17.9). -/
def groupSilent (s : State) (tier2 : Bool) (frame : Nat) : Bool :=
  tier2 && (match alookup s.tiers.handles frame with
    | some o =>
      let u := tget s.fences.groups (16 * handleDie frame + o.group % 16)
      !(u.powered && u.enabled) || u.faulted
    | none => false)

/-- The key and tweak page under which a handle's owner reads it (R208). -/
def ownKey (s : State) (o : Owned) : Option Nat × Nat := (tget s.tiers.keys o.owner, o.page)

/-- The bytes that a read of a page gives: the bytes stored where they are under the owner's key (R208). -/
def decrypted (s : State) (tier2 : Bool) (frame : Nat) (bs : List Byte) : List Byte :=
  match (if tier2 then alookup s.tiers.handles frame else none) with
  | some o => if o.key = tget s.tiers.keys o.owner then bs else Config.wrongKey (o.key, o.page) (ownKey s o) bs
  | none => bs

/-- Read bytes of one frame or handle for an owner's access (R193, R339); a vault read that is left unanswered is
UNCORRECTABLE (R369). -/
def readFrame (s : State) (tier2 : Bool) (frame off len owner source : Nat) : Run (List Byte) :=
  if ownerTag s tier2 frame ≠ owner then
    let loc := if tier2 then locT2 s frame (off / 8) else locT1 frame (off / 8)
    let r := logDetection s loc 3 source 0 0xFF (ownerTag s tier2 frame)
    (r.1, .error (0x0409, eccDetail loc r.2))
  else if groupSilent s tier2 frame then
    let r := logDetection s (locT2 s frame (off / 8)) 2 source 0 0xFF (ownerTag s tier2 frame)
    (r.1, .error (0x0409, eccDetail (locT2 s frame (off / 8)) r.2))
  else
    let k0 := off / 8
    match readWords tier2 frame source (rangeFrom k0 ((off + len + 7) / 8 - k0)) s with
    | (s1, .error e) => (s1, .error e)
    | (s1, .ok bs) => (s1, .ok (decrypted s1 tier2 frame (bytesAt bs (off % 8) len)))

/-- The words' check bits are written anew: their marks and write-backs end (R336, R338). -/
def clearMarks (s : State) (lo n : Nat) : State :=
  s.modEcc fun e =>
    { e with
      marks := e.marks.filter fun m => !(decide (lo ≤ m.1) && decide (m.1 < lo + n))
      writeBacks := e.writeBacks.filter fun k => !(decide (lo ≤ k) && decide (k < lo + n)) }

/-- Every word of a frame or handle leaves its marks, as when it is given the never-written pattern (R334). -/
def clearFrameMarks (s : State) (tier2 : Bool) (frame : Nat) : State :=
  clearMarks s (if tier2 then locT2 s frame 0 else locT1 frame 0).key 8192

/-- The stored size of one block of a handle after a write (R202), or none when the die lacks the sectors. -/
def resizeBlock (s : State) (h blk : Nat) : Option State :=
  match alookup s.tiers.handles h with
  | none => some s
  | some o =>
    let old := (o.sectors[blk]?).getD 0
    let new := blockSectorCount (memRange s.tiers.t2 (pageBase h + 4096 * blk) 4096)
    if new ≤ old + freeSectors s.tiers (handleDie h) then
      some (s.setHandle h (some { o with sectors := o.sectors.set blk new }))
    else none

/-- Write whole granules of one block of a vault page (R202, R337), or the cause of its failure. -/
def writeBlock (s : State) (n h off : Nat) (bs : List Byte) : Run Unit :=
  let blk := off / 4096
  let whole := decide (off % 4096 = 0) && decide (bs.length = 4096)
  if blockBad s h blk && !whole then
    let loc := locT2 s h (off / 8)
    let r := logDetection s loc 2 0 (decodeWord s true h (off / 8) (0, 0)).2.1 0xFF (ownerTag s true h)
    (r.1, .error (0x0409, eccDetail loc r.2))
  else
    let s1 := clearMarks (s.setMem true (memPutAll s.tiers.t2 (pageBase h + off) bs)) (locT2 s h (off / 8)).key (bs.length / 8)
    match resizeBlock s1 h blk with
    | some s2 => (s2, .ok ())
    | none =>
      let die := handleDie h
      let old := ((alookup s.tiers.handles h).map fun o => (o.sectors[blk]?).getD 0).getD 0
      let new := blockSectorCount (memRange s1.tiers.t2 (pageBase h + 4096 * blk) 4096)
      let wanted := new - old - freeSectors s.tiers die
      (if wanted ≤ foreignSectors s.tiers die then clearNeeded s true n wanted else s, .error (0x040C, 0))

/-- Write whole granules of one frame or handle. -/
def writeFrame (s : State) (n : Nat) (tier2 : Bool) (frame off : Nat) (bs : List Byte) (owner : Nat) : Run Unit :=
  if ownerTag s tier2 frame ≠ owner then
    let loc := if tier2 then locT2 s frame (off / 8) else locT1 frame (off / 8)
    let r := logDetection s loc 3 0 0 0xFF (ownerTag s tier2 frame)
    (r.1, .error (0x0409, eccDetail loc r.2))
  else if tier2 then writeBlock s n frame off bs
  else
    (clearMarks (s.setMem false (memPutAll s.tiers.t1 (pageBase frame + off) bs)) (locT1 frame (off / 8)).key (bs.length / 8),
      .ok ())

/-- A piece of an access: its address and length, and whether it is the first of its access in its page. -/
structure Piece where
  va : Nat
  len : Nat
  first : Bool
deriving DecidableEq, Repr, Inhabited

/-- [va, va + len) as accesses of up to 4 KiB counted from `start`, in pieces that cross no 4 KiB boundary; each access
touches a page once (R194). -/
def pieces (start : Nat) : Nat → Nat → Nat → List Piece
  | 0, _, _ => []
  | fuel + 1, va, len =>
    if len = 0 then [] else
      let n := min len (min (4096 - va % 4096) (4096 - (va - start) % 4096))
      ⟨va, n, decide ((va - start) % 4096 = 0) || decide (va % 65536 = 0)⟩ :: pieces start fuel (va + n) (len - n)

/-- The owner tag against which an access of claim n is compared (R193). -/
def accessOwner (n : Nat) (p : Place2) : Nat :=
  match p.page with
  | some (t, _) => t
  | none => n

/-- The heat of an access's page rises (R194). -/
def touchPlace (s : State) (n : Nat) (p : Place2) (heat : Bool) : State :=
  match p.page, heat with
  | some (t, page), true => touchPage s n t page
  | _, _ => s

/-- Read claim n's bytes piece by piece; each access raises heat, and the first failure ends the read. -/
def readPieces (n : Nat) (heat : Bool) : List Piece → State → Run (List Byte)
  | [], s => (s, .ok [])
  | x :: ps, s =>
    match translate s n x.va false with
    | .error e => (s, .error e)
    | .ok p =>
      match readFrame s p.tier2 p.frame p.off x.len (accessOwner n p) 0 with
      | (s1, .error e) => (s1, .error e)
      | (s1, .ok bs) =>
        match readPieces n heat ps (touchPlace s1 n p (heat && x.first)) with
        | (s2, .error e) => (s2, .error e)
        | (s2, .ok more) => (s2, .ok (bs ++ more))

/-- Read claim n's memory (R188, R189, R335, R339). -/
def readClaim (s : State) (n va len : Nat) (heat : Bool := true) : Run (List Byte) :=
  readPieces n heat (pieces va (2 * (len / 4096) + 4) va len) s

/-- The marks of one frame's or handle's words, as (word, masks). -/
def frameMarks (s : State) (tier2 : Bool) (frame : Nat) : List (Nat × Nat × Nat) :=
  let k0 := (if tier2 then locT2 s frame 0 else locT1 frame 0).key
  (s.ecc.marks.filter fun m => decide (k0 ≤ m.1) && decide (m.1 < k0 + 8192)).map fun m => (m.1 - k0, m.2)

/-- Put a word in class POISONED (R334). -/
def poisonWord (s : State) (tier2 : Bool) (frame k : Nat) : State :=
  let key := (if tier2 then locT2 s frame k else locT1 frame k).key
  let syn := if (wordBytes s tier2 frame k).isNone then 0x0F ^^^ 0xFF else 0x0F
  s.modEcc fun e => { e with marks := ainsert e.marks key (0, syn) }

/-- The words that a move leaves POISONED in its target (R337): whole granules with a bad word, and on a promotion
every word of a block that cannot be decoded. -/
def lostWords (s : State) (tier2 : Bool) (frame : Nat) : List Nat :=
  let bad := (frameMarks s tier2 frame).filterMap fun m =>
    match (decodeWord s tier2 frame m.1 (0, 0)).1 with
    | .poisoned => some (m.1 / 4 * 4, 4)
    | .uncorrectable => some (if tier2 then (m.1 / 512 * 512, 512) else (m.1 / 4 * 4, 4))
    | _ => none
  (bad.flatMap fun r => rangeFrom r.1 r.2).eraseDups

/-- The mover's own reads of a page: corrections are counted and logged, and a loss is logged once (R337, R338). -/
def moverReads (s : State) (tier2 : Bool) (frame : Nat) : State :=
  let own := ownerTag s tier2 frame
  let loc (k : Nat) : WordLoc := if tier2 then locT2 s frame k else locT1 frame k
  let s1 := (frameMarks s tier2 frame).foldl (fun s m =>
    let r := decodeWord s tier2 frame m.1 (0, 0)
    if r.1 = .corrected then (logDetection (countCorrected s (loc m.1)) (loc m.1) 1 2 r.2.1 r.2.2.1 own).1 else s) s
  match (frameMarks s tier2 frame).find? fun m => (decodeWord s tier2 frame m.1 (0, 0)).1 == .uncorrectable with
  | some m => (logDetection s1 (loc m.1) 2 2 (decodeWord s tier2 frame m.1 (0, 0)).2.1 0xFF own).1
  | none => s1

/-- A move commits and carries its page's losses (R197, R337). -/
def commitCarry (s : State) (t page : Nat) : State :=
  match moveOf s t page, pteOf s t page with
  | some m, some p =>
    let src2 := m.promote
    let lost := lostWords s src2 p.frame
    let s1 := commitMove (moverReads s src2 p.frame) t page
    let s2 := clearFrameMarks (clearFrameMarks s1 src2 p.frame) (!src2) m.target
    lost.foldl (fun s k => poisonWord s (!src2) m.target k) s2
  | _, _ => s

/-- A write to a page whose move has not committed comes after the commit (R197): a move that was in progress before the
command makes the command wait (`afterMoves`), and one that the command's own accesses started commits first. DEDUCED, log
entry 56. -/
def settleMove (s : State) (p : Place2) : State :=
  match p.page with
  | some (t, page) => if (moveOf s t page).isSome then commitCarry s t page else s
  | none => s

/-- A write of claim n to a 64 KiB page drops the program bytes of that page from its cores' caches (R145). -/
def dropCached (s : State) (n page : Nat) : State :=
  let hit (e : CacheEntry) : Bool := e.claim == n && decide (e.va / 65536 ≤ page) && decide (page ≤ (e.va + e.bytes.length - 1) / 65536)
  if s.dl.cores.any fun c => c.cache.any hit then
    s.modDl fun d => { d with cores := d.cores.map fun c => { c with cache := c.cache.filter fun e => !hit e } }
  else s

/-- Write claim n's bytes piece by piece; pieces before a failure stand (R189). -/
def writePieces (n : Nat) (heat : Bool) : List Piece → List Byte → State → Run Unit
  | [], _, s => (s, .ok ())
  | x :: ps, bs, s =>
    match translate s n x.va true with
    | .error e => (s, .error e)
    | .ok p0 =>
      let s0 := settleMove s p0
      match translate s0 n x.va true with
      | .error e => (s0, .error e)
      | .ok p =>
        match writeFrame s0 n p.tier2 p.frame p.off (bs.take x.len) (accessOwner n p) with
        | (s1, .error e) => (s1, .error e)
        | (s1, .ok _) => writePieces n heat ps (bs.drop x.len) (touchPlace (dropCached s1 n (x.va / 65536)) n p (heat && x.first))

/-- A move that was in progress has committed. -/
def moveCommitted (t : State) (m : Move) : Bool :=
  (moveOf t m.table m.page).isNone && (pteOf t m.table m.page).any fun p => p.tier2 != m.promote && p.frame == m.target

/-- A command whose writes meet a page whose move is in progress waits until the move commits: it has no effect before
(R197). DEDUCED, log entry 56. -/
def afterMoves (k : State → State) (s : State) : State :=
  let t := k s
  if s.tiers.moves.any (moveCommitted t) then s else t

/-- Write claim n's memory (R188, R189, R336). -/
def writeClaim (s : State) (n va : Nat) (bs : List Byte) (heat : Bool := true) : Run Unit :=
  writePieces n heat (pieces va (2 * (bs.length / 4096) + 4) va bs.length) bs s

end Sys2Proof.Machine
end

