-- ==== Sys2Proof/Machine/EccOps2.lean ====
section
/-! DEFINITION. Moves that carry loss (R337), write-backs (R338), patches (R345), checker tests (R347) and scrubbing
(R348). -/

namespace Sys2Proof.Machine

/-- Store a corrected word again: its bytes and fresh check bits (R338). -/
def rewriteWord (s : State) (tier2 : Bool) (frame k : Nat) : State :=
  let r := decodeWord s tier2 frame k (0, 0)
  let loc := if tier2 then locT2 s frame k else locT1 frame k
  clearMarks (s.setMem tier2 (memPutAll (tierMem s tier2) (pageBase frame + 8 * k) (leBytes 8 r.2.2.2))) loc.key 1

/-- The frame or handle and word of a T1 or T2 key: tier 2 or not, frame and word. -/
def keyPlace (key : Nat) : Bool × Nat × Nat :=
  let die := key / 2 ^ 28
  if 4 ≤ die then (true, 32768 * (die - 4) + key % 2 ^ 28 / 2 ^ 13, key % 2 ^ 13)
  else (false, 3072 * die + (key % 2 ^ 28 / 2 ^ 14 - 1152), key % 2 ^ 14)

/-- The key of a T0 word names a T0 macro (Table 16.1). -/
def keyT0 (key : Nat) : Bool := decide (key / 2 ^ 28 < 4) && decide (key % 2 ^ 28 / 2 ^ 14 < 1152)

/-- Core, unit and word of a T0 key. -/
def keyPlace0 (key : Nat) : Nat × Nat × Nat :=
  let m := key % 2 ^ 28 / 2 ^ 14
  (key / 2 ^ 28 * 24 + m / 48, m % 48, key % 2 ^ 14)

/-- The oldest corrected word is written back, unless a write came first (R338). -/
def writeBack (s : State) : State :=
  match s.ecc.writeBacks with
  | [] => s
  | key :: rest =>
    let s1 := s.modEcc fun e => { e with writeBacks := rest }
    if (markOf s1 key).isNone then s1
    else if keyT0 key then s1.modEcc fun e => { e with marks := aerase e.marks key }
    else
      let p := keyPlace key
      if (decodeWord s1 p.1 p.2.1 p.2.2 (0, 0)).1 = .corrected then rewriteWord s1 p.1 p.2.1 p.2.2 else s1

/-- The classes in the order in which the worst byte of a T0 word names the word's. -/
def classRank : WordClass → Nat
  | .clean => 0
  | .corrected => 1
  | .unwritten => 2
  | .poisoned => 3
  | .uncorrectable => 4

/-- A T0 unit, and whether its word k has never been written. -/
def t0Unit (s : State) (c u : Nat) : T0Unit := tget (tget s.dl.cores c).units u

/-- What the decoder makes of a T0 word (R331, R333): class, syndrome, stored bit and data of its worst byte and word. -/
def decodeT0 (s : State) (c u k : Nat) (flip : Nat × Nat) : WordClass × Nat × Nat × Nat :=
  let loc := locT0 c u k
  let m := (markOf s loc.key).getD (0, 0)
  let data := (alookup s.ecc.t0Data loc.key).getD 0
  let un := (t0Unit s c u).unwritten && (alookup s.ecc.t0Data loc.key).isNone
  let one (b : Nat) : WordClass × Nat × Nat × Nat :=
    let dm := bits (m.1 ^^^ flip.1) (8 * b) 8
    let syn := bits (m.2 ^^^ flip.2) (5 * b) 5 ^^^ xorCols dm dataCols0 ^^^ (if un then 0x1E else 0)
    let r := classify0 syn
    let d := bits data (8 * b) 8 ^^^ dm
    match r.2 with
    | some i => (r.1, syn, 13 * b + i, if i < 8 then d ^^^ 2 ^ i else d)
    | none => (r.1, syn, 0xFF, d)
  let bytes := (List.range 4).map one
  let worst := bytes.foldl (fun w b => if classRank w.1 < classRank b.1 then b else w) (one 0)
  (worst.1, worst.2.1, worst.2.2.1, leNat (bytes.map fun b => BitVec.ofNat 8 b.2.2.2))

/-- The word that a test or the scrubber reads, with the armed flip applied once (R347). -/
def testDecode (s : State) (key : Nat) : State × WordClass × Nat × Nat × Nat × WordLoc :=
  let hit : Bool := match s.ecc.armed with
    | some a => a.1 == key
    | none => false
  let flip := if hit then (match s.ecc.armed with
    | some a => a.2
    | none => (0, 0)) else (0, 0)
  let s1 := if hit then s.modEcc fun e => { e with armed := none } else s
  if keyT0 key then
    let p := keyPlace0 key
    (s1, (fun r => (r.1, r.2.1, r.2.2.1, r.2.2.2, locT0 p.1 p.2.1 p.2.2)) (decodeT0 s p.1 p.2.1 p.2.2 flip))
  else
    let p := keyPlace key
    (s1, (fun r => (r.1, r.2.1, r.2.2.1, r.2.2.2, if p.1 then locT2 s p.2.1 p.2.2 else locT1 p.2.1 p.2.2))
      (decodeWord s p.1 p.2.1 p.2.2 flip))

/-- ECC_TEST_TARGET's word: its key, whether it may be tested, and its unit (Table 16.6, R347). A frame that a test
has touched, with tag 0xE, may be tested again. -/
def testTarget (s : State) : Nat × Bool :=
  let v := s.ecc.target
  let loc := bits v 5 17
  let w := bits v 22 14
  match bits v 0 2 with
  | 0 => ((locT0 (loc / 48) (loc % 48) w).key,
      decide (loc < 4608) && decide (loc / 1152 = bits v 2 3) && decide (w < 16384)
        && decide ((t0Unit s (loc / 48) (loc % 48)).use_ = .free))
  | 1 => ((locT1 loc w).key,
      decide (loc < 12288) && decide (loc / 3072 = bits v 2 3) && decide (w < 8192)
        && (match alookup s.tiers.frames loc with
            | some o => o.owner == 0xE
            | none => true))
  | 2 => ((locT2 s loc w).key,
      decide (loc < 65536) && decide (4 + loc / 32768 = bits v 2 3) && decide (w < 8192)
        && (match alookup s.tiers.handles loc with
            | some o => o.owner == 0xE
            | none => true))
  | _ => (0, false)

/-- A frame, handle or T0 unit that a test write touches (R347). -/
def testTouch (s : State) (key : Nat) : State :=
  if keyT0 key then
    let p := keyPlace0 key
    s.modDl fun d => { d with cores := tmod d.cores p.1 fun c => { c with units := tmod c.units p.2.1 fun u => { u with tested := true } } }
  else
    let p := keyPlace key
    if p.1 then
      let group := ((alookup s.tiers.handles p.2.1).map (·.group)).getD (Config.handleGroup p.2.1 0)
      s.setHandle p.2.1 (some { owner := 0xE, isForeign := true, sectors := List.replicate 16 1, group := group })
    else s.setFrame p.2.1 (some { owner := 0xE, isForeign := true })

/-- A test write stores the data, and the check bits that differ from the computed ones by `diff` (R347). -/
def testStore (s : State) (key diff : Nat) : State :=
  let s1 := testTouch s key
  let s2 :=
    if keyT0 key then s1.modEcc fun e => { e with t0Data := ainsert e.t0Data key (e.data % 2 ^ 32) }
    else
      let p := keyPlace key
      s1.setMem p.1 (memPutAll (tierMem s1 p.1) (pageBase p.2.1 + 8 * p.2.2) (leBytes 8 s.ecc.data))
  let s3 := clearMarks s2 key 1
  if diff = 0 then s3 else s3.modEcc fun e => { e with marks := ainsert e.marks key (0, diff) }

/-- The computed check bits of ECC_TEST_DATA at the target (R331, R332). -/
def testCode (s : State) (key : Nat) : Nat :=
  if keyT0 key then
    let p := keyPlace0 key
    (List.range 4).foldl (fun a b => a + 2 ^ (5 * b) * code0 (bits s.ecc.data (8 * b) 8) (65536 * p.2.1 + 4 * p.2.2 + b)) 0
  else
    let p := keyPlace key
    code64 s.ecc.data (if p.1 then locT2 s p.2.1 p.2.2 else locT1 p.2.1 p.2.2).phys

/-- A test op is refused with class 5 (R347). DEDUCED, log entry 59. -/
def testRefused (s : State) : State := s.modEcc fun e => { e with resDone := true, resClass := 5 }

/-- A test op that runs: the target is FREE, unallocated or tested, and the package is not REDEALING (R347). -/
def testRun (s : State) (op : State → Nat → State) : State :=
  let t := testTarget s
  if !t.2 || s.redealing then testRefused s
  else (op s t.1).modEcc fun e => { e with resDone := true }

/-- Op 1, WRITE_NORMAL. -/
def testWriteNormal (s : State) : State :=
  testRun s fun s key => (testStore s key 0).modEcc fun e => { e with resClass := 0 }

/-- Op 2, WRITE_SPLIT. -/
def testWriteSplit (s : State) : State :=
  testRun s fun s key =>
    let given := if keyT0 key then s.ecc.check % 2 ^ 20 else s.ecc.check % 2 ^ 8
    (testStore s key (given ^^^ testCode s key)).modEcc fun e => { e with resClass := 0 }

/-- The tag a test read logs: 0xE when the word's frame or unit was touched by a test, else 0xF (Table 16.4). -/
def testTag (s : State) (key : Nat) : Nat :=
  if keyT0 key then
    let p := keyPlace0 key
    if (t0Unit s p.1 p.2.1).tested then 0xE else 0xF
  else ownerTag s (keyPlace key).1 (keyPlace key).2.1

/-- Count and log what a test read or the scrubber finds; CORRECTED words are to be written back (R338, R342). -/
def noteWord (s : State) (loc : WordLoc) (cls : WordClass) (syn bit_ tag source : Nat) : State :=
  match cls with
  | .corrected =>
    let s1 := (logDetection (countCorrected s loc) loc 1 source syn bit_ tag).1
    s1.modEcc fun e => { e with writeBacks := if e.writeBacks.contains loc.key then e.writeBacks else e.writeBacks ++ [loc.key] }
  | .uncorrectable => (logDetection s loc 2 source syn bit_ tag).1
  | _ => s

/-- Op 3, READ. -/
def testRead (s : State) : State :=
  testRun s fun s key =>
    let tag := testTag s key
    let (s1, cls, syn, bit_, data, loc) := testDecode s key
    let s2 := s1.modEcc fun e => { e with resClass := cls.code, resSyndrome := syn, resBit := bit_, resData := data }
    let s3 := noteWord s2 loc cls syn bit_ tag 4
    match cls with
    | .unwritten => s3.modEcc fun e => { e with unwritten := satInc 32 e.unwritten }
    | .poisoned =>
      (logDetection (s3.modEcc fun e => { e with poisoned := satInc 32 e.poisoned }) loc 2 4 syn bit_ tag).1
    | _ => s3

/-- Op 4, ARM_FLIP. -/
def testArm (s : State) : State :=
  testRun s fun s key => s.modEcc fun e => { e with armed := some (key, e.flipData, e.flipCheck), resClass := 0 }

/-- The KiB of its die's scrub order at which a word lies, for its tier (R348). -/
def scrubPos (key : Nat) : Nat :=
  if keyT0 key then key % 2 ^ 28 / 2 ^ 14 * 64 + key % 2 ^ 14 / 256
  else
    let p := keyPlace key
    if p.1 then Config.vaultKib p.2.1 p.2.2 % 1048576 else p.2.1 % 3072 * 64 + p.2.2 / 128

/-- A die's scrub space in KiB by tier. -/
def scrubSpace (tier : Nat) : Nat := if tier = 0 then 73728 else if tier = 1 then 196608 else 1048576

/-- Cores leave P1 (R391). -/
def wakeCores (s : State) (cs : List Nat) : State :=
  s.modDl fun d => { d with cores := cs.foldl (fun v c => tmod v c fun x =>
    if x.gated then { x with gated := false, clockMhz := tget s.power.clocks (c / 24) } else x) d.cores }

/-- The cores of a face die whose units lie in `len` KiB of its T0 space from a cursor: 3,072 KiB each. -/
def scrubCores (die cur len : Nat) : List Nat := ((List.range (len / 3072 + 2)).map fun i => 24 * die + (cur / 3072 + i) % 24).filter fun c =>
  decide ((c % 24 * 3072 + 73728 - cur) % 73728 < len) || decide ((cur + 73728 - c % 24 * 3072) % 73728 < 3072)

/-- The scrubber reads `len` KiB of one die's tier from a cursor (R348). Only words with marks, or the armed one, can
be other than CLEAN or UNWRITTEN. -/
def scrubDie (s : State) (die tier len : Nat) : State :=
  let d := tget s.ecc.dies die
  let space := scrubSpace tier
  let cur := if tier = 0 then d.t0Cursor else d.cursor
  let keys := (s.ecc.marks.map (·.1) ++ (match s.ecc.armed with
    | some a => [a.1]
    | none => [])).eraseDups
  let mine := keys.filter fun k =>
    decide (k / 2 ^ 28 = die) && (keyT0 k == decide (tier = 0)) && decide ((scrubPos k + space - cur % space) % space < len)
  let s0 := if tier = 0 then wakeCores s (scrubCores die cur len) else s
  let s1 := mine.foldl (fun s k =>
    let tag := testTag s k
    let (s1, cls, syn, bit_, _, loc) := testDecode s k
    noteWord s1 loc cls syn bit_ tag 1) s0
  s1.modDie die fun d =>
    let wraps := (cur + len) / space
    if tier = 0 then { d with t0Cursor := (cur + len) % space, t0Passes := (d.t0Passes + wraps) % 2 ^ 32 }
    else { d with cursor := (cur + len) % space, passes := (d.passes + wraps) % 2 ^ 32 }

/-- SCRUB_SLICE: each die of each chosen tier reads its next `len` KiB (R348). DESIGN CHOICE, log entry 61. -/
def scrubSlice (s : State) (t0 t1 t2 : Bool) (len : Nat) : State :=
  let s0 := if t0 then (List.range 4).foldl (fun s d => scrubDie s d 0 len) s else s
  let s1 := if t1 then (List.range 4).foldl (fun s d => scrubDie s d 1 len) s0 else s0
  if t2 then [4, 5].foldl (fun s d => scrubDie s d 2 len) s1 else s1

/-- The macros of a die and the words of a row (Table 16.1, R330). -/
def dieMacros (d : Nat) : Nat := if d < 4 then 4224 else if d < 6 then 16384 else 1024
def rowWords (d mac : Nat) : Nat := if d < 4 ∧ mac < 1152 then 32 else 16

/-- The patch entry that serves a place. -/
def patchAt (s : State) (d mac row word : Nat) : Option Nat :=
  (List.range 32).find? fun i => match tget (tget s.ecc.dies d).patches i with
    | some p => p.mac == mac && p.row == row && p.word == word
    | none => false

/-- A patch command's answer (Table 16.6). DEDUCED, log entry 60. -/
def patchAnswer (s : State) (entry : Nat) (reason : Nat) : State :=
  s.modEcc fun e => { e with patchDone := true, patchRefused := decide (reason ≠ 0), patchEntry := entry, patchReason := reason }

/-- The keys of the marked words that lie at a place. -/
def keysAt (s : State) (d mac row word : Nat) : List Nat :=
  (s.ecc.marks.map (·.1)).filter fun k =>
    decide (k / 2 ^ 28 = d) && (fun (l : WordLoc) => l.mac == mac && l.row == row && l.word == word)
      (testDecode s k).2.2.2.2.2

/-- A word at a place whose single wrong bit is corrected as it goes into its patch entry (R345). -/
def patchFix (s : State) (key : Nat) : State :=
  if keyT0 key then
    let p := keyPlace0 key
    if (decodeT0 s p.1 p.2.1 p.2.2 (0, 0)).1 = .corrected then s.modEcc fun e => { e with marks := aerase e.marks key } else s
  else
    let p := keyPlace key
    if (decodeWord s p.1 p.2.1 p.2.2 (0, 0)).1 = .corrected then rewriteWord s p.1 p.2.1 p.2.2 else s

/-- Install a patch; the first row of R345's reasons that holds refuses it. -/
def patchInstall (s : State) (d mac row word : Nat) : State :=
  let free := (List.range 32).find? fun i => (tget (tget s.ecc.dies d).patches i).isNone
  let inRange := decide (d < 7) && decide (mac < dieMacros d) && decide (row < 512) && decide (word < rowWords d mac)
  match free with
  | none => patchAnswer s 0 (if d < 7 then 1 else 4)
  | some i =>
    if (patchAt s d mac row word).isSome then patchAnswer s 0 2
    else if !inRange then patchAnswer s 0 4
    else if s.redealing then patchAnswer s 0 5
    else
      let s1 := (keysAt s d mac row word).foldl patchFix s
      let s2 := s1.modDie d fun x =>
        { x with
          patches := tset x.patches i (some { runtime := true, mac := mac, row := row, word := word })
          log := x.log.map fun e => match e with
            | some e => if e.mac = mac ∧ e.row = row ∧ e.word = word then some { e with patched := true } else some e
            | none => none }
      patchAnswer s2 i 0

/-- Remove a patch: the entry's word goes back to its location (R345). -/
def patchRemove (s : State) (d mac row word : Nat) : State :=
  match patchAt s d mac row word with
  | none => patchAnswer s 0 3
  | some i =>
    if s.redealing then patchAnswer s 0 5
    else patchAnswer (s.modDie d fun x => { x with patches := tset x.patches i none }) i 0

/-- CLEAR's next unit, its marks rewritten too (R207, R334). -/
def clearUnitsEcc (tier2 : Bool) : Nat → State → Nat → State × Nat
  | 0, s, k => (s, k)
  | fuel + 1, s, k =>
    match nextForeign s tier2 with
    | none => (s, k)
    | some f => clearUnitsEcc tier2 fuel (clearOne (clearFrameMarks s tier2 f) tier2 f) (k + 1)

/-- The pages of a PAGE command's range. -/
def pageSpan (b : List Byte) : List Nat := rangeFrom (field b 8 5 / 65536) (field b 0xE 2)

/-- A page of a list is moving. -/
def anyMoving (s : State) (t : Nat) (pages : List Nat) : Bool := pages.any fun p => (moveOf s t p).isSome

/-- Pages of a list that are not in a tier. -/
def notInTier (s : State) (t : Nat) (tier2 : Bool) (pages : List Nat) : Nat :=
  (pages.filter fun p => match pteOf s t p with
    | some e => e.tier2 != tier2
    | none => true).length

/-- The pages of DEMOTE's range whose promotion is in progress, as a mask by index: each is considered afresh when its
move commits (R198). -/
def lateMask (s : State) (t : Nat) (pages : List Nat) : Nat :=
  total ((pages.zipIdx.filter fun p => (moveOf s t p.1).any (·.promote)).map fun p => 2 ^ p.2)

/-- DEMOTE starts the demotions of the pages of its mask whose promotion has committed; the mask that is left. -/
def demoteLate (s : State) (shoe : Nat) (pages : List Nat) (mask : Nat) : State × Nat :=
  pages.zipIdx.foldl (fun (acc : State × Nat) p =>
    if mask.testBit p.2 && (moveOf acc.1 shoe p.1).isNone then ((demoteOwn acc.1 shoe p.1 none).1, acc.2 - 2 ^ p.2) else acc) (s, mask)

/-- The pages of a list that move in a direction, as a mask by index. -/
def movingMask (s : State) (t : Nat) (promote : Bool) (pages : List Nat) : Nat :=
  total ((pages.zipIdx.filter fun p => (moveOf s t p.1).any (·.promote == promote)).map fun p => 2 ^ p.2)

/-- The part of a mask whose pages still move in a direction. -/
def stillMoving (s : State) (t : Nat) (promote : Bool) (pages : List Nat) (mask : Nat) : Nat := mask &&& movingMask s t promote pages

/-- A PAGE command ends once every move that it started has committed, and UNMAP once none of its pages moves: UNMAP takes its
effect, and PROMOTE and DEMOTE report what they left (R198, R209, Table 10.5). `mask` names the pages whose demotion is still
to be considered, and `started` those whose move it started. -/
def settlePage (s : State) (shoe seq l g : Nat) (b : List Byte) (mask started : Nat) : State :=
  let pages := pageSpan b
  let op := field b 6 1
  let before := movingMask s shoe false pages
  let r := demoteLate s shoe pages mask
  let mine := stillMoving r.1 shoe (op == 2) pages (started ||| (if op = 3 then movingMask r.1 shoe false pages ^^^ before else 0))
  let s := if r.2 = mask ∧ mine = started then r.1 else setActive r.1 shoe seq l g (.pages r.2 mine)
  if (if op = 1 then anyMoving s shoe pages else r.2 ≠ 0 || mine ≠ 0) then s
  else if op = 1 then completeCmd (pages.foldl (fun s p => unmapOne s shoe p) s) shoe seq l g
  else
    let left := notInTier s shoe (op == 3) pages
    completeCmd (if left = 0 then s else noteItem s shoe seq 0x0022 left) shoe seq l g

/-- Addresses of COMMON pages begin here in the COMMON table (R188). -/
def commonSpan (b : List Byte) : List Nat := rangeFrom (field b 0x10 5 / 65536) (field b 0x18 4 / 65536)

/-- COMMON_LOAD's removal ends once no page of its range moves (R211). -/
def settleCommon (s : State) (seq l g : Nat) (b : List Byte) : State :=
  if anyMoving s 8 (commonSpan b) then s
  else completeCmd ((commonSpan b).foldl (fun s p => unmapOne s 8 p) s) 8 seq l g

/-- Every active command that waits for moves of a table's pages looks again (R209, R211). -/
def settlePages (s : State) : State :=
  s.dl.items.foldl (fun s i => i.levels.foldl (fun s lv => lv.active.foldl (fun s a =>
    match a.st with
    | .pages mask started =>
      let b := cmdAt lv.bytes a.granule
      if i.shoe < 8 then settlePage s i.shoe i.seq lv.id a.granule b mask started else settleCommon s i.seq lv.id a.granule b
    | _ => s) s) s) s

/-- PAGE_MOVE_COMMIT (R197, R209, R337): a copy commits, or a cancellation does (R198), and what waits for moves looks again. -/
def moveCommit (s : State) (t page : Nat) : State := settlePages (if (moveOf s t page).isSome then commitCarry s t page else s)

/-- ECC_STATUS.uncorrectable (Table 16.6). -/
def eccBad (s : State) : Nat :=
  (List.range 7).foldl (fun a d =>
    if (tget s.ecc.dies d).log.toList.any fun e => match e with
      | some e => decide (2 ≤ e.kind)
      | none => false
    then a + 2 ^ d else a) 0

end Sys2Proof.Machine
end

