-- ==== Sys2Proof/Machine/LinkOps.lean ====
section
/-! DEFINITION. The Swezo link layer: training, identity exchange, flits, credits, retry, lane changes and port failure
(R234 to R254). -/

namespace Sys2Proof.Machine

/-- The CRC-64 of R238, most significant bit first. -/
def crcBits : Nat → Nat → Nat
  | 0, c => c
  | n + 1, c =>
    crcBits n (if c.testBit 63 then (2 * c) % 2 ^ 64 ^^^ 0x42F0E1EBA9EA3693 else 2 * c)

/-- One byte into the CRC. -/
def crcByte (c : Nat) (b : Byte) : Nat := crcBits 8 (c ^^^ b.toNat * 2 ^ 56)

/-- CRC-64 over bytes in ascending order (R238). -/
def crc64 (bs : List Byte) : Nat := bs.foldl crcByte (2 ^ 64 - 1) ^^^ (2 ^ 64 - 1)

/-- The width rule (R235): how many of `usable` lanes carry flits. -/
def widthOf (usable limit : Nat) : Nat :=
  let m := min usable limit
  if 8 ≤ m then 8 else if 4 ≤ m then 4 else if 2 ≤ m then 2 else m

/-- A bitmap of lanes. -/
def laneMap (x : Port) (f : LinkLane → Bool) : Nat :=
  (List.range 8).foldl (fun a i => if f (tget x.lanes i) then a + 2 ^ i else a) 0

/-- Usable lanes: good at both ends (R235). -/
def LinkLane.usable (l : LinkLane) : Bool := l.good && l.peerGood

/-- The `w` lowest-numbered usable lanes. -/
def laneChoice (x : Port) (limit : Nat) : List Nat :=
  let us := (List.range 8).filter fun i => (tget x.lanes i).usable
  us.take (widthOf us.length limit)

/-- This package is in NEW_SEAT (R40). -/
def inNewSeat (s : State) : Bool := s.boot.newSeat

/-- The HELLO of a port (Table 12.8). -/
def helloBytes (s : State) (p : Nat) : List Byte :=
  let x := s.port p
  let g := s.image
  [0x01#8, 0x01#8] ++ leBytes 1 p ++ leBytes 1 x.dir ++ leBytes 1 x.reach ++ leBytes 1 (b2n g.slab)
    ++ seatBytes g.dims ++ seatBytes g.coord ++ leBytes 1 (b2n (inNewSeat s)) ++ List.replicate 3 0#8
    ++ bytesAt (identityDigest s) 0 48

/-- A management message waits on a port (R248). -/
def queueMgmt (s : State) (p : Nat) (payload : List Byte) : State :=
  s.modPort p fun x => { x with mgmt := x.mgmt ++ [payload] }

/-- A HELLO goes out on a port (R249, R251). -/
def sendHello (s : State) (p : Nat) : State :=
  (queueMgmt s p (helloBytes s p)).modPort p fun x => { x with helloSent := true }

/-- May a port train now: it is not dark and not held, and the package runs its SerDes (R234, R363, R392)? -/
def mayTrain (s : State) (p : Nat) : Bool :=
  let x := s.port p
  decide (x.dir ≠ 7) && !x.holdDown && !s.link.idle && decide (s.power.level = 0) && s.boot.released && decide (13 ≤ s.boot.step)

/-- A port trains through steps 1 to 6 of Table 12.2 and waits for the peer's HELLO, or finds no lane and stays
DOWN. -/
def trainPort (s : State) (p : Nat) (t : TrainResult) : State :=
  let s1 := setPort (s.emit (.training p)) p .training
  let lanes := Vector.ofFn fun i : Fin 8 =>
    ({ good := t.good.testBit i, peerGood := t.peerGood.testBit i } : LinkLane)
  let s2 := s1.modPort p fun x =>
    { x with
      lanes := lanes
      reversed := t.isReversed
      polarity := t.polarity % 256
      peerMax := t.peerMax
      credits := Vector.replicate 4 256
      used0 := Vector.replicate 4 0
      owed := []
      mgmt := []
      held := []
      reason := 0
      changing := false
      echoes := List.replicate 16 t.roundTrip
      latency := min 0xFFFF (t.roundTrip / 2) }
  let use_ := laneChoice (s2.port p) (min (s2.port p).maxLanes t.peerMax)
  if use_.isEmpty then setPort (s2.modPort p fun x => { x with width := 0 }) p .down
  else
    sendHello (s2.modPort p fun x =>
      { x with
        width := use_.length
        lanes := use_.foldl (fun v i => tmod v i fun l => { l with inUse := true }) x.lanes }) p

/-- A port becomes free of lanes and traffic. -/
def Port.cleared (x : Port) : Port :=
  { x with
    width := 0
    lanes := Vector.replicate 8 {}
    owed := []
    held := []
    mgmt := []
    reason := 0
    changing := false
    helloSent := false }

/-- The DATA flits of hand, control and trick traffic that a port has not had acked (R254). -/
def portFlits (x : Port) : List Flit :=
  (x.held ++ x.lanes.toList.flatMap fun l => (l.buffer.filter (!·.moved)).map (·.flit)).filter fun f => f.vc != 3

/-- A flit has left the receive buffer of its port: its credit goes back with the class that it used (R241). -/
def owe (s : State) (p : Nat) (f : Flit) : State := s.modPort p fun x => { x with owed := x.owed ++ [(f.vc, f.dclass, 1)] }

/-- Flits in receive buffers have left them. -/
def oweAll (s : State) (fs : List (Nat × Flit)) : State := fs.foldl (fun s q => owe s q.1 q.2) s

/-- Flits of a port that trains again are in no buffer that a credit counts (R234, step 6): port 12 is none. -/
def disown (p : Nat) (fs : List (Nat × Flit)) : List (Nat × Flit) := fs.map fun q => if q.1 = p then (12, q.2) else q

/-- A port's receive buffers are granted afresh. -/
def Link.disown (p : Nat) (l : Link) : Link :=
  { l with
    groups := l.groups.map fun g => { g with msgs := g.msgs.map fun m => { m with queue := Sys2Proof.Machine.disown p m.queue } }
    inbox := l.inbox.map fun m => { m with early := Sys2Proof.Machine.disown p m.early } }

/-- A message of a failed direction ends (R264): an own transfer's number is answered, a forwarded claim message draws
a RECEIPT to its source, and anything else is discarded and counted. -/
def dropMessage (s0 : State) (m : OutMsg) : State × List Nat :=
  let s := oweAll s0 m.queue
  match m.header with
  | none => (countNoRoute s, [])
  | some hb =>
    let h := MsgHeader.read hb
    if 4 ≤ h.kind then (countNoRoute s, [])
    else
      match m.xfer with
      | some x => (countNoRoute s, [x])
      | none => (sendReceipt (countNoRoute s) h 5 0x0506, [])

/-- An own message that has not started takes another way, if one is left (R264). -/
def rerouteMessage (s : State) (m : OutMsg) : State × List Nat :=
  if m.own && m.msgId.isNone then
    match routeFrom s m.dest with
    | .dir d => (enqueue s d m, [])
    | _ => dropMessage s m
  else dropMessage s m

/-- A direction with no UP port left gives its messages back to routing (R254, R264), and what comes in by it comes no
further; the answer names the own transfers that fail. -/
def failGroup (s : State) (d : Nat) : State × List Nat :=
  let g := tget s.link.groups d
  let s1 := s.modLink fun l =>
    { l with
      groups := (tset l.groups d { nextId := g.nextId }).map fun h => { h with msgs := h.msgs.filter fun m => !m.relay.any (·.1 == d) }
      inbox := l.inbox.filter fun m => m.dir != d }
  g.msgs.foldl (fun acc m =>
    let r := rerouteMessage acc.1 m
    (r.1, acc.2 ++ r.2)) (s1, [])

/-- A port leaves its direction group (R254): its unacked flits go to the group's other ports, or the direction is
down. -/
def leaveGroup (s : State) (p : Nat) (st : PortState) : State × List Nat :=
  let x := s.port p
  let flits := portFlits x
  let was := decide (x.st = .up)
  let s1 := setPort ((s.modPort p Port.cleared).modLink (Link.disown p)) p st
  if !was || decide (5 < x.dir) then (s1, [])
  else if dirUp s1 x.dir then (s1.modGroup x.dir fun g => { g with held := flits ++ g.held }, [])
  else failGroup s1 x.dir

/-- Table 12.9, in order: the reason of the first check that fails. -/
def helloReason (s : State) (p : Nat) (b : List Byte) : Option Nat :=
  let x := s.port p
  let g := s.image
  let me := g.coord
  let a := x.dir / 2
  let n := g.dims.axis a
  let c := me.axis a
  let next : Option Nat :=
    if x.dir % 2 = 0 then (if g.slab && decide (n ≤ c + 1) then none else some (if g.slab then c + 1 else (c + 1) % n))
    else (if g.slab && decide (c = 0) then none else some (if g.slab then c - 1 else (c + n - 1) % n))
  let expect : Option Seat := next.map fun v => match a with
    | 0 => (v, me.2.1, me.2.2)
    | 1 => (me.1, v, me.2.2)
    | _ => (me.1, me.2.1, v)
  let entry := match s.boot.seat with
    | some r => r.neighbours.find? fun e => field e 0 1 == p
    | none => none
  if inNewSeat s then some 1
  else if field b 5 1 ≠ b2n g.slab ∨ seatAt b 6 ≠ g.dims then some 5
  else if some (seatAt b 9) ≠ expect ∨ field b 3 1 ≠ opposite x.dir then some 4
  else
    match entry with
    | none => some 3
    | some e => if bytesAt e 0x10 48 ≠ bytesAt b 0x10 48 ∨ field e 1 1 ≠ field b 2 1 then some 2 else none

/-- A QUARANTINE message with a reason goes out (Table 12.8). -/
def sendQuarantine (s : State) (p r : Nat) : State := queueMgmt s p ([0x06#8] ++ leBytes 1 r)

/-- The port becomes QUARANTINED with a reason, leaving its group if it was in it (R249, R250): what was not acked goes on
over the group's other ports, and its copies keep their places in the lanes' sequences. DESIGN CHOICE, log entry 134. -/
def quarantinePort (s : State) (p r : Nat) : State × List Nat :=
  let x := s.port p
  let keep (s : State) : State := s.modPort p fun y =>
    { y with reason := r }
  if x.st = .up then
    let flits := portFlits x
    let s1 := setPort (keep (s.modPort p fun y =>
      { y with
        held := y.held.filter fun f => f.vc == 3
        lanes := y.lanes.map fun l => { l with buffer := l.buffer.map fun u => { u with moved := u.moved || u.flit.vc != 3 } } })) p .quarantined
    if dirUp s1 x.dir then (s1.modGroup x.dir fun g => { g with held := flits ++ g.held }, []) else failGroup s1 x.dir
  else (setPort (keep s) p .quarantined, [])

/-- A peer's HELLO is compared (R249, R251). DEDUCED, log entry 64. -/
def helloReceived (s : State) (p : Nat) (b : List Byte) : State × List Nat :=
  let x := s.port p
  if x.st = .training ∨ x.st = .quarantined then
    let s1 := if x.helloSent then s else sendHello s p
    let s2 := s1.modPort p fun y =>
      { y with
        helloSent := false
        peerCoords := (seatAt b 9).1 + 2 ^ 8 * (seatAt b 9).2.1 + 2 ^ 16 * (seatAt b 9).2.2
        peerPort := field b 2 1 % 16
        digest := bytesAt b 0x10 48 }
    match helloReason s2 p b with
    | none => (setPort (s2.modPort p fun y => { y with reason := 0 }) p .up, [])
    | some r => quarantinePort (sendQuarantine s2 p r) p r
  else (s, [])

/-- A QUARANTINE message arrives (R249): reason 6 unless a lower one holds. -/
def quarantineReceived (s : State) (p : Nat) : State × List Nat :=
  let x := s.port p
  if x.st = .quarantined ∧ 1 ≤ x.reason ∧ x.reason < 6 then (s, [])
  else if x.st = .up ∨ x.st = .training ∨ x.st = .quarantined then quarantinePort s p 6
  else (s, [])

/-- A flit's 256 bytes: header, payload and CRC (Table 12.4, R237, R238). -/
def flitBytes (kind seq ack : Nat) (f : Flit) (credit : Nat × Nat × Nat) : List Byte :=
  let h := seq % 256 + 2 ^ 8 * (ack % 256) + 2 ^ 16 * f.vc + 2 ^ 18 * f.dclass + 2 ^ 19 * kind + 2 ^ 21 * b2n f.first
    + 2 ^ 22 * b2n f.closing + 2 ^ 23 * credit.1 + 2 ^ 25 * credit.2.1 + 2 ^ 26 * credit.2.2
    + 2 ^ 32 * (f.msgId % 4096) + 2 ^ 44 * (f.index % 2 ^ 20)
  let b := leBytes 8 h ++ bytesAt f.payload 0 240
  b ++ leBytes 8 (crc64 b)

/-- Put a flit on a lane with the lane's ack and one return of credits. -/
def emitRaw (s : State) (p i kind seq : Nat) (f : Flit) : State :=
  let x := s.port p
  let c := match x.owed with
    | o :: _ => (o.1, o.2.1, min 63 o.2.2)
    | [] => (0, 0, 0)
  let rest := match x.owed with
    | o :: r => if 63 < o.2.2 then (o.1, o.2.1, o.2.2 - 63) :: r else r
    | [] => []
  (s.emit (.flit p i (flitBytes kind seq (tget x.lanes i).received f c))).modPort p fun x =>
    { x with owed := rest, lanes := tmod x.lanes i fun l => { l with ackDue := false, sinceIdle := if kind = 0 then 0 else l.sinceIdle + 1 } }

/-- Put a flit on a lane, with an IDLE flit before it where 4,095 have gone since the last (R232). -/
def emitFlit (s : State) (p i kind seq : Nat) (f : Flit) : State :=
  emitRaw (if kind ≠ 0 ∧ 4095 ≤ (tget (s.port p).lanes i).sinceIdle then emitRaw s p i 0 0 {} else s) p i kind seq f

/-- Send a new DATA flit on a lane: it takes the next sequence and stays in the replay buffer (R242). -/
def sendData (s : State) (p i : Nat) (f : Flit) : State :=
  let l := tget (s.port p).lanes i
  (emitFlit s p i 1 l.next f).modPort p fun x =>
    { x with lanes := tmod x.lanes i fun l => { l with next := (l.next + 1) % 256, buffer := l.buffer ++ [{ seq := l.next, flit := f }] } }

/-- A credit of the channel and class is held (R241). -/
def creditOk (x : Port) (vc cls : Nat) : Bool :=
  decide (0 < tget x.credits vc) && (decide (cls ≠ 0) || decide (tget x.used0 vc < 224))

/-- Take one credit. -/
def takeCredit (x : Port) (vc cls : Nat) : Port :=
  { x with credits := tmod x.credits vc (· - 1), used0 := if cls = 0 then tmod x.used0 vc (· + 1) else x.used0 }

/-- Data flits of a message (R243). -/
def OutMsg.dataFlits (m : OutMsg) : Nat :=
  match m.header with
  | none => 0
  | some _ => if m.data.isEmpty then 0 else 1 + (m.data.length - 192 + 239) / 240

/-- The closing trailer (Table 12.7). -/
def OutMsg.trailerBytes (m : OutMsg) : List Byte :=
  match m.trailer with
  | some t => t
  | none =>
    let h := MsgHeader.read (m.header.getD [])
    leBytes 4 h.length ++ leBytes 4 h.xfer ++ leBytes 8 (crc64 m.data) ++ List.replicate 224 0#8

/-- The next flit of a cut-through message, or none while it waits: its closing flit waits for every ack (R244, R265). -/
def OutMsg.relayFlit (m : OutMsg) : Option Flit :=
  match m.queue with
  | [] => none
  | (_, f) :: _ =>
    if f.closing && !f.first && decide (m.acked < m.next) then none else some { f with dclass := m.dclass, msgId := m.msgId.getD 0 }

/-- The next flit of a message, or none while it waits (R243, R244). -/
def OutMsg.flit (m : OutMsg) : Option Flit :=
  if m.relay.isSome then m.relayFlit
  else
  let base : Flit := { vc := m.vc, dclass := m.dclass, msgId := m.msgId.getD 0, index := m.next }
  let n := m.dataFlits
  if n = 0 then
    if m.next = 0 then some { base with first := true, closing := true, payload := m.header.getD [] ++ m.data } else none
  else if m.next = 0 then some { base with first := true, payload := m.header.getD [] ++ m.data.take 192 }
  else if m.next < n then some { base with payload := bytesAt m.data (192 + 240 * (m.next - 1)) 240 }
  else if m.next = n ∧ m.acked = n then some { base with closing := true, payload := m.trailerBytes }
  else none

/-- The class at which a message arbitrates (R79, R265): its claim's, or high for a forwarded or trick message. -/
def msgClass (s : State) (m : OutMsg) : Nat :=
  match m.header, m.xfer with
  | some h, some _ => effClass s ((MsgHeader.read h).claim)
  | _, _ => 2

/-- A message that this seat's own halted claim sends stops between flits (R386). -/
def msgHalted (s : State) (m : OutMsg) : Bool :=
  match m.header, m.xfer with
  | some h, some _ => shoeHalted s (MsgHeader.read h).claim
  | _, _ => false

/-- A new message of a channel may open: fewer than 256 are open, and the closing flit of the last one with the next
number has been acked (R244). -/
def Group.mayOpen (g : Group) (vc : Nat) : Bool :=
  let open_ := g.msgs.filter fun m => m.vc == vc && m.msgId.isSome
  decide (open_.length < 256) && !open_.any fun m => m.msgId == some (tget g.nextId vc)

/-- The message of a channel that a port sends next: by class, then by age, among those with a flit, a message number to
take and a credit (R79, R240, R241, R244). -/
def pickMsg (s : State) (x : Port) (vc : Nat) : Option (Nat × OutMsg) :=
  let g := tget s.link.groups x.dir
  let ready := (g.msgs.zipIdx.filter fun m =>
    m.1.vc == vc && m.1.flit.isSome && !msgHalted s m.1 && (m.1.msgId.isSome || g.mayOpen vc) && creditOk x vc m.1.dclass).map fun m => (m.2, m.1)
  ready.foldl (fun best m => match best with
    | none => some m
    | some b => if msgClass s b.2 < msgClass s m.2 then some m else some b) none

/-- Take the next flit of a group's message; one that is cut through leaves its receive buffer (R241). -/
def takeFlit (s : State) (d : Nat) (idx : Nat) (m : OutMsg) : State × Option Flit :=
  let g := tget s.link.groups d
  let id := m.msgId.getD (tget g.nextId m.vc)
  let m1 := { m with msgId := some id }
  let s1 := s.modGroup d fun g =>
    { g with
      msgs := g.msgs.set idx { m1 with next := m.next + 1, queue := m.queue.tail }
      nextId := if m.msgId.isNone then tset g.nextId m.vc ((id + 1) % 4096) else g.nextId }
  (oweAll s1 (m.queue.take 1), m1.flit)

/-- The lowest lane in use, and the lowest good one (R248, Table 12.10). -/
def Port.lowest (x : Port) : Option Nat := (List.range 8).find? fun i => (tget x.lanes i).inUse
def Port.lowestGood (x : Port) : Option Nat := (List.range 8).find? fun i => (tget x.lanes i).inUse && (tget x.lanes i).good

/-- A management message that a lane may send ahead of all other flits: a beat message on the lowest lane in use, and
LANES or LANES_ACK on the lowest good one, these also while the lane set changes (R248, Table 12.10). -/
def urgent (x : Port) (i : Nat) (m : List Byte) : Bool :=
  match field m 0 1 with
  | 2 => !x.changing && x.lowest == some i
  | 3 => x.lowestGood == some i
  | 4 => x.lowestGood == some i
  | _ => false

/-- A management message that no order holds to one lane. -/
def ordinary (m : List Byte) : Bool := !([2, 3, 4].contains (field m 0 1))

/-- Take the first waiting management message of a kind, with its credit (R241, R248). -/
def takeMgmt (s : State) (p : Nat) (f : List Byte → Bool) : Option (State × Flit) :=
  let x := s.port p
  if !creditOk x 3 0 then none
  else (x.mgmt.find? f).map fun m =>
    (s.modPort p fun x => takeCredit { x with mgmt := x.mgmt.erase m } 3 0, { vc := 3, first := true, closing := true, payload := m })

/-- Take the first flit that a port which left the group handed over and this port has a credit for (R254). -/
def takeHeld (s : State) (p : Nat) : Option (State × Flit) :=
  let x := s.port p
  if x.st ≠ .up ∨ (tget s.fences.ports p).fenced then none
  else ((tget s.link.groups x.dir).held.find? fun f => creditOk x f.vc f.dclass).map fun f =>
    ((s.modGroup x.dir fun g => { g with held := g.held.erase f }).modPort p fun x => takeCredit x f.vc f.dclass, f)

/-- Take the next flit of the direction's messages: trick, then control, then hand, each while credits last (R240). -/
def takeNew (s : State) (p : Nat) : Option (State × Flit) :=
  let x := s.port p
  if x.st ≠ .up ∨ (tget s.fences.ports p).fenced then none
  else ([2, 1, 0].findSome? (pickMsg s x)).bind fun m =>
    let r := takeFlit s x.dir m.1 m.2
    r.2.map fun f => (r.1.modPort p fun x => takeCredit x m.2.vc m.2.dclass, f)

/-- Take the first flit of lanes that left the set; it holds its credit (R241, R253). -/
def takeMoved (s : State) (p : Nat) : Option (State × Flit) :=
  (s.port p).held.head?.map fun f => (s.modPort p fun x => { x with held := x.held.tail }, f)

/-- The flit a lane sends next: what goes ahead of every flit, then flits moved from lanes or ports that left, management,
trick, control and hand (R240, R248, R253, R254). -/
def nextFlit (s : State) (p i : Nat) : Option (State × Flit) :=
  let x := s.port p
  (takeMgmt s p (urgent x i)).or (if x.changing then none
    else (takeMoved s p).or ((takeHeld s p).or ((takeMgmt s p ordinary).or (takeNew s p))))

/-- One lane's turn (R242): a DATA flit while its buffer has room, else an IDLE flit when an ack or credit is due. -/
def tickLane (s : State) (p i : Nat) : State :=
  let x := s.port p
  let l := tget x.lanes i
  if !l.inUse then s
  else
    match (if l.buffer.length < 64 then nextFlit s p i else none) with
    | some r => sendData r.1 p i r.2
    | none => if !x.changing && (l.ackDue || !x.owed.isEmpty) then emitFlit s p i 0 0 {} else s

/-- Every lane of every trained port takes one turn. -/
def tickLink (s : State) : State :=
  (List.range 12).foldl (fun s p =>
    if (s.port p).st = .up ∨ (s.port p).st = .quarantined ∨ (s.port p).st = .training then
      (List.range 8).foldl (fun s i => tickLane s p i) s
    else s) s

/-- A flit has been acked: its message advances, and with its closing flit it closes and its receipt is awaited
(R244, R246). -/
def ackFlit (s : State) (d : Nat) (f : Flit) : State :=
  if f.vc = 3 ∨ 5 < d then s
  else
    let g := tget s.link.groups d
    match g.msgs.find? fun m => m.vc == f.vc && m.msgId == some f.msgId with
    | none => s
    | some m =>
      if f.closing then
        let s1 := s.modGroup d fun g => { g with msgs := g.msgs.filter fun n => !(n.vc == f.vc && n.msgId == some f.msgId) }
        match m.xfer with
        | some x => s1.modLink fun l => { l with xfers := l.xfers.map fun t => if t.id = x then { t with awaiting := true } else t }
        | none => s1
      else
        s.modGroup d fun g =>
          { g with msgs := g.msgs.map fun n => if n.vc = f.vc ∧ n.msgId = some f.msgId then { n with acked := n.acked + 1 } else n }

/-- A lane's ack releases its buffer up to the sequence named (R242). -/
def applyAck (s : State) (p i ack : Nat) : State :=
  let x := s.port p
  let l := tget x.lanes i
  match l.buffer.findIdx? fun u => u.seq == ack with
  | none => s
  | some k =>
    let s1 := s.modPort p fun x => { x with lanes := tmod x.lanes i fun l => { l with buffer := l.buffer.drop (k + 1) } }
    (l.buffer.take (k + 1)).foldl (fun s u => if u.moved then s else ackFlit s x.dir u.flit) s1

/-- Credits come back (R241). -/
def applyCredits (s : State) (p vc cls n : Nat) : State :=
  s.modPort p fun x =>
    { x with
      credits := tmod x.credits vc fun v => min 256 (v + n)
      used0 := if cls = 0 then tmod x.used0 vc (· - n) else x.used0 }

/-- A lane draws one NAK until a flit is accepted again (R242). -/
def sendNak (s : State) (p i : Nat) : State :=
  if (tget (s.port p).lanes i).naked then s
  else
    (emitFlit s p i 2 0 {}).modPort p fun x => { x with lanes := tmod x.lanes i fun l => { l with naked := true } }

/-- Every flit in a lane's replay buffer is sent again, in order (R242). -/
def replay (s : State) (p i : Nat) : State :=
  let again := (tget (s.port p).lanes i).buffer
  let s1 := s.modPort p fun x =>
    { x with
      replays := satInc 16 x.replays again.length
      lanes := tmod x.lanes i fun l => { l with buffer := l.buffer.map fun u => { u with sends := u.sends + 1 } } }
  again.foldl (fun s u => emitFlit s p i 1 u.seq u.flit) s1

/-- A flit of the lane has been sent 16 times without an ack (R242, R252). -/
def replayLimited (s : State) (p i : Nat) : Bool := (tget (s.port p).lanes i).buffer.any fun u => decide (16 ≤ u.sends)

/-- The reserved bytes of a payload are 0 (R239). -/
def payloadOk (vc : Nat) (first closing : Bool) (b : List Byte) : Bool :=
  let z (lo n : Nat) : Bool := allZero (bytesAt b lo n)
  match vc with
  | 3 =>
    match field b 0 1 with
    | 1 => z 0xD 3 && z 0x40 176 && decide (field b 0xC 1 ≤ 1)
    | 2 => decide (field b 2 1 ≤ 1) && z 3 1 && z 0xA 230
    | 3 => z 3 237
    | 4 => z 3 237
    | 5 => z 2 2 && z 0x10 224
    | 6 => z 2 238
    | _ => true
  | 2 => decide (field b 1 1 < 8) && z 0xB 1 && z 0xE 2 && z 0x18 216
  | _ =>
    if first then z 7 1 && z 0xB 1 && z 0x1B 1 && z 0x2A 6
    else if closing then z 0x10 224 else true

/-- A trailer matches its message (Table 12.7, R245). -/
def trailerOk (h : MsgHeader) (data t : List Byte) : Bool :=
  decide (field t 0 4 = h.length) && decide (field t 4 4 = h.xfer) && decide (field t 8 8 = crc64 data)

/-- A message that finds no way on fails here (R264): a claim message draws a RECEIPT to its source, and anything else is
discarded and counted. -/
def noWay (s : State) (header : List Byte) : State :=
  let h := MsgHeader.read header
  if header.isEmpty ∨ 4 ≤ h.kind then countNoRoute s else sendReceipt (countNoRoute s) h 5 0x0506

/-- A message goes on by a direction: it joins that direction's queue and is counted (R265). -/
def passOn (s : State) (d : Nat) (m : OutMsg) : State :=
  (enqueue s d { m with own := false }).modRounds fun r => { r with forwarded := satInc 32 r.forwarded }

/-- A whole message is forwarded on its next link, or fails there (R264, R265). -/
def forwardMessage (s : State) (inDir cls : Nat) (header data trailer : List Byte) : State :=
  let h := MsgHeader.read header
  match routeOn s inDir h.dest with
  | .dir d =>
    passOn s d
      { vc := kindVc h.kind, dclass := nextClass s inDir d cls, dest := h.dest, header := some header, data := data,
        trailer := if data.isEmpty then none else some trailer }
  | _ => noWay s header

/-- A trick message is forwarded to a seat, or discarded and counted (R264, R265). -/
def forwardTrick (s : State) (inDir cls : Nat) (dest : Seat) (msg : List Byte) : State :=
  match routeOn s inDir dest with
  | .dir d => passOn s d { vc := 2, dclass := nextClass s inDir d cls, dest := dest, data := msg }
  | _ => noWay s []

/-- The first flit of a message for another seat is cut through on its next link, or the message fails here (R241, R264,
R265). The direction it leaves by, if any. -/
def cutThrough (s : State) (inDir p : Nat) (dest : Seat) (header : Option (List Byte)) (f : Flit) : State × Option Nat :=
  match routeOn s inDir dest with
  | .dir d =>
    (passOn s d
      { vc := f.vc, dclass := nextClass s inDir d f.dclass, dest := dest, header := header, relay := some (inDir, f.vc, f.msgId), queue := [(p, f)] },
      some d)
  | _ => (owe (noWay s (header.getD [])) p f, none)

/-- A port's new lane set (Table 12.10, steps 4 and 5). -/
def applyLanes (s : State) (p : Nat) (set_ : List Nat) : State :=
  let x := s.port p
  let leaving := (List.range 8).filter fun i => (tget x.lanes i).inUse && !set_.contains i
  let moved := leaving.flatMap fun i => ((tget x.lanes i).buffer.filter (!·.moved)).map (·.flit)
  let lanes := Vector.ofFn fun i : Fin 8 =>
    let l := tget x.lanes i
    if set_.contains i.val then (if l.inUse then l else { good := l.good, peerGood := l.peerGood, inUse := true : LinkLane })
    else { good := l.good, peerGood := l.peerGood : LinkLane }
  let s1 := s.modPort p fun x =>
    { x with
      lanes := lanes
      width := set_.length
      held := moved ++ x.held
      changing := false
      evDegrade := true }
  linkEvent s1 p x.st

/-- Send a management message at once on the lowest good lane in use, or as soon as that lane has room and the port a
credit (Table 12.10, step 2; R241, R242). -/
def sendNow (s : State) (p : Nat) (payload : List Byte) : State :=
  let x := s.port p
  match x.lowestGood with
  | some i =>
    if creditOk x 3 0 ∧ (tget x.lanes i).buffer.length < 64 then
      sendData (s.modPort p fun x => takeCredit x 3 0) p i { vc := 3, first := true, closing := true, payload := payload }
    else s.modPort p fun x => { x with mgmt := payload :: x.mgmt }
  | none => s

/-- The most lanes a port may use now: a port never widens (R253). -/
def laneLimit (x : Port) : Nat := min (min x.maxLanes x.peerMax) x.width

/-- A lane fails (R252, R253): a spare is marked bad, a lane in use starts a change. True when no usable lane is left. -/
def laneFails (s : State) (p i : Nat) : State × Bool :=
  let was := (tget (s.port p).lanes i).inUse
  let s1 := s.modPort p fun x => { x with lanes := tmod x.lanes i fun l => { l with good := false } }
  let x := s1.port p
  if (laneMap x LinkLane.usable) = 0 then (s1, true)
  else if !was then (s1, false)
  else
    let w := (laneChoice x (laneLimit x)).length
    (sendNow (s1.modPort p fun x => { x with changing := true }) p
      ([0x03#8] ++ leBytes 1 (laneMap x (·.good)) ++ leBytes 1 w), false)

/-- LANES from the peer (Table 12.10, step 3). True when no usable lane is left. -/
def lanesReceived (s : State) (p bitmap : Nat) : State × Bool :=
  let was := (s.port p).changing
  let s1 := s.modPort p fun x =>
    { x with lanes := Vector.ofFn fun i : Fin 8 => { tget x.lanes i with peerGood := bitmap.testBit i } }
  let x := s1.port p
  let set_ := laneChoice x (laneLimit x)
  if set_.isEmpty then (s1, true)
  else
    let map := set_.foldl (fun a i => a + 2 ^ i) 0
    let s2 := if was then s1 else sendNow s1 p ([0x04#8] ++ leBytes 1 map ++ leBytes 1 set_.length)
    (applyLanes s2 p set_, false)

/-- LANES_ACK from the peer (Table 12.10, steps 4 and 5). -/
def lanesAck (s : State) (p bitmap : Nat) : State :=
  if (s.port p).changing then applyLanes s p ((List.range 8).filter fun i => bitmap.testBit i) else s

/-- ECHO requests go out on every trained port (R248). -/
def echoTimer (s : State) : State :=
  (List.range 12).foldl (fun s p =>
    if (s.port p).st = .up ∨ (s.port p).st = .quarantined then
      queueMgmt s p ([0x05#8, 0#8, 0#8, 0#8] ++ leBytes 8 s.now ++ leBytes 4 0)
    else s) s

/-- An ECHO arrives (R248): a request is answered, a reply updates the latency. -/
def echoReceived (s : State) (p : Nat) (b : List Byte) (turn : Nat) : State :=
  if field b 1 1 = 0 then queueMgmt s p ([0x05#8, 1#8, 0#8, 0#8] ++ bytesAt b 4 8 ++ leBytes 4 turn)
  else
    s.modPort p fun x =>
      let es := ((s.now - field b 4 8 - field b 0xC 4) :: x.echoes).take 16
      { x with echoes := es, latency := min 0xFFFF (total es / es.length / 2) }

/-- SZL_DIR_STATUS's lanes and reduced flag of a direction (Table 12.13). -/
def dirLanes (s : State) (d : Nat) : Nat := total ((upPorts s d).map fun p => (s.port p).width)
def dirReduced (s : State) (d : Nat) : Bool :=
  (List.range 12).any fun p =>
    let x := s.port p
    decide (x.dir = d) && (decide (x.st = .down) || decide (x.st = .quarantined) || decide (x.width < x.maxLanes))

/-- Two dies joined by a Swezo-P link and the links of its alternate route (Table 12.11). -/
def szlpAlternate : Nat → List Nat
  | 0 => [8, 9]
  | 1 => [9, 10]
  | 2 => [10, 11]
  | 3 => [11, 8]
  | 4 => [0, 5]
  | 5 => [0, 4]
  | 6 => [2, 7]
  | 7 => [2, 6]
  | 8 => [9, 0]
  | 9 => [10, 1]
  | 10 => [11, 2]
  | 11 => [8, 3]
  | 12 => [8, 4]
  | 13 => [10, 6]
  | _ => []

/-- A Swezo-P link's alternate route is whole. -/
def szlpRouted (s : State) (i : Nat) : Bool :=
  (szlpAlternate i).all fun j => !(tget s.link.szlp j).failed

/-- The LINK event of a Swezo-P link (R257, R259). -/
def szlpEvent (s : State) (i old new : Nat) : State :=
  postSteward s 0x0014 0 (leBytes 1 (0x80 + i) ++ leBytes 1 old ++ leBytes 1 new ++ List.replicate 4 0#8)

end Sys2Proof.Machine
end

