-- ==== Sys2Proof/Machine/EngineOps.lean ====
section
/-! DEFINITION. The control core and its engines (R128 to R133): issue in program order, the stalls, the scoreboard, the
registers of a context, and what a context switch leaves. -/

namespace Sys2Proof.Machine

/-- Every instruction that is queued at or running in an engine of the core. -/
def Core.outstanding (c : Core) : List Queued := c.queues.toList.flatten

/-- The scoreboard entries of an instruction: one for each region it names (R131). -/
def Queued.entries (q : Queued) : Nat := q.reads.length + b2n q.write.isSome

/-- Scoreboard entries in use (R131). -/
def Core.entries (c : Core) : Nat := (c.outstanding.map Queued.entries).sum

/-- Outstanding hoist descriptors (R129). -/
def Core.hoists (c : Core) : Nat := ((tget c.queues 3).map (·.descriptors)).sum

/-- Two regions share a byte. -/
def EngRegion.meets (a b : EngRegion) : Bool := a.space == b.space && decide (a.lo < b.lo + b.units) && decide (b.lo < a.lo + a.units)

/-- A hazard of R131: regions of one claim overlap, and one of the two is a write. -/
def Queued.clashes (a b : Queued) : Bool :=
  a.claim == b.claim
    && (a.write.any (fun w => b.reads.any w.meets || b.write.any w.meets) || b.write.any fun w => a.reads.any w.meets)

/-- The control core must not issue the instruction to the engine now (R129, R131). -/
def mustStall (c : Core) (e : EngineKind) (q : Queued) : Bool :=
  decide (32 ≤ (tget c.queues e.index).length) || c.outstanding.any q.clashes || decide (64 < c.entries + q.entries)
    || (e == .hoist && decide (64 < c.hoists + q.descriptors))

/-- An address register after an access: it advances by its stride, and wraps to base where it reaches base + bound
(Table 7.2). DEDUCED, log entry 129. -/
def AddrReg.advance (a : AddrReg) : AddrReg :=
  let n := a.current + a.stride.signExtend 40
  { a with current := if a.base.toNat + a.bound.toNat ≤ n.toNat then a.base else n }

/-- The region of an operand of a part, with the address registers after the access. -/
def operandRegion (mid : Nat) (addrs : Vector AddrReg 32) (o : EngOperand) : EngRegion × Vector AddrReg 32 :=
  let a := tget addrs (o.reg % 32)
  ({ space := if o.inT1 then none else some mid, lo := a.current.toNat / 64, units := max 1 o.units },
    tset addrs (o.reg % 32) a.advance)

/-- The regions of operands, accessed in order. -/
def operandRegions (mid : Nat) : List EngOperand → Vector AddrReg 32 → List EngRegion × Vector AddrReg 32
  | [], addrs => ([], addrs)
  | o :: os, addrs =>
    let r := operandRegion mid addrs o
    let rs := operandRegions mid os r.2
    (r.1 :: rs.1, rs.2)

/-- An instruction as it is issued for a part, with the address registers after it (R130, R131). -/
def queuedOf (m : MacroInst) (i : EngInstr) (addrs : Vector AddrReg 32) : Queued × Vector AddrReg 32 :=
  let r := operandRegions m.id (i.reads.take 3) addrs
  let w := operandRegions m.id i.write.toList r.2
  ({ mid := m.id, claim := m.claim, reads := r.1, write := w.1.head?
     descriptors := if i.engine = .hoist then max 1 (min 64 i.descriptors) else 0 }, w.2)

/-- Loop control at the end of an instruction: the innermost loop that ends there goes back while iterations are left
(Table 7.2). -/
def loopBack (pc : Nat) : List Nat → CoreCtx → CoreCtx
  | [], x => { x with pc := pc }
  | l :: ls, x =>
    let r := tget x.loops l
    if r.left = 0 ∨ r.stop ≠ pc then loopBack pc ls x
    else if r.left = 1 then loopBack pc ls { x with loops := tset x.loops l { r with left := 0 } }
    else { x with loops := tset x.loops l { r with left := r.left - 1 }, pc := r.start }

/-- The context after an instruction that ends at `pc`. -/
def CoreCtx.next (x : CoreCtx) (pc : Nat) : CoreCtx := loopBack pc [3, 2, 1, 0] { x with steps := x.steps + 1 }

/-- The control core's next instruction for context k, which a part runs: it takes effect or stalls (R128 to R130). A
loop with count 0 is a skip. -/
def ctlStep (m : MacroInst) (k : Nat) (c : Core) : Core :=
  let x := tget c.ctxs k
  let i := Config.coreInstr x.program x.pc x.scalars.toList
  let pc := x.pc + max 1 i.2
  match i.1 with
  | .issue i =>
    let q := queuedOf m i x.addrs
    if mustStall c i.engine q.1 then c
    else { c with queues := tmod c.queues i.engine.index (· ++ [q.1]), ctxs := tset c.ctxs k ({ x with addrs := q.2 }.next pc) }
  | .setAddr r base stride bound current =>
    { c with ctxs := tset c.ctxs k ({ x with addrs := tset x.addrs (r % 32) ⟨base, stride, bound, current⟩ }.next pc) }
  | .setLoop l count len =>
    let y := if count = 0 then x.next (pc + len) else { x with loops := tset x.loops (l % 4) ⟨pc, pc + len, count⟩ }.next pc
    { c with ctxs := tset c.ctxs k y }
  | .setScalar r v => { c with ctxs := tset c.ctxs k ({ x with scalars := tset x.scalars (r % 16) v }.next pc) }

/-- The context of a part on a core. -/
def Core.contextOf (c : Core) (mid : Nat) : Nat := (List.range 12).findIdx fun k => tget c.slots k == some mid

/-- The T0 units of a part's working set, in order. -/
def Core.workUnits (c : Core) (mid : Nat) : List Nat := (List.range 48).filter fun u => (tget c.units u).use_ = .work mid

/-- The pieces of a T0 region that lie in one unit of a working set: the unit and the bits of its pieces. -/
def regionBits (us : List Nat) (r : EngRegion) : List (Nat × BitVec 1024) :=
  us.zipIdx.filterMap fun u =>
    let lo := max r.lo (1024 * u.2)
    let hi := min (r.lo + r.units) (1024 * u.2 + 1024)
    if lo < hi then some (u.1, BitVec.ofNat 1024 ((2 ^ (hi - lo) - 1) * 2 ^ (lo - 1024 * u.2))) else none

/-- Every byte of a region has been written since its unit was allocated (R133); the gallery has its own rule (R335). -/
def Core.regionWritten (c : Core) (r : EngRegion) : Bool :=
  match r.space with
  | none => true
  | some mid => (regionBits (c.workUnits mid) r).all fun b => (tget c.units b.1).written &&& b.2 == b.2

/-- A region has been written. -/
def Core.writeRegion (c : Core) (r : EngRegion) : Core :=
  match r.space with
  | none => c
  | some mid =>
    { c with
      units := (regionBits (c.workUnits mid) r).foldl (fun v b => tmod v b.1 fun u => { u with written := u.written ||| b.2, unwritten := false })
        c.units }

/-- The instruction at the head of an engine's queue completes: its scoreboard entries are free (R131), and a read of T0
bytes that were never written marks its context (R133). -/
def completeHead (c : Core) (e : Nat) : Core :=
  match tget c.queues e with
  | [] => c
  | q :: qs =>
    let ok := q.reads.all c.regionWritten
    let c1 := { c with queues := tset c.queues e qs
                       ctxs := tmod c.ctxs (c.contextOf q.mid) fun x => { x with fault := x.fault || !ok } }
    match q.write with
    | none => c1
    | some r => c1.writeRegion r

/-- Every engine completes the head of its queue. -/
def completeHeads (c : Core) : Core := [0, 1, 2, 3].foldl completeHead c

/-- The control core runs context k to `n` instructions of its tile group; engines complete as it needs them. -/
def runSteps (m : MacroInst) (k n : Nat) : Nat → Core → Core
  | 0, c => c
  | fuel + 1, c => if n ≤ (tget c.ctxs k).steps then c else runSteps m k n fuel (ctlStep m k (completeHeads c))

/-- The engine queues drain (R132). -/
def drainQueues (c : Core) : Core := (List.range 32).foldl (fun c _ => completeHeads c) c

/-- A context has come to the end of its tile group: what it was to issue is issued, and observe shows it so (R388). -/
def endIssue (m : MacroInst) (block chunk : Nat) (c : Core) : Core :=
  let k := c.contextOf m.id
  let n := Config.groupSteps (tget c.ctxs k).program block chunk
  let d := runSteps m k n (33 * n) c
  let e := { d with ctxs := tmod d.ctxs k fun x => { x with steps := 0 } }
  { e with seen := tset e.seen k { ctx := tget e.ctxs k, depths := e.queues.toList.map List.length, entries := e.entries } }

/-- A tick of a core whose current context has a tile group in progress: its engines may complete an instruction, and
the control core goes on, up to the group's end. DESIGN CHOICE, log entry 97. -/
def engineTick (m : MacroInst) (w : GroupWork) (draw : Nat) (c : Core) : Core :=
  let d := [0, 1, 2, 3].foldl (fun c e => if Config.engineDone draw w.core e then completeHead c e else c) c
  let k := d.contextOf m.id
  if (tget d.ctxs k).steps < Config.groupSteps (tget d.ctxs k).program w.block w.chunk then ctlStep m k d else d

/-- A context begins a part's program: its place, its rank and the number of participants (R130, R140); the other registers
keep what they held. -/
def startContext (program : List Byte) (rank count : Nat) (x : CoreCtx) : CoreCtx :=
  let r := Config.rankRegister program % 16
  let n := (r + 1 + Config.countRegister program % 15) % 16
  { x with
    program := program, pc := 0, steps := 0, fault := false, loops := Vector.replicate 4 {}
    scalars := tset (tset x.scalars r (BitVec.ofNat 32 rank)) n (BitVec.ofNat 32 count) }

end Sys2Proof.Machine
end

