-- ==== Sys2Proof/Machine/Kernels.lean ====
section
/-! DEFINITION. The arithmetic of the macro-instructions on values (chapters 8, 9 and 15): matrix products,
the online soft maximum, its backward pass, normalisation, reductions and the exact scores of ASSAY_RERANK. -/

namespace Sys2Proof.Machine

/-- The number of groups that a list of products needs, as fuel. -/
def groupsOf {α : Type} (l : List α) : Nat := l.length / 32 + 1

/-- A dot product on the tensor array with a combined scale, from no accumulator value (R153, R154). -/
def tensorDot (scale : FP) (xs ys : List FP) : FP :=
  let ps := List.zipWith fmul xs ys
  (accProducts scale (groupsOf ps) none ps).getD .zero

/-- A dot product added onto an accumulator that already holds a value (R153). -/
def tensorDotFrom (scale : FP) (acc : FP) (xs ys : List FP) : FP :=
  let ps := List.zipWith fmul xs ys
  (accProducts scale (groupsOf ps) (some acc) ps).getD acc

/-- What MATMUL adds to one product after the K walk, in the order of R153. -/
structure MatmulTail where
  int8 : Bool := false
  scale : FP := .one
  old : Option FP := none
  bias : Option FP := none
  addend : Option FP := none
  epilogue : Option SfnTable := none
deriving DecidableEq, Repr, Inhabited

/-- One rounded addition of a term that may be absent. -/
def addOpt (x : FP) : Option FP → FP
  | none => x
  | some y => add32 x y

/-- One element's accumulator after a K chunk, as its FP32 or INT32 word, and whether INT32 saturated (R153, R154); `acc` is
the partial sum of the chunks before, if any (R135). -/
def matmulChunk (int8 : Bool) (scale : FP) (acc : Option Word32) (xs ys : List FP) : Word32 × Bool :=
  if int8 then
    let intOf (x : FP) : Int := roundInt .zero (-128) 127 x
    let ps := List.zipWith (fun a b => intOf a * intOf b) xs ys
    let r := accInt (groupsOf ps) ((acc.map BitVec.toInt).getD 0) false ps
    (BitVec.ofInt 32 r.1, r.2)
  else
    let ps := List.zipWith fmul xs ys
    (BitVec.ofNat 32 (encodeElem .fp32 ((accProducts scale (groupsOf ps) (acc.map fun a => decodeElem .fp32 a.toNat) ps).getD .zero)), false)

/-- One output element of MATMUL before its output conversion, from its accumulator at the end of the K walk (R153). -/
def matmulEnd (t : MatmulTail) (acc : Word32) : FP :=
  let r := if t.int8 then mul32 (rnd32 (ofInt acc.toInt)) t.scale else decodeElem .fp32 acc.toNat
  let y := addOpt (addOpt (addOpt r t.old) t.bias) t.addend
  match t.epilogue with
  | none => y
  | some tb => evalTable tb y

/-- -2^126 and -2^125, the masking values (R174). -/
def maskedScore : FP := .fin true 1 126
def floorScore : FP := .fin true 1 125

/-- The state of one attention row: m, |s|, the recall flag and the accumulator (R175, R177). -/
structure AttRow where
  m : FP := maskedScore
  s : FP := .zero
  recallFlag : Bool := false
  acc : List FP := []
deriving DecidableEq, Repr, Inhabited

/-- A row whose state is NaN (R177). -/
def AttRow.nonfinite (r : AttRow) : AttRow := { r with m := .nan, s := .nan, acc := r.acc.map fun _ => .nan }

/-- The score of one position: the dot product times sigma, then R174's floor for an unmasked position. -/
def attScore (scale sigma : FP) (q k : List FP) : FP :=
  let sc := mul32 (tensorDot scale q k) sigma
  if flt sc floorScore then floorScore else sc

/-- One tile group of a row (R174, R177): positions as (score, or none when masked; the row of V). A masked position's score
counts in the maximum only. DEDUCED, log entry 118. -/
def attGroup (fp8V : Bool) (scaleV : FP) (r : AttRow) (ps : List (Option FP × List FP)) : AttRow :=
  if r.m.isNan then r.nonfinite else
  let un := ps.filterMap fun p => p.1.map fun sc => (sc, p.2)
  if un.any (fun p => p.1.isNan || (p.1.isInf && !p.1.neg)) then r.nonfinite else
  let mNew := ps.foldl (fun m p => fmax m (p.1.getD maskedScore)) r.m
  let alpha := evalTable fixedExp2 (sub32 r.m mNew)
  let weight (sc : FP) : FP :=
    let e := evalTable fixedExp2 (sub32 sc mNew)
    if fp8V then scaleFP (roundFP .e4m3 .nearest .clamp (scaleFP e 8)) (-8)
    else roundFP .bf16 .nearest .ieee e
  let ws := ps.map fun p => match p.1 with
    | none => none
    | some sc => some (weight sc)
  let sBlk := orderedSum (ws.filterMap id)
  let scaled := mul32 alpha r.s
  let accs := (List.range r.acc.length).map fun d =>
    let prods := List.zipWith (fun w p => match w with
      | none => FP.zero
      | some w => fmul w (p.2.getD d .zero)) ws ps
    let a0 := mul32 alpha (r.acc.getD d .zero)
    if un.isEmpty then a0 else (accProducts scaleV (groupsOf prods) (some a0) prods).getD a0
  { r with m := mNew, s := if un.isEmpty then scaled else add32 scaled sBlk, acc := accs }

/-- A row's outputs when ATTEND ends it (R178, Table 9.4), before the output conversion. -/
def attFinish (r : AttRow) : List FP :=
  if r.m.isNan then r.acc.map fun _ => .nan
  else if flt r.m floorScore then r.acc.map fun _ => .zero
  else
    let inv := div32 .one r.s
    r.acc.map fun a => mul32 a inv

/-- The row status codes of Table 9.5, read from a row's state. -/
def rowStatus (r : AttRow) : Nat :=
  (if r.m.isNan then 4 else if flt r.m floorScore then 1 else 0) + 2 * b2n r.recallFlag

/-- P_p and dS_p of one row and position (R181): score, the row's m, s and D, and dP. -/
def bwdWeights (m s dD score dP : FP) (masked : Bool) : FP × FP :=
  let p : FP :=
    if m.isNan then .nan
    else if masked || s.isZero then .zero
    else mul32 (evalTable fixedExp2 (sub32 score m)) (div32 .one s)
  (roundFP .bf16 .nearest .ieee p, roundFP .bf16 .nearest .ieee (mul32 p (sub32 dP dD)))

/-- An accumulator that starts at the value read takes the products of R181 in groups of 32, each group's rounded sum
times σ (R153, R181); `fuel` bounds the number of groups. DEDUCED, log entry 77. -/
def accSigma (scale sigma : FP) : Nat → FP → List FP → FP
  | 0, acc, _ => acc
  | fuel + 1, acc, ps =>
    match ps with
    | [] => acc
    | _ => accSigma scale sigma fuel (add32 acc (mul32 (rnd32 (fmul (exactSum (ps.take 32)) scale)) sigma)) (ps.drop 32)

/-- NORM of one row (R182): outputs before conversion, mean and scale. -/
def normRow (layer : Bool) (eps : FP) (xs gain bias : List FP) : List FP × FP × FP :=
  let invN := div32 .one (ofInt xs.length)
  let mu := if layer then mul32 (orderedSum xs) invN else .zero
  let dev := xs.map fun x => sub32 x mu
  let v := mul32 (orderedSum (dev.map fun d => mul32 d d)) invN
  let rho := evalTable fixedRsqrt (add32 v eps)
  if xs.any FP.isNan then (xs.map fun _ => .nan, .nan, .nan)
  else
    let ys := (List.range xs.length).map fun i =>
      addOpt (mul32 (mul32 (dev.getD i .zero) rho) (gain.getD i .one)) (bias[i]?)
    (ys, mu, rho)

/-- REDUCE of a list along an axis (Table 7.5a): 0 sum, 1 max, 2 min, 3 sum of squares. NaN makes the result
NaN. -/
def reduceList (op : Nat) (xs : List FP) : FP :=
  if xs.any FP.isNan then .nan else
  match op with
  | 0 => orderedSum xs
  | 1 => match xs with
    | [] => .zero
    | x :: rest => rest.foldl fmax x
  | 2 => match xs with
    | [] => .zero
    | x :: rest => rest.foldl fmin x
  | _ => orderedSum (xs.map fun x => mul32 x x)

end Sys2Proof.Machine
end

