-- ==== Sys2Proof/Machine/MacroDesc.lean ====
section
/-! DEFINITION. Tensor descriptors and the checks of a macro-instruction at dispatch (R137, R139, R141 to R143,
Tables 7.4 to 7.8). -/

namespace Sys2Proof.Machine

/-- Fields of a tensor descriptor (Table 7.4). -/
def dFmt (d : List Byte) : Nat := field d 0 1
def dRank (d : List Byte) : Nat := field d 1 1
def dLenAxis (d : List Byte) : Nat := bits (field d 2 1) 0 2
def dLenValid (d : List Byte) : Bool := bit (field d 2 1) 2
def dBatchAxis (d : List Byte) : Nat := bits (field d 2 1) 3 2
def dBatchValid (d : List Byte) : Bool := bit (field d 2 1) 5
def dWritable (d : List Byte) : Bool := bit (field d 3 1) 0
def dPair (d : List Byte) : Bool := bit (field d 3 1) 1
def dScale (d : List Byte) : Nat := field d 4 4
def dBase (d : List Byte) : Nat := field d 8 5
def dExt (d : List Byte) (a : Nat) : Nat := field d (0x10 + 4 * a) 4
def dStride (d : List Byte) (a : Nat) : Nat := if a = 0 then 0 else field d (0x18 + 8 * a) 5

/-- The descriptor with another base address. -/
def dMoved (d : List Byte) (base : Nat) : List Byte := d.take 8 ++ leBytes 5 base ++ d.drop 13

/-- Bits of one element; ZB4 is counted by blocks. -/
def fmtBits (f : Nat) : Nat :=
  match f with
  | 0 => 32
  | 1 => 16
  | 2 => 16
  | 7 => 1
  | _ => 8

/-- Bytes that `n` elements of axis 0 occupy (R137). -/
def rowSpan (f n : Nat) : Nat := if f = 6 then 18 * (n / 32) else (n * fmtBits f + 7) / 8

/-- Bytes of a row of axis 0. -/
def dRow (d : List Byte) : Nat := rowSpan (dFmt d) (dExt d 0)

/-- The descriptor names no element. -/
def dEmpty (d : List Byte) : Bool := (List.range 4).any fun a => dExt d a == 0

/-- The end of the tensor's span. -/
def dEnd (d : List Byte) : Nat :=
  if dEmpty d then dBase d
  else dBase d + (dExt d 1 - 1) * dStride d 1 + (dExt d 2 - 1) * dStride d 2 + (dExt d 3 - 1) * dStride d 3 + dRow d

/-- The address of a row. -/
def dAddr (d : List Byte) (i1 i2 i3 : Nat) : Nat := dBase d + i1 * dStride d 1 + i2 * dStride d 2 + i3 * dStride d 3

/-- The rows of a descriptor, as indices of axes 1, 2 and 3 in order. -/
def dRows (d : List Byte) : List (Nat × Nat × Nat) :=
  (List.range (dExt d 3)).flatMap fun i3 => (List.range (dExt d 2)).flatMap fun i2 =>
    (List.range (dExt d 1)).map fun i1 => (i1, i2, i3)

/-- A scale that its format allows (Table 7.4): finite, positive and normal for FP8 and INT8, else 0. -/
def scaleOk (f v : Nat) : Bool :=
  if f = 3 ∨ f = 4 ∨ f = 5 then !bit v 31 && decide (1 ≤ bits v 23 8) && decide (bits v 23 8 ≤ 254) else decide (v = 0)

/-- What a slot of a macro-instruction takes (Tables 7.5 and 7.6). -/
structure RoleSpec where
  present : Bool := true
  isRequired : Bool := true
  out : Bool := false
  pair : Bool := false
  fmts : List Nat := []
  /-- Rows of 4 or 8 bytes that are written as padded granules (ATTEND's state, statistics, REDUCE over axis 0). -/
  small : Bool := false
  /-- An output that is read as well (Table 7.5). -/
  readToo : Bool := false
deriving DecidableEq, Repr, Inhabited

/-- The rows of Tables 7.5 and 7.6 for a macro code; param decides whether O may be narrow (R176). -/
def rolesOf (code param : Nat) : List RoleSpec :=
  let none_ : RoleSpec := { present := false }
  let opt (f : List Nat) : RoleSpec := { isRequired := false, fmts := f }
  let vec := [0, 1, 2, 3, 4]
  let tens := [1, 2, 3, 4]
  match code with
  | 1 => [{ fmts := [1, 2, 3, 4, 5, 6] }, { fmts := [1, 2, 3, 4, 5, 6] }, { out := true, fmts := vec },
      opt [0, 1], opt [0, 1], none_]
  | 2 => [{ fmts := tens }, { fmts := tens }, { fmts := tens },
      { out := true, fmts := if bit param 0 && bit param 1 then vec else [0] },
      { out := true, fmts := [0], small := true, readToo := true }, opt [7]]
  | 3 => [{ fmts := tens }, { fmts := tens }, { out := true, pair := true, fmts := [1], readToo := true }, { fmts := tens },
      { fmts := [0] }, { out := true, pair := true, fmts := [0, 1] }]
  | 4 => [{ fmts := vec }, { out := true, fmts := vec }, none_, none_, none_, none_]
  | 5 => [{ fmts := vec }, { fmts := [0, 1] }, opt [0, 1], { out := true, fmts := vec },
      { isRequired := false, out := true, fmts := [0], small := true }, none_]
  | 6 => [{ fmts := [0, 1, 2, 3, 4, 5] }, { out := true, fmts := [0], small := decide (bits param 2 2 = 0) }, none_, none_, none_, none_]
  | 7 => [{ fmts := List.range 8 }, { out := true, fmts := List.range 8 }, none_, none_, none_, none_]
  | 8 => [{ fmts := List.range 8 }, { out := true, fmts := List.range 8 }, none_, none_, none_, none_]
  | _ => [{ fmts := [0, 1, 3] }, { fmts := [0] }, { fmts := [0, 1, 3] }, { out := true, fmts := [0] }, none_, none_]

/-- The first reason of R139 that a descriptor gives in its role, in ascending code; 0 when none.
DEDUCED, log entry 71. -/
def descReason (r : RoleSpec) (d : List Byte) : Nat :=
  let rank := dRank d
  let badExtent : Bool := (List.range 4).any fun a =>
    if rank ≤ a then decide (dExt d a ≠ 1)
    else if dExt d a = 0 then !((dLenValid d && dLenAxis d == a) || (dBatchValid d && dBatchAxis d == a))
    else decide (2 ^ 31 ≤ dExt d a)
  if !r.fmts.contains (dFmt d) then 0x01
  else if rank < 1 ∨ 4 < rank ∨ badExtent
      ∨ (dLenValid d ∧ rank ≤ dLenAxis d) ∨ (dBatchValid d ∧ rank ≤ dBatchAxis d)
      ∨ (dPair d ∧ dExt d (rank - 1) ≠ 2) ∨ (r.pair ∧ ¬ dPair d)
      ∨ (dFmt d = 6 ∧ dExt d 0 % 32 ≠ 0) ∨ (dFmt d = 7 ∧ dExt d 0 % 8 ≠ 0)
      ∨ (dWritable d ∧ ¬ r.small ∧ dRow d % 32 ≠ 0) then 0x02
  else if dBase d % 32 ≠ 0 then 0x03
  else if (List.range 4).any (fun a => dStride d a % 32 != 0 || (decide (rank ≤ a) && dStride d a != 0)) then 0x04
  else if 2 ^ 40 ≤ dEnd d then 0x05
  else if bits (field d 2 1) 6 2 ≠ 0 ∨ bits (field d 3 1) 2 6 ≠ 0 ∨ field d 0xD 3 ≠ 0 ∨ field d 0x38 8 ≠ 0
      ∨ field d 0x25 3 ≠ 0 ∨ field d 0x2D 3 ≠ 0 ∨ field d 0x35 3 ≠ 0 then 0x06
  else if r.out ∧ ¬ dWritable d then 0x07
  else if !scaleOk (dFmt d) (dScale d) then 0x08
  else 0

/-- A slot's descriptor: none for 0xFFFF. -/
abbrev Slot := Option (List Byte)

/-- The first slot, with its reason, whose descriptor is invalid (0x0111). -/
def slotFault : Nat → List RoleSpec → List Slot → Option (Nat × Nat)
  | k, r :: rs, d :: ds =>
    let here : Option (Nat × Nat) :=
      if !r.present then none
      else
        match d with
        | none => if r.isRequired then some (k, 0x09) else none
        | some b => if descReason r b = 0 then none else some (k, descReason r b)
    match here with
    | some f => some f
    | none => slotFault (k + 1) rs ds
  | _, _, _ => none

/-- Format rules across slots (R141): INT8 pairs only with INT8, INT8 products are FP32, HOIST keeps its format. -/
def crossFault (code : Nat) (ds : List Slot) : Option (Nat × Nat) :=
  let f (i : Nat) : Nat := dFmt ((ds.getD i none).getD [])
  if code = 1 ∧ (f 0 = 5 ∧ f 1 ≠ 5 ∨ f 0 ≠ 5 ∧ f 1 = 5) then some (1, 0x01)
  else if code = 1 ∧ f 0 = 5 ∧ f 2 ≠ 0 then some (2, 0x01)
  else if code = 7 ∧ f 0 ≠ f 1 then some (1, 0x01)
  else none

/-- The extents of axes 0 to 3. -/
def dExts (d : List Byte) : List Nat := (List.range 4).map (dExt d)

/-- The extents without a pair's axis. -/
def unpaired (d : List Byte) : List Nat := (dExts d).set (dRank d - 1) 1

/-- Table 7.7: the lower of two slots whose shapes disagree. -/
def shapeFault (code param : Nat) (ds : List Slot) : Option Nat :=
  let d (i : Nat) : List Byte := (ds.getD i none).getD []
  let has (i : Nat) : Bool := (ds.getD i none).isSome
  let x (i a : Nat) : Nat := dExt (d i) a
  let group := bits param 4 8
  match code with
  | 1 =>
    let k := x 0 0
    let m := x 0 1
    let n := if bit param 0 then x 1 1 else x 1 0
    let kb := if bit param 0 then x 1 0 else x 1 1
    if kb ≠ k then some 0
    else if x 2 1 ≠ m ∨ x 2 2 ≠ x 0 2 ∨ x 2 3 ≠ x 0 3 then some 0
    else if x 2 0 ≠ n then some 1
    else if (x 1 2 ≠ x 0 2 ∧ x 1 2 ≠ 1) ∨ (x 1 3 ≠ x 0 3 ∧ x 1 3 ≠ 1) then some 0
    else if has 3 ∧ (dRank (d 3) ≠ 1 ∨ x 3 0 ≠ n) then some 2
    else if has 4 ∧ dExts (d 4) ≠ dExts (d 2) then some 2
    else none
  | 2 =>
    if !([64, 128, 256].contains (x 0 0)) ∨ dExts (d 0) ≠ dExts (d 1) then some 0
    else if x 2 0 ≠ x 0 0 ∨ x 2 2 ≠ x 0 2 * group ∨ x 2 3 ≠ x 0 3 then some 0
    else if dExts (d 3) ≠ dExts (d 2) then some 2
    else if x 4 0 ≠ 2 ∨ x 4 1 ≠ x 2 1 ∨ x 4 2 ≠ x 2 2 ∨ x 4 3 ≠ x 2 3 then some 2
    else if has 5 ∧ (x 5 0 ≠ x 0 1 ∨ x 5 2 ≠ x 0 3) then some 0
    else if has 5 ∧ x 5 1 ≠ x 2 1 then some 2
    else none
  | 3 =>
    let q := unpaired (d 2)
    let kv := unpaired (d 5)
    if !([64, 128, 256].contains (x 0 0)) ∨ dExts (d 0) ≠ dExts (d 1) then some 0
    else if q.getD 0 0 ≠ x 0 0 ∨ q.getD 2 1 ≠ x 0 2 * group ∨ q.getD 3 1 ≠ x 0 3 then some 0
    else if dExts (d 3) ≠ q then some 2
    else if x 4 0 ≠ 3 ∨ x 4 1 ≠ q.getD 1 1 ∨ x 4 2 ≠ q.getD 2 1 ∨ x 4 3 ≠ q.getD 3 1 then some 2
    else if kv ≠ dExts (d 0) then some 0
    else none
  | 5 =>
    if dExts (d 3) ≠ dExts (d 0) then some 0
    else if dRank (d 1) ≠ 1 ∨ x 1 0 ≠ x 0 0 then some 0
    else if has 2 ∧ (dRank (d 2) ≠ 1 ∨ x 2 0 ≠ x 0 0) then some 0
    else if has 4 ∧ (x 4 0 ≠ 2 ∨ x 4 1 ≠ x 0 1 ∨ x 4 2 ≠ x 0 2 ∨ x 4 3 ≠ x 0 3) then some 0
    else none
  | 6 =>
    let ax := bits param 2 2
    if dRank (d 0) ≤ ax then some 0
    else if dExts (d 1) ≠ (dExts (d 0)).set ax 1 then some 0
    else none
  | 9 =>
    let k := bits param 0 11
    if dRank (d 0) ≠ 2 ∨ dRank (d 1) ≠ 3 ∨ x 1 0 ≠ 8 ∨ x 1 2 ≠ x 0 1 then some 0
    else if dRank (d 2) ≠ 2 ∨ x 2 0 ≠ x 0 0 then some 0
    else if dRank (d 3) ≠ 3 ∨ x 3 0 ≠ 8 ∨ x 3 1 < k ∨ x 3 2 ≠ x 0 1 then some 0
    else none
  | _ => if dExts (d 1) ≠ dExts (d 0) then some 0 else none

/-- Do two tensors' spans overlap? -/
def spansMeet (a b : List Byte) : Bool :=
  !dEmpty a && !dEmpty b && decide (dBase a < dEnd b) && decide (dBase b < dEnd a)

/-- The very same tensor: one base and the same strides (R142). -/
def sameTensor (a b : List Byte) : Bool :=
  dBase a == dBase b && (List.range 4).all fun i => dStride a i == dStride b i

/-- The lower of two slots, one an output and one an input, whose spans overlap (R142). -/
def overlapFault (code param : Nat) (ds : List Slot) : Option Nat :=
  let roles := rolesOf code param
  let d (i : Nat) : List Byte := (ds.getD i none).getD []
  let used (i : Nat) : Bool := (ds.getD i none).isSome && (roles.getD i { present := false }).present
  let out (i : Nat) : Bool := (roles.getD i { present := false }).out
  let inp (i : Nat) : Bool := !out i || (roles.getD i { present := false }).readToo
  let excused (i j : Nat) : Bool :=
    sameTensor (d i) (d j) &&
      ((code == 4 && i == 0 && j == 1)
        || (code == 5 && i == 0 && j == 3)
        || (code == 8 && i == 0 && j == 1 && rowSpan (dFmt (d 0)) 256 == rowSpan (dFmt (d 1)) 256))
  let pairs := (List.range 6).flatMap fun i => ((List.range 6).filter fun j => i < j).map fun j => (i, j)
  (pairs.find? fun p =>
    used p.1 && used p.2 && (out p.1 && inp p.2 || inp p.1 && out p.2) && !excused p.1 p.2 && spansMeet (d p.1) (d p.2)).map (·.1)

/-- The descriptors of a macro-instruction pass every check, or give a cause and detail (R139, R141, R142). -/
def descFault (code param : Nat) (ds : List Slot) : Option (Nat × Nat) :=
  match slotFault 0 (rolesOf code param) ds with
  | some (k, r) => some (0x0111, k + 2 ^ 8 * r)
  | none =>
    match crossFault code ds with
    | some (k, r) => some (0x0111, k + 2 ^ 8 * r)
    | none =>
      match shapeFault code param ds with
      | some k => some (0x0112, k)
      | none => (overlapFault code param ds).map fun k => (0x0112, k)

/-- The stable part of a program set header (Table 7.8, R143): the offset of the first failing field. -/
def programFault (code : Nat) (h : List Byte) : Option Nat :=
  if field h 0 4 ≠ 0x5A525053 then some 0
  else if field h 4 1 ≠ 0x11 then some 4
  else if field h 5 1 ≠ code then some 5
  else if 48 < field h 6 2 then some 6
  else if field h 8 4 % 64 ≠ 0 ∨ field h 8 4 < 64 ∨ 262144 < field h 8 4 then some 8
  else if field h 0xC 4 ≠ 0 then some 0xC
  else none

end Sys2Proof.Machine
end

