-- ==== Sys2Proof/Machine/MacroRun.lean ====
section
/-! DEFINITION. What the tile groups of a macro-instruction do to claim memory (R135, R153 to R182, R325): rows are read
and written through the claim's pages, and the block of a tile group takes effect at its last K chunk or position
group. -/

namespace Sys2Proof.Machine

/-- Run an action for each element of a list and collect the answers. -/
def runEach {α β : Type} (f : α → State → Run β) : List α → State → Run (List β)
  | [], s => (s, .ok [])
  | a :: as, s => (f a s).andThen fun b s1 => (runEach f as s1).andThen fun bs s2 => (s2, .ok (b :: bs))

/-- The elements of a row's bytes in a format (R149 to R152), widened exactly. -/
def decodeRow (f : Nat) (n : Nat) (bs : List Byte) : List FP :=
  match Fmt.ofCode f with
  | some g => (List.range n).map fun i => decodeElem g (field bs (i * (fmtBits f / 8)) (fmtBits f / 8))
  | none =>
    if f = 6 then ((List.range (n / 32)).map fun i => zb4Decode (bytesAt bs (18 * i) 18)).flatten
    else (List.range n).map fun i => if bit (field bs (i / 8) 1) (i % 8) then FP.one else FP.zero

/-- The numeric note of elements: NaN and infinities (R162). -/
def noteFP (xs : List FP) : Nat :=
  xs.foldl (fun a x => match x with
    | .nan => a ||| 1
    | .inf _ => a ||| 2
    | _ => a) 0

/-- The numeric note of a row's bytes as a format holds them (R162). -/
def noteBytes (f n : Nat) (bs : List Byte) : Nat := noteFP (decodeRow f n bs)

/-- The scale of a descriptor's elements; 1 for the formats that have none (R154). -/
def scaleFPOf (d : List Byte) : FP := if dFmt d = 3 ∨ dFmt d = 4 ∨ dFmt d = 5 then f32 (dScale d) else .one

/-- A format whose elements carry a scale. -/
def hasScale (d : List Byte) : Bool := dFmt d == 3 || dFmt d == 4 || dFmt d == 5

/-- Read a row of a tensor as elements. -/
def readRow (n : Nat) (d : List Byte) (i : Nat × Nat × Nat) (s : State) : Run (List FP) :=
  (readClaim s n (dAddr d i.1 i.2.1 i.2.2) (dRow d)).andThen fun bs s1 => (s1, .ok (decodeRow (dFmt d) (dExt d 0) bs))

/-- Read `len` elements of a row from element `lo`: the operand that one tile group needs (R135). -/
def readSlice (n : Nat) (d : List Byte) (i : Nat × Nat × Nat) (lo len : Nat) (s : State) : Run (List FP) :=
  (readClaim s n (dAddr d i.1 i.2.1 i.2.2 + rowSpan (dFmt d) lo) (rowSpan (dFmt d) len)).andThen fun bs s1 => (s1, .ok (decodeRow (dFmt d) len bs))

/-- Read a row with its scale applied element by element (R154, other engines). -/
def readScaled (n : Nat) (d : List Byte) (i : Nat × Nat × Nat) (s : State) : Run (List FP) :=
  (readRow n d i s).andThen fun xs s1 => (s1, .ok (if hasScale d then xs.map fun x => mul32 x (scaleFPOf d) else xs))

/-- Bytes padded with zeros to whole granules (R336). -/
def padGranule (bs : List Byte) : List Byte := bs ++ List.replicate ((32 - bs.length % 32) % 32) 0#8

/-- The bytes of output elements in a descriptor's format (R154, R157). -/
def encodeRow (d : List Byte) (xs : List FP) : List Byte :=
  match Fmt.ofCode (dFmt d) with
  | some g =>
    (xs.map fun x =>
      let y := if hasScale d then div32 x (scaleFPOf d) else x
      leBytes (fmtBits (dFmt d) / 8) (encodeElem g (convertOut g y))).flatten
  | none => []

/-- The numeric note of values written to an output (R162): NaN or infinity as the format holds it. -/
def noteOf (d : List Byte) (xs : List FP) : Nat :=
  match Fmt.ofCode (dFmt d) with
  | some g => noteFP (xs.map fun x => convertOut g (if hasScale d then div32 x (scaleFPOf d) else x))
  | none => 0

/-- Write elements from element `col` of a row; the answer is the note. -/
def writeRow (n : Nat) (d : List Byte) (i : Nat × Nat × Nat) (col : Nat) (xs : List FP) (s : State) : Run Nat :=
  (writeClaim s n (dAddr d i.1 i.2.1 i.2.2 + col * (fmtBits (dFmt d) / 8)) (padGranule (encodeRow d xs))).andThen
    fun _ s1 => (s1, .ok (noteOf d xs))

/-- The descriptor in a slot. -/
def MacroInst.desc (m : MacroInst) (i : Nat) : List Byte := m.descs.getD i []

/-- A slot is present. -/
def MacroInst.has (m : MacroInst) (i : Nat) : Bool := !(m.desc i).isEmpty

/-- Index `i` of axis `a` of desc0 belongs to the part (R123). -/
def inCut (m : MacroInst) (a i : Nat) : Bool :=
  let d := m.desc 0
  (!(dLenValid d && dLenAxis d == a) || m.cut.lenN == 0 || (decide (m.cut.lenLo ≤ i) && decide (i < m.cut.lenLo + m.cut.lenN)))
    && (!(dBatchValid d && dBatchAxis d == a) || m.cut.batchN == 0
        || (decide (m.cut.batchLo ≤ i) && decide (i < m.cut.batchLo + m.cut.batchN)))

/-- A part cut along axis 0, the axis of whole rows, acts only as the piece that holds the axis's last index (R123).
DEDUCED, log entry 112. -/
def rowPart (m : MacroInst) : Bool := inCut m 0 (dExt (m.desc 0) 0 - 1)

/-- The part is the first or last along the positions of ATTEND (R123); a split along another axis carries no state. -/
def firstPart (m : MacroInst) : Bool := m.cut.firstLen || dLenAxis (m.desc 0) != 1
def lastPart (m : MacroInst) : Bool := m.cut.lastLen || dLenAxis (m.desc 0) != 1

/-- Whole blocks of `b` in `n`, rounded up. -/
def ceilDiv (n b : Nat) : Nat := (n + b - 1) / b

/-- Largest K of a tile group (Table 7.3). -/
def largestK (fa fb : Nat) : Nat :=
  if fa = 1 ∨ fa = 2 ∨ fb = 1 ∨ fb = 2 then 4096 else if fa = 6 ∧ fb = 6 then 16384 else 8192

/-- K chunks of MATMUL. -/
def kChunks (m : MacroInst) : Nat := max 1 (ceilDiv (dExt (m.desc 0) 0) (largestK (dFmt (m.desc 0)) (dFmt (m.desc 1))))

/-- Position groups of ATTEND and ATTEND_BWD. -/
def posGroups (m : MacroInst) : Nat := max 1 (ceilDiv (dExt (m.desc 0) 1) 1024)

/-- The tile groups of a macro-instruction in the walk's order (R135). -/
def groupCount (m : MacroInst) : Nat :=
  let d0 := m.desc 0
  if dEmpty d0 then 0
  else
    match m.code with
    | 1 => dExt d0 2 * dExt d0 3 * ceilDiv (dExt d0 1) 64 * ceilDiv (dExt (m.desc 2) 0) 128 * kChunks m
    | 2 => dExt (m.desc 2) 3 * dExt (m.desc 2) 2 * ceilDiv (dExt (m.desc 2) 1) 64 * posGroups m
    | 3 => dExt d0 3 * dExt (m.desc 3) 2 * ceilDiv (dExt (m.desc 3) 1) 64 * posGroups m
    | _ => max 1 (ceilDiv ((dRows d0).length * dRow d0) 65536)

/-- Combine a list of notes. -/
def orNotes (ns : List Nat) : Nat := ns.foldl (· ||| ·) 0

/-- The 64 × 128 output block of a MATMUL that a block of the walk is (R135): batch indices, then its rows and first
column; no row where the part has none of it. -/
structure MatBlock where
  b2 : Nat
  b3 : Nat
  rows : List Nat
  col : Nat
  cols : List Nat
deriving DecidableEq, Repr, Inhabited

/-- The block of a place in the walk: serpentine over the columns, batch indices outermost (R135). -/
def matBlock (m : MacroInst) (blk : Nat) : MatBlock :=
  let d0 := m.desc 0
  let cols := ceilDiv (dExt (m.desc 2) 0) 128
  let rows := ceilDiv (dExt d0 1) 64
  let i := blk / cols % rows
  let jj := blk % cols
  let j := if i % 2 = 0 then jj else cols - 1 - jj
  let b2 := blk / cols / rows % dExt d0 2
  let b3 := blk / cols / rows / dExt d0 2
  { b2 := b2, b3 := b3, col := 128 * j
    rows := if rowPart m && inCut m 2 b2 && inCut m 3 b3 then (rangeFrom (64 * i) 64).filter fun x => x < dExt d0 1 && inCut m 1 x else []
    cols := (rangeFrom (128 * j) 128).filter fun x => x < dExt (m.desc 2) 0 }

/-- One K chunk of a MATMUL block (R135, R153, R154): its accumulators by row, from those of the chunks before, and its
note. -/
def matmulGroup (m : MacroInst) (x : MatBlock) (chunk : Nat) (acc : List (List Word32)) (s : State) : Run (Nat × List (List Word32)) :=
  let a := m.desc 0
  let b := m.desc 1
  let n := m.claim
  let bi2 := if dExt b 2 = 1 then 0 else x.b2
  let bi3 := if dExt b 3 = 1 then 0 else x.b3
  let lk := largestK (dFmt a) (dFmt b)
  let lo := lk * chunk
  let len := min lk (dExt a 0 - lo)
  let scale := mul32 (scaleFPOf a) (scaleFPOf b)
  let trans := bit m.param 0
  if x.rows = [] then (s, .ok (0, []))
  else
    (runEach (fun k s => if trans then readSlice n b (k, bi2, bi3) lo len s else readSlice n b (k, bi2, bi3) x.col x.cols.length s)
      (if trans then x.cols else rangeFrom lo len) s).andThen fun bRows s =>
    (runEach (fun (r : Nat × Nat) s =>
      (readSlice n a (r.1, x.b2, x.b3) lo len s).andThen fun xs s =>
        let row := acc.getD r.2 []
        let colOf (c : Nat) : List FP := if trans then bRows.getD c [] else bRows.map fun v => v.getD c .zero
        (s, .ok ((List.range x.cols.length).map fun c => matmulChunk (decide (dFmt a = 5)) scale row[c]? xs (colOf c)))) x.rows.zipIdx s).andThen
      fun rs s => (s, .ok (if rs.any fun r => r.any (·.2) then 4 else 0, rs.map fun r => r.map (·.1)))

/-- The end of a MATMUL block's K walk: the rest of R153 and the writes of C; the answer is the note. -/
def matmulWrite (m : MacroInst) (x : MatBlock) (acc : List (List Word32)) (s : State) : Run Nat :=
  let a := m.desc 0
  let c := m.desc 2
  let n := m.claim
  (if m.has 3 then readScaled n (m.desc 3) (0, 0, 0) s else (s, .ok [])).andThen fun bias s =>
  (runEach (fun (r : Nat × Nat) s =>
    (if bit m.param 1 then readScaled n c (r.1, x.b2, x.b3) s else (s, .ok [])).andThen fun old s =>
    (if m.has 4 then readScaled n (m.desc 4) (r.1, x.b2, x.b3) s else (s, .ok [])).andThen fun add s =>
      let es := ((acc.getD r.2 []).zip x.cols).map fun e =>
        matmulEnd { int8 := decide (dFmt a = 5), scale := mul32 (scaleFPOf a) (scaleFPOf (m.desc 1)), old := old[e.2]?, bias := bias[e.2]?,
                    addend := add[e.2]?, epilogue := m.table.map (·.2.2) } e.1
      writeRow n c (r.1, x.b2, x.b3) x.col es s) x.rows.zipIdx s).andThen fun ns s => (s, .ok (orNotes ns))

/-- A tile group of MATMUL: its chunk, and with the last one the block's writes. -/
def matmulRun (m : MacroInst) (blk chunk : Nat) (acc : List (List Word32)) (s : State) : Run (Nat × List (List Word32)) :=
  let x := matBlock m blk
  (matmulGroup m x chunk acc s).andThen fun r s =>
    if chunk + 1 < kChunks m then (s, .ok r)
    else (matmulWrite m x r.2 s).andThen fun note s => (s, .ok (r.1 ||| note, []))

/-- The position indices of a part, in groups of 1,024 counted from position 0 (R177). -/
def positionGroups (m : MacroInst) : List (List Nat) :=
  (List.range (posGroups m)).map fun g =>
    ((rangeFrom (1024 * g) 1024).filter fun p => p < dExt (m.desc 0) 1 && inCut m 1 p)

/-- Is position p admitted for row r of a batch (R173)? `mask` is the row of desc5. -/
def admitted (m : MacroInst) (mask : List FP) (rows p r : Nat) : Bool :=
  (mask.isEmpty || !(mask.getD p .zero).isZero)
    && (!bit m.param 2 || decide (p + rows ≤ r + dExt (m.desc 0) 1))

/-- σ: param's score scale (R177). -/
def sigmaOf (param : Nat) : FP := decodeElem .bf16 (bits param 16 16)

/-- The 8 bytes of state of a row, kept in T0 between a deal's calls (R272). A row that no call has written is an
uncorrectable read of T0 (R133, R335). -/
def roundRow (s : State) (c : Nat) (i : Nat × Nat × Nat) : ReadEnd (List Byte) :=
  match (tget s.rounds.ctrls c).armed.bind fun a => a.rows.find? fun r => r.1 == i with
  | some r => .ok r.2
  | none => .error (0x040A, 0)

/-- Read a row's state: from claim memory, or from T0 in a round (R175, R272). DEDUCED, log entry 73. -/
def readRowState (m : MacroInst) (i : Nat × Nat × Nat) (s : State) : Run (List Byte) :=
  match m.owner with
  | .round c => (s, roundRow s c i)
  | .item _ _ _ _ => readClaim s m.claim (dAddr (m.desc 4) i.1 i.2.1 i.2.2) 8

/-- Write a row's state: to claim memory, or to T0 while a deal's last call is still to come (R175, R272). -/
def writeRowState (m : MacroInst) (fin : Bool) (i : Nat × Nat × Nat) (b : List Byte) (s : State) : Run Unit :=
  match m.owner with
  | .round c =>
    if fin then writeClaim s m.claim (dAddr (m.desc 4) i.1 i.2.1 i.2.2) (padGranule b)
    else
      ({ s with rounds := { s.rounds with ctrls := tmod s.rounds.ctrls c fun r =>
          { r with armed := r.armed.map fun a => { a with rows := (i, b) :: a.rows.filter fun x => x.1 != i } } } }, .ok ())
  | .item _ _ _ _ => writeClaim s m.claim (dAddr (m.desc 4) i.1 i.2.1 i.2.2) (padGranule b)

/-- A length split whose O is narrower than FP32 carries its accumulators from part to part in FP32 (R135, R176, R180).
DEDUCED, log entry 130. -/
def carries (m : MacroInst) : Bool := decide (dFmt (m.desc 3) ≠ 0)

/-- Read one row's soft-maximum state and accumulator, or start them (R175). -/
def readState (m : MacroInst) (i : Nat × Nat × Nat) (s : State) : Run AttRow :=
  let o := m.desc 3
  if bit m.param 0 && firstPart m then
    (s, .ok { recallFlag := bit m.param 3, acc := List.replicate (dExt o 0) .zero })
  else
    (readRowState m i s).andThen fun b s =>
    ((if carries m then (s, .ok (((m.carry.find? fun r => r.1 == i).map (·.2)).getD [] |>.map fun a => decodeElem .fp32 a.toNat))
      else readRow m.claim o i s : Run (List FP))).andThen fun acc s =>
      (s, .ok { m := f32 (field b 0 4), s := f32 (bits (field b 4 4) 0 31), recallFlag := bit (field b 4 4) 31 || bit m.param 3, acc := acc })

/-- The answer of a block that has ended: its note, and the rows that the part carries on. -/
abbrev BlockEnd := Nat × List ((Nat × Nat × Nat) × List Word32)

/-- ATTEND's 64 rows of one head (R177, R178): its note, and the accumulators that the part carries on. -/
def attendBlock (m : MacroInst) (b3 h i : Nat) (s : State) : Run BlockEnd :=
  let k := m.desc 0
  let v := m.desc 1
  let q := m.desc 2
  let o := m.desc 3
  let n := m.claim
  let kv := h / max 1 (bits m.param 4 8)
  let rows := (rangeFrom (64 * i) 64).filter fun r => r < dExt q 1
  let fin := bit m.param 1 && lastPart m
  if !(rowPart m && inCut m 2 kv && inCut m 3 b3) then (s, .ok (0, []))
  else
    (runEach (fun ps s => runEach (fun p s =>
      (readRow n k (p, kv, b3) s).andThen fun ks s =>
      (readRow n v (p, kv, b3) s).andThen fun vs s => (s, .ok (p, ks, vs))) ps s) (positionGroups m) s).andThen fun groups s =>
    (runEach (fun r s =>
      (readRow n q (r, h, b3) s).andThen fun qs s =>
      (if m.has 5 then readRow n (m.desc 5) (r, b3, 0) s else (s, .ok [])).andThen fun mask s =>
      (readState m (r, h, b3) s).andThen fun st0 s =>
        let sc := mul32 (scaleFPOf q) (scaleFPOf k)
        let st := groups.foldl (fun st g =>
          attGroup (dFmt v == 3 || dFmt v == 4) (scaleFPOf v) st (g.map fun p =>
            (if admitted m mask (dExt q 1) p.1 r then some (attScore sc (sigmaOf m.param) qs p.2.1) else none, p.2.2))) st0
        let out := if fin then attFinish st else st.acc
        let stateBytes := leBytes 4 (encodeElem .fp32 st.m) ++ leBytes 4 (encodeElem .fp32 st.s % 2 ^ 31 + 2 ^ 31 * b2n st.recallFlag)
        let keep := !fin && carries m
        ((if keep then (s, .ok 0) else writeRow n o (r, h, b3) 0 out s : Run Nat)).andThen fun note s =>
        (writeRowState m fin (r, h, b3) stateBytes s).andThen fun _ s =>
          (s, .ok (note ||| (if st.m.isNan || st.s.isNan then 1 else 0),
            if keep then [((r, h, b3), out.map fun x => BitVec.ofNat 32 (encodeElem .fp32 x))] else []))) rows s).andThen
      fun ns s => (s, .ok (orNotes (ns.map (·.1)), (ns.map (·.2)).flatten))

/-- The tensor of a pair: its second tensor starts one step of axis rank − 1 further (Table 7.4). -/
def pairSecond (d : List Byte) : List Byte := dMoved d (dBase d + dStride d (dRank d - 1))

/-- What ATTEND_BWD forms for one row (R181): P and dS at each position, with q and dO. -/
structure BwdRow where
  p : List FP
  ds : List FP
  q : List FP
  dO : List FP
deriving DecidableEq, Repr, Inhabited

/-- The positions of a part with their rows of K and V, for a batch index and key/value head. -/
def bwdKeys (m : MacroInst) (b3 kv : Nat) (s : State) : Run (List (Nat × List FP × List FP)) :=
  runEach (fun p s =>
    (readRow m.claim (m.desc 0) (p, kv, b3) s).andThen fun ks s =>
    (readRow m.claim (m.desc 1) (p, kv, b3) s).andThen fun vs s => (s, .ok (p, ks, vs)))
    ((List.range (dExt (m.desc 0) 1)).filter fun p => inCut m 1 p) s

/-- What ATTEND_BWD forms for row r of query head h (R181). -/
def bwdRow (m : MacroInst) (kvs : List (Nat × List FP × List FP)) (b3 h r : Nat) (s : State) : Run BwdRow :=
  let n := m.claim
  let q := m.desc 2
  (readRow n q (r, h, b3) s).andThen fun qs s =>
  (readRow n (m.desc 3) (r, h, b3) s).andThen fun dO s =>
  (readRow n (m.desc 4) (r, h, b3) s).andThen fun st s =>
    let ws := kvs.map fun p =>
      let score := attScore (mul32 (scaleFPOf q) (scaleFPOf (m.desc 0))) (sigmaOf m.param) qs p.2.1
      let dP := tensorDot (mul32 (scaleFPOf (m.desc 3)) (scaleFPOf (m.desc 1))) dO p.2.2
      bwdWeights (st.getD 0 .zero) (st.getD 1 .zero).abs (st.getD 2 .zero) score dP !(admitted m [] (dExt (m.desc 3) 1) p.1 r)
    (s, .ok ⟨ws.map (·.1), ws.map (·.2), qs, dO⟩)

/-- dQ of one row accumulates onto its old value (R181). -/
def bwdQuery (m : MacroInst) (kvs : List (Nat × List FP × List FP)) (b3 h r : Nat) (s : State) : Run Nat :=
  let dq := pairSecond (m.desc 2)
  (bwdRow m kvs b3 h r s).andThen fun w s =>
  (readRow m.claim dq (r, h, b3) s).andThen fun old s =>
    writeRow m.claim dq (r, h, b3) 0 ((List.range (dExt (m.desc 0) 0)).map fun d =>
      let prods := List.zipWith (fun x p => fmul x (p.2.1.getD d .zero)) w.ds kvs
      accSigma (scaleFPOf (m.desc 0)) (sigmaOf m.param) (groupsOf prods) (old.getD d .zero) prods) s

/-- dK and dV of every position of a key/value head: sums over the rows of its query heads (R181). -/
def bwdKeysOut (m : MacroInst) (kvs : List (Nat × List FP × List FP)) (b3 kv : Nat) (s : State) : Run Nat :=
  let group := max 1 (bits m.param 4 8)
  let qRows := dExt (m.desc 3) 1
  (runEach (fun hr s => bwdRow m kvs b3 (group * kv + hr / qRows) (hr % qRows) s) (List.range (group * qRows)) s).andThen fun rs s =>
  (runEach (fun (p : (Nat × List FP × List FP) × Nat) s =>
    let col (f g : BwdRow → List FP) (sc : FP) (d : Nat) : FP :=
      let prods := rs.map fun r => fmul ((f r).getD p.2 .zero) ((g r).getD d .zero)
      (accProducts sc (groupsOf prods) none prods).getD .zero
    let ds := List.range (dExt (m.desc 0) 0)
    (writeRow m.claim (m.desc 5) (p.1.1, kv, b3) 0 (ds.map fun d => mul32 (col (·.ds) (·.q) (scaleFPOf (m.desc 2)) d) (sigmaOf m.param)) s).andThen
      fun n1 s =>
    (writeRow m.claim (pairSecond (m.desc 5)) (p.1.1, kv, b3) 0 (ds.map fun d => col (·.p) (·.dO) (scaleFPOf (m.desc 3)) d) s).andThen
      fun n2 s => (s, .ok (n1 ||| n2))) kvs.zipIdx s).andThen fun ns s => (s, .ok (orNotes ns))

/-- ATTEND_BWD's 64 rows of one query head (R135, R181): their dQ; the last block of a key/value head's query heads forms
its dK and dV. -/
def backwardBlock (m : MacroInst) (b3 h i : Nat) (s : State) : Run Nat :=
  let group := max 1 (bits m.param 4 8)
  let kv := h / group
  let qRows := dExt (m.desc 3) 1
  if !(rowPart m && inCut m 2 kv && inCut m 3 b3) then (s, .ok 0)
  else
    (bwdKeys m b3 kv s).andThen fun kvs s =>
    (runEach (fun r s => bwdQuery m kvs b3 h r s) ((rangeFrom (64 * i) 64).filter fun r => r < qRows) s).andThen fun ns s =>
    (if h % group + 1 = group ∧ i + 1 = ceilDiv qRows 64 then bwdKeysOut m kvs b3 kv s else (s, .ok 0)).andThen fun n s =>
      (s, .ok (orNotes (n :: ns)))

/-- The rows of desc0 that lie in its 64 KiB block `b`, by where they start in row order (R135). -/
def blockRows (m : MacroInst) (b : Nat) : List (Nat × Nat × Nat) :=
  let d := m.desc 0
  ((dRows d).zipIdx.filter fun r => decide (r.2 * dRow d / 65536 = b) && rowPart m
    && inCut m 1 r.1.1 && inCut m 2 r.1.2.1 && inCut m 3 r.1.2.2).map (·.1)

/-- SFN of one row (R166). -/
def sfnRow (m : MacroInst) (i : Nat × Nat × Nat) (s : State) : Run Nat :=
  let t := (m.table.map (·.2.2)).getD {}
  (readScaled m.claim (m.desc 0) i s).andThen fun xs s => writeRow m.claim (m.desc 1) i 0 (xs.map (evalTable t)) s

/-- NORM of one row (R182). -/
def normRowRun (m : MacroInst) (i : Nat × Nat × Nat) (s : State) : Run Nat :=
  let n := m.claim
  (readScaled n (m.desc 0) i s).andThen fun xs s =>
  (readScaled n (m.desc 1) (0, 0, 0) s).andThen fun gain s =>
  (if m.has 2 then readScaled n (m.desc 2) (0, 0, 0) s else (s, .ok [])).andThen fun bias s =>
    let r := normRow (bit m.param 0) (sigmaOf m.param) xs gain bias
    (writeRow n (m.desc 3) i 0 r.1 s).andThen fun n1 s =>
    (if m.has 4 then writeRow n (m.desc 4) i 0 [r.2.1, r.2.2] s else (s, .ok 0)).andThen fun n2 s => (s, .ok (n1 ||| n2))

/-- HOIST of one row: its bytes (R155). -/
def hoistRow (m : MacroInst) (i : Nat × Nat × Nat) (s : State) : Run Nat :=
  let d := m.desc 0
  (readClaim s m.claim (dAddr d i.1 i.2.1 i.2.2) (dRow d)).andThen fun bs s =>
  (writeClaim s m.claim (dAddr (m.desc 1) i.1 i.2.1 i.2.2) (padGranule bs)).andThen fun _ s => (s, .ok (noteBytes (dFmt d) (dExt d 0) bs))

/-- Bits as bytes, least significant first (R152). -/
def packBits : Nat → List Bool → List Byte
  | 0, _ => []
  | n + 1, bs => BitVec.ofNat 8 (((bs.take 8).zipIdx.map fun b => b2n b.1 * 2 ^ b.2).foldl (· + ·) 0) :: packBits n (bs.drop 8)

/-- The bytes and note of CONVERT's output row (R151, R159 to R162). -/
def convertRow (dIn dOut : List Byte) (param : Nat) (raw : List Byte) : List Byte × Nat :=
  let n := dExt dIn 0
  let mode := RMode.ofCode (bits param 0 2)
  let sat := bit param 2
  if dFmt dIn = dFmt dOut ∧ 6 ≤ dFmt dIn then (raw, noteBytes (dFmt dIn) n raw)
  else
    let xs0 := decodeRow (dFmt dIn) n raw
    let xs1 := if hasScale dIn then xs0.map fun x => mul32 x (scaleFPOf dIn) else xs0
    let xs := if hasScale dOut then xs1.map fun x => div32 x (scaleFPOf dOut) else xs1
    match Fmt.ofCode (dFmt dOut) with
    | some f =>
      let es := xs.map fun x => convertElem f mode sat x
      ((es.map fun e => leBytes (fmtBits (dFmt dOut) / 8) e).flatten, noteFP (es.map (decodeElem f)))
    | none =>
      if dFmt dOut = 6 then
        let bs := (List.range (n / 32)).map fun i => zb4Encode mode sat ((xs.drop (32 * i)).take 32)
        ((bs.map (·.1)).flatten, orNotes (bs.map fun b => (if b.2 then 8 else 0) ||| (if field b.1 0 1 = 0xFF then 1 else 0)))
      else (packBits ((n + 7) / 8) (xs.map fun x => flt .zero x), 0)

/-- CONVERT of one row (R159). -/
def convertRowRun (m : MacroInst) (i : Nat × Nat × Nat) (s : State) : Run Nat :=
  let d := m.desc 0
  (readClaim s m.claim (dAddr d i.1 i.2.1 i.2.2) (dRow d)).andThen fun bs s =>
    let r := convertRow d (m.desc 1) m.param bs
    (writeClaim s m.claim (dAddr (m.desc 1) i.1 i.2.1 i.2.2) (padGranule r.1)).andThen fun _ s => (s, .ok r.2)

/-- REDUCE over axis 0, 1, 2 or 3 of one output row (Table 7.5a, R155). -/
def reduceRow (m : MacroInst) (i : Nat × Nat × Nat) (s : State) : Run Nat :=
  let d := m.desc 0
  let op := bits m.param 0 2
  let ax := bits m.param 2 2
  let at_ (k : Nat) : Nat × Nat × Nat := match ax with
    | 1 => (k, i.2.1, i.2.2)
    | 2 => (i.1, k, i.2.2)
    | _ => (i.1, i.2.1, k)
  if ax = 0 then
    (readScaled m.claim d i s).andThen fun xs s => writeRow m.claim (m.desc 1) i 0 [reduceList op xs] s
  else
    (runEach (fun k s => readScaled m.claim d (at_ k) s) (List.range (dExt d ax)) s).andThen fun rs s =>
      writeRow m.claim (m.desc 1) i 0 ((List.range (dExt d 0)).map fun c => reduceList op (rs.map fun r => r.getD c .zero)) s

/-- The output rows whose last contributing row of desc0 lies in its block `b` (R135). -/
def reducedRows (m : MacroInst) (b : Nat) : List (Nat × Nat × Nat) :=
  let last := dExt (m.desc 0) (bits m.param 2 2) - 1
  (blockRows m b).filterMap fun i => match bits m.param 2 2 with
    | 0 => some i
    | 1 => if i.1 = last then some (0, i.2.1, i.2.2) else none
    | 2 => if i.2.1 = last then some (i.1, 0, i.2.2) else none
    | _ => if i.2.2 = last then some (i.1, i.2.1, 0) else none

/-- A candidate's score by the param metric (R325). -/
def rerankScore (metric : Nat) (sc : FP) (q x : List FP) (qs xs : List FP) : FP :=
  let sq (l : List FP) : FP := orderedSum (l.map fun a => mul32 a a)
  match metric with
  | 0 => fneg (tensorDot sc q x)
  | 1 => orderedSum (List.zipWith (fun a b => mul32 (sub32 a b) (sub32 a b)) qs xs)
  | _ =>
    if (sq qs).isZero ∨ (sq xs).isZero then .zero
    else fneg (mul32 (tensorDot sc q x) (mul32 (evalTable fixedRsqrt (sq qs)) (evalTable fixedRsqrt (sq xs))))

/-- NaN orders after +∞ among scores (R325). -/
def scoreBefore (a b : FP × Nat) : Bool :=
  if a.1.isNan then b.1.isNan && decide (a.2 < b.2)
  else b.1.isNan || flt a.1 b.1 || (!flt b.1 a.1 && decide (a.2 < b.2))

/-- Insert by (score, item id). -/
def insertScore (x : (FP × Nat) × List Byte) : List ((FP × Nat) × List Byte) → List ((FP × Nat) × List Byte)
  | [] => [x]
  | y :: ys => if scoreBefore x.1 y.1 then x :: y :: ys else y :: insertScore x ys

/-- A padding record (R318): every byte 0 but a score of +∞. -/
def padRecord : List Byte := List.replicate 8 0#8 ++ leBytes 4 0x7F800000 ++ List.replicate 20 0#8

/-- ASSAY_RERANK of one query (R325). -/
def rerankQuery (m : MacroInst) (qi : Nat) (s : State) : Run Nat :=
  let dq := m.desc 0
  let dc := m.desc 1
  let dx := m.desc 2
  let n := m.claim
  let k := bits m.param 0 11
  (readRow n dq (qi, 0, 0) s).andThen fun q s =>
  (runEach (fun c s =>
    (readClaim s n (dAddr dc c qi 0) 32).andThen fun r s =>
      let id := field r 0 6
      if !bit (field r 6 2) 0 then (s, .ok none)
      else if dExt dx 1 ≤ id then (s, .error (0x0603, 0))
      else
        (readRow n dx (id, 0, 0) s).andThen fun x s =>
          let sc (d : List Byte) (l : List FP) : List FP := if hasScale d then l.map fun v => mul32 v (scaleFPOf d) else l
          (s, .ok (some ((rerankScore (bits m.param 11 2) (mul32 (scaleFPOf dq) (scaleFPOf dx)) q x (sc dq q) (sc dx x), id), r))))
    (List.range (dExt dc 1)) s).andThen fun cs s =>
    let best := ((cs.filterMap fun c => c).foldl (fun l c => insertScore c l) []).take k
    let recs := best.map fun c => c.2.take 8 ++ leBytes 4 (encodeElem .fp32 c.1.1) ++ bytesAt c.2 0xC 6 ++ List.replicate 14 0#8
    let out := recs ++ List.replicate (k - recs.length) padRecord
    (runEach (fun (r : List Byte × Nat) s => writeClaim s n (dAddr (m.desc 3) r.2 qi 0) r.1) out.zipIdx s).andThen fun _ s =>
      (s, .ok (noteFP (best.map fun c => rnd32 c.1.1)))

/-- The tile groups that each block of the walk has: K chunks or position groups (R135). -/
def chunksOf (m : MacroInst) : Nat :=
  match m.code with
  | 1 => kChunks m
  | 2 => posGroups m
  | 3 => posGroups m
  | _ => 1

/-- What a tile group leaves: its note, the accumulators that its block goes on with, and the rows that its part carries on. -/
structure GroupEnd where
  note : Nat := 0
  acc : List (List Word32) := []
  carry : List ((Nat × Nat × Nat) × List Word32) := []
deriving DecidableEq, Repr, Inhabited

/-- The rows of a block of desc0, one by one. -/
def runRows (f : Nat × Nat × Nat → State → Run Nat) (is : List (Nat × Nat × Nat)) (s : State) : Run GroupEnd :=
  (runEach f is s).andThen fun ns s => (s, .ok { note := orNotes ns })

/-- The effect of one tile group, a chunk of a block of the walk (R135); the rows of ATTEND and ATTEND_BWD take effect with
their last position group. DEDUCED, log entry 72. -/
def runGroup (m : MacroInst) (w : GroupWork) (s : State) : Run GroupEnd :=
  let last := decide (w.chunk + 1 = chunksOf m)
  match m.code with
  | 1 => (matmulRun m w.block w.chunk w.acc s).andThen fun r s => (s, .ok { note := r.1, acc := r.2 })
  | 2 =>
    let q := m.desc 2
    let rows := ceilDiv (dExt q 1) 64
    if last then
      (attendBlock m (w.block / rows / dExt q 2) (w.block / rows % dExt q 2) (w.block % rows) s).andThen fun r s =>
        (s, .ok { note := r.1, carry := r.2 })
    else (s, .ok {})
  | 3 =>
    let q := m.desc 3
    let rows := ceilDiv (dExt q 1) 64
    if last then
      (backwardBlock m (w.block / rows / dExt q 2) (w.block / rows % dExt q 2) (w.block % rows) s).andThen fun n s => (s, .ok { note := n })
    else (s, .ok {})
  | 4 => runRows (sfnRow m) (blockRows m w.block) s
  | 5 => runRows (normRowRun m) (blockRows m w.block) s
  | 6 => runRows (reduceRow m) (reducedRows m w.block) s
  | 7 => runRows (hoistRow m) (blockRows m w.block) s
  | 8 => runRows (convertRowRun m) (blockRows m w.block) s
  | _ => runRows (fun i s => rerankQuery m i.1 s) (blockRows m w.block) s

end Sys2Proof.Machine
end

