-- ==== Sys2Proof/Machine/MacroOps.lean ====
section
/-! DEFINITION. A macro-instruction from its MACRO command to the end of its tile groups (R117, R118, R122, R123, R132,
R133, R139 to R146, R168, R171, R391). -/

namespace Sys2Proof.Machine

/-- Operand fields of a MACRO command (Table 5.4). -/
def mcCode (b : List Byte) : Nat := field b 6 1
def mcLane (b : List Byte) : Nat := field b 7 1
def mcProgram (b : List Byte) : Nat := field b 8 5
def mcDesc (b : List Byte) (i : Nat) : Nat := field b (0x10 + 2 * i) 2
def mcParam (b : List Byte) : Nat := field b 0x1C 4

/-- Macro-instructions in a lane's dispatch queue. -/
def laneQueued (s : State) (l : Nat) : Nat := (tget s.dl.lanes l).queue.length

/-- The Dealer may choose a lane for a claim: it is not fenced, and not bound to another claim (R117). -/
def laneEligible (s : State) (claim l : Nat) : Bool := !laneFenced s l && (rtClaimOf s l).all (· == claim)

/-- The Dealer's own choice of a lane for a claim (R117). -/
def dealerLane (s : State) (claim : Nat) : Option Nat :=
  (List.range 16).foldl (fun best l =>
    if !laneEligible s claim l then best
    else match best with
      | none => some l
      | some b => if laneQueued s l < laneQueued s b then some l else best) none

/-- The lane of a MACRO in central mode, where `before` is the lane chosen for it earlier, if any (R77, R117). A claim's
bound lane that is fenced takes nothing new (R369): its MACRO waits. -/
def chooseLane (s : State) (claim named before : Nat) : Option Nat :=
  match (if effClass s claim = 3 then rtLaneOf s claim else none) with
  | some l => if laneFenced s l then none else some l
  | none =>
    if named < 16 ∧ ¬ laneFenced s named then some named
    else if before < 16 ∧ laneEligible s claim before then some before
    else dealerLane s claim

/-- The lane of a MACRO of a level: a sub-deck's own lane, or a chosen one; 16 while none is eligible. -/
def laneFor (s : State) (shoe : Nat) (lv : Level) (named before : Nat) : Nat :=
  match lv.kind with
  | .lane l _ => l
  | _ => (chooseLane s shoe named before).getD 16

/-- A lane's sub-deck can have no more done on the lane: the lane is fenced and cannot finish its work, or has no unfenced
core (R369). -/
def laneDead (s : State) (l : Nat) : Bool :=
  let u := tget s.fences.lanes l
  (u.fenced && !(u.powered && u.enabled && !u.faulted)) || (laneCores l).all fun c => (tget s.fences.cores c).fenced

/-- The parts of a MACRO command, in order. -/
def partsOf (s : State) (shoe seq l g : Nat) : List MacroInst :=
  s.dl.macros.filter fun m => m.owner == .item shoe seq l g && !m.stopping

/-- A MACRO of a code starts: the Dealer has evaluated it, and it waits to be dispatched (R117, R118). -/
def macroCmd (s : State) (shoe seq l code : Nat) : State :=
  match nextCmd s shoe seq l 0x01 with
  | none => s
  | some (lv, g, b) =>
    if mcCode b = code then heldCmd s shoe seq l g b (.macroWait (laneFor s shoe lv (mcLane b) 16)) else s

/-- Read the descriptors a MACRO names, slot by slot (R138, R139); 0xFFFF names none. -/
def readDescs (claim : Nat) (b : List Byte) (s : State) : Run (List Slot) :=
  runEach (fun i s =>
    if mcDesc b i = 0xFFFF then (s, .ok none)
    else (readClaim s claim (descBase + 64 * mcDesc b i) 64).andThen fun d s => (s, .ok (some d))) (List.range 6) s

/-- The table slot that a macro-instruction uses (R166, Table 7.5a). -/
def tableSlotOf (code param : Nat) : Option Nat :=
  if code = 4 then some (bits param 0 5) else if code = 1 ∧ bit param 7 then some (bits param 2 5) else none

/-- Latch the current bank of the slot in use (R168, R171): none when the slot is empty. -/
def latchTable (s : State) (code param : Nat) : Option (Option (Nat × Bool × SfnTable)) :=
  match tableSlotOf code param with
  | none => some none
  | some k => (tget s.dl.slots k).table.map fun t => some (k, (tget s.dl.slots k).bank, t)

/-- A slot marked None in Table 7.5 that holds an index is a malformed command (R93). DEDUCED, log entry 111. -/
def noneSlotUsed (b : List Byte) : Bool :=
  (rolesOf (mcCode b) (mcParam b)).zipIdx.any fun p => !p.1.present && mcDesc b p.2 != 0xFFFF

/-- The check of the program set (R143, R144): its bytes, or the failure. -/
def readProgram (claim code va : Nat) (s : State) : Run (List Byte) :=
  (readClaim s claim va 64).andThen fun h s =>
    match programFault code h with
    | some off => (s, .error (0x0113, off))
    | none =>
      (readClaim s claim va (field h 8 4)).andThen fun set_ s =>
        if Config.programPrivateOk set_ then (s, .ok set_) else (s, .error (0x0113, 0xFF))

/-- Pieces of an extent: (start, length, first, last), cut at `top` where the program set has buckets (R123). -/
def cutExtent (bucketed : Bool) (n top : Nat) : List (Nat × Nat × Bool × Bool) :=
  if !bucketed || decide (n ≤ top) then [(0, n, true, true)]
  else
    let k := (n + top - 1) / top
    (List.range k).map fun i => (top * i, min top (n - top * i), decide (i = 0), decide (i + 1 = k))

/-- The length and batch extents of desc0 (R122); 1 without the axis. -/
def lengthExt (d : List Byte) : Nat := if dLenValid d then dExt d (dLenAxis d) else 1
def batchExt (d : List Byte) : Nat := if dBatchValid d then dExt d (dBatchAxis d) else 1

/-- The smallest bucket of a list that holds an extent; the largest one where none does (R122). -/
def bucketOf (bs : List Nat) (n : Nat) : Nat := (bs.find? fun b => decide (n ≤ b)).getD (bs.getLastD 0)

/-- The length and batch buckets of a part (R122). -/
def lengthBucket (n : Nat) : Nat := bucketOf [512, 1024, 2048, 4096, 8192] n
def batchBucket (n : Nat) : Nat := bucketOf [1, 8, 32, 128] n

/-- The cuts of a MACRO's parts, length pieces within batch pieces (R123). DEDUCED, log entry 75. -/
def cutsOf (bucketed : Bool) (d0 : List Byte) : List PartCut :=
  (cutExtent bucketed (batchExt d0) 128).flatMap fun y =>
    (cutExtent bucketed (lengthExt d0) 8192).map fun x =>
      { lenLo := x.1, lenN := x.2.1, batchLo := y.1, batchN := y.2.1, firstLen := x.2.2.1, lastLen := x.2.2.2 }

/-- How many parts a MACRO needs, without forming them. -/
def partCount (bucketed : Bool) (d0 : List Byte) : Nat :=
  if bucketed then max 1 ((lengthExt d0 + 8191) / 8192) * max 1 ((batchExt d0 + 127) / 128) else 1

/-- A part enters its lane's dispatch queue (R118). -/
def enterLane (s : State) (mid lane : Nat) : State :=
  (s.modDl fun d =>
    { d with lanes := tmod d.lanes lane fun x => { x with queue := x.queue ++ [mid], dispatched := x.dispatched ++ [mid] } }).modMacro
      mid fun m => { m with lane := some lane, age := s.now }

/-- A part has been dispatched to a lane, and not given back (R118). -/
def onLane (s : State) (m : MacroInst) : Bool := s.dl.lanes.toList.any fun l => l.dispatched.contains m.id

/-- Parts not yet on a lane enter one in order, until its queue is full; the MACRO no longer waits in the Dealer when every
part is placed (R118, R123). -/
def placeParts (shoe seq l g lane : Nat) : List MacroInst → State → State
  | [], s => setActive s shoe seq l g (.macroRun ((partsOf s shoe seq l g).map (·.id)))
  | m :: ms, s =>
    if onLane s m then placeParts shoe seq l g lane ms s
    else if laneQueued s lane < 16 then placeParts shoe seq l g lane ms (enterLane s m.id lane)
    else setActive s shoe seq l g (.macroWait lane)

/-- A MACRO's descriptors, program set and table have passed: its parts are made and placed, or it completes at once
when an extent is 0 (R122, R123). -/
def makeParts (s : State) (shoe seq l g lane : Nat) (b : List Byte) (ds : List Slot) (set_ : List Byte)
    (table : Option (Nat × Bool × SfnTable)) : State :=
  let d0 := (ds.getD 0 none).getD []
  let bucketed := Config.programBucketed set_
  if ds.any fun d => match d with
    | some x => dEmpty x
    | none => false then completeCmd s shoe seq l g
  else if 4096 < partCount bucketed d0 then failAt s shoe seq l g 0x010A
  else
    let base := s.dl.nextMacro
    let parts := (cutsOf bucketed d0).zipIdx.map fun c =>
      let m : MacroInst :=
        { id := base + c.2, claim := shoe, owner := .item shoe seq l g, code := mcCode b, programVa := mcProgram b, param := mcParam b, descs := ds.map (·.getD []), t0Units := field set_ 6 2, lane := some lane, cut := c.1, table := table, age := s.now, header := bytesAt set_ 0 64 }
      { m with groups := groupCount m, chunks := chunksOf m }
    let s1 := s.modDl fun d => { d with macros := d.macros ++ parts, nextMacro := base + parts.length }
    placeParts shoe seq l g lane parts s1

/-- MACRO_DISPATCH: the Dealer reads and checks what a waiting MACRO names and sends its dispatch records to its lane
(R118, R122, R123, R139 to R146, R168, R171). `redealFault` is what a malformed command found here does. -/
def dispatchMacro (s : State) (shoe seq l g : Nat) (redealFault : State → State) : State :=
  match activeCmd s shoe seq l g with
  | none => s
  | some (lv, a, b) =>
    match a.st with
    | .macroWait lane0 =>
      if s.redealing ∨ shoeHalted s shoe then s
      else
        let lane := laneFor s shoe lv (mcLane b) lane0
        if 16 ≤ lane then s
        else if lv.onLane ∧ laneDead s lane then failAt s shoe seq l g 0x0702 (1 + 2 ^ 8 * lane)
        else match partsOf s shoe seq l g with
        | m :: ms => placeParts shoe seq l g lane (m :: ms) s
        | [] =>
          if 16 ≤ laneQueued s lane then setActive s shoe seq l g (.macroWait lane)
          else
            if noneSlotUsed b then redealFault s
            else
              match readDescs shoe b s with
              | (s, .error e) => failAt s shoe seq l g e.1 e.2
              | (s, .ok ds) =>
                match descFault (mcCode b) (mcParam b) ds with
                | some e => failAt s shoe seq l g e.1 e.2
                | none =>
                  match readProgram shoe (mcCode b) (mcProgram b) s with
                  | (s, .error e) => failAt s shoe seq l g e.1 e.2
                  | (s, .ok set_) =>
                    match latchTable s (mcCode b) (mcParam b) with
                    | none => failAt s shoe seq l g 0x0115
                    | some t => makeParts s shoe seq l g lane b ds set_ t
    | _ => s

/-- The lane grants its next requester: that part leaves the dispatch queue for the lane's cores (R76, R118). -/
def laneGrant (s : State) (l : Nat) : State :=
  match arbWinner s (.lane l) with
  | none => s
  | some m =>
    ((grantNext s (.lane l)).modDl fun d =>
      { d with lanes := tmod d.lanes l fun x => { x with queue := x.queue.filter (· != m.id) } }).modMacro m.id
        fun m => { m with phase := .dispatched, age := s.now }

/-- ARBITRATION_GRANT at an engine: the ended grant is charged and the next is made (R71, R72). A core whose context is in
a tile group keeps its grant until that group ends, which is a command of its own (R76). -/
def engineGrant (s : State) (e : Engine) (ns : Nat) : State :=
  match e with
  | .lane l => laneGrant (chargeGrant s e ns) l
  | .core c =>
    match (tget s.dl.cores c).current.bind (findMacro s) with
    | some _ => s
    | none => followRail (grantNext (chargeGrant s e ns) e) (c / 24)

/-- Free T0 units of a core, lowest first (R133). -/
def freeUnitList (c : Core) : List Nat := (List.range 48).filter fun u => (tget c.units u).use_ = .free

/-- A core may take a macro-instruction: a free context and its working set (R132, R133). -/
def coreReady (s : State) (m : MacroInst) (c : Nat) : Bool :=
  let x := tget s.dl.cores c
  decide (x.contexts.length < 12) && decide (m.t0Units ≤ (freeUnitList x).length)

/-- A unit passes to a use of a claim: a change of owner sets its check bits to the never-written pattern, and none of its
bytes has been written since (R133). -/
def takeUnit (claim : Nat) (use_ : T0Use) (t : T0Unit) : T0Unit :=
  { t with use_ := use_, last := some claim, unwritten := t.unwritten || t.last != some claim, tested := false, written := 0 }

/-- The variant of a part's program set (R122, R145): its claim virtual address and bytes, at most 48 KiB. -/
def variantOf (m : MacroInst) : Nat × Nat :=
  let v := Config.programVariant m.header (lengthBucket m.cut.lenN) (batchBucket m.cut.batchN)
  let size := field m.header 8 4
  let off := v.1 % max 1 size
  (m.programVa + off, min v.2 (min 49152 (size - off)))

/-- The newest cache entries that fit in 64 KiB (R145). DESIGN CHOICE, log entry 113. -/
def cacheFit : Nat → List CacheEntry → List CacheEntry
  | _, [] => []
  | room, e :: es => if e.bytes.length ≤ room then e :: cacheFit (room - e.bytes.length) es else []

/-- A cache entry is a part's variant (R145). -/
def isVariant (m : MacroInst) (e : CacheEntry) : Bool := e.claim == m.claim && (e.va, e.bytes.length) == variantOf m

/-- A core's cache holds a part's variant. -/
def cacheHas (m : MacroInst) (c : Core) : Bool := c.cache.any (isVariant m)

/-- The program that a part runs on a core: the cached copy, or the one just read; a round's part has no program set (R140,
R145). -/
def programOn (m : MacroInst) (loaded : List Byte) (c : Core) : List Byte :=
  match m.owner with
  | .round _ => []
  | .item _ _ _ _ => ((c.cache.find? (isVariant m)).map (·.bytes)).getD loaded

/-- The cache after a part has started on a core (R145). -/
def cacheAfter (m : MacroInst) (loaded : List Byte) (c : Core) : List CacheEntry :=
  match m.owner with
  | .round _ => c.cache
  | .item _ _ _ _ =>
    cacheFit 65536 ({ claim := m.claim, va := (variantOf m).1, bytes := programOn m loaded c } :: c.cache.filter fun e => !isVariant m e)

/-- A core wakes from P1 (R391) and takes the macro-instruction into a context with its working set, its program and its
rank among `count` participants (R140). -/
def coreTake (m : MacroInst) (mhz rank count : Nat) (loaded : List Byte) (c : Core) : Core :=
  let us := (freeUnitList c).take m.t0Units
  let k := (List.range 12).findIdx fun i => (tget c.slots i).isNone
  let x := startContext (programOn m loaded c) rank count (tget c.ctxs k)
  { c with
    slots := tset c.slots k (some m.id)
    units := us.foldl (fun v u => tmod v u (takeUnit m.claim (.work m.id))) c.units
    gated := false
    clockMhz := if c.gated then mhz else c.clockMhz
    cache := cacheAfter m loaded c
    ctxs := tset c.ctxs k x
    seen := tset c.seen k { ctx := x } }

/-- The cores that take part in a macro-instruction (R140). -/
def participants (s : State) (cs : List Nat) : List Nat := cs.filter fun c => !(tget s.fences.cores c).fenced

/-- An earlier length part of the same batch piece is still to complete (R123). -/
def earlierPart (s : State) (m : MacroInst) : Bool :=
  s.dl.macros.any fun x => x.owner == m.owner && x.cut.batchLo == m.cut.batchLo && decide (x.cut.lenLo < m.cut.lenLo)

/-- The participants take their contexts and the macro-instruction runs (R140). -/
def takeCores (s : State) (m : MacroInst) (cs : List Nat) (loaded : List Byte) : State :=
  (s.modDl fun d =>
    { d with cores := cs.zipIdx.foldl (fun v c => tmod v c.1 (coreTake m (tget s.power.clocks (c.1 / 24)) c.2 cs.length loaded)) d.cores }).modMacro
      m.id fun x => { x with phase := .running, cores := cs, age := s.now }

/-- The program variant that missing cores read from claim memory at the start (R145). -/
def loadVariant (m : MacroInst) (cs : List Nat) (s : State) : Run (List Byte) :=
  if cs.all fun c => cacheHas m (tget s.dl.cores c) then (s, .ok [])
  else readClaim s m.claim (variantOf m).1 (variantOf m).2

/-- The cores of a mask (Table 13.2). -/
def maskCores (mask : Nat) : List Nat := (List.range 96).filter fun c => mask.testBit c

/-- The unfenced cores on which a macro-instruction may start: its lane's, or those its round names (R140). -/
def coresFor (s : State) (m : MacroInst) : List Nat :=
  match m.owner with
  | .round c => participants s (match (tget s.rounds.ctrls c).armed with
    | some a => maskCores a.coreMask
    | none => [])
  | .item _ _ _ _ => match m.lane with
    | some lane => participants s (laneCores lane)
    | none => []

/-- A macro-instruction part starts (R140): the state, or what ends its item. -/
def startMacro (s : State) (mid : Nat) : Run Unit :=
  match findMacro s mid with
  | none => (s, .ok ())
  | some m =>
    let cs := coresFor s m
    if m.phase ≠ .dispatched ∨ s.redealing ∨ shoeHalted s m.claim ∨ cs = [] ∨ earlierPart s m ∨ !cs.all (coreReady s m) then (s, .ok ())
    else
      match m.owner with
      | .round _ => (takeCores s m cs [], .ok ())
      | .item _ _ _ _ => (loadVariant m cs s).andThen fun loaded s => (takeCores s m cs loaded, .ok ())

/-- An abandoned macro-instruction ends its tile group on a core and leaves it (R76, R98). -/
def stopGroup (s : State) (m : MacroInst) (c : Nat) : State :=
  let s1 := match (m.takeBlock c).workOn c with
    | some w => (runGroup m w s).1
    | none => s
  let s2 := s1.modDl fun d => { d with cores := tmod d.cores c (leaveCore m.id) }
  let s3 := s2.modMacro m.id fun x => { x with nextGroup := x.nextGroup + 1 }
  if s3.dl.cores.toList.any fun x => x.contexts.contains m.id then s3 else removeMacro s3 m.id

/-- A core's work on its block after a tile group (R135): the next chunk, from the accumulators that the group left, or
none when the block is done. -/
def MacroInst.groupDone (m : MacroInst) (w : GroupWork) (r : GroupEnd) : MacroInst :=
  let rest := m.works.filter (·.core != w.core)
  { m with
    nextGroup := m.nextGroup + 1
    note := m.note ||| r.note
    carry := r.carry ++ m.carry.filter fun x => r.carry.all fun y => y.1 != x.1
    works := if w.chunk + 1 < m.chunks then rest ++ [{ w with chunk := w.chunk + 1, acc := r.acc, inT0 := false }] else rest }

/-- A part whose owner has ended leaves a core; with its last core, it is gone. -/
def leaveFailed (s : State) (mid c : Nat) : State :=
  let s1 := s.modDl fun d => { d with cores := tmod d.cores c (leaveCore mid) }
  if s1.dl.cores.toList.any fun x => x.contexts.contains mid then s1 else removeMacro s1 mid

/-- The context that a core runs has a tile group in progress. -/
def groupRuns (s : State) (c : Nat) : Bool :=
  match (tget s.dl.cores c).current.bind (findMacro s) with
  | none => false
  | some m => m.stopping || (m.phase == .running && !m.halted.contains c && m.workFor c)

/-- A context of the core has read T0 bytes that were never written (R133). -/
def Core.faulted (c : Core) (mid : Nat) : Bool := (tget c.ctxs (c.contextOf mid)).fault

/-- The tile group that a core's current context has ended takes effect (R132, R135): the next chunk of the core's block.
The answer is the part, and what ends its item or round. -/
def groupEnd (s : State) (c : Nat) : State × Option (MacroInst × Option (Nat × Nat)) :=
  match (tget s.dl.cores c).current.bind (findMacro s) with
  | none => (s, none)
  | some m =>
    if m.stopping then (stopGroup s m c, none)
    else if m.phase ≠ .running ∨ m.halted.contains c then (s, none)
    else
      match (m.takeBlock c).workOn c with
      | none => (s, none)
      | some w =>
        if (tget s.dl.cores c).faulted m.id then
          (s.modEcc fun e => { e with unwritten := satInc 32 e.unwritten }, some (m, some (0x040A, 0)))
        else
          match runGroup m w s with
          | (s, .error e) => (s, some (m, some e))
          | (s, .ok r) =>
            ((s.modMacro m.id fun x => (x.takeBlock c).groupDone w r).modDl fun d =>
              { d with cores := tmod d.cores c (endIssue m w.block w.chunk) }, some (m, none))

/-- At the end of a tile group, a context of a halted claim halts, and one that a debug step let run halts again (R386,
R387). -/
def endStep (s : State) (m : MacroInst) (c : Nat) : State :=
  let w := tget s.dbg.wins m.claim
  if w.halted then
    (s.modMacro m.id fun x => { x with halted := if x.halted.contains c then x.halted else c :: x.halted }) |> fun s =>
      { s with dbg := { s.dbg with wins := tmod s.dbg.wins m.claim fun w => { w with stepping := w.stepping.filter (· != (m.id, c)) } } }
  else s

/-- When another context takes a core, the old one's engine queues drain and its accumulators are in its T0 allocation
(R132). -/
def switchFrom (s : State) (c : Nat) (old : Option Nat) : State :=
  match old with
  | none => s
  | some mid =>
    if (tget s.dl.cores c).current = some mid then s
    else
      (s.modDl fun d => { d with cores := tmod d.cores c drainQueues }).modMacro mid fun m =>
        { m with works := m.works.map fun w => if w.core = c then { w with inT0 := true } else w }

/-- A core passes to its next context at the boundary (R72, R132). -/
def coreNext (s : State) (c ns : Nat) : State :=
  let s1 := chargeGrant s (.core c) ns
  let s2 := s1.modDl fun d =>
    { d with cores := tmod d.cores c fun x => { x with current := none, clockMhz := if x.gated then 0 else tget s.power.clocks (c / 24) } }
  switchFrom (followRail (grantNext s2 (.core c)) (c / 24)) c (tget s.dl.cores c).current

/-- The accumulators that a part of a length split carries pass to the next part of its batch piece (R123, R180). -/
def carryOn (s : State) (m : MacroInst) : State :=
  s.modDl fun d =>
    { d with
      macros := d.macros.map fun x =>
        if x.owner == m.owner && x.cut.batchLo == m.cut.batchLo && decide (x.cut.lenLo = m.cut.lenLo + m.cut.lenN)
            && decide (m.cut.lenN ≠ 0) then { x with carry := m.carry } else x }

/-- A part of a MACRO that has finished leaves its lane and cores; when none is left, the command completes (R123,
R140). -/
def finishPart (s : State) (m : MacroInst) (shoe seq l g : Nat) : State :=
  let s1 := removeMacro (carryOn s m) m.id
  let s2 := if m.note = 0 then s1 else noteItem s1 shoe seq 0x0021 m.note
  match partsOf s2 shoe seq l g with
  | [] => match activeCmd s2 shoe seq l g with
    | some (_, a, _) => (match a.st with
      | .macroRun _ => completeCmd s2 shoe seq l g
      | _ => s2)
    | none => s2
  | _ :: _ => s2

/-- Every participant has finished the part (R140). -/
def MacroInst.finished (m : MacroInst) : Bool := m.phase = .running && decide (m.groups ≤ m.nextGroup)

/-- P1_ENTRY: an idle core gates its clock (R391). -/
def gateCore (s : State) (c : Nat) : State :=
  s.modDl fun d => { d with cores := tmod d.cores c fun x => if x.contexts.isEmpty then { x with gated := true, clockMhz := 0, current := none } else x }

end Sys2Proof.Machine
end

