-- ==== Sys2Proof/Machine/RoundArm.lean ====
section
/-! DEFINITION. Arming a round (R267, R268, R221): the round parameter block, its checks and what arming takes. -/

namespace Sys2Proof.Machine

/-- Bytes of a dense tensor (R268): the rows of axis 0, one after the other. -/
def denseBytes (d : List Byte) : Nat := dRow d * dExt d 1 * dExt d 2 * dExt d 3

/-- The step of an axis of a dense tensor. -/
def denseStride (d : List Byte) (a : Nat) : Nat :=
  match a with
  | 1 => dRow d
  | 2 => dRow d * dExt d 1
  | _ => dRow d * dExt d 1 * dExt d 2

/-- Each stride below rank equals the span of the axes below it (R268). -/
def isDense (d : List Byte) : Bool :=
  [1, 2, 3].all fun a => decide (dRank d ≤ a) || decide (dStride d a = denseStride d a)

/-- A tensor descriptor's bytes (Table 7.4). -/
def mkDesc (fmt rank roles flags scale base : Nat) (exts strides : List Nat) : List Byte :=
  leBytes 1 fmt ++ leBytes 1 rank ++ leBytes 1 roles ++ leBytes 1 flags ++ leBytes 4 scale ++ leBytes 8 base
    ++ (exts.map (leBytes 4)).flatten ++ (strides.map (leBytes 8)).flatten ++ List.replicate 8 0#8

/-- A descriptor's tensor laid out densely from a base (R276). -/
def denseAt (d : List Byte) (base : Nat) : List Byte :=
  mkDesc (dFmt d) (dRank d) (field d 2 1) (field d 3 1) (dScale d) base (dExts d)
    ([1, 2, 3].map fun a => if a < dRank d then denseStride d a else 0)

/-- The most data a message holds (R243). -/
def messageLimit : Nat := 251657952

/-- The fields of Table 13.2 that bytes alone decide, with the offset at which each is reported. -/
def blockFields (b : List Byte) : List (Nat × Bool) :=
  let z (o n : Nat) : Nat × Bool := (o, decide (field b o n = 0))
  let n := field b 2 2
  let tc := field b 6 1
  let ct := field b 7 1
  let hz := field b 0x34 2
  let back := bit (field b 1 1) 0
  [(0x00, decide (field b 0 1 = 1)), (0x01, decide (field b 1 1 < 8)), (0x02, decide (1 ≤ n ∧ n ≤ 4096)),
    (0x04, decide (field b 4 2 < n)), (0x06, decide (1 ≤ tc ∧ tc ≤ 8)), (0x07, decide (ct = 0xFF ∨ (1 ≤ ct ∧ ct < tc))),
    (0x08, decide (field b 8 8 ≠ 0)), (0x10, decide (field b 0x10 5 % 32 = 0)), z 0x15 3, z 0x1E 2,
    (0x20, decide (100 ≤ field b 0x20 4 ∧ field b 0x20 4 ≤ 60000000)), (0x24, decide (1 ≤ field b 0x24 2)),
    (0x26, decide (field b 0x26 1 ≤ 16)), z 0x27 1, (0x28, decide (field b 0x28 12 ≠ 0)), (0x34, decide (hz ≤ 4095)), z 0x36 2,
    (0x38, decide (field b 0x38 5 % 32 = 0 ∧ (hz ≠ 0 ∨ field b 0x38 5 = 0))), z 0x3D 3,
    (0x40, decide (field b 0x40 5 % 65536 = 0)), z 0x45 3, (0x48, decide (field b 0x48 5 % 65536 = 0)), z 0x4D 3,
    (0x50, decide (field b 0x50 4 % 65536 = 0)), z 0x54 4]
    ++ [(0x64, back || decide (field b 0x64 2 = 0xFFFF)), z 0x66 2,
      (0x68, decide (bits (field b 0x68 4) 0 4 = 0) && paramOk (if back then 3 else 2) (field b 0x68 4)), z 0x6C 4]
    ++ (List.range 6).map (fun i => (0x70 + 8 * i, decide (field b (0x70 + 8 * i) 8 % 32 = 0 ∧ field b (0x75 + 8 * i) 3 = 0)))
    ++ (List.range 8).flatMap (fun i =>
      if i < tc then
        (if i = 0 then [(0xA4, decide (field b 0xA4 2 = 1))] else []) ++ [z (0xA6 + 8 * i) 2]
      else [z (0xA0 + 8 * i) 8])
    ++ [(0xE0, decide (field b 0xE0 8 % 32 = 0 ∧ field b 0xE5 3 = 0)), z 0xE8 24]

/-- The lowest field of the block that fails (0x0501). -/
def blockFault (b : List Byte) : Option Nat := ((blockFields b).find? fun f => !f.2).map (·.1)

/-- The seats of a seat table, with each entry's fourth byte. -/
def seatEntries (n : Nat) (t : List Byte) : List (Seat × Nat) :=
  (List.range n).map fun i => (seatAt t (4 * i), field t (4 * i + 3) 1)

/-- A seat table names this seat at `rank` and no coordinate outside the axes. -/
def seatTableOk (s : State) (rank : Nat) (es : List (Seat × Nat)) : Bool :=
  (es.getD rank ((0, 0, 0), 1)).1 == ownSeat s
    && es.all fun e => decide (e.2 = 0) && (List.range 3).all fun a => decide (e.1.axis a < s.image.dims.axis a)

/-- The tallies that trick entries name, claim-relative. -/
def trickTallies (b : List Byte) : List Nat :=
  (List.range (field b 6 1)).flatMap fun i => [field b (0xA0 + 8 * i) 2, field b (0xA2 + 8 * i) 2]

/-- A claim-relative tally is in range, READY and in no live trick. -/
def tallyFree (s : State) (n rel : Nat) : Bool :=
  match resolveTally s n rel with
  | none => false
  | some t => !(s.tally t).poisoned && (trickOfTally s t).isNone

/-- The first of the start, ready and done tallies that is not distinct, READY and outside every trick. -/
def roundTallyFault (s : State) (n : Nat) (b : List Byte) : Option Nat :=
  let ts := [0x18, 0x1A, 0x1C]
  ts.find? fun o =>
    let rel := field b o 2
    !tallyFree s n rel || (trickTallies b).contains rel || ts.any fun p => decide (p < o) && decide (field b p 2 = rel)

/-- Bytes of the partial pair (R276). -/
def partialBytes (back : Bool) (d5 : List Byte) : Nat := if back then denseBytes d5 else 0

/-- What the descriptors of a round must still meet (R268, R272, R276): the offset of the first field that fails. -/
def roundDescFault (b : List Byte) (ds : List Slot) (res : Slot) : Option Nat :=
  let back := bit (field b 1 1) 0
  let n := field b 2 2
  let d (i : Nat) : List Byte := (ds.getD i none).getD []
  let kv := denseBytes (d 0) + denseBytes (d 1)
  let p := partialBytes back (d 5)
  match descFault (if back then 3 else 2) (field b 0x68 4 + (if n = 1 ∧ !back then 3 else 0)) ds with
  | some (_, e) => some (0x58 + 2 * (e % 256))
  | none =>
    if !isDense (d 0) then some 0x58
    else if !isDense (d 1) then some 0x5A
    else if kv = 0 ∨ messageLimit < kv + 3 * p ∨ (back ∧ dExt (d 0) 3 ≠ 1) then some 0x58
    else if back ∧ 1 < n ∧ dFmt (d 5) ≠ 0 then some 0x62
    else if field b 0x50 4 < kv + 3 * p then some 0x50
    else if back then
      match res with
      | none => some 0x64
      | some r =>
        if descReason { out := true, pair := true, fmts := [0, 1] } r ≠ 0 ∨ dExts r ≠ dExts (d 5) ∨ dFmt r ≠ dFmt (d 5) then some 0x64 else none
    else none

/-- Read what arming reads once: the block, the seat table, the descriptors and the result's (R267). -/
def readRound (n va : Nat) (s : State) : Run (List Byte × List (Seat × Nat) × List Slot × Slot) :=
  (readClaim s n va 256).andThen fun b s =>
    match blockFault b with
    | some off => (s, .error (0x0501, off))
    | none =>
      (readClaim s n (field b 0x10 5) (4 * field b 2 2)).andThen fun st s =>
      let readDesc (idx : Nat) (s : State) : Run Slot :=
        if idx = 0xFFFF then (s, .ok none)
        else (readClaim s n (descBase + 64 * idx) 64).andThen fun d s => (s, .ok (some d))
      match (List.range 6).find? fun i => !descOk (s.claim n).descriptors (field b (0x58 + 2 * i) 2) true with
      | some i => (s, .error (0x0501, 0x58 + 2 * i))
      | none =>
        if !descOk (s.claim n).descriptors (field b 0x64 2) true then (s, .error (0x0501, 0x64))
        else
          (runEach (fun i s => readDesc (field b (0x58 + 2 * i) 2) s) (List.range 6) s).andThen fun ds s =>
          (readDesc (field b 0x64 2) s).andThen fun r s => (s, .ok (b, seatEntries (field b 2 2) st, ds, r))

/-- The pages of a round's two slots. -/
def slotPages (b : List Byte) : List Nat :=
  let k := field b 0x50 4 / 65536
  rangeFrom (field b 0x40 5 / 65536) k ++ rangeFrom (field b 0x48 5 / 65536) k

/-- One slot page is mapped and in T1, promoted at once if it is not (R268, check 6). -/
def slotPage (n page : Nat) (s : State) : Run Unit :=
  match translate s n (65536 * page) true with
  | .error e => (s, .error e)
  | .ok _ =>
    let s := if (moveOf s n page).any (·.promote) then commitCarry s n page else cancelMove s n page
    match pteOf s n page with
    | none => (s, .error (0x0403, page))
    | some p =>
      if !p.tier2 then (s, .ok ())
      else if !t1Room s n then (s, .error (0x0401, 0))
      else
        match startPromotion s n page n with
        | none => (clearNeeded s false n 1, .error (0x0402, 0))
        | some s1 => (commitCarry s1 n page, .ok ())

/-- The cause of a round's trick entries (R221, check 7). -/
def trickFault (s : State) (n : Nat) (b : List Byte) : Option Nat :=
  let live := (s.sync.tricks.toList.filter (·.isSome)).length
  if 64 < live + field b 6 1 then some 0x0521
  else if (trickTallies b).any (fun t => !tallyFree s n t) || decide ((trickTallies b).eraseDups.length ≠ (trickTallies b).length)
      || (List.range (field b 6 1)).any (fun i => decide (field b (0xA4 + 8 * i) 2 = 0)) then some 0x0522
  else none

/-- Pages of a claim's table gain or lose one pin. -/
def pinPages (s : State) (n : Nat) (pages : List Nat) : State :=
  pages.foldl (fun s pg => s.modPte n pg fun p => { p with pins := p.pins + 1 }) s
def unpinPages (s : State) (n : Nat) (pages : List Nat) : State :=
  pages.foldl (fun s pg => s.modPte n pg fun p => { p with pins := p.pins - 1 }) s

/-- The T0 units that a round's state takes on a core (R133). -/
def pinUnits (claim ctrl k : Nat) (c : Core) : Core :=
  { c with units := ((freeUnitList c).take k).foldl (fun v u => tmod v u (takeUnit claim (.pin ctrl))) c.units }

/-- A round of a claim and number that a controller holds. -/
def roundOf (s : State) (claim round : Nat) : Option Nat :=
  (List.range 16).find? fun c => match s.armed c with
    | some a => a.claim == claim && a.round == round
    | none => false

/-- Create the tricks of a round in the lowest free slots of the trick table (R221): the state and their slots. -/
def makeTricks (s : State) (n round : Nat) (b : List Byte) (seats : List Seat) : State × List Nat :=
  (List.range (field b 6 1)).foldl (fun (acc : State × List Nat) i =>
    let s := acc.1
    let base := (s.claim n).tallyBase
    match (List.range 64).find? fun k => (tget s.sync.tricks k).isNone with
    | none => acc
    | some k =>
      let t : Trick :=
        { claim := n, index := i, round := round, roundTag := field b 8 8, arriveTally := base + field b (0xA0 + 8 * i) 2, releaseTally := base + field b (0xA2 + 8 * i) 2, quota := field b (0xA4 + 8 * i) 2, seats := seats, lead := seats.head? == some (ownSeat s) }
      let zero (s : State) (n : Nat) : State := testTally (s.modTally n fun _ => {}) n
      (zero (zero (s.setTrick k (some t)) t.arriveTally) t.releaseTally, acc.2 ++ [k])) (s, [])

/-- The round that a block describes. -/
def armedOf (n round : Nat) (b : List Byte) (seats : List Seat) (ds : List Slot) (res : Slot) (tricks : List Nat) : Armed :=
  let ct := field b 7 1
  { claim := n, round := round, backward := bit (field b 1 1) 0, causal := bit (field b 1 1) 1, causalSkip := bit (field b 1 1) 2,
    seatCount := field b 2 2, rank := field b 4 2, seats := seats, commit := if ct = 0xFF then none else some ct, tag := field b 8 8,
    startTally := field b 0x18 2, readyTally := field b 0x1A 2, doneTally := field b 0x1C 2, timeoutUs := field b 0x20 4,
    dealCount := field b 0x24 2, stateUnits := field b 0x26 1, coreMask := field b 0x28 12, horizon := field b 0x34 2,
    recallVa := field b 0x38 5, slot0 := field b 0x40 5, slot1 := field b 0x48 5, slotBytes := field b 0x50 4,
    descs := ds.map (·.getD []), resultDesc := res.getD [], param := field b 0x68 4,
    strides := (List.range 6).map fun i => field b (0x70 + 8 * i) 5, resultStride := field b 0xE0 5, tricks := tricks, pins := slotPages b }

/-- Arming's own reset of one of a round's tallies (R268). -/
def setRoundTally (s : State) (n rel v : Nat) : State :=
  match resolveTally s n rel with
  | none => s
  | some t => testTally (s.modTally t fun x => { x with value := BitVec.ofNat 32 v }) t

/-- What arming does once every check has passed (R268). -/
def armRound (s : State) (n round ctrl : Nat) (b : List Byte) (seats : List Seat) (ds : List Slot) (res : Slot) : State :=
  let s1 := pinPages s n (slotPages b)
  let cs := maskCores (field b 0x28 12)
  let s2 := s1.modDl fun d => { d with cores := cs.foldl (fun v c => tmod v c (pinUnits n ctrl (field b 0x26 1))) d.cores }
  let mt := makeTricks s2 n round b seats
  let s3 := mt.1.modCtrl ctrl fun _ => { armed := some (armedOf n round b seats ds res mt.2) }
  let s4 := setRoundTally (setRoundTally (setRoundTally s3 n (field b 0x18 2) 0) n (field b 0x1C 2) 0) n (field b 0x1A 2) 2
  agentAdd s4 ((s4.claim n).tallyBase + field b 0xA0 2) 1

/-- ROUND_ARM with a block: the checks of R268 in order, then arming; or the cause and detail. -/
def tryArm (n round va : Nat) (s : State) : Run Unit :=
  match readRound n va s with
  | (s, .error e) => (s, .error e)
  | (s, .ok (b, es, ds, res)) =>
    let seats := es.map (·.1)
    if !seatTableOk s (field b 4 2) es then (s, .error (0x0501, 0x10))
    else
      match roundTallyFault s n b with
      | some off => (s, .error (0x0501, off))
      | none =>
        match roundDescFault b ds res with
        | some off => (s, .error (0x0501, off))
        | none =>
          let cs := maskCores (field b 0x28 12)
          if (List.range 16).any fun c => match s.armed c with
              | some a => a.round == round
              | none => false then (s, .error (0x0502, 0))
          else
            match (List.range 16).find? fun c => (s.armed c).isNone with
            | none => (s, .error (0x0504, 0))
            | some ctrl =>
              if cs.any fun c => (tget s.fences.cores c).fenced then (s, .error (0x0508, 0))
              else if cs.any fun c => decide ((freeUnitList (tget s.dl.cores c)).length < field b 0x26 1) then (s, .error (0x0505, 0))
              else
                (runEach (slotPage n) (slotPages b) s).andThen fun _ s =>
                  match trickFault s n b with
                  | some c => (s, .error (c, 0))
                  | none => (armRound s n round ctrl b seats ds res, .ok ())

end Sys2Proof.Machine
end

