-- ==== Sys2Proof/Machine/RoundOps.lean ====
section
/-! DEFINITION. The deals of an armed round (R269 to R279), the transfers of its controller (R246, R247) and what
arrives for it (R245). -/

namespace Sys2Proof.Machine

/-- RND_STATUS.state of a controller (Table 13.6). -/
def roundState (s : State) (c : Nat) : RoundState :=
  match s.armed c with
  | none => .free
  | some a => if !barrierPassed s a then .barrier else if a.dealing then .dealing else .idle

/-- The value of a claim-relative tally; 0 out of range. -/
def relTally (s : State) (n rel : Nat) : Nat :=
  match resolveTally s n rel with
  | some t => (s.tally t).value.toNat
  | none => 0

/-- The seats before and after this one in the ring (R271). -/
def Armed.upstream (a : Armed) : Seat := a.seats.getD ((a.rank + a.seatCount - 1) % a.seatCount) (0, 0, 0)
def Armed.downstream (a : Armed) : Seat := a.seats.getD ((a.rank + 1) % a.seatCount) (0, 0, 0)

/-- The running deal's number from 0. -/
def Armed.dealNo (a : Armed) : Nat := a.deal - 1

/-- Descriptor `i` with the advance of a deal (Table 13.2). -/
def Armed.descAt (a : Armed) (deal i : Nat) : List Byte :=
  let d := a.descs.getD i []
  if d.isEmpty then d else dMoved d (dBase d + deal % a.dealCount * a.strides.getD i 0)

/-- Bytes of K, of V and of one partial region (R276). -/
def Armed.kBytes (a : Armed) : Nat := denseBytes (a.descs.getD 0 [])
def Armed.vBytes (a : Armed) : Nat := denseBytes (a.descs.getD 1 [])
def Armed.pBytes (a : Armed) : Nat := partialBytes a.backward (a.descs.getD 5 [])

/-- The address of slot 0 or 1. -/
def Armed.slotVa (a : Armed) (k : Nat) : Nat := if k % 2 = 0 then a.slot0 else a.slot1

/-- The number in the round of the hand that step `j` of a deal works on (R271); step 0 works on the own hand. -/
def Armed.handNo (a : Armed) (deal j : Nat) : Nat := deal * (a.seatCount - 1) + j - 1

/-- The slot of step `j` of a deal; slot 1 counts as the current slot of step 0 (R276). -/
def Armed.stepSlot (a : Armed) (deal j : Nat) : Nat := if j = 0 then a.slot1 else a.slotVa (a.handNo deal j)

/-- The origin rank of the hand of step `j` (R271). -/
def Armed.origin (a : Armed) (j : Nat) : Nat := (a.rank + a.seatCount - j % a.seatCount) % a.seatCount

/-- The steps of a deal (R273, R275): `none` is skipped, and the flag is recall. -/
def Armed.planOf (a : Armed) (bitmap : List Byte) : List (Option Bool) :=
  (List.range a.seatCount).map fun j =>
    let o := a.origin j
    if a.causalSkip ∧ a.rank < o then none
    else if a.horizon ≠ 0 ∧ a.horizon ≤ j then
      if bit (field bitmap (o / 8) 1) (o % 8) then some true else none
    else some false

/-- A distant hand of the deal is skipped for want of selection (R275). -/
def Armed.omits (a : Armed) : Bool :=
  a.horizon != 0 && (List.range a.seatCount).any fun j =>
    decide (a.horizon ≤ j) && (a.plan.getD j none).isNone && !(a.causalSkip && decide (a.rank < a.origin j))

/-- The last attended step of the deal. -/
def Armed.lastAttended (a : Armed) : Nat :=
  (List.range a.seatCount).foldl (fun b j => if (a.plan.getD j none).isSome then j else b) 0

/-- Transfers of a controller. -/
def xfersOf (s : State) (c : Nat) : List Xfer := s.link.xfers.filter fun x => x.ctrl == c

/-- Take a transfer off the list. -/
def dropXfer (s : State) (id : Nat) : State :=
  s.modLink fun l => { l with xfers := l.xfers.filter fun x => x.id != id }

/-- An ABORT for each message of a controller that has started and not closed; messages not started are dropped
(R247, R278). -/
def abortXfers (s : State) (c : Nat) : State :=
  (xfersOf s c).foldl (fun s x =>
    (List.range 6).foldl (fun s d =>
      match (tget s.link.groups d).msgs.find? fun m => m.xfer == some x.id with
      | none => s
      | some m =>
        let s1 := s.modGroup d fun g => { g with msgs := g.msgs.filter fun y => y.xfer != some x.id }
        if m.msgId.isSome then
          let h := MsgHeader.read x.header
          sendControl s1 { kind := 5, claim := h.claim, round := h.round, dest := h.dest, src := ownSeat s, xfer := h.xfer, tag := h.tag }
        else s1) (dropXfer s x.id)) s

/-- The macro-instructions of a controller end at their atomic unit, or are abandoned (R278). -/
def stopRoundMacros (s : State) (c : Nat) : State :=
  ((s.dl.macros.filter fun m => m.owner == .round c && !m.stopping).map (·.id)).foldl dropMacro s

/-- The controller is free: its pins and tricks end (R221, R278). -/
def freeRound (s : State) (c : Nat) (a : Armed) : State :=
  let s1 := unpinPages s a.claim a.pins
  let s2 := s1.modDl fun d => { d with cores := d.cores.map (freeUnits (.pin c)) }
  let s3 := a.tricks.foldl (fun s k => s.setTrick k none) s2
  s3.modCtrl c fun x => { x with armed := none }

/-- Steps 3 to 6 of R278. -/
def endFailedRound (s : State) (c : Nat) (a : Armed) : State :=
  let s1 := abortXfers (stopRoundMacros s c) c
  let s2 := [a.startTally, a.readyTally, a.doneTally].foldl (fun s rel =>
    match resolveTally s a.claim rel with
    | some t => poisonTally s t 0x0503
    | none => s) s1
  freeRound s2 c a

/-- A controller declares its round failed (R278). -/
def failRound (s : State) (c cause : Nat) (suspect : Seat) : State :=
  match s.armed c with
  | none => s
  | some a =>
    let s1 := s.modCtrl c fun x => { x with failCause := cause, failOrigin := ownSeat s, failSuspect := suspect }
    endFailedRound (a.tricks.foldl (fun s k => poisonTrick s k cause) s1) c a

/-- POISON for a trick of an armed round has arrived (R278, R279). -/
def roundPoisoned (s : State) (c : Nat) (origin : Seat) : State :=
  match s.armed c with
  | none => s
  | some a =>
    let s1 := s.modCtrl c fun x => { x with failCause := 0x0520, failOrigin := origin, failSuspect := (0, 0, 0) }
    endFailedRound (a.tricks.foldl (fun s k => poisonTrickHere s k origin) s1) c a

/-- A transfer fails with a cause: it fails its round (R246, R278). -/
def failXfer (s : State) (id cause : Nat) : State :=
  match s.link.xfers.find? (·.id == id) with
  | none => s
  | some x => failRound (dropXfer s id) x.ctrl cause x.dest

/-- Transfers that lost their route (R254, R264). -/
def failXfers (r : State × List Nat) : State := r.2.foldl (fun s id => failXfer s id 0x0506) r.1

/-- Send a transfer's message; without a route it fails there (R264). -/
def routeXfer (s : State) (x : Xfer) : State :=
  match routeFrom s x.dest with
  | .here => s.modLink fun l => { l with localMsgs := l.localMsgs ++ [(x.header, x.data)] }
  | .dir d => enqueue s d { vc := kindVc (MsgHeader.read x.header).kind, dest := x.dest, xfer := some x.id, header := some x.header, data := x.data }
  | .none => failXfer (countNoRoute s) x.id 0x0506

/-- A controller starts a transfer (R243, R246). -/
def startXfer (s : State) (c : Nat) (kind : XferKind) (h : MsgHeader) (data : List Byte) : State :=
  let id := s.link.nextXfer % 2 ^ 32
  let x : Xfer := { id := id, ctrl := c, kind := kind, dest := h.dest, header := { h with xfer := id, src := ownSeat s }.bytes, data := data }
  routeXfer (s.modLink fun l => { l with xfers := l.xfers ++ [x], nextXfer := l.nextXfer + 1 }) x

/-- A macro-instruction that a controller triggers (R109, R140). -/
def roundMacro (s : State) (c : Nat) (a : Armed) (code param : Nat) (descs : List (List Byte)) : State :=
  let m : MacroInst :=
    { id := s.dl.nextMacro, claim := a.claim, owner := .round c, code := code, param := param, descs := descs, phase := .dispatched, age := s.now }
  s.modDl fun d => { d with macros := d.macros ++ [{ m with groups := groupCount m, chunks := chunksOf m }], nextMacro := d.nextMacro + 1 }

/-- The SIGNAL that frees the slot upstream (Table 13.3, step 4). -/
def signalReady (s : State) (c : Nat) (a : Armed) : State :=
  startXfer s c .signal
    { kind := 3, claim := a.claim, round := a.round, dest := a.upstream, target := a.readyTally + 2 ^ 32, tag := a.tag } []

/-- Free the slots whose step and send are done (Table 13.3, step 4). -/
def freeSlots (s : State) (c : Nat) : State :=
  match s.armed c with
  | none => s
  | some a =>
    let done := a.landed.filter fun h => h.computed && h.passed
    let s1 := s.modArmed c fun a => { a with landed := a.landed.filter fun h => !(h.computed && h.passed) }
    done.foldl (fun s _ => match s.armed c with
      | some a => signalReady s c a
      | none => s) s1

/-- The completed partial of the last step goes to its origin (R276). -/
def sendResult (s : State) (c : Nat) : State :=
  match s.armed c with
  | none => s
  | some a =>
    if a.backward ∧ a.dealing ∧ a.comp = a.seatCount ∧ ¬ a.resultSent then
      let at_ := a.stepSlot a.dealNo (a.seatCount - 1) + a.kBytes + a.vBytes + 2 * a.pBytes
      match readClaim s a.claim at_ a.pBytes with
      | (s, .error e) => failRound s c e.1 (0, 0, 0)
      | (s, .ok data) =>
        startXfer (s.modArmed c fun a => { a with resultSent := true }) c .result
          { kind := 2, claim := a.claim, round := a.round, dest := a.downstream, length := a.pBytes, target := dBase a.resultDesc + a.dealNo % a.dealCount * a.resultStride, tag := a.tag } data
    else s

/-- The deal ends when its last step is done, and in a backward round when its own result has arrived (Table 13.3,
step 5; R276). -/
def endDeal (s : State) (c : Nat) : State :=
  match s.armed c with
  | none => s
  | some a =>
    if a.dealing ∧ a.comp = a.seatCount ∧ (¬ a.backward ∨ (a.resultSent ∧ a.resultIn)) then
      let s1 := beginWaits (s.modArmed c fun a => { a with dealing := false, resultSent := false, resultIn := false, rows := [] }) c
      let s2 := match resolveTally s1 a.claim a.doneTally with
        | some t => agentAdd s1 t 1
        | none => s1
      match a.tricks.head?.bind fun k => tget s2.sync.tricks k with
      | some t => agentAdd s2 t.arriveTally 1
      | none => s2
    else s

/-- What follows a completed step: slots are freed, a result is sent, and the deal may end. -/
def advanceRound (s : State) (c : Nat) : State := endDeal (sendResult (freeSlots s c) c) c

/-- Mark a hand that holds its slot. -/
def markHand (n : Nat) (f : HeldHand → HeldHand) (a : Armed) : Armed :=
  { a with landed := a.landed.map fun h => if h.number = n then f h else h }

/-- Step `j` of the running deal has been computed or skipped. -/
def stepComputed (s : State) (c : Nat) : State :=
  advanceRound (beginWaits (s.modArmed c fun a =>
    let a1 := if a.comp = 0 then a else markHand (a.handNo a.dealNo a.comp) (fun h => { h with computed := true }) a
    { a1 with comp := a.comp + 1 }) c) c

/-- The hand of step `j ≥ 1` has landed. -/
def Armed.hasLanded (a : Armed) (j : Nat) : Bool := a.landed.any fun h => h.number == a.handNo a.dealNo j

/-- The param of a step's macro-instruction (Table 13.3, R275). -/
def Armed.stepParam (a : Armed) (j : Nat) (recall_ : Bool) : Nat :=
  let last := decide (j = a.lastAttended)
  let causal := 4 * b2n (decide (j = 0) && a.causal)
  if a.backward then a.param + causal
  else
    let first := decide (((List.range j).all fun i => (a.plan.getD i none).isNone))
    a.param + b2n first + 2 * b2n last + causal + 8 * b2n (recall_ || (last && a.omits))

/-- The descriptors of a step's macro-instruction (R271, R276). -/
def Armed.stepDescs (a : Armed) (j : Nat) : List (List Byte) :=
  let d (i : Nat) : List Byte := a.descAt a.dealNo i
  let slot := a.stepSlot a.dealNo j
  let k := if j = 0 then d 0 else dMoved (d 0) slot
  let v := if j = 0 then d 1 else dMoved (d 1) (slot + a.kBytes)
  let part := slot + a.kBytes + a.vBytes + (if j = 0 then 2 else 1) * a.pBytes
  [k, v, d 2, d 3, d 4, if a.backward then denseAt (d 5) part else d 5]

/-- The controller attends or skips the next step of its deal (Table 13.3, step 1). -/
def runStep (s : State) (c : Nat) : State :=
  match s.armed c with
  | none => s
  | some a =>
    let j := a.trig
    let s1 := beginWaits (s.modArmed c fun a =>
      let a1 := { a with trig := a.trig + 1 }
      if j ≠ 0 ∧ j + 1 = a.seatCount then markHand (a.handNo a.dealNo j) (fun h => { h with passed := true }) a1 else a1) c
    match a.plan.getD j none with
    | none => stepComputed s1 c
    | some r => roundMacro s1 c a (if a.backward then 3 else 2) (a.stepParam j r) (a.stepDescs j)

/-- A deal starts (Table 13.3, step 1 at j = 0; R275). -/
def startDeal (s : State) (c : Nat) (a : Armed) : State :=
  let bytes := (a.seatCount + 7) / 8
  let d := a.deal
  match (if a.horizon = 0 then (s, .ok []) else readClaim s a.claim (a.recallVa + d % a.dealCount * ((bytes + 31) / 32 * 32)) bytes : Run (List Byte)) with
  | (s, .error e) => failRound s c e.1 (0, 0, 0)
  | (s, .ok bm) =>
    runStep (s.modArmed c fun a =>
      { a with deal := a.deal + 1, dealing := true, startWait := .idle, plan := a.planOf bm, trig := 0, comp := 0, rows := [] }) c

/-- ROUND_STEP_TRIGGER: the next step of a controller's deal, when its hand is in place and the one before has been
computed (R272). A start tally that was poisoned fails the wait, and with it the round. DESIGN CHOICE, log entry 133. -/
def triggerStep (s : State) (c : Nat) : State :=
  match s.armed c with
  | none => s
  | some a =>
    if !barrierPassed s a ∨ s.redealing ∨ shoeHalted s a.claim then s
    else if !a.dealing then
      match a.startWait with
      | .met =>
        if (maskCores a.coreMask).any fun k => (tget s.fences.cores k).fenced then failRound s c 0x0508 (0, 0, 0)
        else startDeal s c a
      | .failed cause => failRound s c cause (0, 0, 0)
      | _ => s
    else if a.trig < a.seatCount ∧ a.comp = a.trig ∧ a.hasLanded a.trig then runStep s c
    else s

/-- The bytes of a hand: K, V and, in a backward round, P_out (R272, R276). -/
def gatherHand (s : State) (a : Armed) (deal j : Nat) : Run (List Byte) :=
  let slot := a.stepSlot deal j
  let own (i : Nat) : Nat := dBase (a.descAt deal i)
  (readClaim s a.claim (if j = 0 then own 0 else slot) a.kBytes).andThen fun k s =>
  (readClaim s a.claim (if j = 0 then own 1 else slot + a.kBytes) a.vBytes).andThen fun v s =>
  (if a.backward then readClaim s a.claim (slot + a.kBytes + a.vBytes + 2 * a.pBytes) a.pBytes else (s, .ok [])).andThen fun p s =>
    (s, .ok (k ++ v ++ p))

/-- The HAND target (R273). -/
def handTarget (slot deal origin : Nat) : Nat := slot % 2 + 2 ^ 16 * (deal % 65536) + 2 ^ 32 * origin

/-- ROUND_HAND_SEND: the next hand goes downstream once the ready credit is there (R272). -/
def sendHand (s : State) (c : Nat) : State :=
  match s.armed c with
  | none => s
  | some a =>
    let d := a.sendStep
    if !a.sendDue ∨ s.redealing ∨ shoeHalted s a.claim then s
    else
      match a.readyWait with
      | .met =>
        match gatherHand s a d.1 d.2 with
        | (s, .error e) => failRound s c e.1 a.downstream
        | (s, .ok data) =>
          startXfer (beginWaits (s.modArmed c fun a => { a with sent := a.sent + 1, readyWait := .idle }) c) c (.hand a.sent)
            { kind := 1, claim := a.claim, round := a.round, dest := a.downstream, length := data.length, target := handTarget a.sent d.1 (a.origin d.2), tag := a.tag } data
      | .failed cause => failRound s c cause a.downstream
      | _ => s

/-- A controller's hand is DELIVERED: the slot it was sent from may be freed (Table 13.3, step 4). -/
def handDelivered (s : State) (c send : Nat) : State :=
  match s.armed c with
  | none => s
  | some a =>
    let j := send % (a.seatCount - 1)
    if j = 0 then s
    else advanceRound (s.modArmed c (markHand (a.handNo (send / (a.seatCount - 1)) j) fun h => { h with passed := true })) c

/-- The wait has begun and is not over. -/
def TallyWait.waits : TallyWait → Bool
  | .waiting _ => true
  | _ => false

/-- A controller waits on another seat (R274, R278): on a landing, a ready credit or the barrier; with the seat that
the wait concerns. -/
def roundWait (s : State) (a : Armed) : Option Seat :=
  if !barrierPassed s a then some (0, 0, 0)
  else if a.sendDue ∧ a.readyWait.waits then some a.downstream
  else if a.dealing ∧ 0 < a.trig ∧ a.trig < a.seatCount ∧ a.comp = a.trig ∧ !a.hasLanded a.trig then some a.upstream
  else none

/-- PASS_TIMEOUT (R278). -/
def passTimeout (s : State) (c : Nat) : State :=
  match (s.armed c).bind (roundWait s) with
  | none => s
  | some seat => failRound s c 0x0507 seat

/-- The deal has a call that has not completed: a step still to be computed that it attends (R275, R278). -/
def Armed.callsLeft (a : Armed) : Bool :=
  (List.range a.seatCount).any fun j => decide (a.comp ≤ j) && (a.plan.getD j none).isSome

/-- A core of a round's mask is fenced during a deal, before the deal's last call has completed (R278). -/
def roundCoreFenced (s : State) (core : Nat) : State :=
  (List.range 16).foldl (fun s c => match s.armed c with
    | some a => if a.dealing ∧ a.callsLeft ∧ a.coreMask.testBit core then failRound s c 0x0508 (0, 0, 0) else s
    | none => s) s

/-- The REDUCE of a backward step sums P_in and C into P_out (R276). -/
def reducePartial (s : State) (c : Nat) (a : Armed) (j : Nat) : State :=
  let d := a.descs.getD 5 []
  let e := dExts d
  let base := a.stepSlot a.dealNo j + a.kBytes + a.vBytes
  let exts (n : Nat) : List Nat := [e.getD 0 1, e.getD 1 1, e.getD 2 1 * e.getD 3 1, n]
  let strides := [dRow d, dRow d * e.getD 1 1, a.pBytes]
  roundMacro s c a 6 12 [mkDesc 0 4 0 1 0 base (exts 2) strides, mkDesc 0 4 0 1 0 (base + 2 * a.pBytes) (exts 1) strides, [], [], [], []]

/-- A controller's macro-instruction has completed (R140, R276). -/
def roundMacroDone (s : State) (c : Nat) (m : MacroInst) : State :=
  let s1 := removeMacro s m.id
  match s1.armed c with
  | none => s1
  | some a => if m.code = 3 ∧ a.comp ≠ 0 then reducePartial s1 c a a.comp else stepComputed s1 c

/-- ROUND_ARM with block_va 0 (R269): the cause of the item's failure, if any. -/
def disarmRound (s : State) (n round : Nat) : State × Option Nat :=
  match roundOf s n round with
  | none => (s, some 0x0501)
  | some c =>
    match s.armed c with
    | none => (s, some 0x0501)
    | some a => if a.dealing then (failRound s c 0x0509 (0, 0, 0), none) else (freeRound (abortXfers s c) c a, none)

/-- Every round of a claim fails with a cause (R70, R83, R269). -/
def failRoundsOf (s : State) (n cause : Nat) : State :=
  (List.range 16).foldl (fun s c => match s.armed c with
    | some a => if a.claim = n then failRound s c cause (0, 0, 0) else s
    | none => s) s

/-- A redeal disarms every round without POISON, aborts what had started, and resets the controllers (R247, R269,
R356). -/
def resetRounds (s : State) : State :=
  (List.range 16).foldl (fun s c => match s.armed c with
    | some a => ((freeRound (abortXfers s c) c a).modCtrl c fun _ => {})
    | none => s.modCtrl c fun _ => {}) s

/-- The check of a message against the armed round it names (R245, step 1; R273). -/
def messageRound (s : State) (h : MsgHeader) : Option (Nat × Armed) :=
  match roundOf s h.claim h.round with
  | none => none
  | some c => match s.armed c with
    | some a => if a.tag = h.tag then some (c, a) else none
    | none => none

/-- A tally that a message names is a live trick's release tally (R223, R245). -/
def namesRelease (s : State) (h : MsgHeader) : Bool :=
  let at_ (rel : Nat) : Bool := match resolveTally s h.claim rel with
    | some t => isRelease s t
    | none => false
  (decide (h.tally ≠ 0xFFFF) && at_ h.tally) || (decide (h.kind = 3) && at_ (bits h.target 0 16))

/-- A message is refused or faulted and counted (R245, Table 12.13). -/
def refuseMessage (s : State) (h : MsgHeader) (status cause : Nat) : State :=
  sendReceipt (s.modLink fun l => { l with refused := satInc 32 l.refused }) h status cause

/-- The delivery of a message whose CRC checks: its tally takes ADD 1 and DELIVERED goes back (R245, step 3). -/
def deliver (s : State) (h : MsgHeader) : State :=
  let s1 := match (if h.tally = 0xFFFF then none else resolveTally s h.claim h.tally) with
    | some t => agentAdd s t 1
    | none => s
  sendReceipt s1 h 0 0

/-- A message for this seat while it is REDEALING (R247). -/
def answerRedealing (s : State) (h : MsgHeader) : State :=
  if 4 ≤ h.kind then s else sendReceipt s h 2 0

/-- The hand number that a HAND carries, if it is the one this seat expects next or one that is sent again (R246,
R273). -/
def expectedHand (a : Armed) (h : MsgHeader) : Option (Nat × Bool) :=
  match a.resent.find? fun x => x.1 == h.xfer with
  | some x => some (x.2, true)
  | none =>
    let r := a.accepted
    if a.seatCount < 2 ∨ h.length ≠ a.kBytes + a.vBytes + a.pBytes then none
    else
      let d := r / (a.seatCount - 1)
      let j := r % (a.seatCount - 1) + 1
      if h.target = handTarget r d (a.origin j) then some (r, false) else none

/-- A HAND's header is at this seat (R245, step 1; R273): it is refused, or its data lands in the slot that it names. DEDUCED,
log entry 70. -/
def beginHand (s : State) (h : MsgHeader) : State × InMode :=
  match messageRound s h with
  | none => (refuseMessage s h 3 0, .dropped)
  | some (c, a) =>
    if namesRelease s h then (refuseMessage s h 5 0x0522, .dropped)
    else
      match expectedHand a h with
      | none => (refuseMessage s h 3 0, .dropped)
      | some (r, again) =>
        (s.modArmed c fun a =>
          { a with accepted := if again then a.accepted else a.accepted + 1, resent := a.resent.filter fun x => x.1 != h.xfer },
          .placing a.claim (a.slotVa r) (some r))

/-- A HAND whose data has landed closes (R245, step 3): its slot is marked landed where the message CRC checks. -/
def closeHand (s : State) (h : MsgHeader) (r : Nat) (crcOk : Bool) : State :=
  match messageRound s h with
  | none => refuseMessage s h 3 0
  | some (c, _) =>
    if crcOk then deliver (s.modArmed c fun a => { a with landed := a.landed ++ [{ number := r }] }) h
    else sendReceipt (s.modArmed c fun a => { a with resent := (h.xfer, r) :: a.resent }) h 1 0

/-- HAND_RECEIVED: a whole HAND is at this seat (R245, R273). -/
def handReceived (s : State) (h : MsgHeader) (data : List Byte) (crcOk : Bool) : State :=
  if s.redealing then answerRedealing s h
  else
    match beginHand s h with
    | (s1, .placing n base (some r)) =>
      match writeClaim s1 n base (padGranule (data.take h.length)) with
      | (s2, .error e) => refuseMessage s2 h 5 e.1
      | (s2, .ok _) => closeHand s2 h r crcOk
    | (s1, _) => s1

/-- Free bytes for a range whose content is indeterminate (R245): the state with them drawn, and the bytes. -/
def freeBytes (s : State) (n : Nat) : State × List Byte :=
  ({ s with freeCtr := s.freeCtr + n }, (List.range n).map fun i => Config.indeterminate (s.freeCtr + i))

/-- The claim and result address whose own partial a PUT brings (R276). -/
def isResult (a : Armed) (h : MsgHeader) : Bool :=
  a.backward && decide (h.target = dBase a.resultDesc + a.dealNo % a.dealCount * a.resultStride)

/-- The failure of the first page of a range that is not mapped or not writable for a claim (R245, step 1). -/
def rangeFault (s : State) (n va len : Nat) : Option (Nat × Nat) :=
  (rangeFrom (va / 65536) ((va % 65536 + len + 65535) / 65536)).findSome? fun page =>
    match translate s n (max va (65536 * page)) true with
    | .error e => some e
    | .ok _ => none

/-- A PUT's header is at this seat (R245, step 1): it is refused, or its data goes to the claim's memory. -/
def beginPut (s : State) (h : MsgHeader) : State × InMode :=
  match messageRound s h with
  | none => (refuseMessage s h 3 0, .dropped)
  | some (_, a) =>
    if namesRelease s h then (refuseMessage s h 5 0x0522, .dropped)
    else if let some e := rangeFault s a.claim h.target h.length then (refuseMessage s h 5 e.1, .dropped)
    else (s, .placing a.claim h.target none)

/-- A PUT whose data is in memory closes (R245, step 3). Where its message CRC fails, its range is left indeterminate. -/
def closePut (s : State) (h : MsgHeader) (crcOk : Bool) : State :=
  match messageRound s h with
  | none => refuseMessage s h 3 0
  | some (c, a) =>
    if crcOk then
      let s1 := deliver s h
      if isResult a h then advanceRound (s1.modArmed c fun a => { a with resultIn := true }) c else s1
    else
      let fb := freeBytes s h.length
      match writeClaim fb.1 a.claim h.target fb.2 with
      | (s1, .error e) => refuseMessage s1 h 5 e.1
      | (s1, .ok _) => sendReceipt s1 h 1 0

/-- PUT_RECEIVED: a whole PUT is at this seat (R245). -/
def putReceived (s : State) (h : MsgHeader) (data : List Byte) (crcOk : Bool) : State :=
  if s.redealing then answerRedealing s h
  else
    match beginPut s h with
    | (s1, .placing n base none) =>
      if crcOk then
        match writeClaim s1 n base (data.take h.length) with
        | (s2, .error e) => refuseMessage s2 h 5 e.1
        | (s2, .ok _) => closePut s2 h true
      else closePut s1 h false
    | (s1, _) => s1

/-- SIGNAL_RECEIVED (R245). -/
def signalReceived (s : State) (h : MsgHeader) : State :=
  if s.redealing then answerRedealing s h
  else
    match messageRound s h with
    | none => refuseMessage s h 3 0
    | some _ =>
      if namesRelease s h then refuseMessage s h 5 0x0522
      else
        match resolveTally s h.claim (bits h.target 0 16) with
        | none => refuseMessage s h 3 0
        | some t =>
          if (s.tally t).poisoned then refuseMessage s h 5 (s.tally t).cause
          else deliver (agentAdd s t (bits h.target 32 32)) h

/-- RECEIPT_RECEIVED (R246): a late one is counted. -/
def receiptReceived (s : State) (h : MsgHeader) : State :=
  match s.link.xfers.find? fun x => x.id == h.xfer && decide (x.dest = h.src) with
  | none => s.modLink fun l => { l with late := satInc 32 l.late }
  | some x =>
    match h.status with
    | 0 =>
      let s1 := dropXfer s x.id
      match x.kind with
      | .hand k => handDelivered s1 x.ctrl k
      | _ => s1
    | 1 =>
      if x.crcFails = 0 then
        let y := { x with crcFails := 1, awaiting := false }
        routeXfer (s.modLink fun l => { l with xfers := l.xfers.map fun z => if z.id = x.id then y else z }) y
      else failXfer s x.id 0x0512
    | 2 => failXfer s x.id 0x0513
    | 3 => failXfer s x.id 0x0515
    | 4 => failXfer s x.id 0x0514
    | _ => failXfer s x.id h.cause

/-- A partial message is the one that a header names: its sender's and its transfer's. -/
def InMsg.concerns (m : InMsg) (h : MsgHeader) : Bool :=
  let x := MsgHeader.read m.header
  !m.header.isEmpty && x.dest == h.dest && x.src == h.src && x.xfer == h.xfer

/-- ABORT_RECEIVED: the partial message it names is discarded, and the sender hears ABORTED (R247). -/
def abortReceived (s : State) (h : MsgHeader) : State :=
  let gone := s.link.inbox.filter (·.concerns h)
  let s1 := oweAll (s.modLink fun l => { l with inbox := l.inbox.filter fun m => !m.concerns h }) (gone.flatMap (·.early))
  sendReceipt s1 h (if s.redealing then 2 else 4) 0

/-- A redeal begins with messages for this seat partly received (R247): each draws REDEALING, and the rest of it is
discarded as it arrives; one whose header has not come is answered when it comes. -/
def answerPartials (s : State) : State :=
  s.link.inbox.foldl (fun s m =>
    match m.mode with
    | .placing _ _ _ => oweAll (answerRedealing s (MsgHeader.read m.header)) m.early
    | _ => s)
    (s.modLink fun l =>
      { l with inbox := l.inbox.map fun m => match m.mode with
          | .waiting => { m with redealt := true }
          | .placing _ _ _ => { m with mode := .dropped, data := [], early := [] }
          | _ => m })

/-- RECEIPT_TIMEOUT (R246). -/
def receiptTimeout (s : State) (id : Nat) : State :=
  match s.link.xfers.find? (·.id == id) with
  | some x => if x.awaiting then failXfer s id 0x0516 else s
  | none => s

/-- A claim message for this seat by its kind (Table 12.5). -/
def messageForUs (s : State) (h : MsgHeader) (data : List Byte) (crcOk : Bool) : State :=
  match h.kind with
  | 1 => handReceived s h data crcOk
  | 2 => putReceived s h data crcOk
  | 3 => signalReceived s h
  | 4 => receiptReceived s h
  | 5 => abortReceived s h
  | _ => s

/-- Messages that this seat sent to itself are delivered in order (R262); one whose write meets a page whose move is in
progress waits for the commit, and those after it with it (R197). -/
def deliverLocal (s : State) : State :=
  s.link.localMsgs.foldl (fun s m =>
    if s.link.localMsgs.head? = some m then
      afterMoves (fun s => messageForUs (s.modLink fun l => { l with localMsgs := l.localMsgs.tail }) (MsgHeader.read m.1) m.2 true) s
    else s) s

end Sys2Proof.Machine
end

