-- ==== Sys2Proof/Machine/AssayOps.lean ====
section
/-! DEFINITION. The Assay engine (chapter 15): binding indexes, searches and their batches, merges, epoch advances and
backfill. -/

namespace Sys2Proof.Machine

/-- Change the Assay engine, and one index. -/
def State.modAsy (s : State) (f : Assay → Assay) : State := { s with asy := f s.asy }
def State.index (s : State) (i : Nat) : Index := tget s.asy.indexes i
def State.modIndex (s : State) (i : Nat) (f : Index → Index) : State :=
  s.modAsy fun a => { a with indexes := tmod a.indexes i f }

/-- Header fields (Table 15.1). -/
def ihSketch (h : List Byte) : Nat := field h 5 1
def ihEager (h : List Byte) : Bool := bit (field h 6 1) 0
def ihShift (h : List Byte) : Nat := field h 7 1
def ihVeins (h : List Byte) : Nat := field h 8 4
def ihEntries (h : List Byte) : Nat := field h 0xC 4
def ihCapacity (h : List Byte) : Nat := field h 0x10 4
def ihTally (h : List Byte) : Nat := field h 0x14 2
def ihShard (h : List Byte) : Nat := field h 0x16 2
def ihHeads (h : List Byte) : Nat := field h 0x20 5
def ihTags (h : List Byte) : Nat := field h 0x28 5
def ihSketches (h : List Byte) : Nat := field h 0x30 5
def ihHeap (h : List Byte) : Nat := field h 0x38 5

/-- Bytes of a sketch, a vein head record and a heap record (R313, R314, R321). -/
def sketchBytes (h : List Byte) : Nat := 16 * 2 ^ ihSketch h
def headBytes (h : List Byte) : Nat := 32 + 32 * ihSketch h
def heapBytes (h : List Byte) : Nat := if ihSketch h = 2 then 96 else 64

/-- The distance from `a` to `b` modulo 2^32. -/
def dist32 (a b : Nat) : Nat := (((b : Int) - (a : Int)) % 4294967296).toNat

/-- A region lies in the claim-private range (Table 10.2). -/
def privateRange (va len : Nat) : Bool := decide (va + len ≤ commonBase)

/-- The header's fields lie within Table 15.1 and its regions in the claim-private range (R311, step 1). -/
def headerOk (va : Nat) (h : List Byte) : Bool :=
  let veins := ihVeins h
  let ents := ihEntries h
  let cap := ihCapacity h
  decide (field h 0 4 = 0x5A524158) && decide (field h 4 1 = 1) && decide (ihSketch h ≤ 2) && decide (field h 6 1 < 2)
    && decide (ihShift h ≤ 47) && decide (1 ≤ veins ∧ veins ≤ 65536) && decide (1 ≤ ents ∧ ents ≤ 268435456)
    && decide (16 ≤ cap ∧ cap ≤ 1048576) && decide (2 ^ Nat.log2 cap = cap) && allZero (bytesAt h 0x18 8)
    && decide (ihHeads h % 65536 = 0) && decide (ihTags h % 32 = 0) && decide (ihSketches h % 32 = 0) && decide (ihHeap h % 64 = 0)
    && allZero (bytesAt h 0x25 3) && allZero (bytesAt h 0x2D 3) && allZero (bytesAt h 0x35 3) && allZero (bytesAt h 0x3D 3)
    && allZero (bytesAt h 0x40 64) && decide (1 ≤ field h 0x80 4) && decide (field h 0x8C 4 < 4) && allZero (bytesAt h 0x98 8)
    && allZero (bytesAt h 0xA0 96) && decide (va % 256 = 0) && privateRange va 256
    && privateRange (ihHeads h) (veins * headBytes h) && privateRange (ihTags h) (16 * ents)
    && privateRange (ihSketches h) (sketchBytes h * ents) && privateRange (ihHeap h) (heapBytes h * cap)
    && decide (dist32 (field h 0x84 4) (field h 0x88 4) ≤ cap)

/-- A vein's record within the head array. -/
def veinHead (h heads : List Byte) (v : Nat) : List Byte := bytesAt heads (v * headBytes h) (headBytes h)
def vhBase (r : List Byte) : Nat := field r 0 4
def vhCapacity (r : List Byte) : Nat := field r 4 4
def vhCount (r : List Byte) : Nat := field r 8 4
def vhSketch (h r : List Byte) : List Byte := bytesAt r 0x10 (sketchBytes h)

/-- The veins' ranges ascend within the entries, no count passes its capacity, and reserved bytes are 0 (R11; R311, step 3;
Table 15.2). DEDUCED, log entry 114. -/
def veinsOk (h heads : List Byte) : Bool :=
  let rs := (List.range (ihVeins h)).map (veinHead h heads)
  (rs.foldl (fun (acc : Bool × Nat) r =>
    (acc.1 && decide (acc.2 ≤ vhBase r) && decide (vhCount r ≤ vhCapacity r) && decide (vhCapacity r ≤ 2 ^ 24)
      && decide (vhBase r + vhCapacity r ≤ ihEntries h) && allZero (bytesAt r 0xC 4) && allZero (r.drop (0x10 + sketchBytes h)),
    vhBase r + vhCapacity r)) (true, 0)).1

/-- Read an index's vein heads. -/
def readHeads (n : Nat) (h : List Byte) (s : State) : Run (List Byte) :=
  readClaim s n (ihHeads h) (ihVeins h * headBytes h)

/-- The pages that hold an index's vein heads. -/
def headPages (h : List Byte) : List Nat :=
  rangeFrom (ihHeads h / 65536) ((ihVeins h * headBytes h + 65535) / 65536)

/-- The engine granule's 32 bytes (Table 15.1). -/
def engineGranule (x : Index) : List Byte :=
  leBytes 4 x.epoch ++ leBytes 4 x.heapHead ++ leBytes 4 x.heapTaken ++ leBytes 4 (b2n x.publishPoisoned + 2 * b2n x.heapBlocked)
    ++ leBytes 4 x.skipped ++ leBytes 4 x.spilled ++ List.replicate 8 0#8

/-- The engine keeps its granule of the header in step with the index (R310). -/
def storeGranule (s : State) (i : Nat) : State :=
  let x := s.index i
  if x.st = .unbound then s else (writeClaim s x.claim (x.headerVa + 0x80) (engineGranule x)).1

/-- ASY_INDEX_i is written with valid 1: the index binds, or its cause says why not (R311). DEDUCED, log entry 79. -/
def bindIndex (s : State) (i va claim : Nat) : State :=
  if (s.index i).st ≠ .unbound then s
  else
    let fail (s : State) (c : Nat) : State := s.modIndex i fun x => { x with headerVa := va, claim := claim, valid := true, cause := c }
    match readClaim s claim va 256 with
    | (s, .error _) => fail s 0x0610
    | (s, .ok h) =>
      if !headerOk va h then fail s 0x0610
      else
        match runEach (slotPage claim) (headPages h) s with
        | (s, .error e) => fail s (if e.1 = 0x0401 ∨ e.1 = 0x0402 then e.1 else 0x0403)
        | (s, .ok _) =>
          match readHeads claim h s with
          | (s, .error _) => fail s 0x0611
          | (s, .ok heads) =>
            if !veinsOk h heads then fail s 0x0611
            else
              (pinPages s claim (headPages h)).modIndex i fun _ =>
                { headerVa := va, claim := claim, valid := true, st := .bound, header := h, epoch := field h 0x80 4, heapHead := field h 0x84 4, heapTaken := field h 0x88 4, publishPoisoned := bit (field h 0x8C 4) 0, heapBlocked := bit (field h 0x8C 4) 1, skipped := field h 0x90 4, spilled := field h 0x94 4, pins := headPages h }

/-- A search's command is still active. -/
def searchLive (s : State) (q : Search) : Bool :=
  match activeCmd s q.shoe q.seq q.level q.granule with
  | some (_, a, _) => a.st == .assay
  | none => false

/-- Searches that wait for a window (R319). -/
def waitingSearches (s : State) : List Search := s.asy.waiting.filter (searchLive s)

/-- An index releases its pins and is UNBOUND (R312, steps 3 and 4); its register keeps the fields last written. -/
def releaseIndex (s : State) (i va claim : Nat) : State :=
  let x := s.index i
  (unpinPages s x.claim x.pins).modIndex i fun x => { headerVa := va, claim := claim, cause := x.cause }

/-- The running batch still has a command of the index. -/
def batchUses (s : State) (i : Nat) : Bool := (s.asy.batch.getD []).any fun q => q.index == i && searchLive s q

/-- An index is unbound (R312): its waiting searches fail; a batch that runs on it completes first; its pins are released.
ASY_INDEX_i keeps `va` and `claim`. DEDUCED, log entry 136. -/
def unbindIndex (s : State) (i va claim : Nat) : State :=
  if (s.index i).st = .unbound then s.modIndex i fun x => { x with valid := false, headerVa := va, claim := claim }
  else
    let qs := (waitingSearches s).filter fun q => q.index == i
    let s1 := qs.foldl (fun s q => failAt s q.shoe q.seq q.level q.granule 0x0601) s
    let s2 := s1.modAsy fun a => { a with waiting := a.waiting.filter fun q => q.index != i }
    if batchUses s2 i then s2.modIndex i fun x => { x with valid := false, closing := some (va, claim) }
    else releaseIndex s2 i va claim

/-- The batch has completed: indexes whose unbinding waited for it are unbound (R312). -/
def closeIndexes (s : State) : State :=
  (List.range 64).foldl (fun s i => match (s.index i).closing with
    | some w => releaseIndex s i w.1 w.2
    | none => s) s

/-- Operands of ASSAY (Table 5.4). -/
def asIndex (b : List Byte) : Nat := field b 6 2
def asK (b : List Byte) : Nat := field b 8 2
def asProbes (b : List Byte) : Nat := field b 0xA 2
def asQueries (b : List Byte) : Nat := field b 0xC 2

/-- Read the query, permit and result descriptors of an ASSAY command. -/
def readAssayDescs (n : Nat) (b : List Byte) (s : State) : Run (List Slot) :=
  runEach (fun off s =>
    let idx := field b off 2
    if idx = 0xFFFF then (s, .ok none)
    else (readClaim s n (descBase + 64 * idx) 64).andThen fun d s => (s, .ok (some d))) [0x10, 0x0E, 0x12] s

/-- What each operand of ASSAY takes (Table 15.4, R326), for R139's reasons. -/
def assayRoles (merge : Bool) : List RoleSpec :=
  [{ fmts := if merge then [0] else [7] }, { isRequired := false, fmts := [7] }, { out := true, fmts := [0, 7] }]

/-- The shapes of ASSAY's operands; the lower operand that disagrees (Table 15.4, R326). -/
def assayShape (merge : Bool) (bits_ : Nat) (b : List Byte) (ds : List Slot) : Option Nat :=
  let q := (ds.getD 0 none).getD []
  let p := ds.getD 1 none
  let r := (ds.getD 2 none).getD []
  let n := asQueries b
  let qOk := if merge then
      decide (dRank q = 4 ∧ dExt q 0 = 8 ∧ 1 ≤ dExt q 1 ∧ dExt q 1 ≤ 1024 ∧ n ≤ dExt q 2 ∧ asProbes b ≤ dExt q 3)
    else decide (dRank q = 2 ∧ dExt q 0 = bits_ ∧ n ≤ dExt q 1)
  let pOk := match p with
    | none => true
    | some d => !merge && decide (dRank d = 1)
  let rOk := if dFmt r = 0 then decide (dRank r = 3 ∧ dExt r 0 = 8 ∧ asK b ≤ dExt r 1 ∧ n ≤ dExt r 2)
    else decide (dRank r = 1) || decide (dRank r = 2 ∧ n ≤ dExt r 1)
  if !qOk then some 0 else if !pOk then some 1 else if !rOk then some 2 else none

/-- The check of an ASSAY's descriptors (R315, R326): cause and detail. -/
def assayFault (merge : Bool) (bits_ : Nat) (b : List Byte) (ds : List Slot) : Option (Nat × Nat) :=
  match slotFault 0 (assayRoles merge) ds with
  | some (k, r) => some (if merge then (0x0112, k) else (0x0111, k + 2 ^ 8 * r))
  | none => (assayShape merge bits_ b ds).map fun k => (0x0112, k)

/-- Insert a record by (score, number) and keep the k first. -/
def insertK (k : Nat) (x : (FP × Nat) × List Byte) (l : List ((FP × Nat) × List Byte)) : List ((FP × Nat) × List Byte) :=
  (insertScore x l).take k

/-- The bitmap that results set: bit item_id >> shift of a row of `n` bits (R318). -/
def bitmapOf (n shift : Nat) (ids : List Nat) : List Byte :=
  packBits (n / 8) ((List.range n).map fun i => ids.any fun id => id / 2 ^ shift == i)

/-- Write the results of an ASSAY command (R318): `rows` are each query's records in order. -/
def writeResults (n k shift : Nat) (r : List Byte) (rows : List (List (List Byte))) (s : State) : Run Unit :=
  let ids (l : List (List Byte)) : List Nat := l.map fun x => field x 0 6
  let row (i : Nat) (l : List (List Byte)) (s : State) : Run Unit :=
    if dFmt r = 0 then
      (runEach (fun (x : List Byte × Nat) s => writeClaim s n (dAddr r x.2 i 0) x.1)
        (l ++ List.replicate (k - l.length) padRecord).zipIdx s).andThen fun _ s => (s, .ok ())
    else writeClaim s n (dAddr r i 0 0) (bitmapOf (dExt r 0) shift (ids l))
  if dFmt r ≠ 0 ∧ dRank r = 1 then writeClaim s n (dBase r) (bitmapOf (dExt r 0) shift (ids rows.flatten))
  else (runEach (fun (x : List (List Byte) × Nat) s => row x.2 x.1 s) rows.zipIdx s).andThen fun _ s => (s, .ok ())

/-- A command with queries that returned fewer than k results notes ASSAY_SHORT (R318). -/
def noteShort (s : State) (shoe seq k : Nat) (rows : List (List (List Byte))) : State :=
  let short := (rows.filter fun l => decide (l.length < k)).length
  if short = 0 then s else noteItem s shoe seq 0x0023 short

/-- ASSAY with an index number is dispatched (R309, R315). DEDUCED, log entry 78. -/
def assaySearch (s : State) (shoe seq l : Nat) : State :=
  match nextCmd s shoe seq l 0x0B with
  | none => s
  | some (_, g, b) =>
    if asIndex b = 0xFFFF then s
    else
      let x := s.index (asIndex b)
      if x.st = .unbound ∨ x.closing.isSome ∨ x.claim ≠ shoe then failAt s shoe seq l g 0x0601
      else
        match readAssayDescs shoe b s with
        | (s, .error e) => failAt s shoe seq l g e.1 e.2
        | (s, .ok ds) =>
          match assayFault false (8 * sketchBytes x.header) b ds with
          | some e => failAt s shoe seq l g e.1 e.2
          | none =>
            let q : Search :=
              { shoe := shoe, seq := seq, level := l, granule := g, index := asIndex b, k := asK b, probes := asProbes b, queries := asQueries b, qDesc := (ds.getD 0 none).getD [], pDesc := (ds.getD 1 none).getD [], rDesc := (ds.getD 2 none).getD [], age := s.now }
            (heldCmd s shoe seq l g b .assay).modAsy fun a => { a with waiting := a.waiting ++ [q] }

/-- The order in which searches are admitted: by class, then by age (R319). -/
def searchBefore (s : State) (a b : Search) : Bool := decide (effClass s b.shoe < effClass s a.shoe)

/-- Insert a search behind its equals. -/
def insertSearch (s : State) (x : Search) : List Search → List Search
  | [] => [x]
  | y :: ys => if searchBefore s x y then x :: y :: ys else y :: insertSearch s x ys

/-- The searches that are admitted whole, at most 256 queries in all (R319). -/
def admitted256 : Nat → List Search → List Search
  | _, [] => []
  | n, q :: qs => if n + q.queries ≤ 256 then q :: admitted256 (n + q.queries) qs else []

/-- What a batch start fixes for a search (R317, R324). -/
def startSearch (s : State) (q : Search) : State × Search :=
  let x := s.index q.index
  let q1 := { q with header := x.header, epoch := x.epoch, heapHead := x.heapHead, heapTaken := x.heapTaken }
  let fetch : Run (List Byte × List Byte) :=
    (readHeads x.claim x.header s).andThen fun hs s =>
    ((if q.pDesc.isEmpty then (s, .ok []) else readClaim s x.claim (dBase q.pDesc) (dRow q.pDesc)) : Run (List Byte)).andThen fun p s => (s, .ok (hs, p))
  match fetch with
  | (s, .error e) => (s, { q1 with fail := some e })
  | (s, .ok (hs, p)) => (s, { q1 with heads := hs, permit := p })

/-- Form a batch of the searches that wait (R319); none forms when none waits. -/
def formBatch (s : State) : State :=
  let qs := admitted256 0 ((waitingSearches s).foldl (fun l q => insertSearch s q l) [])
  if qs.isEmpty then s
  else
    let r := qs.foldl (fun (acc : State × List Search) q => let x := startSearch acc.1 q; (x.1, acc.2 ++ [x.2])) (s, [])
    r.1.modAsy fun a =>
      { a with
        batch := some r.2
        waiting := (waitingSearches s).filter fun q => !qs.contains q
        batches := (a.batches + 1) % 2 ^ 32 }

/-- The engine runs in continuous mode (R320). -/
def asyContinuous (s : State) : Bool := s.asy.continuous || !s.beat.aligned

/-- ASSAY_WINDOW fires (R319). -/
def openWindow (s : State) : State :=
  if s.asy.windowOpen then s
  else
    let s1 := s.modAsy fun a => { a with windowOpen := true }
    if s.asy.batch.isSome then s1.modAsy fun a => { a with overruns := satInc 16 a.overruns } else formBatch s1

/-- hamming() of R317. -/
def hamming (a b : List Byte) : Nat :=
  (List.zipWith (fun (x y : Byte) => ((List.range 8).filter fun i => (x ^^^ y).toNat.testBit i).length) a b).foldl (· + ·) 0

/-- sees() of R316 on valid, insert and delete epochs. -/
def seesItem (s valid ins del : Nat) : Bool := decide (valid % 2 = 1) && decide (ins ≤ s) && (decide (del = 0) || decide (s < del))

/-- permitted() of R316. -/
def permitsItem (q : Search) (id : Nat) : Bool :=
  q.pDesc.isEmpty || (decide (id < dExt q.pDesc 0) && bit (field q.permit (id / 8) 1) (id % 8))

/-- A search's result record (Table 15.5). -/
def searchRecord (h : List Byte) (id score vein : Nat) (heap : Bool) : List Byte :=
  leBytes 6 id ++ leBytes 2 (1 + 2 * b2n heap) ++ leBytes 4 (encodeElem .fp32 (ofInt (score : Int))) ++ leBytes 4 vein
    ++ leBytes 2 (ihShard h) ++ List.replicate 14 0#8

/-- A candidate with its score. -/
def candidate (h : List Byte) (id score vein : Nat) (heap : Bool) : (FP × Nat) × List Byte :=
  ((ofInt (score : Int), id), searchRecord h id score vein heap)

/-- The veins that a query probes (R317). -/
def probeVeins (q : Search) (sk : List Byte) : List Nat :=
  let h := q.header
  let ds := (List.range (ihVeins h)).map fun v => (hamming sk (vhSketch h (veinHead h q.heads v)), v)
  let pick := ds.foldl (fun l x =>
    let rec ins : List (Nat × Nat) → List (Nat × Nat)
      | [] => [x]
      | y :: ys => if x.1 < y.1 then x :: y :: ys else y :: ins ys
    (ins l).take (min q.probes (ihVeins h))) []
  pick.map (·.2)

/-- The candidates of one vein. -/
def veinCandidates (q : Search) (sk : List Byte) (v : Nat) (s : State) : Run (List ((FP × Nat) × List Byte)) :=
  let h := q.header
  let r := veinHead h q.heads v
  let n := q.shoe
  if vhCapacity r < vhCount r then (s, .error (0x0602, 0))
  else
    (runEach (fun e s =>
      (readClaim s n (ihTags h + 16 * e) 16).andThen fun t s =>
        let id := field t 0 6
        if seesItem q.epoch (field t 6 2) (field t 8 4) (field t 0xC 4) && permitsItem q id then
          (readClaim s n (ihSketches h + sketchBytes h * e) (sketchBytes h)).andThen fun k s =>
            (s, .ok (some (candidate h id (hamming sk k) v false)))
        else (s, .ok none)) (rangeFrom (vhBase r) (vhCount r)) s).andThen fun cs s => (s, .ok (cs.filterMap fun c => c))

/-- The address of heap record p (R321). -/
def heapAddr (h : List Byte) (p : Nat) : Nat := ihHeap h + p % ihCapacity h * heapBytes h

/-- The numbers of the heap records from `a` up to `b`, modulo 2^32. -/
def heapRange (a b : Nat) : List Nat := (List.range (dist32 a b)).map fun i => (a + i) % 2 ^ 32

/-- The candidates of the heap (R317). -/
def heapCandidates (q : Search) (sk : List Byte) (s : State) : Run (List ((FP × Nat) × List Byte)) :=
  let h := q.header
  (runEach (fun p s =>
    (readClaim s q.shoe (heapAddr h p) (heapBytes h)).andThen fun r s =>
      let id := field r 8 6
      if field r 0 1 = 1 ∧ ¬ bit (field r 1 1) 1 ∧ seesItem q.epoch 1 (field r 0x10 4) (field r 0x14 4) ∧ permitsItem q id then
        (s, .ok (some (candidate h id (hamming sk (bytesAt r 0x20 (sketchBytes h))) 0xFFFFFFFF true)))
      else (s, .ok none)) (heapRange q.heapHead q.heapTaken) s).andThen fun cs s => (s, .ok (cs.filterMap fun c => c))

/-- One query of a search (R317): its records in order. -/
def runQuery (q : Search) (i : Nat) (s : State) : Run (List (List Byte)) :=
  (readClaim s q.shoe (dAddr q.qDesc i 0 0) (dRow q.qDesc)).andThen fun sk s =>
  (runEach (fun v s => veinCandidates q sk v s) (probeVeins q sk) s).andThen fun vs s =>
  (heapCandidates q sk s).andThen fun hs s =>
    (s, .ok (((vs.flatten ++ hs).foldl (fun l c => insertK q.k c l) []).map (·.2)))

/-- A search of the batch runs and its results are written (R317, R318). -/
def runSearch (q : Search) (s : State) : Run (List (List (List Byte))) :=
  match q.fail with
  | some e => (s, .error e)
  | none =>
    (runEach (fun i s => runQuery q i s) (List.range q.queries) s).andThen fun rows s =>
    (writeResults q.shoe q.k (ihShift q.header) q.rDesc rows s).andThen fun _ s => (s, .ok rows)

/-- A search of the batch ends its command (R318). -/
def finishSearch (s : State) (q : Search) : State :=
  if !searchLive s q then s
  else
    match runSearch q s with
    | (s, .error e) => failAt s q.shoe q.seq q.level q.granule e.1 e.2
    | (s, .ok rows) => completeCmd (noteShort s q.shoe q.seq q.k rows) q.shoe q.seq q.level q.granule

/-- A merge's key: score, then shard, then item (R326). -/
def mergeKey (r : List Byte) : FP × Nat := (f32 (field r 8 4), field r 0x10 2 * 2 ^ 48 + field r 0 6)

/-- The records of one query of a merge, best first (R326). -/
def mergeQuery (n k : Nat) (d : List Byte) (lists i : Nat) (s : State) : Run (List (List Byte)) :=
  (runEach (fun x s => readClaim s n (dAddr d (x % dExt d 1) i (x / dExt d 1)) 32) (List.range (lists * dExt d 1)) s).andThen fun rs s =>
    (s, .ok (((rs.filter fun r => bit (field r 6 2) 0).foldl (fun l r => insertK k (mergeKey r, r) l) []).map (·.2)))

/-- ASSAY with index 0xFFFF (R326). In the bitmap form each merged id names its own bit. -/
def assayMerge (s : State) (shoe seq l : Nat) : State :=
  match nextCmd s shoe seq l 0x0B with
  | none => s
  | some (_, g, b) =>
    if asIndex b ≠ 0xFFFF then s
    else
      match readAssayDescs shoe b s with
      | (s, .error e) => failAt s shoe seq l g e.1 e.2
      | (s, .ok ds) =>
        match assayFault true 0 b ds with
        | some e => failAt s shoe seq l g e.1 e.2
        | none =>
          let q := (ds.getD 0 none).getD []
          match runEach (fun i s => mergeQuery shoe (asK b) q (asProbes b) i s) (List.range (asQueries b)) s with
          | (s, .error e) => failAt s shoe seq l g e.1 e.2
          | (s, .ok rows) =>
            match writeResults shoe (asK b) 0 ((ds.getD 2 none).getD []) rows s with
            | (s, .error e) => failAt s shoe seq l g e.1 e.2
            | (s, .ok _) => doneCmd (noteShort s shoe seq (asK b) rows) shoe seq l g b

/-- Write 16 bytes of a tag within its granule (R336). -/
def writeTag (n va : Nat) (t : List Byte) (s : State) : Run Unit :=
  let g := va / 32 * 32
  (readClaim s n g 32).andThen fun b s => writeClaim s n g (b.take (va - g) ++ t ++ b.drop (va - g + 16))

/-- Write a sketch within its granules (R336). -/
def writeSketch (n va : Nat) (k : List Byte) (s : State) : Run Unit :=
  if k.length % 32 = 0 then writeClaim s n va k else writeTag n va k s

/-- The tag of the first live item of an id in a vein: its address and bytes (R322). -/
def findTag (n : Nat) (h head : List Byte) (id : Nat) (s : State) : Run (Option (Nat × List Byte)) :=
  (runEach (fun e s => (readClaim s n (ihTags h + 16 * e) 16).andThen fun t s => (s, .ok (ihTags h + 16 * e, t)))
    (rangeFrom (vhBase head) (vhCount head)) s).andThen fun ts s =>
      (s, .ok (ts.find? fun x => bit (field x.2 6 2) 0 && decide (field x.2 0 6 = id) && decide (field x.2 0xC 4 = 0)))

/-- The first taken, unretired heap insert of an id that is not deleted, before record p (R322). -/
def findHeap (n : Nat) (h : List Byte) (from_ p id : Nat) (s : State) : Run (Option (Nat × List Byte)) :=
  (runEach (fun k s => (readClaim s n (heapAddr h k) (heapBytes h)).andThen fun r s => (s, .ok (heapAddr h k, r)))
    (heapRange from_ p) s).andThen fun rs s =>
      (s, .ok (rs.find? fun x => decide (field x.2 0 1 = 1) && bit (field x.2 1 1) 0 && !bit (field x.2 1 1) 1
        && decide (field x.2 8 6 = id) && decide (field x.2 0x14 4 = 0)))

/-- A heap record with its flags and epochs set: its first granule. -/
def heapGranule (r : List Byte) (flags ins del : Nat) : List Byte :=
  bytesAt r 0 1 ++ leBytes 1 flags ++ bytesAt r 2 14 ++ leBytes 4 ins ++ leBytes 4 del ++ bytesAt r 0x18 8

/-- Take in one published record at epoch e (R322); the answer is how many were skipped. -/
def takeRecord (i p e : Nat) (s : State) : Run Nat :=
  let x := s.index i
  let h := x.header
  let n := x.claim
  let a := heapAddr h p
  (readClaim s n a (heapBytes h)).andThen fun r s =>
    if field r 0 1 = 1 then (writeClaim s n a (heapGranule r 1 e 0)).andThen fun _ s => (s, .ok 0)
    else
      let retire (s : State) (k : Nat) : Run Nat :=
        (writeClaim s n a (heapGranule r 3 (field r 0x10 4) (field r 0x14 4))).andThen fun _ s => (s, .ok k)
      if field r 0 1 ≠ 2 then retire s 1
      else
        let v := field r 4 4
        (if v < ihVeins h then
            (readClaim s n (ihHeads h + v * headBytes h) (headBytes h)).andThen fun hd s => findTag n h hd (field r 8 6) s
          else (s, .ok none)).andThen fun tag s =>
          match tag with
          | some (va, t) => (writeTag n va (t.take 12 ++ leBytes 4 e) s).andThen fun _ s => retire s 0
          | none =>
            (findHeap n h x.heapHead p (field r 8 6) s).andThen fun hp s =>
              match hp with
              | some (va, t) =>
                (writeClaim s n va (heapGranule t (field t 1 1) (field t 0x10 4) e)).andThen fun _ s => retire s 0
              | none => retire s 1

/-- heap_head passes every leading retired record (R322, R323). -/
def passRetired : Nat → Nat → State → State
  | 0, _, s => s
  | fuel + 1, i, s =>
    let x := s.index i
    if x.heapHead = x.heapTaken then s.modIndex i fun x => { x with heapBlocked := false }
    else
      match readClaim s x.claim (heapAddr x.header x.heapHead) 32 with
      | (s, .error _) => s
      | (s, .ok r) =>
        if bit (field r 1 1) 1 then passRetired fuel i (s.modIndex i fun x => { x with heapHead := (x.heapHead + 1) % 2 ^ 32 })
        else s.modIndex i fun x => { x with heapBlocked := true }

/-- An advance of index i, which stood at x, takes in the records that its publish tally announces and its heap has room
for (R322). -/
def advanceTake (s : State) (i : Nat) (x : Index) (want room : Nat) : State :=
  match runEach (fun p s => takeRecord i p (x.epoch + 1) s) (heapRange x.heapTaken (x.heapTaken + min want room)) s with
  | (s, .error _) => s
  | (s, .ok skips) =>
    storeGranule (passRetired (ihCapacity x.header + 1) i (s.modIndex i fun y =>
      { y with
        heapTaken := (y.heapTaken + min want room) % 2 ^ 32
        epoch := x.epoch + 1
        publishPoisoned := false
        skipped := (y.skipped + total skips) % 2 ^ 32
        st := if room < want then .stuck else y.st
        cause := if room < want then 0x0613 else y.cause })) i

/-- An index advances (R322). -/
def advanceIndex (s : State) (i : Nat) : State :=
  let x := s.index i
  if x.st ≠ .bound then s
  else if x.epoch = 2 ^ 32 - 1 then s.modIndex i fun x => { x with st := .stuck, cause := 0x0612 }
  else
    match resolveTally s x.claim (ihTally x.header) with
    | none => storeGranule (s.modIndex i fun x => { x with publishPoisoned := true }) i
    | some t =>
      if (s.tally t).poisoned then storeGranule (s.modIndex i fun x => { x with publishPoisoned := true }) i
      else
        let pub := (s.tally t).value.toNat
        let want := if dist32 x.heapTaken pub < 2 ^ 31 then dist32 x.heapTaken pub else 0
        advanceTake s i x want (dist32 x.heapTaken (x.heapHead + ihCapacity x.header))

/-- The index's publish tally differs from what has been taken in (R322). -/
def advanceDue (s : State) (i : Nat) : Bool :=
  let x := s.index i
  match resolveTally s x.claim (ihTally x.header) with
  | some t => x.st == .bound && ihEager x.header && decide ((s.tally t).value.toNat ≠ x.heapTaken)
  | none => false

/-- Eager indexes advance at a window's close and, in continuous mode, after each batch (R322); what waited for a move that
their writes committed looks again. -/
def advanceEager (s : State) : State :=
  settlePages ((List.range 64).foldl (fun s i => if advanceDue s i then advanceIndex s i else s) s)

/-- An advance names one index, or all of them (R322); what waited for a move that its writes committed looks again. -/
def advanceNamed (s : State) (arg : Nat) : State :=
  settlePages (if arg = 0xFFFF then (List.range 64).foldl advanceIndex s else if arg < 64 then advanceIndex s arg else s)

/-- The batch ends (R317, R319): every command of it has its results. -/
def batchComplete (s : State) : State :=
  match s.asy.batch with
  | none => s
  | some qs =>
    let s1 := closeIndexes (qs.foldl finishSearch (s.modAsy fun a => { a with batch := none }))
    if asyContinuous s1 then advanceEager s1 else s1

/-- ASSAY_WINDOW_CLOSE (R319, R322). -/
def closeWindow (s : State) : State :=
  if s.asy.windowOpen then advanceEager (s.modAsy fun a => { a with windowOpen := false }) else s

/-- CONTINUOUS_BATCH (R320). -/
def continuousBatch (s : State) : State :=
  if asyContinuous s && s.asy.batch.isNone && !s.redealing then formBatch s else s

/-- The vein of a backfilled record: its own, or the nearest head's (R323). -/
def targetVein (h heads r : List Byte) : Nat :=
  if field r 4 4 < ihVeins h then field r 4 4
  else
    let sk := bytesAt r 0x20 (sketchBytes h)
    ((List.range (ihVeins h)).foldl (fun (best : Nat × Nat) v =>
      let d := hamming sk (vhSketch h (veinHead h heads v))
      if d < best.1 then (d, v) else best) (2 ^ 32, 0)).2

/-- Backfill one record (R323); the answer is how many spilled. -/
def backfillRecord (i p : Nat) (s : State) : Run Nat :=
  let x := s.index i
  let h := x.header
  let n := x.claim
  let a := heapAddr h p
  (readClaim s n a (heapBytes h)).andThen fun r s =>
    let retire (s : State) : Run Nat :=
      (writeClaim s n a (heapGranule r (field r 1 1 ||| 2) (field r 0x10 4) (field r 0x14 4))).andThen fun _ s => (s, .ok 0)
    if bit (field r 1 1) 1 then (s, .ok 0)
    else if field r 0x14 4 ≠ 0 then retire s
    else
      (readHeads n h s).andThen fun heads s =>
        let v := targetVein h heads r
        let hd := veinHead h heads v
        if vhCount hd = vhCapacity hd then (s, .ok 1)
        else
          let e := vhBase hd + vhCount hd
          (writeTag n (ihTags h + 16 * e) (bytesAt r 8 6 ++ leBytes 2 1 ++ bytesAt r 0x10 8) s).andThen fun _ s =>
          (writeSketch n (ihSketches h + sketchBytes h * e) (bytesAt r 0x20 (sketchBytes h)) s).andThen fun _ s =>
          (writeClaim s n (ihHeads h + v * headBytes h) (hd.take 8 ++ leBytes 4 (vhCount hd + 1) ++ (hd.drop 12).take 20)).andThen fun _ s =>
            retire s

/-- Backfill one index in heap order (R323). -/
def backfillIndex (s : State) (i : Nat) : State :=
  let x := s.index i
  if x.st = .unbound then s
  else
    match runEach (fun p s => backfillRecord i p s) (heapRange x.heapHead x.heapTaken) s with
    | (s, .error _) => s
    | (s, .ok sp) =>
      storeGranule (passRetired (ihCapacity x.header + 1) i (s.modIndex i fun x => { x with spilled := (x.spilled + total sp) % 2 ^ 32 })) i

/-- BACKFILL (R320, R323): no window is open, or the engine is continuous, and no batch runs. -/
def backfill (s : State) : State :=
  if (!s.asy.windowOpen || asyContinuous s) && s.asy.batch.isNone && !s.redealing then (List.range 64).foldl backfillIndex s else s

/-- The ranges that a search's results take (R318). -/
def resultRanges (q : Search) : List (Nat × Nat) :=
  let r := q.rDesc
  if dFmt r = 0 then (List.range q.queries).flatMap fun i => (List.range q.k).map fun j => (dAddr r j i 0, 32)
  else if dRank r = 1 then [(dBase r, dRow r)]
  else (List.range q.queries).map fun i => (dAddr r i 0 0, dRow r)

/-- The running batch stops: the result rows of its commands hold free bytes (R328). -/
def stopBatch (s : State) : State :=
  ((s.asy.batch.getD []).filter (searchLive s)).foldl (fun s q =>
    (resultRanges q).foldl (fun s x => let r := freeBytes s x.2; (writeClaim r.1 q.shoe x.1 r.2 false).1) s) s

/-- The searches of the running batch stop and every index is unbound, as at a redeal (R312, R328). -/
def resetAssay (s : State) : State :=
  let s1 := (List.range 64).foldl (fun s i =>
    let x := s.index i
    if x.st = .unbound then s else unpinPages s x.claim x.pins) s
  s1.modAsy fun a => { overruns := a.overruns, batches := a.batches }

end Sys2Proof.Machine
end

