-- ==== Sys2Proof/Machine/NetOps.lean ====
section
/-! DEFINITION. The ordinary network (chapter 14): queue pairs (R298 to R305), the region table, the Ethernet ports and
the raw rings. A host read's answer is an operand of the command that takes it. -/

namespace Sys2Proof.Machine

/-- Change the ENT_ block, a port of it, and a claim's part of it. -/
def State.modNet (s : State) (f : Net → Net) : State := { s with net := f s.net }
def State.modEth (s : State) (p : Nat) (f : EthPort → EthPort) : State :=
  s.modNet fun n => { n with ports := tmod n.ports p f }
def State.modClaimNet (s : State) (c : Nat) (f : ClaimNet → ClaimNet) : State :=
  s.modNet fun n => { n with claims := tmod n.claims c f }

/-- The queue pair of a claim's handle. -/
def findQp (s : State) (c h : Nat) : Option Qp := s.net.qps.find? fun q => q.claim == c && q.handle == h

/-- Change a queue pair. -/
def State.modQp (s : State) (c h : Nat) (f : Qp → Qp) : State :=
  s.modNet fun n => { n with qps := n.qps.map fun q => if q.claim == c && q.handle == h then f q else q }

/-- Fields of a context (Table 14.4). -/
def Qp.port (q : Qp) : Nat := field q.ctx 1 1
def Qp.mtu (q : Qp) : Nat := 1024 * 2 ^ field q.ctx 2 1
def Qp.destQpn (q : Qp) : Nat := field q.ctx 4 3
def Qp.dscp (q : Qp) : Nat := field q.ctx 0x17 1
def Qp.sqLog (q : Qp) : Nat := field q.ctx 0x40 1
def Qp.rqLog (q : Qp) : Nat := field q.ctx 0x41 1
def Qp.cqLog (q : Qp) : Nat := field q.ctx 0x42 1
def Qp.qpn (q : Qp) : Nat := 0x1000 + q.dev

/-- Fields of a work queue entry (Table 14.5). -/
def wOp (b : List Byte) : Nat := field b 0 1
def wSignal (b : List Byte) : Bool := bit (field b 1 1) 0
def wFence (b : List Byte) : Bool := bit (field b 1 1) 1
def wHost (b : List Byte) : Bool := bit (field b 1 1) 2
def wTally (b : List Byte) : Nat := field b 2 2
def wLen (b : List Byte) : Nat := field b 4 4
def wLocal (b : List Byte) : Nat := field b 8 8
def wRemote (b : List Byte) : Nat := field b 0x10 8
def wKey (b : List Byte) : Nat := field b 0x18 4
def wImm (b : List Byte) : Nat := field b 0x1C 4

/-- The ADD of a successful completion, under the host-window rules (R219, R223, R303). -/
def completionAdd (s : State) (c n : Nat) : State := if n = 0xFFFF then s else windowOp s c n fun s d => agentAdd s d 1

/-- The POISON of a failed entry's tally (R303). -/
def completionPoison (s : State) (c n cause : Nat) : State :=
  if n < (s.claim c).tallyCount then poisonTally s ((s.claim c).tallyBase + n) cause else s

/-- Is the completion queue full (R303)? -/
def Qp.cqFull (q : Qp) : Bool := decide ((q.cqProduce + 1) % 2 ^ q.cqLog = q.cqConsumed)

/-- ENT_QP_DB_h.cq_hold. -/
def Qp.cqHold (q : Qp) : Bool := q.cqFull || !q.records.isEmpty

/-- Write one record at the completion queue's produce index, then add to its tally (R303). A record that no window holds
is not written: its entry fails with 0x0424, and the queue pair is in ERR (R285, Edges). -/
def writeCqe (s : State) (c h : Nat) (q : Qp) (r : List Byte × Nat) : State :=
  let rec_ := r.1.take 0x12 ++ leBytes 1 (field r.1 0x12 1 + b2n q.cqPhase) ++ r.1.drop 0x13
  let a := field q.ctx 0x38 8 + 32 * q.cqProduce
  if !winOk s (fnOf c) a 32 then
    completionPoison (s.modQp c h fun q => { q with st := .err, records := q.records.tail }) c r.2 0x0424
  else
  let s1 := postHost s (fnOf c) a rec_
  let wrap := decide (q.cqProduce + 1 = 2 ^ q.cqLog)
  let s2 := s1.modQp c h fun q =>
    { q with
      cqProduce := if wrap then 0 else q.cqProduce + 1
      cqPhase := if wrap then !q.cqPhase else q.cqPhase
      records := q.records.tail }
  completionAdd s2 c r.2

/-- Write the records that wait, while there is room and the function may issue requests (R288, R303). -/
def drainRecords (c h : Nat) : Nat → State → State
  | 0, s => s
  | n + 1, s =>
    match findQp s c h with
    | none => s
    | some q =>
      match q.records with
      | [] => s
      | r :: _ => if q.cqFull || !canIssue s (fnOf c) then s else drainRecords c h n (writeCqe s c h q r)

/-- A record falls due. -/
def pushRecord (s : State) (c h : Nat) (rec_ : List Byte) (tally : Nat) : State :=
  let s1 := s.modQp c h fun q => { q with records := q.records ++ [(rec_, tally)] }
  drainRecords c h (((findQp s1 c h).map fun q => q.records.length).getD 0) s1

/-- A completion record without its valid_phase (Table 14.6). -/
def cqeBytes (h : Nat) (w : Wqe) (recv : Bool) (len cause : Nat) (imm : Option Nat) : List Byte :=
  bytesAt w.bytes 0x20 8 ++ leBytes 4 len ++ leBytes 4 (imm.getD 0) ++ leBytes 2 cause
    ++ leBytes 1 (2 * b2n (decide (cause ≠ 0)) + 4 * b2n recv + 8 * b2n imm.isSome) ++ bytesAt w.bytes 0 1
    ++ leBytes 2 h ++ leBytes 2 w.index ++ List.replicate 8 0#8

/-- An entry fails with a cause: its record, and its tally POISONED (R303). -/
def failWqe (s : State) (c h : Nat) (recv : Bool) (cause : Nat) (w : Wqe) : State :=
  completionPoison (pushRecord s c h (cqeBytes h w recv (if recv then 0 else wLen w.bytes) cause none) 0xFFFF) c
    (wTally w.bytes) cause

/-- A queue pair enters ERR and every entry that has been read completes with 0x0423 (R303). -/
def enterErr (s : State) (c h : Nat) : State :=
  match findQp s c h with
  | none => s
  | some q =>
    let s1 := s.modQp c h fun q => { q with st := .err, sent := [], waiting := [], recvs := [], rnrWait := false }
    let s2 := (q.sent ++ q.waiting).foldl (fun s w => failWqe s c h false 0x0423 w) s1
    q.recvs.foldl (fun s w => failWqe s c h true 0x0423 w) s2

/-- A queue pair that is in ERR with entries still to flush flushes them (R303). -/
def settleErr (s : State) (c h : Nat) : State :=
  match findQp s c h with
  | none => s
  | some q => if q.st = .err ∧ !(q.sent ++ q.waiting ++ q.recvs).isEmpty then enterErr s c h else s

/-- One entry fails and its queue pair enters ERR. -/
def failEntry (s : State) (c h : Nat) (recv : Bool) (cause : Nat) (w : Wqe) : State :=
  enterErr (failWqe s c h recv cause w) c h

/-- An entry completes successfully (R303). -/
def completeWqe (s : State) (c h : Nat) (w : Wqe) : State :=
  if wSignal w.bytes then settleErr (pushRecord s c h (cqeBytes h w false (wLen w.bytes) 0 none) (wTally w.bytes)) c h
  else completionAdd s c (wTally w.bytes)

/-- The MAC address of a port, in network order. -/
def portMac (s : State) (p : Nat) : Nat := if p = 0 then s.image.mac0 else s.image.mac1

/-- Where a queue pair's packets come from and go to: source and destination MAC, GID, destination IP, IPv6 (R295, Table
14.4). -/
def roceAddr (s : State) (q : Qp) : List Nat :=
  [portMac s q.port, field q.ctx 0x10 6, tget (tget s.net.ports q.port).gids (field q.ctx 0x16 1), field q.ctx 0x18 16, b2n (bit (field q.ctx 3 1) 0)]

/-- A RoCE packet of a queue pair, with its DSCP and ECT(0) (R305). -/
def rocePacket (s : State) (q : Qp) (kind dscp : Nat) (fields : List Nat) (payload : List Byte) : Output :=
  .ethernet q.port kind (roceAddr s q ++ [dscp, 2] ++ fields) payload

/-- Send a RoCE packet: nothing leaves a port that is down, and a paused port holds it (R306). -/
def sendRoce (s : State) (q : Qp) (kind dscp : Nat) (fields : List Nat) (payload : List Byte) : State :=
  let x := tget s.net.ports q.port
  if !x.up then s
  else if x.paused && s.net.pfcEnable then s.modEth q.port fun x => { x with held := x.held ++ [rocePacket s q kind dscp fields payload] }
  else s.emit (rocePacket s q kind dscp fields payload)

/-- How many packets a message of a length takes. -/
def packetCount (mtu len : Nat) : Nat := max 1 ((len + mtu - 1) / mtu)

/-- Send a request's packets: opcode, packet and count, queue pair, sequence, remote address, key, immediate, DSCP. -/
def sendRequest (s : State) (q : Qp) (w : Wqe) : State :=
  (List.range (if wOp w.bytes = 5 then 1 else w.packets)).foldl (fun s i =>
    sendRoce s q 1 q.dscp
      [wOp w.bytes, i, w.packets, q.destQpn, (w.psn + i) % 2 ^ 24, wRemote w.bytes, wKey w.bytes, wImm w.bytes, wLen w.bytes]
      ((w.payload.drop (q.mtu * i)).take q.mtu)) s

/-- What an entry must satisfy when it starts (Table 14.5, R301, R303): a cause, or none. -/
def entryFault (s : State) (c : Nat) (w : Wqe) : Option Nat :=
  let b := w.bytes
  let op := wOp b
  let remote := op == 3 || op == 4 || op == 5
  if w.lost then some 0x0424
  else if !((1 ≤ op && op ≤ 5) && decide (bits (field b 1 1) 3 5 = 0) && decide (wLen b ≤ 2 ^ 30) && allZero (bytesAt b 0x28 24)
      && (remote || (decide (wRemote b = 0) && decide (wKey b = 0))) && (op == 2 || op == 4 || decide (wImm b = 0))) then some 0x0424
  else if wTally b ≠ 0xFFFF ∧ !hostWritable s c (wTally b) then some 0x0424
  else if wHost b && decide (wLen b ≠ 0) && !winOk s (fnOf c) (wLocal b) (wLen b) then some 0x0424
  else if op = 5 && !wHost b && !(decide (wLocal b % 32 = 0) && decide (wLen b % 32 = 0)) then some 0x0424
  else none

/-- Start an entry (R300, R301, R303): its bytes are read and its packets sent. -/
def startEntry (s : State) (c h : Nat) (w : Wqe) : State :=
  match findQp s c h, entryFault s c w with
  | none, _ => s
  | some _, some cause => failEntry s c h false cause w
  | some q, none =>
    let data : Run (List Byte) :=
      if wOp w.bytes = 5 then (s, .ok []) else if wHost w.bytes then (s, .ok (bytesAt w.payload 0 (wLen w.bytes)))
      else readClaim s c (wLocal w.bytes % 2 ^ 40) (wLen w.bytes)
    match data with
    | (s, .error e) => failEntry s c h false e.1 w
    | (s, .ok bs) =>
      let w1 := { w with psn := q.sqPsn, packets := packetCount q.mtu (wLen w.bytes), payload := bs }
      sendRequest (s.modQp c h fun q =>
        { q with sent := q.sent ++ [w1], sqPsn := (q.sqPsn + w1.packets) % 2 ^ 24 }) q w1

/-- Requests of a redeal or its aftermath hold the claim's queue pairs (R304, R361). -/
def qpHeld (s : State) (q : Qp) : Bool := s.redealing || q.heldForShoe

/-- The queue pair may start an entry (R288, R303, R304). -/
def mayStart (s : State) (q : Qp) : Bool := q.st = .rts && !q.cqHold && !q.rnrWait && !qpHeld s q && canIssue s (fnOf q.claim)

/-- READs that are outstanding. -/
def Qp.reads (q : Qp) : Nat := (q.sent.filter fun w => wOp w.bytes == 5).length

/-- The head entry may start now: its fence and the limit of READs (Tables 14.4 and 14.5). -/
def headReady (q : Qp) (w : Wqe) : Bool :=
  (!wFence w.bytes || decide (q.reads = 0)) && (decide (wOp w.bytes ≠ 5) || decide (q.reads < field q.ctx 0x47 1))

/-- Start the entries that have been read, in order, while they may. -/
def startWaiting (c h : Nat) : Nat → State → State
  | 0, s => s
  | n + 1, s =>
    match findQp s c h with
    | none => s
    | some q =>
      match q.waiting with
      | [] => s
      | w :: ws =>
        if mayStart s q && headReady q w then
          startWaiting c h n (startEntry (s.modQp c h fun q => { q with waiting := ws }) c h w)
        else s

/-- The read of an entry of a queue of 64-byte entries: issued only inside a window (R285, R289). -/
def readWqe (s : State) (c base idx : Nat) (r payload : HostResp) : State × Wqe :=
  let a := base + 64 * idx
  if winOk s (fnOf c) a 64 then
    match readHost s (fnOf c) a 64 r with
    | (s1, none) => (s1, { index := idx, bytes := [], lost := true })
    | (s1, some b) =>
      if (wOp b = 1 || wOp b = 2 || wOp b = 3 || wOp b = 4) && wHost b && decide (wLen b ≠ 0) && winOk s (fnOf c) (wLocal b) (wLen b) then
        match readHost s1 (fnOf c) (wLocal b) (wLen b) payload with
        | (s2, none) => (s2, { index := idx, bytes := b, lost := true })
        | (s2, some p) => (s2, { index := idx, bytes := b, payload := p })
      else (s1, { index := idx, bytes := b })
  else (s, { index := idx, bytes := [], lost := true })

/-- Read send entries with the answers at hand and start them (R300); in ERR they are flushed (R303). -/
def runSq (c h : Nat) : List (HostResp × HostResp) → State → State
  | [], s =>
    let s1 := drainRecords c h (((findQp s c h).map fun q => q.records.length).getD 0) s
    startWaiting c h (((findQp s1 c h).map fun q => q.waiting.length).getD 0) s1
  | f :: fs, s0 =>
    let s1 := drainRecords c h (((findQp s0 c h).map fun q => q.records.length).getD 0) s0
    let s := startWaiting c h (((findQp s1 c h).map fun q => q.waiting.length).getD 0) s1
    match findQp s c h with
    | none => s
    | some q =>
      if q.sqRead = q.sqProduce ∨ !canIssue s (fnOf c) ∨ qpHeld s q then s
      else if q.st = .rts && !q.cqHold && !q.rnrWait && q.waiting.isEmpty then
        let r := readWqe s c (field q.ctx 0x28 8) q.sqRead f.1 f.2
        runSq c h fs (r.1.modQp c h fun q =>
          { q with sqRead := (q.sqRead + 1) % 2 ^ q.sqLog, waiting := [r.2] })
      else if q.st = .err then
        let r := readWqe s c (field q.ctx 0x28 8) q.sqRead f.1 f.2
        runSq c h fs (failWqe (r.1.modQp c h fun q => { q with sqRead := (q.sqRead + 1) % 2 ^ q.sqLog }) c h false 0x0423 r.2)
      else s

/-- Read receive entries with the answers at hand (R300). -/
def readRq (c h : Nat) : List HostResp → State → State
  | [], s => s
  | f :: fs, s =>
    match findQp s c h with
    | none => s
    | some q =>
      if q.rqRead = q.rqProduce ∨ !canIssue s (fnOf c) then s
      else
        let r := readWqe s c (field q.ctx 0x30 8) q.rqRead f .err
        let s1 := r.1.modQp c h fun q => { q with rqRead := (q.rqRead + 1) % 2 ^ q.rqLog }
        if q.st = .err then readRq c h fs (failWqe s1 c h true 0x0423 r.2)
        else readRq c h fs (s1.modQp c h fun q => { q with recvs := q.recvs ++ [r.2] })

/-- Writing sq_produce (R300). An index outside the ring is ignored. -/
def sqDoorbell (s : State) (c h v : Nat) (feeds : List (HostResp × HostResp)) : State :=
  match findQp s c h with
  | none => s
  | some q => if v < 2 ^ q.sqLog then runSq c h feeds (s.modQp c h fun q => { q with sqProduce := v }) else s

/-- Writing rq_produce (R300). -/
def rqDoorbell (s : State) (c h v : Nat) (feeds : List HostResp) : State :=
  match findQp s c h with
  | none => s
  | some q => if v < 2 ^ q.rqLog then readRq c h feeds (s.modQp c h fun q => { q with rqProduce := v }) else s

/-- Writing cq_consumed (R303). -/
def cqConsumed (s : State) (c h v : Nat) (feeds : List (HostResp × HostResp)) : State :=
  match findQp s c h with
  | none => s
  | some q => if v < 2 ^ q.cqLog then runSq c h feeds (s.modQp c h fun q => { q with cqConsumed := v }) else s

/-- a is at or after b in 24-bit sequence order. -/
def psnAtLeast (a b : Nat) : Bool := decide ((a + 2 ^ 24 - b % 2 ^ 24) % 2 ^ 24 < 2 ^ 23)

/-- Place a READ's answer in its local buffer (R301). -/
def placeRead (s : State) (c : Nat) (w : Wqe) (data : List Byte) : Run Unit :=
  if wHost w.bytes then
    if wLen w.bytes = 0 ∨ hostOk s (fnOf c) (wLocal w.bytes) (wLen w.bytes) then
      ((if wLen w.bytes = 0 then s else postHost s (fnOf c) (wLocal w.bytes) (bytesAt data 0 (wLen w.bytes))), .ok ())
    else (s, .error (0x0424, 0))
  else writeClaim s c (wLocal w.bytes % 2 ^ 40) (bytesAt data 0 (wLen w.bytes))

/-- Complete every entry whose packets the acknowledged sequence covers, oldest first; `reads` are the answers of the
READs among them. A READ into host memory waits while the function may not issue requests (R288). -/
def ackEntries (c h psn : Nat) : Nat → List (List Byte) → State → State
  | 0, _, s => s
  | n + 1, reads, s =>
    match findQp s c h with
    | none => s
    | some q =>
      match q.sent with
      | [] => s
      | w :: ws =>
        if !psnAtLeast psn (w.psn + w.packets - 1) then s
        else if wOp w.bytes = 5 ∧ wHost w.bytes ∧ wLen w.bytes ≠ 0 ∧ !canIssue s (fnOf c) then s
        else if wOp w.bytes = 5 then
          match reads with
          | [] => s
          | d :: ds =>
            match placeRead (s.modQp c h fun q => { q with sent := ws }) c w d with
            | (s1, .error e) => failEntry s1 c h false e.1 w
            | (s1, .ok _) => ackEntries c h psn n ds (completeWqe s1 c h w)
        else ackEntries c h psn n reads (completeWqe (s.modQp c h fun q => { q with sent := ws }) c h w)

/-- An acknowledgement arrives (R303). -/
def roceAck (s : State) (c h psn : Nat) (reads : List (List Byte)) (feeds : List (HostResp × HostResp)) : State :=
  match findQp s c h with
  | none => s
  | some q =>
    if q.st = .rts ∧ !s.redealing then runSq c h feeds (ackEntries c h psn q.sent.length reads s) else s

/-- Send again every entry that is not complete. -/
def resendAll (s : State) (c h : Nat) : State :=
  match findQp s c h with
  | none => s
  | some q => q.sent.foldl (fun s w => sendRequest s q w) s

/-- A request is retried, or fails with 0x0420 once its retries are spent (Table 14.4, R303). -/
def retryHead (s : State) (c h : Nat) : State :=
  match findQp s c h with
  | none => s
  | some q =>
    match q.sent with
    | [] => s
    | w :: ws =>
      if w.tries < field q.ctx 0x44 1 then
        resendAll (s.modQp c h fun q => { q with sent := { w with tries := w.tries + 1 } :: ws }) c h
      else failEntry (s.modQp c h fun q => { q with sent := ws }) c h false 0x0420 w

/-- What a NAK says. -/
abbrev NakCode := Nat

/-- A NAK arrives (R298, R303): entries before its sequence are complete; code 0 retries, 1 starts the RNR timer, 2 is
a remote access error and any other a remote operation error. PRESUMED, log entry 82. -/
def roceNak (s : State) (c h psn code : Nat) (reads : List (List Byte)) : State :=
  match findQp s c h with
  | none => s
  | some q =>
    if q.st ≠ .rts ∨ s.redealing then s
    else
      let s1 := ackEntries c h ((psn + 2 ^ 24 - 1) % 2 ^ 24) q.sent.length reads s
      match (findQp s1 c h).map (·.sent) with
      | some (w :: ws) =>
        if code = 0 then retryHead s1 c h
        else if code = 1 then s1.modQp c h fun q => { q with rnrWait := true }
        else failEntry (s1.modQp c h fun q => { q with sent := ws }) c h false (if code = 2 then 0x0421 else 0x0422) w
      | _ => s1

/-- The local ACK timeout expires; code 0 is infinite (Table 14.4, R303). -/
def ackTimeout (s : State) (c h : Nat) : State :=
  match findQp s c h with
  | none => s
  | some q => if q.st = .rts ∧ field q.ctx 0x43 1 ≠ 0 ∧ !q.rnrWait then retryHead s c h else s

/-- The RNR timer expires (R298): the request is sent again, or fails with 0x0425 once rnr_retry is spent. -/
def rnrExpiry (s : State) (c h : Nat) : State :=
  match findQp s c h with
  | none => s
  | some q =>
    if !q.rnrWait then s
    else
      match q.sent with
      | [] => s.modQp c h fun q => { q with rnrWait := false }
      | w :: ws =>
        let n := field q.ctx 0x45 1
        if n = 7 ∨ w.rnrTries < n then
          resendAll (s.modQp c h fun q => { q with rnrWait := false, sent := { w with rnrTries := w.rnrTries + 1 } :: ws }) c h
        else failEntry (s.modQp c h fun q => { q with sent := ws }) c h false 0x0425 w

/-- Answers of the responder: ACK, NAK and RNR NAK. -/
def sendAck (s : State) (q : Qp) (psn : Nat) : State := sendRoce s q 2 q.dscp [q.destQpn, psn] []
def sendNakR (s : State) (q : Qp) (psn code : Nat) : State := sendRoce s q 3 q.dscp [q.destQpn, psn, code] []
def sendRnr (s : State) (q : Qp) (psn : Nat) : State := sendRoce s q 4 q.dscp [q.destQpn, psn, field q.ctx 0x46 1] []

/-- An incoming request in sequence is handled, and one that needs host memory while its function may issue no request is
left to its peer's retransmission (R288); a duplicate is acknowledged again and one ahead draws a sequence NAK. DESIGN CHOICE,
log entry 135. Packets for a held or unready queue pair are discarded (R304). -/
def atPsn (s : State) (c h psn : Nat) (k : Qp → State) : State :=
  match findQp s c h with
  | none => s
  | some q =>
    if !(q.st = .rtr || q.st = .rts) || qpHeld s q then s
    else if psn % 2 ^ 24 = q.rqPsn then k q
    else if psnAtLeast q.rqPsn psn then sendAck s q ((q.rqPsn + 2 ^ 24 - 1) % 2 ^ 24)
    else sendNakR s q q.rqPsn 0

/-- A request that passed moves the expected sequence on and is acknowledged. -/
def acceptPsn (s : State) (c h packets : Nat) (q : Qp) : State :=
  sendAck (s.modQp c h fun q => { q with rqPsn := (q.rqPsn + packets) % 2 ^ 24 }) q ((q.rqPsn + packets + 2 ^ 24 - 1) % 2 ^ 24)

/-- Put a received payload in a receive entry's buffer, whose entry is within Table 14.5 (R300, R301). -/
def placeRecv (s : State) (c : Nat) (w : Wqe) (payload : List Byte) : Run Unit :=
  let b := w.bytes
  if w.lost ∨ wOp b ≠ 0x10 ∨ bits (field b 1 1) 3 5 ≠ 0 ∨ !allZero (bytesAt b 0x10 16) ∨ !allZero (bytesAt b 0x28 24) ∨ 2 ^ 30 < wLen b
    ∨ wLen b < payload.length ∨ (wTally b ≠ 0xFFFF ∧ !hostWritable s c (wTally b))
  then (s, .error (0x0424, 0))
  else if payload.isEmpty then (s, .ok ())
  else if wHost b then
    if hostOk s (fnOf c) (wLocal b) payload.length then (postHost s (fnOf c) (wLocal b) payload, .ok ()) else (s, .error (0x0424, 0))
  else if wLocal b % 32 ≠ 0 then (s, .error (0x0424, 0))
  else writeClaim s c (wLocal b % 2 ^ 40) (padGranule payload)

/-- A message consumes a receive entry: its payload, its record and its tally (R301, R303). -/
def consumeRecv (s : State) (c h psn packets : Nat) (payload : List Byte) (len : Nat) (imm : Option Nat) (q : Qp) : State :=
  match q.recvs with
  | [] => sendRnr s q psn
  | w :: ws =>
    if q.cqHold then sendRnr s q psn
    else if wHost w.bytes ∧ !payload.isEmpty ∧ !canIssue s (fnOf c) then s
    else
      let s0 := s.modQp c h fun q => { q with recvs := ws }
      match placeRecv s0 c w payload with
      | (s1, .error e) => sendNakR (failEntry s1 c h true e.1 w) q psn 3
      | (s1, .ok _) => acceptPsn (settleErr (pushRecord s1 c h (cqeBytes h w true len 0 imm) (wTally w.bytes)) c h) c h packets q

/-- An incoming SEND (R301, R303, R304). -/
def roceSend (s : State) (c h psn : Nat) (payload : List Byte) (imm : Option Nat) (feeds : List HostResp) : State :=
  let s1 := readRq c h feeds s
  atPsn s1 c h psn fun q => consumeRecv s1 c h psn (packetCount q.mtu payload.length) payload payload.length imm q

/-- The region that an rkey names for a queue pair's claim, when the request passes R302's checks.
DEDUCED, log entry 81. -/
def regionFor (s : State) (q : Qp) (rkey addr len : Nat) (write : Bool) : Option Region :=
  let r := tget (tget s.net.claims q.claim).regions (bits rkey 8 6)
  if decide (rkey / 2 ^ 17 = 0) && decide (bits rkey 14 3 = q.claim) && r.valid && decide (r.key = bits rkey 0 8)
      && (if write then r.remoteWrite && bit (field q.ctx 3 1) 1 else r.remoteRead && bit (field q.ctx 3 1) 2)
      && decide (r.base ≤ addr) && decide (addr + len ≤ r.base + r.length)
      && (r.host || (decide (addr % 32 = 0) && decide (len % 32 = 0))) then some r
  else none

/-- A request that fails: NAK Remote Access Error, and the responding queue pair enters ERR (R302). -/
def refuseRemote (s : State) (c h psn : Nat) (q : Qp) : State := sendNakR (enterErr s c h) q psn 2

/-- An incoming RDMA WRITE, with or without immediate data (R302). -/
def rdmaWrite (s : State) (c h psn rkey addr : Nat) (payload : List Byte) (imm : Option Nat) (feeds : List HostResp) : State :=
  let s0 := readRq c h feeds s
  atPsn s0 c h psn fun q =>
    match regionFor s0 q rkey addr payload.length true with
    | none => refuseRemote s0 c h psn q
    | some r =>
      if imm.isSome && (q.recvs.isEmpty || q.cqHold) then sendRnr s0 q psn
      else if r.host ∧ !payload.isEmpty ∧ !canIssue s (fnOf c) then s0
      else
        let put : Run Unit :=
          if payload.isEmpty then (s0, .ok ())
          else if r.host then
            if hostOk s0 (fnOf c) addr payload.length then (postHost s0 (fnOf c) addr payload, .ok ()) else (s0, .error (0x0424, 0))
          else writeClaim s0 c (addr % 2 ^ 40) payload
        match put with
        | (s1, .error _) => refuseRemote s1 c h psn q
        | (s1, .ok _) =>
          if imm.isSome then consumeRecv s1 c h psn (packetCount q.mtu payload.length) [] payload.length imm q
          else acceptPsn s1 c h (packetCount q.mtu payload.length) q

/-- An incoming RDMA READ (R302). -/
def rdmaRead (s : State) (c h psn rkey addr len : Nat) (r0 : HostResp) : State :=
  atPsn s c h psn fun q =>
    match regionFor s q rkey addr len false with
    | none => refuseRemote s c h psn q
    | some r =>
      if r.host ∧ len ≠ 0 ∧ !canIssue s (fnOf c) then s
      else
      let got : Run (List Byte) :=
        if len = 0 then (s, .ok [])
        else if r.host then
          if hostOk s (fnOf c) addr len then
            match readHost s (fnOf c) addr len r0 with
            | (s1, some b) => (s1, .ok b)
            | (s1, none) => (s1, .error (0x0424, 0))
          else (s, .error (0x0424, 0))
        else readClaim s c (addr % 2 ^ 40) len
      match got with
      | (s1, .error _) => refuseRemote s1 c h psn q
      | (s1, .ok bs) =>
        let n := packetCount q.mtu len
        (List.range n).foldl (fun s i =>
          sendRoce s q 5 q.dscp [q.destQpn, (psn + i) % 2 ^ 24, i, n] ((bs.drop (q.mtu * i)).take q.mtu))
          (s1.modQp c h fun q => { q with rqPsn := (q.rqPsn + n) % 2 ^ 24 })

/-- A CNP halves the rate, to no less than 1 Gb/s, at most once per 50 µs (R305). -/
def cnpReceived (s : State) (c h : Nat) : State :=
  s.modQp c h fun q =>
    match q.lastCut with
    | some t => if s.now < t + 50000 then q else { q with rate := max 1000 (q.rate / 2), lastCut := some s.now }
    | none => { q with rate := max 1000 (q.rate / 2), lastCut := some s.now }

/-- A packet marked CE: a CNP at most once per 50 µs (R305). -/
def cePacket (s : State) (c h : Nat) : State :=
  match findQp s c h with
  | none => s
  | some q =>
    let due := match q.lastCnp with
      | some t => decide (t + 50000 ≤ s.now)
      | none => true
    if due && !qpHeld s q then
      sendRoce (s.modQp c h fun q => { q with lastCnp := some s.now }) q 6 s.net.cnpDscp [q.destQpn] []
    else s

/-- 100 µs without a CNP: the rate rises by 10 Gb/s, up to line rate (R305). -/
def rateIncrease (s : State) (c h : Nat) : State := s.modQp c h fun q => { q with rate := min 400000 (q.rate + 10000) }

/-- A PFC frame (R306). -/
def pfcReceived (s : State) (p priority : Nat) (xoff : Bool) : State :=
  if !s.net.pfcEnable ∨ priority ≠ s.net.pfcPriority ∨ !(tget s.net.ports p).up then s
  else if xoff then s.modEth p fun x => { x with paused := true }
  else
    (tget s.net.ports p).held.foldl (fun s o => s.emit o)
      (s.modEth p fun x => { x with paused := false, held := [] })

/-- A write of ENT_QOS (Table 14.7): with pfc_enable at 0 no pause holds a port's packets (R306). -/
def qosWrite (s : State) (v : Nat) : State :=
  let s1 := s.modNet fun n => { n with cnpDscp := bits v 0 6, pfcPriority := bits v 6 3, pfcEnable := bit v 9 }
  if bit v 9 then s1
  else (List.range 2).foldl (fun s p =>
    (tget s.net.ports p).held.foldl (fun s o => s.emit o) (s.modEth p fun x => { x with paused := false, held := [] })) s1

/-- The receive buffer's fill sends XOFF at 6 MiB and XON below 4 MiB (R306). -/
def pfcFill (s : State) (p fill : Nat) : State :=
  let x := tget s.net.ports p
  if !s.net.pfcEnable then s
  else if !x.xoff ∧ 6 * 2 ^ 20 ≤ fill then
    (s.emit (.ethernet p 7 [s.net.pfcPriority, 1] [])).modEth p fun x => { x with xoff := true, pfcSent := satInc 32 x.pfcSent }
  else if x.xoff ∧ fill < 4 * 2 ^ 20 then
    (s.emit (.ethernet p 7 [s.net.pfcPriority, 0] [])).modEth p fun x => { x with xoff := false }
  else s

/-- A frame is dropped and counted. -/
def dropFrame (s : State) (p : Nat) : State := s.modEth p fun x => { x with dropped := satInc 32 x.dropped }

/-- The raw ring is enabled and its size lies in range (R297). -/
def RawRing.active (r : RawRing) : Bool := r.enable && decide (4 ≤ r.sizeLog2) && decide (r.sizeLog2 ≤ 10)

/-- A frame for the raw receive ring (R297). -/
def rawReceive (s : State) (p : Nat) (frame : List Byte) : State :=
  let r := s.net.rx
  if !r.active ∨ 2032 < frame.length ∨ frame.length < 14 ∨ (r.next + 1) % 2 ^ r.sizeLog2 = r.index ∨ !hostOk s 0 (2048 * (r.base + r.next)) 2048 then dropFrame s p
  else
    let a := 2048 * r.base + 2048 * r.next
    let hdr := leBytes 2 frame.length ++ leBytes 1 p ++ leBytes 1 (b2n r.phase) ++ List.replicate 12 0#8
    let s1 := postHost (postHost s 0 (a + 16) frame) 0 a hdr
    let wrap := decide (r.next + 1 = 2 ^ r.sizeLog2)
    s1.modNet fun n => { n with rx := { r with next := if wrap then 0 else r.next + 1, phase := if wrap then !r.phase else r.phase } }

/-- What a received frame is (R295, R296): its EtherType and the offset of what follows, or none for a foreign tag. -/
def frameType (f : List Byte) : Option (Nat × Nat) :=
  let t := beNat (bytesAt f 12 2)
  if t = 0x8100 then (if beNat (bytesAt f 14 2) % 2 ^ 12 = 0 then some (beNat (bytesAt f 16 2), 18) else none) else some (t, 14)

/-- The destination queue pair of a RoCE v2 packet, or none for another frame (Table 14.3). -/
def roceQpn (f : List Byte) (t off : Nat) : Option Nat :=
  let udp := if t = 0x0800 then off + 4 * (field f off 1 % 16) else off + 40
  let isUdp := (decide (t = 0x0800) && decide (field f (off + 9) 1 = 17)) || (decide (t = 0x86DD) && decide (field f (off + 6) 1 = 17))
  if isUdp && decide (beNat (bytesAt f (udp + 2) 2) = 4791) then some (beNat (bytesAt f (udp + 13) 3)) else none

/-- A frame addressed to the port, to broadcast or to a multicast address (R296). -/
def frameForUs (s : State) (p : Nat) (f : List Byte) : Bool := decide (leNat (f.take 6) = portMac s p) || bit (field f 0 1) 0

/-- A received frame (R295 to R297, R306). A packet of a queue pair is handled by its own command; here it counts only
for the receive buffer's fill. -/
def ethFrame (s : State) (p : Nat) (good : Bool) (fill : Nat) (frame : List Byte) : State :=
  if !(tget s.net.ports p).up then s
  else
    let s0 := pfcFill s p fill
    if !good then dropFrame s0 p
    else
      match frameType frame with
      | none => dropFrame s0 p
      | some (t, off) =>
        if t = 0x8808 then s0
        else
          match roceQpn frame t off with
          | none => if frameForUs s p frame then rawReceive s0 p frame else dropFrame s0 p
          | some n =>
            if n = 1 then (if frameForUs s p frame then rawReceive s0 p frame else dropFrame s0 p)
            else if s.net.qps.any (fun q => q.qpn == n) then s0
            else dropFrame s0 p

/-- A new value of a raw ring's control register; enabling starts a first pass at slot 0 (R297, as R81). -/
def rawCtrl (r : RawRing) (v : Nat) : RawRing :=
  let en := bit v 31
  let r1 := { r with sizeLog2 := bits v 0 4, index := bits v 4 11, enable := en }
  if en && !r.enable then { r1 with next := 0, phase := true } else r1

/-- A write of ENT_RAW_RX_CTRL (R297). DEDUCED, log entry 83. -/
def rawRxWrite (s : State) (v : Nat) : State := s.modNet fun n => { n with rx := rawCtrl n.rx v }

/-- One send slot: a frame leaves, or the slot is skipped and counted (R297). -/
def rawSendSlot (s : State) (slot : List Byte) : State :=
  let len := field slot 0 2
  let p := field slot 2 1
  if 14 ≤ len ∧ len ≤ 2032 ∧ p < 2 ∧ field slot 3 1 < 2 ∧ allZero (bytesAt slot 4 12) ∧ (tget s.net.ports p).up then
    s.emit (.ethernet p 0 [] (bytesAt slot 16 len))
  else dropFrame s (if p < 2 then p else 0)

/-- Send the slots between the device's index and the produced one. -/
def rawSend : List HostResp → State → State
  | [], s => s
  | f :: fs, s =>
    let r := s.net.tx
    let a := 2048 * r.base + 2048 * r.next
    if !r.active ∨ 2 ^ r.sizeLog2 ≤ r.index ∨ r.next = r.index ∨ !canIssue s 0 then s
    else
      let s1 := s.modNet fun n => { n with tx := { r with next := (r.next + 1) % 2 ^ r.sizeLog2 } }
      let s2 :=
        if winOk s 0 a 2048 then
          match readHost s1 0 a 2048 f with
          | (s2, some b) => rawSendSlot s2 b
          | (s2, none) => dropFrame s2 0
        else dropFrame s1 0
      rawSend fs s2

/-- A write of ENT_RAW_TX_CTRL (R297). -/
def rawTxWrite (s : State) (v : Nat) (feeds : List HostResp) : State :=
  rawSend feeds (s.modNet fun n => { n with tx := rawCtrl n.tx v })

/-- Order 2 of R299: every field of a context is within Table 14.4. -/
def ctxOk (s : State) (c : Nat) (b : List Byte) : Bool :=
  let f (o n : Nat) := field b o n
  let fn := fnOf c
  decide (1 ≤ f 0 1) && decide (f 0 1 ≤ 4) && decide (f 1 1 < 2) && s.image.ethEnable.testBit (f 1 1) && decide (f 2 1 < 3)
    && decide (f 3 1 < 8) && decide (f 7 1 = 0) && decide (f 0xB 1 = 0) && decide (f 0xF 1 = 0) && decide (f 0x16 1 < 16)
    && decide (tget (tget s.net.ports (f 1 1)).gids (f 0x16 1) ≠ 0) && decide (f 0x17 1 < 64)
    && (bit (f 3 1) 0 || allZero (bytesAt b 0x1C 12))
    && decide (f 0x28 8 % 64 = 0) && decide (f 0x30 8 % 64 = 0) && decide (f 0x38 8 % 32 = 0)
    && decide (4 ≤ f 0x40 1) && decide (f 0x40 1 ≤ 12) && decide (4 ≤ f 0x41 1) && decide (f 0x41 1 ≤ 12)
    && decide (4 ≤ f 0x42 1) && decide (f 0x42 1 ≤ 14) && decide (f 0x43 1 ≤ 31) && decide (f 0x44 1 ≤ 7) && decide (f 0x45 1 ≤ 7)
    && decide (f 0x46 1 ≤ 31) && decide (1 ≤ f 0x47 1) && decide (f 0x47 1 ≤ 16) && allZero (bytesAt b 0x48 56)
    && winOk s fn (f 0x28 8) (64 * 2 ^ f 0x40 1) && winOk s fn (f 0x30 8) (64 * 2 ^ f 0x41 1) && winOk s fn (f 0x38 8) (32 * 2 ^ f 0x42 1)

/-- The state that a context names. -/
def ctxState (b : List Byte) : QpState :=
  match field b 0 1 with
  | 1 => .init
  | 2 => .rtr
  | 3 => .rts
  | _ => .err

/-- A claim's queue pairs (Table 4.11, queue_pairs_in_use). -/
def qpsOf (s : State) (c : Nat) : List Qp := s.net.qps.filter (·.claim == c)

/-- The outcome of a queue-pair command. -/
def qpResult (s : State) (c cause : Nat) : State := s.modClaimNet c fun n => { n with done := true, cause := cause }

/-- The read of the command's context: the bytes, or none when it is not issued or ends in an error. -/
def readCtx (s : State) (c : Nat) (r : HostResp) : State × Option (List Byte) :=
  let a := 128 * (tget s.net.claims c).cmdAddr
  if winOk s (fnOf c) a 128 then readHost s (fnOf c) a 128 r else (s, none)

/-- A go of ENT_QP_CMD: it is ignored while done reads 0, and waits while the function may not issue requests
(R288, R298). -/
def qpGo (s : State) (c op h : Nat) (hostWork : Bool) (run : State → State) : State :=
  if !(tget s.net.claims c).done then s
  else
    let s1 := s.modClaimNet c fun n => { n with cmdOp := op, cmdHandle := h }
    if hostWork && !canIssue s (fnOf c) then s1.modClaimNet c fun n => { n with done := false } else run s1

/-- CREATE (R298, R299). -/
def qpCreate (s : State) (c : Nat) (r : HostResp) : State :=
  match readCtx s c r with
  | (s, none) => qpResult s c 0x0430
  | (s, some b) =>
    if !ctxOk s c b then qpResult s c 0x0430
    else
      let used := (qpsOf s c).map (·.handle)
      match (List.range (s.claim c).queuePairs).find? fun h => !used.contains h with
      | none => qpResult s c 0x0121
      | some h =>
        if (s.claim c).queuePairs ≤ used.length then qpResult s c 0x0121
        else
        let dev := ((List.range 2048).find? fun d => !(s.net.qps.any fun q => q.dev == d)).getD 0
        let q : Qp := { claim := c, handle := h, dev := dev, ctx := b, st := ctxState b, sqPsn := field b 8 3, rqPsn := field b 0xC 3 }
        (s.modNet fun n => { n with qps := n.qps ++ [q] }).modClaimNet c fun n =>
          { n with done := true, cause := 0, resHandle := h, qpn := q.qpn }

/-- MODIFY (R298, R299). DEDUCED, log entry 80. -/
def qpModify (s : State) (c h : Nat) (r : HostResp) : State :=
  match readCtx s c r with
  | (s, none) => qpResult s c 0x0430
  | (s, some b) =>
    if field b 0 1 = 0 ∨ 4 < field b 0 1 then qpResult s c 0x0430
    else
      match findQp s c h with
      | none => qpResult s c 0x0431
      | some q =>
        let t := ctxState b
        if t = .err then qpResult (enterErr s c h) c 0
        else if (q.st = .init ∧ t = .rtr) ∨ (q.st = .rtr ∧ t = .rts) then
          qpResult (s.modQp c h fun q => { q with st := t }) c 0
        else qpResult s c 0x0431

/-- DESTROY (R298, R299). -/
def qpDestroy (s : State) (c h : Nat) : State :=
  match findQp s c h with
  | none => qpResult s c 0x0431
  | some _ => qpResult (s.modNet fun n => { n with qps := n.qps.filter fun q => !(q.claim == c && q.handle == h) }) c 0

/-- The context as QUERY writes it. -/
def Qp.context (q : Qp) : List Byte :=
  leBytes 1 q.st.code ++ bytesAt q.ctx 1 7 ++ leBytes 4 q.sqPsn ++ leBytes 4 q.rqPsn ++ bytesAt q.ctx 0x10 0x70

/-- QUERY (R298, R299). -/
def qpQuery (s : State) (c h : Nat) : State :=
  let a := 128 * (tget s.net.claims c).cmdAddr
  if !winOk s (fnOf c) a 128 then qpResult s c 0x0430
  else
    match findQp s c h with
    | none => qpResult s c 0x0431
    | some q => qpResult (postHost s (fnOf c) a q.context) c 0

/-- A queue-pair command that waited for bus mastering runs (R288). -/
def qpResume (s : State) (c : Nat) (r : HostResp) : State :=
  let n := tget s.net.claims c
  if n.done ∨ !canIssue s (fnOf c) then s
  else
    match n.cmdOp with
    | 0 => qpCreate s c r
    | 1 => qpModify s c n.cmdHandle r
    | 2 => qpDestroy s c n.cmdHandle
    | _ => qpQuery s c n.cmdHandle

/-- Every queue pair of a claim enters ERR (R291, R304). -/
def qpsErr (s : State) (c : Nat) : State := (qpsOf s c).foldl (fun s q => enterErr s c q.handle) s

/-- Queue pairs of a claim take up work again with the answers at hand: handle, entry and payload. -/
def qpsRun (s : State) (c : Nat) (feeds : List (Nat × HostResp × HostResp)) : State :=
  let s1 := (qpsOf s c).foldl (fun s q => runSq c q.handle [] s) s
  feeds.foldl (fun s f => runSq c f.1 [f.2] s) s1

/-- A write of ENT_MR_i access (Table 14.8, R419): setting valid checks the range. -/
def regionAccess (s : State) (c i v : Nat) : State :=
  let set_ (valid : Bool) := s.modClaimNet c fun n =>
    { n with
      regions := tmod n.regions i fun r =>
        { r with valid := valid, host := bit v 1, remoteRead := bit v 2, remoteWrite := bit v 3, key := bits v 8 8 } }
  let r := tget (tget s.net.claims c).regions i
  if bit v 0 then
    if (bit v 1 && winOk s (fnOf c) r.base r.length)
        || (!bit v 1 && decide (r.base % 32 = 0) && decide (r.length % 32 = 0) && decide (r.base + r.length ≤ 2 ^ 40)) then set_ true
    else s
  else set_ false

/-- A write of ENT_MR_i base or length, ignored while the entry is valid (R419). -/
def regionRange (s : State) (c i : Nat) (length : Bool) (v : Nat) : State :=
  s.modClaimNet c fun n =>
    { n with
      regions := tmod n.regions i fun r =>
        if r.valid then r else if length then { r with length := v } else { r with base := v } }

/-- A write that completes the low word of a GID holds it; one that completes the high word commits both (R418). -/
def gidLow (s : State) (p g v : Nat) : State := s.modEth p fun x => { x with gidHeld := ainsert x.gidHeld g v }
def gidCommit (s : State) (p g v : Nat) : State :=
  s.modEth p fun x =>
    let lo := (alookup x.gidHeld g).getD (tget x.gids g % 2 ^ 64)
    { x with gids := tset x.gids g (lo + 2 ^ 64 * v), gidHeld := aerase x.gidHeld g }

/-- An enabled port that finds its link comes up; otherwise 500 ms have passed and it tries the other medium (R295). -/
def ethNegotiate (s : State) (p : Nat) (linked : Bool) : State :=
  if !s.image.ethEnable.testBit p ∨ !(s.up || (s.boot.dev = .booting && decide (11 ≤ s.boot.step))) ∨ (tget s.net.ports p).up then s
  else if linked then s.modEth p fun x => { x with up := true }
  else s.modEth p fun x => { x with c2m := !x.c2m }

/-- The port's link drops (R295). -/
def ethLoss (s : State) (p : Nat) : State :=
  if (tget s.net.ports p).up then s.modEth p fun x => { x with up := false, c2m := false, paused := false, xoff := false, held := [] }
  else s

/-- The widest of x16, x8 and x4, or below the floor x2 and x1, that all allow (R281). -/
def settleWidth (w : Nat) : Nat := ([16, 8, 4, 2, 1].find? fun x => decide (x ≤ w)).getD 1

/-- The endpoint trains, or takes a later change (R281). -/
def pcieTrain (s : State) (gen width : Nat) : State :=
  let g := min gen s.image.maxGen
  let w := settleWidth (min width s.image.maxWidth)
  { s with pcie := { s.pcie with linkUp := true, gen := g, width := w, flit := decide (g = 6), belowFloor := decide (g < 4) || decide (w < 4) } }

/-- A write of a window register (R285, R286). -/
def winWrite (s : State) (fn w : Nat) (limit : Bool) (v : Nat) : State :=
  s.modFn fn fun f =>
    { f with wins := tmod f.wins w fun x => if limit then { x with limit := v / 4096 } else { x with valid := bit v 0, base := v / 4096 } }

/-- One message for every pending vector that may now send (R290). -/
def msixFlush (s : State) (fn : Nat) : State :=
  (List.range 64).foldl (fun s v =>
    let f := tget s.fns fn
    let x := tget f.vecs v
    if x.pending && canIssue s fn && f.msixEnable && !f.msixMask && !x.masked then
      (s.modFn fn fun f => { f with vecs := tmod f.vecs v fun x => { x with pending := false } }).emit (.msix fn v)
    else s) s

/-- A request that the endpoint refuses (R289). -/
def unsupported (s : State) (fn : Nat) : State := aerLog (s.emit (.unsupported fn))

end Sys2Proof.Machine
end

