-- ==== Sys2Proof/Machine/RedealOps.lean ====
section
/-! DEFINITION. Debug grants' ends (R384), redeals (R354 to R361), contained package faults and runtime FAILED (R350 to
R353, R362, R363). -/

namespace Sys2Proof.Machine

/-- Change the security and debug block, a claim's debug window, the redeal block and the start-up block. -/
def State.modDbg (s : State) (f : Debug → Debug) : State := { s with dbg := f s.dbg }
def State.modWin (s : State) (n : Nat) (f : DebugWin → DebugWin) : State := s.modDbg fun d => { d with wins := tmod d.wins n f }
def State.modRedeal (s : State) (f : Redeal → Redeal) : State := { s with redeal := f s.redeal }
def State.modBoot (s : State) (f : Boot → Boot) : State := { s with boot := f s.boot }

/-- SEC_STATE.state changes, with its sensor (Table 18.5, Table 19.3). -/
def setSec (s : State) (x : SecState) : State := mgmtSensor (s.modDbg fun d => { d with st := x }) 0x0102 s.dbg.st.code x.code

/-- The SECURITY event (R399). DEDUCED, log entry 93. -/
def secEvent (s : State) (kind which code : Nat) (seq : Nat := 0) : State :=
  postSteward s 0x0017 0 (leBytes 1 kind ++ leBytes 1 which ++ leBytes 1 code ++ [0#8] ++ leBytes 4 seq)

/-- Resume releases everything that a halt of the claim stopped (R387). -/
def resumeClaim (s : State) (n : Nat) : State :=
  ((s.modDl fun d => { d with macros := d.macros.map fun m => if m.claim = n then { m with halted := [] } else m }).modWin n
    fun w => { w with halted := false, stepping := [] }).modSync fun y =>
    if (tget s.dbg.wins n).halted then { y with claims := tmod y.claims n fun t => { t with count := 0 } } else y

/-- A claim's grant ends (R384): its halt is released and its window's registers return to their reset values. -/
def endGrant (s : State) (n : Nat) : State :=
  if (tget s.dbg.grants n).live then
    let s1 := ((resumeClaim s n).modWin n fun _ => {}).modDbg fun d => { d with grants := tset d.grants n {} }
    let s2 := if s1.dbg.st = .claimDebug ∧ !(s1.dbg.grants.toList.any (·.live)) then setSec s1 .isSealed else s1
    secEvent s2 2 n 0
  else s

/-- The deepest level that an item has open; of levels of one depth, the latest. -/
def deepest (i : Item) : Option Level :=
  i.levels.foldl (fun best lv => match best with
    | none => some lv
    | some b => if b.depth ≤ lv.depth then some lv else some b) none

/-- The first granule of a level whose command has not completed. -/
def firstOpen (lv : Level) : Nat := (lv.active.map (·.granule)).foldl min lv.pc

/-- The failure of an item at the first command not completed in its deepest level (R355, R363). -/
def openOutcome (i : Item) (cause detail : Nat) : Outcome :=
  match deepest i with
  | none => { cause := cause, failed := true, detail := detail, retry := retryCause cause }
  | some lv =>
    if i.st = .queued ∨ (lv.depth = 0 ∧ lv.pc = 0 ∧ lv.active.isEmpty) then
      { cause := cause, failed := true, detail := detail, retry := retryCause cause }
    else failOutcome lv (firstOpen lv) cause detail

/-- What a redeal is laid to: its cause, the faulting party (0 to 7, 8 the steward, 0xFF none), the faulting item with
the outcome that its cause defines, and other items whose timers have expired, with their causes. -/
structure Trigger where
  cause : Nat
  faulting : Nat
  item : Option (Nat × Nat) := none
  out : Option Outcome := none
  detail : Nat := 0
  expired : List (Nat × Nat × Nat) := []
deriving DecidableEq, Repr, Inhabited

/-- The outcome of the faulting item. -/
def Trigger.outcome (t : Trigger) (i : Item) : Outcome := t.out.getD (openOutcome i t.cause t.detail)

/-- Table 17.3 for one item that is not RESOLVED. DEDUCED, log entry 84. -/
def redealOutcome (t : Trigger) (id : Nat) (i : Item) : Outcome :=
  let o : Outcome :=
    if i.st = .committed then { i.out with detail := id }
    else if t.item = some (i.shoe, i.seq) then t.outcome i
    else
      match t.expired.find? fun x => x.1 == i.shoe && x.2.1 == i.seq with
      | some x => openOutcome i x.2.2 id
      | none =>
        match i.held with
        | some h => { h with detail := id }
        | none => openOutcome i (if i.shoe = t.faulting then t.cause else 0x0701) id
  { o with redeal := true }

/-- Table 17.3: every item of the ledger is resolved. -/
def redealResolve (t : Trigger) (id : Nat) (i : Item) : Item :=
  if i.st = .resolved then i else { i with st := .resolved, out := redealOutcome t id i, levels := [], held := none }

/-- The REDEAL event of Table 17.5; on another claim's ring it names nobody (R358). -/
def redealBody (s : State) (t : Trigger) (id : Nat) (full : Bool) : List Byte :=
  let i := t.item.bind fun x => findItem s x.1 x.2
  let o : Outcome := (i.map t.outcome).getD { tag := 0, failOffset := 0 }
  leBytes 4 id ++ leBytes 2 t.cause ++ leBytes 1 (if full then t.faulting else 0xFE) ++ [0#8]
    ++ (if full then leBytes 8 ((t.item.map (·.2)).getD 0) ++ leBytes 2 o.tag ++ leBytes 2 0 ++ leBytes 4 o.failOffset
        else List.replicate 16 0#8)

/-- Step 1 (R357, R358): fetch stops, grants end, and every ring hears of it. -/
def redealBegin (s : State) (t : Trigger) : State :=
  let id := (s.redeal.id + 1) % 2 ^ 32
  let s1 := setDev (s.modRedeal fun r =>
    { r with phase := .resolving, resumeSeen := false, id := id, confirmed := Vector.replicate 8 false, before := s.boot.dev, started := s.now, heldShares := [] })
    .redealing t.cause
  let s2 := postSteward s1 0x0005 t.cause (redealBody s t id true)
  let s3 := (List.range 8).foldl (fun s' n =>
    if (s'.claim n).st = .active then postEvent s' n 0x0005 t.cause [redealBody s t id (decide (n = t.faulting))] else s') s2
  (List.range 8).foldl endGrant s3

/-- The engines and the Dealer hold nothing (R356). -/
def resetEngines (s : State) : State :=
  s.modDl fun d =>
    { d with
      macros := []
      lanes := d.lanes.map fun l => { l with queue := [], dispatched := [], subdeck := none, arb := {} }
      cores := d.cores.map fun c =>
        { c with slots := Vector.replicate 12 none, current := none, arb := {}, cache := [], queues := Vector.replicate 4 [], units := c.units.map fun t =>
            match t.use_ with
            | .faulted => t
            | _ => { t with use_ := .free } }
      slots := d.slots.map fun t => { t with loads := [] } }

/-- Every move that has not committed is cancelled (R197). -/
def cancelMoves (s : State) : State := s.tiers.moves.foldl (fun s m => cancelMove s m.table m.page) s

/-- Step 2 (R76, R197, R247, R269, R328): moves are cancelled, so that no write waits for one; tile groups that hold a grant
end, with the moves that they start; rounds are disarmed, and the running batch stops. -/
def redealHalt (s : State) : State :=
  let s1 := (List.range 96).foldl (fun s c => if (tget s.dl.cores c).current.isSome then (groupEnd s c).1 else s) (cancelMoves s)
  cancelMoves (resetEngines (resetRounds (answerPartials (stopBatch s1))))

/-- Steps 3 and 4 (R217, R226, R304, R312, R355, R372): items, LDG_ registers, tallies, queue pairs and indexes. -/
def redealSettle (s : State) (t : Trigger) : State :=
  let id := s.redeal.id
  let open_ := s.dl.items.filter fun i => i.st != .resolved
  let s1 := s.modDl fun d => { d with items := d.items.map (redealResolve t id) }
  let count (n : Nat) (failed : Bool) : Nat :=
    min 65535 (open_.filter fun i => i.shoe == n && ((i.st != .committed) == failed)).length
  let s2 := s1.modRedeal fun r =>
    { r with
      trigger := t.cause, faulting := t.faulting, durationUs := 0, faultSeq := (t.item.map (·.2)).getD 0
      failed := Vector.ofFn fun n : Fin 8 => count n true
      completed := Vector.ofFn fun n : Fin 8 => count n false
      walkErrors := Vector.replicate 8 0, commonErrors := 0 }
  let hit := (List.range 8).filter fun n => n == t.faulting || (open_.any fun i => i.shoe == n && i.st != .committed)
  let s3 := hit.foldl poisonClaimTallies s2
  let s4 := hit.foldl qpsErr s3
  let s5 := s4.modSync fun y => { y with claims := y.claims.map fun t => { t with count := 0 } }
  resetAssay (s5.modNet fun n => { n with qps := n.qps.map fun q => { q with heldForShoe := true } })

/-- A shoe's registers after a redeal or a function-level reset: SHOE_NEXT_SEQ is ROS (R83, R105). -/
def Shoe.clearRegs (h : Shoe) : Shoe := { nextSeq := h.nextSeq, backlog := h.nextSeq }

/-- A ring's registers after a reset; its event numbers go on (R80). -/
def EvtRing.clearRegs (r : EvtRing) : EvtRing := { nextEvent := r.nextEvent, waiting := r.waiting }

/-- A claim's tally window registers after a reset (R220). -/
def ClaimTally.clearRegs (y : ClaimTally) : ClaimTally := { declared := y.declared, stalemateId := y.stalemateId }

/-- The fields that are not ROS of the claims' and the Dealer's blocks take their reset values (R356). -/
def clearClaimRegs (s : State) : State :=
  let s1 := s.modCl fun c =>
    { c with
      rtWritten := Vector.replicate 4 {}, rtInForce := Vector.replicate 4 {}, rings := c.rings.map EvtRing.clearRegs
      vectorMap := Vector.replicate 8 0x76543210, stewardVectors := 0 }
  s1.modDl fun d => { d with shoes := d.shoes.map Shoe.clearRegs, rtTimeout := Vector.replicate 4 0x3E8, lookup := {} }

/-- The same of the tiers, tallies, host windows, network, link, rounds' neighbours, ECC, beat, power and debug
blocks. -/
def clearPolicyRegs (s : State) : State :=
  { s with
    fns := s.fns.map fun f => { f with wins := Vector.replicate 4 {}, latches := [], holds := [] }
    tiers := { s.tiers with
      promote := 0x20, demote := 0x08, auto := true, clearT1 := false, clearT2 := false, shareRefused := false
      commonAccess := 0, shares := Vector.replicate 8 0, lookupVa := 0, lookupTable := 0, lookupDone := false, lookupL1 := false
      lookupEntry := 0 }
    sync := { s.sync with claims := s.sync.claims.map ClaimTally.clearRegs, canaryBeats := 4 }
    net := { s.net with
      cnpDscp := 0x30, pfcPriority := 3, pfcEnable := true, rx := {}, tx := {}
      ports := s.net.ports.map fun p => { p with gids := Vector.replicate 16 0, gidHeld := [] }
      claims := s.net.claims.map fun c => { c with regions := Vector.replicate 64 {}, cmdAddr := 0, cmdOp := 0, cmdHandle := 0, done := true } }
    link := { s.link with
      timeoutMs := 0x00A
      ports := s.link.ports.map fun p => { p with holdDown := false, evUp := false, evDown := false, evQuar := false, evDegrade := false } }
    ecc := { s.ecc with
      threshold := 0x10, target := 0, data := 0, check := 0, flipData := 0, flipCheck := 0, patchCmd := 0
      dies := s.ecc.dies.map fun d => { d with ce := d.ce.map fun c => (c.1, false) } }
    beat := { s.beat with
      loss := false, relock := false, jumpHold := false, jumpFwd := false, jumpFar := false, redesignated := false
      commitCancelled := false, commitRefused := false, tokenRound := 0, designate := false, atBeat := 0, commitPending := false
      shadow := Vector.replicate 64 (List.replicate 16 0#8) }
    power := { s.power with request := 0, wakeOnDoorbell := false, refused := false, limitW := 0x41A }
    dbg := { s.dbg with cmdAddr := 0, wins := Vector.replicate 8 {} } }

/-- Step 5: resets, and the walk begins (R356, R357). -/
def redealReset (s : State) : State :=
  (clearPolicyRegs (clearClaimRegs (resetEngines s))).modRedeal fun r => { r with phase := .walking }

/-- Does a redeal start (R354)? -/
def mayRedeal (s : State) : Bool := s.boot.dev = .ready || s.boot.dev = .newSeat

/-- A redeal starts and runs steps 1 to 5; with `finish` false, step 5 does not end (R354, R357). -/
def startRedeal (s : State) (t : Trigger) (finish : Bool := true) : State :=
  if mayRedeal s then
    let s1 := redealSettle (redealHalt (redealBegin s t)) t
    if finish then redealReset s1 else s1
  else s

/-- A check fault of a claim's item starts a redeal (R96, R97, R112, R116, R120). -/
def deckFault (shoe seq : Nat) (o : Outcome) (s : State) : State :=
  startRedeal s { cause := o.cause, faulting := shoe, item := some (shoe, seq), out := some o }

/-- The granules of a frame or handle that the walk counts (R359): a T1 granule with a bad word, a vault block that
cannot be decoded. -/
def walkBad (s : State) (tier2 : Bool) (f : Nat) : List Nat :=
  ((frameMarks s tier2 f).filterMap fun m =>
    if (decodeWord s tier2 f m.1 (0, 0)).1 = .uncorrectable then some (if tier2 then m.1 / 512 else m.1 / 4) else none).eraseDups

/-- The walk over one frame or handle: corrected words are written back, and bad words are logged with source 3
(R359). -/
def walkFrame (s : State) (tier2 : Bool) (f : Nat) : State :=
  let own := ownerTag s tier2 f
  let loc (k : Nat) : WordLoc := if tier2 then locT2 s f k else locT1 f k
  (frameMarks s tier2 f).foldl (fun s m =>
    let r := decodeWord s tier2 f m.1 (0, 0)
    match r.1 with
    | .corrected => rewriteWord (logDetection (countCorrected s (loc m.1)) (loc m.1) 1 3 r.2.1 r.2.2.1 own).1 tier2 f m.1
    | .uncorrectable => (logDetection s (loc m.1) 2 3 r.2.1 0xFF own).1
    | _ => s) s

/-- Page table entries of a table whose frame or handle carries a different owner tag (R359). -/
def walkMismatch (s : State) (t : Nat) : List (Bool × Nat) :=
  ((s.ptab t).pages.filter fun p => ownerTag s p.2.tier2 p.2.frame != t).map fun p => (p.2.tier2, p.2.frame)

/-- Walk errors of an owner, as the walk finds them (R359). -/
def walkCount (s : State) (n : Nat) : Nat :=
  let of (tier2 : Bool) (l : List (Nat × Owned)) : Nat :=
    total ((l.filter fun f => f.2.owner == n && !f.2.isForeign).map fun f => (walkBad s tier2 f.1).length)
  min 65535 (of false s.tiers.frames + of true s.tiers.handles + (walkMismatch s n).length)

/-- The redeal ends (R357, step 7; R61, R105, R360, R361). -/
def redealEnd (s : State) : State :=
  let sh := s.redeal.heldShares
  let s1 := s.modRedeal fun r => { r with phase := .none, resumeSeen := false, durationUs := (s.now - r.started) / 1000 % 2 ^ 32, heldShares := [] }
  let s2 := setDev s1 s.redeal.before 0
  let s3 := sh.foldl (fun s x => if (s.claim x.1).st = .active then changeShare s x.1 (s.claim x.1).profiles x.2 else s) s2
  (List.range 9).foldl (fun s n =>
    if (s.shoe n).resumeWait then startShoe (s.modShoe n fun h => { h with resumeWait := false }) n else writeOutcomes s n) s3

/-- The ECC walk ends (R359, R360). -/
def walkEnd (s : State) : State :=
  if s.redeal.phase ≠ .walking then s
  else
    let counts := (List.range 9).map (walkCount s)
    let s1 := (s.tiers.frames.filter fun f => !f.2.isForeign).foldl (fun s f => walkFrame s false f.1) s
    let s2 := (s.tiers.handles.filter fun f => !f.2.isForeign).foldl (fun s f => walkFrame s true f.1) s1
    let s3 := (List.range 9).foldl (fun s t => (walkMismatch s t).foldl (fun s m =>
      let loc := if m.1 then locT2 s m.2 0 else locT1 m.2 0
      (logDetection s loc 3 3 0 0xFF (ownerTag s m.1 m.2)).1) s) s2
    let s4 := s3.modRedeal fun r =>
      { r with
        phase := .waiting, confirmed := Vector.replicate 8 true
        walkErrors := Vector.ofFn fun n : Fin 8 => counts.getD n 0, commonErrors := counts.getD 8 0 }
    if s4.redeal.resumeSeen then redealEnd s4 else s4

/-- LDG_REDEAL_CTRL.resume is written (R360). DEDUCED, log entry 86. -/
def redealResume (s : State) : State :=
  match s.redeal.phase with
  | .walking => s.modRedeal fun r => { r with resumeSeen := true }
  | .waiting => redealEnd (s.modRedeal fun r => { r with resumeSeen := true })
  | _ => s

/-- Runtime FAILED (R363, steps 1 to 3 and 5). DEDUCED, log entry 87. -/
def runtimeFailed (s : State) (cause : Nat) : State :=
  if s.boot.dev = .failed then s
  else
    let s1 := alertLatch (setDev (s.modBoot fun b => { b with failCause := cause }) .failed cause) 3
    let s2 := (List.range 64).foldl (fun s k => poisonTrick s k 0x0707) (s1.modRedeal fun r => { r with phase := .none })
    let s3 := (List.range 96).foldl (fun s c => if (tget s.dl.cores c).current.isSome then (groupEnd s c).1 else s) s2
    let s4 := resetEngines s3
    let s5 := s4.modDl fun d => { d with items := d.items.map fun i =>
      if i.fixed then { i with st := .resolved }
      else { i with st := .resolved, out := openOutcome i 0x0707 cause, levels := [], held := none } }
    (List.range 9).foldl writeOutcomes s5

/-- The 50 ms bound of R357 runs out before step 5 has ended. -/
def redealBound (s : State) : State := if s.redeal.phase = .resolving then runtimeFailed s 0x0707 else s

/-- Off-package ports go to electrical idle (R363, R365). -/
def idlePorts (s : State) : State × List Nat :=
  let r := (List.range 12).foldl (fun (acc : State × List Nat) p =>
    if (acc.1.port p).st = .dark then acc
    else
      let x := leaveGroup acc.1 p .down
      (x.1.emit (.idle p), acc.2 ++ x.2)) (s, [])
  (r.1.modLink fun l => { l with idle := true }, r.2)

/-- FAILED_PORT_IDLE (R363, step 4). -/
def failedIdle (s : State) : State :=
  if s.boot.dev = .failed ∧ !s.link.idle then
    let r := idlePorts s
    r.2.foldl dropXfer r.1
  else s

/-- A word of a headframe macro (R352, R362). -/
def headLoc (mac row word : Nat) : WordLoc :=
  { key := 6 * 2 ^ 28 + 2 ^ 14 * mac + 16 * row + word, die := 6, tier := 3, mac := mac, row := row, word := word, group := 0, phys := 0 }

/-- Both copies of a ledger entry are lost: runtime FAILED, and the number is reported failed (R352, R353). -/
def loseEntry (s : State) (shoe seq : Nat) : State :=
  let o : Outcome := { cause := 0x0707, failed := true, detail := 0x0409 }
  match findItem s shoe seq with
  | none => s
  | some _ =>
    runtimeFailed ((releaseHoldings s shoe seq).modItem shoe seq fun i =>
      { i with st := .resolved, userTag := 0, flags := 0, out := o, levels := [], held := none }) 0x0409

/-- A contained package fault (R352, R362), logged for die 6; during steps 1 to 5 of a redeal it ends in runtime FAILED
(R363). -/
def headFault (s : State) (f : HeadFault) (mac row word : Nat) : State :=
  let r := logDetection s (headLoc mac row word) 2 0 0 0xFF 0xF
  let s1 := r.1
  let det := eccDetail (headLoc mac row word) r.2
  if s.redeal.phase = .resolving then runtimeFailed s1 0x0409
  else
    match f with
    | .store shoe seq => (match findItem s1 shoe seq with
      | some i => failItem s1 shoe seq (openOutcome i 0x0409 det)
      | none => s1)
    | .subdeck lane => (match (tget s1.dl.lanes lane).subdeck with
      | some (shoe, seq, _) => (match findItem s1 shoe seq with
        | some i => failItem s1 shoe seq (openOutcome i 0x0409 det)
        | none => s1)
      | none => s1)
    | .dispatch mid => (match findMacro s1 mid with
      | some m => (match m.owner with
        | .item shoe seq l g => failAt s1 shoe seq l g 0x0409 det
        | .round c => failRound s1 c 0x0409 (0, 0, 0))
      | none => s1)
    | .tally n => poisonTally s1 n 0x0409
    | .ledgerCopy _ _ => s1
    | .ledgerBoth shoe seq => loseEntry s1 shoe seq

end Sys2Proof.Machine
end

