-- ==== Sys2Proof/Machine/FenceOps.lean ====
section
/-! DEFINITION. Roll call, fences and their end (R367 to R370, R413). Classes: 0 core, 1 lane, 2 port, 3 vault channel
group. -/

namespace Sys2Proof.Machine

/-- How many units a class has (R367). -/
def classSize (cls : Nat) : Nat :=
  match cls with
  | 0 => 96
  | 1 => 16
  | 2 => 12
  | 3 => 32
  | _ => 0

/-- A unit, and the change of one. -/
def unitOf (s : State) (cls i : Nat) : FenceUnit :=
  match cls with
  | 0 => tget s.fences.cores i
  | 1 => tget s.fences.lanes i
  | 2 => tget s.fences.ports i
  | _ => tget s.fences.groups i
def State.modUnit (s : State) (cls i : Nat) (f : FenceUnit → FenceUnit) : State :=
  let x := s.fences
  { s with fences := match cls with
    | 0 => { x with cores := tmod x.cores i f }
    | 1 => { x with lanes := tmod x.lanes i f }
    | 2 => { x with ports := tmod x.ports i f }
    | 3 => { x with groups := tmod x.groups i f }
    | _ => x }

/-- The Lamphouse calls the unit available (Table 17.9). -/
def FenceUnit.available (u : FenceUnit) : Bool := u.powered && u.enabled && u.healthy

/-- Work in flight on the unit can finish (R369). -/
def FenceUnit.finishes (u : FenceUnit) : Bool := u.powered && u.enabled && !u.faulted

/-- Claims with T2 pages in a vault channel group. -/
def groupClaims (s : State) (g : Nat) : List Nat :=
  (s.tiers.handles.filter fun h => handleDie h.1 == g / 16 && h.2.group % 16 == g % 16 && !h.2.isForeign && decide (h.2.owner < 8)).map (·.2.owner)

/-- Claims with a round whose hands leave by a direction. -/
def roundClaims (s : State) (d : Nat) : List Nat :=
  (List.range 16).filterMap fun c => (s.armed c).bind fun a =>
    if routeFrom s a.downstream = .dir d then some a.claim else none

/-- Claims that the unit serves (R369). -/
def unitClaims (s : State) (cls i : Nat) : List Nat :=
  let of (ms : List Nat) : List Nat := ms.filterMap fun m => (findMacro s m).map (·.claim)
  ((match cls with
    | 0 => of (tget s.dl.cores i).contexts
    | 1 => of ((tget s.dl.lanes i).queue ++ (tget s.dl.lanes i).dispatched)
    | 2 => roundClaims s (s.port i).dir
    | _ => groupClaims s i).filter (· < 8)).eraseDups

/-- The unit holds work. -/
def unitBusy (s : State) (cls i : Nat) : Bool :=
  match cls with
  | 0 => !(tget s.dl.cores i).contexts.isEmpty
  | 1 => !(tget s.dl.lanes i).dispatched.isEmpty
  | 2 => !(portFlits (s.port i)).isEmpty
  | _ => false

/-- Fenced units of a class: sensors 0x0016 to 0x0019 (Table 19.3). -/
def fencedCount (s : State) (cls : Nat) : Nat := ((List.range (classSize cls)).filter fun i => (unitOf s cls i).fenced).length

/-- The FENCE event (Table 17.10) to the steward ring, to management and to the claims concerned (R369, R370, R413). -/
def fenceEvent (s : State) (cls i action reason failed oldCount : Nat) (busy : Bool) (claims : List Nat) : State :=
  let u := unitOf s cls i
  let body := leBytes 1 cls ++ [0#8] ++ leBytes 2 i ++ leBytes 1 action
    ++ leBytes 1 (b2n u.powered + 2 * b2n u.enabled + 4 * b2n u.healthy) ++ leBytes 1 (b2n (!u.fenced) + 2 * b2n busy + 4 * b2n u.faulted)
    ++ leBytes 1 reason ++ leBytes 2 failed
  let s1 := mgmtSensor (postSteward s 0x0006 0 body) (0x0016 + cls) oldCount (fencedCount s cls)
  claims.foldl (fun s n => postEvent s n 0x0006 0 [body]) s1

/-- MACROs with a participant on a core that cannot finish fail their items with 0x0702, once the other participants have
ended their tile groups; the core's own group never ends (R369). -/
def fenceCoreWork (s : State) (c detail : Nat) : State × Nat :=
  ((tget s.dl.cores c).contexts.filterMap (findMacro s)).foldl (fun acc m =>
    let s1 := leaveFailed acc.1 m.id c
    match m.owner with
    | .item shoe seq l g =>
      let live := ((findItem s1 shoe seq).map fun i => !i.fixed).getD false
      if s1.dl.cores.toList.any fun x => x.current == some m.id then
        (s1.modMacro m.id fun x => { x with fencedBy := some detail }, acc.2 + b2n live)
      else (failAt s1 shoe seq l g 0x0702 detail, acc.2 + b2n live)
    | .round _ => (s1, acc.2)) (s, 0)

/-- A MACRO whose parts a fenced lane has given back goes to the Dealer's choice, in order; what finds no room there waits in
the Dealer (R118, R369). -/
def replaceParts (s : State) (shoe seq l g : Nat) : State :=
  match dealerLane s shoe with
  | some x => placeParts shoe seq l g x (partsOf s shoe seq l g) s
  | none => setActive s shoe seq l g (.macroWait 16)

/-- MACROs queued on a lane that cannot finish go back to the Dealer; those of a lane sub-deck fail (R369). -/
def fenceLaneWork (s : State) (l detail : Nat) : State × Nat :=
  let ms := (tget s.dl.lanes l).queue.filterMap (findMacro s)
  let s1 := s.modDl fun d => { d with lanes := tmod d.lanes l fun x => ms.foldl (fun x m => leaveLane m.id x) x }
  ((ms.map (·.owner)).eraseDups).foldl (fun acc o =>
    match o with
    | .item shoe seq lv g =>
      if ((findItem acc.1 shoe seq).bind (·.level lv)).any Level.onLane then
        let live := ((findItem acc.1 shoe seq).map fun i => !i.fixed).getD false
        (failAt acc.1 shoe seq lv g 0x0702 detail, acc.2 + b2n live)
      else (replaceParts acc.1 shoe seq lv g, acc.2)
    | .round _ => acc) (s1, 0)

/-- A unit is fenced (R368, R369). Reasons: 0 disagreement, 1 agreed down, 2 Dealer, 3 Lamphouse.
DEDUCED, log entry 88. -/
def fence (s : State) (cls i reason : Nat) : State :=
  let u := unitOf s cls i
  if u.fenced ∨ classSize cls ≤ i then s
  else
    let claims := unitClaims s cls i
    let busy := unitBusy s cls i
    let old := fencedCount s cls
    let det := cls + 2 ^ 8 * i
    let s0 := s.modUnit cls i fun u => { u with fenced := true, agreed := 0 }
    let s1 := { s0 with fences := { s0.fences with fenceCount := satInc 32 s0.fences.fenceCount } }
    let r : State × Nat :=
      match cls with
      | 0 =>
        let r := if u.finishes then (s1, 0) else fenceCoreWork s1 i det
        (if u.finishes ∧ groupRuns s1 i then r.1 else roundCoreFenced r.1 i, r.2)
      | 1 => if u.finishes then (s1, 0) else fenceLaneWork s1 i det
      | 2 => (failXfers (leaveGroup s1 i .down), 0)
      | _ => (s1, 0)
    alertLatch (fenceEvent r.1 cls i 1 reason r.2 old busy claims) 8

/-- A fence ends (R370): action 0 by roll call, 2 by the steward. -/
def unfence (s : State) (cls i action : Nat) : State :=
  if !(unitOf s cls i).fenced then s
  else
    let old := fencedCount s cls
    let s1 := s.modUnit cls i fun u => { u with fenced := false }
    fenceEvent s1 cls i action (if action = 2 then 4 else 0) 0 old (unitBusy s cls i) (unitClaims s cls i)

/-- Roll call of one unit (R367, R368, R370). -/
def callUnit (s : State) (cls i : Nat) : State :=
  let u := unitOf s cls i
  if cls = 2 ∧ (s.port i).st ≠ .up ∧ !u.fenced then s
  else if u.available && !u.faulted then
    let s1 := s.modUnit cls i fun u => { u with agreed := u.agreed + 1 }
    if u.fenced ∧ 1 ≤ u.agreed then unfence s1 cls i 0 else s1
  else
    let s1 := s.modUnit cls i fun u => { u with agreed := 0 }
    if u.available ≠ !u.faulted then fence s1 cls i 0 else if cls = 2 then s1 else fence s1 cls i 1

/-- Record a unit's views. -/
def seeUnit (s : State) (v : UnitView) : State :=
  s.modUnit v.cls v.idx fun u => { u with powered := v.powered, enabled := v.enabled, healthy := v.healthy, faulted := v.faulted }

/-- ROLL_CALL (R367, R368): it does not run while the beat is unaligned, while the package is REDEALING, or in P2. -/
def rollCall (s : State) (views : List UnitView) : State :=
  if !s.beat.aligned ∨ s.redealing ∨ s.power.level ≠ 0 ∨ !s.up then s
  else
    let s1 := views.foldl seeUnit s
    let s2 := { s1 with fences := { s1.fences with rollCalls := (s1.fences.rollCalls + 1) % 2 ^ 32 } }
    (List.range 4).foldl (fun s cls => (List.range (classSize cls)).foldl (fun s i => callUnit s cls i) s) s2

/-- The Dealer finds a unit faulted (R368). DEDUCED, log entry 105. -/
def dealerFault (s : State) (cls i : Nat) : State := fence (s.modUnit cls i fun u => { u with faulted := true }) cls i 2

/-- The Lamphouse clears a unit's power or its enable (R368). -/
def lamphouseDisable (s : State) (cls i : Nat) (power : Bool) : State :=
  fence (s.modUnit cls i fun u => if power then { u with powered := false } else { u with enabled := false }) cls i 3

/-- FENCE_CLEAR (R370). -/
def fenceClear (s : State) (seq l : Nat) : State :=
  match nextCmd s 8 seq l 0x46 with
  | none => s
  | some (_, g, b) =>
    let cls := field b 6 1
    let i := field b 8 2
    let u := unitOf s cls i
    let s1 := passCmd s 8 seq l b
    if !u.fenced then completeCmd s1 8 seq l g
    else if !(u.powered && u.enabled) then failAt s1 8 seq l g 0x0702 (cls + 2 ^ 8 * i)
    else completeCmd (unfence (s1.modUnit cls i fun u => { u with faulted := false }) cls i 2) 8 seq l g

end Sys2Proof.Machine
end

