-- ==== Sys2Proof/Machine/ClaimLife.lean ====
section
/-! DEFINITION. Creating, changing and releasing claims (R63 to R73), function-level resets (R83, R84, R291, R292) and
virtual functions (R282). -/

namespace Sys2Proof.Machine

/-- What a parameter block gives a claim (Table 4.1). -/
structure ClaimVals where
  vectors : Nat
  active : Nat
  ledger : Nat
  t1 : Nat
  t2 : Nat
  qps : Nat
  tallyBase : Nat
  tallyCount : Nat
  descs : Nat
  profiles : List Nat
deriving DecidableEq, Repr, Inhabited

/-- The values from which a command starts: Table 4.2's defaults, or the claim's own. -/
def baseVals (s : State) (create : Bool) (n : Nat) : ClaimVals :=
  let g := s.image
  let c := s.claim n
  if create then
    { vectors := 16, active := 0, ledger := g.defaultLedger, t1 := g.defaultT1, t2 := g.defaultT2, qps := g.defaultQps
      tallyBase := 64 + n * g.defaultTallies, tallyCount := g.defaultTallies, descs := g.defaultDescs
      profiles := List.replicate 8 (1 + 2 ^ 8 * g.defaultStakes + 2 ^ 24 * 16) }
  else
    { vectors := c.vectors, active := c.activeProfile, ledger := c.ledgerQuota, t1 := c.t1Pages, t2 := c.t2Pages, qps := c.queuePairs
      tallyBase := c.tallyBase, tallyCount := c.tallyCount, descs := c.descriptors, profiles := c.profiles.toList.map (·.toNat) }

/-- The claim's values after the command (R66). -/
def newVals (s : State) (create : Bool) (b : List Byte) : ClaimVals :=
  let m := field b 1 1
  let v := baseVals s create (field b 0 1)
  let pick (k : Nat) (x y : Nat) : Nat := if m.testBit k then x else y
  { vectors := pick 6 (field b 2 1) v.vectors, active := pick 5 (field b 3 1) v.active, ledger := pick 0 (field b 4 2) v.ledger
    t1 := pick 1 (field b 6 2) v.t1, t2 := pick 1 (field b 8 2) v.t2, qps := pick 2 (field b 0xA 2) v.qps
    tallyBase := pick 3 (field b 0xC 2) v.tallyBase, tallyCount := pick 3 (field b 0xE 2) v.tallyCount
    descs := pick 4 (field b 0x10 2) v.descs
    profiles := if m.testBit 5 then (List.range 8).map fun p => field b (0x20 + 4 * p) 4 else v.profiles }

/-- Fields that the mask leaves out read 0, and reserved ones are 0 (R66). -/
def maskOk (create : Bool) (b : List Byte) : Bool :=
  let m := field b 1 1
  let zero (k off n : Nat) : Bool := m.testBit k || allZero (bytesAt b off n)
  decide (m < 128) && (create || !m.testBit 4) && zero 6 2 1 && zero 5 3 1 && zero 0 4 2 && zero 1 6 4 && zero 2 0xA 2
    && zero 3 0xC 4 && zero 4 0x10 2 && allZero (bytesAt b 0x12 14) && zero 5 0x20 32

/-- Every value is within Table 4.1 and every profile is valid (R74). -/
def valsOk (v : ClaimVals) : Bool :=
  decide (1 ≤ v.vectors) && decide (v.vectors ≤ 16) && decide (v.active ≤ 7) && decide (64 ≤ v.ledger) && decide (v.ledger ≤ 8192)
    && decide (v.t1 ≤ 12288) && decide (v.t2 ≤ 32768) && decide (v.qps ≤ 2048) && decide (64 ≤ v.tallyBase) && decide (v.tallyBase ≤ 1023)
    && decide (v.tallyCount ≤ 960) && decide (v.tallyBase + v.tallyCount ≤ 1024)
    && (v.descs == 256 || v.descs == 512 || v.descs == 1024 || v.descs == 2048 || v.descs == 4096)
    && v.profiles.all fun p => profValid (BitVec.ofNat 32 p)

/-- 64 KiB pages of a descriptor table (R68). -/
def descPages (descs : Nat) : Nat := (descs * 64 + 65535) / 65536

/-- The largest reservation of a set of profiles (R73). -/
def topStakes (ps : List Nat) : Nat := (ps.map fun p => profResv (BitVec.ofNat 32 p)).foldl max 0

/-- Check 3 of R67: the sums of Table 4.3, the tally ranges, R73 and the table's size. -/
def sumsOk (s : State) (n : Nat) (v : ClaimVals) : Bool :=
  let others := (List.range 8).filter fun k => k != n && (s.claim k).st != .free
  let sum (f : Claim → Nat) : Nat := total (others.map fun k => f (s.claim k))
  decide (sum (·.ledgerQuota) + v.ledger ≤ 8192) && decide (sum (·.t1Pages) + v.t1 ≤ 12288) && decide (sum (·.t2Pages) + v.t2 ≤ 32768)
    && decide (sum (·.queuePairs) + v.qps ≤ 2048)
    && decide (sum (fun c => topStakes (c.profiles.toList.map (·.toNat))) + topStakes v.profiles ≤ 64)
    && decide (descPages v.descs ≤ v.t1)
    && others.all fun k =>
      let c := s.claim k
      decide (v.tallyBase + v.tallyCount ≤ c.tallyBase) || decide (c.tallyBase + c.tallyCount ≤ v.tallyBase) || decide (v.tallyCount = 0)
        || decide (c.tallyCount = 0)

/-- Check 4 of R67 (R69): a lowering that is refused. -/
def loweringRefused (s : State) (n : Nat) (v : ClaimVals) : Bool :=
  let c := s.claim n
  decide (v.qps < (qpsOf s n).length)
    || (rangeFrom c.tallyBase c.tallyCount).any fun t =>
      !(decide (v.tallyBase ≤ t) && decide (t < v.tallyBase + v.tallyCount)) && (!(waitersOn s t).isEmpty || ctrlWaitsOn s t || (trickOfTally s t).isSome)

/-- R67's checks in order, but for the frames. -/
def claimFault (s : State) (create : Bool) (b : List Byte) : Option Nat :=
  let n := field b 0 1
  let v := newVals s create b
  if !(claimValid s n && maskOk create b && valsOk v) then some 0x0120
  else if decide ((s.claim n).st = (if create then .free else .active)) = false then some 0x0122
  else if !sumsOk s n v then some 0x0121
  else if !create && loweringRefused s n v then some 0x0122
  else none

/-- The number of page i of a descriptor table (R138). -/
def descPage (i : Nat) : Nat := descBase / 65536 + i

/-- Grant the descriptor table's frames one by one (R68, R200). -/
def grantDescs (n : Nat) : List Nat → State → List Nat → Option (State × List Nat)
  | [], s, fs => some (s, fs)
  | i :: is, s, fs => (takeFrame s n (homeDie (descPage i))).bind fun r => grantDescs n is r.2 (fs ++ [r.1])

/-- Tallies that enter a range are value 0, READY (R213). -/
def openTallies (s : State) (base count oldBase oldCount : Nat) : State :=
  (rangeFrom base count).foldl (fun s t =>
    if oldBase ≤ t ∧ t < oldBase + oldCount then s else s.modTally t fun _ => {}) s

/-- The QUOTA_CHANGED event (R67). -/
def quotaEvent (s : State) (n : Nat) : State :=
  postEvent s n 0x0007 0 [leBytes 8 (clmQuota (s.claim n)) ++ leBytes 8 (clmAlloc (s.claim n))]

/-- Take over a claim's quotas and ranges. -/
def Claim.withVals (c : Claim) (v : ClaimVals) : Claim :=
  { c with
    vectors := v.vectors, ledgerQuota := v.ledger, t1Pages := v.t1, t2Pages := v.t2, queuePairs := v.qps
    tallyBase := v.tallyBase, tallyCount := v.tallyCount, descriptors := v.descs }

/-- The profiles as words. -/
def profVec (ps : List Nat) : Vector Word32 8 := Vector.ofFn fun i : Fin 8 => BitVec.ofNat 32 (ps.getD i 0)

/-- CLAIM_CREATE takes effect (R64, R67, R208, R213); the cause when no frame can be granted.
DEDUCED, log entry 34. -/
def createClaim (s : State) (b : List Byte) : Except (State × Nat) State :=
  let n := field b 0 1
  let v := newVals s true b
  match grantDescs n (List.range (descPages v.descs)) s [] with
  | none => .error (clearNeeded s false n (descPages v.descs), 0x0402)
  | some (s1, fs) =>
    let s2 := s1.modClaim n fun c =>
      { (({} : Claim).withVals v) with
        st := .active, activeProfile := v.active, profiles := profVec v.profiles, resetLast := c.resetLast, resetFailed := c.resetFailed
        resetCompleted := c.resetCompleted, descFrames := fs, effResv := profResv (BitVec.ofNat 32 (v.profiles.getD v.active 0)) }
    let s3 := (openTallies s2 v.tallyBase v.tallyCount 0 0).modTiers fun t => { t with keys := tset t.keys n (some s.freeCtr) }
    .ok (quotaEvent s3.draw n)

/-- Armed host wait slots of a claim whose range changes disarm with met and failed (R220). -/
def disarmWaits (s : State) (n : Nat) : State :=
  (List.range 16).foldl (fun s w =>
    if (tget (tget s.sync.claims n).waits w).arm then endHostWait s n w true else s) s

/-- CLAIM_MODIFY takes effect (R67, R69, R75, R201, R213, R220). -/
def modifyClaim (s : State) (b : List Byte) : State :=
  let n := field b 0 1
  let c := s.claim n
  let v := newVals s false b
  let s1 := openTallies (s.modClaim n fun c => c.withVals v) v.tallyBase v.tallyCount c.tallyBase c.tallyCount
  let s2 := if c.tallyBase ≠ v.tallyBase ∨ c.tallyCount ≠ v.tallyCount then disarmWaits s1 n else s1
  let s3 := if (field b 1 1).testBit 5 then changeShare s2 n (profVec v.profiles) v.active else s2
  quotaEvent (relieveT1 (t1Use s3 n + 1) (updateLedgerFull s3 n) n) n

/-- CLAIM_CREATE and CLAIM_MODIFY on the steward shoe (R65 to R67): the block is read from host memory. -/
def claimCmd (s : State) (seq l : Nat) (create : Bool) (r : HostResp) : State :=
  match nextCmd s 8 seq l (if create then 0x40 else 0x41) with
  | none => s
  | some (_, g, b) =>
    let s1 := passCmd s 8 seq l b
    let a := field b 8 8
    if !hostOk s 0 a 64 then failAt s1 8 seq l g 0x0411
    else
      match readHost s1 0 a 64 r with
      | (s2, none) => failAt s2 8 seq l g 0x0411
      | (s2, some blk) =>
        match claimFault s2 create blk with
        | some cause => failAt s2 8 seq l g cause
        | none =>
          if create then
            match createClaim s2 blk with
            | .error (s3, cause) => failAt s3 8 seq l g cause
            | .ok s3 => completeCmd s3 8 seq l g
          else completeCmd (modifyClaim s2 blk) 8 seq l g

/-- Every item of a shoe that is not past its commit point fails with a cause, and the others complete (R70, R83,
R292). -/
def resolveShoe (s : State) (n cause : Nat) : State :=
  (itemsOf s n).foldl (fun s i =>
    match i.st with
    | .resolved => s
    | .committed => s.modItem n i.seq fun i => { i with st := .resolved }
    | _ => failItem s n i.seq (openOutcome i cause 0)) s

/-- What a reset or a release resolves of a list of items: the last sequence number, if any, and how many fail and how
many complete (Table 4.16). -/
def resetReport (open_ : List Item) : Option Nat × Nat × Nat :=
  (if open_.isEmpty then none else some ((open_.map (·.seq)).foldl max 0),
    min 65535 (open_.filter fun i => !i.fixed).length, min 65535 (open_.filter fun i => i.fixed).length)

/-- CLM_RESET_LAST and CLM_RESET_COUNTS are written (R70, R83). A reset that resolved no item leaves CLM_RESET_LAST as it
was. DEDUCED, log entry 126. -/
def Claim.withReport (c : Claim) (r : Option Nat × Nat × Nat) : Claim :=
  { c with resetLast := r.1.getD c.resetLast, resetFailed := r.2.1, resetCompleted := r.2.2, report := none }

/-- Items of a shoe whose outcome is not yet due or written. -/
def openItems (s : State) (n : Nat) : List Item := (itemsOf s n).filter fun i => i.st != .resolved

/-- CLAIM_RELEASE (R70, steps 1 and 2): it stays active until the release ends. DEDUCED, log entry 35. -/
def claimRelease (s : State) (seq l : Nat) : State :=
  match nextCmd s 8 seq l 0x42 with
  | none => s
  | some (_, g, b) =>
    let n := field b 6 1
    if (s.claim n).st ≠ .active then failAt (passCmd s 8 seq l b) 8 seq l g 0x0122
    else
      let s1 := heldCmd s 8 seq l g b .steward
      let s2 := endGrant (s1.modClaim n fun c =>
        { c with st := .releasing, releaseItem := some seq, report := some (resetReport (openItems s1 n)) }) n
      writeOutcomes (resolveShoe s2 n 0x0705) n

/-- A claim's pages, page tables and descriptor table become FOREIGN, and its charges on COMMON pages end (R206). -/
def foreignPages (s : State) (n : Nat) : State :=
  let s0 := (s.tiers.moves.filter fun m => m.table == n).foldl (fun s m => cancelMove s m.table m.page) s
  let s1 := s0.modTiers fun t =>
    { t with
      frames := t.frames.map fun f => if f.2.owner = n then (f.1, { f.2 with isForeign := true }) else f
      handles := t.handles.map fun f => if f.2.owner = n then (f.1, { f.2 with isForeign := true }) else f
      tables := tset t.tables n {}, keys := tset t.keys n none, shares := tset t.shares n 0 }
  ((s1.ptab 8).pages.map (·.1)).foldl (fun s p => evictCharge s n p) s1

/-- A claim's real-time bindings are cleared (R70, step 4). -/
def clearBinding (s : State) (n : Nat) : State :=
  let clr (b : RtBind) : RtBind := if b.valid ∧ b.claim = n then {} else b
  s.modCl fun c => { c with rtWritten := c.rtWritten.map clr, rtInForce := c.rtInForce.map clr }

/-- The registers of a claim's window return to their reset values (R70, R83, R220, R291). -/
def clearWindow (s : State) (n : Nat) : State :=
  let s1 := s.modShoe n Shoe.clearRegs
  let s2 := s1.modCl fun c => { c with rings := tmod c.rings n EvtRing.clearRegs, vectorMap := tset c.vectorMap n 0x76543210 }
  s2.modSync fun y => { y with claims := tmod y.claims n ClaimTally.clearRegs }

/-- A claim's queue-pair command registers and regions. -/
def clearRegions (s : State) (n : Nat) : State := s.modClaimNet n fun _ => {}

/-- CLAIM_RELEASE_END (R70, steps 3 to 5): the release's item completes with the outcomes not written in detail. -/
def releaseEnd (s : State) (n : Nat) : State :=
  let c := s.claim n
  if c.st ≠ .releasing then s
  else
    let lost := (itemsOf s n).length
    let s1 := poisonClaimTallies (failRoundsOf s n 0x0705) n
    let s2 := s1.modNet fun x => { x with qps := x.qps.filter fun q => q.claim != n }
    let s3 := (List.range 64).foldl (fun s i => if (s.index i).claim = n ∧ (s.index i).st ≠ .unbound then unbindIndex s i (s.index i).headerVa (s.index i).claim else s) s2
    let s4 := clearBinding (foreignPages s3 n) n
    let s5 := s4.modDl fun d => { d with items := d.items.filter fun i => i.shoe != n }
    let s6 := clearRegions (clearWindow s5 n) n
    let s7 := s6.modClaim n fun c =>
      ({ ({} : Claim) with resetLast := c.resetLast } : Claim).withReport (c.report.getD (none, 0, 0))
    match c.releaseItem with
    | none => s7
    | some seq =>
      match (findItem s7 8 seq).bind fun i => i.levels.findSome? fun lv => (lv.active.find? fun a => a.st == .steward).map fun a => (lv.id, a.granule) with
      | some (l, g) =>
        completeCmd (s7.modItem 8 seq fun i => { i with noteDetail := lost }) 8 seq l g
      | none => s7

/-- The PCIe state of a function that a reset clears: its MSI-X table, enables and power state; its windows stay
(R291). -/
def Fn.reset (f : Fn) (resetting : Bool) : Fn := { wins := f.wins, resetting := resetting }

/-- A function-level reset of a virtual function (R83, R291). DEDUCED, log entry 36. -/
def functionReset (s : State) (n : Nat) : State :=
  let s0 := endGrant (s.modFn (n + 1) fun f => f.reset true) n
  match (s0.claim n).st with
  | .active =>
    let open_ := openItems s0 n
    let s1 := s0.modClaim n fun c => { c with st := .resetting, ledgerFull := false }.withReport (resetReport open_)
    let s2 := resolveShoe s1 n 0x0704
    let s3 := clearRegions (qpsErr (failRoundsOf (poisonClaimTallies s2 n) n 0x0704) n) n
    let s4 := s3.modDl fun d => { d with items := d.items.filter fun i => i.shoe != n }
    let c := s4.claim n
    let first := (open_.map (·.seq)).headD 0
    let last := (open_.map (·.seq)).foldl max 0
    postEvent s4 8 0x0010 0 [leBytes 1 n ++ List.replicate 7 0#8 ++ leBytes 8 first ++ leBytes 8 last ++ leBytes 2 c.resetFailed ++ leBytes 2 c.resetCompleted]
  | .resetting => s0
  | _ => clearWindow s0 n

/-- The reset ends: the claim is ACTIVE and its function answers (R83, step 5). -/
def resetComplete (s : State) (n : Nat) : State :=
  let s1 := s.modFn (n + 1) fun f => { f with resetting := false }
  if (s1.claim n).st = .resetting then (clearWindow s1 n).modClaim n fun c => { c with st := .active } else s1

/-- VF Enable is cleared, or NumVFs lowered, up to TotalVFs (R31): every created claim whose function disappears is reset
(R84). -/
def vfClear (s : State) (enable : Bool) (numVfs : Nat) : State :=
  let p := s.pcie
  let num := min numVfs s.image.claimCount
  let s1 := { s with pcie := { p with vfEnable := enable, numVfs := num } }
  (List.range 8).foldl (fun s n =>
    let was := p.vfEnable && decide (n < p.numVfs)
    let is_ := enable && decide (n < num)
    if was && !is_ && (s.claim n).st ≠ .free then functionReset s n else s) s1

/-- VF Enable is set (R282, R283): at most TotalVFs functions appear. -/
def vfSet (s : State) (num : Nat) : State := { s with pcie := { s.pcie with vfEnable := true, numVfs := min num s.image.claimCount } }

/-- A function-level reset of the physical function (R292). -/
def pfReset (s : State) : State :=
  let s1 := { s with pcie := { s.pcie with vfEnable := false, numVfs := 0 } }
  let s2 := (List.range 8).foldl (fun s n => if (s.claim n).st ≠ .free then functionReset s n else s) s1
  let s3 := resolveShoe s2 8 0x0706
  let s4 := (s3.modShoe 8 Shoe.clearRegs).modCl fun c => { c with rings := tmod c.rings 8 EvtRing.clearRegs, stewardVectors := 0 }
  s4.modFn 0 fun _ => {}

/-- A hot reset, link disable or Link Down (R293). -/
def pcieDown (s : State) : State :=
  let s1 := pfReset s
  { s1 with pcie := { s1.pcie with linkUp := false, gen := 0, width := 0, flit := false, belowFloor := false } }

end Sys2Proof.Machine
end

