-- ==== Sys2Proof/Machine/Ecdsa.lean ====
section
/-! DEFINITION. ECDSA P-384 verification (R32, R33, R374, R378, R383, R385). The curve and the method are those of the
standard that the spec names (PRESUMED from it: log entry 12). -/

namespace Sys2Proof.Machine

/-- The field's prime, the curve's constant b, the base point and its order. -/
def p384P : Nat := 2 ^ 384 - 2 ^ 128 - 2 ^ 96 + 2 ^ 32 - 1
def p384B : Nat :=
  0xb3312fa7e23ee7e4988e056be3f82d19181d9c6efe8141120314088f5013875ac656398d8a2ed19d2a85c8edd3ec2aef
def p384N : Nat :=
  0xffffffffffffffffffffffffffffffffffffffffffffffffc7634d81f4372ddf581a0db248b0a77aecec196accc52973
def p384G : Nat × Nat :=
  (0xaa87ca22be8b05378eb1c71ef320ad746e1d3b628ba79b9859f741e082542a385502f25dbf55296c3a545e3872760ab7,
   0x3617de4a96262c6f5d9e98bf9292dc29f8f41dbd289a147ce9da3113b5f0b8c00a60b1ce1d7e819d7a431d7c90ea0e5f)

/-- `b ^ e` modulo `m`, over the low `n` bits of `e`. -/
def powMod (b e m : Nat) : Nat → Nat
  | 0 => 1 % m
  | n + 1 =>
    let h := powMod b (e / 2) m n
    if e % 2 = 0 then h * h % m else h * h % m * b % m

/-- The inverse modulo a prime of at most 384 bits. -/
def invMod (a m : Nat) : Nat := powMod (a % m) (m - 2) m 384

/-- The difference modulo the field's prime. -/
def fSub (a b : Nat) : Nat := (a + p384P - b % p384P) % p384P

/-- The sum of two points; `none` is the point at infinity. -/
def ecAdd : Option (Nat × Nat) → Option (Nat × Nat) → Option (Nat × Nat)
  | none, q => q
  | p, none => p
  | some (x1, y1), some (x2, y2) =>
    if x1 = x2 ∧ (y1 + y2) % p384P = 0 then none
    else
      let l :=
        if x1 = x2 then fSub (3 * x1 * x1) 3 * invMod (2 * y1) p384P % p384P
        else fSub y2 y1 * invMod (fSub x2 x1) p384P % p384P
      let x := fSub (l * l) (x1 + x2)
      some (x, fSub (l * fSub x1 x) y1)

/-- A multiple of a point, over the low `n` bits of the factor. -/
def ecMul (p : Option (Nat × Nat)) : Nat → Nat → Option (Nat × Nat)
  | 0, _ => none
  | n + 1, k =>
    let h := ecMul p n (k / 2)
    let d := ecAdd h h
    if k % 2 = 0 then d else ecAdd d p

/-- The point lies on the curve. -/
def onCurve (x y : Nat) : Bool :=
  decide (x < p384P) && decide (y < p384P) && decide (y * y % p384P = fSub (x * x * x + p384B) (3 * x))

/-- The signature (r then s, big-endian) of a message verifies under a public key (X then Y, big-endian). -/
def ecdsaVerify (key msg sig : List Byte) : Bool :=
  let x := beNat (bytesAt key 0 48)
  let y := beNat (bytesAt key 48 48)
  let r := beNat (bytesAt sig 0 48)
  let t := beNat (bytesAt sig 48 48)
  if onCurve x y ∧ 1 ≤ r ∧ r < p384N ∧ 1 ≤ t ∧ t < p384N then
    let w := invMod t p384N
    let e := beNat (sha384 msg)
    match ecAdd (ecMul (some p384G) 384 (e * w % p384N)) (ecMul (some (x, y)) 384 (r * w % p384N)) with
    | none => false
    | some q => decide (q.1 % p384N = r)
  else false

end Sys2Proof.Machine
end

