-- ==== Sys2Proof/Machine/SecOps.lean ====
section
/-! DEFINITION. Root of trust, security commands, seat records, debug grants and debug actions (R373 to R390, R396,
R399). -/

namespace Sys2Proof.Machine

/-- A new SEC_NONCE is drawn; it is never 0 (R377). DEDUCED, log entry 92. -/
def drawNonce (s : State) : State :=
  (s.modDbg fun d => { d with nonce := Config.entropy s.freeCtr % (2 ^ 64 - 1) + 1 }).draw

/-- Measurement i (1 to 5), and the setting and extending of one (R376). -/
def State.measure (s : State) (i : Nat) : List Byte := tget s.dbg.measures (i - 1)
def setMeasure (s : State) (i : Nat) (v : List Byte) : State :=
  s.modDbg fun d => { d with measures := tset d.measures (i - 1) v }
def extendMeasure (s : State) (i : Nat) (input : List Byte) : State := setMeasure s i (sha384 (bytesAt (s.measure i) 0 48 ++ input))

/-- Flash bytes; a byte that is not listed reads 0xFF. -/
def flashRead (f : Flash) (a n : Nat) : List Byte := (List.range n).map fun i => (memGet f.cells (a + i)).getD 0xFF#8

/-- Flash bytes written; a byte of 0xFF is not listed. -/
def flashPut (c : List Host.Cell) (a : Nat) : List Byte → List Host.Cell
  | [] => c
  | b :: bs => flashPut (if b = 0xFF#8 then memDrop c a 1 else memPut c a b) (a + 1) bs

/-- The flash after bytes are written at an offset. -/
def flashWrite (f : Flash) (a : Nat) (bs : List Byte) : Flash := { f with cells := flashPut f.cells a bs }

/-- The board's flash as it is kept: sorted, each address once, no byte of 0xFF listed. -/
def flashKept (f : Flash) : Flash :=
  { f with cells := f.cells.foldr (fun c m => if c.2 = 0xFF#8 then memDrop m c.1 1 else memPut m c.1 c.2) [] }

/-- Change the flash. -/
def State.modFlash (s : State) (f : Flash → Flash) : State := s.modBoot fun b => { b with flash := f b.flash }

/-- Where a seat record bank begins (Table 2.1). -/
def bankBase (b : Nat) : Nat := 0x800000 + 0x8000 * b

/-- The identity signature of a message. -/
def identitySign (s : State) (msg : List Byte) : List Byte := bytesAt (Config.identitySign s.boot.fuses.seed msg 0) 0 96

/-- A signature verifies under this package's identity key: one that the package makes, or one that the method accepts
(R39, R374). -/
def identityOk (s : State) (msg sig : List Byte) : Bool :=
  !s.boot.fuses.killed && (sig == identitySign s msg || ecdsaVerify (identityKey s) msg sig)

/-- The reserved fields of a seat record bank are 0: its gaps and the entries that it does not use (Table 2.6).
DEDUCED, log entry 115. -/
def bankReserved (b : List Byte) : Bool :=
  decide (field b 7 1 = 0) && decide (field b 0xC 4 = 0) && decide (field b 0x44 12 = 0)
    && (List.range 12).all fun i =>
      if i < field b 6 1 then decide (field b (0x50 + 64 * i + 2) 14 = 0) else allZero (bytesAt b (0x50 + 64 * i) 64)

/-- A valid seat record bank (R39). -/
def readBank (s : State) (k : Nat) : Option SeatRecord :=
  let b := flashRead s.boot.flash (bankBase k) 0x3B0
  if decide (field b 0 4 = 0x5A525354) && decide (field b 4 2 = 1) && decide (field b 6 1 ≤ 12) && bankReserved b
    && identityOk s (b.take 0x350) (b.drop 0x350) then
    some { bytes := b, sequence := field b 8 4, own := bytesAt b 0x10 48, coord := seatAt b 0x41,
           neighbours := (List.range (field b 6 1)).map fun i => bytesAt b (0x50 + 64 * i) 64, bank := k }
  else none

/-- The bank that is used: the valid one with the higher sequence (R39), bank 0 of two with equal sequences.
DESIGN CHOICE, log entry 115. -/
def bankInForce (s : State) : Option SeatRecord :=
  match readBank s 0, readBank s 1 with
  | some a, some b => if a.sequence < b.sequence then some b else some a
  | some a, none => some a
  | none, b => b

/-- Measurement 4 follows the bank in force (Table 18.2). -/
def measureSeat (s : State) : State :=
  setMeasure s 4 (match s.boot.seat with
    | some r => sha384 r.bytes
    | none => List.replicate 48 0#8)

/-- READY raises the rollback counter to the running image's floor (R35). -/
def raiseRollback (s : State) : State :=
  s.modBoot fun b => { b with fuses := { b.fuses with rollback := max b.fuses.rollback s.image.rollbackFloor } }

/-- The neighbour entry of a port, for a record that is being sealed (R379): none for a port without one. -/
def sealEntry (s : State) (p : Nat) : Option (List Byte) :=
  let x := s.port p
  if x.st = .up ∨ (x.st = .quarantined ∧ [1, 2, 3, 6].contains x.reason) then
    some (leBytes 1 p ++ leBytes 1 x.peerPort ++ List.replicate 14 0#8 ++ bytesAt x.digest 0 48)
  else none

/-- The record that SEAL builds and signs (R379). -/
def buildSeal (s : State) (seq : Nat) : List Byte :=
  let es := (List.range 12).filterMap (sealEntry s)
  let msg := leBytes 4 0x5A525354 ++ leBytes 2 1 ++ leBytes 1 es.length ++ [0#8] ++ leBytes 4 seq ++ leBytes 4 0
    ++ bytesAt (identityDigest s) 0 48 ++ leBytes 1 (b2n s.image.slab) ++ seatBytes s.image.coord ++ List.replicate 12 0#8
    ++ bytesAt es.flatten 0 768
  msg ++ identitySign s msg

/-- A SEAL's steps (R379, R380): whether the flash write and its read-back succeed is the flash's part. -/
def sealRecord (s : State) (flashOk : Bool) : State :=
  if !s.dbg.identity then s.modDbg fun d => { d with sealResult := 0x0D }
  else
    let q (k : Nat) : Nat := field (flashRead s.boot.flash (bankBase k + 8) 4) 0 4
    let seq := (max (q 0) (q 1) + 1) % 2 ^ 32
    let target := match bankInForce s with
      | some r => 1 - r.bank
      | none => if q 1 < q 0 then 1 else 0
    let rec_ := buildSeal s seq
    if !flashOk then
      let r := freeBytes s 0x3B0
      let s1 := r.1.modFlash fun f => flashWrite f (bankBase target) r.2
      secEvent (s1.modDbg fun d => { d with sealResult := 0x0E }) 4 0 0x0E seq
    else
      let s1 := s.modFlash fun f => flashWrite f (bankBase target) rec_
      let r : SeatRecord :=
        { bytes := rec_, sequence := seq, own := bytesAt rec_ 0x10 48, coord := s.image.coord,
          neighbours := (List.range (field rec_ 6 1)).map fun i => bytesAt rec_ (0x50 + 64 * i) 64, bank := target }
      let s2 := measureSeat (s1.modBoot fun b => { b with seat := some r })
      let s3 := if s2.boot.dev = .newSeat then raiseRollback (setDev (s2.modBoot fun b => { b with newSeat := false }) .ready 0) else s2
      let s4 := (List.range 12).foldl (fun s p => if (s.port p).st = .quarantined then sendHello s p else s) s3
      secEvent (s4.modDbg fun d => { d with sealResult := 0 }) 4 0 0 seq

/-- SEAL on the steward shoe: its item completes whatever the result (R379). -/
def sealCmd (s : State) (seq l : Nat) (flashOk : Bool) : State :=
  match nextCmd s 8 seq l 0x47 with
  | none => s
  | some (_, g, b) => sealRecord (doneCmd s 8 seq l g b) flashOk

/-- A key (X then Y) matches an owner slot that is programmed and not revoked. -/
def slotKeyOk (s : State) (slot : Nat) (key : List Byte) : Bool :=
  let k := tget s.boot.fuses.slots slot
  k.programmed && !k.revoked && sha384 key == bytesAt k.hash 0 48

/-- Change an owner key slot. -/
def State.modSlot (s : State) (i : Nat) (f : KeySlot → KeySlot) : State :=
  s.modBoot fun b => { b with fuses := { b.fuses with slots := tmod b.fuses.slots i f } }

/-- Fields of a key slot block within Table 18.4. -/
def keyBlockOk (b : List Byte) : Bool :=
  decide (field b 0 4 = 0x5A524B43) && (decide (field b 4 1 = 1) || decide (field b 4 1 = 2)) && decide (field b 5 1 ≤ 3)
    && decide (field b 6 1 ≤ 3) && (decide (field b 4 1 = 2) || decide (field b 5 1 ≠ field b 6 1)) && decide (field b 7 1 = 0)
    && (decide (field b 4 1 = 1) || allZero (bytesAt b 0x10 48))

/-- Check 5 of R378: the target slot's state. -/
def slotStateOk (s : State) (program : Bool) (target : Nat) : Bool :=
  let k := tget s.boot.fuses.slots target
  let other := (List.range 4).any fun i => i != target && (tget s.boot.fuses.slots i).programmed && !(tget s.boot.fuses.slots i).revoked
  if program then !k.programmed else k.programmed && !k.revoked && other

/-- A key slot block: the state and the result code; `verified` is whether the blown fuses read back as they should
(R378). DEDUCED, log entry 94. -/
def keySlotBlock (s : State) (b : List Byte) (verified : Bool) : State × Nat :=
  let key := bytesAt b 0x40 96
  let program := decide (field b 4 1 = 1)
  let target := field b 5 1
  if !keyBlockOk b then (s, 0x02)
  else if field b 8 8 ≠ s.dbg.nonce then (s, 0x05)
  else if !slotKeyOk s (field b 6 1) key then (s, 0x03)
  else if !ecdsaVerify key (bytesAt b 0 0xA0) (bytesAt b 0xA0 96) then (s, 0x04)
  else if !slotStateOk s program target then (s, 0x07)
  else
    let code := if verified then 0 else 0x0F
    let s1 :=
      if verified then s.modSlot target fun k => if program then { k with programmed := true, hash := bytesAt b 0x10 48 } else { k with revoked := true }
      else if program then
        let r := freeBytes s 48
        r.1.modSlot target fun _ => { programmed := true, revoked := true, hash := r.2 }
      else s
    (secEvent s1 3 target code, code)

/-- Fields of a grant token within Table 18.6. -/
def grantBlockOk (b : List Byte) : Bool :=
  decide (field b 0 4 = 0x5A524454) && decide (field b 4 1 ≤ 7) && decide (1 ≤ field b 5 1 ∧ field b 5 1 ≤ 3) && decide (field b 6 1 ≤ 3)
    && decide (field b 7 1 = 0) && decide (1 ≤ field b 0x18 4 ∧ field b 0x18 4 ≤ 86400) && decide (field b 0x1C 4 = 0)

/-- A device field names this package (R383, R385). -/
def deviceOk (s : State) (b : List Byte) : Bool := !s.boot.fuses.killed && bytesAt b 8 8 == bytesAt (identityDigest s) 0 8

/-- A debug grant block: the state and the result code (R383). -/
def grantBlock (s : State) (b : List Byte) : State × Nat :=
  let key := bytesAt b 0x80 96
  let n := field b 4 1
  if !grantBlockOk b then (s, 0x02)
  else if s.dbg.st = .vendorOpen then (s, 0x0B)
  else if s.redealing then (s, 0x0C)
  else if !deviceOk s b then (s, 0x06)
  else if field b 0x10 8 ≠ s.dbg.nonce then (s, 0x05)
  else if !slotKeyOk s (field b 6 1) key then (s, 0x03)
  else if !ecdsaVerify key (bytesAt b 0 0x20) (bytesAt b 0x20 96) then (s, 0x04)
  else if (s.claim n).st ≠ .active then (s, 0x08)
  else
    let s1 := extendMeasure s 5 (bytesAt b 0 32)
    let s2 := if (tget s.dbg.grants n).live then s1 else s1.modWin n fun _ => {}
    let g : Grant := { live := true, observe := bit (field b 5 1) 0, halt := bit (field b 5 1) 1, duration := field b 0x18 4, since := s.now }
    let s3 := s2.modDbg fun d => { d with grants := tset d.grants n g }
    (secEvent (setSec s3 .claimDebug) 1 n 0, 0)

/-- A revocation: accepted whether or not a grant is live (R384). -/
def revokeGrant (s : State) (n : Nat) : State × Nat :=
  (if (tget s.dbg.grants n).live then endGrant s n else secEvent s 2 n 0, 0)

/-- DEBUG_GRANT_EXPIRY (R384). -/
def grantExpiry (s : State) (n : Nat) : State := endGrant s n

/-- Fields of a vendor unlock block (R385). -/
def unlockBlockOk (b : List Byte) : Bool :=
  decide (field b 0 4 = 0x5A52564F) && decide (field b 4 1 = 1) && decide (field b 5 1 ≤ 3) && decide (field b 6 2 = 0) && decide (field b 0x18 8 = 0)

/-- The code of an unlock block, in the order of R383; without an identity there is no digest to differ from. -/
def unlockCode (s : State) (b : List Byte) : Nat :=
  let vkey := bytesAt b 0x20 96
  let okey := bytesAt b 0xE0 96
  let head := bytesAt b 0 32
  if !unlockBlockOk b then 0x02
  else if !s.boot.fuses.killed && !deviceOk s b then 0x06
  else if field b 0x10 8 ≠ s.dbg.nonce then 0x05
  else if !(sha384 vkey == bytesAt s.boot.fuses.vendorHash 0 48) || !slotKeyOk s (field b 5 1) okey then 0x03
  else if !ecdsaVerify vkey head (bytesAt b 0x80 96) || !ecdsaVerify okey head (bytesAt b 0x140 96) then 0x04
  else 0

/-- A security command that reads a block through the physical function (R377): the block must lie in a window and its
read succeed. A new nonce follows, whatever the outcome. -/
def secBlock (s : State) (len : Nat) (r : HostResp) (k : State → List Byte → State × Nat) : State :=
  let a := 32 * s.dbg.cmdAddr
  let res : State × Nat :=
    if !hostOk s 0 a len then (s, 0x02)
    else
      match readHost s 0 a len r with
      | (s1, none) => (s1, 0x02)
      | (s1, some b) => k s1 b
  drawNonce (res.1.modDbg fun d => { d with done := true, code := res.2 })

/-- A security command without a block. -/
def secPlain (s : State) (k : State → State × Nat) : State :=
  let res := k s
  res.1.modDbg fun d => { d with done := true, code := res.2 }

/-- A debug action's check through a claim's window (R396, Table 18.9): the code that refuses it. -/
def dbgCheck (s : State) (n : Nat) (need : Grant → Bool) : Option Nat :=
  let g := tget s.dbg.grants n
  if s.dbg.st = .vendorOpen then some 0x0B
  else if !(g.live && need g) then some 0x09
  else if s.power.level ≠ 0 then some 0x0A
  else none

/-- A refused action sets DBG_STATUS.result and changes nothing else. -/
def dbgRefuse (s : State) (n code : Nat) : State := s.modWin n fun w => { w with result := code }

/-- A halt of the claim is in force (R386): contexts between tile groups halt now, the others at their group's end. -/
def haltClaim (s : State) (n : Nat) : State :=
  (s.modDl fun d =>
    { d with macros := d.macros.map fun m =>
        if m.claim = n ∧ m.phase = .running then { m with halted := m.cores.filter fun c => (tget s.dl.cores c).current != some m.id }
        else m }).modWin n
    fun w => { w with halted := true }

/-- A context has no tile group to run: it runs none, and none is left for its core. -/
def ctxIdle (s : State) (m : MacroInst) (c : Nat) : Bool := (tget s.dl.cores c).current != some m.id && !m.workFor c

/-- Contexts that a step still lets run, as part and core (R387). -/
def stepsLeft (s : State) (n : Nat) : List (Nat × Nat) :=
  (tget s.dbg.wins n).stepping.filter fun x => (findMacro s x.1).any fun m => !ctxIdle s m x.2

/-- Everything of the claim has stopped: DBG_STATUS.halted (R386). -/
def haltDone (s : State) (n : Nat) : Bool :=
  (tget s.dbg.wins n).halted && s.dl.macros.all fun m =>
    m.claim != n || m.phase != .running || m.cores.all fun c => m.halted.contains c || ctxIdle s m c

/-- A step: each halted context runs one tile group (R387). -/
def stepClaim (s : State) (n : Nat) : State :=
  let xs := (s.dl.macros.filter fun m => m.claim == n).flatMap fun m => (m.halted.filter fun c => m.workFor c).map fun c => (m.id, c)
  (s.modDl fun d =>
    { d with macros := d.macros.map fun m => { m with halted := m.halted.filter fun c => !xs.contains (m.id, c) } }).modWin n
    fun w => { w with stepping := xs }

/-- DBG_HALT, DBG_STEP and DBG_RESUME (R386, R387). DEDUCED, log entry 95. -/
def dbgHalt (s : State) (n : Nat) : State :=
  match dbgCheck s n (·.halt) with
  | some c => dbgRefuse s n c
  | none => haltClaim s n
def dbgStep (s : State) (n : Nat) : State :=
  match dbgCheck s n (·.halt) with
  | some c => dbgRefuse s n c
  | none => if !(stepsLeft s n).isEmpty then dbgRefuse s n 0x01 else stepClaim s n
def dbgResume (s : State) (n : Nat) : State := if (tget s.dbg.grants n).live then resumeClaim s n else s

/-- The value of an observed resource (Table 18.7) of a part's context, as it stood at its last tile group boundary (R388);
an index above the table's and a resource that it does not list read as 0. DESIGN CHOICE, log entry 97. -/
def observeValue (m : MacroInst) (x : CtxSeen) (res idx : Nat) : Nat :=
  let a := tget x.ctx.addrs idx
  match res with
  | 0 => (tget x.ctx.scalars idx).toNat
  | 1 => a.base.toNat
  | 2 => a.stride.toNat
  | 3 => a.bound.toNat
  | 4 => a.current.toNat
  | 5 => (tget x.ctx.loops idx).left.toNat
  | 6 => if idx = 0 then m.programVa % 2 ^ 32 + 2 ^ 32 * (x.ctx.pc / 64 % 2 ^ 16) + 2 ^ 48 * (m.nextGroup % 2 ^ 16) else 0
  | 7 => if idx = 0 then leNat ((x.depths ++ [x.entries]).map (BitVec.ofNat 8)) else 0
  | _ => 0

/-- The part in a context of a core. -/
def contextOf (s : State) (core ctx : Nat) : Option MacroInst := (tget (tget s.dl.cores core).slots ctx).bind (findMacro s)

/-- The fields of DBG_OBS_SEL that are stored (Table 18.12, R10). -/
def obsFields (v : Nat) : Nat := bits v 0 7 + 2 ^ 8 * bits v 8 13

/-- DBG_OBSERVE: DBG_OBS_SEL is written with go (R388); a core in P1 wakes (R391). -/
def dbgObserve (s : State) (n v : Nat) : State :=
  let s1 := wakeCores (s.modWin n fun w => { w with obsSel := obsFields v }) [bits v 0 7]
  match dbgCheck s n (·.observe) with
  | some c => dbgRefuse (if (tget s.dbg.grants n).live then s.modWin n fun w => { w with obsSel := obsFields v } else s) n c
  | none =>
    match contextOf s (bits v 0 7) (bits v 12 4) with
    | some m =>
      if m.claim = n then s1.modWin n fun w =>
        { w with obsData := observeValue m (tget (tget s.dl.cores (bits v 0 7)).seen (bits v 12 4)) (bits v 8 4) (bits v 16 5) }
      else dbgRefuse s1 n 0x09
    | none => dbgRefuse s1 n 0x09

/-- The lane of a level, or 0xF for the Dealer (R399). -/
def levelLane (lv : Level) : Nat :=
  match lv.kind with
  | .lane l _ => l
  | _ => 0xF

/-- A break triggers: the claim halts before the command starts (R389). -/
def breakHit (s : State) (n seq : Nat) (lv : Level) (g : Nat) : State :=
  let s1 := (haltClaim s n).modWin n fun w => { w with breakHit := true, mode := 0, held := some (seq, lv.id, g) }
  postEvent s1 n 0x0016 0 [leBytes 8 seq ++ leBytes 2 (cmdTag (cmdAt lv.bytes g)) ++ leBytes 1 lv.depth ++ leBytes 1 (levelLane lv)
    ++ leBytes 4 g ++ leBytes 4 (tget s1.dbg.wins n).commands]

/-- A command of a level is about to start: it is counted, and a break may hold it (R389); `k` starts it. A command
that a break held starts after resume and is not counted again. DEDUCED, log entry 109. -/
def gate (shoe seq l op : Nat) (mine : List Byte → Bool) (k : State → State) (s : State) : State :=
  match nextCmd s shoe seq l op with
  | none => s
  | some (lv, g, b) =>
    if !mine b then s
    else if 8 ≤ shoe then k s
    else
      let w := tget s.dbg.wins shoe
      if w.held = some (seq, l, g) then k (s.modWin shoe fun w => { w with held := none })
      else if w.mode = 0 then k s
      else
        let n := (w.commands + 1) % 2 ^ 32
        let s1 := s.modWin shoe fun w => { w with commands := n }
        if (w.mode = 1 ∧ n = w.count) ∨ (w.mode = 2 ∧ cmdTag b = w.tag) then
          match dbgCheck s1 shoe (·.halt) with
          | none => breakHit s1 shoe seq lv g
          | some c => k (dbgRefuse s1 shoe c)
        else k s1

/-- A JTAG instruction is in force, and a data register is captured (R390). -/
def jtagLoad (s : State) (inst reg value : Nat) : State := (s.modDbg fun d => { d with jtag := inst }).emit (.jtag reg value)

/-- IDCODE and BYPASS (R390): stepping A1. -/
def jtagIdcode (s : State) : State := jtagLoad s 0 0 (1 * 2 ^ 28 + 0x5A01 * 2 ^ 12 + 2 * (Config.manufacturer % 2 ^ 11) + 1)
def jtagBypass (s : State) : State := jtagLoad s 1 1 0

/-- Boundary scan is accepted: the main dies are held in reset, or the package is in P3 (R390). -/
def boundaryOk (s : State) : Bool := !s.boot.released || s.power.level == 3

/-- SAMPLE/PRELOAD and EXTEST with a boundary register value (R390). -/
def jtagBoundary (s : State) (extest : Bool) (v : Nat) : State :=
  if boundaryOk s then jtagLoad s (if extest then 3 else 2) 2 v else jtagBypass s

/-- The debug access port (R390, Table 18.9): it answers only in VENDOR_OPEN. -/
def jtagAccess (s : State) (a : DapAction) : State :=
  let status (s : State) (c : Nat) : State := s.modDbg fun d => { d with dapStatus := c }
  if s.dbg.st ≠ .vendorOpen then status (jtagBypass s) 0x0B
  else if s.power.level ≠ 0 then status (jtagLoad s 4 4 0) 0x0A
  else
    match a with
    | .scan => (status (jtagLoad s 4 4 0) 0).modDbg fun d => { d with scanned := true }
    | .observe core ctx res idx =>
      (match contextOf s core ctx with
        | some m => status (jtagLoad s 4 4 (observeValue m (tget (tget s.dl.cores core).seen ctx) res idx)) 0
        | none => status (jtagLoad s 4 4 0) 0x09)
    | .halt n => status (haltClaim (jtagLoad s 4 4 0) n) 0
    | .step n => if !(stepsLeft s n).isEmpty then status (jtagLoad s 4 4 0) 0x01 else status (stepClaim (jtagLoad s 4 4 0) n) 0
    | .resume n => status (resumeClaim (jtagLoad s 4 4 0) n) 0

end Sys2Proof.Machine
end

