-- ==== Sys2Proof/Machine/BeatOps.lean ====
section
/-! DEFINITION. The beat, its sources, lock, holdover and jumps (R46 to R55), the shift calendar (R56 to R61), and the
canary that each edge runs (R226 to R229). -/

namespace Sys2Proof.Machine

/-- Change the beat block. -/
def State.modBeat (s : State) (f : Beat → Beat) : State := { s with beat := f s.beat }

/-- Fields of a calendar entry (Table 3.3). -/
def ceModulus (e : List Byte) : Nat := field e 0 4
def ceOffset (e : List Byte) : Nat := field e 4 4
def cePhase (e : List Byte) : Nat := field e 8 2
def ceAction (e : List Byte) : Nat := field e 0xA 1
def ceEnabled (e : List Byte) : Bool := bit (field e 0xB 1) 0
def ceOnce (e : List Byte) : Bool := bit (field e 0xB 1) 1
def ceArg (e : List Byte) : Nat := field e 0xC 4

/-- The argument rules of Table 3.4; index numbers are those of R309. -/
def ceArgOk (e : List Byte) : Bool :=
  let a := ceArg e
  match ceAction e with
  | 0 => decide (a = 0)
  | 1 => (decide (bits a 0 4 ≤ 7) || decide (bits a 0 4 = 0xF)) && decide (bits a 7 25 = 0)
  | 2 => decide (bits a 0 3 ≠ 0) && decide (bits a 3 13 = 0) && decide (1 ≤ bits a 16 16)
  | 3 => decide (1 ≤ bits a 0 3) && decide (bits a 3 29 = 0)
  | 4 => decide (cePhase e < bits a 0 16) && decide (bits a 16 16 = 0)
  | 5 => (decide (bits a 0 16 < 64) || decide (bits a 0 16 = 0xFFFF)) && decide (bits a 16 16 = 0)
  | 6 => decide (a = 0)
  | 7 => decide (bits a 0 8 ≠ 0) && decide (1 ≤ bits a 8 16) && decide (bits a 24 8 = 0)
  | 8 => true
  | _ => false

/-- A valid calendar entry (R57). An entry of action NONE with modulus 0 is invalid by the rule's first line.
DEDUCED, log entry 122. -/
def ceOk (e : List Byte) : Bool :=
  decide (ceModulus e ≠ 0) && decide (ceOffset e < ceModulus e) && decide (bits (field e 0xB 1) 2 6 = 0) && ceArgOk e

/-- A calendar entry from its fields. -/
def ceMake (modulus offset phase action flags arg : Nat) : List Byte :=
  leBytes 4 modulus ++ leBytes 4 offset ++ leBytes 2 phase ++ leBytes 1 action ++ leBytes 1 flags ++ leBytes 4 arg

/-- Table 3.5. -/
def defaultCalendar : List (List Byte) :=
  [ceMake 1 0 0 6 1 0, ceMake 1 0 0x1000 4 1 0xC000, ceMake 1 0 0x4000 2 1 0x00040006, ceMake 10000 0 0x8000 3 1 1,
   ceMake 1000 500 0xE000 5 1 0xFFFF]

/-- An entry that does nothing. -/
def ceNone : List Byte := ceMake 1 0 0 0 0 0

/-- The 64 entries of a calendar record, or of the default (R59). -/
def calendarOf (es : List (List Byte)) : Vector CalEntry 64 := Vector.ofFn fun i : Fin 64 => es.getD i ceNone

/-- Entry i of the active calendar. -/
def State.entry (s : State) (i : Nat) : List Byte := tget s.beat.active i

/-- The actions that fire on a filler beat (R51). -/
def fillerAction (e : List Byte) : Bool := decide (ceModulus e = 1) && [6, 2, 3].contains (ceAction e)

/-- Entry i is due in the beat in progress and has not fired in it (R46, R51, R56). -/
def entryDue (s : State) (i : Nat) : Bool :=
  let e := s.entry i
  s.beat.aligned && decide (i < 64) && ceEnabled e && decide (ceAction e ≠ 0) && !s.beat.fired.contains i
    && decide (s.beat.count % max 1 (ceModulus e) = ceOffset e) && (!s.beat.inFiller || fillerAction e)

/-- The state of the package lets an action fire (R61, R393): only SHARE_SET while REDEALING, and SHARE_SET and MARK in
P2. -/
def actionAllowed (s : State) (action : Nat) : Bool :=
  s.boot.released && s.boot.dev != .failed && (!s.redealing || action == 1) && (s.power.level == 0 || action == 1 || action == 8)

/-- SHARE_SET for one claim (R61, R75). DEDUCED, log entry 85. -/
def shareSet (s : State) (n profile : Nat) : State :=
  if s.redealing then s.modRedeal fun r => { r with heldShares := r.heldShares ++ [(n, profile)] }
  else if (s.claim n).st = .active then changeShare s n (s.claim n).profiles profile
  else s

/-- CHECKPOINT_WINDOW for the ACTIVE claims of a mask (R57, R80). -/
def checkpointOpen (s : State) (mask len : Nat) : State :=
  (List.range 8).foldl (fun s n =>
    if mask.testBit n ∧ (s.claim n).st = .active then
      postEvent (s.modClaim n fun c => { c with ckptUntil := some (max (c.ckptUntil.getD 0) (s.beat.count + len)) }) n 0x0002 0
        [leBytes 6 s.beat.count ++ leBytes 2 0 ++ leBytes 2 len]
    else s) s

/-- What entry i does (Table 3.4). -/
def entryAct (s : State) (i : Nat) (views : List UnitView) : State :=
  let a := ceArg (s.entry i)
  match ceAction (s.entry i) with
  | 1 => if bits a 0 4 = 0xF then (List.range 8).foldl (fun s n => shareSet s n (bits a 4 3)) s else shareSet s (bits a 0 4) (bits a 4 3)
  | 2 => scrubSlice s (bit a 0) (bit a 1) (bit a 2) (bits a 16 16)
  | 3 => heatAge s (bits a 0 3)
  | 4 => openWindow s
  | 5 => advanceNamed s (bits a 0 16)
  | 6 => rollCall s views
  | 7 => checkpointOpen s (bits a 0 8) (bits a 8 16)
  | 8 => postEvent s 8 0x0012 0 [leBytes 1 i ++ List.replicate 3 0#8 ++ leBytes 4 a]
  | _ => s

/-- Entry i fires, or is passed over where the state of the package does not let its action fire. -/
def entryFire (s : State) (i : Nat) (views : List UnitView) : State :=
  if actionAllowed s (ceAction (s.entry i)) then
    let s1 := entryAct s i views
    if ceOnce (s.entry i) then
      s1.modBeat fun b => { b with active := tmod b.active i fun e => e.take 0xB ++ [e.getD 0xB 0#8 &&& 0xFE#8] ++ e.drop 0xC }
    else s1
  else s

/-- Entry i fires now, if it is due. -/
def entryNow (s : State) (i : Nat) (views : List UnitView) : State :=
  if entryDue s i then entryFire (s.modBeat fun b => { b with fired := b.fired ++ [i] }) i views else s

/-- Insert an entry, as (beat, phase, index), in the order in which entries fire (R56, R58). -/
def insertCatch (x : Nat × Nat × Nat) : List (Nat × Nat × Nat) → List (Nat × Nat × Nat)
  | [] => [x]
  | y :: ys => if x.1 < y.1 ∨ (x.1 = y.1 ∧ (x.2.1 < y.2.1 ∨ (x.2.1 = y.2.1 ∧ x.2.2 < y.2.2))) then x :: y :: ys else y :: insertCatch x ys

/-- Entries fire in the order given, with the views last recorded. -/
def fireInOrder (s : State) (es : List (Nat × Nat × Nat)) : State :=
  (es.foldr insertCatch []).foldl (fun s x => entryNow s x.2.2 []) s

/-- The entries due whose turn in the beat in progress comes before entry i's: a lower phase, or the same phase and a
lower index (R56, R58). -/
def dueBefore (s : State) (i : Nat) : List (Nat × Nat × Nat) :=
  (List.range 64).filterMap fun j =>
    let p := cePhase (s.entry j)
    if entryDue s j ∧ (p < cePhase (s.entry i) ∨ (p = cePhase (s.entry i) ∧ j < i)) then some (s.beat.count, p, j) else none

/-- The phase counter has reached a phase (R55). -/
def reachPhase (s : State) (p : Nat) : State := s.modBeat fun b => { b with phase := max b.phase p }

/-- Entry i of the beat in progress fires at its phase, if it is due and has the action; the entries whose turn comes
before it and that have not fired do so first (R56, R58). -/
def entryRun (s : State) (i action : Nat) (views : List UnitView) : State :=
  if entryDue s i && ceAction (s.entry i) == action then
    entryNow (reachPhase (fireInOrder s (dueBefore s i)) (cePhase (s.entry i))) i views
  else s

/-- Entries of the old beat that have not fired do so at the edge, in entry order, and a window closes (R55, R319). -/
def flushBeat (s : State) : State :=
  closeWindow ((List.range 64).foldl (fun s i => entryNow s i []) s)

/-- The last beat of a range at which an entry matches (R54). -/
def lastMatch (e : List Byte) (lo hi : Nat) : Option Nat :=
  let m := max 1 (ceModulus e)
  let x := hi - (hi + m - ceOffset e % m) % m
  if ceEnabled e ∧ ceAction e ≠ 0 ∧ ceOffset e ≤ hi ∧ lo ≤ x then some x else none

/-- Catch-up: every entry that matched in the skipped beats fires once (R54). -/
def catchUp (s : State) (lo hi : Nat) : State :=
  let es := (List.range 64).filterMap fun i => (lastMatch (s.entry i) lo hi).map fun x => (x, cePhase (s.entry i), i)
  (es.foldr insertCatch []).foldl (fun s x => entryFire s x.2.2 []) s

/-- BEAT_EVENTS as it reads (Table 3.10). -/
def beatEvents (s : State) : Nat :=
  let b := s.beat
  b2n b.loss + 2 * b2n b.relock + 4 * b2n b.jumpHold + 8 * b2n b.jumpFwd + 16 * b2n b.jumpFar + 32 * b2n b.redesignated
    + 64 * b2n b.commitCancelled + 128 * b2n b.commitRefused + 2 ^ 8 * b.refusedEntry + 2 ^ 16 * b.frameError

/-- The BEAT event (Table 4.7, Table 19.5). DEDUCED, log entry 28. -/
def beatEvent (s : State) : State := postSteward s 0x0011 0 (leBytes 4 (beatEvents s))

/-- The beat sensor's state (Table 19.3). -/
def beatState (b : Beat) : Nat := if b.holdover then 3 else if b.locked then 2 else if b.aligned then 1 else 0

/-- Change the beat block, reporting a change of the beat sensor (R409). -/
def State.beatSet (s : State) (f : Beat → Beat) : State :=
  let s1 := s.modBeat f
  mgmtSensor s1 0x0103 (beatState s.beat) (beatState s1.beat)

/-- The receiver runs: from boot step 11 on (R46). -/
def receiverOn (s : State) : Bool := s.boot.released && decide (11 ≤ s.boot.step)

/-- A pending commit takes effect at the edge of its beat, or at the next edge after it (R60); a filler beat is such an
edge, log entry 27. -/
def calendarApply (s : State) : State :=
  if s.beat.commitPending ∧ s.beat.atBeat ≤ s.beat.count then s.modBeat fun b => { b with active := b.shadow, commitPending := false } else s

/-- A command of the claim's item that is waiting on a tally, as the canary lists it: sequence, claim-relative tally,
operation, place, threshold (Table 11.5). -/
structure CanaryWait where
  seq : Nat
  tally : Nat
  op : Nat
  place : Nat := 0
  threshold : Nat := 0
deriving DecidableEq, Repr, Inhabited

/-- The tally waits of a level. -/
def levelWaits (base seq : Nat) (lv : Level) : List CanaryWait :=
  lv.active.filterMap fun a => match a.st with
    | .tallyWait t eq thr =>
      some { seq := seq, tally := t - base, op := b2n eq, threshold := thr,
             place := levelLane lv + 16 * (lv.depth % 8) + 128 * b2n lv.onLane }
    | _ => none

/-- A command is active in the sense of R100 and not a tally wait; a wait for the call store counts as able to signal
(R226, Edges). -/
def otherActive (s : State) (a : Active) : Bool :=
  match a.st with
  | .tallyWait _ _ _ => false
  | .callWait => true
  | _ => cmdActive s a

/-- Every active command of an item is a tally wait (Table 11.3). -/
def itemWaiting (s : State) (i : Item) : Bool :=
  i.st = .running && !(i.levels.flatMap (levelWaits 0 i.seq)).isEmpty && !(i.levels.any fun lv => lv.ready || lv.active.any (otherActive s))

/-- An item can still signal (Table 11.3). -/
def itemAble (s : State) (i : Item) : Bool := !i.fixed && !itemWaiting s i

/-- Unfetched entries wait in a claim's shoe, and fetch is held by the ledger or the deck store (Table 11.3). -/
def unfetched (s : State) (n : Nat) : Bool := decide ((s.shoe n).fetch ≠ (s.shoe n).produce)
def fetchBlocked (s : State) (n : Nat) : Bool := (s.claim n).ledgerFull || decide (2 ≤ decksHeld s n)

/-- A round controller of the claim waits on its start tally (R274). -/
def startWait (s : State) (a : Armed) : Option CanaryWait :=
  match a.startWait with
  | .waiting t => some { seq := 0, tally := t - (s.claim a.claim).tallyBase, op := 2, place := 0xF, threshold := a.deal + 1 }
  | _ => none

/-- Claim-relative tallies of the live tricks in a list of slots. -/
def canaryTricks (s : State) (base : Nat) (ks : List Nat) : List Nat :=
  ks.flatMap fun k => match tget s.sync.tricks k with
    | some t => [t.arriveTally - base, t.releaseTally - base]
    | none => []

/-- The armed rounds of a claim. -/
def armedRounds (s : State) (n : Nat) : List Armed := (List.range 16).filterMap fun c => (s.armed c).bind fun a => if a.claim = n then some a else none

/-- Tallies on which messages in flight to this seat complete (Table 11.3). -/
def messageTallies (s : State) (n : Nat) : List Nat :=
  let hs := (s.link.localMsgs.map fun m => MsgHeader.read m.1) ++ s.link.inbox.filterMap fun m => match m.mode with
      | .placing _ _ _ => some (MsgHeader.read m.header)
      | _ => none
  (hs.filter fun h => h.claim == n).flatMap fun h => [h.tally] ++ (if h.kind = 3 then [bits h.target 0 16] else [])

/-- Tallies that round controllers, tricks and messages can still signal (Table 11.3). -/
def signallable (s : State) (n : Nat) : List Nat :=
  let base := (s.claim n).tallyBase
  let rounds := (armedRounds s n).flatMap fun a =>
    if (startWait s a).isSome then [] else [a.startTally, a.readyTally, a.doneTally] ++ canaryTricks s base a.tricks
  let tricks := (List.range 64).filterMap fun k => match tget s.sync.tricks k with
    | some t => if t.claim = n ∧ t.arrived ∧ !t.poisoned then some (t.releaseTally - base) else none
    | none => none
  rounds ++ tricks ++ messageTallies s n

/-- Insert a wait in ascending sequence, then tally (R229). -/
def insertWait (x : CanaryWait) : List CanaryWait → List CanaryWait
  | [] => [x]
  | y :: ys => if x.seq < y.seq ∨ (x.seq = y.seq ∧ x.tally ≤ y.tally) then x :: y :: ys else y :: insertWait x ys

/-- Every waiting command of a claim (R226). -/
def claimWaits (s : State) (n : Nat) : List CanaryWait :=
  let is := (itemsOf s n).flatMap fun i => i.levels.flatMap (levelWaits (s.claim n).tallyBase i.seq)
  (is ++ (armedRounds s n).filterMap (startWait s)).foldr insertWait []

/-- The stalemate condition (R227). -/
def stalemate (s : State) (n : Nat) : Bool :=
  let ws := claimWaits s n
  !ws.isEmpty && !(ws.any fun w => hostWritable s n w.tally) && !((itemsOf s n).any (itemAble s))
    && !(unfetched s n && !fetchBlocked s n) && !(ws.any fun w => (signallable s n).contains w.tally)

/-- An entry of the wait graph (Table 11.5). -/
def waitEntry (s : State) (n : Nat) (w : CanaryWait) : List Byte :=
  leBytes 8 w.seq ++ leBytes 2 w.tally ++ leBytes 1 w.op ++ leBytes 1 w.place ++ leBytes 4 w.threshold ++ leBytes 4 (relTally s n w.tally)

/-- Two entries to a record (R229). -/
def pairEntries : List (List Byte) → List (List Byte)
  | [] => []
  | [a] => [a]
  | a :: b :: r => (a ++ b) :: pairEntries r

/-- The record bodies of a wait graph (R229, Table 11.4). -/
def waitGraph (s : State) (n : Nat) : List (List Byte) :=
  let ws := claimWaits s n
  let es := (ws.take 64).map (waitEntry s n)
  let seqs := (ws.map (·.seq)).filter (· != 0)
  let flags := b2n (unfetched s n && fetchBlocked s n) + 2 * b2n (unfetched s n) + 4 * b2n (decide (64 < ws.length))
  let hw := ((List.range 16).filter fun w => (tget (tget s.sync.claims n).waits w).arm).length
  let head := leBytes 2 es.length ++ leBytes 1 flags ++ leBytes 1 s.sync.canaryBeats
    ++ leBytes 4 (tget s.sync.claims n).stalemateId ++ leBytes 8 (seqs.headD 0)
    ++ leBytes 2 ((itemsOf s n).filter (itemWaiting s)).length ++ leBytes 2 hw
  (head ++ es.headD []) :: pairEntries es.tail

/-- A stalemate is declared: only records are written (R228). -/
def declare (s : State) (n : Nat) : State :=
  let s1 := s.modSync fun y => { y with claims := tmod y.claims n fun t => { t with declared := true, stalemateId := (t.stalemateId + 1) % 2 ^ 32 } }
  postEvent s1 n 0x0004 0x0304 (waitGraph s1 n)

/-- The canary judges one claim at an edge (R226, R227). DEDUCED, log entry 32. -/
def canaryClaim (s : State) (n : Nat) : State :=
  let y := tget s.sync.claims n
  let set (c : Nat) (d : Bool) : State := s.modSync fun x => { x with claims := tmod x.claims n fun t => { t with count := c, declared := d } }
  if !s.beat.aligned ∨ s.redealing ∨ shoeHalted s n then s.modSync fun x => { x with claims := tmod x.claims n fun t => { t with count := 0 } }
  else if stalemate s n then
    let c := min 255 (y.count + 1)
    if s.sync.canaryBeats ≤ c ∧ !y.declared then declare (set c y.declared) n else set c y.declared
  else set 0 false

/-- The canary looks at every claim at a beat edge (R226). -/
def canaryEdge (s : State) : State := (List.range 8).foldl canaryClaim s

/-- The beat message of the edge goes out on every trained port, ahead of what waits there (R49, R248). -/
def sendBeat (s : State) : State :=
  if !s.beat.aligned then s
  else
    let hop := if s.beat.source = 0 then 0 else s.beat.hop + 1
    let msg := [0x02#8] ++ leBytes 1 hop ++ leBytes 1 (b2n s.beat.holdover) ++ [0#8] ++ leBytes 6 s.beat.count
    (List.range 12).foldl (fun s p =>
      if (s.port p).st = .up ∨ (s.port p).st = .quarantined then s.modPort p fun x => { x with mgmt := msg :: x.mgmt } else s) s

/-- CRC-8 over bits in the order sent (Table 3.2). -/
def crc8 (bs : List Nat) : Nat :=
  bs.foldl (fun c b =>
    let top := (c / 128) ^^^ b
    (2 * c % 256) ^^^ (if top = 1 then 0x07 else 0)) 0

/-- The bits of a frame that starts at a count, in the order sent: the count, its CRC, and zeros (Table 3.2). -/
def frameBits (start : Nat) : List Nat :=
  let data := (List.range 42).map fun k => bits start (6 + k) 1
  data ++ (List.range 8).map (fun k => bits (crc8 data) (7 - k) 1) ++ List.replicate 13 0

/-- The high time of a beat's pulse, in thousandths of the period: a sync, one or zero symbol (R47, Table 3.2). -/
def pulseHigh (count : Nat) : Nat :=
  if count % 64 = 0 then 750 else if (frameBits (count - count % 64)).getD (count % 64 - 1) 0 = 1 then 500 else 250

/-- What every edge does once the count stands: reservations, the canary, and the beat sent on (R48, R49, R76, R226).
DEDUCED, log entry 29. -/
def edgeEnd (s : State) : State :=
  let s1 := sendBeat (canaryEdge (applyReservations s))
  if s1.image.forwardOut ∧ s1.beat.aligned then s1.emit (.beat s1.beat.count (pulseHigh s1.beat.count)) else s1

/-- The phase counter starts again at an edge (R55). -/
def edgePhase (now : Nat) (b : Beat) : Beat := { b with phase := 0, edgeAt := now }

/-- Entries of skipped beats that waited for this edge fire from the calendar now in force (R54). -/
def catchHeld (s : State) : State :=
  match s.beat.skippedRange with
  | some r => catchUp (s.modBeat fun b => { b with skippedRange := none }) r.1 r.2
  | none => s

/-- A beat edge: the old beat's entries, the new count, the commit, and the rest (R54, R55, R60). -/
def beatEdge (s : State) : State :=
  let s1 := flushBeat s
  let s2 := s1.modBeat fun b0 =>
    let b := edgePhase s.now b0
    if 0 < b.held then { b with held := b.held - 1, inFiller := false, fired := List.range 64 }
    else { b with count := (b.count + 1) % 2 ^ 48, inFiller := false, fired := [] }
  edgeEnd (catchHeld (calendarApply s2))

/-- Skipped beats lo to hi wait for the next edge, beside any that wait already (R54). -/
def holdRange (s : State) (lo hi : Nat) : State :=
  s.modBeat fun b => { b with skippedRange := some ((b.skippedRange.map (·.1)).getD lo, hi) }

/-- The own count takes a received value that is ahead of it (R54): skipped entries are caught up at once, or at the next
edge where a commit's beat was passed. -/
def jumpTo (s : State) (n : Nat) : State :=
  let old := s.beat.count
  let d := n - old
  let far := decide (65536 < d)
  let s1 := s.modBeat fun b =>
    { b with count := n % 2 ^ 48, held := 0, skipped := (b.skipped + d) % 2 ^ 48, jumpFwd := b.jumpFwd || !far, jumpFar := b.jumpFar || far }
  let s2 := beatEvent s1
  if far then s2.modBeat fun b => { b with fired := List.range 64 }
  else if s2.beat.commitPending ∧ s2.beat.atBeat ≤ n then
    (holdRange s2 (old + 1) n).modBeat fun b => { b with fired := List.range 64 }
  else (catchUp s2 (old + 1) n).modBeat fun b => { b with fired := List.range 64 }

/-- A valid count is compared with the own count (R54): the package acts where it and the one before it agree with each
other and both disagree with the own count, a hold in progress allowed for. DEDUCED, log entry 123. -/
def compareCount (s : State) (n : Nat) : State :=
  let s1 :=
    if !s.beat.aligned ∨ !s.beat.agreed ∨ !s.beat.differed ∨ n + s.beat.held = s.beat.count ∨ n = s.beat.count then s
    else if n < s.beat.count then beatEvent (s.modBeat fun b => { b with held := b.count - n, jumpHold := true })
    else jumpTo (flushBeat s) n
  s1.modBeat fun b => { b with differed := b.aligned && decide (n + b.held ≠ b.count) }

/-- The interval lies within lock_ppm of the nominal period (R52). -/
def intervalOk (s : State) (ns : Nat) : Bool :=
  let x := ns * s.image.nominalHz * 1000000
  let nom := 1000000000 * 1000000
  let tol := s.image.lockPpm * 1000000000
  decide (x ≤ nom + tol) && decide (nom ≤ x + tol)

/-- The measured mean period (R55). -/
def meanPeriod (l : List Nat) : Nat := if l.isEmpty then 0 else total l / l.length

/-- An interval joins the last 16, whose mean is the period (R55). -/
def addInterval (ns : Nat) (b : Beat) : Beat :=
  let l := (ns :: b.intervals).take 16
  { b with intervals := l, period := if b.holdover then b.period else meanPeriod l }

/-- An edge of a token beat or of a filler beat: its interval is measured by the local timer, and the phase starts again
(R50, R55). -/
def tokenEdge (now : Nat) (b : Beat) : Beat :=
  edgePhase now (if b.aligned then addInterval (now - b.edgeAt) b else b)

/-- A filler beat (R50, R51): the count stands. DEDUCED, log entry 27. -/
def fillerBeat (s : State) : State :=
  if receiverOn s ∧ s.beat.source = 2 then
    let s1 := flushBeat s
    edgeEnd (catchHeld (calendarApply (s1.beatSet fun b => { tokenEdge s.now b with inFiller := true, filler := true, fired := [] })))
  else s

/-- An edge interval is measured (R52, R55). -/
def measureEdge (s : State) (ns : Nat) : State :=
  let ok := intervalOk s ns
  s.modBeat fun b0 =>
    let b := addInterval ns (if b0.aligned then b0 else edgePhase s.now b0)
    { b with
      since := b.since + 1, goodRun := if ok then b.goodRun + 1 else 0, badRun := if ok then 0 else b.badRun + 1 }

/-- The beat becomes locked (R52): the first lock aligns the count, a later one ends holdover.
DEDUCED, log entry 26. -/
def lockCheck (s : State) : State :=
  let b := s.beat
  match b.lastValid with
  | some c =>
    if !b.locked ∧ 16 ≤ b.goodRun ∧ b.agreed then
      if b.aligned then
        beatEvent (s.beatSet fun b => { b with locked := true, holdover := false, relock := true, period := meanPeriod b.intervals })
      else
        s.beatSet fun b => { b with locked := true, aligned := true, fired := [], count := (c + (if b.source = 0 then 63 else 0) + b.since) % 2 ^ 48 }
    else s
  | none => s

/-- A locked beat is lost (R53). -/
def beatLoss (s : State) : State :=
  if s.beat.locked then
    let s1 := s.beatSet fun b => { b with locked := false, holdover := true, loss := true, goodRun := 0, badRun := 0, agreed := false, lastValid := none }
    alertLatch (beatEvent s1) 5
  else s

/-- Four intervals in a row outside the window lose a locked beat (R53). -/
def lossCheck (s : State) : State := if 4 ≤ s.beat.badRun then beatLoss s else s

/-- PIN_BEAT_EDGE (R47). -/
def pinEdge (s : State) (ns : Nat) : State :=
  if receiverOn s ∧ s.beat.source = 0 then
    let s1 := measureEdge s ns
    let s2 := if s1.beat.aligned ∧ !s1.beat.holdover then beatEdge s1 else s1
    lockCheck (lossCheck s2)
  else s

/-- The symbol of a pulse's high time in thousandths of the period: 0, 1 or 2 for sync (R47). -/
def pulseSymbol (h : Nat) : Option Nat :=
  if 650 ≤ h ∧ h ≤ 850 then some 2 else if 400 ≤ h ∧ h ≤ 600 then some 1 else if 150 ≤ h ∧ h ≤ 350 then some 0 else none

/-- The frame's own start count, if it is valid (R47, R48, Table 3.2). -/
def frameCount (pulses : List Nat) : Option Nat :=
  let ss := pulses.map pulseSymbol
  let bs := (ss.drop 1).map fun x => x.getD 2
  let data := bs.take 42
  let crc := ((bs.drop 42).take 8).foldl (fun a b => 2 * a + b) 0
  if ss.length = 64 ∧ ss.headD none = some 2 ∧ bs.all (· < 2) ∧ crc8 data = crc ∧ (bs.drop 50).all (· == 0) then
    some (64 * data.foldr (fun b a => b + 2 * a) 0)
  else none

/-- PIN_BEAT_FRAME (R48, R52, R54). -/
def pinFrame (s : State) (pulses : List Nat) : State :=
  if receiverOn s ∧ s.beat.source = 0 then
    match frameCount pulses with
    | none => s.modBeat fun b => { b with frameError := satInc 16 b.frameError }
    | some c =>
      let s1 := s.modBeat fun b => { b with lastValid := some c, since := 0, agreed := decide (b.lastValid.map (· + 64) = some c) }
      lockCheck (compareCount s1 ((c + 63) % 2 ^ 48))
  else s

/-- LINK_BEAT_MESSAGE (R49, R52, R54): a beat message on a port. A message whose hop is above 15 is not adopted, and is not
a message that BEAT_EVENTS.frame_error counts. DEDUCED, log entry 124. -/
def linkBeat (s : State) (p hop count ns : Nat) : State :=
  if receiverOn s ∧ s.beat.source = 1 ∧ p = s.image.linkPort ∧ hop ≤ 15 ∧ ((s.port p).st = .up ∨ (s.port p).st = .quarantined) then
    let s1 := measureEdge (s.modBeat fun b => { b with hop := hop }) ns
    let s2 := if s1.beat.aligned ∧ !s1.beat.holdover then beatEdge s1 else s1
    let s3 := s2.modBeat fun b => { b with lastValid := some count, since := 0, agreed := decide (b.lastValid.map (· + 1) = some count) }
    lockCheck (lossCheck (compareCount s3 count))
  else s

/-- The designated round and its committed step count (R50, R270). -/
def committedSteps (s : State) (round : Nat) : Option Nat :=
  (List.range 16).findSome? fun c => (s.armed c).bind fun a =>
    if a.round = round then
      a.commit.bind fun i => (a.tricks[i]?).bind fun k => (tget s.sync.tricks k).map fun t => t.gen - 1
    else none

/-- TOKEN_BEAT_COMMIT (R50, R54). Where the count jumps across the beat of a pending commit, the commit and the catch-up
wait for the next edge (Edges). DEDUCED, log entries 30 and 25. -/
def tokenCommit (s : State) : State :=
  if receiverOn s ∧ s.beat.source = 2 ∧ s.beat.designate then
    match committedSteps s s.beat.tokenRound with
    | none => s
    | some n =>
      if !s.beat.aligned then
        edgeEnd (calendarApply (s.beatSet fun b => { edgePhase s.now b with aligned := true, count := n, filler := false, inFiller := false, fired := [] }))
      else if n ≤ s.beat.count then s
      else
        let s1 := flushBeat s
        let old := s1.beat.count
        let d := n - old - 1
        let crossed := s1.beat.commitPending && decide (old < s1.beat.atBeat) && decide (s1.beat.atBeat < n)
        let s2 := s1.modBeat fun b =>
          { tokenEdge s.now b with
            count := n, filler := false, inFiller := false, fired := [], skipped := (b.skipped + d) % 2 ^ 48
            jumpFwd := b.jumpFwd || (decide (0 < d) && decide (d ≤ 65536)), jumpFar := b.jumpFar || decide (65536 < d) }
        let s3 := if d = 0 then s2 else beatEvent s2
        if crossed then
          edgeEnd (if d ≤ 65536 then holdRange s3 (old + 1) (n - 1) else s3)
        else
          let s4 := catchHeld (calendarApply s3)
          edgeEnd (if 0 < d ∧ d ≤ 65536 then catchUp s4 (old + 1) (n - 1) else s4)
  else s

/-- BEAT_TOKEN is written (R50, Table 3.12). A designation is no edge: the entries that have fired in the beat in progress
stay fired. DESIGN CHOICE, log entry 125. -/
def tokenWrite (s : State) (v : Nat) : State :=
  if s.beat.source ≠ 2 then s
  else
    let s1 := s.modBeat fun b => { b with tokenRound := bits v 0 16, designate := bit v 31 }
    if bit v 31 then
      match committedSteps s1 (bits v 0 16) with
      | some n => s1.beatSet fun b => { (if b.aligned then b else edgePhase s.now b) with aligned := true, count := n, redesignated := true }
      | none => s1
    else s1

/-- HOLDOVER_BEAT_EDGE (R53). -/
def holdoverEdge (s : State) : State := if receiverOn s ∧ s.beat.holdover then beatEdge s else s

/-- BEAT_CAL_COMMIT is written with or without arm (R60); a write without arm while a commit is pending moves it to the
new beat. DEDUCED, log entry 31. -/
def commitWrite (s : State) (v : Nat) : State :=
  let s1 := s.modBeat fun b => { b with atBeat := bits v 0 48 }
  if bit v 63 then
    match (List.range 64).find? fun i => !ceOk (tget s1.beat.shadow i) with
    | none => s1.modBeat fun b => { b with commitPending := true }
    | some i => s1.modBeat fun b => { b with commitPending := false, commitRefused := true, refusedEntry := i }
  else s1

/-- Bytes of the shadow calendar are written; a pending commit is cancelled (R60). -/
def shadowWrite (s : State) (off : Nat) (bs : List Byte) : State :=
  s.modBeat fun b =>
    { b with
      shadow := tmod b.shadow (off / 16) fun e => ((bytesAt e 0 16).take (off % 16) ++ bs ++ (bytesAt e 0 16).drop (off % 16 + bs.length)).take 16
      commitPending := false, commitCancelled := b.commitCancelled || b.commitPending }

/-- Checkpoint windows whose last beat has passed close (R80). -/
def checkpointEnd (s : State) : State :=
  s.modCl fun c => { c with claims := c.claims.map fun x => match x.ckptUntil with
    | some u => if u ≤ s.beat.count then { x with ckptUntil := none } else x
    | none => x }

end Sys2Proof.Machine
end

