-- ==== Sys2Proof/Machine/Hri.lean ====
section
/-! DEFINITION. The House Rules Image: its header, records and signature block (R25 to R33, Tables 2.2 to 2.5), and the
discovery of the flash (R22, R23). -/

namespace Sys2Proof.Machine

/-- FEAT_ID.stepping of this package. -/
def stepping : Nat := 0x11

/-- Where copy A (0) or B (1) begins (Table 2.1). -/
def copyBase (c : Nat) : Nat := 0x400000 * c

/-- Header fields that the boot uses (Table 2.2). -/
def hdSize (h : List Byte) : Nat := field h 8 4
def hdCount (h : List Byte) : Nat := field h 0xC 2
def hdSlot (h : List Byte) : Nat := field h 0xE 1
def hdGeneration (h : List Byte) : Nat := field h 0x10 4
def hdSecurity (h : List Byte) : Nat := field h 0x14 1
def hdFloor (h : List Byte) : Nat := field h 0x15 1

/-- Check 1 of R33: the header (R25). -/
def headerFits (h : List Byte) : Bool :=
  decide (field h 0 4 = 0x5A524849) && decide (field h 4 2 = 1) && decide (field h 6 2 = 0x40) && decide (hdSize h % 16 = 0)
    && decide (288 ≤ hdSize h ∧ hdSize h ≤ 4194304) && decide (1 ≤ hdCount h ∧ hdCount h ≤ 4096) && decide (hdSlot h ≤ 3)
    && decide (field h 0xF 1 = 0) && decide (hdSecurity h ≤ 64) && decide (hdFloor h ≤ hdSecurity h) && decide (field h 0x16 1 = 1)
    && decide (field h 0x17 1 = 1) && decide (field h 0x18 1 ≤ field h 0x19 1)
    && decide (field h 0x18 1 ≤ stepping ∧ stepping ≤ field h 0x19 1) && allZero (bytesAt h 0x1A 6) && allZero (bytesAt h 0x30 16)

/-- Checks 2 to 5 of R33 on a copy's bytes: the cause, or 0. DEDUCED, log entry 17. -/
def signatureCause (s : State) (b : List Byte) : Nat :=
  let n := hdSize b
  let sig := bytesAt b (n - 208) 208
  let key := bytesAt sig 8 96
  let k := tget s.boot.fuses.slots (hdSlot b)
  if !k.programmed || k.revoked then 0x0802
  else if !(sha384 key == bytesAt k.hash 0 48) then 0x0803
  else if !(decide (field sig 0 4 = 0x5A525347) && decide (field sig 4 2 = 1) && decide (field sig 6 2 = 0) && allZero (bytesAt sig 0xC8 8)
      && ecdsaVerify key (b.take (n - 208)) (bytesAt sig 0x68 96)) then 0x0804
  else if hdSecurity b < s.boot.fuses.rollback then 0x0805
  else 0

/-- The records of an area: type and value, the last one END, or none where the area breaks R26; at most `fuel`. -/
def readRecords : Nat → List Byte → Option (List (Nat × List Byte))
  | 0, _ => none
  | fuel + 1, b =>
    let n := field b 4 4
    let size := (8 + n + 15) / 16 * 16
    if b.length < size || field b 2 1 != 1 || field b 3 1 != 0 || !allZero (bytesAt b (8 + n) (size - 8 - n)) then none
    else if field b 0 2 = 0xFFFF then (if b.length = size then some [(0xFFFF, bytesAt b 8 n)] else none)
    else (readRecords fuel (b.drop size)).map fun r => (field b 0 2, bytesAt b 8 n) :: r

/-- No value stands twice in a list. -/
def distinct (l : List Nat) : Bool := l.eraseDups.length == l.length

/-- Columns of a macro (R330). -/
def macroColumns (d mac : Nat) : Nat := if d < 4 ∧ mac < 1152 then 1664 else 1152

/-- Fields of a repair override (Table 16.5). -/
def rpKind (e : List Byte) : Nat := field e 0 1
def rpDie (e : List Byte) : Nat := field e 1 1
def rpMacro (e : List Byte) : Nat := field e 2 2
def rpIndex (e : List Byte) : Nat := field e 4 2
def rpSpare (e : List Byte) : Nat := field e 6 1

/-- An override's fields are in range. -/
def repairFits (e : List Byte) : Bool :=
  let d := rpDie e
  decide (d ≤ 6) && decide (rpMacro e < dieMacros d) && allZero (bytesAt e 7 9)
    && (match rpKind e with
      | 1 => decide (rpIndex e ≤ 511) && decide (rpSpare e ≤ 3)
      | 2 => decide (rpIndex e < macroColumns d (rpMacro e)) && decide (rpSpare e ≤ 1)
      | 3 => decide (rpIndex e ≤ 511) && decide (rpSpare e < rowWords d (rpMacro e))
      | _ => false)

/-- The overrides do not conflict (R344). -/
def repairsOk (es : List (List Byte)) : Bool :=
  let place (e : List Byte) : Nat := rpKind e + 4 * (rpDie e + 8 * rpMacro e)
  let lines := es.filter fun e => rpKind e != 3
  let patches := es.filter fun e => rpKind e == 3
  es.all repairFits && distinct (lines.map fun e => place e + 2 ^ 24 * rpSpare e) && distinct (lines.map fun e => place e + 2 ^ 24 * rpIndex e)
    && distinct (patches.map fun e => place e + 2 ^ 24 * (rpIndex e + 512 * rpSpare e))
    && (List.range 7).all fun d => decide ((patches.filter fun e => rpDie e == d).length ≤ 32)

/-- The n-th 16-byte entry after an 8-byte head. -/
def entry16 (v : List Byte) (i : Nat) : List Byte := bytesAt v (8 + 16 * i) 16

/-- A record's value has its length and its ranges (Tables 2.3 and 2.4). DEDUCED, log entry 16. -/
def recordFits (t : Nat) (v : List Byte) : Bool :=
  match t with
  | 1 =>
    let d (i : Nat) : Nat := field v (1 + i) 1
    decide (v.length = 8) && decide (field v 7 1 = 0) && (List.range 3).all (fun i => decide (field v (4 + i) 1 < d i))
      && (match field v 0 1 with
        | 0 => (List.range 3).all fun i => decide (1 ≤ d i ∧ d i ≤ 16)
        | 1 => decide (1 ≤ d 0 ∧ d 0 ≤ 4) && decide (1 ≤ d 1 ∧ d 1 ≤ 4) && decide (d 2 = 1)
        | _ => false)
  | 2 => decide (v.length = 48) && (List.range 12).all fun p =>
      [0, 1, 2, 3, 4, 5, 7].contains (field v (4 * p) 1) && decide (1 ≤ field v (4 * p + 1) 1 ∧ field v (4 * p + 1) 1 ≤ 3)
        && [1, 2, 4, 8].contains (field v (4 * p + 2) 1) && decide (field v (4 * p + 3) 1 = 0)
  | 3 =>
    let n := field v 0 1
    let sum (off top : Nat) : Bool := decide (field v off 2 ≤ top) && decide (n * field v off 2 ≤ top)
    decide (v.length = 16) && decide (n ≤ 8) && decide (field v 1 1 ≤ 8) && decide (field v 2 1 ≤ 120) && decide (n * field v 2 1 + 64 ≤ 1024)
      && decide (field v 3 1 = 0) && sum 4 12288 && decide (64 ≤ field v 6 2) && sum 6 8192 && sum 8 32768 && sum 0xA 2048
      && [256, 512, 1024, 2048, 4096].contains (field v 0xC 2) && decide (field v 0xE 2 = 0)
  | 4 => decide (v.length = 16) && decide (field v 0 1 ≤ 2) && decide (field v 1 1 ≤ 1) && decide (field v 2 1 ≤ 11) && decide (field v 3 1 = 0)
      && decide (1000 ≤ field v 4 4 ∧ field v 4 4 ≤ 50000) && decide (100 ≤ field v 8 2 ∧ field v 8 2 ≤ 10000) && decide (2 ≤ field v 0xA 1)
      && allZero (bytesAt v 0xB 5)
  | 5 => decide (field v 0 1 ≤ 64) && decide (v.length = 8 + 16 * field v 0 1) && allZero (bytesAt v 1 7)
      && (List.range (field v 0 1)).all fun i => ceOk (entry16 v i)
  | 6 => tableValid v
  | 7 => decide (field v 0 2 ≤ 256) && decide (v.length = 8 + 16 * field v 0 2) && allZero (bytesAt v 2 6)
      && repairsOk ((List.range (field v 0 2)).map (entry16 v))
  | 8 => decide (v.length = 8) && decide (2 ≤ field v 0 1) && decide (field v 1 1 ≤ 4) && decide (field v 2 1 ≤ 1) && decide (field v 3 1 = 0)
      && decide (400 ≤ field v 4 2 ∧ field v 4 2 ≤ 1050) && decide (field v 6 2 = 0)
  | 9 => decide (v.length = 16) && decide (field v 0 1 ≤ 3) && allZero (bytesAt v 1 3) && !bit (field v 4 1) 0 && !bit (field v 0xA 1) 0
  | 10 => decide (v.length = 8) && decide (8 ≤ field v 0 1 ∧ field v 0 1 ≤ 0x77) && decide (field v 1 1 ≤ 2)
      && (decide (field v 2 1 = 0) || decide (8 ≤ field v 2 1 ∧ field v 2 1 ≤ 254)) && allZero (bytesAt v 3 5)
  | 11 => decide (v.length = 8) && [4, 5, 6].contains (field v 0 1) && [4, 8, 16].contains (field v 1 1) && allZero (bytesAt v 2 6)
  | 0xFFFF => v.isEmpty
  | _ => decide (0x8000 ≤ t)

/-- The configuration after a record (R29, Table 2.4). -/
def applyRecord (g : Image) (t : Nat) (v : List Byte) : Image :=
  match t with
  | 1 => { g with slab := decide (field v 0 1 = 1), dims := seatAt v 1, coord := seatAt v 4 }
  | 2 => { g with ports := Vector.ofFn fun p : Fin 12 =>
      { dir := field v (4 * p) 1, reach := field v (4 * p + 1) 1, maxLanes := field v (4 * p + 2) 1 } }
  | 3 => { g with
      claimCount := field v 0 1, defaultStakes := field v 1 1, defaultTallies := field v 2 1, defaultT1 := field v 4 2, defaultLedger := field v 6 2
      defaultT2 := field v 8 2, defaultQps := field v 0xA 2, defaultDescs := field v 0xC 2 }
  | 4 => { g with
      beatSource := field v 0 1, forwardOut := decide (field v 1 1 = 1), linkPort := field v 2 1, nominalHz := field v 4 4, lockPpm := field v 8 2
      lossBeats := field v 0xA 1 }
  | 5 => { g with calendar := some ((List.range (field v 0 1)).map (entry16 v)) }
  | 6 => { g with sfnTables := g.sfnTables ++ [(field v 0 1, SfnTable.parse v)] }
  | 7 => { g with repairs := (List.range (field v 0 2)).map (entry16 v) }
  | 8 => { g with canaryBeats := field v 0 1, rtLanes := field v 1 1, boost := decide (field v 2 1 = 1), powerLimitW := field v 4 2 }
  | 9 => { g with ethEnable := field v 0 1, mac0 := leNat (bytesAt v 4 6), mac1 := leNat (bytesAt v 0xA 6) }
  | 10 => { g with smbusAddr := field v 0 1, smbusRate := field v 1 1, staticEid := field v 2 1 }
  | 11 => { g with maxGen := field v 0 1, maxWidth := field v 1 1 }
  | _ => g

/-- TOPOLOGY and PORT_MAP agree, and a link beat's port is not dark (R30, Table 2.4). -/
def imageAgrees (g : Image) : Bool :=
  let has (d : Nat) : Bool := g.ports.toList.any (·.dir == d)
  let axis (a : Nat) : Bool :=
    let n := g.dims.axis a
    let c := g.coord.axis a
    if !g.slab then (if 2 ≤ n then has (2 * a) && has (2 * a + 1) else !has (2 * a) && !has (2 * a + 1))
    else has (2 * a) == (decide (a < 2) && decide (c + 1 < n)) && has (2 * a + 1) == (decide (a < 2) && decide (0 < c))
  (List.range 3).all axis && !(g.beatSource == 1 && (tget g.ports g.linkPort).dir == 7)

/-- Check 6 of R33: the records of a copy's bytes, and the image they make (R26 to R30). -/
def readImage (c : Nat) (b : List Byte) : Option Image :=
  match readRecords (hdCount b) ((b.take (hdSize b - 208)).drop 0x40) with
  | none => none
  | some rs =>
    let ts := rs.map (·.1)
    let g := rs.foldl (fun g r => applyRecord g r.1 r.2)
      { generation := hdGeneration b, securityVersion := hdSecurity b, rollbackFloor := hdFloor b, keySlot := hdSlot b, copyB := c == 1,
        bytes := b.take (hdSize b - 208) }
    if rs.length == hdCount b && ts.all (fun t => (1 ≤ t && t ≤ 11) || 0x8000 ≤ t) && distinct (ts.filter (· != 6))
      && distinct (g.sfnTables.map (·.1)) && rs.all (fun r => recordFits r.1 r.2) && imageAgrees g then some g
    else none

/-- The first advertised read mode in the order of R23: 0 is 1-4-4, 1 is 1-1-4, 2 is 1-2-2, 3 is 1-1-2 and 4 is 1-1-1, from
the first word of the Basic Flash Parameter Table. -/
def readModeOf (w : Nat) : Nat :=
  if bit w 21 then 0 else if bit w 22 then 1 else if bit w 20 then 2 else if bit w 16 then 3 else 4

/-- SFDP discovery (R23): the read mode, or the cause of a failure. The parameter table's place and its fields are those of
JESD216. PRESUMED, log entry 18. -/
def discover (f : Flash) : Except Nat Nat :=
  let b := f.sfdp
  let n := field b 6 1 + 1
  let heads := (List.range n).map fun i => bytesAt b (8 + 8 * i) 8
  match heads.find? fun h => decide (field h 0 1 = 0) && decide (field h 7 1 = 0xFF) with
  | none => .error 0x0807
  | some h =>
    if !f.present || field b 0 4 != 0x50444653 then .error 0x0807
    else
      let t := b.drop (field h 4 3)
      let w0 := field t 0 4
      let w1 := field t 4 4
      let size := if bit w1 31 then 2 ^ (min 40 (bits w1 0 31)) / 8 else (bits w1 0 31 + 1) / 8
      if size < 32 * 2 ^ 20 ∨ 256 * 2 ^ 20 < size ∨ bits w0 17 2 = 0 then .error 0x0808 else .ok (readModeOf w0)

end Sys2Proof.Machine
end

