-- ==== Sys2Proof/Machine/BootOps.lean ====
section
/-! DEFINITION. Start-up (R33 to R45, Table 2.7), die release and cold start (R364 to R366, R434, R435). -/

namespace Sys2Proof.Machine

/-- A copy's cause in HST_BOOT_CHECK. -/
def copyCause (b : Boot) (c : Nat) : Nat := if c = 0 then b.copyACause else b.copyBCause
def setCopyCause (s : State) (c cause : Nat) : State :=
  s.modBoot fun b => if c = 0 then { b with copyACause := cause } else { b with copyBCause := cause }

/-- The Lamphouse's copies of main-die figures as they stand (R407). -/
def mainCopies (s : State) : List Nat :=
  (List.range 4).map (fencedCount s) ++ [s.redeal.id] ++ (List.range 12).map fun p => (s.port p).st.code

/-- All state of the main dies is lost (R366): what the Lamphouse keeps is the image, fuses, flash and seat record, the
HST_ boot registers, measurements and security state, temperatures and rails, and the management endpoint. -/
def dropMain (s : State) : State :=
  let f : State := {}
  { f with
    pending := s.pending, freeCtr := s.freeCtr, now := s.now, out := s.out, boot := s.boot, mgmt := s.mgmt
    dbg := { f.dbg with st := s.dbg.st, identity := s.dbg.identity, nonce := s.dbg.nonce, measures := s.dbg.measures, jtag := s.dbg.jtag, dapStatus := s.dbg.dapStatus }
    power := { f.power with avgW := s.power.avgW, temps := s.power.temps, tripped := s.power.tripped, heldTrip := s.power.heldTrip, rails := s.power.rails, boostWithheld := s.power.boostWithheld } }

/-- Debug grants end at a cold start (R384): management hears of each, and CLAIM_DEBUG ends. -/
def grantsLost (s : State) : State :=
  let s1 := (List.range 8).foldl (fun s n =>
    if (tget s.dbg.grants n).live then mgmtOem s 0x0017 0 ([2#8] ++ leBytes 1 n ++ List.replicate 6 0#8) else s) s
  if s1.dbg.st = .claimDebug then setSec s1 .isSealed else s1

/-- Every Swezo port and Swezo-P lane goes to electrical idle (R365). -/
def silencePorts (s : State) : State :=
  (List.range 12).foldl (fun s p => if (s.port p).dir ≠ 7 ∧ (s.port p).st ≠ .dark then s.emit (.idle p) else s) s

/-- The main dies go into reset as a cold start (R364 to R366); the state seen by management becomes `dev`.
DEDUCED, log entry 19. -/
def mainReset (s : State) (dev : DevState) : State :=
  let s1 := silencePorts (grantsLost s)
  let s2 := s1.modMgmt fun m => { m with copies := if s.boot.released then mainCopies s1 else m.copies }
  let s3 := mgmtSensor (dropMain s2) 0x0103 (beatState s2.beat) 0
  let s4 := mgmtSensor s3 0x0101 s.power.level s3.power.level
  setDev (s4.modBoot fun b =>
    { b with released := false, heldSince := s.now, heldAlert := false, failCause := 0, step := if dev = .held then 9 else b.step, cands := [] }) dev 0

/-- The main dies go into reset because a pin, a supply, a clock or a trip asks for it; a package that holds no image stays
FAILED or BOOTING (R41). -/
def coldStart (s : State) : State :=
  if s.boot.released then mainReset s .held else s

/-- The MANAGEMENT values in force, a held image's or the defaults, restart the endpoint where they differ from those that
it runs with (R44, R401). -/
def restartEndpoint (s : State) : State :=
  let g := s.image
  if s.mgmt.addr = g.smbusAddr ∧ s.mgmt.rate = g.smbusRate ∧ s.mgmt.staticEid = g.staticEid then s
  else s.modMgmt fun m => { m with addr := g.smbusAddr, rate := g.smbusRate, staticEid := g.staticEid, eid := g.staticEid, assembly := [] }

/-- A boot that ends in FAILED (R44): without an image the endpoint runs with the defaults. -/
def bootFailed (s : State) : State :=
  let s1 := if s.boot.released then mainReset s .failed else s
  alertLatch (setDev (restartEndpoint (s1.modBoot fun b => { b with step := 0, cands := [], released := false })) .failed 0) 2

/-- A failed release (Table 2.7, steps 10 to 12). -/
def releaseFailed (s : State) : State := bootFailed (s.modBoot fun b => { b with releaseCause := 0x0510 })

/-- The seat record that the check of step 8 finds (R40), and measurements 1 to 4 (R376, Table 18.2). -/
def seatCheck (s : State) : State :=
  let r := bankInForce s
  let cause := match r with
    | none => 0x080A
    | some x => if x.own == bytesAt (identityDigest s) 0 48 then 0 else 0x0809
  s.modBoot fun b => { b with seat := r, seatCause := cause, newSeat := decide (cause ≠ 0) }
/-- DESIGN CHOICE, log entry 91. -/
def measureBoot (s : State) : State :=
  let fu := s.boot.fuses
  let m2 := Config.fuseLayout (fu.slots.toList.map fun k => bytesAt k.hash 0 48) (fu.slots.toList.map (·.revoked)) fu.rollback s.dbg.st.code
  measureSeat (setMeasure (setMeasure (setMeasure s 1 (bytesAt Config.romHash 0 48)) 2 (sha384 m2)) 3 (sha384 s.image.bytes))

/-- Step 9: the image is held and the package waits for R41. -/
def bootHeld (s : State) : State :=
  setDev (s.modBoot fun b => { b with step := 9, cands := [] }) .held 0

/-- Step 8, unless the boot rests there. -/
def bootSeat (s : State) (stall : Nat) : State :=
  if stall = 8 then s.modBoot fun b => { b with step := 8 } else bootHeld (measureBoot (seatCheck s))

/-- The image that a copy holds, or the cause of the first check that fails (R33). -/
def checkCopy (s : State) (c : Nat) : Except Nat Image :=
  let h := flashRead s.boot.flash (copyBase c) 64
  if !headerFits h then .error 0x0801
  else
    let b := flashRead s.boot.flash (copyBase c) (hdSize h)
    let k := signatureCause s b
    if k ≠ 0 then .error k
    else match readImage c b with
      | some g => .ok g
      | none => .error 0x0806

/-- A candidate fails a check; while no image is held, what is used later is a fallback (R36, Table 2.8). A copy that
fails the header check is no candidate and leaves fallback alone. DEDUCED, log entry 15. -/
def candFail (s : State) (c cause : Nat) : State :=
  (setCopyCause s c cause).modBoot fun b => { b with fallback := b.fallback || b.img.isNone }

/-- Once an image is held, the other copy is checked if it has the same generation (R36). -/
def verifyOther (s : State) (c : Nat) : State :=
  if hdGeneration (flashRead s.boot.flash (copyBase c) 64) ≠ s.image.generation then s
  else match checkCopy s c with
    | .error k => setCopyCause s c k
    | .ok _ => (setCopyCause s c 0).modBoot fun b => { b with otherValid := true }

/-- A candidate is checked while no image is held: it becomes the held image, or fails (R33, R36). -/
def verifyFirst (s : State) (c : Nat) : State :=
  match checkCopy s c with
  | .error k => candFail s c k
  | .ok g => mgmtSensor ((setCopyCause s c 0).modBoot fun b => { b with img := some g, imageStale := false }) 0x0104 (b2n s.boot.imageStale) 0

/-- Steps 4 to 7: the candidates are checked in order until one is valid; of two of one generation both are (R36, Table
2.7). The boot may rest in step 4, 5 or 6 of the first of them. -/
def bootVerify (stall : Nat) : List Nat → State → State
  | [], s => if s.boot.img.isSome then bootSeat (restartEndpoint s) stall else bootFailed (s.modBoot fun b => { b with fallback := false })
  | c :: rest, s =>
    if s.boot.img.isSome then bootVerify stall rest (verifyOther s c)
    else if 4 ≤ stall ∧ stall ≤ 6 then s.modBoot fun b => { b with step := stall, cands := c :: rest }
    else bootVerify stall rest (verifyFirst s c)

/-- The candidates in the order of R36: the copies whose headers passed, the higher generation first and A before B.
DEDUCED, log entry 15. -/
def candidates (s : State) : List Nat :=
  let gen (c : Nat) : Nat := hdGeneration (flashRead s.boot.flash (copyBase c) 64)
  let ok := [0, 1].filter fun c => copyCause s.boot c == 1
  if ok = [0, 1] ∧ gen 0 < gen 1 then [1, 0] else ok

/-- Step 3: headers are read; the boot may rest at the first of them, and with none left the candidates are known. -/
def bootHeaders (stall : Nat) : List Nat → State → State
  | [], s => bootVerify stall (candidates s) s
  | c :: rest, s =>
    if stall = 3 then s.modBoot fun b => { b with step := 3, cands := c :: rest }
    else bootHeaders stall rest (if headerFits (flashRead s.boot.flash (copyBase c) 64) then s else setCopyCause s c 0x0801)

/-- Steps 3 to 8 (R36, R37): nothing of an earlier choice stays but image_stale. DESIGN CHOICE, log entry 119. -/
def bootSelect (s : State) (stall : Nat) : State :=
  let s1 := s.modBoot fun b =>
    { b with img := none, otherValid := false, fallback := false, copyACause := 1, copyBCause := 1, seatCause := 1, newSeat := false, seat := none }
  bootHeaders stall [0, 1] (setDev s1 .booting 0)

/-- Step 2 and what follows (R23); a failure of the discovery is the cause of both copies.
DESIGN CHOICE, log entry 120. -/
def bootDiscover (s : State) (stall : Nat) : State :=
  let s1 := setDev (s.modBoot fun b => { b with img := none, copyACause := 1, copyBCause := 1, seatCause := 1, releaseCause := 0 }) .booting 0
  if stall = 2 then s1.modBoot fun b => { b with step := 2 }
  else
    match discover s.boot.flash with
    | .error k => bootFailed (setCopyCause (setCopyCause s1 0 k) 1 k)
    | .ok m => bootSelect (s1.modFlash fun f => { f with readMode := m }) stall

/-- R41 lets the dies be released. -/
def mayRelease (s : State) : Bool :=
  s.boot.lamphouse && s.boot.img.isSome && s.boot.qualified && s.boot.resetL && s.boot.mainEn && !s.boot.released && s.boot.step == 9 && s.power.level != 3

/-- The patch entries that a die's overrides name, in order (R344). -/
def patchesOf (es : List (List Byte)) (d : Nat) : Vector (Option EccPatch) 32 :=
  let ps := es.filter fun e => rpKind e == 3 && rpDie e == d
  Vector.ofFn fun i : Fin 32 => (ps[i.val]?).map fun e => { mac := rpMacro e, row := rpIndex e, word := rpSpare e }

/-- Step 10's repairs (R344): the fuse map's entries but those whose spare an override names, then the overrides. -/
def repairApply (s : State) : State :=
  let es := s.image.repairs
  let spare (e : List Byte) : Nat := rpKind e + 4 * (rpDie e + 8 * (rpMacro e + 2 ^ 16 * rpSpare e))
  let fuse := s.boot.fuses.repairMap.filter fun e => !(es.any fun o => rpKind o != 3 && spare o == spare e)
  s.modEcc fun x =>
    { x with repairs := fuse ++ es, dies := Vector.ofFn fun d : Fin 7 => { tget x.dies d with patches := patchesOf es d } }

/-- Table slots at a release (R169). -/
def loadSlots (s : State) : State :=
  s.modDl fun d =>
    { d with slots := Vector.ofFn fun i : Fin 32 =>
        match alookup s.image.sfnTables i with
        | some t => { source := .image, table := some t }
        | none => (match publishedTable i with
          | some t => { source := .published, table := some t }
          | none => {}) }

/-- Step 11: the held image's configuration (R42, R59, R169, R238). -/
def configApply (s : State) : State :=
  let g := s.image
  let s1 := s.modLink fun l => { l with idle := false, ports := Vector.ofFn fun p : Fin 12 =>
    let m := tget g.ports p
    { tget l.ports p with dir := m.dir, reach := m.reach, maxLanes := m.maxLanes, st := if m.dir = 7 then .dark else .down } }
  let s2 := s1.modBeat fun b => { b with source := g.beatSource, active := calendarOf (g.calendar.getD defaultCalendar) }
  loadSlots (s2.modSync fun y => { y with canaryBeats := g.canaryBeats })

/-- The face rails take their fused voltages (R429, step 11). -/
def faceRails (s : State) : State := (List.range 4).foldl (fun s d => avsWrite s d (Config.faceVoltage d)) s

/-- Units of a die that has tripped stay without power (R437). -/
def tripUnits (s : State) (d : Nat) (on : Bool) : State :=
  let set (cls : Nat) (is : List Nat) (s : State) : State := is.foldl (fun s i => s.modUnit cls i fun u => { u with powered := on }) s
  if d < 4 then set 1 (rangeFrom (4 * d) 4) (set 0 (rangeFrom (24 * d) 24) s)
  else if d < 6 then set 3 (rangeFrom (16 * (d - 4)) 16) s
  else s

/-- The Lamphouse's copies take their reset values at a release, and changes are reported (R407, R409). -/
def resetCopies (s : State) : State :=
  let c (i : Nat) : Nat := s.mgmt.copies.getD i 0
  let s1 := (List.range 4).foldl (fun s k => mgmtSensor s (0x0016 + k) (c k) 0) s
  let s2 := (List.range 12).foldl (fun s p => mgmtSensor s (0x0110 + p) (s.mgmt.copies.getD (5 + p) 1) (s.port p).st.code) s1
  s2.modMgmt fun m => { m with copies := [] }

/-- Units of a die that is still tripped at a release are fenced, and a trip of the hold is reported (R368, R412). -/
def tripReport (s : State) : State :=
  let units (d : Nat) : List (Nat × Nat) :=
    if d < 4 then (rangeFrom (24 * d) 24).map (fun i => (0, i)) ++ (rangeFrom (4 * d) 4).map fun i => (1, i)
    else (rangeFrom (16 * (d - 4)) 16).map fun i => (3, i)
  let s1 := (List.range 6).foldl (fun s d => if tget s.power.tripped d then (units d).foldl (fun s u => fence s u.1 u.2 3) s else s) s
  if s1.power.heldTrip then alertLatch (s1.modPower fun p => { p with heldTrip := false }) 6 else s1

/-- Step 13: PCIe has been training since step 10, and the ports train by commands of their own. -/
def bootTrain (s : State) (env : BootEnv) : State :=
  if env.stall = 12 then s.modBoot fun b => { b with step := 12 }
  else if !env.failed.isEmpty then
    releaseFailed (s.modLink fun l => { l with szlp := env.failed.foldl (fun v i => tmod v i fun x => { x with failed := true }) l.szlp })
  else s.modBoot fun b => { b with step := 13 }

/-- Steps 11 and 12. -/
def bootConfig (s : State) (env : BootEnv) : State :=
  if env.stall = 11 then s.modBoot fun b => { b with step := 11 }
  else bootTrain (tripReport <| resetCopies (faceRails (configApply (s.modBoot fun b => { b with step := 11 })))) env

/-- The last hold, for HST_RESET_LOG (Table 17.14). -/
def logHold (s : State) (heldNs : Nat) : State :=
  s.modBoot fun b =>
    { b with
      lastHeldMs := heldNs / 1000000 % 2 ^ 32
      shortPulses := if 1000 ≤ heldNs ∧ heldNs < 10000000 then satInc 16 b.shortPulses else b.shortPulses }

/-- The face dies start at their nominal clock, their cores with them (R14). -/
def startClocks (s : State) : State :=
  (s.modPower fun p => { p with clocks := Vector.replicate 4 1750 }).modDl fun d =>
    { d with cores := d.cores.map fun c => { c with clockMhz := 1750 } }

/-- The key of the COMMON pages is generated at die release (R208). -/
def drawCommonKey (s : State) : State := (s.modTiers fun t => { t with keys := tset t.keys 8 (some s.freeCtr) }).draw

/-- Step 10 (R41, R344, R376, R377). -/
def releaseDies (s : State) (env : BootEnv) : State :=
  let s1 := (dropMain s).modBoot fun b =>
    { b with released := true, step := 10, releaseCause := 0, releasedAt := s.now, releaseToReadyUs := 0, failCause := 0 }
  let s2 := (List.range 8).foldl (fun s d => if tget s.power.tripped d then tripUnits s d false else s) s1
  let s4 := drawNonce (setMeasure (drawCommonKey (startClocks s2)) 5 (List.replicate 48 0#8))
  let s5 := setDev s4 .booting 0
  if env.stall = 10 then s5 else bootConfig (repairApply s5) env

/-- Die release where R41 allows it; an image that is stale is verified again first (R37). -/
def tryRelease (s : State) (env : BootEnv) : State :=
  if !mayRelease s then s
  else if s.boot.imageStale then
    let s1 := bootSelect s env.stall
    if mayRelease s1 then releaseDies s1 env else s1
  else releaseDies s env

/-- Qualified PWROK's conditions hold (R434); dies 6 and 7 are H and L. -/
def powerGood (s : State) : Bool :=
  s.boot.pwrok && s.boot.railsOk && s.boot.refclk && s.boot.crystal && !tget s.power.tripped 6 && !tget s.power.tripped 7

/-- Qualified PWROK falls when a condition fails: a cold start (R364, R434). -/
def qualify (s : State) : State :=
  if s.boot.qualified ∧ !powerGood s then coldStart (s.modBoot fun b => { b with qualified := false }) else s

/-- Step 1: fuses are sensed and the endpoint starts (R42, R374, R377, R401). -/
def bootSense (s : State) : State :=
  let f := s.boot.fuses
  drawNonce ((s.modDbg fun d => { d with identity := !f.killed, st := if f.vendorOpen then .vendorOpen else .isSealed }).modMgmt fun m => { m with running := true })

/-- STBY_PWROK rises (R42, R430, R431): the first time, it finds the board's flash and this package's fuses. -/
def stbyRise (s : State) (flash : Flash) (fuses : Fuses) (env : BootEnv) : State :=
  if s.boot.stbyPwrok then s
  else
    let s0 := if s.boot.found then s else s.modBoot fun b => { b with flash := flashKept flash, fuses := fuses, found := true }
    let s1 := (s0.modBoot fun b => { b with stbyPwrok := true, lamphouse := true, mainEn := true, step := 1, heldSince := s.now, qualified := powerGood s, wasQualified := powerGood s }).emit (.pin "MAIN_EN" true)
    if env.stall = 1 then s1
    else
      let s2 := bootSense s1
      if s2.boot.fuses.senseError then bootFailed (setCopyCause (setCopyCause s2 0 0x0801) 1 0x0801)
      else tryRelease (bootDiscover s2 env.stall) env

/-- FLASH_READ_TIMEOUT (R33): the copy being read fails; a seat record bank that does not answer is no valid bank. -/
def flashTimeout (s : State) (env : BootEnv) : State :=
  let go (s : State) : State := tryRelease s env
  match s.boot.step, s.boot.cands with
  | 3, c :: rest => go (bootHeaders env.stall rest (setCopyCause s c 0x0801))
  | 4, c :: rest => go (bootVerify env.stall rest (candFail s c 0x0801))
  | 8, _ => go (bootHeld (measureBoot (s.modBoot fun b => { b with seat := none, seatCause := 0x080A, newSeat := true })))
  | _, _ => s

/-- BOOT_STEP_TIMEOUT: the failure exit of the step at which the boot rests (R42, Table 2.7).
DEDUCED, log entry 14. -/
def stepTimeout (s : State) (env : BootEnv) : State :=
  let go (s : State) : State := tryRelease s env
  match s.boot.step with
  | 1 => bootFailed (setCopyCause (setCopyCause (s.modMgmt fun m => { m with running := true }) 0 0x0801) 1 0x0801)
  | 2 => bootFailed (setCopyCause (setCopyCause s 0 0x0807) 1 0x0807)
  | 3 => bootFailed s
  | 4 => go (bootVerify env.stall (s.boot.cands.drop 1) (candFail s (s.boot.cands.headD 0) 0x0801))
  | 5 => go (bootVerify env.stall (s.boot.cands.drop 1) (candFail s (s.boot.cands.headD 0) 0x0804))
  | 6 => go (bootVerify env.stall (s.boot.cands.drop 1) (candFail s (s.boot.cands.headD 0) 0x0806))
  | 8 => go (bootHeld (measureBoot (s.modBoot fun b => { b with seat := none, seatCause := 1, newSeat := true })))
  | 10 => releaseFailed s
  | 11 => releaseFailed s
  | 12 => releaseFailed s
  | _ => s

/-- A boot that failed starts again from step 2 (R44, R405). -/
def bootRetry (s : State) (env : BootEnv) : State := tryRelease (bootDiscover s env.stall) env

/-- The package is FAILED with its main dies in reset (R44, R414). -/
def bootHasFailed (s : State) : Bool := s.boot.dev = .failed && !s.boot.released

/-- PWR_STATE.state changes, with its sensor (Table 19.3). -/
def setLevel (s : State) (l : Nat) : State := mgmtSensor (s.modPower fun p => { p with level := l }) 0x0101 s.power.level l

/-- RESET_L rises (R41, R44, R394). -/
def resetRise (s : State) (env : BootEnv) : State :=
  if s.boot.resetL ∨ !s.boot.lamphouse then s.modBoot fun b => { b with resetL := true }
  else
    let s1 := logHold (s.modBoot fun b => { b with resetL := true, mainEn := true }) env.heldNs
    let s2 := if s.boot.mainEn then s1 else s1.emit (.pin "MAIN_EN" true)
    let s3 := setLevel s2 0
    if bootHasFailed s3 then bootRetry s3 env else tryRelease s3 env

/-- RESET_L falls for 1 µs or more (R364, R365). -/
def resetFall (s : State) : State := coldStart (s.modBoot fun b => { b with resetL := false })

/-- The PWROK pin rises (R434): the first time, with nothing else wrong, qualified PWROK rises with it.
DEDUCED, log entry 21. -/
def pwrokRise (s : State) (env : BootEnv) : State :=
  let s1 := s.modBoot fun b => { b with pwrok := true }
  if powerGood s1 ∧ !s1.boot.wasQualified ∧ s1.boot.lamphouse then
    tryRelease (s1.modBoot fun b => { b with qualified := true, wasQualified := true }) env
  else s1

/-- The PWROK pin falls (R364). -/
def pwrokFall (s : State) : State := qualify (s.modBoot fun b => { b with pwrok := false })

/-- Every condition has been clear for 1 ms (R434), the supplies and clocks among them: a low of qualified PWROK while
RESET_L is high counts as a low of RESET_L (R364). -/
def pwrokRestore (s0 : State) (env : BootEnv) : State :=
  let s := s0.modBoot fun b => { b with railsOk := true, refclk := true, crystal := true }
  if powerGood s ∧ !s.boot.qualified ∧ s.boot.lamphouse then
    let s1 := s.modBoot fun b => { b with qualified := true, wasQualified := true }
    tryRelease (if s.boot.resetL ∧ s.boot.wasQualified then logHold s1 env.heldNs else s1) env
  else s

/-- Everything but fuses and flash is lost; the pins of the board stay as they are (R364, R435). -/
def dropAll (s : State) : State :=
  let f : State := {}
  { f with
    pending := s.pending, freeCtr := s.freeCtr, now := s.now, out := s.out
    boot := { f.boot with
      flash := s.boot.flash, fuses := s.boot.fuses, found := s.boot.found, pwrok := s.boot.pwrok, resetL := s.boot.resetL, refclk := s.boot.refclk
      crystal := s.boot.crystal, railsOk := s.boot.railsOk }
    power := { f.power with temps := s.power.temps } }

/-- STBY_PWROK falls (R364, R435): links go idle, and everything is lost. -/
def stbyFall (s : State) : State := (dropAll (silencePorts s)).emit (.pin "MAIN_EN" false)

/-- RESET_HELD_ALERT (R365): not in P3 (R394). -/
def heldAlarm (s : State) : State :=
  if s.boot.lamphouse ∧ !s.boot.released ∧ s.power.level ≠ 3 ∧ (!s.boot.resetL ∨ !s.boot.qualified) then
    alertLatch (s.modBoot fun b => { b with heldAlert := true }) 0
  else s

/-- BOOT_READY: step 14 (R42, R35, R43, R45). -/
def bootReady (s : State) (us : Nat) : State :=
  if s.boot.step = 13 ∧ s.boot.released then
    let s1 := s.modBoot fun b => { b with step := 14, releaseToReadyUs := us % 2 ^ 32 }
    if s.boot.newSeat then setDev s1 .newSeat 0 else raiseRollback (setDev s1 .ready 0)
  else s

end Sys2Proof.Machine
end

