-- ==== Sys2Proof/Machine/PowerOps.lean ====
section
/-! DEFINITION. Power states, the power limit, temperatures and the adaptive rails (R391 to R395, R429, R434, R436, R437),
and the vendor unlock's effect (R385). -/

namespace Sys2Proof.Machine

/-- The condition that refuses a request for P2 or P3, the first in R392's order; 0 for none. -/
def powerRefusal (s : State) : Nat :=
  if s.dl.items.any fun i => i.st != .resolved then 1
  else if s.rounds.ctrls.toList.any fun c => c.armed.isSome then 2
  else if s.net.qps.any fun q => q.st = .rtr || q.st = .rts then 3
  else if s.redealing then 4
  else if s.dbg.wins.toList.any (·.halted) then 5
  else if s.power.level ≠ 0 ∨ s.boot.dev = .failed then 6
  else 0

/-- A refused request (R392). -/
def powerRefuse (s : State) (code : Nat) : State := s.modPower fun p => { p with refused := true, reason := code }

/-- Entry into P2 (R392, steps 3 to 6, R429, R393). -/
def enterP2 (s : State) : State :=
  let r := idlePorts s
  let s1 := (r.2.foldl dropXfer r.1).modNet fun n => { n with ports := n.ports.map fun p => { p with up := false, paused := false, xoff := false, held := [] } }
  let s2 :=
    if s1.power.boostWithheld then s1
    else (List.range 4).foldl (fun s d => avsWrite s d 650) (avsWrite (avsWrite s1 4 600) 5 600)
  setLevel (if s2.beat.source = 1 then beatLoss s2 else s2) 2

/-- Exit from P2 (R393, R429): ports train by commands of their own. -/
def leaveP2 (s : State) : State :=
  if s.power.level = 2 then
    let s1 := setLevel (s.modLink fun l => { l with idle := false }) 0
    if s1.power.boostWithheld then s1 else faceRails (avsWrite (avsWrite s1 4 800) 5 750)
  else s

/-- Entry into P3 (R394, R430): the main dies are held in reset. -/
def enterP3 (s : State) : State :=
  setLevel (((mainReset s .held).modBoot fun b => { b with mainEn := false }).emit (.pin "MAIN_EN" false)) 3

/-- A request for P2 or P3 that has come to its turn (R392, R394). DEDUCED, log entry 99. -/
def powerRequest (s : State) (p3 : Bool) : State :=
  let k := powerRefusal s
  if k ≠ 0 then powerRefuse s k else if p3 then enterP3 s else enterP2 s

/-- PWR_CTRL's fields are written (Table 18.11). -/
def powerWrite (s : State) (request : Nat) (wake : Bool) : State :=
  s.modPower fun p => { p with request := request, wakeOnDoorbell := wake }

/-- PWR_CTRL is written with go: its fields are stored, and the request is acted on; a request of 1 is ignored (R392 to R394). -/
def powerGo (s : State) (request : Nat) (wake : Bool) : State :=
  let s1 := powerWrite s request wake
  match request with
  | 0 => leaveP2 s1
  | 2 => powerRequest s1 false
  | 3 => powerRequest s1 true
  | _ => s1

/-- The management wake effecter (R393, R394). -/
def powerWake (s : State) (env : BootEnv) : State :=
  if s.power.level = 3 then
    tryRelease ((setLevel s 0).modBoot (fun b => { b with mainEn := true }) |>.emit (.pin "MAIN_EN" true)) env
  else leaveP2 s

/-- The package power limit (R395). -/
def powerLimit (s : State) : Nat := min s.image.powerLimitW s.power.limitW

/-- Every face die's clock moves by one 25 MHz step, at most 1,750 MHz; cores that are not gated follow, and a core whose
claim has boost credit goes above it where the clocks rise (R395). -/
def stepClocks (s : State) (up : Bool) : State :=
  let v := s.power.clocks.map fun c => if up then min 1750 (c + 25) else max 25 (c - 25)
  let s1 := s.modPower fun p => { p with clocks := v }
  let clock (i : Nat) (c : Core) : Nat :=
    if c.gated then 0
    else match (if up then c.current.bind (findMacro s1) else none) with
      | some m => grantClock s1 i m.claim
      | none => tget v (i / 24)
  (List.range 4).foldl followRail (s1.modDl fun d =>
    { d with cores := Vector.ofFn fun i : Fin 96 => let c := tget d.cores i; { c with clockMhz := clock i c } })

/-- POWER_LIMIT_CHECK (R395, R412): the 1 ms average and the 10 µs sample. DEDUCED, log entry 100. -/
def limitCheck (s : State) (avg sample : Nat) : State :=
  if !s.boot.released then s.modPower fun p => { p with avgW := avg % 65536 }
  else
    let s1 := s.modPower fun p => { p with avgW := avg % 65536, peakW := max p.peakW (sample % 65536) }
    let s2 :=
      if powerLimit s < avg then stepClocks (s1.modPower fun p => { p with powerThrottled := true }) false
      else if 20 * avg < 19 * powerLimit s then
        let s2 := s1.modPower fun p => { p with powerThrottled := false }
        if s2.power.thermalThrottled then s2 else stepClocks s2 true
      else s1
    let n := if s2.power.powerThrottled then min 100000 (s2.power.throttledChecks + 1) else 0
    let s3 := s2.modPower fun p => { p with throttledChecks := n }
    if 100000 ≤ n then alertLatch s3 11 else s3

/-- Table 21.8 by die: throttle above, trip above, trip clears below. -/
def dieLimits (d : Nat) : Option Int × Int × Int :=
  if d < 4 then (some 95, 105, 95) else if d < 6 then (some 90, 100, 90) else if d = 6 then (some 100, 110, 100) else (none, 115, 105)

/-- A die trips, or its trip clears (R437); a main die that trips while held is reported later (chapter 19).
DEDUCED, log entry 116. -/
def dieTrip (s : State) (d : Nat) : State :=
  let t := tget s.power.temps d
  let lim := dieLimits d
  let was := tget s.power.tripped d
  let set (b : Bool) (s : State) : State := s.modPower fun p => { p with tripped := tset p.tripped d b }
  if !was ∧ lim.2.1 < t then
    let s1 := set true s
    if !s1.boot.released ∧ d ≠ 7 then s1.modPower fun p => { p with heldTrip := true }
    else
      let s2 := alertLatch s1 6
      if d < 4 then
        (rangeFrom (4 * d) 4).foldl (fun s i => lamphouseDisable s 1 i true) ((rangeFrom (24 * d) 24).foldl (fun s i => lamphouseDisable s 0 i true) s2)
      else if d < 6 then (rangeFrom (16 * (d - 4)) 16).foldl (fun s i => lamphouseDisable s 3 i true) s2
      else s2
  else if was ∧ t < lim.2.2 then (if s.boot.released then tripUnits (set false s) d true else set false s)
  else s

/-- THERMAL_SAMPLE (R436, R437): the hottest monitor of F0 to F3, V0, V1, H and L. -/
def thermalSample (s : State) (temps : List Int) : State :=
  let s1 := s.modPower fun p => { p with temps := Vector.ofFn fun i : Fin 8 => temps.getD i 0 }
  let s2 := qualify ((List.range 8).foldl dieTrip s1)
  let hot (off : Int) : Bool := (List.range 8).any fun d => match (dieLimits d).1 with
    | some l => decide (l < tget s2.power.temps d + off)
    | none => false
  if !s2.boot.released then s2
  else if hot 0 then stepClocks (s2.modPower fun p => { p with thermalThrottled := true }) false
  else if !hot 3 ∧ s2.power.thermalThrottled then
    let s3 := s2.modPower fun p => { p with thermalThrottled := false }
    if s3.power.powerThrottled then s3 else stepClocks s3 true
  else s2

/-- AVSBUS_COMMAND_TIMEOUT (R429): three retries, then the rail stays at the value read back and boost is withheld. -/
def avsTimeout (s : State) (rail readBack : Nat) : State :=
  let n := (alookup s.power.avsTries rail).getD 0
  match alookup s.power.rails rail with
  | none => s
  | some mv =>
    if n < 3 then (s.modPower fun p => { p with avsTries := ainsert p.avsTries rail (n + 1) }).emit (.avs rail mv)
    else s.modPower fun p => { p with rails := ainsert p.rails rail readBack, avsTries := aerase p.avsTries rail, boostWithheld := true }

/-- A sensed rail below 90 % of its value, REFCLK_SZ without an edge, or the crystal stopped (R434). -/
def railFault (s : State) : State := qualify (s.modBoot fun b => { b with railsOk := false })
def refclkLoss (s : State) : State := qualify (s.modBoot fun b => { b with refclk := false })
def crystalLoss (s : State) : State := qualify (s.modBoot fun b => { b with crystal := false })

/-- An accepted vendor unlock (R385): the package then starts cold, with no identity. DEDUCED, log entry 98. -/
def vendorOpen (s : State) (b : List Byte) (env : BootEnv) : State :=
  let s1 := extendMeasure s 5 (bytesAt b 0 32)
  let s2 := s1.modBoot fun x => { x with fuses := { x.fuses with vendorOpen := true, killed := true } }
  let s3 := secEvent (setSec (s2.modDbg fun d => { d with identity := false }) .vendorOpen) 5 0 0
  let s4 := if s3.boot.released then mainReset s3 .held else s3
  tryRelease (s4.modBoot fun x => { x with seat := none, seatCause := 0x080A, newSeat := true }) env

/-- An unlock block: the state and the code (R385). -/
def unlockBlock (s : State) (b : List Byte) (env : BootEnv) : State × Nat :=
  let k := unlockCode s b
  if k ≠ 0 then (s, k) else (vendorOpen s b env, 0)

end Sys2Proof.Machine
end

