-- ==== Sys2Proof/Machine/MgmtOps.lean ====
section
/-! DEFINITION. The management endpoint (chapter 19): MCTP, vendor messages, PLDM, events, alerts and SPDM. Numbers that
the DMTF standards fix and the spec only names are those of the standards. -/

namespace Sys2Proof.Machine

/-- The endpoint runs (R401), and it answers messages other than MCTP control: it has an endpoint id. -/
def mgmtRuns (s : State) : Bool := s.boot.lamphouse && s.mgmt.running
/-- DEDUCED, log entry 102. -/
def mgmtAnswers (s : State) : Bool := mgmtRuns s && s.mgmt.eid != 0

/-- An answer. -/
def answer (s : State) (type cmd code : Nat) (data : List Byte) : State := s.emit (.mgmt type cmd code data)

/-- The columns of Table 19.7. -/
inductive MgmtCol where
  | booting
  | up
  | redealing
  | held
  | failedReset
  | failedUp
deriving DecidableEq, Repr, Inhabited

/-- The column that a device state selects (R414). -/
def mgmtCol (s : State) : MgmtCol :=
  match s.boot.dev with
  | .booting => .booting
  | .newSeat => .up
  | .ready => .up
  | .redealing => .redealing
  | .held => .held
  | .failed => if s.boot.released then .failedUp else .failedReset

/-- Set Endpoint ID (R401): refused with a static id. -/
def setEid (s : State) (eid : Nat) : State :=
  if !mgmtRuns s then s
  else if s.mgmt.staticEid ≠ 0 ∨ eid < 8 ∨ 254 < eid then answer s 0 1 2 []
  else answer (s.modMgmt fun m => { m with eid := eid }) 0 1 0 (leBytes 1 eid)

/-- A vendor answer (Table 19.1): completions 0 SUCCESS, 1 BUSY, 2 INVALID, 3 STATE, 4 FLASH_ERROR and 5 SECURITY; the
detail byte comes first. -/
def vendor (s : State) (cmd code detail : Nat) (data : List Byte := []) : State := answer s 0x7F cmd code (leBytes 1 detail ++ data)

/-- A vendor command, unless the endpoint does not answer. -/
def vendorGo (s : State) (k : State → State) : State := if mgmtAnswers s then k s else s

/-- GET_NONCE (Table 19.2, R414). -/
def getNonce (s : State) : State :=
  vendorGo s fun s => if mgmtCol s = .booting then vendor s 1 1 0 else vendor s 1 0 0 (leBytes 8 s.dbg.nonce)

/-- A security answer (R404): SEC_CMD_RESULT stays. -/
def securityAnswer (r : State × Nat) : State := vendor r.1 2 (if r.2 = 0 then 0 else 5) r.2

/-- SECURITY ops 1, 2, 3 and 4 (R404, R414). -/
def mgmtKeySlot (s : State) (block : List Byte) (verified : Bool) : State :=
  vendorGo s fun s =>
    if mgmtCol s = .booting then vendor s 2 1 0
    else if block.length ≠ 256 then vendor s 2 2 0
    else
      let r := keySlotBlock s block verified
      securityAnswer (drawNonce r.1, r.2)
def mgmtGrant (s : State) (block : List Byte) : State :=
  vendorGo s fun s =>
    match mgmtCol s with
    | .booting => vendor s 2 1 0
    | .redealing => vendor s 2 5 0x0C
    | .up =>
      if block.length ≠ 224 then vendor s 2 2 0
      else
        let r := grantBlock s block
        securityAnswer (drawNonce r.1, r.2)
    | _ => vendor s 2 3 0
def mgmtRevoke (s : State) (claim : Nat) : State :=
  vendorGo s fun s =>
    match mgmtCol s with
    | .booting => vendor s 2 1 0
    | .redealing => vendor s 2 5 0x0C
    | .up => if 7 < claim then vendor s 2 2 0 else securityAnswer (revokeGrant s claim)
    | _ => vendor s 2 3 0
def mgmtUnlock (s : State) (block : List Byte) (env : BootEnv) : State :=
  vendorGo s fun s =>
    match mgmtCol s with
    | .booting => vendor s 2 1 0
    | .redealing => vendor s 2 3 0
    | .held => vendor s 2 3 0
    | .failedReset => vendor s 2 3 0
    | _ =>
      if block.length ≠ 416 then vendor s 2 2 0
      else
        let r := unlockBlock s block env
        securityAnswer (drawNonce r.1, r.2)

/-- FLASH_READ (R403): what lies below the owner area. -/
def flashReadCmd (s : State) (off len : Nat) : State :=
  vendorGo s fun s =>
    if mgmtCol s = .booting then vendor s 3 1 0
    else if len < 1 ∨ 256 < len ∨ 0x810000 < off + len then vendor s 3 2 0
    else vendor s 3 0 0 (flashRead s.boot.flash off len)

/-- A flash change is accepted: the held image is stale (R37, R403). -/
def markStale (s : State) : State :=
  if s.boot.img.isSome then mgmtSensor (s.modBoot fun b => { b with imageStale := true }) 0x0104 (b2n s.boot.imageStale) 1 else s

/-- FLASH_ERASE (R403); a flash that fails leaves bytes that no rule fixes. -/
def flashErase (s : State) (off count : Nat) (ok : Bool) : State :=
  vendorGo s fun s =>
    if mgmtCol s = .booting then vendor s 4 1 0
    else if off % 4096 ≠ 0 ∨ count < 1 ∨ 2048 < count ∨ 0x800000 < off + 4096 * count then vendor s 4 2 0
    else if ok then vendor ((markStale s).modFlash fun f => { f with cells := memDrop f.cells off (4096 * count) }) 4 0 0
    else
      let r := freeBytes (markStale s) (4096 * count)
      vendor (r.1.modFlash fun f => flashWrite f off r.2) 4 4 0

/-- What the flash holds after a write: bytes that were not erased come out as no rule fixes (R403). -/
def flashMix (old data free : List Byte) : List Byte :=
  (old.zip (data.zip free)).map fun x => if x.1 = 0xFF#8 then x.2.1 else x.2.2

/-- FLASH_WRITE (R403): the bytes are read back and compared. DEDUCED, log entry 103. -/
def flashWriteCmd (s : State) (off : Nat) (data : List Byte) (ok : Bool) : State :=
  vendorGo s fun s =>
    let n := data.length
    if mgmtCol s = .booting then vendor s 5 1 0
    else if n < 1 ∨ 256 < n ∨ 0x800000 < off + n ∨ off / 256 ≠ (off + n - 1) / 256 then vendor s 5 2 0
    else
      let r := freeBytes (markStale s) n
      let new := if ok then flashMix (flashRead s.boot.flash off n) data r.2 else r.2
      vendor (r.1.modFlash fun f => flashWrite f off new) 5 (if ok && new == data then 0 else 4) 0

/-- BOOT_RETRY (R405). -/
def bootRetryCmd (s : State) (env : BootEnv) : State :=
  vendorGo s fun s => if bootHasFailed s then bootRetry (vendor s 6 0 0) env else vendor s 6 3 0

/-- A PLDM command, unless the endpoint does not answer; types 0 (base) and 2 (platform) share the MCTP type 1. -/
def pldm (s : State) (cmd code : Nat) (data : List Byte := []) : State := answer s 1 cmd code data

/-- GetTID and SetTID (R406). -/
def getTid (s : State) : State := vendorGo s fun s => pldm s 0x02 0 (leBytes 1 s.mgmt.tid)
def setTid (s : State) (v : Nat) : State :=
  vendorGo s fun s => if v % 256 = 0 ∨ v % 256 = 255 then pldm s 0x01 2 else pldm (s.modMgmt fun m => { m with tid := v % 256 }) 0x01 0

/-- GetPLDMVersion (R406): 1.2 for DSP0248; the base version is not stated. -/
def getPldmVersion (s : State) (type : Nat) : State :=
  vendorGo s fun s =>
    match type with
    | 0 =>
      let r := freeBytes s 4
      pldm r.1 0x03 0 r.2
    | 2 => pldm s 0x03 0 [0x00#8, 0xF0#8, 0xF2#8, 0xF1#8]
    | _ => pldm s 0x03 0x83

/-- GetPLDMTypes and GetPLDMCommands (R406). -/
def getPldmTypes (s : State) : State := vendorGo s fun s => pldm s 0x04 0 (leBytes 8 5)
def pldmCommands (type : Nat) : List Nat :=
  match type with
  | 0 => [1, 2, 3, 4, 5]
  | 2 => [0x04, 0x0B, 0x11, 0x21, 0x31, 0x32, 0x39, 0x3A, 0x50, 0x51]
  | _ => []
def getPldmCommands (s : State) (type : Nat) : State :=
  vendorGo s fun s =>
    if pldmCommands type = [] then pldm s 0x05 0x83 else pldm s 0x05 0 (leBytes 32 (total ((pldmCommands type).map fun c => 2 ^ c)))

/-- Ids of the numeric sensors, the state sensors and the effecters, in table order (Tables 19.3 and 19.4). -/
def numericIds : List Nat := rangeFrom 1 30
def stateIds : List Nat := rangeFrom 0x100 5 ++ rangeFrom 0x110 12
def effecterIds : List Nat := rangeFrom 0x200 4

/-- The PDRs in table order: kind (0 numeric sensor, 1 state sensor, 2 state effecter, 3 numeric effecter), id, and the OEM
state set of those with states (R406). -/
def pdrs : List (Nat × Nat × Nat) :=
  numericIds.map (fun i => (0, i, 0)) ++ (stateIds.zip (rangeFrom 0x8000 17)).map (fun x => (1, x.1, x.2)) ++ [(2, 0x200, 0x8011)]
    ++ (rangeFrom 0x201 3).map fun i => (3, i, 0)

/-- GetPDRRepositoryInfo and GetPDR (R406): record handles count from 1; 0 asks for the first. -/
def getPdrInfo (s : State) : State := vendorGo s fun s => pldm s 0x50 0 (leBytes 4 pdrs.length)
def getPdr (s : State) (handle : Nat) : State :=
  vendorGo s fun s =>
    let h := max 1 handle
    match pdrs[h - 1]? with
    | none => pldm s 0x51 0x82
    | some p => pldm s 0x51 0 (leBytes 4 h ++ leBytes 4 (if h < pdrs.length then h + 1 else 0) ++ leBytes 1 p.1 ++ leBytes 2 p.2.1 ++ leBytes 2 p.2.2)

/-- The main dies answer the sensors that they hold (R407). -/
def mainSensors (s : State) : Bool := s.boot.released && s.power.level != 3

/-- Main-die figures that the Lamphouse keeps a copy of (R407): 0 to 3 fence counts, 4 the redeal number, 5 on ports. -/
def copyOf (s : State) (i : Nat) : Nat := if s.boot.released then (mainCopies s).getD i 0 else s.mgmt.copies.getD i (if 5 ≤ i then 1 else 0)

/-- The lowest face-die clock in MHz (Table 18.11). -/
def lowestClock (s : State) : Nat := s.power.clocks.toList.foldl min 4095

/-- How long the dies have been held, in ms (R365). -/
def heldMs (s : State) : Nat :=
  if s.boot.lamphouse ∧ !s.boot.released ∧ (!s.boot.resetL ∨ !s.boot.qualified) then (s.now - s.boot.heldSince) / 1000000 else 0

/-- A numeric sensor's value; none where it is unavailable (Table 19.3). -/
def sensorValue (s : State) (id : Nat) : Option Int :=
  let main (v : Int) : Option Int := if mainSensors s then some v else none
  let g := s.boot.img.getD { generation := 0, securityVersion := 0 }
  match id with
  | 0x01 => some s.power.avgW
  | 0x02 => some (powerLimit s)
  | 0x0A => some (tget s.power.temps 7)
  | 0x0B => main (lowestClock s)
  | 0x0C => some (heldMs s)
  | 0x0D => some g.generation
  | 0x0E => some g.securityVersion
  | 0x0F => some s.boot.fuses.rollback
  | 0x10 => some s.boot.copyACause
  | 0x11 => some s.boot.copyBCause
  | 0x12 => some s.boot.seatCause
  | 0x13 => some s.boot.releaseCause
  | 0x14 => some s.boot.releaseToReadyUs
  | 0x15 => some s.beat.period
  | 0x1A => some (copyOf s 4)
  | 0x1B => some s.mgmt.lost
  | 0x1C => some s.mgmt.alerts
  | 0x1D => main (eccBad s)
  | 0x1E => some s.power.reason
  | _ => if 3 ≤ id ∧ id ≤ 9 then main (tget s.power.temps (id - 3)) else some (copyOf s (id - 0x16))

/-- A signed 32-bit value as bytes. -/
def intBytes (v : Int) : List Byte := leBytes 4 (v % 2 ^ 32).toNat

/-- GetSensorReading (R407): operational state 0 enabled or 2 unavailable, then the value. -/
def getSensor (s : State) (id : Nat) : State :=
  vendorGo s fun s =>
    if !numericIds.contains id then pldm s 0x11 0x80
    else match sensorValue s id with
      | some v => pldm s 0x11 0 ([0#8] ++ intBytes v)
      | none => pldm s 0x11 0 ([2#8] ++ intBytes 0)

/-- A state sensor's state (Table 19.3). -/
def stateValue (s : State) (id : Nat) : Nat :=
  match id with
  | 0x100 => s.boot.dev.code
  | 0x101 => s.power.level
  | 0x102 => s.dbg.st.code
  | 0x103 => beatState s.beat
  | 0x104 => b2n s.boot.imageStale
  | _ => copyOf s (5 + (id - 0x110))

/-- GetStateSensorReadings (R407). -/
def getStateSensor (s : State) (id : Nat) : State :=
  vendorGo s fun s => if stateIds.contains id then pldm s 0x21 0 ([0#8] ++ leBytes 1 (stateValue s id)) else pldm s 0x21 0x80

/-- GetNumericEffecterValue (Table 19.4): what the acknowledge effecter reads is not stated. -/
def getNumericEffecter (s : State) (id : Nat) : State :=
  vendorGo s fun s =>
    match id with
    | 0x201 => pldm s 0x32 0 (leBytes 4 s.power.limitW)
    | 0x202 =>
      let r := freeBytes s 4
      pldm r.1 0x32 0 r.2
    | 0x203 => pldm s 0x32 0 (leBytes 4 s.mgmt.mask)
    | _ => pldm s 0x32 0x80

/-- GetStateEffecterStates (Table 19.4). -/
def getStateEffecter (s : State) (id : Nat) : State :=
  vendorGo s fun s => if id = 0x200 then pldm s 0x3A 0 (leBytes 1 s.power.request) else pldm s 0x3A 0x80

/-- The power request effecter (R408, R414). -/
def powerEffecter (s : State) (req : Nat) (env : BootEnv) : State :=
  vendorGo s fun s =>
    let notReady := pldm s 0x39 4
    let go (p3 : Bool) : State :=
      let s1 := (pldm s 0x39 0).modPower fun p => { p with request := if p3 then 3 else 2 }
      match mgmtCol s with
      | .up => powerRequest s1 p3
      | .redealing => powerRefuse s1 4
      | .failedUp => powerRefuse s1 6
      | _ => notReady
    match req with
    | 0 =>
      (match mgmtCol s with
        | .up => leaveP2 (pldm s 0x39 0)
        | .redealing => leaveP2 (pldm s 0x39 0)
        | .held => if s.power.level = 3 then powerWake (pldm s 0x39 0) env else pldm s 0x39 0
        | _ => notReady)
    | 2 => go false
    | 3 => go true
    | _ => pldm s 0x39 2

/-- The power limit effecter (R408, R414). -/
def limitEffecter (s : State) (v : Nat) : State :=
  vendorGo s fun s =>
    if mgmtCol s = .booting ∨ mgmtCol s = .held ∨ mgmtCol s = .failedReset then pldm s 0x31 4
    else if v < 400 ∨ 1050 < v then pldm s 0x31 2
    else pldm (s.modPower fun p => { p with limitW := v }) 0x31 0

/-- The condition that blocks the clearing of an alert cause (Table 19.6). -/
def alertBlocked (s : State) (b : Nat) : Bool :=
  match b with
  | 0 => !s.boot.resetL
  | 1 => s.boot.dev = .newSeat
  | 2 => s.boot.dev = .failed
  | 3 => s.boot.dev = .failed
  | 4 => s.redeal.phase = .waiting
  | 5 => s.beat.holdover
  | 6 => (List.range 8).any fun d => decide ((dieLimits d).2.1 < tget s.power.temps d)
  | 7 => eccBad s != 0
  | 8 => (List.range 4).any fun k => fencedCount s k != 0
  | 9 => (List.range 12).any fun p => decide ((s.port p).st = .quarantined)
  | 11 => s.power.powerThrottled
  | _ => false

/-- ALERT_ACKNOWLEDGE and ALERT_MASK (R412). -/
def alertAck (s : State) (v : Nat) : State :=
  vendorGo s fun s =>
    (List.range 12).foldl (fun s b => if v.testBit b && !alertBlocked s b then alertClear s b else s) (pldm s 0x31 0)
def alertMask (s : State) (v : Nat) : State := vendorGo s fun s => drivePins ((pldm s 0x31 0).modMgmt fun m => { m with mask := v % 65536 })

/-- SetEventReceiver (R409): 0 off, 1 asynchronous, 2 polling. -/
def setReceiver (s : State) (mode receiver : Nat) : State :=
  vendorGo s fun s =>
    let set (m : EventMode) : State := (pldm s 0x04 0).modMgmt fun x => { x with mode := m, receiver := receiver % 256, awaiting := false, tries := 0 }
    match mode with
    | 0 => set .off
    | 1 => set .async
    | 2 => set .polling
    | _ => pldm s 0x04 2

/-- A record as it is sent: its class, and its event data (R409). -/
def eventBytes : MgmtEvent → List Byte
  | .sensor id prev cur => [0#8] ++ leBytes 2 id ++ leBytes 4 cur ++ leBytes 4 prev
  | .oem bs => [0xF0#8] ++ bs

/-- PollForPlatformEventMessage (R409): in polling mode the head record is taken. -/
def pollEvent (s : State) : State :=
  vendorGo s fun s =>
    match s.mgmt.mode, s.mgmt.queue with
    | .polling, e :: rest => pldm (s.modMgmt fun m => { m with queue := rest }) 0x0B 0 (eventBytes e)
    | .polling, [] => pldm s 0x0B 0
    | _, _ => pldm s 0x0B 4

/-- PLATFORM_EVENT_MESSAGE, its retry and its acknowledgement (R409). -/
def sendEvent (s : State) : State :=
  match s.mgmt.mode, s.mgmt.queue with
  | .async, e :: _ =>
    if mgmtAnswers s ∧ !s.mgmt.awaiting then (s.modMgmt fun m => { m with awaiting := true, tries := 1 }).emit (.mgmt 1 0x0A 0 (eventBytes e)) else s
  | _, _ => s
def resendEvent (s : State) : State :=
  match s.mgmt.mode, s.mgmt.queue with
  | .async, e :: _ =>
    if mgmtAnswers s ∧ s.mgmt.awaiting then (s.modMgmt fun m => { m with tries := m.tries + 1 }).emit (.mgmt 1 0x0A 0 (eventBytes e)) else s
  | _, _ => s
def ackEvent (s : State) : State :=
  if s.mgmt.awaiting then s.modMgmt fun m => { m with queue := m.queue.tail, awaiting := false, tries := 0 } else s

/-- SPDM answers and errors (R410): codes 1 InvalidRequest, 3 Busy, 4 UnexpectedRequest, 7 UnsupportedRequest. -/
def spdm (s : State) (code : Nat) (data : List Byte) : State := answer s 5 code 0 data
def spdmError (s : State) (code : Nat) : State := answer s 5 0x7F code []

/-- Boot step 8 has run (R410). -/
def measured (s : State) : Bool := !(s.measure 1).isEmpty

/-- GET_VERSION, GET_CAPABILITIES and NEGOTIATE_ALGORITHMS (R410). -/
def spdmVersion (s : State) : State :=
  vendorGo s fun s => spdm (s.modMgmt fun m => { m with spdmVersion := true, spdmCaps := false, spdmAlgs := false }) 0x04 [0x00#8, 0x12#8]
def spdmCapabilities (s : State) : State :=
  vendorGo s fun s =>
    if !s.mgmt.spdmVersion then spdmError s 4
    else spdm (s.modMgmt fun m => { m with spdmCaps := true }) 0x61 (leBytes 4 (if s.dbg.identity then 2 + 4 + 2 * 8 else 8))
def spdmAlgorithms (s : State) : State :=
  vendorGo s fun s =>
    if !s.mgmt.spdmCaps then spdmError s 4
    else spdm (s.modMgmt fun m => { m with spdmAlgs := true }) 0x63 ([1#8] ++ leBytes 4 0x80 ++ leBytes 4 2)

/-- The vendor certificate chain, slot 0 (R375). -/
def certChain (s : State) : List Byte := Config.certChain s.boot.fuses.seed

/-- A request that needs the negotiated session, a measured boot and, for some, an identity (R410). -/
def spdmReady (s : State) (measure needId : Bool) (k : State → State) : State :=
  vendorGo s fun s =>
    if measure && !measured s then spdmError s 3
    else if !s.mgmt.spdmAlgs then spdmError s 4
    else if needId && !s.dbg.identity then spdmError s 7
    else k s

/-- GET_DIGESTS and GET_CERTIFICATE (R410): slot 0 alone, at most 256 bytes at a time. -/
def spdmDigests (s : State) : State := spdmReady s true true fun s => spdm s 0x01 ([1#8] ++ sha384 (certChain s))
def spdmCertificate (s : State) (slot off len : Nat) : State :=
  spdmReady s false true fun s =>
    let c := certChain s
    if slot ≠ 0 ∨ c.length < off then spdmError s 1
    else
      let part := (c.drop off).take (min 256 len)
      spdm s 0x02 (leBytes 2 part.length ++ leBytes 2 (c.length - off - part.length) ++ part)

/-- A measurement block (R411): index, type and digest. -/
def measureBlock (s : State) (i : Nat) : List Byte := leBytes 1 i ++ leBytes 1 ([0, 2, 1, 3, 3].getD (i - 1) 0) ++ bytesAt (s.measure i) 0 48

/-- CHALLENGE (R410): the responder's nonce is drawn, and the answer is signed with the identity key. -/
def spdmChallenge (s : State) (nonce : List Byte) : State :=
  spdmReady s true true fun s =>
    let r := freeBytes s 32
    let body := sha384 (certChain s) ++ r.2 ++ sha384 ((rangeFrom 1 5).flatMap (measureBlock s))
    spdm r.1 0x03 (body ++ identitySign s (nonce ++ body))

/-- GET_MEASUREMENTS (R411): 0 asks how many, 0xFF for all; unsigned without an identity. -/
def spdmMeasurements (s : State) (index : Nat) (signed : Bool) (nonce : List Byte) : State :=
  spdmReady s true false fun s =>
    let is := if index = 0xFF then rangeFrom 1 5 else if 1 ≤ index ∧ index ≤ 5 then [index] else []
    if is = [] ∧ index ≠ 0 then spdmError s 1
    else
      let body := [5#8] ++ is.flatMap (measureBlock s)
      spdm s 0x60 (if signed && s.dbg.identity then body ++ identitySign s (nonce ++ body) else body)

/-- A vendor message (R402): after the type byte and the enterprise number, the header of Table 19.1 and the payload. A message of another enterprise is of no type that the endpoint supports and is
discarded (R400). DESIGN CHOICE, log entry 117. -/
def vendorMessage (s : State) (b : List Byte) (ok : Bool) (env : BootEnv) : State :=
  let h := b.drop 5
  let p := h.drop 4
  let cmd := field h 0 1
  if !mgmtAnswers s ∨ beNat (bytesAt b 1 4) ≠ Config.enterprise % 2 ^ 32 then s
  else if bits (field h 1 1) 5 3 ≠ 4 ∨ field h 2 1 ≠ 0 ∨ field h 3 1 ≠ 0 then vendor s cmd 2 0
  else
    match cmd with
    | 1 => if p.isEmpty then getNonce s else vendor s 1 2 0
    | 2 =>
      if field p 2 2 ≠ 0 then vendor s 2 2 0
      else match field p 0 1 with
        | 1 => mgmtKeySlot s (p.drop 4) ok
        | 2 => mgmtGrant s (p.drop 4)
        | 3 => if p.length = 4 then mgmtRevoke s (field p 1 1) else vendor s 2 2 0
        | 4 => mgmtUnlock s (p.drop 4) env
        | _ => vendor s 2 2 0
    | 3 => if p.length = 8 ∧ field p 6 2 = 0 then flashReadCmd s (field p 0 4) (field p 4 2) else vendor s 3 2 0
    | 4 => if p.length = 8 ∧ field p 6 2 = 0 then flashErase s (field p 0 4) (field p 4 2) ok else vendor s 4 2 0
    | 5 => if p.length = 8 + field p 4 2 ∧ field p 6 2 = 0 then flashWriteCmd s (field p 0 4) (p.drop 8) ok else vendor s 5 2 0
    | 6 => if p.isEmpty then bootRetryCmd s env else vendor s 6 2 0
    | _ => vendor s cmd 2 0

/-- A PLDM request (R406): byte 1 is the instance, byte 2 the type, byte 3 the command, and the payload follows. -/
def pldmMessage (s : State) (b : List Byte) (env : BootEnv) : State :=
  let p := b.drop 4
  match field b 2 1 % 64, field b 3 1 with
  | 0, 1 => setTid s (field p 0 1)
  | 0, 2 => getTid s
  | 0, 3 => getPldmVersion s (field p 5 1)
  | 0, 4 => getPldmTypes s
  | 0, 5 => getPldmCommands s (field p 0 1)
  | 2, 0x04 => setReceiver s (field p 0 1) (field p 2 1)
  | 2, 0x0B => pollEvent s
  | 2, 0x0A => ackEvent s
  | 2, 0x11 => getSensor s (field p 0 2)
  | 2, 0x21 => getStateSensor s (field p 0 2)
  | 2, 0x31 =>
    (match field p 0 2 with
      | 0x201 => limitEffecter s (field p 3 4)
      | 0x202 => alertAck s (field p 3 4)
      | 0x203 => alertMask s (field p 3 4)
      | _ => vendorGo s fun s => pldm s 0x31 0x80)
  | 2, 0x32 => getNumericEffecter s (field p 0 2)
  | 2, 0x39 => if field p 0 2 = 0x200 then powerEffecter s (field p 4 1) env else vendorGo s fun s => pldm s 0x39 0x80
  | 2, 0x3A => getStateEffecter s (field p 0 2)
  | 2, 0x50 => getPdrInfo s
  | 2, 0x51 => getPdr s (field p 0 4)
  | _, c => vendorGo s fun s => pldm s c 5

/-- An SPDM request (R410). -/
def spdmMessage (s : State) (b : List Byte) : State :=
  match field b 2 1 with
  | 0x81 => spdmDigests s
  | 0x82 => spdmCertificate s (field b 3 1 % 16) (field b 5 2) (field b 7 2)
  | 0x83 => spdmChallenge s (bytesAt b 5 32)
  | 0x84 => spdmVersion s
  | 0xE0 => spdmMeasurements s (field b 4 1) (bit (field b 3 1) 0) (bytesAt b 5 32)
  | 0xE1 => spdmCapabilities s
  | 0xE3 => spdmAlgorithms s
  | _ => vendorGo s fun s => spdmError s 7

/-- A whole message goes to its type's handler; other types are discarded (R400, R401). -/
def mgmtMessage (s : State) (b : List Byte) (ok : Bool) (env : BootEnv) : State :=
  match field b 0 1 with
  | 0x00 => if field b 2 1 = 1 then setEid s (field b 4 1) else answer s 0 (field b 2 1) 5 []
  | 0x01 => if mgmtAnswers s then pldmMessage s b env else s
  | 0x05 => if mgmtAnswers s then spdmMessage s b else s
  | 0x7F => vendorMessage s b ok env
  | _ => s

/-- A packet joins the message that it belongs to: the message when it is whole, and the messages still being assembled
(R400). -/
def assemble (as : List Assembly) (b : List Byte) : List Assembly × Option (List Byte) :=
  let src := field b 2 1
  let fl := field b 3 1
  let tag := fl % 16
  let seq := bits fl 4 2
  let data := b.drop 4
  let rest := as.filter fun a => !(a.src == src && a.tag == tag)
  let put (bs : List Byte) (long : Bool) : List Assembly × Option (List Byte) :=
    if bit fl 6 then (rest, if long then none else some bs)
    else ({ src := src, tag := tag, nextSeq := (seq + 1) % 4, bytes := if long then [] else bs, tooLong := long } :: rest, none)
  if bit fl 7 then put data (decide (512 < data.length))
  else
    match as.find? fun a => a.src == src && a.tag == tag with
    | none => (as, none)
    | some a =>
      if a.nextSeq ≠ seq then (rest, none)
      else put (a.bytes ++ data) (a.tooLong || decide (512 < (a.bytes ++ data).length))

/-- MCTP_PACKET_RECEIVED (R400): a packet of at most 64 payload bytes with a good PEC, sent to this endpoint.
PRESUMED, log entry 101. -/
def mctpPacket (s : State) (b : List Byte) (pecOk flashOk : Bool) (env : BootEnv) : State :=
  let dest := field b 1 1
  if !mgmtRuns s ∨ !pecOk ∨ b.length < 5 ∨ 68 < b.length ∨ ¬ (dest = 0 ∨ dest = 255 ∨ dest = s.mgmt.eid) then s
  else
    let r := assemble s.mgmt.assembly b
    let s1 := s.modMgmt fun m => { m with assembly := r.1 }
    match r.2 with
    | some msg => mgmtMessage s1 msg flashOk env
    | none => s1

end Sys2Proof.Machine
end

