-- ==== Sys2Proof/Machine/WindowOps.lean ====
section
/-! DEFINITION. Writes of registers whose effect is more than a stored field: the tally windows and host wait slots
(R219, R220, R231), the doorbell (R88, R393), port control (R256, R258), break and patch registers. -/

namespace Sys2Proof.Machine

/-- A write of TLY_OP_n (R219, R223): op 0 ADD, 1 SET, 5 POISON. -/
def tallyOp (s : State) (c n op v : Nat) : State :=
  if (s.claim c).tallyCount ≤ n then s
  else
    match op with
    | 0 => windowOp s c n fun s d => agentAdd s d v
    | 1 => windowOp s c n fun s d => agentSet s d v
    | 5 => poisonTally s ((s.claim c).tallyBase + n) 0x0303
    | _ => windowRefused s c

/-- A write of TLY_DEV_OP_n (R231). -/
def deviceOp (s : State) (n op v : Nat) : State :=
  if 64 ≤ n then s
  else match op with
    | 0 => agentAdd s n v
    | 1 => agentSet s n v
    | 4 => armTally s n v
    | 5 => poisonTally s n 0x0303
    | _ => s

/-- An armed slot is tested at once (R220). -/
def testSlot (s : State) (c w : Nat) : State :=
  let h := tget (tget s.sync.claims c).waits w
  let t := s.tally h.latTally
  if !h.arm then s
  else if t.poisoned then endHostWait s c w true
  else if waitMet h.latEq t.value.toNat h.latThreshold then endHostWait s c w false
  else s

/-- A write of TLY_HOST_WAIT_w (R220, Table 11.6): the fields are stored, met and failed are W1C, and arm arms. -/
def waitWrite (s : State) (c w v : Nat) : State :=
  let s1 := s.modWait c w fun h =>
    { h with
      tally := bits v 0 10, eq := bit v 10, threshold := bits v 32 32
      met := h.met && !bit v 12, failed := h.failed && !bit v 13 }
  if !bit v 11 then s1
  else if (s.claim c).tallyCount ≤ bits v 0 10 then
    windowRefused (s.modWait c w fun h => { h with tally := bits v 0 10, eq := bit v 10, threshold := bits v 32 32 }) c
  else testSlot (s1.modWait c w fun h =>
    { h with arm := true, latTally := (s.claim c).tallyBase + bits v 0 10, latEq := bit v 10, latThreshold := bits v 32 32 }) c w

/-- TLY_HOST_WAIT_w as it reads. -/
def waitWord (h : HostWait) : Nat :=
  h.tally + 2 ^ 10 * b2n h.eq + 2 ^ 11 * b2n h.arm + 2 ^ 12 * b2n h.met + 2 ^ 13 * b2n h.failed + 2 ^ 32 * h.threshold

/-- The doorbell (R88, R108); with wake_on_doorbell it ends P2 where the shoe is enabled (R393). -/
def ringBell (s : State) (shoe v : Nat) : State :=
  let s1 := writeProduce s shoe v
  if s.power.level = 2 ∧ s.power.wakeOnDoorbell ∧ (s.shoe shoe).enable then leaveP2 s1 else s1

/-- SHOE_CTRL is written with enable 1 (R107): where the shoe is now enabled, its claim's queue pairs go on with the answers
`feeds` (R361). -/
def shoeEnable (s : State) (shoe v : Nat) (feeds : List (Nat × HostResp × HostResp)) : State :=
  let s1 := enableShoe s shoe v
  if shoe < 8 ∧ (s1.shoe shoe).enable ∧ !(s.shoe shoe).enable then
    qpsRun (s1.modNet fun n => { n with qps := n.qps.map fun q => if q.claim = shoe then { q with heldForShoe := false } else q }) shoe feeds
  else s1

/-- SZL_PORT_CTRL.hold_down is written (R256): the port goes DOWN and idle, or may train again. -/
def portHold (s : State) (p : Nat) (hold : Bool) : State :=
  let s1 := s.modPort p fun x => { x with holdDown := hold }
  if !hold || (s.port p).st = .dark then s1
  else (failXfers (leaveGroup s1 p .down)).emit (.idle p)

/-- SZL_PORT_CTRL.clear_counters (R258). -/
def portClear (s : State) (p : Nat) : State :=
  s.modPort p fun x => { x with crcErrors := 0, replays := 0, fec := 0, malformed := 0 }

/-- BEAT_EVENTS is written: its event bits are W1C, and clearing loss clears frame_error (Table 3.10). -/
def beatClear (s : State) (v : Nat) : State :=
  s.modBeat fun b =>
    { b with
      loss := b.loss && !bit v 0, relock := b.relock && !bit v 1, jumpHold := b.jumpHold && !bit v 2
      jumpFwd := b.jumpFwd && !bit v 3, jumpFar := b.jumpFar && !bit v 4, redesignated := b.redesignated && !bit v 5
      commitCancelled := b.commitCancelled && !bit v 6, commitRefused := b.commitRefused && !bit v 7
      frameError := if bit v 0 then 0 else b.frameError }

/-- ECC_PATCH_CMD is written: its fields, and with go the command (R345, Table 16.6). -/
def patchWrite (s : State) (v : Nat) : State :=
  let s1 := s.modEcc fun e => { e with patchCmd := v % 2 ^ 32 }
  if !bit v 63 then s1
  else if bit v 3 then patchRemove s1 (bits v 0 3) (bits v 4 14) (bits v 18 9) (bits v 27 5)
  else patchInstall s1 (bits v 0 3) (bits v 4 14) (bits v 18 9) (bits v 27 5)

/-- An op of ECC_TEST_CTRL (R347); no other op is described. -/
def testOp (s : State) (op : Nat) : State :=
  match op with
  | 1 => testWriteNormal s
  | 2 => testWriteSplit s
  | 3 => testRead s
  | 4 => testArm s
  | _ => s

/-- ECC_CE_COUNT_d_g.over is cleared, and the count with it (R340). -/
def countClear (s : State) (d g : Nat) : State := s.modDie d fun x => { x with ce := tset x.ce g (0, false) }

/-- ECC_LOG_CTRL_d.release (R342). -/
def logRelease (s : State) (d i : Nat) : State := s.modDie d fun x => { x with log := tset x.log i none }

/-- ASY_INDEX_i is written (R311, R312). -/
def indexWrite (s : State) (i v : Nat) : State :=
  if bit v 63 then bindIndex s i (bits v 0 40) (bits v 40 3)
  else unbindIndex s i (bits v 0 40) (bits v 40 3)

/-- DBG_BREAK is written (Table 18.12). -/
def breakWrite (s : State) (n v : Nat) : State :=
  s.modWin n fun w => { w with mode := bits v 0 2, tag := bits v 16 16, count := bits v 32 32 }

/-- DBG_CTRL is written (R386, R387): halt, then resume, then step. -/
def debugWrite (s : State) (n v : Nat) : State :=
  let s1 := if bit v 0 then dbgHalt s n else s
  let s2 := if bit v 1 then dbgResume s1 n else s1
  if bit v 2 then dbgStep s2 n else s2

end Sys2Proof.Machine
end

