-- ==== Sys2Proof/Machine/Regs.lean ====
section
/-! DEFINITION. The registers of every function with their offsets, values and writes (R415, Tables 20.3 to 20.21, and
the field tables that they name). -/

namespace Sys2Proof.Machine

/-- A register, or a family of them at equal steps: where it lies, whether it has 64 bits, what register `i` of it
reads, and what a whole write of it does. A field that is not writable keeps its value. -/
structure RegRow where
  base : Nat
  step : Nat := 8
  count : Nat := 1
  wide : Bool := false
  val : Nat → Nat := fun _ => 0
  wr : Nat → Nat → State → State := fun _ _ s => s

/-- The row that an offset falls in, with the index in it. -/
def findRow (rows : List RegRow) (off : Nat) : Option (RegRow × Nat) :=
  (rows.find? fun r => decide (r.base ≤ off) && decide ((off - r.base) % r.step = 0) && decide ((off - r.base) / r.step < r.count)).map
    fun r => (r, (off - r.base) / r.step)

/-- The rows of a block at a base offset. -/
def atBase (b : Nat) (rows : List RegRow) : List RegRow := rows.map fun r => { r with base := b + r.base }

/-- A bitmap of the numbers below `n` that satisfy a test. -/
def bitsWhere (n : Nat) (f : Nat → Bool) : Nat := total ((List.range n).map fun i => if f i then 2 ^ i else 0)

/-- A read-only register of 32 or 64 bits. -/
def ro32 (base v : Nat) : RegRow := { base := base, val := fun _ => v }
def ro64 (base v : Nat) : RegRow := { base := base, wide := true, val := fun _ => v }

/-- FEAT_ID to FEAT_LIMITS (Tables 1.7 to 1.12), which claims see too (R19). -/
def featCopy : List RegRow :=
  [ro32 0x0 0x00010111, ro64 0x8 0x079E6D6FF8040184, ro64 0x10 0x1004000200C00C00, ro32 0x18 0x0041024C,
    ro64 0x20 0x0040040040041008, ro64 0x28 0x0014100010002000]

/-- FEAT_ (Table 20.3). -/
def featRows : List RegRow :=
  featCopy ++ [ro64 0x100 0x003040C420404020, ro32 0x108 0x0018220F, ro32 0x110 0x013F4020, ro64 0x118 0x00E0F01004010048,
    ro32 0x120 0x00100810, ro32 0x128 0x00F40800, ro64 0x130 0x0020100400100740, ro64 0x138 0x8080018010052010]

/-- SHOE_STATUS (Table 5.8). -/
def shoeStatus (s : State) (n : Nat) : Nat :=
  let h := s.shoe n
  b2n (h.enable && !h.resumeWait) + 2 * b2n h.configError + 4 * b2n h.sheetHold + 8 * b2n h.resumeWait
    + 16 * b2n ((itemsOf s n).any fun i => i.held.isSome) + 2 ^ 16 * (itemsOf s n).length

/-- A write of a shoe register that takes effect only while the shoe is disabled (R107). -/
def whileDisabled (s : State) (n : Nat) (f : Shoe → Shoe) : State := s.modShoe n fun h => if h.enable then h else f h

/-- The registers of shoe n (Table 5.8); its enable is written by a command of its own. -/
def shoeRows (s : State) (n : Nat) : List RegRow :=
  let h := s.shoe n
  [{ base := 0x00, wide := true, val := fun _ => 64 * h.base, wr := fun _ v s => whileDisabled s n fun h => { h with base := v / 64 } },
    { base := 0x08, val := fun _ => h.sizeLog2 + 2 ^ 31 * b2n h.enable, wr := fun _ v s => if bit v 31 then shoeEnable s n v [] else disableShoe s n v },
    { base := 0x10, val := fun _ => h.timeoutUs, wr := fun _ v s => s.modShoe n fun h => { h with timeoutUs := v } },
    { base := 0x18, val := fun _ => h.produce, wr := fun _ v s => ringBell s n v },
    { base := 0x20, val := fun _ => h.fetch, wr := fun _ v s => writeFetch s n v },
    { base := 0x28, val := fun _ => shoeStatus s n,
      wr := fun _ v s => s.modShoe n fun h => { h with configError := h.configError && !bit v 1 } },
    ro64 0x30 h.nextSeq,
    { base := 0x38, wide := true, val := fun _ => 8 * h.scorecard, wr := fun _ v s => whileDisabled s n fun h => { h with scorecard := v / 8 } },
    ro64 0x40 h.lastScore,
    { base := 0x48, wide := true, val := fun _ => 32 * h.sheetBase, wr := fun _ v s => whileDisabled s n fun h => { h with sheetBase := v / 32 } },
    { base := 0x50, val := fun _ => h.sheetSizeLog2 + 2 ^ 31 * b2n h.sheetEnable, wr := fun _ v s => writeSheetCtrl s n v },
    { base := 0x58, val := fun _ => h.consumed, wr := fun _ v s => writeConsumed s n v },
    ro32 0x60 h.sheetProduce,
    { base := 0x68, val := fun _ => h.modCount + 2 ^ 16 * h.modDelay,
      wr := fun _ v s => s.modShoe n fun h => { h with modCount := bits v 0 16, modDelay := bits v 16 16 } }]

/-- The same registers as a view without writes. -/
def viewRows (rows : List RegRow) : List RegRow := rows.map fun r => { r with wr := fun _ _ s => s }

/-- DLR_LANE_STATUS_l (Table 6.4). -/
def laneStatus (s : State) (l : Nat) : Nat :=
  let x := tget s.dl.lanes l
  x.queue.length + 2 ^ 5 * b2n (rtClaimOf s l).isSome + 2 ^ 6 * (rtClaimOf s l).getD 0 + 2 ^ 9 * b2n (laneFenced s l)
    + 2 ^ 10 * b2n x.subdeck.isSome + 2 ^ 16 * x.dispatched.length

/-- DLR_CORE_STATUS_c (Table 7.11). -/
def coreStatus (s : State) (c : Nat) : Nat :=
  let x := tget s.dl.cores c
  let free := (x.units.toList.filter fun u => decide (u.use_ = .free)).length
  let pins := (x.units.toList.filter fun u => match u.use_ with
    | .pin _ => true
    | _ => false).length
  bitsWhere 12 (fun i => (tget x.slots i).isSome) + 2 ^ 12 * free + 2 ^ 18 * pins + 2 ^ 24 * b2n (unitOf s 0 c).fenced
    + (match x.arb.grant with
      | some g => 2 ^ 25 * g.1 + 2 ^ 28
      | none => 0) + 2 ^ 32 * (if x.gated then 0 else x.clockMhz)

/-- The fenced units of a class (Table 17.13). -/
def fencedBits (s : State) (cls lo n : Nat) : Nat := bitsWhere n fun i => (unitOf s cls (lo + i)).fenced

/-- DLR_ (Table 20.4). -/
def dlrRows (s : State) : List RegRow :=
  [{ base := 0x100, count := 4, val := fun i => tget s.dl.rtTimeout i,
     wr := fun i v s => if 10 ≤ bits v 0 20 ∧ bits v 0 20 ≤ 1000000 then s.modDl fun d => { d with rtTimeout := tset d.rtTimeout i (bits v 0 20) } else s }]
  ++ atBase 0x1000 (shoeRows s 8) ++ (List.range 8).flatMap (fun n => atBase (0x2000 + 0x100 * n) (viewRows (shoeRows s n)))
  ++ [{ base := 0x3000, count := 16, val := laneStatus s }, { base := 0x4000, count := 96, wide := true, val := coreStatus s },
    ro64 0x5000 (fencedBits s 0 0 64), ro32 0x5008 (fencedBits s 0 64 32),
    ro64 0x5010 (fencedBits s 1 0 16 + 2 ^ 16 * fencedBits s 2 0 12 + 2 ^ 32 * fencedBits s 3 0 32),
    ro64 0x5018 (s.fences.rollCalls + 2 ^ 32 * s.fences.fenceCount)]

/-- CLM_STATUS (Table 4.11). -/
def claimStatus (s : State) (n : Nat) : Nat :=
  let c := s.claim n
  c.st.code + 2 ^ 3 * b2n c.ledgerFull + 2 ^ 4 * b2n c.ckptUntil.isSome
    + 2 ^ 5 * b2n (decide (profClass (activeProf c) = 3) && (rtLaneOf s n).isNone) + 2 ^ 6 * b2n c.resvPending

/-- CLM_STATUS to CLM_RESET_COUNTS, which the claim sees too (R421). -/
def claimCopy (s : State) (n : Nat) : List RegRow :=
  let c := s.claim n
  [ro32 0x00 (claimStatus s n), ro64 0x08 (clmQuota c), ro64 0x10 (clmAlloc c), ro32 0x18 (clmShare s n), ro64 0x20 c.resetLast,
    ro32 0x28 (c.resetFailed + 2 ^ 16 * c.resetCompleted)]

/-- The number of a binding's byte in CLM_RT_BIND. -/
def rtByte (b : RtBind) : Nat := b.lane + 2 ^ 4 * b.claim + 2 ^ 7 * b2n b.valid

/-- CLM_ (Table 20.5). -/
def clmRows (s : State) : List RegRow :=
  (List.range 8).flatMap (fun n => atBase (0x100 * n) (claimCopy s n
    ++ [ro64 0x30 ((itemsOf s n).length + 2 ^ 16 * (qpsOf s n).length),
      { base := 0x40, step := 4, count := 8, val := fun p => (tget (s.claim n).profiles p).toNat }]))
  ++ [{ base := 0x1000, val := fun _ => total ((List.range 4).map fun i => 2 ^ (8 * i) * rtByte (tget s.cl.rtWritten i)),
        wr := fun _ v s => rtWrite s v }]

/-- The frames of a claim's T1 use that are pinned (Table 10.7). -/
def t1Pinned (s : State) (n : Nat) : Nat :=
  ((s.ptab n).pages.filter fun p => !p.2.tier2 && decide (p.2.pins ≠ 0)).length + tablePages (s.ptab n) + (s.claim n).descFrames.length

/-- TIER_CLAIM_USE_n (Table 10.7). -/
def claimUse (s : State) (n : Nat) : Nat :=
  t1Use s n + 2 ^ 16 * t1Pinned s n + 2 ^ 30 * b2n (overT1 s n) + 2 ^ 31 * b2n (overT2 s n) + 2 ^ 32 * t2Sectors s n

/-- TIER_ (Table 20.6). -/
def tierRows (s : State) : List RegRow :=
  let t := s.tiers
  [{ base := 0x0, val := fun _ => t.promote + 2 ^ 8 * t.demote + 2 ^ 16 * b2n t.auto,
     wr := fun _ v s => s.modTiers fun t => { t with promote := bits v 0 8, demote := bits v 8 8, auto := bit v 16 } },
    { base := 0x8,
      val := fun _ => b2n t.clearT1 + 2 * b2n t.clearT2 + 4 * b2n t.shareRefused + 8 * b2n (decide (poolCapacity s < poolUse s)),
      wr := fun _ v s => s.modTiers fun t =>
        { t with clearT1 := t.clearT1 && !bit v 0, clearT2 := t.clearT2 && !bit v 1, shareRefused := t.shareRefused && !bit v 2 } },
    ro64 0x10 (12288 - t.frames.length + 2 ^ 16 * (t.frames.filter fun f => f.2.isForeign).length
      + 2 ^ 32 * (freeSectors t 0 + freeSectors t 1)),
    ro64 0x18 (foreignSectors t 0 + foreignSectors t 1 + 2 ^ 24 * (65536 - t.handles.length)),
    { base := 0x20, val := fun _ => t.commonAccess.toNat, wr := fun _ v s => s.modTiers fun t => { t with commonAccess := BitVec.ofNat 8 v } },
    ro64 0x28 (total t.shares.toList + 2 ^ 16 * poolUse s + 2 ^ 40 * (s.ptab 8).pages.length),
    { base := 0x100, count := 8, val := fun n => tget t.shares n, wr := fun n v s => writeShare s n v },
    { base := 0x200, step := 16, count := 8, wide := true, val := claimUse s },
    { base := 0x208, step := 16, count := 8, wide := true, val := fun n => tget t.promotions n + 2 ^ 32 * tget t.demotions n },
    { base := 0x400, wide := true, val := fun _ => t.lookupVa + 2 ^ 40 * t.lookupTable,
      wr := fun _ v s => if bit v 63 then tierLookup s v else s.modTiers fun t => { t with lookupVa := bits v 0 40, lookupTable := bits v 40 4 } },
    ro64 0x408 (t.lookupEntry + 2 ^ 62 * b2n t.lookupL1 + 2 ^ 63 * b2n t.lookupDone)]

/-- TLY_VALUE of device tally n (Table 11.6). -/
def tallyWord (s : State) (n : Nat) : Nat :=
  let t := s.tally n
  t.value.toNat + 2 ^ 32 * b2n t.poisoned + 2 ^ 33 * b2n (trickOfTally s n).isSome + 2 ^ 48 * (if t.poisoned then t.cause else 0)

/-- TLY_CANARY_n. -/
def canaryWord (s : State) (n : Nat) : Nat :=
  let y := tget s.sync.claims n
  y.count + 2 ^ 8 * b2n y.declared + 2 ^ 32 * y.stalemateId

/-- TLY_TRICK_k and TLY_TRICK_TALLY_k. -/
def trickWord (s : State) (k : Nat) : Nat :=
  match tget s.sync.tricks k with
  | none => 0
  | some t => 1 + 2 * t.claim + 2 ^ 4 * t.index + 2 ^ 7 * b2n t.arrived + 2 ^ 8 * b2n t.poisoned + 2 ^ 9 * b2n t.lead + 2 ^ 16 * t.round
      + 2 ^ 32 * (t.gen % 2 ^ 32)
def trickTallies2 (s : State) (k : Nat) : Nat :=
  match tget s.sync.tricks k with
  | none => 0
  | some t => t.arriveTally + 2 ^ 16 * t.releaseTally + 2 ^ 32 * t.quota + 2 ^ 48 * (if t.lead then t.arrivals.length else 0)

/-- TLY_ (Table 20.7). -/
def tlyRows (s : State) : List RegRow :=
  [{ base := 0x0, step := 16, count := 1024, wide := true, val := tallyWord s },
    { base := 0x8, step := 16, count := 64, wide := true, wr := fun n v s => deviceOp s n (bits v 32 3) (bits v 0 32) },
    { base := 0x8000, val := fun _ => s.sync.canaryBeats,
      wr := fun _ v s => if 2 ≤ bits v 0 8 then s.modSync fun y => { y with canaryBeats := bits v 0 8 } else s },
    { base := 0x8100, count := 8, wide := true, val := canaryWord s }, { base := 0x9000, step := 16, count := 64, wide := true, val := trickWord s },
    { base := 0x9008, step := 16, count := 64, wide := true, val := trickTallies2 s }, ro32 0x9400 s.sync.stale]

/-- SZL_PORT_STATUS (Table 12.12). -/
def portStatus (x : Port) : Nat :=
  x.st.code + 2 ^ 3 * x.width + 2 ^ 7 * x.dir + 2 ^ 10 * x.reach + 2 ^ 12 * (if x.st = .quarantined then x.reason else 0)
    + 2 ^ 15 * b2n x.reversed + 2 ^ 16 * laneMap x LinkLane.usable + 2 ^ 24 * laneMap x (·.inUse) + 2 ^ 32 * x.polarity

/-- SZL_ (Table 20.8). -/
def szlRows (s : State) : List RegRow :=
  [{ base := 0x00, step := 0x100, count := 12, wide := true, val := fun p => portStatus (s.port p) },
    { base := 0x08, step := 0x100, count := 12, wide := true,
      val := fun p => (s.port p).peerCoords + 2 ^ 24 * (s.port p).peerPort + 2 ^ 32 * field (s.port p).digest 0 4 },
    { base := 0x10, step := 0x100, count := 12, wide := true,
      val := fun p => (s.port p).crcErrors + 2 ^ 16 * (s.port p).replays + 2 ^ 32 * (s.port p).fec + 2 ^ 48 * (s.port p).malformed },
    { base := 0x18, step := 0x100, count := 12,
      val := fun p => b2n (s.port p).evUp + 2 * b2n (s.port p).evDown + 4 * b2n (s.port p).evQuar + 8 * b2n (s.port p).evDegrade,
      wr := fun p v s => s.modPort p fun x =>
        { x with evUp := x.evUp && !bit v 0, evDown := x.evDown && !bit v 1, evQuar := x.evQuar && !bit v 2, evDegrade := x.evDegrade && !bit v 3 } },
    { base := 0x20, step := 0x100, count := 12, val := fun p => b2n (s.port p).holdDown,
      wr := fun p v s =>
        let s1 := if bit v 0 != (s.port p).holdDown then portHold s p (bit v 0) else s
        if bit v 2 then portClear s1 p else s1 },
    { base := 0x28, step := 0x100, count := 12, val := fun p => (s.port p).latency },
    ro64 0x1000 (total ((List.range 6).map fun d => 2 ^ (8 * d) * (dirLanes s d + 2 ^ 7 * b2n (dirReduced s d)))),
    { base := 0x1008, val := fun _ => s.link.timeoutMs,
      wr := fun _ v s => if 1 ≤ bits v 0 10 ∧ bits v 0 10 ≤ 1000 then s.modLink fun l => { l with timeoutMs := bits v 0 10 } else s },
    ro32 0x1010 (bitsWhere 14 fun i => (tget s.link.szlp i).failed), ro64 0x1018 (s.link.refused + 2 ^ 32 * s.link.late)]

/-- A raw ring's control register. -/
def rawWord (r : RawRing) : Nat := r.sizeLog2 + 2 ^ 4 * r.index + 2 ^ 31 * b2n r.enable

/-- ENT_ (Table 20.9); the control register of the raw send ring is written by a command of its own. -/
def entRows (s : State) : List RegRow :=
  let gid (p g : Nat) : Nat := tget (tget s.net.ports p).gids g
  [{ base := 0x0, step := 0x100, count := 2, val := fun p => b2n (tget s.net.ports p).up + 2 * b2n (tget s.net.ports p).c2m },
    { base := 0x8, step := 0x100, count := 2, wide := true,
      val := fun p => (tget s.net.ports p).dropped + 2 ^ 32 * (tget s.net.ports p).pfcSent }]
  ++ (List.range 2).flatMap (fun p =>
    [{ base := 0x800 + 0x100 * p, step := 16, count := 16, wide := true, val := fun g => gid p g % 2 ^ 64, wr := fun g v s => gidLow s p g v },
      { base := 0x808 + 0x100 * p, step := 16, count := 16, wide := true, val := fun g => gid p g / 2 ^ 64, wr := fun g v s => gidCommit s p g v }])
  ++ [{ base := 0x1000, val := fun _ => s.net.cnpDscp + 2 ^ 6 * s.net.pfcPriority + 2 ^ 9 * b2n s.net.pfcEnable,
        wr := fun _ v s => qosWrite s v },
    { base := 0x1100, wide := true, val := fun _ => 2048 * s.net.rx.base,
      wr := fun _ v s => s.modNet fun n => { n with rx := { n.rx with base := v / 2048 } } },
    { base := 0x1108, val := fun _ => rawWord s.net.rx, wr := fun _ v s => rawRxWrite s v },
    { base := 0x1110, wide := true, val := fun _ => 2048 * s.net.tx.base,
      wr := fun _ v s => s.modNet fun n => { n with tx := { n.tx with base := v / 2048 } } },
    { base := 0x1118, val := fun _ => rawWord s.net.tx, wr := fun _ v s => rawTxWrite s v [] }]

/-- ASY_INDEX_i, ASY_INDEX_STATUS_i and ASY_INDEX_HEAP_i (Table 15.8). -/
def indexWord (x : Index) : Nat :=
  let w := x.closing.getD (x.headerVa, x.claim)
  w.1 + 2 ^ 40 * w.2 + 2 ^ 63 * b2n x.valid
def indexStatus (x : Index) : Nat := x.st.code + 2 ^ 16 * x.cause + 2 ^ 32 * x.epoch

/-- ASY_ (Table 20.10). -/
def asyRows (s : State) : List RegRow :=
  let a := s.asy
  [{ base := 0x0, val := fun _ => b2n a.continuous, wr := fun _ v s => s.modAsy fun a => { a with continuous := bit v 0 } },
    ro64 0x8 (min 511 (total ((waitingSearches s).map (·.queries))) + 2 ^ 9 * b2n a.windowOpen + 2 ^ 10 * b2n a.batch.isSome
      + 2 ^ 16 * a.overruns + 2 ^ 32 * (a.batches % 2 ^ 32)),
    { base := 0x10, wr := fun _ v s => if bit v 31 then advanceNamed s (bits v 0 16) else s },
    { base := 0x1000, step := 16, count := 64, wide := true, val := fun i => indexWord (s.index i), wr := fun i v s => indexWrite s i v },
    { base := 0x1008, step := 16, count := 64, wide := true, val := fun i => indexStatus (s.index i) },
    { base := 0x2000, step := 16, count := 64, wide := true, val := fun i => (s.index i).heapHead + 2 ^ 32 * (s.index i).heapTaken }]

/-- TBL_SLOT_STATUS_i (Table 9.7). -/
def slotStatus (s : State) (i : Nat) : Nat :=
  let x := tget s.dl.slots i
  let old := s.dl.macros.any fun m => match m.table with
    | some t => t.1 == i && t.2.1 != x.bank
    | none => false
  x.source.code + (match x.table with
    | some t => 2 ^ 2 * t.mode + 2 ^ 5 * t.segs.length
    | none => 0) + 2 ^ 12 * b2n (decide (2 ≤ x.loads.length) || (!x.loads.isEmpty && old)) + 2 ^ 13 * b2n old

/-- TBL_ (Table 20.11). -/
def tblRows (s : State) : List RegRow :=
  [{ base := 0x0, count := 32, val := slotStatus s },
    { base := 0x200, count := 32, wide := true, val := fun i => match (tget s.dl.slots i).table with
      | some t => t.digest
      | none => 0 }]

/-- Word `w` of a log entry (Table 16.4). -/
def logWord (e : Option EccLog) (w : Nat) : Nat :=
  match e with
  | none => 0
  | some e =>
    match w with
    | 0 => e.kind + 2 ^ 8 * e.source + 2 ^ 16 * e.tier + 2 ^ 24 * (1 + 2 * b2n e.patched) + 2 ^ 32 * e.mac + 2 ^ 48 * e.row
    | 1 => e.word + 2 ^ 8 * e.bit + 2 ^ 16 * e.syndrome + 2 ^ 24 * e.owner + 2 ^ 32 * e.count
    | 2 => e.stamp
    | _ => e.timerUs

/-- The registers of one die (Table 20.12). -/
def dieRows (s : State) (d : Nat) : List RegRow :=
  let x := tget s.ecc.dies d
  (List.range 4).map (fun w => { base := 8 * w, step := 32, count := 16, wide := true, val := fun i => logWord (tget x.log i) w })
  ++ [{ base := 0x200, val := fun _ => 2 ^ 16 * x.lost, wr := fun _ v s => if bit v 4 then logRelease s d (bits v 0 4) else s },
    ro64 0x208 (x.cursor + 2 ^ 32 * x.t0Cursor), ro64 0x210 (x.passes % 2 ^ 32 + 2 ^ 32 * (x.t0Passes % 2 ^ 32)),
    { base := 0x300, count := 32, wide := true, val := fun i => match tget x.patches i with
      | none => 0
      | some p => 1 + 2 * b2n p.runtime + 2 ^ 2 * p.mac + 2 ^ 16 * p.row + 2 ^ 25 * p.word },
    { base := 0x400, step := 4, count := if d < 4 then 88 else 16, val := fun g => (tget x.ce g).1 + 2 ^ 16 * b2n (tget x.ce g).2,
      wr := fun g v s => if bit v 16 then countClear s d g else s }]

/-- ECC_ (Table 20.12). -/
def eccRows (s : State) : List RegRow :=
  let e := s.ecc
  [ro32 0x0 (eccBad s),
    { base := 0x8, val := fun _ => e.threshold, wr := fun _ v s => if bits v 0 16 = 0 then s else s.modEcc fun e => { e with threshold := bits v 0 16 } },
    ro64 0x10 (e.unwritten + 2 ^ 32 * e.poisoned),
    { base := 0x100, wide := true, val := fun _ => e.target, wr := fun _ v s => s.modEcc fun e => { e with target := v % 2 ^ 36 } },
    { base := 0x108, wide := true, val := fun _ => e.data, wr := fun _ v s => s.modEcc fun e => { e with data := v } },
    { base := 0x110, val := fun _ => e.check, wr := fun _ v s => s.modEcc fun e => { e with check := v % 2 ^ 20 } },
    { base := 0x118, wide := true, val := fun _ => e.flipData, wr := fun _ v s => s.modEcc fun e => { e with flipData := v } },
    { base := 0x120, val := fun _ => e.flipCheck, wr := fun _ v s => s.modEcc fun e => { e with flipCheck := v % 2 ^ 20 } },
    { base := 0x128, wr := fun _ v s => if bit v 31 then testOp s (bits v 0 3) else s },
    ro64 0x130 (b2n e.resDone + 2 * e.resClass + 2 ^ 8 * e.resSyndrome + 2 ^ 16 * e.resBit), ro64 0x138 e.resData,
    { base := 0x200, wide := true, val := fun _ => e.patchCmd, wr := fun _ v s => patchWrite s v },
    ro32 0x208 (b2n e.patchDone + 2 * b2n e.patchRefused + 4 * e.patchEntry + 2 ^ 8 * e.patchReason)]
  ++ (List.range 7).flatMap fun d => atBase (0x1000 + 0x1000 * d) (dieRows s d)

/-- BEAT_STATUS (Table 3.7). DESIGN CHOICE, log entry 25. -/
def beatStatus (b : Beat) : Nat :=
  b.source + 4 * b2n b.aligned + 8 * b2n b.locked + 16 * b2n b.holdover + 32 * b2n b.filler + 2 ^ 6 * b.hop

/-- BEAT_ (Table 20.13). -/
def beatRows (s : State) : List RegRow :=
  let b := s.beat
  let entry (v : Vector CalEntry 64) (w i : Nat) : Nat := field (tget v i) (8 * w) 8
  [ro32 0x0 (beatStatus b), ro64 0x8 (b.count % 2 ^ 48 + 2 ^ 48 * beatPhase s), ro32 0x10 b.period,
    { base := 0x18, val := fun _ => beatEvents s, wr := fun _ v s => beatClear s v }, ro64 0x20 (b.skipped % 2 ^ 48),
    { base := 0x28, val := fun _ => b.tokenRound + 2 ^ 31 * b2n b.designate, wr := fun _ v s => tokenWrite s v },
    { base := 0x30, wide := true, val := fun _ => b.atBeat + 2 ^ 62 * b2n b.commitPending, wr := fun _ v s => commitWrite s v },
    { base := 0x1000, step := 16, count := 64, wide := true, val := entry b.active 0 },
    { base := 0x1008, step := 16, count := 64, wide := true, val := entry b.active 1 },
    { base := 0x2000, step := 16, count := 64, wide := true, val := entry b.shadow 0, wr := fun i v s => shadowWrite s (16 * i) (leBytes 8 v) },
    { base := 0x2008, step := 16, count := 64, wide := true, val := entry b.shadow 1, wr := fun i v s => shadowWrite s (16 * i + 8) (leBytes 8 v) }]

/-- PWR_ (Table 20.14). -/
def pwrRows (s : State) : List RegRow :=
  let p := s.power
  [ro32 0x0 (p.level + 2 ^ 8 * (s.dl.cores.toList.filter (·.gated)).length),
    { base := 0x8, val := fun _ => p.request + 4 * b2n p.wakeOnDoorbell,
      wr := fun _ v s => if bit v 31 then powerGo s (bits v 0 2) (bit v 2) else powerWrite s (bits v 0 2) (bit v 2) },
    { base := 0x10,
      val := fun _ => b2n p.refused + 2 ^ 8 * p.reason + 2 ^ 16 * b2n p.powerThrottled + 2 ^ 17 * b2n p.thermalThrottled,
      wr := fun _ v s => s.modPower fun p => { p with refused := p.refused && !bit v 0 } },
    { base := 0x18, val := fun _ => p.limitW,
      wr := fun _ v s => if 400 ≤ bits v 0 11 ∧ bits v 0 11 ≤ 1050 then s.modPower fun p => { p with limitW := bits v 0 11 } else s },
    ro64 0x20 (p.avgW + 2 ^ 16 * p.peakW + 2 ^ 32 * lowestClock s)]

/-- SEC_STATE (Table 18.10). -/
def secState (s : State) : Nat :=
  s.dbg.st.code + 4 * b2n s.dbg.identity + 2 ^ 8 * bitsWhere 8 (fun n => (tget s.dbg.grants n).live)
    + 2 ^ 16 * bitsWhere 4 (fun i => (tget s.boot.fuses.slots i).programmed) + 2 ^ 20 * bitsWhere 4 (fun i => (tget s.boot.fuses.slots i).revoked)

/-- SEC_GRANT_n: the seconds left count from its acceptance. -/
def grantWord (s : State) (n : Nat) : Nat :=
  let g := tget s.dbg.grants n
  if g.live then 1 + 2 * b2n g.observe + 4 * b2n g.halt + 8 * b2n (haltDone s n)
    + 2 ^ 32 * (g.duration - (s.now - g.since) / 1000000000)
  else 0

/-- SEC_ (Table 20.15); SEC_CMD is written by commands of its own. -/
def secRows (s : State) : List RegRow :=
  let d := s.dbg
  [ro32 0x0 (secState s), ro64 0x8 d.nonce,
    { base := 0x10, wide := true, val := fun _ => 32 * d.cmdAddr, wr := fun _ v s => s.modDbg fun d => { d with cmdAddr := v / 32 } },
    { base := 0x18, wr := fun _ v s => if bit v 31 ∧ bits v 0 3 = 3 then secPlain s fun s => revokeGrant s (bits v 8 3) else s },
    ro32 0x20 (b2n d.done + 2 ^ 8 * d.code), { base := 0x100, count := 8, wide := true, val := grantWord s },
    { base := 0x208, count := 5, wide := true, val := fun i => field (s.measure (i + 1)) 0 8 },
    ro64 0x300 (match s.boot.seat with
      | some r => r.bank + 2 + 2 ^ 8 * d.sealResult + 2 ^ 32 * r.sequence
      | none => 2 ^ 8 * d.sealResult)]

/-- The registers of ring n (Table 4.19), without the vectors. -/
def ringRows (s : State) (n : Nat) : List RegRow :=
  let r := s.ring n
  [{ base := 0x00, wide := true, val := fun _ => 64 * r.base, wr := fun _ v s => s.modRing n fun r => { r with base := v / 64 } },
    { base := 0x08, val := fun _ => r.sizeLog2 + 2 ^ 31 * b2n r.enable, wr := fun _ v s => writeRingSize s n v },
    { base := 0x10, val := fun _ => r.consumed, wr := fun _ v s => writeRingConsumed s n v },
    { base := 0x18, val := fun _ => r.produce + 2 ^ 12 * b2n r.overflow + 2 ^ 16 * r.lost, wr := fun _ v s => writeRingStatus s n v }]

/-- EVT_ (Table 20.16). -/
def evtRows (s : State) : List RegRow :=
  ringRows s 8 ++
    [{ base := 0x40, wide := true, val := fun _ => s.cl.stewardVectors.toNat,
       wr := fun _ v s => s.modCl fun c => { c with stewardVectors := BitVec.ofNat 64 v &&& 0x3F3F3F3F3F3F3F3F#64 } }]

/-- Items of the ledger in a set of states (Table 6.5). -/
def itemsIn (s : State) (sts : List ItemState) : Nat := (s.dl.items.filter fun i => sts.contains i.st).length

/-- LDG_REDEAL_STATUS (Table 17.12), with or without the COMMON errors (R421). -/
def redealStatus (s : State) (common : Bool) : Nat :=
  let r := s.redeal
  (match r.phase with
    | .none => 0
    | .resolving => 1
    | .walking => 2
    | .waiting => 3) + 4 * b2n r.resumeSeen + 2 ^ 16 * (if common then r.commonErrors else 0) + 2 ^ 32 * r.id

/-- LDG_REDEAL_CLAIM_n. -/
def redealClaim (s : State) (n : Nat) : Nat :=
  let r := s.redeal
  tget r.failed n + 2 ^ 16 * tget r.completed n + 2 ^ 32 * tget r.walkErrors n + 2 ^ 48 * b2n (tget r.confirmed n)

/-- LDG_REDEAL_CTRL is written (R354, R360): a request, then resume. -/
def redealWrite (s : State) (v : Nat) : State :=
  let s1 := if bit v 1 then startRedeal s { cause := 0x0703, faulting := 0xFF } else s
  if bit v 0 then redealResume s1 else s1

/-- LDG_ (Table 20.17). -/
def ldgRows (s : State) : List RegRow :=
  let k := s.dl.lookup
  let r := s.redeal
  [ro64 0x0 (itemsIn s [.fetching] + 2 ^ 16 * itemsIn s [.queued] + 2 ^ 32 * itemsIn s [.running, .committed] + 2 ^ 48 * itemsIn s [.resolved]),
    { base := 0x10, wide := true, val := fun _ => k.seq, wr := fun _ v s => s.modDl fun d => { d with lookup := { d.lookup with seq := v } } },
    { base := 0x18, val := fun _ => k.shoe,
      wr := fun _ v s => if bit v 31 then ledgerLookup s (bits v 0 4) else s.modDl fun d => { d with lookup := { d.lookup with shoe := bits v 0 4 } } },
    ro64 0x20 (b2n k.done + 2 * b2n k.found + 4 * k.state + 2 ^ 16 * k.cause + 2 ^ 32 * k.failOffset),
    ro64 0x100 (redealStatus s true),
    { base := 0x108, wr := fun _ v s => redealWrite s v },
    ro64 0x110 (r.trigger + 2 ^ 16 * r.faulting + 2 ^ 24 * (r.durationUs % 2 ^ 32)), ro64 0x118 r.faultSeq,
    { base := 0x200, count := 8, wide := true, val := redealClaim s }]

/-- RND_STATUS_c (Table 13.6). -/
def roundStatus (s : State) (c : Nat) : Nat :=
  match s.armed c with
  | none => 0
  | some a => (roundState s c).code + 2 ^ 2 * a.claim + 2 ^ 6 * b2n a.backward + 2 ^ 7 * b2n (decide (a.horizon ≠ 0)) + 2 ^ 8 * a.round
      + 2 ^ 32 * a.rank + 2 ^ 44 * a.seatCount

/-- RND_PROGRESS_c. DEDUCED, log entry 69. -/
def roundProgress (s : State) (c : Nat) : Nat :=
  match s.armed c with
  | none => 0
  | some a => a.deal % 2 ^ 32 + 2 ^ 32 * (if a.dealing then a.comp else 0) + 2 ^ 44 * b2n (decide (a.comp < a.trig))
      + 2 ^ 45 * b2n (a.sendDue && a.readyWait.waits)
      + 2 ^ 46 * b2n (a.dealing && decide (0 < a.trig) && decide (a.trig < a.seatCount) && decide (a.comp = a.trig) && !a.hasLanded a.trig)

/-- A seat as three bytes of a register. -/
def seatWord (v : Seat) : Nat := v.1 + 2 ^ 8 * v.2.1 + 2 ^ 16 * v.2.2

/-- RND_FAIL_c. -/
def roundFail (s : State) (c : Nat) : Nat :=
  let x := tget s.rounds.ctrls c
  x.failCause + 2 ^ 16 * seatWord x.failOrigin + 2 ^ 40 * seatWord x.failSuspect

/-- RND_ (Table 20.18). -/
def rndRows (s : State) : List RegRow :=
  [{ base := 0x00, step := 0x100, count := 16, wide := true, val := roundStatus s },
    { base := 0x08, step := 0x100, count := 16, wide := true, val := roundProgress s },
    { base := 0x10, step := 0x100, count := 16, wide := true, val := roundFail s },
    ro64 0x1000 (s.rounds.forwarded + 2 ^ 32 * s.rounds.noRoute)]

/-- HST_STATUS (Table 2.8). -/
def hstStatus (s : State) : Nat :=
  s.boot.dev.code + 2 ^ 4 * b2n s.image.copyB + 2 ^ 5 * b2n s.boot.fallback
    + 2 ^ 6 * b2n ((List.range 12).any fun p => decide ((s.port p).st = .quarantined)) + 2 ^ 7 * b2n s.boot.imageStale

/-- HST_ (Table 20.19). -/
def hstRows (s : State) : List RegRow :=
  let b := s.boot
  let g := s.image
  [ro32 0x0 (hstStatus s),
    ro64 0x8 (g.generation + 2 ^ 32 * g.securityVersion + 2 ^ 40 * b.fuses.rollback + 2 ^ 48 * g.keySlot + 2 ^ 50 * b2n b.otherValid),
    ro64 0x10 (b.copyACause + 2 ^ 16 * b.copyBCause + 2 ^ 32 * b.seatCause + 2 ^ 48 * b.releaseCause), ro32 0x18 b.releaseToReadyUs,
    ro64 0x20 (b.shortPulses + 2 ^ 16 * (b.lastHeldMs % 2 ^ 32) + 2 ^ 48 * b2n b.heldAlert), ro32 0x28 b.failCause,
    ro32 0x100 (s.pcie.gen + 2 ^ 3 * s.pcie.width + 2 ^ 8 * b2n s.pcie.flit + 2 ^ 9 * b2n s.pcie.belowFloor)]
  ++ (List.range 9).flatMap fun f =>
    [{ base := 0x1000 + 0x40 * f, step := 16, count := 4, wide := true,
       val := fun w => 4096 * (tget (tget s.fns f).wins w).base + b2n (tget (tget s.fns f).wins w).valid, wr := fun w v s => winWrite s f w false v },
      { base := 0x1008 + 0x40 * f, step := 16, count := 4, wide := true, val := fun w => 4096 * (tget (tget s.fns f).wins w).limit,
        wr := fun w v s => winWrite s f w true v }]

/-- The blocks of the physical function's BAR0 (Table 20.2). -/
def pfRows (s : State) (off : Nat) : List RegRow :=
  match off / 0x100000 with
  | 0 => featRows
  | 1 => dlrRows s
  | 2 => clmRows s
  | 3 => tierRows s
  | 4 => tlyRows s
  | 5 => szlRows s
  | 6 => entRows s
  | 7 => asyRows s
  | 8 => tblRows s
  | 9 => eccRows s
  | 10 => beatRows s
  | 11 => pwrRows s
  | 12 => secRows s
  | 13 => evtRows s
  | 14 => ldgRows s
  | 15 => rndRows s
  | 16 => hstRows s
  | _ => []

/-- A claim's debug window (Table 18.12). -/
def dbgRows (s : State) (n : Nat) : List RegRow :=
  let w := tget s.dbg.wins n
  let g := tget s.dbg.grants n
  let halted (lo i : Nat) : Bool := (tget s.dl.cores (lo + i)).contexts.any fun mid => match findMacro s mid with
    | some m => m.claim == n && m.halted.contains (lo + i)
    | none => false
  [{ base := 0x0,
     val := fun _ => b2n g.observe + 2 * b2n g.halt + 4 * b2n (haltDone s n) + 8 * b2n (!(stepsLeft s n).isEmpty) + 16 * b2n w.breakHit + 2 ^ 8 * w.result,
     wr := fun _ v s => s.modWin n fun w => { w with breakHit := w.breakHit && !bit v 4 } },
    { base := 0x8, wr := fun _ v s => debugWrite s n v },
    { base := 0x10, wide := true, val := fun _ => w.mode + 2 ^ 16 * w.tag + 2 ^ 32 * w.count, wr := fun _ v s => breakWrite s n v },
    ro32 0x18 w.commands,
    { base := 0x20, val := fun _ => w.obsSel,
      wr := fun _ v s => if bit v 31 then dbgObserve s n v else s.modWin n fun w => { w with obsSel := obsFields v } },
    ro64 0x28 w.obsData, ro64 0x30 (bitsWhere 64 (halted 0)), ro32 0x38 (bitsWhere 32 (halted 64))]

/-- Queue-pair and region registers of claim n (Table 14.8). A go of ENT_QP_CMD that reads a context is a command of its own; a
doorbell written here brings no entry. -/
def qpRows (s : State) (n : Nat) : List RegRow :=
  let c := tget s.net.claims n
  let qp (f : Qp → Nat) (h : Nat) : Nat := ((findQp s n h).map f).getD 0
  let pairs := (s.claim n).queuePairs
  [{ base := 0x0, wide := true, val := fun _ => 128 * c.cmdAddr, wr := fun _ v s => s.modClaimNet n fun c => { c with cmdAddr := v / 128 } },
    { base := 0x8, val := fun _ => c.cmdOp + 4 * c.cmdHandle,
      wr := fun _ v s =>
        if !bit v 31 then s.modClaimNet n fun c => { c with cmdOp := bits v 0 2, cmdHandle := bits v 2 11 }
        else if bits v 0 2 = 2 then qpGo s n 2 (bits v 2 11) false fun s => qpDestroy s n (bits v 2 11)
        else if bits v 0 2 = 3 then qpGo s n 3 (bits v 2 11) true fun s => qpQuery s n (bits v 2 11)
        else s },
    ro64 0x10 (b2n c.done + 2 * c.resHandle + 2 ^ 16 * c.cause + 2 ^ 32 * c.qpn),
    { base := 0x1000, step := 32, count := 64, wide := true, val := fun i => (tget c.regions i).base, wr := fun i v s => regionRange s n i false v },
    { base := 0x1008, step := 32, count := 64, wide := true, val := fun i => (tget c.regions i).length, wr := fun i v s => regionRange s n i true v },
    { base := 0x1010, step := 32, count := 64,
      val := fun i =>
        let r := tget c.regions i
        b2n r.valid + 2 * b2n r.host + 4 * b2n r.remoteRead + 8 * b2n r.remoteWrite + 2 ^ 8 * r.key,
      wr := fun i v s => regionAccess s n i v },
    { base := 0x8000, step := 16, count := pairs, val := qp (·.sqProduce), wr := fun h v s => sqDoorbell s n h v [] },
    { base := 0x8004, step := 16, count := pairs, val := qp (·.rqProduce), wr := fun h v s => rqDoorbell s n h v [] },
    { base := 0x8008, step := 16, count := pairs, val := qp (·.cqConsumed), wr := fun h v s => cqConsumed s n h v [] },
    { base := 0x800C, step := 16, count := pairs, val := qp fun q => q.st.code + 8 * b2n q.cqHold }]

/-- A claim's tally window (Table 11.6). -/
def windowRows (s : State) (n : Nat) : List RegRow :=
  let y := tget s.sync.claims n
  let c := s.claim n
  [{ base := 0x0, step := 16, count := c.tallyCount, wide := true, val := fun i => tallyWord s (c.tallyBase + i) },
    { base := 0x8, step := 16, count := c.tallyCount, wide := true, wr := fun i v s => tallyOp s n i (bits v 32 3) (bits v 0 32) },
    { base := 0x8000, step := 16, count := 16, wide := true, val := fun w => waitWord (tget y.waits w), wr := fun w v s => waitWrite s n w v },
    { base := 0xC000, count := 15, wide := true, val := fun k => (tget y.masks k).toNat,
      wr := fun k v s => s.modSync fun z => { z with claims := tmod z.claims n fun t => { t with masks := tset t.masks k (BitVec.ofNat 64 v) } } },
    { base := 0xE000, val := fun _ => b2n y.refused,
      wr := fun _ v s => s.modSync fun z => { z with claims := tmod z.claims n fun t => { t with refused := t.refused && !bit v 0 } } },
    ro64 0xE008 (canaryWord s n)]

/-- The window of claim n (Tables 20.20 and 20.21): a FREE claim's answers only its status and the FEAT_ copy (R64), and
the debug window answers while a grant lives (R384). -/
def vfRows (s : State) (n : Nat) (off : Nat) : List RegRow :=
  let free := decide ((s.claim n).st = .free)
  match off / 0x10000 with
  | 0 => if free then [] else shoeRows s n
  | 1 =>
    let own (c : Nat) : Bool := match s.armed c with
      | some a => a.claim == n
      | none => false
    let copies : List RegRow :=
      if free then [ro32 0x10000 (claimStatus s n)]
      else atBase 0x10000 (claimCopy s n) ++ [ro64 0x10080 (claimUse s n),
        { base := 0x10200, step := 16, count := 16, wide := true, val := fun c => if own c then roundStatus s c else 0 },
        { base := 0x10208, step := 16, count := 16, wide := true, val := fun c => if own c then roundFail s c else 0 },
        ro64 0x10300 (redealClaim s n), ro64 0x10308 (redealStatus s false)]
    copies ++ atBase 0x10F00 featCopy
  | 2 => if free then [] else atBase 0x20000 (windowRows s n)
  | 3 =>
    if free then []
    else
      atBase 0x30000 (ringRows s n) ++
        [{ base := 0x30020, val := fun _ => (tget s.cl.vectorMap n).toNat,
           wr := fun _ v s => s.modCl fun c => { c with vectorMap := tset c.vectorMap n (BitVec.ofNat 32 v) } }]
  | 4 => if free || !(tget s.dbg.grants n).live then [] else atBase 0x40000 (dbgRows s n)
  | 6 => if free then [] else atBase 0x60000 (qpRows s n)
  | _ => []

/-- The offsets that a package in runtime FAILED still answers (Table 20.1). -/
def failedAnswers (fn off : Nat) : Bool :=
  if fn = 0 then
    let o := off % 0x100000
    match off / 0x100000 with
    | 0 => true
    | 1 => decide (0x1000 ≤ o) && decide (o < 0x2800)
    | 14 => true
    | 16 => true
    | _ => false
  else decide (off < 0x10000) || (decide (0x10300 ≤ off) && decide (off < 0x10310)) || (decide (0x10F00 ≤ off) && decide (off < 0x10F30))

/-- The endpoint carries out configuration and memory requests (R43, R422, Table 20.1): before boot step 14 it answers with
Request Retry Status only. -/
def hostUp (s : State) : Bool := s.boot.released && !s.dbg.scanned && decide (s.boot.dev ≠ .booting) && decide (s.boot.dev ≠ .held)

/-- The endpoint answers memory requests of a function (R83, R282). -/
def fnAnswers (s : State) (fn : Nat) : Bool :=
  hostUp s && !(tget s.fns fn).resetting
    && (decide (fn = 0) || (s.pcie.vfEnable && decide (fn ≤ s.pcie.numVfs)))

/-- The rows that answer at an offset of a function's BAR0 (R422): `off` is in the physical function's blocks for
function 0, or in a claim's window. -/
def regRows (s : State) (fn off : Nat) : List RegRow :=
  if !fnAnswers s fn ∨ 8 < fn ∨ (s.boot.dev = .failed ∧ !failedAnswers fn off) then []
  else if fn = 0 then pfRows s off else vfRows s (fn - 1) off

/-- The register at an offset of a function's BAR0, with its index in its family; none as R9 states.
DEDUCED, log entry 23. -/
def regAt (s : State) (fn off : Nat) : Option (RegRow × Nat) :=
  findRow (regRows s fn off) (if fn = 0 then off % 0x100000 else off)

end Sys2Proof.Machine
end

