-- ==== Sys2Proof/Machine/RegOps.lean ====
section
/-! DEFINITION. Host accesses to registers: reads with their latches, writes with their holds, and accesses that are
split (R8, R9, R417, R418, R420). -/

namespace Sys2Proof.Machine

/-- The key of a latched word of an entry that is read in parts (R418). -/
def wordKey (off : Nat) : Nat := 2 ^ 32 + off

/-- The words of the entry whose lowest word lies at an offset: ECC_LOG_d_i has four, a BEAT_CAL_ACTIVE entry two (R418). -/
def entryWords (fn off : Nat) : List Nat :=
  let o := off % 0x100000
  if fn ≠ 0 then []
  else if off / 0x100000 = 9 ∧ 0x1000 ≤ o ∧ o < 0x8000 ∧ o % 0x1000 < 0x200 ∧ o % 32 = 0 then [off + 8, off + 16, off + 24]
  else if off / 0x100000 = 10 ∧ 0x1000 ≤ o ∧ o < 0x1400 ∧ o % 16 = 0 then [off + 8]
  else []

/-- What a register of a function reads: a word latched with its entry, or the live value (R418). -/
def regValue (s : State) (fn off : Nat) (r : RegRow × Nat) : Nat :=
  (alookup (tget s.fns fn).latches (wordKey off)).getD (r.1.val r.2 % 2 ^ (if r.1.wide then 64 else 32))

/-- A register of 64 bits at an offset. -/
def wideAt (s : State) (fn off : Nat) : Option (RegRow × Nat) :=
  match regAt s fn off with
  | some r => if r.1.wide && decide (off % 8 = 0) then some r else none
  | none => none

/-- A register of 32 bits at an offset. -/
def narrowAt (s : State) (fn off : Nat) : Option (RegRow × Nat) :=
  match regAt s fn off with
  | some r => if r.1.wide || decide (off % 4 ≠ 0) then none else some r
  | none => none

/-- The low word of PWR_MEASURE in the physical function's BAR0. -/
def measureOff : Nat := 0xB00020

/-- What a read of a register's lowest bits sets going: the latches of its entry (R418) and the restart of peak_w
(R420). -/
def readEffects (s : State) (fn off : Nat) : State :=
  let s1 := (entryWords fn off).foldl (fun t o => match wideAt s fn o with
    | some r => t.modFn fn fun f => { f with latches := ainsert f.latches (wordKey o) (r.1.val r.2 % 2 ^ 64) }
    | none => t) s
  if fn = 0 ∧ off = measureOff then s1.modPower fun p => { p with peakW := 0 } else s1

/-- A 32-bit read (R8, R9): a register of 32 bits; the low half of one of 64, which latches its high half; or a high
half, latched or live. DEDUCED, log entry 24. -/
def read32 (s : State) (fn off : Nat) : State × Nat :=
  match narrowAt s fn off with
  | some r => (s, regValue s fn off r)
  | none =>
    match wideAt s fn off with
    | some r =>
      let v := regValue s fn off r
      ((readEffects s fn off).modFn fn fun f => { f with latches := ainsert f.latches off (v / 2 ^ 32) }, v % 2 ^ 32)
    | none =>
      match if off % 8 = 4 then wideAt s fn (off - 4) else none with
      | some r => (s, (alookup (tget s.fns fn).latches (off - 4)).getD (regValue s fn (off - 4) r / 2 ^ 32))
      | none => (s, 0)

/-- A 64-bit read (R8, R417): a register of 64 bits at once, or two registers of 32 bits. -/
def read64 (s : State) (fn off : Nat) : State × Nat :=
  let half (o : Nat) : Nat := match narrowAt s fn o with
    | some r => regValue s fn o r
    | none => 0
  if off % 8 ≠ 0 then (s, 0)
  else match wideAt s fn off with
    | some r => (readEffects s fn off, regValue s fn off r)
    | none => (s, half off + 2 ^ 32 * half (off + 4))

/-- A read of a width (R8, R9): one that is narrower than 32 bits returns 0, and so does one that is misaligned. -/
def readWidth (s : State) (fn off width : Nat) : State × Nat :=
  if width = 4 then read32 s fn off else if width = 8 then read64 s fn off else (s, 0)

/-- The endpoint completes a memory read of a function: it answers requests, and no function-level reset holds the
function (R43, R83, R422). -/
def completes (s : State) (fn : Nat) : Bool := hostUp s && !(tget s.fns fn).resetting

/-- The completion of a read goes to the function that asked; where the endpoint answers nothing there is none. -/
def completeRead (s : State) (fn off : Nat) (r : State × Nat) : State :=
  if completes s fn then r.1.emit (.regRead fn off r.2) else s

/-- A low half that is held for a register ends (R8). -/
def dropHold (s : State) (fn off : Nat) : State := s.modFn fn fun f => { f with holds := aerase f.holds off }

/-- A whole write of a 64-bit register: both halves commit, and a held low half ends (R8). -/
def commit64 (s : State) (fn off v : Nat) (r : RegRow × Nat) : State := r.1.wr r.2 (v % 2 ^ 64) (dropHold s fn off)

/-- A write of a 32-bit register. -/
def write32Reg (s : State) (fn off v : Nat) : State :=
  match narrowAt s fn off with
  | some r => r.1.wr r.2 (v % 2 ^ 32) s
  | none => s

/-- A 32-bit write of the low half of a 64-bit register holds it (R8). -/
def writeLow (s : State) (fn off v : Nat) : State :=
  match wideAt s fn off with
  | some _ => s.modFn fn fun f => { f with holds := ainsert f.holds off (v % 2 ^ 32) }
  | none => s

/-- A 32-bit write of the high half commits both halves, the low one as held or as it stands (R8). `off` is the
register's own offset. -/
def writeHigh (s : State) (fn off v : Nat) : State :=
  match wideAt s fn off with
  | some r => commit64 s fn off ((alookup (tget s.fns fn).holds off).getD (r.1.val r.2 % 2 ^ 32) + 2 ^ 32 * (v % 2 ^ 32)) r
  | none => s

/-- A host write of 4 or 8 bytes at an offset of a function's BAR0; what has no register is discarded (R8, R9, R417).
DESIGN CHOICE, log entry 22. -/
def regWrite (s : State) (fn off width v : Nat) : State :=
  if width = 8 ∧ off % 8 = 0 then
    match wideAt s fn off with
    | some r => commit64 s fn off v r
    | none => write32Reg (write32Reg s fn off v) fn (off + 4) (v / 2 ^ 32)
  else if width = 4 ∧ off % 4 = 0 then
    match narrowAt s fn off, wideAt s fn off with
    | some _, _ => write32Reg s fn off v
    | _, some _ => writeLow s fn off v
    | _, _ => if off % 8 = 4 then writeHigh s fn (off - 4) v else s
  else s

/-- A command that is a write of the register at an offset of a function's BAR0 runs only where that register answers
(R422); elsewhere the write is discarded (R9). -/
def viaReg (s : State) (fn off : Nat) (k : State → State) : State := if (regAt s fn off).isSome then k s else s

/-- A command that is a whole write of a 64-bit register: a held low half ends with it (R8). -/
def viaWide (s : State) (fn off : Nat) (k : State → State) : State := viaReg s fn off fun s => k (dropHold s fn off)

/-- Register writes wait for P0 (R393): in P2, and behind those that already wait. -/
def writesWait (s : State) : Bool := s.power.level == 2 || !s.held.isEmpty

/-- A register write that comes in P2 applies when P0 returns (R393). DEDUCED, log entry 99. -/
def inP0 (c : Instr) (k : State → State) (s : State) : State := if writesWait s then { s with held := s.held ++ [c] } else k s

/-- Offsets of blocks in the physical function's BAR0 (Table 20.2). -/
def dlrOff (o : Nat) : Nat := 0x100000 + o
def clmOff (o : Nat) : Nat := 0x200000 + o
def tierOff (o : Nat) : Nat := 0x300000 + o
def tlyOff (o : Nat) : Nat := 0x400000 + o
def szlOff (o : Nat) : Nat := 0x500000 + o
def entOff (o : Nat) : Nat := 0x600000 + o
def asyOff (o : Nat) : Nat := 0x700000 + o
def eccOff (o : Nat) : Nat := 0x900000 + o
def beatOff (o : Nat) : Nat := 0xA00000 + o
def pwrOff (o : Nat) : Nat := 0xB00000 + o
def secOff (o : Nat) : Nat := 0xC00000 + o
def evtOff (o : Nat) : Nat := 0xD00000 + o
def ldgOff (o : Nat) : Nat := 0xE00000 + o
def hstOff (o : Nat) : Nat := 0x1000000 + o

/-- Where the registers of shoe n (8 the steward's) lie in their function's BAR0. -/
def shoeOff (n o : Nat) : Nat := if n < 8 then o else dlrOff (0x1000 + o)

/-- Where the registers of ring n lie in their function's BAR0. -/
def ringOff (n o : Nat) : Nat := if n < 8 then 0x30000 + o else evtOff o

/-- Registers whose writes act in P2 too (R377, R392 to R394, R396): those of the Lamphouse, the debug windows, which refuse, and the
doorbells, which are recorded. -/
def actsInP2 (fn off : Nat) : Bool :=
  if fn = 0 then decide (off / 0x100000 = 0xB) || decide (off / 0x100000 = 0xC) || decide (off = shoeOff 8 0x18)
  else decide (off / 0x10000 = 4) || decide (off = 0x18)

/-- A write through a command of its own address (R6). -/
def writeAt (c : Instr) (fn off : Nat) (k : State → State) (s : State) : State := if actsInP2 fn off then k s else inP0 c k s

/-- A write of a register of shoe n, or of ring n. -/
def viaShoe (s : State) (n o : Nat) (k : State → State) : State := if n < 9 then viaReg s (fnOf n) (shoeOff n o) k else s
def viaRing (s : State) (n o : Nat) (k : State → State) : State := if n < 9 then viaReg s (fnOf n) (ringOff n o) k else s

/-- A write of a register in the window of claim n. -/
def viaClaim (s : State) (n o : Nat) (k : State → State) : State := if n < 8 then viaReg s (n + 1) o k else s

/-- A whole write of a 64-bit register in the window of claim n. -/
def viaClaimWide (s : State) (n o : Nat) (k : State → State) : State := if n < 8 then viaWide s (n + 1) o k else s

end Sys2Proof.Machine
end

