-- ==== Sys2Proof/Machine/DeckOps.lean ====
section
/-! DEFINITION. Starting items (R97, R125), decks within decks (R114 to R116, R119, R120), and the commands that move
data and pages: HOST_COPY, PAGE, CLEAR, COMMON_LOAD and TABLE_LOAD (R170, R171, R207 to R211). -/

namespace Sys2Proof.Machine

/-- ITEM_START (R96, R97, R125): the shoe's next item starts, or a held fault starts its redeal. -/
def startItem (s : State) (shoe : Nat) : State :=
  match nextItem s shoe with
  | none => s
  | some i =>
    if !mayRedeal s || decide (s.power.level ≠ 0) || shoeHalted s shoe || !turnNow s shoe then s
    else
      let s1 := served s shoe
      match i.held with
      | some o => deckFault shoe i.seq o s1
      | none => s1.modItem shoe i.seq fun i => { i with st := .running }

/-- A check fault of a called deck or a sub-deck: a redeal for a claim, a failed item on the steward shoe (R116). -/
def levelFault (s : State) (shoe seq : Nat) (o : Outcome) : State :=
  if shoe < 8 then deckFault shoe seq o s else failItem s shoe seq o

/-- A level opens for a command that stays active, with the bytes of its deck. -/
def openLevel (s : State) (shoe seq l g depth : Nat) (kind : LevelKind) (run : Nat → CmdState) (bs : List Byte) : State :=
  match findItem s shoe seq with
  | none => s
  | some i =>
    let s1 := setActive s shoe seq l g (run i.nextLevel)
    s1.modItem shoe seq fun i =>
      { i with nextLevel := i.nextLevel + 1, levels := i.levels ++ [{ id := i.nextLevel, kind := kind, depth := depth, bytes := bs }] }

/-- Read a deck that a command names: its bytes, or the failure of the item (R114, R116, R119). -/
def readDeck (s : State) (shoe seq l g : Nat) (b : List Byte) (r : HostResp) : Except State (State × List Byte) :=
  let a := field b 8 8
  let n := field b 0x10 4
  if !hostOk s (fnOf shoe) a n then .error (failAt s shoe seq l g 0x0104)
  else
    match readHost s (fnOf shoe) a n r with
    | (s1, none) => .error (failAt s1 shoe seq l g 0x0105)
    | (s1, some bs) => .ok (s1, bs)

/-- An active CALL runs once its item holds the call store (R114, R115, R116). -/
def runCall (s : State) (shoe seq l g : Nat) (lv : Level) (b : List Byte) (r : HostResp) : State :=
  let h := s.shoe shoe
  let n := field b 0x10 4
  let mine := decide (h.callOwner = some seq)
  if !mine && h.callOwner.isSome then s
  else if 4 ≤ lv.depth ∨ 1048576 < (if mine then h.callUsed else 0) + n then
    levelFault s shoe seq (failOutcome lv g 0x0108 0)
  else
    match readDeck s shoe seq l g b r with
    | .error t => t
    | .ok (s1, bs) =>
      let c := countsOf s1 shoe
      let lane := ((findItem s1 shoe seq).map fun i => fLaneMode i.flags).getD false
      match checkLevel (placeOf shoe true lane) c.1 c.2 bs with
      | some (cause, f) => levelFault s1 shoe seq (checkOutcome bs (lv.depth + 1) cause f)
      | none =>
        openLevel (s1.modShoe shoe fun h => { h with callOwner := some seq, callUsed := (if mine then h.callUsed else 0) + n })
          shoe seq l g (lv.depth + 1) (.call l g) .callRun bs

/-- CALL at granule g starts, or one that waits for the call store tries again. DEDUCED, log entry 47. -/
def callCmd (s : State) (shoe seq l g : Nat) (r : HostResp) : State :=
  match activeCmd s shoe seq l g with
  | some (lv, a, b) => if a.st = .callWait ∧ !s.redealing then runCall s shoe seq l g lv b r else s
  | none =>
    match nextCmd s shoe seq l 0x09 with
    | some (lv, h, b) => if h = g then runCall (heldCmd s shoe seq l g b .callWait) shoe seq l g lv b r else s
    | none => s

/-- Every command of a level has completed. -/
def Level.ended (lv : Level) : Bool := decide (lv.total ≤ lv.pc) && lv.active.isEmpty && lv.loops.isEmpty

/-- The level is a CALL's deck. -/
def Level.isCall (lv : Level) : Bool :=
  match lv.kind with
  | .call _ _ => true
  | _ => false

/-- CALL_COMPLETE: a called level whose commands have all completed (R114); the item keeps the call store while a depth-1
deck of it is open (R115). -/
def callEnd (s : State) (shoe seq l : Nat) : State :=
  match (findItem s shoe seq).bind fun i => if i.st = .running then i.level l else none with
  | none => s
  | some lv =>
    match lv.kind with
    | .call p g =>
      if !lv.ended then s
      else
        let s1 := s.modItem shoe seq fun i => { i with levels := i.levels.filter (·.id != l) }
        let open_ := (findItem s1 shoe seq).any fun i => i.levels.any fun v => v.isCall && decide (v.depth = 1)
        let s2 := s1.modShoe shoe fun h =>
          if h.callOwner ≠ some seq then h
          else if open_ then { h with callUsed := h.callUsed - lv.bytes.length }
          else { h with callOwner := none, callUsed := 0 }
        completeCmd s2 shoe seq p g
    | _ => s

/-- An active LANE_DECK runs once its lane's sub-deck store is free (R119, R120). DEDUCED, log entry 48. -/
def runLaneDeck (s : State) (shoe seq l g : Nat) (b : List Byte) (r : HostResp) : State :=
  let lane := field b 6 1
  if laneFenced s lane then failAt s shoe seq l g 0x0702 (1 + 2 ^ 8 * lane)
  else if (tget s.dl.lanes lane).subdeck.isSome then s
  else
    match readDeck s shoe seq l g b r with
    | .error t => t
    | .ok (s1, bs) =>
      let c := countsOf s1 shoe
      match checkLevel .laneSub c.1 c.2 bs with
      | some (cause, f) => levelFault s1 shoe seq (checkOutcome bs 1 cause f)
      | none =>
        let id := ((findItem s1 shoe seq).map (·.nextLevel)).getD 0
        openLevel (s1.modDl fun d => { d with lanes := tmod d.lanes lane fun x => { x with subdeck := some (shoe, seq, id) } })
          shoe seq l g 1 (.lane lane g) .laneRun bs

/-- LANE_DECK at granule g starts, or one that waits for its lane's store tries again. -/
def laneDeckCmd (s : State) (shoe seq l g : Nat) (r : HostResp) : State :=
  match activeCmd s shoe seq l g with
  | some (_, a, b) => if a.st = .laneWait ∧ !s.redealing then runLaneDeck s shoe seq l g b r else s
  | none =>
    match nextCmd s shoe seq l 0x02 with
    | some (_, h, b) => if h = g then runLaneDeck (heldCmd s shoe seq l g b .laneWait) shoe seq l g b r else s
    | none => s

/-- The level whose active command runs a level. -/
def parentOf (i : Item) (g : Nat) (st : CmdState) : Nat :=
  ((i.levels.find? fun p => p.active.any fun a => a.granule == g && a.st == st).map (·.id)).getD 0

/-- LANE_DECK_COMPLETE: a sub-deck whose commands have all completed (R119). -/
def laneDeckEnd (s : State) (shoe seq l : Nat) : State :=
  match findItem s shoe seq with
  | none => s
  | some i =>
    match if i.st = .running then i.level l else none with
    | none => s
    | some lv =>
      match lv.kind with
      | .lane lane g =>
        if !lv.ended then s
        else
          let s1 := s.modItem shoe seq fun i => { i with levels := i.levels.filter (·.id != l) }
          let s2 := s1.modDl fun d => { d with lanes := tmod d.lanes lane fun x => { x with subdeck := none } }
          completeCmd s2 shoe seq (parentOf i g (.laneRun l)) g
      | _ => s

/-- One burst of an active HOST_COPY (R210): its claim range is translated first, and only then is the host asked; the
answer is how many bytes it moved, or the cause and detail of its failure. -/
def copyBurst (s : State) (n : Nat) (b data : List Byte) (readOk : Bool) (done : Nat) : Run Nat :=
  let len := min 4096 (field b 0x18 4 - done)
  let ha := field b 8 8 + done
  let va := field b 0x10 5 + done
  if field b 6 1 = 0 then
    match rangeFault s n va len with
    | some e => (s, .error e)
    | none =>
      if !hostOk s (fnOf n) ha len then (s, .error (0x0411, 0))
      else if !readOk then (aerLog (s.emit (.hostRead (fnOf n) ha len)), .error (0x0411, 0))
      else (writeClaim (s.emit (.hostRead (fnOf n) ha len)) n va (bytesAt data 0 len)).andThen fun _ s => (s, .ok len)
  else
    (readClaim s n va len).andThen fun bs s =>
      if hostOk s (fnOf n) ha len then (postHost s (fnOf n) ha bs, .ok len) else (s, .error (0x0411, 0))

/-- The active HOST_COPYs that may move a burst: claim and when each first asked. -/
def copyRequests (s : State) : List (Nat × Nat) :=
  s.dl.items.flatMap fun i =>
    if i.st ≠ .running ∨ shoeHalted s i.shoe then []
    else i.levels.flatMap fun lv => lv.active.filterMap fun a => match a.st with
      | .hostCopy _ age => some (i.shoe, age)
      | _ => none

/-- The rank of a claim's class at the hoists and ports, which hold no credit: real-time, high, normal, scavenge (R79); the
steward's work goes first. -/
def hoistRank (s : State) (n : Nat) : Nat := if n < 8 then 4 - effClass s n else 0

/-- A HOST_COPY of a claim and age holds the next burst: by class, then by age (R79). DESIGN CHOICE, log entry 131. -/
def copyFirst (s : State) (n age : Nat) : Bool :=
  (copyRequests s).all fun r => !(decide (hoistRank s r.1 < hoistRank s n) || (decide (hoistRank s r.1 = hoistRank s n) && decide (r.2 < age)))

/-- Bursts of an active HOST_COPY, at most `fuel` of them; `data` is what the host's reads bring from here on. -/
def copyBursts (shoe seq l g age : Nat) (b : List Byte) (readOk : Bool) : Nat → List Byte → Nat → State → State
  | 0, _, done, s => setActive s shoe seq l g (.hostCopy done age)
  | fuel + 1, data, done, s =>
    match copyBurst s shoe b data readOk done with
    | (s1, .error e) => failAt s1 shoe seq l g e.1 e.2
    | (s1, .ok k) =>
      if field b 0x18 4 ≤ done + k then completeCmd s1 shoe seq l g
      else copyBursts shoe seq l g age b readOk fuel (data.drop k) (done + k) s1

/-- HOST_COPY at granule g starts or goes on, with at most `bursts` bursts (R210); it stops between bursts while halted (R386),
and while another HOST_COPY goes first (R79). -/
def copyCmd (shoe seq l g bursts : Nat) (r : HostResp) (s : State) : State :=
  let data := match r with
    | .ok d => d
    | .err => []
  let readOk := decide (r ≠ .err)
  match activeCmd s shoe seq l g with
  | some (_, a, b) =>
    (match a.st with
    | .hostCopy done age =>
      if s.redealing || shoeHalted s shoe || !copyFirst s shoe age then s else copyBursts shoe seq l g age b readOk bursts data done s
    | _ => s)
  | none =>
    match nextCmd s shoe seq l 0x06 with
    | some (_, h, b) =>
      if h = g then copyBursts shoe seq l g s.now b readOk (if copyFirst s shoe s.now then bursts else 0) data 0 (heldCmd s shoe seq l g b (.hostCopy 0 s.now))
      else s
    | none => s

/-- HOST_COPY: bursts whose writes wait for a move have not run (R197). -/
def hostCopyCmd (s : State) (shoe seq l g bursts : Nat) (r : HostResp) : State := afterMoves (copyCmd shoe seq l g bursts r) s

/-- PAGE with op `op` starts (R209). -/
def pageCmd (s : State) (shoe seq l op : Nat) : State :=
  match nextCmd s shoe seq l 0x0C with
  | none => s
  | some (_, g, b) =>
    let pages := pageSpan b
    let mapped (p : Nat) : Bool := (pteOf s shoe p).isSome
    if field b 6 1 ≠ op then s
    else if op = 0 then
      if pages.any mapped then failAt s shoe seq l g 0x0406
      else match mapRange shoe (field b 7 1 == 2) s pages with
        | .ok s1 => doneCmd s1 shoe seq l g b
        | .quota => failAt s shoe seq l g 0x0401
        | .frames tier2 => failAt (clearNeeded s tier2 shoe (if tier2 then 256 * pages.length else pages.length)) shoe seq l g 0x0402
    else if op = 1 then
      if !pages.all mapped then failAt s shoe seq l g 0x0406
      else if pages.any fun p => match pteOf s shoe p with
        | some e => decide (e.pins ≠ 0)
        | none => false then failAt s shoe seq l g 0x0408
      else settlePage (heldCmd s shoe seq l g b (.pages 0 0)) shoe seq l g b 0 0
    else
      let start (s : State) (p : Nat) : State :=
        if op = 2 then promoteRequest s shoe p shoe false
        else (demoteOwn s shoe p none).1
      let mask := if op = 3 then lateMask s shoe pages else 0
      let s1 := pages.foldl start (heldCmd s shoe seq l g b (.pages mask 0))
      let started := movingMask s1 shoe (op == 2) pages ^^^ movingMask s shoe (op == 2) pages
      settlePage (setActive s1 shoe seq l g (.pages mask started)) shoe seq l g b mask started

/-- COMMON_LOAD with host_address 0 (R211). -/
def commonRemove (s : State) (seq l : Nat) : State :=
  match nextCmd s 8 seq l 0x44 with
  | none => s
  | some (_, g, b) =>
    if field b 8 8 ≠ 0 then s
    else if !(commonSpan b).all (fun p => (pteOf s 8 p).isSome) then failAt s 8 seq l g 0x0406
    else settleCommon (heldCmd s 8 seq l g b (.pages 0 0)) seq l g b

/-- Create one COMMON page in T2 with its bytes, charged to the pool (R205, R211); its failure posts its events. -/
def loadCommon (page : Nat) (bs : List Byte) (s : State) : Run Unit :=
  match ensureTables s 8 page with
  | none => (clearNeeded s false 8 1, .error (0x0402, 0))
  | some s0 =>
    match placeT2 s0 8 page, (placeT2 s0 8 page).bind fun s1 => pteOf s1 8 page with
    | some s1, some p =>
      (runEach (fun k s => writeFrame s 8 true p.frame (4096 * k) (bytesAt bs (4096 * k) 4096) 8) (List.range 16) s1).andThen fun _ s2 =>
        (s2, if poolCapacity s2 < poolUse s2 then .error (0x0407, 0) else .ok ())
    | _, _ => (clearNeeded s0 true 8 256, .error (0x0402, 0))

/-- Create COMMON pages in order. -/
def loadCommons : List Nat → List Byte → State → Run Unit
  | [], _, s => (s, .ok ())
  | p :: ps, bs, s => (loadCommon p (bytesAt bs 0 65536) s).andThen fun _ s1 => loadCommons ps (bs.drop 65536) s1

/-- COMMON_LOAD with a host address (R211): all of its pages, or none: those that a failing command created are removed (R206). -/
def commonLoad (s : State) (seq l : Nat) (r : HostResp) : State :=
  match nextCmd s 8 seq l 0x44 with
  | none => s
  | some (_, g, b) =>
    let n := field b 0x18 4
    if field b 8 8 = 0 then s
    else if (commonSpan b).any (fun p => (pteOf s 8 p).isSome) then failAt s 8 seq l g 0x0406
    else if !hostOk s 0 (field b 8 8) n then failAt s 8 seq l g 0x0411
    else
      match readHost s 0 (field b 8 8) n r with
      | (s1, none) => failAt s1 8 seq l g 0x0411
      | (s1, some bs) =>
        match loadCommons (commonSpan b) bs s1 with
        | (s2, .error e) => failAt ((commonSpan b).foldl (fun s p => unmapOne s 8 p) s2) 8 seq l g e.1
        | (s2, .ok _) => doneCmd s2 8 seq l g b

/-- CLEAR starts, or goes on with at most `units` more frames or handles (R207). DEDUCED, log entry 49. -/
def clearStart (s : State) (seq l units : Nat) : State :=
  let go (s : State) (g : Nat) (tier2 : Bool) (left : Nat) (all : Bool) (freed : Nat) : State :=
    let r := clearUnitsEcc tier2 (if all then units else min units left) s 0
    setActive r.1 8 seq l g (.clear (left - r.2) all (freed + r.2))
  match nextCmd s 8 seq l 0x43 with
  | some (_, g, b) =>
    go (heldCmd s 8 seq l g b (.clear (field b 8 4) (field b 8 4 == 0) 0)) g (field b 6 1 == 2) (field b 8 4) (field b 8 4 == 0) 0
  | none =>
    match activeCmd s 8 seq l 0 with
    | some (_, a, b) => (match a.st with
      | .clear left all freed => if s.redealing then s else go s 0 (field b 6 1 == 2) left all freed
      | _ => s)
    | none => s

/-- CLEAR completes: what is left of its units is freed, and its detail is their number (R207). -/
def clearEnd (s : State) (seq l : Nat) : State :=
  match activeCmd s 8 seq l 0 with
  | some (_, a, b) => (match a.st with
    | .clear left all freed =>
      if s.redealing then s
      else
        let r := clearUnitsEcc (field b 6 1 == 2) (if all then 65536 else min left 65536) s 0
        completeCmd (r.1.modItem 8 seq fun i => { i with noteDetail := freed + r.2 }) 8 seq l 0
    | _ => s)
  | none => s

/-- TABLE_LOAD reads and checks a table, which then waits for its commit (R170, R171). DEDUCED, log entry 52. -/
def tableLoad (s : State) (seq l : Nat) (r : HostResp) : State :=
  match nextCmd s 8 seq l 0x45 with
  | none => s
  | some (_, g, b) =>
    let n := field b 0x10 4
    let slot := field b 6 1
    if !hostOk s 0 (field b 8 8) n then failAt s 8 seq l g 0x0411
    else
      match readHost s 0 (field b 8 8) n r with
      | (s1, none) => failAt s1 8 seq l g 0x0411
      | (s1, some bs) =>
        if !tableValid bs ∨ field bs 0 1 ≠ slot then failAt s1 8 seq l g 0x0114
        else (heldCmd s1 8 seq l g b .steward).modDl fun d =>
          { d with slots := tmod d.slots slot fun t => { t with loads := t.loads ++ [{ seq := seq, table := SfnTable.parse bs }] } }

/-- An earlier TABLE_LOAD of a slot has not committed (R171). -/
def earlierLoad (s : State) (slot seq : Nat) : Bool :=
  (itemsOf s 8).any fun i => decide (i.seq < seq) && !i.fixed && i.levels.any fun lv =>
    let b := cmdAt lv.bytes 0
    decide (cmdOp b = 0x45) && decide (field b 6 1 = slot) && !lv.ended

/-- TABLE_LOAD_COMMIT: a slot's next table becomes current on every core once no MACRO latches the inactive bank
(R170, R171). -/
def tableCommit (s : State) (slot : Nat) : State :=
  let t := tget s.dl.slots slot
  let latched := s.dl.macros.any fun m => match m.table with
    | some x => x.1 == slot && x.2.1 != t.bank
    | none => false
  match t.loads.find? fun x => !earlierLoad s slot x.seq with
  | none => s
  | some x =>
    if latched || s.redealing then s
    else
      let s1 := s.modDl fun d =>
        { d with
          slots := tmod d.slots slot fun t =>
            { source := .load, bank := !t.bank, table := some x.table, loads := t.loads.filter (·.seq != x.seq) } }
      completeCmd s1 8 x.seq 0 0

end Sys2Proof.Machine
end

