-- ==== Sys2Proof/Machine/FlitOps.lean ====
section
/-! DEFINITION. What arrives on the Swezo ports: trick messages, flits and their payloads (R222 to R225, R239, R242,
R250), and what the steward and failures do to ports and Swezo-P links (R254, R256, R257). -/

namespace Sys2Proof.Machine

/-- The live trick with a round, index and round tag (R225). -/
def trickNamed (s : State) (round index tag : Nat) : Option (Nat × Trick) :=
  (List.range 64).findSome? fun k => (tget s.sync.tricks k).bind fun t =>
    if t.round = round ∧ t.index = index ∧ t.roundTag = tag then some (k, t) else none

/-- A trick message is discarded and counted (R225). -/
def trickStale (s : State) : State := s.modSync fun y => { y with stale := satInc 32 y.stale }

/-- ARRIVE reaches this seat (R222, steps 2 to 4; R225). The lead of a poisoned trick collects nothing further. -/
def arriveReceived (s : State) (round index gen : Nat) (origin : Seat) (tag : Nat) : State :=
  match trickNamed s round index tag with
  | none => trickStale s
  | some (k, t) =>
    if !t.lead || decide (gen ≠ t.gen % 2 ^ 32) || t.arrivals.contains origin || !t.seats.contains origin then trickStale s
    else if t.poisoned then s
    else arriveCheck (collectArrival s k origin) k

/-- RELEASE reaches this seat (R222, step 4; R224, R225). -/
def releaseReceived (s : State) (round index gen tag : Nat) : State :=
  match trickNamed s round index tag with
  | none => trickStale s
  | some (k, t) =>
    if gen ≠ t.gen % 2 ^ 32 then trickStale s
    else if t.poisoned then s
    else arriveCheck (applyRelease s k t.gen) k

/-- POISON reaches this seat, whatever its generation (R224, R278). DEDUCED, log entry 67. -/
def poisonReceived (s : State) (round index : Nat) (origin : Seat) (tag : Nat) : State :=
  match trickNamed s round index tag with
  | none => trickStale s
  | some (k, _) =>
    let s1 := poisonTrickHere s k origin
    match ctrlOfTrick s k with
    | some c => roundPoisoned s1 c origin
    | none => s1

/-- A trick message for this seat by its kind (Table 11.2). DESIGN CHOICE, log entry 63. -/
def trickMsg (s : State) (b : List Byte) : State :=
  match field b 0 1 with
  | 1 => arriveReceived s (field b 2 2) (field b 1 1) (field b 4 4) (seatAt b 8) (field b 0x10 8)
  | 2 => releaseReceived s (field b 2 2) (field b 1 1) (field b 4 4) (field b 0x10 8)
  | 3 => poisonReceived s (field b 2 2) (field b 1 1) (seatAt b 8) (field b 0x10 8)
  | _ => trickStale s

/-- A port fails: it becomes DOWN, its flits go to its group or back to routing (R254). -/
def portFails (s : State) (p : Nat) : State :=
  let x := s.port p
  if x.st = .up ∨ x.st = .quarantined ∨ x.st = .training then failXfers (leaveGroup s p .down) else s

/-- A lane of a trained port fails, and with the last usable one its port (R252 to R254). -/
def laneFailure (s : State) (p i : Nat) : State :=
  let x := s.port p
  if (x.st = .up ∨ x.st = .quarantined) ∧ (tget x.lanes i).good then
    let r := laneFails s p i
    if r.2 then portFails r.1 p else r.1
  else s

/-- LANES from the peer (R253). -/
def lanesMessage (s : State) (p bitmap : Nat) : State :=
  if (s.port p).st = .up ∨ (s.port p).st = .quarantined then
    let r := lanesReceived s p bitmap
    if r.2 then portFails r.1 p else r.1
  else s

/-- LANES_ACK from the peer (R253). -/
def lanesAckMessage (s : State) (p bitmap : Nat) : State :=
  if (s.port p).st = .up ∨ (s.port p).st = .quarantined then lanesAck s p bitmap else s

/-- A management message by its type (Table 12.8). `ns` is the interval since the last beat edge for BEAT, and the
turnaround for ECHO. -/
def linkMgmt (s : State) (p : Nat) (b : List Byte) (ns : Nat) : State :=
  match field b 0 1 with
  | 1 => failXfers (helloReceived s p b)
  | 2 => linkBeat s p (field b 1 1) (field b 4 6) ns
  | 3 => lanesMessage s p (field b 1 1)
  | 4 => lanesAckMessage s p (field b 1 1)
  | 5 => echoReceived s p b ns
  | 6 => failXfers (quarantineReceived s p)
  | _ => s

/-- The partial message that a flit belongs to (R244). -/
def InMsg.isOf (d : Nat) (f : Flit) (m : InMsg) : Bool := m.dir == d && m.vc == f.vc && m.msgId == f.msgId
def inMsg (s : State) (d : Nat) (f : Flit) : Option InMsg := s.link.inbox.find? (·.isOf d f)
def State.modIn (s : State) (d : Nat) (f : Flit) (g : InMsg → InMsg) : State :=
  s.modLink fun l => { l with inbox := l.inbox.map fun m => if m.isOf d f then g m else m }
def dropIn (s : State) (d : Nat) (f : Flit) : State := s.modLink fun l => { l with inbox := l.inbox.filter fun m => !m.isOf d f }

/-- Where a flit's data begins in its message, and its data (R243). -/
def dataOff (k : Nat) : Nat := if k = 0 then 0 else 192 + 240 * (k - 1)
def dataOf (f : Flit) (len : Nat) : List Byte := ((if f.index = 0 then f.payload.drop 48 else f.payload).take (len - dataOff f.index))

/-- The whole granules that a data flit completes with its neighbours, as an offset and bytes; the last granule of a message
may be short (R245, step 2). -/
def granulesOf (data : List (Nat × List Byte)) (k len : Nat) : Nat × List Byte :=
  let cur := (alookup data k).getD []
  let prev := if k = 0 then [] else (alookup data (k - 1)).getD []
  let next := (alookup data (k + 1)).getD []
  let a := dataOff k - prev.length
  let e := dataOff k + cur.length + next.length
  let up (n : Nat) : Nat := (n + 31) / 32 * 32
  let lo := max (dataOff k / 32 * 32) (up a)
  let hi := if len ≤ e then len else min (up (dataOff k + cur.length)) (e / 32 * 32)
  (lo, ((prev ++ cur ++ next).drop (lo - a)).take (hi - lo))

/-- A message's data in order, as it was placed (R245, step 3). -/
def InMsg.bytes (m : InMsg) (len : Nat) : List Byte :=
  ((List.range (1 + (len - 192 + 239) / 240)).flatMap fun k => (alookup m.data k).getD []).take len

/-- A data flit of a message for this seat is placed (R245, step 2). -/
def placeFlit (s : State) (d : Nat) (f : Flit) (m : InMsg) (n base : Nat) : State :=
  let h := MsgHeader.read m.header
  let data := ainsert m.data f.index (dataOf f h.length)
  let g := granulesOf data f.index h.length
  let s1 := s.modIn d f fun m => { m with data := data }
  if g.2.isEmpty then s1
  else
    match writeClaim s1 n (base + g.1) (padGranule g.2) with
    | (s2, .error e) => (refuseMessage s2 h 5 e.1).modIn d f fun m => { m with mode := .dropped, data := [] }
    | (s2, .ok _) => s2

/-- One flit of a partial message whose header has come is handled by the message's mode, and leaves its buffer or joins
the queue of the next link (R241, R245, R265). -/
def takeIn (s : State) (d p : Nat) (f : Flit) (m : InMsg) : State :=
  let h := MsgHeader.read m.header
  match m.mode with
  | .waiting => s
  | .dropped => owe (if f.closing then dropIn s d f else s) p f
  | .relay o =>
    let key := some (d, f.vc, f.msgId)
    let s1 := if f.closing then dropIn s d f else s
    if (tget s.link.groups o).msgs.any fun x => x.relay == key then
      s1.modGroup o fun g => { g with msgs := g.msgs.map fun x => if x.relay = key then { x with queue := x.queue ++ [(p, f)] } else x }
    else owe s1 p f
  | .placing n base hand =>
    if f.closing then
      let ok := trailerOk h (m.bytes h.length) f.payload
      let s1 := owe (dropIn s d f) p f
      match hand with
      | some r => closeHand s1 h r ok
      | none => closePut s1 h ok
    else placeFlit (owe s p f) d f m n base

/-- The flits of a partial message that wait in the receive buffers are handled in order, each unless its write meets a
page whose move is in progress (R197). `n` bounds them. -/
def pumpMsg : Nat → State → Nat → Flit → State
  | 0, s, _, _ => s
  | n + 1, s, d, f0 =>
    match inMsg s d f0 with
    | none => s
    | some m =>
      match m.mode, m.early with
      | .waiting, _ => s
      | _, [] => s
      | _, (p, f) :: rest =>
        let t := takeIn (s.modIn d f0 fun m => { m with early := rest }) d p f { m with early := rest }
        if s.tiers.moves.any (moveCommitted t) then s else pumpMsg n t d f0

/-- A partial message's waiting flits, as far as they go. -/
def pump (s : State) (d : Nat) (f : Flit) : State := pumpMsg (((inMsg s d f).map (·.early.length)).getD 0) s d f

/-- Every partial message goes on as far as it can. -/
def pumpAll (s : State) : State := s.link.inbox.foldl (fun s m => pump s m.dir { vc := m.vc, msgId := m.msgId }) s

/-- The header of a message for this seat: its check (R245, step 1; R247). -/
def beginMessage (s : State) (h : MsgHeader) (redealt : Bool) : State × InMode :=
  if s.redealing || redealt then (answerRedealing s h, .dropped)
  else match h.kind with
    | 1 => beginHand s h
    | 2 => beginPut s h
    | _ => (s, .dropped)

/-- The first flit of a message with more flits: its header says how they are handled (R245, R265). A first flit that comes
again is placed again (R242). -/
def openMessage (s : State) (d p : Nat) (f : Flit) : State :=
  let header := f.payload.take 48
  let h := MsgHeader.read header
  let old := inMsg s d f
  let known := old.any fun m => m.header == header
  let s0 := if old.isNone then s.modLink fun l => { l with inbox := l.inbox ++ [{ dir := d, vc := f.vc, msgId := f.msgId }] } else s
  let wait (s : State) : State := pump (s.modIn d f fun m => { m with early := (p, f) :: m.early }) d f
  if known then wait s
  else if h.dest = ownSeat s then
    let r := beginMessage s0 h (old.any (·.redealt))
    wait (r.1.modIn d f fun m => { m with header := header, mode := r.2, data := [] })
  else
    let r := cutThrough s0 d p h.dest (some header) f
    let mode := match r.2 with
      | some o => InMode.relay o
      | none => .dropped
    pump (r.1.modIn d f fun m => { m with header := header, mode := mode, data := [] }) d f

/-- A flit of a claim message (R244, R245, R265). A closing flit without its message is a second copy of one that has
closed. -/
def messageFlit (s : State) (d p : Nat) (f : Flit) : State :=
  let h := MsgHeader.read f.payload
  if f.first && f.closing then
    if h.dest = ownSeat s then messageForUs (owe s p f) h [] true
    else (cutThrough s d p h.dest (some (f.payload.take 48)) f).1
  else if f.first then openMessage s d p f
  else
    match inMsg s d f with
    | some _ => pump (s.modIn d f fun m => { m with early := m.early ++ [(p, f)] }) d f
    | none =>
      if f.closing then owe s p f
      else s.modLink fun l => { l with inbox := l.inbox ++ [{ dir := d, vc := f.vc, msgId := f.msgId, early := [(p, f)] }] }

/-- The payload of an accepted DATA flit (R239, R240, R250); one that is not cut through leaves the receive buffer at once
(R241). -/
def flitPayload (s : State) (p : Nat) (f : Flit) (dest : Seat) (ns : Nat) : State :=
  let x := s.port p
  if (decide (f.vc ≠ 3) && decide (x.st = .quarantined)) || !payloadOk f.vc f.first f.closing f.payload then
    (owe s p f).modPort p fun x => { x with malformed := satInc 16 x.malformed }
  else if f.vc = 3 then linkMgmt (owe s p f) p f.payload ns
  else if x.st ≠ .up then owe s p f
  else if f.vc = 2 then
    if dest = ownSeat s then trickMsg (owe s p f) f.payload else (cutThrough s x.dir p dest none f).1
  else messageFlit s x.dir p f

/-- The flit that the header and payload bytes carry (Table 12.4). -/
def flitOf (b : List Byte) : Flit :=
  let h := field b 0 8
  { vc := bits h 16 2, dclass := bits h 18 1, first := bit h 21, closing := bit h 22, msgId := bits h 32 12,
    index := bits h 44 20, payload := bytesAt b 8 240 }

/-- A lane accepts the flit: its sequence moves on, and an ack is owed (R242). -/
def acceptFlit (s : State) (p i seq : Nat) : State :=
  s.modPort p fun x => { x with lanes := tmod x.lanes i fun l => { l with received := seq, naked := false, ackDue := true } }

/-- A NAK: every buffered flit after the acked one is sent again in order; a flit that has been sent 16 times fails its
lane instead (R242, R252). -/
def nakReceived (s : State) (p i ack : Nat) : State :=
  let s1 := applyAck s p i ack
  if replayLimited s1 p i then laneFailure s1 p i else replay s1 p i

/-- FLIT_RECEIVED (R239, R242): 256 bytes on a lane in use. `dest` is the seat that a trick message was sent to. -/
def flitReceived (s : State) (p i : Nat) (b : List Byte) (dest : Seat) (ns : Nat) : State :=
  let x := s.port p
  if !(tget x.lanes i).inUse then s
  else if crc64 (bytesAt b 0 248) ≠ field b 248 8 then
    sendNak (s.modPort p fun x => { x with crcErrors := satInc 16 x.crcErrors }) p i
  else
    let h := field b 0 8
    let s1 := applyCredits s p (bits h 23 2) (bits h 25 1) (bits h 26 6)
    match bits h 19 2 with
    | 0 => applyAck s1 p i (bits h 8 8)
    | 2 => nakReceived s1 p i (bits h 8 8)
    | kind =>
      let s2 := applyAck s1 p i (bits h 8 8)
      let seq := bits h 0 8
      if seq ≠ ((tget (s2.port p).lanes i).received + 1) % 256 then sendNak s2 p i
      else
        let s3 := acceptFlit s2 p i seq
        if kind = 1 then flitPayload s3 p (flitOf b) dest ns
        else (owe s3 p (flitOf b)).modPort p fun x => { x with malformed := satInc 16 x.malformed }

/-- REPLAY_LIMIT_REACHED (R242, R252): a flit of the lane has been sent 16 times without an ack. -/
def replayLimit (s : State) (p i : Nat) : State :=
  if replayLimited s p i then laneFailure s p i else s

/-- A DOWN port trains (R234). -/
def trainDown (s : State) (p : Nat) (t : TrainResult) : State :=
  if mayTrain s p ∧ (s.port p).st = .down then trainPort s p t else s

/-- PORT_TRAINING_TIMEOUT (R234): the port is DOWN. -/
def trainTimeout (s : State) (p : Nat) : State :=
  if (s.port p).st = .training then failXfers (leaveGroup s p .down) else s

/-- SZL_PORT_CTRL.retrain (R256): a port that is neither DARK nor held trains again. -/
def portRetrain (s : State) (p : Nat) (t : TrainResult) : State :=
  let x := s.port p
  if x.st = .dark ∨ x.holdDown then s
  else
    let s1 := if x.st = .down then s else failXfers (leaveGroup s p .down)
    if mayTrain s1 p then trainPort s1 p t else s1

/-- A Swezo-P link that is failed has no whole alternate route (R257). -/
def szlpLost (s : State) : Bool :=
  (List.range 14).any fun i => (tget s.link.szlp i).failed && !szlpRouted s i

/-- SZLP_LINK_FAILURE (R257). DEDUCED, log entry 65. -/
def szlpFails (s : State) (i : Nat) : State :=
  if (tget s.link.szlp i).failed then s
  else
    let s1 := szlpEvent (s.modLink fun l => { l with szlp := tset l.szlp i { failed := true, retraining := true } }) i 3 1
    if szlpLost s1 then runtimeFailed s1 0x0511 else s1

/-- SZLP_RETRAIN (R257): the one retraining of a failed link. -/
def szlpRetrain (s : State) (i : Nat) (ok : Bool) : State :=
  let x := tget s.link.szlp i
  if x.failed && x.retraining then
    let s1 := s.modLink fun l => { l with szlp := tset l.szlp i { failed := !ok, retraining := false } }
    if ok then szlpEvent s1 i 1 3 else s1
  else s

end Sys2Proof.Machine
end

