-- ==== Sys2Proof/Machine/Expiry.lean ====
section
/-! DEFINITION. Timers of items and lanes (R101, R121, R354), and functions that begin or stop issuing requests
(R288). -/

namespace Sys2Proof.Machine

/-- An item whose timer can expire: a command of it is active, and no halt holds its claim (R100, R101). -/
def timerRuns (s : State) (x : Nat × Nat × Nat) : Bool :=
  !shoeHalted s x.1 && (findItem s x.1 x.2.1).any (itemActive s)

/-- The first of a list of expiries by shoe, the steward's last (R354). -/
def firstExpiry : List (Nat × Nat × Nat) → Option (Nat × Nat × Nat)
  | [] => none
  | x :: xs => match firstExpiry xs with
    | some y => if y.1 < x.1 then some y else some x
    | none => some x

/-- Timers expire in one local timer tick: (shoe, sequence number, cause) each (R101, R354). The item that faults keeps its
active time, in ms and saturating, as the detail of a shoe timeout (Table 5.7). DEDUCED, log entry 10. -/
def timersExpire (s : State) (activeUs : Nat) (xs : List (Nat × Nat × Nat)) (finish : Bool) : State :=
  let ys := xs.filter (timerRuns s)
  match firstExpiry ys with
  | none => s
  | some x =>
    startRedeal (s.modItem x.1 x.2.1 fun i => { i with activeUs := activeUs })
      { cause := x.2.2, faulting := x.1, item := some (x.1, x.2.1), detail := min (activeUs / 1000) (2 ^ 32 - 1), expired := ys }
      finish

/-- The lane timer runs for a macro-instruction: it is on a core of the lane, and its first tile group has been granted
(R121). -/
def laneTimes (lane : Nat) (m : MacroInst) : Bool := m.granted && m.cores.any fun c => (laneCores lane).contains c

/-- RT_LANE_TIMEOUT (R121): a macro-instruction on the cores of the lane of a binding in force exceeds the lane's timeout;
the bound claim is at fault, whosever the macro-instruction is. DEDUCED, log entry 108. -/
def laneExpires (s : State) (lane mid : Nat) (finish : Bool) : State :=
  match rtClaimOf s lane, findMacro s mid with
  | some n, some m =>
    if laneTimes lane m ∧ !m.stopping ∧ !shoeHalted s n then
      let item := match m.owner with
        | .item shoe seq _ _ => if shoe = n then some (shoe, seq) else none
        | .round _ => none
      startRedeal s { cause := 0x0302, faulting := n, item := item } finish
    else s
  | _, _ => s

/-- A moderation delay has passed (R106); a delay of 0 is none. -/
def moderationEnds (s : State) (shoe : Nat) : State :=
  if (s.shoe shoe).modItems = 0 ∨ (s.shoe shoe).modDelay = 0 then s
  else raiseSource (s.modShoe shoe fun h => { h with modItems := 0 }) shoe 0

/-- The shoe and ring of a function: its claim's, or the steward's. -/
def ringOf (fn : Nat) : Nat := if fn = 0 then 8 else fn - 1

/-- A function's enables change (R288, R290). Where it may now issue requests, what waited goes out: events, outcomes, a
queue-pair command with its context `r`, and queue pairs with the answers `feeds`; pending vectors that may be sent are.
DEDUCED, log entry 106. -/
def requestsChange (s : State) (fn : Nat) (f : Fn → Fn) (r : HostResp) (feeds : List (Nat × HostResp × HostResp)) : State :=
  let s1 := s.modFn fn f
  if canIssue s1 fn && !canIssue s fn then
    let n := ringOf fn
    let s2 := writeOutcomes (flushEvents s1 n) n
    let s3 := if fn = 0 then s2 else qpsRun (qpResume s2 n r) n feeds
    msixFlush s3 fn
  else msixFlush s1 fn

end Sys2Proof.Machine
end

