-- ==== Sys2Proof/Machine/TileOps.lean ====
section
/-! DEFINITION. The life of a macro-instruction on its cores: dispatch, start, the ends of its tile groups and its
completion, for an item or a round (R93, R118, R132, R140, R278). -/

namespace Sys2Proof.Machine

/-- What owns a macro-instruction ends with a cause: its item fails (R98), or its round does (R278). -/
def failOwner (s : State) (m : MacroInst) (cause detail : Nat) : State :=
  match m.owner with
  | .item shoe seq l g => failAt s shoe seq l g cause detail
  | .round c => failRound s c cause (0, 0, 0)

/-- A MACRO that names a descriptor in a slot that takes none is malformed (R93): a check fault in a claim's deck, and a
failed item elsewhere (R96, R97). -/
def macroMalformed (shoe seq l g : Nat) (s : State) : State :=
  match findItem s shoe seq, activeCmd s shoe seq l g with
  | some i, some (lv, _, _) =>
    if i.isDeck then levelFault s shoe seq (failOutcome lv g 0x0102 0) else failAt s shoe seq l g 0x0102
  | _, _ => s

/-- MACRO_DISPATCH (R118). -/
def macroDispatch (s : State) (shoe seq l g : Nat) : State := dispatchMacro s shoe seq l g (macroMalformed shoe seq l g)

/-- MACRO_START (R140): a program that cannot be read ends the owner. -/
def macroStart (s : State) (mid : Nat) : State :=
  match startMacro s mid, findMacro s mid with
  | (s1, .error e), some m => failOwner s1 m e.1 e.2
  | (s1, _), _ => s1

/-- A macro-instruction that lost a participant to a fence fails its item once no core runs it (R369). -/
def fencedOut (s : State) (mid : Nat) : State :=
  match findMacro s mid with
  | none => s
  | some m =>
    match m.fencedBy with
    | none => s
    | some d => if s.dl.cores.toList.any fun x => x.current == some mid then s else failOwner s m 0x0702 d

/-- A core that was fenced has ended its tile group: rounds that use it fail (R278). -/
def fencedRounds (s : State) (c : Nat) : State := if (tget s.fences.cores c).fenced then roundCoreFenced s c else s

/-- A tile group of `ns` on a core takes effect, and the core arbitrates (R132, R135). -/
def tileEnd (c ns : Nat) (s : State) : State :=
  if !groupRuns s c then s
  else
    match groupEnd s c with
    | (s1, none) => fencedRounds (coreNext s1 c ns) c
    | (s1, some (m, none)) => fencedRounds (fencedOut (coreNext (endStep s1 m c) c ns) m.id) c
    | (s1, some (m, some e)) => fencedRounds (coreNext (leaveFailed (failOwner s1 m e.1 e.2) m.id c) c ns) c

/-- TILE_GROUP_END: a group whose writes wait for a move has not ended (R197). DEDUCED, log entry 89. -/
def tileGroupEnd (s : State) (c ns : Nat) : State := afterMoves (tileEnd c ns) s

/-- A core of a part has read T0 bytes that were never written (R133). -/
def partFaulted (s : State) (m : MacroInst) : Bool := m.cores.any fun c => (tget s.dl.cores c).faulted m.id

/-- MACRO_COMPLETE (R140): every participant has finished; a part that has read T0 bytes that were never written ends its
owner instead (R133). -/
def macroComplete (s : State) (mid : Nat) : State :=
  match findMacro s mid with
  | none => s
  | some m =>
    if !m.finished || m.stopping || m.fencedBy.isSome || s.redealing then s
    else if partFaulted s m then failOwner (s.modEcc fun e => { e with unwritten := satInc 32 e.unwritten }) m 0x040A 0
    else match m.owner with
      | .item shoe seq l g => finishPart s m shoe seq l g
      | .round c => roundMacroDone s c m

/-- ROUND_ARM with a block address (R268): the item completes, or fails with the cause of the first check. -/
def roundArm (s : State) (shoe seq l g : Nat) (b : List Byte) : State :=
  match tryArm shoe (field b 6 2) (field b 8 5) s with
  | (s1, .ok _) => doneCmd s1 shoe seq l g b
  | (s1, .error e) => failAt s1 shoe seq l g e.1 e.2

/-- ROUND_ARM with block address 0 (R269). -/
def roundDisarm (s : State) (shoe seq l g : Nat) (b : List Byte) : State :=
  match disarmRound s shoe (field b 6 2) with
  | (s1, none) => doneCmd s1 shoe seq l g b
  | (s1, some cause) => failAt s1 shoe seq l g cause

end Sys2Proof.Machine
end

