-- ==== Sys2Proof/Machine/Answer.lean ====
section
/-! DEFINITION. What a meaning answers, and the guard of commands that the main dies carry out. -/

namespace Sys2Proof.Machine

/-- What exec answers. -/
abbrev Answer := Host.Outcome State Fault Refusal

/-- A command that has its effect whatever the main dies do. -/
def always (k : State → State) (s : State) : Answer := .next (k s)

/-- The main dies run: they are out of reset and no boundary scan holds them (R41, R390). -/
def diesUp (s : State) : Bool := s.boot.released && !s.dbg.scanned

/-- A command that the main dies carry out; it finds nothing there while they are held. DEDUCED, log entry 8. -/
def onDies (k : State → State) (s : State) : Answer := .next (if diesUp s then k s else s)

/-- A command of an agent of the main dies that is off in P2 (Table 18.8). -/
def onRun (k : State → State) (s : State) : Answer := .next (if diesUp s && decide (s.power.level = 0) then k s else s)

/-- A configuration access or another request that the PCIe endpoint takes only once it is ready (R43). -/
def onHost (k : State → State) (s : State) : Answer := .next (if hostUp s then k s else s)

/-- The granule and bytes of a level's next command, when it may start and has the opcode. DEDUCED, log entry 9. -/
def withCmd (s : State) (shoe seq l op : Nat) (k : Nat → List Byte → State) : State :=
  match nextCmd s shoe seq l op with
  | some (_, g, b) => k g b
  | none => s

/-- A command of a shoe starts past the break check (R389). -/
def startOf (shoe seq l op : Nat) (k : State → State) (s : State) : Answer :=
  onDies (gate shoe seq l op (fun _ => true) k) s

/-- The command at granule g, which goes on if it is active, and otherwise starts past the break check (R389). -/
def cmdAtGate (shoe seq l g op : Nat) (k : State → State) (s : State) : State :=
  if (activeCmd s shoe seq l g).isSome then k s
  else match nextCmd s shoe seq l op with
    | some (_, h, _) => if h = g then gate shoe seq l op (fun _ => true) k s else s
    | none => s

/-- The same as a command of its own. -/
def startAt (shoe seq l g op : Nat) (k : State → State) (s : State) : Answer := onDies (cmdAtGate shoe seq l g op k) s

/-- A MACRO of a code (R117, R118, R389). -/
def startMacroCmd (shoe seq l code : Nat) (s : State) : Answer :=
  onDies (gate shoe seq l 0x01 (fun b => mcCode b == code) fun s => macroCmd s shoe seq l code) s

/-- A TALLY command with an operation (R213 to R218, R389). -/
def startTally (shoe seq l op : Nat) (s : State) : Answer :=
  onDies (gate shoe seq l 0x03 (fun b => field b 6 1 == op) fun s => tallyCmd s shoe seq l op) s

/-- A PAGE command with an operation (R209, R389). -/
def startPage (shoe seq l op : Nat) (s : State) : Answer :=
  onDies (gate shoe seq l 0x0C (fun b => field b 6 1 == op) fun s => pageCmd s shoe seq l op) s

end Sys2Proof.Machine
end

