-- ==== Sys2Proof/Machine/AssayCmds.lean ====
section
/-! DEFINITION. Commands: the Assay engine (chapter 15). -/

namespace Sys2Proof.Machine

/-- ASSAY_SEARCH (R315): the command's index is not 0xFFFF. -/
def execAssaySearch (shoe seq level : Nat) (s : State) : Answer :=
  onDies (gate shoe seq level 0x0B (fun b => asIndex b != 0xFFFF) fun s => assaySearch s shoe seq level) s

/-- ASSAY_MERGE (R326): the command's index is 0xFFFF. -/
def execAssayMerge (shoe seq level : Nat) (s : State) : Answer :=
  onDies (gate shoe seq level 0x0B (fun b => asIndex b == 0xFFFF) (afterMoves fun s => assayMerge s shoe seq level)) s

/-- ASY_INDEX_BIND (R311): ASY_INDEX_i is written with valid, a header address and a claim. -/
def execAsyIndexBind (index va claim : Nat) (s : State) : Answer :=
  always (fun s => viaWide s 0 (asyOff (0x1000 + 16 * index)) (inP0 (.asyIndexBind index va claim) fun s =>
    indexWrite s index (va % 2 ^ 40 + 2 ^ 40 * (claim % 8) + 2 ^ 63))) s

/-- ASY_INDEX_UNBIND (R312): ASY_INDEX_i is written with valid 0. -/
def execAsyIndexUnbind (index v : Nat) (s : State) : Answer :=
  always (fun s => viaWide s 0 (asyOff (0x1000 + 16 * index)) (inP0 (.asyIndexUnbind index v) fun s => indexWrite s index (v % 2 ^ 63))) s

/-- BATCH_COMPLETE (R317). -/
def execBatchComplete (s : State) : Answer := onRun (afterMoves batchComplete) s

/-- CONTINUOUS_BATCH (R320). -/
def execContinuousBatch (s : State) : Answer := onRun continuousBatch s

/-- ASY_ADVANCE_WRITE (R322): a go, with an index or all of them. -/
def execAsyAdvanceWrite (index : Nat) (s : State) : Answer :=
  always (fun s => viaReg s 0 (asyOff 0x10) (inP0 (.asyAdvanceWrite index) fun s => advanceNamed s (index % 65536))) s

/-- BACKFILL (R323). -/
def execBackfill (s : State) : Answer := onRun (afterMoves backfill) s

end Sys2Proof.Machine
end

