-- ==== Sys2Proof/Machine/BeatCmds.lean ====
section
/-! DEFINITION. Commands: the beat, its sources and the shift calendar (chapter 3). -/

namespace Sys2Proof.Machine

/-- PIN_BEAT_EDGE (R47), `ns` after the edge before it. -/
def execPinBeatEdge (ns : Nat) (s : State) : Answer := onDies (fun s => pinEdge s ns) s

/-- PIN_BEAT_FRAME (R48): the high times of 64 pulses, in thousandths of the period. -/
def execPinBeatFrame (pulses : List Nat) (s : State) : Answer := onDies (fun s => pinFrame s pulses) s

/-- RESERVATION_APPLY_TIMEOUT (R76). -/
def execReservationApplyTimeout (claim : Nat) (s : State) : Answer :=
  onDies (fun s => if s.beat.aligned then s else applyReservation s claim) s

/-- LINK_BEAT_MESSAGE (R49). -/
def execLinkBeatMessage (port hop count ns : Nat) (s : State) : Answer := onDies (fun s => linkBeat s port hop count ns) s

/-- TOKEN_BEAT_COMMIT (R50). -/
def execTokenBeatCommit (s : State) : Answer := onDies tokenCommit s

/-- FILLER_BEAT (R51). -/
def execFillerBeat (s : State) : Answer := onDies fillerBeat s

/-- BEAT_LOSS (R53). -/
def execBeatLoss (s : State) : Answer := onDies beatLoss s

/-- HOLDOVER_BEAT_EDGE (R53). -/
def execHoldoverBeatEdge (s : State) : Answer := onDies holdoverEdge s

/-- BEAT_CAL_COMMIT_ARM (R60): BEAT_CAL_COMMIT is written with arm and a beat. -/
def execBeatCalCommitArm (atBeat : Nat) (s : State) : Answer :=
  always (fun s => viaWide s 0 (beatOff 0x30) (inP0 (.beatCalCommitArm atBeat) fun s => commitWrite s (atBeat % 2 ^ 48 + 2 ^ 63))) s

/-- BEAT_CAL_SHADOW_WRITE (R60): word 0 or 1 of a shadow entry. -/
def execBeatCalShadowWrite (entry word v : Nat) (s : State) : Answer :=
  always (fun s => viaWide s 0 (beatOff (0x2000 + 16 * entry + 8 * word)) (inP0 (.beatCalShadowWrite entry word v) fun s => shadowWrite s (16 * entry + 8 * word) (leBytes 8 v))) s

/-- BEAT_TOKEN_DESIGNATE (R50): BEAT_TOKEN is written with designate. -/
def execBeatTokenDesignate (round : Nat) (s : State) : Answer :=
  always (fun s => viaReg s 0 (beatOff 0x28) (inP0 (.beatTokenDesignate round) fun s => tokenWrite s (round % 65536 + 2 ^ 31))) s

/-- SHARE_SET (R75): calendar entry i fires. -/
def execShareSet (i : Nat) (s : State) : Answer := onDies (fun s => entryRun s i 1 []) s

/-- SCRUB_SLICE (R348). -/
def execScrubSlice (i : Nat) (s : State) : Answer := onDies (fun s => entryRun s i 2 []) s

/-- HEAT_AGE (R194). -/
def execHeatAge (i : Nat) (s : State) : Answer := onDies (fun s => entryRun s i 3 []) s

/-- ASSAY_WINDOW (R319). -/
def execAssayWindow (i : Nat) (s : State) : Answer := onDies (fun s => entryRun s i 4 []) s

/-- ASSAY_WINDOW_CLOSE (R319). -/
def execAssayWindowClose (s : State) : Answer := onRun closeWindow s

/-- EPOCH_ADVANCE (R322). -/
def execEpochAdvance (i : Nat) (s : State) : Answer := onDies (fun s => entryRun s i 5 []) s

/-- ROLL_CALL (R367), with what the monitors report of the units whose state has changed. -/
def execRollCall (i : Nat) (views : List UnitView) (s : State) : Answer := onDies (fun s => entryRun s i 6 views) s

/-- CHECKPOINT_WINDOW (R57). DESIGN CHOICE, log entry 33. -/
def execCheckpointWindow (i : Nat) (s : State) : Answer := onDies (fun s => entryRun s i 7 []) s

/-- CHECKPOINT_WINDOW_END (R80). -/
def execCheckpointWindowEnd (s : State) : Answer := onDies checkpointEnd s

/-- MARK (R57). -/
def execMarkCmd (i : Nat) (s : State) : Answer := onDies (fun s => entryRun s i 8 []) s

end Sys2Proof.Machine
end

