-- ==== Sys2Proof/Machine/BootCmds.lean ====
section
/-! DEFINITION. Commands: standby power, the boot and the release of the main dies (chapters 2 and 21). `env` is what
the environment decides about the boot or the release that the command starts. -/

namespace Sys2Proof.Machine

/-- STBY_PWROK_RISE (R42): the board's flash and this package's fuses are found at the first rise. -/
def execStbyPwrokRise (flash : Flash) (fuses : Fuses) (env : BootEnv) (s : State) : Answer :=
  always (fun s => stbyRise s flash fuses env) s

/-- FLASH_READ_TIMEOUT (R33). -/
def execFlashReadTimeout (env : BootEnv) (s : State) : Answer := always (fun s => flashTimeout s env) s

/-- BOOT_STEP_TIMEOUT (R42). -/
def execBootStepTimeout (env : BootEnv) (s : State) : Answer := always (fun s => stepTimeout s env) s

/-- RESET_L_RISE (R41). -/
def execResetLRise (env : BootEnv) (s : State) : Answer := always (fun s => resetRise s env) s

/-- PWROK_RISE (R434). -/
def execPwrokRise (env : BootEnv) (s : State) : Answer := always (fun s => pwrokRise s env) s

/-- BOOT_READY (R42), `us` after the release. -/
def execBootReady (us : Nat) (s : State) : Answer := always (fun s => bootReady s us) s

/-- RESET_L_FALL (R364). -/
def execResetLFall (s : State) : Answer := always resetFall s

/-- PWROK_FALL (R364). -/
def execPwrokFall (s : State) : Answer := always pwrokFall s

/-- STBY_PWROK_FALL (R364). -/
def execStbyPwrokFall (s : State) : Answer := always stbyFall s

/-- RESET_HELD_ALERT (R365). -/
def execResetHeldAlert (s : State) : Answer := always heldAlarm s

/-- RAIL_MONITOR_FAULT (R434). -/
def execRailMonitorFault (s : State) : Answer := always railFault s

/-- REFCLK_SZ_LOSS (R434). -/
def execRefclkSzLoss (s : State) : Answer := always refclkLoss s

/-- CRYSTAL_LOSS (R434). -/
def execCrystalLoss (s : State) : Answer := always crystalLoss s

/-- QUALIFIED_PWROK_RESTORE (R434). -/
def execQualifiedPwrokRestore (env : BootEnv) (s : State) : Answer := always (fun s => pwrokRestore s env) s

/-- AVSBUS_COMMAND_TIMEOUT (R429): the rail, and the value read back from it in mV. -/
def execAvsbusCommandTimeout (rail readBack : Nat) (s : State) : Answer := always (fun s => avsTimeout s rail readBack) s

end Sys2Proof.Machine
end

