-- ==== Sys2Proof/Machine/ClaimCmds.lean ====
section
/-! DEFINITION. Commands: claims, arbitration, event rings and function resets (chapter 4). -/

namespace Sys2Proof.Machine

/-- CLAIM_CREATE (R67) of steward item `seq`, with what the read of its block brings. -/
def execClaimCreate (seq level : Nat) (block : HostResp) (s : State) : Answer := onDies (fun s => claimCmd s seq level true block) s

/-- CLAIM_MODIFY (R67). -/
def execClaimModify (seq level : Nat) (block : HostResp) (s : State) : Answer := onDies (fun s => claimCmd s seq level false block) s

/-- CLAIM_RELEASE (R70). -/
def execClaimRelease (seq level : Nat) (s : State) : Answer := onDies (fun s => claimRelease s seq level) s

/-- CLAIM_RELEASE_END (R70). -/
def execClaimReleaseEnd (claim : Nat) (s : State) : Answer := onDies (fun s => releaseEnd s claim) s

/-- The engine that a command names: a core or a lane. -/
def engineOf (core : Bool) (i : Nat) : Engine := if core then .core i else .lane i

/-- ARBITRATION_FRAME_START (R71) on an engine. -/
def execArbitrationFrameStart (core : Bool) (i : Nat) (s : State) : Answer := onDies (fun s => frameStart s (engineOf core i)) s

/-- ARBITRATION_GRANT (R72) on an engine, at the end of a grant of `ns`. -/
def execArbitrationGrant (core : Bool) (i ns : Nat) (s : State) : Answer := onDies (fun s => engineGrant s (engineOf core i) ns) s

/-- EVT_RING_ENABLE (R81): EVT_RING_SIZE of a ring (8 the steward's) is written with enable. -/
def execEvtRingEnable (ring v : Nat) (s : State) : Answer :=
  always (fun s => viaRing s ring 0x08 (inP0 (.evtRingEnable ring v) fun s => writeRingSize s ring (v % 2 ^ 31 + 2 ^ 31))) s

/-- EVT_RING_CONSUMED_WRITE (R81). -/
def execEvtRingConsumedWrite (ring v : Nat) (s : State) : Answer :=
  always (fun s => viaRing s ring 0x10 (inP0 (.evtRingConsumedWrite ring v) fun s => writeRingConsumed s ring v)) s

/-- FUNCTION_LEVEL_RESET (R83) of a claim's virtual function. -/
def execFunctionLevelReset (claim : Nat) (s : State) : Answer := onHost (fun s => functionReset s claim) s

/-- FLR_COMPLETE (R83). -/
def execFlrComplete (claim : Nat) (s : State) : Answer := onDies (fun s => resetComplete s claim) s

/-- VF_ENABLE_CLEAR (R84): VF Enable is cleared, or NumVFs is lowered. -/
def execVfEnableClear (enable : Bool) (numVfs : Nat) (s : State) : Answer := onHost (fun s => vfClear s enable numVfs) s

/-- VF_ENABLE_SET (R282). -/
def execVfEnableSet (numVfs : Nat) (s : State) : Answer := onHost (fun s => vfSet s numVfs) s

/-- CLM_RT_BIND_WRITE (R85). -/
def execClmRtBindWrite (v : Nat) (s : State) : Answer := always (fun s => viaReg s 0 (clmOff 0x1000) (inP0 (.clmRtBindWrite v) fun s => rtWrite s v)) s

/-- RT_BIND_APPLY (R121). -/
def execRtBindApply (s : State) : Answer := onDies rtApply s

end Sys2Proof.Machine
end

