-- ==== Sys2Proof/Machine/DeckCmds.lean ====
section
/-! DEFINITION. Commands of decks that are no macro-instruction: tallies, memory, control, calls, sub-decks, pages and
the steward's own (chapters 5, 9, 10 and 11). A command is named by its item and level, and by its granule where more
than one of its kind may be active. -/

namespace Sys2Proof.Machine

/-- NOP (R92). -/
def execNop (shoe seq level : Nat) (s : State) : Answer :=
  startOf shoe seq level 0x00 (fun s => withCmd s shoe seq level 0x00 fun g b => doneCmd s shoe seq level g b) s

/-- LANE_DECK (R119): it starts, or tries again for its lane's store. -/
def execLaneDeck (shoe seq level granule : Nat) (deck : HostResp) (s : State) : Answer :=
  startAt shoe seq level granule 0x02 (fun s => laneDeckCmd s shoe seq level granule deck) s

/-- LANE_DECK_COMPLETE (R119). -/
def execLaneDeckComplete (shoe seq level : Nat) (s : State) : Answer := onDies (fun s => laneDeckEnd s shoe seq level) s

/-- TALLY_ADD (R214). -/
def execTallyAdd (shoe seq level : Nat) (s : State) : Answer := startTally shoe seq level 0 s

/-- TALLY_SET (R214). -/
def execTallySet (shoe seq level : Nat) (s : State) : Answer := startTally shoe seq level 1 s

/-- TALLY_WAIT_GE (R215). -/
def execTallyWaitGe (shoe seq level : Nat) (s : State) : Answer := startTally shoe seq level 2 s

/-- TALLY_WAIT_EQ (R215). -/
def execTallyWaitEq (shoe seq level : Nat) (s : State) : Answer := startTally shoe seq level 3 s

/-- TALLY_ARM (R218). -/
def execTallyArm (shoe seq level : Nat) (s : State) : Answer := startTally shoe seq level 4 s

/-- TALLY_POISON (R217). -/
def execTallyPoison (shoe seq level : Nat) (s : State) : Answer := startTally shoe seq level 5 s

/-- WAIT_MEM (R99): it starts and issues its first read. -/
def execWaitMem (shoe seq level : Nat) (s : State) : Answer :=
  startOf shoe seq level 0x04 (fun s => withCmd s shoe seq level 0x04 fun g b =>
    waitMemRead (heldCmd s shoe seq level g b (.waitMem false)) shoe seq level g b) s

/-- WAIT_MEM_POLL (R99). -/
def execWaitMemPoll (shoe seq level granule : Nat) (s : State) : Answer := onDies (fun s => waitMemPoll s shoe seq level granule) s

/-- WAIT_MEM_READ_RETURN (R99). -/
def execWaitMemReadReturn (shoe seq level granule : Nat) (value : HostResp) (s : State) : Answer :=
  onDies (fun s => waitMemReturn s shoe seq level granule value) s

/-- WRITE_MEM (R93). -/
def execWriteMem (shoe seq level : Nat) (s : State) : Answer :=
  startOf shoe seq level 0x05 (fun s => withCmd s shoe seq level 0x05 fun g b => runWriteMem s shoe seq level g b) s

/-- HOST_COPY (R210): it starts or goes on, with at most `bursts` bursts of 4 KiB. -/
def execHostCopy (shoe seq level granule bursts : Nat) (data : HostResp) (s : State) : Answer :=
  startAt shoe seq level granule 0x06 (fun s => hostCopyCmd s shoe seq level granule bursts data) s

/-- IF (R110). -/
def execIfCmd (shoe seq level : Nat) (s : State) : Answer :=
  startOf shoe seq level 0x07 (fun s => withCmd s shoe seq level 0x07 fun g b => runIf s shoe seq level g b) s

/-- LOOP (R111). -/
def execLoopCmd (shoe seq level : Nat) (s : State) : Answer :=
  startOf shoe seq level 0x08 (fun s => withCmd s shoe seq level 0x08 fun g b => runLoop s shoe seq level g b) s

/-- LOOP_ITERATION_START (R111). -/
def execLoopIterationStart (shoe seq level : Nat) (s : State) : Answer := onDies (fun s => loopIterate s shoe seq level) s

/-- CALL (R114): it starts, or tries again for the call store. -/
def execCallCmd (shoe seq level granule : Nat) (deck : HostResp) (s : State) : Answer :=
  startAt shoe seq level granule 0x09 (fun s => callCmd s shoe seq level granule deck) s

/-- CALL_COMPLETE (R114). -/
def execCallComplete (shoe seq level : Nat) (s : State) : Answer := onDies (fun s => callEnd s shoe seq level) s

/-- PAGE_MAP (R209). -/
def execPageMap (shoe seq level : Nat) (s : State) : Answer := startPage shoe seq level 0 s

/-- PAGE_UNMAP (R209). -/
def execPageUnmap (shoe seq level : Nat) (s : State) : Answer := startPage shoe seq level 1 s

/-- PAGE_PROMOTE (R209). -/
def execPagePromote (shoe seq level : Nat) (s : State) : Answer := startPage shoe seq level 2 s

/-- PAGE_DEMOTE (R209). -/
def execPageDemote (shoe seq level : Nat) (s : State) : Answer := startPage shoe seq level 3 s

/-- PAGE_MOVE_COMMIT (R197) of a page of a table, 0 to 7 a claim's and 8 COMMON. -/
def execPageMoveCommit (table page : Nat) (s : State) : Answer := onDies (fun s => moveCommit s table page) s

/-- CLEAR (R207): it starts or goes on, with at most `units` frames or handles. -/
def execClearCmd (seq level units : Nat) (s : State) : Answer := onDies (fun s => clearStart s seq level units) s

/-- CLEAR_COMPLETE (R207). -/
def execClearComplete (seq level : Nat) (s : State) : Answer := onDies (fun s => clearEnd s seq level) s

/-- COMMON_LOAD (R211). -/
def execCommonLoad (seq level : Nat) (data : HostResp) (s : State) : Answer := onDies (fun s => commonLoad s seq level data) s

/-- COMMON_REMOVE (R211). -/
def execCommonRemove (seq level : Nat) (s : State) : Answer := onDies (fun s => commonRemove s seq level) s

/-- TABLE_LOAD (R170). -/
def execTableLoad (seq level : Nat) (table : HostResp) (s : State) : Answer := onDies (fun s => tableLoad s seq level table) s

/-- TABLE_LOAD_COMMIT (R171). -/
def execTableLoadCommit (slot : Nat) (s : State) : Answer := onDies (fun s => tableCommit s slot) s

/-- FENCE_CLEAR (R370). -/
def execFenceClear (seq level : Nat) (s : State) : Answer := onDies (fun s => fenceClear s seq level) s

/-- SEAL (R379); `flashOk` is whether the flash write and its read-back succeed. -/
def execSeal (seq level : Nat) (flashOk : Bool) (s : State) : Answer := onDies (fun s => sealCmd s seq level flashOk) s

end Sys2Proof.Machine
end

