-- ==== Sys2Proof/Machine/EccCmds.lean ====
section
/-! DEFINITION. Commands: error correction, its log, patches and tests (chapter 16). -/

namespace Sys2Proof.Machine

/-- ECC_WRITE_BACK (R338). -/
def execEccWriteBack (s : State) : Answer := onDies writeBack s

/-- ECC_CE_OVER_CLEAR (R340) of a die's group. -/
def execEccCeOverClear (die group : Nat) (s : State) : Answer :=
  always (fun s => viaReg s 0 (eccOff (0x1400 + 0x1000 * die + 4 * group)) (inP0 (.eccCeOverClear die group) fun s => countClear s die group)) s

/-- ECC_LOG_RELEASE (R342) of a die's log entry. -/
def execEccLogRelease (die entry : Nat) (s : State) : Answer :=
  always (fun s => viaReg s 0 (eccOff (0x1200 + 0x1000 * die)) (inP0 (.eccLogRelease die entry) fun s => logRelease s die (entry % 16))) s

/-- ECC_PATCH_CMD's word with go: a die, macro, row and word, and whether the entry is removed (Table 16.6). -/
def patchCmdWord (die mac row word : Nat) (remove : Bool) : Nat :=
  die % 8 + 2 ^ 3 * b2n remove + 2 ^ 4 * (mac % 2 ^ 14) + 2 ^ 18 * (row % 2 ^ 9) + 2 ^ 27 * (word % 2 ^ 5) + 2 ^ 63

/-- ECC_PATCH_INSTALL (R345). -/
def execEccPatchInstall (die mac row word : Nat) (s : State) : Answer :=
  always (fun s => viaWide s 0 (eccOff 0x200) (inP0 (.eccPatchInstall die mac row word) fun s => patchWrite s (patchCmdWord die mac row word false))) s

/-- ECC_PATCH_REMOVE (R345). -/
def execEccPatchRemove (die mac row word : Nat) (s : State) : Answer :=
  always (fun s => viaWide s 0 (eccOff 0x200) (inP0 (.eccPatchRemove die mac row word) fun s => patchWrite s (patchCmdWord die mac row word true))) s

/-- ECC_TEST_WRITE_NORMAL (R347): op 1 on the target, with the data that the test registers hold. -/
def execEccTestWriteNormal (s : State) : Answer := always (fun s => viaReg s 0 (eccOff 0x128) (inP0 .eccTestWriteNormal fun s => testOp s 1)) s

/-- ECC_TEST_WRITE_SPLIT (R347): op 2. -/
def execEccTestWriteSplit (s : State) : Answer := always (fun s => viaReg s 0 (eccOff 0x128) (inP0 .eccTestWriteSplit fun s => testOp s 2)) s

/-- ECC_TEST_READ (R347): op 3. -/
def execEccTestRead (s : State) : Answer := always (fun s => viaReg s 0 (eccOff 0x128) (inP0 .eccTestRead fun s => testOp s 3)) s

/-- ECC_TEST_ARM_FLIP (R347): op 4. -/
def execEccTestArmFlip (s : State) : Answer := always (fun s => viaReg s 0 (eccOff 0x128) (inP0 .eccTestArmFlip fun s => testOp s 4)) s

end Sys2Proof.Machine
end

