-- ==== Sys2Proof/Machine/FaultCmds.lean ====
section
/-! DEFINITION. Commands: redeals, fences and host read errors (chapters 14 and 17). -/

namespace Sys2Proof.Machine

/-- REDEAL_REQUEST (R354): LDG_REDEAL_CTRL.request is written; `finish` says whether step 5 ends within its bound. -/
def execRedealRequest (finish : Bool) (s : State) : Answer :=
  always (fun s => viaReg s 0 (ldgOff 0x108) (inP0 (.redealRequest finish) fun s => startRedeal s { cause := 0x0703, faulting := 0xFF } finish)) s

/-- REDEAL_WALK_END (R359). -/
def execRedealWalkEnd (s : State) : Answer := onDies walkEnd s

/-- REDEAL_RESUME (R360): LDG_REDEAL_CTRL.resume is written. -/
def execRedealResume (s : State) : Answer := always (fun s => viaReg s 0 (ldgOff 0x108) (inP0 .redealResume redealResume)) s

/-- REDEAL_BOUND_EXPIRY (R357). -/
def execRedealBoundExpiry (s : State) : Answer := onDies redealBound s

/-- REDEAL_STALL_ALERT (R360). -/
def execRedealStallAlert (s : State) : Answer := onDies (fun s => if s.redeal.phase = .waiting then alertLatch s 4 else s) s

/-- DEALER_UNIT_FAULT (R368) of a unit of a class. -/
def execDealerUnitFault (cls unit : Nat) (s : State) : Answer := onDies (fun s => dealerFault s cls unit) s

/-- LAMPHOUSE_UNIT_DISABLE (R368): the unit's power or its enable is cleared. -/
def execLamphouseUnitDisable (cls unit : Nat) (power : Bool) (s : State) : Answer := onDies (fun s => lamphouseDisable s cls unit power) s

/-- What an action does whose host read ends in an error (R289). -/
def readError (t : ReadTarget) (s : State) : State :=
  match t with
  | .entry shoe => deckRead s shoe .err .err
  | .deck shoe entry => deckRead s shoe (.ok entry) .err
  | .waitMem shoe seq l g => waitMemReturn s shoe seq l g .err
  | .call shoe seq l g => cmdAtGate shoe seq l g 0x09 (fun s => callCmd s shoe seq l g .err) s
  | .laneDeck shoe seq l g => cmdAtGate shoe seq l g 0x02 (fun s => laneDeckCmd s shoe seq l g .err) s
  | .hostCopy shoe seq l g => cmdAtGate shoe seq l g 0x06 (fun s => hostCopyCmd s shoe seq l g 1 .err) s
  | .claimBlock create seq l => claimCmd s seq l create .err
  | .table seq l => tableLoad s seq l .err
  | .common seq l => commonLoad s seq l .err
  | .qpContext c create h => viaClaim s c 0x60008 (inP0 (.hostReadError t) fun s =>
      if create then qpGo s c 0 0 true fun s => qpCreate s c .err else qpGo s c 1 h true fun s => qpModify s c h .err)
  | .sendEntry c h v => viaClaim s c (0x68000 + 16 * h) (inP0 (.hostReadError t) fun s => sqDoorbell s c h v [(.err, .err)])
  | .recvEntry c h v => viaClaim s c (0x68004 + 16 * h) (inP0 (.hostReadError t) fun s => rqDoorbell s c h v [.err])
  | .rawSlot v => viaReg s 0 (entOff 0x1118) (inP0 (.hostReadError t) fun s => rawTxWrite s v [.err])
  | .keySlot => viaReg s 0 (secOff 0x18) fun s => secBlock s 256 .err fun s b => keySlotBlock s b true
  | .grant => viaReg s 0 (secOff 0x18) fun s => secBlock s 224 .err grantBlock
  | .unlock env => viaReg s 0 (secOff 0x18) fun s => secBlock s 416 .err fun s b => unlockBlock s b env

/-- HOST_READ_ERROR (R289): the error is logged through AER, and the action that needed the read fails.
DEDUCED, log entry 107. -/
def execHostReadError (target : ReadTarget) (s : State) : Answer :=
  onDies (readError target) s

end Sys2Proof.Machine
end

