-- ==== Sys2Proof/Machine/LinkCmds.lean ====
section
/-! DEFINITION. Commands: the Swezo ports and links, flits and messages (chapters 12 and 13). -/

namespace Sys2Proof.Machine

/-- PORT_TRAINING_START (R234), with what the port's lanes find. -/
def execPortTrainingStart (port : Nat) (result : TrainResult) (s : State) : Answer := onDies (fun s => trainDown s port result) s

/-- PORT_TRAINING_TIMEOUT (R234). -/
def execPortTrainingTimeout (port : Nat) (s : State) : Answer := onDies (fun s => trainTimeout s port) s

/-- PORT_RETRAIN_TIMER (R234). -/
def execPortRetrainTimer (port : Nat) (result : TrainResult) (s : State) : Answer := onDies (fun s => trainDown s port result) s

/-- HELLO_RECEIVED (R249): a HELLO's payload. -/
def execHelloReceived (port : Nat) (payload : List Byte) (s : State) : Answer := onDies (fun s => failXfers (helloReceived s port payload)) s

/-- QUARANTINE_RECEIVED (R249). -/
def execQuarantineReceived (port : Nat) (s : State) : Answer := onDies (fun s => failXfers (quarantineReceived s port)) s

/-- FLIT_RECEIVED (R239): the 256 bytes of a flit on a lane. `dest` is the seat to which a trick message was sent; `ns` is
the interval of a beat message or the turnaround of an ECHO. DESIGN CHOICE, log entry 62. -/
def execFlitReceived (port lane : Nat) (bytes : List Byte) (dest : Seat) (ns : Nat) (s : State) : Answer :=
  onDies (fun s => flitReceived s port lane bytes dest ns) s

/-- NAK_RECEIVED (R242): a NAK's ack on a lane. -/
def execNakReceived (port lane ack : Nat) (s : State) : Answer := onDies (fun s => nakReceived s port lane ack) s

/-- REPLAY_LIMIT_REACHED (R252). -/
def execReplayLimitReached (port lane : Nat) (s : State) : Answer := onDies (fun s => replayLimit s port lane) s

/-- LANE_FAILURE (R252). -/
def execLaneFailure (port lane : Nat) (s : State) : Answer := onDies (fun s => laneFailure s port lane) s

/-- LANES_RECEIVED (R253): the peer's good lanes. -/
def execLanesReceived (port bitmap : Nat) (s : State) : Answer := onDies (fun s => lanesMessage s port bitmap) s

/-- LANES_ACK_RECEIVED (R253): the lanes agreed. -/
def execLanesAckReceived (port bitmap : Nat) (s : State) : Answer := onDies (fun s => lanesAckMessage s port bitmap) s

/-- PORT_FAILURE (R254). -/
def execPortFailure (port : Nat) (s : State) : Answer := onDies (fun s => portFails s port) s

/-- ECHO_TIMER (R248). -/
def execEchoTimer (s : State) : Answer := onDies echoTimer s

/-- ECHO_RECEIVED (R248): an ECHO's payload; a request is answered after `ns`. -/
def execEchoReceived (port : Nat) (payload : List Byte) (ns : Nat) (s : State) : Answer := onDies (fun s => echoReceived s port payload ns) s

/-- A claim message of a kind for this seat. -/
def onMessage (kind : Nat) (header : List Byte) (k : MsgHeader → State → State) (s : State) : State :=
  let h := MsgHeader.read header
  if h.kind = kind ∧ h.dest = ownSeat s then k h s else s

/-- HAND_RECEIVED (R245): a whole HAND, and whether its message CRC checks. -/
def execHandReceived (header data : List Byte) (crcOk : Bool) (s : State) : Answer :=
  onDies (afterMoves (onMessage 1 header fun h s => handReceived s h data crcOk)) s

/-- PUT_RECEIVED (R245). -/
def execPutReceived (header data : List Byte) (crcOk : Bool) (s : State) : Answer :=
  onDies (afterMoves (onMessage 2 header fun h s => putReceived s h data crcOk)) s

/-- SIGNAL_RECEIVED (R245). -/
def execSignalReceived (header : List Byte) (s : State) : Answer := onDies (onMessage 3 header fun h s => signalReceived s h) s

/-- RECEIPT_RECEIVED (R246). -/
def execReceiptReceived (header : List Byte) (s : State) : Answer := onDies (onMessage 4 header fun h s => receiptReceived s h) s

/-- ABORT_RECEIVED (R247). -/
def execAbortReceived (header : List Byte) (s : State) : Answer := onDies (onMessage 5 header fun h s => abortReceived s h) s

/-- RECEIPT_TIMEOUT (R246) of a transfer of this seat. -/
def execReceiptTimeout (transfer : Nat) (s : State) : Answer := onDies (fun s => receiptTimeout s transfer) s

/-- MESSAGE_FORWARD (R265): a whole message for another seat has come in on a port with a dateline class. A trick message
is its data, and goes to `dest`. -/
def execMessageForward (port cls : Nat) (trick : Bool) (dest : Seat) (header data trailer : List Byte) (s : State) : Answer :=
  onDies (fun s =>
    let d := (s.port port).dir
    if (s.port port).st ≠ .up then s
    else if trick then (if dest = ownSeat s then s else forwardTrick s d cls dest data)
    else if (MsgHeader.read header).dest = ownSeat s then s
    else forwardMessage s d cls header data trailer) s

/-- SZL_HOLD_DOWN (R256): SZL_PORT_CTRL.hold_down is written. -/
def execSzlHoldDown (port : Nat) (hold : Bool) (s : State) : Answer :=
  always (fun s => viaReg s 0 (szlOff (0x100 * port + 0x20)) (inP0 (.szlHoldDown port hold) fun s => portHold s port hold)) s

/-- SZL_RETRAIN (R256): SZL_PORT_CTRL.retrain is written, with what the port's lanes find. -/
def execSzlRetrain (port : Nat) (result : TrainResult) (s : State) : Answer :=
  always (fun s => viaReg s 0 (szlOff (0x100 * port + 0x20)) (inP0 (.szlRetrain port result) fun s => portRetrain s port result)) s

/-- SZL_CLEAR_COUNTERS (R258). -/
def execSzlClearCounters (port : Nat) (s : State) : Answer :=
  always (fun s => viaReg s 0 (szlOff (0x100 * port + 0x20)) (inP0 (.szlClearCounters port) fun s => portClear s port)) s

/-- SZLP_LINK_FAILURE (R257). -/
def execSzlpLinkFailure (link : Nat) (s : State) : Answer := onDies (fun s => if link < 14 then szlpFails s link else s) s

/-- SZLP_RETRAIN (R257), and whether it succeeds. -/
def execSzlpRetrain (link : Nat) (ok : Bool) (s : State) : Answer := onDies (fun s => if link < 14 then szlpRetrain s link ok else s) s

/-- FAILED_PORT_IDLE (R363). -/
def execFailedPortIdle (s : State) : Answer := onDies failedIdle s

end Sys2Proof.Machine
end

