-- ==== Sys2Proof/Machine/MacroCmds.lean ====
section
/-! DEFINITION. Commands: the nine macro-instructions and their life on lanes and cores (chapters 6, 7 and 9). -/

namespace Sys2Proof.Machine

/-- MATMUL (R135). -/
def execMatmul (shoe seq level : Nat) (s : State) : Answer := startMacroCmd shoe seq level 0x01 s

/-- ATTEND (R177). -/
def execAttend (shoe seq level : Nat) (s : State) : Answer := startMacroCmd shoe seq level 0x02 s

/-- ATTEND_BWD (R181). -/
def execAttendBwd (shoe seq level : Nat) (s : State) : Answer := startMacroCmd shoe seq level 0x03 s

/-- SFN (R166). -/
def execSfn (shoe seq level : Nat) (s : State) : Answer := startMacroCmd shoe seq level 0x04 s

/-- NORM (R182). -/
def execNorm (shoe seq level : Nat) (s : State) : Answer := startMacroCmd shoe seq level 0x05 s

/-- REDUCE (R155). -/
def execReduceCmd (shoe seq level : Nat) (s : State) : Answer := startMacroCmd shoe seq level 0x06 s

/-- HOIST (R155). -/
def execHoist (shoe seq level : Nat) (s : State) : Answer := startMacroCmd shoe seq level 0x07 s

/-- CONVERT (R159). -/
def execConvertCmd (shoe seq level : Nat) (s : State) : Answer := startMacroCmd shoe seq level 0x08 s

/-- ASSAY_RERANK (R325). -/
def execAssayRerank (shoe seq level : Nat) (s : State) : Answer := startMacroCmd shoe seq level 0x09 s

/-- MACRO_DISPATCH (R118). -/
def execMacroDispatch (shoe seq level granule : Nat) (s : State) : Answer := onDies (fun s => macroDispatch s shoe seq level granule) s

/-- MACRO_START (R140) of a part by its number. -/
def execMacroStart (part : Nat) (s : State) : Answer := onDies (fun s => macroStart s part) s

/-- TILE_GROUP_END (R132) on a core after `ns`; `bad` is a headframe structure that the group's work found
uncorrectable, with its macro, row and word (R362). -/
def execTileGroupEnd (core ns : Nat) (bad : Option (HeadFault × Nat × Nat × Nat)) (s : State) : Answer :=
  onDies (fun s => tileGroupEnd (match bad with
    | some b => headFault s b.1 b.2.1 b.2.2.1 b.2.2.2
    | none => s) core ns) s

/-- MACRO_COMPLETE (R140). -/
def execMacroComplete (part : Nat) (s : State) : Answer := onDies (fun s => macroComplete s part) s

/-- P1_ENTRY (R391). -/
def execP1Entry (core : Nat) (s : State) : Answer := onDies (fun s => gateCore s core) s

end Sys2Proof.Machine
end

