-- ==== Sys2Proof/Machine/MgmtCmds.lean ====
section
/-! DEFINITION. Commands: the management endpoint (chapter 19). The Lamphouse answers them while it runs, whatever the
main dies do. -/

namespace Sys2Proof.Machine

/-- MCTP_PACKET_RECEIVED (R400): a packet, whether its PEC checks, whether flash and fuses do what the message asks, and
what the environment decides about a boot that it starts. -/
def execMctpPacketReceived (packet : List Byte) (pecOk hardwareOk : Bool) (env : BootEnv) (s : State) : Answer :=
  always (fun s => mctpPacket s packet pecOk hardwareOk env) s

/-- SET_ENDPOINT_ID (R401). -/
def execSetEndpointId (eid : Nat) (s : State) : Answer := always (fun s => setEid s eid) s

/-- GET_NONCE (R402). -/
def execGetNonce (s : State) : Answer := always getNonce s

/-- MGMT_SECURITY_KEY_SLOT (R404). -/
def execMgmtSecurityKeySlot (block : List Byte) (verified : Bool) (s : State) : Answer := always (fun s => mgmtKeySlot s block verified) s

/-- MGMT_SECURITY_DEBUG_GRANT (R404). -/
def execMgmtSecurityDebugGrant (block : List Byte) (s : State) : Answer := always (fun s => mgmtGrant s block) s

/-- MGMT_SECURITY_DEBUG_REVOKE (R404). -/
def execMgmtSecurityDebugRevoke (claim : Nat) (s : State) : Answer := always (fun s => mgmtRevoke s claim) s

/-- MGMT_SECURITY_VENDOR_OPEN (R404). -/
def execMgmtSecurityVendorOpen (block : List Byte) (env : BootEnv) (s : State) : Answer := always (fun s => mgmtUnlock s block env) s

/-- FLASH_READ (R403). -/
def execFlashRead (off len : Nat) (s : State) : Answer := always (fun s => flashReadCmd s off len) s

/-- FLASH_ERASE (R403): sectors of 4 KiB; `ok` is whether the flash does it. -/
def execFlashErase (off count : Nat) (ok : Bool) (s : State) : Answer := always (fun s => flashErase s off count ok) s

/-- FLASH_WRITE (R403). -/
def execFlashWrite (off : Nat) (data : List Byte) (ok : Bool) (s : State) : Answer := always (fun s => flashWriteCmd s off data ok) s

/-- BOOT_RETRY (R405). -/
def execBootRetry (env : BootEnv) (s : State) : Answer := always (fun s => bootRetryCmd s env) s

/-- GET_TID (R406). -/
def execGetTid (s : State) : Answer := always getTid s

/-- SET_TID (R406). -/
def execSetTid (tid : Nat) (s : State) : Answer := always (fun s => setTid s tid) s

/-- GET_PLDM_VERSION (R406) of a type. -/
def execGetPldmVersion (type : Nat) (s : State) : Answer := always (fun s => getPldmVersion s type) s

/-- GET_PLDM_TYPES (R406). -/
def execGetPldmTypes (s : State) : Answer := always getPldmTypes s

/-- GET_PLDM_COMMANDS (R406) of a type. -/
def execGetPldmCommands (type : Nat) (s : State) : Answer := always (fun s => getPldmCommands s type) s

/-- GET_PDR_REPOSITORY_INFO (R406). -/
def execGetPdrRepositoryInfo (s : State) : Answer := always getPdrInfo s

/-- GET_PDR (R406) by record handle. -/
def execGetPdr (handle : Nat) (s : State) : Answer := always (fun s => getPdr s handle) s

/-- GET_SENSOR_READING (R407). -/
def execGetSensorReading (id : Nat) (s : State) : Answer := always (fun s => getSensor s id) s

/-- GET_STATE_SENSOR_READINGS (R407). -/
def execGetStateSensorReadings (id : Nat) (s : State) : Answer := always (fun s => getStateSensor s id) s

/-- GET_NUMERIC_EFFECTER_VALUE (R406). -/
def execGetNumericEffecterValue (id : Nat) (s : State) : Answer := always (fun s => getNumericEffecter s id) s

/-- GET_STATE_EFFECTER_STATES (R406). -/
def execGetStateEffecterStates (id : Nat) (s : State) : Answer := always (fun s => getStateEffecter s id) s

/-- POWER_REQUEST_EFFECTER (R408). -/
def execPowerRequestEffecter (request : Nat) (env : BootEnv) (s : State) : Answer := always (fun s => powerEffecter s request env) s

/-- POWER_LIMIT_EFFECTER (R408), in W. -/
def execPowerLimitEffecter (watts : Nat) (s : State) : Answer := always (fun s => limitEffecter s watts) s

/-- ALERT_ACKNOWLEDGE (R412): a bitmap of causes. -/
def execAlertAcknowledge (causes : Nat) (s : State) : Answer := always (fun s => alertAck s causes) s

/-- ALERT_MASK (R412). -/
def execAlertMask (causes : Nat) (s : State) : Answer := always (fun s => alertMask s causes) s

/-- SET_EVENT_RECEIVER (R409). -/
def execSetEventReceiver (mode receiver : Nat) (s : State) : Answer := always (fun s => setReceiver s mode receiver) s

/-- POLL_FOR_PLATFORM_EVENT_MESSAGE (R409). -/
def execPollForPlatformEventMessage (s : State) : Answer := always pollEvent s

/-- PLATFORM_EVENT_MESSAGE (R409). -/
def execPlatformEventMessage (s : State) : Answer := always sendEvent s

/-- PLATFORM_EVENT_RETRY (R409). -/
def execPlatformEventRetry (s : State) : Answer := always resendEvent s

/-- PLATFORM_EVENT_ACK (R409). -/
def execPlatformEventAck (s : State) : Answer := always ackEvent s

/-- GET_VERSION (R410). -/
def execGetVersion (s : State) : Answer := always spdmVersion s

/-- GET_CAPABILITIES (R410). -/
def execGetCapabilities (s : State) : Answer := always spdmCapabilities s

/-- NEGOTIATE_ALGORITHMS (R410). -/
def execNegotiateAlgorithms (s : State) : Answer := always spdmAlgorithms s

/-- GET_DIGESTS (R410). -/
def execGetDigests (s : State) : Answer := always spdmDigests s

/-- GET_CERTIFICATE (R410): a part of a slot's chain. -/
def execGetCertificate (slot off len : Nat) (s : State) : Answer := always (fun s => spdmCertificate s slot off len) s

/-- CHALLENGE (R410). -/
def execChallenge (nonce : List Byte) (s : State) : Answer := always (fun s => spdmChallenge s nonce) s

/-- GET_MEASUREMENTS (R411). -/
def execGetMeasurements (index : Nat) (signed : Bool) (nonce : List Byte) (s : State) : Answer :=
  always (fun s => spdmMeasurements s index signed nonce) s

end Sys2Proof.Machine
end

