-- ==== Sys2Proof/Machine/NetCmds.lean ====
section
/-! DEFINITION. Commands: Ethernet ports, the raw rings and queue pairs (chapter 14). A queue pair is a claim's handle;
`feeds` are what its reads of queue entries and their host payloads bring. -/

namespace Sys2Proof.Machine

/-- ETH_LINK_NEGOTIATE (R295): the port's current attempt ends, linked or not. -/
def execEthLinkNegotiate (port : Nat) (linked : Bool) (s : State) : Answer := onDies (fun s => ethNegotiate s port linked) s

/-- ETH_LINK_LOSS (R295). -/
def execEthLinkLoss (port : Nat) (s : State) : Answer := onDies (fun s => ethLoss s port) s

/-- ETH_FRAME_RECEIVED (R296): a frame with a good FCS or not, and the fill of the receive buffer. -/
def execEthFrameReceived (port : Nat) (good : Bool) (fill : Nat) (frame : List Byte) (s : State) : Answer :=
  onDies (fun s => ethFrame s port good fill frame) s

/-- RAW_RX_CONSUMED_WRITE (R297): ENT_RAW_RX_CTRL is written. -/
def execRawRxConsumedWrite (v : Nat) (s : State) : Answer := always (fun s => viaReg s 0 (entOff 0x1108) (inP0 (.rawRxConsumedWrite v) fun s => rawRxWrite s v)) s

/-- RAW_TX_PRODUCE (R297): ENT_RAW_TX_CTRL is written, with what the reads of the slots bring. -/
def execRawTxProduce (v : Nat) (feeds : List HostResp) (s : State) : Answer :=
  always (fun s => viaReg s 0 (entOff 0x1118) (inP0 (.rawTxProduce v feeds) fun s => rawTxWrite s v feeds)) s

/-- QP_CREATE (R298). -/
def execQpCreate (claim : Nat) (context : HostResp) (s : State) : Answer :=
  always (fun s => viaClaim s claim 0x60008 (inP0 (.qpCreate claim context) fun s => qpGo s claim 0 0 true fun s => qpCreate s claim context)) s

/-- QP_MODIFY (R298). -/
def execQpModify (claim handle : Nat) (context : HostResp) (s : State) : Answer :=
  always (fun s => viaClaim s claim 0x60008 (inP0 (.qpModify claim handle context) fun s => qpGo s claim 1 handle true fun s => qpModify s claim handle context)) s

/-- QP_DESTROY (R298). -/
def execQpDestroy (claim handle : Nat) (s : State) : Answer :=
  always (fun s => viaClaim s claim 0x60008 (inP0 (.qpDestroy claim handle) fun s => qpGo s claim 2 handle false fun s => qpDestroy s claim handle)) s

/-- QP_QUERY (R298). -/
def execQpQuery (claim handle : Nat) (s : State) : Answer :=
  always (fun s => viaClaim s claim 0x60008 (inP0 (.qpQuery claim handle) fun s => qpGo s claim 3 handle true fun s => qpQuery s claim handle)) s

/-- SQ_DOORBELL (R300). -/
def execSqDoorbell (claim handle v : Nat) (feeds : List (HostResp × HostResp)) (s : State) : Answer :=
  always (fun s => viaClaim s claim (0x68000 + 16 * handle) (inP0 (.sqDoorbell claim handle v feeds) fun s => sqDoorbell s claim handle v feeds)) s

/-- RQ_DOORBELL (R300). -/
def execRqDoorbell (claim handle v : Nat) (feeds : List HostResp) (s : State) : Answer :=
  always (fun s => viaClaim s claim (0x68004 + 16 * handle) (inP0 (.rqDoorbell claim handle v feeds) fun s => rqDoorbell s claim handle v feeds)) s

/-- CQ_CONSUMED_WRITE (R303). -/
def execCqConsumedWrite (claim handle v : Nat) (feeds : List (HostResp × HostResp)) (s : State) : Answer :=
  always (fun s => viaClaim s claim (0x68008 + 16 * handle) (inP0 (.cqConsumedWrite claim handle v feeds) fun s => cqConsumed s claim handle v feeds)) s

/-- ROCE_ACK_RECEIVED (R303): the sequence acknowledged, and the answers of the READs that it covers. -/
def execRoceAckReceived (claim handle psn : Nat) (reads : List (List Byte)) (feeds : List (HostResp × HostResp)) (s : State) : Answer :=
  onDies (afterMoves fun s => roceAck s claim handle psn reads feeds) s

/-- ROCE_NAK_RECEIVED (R303): 0 a sequence error, 1 RNR, 2 a remote access error, another a remote operation error. -/
def execRoceNakReceived (claim handle psn code : Nat) (reads : List (List Byte)) (s : State) : Answer :=
  onDies (afterMoves fun s => roceNak s claim handle psn code reads) s

/-- QP_ACK_TIMEOUT (R303). -/
def execQpAckTimeout (claim handle : Nat) (s : State) : Answer := onDies (fun s => ackTimeout s claim handle) s

/-- RNR_TIMER_EXPIRY (R298). -/
def execRnrTimerExpiry (claim handle : Nat) (s : State) : Answer := onDies (fun s => rnrExpiry s claim handle) s

/-- RDMA_WRITE_RECEIVED (R302), with immediate data or not. -/
def execRdmaWriteReceived (claim handle psn rkey addr : Nat) (payload : List Byte) (imm : Option Nat) (feeds : List HostResp) (s : State) : Answer :=
  onDies (afterMoves fun s => rdmaWrite s claim handle psn rkey addr payload imm feeds) s

/-- RDMA_READ_RECEIVED (R302): `data` is what a host region's read brings. -/
def execRdmaReadReceived (claim handle psn rkey addr len : Nat) (data : HostResp) (s : State) : Answer :=
  onDies (fun s => rdmaRead s claim handle psn rkey addr len data) s

/-- ROCE_SEND_RECEIVED (R301). -/
def execRoceSendReceived (claim handle psn : Nat) (payload : List Byte) (imm : Option Nat) (feeds : List HostResp) (s : State) : Answer :=
  onDies (afterMoves fun s => roceSend s claim handle psn payload imm feeds) s

/-- CNP_RECEIVED (R305). -/
def execCnpReceived (claim handle : Nat) (s : State) : Answer := onDies (fun s => cnpReceived s claim handle) s

/-- CE_PACKET_RECEIVED (R305). -/
def execCePacketReceived (claim handle : Nat) (s : State) : Answer := onDies (fun s => cePacket s claim handle) s

/-- RATE_INCREASE_TIMER (R305). -/
def execRateIncreaseTimer (claim handle : Nat) (s : State) : Answer := onDies (fun s => rateIncrease s claim handle) s

/-- PFC_FRAME_RECEIVED (R306): XOFF or XON on a priority. -/
def execPfcFrameReceived (port priority : Nat) (xoff : Bool) (s : State) : Answer := onDies (fun s => pfcReceived s port priority xoff) s

/-- ENT_MR_WRITE (R419): word 0 is the base, 1 the length and 2 the access of a region entry. -/
def execEntMrWrite (claim region word v : Nat) (s : State) : Answer :=
  always (fun s => viaClaimWide s claim (0x61000 + 32 * region + 8 * word) (inP0 (.entMrWrite claim region word v) fun s =>
    match word with
    | 0 => regionRange s claim region false v
    | 1 => regionRange s claim region true v
    | _ => regionAccess s claim region v)) s

/-- ENT_GID_COMMIT (R418): the high word of a GID is complete. -/
def execEntGidCommit (port gid v : Nat) (s : State) : Answer :=
  always (fun s => viaWide s 0 (entOff (0x808 + 0x100 * port + 16 * gid)) (inP0 (.entGidCommit port gid v) fun s => gidCommit s port gid (v % 2 ^ 64))) s

end Sys2Proof.Machine
end

