-- ==== Sys2Proof/Machine/PcieCmds.lean ====
section
/-! DEFINITION. Commands: the PCIe endpoint (chapter 14). A function is the physical one, 0, or a claim's, n + 1. -/

namespace Sys2Proof.Machine

/-- PCIE_LINK_TRAIN (R281): the highest rate and width that the other end allows. -/
def execPcieLinkTrain (gen width : Nat) (s : State) : Answer := onDies (fun s => pcieTrain s gen width) s

/-- PCIE_LINK_DOWN (R293). -/
def execPcieLinkDown (s : State) : Answer := onDies pcieDown s

/-- PF_FUNCTION_LEVEL_RESET (R292). -/
def execPfFunctionLevelReset (s : State) : Answer := onHost pfReset s

/-- BUS_MASTER_ENABLE_WRITE (R288): where requests resume, a waiting queue-pair command reads `context`, and queue pairs
go on with the answers `feeds`. -/
def execBusMasterEnableWrite (fn : Nat) (on : Bool) (context : HostResp) (feeds : List (Nat × HostResp × HostResp)) (s : State) : Answer :=
  onHost (fun s => if fn < 9 then requestsChange s fn (fun f => { f with busMaster := on }) context feeds else s) s

/-- D3HOT_TRANSITION (R288), to D3hot or from it. -/
def execD3hotTransition (fn : Nat) (d3hot : Bool) (context : HostResp) (feeds : List (Nat × HostResp × HostResp)) (s : State) : Answer :=
  onHost (fun s => if fn < 9 then requestsChange s fn (fun f => { f with d3hot := d3hot }) context feeds else s) s

/-- MSIX_MASK_CHANGE (R290): a function's MSI-X Enable and Function Mask, and one vector's mask. -/
def execMsixMaskChange (fn : Nat) (enable mask : Bool) (vector : Nat) (masked : Bool) (s : State) : Answer :=
  onHost (fun s =>
    if fn < 9 then
      msixFlush (s.modFn fn fun f =>
        { f with msixEnable := enable, msixMask := mask, vecs := tmod f.vecs vector fun x => { x with masked := masked } }) fn
    else s) s

/-- HST_WIN_WRITE (R286): the base or the limit of a function's window. -/
def execHstWinWrite (fn window : Nat) (limit : Bool) (v : Nat) (s : State) : Answer :=
  always (fun s => viaWide s 0 (hstOff (0x1000 + 0x40 * fn + 16 * window + (if limit then 8 else 0))) (inP0 (.hstWinWrite fn window limit v) fun s =>
    winWrite s fn window limit v)) s

/-- UNSUPPORTED_REQUEST_RECEIVED (R289). -/
def execUnsupportedRequestReceived (fn : Nat) (s : State) : Answer := onHost (fun s => unsupported s fn) s

end Sys2Proof.Machine
end

