-- ==== Sys2Proof/Machine/PowerCmds.lean ====
section
/-! DEFINITION. Commands: power states, the power limit and temperatures (chapters 18 and 21). -/

namespace Sys2Proof.Machine

/-- PWR_REQUEST_P2 (R392): PWR_CTRL is written with go, request 2 and wake_on_doorbell. -/
def execPwrRequestP2 (wake : Bool) (s : State) : Answer :=
  always (fun s => viaReg s 0 (pwrOff 0x8) fun s => powerGo s 2 wake) s

/-- PWR_REQUEST_P0 (R393): request 0. -/
def execPwrRequestP0 (wake : Bool) (s : State) : Answer :=
  always (fun s => viaReg s 0 (pwrOff 0x8) fun s => powerGo s 0 wake) s

/-- PWR_REQUEST_P3 (R394): request 3. -/
def execPwrRequestP3 (wake : Bool) (s : State) : Answer :=
  always (fun s => viaReg s 0 (pwrOff 0x8) fun s => powerGo s 3 wake) s

/-- POWER_LIMIT_CHECK (R395): the 1 ms average and the 10 µs sample, in W. -/
def execPowerLimitCheck (avg sample : Nat) (s : State) : Answer := always (fun s => limitCheck s avg sample) s

/-- THERMAL_SAMPLE (R437): the hottest monitor of each die, F0 to F3, V0, V1, H and L, in °C. -/
def execThermalSample (temps : List Int) (s : State) : Answer := always (fun s => thermalSample s temps) s

end Sys2Proof.Machine
end

