-- ==== Sys2Proof/Machine/RegCmds.lean ====
section
/-! DEFINITION. Commands: host accesses to registers (R6, R8, R420). -/

namespace Sys2Proof.Machine

/-- REGISTER_WRITE (R6): function `fn` writes `width` bytes at an offset of its BAR0. -/
def execRegisterWrite (fn off width v : Nat) (s : State) : Answer := always (writeAt (.registerWrite fn off width v) fn off fun s => regWrite s fn off width v) s

/-- REG_LOW_HALF_READ (R8, R9): a read of `width` bytes at an offset, the low half of a register where `width` is 4. -/
def execRegLowHalfRead (fn off : Nat) (s : State) (width : Nat := 4) : Answer :=
  always (fun s => completeRead s fn off (readWidth s fn off width)) s

/-- REG_LOW_HALF_WRITE (R8): `off` is the register's own offset. -/
def execRegLowHalfWrite (fn off v : Nat) (s : State) : Answer := always (writeAt (.regLowHalfWrite fn off v) fn off fun s => writeLow s fn off v) s

/-- REG_HIGH_HALF_WRITE (R8): `off` is the register's own offset. -/
def execRegHighHalfWrite (fn off v : Nat) (s : State) : Answer := always (writeAt (.regHighHalfWrite fn off v) fn off fun s => writeHigh s fn off v) s

/-- PWR_MEASURE_READ (R420), of all 64 bits or of the low half. -/
def execPwrMeasureRead (wide : Bool) (s : State) : Answer :=
  always (fun s => completeRead s 0 measureOff (readWidth s 0 measureOff (if wide then 8 else 4))) s

end Sys2Proof.Machine
end

