-- ==== Sys2Proof/Machine/RoundCmds.lean ====
section
/-! DEFINITION. Commands: rounds and their controllers (chapter 13). -/

namespace Sys2Proof.Machine

/-- ROUND_ARM (R268): the block address is not 0. -/
def execRoundArm (shoe seq level : Nat) (s : State) : Answer :=
  onDies (gate shoe seq level 0x0A (fun b => field b 8 5 != 0) fun s =>
    withCmd s shoe seq level 0x0A fun g b => roundArm s shoe seq level g b) s

/-- ROUND_DISARM (R269): the block address is 0. -/
def execRoundDisarm (shoe seq level : Nat) (s : State) : Answer :=
  onDies (gate shoe seq level 0x0A (fun b => field b 8 5 == 0) fun s =>
    withCmd s shoe seq level 0x0A fun g b => roundDisarm s shoe seq level g b) s

/-- ROUND_STEP_TRIGGER (R272) of a controller. -/
def execRoundStepTrigger (ctrl : Nat) (s : State) : Answer := onDies (fun s => triggerStep s ctrl) s

/-- ROUND_HAND_SEND (R272). -/
def execRoundHandSend (ctrl : Nat) (s : State) : Answer := onDies (fun s => sendHand s ctrl) s

/-- PASS_TIMEOUT (R278). -/
def execPassTimeout (ctrl : Nat) (s : State) : Answer := onDies (fun s => passTimeout s ctrl) s

end Sys2Proof.Machine
end

