-- ==== Sys2Proof/Machine/SecCmds.lean ====
section
/-! DEFINITION. Commands: security, debug and JTAG (chapter 18). A security block is what the Lamphouse's read of host
memory brings. -/

namespace Sys2Proof.Machine

/-- SEC_KEY_SLOT (R378); `verified` is whether blown fuses read back as they should. -/
def execSecKeySlot (block : HostResp) (verified : Bool) (s : State) : Answer :=
  always (fun s => viaReg s 0 (secOff 0x18) fun s => secBlock s 256 block fun s b => keySlotBlock s b verified) s

/-- SEC_DEBUG_GRANT (R383). -/
def execSecDebugGrant (block : HostResp) (s : State) : Answer :=
  always (fun s => viaReg s 0 (secOff 0x18) fun s => secBlock s 224 block grantBlock) s

/-- SEC_DEBUG_REVOKE (R384). -/
def execSecDebugRevoke (claim : Nat) (s : State) : Answer :=
  always (fun s => viaReg s 0 (secOff 0x18) fun s => secPlain s fun s => revokeGrant s (claim % 8)) s

/-- SEC_VENDOR_OPEN (R385); `env` is what the environment decides about the cold start that follows. -/
def execSecVendorOpen (block : HostResp) (env : BootEnv) (s : State) : Answer :=
  always (fun s => viaReg s 0 (secOff 0x18) fun s => secBlock s 416 block fun s b => unlockBlock s b env) s

/-- DEBUG_GRANT_EXPIRY (R384). -/
def execDebugGrantExpiry (claim : Nat) (s : State) : Answer := onDies (fun s => grantExpiry s claim) s

/-- DBG_HALT (R386): the claim's DBG_CTRL.halt is written. -/
def execDbgHalt (claim : Nat) (s : State) : Answer := always (fun s => viaClaim s claim 0x40008 fun s => dbgHalt s claim) s

/-- DBG_RESUME (R387). -/
def execDbgResume (claim : Nat) (s : State) : Answer := always (fun s => viaClaim s claim 0x40008 fun s => dbgResume s claim) s

/-- DBG_STEP (R387). -/
def execDbgStep (claim : Nat) (s : State) : Answer := always (fun s => viaClaim s claim 0x40008 fun s => dbgStep s claim) s

/-- DBG_OBSERVE (R388): DBG_OBS_SEL is written with go. -/
def execDbgObserve (claim v : Nat) (s : State) : Answer := always (fun s => viaClaim s claim 0x40020 fun s => dbgObserve s claim v) s

/-- JTAG_IDCODE (R390). -/
def execJtagIdcode (s : State) : Answer := always jtagIdcode s

/-- JTAG_BYPASS (R390). -/
def execJtagBypass (s : State) : Answer := always jtagBypass s

/-- JTAG_SAMPLE_PRELOAD (R390): the pins as sampled. DESIGN CHOICE, log entry 104. -/
def execJtagSamplePreload (v : Nat) (s : State) : Answer := always (fun s => jtagBoundary s false v) s

/-- JTAG_EXTEST (R390): the boundary register's value. -/
def execJtagExtest (v : Nat) (s : State) : Answer := always (fun s => jtagBoundary s true v) s

/-- JTAG_DEBUG_ACCESS (R390). -/
def execJtagDebugAccess (action : DapAction) (s : State) : Answer := always (fun s => jtagAccess s action) s

end Sys2Proof.Machine
end

