-- ==== Sys2Proof/Machine/ShoeCmds.lean ====
section
/-! DEFINITION. Commands: shoes, their entries, items, outcomes and the ledger's lookup (chapters 5 and 6). A shoe is a
claim's, 0 to 7, or the steward's, 8. -/

namespace Sys2Proof.Machine

/-- SHOE_DOORBELL (R88): SHOE_PRODUCE is written. -/
def execShoeDoorbell (shoe v : Nat) (s : State) : Answer := always (fun s => viaShoe s shoe 0x18 fun s => ringBell s shoe v) s

/-- SHOE_FETCH_ENTRY (R88). -/
def execShoeFetchEntry (shoe : Nat) (s : State) : Answer := onDies (fun s => fetchEntry s shoe) s

/-- DECK_READ_COMPLETE (R89): what the reads of the entry and, if it names one, of its deck bring. -/
def execDeckReadComplete (shoe : Nat) (entry deck : HostResp) (s : State) : Answer := onDies (fun s => deckRead s shoe entry deck) s

/-- ITEM_START (R125). -/
def execItemStart (shoe : Nat) (s : State) : Answer := onDies (fun s => startItem s shoe) s

/-- SHOE_TIMEOUT (R101) of an item, with the items of other shoes that expire in the same tick; `finish` says whether
step 5 of the redeal ends within its bound and `activeUs` is the active time of the item that faults. -/
def execShoeTimeout (shoe seq activeUs : Nat) (others : List (Nat × Nat)) (finish : Bool) (s : State) : Answer :=
  onDies (fun s => timersExpire s activeUs (((shoe, seq) :: others).map fun x => (x.1, x.2, 0x0301)) finish) s

/-- RT_LANE_TIMEOUT (R121) of a macro-instruction on a real-time lane. -/
def execRtLaneTimeout (lane mid : Nat) (finish : Bool) (s : State) : Answer := onDies (fun s => laneExpires s lane mid finish) s

/-- ITEM_COMMIT (R124). -/
def execItemCommit (shoe seq : Nat) (s : State) : Answer := onDies (fun s => commitItem s shoe seq) s

/-- OUTCOME_WRITE (R103), after what the Dealer's reads of headframe structures found bad, if anything: the structure
and its macro, row and word (R352, R362). -/
def execOutcomeWrite (shoe : Nat) (bad : Option (HeadFault × Nat × Nat × Nat)) (s : State) : Answer :=
  onDies (fun s => writeOutcomes (match bad with
    | some b => headFault s b.1 b.2.1 b.2.2.1 b.2.2.2
    | none => s) shoe) s

/-- MODERATION_TIMEOUT (R106). -/
def execModerationTimeout (shoe : Nat) (s : State) : Answer := onDies (fun s => moderationEnds s shoe) s

/-- SHEET_CONSUMED_WRITE (R104). -/
def execSheetConsumedWrite (shoe v : Nat) (s : State) : Answer := always (fun s => viaShoe s shoe 0x58 (inP0 (.sheetConsumedWrite shoe v) fun s => writeConsumed s shoe v)) s

/-- SHOE_ENABLE (R107): SHOE_CTRL is written with enable 1. The claim's queue pairs that a redeal held go on with the
answers `feeds` (R304). -/
def execShoeEnable (shoe v : Nat) (feeds : List (Nat × HostResp × HostResp)) (s : State) : Answer :=
  always (fun s => viaShoe s shoe 0x08 (inP0 (.shoeEnable shoe v feeds) fun s =>
    shoeEnable s shoe (v % 2 ^ 31 + 2 ^ 31) feeds)) s

/-- SHOE_DISABLE (R107): SHOE_CTRL is written with enable 0. -/
def execShoeDisable (shoe v : Nat) (s : State) : Answer :=
  always (fun s => viaShoe s shoe 0x08 (inP0 (.shoeDisable shoe v) fun s => disableShoe s shoe (v % 2 ^ 31))) s

/-- SHEET_ENABLE (R102): SHEET_CTRL is written with enable. -/
def execSheetEnable (shoe v : Nat) (s : State) : Answer :=
  always (fun s => viaShoe s shoe 0x50 (inP0 (.sheetEnable shoe v) fun s => writeSheetCtrl s shoe (v % 2 ^ 31 + 2 ^ 31))) s

/-- SHOE_FETCH_WRITE (R108). -/
def execShoeFetchWrite (shoe v : Nat) (s : State) : Answer := always (fun s => viaShoe s shoe 0x20 (inP0 (.shoeFetchWrite shoe v) fun s => writeFetch s shoe v)) s

/-- LDG_LOOKUP (R127): LDG_LOOKUP_CTRL is written with go and a shoe. -/
def execLdgLookup (shoe : Nat) (s : State) : Answer := always (fun s => viaReg s 0 (ldgOff 0x18) (inP0 (.ldgLookup shoe) fun s => ledgerLookup s (shoe % 16))) s

end Sys2Proof.Machine
end

