-- ==== Sys2Proof/Machine/SyncCmds.lean ====
section
/-! DEFINITION. Commands: host and device windows on tallies, tricks, and the tiers' lookup registers (chapters 10 and
11). -/

namespace Sys2Proof.Machine

/-- TIER_LOOKUP (R212): TIER_LOOKUP_VA is written with go, an address and a table. -/
def execTierLookup (va table : Nat) (s : State) : Answer :=
  always (fun s => viaWide s 0 (tierOff 0x400) (inP0 (.tierLookup va table) fun s => tierLookup s (va % 2 ^ 40 + 2 ^ 40 * (table % 16) + 2 ^ 63))) s

/-- TIER_COMMON_SHARE_WRITE (R205). -/
def execTierCommonShareWrite (claim v : Nat) (s : State) : Answer :=
  always (fun s => viaReg s 0 (tierOff (0x100 + 8 * claim)) (inP0 (.tierCommonShareWrite claim v) fun s => writeShare s claim v)) s

/-- TLY_OP_ADD (R219): a write in a claim's window on its tally. -/
def execTlyOpAdd (claim tally v : Nat) (s : State) : Answer :=
  always (fun s => viaClaimWide s claim (0x20008 + 16 * tally) (inP0 (.tlyOpAdd claim tally v) fun s => tallyOp s claim tally 0 (v % 2 ^ 32))) s

/-- TLY_OP_SET (R219). -/
def execTlyOpSet (claim tally v : Nat) (s : State) : Answer :=
  always (fun s => viaClaimWide s claim (0x20008 + 16 * tally) (inP0 (.tlyOpSet claim tally v) fun s => tallyOp s claim tally 1 (v % 2 ^ 32))) s

/-- TLY_OP_POISON (R219). -/
def execTlyOpPoison (claim tally : Nat) (s : State) : Answer :=
  always (fun s => viaClaimWide s claim (0x20008 + 16 * tally) (inP0 (.tlyOpPoison claim tally) fun s => tallyOp s claim tally 5 0)) s

/-- TLY_HOST_WAIT_ARM (R220): a host wait slot is written with arm, a tally, a mode and a threshold. -/
def execTlyHostWaitArm (claim slot tally : Nat) (eq : Bool) (threshold : Nat) (s : State) : Answer :=
  always (fun s => viaClaimWide s claim (0x28000 + 16 * slot) (inP0 (.tlyHostWaitArm claim slot tally eq threshold) fun s =>
    waitWrite s claim slot (tally % 2 ^ 10 + 2 ^ 10 * b2n eq + 2 ^ 11 + 2 ^ 32 * (threshold % 2 ^ 32)))) s

/-- TLY_DEV_OP_ADD (R231): a steward write on device tally 0 to 63. -/
def execTlyDevOpAdd (tally v : Nat) (s : State) : Answer :=
  always (fun s => viaWide s 0 (tlyOff (0x8 + 16 * tally)) (inP0 (.tlyDevOpAdd tally v) fun s => deviceOp s tally 0 (v % 2 ^ 32))) s

/-- TLY_DEV_OP_SET (R231). -/
def execTlyDevOpSet (tally v : Nat) (s : State) : Answer :=
  always (fun s => viaWide s 0 (tlyOff (0x8 + 16 * tally)) (inP0 (.tlyDevOpSet tally v) fun s => deviceOp s tally 1 (v % 2 ^ 32))) s

/-- TLY_DEV_OP_ARM (R231). -/
def execTlyDevOpArm (tally v : Nat) (s : State) : Answer :=
  always (fun s => viaWide s 0 (tlyOff (0x8 + 16 * tally)) (inP0 (.tlyDevOpArm tally v) fun s => deviceOp s tally 4 (v % 2 ^ 32))) s

/-- TLY_DEV_OP_POISON (R231). -/
def execTlyDevOpPoison (tally : Nat) (s : State) : Answer :=
  always (fun s => viaWide s 0 (tlyOff (0x8 + 16 * tally)) (inP0 (.tlyDevOpPoison tally) fun s => deviceOp s tally 5 0)) s

/-- TRICK_ARRIVE_RECEIVED (R222). -/
def execTrickArriveReceived (round index generation : Nat) (origin : Seat) (tag : Nat) (s : State) : Answer :=
  onDies (fun s => arriveReceived s round index generation origin tag) s

/-- TRICK_RELEASE_RECEIVED (R222). -/
def execTrickReleaseReceived (round index generation tag : Nat) (s : State) : Answer :=
  onDies (fun s => releaseReceived s round index generation tag) s

/-- TRICK_POISON_RECEIVED (R224). -/
def execTrickPoisonReceived (round index : Nat) (origin : Seat) (tag : Nat) (s : State) : Answer :=
  onDies (fun s => poisonReceived s round index origin tag) s

end Sys2Proof.Machine
end

