-- ==== Sys2Proof/Machine/Dispatch.lean ====
section
/-! DEFINITION. One arm for each command. -/

namespace Sys2Proof.Machine

/-- The effect of a command on everything but the queue. -/
def exec (i : Instr) (s : State) : Host.Outcome State Fault Refusal :=
  match i with
  | .registerWrite fn off width v => Sys2Proof.Machine.execRegisterWrite fn off width v s
  | .regLowHalfRead fn off width => Sys2Proof.Machine.execRegLowHalfRead fn off s width
  | .regLowHalfWrite fn off v => Sys2Proof.Machine.execRegLowHalfWrite fn off v s
  | .regHighHalfWrite fn off v => Sys2Proof.Machine.execRegHighHalfWrite fn off v s
  | .pwrMeasureRead wide => Sys2Proof.Machine.execPwrMeasureRead wide s
  | .stbyPwrokRise flash fuses env => Sys2Proof.Machine.execStbyPwrokRise flash fuses env s
  | .flashReadTimeout env => Sys2Proof.Machine.execFlashReadTimeout env s
  | .bootStepTimeout env => Sys2Proof.Machine.execBootStepTimeout env s
  | .resetLRise env => Sys2Proof.Machine.execResetLRise env s
  | .pwrokRise env => Sys2Proof.Machine.execPwrokRise env s
  | .bootReady us => Sys2Proof.Machine.execBootReady us s
  | .pinBeatEdge ns => Sys2Proof.Machine.execPinBeatEdge ns s
  | .pinBeatFrame pulses => Sys2Proof.Machine.execPinBeatFrame pulses s
  | .reservationApplyTimeout claim => Sys2Proof.Machine.execReservationApplyTimeout claim s
  | .linkBeatMessage port hop count ns => Sys2Proof.Machine.execLinkBeatMessage port hop count ns s
  | .tokenBeatCommit => Sys2Proof.Machine.execTokenBeatCommit s
  | .fillerBeat => Sys2Proof.Machine.execFillerBeat s
  | .beatLoss => Sys2Proof.Machine.execBeatLoss s
  | .holdoverBeatEdge => Sys2Proof.Machine.execHoldoverBeatEdge s
  | .beatCalCommitArm atBeat => Sys2Proof.Machine.execBeatCalCommitArm atBeat s
  | .beatCalShadowWrite entry word v => Sys2Proof.Machine.execBeatCalShadowWrite entry word v s
  | .beatTokenDesignate round => Sys2Proof.Machine.execBeatTokenDesignate round s
  | .shareSet idx => Sys2Proof.Machine.execShareSet idx s
  | .scrubSlice idx => Sys2Proof.Machine.execScrubSlice idx s
  | .heatAge idx => Sys2Proof.Machine.execHeatAge idx s
  | .assayWindow idx => Sys2Proof.Machine.execAssayWindow idx s
  | .assayWindowClose => Sys2Proof.Machine.execAssayWindowClose s
  | .epochAdvance idx => Sys2Proof.Machine.execEpochAdvance idx s
  | .rollCall idx views => Sys2Proof.Machine.execRollCall idx views s
  | .checkpointWindow idx => Sys2Proof.Machine.execCheckpointWindow idx s
  | .checkpointWindowEnd => Sys2Proof.Machine.execCheckpointWindowEnd s
  | .markCmd idx => Sys2Proof.Machine.execMarkCmd idx s
  | .claimCreate seq level block => Sys2Proof.Machine.execClaimCreate seq level block s
  | .claimModify seq level block => Sys2Proof.Machine.execClaimModify seq level block s
  | .claimRelease seq level => Sys2Proof.Machine.execClaimRelease seq level s
  | .claimReleaseEnd claim => Sys2Proof.Machine.execClaimReleaseEnd claim s
  | .arbitrationFrameStart core idx => Sys2Proof.Machine.execArbitrationFrameStart core idx s
  | .arbitrationGrant core idx ns => Sys2Proof.Machine.execArbitrationGrant core idx ns s
  | .evtRingEnable ring v => Sys2Proof.Machine.execEvtRingEnable ring v s
  | .evtRingConsumedWrite ring v => Sys2Proof.Machine.execEvtRingConsumedWrite ring v s
  | .functionLevelReset claim => Sys2Proof.Machine.execFunctionLevelReset claim s
  | .flrComplete claim => Sys2Proof.Machine.execFlrComplete claim s
  | .vfEnableClear enable numVfs => Sys2Proof.Machine.execVfEnableClear enable numVfs s
  | .clmRtBindWrite v => Sys2Proof.Machine.execClmRtBindWrite v s
  | .rtBindApply => Sys2Proof.Machine.execRtBindApply s
  | .shoeDoorbell shoe v => Sys2Proof.Machine.execShoeDoorbell shoe v s
  | .shoeFetchEntry shoe => Sys2Proof.Machine.execShoeFetchEntry shoe s
  | .deckReadComplete shoe entry deck => Sys2Proof.Machine.execDeckReadComplete shoe entry deck s
  | .itemStart shoe => Sys2Proof.Machine.execItemStart shoe s
  | .nop shoe seq level => Sys2Proof.Machine.execNop shoe seq level s
  | .matmul shoe seq level => Sys2Proof.Machine.execMatmul shoe seq level s
  | .attend shoe seq level => Sys2Proof.Machine.execAttend shoe seq level s
  | .attendBwd shoe seq level => Sys2Proof.Machine.execAttendBwd shoe seq level s
  | .sfn shoe seq level => Sys2Proof.Machine.execSfn shoe seq level s
  | .norm shoe seq level => Sys2Proof.Machine.execNorm shoe seq level s
  | .reduceCmd shoe seq level => Sys2Proof.Machine.execReduceCmd shoe seq level s
  | .hoist shoe seq level => Sys2Proof.Machine.execHoist shoe seq level s
  | .convertCmd shoe seq level => Sys2Proof.Machine.execConvertCmd shoe seq level s
  | .assayRerank shoe seq level => Sys2Proof.Machine.execAssayRerank shoe seq level s
  | .macroDispatch shoe seq level granule => Sys2Proof.Machine.execMacroDispatch shoe seq level granule s
  | .macroStart part => Sys2Proof.Machine.execMacroStart part s
  | .tileGroupEnd core ns bad => Sys2Proof.Machine.execTileGroupEnd core ns bad s
  | .macroComplete part => Sys2Proof.Machine.execMacroComplete part s
  | .p1Entry core => Sys2Proof.Machine.execP1Entry core s
  | .laneDeck shoe seq level granule deck => Sys2Proof.Machine.execLaneDeck shoe seq level granule deck s
  | .laneDeckComplete shoe seq level => Sys2Proof.Machine.execLaneDeckComplete shoe seq level s
  | .tallyAdd shoe seq level => Sys2Proof.Machine.execTallyAdd shoe seq level s
  | .tallySet shoe seq level => Sys2Proof.Machine.execTallySet shoe seq level s
  | .tallyWaitGe shoe seq level => Sys2Proof.Machine.execTallyWaitGe shoe seq level s
  | .tallyWaitEq shoe seq level => Sys2Proof.Machine.execTallyWaitEq shoe seq level s
  | .tallyArm shoe seq level => Sys2Proof.Machine.execTallyArm shoe seq level s
  | .tallyPoison shoe seq level => Sys2Proof.Machine.execTallyPoison shoe seq level s
  | .waitMem shoe seq level => Sys2Proof.Machine.execWaitMem shoe seq level s
  | .waitMemPoll shoe seq level granule => Sys2Proof.Machine.execWaitMemPoll shoe seq level granule s
  | .waitMemReadReturn shoe seq level granule value => Sys2Proof.Machine.execWaitMemReadReturn shoe seq level granule value s
  | .writeMem shoe seq level => Sys2Proof.Machine.execWriteMem shoe seq level s
  | .hostCopy shoe seq level granule bursts data => Sys2Proof.Machine.execHostCopy shoe seq level granule bursts data s
  | .ifCmd shoe seq level => Sys2Proof.Machine.execIfCmd shoe seq level s
  | .loopCmd shoe seq level => Sys2Proof.Machine.execLoopCmd shoe seq level s
  | .loopIterationStart shoe seq level => Sys2Proof.Machine.execLoopIterationStart shoe seq level s
  | .callCmd shoe seq level granule deck => Sys2Proof.Machine.execCallCmd shoe seq level granule deck s
  | .callComplete shoe seq level => Sys2Proof.Machine.execCallComplete shoe seq level s
  | .roundArm shoe seq level => Sys2Proof.Machine.execRoundArm shoe seq level s
  | .roundDisarm shoe seq level => Sys2Proof.Machine.execRoundDisarm shoe seq level s
  | .assaySearch shoe seq level => Sys2Proof.Machine.execAssaySearch shoe seq level s
  | .assayMerge shoe seq level => Sys2Proof.Machine.execAssayMerge shoe seq level s
  | .pageMap shoe seq level => Sys2Proof.Machine.execPageMap shoe seq level s
  | .pageUnmap shoe seq level => Sys2Proof.Machine.execPageUnmap shoe seq level s
  | .pagePromote shoe seq level => Sys2Proof.Machine.execPagePromote shoe seq level s
  | .pageDemote shoe seq level => Sys2Proof.Machine.execPageDemote shoe seq level s
  | .pageMoveCommit table page => Sys2Proof.Machine.execPageMoveCommit table page s
  | .clearCmd seq level units => Sys2Proof.Machine.execClearCmd seq level units s
  | .clearComplete seq level => Sys2Proof.Machine.execClearComplete seq level s
  | .commonLoad seq level data => Sys2Proof.Machine.execCommonLoad seq level data s
  | .commonRemove seq level => Sys2Proof.Machine.execCommonRemove seq level s
  | .tableLoad seq level table => Sys2Proof.Machine.execTableLoad seq level table s
  | .tableLoadCommit slot => Sys2Proof.Machine.execTableLoadCommit slot s
  | .fenceClear seq level => Sys2Proof.Machine.execFenceClear seq level s
  | .sealCmd seq level flashOk => Sys2Proof.Machine.execSeal seq level flashOk s
  | .shoeTimeout shoe seq activeUs others finish => Sys2Proof.Machine.execShoeTimeout shoe seq activeUs others finish s
  | .rtLaneTimeout lane mid finish => Sys2Proof.Machine.execRtLaneTimeout lane mid finish s
  | .itemCommit shoe seq => Sys2Proof.Machine.execItemCommit shoe seq s
  | .outcomeWrite shoe bad => Sys2Proof.Machine.execOutcomeWrite shoe bad s
  | .moderationTimeout shoe => Sys2Proof.Machine.execModerationTimeout shoe s
  | .sheetConsumedWrite shoe v => Sys2Proof.Machine.execSheetConsumedWrite shoe v s
  | .shoeEnable shoe v feeds => Sys2Proof.Machine.execShoeEnable shoe v feeds s
  | .shoeDisable shoe v => Sys2Proof.Machine.execShoeDisable shoe v s
  | .sheetEnable shoe v => Sys2Proof.Machine.execSheetEnable shoe v s
  | .shoeFetchWrite shoe v => Sys2Proof.Machine.execShoeFetchWrite shoe v s
  | .ldgLookup shoe => Sys2Proof.Machine.execLdgLookup shoe s
  | .tierLookup va table => Sys2Proof.Machine.execTierLookup va table s
  | .tierCommonShareWrite claim v => Sys2Proof.Machine.execTierCommonShareWrite claim v s
  | .tlyOpAdd claim tally v => Sys2Proof.Machine.execTlyOpAdd claim tally v s
  | .tlyOpSet claim tally v => Sys2Proof.Machine.execTlyOpSet claim tally v s
  | .tlyOpPoison claim tally => Sys2Proof.Machine.execTlyOpPoison claim tally s
  | .tlyHostWaitArm claim slot tally eq threshold => Sys2Proof.Machine.execTlyHostWaitArm claim slot tally eq threshold s
  | .tlyDevOpAdd tally v => Sys2Proof.Machine.execTlyDevOpAdd tally v s
  | .tlyDevOpSet tally v => Sys2Proof.Machine.execTlyDevOpSet tally v s
  | .tlyDevOpArm tally v => Sys2Proof.Machine.execTlyDevOpArm tally v s
  | .tlyDevOpPoison tally => Sys2Proof.Machine.execTlyDevOpPoison tally s
  | .trickArriveReceived round index generation origin tag => Sys2Proof.Machine.execTrickArriveReceived round index generation origin tag s
  | .trickReleaseReceived round index generation tag => Sys2Proof.Machine.execTrickReleaseReceived round index generation tag s
  | .trickPoisonReceived round index origin tag => Sys2Proof.Machine.execTrickPoisonReceived round index origin tag s
  | .portTrainingStart port result => Sys2Proof.Machine.execPortTrainingStart port result s
  | .portTrainingTimeout port => Sys2Proof.Machine.execPortTrainingTimeout port s
  | .portRetrainTimer port result => Sys2Proof.Machine.execPortRetrainTimer port result s
  | .helloReceived port payload => Sys2Proof.Machine.execHelloReceived port payload s
  | .quarantineReceived port => Sys2Proof.Machine.execQuarantineReceived port s
  | .flitReceived port lane bytes dest ns => Sys2Proof.Machine.execFlitReceived port lane bytes dest ns s
  | .nakReceived port lane ack => Sys2Proof.Machine.execNakReceived port lane ack s
  | .replayLimitReached port lane => Sys2Proof.Machine.execReplayLimitReached port lane s
  | .laneFailure port lane => Sys2Proof.Machine.execLaneFailure port lane s
  | .lanesReceived port bitmap => Sys2Proof.Machine.execLanesReceived port bitmap s
  | .lanesAckReceived port bitmap => Sys2Proof.Machine.execLanesAckReceived port bitmap s
  | .portFailure port => Sys2Proof.Machine.execPortFailure port s
  | .echoTimer => Sys2Proof.Machine.execEchoTimer s
  | .echoReceived port payload ns => Sys2Proof.Machine.execEchoReceived port payload ns s
  | .handReceived header data crcOk => Sys2Proof.Machine.execHandReceived header data crcOk s
  | .putReceived header data crcOk => Sys2Proof.Machine.execPutReceived header data crcOk s
  | .signalReceived header => Sys2Proof.Machine.execSignalReceived header s
  | .receiptReceived header => Sys2Proof.Machine.execReceiptReceived header s
  | .abortReceived header => Sys2Proof.Machine.execAbortReceived header s
  | .receiptTimeout transfer => Sys2Proof.Machine.execReceiptTimeout transfer s
  | .messageForward port cls trick dest header data trailer => Sys2Proof.Machine.execMessageForward port cls trick dest header data trailer s
  | .szlHoldDown port hold => Sys2Proof.Machine.execSzlHoldDown port hold s
  | .szlRetrain port result => Sys2Proof.Machine.execSzlRetrain port result s
  | .szlClearCounters port => Sys2Proof.Machine.execSzlClearCounters port s
  | .szlpLinkFailure link => Sys2Proof.Machine.execSzlpLinkFailure link s
  | .szlpRetrain link ok => Sys2Proof.Machine.execSzlpRetrain link ok s
  | .failedPortIdle => Sys2Proof.Machine.execFailedPortIdle s
  | .roundStepTrigger ctrl => Sys2Proof.Machine.execRoundStepTrigger ctrl s
  | .roundHandSend ctrl => Sys2Proof.Machine.execRoundHandSend ctrl s
  | .passTimeout ctrl => Sys2Proof.Machine.execPassTimeout ctrl s
  | .pcieLinkTrain gen width => Sys2Proof.Machine.execPcieLinkTrain gen width s
  | .pcieLinkDown => Sys2Proof.Machine.execPcieLinkDown s
  | .pfFunctionLevelReset => Sys2Proof.Machine.execPfFunctionLevelReset s
  | .busMasterEnableWrite fn on context feeds => Sys2Proof.Machine.execBusMasterEnableWrite fn on context feeds s
  | .d3hotTransition fn d3hot context feeds => Sys2Proof.Machine.execD3hotTransition fn d3hot context feeds s
  | .msixMaskChange fn enable mask vector masked => Sys2Proof.Machine.execMsixMaskChange fn enable mask vector masked s
  | .hstWinWrite fn window limit v => Sys2Proof.Machine.execHstWinWrite fn window limit v s
  | .unsupportedRequestReceived fn => Sys2Proof.Machine.execUnsupportedRequestReceived fn s
  | .hostReadError target => Sys2Proof.Machine.execHostReadError target s
  | .ethLinkNegotiate port linked => Sys2Proof.Machine.execEthLinkNegotiate port linked s
  | .ethFrameReceived port good fill frame => Sys2Proof.Machine.execEthFrameReceived port good fill frame s
  | .rawRxConsumedWrite v => Sys2Proof.Machine.execRawRxConsumedWrite v s
  | .rawTxProduce v feeds => Sys2Proof.Machine.execRawTxProduce v feeds s
  | .qpCreate claim context => Sys2Proof.Machine.execQpCreate claim context s
  | .qpModify claim handle context => Sys2Proof.Machine.execQpModify claim handle context s
  | .qpDestroy claim handle => Sys2Proof.Machine.execQpDestroy claim handle s
  | .qpQuery claim handle => Sys2Proof.Machine.execQpQuery claim handle s
  | .sqDoorbell claim handle v feeds => Sys2Proof.Machine.execSqDoorbell claim handle v feeds s
  | .rqDoorbell claim handle v feeds => Sys2Proof.Machine.execRqDoorbell claim handle v feeds s
  | .cqConsumedWrite claim handle v feeds => Sys2Proof.Machine.execCqConsumedWrite claim handle v feeds s
  | .roceAckReceived claim handle psn reads feeds => Sys2Proof.Machine.execRoceAckReceived claim handle psn reads feeds s
  | .roceNakReceived claim handle psn code reads => Sys2Proof.Machine.execRoceNakReceived claim handle psn code reads s
  | .qpAckTimeout claim handle => Sys2Proof.Machine.execQpAckTimeout claim handle s
  | .rdmaWriteReceived claim handle psn rkey addr payload imm feeds => Sys2Proof.Machine.execRdmaWriteReceived claim handle psn rkey addr payload imm feeds s
  | .rdmaReadReceived claim handle psn rkey addr len data => Sys2Proof.Machine.execRdmaReadReceived claim handle psn rkey addr len data s
  | .roceSendReceived claim handle psn payload imm feeds => Sys2Proof.Machine.execRoceSendReceived claim handle psn payload imm feeds s
  | .cnpReceived claim handle => Sys2Proof.Machine.execCnpReceived claim handle s
  | .cePacketReceived claim handle => Sys2Proof.Machine.execCePacketReceived claim handle s
  | .rateIncreaseTimer claim handle => Sys2Proof.Machine.execRateIncreaseTimer claim handle s
  | .pfcFrameReceived port priority xoff => Sys2Proof.Machine.execPfcFrameReceived port priority xoff s
  | .entMrWrite claim region word v => Sys2Proof.Machine.execEntMrWrite claim region word v s
  | .entGidCommit port gid v => Sys2Proof.Machine.execEntGidCommit port gid v s
  | .asyIndexBind index va claim => Sys2Proof.Machine.execAsyIndexBind index va claim s
  | .asyIndexUnbind index v => Sys2Proof.Machine.execAsyIndexUnbind index v s
  | .batchComplete => Sys2Proof.Machine.execBatchComplete s
  | .continuousBatch => Sys2Proof.Machine.execContinuousBatch s
  | .asyAdvanceWrite index => Sys2Proof.Machine.execAsyAdvanceWrite index s
  | .backfill => Sys2Proof.Machine.execBackfill s
  | .eccWriteBack => Sys2Proof.Machine.execEccWriteBack s
  | .eccCeOverClear die group => Sys2Proof.Machine.execEccCeOverClear die group s
  | .eccLogRelease die entry => Sys2Proof.Machine.execEccLogRelease die entry s
  | .eccPatchInstall die mac row word => Sys2Proof.Machine.execEccPatchInstall die mac row word s
  | .eccPatchRemove die mac row word => Sys2Proof.Machine.execEccPatchRemove die mac row word s
  | .eccTestWriteNormal => Sys2Proof.Machine.execEccTestWriteNormal s
  | .eccTestWriteSplit => Sys2Proof.Machine.execEccTestWriteSplit s
  | .eccTestRead => Sys2Proof.Machine.execEccTestRead s
  | .eccTestArmFlip => Sys2Proof.Machine.execEccTestArmFlip s
  | .redealRequest finish => Sys2Proof.Machine.execRedealRequest finish s
  | .redealWalkEnd => Sys2Proof.Machine.execRedealWalkEnd s
  | .redealResume => Sys2Proof.Machine.execRedealResume s
  | .redealBoundExpiry => Sys2Proof.Machine.execRedealBoundExpiry s
  | .redealStallAlert => Sys2Proof.Machine.execRedealStallAlert s
  | .resetLFall => Sys2Proof.Machine.execResetLFall s
  | .pwrokFall => Sys2Proof.Machine.execPwrokFall s
  | .stbyPwrokFall => Sys2Proof.Machine.execStbyPwrokFall s
  | .resetHeldAlert => Sys2Proof.Machine.execResetHeldAlert s
  | .dealerUnitFault cls unit => Sys2Proof.Machine.execDealerUnitFault cls unit s
  | .lamphouseUnitDisable cls unit power => Sys2Proof.Machine.execLamphouseUnitDisable cls unit power s
  | .secKeySlot block verified => Sys2Proof.Machine.execSecKeySlot block verified s
  | .secDebugGrant block => Sys2Proof.Machine.execSecDebugGrant block s
  | .secDebugRevoke claim => Sys2Proof.Machine.execSecDebugRevoke claim s
  | .secVendorOpen block env => Sys2Proof.Machine.execSecVendorOpen block env s
  | .debugGrantExpiry claim => Sys2Proof.Machine.execDebugGrantExpiry claim s
  | .dbgHalt claim => Sys2Proof.Machine.execDbgHalt claim s
  | .dbgResume claim => Sys2Proof.Machine.execDbgResume claim s
  | .dbgStep claim => Sys2Proof.Machine.execDbgStep claim s
  | .dbgObserve claim v => Sys2Proof.Machine.execDbgObserve claim v s
  | .jtagIdcode => Sys2Proof.Machine.execJtagIdcode s
  | .jtagBypass => Sys2Proof.Machine.execJtagBypass s
  | .jtagSamplePreload v => Sys2Proof.Machine.execJtagSamplePreload v s
  | .jtagExtest v => Sys2Proof.Machine.execJtagExtest v s
  | .jtagDebugAccess action => Sys2Proof.Machine.execJtagDebugAccess action s
  | .pwrRequestP2 wake => Sys2Proof.Machine.execPwrRequestP2 wake s
  | .pwrRequestP0 wake => Sys2Proof.Machine.execPwrRequestP0 wake s
  | .pwrRequestP3 wake => Sys2Proof.Machine.execPwrRequestP3 wake s
  | .powerLimitCheck avg sample => Sys2Proof.Machine.execPowerLimitCheck avg sample s
  | .thermalSample temps => Sys2Proof.Machine.execThermalSample temps s
  | .avsbusCommandTimeout rail readBack => Sys2Proof.Machine.execAvsbusCommandTimeout rail readBack s
  | .railMonitorFault => Sys2Proof.Machine.execRailMonitorFault s
  | .refclkSzLoss => Sys2Proof.Machine.execRefclkSzLoss s
  | .crystalLoss => Sys2Proof.Machine.execCrystalLoss s
  | .qualifiedPwrokRestore env => Sys2Proof.Machine.execQualifiedPwrokRestore env s
  | .mctpPacketReceived packet pecOk hardwareOk env => Sys2Proof.Machine.execMctpPacketReceived packet pecOk hardwareOk env s
  | .setEndpointId eid => Sys2Proof.Machine.execSetEndpointId eid s
  | .getNonce => Sys2Proof.Machine.execGetNonce s
  | .mgmtSecurityKeySlot block verified => Sys2Proof.Machine.execMgmtSecurityKeySlot block verified s
  | .mgmtSecurityDebugGrant block => Sys2Proof.Machine.execMgmtSecurityDebugGrant block s
  | .mgmtSecurityDebugRevoke claim => Sys2Proof.Machine.execMgmtSecurityDebugRevoke claim s
  | .mgmtSecurityVendorOpen block env => Sys2Proof.Machine.execMgmtSecurityVendorOpen block env s
  | .flashRead off len => Sys2Proof.Machine.execFlashRead off len s
  | .flashErase off count ok => Sys2Proof.Machine.execFlashErase off count ok s
  | .flashWrite off data ok => Sys2Proof.Machine.execFlashWrite off data ok s
  | .bootRetry env => Sys2Proof.Machine.execBootRetry env s
  | .getTid => Sys2Proof.Machine.execGetTid s
  | .setTid tid => Sys2Proof.Machine.execSetTid tid s
  | .getPldmVersion type => Sys2Proof.Machine.execGetPldmVersion type s
  | .getPldmTypes => Sys2Proof.Machine.execGetPldmTypes s
  | .getPldmCommands type => Sys2Proof.Machine.execGetPldmCommands type s
  | .getPdrRepositoryInfo => Sys2Proof.Machine.execGetPdrRepositoryInfo s
  | .getPdr handle => Sys2Proof.Machine.execGetPdr handle s
  | .getSensorReading id => Sys2Proof.Machine.execGetSensorReading id s
  | .getStateSensorReadings id => Sys2Proof.Machine.execGetStateSensorReadings id s
  | .getNumericEffecterValue id => Sys2Proof.Machine.execGetNumericEffecterValue id s
  | .getStateEffecterStates id => Sys2Proof.Machine.execGetStateEffecterStates id s
  | .powerRequestEffecter request env => Sys2Proof.Machine.execPowerRequestEffecter request env s
  | .powerLimitEffecter watts => Sys2Proof.Machine.execPowerLimitEffecter watts s
  | .alertAcknowledge causes => Sys2Proof.Machine.execAlertAcknowledge causes s
  | .alertMask causes => Sys2Proof.Machine.execAlertMask causes s
  | .setEventReceiver mode receiver => Sys2Proof.Machine.execSetEventReceiver mode receiver s
  | .pollForPlatformEventMessage => Sys2Proof.Machine.execPollForPlatformEventMessage s
  | .platformEventMessage => Sys2Proof.Machine.execPlatformEventMessage s
  | .platformEventRetry => Sys2Proof.Machine.execPlatformEventRetry s
  | .platformEventAck => Sys2Proof.Machine.execPlatformEventAck s
  | .getVersion => Sys2Proof.Machine.execGetVersion s
  | .getCapabilities => Sys2Proof.Machine.execGetCapabilities s
  | .negotiateAlgorithms => Sys2Proof.Machine.execNegotiateAlgorithms s
  | .getDigests => Sys2Proof.Machine.execGetDigests s
  | .getCertificate slot off len => Sys2Proof.Machine.execGetCertificate slot off len s
  | .challenge nonce => Sys2Proof.Machine.execChallenge nonce s
  | .getMeasurements index signed nonce => Sys2Proof.Machine.execGetMeasurements index signed nonce s
  | .vfEnableSet numVfs => Sys2Proof.Machine.execVfEnableSet numVfs s
  | .ethLinkLoss port => Sys2Proof.Machine.execEthLinkLoss port s
  | .rnrTimerExpiry claim handle => Sys2Proof.Machine.execRnrTimerExpiry claim handle s

end Sys2Proof.Machine
end

