-- ==== Sys2Proof/Machine/TickOps.lean ====
section
/-! DEFINITION. What an idle queue does: one tick of the package's own clock. -/

namespace Sys2Proof.Machine

/-- A core goes on with the tile group of its current context (R128). -/
def coreTick (s : State) (c : Nat) (x : Core) : Core :=
  match x.current.bind (findMacro s) with
  | none => x
  | some m =>
    match m.workOn c with
    | none => x
    | some w => if m.phase = .running ∧ !m.halted.contains c then engineTick m w s.freeCtr x else x

/-- Every core's part of a tick. -/
def tickCores (s : State) : State :=
  (s.modDl fun d => { d with cores := Vector.ofFn fun c : Fin 96 => coreTick s c (tget d.cores c) }).draw

/-- The main dies' part of a tick: the cores go on (R128), what waits in receive buffers goes on, each
lane in use sends one flit (R238, R241), and what this seat sent to itself arrives. -/
def dieTick (s : State) : State := deliverLocal (tickLink (pumpAll (tickCores s)))

/-- A tick of an idle queue: the local timer advances by 1,000 ns (R58), and the dies have theirs while they run.
DESIGN CHOICE, log entry 3. -/
def idleTick (s : State) : State :=
  let t : State := { s with now := s.now + 1000 }
  if diesUp t then dieTick t else t

end Sys2Proof.Machine
end

