-- ==== Sys2Proof/Machine/Step.lean ====
section
/-! DEFINITION. The step: the command at the front of the queue, register writes that waited for P0, or a tick of the
package's own clock. -/

namespace Sys2Proof.Machine

/-- A tick of an idle queue: the local timer advances, each lane in use sends one flit, and messages that this seat sent to
itself arrive. -/
def tick (s : State) : State := idleTick s

/-- The register writes that P2 kept apply, in order (R393). -/
def runHeld : List Instr → State → Host.Outcome State Fault Refusal
  | [], s => .next s
  | c :: cs, s =>
    match exec c s with
    | .next t => runHeld cs t
    | .fault f => .fault f
    | .refused r => .refused r

/-- P0 has returned while register writes wait (R393). -/
def heldDue (s : State) : Bool := s.power.level == 0 && !s.held.isEmpty

/-- One step: the command at the front of the queue; on an empty queue, the register writes that waited for P0, or a tick. -/
def step (s : State) : Host.Outcome State Fault Refusal :=
  match s.pending with
  | [] => if heldDue s then runHeld s.held { s with held := [] } else .next (tick s)
  | c :: rest => exec c { s with pending := rest }

/-- The state with the command that a word spells at the front of its queue. -/
def State.withFetchWord (s : State) (nbits w : Nat) : State :=
  match decodeTableWord nbits w with
  | some c => { s with pending := c :: s.pending }
  | none => s

end Sys2Proof.Machine
end

