-- ==== Sys2Proof/Safety.lean ====
section
/-! DEFINITION. What counts as a safe step: it ends in a next state, and the two memory tiers and the flash keep their
canonical form. And what a statement says when it says that only some parts of the state change. -/

namespace Sys2Proof

open Machine

/-- The bytes of both tiers and of the flash are in canonical form; a flash byte of 0xFF is not listed. -/
def Machine.State.memWf (s : State) : Bool :=
  Memory.wf s.tiers.t1 && Memory.wf s.tiers.t2 && Memory.wf s.boot.flash.cells && s.boot.flash.cells.all fun c => c.2 != 0xFF#8

/-- The step ends in a next state whose memories are in canonical form. -/
def Safe (s : State) : Prop := ∃ t, step s = .next t ∧ t.memWf = true

/-- The parts of the state, one for each field of `State`. -/
inductive Part where
  | pending | held | freeCtr | now | out | boot | beat | cl | dl | tiers | sync | fns | redeal | fences | ecc | link | rounds
  | dbg | power | mgmt | pcie | net | asy
deriving DecidableEq, Repr

/-- A part has the same value in two states. -/
def Part.same (p : Part) (s t : State) : Prop :=
  match p with
  | .pending => t.pending = s.pending
  | .held => t.held = s.held
  | .freeCtr => t.freeCtr = s.freeCtr
  | .now => t.now = s.now
  | .out => t.out = s.out
  | .boot => t.boot = s.boot
  | .beat => t.beat = s.beat
  | .cl => t.cl = s.cl
  | .dl => t.dl = s.dl
  | .tiers => t.tiers = s.tiers
  | .sync => t.sync = s.sync
  | .fns => t.fns = s.fns
  | .redeal => t.redeal = s.redeal
  | .fences => t.fences = s.fences
  | .ecc => t.ecc = s.ecc
  | .link => t.link = s.link
  | .rounds => t.rounds = s.rounds
  | .dbg => t.dbg = s.dbg
  | .power => t.power = s.power
  | .mgmt => t.mgmt = s.mgmt
  | .pcie => t.pcie = s.pcie
  | .net => t.net = s.net
  | .asy => t.asy = s.asy

/-- Of all the parts of the state, only those listed may differ. -/
def OnlyParts (ps : List Part) (s t : State) : Prop := ∀ p : Part, p ∉ ps → p.same s t

/-- The command ends in a next state that has a property. -/
def Runs (i : Instr) (s : State) (p : State → Prop) : Prop := ∃ t, exec i s = .next t ∧ p t

/-! The rules of whole commands: what carries a command out, where a register write lands, and what a command may change. -/

/-- The main dies carry the command out (R41, R390); the Lamphouse, the endpoint or the PCIe function does otherwise.
DEDUCED, log entry 8. -/
def Instr.byDies : Instr → Bool
  | .pinBeatEdge .. | .pinBeatFrame .. | .reservationApplyTimeout .. | .linkBeatMessage .. | .tokenBeatCommit
  | .fillerBeat | .beatLoss | .holdoverBeatEdge | .shareSet .. | .scrubSlice .. | .heatAge .. | .assayWindow ..
  | .assayWindowClose | .epochAdvance .. | .rollCall .. | .checkpointWindow .. | .checkpointWindowEnd | .markCmd ..
  | .claimCreate .. | .claimModify .. | .claimRelease .. | .claimReleaseEnd .. | .arbitrationFrameStart ..
  | .arbitrationGrant .. | .functionLevelReset .. | .flrComplete .. | .vfEnableClear .. | .rtBindApply
  | .shoeFetchEntry .. | .deckReadComplete .. | .itemStart .. | .nop .. | .matmul .. | .attend .. | .attendBwd ..
  | .sfn .. | .norm .. | .reduceCmd .. | .hoist .. | .convertCmd .. | .assayRerank .. | .macroDispatch ..
  | .macroStart .. | .tileGroupEnd .. | .macroComplete .. | .p1Entry .. | .laneDeck .. | .laneDeckComplete ..
  | .tallyAdd .. | .tallySet .. | .tallyWaitGe .. | .tallyWaitEq .. | .tallyArm .. | .tallyPoison .. | .waitMem ..
  | .waitMemPoll .. | .waitMemReadReturn .. | .writeMem .. | .hostCopy .. | .ifCmd .. | .loopCmd ..
  | .loopIterationStart .. | .callCmd .. | .callComplete .. | .roundArm .. | .roundDisarm .. | .assaySearch ..
  | .assayMerge .. | .pageMap .. | .pageUnmap .. | .pagePromote .. | .pageDemote .. | .pageMoveCommit ..
  | .clearCmd .. | .clearComplete .. | .commonLoad .. | .commonRemove .. | .tableLoad .. | .tableLoadCommit ..
  | .fenceClear .. | .sealCmd .. | .shoeTimeout .. | .rtLaneTimeout .. | .itemCommit .. | .outcomeWrite ..
  | .moderationTimeout .. | .trickArriveReceived .. | .trickReleaseReceived .. | .trickPoisonReceived ..
  | .portTrainingStart .. | .portTrainingTimeout .. | .portRetrainTimer .. | .helloReceived ..
  | .quarantineReceived .. | .flitReceived .. | .nakReceived .. | .replayLimitReached .. | .laneFailure ..
  | .lanesReceived .. | .lanesAckReceived .. | .portFailure .. | .echoTimer | .echoReceived .. | .handReceived ..
  | .putReceived .. | .signalReceived .. | .receiptReceived .. | .abortReceived .. | .receiptTimeout ..
  | .messageForward .. | .szlpLinkFailure .. | .szlpRetrain .. | .failedPortIdle | .roundStepTrigger ..
  | .roundHandSend .. | .passTimeout .. | .pcieLinkTrain .. | .pcieLinkDown | .pfFunctionLevelReset
  | .busMasterEnableWrite .. | .d3hotTransition .. | .msixMaskChange .. | .unsupportedRequestReceived ..
  | .hostReadError .. | .ethLinkNegotiate .. | .ethFrameReceived .. | .roceAckReceived .. | .roceNakReceived ..
  | .qpAckTimeout .. | .rdmaWriteReceived .. | .rdmaReadReceived .. | .roceSendReceived .. | .cnpReceived ..
  | .cePacketReceived .. | .rateIncreaseTimer .. | .pfcFrameReceived .. | .batchComplete | .continuousBatch
  | .backfill | .eccWriteBack | .redealWalkEnd | .redealBoundExpiry | .redealStallAlert | .dealerUnitFault ..
  | .lamphouseUnitDisable .. | .debugGrantExpiry .. | .vfEnableSet .. | .ethLinkLoss .. | .rnrTimerExpiry .. => true
  | .registerWrite .. | .regLowHalfRead .. | .regLowHalfWrite .. | .regHighHalfWrite .. | .pwrMeasureRead ..
  | .stbyPwrokRise .. | .flashReadTimeout .. | .bootStepTimeout .. | .resetLRise .. | .pwrokRise .. | .bootReady ..
  | .beatCalCommitArm .. | .beatCalShadowWrite .. | .beatTokenDesignate .. | .evtRingEnable ..
  | .evtRingConsumedWrite .. | .clmRtBindWrite .. | .shoeDoorbell .. | .sheetConsumedWrite .. | .shoeEnable ..
  | .shoeDisable .. | .sheetEnable .. | .shoeFetchWrite .. | .ldgLookup .. | .tierLookup ..
  | .tierCommonShareWrite .. | .tlyOpAdd .. | .tlyOpSet .. | .tlyOpPoison .. | .tlyHostWaitArm .. | .tlyDevOpAdd ..
  | .tlyDevOpSet .. | .tlyDevOpArm .. | .tlyDevOpPoison .. | .szlHoldDown .. | .szlRetrain .. | .szlClearCounters ..
  | .hstWinWrite .. | .rawRxConsumedWrite .. | .rawTxProduce .. | .qpCreate .. | .qpModify .. | .qpDestroy ..
  | .qpQuery .. | .sqDoorbell .. | .rqDoorbell .. | .cqConsumedWrite .. | .entMrWrite .. | .entGidCommit ..
  | .asyIndexBind .. | .asyIndexUnbind .. | .asyAdvanceWrite .. | .eccCeOverClear .. | .eccLogRelease ..
  | .eccPatchInstall .. | .eccPatchRemove .. | .eccTestWriteNormal | .eccTestWriteSplit | .eccTestRead
  | .eccTestArmFlip | .redealRequest .. | .redealResume | .resetLFall | .pwrokFall | .stbyPwrokFall | .resetHeldAlert
  | .secKeySlot .. | .secDebugGrant .. | .secDebugRevoke .. | .secVendorOpen .. | .dbgHalt .. | .dbgResume ..
  | .dbgStep .. | .dbgObserve .. | .jtagIdcode | .jtagBypass | .jtagSamplePreload .. | .jtagExtest ..
  | .jtagDebugAccess .. | .pwrRequestP2 .. | .pwrRequestP0 .. | .pwrRequestP3 .. | .powerLimitCheck ..
  | .thermalSample .. | .avsbusCommandTimeout .. | .railMonitorFault | .refclkSzLoss | .crystalLoss
  | .qualifiedPwrokRestore .. | .mctpPacketReceived .. | .setEndpointId .. | .getNonce | .mgmtSecurityKeySlot ..
  | .mgmtSecurityDebugGrant .. | .mgmtSecurityDebugRevoke .. | .mgmtSecurityVendorOpen .. | .flashRead ..
  | .flashErase .. | .flashWrite .. | .bootRetry .. | .getTid | .setTid .. | .getPldmVersion .. | .getPldmTypes
  | .getPldmCommands .. | .getPdrRepositoryInfo | .getPdr .. | .getSensorReading .. | .getStateSensorReadings ..
  | .getNumericEffecterValue .. | .getStateEffecterStates .. | .powerRequestEffecter .. | .powerLimitEffecter ..
  | .alertAcknowledge .. | .alertMask .. | .setEventReceiver .. | .pollForPlatformEventMessage
  | .platformEventMessage | .platformEventRetry | .platformEventAck | .getVersion | .getCapabilities
  | .negotiateAlgorithms | .getDigests | .getCertificate .. | .challenge .. | .getMeasurements .. => false

/-- The function and the offset in its BAR0 of the register that the command writes or reads, for a command that is an
access to a register of its own row (chapter 20). -/
def Instr.place : Instr → Option (Nat × Nat)
  | .beatCalCommitArm _ => some (0, beatOff 0x30)
  | .beatCalShadowWrite entry word _ => some (0, beatOff (0x2000 + 16 * entry + 8 * word))
  | .beatTokenDesignate _ => some (0, beatOff 0x28)
  | .evtRingEnable ring _ => some (fnOf ring, ringOff ring 0x08)
  | .evtRingConsumedWrite ring _ => some (fnOf ring, ringOff ring 0x10)
  | .clmRtBindWrite _ => some (0, clmOff 0x1000)
  | .shoeDoorbell shoe _ => some (fnOf shoe, shoeOff shoe 0x18)
  | .sheetConsumedWrite shoe _ => some (fnOf shoe, shoeOff shoe 0x58)
  | .shoeEnable shoe _ _ => some (fnOf shoe, shoeOff shoe 0x08)
  | .shoeDisable shoe _ => some (fnOf shoe, shoeOff shoe 0x08)
  | .sheetEnable shoe _ => some (fnOf shoe, shoeOff shoe 0x50)
  | .shoeFetchWrite shoe _ => some (fnOf shoe, shoeOff shoe 0x20)
  | .ldgLookup _ => some (0, ldgOff 0x18)
  | .tierLookup _ _ => some (0, tierOff 0x400)
  | .tierCommonShareWrite claim _ => some (0, tierOff (0x100 + 8 * claim))
  | .tlyOpAdd claim tally _ => some (claim + 1, 0x20008 + 16 * tally)
  | .tlyOpSet claim tally _ => some (claim + 1, 0x20008 + 16 * tally)
  | .tlyOpPoison claim tally => some (claim + 1, 0x20008 + 16 * tally)
  | .tlyHostWaitArm claim slot _ _ _ => some (claim + 1, 0x28000 + 16 * slot)
  | .tlyDevOpAdd tally _ => some (0, tlyOff (0x8 + 16 * tally))
  | .tlyDevOpSet tally _ => some (0, tlyOff (0x8 + 16 * tally))
  | .tlyDevOpArm tally _ => some (0, tlyOff (0x8 + 16 * tally))
  | .tlyDevOpPoison tally => some (0, tlyOff (0x8 + 16 * tally))
  | .szlHoldDown port _ => some (0, szlOff (0x100 * port + 0x20))
  | .szlRetrain port _ => some (0, szlOff (0x100 * port + 0x20))
  | .szlClearCounters port => some (0, szlOff (0x100 * port + 0x20))
  | .hstWinWrite fn window limit _ => some (0, hstOff (0x1000 + 0x40 * fn + 16 * window + (if limit then 8 else 0)))
  | .rawRxConsumedWrite _ => some (0, entOff 0x1108)
  | .rawTxProduce _ _ => some (0, entOff 0x1118)
  | .qpCreate claim _ => some (claim + 1, 0x60008)
  | .qpModify claim _ _ => some (claim + 1, 0x60008)
  | .qpDestroy claim _ => some (claim + 1, 0x60008)
  | .qpQuery claim _ => some (claim + 1, 0x60008)
  | .sqDoorbell claim handle _ _ => some (claim + 1, 0x68000 + 16 * handle)
  | .rqDoorbell claim handle _ _ => some (claim + 1, 0x68004 + 16 * handle)
  | .cqConsumedWrite claim handle _ _ => some (claim + 1, 0x68008 + 16 * handle)
  | .entMrWrite claim region word _ => some (claim + 1, 0x61000 + 32 * region + 8 * word)
  | .entGidCommit port gid _ => some (0, entOff (0x808 + 0x100 * port + 16 * gid))
  | .asyIndexBind index _ _ => some (0, asyOff (0x1000 + 16 * index))
  | .asyIndexUnbind index _ => some (0, asyOff (0x1000 + 16 * index))
  | .asyAdvanceWrite _ => some (0, asyOff 0x10)
  | .eccCeOverClear die group => some (0, eccOff (0x1400 + 0x1000 * die + 4 * group))
  | .eccLogRelease die _ => some (0, eccOff (0x1200 + 0x1000 * die))
  | .eccPatchInstall _ _ _ _ => some (0, eccOff 0x200)
  | .eccPatchRemove _ _ _ _ => some (0, eccOff 0x200)
  | .eccTestWriteNormal => some (0, eccOff 0x128)
  | .eccTestWriteSplit => some (0, eccOff 0x128)
  | .eccTestRead => some (0, eccOff 0x128)
  | .eccTestArmFlip => some (0, eccOff 0x128)
  | .redealRequest _ => some (0, ldgOff 0x108)
  | .redealResume => some (0, ldgOff 0x108)
  | .secKeySlot _ _ => some (0, secOff 0x18)
  | .secDebugGrant _ => some (0, secOff 0x18)
  | .secDebugRevoke _ => some (0, secOff 0x18)
  | .secVendorOpen _ _ => some (0, secOff 0x18)
  | .dbgHalt claim => some (claim + 1, 0x40008)
  | .dbgResume claim => some (claim + 1, 0x40008)
  | .dbgStep claim => some (claim + 1, 0x40008)
  | .dbgObserve claim _ => some (claim + 1, 0x40020)
  | .pwrRequestP2 _ => some (0, pwrOff 0x8)
  | .pwrRequestP0 _ => some (0, pwrOff 0x8)
  | .pwrRequestP3 _ => some (0, pwrOff 0x8)
  | .registerWrite .. | .regLowHalfRead .. | .regLowHalfWrite .. | .regHighHalfWrite .. | .pwrMeasureRead ..
  | .stbyPwrokRise .. | .flashReadTimeout .. | .bootStepTimeout .. | .resetLRise .. | .pwrokRise .. | .bootReady ..
  | .pinBeatEdge .. | .pinBeatFrame .. | .reservationApplyTimeout .. | .linkBeatMessage .. | .tokenBeatCommit
  | .fillerBeat | .beatLoss | .holdoverBeatEdge | .shareSet .. | .scrubSlice .. | .heatAge .. | .assayWindow ..
  | .assayWindowClose | .epochAdvance .. | .rollCall .. | .checkpointWindow .. | .checkpointWindowEnd | .markCmd ..
  | .claimCreate .. | .claimModify .. | .claimRelease .. | .claimReleaseEnd .. | .arbitrationFrameStart ..
  | .arbitrationGrant .. | .functionLevelReset .. | .flrComplete .. | .vfEnableClear .. | .rtBindApply
  | .shoeFetchEntry .. | .deckReadComplete .. | .itemStart .. | .nop .. | .matmul .. | .attend .. | .attendBwd ..
  | .sfn .. | .norm .. | .reduceCmd .. | .hoist .. | .convertCmd .. | .assayRerank .. | .macroDispatch ..
  | .macroStart .. | .tileGroupEnd .. | .macroComplete .. | .p1Entry .. | .laneDeck .. | .laneDeckComplete ..
  | .tallyAdd .. | .tallySet .. | .tallyWaitGe .. | .tallyWaitEq .. | .tallyArm .. | .tallyPoison .. | .waitMem ..
  | .waitMemPoll .. | .waitMemReadReturn .. | .writeMem .. | .hostCopy .. | .ifCmd .. | .loopCmd ..
  | .loopIterationStart .. | .callCmd .. | .callComplete .. | .roundArm .. | .roundDisarm .. | .assaySearch ..
  | .assayMerge .. | .pageMap .. | .pageUnmap .. | .pagePromote .. | .pageDemote .. | .pageMoveCommit ..
  | .clearCmd .. | .clearComplete .. | .commonLoad .. | .commonRemove .. | .tableLoad .. | .tableLoadCommit ..
  | .fenceClear .. | .sealCmd .. | .shoeTimeout .. | .rtLaneTimeout .. | .itemCommit .. | .outcomeWrite ..
  | .moderationTimeout .. | .trickArriveReceived .. | .trickReleaseReceived .. | .trickPoisonReceived ..
  | .portTrainingStart .. | .portTrainingTimeout .. | .portRetrainTimer .. | .helloReceived ..
  | .quarantineReceived .. | .flitReceived .. | .nakReceived .. | .replayLimitReached .. | .laneFailure ..
  | .lanesReceived .. | .lanesAckReceived .. | .portFailure .. | .echoTimer | .echoReceived .. | .handReceived ..
  | .putReceived .. | .signalReceived .. | .receiptReceived .. | .abortReceived .. | .receiptTimeout ..
  | .messageForward .. | .szlpLinkFailure .. | .szlpRetrain .. | .failedPortIdle | .roundStepTrigger ..
  | .roundHandSend .. | .passTimeout .. | .pcieLinkTrain .. | .pcieLinkDown | .pfFunctionLevelReset
  | .busMasterEnableWrite .. | .d3hotTransition .. | .msixMaskChange .. | .unsupportedRequestReceived ..
  | .hostReadError .. | .ethLinkNegotiate .. | .ethFrameReceived .. | .roceAckReceived .. | .roceNakReceived ..
  | .qpAckTimeout .. | .rdmaWriteReceived .. | .rdmaReadReceived .. | .roceSendReceived .. | .cnpReceived ..
  | .cePacketReceived .. | .rateIncreaseTimer .. | .pfcFrameReceived .. | .batchComplete | .continuousBatch
  | .backfill | .eccWriteBack | .redealWalkEnd | .redealBoundExpiry | .redealStallAlert | .resetLFall | .pwrokFall
  | .stbyPwrokFall | .resetHeldAlert | .dealerUnitFault .. | .lamphouseUnitDisable .. | .debugGrantExpiry ..
  | .jtagIdcode | .jtagBypass | .jtagSamplePreload .. | .jtagExtest .. | .jtagDebugAccess .. | .powerLimitCheck ..
  | .thermalSample .. | .avsbusCommandTimeout .. | .railMonitorFault | .refclkSzLoss | .crystalLoss
  | .qualifiedPwrokRestore .. | .mctpPacketReceived .. | .setEndpointId .. | .getNonce | .mgmtSecurityKeySlot ..
  | .mgmtSecurityDebugGrant .. | .mgmtSecurityDebugRevoke .. | .mgmtSecurityVendorOpen .. | .flashRead ..
  | .flashErase .. | .flashWrite .. | .bootRetry .. | .getTid | .setTid .. | .getPldmVersion .. | .getPldmTypes
  | .getPldmCommands .. | .getPdrRepositoryInfo | .getPdr .. | .getSensorReading .. | .getStateSensorReadings ..
  | .getNumericEffecterValue .. | .getStateEffecterStates .. | .powerRequestEffecter .. | .powerLimitEffecter ..
  | .alertAcknowledge .. | .alertMask .. | .setEventReceiver .. | .pollForPlatformEventMessage
  | .platformEventMessage | .platformEventRetry | .platformEventAck | .getVersion | .getCapabilities
  | .negotiateAlgorithms | .getDigests | .getCertificate .. | .challenge .. | .getMeasurements .. | .vfEnableSet ..
  | .ethLinkLoss .. | .rnrTimerExpiry .. => none

/-- The parts of the state that a command may change: its frame. Memory is in tiers, and the flash in boot. -/
def Instr.parts : Instr → List Part
  | .getNonce | .flashRead .. | .getTid | .getPldmTypes | .getPldmCommands .. | .getPdrRepositoryInfo | .getPdr ..
  | .getSensorReading .. | .getStateSensorReadings .. | .getStateEffecterStates .. | .getDigests | .getCertificate ..
  | .getMeasurements .. => [.out]
  | .checkpointWindowEnd | .rtBindApply => [.cl]
  | .arbitrationFrameStart .. | .p1Entry .. | .laneDeckComplete .. | .loopIterationStart .. | .callComplete ..
  | .tableLoadCommit .. | .itemCommit .. => [.dl]
  | .echoTimer | .echoReceived .. => [.link]
  | .platformEventAck => [.mgmt]
  | .pcieLinkTrain .. | .vfEnableSet .. => [.pcie]
  | .ethLinkNegotiate .. | .cnpReceived .. | .rateIncreaseTimer .. | .ethLinkLoss .. => [.net]
  | .evtRingEnable .. | .evtRingConsumedWrite .. | .clmRtBindWrite .. => [.held, .cl]
  | .shoeDisable .. | .sheetEnable .. | .shoeFetchWrite .. | .ldgLookup .. => [.held, .dl]
  | .tierCommonShareWrite .. => [.held, .tiers]
  | .regLowHalfWrite .. | .hstWinWrite .. => [.held, .fns]
  | .eccCeOverClear .. | .eccLogRelease .. => [.held, .ecc]
  | .szlClearCounters .. => [.held, .link]
  | .rawRxConsumedWrite .. | .qpDestroy .. => [.held, .net]
  | .getPldmVersion .. | .getNumericEffecterValue .. | .challenge .. => [.freeCtr, .out]
  | .waitMemPoll .. => [.out, .dl]
  | .msixMaskChange .. => [.out, .fns]
  | .jtagIdcode | .jtagBypass | .jtagSamplePreload .. | .jtagExtest .. => [.out, .dbg]
  | .avsbusCommandTimeout .. | .powerLimitEffecter .. => [.out, .power]
  | .redealStallAlert | .setEndpointId .. | .setTid .. | .alertAcknowledge .. | .alertMask .. | .setEventReceiver ..
  | .pollForPlatformEventMessage | .platformEventMessage | .platformEventRetry | .getVersion | .getCapabilities
  | .negotiateAlgorithms => [.out, .mgmt]
  | .unsupportedRequestReceived .. => [.out, .pcie]
  | .ethFrameReceived .. | .cePacketReceived .. | .pfcFrameReceived .. => [.out, .net]
  | .commonRemove .. => [.dl, .tiers]
  | .dbgHalt .. | .dbgStep .. | .dbgObserve .. => [.dl, .dbg]
  | .eccWriteBack => [.tiers, .ecc]
  | .abortReceived .. | .messageForward .. => [.link, .rounds]
  | .qpQuery .. => [.held, .out, .net]
  | .beatCalCommitArm .. | .beatCalShadowWrite .. => [.held, .beat, .fns]
  | .tierLookup .. => [.held, .tiers, .fns]
  | .entMrWrite .. | .entGidCommit .. => [.held, .fns, .net]
  | .bootReady .. | .resetHeldAlert => [.out, .boot, .mgmt]
  | .reservationApplyTimeout .. => [.out, .cl, .fns]
  | .moderationTimeout .. => [.out, .dl, .fns]
  | .arbitrationGrant .. => [.out, .dl, .power]
  | .deckReadComplete .. | .waitMemReadReturn .. | .tableLoad .. => [.out, .dl, .pcie]
  | .regLowHalfRead .. | .pwrMeasureRead .. => [.out, .fns, .power]
  | .clearCmd .. | .clearComplete .. => [.dl, .tiers, .ecc]
  | .dbgResume .. => [.dl, .sync, .dbg]
  | .beatTokenDesignate .. => [.held, .out, .beat, .mgmt]
  | .tlyHostWaitArm .. => [.held, .out, .sync, .fns]
  | .rawTxProduce .. | .qpCreate .. => [.held, .out, .pcie, .net]
  | .eccPatchInstall .. | .eccPatchRemove .. => [.held, .tiers, .fns, .ecc]
  | .flashErase .. | .flashWrite .. => [.freeCtr, .out, .boot, .mgmt]
  | .shoeFetchEntry .. => [.out, .cl, .dl, .fns]
  | .jtagDebugAccess .. => [.out, .dl, .sync, .dbg]
  | .powerLimitCheck .. => [.out, .dl, .power, .mgmt]
  | .flrComplete .. => [.cl, .dl, .sync, .fns]
  | .sheetConsumedWrite .. => [.held, .out, .cl, .dl, .fns]
  | .beatLoss => [.out, .beat, .cl, .fns, .mgmt]
  | .nop .. | .matmul .. | .attend .. | .attendBwd .. | .sfn .. | .norm .. | .reduceCmd .. | .hoist ..
  | .convertCmd .. | .assayRerank .. | .waitMem .. | .writeMem .. | .ifCmd .. | .loopCmd .. =>
    [.out, .cl, .dl, .fns, .dbg]
  | .portTrainingStart .. | .portRetrainTimer .. | .lanesAckReceived .. | .szlpRetrain .. =>
    [.out, .cl, .fns, .link, .mgmt]
  | .shoeDoorbell .. => [.out, .dl, .link, .power, .mgmt]
  | .mgmtSecurityDebugGrant .. => [.freeCtr, .out, .cl, .fns, .dbg, .mgmt]
  | .pageMap .. | .pageUnmap .. | .pagePromote .. | .pageDemote .. => [.out, .cl, .dl, .tiers, .fns, .dbg]
  | .fenceClear .. => [.out, .cl, .dl, .fns, .fences, .mgmt]
  | .failedPortIdle => [.out, .cl, .fns, .link, .rounds, .mgmt]
  | .trickArriveReceived .. | .trickReleaseReceived .. | .signalReceived .. => [.out, .dl, .sync, .fns, .link, .rounds]
  | .tlyOpAdd .. | .tlyOpSet .. | .tlyOpPoison .. | .tlyDevOpAdd .. | .tlyDevOpSet .. | .tlyDevOpArm ..
  | .tlyDevOpPoison .. => [.held, .out, .dl, .sync, .fns, .link, .rounds]
  | .mgmtSecurityKeySlot .. => [.freeCtr, .out, .boot, .cl, .fns, .dbg, .mgmt]
  | .secDebugGrant .. => [.freeCtr, .out, .cl, .fns, .dbg, .mgmt, .pcie]
  | .pageMoveCommit .. => [.out, .cl, .dl, .tiers, .fns, .ecc, .mgmt]
  | .claimRelease .. | .secDebugRevoke .. | .debugGrantExpiry .. | .mgmtSecurityDebugRevoke .. =>
    [.out, .cl, .dl, .sync, .fns, .dbg, .mgmt]
  | .continuousBatch => [.out, .cl, .tiers, .fns, .ecc, .mgmt, .asy]
  | .trickPoisonReceived .. | .receiptTimeout .. | .passTimeout .. => [.out, .dl, .tiers, .sync, .fns, .link, .rounds]
  | .qpAckTimeout .. | .rnrTimerExpiry .. => [.out, .dl, .sync, .fns, .link, .rounds, .net]
  | .redealResume => [.held, .out, .boot, .cl, .dl, .fns, .redeal, .mgmt]
  | .eccTestWriteNormal | .eccTestWriteSplit | .eccTestRead | .eccTestArmFlip =>
    [.held, .out, .cl, .dl, .tiers, .fns, .ecc, .mgmt]
  | .secKeySlot .. => [.freeCtr, .out, .boot, .cl, .fns, .dbg, .mgmt, .pcie]
  | .claimCreate .. | .claimModify .. => [.freeCtr, .out, .cl, .dl, .tiers, .sync, .fns, .pcie]
  | .assayMerge .. => [.out, .cl, .dl, .tiers, .fns, .ecc, .dbg, .mgmt]
  | .commonLoad .. => [.out, .cl, .dl, .tiers, .fns, .ecc, .mgmt, .pcie]
  | .assayWindowClose | .batchComplete | .backfill => [.out, .cl, .dl, .tiers, .fns, .ecc, .mgmt, .asy]
  | .tallyAdd .. | .tallySet .. | .tallyWaitGe .. | .tallyWaitEq .. | .tallyArm .. | .tallyPoison .. =>
    [.out, .cl, .dl, .sync, .fns, .link, .rounds, .dbg]
  | .asyIndexBind .. | .asyIndexUnbind .. | .asyAdvanceWrite .. =>
    [.held, .out, .cl, .dl, .tiers, .fns, .ecc, .mgmt, .asy]
  | .qpModify .. | .rqDoorbell .. => [.held, .out, .dl, .sync, .fns, .link, .rounds, .pcie, .net]
  | .sealCmd .. => [.freeCtr, .out, .boot, .cl, .dl, .fns, .link, .dbg, .mgmt]
  | .redealWalkEnd => [.out, .boot, .cl, .dl, .tiers, .fns, .redeal, .ecc, .mgmt]
  | .roundDisarm .. => [.out, .cl, .dl, .tiers, .sync, .fns, .link, .rounds, .dbg]
  | .portTrainingTimeout .. | .helloReceived .. | .quarantineReceived .. | .nakReceived .. | .replayLimitReached ..
  | .laneFailure .. | .lanesReceived .. | .portFailure .. =>
    [.out, .cl, .dl, .tiers, .sync, .fns, .link, .rounds, .mgmt]
  | .hostCopy .. => [.out, .cl, .dl, .tiers, .fns, .ecc, .dbg, .mgmt, .pcie]
  | .assaySearch .. => [.out, .cl, .dl, .tiers, .fns, .ecc, .dbg, .mgmt, .asy]
  | .szlHoldDown .. | .szlRetrain .. => [.held, .out, .cl, .dl, .tiers, .sync, .fns, .link, .rounds, .mgmt]
  | .dealerUnitFault .. | .lamphouseUnitDisable .. =>
    [.out, .cl, .dl, .tiers, .sync, .fns, .fences, .link, .rounds, .mgmt]
  | .macroStart .. | .macroComplete .. | .handReceived .. | .receiptReceived .. | .roundStepTrigger ..
  | .roundHandSend .. => [.out, .cl, .dl, .tiers, .sync, .fns, .ecc, .link, .rounds, .mgmt]
  | .claimReleaseEnd .. => [.out, .cl, .dl, .tiers, .sync, .fns, .link, .rounds, .net, .asy]
  | .putReceived .. => [.freeCtr, .out, .cl, .dl, .tiers, .sync, .fns, .ecc, .link, .rounds, .mgmt]
  | .roundArm .. => [.out, .cl, .dl, .tiers, .sync, .fns, .ecc, .link, .rounds, .dbg, .mgmt]
  | .roceNakReceived .. => [.out, .cl, .dl, .tiers, .sync, .fns, .ecc, .link, .rounds, .mgmt, .net]
  | .functionLevelReset .. => [.out, .cl, .dl, .tiers, .sync, .fns, .link, .rounds, .dbg, .mgmt, .net]
  | .outcomeWrite .. | .szlpLinkFailure .. | .redealBoundExpiry =>
    [.out, .boot, .cl, .dl, .tiers, .sync, .fns, .redeal, .ecc, .link, .rounds, .mgmt]
  | .busMasterEnableWrite .. | .d3hotTransition .. | .roceAckReceived .. | .rdmaWriteReceived ..
  | .rdmaReadReceived .. | .roceSendReceived .. =>
    [.out, .cl, .dl, .tiers, .sync, .fns, .ecc, .link, .rounds, .mgmt, .pcie, .net]
  | .vfEnableClear .. | .pcieLinkDown | .pfFunctionLevelReset =>
    [.out, .cl, .dl, .tiers, .sync, .fns, .link, .rounds, .dbg, .mgmt, .pcie, .net]
  | .shoeEnable .. | .sqDoorbell .. | .cqConsumedWrite .. =>
    [.held, .out, .cl, .dl, .tiers, .sync, .fns, .ecc, .link, .rounds, .mgmt, .pcie, .net]
  | .tileGroupEnd .. => [.out, .boot, .cl, .dl, .tiers, .sync, .fns, .redeal, .ecc, .link, .rounds, .dbg, .power, .mgmt]
  | .pinBeatEdge .. | .pinBeatFrame .. | .linkBeatMessage .. | .tokenBeatCommit | .fillerBeat | .holdoverBeatEdge
  | .shareSet .. | .scrubSlice .. | .heatAge .. | .assayWindow .. | .epochAdvance .. | .rollCall ..
  | .checkpointWindow .. | .markCmd .. =>
    [.out, .beat, .cl, .dl, .tiers, .sync, .fns, .redeal, .fences, .ecc, .link, .rounds, .mgmt, .asy]
  | .flitReceived .. =>
    [.freeCtr, .out, .beat, .cl, .dl, .tiers, .sync, .fns, .redeal, .fences, .ecc, .link, .rounds, .mgmt, .asy]
  | .itemStart .. | .macroDispatch .. | .shoeTimeout .. | .rtLaneTimeout .. =>
    [.freeCtr, .out, .boot, .beat, .cl, .dl, .tiers, .sync, .fns, .redeal, .ecc, .link, .rounds, .dbg, .power, .mgmt,
      .net, .asy]
  | .redealRequest .. =>
    [.held, .freeCtr, .out, .boot, .beat, .cl, .dl, .tiers, .sync, .fns, .redeal, .ecc, .link, .rounds, .dbg, .power,
      .mgmt, .net, .asy]
  | .laneDeck .. | .callCmd .. =>
    [.freeCtr, .out, .boot, .beat, .cl, .dl, .tiers, .sync, .fns, .redeal, .ecc, .link, .rounds, .dbg, .power, .mgmt,
      .pcie, .net, .asy]
  | .resetLFall | .pwrokFall | .stbyPwrokFall | .pwrRequestP2 .. | .pwrRequestP0 .. | .pwrRequestP3 ..
  | .thermalSample .. | .railMonitorFault | .refclkSzLoss | .crystalLoss =>
    [.held, .out, .boot, .beat, .cl, .dl, .tiers, .sync, .fns, .redeal, .fences, .ecc, .link, .rounds, .dbg, .power,
      .mgmt, .pcie, .net, .asy]
  | .registerWrite .. | .regHighHalfWrite .. | .stbyPwrokRise .. | .flashReadTimeout .. | .bootStepTimeout ..
  | .resetLRise .. | .pwrokRise .. | .hostReadError .. | .secVendorOpen .. | .qualifiedPwrokRestore ..
  | .mctpPacketReceived .. | .mgmtSecurityVendorOpen .. | .bootRetry .. | .powerRequestEffecter .. =>
    [.held, .freeCtr, .out, .boot, .beat, .cl, .dl, .tiers, .sync, .fns, .redeal, .fences, .ecc, .link, .rounds,
      .dbg, .power, .mgmt, .pcie, .net, .asy]

end Sys2Proof
end

