-- ==== Sys2Proof/Terms.lean ====
section
/-! DEFINITION. The terms that the statements use beside the model's own. -/

namespace Sys2Proof

open Machine

/-- A write of the register at an offset of a function applies at once: no register write waits for P0, or the register acts in P2
too (R393). -/
def writesNow (s : State) (fn off : Nat) : Prop := writesWait s = false ∨ actsInP2 fn off = true

/-- A command's effect is P, unless its writes meet a page whose move is in progress: then it has none before that move commits (R197).
Where no page moves it has its effect. -/
def RunsAfterMoves (i : Instr) (s : State) (P : State → Prop) : Prop :=
  ∃ u, P u ∧ exec i s = .next (if s.tiers.moves.any (moveCommitted u) then s else u)

/-- The bytes that a host read brings, none where it fails. -/
def respData : HostResp → List Byte
  | .ok d => d
  | .err => []

/-- The state waits for R41 with an image that may be used at once (Table 2.7, step 9). -/
def waitsForRelease (s : State) : Prop :=
  s.boot.lamphouse = true ∧ s.boot.img.isSome = true ∧ s.boot.imageStale = false ∧ s.boot.released = false ∧ s.boot.step = 9 ∧
    s.boot.dev = .held ∧ s.boot.mainEn = true ∧ s.power.level ≠ 3

/-- The main dies have just been released, in step 10 (R41, R42). -/
def releasedNow (s t : State) : Prop :=
  t.boot.released = true ∧ t.boot.step = 10 ∧ t.boot.dev = .booting ∧ t.boot.releaseCause = 0 ∧ t.boot.releasedAt = s.now ∧
    t.boot.resetL = true ∧ t.boot.qualified = true ∧ t.boot.img = s.boot.img

/-- The main dies' part of the state is as it is after reset, and no register write waits. -/
def mainLost (t : State) : Prop :=
  t.beat = {} ∧ t.cl = {} ∧ t.dl = {} ∧ t.tiers = {} ∧ t.sync = {} ∧ t.fns = Vector.replicate 9 {} ∧ t.redeal = {} ∧ t.fences = {} ∧
    t.ecc = {} ∧ t.link = {} ∧ t.rounds = {} ∧ t.pcie = {} ∧ t.net = {} ∧ t.asy = {} ∧ t.held = []

/-- All state of the main dies is lost, and the package waits in HELD (R365, R366). -/
def coldStarted (s t : State) : Prop :=
  t.boot.released = false ∧ t.boot.dev = .held ∧ t.boot.step = 9 ∧ t.boot.heldSince = s.now ∧ t.boot.img = s.boot.img ∧
    t.boot.flash = s.boot.flash ∧ t.boot.fuses = s.boot.fuses ∧ t.boot.seat = s.boot.seat ∧ mainLost t

/-- The first condition of R392 that fails, by its code. -/
def refusalCode (s : State) (k : Nat) : Prop :=
  let busy : List Bool := [s.dl.items.any fun i => i.st != .resolved, s.rounds.ctrls.toList.any fun c => c.armed.isSome,
    s.net.qps.any fun q => q.st = .rtr || q.st = .rts, s.redealing, s.dbg.wins.toList.any (·.halted),
    decide (s.power.level ≠ 0) || decide (s.boot.dev = .failed)]
  1 ≤ k ∧ busy[k - 1]? = some true ∧ ∀ j < k - 1, busy[j]? = some false

/-- Of the beat block only the entries' own state differs: what fired, the phase reached, the calendars in force and a commit (R56,
R60). -/
def BeatQuiet (b c : Beat) : Prop :=
  c = { b with fired := c.fired, phase := c.phase, active := c.active, commitPending := c.commitPending, skippedRange := c.skippedRange }

/-- Entry j of the calendar comes before entry i in a beat: a lower phase, or a lower index at the same phase (R56, R58). -/
def entryBefore (s : State) (j i : Nat) : Prop :=
  cePhase (s.entry j) < cePhase (s.entry i) ∨ (cePhase (s.entry j) = cePhase (s.entry i) ∧ j < i)

/-- No other entry that is due comes before entry i. -/
def entryTurn (s : State) (i : Nat) : Prop := ∀ j < 64, entryDue s j = true → ¬ entryBefore s j i

/-- The state in which entry i acts: the phase counter has reached its phase (R55), and it is not due again in this beat. -/
def firing (s : State) (i : Nat) : State :=
  s.modBeat fun b => { b with phase := max b.phase (cePhase (s.entry i)), fired := b.fired ++ [i] }

/-- Entry i of the calendar is due, with an action that the package lets fire, and it is its turn (R56, R58, R61). -/
def entryReady (s : State) (i action : Nat) : Prop :=
  diesUp s = true ∧ entryDue s i = true ∧ ceAction (s.entry i) = action ∧ actionAllowed s action = true ∧ entryTurn s i

/-- Entry i has fired: it is not due again in this beat, and a once entry is disabled (R56, Table 3.3). -/
def entryFired (s t : State) (i : Nat) : Prop :=
  t.beat = { (firing s i).beat with
    active := if ceOnce (s.entry i) then tmod s.beat.active i (fun e => e.take 0xB ++ [e.getD 0xB 0#8 &&& 0xFE#8] ++ e.drop 0xC)
      else s.beat.active }

/-- The command that is entry i with an action of Table 3.4 (R57). -/
def calendarCmd (i : Nat) (views : List UnitView) : Nat → Option Instr
  | 1 => some (.shareSet i)
  | 2 => some (.scrubSlice i)
  | 3 => some (.heatAge i)
  | 4 => some (.assayWindow i)
  | 5 => some (.epochAdvance i)
  | 6 => some (.rollCall i views)
  | 7 => some (.checkpointWindow i)
  | 8 => some (.markCmd i)
  | _ => none

/-- A level of an item of the ledger. -/
def levelOf (s : State) (shoe seq l : Nat) : Option Level := (findItem s shoe seq).bind fun i => i.level l

/-- The next command of a level, with opcode op and bytes b, starts: no break of a debug window holds it (R92, R389). -/
def cmdStarts (s : State) (shoe seq l op : Nat) (lv : Level) (b : List Byte) : Prop :=
  diesUp s = true ∧ nextCmd s shoe seq l op = some (lv, lv.pc, b) ∧
    (shoe < 8 → (tget s.dbg.wins shoe).held = none ∧ (tget s.dbg.wins shoe).mode = 0)

/-- A level after its next command, of bytes b, has started and completed: the level stands behind it, it is not active,
and its event is set if it signals (R92). -/
def cmdDone (lv : Level) (b : List Byte) : Level :=
  { lv with
    pc := lv.pc + cmdSize b, active := lv.active.filter (·.granule != lv.pc)
    events := if cmdSigValid (cmdAt lv.bytes lv.pc) then lv.events ||| (1#8 <<< cmdSignal (cmdAt lv.bytes lv.pc)) else lv.events }

/-- A level after an active command at granule g has completed (R92). -/
def cmdEnded (lv : Level) (g : Nat) : Level :=
  { lv with
    active := lv.active.filter (·.granule != g)
    events := if cmdSigValid (cmdAt lv.bytes g) then lv.events ||| (1#8 <<< cmdSignal (cmdAt lv.bytes g)) else lv.events }

/-- A level after its next command has started and stays active in a state st. -/
def cmdHeld (now : Nat) (lv : Level) (b : List Byte) (st : CmdState) : Level :=
  { lv with pc := lv.pc + cmdSize b, active := lv.active ++ [{ granule := lv.pc, st := st, age := now }] }

/-- The item has failed with a cause (R98). -/
def itemFails (t : State) (shoe seq cause : Nat) : Prop :=
  ∃ i, findItem t shoe seq = some i ∧ i.st = .resolved ∧ i.out.failed = true ∧ i.out.cause = cause

/-- Every item but one is as it was. -/
def othersStay (s t : State) (shoe seq : Nat) : Prop :=
  ∀ a b, (a ≠ shoe ∨ b ≠ seq) → findItem t a b = findItem s a b

/-- A command of the level is active at granule g in a state st. -/
def activeAt (lv : Level) (g : Nat) (st : CmdState) : Prop := ∃ a ∈ lv.active, a.granule = g ∧ a.st = st

/-- A running item's active command at granule g of a level, with its bytes. -/
def cmdRuns (s : State) (shoe seq l g : Nat) (lv : Level) (a : Active) (b : List Byte) : Prop :=
  diesUp s = true ∧ activeCmd s shoe seq l g = some (lv, a, b)

/-- The comparison of an IF or a LOOP by its number (Table 5.4): GE, EQ, NE, LT. -/
def condHolds (cmp value operand : Nat) : Prop :=
  (cmp = 0 → operand ≤ value) ∧ (cmp = 1 → value = operand) ∧ (cmp = 2 → value ≠ operand) ∧ (3 ≤ cmp → value < operand)

/-- The frame of a LOOP at granule g (R111). -/
def loopFrame (g : Nat) (b : List Byte) : LoopFrame :=
  { granule := g, first := g + 1, last := g + 1 + field b 0xA 2, left := field b 0xC 4 - 1 }

/-- The innermost LOOP of a level has run its body to the end, and no command of the body is active (R111). -/
def loopWaits (s : State) (shoe seq l : Nat) (lv : Level) (f : LoopFrame) (rest : List LoopFrame) : Prop :=
  diesUp s = true ∧ (∃ i, findItem s shoe seq = some i ∧ i.st = .running ∧ i.level l = some lv) ∧ lv.loops = f :: rest ∧ f.last ≤ lv.pc ∧
    (∀ a ∈ lv.active, ¬ (f.first ≤ a.granule ∧ a.granule < f.last)) ∧ s.redealing = false ∧ shoeHalted s shoe = false

/-- A level whose innermost LOOP has ended: the command behind its body is next, and it signals (R111). -/
def loopEnded (lv : Level) (f : LoopFrame) (rest : List LoopFrame) : Level := { cmdEnded lv f.granule with pc := f.last, loops := rest }

/-- A level that begins another pass of its innermost LOOP: the events that its body signals are cleared (R111). -/
def loopAgain (lv : Level) (f f' : LoopFrame) (rest : List LoopFrame) : Level :=
  { lv with pc := f.first, events := lv.events &&& ~~~(bodySignals lv f), loops := f' :: rest }

/-- An operation that sets READY tally n to v: the value changes and nothing else of it; where no live trick uses it every
other tally stays; each command whose wait on it is met has completed (Table 11.1, R215). -/
def tallySet (s t : State) (n : Nat) (v : Word32) : Prop :=
  t.tally n = { s.tally n with value := v } ∧ (trickOfTally s n = none → ∀ m, m ≠ n → t.tally m = s.tally m) ∧
    ∀ sh sq k g eq thr, (sh, sq, k, g, eq, thr) ∈ waitersOn s n → (if eq then v.toNat = thr else thr ≤ v.toNat) →
      ∀ lv, levelOf t sh sq k = some lv → ∀ a ∈ lv.active, a.granule ≠ g

/-- READY tally n is poisoned with 0x0303, keeping its value, and every command that waits on it fails its item (R217). -/
def tallyPoisoned (s t : State) (n : Nat) : Prop :=
  t.tally n = { s.tally n with poisoned := true, cause := 0x0303, origin := (0, 0, 0) } ∧
    ∀ w ∈ waitersOn s n, ∀ i, findItem s w.1 w.2.1 = some i → i.fixed = false → itemFails t w.1 w.2.1 0x0303

/-- The level has passed its command, which has completed; other commands of it may have completed with it. -/
def cmdPassed (t : State) (shoe seq l : Nat) (lv : Level) (b : List Byte) : Prop :=
  ∃ lv', levelOf t shoe seq l = some (cmdDone lv' b) ∧ lv'.pc = lv.pc ∧ lv'.bytes = lv.bytes ∧ lv'.loops = lv.loops

/-- A trick message is discarded and counted (R225). -/
def discarded (s : State) : State := s.modSync fun y => { y with stale := satInc 32 y.stale }

/-- The arrive tally has not yet reached the next generation of a trick, counted modulo 2^32 (R222). -/
def notReached (s : State) (t : Trick) (g : Nat) : Prop := geWrap32 (s.tally t.arriveTally).value.toNat (g * t.quota) = false

/-- The register at offset o of the block of shoe n answers. -/
def shoeReg (s : State) (n o : Nat) : Prop := n < 9 ∧ (regAt s (fnOf n) (shoeOff n o)).isSome = true

/-- The same, and a write of it applies at once: no register write waits for P0 (R393). -/
def shoeWrite (s : State) (n o : Nat) : Prop := shoeReg s n o ∧ writesWait s = false

/-- Of a shoe only what a running shoe moves by itself differs: its sheet's and scorecard's place, held outcomes, counted
items and the call store. -/
def ShoeFlow (a b : Shoe) : Prop :=
  b = { a with
    lastScore := b.lastScore, sheetProduce := b.sheetProduce, sheetPhase := b.sheetPhase, modItems := b.modItems
    callOwner := b.callOwner, callUsed := b.callUsed, sheetHold := b.sheetHold, scoreDue := b.scoreDue }

/-- The items of a shoe hold fewer than two deck store slots (R88, R124): an entry being fetched may name a deck. -/
def deckRoom (s : State) (n : Nat) : Prop :=
  ((itemsOf s n).filter fun i => (i.isDeck || i.st = .fetching) && (i.st = .fetching || i.st = .queued || i.st = .running)).length < 2

/-- The shoe's oldest item is in FETCHING: its entry is about to be read. -/
def fetching (s : State) (n : Nat) (i : Item) : Prop := diesUp s = true ∧ (itemsOf s n).find? (fun i => i.st = .fetching) = some i

/-- SHOE_FETCH passes an entry, and the item with sequence number q becomes f of itself, all else unchanged (R89). -/
def entryPassed (s t : State) (n q : Nat) (f : Item → Item) : Prop :=
  t.shoe n = { s.shoe n with fetch := ((s.shoe n).fetch + 1) % 2 ^ (s.shoe n).sizeLog2 } ∧ findItem t n q = (findItem s n q).map f ∧
    othersStay s t n q ∧ OnlyParts [.dl, .out, .pcie] s t

/-- What an entry gives its item (Table 5.1). -/
def entryRead (e : List Byte) (i : Item) : Item :=
  { i with userTag := entryTag e, flags := entryFlags e % 16, isDeck := decide (entryType e = 1), deckAddr := entryAddr e, deckLen := entryLen e }

/-- The ledger with every outcome of shoe n that is fixed RESOLVED (Table 6.1). -/
def settledItems (s : State) (n : Nat) : List Item := s.dl.items.map fun i => if i.shoe = n ∧ i.st = .committed then { i with st := .resolved } else i

/-- The item has failed a check at its fetch (R96). -/
def checkFailed (cause : Nat) (i : Item) : Item :=
  { i with st := .resolved, out := { cause := cause, failed := true, retry := retryCause cause } }

/-- The steward's claim command at the front of a level has read its block, of bytes blk: the state in which it is decided. -/
def blockRead (s : State) (seq l : Nat) (create : Bool) (lv : Level) (b blk : List Byte) (u : State) : Prop :=
  cmdStarts s 8 seq l (if create then 0x40 else 0x41) lv b ∧ hostOk s 0 (field b 8 8) 64 = true ∧ blk.length = 64 ∧
    u = (passCmd s 8 seq l b).emit (.hostRead 0 (field b 8 8) 64)

/-- CLAIM_CREATE or CLAIM_MODIFY of a steward item, with what the read of its block brings. -/
def claimInstr (create : Bool) (seq l : Nat) (r : HostResp) : Instr := if create then .claimCreate seq l r else .claimModify seq l r

/-- Of a claim only its ledger_full flag differs. -/
def LedgerOnly (a b : Claim) : Prop := b = { a with ledgerFull := b.ledgerFull }

/-- An item that was not resolved has become resolved: it is complete where it was past its commit point, and otherwise it
has failed with a cause (R70, R83, R292). -/
def resolvedAs (cause : Nat) (i j : Item) : Prop :=
  j.st = .resolved ∧ (i.st = .committed → j.out = i.out) ∧ (i.st ≠ .committed → j.out.failed = true ∧ j.out.cause = cause)

/-- A claim that nobody holds: everything has its reset value but its reset report. -/
def claimFree (c : Claim) : Prop :=
  c = { ({} : Claim) with resetLast := c.resetLast, resetFailed := c.resetFailed, resetCompleted := c.resetCompleted }

/-- The registers of a shoe and of its score sheet have their reset values; its sequence numbers go on (R70, R83). -/
def shoeClear (h : Shoe) : Prop := h = { nextSeq := h.nextSeq, backlog := h.nextSeq }

/-- The registers of an event ring have their reset values; its event numbers go on (R70, R80, R83). -/
def ringClear (r : EvtRing) : Prop := r = { nextEvent := r.nextEvent, waiting := r.waiting }

/-- The window of claim n has its reset values (R83, step 5). -/
def windowClear (t : State) (n : Nat) : Prop :=
  shoeClear (t.shoe n) ∧ tget t.cl.vectorMap n = 0x76543210 ∧ ringClear (t.ring n) ∧ ∃ a b, tget t.sync.claims n = { declared := a, stalemateId := b }

/-- An engine that the package has: one of 16 lanes or of 96 cores. -/
def engineIs (core : Bool) (i : Nat) : Prop := if core then i < 96 else i < 16

/-- What the end of a grant of ns charges: beside the grant itself, the credit of a claim that was granted on credit, else its use
beyond its reservation, and its boost (R71, R78). -/
def charged (a b : Arb) (ns : Nat) : Prop :=
  match a.grant with
  | none => b = a
  | some (n, true) => b = { a with credit := tmod a.credit n (· - (ns : Int)), boost := tmod a.boost n (· - ns), grant := none }
  | some (n, false) => b = { a with beyond := tmod a.beyond n (· + ns), boost := tmod a.boost n (· - ns), grant := none }

/-- The register at offset o of ring n answers, and a write of it applies at once (R393). -/
def ringReg (s : State) (n o : Nat) : Prop := n < 9 ∧ (regAt s (fnOf n) (ringOff n o)).isSome = true ∧ writesWait s = false

/-- Every item of the ledger is RESOLVED. -/
def AllResolved (s : State) : Prop := ∀ i ∈ s.dl.items, i.st = .resolved

/-- A redeal has started from s with a trigger's cause and faulting party and run its steps 1 to 4, and step 5 where it ends (R354 to R357). -/
def redealBegun (s t : State) (cause faulting : Nat) (finish : Bool) : Prop :=
  t.boot = { s.boot with dev := .redealing } ∧ t.redeal.id = (s.redeal.id + 1) % 2 ^ 32 ∧ t.redeal.trigger = cause ∧
    t.redeal.faulting = faulting ∧ t.redeal.phase = (if finish then .walking else .resolving) ∧ t.redeal.resumeSeen = false ∧
    t.redeal.before = s.boot.dev ∧ t.redeal.started = s.now ∧ t.fences = s.fences ∧ AllResolved t ∧
    (finish = true → t.dl.macros = [] ∧ t.net.rx = {} ∧ t.net.tx = {} ∧ t.tiers.promote = 0x20 ∧ t.tiers.demote = 0x08 ∧ t.sync.canaryBeats = 4 ∧
      ∀ n < 9, ringClear (t.ring n) ∧ shoeClear (t.shoe n))

/-- The package has entered runtime FAILED with a cause (R363). -/
def failedNow (s t : State) (cause : Nat) : Prop :=
  t.boot = { s.boot with dev := .failed, failCause := cause } ∧ t.redeal.phase = .none ∧ AllResolved t ∧ t.dl.macros = []

/-- A redeal has ended: the state held before it is back (R357, step 7). -/
def redealOver (s t : State) : Prop :=
  t.boot = { s.boot with dev := s.redeal.before } ∧ t.redeal.phase = .none ∧ t.redeal.resumeSeen = false ∧ t.redeal.heldShares = []

/-- The next command of a level starts, and no active command of the level stands at its granule. -/
def cmdFresh (s : State) (shoe seq l op : Nat) (lv : Level) (b : List Byte) : Prop :=
  cmdStarts s shoe seq l op lv b ∧ ∀ a ∈ lv.active, a.granule ≠ lv.pc

/-- A malformed nested deck: a redeal laid to the claim, or a failed item on the steward shoe (R116, R120). -/
def nestedFault (s t : State) (shoe seq cause : Nat) : Prop :=
  (8 ≤ shoe → itemFails t shoe seq cause) ∧ (shoe < 8 → mayRedeal s = true → redealBegun s t cause shoe true)

/-- The item of a shoe has opened another level, and the command at the front of level l runs it (R114, R119). -/
def levelOpens (s t : State) (shoe seq l : Nat) (lv : Level) (b : List Byte) (run : Nat → CmdState) (new : Nat → Level) : Prop :=
  ∃ i j lv', findItem s shoe seq = some i ∧ findItem t shoe seq = some j ∧ j.nextLevel = i.nextLevel + 1 ∧
    j.levels.getLast? = some (new i.nextLevel) ∧ levelOf t shoe seq l = some lv' ∧ lv'.pc = lv.pc + cmdSize b ∧ activeAt lv' lv.pc (run i.nextLevel)

/-- Bytes of the call store that an item uses (R115). -/
def storeUsed (s : State) (shoe seq : Nat) : Nat := if (s.shoe shoe).callOwner = some seq then (s.shoe shoe).callUsed else 0

/-- What a check of a nested deck's bytes finds (R93 to R95, R112, R116, R120). -/
def deckCheck (s : State) (shoe seq : Nat) (lane : Bool) (bs : List Byte) : Option (Nat × Nat) :=
  checkLevel (if lane then .laneSub else placeOf shoe true (((findItem s shoe seq).map fun i => fLaneMode i.flags).getD false))
    (countsOf s shoe).1 (countsOf s shoe).2 bs

/-- PAGE with an operation starts on a level of a claim's item (R209). -/
def pageStarts (s : State) (n seq l op : Nat) (lv : Level) (b : List Byte) : Prop :=
  n < 8 ∧ cmdStarts s n seq l 0x0C lv b ∧ field b 6 1 = op

/-- The same bytes stand in both tiers. -/
def tiersSame (s t : State) : Prop := t.tiers.t1 = s.tiers.t1 ∧ t.tiers.t2 = s.tiers.t2

/-- PROMOTE or DEMOTE stays active while a page of its range moves that it has moved, or while DEMOTE has still to consider a page
that was being promoted; it has completed otherwise (R198, R209). The pages are masks over the range. -/
def pageWaits (s t : State) (n seq l : Nat) (lv : Level) (b : List Byte) (promote : Bool) : Prop :=
  let now := movingMask t n promote (pageSpan b)
  let own := (now ^^^ movingMask s n promote (pageSpan b)) &&& now
  let late := if promote then 0 else lateMask s n (pageSpan b)
  (late = 0 ∧ own = 0 → levelOf t n seq l = some (cmdDone lv b)) ∧
    (¬ (late = 0 ∧ own = 0) → ∃ lv', levelOf t n seq l = some lv' ∧ lv'.pc = lv.pc + cmdSize b ∧ activeAt lv' lv.pc (.pages late own))

/-- The management endpoint runs and has an endpoint id, so it answers messages (R401). -/
def mgmtUp (s : State) : Prop := s.boot.lamphouse = true ∧ s.mgmt.running = true ∧ s.mgmt.eid ≠ 0

/-- A command does nothing but send one management answer. -/
def justAnswers (i : Instr) (s : State) (type cmd code : Nat) (data : List Byte) : Prop :=
  exec i s = .next (s.emit (.mgmt type cmd code data))

/-- A command changes the management endpoint by f and sends one management answer, all else as it was. -/
def mgmtBecomes (i : Instr) (s : State) (f : Mgmt → Mgmt) (type cmd code : Nat) (data : List Byte) : Prop :=
  exec i s = .next ((s.modMgmt f).emit (.mgmt type cmd code data))

/-- The code of the first check of a list that fails; 0 where none does. -/
def firstCode : List (Bool × Nat) → Nat
  | [] => 0
  | x :: rest => if x.1 then x.2 else firstCode rest

/-- The checks of a key slot block in their order (R378). -/
def keyChecks (s : State) (b : List Byte) : List (Bool × Nat) :=
  [(!keyBlockOk b, 0x02), (decide (field b 8 8 ≠ s.dbg.nonce), 0x05), (!slotKeyOk s (field b 6 1) (bytesAt b 0x40 96), 0x03),
    (!ecdsaVerify (bytesAt b 0x40 96) (bytesAt b 0 0xA0) (bytesAt b 0xA0 96), 0x04), (!slotStateOk s (decide (field b 4 1 = 1)) (field b 5 1), 0x07)]

/-- The checks of a debug grant token in their order (R383). -/
def grantChecks (s : State) (b : List Byte) : List (Bool × Nat) :=
  [(!grantBlockOk b, 0x02), (decide (s.dbg.st = .vendorOpen), 0x0B), (s.redealing, 0x0C), (!deviceOk s b, 0x06),
    (decide (field b 0x10 8 ≠ s.dbg.nonce), 0x05), (!slotKeyOk s (field b 6 1) (bytesAt b 0x80 96), 0x03),
    (!ecdsaVerify (bytesAt b 0x80 96) (bytesAt b 0 0x20) (bytesAt b 0x20 96), 0x04), (decide ((s.claim (field b 4 1)).st ≠ .active), 0x08)]

/-- A slot that an accepted block programs or revokes. -/
def slotAfter (b : List Byte) (k : KeySlot) : KeySlot :=
  if field b 4 1 = 1 then { k with programmed := true, hash := bytesAt b 0x10 48 } else { k with revoked := true }

/-- What an accepted key slot block does: the target slot is programmed with the block's hash, or revoked, and no other fuse
changes (R378). -/
def slotBlown (s t : State) (b : List Byte) : Prop :=
  t.boot = { s.boot with fuses := { s.boot.fuses with slots := tmod s.boot.fuses.slots (field b 5 1) (slotAfter b) } }

/-- What an accepted grant token does: the claim's grant lives from now with the token's rights, and the state is
CLAIM_DEBUG (R382, R383). -/
def grantLives (s t : State) (b : List Byte) : Prop :=
  tget t.dbg.grants (field b 4 1) = { live := true, observe := bit (field b 5 1) 0, halt := bit (field b 5 1) 1, duration := field b 0x18 4, since := s.now } ∧
    (∀ m, m < 8 → m ≠ field b 4 1 → tget t.dbg.grants m = tget s.dbg.grants m) ∧ t.dbg.st = .claimDebug ∧ t.boot = s.boot

/-- A claim's grant has ended: its window has its reset values, and with the last one the state is SEALED again (R384). -/
def grantOver (s t : State) (n : Nat) : Prop :=
  tget t.dbg.grants n = {} ∧ tget t.dbg.wins n = {} ∧ (∀ m, m < 8 → m ≠ n → tget t.dbg.grants m = tget s.dbg.grants m) ∧
    (s.dbg.st = .claimDebug → (∀ m, m < 8 → m ≠ n → (tget s.dbg.grants m).live = false) → t.dbg.st = .isSealed) ∧ t.boot = s.boot

/-- A new nonce, never 0, of 64 bits (R377). -/
def nonceDrawn (t : State) : Prop := 0 < t.dbg.nonce ∧ t.dbg.nonce < 2 ^ 64

/-- The package as a vendor unlock leaves it before the boot that follows: killed, in VENDOR_OPEN, without an identity and
with its seat record invalid (R385). -/
def vendorOpened (u : State) : Prop :=
  u.boot.fuses.killed = true ∧ u.boot.fuses.vendorOpen = true ∧ u.boot.seat = none ∧ u.boot.seatCause = 0x080A ∧ u.boot.newSeat = true

/-- Requests that need a negotiated session: the VERSION, CAPABILITIES and ALGORITHMS exchanges are done (R410). -/
def spdmOpen (s : State) : Prop := mgmtUp s ∧ s.mgmt.spdmAlgs = true

/-- A management packet that joins or makes a message here: the endpoint runs, the PEC is good, 1 to 64 payload bytes, sent to
this endpoint, the null or the broadcast id (R400, R401). -/
def mctpHere (s : State) (b : List Byte) (pec : Bool) : Prop :=
  s.boot.lamphouse = true ∧ s.mgmt.running = true ∧ pec = true ∧ 5 ≤ b.length ∧ b.length ≤ 68 ∧
    (field b 1 1 = 0 ∨ field b 1 1 = 255 ∨ field b 1 1 = s.mgmt.eid)

/-- Messages that are being assembled, but for the one of a packet's source and tag. -/
def otherParts (s : State) (b : List Byte) : List Assembly :=
  s.mgmt.assembly.filter fun a => !(a.src == field b 2 1 && a.tag == field b 3 1 % 16)

/-- The checks of a vendor unlock block in their order (R383, R385). -/
def unlockChecks (s : State) (b : List Byte) : List (Bool × Nat) :=
  [(!unlockBlockOk b, 0x02), (!s.boot.fuses.killed && !deviceOk s b, 0x06), (decide (field b 0x10 8 ≠ s.dbg.nonce), 0x05),
    (!(sha384 (bytesAt b 0x20 96) == bytesAt s.boot.fuses.vendorHash 0 48) || !slotKeyOk s (field b 5 1) (bytesAt b 0xE0 96), 0x03),
    (!ecdsaVerify (bytesAt b 0x20 96) (bytesAt b 0 32) (bytesAt b 0x80 96) || !ecdsaVerify (bytesAt b 0xE0 96) (bytesAt b 0 32) (bytesAt b 0x140 96), 0x04)]

/-- The register at offset o of claim n's debug window answers. -/
def dbgReg (s : State) (n o : Nat) : Prop := n < 8 ∧ (regAt s (n + 1) o).isSome = true

/-- A debug action on claim n with a right is refused with a code (R396, Table 18.9). -/
def dbgRefused (s : State) (n : Nat) (right : Grant → Bool) (code : Nat) : Prop :=
  (s.dbg.st = .vendorOpen ∧ code = 0x0B) ∨
    (s.dbg.st ≠ .vendorOpen ∧ ((tget s.dbg.grants n).live && right (tget s.dbg.grants n)) = false ∧ code = 0x09) ∨
    (s.dbg.st ≠ .vendorOpen ∧ ((tget s.dbg.grants n).live && right (tget s.dbg.grants n)) = true ∧ s.power.level ≠ 0 ∧ code = 0x0A)

/-- A debug action on claim n with a right is accepted. -/
def dbgAllowed (s : State) (n : Nat) (right : Grant → Bool) : Prop :=
  s.dbg.st ≠ .vendorOpen ∧ ((tget s.dbg.grants n).live && right (tget s.dbg.grants n)) = true ∧ s.power.level = 0

/-- Claim n is halted: each of its running parts is halted on the cores where it stands between tile groups, and on no other yet;
other claims' parts stay as they were (R386). -/
def claimHalts (s t : State) (n : Nat) : Prop :=
  (tget t.dbg.wins n).halted = true ∧ t.dl.items = s.dl.items ∧ (∀ m ∈ t.dl.macros, m.claim = n → m.phase = .running →
      ∀ c ∈ m.cores, c ∈ m.halted ↔ (tget s.dl.cores c).current ≠ some m.id) ∧
    t.dl.macros.filter (fun m => m.claim != n) = s.dl.macros.filter (fun m => m.claim != n)

/-- A JTAG instruction is in force and its data register captured (R390). -/
def jtagTakes (s t : State) (inst reg value : Nat) : Prop := t = (s.modDbg fun d => { d with jtag := inst }).emit (.jtag reg value)

/-- The state after CLEAR's next FOREIGN unit f of a tier is freed: f belongs to nobody, and none of its bytes is written (R207). -/
def unitCleared (t : State) (tier2 : Bool) (f : Nat) : Prop :=
  (if tier2 then alookup t.tiers.handles f = none else alookup t.tiers.frames f = none) ∧
    ∀ x, pageBase f ≤ x → x < pageBase f + 65536 → memGet (if tier2 then t.tiers.t2 else t.tiers.t1) x = none

/-- The register at offset o of the ECC window answers, and a write of it applies at once (R393). -/
def eccReg (s : State) (o : Nat) : Prop := (regAt s 0 (eccOff o)).isSome = true ∧ writesWait s = false

/-- What a patch command reports: the entry and the reason, 0 for done (R345). -/
def patchAnswered (t : State) (entry reason : Nat) : Prop :=
  t.ecc.patchDone = true ∧ t.ecc.patchRefused = decide (reason ≠ 0) ∧ t.ecc.patchEntry = entry ∧ t.ecc.patchReason = reason

/-- A test op's target may be tested now (R347). -/
def testLives (s : State) : Prop := (testTarget s).2 = true ∧ s.redealing = false

/-- What test op op leaves, where the check bits differ from the computed ones by diff (R347): the word's data and the
difference stand in it, and the result is class 0. -/
def testWritten (t : State) (s : State) (key diff : Nat) : Prop :=
  t.ecc.resDone = true ∧ t.ecc.resClass = 0 ∧ markOf t key = (if diff = 0 then none else some (0, diff)) ∧
    (keyT0 key = true → alookup t.ecc.t0Data key = some (s.ecc.data % 2 ^ 32)) ∧
    (keyT0 key = false → ∀ i, i < 8 → memGet (tierMem t (keyPlace key).1) (pageBase (keyPlace key).2.1 + 8 * (keyPlace key).2.2 + i) = some ((leBytes 8 s.ecc.data).getD i 0#8))

/-- What a reset of the physical function does (R292): VF Enable ends, every ACTIVE claim is reset, the steward's items are
resolved and its registers, vectors and function have their reset values. -/
def pfResets (s t : State) : Prop :=
  t.pcie.vfEnable = false ∧ t.pcie.numVfs = 0 ∧
    (∀ n < 8, ((s.claim n).st = .active → (t.claim n).st = .resetting) ∧ ((s.claim n).st ≠ .active → t.claim n = s.claim n)) ∧
    (∀ q j, findItem t 8 q = some j → j.st = .resolved) ∧ shoeClear (t.shoe 8) ∧ ringClear (t.ring 8) ∧ t.cl.stewardVectors = 0 ∧
    tget t.fns 0 = {} ∧ t.boot = s.boot ∧ t.beat = s.beat ∧ t.redeal = s.redeal

/-- Vectors of a function that may send now (R290). -/
def msixReady (s : State) (fn v : Nat) : Bool := (tget (tget s.fns fn).vecs v).pending && !(tget (tget s.fns fn).vecs v).masked

/-- Every pending vector of a function that may send has sent one message, in the order of the vectors (R290). -/
def msixSent (s t : State) (fn : Nat) : Prop :=
  let allowed := canIssue s fn && (tget s.fns fn).msixEnable && !(tget s.fns fn).msixMask
  (allowed = false → t = s) ∧
    (allowed = true → OnlyParts [.fns, .out] s t ∧ t.out = s.out ++ ((List.range 64).filter (msixReady s fn)).map (.msix fn) ∧
      (∀ k, k ≠ fn → tget t.fns k = tget s.fns k) ∧ { tget t.fns fn with vecs := (tget s.fns fn).vecs } = tget s.fns fn ∧
      ∀ v, v < 64 → tget (tget t.fns fn).vecs v =
        (if msixReady s fn v then { tget (tget s.fns fn).vecs v with pending := false } else tget (tget s.fns fn).vecs v))

/-- A function's enables change from f to g: where it may issue requests only now, what waited goes out first (R288). -/
def enablesChange (s t : State) (fn : Nat) (f : Fn → Fn) (r : HostResp) (feeds : List (Nat × HostResp × HostResp)) : Prop :=
  let u := s.modFn fn f
  (canIssue u fn = false ∨ canIssue s fn = true → msixSent u t fn) ∧
    (canIssue u fn = true → canIssue s fn = false →
      let w := writeOutcomes (flushEvents u (ringOf fn)) (ringOf fn)
      msixSent (if fn = 0 then w else qpsRun (qpResume w (ringOf fn) r) (ringOf fn) feeds) t fn)

/-- A port of the state. -/
def ethPort (s : State) (p : Nat) : EthPort := tget s.net.ports p

/-- Only one port may differ, and of the rest of the block nothing. -/
def portOnly (s t : State) (p : Nat) : Prop :=
  (∀ k, k ≠ p → ethPort t k = ethPort s k) ∧ { t.net with ports := s.net.ports } = s.net

/-- A good frame is one for the raw receive ring (R296, R297): it is no PFC frame and no packet of a queue pair but 1, and is addressed to
the port, to broadcast or to a multicast address. -/
def rawFrame (s : State) (p : Nat) (f : List Byte) : Prop :=
  ∃ t off, frameType f = some (t, off) ∧ t ≠ 0x8808 ∧ (roceQpn f t off = none ∨ roceQpn f t off = some 1) ∧ frameForUs s p f = true

/-- The raw receive ring has room and the frame fits a slot (R297). -/
def rawRoom (s : State) (f : List Byte) : Prop :=
  s.net.rx.active = true ∧ 14 ≤ f.length ∧ f.length ≤ 2032 ∧ (s.net.rx.next + 1) % 2 ^ s.net.rx.sizeLog2 ≠ s.net.rx.index ∧
    hostOk s 0 (2048 * (s.net.rx.base + s.net.rx.next)) 2048 = true

/-- A send slot keeps the layout of R297 and its port is up. -/
def slotGood (s : State) (b : List Byte) : Prop :=
  14 ≤ field b 0 2 ∧ field b 0 2 ≤ 2032 ∧ field b 2 1 < 2 ∧ field b 3 1 < 2 ∧ allZero (bytesAt b 4 12) = true ∧ (ethPort s (field b 2 1)).up = true

/-- The raw send ring has a slot to send. -/
def sendDue (s : State) : Prop :=
  s.net.tx.active = true ∧ s.net.tx.index < 2 ^ s.net.tx.sizeLog2 ∧ s.net.tx.next ≠ s.net.tx.index ∧ canIssue s 0 = true

/-- A region entry of a claim. -/
def regionOf (s : State) (c i : Nat) : Region := tget (tget s.net.claims c).regions i

/-- A queue pair but for its state, its work and its completion queue. -/
def qpCore (q : Qp) : Qp :=
  { q with st := .init, waiting := [], sent := [], recvs := [], sqPsn := 0, rqPsn := 0, rnrWait := false, cqProduce := 0, cqPhase := true, records := [] }

/-- A queue pair's claim, handle, number, context and what its doorbells hold. -/
def qpFixed (q : Qp) : Qp :=
  { claim := q.claim, handle := q.handle, dev := q.dev, ctx := q.ctx, sqProduce := q.sqProduce, rqProduce := q.rqProduce, cqConsumed := q.cqConsumed }

/-- All queue pairs agree in what π shows. -/
def qpsAlike {α : Type} (π : Qp → α) (s t : State) : Prop := t.net.qps.map π = s.net.qps.map π

/-- Claim c may give a queue-pair command: its register answers, a write of it applies at once, and done reads 1 (R298). -/
def qpReady (s : State) (c : Nat) : Prop :=
  c < 8 ∧ (regAt s (c + 1) 0x60008).isSome = true ∧ writesWait s = false ∧ (tget s.net.claims c).done = true

/-- The result of claim c's queue-pair command (R298). -/
def qpAnswered (t : State) (c cause : Nat) : Prop := (tget t.net.claims c).done = true ∧ (tget t.net.claims c).cause = cause

/-- The host address of claim c's context. -/
def qpCtxAddr (s : State) (c : Nat) : Nat := 128 * (tget s.net.claims c).cmdAddr

/-- The doorbell register at offset o of queue pair h of claim c answers, a write of it applies at once, and it names a queue pair. -/
def qpDoor (s : State) (c h o : Nat) (q : Qp) : Prop :=
  c < 8 ∧ (regAt s (c + 1) (0x68000 + o + 16 * h)).isSome = true ∧ writesWait s = false ∧ findQp s c h = some q

/-- A queue pair in ERR holds no work (R303). -/
def qpDead (t : State) (c h : Nat) : Prop := ∃ q, findQp t c h = some q ∧ q.st = .err ∧ q.waiting = [] ∧ q.sent = [] ∧ q.recvs = [] ∧ q.rnrWait = false

/-- Nothing waits on a queue pair that may start entries (R300, R303, R304). -/
def qpIdle (s : State) (c : Nat) (q : Qp) : Prop :=
  q.st = .rts ∧ q.waiting = [] ∧ q.records = [] ∧ q.cqFull = false ∧ q.rnrWait = false ∧ qpHeld s q = false ∧ canIssue s (fnOf c) = true

/-- The command that a failed host read is for, with an error as the read's answer (R289). -/
def readFor : ReadTarget → Instr
  | .entry n => .deckReadComplete n .err .err
  | .deck n entry => .deckReadComplete n (.ok entry) .err
  | .waitMem n q l g => .waitMemReadReturn n q l g .err
  | .call n q l g => .callCmd n q l g .err
  | .laneDeck n q l g => .laneDeck n q l g .err
  | .hostCopy n q l g => .hostCopy n q l g 1 .err
  | .claimBlock create q l => claimInstr create q l .err
  | .table q l => .tableLoad q l .err
  | .common q l => .commonLoad q l .err
  | .qpContext c create h => if create then .qpCreate c .err else .qpModify c h .err
  | .sendEntry c h v => .sqDoorbell c h v [(.err, .err)]
  | .recvEntry c h v => .rqDoorbell c h v [.err]
  | .rawSlot v => .rawTxProduce v [.err]
  | .keySlot => .secKeySlot .err true
  | .grant => .secDebugGrant .err
  | .unlock env => .secVendorOpen .err env

/-- A write of a raw ring's control register: size, index and enable; enabling starts a pass at slot 0 with phase 1 (R297). -/
def ringWritten (r : RawRing) (v : Nat) : RawRing :=
  { r with
    sizeLog2 := bits v 0 4, index := bits v 4 11, enable := bit v 31
    next := if bit v 31 && !r.enable then 0 else r.next, phase := (bit v 31 && !r.enable) || r.phase }

/-- A region's range may be admitted: it lies in a window, or it is a range of the claim in granules (R302). -/
def rangeGood (s : State) (c : Nat) (r : Region) (host : Bool) : Prop :=
  if host then winOk s (c + 1) r.base r.length = true else r.base % 32 = 0 ∧ r.length % 32 = 0 ∧ r.base + r.length ≤ 2 ^ 40

/-- A queue-pair command ends with a cause, and no queue pair changes (R299). -/
def qpRefused (i : Instr) (s : State) (c cause : Nat) : Prop :=
  Runs i s fun t => qpAnswered t c cause ∧ t.net.qps = s.net.qps ∧ t.net.ports = s.net.ports ∧ OnlyParts [.net, .out, .pcie] s t

/-- A RoCE packet may leave a port now: it is up and no pause holds it (R306). -/
def portSends (s : State) (p : Nat) : Prop := (ethPort s p).up = true ∧ ¬ ((ethPort s p).paused = true ∧ s.net.pfcEnable = true)

/-- Queue pair h of claim c becomes f of itself, and every other one stays. -/
def qpBecomes (s t : State) (c h : Nat) (q : Qp) : Prop :=
  findQp t c h = some q ∧ ∀ a k, (a ≠ c ∨ k ≠ h) → findQp t a k = findQp s a k

/-- A request in sequence comes to a queue pair that may answer (R298, R304). -/
def qpTakes (s : State) (c h psn : Nat) (q : Qp) : Prop :=
  diesUp s = true ∧ findQp s c h = some q ∧ (q.st = .rtr ∨ q.st = .rts) ∧ qpHeld s q = false ∧ psn % 2 ^ 24 = q.rqPsn

/-- A command does nothing to the queue pairs but send one RoCE packet of queue pair q, where its port may send now. -/
def justSends (i : Instr) (s : State) (q : Qp) (kind dscp : Nat) (fields : List Nat) : Prop :=
  Runs i s fun t => t.net.qps = s.net.qps ∧ OnlyParts [.net, .out] s t ∧ (portSends s q.port → t.out = s.out ++ [rocePacket s q kind dscp fields []])

/-- A message of len bytes has taken the oldest receive entry of queue pair q, and the expected sequence has moved on (R301). Where the
record finds its place at once the queue pair goes on with the entries ws; where it finds none it may be in ERR without work
(R285, log entry 135). -/
def recvTaken (s t : State) (c h : Nat) (q : Qp) (ws : List Wqe) (len : Nat) : Prop :=
  ∃ q', findQp t c h = some q' ∧ q'.rqPsn = (q.rqPsn + packetCount q.mtu len) % 2 ^ 24 ∧
    ((q'.st = q.st ∧ q'.recvs = ws) ∨ (q'.st = .err ∧ q'.waiting = [] ∧ q'.sent = [] ∧ q'.recvs = [])) ∧
    (q.records = [] → winOk s (fnOf c) (field q.ctx 0x38 8 + 32 * q.cqProduce) 32 = true → q'.st = q.st ∧ q'.recvs = ws)

/-- An RDMA WRITE of len bytes has passed: the expected sequence has moved on, and immediate data has taken a receive entry or has
failed it (R301, R302). -/
def writeTaken (s t : State) (c h : Nat) (q : Qp) (imm : Option Nat) (len : Nat) : Prop :=
  (imm = none → qpBecomes s t c h { q with rqPsn := (q.rqPsn + packetCount q.mtu len) % 2 ^ 24 }) ∧
    ∀ w ws, imm ≠ none → q.recvs = w :: ws → let p := placeRecv (s.modQp c h fun q => { q with recvs := ws }) c w []
      (∀ e, p.2 = .error e → qpDead t c h) ∧ (p.2 = .ok () → recvTaken s t c h q ws len)

/-- Every port but one is as it was. -/
def portsStay (s t : State) (p : Nat) : Prop := ∀ k, k ≠ p → t.port k = s.port k

/-- Every port but one is as it was, but for credits that it owes for messages of a failed direction (R241, R264). -/
def portsOwe (s t : State) (p : Nat) : Prop := ∀ k, k ≠ p → t.port k = { s.port k with owed := (t.port k).owed }

/-- Of the link block only one port may differ. -/
def portAlone (s t : State) (p : Nat) : Prop := portsStay s t p ∧ { t.link with ports := s.link.ports } = s.link

/-- A port that has become DOWN: it has no lane, no width and no traffic, and its sticky event bit is set (R254, Table 12.12). -/
def portDown (x : Port) : Port :=
  { x with
    st := .down, evDown := x.evDown || decide (x.st ≠ .down), width := 0, lanes := Vector.replicate 8 {}, owed := [], held := [], mgmt := []
    reason := 0, changing := false, helloSent := false }

/-- A port p that has become DOWN from any state but UP: no flit that came in on it counts against its credits any more. -/
def portIsDown (s t : State) (p : Nat) : Prop :=
  t.port p = portDown (s.port p) ∧ portsStay s t p ∧ { t.link with ports := s.link.ports } = s.link.disown p

/-- How many of m lanes carry flits: the greatest of 1, 2, 4 and 8 that m reaches (R235). -/
def laneWidth (m w : Nat) : Prop := w ∈ [1, 2, 4, 8] ∧ w ≤ m ∧ ∀ x ∈ [1, 2, 4, 8], x ≤ m → x ≤ w

/-- A port of s trains in t, finding its lanes with result r: it waits for the peer's HELLO on its lowest usable lanes with 256 credits
for each channel, or is DOWN where it finds no lane (R234, R235, R241). A port that trains from UP leaves its direction first. -/
def portTrains (s t : State) (p : Nat) (r : TrainResult) : Prop :=
  let us := (List.range 8).filter fun i => r.good.testBit i && r.peerGood.testBit i
  let m := min us.length (min (s.port p).maxLanes r.peerMax)
  portsOwe s t p ∧ ((s.port p).st ≠ .up → portsStay s t p) ∧ (m = 0 → (t.port p).st = .down ∧ (t.port p).width = 0) ∧
    (m ≠ 0 → (t.port p).st = .training ∧ laneWidth m (t.port p).width ∧ (t.port p).mgmt = [helloBytes t p] ∧
      (∀ v, v < 4 → tget (t.port p).credits v = 256) ∧
      ∀ i, i < 8 → let l := tget (t.port p).lanes i
        l.good = r.good.testBit i ∧ l.peerGood = r.peerGood.testBit i ∧ l.inUse = decide (i ∈ us.take (t.port p).width) ∧ l.next = 0 ∧ l.buffer = [])

/-- Another port of the direction of port p is UP and not fenced (R254, R369). -/
def dirHasOther (s : State) (p : Nat) : Prop :=
  ∃ q, q < 12 ∧ q ≠ p ∧ (s.port q).st = .up ∧ (s.port q).dir = (s.port p).dir ∧ (tget s.fences.ports q).fenced = false

/-- The unacked flits of an UP port p of state s go first to the other ports of its direction, whose traffic is otherwise that of the link
block l (R254). -/
def flitsMove (s t : State) (l : Link) (p : Nat) : Prop :=
  portsStay s t p ∧ ∀ d, tget t.link.groups d =
    if d = (s.port p).dir then { tget l.groups d with held := portFlits (s.port p) ++ (tget l.groups d).held } else tget l.groups d

/-- A port that is trained: UP or QUARANTINED. -/
def trained (s : State) (p : Nat) : Prop := (s.port p).st = .up ∨ (s.port p).st = .quarantined

/-- Lane i of port p. -/
def laneOf (s : State) (p i : Nat) : LinkLane := tget (s.port p).lanes i

/-- Port p has a usable lane beside lane i. -/
def otherLane (s : State) (p i : Nat) : Prop := ∃ j, j < 8 ∧ j ≠ i ∧ (laneOf s p j).usable = true

/-- Lane i of a trained port has failed (R252 to R254): without another usable lane the port is DOWN; otherwise the lane is bad, and a
lane in use starts a change of the lane set. -/
def laneLost (s t : State) (p i : Nat) : Prop :=
  (¬ otherLane s p i → t.port p = portDown (s.port p) ∧ portsOwe s t p) ∧
    (otherLane s p i → OnlyParts [.link, .out] s t ∧ portsStay s t p ∧ (t.port p).st = (s.port p).st ∧ (t.port p).width = (s.port p).width ∧
      (t.port p).changing = ((s.port p).changing || (laneOf s p i).inUse) ∧
      ∀ j, j < 8 → (laneOf t p j).good = (decide (j ≠ i) && (laneOf s p j).good) ∧ (laneOf t p j).peerGood = (laneOf s p j).peerGood ∧
        (laneOf t p j).inUse = (laneOf s p j).inUse)

/-- A port's lane set is now l (Table 12.10, steps 4 and 5). -/
def lanesNow (s t : State) (p : Nat) (l : List Nat) : Prop :=
  portsStay s t p ∧ (t.port p).st = (s.port p).st ∧ (t.port p).width = l.length ∧ (t.port p).changing = false ∧ (t.port p).evDegrade = true ∧
    ∀ j, j < 8 → (laneOf t p j).inUse = decide (j ∈ l) ∧ (laneOf t p j).good = (laneOf s p j).good

/-- The flits of lane i of port p that an ack still leaves in its replay buffer (R242). -/
def unackedAfter (s : State) (p i ack : Nat) : List Unacked :=
  match (laneOf s p i).buffer.findIdx? fun u => u.seq == ack with
  | none => (laneOf s p i).buffer
  | some k => (laneOf s p i).buffer.drop (k + 1)

/-- Port p's credits after n come back for a channel and class (R241). -/
def creditsBack (s t : State) (p vc cls n : Nat) : Prop :=
  ((t.port p).credits = tmod (s.port p).credits vc fun v => min 256 (v + n)) ∧
    (t.port p).used0 = if cls = 0 then tmod (s.port p).used0 vc (· - n) else (s.port p).used0

/-- The buffered flits us go out on lane i of port p again, in order, with their sequences; an IDLE flit may go before one (R232, R242). -/
def resent (s t : State) (p i : Nat) (us : List Unacked) : Prop :=
  ∃ ys, t.out = s.out ++ ys ∧ (∀ y ∈ ys, ∃ b, y = .flit p i b) ∧
    List.Sublist (us.map fun u => leBytes 1 u.seq ++ bytesAt u.flit.payload 0 240)
      (ys.map fun y => match y with | .flit _ _ b => bytesAt b 0 1 ++ bytesAt b 8 240 | _ => [])

/-- Lane i of port p answers a flit that it does not accept: the first since one was accepted draws a NAK (R242). -/
def drawsNak (s t : State) (p i : Nat) : Prop :=
  (laneOf t p i).naked = true ∧ (laneOf t p i).received = (laneOf s p i).received ∧ ((laneOf s p i).naked = true → t.out = s.out) ∧
    ((laneOf s p i).naked = false → ∃ ys b, t.out = s.out ++ ys ++ [.flit p i b] ∧ bits (field b 0 8) 19 2 = 2)

/-- A NAK that acks up to `ack` has come on lane i of port p: what it leaves in the buffer is sent again, or a flit that was sent 16 times
without an ack fails its lane (R242, R252). -/
def nakTaken (s t : State) (p i ack : Nat) : Prop :=
  let us := unackedAfter s p i ack
  ((∀ u ∈ us, u.sends < 16) → OnlyParts [.link, .out] s t ∧ portsStay s t p ∧ (laneOf t p i).buffer = (us.map fun u => { u with sends := u.sends + 1 }) ∧
      (t.port p).replays = satInc 16 (s.port p).replays us.length ∧ resent s t p i us) ∧
    ((∃ u ∈ us, 16 ≤ u.sends) → (trained s p ∧ (laneOf s p i).good = true → laneLost s t p i) ∧
      (¬ (trained s p ∧ (laneOf s p i).good = true) → OnlyParts [.link] s t ∧ portsStay s t p ∧ (laneOf t p i).buffer = us))

/-- A Swezo-P link is failed, or is the one that fails now. -/
def szlpBad (s : State) (i j : Nat) : Prop := j = i ∨ (tget s.link.szlp j).failed = true

/-- With link i failed, some failed Swezo-P link has no whole alternate route (R257). -/
def szlpCut (s : State) (i : Nat) : Prop := ∃ j, j < 14 ∧ szlpBad s i j ∧ ∃ k ∈ szlpAlternate j, szlpBad s i k

/-- A message joins direction d's queue. -/
def queued (s : State) (d : Nat) (m : OutMsg) : Link :=
  { s.link with groups := tset s.link.groups d { tget s.link.groups d with msgs := (tget s.link.groups d).msgs ++ [m] } }

/-- A RECEIPT with a status and a cause answers a message in state s, and nothing else changes (R245, R264): it is for this seat itself,
joins a direction's queue, or is counted where it has no route. -/
def receiptSent (s t : State) (h : MsgHeader) (status cause : Nat) : Prop :=
  let r : MsgHeader :=
    { kind := 4, claim := h.claim, round := h.round, dest := h.src, src := ownSeat s, status := status, xfer := h.xfer, tag := h.tag, cause := cause }
  (routeFrom s h.src = .here → t = { s with link := { s.link with localMsgs := s.link.localMsgs ++ [(r.bytes, [])] } }) ∧
    (∀ d, routeFrom s h.src = .dir d → t = { s with link := queued s d { vc := 1, dest := h.src, header := some r.bytes } }) ∧
    (routeFrom s h.src = .none → t = { s with rounds := { s.rounds with noRoute := satInc 32 s.rounds.noRoute } })

/-- A refused or faulted message is counted and answered (R245, Table 12.13). -/
def msgRefused (s t : State) (h : MsgHeader) (status cause : Nat) : Prop :=
  receiptSent { s with link := { s.link with refused := satInc 32 s.link.refused } } t h status cause

/-- A claim message of kind k for this seat. -/
def msgHere (s : State) (k : Nat) (b : List Byte) (h : MsgHeader) : Prop :=
  diesUp s = true ∧ h = MsgHeader.read b ∧ h.kind = k ∧ h.dest = ownSeat s

/-- Controller k differs at most in what its waits on tallies have met (R215). -/
def ctrlStays (s t : State) (k : Nat) : Prop :=
  let rest : Armed → Armed := fun a => { a with startWait := .idle, readyWait := .idle }
  tget t.rounds.ctrls k = { tget s.rounds.ctrls k with armed := t.armed k } ∧ (t.armed k).map rest = (s.armed k).map rest

/-- Controller c's round has failed with a cause, suspecting a seat: the controller is free and holds the failure (R278). -/
def roundFails (s t : State) (c cause : Nat) (suspect : Seat) : Prop :=
  tget t.rounds.ctrls c = { armed := none, failCause := cause, failOrigin := ownSeat s, failSuspect := suspect } ∧
    ∀ k, k ≠ c → ctrlStays s t k

/-- A message is for the armed round a of controller c, and its tally is no release tally (R245, steps 1 and 2). -/
def msgRound (s : State) (h : MsgHeader) (c : Nat) (a : Armed) : Prop :=
  s.redealing = false ∧ messageRound s h = some (c, a) ∧ c < 16 ∧ namesRelease s h = false

/-- A message has been delivered from state u: its tally takes ADD 1, where it names one, and DELIVERED goes back (R245, step 3). -/
def msgDelivered (u t : State) (h : MsgHeader) : Prop :=
  (h.tally = 0xFFFF → receiptSent u t h 0 0) ∧
    (h.tally ≠ 0xFFFF → ∃ v, receiptSent v t h 0 0 ∧ v.tiers = u.tiers ∧ (∀ k, ctrlStays u v k) ∧ (resolveTally u h.claim h.tally = none → v = u) ∧
      ∀ n, n < 1024 → resolveTally u h.claim h.tally = some n → (u.tally n).poisoned = false → isRelease u n = false →
        tallySet u v n ((u.tally n).value + 1))

/-- A claim's item starts ROUND_ARM (R268) or disarms (R269), and its block address is 0 only to disarm. -/
def roundCmd (s : State) (n seq l : Nat) (lv : Level) (b : List Byte) (arm : Bool) : Prop :=
  cmdStarts s n seq l 0x0A lv b ∧ (field b 8 5 ≠ 0 ↔ arm = true)

/-- Nothing holds controller c's round a: its barrier has passed, no redeal runs and its claim is not halted (R268, R274, R386). -/
def roundRuns (s : State) (c : Nat) (a : Armed) : Prop :=
  diesUp s = true ∧ c < 16 ∧ s.armed c = some a ∧ barrierPassed s a = true ∧ s.redealing = false ∧ shoeHalted s a.claim = false

/-- The macro-instruction of a step with recall flag r of controller c's round a in state s (R109, R271, R275). -/
def stepMacro (s : State) (c : Nat) (a : Armed) (j : Nat) (r : Bool) (m : MacroInst) : Prop :=
  m.id = s.dl.nextMacro ∧ m.claim = a.claim ∧ m.owner = .round c ∧ m.code = (if a.backward then 3 else 2) ∧ m.param = a.stepParam j r ∧
    m.descs = a.stepDescs j ∧ m.phase = .dispatched

/-- Controller c's round a becomes f of itself, and every other controller stays. -/
def roundIs (s t : State) (c : Nat) (a : Armed) : Prop :=
  tget t.rounds.ctrls c = { tget s.rounds.ctrls c with armed := some a } ∧ ∀ k, k ≠ c → tget t.rounds.ctrls k = tget s.rounds.ctrls k

/-- The hand of a step is marked as passed on with the deal's last step, which sends nothing (R272). -/
def lastPassed (a : Armed) : Armed :=
  if a.trig ≠ 0 ∧ a.trig + 1 = a.seatCount then
    { a with trig := a.trig + 1, landed := a.landed.map fun h => if h.number = a.handNo a.dealNo a.trig then { h with passed := true } else h }
  else { a with trig := a.trig + 1 }

/-- The first deal's steps as a round starts a deal whose recall bitmap is bm (R273, R275). -/
def dealStarts (a : Armed) (bm : List Byte) : Armed :=
  { a with deal := a.deal + 1, dealing := true, startWait := .idle, plan := a.planOf bm, trig := 0, comp := 0, rows := [] }

/-- The recall bitmap of the next deal of a round, and the state after it is read (R275). -/
def dealBitmap (s : State) (a : Armed) : Run (List Byte) :=
  if a.horizon = 0 then (s, .ok [])
  else readClaim s a.claim (a.recallVa + a.deal % a.dealCount * (((a.seatCount + 7) / 8 + 31) / 32 * 32)) ((a.seatCount + 7) / 8)

/-- A round's waits that are due and have not begun begin in state s: on the start tally between deals, and on the ready tally before a send;
one whose threshold is there already is met (R215, R272). -/
def waitsBegun (s : State) (a : Armed) : Armed :=
  { a with
    startWait := if a.startWait = .idle ∧ barrierPassed s a = true ∧ a.dealing = false then waitFrom s a.claim a.startTally (a.deal + 1) else a.startWait
    readyWait := if a.readyWait = .idle ∧ a.sendDue = true then waitFrom s a.claim a.readyTally (a.sent + 1) else a.readyWait }

/-- A wait that is over neither way. -/
def stillWaits (w : TallyWait) : Prop := w = .idle ∨ ∃ n, w = .waiting n

/-- Controller c sends the next hand of its round (R272). -/
def handDue (s : State) (c : Nat) (a : Armed) : Prop :=
  diesUp s = true ∧ c < 16 ∧ s.armed c = some a ∧ a.sendDue = true ∧ a.readyWait = .met ∧ s.redealing = false ∧
    shoeHalted s a.claim = false

/-- A lane that the Dealer may choose for a claim: not fenced, and not bound in real time to another claim (R77, R117). -/
def laneEligible (s : State) (claim k : Nat) : Prop :=
  k < 16 ∧ laneFenced s k = false ∧ ∀ c, rtClaimOf s k = some c → c = claim

/-- The lane of a MACRO of claim n in central mode, 16 while none is eligible: its real-time lane unless that is fenced, else the lane it
names, else the one chosen for it before while that is eligible, else the lowest eligible lane of the shortest queue (R77, R117, R369). -/
def laneChosen (s : State) (n named before lane : Nat) : Prop :=
  (∀ k, effClass s n = 3 → rtLaneOf s n = some k → lane = if laneFenced s k then 16 else k) ∧
    (effClass s n ≠ 3 ∨ rtLaneOf s n = none → (named < 16 → laneFenced s named = false → lane = named) ∧
      (16 ≤ named ∨ laneFenced s named = true → (laneEligible s n before → lane = before) ∧
        (¬ laneEligible s n before → (lane = 16 ∧ ∀ k, ¬ laneEligible s n k) ∨ (laneEligible s n lane ∧
          ∀ k, laneEligible s n k → laneQueued s lane < laneQueued s k ∨ (laneQueued s lane = laneQueued s k ∧ lane ≤ k)))))

/-- A MACRO, of bytes b, waits to be dispatched to a lane, its own or the one chosen for it, that can do more (R117, R118, R369). -/
def macroWaits (s : State) (n seq l g : Nat) (lv : Level) (b : List Byte) (lane : Nat) : Prop :=
  (∃ a before, cmdRuns s n seq l g lv a b ∧ a.st = .macroWait before ∧ ((∀ k g, lv.kind ≠ .lane k g) → laneChosen s n (field b 7 1) before lane)) ∧
    (∀ k g, lv.kind = .lane k g → lane = k ∧ laneDead s lane = false) ∧ lane < 16 ∧ s.redealing = false ∧ shoeHalted s n = false ∧
    partsOf s n seq l g = []

/-- A part of a MACRO of bytes b with its descriptors, its program set and its latched table, as its dispatch record holds it (R118, R139,
R143, R171). -/
def partOf (n seq l g : Nat) (b : List Byte) (ds : List Slot) (set_ : List Byte) (tb : Option (Nat × Bool × SfnTable)) (m : MacroInst) : Prop :=
  m.claim = n ∧ m.owner = .item n seq l g ∧ m.code = field b 6 1 ∧ m.programVa = field b 8 5 ∧ m.param = field b 0x1C 4 ∧
    m.descs = ds.map (·.getD []) ∧ m.table = tb ∧ m.t0Units = field set_ 6 2 ∧ m.header = bytesAt set_ 0 64 ∧ m.phase = .queued ∧
    m.nextGroup = 0 ∧ m.groups = groupCount m ∧ m.chunks = chunksOf m ∧ m.nextBlock = 0 ∧ m.works = []

/-- A MACRO that has passed its checks is dispatched: its parts exist, and they join the lane's queue in order while it has room (R118,
R123). -/
def partsMade (s t : State) (n seq l g lane : Nat) (b : List Byte) (ds : List Slot) (set_ : List Byte)
    (tb : Option (Nat × Bool × SfnTable)) : Prop :=
  ∃ (old ps : List MacroInst) (ids : List Nat), t.dl.macros = old ++ ps ∧
    List.Forall₂ (fun x y => y = { x with lane := y.lane, age := y.age }) s.dl.macros old ∧
    ps.map (·.cut) = cutsOf (Config.programBucketed set_) ((ds.getD 0 none).getD []) ∧ (∀ m ∈ ps, partOf n seq l g b ds set_ tb m) ∧
    (tget t.dl.lanes lane).queue = (tget s.dl.lanes lane).queue ++ ids ∧ (tget t.dl.lanes lane).queue.length ≤ 16 ∧ ids.Sublist (ps.map (·.id)) ∧
    ∀ k, k ≠ lane → tget t.dl.lanes k = tget s.dl.lanes k

/-- A dispatched part may start: its participants are there, each has a free context and room for its working set, and no earlier part
of it still runs (R123, R132, R133, R140). -/
def partMayStart (s : State) (m : MacroInst) : Prop :=
  diesUp s = true ∧ findMacro s m.id = some m ∧ m.phase = .dispatched ∧ s.redealing = false ∧ shoeHalted s m.claim = false ∧
    coresFor s m ≠ [] ∧ earlierPart s m = false ∧ ∀ c ∈ coresFor s m, c < 96 ∧ coreReady s m c = true

/-- The part runs on its participants: each holds it in a context, with its working set, and is awake (R140, R391). -/
def coresTaken (s t : State) (m : MacroInst) : Prop :=
  findMacro t m.id = some { m with phase := .running, cores := coresFor s m, age := s.now } ∧
    (∀ c ∈ coresFor s m, let x := tget s.dl.cores c
      let y := tget t.dl.cores c
      m.id ∈ y.contexts ∧ y.gated = false ∧ y.clockMhz = (if x.gated then tget s.power.clocks (c / 24) else x.clockMhz) ∧
        (freeUnitList y).length + m.t0Units = (freeUnitList x).length ∧ y.arb = x.arb ∧ y.current = x.current) ∧
    ∀ c, c ∉ coresFor s m → tget t.dl.cores c = tget s.dl.cores c

/-- Core c runs a tile group of part m (R132). -/
def groupOf (s : State) (c : Nat) (m : MacroInst) : Prop :=
  diesUp s = true ∧ c < 96 ∧ (tget s.dl.cores c).current = some m.id ∧ findMacro s m.id = some m

/-- A tile group of part m is in progress on core c: the part runs, is not held there and has work for it (R132, R135). -/
def groupLive (m : MacroInst) (c : Nat) : Prop :=
  m.stopping = false ∧ m.phase = .running ∧ c ∉ m.halted ∧ ((m.workOn c).isSome = true ∨ m.nextBlock < m.blocks)

/-- The tile group of block and chunk w, which core c has taken of part m, can end: the core is not fenced, and neither it nor a fence has
ended the part (R133, R135, R369). -/
def groupEnds (s : State) (c : Nat) (m : MacroInst) (w : GroupWork) : Prop :=
  groupOf s c m ∧ groupLive m c ∧ (m.takeBlock c).workOn c = some w ∧ m.fencedBy = none ∧ (tget s.dl.cores c).faulted m.id = false ∧
    (tget s.fences.cores c).fenced = false

/-- Part m after its tile group w on core c ended with g: what the group left is in it, the core goes on with the next chunk of its block,
and the other cores with theirs; a debug halt holds it on the core (R132, R135, R386). -/
def groupTaken (s t : State) (c : Nat) (m : MacroInst) (w : GroupWork) (g : GroupEnd) : Prop :=
  ∃ x, findMacro t m.id = some x ∧
    x = { m with nextGroup := m.nextGroup + 1, note := m.note ||| g.note, carry := g.carry ++ m.carry.filter fun y => g.carry.all fun z => z.1 != y.1
                 halted := if (tget s.dbg.wins m.claim).halted then c :: m.halted else m.halted
                 granted := x.granted, nextBlock := x.nextBlock, works := x.works } ∧
    (∀ k, k ≠ c → x.workOn k = m.workOn k) ∧
    (w.chunk + 1 < m.chunks → ∃ saved, x.workOn c = some { w with chunk := w.chunk + 1, acc := g.acc, inT0 := saved })

/-- The output row that SFN, HOIST or CONVERT makes of the bytes of an input row (R155, R159, R166). -/
def rowOut (m : MacroInst) (bs : List Byte) : List Byte :=
  if m.code = 7 then bs
  else if m.code = 8 then (convertRow (m.desc 0) (m.desc 1) m.param bs).1
  else
    let d := m.desc 0
    let xs := decodeRow (dFmt d) (dExt d 0) bs
    encodeRow (m.desc 1) ((if hasScale d then xs.map fun x => mul32 x (scaleFPOf d) else xs).map (evalTable ((m.table.map (·.2.2)).getD {})))

/-- ASY_INDEX_i answers, i is an index, and no register write waits (R309, R393). -/
def indexReg (s : State) (i : Nat) : Prop := i < 64 ∧ (regAt s 0 (asyOff (0x1000 + 16 * i))).isSome = true ∧ writesWait s = false

/-- Of the Assay engine only index i differs, and it is x. -/
def indexBecomes (s t : State) (i : Nat) (x : Index) : Prop :=
  t.index i = x ∧ (∀ k, k ≠ i → t.index k = s.index k) ∧ t.asy = { s.asy with indexes := t.asy.indexes }

/-- A binding has failed: the index is unbound with its cause (R311). -/
def bindFails (s t : State) (i va n cause : Nat) : Prop :=
  indexBecomes s t i { s.index i with headerVa := va, claim := n, valid := true, cause := cause }

/-- The index of claim n bound to the header h at va: its live fields are those of the engine granule (R310, R311). -/
def indexBound (va n : Nat) (h : List Byte) : Index :=
  { headerVa := va, claim := n, valid := true, st := .bound, header := h, epoch := field h 0x80 4, heapHead := field h 0x84 4
    heapTaken := field h 0x88 4, publishPoisoned := bit (field h 0x8C 4) 0, heapBlocked := bit (field h 0x8C 4) 1, skipped := field h 0x90 4
    spilled := field h 0x94 4, pins := headPages h }

/-- A search command has its checks behind it and waits for a window (R309, R315). -/
def searchWaits (s t : State) (n seq l : Nat) (lv : Level) (b : List Byte) (ds : List Slot) : Prop :=
  levelOf t n seq l = some (cmdHeld s.now lv b .assay) ∧ ∃ q : Search, t.asy = { s.asy with waiting := s.asy.waiting ++ [q] } ∧ q.shoe = n ∧ q.seq = seq ∧
    q.level = l ∧ q.granule = lv.pc ∧ q.index = field b 6 2 ∧ q.k = field b 8 2 ∧ q.probes = field b 0xA 2 ∧ q.queries = field b 0xC 2 ∧
    q.qDesc = (ds.getD 0 none).getD [] ∧ q.pDesc = (ds.getD 1 none).getD [] ∧ q.rDesc = (ds.getD 2 none).getD [] ∧ q.age = s.now ∧ q.fail = none

/-- A batch of whole waiting searches has formed, at most 256 queries, the higher classes first, each with what its index held (R317, R319). -/
def batchFormed (s t : State) (qs : List Search) : Prop :=
  t.asy.batch = some qs ∧ t.asy.batches = (s.asy.batches + 1) % 2 ^ 32 ∧ t.asy.indexes = s.asy.indexes ∧ (qs.map (·.queries)).foldl (· + ·) 0 ≤ 256 ∧
    (∀ q ∈ qs, ∃ w ∈ s.asy.waiting, searchLive s w = true ∧
      q = { w with header := (s.index w.index).header, epoch := (s.index w.index).epoch, heapHead := (s.index w.index).heapHead
                   heapTaken := (s.index w.index).heapTaken, heads := q.heads, permit := q.permit, fail := q.fail }) ∧
    (∀ w ∈ t.asy.waiting, w ∈ s.asy.waiting ∧ searchLive s w = true ∧ ∀ q ∈ qs, effClass s w.shoe ≤ effClass s q.shoe) ∧
    ∀ w ∈ s.asy.waiting, searchLive s w = true → w ∈ t.asy.waiting ∨ ∃ q ∈ qs, q.shoe = w.shoe ∧ q.seq = w.seq ∧ q.level = w.level ∧ q.granule = w.granule

end Sys2Proof
end

