-- ==== Sys2Proof/Certificates/Slice0/Obligations.lean ====
section
/-! DEFINITION. The statements for the provers. -/

open Sys2Proof Sys2Proof.Machine

/-- A step on a queue with a command at its front is exec of that command on the state with the queue's rest. The queue is
the model's own. -/
def Obligations.StepRunsFrontCommand : Prop :=
  ∀ (c : Instr) (s : State), step { s with pending := c :: s.pending } = exec c s

/-- On an empty queue a step is a tick of the package's clock (the model's choice, log entry 3): the local timer advances by
1,000 ns; while the main dies do not run nothing else changes, and while they run only the cores, the link, the rounds, the
memories and what these reach may change. Where P0 has returned with register writes that waited for it, the step applies
them instead, in order (R393; log entry 99). -/
def Obligations.IdleStepTicks : Prop :=
  ∀ s : State, s.pending = [] →
    (s.held = [] ∨ s.power.level ≠ 0 → ∃ t : State, step s = .next t ∧ t.now = s.now + 1000 ∧ t.pending = [] ∧ t.held = s.held ∧
      (diesUp s = false → t = { s with now := s.now + 1000 }) ∧
      OnlyParts [.freeCtr, .now, .out, .cl, .dl, .tiers, .sync, .fns, .ecc, .link, .rounds, .mgmt] s t) ∧
    ∀ (c : Instr) (cs : List Instr), s.held = c :: cs → s.power.level = 0 → ∃ u t : State,
      exec c { s with held := [] } = .next u ∧ runHeld cs u = .next t ∧ step s = .next t ∧ t.now = s.now ∧ t.pending = []

/-- Every command completes with a next state whatever the state, leaves the queue to the step, and only adds to what was
sent. -/
def Obligations.EveryCommandCompletes : Prop :=
  ∀ (i : Instr) (s : State), ∃ t : State, exec i s = .next t ∧ t.pending = s.pending ∧ ∃ ys : List Output, t.out = s.out ++ ys

/-- The frame of every command: what the table of its parts does not name stays as it was. -/
def Obligations.FrameOfEveryCommand : Prop :=
  ∀ (i : Instr) (s t : State), exec i s = .next t → OnlyParts i.parts s t

/-- Every step keeps the canonical form of both memory tiers and of the flash. -/
def Obligations.StepKeepsMemoryCanonical : Prop :=
  ∀ s t : State, s.memWf = true → step s = .next t → t.memWf = true

/-- Reset lists no byte of any memory. -/
def Obligations.ResetMemoryCanonical : Prop :=
  State.reset.memWf = true ∧ State.reset.tiers.t1 = [] ∧ State.reset.tiers.t2 = [] ∧ State.reset.boot.flash.cells = []

/-- No command moves the local timer (log entry 3). -/
def Obligations.OnlyTicksMoveTime : Prop := ∀ (i : Instr) (s t : State), exec i s = .next t → t.now = s.now

/-- Commands that the main dies carry out change nothing while the dies are in reset or held by a boundary scan (log entry
8). -/
def Obligations.HeldDiesDoNothing : Prop :=
  ∀ (i : Instr) (s : State), i.byDies = true → diesUp s = false → exec i s = .next s

/-- A write where no register of the function answers is discarded. -/
def Obligations.UnansweredWritesDiscarded : Prop :=
  ∀ (i : Instr) (s : State) (fn off : Nat), i.place = some (fn, off) → regAt s fn off = none → exec i s = .next s

/-- Accesses to a register of 64 bits in halves (R8): the low half is held until the high half commits both; reading the low
half latches the high one; a whole write discards a held half. A read of any other width returns 0 (R9), and where the endpoint
completes no request a read does nothing (R43). -/
def Obligations.HalvesOfWideRegisters : Prop :=
  (∀ (s : State) (fn off v : Nat) (r : RegRow × Nat), wideAt s fn off = some r →
    (writesNow s fn off → Runs (.regLowHalfWrite fn off v) s (fun t => alookup (tget t.fns fn).holds off = some (v % 2 ^ 32) ∧ OnlyParts [.fns] s t)) ∧
    (writesNow s fn off → ∃ u, alookup (tget u.fns fn).holds off = none ∧ OnlyParts [.fns] s u ∧
      exec (.regHighHalfWrite fn off v) s = .next (r.1.wr r.2
        (((alookup (tget s.fns fn).holds off).getD (r.1.val r.2 % 2 ^ 32) + 2 ^ 32 * (v % 2 ^ 32)) % 2 ^ 64) u) ∧
      exec (.registerWrite fn off 8 v) s = .next (r.1.wr r.2 (v % 2 ^ 64) u)) ∧
    Runs (.regLowHalfRead fn off 4) s (fun t => alookup (tget t.fns fn).latches off = some (regValue s fn off r / 2 ^ 32) ∧
      t.out = s.out ++ [.regRead fn off (regValue s fn off r % 2 ^ 32)] ∧ OnlyParts [.fns, .power, .out] s t) ∧
    Runs (.regLowHalfRead fn off 8) s (fun t => t.out = s.out ++ [.regRead fn off (regValue s fn off r)] ∧ OnlyParts [.fns, .power, .out] s t)) ∧
  ∀ (s : State) (fn off width : Nat),
    (completes s fn = true → width ≠ 4 → width ≠ 8 → exec (.regLowHalfRead fn off width) s = .next (s.emit (.regRead fn off 0))) ∧
    (completes s fn = false → exec (.regLowHalfRead fn off width) s = .next s)

/-- A write of a 32-bit register is a whole write of it (R6); one of 64 bits over 32-bit registers is two, the lower address
first (R417); a read of the word of PWR_MEASURE that holds bits [31:0] restarts the peak (R420). -/
def Obligations.NarrowRegistersAndMeasure : Prop :=
  (∀ (s : State) (fn off v : Nat) (r : RegRow × Nat), narrowAt s fn off = some r → writesNow s fn off →
    exec (.registerWrite fn off 4 v) s = .next (r.1.wr r.2 (v % 2 ^ 32) s) ∧
    (off % 8 = 0 → exec (.registerWrite fn off 8 v) s = .next (write32Reg (r.1.wr r.2 (v % 2 ^ 32) s) fn (off + 4) (v / 2 ^ 32)))) ∧
  ∀ (s : State) (wide : Bool) (r : RegRow × Nat), wideAt s 0 measureOff = some r →
    Runs (.pwrMeasureRead wide) s fun t => t.power = { s.power with peakW := 0 } ∧
      t.out = s.out ++ [.regRead 0 measureOff (if wide then regValue s 0 measureOff r else regValue s 0 measureOff r % 2 ^ 32)] ∧
      OnlyParts [.fns, .power, .out] s t

/-- The failure exits of the boot (R33, R42, Table 2.7). -/
def Obligations.StandbyAndBootFailures : Prop :=
  (∀ (s : State) (flash : Flash) (fuses : Fuses) (env : BootEnv), s.boot.stbyPwrok = false → s.boot.found = false →
    (env.stall = 1 → Runs (.stbyPwrokRise flash fuses env) s fun t =>
      t.boot.stbyPwrok = true ∧ t.boot.lamphouse = true ∧ t.boot.mainEn = true ∧ t.boot.step = 1 ∧ t.boot.fuses = fuses ∧
        t.boot.qualified = powerGood s ∧ t.out = s.out ++ [.pin "MAIN_EN" true] ∧ OnlyParts [.boot, .out] s t) ∧
    (env.stall ≠ 1 → fuses.senseError = true → s.boot.released = false → Runs (.stbyPwrokRise flash fuses env) s fun t =>
      t.boot.dev = .failed ∧ t.boot.copyACause = 0x0801 ∧ t.boot.copyBCause = 0x0801 ∧ t.boot.lamphouse = true)) ∧
  (∀ (s : State) (env : BootEnv) (c : Nat), s.boot.step = 4 → s.boot.cands = [c] → c < 2 → s.boot.img = none → s.boot.released = false →
    Runs (.flashReadTimeout env) s fun t => t.boot.dev = .failed ∧ copyCause t.boot c = 0x0801 ∧
      copyCause t.boot (1 - c) = copyCause s.boot (1 - c) ∧ OnlyParts [.boot, .mgmt, .out] s t) ∧
  ∀ (s : State) (env : BootEnv),
    (s.boot.step = 10 ∨ s.boot.step = 11 ∨ s.boot.step = 12 → Runs (.bootStepTimeout env) s fun t =>
      t.boot.dev = .failed ∧ t.boot.released = false ∧ t.boot.releaseCause = 0x0510 ∧ t.boot.img = s.boot.img ∧
        t.boot.flash = s.boot.flash ∧ t.boot.fuses = s.boot.fuses) ∧
    (s.boot.step = 2 → s.boot.released = false → Runs (.bootStepTimeout env) s fun t =>
      t.boot.dev = .failed ∧ t.boot.copyACause = 0x0807 ∧ t.boot.copyBCause = 0x0807)

/-- The events that release the dies where R41 allows it (R41, R434), and the end of the boot (R42). -/
def Obligations.DieReleaseEvents : Prop :=
  ∀ (s : State) (env : BootEnv), env.stall = 10 →
    (waitsForRelease s → s.boot.resetL = false → s.boot.qualified = true → Runs (.resetLRise env) s (releasedNow s)) ∧
    (waitsForRelease s → powerGood (s.modBoot fun b => { b with pwrok := true }) = true → s.boot.wasQualified = false →
      (s.boot.resetL = true → Runs (.pwrokRise env) s (releasedNow s)) ∧
      (s.boot.resetL = false → exec (.pwrokRise env) s =
        .next (s.modBoot fun b => { b with pwrok := true, qualified := true, wasQualified := true }))) ∧
    (waitsForRelease s → powerGood (s.modBoot fun b => { b with railsOk := true, refclk := true, crystal := true }) = true →
      s.boot.qualified = false → s.boot.resetL = true → Runs (.qualifiedPwrokRestore env) s (releasedNow s)) ∧
    ∀ us : Nat, s.boot.step = 13 → s.boot.released = true → Runs (.bootReady us) s fun t =>
      t.boot.step = 14 ∧ t.boot.releaseToReadyUs = us % 2 ^ 32 ∧ t.boot.dev = (if s.boot.newSeat then .newSeat else .ready) ∧
        OnlyParts [.boot, .mgmt, .out] s t

/-- The pins and conditions that hold the main dies (Table 17.8, R434), and the alert of a long hold (R365). -/
def Obligations.ColdStartEvents : Prop :=
  ∀ s : State,
    (s.boot.released = true → Runs .resetLFall s (fun t => coldStarted s t ∧ t.boot.resetL = false) ∧
      (s.boot.qualified = true →
        Runs .pwrokFall s (fun t => coldStarted s t ∧ t.boot.pwrok = false ∧ t.boot.qualified = false) ∧
        Runs .railMonitorFault s (fun t => coldStarted s t ∧ t.boot.railsOk = false ∧ t.boot.qualified = false) ∧
        Runs .refclkSzLoss s (fun t => coldStarted s t ∧ t.boot.refclk = false ∧ t.boot.qualified = false) ∧
        Runs .crystalLoss s (fun t => coldStarted s t ∧ t.boot.crystal = false ∧ t.boot.qualified = false))) ∧
    Runs .stbyPwrokFall s (fun t => t.boot.stbyPwrok = false ∧ t.boot.lamphouse = false ∧ t.boot.released = false ∧ t.boot.img = none ∧
      t.boot.mainEn = false ∧ t.boot.flash = s.boot.flash ∧ t.boot.fuses = s.boot.fuses ∧ mainLost t ∧ t.mgmt = {} ∧ t.dbg = {} ∧
      ∃ ys, t.out = s.out ++ ys ++ [.pin "MAIN_EN" false]) ∧
    (s.boot.lamphouse = true → s.boot.released = false → s.power.level ≠ 3 → s.boot.resetL = false ∨ s.boot.qualified = false →
      Runs .resetHeldAlert s fun t => t.boot = { s.boot with heldAlert := true } ∧ t.mgmt.alerts.testBit 0 = true ∧
        OnlyParts [.boot, .mgmt, .out] s t)

/-- PWR_CTRL requests, and register writes that come in P2 (R392 to R394, R429). -/
def Obligations.PowerRequests : Prop :=
  (∀ (s : State) (fn off v : Nat) (w : Nat), actsInP2 fn off = false → s.power.level = 2 →
    exec (.registerWrite fn off w v) s = .next { s with held := s.held ++ [.registerWrite fn off w v] } ∧
    exec (.regLowHalfWrite fn off v) s = .next { s with held := s.held ++ [.regLowHalfWrite fn off v] } ∧
    exec (.regHighHalfWrite fn off v) s = .next { s with held := s.held ++ [.regHighHalfWrite fn off v] }) ∧
  ∀ (s : State) (wake : Bool), (regAt s 0 (pwrOff 0x8)).isSome = true →
    (∀ k, refusalCode s k →
      exec (.pwrRequestP2 wake) s = .next (s.modPower fun p => { p with request := 2, wakeOnDoorbell := wake, refused := true, reason := k }) ∧
      exec (.pwrRequestP3 wake) s = .next (s.modPower fun p => { p with request := 3, wakeOnDoorbell := wake, refused := true, reason := k })) ∧
    ((∀ k, ¬ refusalCode s k) →
      Runs (.pwrRequestP2 wake) s (fun t => t.power.level = 2 ∧ t.power.request = 2 ∧ t.link.idle = true ∧
        (s.power.boostWithheld = false → alookup t.power.rails 4 = some 600 ∧ alookup t.power.rails 5 = some 600 ∧
          ∀ d < 4, alookup t.power.rails d = some 650) ∧ (s.power.boostWithheld = true → t.power.rails = s.power.rails)) ∧
      Runs (.pwrRequestP3 wake) s (fun t => coldStarted s t ∧ t.power.level = 3 ∧ t.boot.mainEn = false)) ∧
    (s.power.level = 2 → Runs (.pwrRequestP0 wake) s fun t => t.power.level = 0 ∧ t.power.request = 0 ∧
      t.link = { s.link with idle := false } ∧ (s.power.boostWithheld = false → alookup t.power.rails 4 = some 800 ∧ alookup t.power.rails 5 = some 750))

/-- The power limit (R395), the retries of AVSBus (R429) and the temperatures (R436, R437). -/
def Obligations.PowerLimitAndRails : Prop :=
  (∀ (s : State) (avg sample : Nat), s.boot.released = true → avg < 65536 → sample < 65536 →
    Runs (.powerLimitCheck avg sample) s fun t =>
      t.power.avgW = avg ∧ t.power.peakW = max s.power.peakW sample ∧
      (powerLimit s < avg → t.power.powerThrottled = true ∧ t.power.clocks = s.power.clocks.map fun c => max 25 (c - 25)) ∧
      (20 * avg < 19 * powerLimit s → t.power.powerThrottled = false ∧ t.power.clocks =
        if s.power.thermalThrottled then s.power.clocks else s.power.clocks.map fun c => min 1750 (c + 25)) ∧
      (avg ≤ powerLimit s → 19 * powerLimit s ≤ 20 * avg →
        t.power.powerThrottled = s.power.powerThrottled ∧ t.power.clocks = s.power.clocks) ∧
      OnlyParts [.power, .dl, .mgmt, .out] s t) ∧
  (∀ (s : State) (rail readBack : Nat),
    (∀ mv, alookup s.power.rails rail = some mv → (alookup s.power.avsTries rail).getD 0 < 3 →
      Runs (.avsbusCommandTimeout rail readBack) s fun t => t.out = s.out ++ [.avs rail mv] ∧ t.power.rails = s.power.rails ∧
        alookup t.power.avsTries rail = some ((alookup s.power.avsTries rail).getD 0 + 1) ∧ OnlyParts [.power, .out] s t) ∧
    ((alookup s.power.rails rail).isSome = true → 3 ≤ (alookup s.power.avsTries rail).getD 0 →
      Runs (.avsbusCommandTimeout rail readBack) s fun t => alookup t.power.rails rail = some readBack ∧
        t.power.boostWithheld = true ∧ alookup t.power.avsTries rail = none ∧ OnlyParts [.power] s t) ∧
    (alookup s.power.rails rail = none → exec (.avsbusCommandTimeout rail readBack) s = .next s)) ∧
  ∀ (s : State) (temps : List Int), (∀ d < 8, tget s.power.tripped d = false) → s.boot.released = true →
    (s.boot.qualified = true → powerGood s = true) →
    ((∀ d < 7, temps.getD d 0 + 3 ≤ (dieLimits d).1.getD 0) → temps.getD 7 0 ≤ 115 → s.power.thermalThrottled = false →
      exec (.thermalSample temps) s = .next (s.modPower fun p => { p with temps := Vector.ofFn fun i : Fin 8 => temps.getD i 0 })) ∧
    ((∀ d < 8, temps.getD d 0 ≤ (dieLimits d).2.1) → (∃ d < 7, (dieLimits d).1.getD 0 < temps.getD d 0) →
      Runs (.thermalSample temps) s fun t => t.power.thermalThrottled = true ∧
        t.power.clocks = (s.power.clocks.map fun c => max 25 (c - 25)) ∧ OnlyParts [.power, .dl, .out] s t)

/-- Edges of the beat (R47, R51, R53, R54). -/
def Obligations.BeatEdges : Prop :=
  ∀ s : State, diesUp s = true → 11 ≤ s.boot.step →
    (s.beat.aligned = true →
      (s.beat.source = 0 → s.beat.holdover = false → ∀ ns : Nat, Runs (.pinBeatEdge ns) s fun t =>
        t.beat.count = (if 0 < s.beat.held then s.beat.count else (s.beat.count + 1) % 2 ^ 48) ∧ t.beat.held = s.beat.held - 1 ∧
        t.beat.aligned = true) ∧
      (s.beat.holdover = true → Runs .holdoverBeatEdge s fun t =>
        t.beat.count = (if 0 < s.beat.held then s.beat.count else (s.beat.count + 1) % 2 ^ 48) ∧ t.beat.held = s.beat.held - 1 ∧
        t.beat.holdover = true)) ∧
    (s.beat.aligned = false → s.beat.source = 0 → s.beat.lastValid = none → ∀ ns : Nat, Runs (.pinBeatEdge ns) s fun t =>
      t.beat.count = s.beat.count ∧ t.beat.aligned = false ∧ t.beat.intervals = (ns :: s.beat.intervals).take 16) ∧
    (s.beat.source = 2 → Runs .fillerBeat s fun t => t.beat.count = s.beat.count ∧ t.beat.inFiller = true ∧ t.beat.filler = true) ∧
    (s.beat.locked = true → Runs .beatLoss s fun t => t.beat = { s.beat with
        locked := false, holdover := true, loss := true, goodRun := 0, badRun := 0, agreed := false, lastValid := none } ∧
      t.mgmt.alerts.testBit 5 = true ∧ OnlyParts [.beat, .cl, .fns, .mgmt, .out] s t)

/-- Received counts (R48 to R50, R52, R54). -/
def Obligations.BeatCounts : Prop :=
  ∀ s : State, diesUp s = true → 11 ≤ s.boot.step →
    (s.beat.source = 0 → ∀ pulses : List Nat,
      (frameCount pulses = none → exec (.pinBeatFrame pulses) s =
        .next (s.modBeat fun b => { b with frameError := satInc 16 b.frameError })) ∧
      ∀ c, frameCount pulses = some c → s.beat.aligned = true → Runs (.pinBeatFrame pulses) s fun t =>
        t.beat.lastValid = some c ∧ t.beat.aligned = true ∧
        (let n := (c + 63) % 2 ^ 48
        t.beat.differed = decide (n + t.beat.held ≠ t.beat.count) ∧
        (s.beat.lastValid.map (· + 64) = some c → s.beat.differed = true → n + s.beat.held ≠ s.beat.count →
          (n < s.beat.count → t.beat.count = s.beat.count ∧ t.beat.held = s.beat.count - n ∧ t.beat.jumpHold = true) ∧
          (s.beat.count < n → t.beat.count = n ∧ t.beat.held = 0 ∧ t.beat.skipped = (s.beat.skipped + (n - s.beat.count)) % 2 ^ 48 ∧
            t.beat.jumpFwd = (s.beat.jumpFwd || decide (n - s.beat.count ≤ 65536)) ∧
            t.beat.jumpFar = (s.beat.jumpFar || decide (65536 < n - s.beat.count)))) ∧
        (s.beat.lastValid.map (· + 64) ≠ some c ∨ s.beat.differed = false ∨ n + s.beat.held = s.beat.count ∨ n = s.beat.count →
          t.beat.count = s.beat.count ∧ t.beat.held = s.beat.held ∧ t.beat.jumpHold = s.beat.jumpHold ∧ t.beat.skipped = s.beat.skipped))) ∧
    (s.beat.source = 1 → ∀ port hop count ns : Nat,
      (port ≠ s.image.linkPort ∨ 15 < hop ∨ ¬ trained s port → exec (.linkBeatMessage port hop count ns) s = .next s) ∧
      (port = s.image.linkPort → hop ≤ 15 → trained s port → s.beat.aligned = true → s.beat.holdover = false →
        s.beat.held = 0 → count = (s.beat.count + 1) % 2 ^ 48 → Runs (.linkBeatMessage port hop count ns) s fun t =>
          t.beat.count = count ∧ t.beat.hop = hop ∧ t.beat.aligned = true)) ∧
    (s.beat.source = 2 → ∀ n : Nat,
      (s.beat.designate = true → committedSteps s s.beat.tokenRound = some n →
        (s.beat.aligned = false → Runs .tokenBeatCommit s fun t => t.beat.aligned = true ∧ t.beat.count = n) ∧
        (s.beat.aligned = true → n ≤ s.beat.count → exec .tokenBeatCommit s = .next s) ∧
        (s.beat.aligned = true → s.beat.count < n → Runs .tokenBeatCommit s fun t => t.beat.count = n ∧
          t.beat.skipped = (s.beat.skipped + (n - s.beat.count - 1)) % 2 ^ 48)) ∧
      ∀ round < 65536, (regAt s 0 (beatOff 0x28)).isSome = true → writesWait s = false → committedSteps s round = some n →
        Runs (.beatTokenDesignate round) s fun t => t.beat.aligned = true ∧ t.beat.count = n ∧ t.beat.redesignated = true ∧
          t.beat.tokenRound = round ∧ t.beat.designate = true)

/-- Entries fire (R56, R57, R61, R75, R80). -/
def Obligations.CalendarEntries : Prop :=
  ∀ (s : State) (i a : Nat) (views : List UnitView) (c : Instr), calendarCmd i views a = some c → diesUp s = true →
    (entryDue s i = false ∨ ceAction (s.entry i) ≠ a → exec c s = .next s) ∧
    (entryDue s i = true → ceAction (s.entry i) = a → actionAllowed s a = false → entryTurn s i → exec c s = .next (firing s i)) ∧
    (entryDue s i = true → ceAction (s.entry i) = a → Runs c s fun t => i ∈ t.beat.fired ∧
      ∀ j < 64, entryDue s j = true → entryBefore s j i → j ∈ t.beat.fired) ∧
    (entryReady s i a → Runs c s fun t => entryFired s t i ∧ let arg := ceArg (s.entry i)
      (a = 1 → s.redealing = false → ∀ n < 8, (t.claim n).activeProfile =
        if (bits arg 0 4 = n ∨ bits arg 0 4 = 0xF) ∧ (bits arg 0 4 < 8 ∨ bits arg 0 4 = 0xF) ∧ (s.claim n).st = .active then bits arg 4 3
        else (s.claim n).activeProfile) ∧
      (a = 1 → s.redealing = true → bits arg 0 4 < 8 → t.redeal.heldShares = s.redeal.heldShares ++ [(bits arg 0 4, bits arg 4 3)]) ∧
      (a = 7 → ∀ n < 8, t.claim n = if (bits arg 0 8).testBit n ∧ (s.claim n).st = .active then
          { s.claim n with ckptUntil := some (max ((s.claim n).ckptUntil.getD 0) (s.beat.count + bits arg 8 16)) }
        else s.claim n) ∧
      (a = 8 → OnlyParts [.beat, .cl, .fns, .out] s t ∧
        t.cl = (postEvent (firing s i) 8 0x0012 0 [leBytes 1 i ++ List.replicate 3 0#8 ++ leBytes 4 arg]).cl ∧
        t.out = (postEvent (firing s i) 8 0x0012 0 [leBytes 1 i ++ List.replicate 3 0#8 ++ leBytes 4 arg]).out))

/-- Changes of the calendar (R60), the ends of windows (R80) and pending reservations (R76). -/
def Obligations.CalendarChanges : Prop :=
  (∀ (s : State) (atBeat : Nat), (regAt s 0 (beatOff 0x30)).isSome = true → writesWait s = false → atBeat < 2 ^ 48 →
    ((∀ i < 64, ceOk (tget s.beat.shadow i) = true) →
      exec (.beatCalCommitArm atBeat) s = .next ((dropHold s 0 (beatOff 0x30)).modBeat fun b => { b with atBeat := atBeat, commitPending := true })) ∧
    (∀ i < 64, ceOk (tget s.beat.shadow i) = false → (∀ j < i, ceOk (tget s.beat.shadow j) = true) →
      exec (.beatCalCommitArm atBeat) s = .next ((dropHold s 0 (beatOff 0x30)).modBeat fun b =>
        { b with atBeat := atBeat, commitPending := false, commitRefused := true, refusedEntry := i }))) ∧
  (∀ (s : State) (entry word v : Nat), entry < 64 → word < 2 → (regAt s 0 (beatOff (0x2000 + 16 * entry + 8 * word))).isSome = true →
    writesWait s = false →
    Runs (.beatCalShadowWrite entry word v) s fun t =>
      bytesAt (tget t.beat.shadow entry) (8 * word) 8 = leBytes 8 v ∧
      bytesAt (tget t.beat.shadow entry) (8 * (1 - word)) 8 = bytesAt (tget s.beat.shadow entry) (8 * (1 - word)) 8 ∧
      (∀ j, j ≠ entry → tget t.beat.shadow j = tget s.beat.shadow j) ∧ t.beat.commitPending = false ∧
      t.beat.commitCancelled = (s.beat.commitCancelled || s.beat.commitPending) ∧ t.beat.active = s.beat.active ∧
      OnlyParts [.beat, .fns] s t) ∧
  ∀ s : State, diesUp s = true →
    Runs .checkpointWindowEnd s (fun t => (∀ n < 8,
        (∀ u, (s.claim n).ckptUntil = some u → u ≤ s.beat.count → t.claim n = { s.claim n with ckptUntil := none }) ∧
        ((∀ u, (s.claim n).ckptUntil = some u → s.beat.count < u) → t.claim n = s.claim n)) ∧ t.cl.rings = s.cl.rings ∧ OnlyParts [.cl] s t) ∧
    ∀ n < 8, (s.beat.aligned = true → exec (.reservationApplyTimeout n) s = .next s) ∧
      (s.beat.aligned = false → (s.claim n).resvPending = true → rtLaneBusy s n = false → Runs (.reservationApplyTimeout n) s fun t =>
        t.claim n = { s.claim n with effResv := profResv (activeProf (s.claim n)), resvPending := false } ∧
        (∀ m, m ≠ n → t.claim m = s.claim m) ∧ OnlyParts [.cl, .fns, .out] s t)

/-- NOP, WRITE_MEM and WAIT_MEM (R92, R93, R99). -/
def Obligations.PlainDeckCommands : Prop :=
  ∀ (s : State) (shoe seq l : Nat),
    (∀ lv b, cmdStarts s shoe seq l 0x00 lv b → Runs (.nop shoe seq l) s fun t =>
      levelOf t shoe seq l = some (cmdDone lv b) ∧ othersStay s t shoe seq ∧ OnlyParts [.dl] s t) ∧
    (∀ lv b, cmdStarts s shoe seq l 0x05 lv b →
      let bs := if bits (field b 6 1) 1 2 = 0 then leBytes (if bit (field b 6 1) 0 then 8 else 4) (field b 0x10 8)
        else if bits (field b 6 1) 1 2 = 1 then leBytes 8 (beatStamp s) else leBytes 8 (s.now / 1000)
      Runs (.writeMem shoe seq l) s fun t => othersStay s t shoe seq ∧ OnlyParts [.dl, .out] s t ∧
        (hostOk s (fnOf shoe) (field b 8 8) bs.length = true →
          t.out = s.out ++ [.hostWrite (fnOf shoe) (field b 8 8) bs] ∧ levelOf t shoe seq l = some (cmdDone lv b)) ∧
        (hostOk s (fnOf shoe) (field b 8 8) bs.length = false → t.out = s.out ∧ itemFails t shoe seq 0x0411)) ∧
    (∀ lv b, cmdStarts s shoe seq l 0x04 lv b →
      let n := if bit (field b 6 1) 3 then 8 else 4
      Runs (.waitMem shoe seq l) s fun t => othersStay s t shoe seq ∧ OnlyParts [.dl, .out] s t ∧
        (hostOk s (fnOf shoe) (field b 8 8) n = true → t.out = s.out ++ [.hostRead (fnOf shoe) (field b 8 8) n] ∧
          ∃ lv', levelOf t shoe seq l = some lv' ∧ lv'.pc = lv.pc + cmdSize b ∧ activeAt lv' lv.pc (.waitMem true)) ∧
        (hostOk s (fnOf shoe) (field b 8 8) n = false → t.out = s.out ∧ itemFails t shoe seq 0x0411)) ∧
    (∀ g lv a b, cmdRuns s shoe seq l g lv a b → a.st = .waitMem false → s.redealing = false →
      let n := if bit (field b 6 1) 3 then 8 else 4
      Runs (.waitMemPoll shoe seq l g) s fun t => othersStay s t shoe seq ∧ OnlyParts [.dl, .out] s t ∧
        (hostOk s (fnOf shoe) (field b 8 8) n = true → t.out = s.out ++ [.hostRead (fnOf shoe) (field b 8 8) n] ∧
          ∃ lv', levelOf t shoe seq l = some lv' ∧ lv'.pc = lv.pc ∧ activeAt lv' g (.waitMem true)) ∧
        (hostOk s (fnOf shoe) (field b 8 8) n = false → t.out = s.out ∧ itemFails t shoe seq 0x0411)) ∧
    ∀ g lv a b, cmdRuns s shoe seq l g lv a b → a.st = .waitMem true ∨ a.st = .waitMemRung → ∀ r : HostResp,
      let n := if bit (field b 6 1) 3 then 8 else 4
      let waits := fun t st => ∃ lv', levelOf t shoe seq l = some lv' ∧ lv'.pc = lv.pc ∧ lv'.events = lv.events ∧ activeAt lv' g (.waitMem st)
      Runs (.waitMemReadReturn shoe seq l g r) s fun t => othersStay s t shoe seq ∧ OnlyParts [.dl, .out, .pcie] s t ∧
        (r = .err → itemFails t shoe seq 0x0411 ∧ t.pcie = (aerLog s).pcie ∧ t.out = s.out) ∧
        ∀ bs, r = .ok bs → t.pcie = s.pcie ∧
          (waitMemHolds b (leNat (bytesAt bs 0 n)) = true → levelOf t shoe seq l = some (cmdEnded lv g) ∧ t.out = s.out) ∧
          (waitMemHolds b (leNat (bytesAt bs 0 n)) = false →
            (a.st = .waitMem true ∨ s.redealing = true → waits t false ∧ t.out = s.out) ∧
            (a.st = .waitMemRung → s.redealing = false →
              (hostOk s (fnOf shoe) (field b 8 8) n = true → waits t true ∧ t.out = s.out ++ [.hostRead (fnOf shoe) (field b 8 8) n]) ∧
              (hostOk s (fnOf shoe) (field b 8 8) n = false → itemFails t shoe seq 0x0411 ∧ t.out = s.out)))

/-- IF and LOOP (R110, R111, R113). -/
def Obligations.ControlCommands : Prop :=
  ∀ (s : State) (shoe seq l : Nat),
    (∀ lv b, cmdStarts s shoe seq l 0x07 lv b → Runs (.ifCmd shoe seq l) s fun t => othersStay s t shoe seq ∧ OnlyParts [.dl] s t ∧
      (∀ n, resolveTally s shoe (field b 8 2) = some n →
        ((s.tally n).poisoned = true → itemFails t shoe seq (s.tally n).cause) ∧
        ((s.tally n).poisoned = false →
          (condHolds (field b 6 1) (s.tally n).value.toNat (field b 0xC 4) → levelOf t shoe seq l = some (cmdDone lv b)) ∧
          (¬ condHolds (field b 6 1) (s.tally n).value.toNat (field b 0xC 4) →
            levelOf t shoe seq l = some { cmdDone lv b with pc := lv.pc + cmdSize b + field b 0xA 2 }))) ∧
      (resolveTally s shoe (field b 8 2) = none → itemFails t shoe seq 0x0102)) ∧
    (∀ lv b, cmdStarts s shoe seq l 0x08 lv b → Runs (.loopCmd shoe seq l) s fun t => othersStay s t shoe seq ∧ OnlyParts [.dl] s t ∧
      let inside : Level := { cmdHeld s.now lv b .loop with loops := loopFrame lv.pc b :: lv.loops }
      (field b 6 1 = 0 → levelOf t shoe seq l = some inside) ∧
      (field b 6 1 ≠ 0 → ∀ n, resolveTally s shoe (field b 8 2) = some n →
        ((s.tally n).poisoned = true → itemFails t shoe seq (s.tally n).cause) ∧
        ((s.tally n).poisoned = false →
          (condHolds (field b 7 1) (s.tally n).value.toNat (field b 0xC 4) → levelOf t shoe seq l = some inside) ∧
          (¬ condHolds (field b 7 1) (s.tally n).value.toNat (field b 0xC 4) →
            levelOf t shoe seq l = some (loopEnded inside (loopFrame lv.pc b) lv.loops)))) ∧
      (field b 6 1 ≠ 0 → resolveTally s shoe (field b 8 2) = none → itemFails t shoe seq 0x0102)) ∧
    ∀ lv f rest, loopWaits s shoe seq l lv f rest → Runs (.loopIterationStart shoe seq l) s fun t =>
      othersStay s t shoe seq ∧ OnlyParts [.dl] s t ∧ let b := cmdAt lv.bytes f.granule
      (field b 6 1 = 0 → f.left = 0 → levelOf t shoe seq l = some (loopEnded lv f rest)) ∧
      (field b 6 1 = 0 → 0 < f.left → levelOf t shoe seq l = some (loopAgain lv f { f with left := f.left - 1 } rest)) ∧
      (field b 6 1 ≠ 0 → ∀ n, resolveTally s shoe (field b 8 2) = some n →
        ((s.tally n).poisoned = true → itemFails t shoe seq (s.tally n).cause) ∧
        ((s.tally n).poisoned = false →
          (condHolds (field b 7 1) (s.tally n).value.toNat (field b 0xC 4) → levelOf t shoe seq l = some (loopAgain lv f f rest)) ∧
          (¬ condHolds (field b 7 1) (s.tally n).value.toNat (field b 0xC 4) → levelOf t shoe seq l = some (loopEnded lv f rest)))) ∧
      (field b 6 1 ≠ 0 → resolveTally s shoe (field b 8 2) = none → itemFails t shoe seq 0x0102)

/-- TALLY commands (R213 to R218, R223). -/
def Obligations.TallyDeckCommands : Prop :=
  ∀ (s : State) (shoe seq l : Nat) (lv : Level) (b : List Byte), cmdStarts s shoe seq l 0x03 lv b →
    let cmd : Nat → Option Instr := fun op => [Instr.tallyAdd shoe seq l, .tallySet shoe seq l, .tallyWaitGe shoe seq l,
      .tallyWaitEq shoe seq l, .tallyArm shoe seq l, .tallyPoison shoe seq l][op]?
    ∀ i, cmd (field b 6 1) = some i →
    (resolveTally s shoe (field b 8 2) = none → Runs i s fun t => itemFails t shoe seq 0x0102 ∧ OnlyParts [.dl] s t) ∧
    ∀ n < 1024, resolveTally s shoe (field b 8 2) = some n → let x := s.tally n; let v := BitVec.ofNat 32 (field b 0xC 4)
      (field b 6 1 < 4 → x.poisoned = true → Runs i s fun t => itemFails t shoe seq x.cause ∧ OnlyParts [.dl] s t) ∧
      (field b 6 1 ∈ [0, 1] → x.poisoned = false → isRelease s n = true → Runs i s fun t => itemFails t shoe seq 0x0522 ∧ OnlyParts [.dl] s t) ∧
      (field b 6 1 ∈ [0, 1] → x.poisoned = false → isRelease s n = false → Runs i s fun t =>
        tallySet s t n (if field b 6 1 = 0 then x.value + v else v) ∧ cmdPassed t shoe seq l lv b) ∧
      (field b 6 1 ∈ [2, 3] → x.poisoned = false → let met := if field b 6 1 = 3 then x.value.toNat = field b 0xC 4 else field b 0xC 4 ≤ x.value.toNat
        Runs i s fun t => OnlyParts [.dl] s t ∧ othersStay s t shoe seq ∧
          (met → levelOf t shoe seq l = some (cmdDone lv b)) ∧
          (¬ met → levelOf t shoe seq l = some (cmdHeld s.now lv b (.tallyWait n (field b 6 1 == 3) (field b 0xC 4))))) ∧
      (field b 6 1 = 4 → isRelease s n = true → Runs i s fun t => itemFails t shoe seq 0x0522 ∧ OnlyParts [.dl] s t) ∧
      (field b 6 1 = 4 → isRelease s n = false → Runs i s fun t => t.tally n = { value := v } ∧ cmdPassed t shoe seq l lv b ∧
        (trickOfTally s n = none → ∀ m, m ≠ n → t.tally m = s.tally m)) ∧
      (field b 6 1 = 5 → x.poisoned = true → Runs i s fun t => OnlyParts [.dl] s t ∧ levelOf t shoe seq l = some (cmdDone lv b)) ∧
      (field b 6 1 = 5 → x.poisoned = false → Runs i s fun t => tallyPoisoned s t n ∧
        (trickOfTally s n = none → (∀ w ∈ waitersOn s n, ¬ (w.1 = shoe ∧ w.2.1 = seq)) → levelOf t shoe seq l = some (cmdDone lv b)))

/-- Tally windows (R219, R220, R231). -/
def Obligations.TallyWindows : Prop :=
  ∀ (s : State) (n v : Nat),
    (∀ c < 8, (regAt s (c + 1) (0x20008 + 16 * n)).isSome = true → writesWait s = false → n < (s.claim c).tallyCount →
      let d := (s.claim c).tallyBase + n; let w := BitVec.ofNat 32 (v % 2 ^ 32); d < 1024 →
      let free : Prop := (tget (tget s.sync.claims c).masks (n / 64)).toNat.testBit (n % 64) = true ∧ (s.tally d).poisoned = false ∧ isRelease s d = false
      (free → Runs (.tlyOpAdd c n v) s (fun t => tallySet s t d ((s.tally d).value + w)) ∧ Runs (.tlyOpSet c n v) s (fun t => tallySet s t d w)) ∧
      (¬ free → ∀ i ∈ [Instr.tlyOpAdd c n v, .tlyOpSet c n v], Runs i s fun t =>
        (tget t.sync.claims c).refused = true ∧ t.sync.tallies = s.sync.tallies ∧ OnlyParts [.sync, .fns] s t) ∧
      ((s.tally d).poisoned = false → Runs (.tlyOpPoison c n) s fun t => tallyPoisoned s t d) ∧
      ((s.tally d).poisoned = true → exec (.tlyOpPoison c n) s = .next (dropHold s (c + 1) (0x20008 + 16 * n)))) ∧
    (∀ c < 8, ∀ w < 16, (regAt s (c + 1) (0x28000 + 16 * w)).isSome = true → writesWait s = false → n < 2 ^ 10 → v < 2 ^ 32 → ∀ eq : Bool,
      let d := (s.claim c).tallyBase + n; let h := tget (tget s.sync.claims c).waits w
      Runs (.tlyHostWaitArm c w n eq v) s fun t => let k := tget (tget t.sync.claims c).waits w
        t.sync.tallies = s.sync.tallies ∧ k.tally = n ∧ k.eq = eq ∧ k.threshold = v ∧
        ((s.claim c).tallyCount ≤ n → (tget t.sync.claims c).refused = true ∧ k.arm = h.arm ∧ k.met = h.met ∧ k.failed = h.failed ∧ k.latTally = h.latTally) ∧
        (n < (s.claim c).tallyCount → k.latTally = d ∧ k.latEq = eq ∧ k.latThreshold = v ∧
          ((s.tally d).poisoned = true → k.arm = false ∧ k.met = true ∧ k.failed = true) ∧
          ((s.tally d).poisoned = false → (if eq then (s.tally d).value.toNat = v else v ≤ (s.tally d).value.toNat) → k.arm = false ∧ k.met = true ∧ k.failed = h.failed) ∧
          ((s.tally d).poisoned = false → ¬ (if eq then (s.tally d).value.toNat = v else v ≤ (s.tally d).value.toNat) → k.arm = true ∧ k.met = h.met ∧ k.failed = h.failed))) ∧
    (n < 64 → (regAt s 0 (tlyOff (0x8 + 16 * n))).isSome = true → writesWait s = false → let w := BitVec.ofNat 32 (v % 2 ^ 32)
      ((s.tally n).poisoned = false → isRelease s n = false →
        Runs (.tlyDevOpAdd n v) s (fun t => tallySet s t n ((s.tally n).value + w)) ∧ Runs (.tlyDevOpSet n v) s (fun t => tallySet s t n w)) ∧
      ((s.tally n).poisoned = true → ∀ i ∈ [Instr.tlyDevOpAdd n v, .tlyDevOpSet n v, .tlyDevOpPoison n],
        exec i s = .next (dropHold s 0 (tlyOff (0x8 + 16 * n)))) ∧
      (isRelease s n = false → Runs (.tlyDevOpArm n v) s fun t => t.tally n = { value := w } ∧ (trickOfTally s n = none → ∀ m, m ≠ n → t.tally m = s.tally m)) ∧
      ((s.tally n).poisoned = false → Runs (.tlyDevOpPoison n) s fun t => tallyPoisoned s t n))

/-- Trick messages (R222, R224, R225). -/
def Obligations.TrickMessages : Prop :=
  ∀ (s : State) (round index g : Nat) (o : Seat) (tag : Nat), diesUp s = true →
    (trickNamed s round index tag = none → ∀ i ∈ [Instr.trickArriveReceived round index g o tag, .trickReleaseReceived round index g tag,
      .trickPoisonReceived round index o tag], exec i s = .next (discarded s)) ∧
    ∀ k t, trickNamed s round index tag = some (k, t) →
      ((t.lead = false ∨ g ≠ t.gen % 2 ^ 32 ∨ o ∈ t.arrivals ∨ o ∉ t.seats) → exec (.trickArriveReceived round index g o tag) s = .next (discarded s)) ∧
      (g ≠ t.gen % 2 ^ 32 → exec (.trickReleaseReceived round index g tag) s = .next (discarded s)) ∧
      (t.poisoned = true → g = t.gen % 2 ^ 32 → exec (.trickReleaseReceived round index g tag) s = .next s ∧
        (t.lead = true → o ∉ t.arrivals → o ∈ t.seats → exec (.trickArriveReceived round index g o tag) s = .next s)) ∧
      (t.poisoned = false → g = t.gen % 2 ^ 32 → t.releaseTally < 1024 → t.arriveTally ≠ t.releaseTally →
        (t.lead = true → o ∉ t.arrivals → o ∈ t.seats → t.arrivals.length + 1 < (distinctSeats t.seats).length →
          (t.arrived = true ∨ notReached s t t.gen) →
          exec (.trickArriveReceived round index g o tag) s = .next (s.setTrick k (some { t with arrivals := t.arrivals ++ [o] }))) ∧
        (t.lead = true → o ∉ t.arrivals → o ∈ t.seats → (distinctSeats t.seats).length ≤ t.arrivals.length + 1 → notReached s t (t.gen + 1) →
          Runs (.trickArriveReceived round index g o tag) s fun u =>
            u.link = (((distinctSeats t.seats).filter (· != ownSeat s)).foldl (fun x seat => sendTrick x seat (trickMessage t 2 0 (ownSeat x))) s).link ∧
            u.tally t.releaseTally = { s.tally t.releaseTally with value := BitVec.ofNat 32 t.gen } ∧
            tget u.sync.tricks k = some { t with gen := t.gen + 1, arrived := false, arrivals := [] }) ∧
        (notReached s t (t.gen + 1) → Runs (.trickReleaseReceived round index g tag) s fun u =>
          u.tally t.releaseTally = { s.tally t.releaseTally with value := BitVec.ofNat 32 t.gen } ∧
          tget u.sync.tricks k = some { t with gen := t.gen + 1, arrived := false, arrivals := [] } ∧
          (∀ m, m ≠ t.releaseTally → u.tally m = s.tally m) ∧ u.link = s.link)) ∧
      Runs (.trickPoisonReceived round index o tag) s (fun u => ∀ m < 1024, m = t.arriveTally ∨ m = t.releaseTally →
        u.tally m = if (s.tally m).poisoned then s.tally m else { s.tally m with poisoned := true, cause := 0x0520, origin := o })

/-- Writes of a shoe's registers (R102, R104, R107, R108), the ledger's lookup (R127) and moderation (R106). -/
def Obligations.ShoeRegisters : Prop :=
  ∀ (s : State) (n v : Nat),
    (shoeReg s n 0x18 → Runs (.shoeDoorbell n v) s fun t => ShoeFlow
      (if bits v 0 12 < 2 ^ (s.shoe n).sizeLog2 then { s.shoe n with produce := bits v 0 12 } else { s.shoe n with configError := true }) (t.shoe n)) ∧
    (shoeWrite s n 0x20 → Runs (.shoeFetchWrite n v) s fun t => OnlyParts [.dl] s t ∧ t.dl.items = s.dl.items ∧ t.shoe n =
      if 2 ^ (s.shoe n).sizeLog2 ≤ bits v 0 12 then { s.shoe n with configError := true }
      else if (s.shoe n).enable then s.shoe n else { s.shoe n with fetch := bits v 0 12 }) ∧
    (shoeWrite s n 0x58 →
      (2 ^ (s.shoe n).sheetSizeLog2 ≤ bits v 0 16 → exec (.sheetConsumedWrite n v) s = .next (s.modShoe n fun h => { h with configError := true })) ∧
      (bits v 0 16 < 2 ^ (s.shoe n).sheetSizeLog2 → Runs (.sheetConsumedWrite n v) s fun t => ShoeFlow { s.shoe n with consumed := bits v 0 16 } (t.shoe n) ∧
        OnlyParts [.dl, .out, .cl, .fns] s t)) ∧
    (shoeWrite s n 0x50 → Runs (.sheetEnable n v) s fun t => OnlyParts [.dl] s t ∧ t.dl.items = s.dl.items ∧
      let size := if (s.shoe n).enable then (s.shoe n).sheetSizeLog2 else bits v 0 5
      t.shoe n = if (s.shoe n).sheetEnable then { s.shoe n with sheetSizeLog2 := size }
        else { s.shoe n with sheetSizeLog2 := size, sheetEnable := true, sheetProduce := 0, sheetPhase := true }) ∧
    (shoeWrite s n 0x08 → ∀ feeds,
      ((s.shoe n).enable = true → exec (.shoeEnable n v feeds) s = .next s ∧
        Runs (.shoeDisable n v) s fun t => t.shoe n = { s.shoe n with enable := false, resumeWait := false } ∧ OnlyParts [.dl] s t) ∧
      ((s.shoe n).enable = false →
        Runs (.shoeDisable n v) s (fun t => t.shoe n = { s.shoe n with sizeLog2 := bits v 0 4 } ∧ OnlyParts [.dl] s t) ∧
        let sized := s.modShoe n fun h => { h with sizeLog2 := bits v 0 4 }
        (enableOk sized n = false → exec (.shoeEnable n v feeds) s = .next (sized.modShoe n fun h => { h with configError := true })) ∧
        (enableOk sized n = true → ∃ u, OnlyParts [.dl, .out, .cl, .fns] s u ∧
          ShoeFlow { s.shoe n with sizeLog2 := bits v 0 4, enable := true, resumeWait := s.redealing || (s.shoe n).resumeWait } (u.shoe n) ∧
          exec (.shoeEnable n v feeds) s = .next (if n < 8 then
              qpsRun (u.modNet fun x => { x with qps := x.qps.map fun q => if q.claim = n then { q with heldForShoe := false } else q }) n feeds
            else u)))) ∧
    ((regAt s 0 (ldgOff 0x18)).isSome = true → writesWait s = false → Runs (.ldgLookup n) s fun t => OnlyParts [.dl] s t ∧ t.dl = { s.dl with lookup := t.dl.lookup } ∧
      t.dl.lookup.done = true ∧ t.dl.lookup.shoe = n % 16 ∧ (t.dl.lookup.found = true ↔ (findItem s (n % 16) s.dl.lookup.seq).isSome = true) ∧
      ∀ i, findItem s (n % 16) s.dl.lookup.seq = some i → t.dl.lookup.state = i.st.code ∧
        (i.st = .resolved → t.dl.lookup.cause = i.out.cause ∧ t.dl.lookup.failOffset = i.out.failOffset) ∧ (i.st ≠ .resolved → t.dl.lookup.cause = 0)) ∧
    (diesUp s = true → n < 9 → ((s.shoe n).modItems = 0 ∨ (s.shoe n).modDelay = 0 → exec (.moderationTimeout n) s = .next s) ∧
      (0 < (s.shoe n).modItems → (s.shoe n).modDelay ≠ 0 → Runs (.moderationTimeout n) s fun t => t.shoe n = { s.shoe n with modItems := 0 } ∧
        t.fns = (raiseSource s n 0).fns ∧ OnlyParts [.dl, .out, .fns] s t))

/-- The fetch of an entry (R88). -/
def Obligations.EntryFetch : Prop :=
  ∀ (s : State) (n : Nat), diesUp s = true → n < 9 →
    (mayFetch s n = true → Runs (.shoeFetchEntry n) s fun t => let h := s.shoe n
      t.shoe n = { h with nextSeq := h.nextSeq + 1 } ∧ t.dl.items = s.dl.items ++ [{ shoe := n, seq := h.nextSeq }] ∧
      (∃ ys, t.out = s.out ++ (if winOk s (fnOf n) (64 * h.base + 64 * h.fetch) 64 then [.hostRead (fnOf n) (64 * h.base + 64 * h.fetch) 64] else []) ++ ys) ∧ OnlyParts [.dl, .out, .cl, .fns] s t) ∧
    (mayFetch s n = true → (s.shoe n).fetch ≠ (s.shoe n).produce ∧ (n < 8 → (itemsOf s n).length < (s.claim n).ledgerQuota) ∧
      deckRoom s n ∧ (s.shoe n).enable = true ∧ s.boot.dev ≠ .redealing) ∧
    (mayFetch s n = false → Runs (.shoeFetchEntry n) s fun t => t.dl = s.dl ∧ OnlyParts [.out, .cl, .fns] s t)

/-- From an entry's reads to an item's commit (R89, R96, R97, R124, R125, R444). -/
def Obligations.EntryReadStartCommit : Prop :=
  ∀ (s : State) (n : Nat), n < 9 →
    (∀ i (entry deck : HostResp), fetching s n i → let h := s.shoe n; let after := fun f (outs : List Output) => Runs (.deckReadComplete n entry deck) s fun t => entryPassed s t n i.seq f ∧ t.out = s.out ++ outs
      let seen := winOk s (fnOf n) (64 * h.base + 64 * h.fetch) 64
      (seen = false ∨ entry = .err → after (checkFailed 0x0105) []) ∧
      ∀ bs, seen = true → entry = .ok bs → let e := bytesAt bs 0 64; let isDeck := decide (entryType e = 1); let reads := [Output.hostRead (fnOf n) (entryAddr e) (entryLen e)]
        (entryOk e = false → after (fun i => checkFailed 0x0101 (entryRead e i)) []) ∧
        (entryOk e = true → isDeck = true → winOk s (fnOf n) (entryAddr e) (entryLen e) = false → after (fun i => checkFailed 0x0104 (entryRead e i)) []) ∧
        (entryOk e = true → isDeck = true → winOk s (fnOf n) (entryAddr e) (entryLen e) = true → canIssue s (fnOf n) = false →
          exec (.deckReadComplete n entry deck) s = .next s) ∧
        (entryOk e = true → isDeck = true → hostOk s (fnOf n) (entryAddr e) (entryLen e) = true → deck = .err → after (fun i => checkFailed 0x0105 (entryRead e i)) reads) ∧
        ∀ code, entryOk e = true → (isDeck = true → hostOk s (fnOf n) (entryAddr e) (entryLen e) = true ∧ ∃ d, deck = .ok d ∧ code = bytesAt d 0 (entryLen e)) →
          (isDeck = false → code = entryCmd e) → let check := checkLevel (placeOf n isDeck (fLaneMode (entryFlags e))) (countsOf s n).1 (countsOf s n).2 code
          (∀ cause g, check = some (cause, g) → let o : Outcome := { cause := cause, failed := true, failOffset := g, tag := cmdTag (cmdAt code g) }
            after (fun i => if isDeck && decide (n < 8) then { entryRead e i with st := .queued, held := some o } else { entryRead e i with st := .resolved, out := o })
              (if isDeck then reads else [])) ∧
          (check = none → after (fun i => { entryRead e i with st := .queued, levels := [{ id := 0, bytes := if isDeck then code else code.take (16 * cmdSize code) }] })
            (if isDeck then reads else []))) ∧
    (∀ i, diesUp s = true → nextItem s n = some i → mayRedeal s = true → s.power.level = 0 → shoeHalted s n = false → turnNow s n = true →
      let s1 := if n < 8 then s.modDl fun d => { d with lastServed := tset d.lastServed (effClass s n) n } else s
      (i.held = none → Runs (.itemStart n) s fun t => findItem t n i.seq = (findItem s n i.seq).map (fun j => { j with st := .running }) ∧
        othersStay s t n i.seq ∧ t.dl.lastServed = s1.dl.lastServed ∧ OnlyParts [.dl] s t) ∧
      (∀ o, i.held = some o → exec (.itemStart n) s = .next (deckFault n i.seq o s1))) ∧
    ∀ q i lv, diesUp s = true → findItem s n q = some i → i.st = .running → i.levels = [lv] → lv.bytes.length / 16 ≤ lv.pc → lv.active = [] → lv.loops = [] →
      Runs (.itemCommit n q) s fun t => findItem t n q = some { i with st := .committed, levels := [], out := { cause := i.note, detail := i.noteDetail } } ∧
        othersStay s t n q ∧ OnlyParts [.dl] s t

/-- Outcomes (R102, R103, R104). -/
def Obligations.OutcomesReported : Prop :=
  ∀ (s : State) (n : Nat), diesUp s = true → n < 9 → let h := s.shoe n
    let due := ((itemsOf s n).takeWhile Item.fixed).any recordDue
    let waits := Runs (.outcomeWrite n none) s fun t => t.shoe n = { h with sheetHold := due } ∧ t.dl.items = settledItems s n ∧ OnlyParts [.dl] s t
    (h.sheetActive = false ∨ canIssue s (fnOf n) = false → waits) ∧
    (h.sheetActive = true → canIssue s (fnOf n) = true →
      ((∀ i rest, itemsOf s n = i :: rest → i.fixed = false) →
        (h.scoreDue = false → waits) ∧
        (h.scoreDue = true → Runs (.outcomeWrite n none) s fun t => let v := scoreOf s n
          (t.shoe n).lastScore = v ∧ (t.shoe n).scoreDue = false ∧ t.dl.items = settledItems s n ∧ OnlyParts [.dl, .out, .cl, .fns] s t ∧
            (winOk s (fnOf n) (8 * h.scorecard) 8 = true → Output.hostWrite (fnOf n) (8 * h.scorecard) (leBytes 8 v) ∈ t.out))) ∧
      ∀ i rest, itemsOf s n = i :: rest → i.fixed = true → h.scoreDue = false → let left := i.seq < h.backlog ∧ (h.enable = false ∨ h.resumeWait = true)
        (left ∨ (recordDue i = true ∧ (h.sheetProduce + 1) % 2 ^ h.sheetSizeLog2 = h.consumed) → waits) ∧
        (¬ left → (recordDue i = true → (h.sheetProduce + 1) % 2 ^ h.sheetSizeLog2 ≠ h.consumed ∧
            winOk s (fnOf n) (32 * h.sheetBase + 32 * h.sheetProduce) 32 = true) → Runs (.outcomeWrite n none) s fun t =>
          findItem t n i.seq = none ∧ (∀ j ∈ t.dl.items, j ∈ settledItems s n) ∧ OnlyParts [.dl, .out, .cl, .fns] s t ∧
          ∃ first ys, t.out = s.out ++ first ++ ys ∧
            first = (if recordDue i then [Output.hostWrite (fnOf n) (32 * h.sheetBase + 32 * h.sheetProduce) (sheetRecord i h.sheetPhase)] else []) ∧
            ((∀ j ∈ rest, j.seq = i.seq) → (t.shoe n).lastScore = i.seq ∧
              (winOk s (fnOf n) (8 * h.scorecard) 8 = true → Output.hostWrite (fnOf n) (8 * h.scorecard) (leBytes 8 i.seq) ∈ ys))))

/-- CLAIM_CREATE and CLAIM_MODIFY (R66 to R69). -/
def Obligations.ClaimCommands : Prop :=
  ∀ (s : State) (seq l : Nat) (create : Bool) (lv : Level) (b : List Byte),
    (∀ r, cmdStarts s 8 seq l (if create then 0x40 else 0x41) lv b → hostOk s 0 (field b 8 8) 64 = false ∨ r = .err →
      Runs (claimInstr create seq l r) s fun t => itemFails t 8 seq 0x0411 ∧ t.cl = s.cl ∧ OnlyParts [.dl, .out, .pcie] s t) ∧
    ∀ d u, let blk := bytesAt d 0 64; blockRead s seq l create lv b blk u → let n := field blk 0 1; let v := newVals u create blk
      let i := claimInstr create seq l (.ok d)
      (∀ cause, claimFault u create blk = some cause → Runs i s fun t => itemFails t 8 seq cause ∧ t.cl = s.cl ∧ OnlyParts [.dl, .out] s t) ∧
      (claimFault u create blk = none → create = true →
        (grantDescs n (List.range (descPages v.descs)) u [] = none → Runs i s fun t => itemFails t 8 seq 0x0402 ∧ ∀ m, t.claim m = s.claim m) ∧
        (∀ u1 fs, grantDescs n (List.range (descPages v.descs)) u [] = some (u1, fs) → Runs i s fun t =>
          t.claim n = { (({} : Claim).withVals v) with
            st := .active, activeProfile := v.active, profiles := profVec v.profiles, resetLast := (s.claim n).resetLast
            resetFailed := (s.claim n).resetFailed, resetCompleted := (s.claim n).resetCompleted, descFrames := fs
            effResv := profResv (BitVec.ofNat 32 (v.profiles.getD v.active 0)) } ∧
          (∀ m, m ≠ n → t.claim m = s.claim m) ∧ (∀ k, v.tallyBase ≤ k → k < v.tallyBase + v.tallyCount → t.tally k = {}) ∧
          tget t.tiers.keys n = some s.freeCtr ∧ s.freeCtr < t.freeCtr ∧ levelOf t 8 seq l = some (cmdDone lv b))) ∧
      (claimFault u create blk = none → create = false → Runs i s fun t => let k := t.claim n; let c := s.claim n
        k.vectors = v.vectors ∧ k.ledgerQuota = v.ledger ∧ k.t1Pages = v.t1 ∧ k.t2Pages = v.t2 ∧ k.queuePairs = v.qps ∧
        k.tallyBase = v.tallyBase ∧ k.tallyCount = v.tallyCount ∧ k.descriptors = v.descs ∧ k.st = .active ∧
        ((field blk 1 1).testBit 5 = true → k.profiles = profVec v.profiles ∧ k.activeProfile = v.active) ∧
        ((field blk 1 1).testBit 5 = false → k.profiles = c.profiles ∧ k.activeProfile = c.activeProfile ∧ k.effResv = c.effResv) ∧
        (∀ m, m ≠ n → t.claim m = s.claim m) ∧ levelOf t 8 seq l = some (cmdDone lv b))

/-- CLAIM_RELEASE and CLAIM_RELEASE_END (R70). -/
def Obligations.ClaimReleases : Prop :=
  ∀ s : State,
    (∀ (seq l : Nat) (lv : Level) (b : List Byte), cmdStarts s 8 seq l 0x42 lv b → let n := field b 6 1
      ((s.claim n).st ≠ .active → Runs (.claimRelease seq l) s fun t => itemFails t 8 seq 0x0122 ∧ OnlyParts [.dl] s t) ∧
      ((s.claim n).st = .active → Runs (.claimRelease seq l) s fun t =>
        (t.claim n).st = .releasing ∧ (t.claim n).releaseItem = some seq ∧ (∀ m, m ≠ n → t.claim m = s.claim m) ∧
        levelOf t 8 seq l = some (cmdHeld s.now lv b .steward) ∧
        ∀ q i j, findItem s n q = some i → i.st ≠ .resolved → findItem t n q = some j → resolvedAs 0x0705 i j)) ∧
    ∀ n, diesUp s = true →
      ((s.claim n).st = .releasing → Runs (.claimReleaseEnd n) s fun t => claimFree (t.claim n) ∧ windowClear t n ∧ itemsOf t n = [] ∧
        (∀ q ∈ t.net.qps, q.claim ≠ n) ∧ tget t.tiers.keys n = none ∧
        ∀ i < 4, (tget t.cl.rtInForce i).valid = true → (tget t.cl.rtInForce i).claim ≠ n) ∧
      ((s.claim n).st ≠ .releasing → exec (.claimReleaseEnd n) s = .next s)

/-- FUNCTION_LEVEL_RESET, FLR_COMPLETE, VF_ENABLE_CLEAR and VF_ENABLE_SET (R31, R83, R84, R282): before boot step 14 the endpoint
carries out none of the host's (R43). -/
def Obligations.FunctionResets : Prop :=
  ∀ s : State, diesUp s = true →
    (∀ n < 8,
      (hostUp s = true → (s.claim n).st = .active → Runs (.functionLevelReset n) s fun t =>
        (t.claim n).st = .resetting ∧ itemsOf t n = [] ∧ ∀ m, m ≠ n → t.claim m = s.claim m) ∧
      (hostUp s = true → (s.claim n).st = .free ∨ (s.claim n).st = .releasing → Runs (.functionLevelReset n) s fun t =>
        windowClear t n ∧ (∀ m, t.claim m = s.claim m) ∧ t.dl.items = s.dl.items ∧ t.net = s.net ∧ t.rounds = s.rounds ∧ t.sync.tallies = s.sync.tallies) ∧
      ((s.claim n).st = .resetting → Runs (.flrComplete n) s fun t =>
        t.claim n = { s.claim n with st := .active } ∧ windowClear t n ∧ (tget t.fns (n + 1)).resetting = false ∧ ∀ m, m ≠ n → t.claim m = s.claim m) ∧
      ((s.claim n).st ≠ .resetting → exec (.flrComplete n) s = .next (s.modFn (n + 1) fun f => { f with resetting := false }))) ∧
    (hostUp s = true → ∀ enable num, Runs (.vfEnableClear enable num) s fun t => let left := min num s.image.claimCount
      t.pcie = { s.pcie with vfEnable := enable, numVfs := left } ∧
      ∀ n < 8, let gone := (s.pcie.vfEnable && decide (n < s.pcie.numVfs)) && !(enable && decide (n < left))
        (gone = true → (s.claim n).st = .active → (t.claim n).st = .resetting) ∧ (gone = false → t.claim n = s.claim n)) ∧
    (hostUp s = true → ∀ num, Runs (.vfEnableSet num) s fun t =>
      t = { s with pcie := { s.pcie with vfEnable := true, numVfs := min num s.image.claimCount } }) ∧
    (hostUp s = false → ∀ n num enable, exec (.functionLevelReset n) s = .next s ∧ exec (.vfEnableClear enable num) s = .next s ∧
      exec (.vfEnableSet num) s = .next s)

/-- Arbitration (R71, R72, R76, R78; the clock of boosted work is the model's choice, log entry 128), event rings (R81) and real-time bindings (R85, R121). -/
def Obligations.ArbitrationRingsBindings : Prop :=
  ∀ s : State,
    (diesUp s = true → ∀ core x, engineIs core x →
      let e := engineOf core x
      Runs (.arbitrationFrameStart core x) s (fun t => OnlyParts [.dl] s t ∧ (arbOf t e).grant = (arbOf s e).grant ∧ ∀ n < 8,
        tget (arbOf t e).credit n = ((s.claim n).effResv * 2000 : Int) + min 0 (tget (arbOf s e).credit n) ∧
        tget (arbOf t e).beyond n = 0 ∧ tget (arbOf t e).boost n = effBoost s n * 2000) ∧
      let inGroup := core = true ∧ ((tget s.dl.cores x).current.bind (findMacro s)).isSome = true
      (∀ ns, inGroup → exec (.arbitrationGrant core x ns) s = .next s) ∧
      ∀ ns, ¬ inGroup → ∃ u, OnlyParts [.dl] s u ∧ charged (arbOf s e) (arbOf u e) ns ∧
        (requesters u e = [] → exec (.arbitrationGrant core x ns) s = .next (if core then followRail u (x / 24) else u)) ∧
        (requesters u e ≠ [] → ∃ w ∈ requesters u e, (∀ m ∈ requesters u e, arbLevel u e w.claim ≤ arbLevel u e m.claim) ∧
          Runs (.arbitrationGrant core x ns) s fun t => OnlyParts (if core then [.dl, .power, .out] else [.dl]) s t ∧
            arbOf t e = { arbOf u e with grant := some (w.claim, decide (arbLevel u e w.claim ≤ 3)) } ∧
            (core = true → (tget t.dl.cores x).current = some w.id ∧
              (tget t.dl.cores x).clockMhz = (if (tget u.dl.cores x).gated then 0 else grantClock u x w.claim)) ∧
            (core = false → (tget t.dl.lanes x).queue = (tget u.dl.lanes x).queue.filter (· != w.id) ∧
              ∀ m, findMacro t w.id = some m → m.phase = .dispatched ∧ m.age = s.now))) ∧
    (∀ n v, ringReg s n 0x08 → Runs (.evtRingEnable n v) s fun t => OnlyParts [.cl] s t ∧ t.ring n =
      if (s.ring n).active then { s.ring n with sizeLog2 := bits v 0 4, enable := true }
      else { s.ring n with sizeLog2 := bits v 0 4, enable := true, produce := 0, validPhase := true }) ∧
    (∀ n v, ringReg s n 0x10 → Runs (.evtRingConsumedWrite n v) s fun t => OnlyParts [.cl] s t ∧ t.ring n =
      if bits v 0 12 < 2 ^ (s.ring n).sizeLog2 then { s.ring n with consumed := bits v 0 12 } else s.ring n) ∧
    (∀ v, (regAt s 0 (clmOff 0x1000)).isSome = true → writesWait s = false → Runs (.clmRtBindWrite v) s fun t => OnlyParts [.cl] s t ∧ ∀ i < 4,
      let o := tget t.cl.rtInForce i
      let w : RtBind := { lane := bits v (8 * i) 4, claim := bits v (8 * i + 4) 3, valid := bit v (8 * i + 7) }
      tget t.cl.rtWritten i = w ∧ (o = tget s.cl.rtInForce i ∨ o = w ∨ o = { w with valid := false })) ∧
    (diesUp s = true → Runs .rtBindApply s fun t => OnlyParts [.cl] s t ∧ t.cl.rtWritten = s.cl.rtWritten ∧ ∀ i < 4,
      let o := tget t.cl.rtInForce i; let w := tget s.cl.rtWritten i
      o = tget s.cl.rtInForce i ∨ o = w ∨ o = { w with valid := false })

/-- Redeals (R101, R121, R354 to R360) and their failure (R363). -/
def Obligations.Redeals : Prop :=
  ∀ s : State, diesUp s = true →
    (∀ shoe seq us others finish, let ys := (((shoe, seq) :: others).map fun x => (x.1, x.2, 0x0301)).filter (timerRuns s)
      (ys = [] → exec (.shoeTimeout shoe seq us others finish) s = .next s) ∧
      (ys ≠ [] → mayRedeal s = true → ∃ x ∈ ys, (∀ y ∈ ys, x.1 ≤ y.1) ∧ Runs (.shoeTimeout shoe seq us others finish) s fun t =>
        redealBegun s t 0x0301 x.1 finish ∧ t.redeal.faultSeq = x.2.1)) ∧
    (∀ lane mid finish n m, rtClaimOf s lane = some n → findMacro s mid = some m → m.granted = true → (∃ c ∈ m.cores, c ∈ laneCores lane) →
      m.stopping = false → shoeHalted s n = false → mayRedeal s = true → Runs (.rtLaneTimeout lane mid finish) s fun t => redealBegun s t 0x0302 n finish) ∧
    (∀ finish, (regAt s 0 (ldgOff 0x108)).isSome = true → writesWait s = false →
      (mayRedeal s = true → Runs (.redealRequest finish) s fun t => redealBegun s t 0x0703 0xFF finish) ∧
      (mayRedeal s = false → exec (.redealRequest finish) s = .next s)) ∧
    (s.redeal.phase = .walking →
      (s.redeal.resumeSeen = false → Runs .redealWalkEnd s fun t => t.redeal.phase = .waiting ∧ t.boot = s.boot ∧
        (∀ n < 8, tget t.redeal.confirmed n = true ∧ tget t.redeal.walkErrors n = walkCount s n) ∧ t.redeal.commonErrors = walkCount s 8) ∧
      (s.redeal.resumeSeen = true → Runs .redealWalkEnd s fun t => redealOver s t) ∧
      ((regAt s 0 (ldgOff 0x108)).isSome = true → writesWait s = false → exec .redealResume s = .next (s.modRedeal fun r => { r with resumeSeen := true }))) ∧
    (s.redeal.phase = .waiting →
      ((regAt s 0 (ldgOff 0x108)).isSome = true → writesWait s = false → Runs .redealResume s fun t => redealOver s t) ∧
      Runs .redealStallAlert s fun t => t.mgmt.alerts.testBit 4 = true ∧ OnlyParts [.mgmt, .out] s t) ∧
    (s.redeal.phase = .none ∨ s.redeal.phase = .resolving → (writesWait s = false → exec .redealResume s = .next s) ∧
      exec .redealWalkEnd s = .next s) ∧
    (s.redeal.phase = .resolving → s.boot.dev ≠ .failed → Runs .redealBoundExpiry s fun t => failedNow s t 0x0707) ∧
    (s.redeal.phase ≠ .resolving → exec .redealBoundExpiry s = .next s)

/-- DEALER_UNIT_FAULT, LAMPHOUSE_UNIT_DISABLE and FENCE_CLEAR (R368 to R370). -/
def Obligations.UnitFences : Prop :=
  ∀ (s : State) (cls x : Nat), cls < 4 → x < classSize cls → let u := unitOf s cls x
    (diesUp s = true →
      (u.fenced = false → Runs (.dealerUnitFault cls x) s fun t => unitOf t cls x = { u with faulted := true, fenced := true, agreed := 0 } ∧
        t.fences.fenceCount = satInc 32 s.fences.fenceCount ∧ t.mgmt.alerts.testBit 8 = true) ∧
      (u.fenced = true → exec (.dealerUnitFault cls x) s = .next (s.modUnit cls x fun u => { u with faulted := true })) ∧
      ∀ power, let f : FenceUnit → FenceUnit := fun u => if power then { u with powered := false } else { u with enabled := false }
        (u.fenced = false → Runs (.lamphouseUnitDisable cls x power) s fun t => unitOf t cls x = { f u with fenced := true, agreed := 0 } ∧
          t.fences.fenceCount = satInc 32 s.fences.fenceCount ∧ t.mgmt.alerts.testBit 8 = true) ∧
        (u.fenced = true → exec (.lamphouseUnitDisable cls x power) s = .next (s.modUnit cls x f))) ∧
    ∀ seq l lv b, cmdStarts s 8 seq l 0x46 lv b → field b 6 1 = cls → field b 8 2 = x →
      (u.fenced = false → Runs (.fenceClear seq l) s fun t => levelOf t 8 seq l = some (cmdDone lv b) ∧ OnlyParts [.dl] s t) ∧
      (u.fenced = true → u.powered = false ∨ u.enabled = false → Runs (.fenceClear seq l) s fun t => itemFails t 8 seq 0x0702 ∧ OnlyParts [.dl] s t) ∧
      (u.fenced = true → u.powered = true → u.enabled = true → Runs (.fenceClear seq l) s fun t =>
        levelOf t 8 seq l = some (cmdDone lv b) ∧ unitOf t cls x = { u with faulted := false, fenced := false })

/-- CALL, CALL_COMPLETE, LANE_DECK and LANE_DECK_COMPLETE (R114 to R116, R119, R120). -/
def Obligations.NestedDecks : Prop :=
  ∀ (s : State) (shoe seq l : Nat) (lv : Level) (b : List Byte), shoe < 9 →
    (cmdFresh s shoe seq l 0x09 lv b → ∀ r : HostResp, let c := Instr.callCmd shoe seq l lv.pc r
      let n := field b 0x10 4
      let ok := hostOk s (fnOf shoe) (field b 8 8) n
      let mine := (s.shoe shoe).callOwner = none ∨ (s.shoe shoe).callOwner = some seq
      let fits := lv.depth < 4 ∧ storeUsed s shoe seq + n ≤ 1048576
      (¬ mine → Runs c s fun t => levelOf t shoe seq l = some (cmdHeld s.now lv b .callWait) ∧ OnlyParts [.dl] s t ∧ t.dl.shoes = s.dl.shoes) ∧
      (mine → ¬ fits → Runs c s fun t => nestedFault s t shoe seq 0x0108) ∧
      (mine → fits → (ok = false → Runs c s fun t => itemFails t shoe seq 0x0104) ∧
        (ok = true → r = .err → Runs c s fun t => itemFails t shoe seq 0x0105) ∧
        (∀ d, ok = true → r = .ok d → let bs := bytesAt d 0 n
          (∀ cause f, deckCheck s shoe seq false bs = some (cause, f) → Runs c s fun t => nestedFault s t shoe seq cause) ∧
          (deckCheck s shoe seq false bs = none → Runs c s fun t =>
            levelOpens s t shoe seq l lv b .callRun (fun id => { id := id, kind := .call l lv.pc, depth := lv.depth + 1, bytes := bs }) ∧
            t.shoe shoe = { s.shoe shoe with callOwner := some seq, callUsed := storeUsed s shoe seq + n })))) ∧
    (cmdFresh s shoe seq l 0x02 lv b → field b 6 1 < 16 → ∀ r : HostResp, let c := Instr.laneDeck shoe seq l lv.pc r
      let lane := field b 6 1
      let n := field b 0x10 4
      let ok := hostOk s (fnOf shoe) (field b 8 8) n
      let store := (tget s.dl.lanes lane).subdeck
      (laneFenced s lane = true → Runs c s fun t => itemFails t shoe seq 0x0702) ∧
      (laneFenced s lane = false → store.isSome = true → Runs c s fun t =>
        levelOf t shoe seq l = some (cmdHeld s.now lv b .laneWait) ∧ OnlyParts [.dl] s t ∧ t.dl.lanes = s.dl.lanes) ∧
      (laneFenced s lane = false → store = none → (ok = false → Runs c s fun t => itemFails t shoe seq 0x0104) ∧
        (ok = true → r = .err → Runs c s fun t => itemFails t shoe seq 0x0105) ∧
        (∀ d, ok = true → r = .ok d → let bs := bytesAt d 0 n
          (∀ cause f, deckCheck s shoe seq true bs = some (cause, f) → Runs c s fun t => nestedFault s t shoe seq cause) ∧
          (deckCheck s shoe seq true bs = none → Runs c s fun t =>
            levelOpens s t shoe seq l lv b .laneRun (fun id => { id := id, kind := .lane lane lv.pc, depth := 1, bytes := bs }) ∧
            ∃ id, (tget t.dl.lanes lane).subdeck = some (shoe, seq, id))))) ∧
    (diesUp s = true → ∀ i, findItem s shoe seq = some i → i.st = .running → i.level l = some lv → lv.ended = true →
      (∀ p g, lv.kind = .call p g → p ≠ l → Runs (.callComplete shoe seq l) s fun t => levelOf t shoe seq l = none ∧
        levelOf t shoe seq p = (levelOf s shoe seq p).map (cmdEnded · g) ∧ OnlyParts [.dl] s t ∧
        let open_ := ∃ v ∈ i.levels, v.id ≠ l ∧ v.isCall = true ∧ v.depth = 1
        ((s.shoe shoe).callOwner ≠ some seq → t.shoe shoe = s.shoe shoe) ∧
        ((s.shoe shoe).callOwner = some seq → open_ → t.shoe shoe = { s.shoe shoe with callUsed := (s.shoe shoe).callUsed - lv.bytes.length }) ∧
        ((s.shoe shoe).callOwner = some seq → ¬ open_ → t.shoe shoe = { s.shoe shoe with callOwner := none, callUsed := 0 })) ∧
      (∀ lane g, lane < 16 → lv.kind = .lane lane g → let p := parentOf i g (.laneRun l)
        p ≠ l → Runs (.laneDeckComplete shoe seq l) s fun t => levelOf t shoe seq l = none ∧
          levelOf t shoe seq p = (levelOf s shoe seq p).map (cmdEnded · g) ∧ (tget t.dl.lanes lane).subdeck = none ∧ OnlyParts [.dl] s t))

/-- Pages of a claim, their moves, the lookup and COMMON's shares (R195 to R197, R205, R209, R212). -/
def Obligations.ClaimPages : Prop :=
  ∀ (s : State) (n seq l : Nat) (lv : Level) (b : List Byte),
    (pageStarts s n seq l 0 lv b → Runs (.pageMap n seq l) s fun t => othersStay s t n seq ∧
      ((∃ p ∈ pageSpan b, (pteOf s n p).isSome = true) → itemFails t n seq 0x0406 ∧ OnlyParts [.dl] s t) ∧
      ((∀ p ∈ pageSpan b, pteOf s n p = none) → let r := mapRange n (field b 7 1 == 2) s (pageSpan b)
        (r = .quota → itemFails t n seq 0x0401) ∧ (∀ t2, r = .frames t2 → itemFails t n seq 0x0402) ∧
        ∀ u, r = .ok u → levelOf t n seq l = some (cmdDone lv b) ∧ (∀ p ∈ pageSpan b, (pteOf t n p).isSome = true) ∧
          ∀ p, p ∉ pageSpan b → pteOf t n p = pteOf s n p)) ∧
    (pageStarts s n seq l 1 lv b → Runs (.pageUnmap n seq l) s fun t => othersStay s t n seq ∧
      ((∃ p ∈ pageSpan b, pteOf s n p = none) → itemFails t n seq 0x0406 ∧ OnlyParts [.dl] s t) ∧
      ((∀ p ∈ pageSpan b, (pteOf s n p).isSome = true) →
        ((∃ p ∈ pageSpan b, ∃ e, pteOf s n p = some e ∧ e.pins ≠ 0) → itemFails t n seq 0x0408 ∧ OnlyParts [.dl] s t) ∧
        ((∀ p ∈ pageSpan b, ∀ e, pteOf s n p = some e → e.pins = 0) →
          (anyMoving s n (pageSpan b) = true → levelOf t n seq l = some (cmdHeld s.now lv b (.pages 0 0)) ∧ OnlyParts [.dl] s t) ∧
          (anyMoving s n (pageSpan b) = false → levelOf t n seq l = some (cmdDone lv b) ∧ (∀ p ∈ pageSpan b, pteOf t n p = none) ∧
            ∀ p, p ∉ pageSpan b → pteOf t n p = pteOf s n p)))) ∧
    (pageStarts s n seq l 2 lv b → Runs (.pagePromote n seq l) s fun t => othersStay s t n seq ∧ tiersSame s t ∧ pageWaits s t n seq l lv b true) ∧
    (pageStarts s n seq l 3 lv b → Runs (.pageDemote n seq l) s fun t => othersStay s t n seq ∧ tiersSame s t ∧ pageWaits s t n seq l lv b false) ∧
    (diesUp s = true → ∀ table page, table < 9 →
      (moveOf s table page = none → exec (.pageMoveCommit table page) s = .next (settlePages s)) ∧
      ∀ m e, moveOf s table page = some m → pteOf s table page = some e →
        ∃ u e', exec (.pageMoveCommit table page) s = .next (settlePages u) ∧ pteOf u table page = some e' ∧ e'.tier2 = !m.promote ∧
          e'.frame = m.target ∧ (table ≠ 8 → m.promote = true ∨ m.charged = none → e'.moving = false)) ∧
    ((regAt s 0 (tierOff 0x400)).isSome = true → writesWait s = false → ∀ va table, table < 9 → Runs (.tierLookup va table) s fun t =>
      t.tiers = { s.tiers with
        lookupVa := va % 2 ^ 40, lookupTable := table, lookupDone := true
        lookupL1 := !needsL2 (s.ptab table) (va % 2 ^ 40 / 65536)
        lookupEntry := ((pteOf s table (va % 2 ^ 40 / 65536)).map pteWord).getD 0 } ∧ OnlyParts [.tiers, .fns] s t) ∧
    ∀ c v, c < 8 → (regAt s 0 (tierOff (0x100 + 8 * c))).isSome = true → writesWait s = false → Runs (.tierCommonShareWrite c v) s fun t =>
      let u := s.modTiers fun x => { x with shares := tset x.shares c (v % 65536) }
      let old := tget s.tiers.shares c
      OnlyParts [.tiers] s t ∧
        (((old < v % 65536 ∧ (s.claim c).t2Pages * 256 < t2Use u c) ∨ (v % 65536 < old ∧ poolCapacity u < poolUse s)) →
          t.tiers = { s.tiers with shareRefused := true }) ∧
        (¬ ((old < v % 65536 ∧ (s.claim c).t2Pages * 256 < t2Use u c) ∨ (v % 65536 < old ∧ poolCapacity u < poolUse s)) → t.tiers = u.tiers)

/-- PLDM commands that ask (R406, R407). -/
def Obligations.PldmAnswers : Prop :=
  ∀ s : State, mgmtUp s →
    justAnswers .getTid s 1 0x02 0 (leBytes 1 s.mgmt.tid) ∧
    (∀ v, v < 256 → (v = 0 ∨ v = 255 → justAnswers (.setTid v) s 1 0x01 2 []) ∧
      (v ≠ 0 → v ≠ 255 → mgmtBecomes (.setTid v) s (fun m => { m with tid := v }) 1 0x01 0 [])) ∧
    (∀ type, (type = 2 → justAnswers (.getPldmVersion type) s 1 0x03 0 [0x00#8, 0xF0#8, 0xF2#8, 0xF1#8]) ∧
      (2 < type ∨ type = 1 → justAnswers (.getPldmVersion type) s 1 0x03 0x83 []) ∧
      (type = 0 → Runs (.getPldmVersion type) s fun t => OnlyParts [.freeCtr, .out] s t ∧ ∃ d, d.length = 4 ∧ t.out = s.out ++ [.mgmt 1 0x03 0 d])) ∧
    justAnswers .getPldmTypes s 1 0x04 0 (leBytes 8 (2 ^ 0 + 2 ^ 2)) ∧
    (∀ type, (type = 0 → justAnswers (.getPldmCommands type) s 1 0x05 0 (leBytes 32 0x3E)) ∧
      (type = 2 → justAnswers (.getPldmCommands type) s 1 0x05 0
        (leBytes 32 (2 ^ 0x04 + 2 ^ 0x0B + 2 ^ 0x11 + 2 ^ 0x21 + 2 ^ 0x31 + 2 ^ 0x32 + 2 ^ 0x39 + 2 ^ 0x3A + 2 ^ 0x50 + 2 ^ 0x51))) ∧
      (type ≠ 0 → type ≠ 2 → justAnswers (.getPldmCommands type) s 1 0x05 0x83 [])) ∧
    justAnswers .getPdrRepositoryInfo s 1 0x50 0 (leBytes 4 51) ∧
    (∀ h, (51 < h → justAnswers (.getPdr h) s 1 0x51 0x82 []) ∧
      (1 ≤ h → h ≤ 30 → justAnswers (.getPdr h) s 1 0x51 0 (leBytes 4 h ++ leBytes 4 (h + 1) ++ leBytes 1 0 ++ leBytes 2 h ++ leBytes 2 0)) ∧
      (49 ≤ h → h ≤ 51 → justAnswers (.getPdr h) s 1 0x51 0
        (leBytes 4 h ++ leBytes 4 (if h = 51 then 0 else h + 1) ++ leBytes 1 3 ++ leBytes 2 (0x201 + (h - 49)) ++ leBytes 2 0)) ∧
      (h = 48 → justAnswers (.getPdr h) s 1 0x51 0 (leBytes 4 48 ++ leBytes 4 49 ++ leBytes 1 2 ++ leBytes 2 0x200 ++ leBytes 2 0x8011))) ∧
    (∀ id, (id = 0 ∨ 30 < id → justAnswers (.getSensorReading id) s 1 0x11 0x80 []) ∧
      (1 ≤ id → id ≤ 30 → ∀ v, sensorValue s id = some v → justAnswers (.getSensorReading id) s 1 0x11 0 ([0#8] ++ intBytes v)) ∧
      (1 ≤ id → id ≤ 30 → sensorValue s id = none → justAnswers (.getSensorReading id) s 1 0x11 0 ([2#8] ++ intBytes 0)) ∧
      (3 ≤ id → id ≤ 9 → sensorValue s id =
        if s.boot.released = true ∧ s.power.level ≠ 3 then some (tget s.power.temps (id - 3)) else none)) ∧
    (sensorValue s 0x01 = some ↑s.power.avgW ∧ sensorValue s 0x0A = some (tget s.power.temps 7) ∧ sensorValue s 0x0F = some ↑s.boot.fuses.rollback ∧
      sensorValue s 0x10 = some ↑s.boot.copyACause ∧ sensorValue s 0x11 = some ↑s.boot.copyBCause ∧ sensorValue s 0x13 = some ↑s.boot.releaseCause ∧
      sensorValue s 0x1B = some ↑s.mgmt.lost ∧ sensorValue s 0x1C = some ↑s.mgmt.alerts ∧ sensorValue s 0x1E = some ↑s.power.reason) ∧
    (justAnswers (.getStateSensorReadings 0x100) s 1 0x21 0 ([0#8] ++ leBytes 1 s.boot.dev.code) ∧
      justAnswers (.getStateSensorReadings 0x101) s 1 0x21 0 ([0#8] ++ leBytes 1 s.power.level) ∧
      justAnswers (.getStateSensorReadings 0x102) s 1 0x21 0 ([0#8] ++ leBytes 1 s.dbg.st.code) ∧
      justAnswers (.getStateSensorReadings 0x104) s 1 0x21 0 ([0#8] ++ leBytes 1 (b2n s.boot.imageStale)) ∧
      ∀ id, id < 0x100 ∨ (0x104 < id ∧ id < 0x110) ∨ 0x11B < id → justAnswers (.getStateSensorReadings id) s 1 0x21 0x80 []) ∧
    (justAnswers (.getNumericEffecterValue 0x201) s 1 0x32 0 (leBytes 4 s.power.limitW) ∧
      justAnswers (.getNumericEffecterValue 0x203) s 1 0x32 0 (leBytes 4 s.mgmt.mask) ∧
      (∀ id, id < 0x201 ∨ 0x203 < id → justAnswers (.getNumericEffecterValue id) s 1 0x32 0x80 []) ∧
      Runs (.getNumericEffecterValue 0x202) s fun t => OnlyParts [.freeCtr, .out] s t ∧ ∃ d, d.length = 4 ∧ t.out = s.out ++ [.mgmt 1 0x32 0 d]) ∧
    justAnswers (.getStateEffecterStates 0x200) s 1 0x3A 0 (leBytes 1 s.power.request) ∧
    ∀ id, id ≠ 0x200 → justAnswers (.getStateEffecterStates id) s 1 0x3A 0x80 []

/-- Management's events and alerts (R401, R409, R412). -/
def Obligations.ManagementEvents : Prop :=
  ∀ s : State,
    (s.boot.lamphouse = true → s.mgmt.running = true → ∀ eid,
      (s.mgmt.staticEid = 0 → 8 ≤ eid → eid ≤ 254 → mgmtBecomes (.setEndpointId eid) s (fun m => { m with eid := eid }) 0 1 0 (leBytes 1 eid)) ∧
      (s.mgmt.staticEid ≠ 0 ∨ eid < 8 ∨ 254 < eid → justAnswers (.setEndpointId eid) s 0 1 2 [])) ∧
    (mgmtUp s →
      (∀ mode receiver, receiver < 256 → (∀ m, (mode = 0 ∧ m = EventMode.off) ∨ (mode = 1 ∧ m = .async) ∨ (mode = 2 ∧ m = .polling) →
          Runs (.setEventReceiver mode receiver) s fun t => OnlyParts [.out, .mgmt] s t ∧ t.out = s.out ++ [.mgmt 1 0x04 0 []] ∧
            t.mgmt = { s.mgmt with mode := m, receiver := receiver, awaiting := false, tries := 0 }) ∧
        (2 < mode → justAnswers (.setEventReceiver mode receiver) s 1 0x04 2 [])) ∧
      (∀ e rest, s.mgmt.mode = .polling → s.mgmt.queue = e :: rest →
        mgmtBecomes .pollForPlatformEventMessage s (fun m => { m with queue := rest }) 1 0x0B 0 (eventBytes e)) ∧
      (s.mgmt.mode = .polling → s.mgmt.queue = [] → justAnswers .pollForPlatformEventMessage s 1 0x0B 0 []) ∧
      (s.mgmt.mode ≠ .polling → justAnswers .pollForPlatformEventMessage s 1 0x0B 4 []) ∧
      (∀ e rest, s.mgmt.mode = .async → s.mgmt.queue = e :: rest →
        (s.mgmt.awaiting = false → mgmtBecomes .platformEventMessage s (fun m => { m with awaiting := true, tries := 1 }) 1 0x0A 0 (eventBytes e)) ∧
        (s.mgmt.awaiting = true → exec .platformEventMessage s = .next s ∧
          mgmtBecomes .platformEventRetry s (fun m => { m with tries := m.tries + 1 }) 1 0x0A 0 (eventBytes e))) ∧
      (∀ v, v < 65536 → Runs (.alertMask v) s fun t => OnlyParts [.out, .mgmt] s t ∧ (∃ ys, t.out = s.out ++ [.mgmt 1 0x31 0 []] ++ ys) ∧
        let m := { s.mgmt with mask := v }
        t.mgmt = { m with critLow := pinWanted m true, warnLow := pinWanted m false }) ∧
      ∀ v, Runs (.alertAcknowledge v) s fun t => OnlyParts [.out, .mgmt] s t ∧
        ∀ k < 12, k ≠ 10 → t.mgmt.alerts.testBit k = (s.mgmt.alerts.testBit k && !(v.testBit k && !alertBlocked s k))) ∧
    (s.mgmt.awaiting = true → exec .platformEventAck s = .next (s.modMgmt fun m => { m with queue := m.queue.tail, awaiting := false, tries := 0 })) ∧
    (s.mgmt.awaiting = false → exec .platformEventAck s = .next s)

/-- BOOT_RETRY (R405). -/
def Obligations.BootRetryOnlyAfterBootFailure : Prop :=
  ∀ (s : State) (env : BootEnv), mgmtUp s →
    (s.boot.dev = .failed → s.boot.released = false → ∃ u, exec (.bootRetry env) s = .next (tryRelease u env) ∧
      u = bootDiscover (s.emit (.mgmt 0x7F 6 0 [0#8])) env.stall ∧ (env.stall = 2 → u.boot.step = 2 ∧ u.boot.dev = .booting ∧ u.boot.img = none)) ∧
    (s.boot.dev ≠ .failed ∨ s.boot.released = true → justAnswers (.bootRetry env) s 0x7F 6 3 [0#8])

/-- The power effecters (R408, R414). -/
def Obligations.PowerEffecters : Prop :=
  ∀ s : State, mgmtUp s →
    let up := s.boot.dev = .newSeat ∨ s.boot.dev = .ready
    let bootFailed := s.boot.dev = .failed ∧ s.boot.released = false
    (∀ w, (s.boot.dev = .booting ∨ s.boot.dev = .held ∨ bootFailed → justAnswers (.powerLimitEffecter w) s 1 0x31 4 []) ∧
      (up ∨ s.boot.dev = .redealing ∨ (s.boot.dev = .failed ∧ s.boot.released = true) →
        (400 ≤ w → w ≤ 1050 → exec (.powerLimitEffecter w) s = .next ((s.modPower fun p => { p with limitW := w }).emit (.mgmt 1 0x31 0 []))) ∧
        (w < 400 ∨ 1050 < w → justAnswers (.powerLimitEffecter w) s 1 0x31 2 []))) ∧
    ∀ env : BootEnv,
      (∀ r, r ≠ 0 → r ≠ 2 → r ≠ 3 → justAnswers (.powerRequestEffecter r env) s 1 0x39 2 []) ∧
      (s.boot.dev = .booting ∨ bootFailed → ∀ r, r = 0 ∨ r = 2 ∨ r = 3 → justAnswers (.powerRequestEffecter r env) s 1 0x39 4 []) ∧
      (s.boot.dev = .held → ∀ r, r = 2 ∨ r = 3 → justAnswers (.powerRequestEffecter r env) s 1 0x39 4 []) ∧
      (s.boot.dev = .redealing → ∀ r, r = 2 ∨ r = 3 → Runs (.powerRequestEffecter r env) s fun t => OnlyParts [.out, .power] s t ∧
        t.out = s.out ++ [.mgmt 1 0x39 0 []] ∧ t.power = { s.power with request := r, refused := true, reason := 4 }) ∧
      (up → (∀ r k, r = 2 ∨ r = 3 → refusalCode s k → Runs (.powerRequestEffecter r env) s fun t => OnlyParts [.out, .power] s t ∧
          t.out = s.out ++ [.mgmt 1 0x39 0 []] ∧ t.power = { s.power with request := r, refused := true, reason := k }) ∧
        ((∀ k, ¬ refusalCode s k) → Runs (.powerRequestEffecter 2 env) s (fun t => t.power.level = 2 ∧ t.power.request = 2 ∧ t.link.idle = true) ∧
          Runs (.powerRequestEffecter 3 env) s (fun t => mainLost t ∧ t.power.level = 3 ∧ t.boot.mainEn = false)) ∧
        (s.power.level = 2 → Runs (.powerRequestEffecter 0 env) s fun t => t.power.level = 0 ∧ t.link = { s.link with idle := false }))

/-- Security commands of both paths (R377, R378, R382 to R384, R404). -/
def Obligations.SecurityBlocks : Prop :=
  ∀ s : State,
    ((regAt s 0 (secOff 0x18)).isSome = true →
      (∀ r v, hostOk s 0 (32 * s.dbg.cmdAddr) 256 = false ∨ r = HostResp.err → Runs (.secKeySlot r v) s fun t => t.dbg.code = 2 ∧ t.boot = s.boot ∧ nonceDrawn t) ∧
      (∀ b v, hostOk s 0 (32 * s.dbg.cmdAddr) 256 = true → b.length = 256 → Runs (.secKeySlot (.ok b) v) s fun t =>
        let c := firstCode (keyChecks s b)
        nonceDrawn t ∧ t.dbg.done = true ∧ t.dbg.code = (if c ≠ 0 then c else if v then 0 else 0x0F) ∧ (c ≠ 0 → t.boot = s.boot) ∧
          (c = 0 → v = true → slotBlown s t b)) ∧
      (∀ b, hostOk s 0 (32 * s.dbg.cmdAddr) 224 = true → b.length = 224 → Runs (.secDebugGrant (.ok b)) s fun t =>
        let c := firstCode (grantChecks s b)
        nonceDrawn t ∧ t.dbg.done = true ∧ t.dbg.code = c ∧ (c ≠ 0 → t.dbg.grants = s.dbg.grants ∧ t.dbg.st = s.dbg.st) ∧ (c = 0 → grantLives s t b)) ∧
      ∀ n, n < 8 → Runs (.secDebugRevoke n) s fun t => t.dbg.done = true ∧ t.dbg.code = 0 ∧
        ((tget s.dbg.grants n).live = true → grantOver s t n) ∧ ((tget s.dbg.grants n).live = false → t.dbg.grants = s.dbg.grants)) ∧
    (diesUp s = true → ∀ n, n < 8 → ((tget s.dbg.grants n).live = false → exec (.debugGrantExpiry n) s = .next s) ∧
      ((tget s.dbg.grants n).live = true → Runs (.debugGrantExpiry n) s fun t => grantOver s t n)) ∧
    (mgmtUp s →
      (s.boot.dev = .booting → ∀ b v n, justAnswers (.mgmtSecurityKeySlot b v) s 0x7F 2 1 [0#8] ∧ justAnswers (.mgmtSecurityDebugGrant b) s 0x7F 2 1 [0#8] ∧
        justAnswers (.mgmtSecurityDebugRevoke n) s 0x7F 2 1 [0#8] ∧ ∀ env, justAnswers (.mgmtSecurityVendorOpen b env) s 0x7F 2 1 [0#8]) ∧
      (s.boot.dev ≠ .booting → ∀ b v, b.length = 256 → Runs (.mgmtSecurityKeySlot b v) s fun t =>
        let c := firstCode (keyChecks s b)
        let code := if c ≠ 0 then c else if v then 0 else 0x0F
        nonceDrawn t ∧ t.out.getLast? = some (.mgmt 0x7F 2 (if code = 0 then 0 else 5) (leBytes 1 code)) ∧ (c ≠ 0 → t.boot = s.boot) ∧
          (c = 0 → v = true → slotBlown s t b)) ∧
      (s.boot.dev = .newSeat ∨ s.boot.dev = .ready → (∀ b, b.length = 224 → Runs (.mgmtSecurityDebugGrant b) s fun t =>
          let c := firstCode (grantChecks s b)
          nonceDrawn t ∧ t.out.getLast? = some (.mgmt 0x7F 2 (if c = 0 then 0 else 5) (leBytes 1 c)) ∧ (c ≠ 0 → t.dbg.grants = s.dbg.grants) ∧
            (c = 0 → grantLives s t b)) ∧
        ∀ n, n < 8 → Runs (.mgmtSecurityDebugRevoke n) s fun t => t.out.getLast? = some (.mgmt 0x7F 2 0 [0#8]) ∧
          ((tget s.dbg.grants n).live = true → grantOver s t n) ∧ ((tget s.dbg.grants n).live = false → t.dbg.grants = s.dbg.grants)))

/-- GET_NONCE, the flash commands and packets (R400, R402, R403). -/
def Obligations.NonceFlashAndPackets : Prop :=
  (∀ s : State, mgmtUp s →
    (s.boot.dev ≠ .booting → justAnswers .getNonce s 0x7F 1 0 ([0#8] ++ leBytes 8 s.dbg.nonce)) ∧
    (s.boot.dev = .booting → justAnswers .getNonce s 0x7F 1 1 [0#8] ∧ (∀ a n, justAnswers (.flashRead a n) s 0x7F 3 1 [0#8]) ∧
      (∀ a n ok, justAnswers (.flashErase a n ok) s 0x7F 4 1 [0#8]) ∧ ∀ a d ok, justAnswers (.flashWrite a d ok) s 0x7F 5 1 [0#8]) ∧
    (s.boot.dev ≠ .booting →
      (∀ a n, 1 ≤ n → n ≤ 256 → a + n ≤ 0x810000 → justAnswers (.flashRead a n) s 0x7F 3 0 ([0#8] ++ flashRead s.boot.flash a n)) ∧
      (∀ a n, n < 1 ∨ 256 < n ∨ 0x810000 < a + n → justAnswers (.flashRead a n) s 0x7F 3 2 [0#8]) ∧
      (∀ a n ok, a % 4096 ≠ 0 ∨ n < 1 ∨ 2048 < n ∨ 0x800000 < a + 4096 * n → justAnswers (.flashErase a n ok) s 0x7F 4 2 [0#8]) ∧
      (∀ a n, a % 4096 = 0 → 1 ≤ n → n ≤ 2048 → a + 4096 * n ≤ 0x800000 → Runs (.flashErase a n true) s fun t =>
        t.out.getLast? = some (.mgmt 0x7F 4 0 [0#8]) ∧ (s.boot.img.isSome = true → t.boot.imageStale = true) ∧
          ∀ x, memGet t.boot.flash.cells x = if a ≤ x ∧ x < a + 4096 * n then none else memGet s.boot.flash.cells x) ∧
      (∀ a d ok, d.length < 1 ∨ 256 < d.length ∨ 0x800000 < a + d.length ∨ a / 256 ≠ (a + d.length - 1) / 256 →
        justAnswers (.flashWrite a d ok) s 0x7F 5 2 [0#8]) ∧
      ∀ a d, 1 ≤ d.length → d.length ≤ 256 → a + d.length ≤ 0x800000 → a / 256 = (a + d.length - 1) / 256 →
        (∀ x, a ≤ x → x < a + d.length → memGet s.boot.flash.cells x = none) → Runs (.flashWrite a d true) s fun t =>
          t.out.getLast? = some (.mgmt 0x7F 5 0 [0#8]) ∧ (s.boot.img.isSome = true → t.boot.imageStale = true) ∧
            ∀ x, (memGet t.boot.flash.cells x).getD 0xFF#8 =
              if a ≤ x ∧ x < a + d.length then d.getD (x - a) 0#8 else (memGet s.boot.flash.cells x).getD 0xFF#8)) ∧
  ∀ (s : State) (b : List Byte) (pec ok : Bool) (env : BootEnv),
    (¬ mctpHere s b pec → exec (.mctpPacketReceived b pec ok env) s = .next s) ∧
    (mctpHere s b pec →
      (bit (field b 3 1) 7 = true → bit (field b 3 1) 6 = true →
        exec (.mctpPacketReceived b pec ok env) s = .next (mgmtMessage (s.modMgmt fun m => { m with assembly := otherParts s b }) (b.drop 4) ok env)) ∧
      (bit (field b 3 1) 7 = true → bit (field b 3 1) 6 = false → Runs (.mctpPacketReceived b pec ok env) s fun t => OnlyParts [.mgmt] s t ∧
        ∃ a, t.mgmt = { s.mgmt with assembly := a :: otherParts s b } ∧ a.src = field b 2 1 ∧ a.tag = field b 3 1 % 16 ∧
          a.nextSeq = (bits (field b 3 1) 4 2 + 1) % 4 ∧ a.bytes = b.drop 4) ∧
      (bit (field b 3 1) 7 = false → (∀ a ∈ s.mgmt.assembly, ¬ (a.src = field b 2 1 ∧ a.tag = field b 3 1 % 16)) →
        exec (.mctpPacketReceived b pec ok env) s = .next s))

/-- SPDM (R410, R411). -/
def Obligations.SpdmAnswers : Prop :=
  ∀ s : State, mgmtUp s →
    mgmtBecomes .getVersion s (fun m => { m with spdmVersion := true, spdmCaps := false, spdmAlgs := false }) 5 0x04 0 [0x00#8, 0x12#8] ∧
    (s.mgmt.spdmVersion = false → justAnswers .getCapabilities s 5 0x7F 4 []) ∧
    (s.mgmt.spdmVersion = true → mgmtBecomes .getCapabilities s (fun m => { m with spdmCaps := true }) 5 0x61 0 (leBytes 4 (if s.dbg.identity then 22 else 8))) ∧
    (s.mgmt.spdmCaps = false → justAnswers .negotiateAlgorithms s 5 0x7F 4 []) ∧
    (s.mgmt.spdmCaps = true → mgmtBecomes .negotiateAlgorithms s (fun m => { m with spdmAlgs := true }) 5 0x63 0 ([1#8] ++ leBytes 4 0x80 ++ leBytes 4 2)) ∧
    (∀ i, (i = .getDigests ∨ (∃ n, i = .challenge n) ∨ ∃ x g n, i = .getMeasurements x g n) → measured s = false → justAnswers i s 5 0x7F 3 []) ∧
    (∀ i, ((i = .getDigests ∨ (∃ n, i = .challenge n) ∨ ∃ x g n, i = .getMeasurements x g n) ∧ measured s = true ∨ ∃ a o n, i = .getCertificate a o n) →
      s.mgmt.spdmAlgs = false → justAnswers i s 5 0x7F 4 []) ∧
    (s.mgmt.spdmAlgs = true →
      (s.dbg.identity = false → (∀ a o n, justAnswers (.getCertificate a o n) s 5 0x7F 7 []) ∧ (measured s = true → justAnswers .getDigests s 5 0x7F 7 [] ∧
        ∀ n, justAnswers (.challenge n) s 5 0x7F 7 [])) ∧
      (s.dbg.identity = true →
        (∀ a o n, a ≠ 0 ∨ (certChain s).length < o → justAnswers (.getCertificate a o n) s 5 0x7F 1 []) ∧
        (∀ o n, o ≤ (certChain s).length → ∃ part, part = ((certChain s).drop o).take (min 256 n) ∧ part.length ≤ 256 ∧
          justAnswers (.getCertificate 0 o n) s 5 0x02 0 (leBytes 2 part.length ++ leBytes 2 ((certChain s).length - o - part.length) ++ part)) ∧
        (measured s = true → justAnswers .getDigests s 5 0x01 0 ([1#8] ++ sha384 (certChain s)) ∧
          ∀ n, Runs (.challenge n) s fun t => OnlyParts [.freeCtr, .out] s t ∧ ∃ fresh body, fresh.length = 32 ∧
            body = sha384 (certChain s) ++ fresh ++ sha384 ((rangeFrom 1 5).flatMap (measureBlock s)) ∧
            t.out = s.out ++ [.mgmt 5 0x03 0 (body ++ identitySign s (n ++ body))])) ∧
      (measured s = true → ∀ g n,
        (∀ x, 5 < x → x ≠ 0xFF → justAnswers (.getMeasurements x g n) s 5 0x7F 1 []) ∧
        (∀ x, (1 ≤ x → x ≤ 5 → g = false → justAnswers (.getMeasurements x g n) s 5 0x60 0 ([5#8] ++ measureBlock s x)) ∧
          (1 ≤ x → x ≤ 5 → g = true → s.dbg.identity = true →
            justAnswers (.getMeasurements x g n) s 5 0x60 0 ([5#8] ++ measureBlock s x ++ identitySign s (n ++ ([5#8] ++ measureBlock s x))))) ∧
        (g = false → justAnswers (.getMeasurements 0 g n) s 5 0x60 0 [5#8] ∧
          justAnswers (.getMeasurements 0xFF g n) s 5 0x60 0 ([5#8] ++ (rangeFrom 1 5).flatMap (measureBlock s)))))

/-- Debug (R385 to R390, R396). -/
def Obligations.DebugActions : Prop :=
  ∀ s : State,
    (∀ b env, (regAt s 0 (secOff 0x18)).isSome = true → hostOk s 0 (32 * s.dbg.cmdAddr) 416 = true → b.length = 416 →
      (firstCode (unlockChecks s b) ≠ 0 → Runs (.secVendorOpen (.ok b) env) s fun t => t.dbg.code = firstCode (unlockChecks s b) ∧ t.boot = s.boot ∧ nonceDrawn t) ∧
      (firstCode (unlockChecks s b) = 0 → ∃ u, vendorOpened u ∧ (s.boot.released = true → mainLost u) ∧
        exec (.secVendorOpen (.ok b) env) s = .next (drawNonce ((tryRelease u env).modDbg fun d => { d with done := true, code := 0 })))) ∧
    (∀ b env, mgmtUp s → s.boot.dev = .newSeat ∨ s.boot.dev = .ready → b.length = 416 →
      (firstCode (unlockChecks s b) ≠ 0 → Runs (.mgmtSecurityVendorOpen b env) s fun t => t.boot = s.boot ∧ nonceDrawn t ∧
        t.out = s.out ++ [.mgmt 0x7F 2 5 (leBytes 1 (firstCode (unlockChecks s b)))]) ∧
      (firstCode (unlockChecks s b) = 0 → ∃ u, vendorOpened u ∧ (s.boot.released = true → mainLost u) ∧
        exec (.mgmtSecurityVendorOpen b env) s = .next ((drawNonce (tryRelease u env)).emit (.mgmt 0x7F 2 0 [0#8])))) ∧
    (∀ n, dbgReg s n 0x40008 →
      (∀ c, dbgRefused s n (·.halt) c → ∀ i, i = .dbgHalt n ∨ i = .dbgStep n → Runs i s fun t => (tget t.dbg.wins n).result = c ∧ OnlyParts [.dbg] s t) ∧
      (dbgAllowed s n (·.halt) → Runs (.dbgHalt n) s fun t => claimHalts s t n ∧ OnlyParts [.dl, .dbg] s t) ∧
      (dbgAllowed s n (·.halt) → stepsLeft s n ≠ [] → Runs (.dbgStep n) s fun t => (tget t.dbg.wins n).result = 1 ∧ OnlyParts [.dbg] s t) ∧
      (dbgAllowed s n (·.halt) → stepsLeft s n = [] → Runs (.dbgStep n) s fun t => OnlyParts [.dl, .dbg] s t ∧
        (∀ x, x ∈ (tget t.dbg.wins n).stepping ↔ ∃ m ∈ s.dl.macros, m.claim = n ∧ x.1 = m.id ∧ x.2 ∈ m.halted ∧ m.workFor x.2 = true) ∧
        ∀ m ∈ t.dl.macros, ∀ c, (m.id, c) ∈ (tget t.dbg.wins n).stepping → c ∉ m.halted) ∧
      ((tget s.dbg.grants n).live = false → exec (.dbgResume n) s = .next s) ∧
      ((tget s.dbg.grants n).live = true → Runs (.dbgResume n) s fun t => OnlyParts [.dl, .dbg, .sync] s t ∧ (tget t.dbg.wins n).halted = false ∧
        (tget t.dbg.wins n).stepping = [] ∧ ∀ m ∈ t.dl.macros, m.claim = n → m.halted = [])) ∧
    (∀ n v, dbgReg s n 0x40020 → let x := bits v 0 7; let w := tget s.dbg.wins n; let sel := bits v 0 7 + 2 ^ 8 * bits v 8 13
      (∀ c, dbgRefused s n (·.observe) c → Runs (.dbgObserve n v) s fun t => OnlyParts [.dbg] s t ∧ tget t.dbg.wins n =
        { w with obsSel := if (tget s.dbg.grants n).live then sel else w.obsSel, result := c }) ∧
      (dbgAllowed s n (·.observe) → Runs (.dbgObserve n v) s fun t => OnlyParts [.dl, .dbg] s t ∧ t.dl.items = s.dl.items ∧
        (x < 96 → (tget t.dl.cores x).gated = false) ∧
        (∀ m, contextOf s x (bits v 12 4) = some m → m.claim = n → tget t.dbg.wins n =
          { w with obsSel := sel, obsData := observeValue m (tget (tget s.dl.cores x).seen (bits v 12 4)) (bits v 8 4) (bits v 16 5) }) ∧
        ((∀ m, contextOf s x (bits v 12 4) = some m → m.claim ≠ n) → tget t.dbg.wins n = { w with obsSel := sel, result := 9 }))) ∧
    (∀ n seq l lv b, n < 8 → diesUp s = true → nextCmd s n seq l 0 = some (lv, lv.pc, b) → (tget s.dbg.wins n).held = none → (tget s.dbg.wins n).mode = 1 →
      (tget s.dbg.wins n).count = ((tget s.dbg.wins n).commands + 1) % 2 ^ 32 → dbgAllowed s n (·.halt) → Runs (.nop n seq l) s fun t =>
        (tget t.dbg.wins n).held = some (seq, lv.id, lv.pc) ∧ (tget t.dbg.wins n).breakHit = true ∧ (tget t.dbg.wins n).mode = 0 ∧
          (tget t.dbg.wins n).halted = true ∧ t.dl.items = s.dl.items) ∧
    (∃ m, m < 2 ^ 11 ∧ Runs .jtagIdcode s fun t => jtagTakes s t 0 0 (1 * 2 ^ 28 + 0x5A01 * 2 ^ 12 + 2 * m + 1)) ∧
    Runs .jtagBypass s (fun t => jtagTakes s t 1 1 0) ∧
    (∀ v, (s.boot.released = false ∨ s.power.level = 3 → Runs (.jtagSamplePreload v) s (fun t => jtagTakes s t 2 2 v) ∧ Runs (.jtagExtest v) s fun t => jtagTakes s t 3 2 v) ∧
      (s.boot.released = true → s.power.level ≠ 3 → Runs (.jtagSamplePreload v) s (fun t => jtagTakes s t 1 1 0) ∧ Runs (.jtagExtest v) s fun t => jtagTakes s t 1 1 0)) ∧
    ∀ a : DapAction,
      (s.dbg.st ≠ .vendorOpen → Runs (.jtagDebugAccess a) s fun t => t.dbg = { s.dbg with jtag := 1, dapStatus := 0x0B } ∧ OnlyParts [.out, .dbg] s t) ∧
      (s.dbg.st = .vendorOpen → s.power.level ≠ 0 → Runs (.jtagDebugAccess a) s fun t => t.dbg = { s.dbg with jtag := 4, dapStatus := 0x0A } ∧ OnlyParts [.out, .dbg] s t) ∧
      (s.dbg.st = .vendorOpen → s.power.level = 0 →
        (a = .scan → Runs (.jtagDebugAccess a) s fun t => t.dbg = { s.dbg with jtag := 4, dapStatus := 0, scanned := true } ∧ diesUp t = false) ∧
        (∀ n, n < 8 → a = .halt n → Runs (.jtagDebugAccess a) s fun t => claimHalts s t n ∧ t.dbg.dapStatus = 0) ∧
        (∀ c x r k m, a = .observe c x r k → contextOf s c x = some m → Runs (.jtagDebugAccess a) s fun t =>
          t.dbg.dapStatus = 0 ∧ t.out = s.out ++ [.jtag 4 (observeValue m (tget (tget s.dl.cores c).seen x) r k)]))

/-- Stores of the steward's, and HOST_COPY (R170, R171, R207, R210, R211, R379). -/
def Obligations.StewardStores : Prop :=
  ∀ s : State,
    (∀ seq l lv b, cmdStarts s 8 seq l 0x43 lv b → let t2 := field b 6 1 == 2
      (∀ n, nextForeign s t2 = none → Runs (.clearCmd seq l n) s fun t => t.tiers = s.tiers ∧ othersStay s t 8 seq ∧
        ∃ lv', levelOf t 8 seq l = some lv' ∧ activeAt lv' lv.pc (.clear (field b 8 4) (field b 8 4 == 0) 0)) ∧
      ∀ f, nextForeign s t2 = some f → 1 ≤ field b 8 4 → Runs (.clearCmd seq l 1) s fun t => unitCleared t t2 f ∧ othersStay s t 8 seq ∧
        ∃ lv', levelOf t 8 seq l = some lv' ∧ activeAt lv' lv.pc (.clear (field b 8 4 - 1) false 1)) ∧
    (∀ seq l lv a b left all freed, cmdRuns s 8 seq l 0 lv a b → a.st = .clear left all freed → s.redealing = false →
      Runs (.clearComplete seq l) s fun t => othersStay s t 8 seq ∧ levelOf t 8 seq l = some (cmdEnded lv 0) ∧
        ∃ k i, findItem t 8 seq = some i ∧ i.noteDetail = freed + k ∧ k ≤ (if all then 65536 else left) ∧
          (nextForeign s (field b 6 1 == 2) = none → k = 0 ∧ t.tiers = s.tiers)) ∧
    (∀ seq l lv b, cmdStarts s 8 seq l 0x44 lv b →
      (field b 8 8 ≠ 0 → ∀ r, Runs (.commonLoad seq l r) s fun t => othersStay s t 8 seq ∧
        ((∃ p ∈ commonSpan b, (pteOf s 8 p).isSome = true) → itemFails t 8 seq 0x0406 ∧ OnlyParts [.dl] s t) ∧
        ((∀ p ∈ commonSpan b, pteOf s 8 p = none) →
          (hostOk s 0 (field b 8 8) (field b 0x18 4) = false ∨ r = .err → itemFails t 8 seq 0x0411 ∧ t.tiers = s.tiers) ∧
          ∀ d, hostOk s 0 (field b 8 8) (field b 0x18 4) = true → r = .ok d →
            let load := loadCommons (commonSpan b) (bytesAt d 0 (field b 0x18 4)) (s.emit (.hostRead 0 (field b 8 8) (field b 0x18 4)))
            (∀ e, load.2 = .error e → itemFails t 8 seq e.1 ∧ ∀ p ∈ commonSpan b, pteOf t 8 p = none) ∧
            (load.2 = .ok () → t.tiers = load.1.tiers ∧ levelOf t 8 seq l = some (cmdDone lv b)))) ∧
      (field b 8 8 = 0 → Runs (.commonRemove seq l) s fun t => othersStay s t 8 seq ∧
        ((∃ p ∈ commonSpan b, pteOf s 8 p = none) → itemFails t 8 seq 0x0406 ∧ OnlyParts [.dl] s t) ∧
        ((∀ p ∈ commonSpan b, (pteOf s 8 p).isSome = true) →
          (anyMoving s 8 (commonSpan b) = true → levelOf t 8 seq l = some (cmdHeld s.now lv b (.pages 0 0)) ∧ OnlyParts [.dl] s t) ∧
          (anyMoving s 8 (commonSpan b) = false → levelOf t 8 seq l = some (cmdDone lv b) ∧ (∀ p ∈ commonSpan b, pteOf t 8 p = none) ∧
            ∀ p, p ∉ commonSpan b → pteOf t 8 p = pteOf s 8 p)))) ∧
    (∀ seq l lv b, cmdStarts s 8 seq l 0x45 lv b → ∀ r, Runs (.tableLoad seq l r) s fun t => othersStay s t 8 seq ∧
      (hostOk s 0 (field b 8 8) (field b 0x10 4) = false ∨ r = .err → itemFails t 8 seq 0x0411 ∧ ∀ k < 32, (tget t.dl.slots k).table = (tget s.dl.slots k).table) ∧
      ∀ d, hostOk s 0 (field b 8 8) (field b 0x10 4) = true → r = .ok d → let bs := bytesAt d 0 (field b 0x10 4)
        (tableValid bs = false ∨ field bs 0 1 ≠ field b 6 1 → itemFails t 8 seq 0x0114 ∧ ∀ k < 32, (tget t.dl.slots k).table = (tget s.dl.slots k).table) ∧
        (tableValid bs = true → field bs 0 1 = field b 6 1 → levelOf t 8 seq l = some (cmdHeld s.now lv b .steward) ∧
          t.dl.slots = tmod s.dl.slots (field b 6 1) fun x => { x with loads := x.loads ++ [{ seq := seq, table := SfnTable.parse bs }] })) ∧
    (diesUp s = true → ∀ slot, slot < 32 →
      let latched := ∃ m ∈ s.dl.macros, ∃ x, m.table = some x ∧ x.1 = slot ∧ x.2.1 ≠ (tget s.dl.slots slot).bank
      ((∀ x ∈ (tget s.dl.slots slot).loads, earlierLoad s slot x.seq = true) ∨ latched ∨ s.redealing = true → exec (.tableLoadCommit slot) s = .next s) ∧
      ∀ x, (tget s.dl.slots slot).loads.find? (fun x => !earlierLoad s slot x.seq) = some x → ¬ latched → s.redealing = false →
        Runs (.tableLoadCommit slot) s fun t => OnlyParts [.dl] s t ∧ (tget t.dl.slots slot).table = some x.table ∧
          (tget t.dl.slots slot).bank = !(tget s.dl.slots slot).bank ∧ (∀ k, k ≠ slot → tget t.dl.slots k = tget s.dl.slots k) ∧
          levelOf t 8 x.seq 0 = (levelOf s 8 x.seq 0).map (cmdEnded · 0)) ∧
    (∀ seq l lv b ok, cmdStarts s 8 seq l 0x47 lv b → Runs (.sealCmd seq l ok) s fun t => othersStay s t 8 seq ∧ levelOf t 8 seq l = some (cmdDone lv b) ∧
      (s.dbg.identity = false → t.dbg.sealResult = 0x0D ∧ t.boot = s.boot) ∧
      (s.dbg.identity = true → ok = false → t.dbg.sealResult = 0x0E ∧ t.boot.seat = s.boot.seat ∧ t.boot.dev = s.boot.dev) ∧
      (s.dbg.identity = true → ok = true → t.dbg.sealResult = 0 ∧ (∃ r, t.boot.seat = some r ∧ r.coord = s.image.coord) ∧
        (s.boot.dev = .newSeat → t.boot.dev = .ready) ∧ (s.boot.dev ≠ .newSeat → t.boot.dev = s.boot.dev))) ∧
    ∀ n seq l lv b r, cmdFresh s n seq l 0x06 lv b → let len := min 4096 (field b 0x18 4)
      (copyFirst s n s.now = false → Runs (.hostCopy n seq l lv.pc 1 r) s fun t => othersStay s t n seq ∧ OnlyParts [.dl] s t ∧
        levelOf t n seq l = some (cmdHeld s.now lv b (.hostCopy 0 s.now))) ∧
      (copyFirst s n s.now = true → RunsAfterMoves (.hostCopy n seq l lv.pc 1 r) s fun t => othersStay s t n seq ∧
        (∀ e, field b 6 1 = 0 → rangeFault s n (field b 0x10 5) len = some e → itemFails t n seq e.1 ∧ t.out = s.out) ∧
        (field b 6 1 = 0 → rangeFault s n (field b 0x10 5) len = none → hostOk s (fnOf n) (field b 8 8) len = false ∨ r = .err → itemFails t n seq 0x0411) ∧
        let R := copyBurst (heldCmd s n seq l lv.pc b (.hostCopy 0 s.now)) n b (respData r) (decide (r ≠ .err)) 0
        (∀ e, R.2 = .error e → itemFails t n seq e.1) ∧
        ∀ k, R.2 = .ok k → t.tiers = R.1.tiers ∧ (field b 0x18 4 ≤ k → levelOf t n seq l = some (cmdDone lv b)) ∧
          (k < field b 0x18 4 → ∃ lv', levelOf t n seq l = some lv' ∧ activeAt lv' lv.pc (.hostCopy k s.now)))

/-- Write-backs (R338), the corrected-error counters (R340) and releases of the log (R342), patches (R345, R346) and checker
tests (R347). -/
def Obligations.EccCommands : Prop :=
  ∀ s : State,
    (diesUp s = true →
      (s.ecc.writeBacks = [] → exec .eccWriteBack s = .next s) ∧
      ∀ key rest, s.ecc.writeBacks = key :: rest →
        (markOf s key = none → exec .eccWriteBack s = .next (s.modEcc fun e => { e with writeBacks := rest })) ∧
        ((markOf s key).isSome = true → keyT0 key = true → Runs .eccWriteBack s fun t => markOf t key = none ∧ OnlyParts [.ecc] s t) ∧
        ((markOf s key).isSome = true → keyT0 key = false → let p := keyPlace key; let w := decodeWord s p.1 p.2.1 p.2.2 (0, 0)
          (w.1 ≠ .corrected → exec .eccWriteBack s = .next (s.modEcc fun e => { e with writeBacks := rest })) ∧
          (w.1 = .corrected → Runs .eccWriteBack s fun t => OnlyParts [.tiers, .ecc] s t ∧
            markOf t (if p.1 then locT2 s p.2.1 p.2.2 else locT1 p.2.1 p.2.2).key = none ∧
            ∀ i < 8, memGet (tierMem t p.1) (pageBase p.2.1 + 8 * p.2.2 + i) = some ((leBytes 8 w.2.2.2).getD i 0#8)))) ∧
    (∀ die < 7,
      (∀ group < 88, eccReg s (0x1400 + 0x1000 * die + 4 * group) → Runs (.eccCeOverClear die group) s fun t => OnlyParts [.ecc] s t ∧
        t.ecc = { s.ecc with dies := t.ecc.dies } ∧ (∀ d, d ≠ die → tget t.ecc.dies d = tget s.ecc.dies d) ∧
        tget t.ecc.dies die = { tget s.ecc.dies die with ce := (tget t.ecc.dies die).ce } ∧ ∀ g,
          tget (tget t.ecc.dies die).ce g = if g = group then (0, false) else tget (tget s.ecc.dies die).ce g) ∧
      ∀ entry < 16, eccReg s (0x1200 + 0x1000 * die) → Runs (.eccLogRelease die entry) s fun t => OnlyParts [.ecc] s t ∧
        t.ecc = { s.ecc with dies := t.ecc.dies } ∧ (∀ d, d ≠ die → tget t.ecc.dies d = tget s.ecc.dies d) ∧
        tget t.ecc.dies die = { tget s.ecc.dies die with log := (tget t.ecc.dies die).log } ∧ ∀ e,
          tget (tget t.ecc.dies die).log e = if e = entry then none else tget (tget s.ecc.dies die).log e) ∧
    (∀ die mac row word, eccReg s 0x200 → die < 8 → mac < 2 ^ 14 → row < 512 → word < 32 →
      let ps := (tget s.ecc.dies die).patches
      let inRange := die < 7 ∧ mac < dieMacros die ∧ word < rowWords die mac
      let refused := fun i reason => Runs i s fun t => patchAnswered t 0 reason ∧ t.ecc.dies = s.ecc.dies ∧ OnlyParts [.ecc, .fns] s t
      ((∀ i < 32, (tget ps i).isSome = true) → refused (.eccPatchInstall die mac row word) 1) ∧
      (∀ i < 32, tget ps i = none → (∀ j < i, (tget ps j).isSome = true) →
        ((patchAt s die mac row word).isSome = true → refused (.eccPatchInstall die mac row word) 2) ∧
        (patchAt s die mac row word = none → ¬ inRange → refused (.eccPatchInstall die mac row word) 4) ∧
        (patchAt s die mac row word = none → inRange → s.redealing = true → refused (.eccPatchInstall die mac row word) 5) ∧
        (patchAt s die mac row word = none → inRange → s.redealing = false → Runs (.eccPatchInstall die mac row word) s fun t =>
          patchAnswered t i 0 ∧ OnlyParts [.tiers, .ecc, .fns] s t ∧ (∀ d, d ≠ die → tget t.ecc.dies d = tget s.ecc.dies d) ∧
          (∀ j, tget (tget t.ecc.dies die).patches j = if j = i then some { runtime := true, mac := mac, row := row, word := word } else tget ps j) ∧
          ∀ j < 16, tget (tget t.ecc.dies die).log j = (tget (tget s.ecc.dies die).log j).map fun e =>
            if e.mac = mac ∧ e.row = row ∧ e.word = word then { e with patched := true } else e)) ∧
      (patchAt s die mac row word = none → refused (.eccPatchRemove die mac row word) 3) ∧
      ∀ i, patchAt s die mac row word = some i →
        (s.redealing = true → refused (.eccPatchRemove die mac row word) 5) ∧
        (s.redealing = false → Runs (.eccPatchRemove die mac row word) s fun t => patchAnswered t i 0 ∧ OnlyParts [.ecc, .fns] s t ∧
          (∀ d, d ≠ die → tget t.ecc.dies d = tget s.ecc.dies d) ∧
          ∀ j, tget (tget t.ecc.dies die).patches j = if j = i then none else tget ps j)) ∧
    (eccReg s 0x128 →
      (¬ testLives s → ∀ i ∈ [Instr.eccTestWriteNormal, .eccTestWriteSplit, .eccTestRead, .eccTestArmFlip],
        exec i s = .next (s.modEcc fun e => { e with resDone := true, resClass := 5 })) ∧
      (testLives s → let key := (testTarget s).1
        Runs .eccTestWriteNormal s (fun t => testWritten t s key 0 ∧ OnlyParts [.dl, .tiers, .ecc] s t) ∧
        Runs .eccTestWriteSplit s (fun t => OnlyParts [.dl, .tiers, .ecc] s t ∧
          testWritten t s key ((if keyT0 key then s.ecc.check % 2 ^ 20 else s.ecc.check % 2 ^ 8) ^^^ testCode s key)) ∧
        Runs .eccTestArmFlip s (fun t => OnlyParts [.ecc] s t ∧
          t.ecc = { s.ecc with armed := some (key, s.ecc.flipData, s.ecc.flipCheck), resClass := 0, resDone := true }) ∧
        Runs .eccTestRead s fun t => let r := testDecode s key
          t.ecc.resDone = true ∧ t.ecc.resClass = r.2.1.code ∧ t.ecc.resSyndrome = r.2.2.1 ∧ t.ecc.resBit = r.2.2.2.1 ∧
            t.ecc.resData = r.2.2.2.2.1 ∧ t.ecc.marks = s.ecc.marks ∧ t.tiers = s.tiers ∧
            t.ecc.armed = if s.ecc.armed.map (·.1) = some key then none else s.ecc.armed))

/-- The PCIe endpoint: training (R281), resets of the physical function (R292, R293), windows (R286), enables (R288), failed reads
and refused requests (R289) and MSI-X (R290). -/
def Obligations.PcieCommands : Prop :=
  (∀ s : State, diesUp s = true →
    (∀ gen width, Runs (.pcieLinkTrain gen width) s fun t => OnlyParts [.pcie] s t ∧ let g := min gen s.image.maxGen
      ∃ w ∈ [1, 2, 4, 8, 16], (∀ x ∈ [1, 2, 4, 8, 16], x ≤ min width s.image.maxWidth → x ≤ w) ∧ (1 < w → w ≤ min width s.image.maxWidth) ∧
        t.pcie = { s.pcie with linkUp := true, gen := g, width := w, flit := decide (g = 6), belowFloor := decide (g < 4 ∨ w < 4) }) ∧
    Runs .pcieLinkDown s (fun t => pfResets s t ∧ t.pcie.linkUp = false ∧ t.pcie.gen = 0 ∧ t.pcie.width = 0) ∧
    (hostUp s = true → Runs .pfFunctionLevelReset s fun t => pfResets s t ∧ t.pcie.linkUp = s.pcie.linkUp) ∧
    (hostUp s = true → ∀ fn < 9, ∀ r feeds b,
      Runs (.busMasterEnableWrite fn b r feeds) s (fun t => enablesChange s t fn (fun f => { f with busMaster := b }) r feeds) ∧
      Runs (.d3hotTransition fn b r feeds) s (fun t => enablesChange s t fn (fun f => { f with d3hot := b }) r feeds) ∧
      ∀ mask v masked, Runs (.msixMaskChange fn b mask v masked) s fun t =>
        msixSent (s.modFn fn fun f => { f with msixEnable := b, msixMask := mask, vecs := tmod f.vecs v fun x => { x with masked := masked } }) t fn) ∧
    (hostUp s = true → ∀ fn, exec (.unsupportedRequestReceived fn) s = .next (aerLog (s.emit (.unsupported fn)))) ∧
    (hostUp s = false → ∀ fn b mask v masked r feeds, ∀ i ∈ [Instr.pfFunctionLevelReset, .busMasterEnableWrite fn b r feeds, .d3hotTransition fn b r feeds,
      .msixMaskChange fn b mask v masked, .unsupportedRequestReceived fn], exec i s = .next s) ∧
    (writesWait s = false → ∀ target, Runs (.hostReadError target) s fun t => exec (readFor target) s = .next t)) ∧
  ∀ (s : State) (fn w v : Nat), fn < 9 → w < 4 → writesWait s = false →
    ((regAt s 0 (hstOff (0x1000 + 0x40 * fn + 16 * w))).isSome = true → let u := dropHold s 0 (hstOff (0x1000 + 0x40 * fn + 16 * w))
      Runs (.hstWinWrite fn w false v) s fun t => OnlyParts [.fns] s t ∧ (∀ k, k ≠ fn → tget t.fns k = tget u.fns k) ∧
        { tget t.fns fn with wins := (tget u.fns fn).wins } = tget u.fns fn ∧ ∀ x, tget (tget t.fns fn).wins x =
          if x = w then { tget (tget s.fns fn).wins w with valid := bit v 0, base := v / 4096 } else tget (tget s.fns fn).wins x) ∧
    ((regAt s 0 (hstOff (0x1000 + 0x40 * fn + 16 * w + 8))).isSome = true → let u := dropHold s 0 (hstOff (0x1000 + 0x40 * fn + 16 * w + 8))
      Runs (.hstWinWrite fn w true v) s fun t => OnlyParts [.fns] s t ∧ (∀ k, k ≠ fn → tget t.fns k = tget u.fns k) ∧
        { tget t.fns fn with wins := (tget u.fns fn).wins } = tget u.fns fn ∧ ∀ x, tget (tget t.fns fn).wins x =
          if x = w then { tget (tget s.fns fn).wins w with limit := v / 4096 } else tget (tget s.fns fn).wins x)

/-- Ethernet ports (R295, R296), PFC (R306), the raw rings (R297), GIDs (R418) and regions (R419). -/
def Obligations.EthernetPorts : Prop :=
  (∀ s : State, diesUp s = true → ∀ p < 2,
    (∀ linked, let may := s.up = true ∨ (s.boot.dev = .booting ∧ 11 ≤ s.boot.step)
      (s.image.ethEnable.testBit p = false ∨ ¬ may ∨ (ethPort s p).up = true → exec (.ethLinkNegotiate p linked) s = .next s) ∧
      (s.image.ethEnable.testBit p = true → may → (ethPort s p).up = false → Runs (.ethLinkNegotiate p linked) s fun t =>
        OnlyParts [.net] s t ∧ portOnly s t p ∧
          ethPort t p = if linked then { ethPort s p with up := true } else { ethPort s p with c2m := !(ethPort s p).c2m })) ∧
    ((ethPort s p).up = false → exec (.ethLinkLoss p) s = .next s ∧ ∀ good fill f, exec (.ethFrameReceived p good fill f) s = .next s) ∧
    ((ethPort s p).up = true →
      Runs (.ethLinkLoss p) s (fun t => OnlyParts [.net] s t ∧ portOnly s t p ∧
        ethPort t p = { ethPort s p with up := false, c2m := false, paused := false, xoff := false, held := [] }) ∧
      ∀ good fill f,
        (good = false ∨ frameType f = none ∨
            (rawFrame s p f ∧ (s.net.rx.active = false ∨ f.length < 14 ∨ 2032 < f.length ∨ (s.net.rx.next + 1) % 2 ^ s.net.rx.sizeLog2 = s.net.rx.index ∨
              hostOk s 0 (2048 * (s.net.rx.base + s.net.rx.next)) 2048 = false)) →
          Runs (.ethFrameReceived p good fill f) s fun t => OnlyParts [.net, .out] s t ∧ portOnly s t p ∧
            (ethPort t p).dropped = satInc 32 (ethPort s p).dropped ∧
            (s.net.pfcEnable = true → (6 * 2 ^ 20 ≤ fill → (ethPort t p).xoff = true) ∧ (fill < 4 * 2 ^ 20 → (ethPort t p).xoff = false))) ∧
        (rawFrame s p f → rawRoom s f → Runs (.ethFrameReceived p true fill f) s fun t => OnlyParts [.net, .out] s t ∧ let r := s.net.rx
          t.net.rx = { r with
            next := if r.next + 1 = 2 ^ r.sizeLog2 then 0 else r.next + 1, phase := if r.next + 1 = 2 ^ r.sizeLog2 then !r.phase else r.phase } ∧
          (ethPort t p).dropped = (ethPort s p).dropped ∧ ∃ first, (s.net.pfcEnable = false → first = []) ∧
            t.out = s.out ++ first ++ [.hostWrite 0 (2048 * r.base + 2048 * r.next + 16) f, .hostWrite 0 (2048 * r.base + 2048 * r.next)
              (leBytes 2 f.length ++ leBytes 1 p ++ leBytes 1 (b2n r.phase) ++ List.replicate 12 0#8)])) ∧
    ∀ priority xoff,
      (s.net.pfcEnable = false ∨ priority ≠ s.net.pfcPriority ∨ (ethPort s p).up = false → exec (.pfcFrameReceived p priority xoff) s = .next s) ∧
      (s.net.pfcEnable = true → priority = s.net.pfcPriority → (ethPort s p).up = true → Runs (.pfcFrameReceived p priority xoff) s fun t =>
        OnlyParts [.net, .out] s t ∧ portOnly s t p ∧
          (xoff = true → ethPort t p = { ethPort s p with paused := true } ∧ t.out = s.out) ∧
          (xoff = false → ethPort t p = { ethPort s p with paused := false, held := [] } ∧ t.out = s.out ++ (ethPort s p).held))) ∧
  ∀ s : State,
    (∀ v, (regAt s 0 (entOff 0x1108)).isSome = true → writesWait s = false → Runs (.rawRxConsumedWrite v) s fun t =>
      OnlyParts [.net] s t ∧ t.net = { s.net with rx := ringWritten s.net.rx v }) ∧
    (∀ v, (regAt s 0 (entOff 0x1118)).isSome = true → writesWait s = false →
      let u := s.modNet fun n => { n with tx := ringWritten n.tx v }
      let a := 2048 * u.net.tx.base + 2048 * u.net.tx.next
      (∀ feeds, ¬ sendDue u → exec (.rawTxProduce v feeds) s = .next u) ∧
      ∀ r, sendDue u → Runs (.rawTxProduce v [r]) s fun t => OnlyParts [.net, .out, .pcie] s t ∧
        t.net.tx = { u.net.tx with next := (u.net.tx.next + 1) % 2 ^ u.net.tx.sizeLog2 } ∧
        (winOk s 0 a 2048 = false → t.out = s.out ∧ (ethPort t 0).dropped = satInc 32 (ethPort s 0).dropped) ∧
        (winOk s 0 a 2048 = true → r = .err → t.out = s.out ++ [.hostRead 0 a 2048] ∧ t.pcie = (aerLog s).pcie ∧ (ethPort t 0).dropped = satInc 32 (ethPort s 0).dropped) ∧
        ∀ b, winOk s 0 a 2048 = true → r = .ok b → b.length = 2048 →
          (slotGood s b → t.out = s.out ++ [.hostRead 0 a 2048, .ethernet (field b 2 1) 0 [] (bytesAt b 16 (field b 0 2))] ∧ t.net.ports = s.net.ports) ∧
          (¬ slotGood s b → t.out = s.out ++ [.hostRead 0 a 2048] ∧ let p := if field b 2 1 < 2 then field b 2 1 else 0
            (ethPort t p).dropped = satInc 32 (ethPort s p).dropped)) ∧
    (∀ c i w v, c < 8 → i < 64 → w < 3 → (regAt s (c + 1) (0x61000 + 32 * i + 8 * w)).isSome = true → writesWait s = false → let r := regionOf s c i
      Runs (.entMrWrite c i w v) s fun t => OnlyParts [.net, .fns] s t ∧ (∀ d j, (d ≠ c ∨ j ≠ i) → regionOf t d j = regionOf s d j) ∧
        (w = 0 → regionOf t c i = if r.valid then r else { r with base := v }) ∧
        (w = 1 → regionOf t c i = if r.valid then r else { r with length := v }) ∧
        (w = 2 → (bit v 0 = true → ¬ rangeGood s c r (bit v 1) → regionOf t c i = r) ∧
          ((bit v 0 = true → rangeGood s c r (bit v 1)) → regionOf t c i =
            { r with valid := bit v 0, host := bit v 1, remoteRead := bit v 2, remoteWrite := bit v 3, key := bits v 8 8 }))) ∧
    ∀ p g v, p < 2 → g < 16 → (regAt s 0 (entOff (0x808 + 0x100 * p + 16 * g))).isSome = true → writesWait s = false → Runs (.entGidCommit p g v) s fun t =>
      OnlyParts [.net, .fns] s t ∧ portOnly s t p ∧ ∀ k, tget (ethPort t p).gids k =
        if k = g then (alookup (ethPort s p).gidHeld g).getD (tget (ethPort s p).gids g % 2 ^ 64) + 2 ^ 64 * (v % 2 ^ 64) else tget (ethPort s p).gids k

/-- Queue pairs: CREATE, MODIFY, DESTROY and QUERY (R298, R299), and the doorbells (R300, R303). -/
def Obligations.QueuePairs : Prop :=
  (∀ (s : State) (c : Nat), c < 8 → (regAt s (c + 1) 0x60008).isSome = true → writesWait s = false → (tget s.net.claims c).done = false →
    ∀ h r, ∀ i ∈ [Instr.qpCreate c r, .qpModify c h r, .qpDestroy c h, .qpQuery c h], exec i s = .next s) ∧
  (∀ (s : State) (c h : Nat), qpReady s c → let win := winOk s (fnOf c) (qpCtxAddr s c) 128
    (∀ r, canIssue s (fnOf c) = false → ∀ i ∈ [Instr.qpCreate c r, .qpModify c h r, .qpQuery c h], Runs i s fun t =>
      (tget t.net.claims c).done = false ∧ t.net.qps = s.net.qps ∧ OnlyParts [.net] s t) ∧
    (findQp s c h = none → qpRefused (.qpDestroy c h) s c 0x0431) ∧
    ((findQp s c h).isSome = true → Runs (.qpDestroy c h) s fun t => qpAnswered t c 0 ∧ OnlyParts [.net] s t ∧
      t.net.qps = s.net.qps.filter fun q => !(q.claim == c && q.handle == h)) ∧
    (canIssue s (fnOf c) = true →
      (win = false → qpRefused (.qpQuery c h) s c 0x0430) ∧
      (win = true → findQp s c h = none → qpRefused (.qpQuery c h) s c 0x0431) ∧
      (∀ q, findQp s c h = some q →
        (win = true → Runs (.qpQuery c h) s fun t => qpAnswered t c 0 ∧ t.net.qps = s.net.qps ∧ OnlyParts [.net, .out] s t ∧
          t.out = s.out ++ [.hostWrite (fnOf c) (qpCtxAddr s c)
            (leBytes 1 q.st.code ++ bytesAt q.ctx 1 7 ++ leBytes 4 q.sqPsn ++ leBytes 4 q.rqPsn ++ bytesAt q.ctx 0x10 0x70)])) ∧
      (∀ r, win = false ∨ r = .err → qpRefused (.qpCreate c r) s c 0x0430 ∧ qpRefused (.qpModify c h r) s c 0x0430) ∧
      ∀ b, win = true → b.length = 128 →
        (ctxOk s c b = false → qpRefused (.qpCreate c (.ok b)) s c 0x0430) ∧
        (ctxOk s c b = true → (s.claim c).queuePairs ≤ (qpsOf s c).length → qpRefused (.qpCreate c (.ok b)) s c 0x0121) ∧
        (ctxOk s c b = true → (qpsOf s c).length < (s.claim c).queuePairs → h < (s.claim c).queuePairs → findQp s c h = none →
          (∀ j < h, (findQp s c j).isSome = true) → Runs (.qpCreate c (.ok b)) s fun t => qpAnswered t c 0 ∧ OnlyParts [.net, .out] s t ∧
            t.out = s.out ++ [.hostRead (fnOf c) (qpCtxAddr s c) 128] ∧ (tget t.net.claims c).resHandle = h ∧
            ∃ dev, (tget t.net.claims c).qpn = 0x1000 + dev ∧ (s.net.qps.length < 2048 → dev < 2048 ∧ ∀ q ∈ s.net.qps, q.dev ≠ dev) ∧
              t.net.qps = s.net.qps ++ [{ claim := c, handle := h, dev := dev, ctx := b, st := ctxState b, sqPsn := field b 8 3, rqPsn := field b 0xC 3 }]) ∧
        (field b 0 1 = 0 ∨ 4 < field b 0 1 → qpRefused (.qpModify c h (.ok b)) s c 0x0430) ∧
        (1 ≤ field b 0 1 → field b 0 1 ≤ 4 →
          (findQp s c h = none → qpRefused (.qpModify c h (.ok b)) s c 0x0431) ∧
          ∀ q, findQp s c h = some q →
            (field b 0 1 = 4 → Runs (.qpModify c h (.ok b)) s fun t => qpAnswered t c 0 ∧ qpDead t c h ∧ qpsAlike qpFixed s t) ∧
            ((q.st = .init ∧ field b 0 1 = 2) ∨ (q.st = .rtr ∧ field b 0 1 = 3) → Runs (.qpModify c h (.ok b)) s fun t =>
              qpAnswered t c 0 ∧ findQp t c h = some { q with st := ctxState b } ∧ OnlyParts [.net, .out] s t ∧
              ∀ a k, (a ≠ c ∨ k ≠ h) → findQp t a k = findQp s a k) ∧
            (¬ ((q.st = .init ∧ field b 0 1 = 2) ∨ (q.st = .rtr ∧ field b 0 1 = 3)) → field b 0 1 ≠ 4 →
              qpRefused (.qpModify c h (.ok b)) s c 0x0431)))) ∧
  ∀ (s : State) (c h v : Nat) (q : Qp),
    (qpDoor s c h 0 q → ∀ feeds,
      (2 ^ q.sqLog ≤ v → exec (.sqDoorbell c h v feeds) s = .next s) ∧
      (v < 2 ^ q.sqLog → let u := s.modQp c h fun q => { q with sqProduce := v }; let a := field q.ctx 0x28 8 + 64 * q.sqRead
        Runs (.sqDoorbell c h v feeds) s (fun t => qpsAlike qpFixed u t) ∧
        (qpIdle s c q → exec (.sqDoorbell c h v []) s = .next u ∧
          (v = q.sqRead → exec (.sqDoorbell c h v feeds) s = .next u) ∧
          (v ≠ q.sqRead → ∀ r p, Runs (.sqDoorbell c h v [(r, p)]) s fun t =>
            (∃ q', findQp t c h = some q' ∧ q'.sqRead = (q.sqRead + 1) % 2 ^ q.sqLog) ∧
            (winOk s (fnOf c) a 64 = true → ∃ ys, t.out = s.out ++ [.hostRead (fnOf c) a 64] ++ ys) ∧
            (winOk s (fnOf c) a 64 = false ∨ r = .err → qpDead t c h))))) ∧
    (qpDoor s c h 4 q →
      (2 ^ q.rqLog ≤ v → ∀ feeds, exec (.rqDoorbell c h v feeds) s = .next s) ∧
      (v < 2 ^ q.rqLog → let u := s.modQp c h fun q => { q with rqProduce := v }; let a := field q.ctx 0x30 8 + 64 * q.rqRead
        (∀ feeds, Runs (.rqDoorbell c h v feeds) s (fun t => qpsAlike qpFixed u t)) ∧
        (v = q.rqRead ∨ canIssue s (fnOf c) = false → ∀ feeds, exec (.rqDoorbell c h v feeds) s = .next u) ∧
        (v ≠ q.rqRead → canIssue s (fnOf c) = true → q.st ≠ .err → ∀ r, Runs (.rqDoorbell c h v [r]) s fun t =>
          (∃ w, findQp t c h = some { q with rqProduce := v, rqRead := (q.rqRead + 1) % 2 ^ q.rqLog, recvs := q.recvs ++ [w] } ∧ w.index = q.rqRead ∧
            (winOk s (fnOf c) a 64 = false ∨ r = .err → w.lost = true) ∧
            ∀ b, winOk s (fnOf c) a 64 = true → r = .ok b → b.length = 64 → field b 0 1 = 0x10 → w.lost = false ∧ w.bytes = b) ∧
          (winOk s (fnOf c) a 64 = true → ∃ ys, t.out = s.out ++ [.hostRead (fnOf c) a 64] ++ ys) ∧ (winOk s (fnOf c) a 64 = false → t.out = s.out)))) ∧
    (qpDoor s c h 8 q → ∀ feeds,
      (2 ^ q.cqLog ≤ v → exec (.cqConsumedWrite c h v feeds) s = .next s) ∧
      (v < 2 ^ q.cqLog → let u := s.modQp c h fun q => { q with cqConsumed := v }
        Runs (.cqConsumedWrite c h v feeds) s (fun t => qpsAlike qpFixed u t) ∧
        (q.records = [] → q.waiting = [] → exec (.cqConsumedWrite c h v []) s = .next u)))

/-- Packets of queue pairs: answers (R303), timers (R298), requests (R301, R302), and the rate (R305). -/
def Obligations.RocePackets : Prop :=
  (∀ (s : State) (c h : Nat) (q : Qp), diesUp s = true → findQp s c h = some q →
    (q.st ≠ .rts ∨ s.redealing = true → ∀ psn reads feeds code, exec (.roceAckReceived c h psn reads feeds) s = .next s ∧
      exec (.roceNakReceived c h psn code reads) s = .next s) ∧
    (q.st = .rts → s.redealing = false → ∀ psn,
      (∀ reads feeds, Runs (.roceAckReceived c h psn reads feeds) s fun t => qpsAlike qpFixed s t) ∧
      ∀ w ws, q.sent = w :: ws →
        (psnAtLeast psn (w.psn + w.packets - 1) = false → q.records = [] → q.waiting = [] → ∀ reads, exec (.roceAckReceived c h psn reads []) s = .next s) ∧
        (psnAtLeast psn (w.psn + w.packets - 1) = true → ws = [] → q.records = [] → q.waiting = [] → wOp w.bytes ≠ 5 → wSignal w.bytes = false →
          ∀ reads, Runs (.roceAckReceived c h psn reads []) s fun t => qpBecomes s t c h { q with sent := [] }) ∧
        (psnAtLeast ((psn + 2 ^ 24 - 1) % 2 ^ 24) (w.psn + w.packets - 1) = false → ∀ reads,
          (w.tries < field q.ctx 0x44 1 → Runs (.roceNakReceived c h psn 0 reads) s fun t =>
            qpBecomes s t c h { q with sent := { w with tries := w.tries + 1 } :: ws }) ∧
          (field q.ctx 0x44 1 ≤ w.tries → Runs (.roceNakReceived c h psn 0 reads) s fun t => qpDead t c h) ∧
          Runs (.roceNakReceived c h psn 1 reads) s (fun t => qpBecomes s t c h { q with rnrWait := true } ∧ OnlyParts [.net] s t) ∧
          ∀ code, 2 ≤ code → Runs (.roceNakReceived c h psn code reads) s fun t => qpDead t c h)) ∧
    (q.st ≠ .rts ∨ field q.ctx 0x43 1 = 0 ∨ q.rnrWait = true ∨ q.sent = [] → exec (.qpAckTimeout c h) s = .next s) ∧
    (q.rnrWait = false → exec (.rnrTimerExpiry c h) s = .next s) ∧
    (∀ w ws, q.sent = w :: ws →
      (q.st = .rts → field q.ctx 0x43 1 ≠ 0 → q.rnrWait = false →
        (w.tries < field q.ctx 0x44 1 → Runs (.qpAckTimeout c h) s fun t => qpBecomes s t c h { q with sent := { w with tries := w.tries + 1 } :: ws }) ∧
        (field q.ctx 0x44 1 ≤ w.tries → Runs (.qpAckTimeout c h) s fun t => qpDead t c h)) ∧
      (q.rnrWait = true → let n := field q.ctx 0x45 1
        (n = 7 ∨ w.rnrTries < n → Runs (.rnrTimerExpiry c h) s fun t =>
          qpBecomes s t c h { q with rnrWait := false, sent := { w with rnrTries := w.rnrTries + 1 } :: ws }) ∧
        (n ≠ 7 → n ≤ w.rnrTries → Runs (.rnrTimerExpiry c h) s fun t => qpDead t c h))) ∧
    Runs (.cnpReceived c h) s (fun t => OnlyParts [.net] s t ∧ qpBecomes s t c h
      (if (∃ x, q.lastCut = some x ∧ s.now < x + 50000) then q else { q with rate := max 1000 (q.rate / 2), lastCut := some s.now })) ∧
    Runs (.rateIncreaseTimer c h) s (fun t => OnlyParts [.net] s t ∧ qpBecomes s t c h { q with rate := min 400000 (q.rate + 10000) }) ∧
    ((∃ x, q.lastCnp = some x ∧ s.now < x + 50000) ∨ qpHeld s q = true → exec (.cePacketReceived c h) s = .next s) ∧
    ((∀ x, q.lastCnp = some x → x + 50000 ≤ s.now) → qpHeld s q = false → Runs (.cePacketReceived c h) s fun t => OnlyParts [.net, .out] s t ∧
      qpBecomes s t c h { q with lastCnp := some s.now } ∧ (portSends s q.port → t.out = s.out ++ [rocePacket s q 6 s.net.cnpDscp [q.destQpn] []]))) ∧
  (∀ (s : State) (c h psn rkey addr : Nat) (q : Qp), qpTakes s c h psn q →
    (∀ d imm, let i := Instr.rdmaWriteReceived c h psn rkey addr d imm []
      (regionFor s q rkey addr d.length true = none → Runs i s fun t => qpDead t c h) ∧
      ∀ r, regionFor s q rkey addr d.length true = some r → let noEntry := imm ≠ none ∧ (q.recvs = [] ∨ q.cqHold = true)
        (noEntry → justSends i s q 4 q.dscp [q.destQpn, psn, field q.ctx 0x46 1]) ∧
        (¬ noEntry → r.host = true → d ≠ [] → canIssue s (fnOf c) = false → exec i s = .next s) ∧
        (¬ noEntry → r.host = true ∨ d = [] → (d ≠ [] → canIssue s (fnOf c) = true) →
          (d ≠ [] → winOk s (fnOf c) addr d.length = false → Runs i s fun t => qpDead t c h) ∧
          ((d ≠ [] → winOk s (fnOf c) addr d.length = true) →
            let w := if d = [] then [] else [Output.hostWrite (fnOf c) addr d]
            Runs i s fun t => (∃ ys, t.out = s.out ++ w ++ ys) ∧ writeTaken s t c h q imm d.length)) ∧
        (¬ noEntry → r.host = false → d ≠ [] → let p := writeClaim s c (addr % 2 ^ 40) d
          RunsAfterMoves i s fun t => (∀ e, p.2 = .error e → qpDead t c h) ∧
            (p.2 = .ok () → t.tiers = p.1.tiers ∧ writeTaken s t c h q imm d.length))) ∧
    (∀ n data, let i := Instr.rdmaReadReceived c h psn rkey addr n data
      (regionFor s q rkey addr n false = none → Runs i s fun t => qpDead t c h) ∧
      ∀ r, regionFor s q rkey addr n false = some r → let passed := { q with rqPsn := (q.rqPsn + packetCount q.mtu n) % 2 ^ 24 }
        let answer : List Byte → List Output := fun bs => (List.range (packetCount q.mtu n)).map fun k =>
          rocePacket s q 5 q.dscp [q.destQpn, (psn + k) % 2 ^ 24, k, packetCount q.mtu n] ((bs.drop (q.mtu * k)).take q.mtu)
        (n = 0 → Runs i s fun t => qpBecomes s t c h passed ∧ (portSends s q.port → t.out = s.out ++ answer [])) ∧
        (n ≠ 0 → r.host = true → canIssue s (fnOf c) = false → exec i s = .next s) ∧
        (n ≠ 0 → r.host = true → canIssue s (fnOf c) = true → winOk s (fnOf c) addr n = false ∨ data = .err → Runs i s fun t => qpDead t c h) ∧
        (∀ b, n ≠ 0 → r.host = true → hostOk s (fnOf c) addr n = true → data = .ok b → Runs i s fun t => qpBecomes s t c h passed ∧
          (portSends s q.port → t.out = s.out ++ [.hostRead (fnOf c) addr n] ++ answer (bytesAt b 0 n))) ∧
        (n ≠ 0 → r.host = false → let p := readClaim s c (addr % 2 ^ 40) n
          (∀ e, p.2 = .error e → Runs i s fun t => qpDead t c h) ∧
          ∀ bs, p.2 = .ok bs → Runs i s fun t => qpBecomes s t c h passed ∧ (portSends s q.port → t.out = p.1.out ++ answer bs))) ∧
    ∀ d imm, let i := Instr.roceSendReceived c h psn d imm []
      (q.recvs = [] ∨ q.cqHold = true → justSends i s q 4 q.dscp [q.destQpn, psn, field q.ctx 0x46 1]) ∧
      ∀ w ws, q.recvs = w :: ws → q.cqHold = false →
        (wHost w.bytes = true → d ≠ [] → canIssue s (fnOf c) = false → exec i s = .next s) ∧
        (wHost w.bytes = true → d ≠ [] → canIssue s (fnOf c) = true) →
          let p := placeRecv (s.modQp c h fun q => { q with recvs := ws }) c w d
          let after := fun t => (∀ e, p.2 = .error e → qpDead t c h) ∧ (p.2 = .ok () → recvTaken s t c h q ws d.length)
          (wHost w.bytes = true ∨ d = [] → Runs i s after) ∧ (wHost w.bytes = false → d ≠ [] → RunsAfterMoves i s after)) ∧
  ∀ (s : State) (c h psn : Nat) (q : Qp), diesUp s = true → findQp s c h = some q →
    ∀ i, ((∃ d imm, i = .roceSendReceived c h psn d imm []) ∨ (∃ k a d imm, i = .rdmaWriteReceived c h psn k a d imm []) ∨ ∃ k a n r, i = .rdmaReadReceived c h psn k a n r) →
      ((q.st ≠ .rtr ∧ q.st ≠ .rts) ∨ qpHeld s q = true → exec i s = .next s) ∧
      ((q.st = .rtr ∨ q.st = .rts) → qpHeld s q = false → psn % 2 ^ 24 ≠ q.rqPsn →
        (psnAtLeast q.rqPsn psn = true → justSends i s q 2 q.dscp [q.destQpn, (q.rqPsn + 2 ^ 24 - 1) % 2 ^ 24]) ∧
        (psnAtLeast q.rqPsn psn = false → justSends i s q 3 q.dscp [q.destQpn, q.rqPsn, 0]))

/-- The Swezo ports: training (R234, R235, R241), identity and quarantine (R249, R250), failure (R254) and what the steward does to
them (R256, R258). -/
def Obligations.PortTraining : Prop :=
  ∀ (s : State) (p : Nat), p < 12 → let x := s.port p
    (diesUp s = true →
      (∀ r i, i = .portTrainingStart p r ∨ i = .portRetrainTimer p r →
        (mayTrain s p = false ∨ x.st ≠ .down → exec i s = .next s) ∧ (mayTrain s p = true → x.st = .down → Runs i s fun t => portTrains s t p r)) ∧
      (x.st ≠ .training → exec (.portTrainingTimeout p) s = .next s) ∧
      (x.st = .training → Runs (.portTrainingTimeout p) s fun t => portIsDown s t p) ∧
      (x.st = .dark ∨ x.st = .down → exec (.portFailure p) s = .next s) ∧
      (x.st = .training ∨ x.st = .quarantined → Runs (.portFailure p) s fun t => portIsDown s t p) ∧
      (x.st = .up → Runs (.portFailure p) s fun t => t.port p = portDown x ∧ portsOwe s t p ∧ (x.dir < 6 → dirHasOther s p → flitsMove s t (s.link.disown p) p)) ∧
      (∀ b, (x.st ≠ .training → x.st ≠ .quarantined → exec (.helloReceived p b) s = .next s) ∧
        (x.st = .training ∨ x.st = .quarantined →
          let own := if x.helloSent then x.mgmt else x.mgmt ++ [helloBytes s p]
          let heard : Port := { x with
            helloSent := false, peerCoords := (seatAt b 9).1 + 2 ^ 8 * (seatAt b 9).2.1 + 2 ^ 16 * (seatAt b 9).2.2, peerPort := field b 2 1 % 16
            digest := bytesAt b 0x10 48 }
          (helloReason s p b = none → Runs (.helloReceived p b) s fun t => portAlone s t p ∧
            t.port p = { heard with mgmt := own, st := .up, reason := 0, evUp := true }) ∧
          ∀ r, helloReason s p b = some r → Runs (.helloReceived p b) s fun t => portAlone s t p ∧
            t.port p = { heard with
              mgmt := own ++ [0x06#8 :: leBytes 1 r], st := .quarantined, reason := r, evQuar := x.evQuar || decide (x.st ≠ .quarantined) })) ∧
      (x.st = .dark ∨ x.st = .down ∨ (x.st = .quarantined ∧ 1 ≤ x.reason ∧ x.reason < 6) → exec (.quarantineReceived p) s = .next s) ∧
      (x.st = .training ∨ (x.st = .quarantined ∧ (x.reason = 0 ∨ 6 ≤ x.reason)) → Runs (.quarantineReceived p) s fun t => portAlone s t p ∧
        t.port p = { x with st := .quarantined, reason := 6, evQuar := x.evQuar || decide (x.st ≠ .quarantined) }) ∧
      (x.st = .up → Runs (.quarantineReceived p) s fun t => portsOwe s t p ∧ (t.port p).st = .quarantined ∧ (t.port p).reason = 6 ∧
        (t.port p).evQuar = true ∧ (x.dir < 6 → dirHasOther s p → flitsMove s t s.link p))) ∧
    ((regAt s 0 (szlOff (0x100 * p + 0x20))).isSome = true → writesWait s = false →
      (∀ hold, hold = false ∨ x.st = .dark → Runs (.szlHoldDown p hold) s fun t => OnlyParts [.link] s t ∧ portAlone s t p ∧ t.port p = { x with holdDown := hold }) ∧
      (x.st ≠ .dark → Runs (.szlHoldDown p true) s fun t => portsOwe s t p ∧ t.port p = { portDown x with holdDown := true } ∧ ∃ ys, t.out = s.out ++ ys ++ [.idle p]) ∧
      (∀ r, (x.st = .dark ∨ x.holdDown = true → exec (.szlRetrain p r) s = .next s) ∧
        (x.st ≠ .dark → x.holdDown = false → mayTrain s p = false → x.st = .down → exec (.szlRetrain p r) s = .next s) ∧
        (x.st ≠ .dark → x.holdDown = false → mayTrain s p = false → x.st ≠ .down → Runs (.szlRetrain p r) s fun t => portsOwe s t p ∧ t.port p = portDown x) ∧
        (x.st ≠ .dark → mayTrain s p = true → Runs (.szlRetrain p r) s fun t => portTrains s t p r)) ∧
      Runs (.szlClearCounters p) s fun t => OnlyParts [.link] s t ∧ portAlone s t p ∧ t.port p = { x with crcErrors := 0, replays := 0, fec := 0, malformed := 0 })

/-- Lanes and their changes (R252 to R254), echoes (R248), flits (R239 to R242, R244), the package's own links (R257) and the ports of a
failed package (R363). -/
def Obligations.LanesAndFlits : Prop :=
  (∀ (s : State) (p i : Nat), p < 12 → i < 8 → diesUp s = true → let x := s.port p; let l := laneOf s p i
    (¬ (trained s p ∧ l.good = true) → exec (.laneFailure p i) s = .next s) ∧
    (trained s p → l.good = true → Runs (.laneFailure p i) s fun t => laneLost s t p i ∧ (otherLane s p i → portAlone s t p)) ∧
    (¬ (trained s p ∧ l.good = true ∧ ∃ u ∈ l.buffer, 16 ≤ u.sends) → exec (.replayLimitReached p i) s = .next s) ∧
    (trained s p → l.good = true → (∃ u ∈ l.buffer, 16 ≤ u.sends) → Runs (.replayLimitReached p i) s fun t =>
      laneLost s t p i ∧ (otherLane s p i → portAlone s t p)) ∧
    (∀ bitmap, (¬ trained s p → exec (.lanesReceived p bitmap) s = .next s) ∧
      (trained s p →
        let us := (List.range 8).filter fun j => (laneOf s p j).good && bitmap.testBit j
        let m := min us.length (min (min x.maxLanes x.peerMax) x.width)
        (m = 0 → Runs (.lanesReceived p bitmap) s fun t => t.port p = portDown x ∧ portsOwe s t p) ∧
        (m ≠ 0 → Runs (.lanesReceived p bitmap) s fun t => ∃ w, laneWidth m w ∧ lanesNow s t p (us.take w) ∧
          ∀ j, j < 8 → (laneOf t p j).peerGood = bitmap.testBit j)) ∧
      (¬ trained s p ∨ x.changing = false → exec (.lanesAckReceived p bitmap) s = .next s) ∧
      (trained s p → x.changing = true → Runs (.lanesAckReceived p bitmap) s fun t => lanesNow s t p ((List.range 8).filter fun j => bitmap.testBit j))) ∧
    (∀ b ns, Runs (.echoReceived p b ns) s fun t => OnlyParts [.link] s t ∧ portAlone s t p ∧
      (field b 1 1 = 0 → t.port p = { x with mgmt := x.mgmt ++ [[0x05#8, 1#8, 0#8, 0#8] ++ bytesAt b 4 8 ++ leBytes 4 ns] }) ∧
      (field b 1 1 ≠ 0 → let es := ((s.now - field b 4 8 - field b 0xC 4) :: x.echoes).take 16
        t.port p = { x with echoes := es, latency := min 0xFFFF (es.sum / es.length / 2) })) ∧
    (∀ ack, Runs (.nakReceived p i ack) s fun t => nakTaken s t p i ack) ∧
    ∀ b dest ns, let h := field b 0 8
      let run := Instr.flitReceived p i b dest ns
      let back := fun t => creditsBack s t p (bits h 23 2) (bits h 25 1) (bits h 26 6)
      let accepted := fun t : State => (laneOf t p i).received = bits h 0 8 ∧ (laneOf t p i).naked = false ∧ (laneOf t p i).ackDue = true
      (l.inUse = false → exec run s = .next s) ∧
      (l.inUse = true → crc64 (bytesAt b 0 248) ≠ field b 248 8 → Runs run s fun t => OnlyParts [.link, .out] s t ∧ portAlone s t p ∧
        (t.port p).crcErrors = satInc 16 x.crcErrors ∧ drawsNak s t p i) ∧
      (l.inUse = true → crc64 (bytesAt b 0 248) = field b 248 8 →
        (bits h 19 2 = 0 → Runs run s fun t => OnlyParts [.link] s t ∧ portsStay s t p ∧ back t ∧ (laneOf t p i).buffer = unackedAfter s p i (bits h 8 8)) ∧
        (bits h 19 2 = 2 → Runs run s fun t => nakTaken s t p i (bits h 8 8) ∧ ((∀ u ∈ unackedAfter s p i (bits h 8 8), u.sends < 16) → back t)) ∧
        (bits h 19 2 % 2 = 1 → bits h 0 8 ≠ (l.received + 1) % 256 → Runs run s fun t => OnlyParts [.link, .out] s t ∧ portsStay s t p ∧ back t ∧
          drawsNak s t p i) ∧
        (bits h 19 2 % 2 = 1 → bits h 0 8 = (l.received + 1) % 256 → let f := flitOf b
          let owed := x.owed ++ [(f.vc, f.dclass, 1)]
          (bits h 19 2 = 3 ∨ (f.vc ≠ 3 ∧ x.st = .quarantined) ∨ payloadOk f.vc f.first f.closing f.payload = false → Runs run s fun t =>
            OnlyParts [.link] s t ∧ portsStay s t p ∧ back t ∧ accepted t ∧ (t.port p).malformed = satInc 16 x.malformed ∧ (t.port p).owed = owed ∧
              t.link.inbox = s.link.inbox) ∧
          (bits h 19 2 = 1 → f.vc < 2 → x.st = .up → payloadOk f.vc f.first f.closing f.payload = true →
            (∀ m ∈ s.link.inbox, ¬ (m.dir = x.dir ∧ m.vc = f.vc ∧ m.msgId = f.msgId)) →
            (f.first = false → Runs run s fun t => OnlyParts [.link] s t ∧ portsStay s t p ∧ back t ∧ accepted t ∧
              (f.closing = true → (t.port p).owed = owed ∧ t.link.inbox = s.link.inbox) ∧
              (f.closing = false → (t.port p).owed = x.owed ∧
                t.link.inbox = s.link.inbox ++ [{ dir := x.dir, vc := f.vc, msgId := f.msgId, early := [(p, f)] }])) ∧
            (f.first = true → f.closing = false → (∀ u ∈ l.buffer, u.seq ≠ bits h 8 8) → let hb := f.payload.take 48
              let m := MsgHeader.read hb
              (∀ d, m.dest ≠ ownSeat s → routeOn s x.dir m.dest = .dir d → Runs run s fun t => OnlyParts [.link, .rounds] s t ∧ portsStay s t p ∧
                back t ∧ accepted t ∧ (t.port p).owed = x.owed ∧ t.rounds = { s.rounds with forwarded := satInc 32 s.rounds.forwarded } ∧
                t.link.groups = (queued s d { vc := f.vc, dclass := nextClass s x.dir d f.dclass, own := false, dest := m.dest, header := some hb
                                              relay := some (x.dir, f.vc, f.msgId), queue := [(p, f)] }).groups ∧
                t.link.inbox = s.link.inbox ++ [{ dir := x.dir, vc := f.vc, msgId := f.msgId, header := hb, mode := .relay d }]) ∧
              ∀ c a, m.dest = ownSeat s → m.kind = 2 → msgRound s m c a → rangeFault s a.claim m.target m.length = none → 192 ≤ m.length →
                f.index = 0 → s.tiers.moves = [] → Runs run s fun t => ∃ u, OnlyParts [.link] s u ∧ portsStay s u p ∧ (u.port p).owed = owed ∧
                  ∀ w, writeClaim u a.claim m.target (bytesAt f.payload 48 192) = (w, .ok ()) → t = w))))) ∧
  ∀ s : State, diesUp s = true →
    (Runs .echoTimer s fun t => OnlyParts [.link] s t ∧ { t.link with ports := s.link.ports } = s.link ∧ ∀ p, p < 12 →
      (trained s p → t.port p = { s.port p with mgmt := (s.port p).mgmt ++ [[0x05#8, 0#8, 0#8, 0#8] ++ leBytes 8 s.now ++ leBytes 4 0] }) ∧
      (¬ trained s p → t.port p = s.port p)) ∧
    (∀ i, i < 14 → ((tget s.link.szlp i).failed = true → exec (.szlpLinkFailure i) s = .next s) ∧
      ((tget s.link.szlp i).failed = false → (¬ szlpCut s i ∨ s.boot.dev = .failed → Runs (.szlpLinkFailure i) s fun t =>
          OnlyParts [.link, .cl, .fns, .out, .mgmt] s t ∧ tget t.link.szlp i = { failed := true, retraining := true } ∧
            (∀ j, j ≠ i → tget t.link.szlp j = tget s.link.szlp j) ∧ { t.link with szlp := s.link.szlp } = s.link) ∧
        (szlpCut s i → s.boot.dev ≠ .failed → Runs (.szlpLinkFailure i) s fun t => failedNow s t 0x0511)) ∧
      ∀ ok, ((tget s.link.szlp i).failed = false ∨ (tget s.link.szlp i).retraining = false → exec (.szlpRetrain i ok) s = .next s) ∧
        ((tget s.link.szlp i).failed = true → (tget s.link.szlp i).retraining = true → Runs (.szlpRetrain i ok) s fun t =>
          OnlyParts [.link, .cl, .fns, .out, .mgmt] s t ∧ tget t.link.szlp i = { failed := !ok, retraining := false } ∧
            (∀ j, j ≠ i → tget t.link.szlp j = tget s.link.szlp j) ∧ { t.link with szlp := s.link.szlp } = s.link)) ∧
    (s.boot.dev ≠ .failed ∨ s.link.idle = true → exec .failedPortIdle s = .next s) ∧
    (s.boot.dev = .failed → s.link.idle = false → Runs .failedPortIdle s fun t => t.link.idle = true ∧
      ∀ p, p < 12 → ((s.port p).st = .dark → t.port p = { s.port p with owed := (t.port p).owed }) ∧ ((s.port p).st ≠ .dark → t.port p = portDown (s.port p)))

/-- Messages between seats: hands, puts and signals (R245, R247, R273), receipts and their timeout (R246), aborts (R247), and messages
for other seats (R264, R265). -/
def Obligations.LinkMessages : Prop :=
  (∀ (s : State) (b data : List Byte) (ok : Bool), diesUp s = true → let h := MsgHeader.read b
    (∀ i k, (i, k) ∈ [(Instr.handReceived b data ok, 1), (.putReceived b data ok, 2), (.signalReceived b, 3), (.receiptReceived b, 4), (.abortReceived b, 5)] →
      (h.kind ≠ k ∨ h.dest ≠ ownSeat s → exec i s = .next s) ∧
      (msgHere s k b h → k < 4 →
        (s.redealing = true → Runs i s fun t => receiptSent s t h 2 0) ∧
        (s.redealing = false → messageRound s h = none → Runs i s fun t => msgRefused s t h 3 0) ∧
        (s.redealing = false → messageRound s h ≠ none → namesRelease s h = true → Runs i s fun t => msgRefused s t h 5 0x0522))) ∧
    (∀ c a, msgHere s 1 b h → msgRound s h c a →
      (expectedHand a h = none → Runs (.handReceived b data ok) s fun t => msgRefused s t h 3 0) ∧
      ∀ r again, expectedHand a h = some (r, again) →
        let held := a.resent.filter fun x => x.1 != h.xfer
        let taken : Armed := { a with accepted := if again then a.accepted else a.accepted + 1, resent := held }
        let w := writeClaim (s.modArmed c fun _ => taken) a.claim (a.slotVa r) (padGranule (data.take h.length))
        (∀ e, w.2 = .error e → RunsAfterMoves (.handReceived b data ok) s fun t => msgRefused w.1 t h 5 e.1) ∧
        (w.2 = .ok () → RunsAfterMoves (.handReceived b data ok) s fun t =>
          (ok = false → receiptSent (w.1.modArmed c fun _ => { taken with resent := (h.xfer, r) :: held }) t h 1 0) ∧
          (ok = true → msgDelivered (w.1.modArmed c fun _ => { taken with landed := taken.landed ++ [{ number := r }] }) t h))) ∧
    (∀ c a, msgHere s 2 b h → msgRound s h c a →
      (∀ e, rangeFault s a.claim h.target h.length = some e → Runs (.putReceived b data ok) s fun t => msgRefused s t h 5 e.1) ∧
      (rangeFault s a.claim h.target h.length = none →
        (ok = true → let w := writeClaim s a.claim h.target (data.take h.length)
          (∀ e, w.2 = .error e → RunsAfterMoves (.putReceived b data ok) s fun t => msgRefused w.1 t h 5 e.1) ∧
          (w.2 = .ok () → RunsAfterMoves (.putReceived b data ok) s fun t => ∃ u, msgDelivered w.1 u h ∧
            t = if isResult a h then advanceRound (u.modArmed c fun a => { a with resultIn := true }) c else u)) ∧
        (ok = false → RunsAfterMoves (.putReceived b data ok) s fun t => ∃ bytes : List Byte, bytes.length = h.length ∧
          let w := writeClaim { s with freeCtr := s.freeCtr + h.length } a.claim h.target bytes
          (∀ e, w.2 = .error e → msgRefused w.1 t h 5 e.1) ∧ (w.2 = .ok () → receiptSent w.1 t h 1 0)))) ∧
    (∀ c a, msgHere s 3 b h → msgRound s h c a →
      (resolveTally s h.claim (bits h.target 0 16) = none → Runs (.signalReceived b) s fun t => msgRefused s t h 3 0) ∧
      ∀ n, n < 1024 → resolveTally s h.claim (bits h.target 0 16) = some n →
        ((s.tally n).poisoned = true → Runs (.signalReceived b) s fun t => msgRefused s t h 5 (s.tally n).cause) ∧
        ((s.tally n).poisoned = false → Runs (.signalReceived b) s fun t =>
          ∃ u, tallySet s u n ((s.tally n).value + BitVec.ofNat 32 (bits h.target 32 32)) ∧ msgDelivered u t h)) ∧
    (msgHere s 4 b h →
      ((∀ x ∈ s.link.xfers, ¬ (x.id = h.xfer ∧ x.dest = h.src)) → Runs (.receiptReceived b) s fun t =>
        OnlyParts [.link] s t ∧ t.link = { s.link with late := satInc 32 s.link.late }) ∧
      ∀ x, (s.link.xfers.find? fun x => x.id == h.xfer && decide (x.dest = h.src)) = some x →
        (h.status = 0 → x.kind = .signal ∨ x.kind = .result ∨ s.armed x.ctrl = none → Runs (.receiptReceived b) s fun t =>
          OnlyParts [.link] s t ∧ t.link = { s.link with xfers := s.link.xfers.filter fun y => y.id != x.id }) ∧
        (h.status = 1 → x.crcFails = 0 → ∀ d, routeFrom s x.dest = .dir d → Runs (.receiptReceived b) s fun t => OnlyParts [.link] s t ∧
          t.link = { queued s d { vc := kindVc (MsgHeader.read x.header).kind, dest := x.dest, xfer := some x.id, header := some x.header, data := x.data } with
            xfers := s.link.xfers.map fun z => if z.id = x.id then { x with crcFails := 1, awaiting := false } else z }) ∧
        ((s.armed x.ctrl).isSome = true → x.ctrl < 16 → (∀ y ∈ s.link.xfers, y.id = x.id → y = x) → ∀ cause,
          (h.status = 1 ∧ x.crcFails ≠ 0 ∧ cause = 0x0512) ∨ (h.status = 2 ∧ cause = 0x0513) ∨ (h.status = 3 ∧ cause = 0x0515) ∨
            (h.status = 4 ∧ cause = 0x0514) ∨ (5 ≤ h.status ∧ cause = h.cause) → Runs (.receiptReceived b) s fun t => roundFails s t x.ctrl cause x.dest)) ∧
    (msgHere s 5 b h → let gone := s.link.inbox.filter fun m => decide (m.header ≠ [] ∧ (MsgHeader.read m.header).dest = h.dest ∧
        (MsgHeader.read m.header).src = h.src ∧ (MsgHeader.read m.header).xfer = h.xfer)
      Runs (.abortReceived b) s fun t => ∃ u, OnlyParts [.link] s u ∧
        u.link = { s.link with ports := u.link.ports, inbox := s.link.inbox.filter fun m => !gone.contains m } ∧
        (∀ p, p < 12 → u.port p = { s.port p with
          owed := (s.port p).owed ++ ((gone.flatMap (·.early)).filter fun q => q.1 == p).map fun q => (q.2.vc, q.2.dclass, 1) }) ∧
        receiptSent u t h (if s.redealing then 2 else 4) 0)) ∧
  (∀ (s : State) (id : Nat), diesUp s = true →
    ((∀ x ∈ s.link.xfers, ¬ (x.id = id ∧ x.awaiting = true)) → exec (.receiptTimeout id) s = .next s) ∧
    ∀ x, s.link.xfers.find? (·.id == id) = some x → x.awaiting = true → (s.armed x.ctrl).isSome = true → x.ctrl < 16 →
      Runs (.receiptTimeout id) s fun t => roundFails s t x.ctrl 0x0516 x.dest) ∧
  ∀ (s : State) (p cls : Nat) (trick : Bool) (dest : Seat) (b data trailer : List Byte), diesUp s = true → let h := MsgHeader.read b
    let x := s.port p
    let goal := if trick then dest else h.dest
    let run := Instr.messageForward p cls trick dest b data trailer
    (x.st ≠ .up ∨ goal = ownSeat s → exec run s = .next s) ∧
    (x.st = .up → goal ≠ ownSeat s →
      (∀ d, routeOn s x.dir goal = .dir d → exec run s = .next { s with
        link := queued s d (if trick then { vc := 2, dclass := nextClass s x.dir d cls, own := false, dest := dest, data := data }
          else { vc := kindVc h.kind, dclass := nextClass s x.dir d cls, own := false, dest := h.dest, header := some b, data := data
                 trailer := if data.isEmpty then none else some trailer })
        rounds := { s.rounds with forwarded := satInc 32 s.rounds.forwarded } }) ∧
      ((∀ d, routeOn s x.dir goal ≠ .dir d) → let u := { s with rounds := { s.rounds with noRoute := satInc 32 s.rounds.noRoute } }
        (trick = true ∨ 4 ≤ h.kind ∨ b = [] → exec run s = .next u) ∧ (trick = false → h.kind < 4 → b ≠ [] → Runs run s fun t => receiptSent u t h 5 0x0506)))

/-- Rounds: arming and disarming (R268, R269), steps (R272, R275), hands (R272, R246) and the pass timeout (R278). -/
def Obligations.RoundCommands : Prop :=
  (∀ (s : State) (n seq l : Nat) (lv : Level) (b : List Byte), n < 8 →
    (roundCmd s n seq l lv b true → let r := tryArm n (field b 6 2) (field b 8 5) s
      (∀ e, r.2 = .error e → Runs (.roundArm n seq l) s fun t => itemFails t n seq e.1 ∧ othersStay s t n seq ∧ t.rounds = s.rounds) ∧
      (r.2 = .ok () → Runs (.roundArm n seq l) s fun t => cmdPassed t n seq l lv b ∧ ∃ c a, c < 16 ∧ s.armed c = none ∧ t.armed c = some a ∧
        a.claim = n ∧ a.round = field b 6 2 ∧ a.deal = 0 ∧ a.dealing = false ∧ a.sent = 0 ∧ a.landed = [] ∧
        ∀ k, k ≠ c → ctrlStays s t k)) ∧
    (roundCmd s n seq l lv b false →
      ((∀ c a, c < 16 → s.armed c = some a → ¬ (a.claim = n ∧ a.round = field b 6 2)) → Runs (.roundDisarm n seq l) s fun t =>
        itemFails t n seq 0x0501 ∧ t.rounds = s.rounds) ∧
      ∀ c a, roundOf s n (field b 6 2) = some c → s.armed c = some a →
        (a.dealing = true → Runs (.roundDisarm n seq l) s fun t => roundFails s t c 0x0509 (0, 0, 0)) ∧
        (a.dealing = false → Runs (.roundDisarm n seq l) s fun t => levelOf t n seq l = some (cmdDone lv b) ∧
          tget t.rounds.ctrls c = { tget s.rounds.ctrls c with armed := none } ∧ ∀ k, k ≠ c → tget t.rounds.ctrls k = tget s.rounds.ctrls k))) ∧
  (∀ (s : State) (c : Nat), diesUp s = true →
    (s.armed c = none → exec (.roundStepTrigger c) s = .next s ∧ exec (.roundHandSend c) s = .next s ∧ exec (.passTimeout c) s = .next s) ∧
    ∀ a, c < 16 → s.armed c = some a →
      (barrierPassed s a = false ∨ s.redealing = true ∨ shoeHalted s a.claim = true → exec (.roundStepTrigger c) s = .next s) ∧
      (a.sendDue = false ∨ stillWaits a.readyWait ∨ s.redealing = true ∨ shoeHalted s a.claim = true →
        exec (.roundHandSend c) s = .next s) ∧
      (barrierPassed s a = false → Runs (.passTimeout c) s fun t => roundFails s t c 0x0507 (0, 0, 0)) ∧
      (∀ k, barrierPassed s a = true → a.sendDue = true → a.readyWait = .waiting k →
        Runs (.passTimeout c) s fun t => roundFails s t c 0x0507 a.downstream) ∧
      (barrierPassed s a = true → ¬ (a.sendDue = true ∧ ∃ k, a.readyWait = .waiting k) →
        let waits := a.dealing = true ∧ 0 < a.trig ∧ a.trig < a.seatCount ∧ a.comp = a.trig ∧ a.hasLanded a.trig = false
        (waits → Runs (.passTimeout c) s fun t => roundFails s t c 0x0507 a.upstream) ∧ (¬ waits → exec (.passTimeout c) s = .next s))) ∧
  (∀ (s : State) (c : Nat) (a : Armed), roundRuns s c a →
    (a.dealing = false → stillWaits a.startWait → exec (.roundStepTrigger c) s = .next s) ∧
    (∀ cause, a.dealing = false → a.startWait = .failed cause → Runs (.roundStepTrigger c) s fun t => roundFails s t c cause (0, 0, 0)) ∧
    (a.dealing = false → a.startWait = .met →
      let fenced := (maskCores a.coreMask).any fun k => (tget s.fences.cores k).fenced
      (fenced = true → Runs (.roundStepTrigger c) s fun t => roundFails s t c 0x0508 (0, 0, 0)) ∧
      (fenced = false → let r := dealBitmap s a
        (∀ e, r.2 = .error e → Runs (.roundStepTrigger c) s fun t => roundFails s t c e.1 (0, 0, 0)) ∧
        ∀ bm, r.2 = .ok bm → a.rank < a.seatCount → Runs (.roundStepTrigger c) s fun t =>
          roundIs s t c (waitsBegun s { dealStarts a bm with trig := 1 }) ∧ ∃ m, stepMacro s c (dealStarts a bm) 0 false m ∧ t.dl.macros = s.dl.macros ++ [m])) ∧
    (a.dealing = true → ¬ (a.trig < a.seatCount ∧ a.comp = a.trig ∧ a.hasLanded a.trig = true) → exec (.roundStepTrigger c) s = .next s) ∧
    (a.dealing = true → a.trig < a.seatCount → a.comp = a.trig → a.hasLanded a.trig = true → ∀ r, a.plan.getD a.trig none = some r →
      Runs (.roundStepTrigger c) s fun t => OnlyParts [.dl, .rounds] s t ∧ roundIs s t c (waitsBegun s (lastPassed a)) ∧
        ∃ m, stepMacro s c a a.trig r m ∧ t.dl.macros = s.dl.macros ++ [m])) ∧
  (∀ (s : State) (c : Nat) (a : Armed) (cause : Nat), diesUp s = true → c < 16 → s.armed c = some a → a.sendDue = true → s.redealing = false →
    shoeHalted s a.claim = false → a.readyWait = .failed cause → Runs (.roundHandSend c) s fun t => roundFails s t c cause a.downstream) ∧
  ∀ (s : State) (c : Nat) (a : Armed), handDue s c a → let r := gatherHand s a a.sendStep.1 a.sendStep.2
    (∀ e, r.2 = .error e → Runs (.roundHandSend c) s fun t => roundFails s t c e.1 a.downstream) ∧
    ∀ data, r.2 = .ok data → routeFrom s a.downstream ≠ .none → Runs (.roundHandSend c) s fun t => roundIs s t c (waitsBegun s { a with sent := a.sent + 1, readyWait := .idle }) ∧
      ∃ x, t.link.xfers = s.link.xfers ++ [x] ∧ x.ctrl = c ∧ x.kind = .hand a.sent ∧ x.dest = a.downstream ∧ x.data = data ∧ x.id = s.link.nextXfer % 2 ^ 32 ∧
        ∀ d, routeFrom s a.downstream = .dir d → (tget t.link.groups d).msgs = (if d < 6 then (tget s.link.groups d).msgs ++
          [{ vc := 0, dest := a.downstream, xfer := some x.id, header := some x.header, data := data }] else (tget s.link.groups d).msgs)

/-- The nine macro-instructions: their start (R117, R118) and their dispatch with its checks (R93, R118, R122, R123, R139, R141 to R144,
R171). -/
def Obligations.MacroCommands : Prop :=
  (∀ (s : State) (n seq l : Nat) (lv : Level) (b : List Byte), cmdStarts s n seq l 0x01 lv b →
    ∀ i code, (i, code) ∈ [(Instr.matmul n seq l, 1), (.attend n seq l, 2), (.attendBwd n seq l, 3), (.sfn n seq l, 4), (.norm n seq l, 5),
      (.reduceCmd n seq l, 6), (.hoist n seq l, 7), (.convertCmd n seq l, 8), (.assayRerank n seq l, 9)] →
      (field b 6 1 ≠ code → exec i s = .next s) ∧
      (field b 6 1 = code → Runs i s fun t => othersStay s t n seq ∧ OnlyParts [.dl] s t ∧
        ∃ lane, levelOf t n seq l = some (cmdHeld s.now lv b (.macroWait lane)) ∧ (∀ k g, lv.kind = .lane k g → lane = k) ∧
          ((∀ k g, lv.kind ≠ .lane k g) → laneChosen s n (field b 7 1) 16 lane))) ∧
  (∀ (s : State) (n seq l g : Nat), (∀ lv a b, cmdRuns s n seq l g lv a b → ∀ lane, a.st ≠ .macroWait lane) →
    exec (.macroDispatch n seq l g) s = .next s) ∧
  ∀ (s : State) (n seq l g : Nat) (lv : Level) (b : List Byte) (lane : Nat), macroWaits s n seq l g lv b lane →
    let run := Instr.macroDispatch n seq l g
    let code := field b 6 1
    let param := field b 0x1C 4
    let fails (cause : Nat) := Runs run s fun t => itemFails t n seq cause ∧ othersStay s t n seq
    (16 ≤ laneQueued s lane → Runs run s fun t => t.dl.macros = s.dl.macros ∧ t.dl.lanes = s.dl.lanes ∧ OnlyParts [.dl] s t) ∧
    (laneQueued s lane < 16 → noneSlotUsed b = false → let r := readDescs n b s
      (∀ e, r.2 = .error e → fails e.1) ∧
      ∀ ds, r.2 = .ok ds →
        (∀ e, descFault code param ds = some e → fails e.1) ∧
        (descFault code param ds = none → let p := readProgram n code (field b 8 5) r.1
          (∀ e, p.2 = .error e → fails e.1) ∧
          ∀ set_, p.2 = .ok set_ →
            (latchTable s code param = none → fails 0x0115) ∧
            ∀ tb, latchTable s code param = some tb → let empty := ds.any fun d => d.any dEmpty
              (empty = true → Runs run s fun t => levelOf t n seq l = some (cmdEnded lv g) ∧ t.dl.macros = s.dl.macros) ∧
              (empty = false → let cuts := partCount (Config.programBucketed set_) ((ds.getD 0 none).getD [])
                (4096 < cuts → fails 0x010A) ∧ (cuts ≤ 4096 → Runs run s fun t => partsMade s t n seq l g lane b ds set_ tb))))

/-- The life of a macro-instruction on its cores: start (R140), the ends of its tile groups (R98, R132, R135, R278), completion (R140,
R276), and P1 (R391). -/
def Obligations.MacroLife : Prop :=
  (∀ (s : State) (p : Nat), diesUp s = true →
    ((∀ m, m.id = p → ¬ partMayStart s m) → (∀ m, findMacro s p = some m → ∀ c ∈ coresFor s m, c < 96) → exec (.macroStart p) s = .next s) ∧
    (findMacro s p = none → exec (.macroComplete p) s = .next s) ∧
    ∀ m, findMacro s p = some m →
      m.phase ≠ .running ∨ m.nextGroup < m.groups ∨ m.stopping = true ∨ m.fencedBy.isSome = true ∨ s.redealing = true →
      exec (.macroComplete p) s = .next s) ∧
  (∀ (s : State) (m : MacroInst), partMayStart s m →
    (∀ c, m.owner = .round c → Runs (.macroStart m.id) s fun t => coresTaken s t m ∧ OnlyParts [.dl] s t) ∧
    ∀ n seq l g, m.owner = .item n seq l g → let r := loadVariant m (coresFor s m) s
      (∀ e i, r.2 = .error e → findItem s n seq = some i → i.fixed = false → Runs (.macroStart m.id) s fun t =>
        itemFails t n seq e.1 ∧ othersStay s t n seq) ∧
      (∀ bs, r.2 = .ok bs → Runs (.macroStart m.id) s fun t => coresTaken s t m)) ∧
  (∀ (s : State) (c ns : Nat), diesUp s = true → (∀ m, groupOf s c m → m.stopping = false ∧ ¬ groupLive m c) → c < 96 →
    exec (.tileGroupEnd c ns none) s = .next s) ∧
  (∀ (s : State) (c ns : Nat) (m : MacroInst), groupOf s c m → let run := Instr.tileGroupEnd c ns none
    (m.stopping = true → RunsAfterMoves run s fun t => m.id ∉ (tget t.dl.cores c).contexts ∧
      ((∀ k, k ≠ c → m.id ∉ (tget s.dl.cores k).contexts) → findMacro t m.id = none)) ∧
    (groupLive m c → (tget s.dl.cores c).faulted m.id = true → (tget s.fences.cores c).fenced = false →
      ∀ n seq l g i, m.owner = .item n seq l g → findItem s n seq = some i → i.fixed = false → RunsAfterMoves run s fun t =>
        itemFails t n seq 0x040A ∧ othersStay s t n seq ∧ t.ecc.unwritten = satInc 32 s.ecc.unwritten) ∧
    ∀ w, groupEnds s c m w → let r := runGroup m w s
      (∀ g, r.2 = .ok g → RunsAfterMoves run s fun t => groupTaken s t c m w g ∧
        (∀ k, k ≠ m.id → let rest : MacroInst → MacroInst := fun x => { x with granted := true, nextBlock := 0, works := [] }
          (findMacro t k).map rest = (findMacro s k).map rest) ∧
        t.dl.items = s.dl.items ∧ t.tiers = r.1.tiers ∧ ∃ ys, t.out = r.1.out ++ ys ∧ ∀ y ∈ ys, ∃ rail mv, y = .avs rail mv) ∧
      (∀ e, r.2 = .error e →
        (∀ n seq l g i, m.owner = .item n seq l g → findItem s n seq = some i → i.fixed = false → RunsAfterMoves run s fun t =>
          itemFails t n seq e.1 ∧ othersStay s t n seq) ∧
        ∀ k, m.owner = .round k → k < 16 → (r.1.armed k).isSome = true → RunsAfterMoves run s fun t => roundFails r.1 t k e.1 (0, 0, 0)) ∧
      (m.code = 4 ∨ m.code = 7 ∨ m.code = 8 → ∀ i, blockRows m w.block = [i] →
        let x := readClaim s m.claim (dAddr (m.desc 0) i.1 i.2.1 i.2.2) (dRow (m.desc 0))
        ∀ bs, x.2 = .ok bs → let w := writeClaim x.1 m.claim (dAddr (m.desc 1) i.1 i.2.1 i.2.2) (padGranule (rowOut m bs))
          w.2 = .ok () → RunsAfterMoves run s fun t => t.tiers = w.1.tiers)) ∧
  (∀ (s : State) (c ns : Nat) (b : HeadFault × Nat × Nat × Nat), diesUp s = true → let u := headFault s b.1 b.2.1 b.2.2.1 b.2.2.2
    diesUp u = true → exec (.tileGroupEnd c ns (some b)) s = exec (.tileGroupEnd c ns none) u) ∧
  (∀ (s : State) (m : MacroInst), diesUp s = true → findMacro s m.id = some m → m.phase = .running → m.groups ≤ m.nextGroup →
    m.stopping = false → m.fencedBy = none → s.redealing = false →
    (partFaulted s m = true → ∀ n seq l g i, m.owner = .item n seq l g → findItem s n seq = some i → i.fixed = false → Runs (.macroComplete m.id) s fun t =>
      itemFails t n seq 0x040A ∧ othersStay s t n seq ∧ t.ecc.unwritten = satInc 32 s.ecc.unwritten) ∧
    (partFaulted s m = false →
    (∀ k, m.owner = .round k → s.armed k = none → exec (.macroComplete m.id) s = .next (removeMacro s m.id)) ∧
    (∀ k a, m.owner = .round k → k < 16 → s.armed k = some a → m.code = 3 → a.comp ≠ 0 → Runs (.macroComplete m.id) s fun t =>
      OnlyParts [.dl] s t ∧ ∃ x, t.dl.macros = s.dl.macros.filter (fun y => y.id != m.id) ++ [x] ∧ x.owner = .round k ∧ x.code = 6 ∧
        x.claim = a.claim ∧ x.phase = .dispatched) ∧
    ∀ n seq l g, m.owner = .item n seq l g → Runs (.macroComplete m.id) s fun t =>
      List.Forall₂ (fun x y => y = { x with carry := y.carry } ∧ (y.carry = x.carry ∨ y.carry = m.carry)) (s.dl.macros.filter fun y => y.id != m.id)
        t.dl.macros ∧ (∀ c, m.id ∉ (tget t.dl.cores c).contexts) ∧ othersStay s t n seq ∧
      ∀ lv, levelOf s n seq l = some lv →
        ((∃ x ∈ s.dl.macros, x.id ≠ m.id ∧ x.owner = m.owner ∧ x.stopping = false) → levelOf t n seq l = some lv) ∧
        ((∀ x ∈ s.dl.macros, x.id ≠ m.id → x.owner = m.owner → x.stopping = true) →
          ∀ a b ps, cmdRuns s n seq l g lv a b → a.st = .macroRun ps → levelOf t n seq l = some (cmdEnded lv g)))) ∧
  ∀ (s : State) (c : Nat), diesUp s = true → c < 96 →
    ((tget s.dl.cores c).contexts ≠ [] → exec (.p1Entry c) s = .next s) ∧
    ((tget s.dl.cores c).contexts = [] → Runs (.p1Entry c) s fun t => OnlyParts [.dl] s t ∧
      tget t.dl.cores c = { tget s.dl.cores c with gated := true, clockMhz := 0, current := none } ∧
      ∀ k, k ≠ c → tget t.dl.cores k = tget s.dl.cores k)

/-- Indexes: binding (R310, R311), unbinding (R312), advances (R322), the close of a window (R319, R322) and backfill (R320, R323). -/
def Obligations.AssayIndexes : Prop :=
  (∀ (s : State) (i va n : Nat), indexReg s i → va < 2 ^ 40 → n < 8 → let run := Instr.asyIndexBind i va n
    let d := dropHold s 0 (asyOff (0x1000 + 16 * i))
    ((s.index i).st ≠ .unbound → exec run s = .next d) ∧
    ((s.index i).st = .unbound → let fails (cause : Nat) := Runs run s fun t => bindFails s t i va n cause
      let r := readClaim d n va 256
      (∀ e, r.2 = .error e → fails 0x0610) ∧
      ∀ h, r.2 = .ok h →
        (headerOk va h = false → fails 0x0610) ∧
        (headerOk va h = true → let p := runEach (slotPage n) (headPages h) r.1
          (∀ e, p.2 = .error e → (e.1 = 0x0401 ∨ e.1 = 0x0402 → fails e.1) ∧ (e.1 ≠ 0x0401 → e.1 ≠ 0x0402 → fails 0x0403)) ∧
          (∀ u, p.2 = .ok u → let q := readHeads n h p.1
            (∀ e, q.2 = .error e → fails 0x0611) ∧
            ∀ heads, q.2 = .ok heads → (veinsOk h heads = false → fails 0x0611) ∧
              (veinsOk h heads = true → Runs run s fun t => indexBecomes s t i (indexBound va n h)))))) ∧
  (∀ (s : State) (i v : Nat), indexReg s i → let x := s.index i
    (x.st = .unbound → Runs (.asyIndexUnbind i v) s fun t =>
      indexBecomes s t i { x with headerVa := v % 2 ^ 40, claim := v / 2 ^ 40 % 8, valid := false }) ∧
    (x.st ≠ .unbound → Runs (.asyIndexUnbind i v) s fun t =>
      ((∀ q ∈ s.asy.batch.getD [], q.index = i → searchLive s q = false) →
        t.index i = { headerVa := v % 2 ^ 40, claim := v / 2 ^ 40 % 8, cause := x.cause }) ∧
      (∀ q ∈ s.asy.batch.getD [], q.index = i → searchLive s q = true → (∀ w ∈ s.asy.waiting, w.index = i → ¬ (w.shoe = q.shoe ∧ w.seq = q.seq)) →
        t.index i = { x with valid := false, closing := some (v % 2 ^ 40, v / 2 ^ 40 % 8) }) ∧ (∀ k, k ≠ i → t.index k = s.index k) ∧
        t.asy.batch = s.asy.batch ∧ t.asy.waiting = s.asy.waiting.filter (fun q => q.index != i) ∧
        ∀ q ∈ s.asy.waiting, q.index = i → searchLive s q = true → itemFails t q.shoe q.seq 0x0601)) ∧
  (∀ (s : State) (v i : Nat), (regAt s 0 (asyOff 0x10)).isSome = true → writesWait s = false → i = v % 65536 → i < 64 → let run := Instr.asyAdvanceWrite v
    let x := s.index i
    (x.st ≠ .bound → exec run s = .next (settlePages s)) ∧
    (x.st = .bound → x.epoch = 2 ^ 32 - 1 → Runs run s fun t => indexBecomes s t i { x with st := .stuck, cause := 0x0612 }) ∧
    (x.st = .bound → x.epoch ≠ 2 ^ 32 - 1 →
      ((∀ k, resolveTally s x.claim (ihTally x.header) = some k → (s.tally k).poisoned = true) → Runs run s fun t =>
        indexBecomes s t i { x with publishPoisoned := true }) ∧
      ∀ k, resolveTally s x.claim (ihTally x.header) = some k → (s.tally k).poisoned = false →
        let ahead := dist32 x.heapTaken (s.tally k).value.toNat
        let want := if ahead < 2 ^ 31 then ahead else 0
        let room := dist32 x.heapTaken (x.heapHead + ihCapacity x.header)
        let r := runEach (fun p u => takeRecord i p (x.epoch + 1) u) (heapRange x.heapTaken (x.heapTaken + min want room)) s
        (∀ e, r.2 = .error e → Runs run s fun t => t.asy = s.asy) ∧
        ∀ skips, r.2 = .ok skips → Runs run s fun t => ∃ head blocked, indexBecomes s t i { x with
          heapTaken := (x.heapTaken + min want room) % 2 ^ 32, epoch := x.epoch + 1, publishPoisoned := false, heapHead := head
          heapBlocked := blocked, skipped := (x.skipped + total skips) % 2 ^ 32, st := if room < want then .stuck else .bound
          cause := if room < want then 0x0613 else x.cause })) ∧
  (∀ (s : State) (v : Nat), (regAt s 0 (asyOff 0x10)).isSome = true → writesWait s = false → v % 65536 = 0xFFFF → Runs (.asyAdvanceWrite v) s fun t =>
    ∀ i < 64, ((s.index i).st ≠ .bound → t.index i = s.index i) ∧
      ((s.index i).st = .bound → (s.index i).epoch = 2 ^ 32 - 1 → t.index i = { s.index i with st := .stuck, cause := 0x0612 })) ∧
  (∀ s : State, diesUp s = true → let u := { s with asy := { s.asy with windowOpen := false } }
    (s.asy.windowOpen = false → exec .assayWindowClose s = .next s) ∧
    (s.asy.windowOpen = true → s.power.level = 0 →
      ((∀ i < 64, advanceDue u i = false) → exec .assayWindowClose s = .next (settlePages u)) ∧
      Runs .assayWindowClose s fun t => t.asy = { u.asy with indexes := t.asy.indexes } ∧
        ∀ i < 64, ((s.index i).st ≠ .bound ∨ ihEager (s.index i).header = false) → t.index i = s.index i)) ∧
  ∀ s : State, diesUp s = true → let cont := s.asy.continuous = true ∨ s.beat.aligned = false
    ((s.asy.windowOpen = true ∧ ¬ cont) ∨ s.asy.batch.isSome = true ∨ s.redealing = true → exec .backfill s = .next s) ∧
    (s.asy.windowOpen = false ∨ cont → s.asy.batch = none → s.redealing = false → s.power.level = 0 → RunsAfterMoves .backfill s fun t =>
      t.asy = { s.asy with indexes := t.asy.indexes } ∧ ∀ i < 64, let x := s.index i
        (x.st = .unbound → t.index i = x) ∧
        (∃ head blocked spilled, t.index i = { x with heapHead := head, heapBlocked := blocked, spilled := spilled }) ∧
        ((∀ k < 64, k ≠ i → (s.index k).st = .unbound) → x.st ≠ .unbound →
          let r := runEach (fun p u => backfillRecord i p u) (heapRange x.heapHead x.heapTaken) s
          (∀ e, r.2 = .error e → t.asy = s.asy) ∧ ∀ sp, r.2 = .ok sp → (t.index i).spilled = (x.spilled + total sp) % 2 ^ 32))

/-- Searches: their start (R309, R315), the forming of a batch in continuous mode (R319, R320) and its end (R317, R318); merges (R318,
R326). -/
def Obligations.AssaySearches : Prop :=
  (∀ (s : State) (n seq l : Nat) (lv : Level) (b : List Byte), cmdStarts s n seq l 0x0B lv b → let r := readAssayDescs n b s
    (field b 6 2 = 0xFFFF → exec (.assaySearch n seq l) s = .next s) ∧ (field b 6 2 ≠ 0xFFFF → exec (.assayMerge n seq l) s = .next s) ∧
    (field b 6 2 ≠ 0xFFFF → let x := s.index (field b 6 2)
      let run := Instr.assaySearch n seq l
      let fails (cause : Nat) := Runs run s fun t => itemFails t n seq cause ∧ othersStay s t n seq ∧ t.asy = s.asy
      (x.st = .unbound ∨ x.closing.isSome = true ∨ x.claim ≠ n → fails 0x0601) ∧
      (x.st ≠ .unbound → x.closing = none → x.claim = n →
        (∀ e, r.2 = .error e → fails e.1) ∧
        ∀ ds, r.2 = .ok ds → let f := assayFault false (8 * sketchBytes x.header) b ds
          (∀ e, f = some e → fails e.1) ∧ (f = none → Runs run s fun t => searchWaits s t n seq l lv b ds ∧ othersStay s t n seq))) ∧
    (field b 6 2 = 0xFFFF →
      let run := Instr.assayMerge n seq l
      let fails (cause : Nat) := RunsAfterMoves run s fun t => itemFails t n seq cause ∧ othersStay s t n seq ∧ t.asy = s.asy
      (∀ e, r.2 = .error e → fails e.1) ∧
      ∀ ds, r.2 = .ok ds →
        (∀ e, assayFault true 0 b ds = some e → fails e.1) ∧
        (assayFault true 0 b ds = none →
          let m := runEach (fun i u => mergeQuery n (field b 8 2) ((ds.getD 0 none).getD []) (field b 0xA 2) i u) (List.range (field b 0xC 2)) r.1
          (∀ e, m.2 = .error e → fails e.1) ∧
          ∀ rows, m.2 = .ok rows → let w := writeResults n (field b 8 2) 0 ((ds.getD 2 none).getD []) rows m.1
            (∀ e, w.2 = .error e → fails e.1) ∧
            (∀ u, w.2 = .ok u → RunsAfterMoves run s fun t => levelOf t n seq l = some (cmdDone lv b) ∧ othersStay s t n seq ∧ t.tiers = w.1.tiers ∧
              t.asy = s.asy)))) ∧
  (∀ s : State, diesUp s = true → let cont := s.asy.continuous = true ∨ s.beat.aligned = false
    (¬ cont ∨ s.asy.batch.isSome = true ∨ s.redealing = true ∨ (∀ q ∈ s.asy.waiting, searchLive s q = false) →
      exec .continuousBatch s = .next s) ∧
    (cont → s.asy.batch = none → s.redealing = false → (∀ q ∈ s.asy.waiting, q.queries ≤ 256) → (∃ q ∈ s.asy.waiting, searchLive s q = true) →
      s.power.level = 0 → Runs .continuousBatch s fun t => ∃ qs, qs ≠ [] ∧ batchFormed s t qs)) ∧
  ∀ s : State, diesUp s = true → (s.asy.batch = none → exec .batchComplete s = .next s) ∧ (s.power.level = 0 →
    (s.asy.batch.isSome = true → RunsAfterMoves .batchComplete s fun t => t.asy.batch = none ∧ (s.asy.continuous = false → s.beat.aligned = true →
      ∀ i < 64, ∀ w, (s.index i).closing = some w → t.index i = { headerVa := w.1, claim := w.2, cause := (s.index i).cause })) ∧
    (∀ qs, s.asy.batch = some qs → (∀ q ∈ qs, searchLive s q = false) → s.asy.continuous = false → s.beat.aligned = true →
      (∀ i < 64, (s.index i).closing = none) → exec .batchComplete s = .next { s with asy := { s.asy with batch := none } }) ∧
    ∀ q, s.asy.batch = some [q] → searchLive s q = true → s.asy.continuous = false → s.beat.aligned = true →
      let r := runSearch q { s with asy := { s.asy with batch := none } }
      (∀ e, r.2 = .error e → RunsAfterMoves .batchComplete s fun t => itemFails t q.shoe q.seq e.1 ∧ othersStay s t q.shoe q.seq) ∧
      ∀ rows, r.2 = .ok rows → RunsAfterMoves .batchComplete s fun t => othersStay s t q.shoe q.seq ∧
        ∀ lv, levelOf s q.shoe q.seq q.level = some lv → levelOf t q.shoe q.seq q.level = some (cmdEnded lv q.granule))
end

