-- ==== Sys2Proof/Laws/Memory.lean ====
section
/-! SUPPORT. Every memory operation keeps the canonical form; what a byte reads after a write. -/

namespace Sys2Proof.Machine

theorem wf_iff (m : List Host.Cell) : Memory.wf m = true ↔ m.Pairwise (fun a b => a.1 < b.1) := by
  induction m with
  | nil => simp [Memory.wf]
  | cons a m ih =>
    cases m with
    | nil => simp [Memory.wf]
    | cons b m =>
      simp only [Memory.wf, Bool.and_eq_true, decide_eq_true_eq, ih]
      constructor
      · rintro ⟨h, k⟩
        refine List.pairwise_cons.2 ⟨fun c hc => ?_, k⟩
        rcases List.mem_cons.1 hc with rfl | hc
        · exact h
        · exact Nat.lt_trans h ((List.pairwise_cons.1 k).1 c hc)
      · intro k
        exact ⟨(List.pairwise_cons.1 k).1 b (by simp), (List.pairwise_cons.1 k).2⟩

theorem wf_nil : Memory.wf [] = true := rfl

theorem wf_filter {m : List Host.Cell} (p : Host.Cell → Bool) (h : Memory.wf m = true) : Memory.wf (m.filter p) = true := by
  rw [wf_iff] at h ⊢
  exact h.filter p

theorem memDrop_wf {m : List Host.Cell} (lo n : Nat) (h : Memory.wf m = true) : Memory.wf (memDrop m lo n) = true :=
  wf_filter _ h

theorem memPut_wf {m : List Host.Cell} (a : Nat) (v : Byte) (h : Memory.wf m = true) : Memory.wf (memPut m a v) = true := by
  rw [wf_iff] at h ⊢
  refine List.pairwise_append.2 ⟨h.filter _, List.pairwise_cons.2 ⟨?_, h.filter _⟩, ?_⟩
  · intro c hc
    simpa using (List.mem_filter.1 hc).2
  · intro c hc d hd
    have h1 : c.1 < a := by simpa using (List.mem_filter.1 hc).2
    rcases List.mem_cons.1 hd with rfl | hd
    · exact h1
    · have h2 : a < d.1 := by simpa using (List.mem_filter.1 hd).2
      exact Nat.lt_trans h1 h2

theorem memPutAll_wf {m : List Host.Cell} (a : Nat) (bs : List Byte) (h : Memory.wf m = true) : Memory.wf (memPutAll m a bs) = true := by
  induction bs generalizing m a with
  | nil => exact h
  | cons b bs ih => exact ih _ (memPut_wf a b h)

theorem memPutOpt_wf {m : List Host.Cell} (a : Nat) (bs : List (Option Byte)) (h : Memory.wf m = true) :
    Memory.wf (memPutOpt m a bs) = true := by
  induction bs generalizing m a with
  | nil => exact h
  | cons b bs ih =>
    cases b with
    | none => exact ih _ (memDrop_wf _ _ h)
    | some b => exact ih _ (memPut_wf a b h)

theorem copyPage_wf (src : List Host.Cell) {dst : List Host.Cell} (a b : Nat) (h : Memory.wf dst = true) :
    Memory.wf (copyPage src dst a b) = true := by
  unfold copyPage
  generalize pageCells src a = l
  have h0 := memDrop_wf (pageBase b) 65536 h
  generalize memDrop dst (pageBase b) 65536 = m at h0
  induction l generalizing m with
  | nil => exact h0
  | cons c l ih => exact ih _ (memPut_wf _ _ h0)

/-- A flash's cells are canonical: sorted, each address once, and no listed byte is 0xFF. -/
def flashOk (c : List Host.Cell) : Prop := Memory.wf c = true ∧ (c.all fun x => x.2 != 0xFF#8) = true

theorem flashOk_drop {c : List Host.Cell} (a n : Nat) (h : flashOk c) : flashOk (memDrop c a n) :=
  ⟨memDrop_wf _ _ h.1, by
    rw [List.all_eq_true] at *
    exact fun x hx => List.all_eq_true.1 h.2 x (List.mem_of_mem_filter hx)⟩

theorem flashOk_put {c : List Host.Cell} (a : Nat) (v : Byte) (hv : v ≠ 0xFF#8) (h : flashOk c) : flashOk (memPut c a v) := by
  refine ⟨memPut_wf _ _ h.1, ?_⟩
  rw [List.all_eq_true]
  intro x hx
  rcases List.mem_append.1 hx with hx | hx
  · exact List.all_eq_true.1 h.2 x (List.mem_of_mem_filter hx)
  · rcases List.mem_cons.1 hx with rfl | hx
    · simpa using hv
    · exact List.all_eq_true.1 h.2 x (List.mem_of_mem_filter hx)

theorem flashPut_ok {c : List Host.Cell} (a : Nat) (bs : List Byte) (h : flashOk c) : flashOk (flashPut c a bs) := by
  induction bs generalizing c a with
  | nil => exact h
  | cons b bs ih =>
    refine ih _ ?_
    split
    · exact flashOk_drop _ _ h
    · exact flashOk_put _ _ (by assumption) h

theorem flashKept_ok (f : Flash) : flashOk (flashKept f).cells := by
  unfold flashKept
  simp only
  induction f.cells with
  | nil => exact ⟨rfl, rfl⟩
  | cons c l ih =>
    rw [List.foldr_cons]
    split
    · exact flashOk_drop _ _ ih
    · exact flashOk_put _ _ (by assumption) ih

theorem find_filter_ne {m : List Host.Cell} {p : Host.Cell → Bool} {b : Nat} (h : ∀ c ∈ m, c.1 = b → p c = true) :
    (m.filter p).find? (fun c => c.1 == b) = m.find? (fun c => c.1 == b) := by
  induction m with
  | nil => rfl
  | cons c m ih =>
    have ih' := ih fun d hd => h d (by simp [hd])
    by_cases hb : c.1 = b
    · have hp := h c (by simp) hb
      simp [hp, hb]
    · by_cases hp : p c = true
      · simp [hp, hb, ih']
      · simp [hp, hb, ih']

/-- The byte written is read back. -/
theorem memGet_memPut_same (m : List Host.Cell) (a : Nat) (v : Byte) : memGet (memPut m a v) a = some v := by
  unfold memGet memPut
  rw [List.find?_append, List.find?_eq_none.2]
  · simp
  · intro c hc
    have : c.1 < a := by simpa using (List.mem_filter.1 hc).2
    simp; omega

/-- Every other byte stays as it was. -/
theorem memGet_memPut_ne (m : List Host.Cell) {a b : Nat} (v : Byte) (h : b ≠ a) :
    memGet (memPut m a v) b = memGet m b := by
  unfold memGet memPut
  congr 1
  rw [List.find?_append]
  by_cases hb : b < a
  · rw [find_filter_ne (b := b) (fun c _ hc => by simp [hc, hb])]
    cases hm : m.find? (fun c => c.1 == b) with
    | some x => rfl
    | none =>
      simp only [Option.none_or]
      rw [List.find?_cons_of_neg (by simp; omega), List.find?_eq_none.2]
      intro c hc
      have : a < c.1 := by simpa using (List.mem_filter.1 hc).2
      simp; omega
  · rw [List.find?_eq_none.2, Option.none_or, List.find?_cons_of_neg (by simp; omega), find_filter_ne]
    · intro c _ hc
      simp [hc]; omega
    · intro c hc
      have : c.1 < a := by simpa using (List.mem_filter.1 hc).2
      simp; omega

/-- Outside a dropped range every byte stays as it was. -/
theorem memGet_memDrop_out (m : List Host.Cell) {lo n b : Nat} (h : b < lo ∨ lo + n ≤ b) : memGet (memDrop m lo n) b = memGet m b := by
  unfold memGet memDrop
  congr 1
  refine find_filter_ne fun c _ hc => ?_
  simp [hc]; omega

/-- Bytes outside a row of written bytes stay as they were. -/
theorem memGet_memPutAll_out (m : List Host.Cell) (a : Nat) (bs : List Byte) {b : Nat} (h : b < a ∨ a + bs.length ≤ b) :
    memGet (memPutAll m a bs) b = memGet m b := by
  induction bs generalizing m a with
  | nil => rfl
  | cons x bs ih =>
    simp only [List.length_cons] at h
    rw [memPutAll, ih _ _ (by omega), memGet_memPut_ne _ _ (by omega)]

/-- Bytes written in a row are read back in the same order. -/
theorem memGet_memPutAll_in (m : List Host.Cell) (a : Nat) (bs : List Byte) (i : Nat) (h : i < bs.length) :
    memGet (memPutAll m a bs) (a + i) = some bs[i] := by
  induction bs generalizing m a i with
  | nil => simp at h
  | cons x bs ih =>
    rw [memPutAll]
    cases i with
    | zero =>
      have := memGet_memPutAll_out (memPut m a x) (a + 1) bs (b := a) (by omega)
      rw [memGet_memPut_same] at this
      simpa using this
    | succ i =>
      rw [show a + (i + 1) = a + 1 + i by omega, ih _ _ _ (by simpa using h)]
      rfl

end Sys2Proof.Machine
end

