-- ==== Sys2Proof/Laws/Moves.lean ====
section
/-! SUPPORT. The relation that says once what an operation may do: which parts of the state it may change, that it keeps
the queue, that it only adds to what was sent, and that it keeps memory canonical. `Moves m s t` names the parts by the
bits of m; `rest` gives back the equality of any other part. -/

namespace Sys2Proof

open Machine

/-- The bit of a part in a mask. -/
def Part.bit : Part → Nat
  | .pending => 0 | .freeCtr => 1 | .now => 2 | .out => 3 | .boot => 4 | .beat => 5 | .cl => 6 | .dl => 7 | .tiers => 8
  | .sync => 9 | .fns => 10 | .redeal => 11 | .fences => 12 | .ecc => 13 | .link => 14 | .rounds => 15 | .dbg => 16
  | .power => 17 | .mgmt => 18 | .pcie => 19 | .net => 20 | .asy => 21 | .held => 22

/-- From s the machine has come to t by operations that change only the parts of the mask. -/
structure Moves (m : Nat) (s t : State) : Prop where
  queue : t.pending = s.pending
  sent : ∃ ys, t.out = s.out ++ ys
  mem : s.memWf = true → t.memWf = true
  rest : ∀ p : Part, m.testBit p.bit = false → p.same s t

theorem Part.same_refl (p : Part) (s : State) : p.same s s := by cases p <;> rfl

theorem Part.same_trans {p : Part} {s t u : State} (h : p.same s t) (k : p.same t u) : p.same s u := by
  cases p <;> exact Eq.trans k h

theorem Moves.refl (m : Nat) (s : State) : Moves m s s := ⟨rfl, ⟨[], by simp⟩, id, fun p _ => p.same_refl s⟩

theorem Moves.trans {m : Nat} {s t u : State} (h : Moves m s t) (k : Moves m t u) : Moves m s u := by
  obtain ⟨ys, hy⟩ := h.sent
  obtain ⟨zs, hz⟩ := k.sent
  exact ⟨k.queue.trans h.queue, ⟨ys ++ zs, by rw [hz, hy, List.append_assoc]⟩, fun w => k.mem (h.mem w),
    fun p hp => Part.same_trans (h.rest p hp) (k.rest p hp)⟩

theorem Moves.mono {k m : Nat} {s t : State} (h : Moves k s t) (hk : k &&& m = k) : Moves m s t :=
  ⟨h.queue, h.sent, h.mem, fun p hp => h.rest p (by rw [← hk, Nat.testBit_and, hp, Bool.and_false])⟩

/-- One more operation, with a mask inside the mask. -/
theorem Moves.step {k m : Nat} {s t u : State} (h : Moves m s t) (g : Moves k t u) (hk : k &&& m = k) : Moves m s u :=
  h.trans (g.mono hk)

/-- A mask inside a mask inside a mask. -/
theorem mask_le {j k m : Nat} (h : k &&& m = k) (g : j &&& k = j) : j &&& m = j := by
  rw [← g, Nat.land_assoc, h]

theorem Moves.foldl {α : Type} {m : Nat} {s t : State} {f : State → α → State} {l : List α} (h : Moves m s t)
    (hf : ∀ (u : State) (x : α), Moves m u (f u x)) : Moves m s (l.foldl f t) := by
  induction l generalizing t with
  | nil => exact h
  | cons x xs ih => exact ih (h.trans (hf t x))

theorem Moves.ite {m : Nat} {s a b : State} {c : Prop} [Decidable c] (h : Moves m s a) (k : Moves m s b) :
    Moves m s (if c then a else b) := by
  split
  · exact h
  · exact k

theorem Moves.ite_fst {α : Type} {m : Nat} {s : State} {a b : State × α} {c : Prop} [Decidable c] (h : Moves m s a.1)
    (k : Moves m s b.1) : Moves m s (if c then a else b).1 := by
  split
  · exact h
  · exact k

theorem Moves.foldl_fst {α β : Type} {m : Nat} {s : State} {a : State × β} {f : State × β → α → State × β} {l : List α}
    (h : Moves m s a.1) (hf : ∀ (u : State × β) (x : α), Moves m u.1 (f u x).1) : Moves m s (l.foldl f a).1 := by
  induction l generalizing a with
  | nil => exact h
  | cons x xs ih => exact ih (h.trans (hf a x))

theorem Moves.of_eq {α : Type} {m : Nat} {s t : State} {r : State × α} {a : α} (e : r = (t, a)) (h : Moves m s r.1) : Moves m s t := by
  rw [e] at h
  exact h

/-- The same of a result that may be absent. -/
def OptMoves (m : Nat) (s : State) (r : Option State) : Prop := ∀ t : State, r = some t → Moves m s t

theorem OptMoves.none (m : Nat) (s : State) : OptMoves m s Option.none := fun _ h => nomatch h

theorem OptMoves.some {m : Nat} {s t : State} (h : Moves m s t) : OptMoves m s (Option.some t) := by
  intro u hu
  cases hu
  exact h

theorem OptMoves.ite {m : Nat} {s : State} {a b : Option State} {c : Prop} [Decidable c] (h : OptMoves m s a) (k : OptMoves m s b) :
    OptMoves m s (if c then a else b) := by
  split
  · exact h
  · exact k

theorem OptMoves.map {α : Type} {m : Nat} {s : State} {r : Option α} {f : α → State} (h : ∀ a, r = Option.some a → Moves m s (f a)) :
    OptMoves m s (r.map f) := by
  intro t ht
  cases r with
  | none => cases ht
  | some a => cases ht; exact h a rfl

/-- A change of parts of the mask that leaves the queue, what was sent and the memories alone. -/
theorem Moves.put {m : Nat} {s t : State} (hq : t.pending = s.pending) (ho : t.out = s.out) (h1 : t.tiers.t1 = s.tiers.t1)
    (h2 : t.tiers.t2 = s.tiers.t2) (h3 : t.boot.flash = s.boot.flash) (hr : ∀ p : Part, m.testBit p.bit = false → p.same s t) :
    Moves m s t :=
  ⟨hq, ⟨[], by simp [ho]⟩, fun w => by simpa only [State.memWf, h1, h2, h3] using w, hr⟩

theorem Moves.put_freeCtr {m : Nat} {s t : State} {v : Nat} (h : Moves m s t) (hk : 2 &&& m = 2) : Moves m s { t with freeCtr := v } :=
  h.trans (Moves.mono (k := 2) (Moves.put (s := t) rfl rfl rfl rfl rfl (by intro p hp; cases p <;> first | rfl | exact absurd hp (by decide))) hk)

theorem Moves.put_held {m : Nat} {s t : State} {v : List Instr} (h : Moves m s t) (hk : 4194304 &&& m = 4194304) : Moves m s { t with held := v } :=
  h.trans (Moves.mono (k := 4194304) (Moves.put (s := t) rfl rfl rfl rfl rfl (by intro p hp; cases p <;> first | rfl | exact absurd hp (by decide))) hk)

theorem Moves.put_now {m : Nat} {s t : State} {v : Nat} (h : Moves m s t) (hk : 4 &&& m = 4) : Moves m s { t with now := v } :=
  h.trans (Moves.mono (k := 4) (Moves.put (s := t) rfl rfl rfl rfl rfl (by intro p hp; cases p <;> first | rfl | exact absurd hp (by decide))) hk)

theorem Moves.put_beat {m : Nat} {s t : State} {v : Beat} (h : Moves m s t) (hk : 32 &&& m = 32) : Moves m s { t with beat := v } :=
  h.trans (Moves.mono (k := 32) (Moves.put (s := t) rfl rfl rfl rfl rfl (by intro p hp; cases p <;> first | rfl | exact absurd hp (by decide))) hk)

theorem Moves.put_cl {m : Nat} {s t : State} {v : Claims} (h : Moves m s t) (hk : 64 &&& m = 64) : Moves m s { t with cl := v } :=
  h.trans (Moves.mono (k := 64) (Moves.put (s := t) rfl rfl rfl rfl rfl (by intro p hp; cases p <;> first | rfl | exact absurd hp (by decide))) hk)

theorem Moves.put_dl {m : Nat} {s t : State} {v : Dealer} (h : Moves m s t) (hk : 128 &&& m = 128) : Moves m s { t with dl := v } :=
  h.trans (Moves.mono (k := 128) (Moves.put (s := t) rfl rfl rfl rfl rfl (by intro p hp; cases p <;> first | rfl | exact absurd hp (by decide))) hk)

theorem Moves.put_sync {m : Nat} {s t : State} {v : Sync} (h : Moves m s t) (hk : 512 &&& m = 512) : Moves m s { t with sync := v } :=
  h.trans (Moves.mono (k := 512) (Moves.put (s := t) rfl rfl rfl rfl rfl (by intro p hp; cases p <;> first | rfl | exact absurd hp (by decide))) hk)

theorem Moves.put_fns {m : Nat} {s t : State} {v : Vector Fn 9} (h : Moves m s t) (hk : 1024 &&& m = 1024) : Moves m s { t with fns := v } :=
  h.trans (Moves.mono (k := 1024) (Moves.put (s := t) rfl rfl rfl rfl rfl (by intro p hp; cases p <;> first | rfl | exact absurd hp (by decide))) hk)

theorem Moves.put_redeal {m : Nat} {s t : State} {v : Redeal} (h : Moves m s t) (hk : 2048 &&& m = 2048) : Moves m s { t with redeal := v } :=
  h.trans (Moves.mono (k := 2048) (Moves.put (s := t) rfl rfl rfl rfl rfl (by intro p hp; cases p <;> first | rfl | exact absurd hp (by decide))) hk)

theorem Moves.put_fences {m : Nat} {s t : State} {v : Fences} (h : Moves m s t) (hk : 4096 &&& m = 4096) : Moves m s { t with fences := v } :=
  h.trans (Moves.mono (k := 4096) (Moves.put (s := t) rfl rfl rfl rfl rfl (by intro p hp; cases p <;> first | rfl | exact absurd hp (by decide))) hk)

theorem Moves.put_ecc {m : Nat} {s t : State} {v : Ecc} (h : Moves m s t) (hk : 8192 &&& m = 8192) : Moves m s { t with ecc := v } :=
  h.trans (Moves.mono (k := 8192) (Moves.put (s := t) rfl rfl rfl rfl rfl (by intro p hp; cases p <;> first | rfl | exact absurd hp (by decide))) hk)

theorem Moves.put_link {m : Nat} {s t : State} {v : Link} (h : Moves m s t) (hk : 16384 &&& m = 16384) : Moves m s { t with link := v } :=
  h.trans (Moves.mono (k := 16384) (Moves.put (s := t) rfl rfl rfl rfl rfl (by intro p hp; cases p <;> first | rfl | exact absurd hp (by decide))) hk)

theorem Moves.put_rounds {m : Nat} {s t : State} {v : Rounds} (h : Moves m s t) (hk : 32768 &&& m = 32768) : Moves m s { t with rounds := v } :=
  h.trans (Moves.mono (k := 32768) (Moves.put (s := t) rfl rfl rfl rfl rfl (by intro p hp; cases p <;> first | rfl | exact absurd hp (by decide))) hk)

theorem Moves.put_dbg {m : Nat} {s t : State} {v : Debug} (h : Moves m s t) (hk : 65536 &&& m = 65536) : Moves m s { t with dbg := v } :=
  h.trans (Moves.mono (k := 65536) (Moves.put (s := t) rfl rfl rfl rfl rfl (by intro p hp; cases p <;> first | rfl | exact absurd hp (by decide))) hk)

theorem Moves.put_power {m : Nat} {s t : State} {v : Power} (h : Moves m s t) (hk : 131072 &&& m = 131072) : Moves m s { t with power := v } :=
  h.trans (Moves.mono (k := 131072) (Moves.put (s := t) rfl rfl rfl rfl rfl (by intro p hp; cases p <;> first | rfl | exact absurd hp (by decide))) hk)

theorem Moves.put_mgmt {m : Nat} {s t : State} {v : Mgmt} (h : Moves m s t) (hk : 262144 &&& m = 262144) : Moves m s { t with mgmt := v } :=
  h.trans (Moves.mono (k := 262144) (Moves.put (s := t) rfl rfl rfl rfl rfl (by intro p hp; cases p <;> first | rfl | exact absurd hp (by decide))) hk)

theorem Moves.put_pcie {m : Nat} {s t : State} {v : Pcie} (h : Moves m s t) (hk : 524288 &&& m = 524288) : Moves m s { t with pcie := v } :=
  h.trans (Moves.mono (k := 524288) (Moves.put (s := t) rfl rfl rfl rfl rfl (by intro p hp; cases p <;> first | rfl | exact absurd hp (by decide))) hk)

theorem Moves.put_net {m : Nat} {s t : State} {v : Net} (h : Moves m s t) (hk : 1048576 &&& m = 1048576) : Moves m s { t with net := v } :=
  h.trans (Moves.mono (k := 1048576) (Moves.put (s := t) rfl rfl rfl rfl rfl (by intro p hp; cases p <;> first | rfl | exact absurd hp (by decide))) hk)

theorem Moves.put_asy {m : Nat} {s t : State} {v : Assay} (h : Moves m s t) (hk : 2097152 &&& m = 2097152) : Moves m s { t with asy := v } :=
  h.trans (Moves.mono (k := 2097152) (Moves.put (s := t) rfl rfl rfl rfl rfl (by intro p hp; cases p <;> first | rfl | exact absurd hp (by decide))) hk)

end Sys2Proof
end

