-- ==== Sys2Proof/Laws/MovesOps.lean ====
section
/-! SUPPORT. What each operation of Machine/Ops.lean may change. -/

set_option linter.unreachableTactic false
set_option linter.unusedTactic false
set_option linter.unusedVariables false

namespace Sys2Proof.Machine

theorem State.emit_moves (s : State) (o : Output) {k0 : Nat} {z0 : State} (hz : Moves k0 z0 s) (hk0 : 8 &&& k0 = 8) : Moves k0 z0 (s.emit o) :=
  hz.trans (Moves.mono ⟨rfl, ⟨[o], rfl⟩, id, by intro p hp; cases p <;> first | rfl | exact absurd hp (by decide)⟩ hk0)

theorem State.draw_moves (s : State) {k0 : Nat} {z0 : State} (hz : Moves k0 z0 s) (hk0 : 2 &&& k0 = 2) :
    Moves k0 z0 (State.draw s) := by
  exact hz.trans ((Moves.put (s := s) (t := (State.draw s)) (m := 2) rfl rfl rfl rfl rfl (by intro p hp; cases p <;> first | rfl | exact absurd hp (by decide))).mono hk0)

theorem postHost_moves (s : State) (fn : Nat) (addr : Nat) (bytes : List Byte) {k0 : Nat} {z0 : State} (hz : Moves k0 z0 s) (hk0 : 8 &&& k0 = 8) :
    Moves k0 z0 (postHost s fn addr bytes) := by
  refine hz.trans ?_
  clear hz
  unfold postHost
  repeat' first
    | with_reducible exact Moves.refl _ _
    | with_reducible assumption
    | with_reducible exact mask_le hk0 (by decide)
    | with_reducible apply Moves.ite
    | with_reducible apply Moves.ite_fst
    | with_reducible (apply State.emit_moves)
    | with_reducible (apply Moves.foldl)
    | with_reducible (apply Moves.foldl_fst)
    | with_reducible (apply Moves.of_eq; assumption)
    | with_reducible intro _
    | dsimp only
    | split

theorem aerLog_moves (s : State) {k0 : Nat} {z0 : State} (hz : Moves k0 z0 s) (hk0 : 524288 &&& k0 = 524288) :
    Moves k0 z0 (aerLog s) := by
  refine hz.trans ?_
  clear hz
  unfold aerLog
  repeat' first
    | with_reducible exact Moves.refl _ _
    | with_reducible assumption
    | with_reducible exact mask_le hk0 (by decide)
    | with_reducible apply Moves.ite
    | with_reducible apply Moves.ite_fst
    | with_reducible (apply Moves.foldl)
    | with_reducible (apply Moves.foldl_fst)
    | with_reducible (apply Moves.of_eq; assumption)
    | with_reducible intro _
    | dsimp only
    | split
    | with_reducible (apply Moves.put_pcie)

theorem readBack_moves (s : State) (r : HostResp) (n : Nat) {k0 : Nat} {z0 : State} (hz : Moves k0 z0 s) (hk0 : 524288 &&& k0 = 524288) :
    Moves k0 z0 (readBack s r n).1 := by
  refine hz.trans ?_
  clear hz
  unfold readBack
  repeat' first
    | with_reducible exact Moves.refl _ _
    | with_reducible assumption
    | with_reducible exact mask_le hk0 (by decide)
    | with_reducible apply Moves.ite
    | with_reducible apply Moves.ite_fst
    | with_reducible (apply aerLog_moves)
    | with_reducible (apply Moves.foldl)
    | with_reducible (apply Moves.foldl_fst)
    | with_reducible (apply Moves.of_eq; assumption)
    | with_reducible intro _
    | dsimp only
    | split

theorem readBack_pmoves (s : State) (r : HostResp) (n : Nat) {z1 : State} {y1 : Option (List Byte)} (he : (readBack s r n) = (z1, y1)) {k0 : Nat} {z0 : State} (hz : Moves k0 z0 s) (hk0 : 524288 &&& k0 = 524288) :
    Moves k0 z0 z1 := by
  simpa only [he] using readBack_moves s r n hz hk0

theorem readHost_moves (s : State) (fn : Nat) (addr : Nat) (len : Nat) (r : HostResp) {k0 : Nat} {z0 : State} (hz : Moves k0 z0 s) (hk0 : 524296 &&& k0 = 524296) :
    Moves k0 z0 (readHost s fn addr len r).1 := by
  refine hz.trans ?_
  clear hz
  unfold readHost
  repeat' first
    | with_reducible exact Moves.refl _ _
    | with_reducible assumption
    | with_reducible exact mask_le hk0 (by decide)
    | with_reducible apply Moves.ite
    | with_reducible apply Moves.ite_fst
    | with_reducible (apply State.emit_moves)
    | with_reducible (apply readBack_moves)
    | with_reducible (apply readBack_pmoves; assumption)
    | with_reducible (apply Moves.foldl)
    | with_reducible (apply Moves.foldl_fst)
    | with_reducible (apply Moves.of_eq; assumption)
    | with_reducible intro _
    | dsimp only
    | split

theorem readHost_pmoves (s : State) (fn : Nat) (addr : Nat) (len : Nat) (r : HostResp) {z1 : State} {y1 : Option (List Byte)} (he : (readHost s fn addr len r) = (z1, y1)) {k0 : Nat} {z0 : State} (hz : Moves k0 z0 s) (hk0 : 524296 &&& k0 = 524296) :
    Moves k0 z0 z1 := by
  simpa only [he] using readHost_moves s fn addr len r hz hk0

theorem State.modFn_moves (s : State) (fn : Nat) (f : Fn → Fn) {k0 : Nat} {z0 : State} (hz : Moves k0 z0 s) (hk0 : 1024 &&& k0 = 1024) :
    Moves k0 z0 (State.modFn s fn f) := by
  exact hz.trans ((Moves.put (s := s) (t := (State.modFn s fn f)) (m := 1024) rfl rfl rfl rfl rfl (by intro p hp; cases p <;> first | rfl | exact absurd hp (by decide))).mono hk0)

theorem State.modCl_moves (s : State) (f : Claims → Claims) {k0 : Nat} {z0 : State} (hz : Moves k0 z0 s) (hk0 : 64 &&& k0 = 64) :
    Moves k0 z0 (State.modCl s f) := by
  exact hz.trans ((Moves.put (s := s) (t := (State.modCl s f)) (m := 64) rfl rfl rfl rfl rfl (by intro p hp; cases p <;> first | rfl | exact absurd hp (by decide))).mono hk0)

theorem State.modDl_moves (s : State) (f : Dealer → Dealer) {k0 : Nat} {z0 : State} (hz : Moves k0 z0 s) (hk0 : 128 &&& k0 = 128) :
    Moves k0 z0 (State.modDl s f) := by
  exact hz.trans ((Moves.put (s := s) (t := (State.modDl s f)) (m := 128) rfl rfl rfl rfl rfl (by intro p hp; cases p <;> first | rfl | exact absurd hp (by decide))).mono hk0)

theorem State.modTiers_moves (s : State) (f : Tiers → Tiers) (h1 : (f s.tiers).t1 = s.tiers.t1) (h2 : (f s.tiers).t2 = s.tiers.t2)
    {k0 : Nat} {z0 : State} (hz : Moves k0 z0 s) (hk0 : 256 &&& k0 = 256) : Moves k0 z0 (s.modTiers f) :=
  hz.trans ((Moves.put (s := s) (t := s.modTiers f) (m := 256) rfl rfl h1 h2 rfl (by intro p hp; cases p <;> first | rfl | exact absurd hp (by decide))).mono hk0)

theorem State.modSync_moves (s : State) (f : Sync → Sync) {k0 : Nat} {z0 : State} (hz : Moves k0 z0 s) (hk0 : 512 &&& k0 = 512) :
    Moves k0 z0 (State.modSync s f) := by
  exact hz.trans ((Moves.put (s := s) (t := (State.modSync s f)) (m := 512) rfl rfl rfl rfl rfl (by intro p hp; cases p <;> first | rfl | exact absurd hp (by decide))).mono hk0)

theorem State.modPower_moves (s : State) (f : Power → Power) {k0 : Nat} {z0 : State} (hz : Moves k0 z0 s) (hk0 : 131072 &&& k0 = 131072) :
    Moves k0 z0 (State.modPower s f) := by
  exact hz.trans ((Moves.put (s := s) (t := (State.modPower s f)) (m := 131072) rfl rfl rfl rfl rfl (by intro p hp; cases p <;> first | rfl | exact absurd hp (by decide))).mono hk0)

theorem avsWrite_moves (s : State) (rail : Nat) (mv : Nat) {k0 : Nat} {z0 : State} (hz : Moves k0 z0 s) (hk0 : 131080 &&& k0 = 131080) :
    Moves k0 z0 (avsWrite s rail mv) := by
  refine hz.trans ?_
  clear hz
  unfold avsWrite
  repeat' first
    | with_reducible exact Moves.refl _ _
    | with_reducible assumption
    | with_reducible exact mask_le hk0 (by decide)
    | with_reducible apply Moves.ite
    | with_reducible apply Moves.ite_fst
    | with_reducible (apply State.emit_moves)
    | with_reducible (apply State.modPower_moves)
    | with_reducible (apply Moves.foldl)
    | with_reducible (apply Moves.foldl_fst)
    | with_reducible (apply Moves.of_eq; assumption)
    | with_reducible intro _
    | dsimp only
    | split

theorem State.modClaim_moves (s : State) (n : Nat) (f : Claim → Claim) {k0 : Nat} {z0 : State} (hz : Moves k0 z0 s) (hk0 : 64 &&& k0 = 64) :
    Moves k0 z0 (State.modClaim s n f) := by
  refine hz.trans ?_
  clear hz
  unfold State.modClaim
  repeat' first
    | with_reducible exact Moves.refl _ _
    | with_reducible assumption
    | with_reducible exact mask_le hk0 (by decide)
    | with_reducible apply Moves.ite
    | with_reducible apply Moves.ite_fst
    | with_reducible (apply State.modCl_moves)
    | with_reducible (apply Moves.foldl)
    | with_reducible (apply Moves.foldl_fst)
    | with_reducible (apply Moves.of_eq; assumption)
    | with_reducible intro _
    | dsimp only
    | split

theorem State.modRing_moves (s : State) (n : Nat) (f : EvtRing → EvtRing) {k0 : Nat} {z0 : State} (hz : Moves k0 z0 s) (hk0 : 64 &&& k0 = 64) :
    Moves k0 z0 (State.modRing s n f) := by
  refine hz.trans ?_
  clear hz
  unfold State.modRing
  repeat' first
    | with_reducible exact Moves.refl _ _
    | with_reducible assumption
    | with_reducible exact mask_le hk0 (by decide)
    | with_reducible apply Moves.ite
    | with_reducible apply Moves.ite_fst
    | with_reducible (apply State.modCl_moves)
    | with_reducible (apply Moves.foldl)
    | with_reducible (apply Moves.foldl_fst)
    | with_reducible (apply Moves.of_eq; assumption)
    | with_reducible intro _
    | dsimp only
    | split

theorem State.modShoe_moves (s : State) (n : Nat) (f : Shoe → Shoe) {k0 : Nat} {z0 : State} (hz : Moves k0 z0 s) (hk0 : 128 &&& k0 = 128) :
    Moves k0 z0 (State.modShoe s n f) := by
  refine hz.trans ?_
  clear hz
  unfold State.modShoe
  repeat' first
    | with_reducible exact Moves.refl _ _
    | with_reducible assumption
    | with_reducible exact mask_le hk0 (by decide)
    | with_reducible apply Moves.ite
    | with_reducible apply Moves.ite_fst
    | with_reducible (apply State.modDl_moves)
    | with_reducible (apply Moves.foldl)
    | with_reducible (apply Moves.foldl_fst)
    | with_reducible (apply Moves.of_eq; assumption)
    | with_reducible intro _
    | dsimp only
    | split

theorem raiseVector_moves (s : State) (fn : Nat) (v : Nat) {k0 : Nat} {z0 : State} (hz : Moves k0 z0 s) (hk0 : 1032 &&& k0 = 1032) :
    Moves k0 z0 (raiseVector s fn v) := by
  refine hz.trans ?_
  clear hz
  unfold raiseVector
  repeat' first
    | with_reducible exact Moves.refl _ _
    | with_reducible assumption
    | with_reducible exact mask_le hk0 (by decide)
    | with_reducible apply Moves.ite
    | with_reducible apply Moves.ite_fst
    | with_reducible (apply State.emit_moves)
    | with_reducible (apply State.modFn_moves)
    | with_reducible (apply Moves.foldl)
    | with_reducible (apply Moves.foldl_fst)
    | with_reducible (apply Moves.of_eq; assumption)
    | with_reducible intro _
    | dsimp only
    | split

theorem raiseSource_moves (s : State) (n : Nat) (src : Nat) {k0 : Nat} {z0 : State} (hz : Moves k0 z0 s) (hk0 : 1032 &&& k0 = 1032) :
    Moves k0 z0 (raiseSource s n src) := by
  refine hz.trans ?_
  clear hz
  unfold raiseSource
  repeat' first
    | with_reducible exact Moves.refl _ _
    | with_reducible assumption
    | with_reducible exact mask_le hk0 (by decide)
    | with_reducible apply Moves.ite
    | with_reducible apply Moves.ite_fst
    | with_reducible (apply raiseVector_moves)
    | with_reducible (apply Moves.foldl)
    | with_reducible (apply Moves.foldl_fst)
    | with_reducible (apply Moves.of_eq; assumption)
    | with_reducible intro _
    | dsimp only
    | split

theorem writeRecords_moves (s : State) (n : Nat) (type : Nat) (cause : Nat) (x4 : List (List Byte)) {k0 : Nat} {z0 : State} (hz : Moves k0 z0 s) (hk0 : 72 &&& k0 = 72) :
    Moves k0 z0 (writeRecords s n type cause x4) := by
  refine hz.trans ?_
  clear hz
  fun_induction writeRecords s n type cause x4
  all_goals repeat' first
    | with_reducible exact Moves.refl _ _
    | with_reducible assumption
    | with_reducible (refine Moves.trans ?_ (by assumption))
    | with_reducible (refine Moves.trans ?_ (Moves.of_eq (by assumption) (by assumption)))
    | with_reducible exact mask_le hk0 (by decide)
    | with_reducible apply Moves.ite
    | with_reducible apply Moves.ite_fst
    | with_reducible (apply State.modRing_moves)
    | with_reducible (apply postHost_moves)
    | with_reducible (apply Moves.foldl)
    | with_reducible (apply Moves.foldl_fst)
    | with_reducible (apply Moves.of_eq; assumption)
    | with_reducible intro _
    | dsimp only
    | split

theorem eventLost_moves (s : State) (n : Nat) {k0 : Nat} {z0 : State} (hz : Moves k0 z0 s) (hk0 : 1096 &&& k0 = 1096) :
    Moves k0 z0 (eventLost s n) := by
  refine hz.trans ?_
  clear hz
  unfold eventLost
  repeat' first
    | with_reducible exact Moves.refl _ _
    | with_reducible assumption
    | with_reducible exact mask_le hk0 (by decide)
    | with_reducible apply Moves.ite
    | with_reducible apply Moves.ite_fst
    | with_reducible (apply State.modRing_moves)
    | with_reducible (apply raiseSource_moves)
    | with_reducible (apply Moves.foldl)
    | with_reducible (apply Moves.foldl_fst)
    | with_reducible (apply Moves.of_eq; assumption)
    | with_reducible intro _
    | dsimp only
    | split

theorem writeEvent_moves (s : State) (n : Nat) (type : Nat) (cause : Nat) (bodies : List (List Byte)) {k0 : Nat} {z0 : State} (hz : Moves k0 z0 s) (hk0 : 1096 &&& k0 = 1096) :
    Moves k0 z0 (writeEvent s n type cause bodies) := by
  refine hz.trans ?_
  clear hz
  unfold writeEvent
  repeat' first
    | with_reducible exact Moves.refl _ _
    | with_reducible assumption
    | with_reducible exact mask_le hk0 (by decide)
    | with_reducible apply Moves.ite
    | with_reducible apply Moves.ite_fst
    | with_reducible (apply State.modRing_moves)
    | with_reducible (apply eventLost_moves)
    | with_reducible (apply raiseSource_moves)
    | with_reducible (apply writeRecords_moves)
    | with_reducible (apply Moves.foldl)
    | with_reducible (apply Moves.foldl_fst)
    | with_reducible (apply Moves.of_eq; assumption)
    | with_reducible intro _
    | dsimp only
    | split

theorem postEvent_moves (s : State) (n : Nat) (type : Nat) (cause : Nat) (bodies : List (List Byte)) {k0 : Nat} {z0 : State} (hz : Moves k0 z0 s) (hk0 : 1096 &&& k0 = 1096) :
    Moves k0 z0 (postEvent s n type cause bodies) := by
  refine hz.trans ?_
  clear hz
  unfold postEvent
  repeat' first
    | with_reducible exact Moves.refl _ _
    | with_reducible assumption
    | with_reducible exact mask_le hk0 (by decide)
    | with_reducible apply Moves.ite
    | with_reducible apply Moves.ite_fst
    | with_reducible (apply State.modRing_moves)
    | with_reducible (apply writeEvent_moves)
    | with_reducible (apply Moves.foldl)
    | with_reducible (apply Moves.foldl_fst)
    | with_reducible (apply Moves.of_eq; assumption)
    | with_reducible intro _
    | dsimp only
    | split

theorem flushEvents_moves (s : State) (n : Nat) {k0 : Nat} {z0 : State} (hz : Moves k0 z0 s) (hk0 : 1096 &&& k0 = 1096) :
    Moves k0 z0 (flushEvents s n) := by
  refine hz.trans ?_
  clear hz
  unfold flushEvents
  repeat' first
    | with_reducible exact Moves.refl _ _
    | with_reducible assumption
    | with_reducible exact mask_le hk0 (by decide)
    | with_reducible apply Moves.ite
    | with_reducible apply Moves.ite_fst
    | with_reducible (apply State.modRing_moves)
    | with_reducible (apply writeEvent_moves)
    | with_reducible (apply Moves.foldl)
    | with_reducible (apply Moves.foldl_fst)
    | with_reducible (apply Moves.of_eq; assumption)
    | with_reducible intro _
    | dsimp only
    | split

theorem State.modItem_moves (s : State) (shoe : Nat) (seq : Nat) (f : Item → Item) {k0 : Nat} {z0 : State} (hz : Moves k0 z0 s) (hk0 : 128 &&& k0 = 128) :
    Moves k0 z0 (State.modItem s shoe seq f) := by
  refine hz.trans ?_
  clear hz
  unfold State.modItem
  repeat' first
    | with_reducible exact Moves.refl _ _
    | with_reducible assumption
    | with_reducible exact mask_le hk0 (by decide)
    | with_reducible apply Moves.ite
    | with_reducible apply Moves.ite_fst
    | with_reducible (apply State.modDl_moves)
    | with_reducible (apply Moves.foldl)
    | with_reducible (apply Moves.foldl_fst)
    | with_reducible (apply Moves.of_eq; assumption)
    | with_reducible intro _
    | dsimp only
    | split

theorem updateLedgerFull_moves (s : State) (n : Nat) {k0 : Nat} {z0 : State} (hz : Moves k0 z0 s) (hk0 : 1096 &&& k0 = 1096) :
    Moves k0 z0 (updateLedgerFull s n) := by
  refine hz.trans ?_
  clear hz
  unfold updateLedgerFull
  repeat' first
    | with_reducible exact Moves.refl _ _
    | with_reducible assumption
    | with_reducible exact mask_le hk0 (by decide)
    | with_reducible apply Moves.ite
    | with_reducible apply Moves.ite_fst
    | with_reducible (apply State.modClaim_moves)
    | with_reducible (apply postEvent_moves)
    | with_reducible (apply Moves.foldl)
    | with_reducible (apply Moves.foldl_fst)
    | with_reducible (apply Moves.of_eq; assumption)
    | with_reducible intro _
    | dsimp only
    | split

end Sys2Proof.Machine
end

