-- ==== Sys2Proof/Laws/MovesMgmtBase.lean ====
section
/-! SUPPORT. What each operation of Machine/MgmtBase.lean may change. -/

set_option linter.unreachableTactic false
set_option linter.unusedTactic false
set_option linter.unusedVariables false

namespace Sys2Proof.Machine

theorem State.modMgmt_moves (s : State) (f : Mgmt → Mgmt) {k0 : Nat} {z0 : State} (hz : Moves k0 z0 s) (hk0 : 262144 &&& k0 = 262144) :
    Moves k0 z0 (State.modMgmt s f) := by
  exact hz.trans ((Moves.put (s := s) (t := (State.modMgmt s f)) (m := 262144) rfl rfl rfl rfl rfl (by intro p hp; cases p <;> first | rfl | exact absurd hp (by decide))).mono hk0)

theorem drivePins_moves (s : State) {k0 : Nat} {z0 : State} (hz : Moves k0 z0 s) (hk0 : 262152 &&& k0 = 262152) :
    Moves k0 z0 (drivePins s) := by
  refine hz.trans ?_
  clear hz
  unfold drivePins
  repeat' first
    | with_reducible exact Moves.refl _ _
    | with_reducible assumption
    | with_reducible exact mask_le hk0 (by decide)
    | with_reducible apply Moves.ite
    | with_reducible apply Moves.ite_fst
    | with_reducible (apply State.emit_moves)
    | with_reducible (apply State.modMgmt_moves)
    | with_reducible (apply Moves.foldl)
    | with_reducible (apply Moves.foldl_fst)
    | with_reducible (apply Moves.of_eq; assumption)
    | with_reducible intro _
    | dsimp only
    | split

theorem mgmtPush_moves (s : State) (e : MgmtEvent) {k0 : Nat} {z0 : State} (hz : Moves k0 z0 s) (hk0 : 262152 &&& k0 = 262152) :
    Moves k0 z0 (mgmtPush s e) := by
  refine hz.trans ?_
  clear hz
  unfold mgmtPush
  repeat' first
    | with_reducible exact Moves.refl _ _
    | with_reducible assumption
    | with_reducible exact mask_le hk0 (by decide)
    | with_reducible apply Moves.ite
    | with_reducible apply Moves.ite_fst
    | with_reducible (apply State.modMgmt_moves)
    | with_reducible (apply drivePins_moves)
    | with_reducible (apply Moves.foldl)
    | with_reducible (apply Moves.foldl_fst)
    | with_reducible (apply Moves.of_eq; assumption)
    | with_reducible intro _
    | dsimp only
    | split

theorem mgmtOem_moves (s : State) (type : Nat) (cause : Nat) (body : List Byte) {k0 : Nat} {z0 : State} (hz : Moves k0 z0 s) (hk0 : 262152 &&& k0 = 262152) :
    Moves k0 z0 (mgmtOem s type cause body) := by
  refine hz.trans ?_
  clear hz
  unfold mgmtOem
  repeat' first
    | with_reducible exact Moves.refl _ _
    | with_reducible assumption
    | with_reducible exact mask_le hk0 (by decide)
    | with_reducible apply Moves.ite
    | with_reducible apply Moves.ite_fst
    | with_reducible (apply State.modMgmt_moves)
    | with_reducible (apply mgmtPush_moves)
    | with_reducible (apply Moves.foldl)
    | with_reducible (apply Moves.foldl_fst)
    | with_reducible (apply Moves.of_eq; assumption)
    | with_reducible intro _
    | dsimp only
    | split

theorem mgmtSensor_moves (s : State) (id : Nat) (prev : Nat) (cur : Nat) {k0 : Nat} {z0 : State} (hz : Moves k0 z0 s) (hk0 : 262152 &&& k0 = 262152) :
    Moves k0 z0 (mgmtSensor s id prev cur) := by
  refine hz.trans ?_
  clear hz
  unfold mgmtSensor
  repeat' first
    | with_reducible exact Moves.refl _ _
    | with_reducible assumption
    | with_reducible exact mask_le hk0 (by decide)
    | with_reducible apply Moves.ite
    | with_reducible apply Moves.ite_fst
    | with_reducible (apply mgmtPush_moves)
    | with_reducible (apply Moves.foldl)
    | with_reducible (apply Moves.foldl_fst)
    | with_reducible (apply Moves.of_eq; assumption)
    | with_reducible intro _
    | dsimp only
    | split

theorem alertLatch_moves (s : State) (b : Nat) {k0 : Nat} {z0 : State} (hz : Moves k0 z0 s) (hk0 : 262152 &&& k0 = 262152) :
    Moves k0 z0 (alertLatch s b) := by
  refine hz.trans ?_
  clear hz
  unfold alertLatch
  repeat' first
    | with_reducible exact Moves.refl _ _
    | with_reducible assumption
    | with_reducible exact mask_le hk0 (by decide)
    | with_reducible apply Moves.ite
    | with_reducible apply Moves.ite_fst
    | with_reducible (apply State.modMgmt_moves)
    | with_reducible (apply drivePins_moves)
    | with_reducible (apply mgmtOem_moves)
    | with_reducible (apply Moves.foldl)
    | with_reducible (apply Moves.foldl_fst)
    | with_reducible (apply Moves.of_eq; assumption)
    | with_reducible intro _
    | dsimp only
    | split

theorem alertClear_moves (s : State) (b : Nat) {k0 : Nat} {z0 : State} (hz : Moves k0 z0 s) (hk0 : 262152 &&& k0 = 262152) :
    Moves k0 z0 (alertClear s b) := by
  refine hz.trans ?_
  clear hz
  unfold alertClear
  repeat' first
    | with_reducible exact Moves.refl _ _
    | with_reducible assumption
    | with_reducible exact mask_le hk0 (by decide)
    | with_reducible apply Moves.ite
    | with_reducible apply Moves.ite_fst
    | with_reducible (apply State.modMgmt_moves)
    | with_reducible (apply drivePins_moves)
    | with_reducible (apply mgmtOem_moves)
    | with_reducible (apply Moves.foldl)
    | with_reducible (apply Moves.foldl_fst)
    | with_reducible (apply Moves.of_eq; assumption)
    | with_reducible intro _
    | dsimp only
    | split

theorem postSteward_moves (s : State) (type : Nat) (cause : Nat) (body : List Byte) {k0 : Nat} {z0 : State} (hz : Moves k0 z0 s) (hk0 : 263240 &&& k0 = 263240) :
    Moves k0 z0 (postSteward s type cause body) := by
  refine hz.trans ?_
  clear hz
  unfold postSteward
  repeat' first
    | with_reducible exact Moves.refl _ _
    | with_reducible assumption
    | with_reducible exact mask_le hk0 (by decide)
    | with_reducible apply Moves.ite
    | with_reducible apply Moves.ite_fst
    | with_reducible (apply mgmtOem_moves)
    | with_reducible (apply postEvent_moves)
    | with_reducible (apply Moves.foldl)
    | with_reducible (apply Moves.foldl_fst)
    | with_reducible (apply Moves.of_eq; assumption)
    | with_reducible intro _
    | dsimp only
    | split

theorem setDev_moves (s : State) (d : DevState) (cause : Nat) {k0 : Nat} {z0 : State} (hz : Moves k0 z0 s) (hk0 : 262168 &&& k0 = 262168) :
    Moves k0 z0 (setDev s d cause) := by
  refine hz.trans ?_
  unfold setDev
  dsimp only
  refine Moves.ite (Moves.refl _ _) ?_
  have h1 : Moves k0 s { s with boot := { s.boot with dev := d } } :=
    by
      refine Moves.mono (k := 16) ?_ (mask_le hk0 (by decide))
      exact Moves.put rfl rfl rfl rfl rfl (by intro p hp; cases p <;> first | rfl | exact absurd hp (by decide))
  generalize ({ s with boot := { s.boot with dev := d } } : State) = t at h1
  have h2 := mgmtOem_moves (mgmtSensor t 0x0100 s.boot.dev.code d.code) 0x0018 0 (leBytes 1 s.boot.dev.code ++ leBytes 1 d.code ++ leBytes 2 cause)
    (mgmtSensor_moves t 0x0100 s.boot.dev.code d.code h1 (mask_le hk0 (by decide))) (mask_le hk0 (by decide))
  exact Moves.ite (alertLatch_moves _ _ h2 (mask_le hk0 (by decide))) h2

end Sys2Proof.Machine
end

