-- ==== Sys2Proof/Laws/MovesLinkBase.lean ====
section
/-! SUPPORT. What each operation of Machine/LinkBase.lean may change. -/

set_option linter.unreachableTactic false
set_option linter.unusedTactic false
set_option linter.unusedVariables false

namespace Sys2Proof.Machine

theorem State.modLink_moves (s : State) (f : Link → Link) {k0 : Nat} {z0 : State} (hz : Moves k0 z0 s) (hk0 : 16384 &&& k0 = 16384) :
    Moves k0 z0 (State.modLink s f) := by
  exact hz.trans ((Moves.put (s := s) (t := (State.modLink s f)) (m := 16384) rfl rfl rfl rfl rfl (by intro p hp; cases p <;> first | rfl | exact absurd hp (by decide))).mono hk0)

theorem State.modPort_moves (s : State) (p : Nat) (f : Port → Port) {k0 : Nat} {z0 : State} (hz : Moves k0 z0 s) (hk0 : 16384 &&& k0 = 16384) :
    Moves k0 z0 (State.modPort s p f) := by
  refine hz.trans ?_
  clear hz
  unfold State.modPort
  repeat' first
    | with_reducible exact Moves.refl _ _
    | with_reducible assumption
    | with_reducible exact mask_le hk0 (by decide)
    | with_reducible apply Moves.ite
    | with_reducible apply Moves.ite_fst
    | with_reducible (apply State.modLink_moves)
    | with_reducible (apply Moves.foldl)
    | with_reducible (apply Moves.foldl_fst)
    | with_reducible (apply Moves.of_eq; assumption)
    | with_reducible intro _
    | dsimp only
    | split

theorem State.modGroup_moves (s : State) (d : Nat) (f : Group → Group) {k0 : Nat} {z0 : State} (hz : Moves k0 z0 s) (hk0 : 16384 &&& k0 = 16384) :
    Moves k0 z0 (State.modGroup s d f) := by
  refine hz.trans ?_
  clear hz
  unfold State.modGroup
  repeat' first
    | with_reducible exact Moves.refl _ _
    | with_reducible assumption
    | with_reducible exact mask_le hk0 (by decide)
    | with_reducible apply Moves.ite
    | with_reducible apply Moves.ite_fst
    | with_reducible (apply State.modLink_moves)
    | with_reducible (apply Moves.foldl)
    | with_reducible (apply Moves.foldl_fst)
    | with_reducible (apply Moves.of_eq; assumption)
    | with_reducible intro _
    | dsimp only
    | split

theorem State.modRounds_moves (s : State) (f : Rounds → Rounds) {k0 : Nat} {z0 : State} (hz : Moves k0 z0 s) (hk0 : 32768 &&& k0 = 32768) :
    Moves k0 z0 (State.modRounds s f) := by
  exact hz.trans ((Moves.put (s := s) (t := (State.modRounds s f)) (m := 32768) rfl rfl rfl rfl rfl (by intro p hp; cases p <;> first | rfl | exact absurd hp (by decide))).mono hk0)

theorem countNoRoute_moves (s : State) {k0 : Nat} {z0 : State} (hz : Moves k0 z0 s) (hk0 : 32768 &&& k0 = 32768) :
    Moves k0 z0 (countNoRoute s) := by
  refine hz.trans ?_
  clear hz
  unfold countNoRoute
  repeat' first
    | with_reducible exact Moves.refl _ _
    | with_reducible assumption
    | with_reducible exact mask_le hk0 (by decide)
    | with_reducible apply Moves.ite
    | with_reducible apply Moves.ite_fst
    | with_reducible (apply State.modRounds_moves)
    | with_reducible (apply Moves.foldl)
    | with_reducible (apply Moves.foldl_fst)
    | with_reducible (apply Moves.of_eq; assumption)
    | with_reducible intro _
    | dsimp only
    | split

theorem enqueue_moves (s : State) (d : Nat) (m : OutMsg) {k0 : Nat} {z0 : State} (hz : Moves k0 z0 s) (hk0 : 16384 &&& k0 = 16384) :
    Moves k0 z0 (enqueue s d m) := by
  refine hz.trans ?_
  clear hz
  unfold enqueue
  repeat' first
    | with_reducible exact Moves.refl _ _
    | with_reducible assumption
    | with_reducible exact mask_le hk0 (by decide)
    | with_reducible apply Moves.ite
    | with_reducible apply Moves.ite_fst
    | with_reducible (apply State.modGroup_moves)
    | with_reducible (apply Moves.foldl)
    | with_reducible (apply Moves.foldl_fst)
    | with_reducible (apply Moves.of_eq; assumption)
    | with_reducible intro _
    | dsimp only
    | split

theorem sendControl_moves (s : State) (h : MsgHeader) {k0 : Nat} {z0 : State} (hz : Moves k0 z0 s) (hk0 : 49152 &&& k0 = 49152) :
    Moves k0 z0 (sendControl s h) := by
  refine hz.trans ?_
  clear hz
  unfold sendControl
  repeat' first
    | with_reducible exact Moves.refl _ _
    | with_reducible assumption
    | with_reducible exact mask_le hk0 (by decide)
    | with_reducible apply Moves.ite
    | with_reducible apply Moves.ite_fst
    | with_reducible (apply State.modLink_moves)
    | with_reducible (apply countNoRoute_moves)
    | with_reducible (apply enqueue_moves)
    | with_reducible (apply Moves.foldl)
    | with_reducible (apply Moves.foldl_fst)
    | with_reducible (apply Moves.of_eq; assumption)
    | with_reducible intro _
    | dsimp only
    | split

theorem sendReceipt_moves (s : State) (h : MsgHeader) (status : Nat) (cause : Nat) {k0 : Nat} {z0 : State} (hz : Moves k0 z0 s) (hk0 : 49152 &&& k0 = 49152) :
    Moves k0 z0 (sendReceipt s h status cause) := by
  refine hz.trans ?_
  clear hz
  unfold sendReceipt
  repeat' first
    | with_reducible exact Moves.refl _ _
    | with_reducible assumption
    | with_reducible exact mask_le hk0 (by decide)
    | with_reducible apply Moves.ite
    | with_reducible apply Moves.ite_fst
    | with_reducible (apply sendControl_moves)
    | with_reducible (apply Moves.foldl)
    | with_reducible (apply Moves.foldl_fst)
    | with_reducible (apply Moves.of_eq; assumption)
    | with_reducible intro _
    | dsimp only
    | split

theorem sendTrick_moves (s : State) (seat : Seat) (msg : List Byte) {k0 : Nat} {z0 : State} (hz : Moves k0 z0 s) (hk0 : 49152 &&& k0 = 49152) :
    Moves k0 z0 (sendTrick s seat msg) := by
  refine hz.trans ?_
  clear hz
  unfold sendTrick
  repeat' first
    | with_reducible exact Moves.refl _ _
    | with_reducible assumption
    | with_reducible exact mask_le hk0 (by decide)
    | with_reducible apply Moves.ite
    | with_reducible apply Moves.ite_fst
    | with_reducible (apply countNoRoute_moves)
    | with_reducible (apply enqueue_moves)
    | with_reducible (apply Moves.foldl)
    | with_reducible (apply Moves.foldl_fst)
    | with_reducible (apply Moves.of_eq; assumption)
    | with_reducible intro _
    | dsimp only
    | split

theorem linkEvent_moves (s : State) (p : Nat) (old : PortState) {k0 : Nat} {z0 : State} (hz : Moves k0 z0 s) (hk0 : 263240 &&& k0 = 263240) :
    Moves k0 z0 (linkEvent s p old) := by
  refine hz.trans ?_
  clear hz
  unfold linkEvent
  repeat' first
    | with_reducible exact Moves.refl _ _
    | with_reducible assumption
    | with_reducible exact mask_le hk0 (by decide)
    | with_reducible apply Moves.ite
    | with_reducible apply Moves.ite_fst
    | with_reducible (apply alertLatch_moves)
    | with_reducible (apply mgmtSensor_moves)
    | with_reducible (apply postSteward_moves)
    | with_reducible (apply Moves.foldl)
    | with_reducible (apply Moves.foldl_fst)
    | with_reducible (apply Moves.of_eq; assumption)
    | with_reducible intro _
    | dsimp only
    | split

theorem setPort_moves (s : State) (p : Nat) (st : PortState) {k0 : Nat} {z0 : State} (hz : Moves k0 z0 s) (hk0 : 279624 &&& k0 = 279624) :
    Moves k0 z0 (setPort s p st) := by
  refine hz.trans ?_
  clear hz
  unfold setPort
  repeat' first
    | with_reducible exact Moves.refl _ _
    | with_reducible assumption
    | with_reducible exact mask_le hk0 (by decide)
    | with_reducible apply Moves.ite
    | with_reducible apply Moves.ite_fst
    | with_reducible (apply State.modPort_moves)
    | with_reducible (apply linkEvent_moves)
    | with_reducible (apply Moves.foldl)
    | with_reducible (apply Moves.foldl_fst)
    | with_reducible (apply Moves.of_eq; assumption)
    | with_reducible intro _
    | dsimp only
    | split

end Sys2Proof.Machine
end

