-- ==== Sys2Proof/Laws/MovesItemOps.lean ====
section
/-! SUPPORT. What each operation of Machine/ItemOps.lean may change. -/

set_option linter.unreachableTactic false
set_option linter.unusedTactic false
set_option linter.unusedVariables false

namespace Sys2Proof.Machine

theorem State.modLevel_moves (s : State) (shoe : Nat) (seq : Nat) (l : Nat) (f : Level → Level) {k0 : Nat} {z0 : State} (hz : Moves k0 z0 s) (hk0 : 128 &&& k0 = 128) :
    Moves k0 z0 (State.modLevel s shoe seq l f) := by
  refine hz.trans ?_
  clear hz
  unfold State.modLevel
  repeat' first
    | with_reducible exact Moves.refl _ _
    | with_reducible assumption
    | with_reducible exact mask_le hk0 (by decide)
    | with_reducible apply Moves.ite
    | with_reducible apply Moves.ite_fst
    | with_reducible (apply State.modItem_moves)
    | with_reducible (apply Moves.foldl)
    | with_reducible (apply Moves.foldl_fst)
    | with_reducible (apply Moves.of_eq; assumption)
    | with_reducible intro _
    | dsimp only
    | split

theorem removeMacro_moves (s : State) (mid : Nat) {k0 : Nat} {z0 : State} (hz : Moves k0 z0 s) (hk0 : 128 &&& k0 = 128) :
    Moves k0 z0 (removeMacro s mid) := by
  refine hz.trans ?_
  clear hz
  unfold removeMacro
  repeat' first
    | with_reducible exact Moves.refl _ _
    | with_reducible assumption
    | with_reducible exact mask_le hk0 (by decide)
    | with_reducible apply Moves.ite
    | with_reducible apply Moves.ite_fst
    | with_reducible (apply State.modDl_moves)
    | with_reducible (apply Moves.foldl)
    | with_reducible (apply Moves.foldl_fst)
    | with_reducible (apply Moves.of_eq; assumption)
    | with_reducible intro _
    | dsimp only
    | split

theorem dropMacro_moves (s : State) (mid : Nat) {k0 : Nat} {z0 : State} (hz : Moves k0 z0 s) (hk0 : 128 &&& k0 = 128) :
    Moves k0 z0 (dropMacro s mid) := by
  refine hz.trans ?_
  clear hz
  unfold dropMacro
  repeat' first
    | with_reducible exact Moves.refl _ _
    | with_reducible assumption
    | with_reducible exact mask_le hk0 (by decide)
    | with_reducible apply Moves.ite
    | with_reducible apply Moves.ite_fst
    | with_reducible (apply State.modDl_moves)
    | with_reducible (apply removeMacro_moves)
    | with_reducible (apply Moves.foldl)
    | with_reducible (apply Moves.foldl_fst)
    | with_reducible (apply Moves.of_eq; assumption)
    | with_reducible intro _
    | dsimp only
    | split

theorem releaseHoldings_moves (s : State) (shoe : Nat) (seq : Nat) {k0 : Nat} {z0 : State} (hz : Moves k0 z0 s) (hk0 : 128 &&& k0 = 128) :
    Moves k0 z0 (releaseHoldings s shoe seq) := by
  refine hz.trans ?_
  clear hz
  unfold releaseHoldings
  repeat' first
    | with_reducible exact Moves.refl _ _
    | with_reducible assumption
    | with_reducible exact mask_le hk0 (by decide)
    | with_reducible apply Moves.ite
    | with_reducible apply Moves.ite_fst
    | with_reducible (apply State.modDl_moves)
    | with_reducible (apply State.modShoe_moves)
    | with_reducible (apply dropMacro_moves)
    | with_reducible (apply Moves.foldl)
    | with_reducible (apply Moves.foldl_fst)
    | with_reducible (apply Moves.of_eq; assumption)
    | with_reducible intro _
    | dsimp only
    | split

theorem failItem_moves (s : State) (shoe : Nat) (seq : Nat) (o : Outcome) {k0 : Nat} {z0 : State} (hz : Moves k0 z0 s) (hk0 : 128 &&& k0 = 128) :
    Moves k0 z0 (failItem s shoe seq o) := by
  refine hz.trans ?_
  clear hz
  unfold failItem
  repeat' first
    | with_reducible exact Moves.refl _ _
    | with_reducible assumption
    | with_reducible exact mask_le hk0 (by decide)
    | with_reducible apply Moves.ite
    | with_reducible apply Moves.ite_fst
    | with_reducible (apply State.modItem_moves)
    | with_reducible (apply releaseHoldings_moves)
    | with_reducible (apply Moves.foldl)
    | with_reducible (apply Moves.foldl_fst)
    | with_reducible (apply Moves.of_eq; assumption)
    | with_reducible intro _
    | dsimp only
    | split

theorem failAt_moves (s : State) (shoe : Nat) (seq : Nat) (l : Nat) (g : Nat) (cause : Nat) (detail : Nat) {k0 : Nat} {z0 : State} (hz : Moves k0 z0 s) (hk0 : 128 &&& k0 = 128) :
    Moves k0 z0 (failAt s shoe seq l g cause detail) := by
  refine hz.trans ?_
  clear hz
  unfold failAt
  repeat' first
    | with_reducible exact Moves.refl _ _
    | with_reducible assumption
    | with_reducible exact mask_le hk0 (by decide)
    | with_reducible apply Moves.ite
    | with_reducible apply Moves.ite_fst
    | with_reducible (apply failItem_moves)
    | with_reducible (apply Moves.foldl)
    | with_reducible (apply Moves.foldl_fst)
    | with_reducible (apply Moves.of_eq; assumption)
    | with_reducible intro _
    | dsimp only
    | split

theorem completeCmd_moves (s : State) (shoe : Nat) (seq : Nat) (l : Nat) (g : Nat) {k0 : Nat} {z0 : State} (hz : Moves k0 z0 s) (hk0 : 128 &&& k0 = 128) :
    Moves k0 z0 (completeCmd s shoe seq l g) := by
  refine hz.trans ?_
  clear hz
  unfold completeCmd
  repeat' first
    | with_reducible exact Moves.refl _ _
    | with_reducible assumption
    | with_reducible exact mask_le hk0 (by decide)
    | with_reducible apply Moves.ite
    | with_reducible apply Moves.ite_fst
    | with_reducible (apply State.modLevel_moves)
    | with_reducible (apply Moves.foldl)
    | with_reducible (apply Moves.foldl_fst)
    | with_reducible (apply Moves.of_eq; assumption)
    | with_reducible intro _
    | dsimp only
    | split

theorem activate_moves (s : State) (shoe : Nat) (seq : Nat) (l : Nat) (g : Nat) (st : CmdState) {k0 : Nat} {z0 : State} (hz : Moves k0 z0 s) (hk0 : 128 &&& k0 = 128) :
    Moves k0 z0 (activate s shoe seq l g st) := by
  refine hz.trans ?_
  clear hz
  unfold activate
  repeat' first
    | with_reducible exact Moves.refl _ _
    | with_reducible assumption
    | with_reducible exact mask_le hk0 (by decide)
    | with_reducible apply Moves.ite
    | with_reducible apply Moves.ite_fst
    | with_reducible (apply State.modLevel_moves)
    | with_reducible (apply Moves.foldl)
    | with_reducible (apply Moves.foldl_fst)
    | with_reducible (apply Moves.of_eq; assumption)
    | with_reducible intro _
    | dsimp only
    | split

theorem setActive_moves (s : State) (shoe : Nat) (seq : Nat) (l : Nat) (g : Nat) (st : CmdState) {k0 : Nat} {z0 : State} (hz : Moves k0 z0 s) (hk0 : 128 &&& k0 = 128) :
    Moves k0 z0 (setActive s shoe seq l g st) := by
  refine hz.trans ?_
  clear hz
  unfold setActive
  repeat' first
    | with_reducible exact Moves.refl _ _
    | with_reducible assumption
    | with_reducible exact mask_le hk0 (by decide)
    | with_reducible apply Moves.ite
    | with_reducible apply Moves.ite_fst
    | with_reducible (apply State.modLevel_moves)
    | with_reducible (apply Moves.foldl)
    | with_reducible (apply Moves.foldl_fst)
    | with_reducible (apply Moves.of_eq; assumption)
    | with_reducible intro _
    | dsimp only
    | split

theorem State.modTally_moves (s : State) (n : Nat) (f : Tally → Tally) {k0 : Nat} {z0 : State} (hz : Moves k0 z0 s) (hk0 : 512 &&& k0 = 512) :
    Moves k0 z0 (State.modTally s n f) := by
  refine hz.trans ?_
  clear hz
  unfold State.modTally
  repeat' first
    | with_reducible exact Moves.refl _ _
    | with_reducible assumption
    | with_reducible exact mask_le hk0 (by decide)
    | with_reducible apply Moves.ite
    | with_reducible apply Moves.ite_fst
    | with_reducible (apply State.modSync_moves)
    | with_reducible (apply Moves.foldl)
    | with_reducible (apply Moves.foldl_fst)
    | with_reducible (apply Moves.of_eq; assumption)
    | with_reducible intro _
    | dsimp only
    | split

theorem State.modWait_moves (s : State) (c : Nat) (w : Nat) (f : HostWait → HostWait) {k0 : Nat} {z0 : State} (hz : Moves k0 z0 s) (hk0 : 512 &&& k0 = 512) :
    Moves k0 z0 (State.modWait s c w f) := by
  refine hz.trans ?_
  clear hz
  unfold State.modWait
  repeat' first
    | with_reducible exact Moves.refl _ _
    | with_reducible assumption
    | with_reducible exact mask_le hk0 (by decide)
    | with_reducible apply Moves.ite
    | with_reducible apply Moves.ite_fst
    | with_reducible (apply State.modSync_moves)
    | with_reducible (apply Moves.foldl)
    | with_reducible (apply Moves.foldl_fst)
    | with_reducible (apply Moves.of_eq; assumption)
    | with_reducible intro _
    | dsimp only
    | split

theorem endHostWait_moves (s : State) (c : Nat) (w : Nat) (failed : Bool) {k0 : Nat} {z0 : State} (hz : Moves k0 z0 s) (hk0 : 1544 &&& k0 = 1544) :
    Moves k0 z0 (endHostWait s c w failed) := by
  refine hz.trans ?_
  clear hz
  unfold endHostWait
  repeat' first
    | with_reducible exact Moves.refl _ _
    | with_reducible assumption
    | with_reducible exact mask_le hk0 (by decide)
    | with_reducible apply Moves.ite
    | with_reducible apply Moves.ite_fst
    | with_reducible (apply State.modWait_moves)
    | with_reducible (apply raiseSource_moves)
    | with_reducible (apply Moves.foldl)
    | with_reducible (apply Moves.foldl_fst)
    | with_reducible (apply Moves.of_eq; assumption)
    | with_reducible intro _
    | dsimp only
    | split

theorem State.modCtrl_moves (s : State) (c : Nat) (f : RoundCtl → RoundCtl) {k0 : Nat} {z0 : State} (hz : Moves k0 z0 s) (hk0 : 32768 &&& k0 = 32768) :
    Moves k0 z0 (State.modCtrl s c f) := by
  refine hz.trans ?_
  clear hz
  unfold State.modCtrl
  repeat' first
    | with_reducible exact Moves.refl _ _
    | with_reducible assumption
    | with_reducible exact mask_le hk0 (by decide)
    | with_reducible apply Moves.ite
    | with_reducible apply Moves.ite_fst
    | with_reducible (apply State.modRounds_moves)
    | with_reducible (apply Moves.foldl)
    | with_reducible (apply Moves.foldl_fst)
    | with_reducible (apply Moves.of_eq; assumption)
    | with_reducible intro _
    | dsimp only
    | split

theorem State.modArmed_moves (s : State) (c : Nat) (f : Armed → Armed) {k0 : Nat} {z0 : State} (hz : Moves k0 z0 s) (hk0 : 32768 &&& k0 = 32768) :
    Moves k0 z0 (State.modArmed s c f) := by
  refine hz.trans ?_
  clear hz
  unfold State.modArmed
  repeat' first
    | with_reducible exact Moves.refl _ _
    | with_reducible assumption
    | with_reducible exact mask_le hk0 (by decide)
    | with_reducible apply Moves.ite
    | with_reducible apply Moves.ite_fst
    | with_reducible (apply State.modCtrl_moves)
    | with_reducible (apply Moves.foldl)
    | with_reducible (apply Moves.foldl_fst)
    | with_reducible (apply Moves.of_eq; assumption)
    | with_reducible intro _
    | dsimp only
    | split

theorem State.modRoundsArmed_moves (s : State) (f : Armed → Armed) {k0 : Nat} {z0 : State} (hz : Moves k0 z0 s) (hk0 : 32768 &&& k0 = 32768) :
    Moves k0 z0 (State.modRoundsArmed s f) := by
  refine hz.trans ?_
  clear hz
  unfold State.modRoundsArmed
  repeat' first
    | with_reducible exact Moves.refl _ _
    | with_reducible assumption
    | with_reducible exact mask_le hk0 (by decide)
    | with_reducible apply Moves.ite
    | with_reducible apply Moves.ite_fst
    | with_reducible (apply State.modRounds_moves)
    | with_reducible (apply Moves.foldl)
    | with_reducible (apply Moves.foldl_fst)
    | with_reducible (apply Moves.of_eq; assumption)
    | with_reducible intro _
    | dsimp only
    | split

theorem testTally_moves (s : State) (n : Nat) {k0 : Nat} {z0 : State} (hz : Moves k0 z0 s) (hk0 : 34440 &&& k0 = 34440) :
    Moves k0 z0 (testTally s n) := by
  refine hz.trans ?_
  clear hz
  unfold testTally
  repeat' first
    | with_reducible exact Moves.refl _ _
    | with_reducible assumption
    | with_reducible exact mask_le hk0 (by decide)
    | with_reducible apply Moves.ite
    | with_reducible apply Moves.ite_fst
    | with_reducible (apply State.modRoundsArmed_moves)
    | with_reducible (apply completeCmd_moves)
    | with_reducible (apply endHostWait_moves)
    | with_reducible (apply Moves.foldl)
    | with_reducible (apply Moves.foldl_fst)
    | with_reducible (apply Moves.of_eq; assumption)
    | with_reducible intro _
    | dsimp only
    | split

theorem State.setTrick_moves (s : State) (k : Nat) (t : Option Trick) {k0 : Nat} {z0 : State} (hz : Moves k0 z0 s) (hk0 : 512 &&& k0 = 512) :
    Moves k0 z0 (State.setTrick s k t) := by
  refine hz.trans ?_
  clear hz
  unfold State.setTrick
  repeat' first
    | with_reducible exact Moves.refl _ _
    | with_reducible assumption
    | with_reducible exact mask_le hk0 (by decide)
    | with_reducible apply Moves.ite
    | with_reducible apply Moves.ite_fst
    | with_reducible (apply State.modSync_moves)
    | with_reducible (apply Moves.foldl)
    | with_reducible (apply Moves.foldl_fst)
    | with_reducible (apply Moves.of_eq; assumption)
    | with_reducible intro _
    | dsimp only
    | split

theorem beginWaits_moves (s : State) (c : Nat) {k0 : Nat} {z0 : State} (hz : Moves k0 z0 s) (hk0 : 32768 &&& k0 = 32768) :
    Moves k0 z0 (beginWaits s c) := by
  refine hz.trans ?_
  clear hz
  unfold beginWaits
  repeat' first
    | with_reducible exact Moves.refl _ _
    | with_reducible assumption
    | with_reducible exact mask_le hk0 (by decide)
    | with_reducible apply Moves.ite
    | with_reducible apply Moves.ite_fst
    | with_reducible (apply State.modArmed_moves)
    | with_reducible (apply Moves.foldl)
    | with_reducible (apply Moves.foldl_fst)
    | with_reducible (apply Moves.of_eq; assumption)
    | with_reducible intro _
    | dsimp only
    | split

theorem applyRelease_moves (s : State) (k : Nat) (g : Nat) {k0 : Nat} {z0 : State} (hz : Moves k0 z0 s) (hk0 : 34440 &&& k0 = 34440) :
    Moves k0 z0 (applyRelease s k g) := by
  refine hz.trans ?_
  clear hz
  unfold applyRelease
  repeat' first
    | with_reducible exact Moves.refl _ _
    | with_reducible assumption
    | with_reducible exact mask_le hk0 (by decide)
    | with_reducible apply Moves.ite
    | with_reducible apply Moves.ite_fst
    | with_reducible (apply State.modTally_moves)
    | with_reducible (apply State.setTrick_moves)
    | with_reducible (apply beginWaits_moves)
    | with_reducible (apply testTally_moves)
    | with_reducible (apply Moves.foldl)
    | with_reducible (apply Moves.foldl_fst)
    | with_reducible (apply Moves.of_eq; assumption)
    | with_reducible intro _
    | dsimp only
    | split

theorem collectArrival_moves (s : State) (k : Nat) (origin : Seat) {k0 : Nat} {z0 : State} (hz : Moves k0 z0 s) (hk0 : 50824 &&& k0 = 50824) :
    Moves k0 z0 (collectArrival s k origin) := by
  refine hz.trans ?_
  clear hz
  unfold collectArrival
  repeat' first
    | with_reducible exact Moves.refl _ _
    | with_reducible assumption
    | with_reducible exact mask_le hk0 (by decide)
    | with_reducible apply Moves.ite
    | with_reducible apply Moves.ite_fst
    | with_reducible (apply State.setTrick_moves)
    | with_reducible (apply applyRelease_moves)
    | with_reducible (apply sendTrick_moves)
    | with_reducible (apply Moves.foldl)
    | with_reducible (apply Moves.foldl_fst)
    | with_reducible (apply Moves.of_eq; assumption)
    | with_reducible intro _
    | dsimp only
    | split

theorem arriveFrom_moves (x0 : Nat) (x1 : State) (x2 : Nat) {k0 : Nat} {z0 : State} (hz : Moves k0 z0 x1) (hk0 : 50824 &&& k0 = 50824) :
    Moves k0 z0 (arriveFrom x0 x1 x2) := by
  refine hz.trans ?_
  clear hz
  fun_induction arriveFrom x0 x1 x2
  all_goals repeat' first
    | with_reducible exact Moves.refl _ _
    | with_reducible assumption
    | with_reducible (refine Moves.trans ?_ (by assumption))
    | with_reducible (refine Moves.trans ?_ (Moves.of_eq (by assumption) (by assumption)))
    | with_reducible exact mask_le hk0 (by decide)
    | with_reducible apply Moves.ite
    | with_reducible apply Moves.ite_fst
    | with_reducible (apply State.setTrick_moves)
    | with_reducible (apply collectArrival_moves)
    | with_reducible (apply sendTrick_moves)
    | with_reducible (apply Moves.foldl)
    | with_reducible (apply Moves.foldl_fst)
    | with_reducible (apply Moves.of_eq; assumption)
    | with_reducible intro _
    | dsimp only
    | split

theorem arriveCheck_moves (s : State) (k : Nat) {k0 : Nat} {z0 : State} (hz : Moves k0 z0 s) (hk0 : 50824 &&& k0 = 50824) :
    Moves k0 z0 (arriveCheck s k) := by
  refine hz.trans ?_
  clear hz
  unfold arriveCheck
  repeat' first
    | with_reducible exact Moves.refl _ _
    | with_reducible assumption
    | with_reducible exact mask_le hk0 (by decide)
    | with_reducible apply Moves.ite
    | with_reducible apply Moves.ite_fst
    | with_reducible (apply arriveFrom_moves)
    | with_reducible (apply Moves.foldl)
    | with_reducible (apply Moves.foldl_fst)
    | with_reducible (apply Moves.of_eq; assumption)
    | with_reducible intro _
    | dsimp only
    | split

theorem failWaiters_moves (s : State) (n : Nat) {k0 : Nat} {z0 : State} (hz : Moves k0 z0 s) (hk0 : 34440 &&& k0 = 34440) :
    Moves k0 z0 (failWaiters s n) := by
  refine hz.trans ?_
  clear hz
  unfold failWaiters
  repeat' first
    | with_reducible exact Moves.refl _ _
    | with_reducible assumption
    | with_reducible exact mask_le hk0 (by decide)
    | with_reducible apply Moves.ite
    | with_reducible apply Moves.ite_fst
    | with_reducible (apply State.modRoundsArmed_moves)
    | with_reducible (apply endHostWait_moves)
    | with_reducible (apply failAt_moves)
    | with_reducible (apply Moves.foldl)
    | with_reducible (apply Moves.foldl_fst)
    | with_reducible (apply Moves.of_eq; assumption)
    | with_reducible intro _
    | dsimp only
    | split

theorem poisonOne_moves (s : State) (n : Nat) (cause : Nat) (origin : Seat) {k0 : Nat} {z0 : State} (hz : Moves k0 z0 s) (hk0 : 34440 &&& k0 = 34440) :
    Moves k0 z0 (poisonOne s n cause origin) := by
  refine hz.trans ?_
  clear hz
  unfold poisonOne
  repeat' first
    | with_reducible exact Moves.refl _ _
    | with_reducible assumption
    | with_reducible exact mask_le hk0 (by decide)
    | with_reducible apply Moves.ite
    | with_reducible apply Moves.ite_fst
    | with_reducible (apply State.modTally_moves)
    | with_reducible (apply failWaiters_moves)
    | with_reducible (apply Moves.foldl)
    | with_reducible (apply Moves.foldl_fst)
    | with_reducible (apply Moves.of_eq; assumption)
    | with_reducible intro _
    | dsimp only
    | split

theorem poisonTrickHere_moves (s : State) (k : Nat) (origin : Seat) {k0 : Nat} {z0 : State} (hz : Moves k0 z0 s) (hk0 : 34440 &&& k0 = 34440) :
    Moves k0 z0 (poisonTrickHere s k origin) := by
  refine hz.trans ?_
  clear hz
  unfold poisonTrickHere
  repeat' first
    | with_reducible exact Moves.refl _ _
    | with_reducible assumption
    | with_reducible exact mask_le hk0 (by decide)
    | with_reducible apply Moves.ite
    | with_reducible apply Moves.ite_fst
    | with_reducible (apply State.setTrick_moves)
    | with_reducible (apply poisonOne_moves)
    | with_reducible (apply Moves.foldl)
    | with_reducible (apply Moves.foldl_fst)
    | with_reducible (apply Moves.of_eq; assumption)
    | with_reducible intro _
    | dsimp only
    | split

theorem poisonTrick_moves (s : State) (k : Nat) (cause : Nat) {k0 : Nat} {z0 : State} (hz : Moves k0 z0 s) (hk0 : 50824 &&& k0 = 50824) :
    Moves k0 z0 (poisonTrick s k cause) := by
  refine hz.trans ?_
  clear hz
  unfold poisonTrick
  repeat' first
    | with_reducible exact Moves.refl _ _
    | with_reducible assumption
    | with_reducible exact mask_le hk0 (by decide)
    | with_reducible apply Moves.ite
    | with_reducible apply Moves.ite_fst
    | with_reducible (apply poisonTrickHere_moves)
    | with_reducible (apply sendTrick_moves)
    | with_reducible (apply Moves.foldl)
    | with_reducible (apply Moves.foldl_fst)
    | with_reducible (apply Moves.of_eq; assumption)
    | with_reducible intro _
    | dsimp only
    | split

theorem poisonTally_moves (s : State) (n : Nat) (cause : Nat) {k0 : Nat} {z0 : State} (hz : Moves k0 z0 s) (hk0 : 50824 &&& k0 = 50824) :
    Moves k0 z0 (poisonTally s n cause) := by
  refine hz.trans ?_
  clear hz
  unfold poisonTally
  repeat' first
    | with_reducible exact Moves.refl _ _
    | with_reducible assumption
    | with_reducible exact mask_le hk0 (by decide)
    | with_reducible apply Moves.ite
    | with_reducible apply Moves.ite_fst
    | with_reducible (apply poisonOne_moves)
    | with_reducible (apply poisonTrick_moves)
    | with_reducible (apply Moves.foldl)
    | with_reducible (apply Moves.foldl_fst)
    | with_reducible (apply Moves.of_eq; assumption)
    | with_reducible intro _
    | dsimp only
    | split

theorem applyTally_moves (s : State) (n : Nat) (v : Word32) {k0 : Nat} {z0 : State} (hz : Moves k0 z0 s) (hk0 : 50824 &&& k0 = 50824) :
    Moves k0 z0 (applyTally s n v) := by
  refine hz.trans ?_
  clear hz
  unfold applyTally
  repeat' first
    | with_reducible exact Moves.refl _ _
    | with_reducible assumption
    | with_reducible exact mask_le hk0 (by decide)
    | with_reducible apply Moves.ite
    | with_reducible apply Moves.ite_fst
    | with_reducible (apply State.modTally_moves)
    | with_reducible (apply arriveCheck_moves)
    | with_reducible (apply testTally_moves)
    | with_reducible (apply Moves.foldl)
    | with_reducible (apply Moves.foldl_fst)
    | with_reducible (apply Moves.of_eq; assumption)
    | with_reducible intro _
    | dsimp only
    | split

theorem agentAdd_moves (s : State) (n : Nat) (v : Nat) {k0 : Nat} {z0 : State} (hz : Moves k0 z0 s) (hk0 : 50824 &&& k0 = 50824) :
    Moves k0 z0 (agentAdd s n v) := by
  refine hz.trans ?_
  clear hz
  unfold agentAdd
  repeat' first
    | with_reducible exact Moves.refl _ _
    | with_reducible assumption
    | with_reducible exact mask_le hk0 (by decide)
    | with_reducible apply Moves.ite
    | with_reducible apply Moves.ite_fst
    | with_reducible (apply applyTally_moves)
    | with_reducible (apply Moves.foldl)
    | with_reducible (apply Moves.foldl_fst)
    | with_reducible (apply Moves.of_eq; assumption)
    | with_reducible intro _
    | dsimp only
    | split

theorem agentSet_moves (s : State) (n : Nat) (v : Nat) {k0 : Nat} {z0 : State} (hz : Moves k0 z0 s) (hk0 : 50824 &&& k0 = 50824) :
    Moves k0 z0 (agentSet s n v) := by
  refine hz.trans ?_
  clear hz
  unfold agentSet
  repeat' first
    | with_reducible exact Moves.refl _ _
    | with_reducible assumption
    | with_reducible exact mask_le hk0 (by decide)
    | with_reducible apply Moves.ite
    | with_reducible apply Moves.ite_fst
    | with_reducible (apply applyTally_moves)
    | with_reducible (apply Moves.foldl)
    | with_reducible (apply Moves.foldl_fst)
    | with_reducible (apply Moves.of_eq; assumption)
    | with_reducible intro _
    | dsimp only
    | split

theorem armTally_moves (s : State) (n : Nat) (v : Nat) {k0 : Nat} {z0 : State} (hz : Moves k0 z0 s) (hk0 : 50824 &&& k0 = 50824) :
    Moves k0 z0 (armTally s n v) := by
  refine hz.trans ?_
  clear hz
  unfold armTally
  repeat' first
    | with_reducible exact Moves.refl _ _
    | with_reducible assumption
    | with_reducible exact mask_le hk0 (by decide)
    | with_reducible apply Moves.ite
    | with_reducible apply Moves.ite_fst
    | with_reducible (apply State.modTally_moves)
    | with_reducible (apply applyTally_moves)
    | with_reducible (apply Moves.foldl)
    | with_reducible (apply Moves.foldl_fst)
    | with_reducible (apply Moves.of_eq; assumption)
    | with_reducible intro _
    | dsimp only
    | split

theorem poisonClaimTallies_moves (s : State) (c : Nat) {k0 : Nat} {z0 : State} (hz : Moves k0 z0 s) (hk0 : 50824 &&& k0 = 50824) :
    Moves k0 z0 (poisonClaimTallies s c) := by
  refine hz.trans ?_
  clear hz
  unfold poisonClaimTallies
  repeat' first
    | with_reducible exact Moves.refl _ _
    | with_reducible assumption
    | with_reducible exact mask_le hk0 (by decide)
    | with_reducible apply Moves.ite
    | with_reducible apply Moves.ite_fst
    | with_reducible (apply poisonOne_moves)
    | with_reducible (apply poisonTrick_moves)
    | with_reducible (apply Moves.foldl)
    | with_reducible (apply Moves.foldl_fst)
    | with_reducible (apply Moves.of_eq; assumption)
    | with_reducible intro _
    | dsimp only
    | split

theorem windowRefused_moves (s : State) (c : Nat) {k0 : Nat} {z0 : State} (hz : Moves k0 z0 s) (hk0 : 512 &&& k0 = 512) :
    Moves k0 z0 (windowRefused s c) := by
  refine hz.trans ?_
  clear hz
  unfold windowRefused
  repeat' first
    | with_reducible exact Moves.refl _ _
    | with_reducible assumption
    | with_reducible exact mask_le hk0 (by decide)
    | with_reducible apply Moves.ite
    | with_reducible apply Moves.ite_fst
    | with_reducible (apply State.modSync_moves)
    | with_reducible (apply Moves.foldl)
    | with_reducible (apply Moves.foldl_fst)
    | with_reducible (apply Moves.of_eq; assumption)
    | with_reducible intro _
    | dsimp only
    | split

theorem windowOp_moves (s : State) (c : Nat) (n : Nat) (act : State → Nat → State) {k0 : Nat} {z0 : State} (hz : Moves k0 z0 s) (hk0 : 512 &&& k0 = 512) (hk_act : ∀ (v0 : State) (v1 : Nat), Moves k0 v0 (act v0 v1)) :
    Moves k0 z0 (windowOp s c n act) := by
  refine hz.trans ?_
  clear hz
  unfold windowOp
  repeat' first
    | with_reducible exact Moves.refl _ _
    | with_reducible assumption
    | with_reducible exact mask_le hk0 (by decide)
    | with_reducible apply Moves.ite
    | with_reducible apply Moves.ite_fst
    | with_reducible (refine Moves.trans ?_ (hk_act ..))
    | with_reducible (apply windowRefused_moves)
    | with_reducible (apply Moves.foldl)
    | with_reducible (apply Moves.foldl_fst)
    | with_reducible (apply Moves.of_eq; assumption)
    | with_reducible intro _
    | dsimp only
    | split

end Sys2Proof.Machine
end

