-- ==== Sys2Proof/Laws/MovesCmdOps.lean ====
section
/-! SUPPORT. What each operation of Machine/CmdOps.lean may change. -/

set_option linter.unreachableTactic false
set_option linter.unusedTactic false
set_option linter.unusedVariables false

namespace Sys2Proof.Machine

theorem served_moves (s : State) (shoe : Nat) {k0 : Nat} {z0 : State} (hz : Moves k0 z0 s) (hk0 : 128 &&& k0 = 128) :
    Moves k0 z0 (served s shoe) := by
  refine hz.trans ?_
  clear hz
  unfold served
  repeat' first
    | with_reducible exact Moves.refl _ _
    | with_reducible assumption
    | with_reducible exact mask_le hk0 (by decide)
    | with_reducible apply Moves.ite
    | with_reducible apply Moves.ite_fst
    | with_reducible (apply State.modDl_moves)
    | with_reducible (apply Moves.foldl)
    | with_reducible (apply Moves.foldl_fst)
    | with_reducible (apply Moves.of_eq; assumption)
    | with_reducible intro _
    | dsimp only
    | split

theorem passCmd_moves (s : State) (shoe : Nat) (seq : Nat) (l : Nat) (b : List Byte) {k0 : Nat} {z0 : State} (hz : Moves k0 z0 s) (hk0 : 128 &&& k0 = 128) :
    Moves k0 z0 (passCmd s shoe seq l b) := by
  refine hz.trans ?_
  clear hz
  unfold passCmd
  repeat' first
    | with_reducible exact Moves.refl _ _
    | with_reducible assumption
    | with_reducible exact mask_le hk0 (by decide)
    | with_reducible apply Moves.ite
    | with_reducible apply Moves.ite_fst
    | with_reducible (apply State.modLevel_moves)
    | with_reducible (apply served_moves)
    | with_reducible (apply Moves.foldl)
    | with_reducible (apply Moves.foldl_fst)
    | with_reducible (apply Moves.of_eq; assumption)
    | with_reducible intro _
    | dsimp only
    | split

theorem doneCmd_moves (s : State) (shoe : Nat) (seq : Nat) (l : Nat) (g : Nat) (b : List Byte) {k0 : Nat} {z0 : State} (hz : Moves k0 z0 s) (hk0 : 128 &&& k0 = 128) :
    Moves k0 z0 (doneCmd s shoe seq l g b) := by
  refine hz.trans ?_
  clear hz
  unfold doneCmd
  repeat' first
    | with_reducible exact Moves.refl _ _
    | with_reducible assumption
    | with_reducible exact mask_le hk0 (by decide)
    | with_reducible apply Moves.ite
    | with_reducible apply Moves.ite_fst
    | with_reducible (apply completeCmd_moves)
    | with_reducible (apply passCmd_moves)
    | with_reducible (apply Moves.foldl)
    | with_reducible (apply Moves.foldl_fst)
    | with_reducible (apply Moves.of_eq; assumption)
    | with_reducible intro _
    | dsimp only
    | split

theorem heldCmd_moves (s : State) (shoe : Nat) (seq : Nat) (l : Nat) (g : Nat) (b : List Byte) (st : CmdState) {k0 : Nat} {z0 : State} (hz : Moves k0 z0 s) (hk0 : 128 &&& k0 = 128) :
    Moves k0 z0 (heldCmd s shoe seq l g b st) := by
  refine hz.trans ?_
  clear hz
  unfold heldCmd
  repeat' first
    | with_reducible exact Moves.refl _ _
    | with_reducible assumption
    | with_reducible exact mask_le hk0 (by decide)
    | with_reducible apply Moves.ite
    | with_reducible apply Moves.ite_fst
    | with_reducible (apply activate_moves)
    | with_reducible (apply passCmd_moves)
    | with_reducible (apply Moves.foldl)
    | with_reducible (apply Moves.foldl_fst)
    | with_reducible (apply Moves.of_eq; assumption)
    | with_reducible intro _
    | dsimp only
    | split

theorem runTally_moves (s : State) (shoe : Nat) (seq : Nat) (l : Nat) (g : Nat) (b : List Byte) {k0 : Nat} {z0 : State} (hz : Moves k0 z0 s) (hk0 : 50824 &&& k0 = 50824) :
    Moves k0 z0 (runTally s shoe seq l g b) := by
  refine hz.trans ?_
  clear hz
  unfold runTally
  repeat' first
    | with_reducible exact Moves.refl _ _
    | with_reducible assumption
    | with_reducible exact mask_le hk0 (by decide)
    | with_reducible apply Moves.ite
    | with_reducible apply Moves.ite_fst
    | with_reducible (apply applyTally_moves)
    | with_reducible (apply armTally_moves)
    | with_reducible (apply doneCmd_moves)
    | with_reducible (apply failAt_moves)
    | with_reducible (apply heldCmd_moves)
    | with_reducible (apply poisonTally_moves)
    | with_reducible (apply Moves.foldl)
    | with_reducible (apply Moves.foldl_fst)
    | with_reducible (apply Moves.of_eq; assumption)
    | with_reducible intro _
    | dsimp only
    | split

theorem tallyCmd_moves (s : State) (shoe : Nat) (seq : Nat) (l : Nat) (op : Nat) {k0 : Nat} {z0 : State} (hz : Moves k0 z0 s) (hk0 : 50824 &&& k0 = 50824) :
    Moves k0 z0 (tallyCmd s shoe seq l op) := by
  refine hz.trans ?_
  clear hz
  unfold tallyCmd
  repeat' first
    | with_reducible exact Moves.refl _ _
    | with_reducible assumption
    | with_reducible exact mask_le hk0 (by decide)
    | with_reducible apply Moves.ite
    | with_reducible apply Moves.ite_fst
    | with_reducible (apply runTally_moves)
    | with_reducible (apply Moves.foldl)
    | with_reducible (apply Moves.foldl_fst)
    | with_reducible (apply Moves.of_eq; assumption)
    | with_reducible intro _
    | dsimp only
    | split

theorem runIf_moves (s : State) (shoe : Nat) (seq : Nat) (l : Nat) (g : Nat) (b : List Byte) {k0 : Nat} {z0 : State} (hz : Moves k0 z0 s) (hk0 : 128 &&& k0 = 128) :
    Moves k0 z0 (runIf s shoe seq l g b) := by
  refine hz.trans ?_
  clear hz
  unfold runIf
  repeat' first
    | with_reducible exact Moves.refl _ _
    | with_reducible assumption
    | with_reducible exact mask_le hk0 (by decide)
    | with_reducible apply Moves.ite
    | with_reducible apply Moves.ite_fst
    | with_reducible (apply State.modLevel_moves)
    | with_reducible (apply doneCmd_moves)
    | with_reducible (apply failAt_moves)
    | with_reducible (apply Moves.foldl)
    | with_reducible (apply Moves.foldl_fst)
    | with_reducible (apply Moves.of_eq; assumption)
    | with_reducible intro _
    | dsimp only
    | split

theorem endLoop_moves (s : State) (shoe : Nat) (seq : Nat) (l : Nat) (f : LoopFrame) {k0 : Nat} {z0 : State} (hz : Moves k0 z0 s) (hk0 : 128 &&& k0 = 128) :
    Moves k0 z0 (endLoop s shoe seq l f) := by
  refine hz.trans ?_
  clear hz
  unfold endLoop
  repeat' first
    | with_reducible exact Moves.refl _ _
    | with_reducible assumption
    | with_reducible exact mask_le hk0 (by decide)
    | with_reducible apply Moves.ite
    | with_reducible apply Moves.ite_fst
    | with_reducible (apply State.modLevel_moves)
    | with_reducible (apply completeCmd_moves)
    | with_reducible (apply Moves.foldl)
    | with_reducible (apply Moves.foldl_fst)
    | with_reducible (apply Moves.of_eq; assumption)
    | with_reducible intro _
    | dsimp only
    | split

theorem runLoop_moves (s : State) (shoe : Nat) (seq : Nat) (l : Nat) (g : Nat) (b : List Byte) {k0 : Nat} {z0 : State} (hz : Moves k0 z0 s) (hk0 : 128 &&& k0 = 128) :
    Moves k0 z0 (runLoop s shoe seq l g b) := by
  refine hz.trans ?_
  clear hz
  unfold runLoop
  repeat' first
    | with_reducible exact Moves.refl _ _
    | with_reducible assumption
    | with_reducible exact mask_le hk0 (by decide)
    | with_reducible apply Moves.ite
    | with_reducible apply Moves.ite_fst
    | with_reducible (apply State.modLevel_moves)
    | with_reducible (apply endLoop_moves)
    | with_reducible (apply failAt_moves)
    | with_reducible (apply heldCmd_moves)
    | with_reducible (apply Moves.foldl)
    | with_reducible (apply Moves.foldl_fst)
    | with_reducible (apply Moves.of_eq; assumption)
    | with_reducible intro _
    | dsimp only
    | split

theorem loopIterate_moves (s : State) (shoe : Nat) (seq : Nat) (l : Nat) {k0 : Nat} {z0 : State} (hz : Moves k0 z0 s) (hk0 : 128 &&& k0 = 128) :
    Moves k0 z0 (loopIterate s shoe seq l) := by
  refine hz.trans ?_
  clear hz
  unfold loopIterate
  repeat' first
    | with_reducible exact Moves.refl _ _
    | with_reducible assumption
    | with_reducible exact mask_le hk0 (by decide)
    | with_reducible apply Moves.ite
    | with_reducible apply Moves.ite_fst
    | with_reducible (apply State.modLevel_moves)
    | with_reducible (apply endLoop_moves)
    | with_reducible (apply failAt_moves)
    | with_reducible (apply Moves.foldl)
    | with_reducible (apply Moves.foldl_fst)
    | with_reducible (apply Moves.of_eq; assumption)
    | with_reducible intro _
    | dsimp only
    | split

theorem runWriteMem_moves (s : State) (shoe : Nat) (seq : Nat) (l : Nat) (g : Nat) (b : List Byte) {k0 : Nat} {z0 : State} (hz : Moves k0 z0 s) (hk0 : 136 &&& k0 = 136) :
    Moves k0 z0 (runWriteMem s shoe seq l g b) := by
  refine hz.trans ?_
  clear hz
  unfold runWriteMem
  repeat' first
    | with_reducible exact Moves.refl _ _
    | with_reducible assumption
    | with_reducible exact mask_le hk0 (by decide)
    | with_reducible apply Moves.ite
    | with_reducible apply Moves.ite_fst
    | with_reducible (apply doneCmd_moves)
    | with_reducible (apply failAt_moves)
    | with_reducible (apply postHost_moves)
    | with_reducible (apply Moves.foldl)
    | with_reducible (apply Moves.foldl_fst)
    | with_reducible (apply Moves.of_eq; assumption)
    | with_reducible intro _
    | dsimp only
    | split

theorem waitMemRead_moves (s : State) (shoe : Nat) (seq : Nat) (l : Nat) (g : Nat) (b : List Byte) {k0 : Nat} {z0 : State} (hz : Moves k0 z0 s) (hk0 : 136 &&& k0 = 136) :
    Moves k0 z0 (waitMemRead s shoe seq l g b) := by
  refine hz.trans ?_
  clear hz
  unfold waitMemRead
  repeat' first
    | with_reducible exact Moves.refl _ _
    | with_reducible assumption
    | with_reducible exact mask_le hk0 (by decide)
    | with_reducible apply Moves.ite
    | with_reducible apply Moves.ite_fst
    | with_reducible (apply State.emit_moves)
    | with_reducible (apply failAt_moves)
    | with_reducible (apply setActive_moves)
    | with_reducible (apply Moves.foldl)
    | with_reducible (apply Moves.foldl_fst)
    | with_reducible (apply Moves.of_eq; assumption)
    | with_reducible intro _
    | dsimp only
    | split

theorem waitMemPoll_moves (s : State) (shoe : Nat) (seq : Nat) (l : Nat) (g : Nat) {k0 : Nat} {z0 : State} (hz : Moves k0 z0 s) (hk0 : 136 &&& k0 = 136) :
    Moves k0 z0 (waitMemPoll s shoe seq l g) := by
  refine hz.trans ?_
  clear hz
  unfold waitMemPoll
  repeat' first
    | with_reducible exact Moves.refl _ _
    | with_reducible assumption
    | with_reducible exact mask_le hk0 (by decide)
    | with_reducible apply Moves.ite
    | with_reducible apply Moves.ite_fst
    | with_reducible (apply waitMemRead_moves)
    | with_reducible (apply Moves.foldl)
    | with_reducible (apply Moves.foldl_fst)
    | with_reducible (apply Moves.of_eq; assumption)
    | with_reducible intro _
    | dsimp only
    | split

theorem ringWaits_moves (s : State) (shoe : Nat) {k0 : Nat} {z0 : State} (hz : Moves k0 z0 s) (hk0 : 136 &&& k0 = 136) :
    Moves k0 z0 (ringWaits s shoe) := by
  refine hz.trans ?_
  clear hz
  unfold ringWaits
  repeat' first
    | with_reducible exact Moves.refl _ _
    | with_reducible assumption
    | with_reducible exact mask_le hk0 (by decide)
    | with_reducible apply Moves.ite
    | with_reducible apply Moves.ite_fst
    | with_reducible (apply setActive_moves)
    | with_reducible (apply waitMemPoll_moves)
    | with_reducible (apply Moves.foldl)
    | with_reducible (apply Moves.foldl_fst)
    | with_reducible (apply Moves.of_eq; assumption)
    | with_reducible intro _
    | dsimp only
    | split

theorem waitMemReturn_moves (s : State) (shoe : Nat) (seq : Nat) (l : Nat) (g : Nat) (r : HostResp) {k0 : Nat} {z0 : State} (hz : Moves k0 z0 s) (hk0 : 524424 &&& k0 = 524424) :
    Moves k0 z0 (waitMemReturn s shoe seq l g r) := by
  refine hz.trans ?_
  clear hz
  unfold waitMemReturn
  repeat' first
    | with_reducible exact Moves.refl _ _
    | with_reducible assumption
    | with_reducible exact mask_le hk0 (by decide)
    | with_reducible apply Moves.ite
    | with_reducible apply Moves.ite_fst
    | with_reducible (apply completeCmd_moves)
    | with_reducible (apply failAt_moves)
    | with_reducible (apply readBack_moves)
    | with_reducible (apply readBack_pmoves; assumption)
    | with_reducible (apply setActive_moves)
    | with_reducible (apply waitMemRead_moves)
    | with_reducible (apply Moves.foldl)
    | with_reducible (apply Moves.foldl_fst)
    | with_reducible (apply Moves.of_eq; assumption)
    | with_reducible intro _
    | dsimp only
    | split

end Sys2Proof.Machine
end

