-- ==== Sys2Proof/Laws/MovesShoeOps.lean ====
section
/-! SUPPORT. What each operation of Machine/ShoeOps.lean may change. -/

set_option linter.unreachableTactic false
set_option linter.unusedTactic false
set_option linter.unusedVariables false

namespace Sys2Proof.Machine

theorem writeSheet_moves (s : State) (shoe : Nat) (i : Item) {k0 : Nat} {z0 : State} (hz : Moves k0 z0 s) (hk0 : 1160 &&& k0 = 1160) :
    Moves k0 z0 (writeSheet s shoe i) := by
  refine hz.trans ?_
  clear hz
  unfold writeSheet
  repeat' first
    | with_reducible exact Moves.refl _ _
    | with_reducible assumption
    | with_reducible exact mask_le hk0 (by decide)
    | with_reducible apply Moves.ite
    | with_reducible apply Moves.ite_fst
    | with_reducible (apply State.modShoe_moves)
    | with_reducible (apply postHost_moves)
    | with_reducible (apply raiseSource_moves)
    | with_reducible (apply Moves.foldl)
    | with_reducible (apply Moves.foldl_fst)
    | with_reducible (apply Moves.of_eq; assumption)
    | with_reducible intro _
    | dsimp only
    | split

theorem writeScore_moves (s : State) (shoe : Nat) (v : Nat) {k0 : Nat} {z0 : State} (hz : Moves k0 z0 s) (hk0 : 136 &&& k0 = 136) :
    Moves k0 z0 (writeScore s shoe v) := by
  refine hz.trans ?_
  clear hz
  unfold writeScore
  repeat' first
    | with_reducible exact Moves.refl _ _
    | with_reducible assumption
    | with_reducible exact mask_le hk0 (by decide)
    | with_reducible apply Moves.ite
    | with_reducible apply Moves.ite_fst
    | with_reducible (apply State.modShoe_moves)
    | with_reducible (apply postHost_moves)
    | with_reducible (apply Moves.foldl)
    | with_reducible (apply Moves.foldl_fst)
    | with_reducible (apply Moves.of_eq; assumption)
    | with_reducible intro _
    | dsimp only
    | split

theorem fixOutcomes_moves (s : State) (shoe : Nat) {k0 : Nat} {z0 : State} (hz : Moves k0 z0 s) (hk0 : 128 &&& k0 = 128) :
    Moves k0 z0 (fixOutcomes s shoe) := by
  refine hz.trans ?_
  clear hz
  unfold fixOutcomes
  repeat' first
    | with_reducible exact Moves.refl _ _
    | with_reducible assumption
    | with_reducible exact mask_le hk0 (by decide)
    | with_reducible apply Moves.ite
    | with_reducible apply Moves.ite_fst
    | with_reducible (apply State.modDl_moves)
    | with_reducible (apply Moves.foldl)
    | with_reducible (apply Moves.foldl_fst)
    | with_reducible (apply Moves.of_eq; assumption)
    | with_reducible intro _
    | dsimp only
    | split

theorem holdSheet_moves (s : State) (shoe : Nat) {k0 : Nat} {z0 : State} (hz : Moves k0 z0 s) (hk0 : 128 &&& k0 = 128) :
    Moves k0 z0 (holdSheet s shoe) := by
  refine hz.trans ?_
  clear hz
  unfold holdSheet
  repeat' first
    | with_reducible exact Moves.refl _ _
    | with_reducible assumption
    | with_reducible exact mask_le hk0 (by decide)
    | with_reducible apply Moves.ite
    | with_reducible apply Moves.ite_fst
    | with_reducible (apply State.modShoe_moves)
    | with_reducible (apply Moves.foldl)
    | with_reducible (apply Moves.foldl_fst)
    | with_reducible (apply Moves.of_eq; assumption)
    | with_reducible intro _
    | dsimp only
    | split

theorem moderate_moves (s : State) (shoe : Nat) (k : Nat) (irqNow : Bool) {k0 : Nat} {z0 : State} (hz : Moves k0 z0 s) (hk0 : 1160 &&& k0 = 1160) :
    Moves k0 z0 (moderate s shoe k irqNow) := by
  refine hz.trans ?_
  clear hz
  unfold moderate
  repeat' first
    | with_reducible exact Moves.refl _ _
    | with_reducible assumption
    | with_reducible exact mask_le hk0 (by decide)
    | with_reducible apply Moves.ite
    | with_reducible apply Moves.ite_fst
    | with_reducible (apply State.modShoe_moves)
    | with_reducible (apply raiseSource_moves)
    | with_reducible (apply Moves.foldl)
    | with_reducible (apply Moves.foldl_fst)
    | with_reducible (apply Moves.of_eq; assumption)
    | with_reducible intro _
    | dsimp only
    | split

theorem reportItems_moves (shoe : Nat) (x1 : Nat) (x2 : State) (x3 : Nat) (x4 : Nat) (x5 : Bool) {k0 : Nat} {z0 : State} (hz : Moves k0 z0 x2) (hk0 : 1160 &&& k0 = 1160) :
    Moves k0 z0 (reportItems shoe x1 x2 x3 x4 x5).1 := by
  refine hz.trans ?_
  clear hz
  fun_induction reportItems shoe x1 x2 x3 x4 x5
  all_goals repeat' first
    | with_reducible exact Moves.refl _ _
    | with_reducible assumption
    | with_reducible (refine Moves.trans ?_ (by assumption))
    | with_reducible (refine Moves.trans ?_ (Moves.of_eq (by assumption) (by assumption)))
    | with_reducible exact mask_le hk0 (by decide)
    | with_reducible apply Moves.ite
    | with_reducible apply Moves.ite_fst
    | with_reducible (apply State.modDl_moves)
    | with_reducible (apply holdSheet_moves)
    | with_reducible (apply writeSheet_moves)
    | with_reducible (apply Moves.foldl)
    | with_reducible (apply Moves.foldl_fst)
    | with_reducible (apply Moves.of_eq; assumption)
    | with_reducible intro _
    | dsimp only
    | split

theorem reportItems_pmoves (shoe : Nat) (x1 : Nat) (x2 : State) (x3 : Nat) (x4 : Nat) (x5 : Bool) {z1 : State} {y1 : Nat × Nat × Bool} (he : (reportItems shoe x1 x2 x3 x4 x5) = (z1, y1)) {k0 : Nat} {z0 : State} (hz : Moves k0 z0 x2) (hk0 : 1160 &&& k0 = 1160) :
    Moves k0 z0 z1 := by
  simpa only [he] using reportItems_moves shoe x1 x2 x3 x4 x5 hz hk0

theorem writeOutcomes_moves (s0 : State) (shoe : Nat) {k0 : Nat} {z0 : State} (hz : Moves k0 z0 s0) (hk0 : 1224 &&& k0 = 1224) :
    Moves k0 z0 (writeOutcomes s0 shoe) := by
  refine hz.trans ?_
  clear hz
  unfold writeOutcomes
  repeat' first
    | with_reducible exact Moves.refl _ _
    | with_reducible assumption
    | with_reducible exact mask_le hk0 (by decide)
    | with_reducible apply Moves.ite
    | with_reducible apply Moves.ite_fst
    | with_reducible (apply fixOutcomes_moves)
    | with_reducible (apply holdSheet_moves)
    | with_reducible (apply moderate_moves)
    | with_reducible (apply reportItems_moves)
    | with_reducible (apply reportItems_pmoves; assumption)
    | with_reducible (apply updateLedgerFull_moves)
    | with_reducible (apply writeScore_moves)
    | with_reducible (apply Moves.foldl)
    | with_reducible (apply Moves.foldl_fst)
    | with_reducible (apply Moves.of_eq; assumption)
    | with_reducible intro _
    | dsimp only
    | split

theorem fetchEntry_moves (s : State) (shoe : Nat) {k0 : Nat} {z0 : State} (hz : Moves k0 z0 s) (hk0 : 1224 &&& k0 = 1224) :
    Moves k0 z0 (fetchEntry s shoe) := by
  refine hz.trans ?_
  clear hz
  unfold fetchEntry
  repeat' first
    | with_reducible exact Moves.refl _ _
    | with_reducible assumption
    | with_reducible exact mask_le hk0 (by decide)
    | with_reducible apply Moves.ite
    | with_reducible apply Moves.ite_fst
    | with_reducible (apply State.emit_moves)
    | with_reducible (apply State.modDl_moves)
    | with_reducible (apply State.modShoe_moves)
    | with_reducible (apply updateLedgerFull_moves)
    | with_reducible (apply Moves.foldl)
    | with_reducible (apply Moves.foldl_fst)
    | with_reducible (apply Moves.of_eq; assumption)
    | with_reducible intro _
    | dsimp only
    | split

theorem passEntry_moves (s : State) (shoe : Nat) {k0 : Nat} {z0 : State} (hz : Moves k0 z0 s) (hk0 : 128 &&& k0 = 128) :
    Moves k0 z0 (passEntry s shoe) := by
  refine hz.trans ?_
  clear hz
  unfold passEntry
  repeat' first
    | with_reducible exact Moves.refl _ _
    | with_reducible assumption
    | with_reducible exact mask_le hk0 (by decide)
    | with_reducible apply Moves.ite
    | with_reducible apply Moves.ite_fst
    | with_reducible (apply State.modShoe_moves)
    | with_reducible (apply Moves.foldl)
    | with_reducible (apply Moves.foldl_fst)
    | with_reducible (apply Moves.of_eq; assumption)
    | with_reducible intro _
    | dsimp only
    | split

theorem faultAtFetch_moves (s : State) (shoe : Nat) (seq : Nat) (o : Outcome) (held : Bool) {k0 : Nat} {z0 : State} (hz : Moves k0 z0 s) (hk0 : 128 &&& k0 = 128) :
    Moves k0 z0 (faultAtFetch s shoe seq o held) := by
  refine hz.trans ?_
  clear hz
  unfold faultAtFetch
  repeat' first
    | with_reducible exact Moves.refl _ _
    | with_reducible assumption
    | with_reducible exact mask_le hk0 (by decide)
    | with_reducible apply Moves.ite
    | with_reducible apply Moves.ite_fst
    | with_reducible (apply State.modItem_moves)
    | with_reducible (apply Moves.foldl)
    | with_reducible (apply Moves.foldl_fst)
    | with_reducible (apply Moves.of_eq; assumption)
    | with_reducible intro _
    | dsimp only
    | split

theorem deckRead_moves (s0 : State) (shoe : Nat) (entry : HostResp) (deck : HostResp) {k0 : Nat} {z0 : State} (hz : Moves k0 z0 s0) (hk0 : 524424 &&& k0 = 524424) :
    Moves k0 z0 (deckRead s0 shoe entry deck) := by
  refine hz.trans ?_
  clear hz
  unfold deckRead
  repeat' first
    | with_reducible exact Moves.refl _ _
    | with_reducible assumption
    | with_reducible exact mask_le hk0 (by decide)
    | with_reducible apply Moves.ite
    | with_reducible apply Moves.ite_fst
    | with_reducible (apply State.modItem_moves)
    | with_reducible (apply faultAtFetch_moves)
    | with_reducible (apply passEntry_moves)
    | with_reducible (apply readBack_moves)
    | with_reducible (apply readBack_pmoves; assumption)
    | with_reducible (apply readHost_moves)
    | with_reducible (apply readHost_pmoves; assumption)
    | with_reducible (apply Moves.foldl)
    | with_reducible (apply Moves.foldl_fst)
    | with_reducible (apply Moves.of_eq; assumption)
    | with_reducible intro _
    | dsimp only
    | split

theorem writeProduce_moves (s : State) (shoe : Nat) (v : Nat) {k0 : Nat} {z0 : State} (hz : Moves k0 z0 s) (hk0 : 136 &&& k0 = 136) :
    Moves k0 z0 (writeProduce s shoe v) := by
  refine hz.trans ?_
  clear hz
  unfold writeProduce
  repeat' first
    | with_reducible exact Moves.refl _ _
    | with_reducible assumption
    | with_reducible exact mask_le hk0 (by decide)
    | with_reducible apply Moves.ite
    | with_reducible apply Moves.ite_fst
    | with_reducible (apply State.modShoe_moves)
    | with_reducible (apply ringWaits_moves)
    | with_reducible (apply Moves.foldl)
    | with_reducible (apply Moves.foldl_fst)
    | with_reducible (apply Moves.of_eq; assumption)
    | with_reducible intro _
    | dsimp only
    | split

theorem writeFetch_moves (s : State) (shoe : Nat) (v : Nat) {k0 : Nat} {z0 : State} (hz : Moves k0 z0 s) (hk0 : 128 &&& k0 = 128) :
    Moves k0 z0 (writeFetch s shoe v) := by
  refine hz.trans ?_
  clear hz
  unfold writeFetch
  repeat' first
    | with_reducible exact Moves.refl _ _
    | with_reducible assumption
    | with_reducible exact mask_le hk0 (by decide)
    | with_reducible apply Moves.ite
    | with_reducible apply Moves.ite_fst
    | with_reducible (apply State.modShoe_moves)
    | with_reducible (apply Moves.foldl)
    | with_reducible (apply Moves.foldl_fst)
    | with_reducible (apply Moves.of_eq; assumption)
    | with_reducible intro _
    | dsimp only
    | split

theorem writeConsumed_moves (s : State) (shoe : Nat) (v : Nat) {k0 : Nat} {z0 : State} (hz : Moves k0 z0 s) (hk0 : 1224 &&& k0 = 1224) :
    Moves k0 z0 (writeConsumed s shoe v) := by
  refine hz.trans ?_
  clear hz
  unfold writeConsumed
  repeat' first
    | with_reducible exact Moves.refl _ _
    | with_reducible assumption
    | with_reducible exact mask_le hk0 (by decide)
    | with_reducible apply Moves.ite
    | with_reducible apply Moves.ite_fst
    | with_reducible (apply State.modShoe_moves)
    | with_reducible (apply writeOutcomes_moves)
    | with_reducible (apply Moves.foldl)
    | with_reducible (apply Moves.foldl_fst)
    | with_reducible (apply Moves.of_eq; assumption)
    | with_reducible intro _
    | dsimp only
    | split

theorem writeSheetCtrl_moves (s : State) (shoe : Nat) (v : Nat) {k0 : Nat} {z0 : State} (hz : Moves k0 z0 s) (hk0 : 128 &&& k0 = 128) :
    Moves k0 z0 (writeSheetCtrl s shoe v) := by
  refine hz.trans ?_
  clear hz
  unfold writeSheetCtrl
  repeat' first
    | with_reducible exact Moves.refl _ _
    | with_reducible assumption
    | with_reducible exact mask_le hk0 (by decide)
    | with_reducible apply Moves.ite
    | with_reducible apply Moves.ite_fst
    | with_reducible (apply State.modShoe_moves)
    | with_reducible (apply Moves.foldl)
    | with_reducible (apply Moves.foldl_fst)
    | with_reducible (apply Moves.of_eq; assumption)
    | with_reducible intro _
    | dsimp only
    | split

theorem startShoe_moves (s : State) (shoe : Nat) {k0 : Nat} {z0 : State} (hz : Moves k0 z0 s) (hk0 : 1224 &&& k0 = 1224) :
    Moves k0 z0 (startShoe s shoe) := by
  refine hz.trans ?_
  clear hz
  unfold startShoe
  repeat' first
    | with_reducible exact Moves.refl _ _
    | with_reducible assumption
    | with_reducible exact mask_le hk0 (by decide)
    | with_reducible apply Moves.ite
    | with_reducible apply Moves.ite_fst
    | with_reducible (apply State.modShoe_moves)
    | with_reducible (apply writeOutcomes_moves)
    | with_reducible (apply Moves.foldl)
    | with_reducible (apply Moves.foldl_fst)
    | with_reducible (apply Moves.of_eq; assumption)
    | with_reducible intro _
    | dsimp only
    | split

theorem enableShoe_moves (s : State) (shoe : Nat) (v : Nat) {k0 : Nat} {z0 : State} (hz : Moves k0 z0 s) (hk0 : 1224 &&& k0 = 1224) :
    Moves k0 z0 (enableShoe s shoe v) := by
  refine hz.trans ?_
  clear hz
  unfold enableShoe
  repeat' first
    | with_reducible exact Moves.refl _ _
    | with_reducible assumption
    | with_reducible exact mask_le hk0 (by decide)
    | with_reducible apply Moves.ite
    | with_reducible apply Moves.ite_fst
    | with_reducible (apply State.modShoe_moves)
    | with_reducible (apply startShoe_moves)
    | with_reducible (apply Moves.foldl)
    | with_reducible (apply Moves.foldl_fst)
    | with_reducible (apply Moves.of_eq; assumption)
    | with_reducible intro _
    | dsimp only
    | split

theorem disableShoe_moves (s : State) (shoe : Nat) (v : Nat) {k0 : Nat} {z0 : State} (hz : Moves k0 z0 s) (hk0 : 128 &&& k0 = 128) :
    Moves k0 z0 (disableShoe s shoe v) := by
  refine hz.trans ?_
  clear hz
  unfold disableShoe
  repeat' first
    | with_reducible exact Moves.refl _ _
    | with_reducible assumption
    | with_reducible exact mask_le hk0 (by decide)
    | with_reducible apply Moves.ite
    | with_reducible apply Moves.ite_fst
    | with_reducible (apply State.modShoe_moves)
    | with_reducible (apply Moves.foldl)
    | with_reducible (apply Moves.foldl_fst)
    | with_reducible (apply Moves.of_eq; assumption)
    | with_reducible intro _
    | dsimp only
    | split

theorem commitItem_moves (s : State) (shoe : Nat) (seq : Nat) {k0 : Nat} {z0 : State} (hz : Moves k0 z0 s) (hk0 : 128 &&& k0 = 128) :
    Moves k0 z0 (commitItem s shoe seq) := by
  refine hz.trans ?_
  clear hz
  unfold commitItem
  repeat' first
    | with_reducible exact Moves.refl _ _
    | with_reducible assumption
    | with_reducible exact mask_le hk0 (by decide)
    | with_reducible apply Moves.ite
    | with_reducible apply Moves.ite_fst
    | with_reducible (apply State.modItem_moves)
    | with_reducible (apply Moves.foldl)
    | with_reducible (apply Moves.foldl_fst)
    | with_reducible (apply Moves.of_eq; assumption)
    | with_reducible intro _
    | dsimp only
    | split

theorem noteItem_moves (s : State) (shoe : Nat) (seq : Nat) (cause : Nat) (detail : Nat) {k0 : Nat} {z0 : State} (hz : Moves k0 z0 s) (hk0 : 128 &&& k0 = 128) :
    Moves k0 z0 (noteItem s shoe seq cause detail) := by
  refine hz.trans ?_
  clear hz
  unfold noteItem
  repeat' first
    | with_reducible exact Moves.refl _ _
    | with_reducible assumption
    | with_reducible exact mask_le hk0 (by decide)
    | with_reducible apply Moves.ite
    | with_reducible apply Moves.ite_fst
    | with_reducible (apply State.modItem_moves)
    | with_reducible (apply Moves.foldl)
    | with_reducible (apply Moves.foldl_fst)
    | with_reducible (apply Moves.of_eq; assumption)
    | with_reducible intro _
    | dsimp only
    | split

theorem ledgerLookup_moves (s : State) (shoe : Nat) {k0 : Nat} {z0 : State} (hz : Moves k0 z0 s) (hk0 : 128 &&& k0 = 128) :
    Moves k0 z0 (ledgerLookup s shoe) := by
  refine hz.trans ?_
  clear hz
  unfold ledgerLookup
  repeat' first
    | with_reducible exact Moves.refl _ _
    | with_reducible assumption
    | with_reducible exact mask_le hk0 (by decide)
    | with_reducible apply Moves.ite
    | with_reducible apply Moves.ite_fst
    | with_reducible (apply State.modDl_moves)
    | with_reducible (apply Moves.foldl)
    | with_reducible (apply Moves.foldl_fst)
    | with_reducible (apply Moves.of_eq; assumption)
    | with_reducible intro _
    | dsimp only
    | split

end Sys2Proof.Machine
end

