-- ==== Sys2Proof/Laws/MovesClaimOps.lean ====
section
/-! SUPPORT. What each operation of Machine/ClaimOps.lean may change. -/

set_option linter.unreachableTactic false
set_option linter.unusedTactic false
set_option linter.unusedVariables false

namespace Sys2Proof.Machine

theorem settleReservation_moves (s : State) (n : Nat) {k0 : Nat} {z0 : State} (hz : Moves k0 z0 s) (hk0 : 64 &&& k0 = 64) :
    Moves k0 z0 (settleReservation s n) := by
  refine hz.trans ?_
  clear hz
  unfold settleReservation
  repeat' first
    | with_reducible exact Moves.refl _ _
    | with_reducible assumption
    | with_reducible exact mask_le hk0 (by decide)
    | with_reducible apply Moves.ite
    | with_reducible apply Moves.ite_fst
    | with_reducible (apply State.modClaim_moves)
    | with_reducible (apply Moves.foldl)
    | with_reducible (apply Moves.foldl_fst)
    | with_reducible (apply Moves.of_eq; assumption)
    | with_reducible intro _
    | dsimp only
    | split

theorem changeShare_moves (s : State) (n : Nat) (profiles : Vector Word32 8) (active : Nat) {k0 : Nat} {z0 : State} (hz : Moves k0 z0 s) (hk0 : 1096 &&& k0 = 1096) :
    Moves k0 z0 (changeShare s n profiles active) := by
  refine hz.trans ?_
  clear hz
  unfold changeShare
  repeat' first
    | with_reducible exact Moves.refl _ _
    | with_reducible assumption
    | with_reducible exact mask_le hk0 (by decide)
    | with_reducible apply Moves.ite
    | with_reducible apply Moves.ite_fst
    | with_reducible (apply State.modClaim_moves)
    | with_reducible (apply postEvent_moves)
    | with_reducible (apply settleReservation_moves)
    | with_reducible (apply Moves.foldl)
    | with_reducible (apply Moves.foldl_fst)
    | with_reducible (apply Moves.of_eq; assumption)
    | with_reducible intro _
    | dsimp only
    | split

theorem applyReservation_moves (s : State) (n : Nat) {k0 : Nat} {z0 : State} (hz : Moves k0 z0 s) (hk0 : 1096 &&& k0 = 1096) :
    Moves k0 z0 (applyReservation s n) := by
  refine hz.trans ?_
  clear hz
  unfold applyReservation
  repeat' first
    | with_reducible exact Moves.refl _ _
    | with_reducible assumption
    | with_reducible exact mask_le hk0 (by decide)
    | with_reducible apply Moves.ite
    | with_reducible apply Moves.ite_fst
    | with_reducible (apply State.modClaim_moves)
    | with_reducible (apply postEvent_moves)
    | with_reducible (apply Moves.foldl)
    | with_reducible (apply Moves.foldl_fst)
    | with_reducible (apply Moves.of_eq; assumption)
    | with_reducible intro _
    | dsimp only
    | split

theorem applyReservations_moves (s : State) {k0 : Nat} {z0 : State} (hz : Moves k0 z0 s) (hk0 : 1096 &&& k0 = 1096) :
    Moves k0 z0 (applyReservations s) := by
  refine hz.trans ?_
  clear hz
  unfold applyReservations
  repeat' first
    | with_reducible exact Moves.refl _ _
    | with_reducible assumption
    | with_reducible exact mask_le hk0 (by decide)
    | with_reducible apply Moves.ite
    | with_reducible apply Moves.ite_fst
    | with_reducible (apply applyReservation_moves)
    | with_reducible (apply Moves.foldl)
    | with_reducible (apply Moves.foldl_fst)
    | with_reducible (apply Moves.of_eq; assumption)
    | with_reducible intro _
    | dsimp only
    | split

theorem State.modArb_moves (s : State) (e : Engine) (f : Arb → Arb) {k0 : Nat} {z0 : State} (hz : Moves k0 z0 s) (hk0 : 128 &&& k0 = 128) :
    Moves k0 z0 (State.modArb s e f) := by
  refine hz.trans ?_
  clear hz
  unfold State.modArb
  repeat' first
    | with_reducible exact Moves.refl _ _
    | with_reducible assumption
    | with_reducible exact mask_le hk0 (by decide)
    | with_reducible apply Moves.ite
    | with_reducible apply Moves.ite_fst
    | with_reducible (apply State.modDl_moves)
    | with_reducible (apply Moves.foldl)
    | with_reducible (apply Moves.foldl_fst)
    | with_reducible (apply Moves.of_eq; assumption)
    | with_reducible intro _
    | dsimp only
    | split

theorem State.modMacro_moves (s : State) (mid : Nat) (f : MacroInst → MacroInst) {k0 : Nat} {z0 : State} (hz : Moves k0 z0 s) (hk0 : 128 &&& k0 = 128) :
    Moves k0 z0 (State.modMacro s mid f) := by
  refine hz.trans ?_
  clear hz
  unfold State.modMacro
  repeat' first
    | with_reducible exact Moves.refl _ _
    | with_reducible assumption
    | with_reducible exact mask_le hk0 (by decide)
    | with_reducible apply Moves.ite
    | with_reducible apply Moves.ite_fst
    | with_reducible (apply State.modDl_moves)
    | with_reducible (apply Moves.foldl)
    | with_reducible (apply Moves.foldl_fst)
    | with_reducible (apply Moves.of_eq; assumption)
    | with_reducible intro _
    | dsimp only
    | split

theorem frameStart_moves (s : State) (e : Engine) {k0 : Nat} {z0 : State} (hz : Moves k0 z0 s) (hk0 : 128 &&& k0 = 128) :
    Moves k0 z0 (frameStart s e) := by
  refine hz.trans ?_
  clear hz
  unfold frameStart
  repeat' first
    | with_reducible exact Moves.refl _ _
    | with_reducible assumption
    | with_reducible exact mask_le hk0 (by decide)
    | with_reducible apply Moves.ite
    | with_reducible apply Moves.ite_fst
    | with_reducible (apply State.modArb_moves)
    | with_reducible (apply Moves.foldl)
    | with_reducible (apply Moves.foldl_fst)
    | with_reducible (apply Moves.of_eq; assumption)
    | with_reducible intro _
    | dsimp only
    | split

theorem chargeGrant_moves (s : State) (e : Engine) (ns : Nat) {k0 : Nat} {z0 : State} (hz : Moves k0 z0 s) (hk0 : 128 &&& k0 = 128) :
    Moves k0 z0 (chargeGrant s e ns) := by
  refine hz.trans ?_
  clear hz
  unfold chargeGrant
  repeat' first
    | with_reducible exact Moves.refl _ _
    | with_reducible assumption
    | with_reducible exact mask_le hk0 (by decide)
    | with_reducible apply Moves.ite
    | with_reducible apply Moves.ite_fst
    | with_reducible (apply State.modArb_moves)
    | with_reducible (apply Moves.foldl)
    | with_reducible (apply Moves.foldl_fst)
    | with_reducible (apply Moves.of_eq; assumption)
    | with_reducible intro _
    | dsimp only
    | split

theorem grantNext_moves (s : State) (e : Engine) {k0 : Nat} {z0 : State} (hz : Moves k0 z0 s) (hk0 : 128 &&& k0 = 128) :
    Moves k0 z0 (grantNext s e) := by
  refine hz.trans ?_
  clear hz
  unfold grantNext
  repeat' first
    | with_reducible exact Moves.refl _ _
    | with_reducible assumption
    | with_reducible exact mask_le hk0 (by decide)
    | with_reducible apply Moves.ite
    | with_reducible apply Moves.ite_fst
    | with_reducible (apply State.modArb_moves)
    | with_reducible (apply State.modDl_moves)
    | with_reducible (apply State.modMacro_moves)
    | with_reducible (apply Moves.foldl)
    | with_reducible (apply Moves.foldl_fst)
    | with_reducible (apply Moves.of_eq; assumption)
    | with_reducible intro _
    | dsimp only
    | split

theorem followRail_moves (s : State) (d : Nat) {k0 : Nat} {z0 : State} (hz : Moves k0 z0 s) (hk0 : 131080 &&& k0 = 131080) :
    Moves k0 z0 (followRail s d) := by
  refine hz.trans ?_
  clear hz
  unfold followRail
  repeat' first
    | with_reducible exact Moves.refl _ _
    | with_reducible assumption
    | with_reducible exact mask_le hk0 (by decide)
    | with_reducible apply Moves.ite
    | with_reducible apply Moves.ite_fst
    | with_reducible (apply State.modPower_moves)
    | with_reducible (apply avsWrite_moves)
    | with_reducible (apply Moves.foldl)
    | with_reducible (apply Moves.foldl_fst)
    | with_reducible (apply Moves.of_eq; assumption)
    | with_reducible intro _
    | dsimp only
    | split

theorem rtApply_moves (s : State) {k0 : Nat} {z0 : State} (hz : Moves k0 z0 s) (hk0 : 64 &&& k0 = 64) :
    Moves k0 z0 (rtApply s) := by
  refine hz.trans ?_
  clear hz
  unfold rtApply
  repeat' first
    | with_reducible exact Moves.refl _ _
    | with_reducible assumption
    | with_reducible exact mask_le hk0 (by decide)
    | with_reducible apply Moves.ite
    | with_reducible apply Moves.ite_fst
    | with_reducible (apply State.modCl_moves)
    | with_reducible (apply Moves.foldl)
    | with_reducible (apply Moves.foldl_fst)
    | with_reducible (apply Moves.of_eq; assumption)
    | with_reducible intro _
    | dsimp only
    | split

theorem rtWrite_moves (s : State) (v : Nat) {k0 : Nat} {z0 : State} (hz : Moves k0 z0 s) (hk0 : 64 &&& k0 = 64) :
    Moves k0 z0 (rtWrite s v) := by
  refine hz.trans ?_
  clear hz
  unfold rtWrite
  repeat' first
    | with_reducible exact Moves.refl _ _
    | with_reducible assumption
    | with_reducible exact mask_le hk0 (by decide)
    | with_reducible apply Moves.ite
    | with_reducible apply Moves.ite_fst
    | with_reducible (apply State.modCl_moves)
    | with_reducible (apply rtApply_moves)
    | with_reducible (apply Moves.foldl)
    | with_reducible (apply Moves.foldl_fst)
    | with_reducible (apply Moves.of_eq; assumption)
    | with_reducible intro _
    | dsimp only
    | split

theorem writeRingSize_moves (s : State) (n : Nat) (v : Nat) {k0 : Nat} {z0 : State} (hz : Moves k0 z0 s) (hk0 : 64 &&& k0 = 64) :
    Moves k0 z0 (writeRingSize s n v) := by
  refine hz.trans ?_
  clear hz
  unfold writeRingSize
  repeat' first
    | with_reducible exact Moves.refl _ _
    | with_reducible assumption
    | with_reducible exact mask_le hk0 (by decide)
    | with_reducible apply Moves.ite
    | with_reducible apply Moves.ite_fst
    | with_reducible (apply State.modRing_moves)
    | with_reducible (apply Moves.foldl)
    | with_reducible (apply Moves.foldl_fst)
    | with_reducible (apply Moves.of_eq; assumption)
    | with_reducible intro _
    | dsimp only
    | split

theorem writeRingConsumed_moves (s : State) (n : Nat) (v : Nat) {k0 : Nat} {z0 : State} (hz : Moves k0 z0 s) (hk0 : 64 &&& k0 = 64) :
    Moves k0 z0 (writeRingConsumed s n v) := by
  refine hz.trans ?_
  clear hz
  unfold writeRingConsumed
  repeat' first
    | with_reducible exact Moves.refl _ _
    | with_reducible assumption
    | with_reducible exact mask_le hk0 (by decide)
    | with_reducible apply Moves.ite
    | with_reducible apply Moves.ite_fst
    | with_reducible (apply State.modRing_moves)
    | with_reducible (apply Moves.foldl)
    | with_reducible (apply Moves.foldl_fst)
    | with_reducible (apply Moves.of_eq; assumption)
    | with_reducible intro _
    | dsimp only
    | split

theorem writeRingStatus_moves (s : State) (n : Nat) (v : Nat) {k0 : Nat} {z0 : State} (hz : Moves k0 z0 s) (hk0 : 64 &&& k0 = 64) :
    Moves k0 z0 (writeRingStatus s n v) := by
  refine hz.trans ?_
  clear hz
  unfold writeRingStatus
  repeat' first
    | with_reducible exact Moves.refl _ _
    | with_reducible assumption
    | with_reducible exact mask_le hk0 (by decide)
    | with_reducible apply Moves.ite
    | with_reducible apply Moves.ite_fst
    | with_reducible (apply State.modRing_moves)
    | with_reducible (apply Moves.foldl)
    | with_reducible (apply Moves.foldl_fst)
    | with_reducible (apply Moves.of_eq; assumption)
    | with_reducible intro _
    | dsimp only
    | split

end Sys2Proof.Machine
end

