-- ==== Sys2Proof/Laws/MovesMemOps.lean ====
section
/-! SUPPORT. What each operation of Machine/MemOps.lean may change. -/

set_option linter.unreachableTactic false
set_option linter.unusedTactic false
set_option linter.unusedVariables false

namespace Sys2Proof.Machine

theorem State.setPte_moves (s : State) (t : Nat) (page : Nat) (p : Pte) {k0 : Nat} {z0 : State} (hz : Moves k0 z0 s) (hk0 : 256 &&& k0 = 256) :
    Moves k0 z0 (State.setPte s t page p) := by
  refine hz.trans ?_
  clear hz
  unfold State.setPte
  repeat' first
    | with_reducible exact Moves.refl _ _
    | with_reducible assumption
    | with_reducible exact mask_le hk0 (by decide)
    | with_reducible apply Moves.ite
    | with_reducible apply Moves.ite_fst
    | with_reducible (apply State.modTiers_moves (h1 := rfl) (h2 := rfl))
    | with_reducible (apply State.modTiers_moves (h1 := by split <;> rfl) (h2 := by split <;> rfl))
    | with_reducible (apply Moves.foldl)
    | with_reducible (apply Moves.foldl_fst)
    | with_reducible (apply Moves.of_eq; assumption)
    | with_reducible intro _
    | dsimp only
    | split

theorem State.modPte_moves (s : State) (t : Nat) (page : Nat) (f : Pte → Pte) {k0 : Nat} {z0 : State} (hz : Moves k0 z0 s) (hk0 : 256 &&& k0 = 256) :
    Moves k0 z0 (State.modPte s t page f) := by
  refine hz.trans ?_
  clear hz
  unfold State.modPte
  repeat' first
    | with_reducible exact Moves.refl _ _
    | with_reducible assumption
    | with_reducible exact mask_le hk0 (by decide)
    | with_reducible apply Moves.ite
    | with_reducible apply Moves.ite_fst
    | with_reducible (apply State.setPte_moves)
    | with_reducible (apply Moves.foldl)
    | with_reducible (apply Moves.foldl_fst)
    | with_reducible (apply Moves.of_eq; assumption)
    | with_reducible intro _
    | dsimp only
    | split

theorem State.dropPte_moves (s : State) (t : Nat) (page : Nat) {k0 : Nat} {z0 : State} (hz : Moves k0 z0 s) (hk0 : 256 &&& k0 = 256) :
    Moves k0 z0 (State.dropPte s t page) := by
  refine hz.trans ?_
  clear hz
  unfold State.dropPte
  repeat' first
    | with_reducible exact Moves.refl _ _
    | with_reducible assumption
    | with_reducible exact mask_le hk0 (by decide)
    | with_reducible apply Moves.ite
    | with_reducible apply Moves.ite_fst
    | with_reducible (apply State.modTiers_moves (h1 := rfl) (h2 := rfl))
    | with_reducible (apply State.modTiers_moves (h1 := by split <;> rfl) (h2 := by split <;> rfl))
    | with_reducible (apply Moves.foldl)
    | with_reducible (apply Moves.foldl_fst)
    | with_reducible (apply Moves.of_eq; assumption)
    | with_reducible intro _
    | dsimp only
    | split

theorem State.setFrame_moves (s : State) (f : Nat) (o : Option Owned) {k0 : Nat} {z0 : State} (hz : Moves k0 z0 s) (hk0 : 256 &&& k0 = 256) :
    Moves k0 z0 (State.setFrame s f o) := by
  refine hz.trans ?_
  clear hz
  unfold State.setFrame
  repeat' first
    | with_reducible exact Moves.refl _ _
    | with_reducible assumption
    | with_reducible exact mask_le hk0 (by decide)
    | with_reducible apply Moves.ite
    | with_reducible apply Moves.ite_fst
    | with_reducible (apply State.modTiers_moves (h1 := rfl) (h2 := rfl))
    | with_reducible (apply State.modTiers_moves (h1 := by split <;> rfl) (h2 := by split <;> rfl))
    | with_reducible (apply Moves.foldl)
    | with_reducible (apply Moves.foldl_fst)
    | with_reducible (apply Moves.of_eq; assumption)
    | with_reducible intro _
    | dsimp only
    | split

theorem State.setHandle_moves (s : State) (h : Nat) (o : Option Owned) {k0 : Nat} {z0 : State} (hz : Moves k0 z0 s) (hk0 : 256 &&& k0 = 256) :
    Moves k0 z0 (State.setHandle s h o) := by
  refine hz.trans ?_
  clear hz
  unfold State.setHandle
  repeat' first
    | with_reducible exact Moves.refl _ _
    | with_reducible assumption
    | with_reducible exact mask_le hk0 (by decide)
    | with_reducible apply Moves.ite
    | with_reducible apply Moves.ite_fst
    | with_reducible (apply State.modTiers_moves (h1 := rfl) (h2 := rfl))
    | with_reducible (apply State.modTiers_moves (h1 := by split <;> rfl) (h2 := by split <;> rfl))
    | with_reducible (apply Moves.foldl)
    | with_reducible (apply Moves.foldl_fst)
    | with_reducible (apply Moves.of_eq; assumption)
    | with_reducible intro _
    | dsimp only
    | split

theorem foreignFrame_moves (s : State) (f : Nat) {k0 : Nat} {z0 : State} (hz : Moves k0 z0 s) (hk0 : 256 &&& k0 = 256) :
    Moves k0 z0 (foreignFrame s f) := by
  refine hz.trans ?_
  clear hz
  unfold foreignFrame
  repeat' first
    | with_reducible exact Moves.refl _ _
    | with_reducible assumption
    | with_reducible exact mask_le hk0 (by decide)
    | with_reducible apply Moves.ite
    | with_reducible apply Moves.ite_fst
    | with_reducible (apply State.setFrame_moves)
    | with_reducible (apply Moves.foldl)
    | with_reducible (apply Moves.foldl_fst)
    | with_reducible (apply Moves.of_eq; assumption)
    | with_reducible intro _
    | dsimp only
    | split

theorem foreignHandle_moves (s : State) (h : Nat) {k0 : Nat} {z0 : State} (hz : Moves k0 z0 s) (hk0 : 256 &&& k0 = 256) :
    Moves k0 z0 (foreignHandle s h) := by
  refine hz.trans ?_
  clear hz
  unfold foreignHandle
  repeat' first
    | with_reducible exact Moves.refl _ _
    | with_reducible assumption
    | with_reducible exact mask_le hk0 (by decide)
    | with_reducible apply Moves.ite
    | with_reducible apply Moves.ite_fst
    | with_reducible (apply State.setHandle_moves)
    | with_reducible (apply Moves.foldl)
    | with_reducible (apply Moves.foldl_fst)
    | with_reducible (apply Moves.of_eq; assumption)
    | with_reducible intro _
    | dsimp only
    | split

theorem clearNeeded_moves (s : State) (tier2 : Bool) (claim : Nat) (wanted : Nat) {k0 : Nat} {z0 : State} (hz : Moves k0 z0 s) (hk0 : 1352 &&& k0 = 1352) :
    Moves k0 z0 (clearNeeded s tier2 claim wanted) := by
  refine hz.trans ?_
  clear hz
  unfold clearNeeded
  repeat' first
    | with_reducible exact Moves.refl _ _
    | with_reducible assumption
    | with_reducible exact mask_le hk0 (by decide)
    | with_reducible apply Moves.ite
    | with_reducible apply Moves.ite_fst
    | with_reducible (apply State.modTiers_moves (h1 := rfl) (h2 := rfl))
    | with_reducible (apply State.modTiers_moves (h1 := by split <;> rfl) (h2 := by split <;> rfl))
    | with_reducible (apply postEvent_moves)
    | with_reducible (apply Moves.foldl)
    | with_reducible (apply Moves.foldl_fst)
    | with_reducible (apply Moves.of_eq; assumption)
    | with_reducible intro _
    | dsimp only
    | split

theorem memWf_parts {s : State} (h : s.memWf = true) :
    Memory.wf s.tiers.t1 = true ∧ Memory.wf s.tiers.t2 = true ∧ flashOk s.boot.flash.cells := by
  simp only [State.memWf, Bool.and_eq_true] at h
  exact ⟨h.1.1.1, h.1.1.2, h.1.2, h.2⟩

theorem memWf_of {s : State} (h1 : Memory.wf s.tiers.t1 = true) (h2 : Memory.wf s.tiers.t2 = true) (h3 : flashOk s.boot.flash.cells) :
    s.memWf = true := by
  simp only [State.memWf, Bool.and_eq_true]
  exact ⟨⟨⟨h1, h2⟩, h3.1⟩, h3.2⟩

theorem memWf_t1 {s : State} (h : s.memWf = true) : Memory.wf s.tiers.t1 = true := (memWf_parts h).1

theorem memWf_t2 {s : State} (h : s.memWf = true) : Memory.wf s.tiers.t2 = true := (memWf_parts h).2.1

theorem tierMem_wf {s : State} (tier2 : Bool) (h : s.memWf = true) : Memory.wf (tierMem s tier2) = true := by
  unfold tierMem
  split
  · exact memWf_t2 h
  · exact memWf_t1 h

theorem State.setMem_moves (s : State) (tier2 : Bool) (m : List Host.Cell) (hm : s.memWf = true → Memory.wf m = true) {k0 : Nat}
    {z0 : State} (hz : Moves k0 z0 s) (hk0 : 256 &&& k0 = 256) : Moves k0 z0 (s.setMem tier2 m) := by
  refine hz.trans (Moves.mono (k := 256) ⟨rfl, ⟨[], by simp [State.setMem, State.modTiers]⟩, fun w => ?_, ?_⟩ hk0)
  · have h := memWf_parts w
    cases tier2
    · exact memWf_of (hm w) h.2.1 h.2.2
    · exact memWf_of h.1 (hm w) h.2.2
  · intro p hp
    cases p <;> first | rfl | exact absurd hp (by decide)

theorem takeFrame_moves (s : State) (owner home : Nat) {r : Nat × State} (he : takeFrame s owner home = some r) {k0 : Nat} {z0 : State}
    (hz : Moves k0 z0 s) (hk0 : 256 &&& k0 = 256) : Moves k0 z0 r.2 := by
  unfold takeFrame at he
  cases h : grantFrame s.tiers owner home with
  | none => simp [h] at he
  | some f =>
    simp only [h, Option.map_some, Option.some.injEq] at he
    subst he
    dsimp only
    exact State.setFrame_moves _ _ _ hz hk0

theorem takeFrame_pmoves (s : State) (owner home : Nat) {f : Nat} {z1 : State} (he : takeFrame s owner home = some (f, z1)) {k0 : Nat}
    {z0 : State} (hz : Moves k0 z0 s) (hk0 : 256 &&& k0 = 256) : Moves k0 z0 z1 := takeFrame_moves s owner home he hz hk0

theorem ensureTables_moves (s : State) (t page : Nat) {z1 : State} (he : ensureTables s t page = some z1) {k0 : Nat} {z0 : State}
    (hz : Moves k0 z0 s) (hk0 : 256 &&& k0 = 256) : Moves k0 z0 z1 := by
  unfold ensureTables at he
  dsimp only at he
  split at he
  · cases he
  · rename_i s1 h1
    have hs : Moves k0 z0 s1 := by
      split at h1
      · cases hf : takeFrame s t (homeDie page) with
        | none => simp [hf] at h1
        | some r =>
          simp only [hf, Option.map_some, Option.some.injEq] at h1
          subst h1
          exact State.modTiers_moves _ _ rfl rfl (takeFrame_moves _ _ _ hf hz hk0) hk0
      · cases h1
        exact hz
    split at he
    · cases he
      exact hs
    · split at he
      · cases hf : takeFrame s1 t (homeDie page) with
        | none => simp [hf] at he
        | some r =>
          simp only [hf, Option.map_some, Option.some.injEq] at he
          subst he
          exact State.modTiers_moves _ _ rfl rfl (takeFrame_moves _ _ _ hf hs hk0) hk0
      · cases he
        exact State.modTiers_moves _ _ rfl rfl hs hk0

theorem placeT1_omoves (s : State) (t : Nat) (page : Nat) {k0 : Nat} {z0 : State} (hz : Moves k0 z0 s) (hk0 : 256 &&& k0 = 256) :
    OptMoves k0 z0 (placeT1 s t page) := by
  suffices hh : OptMoves k0 s (placeT1 s t page) from fun t ht => hz.trans (hh t ht)
  clear hz
  unfold placeT1
  repeat' first
    | with_reducible exact Moves.refl _ _
    | with_reducible assumption
    | with_reducible exact mask_le hk0 (by decide)
    | with_reducible apply Moves.ite
    | with_reducible apply Moves.ite_fst
    | with_reducible apply OptMoves.none
    | with_reducible apply OptMoves.some
    | with_reducible apply OptMoves.ite
    | with_reducible apply OptMoves.map
    | with_reducible (apply State.setMem_moves (hm := fun w => memDrop_wf _ _ (memWf_t1 w)))
    | with_reducible (apply State.setMem_moves (hm := fun w => memDrop_wf _ _ (memWf_t2 w)))
    | with_reducible (apply State.setMem_moves (hm := fun w => memDrop_wf _ _ (tierMem_wf _ w)))
    | with_reducible (apply State.setMem_moves (hm := fun w => memPutAll_wf _ _ (memWf_t1 w)))
    | with_reducible (apply State.setMem_moves (hm := fun w => memPutAll_wf _ _ (memWf_t2 w)))
    | with_reducible (apply State.setMem_moves (hm := fun w => memPutAll_wf _ _ (tierMem_wf _ w)))
    | with_reducible (apply State.setMem_moves (hm := fun w => copyPage_wf _ _ _ (memWf_t1 w)))
    | with_reducible (apply State.setMem_moves (hm := fun w => copyPage_wf _ _ _ (memWf_t2 w)))
    | with_reducible (apply State.setMem_moves (hm := fun w => memPutOpt_wf _ _ (memWf_t1 w)))
    | with_reducible (apply State.setMem_moves (hm := fun w => memPutOpt_wf _ _ (memWf_t2 w)))
    | with_reducible (apply State.setPte_moves)
    | with_reducible (apply takeFrame_moves; assumption)
    | with_reducible (apply takeFrame_pmoves; assumption)
    | with_reducible (apply Moves.foldl)
    | with_reducible (apply Moves.foldl_fst)
    | with_reducible (apply Moves.of_eq; assumption)
    | with_reducible intro _
    | dsimp only
    | split

theorem placeT1_moves (s : State) (t : Nat) (page : Nat) {z1 : State} (he : (placeT1 s t page) = some z1) {k0 : Nat} {z0 : State} (hz : Moves k0 z0 s) (hk0 : 256 &&& k0 = 256) :
    Moves k0 z0 z1 :=
  placeT1_omoves s t page hz hk0 z1 he

theorem placeT2_omoves (s : State) (t : Nat) (page : Nat) {k0 : Nat} {z0 : State} (hz : Moves k0 z0 s) (hk0 : 256 &&& k0 = 256) :
    OptMoves k0 z0 (placeT2 s t page) := by
  suffices hh : OptMoves k0 s (placeT2 s t page) from fun t ht => hz.trans (hh t ht)
  clear hz
  unfold placeT2
  repeat' first
    | with_reducible exact Moves.refl _ _
    | with_reducible assumption
    | with_reducible exact mask_le hk0 (by decide)
    | with_reducible apply Moves.ite
    | with_reducible apply Moves.ite_fst
    | with_reducible apply OptMoves.none
    | with_reducible apply OptMoves.some
    | with_reducible apply OptMoves.ite
    | with_reducible apply OptMoves.map
    | with_reducible (apply State.setHandle_moves)
    | with_reducible (apply State.setMem_moves (hm := fun w => memDrop_wf _ _ (memWf_t1 w)))
    | with_reducible (apply State.setMem_moves (hm := fun w => memDrop_wf _ _ (memWf_t2 w)))
    | with_reducible (apply State.setMem_moves (hm := fun w => memDrop_wf _ _ (tierMem_wf _ w)))
    | with_reducible (apply State.setMem_moves (hm := fun w => memPutAll_wf _ _ (memWf_t1 w)))
    | with_reducible (apply State.setMem_moves (hm := fun w => memPutAll_wf _ _ (memWf_t2 w)))
    | with_reducible (apply State.setMem_moves (hm := fun w => memPutAll_wf _ _ (tierMem_wf _ w)))
    | with_reducible (apply State.setMem_moves (hm := fun w => copyPage_wf _ _ _ (memWf_t1 w)))
    | with_reducible (apply State.setMem_moves (hm := fun w => copyPage_wf _ _ _ (memWf_t2 w)))
    | with_reducible (apply State.setMem_moves (hm := fun w => memPutOpt_wf _ _ (memWf_t1 w)))
    | with_reducible (apply State.setMem_moves (hm := fun w => memPutOpt_wf _ _ (memWf_t2 w)))
    | with_reducible (apply State.setPte_moves)
    | with_reducible (apply Moves.foldl)
    | with_reducible (apply Moves.foldl_fst)
    | with_reducible (apply Moves.of_eq; assumption)
    | with_reducible intro _
    | dsimp only
    | split

theorem placeT2_moves (s : State) (t : Nat) (page : Nat) {z1 : State} (he : (placeT2 s t page) = some z1) {k0 : Nat} {z0 : State} (hz : Moves k0 z0 s) (hk0 : 256 &&& k0 = 256) :
    Moves k0 z0 z1 :=
  placeT2_omoves s t page hz hk0 z1 he

theorem mapOne_moves (s : State) (n page : Nat) (p2 : Bool) {z1 : State} (he : mapOne s n page p2 = .ok z1) {k0 : Nat} {z0 : State}
    (hz : Moves k0 z0 s) (hk0 : 256 &&& k0 = 256) : Moves k0 z0 z1 := by
  unfold mapOne at he
  dsimp only at he
  have in1 : ∀ c : Bool, ∀ t : State, (if c then placeT1 s n page else none) = some t → Moves k0 z0 t := fun c =>
    OptMoves.ite (placeT1_omoves s n page hz hk0) (OptMoves.none _ _)
  have in2 : ∀ c : Bool, ∀ t : State, (if c then placeT2 s n page else none) = some t → Moves k0 z0 t := fun c =>
    OptMoves.ite (placeT2_omoves s n page hz hk0) (OptMoves.none _ _)
  split at he
  · cases he
    rename_i h
    split at h
    · with_reducible exact in2 _ _ h
    · with_reducible exact in1 _ _ h
  · cases he
    rename_i h
    split at h
    · with_reducible exact in1 _ _ h
    · with_reducible exact in2 _ _ h
  · split at he
    · cases he
    · cases he

theorem mapTables_moves (n : Nat) (pages : List Nat) (s : State) {z1 : State} (he : mapTables n s pages = some z1) {k0 : Nat} {z0 : State}
    (hz : Moves k0 z0 s) (hk0 : 256 &&& k0 = 256) : Moves k0 z0 z1 := by
  induction pages generalizing s with
  | nil => cases he; exact hz
  | cons p ps ih =>
    rw [mapTables] at he
    obtain ⟨s1, h1, h2⟩ := Option.bind_eq_some_iff.1 he
    exact ih s1 h2 (ensureTables_moves s n p h1 hz hk0)

theorem mapPages_moves (n : Nat) (p2 : Bool) (pages : List Nat) (s : State) {z1 : State} (he : mapPages n p2 s pages = .ok z1) {k0 : Nat}
    {z0 : State} (hz : Moves k0 z0 s) (hk0 : 256 &&& k0 = 256) : Moves k0 z0 z1 := by
  induction pages generalizing s with
  | nil => cases he; exact hz
  | cons p ps ih =>
    rw [mapPages] at he
    split at he
    · rename_i s1 h1
      exact ih s1 he (mapOne_moves s n p p2 h1 hz hk0)
    · rename_i h1
      exact absurd he (h1 z1)

theorem mapRange_moves (n : Nat) (p2 : Bool) (s : State) (pages : List Nat) {z1 : State} (he : mapRange n p2 s pages = .ok z1) {k0 : Nat}
    {z0 : State} (hz : Moves k0 z0 s) (hk0 : 256 &&& k0 = 256) : Moves k0 z0 z1 := by
  unfold mapRange at he
  split at he
  · split at he
    · cases he
    · rename_i s1 h1
      exact mapPages_moves n p2 pages s1 he (mapTables_moves n pages s h1 hz hk0) hk0
  · cases he

theorem unmapOne_moves (s : State) (t : Nat) (page : Nat) {k0 : Nat} {z0 : State} (hz : Moves k0 z0 s) (hk0 : 256 &&& k0 = 256) :
    Moves k0 z0 (unmapOne s t page) := by
  refine hz.trans ?_
  clear hz
  unfold unmapOne
  repeat' first
    | with_reducible exact Moves.refl _ _
    | with_reducible assumption
    | with_reducible exact mask_le hk0 (by decide)
    | with_reducible apply Moves.ite
    | with_reducible apply Moves.ite_fst
    | with_reducible (apply State.dropPte_moves)
    | with_reducible (apply foreignFrame_moves)
    | with_reducible (apply foreignHandle_moves)
    | with_reducible (apply Moves.foldl)
    | with_reducible (apply Moves.foldl_fst)
    | with_reducible (apply Moves.of_eq; assumption)
    | with_reducible intro _
    | dsimp only
    | split

theorem dropMove_moves (s : State) (t : Nat) (page : Nat) {k0 : Nat} {z0 : State} (hz : Moves k0 z0 s) (hk0 : 256 &&& k0 = 256) :
    Moves k0 z0 (dropMove s t page) := by
  refine hz.trans ?_
  clear hz
  unfold dropMove
  repeat' first
    | with_reducible exact Moves.refl _ _
    | with_reducible assumption
    | with_reducible exact mask_le hk0 (by decide)
    | with_reducible apply Moves.ite
    | with_reducible apply Moves.ite_fst
    | with_reducible (apply State.modPte_moves)
    | with_reducible (apply State.modTiers_moves (h1 := rfl) (h2 := rfl))
    | with_reducible (apply State.modTiers_moves (h1 := by split <;> rfl) (h2 := by split <;> rfl))
    | with_reducible (apply Moves.foldl)
    | with_reducible (apply Moves.foldl_fst)
    | with_reducible (apply Moves.of_eq; assumption)
    | with_reducible intro _
    | dsimp only
    | split

theorem cancelMove_moves (s : State) (t : Nat) (page : Nat) {k0 : Nat} {z0 : State} (hz : Moves k0 z0 s) (hk0 : 256 &&& k0 = 256) :
    Moves k0 z0 (cancelMove s t page) := by
  refine hz.trans ?_
  clear hz
  unfold cancelMove
  repeat' first
    | with_reducible exact Moves.refl _ _
    | with_reducible assumption
    | with_reducible exact mask_le hk0 (by decide)
    | with_reducible apply Moves.ite
    | with_reducible apply Moves.ite_fst
    | with_reducible (apply State.setFrame_moves)
    | with_reducible (apply State.setHandle_moves)
    | with_reducible (apply dropMove_moves)
    | with_reducible (apply Moves.foldl)
    | with_reducible (apply Moves.foldl_fst)
    | with_reducible (apply Moves.of_eq; assumption)
    | with_reducible intro _
    | dsimp only
    | split

theorem startDemotion_moves (s : State) (t : Nat) (page : Nat) (charged : Option Nat) (waiter : Option (Nat × Nat)) {k0 : Nat} {z0 : State} (hz : Moves k0 z0 s) (hk0 : 1352 &&& k0 = 1352) :
    Moves k0 z0 (startDemotion s t page charged waiter).1 := by
  refine hz.trans ?_
  clear hz
  unfold startDemotion
  repeat' first
    | with_reducible exact Moves.refl _ _
    | with_reducible assumption
    | with_reducible exact mask_le hk0 (by decide)
    | with_reducible apply Moves.ite
    | with_reducible apply Moves.ite_fst
    | with_reducible (apply State.modPte_moves)
    | with_reducible (apply State.modTiers_moves (h1 := rfl) (h2 := rfl))
    | with_reducible (apply State.modTiers_moves (h1 := by split <;> rfl) (h2 := by split <;> rfl))
    | with_reducible (apply State.setHandle_moves)
    | with_reducible (apply clearNeeded_moves)
    | with_reducible (apply Moves.foldl)
    | with_reducible (apply Moves.foldl_fst)
    | with_reducible (apply Moves.of_eq; assumption)
    | with_reducible intro _
    | dsimp only
    | split

theorem startDemotion_pmoves (s : State) (t : Nat) (page : Nat) (charged : Option Nat) (waiter : Option (Nat × Nat)) {z1 : State} {y1 : Bool} (he : (startDemotion s t page charged waiter) = (z1, y1)) {k0 : Nat} {z0 : State} (hz : Moves k0 z0 s) (hk0 : 1352 &&& k0 = 1352) :
    Moves k0 z0 z1 := by
  simpa only [he] using startDemotion_moves s t page charged waiter hz hk0

theorem demoteOwn_moves (s : State) (n : Nat) (page : Nat) (waiter : Option (Nat × Nat)) {k0 : Nat} {z0 : State} (hz : Moves k0 z0 s) (hk0 : 1352 &&& k0 = 1352) :
    Moves k0 z0 (demoteOwn s n page waiter).1 := by
  refine hz.trans ?_
  clear hz
  unfold demoteOwn
  repeat' first
    | with_reducible exact Moves.refl _ _
    | with_reducible assumption
    | with_reducible exact mask_le hk0 (by decide)
    | with_reducible apply Moves.ite
    | with_reducible apply Moves.ite_fst
    | with_reducible (apply startDemotion_moves)
    | with_reducible (apply startDemotion_pmoves; assumption)
    | with_reducible (apply Moves.foldl)
    | with_reducible (apply Moves.foldl_fst)
    | with_reducible (apply Moves.of_eq; assumption)
    | with_reducible intro _
    | dsimp only
    | split

theorem demoteOwn_pmoves (s : State) (n : Nat) (page : Nat) (waiter : Option (Nat × Nat)) {z1 : State} {y1 : Bool} (he : (demoteOwn s n page waiter) = (z1, y1)) {k0 : Nat} {z0 : State} (hz : Moves k0 z0 s) (hk0 : 1352 &&& k0 = 1352) :
    Moves k0 z0 z1 := by
  simpa only [he] using demoteOwn_moves s n page waiter hz hk0

theorem commonSettle_moves (s : State) (page : Nat) {k0 : Nat} {z0 : State} (hz : Moves k0 z0 s) (hk0 : 1352 &&& k0 = 1352) :
    Moves k0 z0 (commonSettle s page) := by
  refine hz.trans ?_
  clear hz
  unfold commonSettle
  repeat' first
    | with_reducible exact Moves.refl _ _
    | with_reducible assumption
    | with_reducible exact mask_le hk0 (by decide)
    | with_reducible apply Moves.ite
    | with_reducible apply Moves.ite_fst
    | with_reducible (apply startDemotion_moves)
    | with_reducible (apply startDemotion_pmoves; assumption)
    | with_reducible (apply Moves.foldl)
    | with_reducible (apply Moves.foldl_fst)
    | with_reducible (apply Moves.of_eq; assumption)
    | with_reducible intro _
    | dsimp only
    | split

theorem evictCharge_moves (s : State) (n : Nat) (page : Nat) {k0 : Nat} {z0 : State} (hz : Moves k0 z0 s) (hk0 : 1352 &&& k0 = 1352) :
    Moves k0 z0 (evictCharge s n page) := by
  refine hz.trans ?_
  clear hz
  unfold evictCharge
  repeat' first
    | with_reducible exact Moves.refl _ _
    | with_reducible assumption
    | with_reducible exact mask_le hk0 (by decide)
    | with_reducible apply Moves.ite
    | with_reducible apply Moves.ite_fst
    | with_reducible (apply State.modPte_moves)
    | with_reducible (apply commonSettle_moves)
    | with_reducible (apply Moves.foldl)
    | with_reducible (apply Moves.foldl_fst)
    | with_reducible (apply Moves.of_eq; assumption)
    | with_reducible intro _
    | dsimp only
    | split

theorem victimStep_moves (s : State) (n : Nat) (heatBelow : Option Nat) (waiter : Option (Nat × Nat)) {k0 : Nat} {z0 : State} (hz : Moves k0 z0 s) (hk0 : 1352 &&& k0 = 1352) :
    Moves k0 z0 (victimStep s n heatBelow waiter).1 := by
  refine hz.trans ?_
  clear hz
  unfold victimStep
  repeat' first
    | with_reducible exact Moves.refl _ _
    | with_reducible assumption
    | with_reducible exact mask_le hk0 (by decide)
    | with_reducible apply Moves.ite
    | with_reducible apply Moves.ite_fst
    | with_reducible (apply demoteOwn_moves)
    | with_reducible (apply demoteOwn_pmoves; assumption)
    | with_reducible (apply evictCharge_moves)
    | with_reducible (apply Moves.foldl)
    | with_reducible (apply Moves.foldl_fst)
    | with_reducible (apply Moves.of_eq; assumption)
    | with_reducible intro _
    | dsimp only
    | split

theorem victimStep_pmoves (s : State) (n : Nat) (heatBelow : Option Nat) (waiter : Option (Nat × Nat)) {z1 : State} {y1 : Bool} (he : (victimStep s n heatBelow waiter) = (z1, y1)) {k0 : Nat} {z0 : State} (hz : Moves k0 z0 s) (hk0 : 1352 &&& k0 = 1352) :
    Moves k0 z0 z1 := by
  simpa only [he] using victimStep_moves s n heatBelow waiter hz hk0

theorem startPromotion_omoves (s : State) (t : Nat) (page : Nat) (n : Nat) {k0 : Nat} {z0 : State} (hz : Moves k0 z0 s) (hk0 : 256 &&& k0 = 256) :
    OptMoves k0 z0 (startPromotion s t page n) := by
  suffices hh : OptMoves k0 s (startPromotion s t page n) from fun t ht => hz.trans (hh t ht)
  clear hz
  unfold startPromotion
  repeat' first
    | with_reducible exact Moves.refl _ _
    | with_reducible assumption
    | with_reducible exact mask_le hk0 (by decide)
    | with_reducible apply Moves.ite
    | with_reducible apply Moves.ite_fst
    | with_reducible apply OptMoves.none
    | with_reducible apply OptMoves.some
    | with_reducible apply OptMoves.ite
    | with_reducible apply OptMoves.map
    | with_reducible (apply State.modPte_moves)
    | with_reducible (apply State.modTiers_moves (h1 := rfl) (h2 := rfl))
    | with_reducible (apply State.modTiers_moves (h1 := by split <;> rfl) (h2 := by split <;> rfl))
    | with_reducible (apply takeFrame_moves; assumption)
    | with_reducible (apply takeFrame_pmoves; assumption)
    | with_reducible (apply Moves.foldl)
    | with_reducible (apply Moves.foldl_fst)
    | with_reducible (apply Moves.of_eq; assumption)
    | with_reducible intro _
    | dsimp only
    | split

theorem startPromotion_moves (s : State) (t : Nat) (page : Nat) (n : Nat) {z1 : State} (he : (startPromotion s t page n) = some z1) {k0 : Nat} {z0 : State} (hz : Moves k0 z0 s) (hk0 : 256 &&& k0 = 256) :
    Moves k0 z0 z1 :=
  startPromotion_omoves s t page n hz hk0 z1 he

theorem promoteRequest_moves (s : State) (t : Nat) (page : Nat) (n : Nat) (victims : Bool) {k0 : Nat} {z0 : State} (hz : Moves k0 z0 s) (hk0 : 1352 &&& k0 = 1352) :
    Moves k0 z0 (promoteRequest s t page n victims) := by
  refine hz.trans ?_
  clear hz
  unfold promoteRequest
  repeat' first
    | with_reducible exact Moves.refl _ _
    | with_reducible assumption
    | with_reducible exact mask_le hk0 (by decide)
    | with_reducible apply Moves.ite
    | with_reducible apply Moves.ite_fst
    | with_reducible (apply cancelMove_moves)
    | with_reducible (apply clearNeeded_moves)
    | with_reducible (apply startPromotion_moves; assumption)
    | with_reducible (apply startPromotion_omoves)
    | with_reducible (apply victimStep_moves)
    | with_reducible (apply victimStep_pmoves; assumption)
    | with_reducible (apply Moves.foldl)
    | with_reducible (apply Moves.foldl_fst)
    | with_reducible (apply Moves.of_eq; assumption)
    | with_reducible intro _
    | dsimp only
    | split

theorem relieveT1_moves (x0 : Nat) (x1 : State) (x2 : Nat) {k0 : Nat} {z0 : State} (hz : Moves k0 z0 x1) (hk0 : 1352 &&& k0 = 1352) :
    Moves k0 z0 (relieveT1 x0 x1 x2) := by
  refine hz.trans ?_
  clear hz
  fun_induction relieveT1 x0 x1 x2
  all_goals repeat' first
    | with_reducible exact Moves.refl _ _
    | with_reducible assumption
    | with_reducible (refine Moves.trans ?_ (by assumption))
    | with_reducible (refine Moves.trans ?_ (Moves.of_eq (by assumption) (by assumption)))
    | with_reducible exact mask_le hk0 (by decide)
    | with_reducible apply Moves.ite
    | with_reducible apply Moves.ite_fst
    | with_reducible (apply victimStep_moves)
    | with_reducible (apply victimStep_pmoves; assumption)
    | with_reducible (apply Moves.foldl)
    | with_reducible (apply Moves.foldl_fst)
    | with_reducible (apply Moves.of_eq; assumption)
    | with_reducible intro _
    | dsimp only
    | split

theorem markCommon_moves (s : State) (n : Nat) (page : Nat) {k0 : Nat} {z0 : State} (hz : Moves k0 z0 s) (hk0 : 256 &&& k0 = 256) :
    Moves k0 z0 (markCommon s n page) := by
  refine hz.trans ?_
  clear hz
  unfold markCommon
  repeat' first
    | with_reducible exact Moves.refl _ _
    | with_reducible assumption
    | with_reducible exact mask_le hk0 (by decide)
    | with_reducible apply Moves.ite
    | with_reducible apply Moves.ite_fst
    | with_reducible (apply State.modPte_moves)
    | with_reducible (apply Moves.foldl)
    | with_reducible (apply Moves.foldl_fst)
    | with_reducible (apply Moves.of_eq; assumption)
    | with_reducible intro _
    | dsimp only
    | split

theorem serveWaiter_moves (s : State) (n : Nat) (t : Nat) (page : Nat) {k0 : Nat} {z0 : State} (hz : Moves k0 z0 s) (hk0 : 1352 &&& k0 = 1352) :
    Moves k0 z0 (serveWaiter s n t page) := by
  refine hz.trans ?_
  clear hz
  unfold serveWaiter
  repeat' first
    | with_reducible exact Moves.refl _ _
    | with_reducible assumption
    | with_reducible exact mask_le hk0 (by decide)
    | with_reducible apply Moves.ite
    | with_reducible apply Moves.ite_fst
    | with_reducible (apply cancelMove_moves)
    | with_reducible (apply markCommon_moves)
    | with_reducible (apply promoteRequest_moves)
    | with_reducible (apply Moves.foldl)
    | with_reducible (apply Moves.foldl_fst)
    | with_reducible (apply Moves.of_eq; assumption)
    | with_reducible intro _
    | dsimp only
    | split

theorem commitMove_moves (s : State) (t : Nat) (page : Nat) {k0 : Nat} {z0 : State} (hz : Moves k0 z0 s) (hk0 : 1352 &&& k0 = 1352) :
    Moves k0 z0 (commitMove s t page) := by
  refine hz.trans ?_
  clear hz
  unfold commitMove
  repeat' first
    | with_reducible exact Moves.refl _ _
    | with_reducible assumption
    | with_reducible exact mask_le hk0 (by decide)
    | with_reducible apply Moves.ite
    | with_reducible apply Moves.ite_fst
    | with_reducible (apply State.modPte_moves)
    | with_reducible (apply State.modTiers_moves (h1 := rfl) (h2 := rfl))
    | with_reducible (apply State.modTiers_moves (h1 := by split <;> rfl) (h2 := by split <;> rfl))
    | with_reducible (apply State.setFrame_moves)
    | with_reducible (apply State.setHandle_moves)
    | with_reducible (apply State.setMem_moves (hm := fun w => memDrop_wf _ _ (memWf_t1 w)))
    | with_reducible (apply State.setMem_moves (hm := fun w => memDrop_wf _ _ (memWf_t2 w)))
    | with_reducible (apply State.setMem_moves (hm := fun w => memDrop_wf _ _ (tierMem_wf _ w)))
    | with_reducible (apply State.setMem_moves (hm := fun w => memPutAll_wf _ _ (memWf_t1 w)))
    | with_reducible (apply State.setMem_moves (hm := fun w => memPutAll_wf _ _ (memWf_t2 w)))
    | with_reducible (apply State.setMem_moves (hm := fun w => memPutAll_wf _ _ (tierMem_wf _ w)))
    | with_reducible (apply State.setMem_moves (hm := fun w => copyPage_wf _ _ _ (memWf_t1 w)))
    | with_reducible (apply State.setMem_moves (hm := fun w => copyPage_wf _ _ _ (memWf_t2 w)))
    | with_reducible (apply State.setMem_moves (hm := fun w => memPutOpt_wf _ _ (memWf_t1 w)))
    | with_reducible (apply State.setMem_moves (hm := fun w => memPutOpt_wf _ _ (memWf_t2 w)))
    | with_reducible (apply commonSettle_moves)
    | with_reducible (apply dropMove_moves)
    | with_reducible (apply relieveT1_moves)
    | with_reducible (apply serveWaiter_moves)
    | with_reducible (apply Moves.foldl)
    | with_reducible (apply Moves.foldl_fst)
    | with_reducible (apply Moves.of_eq; assumption)
    | with_reducible intro _
    | dsimp only
    | split

theorem touchPage_moves (s : State) (n : Nat) (t : Nat) (page : Nat) {k0 : Nat} {z0 : State} (hz : Moves k0 z0 s) (hk0 : 1352 &&& k0 = 1352) :
    Moves k0 z0 (touchPage s n t page) := by
  refine hz.trans ?_
  clear hz
  unfold touchPage
  repeat' first
    | with_reducible exact Moves.refl _ _
    | with_reducible assumption
    | with_reducible exact mask_le hk0 (by decide)
    | with_reducible apply Moves.ite
    | with_reducible apply Moves.ite_fst
    | with_reducible (apply State.modPte_moves)
    | with_reducible (apply cancelMove_moves)
    | with_reducible (apply markCommon_moves)
    | with_reducible (apply promoteRequest_moves)
    | with_reducible (apply victimStep_moves)
    | with_reducible (apply victimStep_pmoves; assumption)
    | with_reducible (apply Moves.foldl)
    | with_reducible (apply Moves.foldl_fst)
    | with_reducible (apply Moves.of_eq; assumption)
    | with_reducible intro _
    | dsimp only
    | split

theorem heatAge_moves (s : State) (shift : Nat) {k0 : Nat} {z0 : State} (hz : Moves k0 z0 s) (hk0 : 1352 &&& k0 = 1352) :
    Moves k0 z0 (heatAge s shift) := by
  refine hz.trans ?_
  clear hz
  unfold heatAge
  repeat' first
    | with_reducible exact Moves.refl _ _
    | with_reducible assumption
    | with_reducible exact mask_le hk0 (by decide)
    | with_reducible apply Moves.ite
    | with_reducible apply Moves.ite_fst
    | with_reducible (apply State.modTiers_moves (h1 := rfl) (h2 := rfl))
    | with_reducible (apply State.modTiers_moves (h1 := by split <;> rfl) (h2 := by split <;> rfl))
    | with_reducible (apply commonSettle_moves)
    | with_reducible (apply Moves.foldl)
    | with_reducible (apply Moves.foldl_fst)
    | with_reducible (apply Moves.of_eq; assumption)
    | with_reducible intro _
    | dsimp only
    | split

theorem tierLookup_moves (s : State) (v : Nat) {k0 : Nat} {z0 : State} (hz : Moves k0 z0 s) (hk0 : 256 &&& k0 = 256) :
    Moves k0 z0 (tierLookup s v) := by
  refine hz.trans ?_
  clear hz
  unfold tierLookup
  repeat' first
    | with_reducible exact Moves.refl _ _
    | with_reducible assumption
    | with_reducible exact mask_le hk0 (by decide)
    | with_reducible apply Moves.ite
    | with_reducible apply Moves.ite_fst
    | with_reducible (apply State.modTiers_moves (h1 := rfl) (h2 := rfl))
    | with_reducible (apply State.modTiers_moves (h1 := by split <;> rfl) (h2 := by split <;> rfl))
    | with_reducible (apply Moves.foldl)
    | with_reducible (apply Moves.foldl_fst)
    | with_reducible (apply Moves.of_eq; assumption)
    | with_reducible intro _
    | dsimp only
    | split

theorem writeShare_moves (s : State) (n : Nat) (v : Nat) {k0 : Nat} {z0 : State} (hz : Moves k0 z0 s) (hk0 : 256 &&& k0 = 256) :
    Moves k0 z0 (writeShare s n v) := by
  refine hz.trans ?_
  clear hz
  unfold writeShare
  repeat' first
    | with_reducible exact Moves.refl _ _
    | with_reducible assumption
    | with_reducible exact mask_le hk0 (by decide)
    | with_reducible apply Moves.ite
    | with_reducible apply Moves.ite_fst
    | with_reducible (apply State.modTiers_moves (h1 := rfl) (h2 := rfl))
    | with_reducible (apply State.modTiers_moves (h1 := by split <;> rfl) (h2 := by split <;> rfl))
    | with_reducible (apply Moves.foldl)
    | with_reducible (apply Moves.foldl_fst)
    | with_reducible (apply Moves.of_eq; assumption)
    | with_reducible intro _
    | dsimp only
    | split

theorem clearOne_moves (s : State) (tier2 : Bool) (f : Nat) {k0 : Nat} {z0 : State} (hz : Moves k0 z0 s) (hk0 : 256 &&& k0 = 256) :
    Moves k0 z0 (clearOne s tier2 f) := by
  refine hz.trans ?_
  clear hz
  unfold clearOne
  repeat' first
    | with_reducible exact Moves.refl _ _
    | with_reducible assumption
    | with_reducible exact mask_le hk0 (by decide)
    | with_reducible apply Moves.ite
    | with_reducible apply Moves.ite_fst
    | with_reducible (apply State.setFrame_moves)
    | with_reducible (apply State.setHandle_moves)
    | with_reducible (apply State.setMem_moves (hm := fun w => memDrop_wf _ _ (memWf_t1 w)))
    | with_reducible (apply State.setMem_moves (hm := fun w => memDrop_wf _ _ (memWf_t2 w)))
    | with_reducible (apply State.setMem_moves (hm := fun w => memDrop_wf _ _ (tierMem_wf _ w)))
    | with_reducible (apply State.setMem_moves (hm := fun w => memPutAll_wf _ _ (memWf_t1 w)))
    | with_reducible (apply State.setMem_moves (hm := fun w => memPutAll_wf _ _ (memWf_t2 w)))
    | with_reducible (apply State.setMem_moves (hm := fun w => memPutAll_wf _ _ (tierMem_wf _ w)))
    | with_reducible (apply State.setMem_moves (hm := fun w => copyPage_wf _ _ _ (memWf_t1 w)))
    | with_reducible (apply State.setMem_moves (hm := fun w => copyPage_wf _ _ _ (memWf_t2 w)))
    | with_reducible (apply State.setMem_moves (hm := fun w => memPutOpt_wf _ _ (memWf_t1 w)))
    | with_reducible (apply State.setMem_moves (hm := fun w => memPutOpt_wf _ _ (memWf_t2 w)))
    | with_reducible (apply Moves.foldl)
    | with_reducible (apply Moves.foldl_fst)
    | with_reducible (apply Moves.of_eq; assumption)
    | with_reducible intro _
    | dsimp only
    | split

theorem clearUnits_moves (tier2 : Bool) (x1 : Nat) (x2 : State) (x3 : Nat) {k0 : Nat} {z0 : State} (hz : Moves k0 z0 x2) (hk0 : 256 &&& k0 = 256) :
    Moves k0 z0 (clearUnits tier2 x1 x2 x3).1 := by
  refine hz.trans ?_
  clear hz
  fun_induction clearUnits tier2 x1 x2 x3
  all_goals repeat' first
    | with_reducible exact Moves.refl _ _
    | with_reducible assumption
    | with_reducible (refine Moves.trans ?_ (by assumption))
    | with_reducible (refine Moves.trans ?_ (Moves.of_eq (by assumption) (by assumption)))
    | with_reducible exact mask_le hk0 (by decide)
    | with_reducible apply Moves.ite
    | with_reducible apply Moves.ite_fst
    | with_reducible (apply clearOne_moves)
    | with_reducible (apply Moves.foldl)
    | with_reducible (apply Moves.foldl_fst)
    | with_reducible (apply Moves.of_eq; assumption)
    | with_reducible intro _
    | dsimp only
    | split

theorem clearUnits_pmoves (tier2 : Bool) (x1 : Nat) (x2 : State) (x3 : Nat) {z1 : State} {y1 : Nat} (he : (clearUnits tier2 x1 x2 x3) = (z1, y1)) {k0 : Nat} {z0 : State} (hz : Moves k0 z0 x2) (hk0 : 256 &&& k0 = 256) :
    Moves k0 z0 z1 := by
  simpa only [he] using clearUnits_moves tier2 x1 x2 x3 hz hk0

end Sys2Proof.Machine
end

