-- ==== Sys2Proof/Laws/MovesEccOps.lean ====
section
/-! SUPPORT. What each operation of Machine/EccOps.lean may change. -/

set_option linter.unreachableTactic false
set_option linter.unusedTactic false
set_option linter.unusedVariables false

namespace Sys2Proof.Machine

theorem State.modEcc_moves (s : State) (f : Ecc → Ecc) {k0 : Nat} {z0 : State} (hz : Moves k0 z0 s) (hk0 : 8192 &&& k0 = 8192) :
    Moves k0 z0 (State.modEcc s f) := by
  exact hz.trans ((Moves.put (s := s) (t := (State.modEcc s f)) (m := 8192) rfl rfl rfl rfl rfl (by intro p hp; cases p <;> first | rfl | exact absurd hp (by decide))).mono hk0)

theorem State.modDie_moves (s : State) (d : Nat) (f : EccDie → EccDie) {k0 : Nat} {z0 : State} (hz : Moves k0 z0 s) (hk0 : 8192 &&& k0 = 8192) :
    Moves k0 z0 (State.modDie s d f) := by
  refine hz.trans ?_
  clear hz
  unfold State.modDie
  repeat' first
    | with_reducible exact Moves.refl _ _
    | with_reducible assumption
    | with_reducible exact mask_le hk0 (by decide)
    | with_reducible apply Moves.ite
    | with_reducible apply Moves.ite_fst
    | with_reducible (apply State.modEcc_moves)
    | with_reducible (apply Moves.foldl)
    | with_reducible (apply Moves.foldl_fst)
    | with_reducible (apply Moves.of_eq; assumption)
    | with_reducible intro _
    | dsimp only
    | split

theorem countCorrected_moves (s : State) (loc : WordLoc) {k0 : Nat} {z0 : State} (hz : Moves k0 z0 s) (hk0 : 271432 &&& k0 = 271432) :
    Moves k0 z0 (countCorrected s loc) := by
  refine hz.trans ?_
  clear hz
  unfold countCorrected
  repeat' first
    | with_reducible exact Moves.refl _ _
    | with_reducible assumption
    | with_reducible exact mask_le hk0 (by decide)
    | with_reducible apply Moves.ite
    | with_reducible apply Moves.ite_fst
    | with_reducible (apply State.modDie_moves)
    | with_reducible (apply postSteward_moves)
    | with_reducible (apply Moves.foldl)
    | with_reducible (apply Moves.foldl_fst)
    | with_reducible (apply Moves.of_eq; assumption)
    | with_reducible intro _
    | dsimp only
    | split

theorem eccEvent_moves (s : State) (loc : WordLoc) (entry : Nat) (kind : Nat) {k0 : Nat} {z0 : State} (hz : Moves k0 z0 s) (hk0 : 263240 &&& k0 = 263240) :
    Moves k0 z0 (eccEvent s loc entry kind) := by
  refine hz.trans ?_
  clear hz
  unfold eccEvent
  repeat' first
    | with_reducible exact Moves.refl _ _
    | with_reducible assumption
    | with_reducible exact mask_le hk0 (by decide)
    | with_reducible apply Moves.ite
    | with_reducible apply Moves.ite_fst
    | with_reducible (apply alertLatch_moves)
    | with_reducible (apply postSteward_moves)
    | with_reducible (apply Moves.foldl)
    | with_reducible (apply Moves.foldl_fst)
    | with_reducible (apply Moves.of_eq; assumption)
    | with_reducible intro _
    | dsimp only
    | split

theorem logDetection_moves (s : State) (loc : WordLoc) (kind : Nat) (source : Nat) (syndrome : Nat) (bit : Nat) (owner : Nat) {k0 : Nat} {z0 : State} (hz : Moves k0 z0 s) (hk0 : 271432 &&& k0 = 271432) :
    Moves k0 z0 (logDetection s loc kind source syndrome bit owner).1 := by
  refine hz.trans ?_
  clear hz
  unfold logDetection
  repeat' first
    | with_reducible exact Moves.refl _ _
    | with_reducible assumption
    | with_reducible exact mask_le hk0 (by decide)
    | with_reducible apply Moves.ite
    | with_reducible apply Moves.ite_fst
    | with_reducible (apply State.modDie_moves)
    | with_reducible (apply eccEvent_moves)
    | with_reducible (apply Moves.foldl)
    | with_reducible (apply Moves.foldl_fst)
    | with_reducible (apply Moves.of_eq; assumption)
    | with_reducible intro _
    | dsimp only
    | split

theorem logDetection_pmoves (s : State) (loc : WordLoc) (kind : Nat) (source : Nat) (syndrome : Nat) (bit : Nat) (owner : Nat) {z1 : State} {y1 : Option Nat} (he : (logDetection s loc kind source syndrome bit owner) = (z1, y1)) {k0 : Nat} {z0 : State} (hz : Moves k0 z0 s) (hk0 : 271432 &&& k0 = 271432) :
    Moves k0 z0 z1 := by
  simpa only [he] using logDetection_moves s loc kind source syndrome bit owner hz hk0

theorem Run.andThen_moves {α β : Type} (r : Run α) (k : α → State → Run β) {k0 : Nat} {z0 : State} (hr : Moves k0 z0 r.1)
    (h : ∀ (a : α) (t : State), Moves k0 z0 t → Moves k0 z0 (k a t).1) : Moves k0 z0 (r.andThen k).1 := by
  obtain ⟨s, e⟩ := r
  cases e with
  | error e => exact hr
  | ok a => exact h a s hr

theorem readWord_moves (s : State) (tier2 : Bool) (frame : Nat) (k : Nat) (source : Nat) {k0 : Nat} {z0 : State} (hz : Moves k0 z0 s) (hk0 : 271432 &&& k0 = 271432) :
    Moves k0 z0 (readWord s tier2 frame k source).1 := by
  refine hz.trans ?_
  clear hz
  unfold readWord
  repeat' first
    | with_reducible exact Moves.refl _ _
    | with_reducible assumption
    | with_reducible exact mask_le hk0 (by decide)
    | with_reducible apply Moves.ite
    | with_reducible apply Moves.ite_fst
    | with_reducible (apply State.modEcc_moves)
    | with_reducible (apply countCorrected_moves)
    | with_reducible (apply logDetection_moves)
    | with_reducible (apply logDetection_pmoves; assumption)
    | with_reducible (apply Moves.foldl)
    | with_reducible (apply Moves.foldl_fst)
    | with_reducible (apply Moves.of_eq; assumption)
    | with_reducible intro _
    | dsimp only
    | split

theorem readWord_pmoves (s : State) (tier2 : Bool) (frame : Nat) (k : Nat) (source : Nat) {z1 : State} {y1 : ReadEnd Nat} (he : (readWord s tier2 frame k source) = (z1, y1)) {k0 : Nat} {z0 : State} (hz : Moves k0 z0 s) (hk0 : 271432 &&& k0 = 271432) :
    Moves k0 z0 z1 := by
  simpa only [he] using readWord_moves s tier2 frame k source hz hk0

theorem readWords_moves (tier2 : Bool) (frame : Nat) (source : Nat) (x3 : List Nat) (x4 : State) {k0 : Nat} {z0 : State} (hz : Moves k0 z0 x4) (hk0 : 271432 &&& k0 = 271432) :
    Moves k0 z0 (readWords tier2 frame source x3 x4).1 := by
  refine hz.trans ?_
  clear hz
  fun_induction readWords tier2 frame source x3 x4
  all_goals repeat' first
    | with_reducible exact Moves.refl _ _
    | with_reducible assumption
    | with_reducible (refine Moves.trans ?_ (by assumption))
    | with_reducible (refine Moves.trans ?_ (Moves.of_eq (by assumption) (by assumption)))
    | with_reducible exact mask_le hk0 (by decide)
    | with_reducible apply Moves.ite
    | with_reducible apply Moves.ite_fst
    | with_reducible (apply readWord_moves)
    | with_reducible (apply readWord_pmoves; assumption)
    | with_reducible (apply Moves.foldl)
    | with_reducible (apply Moves.foldl_fst)
    | with_reducible (apply Moves.of_eq; assumption)
    | with_reducible intro _
    | dsimp only
    | split

theorem readWords_pmoves (tier2 : Bool) (frame : Nat) (source : Nat) (x3 : List Nat) (x4 : State) {z1 : State} {y1 : ReadEnd (List Byte)} (he : (readWords tier2 frame source x3 x4) = (z1, y1)) {k0 : Nat} {z0 : State} (hz : Moves k0 z0 x4) (hk0 : 271432 &&& k0 = 271432) :
    Moves k0 z0 z1 := by
  simpa only [he] using readWords_moves tier2 frame source x3 x4 hz hk0

theorem readFrame_moves (s : State) (tier2 : Bool) (frame : Nat) (off : Nat) (len : Nat) (owner : Nat) (source : Nat) {k0 : Nat} {z0 : State} (hz : Moves k0 z0 s) (hk0 : 271432 &&& k0 = 271432) :
    Moves k0 z0 (readFrame s tier2 frame off len owner source).1 := by
  refine hz.trans ?_
  clear hz
  unfold readFrame
  repeat' first
    | with_reducible exact Moves.refl _ _
    | with_reducible assumption
    | with_reducible exact mask_le hk0 (by decide)
    | with_reducible apply Moves.ite
    | with_reducible apply Moves.ite_fst
    | with_reducible (apply logDetection_moves)
    | with_reducible (apply logDetection_pmoves; assumption)
    | with_reducible (apply readWords_moves)
    | with_reducible (apply readWords_pmoves; assumption)
    | with_reducible (apply Moves.foldl)
    | with_reducible (apply Moves.foldl_fst)
    | with_reducible (apply Moves.of_eq; assumption)
    | with_reducible intro _
    | dsimp only
    | split

theorem readFrame_pmoves (s : State) (tier2 : Bool) (frame : Nat) (off : Nat) (len : Nat) (owner : Nat) (source : Nat) {z1 : State} {y1 : ReadEnd (List Byte)} (he : (readFrame s tier2 frame off len owner source) = (z1, y1)) {k0 : Nat} {z0 : State} (hz : Moves k0 z0 s) (hk0 : 271432 &&& k0 = 271432) :
    Moves k0 z0 z1 := by
  simpa only [he] using readFrame_moves s tier2 frame off len owner source hz hk0

theorem clearMarks_moves (s : State) (lo : Nat) (n : Nat) {k0 : Nat} {z0 : State} (hz : Moves k0 z0 s) (hk0 : 8192 &&& k0 = 8192) :
    Moves k0 z0 (clearMarks s lo n) := by
  refine hz.trans ?_
  clear hz
  unfold clearMarks
  repeat' first
    | with_reducible exact Moves.refl _ _
    | with_reducible assumption
    | with_reducible exact mask_le hk0 (by decide)
    | with_reducible apply Moves.ite
    | with_reducible apply Moves.ite_fst
    | with_reducible (apply State.modEcc_moves)
    | with_reducible (apply Moves.foldl)
    | with_reducible (apply Moves.foldl_fst)
    | with_reducible (apply Moves.of_eq; assumption)
    | with_reducible intro _
    | dsimp only
    | split

theorem clearFrameMarks_moves (s : State) (tier2 : Bool) (frame : Nat) {k0 : Nat} {z0 : State} (hz : Moves k0 z0 s) (hk0 : 8192 &&& k0 = 8192) :
    Moves k0 z0 (clearFrameMarks s tier2 frame) := by
  refine hz.trans ?_
  clear hz
  unfold clearFrameMarks
  repeat' first
    | with_reducible exact Moves.refl _ _
    | with_reducible assumption
    | with_reducible exact mask_le hk0 (by decide)
    | with_reducible apply Moves.ite
    | with_reducible apply Moves.ite_fst
    | with_reducible (apply clearMarks_moves)
    | with_reducible (apply Moves.foldl)
    | with_reducible (apply Moves.foldl_fst)
    | with_reducible (apply Moves.of_eq; assumption)
    | with_reducible intro _
    | dsimp only
    | split

theorem resizeBlock_omoves (s : State) (h : Nat) (blk : Nat) {k0 : Nat} {z0 : State} (hz : Moves k0 z0 s) (hk0 : 256 &&& k0 = 256) :
    OptMoves k0 z0 (resizeBlock s h blk) := by
  suffices hh : OptMoves k0 s (resizeBlock s h blk) from fun t ht => hz.trans (hh t ht)
  clear hz
  unfold resizeBlock
  repeat' first
    | with_reducible exact Moves.refl _ _
    | with_reducible assumption
    | with_reducible exact mask_le hk0 (by decide)
    | with_reducible apply Moves.ite
    | with_reducible apply Moves.ite_fst
    | with_reducible apply OptMoves.none
    | with_reducible apply OptMoves.some
    | with_reducible apply OptMoves.ite
    | with_reducible apply OptMoves.map
    | with_reducible (apply State.setHandle_moves)
    | with_reducible (apply Moves.foldl)
    | with_reducible (apply Moves.foldl_fst)
    | with_reducible (apply Moves.of_eq; assumption)
    | with_reducible intro _
    | dsimp only
    | split

theorem resizeBlock_moves (s : State) (h : Nat) (blk : Nat) {z1 : State} (he : (resizeBlock s h blk) = some z1) {k0 : Nat} {z0 : State} (hz : Moves k0 z0 s) (hk0 : 256 &&& k0 = 256) :
    Moves k0 z0 z1 :=
  resizeBlock_omoves s h blk hz hk0 z1 he

theorem writeBlock_moves (s : State) (n : Nat) (h : Nat) (off : Nat) (bs : List Byte) {k0 : Nat} {z0 : State} (hz : Moves k0 z0 s) (hk0 : 271688 &&& k0 = 271688) :
    Moves k0 z0 (writeBlock s n h off bs).1 := by
  refine hz.trans ?_
  clear hz
  unfold writeBlock
  repeat' first
    | with_reducible exact Moves.refl _ _
    | with_reducible assumption
    | with_reducible exact mask_le hk0 (by decide)
    | with_reducible apply Moves.ite
    | with_reducible apply Moves.ite_fst
    | with_reducible (apply State.setMem_moves (hm := fun w => memDrop_wf _ _ (memWf_t1 w)))
    | with_reducible (apply State.setMem_moves (hm := fun w => memDrop_wf _ _ (memWf_t2 w)))
    | with_reducible (apply State.setMem_moves (hm := fun w => memDrop_wf _ _ (tierMem_wf _ w)))
    | with_reducible (apply State.setMem_moves (hm := fun w => memPutAll_wf _ _ (memWf_t1 w)))
    | with_reducible (apply State.setMem_moves (hm := fun w => memPutAll_wf _ _ (memWf_t2 w)))
    | with_reducible (apply State.setMem_moves (hm := fun w => memPutAll_wf _ _ (tierMem_wf _ w)))
    | with_reducible (apply State.setMem_moves (hm := fun w => copyPage_wf _ _ _ (memWf_t1 w)))
    | with_reducible (apply State.setMem_moves (hm := fun w => copyPage_wf _ _ _ (memWf_t2 w)))
    | with_reducible (apply State.setMem_moves (hm := fun w => memPutOpt_wf _ _ (memWf_t1 w)))
    | with_reducible (apply State.setMem_moves (hm := fun w => memPutOpt_wf _ _ (memWf_t2 w)))
    | with_reducible (apply clearMarks_moves)
    | with_reducible (apply clearNeeded_moves)
    | with_reducible (apply logDetection_moves)
    | with_reducible (apply logDetection_pmoves; assumption)
    | with_reducible (apply resizeBlock_moves; assumption)
    | with_reducible (apply resizeBlock_omoves)
    | with_reducible (apply Moves.foldl)
    | with_reducible (apply Moves.foldl_fst)
    | with_reducible (apply Moves.of_eq; assumption)
    | with_reducible intro _
    | dsimp only
    | split

theorem writeBlock_pmoves (s : State) (n : Nat) (h : Nat) (off : Nat) (bs : List Byte) {z1 : State} {y1 : ReadEnd Unit} (he : (writeBlock s n h off bs) = (z1, y1)) {k0 : Nat} {z0 : State} (hz : Moves k0 z0 s) (hk0 : 271688 &&& k0 = 271688) :
    Moves k0 z0 z1 := by
  simpa only [he] using writeBlock_moves s n h off bs hz hk0

theorem writeFrame_moves (s : State) (n : Nat) (tier2 : Bool) (frame : Nat) (off : Nat) (bs : List Byte) (owner : Nat) {k0 : Nat} {z0 : State} (hz : Moves k0 z0 s) (hk0 : 271688 &&& k0 = 271688) :
    Moves k0 z0 (writeFrame s n tier2 frame off bs owner).1 := by
  refine hz.trans ?_
  clear hz
  unfold writeFrame
  repeat' first
    | with_reducible exact Moves.refl _ _
    | with_reducible assumption
    | with_reducible exact mask_le hk0 (by decide)
    | with_reducible apply Moves.ite
    | with_reducible apply Moves.ite_fst
    | with_reducible (apply State.setMem_moves (hm := fun w => memDrop_wf _ _ (memWf_t1 w)))
    | with_reducible (apply State.setMem_moves (hm := fun w => memDrop_wf _ _ (memWf_t2 w)))
    | with_reducible (apply State.setMem_moves (hm := fun w => memDrop_wf _ _ (tierMem_wf _ w)))
    | with_reducible (apply State.setMem_moves (hm := fun w => memPutAll_wf _ _ (memWf_t1 w)))
    | with_reducible (apply State.setMem_moves (hm := fun w => memPutAll_wf _ _ (memWf_t2 w)))
    | with_reducible (apply State.setMem_moves (hm := fun w => memPutAll_wf _ _ (tierMem_wf _ w)))
    | with_reducible (apply State.setMem_moves (hm := fun w => copyPage_wf _ _ _ (memWf_t1 w)))
    | with_reducible (apply State.setMem_moves (hm := fun w => copyPage_wf _ _ _ (memWf_t2 w)))
    | with_reducible (apply State.setMem_moves (hm := fun w => memPutOpt_wf _ _ (memWf_t1 w)))
    | with_reducible (apply State.setMem_moves (hm := fun w => memPutOpt_wf _ _ (memWf_t2 w)))
    | with_reducible (apply clearMarks_moves)
    | with_reducible (apply logDetection_moves)
    | with_reducible (apply logDetection_pmoves; assumption)
    | with_reducible (apply writeBlock_moves)
    | with_reducible (apply writeBlock_pmoves; assumption)
    | with_reducible (apply Moves.foldl)
    | with_reducible (apply Moves.foldl_fst)
    | with_reducible (apply Moves.of_eq; assumption)
    | with_reducible intro _
    | dsimp only
    | split

theorem writeFrame_pmoves (s : State) (n : Nat) (tier2 : Bool) (frame : Nat) (off : Nat) (bs : List Byte) (owner : Nat) {z1 : State} {y1 : ReadEnd Unit} (he : (writeFrame s n tier2 frame off bs owner) = (z1, y1)) {k0 : Nat} {z0 : State} (hz : Moves k0 z0 s) (hk0 : 271688 &&& k0 = 271688) :
    Moves k0 z0 z1 := by
  simpa only [he] using writeFrame_moves s n tier2 frame off bs owner hz hk0

theorem touchPlace_moves (s : State) (n : Nat) (p : Place2) (heat : Bool) {k0 : Nat} {z0 : State} (hz : Moves k0 z0 s) (hk0 : 1352 &&& k0 = 1352) :
    Moves k0 z0 (touchPlace s n p heat) := by
  refine hz.trans ?_
  clear hz
  unfold touchPlace
  repeat' first
    | with_reducible exact Moves.refl _ _
    | with_reducible assumption
    | with_reducible exact mask_le hk0 (by decide)
    | with_reducible apply Moves.ite
    | with_reducible apply Moves.ite_fst
    | with_reducible (apply touchPage_moves)
    | with_reducible (apply Moves.foldl)
    | with_reducible (apply Moves.foldl_fst)
    | with_reducible (apply Moves.of_eq; assumption)
    | with_reducible intro _
    | dsimp only
    | split

theorem readPieces_moves (n : Nat) (heat : Bool) (x2 : List Piece) (x3 : State) {k0 : Nat} {z0 : State} (hz : Moves k0 z0 x3) (hk0 : 271688 &&& k0 = 271688) :
    Moves k0 z0 (readPieces n heat x2 x3).1 := by
  refine hz.trans ?_
  clear hz
  fun_induction readPieces n heat x2 x3
  all_goals repeat' first
    | with_reducible exact Moves.refl _ _
    | with_reducible assumption
    | with_reducible (refine Moves.trans ?_ (by assumption))
    | with_reducible (refine Moves.trans ?_ (Moves.of_eq (by assumption) (by assumption)))
    | with_reducible exact mask_le hk0 (by decide)
    | with_reducible apply Moves.ite
    | with_reducible apply Moves.ite_fst
    | with_reducible (apply readFrame_moves)
    | with_reducible (apply readFrame_pmoves; assumption)
    | with_reducible (apply touchPlace_moves)
    | with_reducible (apply Moves.foldl)
    | with_reducible (apply Moves.foldl_fst)
    | with_reducible (apply Moves.of_eq; assumption)
    | with_reducible intro _
    | dsimp only
    | split

theorem readPieces_pmoves (n : Nat) (heat : Bool) (x2 : List Piece) (x3 : State) {z1 : State} {y1 : ReadEnd (List Byte)} (he : (readPieces n heat x2 x3) = (z1, y1)) {k0 : Nat} {z0 : State} (hz : Moves k0 z0 x3) (hk0 : 271688 &&& k0 = 271688) :
    Moves k0 z0 z1 := by
  simpa only [he] using readPieces_moves n heat x2 x3 hz hk0

theorem readClaim_moves (s : State) (n : Nat) (va : Nat) (len : Nat) (heat : Bool) {k0 : Nat} {z0 : State} (hz : Moves k0 z0 s) (hk0 : 271688 &&& k0 = 271688) :
    Moves k0 z0 (readClaim s n va len heat).1 := by
  refine hz.trans ?_
  clear hz
  unfold readClaim
  repeat' first
    | with_reducible exact Moves.refl _ _
    | with_reducible assumption
    | with_reducible exact mask_le hk0 (by decide)
    | with_reducible apply Moves.ite
    | with_reducible apply Moves.ite_fst
    | with_reducible (apply readPieces_moves)
    | with_reducible (apply readPieces_pmoves; assumption)
    | with_reducible (apply Moves.foldl)
    | with_reducible (apply Moves.foldl_fst)
    | with_reducible (apply Moves.of_eq; assumption)
    | with_reducible intro _
    | dsimp only
    | split

theorem readClaim_pmoves (s : State) (n : Nat) (va : Nat) (len : Nat) (heat : Bool) {z1 : State} {y1 : ReadEnd (List Byte)} (he : (readClaim s n va len heat) = (z1, y1)) {k0 : Nat} {z0 : State} (hz : Moves k0 z0 s) (hk0 : 271688 &&& k0 = 271688) :
    Moves k0 z0 z1 := by
  simpa only [he] using readClaim_moves s n va len heat hz hk0

theorem poisonWord_moves (s : State) (tier2 : Bool) (frame : Nat) (k : Nat) {k0 : Nat} {z0 : State} (hz : Moves k0 z0 s) (hk0 : 8192 &&& k0 = 8192) :
    Moves k0 z0 (poisonWord s tier2 frame k) := by
  refine hz.trans ?_
  clear hz
  unfold poisonWord
  repeat' first
    | with_reducible exact Moves.refl _ _
    | with_reducible assumption
    | with_reducible exact mask_le hk0 (by decide)
    | with_reducible apply Moves.ite
    | with_reducible apply Moves.ite_fst
    | with_reducible (apply State.modEcc_moves)
    | with_reducible (apply Moves.foldl)
    | with_reducible (apply Moves.foldl_fst)
    | with_reducible (apply Moves.of_eq; assumption)
    | with_reducible intro _
    | dsimp only
    | split

theorem moverReads_moves (s : State) (tier2 : Bool) (frame : Nat) {k0 : Nat} {z0 : State} (hz : Moves k0 z0 s) (hk0 : 271432 &&& k0 = 271432) :
    Moves k0 z0 (moverReads s tier2 frame) := by
  refine hz.trans ?_
  clear hz
  unfold moverReads
  repeat' first
    | with_reducible exact Moves.refl _ _
    | with_reducible assumption
    | with_reducible exact mask_le hk0 (by decide)
    | with_reducible apply Moves.ite
    | with_reducible apply Moves.ite_fst
    | with_reducible (apply countCorrected_moves)
    | with_reducible (apply logDetection_moves)
    | with_reducible (apply logDetection_pmoves; assumption)
    | with_reducible (apply Moves.foldl)
    | with_reducible (apply Moves.foldl_fst)
    | with_reducible (apply Moves.of_eq; assumption)
    | with_reducible intro _
    | dsimp only
    | split

theorem commitCarry_moves (s : State) (t : Nat) (page : Nat) {k0 : Nat} {z0 : State} (hz : Moves k0 z0 s) (hk0 : 271688 &&& k0 = 271688) :
    Moves k0 z0 (commitCarry s t page) := by
  refine hz.trans ?_
  clear hz
  unfold commitCarry
  repeat' first
    | with_reducible exact Moves.refl _ _
    | with_reducible assumption
    | with_reducible exact mask_le hk0 (by decide)
    | with_reducible apply Moves.ite
    | with_reducible apply Moves.ite_fst
    | with_reducible (apply clearFrameMarks_moves)
    | with_reducible (apply commitMove_moves)
    | with_reducible (apply moverReads_moves)
    | with_reducible (apply poisonWord_moves)
    | with_reducible (apply Moves.foldl)
    | with_reducible (apply Moves.foldl_fst)
    | with_reducible (apply Moves.of_eq; assumption)
    | with_reducible intro _
    | dsimp only
    | split

theorem settleMove_moves (s : State) (p : Place2) {k0 : Nat} {z0 : State} (hz : Moves k0 z0 s) (hk0 : 271688 &&& k0 = 271688) :
    Moves k0 z0 (settleMove s p) := by
  refine hz.trans ?_
  clear hz
  unfold settleMove
  repeat' first
    | with_reducible exact Moves.refl _ _
    | with_reducible assumption
    | with_reducible exact mask_le hk0 (by decide)
    | with_reducible apply Moves.ite
    | with_reducible apply Moves.ite_fst
    | with_reducible (apply commitCarry_moves)
    | with_reducible (apply Moves.foldl)
    | with_reducible (apply Moves.foldl_fst)
    | with_reducible (apply Moves.of_eq; assumption)
    | with_reducible intro _
    | dsimp only
    | split

theorem dropCached_moves (s : State) (n : Nat) (page : Nat) {k0 : Nat} {z0 : State} (hz : Moves k0 z0 s) (hk0 : 128 &&& k0 = 128) :
    Moves k0 z0 (dropCached s n page) := by
  refine hz.trans ?_
  clear hz
  unfold dropCached
  repeat' first
    | with_reducible exact Moves.refl _ _
    | with_reducible assumption
    | with_reducible exact mask_le hk0 (by decide)
    | with_reducible apply Moves.ite
    | with_reducible apply Moves.ite_fst
    | with_reducible (apply State.modDl_moves)
    | with_reducible (apply Moves.foldl)
    | with_reducible (apply Moves.foldl_fst)
    | with_reducible (apply Moves.of_eq; assumption)
    | with_reducible intro _
    | dsimp only
    | split

theorem writePieces_moves (n : Nat) (heat : Bool) (x2 : List Piece) (x3 : List Byte) (x4 : State) {k0 : Nat} {z0 : State} (hz : Moves k0 z0 x4) (hk0 : 271816 &&& k0 = 271816) :
    Moves k0 z0 (writePieces n heat x2 x3 x4).1 := by
  refine hz.trans ?_
  clear hz
  fun_induction writePieces n heat x2 x3 x4
  all_goals repeat' first
    | with_reducible exact Moves.refl _ _
    | with_reducible assumption
    | with_reducible (refine Moves.trans ?_ (by assumption))
    | with_reducible (refine Moves.trans ?_ (Moves.of_eq (by assumption) (by assumption)))
    | with_reducible exact mask_le hk0 (by decide)
    | with_reducible apply Moves.ite
    | with_reducible apply Moves.ite_fst
    | with_reducible (apply dropCached_moves)
    | with_reducible (apply settleMove_moves)
    | with_reducible (apply touchPlace_moves)
    | with_reducible (apply writeFrame_moves)
    | with_reducible (apply writeFrame_pmoves; assumption)
    | with_reducible (apply Moves.foldl)
    | with_reducible (apply Moves.foldl_fst)
    | with_reducible (apply Moves.of_eq; assumption)
    | with_reducible intro _
    | dsimp only
    | split

theorem writePieces_pmoves (n : Nat) (heat : Bool) (x2 : List Piece) (x3 : List Byte) (x4 : State) {z1 : State} {y1 : ReadEnd Unit} (he : (writePieces n heat x2 x3 x4) = (z1, y1)) {k0 : Nat} {z0 : State} (hz : Moves k0 z0 x4) (hk0 : 271816 &&& k0 = 271816) :
    Moves k0 z0 z1 := by
  simpa only [he] using writePieces_moves n heat x2 x3 x4 hz hk0

theorem afterMoves_moves (k : State → State) (s : State) {k0 : Nat} {z0 : State} (hz : Moves k0 z0 s) (hk0 : 0 &&& k0 = 0) (hk_k : ∀ (v0 : State), Moves k0 v0 (k v0)) :
    Moves k0 z0 (afterMoves k s) := by
  refine hz.trans ?_
  clear hz
  unfold afterMoves
  repeat' first
    | with_reducible exact Moves.refl _ _
    | with_reducible assumption
    | with_reducible exact mask_le hk0 (by decide)
    | with_reducible apply Moves.ite
    | with_reducible apply Moves.ite_fst
    | with_reducible (refine Moves.trans ?_ (hk_k ..))
    | with_reducible (apply Moves.foldl)
    | with_reducible (apply Moves.foldl_fst)
    | with_reducible (apply Moves.of_eq; assumption)
    | with_reducible intro _
    | dsimp only
    | split

theorem writeClaim_moves (s : State) (n : Nat) (va : Nat) (bs : List Byte) (heat : Bool) {k0 : Nat} {z0 : State} (hz : Moves k0 z0 s) (hk0 : 271816 &&& k0 = 271816) :
    Moves k0 z0 (writeClaim s n va bs heat).1 := by
  refine hz.trans ?_
  clear hz
  unfold writeClaim
  repeat' first
    | with_reducible exact Moves.refl _ _
    | with_reducible assumption
    | with_reducible exact mask_le hk0 (by decide)
    | with_reducible apply Moves.ite
    | with_reducible apply Moves.ite_fst
    | with_reducible (apply writePieces_moves)
    | with_reducible (apply writePieces_pmoves; assumption)
    | with_reducible (apply Moves.foldl)
    | with_reducible (apply Moves.foldl_fst)
    | with_reducible (apply Moves.of_eq; assumption)
    | with_reducible intro _
    | dsimp only
    | split

theorem writeClaim_pmoves (s : State) (n : Nat) (va : Nat) (bs : List Byte) (heat : Bool) {z1 : State} {y1 : ReadEnd Unit} (he : (writeClaim s n va bs heat) = (z1, y1)) {k0 : Nat} {z0 : State} (hz : Moves k0 z0 s) (hk0 : 271816 &&& k0 = 271816) :
    Moves k0 z0 z1 := by
  simpa only [he] using writeClaim_moves s n va bs heat hz hk0

end Sys2Proof.Machine
end

