-- ==== Sys2Proof/Laws/MovesEccOps2.lean ====
section
/-! SUPPORT. What each operation of Machine/EccOps2.lean may change. -/

set_option linter.unreachableTactic false
set_option linter.unusedTactic false
set_option linter.unusedVariables false

namespace Sys2Proof.Machine

theorem rewriteWord_moves (s : State) (tier2 : Bool) (frame : Nat) (k : Nat) {k0 : Nat} {z0 : State} (hz : Moves k0 z0 s) (hk0 : 8448 &&& k0 = 8448) :
    Moves k0 z0 (rewriteWord s tier2 frame k) := by
  refine hz.trans ?_
  clear hz
  unfold rewriteWord
  repeat' first
    | with_reducible exact Moves.refl _ _
    | with_reducible assumption
    | with_reducible exact mask_le hk0 (by decide)
    | with_reducible apply Moves.ite
    | with_reducible apply Moves.ite_fst
    | with_reducible (apply State.setMem_moves (hm := fun w => memDrop_wf _ _ (memWf_t1 w)))
    | with_reducible (apply State.setMem_moves (hm := fun w => memDrop_wf _ _ (memWf_t2 w)))
    | with_reducible (apply State.setMem_moves (hm := fun w => memDrop_wf _ _ (tierMem_wf _ w)))
    | with_reducible (apply State.setMem_moves (hm := fun w => memPutAll_wf _ _ (memWf_t1 w)))
    | with_reducible (apply State.setMem_moves (hm := fun w => memPutAll_wf _ _ (memWf_t2 w)))
    | with_reducible (apply State.setMem_moves (hm := fun w => memPutAll_wf _ _ (tierMem_wf _ w)))
    | with_reducible (apply State.setMem_moves (hm := fun w => copyPage_wf _ _ _ (memWf_t1 w)))
    | with_reducible (apply State.setMem_moves (hm := fun w => copyPage_wf _ _ _ (memWf_t2 w)))
    | with_reducible (apply State.setMem_moves (hm := fun w => memPutOpt_wf _ _ (memWf_t1 w)))
    | with_reducible (apply State.setMem_moves (hm := fun w => memPutOpt_wf _ _ (memWf_t2 w)))
    | with_reducible (apply clearMarks_moves)
    | with_reducible (apply Moves.foldl)
    | with_reducible (apply Moves.foldl_fst)
    | with_reducible (apply Moves.of_eq; assumption)
    | with_reducible intro _
    | dsimp only
    | split

theorem writeBack_moves (s : State) {k0 : Nat} {z0 : State} (hz : Moves k0 z0 s) (hk0 : 8448 &&& k0 = 8448) :
    Moves k0 z0 (writeBack s) := by
  refine hz.trans ?_
  clear hz
  unfold writeBack
  repeat' first
    | with_reducible exact Moves.refl _ _
    | with_reducible assumption
    | with_reducible exact mask_le hk0 (by decide)
    | with_reducible apply Moves.ite
    | with_reducible apply Moves.ite_fst
    | with_reducible (apply State.modEcc_moves)
    | with_reducible (apply rewriteWord_moves)
    | with_reducible (apply Moves.foldl)
    | with_reducible (apply Moves.foldl_fst)
    | with_reducible (apply Moves.of_eq; assumption)
    | with_reducible intro _
    | dsimp only
    | split

theorem testDecode_moves (s : State) (key : Nat) {k0 : Nat} {z0 : State} (hz : Moves k0 z0 s) (hk0 : 8192 &&& k0 = 8192) :
    Moves k0 z0 (testDecode s key).1 := by
  refine hz.trans ?_
  clear hz
  unfold testDecode
  repeat' first
    | with_reducible exact Moves.refl _ _
    | with_reducible assumption
    | with_reducible exact mask_le hk0 (by decide)
    | with_reducible apply Moves.ite
    | with_reducible apply Moves.ite_fst
    | with_reducible (apply State.modEcc_moves)
    | with_reducible (apply Moves.foldl)
    | with_reducible (apply Moves.foldl_fst)
    | with_reducible (apply Moves.of_eq; assumption)
    | with_reducible intro _
    | dsimp only
    | split

theorem testDecode_pmoves (s : State) (key : Nat) {z1 : State} {y1 : WordClass × Nat × Nat × Nat × WordLoc} (he : (testDecode s key) = (z1, y1)) {k0 : Nat} {z0 : State} (hz : Moves k0 z0 s) (hk0 : 8192 &&& k0 = 8192) :
    Moves k0 z0 z1 := by
  simpa only [he] using testDecode_moves s key hz hk0

theorem testTouch_moves (s : State) (key : Nat) {k0 : Nat} {z0 : State} (hz : Moves k0 z0 s) (hk0 : 384 &&& k0 = 384) :
    Moves k0 z0 (testTouch s key) := by
  refine hz.trans ?_
  clear hz
  unfold testTouch
  repeat' first
    | with_reducible exact Moves.refl _ _
    | with_reducible assumption
    | with_reducible exact mask_le hk0 (by decide)
    | with_reducible apply Moves.ite
    | with_reducible apply Moves.ite_fst
    | with_reducible (apply State.modDl_moves)
    | with_reducible (apply State.setFrame_moves)
    | with_reducible (apply State.setHandle_moves)
    | with_reducible (apply Moves.foldl)
    | with_reducible (apply Moves.foldl_fst)
    | with_reducible (apply Moves.of_eq; assumption)
    | with_reducible intro _
    | dsimp only
    | split

theorem testStore_moves (s : State) (key : Nat) (diff : Nat) {k0 : Nat} {z0 : State} (hz : Moves k0 z0 s) (hk0 : 8576 &&& k0 = 8576) :
    Moves k0 z0 (testStore s key diff) := by
  refine hz.trans ?_
  clear hz
  unfold testStore
  repeat' first
    | with_reducible exact Moves.refl _ _
    | with_reducible assumption
    | with_reducible exact mask_le hk0 (by decide)
    | with_reducible apply Moves.ite
    | with_reducible apply Moves.ite_fst
    | with_reducible (apply State.modEcc_moves)
    | with_reducible (apply State.setMem_moves (hm := fun w => memDrop_wf _ _ (memWf_t1 w)))
    | with_reducible (apply State.setMem_moves (hm := fun w => memDrop_wf _ _ (memWf_t2 w)))
    | with_reducible (apply State.setMem_moves (hm := fun w => memDrop_wf _ _ (tierMem_wf _ w)))
    | with_reducible (apply State.setMem_moves (hm := fun w => memPutAll_wf _ _ (memWf_t1 w)))
    | with_reducible (apply State.setMem_moves (hm := fun w => memPutAll_wf _ _ (memWf_t2 w)))
    | with_reducible (apply State.setMem_moves (hm := fun w => memPutAll_wf _ _ (tierMem_wf _ w)))
    | with_reducible (apply State.setMem_moves (hm := fun w => copyPage_wf _ _ _ (memWf_t1 w)))
    | with_reducible (apply State.setMem_moves (hm := fun w => copyPage_wf _ _ _ (memWf_t2 w)))
    | with_reducible (apply State.setMem_moves (hm := fun w => memPutOpt_wf _ _ (memWf_t1 w)))
    | with_reducible (apply State.setMem_moves (hm := fun w => memPutOpt_wf _ _ (memWf_t2 w)))
    | with_reducible (apply clearMarks_moves)
    | with_reducible (apply testTouch_moves)
    | with_reducible (apply Moves.foldl)
    | with_reducible (apply Moves.foldl_fst)
    | with_reducible (apply Moves.of_eq; assumption)
    | with_reducible intro _
    | dsimp only
    | split

theorem testRefused_moves (s : State) {k0 : Nat} {z0 : State} (hz : Moves k0 z0 s) (hk0 : 8192 &&& k0 = 8192) :
    Moves k0 z0 (testRefused s) := by
  refine hz.trans ?_
  clear hz
  unfold testRefused
  repeat' first
    | with_reducible exact Moves.refl _ _
    | with_reducible assumption
    | with_reducible exact mask_le hk0 (by decide)
    | with_reducible apply Moves.ite
    | with_reducible apply Moves.ite_fst
    | with_reducible (apply State.modEcc_moves)
    | with_reducible (apply Moves.foldl)
    | with_reducible (apply Moves.foldl_fst)
    | with_reducible (apply Moves.of_eq; assumption)
    | with_reducible intro _
    | dsimp only
    | split

theorem testRun_moves (s : State) (op : State → Nat → State) {k0 : Nat} {z0 : State} (hz : Moves k0 z0 s) (hk0 : 8192 &&& k0 = 8192) (hk_op : ∀ (v0 : State) (v1 : Nat), Moves k0 v0 (op v0 v1)) :
    Moves k0 z0 (testRun s op) := by
  refine hz.trans ?_
  clear hz
  unfold testRun
  repeat' first
    | with_reducible exact Moves.refl _ _
    | with_reducible assumption
    | with_reducible exact mask_le hk0 (by decide)
    | with_reducible apply Moves.ite
    | with_reducible apply Moves.ite_fst
    | with_reducible (refine Moves.trans ?_ (hk_op ..))
    | with_reducible (apply State.modEcc_moves)
    | with_reducible (apply testRefused_moves)
    | with_reducible (apply Moves.foldl)
    | with_reducible (apply Moves.foldl_fst)
    | with_reducible (apply Moves.of_eq; assumption)
    | with_reducible intro _
    | dsimp only
    | split

theorem testWriteNormal_moves (s : State) {k0 : Nat} {z0 : State} (hz : Moves k0 z0 s) (hk0 : 8576 &&& k0 = 8576) :
    Moves k0 z0 (testWriteNormal s) := by
  refine hz.trans ?_
  clear hz
  unfold testWriteNormal
  repeat' first
    | with_reducible exact Moves.refl _ _
    | with_reducible assumption
    | with_reducible exact mask_le hk0 (by decide)
    | with_reducible apply Moves.ite
    | with_reducible apply Moves.ite_fst
    | with_reducible (apply State.modEcc_moves)
    | with_reducible (apply testRun_moves)
    | with_reducible (apply testStore_moves)
    | with_reducible (apply Moves.foldl)
    | with_reducible (apply Moves.foldl_fst)
    | with_reducible (apply Moves.of_eq; assumption)
    | with_reducible intro _
    | dsimp only
    | split

theorem testWriteSplit_moves (s : State) {k0 : Nat} {z0 : State} (hz : Moves k0 z0 s) (hk0 : 8576 &&& k0 = 8576) :
    Moves k0 z0 (testWriteSplit s) := by
  refine hz.trans ?_
  clear hz
  unfold testWriteSplit
  repeat' first
    | with_reducible exact Moves.refl _ _
    | with_reducible assumption
    | with_reducible exact mask_le hk0 (by decide)
    | with_reducible apply Moves.ite
    | with_reducible apply Moves.ite_fst
    | with_reducible (apply State.modEcc_moves)
    | with_reducible (apply testRun_moves)
    | with_reducible (apply testStore_moves)
    | with_reducible (apply Moves.foldl)
    | with_reducible (apply Moves.foldl_fst)
    | with_reducible (apply Moves.of_eq; assumption)
    | with_reducible intro _
    | dsimp only
    | split

theorem noteWord_moves (s : State) (loc : WordLoc) (cls : WordClass) (syn : Nat) (bit_ : Nat) (tag : Nat) (source : Nat) {k0 : Nat} {z0 : State} (hz : Moves k0 z0 s) (hk0 : 271432 &&& k0 = 271432) :
    Moves k0 z0 (noteWord s loc cls syn bit_ tag source) := by
  refine hz.trans ?_
  clear hz
  unfold noteWord
  repeat' first
    | with_reducible exact Moves.refl _ _
    | with_reducible assumption
    | with_reducible exact mask_le hk0 (by decide)
    | with_reducible apply Moves.ite
    | with_reducible apply Moves.ite_fst
    | with_reducible (apply State.modEcc_moves)
    | with_reducible (apply countCorrected_moves)
    | with_reducible (apply logDetection_moves)
    | with_reducible (apply logDetection_pmoves; assumption)
    | with_reducible (apply Moves.foldl)
    | with_reducible (apply Moves.foldl_fst)
    | with_reducible (apply Moves.of_eq; assumption)
    | with_reducible intro _
    | dsimp only
    | split

theorem testRead_moves (s : State) {k0 : Nat} {z0 : State} (hz : Moves k0 z0 s) (hk0 : 271432 &&& k0 = 271432) :
    Moves k0 z0 (testRead s) := by
  refine hz.trans ?_
  clear hz
  unfold testRead
  repeat' first
    | with_reducible exact Moves.refl _ _
    | with_reducible assumption
    | with_reducible exact mask_le hk0 (by decide)
    | with_reducible apply Moves.ite
    | with_reducible apply Moves.ite_fst
    | with_reducible (apply State.modEcc_moves)
    | with_reducible (apply logDetection_moves)
    | with_reducible (apply logDetection_pmoves; assumption)
    | with_reducible (apply noteWord_moves)
    | with_reducible (apply testDecode_moves)
    | with_reducible (apply testDecode_pmoves; assumption)
    | with_reducible (apply testRun_moves)
    | with_reducible (apply Moves.foldl)
    | with_reducible (apply Moves.foldl_fst)
    | with_reducible (apply Moves.of_eq; assumption)
    | with_reducible intro _
    | dsimp only
    | split

theorem testArm_moves (s : State) {k0 : Nat} {z0 : State} (hz : Moves k0 z0 s) (hk0 : 8192 &&& k0 = 8192) :
    Moves k0 z0 (testArm s) := by
  refine hz.trans ?_
  clear hz
  unfold testArm
  repeat' first
    | with_reducible exact Moves.refl _ _
    | with_reducible assumption
    | with_reducible exact mask_le hk0 (by decide)
    | with_reducible apply Moves.ite
    | with_reducible apply Moves.ite_fst
    | with_reducible (apply State.modEcc_moves)
    | with_reducible (apply testRun_moves)
    | with_reducible (apply Moves.foldl)
    | with_reducible (apply Moves.foldl_fst)
    | with_reducible (apply Moves.of_eq; assumption)
    | with_reducible intro _
    | dsimp only
    | split

theorem wakeCores_moves (s : State) (cs : List Nat) {k0 : Nat} {z0 : State} (hz : Moves k0 z0 s) (hk0 : 128 &&& k0 = 128) :
    Moves k0 z0 (wakeCores s cs) := by
  refine hz.trans ?_
  clear hz
  unfold wakeCores
  repeat' first
    | with_reducible exact Moves.refl _ _
    | with_reducible assumption
    | with_reducible exact mask_le hk0 (by decide)
    | with_reducible apply Moves.ite
    | with_reducible apply Moves.ite_fst
    | with_reducible (apply State.modDl_moves)
    | with_reducible (apply Moves.foldl)
    | with_reducible (apply Moves.foldl_fst)
    | with_reducible (apply Moves.of_eq; assumption)
    | with_reducible intro _
    | dsimp only
    | split

theorem scrubDie_moves (s : State) (die : Nat) (tier : Nat) (len : Nat) {k0 : Nat} {z0 : State} (hz : Moves k0 z0 s) (hk0 : 271560 &&& k0 = 271560) :
    Moves k0 z0 (scrubDie s die tier len) := by
  refine hz.trans ?_
  clear hz
  unfold scrubDie
  repeat' first
    | with_reducible exact Moves.refl _ _
    | with_reducible assumption
    | with_reducible exact mask_le hk0 (by decide)
    | with_reducible apply Moves.ite
    | with_reducible apply Moves.ite_fst
    | with_reducible (apply State.modDie_moves)
    | with_reducible (apply noteWord_moves)
    | with_reducible (apply testDecode_moves)
    | with_reducible (apply testDecode_pmoves; assumption)
    | with_reducible (apply wakeCores_moves)
    | with_reducible (apply Moves.foldl)
    | with_reducible (apply Moves.foldl_fst)
    | with_reducible (apply Moves.of_eq; assumption)
    | with_reducible intro _
    | dsimp only
    | split

theorem scrubSlice_moves (s : State) (t0 : Bool) (t1 : Bool) (t2 : Bool) (len : Nat) {k0 : Nat} {z0 : State} (hz : Moves k0 z0 s) (hk0 : 271560 &&& k0 = 271560) :
    Moves k0 z0 (scrubSlice s t0 t1 t2 len) := by
  refine hz.trans ?_
  clear hz
  unfold scrubSlice
  repeat' first
    | with_reducible exact Moves.refl _ _
    | with_reducible assumption
    | with_reducible exact mask_le hk0 (by decide)
    | with_reducible apply Moves.ite
    | with_reducible apply Moves.ite_fst
    | with_reducible (apply scrubDie_moves)
    | with_reducible (apply Moves.foldl)
    | with_reducible (apply Moves.foldl_fst)
    | with_reducible (apply Moves.of_eq; assumption)
    | with_reducible intro _
    | dsimp only
    | split

theorem patchAnswer_moves (s : State) (entry : Nat) (reason : Nat) {k0 : Nat} {z0 : State} (hz : Moves k0 z0 s) (hk0 : 8192 &&& k0 = 8192) :
    Moves k0 z0 (patchAnswer s entry reason) := by
  refine hz.trans ?_
  clear hz
  unfold patchAnswer
  repeat' first
    | with_reducible exact Moves.refl _ _
    | with_reducible assumption
    | with_reducible exact mask_le hk0 (by decide)
    | with_reducible apply Moves.ite
    | with_reducible apply Moves.ite_fst
    | with_reducible (apply State.modEcc_moves)
    | with_reducible (apply Moves.foldl)
    | with_reducible (apply Moves.foldl_fst)
    | with_reducible (apply Moves.of_eq; assumption)
    | with_reducible intro _
    | dsimp only
    | split

theorem patchFix_moves (s : State) (key : Nat) {k0 : Nat} {z0 : State} (hz : Moves k0 z0 s) (hk0 : 8448 &&& k0 = 8448) :
    Moves k0 z0 (patchFix s key) := by
  refine hz.trans ?_
  clear hz
  unfold patchFix
  repeat' first
    | with_reducible exact Moves.refl _ _
    | with_reducible assumption
    | with_reducible exact mask_le hk0 (by decide)
    | with_reducible apply Moves.ite
    | with_reducible apply Moves.ite_fst
    | with_reducible (apply State.modEcc_moves)
    | with_reducible (apply rewriteWord_moves)
    | with_reducible (apply Moves.foldl)
    | with_reducible (apply Moves.foldl_fst)
    | with_reducible (apply Moves.of_eq; assumption)
    | with_reducible intro _
    | dsimp only
    | split

theorem patchInstall_moves (s : State) (d : Nat) (mac : Nat) (row : Nat) (word : Nat) {k0 : Nat} {z0 : State} (hz : Moves k0 z0 s) (hk0 : 8448 &&& k0 = 8448) :
    Moves k0 z0 (patchInstall s d mac row word) := by
  refine hz.trans ?_
  clear hz
  unfold patchInstall
  repeat' first
    | with_reducible exact Moves.refl _ _
    | with_reducible assumption
    | with_reducible exact mask_le hk0 (by decide)
    | with_reducible apply Moves.ite
    | with_reducible apply Moves.ite_fst
    | with_reducible (apply State.modDie_moves)
    | with_reducible (apply patchAnswer_moves)
    | with_reducible (apply patchFix_moves)
    | with_reducible (apply Moves.foldl)
    | with_reducible (apply Moves.foldl_fst)
    | with_reducible (apply Moves.of_eq; assumption)
    | with_reducible intro _
    | dsimp only
    | split

theorem patchRemove_moves (s : State) (d : Nat) (mac : Nat) (row : Nat) (word : Nat) {k0 : Nat} {z0 : State} (hz : Moves k0 z0 s) (hk0 : 8192 &&& k0 = 8192) :
    Moves k0 z0 (patchRemove s d mac row word) := by
  refine hz.trans ?_
  clear hz
  unfold patchRemove
  repeat' first
    | with_reducible exact Moves.refl _ _
    | with_reducible assumption
    | with_reducible exact mask_le hk0 (by decide)
    | with_reducible apply Moves.ite
    | with_reducible apply Moves.ite_fst
    | with_reducible (apply State.modDie_moves)
    | with_reducible (apply patchAnswer_moves)
    | with_reducible (apply Moves.foldl)
    | with_reducible (apply Moves.foldl_fst)
    | with_reducible (apply Moves.of_eq; assumption)
    | with_reducible intro _
    | dsimp only
    | split

theorem clearUnitsEcc_moves (tier2 : Bool) (x1 : Nat) (x2 : State) (x3 : Nat) {k0 : Nat} {z0 : State} (hz : Moves k0 z0 x2) (hk0 : 8448 &&& k0 = 8448) :
    Moves k0 z0 (clearUnitsEcc tier2 x1 x2 x3).1 := by
  refine hz.trans ?_
  clear hz
  fun_induction clearUnitsEcc tier2 x1 x2 x3
  all_goals repeat' first
    | with_reducible exact Moves.refl _ _
    | with_reducible assumption
    | with_reducible (refine Moves.trans ?_ (by assumption))
    | with_reducible (refine Moves.trans ?_ (Moves.of_eq (by assumption) (by assumption)))
    | with_reducible exact mask_le hk0 (by decide)
    | with_reducible apply Moves.ite
    | with_reducible apply Moves.ite_fst
    | with_reducible (apply clearFrameMarks_moves)
    | with_reducible (apply clearOne_moves)
    | with_reducible (apply Moves.foldl)
    | with_reducible (apply Moves.foldl_fst)
    | with_reducible (apply Moves.of_eq; assumption)
    | with_reducible intro _
    | dsimp only
    | split

theorem clearUnitsEcc_pmoves (tier2 : Bool) (x1 : Nat) (x2 : State) (x3 : Nat) {z1 : State} {y1 : Nat} (he : (clearUnitsEcc tier2 x1 x2 x3) = (z1, y1)) {k0 : Nat} {z0 : State} (hz : Moves k0 z0 x2) (hk0 : 8448 &&& k0 = 8448) :
    Moves k0 z0 z1 := by
  simpa only [he] using clearUnitsEcc_moves tier2 x1 x2 x3 hz hk0

theorem demoteLate_moves (s : State) (shoe : Nat) (pages : List Nat) (mask : Nat) {k0 : Nat} {z0 : State} (hz : Moves k0 z0 s) (hk0 : 1352 &&& k0 = 1352) :
    Moves k0 z0 (demoteLate s shoe pages mask).1 := by
  refine hz.trans ?_
  clear hz
  unfold demoteLate
  repeat' first
    | with_reducible exact Moves.refl _ _
    | with_reducible assumption
    | with_reducible exact mask_le hk0 (by decide)
    | with_reducible apply Moves.ite
    | with_reducible apply Moves.ite_fst
    | with_reducible (apply demoteOwn_moves)
    | with_reducible (apply demoteOwn_pmoves; assumption)
    | with_reducible (apply Moves.foldl)
    | with_reducible (apply Moves.foldl_fst)
    | with_reducible (apply Moves.of_eq; assumption)
    | with_reducible intro _
    | dsimp only
    | split

theorem demoteLate_pmoves (s : State) (shoe : Nat) (pages : List Nat) (mask : Nat) {z1 : State} {y1 : Nat} (he : (demoteLate s shoe pages mask) = (z1, y1)) {k0 : Nat} {z0 : State} (hz : Moves k0 z0 s) (hk0 : 1352 &&& k0 = 1352) :
    Moves k0 z0 z1 := by
  simpa only [he] using demoteLate_moves s shoe pages mask hz hk0

theorem settlePage_moves (s : State) (shoe : Nat) (seq : Nat) (l : Nat) (g : Nat) (b : List Byte) (mask : Nat) (started : Nat) {k0 : Nat} {z0 : State} (hz : Moves k0 z0 s) (hk0 : 1480 &&& k0 = 1480) :
    Moves k0 z0 (settlePage s shoe seq l g b mask started) := by
  refine hz.trans ?_
  clear hz
  unfold settlePage
  repeat' first
    | with_reducible exact Moves.refl _ _
    | with_reducible assumption
    | with_reducible exact mask_le hk0 (by decide)
    | with_reducible apply Moves.ite
    | with_reducible apply Moves.ite_fst
    | with_reducible (apply completeCmd_moves)
    | with_reducible (apply demoteLate_moves)
    | with_reducible (apply demoteLate_pmoves; assumption)
    | with_reducible (apply noteItem_moves)
    | with_reducible (apply setActive_moves)
    | with_reducible (apply unmapOne_moves)
    | with_reducible (apply Moves.foldl)
    | with_reducible (apply Moves.foldl_fst)
    | with_reducible (apply Moves.of_eq; assumption)
    | with_reducible intro _
    | dsimp only
    | split

theorem settleCommon_moves (s : State) (seq : Nat) (l : Nat) (g : Nat) (b : List Byte) {k0 : Nat} {z0 : State} (hz : Moves k0 z0 s) (hk0 : 384 &&& k0 = 384) :
    Moves k0 z0 (settleCommon s seq l g b) := by
  refine hz.trans ?_
  clear hz
  unfold settleCommon
  repeat' first
    | with_reducible exact Moves.refl _ _
    | with_reducible assumption
    | with_reducible exact mask_le hk0 (by decide)
    | with_reducible apply Moves.ite
    | with_reducible apply Moves.ite_fst
    | with_reducible (apply completeCmd_moves)
    | with_reducible (apply unmapOne_moves)
    | with_reducible (apply Moves.foldl)
    | with_reducible (apply Moves.foldl_fst)
    | with_reducible (apply Moves.of_eq; assumption)
    | with_reducible intro _
    | dsimp only
    | split

theorem settlePages_moves (s : State) {k0 : Nat} {z0 : State} (hz : Moves k0 z0 s) (hk0 : 1480 &&& k0 = 1480) :
    Moves k0 z0 (settlePages s) := by
  refine hz.trans ?_
  clear hz
  unfold settlePages
  repeat' first
    | with_reducible exact Moves.refl _ _
    | with_reducible assumption
    | with_reducible exact mask_le hk0 (by decide)
    | with_reducible apply Moves.ite
    | with_reducible apply Moves.ite_fst
    | with_reducible (apply settleCommon_moves)
    | with_reducible (apply settlePage_moves)
    | with_reducible (apply Moves.foldl)
    | with_reducible (apply Moves.foldl_fst)
    | with_reducible (apply Moves.of_eq; assumption)
    | with_reducible intro _
    | dsimp only
    | split

theorem moveCommit_moves (s : State) (t : Nat) (page : Nat) {k0 : Nat} {z0 : State} (hz : Moves k0 z0 s) (hk0 : 271816 &&& k0 = 271816) :
    Moves k0 z0 (moveCommit s t page) := by
  refine hz.trans ?_
  clear hz
  unfold moveCommit
  repeat' first
    | with_reducible exact Moves.refl _ _
    | with_reducible assumption
    | with_reducible exact mask_le hk0 (by decide)
    | with_reducible apply Moves.ite
    | with_reducible apply Moves.ite_fst
    | with_reducible (apply commitCarry_moves)
    | with_reducible (apply settlePages_moves)
    | with_reducible (apply Moves.foldl)
    | with_reducible (apply Moves.foldl_fst)
    | with_reducible (apply Moves.of_eq; assumption)
    | with_reducible intro _
    | dsimp only
    | split

end Sys2Proof.Machine
end

