-- ==== Sys2Proof/Laws/MovesLinkOps.lean ====
section
/-! SUPPORT. What each operation of Machine/LinkOps.lean may change. -/

set_option linter.unreachableTactic false
set_option linter.unusedTactic false
set_option linter.unusedVariables false

namespace Sys2Proof.Machine

theorem queueMgmt_moves (s : State) (p : Nat) (payload : List Byte) {k0 : Nat} {z0 : State} (hz : Moves k0 z0 s) (hk0 : 16384 &&& k0 = 16384) :
    Moves k0 z0 (queueMgmt s p payload) := by
  refine hz.trans ?_
  clear hz
  unfold queueMgmt
  repeat' first
    | with_reducible exact Moves.refl _ _
    | with_reducible assumption
    | with_reducible exact mask_le hk0 (by decide)
    | with_reducible apply Moves.ite
    | with_reducible apply Moves.ite_fst
    | with_reducible (apply State.modPort_moves)
    | with_reducible (apply Moves.foldl)
    | with_reducible (apply Moves.foldl_fst)
    | with_reducible (apply Moves.of_eq; assumption)
    | with_reducible intro _
    | dsimp only
    | split

theorem sendHello_moves (s : State) (p : Nat) {k0 : Nat} {z0 : State} (hz : Moves k0 z0 s) (hk0 : 16384 &&& k0 = 16384) :
    Moves k0 z0 (sendHello s p) := by
  refine hz.trans ?_
  clear hz
  unfold sendHello
  repeat' first
    | with_reducible exact Moves.refl _ _
    | with_reducible assumption
    | with_reducible exact mask_le hk0 (by decide)
    | with_reducible apply Moves.ite
    | with_reducible apply Moves.ite_fst
    | with_reducible (apply State.modPort_moves)
    | with_reducible (apply queueMgmt_moves)
    | with_reducible (apply Moves.foldl)
    | with_reducible (apply Moves.foldl_fst)
    | with_reducible (apply Moves.of_eq; assumption)
    | with_reducible intro _
    | dsimp only
    | split

theorem trainPort_moves (s : State) (p : Nat) (t : TrainResult) {k0 : Nat} {z0 : State} (hz : Moves k0 z0 s) (hk0 : 279624 &&& k0 = 279624) :
    Moves k0 z0 (trainPort s p t) := by
  refine hz.trans ?_
  clear hz
  unfold trainPort
  repeat' first
    | with_reducible exact Moves.refl _ _
    | with_reducible assumption
    | with_reducible exact mask_le hk0 (by decide)
    | with_reducible apply Moves.ite
    | with_reducible apply Moves.ite_fst
    | with_reducible (apply State.emit_moves)
    | with_reducible (apply State.modPort_moves)
    | with_reducible (apply sendHello_moves)
    | with_reducible (apply setPort_moves)
    | with_reducible (apply Moves.foldl)
    | with_reducible (apply Moves.foldl_fst)
    | with_reducible (apply Moves.of_eq; assumption)
    | with_reducible intro _
    | dsimp only
    | split

theorem owe_moves (s : State) (p : Nat) (f : Flit) {k0 : Nat} {z0 : State} (hz : Moves k0 z0 s) (hk0 : 16384 &&& k0 = 16384) :
    Moves k0 z0 (owe s p f) := by
  refine hz.trans ?_
  clear hz
  unfold owe
  repeat' first
    | with_reducible exact Moves.refl _ _
    | with_reducible assumption
    | with_reducible exact mask_le hk0 (by decide)
    | with_reducible apply Moves.ite
    | with_reducible apply Moves.ite_fst
    | with_reducible (apply State.modPort_moves)
    | with_reducible (apply Moves.foldl)
    | with_reducible (apply Moves.foldl_fst)
    | with_reducible (apply Moves.of_eq; assumption)
    | with_reducible intro _
    | dsimp only
    | split

theorem oweAll_moves (s : State) (fs : List (Nat × Flit)) {k0 : Nat} {z0 : State} (hz : Moves k0 z0 s) (hk0 : 16384 &&& k0 = 16384) :
    Moves k0 z0 (oweAll s fs) := by
  refine hz.trans ?_
  clear hz
  unfold oweAll
  repeat' first
    | with_reducible exact Moves.refl _ _
    | with_reducible assumption
    | with_reducible exact mask_le hk0 (by decide)
    | with_reducible apply Moves.ite
    | with_reducible apply Moves.ite_fst
    | with_reducible (apply owe_moves)
    | with_reducible (apply Moves.foldl)
    | with_reducible (apply Moves.foldl_fst)
    | with_reducible (apply Moves.of_eq; assumption)
    | with_reducible intro _
    | dsimp only
    | split

theorem dropMessage_moves (s0 : State) (m : OutMsg) {k0 : Nat} {z0 : State} (hz : Moves k0 z0 s0) (hk0 : 49152 &&& k0 = 49152) :
    Moves k0 z0 (dropMessage s0 m).1 := by
  refine hz.trans ?_
  clear hz
  unfold dropMessage
  repeat' first
    | with_reducible exact Moves.refl _ _
    | with_reducible assumption
    | with_reducible exact mask_le hk0 (by decide)
    | with_reducible apply Moves.ite
    | with_reducible apply Moves.ite_fst
    | with_reducible (apply countNoRoute_moves)
    | with_reducible (apply oweAll_moves)
    | with_reducible (apply sendReceipt_moves)
    | with_reducible (apply Moves.foldl)
    | with_reducible (apply Moves.foldl_fst)
    | with_reducible (apply Moves.of_eq; assumption)
    | with_reducible intro _
    | dsimp only
    | split

theorem dropMessage_pmoves (s0 : State) (m : OutMsg) {z1 : State} {y1 : List Nat} (he : (dropMessage s0 m) = (z1, y1)) {k0 : Nat} {z0 : State} (hz : Moves k0 z0 s0) (hk0 : 49152 &&& k0 = 49152) :
    Moves k0 z0 z1 := by
  simpa only [he] using dropMessage_moves s0 m hz hk0

theorem rerouteMessage_moves (s : State) (m : OutMsg) {k0 : Nat} {z0 : State} (hz : Moves k0 z0 s) (hk0 : 49152 &&& k0 = 49152) :
    Moves k0 z0 (rerouteMessage s m).1 := by
  refine hz.trans ?_
  clear hz
  unfold rerouteMessage
  repeat' first
    | with_reducible exact Moves.refl _ _
    | with_reducible assumption
    | with_reducible exact mask_le hk0 (by decide)
    | with_reducible apply Moves.ite
    | with_reducible apply Moves.ite_fst
    | with_reducible (apply dropMessage_moves)
    | with_reducible (apply dropMessage_pmoves; assumption)
    | with_reducible (apply enqueue_moves)
    | with_reducible (apply Moves.foldl)
    | with_reducible (apply Moves.foldl_fst)
    | with_reducible (apply Moves.of_eq; assumption)
    | with_reducible intro _
    | dsimp only
    | split

theorem rerouteMessage_pmoves (s : State) (m : OutMsg) {z1 : State} {y1 : List Nat} (he : (rerouteMessage s m) = (z1, y1)) {k0 : Nat} {z0 : State} (hz : Moves k0 z0 s) (hk0 : 49152 &&& k0 = 49152) :
    Moves k0 z0 z1 := by
  simpa only [he] using rerouteMessage_moves s m hz hk0

theorem failGroup_moves (s : State) (d : Nat) {k0 : Nat} {z0 : State} (hz : Moves k0 z0 s) (hk0 : 49152 &&& k0 = 49152) :
    Moves k0 z0 (failGroup s d).1 := by
  refine hz.trans ?_
  clear hz
  unfold failGroup
  repeat' first
    | with_reducible exact Moves.refl _ _
    | with_reducible assumption
    | with_reducible exact mask_le hk0 (by decide)
    | with_reducible apply Moves.ite
    | with_reducible apply Moves.ite_fst
    | with_reducible (apply State.modLink_moves)
    | with_reducible (apply rerouteMessage_moves)
    | with_reducible (apply rerouteMessage_pmoves; assumption)
    | with_reducible (apply Moves.foldl)
    | with_reducible (apply Moves.foldl_fst)
    | with_reducible (apply Moves.of_eq; assumption)
    | with_reducible intro _
    | dsimp only
    | split

theorem failGroup_pmoves (s : State) (d : Nat) {z1 : State} {y1 : List Nat} (he : (failGroup s d) = (z1, y1)) {k0 : Nat} {z0 : State} (hz : Moves k0 z0 s) (hk0 : 49152 &&& k0 = 49152) :
    Moves k0 z0 z1 := by
  simpa only [he] using failGroup_moves s d hz hk0

theorem leaveGroup_moves (s : State) (p : Nat) (st : PortState) {k0 : Nat} {z0 : State} (hz : Moves k0 z0 s) (hk0 : 312392 &&& k0 = 312392) :
    Moves k0 z0 (leaveGroup s p st).1 := by
  refine hz.trans ?_
  clear hz
  unfold leaveGroup
  repeat' first
    | with_reducible exact Moves.refl _ _
    | with_reducible assumption
    | with_reducible exact mask_le hk0 (by decide)
    | with_reducible apply Moves.ite
    | with_reducible apply Moves.ite_fst
    | with_reducible (apply State.modGroup_moves)
    | with_reducible (apply State.modLink_moves)
    | with_reducible (apply State.modPort_moves)
    | with_reducible (apply failGroup_moves)
    | with_reducible (apply failGroup_pmoves; assumption)
    | with_reducible (apply setPort_moves)
    | with_reducible (apply Moves.foldl)
    | with_reducible (apply Moves.foldl_fst)
    | with_reducible (apply Moves.of_eq; assumption)
    | with_reducible intro _
    | dsimp only
    | split

theorem leaveGroup_pmoves (s : State) (p : Nat) (st : PortState) {z1 : State} {y1 : List Nat} (he : (leaveGroup s p st) = (z1, y1)) {k0 : Nat} {z0 : State} (hz : Moves k0 z0 s) (hk0 : 312392 &&& k0 = 312392) :
    Moves k0 z0 z1 := by
  simpa only [he] using leaveGroup_moves s p st hz hk0

theorem sendQuarantine_moves (s : State) (p : Nat) (r : Nat) {k0 : Nat} {z0 : State} (hz : Moves k0 z0 s) (hk0 : 16384 &&& k0 = 16384) :
    Moves k0 z0 (sendQuarantine s p r) := by
  refine hz.trans ?_
  clear hz
  unfold sendQuarantine
  repeat' first
    | with_reducible exact Moves.refl _ _
    | with_reducible assumption
    | with_reducible exact mask_le hk0 (by decide)
    | with_reducible apply Moves.ite
    | with_reducible apply Moves.ite_fst
    | with_reducible (apply queueMgmt_moves)
    | with_reducible (apply Moves.foldl)
    | with_reducible (apply Moves.foldl_fst)
    | with_reducible (apply Moves.of_eq; assumption)
    | with_reducible intro _
    | dsimp only
    | split

theorem quarantinePort_moves (s : State) (p : Nat) (r : Nat) {k0 : Nat} {z0 : State} (hz : Moves k0 z0 s) (hk0 : 312392 &&& k0 = 312392) :
    Moves k0 z0 (quarantinePort s p r).1 := by
  refine hz.trans ?_
  clear hz
  unfold quarantinePort
  repeat' first
    | with_reducible exact Moves.refl _ _
    | with_reducible assumption
    | with_reducible exact mask_le hk0 (by decide)
    | with_reducible apply Moves.ite
    | with_reducible apply Moves.ite_fst
    | with_reducible (apply State.modGroup_moves)
    | with_reducible (apply State.modPort_moves)
    | with_reducible (apply failGroup_moves)
    | with_reducible (apply failGroup_pmoves; assumption)
    | with_reducible (apply setPort_moves)
    | with_reducible (apply Moves.foldl)
    | with_reducible (apply Moves.foldl_fst)
    | with_reducible (apply Moves.of_eq; assumption)
    | with_reducible intro _
    | dsimp only
    | split

theorem quarantinePort_pmoves (s : State) (p : Nat) (r : Nat) {z1 : State} {y1 : List Nat} (he : (quarantinePort s p r) = (z1, y1)) {k0 : Nat} {z0 : State} (hz : Moves k0 z0 s) (hk0 : 312392 &&& k0 = 312392) :
    Moves k0 z0 z1 := by
  simpa only [he] using quarantinePort_moves s p r hz hk0

theorem helloReceived_moves (s : State) (p : Nat) (b : List Byte) {k0 : Nat} {z0 : State} (hz : Moves k0 z0 s) (hk0 : 312392 &&& k0 = 312392) :
    Moves k0 z0 (helloReceived s p b).1 := by
  refine hz.trans ?_
  clear hz
  unfold helloReceived
  repeat' first
    | with_reducible exact Moves.refl _ _
    | with_reducible assumption
    | with_reducible exact mask_le hk0 (by decide)
    | with_reducible apply Moves.ite
    | with_reducible apply Moves.ite_fst
    | with_reducible (apply State.modPort_moves)
    | with_reducible (apply quarantinePort_moves)
    | with_reducible (apply quarantinePort_pmoves; assumption)
    | with_reducible (apply sendHello_moves)
    | with_reducible (apply sendQuarantine_moves)
    | with_reducible (apply setPort_moves)
    | with_reducible (apply Moves.foldl)
    | with_reducible (apply Moves.foldl_fst)
    | with_reducible (apply Moves.of_eq; assumption)
    | with_reducible intro _
    | dsimp only
    | split

theorem helloReceived_pmoves (s : State) (p : Nat) (b : List Byte) {z1 : State} {y1 : List Nat} (he : (helloReceived s p b) = (z1, y1)) {k0 : Nat} {z0 : State} (hz : Moves k0 z0 s) (hk0 : 312392 &&& k0 = 312392) :
    Moves k0 z0 z1 := by
  simpa only [he] using helloReceived_moves s p b hz hk0

theorem quarantineReceived_moves (s : State) (p : Nat) {k0 : Nat} {z0 : State} (hz : Moves k0 z0 s) (hk0 : 312392 &&& k0 = 312392) :
    Moves k0 z0 (quarantineReceived s p).1 := by
  refine hz.trans ?_
  clear hz
  unfold quarantineReceived
  repeat' first
    | with_reducible exact Moves.refl _ _
    | with_reducible assumption
    | with_reducible exact mask_le hk0 (by decide)
    | with_reducible apply Moves.ite
    | with_reducible apply Moves.ite_fst
    | with_reducible (apply quarantinePort_moves)
    | with_reducible (apply quarantinePort_pmoves; assumption)
    | with_reducible (apply Moves.foldl)
    | with_reducible (apply Moves.foldl_fst)
    | with_reducible (apply Moves.of_eq; assumption)
    | with_reducible intro _
    | dsimp only
    | split

theorem quarantineReceived_pmoves (s : State) (p : Nat) {z1 : State} {y1 : List Nat} (he : (quarantineReceived s p) = (z1, y1)) {k0 : Nat} {z0 : State} (hz : Moves k0 z0 s) (hk0 : 312392 &&& k0 = 312392) :
    Moves k0 z0 z1 := by
  simpa only [he] using quarantineReceived_moves s p hz hk0

theorem emitRaw_moves (s : State) (p : Nat) (i : Nat) (kind : Nat) (seq : Nat) (f : Flit) {k0 : Nat} {z0 : State} (hz : Moves k0 z0 s) (hk0 : 16392 &&& k0 = 16392) :
    Moves k0 z0 (emitRaw s p i kind seq f) := by
  refine hz.trans ?_
  clear hz
  unfold emitRaw
  repeat' first
    | with_reducible exact Moves.refl _ _
    | with_reducible assumption
    | with_reducible exact mask_le hk0 (by decide)
    | with_reducible apply Moves.ite
    | with_reducible apply Moves.ite_fst
    | with_reducible (apply State.emit_moves)
    | with_reducible (apply State.modPort_moves)
    | with_reducible (apply Moves.foldl)
    | with_reducible (apply Moves.foldl_fst)
    | with_reducible (apply Moves.of_eq; assumption)
    | with_reducible intro _
    | dsimp only
    | split

theorem emitFlit_moves (s : State) (p : Nat) (i : Nat) (kind : Nat) (seq : Nat) (f : Flit) {k0 : Nat} {z0 : State} (hz : Moves k0 z0 s) (hk0 : 16392 &&& k0 = 16392) :
    Moves k0 z0 (emitFlit s p i kind seq f) := by
  refine hz.trans ?_
  clear hz
  unfold emitFlit
  repeat' first
    | with_reducible exact Moves.refl _ _
    | with_reducible assumption
    | with_reducible exact mask_le hk0 (by decide)
    | with_reducible apply Moves.ite
    | with_reducible apply Moves.ite_fst
    | with_reducible (apply emitRaw_moves)
    | with_reducible (apply Moves.foldl)
    | with_reducible (apply Moves.foldl_fst)
    | with_reducible (apply Moves.of_eq; assumption)
    | with_reducible intro _
    | dsimp only
    | split

theorem sendData_moves (s : State) (p : Nat) (i : Nat) (f : Flit) {k0 : Nat} {z0 : State} (hz : Moves k0 z0 s) (hk0 : 16392 &&& k0 = 16392) :
    Moves k0 z0 (sendData s p i f) := by
  refine hz.trans ?_
  clear hz
  unfold sendData
  repeat' first
    | with_reducible exact Moves.refl _ _
    | with_reducible assumption
    | with_reducible exact mask_le hk0 (by decide)
    | with_reducible apply Moves.ite
    | with_reducible apply Moves.ite_fst
    | with_reducible (apply State.modPort_moves)
    | with_reducible (apply emitFlit_moves)
    | with_reducible (apply Moves.foldl)
    | with_reducible (apply Moves.foldl_fst)
    | with_reducible (apply Moves.of_eq; assumption)
    | with_reducible intro _
    | dsimp only
    | split

theorem takeFlit_moves (s : State) (d : Nat) (idx : Nat) (m : OutMsg) {k0 : Nat} {z0 : State} (hz : Moves k0 z0 s) (hk0 : 16384 &&& k0 = 16384) :
    Moves k0 z0 (takeFlit s d idx m).1 := by
  refine hz.trans ?_
  clear hz
  unfold takeFlit
  repeat' first
    | with_reducible exact Moves.refl _ _
    | with_reducible assumption
    | with_reducible exact mask_le hk0 (by decide)
    | with_reducible apply Moves.ite
    | with_reducible apply Moves.ite_fst
    | with_reducible (apply State.modGroup_moves)
    | with_reducible (apply oweAll_moves)
    | with_reducible (apply Moves.foldl)
    | with_reducible (apply Moves.foldl_fst)
    | with_reducible (apply Moves.of_eq; assumption)
    | with_reducible intro _
    | dsimp only
    | split

theorem takeFlit_pmoves (s : State) (d : Nat) (idx : Nat) (m : OutMsg) {z1 : State} {y1 : Option Flit} (he : (takeFlit s d idx m) = (z1, y1)) {k0 : Nat} {z0 : State} (hz : Moves k0 z0 s) (hk0 : 16384 &&& k0 = 16384) :
    Moves k0 z0 z1 := by
  simpa only [he] using takeFlit_moves s d idx m hz hk0

theorem takeMgmt_moves (s : State) (p : Nat) (f : List Byte → Bool) {z1 : State} {x : Flit} (he : takeMgmt s p f = some (z1, x)) {k0 : Nat} {z0 : State} (hz : Moves k0 z0 s)
    (hk0 : 16384 &&& k0 = 16384) : Moves k0 z0 z1 := by
  unfold takeMgmt at he
  dsimp only at he
  split at he
  · cases he
  · obtain ⟨m, -, h⟩ := Option.map_eq_some_iff.1 he
    cases h
    exact State.modPort_moves _ _ _ hz hk0

theorem takeHeld_moves (s : State) (p : Nat) {z1 : State} {x : Flit} (he : takeHeld s p = some (z1, x)) {k0 : Nat} {z0 : State} (hz : Moves k0 z0 s)
    (hk0 : 16384 &&& k0 = 16384) : Moves k0 z0 z1 := by
  unfold takeHeld at he
  dsimp only at he
  split at he
  · cases he
  · obtain ⟨m, -, h⟩ := Option.map_eq_some_iff.1 he
    cases h
    exact State.modPort_moves _ _ _ (State.modGroup_moves _ _ _ hz hk0) hk0

theorem takeNew_moves (s : State) (p : Nat) {z1 : State} {x : Flit} (he : takeNew s p = some (z1, x)) {k0 : Nat} {z0 : State} (hz : Moves k0 z0 s)
    (hk0 : 16384 &&& k0 = 16384) : Moves k0 z0 z1 := by
  unfold takeNew at he
  dsimp only at he
  split at he
  · cases he
  · obtain ⟨m, -, h1⟩ := Option.bind_eq_some_iff.1 he
    obtain ⟨f, -, h⟩ := Option.map_eq_some_iff.1 h1
    cases h
    exact State.modPort_moves _ _ _ (takeFlit_moves _ _ _ _ hz hk0) hk0

theorem takeMoved_moves (s : State) (p : Nat) {z1 : State} {x : Flit} (he : takeMoved s p = some (z1, x)) {k0 : Nat} {z0 : State} (hz : Moves k0 z0 s)
    (hk0 : 16384 &&& k0 = 16384) : Moves k0 z0 z1 := by
  obtain ⟨m, -, h⟩ := Option.map_eq_some_iff.1 he
  cases h
  exact State.modPort_moves _ _ _ hz hk0

theorem nextFlit_moves (s : State) (p i : Nat) {z1 : State} {x : Flit} (he : nextFlit s p i = some (z1, x)) {k0 : Nat} {z0 : State} (hz : Moves k0 z0 s)
    (hk0 : 16384 &&& k0 = 16384) : Moves k0 z0 z1 := by
  unfold nextFlit at he
  dsimp only at he
  rcases Option.or_eq_some_iff.1 he with h | ⟨-, h⟩
  · exact takeMgmt_moves _ _ _ h hz hk0
  · split at h
    · cases h
    · rcases Option.or_eq_some_iff.1 h with h | ⟨-, h⟩
      · exact takeMoved_moves _ _ h hz hk0
      · rcases Option.or_eq_some_iff.1 h with h | ⟨-, h⟩
        · exact takeHeld_moves _ _ h hz hk0
        · rcases Option.or_eq_some_iff.1 h with h | ⟨-, h⟩
          · exact takeMgmt_moves _ _ _ h hz hk0
          · exact takeNew_moves _ _ h hz hk0

theorem nextFlit_ite (s : State) (p i b : Nat) {r : State × Flit} (he : (if b < 64 then nextFlit s p i else none) = some r)
    {k0 : Nat} {z0 : State} (hz : Moves k0 z0 s) (hk0 : 16384 &&& k0 = 16384) : Moves k0 z0 r.1 := by
  split at he
  · exact nextFlit_moves s p i he hz hk0
  · cases he

theorem tickLane_moves (s : State) (p : Nat) (i : Nat) {k0 : Nat} {z0 : State} (hz : Moves k0 z0 s) (hk0 : 16392 &&& k0 = 16392) :
    Moves k0 z0 (tickLane s p i) := by
  refine hz.trans ?_
  clear hz
  unfold tickLane
  repeat' first
    | with_reducible exact Moves.refl _ _
    | with_reducible assumption
    | with_reducible exact mask_le hk0 (by decide)
    | with_reducible apply Moves.ite
    | with_reducible apply Moves.ite_fst
    | with_reducible (apply emitFlit_moves)
    | with_reducible (apply nextFlit_moves; assumption)
    | with_reducible (apply nextFlit_ite; assumption)
    | with_reducible (apply sendData_moves)
    | with_reducible (apply Moves.foldl)
    | with_reducible (apply Moves.foldl_fst)
    | with_reducible (apply Moves.of_eq; assumption)
    | with_reducible intro _
    | dsimp only
    | split

theorem tickLink_moves (s : State) {k0 : Nat} {z0 : State} (hz : Moves k0 z0 s) (hk0 : 16392 &&& k0 = 16392) :
    Moves k0 z0 (tickLink s) := by
  refine hz.trans ?_
  clear hz
  unfold tickLink
  repeat' first
    | with_reducible exact Moves.refl _ _
    | with_reducible assumption
    | with_reducible exact mask_le hk0 (by decide)
    | with_reducible apply Moves.ite
    | with_reducible apply Moves.ite_fst
    | with_reducible (apply tickLane_moves)
    | with_reducible (apply Moves.foldl)
    | with_reducible (apply Moves.foldl_fst)
    | with_reducible (apply Moves.of_eq; assumption)
    | with_reducible intro _
    | dsimp only
    | split

theorem ackFlit_moves (s : State) (d : Nat) (f : Flit) {k0 : Nat} {z0 : State} (hz : Moves k0 z0 s) (hk0 : 16384 &&& k0 = 16384) :
    Moves k0 z0 (ackFlit s d f) := by
  refine hz.trans ?_
  clear hz
  unfold ackFlit
  repeat' first
    | with_reducible exact Moves.refl _ _
    | with_reducible assumption
    | with_reducible exact mask_le hk0 (by decide)
    | with_reducible apply Moves.ite
    | with_reducible apply Moves.ite_fst
    | with_reducible (apply State.modGroup_moves)
    | with_reducible (apply State.modLink_moves)
    | with_reducible (apply Moves.foldl)
    | with_reducible (apply Moves.foldl_fst)
    | with_reducible (apply Moves.of_eq; assumption)
    | with_reducible intro _
    | dsimp only
    | split

theorem applyAck_moves (s : State) (p : Nat) (i : Nat) (ack : Nat) {k0 : Nat} {z0 : State} (hz : Moves k0 z0 s) (hk0 : 16384 &&& k0 = 16384) :
    Moves k0 z0 (applyAck s p i ack) := by
  refine hz.trans ?_
  clear hz
  unfold applyAck
  repeat' first
    | with_reducible exact Moves.refl _ _
    | with_reducible assumption
    | with_reducible exact mask_le hk0 (by decide)
    | with_reducible apply Moves.ite
    | with_reducible apply Moves.ite_fst
    | with_reducible (apply State.modPort_moves)
    | with_reducible (apply ackFlit_moves)
    | with_reducible (apply Moves.foldl)
    | with_reducible (apply Moves.foldl_fst)
    | with_reducible (apply Moves.of_eq; assumption)
    | with_reducible intro _
    | dsimp only
    | split

theorem applyCredits_moves (s : State) (p : Nat) (vc : Nat) (cls : Nat) (n : Nat) {k0 : Nat} {z0 : State} (hz : Moves k0 z0 s) (hk0 : 16384 &&& k0 = 16384) :
    Moves k0 z0 (applyCredits s p vc cls n) := by
  refine hz.trans ?_
  clear hz
  unfold applyCredits
  repeat' first
    | with_reducible exact Moves.refl _ _
    | with_reducible assumption
    | with_reducible exact mask_le hk0 (by decide)
    | with_reducible apply Moves.ite
    | with_reducible apply Moves.ite_fst
    | with_reducible (apply State.modPort_moves)
    | with_reducible (apply Moves.foldl)
    | with_reducible (apply Moves.foldl_fst)
    | with_reducible (apply Moves.of_eq; assumption)
    | with_reducible intro _
    | dsimp only
    | split

theorem sendNak_moves (s : State) (p : Nat) (i : Nat) {k0 : Nat} {z0 : State} (hz : Moves k0 z0 s) (hk0 : 16392 &&& k0 = 16392) :
    Moves k0 z0 (sendNak s p i) := by
  refine hz.trans ?_
  clear hz
  unfold sendNak
  repeat' first
    | with_reducible exact Moves.refl _ _
    | with_reducible assumption
    | with_reducible exact mask_le hk0 (by decide)
    | with_reducible apply Moves.ite
    | with_reducible apply Moves.ite_fst
    | with_reducible (apply State.modPort_moves)
    | with_reducible (apply emitFlit_moves)
    | with_reducible (apply Moves.foldl)
    | with_reducible (apply Moves.foldl_fst)
    | with_reducible (apply Moves.of_eq; assumption)
    | with_reducible intro _
    | dsimp only
    | split

theorem replay_moves (s : State) (p : Nat) (i : Nat) {k0 : Nat} {z0 : State} (hz : Moves k0 z0 s) (hk0 : 16392 &&& k0 = 16392) :
    Moves k0 z0 (replay s p i) := by
  refine hz.trans ?_
  clear hz
  unfold replay
  repeat' first
    | with_reducible exact Moves.refl _ _
    | with_reducible assumption
    | with_reducible exact mask_le hk0 (by decide)
    | with_reducible apply Moves.ite
    | with_reducible apply Moves.ite_fst
    | with_reducible (apply State.modPort_moves)
    | with_reducible (apply emitFlit_moves)
    | with_reducible (apply Moves.foldl)
    | with_reducible (apply Moves.foldl_fst)
    | with_reducible (apply Moves.of_eq; assumption)
    | with_reducible intro _
    | dsimp only
    | split

theorem noWay_moves (s : State) (header : List Byte) {k0 : Nat} {z0 : State} (hz : Moves k0 z0 s) (hk0 : 49152 &&& k0 = 49152) :
    Moves k0 z0 (noWay s header) := by
  refine hz.trans ?_
  clear hz
  unfold noWay
  repeat' first
    | with_reducible exact Moves.refl _ _
    | with_reducible assumption
    | with_reducible exact mask_le hk0 (by decide)
    | with_reducible apply Moves.ite
    | with_reducible apply Moves.ite_fst
    | with_reducible (apply countNoRoute_moves)
    | with_reducible (apply sendReceipt_moves)
    | with_reducible (apply Moves.foldl)
    | with_reducible (apply Moves.foldl_fst)
    | with_reducible (apply Moves.of_eq; assumption)
    | with_reducible intro _
    | dsimp only
    | split

theorem passOn_moves (s : State) (d : Nat) (m : OutMsg) {k0 : Nat} {z0 : State} (hz : Moves k0 z0 s) (hk0 : 49152 &&& k0 = 49152) :
    Moves k0 z0 (passOn s d m) := by
  refine hz.trans ?_
  clear hz
  unfold passOn
  repeat' first
    | with_reducible exact Moves.refl _ _
    | with_reducible assumption
    | with_reducible exact mask_le hk0 (by decide)
    | with_reducible apply Moves.ite
    | with_reducible apply Moves.ite_fst
    | with_reducible (apply State.modRounds_moves)
    | with_reducible (apply enqueue_moves)
    | with_reducible (apply Moves.foldl)
    | with_reducible (apply Moves.foldl_fst)
    | with_reducible (apply Moves.of_eq; assumption)
    | with_reducible intro _
    | dsimp only
    | split

theorem forwardMessage_moves (s : State) (inDir : Nat) (cls : Nat) (header : List Byte) (data : List Byte) (trailer : List Byte) {k0 : Nat} {z0 : State} (hz : Moves k0 z0 s) (hk0 : 49152 &&& k0 = 49152) :
    Moves k0 z0 (forwardMessage s inDir cls header data trailer) := by
  refine hz.trans ?_
  clear hz
  unfold forwardMessage
  repeat' first
    | with_reducible exact Moves.refl _ _
    | with_reducible assumption
    | with_reducible exact mask_le hk0 (by decide)
    | with_reducible apply Moves.ite
    | with_reducible apply Moves.ite_fst
    | with_reducible (apply noWay_moves)
    | with_reducible (apply passOn_moves)
    | with_reducible (apply Moves.foldl)
    | with_reducible (apply Moves.foldl_fst)
    | with_reducible (apply Moves.of_eq; assumption)
    | with_reducible intro _
    | dsimp only
    | split

theorem forwardTrick_moves (s : State) (inDir : Nat) (cls : Nat) (dest : Seat) (msg : List Byte) {k0 : Nat} {z0 : State} (hz : Moves k0 z0 s) (hk0 : 49152 &&& k0 = 49152) :
    Moves k0 z0 (forwardTrick s inDir cls dest msg) := by
  refine hz.trans ?_
  clear hz
  unfold forwardTrick
  repeat' first
    | with_reducible exact Moves.refl _ _
    | with_reducible assumption
    | with_reducible exact mask_le hk0 (by decide)
    | with_reducible apply Moves.ite
    | with_reducible apply Moves.ite_fst
    | with_reducible (apply noWay_moves)
    | with_reducible (apply passOn_moves)
    | with_reducible (apply Moves.foldl)
    | with_reducible (apply Moves.foldl_fst)
    | with_reducible (apply Moves.of_eq; assumption)
    | with_reducible intro _
    | dsimp only
    | split

theorem cutThrough_moves (s : State) (inDir : Nat) (p : Nat) (dest : Seat) (header : Option (List Byte)) (f : Flit) {k0 : Nat} {z0 : State} (hz : Moves k0 z0 s) (hk0 : 49152 &&& k0 = 49152) :
    Moves k0 z0 (cutThrough s inDir p dest header f).1 := by
  refine hz.trans ?_
  clear hz
  unfold cutThrough
  repeat' first
    | with_reducible exact Moves.refl _ _
    | with_reducible assumption
    | with_reducible exact mask_le hk0 (by decide)
    | with_reducible apply Moves.ite
    | with_reducible apply Moves.ite_fst
    | with_reducible (apply noWay_moves)
    | with_reducible (apply owe_moves)
    | with_reducible (apply passOn_moves)
    | with_reducible (apply Moves.foldl)
    | with_reducible (apply Moves.foldl_fst)
    | with_reducible (apply Moves.of_eq; assumption)
    | with_reducible intro _
    | dsimp only
    | split

theorem cutThrough_pmoves (s : State) (inDir : Nat) (p : Nat) (dest : Seat) (header : Option (List Byte)) (f : Flit) {z1 : State} {y1 : Option Nat} (he : (cutThrough s inDir p dest header f) = (z1, y1)) {k0 : Nat} {z0 : State} (hz : Moves k0 z0 s) (hk0 : 49152 &&& k0 = 49152) :
    Moves k0 z0 z1 := by
  simpa only [he] using cutThrough_moves s inDir p dest header f hz hk0

theorem applyLanes_moves (s : State) (p : Nat) (set_ : List Nat) {k0 : Nat} {z0 : State} (hz : Moves k0 z0 s) (hk0 : 279624 &&& k0 = 279624) :
    Moves k0 z0 (applyLanes s p set_) := by
  refine hz.trans ?_
  clear hz
  unfold applyLanes
  repeat' first
    | with_reducible exact Moves.refl _ _
    | with_reducible assumption
    | with_reducible exact mask_le hk0 (by decide)
    | with_reducible apply Moves.ite
    | with_reducible apply Moves.ite_fst
    | with_reducible (apply State.modPort_moves)
    | with_reducible (apply linkEvent_moves)
    | with_reducible (apply Moves.foldl)
    | with_reducible (apply Moves.foldl_fst)
    | with_reducible (apply Moves.of_eq; assumption)
    | with_reducible intro _
    | dsimp only
    | split

theorem sendNow_moves (s : State) (p : Nat) (payload : List Byte) {k0 : Nat} {z0 : State} (hz : Moves k0 z0 s) (hk0 : 16392 &&& k0 = 16392) :
    Moves k0 z0 (sendNow s p payload) := by
  refine hz.trans ?_
  clear hz
  unfold sendNow
  repeat' first
    | with_reducible exact Moves.refl _ _
    | with_reducible assumption
    | with_reducible exact mask_le hk0 (by decide)
    | with_reducible apply Moves.ite
    | with_reducible apply Moves.ite_fst
    | with_reducible (apply State.modPort_moves)
    | with_reducible (apply sendData_moves)
    | with_reducible (apply Moves.foldl)
    | with_reducible (apply Moves.foldl_fst)
    | with_reducible (apply Moves.of_eq; assumption)
    | with_reducible intro _
    | dsimp only
    | split

theorem laneFails_moves (s : State) (p : Nat) (i : Nat) {k0 : Nat} {z0 : State} (hz : Moves k0 z0 s) (hk0 : 16392 &&& k0 = 16392) :
    Moves k0 z0 (laneFails s p i).1 := by
  refine hz.trans ?_
  clear hz
  unfold laneFails
  repeat' first
    | with_reducible exact Moves.refl _ _
    | with_reducible assumption
    | with_reducible exact mask_le hk0 (by decide)
    | with_reducible apply Moves.ite
    | with_reducible apply Moves.ite_fst
    | with_reducible (apply State.modPort_moves)
    | with_reducible (apply sendNow_moves)
    | with_reducible (apply Moves.foldl)
    | with_reducible (apply Moves.foldl_fst)
    | with_reducible (apply Moves.of_eq; assumption)
    | with_reducible intro _
    | dsimp only
    | split

theorem laneFails_pmoves (s : State) (p : Nat) (i : Nat) {z1 : State} {y1 : Bool} (he : (laneFails s p i) = (z1, y1)) {k0 : Nat} {z0 : State} (hz : Moves k0 z0 s) (hk0 : 16392 &&& k0 = 16392) :
    Moves k0 z0 z1 := by
  simpa only [he] using laneFails_moves s p i hz hk0

theorem lanesReceived_moves (s : State) (p : Nat) (bitmap : Nat) {k0 : Nat} {z0 : State} (hz : Moves k0 z0 s) (hk0 : 279624 &&& k0 = 279624) :
    Moves k0 z0 (lanesReceived s p bitmap).1 := by
  refine hz.trans ?_
  clear hz
  unfold lanesReceived
  repeat' first
    | with_reducible exact Moves.refl _ _
    | with_reducible assumption
    | with_reducible exact mask_le hk0 (by decide)
    | with_reducible apply Moves.ite
    | with_reducible apply Moves.ite_fst
    | with_reducible (apply State.modPort_moves)
    | with_reducible (apply applyLanes_moves)
    | with_reducible (apply sendNow_moves)
    | with_reducible (apply Moves.foldl)
    | with_reducible (apply Moves.foldl_fst)
    | with_reducible (apply Moves.of_eq; assumption)
    | with_reducible intro _
    | dsimp only
    | split

theorem lanesReceived_pmoves (s : State) (p : Nat) (bitmap : Nat) {z1 : State} {y1 : Bool} (he : (lanesReceived s p bitmap) = (z1, y1)) {k0 : Nat} {z0 : State} (hz : Moves k0 z0 s) (hk0 : 279624 &&& k0 = 279624) :
    Moves k0 z0 z1 := by
  simpa only [he] using lanesReceived_moves s p bitmap hz hk0

theorem lanesAck_moves (s : State) (p : Nat) (bitmap : Nat) {k0 : Nat} {z0 : State} (hz : Moves k0 z0 s) (hk0 : 279624 &&& k0 = 279624) :
    Moves k0 z0 (lanesAck s p bitmap) := by
  refine hz.trans ?_
  clear hz
  unfold lanesAck
  repeat' first
    | with_reducible exact Moves.refl _ _
    | with_reducible assumption
    | with_reducible exact mask_le hk0 (by decide)
    | with_reducible apply Moves.ite
    | with_reducible apply Moves.ite_fst
    | with_reducible (apply applyLanes_moves)
    | with_reducible (apply Moves.foldl)
    | with_reducible (apply Moves.foldl_fst)
    | with_reducible (apply Moves.of_eq; assumption)
    | with_reducible intro _
    | dsimp only
    | split

theorem echoTimer_moves (s : State) {k0 : Nat} {z0 : State} (hz : Moves k0 z0 s) (hk0 : 16384 &&& k0 = 16384) :
    Moves k0 z0 (echoTimer s) := by
  refine hz.trans ?_
  clear hz
  unfold echoTimer
  repeat' first
    | with_reducible exact Moves.refl _ _
    | with_reducible assumption
    | with_reducible exact mask_le hk0 (by decide)
    | with_reducible apply Moves.ite
    | with_reducible apply Moves.ite_fst
    | with_reducible (apply queueMgmt_moves)
    | with_reducible (apply Moves.foldl)
    | with_reducible (apply Moves.foldl_fst)
    | with_reducible (apply Moves.of_eq; assumption)
    | with_reducible intro _
    | dsimp only
    | split

theorem echoReceived_moves (s : State) (p : Nat) (b : List Byte) (turn : Nat) {k0 : Nat} {z0 : State} (hz : Moves k0 z0 s) (hk0 : 16384 &&& k0 = 16384) :
    Moves k0 z0 (echoReceived s p b turn) := by
  refine hz.trans ?_
  clear hz
  unfold echoReceived
  repeat' first
    | with_reducible exact Moves.refl _ _
    | with_reducible assumption
    | with_reducible exact mask_le hk0 (by decide)
    | with_reducible apply Moves.ite
    | with_reducible apply Moves.ite_fst
    | with_reducible (apply State.modPort_moves)
    | with_reducible (apply queueMgmt_moves)
    | with_reducible (apply Moves.foldl)
    | with_reducible (apply Moves.foldl_fst)
    | with_reducible (apply Moves.of_eq; assumption)
    | with_reducible intro _
    | dsimp only
    | split

theorem szlpEvent_moves (s : State) (i : Nat) (old : Nat) (new : Nat) {k0 : Nat} {z0 : State} (hz : Moves k0 z0 s) (hk0 : 263240 &&& k0 = 263240) :
    Moves k0 z0 (szlpEvent s i old new) := by
  refine hz.trans ?_
  clear hz
  unfold szlpEvent
  repeat' first
    | with_reducible exact Moves.refl _ _
    | with_reducible assumption
    | with_reducible exact mask_le hk0 (by decide)
    | with_reducible apply Moves.ite
    | with_reducible apply Moves.ite_fst
    | with_reducible (apply postSteward_moves)
    | with_reducible (apply Moves.foldl)
    | with_reducible (apply Moves.foldl_fst)
    | with_reducible (apply Moves.of_eq; assumption)
    | with_reducible intro _
    | dsimp only
    | split

end Sys2Proof.Machine
end

