-- ==== Sys2Proof/Laws/MovesMacroRun.lean ====
section
/-! SUPPORT. What each operation of Machine/MacroRun.lean may change. -/

set_option linter.unreachableTactic false
set_option linter.unusedTactic false
set_option linter.unusedVariables false

namespace Sys2Proof.Machine

theorem runEach_moves {α β : Type} (f : α → State → Run β) (l : List α) (s : State) {k0 : Nat} {z0 : State} (hz : Moves k0 z0 s)
    (hf : ∀ (a : α) (t : State), Moves k0 z0 t → Moves k0 z0 (f a t).1) : Moves k0 z0 (runEach f l s).1 := by
  induction l generalizing s with
  | nil => exact hz
  | cons a l ih =>
    exact Run.andThen_moves _ _ (hf a s hz) fun b t ht => Run.andThen_moves _ _ (ih t ht) fun _ _ hu => hu

theorem readRow_moves (n : Nat) (d : List Byte) (i : Nat × Nat × Nat) (s : State) {k0 : Nat} {z0 : State} (hz : Moves k0 z0 s) (hk0 : 271688 &&& k0 = 271688) :
    Moves k0 z0 (readRow n d i s).1 := by
  refine hz.trans ?_
  clear hz
  unfold readRow
  repeat' first
    | with_reducible exact Moves.refl _ _
    | with_reducible assumption
    | with_reducible exact mask_le hk0 (by decide)
    | with_reducible apply Moves.ite
    | with_reducible apply Moves.ite_fst
    | with_reducible (apply Run.andThen_moves)
    | with_reducible (apply readClaim_moves)
    | with_reducible (apply readClaim_pmoves; assumption)
    | with_reducible (apply Moves.foldl)
    | with_reducible (apply Moves.foldl_fst)
    | with_reducible (apply Moves.of_eq; assumption)
    | with_reducible intro _
    | dsimp only
    | split

theorem readRow_pmoves (n : Nat) (d : List Byte) (i : Nat × Nat × Nat) (s : State) {z1 : State} {y1 : ReadEnd (List FP)} (he : (readRow n d i s) = (z1, y1)) {k0 : Nat} {z0 : State} (hz : Moves k0 z0 s) (hk0 : 271688 &&& k0 = 271688) :
    Moves k0 z0 z1 := by
  simpa only [he] using readRow_moves n d i s hz hk0

theorem readSlice_moves (n : Nat) (d : List Byte) (i : Nat × Nat × Nat) (lo : Nat) (len : Nat) (s : State) {k0 : Nat} {z0 : State} (hz : Moves k0 z0 s) (hk0 : 271688 &&& k0 = 271688) :
    Moves k0 z0 (readSlice n d i lo len s).1 := by
  refine hz.trans ?_
  clear hz
  unfold readSlice
  repeat' first
    | with_reducible exact Moves.refl _ _
    | with_reducible assumption
    | with_reducible exact mask_le hk0 (by decide)
    | with_reducible apply Moves.ite
    | with_reducible apply Moves.ite_fst
    | with_reducible (apply Run.andThen_moves)
    | with_reducible (apply readClaim_moves)
    | with_reducible (apply readClaim_pmoves; assumption)
    | with_reducible (apply Moves.foldl)
    | with_reducible (apply Moves.foldl_fst)
    | with_reducible (apply Moves.of_eq; assumption)
    | with_reducible intro _
    | dsimp only
    | split

theorem readSlice_pmoves (n : Nat) (d : List Byte) (i : Nat × Nat × Nat) (lo : Nat) (len : Nat) (s : State) {z1 : State} {y1 : ReadEnd (List FP)} (he : (readSlice n d i lo len s) = (z1, y1)) {k0 : Nat} {z0 : State} (hz : Moves k0 z0 s) (hk0 : 271688 &&& k0 = 271688) :
    Moves k0 z0 z1 := by
  simpa only [he] using readSlice_moves n d i lo len s hz hk0

theorem readScaled_moves (n : Nat) (d : List Byte) (i : Nat × Nat × Nat) (s : State) {k0 : Nat} {z0 : State} (hz : Moves k0 z0 s) (hk0 : 271688 &&& k0 = 271688) :
    Moves k0 z0 (readScaled n d i s).1 := by
  refine hz.trans ?_
  clear hz
  unfold readScaled
  repeat' first
    | with_reducible exact Moves.refl _ _
    | with_reducible assumption
    | with_reducible exact mask_le hk0 (by decide)
    | with_reducible apply Moves.ite
    | with_reducible apply Moves.ite_fst
    | with_reducible (apply Run.andThen_moves)
    | with_reducible (apply readRow_moves)
    | with_reducible (apply readRow_pmoves; assumption)
    | with_reducible (apply Moves.foldl)
    | with_reducible (apply Moves.foldl_fst)
    | with_reducible (apply Moves.of_eq; assumption)
    | with_reducible intro _
    | dsimp only
    | split

theorem readScaled_pmoves (n : Nat) (d : List Byte) (i : Nat × Nat × Nat) (s : State) {z1 : State} {y1 : ReadEnd (List FP)} (he : (readScaled n d i s) = (z1, y1)) {k0 : Nat} {z0 : State} (hz : Moves k0 z0 s) (hk0 : 271688 &&& k0 = 271688) :
    Moves k0 z0 z1 := by
  simpa only [he] using readScaled_moves n d i s hz hk0

theorem writeRow_moves (n : Nat) (d : List Byte) (i : Nat × Nat × Nat) (col : Nat) (xs : List FP) (s : State) {k0 : Nat} {z0 : State} (hz : Moves k0 z0 s) (hk0 : 271816 &&& k0 = 271816) :
    Moves k0 z0 (writeRow n d i col xs s).1 := by
  refine hz.trans ?_
  clear hz
  unfold writeRow
  repeat' first
    | with_reducible exact Moves.refl _ _
    | with_reducible assumption
    | with_reducible exact mask_le hk0 (by decide)
    | with_reducible apply Moves.ite
    | with_reducible apply Moves.ite_fst
    | with_reducible (apply Run.andThen_moves)
    | with_reducible (apply writeClaim_moves)
    | with_reducible (apply writeClaim_pmoves; assumption)
    | with_reducible (apply Moves.foldl)
    | with_reducible (apply Moves.foldl_fst)
    | with_reducible (apply Moves.of_eq; assumption)
    | with_reducible intro _
    | dsimp only
    | split

theorem writeRow_pmoves (n : Nat) (d : List Byte) (i : Nat × Nat × Nat) (col : Nat) (xs : List FP) (s : State) {z1 : State} {y1 : ReadEnd Nat} (he : (writeRow n d i col xs s) = (z1, y1)) {k0 : Nat} {z0 : State} (hz : Moves k0 z0 s) (hk0 : 271816 &&& k0 = 271816) :
    Moves k0 z0 z1 := by
  simpa only [he] using writeRow_moves n d i col xs s hz hk0

theorem matmulGroup_moves (m : MacroInst) (x : MatBlock) (chunk : Nat) (acc : List (List Word32)) (s : State) {k0 : Nat} {z0 : State} (hz : Moves k0 z0 s) (hk0 : 271688 &&& k0 = 271688) :
    Moves k0 z0 (matmulGroup m x chunk acc s).1 := by
  refine hz.trans ?_
  clear hz
  unfold matmulGroup
  repeat' first
    | with_reducible exact Moves.refl _ _
    | with_reducible assumption
    | with_reducible exact mask_le hk0 (by decide)
    | with_reducible apply Moves.ite
    | with_reducible apply Moves.ite_fst
    | with_reducible (apply Run.andThen_moves)
    | with_reducible (apply readSlice_moves)
    | with_reducible (apply readSlice_pmoves; assumption)
    | with_reducible (apply runEach_moves)
    | with_reducible (apply Moves.foldl)
    | with_reducible (apply Moves.foldl_fst)
    | with_reducible (apply Moves.of_eq; assumption)
    | with_reducible intro _
    | dsimp only
    | split

theorem matmulGroup_pmoves (m : MacroInst) (x : MatBlock) (chunk : Nat) (acc : List (List Word32)) (s : State) {z1 : State} {y1 : ReadEnd (Nat × List (List Word32))} (he : (matmulGroup m x chunk acc s) = (z1, y1)) {k0 : Nat} {z0 : State} (hz : Moves k0 z0 s) (hk0 : 271688 &&& k0 = 271688) :
    Moves k0 z0 z1 := by
  simpa only [he] using matmulGroup_moves m x chunk acc s hz hk0

theorem matmulWrite_moves (m : MacroInst) (x : MatBlock) (acc : List (List Word32)) (s : State) {k0 : Nat} {z0 : State} (hz : Moves k0 z0 s) (hk0 : 271816 &&& k0 = 271816) :
    Moves k0 z0 (matmulWrite m x acc s).1 := by
  refine hz.trans ?_
  clear hz
  unfold matmulWrite
  repeat' first
    | with_reducible exact Moves.refl _ _
    | with_reducible assumption
    | with_reducible exact mask_le hk0 (by decide)
    | with_reducible apply Moves.ite
    | with_reducible apply Moves.ite_fst
    | with_reducible (apply Run.andThen_moves)
    | with_reducible (apply readScaled_moves)
    | with_reducible (apply readScaled_pmoves; assumption)
    | with_reducible (apply runEach_moves)
    | with_reducible (apply writeRow_moves)
    | with_reducible (apply writeRow_pmoves; assumption)
    | with_reducible (apply Moves.foldl)
    | with_reducible (apply Moves.foldl_fst)
    | with_reducible (apply Moves.of_eq; assumption)
    | with_reducible intro _
    | dsimp only
    | split

theorem matmulWrite_pmoves (m : MacroInst) (x : MatBlock) (acc : List (List Word32)) (s : State) {z1 : State} {y1 : ReadEnd Nat} (he : (matmulWrite m x acc s) = (z1, y1)) {k0 : Nat} {z0 : State} (hz : Moves k0 z0 s) (hk0 : 271816 &&& k0 = 271816) :
    Moves k0 z0 z1 := by
  simpa only [he] using matmulWrite_moves m x acc s hz hk0

theorem matmulRun_moves (m : MacroInst) (blk : Nat) (chunk : Nat) (acc : List (List Word32)) (s : State) {k0 : Nat} {z0 : State} (hz : Moves k0 z0 s) (hk0 : 271816 &&& k0 = 271816) :
    Moves k0 z0 (matmulRun m blk chunk acc s).1 := by
  refine hz.trans ?_
  clear hz
  unfold matmulRun
  repeat' first
    | with_reducible exact Moves.refl _ _
    | with_reducible assumption
    | with_reducible exact mask_le hk0 (by decide)
    | with_reducible apply Moves.ite
    | with_reducible apply Moves.ite_fst
    | with_reducible (apply Run.andThen_moves)
    | with_reducible (apply matmulGroup_moves)
    | with_reducible (apply matmulGroup_pmoves; assumption)
    | with_reducible (apply matmulWrite_moves)
    | with_reducible (apply matmulWrite_pmoves; assumption)
    | with_reducible (apply Moves.foldl)
    | with_reducible (apply Moves.foldl_fst)
    | with_reducible (apply Moves.of_eq; assumption)
    | with_reducible intro _
    | dsimp only
    | split

theorem matmulRun_pmoves (m : MacroInst) (blk : Nat) (chunk : Nat) (acc : List (List Word32)) (s : State) {z1 : State} {y1 : ReadEnd (Nat × List (List Word32))} (he : (matmulRun m blk chunk acc s) = (z1, y1)) {k0 : Nat} {z0 : State} (hz : Moves k0 z0 s) (hk0 : 271816 &&& k0 = 271816) :
    Moves k0 z0 z1 := by
  simpa only [he] using matmulRun_moves m blk chunk acc s hz hk0

theorem readRowState_moves (m : MacroInst) (i : Nat × Nat × Nat) (s : State) {k0 : Nat} {z0 : State} (hz : Moves k0 z0 s) (hk0 : 271688 &&& k0 = 271688) :
    Moves k0 z0 (readRowState m i s).1 := by
  refine hz.trans ?_
  clear hz
  unfold readRowState
  repeat' first
    | with_reducible exact Moves.refl _ _
    | with_reducible assumption
    | with_reducible exact mask_le hk0 (by decide)
    | with_reducible apply Moves.ite
    | with_reducible apply Moves.ite_fst
    | with_reducible (apply readClaim_moves)
    | with_reducible (apply readClaim_pmoves; assumption)
    | with_reducible (apply Moves.foldl)
    | with_reducible (apply Moves.foldl_fst)
    | with_reducible (apply Moves.of_eq; assumption)
    | with_reducible intro _
    | dsimp only
    | split

theorem readRowState_pmoves (m : MacroInst) (i : Nat × Nat × Nat) (s : State) {z1 : State} {y1 : ReadEnd (List Byte)} (he : (readRowState m i s) = (z1, y1)) {k0 : Nat} {z0 : State} (hz : Moves k0 z0 s) (hk0 : 271688 &&& k0 = 271688) :
    Moves k0 z0 z1 := by
  simpa only [he] using readRowState_moves m i s hz hk0

theorem writeRowState_moves (m : MacroInst) (fin : Bool) (i : Nat × Nat × Nat) (b : List Byte) (s : State) {k0 : Nat} {z0 : State} (hz : Moves k0 z0 s) (hk0 : 304584 &&& k0 = 304584) :
    Moves k0 z0 (writeRowState m fin i b s).1 := by
  refine hz.trans ?_
  clear hz
  unfold writeRowState
  repeat' first
    | with_reducible exact Moves.refl _ _
    | with_reducible assumption
    | with_reducible exact mask_le hk0 (by decide)
    | with_reducible apply Moves.ite
    | with_reducible apply Moves.ite_fst
    | with_reducible (apply writeClaim_moves)
    | with_reducible (apply writeClaim_pmoves; assumption)
    | with_reducible (apply Moves.foldl)
    | with_reducible (apply Moves.foldl_fst)
    | with_reducible (apply Moves.of_eq; assumption)
    | with_reducible intro _
    | dsimp only
    | split
    | with_reducible (apply Moves.put_rounds)

theorem writeRowState_pmoves (m : MacroInst) (fin : Bool) (i : Nat × Nat × Nat) (b : List Byte) (s : State) {z1 : State} {y1 : ReadEnd Unit} (he : (writeRowState m fin i b s) = (z1, y1)) {k0 : Nat} {z0 : State} (hz : Moves k0 z0 s) (hk0 : 304584 &&& k0 = 304584) :
    Moves k0 z0 z1 := by
  simpa only [he] using writeRowState_moves m fin i b s hz hk0

theorem readState_moves (m : MacroInst) (i : Nat × Nat × Nat) (s : State) {k0 : Nat} {z0 : State} (hz : Moves k0 z0 s) (hk0 : 271688 &&& k0 = 271688) :
    Moves k0 z0 (readState m i s).1 := by
  refine hz.trans ?_
  clear hz
  unfold readState
  repeat' first
    | with_reducible exact Moves.refl _ _
    | with_reducible assumption
    | with_reducible exact mask_le hk0 (by decide)
    | with_reducible apply Moves.ite
    | with_reducible apply Moves.ite_fst
    | with_reducible (apply Run.andThen_moves)
    | with_reducible (apply readRow_moves)
    | with_reducible (apply readRow_pmoves; assumption)
    | with_reducible (apply readRowState_moves)
    | with_reducible (apply readRowState_pmoves; assumption)
    | with_reducible (apply Moves.foldl)
    | with_reducible (apply Moves.foldl_fst)
    | with_reducible (apply Moves.of_eq; assumption)
    | with_reducible intro _
    | dsimp only
    | split

theorem readState_pmoves (m : MacroInst) (i : Nat × Nat × Nat) (s : State) {z1 : State} {y1 : ReadEnd AttRow} (he : (readState m i s) = (z1, y1)) {k0 : Nat} {z0 : State} (hz : Moves k0 z0 s) (hk0 : 271688 &&& k0 = 271688) :
    Moves k0 z0 z1 := by
  simpa only [he] using readState_moves m i s hz hk0

theorem attendBlock_moves (m : MacroInst) (b3 : Nat) (h : Nat) (i : Nat) (s : State) {k0 : Nat} {z0 : State} (hz : Moves k0 z0 s) (hk0 : 304584 &&& k0 = 304584) :
    Moves k0 z0 (attendBlock m b3 h i s).1 := by
  refine hz.trans ?_
  clear hz
  unfold attendBlock
  repeat' first
    | with_reducible exact Moves.refl _ _
    | with_reducible assumption
    | with_reducible exact mask_le hk0 (by decide)
    | with_reducible apply Moves.ite
    | with_reducible apply Moves.ite_fst
    | with_reducible (apply Run.andThen_moves)
    | with_reducible (apply readRow_moves)
    | with_reducible (apply readRow_pmoves; assumption)
    | with_reducible (apply readState_moves)
    | with_reducible (apply readState_pmoves; assumption)
    | with_reducible (apply runEach_moves)
    | with_reducible (apply writeRow_moves)
    | with_reducible (apply writeRow_pmoves; assumption)
    | with_reducible (apply writeRowState_moves)
    | with_reducible (apply writeRowState_pmoves; assumption)
    | with_reducible (apply Moves.foldl)
    | with_reducible (apply Moves.foldl_fst)
    | with_reducible (apply Moves.of_eq; assumption)
    | with_reducible intro _
    | dsimp only
    | split

theorem attendBlock_pmoves (m : MacroInst) (b3 : Nat) (h : Nat) (i : Nat) (s : State) {z1 : State} {y1 : ReadEnd BlockEnd} (he : (attendBlock m b3 h i s) = (z1, y1)) {k0 : Nat} {z0 : State} (hz : Moves k0 z0 s) (hk0 : 304584 &&& k0 = 304584) :
    Moves k0 z0 z1 := by
  simpa only [he] using attendBlock_moves m b3 h i s hz hk0

theorem bwdKeys_moves (m : MacroInst) (b3 : Nat) (kv : Nat) (s : State) {k0 : Nat} {z0 : State} (hz : Moves k0 z0 s) (hk0 : 271688 &&& k0 = 271688) :
    Moves k0 z0 (bwdKeys m b3 kv s).1 := by
  refine hz.trans ?_
  clear hz
  unfold bwdKeys
  repeat' first
    | with_reducible exact Moves.refl _ _
    | with_reducible assumption
    | with_reducible exact mask_le hk0 (by decide)
    | with_reducible apply Moves.ite
    | with_reducible apply Moves.ite_fst
    | with_reducible (apply Run.andThen_moves)
    | with_reducible (apply readRow_moves)
    | with_reducible (apply readRow_pmoves; assumption)
    | with_reducible (apply runEach_moves)
    | with_reducible (apply Moves.foldl)
    | with_reducible (apply Moves.foldl_fst)
    | with_reducible (apply Moves.of_eq; assumption)
    | with_reducible intro _
    | dsimp only
    | split

theorem bwdKeys_pmoves (m : MacroInst) (b3 : Nat) (kv : Nat) (s : State) {z1 : State} {y1 : ReadEnd (List (Nat × List FP × List FP))} (he : (bwdKeys m b3 kv s) = (z1, y1)) {k0 : Nat} {z0 : State} (hz : Moves k0 z0 s) (hk0 : 271688 &&& k0 = 271688) :
    Moves k0 z0 z1 := by
  simpa only [he] using bwdKeys_moves m b3 kv s hz hk0

theorem bwdRow_moves (m : MacroInst) (kvs : List (Nat × List FP × List FP)) (b3 : Nat) (h : Nat) (r : Nat) (s : State) {k0 : Nat} {z0 : State} (hz : Moves k0 z0 s) (hk0 : 271688 &&& k0 = 271688) :
    Moves k0 z0 (bwdRow m kvs b3 h r s).1 := by
  refine hz.trans ?_
  clear hz
  unfold bwdRow
  repeat' first
    | with_reducible exact Moves.refl _ _
    | with_reducible assumption
    | with_reducible exact mask_le hk0 (by decide)
    | with_reducible apply Moves.ite
    | with_reducible apply Moves.ite_fst
    | with_reducible (apply Run.andThen_moves)
    | with_reducible (apply readRow_moves)
    | with_reducible (apply readRow_pmoves; assumption)
    | with_reducible (apply Moves.foldl)
    | with_reducible (apply Moves.foldl_fst)
    | with_reducible (apply Moves.of_eq; assumption)
    | with_reducible intro _
    | dsimp only
    | split

theorem bwdRow_pmoves (m : MacroInst) (kvs : List (Nat × List FP × List FP)) (b3 : Nat) (h : Nat) (r : Nat) (s : State) {z1 : State} {y1 : ReadEnd BwdRow} (he : (bwdRow m kvs b3 h r s) = (z1, y1)) {k0 : Nat} {z0 : State} (hz : Moves k0 z0 s) (hk0 : 271688 &&& k0 = 271688) :
    Moves k0 z0 z1 := by
  simpa only [he] using bwdRow_moves m kvs b3 h r s hz hk0

theorem bwdQuery_moves (m : MacroInst) (kvs : List (Nat × List FP × List FP)) (b3 : Nat) (h : Nat) (r : Nat) (s : State) {k0 : Nat} {z0 : State} (hz : Moves k0 z0 s) (hk0 : 271816 &&& k0 = 271816) :
    Moves k0 z0 (bwdQuery m kvs b3 h r s).1 := by
  refine hz.trans ?_
  clear hz
  unfold bwdQuery
  repeat' first
    | with_reducible exact Moves.refl _ _
    | with_reducible assumption
    | with_reducible exact mask_le hk0 (by decide)
    | with_reducible apply Moves.ite
    | with_reducible apply Moves.ite_fst
    | with_reducible (apply Run.andThen_moves)
    | with_reducible (apply bwdRow_moves)
    | with_reducible (apply bwdRow_pmoves; assumption)
    | with_reducible (apply readRow_moves)
    | with_reducible (apply readRow_pmoves; assumption)
    | with_reducible (apply writeRow_moves)
    | with_reducible (apply writeRow_pmoves; assumption)
    | with_reducible (apply Moves.foldl)
    | with_reducible (apply Moves.foldl_fst)
    | with_reducible (apply Moves.of_eq; assumption)
    | with_reducible intro _
    | dsimp only
    | split

theorem bwdQuery_pmoves (m : MacroInst) (kvs : List (Nat × List FP × List FP)) (b3 : Nat) (h : Nat) (r : Nat) (s : State) {z1 : State} {y1 : ReadEnd Nat} (he : (bwdQuery m kvs b3 h r s) = (z1, y1)) {k0 : Nat} {z0 : State} (hz : Moves k0 z0 s) (hk0 : 271816 &&& k0 = 271816) :
    Moves k0 z0 z1 := by
  simpa only [he] using bwdQuery_moves m kvs b3 h r s hz hk0

theorem bwdKeysOut_moves (m : MacroInst) (kvs : List (Nat × List FP × List FP)) (b3 : Nat) (kv : Nat) (s : State) {k0 : Nat} {z0 : State} (hz : Moves k0 z0 s) (hk0 : 271816 &&& k0 = 271816) :
    Moves k0 z0 (bwdKeysOut m kvs b3 kv s).1 := by
  refine hz.trans ?_
  clear hz
  unfold bwdKeysOut
  repeat' first
    | with_reducible exact Moves.refl _ _
    | with_reducible assumption
    | with_reducible exact mask_le hk0 (by decide)
    | with_reducible apply Moves.ite
    | with_reducible apply Moves.ite_fst
    | with_reducible (apply Run.andThen_moves)
    | with_reducible (apply bwdRow_moves)
    | with_reducible (apply bwdRow_pmoves; assumption)
    | with_reducible (apply runEach_moves)
    | with_reducible (apply writeRow_moves)
    | with_reducible (apply writeRow_pmoves; assumption)
    | with_reducible (apply Moves.foldl)
    | with_reducible (apply Moves.foldl_fst)
    | with_reducible (apply Moves.of_eq; assumption)
    | with_reducible intro _
    | dsimp only
    | split

theorem bwdKeysOut_pmoves (m : MacroInst) (kvs : List (Nat × List FP × List FP)) (b3 : Nat) (kv : Nat) (s : State) {z1 : State} {y1 : ReadEnd Nat} (he : (bwdKeysOut m kvs b3 kv s) = (z1, y1)) {k0 : Nat} {z0 : State} (hz : Moves k0 z0 s) (hk0 : 271816 &&& k0 = 271816) :
    Moves k0 z0 z1 := by
  simpa only [he] using bwdKeysOut_moves m kvs b3 kv s hz hk0

theorem backwardBlock_moves (m : MacroInst) (b3 : Nat) (h : Nat) (i : Nat) (s : State) {k0 : Nat} {z0 : State} (hz : Moves k0 z0 s) (hk0 : 271816 &&& k0 = 271816) :
    Moves k0 z0 (backwardBlock m b3 h i s).1 := by
  refine hz.trans ?_
  clear hz
  unfold backwardBlock
  repeat' first
    | with_reducible exact Moves.refl _ _
    | with_reducible assumption
    | with_reducible exact mask_le hk0 (by decide)
    | with_reducible apply Moves.ite
    | with_reducible apply Moves.ite_fst
    | with_reducible (apply Run.andThen_moves)
    | with_reducible (apply bwdKeys_moves)
    | with_reducible (apply bwdKeys_pmoves; assumption)
    | with_reducible (apply bwdKeysOut_moves)
    | with_reducible (apply bwdKeysOut_pmoves; assumption)
    | with_reducible (apply bwdQuery_moves)
    | with_reducible (apply bwdQuery_pmoves; assumption)
    | with_reducible (apply runEach_moves)
    | with_reducible (apply Moves.foldl)
    | with_reducible (apply Moves.foldl_fst)
    | with_reducible (apply Moves.of_eq; assumption)
    | with_reducible intro _
    | dsimp only
    | split

theorem backwardBlock_pmoves (m : MacroInst) (b3 : Nat) (h : Nat) (i : Nat) (s : State) {z1 : State} {y1 : ReadEnd Nat} (he : (backwardBlock m b3 h i s) = (z1, y1)) {k0 : Nat} {z0 : State} (hz : Moves k0 z0 s) (hk0 : 271816 &&& k0 = 271816) :
    Moves k0 z0 z1 := by
  simpa only [he] using backwardBlock_moves m b3 h i s hz hk0

theorem sfnRow_moves (m : MacroInst) (i : Nat × Nat × Nat) (s : State) {k0 : Nat} {z0 : State} (hz : Moves k0 z0 s) (hk0 : 271816 &&& k0 = 271816) :
    Moves k0 z0 (sfnRow m i s).1 := by
  refine hz.trans ?_
  clear hz
  unfold sfnRow
  repeat' first
    | with_reducible exact Moves.refl _ _
    | with_reducible assumption
    | with_reducible exact mask_le hk0 (by decide)
    | with_reducible apply Moves.ite
    | with_reducible apply Moves.ite_fst
    | with_reducible (apply Run.andThen_moves)
    | with_reducible (apply readScaled_moves)
    | with_reducible (apply readScaled_pmoves; assumption)
    | with_reducible (apply writeRow_moves)
    | with_reducible (apply writeRow_pmoves; assumption)
    | with_reducible (apply Moves.foldl)
    | with_reducible (apply Moves.foldl_fst)
    | with_reducible (apply Moves.of_eq; assumption)
    | with_reducible intro _
    | dsimp only
    | split

theorem sfnRow_pmoves (m : MacroInst) (i : Nat × Nat × Nat) (s : State) {z1 : State} {y1 : ReadEnd Nat} (he : (sfnRow m i s) = (z1, y1)) {k0 : Nat} {z0 : State} (hz : Moves k0 z0 s) (hk0 : 271816 &&& k0 = 271816) :
    Moves k0 z0 z1 := by
  simpa only [he] using sfnRow_moves m i s hz hk0

theorem normRowRun_moves (m : MacroInst) (i : Nat × Nat × Nat) (s : State) {k0 : Nat} {z0 : State} (hz : Moves k0 z0 s) (hk0 : 271816 &&& k0 = 271816) :
    Moves k0 z0 (normRowRun m i s).1 := by
  refine hz.trans ?_
  clear hz
  unfold normRowRun
  repeat' first
    | with_reducible exact Moves.refl _ _
    | with_reducible assumption
    | with_reducible exact mask_le hk0 (by decide)
    | with_reducible apply Moves.ite
    | with_reducible apply Moves.ite_fst
    | with_reducible (apply Run.andThen_moves)
    | with_reducible (apply readScaled_moves)
    | with_reducible (apply readScaled_pmoves; assumption)
    | with_reducible (apply writeRow_moves)
    | with_reducible (apply writeRow_pmoves; assumption)
    | with_reducible (apply Moves.foldl)
    | with_reducible (apply Moves.foldl_fst)
    | with_reducible (apply Moves.of_eq; assumption)
    | with_reducible intro _
    | dsimp only
    | split

theorem normRowRun_pmoves (m : MacroInst) (i : Nat × Nat × Nat) (s : State) {z1 : State} {y1 : ReadEnd Nat} (he : (normRowRun m i s) = (z1, y1)) {k0 : Nat} {z0 : State} (hz : Moves k0 z0 s) (hk0 : 271816 &&& k0 = 271816) :
    Moves k0 z0 z1 := by
  simpa only [he] using normRowRun_moves m i s hz hk0

theorem hoistRow_moves (m : MacroInst) (i : Nat × Nat × Nat) (s : State) {k0 : Nat} {z0 : State} (hz : Moves k0 z0 s) (hk0 : 271816 &&& k0 = 271816) :
    Moves k0 z0 (hoistRow m i s).1 := by
  refine hz.trans ?_
  clear hz
  unfold hoistRow
  repeat' first
    | with_reducible exact Moves.refl _ _
    | with_reducible assumption
    | with_reducible exact mask_le hk0 (by decide)
    | with_reducible apply Moves.ite
    | with_reducible apply Moves.ite_fst
    | with_reducible (apply Run.andThen_moves)
    | with_reducible (apply readClaim_moves)
    | with_reducible (apply readClaim_pmoves; assumption)
    | with_reducible (apply writeClaim_moves)
    | with_reducible (apply writeClaim_pmoves; assumption)
    | with_reducible (apply Moves.foldl)
    | with_reducible (apply Moves.foldl_fst)
    | with_reducible (apply Moves.of_eq; assumption)
    | with_reducible intro _
    | dsimp only
    | split

theorem hoistRow_pmoves (m : MacroInst) (i : Nat × Nat × Nat) (s : State) {z1 : State} {y1 : ReadEnd Nat} (he : (hoistRow m i s) = (z1, y1)) {k0 : Nat} {z0 : State} (hz : Moves k0 z0 s) (hk0 : 271816 &&& k0 = 271816) :
    Moves k0 z0 z1 := by
  simpa only [he] using hoistRow_moves m i s hz hk0

theorem convertRowRun_moves (m : MacroInst) (i : Nat × Nat × Nat) (s : State) {k0 : Nat} {z0 : State} (hz : Moves k0 z0 s) (hk0 : 271816 &&& k0 = 271816) :
    Moves k0 z0 (convertRowRun m i s).1 := by
  refine hz.trans ?_
  clear hz
  unfold convertRowRun
  repeat' first
    | with_reducible exact Moves.refl _ _
    | with_reducible assumption
    | with_reducible exact mask_le hk0 (by decide)
    | with_reducible apply Moves.ite
    | with_reducible apply Moves.ite_fst
    | with_reducible (apply Run.andThen_moves)
    | with_reducible (apply readClaim_moves)
    | with_reducible (apply readClaim_pmoves; assumption)
    | with_reducible (apply writeClaim_moves)
    | with_reducible (apply writeClaim_pmoves; assumption)
    | with_reducible (apply Moves.foldl)
    | with_reducible (apply Moves.foldl_fst)
    | with_reducible (apply Moves.of_eq; assumption)
    | with_reducible intro _
    | dsimp only
    | split

theorem convertRowRun_pmoves (m : MacroInst) (i : Nat × Nat × Nat) (s : State) {z1 : State} {y1 : ReadEnd Nat} (he : (convertRowRun m i s) = (z1, y1)) {k0 : Nat} {z0 : State} (hz : Moves k0 z0 s) (hk0 : 271816 &&& k0 = 271816) :
    Moves k0 z0 z1 := by
  simpa only [he] using convertRowRun_moves m i s hz hk0

theorem reduceRow_moves (m : MacroInst) (i : Nat × Nat × Nat) (s : State) {k0 : Nat} {z0 : State} (hz : Moves k0 z0 s) (hk0 : 271816 &&& k0 = 271816) :
    Moves k0 z0 (reduceRow m i s).1 := by
  refine hz.trans ?_
  clear hz
  unfold reduceRow
  repeat' first
    | with_reducible exact Moves.refl _ _
    | with_reducible assumption
    | with_reducible exact mask_le hk0 (by decide)
    | with_reducible apply Moves.ite
    | with_reducible apply Moves.ite_fst
    | with_reducible (apply Run.andThen_moves)
    | with_reducible (apply readScaled_moves)
    | with_reducible (apply readScaled_pmoves; assumption)
    | with_reducible (apply runEach_moves)
    | with_reducible (apply writeRow_moves)
    | with_reducible (apply writeRow_pmoves; assumption)
    | with_reducible (apply Moves.foldl)
    | with_reducible (apply Moves.foldl_fst)
    | with_reducible (apply Moves.of_eq; assumption)
    | with_reducible intro _
    | dsimp only
    | split

theorem reduceRow_pmoves (m : MacroInst) (i : Nat × Nat × Nat) (s : State) {z1 : State} {y1 : ReadEnd Nat} (he : (reduceRow m i s) = (z1, y1)) {k0 : Nat} {z0 : State} (hz : Moves k0 z0 s) (hk0 : 271816 &&& k0 = 271816) :
    Moves k0 z0 z1 := by
  simpa only [he] using reduceRow_moves m i s hz hk0

theorem rerankQuery_moves (m : MacroInst) (qi : Nat) (s : State) {k0 : Nat} {z0 : State} (hz : Moves k0 z0 s) (hk0 : 271816 &&& k0 = 271816) :
    Moves k0 z0 (rerankQuery m qi s).1 := by
  refine hz.trans ?_
  clear hz
  unfold rerankQuery
  repeat' first
    | with_reducible exact Moves.refl _ _
    | with_reducible assumption
    | with_reducible exact mask_le hk0 (by decide)
    | with_reducible apply Moves.ite
    | with_reducible apply Moves.ite_fst
    | with_reducible (apply Run.andThen_moves)
    | with_reducible (apply readClaim_moves)
    | with_reducible (apply readClaim_pmoves; assumption)
    | with_reducible (apply readRow_moves)
    | with_reducible (apply readRow_pmoves; assumption)
    | with_reducible (apply runEach_moves)
    | with_reducible (apply writeClaim_moves)
    | with_reducible (apply writeClaim_pmoves; assumption)
    | with_reducible (apply Moves.foldl)
    | with_reducible (apply Moves.foldl_fst)
    | with_reducible (apply Moves.of_eq; assumption)
    | with_reducible intro _
    | dsimp only
    | split

theorem rerankQuery_pmoves (m : MacroInst) (qi : Nat) (s : State) {z1 : State} {y1 : ReadEnd Nat} (he : (rerankQuery m qi s) = (z1, y1)) {k0 : Nat} {z0 : State} (hz : Moves k0 z0 s) (hk0 : 271816 &&& k0 = 271816) :
    Moves k0 z0 z1 := by
  simpa only [he] using rerankQuery_moves m qi s hz hk0

theorem runRows_moves (f : Nat × Nat × Nat → State → Run Nat) (is : List (Nat × Nat × Nat)) (s : State) {k0 : Nat} {z0 : State}
    (hz : Moves k0 z0 s) (hf : ∀ (a : Nat × Nat × Nat) (t : State), Moves k0 z0 t → Moves k0 z0 (f a t).1) :
    Moves k0 z0 (runRows f is s).1 :=
  Run.andThen_moves _ _ (runEach_moves f is s hz hf) fun _ _ h => h

theorem runGroup_moves (m : MacroInst) (w : GroupWork) (s : State) {k0 : Nat} {z0 : State} (hz : Moves k0 z0 s) (hk0 : 304584 &&& k0 = 304584) :
    Moves k0 z0 (runGroup m w s).1 := by
  refine hz.trans ?_
  clear hz
  unfold runGroup
  repeat' first
    | with_reducible exact Moves.refl _ _
    | with_reducible assumption
    | with_reducible exact mask_le hk0 (by decide)
    | with_reducible apply Moves.ite
    | with_reducible apply Moves.ite_fst
    | with_reducible (apply Run.andThen_moves)
    | with_reducible (apply attendBlock_moves)
    | with_reducible (apply attendBlock_pmoves; assumption)
    | with_reducible (apply backwardBlock_moves)
    | with_reducible (apply backwardBlock_pmoves; assumption)
    | with_reducible (apply convertRowRun_moves)
    | with_reducible (apply convertRowRun_pmoves; assumption)
    | with_reducible (apply hoistRow_moves)
    | with_reducible (apply hoistRow_pmoves; assumption)
    | with_reducible (apply matmulRun_moves)
    | with_reducible (apply matmulRun_pmoves; assumption)
    | with_reducible (apply normRowRun_moves)
    | with_reducible (apply normRowRun_pmoves; assumption)
    | with_reducible (apply reduceRow_moves)
    | with_reducible (apply reduceRow_pmoves; assumption)
    | with_reducible (apply rerankQuery_moves)
    | with_reducible (apply rerankQuery_pmoves; assumption)
    | with_reducible (apply runRows_moves)
    | with_reducible (apply sfnRow_moves)
    | with_reducible (apply sfnRow_pmoves; assumption)
    | with_reducible (apply Moves.foldl)
    | with_reducible (apply Moves.foldl_fst)
    | with_reducible (apply Moves.of_eq; assumption)
    | with_reducible intro _
    | dsimp only
    | split

theorem runGroup_pmoves (m : MacroInst) (w : GroupWork) (s : State) {z1 : State} {y1 : ReadEnd GroupEnd} (he : (runGroup m w s) = (z1, y1)) {k0 : Nat} {z0 : State} (hz : Moves k0 z0 s) (hk0 : 304584 &&& k0 = 304584) :
    Moves k0 z0 z1 := by
  simpa only [he] using runGroup_moves m w s hz hk0

end Sys2Proof.Machine
end

