-- ==== Sys2Proof/Laws/MovesMacroOps.lean ====
section
/-! SUPPORT. What each operation of Machine/MacroOps.lean may change. -/

set_option linter.unreachableTactic false
set_option linter.unusedTactic false
set_option linter.unusedVariables false

namespace Sys2Proof.Machine

theorem macroCmd_moves (s : State) (shoe : Nat) (seq : Nat) (l : Nat) (code : Nat) {k0 : Nat} {z0 : State} (hz : Moves k0 z0 s) (hk0 : 128 &&& k0 = 128) :
    Moves k0 z0 (macroCmd s shoe seq l code) := by
  refine hz.trans ?_
  clear hz
  unfold macroCmd
  repeat' first
    | with_reducible exact Moves.refl _ _
    | with_reducible assumption
    | with_reducible exact mask_le hk0 (by decide)
    | with_reducible apply Moves.ite
    | with_reducible apply Moves.ite_fst
    | with_reducible (apply heldCmd_moves)
    | with_reducible (apply Moves.foldl)
    | with_reducible (apply Moves.foldl_fst)
    | with_reducible (apply Moves.of_eq; assumption)
    | with_reducible intro _
    | dsimp only
    | split

theorem readDescs_moves (claim : Nat) (b : List Byte) (s : State) {k0 : Nat} {z0 : State} (hz : Moves k0 z0 s) (hk0 : 271688 &&& k0 = 271688) :
    Moves k0 z0 (readDescs claim b s).1 := by
  refine hz.trans ?_
  clear hz
  unfold readDescs
  repeat' first
    | with_reducible exact Moves.refl _ _
    | with_reducible assumption
    | with_reducible exact mask_le hk0 (by decide)
    | with_reducible apply Moves.ite
    | with_reducible apply Moves.ite_fst
    | with_reducible (apply Run.andThen_moves)
    | with_reducible (apply readClaim_moves)
    | with_reducible (apply readClaim_pmoves; assumption)
    | with_reducible (apply runEach_moves)
    | with_reducible (apply Moves.foldl)
    | with_reducible (apply Moves.foldl_fst)
    | with_reducible (apply Moves.of_eq; assumption)
    | with_reducible intro _
    | dsimp only
    | split

theorem readDescs_pmoves (claim : Nat) (b : List Byte) (s : State) {z1 : State} {y1 : ReadEnd (List Slot)} (he : (readDescs claim b s) = (z1, y1)) {k0 : Nat} {z0 : State} (hz : Moves k0 z0 s) (hk0 : 271688 &&& k0 = 271688) :
    Moves k0 z0 z1 := by
  simpa only [he] using readDescs_moves claim b s hz hk0

theorem readProgram_moves (claim : Nat) (code : Nat) (va : Nat) (s : State) {k0 : Nat} {z0 : State} (hz : Moves k0 z0 s) (hk0 : 271688 &&& k0 = 271688) :
    Moves k0 z0 (readProgram claim code va s).1 := by
  refine hz.trans ?_
  clear hz
  unfold readProgram
  repeat' first
    | with_reducible exact Moves.refl _ _
    | with_reducible assumption
    | with_reducible exact mask_le hk0 (by decide)
    | with_reducible apply Moves.ite
    | with_reducible apply Moves.ite_fst
    | with_reducible (apply Run.andThen_moves)
    | with_reducible (apply readClaim_moves)
    | with_reducible (apply readClaim_pmoves; assumption)
    | with_reducible (apply Moves.foldl)
    | with_reducible (apply Moves.foldl_fst)
    | with_reducible (apply Moves.of_eq; assumption)
    | with_reducible intro _
    | dsimp only
    | split

theorem readProgram_pmoves (claim : Nat) (code : Nat) (va : Nat) (s : State) {z1 : State} {y1 : ReadEnd (List Byte)} (he : (readProgram claim code va s) = (z1, y1)) {k0 : Nat} {z0 : State} (hz : Moves k0 z0 s) (hk0 : 271688 &&& k0 = 271688) :
    Moves k0 z0 z1 := by
  simpa only [he] using readProgram_moves claim code va s hz hk0

theorem enterLane_moves (s : State) (mid : Nat) (lane : Nat) {k0 : Nat} {z0 : State} (hz : Moves k0 z0 s) (hk0 : 128 &&& k0 = 128) :
    Moves k0 z0 (enterLane s mid lane) := by
  refine hz.trans ?_
  clear hz
  unfold enterLane
  repeat' first
    | with_reducible exact Moves.refl _ _
    | with_reducible assumption
    | with_reducible exact mask_le hk0 (by decide)
    | with_reducible apply Moves.ite
    | with_reducible apply Moves.ite_fst
    | with_reducible (apply State.modDl_moves)
    | with_reducible (apply State.modMacro_moves)
    | with_reducible (apply Moves.foldl)
    | with_reducible (apply Moves.foldl_fst)
    | with_reducible (apply Moves.of_eq; assumption)
    | with_reducible intro _
    | dsimp only
    | split

theorem placeParts_moves (shoe : Nat) (seq : Nat) (l : Nat) (g : Nat) (lane : Nat) (x5 : List MacroInst) (x6 : State) {k0 : Nat} {z0 : State} (hz : Moves k0 z0 x6) (hk0 : 128 &&& k0 = 128) :
    Moves k0 z0 (placeParts shoe seq l g lane x5 x6) := by
  refine hz.trans ?_
  clear hz
  fun_induction placeParts shoe seq l g lane x5 x6
  all_goals repeat' first
    | with_reducible exact Moves.refl _ _
    | with_reducible assumption
    | with_reducible (refine Moves.trans ?_ (by assumption))
    | with_reducible (refine Moves.trans ?_ (Moves.of_eq (by assumption) (by assumption)))
    | with_reducible exact mask_le hk0 (by decide)
    | with_reducible apply Moves.ite
    | with_reducible apply Moves.ite_fst
    | with_reducible (apply enterLane_moves)
    | with_reducible (apply setActive_moves)
    | with_reducible (apply Moves.foldl)
    | with_reducible (apply Moves.foldl_fst)
    | with_reducible (apply Moves.of_eq; assumption)
    | with_reducible intro _
    | dsimp only
    | split

theorem makeParts_moves (s : State) (shoe : Nat) (seq : Nat) (l : Nat) (g : Nat) (lane : Nat) (b : List Byte) (ds : List Slot) (set_ : List Byte) (table : Option (Nat × Bool × SfnTable)) {k0 : Nat} {z0 : State} (hz : Moves k0 z0 s) (hk0 : 128 &&& k0 = 128) :
    Moves k0 z0 (makeParts s shoe seq l g lane b ds set_ table) := by
  refine hz.trans ?_
  clear hz
  unfold makeParts
  repeat' first
    | with_reducible exact Moves.refl _ _
    | with_reducible assumption
    | with_reducible exact mask_le hk0 (by decide)
    | with_reducible apply Moves.ite
    | with_reducible apply Moves.ite_fst
    | with_reducible (apply State.modDl_moves)
    | with_reducible (apply completeCmd_moves)
    | with_reducible (apply failAt_moves)
    | with_reducible (apply placeParts_moves)
    | with_reducible (apply Moves.foldl)
    | with_reducible (apply Moves.foldl_fst)
    | with_reducible (apply Moves.of_eq; assumption)
    | with_reducible intro _
    | dsimp only
    | split

theorem dispatchMacro_moves (s : State) (shoe : Nat) (seq : Nat) (l : Nat) (g : Nat) (redealFault : State → State) {k0 : Nat} {z0 : State} (hz : Moves k0 z0 s) (hk0 : 271816 &&& k0 = 271816) (hk_redealFault : ∀ (v0 : State), Moves k0 v0 (redealFault v0)) :
    Moves k0 z0 (dispatchMacro s shoe seq l g redealFault) := by
  refine hz.trans ?_
  clear hz
  unfold dispatchMacro
  repeat' first
    | with_reducible exact Moves.refl _ _
    | with_reducible assumption
    | with_reducible exact mask_le hk0 (by decide)
    | with_reducible apply Moves.ite
    | with_reducible apply Moves.ite_fst
    | with_reducible (refine Moves.trans ?_ (hk_redealFault ..))
    | with_reducible (apply failAt_moves)
    | with_reducible (apply makeParts_moves)
    | with_reducible (apply placeParts_moves)
    | with_reducible (apply readDescs_moves)
    | with_reducible (apply readDescs_pmoves; assumption)
    | with_reducible (apply readProgram_moves)
    | with_reducible (apply readProgram_pmoves; assumption)
    | with_reducible (apply setActive_moves)
    | with_reducible (apply Moves.foldl)
    | with_reducible (apply Moves.foldl_fst)
    | with_reducible (apply Moves.of_eq; assumption)
    | with_reducible intro _
    | dsimp only
    | split

theorem laneGrant_moves (s : State) (l : Nat) {k0 : Nat} {z0 : State} (hz : Moves k0 z0 s) (hk0 : 128 &&& k0 = 128) :
    Moves k0 z0 (laneGrant s l) := by
  refine hz.trans ?_
  clear hz
  unfold laneGrant
  repeat' first
    | with_reducible exact Moves.refl _ _
    | with_reducible assumption
    | with_reducible exact mask_le hk0 (by decide)
    | with_reducible apply Moves.ite
    | with_reducible apply Moves.ite_fst
    | with_reducible (apply State.modDl_moves)
    | with_reducible (apply State.modMacro_moves)
    | with_reducible (apply grantNext_moves)
    | with_reducible (apply Moves.foldl)
    | with_reducible (apply Moves.foldl_fst)
    | with_reducible (apply Moves.of_eq; assumption)
    | with_reducible intro _
    | dsimp only
    | split

theorem engineGrant_moves (s : State) (e : Engine) (ns : Nat) {k0 : Nat} {z0 : State} (hz : Moves k0 z0 s) (hk0 : 131208 &&& k0 = 131208) :
    Moves k0 z0 (engineGrant s e ns) := by
  refine hz.trans ?_
  clear hz
  unfold engineGrant
  repeat' first
    | with_reducible exact Moves.refl _ _
    | with_reducible assumption
    | with_reducible exact mask_le hk0 (by decide)
    | with_reducible apply Moves.ite
    | with_reducible apply Moves.ite_fst
    | with_reducible (apply chargeGrant_moves)
    | with_reducible (apply followRail_moves)
    | with_reducible (apply grantNext_moves)
    | with_reducible (apply laneGrant_moves)
    | with_reducible (apply Moves.foldl)
    | with_reducible (apply Moves.foldl_fst)
    | with_reducible (apply Moves.of_eq; assumption)
    | with_reducible intro _
    | dsimp only
    | split

theorem takeCores_moves (s : State) (m : MacroInst) (cs : List Nat) (loaded : List Byte) {k0 : Nat} {z0 : State} (hz : Moves k0 z0 s) (hk0 : 128 &&& k0 = 128) :
    Moves k0 z0 (takeCores s m cs loaded) := by
  refine hz.trans ?_
  clear hz
  unfold takeCores
  repeat' first
    | with_reducible exact Moves.refl _ _
    | with_reducible assumption
    | with_reducible exact mask_le hk0 (by decide)
    | with_reducible apply Moves.ite
    | with_reducible apply Moves.ite_fst
    | with_reducible (apply State.modDl_moves)
    | with_reducible (apply State.modMacro_moves)
    | with_reducible (apply Moves.foldl)
    | with_reducible (apply Moves.foldl_fst)
    | with_reducible (apply Moves.of_eq; assumption)
    | with_reducible intro _
    | dsimp only
    | split

theorem loadVariant_moves (m : MacroInst) (cs : List Nat) (s : State) {k0 : Nat} {z0 : State} (hz : Moves k0 z0 s) (hk0 : 271688 &&& k0 = 271688) :
    Moves k0 z0 (loadVariant m cs s).1 := by
  refine hz.trans ?_
  clear hz
  unfold loadVariant
  repeat' first
    | with_reducible exact Moves.refl _ _
    | with_reducible assumption
    | with_reducible exact mask_le hk0 (by decide)
    | with_reducible apply Moves.ite
    | with_reducible apply Moves.ite_fst
    | with_reducible (apply readClaim_moves)
    | with_reducible (apply readClaim_pmoves; assumption)
    | with_reducible (apply Moves.foldl)
    | with_reducible (apply Moves.foldl_fst)
    | with_reducible (apply Moves.of_eq; assumption)
    | with_reducible intro _
    | dsimp only
    | split

theorem loadVariant_pmoves (m : MacroInst) (cs : List Nat) (s : State) {z1 : State} {y1 : ReadEnd (List Byte)} (he : (loadVariant m cs s) = (z1, y1)) {k0 : Nat} {z0 : State} (hz : Moves k0 z0 s) (hk0 : 271688 &&& k0 = 271688) :
    Moves k0 z0 z1 := by
  simpa only [he] using loadVariant_moves m cs s hz hk0

theorem startMacro_moves (s : State) (mid : Nat) {k0 : Nat} {z0 : State} (hz : Moves k0 z0 s) (hk0 : 271816 &&& k0 = 271816) :
    Moves k0 z0 (startMacro s mid).1 := by
  refine hz.trans ?_
  clear hz
  unfold startMacro
  repeat' first
    | with_reducible exact Moves.refl _ _
    | with_reducible assumption
    | with_reducible exact mask_le hk0 (by decide)
    | with_reducible apply Moves.ite
    | with_reducible apply Moves.ite_fst
    | with_reducible (apply Run.andThen_moves)
    | with_reducible (apply loadVariant_moves)
    | with_reducible (apply loadVariant_pmoves; assumption)
    | with_reducible (apply takeCores_moves)
    | with_reducible (apply Moves.foldl)
    | with_reducible (apply Moves.foldl_fst)
    | with_reducible (apply Moves.of_eq; assumption)
    | with_reducible intro _
    | dsimp only
    | split

theorem startMacro_pmoves (s : State) (mid : Nat) {z1 : State} {y1 : ReadEnd Unit} (he : (startMacro s mid) = (z1, y1)) {k0 : Nat} {z0 : State} (hz : Moves k0 z0 s) (hk0 : 271816 &&& k0 = 271816) :
    Moves k0 z0 z1 := by
  simpa only [he] using startMacro_moves s mid hz hk0

theorem stopGroup_moves (s : State) (m : MacroInst) (c : Nat) {k0 : Nat} {z0 : State} (hz : Moves k0 z0 s) (hk0 : 304584 &&& k0 = 304584) :
    Moves k0 z0 (stopGroup s m c) := by
  refine hz.trans ?_
  clear hz
  unfold stopGroup
  repeat' first
    | with_reducible exact Moves.refl _ _
    | with_reducible assumption
    | with_reducible exact mask_le hk0 (by decide)
    | with_reducible apply Moves.ite
    | with_reducible apply Moves.ite_fst
    | with_reducible (apply State.modDl_moves)
    | with_reducible (apply State.modMacro_moves)
    | with_reducible (apply removeMacro_moves)
    | with_reducible (apply runGroup_moves)
    | with_reducible (apply runGroup_pmoves; assumption)
    | with_reducible (apply Moves.foldl)
    | with_reducible (apply Moves.foldl_fst)
    | with_reducible (apply Moves.of_eq; assumption)
    | with_reducible intro _
    | dsimp only
    | split

theorem leaveFailed_moves (s : State) (mid : Nat) (c : Nat) {k0 : Nat} {z0 : State} (hz : Moves k0 z0 s) (hk0 : 128 &&& k0 = 128) :
    Moves k0 z0 (leaveFailed s mid c) := by
  refine hz.trans ?_
  clear hz
  unfold leaveFailed
  repeat' first
    | with_reducible exact Moves.refl _ _
    | with_reducible assumption
    | with_reducible exact mask_le hk0 (by decide)
    | with_reducible apply Moves.ite
    | with_reducible apply Moves.ite_fst
    | with_reducible (apply State.modDl_moves)
    | with_reducible (apply removeMacro_moves)
    | with_reducible (apply Moves.foldl)
    | with_reducible (apply Moves.foldl_fst)
    | with_reducible (apply Moves.of_eq; assumption)
    | with_reducible intro _
    | dsimp only
    | split

theorem groupEnd_moves (s : State) (c : Nat) {k0 : Nat} {z0 : State} (hz : Moves k0 z0 s) (hk0 : 304584 &&& k0 = 304584) :
    Moves k0 z0 (groupEnd s c).1 := by
  refine hz.trans ?_
  clear hz
  unfold groupEnd
  repeat' first
    | with_reducible exact Moves.refl _ _
    | with_reducible assumption
    | with_reducible exact mask_le hk0 (by decide)
    | with_reducible apply Moves.ite
    | with_reducible apply Moves.ite_fst
    | with_reducible (apply State.modDl_moves)
    | with_reducible (apply State.modEcc_moves)
    | with_reducible (apply State.modMacro_moves)
    | with_reducible (apply runGroup_moves)
    | with_reducible (apply runGroup_pmoves; assumption)
    | with_reducible (apply stopGroup_moves)
    | with_reducible (apply Moves.foldl)
    | with_reducible (apply Moves.foldl_fst)
    | with_reducible (apply Moves.of_eq; assumption)
    | with_reducible intro _
    | dsimp only
    | split

theorem groupEnd_pmoves (s : State) (c : Nat) {z1 : State} {y1 : Option (MacroInst × Option (Nat × Nat))} (he : (groupEnd s c) = (z1, y1)) {k0 : Nat} {z0 : State} (hz : Moves k0 z0 s) (hk0 : 304584 &&& k0 = 304584) :
    Moves k0 z0 z1 := by
  simpa only [he] using groupEnd_moves s c hz hk0

theorem endStep_moves (s : State) (m : MacroInst) (c : Nat) {k0 : Nat} {z0 : State} (hz : Moves k0 z0 s) (hk0 : 65664 &&& k0 = 65664) :
    Moves k0 z0 (endStep s m c) := by
  refine hz.trans ?_
  clear hz
  unfold endStep
  repeat' first
    | with_reducible exact Moves.refl _ _
    | with_reducible assumption
    | with_reducible exact mask_le hk0 (by decide)
    | with_reducible apply Moves.ite
    | with_reducible apply Moves.ite_fst
    | with_reducible (apply State.modMacro_moves)
    | with_reducible (apply Moves.foldl)
    | with_reducible (apply Moves.foldl_fst)
    | with_reducible (apply Moves.of_eq; assumption)
    | with_reducible intro _
    | dsimp only
    | split
    | with_reducible (apply Moves.put_dbg)

theorem switchFrom_moves (s : State) (c : Nat) (old : Option Nat) {k0 : Nat} {z0 : State} (hz : Moves k0 z0 s) (hk0 : 128 &&& k0 = 128) :
    Moves k0 z0 (switchFrom s c old) := by
  refine hz.trans ?_
  clear hz
  unfold switchFrom
  repeat' first
    | with_reducible exact Moves.refl _ _
    | with_reducible assumption
    | with_reducible exact mask_le hk0 (by decide)
    | with_reducible apply Moves.ite
    | with_reducible apply Moves.ite_fst
    | with_reducible (apply State.modDl_moves)
    | with_reducible (apply State.modMacro_moves)
    | with_reducible (apply Moves.foldl)
    | with_reducible (apply Moves.foldl_fst)
    | with_reducible (apply Moves.of_eq; assumption)
    | with_reducible intro _
    | dsimp only
    | split

theorem coreNext_moves (s : State) (c : Nat) (ns : Nat) {k0 : Nat} {z0 : State} (hz : Moves k0 z0 s) (hk0 : 131208 &&& k0 = 131208) :
    Moves k0 z0 (coreNext s c ns) := by
  refine hz.trans ?_
  clear hz
  unfold coreNext
  repeat' first
    | with_reducible exact Moves.refl _ _
    | with_reducible assumption
    | with_reducible exact mask_le hk0 (by decide)
    | with_reducible apply Moves.ite
    | with_reducible apply Moves.ite_fst
    | with_reducible (apply State.modDl_moves)
    | with_reducible (apply chargeGrant_moves)
    | with_reducible (apply followRail_moves)
    | with_reducible (apply grantNext_moves)
    | with_reducible (apply switchFrom_moves)
    | with_reducible (apply Moves.foldl)
    | with_reducible (apply Moves.foldl_fst)
    | with_reducible (apply Moves.of_eq; assumption)
    | with_reducible intro _
    | dsimp only
    | split

theorem carryOn_moves (s : State) (m : MacroInst) {k0 : Nat} {z0 : State} (hz : Moves k0 z0 s) (hk0 : 128 &&& k0 = 128) :
    Moves k0 z0 (carryOn s m) := by
  refine hz.trans ?_
  clear hz
  unfold carryOn
  repeat' first
    | with_reducible exact Moves.refl _ _
    | with_reducible assumption
    | with_reducible exact mask_le hk0 (by decide)
    | with_reducible apply Moves.ite
    | with_reducible apply Moves.ite_fst
    | with_reducible (apply State.modDl_moves)
    | with_reducible (apply Moves.foldl)
    | with_reducible (apply Moves.foldl_fst)
    | with_reducible (apply Moves.of_eq; assumption)
    | with_reducible intro _
    | dsimp only
    | split

theorem finishPart_moves (s : State) (m : MacroInst) (shoe : Nat) (seq : Nat) (l : Nat) (g : Nat) {k0 : Nat} {z0 : State} (hz : Moves k0 z0 s) (hk0 : 128 &&& k0 = 128) :
    Moves k0 z0 (finishPart s m shoe seq l g) := by
  refine hz.trans ?_
  clear hz
  unfold finishPart
  repeat' first
    | with_reducible exact Moves.refl _ _
    | with_reducible assumption
    | with_reducible exact mask_le hk0 (by decide)
    | with_reducible apply Moves.ite
    | with_reducible apply Moves.ite_fst
    | with_reducible (apply carryOn_moves)
    | with_reducible (apply completeCmd_moves)
    | with_reducible (apply noteItem_moves)
    | with_reducible (apply removeMacro_moves)
    | with_reducible (apply Moves.foldl)
    | with_reducible (apply Moves.foldl_fst)
    | with_reducible (apply Moves.of_eq; assumption)
    | with_reducible intro _
    | dsimp only
    | split

theorem gateCore_moves (s : State) (c : Nat) {k0 : Nat} {z0 : State} (hz : Moves k0 z0 s) (hk0 : 128 &&& k0 = 128) :
    Moves k0 z0 (gateCore s c) := by
  refine hz.trans ?_
  clear hz
  unfold gateCore
  repeat' first
    | with_reducible exact Moves.refl _ _
    | with_reducible assumption
    | with_reducible exact mask_le hk0 (by decide)
    | with_reducible apply Moves.ite
    | with_reducible apply Moves.ite_fst
    | with_reducible (apply State.modDl_moves)
    | with_reducible (apply Moves.foldl)
    | with_reducible (apply Moves.foldl_fst)
    | with_reducible (apply Moves.of_eq; assumption)
    | with_reducible intro _
    | dsimp only
    | split

end Sys2Proof.Machine
end

