-- ==== Sys2Proof/Laws/MovesRoundArm.lean ====
section
/-! SUPPORT. What each operation of Machine/RoundArm.lean may change. -/

set_option linter.unreachableTactic false
set_option linter.unusedTactic false
set_option linter.unusedVariables false

namespace Sys2Proof.Machine

theorem readRound_moves (n : Nat) (va : Nat) (s : State) {k0 : Nat} {z0 : State} (hz : Moves k0 z0 s) (hk0 : 271688 &&& k0 = 271688) :
    Moves k0 z0 (readRound n va s).1 := by
  refine hz.trans ?_
  clear hz
  unfold readRound
  repeat' first
    | with_reducible exact Moves.refl _ _
    | with_reducible assumption
    | with_reducible exact mask_le hk0 (by decide)
    | with_reducible apply Moves.ite
    | with_reducible apply Moves.ite_fst
    | with_reducible (apply Run.andThen_moves)
    | with_reducible (apply readClaim_moves)
    | with_reducible (apply readClaim_pmoves; assumption)
    | with_reducible (apply runEach_moves)
    | with_reducible (apply Moves.foldl)
    | with_reducible (apply Moves.foldl_fst)
    | with_reducible (apply Moves.of_eq; assumption)
    | with_reducible intro _
    | dsimp only
    | split

theorem readRound_pmoves (n : Nat) (va : Nat) (s : State) {z1 : State} {y1 : ReadEnd (List Byte × List (Seat × Nat) × List Slot × Slot)} (he : (readRound n va s) = (z1, y1)) {k0 : Nat} {z0 : State} (hz : Moves k0 z0 s) (hk0 : 271688 &&& k0 = 271688) :
    Moves k0 z0 z1 := by
  simpa only [he] using readRound_moves n va s hz hk0

theorem slotPage_moves (n : Nat) (page : Nat) (s : State) {k0 : Nat} {z0 : State} (hz : Moves k0 z0 s) (hk0 : 271688 &&& k0 = 271688) :
    Moves k0 z0 (slotPage n page s).1 := by
  refine hz.trans ?_
  clear hz
  unfold slotPage
  repeat' first
    | with_reducible exact Moves.refl _ _
    | with_reducible assumption
    | with_reducible exact mask_le hk0 (by decide)
    | with_reducible apply Moves.ite
    | with_reducible apply Moves.ite_fst
    | with_reducible (apply cancelMove_moves)
    | with_reducible (apply clearNeeded_moves)
    | with_reducible (apply commitCarry_moves)
    | with_reducible (apply startPromotion_moves; assumption)
    | with_reducible (apply startPromotion_omoves)
    | with_reducible (apply Moves.foldl)
    | with_reducible (apply Moves.foldl_fst)
    | with_reducible (apply Moves.of_eq; assumption)
    | with_reducible intro _
    | dsimp only
    | split

theorem slotPage_pmoves (n : Nat) (page : Nat) (s : State) {z1 : State} {y1 : ReadEnd Unit} (he : (slotPage n page s) = (z1, y1)) {k0 : Nat} {z0 : State} (hz : Moves k0 z0 s) (hk0 : 271688 &&& k0 = 271688) :
    Moves k0 z0 z1 := by
  simpa only [he] using slotPage_moves n page s hz hk0

theorem pinPages_moves (s : State) (n : Nat) (pages : List Nat) {k0 : Nat} {z0 : State} (hz : Moves k0 z0 s) (hk0 : 256 &&& k0 = 256) :
    Moves k0 z0 (pinPages s n pages) := by
  refine hz.trans ?_
  clear hz
  unfold pinPages
  repeat' first
    | with_reducible exact Moves.refl _ _
    | with_reducible assumption
    | with_reducible exact mask_le hk0 (by decide)
    | with_reducible apply Moves.ite
    | with_reducible apply Moves.ite_fst
    | with_reducible (apply State.modPte_moves)
    | with_reducible (apply Moves.foldl)
    | with_reducible (apply Moves.foldl_fst)
    | with_reducible (apply Moves.of_eq; assumption)
    | with_reducible intro _
    | dsimp only
    | split

theorem unpinPages_moves (s : State) (n : Nat) (pages : List Nat) {k0 : Nat} {z0 : State} (hz : Moves k0 z0 s) (hk0 : 256 &&& k0 = 256) :
    Moves k0 z0 (unpinPages s n pages) := by
  refine hz.trans ?_
  clear hz
  unfold unpinPages
  repeat' first
    | with_reducible exact Moves.refl _ _
    | with_reducible assumption
    | with_reducible exact mask_le hk0 (by decide)
    | with_reducible apply Moves.ite
    | with_reducible apply Moves.ite_fst
    | with_reducible (apply State.modPte_moves)
    | with_reducible (apply Moves.foldl)
    | with_reducible (apply Moves.foldl_fst)
    | with_reducible (apply Moves.of_eq; assumption)
    | with_reducible intro _
    | dsimp only
    | split

theorem makeTricks_moves (s : State) (n : Nat) (round : Nat) (b : List Byte) (seats : List Seat) {k0 : Nat} {z0 : State} (hz : Moves k0 z0 s) (hk0 : 34440 &&& k0 = 34440) :
    Moves k0 z0 (makeTricks s n round b seats).1 := by
  refine hz.trans ?_
  clear hz
  unfold makeTricks
  repeat' first
    | with_reducible exact Moves.refl _ _
    | with_reducible assumption
    | with_reducible exact mask_le hk0 (by decide)
    | with_reducible apply Moves.ite
    | with_reducible apply Moves.ite_fst
    | with_reducible (apply State.modTally_moves)
    | with_reducible (apply State.setTrick_moves)
    | with_reducible (apply testTally_moves)
    | with_reducible (apply Moves.foldl)
    | with_reducible (apply Moves.foldl_fst)
    | with_reducible (apply Moves.of_eq; assumption)
    | with_reducible intro _
    | dsimp only
    | split

theorem makeTricks_pmoves (s : State) (n : Nat) (round : Nat) (b : List Byte) (seats : List Seat) {z1 : State} {y1 : List Nat} (he : (makeTricks s n round b seats) = (z1, y1)) {k0 : Nat} {z0 : State} (hz : Moves k0 z0 s) (hk0 : 34440 &&& k0 = 34440) :
    Moves k0 z0 z1 := by
  simpa only [he] using makeTricks_moves s n round b seats hz hk0

theorem setRoundTally_moves (s : State) (n : Nat) (rel : Nat) (v : Nat) {k0 : Nat} {z0 : State} (hz : Moves k0 z0 s) (hk0 : 34440 &&& k0 = 34440) :
    Moves k0 z0 (setRoundTally s n rel v) := by
  refine hz.trans ?_
  clear hz
  unfold setRoundTally
  repeat' first
    | with_reducible exact Moves.refl _ _
    | with_reducible assumption
    | with_reducible exact mask_le hk0 (by decide)
    | with_reducible apply Moves.ite
    | with_reducible apply Moves.ite_fst
    | with_reducible (apply State.modTally_moves)
    | with_reducible (apply testTally_moves)
    | with_reducible (apply Moves.foldl)
    | with_reducible (apply Moves.foldl_fst)
    | with_reducible (apply Moves.of_eq; assumption)
    | with_reducible intro _
    | dsimp only
    | split

theorem armRound_moves (s : State) (n : Nat) (round : Nat) (ctrl : Nat) (b : List Byte) (seats : List Seat) (ds : List Slot) (res : Slot) {k0 : Nat} {z0 : State} (hz : Moves k0 z0 s) (hk0 : 51080 &&& k0 = 51080) :
    Moves k0 z0 (armRound s n round ctrl b seats ds res) := by
  refine hz.trans ?_
  clear hz
  unfold armRound
  repeat' first
    | with_reducible exact Moves.refl _ _
    | with_reducible assumption
    | with_reducible exact mask_le hk0 (by decide)
    | with_reducible apply Moves.ite
    | with_reducible apply Moves.ite_fst
    | with_reducible (apply State.modCtrl_moves)
    | with_reducible (apply State.modDl_moves)
    | with_reducible (apply agentAdd_moves)
    | with_reducible (apply makeTricks_moves)
    | with_reducible (apply makeTricks_pmoves; assumption)
    | with_reducible (apply pinPages_moves)
    | with_reducible (apply setRoundTally_moves)
    | with_reducible (apply Moves.foldl)
    | with_reducible (apply Moves.foldl_fst)
    | with_reducible (apply Moves.of_eq; assumption)
    | with_reducible intro _
    | dsimp only
    | split

theorem tryArm_moves (n : Nat) (round : Nat) (va : Nat) (s : State) {k0 : Nat} {z0 : State} (hz : Moves k0 z0 s) (hk0 : 321480 &&& k0 = 321480) :
    Moves k0 z0 (tryArm n round va s).1 := by
  refine hz.trans ?_
  clear hz
  unfold tryArm
  repeat' first
    | with_reducible exact Moves.refl _ _
    | with_reducible assumption
    | with_reducible exact mask_le hk0 (by decide)
    | with_reducible apply Moves.ite
    | with_reducible apply Moves.ite_fst
    | with_reducible (apply Run.andThen_moves)
    | with_reducible (apply armRound_moves)
    | with_reducible (apply readRound_moves)
    | with_reducible (apply readRound_pmoves; assumption)
    | with_reducible (apply runEach_moves)
    | with_reducible (apply slotPage_moves)
    | with_reducible (apply slotPage_pmoves; assumption)
    | with_reducible (apply Moves.foldl)
    | with_reducible (apply Moves.foldl_fst)
    | with_reducible (apply Moves.of_eq; assumption)
    | with_reducible intro _
    | dsimp only
    | split

theorem tryArm_pmoves (n : Nat) (round : Nat) (va : Nat) (s : State) {z1 : State} {y1 : ReadEnd Unit} (he : (tryArm n round va s) = (z1, y1)) {k0 : Nat} {z0 : State} (hz : Moves k0 z0 s) (hk0 : 321480 &&& k0 = 321480) :
    Moves k0 z0 z1 := by
  simpa only [he] using tryArm_moves n round va s hz hk0

end Sys2Proof.Machine
end

