-- ==== Sys2Proof/Laws/MovesRoundOps.lean ====
section
/-! SUPPORT. What each operation of Machine/RoundOps.lean may change. -/

set_option linter.unreachableTactic false
set_option linter.unusedTactic false
set_option linter.unusedVariables false

namespace Sys2Proof.Machine

theorem dropXfer_moves (s : State) (id : Nat) {k0 : Nat} {z0 : State} (hz : Moves k0 z0 s) (hk0 : 16384 &&& k0 = 16384) :
    Moves k0 z0 (dropXfer s id) := by
  refine hz.trans ?_
  clear hz
  unfold dropXfer
  repeat' first
    | with_reducible exact Moves.refl _ _
    | with_reducible assumption
    | with_reducible exact mask_le hk0 (by decide)
    | with_reducible apply Moves.ite
    | with_reducible apply Moves.ite_fst
    | with_reducible (apply State.modLink_moves)
    | with_reducible (apply Moves.foldl)
    | with_reducible (apply Moves.foldl_fst)
    | with_reducible (apply Moves.of_eq; assumption)
    | with_reducible intro _
    | dsimp only
    | split

theorem abortXfers_moves (s : State) (c : Nat) {k0 : Nat} {z0 : State} (hz : Moves k0 z0 s) (hk0 : 49152 &&& k0 = 49152) :
    Moves k0 z0 (abortXfers s c) := by
  refine hz.trans ?_
  clear hz
  unfold abortXfers
  repeat' first
    | with_reducible exact Moves.refl _ _
    | with_reducible assumption
    | with_reducible exact mask_le hk0 (by decide)
    | with_reducible apply Moves.ite
    | with_reducible apply Moves.ite_fst
    | with_reducible (apply State.modGroup_moves)
    | with_reducible (apply dropXfer_moves)
    | with_reducible (apply sendControl_moves)
    | with_reducible (apply Moves.foldl)
    | with_reducible (apply Moves.foldl_fst)
    | with_reducible (apply Moves.of_eq; assumption)
    | with_reducible intro _
    | dsimp only
    | split

theorem stopRoundMacros_moves (s : State) (c : Nat) {k0 : Nat} {z0 : State} (hz : Moves k0 z0 s) (hk0 : 128 &&& k0 = 128) :
    Moves k0 z0 (stopRoundMacros s c) := by
  refine hz.trans ?_
  clear hz
  unfold stopRoundMacros
  repeat' first
    | with_reducible exact Moves.refl _ _
    | with_reducible assumption
    | with_reducible exact mask_le hk0 (by decide)
    | with_reducible apply Moves.ite
    | with_reducible apply Moves.ite_fst
    | with_reducible (apply dropMacro_moves)
    | with_reducible (apply Moves.foldl)
    | with_reducible (apply Moves.foldl_fst)
    | with_reducible (apply Moves.of_eq; assumption)
    | with_reducible intro _
    | dsimp only
    | split

theorem freeRound_moves (s : State) (c : Nat) (a : Armed) {k0 : Nat} {z0 : State} (hz : Moves k0 z0 s) (hk0 : 33664 &&& k0 = 33664) :
    Moves k0 z0 (freeRound s c a) := by
  refine hz.trans ?_
  clear hz
  unfold freeRound
  repeat' first
    | with_reducible exact Moves.refl _ _
    | with_reducible assumption
    | with_reducible exact mask_le hk0 (by decide)
    | with_reducible apply Moves.ite
    | with_reducible apply Moves.ite_fst
    | with_reducible (apply State.modCtrl_moves)
    | with_reducible (apply State.modDl_moves)
    | with_reducible (apply State.setTrick_moves)
    | with_reducible (apply unpinPages_moves)
    | with_reducible (apply Moves.foldl)
    | with_reducible (apply Moves.foldl_fst)
    | with_reducible (apply Moves.of_eq; assumption)
    | with_reducible intro _
    | dsimp only
    | split

theorem endFailedRound_moves (s : State) (c : Nat) (a : Armed) {k0 : Nat} {z0 : State} (hz : Moves k0 z0 s) (hk0 : 51080 &&& k0 = 51080) :
    Moves k0 z0 (endFailedRound s c a) := by
  refine hz.trans ?_
  clear hz
  unfold endFailedRound
  repeat' first
    | with_reducible exact Moves.refl _ _
    | with_reducible assumption
    | with_reducible exact mask_le hk0 (by decide)
    | with_reducible apply Moves.ite
    | with_reducible apply Moves.ite_fst
    | with_reducible (apply abortXfers_moves)
    | with_reducible (apply freeRound_moves)
    | with_reducible (apply poisonTally_moves)
    | with_reducible (apply stopRoundMacros_moves)
    | with_reducible (apply Moves.foldl)
    | with_reducible (apply Moves.foldl_fst)
    | with_reducible (apply Moves.of_eq; assumption)
    | with_reducible intro _
    | dsimp only
    | split

theorem failRound_moves (s : State) (c : Nat) (cause : Nat) (suspect : Seat) {k0 : Nat} {z0 : State} (hz : Moves k0 z0 s) (hk0 : 51080 &&& k0 = 51080) :
    Moves k0 z0 (failRound s c cause suspect) := by
  refine hz.trans ?_
  clear hz
  unfold failRound
  repeat' first
    | with_reducible exact Moves.refl _ _
    | with_reducible assumption
    | with_reducible exact mask_le hk0 (by decide)
    | with_reducible apply Moves.ite
    | with_reducible apply Moves.ite_fst
    | with_reducible (apply State.modCtrl_moves)
    | with_reducible (apply endFailedRound_moves)
    | with_reducible (apply poisonTrick_moves)
    | with_reducible (apply Moves.foldl)
    | with_reducible (apply Moves.foldl_fst)
    | with_reducible (apply Moves.of_eq; assumption)
    | with_reducible intro _
    | dsimp only
    | split

theorem roundPoisoned_moves (s : State) (c : Nat) (origin : Seat) {k0 : Nat} {z0 : State} (hz : Moves k0 z0 s) (hk0 : 51080 &&& k0 = 51080) :
    Moves k0 z0 (roundPoisoned s c origin) := by
  refine hz.trans ?_
  clear hz
  unfold roundPoisoned
  repeat' first
    | with_reducible exact Moves.refl _ _
    | with_reducible assumption
    | with_reducible exact mask_le hk0 (by decide)
    | with_reducible apply Moves.ite
    | with_reducible apply Moves.ite_fst
    | with_reducible (apply State.modCtrl_moves)
    | with_reducible (apply endFailedRound_moves)
    | with_reducible (apply poisonTrickHere_moves)
    | with_reducible (apply Moves.foldl)
    | with_reducible (apply Moves.foldl_fst)
    | with_reducible (apply Moves.of_eq; assumption)
    | with_reducible intro _
    | dsimp only
    | split

theorem failXfer_moves (s : State) (id : Nat) (cause : Nat) {k0 : Nat} {z0 : State} (hz : Moves k0 z0 s) (hk0 : 51080 &&& k0 = 51080) :
    Moves k0 z0 (failXfer s id cause) := by
  refine hz.trans ?_
  clear hz
  unfold failXfer
  repeat' first
    | with_reducible exact Moves.refl _ _
    | with_reducible assumption
    | with_reducible exact mask_le hk0 (by decide)
    | with_reducible apply Moves.ite
    | with_reducible apply Moves.ite_fst
    | with_reducible (apply dropXfer_moves)
    | with_reducible (apply failRound_moves)
    | with_reducible (apply Moves.foldl)
    | with_reducible (apply Moves.foldl_fst)
    | with_reducible (apply Moves.of_eq; assumption)
    | with_reducible intro _
    | dsimp only
    | split

theorem failXfers_moves (r : State × List Nat) {k0 : Nat} {z0 : State} (hz : Moves k0 z0 r.1) (hk0 : 51080 &&& k0 = 51080) :
    Moves k0 z0 (failXfers r) := by
  refine hz.trans ?_
  clear hz
  unfold failXfers
  repeat' first
    | with_reducible exact Moves.refl _ _
    | with_reducible assumption
    | with_reducible exact mask_le hk0 (by decide)
    | with_reducible apply Moves.ite
    | with_reducible apply Moves.ite_fst
    | with_reducible (apply failXfer_moves)
    | with_reducible (apply Moves.foldl)
    | with_reducible (apply Moves.foldl_fst)
    | with_reducible (apply Moves.of_eq; assumption)
    | with_reducible intro _
    | dsimp only
    | split

theorem routeXfer_moves (s : State) (x : Xfer) {k0 : Nat} {z0 : State} (hz : Moves k0 z0 s) (hk0 : 51080 &&& k0 = 51080) :
    Moves k0 z0 (routeXfer s x) := by
  refine hz.trans ?_
  clear hz
  unfold routeXfer
  repeat' first
    | with_reducible exact Moves.refl _ _
    | with_reducible assumption
    | with_reducible exact mask_le hk0 (by decide)
    | with_reducible apply Moves.ite
    | with_reducible apply Moves.ite_fst
    | with_reducible (apply State.modLink_moves)
    | with_reducible (apply countNoRoute_moves)
    | with_reducible (apply enqueue_moves)
    | with_reducible (apply failXfer_moves)
    | with_reducible (apply Moves.foldl)
    | with_reducible (apply Moves.foldl_fst)
    | with_reducible (apply Moves.of_eq; assumption)
    | with_reducible intro _
    | dsimp only
    | split

theorem startXfer_moves (s : State) (c : Nat) (kind : XferKind) (h : MsgHeader) (data : List Byte) {k0 : Nat} {z0 : State} (hz : Moves k0 z0 s) (hk0 : 51080 &&& k0 = 51080) :
    Moves k0 z0 (startXfer s c kind h data) := by
  refine hz.trans ?_
  clear hz
  unfold startXfer
  repeat' first
    | with_reducible exact Moves.refl _ _
    | with_reducible assumption
    | with_reducible exact mask_le hk0 (by decide)
    | with_reducible apply Moves.ite
    | with_reducible apply Moves.ite_fst
    | with_reducible (apply State.modLink_moves)
    | with_reducible (apply routeXfer_moves)
    | with_reducible (apply Moves.foldl)
    | with_reducible (apply Moves.foldl_fst)
    | with_reducible (apply Moves.of_eq; assumption)
    | with_reducible intro _
    | dsimp only
    | split

theorem roundMacro_moves (s : State) (c : Nat) (a : Armed) (code : Nat) (param : Nat) (descs : List (List Byte)) {k0 : Nat} {z0 : State} (hz : Moves k0 z0 s) (hk0 : 128 &&& k0 = 128) :
    Moves k0 z0 (roundMacro s c a code param descs) := by
  refine hz.trans ?_
  clear hz
  unfold roundMacro
  repeat' first
    | with_reducible exact Moves.refl _ _
    | with_reducible assumption
    | with_reducible exact mask_le hk0 (by decide)
    | with_reducible apply Moves.ite
    | with_reducible apply Moves.ite_fst
    | with_reducible (apply State.modDl_moves)
    | with_reducible (apply Moves.foldl)
    | with_reducible (apply Moves.foldl_fst)
    | with_reducible (apply Moves.of_eq; assumption)
    | with_reducible intro _
    | dsimp only
    | split

theorem signalReady_moves (s : State) (c : Nat) (a : Armed) {k0 : Nat} {z0 : State} (hz : Moves k0 z0 s) (hk0 : 51080 &&& k0 = 51080) :
    Moves k0 z0 (signalReady s c a) := by
  refine hz.trans ?_
  clear hz
  unfold signalReady
  repeat' first
    | with_reducible exact Moves.refl _ _
    | with_reducible assumption
    | with_reducible exact mask_le hk0 (by decide)
    | with_reducible apply Moves.ite
    | with_reducible apply Moves.ite_fst
    | with_reducible (apply startXfer_moves)
    | with_reducible (apply Moves.foldl)
    | with_reducible (apply Moves.foldl_fst)
    | with_reducible (apply Moves.of_eq; assumption)
    | with_reducible intro _
    | dsimp only
    | split

theorem freeSlots_moves (s : State) (c : Nat) {k0 : Nat} {z0 : State} (hz : Moves k0 z0 s) (hk0 : 51080 &&& k0 = 51080) :
    Moves k0 z0 (freeSlots s c) := by
  refine hz.trans ?_
  clear hz
  unfold freeSlots
  repeat' first
    | with_reducible exact Moves.refl _ _
    | with_reducible assumption
    | with_reducible exact mask_le hk0 (by decide)
    | with_reducible apply Moves.ite
    | with_reducible apply Moves.ite_fst
    | with_reducible (apply State.modArmed_moves)
    | with_reducible (apply signalReady_moves)
    | with_reducible (apply Moves.foldl)
    | with_reducible (apply Moves.foldl_fst)
    | with_reducible (apply Moves.of_eq; assumption)
    | with_reducible intro _
    | dsimp only
    | split

theorem sendResult_moves (s : State) (c : Nat) {k0 : Nat} {z0 : State} (hz : Moves k0 z0 s) (hk0 : 321480 &&& k0 = 321480) :
    Moves k0 z0 (sendResult s c) := by
  refine hz.trans ?_
  clear hz
  unfold sendResult
  repeat' first
    | with_reducible exact Moves.refl _ _
    | with_reducible assumption
    | with_reducible exact mask_le hk0 (by decide)
    | with_reducible apply Moves.ite
    | with_reducible apply Moves.ite_fst
    | with_reducible (apply State.modArmed_moves)
    | with_reducible (apply failRound_moves)
    | with_reducible (apply readClaim_moves)
    | with_reducible (apply readClaim_pmoves; assumption)
    | with_reducible (apply startXfer_moves)
    | with_reducible (apply Moves.foldl)
    | with_reducible (apply Moves.foldl_fst)
    | with_reducible (apply Moves.of_eq; assumption)
    | with_reducible intro _
    | dsimp only
    | split

theorem endDeal_moves (s : State) (c : Nat) {k0 : Nat} {z0 : State} (hz : Moves k0 z0 s) (hk0 : 50824 &&& k0 = 50824) :
    Moves k0 z0 (endDeal s c) := by
  refine hz.trans ?_
  clear hz
  unfold endDeal
  repeat' first
    | with_reducible exact Moves.refl _ _
    | with_reducible assumption
    | with_reducible exact mask_le hk0 (by decide)
    | with_reducible apply Moves.ite
    | with_reducible apply Moves.ite_fst
    | with_reducible (apply State.modArmed_moves)
    | with_reducible (apply agentAdd_moves)
    | with_reducible (apply beginWaits_moves)
    | with_reducible (apply Moves.foldl)
    | with_reducible (apply Moves.foldl_fst)
    | with_reducible (apply Moves.of_eq; assumption)
    | with_reducible intro _
    | dsimp only
    | split

theorem advanceRound_moves (s : State) (c : Nat) {k0 : Nat} {z0 : State} (hz : Moves k0 z0 s) (hk0 : 321480 &&& k0 = 321480) :
    Moves k0 z0 (advanceRound s c) := by
  refine hz.trans ?_
  clear hz
  unfold advanceRound
  repeat' first
    | with_reducible exact Moves.refl _ _
    | with_reducible assumption
    | with_reducible exact mask_le hk0 (by decide)
    | with_reducible apply Moves.ite
    | with_reducible apply Moves.ite_fst
    | with_reducible (apply endDeal_moves)
    | with_reducible (apply freeSlots_moves)
    | with_reducible (apply sendResult_moves)
    | with_reducible (apply Moves.foldl)
    | with_reducible (apply Moves.foldl_fst)
    | with_reducible (apply Moves.of_eq; assumption)
    | with_reducible intro _
    | dsimp only
    | split

theorem stepComputed_moves (s : State) (c : Nat) {k0 : Nat} {z0 : State} (hz : Moves k0 z0 s) (hk0 : 321480 &&& k0 = 321480) :
    Moves k0 z0 (stepComputed s c) := by
  refine hz.trans ?_
  clear hz
  unfold stepComputed
  repeat' first
    | with_reducible exact Moves.refl _ _
    | with_reducible assumption
    | with_reducible exact mask_le hk0 (by decide)
    | with_reducible apply Moves.ite
    | with_reducible apply Moves.ite_fst
    | with_reducible (apply State.modArmed_moves)
    | with_reducible (apply advanceRound_moves)
    | with_reducible (apply beginWaits_moves)
    | with_reducible (apply Moves.foldl)
    | with_reducible (apply Moves.foldl_fst)
    | with_reducible (apply Moves.of_eq; assumption)
    | with_reducible intro _
    | dsimp only
    | split

theorem runStep_moves (s : State) (c : Nat) {k0 : Nat} {z0 : State} (hz : Moves k0 z0 s) (hk0 : 321480 &&& k0 = 321480) :
    Moves k0 z0 (runStep s c) := by
  refine hz.trans ?_
  clear hz
  unfold runStep
  repeat' first
    | with_reducible exact Moves.refl _ _
    | with_reducible assumption
    | with_reducible exact mask_le hk0 (by decide)
    | with_reducible apply Moves.ite
    | with_reducible apply Moves.ite_fst
    | with_reducible (apply State.modArmed_moves)
    | with_reducible (apply beginWaits_moves)
    | with_reducible (apply roundMacro_moves)
    | with_reducible (apply stepComputed_moves)
    | with_reducible (apply Moves.foldl)
    | with_reducible (apply Moves.foldl_fst)
    | with_reducible (apply Moves.of_eq; assumption)
    | with_reducible intro _
    | dsimp only
    | split

theorem startDeal_moves (s : State) (c : Nat) (a : Armed) {k0 : Nat} {z0 : State} (hz : Moves k0 z0 s) (hk0 : 321480 &&& k0 = 321480) :
    Moves k0 z0 (startDeal s c a) := by
  refine hz.trans ?_
  clear hz
  unfold startDeal
  repeat' first
    | with_reducible exact Moves.refl _ _
    | with_reducible assumption
    | with_reducible exact mask_le hk0 (by decide)
    | with_reducible apply Moves.ite
    | with_reducible apply Moves.ite_fst
    | with_reducible (apply State.modArmed_moves)
    | with_reducible (apply failRound_moves)
    | with_reducible (apply readClaim_moves)
    | with_reducible (apply readClaim_pmoves; assumption)
    | with_reducible (apply runStep_moves)
    | with_reducible (apply Moves.foldl)
    | with_reducible (apply Moves.foldl_fst)
    | with_reducible (apply Moves.of_eq; assumption)
    | with_reducible intro _
    | dsimp only
    | split

theorem triggerStep_moves (s : State) (c : Nat) {k0 : Nat} {z0 : State} (hz : Moves k0 z0 s) (hk0 : 321480 &&& k0 = 321480) :
    Moves k0 z0 (triggerStep s c) := by
  refine hz.trans ?_
  clear hz
  unfold triggerStep
  repeat' first
    | with_reducible exact Moves.refl _ _
    | with_reducible assumption
    | with_reducible exact mask_le hk0 (by decide)
    | with_reducible apply Moves.ite
    | with_reducible apply Moves.ite_fst
    | with_reducible (apply failRound_moves)
    | with_reducible (apply runStep_moves)
    | with_reducible (apply startDeal_moves)
    | with_reducible (apply Moves.foldl)
    | with_reducible (apply Moves.foldl_fst)
    | with_reducible (apply Moves.of_eq; assumption)
    | with_reducible intro _
    | dsimp only
    | split

theorem gatherHand_moves (s : State) (a : Armed) (deal : Nat) (j : Nat) {k0 : Nat} {z0 : State} (hz : Moves k0 z0 s) (hk0 : 271688 &&& k0 = 271688) :
    Moves k0 z0 (gatherHand s a deal j).1 := by
  refine hz.trans ?_
  clear hz
  unfold gatherHand
  repeat' first
    | with_reducible exact Moves.refl _ _
    | with_reducible assumption
    | with_reducible exact mask_le hk0 (by decide)
    | with_reducible apply Moves.ite
    | with_reducible apply Moves.ite_fst
    | with_reducible (apply Run.andThen_moves)
    | with_reducible (apply readClaim_moves)
    | with_reducible (apply readClaim_pmoves; assumption)
    | with_reducible (apply Moves.foldl)
    | with_reducible (apply Moves.foldl_fst)
    | with_reducible (apply Moves.of_eq; assumption)
    | with_reducible intro _
    | dsimp only
    | split

theorem gatherHand_pmoves (s : State) (a : Armed) (deal : Nat) (j : Nat) {z1 : State} {y1 : ReadEnd (List Byte)} (he : (gatherHand s a deal j) = (z1, y1)) {k0 : Nat} {z0 : State} (hz : Moves k0 z0 s) (hk0 : 271688 &&& k0 = 271688) :
    Moves k0 z0 z1 := by
  simpa only [he] using gatherHand_moves s a deal j hz hk0

theorem sendHand_moves (s : State) (c : Nat) {k0 : Nat} {z0 : State} (hz : Moves k0 z0 s) (hk0 : 321480 &&& k0 = 321480) :
    Moves k0 z0 (sendHand s c) := by
  refine hz.trans ?_
  clear hz
  unfold sendHand
  repeat' first
    | with_reducible exact Moves.refl _ _
    | with_reducible assumption
    | with_reducible exact mask_le hk0 (by decide)
    | with_reducible apply Moves.ite
    | with_reducible apply Moves.ite_fst
    | with_reducible (apply State.modArmed_moves)
    | with_reducible (apply beginWaits_moves)
    | with_reducible (apply failRound_moves)
    | with_reducible (apply gatherHand_moves)
    | with_reducible (apply gatherHand_pmoves; assumption)
    | with_reducible (apply startXfer_moves)
    | with_reducible (apply Moves.foldl)
    | with_reducible (apply Moves.foldl_fst)
    | with_reducible (apply Moves.of_eq; assumption)
    | with_reducible intro _
    | dsimp only
    | split

theorem handDelivered_moves (s : State) (c : Nat) (send : Nat) {k0 : Nat} {z0 : State} (hz : Moves k0 z0 s) (hk0 : 321480 &&& k0 = 321480) :
    Moves k0 z0 (handDelivered s c send) := by
  refine hz.trans ?_
  clear hz
  unfold handDelivered
  repeat' first
    | with_reducible exact Moves.refl _ _
    | with_reducible assumption
    | with_reducible exact mask_le hk0 (by decide)
    | with_reducible apply Moves.ite
    | with_reducible apply Moves.ite_fst
    | with_reducible (apply State.modArmed_moves)
    | with_reducible (apply advanceRound_moves)
    | with_reducible (apply Moves.foldl)
    | with_reducible (apply Moves.foldl_fst)
    | with_reducible (apply Moves.of_eq; assumption)
    | with_reducible intro _
    | dsimp only
    | split

theorem passTimeout_moves (s : State) (c : Nat) {k0 : Nat} {z0 : State} (hz : Moves k0 z0 s) (hk0 : 51080 &&& k0 = 51080) :
    Moves k0 z0 (passTimeout s c) := by
  refine hz.trans ?_
  clear hz
  unfold passTimeout
  repeat' first
    | with_reducible exact Moves.refl _ _
    | with_reducible assumption
    | with_reducible exact mask_le hk0 (by decide)
    | with_reducible apply Moves.ite
    | with_reducible apply Moves.ite_fst
    | with_reducible (apply failRound_moves)
    | with_reducible (apply Moves.foldl)
    | with_reducible (apply Moves.foldl_fst)
    | with_reducible (apply Moves.of_eq; assumption)
    | with_reducible intro _
    | dsimp only
    | split

theorem roundCoreFenced_moves (s : State) (core : Nat) {k0 : Nat} {z0 : State} (hz : Moves k0 z0 s) (hk0 : 51080 &&& k0 = 51080) :
    Moves k0 z0 (roundCoreFenced s core) := by
  refine hz.trans ?_
  clear hz
  unfold roundCoreFenced
  repeat' first
    | with_reducible exact Moves.refl _ _
    | with_reducible assumption
    | with_reducible exact mask_le hk0 (by decide)
    | with_reducible apply Moves.ite
    | with_reducible apply Moves.ite_fst
    | with_reducible (apply failRound_moves)
    | with_reducible (apply Moves.foldl)
    | with_reducible (apply Moves.foldl_fst)
    | with_reducible (apply Moves.of_eq; assumption)
    | with_reducible intro _
    | dsimp only
    | split

theorem reducePartial_moves (s : State) (c : Nat) (a : Armed) (j : Nat) {k0 : Nat} {z0 : State} (hz : Moves k0 z0 s) (hk0 : 128 &&& k0 = 128) :
    Moves k0 z0 (reducePartial s c a j) := by
  refine hz.trans ?_
  clear hz
  unfold reducePartial
  repeat' first
    | with_reducible exact Moves.refl _ _
    | with_reducible assumption
    | with_reducible exact mask_le hk0 (by decide)
    | with_reducible apply Moves.ite
    | with_reducible apply Moves.ite_fst
    | with_reducible (apply roundMacro_moves)
    | with_reducible (apply Moves.foldl)
    | with_reducible (apply Moves.foldl_fst)
    | with_reducible (apply Moves.of_eq; assumption)
    | with_reducible intro _
    | dsimp only
    | split

theorem roundMacroDone_moves (s : State) (c : Nat) (m : MacroInst) {k0 : Nat} {z0 : State} (hz : Moves k0 z0 s) (hk0 : 321480 &&& k0 = 321480) :
    Moves k0 z0 (roundMacroDone s c m) := by
  refine hz.trans ?_
  clear hz
  unfold roundMacroDone
  repeat' first
    | with_reducible exact Moves.refl _ _
    | with_reducible assumption
    | with_reducible exact mask_le hk0 (by decide)
    | with_reducible apply Moves.ite
    | with_reducible apply Moves.ite_fst
    | with_reducible (apply reducePartial_moves)
    | with_reducible (apply removeMacro_moves)
    | with_reducible (apply stepComputed_moves)
    | with_reducible (apply Moves.foldl)
    | with_reducible (apply Moves.foldl_fst)
    | with_reducible (apply Moves.of_eq; assumption)
    | with_reducible intro _
    | dsimp only
    | split

theorem disarmRound_moves (s : State) (n : Nat) (round : Nat) {k0 : Nat} {z0 : State} (hz : Moves k0 z0 s) (hk0 : 51080 &&& k0 = 51080) :
    Moves k0 z0 (disarmRound s n round).1 := by
  refine hz.trans ?_
  clear hz
  unfold disarmRound
  repeat' first
    | with_reducible exact Moves.refl _ _
    | with_reducible assumption
    | with_reducible exact mask_le hk0 (by decide)
    | with_reducible apply Moves.ite
    | with_reducible apply Moves.ite_fst
    | with_reducible (apply abortXfers_moves)
    | with_reducible (apply failRound_moves)
    | with_reducible (apply freeRound_moves)
    | with_reducible (apply Moves.foldl)
    | with_reducible (apply Moves.foldl_fst)
    | with_reducible (apply Moves.of_eq; assumption)
    | with_reducible intro _
    | dsimp only
    | split

theorem disarmRound_pmoves (s : State) (n : Nat) (round : Nat) {z1 : State} {y1 : Option Nat} (he : (disarmRound s n round) = (z1, y1)) {k0 : Nat} {z0 : State} (hz : Moves k0 z0 s) (hk0 : 51080 &&& k0 = 51080) :
    Moves k0 z0 z1 := by
  simpa only [he] using disarmRound_moves s n round hz hk0

theorem failRoundsOf_moves (s : State) (n : Nat) (cause : Nat) {k0 : Nat} {z0 : State} (hz : Moves k0 z0 s) (hk0 : 51080 &&& k0 = 51080) :
    Moves k0 z0 (failRoundsOf s n cause) := by
  refine hz.trans ?_
  clear hz
  unfold failRoundsOf
  repeat' first
    | with_reducible exact Moves.refl _ _
    | with_reducible assumption
    | with_reducible exact mask_le hk0 (by decide)
    | with_reducible apply Moves.ite
    | with_reducible apply Moves.ite_fst
    | with_reducible (apply failRound_moves)
    | with_reducible (apply Moves.foldl)
    | with_reducible (apply Moves.foldl_fst)
    | with_reducible (apply Moves.of_eq; assumption)
    | with_reducible intro _
    | dsimp only
    | split

theorem resetRounds_moves (s : State) {k0 : Nat} {z0 : State} (hz : Moves k0 z0 s) (hk0 : 50048 &&& k0 = 50048) :
    Moves k0 z0 (resetRounds s) := by
  refine hz.trans ?_
  clear hz
  unfold resetRounds
  repeat' first
    | with_reducible exact Moves.refl _ _
    | with_reducible assumption
    | with_reducible exact mask_le hk0 (by decide)
    | with_reducible apply Moves.ite
    | with_reducible apply Moves.ite_fst
    | with_reducible (apply State.modCtrl_moves)
    | with_reducible (apply abortXfers_moves)
    | with_reducible (apply freeRound_moves)
    | with_reducible (apply Moves.foldl)
    | with_reducible (apply Moves.foldl_fst)
    | with_reducible (apply Moves.of_eq; assumption)
    | with_reducible intro _
    | dsimp only
    | split

theorem refuseMessage_moves (s : State) (h : MsgHeader) (status : Nat) (cause : Nat) {k0 : Nat} {z0 : State} (hz : Moves k0 z0 s) (hk0 : 49152 &&& k0 = 49152) :
    Moves k0 z0 (refuseMessage s h status cause) := by
  refine hz.trans ?_
  clear hz
  unfold refuseMessage
  repeat' first
    | with_reducible exact Moves.refl _ _
    | with_reducible assumption
    | with_reducible exact mask_le hk0 (by decide)
    | with_reducible apply Moves.ite
    | with_reducible apply Moves.ite_fst
    | with_reducible (apply State.modLink_moves)
    | with_reducible (apply sendReceipt_moves)
    | with_reducible (apply Moves.foldl)
    | with_reducible (apply Moves.foldl_fst)
    | with_reducible (apply Moves.of_eq; assumption)
    | with_reducible intro _
    | dsimp only
    | split

theorem deliver_moves (s : State) (h : MsgHeader) {k0 : Nat} {z0 : State} (hz : Moves k0 z0 s) (hk0 : 50824 &&& k0 = 50824) :
    Moves k0 z0 (deliver s h) := by
  refine hz.trans ?_
  clear hz
  unfold deliver
  repeat' first
    | with_reducible exact Moves.refl _ _
    | with_reducible assumption
    | with_reducible exact mask_le hk0 (by decide)
    | with_reducible apply Moves.ite
    | with_reducible apply Moves.ite_fst
    | with_reducible (apply agentAdd_moves)
    | with_reducible (apply sendReceipt_moves)
    | with_reducible (apply Moves.foldl)
    | with_reducible (apply Moves.foldl_fst)
    | with_reducible (apply Moves.of_eq; assumption)
    | with_reducible intro _
    | dsimp only
    | split

theorem answerRedealing_moves (s : State) (h : MsgHeader) {k0 : Nat} {z0 : State} (hz : Moves k0 z0 s) (hk0 : 49152 &&& k0 = 49152) :
    Moves k0 z0 (answerRedealing s h) := by
  refine hz.trans ?_
  clear hz
  unfold answerRedealing
  repeat' first
    | with_reducible exact Moves.refl _ _
    | with_reducible assumption
    | with_reducible exact mask_le hk0 (by decide)
    | with_reducible apply Moves.ite
    | with_reducible apply Moves.ite_fst
    | with_reducible (apply sendReceipt_moves)
    | with_reducible (apply Moves.foldl)
    | with_reducible (apply Moves.foldl_fst)
    | with_reducible (apply Moves.of_eq; assumption)
    | with_reducible intro _
    | dsimp only
    | split

theorem beginHand_moves (s : State) (h : MsgHeader) {k0 : Nat} {z0 : State} (hz : Moves k0 z0 s) (hk0 : 49152 &&& k0 = 49152) :
    Moves k0 z0 (beginHand s h).1 := by
  refine hz.trans ?_
  clear hz
  unfold beginHand
  repeat' first
    | with_reducible exact Moves.refl _ _
    | with_reducible assumption
    | with_reducible exact mask_le hk0 (by decide)
    | with_reducible apply Moves.ite
    | with_reducible apply Moves.ite_fst
    | with_reducible (apply State.modArmed_moves)
    | with_reducible (apply refuseMessage_moves)
    | with_reducible (apply Moves.foldl)
    | with_reducible (apply Moves.foldl_fst)
    | with_reducible (apply Moves.of_eq; assumption)
    | with_reducible intro _
    | dsimp only
    | split

theorem beginHand_pmoves (s : State) (h : MsgHeader) {z1 : State} {y1 : InMode} (he : (beginHand s h) = (z1, y1)) {k0 : Nat} {z0 : State} (hz : Moves k0 z0 s) (hk0 : 49152 &&& k0 = 49152) :
    Moves k0 z0 z1 := by
  simpa only [he] using beginHand_moves s h hz hk0

theorem closeHand_moves (s : State) (h : MsgHeader) (r : Nat) (crcOk : Bool) {k0 : Nat} {z0 : State} (hz : Moves k0 z0 s) (hk0 : 50824 &&& k0 = 50824) :
    Moves k0 z0 (closeHand s h r crcOk) := by
  refine hz.trans ?_
  clear hz
  unfold closeHand
  repeat' first
    | with_reducible exact Moves.refl _ _
    | with_reducible assumption
    | with_reducible exact mask_le hk0 (by decide)
    | with_reducible apply Moves.ite
    | with_reducible apply Moves.ite_fst
    | with_reducible (apply State.modArmed_moves)
    | with_reducible (apply deliver_moves)
    | with_reducible (apply refuseMessage_moves)
    | with_reducible (apply sendReceipt_moves)
    | with_reducible (apply Moves.foldl)
    | with_reducible (apply Moves.foldl_fst)
    | with_reducible (apply Moves.of_eq; assumption)
    | with_reducible intro _
    | dsimp only
    | split

theorem handReceived_moves (s : State) (h : MsgHeader) (data : List Byte) (crcOk : Bool) {k0 : Nat} {z0 : State} (hz : Moves k0 z0 s) (hk0 : 321480 &&& k0 = 321480) :
    Moves k0 z0 (handReceived s h data crcOk) := by
  refine hz.trans ?_
  clear hz
  unfold handReceived
  repeat' first
    | with_reducible exact Moves.refl _ _
    | with_reducible assumption
    | with_reducible exact mask_le hk0 (by decide)
    | with_reducible apply Moves.ite
    | with_reducible apply Moves.ite_fst
    | with_reducible (apply answerRedealing_moves)
    | with_reducible (apply beginHand_moves)
    | with_reducible (apply beginHand_pmoves; assumption)
    | with_reducible (apply closeHand_moves)
    | with_reducible (apply refuseMessage_moves)
    | with_reducible (apply writeClaim_moves)
    | with_reducible (apply writeClaim_pmoves; assumption)
    | with_reducible (apply Moves.foldl)
    | with_reducible (apply Moves.foldl_fst)
    | with_reducible (apply Moves.of_eq; assumption)
    | with_reducible intro _
    | dsimp only
    | split

theorem freeBytes_moves (s : State) (n : Nat) {k0 : Nat} {z0 : State} (hz : Moves k0 z0 s) (hk0 : 2 &&& k0 = 2) :
    Moves k0 z0 (freeBytes s n).1 := by
  refine hz.trans ?_
  clear hz
  unfold freeBytes
  repeat' first
    | with_reducible exact Moves.refl _ _
    | with_reducible assumption
    | with_reducible exact mask_le hk0 (by decide)
    | with_reducible apply Moves.ite
    | with_reducible apply Moves.ite_fst
    | with_reducible (apply Moves.foldl)
    | with_reducible (apply Moves.foldl_fst)
    | with_reducible (apply Moves.of_eq; assumption)
    | with_reducible intro _
    | dsimp only
    | split
    | with_reducible (apply Moves.put_freeCtr)

theorem freeBytes_pmoves (s : State) (n : Nat) {z1 : State} {y1 : List Byte} (he : (freeBytes s n) = (z1, y1)) {k0 : Nat} {z0 : State} (hz : Moves k0 z0 s) (hk0 : 2 &&& k0 = 2) :
    Moves k0 z0 z1 := by
  simpa only [he] using freeBytes_moves s n hz hk0

theorem beginPut_moves (s : State) (h : MsgHeader) {k0 : Nat} {z0 : State} (hz : Moves k0 z0 s) (hk0 : 49152 &&& k0 = 49152) :
    Moves k0 z0 (beginPut s h).1 := by
  refine hz.trans ?_
  clear hz
  unfold beginPut
  repeat' first
    | with_reducible exact Moves.refl _ _
    | with_reducible assumption
    | with_reducible exact mask_le hk0 (by decide)
    | with_reducible apply Moves.ite
    | with_reducible apply Moves.ite_fst
    | with_reducible (apply refuseMessage_moves)
    | with_reducible (apply Moves.foldl)
    | with_reducible (apply Moves.foldl_fst)
    | with_reducible (apply Moves.of_eq; assumption)
    | with_reducible intro _
    | dsimp only
    | split

theorem beginPut_pmoves (s : State) (h : MsgHeader) {z1 : State} {y1 : InMode} (he : (beginPut s h) = (z1, y1)) {k0 : Nat} {z0 : State} (hz : Moves k0 z0 s) (hk0 : 49152 &&& k0 = 49152) :
    Moves k0 z0 z1 := by
  simpa only [he] using beginPut_moves s h hz hk0

theorem closePut_moves (s : State) (h : MsgHeader) (crcOk : Bool) {k0 : Nat} {z0 : State} (hz : Moves k0 z0 s) (hk0 : 321482 &&& k0 = 321482) :
    Moves k0 z0 (closePut s h crcOk) := by
  refine hz.trans ?_
  clear hz
  unfold closePut
  repeat' first
    | with_reducible exact Moves.refl _ _
    | with_reducible assumption
    | with_reducible exact mask_le hk0 (by decide)
    | with_reducible apply Moves.ite
    | with_reducible apply Moves.ite_fst
    | with_reducible (apply State.modArmed_moves)
    | with_reducible (apply advanceRound_moves)
    | with_reducible (apply deliver_moves)
    | with_reducible (apply freeBytes_moves)
    | with_reducible (apply freeBytes_pmoves; assumption)
    | with_reducible (apply refuseMessage_moves)
    | with_reducible (apply sendReceipt_moves)
    | with_reducible (apply writeClaim_moves)
    | with_reducible (apply writeClaim_pmoves; assumption)
    | with_reducible (apply Moves.foldl)
    | with_reducible (apply Moves.foldl_fst)
    | with_reducible (apply Moves.of_eq; assumption)
    | with_reducible intro _
    | dsimp only
    | split

theorem putReceived_moves (s : State) (h : MsgHeader) (data : List Byte) (crcOk : Bool) {k0 : Nat} {z0 : State} (hz : Moves k0 z0 s) (hk0 : 321482 &&& k0 = 321482) :
    Moves k0 z0 (putReceived s h data crcOk) := by
  refine hz.trans ?_
  clear hz
  unfold putReceived
  repeat' first
    | with_reducible exact Moves.refl _ _
    | with_reducible assumption
    | with_reducible exact mask_le hk0 (by decide)
    | with_reducible apply Moves.ite
    | with_reducible apply Moves.ite_fst
    | with_reducible (apply answerRedealing_moves)
    | with_reducible (apply beginPut_moves)
    | with_reducible (apply beginPut_pmoves; assumption)
    | with_reducible (apply closePut_moves)
    | with_reducible (apply refuseMessage_moves)
    | with_reducible (apply writeClaim_moves)
    | with_reducible (apply writeClaim_pmoves; assumption)
    | with_reducible (apply Moves.foldl)
    | with_reducible (apply Moves.foldl_fst)
    | with_reducible (apply Moves.of_eq; assumption)
    | with_reducible intro _
    | dsimp only
    | split

theorem signalReceived_moves (s : State) (h : MsgHeader) {k0 : Nat} {z0 : State} (hz : Moves k0 z0 s) (hk0 : 50824 &&& k0 = 50824) :
    Moves k0 z0 (signalReceived s h) := by
  refine hz.trans ?_
  clear hz
  unfold signalReceived
  repeat' first
    | with_reducible exact Moves.refl _ _
    | with_reducible assumption
    | with_reducible exact mask_le hk0 (by decide)
    | with_reducible apply Moves.ite
    | with_reducible apply Moves.ite_fst
    | with_reducible (apply agentAdd_moves)
    | with_reducible (apply answerRedealing_moves)
    | with_reducible (apply deliver_moves)
    | with_reducible (apply refuseMessage_moves)
    | with_reducible (apply Moves.foldl)
    | with_reducible (apply Moves.foldl_fst)
    | with_reducible (apply Moves.of_eq; assumption)
    | with_reducible intro _
    | dsimp only
    | split

theorem receiptReceived_moves (s : State) (h : MsgHeader) {k0 : Nat} {z0 : State} (hz : Moves k0 z0 s) (hk0 : 321480 &&& k0 = 321480) :
    Moves k0 z0 (receiptReceived s h) := by
  refine hz.trans ?_
  clear hz
  unfold receiptReceived
  repeat' first
    | with_reducible exact Moves.refl _ _
    | with_reducible assumption
    | with_reducible exact mask_le hk0 (by decide)
    | with_reducible apply Moves.ite
    | with_reducible apply Moves.ite_fst
    | with_reducible (apply State.modLink_moves)
    | with_reducible (apply dropXfer_moves)
    | with_reducible (apply failXfer_moves)
    | with_reducible (apply handDelivered_moves)
    | with_reducible (apply routeXfer_moves)
    | with_reducible (apply Moves.foldl)
    | with_reducible (apply Moves.foldl_fst)
    | with_reducible (apply Moves.of_eq; assumption)
    | with_reducible intro _
    | dsimp only
    | split

theorem abortReceived_moves (s : State) (h : MsgHeader) {k0 : Nat} {z0 : State} (hz : Moves k0 z0 s) (hk0 : 49152 &&& k0 = 49152) :
    Moves k0 z0 (abortReceived s h) := by
  refine hz.trans ?_
  clear hz
  unfold abortReceived
  repeat' first
    | with_reducible exact Moves.refl _ _
    | with_reducible assumption
    | with_reducible exact mask_le hk0 (by decide)
    | with_reducible apply Moves.ite
    | with_reducible apply Moves.ite_fst
    | with_reducible (apply State.modLink_moves)
    | with_reducible (apply oweAll_moves)
    | with_reducible (apply sendReceipt_moves)
    | with_reducible (apply Moves.foldl)
    | with_reducible (apply Moves.foldl_fst)
    | with_reducible (apply Moves.of_eq; assumption)
    | with_reducible intro _
    | dsimp only
    | split

theorem answerPartials_moves (s : State) {k0 : Nat} {z0 : State} (hz : Moves k0 z0 s) (hk0 : 49152 &&& k0 = 49152) :
    Moves k0 z0 (answerPartials s) := by
  refine hz.trans ?_
  clear hz
  unfold answerPartials
  repeat' first
    | with_reducible exact Moves.refl _ _
    | with_reducible assumption
    | with_reducible exact mask_le hk0 (by decide)
    | with_reducible apply Moves.ite
    | with_reducible apply Moves.ite_fst
    | with_reducible (apply State.modLink_moves)
    | with_reducible (apply answerRedealing_moves)
    | with_reducible (apply oweAll_moves)
    | with_reducible (apply Moves.foldl)
    | with_reducible (apply Moves.foldl_fst)
    | with_reducible (apply Moves.of_eq; assumption)
    | with_reducible intro _
    | dsimp only
    | split

theorem receiptTimeout_moves (s : State) (id : Nat) {k0 : Nat} {z0 : State} (hz : Moves k0 z0 s) (hk0 : 51080 &&& k0 = 51080) :
    Moves k0 z0 (receiptTimeout s id) := by
  refine hz.trans ?_
  clear hz
  unfold receiptTimeout
  repeat' first
    | with_reducible exact Moves.refl _ _
    | with_reducible assumption
    | with_reducible exact mask_le hk0 (by decide)
    | with_reducible apply Moves.ite
    | with_reducible apply Moves.ite_fst
    | with_reducible (apply failXfer_moves)
    | with_reducible (apply Moves.foldl)
    | with_reducible (apply Moves.foldl_fst)
    | with_reducible (apply Moves.of_eq; assumption)
    | with_reducible intro _
    | dsimp only
    | split

theorem messageForUs_moves (s : State) (h : MsgHeader) (data : List Byte) (crcOk : Bool) {k0 : Nat} {z0 : State} (hz : Moves k0 z0 s) (hk0 : 321482 &&& k0 = 321482) :
    Moves k0 z0 (messageForUs s h data crcOk) := by
  refine hz.trans ?_
  clear hz
  unfold messageForUs
  repeat' first
    | with_reducible exact Moves.refl _ _
    | with_reducible assumption
    | with_reducible exact mask_le hk0 (by decide)
    | with_reducible apply Moves.ite
    | with_reducible apply Moves.ite_fst
    | with_reducible (apply abortReceived_moves)
    | with_reducible (apply handReceived_moves)
    | with_reducible (apply putReceived_moves)
    | with_reducible (apply receiptReceived_moves)
    | with_reducible (apply signalReceived_moves)
    | with_reducible (apply Moves.foldl)
    | with_reducible (apply Moves.foldl_fst)
    | with_reducible (apply Moves.of_eq; assumption)
    | with_reducible intro _
    | dsimp only
    | split

theorem deliverLocal_moves (s : State) {k0 : Nat} {z0 : State} (hz : Moves k0 z0 s) (hk0 : 321482 &&& k0 = 321482) :
    Moves k0 z0 (deliverLocal s) := by
  refine hz.trans ?_
  clear hz
  unfold deliverLocal
  repeat' first
    | with_reducible exact Moves.refl _ _
    | with_reducible assumption
    | with_reducible exact mask_le hk0 (by decide)
    | with_reducible apply Moves.ite
    | with_reducible apply Moves.ite_fst
    | with_reducible (apply State.modLink_moves)
    | with_reducible (apply afterMoves_moves)
    | with_reducible (apply messageForUs_moves)
    | with_reducible (apply Moves.foldl)
    | with_reducible (apply Moves.foldl_fst)
    | with_reducible (apply Moves.of_eq; assumption)
    | with_reducible intro _
    | dsimp only
    | split

end Sys2Proof.Machine
end

