-- ==== Sys2Proof/Laws/MovesAssayOps.lean ====
section
/-! SUPPORT. What each operation of Machine/AssayOps.lean may change. -/

set_option linter.unreachableTactic false
set_option linter.unusedTactic false
set_option linter.unusedVariables false

namespace Sys2Proof.Machine

theorem State.modAsy_moves (s : State) (f : Assay → Assay) {k0 : Nat} {z0 : State} (hz : Moves k0 z0 s) (hk0 : 2097152 &&& k0 = 2097152) :
    Moves k0 z0 (State.modAsy s f) := by
  exact hz.trans ((Moves.put (s := s) (t := (State.modAsy s f)) (m := 2097152) rfl rfl rfl rfl rfl (by intro p hp; cases p <;> first | rfl | exact absurd hp (by decide))).mono hk0)

theorem State.modIndex_moves (s : State) (i : Nat) (f : Index → Index) {k0 : Nat} {z0 : State} (hz : Moves k0 z0 s) (hk0 : 2097152 &&& k0 = 2097152) :
    Moves k0 z0 (State.modIndex s i f) := by
  refine hz.trans ?_
  clear hz
  unfold State.modIndex
  repeat' first
    | with_reducible exact Moves.refl _ _
    | with_reducible assumption
    | with_reducible exact mask_le hk0 (by decide)
    | with_reducible apply Moves.ite
    | with_reducible apply Moves.ite_fst
    | with_reducible (apply State.modAsy_moves)
    | with_reducible (apply Moves.foldl)
    | with_reducible (apply Moves.foldl_fst)
    | with_reducible (apply Moves.of_eq; assumption)
    | with_reducible intro _
    | dsimp only
    | split

theorem readHeads_moves (n : Nat) (h : List Byte) (s : State) {k0 : Nat} {z0 : State} (hz : Moves k0 z0 s) (hk0 : 271688 &&& k0 = 271688) :
    Moves k0 z0 (readHeads n h s).1 := by
  refine hz.trans ?_
  clear hz
  unfold readHeads
  repeat' first
    | with_reducible exact Moves.refl _ _
    | with_reducible assumption
    | with_reducible exact mask_le hk0 (by decide)
    | with_reducible apply Moves.ite
    | with_reducible apply Moves.ite_fst
    | with_reducible (apply readClaim_moves)
    | with_reducible (apply readClaim_pmoves; assumption)
    | with_reducible (apply Moves.foldl)
    | with_reducible (apply Moves.foldl_fst)
    | with_reducible (apply Moves.of_eq; assumption)
    | with_reducible intro _
    | dsimp only
    | split

theorem readHeads_pmoves (n : Nat) (h : List Byte) (s : State) {z1 : State} {y1 : ReadEnd (List Byte)} (he : (readHeads n h s) = (z1, y1)) {k0 : Nat} {z0 : State} (hz : Moves k0 z0 s) (hk0 : 271688 &&& k0 = 271688) :
    Moves k0 z0 z1 := by
  simpa only [he] using readHeads_moves n h s hz hk0

theorem storeGranule_moves (s : State) (i : Nat) {k0 : Nat} {z0 : State} (hz : Moves k0 z0 s) (hk0 : 271816 &&& k0 = 271816) :
    Moves k0 z0 (storeGranule s i) := by
  refine hz.trans ?_
  clear hz
  unfold storeGranule
  repeat' first
    | with_reducible exact Moves.refl _ _
    | with_reducible assumption
    | with_reducible exact mask_le hk0 (by decide)
    | with_reducible apply Moves.ite
    | with_reducible apply Moves.ite_fst
    | with_reducible (apply writeClaim_moves)
    | with_reducible (apply writeClaim_pmoves; assumption)
    | with_reducible (apply Moves.foldl)
    | with_reducible (apply Moves.foldl_fst)
    | with_reducible (apply Moves.of_eq; assumption)
    | with_reducible intro _
    | dsimp only
    | split

theorem bindIndex_moves (s : State) (i : Nat) (va : Nat) (claim : Nat) {k0 : Nat} {z0 : State} (hz : Moves k0 z0 s) (hk0 : 2368840 &&& k0 = 2368840) :
    Moves k0 z0 (bindIndex s i va claim) := by
  refine hz.trans ?_
  clear hz
  unfold bindIndex
  repeat' first
    | with_reducible exact Moves.refl _ _
    | with_reducible assumption
    | with_reducible exact mask_le hk0 (by decide)
    | with_reducible apply Moves.ite
    | with_reducible apply Moves.ite_fst
    | with_reducible (apply State.modIndex_moves)
    | with_reducible (apply pinPages_moves)
    | with_reducible (apply readClaim_moves)
    | with_reducible (apply readClaim_pmoves; assumption)
    | with_reducible (apply readHeads_moves)
    | with_reducible (apply readHeads_pmoves; assumption)
    | with_reducible (apply runEach_moves)
    | with_reducible (apply slotPage_moves)
    | with_reducible (apply slotPage_pmoves; assumption)
    | with_reducible (apply Moves.foldl)
    | with_reducible (apply Moves.foldl_fst)
    | with_reducible (apply Moves.of_eq; assumption)
    | with_reducible intro _
    | dsimp only
    | split

theorem releaseIndex_moves (s : State) (i : Nat) (va : Nat) (claim : Nat) {k0 : Nat} {z0 : State} (hz : Moves k0 z0 s) (hk0 : 2097408 &&& k0 = 2097408) :
    Moves k0 z0 (releaseIndex s i va claim) := by
  refine hz.trans ?_
  clear hz
  unfold releaseIndex
  repeat' first
    | with_reducible exact Moves.refl _ _
    | with_reducible assumption
    | with_reducible exact mask_le hk0 (by decide)
    | with_reducible apply Moves.ite
    | with_reducible apply Moves.ite_fst
    | with_reducible (apply State.modIndex_moves)
    | with_reducible (apply unpinPages_moves)
    | with_reducible (apply Moves.foldl)
    | with_reducible (apply Moves.foldl_fst)
    | with_reducible (apply Moves.of_eq; assumption)
    | with_reducible intro _
    | dsimp only
    | split

theorem unbindIndex_moves (s : State) (i : Nat) (va : Nat) (claim : Nat) {k0 : Nat} {z0 : State} (hz : Moves k0 z0 s) (hk0 : 2097536 &&& k0 = 2097536) :
    Moves k0 z0 (unbindIndex s i va claim) := by
  refine hz.trans ?_
  clear hz
  unfold unbindIndex
  repeat' first
    | with_reducible exact Moves.refl _ _
    | with_reducible assumption
    | with_reducible exact mask_le hk0 (by decide)
    | with_reducible apply Moves.ite
    | with_reducible apply Moves.ite_fst
    | with_reducible (apply State.modAsy_moves)
    | with_reducible (apply State.modIndex_moves)
    | with_reducible (apply failAt_moves)
    | with_reducible (apply releaseIndex_moves)
    | with_reducible (apply Moves.foldl)
    | with_reducible (apply Moves.foldl_fst)
    | with_reducible (apply Moves.of_eq; assumption)
    | with_reducible intro _
    | dsimp only
    | split

theorem closeIndexes_moves (s : State) {k0 : Nat} {z0 : State} (hz : Moves k0 z0 s) (hk0 : 2097408 &&& k0 = 2097408) :
    Moves k0 z0 (closeIndexes s) := by
  refine hz.trans ?_
  clear hz
  unfold closeIndexes
  repeat' first
    | with_reducible exact Moves.refl _ _
    | with_reducible assumption
    | with_reducible exact mask_le hk0 (by decide)
    | with_reducible apply Moves.ite
    | with_reducible apply Moves.ite_fst
    | with_reducible (apply releaseIndex_moves)
    | with_reducible (apply Moves.foldl)
    | with_reducible (apply Moves.foldl_fst)
    | with_reducible (apply Moves.of_eq; assumption)
    | with_reducible intro _
    | dsimp only
    | split

theorem readAssayDescs_moves (n : Nat) (b : List Byte) (s : State) {k0 : Nat} {z0 : State} (hz : Moves k0 z0 s) (hk0 : 271688 &&& k0 = 271688) :
    Moves k0 z0 (readAssayDescs n b s).1 := by
  refine hz.trans ?_
  clear hz
  unfold readAssayDescs
  repeat' first
    | with_reducible exact Moves.refl _ _
    | with_reducible assumption
    | with_reducible exact mask_le hk0 (by decide)
    | with_reducible apply Moves.ite
    | with_reducible apply Moves.ite_fst
    | with_reducible (apply Run.andThen_moves)
    | with_reducible (apply readClaim_moves)
    | with_reducible (apply readClaim_pmoves; assumption)
    | with_reducible (apply runEach_moves)
    | with_reducible (apply Moves.foldl)
    | with_reducible (apply Moves.foldl_fst)
    | with_reducible (apply Moves.of_eq; assumption)
    | with_reducible intro _
    | dsimp only
    | split

theorem readAssayDescs_pmoves (n : Nat) (b : List Byte) (s : State) {z1 : State} {y1 : ReadEnd (List Slot)} (he : (readAssayDescs n b s) = (z1, y1)) {k0 : Nat} {z0 : State} (hz : Moves k0 z0 s) (hk0 : 271688 &&& k0 = 271688) :
    Moves k0 z0 z1 := by
  simpa only [he] using readAssayDescs_moves n b s hz hk0

theorem writeResults_moves (n : Nat) (k : Nat) (shift : Nat) (r : List Byte) (rows : List (List (List Byte))) (s : State) {k0 : Nat} {z0 : State} (hz : Moves k0 z0 s) (hk0 : 271816 &&& k0 = 271816) :
    Moves k0 z0 (writeResults n k shift r rows s).1 := by
  refine hz.trans ?_
  clear hz
  unfold writeResults
  repeat' first
    | with_reducible exact Moves.refl _ _
    | with_reducible assumption
    | with_reducible exact mask_le hk0 (by decide)
    | with_reducible apply Moves.ite
    | with_reducible apply Moves.ite_fst
    | with_reducible (apply Run.andThen_moves)
    | with_reducible (apply runEach_moves)
    | with_reducible (apply writeClaim_moves)
    | with_reducible (apply writeClaim_pmoves; assumption)
    | with_reducible (apply Moves.foldl)
    | with_reducible (apply Moves.foldl_fst)
    | with_reducible (apply Moves.of_eq; assumption)
    | with_reducible intro _
    | dsimp only
    | split

theorem writeResults_pmoves (n : Nat) (k : Nat) (shift : Nat) (r : List Byte) (rows : List (List (List Byte))) (s : State) {z1 : State} {y1 : ReadEnd Unit} (he : (writeResults n k shift r rows s) = (z1, y1)) {k0 : Nat} {z0 : State} (hz : Moves k0 z0 s) (hk0 : 271816 &&& k0 = 271816) :
    Moves k0 z0 z1 := by
  simpa only [he] using writeResults_moves n k shift r rows s hz hk0

theorem noteShort_moves (s : State) (shoe : Nat) (seq : Nat) (k : Nat) (rows : List (List (List Byte))) {k0 : Nat} {z0 : State} (hz : Moves k0 z0 s) (hk0 : 128 &&& k0 = 128) :
    Moves k0 z0 (noteShort s shoe seq k rows) := by
  refine hz.trans ?_
  clear hz
  unfold noteShort
  repeat' first
    | with_reducible exact Moves.refl _ _
    | with_reducible assumption
    | with_reducible exact mask_le hk0 (by decide)
    | with_reducible apply Moves.ite
    | with_reducible apply Moves.ite_fst
    | with_reducible (apply noteItem_moves)
    | with_reducible (apply Moves.foldl)
    | with_reducible (apply Moves.foldl_fst)
    | with_reducible (apply Moves.of_eq; assumption)
    | with_reducible intro _
    | dsimp only
    | split

theorem assaySearch_moves (s : State) (shoe : Nat) (seq : Nat) (l : Nat) {k0 : Nat} {z0 : State} (hz : Moves k0 z0 s) (hk0 : 2368968 &&& k0 = 2368968) :
    Moves k0 z0 (assaySearch s shoe seq l) := by
  refine hz.trans ?_
  clear hz
  unfold assaySearch
  repeat' first
    | with_reducible exact Moves.refl _ _
    | with_reducible assumption
    | with_reducible exact mask_le hk0 (by decide)
    | with_reducible apply Moves.ite
    | with_reducible apply Moves.ite_fst
    | with_reducible (apply State.modAsy_moves)
    | with_reducible (apply failAt_moves)
    | with_reducible (apply heldCmd_moves)
    | with_reducible (apply readAssayDescs_moves)
    | with_reducible (apply readAssayDescs_pmoves; assumption)
    | with_reducible (apply Moves.foldl)
    | with_reducible (apply Moves.foldl_fst)
    | with_reducible (apply Moves.of_eq; assumption)
    | with_reducible intro _
    | dsimp only
    | split

theorem startSearch_moves (s : State) (q : Search) {k0 : Nat} {z0 : State} (hz : Moves k0 z0 s) (hk0 : 271688 &&& k0 = 271688) :
    Moves k0 z0 (startSearch s q).1 := by
  refine hz.trans ?_
  clear hz
  unfold startSearch
  repeat' first
    | with_reducible exact Moves.refl _ _
    | with_reducible assumption
    | with_reducible exact mask_le hk0 (by decide)
    | with_reducible apply Moves.ite
    | with_reducible apply Moves.ite_fst
    | with_reducible (apply Run.andThen_moves)
    | with_reducible (apply readClaim_moves)
    | with_reducible (apply readClaim_pmoves; assumption)
    | with_reducible (apply readHeads_moves)
    | with_reducible (apply readHeads_pmoves; assumption)
    | with_reducible (apply Moves.foldl)
    | with_reducible (apply Moves.foldl_fst)
    | with_reducible (apply Moves.of_eq; assumption)
    | with_reducible intro _
    | dsimp only
    | split

theorem startSearch_pmoves (s : State) (q : Search) {z1 : State} {y1 : Search} (he : (startSearch s q) = (z1, y1)) {k0 : Nat} {z0 : State} (hz : Moves k0 z0 s) (hk0 : 271688 &&& k0 = 271688) :
    Moves k0 z0 z1 := by
  simpa only [he] using startSearch_moves s q hz hk0

theorem formBatch_moves (s : State) {k0 : Nat} {z0 : State} (hz : Moves k0 z0 s) (hk0 : 2368840 &&& k0 = 2368840) :
    Moves k0 z0 (formBatch s) := by
  refine hz.trans ?_
  clear hz
  unfold formBatch
  repeat' first
    | with_reducible exact Moves.refl _ _
    | with_reducible assumption
    | with_reducible exact mask_le hk0 (by decide)
    | with_reducible apply Moves.ite
    | with_reducible apply Moves.ite_fst
    | with_reducible (apply State.modAsy_moves)
    | with_reducible (apply startSearch_moves)
    | with_reducible (apply startSearch_pmoves; assumption)
    | with_reducible (apply Moves.foldl)
    | with_reducible (apply Moves.foldl_fst)
    | with_reducible (apply Moves.of_eq; assumption)
    | with_reducible intro _
    | dsimp only
    | split

theorem openWindow_moves (s : State) {k0 : Nat} {z0 : State} (hz : Moves k0 z0 s) (hk0 : 2368840 &&& k0 = 2368840) :
    Moves k0 z0 (openWindow s) := by
  refine hz.trans ?_
  clear hz
  unfold openWindow
  repeat' first
    | with_reducible exact Moves.refl _ _
    | with_reducible assumption
    | with_reducible exact mask_le hk0 (by decide)
    | with_reducible apply Moves.ite
    | with_reducible apply Moves.ite_fst
    | with_reducible (apply State.modAsy_moves)
    | with_reducible (apply formBatch_moves)
    | with_reducible (apply Moves.foldl)
    | with_reducible (apply Moves.foldl_fst)
    | with_reducible (apply Moves.of_eq; assumption)
    | with_reducible intro _
    | dsimp only
    | split

theorem veinCandidates_moves (q : Search) (sk : List Byte) (v : Nat) (s : State) {k0 : Nat} {z0 : State} (hz : Moves k0 z0 s) (hk0 : 271688 &&& k0 = 271688) :
    Moves k0 z0 (veinCandidates q sk v s).1 := by
  refine hz.trans ?_
  clear hz
  unfold veinCandidates
  repeat' first
    | with_reducible exact Moves.refl _ _
    | with_reducible assumption
    | with_reducible exact mask_le hk0 (by decide)
    | with_reducible apply Moves.ite
    | with_reducible apply Moves.ite_fst
    | with_reducible (apply Run.andThen_moves)
    | with_reducible (apply readClaim_moves)
    | with_reducible (apply readClaim_pmoves; assumption)
    | with_reducible (apply runEach_moves)
    | with_reducible (apply Moves.foldl)
    | with_reducible (apply Moves.foldl_fst)
    | with_reducible (apply Moves.of_eq; assumption)
    | with_reducible intro _
    | dsimp only
    | split

theorem veinCandidates_pmoves (q : Search) (sk : List Byte) (v : Nat) (s : State) {z1 : State} {y1 : ReadEnd (List ((FP × Nat) × List Byte))} (he : (veinCandidates q sk v s) = (z1, y1)) {k0 : Nat} {z0 : State} (hz : Moves k0 z0 s) (hk0 : 271688 &&& k0 = 271688) :
    Moves k0 z0 z1 := by
  simpa only [he] using veinCandidates_moves q sk v s hz hk0

theorem heapCandidates_moves (q : Search) (sk : List Byte) (s : State) {k0 : Nat} {z0 : State} (hz : Moves k0 z0 s) (hk0 : 271688 &&& k0 = 271688) :
    Moves k0 z0 (heapCandidates q sk s).1 := by
  refine hz.trans ?_
  clear hz
  unfold heapCandidates
  repeat' first
    | with_reducible exact Moves.refl _ _
    | with_reducible assumption
    | with_reducible exact mask_le hk0 (by decide)
    | with_reducible apply Moves.ite
    | with_reducible apply Moves.ite_fst
    | with_reducible (apply Run.andThen_moves)
    | with_reducible (apply readClaim_moves)
    | with_reducible (apply readClaim_pmoves; assumption)
    | with_reducible (apply runEach_moves)
    | with_reducible (apply Moves.foldl)
    | with_reducible (apply Moves.foldl_fst)
    | with_reducible (apply Moves.of_eq; assumption)
    | with_reducible intro _
    | dsimp only
    | split

theorem heapCandidates_pmoves (q : Search) (sk : List Byte) (s : State) {z1 : State} {y1 : ReadEnd (List ((FP × Nat) × List Byte))} (he : (heapCandidates q sk s) = (z1, y1)) {k0 : Nat} {z0 : State} (hz : Moves k0 z0 s) (hk0 : 271688 &&& k0 = 271688) :
    Moves k0 z0 z1 := by
  simpa only [he] using heapCandidates_moves q sk s hz hk0

theorem runQuery_moves (q : Search) (i : Nat) (s : State) {k0 : Nat} {z0 : State} (hz : Moves k0 z0 s) (hk0 : 271688 &&& k0 = 271688) :
    Moves k0 z0 (runQuery q i s).1 := by
  refine hz.trans ?_
  clear hz
  unfold runQuery
  repeat' first
    | with_reducible exact Moves.refl _ _
    | with_reducible assumption
    | with_reducible exact mask_le hk0 (by decide)
    | with_reducible apply Moves.ite
    | with_reducible apply Moves.ite_fst
    | with_reducible (apply Run.andThen_moves)
    | with_reducible (apply heapCandidates_moves)
    | with_reducible (apply heapCandidates_pmoves; assumption)
    | with_reducible (apply readClaim_moves)
    | with_reducible (apply readClaim_pmoves; assumption)
    | with_reducible (apply runEach_moves)
    | with_reducible (apply veinCandidates_moves)
    | with_reducible (apply veinCandidates_pmoves; assumption)
    | with_reducible (apply Moves.foldl)
    | with_reducible (apply Moves.foldl_fst)
    | with_reducible (apply Moves.of_eq; assumption)
    | with_reducible intro _
    | dsimp only
    | split

theorem runQuery_pmoves (q : Search) (i : Nat) (s : State) {z1 : State} {y1 : ReadEnd (List (List Byte))} (he : (runQuery q i s) = (z1, y1)) {k0 : Nat} {z0 : State} (hz : Moves k0 z0 s) (hk0 : 271688 &&& k0 = 271688) :
    Moves k0 z0 z1 := by
  simpa only [he] using runQuery_moves q i s hz hk0

theorem runSearch_moves (q : Search) (s : State) {k0 : Nat} {z0 : State} (hz : Moves k0 z0 s) (hk0 : 271816 &&& k0 = 271816) :
    Moves k0 z0 (runSearch q s).1 := by
  refine hz.trans ?_
  clear hz
  unfold runSearch
  repeat' first
    | with_reducible exact Moves.refl _ _
    | with_reducible assumption
    | with_reducible exact mask_le hk0 (by decide)
    | with_reducible apply Moves.ite
    | with_reducible apply Moves.ite_fst
    | with_reducible (apply Run.andThen_moves)
    | with_reducible (apply runEach_moves)
    | with_reducible (apply runQuery_moves)
    | with_reducible (apply runQuery_pmoves; assumption)
    | with_reducible (apply writeResults_moves)
    | with_reducible (apply writeResults_pmoves; assumption)
    | with_reducible (apply Moves.foldl)
    | with_reducible (apply Moves.foldl_fst)
    | with_reducible (apply Moves.of_eq; assumption)
    | with_reducible intro _
    | dsimp only
    | split

theorem runSearch_pmoves (q : Search) (s : State) {z1 : State} {y1 : ReadEnd (List (List (List Byte)))} (he : (runSearch q s) = (z1, y1)) {k0 : Nat} {z0 : State} (hz : Moves k0 z0 s) (hk0 : 271816 &&& k0 = 271816) :
    Moves k0 z0 z1 := by
  simpa only [he] using runSearch_moves q s hz hk0

theorem finishSearch_moves (s : State) (q : Search) {k0 : Nat} {z0 : State} (hz : Moves k0 z0 s) (hk0 : 271816 &&& k0 = 271816) :
    Moves k0 z0 (finishSearch s q) := by
  refine hz.trans ?_
  clear hz
  unfold finishSearch
  repeat' first
    | with_reducible exact Moves.refl _ _
    | with_reducible assumption
    | with_reducible exact mask_le hk0 (by decide)
    | with_reducible apply Moves.ite
    | with_reducible apply Moves.ite_fst
    | with_reducible (apply completeCmd_moves)
    | with_reducible (apply failAt_moves)
    | with_reducible (apply noteShort_moves)
    | with_reducible (apply runSearch_moves)
    | with_reducible (apply runSearch_pmoves; assumption)
    | with_reducible (apply Moves.foldl)
    | with_reducible (apply Moves.foldl_fst)
    | with_reducible (apply Moves.of_eq; assumption)
    | with_reducible intro _
    | dsimp only
    | split

theorem mergeQuery_moves (n : Nat) (k : Nat) (d : List Byte) (lists : Nat) (i : Nat) (s : State) {k0 : Nat} {z0 : State} (hz : Moves k0 z0 s) (hk0 : 271688 &&& k0 = 271688) :
    Moves k0 z0 (mergeQuery n k d lists i s).1 := by
  refine hz.trans ?_
  clear hz
  unfold mergeQuery
  repeat' first
    | with_reducible exact Moves.refl _ _
    | with_reducible assumption
    | with_reducible exact mask_le hk0 (by decide)
    | with_reducible apply Moves.ite
    | with_reducible apply Moves.ite_fst
    | with_reducible (apply Run.andThen_moves)
    | with_reducible (apply readClaim_moves)
    | with_reducible (apply readClaim_pmoves; assumption)
    | with_reducible (apply runEach_moves)
    | with_reducible (apply Moves.foldl)
    | with_reducible (apply Moves.foldl_fst)
    | with_reducible (apply Moves.of_eq; assumption)
    | with_reducible intro _
    | dsimp only
    | split

theorem mergeQuery_pmoves (n : Nat) (k : Nat) (d : List Byte) (lists : Nat) (i : Nat) (s : State) {z1 : State} {y1 : ReadEnd (List (List Byte))} (he : (mergeQuery n k d lists i s) = (z1, y1)) {k0 : Nat} {z0 : State} (hz : Moves k0 z0 s) (hk0 : 271688 &&& k0 = 271688) :
    Moves k0 z0 z1 := by
  simpa only [he] using mergeQuery_moves n k d lists i s hz hk0

theorem assayMerge_moves (s : State) (shoe : Nat) (seq : Nat) (l : Nat) {k0 : Nat} {z0 : State} (hz : Moves k0 z0 s) (hk0 : 271816 &&& k0 = 271816) :
    Moves k0 z0 (assayMerge s shoe seq l) := by
  refine hz.trans ?_
  clear hz
  unfold assayMerge
  repeat' first
    | with_reducible exact Moves.refl _ _
    | with_reducible assumption
    | with_reducible exact mask_le hk0 (by decide)
    | with_reducible apply Moves.ite
    | with_reducible apply Moves.ite_fst
    | with_reducible (apply doneCmd_moves)
    | with_reducible (apply failAt_moves)
    | with_reducible (apply mergeQuery_moves)
    | with_reducible (apply mergeQuery_pmoves; assumption)
    | with_reducible (apply noteShort_moves)
    | with_reducible (apply readAssayDescs_moves)
    | with_reducible (apply readAssayDescs_pmoves; assumption)
    | with_reducible (apply runEach_moves)
    | with_reducible (apply writeResults_moves)
    | with_reducible (apply writeResults_pmoves; assumption)
    | with_reducible (apply Moves.foldl)
    | with_reducible (apply Moves.foldl_fst)
    | with_reducible (apply Moves.of_eq; assumption)
    | with_reducible intro _
    | dsimp only
    | split

theorem writeTag_moves (n : Nat) (va : Nat) (t : List Byte) (s : State) {k0 : Nat} {z0 : State} (hz : Moves k0 z0 s) (hk0 : 271816 &&& k0 = 271816) :
    Moves k0 z0 (writeTag n va t s).1 := by
  refine hz.trans ?_
  clear hz
  unfold writeTag
  repeat' first
    | with_reducible exact Moves.refl _ _
    | with_reducible assumption
    | with_reducible exact mask_le hk0 (by decide)
    | with_reducible apply Moves.ite
    | with_reducible apply Moves.ite_fst
    | with_reducible (apply Run.andThen_moves)
    | with_reducible (apply readClaim_moves)
    | with_reducible (apply readClaim_pmoves; assumption)
    | with_reducible (apply writeClaim_moves)
    | with_reducible (apply writeClaim_pmoves; assumption)
    | with_reducible (apply Moves.foldl)
    | with_reducible (apply Moves.foldl_fst)
    | with_reducible (apply Moves.of_eq; assumption)
    | with_reducible intro _
    | dsimp only
    | split

theorem writeTag_pmoves (n : Nat) (va : Nat) (t : List Byte) (s : State) {z1 : State} {y1 : ReadEnd Unit} (he : (writeTag n va t s) = (z1, y1)) {k0 : Nat} {z0 : State} (hz : Moves k0 z0 s) (hk0 : 271816 &&& k0 = 271816) :
    Moves k0 z0 z1 := by
  simpa only [he] using writeTag_moves n va t s hz hk0

theorem writeSketch_moves (n : Nat) (va : Nat) (k : List Byte) (s : State) {k0 : Nat} {z0 : State} (hz : Moves k0 z0 s) (hk0 : 271816 &&& k0 = 271816) :
    Moves k0 z0 (writeSketch n va k s).1 := by
  refine hz.trans ?_
  clear hz
  unfold writeSketch
  repeat' first
    | with_reducible exact Moves.refl _ _
    | with_reducible assumption
    | with_reducible exact mask_le hk0 (by decide)
    | with_reducible apply Moves.ite
    | with_reducible apply Moves.ite_fst
    | with_reducible (apply writeClaim_moves)
    | with_reducible (apply writeClaim_pmoves; assumption)
    | with_reducible (apply writeTag_moves)
    | with_reducible (apply writeTag_pmoves; assumption)
    | with_reducible (apply Moves.foldl)
    | with_reducible (apply Moves.foldl_fst)
    | with_reducible (apply Moves.of_eq; assumption)
    | with_reducible intro _
    | dsimp only
    | split

theorem writeSketch_pmoves (n : Nat) (va : Nat) (k : List Byte) (s : State) {z1 : State} {y1 : ReadEnd Unit} (he : (writeSketch n va k s) = (z1, y1)) {k0 : Nat} {z0 : State} (hz : Moves k0 z0 s) (hk0 : 271816 &&& k0 = 271816) :
    Moves k0 z0 z1 := by
  simpa only [he] using writeSketch_moves n va k s hz hk0

theorem findTag_moves (n : Nat) (h : List Byte) (head : List Byte) (id : Nat) (s : State) {k0 : Nat} {z0 : State} (hz : Moves k0 z0 s) (hk0 : 271688 &&& k0 = 271688) :
    Moves k0 z0 (findTag n h head id s).1 := by
  refine hz.trans ?_
  clear hz
  unfold findTag
  repeat' first
    | with_reducible exact Moves.refl _ _
    | with_reducible assumption
    | with_reducible exact mask_le hk0 (by decide)
    | with_reducible apply Moves.ite
    | with_reducible apply Moves.ite_fst
    | with_reducible (apply Run.andThen_moves)
    | with_reducible (apply readClaim_moves)
    | with_reducible (apply readClaim_pmoves; assumption)
    | with_reducible (apply runEach_moves)
    | with_reducible (apply Moves.foldl)
    | with_reducible (apply Moves.foldl_fst)
    | with_reducible (apply Moves.of_eq; assumption)
    | with_reducible intro _
    | dsimp only
    | split

theorem findTag_pmoves (n : Nat) (h : List Byte) (head : List Byte) (id : Nat) (s : State) {z1 : State} {y1 : ReadEnd (Option (Nat × List Byte))} (he : (findTag n h head id s) = (z1, y1)) {k0 : Nat} {z0 : State} (hz : Moves k0 z0 s) (hk0 : 271688 &&& k0 = 271688) :
    Moves k0 z0 z1 := by
  simpa only [he] using findTag_moves n h head id s hz hk0

theorem findHeap_moves (n : Nat) (h : List Byte) (from_ : Nat) (p : Nat) (id : Nat) (s : State) {k0 : Nat} {z0 : State} (hz : Moves k0 z0 s) (hk0 : 271688 &&& k0 = 271688) :
    Moves k0 z0 (findHeap n h from_ p id s).1 := by
  refine hz.trans ?_
  clear hz
  unfold findHeap
  repeat' first
    | with_reducible exact Moves.refl _ _
    | with_reducible assumption
    | with_reducible exact mask_le hk0 (by decide)
    | with_reducible apply Moves.ite
    | with_reducible apply Moves.ite_fst
    | with_reducible (apply Run.andThen_moves)
    | with_reducible (apply readClaim_moves)
    | with_reducible (apply readClaim_pmoves; assumption)
    | with_reducible (apply runEach_moves)
    | with_reducible (apply Moves.foldl)
    | with_reducible (apply Moves.foldl_fst)
    | with_reducible (apply Moves.of_eq; assumption)
    | with_reducible intro _
    | dsimp only
    | split

theorem findHeap_pmoves (n : Nat) (h : List Byte) (from_ : Nat) (p : Nat) (id : Nat) (s : State) {z1 : State} {y1 : ReadEnd (Option (Nat × List Byte))} (he : (findHeap n h from_ p id s) = (z1, y1)) {k0 : Nat} {z0 : State} (hz : Moves k0 z0 s) (hk0 : 271688 &&& k0 = 271688) :
    Moves k0 z0 z1 := by
  simpa only [he] using findHeap_moves n h from_ p id s hz hk0

theorem takeRecord_moves (i : Nat) (p : Nat) (e : Nat) (s : State) {k0 : Nat} {z0 : State} (hz : Moves k0 z0 s) (hk0 : 271816 &&& k0 = 271816) :
    Moves k0 z0 (takeRecord i p e s).1 := by
  refine hz.trans ?_
  clear hz
  unfold takeRecord
  repeat' first
    | with_reducible exact Moves.refl _ _
    | with_reducible assumption
    | with_reducible exact mask_le hk0 (by decide)
    | with_reducible apply Moves.ite
    | with_reducible apply Moves.ite_fst
    | with_reducible (apply Run.andThen_moves)
    | with_reducible (apply findHeap_moves)
    | with_reducible (apply findHeap_pmoves; assumption)
    | with_reducible (apply findTag_moves)
    | with_reducible (apply findTag_pmoves; assumption)
    | with_reducible (apply readClaim_moves)
    | with_reducible (apply readClaim_pmoves; assumption)
    | with_reducible (apply writeClaim_moves)
    | with_reducible (apply writeClaim_pmoves; assumption)
    | with_reducible (apply writeTag_moves)
    | with_reducible (apply writeTag_pmoves; assumption)
    | with_reducible (apply Moves.foldl)
    | with_reducible (apply Moves.foldl_fst)
    | with_reducible (apply Moves.of_eq; assumption)
    | with_reducible intro _
    | dsimp only
    | split

theorem takeRecord_pmoves (i : Nat) (p : Nat) (e : Nat) (s : State) {z1 : State} {y1 : ReadEnd Nat} (he : (takeRecord i p e s) = (z1, y1)) {k0 : Nat} {z0 : State} (hz : Moves k0 z0 s) (hk0 : 271816 &&& k0 = 271816) :
    Moves k0 z0 z1 := by
  simpa only [he] using takeRecord_moves i p e s hz hk0

theorem passRetired_moves (x0 : Nat) (x1 : Nat) (x2 : State) {k0 : Nat} {z0 : State} (hz : Moves k0 z0 x2) (hk0 : 2368840 &&& k0 = 2368840) :
    Moves k0 z0 (passRetired x0 x1 x2) := by
  refine hz.trans ?_
  clear hz
  fun_induction passRetired x0 x1 x2
  all_goals repeat' first
    | with_reducible exact Moves.refl _ _
    | with_reducible assumption
    | with_reducible (refine Moves.trans ?_ (by assumption))
    | with_reducible (refine Moves.trans ?_ (Moves.of_eq (by assumption) (by assumption)))
    | with_reducible exact mask_le hk0 (by decide)
    | with_reducible apply Moves.ite
    | with_reducible apply Moves.ite_fst
    | with_reducible (apply State.modIndex_moves)
    | with_reducible (apply readClaim_moves)
    | with_reducible (apply readClaim_pmoves; assumption)
    | with_reducible (apply Moves.foldl)
    | with_reducible (apply Moves.foldl_fst)
    | with_reducible (apply Moves.of_eq; assumption)
    | with_reducible intro _
    | dsimp only
    | split

theorem advanceTake_moves (s : State) (i : Nat) (x : Index) (want : Nat) (room : Nat) {k0 : Nat} {z0 : State} (hz : Moves k0 z0 s) (hk0 : 2368968 &&& k0 = 2368968) :
    Moves k0 z0 (advanceTake s i x want room) := by
  refine hz.trans ?_
  clear hz
  unfold advanceTake
  repeat' first
    | with_reducible exact Moves.refl _ _
    | with_reducible assumption
    | with_reducible exact mask_le hk0 (by decide)
    | with_reducible apply Moves.ite
    | with_reducible apply Moves.ite_fst
    | with_reducible (apply State.modIndex_moves)
    | with_reducible (apply passRetired_moves)
    | with_reducible (apply runEach_moves)
    | with_reducible (apply storeGranule_moves)
    | with_reducible (apply takeRecord_moves)
    | with_reducible (apply takeRecord_pmoves; assumption)
    | with_reducible (apply Moves.foldl)
    | with_reducible (apply Moves.foldl_fst)
    | with_reducible (apply Moves.of_eq; assumption)
    | with_reducible intro _
    | dsimp only
    | split

theorem advanceIndex_moves (s : State) (i : Nat) {k0 : Nat} {z0 : State} (hz : Moves k0 z0 s) (hk0 : 2368968 &&& k0 = 2368968) :
    Moves k0 z0 (advanceIndex s i) := by
  refine hz.trans ?_
  clear hz
  unfold advanceIndex
  repeat' first
    | with_reducible exact Moves.refl _ _
    | with_reducible assumption
    | with_reducible exact mask_le hk0 (by decide)
    | with_reducible apply Moves.ite
    | with_reducible apply Moves.ite_fst
    | with_reducible (apply State.modIndex_moves)
    | with_reducible (apply advanceTake_moves)
    | with_reducible (apply storeGranule_moves)
    | with_reducible (apply Moves.foldl)
    | with_reducible (apply Moves.foldl_fst)
    | with_reducible (apply Moves.of_eq; assumption)
    | with_reducible intro _
    | dsimp only
    | split

theorem advanceEager_moves (s : State) {k0 : Nat} {z0 : State} (hz : Moves k0 z0 s) (hk0 : 2368968 &&& k0 = 2368968) :
    Moves k0 z0 (advanceEager s) := by
  refine hz.trans ?_
  clear hz
  unfold advanceEager
  repeat' first
    | with_reducible exact Moves.refl _ _
    | with_reducible assumption
    | with_reducible exact mask_le hk0 (by decide)
    | with_reducible apply Moves.ite
    | with_reducible apply Moves.ite_fst
    | with_reducible (apply advanceIndex_moves)
    | with_reducible (apply settlePages_moves)
    | with_reducible (apply Moves.foldl)
    | with_reducible (apply Moves.foldl_fst)
    | with_reducible (apply Moves.of_eq; assumption)
    | with_reducible intro _
    | dsimp only
    | split

theorem advanceNamed_moves (s : State) (arg : Nat) {k0 : Nat} {z0 : State} (hz : Moves k0 z0 s) (hk0 : 2368968 &&& k0 = 2368968) :
    Moves k0 z0 (advanceNamed s arg) := by
  refine hz.trans ?_
  clear hz
  unfold advanceNamed
  repeat' first
    | with_reducible exact Moves.refl _ _
    | with_reducible assumption
    | with_reducible exact mask_le hk0 (by decide)
    | with_reducible apply Moves.ite
    | with_reducible apply Moves.ite_fst
    | with_reducible (apply advanceIndex_moves)
    | with_reducible (apply settlePages_moves)
    | with_reducible (apply Moves.foldl)
    | with_reducible (apply Moves.foldl_fst)
    | with_reducible (apply Moves.of_eq; assumption)
    | with_reducible intro _
    | dsimp only
    | split

theorem batchComplete_moves (s : State) {k0 : Nat} {z0 : State} (hz : Moves k0 z0 s) (hk0 : 2368968 &&& k0 = 2368968) :
    Moves k0 z0 (batchComplete s) := by
  refine hz.trans ?_
  clear hz
  unfold batchComplete
  repeat' first
    | with_reducible exact Moves.refl _ _
    | with_reducible assumption
    | with_reducible exact mask_le hk0 (by decide)
    | with_reducible apply Moves.ite
    | with_reducible apply Moves.ite_fst
    | with_reducible (apply State.modAsy_moves)
    | with_reducible (apply advanceEager_moves)
    | with_reducible (apply closeIndexes_moves)
    | with_reducible (apply finishSearch_moves)
    | with_reducible (apply Moves.foldl)
    | with_reducible (apply Moves.foldl_fst)
    | with_reducible (apply Moves.of_eq; assumption)
    | with_reducible intro _
    | dsimp only
    | split

theorem closeWindow_moves (s : State) {k0 : Nat} {z0 : State} (hz : Moves k0 z0 s) (hk0 : 2368968 &&& k0 = 2368968) :
    Moves k0 z0 (closeWindow s) := by
  refine hz.trans ?_
  clear hz
  unfold closeWindow
  repeat' first
    | with_reducible exact Moves.refl _ _
    | with_reducible assumption
    | with_reducible exact mask_le hk0 (by decide)
    | with_reducible apply Moves.ite
    | with_reducible apply Moves.ite_fst
    | with_reducible (apply State.modAsy_moves)
    | with_reducible (apply advanceEager_moves)
    | with_reducible (apply Moves.foldl)
    | with_reducible (apply Moves.foldl_fst)
    | with_reducible (apply Moves.of_eq; assumption)
    | with_reducible intro _
    | dsimp only
    | split

theorem continuousBatch_moves (s : State) {k0 : Nat} {z0 : State} (hz : Moves k0 z0 s) (hk0 : 2368840 &&& k0 = 2368840) :
    Moves k0 z0 (continuousBatch s) := by
  refine hz.trans ?_
  clear hz
  unfold continuousBatch
  repeat' first
    | with_reducible exact Moves.refl _ _
    | with_reducible assumption
    | with_reducible exact mask_le hk0 (by decide)
    | with_reducible apply Moves.ite
    | with_reducible apply Moves.ite_fst
    | with_reducible (apply formBatch_moves)
    | with_reducible (apply Moves.foldl)
    | with_reducible (apply Moves.foldl_fst)
    | with_reducible (apply Moves.of_eq; assumption)
    | with_reducible intro _
    | dsimp only
    | split

theorem backfillRecord_moves (i : Nat) (p : Nat) (s : State) {k0 : Nat} {z0 : State} (hz : Moves k0 z0 s) (hk0 : 271816 &&& k0 = 271816) :
    Moves k0 z0 (backfillRecord i p s).1 := by
  refine hz.trans ?_
  clear hz
  unfold backfillRecord
  repeat' first
    | with_reducible exact Moves.refl _ _
    | with_reducible assumption
    | with_reducible exact mask_le hk0 (by decide)
    | with_reducible apply Moves.ite
    | with_reducible apply Moves.ite_fst
    | with_reducible (apply Run.andThen_moves)
    | with_reducible (apply readClaim_moves)
    | with_reducible (apply readClaim_pmoves; assumption)
    | with_reducible (apply readHeads_moves)
    | with_reducible (apply readHeads_pmoves; assumption)
    | with_reducible (apply writeClaim_moves)
    | with_reducible (apply writeClaim_pmoves; assumption)
    | with_reducible (apply writeSketch_moves)
    | with_reducible (apply writeSketch_pmoves; assumption)
    | with_reducible (apply writeTag_moves)
    | with_reducible (apply writeTag_pmoves; assumption)
    | with_reducible (apply Moves.foldl)
    | with_reducible (apply Moves.foldl_fst)
    | with_reducible (apply Moves.of_eq; assumption)
    | with_reducible intro _
    | dsimp only
    | split

theorem backfillRecord_pmoves (i : Nat) (p : Nat) (s : State) {z1 : State} {y1 : ReadEnd Nat} (he : (backfillRecord i p s) = (z1, y1)) {k0 : Nat} {z0 : State} (hz : Moves k0 z0 s) (hk0 : 271816 &&& k0 = 271816) :
    Moves k0 z0 z1 := by
  simpa only [he] using backfillRecord_moves i p s hz hk0

theorem backfillIndex_moves (s : State) (i : Nat) {k0 : Nat} {z0 : State} (hz : Moves k0 z0 s) (hk0 : 2368968 &&& k0 = 2368968) :
    Moves k0 z0 (backfillIndex s i) := by
  refine hz.trans ?_
  clear hz
  unfold backfillIndex
  repeat' first
    | with_reducible exact Moves.refl _ _
    | with_reducible assumption
    | with_reducible exact mask_le hk0 (by decide)
    | with_reducible apply Moves.ite
    | with_reducible apply Moves.ite_fst
    | with_reducible (apply State.modIndex_moves)
    | with_reducible (apply backfillRecord_moves)
    | with_reducible (apply backfillRecord_pmoves; assumption)
    | with_reducible (apply passRetired_moves)
    | with_reducible (apply runEach_moves)
    | with_reducible (apply storeGranule_moves)
    | with_reducible (apply Moves.foldl)
    | with_reducible (apply Moves.foldl_fst)
    | with_reducible (apply Moves.of_eq; assumption)
    | with_reducible intro _
    | dsimp only
    | split

theorem backfill_moves (s : State) {k0 : Nat} {z0 : State} (hz : Moves k0 z0 s) (hk0 : 2368968 &&& k0 = 2368968) :
    Moves k0 z0 (backfill s) := by
  refine hz.trans ?_
  clear hz
  unfold backfill
  repeat' first
    | with_reducible exact Moves.refl _ _
    | with_reducible assumption
    | with_reducible exact mask_le hk0 (by decide)
    | with_reducible apply Moves.ite
    | with_reducible apply Moves.ite_fst
    | with_reducible (apply backfillIndex_moves)
    | with_reducible (apply Moves.foldl)
    | with_reducible (apply Moves.foldl_fst)
    | with_reducible (apply Moves.of_eq; assumption)
    | with_reducible intro _
    | dsimp only
    | split

theorem stopBatch_moves (s : State) {k0 : Nat} {z0 : State} (hz : Moves k0 z0 s) (hk0 : 271818 &&& k0 = 271818) :
    Moves k0 z0 (stopBatch s) := by
  refine hz.trans ?_
  clear hz
  unfold stopBatch
  repeat' first
    | with_reducible exact Moves.refl _ _
    | with_reducible assumption
    | with_reducible exact mask_le hk0 (by decide)
    | with_reducible apply Moves.ite
    | with_reducible apply Moves.ite_fst
    | with_reducible (apply freeBytes_moves)
    | with_reducible (apply freeBytes_pmoves; assumption)
    | with_reducible (apply writeClaim_moves)
    | with_reducible (apply writeClaim_pmoves; assumption)
    | with_reducible (apply Moves.foldl)
    | with_reducible (apply Moves.foldl_fst)
    | with_reducible (apply Moves.of_eq; assumption)
    | with_reducible intro _
    | dsimp only
    | split

theorem resetAssay_moves (s : State) {k0 : Nat} {z0 : State} (hz : Moves k0 z0 s) (hk0 : 2097408 &&& k0 = 2097408) :
    Moves k0 z0 (resetAssay s) := by
  refine hz.trans ?_
  clear hz
  unfold resetAssay
  repeat' first
    | with_reducible exact Moves.refl _ _
    | with_reducible assumption
    | with_reducible exact mask_le hk0 (by decide)
    | with_reducible apply Moves.ite
    | with_reducible apply Moves.ite_fst
    | with_reducible (apply State.modAsy_moves)
    | with_reducible (apply unpinPages_moves)
    | with_reducible (apply Moves.foldl)
    | with_reducible (apply Moves.foldl_fst)
    | with_reducible (apply Moves.of_eq; assumption)
    | with_reducible intro _
    | dsimp only
    | split

end Sys2Proof.Machine
end

