-- ==== Sys2Proof/Laws/MovesNetOps.lean ====
section
/-! SUPPORT. What each operation of Machine/NetOps.lean may change. -/

set_option linter.unreachableTactic false
set_option linter.unusedTactic false
set_option linter.unusedVariables false

namespace Sys2Proof.Machine

theorem State.modNet_moves (s : State) (f : Net → Net) {k0 : Nat} {z0 : State} (hz : Moves k0 z0 s) (hk0 : 1048576 &&& k0 = 1048576) :
    Moves k0 z0 (State.modNet s f) := by
  exact hz.trans ((Moves.put (s := s) (t := (State.modNet s f)) (m := 1048576) rfl rfl rfl rfl rfl (by intro p hp; cases p <;> first | rfl | exact absurd hp (by decide))).mono hk0)

theorem State.modEth_moves (s : State) (p : Nat) (f : EthPort → EthPort) {k0 : Nat} {z0 : State} (hz : Moves k0 z0 s) (hk0 : 1048576 &&& k0 = 1048576) :
    Moves k0 z0 (State.modEth s p f) := by
  refine hz.trans ?_
  clear hz
  unfold State.modEth
  repeat' first
    | with_reducible exact Moves.refl _ _
    | with_reducible assumption
    | with_reducible exact mask_le hk0 (by decide)
    | with_reducible apply Moves.ite
    | with_reducible apply Moves.ite_fst
    | with_reducible (apply State.modNet_moves)
    | with_reducible (apply Moves.foldl)
    | with_reducible (apply Moves.foldl_fst)
    | with_reducible (apply Moves.of_eq; assumption)
    | with_reducible intro _
    | dsimp only
    | split

theorem State.modClaimNet_moves (s : State) (c : Nat) (f : ClaimNet → ClaimNet) {k0 : Nat} {z0 : State} (hz : Moves k0 z0 s) (hk0 : 1048576 &&& k0 = 1048576) :
    Moves k0 z0 (State.modClaimNet s c f) := by
  refine hz.trans ?_
  clear hz
  unfold State.modClaimNet
  repeat' first
    | with_reducible exact Moves.refl _ _
    | with_reducible assumption
    | with_reducible exact mask_le hk0 (by decide)
    | with_reducible apply Moves.ite
    | with_reducible apply Moves.ite_fst
    | with_reducible (apply State.modNet_moves)
    | with_reducible (apply Moves.foldl)
    | with_reducible (apply Moves.foldl_fst)
    | with_reducible (apply Moves.of_eq; assumption)
    | with_reducible intro _
    | dsimp only
    | split

theorem State.modQp_moves (s : State) (c : Nat) (h : Nat) (f : Qp → Qp) {k0 : Nat} {z0 : State} (hz : Moves k0 z0 s) (hk0 : 1048576 &&& k0 = 1048576) :
    Moves k0 z0 (State.modQp s c h f) := by
  refine hz.trans ?_
  clear hz
  unfold State.modQp
  repeat' first
    | with_reducible exact Moves.refl _ _
    | with_reducible assumption
    | with_reducible exact mask_le hk0 (by decide)
    | with_reducible apply Moves.ite
    | with_reducible apply Moves.ite_fst
    | with_reducible (apply State.modNet_moves)
    | with_reducible (apply Moves.foldl)
    | with_reducible (apply Moves.foldl_fst)
    | with_reducible (apply Moves.of_eq; assumption)
    | with_reducible intro _
    | dsimp only
    | split

theorem completionAdd_moves (s : State) (c : Nat) (n : Nat) {k0 : Nat} {z0 : State} (hz : Moves k0 z0 s) (hk0 : 50824 &&& k0 = 50824) :
    Moves k0 z0 (completionAdd s c n) := by
  refine hz.trans ?_
  clear hz
  unfold completionAdd
  repeat' first
    | with_reducible exact Moves.refl _ _
    | with_reducible assumption
    | with_reducible exact mask_le hk0 (by decide)
    | with_reducible apply Moves.ite
    | with_reducible apply Moves.ite_fst
    | with_reducible (apply agentAdd_moves)
    | with_reducible (apply windowOp_moves)
    | with_reducible (apply Moves.foldl)
    | with_reducible (apply Moves.foldl_fst)
    | with_reducible (apply Moves.of_eq; assumption)
    | with_reducible intro _
    | dsimp only
    | split

theorem completionPoison_moves (s : State) (c : Nat) (n : Nat) (cause : Nat) {k0 : Nat} {z0 : State} (hz : Moves k0 z0 s) (hk0 : 50824 &&& k0 = 50824) :
    Moves k0 z0 (completionPoison s c n cause) := by
  refine hz.trans ?_
  clear hz
  unfold completionPoison
  repeat' first
    | with_reducible exact Moves.refl _ _
    | with_reducible assumption
    | with_reducible exact mask_le hk0 (by decide)
    | with_reducible apply Moves.ite
    | with_reducible apply Moves.ite_fst
    | with_reducible (apply poisonTally_moves)
    | with_reducible (apply Moves.foldl)
    | with_reducible (apply Moves.foldl_fst)
    | with_reducible (apply Moves.of_eq; assumption)
    | with_reducible intro _
    | dsimp only
    | split

theorem writeCqe_moves (s : State) (c : Nat) (h : Nat) (q : Qp) (r : List Byte × Nat) {k0 : Nat} {z0 : State} (hz : Moves k0 z0 s) (hk0 : 1099400 &&& k0 = 1099400) :
    Moves k0 z0 (writeCqe s c h q r) := by
  refine hz.trans ?_
  clear hz
  unfold writeCqe
  repeat' first
    | with_reducible exact Moves.refl _ _
    | with_reducible assumption
    | with_reducible exact mask_le hk0 (by decide)
    | with_reducible apply Moves.ite
    | with_reducible apply Moves.ite_fst
    | with_reducible (apply State.modQp_moves)
    | with_reducible (apply completionAdd_moves)
    | with_reducible (apply completionPoison_moves)
    | with_reducible (apply postHost_moves)
    | with_reducible (apply Moves.foldl)
    | with_reducible (apply Moves.foldl_fst)
    | with_reducible (apply Moves.of_eq; assumption)
    | with_reducible intro _
    | dsimp only
    | split

theorem drainRecords_moves (c : Nat) (h : Nat) (x2 : Nat) (x3 : State) {k0 : Nat} {z0 : State} (hz : Moves k0 z0 x3) (hk0 : 1099400 &&& k0 = 1099400) :
    Moves k0 z0 (drainRecords c h x2 x3) := by
  refine hz.trans ?_
  clear hz
  fun_induction drainRecords c h x2 x3
  all_goals repeat' first
    | with_reducible exact Moves.refl _ _
    | with_reducible assumption
    | with_reducible (refine Moves.trans ?_ (by assumption))
    | with_reducible (refine Moves.trans ?_ (Moves.of_eq (by assumption) (by assumption)))
    | with_reducible exact mask_le hk0 (by decide)
    | with_reducible apply Moves.ite
    | with_reducible apply Moves.ite_fst
    | with_reducible (apply writeCqe_moves)
    | with_reducible (apply Moves.foldl)
    | with_reducible (apply Moves.foldl_fst)
    | with_reducible (apply Moves.of_eq; assumption)
    | with_reducible intro _
    | dsimp only
    | split

theorem pushRecord_moves (s : State) (c : Nat) (h : Nat) (rec_ : List Byte) (tally : Nat) {k0 : Nat} {z0 : State} (hz : Moves k0 z0 s) (hk0 : 1099400 &&& k0 = 1099400) :
    Moves k0 z0 (pushRecord s c h rec_ tally) := by
  refine hz.trans ?_
  clear hz
  unfold pushRecord
  repeat' first
    | with_reducible exact Moves.refl _ _
    | with_reducible assumption
    | with_reducible exact mask_le hk0 (by decide)
    | with_reducible apply Moves.ite
    | with_reducible apply Moves.ite_fst
    | with_reducible (apply State.modQp_moves)
    | with_reducible (apply drainRecords_moves)
    | with_reducible (apply Moves.foldl)
    | with_reducible (apply Moves.foldl_fst)
    | with_reducible (apply Moves.of_eq; assumption)
    | with_reducible intro _
    | dsimp only
    | split

theorem failWqe_moves (s : State) (c : Nat) (h : Nat) (recv : Bool) (cause : Nat) (w : Wqe) {k0 : Nat} {z0 : State} (hz : Moves k0 z0 s) (hk0 : 1099400 &&& k0 = 1099400) :
    Moves k0 z0 (failWqe s c h recv cause w) := by
  refine hz.trans ?_
  clear hz
  unfold failWqe
  repeat' first
    | with_reducible exact Moves.refl _ _
    | with_reducible assumption
    | with_reducible exact mask_le hk0 (by decide)
    | with_reducible apply Moves.ite
    | with_reducible apply Moves.ite_fst
    | with_reducible (apply completionPoison_moves)
    | with_reducible (apply pushRecord_moves)
    | with_reducible (apply Moves.foldl)
    | with_reducible (apply Moves.foldl_fst)
    | with_reducible (apply Moves.of_eq; assumption)
    | with_reducible intro _
    | dsimp only
    | split

theorem enterErr_moves (s : State) (c : Nat) (h : Nat) {k0 : Nat} {z0 : State} (hz : Moves k0 z0 s) (hk0 : 1099400 &&& k0 = 1099400) :
    Moves k0 z0 (enterErr s c h) := by
  refine hz.trans ?_
  clear hz
  unfold enterErr
  repeat' first
    | with_reducible exact Moves.refl _ _
    | with_reducible assumption
    | with_reducible exact mask_le hk0 (by decide)
    | with_reducible apply Moves.ite
    | with_reducible apply Moves.ite_fst
    | with_reducible (apply State.modQp_moves)
    | with_reducible (apply failWqe_moves)
    | with_reducible (apply Moves.foldl)
    | with_reducible (apply Moves.foldl_fst)
    | with_reducible (apply Moves.of_eq; assumption)
    | with_reducible intro _
    | dsimp only
    | split

theorem settleErr_moves (s : State) (c : Nat) (h : Nat) {k0 : Nat} {z0 : State} (hz : Moves k0 z0 s) (hk0 : 1099400 &&& k0 = 1099400) :
    Moves k0 z0 (settleErr s c h) := by
  refine hz.trans ?_
  clear hz
  unfold settleErr
  repeat' first
    | with_reducible exact Moves.refl _ _
    | with_reducible assumption
    | with_reducible exact mask_le hk0 (by decide)
    | with_reducible apply Moves.ite
    | with_reducible apply Moves.ite_fst
    | with_reducible (apply enterErr_moves)
    | with_reducible (apply Moves.foldl)
    | with_reducible (apply Moves.foldl_fst)
    | with_reducible (apply Moves.of_eq; assumption)
    | with_reducible intro _
    | dsimp only
    | split

theorem failEntry_moves (s : State) (c : Nat) (h : Nat) (recv : Bool) (cause : Nat) (w : Wqe) {k0 : Nat} {z0 : State} (hz : Moves k0 z0 s) (hk0 : 1099400 &&& k0 = 1099400) :
    Moves k0 z0 (failEntry s c h recv cause w) := by
  refine hz.trans ?_
  clear hz
  unfold failEntry
  repeat' first
    | with_reducible exact Moves.refl _ _
    | with_reducible assumption
    | with_reducible exact mask_le hk0 (by decide)
    | with_reducible apply Moves.ite
    | with_reducible apply Moves.ite_fst
    | with_reducible (apply enterErr_moves)
    | with_reducible (apply failWqe_moves)
    | with_reducible (apply Moves.foldl)
    | with_reducible (apply Moves.foldl_fst)
    | with_reducible (apply Moves.of_eq; assumption)
    | with_reducible intro _
    | dsimp only
    | split

theorem completeWqe_moves (s : State) (c : Nat) (h : Nat) (w : Wqe) {k0 : Nat} {z0 : State} (hz : Moves k0 z0 s) (hk0 : 1099400 &&& k0 = 1099400) :
    Moves k0 z0 (completeWqe s c h w) := by
  refine hz.trans ?_
  clear hz
  unfold completeWqe
  repeat' first
    | with_reducible exact Moves.refl _ _
    | with_reducible assumption
    | with_reducible exact mask_le hk0 (by decide)
    | with_reducible apply Moves.ite
    | with_reducible apply Moves.ite_fst
    | with_reducible (apply completionAdd_moves)
    | with_reducible (apply pushRecord_moves)
    | with_reducible (apply settleErr_moves)
    | with_reducible (apply Moves.foldl)
    | with_reducible (apply Moves.foldl_fst)
    | with_reducible (apply Moves.of_eq; assumption)
    | with_reducible intro _
    | dsimp only
    | split

theorem sendRoce_moves (s : State) (q : Qp) (kind : Nat) (dscp : Nat) (fields : List Nat) (payload : List Byte) {k0 : Nat} {z0 : State} (hz : Moves k0 z0 s) (hk0 : 1048584 &&& k0 = 1048584) :
    Moves k0 z0 (sendRoce s q kind dscp fields payload) := by
  refine hz.trans ?_
  clear hz
  unfold sendRoce
  repeat' first
    | with_reducible exact Moves.refl _ _
    | with_reducible assumption
    | with_reducible exact mask_le hk0 (by decide)
    | with_reducible apply Moves.ite
    | with_reducible apply Moves.ite_fst
    | with_reducible (apply State.emit_moves)
    | with_reducible (apply State.modEth_moves)
    | with_reducible (apply Moves.foldl)
    | with_reducible (apply Moves.foldl_fst)
    | with_reducible (apply Moves.of_eq; assumption)
    | with_reducible intro _
    | dsimp only
    | split

theorem sendRequest_moves (s : State) (q : Qp) (w : Wqe) {k0 : Nat} {z0 : State} (hz : Moves k0 z0 s) (hk0 : 1048584 &&& k0 = 1048584) :
    Moves k0 z0 (sendRequest s q w) := by
  refine hz.trans ?_
  clear hz
  unfold sendRequest
  repeat' first
    | with_reducible exact Moves.refl _ _
    | with_reducible assumption
    | with_reducible exact mask_le hk0 (by decide)
    | with_reducible apply Moves.ite
    | with_reducible apply Moves.ite_fst
    | with_reducible (apply sendRoce_moves)
    | with_reducible (apply Moves.foldl)
    | with_reducible (apply Moves.foldl_fst)
    | with_reducible (apply Moves.of_eq; assumption)
    | with_reducible intro _
    | dsimp only
    | split

theorem startEntry_moves (s : State) (c : Nat) (h : Nat) (w : Wqe) {k0 : Nat} {z0 : State} (hz : Moves k0 z0 s) (hk0 : 1370056 &&& k0 = 1370056) :
    Moves k0 z0 (startEntry s c h w) := by
  refine hz.trans ?_
  clear hz
  unfold startEntry
  repeat' first
    | with_reducible exact Moves.refl _ _
    | with_reducible assumption
    | with_reducible exact mask_le hk0 (by decide)
    | with_reducible apply Moves.ite
    | with_reducible apply Moves.ite_fst
    | with_reducible (apply State.modQp_moves)
    | with_reducible (apply failEntry_moves)
    | with_reducible (apply readClaim_moves)
    | with_reducible (apply readClaim_pmoves; assumption)
    | with_reducible (apply sendRequest_moves)
    | with_reducible (apply Moves.foldl)
    | with_reducible (apply Moves.foldl_fst)
    | with_reducible (apply Moves.of_eq; assumption)
    | with_reducible intro _
    | dsimp only
    | split

theorem startWaiting_moves (c : Nat) (h : Nat) (x2 : Nat) (x3 : State) {k0 : Nat} {z0 : State} (hz : Moves k0 z0 x3) (hk0 : 1370056 &&& k0 = 1370056) :
    Moves k0 z0 (startWaiting c h x2 x3) := by
  refine hz.trans ?_
  clear hz
  fun_induction startWaiting c h x2 x3
  all_goals repeat' first
    | with_reducible exact Moves.refl _ _
    | with_reducible assumption
    | with_reducible (refine Moves.trans ?_ (by assumption))
    | with_reducible (refine Moves.trans ?_ (Moves.of_eq (by assumption) (by assumption)))
    | with_reducible exact mask_le hk0 (by decide)
    | with_reducible apply Moves.ite
    | with_reducible apply Moves.ite_fst
    | with_reducible (apply State.modQp_moves)
    | with_reducible (apply startEntry_moves)
    | with_reducible (apply Moves.foldl)
    | with_reducible (apply Moves.foldl_fst)
    | with_reducible (apply Moves.of_eq; assumption)
    | with_reducible intro _
    | dsimp only
    | split

theorem readWqe_moves (s : State) (c : Nat) (base : Nat) (idx : Nat) (r : HostResp) (payload : HostResp) {k0 : Nat} {z0 : State} (hz : Moves k0 z0 s) (hk0 : 524296 &&& k0 = 524296) :
    Moves k0 z0 (readWqe s c base idx r payload).1 := by
  refine hz.trans ?_
  clear hz
  unfold readWqe
  repeat' first
    | with_reducible exact Moves.refl _ _
    | with_reducible assumption
    | with_reducible exact mask_le hk0 (by decide)
    | with_reducible apply Moves.ite
    | with_reducible apply Moves.ite_fst
    | with_reducible (apply readHost_moves)
    | with_reducible (apply readHost_pmoves; assumption)
    | with_reducible (apply Moves.foldl)
    | with_reducible (apply Moves.foldl_fst)
    | with_reducible (apply Moves.of_eq; assumption)
    | with_reducible intro _
    | dsimp only
    | split

theorem readWqe_pmoves (s : State) (c : Nat) (base : Nat) (idx : Nat) (r : HostResp) (payload : HostResp) {z1 : State} {y1 : Wqe} (he : (readWqe s c base idx r payload) = (z1, y1)) {k0 : Nat} {z0 : State} (hz : Moves k0 z0 s) (hk0 : 524296 &&& k0 = 524296) :
    Moves k0 z0 z1 := by
  simpa only [he] using readWqe_moves s c base idx r payload hz hk0

theorem runSq_moves (c : Nat) (h : Nat) (x2 : List (HostResp × HostResp)) (x3 : State) {k0 : Nat} {z0 : State} (hz : Moves k0 z0 x3) (hk0 : 1894344 &&& k0 = 1894344) :
    Moves k0 z0 (runSq c h x2 x3) := by
  refine hz.trans ?_
  clear hz
  fun_induction runSq c h x2 x3
  all_goals repeat' first
    | with_reducible exact Moves.refl _ _
    | with_reducible assumption
    | with_reducible (refine Moves.trans ?_ (by assumption))
    | with_reducible (refine Moves.trans ?_ (Moves.of_eq (by assumption) (by assumption)))
    | with_reducible exact mask_le hk0 (by decide)
    | with_reducible apply Moves.ite
    | with_reducible apply Moves.ite_fst
    | with_reducible (apply State.modQp_moves)
    | with_reducible (apply drainRecords_moves)
    | with_reducible (apply failWqe_moves)
    | with_reducible (apply readWqe_moves)
    | with_reducible (apply readWqe_pmoves; assumption)
    | with_reducible (apply startWaiting_moves)
    | with_reducible (apply Moves.foldl)
    | with_reducible (apply Moves.foldl_fst)
    | with_reducible (apply Moves.of_eq; assumption)
    | with_reducible intro _
    | dsimp only
    | split

theorem readRq_moves (c : Nat) (h : Nat) (x2 : List HostResp) (x3 : State) {k0 : Nat} {z0 : State} (hz : Moves k0 z0 x3) (hk0 : 1623688 &&& k0 = 1623688) :
    Moves k0 z0 (readRq c h x2 x3) := by
  refine hz.trans ?_
  clear hz
  fun_induction readRq c h x2 x3
  all_goals repeat' first
    | with_reducible exact Moves.refl _ _
    | with_reducible assumption
    | with_reducible (refine Moves.trans ?_ (by assumption))
    | with_reducible (refine Moves.trans ?_ (Moves.of_eq (by assumption) (by assumption)))
    | with_reducible exact mask_le hk0 (by decide)
    | with_reducible apply Moves.ite
    | with_reducible apply Moves.ite_fst
    | with_reducible (apply State.modQp_moves)
    | with_reducible (apply failWqe_moves)
    | with_reducible (apply readWqe_moves)
    | with_reducible (apply readWqe_pmoves; assumption)
    | with_reducible (apply Moves.foldl)
    | with_reducible (apply Moves.foldl_fst)
    | with_reducible (apply Moves.of_eq; assumption)
    | with_reducible intro _
    | dsimp only
    | split

theorem sqDoorbell_moves (s : State) (c : Nat) (h : Nat) (v : Nat) (feeds : List (HostResp × HostResp)) {k0 : Nat} {z0 : State} (hz : Moves k0 z0 s) (hk0 : 1894344 &&& k0 = 1894344) :
    Moves k0 z0 (sqDoorbell s c h v feeds) := by
  refine hz.trans ?_
  clear hz
  unfold sqDoorbell
  repeat' first
    | with_reducible exact Moves.refl _ _
    | with_reducible assumption
    | with_reducible exact mask_le hk0 (by decide)
    | with_reducible apply Moves.ite
    | with_reducible apply Moves.ite_fst
    | with_reducible (apply State.modQp_moves)
    | with_reducible (apply runSq_moves)
    | with_reducible (apply Moves.foldl)
    | with_reducible (apply Moves.foldl_fst)
    | with_reducible (apply Moves.of_eq; assumption)
    | with_reducible intro _
    | dsimp only
    | split

theorem rqDoorbell_moves (s : State) (c : Nat) (h : Nat) (v : Nat) (feeds : List HostResp) {k0 : Nat} {z0 : State} (hz : Moves k0 z0 s) (hk0 : 1623688 &&& k0 = 1623688) :
    Moves k0 z0 (rqDoorbell s c h v feeds) := by
  refine hz.trans ?_
  clear hz
  unfold rqDoorbell
  repeat' first
    | with_reducible exact Moves.refl _ _
    | with_reducible assumption
    | with_reducible exact mask_le hk0 (by decide)
    | with_reducible apply Moves.ite
    | with_reducible apply Moves.ite_fst
    | with_reducible (apply State.modQp_moves)
    | with_reducible (apply readRq_moves)
    | with_reducible (apply Moves.foldl)
    | with_reducible (apply Moves.foldl_fst)
    | with_reducible (apply Moves.of_eq; assumption)
    | with_reducible intro _
    | dsimp only
    | split

theorem cqConsumed_moves (s : State) (c : Nat) (h : Nat) (v : Nat) (feeds : List (HostResp × HostResp)) {k0 : Nat} {z0 : State} (hz : Moves k0 z0 s) (hk0 : 1894344 &&& k0 = 1894344) :
    Moves k0 z0 (cqConsumed s c h v feeds) := by
  refine hz.trans ?_
  clear hz
  unfold cqConsumed
  repeat' first
    | with_reducible exact Moves.refl _ _
    | with_reducible assumption
    | with_reducible exact mask_le hk0 (by decide)
    | with_reducible apply Moves.ite
    | with_reducible apply Moves.ite_fst
    | with_reducible (apply State.modQp_moves)
    | with_reducible (apply runSq_moves)
    | with_reducible (apply Moves.foldl)
    | with_reducible (apply Moves.foldl_fst)
    | with_reducible (apply Moves.of_eq; assumption)
    | with_reducible intro _
    | dsimp only
    | split

theorem placeRead_moves (s : State) (c : Nat) (w : Wqe) (data : List Byte) {k0 : Nat} {z0 : State} (hz : Moves k0 z0 s) (hk0 : 271816 &&& k0 = 271816) :
    Moves k0 z0 (placeRead s c w data).1 := by
  refine hz.trans ?_
  clear hz
  unfold placeRead
  repeat' first
    | with_reducible exact Moves.refl _ _
    | with_reducible assumption
    | with_reducible exact mask_le hk0 (by decide)
    | with_reducible apply Moves.ite
    | with_reducible apply Moves.ite_fst
    | with_reducible (apply postHost_moves)
    | with_reducible (apply writeClaim_moves)
    | with_reducible (apply writeClaim_pmoves; assumption)
    | with_reducible (apply Moves.foldl)
    | with_reducible (apply Moves.foldl_fst)
    | with_reducible (apply Moves.of_eq; assumption)
    | with_reducible intro _
    | dsimp only
    | split

theorem placeRead_pmoves (s : State) (c : Nat) (w : Wqe) (data : List Byte) {z1 : State} {y1 : ReadEnd Unit} (he : (placeRead s c w data) = (z1, y1)) {k0 : Nat} {z0 : State} (hz : Moves k0 z0 s) (hk0 : 271816 &&& k0 = 271816) :
    Moves k0 z0 z1 := by
  simpa only [he] using placeRead_moves s c w data hz hk0

theorem ackEntries_moves (c : Nat) (h : Nat) (psn : Nat) (x3 : Nat) (x4 : List (List Byte)) (x5 : State) {k0 : Nat} {z0 : State} (hz : Moves k0 z0 x5) (hk0 : 1370056 &&& k0 = 1370056) :
    Moves k0 z0 (ackEntries c h psn x3 x4 x5) := by
  refine hz.trans ?_
  clear hz
  fun_induction ackEntries c h psn x3 x4 x5
  all_goals repeat' first
    | with_reducible exact Moves.refl _ _
    | with_reducible assumption
    | with_reducible (refine Moves.trans ?_ (by assumption))
    | with_reducible (refine Moves.trans ?_ (Moves.of_eq (by assumption) (by assumption)))
    | with_reducible exact mask_le hk0 (by decide)
    | with_reducible apply Moves.ite
    | with_reducible apply Moves.ite_fst
    | with_reducible (apply State.modQp_moves)
    | with_reducible (apply completeWqe_moves)
    | with_reducible (apply failEntry_moves)
    | with_reducible (apply placeRead_moves)
    | with_reducible (apply placeRead_pmoves; assumption)
    | with_reducible (apply Moves.foldl)
    | with_reducible (apply Moves.foldl_fst)
    | with_reducible (apply Moves.of_eq; assumption)
    | with_reducible intro _
    | dsimp only
    | split

theorem roceAck_moves (s : State) (c : Nat) (h : Nat) (psn : Nat) (reads : List (List Byte)) (feeds : List (HostResp × HostResp)) {k0 : Nat} {z0 : State} (hz : Moves k0 z0 s) (hk0 : 1894344 &&& k0 = 1894344) :
    Moves k0 z0 (roceAck s c h psn reads feeds) := by
  refine hz.trans ?_
  clear hz
  unfold roceAck
  repeat' first
    | with_reducible exact Moves.refl _ _
    | with_reducible assumption
    | with_reducible exact mask_le hk0 (by decide)
    | with_reducible apply Moves.ite
    | with_reducible apply Moves.ite_fst
    | with_reducible (apply ackEntries_moves)
    | with_reducible (apply runSq_moves)
    | with_reducible (apply Moves.foldl)
    | with_reducible (apply Moves.foldl_fst)
    | with_reducible (apply Moves.of_eq; assumption)
    | with_reducible intro _
    | dsimp only
    | split

theorem resendAll_moves (s : State) (c : Nat) (h : Nat) {k0 : Nat} {z0 : State} (hz : Moves k0 z0 s) (hk0 : 1048584 &&& k0 = 1048584) :
    Moves k0 z0 (resendAll s c h) := by
  refine hz.trans ?_
  clear hz
  unfold resendAll
  repeat' first
    | with_reducible exact Moves.refl _ _
    | with_reducible assumption
    | with_reducible exact mask_le hk0 (by decide)
    | with_reducible apply Moves.ite
    | with_reducible apply Moves.ite_fst
    | with_reducible (apply sendRequest_moves)
    | with_reducible (apply Moves.foldl)
    | with_reducible (apply Moves.foldl_fst)
    | with_reducible (apply Moves.of_eq; assumption)
    | with_reducible intro _
    | dsimp only
    | split

theorem retryHead_moves (s : State) (c : Nat) (h : Nat) {k0 : Nat} {z0 : State} (hz : Moves k0 z0 s) (hk0 : 1099400 &&& k0 = 1099400) :
    Moves k0 z0 (retryHead s c h) := by
  refine hz.trans ?_
  clear hz
  unfold retryHead
  repeat' first
    | with_reducible exact Moves.refl _ _
    | with_reducible assumption
    | with_reducible exact mask_le hk0 (by decide)
    | with_reducible apply Moves.ite
    | with_reducible apply Moves.ite_fst
    | with_reducible (apply State.modQp_moves)
    | with_reducible (apply failEntry_moves)
    | with_reducible (apply resendAll_moves)
    | with_reducible (apply Moves.foldl)
    | with_reducible (apply Moves.foldl_fst)
    | with_reducible (apply Moves.of_eq; assumption)
    | with_reducible intro _
    | dsimp only
    | split

theorem roceNak_moves (s : State) (c : Nat) (h : Nat) (psn : Nat) (code : Nat) (reads : List (List Byte)) {k0 : Nat} {z0 : State} (hz : Moves k0 z0 s) (hk0 : 1370056 &&& k0 = 1370056) :
    Moves k0 z0 (roceNak s c h psn code reads) := by
  refine hz.trans ?_
  clear hz
  unfold roceNak
  repeat' first
    | with_reducible exact Moves.refl _ _
    | with_reducible assumption
    | with_reducible exact mask_le hk0 (by decide)
    | with_reducible apply Moves.ite
    | with_reducible apply Moves.ite_fst
    | with_reducible (apply State.modQp_moves)
    | with_reducible (apply ackEntries_moves)
    | with_reducible (apply failEntry_moves)
    | with_reducible (apply retryHead_moves)
    | with_reducible (apply Moves.foldl)
    | with_reducible (apply Moves.foldl_fst)
    | with_reducible (apply Moves.of_eq; assumption)
    | with_reducible intro _
    | dsimp only
    | split

theorem ackTimeout_moves (s : State) (c : Nat) (h : Nat) {k0 : Nat} {z0 : State} (hz : Moves k0 z0 s) (hk0 : 1099400 &&& k0 = 1099400) :
    Moves k0 z0 (ackTimeout s c h) := by
  refine hz.trans ?_
  clear hz
  unfold ackTimeout
  repeat' first
    | with_reducible exact Moves.refl _ _
    | with_reducible assumption
    | with_reducible exact mask_le hk0 (by decide)
    | with_reducible apply Moves.ite
    | with_reducible apply Moves.ite_fst
    | with_reducible (apply retryHead_moves)
    | with_reducible (apply Moves.foldl)
    | with_reducible (apply Moves.foldl_fst)
    | with_reducible (apply Moves.of_eq; assumption)
    | with_reducible intro _
    | dsimp only
    | split

theorem rnrExpiry_moves (s : State) (c : Nat) (h : Nat) {k0 : Nat} {z0 : State} (hz : Moves k0 z0 s) (hk0 : 1099400 &&& k0 = 1099400) :
    Moves k0 z0 (rnrExpiry s c h) := by
  refine hz.trans ?_
  clear hz
  unfold rnrExpiry
  repeat' first
    | with_reducible exact Moves.refl _ _
    | with_reducible assumption
    | with_reducible exact mask_le hk0 (by decide)
    | with_reducible apply Moves.ite
    | with_reducible apply Moves.ite_fst
    | with_reducible (apply State.modQp_moves)
    | with_reducible (apply failEntry_moves)
    | with_reducible (apply resendAll_moves)
    | with_reducible (apply Moves.foldl)
    | with_reducible (apply Moves.foldl_fst)
    | with_reducible (apply Moves.of_eq; assumption)
    | with_reducible intro _
    | dsimp only
    | split

theorem sendAck_moves (s : State) (q : Qp) (psn : Nat) {k0 : Nat} {z0 : State} (hz : Moves k0 z0 s) (hk0 : 1048584 &&& k0 = 1048584) :
    Moves k0 z0 (sendAck s q psn) := by
  refine hz.trans ?_
  clear hz
  unfold sendAck
  repeat' first
    | with_reducible exact Moves.refl _ _
    | with_reducible assumption
    | with_reducible exact mask_le hk0 (by decide)
    | with_reducible apply Moves.ite
    | with_reducible apply Moves.ite_fst
    | with_reducible (apply sendRoce_moves)
    | with_reducible (apply Moves.foldl)
    | with_reducible (apply Moves.foldl_fst)
    | with_reducible (apply Moves.of_eq; assumption)
    | with_reducible intro _
    | dsimp only
    | split

theorem sendNakR_moves (s : State) (q : Qp) (psn : Nat) (code : Nat) {k0 : Nat} {z0 : State} (hz : Moves k0 z0 s) (hk0 : 1048584 &&& k0 = 1048584) :
    Moves k0 z0 (sendNakR s q psn code) := by
  refine hz.trans ?_
  clear hz
  unfold sendNakR
  repeat' first
    | with_reducible exact Moves.refl _ _
    | with_reducible assumption
    | with_reducible exact mask_le hk0 (by decide)
    | with_reducible apply Moves.ite
    | with_reducible apply Moves.ite_fst
    | with_reducible (apply sendRoce_moves)
    | with_reducible (apply Moves.foldl)
    | with_reducible (apply Moves.foldl_fst)
    | with_reducible (apply Moves.of_eq; assumption)
    | with_reducible intro _
    | dsimp only
    | split

theorem sendRnr_moves (s : State) (q : Qp) (psn : Nat) {k0 : Nat} {z0 : State} (hz : Moves k0 z0 s) (hk0 : 1048584 &&& k0 = 1048584) :
    Moves k0 z0 (sendRnr s q psn) := by
  refine hz.trans ?_
  clear hz
  unfold sendRnr
  repeat' first
    | with_reducible exact Moves.refl _ _
    | with_reducible assumption
    | with_reducible exact mask_le hk0 (by decide)
    | with_reducible apply Moves.ite
    | with_reducible apply Moves.ite_fst
    | with_reducible (apply sendRoce_moves)
    | with_reducible (apply Moves.foldl)
    | with_reducible (apply Moves.foldl_fst)
    | with_reducible (apply Moves.of_eq; assumption)
    | with_reducible intro _
    | dsimp only
    | split

theorem atPsn_moves (s : State) (c : Nat) (h : Nat) (psn : Nat) (k : Qp → State) {k0 : Nat} {z0 : State} (hz : Moves k0 z0 s) (hk0 : 1048584 &&& k0 = 1048584) (hk_k : ∀ (v0 : Qp), Moves k0 z0 (k v0)) :
    Moves k0 z0 (atPsn s c h psn k) := by
  unfold atPsn
  repeat' first
    | with_reducible exact Moves.refl _ _
    | with_reducible assumption
    | with_reducible exact mask_le hk0 (by decide)
    | with_reducible apply Moves.ite
    | with_reducible apply Moves.ite_fst
    | with_reducible (apply hk_k)
    | with_reducible (apply sendAck_moves)
    | with_reducible (apply sendNakR_moves)
    | with_reducible (apply Moves.foldl)
    | with_reducible (apply Moves.foldl_fst)
    | with_reducible (apply Moves.of_eq; assumption)
    | with_reducible intro _
    | dsimp only
    | split

theorem acceptPsn_moves (s : State) (c : Nat) (h : Nat) (packets : Nat) (q : Qp) {k0 : Nat} {z0 : State} (hz : Moves k0 z0 s) (hk0 : 1048584 &&& k0 = 1048584) :
    Moves k0 z0 (acceptPsn s c h packets q) := by
  refine hz.trans ?_
  clear hz
  unfold acceptPsn
  repeat' first
    | with_reducible exact Moves.refl _ _
    | with_reducible assumption
    | with_reducible exact mask_le hk0 (by decide)
    | with_reducible apply Moves.ite
    | with_reducible apply Moves.ite_fst
    | with_reducible (apply State.modQp_moves)
    | with_reducible (apply sendAck_moves)
    | with_reducible (apply Moves.foldl)
    | with_reducible (apply Moves.foldl_fst)
    | with_reducible (apply Moves.of_eq; assumption)
    | with_reducible intro _
    | dsimp only
    | split

theorem placeRecv_moves (s : State) (c : Nat) (w : Wqe) (payload : List Byte) {k0 : Nat} {z0 : State} (hz : Moves k0 z0 s) (hk0 : 271816 &&& k0 = 271816) :
    Moves k0 z0 (placeRecv s c w payload).1 := by
  refine hz.trans ?_
  clear hz
  unfold placeRecv
  repeat' first
    | with_reducible exact Moves.refl _ _
    | with_reducible assumption
    | with_reducible exact mask_le hk0 (by decide)
    | with_reducible apply Moves.ite
    | with_reducible apply Moves.ite_fst
    | with_reducible (apply postHost_moves)
    | with_reducible (apply writeClaim_moves)
    | with_reducible (apply writeClaim_pmoves; assumption)
    | with_reducible (apply Moves.foldl)
    | with_reducible (apply Moves.foldl_fst)
    | with_reducible (apply Moves.of_eq; assumption)
    | with_reducible intro _
    | dsimp only
    | split

theorem placeRecv_pmoves (s : State) (c : Nat) (w : Wqe) (payload : List Byte) {z1 : State} {y1 : ReadEnd Unit} (he : (placeRecv s c w payload) = (z1, y1)) {k0 : Nat} {z0 : State} (hz : Moves k0 z0 s) (hk0 : 271816 &&& k0 = 271816) :
    Moves k0 z0 z1 := by
  simpa only [he] using placeRecv_moves s c w payload hz hk0

theorem consumeRecv_moves (s : State) (c : Nat) (h : Nat) (psn : Nat) (packets : Nat) (payload : List Byte) (len : Nat) (imm : Option Nat) (q : Qp) {k0 : Nat} {z0 : State} (hz : Moves k0 z0 s) (hk0 : 1370056 &&& k0 = 1370056) :
    Moves k0 z0 (consumeRecv s c h psn packets payload len imm q) := by
  refine hz.trans ?_
  clear hz
  unfold consumeRecv
  repeat' first
    | with_reducible exact Moves.refl _ _
    | with_reducible assumption
    | with_reducible exact mask_le hk0 (by decide)
    | with_reducible apply Moves.ite
    | with_reducible apply Moves.ite_fst
    | with_reducible (apply State.modQp_moves)
    | with_reducible (apply acceptPsn_moves)
    | with_reducible (apply failEntry_moves)
    | with_reducible (apply placeRecv_moves)
    | with_reducible (apply placeRecv_pmoves; assumption)
    | with_reducible (apply pushRecord_moves)
    | with_reducible (apply sendNakR_moves)
    | with_reducible (apply sendRnr_moves)
    | with_reducible (apply settleErr_moves)
    | with_reducible (apply Moves.foldl)
    | with_reducible (apply Moves.foldl_fst)
    | with_reducible (apply Moves.of_eq; assumption)
    | with_reducible intro _
    | dsimp only
    | split

theorem roceSend_moves (s : State) (c : Nat) (h : Nat) (psn : Nat) (payload : List Byte) (imm : Option Nat) (feeds : List HostResp) {k0 : Nat} {z0 : State} (hz : Moves k0 z0 s) (hk0 : 1894344 &&& k0 = 1894344) :
    Moves k0 z0 (roceSend s c h psn payload imm feeds) := by
  refine hz.trans ?_
  clear hz
  unfold roceSend
  repeat' first
    | with_reducible exact Moves.refl _ _
    | with_reducible assumption
    | with_reducible exact mask_le hk0 (by decide)
    | with_reducible apply Moves.ite
    | with_reducible apply Moves.ite_fst
    | with_reducible (apply atPsn_moves)
    | with_reducible (apply consumeRecv_moves)
    | with_reducible (apply readRq_moves)
    | with_reducible (apply Moves.foldl)
    | with_reducible (apply Moves.foldl_fst)
    | with_reducible (apply Moves.of_eq; assumption)
    | with_reducible intro _
    | dsimp only
    | split

theorem refuseRemote_moves (s : State) (c : Nat) (h : Nat) (psn : Nat) (q : Qp) {k0 : Nat} {z0 : State} (hz : Moves k0 z0 s) (hk0 : 1099400 &&& k0 = 1099400) :
    Moves k0 z0 (refuseRemote s c h psn q) := by
  refine hz.trans ?_
  clear hz
  unfold refuseRemote
  repeat' first
    | with_reducible exact Moves.refl _ _
    | with_reducible assumption
    | with_reducible exact mask_le hk0 (by decide)
    | with_reducible apply Moves.ite
    | with_reducible apply Moves.ite_fst
    | with_reducible (apply enterErr_moves)
    | with_reducible (apply sendNakR_moves)
    | with_reducible (apply Moves.foldl)
    | with_reducible (apply Moves.foldl_fst)
    | with_reducible (apply Moves.of_eq; assumption)
    | with_reducible intro _
    | dsimp only
    | split

theorem rdmaWrite_moves (s : State) (c : Nat) (h : Nat) (psn : Nat) (rkey : Nat) (addr : Nat) (payload : List Byte) (imm : Option Nat) (feeds : List HostResp) {k0 : Nat} {z0 : State} (hz : Moves k0 z0 s) (hk0 : 1894344 &&& k0 = 1894344) :
    Moves k0 z0 (rdmaWrite s c h psn rkey addr payload imm feeds) := by
  refine hz.trans ?_
  clear hz
  unfold rdmaWrite
  repeat' first
    | with_reducible exact Moves.refl _ _
    | with_reducible assumption
    | with_reducible exact mask_le hk0 (by decide)
    | with_reducible apply Moves.ite
    | with_reducible apply Moves.ite_fst
    | with_reducible (apply acceptPsn_moves)
    | with_reducible (apply atPsn_moves)
    | with_reducible (apply consumeRecv_moves)
    | with_reducible (apply postHost_moves)
    | with_reducible (apply readRq_moves)
    | with_reducible (apply refuseRemote_moves)
    | with_reducible (apply sendRnr_moves)
    | with_reducible (apply writeClaim_moves)
    | with_reducible (apply writeClaim_pmoves; assumption)
    | with_reducible (apply Moves.foldl)
    | with_reducible (apply Moves.foldl_fst)
    | with_reducible (apply Moves.of_eq; assumption)
    | with_reducible intro _
    | dsimp only
    | split

theorem rdmaRead_moves (s : State) (c : Nat) (h : Nat) (psn : Nat) (rkey : Nat) (addr : Nat) (len : Nat) (r0 : HostResp) {k0 : Nat} {z0 : State} (hz : Moves k0 z0 s) (hk0 : 1894344 &&& k0 = 1894344) :
    Moves k0 z0 (rdmaRead s c h psn rkey addr len r0) := by
  refine hz.trans ?_
  clear hz
  unfold rdmaRead
  repeat' first
    | with_reducible exact Moves.refl _ _
    | with_reducible assumption
    | with_reducible exact mask_le hk0 (by decide)
    | with_reducible apply Moves.ite
    | with_reducible apply Moves.ite_fst
    | with_reducible (apply State.modQp_moves)
    | with_reducible (apply atPsn_moves)
    | with_reducible (apply readClaim_moves)
    | with_reducible (apply readClaim_pmoves; assumption)
    | with_reducible (apply readHost_moves)
    | with_reducible (apply readHost_pmoves; assumption)
    | with_reducible (apply refuseRemote_moves)
    | with_reducible (apply sendRoce_moves)
    | with_reducible (apply Moves.foldl)
    | with_reducible (apply Moves.foldl_fst)
    | with_reducible (apply Moves.of_eq; assumption)
    | with_reducible intro _
    | dsimp only
    | split

theorem cnpReceived_moves (s : State) (c : Nat) (h : Nat) {k0 : Nat} {z0 : State} (hz : Moves k0 z0 s) (hk0 : 1048576 &&& k0 = 1048576) :
    Moves k0 z0 (cnpReceived s c h) := by
  refine hz.trans ?_
  clear hz
  unfold cnpReceived
  repeat' first
    | with_reducible exact Moves.refl _ _
    | with_reducible assumption
    | with_reducible exact mask_le hk0 (by decide)
    | with_reducible apply Moves.ite
    | with_reducible apply Moves.ite_fst
    | with_reducible (apply State.modQp_moves)
    | with_reducible (apply Moves.foldl)
    | with_reducible (apply Moves.foldl_fst)
    | with_reducible (apply Moves.of_eq; assumption)
    | with_reducible intro _
    | dsimp only
    | split

theorem cePacket_moves (s : State) (c : Nat) (h : Nat) {k0 : Nat} {z0 : State} (hz : Moves k0 z0 s) (hk0 : 1048584 &&& k0 = 1048584) :
    Moves k0 z0 (cePacket s c h) := by
  refine hz.trans ?_
  clear hz
  unfold cePacket
  repeat' first
    | with_reducible exact Moves.refl _ _
    | with_reducible assumption
    | with_reducible exact mask_le hk0 (by decide)
    | with_reducible apply Moves.ite
    | with_reducible apply Moves.ite_fst
    | with_reducible (apply State.modQp_moves)
    | with_reducible (apply sendRoce_moves)
    | with_reducible (apply Moves.foldl)
    | with_reducible (apply Moves.foldl_fst)
    | with_reducible (apply Moves.of_eq; assumption)
    | with_reducible intro _
    | dsimp only
    | split

theorem rateIncrease_moves (s : State) (c : Nat) (h : Nat) {k0 : Nat} {z0 : State} (hz : Moves k0 z0 s) (hk0 : 1048576 &&& k0 = 1048576) :
    Moves k0 z0 (rateIncrease s c h) := by
  refine hz.trans ?_
  clear hz
  unfold rateIncrease
  repeat' first
    | with_reducible exact Moves.refl _ _
    | with_reducible assumption
    | with_reducible exact mask_le hk0 (by decide)
    | with_reducible apply Moves.ite
    | with_reducible apply Moves.ite_fst
    | with_reducible (apply State.modQp_moves)
    | with_reducible (apply Moves.foldl)
    | with_reducible (apply Moves.foldl_fst)
    | with_reducible (apply Moves.of_eq; assumption)
    | with_reducible intro _
    | dsimp only
    | split

theorem pfcReceived_moves (s : State) (p : Nat) (priority : Nat) (xoff : Bool) {k0 : Nat} {z0 : State} (hz : Moves k0 z0 s) (hk0 : 1048584 &&& k0 = 1048584) :
    Moves k0 z0 (pfcReceived s p priority xoff) := by
  refine hz.trans ?_
  clear hz
  unfold pfcReceived
  repeat' first
    | with_reducible exact Moves.refl _ _
    | with_reducible assumption
    | with_reducible exact mask_le hk0 (by decide)
    | with_reducible apply Moves.ite
    | with_reducible apply Moves.ite_fst
    | with_reducible (apply State.emit_moves)
    | with_reducible (apply State.modEth_moves)
    | with_reducible (apply Moves.foldl)
    | with_reducible (apply Moves.foldl_fst)
    | with_reducible (apply Moves.of_eq; assumption)
    | with_reducible intro _
    | dsimp only
    | split

theorem qosWrite_moves (s : State) (v : Nat) {k0 : Nat} {z0 : State} (hz : Moves k0 z0 s) (hk0 : 1048584 &&& k0 = 1048584) :
    Moves k0 z0 (qosWrite s v) := by
  refine hz.trans ?_
  clear hz
  unfold qosWrite
  repeat' first
    | with_reducible exact Moves.refl _ _
    | with_reducible assumption
    | with_reducible exact mask_le hk0 (by decide)
    | with_reducible apply Moves.ite
    | with_reducible apply Moves.ite_fst
    | with_reducible (apply State.emit_moves)
    | with_reducible (apply State.modEth_moves)
    | with_reducible (apply State.modNet_moves)
    | with_reducible (apply Moves.foldl)
    | with_reducible (apply Moves.foldl_fst)
    | with_reducible (apply Moves.of_eq; assumption)
    | with_reducible intro _
    | dsimp only
    | split

theorem pfcFill_moves (s : State) (p : Nat) (fill : Nat) {k0 : Nat} {z0 : State} (hz : Moves k0 z0 s) (hk0 : 1048584 &&& k0 = 1048584) :
    Moves k0 z0 (pfcFill s p fill) := by
  refine hz.trans ?_
  clear hz
  unfold pfcFill
  repeat' first
    | with_reducible exact Moves.refl _ _
    | with_reducible assumption
    | with_reducible exact mask_le hk0 (by decide)
    | with_reducible apply Moves.ite
    | with_reducible apply Moves.ite_fst
    | with_reducible (apply State.emit_moves)
    | with_reducible (apply State.modEth_moves)
    | with_reducible (apply Moves.foldl)
    | with_reducible (apply Moves.foldl_fst)
    | with_reducible (apply Moves.of_eq; assumption)
    | with_reducible intro _
    | dsimp only
    | split

theorem dropFrame_moves (s : State) (p : Nat) {k0 : Nat} {z0 : State} (hz : Moves k0 z0 s) (hk0 : 1048576 &&& k0 = 1048576) :
    Moves k0 z0 (dropFrame s p) := by
  refine hz.trans ?_
  clear hz
  unfold dropFrame
  repeat' first
    | with_reducible exact Moves.refl _ _
    | with_reducible assumption
    | with_reducible exact mask_le hk0 (by decide)
    | with_reducible apply Moves.ite
    | with_reducible apply Moves.ite_fst
    | with_reducible (apply State.modEth_moves)
    | with_reducible (apply Moves.foldl)
    | with_reducible (apply Moves.foldl_fst)
    | with_reducible (apply Moves.of_eq; assumption)
    | with_reducible intro _
    | dsimp only
    | split

theorem rawReceive_moves (s : State) (p : Nat) (frame : List Byte) {k0 : Nat} {z0 : State} (hz : Moves k0 z0 s) (hk0 : 1048584 &&& k0 = 1048584) :
    Moves k0 z0 (rawReceive s p frame) := by
  refine hz.trans ?_
  clear hz
  unfold rawReceive
  repeat' first
    | with_reducible exact Moves.refl _ _
    | with_reducible assumption
    | with_reducible exact mask_le hk0 (by decide)
    | with_reducible apply Moves.ite
    | with_reducible apply Moves.ite_fst
    | with_reducible (apply State.modNet_moves)
    | with_reducible (apply dropFrame_moves)
    | with_reducible (apply postHost_moves)
    | with_reducible (apply Moves.foldl)
    | with_reducible (apply Moves.foldl_fst)
    | with_reducible (apply Moves.of_eq; assumption)
    | with_reducible intro _
    | dsimp only
    | split

theorem ethFrame_moves (s : State) (p : Nat) (good : Bool) (fill : Nat) (frame : List Byte) {k0 : Nat} {z0 : State} (hz : Moves k0 z0 s) (hk0 : 1048584 &&& k0 = 1048584) :
    Moves k0 z0 (ethFrame s p good fill frame) := by
  refine hz.trans ?_
  clear hz
  unfold ethFrame
  repeat' first
    | with_reducible exact Moves.refl _ _
    | with_reducible assumption
    | with_reducible exact mask_le hk0 (by decide)
    | with_reducible apply Moves.ite
    | with_reducible apply Moves.ite_fst
    | with_reducible (apply dropFrame_moves)
    | with_reducible (apply pfcFill_moves)
    | with_reducible (apply rawReceive_moves)
    | with_reducible (apply Moves.foldl)
    | with_reducible (apply Moves.foldl_fst)
    | with_reducible (apply Moves.of_eq; assumption)
    | with_reducible intro _
    | dsimp only
    | split

theorem rawRxWrite_moves (s : State) (v : Nat) {k0 : Nat} {z0 : State} (hz : Moves k0 z0 s) (hk0 : 1048576 &&& k0 = 1048576) :
    Moves k0 z0 (rawRxWrite s v) := by
  refine hz.trans ?_
  clear hz
  unfold rawRxWrite
  repeat' first
    | with_reducible exact Moves.refl _ _
    | with_reducible assumption
    | with_reducible exact mask_le hk0 (by decide)
    | with_reducible apply Moves.ite
    | with_reducible apply Moves.ite_fst
    | with_reducible (apply State.modNet_moves)
    | with_reducible (apply Moves.foldl)
    | with_reducible (apply Moves.foldl_fst)
    | with_reducible (apply Moves.of_eq; assumption)
    | with_reducible intro _
    | dsimp only
    | split

theorem rawSendSlot_moves (s : State) (slot : List Byte) {k0 : Nat} {z0 : State} (hz : Moves k0 z0 s) (hk0 : 1048584 &&& k0 = 1048584) :
    Moves k0 z0 (rawSendSlot s slot) := by
  refine hz.trans ?_
  clear hz
  unfold rawSendSlot
  repeat' first
    | with_reducible exact Moves.refl _ _
    | with_reducible assumption
    | with_reducible exact mask_le hk0 (by decide)
    | with_reducible apply Moves.ite
    | with_reducible apply Moves.ite_fst
    | with_reducible (apply State.emit_moves)
    | with_reducible (apply dropFrame_moves)
    | with_reducible (apply Moves.foldl)
    | with_reducible (apply Moves.foldl_fst)
    | with_reducible (apply Moves.of_eq; assumption)
    | with_reducible intro _
    | dsimp only
    | split

theorem rawSend_moves (x0 : List HostResp) (x1 : State) {k0 : Nat} {z0 : State} (hz : Moves k0 z0 x1) (hk0 : 1572872 &&& k0 = 1572872) :
    Moves k0 z0 (rawSend x0 x1) := by
  refine hz.trans ?_
  clear hz
  fun_induction rawSend x0 x1
  all_goals repeat' first
    | with_reducible exact Moves.refl _ _
    | with_reducible assumption
    | with_reducible (refine Moves.trans ?_ (by assumption))
    | with_reducible (refine Moves.trans ?_ (Moves.of_eq (by assumption) (by assumption)))
    | with_reducible exact mask_le hk0 (by decide)
    | with_reducible apply Moves.ite
    | with_reducible apply Moves.ite_fst
    | with_reducible (apply State.modNet_moves)
    | with_reducible (apply dropFrame_moves)
    | with_reducible (apply rawSendSlot_moves)
    | with_reducible (apply readHost_moves)
    | with_reducible (apply readHost_pmoves; assumption)
    | with_reducible (apply Moves.foldl)
    | with_reducible (apply Moves.foldl_fst)
    | with_reducible (apply Moves.of_eq; assumption)
    | with_reducible intro _
    | dsimp only
    | split

theorem rawTxWrite_moves (s : State) (v : Nat) (feeds : List HostResp) {k0 : Nat} {z0 : State} (hz : Moves k0 z0 s) (hk0 : 1572872 &&& k0 = 1572872) :
    Moves k0 z0 (rawTxWrite s v feeds) := by
  refine hz.trans ?_
  clear hz
  unfold rawTxWrite
  repeat' first
    | with_reducible exact Moves.refl _ _
    | with_reducible assumption
    | with_reducible exact mask_le hk0 (by decide)
    | with_reducible apply Moves.ite
    | with_reducible apply Moves.ite_fst
    | with_reducible (apply State.modNet_moves)
    | with_reducible (apply rawSend_moves)
    | with_reducible (apply Moves.foldl)
    | with_reducible (apply Moves.foldl_fst)
    | with_reducible (apply Moves.of_eq; assumption)
    | with_reducible intro _
    | dsimp only
    | split

theorem qpResult_moves (s : State) (c : Nat) (cause : Nat) {k0 : Nat} {z0 : State} (hz : Moves k0 z0 s) (hk0 : 1048576 &&& k0 = 1048576) :
    Moves k0 z0 (qpResult s c cause) := by
  refine hz.trans ?_
  clear hz
  unfold qpResult
  repeat' first
    | with_reducible exact Moves.refl _ _
    | with_reducible assumption
    | with_reducible exact mask_le hk0 (by decide)
    | with_reducible apply Moves.ite
    | with_reducible apply Moves.ite_fst
    | with_reducible (apply State.modClaimNet_moves)
    | with_reducible (apply Moves.foldl)
    | with_reducible (apply Moves.foldl_fst)
    | with_reducible (apply Moves.of_eq; assumption)
    | with_reducible intro _
    | dsimp only
    | split

theorem readCtx_moves (s : State) (c : Nat) (r : HostResp) {k0 : Nat} {z0 : State} (hz : Moves k0 z0 s) (hk0 : 524296 &&& k0 = 524296) :
    Moves k0 z0 (readCtx s c r).1 := by
  refine hz.trans ?_
  clear hz
  unfold readCtx
  repeat' first
    | with_reducible exact Moves.refl _ _
    | with_reducible assumption
    | with_reducible exact mask_le hk0 (by decide)
    | with_reducible apply Moves.ite
    | with_reducible apply Moves.ite_fst
    | with_reducible (apply readHost_moves)
    | with_reducible (apply readHost_pmoves; assumption)
    | with_reducible (apply Moves.foldl)
    | with_reducible (apply Moves.foldl_fst)
    | with_reducible (apply Moves.of_eq; assumption)
    | with_reducible intro _
    | dsimp only
    | split

theorem readCtx_pmoves (s : State) (c : Nat) (r : HostResp) {z1 : State} {y1 : Option (List Byte)} (he : (readCtx s c r) = (z1, y1)) {k0 : Nat} {z0 : State} (hz : Moves k0 z0 s) (hk0 : 524296 &&& k0 = 524296) :
    Moves k0 z0 z1 := by
  simpa only [he] using readCtx_moves s c r hz hk0

theorem qpGo_moves (s : State) (c : Nat) (op : Nat) (h : Nat) (hostWork : Bool) (run : State → State) {k0 : Nat} {z0 : State} (hz : Moves k0 z0 s) (hk0 : 1048576 &&& k0 = 1048576) (hk_run : ∀ (v0 : State), Moves k0 v0 (run v0)) :
    Moves k0 z0 (qpGo s c op h hostWork run) := by
  refine hz.trans ?_
  clear hz
  unfold qpGo
  repeat' first
    | with_reducible exact Moves.refl _ _
    | with_reducible assumption
    | with_reducible exact mask_le hk0 (by decide)
    | with_reducible apply Moves.ite
    | with_reducible apply Moves.ite_fst
    | with_reducible (refine Moves.trans ?_ (hk_run ..))
    | with_reducible (apply State.modClaimNet_moves)
    | with_reducible (apply Moves.foldl)
    | with_reducible (apply Moves.foldl_fst)
    | with_reducible (apply Moves.of_eq; assumption)
    | with_reducible intro _
    | dsimp only
    | split

theorem qpCreate_moves (s : State) (c : Nat) (r : HostResp) {k0 : Nat} {z0 : State} (hz : Moves k0 z0 s) (hk0 : 1572872 &&& k0 = 1572872) :
    Moves k0 z0 (qpCreate s c r) := by
  refine hz.trans ?_
  clear hz
  unfold qpCreate
  repeat' first
    | with_reducible exact Moves.refl _ _
    | with_reducible assumption
    | with_reducible exact mask_le hk0 (by decide)
    | with_reducible apply Moves.ite
    | with_reducible apply Moves.ite_fst
    | with_reducible (apply State.modClaimNet_moves)
    | with_reducible (apply State.modNet_moves)
    | with_reducible (apply qpResult_moves)
    | with_reducible (apply readCtx_moves)
    | with_reducible (apply readCtx_pmoves; assumption)
    | with_reducible (apply Moves.foldl)
    | with_reducible (apply Moves.foldl_fst)
    | with_reducible (apply Moves.of_eq; assumption)
    | with_reducible intro _
    | dsimp only
    | split

theorem qpModify_moves (s : State) (c : Nat) (h : Nat) (r : HostResp) {k0 : Nat} {z0 : State} (hz : Moves k0 z0 s) (hk0 : 1623688 &&& k0 = 1623688) :
    Moves k0 z0 (qpModify s c h r) := by
  refine hz.trans ?_
  clear hz
  unfold qpModify
  repeat' first
    | with_reducible exact Moves.refl _ _
    | with_reducible assumption
    | with_reducible exact mask_le hk0 (by decide)
    | with_reducible apply Moves.ite
    | with_reducible apply Moves.ite_fst
    | with_reducible (apply State.modQp_moves)
    | with_reducible (apply enterErr_moves)
    | with_reducible (apply qpResult_moves)
    | with_reducible (apply readCtx_moves)
    | with_reducible (apply readCtx_pmoves; assumption)
    | with_reducible (apply Moves.foldl)
    | with_reducible (apply Moves.foldl_fst)
    | with_reducible (apply Moves.of_eq; assumption)
    | with_reducible intro _
    | dsimp only
    | split

theorem qpDestroy_moves (s : State) (c : Nat) (h : Nat) {k0 : Nat} {z0 : State} (hz : Moves k0 z0 s) (hk0 : 1048576 &&& k0 = 1048576) :
    Moves k0 z0 (qpDestroy s c h) := by
  refine hz.trans ?_
  clear hz
  unfold qpDestroy
  repeat' first
    | with_reducible exact Moves.refl _ _
    | with_reducible assumption
    | with_reducible exact mask_le hk0 (by decide)
    | with_reducible apply Moves.ite
    | with_reducible apply Moves.ite_fst
    | with_reducible (apply State.modNet_moves)
    | with_reducible (apply qpResult_moves)
    | with_reducible (apply Moves.foldl)
    | with_reducible (apply Moves.foldl_fst)
    | with_reducible (apply Moves.of_eq; assumption)
    | with_reducible intro _
    | dsimp only
    | split

theorem qpQuery_moves (s : State) (c : Nat) (h : Nat) {k0 : Nat} {z0 : State} (hz : Moves k0 z0 s) (hk0 : 1048584 &&& k0 = 1048584) :
    Moves k0 z0 (qpQuery s c h) := by
  refine hz.trans ?_
  clear hz
  unfold qpQuery
  repeat' first
    | with_reducible exact Moves.refl _ _
    | with_reducible assumption
    | with_reducible exact mask_le hk0 (by decide)
    | with_reducible apply Moves.ite
    | with_reducible apply Moves.ite_fst
    | with_reducible (apply postHost_moves)
    | with_reducible (apply qpResult_moves)
    | with_reducible (apply Moves.foldl)
    | with_reducible (apply Moves.foldl_fst)
    | with_reducible (apply Moves.of_eq; assumption)
    | with_reducible intro _
    | dsimp only
    | split

theorem qpResume_moves (s : State) (c : Nat) (r : HostResp) {k0 : Nat} {z0 : State} (hz : Moves k0 z0 s) (hk0 : 1623688 &&& k0 = 1623688) :
    Moves k0 z0 (qpResume s c r) := by
  refine hz.trans ?_
  clear hz
  unfold qpResume
  repeat' first
    | with_reducible exact Moves.refl _ _
    | with_reducible assumption
    | with_reducible exact mask_le hk0 (by decide)
    | with_reducible apply Moves.ite
    | with_reducible apply Moves.ite_fst
    | with_reducible (apply qpCreate_moves)
    | with_reducible (apply qpDestroy_moves)
    | with_reducible (apply qpModify_moves)
    | with_reducible (apply qpQuery_moves)
    | with_reducible (apply Moves.foldl)
    | with_reducible (apply Moves.foldl_fst)
    | with_reducible (apply Moves.of_eq; assumption)
    | with_reducible intro _
    | dsimp only
    | split

theorem qpsErr_moves (s : State) (c : Nat) {k0 : Nat} {z0 : State} (hz : Moves k0 z0 s) (hk0 : 1099400 &&& k0 = 1099400) :
    Moves k0 z0 (qpsErr s c) := by
  refine hz.trans ?_
  clear hz
  unfold qpsErr
  repeat' first
    | with_reducible exact Moves.refl _ _
    | with_reducible assumption
    | with_reducible exact mask_le hk0 (by decide)
    | with_reducible apply Moves.ite
    | with_reducible apply Moves.ite_fst
    | with_reducible (apply enterErr_moves)
    | with_reducible (apply Moves.foldl)
    | with_reducible (apply Moves.foldl_fst)
    | with_reducible (apply Moves.of_eq; assumption)
    | with_reducible intro _
    | dsimp only
    | split

theorem qpsRun_moves (s : State) (c : Nat) (feeds : List (Nat × HostResp × HostResp)) {k0 : Nat} {z0 : State} (hz : Moves k0 z0 s) (hk0 : 1894344 &&& k0 = 1894344) :
    Moves k0 z0 (qpsRun s c feeds) := by
  refine hz.trans ?_
  clear hz
  unfold qpsRun
  repeat' first
    | with_reducible exact Moves.refl _ _
    | with_reducible assumption
    | with_reducible exact mask_le hk0 (by decide)
    | with_reducible apply Moves.ite
    | with_reducible apply Moves.ite_fst
    | with_reducible (apply runSq_moves)
    | with_reducible (apply Moves.foldl)
    | with_reducible (apply Moves.foldl_fst)
    | with_reducible (apply Moves.of_eq; assumption)
    | with_reducible intro _
    | dsimp only
    | split

theorem regionAccess_moves (s : State) (c : Nat) (i : Nat) (v : Nat) {k0 : Nat} {z0 : State} (hz : Moves k0 z0 s) (hk0 : 1048576 &&& k0 = 1048576) :
    Moves k0 z0 (regionAccess s c i v) := by
  refine hz.trans ?_
  clear hz
  unfold regionAccess
  repeat' first
    | with_reducible exact Moves.refl _ _
    | with_reducible assumption
    | with_reducible exact mask_le hk0 (by decide)
    | with_reducible apply Moves.ite
    | with_reducible apply Moves.ite_fst
    | with_reducible (apply State.modClaimNet_moves)
    | with_reducible (apply Moves.foldl)
    | with_reducible (apply Moves.foldl_fst)
    | with_reducible (apply Moves.of_eq; assumption)
    | with_reducible intro _
    | dsimp only
    | split

theorem regionRange_moves (s : State) (c : Nat) (i : Nat) (length : Bool) (v : Nat) {k0 : Nat} {z0 : State} (hz : Moves k0 z0 s) (hk0 : 1048576 &&& k0 = 1048576) :
    Moves k0 z0 (regionRange s c i length v) := by
  refine hz.trans ?_
  clear hz
  unfold regionRange
  repeat' first
    | with_reducible exact Moves.refl _ _
    | with_reducible assumption
    | with_reducible exact mask_le hk0 (by decide)
    | with_reducible apply Moves.ite
    | with_reducible apply Moves.ite_fst
    | with_reducible (apply State.modClaimNet_moves)
    | with_reducible (apply Moves.foldl)
    | with_reducible (apply Moves.foldl_fst)
    | with_reducible (apply Moves.of_eq; assumption)
    | with_reducible intro _
    | dsimp only
    | split

theorem gidLow_moves (s : State) (p : Nat) (g : Nat) (v : Nat) {k0 : Nat} {z0 : State} (hz : Moves k0 z0 s) (hk0 : 1048576 &&& k0 = 1048576) :
    Moves k0 z0 (gidLow s p g v) := by
  refine hz.trans ?_
  clear hz
  unfold gidLow
  repeat' first
    | with_reducible exact Moves.refl _ _
    | with_reducible assumption
    | with_reducible exact mask_le hk0 (by decide)
    | with_reducible apply Moves.ite
    | with_reducible apply Moves.ite_fst
    | with_reducible (apply State.modEth_moves)
    | with_reducible (apply Moves.foldl)
    | with_reducible (apply Moves.foldl_fst)
    | with_reducible (apply Moves.of_eq; assumption)
    | with_reducible intro _
    | dsimp only
    | split

theorem gidCommit_moves (s : State) (p : Nat) (g : Nat) (v : Nat) {k0 : Nat} {z0 : State} (hz : Moves k0 z0 s) (hk0 : 1048576 &&& k0 = 1048576) :
    Moves k0 z0 (gidCommit s p g v) := by
  refine hz.trans ?_
  clear hz
  unfold gidCommit
  repeat' first
    | with_reducible exact Moves.refl _ _
    | with_reducible assumption
    | with_reducible exact mask_le hk0 (by decide)
    | with_reducible apply Moves.ite
    | with_reducible apply Moves.ite_fst
    | with_reducible (apply State.modEth_moves)
    | with_reducible (apply Moves.foldl)
    | with_reducible (apply Moves.foldl_fst)
    | with_reducible (apply Moves.of_eq; assumption)
    | with_reducible intro _
    | dsimp only
    | split

theorem ethNegotiate_moves (s : State) (p : Nat) (linked : Bool) {k0 : Nat} {z0 : State} (hz : Moves k0 z0 s) (hk0 : 1048576 &&& k0 = 1048576) :
    Moves k0 z0 (ethNegotiate s p linked) := by
  refine hz.trans ?_
  clear hz
  unfold ethNegotiate
  repeat' first
    | with_reducible exact Moves.refl _ _
    | with_reducible assumption
    | with_reducible exact mask_le hk0 (by decide)
    | with_reducible apply Moves.ite
    | with_reducible apply Moves.ite_fst
    | with_reducible (apply State.modEth_moves)
    | with_reducible (apply Moves.foldl)
    | with_reducible (apply Moves.foldl_fst)
    | with_reducible (apply Moves.of_eq; assumption)
    | with_reducible intro _
    | dsimp only
    | split

theorem ethLoss_moves (s : State) (p : Nat) {k0 : Nat} {z0 : State} (hz : Moves k0 z0 s) (hk0 : 1048576 &&& k0 = 1048576) :
    Moves k0 z0 (ethLoss s p) := by
  refine hz.trans ?_
  clear hz
  unfold ethLoss
  repeat' first
    | with_reducible exact Moves.refl _ _
    | with_reducible assumption
    | with_reducible exact mask_le hk0 (by decide)
    | with_reducible apply Moves.ite
    | with_reducible apply Moves.ite_fst
    | with_reducible (apply State.modEth_moves)
    | with_reducible (apply Moves.foldl)
    | with_reducible (apply Moves.foldl_fst)
    | with_reducible (apply Moves.of_eq; assumption)
    | with_reducible intro _
    | dsimp only
    | split

theorem pcieTrain_moves (s : State) (gen : Nat) (width : Nat) {k0 : Nat} {z0 : State} (hz : Moves k0 z0 s) (hk0 : 524288 &&& k0 = 524288) :
    Moves k0 z0 (pcieTrain s gen width) := by
  exact hz.trans ((Moves.put (s := s) (t := (pcieTrain s gen width)) (m := 524288) rfl rfl rfl rfl rfl (by intro p hp; cases p <;> first | rfl | exact absurd hp (by decide))).mono hk0)

theorem winWrite_moves (s : State) (fn : Nat) (w : Nat) (limit : Bool) (v : Nat) {k0 : Nat} {z0 : State} (hz : Moves k0 z0 s) (hk0 : 1024 &&& k0 = 1024) :
    Moves k0 z0 (winWrite s fn w limit v) := by
  refine hz.trans ?_
  clear hz
  unfold winWrite
  repeat' first
    | with_reducible exact Moves.refl _ _
    | with_reducible assumption
    | with_reducible exact mask_le hk0 (by decide)
    | with_reducible apply Moves.ite
    | with_reducible apply Moves.ite_fst
    | with_reducible (apply State.modFn_moves)
    | with_reducible (apply Moves.foldl)
    | with_reducible (apply Moves.foldl_fst)
    | with_reducible (apply Moves.of_eq; assumption)
    | with_reducible intro _
    | dsimp only
    | split

theorem msixFlush_moves (s : State) (fn : Nat) {k0 : Nat} {z0 : State} (hz : Moves k0 z0 s) (hk0 : 1032 &&& k0 = 1032) :
    Moves k0 z0 (msixFlush s fn) := by
  refine hz.trans ?_
  clear hz
  unfold msixFlush
  repeat' first
    | with_reducible exact Moves.refl _ _
    | with_reducible assumption
    | with_reducible exact mask_le hk0 (by decide)
    | with_reducible apply Moves.ite
    | with_reducible apply Moves.ite_fst
    | with_reducible (apply State.emit_moves)
    | with_reducible (apply State.modFn_moves)
    | with_reducible (apply Moves.foldl)
    | with_reducible (apply Moves.foldl_fst)
    | with_reducible (apply Moves.of_eq; assumption)
    | with_reducible intro _
    | dsimp only
    | split

theorem unsupported_moves (s : State) (fn : Nat) {k0 : Nat} {z0 : State} (hz : Moves k0 z0 s) (hk0 : 524296 &&& k0 = 524296) :
    Moves k0 z0 (unsupported s fn) := by
  refine hz.trans ?_
  clear hz
  unfold unsupported
  repeat' first
    | with_reducible exact Moves.refl _ _
    | with_reducible assumption
    | with_reducible exact mask_le hk0 (by decide)
    | with_reducible apply Moves.ite
    | with_reducible apply Moves.ite_fst
    | with_reducible (apply State.emit_moves)
    | with_reducible (apply aerLog_moves)
    | with_reducible (apply Moves.foldl)
    | with_reducible (apply Moves.foldl_fst)
    | with_reducible (apply Moves.of_eq; assumption)
    | with_reducible intro _
    | dsimp only
    | split

end Sys2Proof.Machine
end

