-- ==== Sys2Proof/Laws/MovesRedealOps.lean ====
section
/-! SUPPORT. What each operation of Machine/RedealOps.lean may change. -/

set_option linter.unreachableTactic false
set_option linter.unusedTactic false
set_option linter.unusedVariables false

namespace Sys2Proof.Machine

theorem State.modDbg_moves (s : State) (f : Debug → Debug) {k0 : Nat} {z0 : State} (hz : Moves k0 z0 s) (hk0 : 65536 &&& k0 = 65536) :
    Moves k0 z0 (State.modDbg s f) := by
  exact hz.trans ((Moves.put (s := s) (t := (State.modDbg s f)) (m := 65536) rfl rfl rfl rfl rfl (by intro p hp; cases p <;> first | rfl | exact absurd hp (by decide))).mono hk0)

theorem State.modWin_moves (s : State) (n : Nat) (f : DebugWin → DebugWin) {k0 : Nat} {z0 : State} (hz : Moves k0 z0 s) (hk0 : 65536 &&& k0 = 65536) :
    Moves k0 z0 (State.modWin s n f) := by
  refine hz.trans ?_
  clear hz
  unfold State.modWin
  repeat' first
    | with_reducible exact Moves.refl _ _
    | with_reducible assumption
    | with_reducible exact mask_le hk0 (by decide)
    | with_reducible apply Moves.ite
    | with_reducible apply Moves.ite_fst
    | with_reducible (apply State.modDbg_moves)
    | with_reducible (apply Moves.foldl)
    | with_reducible (apply Moves.foldl_fst)
    | with_reducible (apply Moves.of_eq; assumption)
    | with_reducible intro _
    | dsimp only
    | split

theorem State.modRedeal_moves (s : State) (f : Redeal → Redeal) {k0 : Nat} {z0 : State} (hz : Moves k0 z0 s) (hk0 : 2048 &&& k0 = 2048) :
    Moves k0 z0 (State.modRedeal s f) := by
  exact hz.trans ((Moves.put (s := s) (t := (State.modRedeal s f)) (m := 2048) rfl rfl rfl rfl rfl (by intro p hp; cases p <;> first | rfl | exact absurd hp (by decide))).mono hk0)

theorem State.modBoot_moves (s : State) (f : Boot → Boot) (h1 : (f s.boot).flash = s.boot.flash) {k0 : Nat} {z0 : State} (hz : Moves k0 z0 s)
    (hk0 : 16 &&& k0 = 16) : Moves k0 z0 (s.modBoot f) :=
  hz.trans ((Moves.put (s := s) (t := s.modBoot f) (m := 16) rfl rfl rfl rfl h1 (by intro p hp; cases p <;> first | rfl | exact absurd hp (by decide))).mono hk0)

theorem setSec_moves (s : State) (x : SecState) {k0 : Nat} {z0 : State} (hz : Moves k0 z0 s) (hk0 : 327688 &&& k0 = 327688) :
    Moves k0 z0 (setSec s x) := by
  refine hz.trans ?_
  clear hz
  unfold setSec
  repeat' first
    | with_reducible exact Moves.refl _ _
    | with_reducible assumption
    | with_reducible exact mask_le hk0 (by decide)
    | with_reducible apply Moves.ite
    | with_reducible apply Moves.ite_fst
    | with_reducible (apply State.modDbg_moves)
    | with_reducible (apply mgmtSensor_moves)
    | with_reducible (apply Moves.foldl)
    | with_reducible (apply Moves.foldl_fst)
    | with_reducible (apply Moves.of_eq; assumption)
    | with_reducible intro _
    | dsimp only
    | split

theorem secEvent_moves (s : State) (kind : Nat) (which : Nat) (code : Nat) (seq : Nat) {k0 : Nat} {z0 : State} (hz : Moves k0 z0 s) (hk0 : 263240 &&& k0 = 263240) :
    Moves k0 z0 (secEvent s kind which code seq) := by
  refine hz.trans ?_
  clear hz
  unfold secEvent
  repeat' first
    | with_reducible exact Moves.refl _ _
    | with_reducible assumption
    | with_reducible exact mask_le hk0 (by decide)
    | with_reducible apply Moves.ite
    | with_reducible apply Moves.ite_fst
    | with_reducible (apply postSteward_moves)
    | with_reducible (apply Moves.foldl)
    | with_reducible (apply Moves.foldl_fst)
    | with_reducible (apply Moves.of_eq; assumption)
    | with_reducible intro _
    | dsimp only
    | split

theorem resumeClaim_moves (s : State) (n : Nat) {k0 : Nat} {z0 : State} (hz : Moves k0 z0 s) (hk0 : 66176 &&& k0 = 66176) :
    Moves k0 z0 (resumeClaim s n) := by
  refine hz.trans ?_
  clear hz
  unfold resumeClaim
  repeat' first
    | with_reducible exact Moves.refl _ _
    | with_reducible assumption
    | with_reducible exact mask_le hk0 (by decide)
    | with_reducible apply Moves.ite
    | with_reducible apply Moves.ite_fst
    | with_reducible (apply State.modDl_moves)
    | with_reducible (apply State.modSync_moves)
    | with_reducible (apply State.modWin_moves)
    | with_reducible (apply Moves.foldl)
    | with_reducible (apply Moves.foldl_fst)
    | with_reducible (apply Moves.of_eq; assumption)
    | with_reducible intro _
    | dsimp only
    | split

theorem endGrant_moves (s : State) (n : Nat) {k0 : Nat} {z0 : State} (hz : Moves k0 z0 s) (hk0 : 329416 &&& k0 = 329416) :
    Moves k0 z0 (endGrant s n) := by
  refine hz.trans ?_
  clear hz
  unfold endGrant
  repeat' first
    | with_reducible exact Moves.refl _ _
    | with_reducible assumption
    | with_reducible exact mask_le hk0 (by decide)
    | with_reducible apply Moves.ite
    | with_reducible apply Moves.ite_fst
    | with_reducible (apply State.modDbg_moves)
    | with_reducible (apply State.modWin_moves)
    | with_reducible (apply resumeClaim_moves)
    | with_reducible (apply secEvent_moves)
    | with_reducible (apply setSec_moves)
    | with_reducible (apply Moves.foldl)
    | with_reducible (apply Moves.foldl_fst)
    | with_reducible (apply Moves.of_eq; assumption)
    | with_reducible intro _
    | dsimp only
    | split

theorem redealBegin_moves (s : State) (t : Trigger) {k0 : Nat} {z0 : State} (hz : Moves k0 z0 s) (hk0 : 331480 &&& k0 = 331480) :
    Moves k0 z0 (redealBegin s t) := by
  refine hz.trans ?_
  clear hz
  unfold redealBegin
  repeat' first
    | with_reducible exact Moves.refl _ _
    | with_reducible assumption
    | with_reducible exact mask_le hk0 (by decide)
    | with_reducible apply Moves.ite
    | with_reducible apply Moves.ite_fst
    | with_reducible (apply State.modRedeal_moves)
    | with_reducible (apply endGrant_moves)
    | with_reducible (apply postEvent_moves)
    | with_reducible (apply postSteward_moves)
    | with_reducible (apply setDev_moves)
    | with_reducible (apply Moves.foldl)
    | with_reducible (apply Moves.foldl_fst)
    | with_reducible (apply Moves.of_eq; assumption)
    | with_reducible intro _
    | dsimp only
    | split

theorem resetEngines_moves (s : State) {k0 : Nat} {z0 : State} (hz : Moves k0 z0 s) (hk0 : 128 &&& k0 = 128) :
    Moves k0 z0 (resetEngines s) := by
  refine hz.trans ?_
  clear hz
  unfold resetEngines
  repeat' first
    | with_reducible exact Moves.refl _ _
    | with_reducible assumption
    | with_reducible exact mask_le hk0 (by decide)
    | with_reducible apply Moves.ite
    | with_reducible apply Moves.ite_fst
    | with_reducible (apply State.modDl_moves)
    | with_reducible (apply Moves.foldl)
    | with_reducible (apply Moves.foldl_fst)
    | with_reducible (apply Moves.of_eq; assumption)
    | with_reducible intro _
    | dsimp only
    | split

theorem cancelMoves_moves (s : State) {k0 : Nat} {z0 : State} (hz : Moves k0 z0 s) (hk0 : 256 &&& k0 = 256) :
    Moves k0 z0 (cancelMoves s) := by
  refine hz.trans ?_
  clear hz
  unfold cancelMoves
  repeat' first
    | with_reducible exact Moves.refl _ _
    | with_reducible assumption
    | with_reducible exact mask_le hk0 (by decide)
    | with_reducible apply Moves.ite
    | with_reducible apply Moves.ite_fst
    | with_reducible (apply cancelMove_moves)
    | with_reducible (apply Moves.foldl)
    | with_reducible (apply Moves.foldl_fst)
    | with_reducible (apply Moves.of_eq; assumption)
    | with_reducible intro _
    | dsimp only
    | split

theorem redealHalt_moves (s : State) {k0 : Nat} {z0 : State} (hz : Moves k0 z0 s) (hk0 : 321482 &&& k0 = 321482) :
    Moves k0 z0 (redealHalt s) := by
  refine hz.trans ?_
  clear hz
  unfold redealHalt
  repeat' first
    | with_reducible exact Moves.refl _ _
    | with_reducible assumption
    | with_reducible exact mask_le hk0 (by decide)
    | with_reducible apply Moves.ite
    | with_reducible apply Moves.ite_fst
    | with_reducible (apply answerPartials_moves)
    | with_reducible (apply cancelMoves_moves)
    | with_reducible (apply groupEnd_moves)
    | with_reducible (apply groupEnd_pmoves; assumption)
    | with_reducible (apply resetEngines_moves)
    | with_reducible (apply resetRounds_moves)
    | with_reducible (apply stopBatch_moves)
    | with_reducible (apply Moves.foldl)
    | with_reducible (apply Moves.foldl_fst)
    | with_reducible (apply Moves.of_eq; assumption)
    | with_reducible intro _
    | dsimp only
    | split

theorem redealSettle_moves (s : State) (t : Trigger) {k0 : Nat} {z0 : State} (hz : Moves k0 z0 s) (hk0 : 3198856 &&& k0 = 3198856) :
    Moves k0 z0 (redealSettle s t) := by
  refine hz.trans ?_
  clear hz
  unfold redealSettle
  repeat' first
    | with_reducible exact Moves.refl _ _
    | with_reducible assumption
    | with_reducible exact mask_le hk0 (by decide)
    | with_reducible apply Moves.ite
    | with_reducible apply Moves.ite_fst
    | with_reducible (apply State.modDl_moves)
    | with_reducible (apply State.modNet_moves)
    | with_reducible (apply State.modRedeal_moves)
    | with_reducible (apply State.modSync_moves)
    | with_reducible (apply poisonClaimTallies_moves)
    | with_reducible (apply qpsErr_moves)
    | with_reducible (apply resetAssay_moves)
    | with_reducible (apply Moves.foldl)
    | with_reducible (apply Moves.foldl_fst)
    | with_reducible (apply Moves.of_eq; assumption)
    | with_reducible intro _
    | dsimp only
    | split

theorem clearClaimRegs_moves (s : State) {k0 : Nat} {z0 : State} (hz : Moves k0 z0 s) (hk0 : 192 &&& k0 = 192) :
    Moves k0 z0 (clearClaimRegs s) := by
  refine hz.trans ?_
  clear hz
  unfold clearClaimRegs
  repeat' first
    | with_reducible exact Moves.refl _ _
    | with_reducible assumption
    | with_reducible exact mask_le hk0 (by decide)
    | with_reducible apply Moves.ite
    | with_reducible apply Moves.ite_fst
    | with_reducible (apply State.modCl_moves)
    | with_reducible (apply State.modDl_moves)
    | with_reducible (apply Moves.foldl)
    | with_reducible (apply Moves.foldl_fst)
    | with_reducible (apply Moves.of_eq; assumption)
    | with_reducible intro _
    | dsimp only
    | split

theorem clearPolicyRegs_moves (s : State) {k0 : Nat} {z0 : State} (hz : Moves k0 z0 s) (hk0 : 1271584 &&& k0 = 1271584) :
    Moves k0 z0 (clearPolicyRegs s) := by
  exact hz.trans ((Moves.put (s := s) (t := (clearPolicyRegs s)) (m := 1271584) rfl rfl rfl rfl rfl (by intro p hp; cases p <;> first | rfl | exact absurd hp (by decide))).mono hk0)

theorem redealReset_moves (s : State) {k0 : Nat} {z0 : State} (hz : Moves k0 z0 s) (hk0 : 1273824 &&& k0 = 1273824) :
    Moves k0 z0 (redealReset s) := by
  refine hz.trans ?_
  clear hz
  unfold redealReset
  repeat' first
    | with_reducible exact Moves.refl _ _
    | with_reducible assumption
    | with_reducible exact mask_le hk0 (by decide)
    | with_reducible apply Moves.ite
    | with_reducible apply Moves.ite_fst
    | with_reducible (apply State.modRedeal_moves)
    | with_reducible (apply clearClaimRegs_moves)
    | with_reducible (apply clearPolicyRegs_moves)
    | with_reducible (apply resetEngines_moves)
    | with_reducible (apply Moves.foldl)
    | with_reducible (apply Moves.foldl_fst)
    | with_reducible (apply Moves.of_eq; assumption)
    | with_reducible intro _
    | dsimp only
    | split

theorem startRedeal_moves (s : State) (t : Trigger) (finish : Bool) {k0 : Nat} {z0 : State} (hz : Moves k0 z0 s) (hk0 : 3665914 &&& k0 = 3665914) :
    Moves k0 z0 (startRedeal s t finish) := by
  refine hz.trans ?_
  clear hz
  unfold startRedeal
  repeat' first
    | with_reducible exact Moves.refl _ _
    | with_reducible assumption
    | with_reducible exact mask_le hk0 (by decide)
    | with_reducible apply Moves.ite
    | with_reducible apply Moves.ite_fst
    | with_reducible (apply redealBegin_moves)
    | with_reducible (apply redealHalt_moves)
    | with_reducible (apply redealReset_moves)
    | with_reducible (apply redealSettle_moves)
    | with_reducible (apply Moves.foldl)
    | with_reducible (apply Moves.foldl_fst)
    | with_reducible (apply Moves.of_eq; assumption)
    | with_reducible intro _
    | dsimp only
    | split

theorem deckFault_moves (shoe : Nat) (seq : Nat) (o : Outcome) (s : State) {k0 : Nat} {z0 : State} (hz : Moves k0 z0 s) (hk0 : 3665914 &&& k0 = 3665914) :
    Moves k0 z0 (deckFault shoe seq o s) := by
  refine hz.trans ?_
  clear hz
  unfold deckFault
  repeat' first
    | with_reducible exact Moves.refl _ _
    | with_reducible assumption
    | with_reducible exact mask_le hk0 (by decide)
    | with_reducible apply Moves.ite
    | with_reducible apply Moves.ite_fst
    | with_reducible (apply startRedeal_moves)
    | with_reducible (apply Moves.foldl)
    | with_reducible (apply Moves.foldl_fst)
    | with_reducible (apply Moves.of_eq; assumption)
    | with_reducible intro _
    | dsimp only
    | split

theorem walkFrame_moves (s : State) (tier2 : Bool) (f : Nat) {k0 : Nat} {z0 : State} (hz : Moves k0 z0 s) (hk0 : 271688 &&& k0 = 271688) :
    Moves k0 z0 (walkFrame s tier2 f) := by
  refine hz.trans ?_
  clear hz
  unfold walkFrame
  repeat' first
    | with_reducible exact Moves.refl _ _
    | with_reducible assumption
    | with_reducible exact mask_le hk0 (by decide)
    | with_reducible apply Moves.ite
    | with_reducible apply Moves.ite_fst
    | with_reducible (apply countCorrected_moves)
    | with_reducible (apply logDetection_moves)
    | with_reducible (apply logDetection_pmoves; assumption)
    | with_reducible (apply rewriteWord_moves)
    | with_reducible (apply Moves.foldl)
    | with_reducible (apply Moves.foldl_fst)
    | with_reducible (apply Moves.of_eq; assumption)
    | with_reducible intro _
    | dsimp only
    | split

theorem redealEnd_moves (s : State) {k0 : Nat} {z0 : State} (hz : Moves k0 z0 s) (hk0 : 265432 &&& k0 = 265432) :
    Moves k0 z0 (redealEnd s) := by
  refine hz.trans ?_
  clear hz
  unfold redealEnd
  repeat' first
    | with_reducible exact Moves.refl _ _
    | with_reducible assumption
    | with_reducible exact mask_le hk0 (by decide)
    | with_reducible apply Moves.ite
    | with_reducible apply Moves.ite_fst
    | with_reducible (apply State.modRedeal_moves)
    | with_reducible (apply State.modShoe_moves)
    | with_reducible (apply changeShare_moves)
    | with_reducible (apply setDev_moves)
    | with_reducible (apply startShoe_moves)
    | with_reducible (apply writeOutcomes_moves)
    | with_reducible (apply Moves.foldl)
    | with_reducible (apply Moves.foldl_fst)
    | with_reducible (apply Moves.of_eq; assumption)
    | with_reducible intro _
    | dsimp only
    | split

theorem walkEnd_moves (s : State) {k0 : Nat} {z0 : State} (hz : Moves k0 z0 s) (hk0 : 273880 &&& k0 = 273880) :
    Moves k0 z0 (walkEnd s) := by
  refine hz.trans ?_
  clear hz
  unfold walkEnd
  repeat' first
    | with_reducible exact Moves.refl _ _
    | with_reducible assumption
    | with_reducible exact mask_le hk0 (by decide)
    | with_reducible apply Moves.ite
    | with_reducible apply Moves.ite_fst
    | with_reducible (apply State.modRedeal_moves)
    | with_reducible (apply logDetection_moves)
    | with_reducible (apply logDetection_pmoves; assumption)
    | with_reducible (apply redealEnd_moves)
    | with_reducible (apply walkFrame_moves)
    | with_reducible (apply Moves.foldl)
    | with_reducible (apply Moves.foldl_fst)
    | with_reducible (apply Moves.of_eq; assumption)
    | with_reducible intro _
    | dsimp only
    | split

theorem redealResume_moves (s : State) {k0 : Nat} {z0 : State} (hz : Moves k0 z0 s) (hk0 : 265432 &&& k0 = 265432) :
    Moves k0 z0 (redealResume s) := by
  refine hz.trans ?_
  clear hz
  unfold redealResume
  repeat' first
    | with_reducible exact Moves.refl _ _
    | with_reducible assumption
    | with_reducible exact mask_le hk0 (by decide)
    | with_reducible apply Moves.ite
    | with_reducible apply Moves.ite_fst
    | with_reducible (apply State.modRedeal_moves)
    | with_reducible (apply redealEnd_moves)
    | with_reducible (apply Moves.foldl)
    | with_reducible (apply Moves.foldl_fst)
    | with_reducible (apply Moves.of_eq; assumption)
    | with_reducible intro _
    | dsimp only
    | split

theorem runtimeFailed_moves (s : State) (cause : Nat) {k0 : Nat} {z0 : State} (hz : Moves k0 z0 s) (hk0 : 323544 &&& k0 = 323544) :
    Moves k0 z0 (runtimeFailed s cause) := by
  refine hz.trans ?_
  clear hz
  unfold runtimeFailed
  repeat' first
    | with_reducible exact Moves.refl _ _
    | with_reducible assumption
    | with_reducible exact mask_le hk0 (by decide)
    | with_reducible apply Moves.ite
    | with_reducible apply Moves.ite_fst
    | with_reducible (apply State.modBoot_moves (h1 := rfl))
    | with_reducible (apply State.modBoot_moves (h1 := by split <;> rfl))
    | with_reducible (apply State.modDl_moves)
    | with_reducible (apply State.modRedeal_moves)
    | with_reducible (apply alertLatch_moves)
    | with_reducible (apply groupEnd_moves)
    | with_reducible (apply groupEnd_pmoves; assumption)
    | with_reducible (apply poisonTrick_moves)
    | with_reducible (apply resetEngines_moves)
    | with_reducible (apply setDev_moves)
    | with_reducible (apply writeOutcomes_moves)
    | with_reducible (apply Moves.foldl)
    | with_reducible (apply Moves.foldl_fst)
    | with_reducible (apply Moves.of_eq; assumption)
    | with_reducible intro _
    | dsimp only
    | split

theorem redealBound_moves (s : State) {k0 : Nat} {z0 : State} (hz : Moves k0 z0 s) (hk0 : 323544 &&& k0 = 323544) :
    Moves k0 z0 (redealBound s) := by
  refine hz.trans ?_
  clear hz
  unfold redealBound
  repeat' first
    | with_reducible exact Moves.refl _ _
    | with_reducible assumption
    | with_reducible exact mask_le hk0 (by decide)
    | with_reducible apply Moves.ite
    | with_reducible apply Moves.ite_fst
    | with_reducible (apply runtimeFailed_moves)
    | with_reducible (apply Moves.foldl)
    | with_reducible (apply Moves.foldl_fst)
    | with_reducible (apply Moves.of_eq; assumption)
    | with_reducible intro _
    | dsimp only
    | split

theorem idlePorts_moves (s : State) {k0 : Nat} {z0 : State} (hz : Moves k0 z0 s) (hk0 : 312392 &&& k0 = 312392) :
    Moves k0 z0 (idlePorts s).1 := by
  refine hz.trans ?_
  clear hz
  unfold idlePorts
  repeat' first
    | with_reducible exact Moves.refl _ _
    | with_reducible assumption
    | with_reducible exact mask_le hk0 (by decide)
    | with_reducible apply Moves.ite
    | with_reducible apply Moves.ite_fst
    | with_reducible (apply State.emit_moves)
    | with_reducible (apply State.modLink_moves)
    | with_reducible (apply leaveGroup_moves)
    | with_reducible (apply leaveGroup_pmoves; assumption)
    | with_reducible (apply Moves.foldl)
    | with_reducible (apply Moves.foldl_fst)
    | with_reducible (apply Moves.of_eq; assumption)
    | with_reducible intro _
    | dsimp only
    | split

theorem idlePorts_pmoves (s : State) {z1 : State} {y1 : List Nat} (he : (idlePorts s) = (z1, y1)) {k0 : Nat} {z0 : State} (hz : Moves k0 z0 s) (hk0 : 312392 &&& k0 = 312392) :
    Moves k0 z0 z1 := by
  simpa only [he] using idlePorts_moves s hz hk0

theorem failedIdle_moves (s : State) {k0 : Nat} {z0 : State} (hz : Moves k0 z0 s) (hk0 : 312392 &&& k0 = 312392) :
    Moves k0 z0 (failedIdle s) := by
  refine hz.trans ?_
  clear hz
  unfold failedIdle
  repeat' first
    | with_reducible exact Moves.refl _ _
    | with_reducible assumption
    | with_reducible exact mask_le hk0 (by decide)
    | with_reducible apply Moves.ite
    | with_reducible apply Moves.ite_fst
    | with_reducible (apply dropXfer_moves)
    | with_reducible (apply idlePorts_moves)
    | with_reducible (apply idlePorts_pmoves; assumption)
    | with_reducible (apply Moves.foldl)
    | with_reducible (apply Moves.foldl_fst)
    | with_reducible (apply Moves.of_eq; assumption)
    | with_reducible intro _
    | dsimp only
    | split

theorem loseEntry_moves (s : State) (shoe : Nat) (seq : Nat) {k0 : Nat} {z0 : State} (hz : Moves k0 z0 s) (hk0 : 323544 &&& k0 = 323544) :
    Moves k0 z0 (loseEntry s shoe seq) := by
  refine hz.trans ?_
  clear hz
  unfold loseEntry
  repeat' first
    | with_reducible exact Moves.refl _ _
    | with_reducible assumption
    | with_reducible exact mask_le hk0 (by decide)
    | with_reducible apply Moves.ite
    | with_reducible apply Moves.ite_fst
    | with_reducible (apply State.modItem_moves)
    | with_reducible (apply releaseHoldings_moves)
    | with_reducible (apply runtimeFailed_moves)
    | with_reducible (apply Moves.foldl)
    | with_reducible (apply Moves.foldl_fst)
    | with_reducible (apply Moves.of_eq; assumption)
    | with_reducible intro _
    | dsimp only
    | split

theorem headFault_moves (s : State) (f : HeadFault) (mac : Nat) (row : Nat) (word : Nat) {k0 : Nat} {z0 : State} (hz : Moves k0 z0 s) (hk0 : 323544 &&& k0 = 323544) :
    Moves k0 z0 (headFault s f mac row word) := by
  refine hz.trans ?_
  clear hz
  unfold headFault
  repeat' first
    | with_reducible exact Moves.refl _ _
    | with_reducible assumption
    | with_reducible exact mask_le hk0 (by decide)
    | with_reducible apply Moves.ite
    | with_reducible apply Moves.ite_fst
    | with_reducible (apply failAt_moves)
    | with_reducible (apply failItem_moves)
    | with_reducible (apply failRound_moves)
    | with_reducible (apply logDetection_moves)
    | with_reducible (apply logDetection_pmoves; assumption)
    | with_reducible (apply loseEntry_moves)
    | with_reducible (apply poisonTally_moves)
    | with_reducible (apply runtimeFailed_moves)
    | with_reducible (apply Moves.foldl)
    | with_reducible (apply Moves.foldl_fst)
    | with_reducible (apply Moves.of_eq; assumption)
    | with_reducible intro _
    | dsimp only
    | split

end Sys2Proof.Machine
end

