-- ==== Sys2Proof/Laws/MovesFenceOps.lean ====
section
/-! SUPPORT. What each operation of Machine/FenceOps.lean may change. -/

set_option linter.unreachableTactic false
set_option linter.unusedTactic false
set_option linter.unusedVariables false

namespace Sys2Proof.Machine

theorem State.modUnit_moves (s : State) (cls : Nat) (i : Nat) (f : FenceUnit → FenceUnit) {k0 : Nat} {z0 : State} (hz : Moves k0 z0 s) (hk0 : 4096 &&& k0 = 4096) :
    Moves k0 z0 (State.modUnit s cls i f) := by
  exact hz.trans ((Moves.put (s := s) (t := (State.modUnit s cls i f)) (m := 4096) rfl rfl rfl rfl rfl (by intro p hp; cases p <;> first | rfl | exact absurd hp (by decide))).mono hk0)

theorem fenceEvent_moves (s : State) (cls : Nat) (i : Nat) (action : Nat) (reason : Nat) (failed : Nat) (oldCount : Nat) (busy : Bool) (claims : List Nat) {k0 : Nat} {z0 : State} (hz : Moves k0 z0 s) (hk0 : 263240 &&& k0 = 263240) :
    Moves k0 z0 (fenceEvent s cls i action reason failed oldCount busy claims) := by
  refine hz.trans ?_
  clear hz
  unfold fenceEvent
  repeat' first
    | with_reducible exact Moves.refl _ _
    | with_reducible assumption
    | with_reducible exact mask_le hk0 (by decide)
    | with_reducible apply Moves.ite
    | with_reducible apply Moves.ite_fst
    | with_reducible (apply mgmtSensor_moves)
    | with_reducible (apply postEvent_moves)
    | with_reducible (apply postSteward_moves)
    | with_reducible (apply Moves.foldl)
    | with_reducible (apply Moves.foldl_fst)
    | with_reducible (apply Moves.of_eq; assumption)
    | with_reducible intro _
    | dsimp only
    | split

theorem fenceCoreWork_moves (s : State) (c : Nat) (detail : Nat) {k0 : Nat} {z0 : State} (hz : Moves k0 z0 s) (hk0 : 128 &&& k0 = 128) :
    Moves k0 z0 (fenceCoreWork s c detail).1 := by
  refine hz.trans ?_
  clear hz
  unfold fenceCoreWork
  repeat' first
    | with_reducible exact Moves.refl _ _
    | with_reducible assumption
    | with_reducible exact mask_le hk0 (by decide)
    | with_reducible apply Moves.ite
    | with_reducible apply Moves.ite_fst
    | with_reducible (apply State.modMacro_moves)
    | with_reducible (apply failAt_moves)
    | with_reducible (apply leaveFailed_moves)
    | with_reducible (apply Moves.foldl)
    | with_reducible (apply Moves.foldl_fst)
    | with_reducible (apply Moves.of_eq; assumption)
    | with_reducible intro _
    | dsimp only
    | split

theorem fenceCoreWork_pmoves (s : State) (c : Nat) (detail : Nat) {z1 : State} {y1 : Nat} (he : (fenceCoreWork s c detail) = (z1, y1)) {k0 : Nat} {z0 : State} (hz : Moves k0 z0 s) (hk0 : 128 &&& k0 = 128) :
    Moves k0 z0 z1 := by
  simpa only [he] using fenceCoreWork_moves s c detail hz hk0

theorem replaceParts_moves (s : State) (shoe : Nat) (seq : Nat) (l : Nat) (g : Nat) {k0 : Nat} {z0 : State} (hz : Moves k0 z0 s) (hk0 : 128 &&& k0 = 128) :
    Moves k0 z0 (replaceParts s shoe seq l g) := by
  refine hz.trans ?_
  clear hz
  unfold replaceParts
  repeat' first
    | with_reducible exact Moves.refl _ _
    | with_reducible assumption
    | with_reducible exact mask_le hk0 (by decide)
    | with_reducible apply Moves.ite
    | with_reducible apply Moves.ite_fst
    | with_reducible (apply placeParts_moves)
    | with_reducible (apply setActive_moves)
    | with_reducible (apply Moves.foldl)
    | with_reducible (apply Moves.foldl_fst)
    | with_reducible (apply Moves.of_eq; assumption)
    | with_reducible intro _
    | dsimp only
    | split

theorem fenceLaneWork_moves (s : State) (l : Nat) (detail : Nat) {k0 : Nat} {z0 : State} (hz : Moves k0 z0 s) (hk0 : 128 &&& k0 = 128) :
    Moves k0 z0 (fenceLaneWork s l detail).1 := by
  refine hz.trans ?_
  clear hz
  unfold fenceLaneWork
  repeat' first
    | with_reducible exact Moves.refl _ _
    | with_reducible assumption
    | with_reducible exact mask_le hk0 (by decide)
    | with_reducible apply Moves.ite
    | with_reducible apply Moves.ite_fst
    | with_reducible (apply State.modDl_moves)
    | with_reducible (apply failAt_moves)
    | with_reducible (apply replaceParts_moves)
    | with_reducible (apply Moves.foldl)
    | with_reducible (apply Moves.foldl_fst)
    | with_reducible (apply Moves.of_eq; assumption)
    | with_reducible intro _
    | dsimp only
    | split

theorem fenceLaneWork_pmoves (s : State) (l : Nat) (detail : Nat) {z1 : State} {y1 : Nat} (he : (fenceLaneWork s l detail) = (z1, y1)) {k0 : Nat} {z0 : State} (hz : Moves k0 z0 s) (hk0 : 128 &&& k0 = 128) :
    Moves k0 z0 z1 := by
  simpa only [he] using fenceLaneWork_moves s l detail hz hk0

theorem fence_moves (s : State) (cls : Nat) (i : Nat) (reason : Nat) {k0 : Nat} {z0 : State} (hz : Moves k0 z0 s) (hk0 : 317384 &&& k0 = 317384) :
    Moves k0 z0 (fence s cls i reason) := by
  refine hz.trans ?_
  clear hz
  unfold fence
  repeat' first
    | with_reducible exact Moves.refl _ _
    | with_reducible assumption
    | with_reducible exact mask_le hk0 (by decide)
    | with_reducible apply Moves.ite
    | with_reducible apply Moves.ite_fst
    | with_reducible (apply State.modUnit_moves)
    | with_reducible (apply alertLatch_moves)
    | with_reducible (apply failXfers_moves)
    | with_reducible (apply fenceCoreWork_moves)
    | with_reducible (apply fenceCoreWork_pmoves; assumption)
    | with_reducible (apply fenceEvent_moves)
    | with_reducible (apply fenceLaneWork_moves)
    | with_reducible (apply fenceLaneWork_pmoves; assumption)
    | with_reducible (apply leaveGroup_moves)
    | with_reducible (apply leaveGroup_pmoves; assumption)
    | with_reducible (apply roundCoreFenced_moves)
    | with_reducible (apply Moves.foldl)
    | with_reducible (apply Moves.foldl_fst)
    | with_reducible (apply Moves.of_eq; assumption)
    | with_reducible intro _
    | dsimp only
    | split
    | with_reducible (apply Moves.put_fences)

theorem unfence_moves (s : State) (cls : Nat) (i : Nat) (action : Nat) {k0 : Nat} {z0 : State} (hz : Moves k0 z0 s) (hk0 : 267336 &&& k0 = 267336) :
    Moves k0 z0 (unfence s cls i action) := by
  refine hz.trans ?_
  clear hz
  unfold unfence
  repeat' first
    | with_reducible exact Moves.refl _ _
    | with_reducible assumption
    | with_reducible exact mask_le hk0 (by decide)
    | with_reducible apply Moves.ite
    | with_reducible apply Moves.ite_fst
    | with_reducible (apply State.modUnit_moves)
    | with_reducible (apply fenceEvent_moves)
    | with_reducible (apply Moves.foldl)
    | with_reducible (apply Moves.foldl_fst)
    | with_reducible (apply Moves.of_eq; assumption)
    | with_reducible intro _
    | dsimp only
    | split

theorem callUnit_moves (s : State) (cls : Nat) (i : Nat) {k0 : Nat} {z0 : State} (hz : Moves k0 z0 s) (hk0 : 317384 &&& k0 = 317384) :
    Moves k0 z0 (callUnit s cls i) := by
  refine hz.trans ?_
  clear hz
  unfold callUnit
  repeat' first
    | with_reducible exact Moves.refl _ _
    | with_reducible assumption
    | with_reducible exact mask_le hk0 (by decide)
    | with_reducible apply Moves.ite
    | with_reducible apply Moves.ite_fst
    | with_reducible (apply State.modUnit_moves)
    | with_reducible (apply fence_moves)
    | with_reducible (apply unfence_moves)
    | with_reducible (apply Moves.foldl)
    | with_reducible (apply Moves.foldl_fst)
    | with_reducible (apply Moves.of_eq; assumption)
    | with_reducible intro _
    | dsimp only
    | split

theorem seeUnit_moves (s : State) (v : UnitView) {k0 : Nat} {z0 : State} (hz : Moves k0 z0 s) (hk0 : 4096 &&& k0 = 4096) :
    Moves k0 z0 (seeUnit s v) := by
  refine hz.trans ?_
  clear hz
  unfold seeUnit
  repeat' first
    | with_reducible exact Moves.refl _ _
    | with_reducible assumption
    | with_reducible exact mask_le hk0 (by decide)
    | with_reducible apply Moves.ite
    | with_reducible apply Moves.ite_fst
    | with_reducible (apply State.modUnit_moves)
    | with_reducible (apply Moves.foldl)
    | with_reducible (apply Moves.foldl_fst)
    | with_reducible (apply Moves.of_eq; assumption)
    | with_reducible intro _
    | dsimp only
    | split

theorem rollCall_moves (s : State) (views : List UnitView) {k0 : Nat} {z0 : State} (hz : Moves k0 z0 s) (hk0 : 317384 &&& k0 = 317384) :
    Moves k0 z0 (rollCall s views) := by
  refine hz.trans ?_
  clear hz
  unfold rollCall
  repeat' first
    | with_reducible exact Moves.refl _ _
    | with_reducible assumption
    | with_reducible exact mask_le hk0 (by decide)
    | with_reducible apply Moves.ite
    | with_reducible apply Moves.ite_fst
    | with_reducible (apply callUnit_moves)
    | with_reducible (apply seeUnit_moves)
    | with_reducible (apply Moves.foldl)
    | with_reducible (apply Moves.foldl_fst)
    | with_reducible (apply Moves.of_eq; assumption)
    | with_reducible intro _
    | dsimp only
    | split
    | with_reducible (apply Moves.put_fences)

theorem dealerFault_moves (s : State) (cls : Nat) (i : Nat) {k0 : Nat} {z0 : State} (hz : Moves k0 z0 s) (hk0 : 317384 &&& k0 = 317384) :
    Moves k0 z0 (dealerFault s cls i) := by
  refine hz.trans ?_
  clear hz
  unfold dealerFault
  repeat' first
    | with_reducible exact Moves.refl _ _
    | with_reducible assumption
    | with_reducible exact mask_le hk0 (by decide)
    | with_reducible apply Moves.ite
    | with_reducible apply Moves.ite_fst
    | with_reducible (apply State.modUnit_moves)
    | with_reducible (apply fence_moves)
    | with_reducible (apply Moves.foldl)
    | with_reducible (apply Moves.foldl_fst)
    | with_reducible (apply Moves.of_eq; assumption)
    | with_reducible intro _
    | dsimp only
    | split

theorem lamphouseDisable_moves (s : State) (cls : Nat) (i : Nat) (power : Bool) {k0 : Nat} {z0 : State} (hz : Moves k0 z0 s) (hk0 : 317384 &&& k0 = 317384) :
    Moves k0 z0 (lamphouseDisable s cls i power) := by
  refine hz.trans ?_
  clear hz
  unfold lamphouseDisable
  repeat' first
    | with_reducible exact Moves.refl _ _
    | with_reducible assumption
    | with_reducible exact mask_le hk0 (by decide)
    | with_reducible apply Moves.ite
    | with_reducible apply Moves.ite_fst
    | with_reducible (apply State.modUnit_moves)
    | with_reducible (apply fence_moves)
    | with_reducible (apply Moves.foldl)
    | with_reducible (apply Moves.foldl_fst)
    | with_reducible (apply Moves.of_eq; assumption)
    | with_reducible intro _
    | dsimp only
    | split

theorem fenceClear_moves (s : State) (seq : Nat) (l : Nat) {k0 : Nat} {z0 : State} (hz : Moves k0 z0 s) (hk0 : 267464 &&& k0 = 267464) :
    Moves k0 z0 (fenceClear s seq l) := by
  refine hz.trans ?_
  clear hz
  unfold fenceClear
  repeat' first
    | with_reducible exact Moves.refl _ _
    | with_reducible assumption
    | with_reducible exact mask_le hk0 (by decide)
    | with_reducible apply Moves.ite
    | with_reducible apply Moves.ite_fst
    | with_reducible (apply State.modUnit_moves)
    | with_reducible (apply completeCmd_moves)
    | with_reducible (apply failAt_moves)
    | with_reducible (apply passCmd_moves)
    | with_reducible (apply unfence_moves)
    | with_reducible (apply Moves.foldl)
    | with_reducible (apply Moves.foldl_fst)
    | with_reducible (apply Moves.of_eq; assumption)
    | with_reducible intro _
    | dsimp only
    | split

end Sys2Proof.Machine
end

