-- ==== Sys2Proof/Laws/MovesClaimLife.lean ====
section
/-! SUPPORT. What each operation of Machine/ClaimLife.lean may change. -/

set_option linter.unreachableTactic false
set_option linter.unusedTactic false
set_option linter.unusedVariables false

namespace Sys2Proof.Machine

theorem grantDescs_moves (n : Nat) (is : List Nat) (s : State) (fs : List Nat) {z1 : State} {gs : List Nat} (he : grantDescs n is s fs = some (z1, gs))
    {k0 : Nat} {z0 : State} (hz : Moves k0 z0 s) (hk0 : 256 &&& k0 = 256) : Moves k0 z0 z1 := by
  induction is generalizing s fs with
  | nil =>
    unfold grantDescs at he
    cases he
    exact hz
  | cons i is ih =>
    unfold grantDescs at he
    cases h : takeFrame s n (homeDie (descPage i)) with
    | none => rw [h] at he; cases he
    | some r =>
      rw [h] at he
      exact ih _ _ he (takeFrame_moves _ _ _ h hz (mask_le hk0 (by decide)))

theorem openTallies_moves (s : State) (base : Nat) (count : Nat) (oldBase : Nat) (oldCount : Nat) {k0 : Nat} {z0 : State} (hz : Moves k0 z0 s) (hk0 : 512 &&& k0 = 512) :
    Moves k0 z0 (openTallies s base count oldBase oldCount) := by
  refine hz.trans ?_
  clear hz
  unfold openTallies
  repeat' first
    | with_reducible exact Moves.refl _ _
    | with_reducible assumption
    | with_reducible exact mask_le hk0 (by decide)
    | with_reducible apply Moves.ite
    | with_reducible apply Moves.ite_fst
    | with_reducible (apply State.modTally_moves)
    | with_reducible (apply Moves.foldl)
    | with_reducible (apply Moves.foldl_fst)
    | with_reducible (apply Moves.of_eq; assumption)
    | with_reducible intro _
    | dsimp only
    | split

theorem quotaEvent_moves (s : State) (n : Nat) {k0 : Nat} {z0 : State} (hz : Moves k0 z0 s) (hk0 : 1096 &&& k0 = 1096) :
    Moves k0 z0 (quotaEvent s n) := by
  refine hz.trans ?_
  clear hz
  unfold quotaEvent
  repeat' first
    | with_reducible exact Moves.refl _ _
    | with_reducible assumption
    | with_reducible exact mask_le hk0 (by decide)
    | with_reducible apply Moves.ite
    | with_reducible apply Moves.ite_fst
    | with_reducible (apply postEvent_moves)
    | with_reducible (apply Moves.foldl)
    | with_reducible (apply Moves.foldl_fst)
    | with_reducible (apply Moves.of_eq; assumption)
    | with_reducible intro _
    | dsimp only
    | split

theorem createClaim_all (s : State) (b : List Byte) {k0 : Nat} {z0 : State} (hz : Moves k0 z0 s) (hk0 : 1866 &&& k0 = 1866) :
    (∀ z1, createClaim s b = .ok z1 → Moves k0 z0 z1) ∧ ∀ z1 c, createClaim s b = .error (z1, c) → Moves k0 z0 z1 := by
  unfold createClaim
  dsimp only
  split
  · refine ⟨fun _ h => (nomatch h), fun z1 c h => ?_⟩
    cases h
    exact clearNeeded_moves _ _ _ _ hz (mask_le hk0 (by decide))
  · rename_i s1 fs hd
    refine ⟨fun z1 h => ?_, fun _ _ h => (nomatch h)⟩
    cases h
    have h1 := grantDescs_moves _ _ _ _ hd hz (mask_le hk0 (by decide))
    refine quotaEvent_moves _ _ (State.draw_moves _ (State.modTiers_moves _ _ rfl rfl (openTallies_moves _ _ _ _ _ ?_ (mask_le hk0 (by decide)))
      (mask_le hk0 (by decide))) (mask_le hk0 (by decide))) (mask_le hk0 (by decide))
    exact State.modClaim_moves _ _ _ h1 (mask_le hk0 (by decide))

theorem createClaim_moves (s : State) (b : List Byte) {z1 : State} (he : createClaim s b = .ok z1) {k0 : Nat} {z0 : State} (hz : Moves k0 z0 s)
    (hk0 : 1866 &&& k0 = 1866) : Moves k0 z0 z1 := (createClaim_all s b hz hk0).1 z1 he

theorem createClaim_emoves (s : State) (b : List Byte) {z1 : State} {c : Nat} (he : createClaim s b = .error (z1, c)) {k0 : Nat} {z0 : State}
    (hz : Moves k0 z0 s) (hk0 : 1866 &&& k0 = 1866) : Moves k0 z0 z1 := (createClaim_all s b hz hk0).2 z1 c he

theorem disarmWaits_moves (s : State) (n : Nat) {k0 : Nat} {z0 : State} (hz : Moves k0 z0 s) (hk0 : 1544 &&& k0 = 1544) :
    Moves k0 z0 (disarmWaits s n) := by
  refine hz.trans ?_
  clear hz
  unfold disarmWaits
  repeat' first
    | with_reducible exact Moves.refl _ _
    | with_reducible assumption
    | with_reducible exact mask_le hk0 (by decide)
    | with_reducible apply Moves.ite
    | with_reducible apply Moves.ite_fst
    | with_reducible (apply endHostWait_moves)
    | with_reducible (apply Moves.foldl)
    | with_reducible (apply Moves.foldl_fst)
    | with_reducible (apply Moves.of_eq; assumption)
    | with_reducible intro _
    | dsimp only
    | split

theorem modifyClaim_moves (s : State) (b : List Byte) {k0 : Nat} {z0 : State} (hz : Moves k0 z0 s) (hk0 : 1864 &&& k0 = 1864) :
    Moves k0 z0 (modifyClaim s b) := by
  refine hz.trans ?_
  clear hz
  unfold modifyClaim
  repeat' first
    | with_reducible exact Moves.refl _ _
    | with_reducible assumption
    | with_reducible exact mask_le hk0 (by decide)
    | with_reducible apply Moves.ite
    | with_reducible apply Moves.ite_fst
    | with_reducible (apply State.modClaim_moves)
    | with_reducible (apply changeShare_moves)
    | with_reducible (apply disarmWaits_moves)
    | with_reducible (apply openTallies_moves)
    | with_reducible (apply quotaEvent_moves)
    | with_reducible (apply relieveT1_moves)
    | with_reducible (apply updateLedgerFull_moves)
    | with_reducible (apply Moves.foldl)
    | with_reducible (apply Moves.foldl_fst)
    | with_reducible (apply Moves.of_eq; assumption)
    | with_reducible intro _
    | dsimp only
    | split

theorem claimCmd_moves (s : State) (seq : Nat) (l : Nat) (create : Bool) (r : HostResp) {k0 : Nat} {z0 : State} (hz : Moves k0 z0 s) (hk0 : 526282 &&& k0 = 526282) :
    Moves k0 z0 (claimCmd s seq l create r) := by
  refine hz.trans ?_
  clear hz
  unfold claimCmd
  repeat' first
    | with_reducible exact Moves.refl _ _
    | with_reducible assumption
    | with_reducible exact mask_le hk0 (by decide)
    | with_reducible apply Moves.ite
    | with_reducible apply Moves.ite_fst
    | with_reducible (apply completeCmd_moves)
    | with_reducible (apply createClaim_moves; assumption)
    | with_reducible (apply createClaim_emoves; assumption)
    | with_reducible (apply failAt_moves)
    | with_reducible (apply modifyClaim_moves)
    | with_reducible (apply passCmd_moves)
    | with_reducible (apply readHost_moves)
    | with_reducible (apply readHost_pmoves; assumption)
    | with_reducible (apply Moves.foldl)
    | with_reducible (apply Moves.foldl_fst)
    | with_reducible (apply Moves.of_eq; assumption)
    | with_reducible intro _
    | dsimp only
    | split

theorem resolveShoe_moves (s : State) (n : Nat) (cause : Nat) {k0 : Nat} {z0 : State} (hz : Moves k0 z0 s) (hk0 : 128 &&& k0 = 128) :
    Moves k0 z0 (resolveShoe s n cause) := by
  refine hz.trans ?_
  clear hz
  unfold resolveShoe
  repeat' first
    | with_reducible exact Moves.refl _ _
    | with_reducible assumption
    | with_reducible exact mask_le hk0 (by decide)
    | with_reducible apply Moves.ite
    | with_reducible apply Moves.ite_fst
    | with_reducible (apply State.modItem_moves)
    | with_reducible (apply failItem_moves)
    | with_reducible (apply Moves.foldl)
    | with_reducible (apply Moves.foldl_fst)
    | with_reducible (apply Moves.of_eq; assumption)
    | with_reducible intro _
    | dsimp only
    | split

theorem claimRelease_moves (s : State) (seq : Nat) (l : Nat) {k0 : Nat} {z0 : State} (hz : Moves k0 z0 s) (hk0 : 329416 &&& k0 = 329416) :
    Moves k0 z0 (claimRelease s seq l) := by
  refine hz.trans ?_
  clear hz
  unfold claimRelease
  repeat' first
    | with_reducible exact Moves.refl _ _
    | with_reducible assumption
    | with_reducible exact mask_le hk0 (by decide)
    | with_reducible apply Moves.ite
    | with_reducible apply Moves.ite_fst
    | with_reducible (apply State.modClaim_moves)
    | with_reducible (apply endGrant_moves)
    | with_reducible (apply failAt_moves)
    | with_reducible (apply heldCmd_moves)
    | with_reducible (apply passCmd_moves)
    | with_reducible (apply resolveShoe_moves)
    | with_reducible (apply writeOutcomes_moves)
    | with_reducible (apply Moves.foldl)
    | with_reducible (apply Moves.foldl_fst)
    | with_reducible (apply Moves.of_eq; assumption)
    | with_reducible intro _
    | dsimp only
    | split

theorem foreignPages_moves (s : State) (n : Nat) {k0 : Nat} {z0 : State} (hz : Moves k0 z0 s) (hk0 : 1352 &&& k0 = 1352) :
    Moves k0 z0 (foreignPages s n) := by
  refine hz.trans ?_
  clear hz
  unfold foreignPages
  repeat' first
    | with_reducible exact Moves.refl _ _
    | with_reducible assumption
    | with_reducible exact mask_le hk0 (by decide)
    | with_reducible apply Moves.ite
    | with_reducible apply Moves.ite_fst
    | with_reducible (apply State.modTiers_moves (h1 := rfl) (h2 := rfl))
    | with_reducible (apply State.modTiers_moves (h1 := by split <;> rfl) (h2 := by split <;> rfl))
    | with_reducible (apply cancelMove_moves)
    | with_reducible (apply evictCharge_moves)
    | with_reducible (apply Moves.foldl)
    | with_reducible (apply Moves.foldl_fst)
    | with_reducible (apply Moves.of_eq; assumption)
    | with_reducible intro _
    | dsimp only
    | split

theorem clearBinding_moves (s : State) (n : Nat) {k0 : Nat} {z0 : State} (hz : Moves k0 z0 s) (hk0 : 64 &&& k0 = 64) :
    Moves k0 z0 (clearBinding s n) := by
  refine hz.trans ?_
  clear hz
  unfold clearBinding
  repeat' first
    | with_reducible exact Moves.refl _ _
    | with_reducible assumption
    | with_reducible exact mask_le hk0 (by decide)
    | with_reducible apply Moves.ite
    | with_reducible apply Moves.ite_fst
    | with_reducible (apply State.modCl_moves)
    | with_reducible (apply Moves.foldl)
    | with_reducible (apply Moves.foldl_fst)
    | with_reducible (apply Moves.of_eq; assumption)
    | with_reducible intro _
    | dsimp only
    | split

theorem clearWindow_moves (s : State) (n : Nat) {k0 : Nat} {z0 : State} (hz : Moves k0 z0 s) (hk0 : 704 &&& k0 = 704) :
    Moves k0 z0 (clearWindow s n) := by
  refine hz.trans ?_
  clear hz
  unfold clearWindow
  repeat' first
    | with_reducible exact Moves.refl _ _
    | with_reducible assumption
    | with_reducible exact mask_le hk0 (by decide)
    | with_reducible apply Moves.ite
    | with_reducible apply Moves.ite_fst
    | with_reducible (apply State.modCl_moves)
    | with_reducible (apply State.modShoe_moves)
    | with_reducible (apply State.modSync_moves)
    | with_reducible (apply Moves.foldl)
    | with_reducible (apply Moves.foldl_fst)
    | with_reducible (apply Moves.of_eq; assumption)
    | with_reducible intro _
    | dsimp only
    | split

theorem clearRegions_moves (s : State) (n : Nat) {k0 : Nat} {z0 : State} (hz : Moves k0 z0 s) (hk0 : 1048576 &&& k0 = 1048576) :
    Moves k0 z0 (clearRegions s n) := by
  refine hz.trans ?_
  clear hz
  unfold clearRegions
  repeat' first
    | with_reducible exact Moves.refl _ _
    | with_reducible assumption
    | with_reducible exact mask_le hk0 (by decide)
    | with_reducible apply Moves.ite
    | with_reducible apply Moves.ite_fst
    | with_reducible (apply State.modClaimNet_moves)
    | with_reducible (apply Moves.foldl)
    | with_reducible (apply Moves.foldl_fst)
    | with_reducible (apply Moves.of_eq; assumption)
    | with_reducible intro _
    | dsimp only
    | split

theorem releaseEnd_moves (s : State) (n : Nat) {k0 : Nat} {z0 : State} (hz : Moves k0 z0 s) (hk0 : 3196872 &&& k0 = 3196872) :
    Moves k0 z0 (releaseEnd s n) := by
  refine hz.trans ?_
  clear hz
  unfold releaseEnd
  repeat' first
    | with_reducible exact Moves.refl _ _
    | with_reducible assumption
    | with_reducible exact mask_le hk0 (by decide)
    | with_reducible apply Moves.ite
    | with_reducible apply Moves.ite_fst
    | with_reducible (apply State.modClaim_moves)
    | with_reducible (apply State.modDl_moves)
    | with_reducible (apply State.modItem_moves)
    | with_reducible (apply State.modNet_moves)
    | with_reducible (apply clearBinding_moves)
    | with_reducible (apply clearRegions_moves)
    | with_reducible (apply clearWindow_moves)
    | with_reducible (apply completeCmd_moves)
    | with_reducible (apply failRoundsOf_moves)
    | with_reducible (apply foreignPages_moves)
    | with_reducible (apply poisonClaimTallies_moves)
    | with_reducible (apply unbindIndex_moves)
    | with_reducible (apply Moves.foldl)
    | with_reducible (apply Moves.foldl_fst)
    | with_reducible (apply Moves.of_eq; assumption)
    | with_reducible intro _
    | dsimp only
    | split

theorem functionReset_moves (s : State) (n : Nat) {k0 : Nat} {z0 : State} (hz : Moves k0 z0 s) (hk0 : 1427400 &&& k0 = 1427400) :
    Moves k0 z0 (functionReset s n) := by
  refine hz.trans ?_
  clear hz
  unfold functionReset
  repeat' first
    | with_reducible exact Moves.refl _ _
    | with_reducible assumption
    | with_reducible exact mask_le hk0 (by decide)
    | with_reducible apply Moves.ite
    | with_reducible apply Moves.ite_fst
    | with_reducible (apply State.modClaim_moves)
    | with_reducible (apply State.modDl_moves)
    | with_reducible (apply State.modFn_moves)
    | with_reducible (apply clearRegions_moves)
    | with_reducible (apply clearWindow_moves)
    | with_reducible (apply endGrant_moves)
    | with_reducible (apply failRoundsOf_moves)
    | with_reducible (apply poisonClaimTallies_moves)
    | with_reducible (apply postEvent_moves)
    | with_reducible (apply qpsErr_moves)
    | with_reducible (apply resolveShoe_moves)
    | with_reducible (apply Moves.foldl)
    | with_reducible (apply Moves.foldl_fst)
    | with_reducible (apply Moves.of_eq; assumption)
    | with_reducible intro _
    | dsimp only
    | split

theorem resetComplete_moves (s : State) (n : Nat) {k0 : Nat} {z0 : State} (hz : Moves k0 z0 s) (hk0 : 1728 &&& k0 = 1728) :
    Moves k0 z0 (resetComplete s n) := by
  refine hz.trans ?_
  clear hz
  unfold resetComplete
  repeat' first
    | with_reducible exact Moves.refl _ _
    | with_reducible assumption
    | with_reducible exact mask_le hk0 (by decide)
    | with_reducible apply Moves.ite
    | with_reducible apply Moves.ite_fst
    | with_reducible (apply State.modClaim_moves)
    | with_reducible (apply State.modFn_moves)
    | with_reducible (apply clearWindow_moves)
    | with_reducible (apply Moves.foldl)
    | with_reducible (apply Moves.foldl_fst)
    | with_reducible (apply Moves.of_eq; assumption)
    | with_reducible intro _
    | dsimp only
    | split

theorem vfClear_moves (s : State) (enable : Bool) (numVfs : Nat) {k0 : Nat} {z0 : State} (hz : Moves k0 z0 s) (hk0 : 1951688 &&& k0 = 1951688) :
    Moves k0 z0 (vfClear s enable numVfs) := by
  refine hz.trans ?_
  clear hz
  unfold vfClear
  repeat' first
    | with_reducible exact Moves.refl _ _
    | with_reducible assumption
    | with_reducible exact mask_le hk0 (by decide)
    | with_reducible apply Moves.ite
    | with_reducible apply Moves.ite_fst
    | with_reducible (apply functionReset_moves)
    | with_reducible (apply Moves.foldl)
    | with_reducible (apply Moves.foldl_fst)
    | with_reducible (apply Moves.of_eq; assumption)
    | with_reducible intro _
    | dsimp only
    | split
    | with_reducible (apply Moves.put_pcie)

theorem vfSet_moves (s : State) (num : Nat) {k0 : Nat} {z0 : State} (hz : Moves k0 z0 s) (hk0 : 524288 &&& k0 = 524288) :
    Moves k0 z0 (vfSet s num) := by
  exact hz.trans ((Moves.put (s := s) (t := (vfSet s num)) (m := 524288) rfl rfl rfl rfl rfl (by intro p hp; cases p <;> first | rfl | exact absurd hp (by decide))).mono hk0)

theorem pfReset_moves (s : State) {k0 : Nat} {z0 : State} (hz : Moves k0 z0 s) (hk0 : 1951688 &&& k0 = 1951688) :
    Moves k0 z0 (pfReset s) := by
  refine hz.trans ?_
  clear hz
  unfold pfReset
  repeat' first
    | with_reducible exact Moves.refl _ _
    | with_reducible assumption
    | with_reducible exact mask_le hk0 (by decide)
    | with_reducible apply Moves.ite
    | with_reducible apply Moves.ite_fst
    | with_reducible (apply State.modCl_moves)
    | with_reducible (apply State.modFn_moves)
    | with_reducible (apply State.modShoe_moves)
    | with_reducible (apply functionReset_moves)
    | with_reducible (apply resolveShoe_moves)
    | with_reducible (apply Moves.foldl)
    | with_reducible (apply Moves.foldl_fst)
    | with_reducible (apply Moves.of_eq; assumption)
    | with_reducible intro _
    | dsimp only
    | split
    | with_reducible (apply Moves.put_pcie)

theorem pcieDown_moves (s : State) {k0 : Nat} {z0 : State} (hz : Moves k0 z0 s) (hk0 : 1951688 &&& k0 = 1951688) :
    Moves k0 z0 (pcieDown s) := by
  refine hz.trans ?_
  clear hz
  unfold pcieDown
  repeat' first
    | with_reducible exact Moves.refl _ _
    | with_reducible assumption
    | with_reducible exact mask_le hk0 (by decide)
    | with_reducible apply Moves.ite
    | with_reducible apply Moves.ite_fst
    | with_reducible (apply pfReset_moves)
    | with_reducible (apply Moves.foldl)
    | with_reducible (apply Moves.foldl_fst)
    | with_reducible (apply Moves.of_eq; assumption)
    | with_reducible intro _
    | dsimp only
    | split
    | with_reducible (apply Moves.put_pcie)

end Sys2Proof.Machine
end

