-- ==== Sys2Proof/Laws/MovesSecOps.lean ====
section
/-! SUPPORT. What each operation of Machine/SecOps.lean may change. -/

set_option linter.unreachableTactic false
set_option linter.unusedTactic false
set_option linter.unusedVariables false

namespace Sys2Proof.Machine

theorem drawNonce_moves (s : State) {k0 : Nat} {z0 : State} (hz : Moves k0 z0 s) (hk0 : 65538 &&& k0 = 65538) :
    Moves k0 z0 (drawNonce s) := by
  refine hz.trans ?_
  clear hz
  unfold drawNonce
  repeat' first
    | with_reducible exact Moves.refl _ _
    | with_reducible assumption
    | with_reducible exact mask_le hk0 (by decide)
    | with_reducible apply Moves.ite
    | with_reducible apply Moves.ite_fst
    | with_reducible (apply State.draw_moves)
    | with_reducible (apply State.modDbg_moves)
    | with_reducible (apply Moves.foldl)
    | with_reducible (apply Moves.foldl_fst)
    | with_reducible (apply Moves.of_eq; assumption)
    | with_reducible intro _
    | dsimp only
    | split

theorem setMeasure_moves (s : State) (i : Nat) (v : List Byte) {k0 : Nat} {z0 : State} (hz : Moves k0 z0 s) (hk0 : 65536 &&& k0 = 65536) :
    Moves k0 z0 (setMeasure s i v) := by
  refine hz.trans ?_
  clear hz
  unfold setMeasure
  repeat' first
    | with_reducible exact Moves.refl _ _
    | with_reducible assumption
    | with_reducible exact mask_le hk0 (by decide)
    | with_reducible apply Moves.ite
    | with_reducible apply Moves.ite_fst
    | with_reducible (apply State.modDbg_moves)
    | with_reducible (apply Moves.foldl)
    | with_reducible (apply Moves.foldl_fst)
    | with_reducible (apply Moves.of_eq; assumption)
    | with_reducible intro _
    | dsimp only
    | split

theorem extendMeasure_moves (s : State) (i : Nat) (input : List Byte) {k0 : Nat} {z0 : State} (hz : Moves k0 z0 s) (hk0 : 65536 &&& k0 = 65536) :
    Moves k0 z0 (extendMeasure s i input) := by
  refine hz.trans ?_
  clear hz
  unfold extendMeasure
  repeat' first
    | with_reducible exact Moves.refl _ _
    | with_reducible assumption
    | with_reducible exact mask_le hk0 (by decide)
    | with_reducible apply Moves.ite
    | with_reducible apply Moves.ite_fst
    | with_reducible (apply setMeasure_moves)
    | with_reducible (apply Moves.foldl)
    | with_reducible (apply Moves.foldl_fst)
    | with_reducible (apply Moves.of_eq; assumption)
    | with_reducible intro _
    | dsimp only
    | split

theorem State.modFlash_moves (s : State) (f : Flash → Flash) (hf : flashOk s.boot.flash.cells → flashOk (f s.boot.flash).cells) {k0 : Nat}
    {z0 : State} (hz : Moves k0 z0 s) (hk0 : 16 &&& k0 = 16) : Moves k0 z0 (s.modFlash f) := by
  refine hz.trans (Moves.mono (k := 16) ⟨rfl, ⟨[], by simp [State.modFlash, State.modBoot]⟩, fun w => ?_, ?_⟩ hk0)
  · have h := memWf_parts w
    exact memWf_of h.1 h.2.1 (hf h.2.2)
  · intro p hp
    cases p <;> first | rfl | exact absurd hp (by decide)

theorem flashWrite_ok (f : Flash) (a : Nat) (bs : List Byte) (h : flashOk f.cells) : flashOk (flashWrite f a bs).cells := flashPut_ok a bs h

theorem measureSeat_moves (s : State) {k0 : Nat} {z0 : State} (hz : Moves k0 z0 s) (hk0 : 65536 &&& k0 = 65536) :
    Moves k0 z0 (measureSeat s) := by
  refine hz.trans ?_
  clear hz
  unfold measureSeat
  repeat' first
    | with_reducible exact Moves.refl _ _
    | with_reducible assumption
    | with_reducible exact mask_le hk0 (by decide)
    | with_reducible apply Moves.ite
    | with_reducible apply Moves.ite_fst
    | with_reducible (apply setMeasure_moves)
    | with_reducible (apply Moves.foldl)
    | with_reducible (apply Moves.foldl_fst)
    | with_reducible (apply Moves.of_eq; assumption)
    | with_reducible intro _
    | dsimp only
    | split

theorem raiseRollback_moves (s : State) {k0 : Nat} {z0 : State} (hz : Moves k0 z0 s) (hk0 : 16 &&& k0 = 16) :
    Moves k0 z0 (raiseRollback s) := by
  refine hz.trans ?_
  clear hz
  unfold raiseRollback
  repeat' first
    | with_reducible exact Moves.refl _ _
    | with_reducible assumption
    | with_reducible exact mask_le hk0 (by decide)
    | with_reducible apply Moves.ite
    | with_reducible apply Moves.ite_fst
    | with_reducible (apply State.modBoot_moves (h1 := rfl))
    | with_reducible (apply State.modBoot_moves (h1 := by split <;> rfl))
    | with_reducible (apply Moves.foldl)
    | with_reducible (apply Moves.foldl_fst)
    | with_reducible (apply Moves.of_eq; assumption)
    | with_reducible intro _
    | dsimp only
    | split

theorem sealRecord_moves (s : State) (flashOk : Bool) {k0 : Nat} {z0 : State} (hz : Moves k0 z0 s) (hk0 : 345178 &&& k0 = 345178) :
    Moves k0 z0 (sealRecord s flashOk) := by
  refine hz.trans ?_
  clear hz
  unfold sealRecord
  repeat' first
    | with_reducible exact Moves.refl _ _
    | with_reducible assumption
    | with_reducible exact mask_le hk0 (by decide)
    | with_reducible apply Moves.ite
    | with_reducible apply Moves.ite_fst
    | with_reducible (apply State.modBoot_moves (h1 := rfl))
    | with_reducible (apply State.modBoot_moves (h1 := by split <;> rfl))
    | with_reducible (apply State.modDbg_moves)
    | with_reducible (apply State.modFlash_moves (hf := flashWrite_ok _ _ _))
    | with_reducible (apply State.modFlash_moves (hf := flashOk_drop _ _))
    | with_reducible (apply State.modFlash_moves (hf := id))
    | with_reducible (apply freeBytes_moves)
    | with_reducible (apply freeBytes_pmoves; assumption)
    | with_reducible (apply measureSeat_moves)
    | with_reducible (apply raiseRollback_moves)
    | with_reducible (apply secEvent_moves)
    | with_reducible (apply sendHello_moves)
    | with_reducible (apply setDev_moves)
    | with_reducible (apply Moves.foldl)
    | with_reducible (apply Moves.foldl_fst)
    | with_reducible (apply Moves.of_eq; assumption)
    | with_reducible intro _
    | dsimp only
    | split

theorem sealCmd_moves (s : State) (seq : Nat) (l : Nat) (flashOk : Bool) {k0 : Nat} {z0 : State} (hz : Moves k0 z0 s) (hk0 : 345306 &&& k0 = 345306) :
    Moves k0 z0 (sealCmd s seq l flashOk) := by
  refine hz.trans ?_
  clear hz
  unfold sealCmd
  repeat' first
    | with_reducible exact Moves.refl _ _
    | with_reducible assumption
    | with_reducible exact mask_le hk0 (by decide)
    | with_reducible apply Moves.ite
    | with_reducible apply Moves.ite_fst
    | with_reducible (apply doneCmd_moves)
    | with_reducible (apply sealRecord_moves)
    | with_reducible (apply Moves.foldl)
    | with_reducible (apply Moves.foldl_fst)
    | with_reducible (apply Moves.of_eq; assumption)
    | with_reducible intro _
    | dsimp only
    | split

theorem State.modSlot_moves (s : State) (i : Nat) (f : KeySlot → KeySlot) {k0 : Nat} {z0 : State} (hz : Moves k0 z0 s) (hk0 : 16 &&& k0 = 16) :
    Moves k0 z0 (State.modSlot s i f) := by
  refine hz.trans ?_
  clear hz
  unfold State.modSlot
  repeat' first
    | with_reducible exact Moves.refl _ _
    | with_reducible assumption
    | with_reducible exact mask_le hk0 (by decide)
    | with_reducible apply Moves.ite
    | with_reducible apply Moves.ite_fst
    | with_reducible (apply State.modBoot_moves (h1 := rfl))
    | with_reducible (apply State.modBoot_moves (h1 := by split <;> rfl))
    | with_reducible (apply Moves.foldl)
    | with_reducible (apply Moves.foldl_fst)
    | with_reducible (apply Moves.of_eq; assumption)
    | with_reducible intro _
    | dsimp only
    | split

theorem keySlotBlock_moves (s : State) (b : List Byte) (verified : Bool) {k0 : Nat} {z0 : State} (hz : Moves k0 z0 s) (hk0 : 263258 &&& k0 = 263258) :
    Moves k0 z0 (keySlotBlock s b verified).1 := by
  refine hz.trans ?_
  clear hz
  unfold keySlotBlock
  repeat' first
    | with_reducible exact Moves.refl _ _
    | with_reducible assumption
    | with_reducible exact mask_le hk0 (by decide)
    | with_reducible apply Moves.ite
    | with_reducible apply Moves.ite_fst
    | with_reducible (apply State.modSlot_moves)
    | with_reducible (apply freeBytes_moves)
    | with_reducible (apply freeBytes_pmoves; assumption)
    | with_reducible (apply secEvent_moves)
    | with_reducible (apply Moves.foldl)
    | with_reducible (apply Moves.foldl_fst)
    | with_reducible (apply Moves.of_eq; assumption)
    | with_reducible intro _
    | dsimp only
    | split

theorem keySlotBlock_pmoves (s : State) (b : List Byte) (verified : Bool) {z1 : State} {y1 : Nat} (he : (keySlotBlock s b verified) = (z1, y1)) {k0 : Nat} {z0 : State} (hz : Moves k0 z0 s) (hk0 : 263258 &&& k0 = 263258) :
    Moves k0 z0 z1 := by
  simpa only [he] using keySlotBlock_moves s b verified hz hk0

theorem grantBlock_moves (s : State) (b : List Byte) {k0 : Nat} {z0 : State} (hz : Moves k0 z0 s) (hk0 : 328776 &&& k0 = 328776) :
    Moves k0 z0 (grantBlock s b).1 := by
  refine hz.trans ?_
  clear hz
  unfold grantBlock
  repeat' first
    | with_reducible exact Moves.refl _ _
    | with_reducible assumption
    | with_reducible exact mask_le hk0 (by decide)
    | with_reducible apply Moves.ite
    | with_reducible apply Moves.ite_fst
    | with_reducible (apply State.modDbg_moves)
    | with_reducible (apply State.modWin_moves)
    | with_reducible (apply extendMeasure_moves)
    | with_reducible (apply secEvent_moves)
    | with_reducible (apply setSec_moves)
    | with_reducible (apply Moves.foldl)
    | with_reducible (apply Moves.foldl_fst)
    | with_reducible (apply Moves.of_eq; assumption)
    | with_reducible intro _
    | dsimp only
    | split

theorem grantBlock_pmoves (s : State) (b : List Byte) {z1 : State} {y1 : Nat} (he : (grantBlock s b) = (z1, y1)) {k0 : Nat} {z0 : State} (hz : Moves k0 z0 s) (hk0 : 328776 &&& k0 = 328776) :
    Moves k0 z0 z1 := by
  simpa only [he] using grantBlock_moves s b hz hk0

theorem revokeGrant_moves (s : State) (n : Nat) {k0 : Nat} {z0 : State} (hz : Moves k0 z0 s) (hk0 : 329416 &&& k0 = 329416) :
    Moves k0 z0 (revokeGrant s n).1 := by
  refine hz.trans ?_
  clear hz
  unfold revokeGrant
  repeat' first
    | with_reducible exact Moves.refl _ _
    | with_reducible assumption
    | with_reducible exact mask_le hk0 (by decide)
    | with_reducible apply Moves.ite
    | with_reducible apply Moves.ite_fst
    | with_reducible (apply endGrant_moves)
    | with_reducible (apply secEvent_moves)
    | with_reducible (apply Moves.foldl)
    | with_reducible (apply Moves.foldl_fst)
    | with_reducible (apply Moves.of_eq; assumption)
    | with_reducible intro _
    | dsimp only
    | split

theorem revokeGrant_pmoves (s : State) (n : Nat) {z1 : State} {y1 : Nat} (he : (revokeGrant s n) = (z1, y1)) {k0 : Nat} {z0 : State} (hz : Moves k0 z0 s) (hk0 : 329416 &&& k0 = 329416) :
    Moves k0 z0 z1 := by
  simpa only [he] using revokeGrant_moves s n hz hk0

theorem grantExpiry_moves (s : State) (n : Nat) {k0 : Nat} {z0 : State} (hz : Moves k0 z0 s) (hk0 : 329416 &&& k0 = 329416) :
    Moves k0 z0 (grantExpiry s n) := by
  refine hz.trans ?_
  clear hz
  unfold grantExpiry
  repeat' first
    | with_reducible exact Moves.refl _ _
    | with_reducible assumption
    | with_reducible exact mask_le hk0 (by decide)
    | with_reducible apply Moves.ite
    | with_reducible apply Moves.ite_fst
    | with_reducible (apply endGrant_moves)
    | with_reducible (apply Moves.foldl)
    | with_reducible (apply Moves.foldl_fst)
    | with_reducible (apply Moves.of_eq; assumption)
    | with_reducible intro _
    | dsimp only
    | split

theorem secBlock_moves (s : State) (len : Nat) (r : HostResp) (k : State → List Byte → State × Nat) {k0 : Nat} {z0 : State} (hz : Moves k0 z0 s) (hk0 : 589834 &&& k0 = 589834) (hk_k : ∀ (v0 : State) (v1 : List Byte), Moves k0 v0 (k v0 v1).1) :
    Moves k0 z0 (secBlock s len r k) := by
  refine hz.trans ?_
  clear hz
  unfold secBlock
  repeat' first
    | with_reducible exact Moves.refl _ _
    | with_reducible assumption
    | with_reducible exact mask_le hk0 (by decide)
    | with_reducible apply Moves.ite
    | with_reducible apply Moves.ite_fst
    | with_reducible (refine Moves.trans ?_ (hk_k ..))
    | with_reducible (apply State.modDbg_moves)
    | with_reducible (apply drawNonce_moves)
    | with_reducible (apply readHost_moves)
    | with_reducible (apply readHost_pmoves; assumption)
    | with_reducible (apply Moves.foldl)
    | with_reducible (apply Moves.foldl_fst)
    | with_reducible (apply Moves.of_eq; assumption)
    | with_reducible intro _
    | dsimp only
    | split

theorem secPlain_moves (s : State) (k : State → State × Nat) {k0 : Nat} {z0 : State} (hz : Moves k0 z0 s) (hk0 : 65536 &&& k0 = 65536) (hk_k : ∀ (v0 : State), Moves k0 v0 (k v0).1) :
    Moves k0 z0 (secPlain s k) := by
  refine hz.trans ?_
  clear hz
  unfold secPlain
  repeat' first
    | with_reducible exact Moves.refl _ _
    | with_reducible assumption
    | with_reducible exact mask_le hk0 (by decide)
    | with_reducible apply Moves.ite
    | with_reducible apply Moves.ite_fst
    | with_reducible (refine Moves.trans ?_ (hk_k ..))
    | with_reducible (apply State.modDbg_moves)
    | with_reducible (apply Moves.foldl)
    | with_reducible (apply Moves.foldl_fst)
    | with_reducible (apply Moves.of_eq; assumption)
    | with_reducible intro _
    | dsimp only
    | split

theorem dbgRefuse_moves (s : State) (n : Nat) (code : Nat) {k0 : Nat} {z0 : State} (hz : Moves k0 z0 s) (hk0 : 65536 &&& k0 = 65536) :
    Moves k0 z0 (dbgRefuse s n code) := by
  refine hz.trans ?_
  clear hz
  unfold dbgRefuse
  repeat' first
    | with_reducible exact Moves.refl _ _
    | with_reducible assumption
    | with_reducible exact mask_le hk0 (by decide)
    | with_reducible apply Moves.ite
    | with_reducible apply Moves.ite_fst
    | with_reducible (apply State.modWin_moves)
    | with_reducible (apply Moves.foldl)
    | with_reducible (apply Moves.foldl_fst)
    | with_reducible (apply Moves.of_eq; assumption)
    | with_reducible intro _
    | dsimp only
    | split

theorem haltClaim_moves (s : State) (n : Nat) {k0 : Nat} {z0 : State} (hz : Moves k0 z0 s) (hk0 : 65664 &&& k0 = 65664) :
    Moves k0 z0 (haltClaim s n) := by
  refine hz.trans ?_
  clear hz
  unfold haltClaim
  repeat' first
    | with_reducible exact Moves.refl _ _
    | with_reducible assumption
    | with_reducible exact mask_le hk0 (by decide)
    | with_reducible apply Moves.ite
    | with_reducible apply Moves.ite_fst
    | with_reducible (apply State.modDl_moves)
    | with_reducible (apply State.modWin_moves)
    | with_reducible (apply Moves.foldl)
    | with_reducible (apply Moves.foldl_fst)
    | with_reducible (apply Moves.of_eq; assumption)
    | with_reducible intro _
    | dsimp only
    | split

theorem stepClaim_moves (s : State) (n : Nat) {k0 : Nat} {z0 : State} (hz : Moves k0 z0 s) (hk0 : 65664 &&& k0 = 65664) :
    Moves k0 z0 (stepClaim s n) := by
  refine hz.trans ?_
  clear hz
  unfold stepClaim
  repeat' first
    | with_reducible exact Moves.refl _ _
    | with_reducible assumption
    | with_reducible exact mask_le hk0 (by decide)
    | with_reducible apply Moves.ite
    | with_reducible apply Moves.ite_fst
    | with_reducible (apply State.modDl_moves)
    | with_reducible (apply State.modWin_moves)
    | with_reducible (apply Moves.foldl)
    | with_reducible (apply Moves.foldl_fst)
    | with_reducible (apply Moves.of_eq; assumption)
    | with_reducible intro _
    | dsimp only
    | split

theorem dbgHalt_moves (s : State) (n : Nat) {k0 : Nat} {z0 : State} (hz : Moves k0 z0 s) (hk0 : 65664 &&& k0 = 65664) :
    Moves k0 z0 (dbgHalt s n) := by
  refine hz.trans ?_
  clear hz
  unfold dbgHalt
  repeat' first
    | with_reducible exact Moves.refl _ _
    | with_reducible assumption
    | with_reducible exact mask_le hk0 (by decide)
    | with_reducible apply Moves.ite
    | with_reducible apply Moves.ite_fst
    | with_reducible (apply dbgRefuse_moves)
    | with_reducible (apply haltClaim_moves)
    | with_reducible (apply Moves.foldl)
    | with_reducible (apply Moves.foldl_fst)
    | with_reducible (apply Moves.of_eq; assumption)
    | with_reducible intro _
    | dsimp only
    | split

theorem dbgStep_moves (s : State) (n : Nat) {k0 : Nat} {z0 : State} (hz : Moves k0 z0 s) (hk0 : 65664 &&& k0 = 65664) :
    Moves k0 z0 (dbgStep s n) := by
  refine hz.trans ?_
  clear hz
  unfold dbgStep
  repeat' first
    | with_reducible exact Moves.refl _ _
    | with_reducible assumption
    | with_reducible exact mask_le hk0 (by decide)
    | with_reducible apply Moves.ite
    | with_reducible apply Moves.ite_fst
    | with_reducible (apply dbgRefuse_moves)
    | with_reducible (apply stepClaim_moves)
    | with_reducible (apply Moves.foldl)
    | with_reducible (apply Moves.foldl_fst)
    | with_reducible (apply Moves.of_eq; assumption)
    | with_reducible intro _
    | dsimp only
    | split

theorem dbgResume_moves (s : State) (n : Nat) {k0 : Nat} {z0 : State} (hz : Moves k0 z0 s) (hk0 : 66176 &&& k0 = 66176) :
    Moves k0 z0 (dbgResume s n) := by
  refine hz.trans ?_
  clear hz
  unfold dbgResume
  repeat' first
    | with_reducible exact Moves.refl _ _
    | with_reducible assumption
    | with_reducible exact mask_le hk0 (by decide)
    | with_reducible apply Moves.ite
    | with_reducible apply Moves.ite_fst
    | with_reducible (apply resumeClaim_moves)
    | with_reducible (apply Moves.foldl)
    | with_reducible (apply Moves.foldl_fst)
    | with_reducible (apply Moves.of_eq; assumption)
    | with_reducible intro _
    | dsimp only
    | split

theorem dbgObserve_moves (s : State) (n : Nat) (v : Nat) {k0 : Nat} {z0 : State} (hz : Moves k0 z0 s) (hk0 : 65664 &&& k0 = 65664) :
    Moves k0 z0 (dbgObserve s n v) := by
  refine hz.trans ?_
  clear hz
  unfold dbgObserve
  repeat' first
    | with_reducible exact Moves.refl _ _
    | with_reducible assumption
    | with_reducible exact mask_le hk0 (by decide)
    | with_reducible apply Moves.ite
    | with_reducible apply Moves.ite_fst
    | with_reducible (apply State.modWin_moves)
    | with_reducible (apply dbgRefuse_moves)
    | with_reducible (apply wakeCores_moves)
    | with_reducible (apply Moves.foldl)
    | with_reducible (apply Moves.foldl_fst)
    | with_reducible (apply Moves.of_eq; assumption)
    | with_reducible intro _
    | dsimp only
    | split

theorem breakHit_moves (s : State) (n : Nat) (seq : Nat) (lv : Level) (g : Nat) {k0 : Nat} {z0 : State} (hz : Moves k0 z0 s) (hk0 : 66760 &&& k0 = 66760) :
    Moves k0 z0 (breakHit s n seq lv g) := by
  refine hz.trans ?_
  clear hz
  unfold breakHit
  repeat' first
    | with_reducible exact Moves.refl _ _
    | with_reducible assumption
    | with_reducible exact mask_le hk0 (by decide)
    | with_reducible apply Moves.ite
    | with_reducible apply Moves.ite_fst
    | with_reducible (apply State.modWin_moves)
    | with_reducible (apply haltClaim_moves)
    | with_reducible (apply postEvent_moves)
    | with_reducible (apply Moves.foldl)
    | with_reducible (apply Moves.foldl_fst)
    | with_reducible (apply Moves.of_eq; assumption)
    | with_reducible intro _
    | dsimp only
    | split

theorem gate_moves (shoe : Nat) (seq : Nat) (l : Nat) (op : Nat) (mine : List Byte → Bool) (k : State → State) (s : State) {k0 : Nat} {z0 : State} (hz : Moves k0 z0 s) (hk0 : 66760 &&& k0 = 66760) (hk_k : ∀ (v0 : State), Moves k0 v0 (k v0)) :
    Moves k0 z0 (gate shoe seq l op mine k s) := by
  refine hz.trans ?_
  clear hz
  unfold gate
  repeat' first
    | with_reducible exact Moves.refl _ _
    | with_reducible assumption
    | with_reducible exact mask_le hk0 (by decide)
    | with_reducible apply Moves.ite
    | with_reducible apply Moves.ite_fst
    | with_reducible (refine Moves.trans ?_ (hk_k ..))
    | with_reducible (apply State.modWin_moves)
    | with_reducible (apply breakHit_moves)
    | with_reducible (apply dbgRefuse_moves)
    | with_reducible (apply Moves.foldl)
    | with_reducible (apply Moves.foldl_fst)
    | with_reducible (apply Moves.of_eq; assumption)
    | with_reducible intro _
    | dsimp only
    | split

theorem jtagLoad_moves (s : State) (inst : Nat) (reg : Nat) (value : Nat) {k0 : Nat} {z0 : State} (hz : Moves k0 z0 s) (hk0 : 65544 &&& k0 = 65544) :
    Moves k0 z0 (jtagLoad s inst reg value) := by
  refine hz.trans ?_
  clear hz
  unfold jtagLoad
  repeat' first
    | with_reducible exact Moves.refl _ _
    | with_reducible assumption
    | with_reducible exact mask_le hk0 (by decide)
    | with_reducible apply Moves.ite
    | with_reducible apply Moves.ite_fst
    | with_reducible (apply State.emit_moves)
    | with_reducible (apply State.modDbg_moves)
    | with_reducible (apply Moves.foldl)
    | with_reducible (apply Moves.foldl_fst)
    | with_reducible (apply Moves.of_eq; assumption)
    | with_reducible intro _
    | dsimp only
    | split

theorem jtagIdcode_moves (s : State) {k0 : Nat} {z0 : State} (hz : Moves k0 z0 s) (hk0 : 65544 &&& k0 = 65544) :
    Moves k0 z0 (jtagIdcode s) := by
  refine hz.trans ?_
  clear hz
  unfold jtagIdcode
  repeat' first
    | with_reducible exact Moves.refl _ _
    | with_reducible assumption
    | with_reducible exact mask_le hk0 (by decide)
    | with_reducible apply Moves.ite
    | with_reducible apply Moves.ite_fst
    | with_reducible (apply jtagLoad_moves)
    | with_reducible (apply Moves.foldl)
    | with_reducible (apply Moves.foldl_fst)
    | with_reducible (apply Moves.of_eq; assumption)
    | with_reducible intro _
    | dsimp only
    | split

theorem jtagBypass_moves (s : State) {k0 : Nat} {z0 : State} (hz : Moves k0 z0 s) (hk0 : 65544 &&& k0 = 65544) :
    Moves k0 z0 (jtagBypass s) := by
  refine hz.trans ?_
  clear hz
  unfold jtagBypass
  repeat' first
    | with_reducible exact Moves.refl _ _
    | with_reducible assumption
    | with_reducible exact mask_le hk0 (by decide)
    | with_reducible apply Moves.ite
    | with_reducible apply Moves.ite_fst
    | with_reducible (apply jtagLoad_moves)
    | with_reducible (apply Moves.foldl)
    | with_reducible (apply Moves.foldl_fst)
    | with_reducible (apply Moves.of_eq; assumption)
    | with_reducible intro _
    | dsimp only
    | split

theorem jtagBoundary_moves (s : State) (extest : Bool) (v : Nat) {k0 : Nat} {z0 : State} (hz : Moves k0 z0 s) (hk0 : 65544 &&& k0 = 65544) :
    Moves k0 z0 (jtagBoundary s extest v) := by
  refine hz.trans ?_
  clear hz
  unfold jtagBoundary
  repeat' first
    | with_reducible exact Moves.refl _ _
    | with_reducible assumption
    | with_reducible exact mask_le hk0 (by decide)
    | with_reducible apply Moves.ite
    | with_reducible apply Moves.ite_fst
    | with_reducible (apply jtagBypass_moves)
    | with_reducible (apply jtagLoad_moves)
    | with_reducible (apply Moves.foldl)
    | with_reducible (apply Moves.foldl_fst)
    | with_reducible (apply Moves.of_eq; assumption)
    | with_reducible intro _
    | dsimp only
    | split

theorem jtagAccess_moves (s : State) (a : DapAction) {k0 : Nat} {z0 : State} (hz : Moves k0 z0 s) (hk0 : 66184 &&& k0 = 66184) :
    Moves k0 z0 (jtagAccess s a) := by
  refine hz.trans ?_
  clear hz
  unfold jtagAccess
  repeat' first
    | with_reducible exact Moves.refl _ _
    | with_reducible assumption
    | with_reducible exact mask_le hk0 (by decide)
    | with_reducible apply Moves.ite
    | with_reducible apply Moves.ite_fst
    | with_reducible (apply State.modDbg_moves)
    | with_reducible (apply haltClaim_moves)
    | with_reducible (apply jtagBypass_moves)
    | with_reducible (apply jtagLoad_moves)
    | with_reducible (apply resumeClaim_moves)
    | with_reducible (apply stepClaim_moves)
    | with_reducible (apply Moves.foldl)
    | with_reducible (apply Moves.foldl_fst)
    | with_reducible (apply Moves.of_eq; assumption)
    | with_reducible intro _
    | dsimp only
    | split

end Sys2Proof.Machine
end

