-- ==== Sys2Proof/Laws/MovesBeatOps.lean ====
section
/-! SUPPORT. What each operation of Machine/BeatOps.lean may change. -/

set_option linter.unreachableTactic false
set_option linter.unusedTactic false
set_option linter.unusedVariables false

namespace Sys2Proof.Machine

theorem State.modBeat_moves (s : State) (f : Beat → Beat) {k0 : Nat} {z0 : State} (hz : Moves k0 z0 s) (hk0 : 32 &&& k0 = 32) :
    Moves k0 z0 (State.modBeat s f) := by
  exact hz.trans ((Moves.put (s := s) (t := (State.modBeat s f)) (m := 32) rfl rfl rfl rfl rfl (by intro p hp; cases p <;> first | rfl | exact absurd hp (by decide))).mono hk0)

theorem shareSet_moves (s : State) (n : Nat) (profile : Nat) {k0 : Nat} {z0 : State} (hz : Moves k0 z0 s) (hk0 : 3144 &&& k0 = 3144) :
    Moves k0 z0 (shareSet s n profile) := by
  refine hz.trans ?_
  clear hz
  unfold shareSet
  repeat' first
    | with_reducible exact Moves.refl _ _
    | with_reducible assumption
    | with_reducible exact mask_le hk0 (by decide)
    | with_reducible apply Moves.ite
    | with_reducible apply Moves.ite_fst
    | with_reducible (apply State.modRedeal_moves)
    | with_reducible (apply changeShare_moves)
    | with_reducible (apply Moves.foldl)
    | with_reducible (apply Moves.foldl_fst)
    | with_reducible (apply Moves.of_eq; assumption)
    | with_reducible intro _
    | dsimp only
    | split

theorem checkpointOpen_moves (s : State) (mask : Nat) (len : Nat) {k0 : Nat} {z0 : State} (hz : Moves k0 z0 s) (hk0 : 1096 &&& k0 = 1096) :
    Moves k0 z0 (checkpointOpen s mask len) := by
  refine hz.trans ?_
  clear hz
  unfold checkpointOpen
  repeat' first
    | with_reducible exact Moves.refl _ _
    | with_reducible assumption
    | with_reducible exact mask_le hk0 (by decide)
    | with_reducible apply Moves.ite
    | with_reducible apply Moves.ite_fst
    | with_reducible (apply State.modClaim_moves)
    | with_reducible (apply postEvent_moves)
    | with_reducible (apply Moves.foldl)
    | with_reducible (apply Moves.foldl_fst)
    | with_reducible (apply Moves.of_eq; assumption)
    | with_reducible intro _
    | dsimp only
    | split

theorem entryAct_moves (s : State) (i : Nat) (views : List UnitView) {k0 : Nat} {z0 : State} (hz : Moves k0 z0 s) (hk0 : 2424776 &&& k0 = 2424776) :
    Moves k0 z0 (entryAct s i views) := by
  refine hz.trans ?_
  clear hz
  unfold entryAct
  repeat' first
    | with_reducible exact Moves.refl _ _
    | with_reducible assumption
    | with_reducible exact mask_le hk0 (by decide)
    | with_reducible apply Moves.ite
    | with_reducible apply Moves.ite_fst
    | with_reducible (apply advanceNamed_moves)
    | with_reducible (apply checkpointOpen_moves)
    | with_reducible (apply heatAge_moves)
    | with_reducible (apply openWindow_moves)
    | with_reducible (apply postEvent_moves)
    | with_reducible (apply rollCall_moves)
    | with_reducible (apply scrubSlice_moves)
    | with_reducible (apply shareSet_moves)
    | with_reducible (apply Moves.foldl)
    | with_reducible (apply Moves.foldl_fst)
    | with_reducible (apply Moves.of_eq; assumption)
    | with_reducible intro _
    | dsimp only
    | split

theorem entryFire_moves (s : State) (i : Nat) (views : List UnitView) {k0 : Nat} {z0 : State} (hz : Moves k0 z0 s) (hk0 : 2424808 &&& k0 = 2424808) :
    Moves k0 z0 (entryFire s i views) := by
  refine hz.trans ?_
  clear hz
  unfold entryFire
  repeat' first
    | with_reducible exact Moves.refl _ _
    | with_reducible assumption
    | with_reducible exact mask_le hk0 (by decide)
    | with_reducible apply Moves.ite
    | with_reducible apply Moves.ite_fst
    | with_reducible (apply State.modBeat_moves)
    | with_reducible (apply entryAct_moves)
    | with_reducible (apply Moves.foldl)
    | with_reducible (apply Moves.foldl_fst)
    | with_reducible (apply Moves.of_eq; assumption)
    | with_reducible intro _
    | dsimp only
    | split

theorem entryNow_moves (s : State) (i : Nat) (views : List UnitView) {k0 : Nat} {z0 : State} (hz : Moves k0 z0 s) (hk0 : 2424808 &&& k0 = 2424808) :
    Moves k0 z0 (entryNow s i views) := by
  refine hz.trans ?_
  clear hz
  unfold entryNow
  repeat' first
    | with_reducible exact Moves.refl _ _
    | with_reducible assumption
    | with_reducible exact mask_le hk0 (by decide)
    | with_reducible apply Moves.ite
    | with_reducible apply Moves.ite_fst
    | with_reducible (apply State.modBeat_moves)
    | with_reducible (apply entryFire_moves)
    | with_reducible (apply Moves.foldl)
    | with_reducible (apply Moves.foldl_fst)
    | with_reducible (apply Moves.of_eq; assumption)
    | with_reducible intro _
    | dsimp only
    | split

theorem fireInOrder_moves (s : State) (es : List (Nat × Nat × Nat)) {k0 : Nat} {z0 : State} (hz : Moves k0 z0 s) (hk0 : 2424808 &&& k0 = 2424808) :
    Moves k0 z0 (fireInOrder s es) := by
  refine hz.trans ?_
  clear hz
  unfold fireInOrder
  repeat' first
    | with_reducible exact Moves.refl _ _
    | with_reducible assumption
    | with_reducible exact mask_le hk0 (by decide)
    | with_reducible apply Moves.ite
    | with_reducible apply Moves.ite_fst
    | with_reducible (apply entryNow_moves)
    | with_reducible (apply Moves.foldl)
    | with_reducible (apply Moves.foldl_fst)
    | with_reducible (apply Moves.of_eq; assumption)
    | with_reducible intro _
    | dsimp only
    | split

theorem reachPhase_moves (s : State) (p : Nat) {k0 : Nat} {z0 : State} (hz : Moves k0 z0 s) (hk0 : 32 &&& k0 = 32) :
    Moves k0 z0 (reachPhase s p) := by
  refine hz.trans ?_
  clear hz
  unfold reachPhase
  repeat' first
    | with_reducible exact Moves.refl _ _
    | with_reducible assumption
    | with_reducible exact mask_le hk0 (by decide)
    | with_reducible apply Moves.ite
    | with_reducible apply Moves.ite_fst
    | with_reducible (apply State.modBeat_moves)
    | with_reducible (apply Moves.foldl)
    | with_reducible (apply Moves.foldl_fst)
    | with_reducible (apply Moves.of_eq; assumption)
    | with_reducible intro _
    | dsimp only
    | split

theorem entryRun_moves (s : State) (i : Nat) (action : Nat) (views : List UnitView) {k0 : Nat} {z0 : State} (hz : Moves k0 z0 s) (hk0 : 2424808 &&& k0 = 2424808) :
    Moves k0 z0 (entryRun s i action views) := by
  refine hz.trans ?_
  clear hz
  unfold entryRun
  repeat' first
    | with_reducible exact Moves.refl _ _
    | with_reducible assumption
    | with_reducible exact mask_le hk0 (by decide)
    | with_reducible apply Moves.ite
    | with_reducible apply Moves.ite_fst
    | with_reducible (apply entryNow_moves)
    | with_reducible (apply fireInOrder_moves)
    | with_reducible (apply reachPhase_moves)
    | with_reducible (apply Moves.foldl)
    | with_reducible (apply Moves.foldl_fst)
    | with_reducible (apply Moves.of_eq; assumption)
    | with_reducible intro _
    | dsimp only
    | split

theorem flushBeat_moves (s : State) {k0 : Nat} {z0 : State} (hz : Moves k0 z0 s) (hk0 : 2424808 &&& k0 = 2424808) :
    Moves k0 z0 (flushBeat s) := by
  refine hz.trans ?_
  clear hz
  unfold flushBeat
  repeat' first
    | with_reducible exact Moves.refl _ _
    | with_reducible assumption
    | with_reducible exact mask_le hk0 (by decide)
    | with_reducible apply Moves.ite
    | with_reducible apply Moves.ite_fst
    | with_reducible (apply closeWindow_moves)
    | with_reducible (apply entryNow_moves)
    | with_reducible (apply Moves.foldl)
    | with_reducible (apply Moves.foldl_fst)
    | with_reducible (apply Moves.of_eq; assumption)
    | with_reducible intro _
    | dsimp only
    | split

theorem catchUp_moves (s : State) (lo : Nat) (hi : Nat) {k0 : Nat} {z0 : State} (hz : Moves k0 z0 s) (hk0 : 2424808 &&& k0 = 2424808) :
    Moves k0 z0 (catchUp s lo hi) := by
  refine hz.trans ?_
  clear hz
  unfold catchUp
  repeat' first
    | with_reducible exact Moves.refl _ _
    | with_reducible assumption
    | with_reducible exact mask_le hk0 (by decide)
    | with_reducible apply Moves.ite
    | with_reducible apply Moves.ite_fst
    | with_reducible (apply entryFire_moves)
    | with_reducible (apply Moves.foldl)
    | with_reducible (apply Moves.foldl_fst)
    | with_reducible (apply Moves.of_eq; assumption)
    | with_reducible intro _
    | dsimp only
    | split

theorem beatEvent_moves (s : State) {k0 : Nat} {z0 : State} (hz : Moves k0 z0 s) (hk0 : 263240 &&& k0 = 263240) :
    Moves k0 z0 (beatEvent s) := by
  refine hz.trans ?_
  clear hz
  unfold beatEvent
  repeat' first
    | with_reducible exact Moves.refl _ _
    | with_reducible assumption
    | with_reducible exact mask_le hk0 (by decide)
    | with_reducible apply Moves.ite
    | with_reducible apply Moves.ite_fst
    | with_reducible (apply postSteward_moves)
    | with_reducible (apply Moves.foldl)
    | with_reducible (apply Moves.foldl_fst)
    | with_reducible (apply Moves.of_eq; assumption)
    | with_reducible intro _
    | dsimp only
    | split

theorem State.beatSet_moves (s : State) (f : Beat → Beat) {k0 : Nat} {z0 : State} (hz : Moves k0 z0 s) (hk0 : 262184 &&& k0 = 262184) :
    Moves k0 z0 (State.beatSet s f) := by
  refine hz.trans ?_
  clear hz
  unfold State.beatSet
  repeat' first
    | with_reducible exact Moves.refl _ _
    | with_reducible assumption
    | with_reducible exact mask_le hk0 (by decide)
    | with_reducible apply Moves.ite
    | with_reducible apply Moves.ite_fst
    | with_reducible (apply State.modBeat_moves)
    | with_reducible (apply mgmtSensor_moves)
    | with_reducible (apply Moves.foldl)
    | with_reducible (apply Moves.foldl_fst)
    | with_reducible (apply Moves.of_eq; assumption)
    | with_reducible intro _
    | dsimp only
    | split

theorem calendarApply_moves (s : State) {k0 : Nat} {z0 : State} (hz : Moves k0 z0 s) (hk0 : 32 &&& k0 = 32) :
    Moves k0 z0 (calendarApply s) := by
  refine hz.trans ?_
  clear hz
  unfold calendarApply
  repeat' first
    | with_reducible exact Moves.refl _ _
    | with_reducible assumption
    | with_reducible exact mask_le hk0 (by decide)
    | with_reducible apply Moves.ite
    | with_reducible apply Moves.ite_fst
    | with_reducible (apply State.modBeat_moves)
    | with_reducible (apply Moves.foldl)
    | with_reducible (apply Moves.foldl_fst)
    | with_reducible (apply Moves.of_eq; assumption)
    | with_reducible intro _
    | dsimp only
    | split

theorem declare_moves (s : State) (n : Nat) {k0 : Nat} {z0 : State} (hz : Moves k0 z0 s) (hk0 : 1608 &&& k0 = 1608) :
    Moves k0 z0 (declare s n) := by
  refine hz.trans ?_
  clear hz
  unfold declare
  repeat' first
    | with_reducible exact Moves.refl _ _
    | with_reducible assumption
    | with_reducible exact mask_le hk0 (by decide)
    | with_reducible apply Moves.ite
    | with_reducible apply Moves.ite_fst
    | with_reducible (apply State.modSync_moves)
    | with_reducible (apply postEvent_moves)
    | with_reducible (apply Moves.foldl)
    | with_reducible (apply Moves.foldl_fst)
    | with_reducible (apply Moves.of_eq; assumption)
    | with_reducible intro _
    | dsimp only
    | split

theorem canaryClaim_moves (s : State) (n : Nat) {k0 : Nat} {z0 : State} (hz : Moves k0 z0 s) (hk0 : 1608 &&& k0 = 1608) :
    Moves k0 z0 (canaryClaim s n) := by
  refine hz.trans ?_
  clear hz
  unfold canaryClaim
  repeat' first
    | with_reducible exact Moves.refl _ _
    | with_reducible assumption
    | with_reducible exact mask_le hk0 (by decide)
    | with_reducible apply Moves.ite
    | with_reducible apply Moves.ite_fst
    | with_reducible (apply State.modSync_moves)
    | with_reducible (apply declare_moves)
    | with_reducible (apply Moves.foldl)
    | with_reducible (apply Moves.foldl_fst)
    | with_reducible (apply Moves.of_eq; assumption)
    | with_reducible intro _
    | dsimp only
    | split

theorem canaryEdge_moves (s : State) {k0 : Nat} {z0 : State} (hz : Moves k0 z0 s) (hk0 : 1608 &&& k0 = 1608) :
    Moves k0 z0 (canaryEdge s) := by
  refine hz.trans ?_
  clear hz
  unfold canaryEdge
  repeat' first
    | with_reducible exact Moves.refl _ _
    | with_reducible assumption
    | with_reducible exact mask_le hk0 (by decide)
    | with_reducible apply Moves.ite
    | with_reducible apply Moves.ite_fst
    | with_reducible (apply canaryClaim_moves)
    | with_reducible (apply Moves.foldl)
    | with_reducible (apply Moves.foldl_fst)
    | with_reducible (apply Moves.of_eq; assumption)
    | with_reducible intro _
    | dsimp only
    | split

theorem sendBeat_moves (s : State) {k0 : Nat} {z0 : State} (hz : Moves k0 z0 s) (hk0 : 16384 &&& k0 = 16384) :
    Moves k0 z0 (sendBeat s) := by
  refine hz.trans ?_
  clear hz
  unfold sendBeat
  repeat' first
    | with_reducible exact Moves.refl _ _
    | with_reducible assumption
    | with_reducible exact mask_le hk0 (by decide)
    | with_reducible apply Moves.ite
    | with_reducible apply Moves.ite_fst
    | with_reducible (apply State.modPort_moves)
    | with_reducible (apply Moves.foldl)
    | with_reducible (apply Moves.foldl_fst)
    | with_reducible (apply Moves.of_eq; assumption)
    | with_reducible intro _
    | dsimp only
    | split

theorem edgeEnd_moves (s : State) {k0 : Nat} {z0 : State} (hz : Moves k0 z0 s) (hk0 : 17992 &&& k0 = 17992) :
    Moves k0 z0 (edgeEnd s) := by
  refine hz.trans ?_
  clear hz
  unfold edgeEnd
  repeat' first
    | with_reducible exact Moves.refl _ _
    | with_reducible assumption
    | with_reducible exact mask_le hk0 (by decide)
    | with_reducible apply Moves.ite
    | with_reducible apply Moves.ite_fst
    | with_reducible (apply State.emit_moves)
    | with_reducible (apply applyReservations_moves)
    | with_reducible (apply canaryEdge_moves)
    | with_reducible (apply sendBeat_moves)
    | with_reducible (apply Moves.foldl)
    | with_reducible (apply Moves.foldl_fst)
    | with_reducible (apply Moves.of_eq; assumption)
    | with_reducible intro _
    | dsimp only
    | split

theorem catchHeld_moves (s : State) {k0 : Nat} {z0 : State} (hz : Moves k0 z0 s) (hk0 : 2424808 &&& k0 = 2424808) :
    Moves k0 z0 (catchHeld s) := by
  refine hz.trans ?_
  clear hz
  unfold catchHeld
  repeat' first
    | with_reducible exact Moves.refl _ _
    | with_reducible assumption
    | with_reducible exact mask_le hk0 (by decide)
    | with_reducible apply Moves.ite
    | with_reducible apply Moves.ite_fst
    | with_reducible (apply State.modBeat_moves)
    | with_reducible (apply catchUp_moves)
    | with_reducible (apply Moves.foldl)
    | with_reducible (apply Moves.foldl_fst)
    | with_reducible (apply Moves.of_eq; assumption)
    | with_reducible intro _
    | dsimp only
    | split

theorem beatEdge_moves (s : State) {k0 : Nat} {z0 : State} (hz : Moves k0 z0 s) (hk0 : 2424808 &&& k0 = 2424808) :
    Moves k0 z0 (beatEdge s) := by
  refine hz.trans ?_
  clear hz
  unfold beatEdge
  repeat' first
    | with_reducible exact Moves.refl _ _
    | with_reducible assumption
    | with_reducible exact mask_le hk0 (by decide)
    | with_reducible apply Moves.ite
    | with_reducible apply Moves.ite_fst
    | with_reducible (apply State.modBeat_moves)
    | with_reducible (apply calendarApply_moves)
    | with_reducible (apply catchHeld_moves)
    | with_reducible (apply edgeEnd_moves)
    | with_reducible (apply flushBeat_moves)
    | with_reducible (apply Moves.foldl)
    | with_reducible (apply Moves.foldl_fst)
    | with_reducible (apply Moves.of_eq; assumption)
    | with_reducible intro _
    | dsimp only
    | split

theorem holdRange_moves (s : State) (lo : Nat) (hi : Nat) {k0 : Nat} {z0 : State} (hz : Moves k0 z0 s) (hk0 : 32 &&& k0 = 32) :
    Moves k0 z0 (holdRange s lo hi) := by
  refine hz.trans ?_
  clear hz
  unfold holdRange
  repeat' first
    | with_reducible exact Moves.refl _ _
    | with_reducible assumption
    | with_reducible exact mask_le hk0 (by decide)
    | with_reducible apply Moves.ite
    | with_reducible apply Moves.ite_fst
    | with_reducible (apply State.modBeat_moves)
    | with_reducible (apply Moves.foldl)
    | with_reducible (apply Moves.foldl_fst)
    | with_reducible (apply Moves.of_eq; assumption)
    | with_reducible intro _
    | dsimp only
    | split

theorem jumpTo_moves (s : State) (n : Nat) {k0 : Nat} {z0 : State} (hz : Moves k0 z0 s) (hk0 : 2424808 &&& k0 = 2424808) :
    Moves k0 z0 (jumpTo s n) := by
  refine hz.trans ?_
  clear hz
  unfold jumpTo
  repeat' first
    | with_reducible exact Moves.refl _ _
    | with_reducible assumption
    | with_reducible exact mask_le hk0 (by decide)
    | with_reducible apply Moves.ite
    | with_reducible apply Moves.ite_fst
    | with_reducible (apply State.modBeat_moves)
    | with_reducible (apply beatEvent_moves)
    | with_reducible (apply catchUp_moves)
    | with_reducible (apply holdRange_moves)
    | with_reducible (apply Moves.foldl)
    | with_reducible (apply Moves.foldl_fst)
    | with_reducible (apply Moves.of_eq; assumption)
    | with_reducible intro _
    | dsimp only
    | split

theorem compareCount_moves (s : State) (n : Nat) {k0 : Nat} {z0 : State} (hz : Moves k0 z0 s) (hk0 : 2424808 &&& k0 = 2424808) :
    Moves k0 z0 (compareCount s n) := by
  refine hz.trans ?_
  clear hz
  unfold compareCount
  repeat' first
    | with_reducible exact Moves.refl _ _
    | with_reducible assumption
    | with_reducible exact mask_le hk0 (by decide)
    | with_reducible apply Moves.ite
    | with_reducible apply Moves.ite_fst
    | with_reducible (apply State.modBeat_moves)
    | with_reducible (apply beatEvent_moves)
    | with_reducible (apply flushBeat_moves)
    | with_reducible (apply jumpTo_moves)
    | with_reducible (apply Moves.foldl)
    | with_reducible (apply Moves.foldl_fst)
    | with_reducible (apply Moves.of_eq; assumption)
    | with_reducible intro _
    | dsimp only
    | split

theorem fillerBeat_moves (s : State) {k0 : Nat} {z0 : State} (hz : Moves k0 z0 s) (hk0 : 2424808 &&& k0 = 2424808) :
    Moves k0 z0 (fillerBeat s) := by
  refine hz.trans ?_
  clear hz
  unfold fillerBeat
  repeat' first
    | with_reducible exact Moves.refl _ _
    | with_reducible assumption
    | with_reducible exact mask_le hk0 (by decide)
    | with_reducible apply Moves.ite
    | with_reducible apply Moves.ite_fst
    | with_reducible (apply State.beatSet_moves)
    | with_reducible (apply calendarApply_moves)
    | with_reducible (apply catchHeld_moves)
    | with_reducible (apply edgeEnd_moves)
    | with_reducible (apply flushBeat_moves)
    | with_reducible (apply Moves.foldl)
    | with_reducible (apply Moves.foldl_fst)
    | with_reducible (apply Moves.of_eq; assumption)
    | with_reducible intro _
    | dsimp only
    | split

theorem measureEdge_moves (s : State) (ns : Nat) {k0 : Nat} {z0 : State} (hz : Moves k0 z0 s) (hk0 : 32 &&& k0 = 32) :
    Moves k0 z0 (measureEdge s ns) := by
  refine hz.trans ?_
  clear hz
  unfold measureEdge
  repeat' first
    | with_reducible exact Moves.refl _ _
    | with_reducible assumption
    | with_reducible exact mask_le hk0 (by decide)
    | with_reducible apply Moves.ite
    | with_reducible apply Moves.ite_fst
    | with_reducible (apply State.modBeat_moves)
    | with_reducible (apply Moves.foldl)
    | with_reducible (apply Moves.foldl_fst)
    | with_reducible (apply Moves.of_eq; assumption)
    | with_reducible intro _
    | dsimp only
    | split

theorem lockCheck_moves (s : State) {k0 : Nat} {z0 : State} (hz : Moves k0 z0 s) (hk0 : 263272 &&& k0 = 263272) :
    Moves k0 z0 (lockCheck s) := by
  refine hz.trans ?_
  clear hz
  unfold lockCheck
  repeat' first
    | with_reducible exact Moves.refl _ _
    | with_reducible assumption
    | with_reducible exact mask_le hk0 (by decide)
    | with_reducible apply Moves.ite
    | with_reducible apply Moves.ite_fst
    | with_reducible (apply State.beatSet_moves)
    | with_reducible (apply beatEvent_moves)
    | with_reducible (apply Moves.foldl)
    | with_reducible (apply Moves.foldl_fst)
    | with_reducible (apply Moves.of_eq; assumption)
    | with_reducible intro _
    | dsimp only
    | split

theorem beatLoss_moves (s : State) {k0 : Nat} {z0 : State} (hz : Moves k0 z0 s) (hk0 : 263272 &&& k0 = 263272) :
    Moves k0 z0 (beatLoss s) := by
  refine hz.trans ?_
  clear hz
  unfold beatLoss
  repeat' first
    | with_reducible exact Moves.refl _ _
    | with_reducible assumption
    | with_reducible exact mask_le hk0 (by decide)
    | with_reducible apply Moves.ite
    | with_reducible apply Moves.ite_fst
    | with_reducible (apply State.beatSet_moves)
    | with_reducible (apply alertLatch_moves)
    | with_reducible (apply beatEvent_moves)
    | with_reducible (apply Moves.foldl)
    | with_reducible (apply Moves.foldl_fst)
    | with_reducible (apply Moves.of_eq; assumption)
    | with_reducible intro _
    | dsimp only
    | split

theorem lossCheck_moves (s : State) {k0 : Nat} {z0 : State} (hz : Moves k0 z0 s) (hk0 : 263272 &&& k0 = 263272) :
    Moves k0 z0 (lossCheck s) := by
  refine hz.trans ?_
  clear hz
  unfold lossCheck
  repeat' first
    | with_reducible exact Moves.refl _ _
    | with_reducible assumption
    | with_reducible exact mask_le hk0 (by decide)
    | with_reducible apply Moves.ite
    | with_reducible apply Moves.ite_fst
    | with_reducible (apply beatLoss_moves)
    | with_reducible (apply Moves.foldl)
    | with_reducible (apply Moves.foldl_fst)
    | with_reducible (apply Moves.of_eq; assumption)
    | with_reducible intro _
    | dsimp only
    | split

theorem pinEdge_moves (s : State) (ns : Nat) {k0 : Nat} {z0 : State} (hz : Moves k0 z0 s) (hk0 : 2424808 &&& k0 = 2424808) :
    Moves k0 z0 (pinEdge s ns) := by
  refine hz.trans ?_
  clear hz
  unfold pinEdge
  repeat' first
    | with_reducible exact Moves.refl _ _
    | with_reducible assumption
    | with_reducible exact mask_le hk0 (by decide)
    | with_reducible apply Moves.ite
    | with_reducible apply Moves.ite_fst
    | with_reducible (apply beatEdge_moves)
    | with_reducible (apply lockCheck_moves)
    | with_reducible (apply lossCheck_moves)
    | with_reducible (apply measureEdge_moves)
    | with_reducible (apply Moves.foldl)
    | with_reducible (apply Moves.foldl_fst)
    | with_reducible (apply Moves.of_eq; assumption)
    | with_reducible intro _
    | dsimp only
    | split

theorem pinFrame_moves (s : State) (pulses : List Nat) {k0 : Nat} {z0 : State} (hz : Moves k0 z0 s) (hk0 : 2424808 &&& k0 = 2424808) :
    Moves k0 z0 (pinFrame s pulses) := by
  refine hz.trans ?_
  clear hz
  unfold pinFrame
  repeat' first
    | with_reducible exact Moves.refl _ _
    | with_reducible assumption
    | with_reducible exact mask_le hk0 (by decide)
    | with_reducible apply Moves.ite
    | with_reducible apply Moves.ite_fst
    | with_reducible (apply State.modBeat_moves)
    | with_reducible (apply compareCount_moves)
    | with_reducible (apply lockCheck_moves)
    | with_reducible (apply Moves.foldl)
    | with_reducible (apply Moves.foldl_fst)
    | with_reducible (apply Moves.of_eq; assumption)
    | with_reducible intro _
    | dsimp only
    | split

theorem linkBeat_moves (s : State) (p : Nat) (hop : Nat) (count : Nat) (ns : Nat) {k0 : Nat} {z0 : State} (hz : Moves k0 z0 s) (hk0 : 2424808 &&& k0 = 2424808) :
    Moves k0 z0 (linkBeat s p hop count ns) := by
  refine hz.trans ?_
  clear hz
  unfold linkBeat
  repeat' first
    | with_reducible exact Moves.refl _ _
    | with_reducible assumption
    | with_reducible exact mask_le hk0 (by decide)
    | with_reducible apply Moves.ite
    | with_reducible apply Moves.ite_fst
    | with_reducible (apply State.modBeat_moves)
    | with_reducible (apply beatEdge_moves)
    | with_reducible (apply compareCount_moves)
    | with_reducible (apply lockCheck_moves)
    | with_reducible (apply lossCheck_moves)
    | with_reducible (apply measureEdge_moves)
    | with_reducible (apply Moves.foldl)
    | with_reducible (apply Moves.foldl_fst)
    | with_reducible (apply Moves.of_eq; assumption)
    | with_reducible intro _
    | dsimp only
    | split

theorem tokenCommit_moves (s : State) {k0 : Nat} {z0 : State} (hz : Moves k0 z0 s) (hk0 : 2424808 &&& k0 = 2424808) :
    Moves k0 z0 (tokenCommit s) := by
  refine hz.trans ?_
  clear hz
  unfold tokenCommit
  repeat' first
    | with_reducible exact Moves.refl _ _
    | with_reducible assumption
    | with_reducible exact mask_le hk0 (by decide)
    | with_reducible apply Moves.ite
    | with_reducible apply Moves.ite_fst
    | with_reducible (apply State.beatSet_moves)
    | with_reducible (apply State.modBeat_moves)
    | with_reducible (apply beatEvent_moves)
    | with_reducible (apply calendarApply_moves)
    | with_reducible (apply catchHeld_moves)
    | with_reducible (apply catchUp_moves)
    | with_reducible (apply edgeEnd_moves)
    | with_reducible (apply flushBeat_moves)
    | with_reducible (apply holdRange_moves)
    | with_reducible (apply Moves.foldl)
    | with_reducible (apply Moves.foldl_fst)
    | with_reducible (apply Moves.of_eq; assumption)
    | with_reducible intro _
    | dsimp only
    | split

theorem tokenWrite_moves (s : State) (v : Nat) {k0 : Nat} {z0 : State} (hz : Moves k0 z0 s) (hk0 : 262184 &&& k0 = 262184) :
    Moves k0 z0 (tokenWrite s v) := by
  refine hz.trans ?_
  clear hz
  unfold tokenWrite
  repeat' first
    | with_reducible exact Moves.refl _ _
    | with_reducible assumption
    | with_reducible exact mask_le hk0 (by decide)
    | with_reducible apply Moves.ite
    | with_reducible apply Moves.ite_fst
    | with_reducible (apply State.beatSet_moves)
    | with_reducible (apply State.modBeat_moves)
    | with_reducible (apply Moves.foldl)
    | with_reducible (apply Moves.foldl_fst)
    | with_reducible (apply Moves.of_eq; assumption)
    | with_reducible intro _
    | dsimp only
    | split

theorem holdoverEdge_moves (s : State) {k0 : Nat} {z0 : State} (hz : Moves k0 z0 s) (hk0 : 2424808 &&& k0 = 2424808) :
    Moves k0 z0 (holdoverEdge s) := by
  refine hz.trans ?_
  clear hz
  unfold holdoverEdge
  repeat' first
    | with_reducible exact Moves.refl _ _
    | with_reducible assumption
    | with_reducible exact mask_le hk0 (by decide)
    | with_reducible apply Moves.ite
    | with_reducible apply Moves.ite_fst
    | with_reducible (apply beatEdge_moves)
    | with_reducible (apply Moves.foldl)
    | with_reducible (apply Moves.foldl_fst)
    | with_reducible (apply Moves.of_eq; assumption)
    | with_reducible intro _
    | dsimp only
    | split

theorem commitWrite_moves (s : State) (v : Nat) {k0 : Nat} {z0 : State} (hz : Moves k0 z0 s) (hk0 : 32 &&& k0 = 32) :
    Moves k0 z0 (commitWrite s v) := by
  refine hz.trans ?_
  clear hz
  unfold commitWrite
  repeat' first
    | with_reducible exact Moves.refl _ _
    | with_reducible assumption
    | with_reducible exact mask_le hk0 (by decide)
    | with_reducible apply Moves.ite
    | with_reducible apply Moves.ite_fst
    | with_reducible (apply State.modBeat_moves)
    | with_reducible (apply Moves.foldl)
    | with_reducible (apply Moves.foldl_fst)
    | with_reducible (apply Moves.of_eq; assumption)
    | with_reducible intro _
    | dsimp only
    | split

theorem shadowWrite_moves (s : State) (off : Nat) (bs : List Byte) {k0 : Nat} {z0 : State} (hz : Moves k0 z0 s) (hk0 : 32 &&& k0 = 32) :
    Moves k0 z0 (shadowWrite s off bs) := by
  refine hz.trans ?_
  clear hz
  unfold shadowWrite
  repeat' first
    | with_reducible exact Moves.refl _ _
    | with_reducible assumption
    | with_reducible exact mask_le hk0 (by decide)
    | with_reducible apply Moves.ite
    | with_reducible apply Moves.ite_fst
    | with_reducible (apply State.modBeat_moves)
    | with_reducible (apply Moves.foldl)
    | with_reducible (apply Moves.foldl_fst)
    | with_reducible (apply Moves.of_eq; assumption)
    | with_reducible intro _
    | dsimp only
    | split

theorem checkpointEnd_moves (s : State) {k0 : Nat} {z0 : State} (hz : Moves k0 z0 s) (hk0 : 64 &&& k0 = 64) :
    Moves k0 z0 (checkpointEnd s) := by
  refine hz.trans ?_
  clear hz
  unfold checkpointEnd
  repeat' first
    | with_reducible exact Moves.refl _ _
    | with_reducible assumption
    | with_reducible exact mask_le hk0 (by decide)
    | with_reducible apply Moves.ite
    | with_reducible apply Moves.ite_fst
    | with_reducible (apply State.modCl_moves)
    | with_reducible (apply Moves.foldl)
    | with_reducible (apply Moves.foldl_fst)
    | with_reducible (apply Moves.of_eq; assumption)
    | with_reducible intro _
    | dsimp only
    | split

end Sys2Proof.Machine
end

