-- ==== Sys2Proof/Laws/MovesBootOps.lean ====
section
/-! SUPPORT. What each operation of Machine/BootOps.lean may change. -/

set_option linter.unreachableTactic false
set_option linter.unusedTactic false
set_option linter.unusedVariables false

namespace Sys2Proof.Machine

theorem setCopyCause_moves (s : State) (c : Nat) (cause : Nat) {k0 : Nat} {z0 : State} (hz : Moves k0 z0 s) (hk0 : 16 &&& k0 = 16) :
    Moves k0 z0 (setCopyCause s c cause) := by
  refine hz.trans ?_
  clear hz
  unfold setCopyCause
  repeat' first
    | with_reducible exact Moves.refl _ _
    | with_reducible assumption
    | with_reducible exact mask_le hk0 (by decide)
    | with_reducible apply Moves.ite
    | with_reducible apply Moves.ite_fst
    | with_reducible (apply State.modBoot_moves (h1 := rfl))
    | with_reducible (apply State.modBoot_moves (h1 := by split <;> rfl))
    | with_reducible (apply Moves.foldl)
    | with_reducible (apply Moves.foldl_fst)
    | with_reducible (apply Moves.of_eq; assumption)
    | with_reducible intro _
    | dsimp only
    | split

/-- A fresh memory is canonical, whatever it replaces. -/
theorem Moves.fresh {m : Nat} {s t : State} (hq : t.pending = s.pending) (ho : ∃ ys, t.out = s.out ++ ys) (h1 : t.tiers.t1 = []) (h2 : t.tiers.t2 = [])
    (h3 : t.boot.flash = s.boot.flash) (hr : ∀ p : Part, m.testBit p.bit = false → p.same s t) : Moves m s t :=
  ⟨hq, ho, fun w => memWf_of (by rw [h1]; rfl) (by rw [h2]; rfl) (by rw [h3]; exact (memWf_parts w).2.2), hr⟩

theorem dropMain_moves (s : State) {k0 : Nat} {z0 : State} (hz : Moves k0 z0 s) (hk0 : 8126432 &&& k0 = 8126432) : Moves k0 z0 (dropMain s) :=
  hz.trans ((Moves.fresh (s := s) (t := dropMain s) (m := 8126432) rfl ⟨[], by simp [dropMain]⟩ rfl rfl rfl
    (by intro p hp; cases p <;> first | rfl | exact absurd hp (by decide))).mono hk0)

theorem grantsLost_moves (s : State) {k0 : Nat} {z0 : State} (hz : Moves k0 z0 s) (hk0 : 327688 &&& k0 = 327688) :
    Moves k0 z0 (grantsLost s) := by
  refine hz.trans ?_
  clear hz
  unfold grantsLost
  repeat' first
    | with_reducible exact Moves.refl _ _
    | with_reducible assumption
    | with_reducible exact mask_le hk0 (by decide)
    | with_reducible apply Moves.ite
    | with_reducible apply Moves.ite_fst
    | with_reducible (apply mgmtOem_moves)
    | with_reducible (apply setSec_moves)
    | with_reducible (apply Moves.foldl)
    | with_reducible (apply Moves.foldl_fst)
    | with_reducible (apply Moves.of_eq; assumption)
    | with_reducible intro _
    | dsimp only
    | split

theorem silencePorts_moves (s : State) {k0 : Nat} {z0 : State} (hz : Moves k0 z0 s) (hk0 : 8 &&& k0 = 8) :
    Moves k0 z0 (silencePorts s) := by
  refine hz.trans ?_
  clear hz
  unfold silencePorts
  repeat' first
    | with_reducible exact Moves.refl _ _
    | with_reducible assumption
    | with_reducible exact mask_le hk0 (by decide)
    | with_reducible apply Moves.ite
    | with_reducible apply Moves.ite_fst
    | with_reducible (apply State.emit_moves)
    | with_reducible (apply Moves.foldl)
    | with_reducible (apply Moves.foldl_fst)
    | with_reducible (apply Moves.of_eq; assumption)
    | with_reducible intro _
    | dsimp only
    | split

theorem mainReset_moves (s : State) (dev : DevState) {k0 : Nat} {z0 : State} (hz : Moves k0 z0 s) (hk0 : 8388600 &&& k0 = 8388600) :
    Moves k0 z0 (mainReset s dev) := by
  refine hz.trans ?_
  clear hz
  unfold mainReset
  repeat' first
    | with_reducible exact Moves.refl _ _
    | with_reducible assumption
    | with_reducible exact mask_le hk0 (by decide)
    | with_reducible apply Moves.ite
    | with_reducible apply Moves.ite_fst
    | with_reducible (apply State.modBoot_moves (h1 := rfl))
    | with_reducible (apply State.modBoot_moves (h1 := by split <;> rfl))
    | with_reducible (apply State.modMgmt_moves)
    | with_reducible (apply dropMain_moves)
    | with_reducible (apply grantsLost_moves)
    | with_reducible (apply mgmtSensor_moves)
    | with_reducible (apply setDev_moves)
    | with_reducible (apply silencePorts_moves)
    | with_reducible (apply Moves.foldl)
    | with_reducible (apply Moves.foldl_fst)
    | with_reducible (apply Moves.of_eq; assumption)
    | with_reducible intro _
    | dsimp only
    | split

theorem coldStart_moves (s : State) {k0 : Nat} {z0 : State} (hz : Moves k0 z0 s) (hk0 : 8388600 &&& k0 = 8388600) :
    Moves k0 z0 (coldStart s) := by
  refine hz.trans ?_
  clear hz
  unfold coldStart
  repeat' first
    | with_reducible exact Moves.refl _ _
    | with_reducible assumption
    | with_reducible exact mask_le hk0 (by decide)
    | with_reducible apply Moves.ite
    | with_reducible apply Moves.ite_fst
    | with_reducible (apply mainReset_moves)
    | with_reducible (apply Moves.foldl)
    | with_reducible (apply Moves.foldl_fst)
    | with_reducible (apply Moves.of_eq; assumption)
    | with_reducible intro _
    | dsimp only
    | split

theorem restartEndpoint_moves (s : State) {k0 : Nat} {z0 : State} (hz : Moves k0 z0 s) (hk0 : 262144 &&& k0 = 262144) :
    Moves k0 z0 (restartEndpoint s) := by
  refine hz.trans ?_
  clear hz
  unfold restartEndpoint
  repeat' first
    | with_reducible exact Moves.refl _ _
    | with_reducible assumption
    | with_reducible exact mask_le hk0 (by decide)
    | with_reducible apply Moves.ite
    | with_reducible apply Moves.ite_fst
    | with_reducible (apply State.modMgmt_moves)
    | with_reducible (apply Moves.foldl)
    | with_reducible (apply Moves.foldl_fst)
    | with_reducible (apply Moves.of_eq; assumption)
    | with_reducible intro _
    | dsimp only
    | split

theorem bootFailed_moves (s : State) {k0 : Nat} {z0 : State} (hz : Moves k0 z0 s) (hk0 : 8388600 &&& k0 = 8388600) :
    Moves k0 z0 (bootFailed s) := by
  refine hz.trans ?_
  clear hz
  unfold bootFailed
  repeat' first
    | with_reducible exact Moves.refl _ _
    | with_reducible assumption
    | with_reducible exact mask_le hk0 (by decide)
    | with_reducible apply Moves.ite
    | with_reducible apply Moves.ite_fst
    | with_reducible (apply State.modBoot_moves (h1 := rfl))
    | with_reducible (apply State.modBoot_moves (h1 := by split <;> rfl))
    | with_reducible (apply alertLatch_moves)
    | with_reducible (apply mainReset_moves)
    | with_reducible (apply restartEndpoint_moves)
    | with_reducible (apply setDev_moves)
    | with_reducible (apply Moves.foldl)
    | with_reducible (apply Moves.foldl_fst)
    | with_reducible (apply Moves.of_eq; assumption)
    | with_reducible intro _
    | dsimp only
    | split

theorem releaseFailed_moves (s : State) {k0 : Nat} {z0 : State} (hz : Moves k0 z0 s) (hk0 : 8388600 &&& k0 = 8388600) :
    Moves k0 z0 (releaseFailed s) := by
  refine hz.trans ?_
  clear hz
  unfold releaseFailed
  repeat' first
    | with_reducible exact Moves.refl _ _
    | with_reducible assumption
    | with_reducible exact mask_le hk0 (by decide)
    | with_reducible apply Moves.ite
    | with_reducible apply Moves.ite_fst
    | with_reducible (apply State.modBoot_moves (h1 := rfl))
    | with_reducible (apply State.modBoot_moves (h1 := by split <;> rfl))
    | with_reducible (apply bootFailed_moves)
    | with_reducible (apply Moves.foldl)
    | with_reducible (apply Moves.foldl_fst)
    | with_reducible (apply Moves.of_eq; assumption)
    | with_reducible intro _
    | dsimp only
    | split

theorem seatCheck_moves (s : State) {k0 : Nat} {z0 : State} (hz : Moves k0 z0 s) (hk0 : 16 &&& k0 = 16) :
    Moves k0 z0 (seatCheck s) := by
  refine hz.trans ?_
  clear hz
  unfold seatCheck
  repeat' first
    | with_reducible exact Moves.refl _ _
    | with_reducible assumption
    | with_reducible exact mask_le hk0 (by decide)
    | with_reducible apply Moves.ite
    | with_reducible apply Moves.ite_fst
    | with_reducible (apply State.modBoot_moves (h1 := rfl))
    | with_reducible (apply State.modBoot_moves (h1 := by split <;> rfl))
    | with_reducible (apply Moves.foldl)
    | with_reducible (apply Moves.foldl_fst)
    | with_reducible (apply Moves.of_eq; assumption)
    | with_reducible intro _
    | dsimp only
    | split

theorem measureBoot_moves (s : State) {k0 : Nat} {z0 : State} (hz : Moves k0 z0 s) (hk0 : 65536 &&& k0 = 65536) :
    Moves k0 z0 (measureBoot s) := by
  refine hz.trans ?_
  clear hz
  unfold measureBoot
  repeat' first
    | with_reducible exact Moves.refl _ _
    | with_reducible assumption
    | with_reducible exact mask_le hk0 (by decide)
    | with_reducible apply Moves.ite
    | with_reducible apply Moves.ite_fst
    | with_reducible (apply measureSeat_moves)
    | with_reducible (apply setMeasure_moves)
    | with_reducible (apply Moves.foldl)
    | with_reducible (apply Moves.foldl_fst)
    | with_reducible (apply Moves.of_eq; assumption)
    | with_reducible intro _
    | dsimp only
    | split

theorem bootHeld_moves (s : State) {k0 : Nat} {z0 : State} (hz : Moves k0 z0 s) (hk0 : 262168 &&& k0 = 262168) :
    Moves k0 z0 (bootHeld s) := by
  refine hz.trans ?_
  clear hz
  unfold bootHeld
  repeat' first
    | with_reducible exact Moves.refl _ _
    | with_reducible assumption
    | with_reducible exact mask_le hk0 (by decide)
    | with_reducible apply Moves.ite
    | with_reducible apply Moves.ite_fst
    | with_reducible (apply State.modBoot_moves (h1 := rfl))
    | with_reducible (apply State.modBoot_moves (h1 := by split <;> rfl))
    | with_reducible (apply setDev_moves)
    | with_reducible (apply Moves.foldl)
    | with_reducible (apply Moves.foldl_fst)
    | with_reducible (apply Moves.of_eq; assumption)
    | with_reducible intro _
    | dsimp only
    | split

theorem bootSeat_moves (s : State) (stall : Nat) {k0 : Nat} {z0 : State} (hz : Moves k0 z0 s) (hk0 : 327704 &&& k0 = 327704) :
    Moves k0 z0 (bootSeat s stall) := by
  refine hz.trans ?_
  clear hz
  unfold bootSeat
  repeat' first
    | with_reducible exact Moves.refl _ _
    | with_reducible assumption
    | with_reducible exact mask_le hk0 (by decide)
    | with_reducible apply Moves.ite
    | with_reducible apply Moves.ite_fst
    | with_reducible (apply State.modBoot_moves (h1 := rfl))
    | with_reducible (apply State.modBoot_moves (h1 := by split <;> rfl))
    | with_reducible (apply bootHeld_moves)
    | with_reducible (apply measureBoot_moves)
    | with_reducible (apply seatCheck_moves)
    | with_reducible (apply Moves.foldl)
    | with_reducible (apply Moves.foldl_fst)
    | with_reducible (apply Moves.of_eq; assumption)
    | with_reducible intro _
    | dsimp only
    | split

theorem candFail_moves (s : State) (c : Nat) (cause : Nat) {k0 : Nat} {z0 : State} (hz : Moves k0 z0 s) (hk0 : 16 &&& k0 = 16) :
    Moves k0 z0 (candFail s c cause) := by
  refine hz.trans ?_
  clear hz
  unfold candFail
  repeat' first
    | with_reducible exact Moves.refl _ _
    | with_reducible assumption
    | with_reducible exact mask_le hk0 (by decide)
    | with_reducible apply Moves.ite
    | with_reducible apply Moves.ite_fst
    | with_reducible (apply State.modBoot_moves (h1 := rfl))
    | with_reducible (apply State.modBoot_moves (h1 := by split <;> rfl))
    | with_reducible (apply setCopyCause_moves)
    | with_reducible (apply Moves.foldl)
    | with_reducible (apply Moves.foldl_fst)
    | with_reducible (apply Moves.of_eq; assumption)
    | with_reducible intro _
    | dsimp only
    | split

theorem verifyOther_moves (s : State) (c : Nat) {k0 : Nat} {z0 : State} (hz : Moves k0 z0 s) (hk0 : 16 &&& k0 = 16) :
    Moves k0 z0 (verifyOther s c) := by
  refine hz.trans ?_
  clear hz
  unfold verifyOther
  repeat' first
    | with_reducible exact Moves.refl _ _
    | with_reducible assumption
    | with_reducible exact mask_le hk0 (by decide)
    | with_reducible apply Moves.ite
    | with_reducible apply Moves.ite_fst
    | with_reducible (apply State.modBoot_moves (h1 := rfl))
    | with_reducible (apply State.modBoot_moves (h1 := by split <;> rfl))
    | with_reducible (apply setCopyCause_moves)
    | with_reducible (apply Moves.foldl)
    | with_reducible (apply Moves.foldl_fst)
    | with_reducible (apply Moves.of_eq; assumption)
    | with_reducible intro _
    | dsimp only
    | split

theorem verifyFirst_moves (s : State) (c : Nat) {k0 : Nat} {z0 : State} (hz : Moves k0 z0 s) (hk0 : 262168 &&& k0 = 262168) :
    Moves k0 z0 (verifyFirst s c) := by
  refine hz.trans ?_
  clear hz
  unfold verifyFirst
  repeat' first
    | with_reducible exact Moves.refl _ _
    | with_reducible assumption
    | with_reducible exact mask_le hk0 (by decide)
    | with_reducible apply Moves.ite
    | with_reducible apply Moves.ite_fst
    | with_reducible (apply State.modBoot_moves (h1 := rfl))
    | with_reducible (apply State.modBoot_moves (h1 := by split <;> rfl))
    | with_reducible (apply candFail_moves)
    | with_reducible (apply mgmtSensor_moves)
    | with_reducible (apply setCopyCause_moves)
    | with_reducible (apply Moves.foldl)
    | with_reducible (apply Moves.foldl_fst)
    | with_reducible (apply Moves.of_eq; assumption)
    | with_reducible intro _
    | dsimp only
    | split

theorem bootVerify_moves (stall : Nat) (x1 : List Nat) (x2 : State) {k0 : Nat} {z0 : State} (hz : Moves k0 z0 x2) (hk0 : 8388600 &&& k0 = 8388600) :
    Moves k0 z0 (bootVerify stall x1 x2) := by
  refine hz.trans ?_
  clear hz
  fun_induction bootVerify stall x1 x2
  all_goals repeat' first
    | with_reducible exact Moves.refl _ _
    | with_reducible assumption
    | with_reducible (refine Moves.trans ?_ (by assumption))
    | with_reducible (refine Moves.trans ?_ (Moves.of_eq (by assumption) (by assumption)))
    | with_reducible exact mask_le hk0 (by decide)
    | with_reducible apply Moves.ite
    | with_reducible apply Moves.ite_fst
    | with_reducible (apply State.modBoot_moves (h1 := rfl))
    | with_reducible (apply State.modBoot_moves (h1 := by split <;> rfl))
    | with_reducible (apply bootFailed_moves)
    | with_reducible (apply bootSeat_moves)
    | with_reducible (apply restartEndpoint_moves)
    | with_reducible (apply verifyFirst_moves)
    | with_reducible (apply verifyOther_moves)
    | with_reducible (apply Moves.foldl)
    | with_reducible (apply Moves.foldl_fst)
    | with_reducible (apply Moves.of_eq; assumption)
    | with_reducible intro _
    | dsimp only
    | split

theorem bootHeaders_moves (stall : Nat) (x1 : List Nat) (x2 : State) {k0 : Nat} {z0 : State} (hz : Moves k0 z0 x2) (hk0 : 8388600 &&& k0 = 8388600) :
    Moves k0 z0 (bootHeaders stall x1 x2) := by
  refine hz.trans ?_
  clear hz
  fun_induction bootHeaders stall x1 x2
  all_goals repeat' first
    | with_reducible exact Moves.refl _ _
    | with_reducible assumption
    | with_reducible (refine Moves.trans ?_ (by assumption))
    | with_reducible (refine Moves.trans ?_ (Moves.of_eq (by assumption) (by assumption)))
    | with_reducible exact mask_le hk0 (by decide)
    | with_reducible apply Moves.ite
    | with_reducible apply Moves.ite_fst
    | with_reducible (apply State.modBoot_moves (h1 := rfl))
    | with_reducible (apply State.modBoot_moves (h1 := by split <;> rfl))
    | with_reducible (apply bootVerify_moves)
    | with_reducible (apply setCopyCause_moves)
    | with_reducible (apply Moves.foldl)
    | with_reducible (apply Moves.foldl_fst)
    | with_reducible (apply Moves.of_eq; assumption)
    | with_reducible intro _
    | dsimp only
    | split

theorem bootSelect_moves (s : State) (stall : Nat) {k0 : Nat} {z0 : State} (hz : Moves k0 z0 s) (hk0 : 8388600 &&& k0 = 8388600) :
    Moves k0 z0 (bootSelect s stall) := by
  refine hz.trans ?_
  clear hz
  unfold bootSelect
  repeat' first
    | with_reducible exact Moves.refl _ _
    | with_reducible assumption
    | with_reducible exact mask_le hk0 (by decide)
    | with_reducible apply Moves.ite
    | with_reducible apply Moves.ite_fst
    | with_reducible (apply State.modBoot_moves (h1 := rfl))
    | with_reducible (apply State.modBoot_moves (h1 := by split <;> rfl))
    | with_reducible (apply bootHeaders_moves)
    | with_reducible (apply setDev_moves)
    | with_reducible (apply Moves.foldl)
    | with_reducible (apply Moves.foldl_fst)
    | with_reducible (apply Moves.of_eq; assumption)
    | with_reducible intro _
    | dsimp only
    | split

theorem bootDiscover_moves (s : State) (stall : Nat) {k0 : Nat} {z0 : State} (hz : Moves k0 z0 s) (hk0 : 8388600 &&& k0 = 8388600) :
    Moves k0 z0 (bootDiscover s stall) := by
  refine hz.trans ?_
  clear hz
  unfold bootDiscover
  repeat' first
    | with_reducible exact Moves.refl _ _
    | with_reducible assumption
    | with_reducible exact mask_le hk0 (by decide)
    | with_reducible apply Moves.ite
    | with_reducible apply Moves.ite_fst
    | with_reducible (apply State.modBoot_moves (h1 := rfl))
    | with_reducible (apply State.modBoot_moves (h1 := by split <;> rfl))
    | with_reducible (apply State.modFlash_moves (hf := flashWrite_ok _ _ _))
    | with_reducible (apply State.modFlash_moves (hf := flashOk_drop _ _))
    | with_reducible (apply State.modFlash_moves (hf := id))
    | with_reducible (apply bootFailed_moves)
    | with_reducible (apply bootSelect_moves)
    | with_reducible (apply setCopyCause_moves)
    | with_reducible (apply setDev_moves)
    | with_reducible (apply Moves.foldl)
    | with_reducible (apply Moves.foldl_fst)
    | with_reducible (apply Moves.of_eq; assumption)
    | with_reducible intro _
    | dsimp only
    | split

theorem repairApply_moves (s : State) {k0 : Nat} {z0 : State} (hz : Moves k0 z0 s) (hk0 : 8192 &&& k0 = 8192) :
    Moves k0 z0 (repairApply s) := by
  refine hz.trans ?_
  clear hz
  unfold repairApply
  repeat' first
    | with_reducible exact Moves.refl _ _
    | with_reducible assumption
    | with_reducible exact mask_le hk0 (by decide)
    | with_reducible apply Moves.ite
    | with_reducible apply Moves.ite_fst
    | with_reducible (apply State.modEcc_moves)
    | with_reducible (apply Moves.foldl)
    | with_reducible (apply Moves.foldl_fst)
    | with_reducible (apply Moves.of_eq; assumption)
    | with_reducible intro _
    | dsimp only
    | split

theorem loadSlots_moves (s : State) {k0 : Nat} {z0 : State} (hz : Moves k0 z0 s) (hk0 : 128 &&& k0 = 128) :
    Moves k0 z0 (loadSlots s) := by
  refine hz.trans ?_
  clear hz
  unfold loadSlots
  repeat' first
    | with_reducible exact Moves.refl _ _
    | with_reducible assumption
    | with_reducible exact mask_le hk0 (by decide)
    | with_reducible apply Moves.ite
    | with_reducible apply Moves.ite_fst
    | with_reducible (apply State.modDl_moves)
    | with_reducible (apply Moves.foldl)
    | with_reducible (apply Moves.foldl_fst)
    | with_reducible (apply Moves.of_eq; assumption)
    | with_reducible intro _
    | dsimp only
    | split

theorem configApply_moves (s : State) {k0 : Nat} {z0 : State} (hz : Moves k0 z0 s) (hk0 : 17056 &&& k0 = 17056) :
    Moves k0 z0 (configApply s) := by
  refine hz.trans ?_
  clear hz
  unfold configApply
  repeat' first
    | with_reducible exact Moves.refl _ _
    | with_reducible assumption
    | with_reducible exact mask_le hk0 (by decide)
    | with_reducible apply Moves.ite
    | with_reducible apply Moves.ite_fst
    | with_reducible (apply State.modBeat_moves)
    | with_reducible (apply State.modLink_moves)
    | with_reducible (apply State.modSync_moves)
    | with_reducible (apply loadSlots_moves)
    | with_reducible (apply Moves.foldl)
    | with_reducible (apply Moves.foldl_fst)
    | with_reducible (apply Moves.of_eq; assumption)
    | with_reducible intro _
    | dsimp only
    | split

theorem faceRails_moves (s : State) {k0 : Nat} {z0 : State} (hz : Moves k0 z0 s) (hk0 : 131080 &&& k0 = 131080) :
    Moves k0 z0 (faceRails s) := by
  refine hz.trans ?_
  clear hz
  unfold faceRails
  repeat' first
    | with_reducible exact Moves.refl _ _
    | with_reducible assumption
    | with_reducible exact mask_le hk0 (by decide)
    | with_reducible apply Moves.ite
    | with_reducible apply Moves.ite_fst
    | with_reducible (apply avsWrite_moves)
    | with_reducible (apply Moves.foldl)
    | with_reducible (apply Moves.foldl_fst)
    | with_reducible (apply Moves.of_eq; assumption)
    | with_reducible intro _
    | dsimp only
    | split

theorem tripUnits_moves (s : State) (d : Nat) (on : Bool) {k0 : Nat} {z0 : State} (hz : Moves k0 z0 s) (hk0 : 4096 &&& k0 = 4096) :
    Moves k0 z0 (tripUnits s d on) := by
  refine hz.trans ?_
  clear hz
  unfold tripUnits
  repeat' first
    | with_reducible exact Moves.refl _ _
    | with_reducible assumption
    | with_reducible exact mask_le hk0 (by decide)
    | with_reducible apply Moves.ite
    | with_reducible apply Moves.ite_fst
    | with_reducible (apply State.modUnit_moves)
    | with_reducible (apply Moves.foldl)
    | with_reducible (apply Moves.foldl_fst)
    | with_reducible (apply Moves.of_eq; assumption)
    | with_reducible intro _
    | dsimp only
    | split

theorem resetCopies_moves (s : State) {k0 : Nat} {z0 : State} (hz : Moves k0 z0 s) (hk0 : 262152 &&& k0 = 262152) :
    Moves k0 z0 (resetCopies s) := by
  refine hz.trans ?_
  clear hz
  unfold resetCopies
  repeat' first
    | with_reducible exact Moves.refl _ _
    | with_reducible assumption
    | with_reducible exact mask_le hk0 (by decide)
    | with_reducible apply Moves.ite
    | with_reducible apply Moves.ite_fst
    | with_reducible (apply State.modMgmt_moves)
    | with_reducible (apply mgmtSensor_moves)
    | with_reducible (apply Moves.foldl)
    | with_reducible (apply Moves.foldl_fst)
    | with_reducible (apply Moves.of_eq; assumption)
    | with_reducible intro _
    | dsimp only
    | split

theorem tripReport_moves (s : State) {k0 : Nat} {z0 : State} (hz : Moves k0 z0 s) (hk0 : 448456 &&& k0 = 448456) :
    Moves k0 z0 (tripReport s) := by
  refine hz.trans ?_
  clear hz
  unfold tripReport
  repeat' first
    | with_reducible exact Moves.refl _ _
    | with_reducible assumption
    | with_reducible exact mask_le hk0 (by decide)
    | with_reducible apply Moves.ite
    | with_reducible apply Moves.ite_fst
    | with_reducible (apply State.modPower_moves)
    | with_reducible (apply alertLatch_moves)
    | with_reducible (apply fence_moves)
    | with_reducible (apply Moves.foldl)
    | with_reducible (apply Moves.foldl_fst)
    | with_reducible (apply Moves.of_eq; assumption)
    | with_reducible intro _
    | dsimp only
    | split

theorem bootTrain_moves (s : State) (env : BootEnv) {k0 : Nat} {z0 : State} (hz : Moves k0 z0 s) (hk0 : 8388600 &&& k0 = 8388600) :
    Moves k0 z0 (bootTrain s env) := by
  refine hz.trans ?_
  clear hz
  unfold bootTrain
  repeat' first
    | with_reducible exact Moves.refl _ _
    | with_reducible assumption
    | with_reducible exact mask_le hk0 (by decide)
    | with_reducible apply Moves.ite
    | with_reducible apply Moves.ite_fst
    | with_reducible (apply State.modBoot_moves (h1 := rfl))
    | with_reducible (apply State.modBoot_moves (h1 := by split <;> rfl))
    | with_reducible (apply State.modLink_moves)
    | with_reducible (apply releaseFailed_moves)
    | with_reducible (apply Moves.foldl)
    | with_reducible (apply Moves.foldl_fst)
    | with_reducible (apply Moves.of_eq; assumption)
    | with_reducible intro _
    | dsimp only
    | split

theorem bootConfig_moves (s : State) (env : BootEnv) {k0 : Nat} {z0 : State} (hz : Moves k0 z0 s) (hk0 : 8388600 &&& k0 = 8388600) :
    Moves k0 z0 (bootConfig s env) := by
  refine hz.trans ?_
  clear hz
  unfold bootConfig
  repeat' first
    | with_reducible exact Moves.refl _ _
    | with_reducible assumption
    | with_reducible exact mask_le hk0 (by decide)
    | with_reducible apply Moves.ite
    | with_reducible apply Moves.ite_fst
    | with_reducible (apply State.modBoot_moves (h1 := rfl))
    | with_reducible (apply State.modBoot_moves (h1 := by split <;> rfl))
    | with_reducible (apply bootTrain_moves)
    | with_reducible (apply configApply_moves)
    | with_reducible (apply faceRails_moves)
    | with_reducible (apply resetCopies_moves)
    | with_reducible (apply tripReport_moves)
    | with_reducible (apply Moves.foldl)
    | with_reducible (apply Moves.foldl_fst)
    | with_reducible (apply Moves.of_eq; assumption)
    | with_reducible intro _
    | dsimp only
    | split

theorem logHold_moves (s : State) (heldNs : Nat) {k0 : Nat} {z0 : State} (hz : Moves k0 z0 s) (hk0 : 16 &&& k0 = 16) :
    Moves k0 z0 (logHold s heldNs) := by
  refine hz.trans ?_
  clear hz
  unfold logHold
  repeat' first
    | with_reducible exact Moves.refl _ _
    | with_reducible assumption
    | with_reducible exact mask_le hk0 (by decide)
    | with_reducible apply Moves.ite
    | with_reducible apply Moves.ite_fst
    | with_reducible (apply State.modBoot_moves (h1 := rfl))
    | with_reducible (apply State.modBoot_moves (h1 := by split <;> rfl))
    | with_reducible (apply Moves.foldl)
    | with_reducible (apply Moves.foldl_fst)
    | with_reducible (apply Moves.of_eq; assumption)
    | with_reducible intro _
    | dsimp only
    | split

theorem startClocks_moves (s : State) {k0 : Nat} {z0 : State} (hz : Moves k0 z0 s) (hk0 : 131200 &&& k0 = 131200) :
    Moves k0 z0 (startClocks s) := by
  refine hz.trans ?_
  clear hz
  unfold startClocks
  repeat' first
    | with_reducible exact Moves.refl _ _
    | with_reducible assumption
    | with_reducible exact mask_le hk0 (by decide)
    | with_reducible apply Moves.ite
    | with_reducible apply Moves.ite_fst
    | with_reducible (apply State.modDl_moves)
    | with_reducible (apply State.modPower_moves)
    | with_reducible (apply Moves.foldl)
    | with_reducible (apply Moves.foldl_fst)
    | with_reducible (apply Moves.of_eq; assumption)
    | with_reducible intro _
    | dsimp only
    | split

theorem drawCommonKey_moves (s : State) {k0 : Nat} {z0 : State} (hz : Moves k0 z0 s) (hk0 : 258 &&& k0 = 258) :
    Moves k0 z0 (drawCommonKey s) := by
  refine hz.trans ?_
  clear hz
  unfold drawCommonKey
  repeat' first
    | with_reducible exact Moves.refl _ _
    | with_reducible assumption
    | with_reducible exact mask_le hk0 (by decide)
    | with_reducible apply Moves.ite
    | with_reducible apply Moves.ite_fst
    | with_reducible (apply State.draw_moves)
    | with_reducible (apply State.modTiers_moves (h1 := rfl) (h2 := rfl))
    | with_reducible (apply State.modTiers_moves (h1 := by split <;> rfl) (h2 := by split <;> rfl))
    | with_reducible (apply Moves.foldl)
    | with_reducible (apply Moves.foldl_fst)
    | with_reducible (apply Moves.of_eq; assumption)
    | with_reducible intro _
    | dsimp only
    | split

theorem releaseDies_moves (s : State) (env : BootEnv) {k0 : Nat} {z0 : State} (hz : Moves k0 z0 s) (hk0 : 8388602 &&& k0 = 8388602) :
    Moves k0 z0 (releaseDies s env) := by
  refine hz.trans ?_
  clear hz
  unfold releaseDies
  repeat' first
    | with_reducible exact Moves.refl _ _
    | with_reducible assumption
    | with_reducible exact mask_le hk0 (by decide)
    | with_reducible apply Moves.ite
    | with_reducible apply Moves.ite_fst
    | with_reducible (apply State.modBoot_moves (h1 := rfl))
    | with_reducible (apply State.modBoot_moves (h1 := by split <;> rfl))
    | with_reducible (apply bootConfig_moves)
    | with_reducible (apply drawCommonKey_moves)
    | with_reducible (apply drawNonce_moves)
    | with_reducible (apply dropMain_moves)
    | with_reducible (apply repairApply_moves)
    | with_reducible (apply setDev_moves)
    | with_reducible (apply setMeasure_moves)
    | with_reducible (apply startClocks_moves)
    | with_reducible (apply tripUnits_moves)
    | with_reducible (apply Moves.foldl)
    | with_reducible (apply Moves.foldl_fst)
    | with_reducible (apply Moves.of_eq; assumption)
    | with_reducible intro _
    | dsimp only
    | split

theorem tryRelease_moves (s : State) (env : BootEnv) {k0 : Nat} {z0 : State} (hz : Moves k0 z0 s) (hk0 : 8388602 &&& k0 = 8388602) :
    Moves k0 z0 (tryRelease s env) := by
  refine hz.trans ?_
  clear hz
  unfold tryRelease
  repeat' first
    | with_reducible exact Moves.refl _ _
    | with_reducible assumption
    | with_reducible exact mask_le hk0 (by decide)
    | with_reducible apply Moves.ite
    | with_reducible apply Moves.ite_fst
    | with_reducible (apply bootSelect_moves)
    | with_reducible (apply releaseDies_moves)
    | with_reducible (apply Moves.foldl)
    | with_reducible (apply Moves.foldl_fst)
    | with_reducible (apply Moves.of_eq; assumption)
    | with_reducible intro _
    | dsimp only
    | split

theorem qualify_moves (s : State) {k0 : Nat} {z0 : State} (hz : Moves k0 z0 s) (hk0 : 8388600 &&& k0 = 8388600) :
    Moves k0 z0 (qualify s) := by
  refine hz.trans ?_
  clear hz
  unfold qualify
  repeat' first
    | with_reducible exact Moves.refl _ _
    | with_reducible assumption
    | with_reducible exact mask_le hk0 (by decide)
    | with_reducible apply Moves.ite
    | with_reducible apply Moves.ite_fst
    | with_reducible (apply State.modBoot_moves (h1 := rfl))
    | with_reducible (apply State.modBoot_moves (h1 := by split <;> rfl))
    | with_reducible (apply coldStart_moves)
    | with_reducible (apply Moves.foldl)
    | with_reducible (apply Moves.foldl_fst)
    | with_reducible (apply Moves.of_eq; assumption)
    | with_reducible intro _
    | dsimp only
    | split

theorem bootSense_moves (s : State) {k0 : Nat} {z0 : State} (hz : Moves k0 z0 s) (hk0 : 327682 &&& k0 = 327682) :
    Moves k0 z0 (bootSense s) := by
  refine hz.trans ?_
  clear hz
  unfold bootSense
  repeat' first
    | with_reducible exact Moves.refl _ _
    | with_reducible assumption
    | with_reducible exact mask_le hk0 (by decide)
    | with_reducible apply Moves.ite
    | with_reducible apply Moves.ite_fst
    | with_reducible (apply State.modDbg_moves)
    | with_reducible (apply State.modMgmt_moves)
    | with_reducible (apply drawNonce_moves)
    | with_reducible (apply Moves.foldl)
    | with_reducible (apply Moves.foldl_fst)
    | with_reducible (apply Moves.of_eq; assumption)
    | with_reducible intro _
    | dsimp only
    | split

theorem findFlash_moves (s : State) (f : Boot → Boot) (flash : Flash) (h1 : (f s.boot).flash = flashKept flash) {k0 : Nat} {z0 : State}
    (hz : Moves k0 z0 s) (hk0 : 16 &&& k0 = 16) : Moves k0 z0 (s.modBoot f) := by
  refine hz.trans (Moves.mono (k := 16) ⟨rfl, ⟨[], by simp [State.modBoot]⟩, fun w => ?_, ?_⟩ hk0)
  · have h := memWf_parts w
    refine memWf_of h.1 h.2.1 ?_
    show flashOk (f s.boot).flash.cells
    rw [h1]
    exact flashKept_ok flash
  · intro p hp
    cases p <;> first | rfl | exact absurd hp (by decide)

theorem stbyRise_moves (s : State) (flash : Flash) (fuses : Fuses) (env : BootEnv) {k0 : Nat} {z0 : State} (hz : Moves k0 z0 s)
    (hk0 : 8388602 &&& k0 = 8388602) : Moves k0 z0 (stbyRise s flash fuses env) := by
  have h0 : Moves k0 z0 (if s.boot.found then s else s.modBoot fun b => { b with flash := flashKept flash, fuses := fuses, found := true }) :=
    Moves.ite hz (findFlash_moves s _ flash rfl hz (mask_le hk0 (by decide)))
  unfold stbyRise
  refine Moves.ite hz ?_
  generalize (if s.boot.found then s else s.modBoot fun b => { b with flash := flashKept flash, fuses := fuses, found := true }) = t at h0 ⊢
  dsimp only
  have h1 : Moves k0 z0 ((t.modBoot fun b => { b with
      stbyPwrok := true, lamphouse := true, mainEn := true, step := 1, heldSince := s.now, qualified := powerGood s, wasQualified := powerGood s }).emit
      (.pin "MAIN_EN" true)) :=
    State.emit_moves _ _ (State.modBoot_moves _ _ rfl h0 (mask_le hk0 (by decide))) (mask_le hk0 (by decide))
  refine Moves.ite h1 (Moves.ite ?_ ?_)
  · exact bootFailed_moves _ (setCopyCause_moves _ _ _ (setCopyCause_moves _ _ _ (bootSense_moves _ h1 (mask_le hk0 (by decide)))
      (mask_le hk0 (by decide))) (mask_le hk0 (by decide))) (mask_le hk0 (by decide))
  · exact tryRelease_moves _ _ (bootDiscover_moves _ _ (bootSense_moves _ h1 (mask_le hk0 (by decide))) (mask_le hk0 (by decide)))
      (mask_le hk0 (by decide))

theorem flashTimeout_moves (s : State) (env : BootEnv) {k0 : Nat} {z0 : State} (hz : Moves k0 z0 s) (hk0 : 8388602 &&& k0 = 8388602) :
    Moves k0 z0 (flashTimeout s env) := by
  refine hz.trans ?_
  clear hz
  unfold flashTimeout
  repeat' first
    | with_reducible exact Moves.refl _ _
    | with_reducible assumption
    | with_reducible exact mask_le hk0 (by decide)
    | with_reducible apply Moves.ite
    | with_reducible apply Moves.ite_fst
    | with_reducible (apply State.modBoot_moves (h1 := rfl))
    | with_reducible (apply State.modBoot_moves (h1 := by split <;> rfl))
    | with_reducible (apply bootHeaders_moves)
    | with_reducible (apply bootHeld_moves)
    | with_reducible (apply bootVerify_moves)
    | with_reducible (apply candFail_moves)
    | with_reducible (apply measureBoot_moves)
    | with_reducible (apply setCopyCause_moves)
    | with_reducible (apply tryRelease_moves)
    | with_reducible (apply Moves.foldl)
    | with_reducible (apply Moves.foldl_fst)
    | with_reducible (apply Moves.of_eq; assumption)
    | with_reducible intro _
    | dsimp only
    | split

theorem stepTimeout_moves (s : State) (env : BootEnv) {k0 : Nat} {z0 : State} (hz : Moves k0 z0 s) (hk0 : 8388602 &&& k0 = 8388602) :
    Moves k0 z0 (stepTimeout s env) := by
  refine hz.trans ?_
  clear hz
  unfold stepTimeout
  repeat' first
    | with_reducible exact Moves.refl _ _
    | with_reducible assumption
    | with_reducible exact mask_le hk0 (by decide)
    | with_reducible apply Moves.ite
    | with_reducible apply Moves.ite_fst
    | with_reducible (apply State.modBoot_moves (h1 := rfl))
    | with_reducible (apply State.modBoot_moves (h1 := by split <;> rfl))
    | with_reducible (apply State.modMgmt_moves)
    | with_reducible (apply bootFailed_moves)
    | with_reducible (apply bootHeld_moves)
    | with_reducible (apply bootVerify_moves)
    | with_reducible (apply candFail_moves)
    | with_reducible (apply measureBoot_moves)
    | with_reducible (apply releaseFailed_moves)
    | with_reducible (apply setCopyCause_moves)
    | with_reducible (apply tryRelease_moves)
    | with_reducible (apply Moves.foldl)
    | with_reducible (apply Moves.foldl_fst)
    | with_reducible (apply Moves.of_eq; assumption)
    | with_reducible intro _
    | dsimp only
    | split

theorem bootRetry_moves (s : State) (env : BootEnv) {k0 : Nat} {z0 : State} (hz : Moves k0 z0 s) (hk0 : 8388602 &&& k0 = 8388602) :
    Moves k0 z0 (bootRetry s env) := by
  refine hz.trans ?_
  clear hz
  unfold bootRetry
  repeat' first
    | with_reducible exact Moves.refl _ _
    | with_reducible assumption
    | with_reducible exact mask_le hk0 (by decide)
    | with_reducible apply Moves.ite
    | with_reducible apply Moves.ite_fst
    | with_reducible (apply bootDiscover_moves)
    | with_reducible (apply tryRelease_moves)
    | with_reducible (apply Moves.foldl)
    | with_reducible (apply Moves.foldl_fst)
    | with_reducible (apply Moves.of_eq; assumption)
    | with_reducible intro _
    | dsimp only
    | split

theorem setLevel_moves (s : State) (l : Nat) {k0 : Nat} {z0 : State} (hz : Moves k0 z0 s) (hk0 : 393224 &&& k0 = 393224) :
    Moves k0 z0 (setLevel s l) := by
  refine hz.trans ?_
  clear hz
  unfold setLevel
  repeat' first
    | with_reducible exact Moves.refl _ _
    | with_reducible assumption
    | with_reducible exact mask_le hk0 (by decide)
    | with_reducible apply Moves.ite
    | with_reducible apply Moves.ite_fst
    | with_reducible (apply State.modPower_moves)
    | with_reducible (apply mgmtSensor_moves)
    | with_reducible (apply Moves.foldl)
    | with_reducible (apply Moves.foldl_fst)
    | with_reducible (apply Moves.of_eq; assumption)
    | with_reducible intro _
    | dsimp only
    | split

theorem resetRise_moves (s : State) (env : BootEnv) {k0 : Nat} {z0 : State} (hz : Moves k0 z0 s) (hk0 : 8388602 &&& k0 = 8388602) :
    Moves k0 z0 (resetRise s env) := by
  refine hz.trans ?_
  clear hz
  unfold resetRise
  repeat' first
    | with_reducible exact Moves.refl _ _
    | with_reducible assumption
    | with_reducible exact mask_le hk0 (by decide)
    | with_reducible apply Moves.ite
    | with_reducible apply Moves.ite_fst
    | with_reducible (apply State.emit_moves)
    | with_reducible (apply State.modBoot_moves (h1 := rfl))
    | with_reducible (apply State.modBoot_moves (h1 := by split <;> rfl))
    | with_reducible (apply bootRetry_moves)
    | with_reducible (apply logHold_moves)
    | with_reducible (apply setLevel_moves)
    | with_reducible (apply tryRelease_moves)
    | with_reducible (apply Moves.foldl)
    | with_reducible (apply Moves.foldl_fst)
    | with_reducible (apply Moves.of_eq; assumption)
    | with_reducible intro _
    | dsimp only
    | split

theorem resetFall_moves (s : State) {k0 : Nat} {z0 : State} (hz : Moves k0 z0 s) (hk0 : 8388600 &&& k0 = 8388600) :
    Moves k0 z0 (resetFall s) := by
  refine hz.trans ?_
  clear hz
  unfold resetFall
  repeat' first
    | with_reducible exact Moves.refl _ _
    | with_reducible assumption
    | with_reducible exact mask_le hk0 (by decide)
    | with_reducible apply Moves.ite
    | with_reducible apply Moves.ite_fst
    | with_reducible (apply State.modBoot_moves (h1 := rfl))
    | with_reducible (apply State.modBoot_moves (h1 := by split <;> rfl))
    | with_reducible (apply coldStart_moves)
    | with_reducible (apply Moves.foldl)
    | with_reducible (apply Moves.foldl_fst)
    | with_reducible (apply Moves.of_eq; assumption)
    | with_reducible intro _
    | dsimp only
    | split

theorem pwrokRise_moves (s : State) (env : BootEnv) {k0 : Nat} {z0 : State} (hz : Moves k0 z0 s) (hk0 : 8388602 &&& k0 = 8388602) :
    Moves k0 z0 (pwrokRise s env) := by
  refine hz.trans ?_
  clear hz
  unfold pwrokRise
  repeat' first
    | with_reducible exact Moves.refl _ _
    | with_reducible assumption
    | with_reducible exact mask_le hk0 (by decide)
    | with_reducible apply Moves.ite
    | with_reducible apply Moves.ite_fst
    | with_reducible (apply State.modBoot_moves (h1 := rfl))
    | with_reducible (apply State.modBoot_moves (h1 := by split <;> rfl))
    | with_reducible (apply tryRelease_moves)
    | with_reducible (apply Moves.foldl)
    | with_reducible (apply Moves.foldl_fst)
    | with_reducible (apply Moves.of_eq; assumption)
    | with_reducible intro _
    | dsimp only
    | split

theorem pwrokFall_moves (s : State) {k0 : Nat} {z0 : State} (hz : Moves k0 z0 s) (hk0 : 8388600 &&& k0 = 8388600) :
    Moves k0 z0 (pwrokFall s) := by
  refine hz.trans ?_
  clear hz
  unfold pwrokFall
  repeat' first
    | with_reducible exact Moves.refl _ _
    | with_reducible assumption
    | with_reducible exact mask_le hk0 (by decide)
    | with_reducible apply Moves.ite
    | with_reducible apply Moves.ite_fst
    | with_reducible (apply State.modBoot_moves (h1 := rfl))
    | with_reducible (apply State.modBoot_moves (h1 := by split <;> rfl))
    | with_reducible (apply qualify_moves)
    | with_reducible (apply Moves.foldl)
    | with_reducible (apply Moves.foldl_fst)
    | with_reducible (apply Moves.of_eq; assumption)
    | with_reducible intro _
    | dsimp only
    | split

theorem pwrokRestore_moves (s0 : State) (env : BootEnv) {k0 : Nat} {z0 : State} (hz : Moves k0 z0 s0) (hk0 : 8388602 &&& k0 = 8388602) :
    Moves k0 z0 (pwrokRestore s0 env) := by
  refine hz.trans ?_
  clear hz
  unfold pwrokRestore
  repeat' first
    | with_reducible exact Moves.refl _ _
    | with_reducible assumption
    | with_reducible exact mask_le hk0 (by decide)
    | with_reducible apply Moves.ite
    | with_reducible apply Moves.ite_fst
    | with_reducible (apply State.modBoot_moves (h1 := rfl))
    | with_reducible (apply State.modBoot_moves (h1 := by split <;> rfl))
    | with_reducible (apply logHold_moves)
    | with_reducible (apply tryRelease_moves)
    | with_reducible (apply Moves.foldl)
    | with_reducible (apply Moves.foldl_fst)
    | with_reducible (apply Moves.of_eq; assumption)
    | with_reducible intro _
    | dsimp only
    | split

theorem dropAll_moves (s : State) {k0 : Nat} {z0 : State} (hz : Moves k0 z0 s) (hk0 : 8388592 &&& k0 = 8388592) : Moves k0 z0 (dropAll s) :=
  hz.trans ((Moves.fresh (s := s) (t := dropAll s) (m := 8388592) rfl ⟨[], by simp [dropAll]⟩ rfl rfl rfl
    (by intro p hp; cases p <;> first | rfl | exact absurd hp (by decide))).mono hk0)

theorem stbyFall_moves (s : State) {k0 : Nat} {z0 : State} (hz : Moves k0 z0 s) (hk0 : 8388600 &&& k0 = 8388600) :
    Moves k0 z0 (stbyFall s) := by
  refine hz.trans ?_
  clear hz
  unfold stbyFall
  repeat' first
    | with_reducible exact Moves.refl _ _
    | with_reducible assumption
    | with_reducible exact mask_le hk0 (by decide)
    | with_reducible apply Moves.ite
    | with_reducible apply Moves.ite_fst
    | with_reducible (apply State.emit_moves)
    | with_reducible (apply dropAll_moves)
    | with_reducible (apply silencePorts_moves)
    | with_reducible (apply Moves.foldl)
    | with_reducible (apply Moves.foldl_fst)
    | with_reducible (apply Moves.of_eq; assumption)
    | with_reducible intro _
    | dsimp only
    | split

theorem heldAlarm_moves (s : State) {k0 : Nat} {z0 : State} (hz : Moves k0 z0 s) (hk0 : 262168 &&& k0 = 262168) :
    Moves k0 z0 (heldAlarm s) := by
  refine hz.trans ?_
  clear hz
  unfold heldAlarm
  repeat' first
    | with_reducible exact Moves.refl _ _
    | with_reducible assumption
    | with_reducible exact mask_le hk0 (by decide)
    | with_reducible apply Moves.ite
    | with_reducible apply Moves.ite_fst
    | with_reducible (apply State.modBoot_moves (h1 := rfl))
    | with_reducible (apply State.modBoot_moves (h1 := by split <;> rfl))
    | with_reducible (apply alertLatch_moves)
    | with_reducible (apply Moves.foldl)
    | with_reducible (apply Moves.foldl_fst)
    | with_reducible (apply Moves.of_eq; assumption)
    | with_reducible intro _
    | dsimp only
    | split

theorem bootReady_moves (s : State) (us : Nat) {k0 : Nat} {z0 : State} (hz : Moves k0 z0 s) (hk0 : 262168 &&& k0 = 262168) :
    Moves k0 z0 (bootReady s us) := by
  refine hz.trans ?_
  clear hz
  unfold bootReady
  repeat' first
    | with_reducible exact Moves.refl _ _
    | with_reducible assumption
    | with_reducible exact mask_le hk0 (by decide)
    | with_reducible apply Moves.ite
    | with_reducible apply Moves.ite_fst
    | with_reducible (apply State.modBoot_moves (h1 := rfl))
    | with_reducible (apply State.modBoot_moves (h1 := by split <;> rfl))
    | with_reducible (apply raiseRollback_moves)
    | with_reducible (apply setDev_moves)
    | with_reducible (apply Moves.foldl)
    | with_reducible (apply Moves.foldl_fst)
    | with_reducible (apply Moves.of_eq; assumption)
    | with_reducible intro _
    | dsimp only
    | split

end Sys2Proof.Machine
end

