-- ==== Sys2Proof/Laws/MovesPowerOps.lean ====
section
/-! SUPPORT. What each operation of Machine/PowerOps.lean may change. -/

set_option linter.unreachableTactic false
set_option linter.unusedTactic false
set_option linter.unusedVariables false

namespace Sys2Proof.Machine

theorem powerRefuse_moves (s : State) (code : Nat) {k0 : Nat} {z0 : State} (hz : Moves k0 z0 s) (hk0 : 131072 &&& k0 = 131072) :
    Moves k0 z0 (powerRefuse s code) := by
  refine hz.trans ?_
  clear hz
  unfold powerRefuse
  repeat' first
    | with_reducible exact Moves.refl _ _
    | with_reducible assumption
    | with_reducible exact mask_le hk0 (by decide)
    | with_reducible apply Moves.ite
    | with_reducible apply Moves.ite_fst
    | with_reducible (apply State.modPower_moves)
    | with_reducible (apply Moves.foldl)
    | with_reducible (apply Moves.foldl_fst)
    | with_reducible (apply Moves.of_eq; assumption)
    | with_reducible intro _
    | dsimp only
    | split

theorem enterP2_moves (s : State) {k0 : Nat} {z0 : State} (hz : Moves k0 z0 s) (hk0 : 1492072 &&& k0 = 1492072) :
    Moves k0 z0 (enterP2 s) := by
  refine hz.trans ?_
  clear hz
  unfold enterP2
  repeat' first
    | with_reducible exact Moves.refl _ _
    | with_reducible assumption
    | with_reducible exact mask_le hk0 (by decide)
    | with_reducible apply Moves.ite
    | with_reducible apply Moves.ite_fst
    | with_reducible (apply State.modNet_moves)
    | with_reducible (apply avsWrite_moves)
    | with_reducible (apply beatLoss_moves)
    | with_reducible (apply dropXfer_moves)
    | with_reducible (apply idlePorts_moves)
    | with_reducible (apply idlePorts_pmoves; assumption)
    | with_reducible (apply setLevel_moves)
    | with_reducible (apply Moves.foldl)
    | with_reducible (apply Moves.foldl_fst)
    | with_reducible (apply Moves.of_eq; assumption)
    | with_reducible intro _
    | dsimp only
    | split

theorem leaveP2_moves (s : State) {k0 : Nat} {z0 : State} (hz : Moves k0 z0 s) (hk0 : 409608 &&& k0 = 409608) :
    Moves k0 z0 (leaveP2 s) := by
  refine hz.trans ?_
  clear hz
  unfold leaveP2
  repeat' first
    | with_reducible exact Moves.refl _ _
    | with_reducible assumption
    | with_reducible exact mask_le hk0 (by decide)
    | with_reducible apply Moves.ite
    | with_reducible apply Moves.ite_fst
    | with_reducible (apply State.modLink_moves)
    | with_reducible (apply avsWrite_moves)
    | with_reducible (apply faceRails_moves)
    | with_reducible (apply setLevel_moves)
    | with_reducible (apply Moves.foldl)
    | with_reducible (apply Moves.foldl_fst)
    | with_reducible (apply Moves.of_eq; assumption)
    | with_reducible intro _
    | dsimp only
    | split

theorem enterP3_moves (s : State) {k0 : Nat} {z0 : State} (hz : Moves k0 z0 s) (hk0 : 8388600 &&& k0 = 8388600) :
    Moves k0 z0 (enterP3 s) := by
  refine hz.trans ?_
  clear hz
  unfold enterP3
  repeat' first
    | with_reducible exact Moves.refl _ _
    | with_reducible assumption
    | with_reducible exact mask_le hk0 (by decide)
    | with_reducible apply Moves.ite
    | with_reducible apply Moves.ite_fst
    | with_reducible (apply State.emit_moves)
    | with_reducible (apply State.modBoot_moves (h1 := rfl))
    | with_reducible (apply State.modBoot_moves (h1 := by split <;> rfl))
    | with_reducible (apply mainReset_moves)
    | with_reducible (apply setLevel_moves)
    | with_reducible (apply Moves.foldl)
    | with_reducible (apply Moves.foldl_fst)
    | with_reducible (apply Moves.of_eq; assumption)
    | with_reducible intro _
    | dsimp only
    | split

theorem powerRequest_moves (s : State) (p3 : Bool) {k0 : Nat} {z0 : State} (hz : Moves k0 z0 s) (hk0 : 8388600 &&& k0 = 8388600) :
    Moves k0 z0 (powerRequest s p3) := by
  refine hz.trans ?_
  clear hz
  unfold powerRequest
  repeat' first
    | with_reducible exact Moves.refl _ _
    | with_reducible assumption
    | with_reducible exact mask_le hk0 (by decide)
    | with_reducible apply Moves.ite
    | with_reducible apply Moves.ite_fst
    | with_reducible (apply enterP2_moves)
    | with_reducible (apply enterP3_moves)
    | with_reducible (apply powerRefuse_moves)
    | with_reducible (apply Moves.foldl)
    | with_reducible (apply Moves.foldl_fst)
    | with_reducible (apply Moves.of_eq; assumption)
    | with_reducible intro _
    | dsimp only
    | split

theorem powerWrite_moves (s : State) (request : Nat) (wake : Bool) {k0 : Nat} {z0 : State} (hz : Moves k0 z0 s) (hk0 : 131072 &&& k0 = 131072) :
    Moves k0 z0 (powerWrite s request wake) := by
  refine hz.trans ?_
  clear hz
  unfold powerWrite
  repeat' first
    | with_reducible exact Moves.refl _ _
    | with_reducible assumption
    | with_reducible exact mask_le hk0 (by decide)
    | with_reducible apply Moves.ite
    | with_reducible apply Moves.ite_fst
    | with_reducible (apply State.modPower_moves)
    | with_reducible (apply Moves.foldl)
    | with_reducible (apply Moves.foldl_fst)
    | with_reducible (apply Moves.of_eq; assumption)
    | with_reducible intro _
    | dsimp only
    | split

theorem powerGo_moves (s : State) (request : Nat) (wake : Bool) {k0 : Nat} {z0 : State} (hz : Moves k0 z0 s) (hk0 : 8388600 &&& k0 = 8388600) :
    Moves k0 z0 (powerGo s request wake) := by
  refine hz.trans ?_
  clear hz
  unfold powerGo
  repeat' first
    | with_reducible exact Moves.refl _ _
    | with_reducible assumption
    | with_reducible exact mask_le hk0 (by decide)
    | with_reducible apply Moves.ite
    | with_reducible apply Moves.ite_fst
    | with_reducible (apply leaveP2_moves)
    | with_reducible (apply powerRequest_moves)
    | with_reducible (apply powerWrite_moves)
    | with_reducible (apply Moves.foldl)
    | with_reducible (apply Moves.foldl_fst)
    | with_reducible (apply Moves.of_eq; assumption)
    | with_reducible intro _
    | dsimp only
    | split

theorem powerWake_moves (s : State) (env : BootEnv) {k0 : Nat} {z0 : State} (hz : Moves k0 z0 s) (hk0 : 8388602 &&& k0 = 8388602) :
    Moves k0 z0 (powerWake s env) := by
  refine hz.trans ?_
  clear hz
  unfold powerWake
  repeat' first
    | with_reducible exact Moves.refl _ _
    | with_reducible assumption
    | with_reducible exact mask_le hk0 (by decide)
    | with_reducible apply Moves.ite
    | with_reducible apply Moves.ite_fst
    | with_reducible (apply State.emit_moves)
    | with_reducible (apply State.modBoot_moves (h1 := rfl))
    | with_reducible (apply State.modBoot_moves (h1 := by split <;> rfl))
    | with_reducible (apply leaveP2_moves)
    | with_reducible (apply setLevel_moves)
    | with_reducible (apply tryRelease_moves)
    | with_reducible (apply Moves.foldl)
    | with_reducible (apply Moves.foldl_fst)
    | with_reducible (apply Moves.of_eq; assumption)
    | with_reducible intro _
    | dsimp only
    | split

theorem stepClocks_moves (s : State) (up : Bool) {k0 : Nat} {z0 : State} (hz : Moves k0 z0 s) (hk0 : 131208 &&& k0 = 131208) :
    Moves k0 z0 (stepClocks s up) := by
  refine hz.trans ?_
  clear hz
  unfold stepClocks
  repeat' first
    | with_reducible exact Moves.refl _ _
    | with_reducible assumption
    | with_reducible exact mask_le hk0 (by decide)
    | with_reducible apply Moves.ite
    | with_reducible apply Moves.ite_fst
    | with_reducible (apply State.modDl_moves)
    | with_reducible (apply State.modPower_moves)
    | with_reducible (apply followRail_moves)
    | with_reducible (apply Moves.foldl)
    | with_reducible (apply Moves.foldl_fst)
    | with_reducible (apply Moves.of_eq; assumption)
    | with_reducible intro _
    | dsimp only
    | split

theorem limitCheck_moves (s : State) (avg : Nat) (sample : Nat) {k0 : Nat} {z0 : State} (hz : Moves k0 z0 s) (hk0 : 393352 &&& k0 = 393352) :
    Moves k0 z0 (limitCheck s avg sample) := by
  refine hz.trans ?_
  clear hz
  unfold limitCheck
  repeat' first
    | with_reducible exact Moves.refl _ _
    | with_reducible assumption
    | with_reducible exact mask_le hk0 (by decide)
    | with_reducible apply Moves.ite
    | with_reducible apply Moves.ite_fst
    | with_reducible (apply State.modPower_moves)
    | with_reducible (apply alertLatch_moves)
    | with_reducible (apply stepClocks_moves)
    | with_reducible (apply Moves.foldl)
    | with_reducible (apply Moves.foldl_fst)
    | with_reducible (apply Moves.of_eq; assumption)
    | with_reducible intro _
    | dsimp only
    | split

theorem dieTrip_moves (s : State) (d : Nat) {k0 : Nat} {z0 : State} (hz : Moves k0 z0 s) (hk0 : 448456 &&& k0 = 448456) :
    Moves k0 z0 (dieTrip s d) := by
  refine hz.trans ?_
  clear hz
  unfold dieTrip
  repeat' first
    | with_reducible exact Moves.refl _ _
    | with_reducible assumption
    | with_reducible exact mask_le hk0 (by decide)
    | with_reducible apply Moves.ite
    | with_reducible apply Moves.ite_fst
    | with_reducible (apply State.modPower_moves)
    | with_reducible (apply alertLatch_moves)
    | with_reducible (apply lamphouseDisable_moves)
    | with_reducible (apply tripUnits_moves)
    | with_reducible (apply Moves.foldl)
    | with_reducible (apply Moves.foldl_fst)
    | with_reducible (apply Moves.of_eq; assumption)
    | with_reducible intro _
    | dsimp only
    | split

theorem thermalSample_moves (s : State) (temps : List ℤ) {k0 : Nat} {z0 : State} (hz : Moves k0 z0 s) (hk0 : 8388600 &&& k0 = 8388600) :
    Moves k0 z0 (thermalSample s temps) := by
  refine hz.trans ?_
  clear hz
  unfold thermalSample
  repeat' first
    | with_reducible exact Moves.refl _ _
    | with_reducible assumption
    | with_reducible exact mask_le hk0 (by decide)
    | with_reducible apply Moves.ite
    | with_reducible apply Moves.ite_fst
    | with_reducible (apply State.modPower_moves)
    | with_reducible (apply dieTrip_moves)
    | with_reducible (apply qualify_moves)
    | with_reducible (apply stepClocks_moves)
    | with_reducible (apply Moves.foldl)
    | with_reducible (apply Moves.foldl_fst)
    | with_reducible (apply Moves.of_eq; assumption)
    | with_reducible intro _
    | dsimp only
    | split

theorem avsTimeout_moves (s : State) (rail : Nat) (readBack : Nat) {k0 : Nat} {z0 : State} (hz : Moves k0 z0 s) (hk0 : 131080 &&& k0 = 131080) :
    Moves k0 z0 (avsTimeout s rail readBack) := by
  refine hz.trans ?_
  clear hz
  unfold avsTimeout
  repeat' first
    | with_reducible exact Moves.refl _ _
    | with_reducible assumption
    | with_reducible exact mask_le hk0 (by decide)
    | with_reducible apply Moves.ite
    | with_reducible apply Moves.ite_fst
    | with_reducible (apply State.emit_moves)
    | with_reducible (apply State.modPower_moves)
    | with_reducible (apply Moves.foldl)
    | with_reducible (apply Moves.foldl_fst)
    | with_reducible (apply Moves.of_eq; assumption)
    | with_reducible intro _
    | dsimp only
    | split

theorem railFault_moves (s : State) {k0 : Nat} {z0 : State} (hz : Moves k0 z0 s) (hk0 : 8388600 &&& k0 = 8388600) :
    Moves k0 z0 (railFault s) := by
  refine hz.trans ?_
  clear hz
  unfold railFault
  repeat' first
    | with_reducible exact Moves.refl _ _
    | with_reducible assumption
    | with_reducible exact mask_le hk0 (by decide)
    | with_reducible apply Moves.ite
    | with_reducible apply Moves.ite_fst
    | with_reducible (apply State.modBoot_moves (h1 := rfl))
    | with_reducible (apply State.modBoot_moves (h1 := by split <;> rfl))
    | with_reducible (apply qualify_moves)
    | with_reducible (apply Moves.foldl)
    | with_reducible (apply Moves.foldl_fst)
    | with_reducible (apply Moves.of_eq; assumption)
    | with_reducible intro _
    | dsimp only
    | split

theorem refclkLoss_moves (s : State) {k0 : Nat} {z0 : State} (hz : Moves k0 z0 s) (hk0 : 8388600 &&& k0 = 8388600) :
    Moves k0 z0 (refclkLoss s) := by
  refine hz.trans ?_
  clear hz
  unfold refclkLoss
  repeat' first
    | with_reducible exact Moves.refl _ _
    | with_reducible assumption
    | with_reducible exact mask_le hk0 (by decide)
    | with_reducible apply Moves.ite
    | with_reducible apply Moves.ite_fst
    | with_reducible (apply State.modBoot_moves (h1 := rfl))
    | with_reducible (apply State.modBoot_moves (h1 := by split <;> rfl))
    | with_reducible (apply qualify_moves)
    | with_reducible (apply Moves.foldl)
    | with_reducible (apply Moves.foldl_fst)
    | with_reducible (apply Moves.of_eq; assumption)
    | with_reducible intro _
    | dsimp only
    | split

theorem crystalLoss_moves (s : State) {k0 : Nat} {z0 : State} (hz : Moves k0 z0 s) (hk0 : 8388600 &&& k0 = 8388600) :
    Moves k0 z0 (crystalLoss s) := by
  refine hz.trans ?_
  clear hz
  unfold crystalLoss
  repeat' first
    | with_reducible exact Moves.refl _ _
    | with_reducible assumption
    | with_reducible exact mask_le hk0 (by decide)
    | with_reducible apply Moves.ite
    | with_reducible apply Moves.ite_fst
    | with_reducible (apply State.modBoot_moves (h1 := rfl))
    | with_reducible (apply State.modBoot_moves (h1 := by split <;> rfl))
    | with_reducible (apply qualify_moves)
    | with_reducible (apply Moves.foldl)
    | with_reducible (apply Moves.foldl_fst)
    | with_reducible (apply Moves.of_eq; assumption)
    | with_reducible intro _
    | dsimp only
    | split

theorem vendorOpen_moves (s : State) (b : List Byte) (env : BootEnv) {k0 : Nat} {z0 : State} (hz : Moves k0 z0 s) (hk0 : 8388602 &&& k0 = 8388602) :
    Moves k0 z0 (vendorOpen s b env) := by
  refine hz.trans ?_
  clear hz
  unfold vendorOpen
  repeat' first
    | with_reducible exact Moves.refl _ _
    | with_reducible assumption
    | with_reducible exact mask_le hk0 (by decide)
    | with_reducible apply Moves.ite
    | with_reducible apply Moves.ite_fst
    | with_reducible (apply State.modBoot_moves (h1 := rfl))
    | with_reducible (apply State.modBoot_moves (h1 := by split <;> rfl))
    | with_reducible (apply State.modDbg_moves)
    | with_reducible (apply extendMeasure_moves)
    | with_reducible (apply mainReset_moves)
    | with_reducible (apply secEvent_moves)
    | with_reducible (apply setSec_moves)
    | with_reducible (apply tryRelease_moves)
    | with_reducible (apply Moves.foldl)
    | with_reducible (apply Moves.foldl_fst)
    | with_reducible (apply Moves.of_eq; assumption)
    | with_reducible intro _
    | dsimp only
    | split

theorem unlockBlock_moves (s : State) (b : List Byte) (env : BootEnv) {k0 : Nat} {z0 : State} (hz : Moves k0 z0 s) (hk0 : 8388602 &&& k0 = 8388602) :
    Moves k0 z0 (unlockBlock s b env).1 := by
  refine hz.trans ?_
  clear hz
  unfold unlockBlock
  repeat' first
    | with_reducible exact Moves.refl _ _
    | with_reducible assumption
    | with_reducible exact mask_le hk0 (by decide)
    | with_reducible apply Moves.ite
    | with_reducible apply Moves.ite_fst
    | with_reducible (apply vendorOpen_moves)
    | with_reducible (apply Moves.foldl)
    | with_reducible (apply Moves.foldl_fst)
    | with_reducible (apply Moves.of_eq; assumption)
    | with_reducible intro _
    | dsimp only
    | split

theorem unlockBlock_pmoves (s : State) (b : List Byte) (env : BootEnv) {z1 : State} {y1 : Nat} (he : (unlockBlock s b env) = (z1, y1)) {k0 : Nat} {z0 : State} (hz : Moves k0 z0 s) (hk0 : 8388602 &&& k0 = 8388602) :
    Moves k0 z0 z1 := by
  simpa only [he] using unlockBlock_moves s b env hz hk0

end Sys2Proof.Machine
end

