-- ==== Sys2Proof/Laws/MovesMgmtOps.lean ====
section
/-! SUPPORT. What each operation of Machine/MgmtOps.lean may change. -/

set_option linter.unreachableTactic false
set_option linter.unusedTactic false
set_option linter.unusedVariables false

namespace Sys2Proof.Machine

theorem answer_moves (s : State) (type : Nat) (cmd : Nat) (code : Nat) (data : List Byte) {k0 : Nat} {z0 : State} (hz : Moves k0 z0 s) (hk0 : 8 &&& k0 = 8) :
    Moves k0 z0 (answer s type cmd code data) := by
  refine hz.trans ?_
  clear hz
  unfold answer
  repeat' first
    | with_reducible exact Moves.refl _ _
    | with_reducible assumption
    | with_reducible exact mask_le hk0 (by decide)
    | with_reducible apply Moves.ite
    | with_reducible apply Moves.ite_fst
    | with_reducible (apply State.emit_moves)
    | with_reducible (apply Moves.foldl)
    | with_reducible (apply Moves.foldl_fst)
    | with_reducible (apply Moves.of_eq; assumption)
    | with_reducible intro _
    | dsimp only
    | split

theorem setEid_moves (s : State) (eid : Nat) {k0 : Nat} {z0 : State} (hz : Moves k0 z0 s) (hk0 : 262152 &&& k0 = 262152) :
    Moves k0 z0 (setEid s eid) := by
  refine hz.trans ?_
  clear hz
  unfold setEid
  repeat' first
    | with_reducible exact Moves.refl _ _
    | with_reducible assumption
    | with_reducible exact mask_le hk0 (by decide)
    | with_reducible apply Moves.ite
    | with_reducible apply Moves.ite_fst
    | with_reducible (apply State.modMgmt_moves)
    | with_reducible (apply answer_moves)
    | with_reducible (apply Moves.foldl)
    | with_reducible (apply Moves.foldl_fst)
    | with_reducible (apply Moves.of_eq; assumption)
    | with_reducible intro _
    | dsimp only
    | split

theorem vendor_moves (s : State) (cmd : Nat) (code : Nat) (detail : Nat) (data : List Byte) {k0 : Nat} {z0 : State} (hz : Moves k0 z0 s) (hk0 : 8 &&& k0 = 8) :
    Moves k0 z0 (vendor s cmd code detail data) := by
  refine hz.trans ?_
  clear hz
  unfold vendor
  repeat' first
    | with_reducible exact Moves.refl _ _
    | with_reducible assumption
    | with_reducible exact mask_le hk0 (by decide)
    | with_reducible apply Moves.ite
    | with_reducible apply Moves.ite_fst
    | with_reducible (apply answer_moves)
    | with_reducible (apply Moves.foldl)
    | with_reducible (apply Moves.foldl_fst)
    | with_reducible (apply Moves.of_eq; assumption)
    | with_reducible intro _
    | dsimp only
    | split

theorem vendorGo_moves (s : State) (k : State → State) {k0 : Nat} {z0 : State} (hz : Moves k0 z0 s) (hk0 : 0 &&& k0 = 0) (hk_k : ∀ (v0 : State), Moves k0 v0 (k v0)) :
    Moves k0 z0 (vendorGo s k) := by
  refine hz.trans ?_
  clear hz
  unfold vendorGo
  repeat' first
    | with_reducible exact Moves.refl _ _
    | with_reducible assumption
    | with_reducible exact mask_le hk0 (by decide)
    | with_reducible apply Moves.ite
    | with_reducible apply Moves.ite_fst
    | with_reducible (refine Moves.trans ?_ (hk_k ..))
    | with_reducible (apply Moves.foldl)
    | with_reducible (apply Moves.foldl_fst)
    | with_reducible (apply Moves.of_eq; assumption)
    | with_reducible intro _
    | dsimp only
    | split

theorem getNonce_moves (s : State) {k0 : Nat} {z0 : State} (hz : Moves k0 z0 s) (hk0 : 8 &&& k0 = 8) :
    Moves k0 z0 (getNonce s) := by
  refine hz.trans ?_
  clear hz
  unfold getNonce
  repeat' first
    | with_reducible exact Moves.refl _ _
    | with_reducible assumption
    | with_reducible exact mask_le hk0 (by decide)
    | with_reducible apply Moves.ite
    | with_reducible apply Moves.ite_fst
    | with_reducible (apply vendor_moves)
    | with_reducible (apply vendorGo_moves)
    | with_reducible (apply Moves.foldl)
    | with_reducible (apply Moves.foldl_fst)
    | with_reducible (apply Moves.of_eq; assumption)
    | with_reducible intro _
    | dsimp only
    | split

theorem securityAnswer_moves (r : State × Nat) {k0 : Nat} {z0 : State} (hz : Moves k0 z0 r.1) (hk0 : 8 &&& k0 = 8) :
    Moves k0 z0 (securityAnswer r) := by
  refine hz.trans ?_
  clear hz
  unfold securityAnswer
  repeat' first
    | with_reducible exact Moves.refl _ _
    | with_reducible assumption
    | with_reducible exact mask_le hk0 (by decide)
    | with_reducible apply Moves.ite
    | with_reducible apply Moves.ite_fst
    | with_reducible (apply vendor_moves)
    | with_reducible (apply Moves.foldl)
    | with_reducible (apply Moves.foldl_fst)
    | with_reducible (apply Moves.of_eq; assumption)
    | with_reducible intro _
    | dsimp only
    | split

theorem mgmtKeySlot_moves (s : State) (block : List Byte) (verified : Bool) {k0 : Nat} {z0 : State} (hz : Moves k0 z0 s) (hk0 : 328794 &&& k0 = 328794) :
    Moves k0 z0 (mgmtKeySlot s block verified) := by
  refine hz.trans ?_
  clear hz
  unfold mgmtKeySlot
  repeat' first
    | with_reducible exact Moves.refl _ _
    | with_reducible assumption
    | with_reducible exact mask_le hk0 (by decide)
    | with_reducible apply Moves.ite
    | with_reducible apply Moves.ite_fst
    | with_reducible (apply drawNonce_moves)
    | with_reducible (apply keySlotBlock_moves)
    | with_reducible (apply keySlotBlock_pmoves; assumption)
    | with_reducible (apply securityAnswer_moves)
    | with_reducible (apply vendor_moves)
    | with_reducible (apply vendorGo_moves)
    | with_reducible (apply Moves.foldl)
    | with_reducible (apply Moves.foldl_fst)
    | with_reducible (apply Moves.of_eq; assumption)
    | with_reducible intro _
    | dsimp only
    | split

theorem mgmtGrant_moves (s : State) (block : List Byte) {k0 : Nat} {z0 : State} (hz : Moves k0 z0 s) (hk0 : 328778 &&& k0 = 328778) :
    Moves k0 z0 (mgmtGrant s block) := by
  refine hz.trans ?_
  clear hz
  unfold mgmtGrant
  repeat' first
    | with_reducible exact Moves.refl _ _
    | with_reducible assumption
    | with_reducible exact mask_le hk0 (by decide)
    | with_reducible apply Moves.ite
    | with_reducible apply Moves.ite_fst
    | with_reducible (apply drawNonce_moves)
    | with_reducible (apply grantBlock_moves)
    | with_reducible (apply grantBlock_pmoves; assumption)
    | with_reducible (apply securityAnswer_moves)
    | with_reducible (apply vendor_moves)
    | with_reducible (apply vendorGo_moves)
    | with_reducible (apply Moves.foldl)
    | with_reducible (apply Moves.foldl_fst)
    | with_reducible (apply Moves.of_eq; assumption)
    | with_reducible intro _
    | dsimp only
    | split

theorem mgmtRevoke_moves (s : State) (claim : Nat) {k0 : Nat} {z0 : State} (hz : Moves k0 z0 s) (hk0 : 329416 &&& k0 = 329416) :
    Moves k0 z0 (mgmtRevoke s claim) := by
  refine hz.trans ?_
  clear hz
  unfold mgmtRevoke
  repeat' first
    | with_reducible exact Moves.refl _ _
    | with_reducible assumption
    | with_reducible exact mask_le hk0 (by decide)
    | with_reducible apply Moves.ite
    | with_reducible apply Moves.ite_fst
    | with_reducible (apply revokeGrant_moves)
    | with_reducible (apply revokeGrant_pmoves; assumption)
    | with_reducible (apply securityAnswer_moves)
    | with_reducible (apply vendor_moves)
    | with_reducible (apply vendorGo_moves)
    | with_reducible (apply Moves.foldl)
    | with_reducible (apply Moves.foldl_fst)
    | with_reducible (apply Moves.of_eq; assumption)
    | with_reducible intro _
    | dsimp only
    | split

theorem mgmtUnlock_moves (s : State) (block : List Byte) (env : BootEnv) {k0 : Nat} {z0 : State} (hz : Moves k0 z0 s) (hk0 : 8388602 &&& k0 = 8388602) :
    Moves k0 z0 (mgmtUnlock s block env) := by
  refine hz.trans ?_
  clear hz
  unfold mgmtUnlock
  repeat' first
    | with_reducible exact Moves.refl _ _
    | with_reducible assumption
    | with_reducible exact mask_le hk0 (by decide)
    | with_reducible apply Moves.ite
    | with_reducible apply Moves.ite_fst
    | with_reducible (apply drawNonce_moves)
    | with_reducible (apply securityAnswer_moves)
    | with_reducible (apply unlockBlock_moves)
    | with_reducible (apply unlockBlock_pmoves; assumption)
    | with_reducible (apply vendor_moves)
    | with_reducible (apply vendorGo_moves)
    | with_reducible (apply Moves.foldl)
    | with_reducible (apply Moves.foldl_fst)
    | with_reducible (apply Moves.of_eq; assumption)
    | with_reducible intro _
    | dsimp only
    | split

theorem flashReadCmd_moves (s : State) (off : Nat) (len : Nat) {k0 : Nat} {z0 : State} (hz : Moves k0 z0 s) (hk0 : 8 &&& k0 = 8) :
    Moves k0 z0 (flashReadCmd s off len) := by
  refine hz.trans ?_
  clear hz
  unfold flashReadCmd
  repeat' first
    | with_reducible exact Moves.refl _ _
    | with_reducible assumption
    | with_reducible exact mask_le hk0 (by decide)
    | with_reducible apply Moves.ite
    | with_reducible apply Moves.ite_fst
    | with_reducible (apply vendor_moves)
    | with_reducible (apply vendorGo_moves)
    | with_reducible (apply Moves.foldl)
    | with_reducible (apply Moves.foldl_fst)
    | with_reducible (apply Moves.of_eq; assumption)
    | with_reducible intro _
    | dsimp only
    | split

theorem markStale_moves (s : State) {k0 : Nat} {z0 : State} (hz : Moves k0 z0 s) (hk0 : 262168 &&& k0 = 262168) :
    Moves k0 z0 (markStale s) := by
  refine hz.trans ?_
  clear hz
  unfold markStale
  repeat' first
    | with_reducible exact Moves.refl _ _
    | with_reducible assumption
    | with_reducible exact mask_le hk0 (by decide)
    | with_reducible apply Moves.ite
    | with_reducible apply Moves.ite_fst
    | with_reducible (apply State.modBoot_moves (h1 := rfl))
    | with_reducible (apply State.modBoot_moves (h1 := by split <;> rfl))
    | with_reducible (apply mgmtSensor_moves)
    | with_reducible (apply Moves.foldl)
    | with_reducible (apply Moves.foldl_fst)
    | with_reducible (apply Moves.of_eq; assumption)
    | with_reducible intro _
    | dsimp only
    | split

theorem flashErase_moves (s : State) (off : Nat) (count : Nat) (ok : Bool) {k0 : Nat} {z0 : State} (hz : Moves k0 z0 s) (hk0 : 262170 &&& k0 = 262170) :
    Moves k0 z0 (flashErase s off count ok) := by
  refine hz.trans ?_
  clear hz
  unfold flashErase
  repeat' first
    | with_reducible exact Moves.refl _ _
    | with_reducible assumption
    | with_reducible exact mask_le hk0 (by decide)
    | with_reducible apply Moves.ite
    | with_reducible apply Moves.ite_fst
    | with_reducible (apply State.modFlash_moves (hf := flashWrite_ok _ _ _))
    | with_reducible (apply State.modFlash_moves (hf := flashOk_drop _ _))
    | with_reducible (apply State.modFlash_moves (hf := id))
    | with_reducible (apply freeBytes_moves)
    | with_reducible (apply freeBytes_pmoves; assumption)
    | with_reducible (apply markStale_moves)
    | with_reducible (apply vendor_moves)
    | with_reducible (apply vendorGo_moves)
    | with_reducible (apply Moves.foldl)
    | with_reducible (apply Moves.foldl_fst)
    | with_reducible (apply Moves.of_eq; assumption)
    | with_reducible intro _
    | dsimp only
    | split

theorem flashWriteCmd_moves (s : State) (off : Nat) (data : List Byte) (ok : Bool) {k0 : Nat} {z0 : State} (hz : Moves k0 z0 s) (hk0 : 262170 &&& k0 = 262170) :
    Moves k0 z0 (flashWriteCmd s off data ok) := by
  refine hz.trans ?_
  clear hz
  unfold flashWriteCmd
  repeat' first
    | with_reducible exact Moves.refl _ _
    | with_reducible assumption
    | with_reducible exact mask_le hk0 (by decide)
    | with_reducible apply Moves.ite
    | with_reducible apply Moves.ite_fst
    | with_reducible (apply State.modFlash_moves (hf := flashWrite_ok _ _ _))
    | with_reducible (apply State.modFlash_moves (hf := flashOk_drop _ _))
    | with_reducible (apply State.modFlash_moves (hf := id))
    | with_reducible (apply freeBytes_moves)
    | with_reducible (apply freeBytes_pmoves; assumption)
    | with_reducible (apply markStale_moves)
    | with_reducible (apply vendor_moves)
    | with_reducible (apply vendorGo_moves)
    | with_reducible (apply Moves.foldl)
    | with_reducible (apply Moves.foldl_fst)
    | with_reducible (apply Moves.of_eq; assumption)
    | with_reducible intro _
    | dsimp only
    | split

theorem bootRetryCmd_moves (s : State) (env : BootEnv) {k0 : Nat} {z0 : State} (hz : Moves k0 z0 s) (hk0 : 8388602 &&& k0 = 8388602) :
    Moves k0 z0 (bootRetryCmd s env) := by
  refine hz.trans ?_
  clear hz
  unfold bootRetryCmd
  repeat' first
    | with_reducible exact Moves.refl _ _
    | with_reducible assumption
    | with_reducible exact mask_le hk0 (by decide)
    | with_reducible apply Moves.ite
    | with_reducible apply Moves.ite_fst
    | with_reducible (apply bootRetry_moves)
    | with_reducible (apply vendor_moves)
    | with_reducible (apply vendorGo_moves)
    | with_reducible (apply Moves.foldl)
    | with_reducible (apply Moves.foldl_fst)
    | with_reducible (apply Moves.of_eq; assumption)
    | with_reducible intro _
    | dsimp only
    | split

theorem pldm_moves (s : State) (cmd : Nat) (code : Nat) (data : List Byte) {k0 : Nat} {z0 : State} (hz : Moves k0 z0 s) (hk0 : 8 &&& k0 = 8) :
    Moves k0 z0 (pldm s cmd code data) := by
  refine hz.trans ?_
  clear hz
  unfold pldm
  repeat' first
    | with_reducible exact Moves.refl _ _
    | with_reducible assumption
    | with_reducible exact mask_le hk0 (by decide)
    | with_reducible apply Moves.ite
    | with_reducible apply Moves.ite_fst
    | with_reducible (apply answer_moves)
    | with_reducible (apply Moves.foldl)
    | with_reducible (apply Moves.foldl_fst)
    | with_reducible (apply Moves.of_eq; assumption)
    | with_reducible intro _
    | dsimp only
    | split

theorem getTid_moves (s : State) {k0 : Nat} {z0 : State} (hz : Moves k0 z0 s) (hk0 : 8 &&& k0 = 8) :
    Moves k0 z0 (getTid s) := by
  refine hz.trans ?_
  clear hz
  unfold getTid
  repeat' first
    | with_reducible exact Moves.refl _ _
    | with_reducible assumption
    | with_reducible exact mask_le hk0 (by decide)
    | with_reducible apply Moves.ite
    | with_reducible apply Moves.ite_fst
    | with_reducible (apply pldm_moves)
    | with_reducible (apply vendorGo_moves)
    | with_reducible (apply Moves.foldl)
    | with_reducible (apply Moves.foldl_fst)
    | with_reducible (apply Moves.of_eq; assumption)
    | with_reducible intro _
    | dsimp only
    | split

theorem setTid_moves (s : State) (v : Nat) {k0 : Nat} {z0 : State} (hz : Moves k0 z0 s) (hk0 : 262152 &&& k0 = 262152) :
    Moves k0 z0 (setTid s v) := by
  refine hz.trans ?_
  clear hz
  unfold setTid
  repeat' first
    | with_reducible exact Moves.refl _ _
    | with_reducible assumption
    | with_reducible exact mask_le hk0 (by decide)
    | with_reducible apply Moves.ite
    | with_reducible apply Moves.ite_fst
    | with_reducible (apply State.modMgmt_moves)
    | with_reducible (apply pldm_moves)
    | with_reducible (apply vendorGo_moves)
    | with_reducible (apply Moves.foldl)
    | with_reducible (apply Moves.foldl_fst)
    | with_reducible (apply Moves.of_eq; assumption)
    | with_reducible intro _
    | dsimp only
    | split

theorem getPldmVersion_moves (s : State) (type : Nat) {k0 : Nat} {z0 : State} (hz : Moves k0 z0 s) (hk0 : 10 &&& k0 = 10) :
    Moves k0 z0 (getPldmVersion s type) := by
  refine hz.trans ?_
  clear hz
  unfold getPldmVersion
  repeat' first
    | with_reducible exact Moves.refl _ _
    | with_reducible assumption
    | with_reducible exact mask_le hk0 (by decide)
    | with_reducible apply Moves.ite
    | with_reducible apply Moves.ite_fst
    | with_reducible (apply freeBytes_moves)
    | with_reducible (apply freeBytes_pmoves; assumption)
    | with_reducible (apply pldm_moves)
    | with_reducible (apply vendorGo_moves)
    | with_reducible (apply Moves.foldl)
    | with_reducible (apply Moves.foldl_fst)
    | with_reducible (apply Moves.of_eq; assumption)
    | with_reducible intro _
    | dsimp only
    | split

theorem getPldmTypes_moves (s : State) {k0 : Nat} {z0 : State} (hz : Moves k0 z0 s) (hk0 : 8 &&& k0 = 8) :
    Moves k0 z0 (getPldmTypes s) := by
  refine hz.trans ?_
  clear hz
  unfold getPldmTypes
  repeat' first
    | with_reducible exact Moves.refl _ _
    | with_reducible assumption
    | with_reducible exact mask_le hk0 (by decide)
    | with_reducible apply Moves.ite
    | with_reducible apply Moves.ite_fst
    | with_reducible (apply pldm_moves)
    | with_reducible (apply vendorGo_moves)
    | with_reducible (apply Moves.foldl)
    | with_reducible (apply Moves.foldl_fst)
    | with_reducible (apply Moves.of_eq; assumption)
    | with_reducible intro _
    | dsimp only
    | split

theorem getPldmCommands_moves (s : State) (type : Nat) {k0 : Nat} {z0 : State} (hz : Moves k0 z0 s) (hk0 : 8 &&& k0 = 8) :
    Moves k0 z0 (getPldmCommands s type) := by
  refine hz.trans ?_
  clear hz
  unfold getPldmCommands
  repeat' first
    | with_reducible exact Moves.refl _ _
    | with_reducible assumption
    | with_reducible exact mask_le hk0 (by decide)
    | with_reducible apply Moves.ite
    | with_reducible apply Moves.ite_fst
    | with_reducible (apply pldm_moves)
    | with_reducible (apply vendorGo_moves)
    | with_reducible (apply Moves.foldl)
    | with_reducible (apply Moves.foldl_fst)
    | with_reducible (apply Moves.of_eq; assumption)
    | with_reducible intro _
    | dsimp only
    | split

theorem getPdrInfo_moves (s : State) {k0 : Nat} {z0 : State} (hz : Moves k0 z0 s) (hk0 : 8 &&& k0 = 8) :
    Moves k0 z0 (getPdrInfo s) := by
  refine hz.trans ?_
  clear hz
  unfold getPdrInfo
  repeat' first
    | with_reducible exact Moves.refl _ _
    | with_reducible assumption
    | with_reducible exact mask_le hk0 (by decide)
    | with_reducible apply Moves.ite
    | with_reducible apply Moves.ite_fst
    | with_reducible (apply pldm_moves)
    | with_reducible (apply vendorGo_moves)
    | with_reducible (apply Moves.foldl)
    | with_reducible (apply Moves.foldl_fst)
    | with_reducible (apply Moves.of_eq; assumption)
    | with_reducible intro _
    | dsimp only
    | split

theorem getPdr_moves (s : State) (handle : Nat) {k0 : Nat} {z0 : State} (hz : Moves k0 z0 s) (hk0 : 8 &&& k0 = 8) :
    Moves k0 z0 (getPdr s handle) := by
  refine hz.trans ?_
  clear hz
  unfold getPdr
  repeat' first
    | with_reducible exact Moves.refl _ _
    | with_reducible assumption
    | with_reducible exact mask_le hk0 (by decide)
    | with_reducible apply Moves.ite
    | with_reducible apply Moves.ite_fst
    | with_reducible (apply pldm_moves)
    | with_reducible (apply vendorGo_moves)
    | with_reducible (apply Moves.foldl)
    | with_reducible (apply Moves.foldl_fst)
    | with_reducible (apply Moves.of_eq; assumption)
    | with_reducible intro _
    | dsimp only
    | split

theorem getSensor_moves (s : State) (id : Nat) {k0 : Nat} {z0 : State} (hz : Moves k0 z0 s) (hk0 : 8 &&& k0 = 8) :
    Moves k0 z0 (getSensor s id) := by
  refine hz.trans ?_
  clear hz
  unfold getSensor
  repeat' first
    | with_reducible exact Moves.refl _ _
    | with_reducible assumption
    | with_reducible exact mask_le hk0 (by decide)
    | with_reducible apply Moves.ite
    | with_reducible apply Moves.ite_fst
    | with_reducible (apply pldm_moves)
    | with_reducible (apply vendorGo_moves)
    | with_reducible (apply Moves.foldl)
    | with_reducible (apply Moves.foldl_fst)
    | with_reducible (apply Moves.of_eq; assumption)
    | with_reducible intro _
    | dsimp only
    | split

theorem getStateSensor_moves (s : State) (id : Nat) {k0 : Nat} {z0 : State} (hz : Moves k0 z0 s) (hk0 : 8 &&& k0 = 8) :
    Moves k0 z0 (getStateSensor s id) := by
  refine hz.trans ?_
  clear hz
  unfold getStateSensor
  repeat' first
    | with_reducible exact Moves.refl _ _
    | with_reducible assumption
    | with_reducible exact mask_le hk0 (by decide)
    | with_reducible apply Moves.ite
    | with_reducible apply Moves.ite_fst
    | with_reducible (apply pldm_moves)
    | with_reducible (apply vendorGo_moves)
    | with_reducible (apply Moves.foldl)
    | with_reducible (apply Moves.foldl_fst)
    | with_reducible (apply Moves.of_eq; assumption)
    | with_reducible intro _
    | dsimp only
    | split

theorem getNumericEffecter_moves (s : State) (id : Nat) {k0 : Nat} {z0 : State} (hz : Moves k0 z0 s) (hk0 : 10 &&& k0 = 10) :
    Moves k0 z0 (getNumericEffecter s id) := by
  refine hz.trans ?_
  clear hz
  unfold getNumericEffecter
  repeat' first
    | with_reducible exact Moves.refl _ _
    | with_reducible assumption
    | with_reducible exact mask_le hk0 (by decide)
    | with_reducible apply Moves.ite
    | with_reducible apply Moves.ite_fst
    | with_reducible (apply freeBytes_moves)
    | with_reducible (apply freeBytes_pmoves; assumption)
    | with_reducible (apply pldm_moves)
    | with_reducible (apply vendorGo_moves)
    | with_reducible (apply Moves.foldl)
    | with_reducible (apply Moves.foldl_fst)
    | with_reducible (apply Moves.of_eq; assumption)
    | with_reducible intro _
    | dsimp only
    | split

theorem getStateEffecter_moves (s : State) (id : Nat) {k0 : Nat} {z0 : State} (hz : Moves k0 z0 s) (hk0 : 8 &&& k0 = 8) :
    Moves k0 z0 (getStateEffecter s id) := by
  refine hz.trans ?_
  clear hz
  unfold getStateEffecter
  repeat' first
    | with_reducible exact Moves.refl _ _
    | with_reducible assumption
    | with_reducible exact mask_le hk0 (by decide)
    | with_reducible apply Moves.ite
    | with_reducible apply Moves.ite_fst
    | with_reducible (apply pldm_moves)
    | with_reducible (apply vendorGo_moves)
    | with_reducible (apply Moves.foldl)
    | with_reducible (apply Moves.foldl_fst)
    | with_reducible (apply Moves.of_eq; assumption)
    | with_reducible intro _
    | dsimp only
    | split

theorem powerEffecter_moves (s : State) (req : Nat) (env : BootEnv) {k0 : Nat} {z0 : State} (hz : Moves k0 z0 s) (hk0 : 8388602 &&& k0 = 8388602) :
    Moves k0 z0 (powerEffecter s req env) := by
  refine hz.trans ?_
  clear hz
  unfold powerEffecter
  repeat' first
    | with_reducible exact Moves.refl _ _
    | with_reducible assumption
    | with_reducible exact mask_le hk0 (by decide)
    | with_reducible apply Moves.ite
    | with_reducible apply Moves.ite_fst
    | with_reducible (apply State.modPower_moves)
    | with_reducible (apply leaveP2_moves)
    | with_reducible (apply pldm_moves)
    | with_reducible (apply powerRefuse_moves)
    | with_reducible (apply powerRequest_moves)
    | with_reducible (apply powerWake_moves)
    | with_reducible (apply vendorGo_moves)
    | with_reducible (apply Moves.foldl)
    | with_reducible (apply Moves.foldl_fst)
    | with_reducible (apply Moves.of_eq; assumption)
    | with_reducible intro _
    | dsimp only
    | split

theorem limitEffecter_moves (s : State) (v : Nat) {k0 : Nat} {z0 : State} (hz : Moves k0 z0 s) (hk0 : 131080 &&& k0 = 131080) :
    Moves k0 z0 (limitEffecter s v) := by
  refine hz.trans ?_
  clear hz
  unfold limitEffecter
  repeat' first
    | with_reducible exact Moves.refl _ _
    | with_reducible assumption
    | with_reducible exact mask_le hk0 (by decide)
    | with_reducible apply Moves.ite
    | with_reducible apply Moves.ite_fst
    | with_reducible (apply State.modPower_moves)
    | with_reducible (apply pldm_moves)
    | with_reducible (apply vendorGo_moves)
    | with_reducible (apply Moves.foldl)
    | with_reducible (apply Moves.foldl_fst)
    | with_reducible (apply Moves.of_eq; assumption)
    | with_reducible intro _
    | dsimp only
    | split

theorem alertAck_moves (s : State) (v : Nat) {k0 : Nat} {z0 : State} (hz : Moves k0 z0 s) (hk0 : 262152 &&& k0 = 262152) :
    Moves k0 z0 (alertAck s v) := by
  refine hz.trans ?_
  clear hz
  unfold alertAck
  repeat' first
    | with_reducible exact Moves.refl _ _
    | with_reducible assumption
    | with_reducible exact mask_le hk0 (by decide)
    | with_reducible apply Moves.ite
    | with_reducible apply Moves.ite_fst
    | with_reducible (apply alertClear_moves)
    | with_reducible (apply pldm_moves)
    | with_reducible (apply vendorGo_moves)
    | with_reducible (apply Moves.foldl)
    | with_reducible (apply Moves.foldl_fst)
    | with_reducible (apply Moves.of_eq; assumption)
    | with_reducible intro _
    | dsimp only
    | split

theorem alertMask_moves (s : State) (v : Nat) {k0 : Nat} {z0 : State} (hz : Moves k0 z0 s) (hk0 : 262152 &&& k0 = 262152) :
    Moves k0 z0 (alertMask s v) := by
  refine hz.trans ?_
  clear hz
  unfold alertMask
  repeat' first
    | with_reducible exact Moves.refl _ _
    | with_reducible assumption
    | with_reducible exact mask_le hk0 (by decide)
    | with_reducible apply Moves.ite
    | with_reducible apply Moves.ite_fst
    | with_reducible (apply State.modMgmt_moves)
    | with_reducible (apply drivePins_moves)
    | with_reducible (apply pldm_moves)
    | with_reducible (apply vendorGo_moves)
    | with_reducible (apply Moves.foldl)
    | with_reducible (apply Moves.foldl_fst)
    | with_reducible (apply Moves.of_eq; assumption)
    | with_reducible intro _
    | dsimp only
    | split

theorem setReceiver_moves (s : State) (mode : Nat) (receiver : Nat) {k0 : Nat} {z0 : State} (hz : Moves k0 z0 s) (hk0 : 262152 &&& k0 = 262152) :
    Moves k0 z0 (setReceiver s mode receiver) := by
  refine hz.trans ?_
  clear hz
  unfold setReceiver
  repeat' first
    | with_reducible exact Moves.refl _ _
    | with_reducible assumption
    | with_reducible exact mask_le hk0 (by decide)
    | with_reducible apply Moves.ite
    | with_reducible apply Moves.ite_fst
    | with_reducible (apply State.modMgmt_moves)
    | with_reducible (apply pldm_moves)
    | with_reducible (apply vendorGo_moves)
    | with_reducible (apply Moves.foldl)
    | with_reducible (apply Moves.foldl_fst)
    | with_reducible (apply Moves.of_eq; assumption)
    | with_reducible intro _
    | dsimp only
    | split

theorem pollEvent_moves (s : State) {k0 : Nat} {z0 : State} (hz : Moves k0 z0 s) (hk0 : 262152 &&& k0 = 262152) :
    Moves k0 z0 (pollEvent s) := by
  refine hz.trans ?_
  clear hz
  unfold pollEvent
  repeat' first
    | with_reducible exact Moves.refl _ _
    | with_reducible assumption
    | with_reducible exact mask_le hk0 (by decide)
    | with_reducible apply Moves.ite
    | with_reducible apply Moves.ite_fst
    | with_reducible (apply State.modMgmt_moves)
    | with_reducible (apply pldm_moves)
    | with_reducible (apply vendorGo_moves)
    | with_reducible (apply Moves.foldl)
    | with_reducible (apply Moves.foldl_fst)
    | with_reducible (apply Moves.of_eq; assumption)
    | with_reducible intro _
    | dsimp only
    | split

theorem sendEvent_moves (s : State) {k0 : Nat} {z0 : State} (hz : Moves k0 z0 s) (hk0 : 262152 &&& k0 = 262152) :
    Moves k0 z0 (sendEvent s) := by
  refine hz.trans ?_
  clear hz
  unfold sendEvent
  repeat' first
    | with_reducible exact Moves.refl _ _
    | with_reducible assumption
    | with_reducible exact mask_le hk0 (by decide)
    | with_reducible apply Moves.ite
    | with_reducible apply Moves.ite_fst
    | with_reducible (apply State.emit_moves)
    | with_reducible (apply State.modMgmt_moves)
    | with_reducible (apply Moves.foldl)
    | with_reducible (apply Moves.foldl_fst)
    | with_reducible (apply Moves.of_eq; assumption)
    | with_reducible intro _
    | dsimp only
    | split

theorem resendEvent_moves (s : State) {k0 : Nat} {z0 : State} (hz : Moves k0 z0 s) (hk0 : 262152 &&& k0 = 262152) :
    Moves k0 z0 (resendEvent s) := by
  refine hz.trans ?_
  clear hz
  unfold resendEvent
  repeat' first
    | with_reducible exact Moves.refl _ _
    | with_reducible assumption
    | with_reducible exact mask_le hk0 (by decide)
    | with_reducible apply Moves.ite
    | with_reducible apply Moves.ite_fst
    | with_reducible (apply State.emit_moves)
    | with_reducible (apply State.modMgmt_moves)
    | with_reducible (apply Moves.foldl)
    | with_reducible (apply Moves.foldl_fst)
    | with_reducible (apply Moves.of_eq; assumption)
    | with_reducible intro _
    | dsimp only
    | split

theorem ackEvent_moves (s : State) {k0 : Nat} {z0 : State} (hz : Moves k0 z0 s) (hk0 : 262144 &&& k0 = 262144) :
    Moves k0 z0 (ackEvent s) := by
  refine hz.trans ?_
  clear hz
  unfold ackEvent
  repeat' first
    | with_reducible exact Moves.refl _ _
    | with_reducible assumption
    | with_reducible exact mask_le hk0 (by decide)
    | with_reducible apply Moves.ite
    | with_reducible apply Moves.ite_fst
    | with_reducible (apply State.modMgmt_moves)
    | with_reducible (apply Moves.foldl)
    | with_reducible (apply Moves.foldl_fst)
    | with_reducible (apply Moves.of_eq; assumption)
    | with_reducible intro _
    | dsimp only
    | split

theorem spdm_moves (s : State) (code : Nat) (data : List Byte) {k0 : Nat} {z0 : State} (hz : Moves k0 z0 s) (hk0 : 8 &&& k0 = 8) :
    Moves k0 z0 (spdm s code data) := by
  refine hz.trans ?_
  clear hz
  unfold spdm
  repeat' first
    | with_reducible exact Moves.refl _ _
    | with_reducible assumption
    | with_reducible exact mask_le hk0 (by decide)
    | with_reducible apply Moves.ite
    | with_reducible apply Moves.ite_fst
    | with_reducible (apply answer_moves)
    | with_reducible (apply Moves.foldl)
    | with_reducible (apply Moves.foldl_fst)
    | with_reducible (apply Moves.of_eq; assumption)
    | with_reducible intro _
    | dsimp only
    | split

theorem spdmError_moves (s : State) (code : Nat) {k0 : Nat} {z0 : State} (hz : Moves k0 z0 s) (hk0 : 8 &&& k0 = 8) :
    Moves k0 z0 (spdmError s code) := by
  refine hz.trans ?_
  clear hz
  unfold spdmError
  repeat' first
    | with_reducible exact Moves.refl _ _
    | with_reducible assumption
    | with_reducible exact mask_le hk0 (by decide)
    | with_reducible apply Moves.ite
    | with_reducible apply Moves.ite_fst
    | with_reducible (apply answer_moves)
    | with_reducible (apply Moves.foldl)
    | with_reducible (apply Moves.foldl_fst)
    | with_reducible (apply Moves.of_eq; assumption)
    | with_reducible intro _
    | dsimp only
    | split

theorem spdmVersion_moves (s : State) {k0 : Nat} {z0 : State} (hz : Moves k0 z0 s) (hk0 : 262152 &&& k0 = 262152) :
    Moves k0 z0 (spdmVersion s) := by
  refine hz.trans ?_
  clear hz
  unfold spdmVersion
  repeat' first
    | with_reducible exact Moves.refl _ _
    | with_reducible assumption
    | with_reducible exact mask_le hk0 (by decide)
    | with_reducible apply Moves.ite
    | with_reducible apply Moves.ite_fst
    | with_reducible (apply State.modMgmt_moves)
    | with_reducible (apply spdm_moves)
    | with_reducible (apply vendorGo_moves)
    | with_reducible (apply Moves.foldl)
    | with_reducible (apply Moves.foldl_fst)
    | with_reducible (apply Moves.of_eq; assumption)
    | with_reducible intro _
    | dsimp only
    | split

theorem spdmCapabilities_moves (s : State) {k0 : Nat} {z0 : State} (hz : Moves k0 z0 s) (hk0 : 262152 &&& k0 = 262152) :
    Moves k0 z0 (spdmCapabilities s) := by
  refine hz.trans ?_
  clear hz
  unfold spdmCapabilities
  repeat' first
    | with_reducible exact Moves.refl _ _
    | with_reducible assumption
    | with_reducible exact mask_le hk0 (by decide)
    | with_reducible apply Moves.ite
    | with_reducible apply Moves.ite_fst
    | with_reducible (apply State.modMgmt_moves)
    | with_reducible (apply spdm_moves)
    | with_reducible (apply spdmError_moves)
    | with_reducible (apply vendorGo_moves)
    | with_reducible (apply Moves.foldl)
    | with_reducible (apply Moves.foldl_fst)
    | with_reducible (apply Moves.of_eq; assumption)
    | with_reducible intro _
    | dsimp only
    | split

theorem spdmAlgorithms_moves (s : State) {k0 : Nat} {z0 : State} (hz : Moves k0 z0 s) (hk0 : 262152 &&& k0 = 262152) :
    Moves k0 z0 (spdmAlgorithms s) := by
  refine hz.trans ?_
  clear hz
  unfold spdmAlgorithms
  repeat' first
    | with_reducible exact Moves.refl _ _
    | with_reducible assumption
    | with_reducible exact mask_le hk0 (by decide)
    | with_reducible apply Moves.ite
    | with_reducible apply Moves.ite_fst
    | with_reducible (apply State.modMgmt_moves)
    | with_reducible (apply spdm_moves)
    | with_reducible (apply spdmError_moves)
    | with_reducible (apply vendorGo_moves)
    | with_reducible (apply Moves.foldl)
    | with_reducible (apply Moves.foldl_fst)
    | with_reducible (apply Moves.of_eq; assumption)
    | with_reducible intro _
    | dsimp only
    | split

theorem spdmReady_moves (s : State) (measure : Bool) (needId : Bool) (k : State → State) {k0 : Nat} {z0 : State} (hz : Moves k0 z0 s) (hk0 : 8 &&& k0 = 8) (hk_k : ∀ (v0 : State), Moves k0 v0 (k v0)) :
    Moves k0 z0 (spdmReady s measure needId k) := by
  refine hz.trans ?_
  clear hz
  unfold spdmReady
  repeat' first
    | with_reducible exact Moves.refl _ _
    | with_reducible assumption
    | with_reducible exact mask_le hk0 (by decide)
    | with_reducible apply Moves.ite
    | with_reducible apply Moves.ite_fst
    | with_reducible (refine Moves.trans ?_ (hk_k ..))
    | with_reducible (apply spdmError_moves)
    | with_reducible (apply vendorGo_moves)
    | with_reducible (apply Moves.foldl)
    | with_reducible (apply Moves.foldl_fst)
    | with_reducible (apply Moves.of_eq; assumption)
    | with_reducible intro _
    | dsimp only
    | split

theorem spdmDigests_moves (s : State) {k0 : Nat} {z0 : State} (hz : Moves k0 z0 s) (hk0 : 8 &&& k0 = 8) :
    Moves k0 z0 (spdmDigests s) := by
  refine hz.trans ?_
  clear hz
  unfold spdmDigests
  repeat' first
    | with_reducible exact Moves.refl _ _
    | with_reducible assumption
    | with_reducible exact mask_le hk0 (by decide)
    | with_reducible apply Moves.ite
    | with_reducible apply Moves.ite_fst
    | with_reducible (apply spdm_moves)
    | with_reducible (apply spdmReady_moves)
    | with_reducible (apply Moves.foldl)
    | with_reducible (apply Moves.foldl_fst)
    | with_reducible (apply Moves.of_eq; assumption)
    | with_reducible intro _
    | dsimp only
    | split

theorem spdmCertificate_moves (s : State) (slot : Nat) (off : Nat) (len : Nat) {k0 : Nat} {z0 : State} (hz : Moves k0 z0 s) (hk0 : 8 &&& k0 = 8) :
    Moves k0 z0 (spdmCertificate s slot off len) := by
  refine hz.trans ?_
  clear hz
  unfold spdmCertificate
  repeat' first
    | with_reducible exact Moves.refl _ _
    | with_reducible assumption
    | with_reducible exact mask_le hk0 (by decide)
    | with_reducible apply Moves.ite
    | with_reducible apply Moves.ite_fst
    | with_reducible (apply spdm_moves)
    | with_reducible (apply spdmError_moves)
    | with_reducible (apply spdmReady_moves)
    | with_reducible (apply Moves.foldl)
    | with_reducible (apply Moves.foldl_fst)
    | with_reducible (apply Moves.of_eq; assumption)
    | with_reducible intro _
    | dsimp only
    | split

theorem spdmChallenge_moves (s : State) (nonce : List Byte) {k0 : Nat} {z0 : State} (hz : Moves k0 z0 s) (hk0 : 10 &&& k0 = 10) :
    Moves k0 z0 (spdmChallenge s nonce) := by
  refine hz.trans ?_
  clear hz
  unfold spdmChallenge
  repeat' first
    | with_reducible exact Moves.refl _ _
    | with_reducible assumption
    | with_reducible exact mask_le hk0 (by decide)
    | with_reducible apply Moves.ite
    | with_reducible apply Moves.ite_fst
    | with_reducible (apply freeBytes_moves)
    | with_reducible (apply freeBytes_pmoves; assumption)
    | with_reducible (apply spdm_moves)
    | with_reducible (apply spdmReady_moves)
    | with_reducible (apply Moves.foldl)
    | with_reducible (apply Moves.foldl_fst)
    | with_reducible (apply Moves.of_eq; assumption)
    | with_reducible intro _
    | dsimp only
    | split

theorem spdmMeasurements_moves (s : State) (index : Nat) (signed : Bool) (nonce : List Byte) {k0 : Nat} {z0 : State} (hz : Moves k0 z0 s) (hk0 : 8 &&& k0 = 8) :
    Moves k0 z0 (spdmMeasurements s index signed nonce) := by
  refine hz.trans ?_
  clear hz
  unfold spdmMeasurements
  repeat' first
    | with_reducible exact Moves.refl _ _
    | with_reducible assumption
    | with_reducible exact mask_le hk0 (by decide)
    | with_reducible apply Moves.ite
    | with_reducible apply Moves.ite_fst
    | with_reducible (apply spdm_moves)
    | with_reducible (apply spdmError_moves)
    | with_reducible (apply spdmReady_moves)
    | with_reducible (apply Moves.foldl)
    | with_reducible (apply Moves.foldl_fst)
    | with_reducible (apply Moves.of_eq; assumption)
    | with_reducible intro _
    | dsimp only
    | split

theorem vendorMessage_moves (s : State) (b : List Byte) (ok : Bool) (env : BootEnv) {k0 : Nat} {z0 : State} (hz : Moves k0 z0 s) (hk0 : 8388602 &&& k0 = 8388602) :
    Moves k0 z0 (vendorMessage s b ok env) := by
  refine hz.trans ?_
  clear hz
  unfold vendorMessage
  repeat' first
    | with_reducible exact Moves.refl _ _
    | with_reducible assumption
    | with_reducible exact mask_le hk0 (by decide)
    | with_reducible apply Moves.ite
    | with_reducible apply Moves.ite_fst
    | with_reducible (apply bootRetryCmd_moves)
    | with_reducible (apply flashErase_moves)
    | with_reducible (apply flashReadCmd_moves)
    | with_reducible (apply flashWriteCmd_moves)
    | with_reducible (apply getNonce_moves)
    | with_reducible (apply mgmtGrant_moves)
    | with_reducible (apply mgmtKeySlot_moves)
    | with_reducible (apply mgmtRevoke_moves)
    | with_reducible (apply mgmtUnlock_moves)
    | with_reducible (apply vendor_moves)
    | with_reducible (apply Moves.foldl)
    | with_reducible (apply Moves.foldl_fst)
    | with_reducible (apply Moves.of_eq; assumption)
    | with_reducible intro _
    | dsimp only
    | split

theorem pldmMessage_moves (s : State) (b : List Byte) (env : BootEnv) {k0 : Nat} {z0 : State} (hz : Moves k0 z0 s) (hk0 : 8388602 &&& k0 = 8388602) :
    Moves k0 z0 (pldmMessage s b env) := by
  refine hz.trans ?_
  clear hz
  unfold pldmMessage
  repeat' first
    | with_reducible exact Moves.refl _ _
    | with_reducible assumption
    | with_reducible exact mask_le hk0 (by decide)
    | with_reducible apply Moves.ite
    | with_reducible apply Moves.ite_fst
    | with_reducible (apply ackEvent_moves)
    | with_reducible (apply alertAck_moves)
    | with_reducible (apply alertMask_moves)
    | with_reducible (apply getNumericEffecter_moves)
    | with_reducible (apply getPdr_moves)
    | with_reducible (apply getPdrInfo_moves)
    | with_reducible (apply getPldmCommands_moves)
    | with_reducible (apply getPldmTypes_moves)
    | with_reducible (apply getPldmVersion_moves)
    | with_reducible (apply getSensor_moves)
    | with_reducible (apply getStateEffecter_moves)
    | with_reducible (apply getStateSensor_moves)
    | with_reducible (apply getTid_moves)
    | with_reducible (apply limitEffecter_moves)
    | with_reducible (apply pldm_moves)
    | with_reducible (apply pollEvent_moves)
    | with_reducible (apply powerEffecter_moves)
    | with_reducible (apply setReceiver_moves)
    | with_reducible (apply setTid_moves)
    | with_reducible (apply vendorGo_moves)
    | with_reducible (apply Moves.foldl)
    | with_reducible (apply Moves.foldl_fst)
    | with_reducible (apply Moves.of_eq; assumption)
    | with_reducible intro _
    | dsimp only
    | split

theorem spdmMessage_moves (s : State) (b : List Byte) {k0 : Nat} {z0 : State} (hz : Moves k0 z0 s) (hk0 : 262154 &&& k0 = 262154) :
    Moves k0 z0 (spdmMessage s b) := by
  refine hz.trans ?_
  clear hz
  unfold spdmMessage
  repeat' first
    | with_reducible exact Moves.refl _ _
    | with_reducible assumption
    | with_reducible exact mask_le hk0 (by decide)
    | with_reducible apply Moves.ite
    | with_reducible apply Moves.ite_fst
    | with_reducible (apply spdmAlgorithms_moves)
    | with_reducible (apply spdmCapabilities_moves)
    | with_reducible (apply spdmCertificate_moves)
    | with_reducible (apply spdmChallenge_moves)
    | with_reducible (apply spdmDigests_moves)
    | with_reducible (apply spdmError_moves)
    | with_reducible (apply spdmMeasurements_moves)
    | with_reducible (apply spdmVersion_moves)
    | with_reducible (apply vendorGo_moves)
    | with_reducible (apply Moves.foldl)
    | with_reducible (apply Moves.foldl_fst)
    | with_reducible (apply Moves.of_eq; assumption)
    | with_reducible intro _
    | dsimp only
    | split

theorem mgmtMessage_moves (s : State) (b : List Byte) (ok : Bool) (env : BootEnv) {k0 : Nat} {z0 : State} (hz : Moves k0 z0 s) (hk0 : 8388602 &&& k0 = 8388602) :
    Moves k0 z0 (mgmtMessage s b ok env) := by
  refine hz.trans ?_
  clear hz
  unfold mgmtMessage
  repeat' first
    | with_reducible exact Moves.refl _ _
    | with_reducible assumption
    | with_reducible exact mask_le hk0 (by decide)
    | with_reducible apply Moves.ite
    | with_reducible apply Moves.ite_fst
    | with_reducible (apply answer_moves)
    | with_reducible (apply pldmMessage_moves)
    | with_reducible (apply setEid_moves)
    | with_reducible (apply spdmMessage_moves)
    | with_reducible (apply vendorMessage_moves)
    | with_reducible (apply Moves.foldl)
    | with_reducible (apply Moves.foldl_fst)
    | with_reducible (apply Moves.of_eq; assumption)
    | with_reducible intro _
    | dsimp only
    | split

theorem mctpPacket_moves (s : State) (b : List Byte) (pecOk : Bool) (flashOk : Bool) (env : BootEnv) {k0 : Nat} {z0 : State} (hz : Moves k0 z0 s) (hk0 : 8388602 &&& k0 = 8388602) :
    Moves k0 z0 (mctpPacket s b pecOk flashOk env) := by
  refine hz.trans ?_
  clear hz
  unfold mctpPacket
  repeat' first
    | with_reducible exact Moves.refl _ _
    | with_reducible assumption
    | with_reducible exact mask_le hk0 (by decide)
    | with_reducible apply Moves.ite
    | with_reducible apply Moves.ite_fst
    | with_reducible (apply State.modMgmt_moves)
    | with_reducible (apply mgmtMessage_moves)
    | with_reducible (apply Moves.foldl)
    | with_reducible (apply Moves.foldl_fst)
    | with_reducible (apply Moves.of_eq; assumption)
    | with_reducible intro _
    | dsimp only
    | split

end Sys2Proof.Machine
end

