-- ==== Sys2Proof/Laws/MovesWindowOps.lean ====
section
/-! SUPPORT. What each operation of Machine/WindowOps.lean may change. -/

set_option linter.unreachableTactic false
set_option linter.unusedTactic false
set_option linter.unusedVariables false

namespace Sys2Proof.Machine

theorem tallyOp_moves (s : State) (c : Nat) (n : Nat) (op : Nat) (v : Nat) {k0 : Nat} {z0 : State} (hz : Moves k0 z0 s) (hk0 : 50824 &&& k0 = 50824) :
    Moves k0 z0 (tallyOp s c n op v) := by
  refine hz.trans ?_
  clear hz
  unfold tallyOp
  repeat' first
    | with_reducible exact Moves.refl _ _
    | with_reducible assumption
    | with_reducible exact mask_le hk0 (by decide)
    | with_reducible apply Moves.ite
    | with_reducible apply Moves.ite_fst
    | with_reducible (apply agentAdd_moves)
    | with_reducible (apply agentSet_moves)
    | with_reducible (apply poisonTally_moves)
    | with_reducible (apply windowOp_moves)
    | with_reducible (apply windowRefused_moves)
    | with_reducible (apply Moves.foldl)
    | with_reducible (apply Moves.foldl_fst)
    | with_reducible (apply Moves.of_eq; assumption)
    | with_reducible intro _
    | dsimp only
    | split

theorem deviceOp_moves (s : State) (n : Nat) (op : Nat) (v : Nat) {k0 : Nat} {z0 : State} (hz : Moves k0 z0 s) (hk0 : 50824 &&& k0 = 50824) :
    Moves k0 z0 (deviceOp s n op v) := by
  refine hz.trans ?_
  clear hz
  unfold deviceOp
  repeat' first
    | with_reducible exact Moves.refl _ _
    | with_reducible assumption
    | with_reducible exact mask_le hk0 (by decide)
    | with_reducible apply Moves.ite
    | with_reducible apply Moves.ite_fst
    | with_reducible (apply agentAdd_moves)
    | with_reducible (apply agentSet_moves)
    | with_reducible (apply armTally_moves)
    | with_reducible (apply poisonTally_moves)
    | with_reducible (apply Moves.foldl)
    | with_reducible (apply Moves.foldl_fst)
    | with_reducible (apply Moves.of_eq; assumption)
    | with_reducible intro _
    | dsimp only
    | split

theorem testSlot_moves (s : State) (c : Nat) (w : Nat) {k0 : Nat} {z0 : State} (hz : Moves k0 z0 s) (hk0 : 1544 &&& k0 = 1544) :
    Moves k0 z0 (testSlot s c w) := by
  refine hz.trans ?_
  clear hz
  unfold testSlot
  repeat' first
    | with_reducible exact Moves.refl _ _
    | with_reducible assumption
    | with_reducible exact mask_le hk0 (by decide)
    | with_reducible apply Moves.ite
    | with_reducible apply Moves.ite_fst
    | with_reducible (apply endHostWait_moves)
    | with_reducible (apply Moves.foldl)
    | with_reducible (apply Moves.foldl_fst)
    | with_reducible (apply Moves.of_eq; assumption)
    | with_reducible intro _
    | dsimp only
    | split

theorem waitWrite_moves (s : State) (c : Nat) (w : Nat) (v : Nat) {k0 : Nat} {z0 : State} (hz : Moves k0 z0 s) (hk0 : 1544 &&& k0 = 1544) :
    Moves k0 z0 (waitWrite s c w v) := by
  refine hz.trans ?_
  clear hz
  unfold waitWrite
  repeat' first
    | with_reducible exact Moves.refl _ _
    | with_reducible assumption
    | with_reducible exact mask_le hk0 (by decide)
    | with_reducible apply Moves.ite
    | with_reducible apply Moves.ite_fst
    | with_reducible (apply State.modWait_moves)
    | with_reducible (apply testSlot_moves)
    | with_reducible (apply windowRefused_moves)
    | with_reducible (apply Moves.foldl)
    | with_reducible (apply Moves.foldl_fst)
    | with_reducible (apply Moves.of_eq; assumption)
    | with_reducible intro _
    | dsimp only
    | split

theorem ringBell_moves (s : State) (shoe : Nat) (v : Nat) {k0 : Nat} {z0 : State} (hz : Moves k0 z0 s) (hk0 : 409736 &&& k0 = 409736) :
    Moves k0 z0 (ringBell s shoe v) := by
  refine hz.trans ?_
  clear hz
  unfold ringBell
  repeat' first
    | with_reducible exact Moves.refl _ _
    | with_reducible assumption
    | with_reducible exact mask_le hk0 (by decide)
    | with_reducible apply Moves.ite
    | with_reducible apply Moves.ite_fst
    | with_reducible (apply leaveP2_moves)
    | with_reducible (apply writeProduce_moves)
    | with_reducible (apply Moves.foldl)
    | with_reducible (apply Moves.foldl_fst)
    | with_reducible (apply Moves.of_eq; assumption)
    | with_reducible intro _
    | dsimp only
    | split

theorem shoeEnable_moves (s : State) (shoe : Nat) (v : Nat) (feeds : List (Nat × HostResp × HostResp)) {k0 : Nat} {z0 : State} (hz : Moves k0 z0 s) (hk0 : 1894344 &&& k0 = 1894344) :
    Moves k0 z0 (shoeEnable s shoe v feeds) := by
  refine hz.trans ?_
  clear hz
  unfold shoeEnable
  repeat' first
    | with_reducible exact Moves.refl _ _
    | with_reducible assumption
    | with_reducible exact mask_le hk0 (by decide)
    | with_reducible apply Moves.ite
    | with_reducible apply Moves.ite_fst
    | with_reducible (apply State.modNet_moves)
    | with_reducible (apply enableShoe_moves)
    | with_reducible (apply qpsRun_moves)
    | with_reducible (apply Moves.foldl)
    | with_reducible (apply Moves.foldl_fst)
    | with_reducible (apply Moves.of_eq; assumption)
    | with_reducible intro _
    | dsimp only
    | split

theorem portHold_moves (s : State) (p : Nat) (hold : Bool) {k0 : Nat} {z0 : State} (hz : Moves k0 z0 s) (hk0 : 313288 &&& k0 = 313288) :
    Moves k0 z0 (portHold s p hold) := by
  refine hz.trans ?_
  clear hz
  unfold portHold
  repeat' first
    | with_reducible exact Moves.refl _ _
    | with_reducible assumption
    | with_reducible exact mask_le hk0 (by decide)
    | with_reducible apply Moves.ite
    | with_reducible apply Moves.ite_fst
    | with_reducible (apply State.emit_moves)
    | with_reducible (apply State.modPort_moves)
    | with_reducible (apply failXfers_moves)
    | with_reducible (apply leaveGroup_moves)
    | with_reducible (apply leaveGroup_pmoves; assumption)
    | with_reducible (apply Moves.foldl)
    | with_reducible (apply Moves.foldl_fst)
    | with_reducible (apply Moves.of_eq; assumption)
    | with_reducible intro _
    | dsimp only
    | split

theorem portClear_moves (s : State) (p : Nat) {k0 : Nat} {z0 : State} (hz : Moves k0 z0 s) (hk0 : 16384 &&& k0 = 16384) :
    Moves k0 z0 (portClear s p) := by
  refine hz.trans ?_
  clear hz
  unfold portClear
  repeat' first
    | with_reducible exact Moves.refl _ _
    | with_reducible assumption
    | with_reducible exact mask_le hk0 (by decide)
    | with_reducible apply Moves.ite
    | with_reducible apply Moves.ite_fst
    | with_reducible (apply State.modPort_moves)
    | with_reducible (apply Moves.foldl)
    | with_reducible (apply Moves.foldl_fst)
    | with_reducible (apply Moves.of_eq; assumption)
    | with_reducible intro _
    | dsimp only
    | split

theorem beatClear_moves (s : State) (v : Nat) {k0 : Nat} {z0 : State} (hz : Moves k0 z0 s) (hk0 : 32 &&& k0 = 32) :
    Moves k0 z0 (beatClear s v) := by
  refine hz.trans ?_
  clear hz
  unfold beatClear
  repeat' first
    | with_reducible exact Moves.refl _ _
    | with_reducible assumption
    | with_reducible exact mask_le hk0 (by decide)
    | with_reducible apply Moves.ite
    | with_reducible apply Moves.ite_fst
    | with_reducible (apply State.modBeat_moves)
    | with_reducible (apply Moves.foldl)
    | with_reducible (apply Moves.foldl_fst)
    | with_reducible (apply Moves.of_eq; assumption)
    | with_reducible intro _
    | dsimp only
    | split

theorem patchWrite_moves (s : State) (v : Nat) {k0 : Nat} {z0 : State} (hz : Moves k0 z0 s) (hk0 : 8448 &&& k0 = 8448) :
    Moves k0 z0 (patchWrite s v) := by
  refine hz.trans ?_
  clear hz
  unfold patchWrite
  repeat' first
    | with_reducible exact Moves.refl _ _
    | with_reducible assumption
    | with_reducible exact mask_le hk0 (by decide)
    | with_reducible apply Moves.ite
    | with_reducible apply Moves.ite_fst
    | with_reducible (apply State.modEcc_moves)
    | with_reducible (apply patchInstall_moves)
    | with_reducible (apply patchRemove_moves)
    | with_reducible (apply Moves.foldl)
    | with_reducible (apply Moves.foldl_fst)
    | with_reducible (apply Moves.of_eq; assumption)
    | with_reducible intro _
    | dsimp only
    | split

theorem testOp_moves (s : State) (op : Nat) {k0 : Nat} {z0 : State} (hz : Moves k0 z0 s) (hk0 : 271816 &&& k0 = 271816) :
    Moves k0 z0 (testOp s op) := by
  refine hz.trans ?_
  clear hz
  unfold testOp
  repeat' first
    | with_reducible exact Moves.refl _ _
    | with_reducible assumption
    | with_reducible exact mask_le hk0 (by decide)
    | with_reducible apply Moves.ite
    | with_reducible apply Moves.ite_fst
    | with_reducible (apply testArm_moves)
    | with_reducible (apply testRead_moves)
    | with_reducible (apply testWriteNormal_moves)
    | with_reducible (apply testWriteSplit_moves)
    | with_reducible (apply Moves.foldl)
    | with_reducible (apply Moves.foldl_fst)
    | with_reducible (apply Moves.of_eq; assumption)
    | with_reducible intro _
    | dsimp only
    | split

theorem countClear_moves (s : State) (d : Nat) (g : Nat) {k0 : Nat} {z0 : State} (hz : Moves k0 z0 s) (hk0 : 8192 &&& k0 = 8192) :
    Moves k0 z0 (countClear s d g) := by
  refine hz.trans ?_
  clear hz
  unfold countClear
  repeat' first
    | with_reducible exact Moves.refl _ _
    | with_reducible assumption
    | with_reducible exact mask_le hk0 (by decide)
    | with_reducible apply Moves.ite
    | with_reducible apply Moves.ite_fst
    | with_reducible (apply State.modDie_moves)
    | with_reducible (apply Moves.foldl)
    | with_reducible (apply Moves.foldl_fst)
    | with_reducible (apply Moves.of_eq; assumption)
    | with_reducible intro _
    | dsimp only
    | split

theorem logRelease_moves (s : State) (d : Nat) (i : Nat) {k0 : Nat} {z0 : State} (hz : Moves k0 z0 s) (hk0 : 8192 &&& k0 = 8192) :
    Moves k0 z0 (logRelease s d i) := by
  refine hz.trans ?_
  clear hz
  unfold logRelease
  repeat' first
    | with_reducible exact Moves.refl _ _
    | with_reducible assumption
    | with_reducible exact mask_le hk0 (by decide)
    | with_reducible apply Moves.ite
    | with_reducible apply Moves.ite_fst
    | with_reducible (apply State.modDie_moves)
    | with_reducible (apply Moves.foldl)
    | with_reducible (apply Moves.foldl_fst)
    | with_reducible (apply Moves.of_eq; assumption)
    | with_reducible intro _
    | dsimp only
    | split

theorem indexWrite_moves (s : State) (i : Nat) (v : Nat) {k0 : Nat} {z0 : State} (hz : Moves k0 z0 s) (hk0 : 2368968 &&& k0 = 2368968) :
    Moves k0 z0 (indexWrite s i v) := by
  refine hz.trans ?_
  clear hz
  unfold indexWrite
  repeat' first
    | with_reducible exact Moves.refl _ _
    | with_reducible assumption
    | with_reducible exact mask_le hk0 (by decide)
    | with_reducible apply Moves.ite
    | with_reducible apply Moves.ite_fst
    | with_reducible (apply bindIndex_moves)
    | with_reducible (apply unbindIndex_moves)
    | with_reducible (apply Moves.foldl)
    | with_reducible (apply Moves.foldl_fst)
    | with_reducible (apply Moves.of_eq; assumption)
    | with_reducible intro _
    | dsimp only
    | split

theorem breakWrite_moves (s : State) (n : Nat) (v : Nat) {k0 : Nat} {z0 : State} (hz : Moves k0 z0 s) (hk0 : 65536 &&& k0 = 65536) :
    Moves k0 z0 (breakWrite s n v) := by
  refine hz.trans ?_
  clear hz
  unfold breakWrite
  repeat' first
    | with_reducible exact Moves.refl _ _
    | with_reducible assumption
    | with_reducible exact mask_le hk0 (by decide)
    | with_reducible apply Moves.ite
    | with_reducible apply Moves.ite_fst
    | with_reducible (apply State.modWin_moves)
    | with_reducible (apply Moves.foldl)
    | with_reducible (apply Moves.foldl_fst)
    | with_reducible (apply Moves.of_eq; assumption)
    | with_reducible intro _
    | dsimp only
    | split

theorem debugWrite_moves (s : State) (n : Nat) (v : Nat) {k0 : Nat} {z0 : State} (hz : Moves k0 z0 s) (hk0 : 66176 &&& k0 = 66176) :
    Moves k0 z0 (debugWrite s n v) := by
  refine hz.trans ?_
  clear hz
  unfold debugWrite
  repeat' first
    | with_reducible exact Moves.refl _ _
    | with_reducible assumption
    | with_reducible exact mask_le hk0 (by decide)
    | with_reducible apply Moves.ite
    | with_reducible apply Moves.ite_fst
    | with_reducible (apply dbgHalt_moves)
    | with_reducible (apply dbgResume_moves)
    | with_reducible (apply dbgStep_moves)
    | with_reducible (apply Moves.foldl)
    | with_reducible (apply Moves.foldl_fst)
    | with_reducible (apply Moves.of_eq; assumption)
    | with_reducible intro _
    | dsimp only
    | split

end Sys2Proof.Machine
end

