-- ==== Sys2Proof/Laws/MovesRegs.lean ====
section
/-! SUPPORT. What each operation of Machine/Regs.lean may change. -/

set_option linter.unreachableTactic false
set_option linter.unusedTactic false
set_option linter.unusedVariables false

namespace Sys2Proof.Machine

/-- A register's whole write does only what `Moves` allows. -/
def RowOk (r : RegRow) : Prop := ∀ (i v : Nat) (t : State), Moves 8388602 t (r.wr i v t)

/-- Every register of a list of rows is so. -/
def RowsOk (l : List RegRow) : Prop := ∀ r : RegRow, r ∈ l → RowOk r

theorem RowsOk.nil : RowsOk [] := fun _ h => nomatch h

theorem RowsOk.cons {r : RegRow} {l : List RegRow} (h : RowOk r) (k : RowsOk l) : RowsOk (r :: l) := List.forall_mem_cons.2 ⟨h, k⟩

theorem RowsOk.append {l m : List RegRow} (h : RowsOk l) (k : RowsOk m) : RowsOk (l ++ m) := List.forall_mem_append.2 ⟨h, k⟩

theorem RowsOk.flatMap {α : Type} {l : List α} {f : α → List RegRow} (h : ∀ a, RowsOk (f a)) : RowsOk (l.flatMap f) := by
  intro r hr
  obtain ⟨a, -, ha⟩ := List.mem_flatMap.1 hr
  exact h a r ha

theorem RowsOk.map {α : Type} {l : List α} {f : α → RegRow} (h : ∀ a, RowOk (f a)) : RowsOk (l.map f) := by
  intro r hr
  obtain ⟨a, -, rfl⟩ := List.mem_map.1 hr
  exact h a

theorem RowsOk.atBase {b : Nat} {l : List RegRow} (h : RowsOk l) : RowsOk (atBase b l) := by
  intro r hr
  obtain ⟨a, ha, rfl⟩ := List.mem_map.1 hr
  exact fun i v t => h a ha i v t

theorem RowsOk.ite {l m : List RegRow} {c : Prop} [Decidable c] (h : RowsOk l) (k : RowsOk m) : RowsOk (if c then l else m) := by
  split
  · exact h
  · exact k

theorem ro32_ok (b v : Nat) : RowOk (ro32 b v) := fun _ _ _ => Moves.refl _ _

theorem ro64_ok (b v : Nat) : RowOk (ro64 b v) := fun _ _ _ => Moves.refl _ _

theorem viewRows_ok (l : List RegRow) : RowsOk (viewRows l) := RowsOk.map fun _ _ _ _ => Moves.refl _ _

theorem featCopy_ok : RowsOk featCopy := by
  unfold featCopy
  repeat' first
    | with_reducible exact RowsOk.nil
    | with_reducible apply ro32_ok
    | with_reducible apply ro64_ok
    | with_reducible apply viewRows_ok
    | with_reducible apply RowsOk.cons
    | with_reducible apply RowsOk.append
    | with_reducible apply RowsOk.flatMap
    | with_reducible apply RowsOk.atBase
    | with_reducible apply RowsOk.map
    | with_reducible apply RowsOk.ite
    | with_reducible exact Moves.refl _ _
    | with_reducible exact mask_le rfl (by decide)
    | (with_reducible apply Moves.ite)
    | (with_reducible intro _)
    | decide
    | (unfold RowOk; dsimp only; intro _ _ _)
    | dsimp only
    | split

theorem featRows_ok : RowsOk featRows := by
  unfold featRows
  repeat' first
    | with_reducible exact RowsOk.nil
    | with_reducible apply ro32_ok
    | with_reducible apply ro64_ok
    | with_reducible apply viewRows_ok
    | with_reducible apply RowsOk.cons
    | with_reducible apply RowsOk.append
    | with_reducible apply RowsOk.flatMap
    | with_reducible apply RowsOk.atBase
    | with_reducible apply RowsOk.map
    | with_reducible apply RowsOk.ite
    | with_reducible apply featCopy_ok
    | with_reducible exact Moves.refl _ _
    | with_reducible exact mask_le rfl (by decide)
    | (with_reducible apply Moves.ite)
    | (with_reducible intro _)
    | decide
    | (unfold RowOk; dsimp only; intro _ _ _)
    | dsimp only
    | split

theorem whileDisabled_moves (s : State) (n : Nat) (f : Shoe → Shoe) {k0 : Nat} {z0 : State} (hz : Moves k0 z0 s) (hk0 : 128 &&& k0 = 128) :
    Moves k0 z0 (whileDisabled s n f) := by
  refine hz.trans ?_
  clear hz
  unfold whileDisabled
  repeat' first
    | with_reducible exact Moves.refl _ _
    | with_reducible assumption
    | with_reducible exact mask_le hk0 (by decide)
    | with_reducible apply Moves.ite
    | with_reducible apply Moves.ite_fst
    | with_reducible (apply State.modShoe_moves)
    | with_reducible (apply Moves.foldl)
    | with_reducible (apply Moves.foldl_fst)
    | with_reducible (apply Moves.of_eq; assumption)
    | with_reducible intro _
    | dsimp only
    | split

theorem shoeRows_ok (s : State) (n : Nat) : RowsOk (shoeRows s n) := by
  unfold shoeRows
  repeat' first
    | with_reducible exact RowsOk.nil
    | with_reducible apply ro32_ok
    | with_reducible apply ro64_ok
    | with_reducible apply viewRows_ok
    | with_reducible apply RowsOk.cons
    | with_reducible apply RowsOk.append
    | with_reducible apply RowsOk.flatMap
    | with_reducible apply RowsOk.atBase
    | with_reducible apply RowsOk.map
    | with_reducible apply RowsOk.ite
    | with_reducible exact Moves.refl _ _
    | with_reducible exact mask_le rfl (by decide)
    | (with_reducible apply Moves.ite)
    | (with_reducible apply State.modShoe_moves)
    | (with_reducible apply disableShoe_moves)
    | (with_reducible apply ringBell_moves)
    | (with_reducible apply shoeEnable_moves)
    | (with_reducible apply whileDisabled_moves)
    | (with_reducible apply writeConsumed_moves)
    | (with_reducible apply writeFetch_moves)
    | (with_reducible apply writeSheetCtrl_moves)
    | (with_reducible intro _)
    | decide
    | (unfold RowOk; dsimp only; intro _ _ _)
    | dsimp only
    | split

theorem dlrRows_ok (s : State) : RowsOk (dlrRows s) := by
  unfold dlrRows
  repeat' first
    | with_reducible exact RowsOk.nil
    | with_reducible apply ro32_ok
    | with_reducible apply ro64_ok
    | with_reducible apply viewRows_ok
    | with_reducible apply RowsOk.cons
    | with_reducible apply RowsOk.append
    | with_reducible apply RowsOk.flatMap
    | with_reducible apply RowsOk.atBase
    | with_reducible apply RowsOk.map
    | with_reducible apply RowsOk.ite
    | with_reducible apply shoeRows_ok
    | with_reducible exact Moves.refl _ _
    | with_reducible exact mask_le rfl (by decide)
    | (with_reducible apply Moves.ite)
    | (with_reducible apply State.modDl_moves)
    | (with_reducible intro _)
    | decide
    | (unfold RowOk; dsimp only; intro _ _ _)
    | dsimp only
    | split

theorem claimCopy_ok (s : State) (n : Nat) : RowsOk (claimCopy s n) := by
  unfold claimCopy
  repeat' first
    | with_reducible exact RowsOk.nil
    | with_reducible apply ro32_ok
    | with_reducible apply ro64_ok
    | with_reducible apply viewRows_ok
    | with_reducible apply RowsOk.cons
    | with_reducible apply RowsOk.append
    | with_reducible apply RowsOk.flatMap
    | with_reducible apply RowsOk.atBase
    | with_reducible apply RowsOk.map
    | with_reducible apply RowsOk.ite
    | with_reducible exact Moves.refl _ _
    | with_reducible exact mask_le rfl (by decide)
    | (with_reducible apply Moves.ite)
    | (with_reducible intro _)
    | decide
    | (unfold RowOk; dsimp only; intro _ _ _)
    | dsimp only
    | split

theorem clmRows_ok (s : State) : RowsOk (clmRows s) := by
  unfold clmRows
  repeat' first
    | with_reducible exact RowsOk.nil
    | with_reducible apply ro32_ok
    | with_reducible apply ro64_ok
    | with_reducible apply viewRows_ok
    | with_reducible apply RowsOk.cons
    | with_reducible apply RowsOk.append
    | with_reducible apply RowsOk.flatMap
    | with_reducible apply RowsOk.atBase
    | with_reducible apply RowsOk.map
    | with_reducible apply RowsOk.ite
    | with_reducible apply claimCopy_ok
    | with_reducible exact Moves.refl _ _
    | with_reducible exact mask_le rfl (by decide)
    | (with_reducible apply Moves.ite)
    | (with_reducible apply rtWrite_moves)
    | (with_reducible intro _)
    | decide
    | (unfold RowOk; dsimp only; intro _ _ _)
    | dsimp only
    | split

theorem tierRows_ok (s : State) : RowsOk (tierRows s) := by
  unfold tierRows
  repeat' first
    | with_reducible exact RowsOk.nil
    | with_reducible apply ro32_ok
    | with_reducible apply ro64_ok
    | with_reducible apply viewRows_ok
    | with_reducible apply RowsOk.cons
    | with_reducible apply RowsOk.append
    | with_reducible apply RowsOk.flatMap
    | with_reducible apply RowsOk.atBase
    | with_reducible apply RowsOk.map
    | with_reducible apply RowsOk.ite
    | with_reducible exact Moves.refl _ _
    | with_reducible exact mask_le rfl (by decide)
    | (with_reducible apply Moves.ite)
    | (with_reducible apply State.modTiers_moves (h1 := rfl) (h2 := rfl))
    | (with_reducible apply State.modTiers_moves (h1 := by split <;> rfl) (h2 := by split <;> rfl))
    | (with_reducible apply tierLookup_moves)
    | (with_reducible apply writeShare_moves)
    | (with_reducible intro _)
    | decide
    | (unfold RowOk; dsimp only; intro _ _ _)
    | dsimp only
    | split

theorem tlyRows_ok (s : State) : RowsOk (tlyRows s) := by
  unfold tlyRows
  repeat' first
    | with_reducible exact RowsOk.nil
    | with_reducible apply ro32_ok
    | with_reducible apply ro64_ok
    | with_reducible apply viewRows_ok
    | with_reducible apply RowsOk.cons
    | with_reducible apply RowsOk.append
    | with_reducible apply RowsOk.flatMap
    | with_reducible apply RowsOk.atBase
    | with_reducible apply RowsOk.map
    | with_reducible apply RowsOk.ite
    | with_reducible exact Moves.refl _ _
    | with_reducible exact mask_le rfl (by decide)
    | (with_reducible apply Moves.ite)
    | (with_reducible apply State.modSync_moves)
    | (with_reducible apply deviceOp_moves)
    | (with_reducible intro _)
    | decide
    | (unfold RowOk; dsimp only; intro _ _ _)
    | dsimp only
    | split

theorem szlRows_ok (s : State) : RowsOk (szlRows s) := by
  unfold szlRows
  repeat' first
    | with_reducible exact RowsOk.nil
    | with_reducible apply ro32_ok
    | with_reducible apply ro64_ok
    | with_reducible apply viewRows_ok
    | with_reducible apply RowsOk.cons
    | with_reducible apply RowsOk.append
    | with_reducible apply RowsOk.flatMap
    | with_reducible apply RowsOk.atBase
    | with_reducible apply RowsOk.map
    | with_reducible apply RowsOk.ite
    | with_reducible exact Moves.refl _ _
    | with_reducible exact mask_le rfl (by decide)
    | (with_reducible apply Moves.ite)
    | (with_reducible apply State.modLink_moves)
    | (with_reducible apply State.modPort_moves)
    | (with_reducible apply portClear_moves)
    | (with_reducible apply portHold_moves)
    | (with_reducible intro _)
    | decide
    | (unfold RowOk; dsimp only; intro _ _ _)
    | dsimp only
    | split

theorem entRows_ok (s : State) : RowsOk (entRows s) := by
  unfold entRows
  repeat' first
    | with_reducible exact RowsOk.nil
    | with_reducible apply ro32_ok
    | with_reducible apply ro64_ok
    | with_reducible apply viewRows_ok
    | with_reducible apply RowsOk.cons
    | with_reducible apply RowsOk.append
    | with_reducible apply RowsOk.flatMap
    | with_reducible apply RowsOk.atBase
    | with_reducible apply RowsOk.map
    | with_reducible apply RowsOk.ite
    | with_reducible exact Moves.refl _ _
    | with_reducible exact mask_le rfl (by decide)
    | (with_reducible apply Moves.ite)
    | (with_reducible apply State.modNet_moves)
    | (with_reducible apply gidCommit_moves)
    | (with_reducible apply gidLow_moves)
    | (with_reducible apply qosWrite_moves)
    | (with_reducible apply rawRxWrite_moves)
    | (with_reducible apply rawTxWrite_moves)
    | (with_reducible intro _)
    | decide
    | (unfold RowOk; dsimp only; intro _ _ _)
    | dsimp only
    | split

theorem asyRows_ok (s : State) : RowsOk (asyRows s) := by
  unfold asyRows
  repeat' first
    | with_reducible exact RowsOk.nil
    | with_reducible apply ro32_ok
    | with_reducible apply ro64_ok
    | with_reducible apply viewRows_ok
    | with_reducible apply RowsOk.cons
    | with_reducible apply RowsOk.append
    | with_reducible apply RowsOk.flatMap
    | with_reducible apply RowsOk.atBase
    | with_reducible apply RowsOk.map
    | with_reducible apply RowsOk.ite
    | with_reducible exact Moves.refl _ _
    | with_reducible exact mask_le rfl (by decide)
    | (with_reducible apply Moves.ite)
    | (with_reducible apply State.modAsy_moves)
    | (with_reducible apply advanceNamed_moves)
    | (with_reducible apply indexWrite_moves)
    | (with_reducible intro _)
    | decide
    | (unfold RowOk; dsimp only; intro _ _ _)
    | dsimp only
    | split

theorem tblRows_ok (s : State) : RowsOk (tblRows s) := by
  unfold tblRows
  repeat' first
    | with_reducible exact RowsOk.nil
    | with_reducible apply ro32_ok
    | with_reducible apply ro64_ok
    | with_reducible apply viewRows_ok
    | with_reducible apply RowsOk.cons
    | with_reducible apply RowsOk.append
    | with_reducible apply RowsOk.flatMap
    | with_reducible apply RowsOk.atBase
    | with_reducible apply RowsOk.map
    | with_reducible apply RowsOk.ite
    | with_reducible exact Moves.refl _ _
    | with_reducible exact mask_le rfl (by decide)
    | (with_reducible apply Moves.ite)
    | (with_reducible intro _)
    | decide
    | (unfold RowOk; dsimp only; intro _ _ _)
    | dsimp only
    | split

theorem dieRows_ok (s : State) (d : Nat) : RowsOk (dieRows s d) := by
  unfold dieRows
  repeat' first
    | with_reducible exact RowsOk.nil
    | with_reducible apply ro32_ok
    | with_reducible apply ro64_ok
    | with_reducible apply viewRows_ok
    | with_reducible apply RowsOk.cons
    | with_reducible apply RowsOk.append
    | with_reducible apply RowsOk.flatMap
    | with_reducible apply RowsOk.atBase
    | with_reducible apply RowsOk.map
    | with_reducible apply RowsOk.ite
    | with_reducible exact Moves.refl _ _
    | with_reducible exact mask_le rfl (by decide)
    | (with_reducible apply Moves.ite)
    | (with_reducible apply countClear_moves)
    | (with_reducible apply logRelease_moves)
    | (with_reducible intro _)
    | decide
    | (unfold RowOk; dsimp only; intro _ _ _)
    | dsimp only
    | split

theorem eccRows_ok (s : State) : RowsOk (eccRows s) := by
  unfold eccRows
  repeat' first
    | with_reducible exact RowsOk.nil
    | with_reducible apply ro32_ok
    | with_reducible apply ro64_ok
    | with_reducible apply viewRows_ok
    | with_reducible apply RowsOk.cons
    | with_reducible apply RowsOk.append
    | with_reducible apply RowsOk.flatMap
    | with_reducible apply RowsOk.atBase
    | with_reducible apply RowsOk.map
    | with_reducible apply RowsOk.ite
    | with_reducible apply dieRows_ok
    | with_reducible exact Moves.refl _ _
    | with_reducible exact mask_le rfl (by decide)
    | (with_reducible apply Moves.ite)
    | (with_reducible apply State.modEcc_moves)
    | (with_reducible apply patchWrite_moves)
    | (with_reducible apply testOp_moves)
    | (with_reducible intro _)
    | decide
    | (unfold RowOk; dsimp only; intro _ _ _)
    | dsimp only
    | split

theorem beatRows_ok (s : State) : RowsOk (beatRows s) := by
  unfold beatRows
  repeat' first
    | with_reducible exact RowsOk.nil
    | with_reducible apply ro32_ok
    | with_reducible apply ro64_ok
    | with_reducible apply viewRows_ok
    | with_reducible apply RowsOk.cons
    | with_reducible apply RowsOk.append
    | with_reducible apply RowsOk.flatMap
    | with_reducible apply RowsOk.atBase
    | with_reducible apply RowsOk.map
    | with_reducible apply RowsOk.ite
    | with_reducible exact Moves.refl _ _
    | with_reducible exact mask_le rfl (by decide)
    | (with_reducible apply Moves.ite)
    | (with_reducible apply beatClear_moves)
    | (with_reducible apply commitWrite_moves)
    | (with_reducible apply shadowWrite_moves)
    | (with_reducible apply tokenWrite_moves)
    | (with_reducible intro _)
    | decide
    | (unfold RowOk; dsimp only; intro _ _ _)
    | dsimp only
    | split

theorem pwrRows_ok (s : State) : RowsOk (pwrRows s) := by
  unfold pwrRows
  repeat' first
    | with_reducible exact RowsOk.nil
    | with_reducible apply ro32_ok
    | with_reducible apply ro64_ok
    | with_reducible apply viewRows_ok
    | with_reducible apply RowsOk.cons
    | with_reducible apply RowsOk.append
    | with_reducible apply RowsOk.flatMap
    | with_reducible apply RowsOk.atBase
    | with_reducible apply RowsOk.map
    | with_reducible apply RowsOk.ite
    | with_reducible exact Moves.refl _ _
    | with_reducible exact mask_le rfl (by decide)
    | (with_reducible apply Moves.ite)
    | (with_reducible apply State.modPower_moves)
    | (with_reducible apply powerGo_moves)
    | (with_reducible apply powerWrite_moves)
    | (with_reducible intro _)
    | decide
    | (unfold RowOk; dsimp only; intro _ _ _)
    | dsimp only
    | split

theorem secRows_ok (s : State) : RowsOk (secRows s) := by
  unfold secRows
  repeat' first
    | with_reducible exact RowsOk.nil
    | with_reducible apply ro32_ok
    | with_reducible apply ro64_ok
    | with_reducible apply viewRows_ok
    | with_reducible apply RowsOk.cons
    | with_reducible apply RowsOk.append
    | with_reducible apply RowsOk.flatMap
    | with_reducible apply RowsOk.atBase
    | with_reducible apply RowsOk.map
    | with_reducible apply RowsOk.ite
    | with_reducible exact Moves.refl _ _
    | with_reducible exact mask_le rfl (by decide)
    | (with_reducible apply Moves.ite)
    | (with_reducible apply State.modDbg_moves)
    | (with_reducible apply revokeGrant_moves)
    | (with_reducible apply revokeGrant_pmoves; assumption)
    | (with_reducible apply secPlain_moves)
    | (with_reducible intro _)
    | decide
    | (unfold RowOk; dsimp only; intro _ _ _)
    | dsimp only
    | split

theorem ringRows_ok (s : State) (n : Nat) : RowsOk (ringRows s n) := by
  unfold ringRows
  repeat' first
    | with_reducible exact RowsOk.nil
    | with_reducible apply ro32_ok
    | with_reducible apply ro64_ok
    | with_reducible apply viewRows_ok
    | with_reducible apply RowsOk.cons
    | with_reducible apply RowsOk.append
    | with_reducible apply RowsOk.flatMap
    | with_reducible apply RowsOk.atBase
    | with_reducible apply RowsOk.map
    | with_reducible apply RowsOk.ite
    | with_reducible exact Moves.refl _ _
    | with_reducible exact mask_le rfl (by decide)
    | (with_reducible apply Moves.ite)
    | (with_reducible apply State.modRing_moves)
    | (with_reducible apply writeRingConsumed_moves)
    | (with_reducible apply writeRingSize_moves)
    | (with_reducible apply writeRingStatus_moves)
    | (with_reducible intro _)
    | decide
    | (unfold RowOk; dsimp only; intro _ _ _)
    | dsimp only
    | split

theorem evtRows_ok (s : State) : RowsOk (evtRows s) := by
  unfold evtRows
  repeat' first
    | with_reducible exact RowsOk.nil
    | with_reducible apply ro32_ok
    | with_reducible apply ro64_ok
    | with_reducible apply viewRows_ok
    | with_reducible apply RowsOk.cons
    | with_reducible apply RowsOk.append
    | with_reducible apply RowsOk.flatMap
    | with_reducible apply RowsOk.atBase
    | with_reducible apply RowsOk.map
    | with_reducible apply RowsOk.ite
    | with_reducible apply ringRows_ok
    | with_reducible exact Moves.refl _ _
    | with_reducible exact mask_le rfl (by decide)
    | (with_reducible apply Moves.ite)
    | (with_reducible apply State.modCl_moves)
    | (with_reducible intro _)
    | decide
    | (unfold RowOk; dsimp only; intro _ _ _)
    | dsimp only
    | split

theorem redealWrite_moves (s : State) (v : Nat) {k0 : Nat} {z0 : State} (hz : Moves k0 z0 s) (hk0 : 3665914 &&& k0 = 3665914) :
    Moves k0 z0 (redealWrite s v) := by
  refine hz.trans ?_
  clear hz
  unfold redealWrite
  repeat' first
    | with_reducible exact Moves.refl _ _
    | with_reducible assumption
    | with_reducible exact mask_le hk0 (by decide)
    | with_reducible apply Moves.ite
    | with_reducible apply Moves.ite_fst
    | with_reducible (apply redealResume_moves)
    | with_reducible (apply startRedeal_moves)
    | with_reducible (apply Moves.foldl)
    | with_reducible (apply Moves.foldl_fst)
    | with_reducible (apply Moves.of_eq; assumption)
    | with_reducible intro _
    | dsimp only
    | split

theorem ldgRows_ok (s : State) : RowsOk (ldgRows s) := by
  unfold ldgRows
  repeat' first
    | with_reducible exact RowsOk.nil
    | with_reducible apply ro32_ok
    | with_reducible apply ro64_ok
    | with_reducible apply viewRows_ok
    | with_reducible apply RowsOk.cons
    | with_reducible apply RowsOk.append
    | with_reducible apply RowsOk.flatMap
    | with_reducible apply RowsOk.atBase
    | with_reducible apply RowsOk.map
    | with_reducible apply RowsOk.ite
    | with_reducible exact Moves.refl _ _
    | with_reducible exact mask_le rfl (by decide)
    | (with_reducible apply Moves.ite)
    | (with_reducible apply State.modDl_moves)
    | (with_reducible apply ledgerLookup_moves)
    | (with_reducible apply redealWrite_moves)
    | (with_reducible intro _)
    | decide
    | (unfold RowOk; dsimp only; intro _ _ _)
    | dsimp only
    | split

theorem rndRows_ok (s : State) : RowsOk (rndRows s) := by
  unfold rndRows
  repeat' first
    | with_reducible exact RowsOk.nil
    | with_reducible apply ro32_ok
    | with_reducible apply ro64_ok
    | with_reducible apply viewRows_ok
    | with_reducible apply RowsOk.cons
    | with_reducible apply RowsOk.append
    | with_reducible apply RowsOk.flatMap
    | with_reducible apply RowsOk.atBase
    | with_reducible apply RowsOk.map
    | with_reducible apply RowsOk.ite
    | with_reducible exact Moves.refl _ _
    | with_reducible exact mask_le rfl (by decide)
    | (with_reducible apply Moves.ite)
    | (with_reducible intro _)
    | decide
    | (unfold RowOk; dsimp only; intro _ _ _)
    | dsimp only
    | split

theorem hstRows_ok (s : State) : RowsOk (hstRows s) := by
  unfold hstRows
  repeat' first
    | with_reducible exact RowsOk.nil
    | with_reducible apply ro32_ok
    | with_reducible apply ro64_ok
    | with_reducible apply viewRows_ok
    | with_reducible apply RowsOk.cons
    | with_reducible apply RowsOk.append
    | with_reducible apply RowsOk.flatMap
    | with_reducible apply RowsOk.atBase
    | with_reducible apply RowsOk.map
    | with_reducible apply RowsOk.ite
    | with_reducible exact Moves.refl _ _
    | with_reducible exact mask_le rfl (by decide)
    | (with_reducible apply Moves.ite)
    | (with_reducible apply winWrite_moves)
    | (with_reducible intro _)
    | decide
    | (unfold RowOk; dsimp only; intro _ _ _)
    | dsimp only
    | split

theorem pfRows_ok (s : State) (off : Nat) : RowsOk (pfRows s off) := by
  unfold pfRows
  repeat' first
    | with_reducible exact RowsOk.nil
    | with_reducible apply ro32_ok
    | with_reducible apply ro64_ok
    | with_reducible apply viewRows_ok
    | with_reducible apply RowsOk.cons
    | with_reducible apply RowsOk.append
    | with_reducible apply RowsOk.flatMap
    | with_reducible apply RowsOk.atBase
    | with_reducible apply RowsOk.map
    | with_reducible apply RowsOk.ite
    | with_reducible apply featRows_ok
    | with_reducible apply dlrRows_ok
    | with_reducible apply clmRows_ok
    | with_reducible apply tierRows_ok
    | with_reducible apply tlyRows_ok
    | with_reducible apply szlRows_ok
    | with_reducible apply entRows_ok
    | with_reducible apply asyRows_ok
    | with_reducible apply tblRows_ok
    | with_reducible apply eccRows_ok
    | with_reducible apply beatRows_ok
    | with_reducible apply pwrRows_ok
    | with_reducible apply secRows_ok
    | with_reducible apply evtRows_ok
    | with_reducible apply ldgRows_ok
    | with_reducible apply rndRows_ok
    | with_reducible apply hstRows_ok
    | with_reducible exact Moves.refl _ _
    | with_reducible exact mask_le rfl (by decide)
    | (with_reducible apply Moves.ite)
    | (with_reducible intro _)
    | decide
    | (unfold RowOk; dsimp only; intro _ _ _)
    | dsimp only
    | split

theorem dbgRows_ok (s : State) (n : Nat) : RowsOk (dbgRows s n) := by
  unfold dbgRows
  repeat' first
    | with_reducible exact RowsOk.nil
    | with_reducible apply ro32_ok
    | with_reducible apply ro64_ok
    | with_reducible apply viewRows_ok
    | with_reducible apply RowsOk.cons
    | with_reducible apply RowsOk.append
    | with_reducible apply RowsOk.flatMap
    | with_reducible apply RowsOk.atBase
    | with_reducible apply RowsOk.map
    | with_reducible apply RowsOk.ite
    | with_reducible exact Moves.refl _ _
    | with_reducible exact mask_le rfl (by decide)
    | (with_reducible apply Moves.ite)
    | (with_reducible apply State.modWin_moves)
    | (with_reducible apply breakWrite_moves)
    | (with_reducible apply dbgObserve_moves)
    | (with_reducible apply debugWrite_moves)
    | (with_reducible intro _)
    | decide
    | (unfold RowOk; dsimp only; intro _ _ _)
    | dsimp only
    | split

theorem qpRows_ok (s : State) (n : Nat) : RowsOk (qpRows s n) := by
  unfold qpRows
  repeat' first
    | with_reducible exact RowsOk.nil
    | with_reducible apply ro32_ok
    | with_reducible apply ro64_ok
    | with_reducible apply viewRows_ok
    | with_reducible apply RowsOk.cons
    | with_reducible apply RowsOk.append
    | with_reducible apply RowsOk.flatMap
    | with_reducible apply RowsOk.atBase
    | with_reducible apply RowsOk.map
    | with_reducible apply RowsOk.ite
    | with_reducible exact Moves.refl _ _
    | with_reducible exact mask_le rfl (by decide)
    | (with_reducible apply Moves.ite)
    | (with_reducible apply State.modClaimNet_moves)
    | (with_reducible apply cqConsumed_moves)
    | (with_reducible apply qpDestroy_moves)
    | (with_reducible apply qpGo_moves)
    | (with_reducible apply qpQuery_moves)
    | (with_reducible apply regionAccess_moves)
    | (with_reducible apply regionRange_moves)
    | (with_reducible apply rqDoorbell_moves)
    | (with_reducible apply sqDoorbell_moves)
    | (with_reducible intro _)
    | decide
    | (unfold RowOk; dsimp only; intro _ _ _)
    | dsimp only
    | split

theorem windowRows_ok (s : State) (n : Nat) : RowsOk (windowRows s n) := by
  unfold windowRows
  repeat' first
    | with_reducible exact RowsOk.nil
    | with_reducible apply ro32_ok
    | with_reducible apply ro64_ok
    | with_reducible apply viewRows_ok
    | with_reducible apply RowsOk.cons
    | with_reducible apply RowsOk.append
    | with_reducible apply RowsOk.flatMap
    | with_reducible apply RowsOk.atBase
    | with_reducible apply RowsOk.map
    | with_reducible apply RowsOk.ite
    | with_reducible exact Moves.refl _ _
    | with_reducible exact mask_le rfl (by decide)
    | (with_reducible apply Moves.ite)
    | (with_reducible apply State.modSync_moves)
    | (with_reducible apply tallyOp_moves)
    | (with_reducible apply waitWrite_moves)
    | (with_reducible intro _)
    | decide
    | (unfold RowOk; dsimp only; intro _ _ _)
    | dsimp only
    | split

theorem vfRows_ok (s : State) (n : Nat) (off : Nat) : RowsOk (vfRows s n off) := by
  unfold vfRows
  repeat' first
    | with_reducible exact RowsOk.nil
    | with_reducible apply ro32_ok
    | with_reducible apply ro64_ok
    | with_reducible apply viewRows_ok
    | with_reducible apply RowsOk.cons
    | with_reducible apply RowsOk.append
    | with_reducible apply RowsOk.flatMap
    | with_reducible apply RowsOk.atBase
    | with_reducible apply RowsOk.map
    | with_reducible apply RowsOk.ite
    | with_reducible apply featCopy_ok
    | with_reducible apply shoeRows_ok
    | with_reducible apply claimCopy_ok
    | with_reducible apply ringRows_ok
    | with_reducible apply dbgRows_ok
    | with_reducible apply qpRows_ok
    | with_reducible apply windowRows_ok
    | with_reducible exact Moves.refl _ _
    | with_reducible exact mask_le rfl (by decide)
    | (with_reducible apply Moves.ite)
    | (with_reducible apply State.modCl_moves)
    | (with_reducible intro _)
    | decide
    | (unfold RowOk; dsimp only; intro _ _ _)
    | dsimp only
    | split

theorem regRows_ok (s : State) (fn off : Nat) : RowsOk (regRows s fn off) :=
  RowsOk.ite RowsOk.nil (RowsOk.ite (pfRows_ok s off) (vfRows_ok s (fn - 1) off))

theorem regAt_ok {s : State} {fn off : Nat} {r : RegRow × Nat} (h : regAt s fn off = some r) : RowOk r.1 := by
  unfold regAt findRow at h
  obtain ⟨a, ha, rfl⟩ := Option.map_eq_some_iff.1 h
  exact regRows_ok s fn off a (List.mem_of_find?_eq_some ha)

/-- The write of the register at an offset. -/
theorem regAt_moves {s : State} {fn off : Nat} {r : RegRow × Nat} (h : regAt s fn off = some r) (v : Nat) (t : State) :
    Moves 8388602 t (r.1.wr r.2 v t) := regAt_ok h r.2 v t

end Sys2Proof.Machine
end

