-- ==== Sys2Proof/Laws/MovesRegOps.lean ====
section
/-! SUPPORT. What each operation of Machine/RegOps.lean may change. -/

set_option linter.unreachableTactic false
set_option linter.unusedTactic false
set_option linter.unusedVariables false

namespace Sys2Proof.Machine

theorem readEffects_moves (s : State) (fn : Nat) (off : Nat) {k0 : Nat} {z0 : State} (hz : Moves k0 z0 s) (hk0 : 132096 &&& k0 = 132096) :
    Moves k0 z0 (readEffects s fn off) := by
  refine hz.trans ?_
  clear hz
  unfold readEffects
  repeat' first
    | with_reducible exact Moves.refl _ _
    | with_reducible assumption
    | with_reducible exact mask_le hk0 (by decide)
    | with_reducible apply Moves.ite
    | with_reducible apply Moves.ite_fst
    | with_reducible (apply State.modFn_moves)
    | with_reducible (apply State.modPower_moves)
    | with_reducible (apply Moves.foldl)
    | with_reducible (apply Moves.foldl_fst)
    | with_reducible (apply Moves.of_eq; assumption)
    | with_reducible intro _
    | dsimp only
    | split

theorem read32_moves (s : State) (fn : Nat) (off : Nat) {k0 : Nat} {z0 : State} (hz : Moves k0 z0 s) (hk0 : 132096 &&& k0 = 132096) :
    Moves k0 z0 (read32 s fn off).1 := by
  refine hz.trans ?_
  clear hz
  unfold read32
  repeat' first
    | with_reducible exact Moves.refl _ _
    | with_reducible assumption
    | with_reducible exact mask_le hk0 (by decide)
    | with_reducible apply Moves.ite
    | with_reducible apply Moves.ite_fst
    | with_reducible (apply State.modFn_moves)
    | with_reducible (apply readEffects_moves)
    | with_reducible (apply Moves.foldl)
    | with_reducible (apply Moves.foldl_fst)
    | with_reducible (apply Moves.of_eq; assumption)
    | with_reducible intro _
    | dsimp only
    | split

theorem read32_pmoves (s : State) (fn : Nat) (off : Nat) {z1 : State} {y1 : Nat} (he : (read32 s fn off) = (z1, y1)) {k0 : Nat} {z0 : State} (hz : Moves k0 z0 s) (hk0 : 132096 &&& k0 = 132096) :
    Moves k0 z0 z1 := by
  simpa only [he] using read32_moves s fn off hz hk0

theorem read64_moves (s : State) (fn : Nat) (off : Nat) {k0 : Nat} {z0 : State} (hz : Moves k0 z0 s) (hk0 : 132096 &&& k0 = 132096) :
    Moves k0 z0 (read64 s fn off).1 := by
  refine hz.trans ?_
  clear hz
  unfold read64
  repeat' first
    | with_reducible exact Moves.refl _ _
    | with_reducible assumption
    | with_reducible exact mask_le hk0 (by decide)
    | with_reducible apply Moves.ite
    | with_reducible apply Moves.ite_fst
    | with_reducible (apply readEffects_moves)
    | with_reducible (apply Moves.foldl)
    | with_reducible (apply Moves.foldl_fst)
    | with_reducible (apply Moves.of_eq; assumption)
    | with_reducible intro _
    | dsimp only
    | split

theorem read64_pmoves (s : State) (fn : Nat) (off : Nat) {z1 : State} {y1 : Nat} (he : (read64 s fn off) = (z1, y1)) {k0 : Nat} {z0 : State} (hz : Moves k0 z0 s) (hk0 : 132096 &&& k0 = 132096) :
    Moves k0 z0 z1 := by
  simpa only [he] using read64_moves s fn off hz hk0

theorem readWidth_moves (s : State) (fn : Nat) (off : Nat) (width : Nat) {k0 : Nat} {z0 : State} (hz : Moves k0 z0 s) (hk0 : 132096 &&& k0 = 132096) :
    Moves k0 z0 (readWidth s fn off width).1 := by
  refine hz.trans ?_
  clear hz
  unfold readWidth
  repeat' first
    | with_reducible exact Moves.refl _ _
    | with_reducible assumption
    | with_reducible exact mask_le hk0 (by decide)
    | with_reducible apply Moves.ite
    | with_reducible apply Moves.ite_fst
    | with_reducible (apply read32_moves)
    | with_reducible (apply read32_pmoves; assumption)
    | with_reducible (apply read64_moves)
    | with_reducible (apply read64_pmoves; assumption)
    | with_reducible (apply Moves.foldl)
    | with_reducible (apply Moves.foldl_fst)
    | with_reducible (apply Moves.of_eq; assumption)
    | with_reducible intro _
    | dsimp only
    | split

theorem readWidth_pmoves (s : State) (fn : Nat) (off : Nat) (width : Nat) {z1 : State} {y1 : Nat} (he : (readWidth s fn off width) = (z1, y1)) {k0 : Nat} {z0 : State} (hz : Moves k0 z0 s) (hk0 : 132096 &&& k0 = 132096) :
    Moves k0 z0 z1 := by
  simpa only [he] using readWidth_moves s fn off width hz hk0

theorem completeRead_moves (s : State) (fn off : Nat) (r : State × Nat) {k0 : Nat} {z0 : State} (hz : Moves k0 z0 s) (hr : Moves k0 z0 r.1)
    (hk0 : 8 &&& k0 = 8) : Moves k0 z0 (completeRead s fn off r) := by
  unfold completeRead
  exact Moves.ite (State.emit_moves _ _ hr hk0) hz

theorem dropHold_moves (s : State) (fn : Nat) (off : Nat) {k0 : Nat} {z0 : State} (hz : Moves k0 z0 s) (hk0 : 1024 &&& k0 = 1024) :
    Moves k0 z0 (dropHold s fn off) := by
  refine hz.trans ?_
  clear hz
  unfold dropHold
  repeat' first
    | with_reducible exact Moves.refl _ _
    | with_reducible assumption
    | with_reducible exact mask_le hk0 (by decide)
    | with_reducible apply Moves.ite
    | with_reducible apply Moves.ite_fst
    | with_reducible (apply State.modFn_moves)
    | with_reducible (apply Moves.foldl)
    | with_reducible (apply Moves.foldl_fst)
    | with_reducible (apply Moves.of_eq; assumption)
    | with_reducible intro _
    | dsimp only
    | split

theorem commit64_moves (s : State) (fn off v : Nat) (r : RegRow × Nat) (h : RowOk r.1) {k0 : Nat} {z0 : State} (hz : Moves k0 z0 s)
    (hk0 : 8388602 &&& k0 = 8388602) : Moves k0 z0 (commit64 s fn off v r) := by
  refine hz.trans ?_
  unfold commit64
  exact ((State.modFn_moves s _ _ (Moves.refl 8388602 s) (by decide)).trans (h r.2 _ _)).mono hk0

theorem wideAt_ok {s : State} {fn off : Nat} {r : RegRow × Nat} (h : wideAt s fn off = some r) : RowOk r.1 := by
  unfold wideAt at h
  split at h
  · split at h
    · cases h; exact regAt_ok (by assumption)
    · cases h
  · cases h

theorem narrowAt_ok {s : State} {fn off : Nat} {r : RegRow × Nat} (h : narrowAt s fn off = some r) : RowOk r.1 := by
  unfold narrowAt at h
  split at h
  · split at h
    · cases h
    · cases h; exact regAt_ok (by assumption)
  · cases h

theorem write32Reg_moves (s : State) (fn off v : Nat) {k0 : Nat} {z0 : State} (hz : Moves k0 z0 s) (hk0 : 8388602 &&& k0 = 8388602) :
    Moves k0 z0 (write32Reg s fn off v) := by
  refine hz.trans ?_
  unfold write32Reg
  split
  · rename_i r h
    exact (narrowAt_ok h r.2 _ s).mono hk0
  · exact Moves.refl _ _

theorem writeLow_moves (s : State) (fn : Nat) (off : Nat) (v : Nat) {k0 : Nat} {z0 : State} (hz : Moves k0 z0 s) (hk0 : 1024 &&& k0 = 1024) :
    Moves k0 z0 (writeLow s fn off v) := by
  refine hz.trans ?_
  clear hz
  unfold writeLow
  repeat' first
    | with_reducible exact Moves.refl _ _
    | with_reducible assumption
    | with_reducible exact mask_le hk0 (by decide)
    | with_reducible apply Moves.ite
    | with_reducible apply Moves.ite_fst
    | with_reducible (apply State.modFn_moves)
    | with_reducible (apply Moves.foldl)
    | with_reducible (apply Moves.foldl_fst)
    | with_reducible (apply Moves.of_eq; assumption)
    | with_reducible intro _
    | dsimp only
    | split

theorem writeHigh_moves (s : State) (fn off v : Nat) {k0 : Nat} {z0 : State} (hz : Moves k0 z0 s) (hk0 : 8388602 &&& k0 = 8388602) :
    Moves k0 z0 (writeHigh s fn off v) := by
  unfold writeHigh
  split
  · rename_i r h
    exact commit64_moves s fn off _ r (wideAt_ok h) hz hk0
  · exact hz

theorem regWrite_moves (s : State) (fn off width v : Nat) {k0 : Nat} {z0 : State} (hz : Moves k0 z0 s) (hk0 : 8388602 &&& k0 = 8388602) :
    Moves k0 z0 (regWrite s fn off width v) := by
  unfold regWrite
  split
  · split
    · rename_i r h
      exact commit64_moves s fn off v r (wideAt_ok h) hz hk0
    · exact write32Reg_moves _ _ _ _ (write32Reg_moves _ _ _ _ hz hk0) hk0
  · split
    · split
      · exact write32Reg_moves _ _ _ _ hz hk0
      · exact writeLow_moves _ _ _ _ hz (mask_le hk0 (by decide))
      · split
        · exact writeHigh_moves _ _ _ _ hz hk0
        · exact hz
    · exact hz

theorem viaReg_moves (s : State) (fn : Nat) (off : Nat) (k : State → State) {k0 : Nat} {z0 : State} (hz : Moves k0 z0 s) (hk0 : 0 &&& k0 = 0) (hk_k : ∀ (v0 : State), Moves k0 v0 (k v0)) :
    Moves k0 z0 (viaReg s fn off k) := by
  refine hz.trans ?_
  clear hz
  unfold viaReg
  repeat' first
    | with_reducible exact Moves.refl _ _
    | with_reducible assumption
    | with_reducible exact mask_le hk0 (by decide)
    | with_reducible apply Moves.ite
    | with_reducible apply Moves.ite_fst
    | with_reducible (refine Moves.trans ?_ (hk_k ..))
    | with_reducible (apply Moves.foldl)
    | with_reducible (apply Moves.foldl_fst)
    | with_reducible (apply Moves.of_eq; assumption)
    | with_reducible intro _
    | dsimp only
    | split

theorem viaWide_moves (s : State) (fn : Nat) (off : Nat) (k : State → State) {k0 : Nat} {z0 : State} (hz : Moves k0 z0 s) (hk0 : 1024 &&& k0 = 1024) (hk_k : ∀ (v0 : State), Moves k0 v0 (k v0)) :
    Moves k0 z0 (viaWide s fn off k) := by
  refine hz.trans ?_
  clear hz
  unfold viaWide
  repeat' first
    | with_reducible exact Moves.refl _ _
    | with_reducible assumption
    | with_reducible exact mask_le hk0 (by decide)
    | with_reducible apply Moves.ite
    | with_reducible apply Moves.ite_fst
    | with_reducible (refine Moves.trans ?_ (hk_k ..))
    | with_reducible (apply dropHold_moves)
    | with_reducible (apply viaReg_moves)
    | with_reducible (apply Moves.foldl)
    | with_reducible (apply Moves.foldl_fst)
    | with_reducible (apply Moves.of_eq; assumption)
    | with_reducible intro _
    | dsimp only
    | split

theorem inP0_moves (c : Instr) (k : State → State) (s : State) {k0 : Nat} {z0 : State} (hz : Moves k0 z0 s) (hk0 : 4194304 &&& k0 = 4194304) (hk_k : ∀ (v0 : State), Moves k0 v0 (k v0)) :
    Moves k0 z0 (inP0 c k s) := by
  refine hz.trans ?_
  clear hz
  unfold inP0
  repeat' first
    | with_reducible exact Moves.refl _ _
    | with_reducible assumption
    | with_reducible exact mask_le hk0 (by decide)
    | with_reducible apply Moves.ite
    | with_reducible apply Moves.ite_fst
    | with_reducible (refine Moves.trans ?_ (hk_k ..))
    | with_reducible (apply Moves.foldl)
    | with_reducible (apply Moves.foldl_fst)
    | with_reducible (apply Moves.of_eq; assumption)
    | with_reducible intro _
    | dsimp only
    | split
    | with_reducible (apply Moves.put_held)

theorem writeAt_moves (c : Instr) (fn : Nat) (off : Nat) (k : State → State) (s : State) {k0 : Nat} {z0 : State} (hz : Moves k0 z0 s) (hk0 : 4194304 &&& k0 = 4194304) (hk_k : ∀ (v0 : State), Moves k0 v0 (k v0)) :
    Moves k0 z0 (writeAt c fn off k s) := by
  refine hz.trans ?_
  clear hz
  unfold writeAt
  repeat' first
    | with_reducible exact Moves.refl _ _
    | with_reducible assumption
    | with_reducible exact mask_le hk0 (by decide)
    | with_reducible apply Moves.ite
    | with_reducible apply Moves.ite_fst
    | with_reducible (refine Moves.trans ?_ (hk_k ..))
    | with_reducible (apply inP0_moves)
    | with_reducible (apply Moves.foldl)
    | with_reducible (apply Moves.foldl_fst)
    | with_reducible (apply Moves.of_eq; assumption)
    | with_reducible intro _
    | dsimp only
    | split

theorem viaShoe_moves (s : State) (n : Nat) (o : Nat) (k : State → State) {k0 : Nat} {z0 : State} (hz : Moves k0 z0 s) (hk0 : 0 &&& k0 = 0) (hk_k : ∀ (v0 : State), Moves k0 v0 (k v0)) :
    Moves k0 z0 (viaShoe s n o k) := by
  refine hz.trans ?_
  clear hz
  unfold viaShoe
  repeat' first
    | with_reducible exact Moves.refl _ _
    | with_reducible assumption
    | with_reducible exact mask_le hk0 (by decide)
    | with_reducible apply Moves.ite
    | with_reducible apply Moves.ite_fst
    | with_reducible (refine Moves.trans ?_ (hk_k ..))
    | with_reducible (apply viaReg_moves)
    | with_reducible (apply Moves.foldl)
    | with_reducible (apply Moves.foldl_fst)
    | with_reducible (apply Moves.of_eq; assumption)
    | with_reducible intro _
    | dsimp only
    | split

theorem viaRing_moves (s : State) (n : Nat) (o : Nat) (k : State → State) {k0 : Nat} {z0 : State} (hz : Moves k0 z0 s) (hk0 : 0 &&& k0 = 0) (hk_k : ∀ (v0 : State), Moves k0 v0 (k v0)) :
    Moves k0 z0 (viaRing s n o k) := by
  refine hz.trans ?_
  clear hz
  unfold viaRing
  repeat' first
    | with_reducible exact Moves.refl _ _
    | with_reducible assumption
    | with_reducible exact mask_le hk0 (by decide)
    | with_reducible apply Moves.ite
    | with_reducible apply Moves.ite_fst
    | with_reducible (refine Moves.trans ?_ (hk_k ..))
    | with_reducible (apply viaReg_moves)
    | with_reducible (apply Moves.foldl)
    | with_reducible (apply Moves.foldl_fst)
    | with_reducible (apply Moves.of_eq; assumption)
    | with_reducible intro _
    | dsimp only
    | split

theorem viaClaim_moves (s : State) (n : Nat) (o : Nat) (k : State → State) {k0 : Nat} {z0 : State} (hz : Moves k0 z0 s) (hk0 : 0 &&& k0 = 0) (hk_k : ∀ (v0 : State), Moves k0 v0 (k v0)) :
    Moves k0 z0 (viaClaim s n o k) := by
  refine hz.trans ?_
  clear hz
  unfold viaClaim
  repeat' first
    | with_reducible exact Moves.refl _ _
    | with_reducible assumption
    | with_reducible exact mask_le hk0 (by decide)
    | with_reducible apply Moves.ite
    | with_reducible apply Moves.ite_fst
    | with_reducible (refine Moves.trans ?_ (hk_k ..))
    | with_reducible (apply viaReg_moves)
    | with_reducible (apply Moves.foldl)
    | with_reducible (apply Moves.foldl_fst)
    | with_reducible (apply Moves.of_eq; assumption)
    | with_reducible intro _
    | dsimp only
    | split

theorem viaClaimWide_moves (s : State) (n : Nat) (o : Nat) (k : State → State) {k0 : Nat} {z0 : State} (hz : Moves k0 z0 s) (hk0 : 1024 &&& k0 = 1024) (hk_k : ∀ (v0 : State), Moves k0 v0 (k v0)) :
    Moves k0 z0 (viaClaimWide s n o k) := by
  refine hz.trans ?_
  clear hz
  unfold viaClaimWide
  repeat' first
    | with_reducible exact Moves.refl _ _
    | with_reducible assumption
    | with_reducible exact mask_le hk0 (by decide)
    | with_reducible apply Moves.ite
    | with_reducible apply Moves.ite_fst
    | with_reducible (refine Moves.trans ?_ (hk_k ..))
    | with_reducible (apply viaWide_moves)
    | with_reducible (apply Moves.foldl)
    | with_reducible (apply Moves.foldl_fst)
    | with_reducible (apply Moves.of_eq; assumption)
    | with_reducible intro _
    | dsimp only
    | split

end Sys2Proof.Machine
end

