-- ==== Sys2Proof/Laws/MovesDeckOps.lean ====
section
/-! SUPPORT. What each operation of Machine/DeckOps.lean may change. -/

set_option linter.unreachableTactic false
set_option linter.unusedTactic false
set_option linter.unusedVariables false

namespace Sys2Proof.Machine

theorem startItem_moves (s : State) (shoe : Nat) {k0 : Nat} {z0 : State} (hz : Moves k0 z0 s) (hk0 : 3665914 &&& k0 = 3665914) :
    Moves k0 z0 (startItem s shoe) := by
  refine hz.trans ?_
  clear hz
  unfold startItem
  repeat' first
    | with_reducible exact Moves.refl _ _
    | with_reducible assumption
    | with_reducible exact mask_le hk0 (by decide)
    | with_reducible apply Moves.ite
    | with_reducible apply Moves.ite_fst
    | with_reducible (apply State.modItem_moves)
    | with_reducible (apply deckFault_moves)
    | with_reducible (apply served_moves)
    | with_reducible (apply Moves.foldl)
    | with_reducible (apply Moves.foldl_fst)
    | with_reducible (apply Moves.of_eq; assumption)
    | with_reducible intro _
    | dsimp only
    | split

theorem levelFault_moves (s : State) (shoe : Nat) (seq : Nat) (o : Outcome) {k0 : Nat} {z0 : State} (hz : Moves k0 z0 s) (hk0 : 3665914 &&& k0 = 3665914) :
    Moves k0 z0 (levelFault s shoe seq o) := by
  refine hz.trans ?_
  clear hz
  unfold levelFault
  repeat' first
    | with_reducible exact Moves.refl _ _
    | with_reducible assumption
    | with_reducible exact mask_le hk0 (by decide)
    | with_reducible apply Moves.ite
    | with_reducible apply Moves.ite_fst
    | with_reducible (apply deckFault_moves)
    | with_reducible (apply failItem_moves)
    | with_reducible (apply Moves.foldl)
    | with_reducible (apply Moves.foldl_fst)
    | with_reducible (apply Moves.of_eq; assumption)
    | with_reducible intro _
    | dsimp only
    | split

theorem openLevel_moves (s : State) (shoe : Nat) (seq : Nat) (l : Nat) (g : Nat) (depth : Nat) (kind : LevelKind) (run : Nat → CmdState) (bs : List Byte) {k0 : Nat} {z0 : State} (hz : Moves k0 z0 s) (hk0 : 128 &&& k0 = 128) :
    Moves k0 z0 (openLevel s shoe seq l g depth kind run bs) := by
  refine hz.trans ?_
  clear hz
  unfold openLevel
  repeat' first
    | with_reducible exact Moves.refl _ _
    | with_reducible assumption
    | with_reducible exact mask_le hk0 (by decide)
    | with_reducible apply Moves.ite
    | with_reducible apply Moves.ite_fst
    | with_reducible (apply State.modItem_moves)
    | with_reducible (apply setActive_moves)
    | with_reducible (apply Moves.foldl)
    | with_reducible (apply Moves.foldl_fst)
    | with_reducible (apply Moves.of_eq; assumption)
    | with_reducible intro _
    | dsimp only
    | split

theorem readDeck_all (s : State) (shoe seq l g : Nat) (b : List Byte) (r : HostResp) {k0 : Nat} {z0 : State} (hz : Moves k0 z0 s)
    (hk0 : 524424 &&& k0 = 524424) :
    (∀ z1 bs, readDeck s shoe seq l g b r = .ok (z1, bs) → Moves k0 z0 z1) ∧ ∀ z1, readDeck s shoe seq l g b r = .error z1 → Moves k0 z0 z1 := by
  unfold readDeck
  dsimp only
  split
  · refine ⟨fun _ _ h => (nomatch h), fun z1 h => ?_⟩
    cases h
    exact failAt_moves _ _ _ _ _ _ _ hz (mask_le hk0 (by decide))
  · split
    · rename_i s1 h1
      refine ⟨fun _ _ h => (nomatch h), fun z1 h => ?_⟩
      cases h
      exact failAt_moves _ _ _ _ _ _ _ (readHost_pmoves _ _ _ _ _ h1 hz (mask_le hk0 (by decide))) (mask_le hk0 (by decide))
    · rename_i s1 bs1 h1
      refine ⟨fun z1 bs h => ?_, fun _ h => (nomatch h)⟩
      cases h
      exact readHost_pmoves _ _ _ _ _ h1 hz (mask_le hk0 (by decide))

theorem readDeck_moves (s : State) (shoe seq l g : Nat) (b : List Byte) (r : HostResp) {z1 : State} {bs : List Byte}
    (he : readDeck s shoe seq l g b r = .ok (z1, bs)) {k0 : Nat} {z0 : State} (hz : Moves k0 z0 s) (hk0 : 524424 &&& k0 = 524424) : Moves k0 z0 z1 :=
  (readDeck_all s shoe seq l g b r hz hk0).1 z1 bs he

theorem readDeck_emoves (s : State) (shoe seq l g : Nat) (b : List Byte) (r : HostResp) {z1 : State}
    (he : readDeck s shoe seq l g b r = .error z1) {k0 : Nat} {z0 : State} (hz : Moves k0 z0 s) (hk0 : 524424 &&& k0 = 524424) : Moves k0 z0 z1 :=
  (readDeck_all s shoe seq l g b r hz hk0).2 z1 he

theorem runCall_moves (s : State) (shoe : Nat) (seq : Nat) (l : Nat) (g : Nat) (lv : Level) (b : List Byte) (r : HostResp) {k0 : Nat} {z0 : State} (hz : Moves k0 z0 s) (hk0 : 4190202 &&& k0 = 4190202) :
    Moves k0 z0 (runCall s shoe seq l g lv b r) := by
  refine hz.trans ?_
  clear hz
  unfold runCall
  repeat' first
    | with_reducible exact Moves.refl _ _
    | with_reducible assumption
    | with_reducible exact mask_le hk0 (by decide)
    | with_reducible apply Moves.ite
    | with_reducible apply Moves.ite_fst
    | with_reducible (apply State.modShoe_moves)
    | with_reducible (apply levelFault_moves)
    | with_reducible (apply openLevel_moves)
    | with_reducible (apply readDeck_moves; assumption)
    | with_reducible (apply readDeck_emoves; assumption)
    | with_reducible (apply Moves.foldl)
    | with_reducible (apply Moves.foldl_fst)
    | with_reducible (apply Moves.of_eq; assumption)
    | with_reducible intro _
    | dsimp only
    | split

theorem callCmd_moves (s : State) (shoe : Nat) (seq : Nat) (l : Nat) (g : Nat) (r : HostResp) {k0 : Nat} {z0 : State} (hz : Moves k0 z0 s) (hk0 : 4190202 &&& k0 = 4190202) :
    Moves k0 z0 (callCmd s shoe seq l g r) := by
  refine hz.trans ?_
  clear hz
  unfold callCmd
  repeat' first
    | with_reducible exact Moves.refl _ _
    | with_reducible assumption
    | with_reducible exact mask_le hk0 (by decide)
    | with_reducible apply Moves.ite
    | with_reducible apply Moves.ite_fst
    | with_reducible (apply heldCmd_moves)
    | with_reducible (apply runCall_moves)
    | with_reducible (apply Moves.foldl)
    | with_reducible (apply Moves.foldl_fst)
    | with_reducible (apply Moves.of_eq; assumption)
    | with_reducible intro _
    | dsimp only
    | split

theorem callEnd_moves (s : State) (shoe : Nat) (seq : Nat) (l : Nat) {k0 : Nat} {z0 : State} (hz : Moves k0 z0 s) (hk0 : 128 &&& k0 = 128) :
    Moves k0 z0 (callEnd s shoe seq l) := by
  refine hz.trans ?_
  clear hz
  unfold callEnd
  repeat' first
    | with_reducible exact Moves.refl _ _
    | with_reducible assumption
    | with_reducible exact mask_le hk0 (by decide)
    | with_reducible apply Moves.ite
    | with_reducible apply Moves.ite_fst
    | with_reducible (apply State.modItem_moves)
    | with_reducible (apply State.modShoe_moves)
    | with_reducible (apply completeCmd_moves)
    | with_reducible (apply Moves.foldl)
    | with_reducible (apply Moves.foldl_fst)
    | with_reducible (apply Moves.of_eq; assumption)
    | with_reducible intro _
    | dsimp only
    | split

theorem runLaneDeck_moves (s : State) (shoe : Nat) (seq : Nat) (l : Nat) (g : Nat) (b : List Byte) (r : HostResp) {k0 : Nat} {z0 : State} (hz : Moves k0 z0 s) (hk0 : 4190202 &&& k0 = 4190202) :
    Moves k0 z0 (runLaneDeck s shoe seq l g b r) := by
  refine hz.trans ?_
  clear hz
  unfold runLaneDeck
  repeat' first
    | with_reducible exact Moves.refl _ _
    | with_reducible assumption
    | with_reducible exact mask_le hk0 (by decide)
    | with_reducible apply Moves.ite
    | with_reducible apply Moves.ite_fst
    | with_reducible (apply State.modDl_moves)
    | with_reducible (apply failAt_moves)
    | with_reducible (apply levelFault_moves)
    | with_reducible (apply openLevel_moves)
    | with_reducible (apply readDeck_moves; assumption)
    | with_reducible (apply readDeck_emoves; assumption)
    | with_reducible (apply Moves.foldl)
    | with_reducible (apply Moves.foldl_fst)
    | with_reducible (apply Moves.of_eq; assumption)
    | with_reducible intro _
    | dsimp only
    | split

theorem laneDeckCmd_moves (s : State) (shoe : Nat) (seq : Nat) (l : Nat) (g : Nat) (r : HostResp) {k0 : Nat} {z0 : State} (hz : Moves k0 z0 s) (hk0 : 4190202 &&& k0 = 4190202) :
    Moves k0 z0 (laneDeckCmd s shoe seq l g r) := by
  refine hz.trans ?_
  clear hz
  unfold laneDeckCmd
  repeat' first
    | with_reducible exact Moves.refl _ _
    | with_reducible assumption
    | with_reducible exact mask_le hk0 (by decide)
    | with_reducible apply Moves.ite
    | with_reducible apply Moves.ite_fst
    | with_reducible (apply heldCmd_moves)
    | with_reducible (apply runLaneDeck_moves)
    | with_reducible (apply Moves.foldl)
    | with_reducible (apply Moves.foldl_fst)
    | with_reducible (apply Moves.of_eq; assumption)
    | with_reducible intro _
    | dsimp only
    | split

theorem laneDeckEnd_moves (s : State) (shoe : Nat) (seq : Nat) (l : Nat) {k0 : Nat} {z0 : State} (hz : Moves k0 z0 s) (hk0 : 128 &&& k0 = 128) :
    Moves k0 z0 (laneDeckEnd s shoe seq l) := by
  refine hz.trans ?_
  clear hz
  unfold laneDeckEnd
  repeat' first
    | with_reducible exact Moves.refl _ _
    | with_reducible assumption
    | with_reducible exact mask_le hk0 (by decide)
    | with_reducible apply Moves.ite
    | with_reducible apply Moves.ite_fst
    | with_reducible (apply State.modDl_moves)
    | with_reducible (apply State.modItem_moves)
    | with_reducible (apply completeCmd_moves)
    | with_reducible (apply Moves.foldl)
    | with_reducible (apply Moves.foldl_fst)
    | with_reducible (apply Moves.of_eq; assumption)
    | with_reducible intro _
    | dsimp only
    | split

theorem copyBurst_moves (s : State) (n : Nat) (b : List Byte) (data : List Byte) (readOk : Bool) (done : Nat) {k0 : Nat} {z0 : State} (hz : Moves k0 z0 s) (hk0 : 796104 &&& k0 = 796104) :
    Moves k0 z0 (copyBurst s n b data readOk done).1 := by
  refine hz.trans ?_
  clear hz
  unfold copyBurst
  repeat' first
    | with_reducible exact Moves.refl _ _
    | with_reducible assumption
    | with_reducible exact mask_le hk0 (by decide)
    | with_reducible apply Moves.ite
    | with_reducible apply Moves.ite_fst
    | with_reducible (apply State.emit_moves)
    | with_reducible (apply Run.andThen_moves)
    | with_reducible (apply aerLog_moves)
    | with_reducible (apply postHost_moves)
    | with_reducible (apply readClaim_moves)
    | with_reducible (apply readClaim_pmoves; assumption)
    | with_reducible (apply writeClaim_moves)
    | with_reducible (apply writeClaim_pmoves; assumption)
    | with_reducible (apply Moves.foldl)
    | with_reducible (apply Moves.foldl_fst)
    | with_reducible (apply Moves.of_eq; assumption)
    | with_reducible intro _
    | dsimp only
    | split

theorem copyBurst_pmoves (s : State) (n : Nat) (b : List Byte) (data : List Byte) (readOk : Bool) (done : Nat) {z1 : State} {y1 : ReadEnd Nat} (he : (copyBurst s n b data readOk done) = (z1, y1)) {k0 : Nat} {z0 : State} (hz : Moves k0 z0 s) (hk0 : 796104 &&& k0 = 796104) :
    Moves k0 z0 z1 := by
  simpa only [he] using copyBurst_moves s n b data readOk done hz hk0

theorem copyBursts_moves (shoe : Nat) (seq : Nat) (l : Nat) (g : Nat) (age : Nat) (b : List Byte) (readOk : Bool) (x7 : Nat) (x8 : List Byte) (x9 : Nat) (x10 : State) {k0 : Nat} {z0 : State} (hz : Moves k0 z0 x10) (hk0 : 796104 &&& k0 = 796104) :
    Moves k0 z0 (copyBursts shoe seq l g age b readOk x7 x8 x9 x10) := by
  refine hz.trans ?_
  clear hz
  fun_induction copyBursts shoe seq l g age b readOk x7 x8 x9 x10
  all_goals repeat' first
    | with_reducible exact Moves.refl _ _
    | with_reducible assumption
    | with_reducible (refine Moves.trans ?_ (by assumption))
    | with_reducible (refine Moves.trans ?_ (Moves.of_eq (by assumption) (by assumption)))
    | with_reducible exact mask_le hk0 (by decide)
    | with_reducible apply Moves.ite
    | with_reducible apply Moves.ite_fst
    | with_reducible (apply completeCmd_moves)
    | with_reducible (apply copyBurst_moves)
    | with_reducible (apply copyBurst_pmoves; assumption)
    | with_reducible (apply failAt_moves)
    | with_reducible (apply setActive_moves)
    | with_reducible (apply Moves.foldl)
    | with_reducible (apply Moves.foldl_fst)
    | with_reducible (apply Moves.of_eq; assumption)
    | with_reducible intro _
    | dsimp only
    | split

theorem copyCmd_moves (shoe : Nat) (seq : Nat) (l : Nat) (g : Nat) (bursts : Nat) (r : HostResp) (s : State) {k0 : Nat} {z0 : State} (hz : Moves k0 z0 s) (hk0 : 796104 &&& k0 = 796104) :
    Moves k0 z0 (copyCmd shoe seq l g bursts r s) := by
  refine hz.trans ?_
  clear hz
  unfold copyCmd
  repeat' first
    | with_reducible exact Moves.refl _ _
    | with_reducible assumption
    | with_reducible exact mask_le hk0 (by decide)
    | with_reducible apply Moves.ite
    | with_reducible apply Moves.ite_fst
    | with_reducible (apply copyBursts_moves)
    | with_reducible (apply heldCmd_moves)
    | with_reducible (apply Moves.foldl)
    | with_reducible (apply Moves.foldl_fst)
    | with_reducible (apply Moves.of_eq; assumption)
    | with_reducible intro _
    | dsimp only
    | split

theorem hostCopyCmd_moves (s : State) (shoe : Nat) (seq : Nat) (l : Nat) (g : Nat) (bursts : Nat) (r : HostResp) {k0 : Nat} {z0 : State} (hz : Moves k0 z0 s) (hk0 : 796104 &&& k0 = 796104) :
    Moves k0 z0 (hostCopyCmd s shoe seq l g bursts r) := by
  refine hz.trans ?_
  clear hz
  unfold hostCopyCmd
  repeat' first
    | with_reducible exact Moves.refl _ _
    | with_reducible assumption
    | with_reducible exact mask_le hk0 (by decide)
    | with_reducible apply Moves.ite
    | with_reducible apply Moves.ite_fst
    | with_reducible (apply afterMoves_moves)
    | with_reducible (apply copyCmd_moves)
    | with_reducible (apply Moves.foldl)
    | with_reducible (apply Moves.foldl_fst)
    | with_reducible (apply Moves.of_eq; assumption)
    | with_reducible intro _
    | dsimp only
    | split

theorem pageCmd_moves (s : State) (shoe : Nat) (seq : Nat) (l : Nat) (op : Nat) {k0 : Nat} {z0 : State} (hz : Moves k0 z0 s) (hk0 : 1480 &&& k0 = 1480) :
    Moves k0 z0 (pageCmd s shoe seq l op) := by
  refine hz.trans ?_
  clear hz
  unfold pageCmd
  repeat' first
    | with_reducible exact Moves.refl _ _
    | with_reducible assumption
    | with_reducible exact mask_le hk0 (by decide)
    | with_reducible apply Moves.ite
    | with_reducible apply Moves.ite_fst
    | with_reducible (apply clearNeeded_moves)
    | with_reducible (apply demoteOwn_moves)
    | with_reducible (apply demoteOwn_pmoves; assumption)
    | with_reducible (apply doneCmd_moves)
    | with_reducible (apply failAt_moves)
    | with_reducible (apply heldCmd_moves)
    | with_reducible (apply mapRange_moves; assumption)
    | with_reducible (apply promoteRequest_moves)
    | with_reducible (apply setActive_moves)
    | with_reducible (apply settlePage_moves)
    | with_reducible (apply Moves.foldl)
    | with_reducible (apply Moves.foldl_fst)
    | with_reducible (apply Moves.of_eq; assumption)
    | with_reducible intro _
    | dsimp only
    | split

theorem commonRemove_moves (s : State) (seq : Nat) (l : Nat) {k0 : Nat} {z0 : State} (hz : Moves k0 z0 s) (hk0 : 384 &&& k0 = 384) :
    Moves k0 z0 (commonRemove s seq l) := by
  refine hz.trans ?_
  clear hz
  unfold commonRemove
  repeat' first
    | with_reducible exact Moves.refl _ _
    | with_reducible assumption
    | with_reducible exact mask_le hk0 (by decide)
    | with_reducible apply Moves.ite
    | with_reducible apply Moves.ite_fst
    | with_reducible (apply failAt_moves)
    | with_reducible (apply heldCmd_moves)
    | with_reducible (apply settleCommon_moves)
    | with_reducible (apply Moves.foldl)
    | with_reducible (apply Moves.foldl_fst)
    | with_reducible (apply Moves.of_eq; assumption)
    | with_reducible intro _
    | dsimp only
    | split

theorem loadCommon_moves (page : Nat) (bs : List Byte) (s : State) {k0 : Nat} {z0 : State} (hz : Moves k0 z0 s) (hk0 : 271688 &&& k0 = 271688) :
    Moves k0 z0 (loadCommon page bs s).1 := by
  refine hz.trans ?_
  clear hz
  unfold loadCommon
  repeat' first
    | with_reducible exact Moves.refl _ _
    | with_reducible assumption
    | with_reducible exact mask_le hk0 (by decide)
    | with_reducible apply Moves.ite
    | with_reducible apply Moves.ite_fst
    | with_reducible (apply Run.andThen_moves)
    | with_reducible (apply clearNeeded_moves)
    | with_reducible (apply ensureTables_moves; assumption)
    | with_reducible (apply placeT2_moves; assumption)
    | with_reducible (apply placeT2_omoves)
    | with_reducible (apply runEach_moves)
    | with_reducible (apply writeFrame_moves)
    | with_reducible (apply writeFrame_pmoves; assumption)
    | with_reducible (apply Moves.foldl)
    | with_reducible (apply Moves.foldl_fst)
    | with_reducible (apply Moves.of_eq; assumption)
    | with_reducible intro _
    | dsimp only
    | split

theorem loadCommon_pmoves (page : Nat) (bs : List Byte) (s : State) {z1 : State} {y1 : ReadEnd Unit} (he : (loadCommon page bs s) = (z1, y1)) {k0 : Nat} {z0 : State} (hz : Moves k0 z0 s) (hk0 : 271688 &&& k0 = 271688) :
    Moves k0 z0 z1 := by
  simpa only [he] using loadCommon_moves page bs s hz hk0

theorem loadCommons_moves (ps : List Nat) (bs : List Byte) (s : State) {k0 : Nat} {z0 : State} (hz : Moves k0 z0 s)
    (hk0 : 271688 &&& k0 = 271688) : Moves k0 z0 (loadCommons ps bs s).1 := by
  induction ps generalizing bs s with
  | nil => exact hz
  | cons p ps ih =>
    exact Run.andThen_moves _ _ (loadCommon_moves _ _ _ hz (mask_le hk0 (by decide))) fun _ t ht => ih _ t ht

theorem loadCommons_pmoves (ps : List Nat) (bs : List Byte) (s : State) {z1 : State} {y1 : ReadEnd Unit} (he : loadCommons ps bs s = (z1, y1))
    {k0 : Nat} {z0 : State} (hz : Moves k0 z0 s) (hk0 : 271688 &&& k0 = 271688) : Moves k0 z0 z1 := by
  simpa only [he] using loadCommons_moves ps bs s hz hk0

theorem commonLoad_moves (s : State) (seq : Nat) (l : Nat) (r : HostResp) {k0 : Nat} {z0 : State} (hz : Moves k0 z0 s) (hk0 : 796104 &&& k0 = 796104) :
    Moves k0 z0 (commonLoad s seq l r) := by
  refine hz.trans ?_
  clear hz
  unfold commonLoad
  repeat' first
    | with_reducible exact Moves.refl _ _
    | with_reducible assumption
    | with_reducible exact mask_le hk0 (by decide)
    | with_reducible apply Moves.ite
    | with_reducible apply Moves.ite_fst
    | with_reducible (apply doneCmd_moves)
    | with_reducible (apply failAt_moves)
    | with_reducible (apply loadCommons_moves)
    | with_reducible (apply loadCommons_pmoves; assumption)
    | with_reducible (apply readHost_moves)
    | with_reducible (apply readHost_pmoves; assumption)
    | with_reducible (apply unmapOne_moves)
    | with_reducible (apply Moves.foldl)
    | with_reducible (apply Moves.foldl_fst)
    | with_reducible (apply Moves.of_eq; assumption)
    | with_reducible intro _
    | dsimp only
    | split

theorem clearStart_moves (s : State) (seq : Nat) (l : Nat) (units : Nat) {k0 : Nat} {z0 : State} (hz : Moves k0 z0 s) (hk0 : 8576 &&& k0 = 8576) :
    Moves k0 z0 (clearStart s seq l units) := by
  refine hz.trans ?_
  clear hz
  unfold clearStart
  repeat' first
    | with_reducible exact Moves.refl _ _
    | with_reducible assumption
    | with_reducible exact mask_le hk0 (by decide)
    | with_reducible apply Moves.ite
    | with_reducible apply Moves.ite_fst
    | with_reducible (apply clearUnitsEcc_moves)
    | with_reducible (apply clearUnitsEcc_pmoves; assumption)
    | with_reducible (apply heldCmd_moves)
    | with_reducible (apply setActive_moves)
    | with_reducible (apply Moves.foldl)
    | with_reducible (apply Moves.foldl_fst)
    | with_reducible (apply Moves.of_eq; assumption)
    | with_reducible intro _
    | dsimp only
    | split

theorem clearEnd_moves (s : State) (seq : Nat) (l : Nat) {k0 : Nat} {z0 : State} (hz : Moves k0 z0 s) (hk0 : 8576 &&& k0 = 8576) :
    Moves k0 z0 (clearEnd s seq l) := by
  refine hz.trans ?_
  clear hz
  unfold clearEnd
  repeat' first
    | with_reducible exact Moves.refl _ _
    | with_reducible assumption
    | with_reducible exact mask_le hk0 (by decide)
    | with_reducible apply Moves.ite
    | with_reducible apply Moves.ite_fst
    | with_reducible (apply State.modItem_moves)
    | with_reducible (apply clearUnitsEcc_moves)
    | with_reducible (apply clearUnitsEcc_pmoves; assumption)
    | with_reducible (apply completeCmd_moves)
    | with_reducible (apply Moves.foldl)
    | with_reducible (apply Moves.foldl_fst)
    | with_reducible (apply Moves.of_eq; assumption)
    | with_reducible intro _
    | dsimp only
    | split

theorem tableLoad_moves (s : State) (seq : Nat) (l : Nat) (r : HostResp) {k0 : Nat} {z0 : State} (hz : Moves k0 z0 s) (hk0 : 524424 &&& k0 = 524424) :
    Moves k0 z0 (tableLoad s seq l r) := by
  refine hz.trans ?_
  clear hz
  unfold tableLoad
  repeat' first
    | with_reducible exact Moves.refl _ _
    | with_reducible assumption
    | with_reducible exact mask_le hk0 (by decide)
    | with_reducible apply Moves.ite
    | with_reducible apply Moves.ite_fst
    | with_reducible (apply State.modDl_moves)
    | with_reducible (apply failAt_moves)
    | with_reducible (apply heldCmd_moves)
    | with_reducible (apply readHost_moves)
    | with_reducible (apply readHost_pmoves; assumption)
    | with_reducible (apply Moves.foldl)
    | with_reducible (apply Moves.foldl_fst)
    | with_reducible (apply Moves.of_eq; assumption)
    | with_reducible intro _
    | dsimp only
    | split

theorem tableCommit_moves (s : State) (slot : Nat) {k0 : Nat} {z0 : State} (hz : Moves k0 z0 s) (hk0 : 128 &&& k0 = 128) :
    Moves k0 z0 (tableCommit s slot) := by
  refine hz.trans ?_
  clear hz
  unfold tableCommit
  repeat' first
    | with_reducible exact Moves.refl _ _
    | with_reducible assumption
    | with_reducible exact mask_le hk0 (by decide)
    | with_reducible apply Moves.ite
    | with_reducible apply Moves.ite_fst
    | with_reducible (apply State.modDl_moves)
    | with_reducible (apply completeCmd_moves)
    | with_reducible (apply Moves.foldl)
    | with_reducible (apply Moves.foldl_fst)
    | with_reducible (apply Moves.of_eq; assumption)
    | with_reducible intro _
    | dsimp only
    | split

end Sys2Proof.Machine
end

