-- ==== Sys2Proof/Laws/MovesFlitOps.lean ====
section
/-! SUPPORT. What each operation of Machine/FlitOps.lean may change. -/

set_option linter.unreachableTactic false
set_option linter.unusedTactic false
set_option linter.unusedVariables false

namespace Sys2Proof.Machine

theorem trickStale_moves (s : State) {k0 : Nat} {z0 : State} (hz : Moves k0 z0 s) (hk0 : 512 &&& k0 = 512) :
    Moves k0 z0 (trickStale s) := by
  refine hz.trans ?_
  clear hz
  unfold trickStale
  repeat' first
    | with_reducible exact Moves.refl _ _
    | with_reducible assumption
    | with_reducible exact mask_le hk0 (by decide)
    | with_reducible apply Moves.ite
    | with_reducible apply Moves.ite_fst
    | with_reducible (apply State.modSync_moves)
    | with_reducible (apply Moves.foldl)
    | with_reducible (apply Moves.foldl_fst)
    | with_reducible (apply Moves.of_eq; assumption)
    | with_reducible intro _
    | dsimp only
    | split

theorem arriveReceived_moves (s : State) (round : Nat) (index : Nat) (gen : Nat) (origin : Seat) (tag : Nat) {k0 : Nat} {z0 : State} (hz : Moves k0 z0 s) (hk0 : 50824 &&& k0 = 50824) :
    Moves k0 z0 (arriveReceived s round index gen origin tag) := by
  refine hz.trans ?_
  clear hz
  unfold arriveReceived
  repeat' first
    | with_reducible exact Moves.refl _ _
    | with_reducible assumption
    | with_reducible exact mask_le hk0 (by decide)
    | with_reducible apply Moves.ite
    | with_reducible apply Moves.ite_fst
    | with_reducible (apply arriveCheck_moves)
    | with_reducible (apply collectArrival_moves)
    | with_reducible (apply trickStale_moves)
    | with_reducible (apply Moves.foldl)
    | with_reducible (apply Moves.foldl_fst)
    | with_reducible (apply Moves.of_eq; assumption)
    | with_reducible intro _
    | dsimp only
    | split

theorem releaseReceived_moves (s : State) (round : Nat) (index : Nat) (gen : Nat) (tag : Nat) {k0 : Nat} {z0 : State} (hz : Moves k0 z0 s) (hk0 : 50824 &&& k0 = 50824) :
    Moves k0 z0 (releaseReceived s round index gen tag) := by
  refine hz.trans ?_
  clear hz
  unfold releaseReceived
  repeat' first
    | with_reducible exact Moves.refl _ _
    | with_reducible assumption
    | with_reducible exact mask_le hk0 (by decide)
    | with_reducible apply Moves.ite
    | with_reducible apply Moves.ite_fst
    | with_reducible (apply applyRelease_moves)
    | with_reducible (apply arriveCheck_moves)
    | with_reducible (apply trickStale_moves)
    | with_reducible (apply Moves.foldl)
    | with_reducible (apply Moves.foldl_fst)
    | with_reducible (apply Moves.of_eq; assumption)
    | with_reducible intro _
    | dsimp only
    | split

theorem poisonReceived_moves (s : State) (round : Nat) (index : Nat) (origin : Seat) (tag : Nat) {k0 : Nat} {z0 : State} (hz : Moves k0 z0 s) (hk0 : 51080 &&& k0 = 51080) :
    Moves k0 z0 (poisonReceived s round index origin tag) := by
  refine hz.trans ?_
  clear hz
  unfold poisonReceived
  repeat' first
    | with_reducible exact Moves.refl _ _
    | with_reducible assumption
    | with_reducible exact mask_le hk0 (by decide)
    | with_reducible apply Moves.ite
    | with_reducible apply Moves.ite_fst
    | with_reducible (apply poisonTrickHere_moves)
    | with_reducible (apply roundPoisoned_moves)
    | with_reducible (apply trickStale_moves)
    | with_reducible (apply Moves.foldl)
    | with_reducible (apply Moves.foldl_fst)
    | with_reducible (apply Moves.of_eq; assumption)
    | with_reducible intro _
    | dsimp only
    | split

theorem trickMsg_moves (s : State) (b : List Byte) {k0 : Nat} {z0 : State} (hz : Moves k0 z0 s) (hk0 : 51080 &&& k0 = 51080) :
    Moves k0 z0 (trickMsg s b) := by
  refine hz.trans ?_
  clear hz
  unfold trickMsg
  repeat' first
    | with_reducible exact Moves.refl _ _
    | with_reducible assumption
    | with_reducible exact mask_le hk0 (by decide)
    | with_reducible apply Moves.ite
    | with_reducible apply Moves.ite_fst
    | with_reducible (apply arriveReceived_moves)
    | with_reducible (apply poisonReceived_moves)
    | with_reducible (apply releaseReceived_moves)
    | with_reducible (apply trickStale_moves)
    | with_reducible (apply Moves.foldl)
    | with_reducible (apply Moves.foldl_fst)
    | with_reducible (apply Moves.of_eq; assumption)
    | with_reducible intro _
    | dsimp only
    | split

theorem portFails_moves (s : State) (p : Nat) {k0 : Nat} {z0 : State} (hz : Moves k0 z0 s) (hk0 : 313288 &&& k0 = 313288) :
    Moves k0 z0 (portFails s p) := by
  refine hz.trans ?_
  clear hz
  unfold portFails
  repeat' first
    | with_reducible exact Moves.refl _ _
    | with_reducible assumption
    | with_reducible exact mask_le hk0 (by decide)
    | with_reducible apply Moves.ite
    | with_reducible apply Moves.ite_fst
    | with_reducible (apply failXfers_moves)
    | with_reducible (apply leaveGroup_moves)
    | with_reducible (apply leaveGroup_pmoves; assumption)
    | with_reducible (apply Moves.foldl)
    | with_reducible (apply Moves.foldl_fst)
    | with_reducible (apply Moves.of_eq; assumption)
    | with_reducible intro _
    | dsimp only
    | split

theorem laneFailure_moves (s : State) (p : Nat) (i : Nat) {k0 : Nat} {z0 : State} (hz : Moves k0 z0 s) (hk0 : 313288 &&& k0 = 313288) :
    Moves k0 z0 (laneFailure s p i) := by
  refine hz.trans ?_
  clear hz
  unfold laneFailure
  repeat' first
    | with_reducible exact Moves.refl _ _
    | with_reducible assumption
    | with_reducible exact mask_le hk0 (by decide)
    | with_reducible apply Moves.ite
    | with_reducible apply Moves.ite_fst
    | with_reducible (apply laneFails_moves)
    | with_reducible (apply laneFails_pmoves; assumption)
    | with_reducible (apply portFails_moves)
    | with_reducible (apply Moves.foldl)
    | with_reducible (apply Moves.foldl_fst)
    | with_reducible (apply Moves.of_eq; assumption)
    | with_reducible intro _
    | dsimp only
    | split

theorem lanesMessage_moves (s : State) (p : Nat) (bitmap : Nat) {k0 : Nat} {z0 : State} (hz : Moves k0 z0 s) (hk0 : 313288 &&& k0 = 313288) :
    Moves k0 z0 (lanesMessage s p bitmap) := by
  refine hz.trans ?_
  clear hz
  unfold lanesMessage
  repeat' first
    | with_reducible exact Moves.refl _ _
    | with_reducible assumption
    | with_reducible exact mask_le hk0 (by decide)
    | with_reducible apply Moves.ite
    | with_reducible apply Moves.ite_fst
    | with_reducible (apply lanesReceived_moves)
    | with_reducible (apply lanesReceived_pmoves; assumption)
    | with_reducible (apply portFails_moves)
    | with_reducible (apply Moves.foldl)
    | with_reducible (apply Moves.foldl_fst)
    | with_reducible (apply Moves.of_eq; assumption)
    | with_reducible intro _
    | dsimp only
    | split

theorem lanesAckMessage_moves (s : State) (p : Nat) (bitmap : Nat) {k0 : Nat} {z0 : State} (hz : Moves k0 z0 s) (hk0 : 279624 &&& k0 = 279624) :
    Moves k0 z0 (lanesAckMessage s p bitmap) := by
  refine hz.trans ?_
  clear hz
  unfold lanesAckMessage
  repeat' first
    | with_reducible exact Moves.refl _ _
    | with_reducible assumption
    | with_reducible exact mask_le hk0 (by decide)
    | with_reducible apply Moves.ite
    | with_reducible apply Moves.ite_fst
    | with_reducible (apply lanesAck_moves)
    | with_reducible (apply Moves.foldl)
    | with_reducible (apply Moves.foldl_fst)
    | with_reducible (apply Moves.of_eq; assumption)
    | with_reducible intro _
    | dsimp only
    | split

theorem linkMgmt_moves (s : State) (p : Nat) (b : List Byte) (ns : Nat) {k0 : Nat} {z0 : State} (hz : Moves k0 z0 s) (hk0 : 2424808 &&& k0 = 2424808) :
    Moves k0 z0 (linkMgmt s p b ns) := by
  refine hz.trans ?_
  clear hz
  unfold linkMgmt
  repeat' first
    | with_reducible exact Moves.refl _ _
    | with_reducible assumption
    | with_reducible exact mask_le hk0 (by decide)
    | with_reducible apply Moves.ite
    | with_reducible apply Moves.ite_fst
    | with_reducible (apply echoReceived_moves)
    | with_reducible (apply failXfers_moves)
    | with_reducible (apply helloReceived_moves)
    | with_reducible (apply helloReceived_pmoves; assumption)
    | with_reducible (apply lanesAckMessage_moves)
    | with_reducible (apply lanesMessage_moves)
    | with_reducible (apply linkBeat_moves)
    | with_reducible (apply quarantineReceived_moves)
    | with_reducible (apply quarantineReceived_pmoves; assumption)
    | with_reducible (apply Moves.foldl)
    | with_reducible (apply Moves.foldl_fst)
    | with_reducible (apply Moves.of_eq; assumption)
    | with_reducible intro _
    | dsimp only
    | split

theorem State.modIn_moves (s : State) (d : Nat) (f : Flit) (g : InMsg → InMsg) {k0 : Nat} {z0 : State} (hz : Moves k0 z0 s) (hk0 : 16384 &&& k0 = 16384) :
    Moves k0 z0 (State.modIn s d f g) := by
  refine hz.trans ?_
  clear hz
  unfold State.modIn
  repeat' first
    | with_reducible exact Moves.refl _ _
    | with_reducible assumption
    | with_reducible exact mask_le hk0 (by decide)
    | with_reducible apply Moves.ite
    | with_reducible apply Moves.ite_fst
    | with_reducible (apply State.modLink_moves)
    | with_reducible (apply Moves.foldl)
    | with_reducible (apply Moves.foldl_fst)
    | with_reducible (apply Moves.of_eq; assumption)
    | with_reducible intro _
    | dsimp only
    | split

theorem dropIn_moves (s : State) (d : Nat) (f : Flit) {k0 : Nat} {z0 : State} (hz : Moves k0 z0 s) (hk0 : 16384 &&& k0 = 16384) :
    Moves k0 z0 (dropIn s d f) := by
  refine hz.trans ?_
  clear hz
  unfold dropIn
  repeat' first
    | with_reducible exact Moves.refl _ _
    | with_reducible assumption
    | with_reducible exact mask_le hk0 (by decide)
    | with_reducible apply Moves.ite
    | with_reducible apply Moves.ite_fst
    | with_reducible (apply State.modLink_moves)
    | with_reducible (apply Moves.foldl)
    | with_reducible (apply Moves.foldl_fst)
    | with_reducible (apply Moves.of_eq; assumption)
    | with_reducible intro _
    | dsimp only
    | split

theorem placeFlit_moves (s : State) (d : Nat) (f : Flit) (m : InMsg) (n : Nat) (base : Nat) {k0 : Nat} {z0 : State} (hz : Moves k0 z0 s) (hk0 : 320968 &&& k0 = 320968) :
    Moves k0 z0 (placeFlit s d f m n base) := by
  refine hz.trans ?_
  clear hz
  unfold placeFlit
  repeat' first
    | with_reducible exact Moves.refl _ _
    | with_reducible assumption
    | with_reducible exact mask_le hk0 (by decide)
    | with_reducible apply Moves.ite
    | with_reducible apply Moves.ite_fst
    | with_reducible (apply State.modIn_moves)
    | with_reducible (apply refuseMessage_moves)
    | with_reducible (apply writeClaim_moves)
    | with_reducible (apply writeClaim_pmoves; assumption)
    | with_reducible (apply Moves.foldl)
    | with_reducible (apply Moves.foldl_fst)
    | with_reducible (apply Moves.of_eq; assumption)
    | with_reducible intro _
    | dsimp only
    | split

theorem takeIn_moves (s : State) (d : Nat) (p : Nat) (f : Flit) (m : InMsg) {k0 : Nat} {z0 : State} (hz : Moves k0 z0 s) (hk0 : 321482 &&& k0 = 321482) :
    Moves k0 z0 (takeIn s d p f m) := by
  refine hz.trans ?_
  clear hz
  unfold takeIn
  repeat' first
    | with_reducible exact Moves.refl _ _
    | with_reducible assumption
    | with_reducible exact mask_le hk0 (by decide)
    | with_reducible apply Moves.ite
    | with_reducible apply Moves.ite_fst
    | with_reducible (apply State.modGroup_moves)
    | with_reducible (apply closeHand_moves)
    | with_reducible (apply closePut_moves)
    | with_reducible (apply dropIn_moves)
    | with_reducible (apply owe_moves)
    | with_reducible (apply placeFlit_moves)
    | with_reducible (apply Moves.foldl)
    | with_reducible (apply Moves.foldl_fst)
    | with_reducible (apply Moves.of_eq; assumption)
    | with_reducible intro _
    | dsimp only
    | split

theorem pumpMsg_moves (x0 : Nat) (x1 : State) (x2 : Nat) (x3 : Flit) {k0 : Nat} {z0 : State} (hz : Moves k0 z0 x1) (hk0 : 321482 &&& k0 = 321482) :
    Moves k0 z0 (pumpMsg x0 x1 x2 x3) := by
  refine hz.trans ?_
  clear hz
  fun_induction pumpMsg x0 x1 x2 x3
  all_goals repeat' first
    | with_reducible exact Moves.refl _ _
    | with_reducible assumption
    | with_reducible (refine Moves.trans ?_ (by assumption))
    | with_reducible (refine Moves.trans ?_ (Moves.of_eq (by assumption) (by assumption)))
    | with_reducible exact mask_le hk0 (by decide)
    | with_reducible apply Moves.ite
    | with_reducible apply Moves.ite_fst
    | with_reducible (apply State.modIn_moves)
    | with_reducible (apply takeIn_moves)
    | with_reducible (apply Moves.foldl)
    | with_reducible (apply Moves.foldl_fst)
    | with_reducible (apply Moves.of_eq; assumption)
    | with_reducible intro _
    | dsimp only
    | split

theorem pump_moves (s : State) (d : Nat) (f : Flit) {k0 : Nat} {z0 : State} (hz : Moves k0 z0 s) (hk0 : 321482 &&& k0 = 321482) :
    Moves k0 z0 (pump s d f) := by
  refine hz.trans ?_
  clear hz
  unfold pump
  repeat' first
    | with_reducible exact Moves.refl _ _
    | with_reducible assumption
    | with_reducible exact mask_le hk0 (by decide)
    | with_reducible apply Moves.ite
    | with_reducible apply Moves.ite_fst
    | with_reducible (apply pumpMsg_moves)
    | with_reducible (apply Moves.foldl)
    | with_reducible (apply Moves.foldl_fst)
    | with_reducible (apply Moves.of_eq; assumption)
    | with_reducible intro _
    | dsimp only
    | split

theorem pumpAll_moves (s : State) {k0 : Nat} {z0 : State} (hz : Moves k0 z0 s) (hk0 : 321482 &&& k0 = 321482) :
    Moves k0 z0 (pumpAll s) := by
  refine hz.trans ?_
  clear hz
  unfold pumpAll
  repeat' first
    | with_reducible exact Moves.refl _ _
    | with_reducible assumption
    | with_reducible exact mask_le hk0 (by decide)
    | with_reducible apply Moves.ite
    | with_reducible apply Moves.ite_fst
    | with_reducible (apply pump_moves)
    | with_reducible (apply Moves.foldl)
    | with_reducible (apply Moves.foldl_fst)
    | with_reducible (apply Moves.of_eq; assumption)
    | with_reducible intro _
    | dsimp only
    | split

theorem beginMessage_moves (s : State) (h : MsgHeader) (redealt : Bool) {k0 : Nat} {z0 : State} (hz : Moves k0 z0 s) (hk0 : 49152 &&& k0 = 49152) :
    Moves k0 z0 (beginMessage s h redealt).1 := by
  refine hz.trans ?_
  clear hz
  unfold beginMessage
  repeat' first
    | with_reducible exact Moves.refl _ _
    | with_reducible assumption
    | with_reducible exact mask_le hk0 (by decide)
    | with_reducible apply Moves.ite
    | with_reducible apply Moves.ite_fst
    | with_reducible (apply answerRedealing_moves)
    | with_reducible (apply beginHand_moves)
    | with_reducible (apply beginHand_pmoves; assumption)
    | with_reducible (apply beginPut_moves)
    | with_reducible (apply beginPut_pmoves; assumption)
    | with_reducible (apply Moves.foldl)
    | with_reducible (apply Moves.foldl_fst)
    | with_reducible (apply Moves.of_eq; assumption)
    | with_reducible intro _
    | dsimp only
    | split

theorem beginMessage_pmoves (s : State) (h : MsgHeader) (redealt : Bool) {z1 : State} {y1 : InMode} (he : (beginMessage s h redealt) = (z1, y1)) {k0 : Nat} {z0 : State} (hz : Moves k0 z0 s) (hk0 : 49152 &&& k0 = 49152) :
    Moves k0 z0 z1 := by
  simpa only [he] using beginMessage_moves s h redealt hz hk0

theorem openMessage_moves (s : State) (d : Nat) (p : Nat) (f : Flit) {k0 : Nat} {z0 : State} (hz : Moves k0 z0 s) (hk0 : 321482 &&& k0 = 321482) :
    Moves k0 z0 (openMessage s d p f) := by
  refine hz.trans ?_
  clear hz
  unfold openMessage
  repeat' first
    | with_reducible exact Moves.refl _ _
    | with_reducible assumption
    | with_reducible exact mask_le hk0 (by decide)
    | with_reducible apply Moves.ite
    | with_reducible apply Moves.ite_fst
    | with_reducible (apply State.modIn_moves)
    | with_reducible (apply State.modLink_moves)
    | with_reducible (apply beginMessage_moves)
    | with_reducible (apply beginMessage_pmoves; assumption)
    | with_reducible (apply cutThrough_moves)
    | with_reducible (apply cutThrough_pmoves; assumption)
    | with_reducible (apply pump_moves)
    | with_reducible (apply Moves.foldl)
    | with_reducible (apply Moves.foldl_fst)
    | with_reducible (apply Moves.of_eq; assumption)
    | with_reducible intro _
    | dsimp only
    | split

theorem messageFlit_moves (s : State) (d : Nat) (p : Nat) (f : Flit) {k0 : Nat} {z0 : State} (hz : Moves k0 z0 s) (hk0 : 321482 &&& k0 = 321482) :
    Moves k0 z0 (messageFlit s d p f) := by
  refine hz.trans ?_
  clear hz
  unfold messageFlit
  repeat' first
    | with_reducible exact Moves.refl _ _
    | with_reducible assumption
    | with_reducible exact mask_le hk0 (by decide)
    | with_reducible apply Moves.ite
    | with_reducible apply Moves.ite_fst
    | with_reducible (apply State.modIn_moves)
    | with_reducible (apply State.modLink_moves)
    | with_reducible (apply cutThrough_moves)
    | with_reducible (apply cutThrough_pmoves; assumption)
    | with_reducible (apply messageForUs_moves)
    | with_reducible (apply openMessage_moves)
    | with_reducible (apply owe_moves)
    | with_reducible (apply pump_moves)
    | with_reducible (apply Moves.foldl)
    | with_reducible (apply Moves.foldl_fst)
    | with_reducible (apply Moves.of_eq; assumption)
    | with_reducible intro _
    | dsimp only
    | split

theorem flitPayload_moves (s : State) (p : Nat) (f : Flit) (dest : Seat) (ns : Nat) {k0 : Nat} {z0 : State} (hz : Moves k0 z0 s) (hk0 : 2424810 &&& k0 = 2424810) :
    Moves k0 z0 (flitPayload s p f dest ns) := by
  refine hz.trans ?_
  clear hz
  unfold flitPayload
  repeat' first
    | with_reducible exact Moves.refl _ _
    | with_reducible assumption
    | with_reducible exact mask_le hk0 (by decide)
    | with_reducible apply Moves.ite
    | with_reducible apply Moves.ite_fst
    | with_reducible (apply State.modPort_moves)
    | with_reducible (apply cutThrough_moves)
    | with_reducible (apply cutThrough_pmoves; assumption)
    | with_reducible (apply linkMgmt_moves)
    | with_reducible (apply messageFlit_moves)
    | with_reducible (apply owe_moves)
    | with_reducible (apply trickMsg_moves)
    | with_reducible (apply Moves.foldl)
    | with_reducible (apply Moves.foldl_fst)
    | with_reducible (apply Moves.of_eq; assumption)
    | with_reducible intro _
    | dsimp only
    | split

theorem acceptFlit_moves (s : State) (p : Nat) (i : Nat) (seq : Nat) {k0 : Nat} {z0 : State} (hz : Moves k0 z0 s) (hk0 : 16384 &&& k0 = 16384) :
    Moves k0 z0 (acceptFlit s p i seq) := by
  refine hz.trans ?_
  clear hz
  unfold acceptFlit
  repeat' first
    | with_reducible exact Moves.refl _ _
    | with_reducible assumption
    | with_reducible exact mask_le hk0 (by decide)
    | with_reducible apply Moves.ite
    | with_reducible apply Moves.ite_fst
    | with_reducible (apply State.modPort_moves)
    | with_reducible (apply Moves.foldl)
    | with_reducible (apply Moves.foldl_fst)
    | with_reducible (apply Moves.of_eq; assumption)
    | with_reducible intro _
    | dsimp only
    | split

theorem nakReceived_moves (s : State) (p : Nat) (i : Nat) (ack : Nat) {k0 : Nat} {z0 : State} (hz : Moves k0 z0 s) (hk0 : 313288 &&& k0 = 313288) :
    Moves k0 z0 (nakReceived s p i ack) := by
  refine hz.trans ?_
  clear hz
  unfold nakReceived
  repeat' first
    | with_reducible exact Moves.refl _ _
    | with_reducible assumption
    | with_reducible exact mask_le hk0 (by decide)
    | with_reducible apply Moves.ite
    | with_reducible apply Moves.ite_fst
    | with_reducible (apply applyAck_moves)
    | with_reducible (apply laneFailure_moves)
    | with_reducible (apply replay_moves)
    | with_reducible (apply Moves.foldl)
    | with_reducible (apply Moves.foldl_fst)
    | with_reducible (apply Moves.of_eq; assumption)
    | with_reducible intro _
    | dsimp only
    | split

theorem flitReceived_moves (s : State) (p : Nat) (i : Nat) (b : List Byte) (dest : Seat) (ns : Nat) {k0 : Nat} {z0 : State} (hz : Moves k0 z0 s) (hk0 : 2424810 &&& k0 = 2424810) :
    Moves k0 z0 (flitReceived s p i b dest ns) := by
  refine hz.trans ?_
  clear hz
  unfold flitReceived
  repeat' first
    | with_reducible exact Moves.refl _ _
    | with_reducible assumption
    | with_reducible exact mask_le hk0 (by decide)
    | with_reducible apply Moves.ite
    | with_reducible apply Moves.ite_fst
    | with_reducible (apply State.modPort_moves)
    | with_reducible (apply acceptFlit_moves)
    | with_reducible (apply applyAck_moves)
    | with_reducible (apply applyCredits_moves)
    | with_reducible (apply flitPayload_moves)
    | with_reducible (apply nakReceived_moves)
    | with_reducible (apply owe_moves)
    | with_reducible (apply sendNak_moves)
    | with_reducible (apply Moves.foldl)
    | with_reducible (apply Moves.foldl_fst)
    | with_reducible (apply Moves.of_eq; assumption)
    | with_reducible intro _
    | dsimp only
    | split

theorem replayLimit_moves (s : State) (p : Nat) (i : Nat) {k0 : Nat} {z0 : State} (hz : Moves k0 z0 s) (hk0 : 313288 &&& k0 = 313288) :
    Moves k0 z0 (replayLimit s p i) := by
  refine hz.trans ?_
  clear hz
  unfold replayLimit
  repeat' first
    | with_reducible exact Moves.refl _ _
    | with_reducible assumption
    | with_reducible exact mask_le hk0 (by decide)
    | with_reducible apply Moves.ite
    | with_reducible apply Moves.ite_fst
    | with_reducible (apply laneFailure_moves)
    | with_reducible (apply Moves.foldl)
    | with_reducible (apply Moves.foldl_fst)
    | with_reducible (apply Moves.of_eq; assumption)
    | with_reducible intro _
    | dsimp only
    | split

theorem trainDown_moves (s : State) (p : Nat) (t : TrainResult) {k0 : Nat} {z0 : State} (hz : Moves k0 z0 s) (hk0 : 279624 &&& k0 = 279624) :
    Moves k0 z0 (trainDown s p t) := by
  refine hz.trans ?_
  clear hz
  unfold trainDown
  repeat' first
    | with_reducible exact Moves.refl _ _
    | with_reducible assumption
    | with_reducible exact mask_le hk0 (by decide)
    | with_reducible apply Moves.ite
    | with_reducible apply Moves.ite_fst
    | with_reducible (apply trainPort_moves)
    | with_reducible (apply Moves.foldl)
    | with_reducible (apply Moves.foldl_fst)
    | with_reducible (apply Moves.of_eq; assumption)
    | with_reducible intro _
    | dsimp only
    | split

theorem trainTimeout_moves (s : State) (p : Nat) {k0 : Nat} {z0 : State} (hz : Moves k0 z0 s) (hk0 : 313288 &&& k0 = 313288) :
    Moves k0 z0 (trainTimeout s p) := by
  refine hz.trans ?_
  clear hz
  unfold trainTimeout
  repeat' first
    | with_reducible exact Moves.refl _ _
    | with_reducible assumption
    | with_reducible exact mask_le hk0 (by decide)
    | with_reducible apply Moves.ite
    | with_reducible apply Moves.ite_fst
    | with_reducible (apply failXfers_moves)
    | with_reducible (apply leaveGroup_moves)
    | with_reducible (apply leaveGroup_pmoves; assumption)
    | with_reducible (apply Moves.foldl)
    | with_reducible (apply Moves.foldl_fst)
    | with_reducible (apply Moves.of_eq; assumption)
    | with_reducible intro _
    | dsimp only
    | split

theorem portRetrain_moves (s : State) (p : Nat) (t : TrainResult) {k0 : Nat} {z0 : State} (hz : Moves k0 z0 s) (hk0 : 313288 &&& k0 = 313288) :
    Moves k0 z0 (portRetrain s p t) := by
  refine hz.trans ?_
  clear hz
  unfold portRetrain
  repeat' first
    | with_reducible exact Moves.refl _ _
    | with_reducible assumption
    | with_reducible exact mask_le hk0 (by decide)
    | with_reducible apply Moves.ite
    | with_reducible apply Moves.ite_fst
    | with_reducible (apply failXfers_moves)
    | with_reducible (apply leaveGroup_moves)
    | with_reducible (apply leaveGroup_pmoves; assumption)
    | with_reducible (apply trainPort_moves)
    | with_reducible (apply Moves.foldl)
    | with_reducible (apply Moves.foldl_fst)
    | with_reducible (apply Moves.of_eq; assumption)
    | with_reducible intro _
    | dsimp only
    | split

theorem szlpFails_moves (s : State) (i : Nat) {k0 : Nat} {z0 : State} (hz : Moves k0 z0 s) (hk0 : 323544 &&& k0 = 323544) :
    Moves k0 z0 (szlpFails s i) := by
  refine hz.trans ?_
  clear hz
  unfold szlpFails
  repeat' first
    | with_reducible exact Moves.refl _ _
    | with_reducible assumption
    | with_reducible exact mask_le hk0 (by decide)
    | with_reducible apply Moves.ite
    | with_reducible apply Moves.ite_fst
    | with_reducible (apply State.modLink_moves)
    | with_reducible (apply runtimeFailed_moves)
    | with_reducible (apply szlpEvent_moves)
    | with_reducible (apply Moves.foldl)
    | with_reducible (apply Moves.foldl_fst)
    | with_reducible (apply Moves.of_eq; assumption)
    | with_reducible intro _
    | dsimp only
    | split

theorem szlpRetrain_moves (s : State) (i : Nat) (ok : Bool) {k0 : Nat} {z0 : State} (hz : Moves k0 z0 s) (hk0 : 279624 &&& k0 = 279624) :
    Moves k0 z0 (szlpRetrain s i ok) := by
  refine hz.trans ?_
  clear hz
  unfold szlpRetrain
  repeat' first
    | with_reducible exact Moves.refl _ _
    | with_reducible assumption
    | with_reducible exact mask_le hk0 (by decide)
    | with_reducible apply Moves.ite
    | with_reducible apply Moves.ite_fst
    | with_reducible (apply State.modLink_moves)
    | with_reducible (apply szlpEvent_moves)
    | with_reducible (apply Moves.foldl)
    | with_reducible (apply Moves.foldl_fst)
    | with_reducible (apply Moves.of_eq; assumption)
    | with_reducible intro _
    | dsimp only
    | split

end Sys2Proof.Machine
end

