-- ==== Sys2Proof/Laws/MovesExpiry.lean ====
section
/-! SUPPORT. What each operation of Machine/Expiry.lean may change. -/

set_option linter.unreachableTactic false
set_option linter.unusedTactic false
set_option linter.unusedVariables false

namespace Sys2Proof.Machine

theorem timersExpire_moves (s : State) (activeUs : Nat) (xs : List (Nat × Nat × Nat)) (finish : Bool) {k0 : Nat} {z0 : State} (hz : Moves k0 z0 s) (hk0 : 3665914 &&& k0 = 3665914) :
    Moves k0 z0 (timersExpire s activeUs xs finish) := by
  refine hz.trans ?_
  clear hz
  unfold timersExpire
  repeat' first
    | with_reducible exact Moves.refl _ _
    | with_reducible assumption
    | with_reducible exact mask_le hk0 (by decide)
    | with_reducible apply Moves.ite
    | with_reducible apply Moves.ite_fst
    | with_reducible (apply State.modItem_moves)
    | with_reducible (apply startRedeal_moves)
    | with_reducible (apply Moves.foldl)
    | with_reducible (apply Moves.foldl_fst)
    | with_reducible (apply Moves.of_eq; assumption)
    | with_reducible intro _
    | dsimp only
    | split

theorem laneExpires_moves (s : State) (lane : Nat) (mid : Nat) (finish : Bool) {k0 : Nat} {z0 : State} (hz : Moves k0 z0 s) (hk0 : 3665914 &&& k0 = 3665914) :
    Moves k0 z0 (laneExpires s lane mid finish) := by
  refine hz.trans ?_
  clear hz
  unfold laneExpires
  repeat' first
    | with_reducible exact Moves.refl _ _
    | with_reducible assumption
    | with_reducible exact mask_le hk0 (by decide)
    | with_reducible apply Moves.ite
    | with_reducible apply Moves.ite_fst
    | with_reducible (apply startRedeal_moves)
    | with_reducible (apply Moves.foldl)
    | with_reducible (apply Moves.foldl_fst)
    | with_reducible (apply Moves.of_eq; assumption)
    | with_reducible intro _
    | dsimp only
    | split

theorem moderationEnds_moves (s : State) (shoe : Nat) {k0 : Nat} {z0 : State} (hz : Moves k0 z0 s) (hk0 : 1160 &&& k0 = 1160) :
    Moves k0 z0 (moderationEnds s shoe) := by
  refine hz.trans ?_
  clear hz
  unfold moderationEnds
  repeat' first
    | with_reducible exact Moves.refl _ _
    | with_reducible assumption
    | with_reducible exact mask_le hk0 (by decide)
    | with_reducible apply Moves.ite
    | with_reducible apply Moves.ite_fst
    | with_reducible (apply State.modShoe_moves)
    | with_reducible (apply raiseSource_moves)
    | with_reducible (apply Moves.foldl)
    | with_reducible (apply Moves.foldl_fst)
    | with_reducible (apply Moves.of_eq; assumption)
    | with_reducible intro _
    | dsimp only
    | split

theorem requestsChange_moves (s : State) (fn : Nat) (f : Fn → Fn) (r : HostResp) (feeds : List (Nat × HostResp × HostResp)) {k0 : Nat} {z0 : State} (hz : Moves k0 z0 s) (hk0 : 1894344 &&& k0 = 1894344) :
    Moves k0 z0 (requestsChange s fn f r feeds) := by
  refine hz.trans ?_
  clear hz
  unfold requestsChange
  repeat' first
    | with_reducible exact Moves.refl _ _
    | with_reducible assumption
    | with_reducible exact mask_le hk0 (by decide)
    | with_reducible apply Moves.ite
    | with_reducible apply Moves.ite_fst
    | with_reducible (apply State.modFn_moves)
    | with_reducible (apply flushEvents_moves)
    | with_reducible (apply msixFlush_moves)
    | with_reducible (apply qpResume_moves)
    | with_reducible (apply qpsRun_moves)
    | with_reducible (apply writeOutcomes_moves)
    | with_reducible (apply Moves.foldl)
    | with_reducible (apply Moves.foldl_fst)
    | with_reducible (apply Moves.of_eq; assumption)
    | with_reducible intro _
    | dsimp only
    | split

end Sys2Proof.Machine
end

