-- ==== Sys2Proof/Laws/MovesTileOps.lean ====
section
/-! SUPPORT. What each operation of Machine/TileOps.lean may change. -/

set_option linter.unreachableTactic false
set_option linter.unusedTactic false
set_option linter.unusedVariables false

namespace Sys2Proof.Machine

theorem failOwner_moves (s : State) (m : MacroInst) (cause : Nat) (detail : Nat) {k0 : Nat} {z0 : State} (hz : Moves k0 z0 s) (hk0 : 51080 &&& k0 = 51080) :
    Moves k0 z0 (failOwner s m cause detail) := by
  refine hz.trans ?_
  clear hz
  unfold failOwner
  repeat' first
    | with_reducible exact Moves.refl _ _
    | with_reducible assumption
    | with_reducible exact mask_le hk0 (by decide)
    | with_reducible apply Moves.ite
    | with_reducible apply Moves.ite_fst
    | with_reducible (apply failAt_moves)
    | with_reducible (apply failRound_moves)
    | with_reducible (apply Moves.foldl)
    | with_reducible (apply Moves.foldl_fst)
    | with_reducible (apply Moves.of_eq; assumption)
    | with_reducible intro _
    | dsimp only
    | split

theorem macroMalformed_moves (shoe : Nat) (seq : Nat) (l : Nat) (g : Nat) (s : State) {k0 : Nat} {z0 : State} (hz : Moves k0 z0 s) (hk0 : 3665914 &&& k0 = 3665914) :
    Moves k0 z0 (macroMalformed shoe seq l g s) := by
  refine hz.trans ?_
  clear hz
  unfold macroMalformed
  repeat' first
    | with_reducible exact Moves.refl _ _
    | with_reducible assumption
    | with_reducible exact mask_le hk0 (by decide)
    | with_reducible apply Moves.ite
    | with_reducible apply Moves.ite_fst
    | with_reducible (apply failAt_moves)
    | with_reducible (apply levelFault_moves)
    | with_reducible (apply Moves.foldl)
    | with_reducible (apply Moves.foldl_fst)
    | with_reducible (apply Moves.of_eq; assumption)
    | with_reducible intro _
    | dsimp only
    | split

theorem macroDispatch_moves (s : State) (shoe : Nat) (seq : Nat) (l : Nat) (g : Nat) {k0 : Nat} {z0 : State} (hz : Moves k0 z0 s) (hk0 : 3665914 &&& k0 = 3665914) :
    Moves k0 z0 (macroDispatch s shoe seq l g) := by
  refine hz.trans ?_
  clear hz
  unfold macroDispatch
  repeat' first
    | with_reducible exact Moves.refl _ _
    | with_reducible assumption
    | with_reducible exact mask_le hk0 (by decide)
    | with_reducible apply Moves.ite
    | with_reducible apply Moves.ite_fst
    | with_reducible (apply dispatchMacro_moves)
    | with_reducible (apply macroMalformed_moves)
    | with_reducible (apply Moves.foldl)
    | with_reducible (apply Moves.foldl_fst)
    | with_reducible (apply Moves.of_eq; assumption)
    | with_reducible intro _
    | dsimp only
    | split

theorem macroStart_moves (s : State) (mid : Nat) {k0 : Nat} {z0 : State} (hz : Moves k0 z0 s) (hk0 : 321480 &&& k0 = 321480) :
    Moves k0 z0 (macroStart s mid) := by
  refine hz.trans ?_
  clear hz
  unfold macroStart
  repeat' first
    | with_reducible exact Moves.refl _ _
    | with_reducible assumption
    | with_reducible exact mask_le hk0 (by decide)
    | with_reducible apply Moves.ite
    | with_reducible apply Moves.ite_fst
    | with_reducible (apply failOwner_moves)
    | with_reducible (apply startMacro_moves)
    | with_reducible (apply startMacro_pmoves; assumption)
    | with_reducible (apply Moves.foldl)
    | with_reducible (apply Moves.foldl_fst)
    | with_reducible (apply Moves.of_eq; assumption)
    | with_reducible intro _
    | dsimp only
    | split

theorem fencedOut_moves (s : State) (mid : Nat) {k0 : Nat} {z0 : State} (hz : Moves k0 z0 s) (hk0 : 51080 &&& k0 = 51080) :
    Moves k0 z0 (fencedOut s mid) := by
  refine hz.trans ?_
  clear hz
  unfold fencedOut
  repeat' first
    | with_reducible exact Moves.refl _ _
    | with_reducible assumption
    | with_reducible exact mask_le hk0 (by decide)
    | with_reducible apply Moves.ite
    | with_reducible apply Moves.ite_fst
    | with_reducible (apply failOwner_moves)
    | with_reducible (apply Moves.foldl)
    | with_reducible (apply Moves.foldl_fst)
    | with_reducible (apply Moves.of_eq; assumption)
    | with_reducible intro _
    | dsimp only
    | split

theorem fencedRounds_moves (s : State) (c : Nat) {k0 : Nat} {z0 : State} (hz : Moves k0 z0 s) (hk0 : 51080 &&& k0 = 51080) :
    Moves k0 z0 (fencedRounds s c) := by
  refine hz.trans ?_
  clear hz
  unfold fencedRounds
  repeat' first
    | with_reducible exact Moves.refl _ _
    | with_reducible assumption
    | with_reducible exact mask_le hk0 (by decide)
    | with_reducible apply Moves.ite
    | with_reducible apply Moves.ite_fst
    | with_reducible (apply roundCoreFenced_moves)
    | with_reducible (apply Moves.foldl)
    | with_reducible (apply Moves.foldl_fst)
    | with_reducible (apply Moves.of_eq; assumption)
    | with_reducible intro _
    | dsimp only
    | split

theorem tileEnd_moves (c : Nat) (ns : Nat) (s : State) {k0 : Nat} {z0 : State} (hz : Moves k0 z0 s) (hk0 : 518088 &&& k0 = 518088) :
    Moves k0 z0 (tileEnd c ns s) := by
  refine hz.trans ?_
  clear hz
  unfold tileEnd
  repeat' first
    | with_reducible exact Moves.refl _ _
    | with_reducible assumption
    | with_reducible exact mask_le hk0 (by decide)
    | with_reducible apply Moves.ite
    | with_reducible apply Moves.ite_fst
    | with_reducible (apply coreNext_moves)
    | with_reducible (apply endStep_moves)
    | with_reducible (apply failOwner_moves)
    | with_reducible (apply fencedOut_moves)
    | with_reducible (apply fencedRounds_moves)
    | with_reducible (apply groupEnd_moves)
    | with_reducible (apply groupEnd_pmoves; assumption)
    | with_reducible (apply leaveFailed_moves)
    | with_reducible (apply Moves.foldl)
    | with_reducible (apply Moves.foldl_fst)
    | with_reducible (apply Moves.of_eq; assumption)
    | with_reducible intro _
    | dsimp only
    | split

theorem tileGroupEnd_moves (s : State) (c : Nat) (ns : Nat) {k0 : Nat} {z0 : State} (hz : Moves k0 z0 s) (hk0 : 518088 &&& k0 = 518088) :
    Moves k0 z0 (tileGroupEnd s c ns) := by
  refine hz.trans ?_
  clear hz
  unfold tileGroupEnd
  repeat' first
    | with_reducible exact Moves.refl _ _
    | with_reducible assumption
    | with_reducible exact mask_le hk0 (by decide)
    | with_reducible apply Moves.ite
    | with_reducible apply Moves.ite_fst
    | with_reducible (apply afterMoves_moves)
    | with_reducible (apply tileEnd_moves)
    | with_reducible (apply Moves.foldl)
    | with_reducible (apply Moves.foldl_fst)
    | with_reducible (apply Moves.of_eq; assumption)
    | with_reducible intro _
    | dsimp only
    | split

theorem macroComplete_moves (s : State) (mid : Nat) {k0 : Nat} {z0 : State} (hz : Moves k0 z0 s) (hk0 : 321480 &&& k0 = 321480) :
    Moves k0 z0 (macroComplete s mid) := by
  refine hz.trans ?_
  clear hz
  unfold macroComplete
  repeat' first
    | with_reducible exact Moves.refl _ _
    | with_reducible assumption
    | with_reducible exact mask_le hk0 (by decide)
    | with_reducible apply Moves.ite
    | with_reducible apply Moves.ite_fst
    | with_reducible (apply State.modEcc_moves)
    | with_reducible (apply failOwner_moves)
    | with_reducible (apply finishPart_moves)
    | with_reducible (apply roundMacroDone_moves)
    | with_reducible (apply Moves.foldl)
    | with_reducible (apply Moves.foldl_fst)
    | with_reducible (apply Moves.of_eq; assumption)
    | with_reducible intro _
    | dsimp only
    | split

theorem roundArm_moves (s : State) (shoe : Nat) (seq : Nat) (l : Nat) (g : Nat) (b : List Byte) {k0 : Nat} {z0 : State} (hz : Moves k0 z0 s) (hk0 : 321480 &&& k0 = 321480) :
    Moves k0 z0 (roundArm s shoe seq l g b) := by
  refine hz.trans ?_
  clear hz
  unfold roundArm
  repeat' first
    | with_reducible exact Moves.refl _ _
    | with_reducible assumption
    | with_reducible exact mask_le hk0 (by decide)
    | with_reducible apply Moves.ite
    | with_reducible apply Moves.ite_fst
    | with_reducible (apply doneCmd_moves)
    | with_reducible (apply failAt_moves)
    | with_reducible (apply tryArm_moves)
    | with_reducible (apply tryArm_pmoves; assumption)
    | with_reducible (apply Moves.foldl)
    | with_reducible (apply Moves.foldl_fst)
    | with_reducible (apply Moves.of_eq; assumption)
    | with_reducible intro _
    | dsimp only
    | split

theorem roundDisarm_moves (s : State) (shoe : Nat) (seq : Nat) (l : Nat) (g : Nat) (b : List Byte) {k0 : Nat} {z0 : State} (hz : Moves k0 z0 s) (hk0 : 51080 &&& k0 = 51080) :
    Moves k0 z0 (roundDisarm s shoe seq l g b) := by
  refine hz.trans ?_
  clear hz
  unfold roundDisarm
  repeat' first
    | with_reducible exact Moves.refl _ _
    | with_reducible assumption
    | with_reducible exact mask_le hk0 (by decide)
    | with_reducible apply Moves.ite
    | with_reducible apply Moves.ite_fst
    | with_reducible (apply disarmRound_moves)
    | with_reducible (apply disarmRound_pmoves; assumption)
    | with_reducible (apply doneCmd_moves)
    | with_reducible (apply failAt_moves)
    | with_reducible (apply Moves.foldl)
    | with_reducible (apply Moves.foldl_fst)
    | with_reducible (apply Moves.of_eq; assumption)
    | with_reducible intro _
    | dsimp only
    | split

end Sys2Proof.Machine
end

