-- ==== Sys2Proof/Laws/MovesAnswer.lean ====
section
/-! SUPPORT. What each operation of Machine/Answer.lean may change. -/

set_option linter.unreachableTactic false
set_option linter.unusedTactic false
set_option linter.unusedVariables false

namespace Sys2Proof.Machine

/-- An answer is a next state that keeps to a mask. -/
def Answers (m : Nat) (s : State) (a : Answer) : Prop := ∃ t, a = .next t ∧ Moves m s t

theorem always_ans {k : State → State} {s : State} {k0 : Nat} (h : Moves k0 s (k s)) : Answers k0 s (always k s) := ⟨_, rfl, h⟩

theorem onDies_ans {k : State → State} {s : State} {k0 : Nat} (h : Moves k0 s (k s)) : Answers k0 s (onDies k s) :=
  ⟨_, rfl, Moves.ite h (Moves.refl _ _)⟩

theorem onRun_ans {k : State → State} {s : State} {k0 : Nat} (h : Moves k0 s (k s)) : Answers k0 s (onRun k s) :=
  ⟨_, rfl, Moves.ite h (Moves.refl _ _)⟩

theorem onHost_ans {k : State → State} {s : State} {k0 : Nat} (h : Moves k0 s (k s)) : Answers k0 s (onHost k s) :=
  ⟨_, rfl, Moves.ite h (Moves.refl _ _)⟩

theorem withCmd_moves (s : State) (shoe : Nat) (seq : Nat) (l : Nat) (op : Nat) (k : Nat → List Byte → State) {k0 : Nat} {z0 : State} (hz : Moves k0 z0 s) (hk0 : 0 &&& k0 = 0) (hk_k : ∀ (v0 : Nat) (v1 : List Byte), Moves k0 z0 (k v0 v1)) :
    Moves k0 z0 (withCmd s shoe seq l op k) := by
  unfold withCmd
  repeat' first
    | with_reducible exact Moves.refl _ _
    | with_reducible assumption
    | with_reducible exact mask_le hk0 (by decide)
    | with_reducible apply Moves.ite
    | with_reducible apply Moves.ite_fst
    | with_reducible (apply hk_k)
    | with_reducible (apply Moves.foldl)
    | with_reducible (apply Moves.foldl_fst)
    | with_reducible (apply Moves.of_eq; assumption)
    | with_reducible intro _
    | dsimp only
    | split

theorem startOf_ans (shoe : Nat) (seq : Nat) (l : Nat) (op : Nat) (k : State → State) (s : State) {k0 : Nat} (hk0 : 66760 &&& k0 = 66760) (hk_k : ∀ (v0 : State), Moves k0 v0 (k v0)) :
    Answers k0 s (startOf shoe seq l op k s) := by
  unfold startOf
  repeat' first
    | with_reducible exact Moves.refl _ _
    | with_reducible assumption
    | with_reducible exact mask_le hk0 (by decide)
    | with_reducible apply Moves.ite
    | with_reducible apply Moves.ite_fst
    | with_reducible (refine Moves.trans ?_ (hk_k ..))
    | with_reducible (apply gate_moves)
    | with_reducible (apply onDies_ans)
    | with_reducible (apply Moves.foldl)
    | with_reducible (apply Moves.foldl_fst)
    | with_reducible (apply Moves.of_eq; assumption)
    | with_reducible intro _
    | dsimp only
    | split

theorem cmdAtGate_moves (shoe : Nat) (seq : Nat) (l : Nat) (g : Nat) (op : Nat) (k : State → State) (s : State) {k0 : Nat} {z0 : State} (hz : Moves k0 z0 s) (hk0 : 66760 &&& k0 = 66760) (hk_k : ∀ (v0 : State), Moves k0 v0 (k v0)) :
    Moves k0 z0 (cmdAtGate shoe seq l g op k s) := by
  refine hz.trans ?_
  clear hz
  unfold cmdAtGate
  repeat' first
    | with_reducible exact Moves.refl _ _
    | with_reducible assumption
    | with_reducible exact mask_le hk0 (by decide)
    | with_reducible apply Moves.ite
    | with_reducible apply Moves.ite_fst
    | with_reducible (refine Moves.trans ?_ (hk_k ..))
    | with_reducible (apply gate_moves)
    | with_reducible (apply Moves.foldl)
    | with_reducible (apply Moves.foldl_fst)
    | with_reducible (apply Moves.of_eq; assumption)
    | with_reducible intro _
    | dsimp only
    | split

theorem startAt_ans (shoe : Nat) (seq : Nat) (l : Nat) (g : Nat) (op : Nat) (k : State → State) (s : State) {k0 : Nat} (hk0 : 66760 &&& k0 = 66760) (hk_k : ∀ (v0 : State), Moves k0 v0 (k v0)) :
    Answers k0 s (startAt shoe seq l g op k s) := by
  unfold startAt
  repeat' first
    | with_reducible exact Moves.refl _ _
    | with_reducible assumption
    | with_reducible exact mask_le hk0 (by decide)
    | with_reducible apply Moves.ite
    | with_reducible apply Moves.ite_fst
    | with_reducible (refine Moves.trans ?_ (hk_k ..))
    | with_reducible (apply cmdAtGate_moves)
    | with_reducible (apply onDies_ans)
    | with_reducible (apply Moves.foldl)
    | with_reducible (apply Moves.foldl_fst)
    | with_reducible (apply Moves.of_eq; assumption)
    | with_reducible intro _
    | dsimp only
    | split

theorem startMacroCmd_ans (shoe : Nat) (seq : Nat) (l : Nat) (code : Nat) (s : State) {k0 : Nat} (hk0 : 66760 &&& k0 = 66760) :
    Answers k0 s (startMacroCmd shoe seq l code s) := by
  unfold startMacroCmd
  repeat' first
    | with_reducible exact Moves.refl _ _
    | with_reducible assumption
    | with_reducible exact mask_le hk0 (by decide)
    | with_reducible apply Moves.ite
    | with_reducible apply Moves.ite_fst
    | with_reducible (apply gate_moves)
    | with_reducible (apply macroCmd_moves)
    | with_reducible (apply onDies_ans)
    | with_reducible (apply Moves.foldl)
    | with_reducible (apply Moves.foldl_fst)
    | with_reducible (apply Moves.of_eq; assumption)
    | with_reducible intro _
    | dsimp only
    | split

theorem startTally_ans (shoe : Nat) (seq : Nat) (l : Nat) (op : Nat) (s : State) {k0 : Nat} (hk0 : 116424 &&& k0 = 116424) :
    Answers k0 s (startTally shoe seq l op s) := by
  unfold startTally
  repeat' first
    | with_reducible exact Moves.refl _ _
    | with_reducible assumption
    | with_reducible exact mask_le hk0 (by decide)
    | with_reducible apply Moves.ite
    | with_reducible apply Moves.ite_fst
    | with_reducible (apply gate_moves)
    | with_reducible (apply onDies_ans)
    | with_reducible (apply tallyCmd_moves)
    | with_reducible (apply Moves.foldl)
    | with_reducible (apply Moves.foldl_fst)
    | with_reducible (apply Moves.of_eq; assumption)
    | with_reducible intro _
    | dsimp only
    | split

theorem startPage_ans (shoe : Nat) (seq : Nat) (l : Nat) (op : Nat) (s : State) {k0 : Nat} (hk0 : 67016 &&& k0 = 67016) :
    Answers k0 s (startPage shoe seq l op s) := by
  unfold startPage
  repeat' first
    | with_reducible exact Moves.refl _ _
    | with_reducible assumption
    | with_reducible exact mask_le hk0 (by decide)
    | with_reducible apply Moves.ite
    | with_reducible apply Moves.ite_fst
    | with_reducible (apply gate_moves)
    | with_reducible (apply onDies_ans)
    | with_reducible (apply pageCmd_moves)
    | with_reducible (apply Moves.foldl)
    | with_reducible (apply Moves.foldl_fst)
    | with_reducible (apply Moves.of_eq; assumption)
    | with_reducible intro _
    | dsimp only
    | split

end Sys2Proof.Machine
end

