-- ==== Sys2Proof/Laws/MovesAssayCmds.lean ====
section
/-! SUPPORT. What each operation of Machine/AssayCmds.lean may change. -/

set_option linter.unreachableTactic false
set_option linter.unusedTactic false
set_option linter.unusedVariables false

namespace Sys2Proof.Machine

theorem execAssaySearch_ans (shoe : Nat) (seq : Nat) (level : Nat) (s : State) {k0 : Nat} (hk0 : 2434504 &&& k0 = 2434504) :
    Answers k0 s (execAssaySearch shoe seq level s) := by
  unfold execAssaySearch
  repeat' first
    | with_reducible exact Moves.refl _ _
    | with_reducible assumption
    | with_reducible exact mask_le hk0 (by decide)
    | with_reducible apply Moves.ite
    | with_reducible apply Moves.ite_fst
    | with_reducible (apply assaySearch_moves)
    | with_reducible (apply gate_moves)
    | with_reducible (apply onDies_ans)
    | with_reducible (apply Moves.foldl)
    | with_reducible (apply Moves.foldl_fst)
    | with_reducible (apply Moves.of_eq; assumption)
    | with_reducible intro _
    | dsimp only
    | split

theorem execAssayMerge_ans (shoe : Nat) (seq : Nat) (level : Nat) (s : State) {k0 : Nat} (hk0 : 337352 &&& k0 = 337352) :
    Answers k0 s (execAssayMerge shoe seq level s) := by
  unfold execAssayMerge
  repeat' first
    | with_reducible exact Moves.refl _ _
    | with_reducible assumption
    | with_reducible exact mask_le hk0 (by decide)
    | with_reducible apply Moves.ite
    | with_reducible apply Moves.ite_fst
    | with_reducible (apply afterMoves_moves)
    | with_reducible (apply assayMerge_moves)
    | with_reducible (apply gate_moves)
    | with_reducible (apply onDies_ans)
    | with_reducible (apply Moves.foldl)
    | with_reducible (apply Moves.foldl_fst)
    | with_reducible (apply Moves.of_eq; assumption)
    | with_reducible intro _
    | dsimp only
    | split

theorem execAsyIndexBind_ans (index : Nat) (va : Nat) (claim : Nat) (s : State) {k0 : Nat} (hk0 : 6563272 &&& k0 = 6563272) :
    Answers k0 s (execAsyIndexBind index va claim s) := by
  unfold execAsyIndexBind
  repeat' first
    | with_reducible exact Moves.refl _ _
    | with_reducible assumption
    | with_reducible exact mask_le hk0 (by decide)
    | with_reducible apply Moves.ite
    | with_reducible apply Moves.ite_fst
    | with_reducible (apply always_ans)
    | with_reducible (apply inP0_moves)
    | with_reducible (apply indexWrite_moves)
    | with_reducible (apply viaWide_moves)
    | with_reducible (apply Moves.foldl)
    | with_reducible (apply Moves.foldl_fst)
    | with_reducible (apply Moves.of_eq; assumption)
    | with_reducible intro _
    | dsimp only
    | split

theorem execAsyIndexUnbind_ans (index : Nat) (v : Nat) (s : State) {k0 : Nat} (hk0 : 6563272 &&& k0 = 6563272) :
    Answers k0 s (execAsyIndexUnbind index v s) := by
  unfold execAsyIndexUnbind
  repeat' first
    | with_reducible exact Moves.refl _ _
    | with_reducible assumption
    | with_reducible exact mask_le hk0 (by decide)
    | with_reducible apply Moves.ite
    | with_reducible apply Moves.ite_fst
    | with_reducible (apply always_ans)
    | with_reducible (apply inP0_moves)
    | with_reducible (apply indexWrite_moves)
    | with_reducible (apply viaWide_moves)
    | with_reducible (apply Moves.foldl)
    | with_reducible (apply Moves.foldl_fst)
    | with_reducible (apply Moves.of_eq; assumption)
    | with_reducible intro _
    | dsimp only
    | split

theorem execBatchComplete_ans (s : State) {k0 : Nat} (hk0 : 2368968 &&& k0 = 2368968) :
    Answers k0 s (execBatchComplete s) := by
  unfold execBatchComplete
  repeat' first
    | with_reducible exact Moves.refl _ _
    | with_reducible assumption
    | with_reducible exact mask_le hk0 (by decide)
    | with_reducible apply Moves.ite
    | with_reducible apply Moves.ite_fst
    | with_reducible (apply afterMoves_moves)
    | with_reducible (apply batchComplete_moves)
    | with_reducible (apply onRun_ans)
    | with_reducible (apply Moves.foldl)
    | with_reducible (apply Moves.foldl_fst)
    | with_reducible (apply Moves.of_eq; assumption)
    | with_reducible intro _
    | dsimp only
    | split

theorem execContinuousBatch_ans (s : State) {k0 : Nat} (hk0 : 2368840 &&& k0 = 2368840) :
    Answers k0 s (execContinuousBatch s) := by
  unfold execContinuousBatch
  repeat' first
    | with_reducible exact Moves.refl _ _
    | with_reducible assumption
    | with_reducible exact mask_le hk0 (by decide)
    | with_reducible apply Moves.ite
    | with_reducible apply Moves.ite_fst
    | with_reducible (apply continuousBatch_moves)
    | with_reducible (apply onRun_ans)
    | with_reducible (apply Moves.foldl)
    | with_reducible (apply Moves.foldl_fst)
    | with_reducible (apply Moves.of_eq; assumption)
    | with_reducible intro _
    | dsimp only
    | split

theorem execAsyAdvanceWrite_ans (index : Nat) (s : State) {k0 : Nat} (hk0 : 6563272 &&& k0 = 6563272) :
    Answers k0 s (execAsyAdvanceWrite index s) := by
  unfold execAsyAdvanceWrite
  repeat' first
    | with_reducible exact Moves.refl _ _
    | with_reducible assumption
    | with_reducible exact mask_le hk0 (by decide)
    | with_reducible apply Moves.ite
    | with_reducible apply Moves.ite_fst
    | with_reducible (apply advanceNamed_moves)
    | with_reducible (apply always_ans)
    | with_reducible (apply inP0_moves)
    | with_reducible (apply viaReg_moves)
    | with_reducible (apply Moves.foldl)
    | with_reducible (apply Moves.foldl_fst)
    | with_reducible (apply Moves.of_eq; assumption)
    | with_reducible intro _
    | dsimp only
    | split

theorem execBackfill_ans (s : State) {k0 : Nat} (hk0 : 2368968 &&& k0 = 2368968) :
    Answers k0 s (execBackfill s) := by
  unfold execBackfill
  repeat' first
    | with_reducible exact Moves.refl _ _
    | with_reducible assumption
    | with_reducible exact mask_le hk0 (by decide)
    | with_reducible apply Moves.ite
    | with_reducible apply Moves.ite_fst
    | with_reducible (apply afterMoves_moves)
    | with_reducible (apply backfill_moves)
    | with_reducible (apply onRun_ans)
    | with_reducible (apply Moves.foldl)
    | with_reducible (apply Moves.foldl_fst)
    | with_reducible (apply Moves.of_eq; assumption)
    | with_reducible intro _
    | dsimp only
    | split

end Sys2Proof.Machine
end

