-- ==== Sys2Proof/Laws/MovesBeatCmds.lean ====
section
/-! SUPPORT. What each operation of Machine/BeatCmds.lean may change. -/

set_option linter.unreachableTactic false
set_option linter.unusedTactic false
set_option linter.unusedVariables false

namespace Sys2Proof.Machine

theorem execPinBeatEdge_ans (ns : Nat) (s : State) {k0 : Nat} (hk0 : 2424808 &&& k0 = 2424808) :
    Answers k0 s (execPinBeatEdge ns s) := by
  unfold execPinBeatEdge
  repeat' first
    | with_reducible exact Moves.refl _ _
    | with_reducible assumption
    | with_reducible exact mask_le hk0 (by decide)
    | with_reducible apply Moves.ite
    | with_reducible apply Moves.ite_fst
    | with_reducible (apply onDies_ans)
    | with_reducible (apply pinEdge_moves)
    | with_reducible (apply Moves.foldl)
    | with_reducible (apply Moves.foldl_fst)
    | with_reducible (apply Moves.of_eq; assumption)
    | with_reducible intro _
    | dsimp only
    | split

theorem execPinBeatFrame_ans (pulses : List Nat) (s : State) {k0 : Nat} (hk0 : 2424808 &&& k0 = 2424808) :
    Answers k0 s (execPinBeatFrame pulses s) := by
  unfold execPinBeatFrame
  repeat' first
    | with_reducible exact Moves.refl _ _
    | with_reducible assumption
    | with_reducible exact mask_le hk0 (by decide)
    | with_reducible apply Moves.ite
    | with_reducible apply Moves.ite_fst
    | with_reducible (apply onDies_ans)
    | with_reducible (apply pinFrame_moves)
    | with_reducible (apply Moves.foldl)
    | with_reducible (apply Moves.foldl_fst)
    | with_reducible (apply Moves.of_eq; assumption)
    | with_reducible intro _
    | dsimp only
    | split

theorem execReservationApplyTimeout_ans (claim : Nat) (s : State) {k0 : Nat} (hk0 : 1096 &&& k0 = 1096) :
    Answers k0 s (execReservationApplyTimeout claim s) := by
  unfold execReservationApplyTimeout
  repeat' first
    | with_reducible exact Moves.refl _ _
    | with_reducible assumption
    | with_reducible exact mask_le hk0 (by decide)
    | with_reducible apply Moves.ite
    | with_reducible apply Moves.ite_fst
    | with_reducible (apply applyReservation_moves)
    | with_reducible (apply onDies_ans)
    | with_reducible (apply Moves.foldl)
    | with_reducible (apply Moves.foldl_fst)
    | with_reducible (apply Moves.of_eq; assumption)
    | with_reducible intro _
    | dsimp only
    | split

theorem execLinkBeatMessage_ans (port : Nat) (hop : Nat) (count : Nat) (ns : Nat) (s : State) {k0 : Nat} (hk0 : 2424808 &&& k0 = 2424808) :
    Answers k0 s (execLinkBeatMessage port hop count ns s) := by
  unfold execLinkBeatMessage
  repeat' first
    | with_reducible exact Moves.refl _ _
    | with_reducible assumption
    | with_reducible exact mask_le hk0 (by decide)
    | with_reducible apply Moves.ite
    | with_reducible apply Moves.ite_fst
    | with_reducible (apply linkBeat_moves)
    | with_reducible (apply onDies_ans)
    | with_reducible (apply Moves.foldl)
    | with_reducible (apply Moves.foldl_fst)
    | with_reducible (apply Moves.of_eq; assumption)
    | with_reducible intro _
    | dsimp only
    | split

theorem execTokenBeatCommit_ans (s : State) {k0 : Nat} (hk0 : 2424808 &&& k0 = 2424808) :
    Answers k0 s (execTokenBeatCommit s) := by
  unfold execTokenBeatCommit
  repeat' first
    | with_reducible exact Moves.refl _ _
    | with_reducible assumption
    | with_reducible exact mask_le hk0 (by decide)
    | with_reducible apply Moves.ite
    | with_reducible apply Moves.ite_fst
    | with_reducible (apply onDies_ans)
    | with_reducible (apply tokenCommit_moves)
    | with_reducible (apply Moves.foldl)
    | with_reducible (apply Moves.foldl_fst)
    | with_reducible (apply Moves.of_eq; assumption)
    | with_reducible intro _
    | dsimp only
    | split

theorem execFillerBeat_ans (s : State) {k0 : Nat} (hk0 : 2424808 &&& k0 = 2424808) :
    Answers k0 s (execFillerBeat s) := by
  unfold execFillerBeat
  repeat' first
    | with_reducible exact Moves.refl _ _
    | with_reducible assumption
    | with_reducible exact mask_le hk0 (by decide)
    | with_reducible apply Moves.ite
    | with_reducible apply Moves.ite_fst
    | with_reducible (apply fillerBeat_moves)
    | with_reducible (apply onDies_ans)
    | with_reducible (apply Moves.foldl)
    | with_reducible (apply Moves.foldl_fst)
    | with_reducible (apply Moves.of_eq; assumption)
    | with_reducible intro _
    | dsimp only
    | split

theorem execBeatLoss_ans (s : State) {k0 : Nat} (hk0 : 263272 &&& k0 = 263272) :
    Answers k0 s (execBeatLoss s) := by
  unfold execBeatLoss
  repeat' first
    | with_reducible exact Moves.refl _ _
    | with_reducible assumption
    | with_reducible exact mask_le hk0 (by decide)
    | with_reducible apply Moves.ite
    | with_reducible apply Moves.ite_fst
    | with_reducible (apply beatLoss_moves)
    | with_reducible (apply onDies_ans)
    | with_reducible (apply Moves.foldl)
    | with_reducible (apply Moves.foldl_fst)
    | with_reducible (apply Moves.of_eq; assumption)
    | with_reducible intro _
    | dsimp only
    | split

theorem execHoldoverBeatEdge_ans (s : State) {k0 : Nat} (hk0 : 2424808 &&& k0 = 2424808) :
    Answers k0 s (execHoldoverBeatEdge s) := by
  unfold execHoldoverBeatEdge
  repeat' first
    | with_reducible exact Moves.refl _ _
    | with_reducible assumption
    | with_reducible exact mask_le hk0 (by decide)
    | with_reducible apply Moves.ite
    | with_reducible apply Moves.ite_fst
    | with_reducible (apply holdoverEdge_moves)
    | with_reducible (apply onDies_ans)
    | with_reducible (apply Moves.foldl)
    | with_reducible (apply Moves.foldl_fst)
    | with_reducible (apply Moves.of_eq; assumption)
    | with_reducible intro _
    | dsimp only
    | split

theorem execBeatCalCommitArm_ans (atBeat : Nat) (s : State) {k0 : Nat} (hk0 : 4195360 &&& k0 = 4195360) :
    Answers k0 s (execBeatCalCommitArm atBeat s) := by
  unfold execBeatCalCommitArm
  repeat' first
    | with_reducible exact Moves.refl _ _
    | with_reducible assumption
    | with_reducible exact mask_le hk0 (by decide)
    | with_reducible apply Moves.ite
    | with_reducible apply Moves.ite_fst
    | with_reducible (apply always_ans)
    | with_reducible (apply commitWrite_moves)
    | with_reducible (apply inP0_moves)
    | with_reducible (apply viaWide_moves)
    | with_reducible (apply Moves.foldl)
    | with_reducible (apply Moves.foldl_fst)
    | with_reducible (apply Moves.of_eq; assumption)
    | with_reducible intro _
    | dsimp only
    | split

theorem execBeatCalShadowWrite_ans (entry : Nat) (word : Nat) (v : Nat) (s : State) {k0 : Nat} (hk0 : 4195360 &&& k0 = 4195360) :
    Answers k0 s (execBeatCalShadowWrite entry word v s) := by
  unfold execBeatCalShadowWrite
  repeat' first
    | with_reducible exact Moves.refl _ _
    | with_reducible assumption
    | with_reducible exact mask_le hk0 (by decide)
    | with_reducible apply Moves.ite
    | with_reducible apply Moves.ite_fst
    | with_reducible (apply always_ans)
    | with_reducible (apply inP0_moves)
    | with_reducible (apply shadowWrite_moves)
    | with_reducible (apply viaWide_moves)
    | with_reducible (apply Moves.foldl)
    | with_reducible (apply Moves.foldl_fst)
    | with_reducible (apply Moves.of_eq; assumption)
    | with_reducible intro _
    | dsimp only
    | split

theorem execBeatTokenDesignate_ans (round : Nat) (s : State) {k0 : Nat} (hk0 : 4456488 &&& k0 = 4456488) :
    Answers k0 s (execBeatTokenDesignate round s) := by
  unfold execBeatTokenDesignate
  repeat' first
    | with_reducible exact Moves.refl _ _
    | with_reducible assumption
    | with_reducible exact mask_le hk0 (by decide)
    | with_reducible apply Moves.ite
    | with_reducible apply Moves.ite_fst
    | with_reducible (apply always_ans)
    | with_reducible (apply inP0_moves)
    | with_reducible (apply tokenWrite_moves)
    | with_reducible (apply viaReg_moves)
    | with_reducible (apply Moves.foldl)
    | with_reducible (apply Moves.foldl_fst)
    | with_reducible (apply Moves.of_eq; assumption)
    | with_reducible intro _
    | dsimp only
    | split

theorem execShareSet_ans (i : Nat) (s : State) {k0 : Nat} (hk0 : 2424808 &&& k0 = 2424808) :
    Answers k0 s (execShareSet i s) := by
  unfold execShareSet
  repeat' first
    | with_reducible exact Moves.refl _ _
    | with_reducible assumption
    | with_reducible exact mask_le hk0 (by decide)
    | with_reducible apply Moves.ite
    | with_reducible apply Moves.ite_fst
    | with_reducible (apply entryRun_moves)
    | with_reducible (apply onDies_ans)
    | with_reducible (apply Moves.foldl)
    | with_reducible (apply Moves.foldl_fst)
    | with_reducible (apply Moves.of_eq; assumption)
    | with_reducible intro _
    | dsimp only
    | split

theorem execScrubSlice_ans (i : Nat) (s : State) {k0 : Nat} (hk0 : 2424808 &&& k0 = 2424808) :
    Answers k0 s (execScrubSlice i s) := by
  unfold execScrubSlice
  repeat' first
    | with_reducible exact Moves.refl _ _
    | with_reducible assumption
    | with_reducible exact mask_le hk0 (by decide)
    | with_reducible apply Moves.ite
    | with_reducible apply Moves.ite_fst
    | with_reducible (apply entryRun_moves)
    | with_reducible (apply onDies_ans)
    | with_reducible (apply Moves.foldl)
    | with_reducible (apply Moves.foldl_fst)
    | with_reducible (apply Moves.of_eq; assumption)
    | with_reducible intro _
    | dsimp only
    | split

theorem execHeatAge_ans (i : Nat) (s : State) {k0 : Nat} (hk0 : 2424808 &&& k0 = 2424808) :
    Answers k0 s (execHeatAge i s) := by
  unfold execHeatAge
  repeat' first
    | with_reducible exact Moves.refl _ _
    | with_reducible assumption
    | with_reducible exact mask_le hk0 (by decide)
    | with_reducible apply Moves.ite
    | with_reducible apply Moves.ite_fst
    | with_reducible (apply entryRun_moves)
    | with_reducible (apply onDies_ans)
    | with_reducible (apply Moves.foldl)
    | with_reducible (apply Moves.foldl_fst)
    | with_reducible (apply Moves.of_eq; assumption)
    | with_reducible intro _
    | dsimp only
    | split

theorem execAssayWindow_ans (i : Nat) (s : State) {k0 : Nat} (hk0 : 2424808 &&& k0 = 2424808) :
    Answers k0 s (execAssayWindow i s) := by
  unfold execAssayWindow
  repeat' first
    | with_reducible exact Moves.refl _ _
    | with_reducible assumption
    | with_reducible exact mask_le hk0 (by decide)
    | with_reducible apply Moves.ite
    | with_reducible apply Moves.ite_fst
    | with_reducible (apply entryRun_moves)
    | with_reducible (apply onDies_ans)
    | with_reducible (apply Moves.foldl)
    | with_reducible (apply Moves.foldl_fst)
    | with_reducible (apply Moves.of_eq; assumption)
    | with_reducible intro _
    | dsimp only
    | split

theorem execAssayWindowClose_ans (s : State) {k0 : Nat} (hk0 : 2368968 &&& k0 = 2368968) :
    Answers k0 s (execAssayWindowClose s) := by
  unfold execAssayWindowClose
  repeat' first
    | with_reducible exact Moves.refl _ _
    | with_reducible assumption
    | with_reducible exact mask_le hk0 (by decide)
    | with_reducible apply Moves.ite
    | with_reducible apply Moves.ite_fst
    | with_reducible (apply closeWindow_moves)
    | with_reducible (apply onRun_ans)
    | with_reducible (apply Moves.foldl)
    | with_reducible (apply Moves.foldl_fst)
    | with_reducible (apply Moves.of_eq; assumption)
    | with_reducible intro _
    | dsimp only
    | split

theorem execEpochAdvance_ans (i : Nat) (s : State) {k0 : Nat} (hk0 : 2424808 &&& k0 = 2424808) :
    Answers k0 s (execEpochAdvance i s) := by
  unfold execEpochAdvance
  repeat' first
    | with_reducible exact Moves.refl _ _
    | with_reducible assumption
    | with_reducible exact mask_le hk0 (by decide)
    | with_reducible apply Moves.ite
    | with_reducible apply Moves.ite_fst
    | with_reducible (apply entryRun_moves)
    | with_reducible (apply onDies_ans)
    | with_reducible (apply Moves.foldl)
    | with_reducible (apply Moves.foldl_fst)
    | with_reducible (apply Moves.of_eq; assumption)
    | with_reducible intro _
    | dsimp only
    | split

theorem execRollCall_ans (i : Nat) (views : List UnitView) (s : State) {k0 : Nat} (hk0 : 2424808 &&& k0 = 2424808) :
    Answers k0 s (execRollCall i views s) := by
  unfold execRollCall
  repeat' first
    | with_reducible exact Moves.refl _ _
    | with_reducible assumption
    | with_reducible exact mask_le hk0 (by decide)
    | with_reducible apply Moves.ite
    | with_reducible apply Moves.ite_fst
    | with_reducible (apply entryRun_moves)
    | with_reducible (apply onDies_ans)
    | with_reducible (apply Moves.foldl)
    | with_reducible (apply Moves.foldl_fst)
    | with_reducible (apply Moves.of_eq; assumption)
    | with_reducible intro _
    | dsimp only
    | split

theorem execCheckpointWindow_ans (i : Nat) (s : State) {k0 : Nat} (hk0 : 2424808 &&& k0 = 2424808) :
    Answers k0 s (execCheckpointWindow i s) := by
  unfold execCheckpointWindow
  repeat' first
    | with_reducible exact Moves.refl _ _
    | with_reducible assumption
    | with_reducible exact mask_le hk0 (by decide)
    | with_reducible apply Moves.ite
    | with_reducible apply Moves.ite_fst
    | with_reducible (apply entryRun_moves)
    | with_reducible (apply onDies_ans)
    | with_reducible (apply Moves.foldl)
    | with_reducible (apply Moves.foldl_fst)
    | with_reducible (apply Moves.of_eq; assumption)
    | with_reducible intro _
    | dsimp only
    | split

theorem execCheckpointWindowEnd_ans (s : State) {k0 : Nat} (hk0 : 64 &&& k0 = 64) :
    Answers k0 s (execCheckpointWindowEnd s) := by
  unfold execCheckpointWindowEnd
  repeat' first
    | with_reducible exact Moves.refl _ _
    | with_reducible assumption
    | with_reducible exact mask_le hk0 (by decide)
    | with_reducible apply Moves.ite
    | with_reducible apply Moves.ite_fst
    | with_reducible (apply checkpointEnd_moves)
    | with_reducible (apply onDies_ans)
    | with_reducible (apply Moves.foldl)
    | with_reducible (apply Moves.foldl_fst)
    | with_reducible (apply Moves.of_eq; assumption)
    | with_reducible intro _
    | dsimp only
    | split

theorem execMarkCmd_ans (i : Nat) (s : State) {k0 : Nat} (hk0 : 2424808 &&& k0 = 2424808) :
    Answers k0 s (execMarkCmd i s) := by
  unfold execMarkCmd
  repeat' first
    | with_reducible exact Moves.refl _ _
    | with_reducible assumption
    | with_reducible exact mask_le hk0 (by decide)
    | with_reducible apply Moves.ite
    | with_reducible apply Moves.ite_fst
    | with_reducible (apply entryRun_moves)
    | with_reducible (apply onDies_ans)
    | with_reducible (apply Moves.foldl)
    | with_reducible (apply Moves.foldl_fst)
    | with_reducible (apply Moves.of_eq; assumption)
    | with_reducible intro _
    | dsimp only
    | split

end Sys2Proof.Machine
end

