-- ==== Sys2Proof/Laws/MovesBootCmds.lean ====
section
/-! SUPPORT. What each operation of Machine/BootCmds.lean may change. -/

set_option linter.unreachableTactic false
set_option linter.unusedTactic false
set_option linter.unusedVariables false

namespace Sys2Proof.Machine

theorem execStbyPwrokRise_ans (flash : Flash) (fuses : Fuses) (env : BootEnv) (s : State) {k0 : Nat} (hk0 : 8388602 &&& k0 = 8388602) :
    Answers k0 s (execStbyPwrokRise flash fuses env s) := by
  unfold execStbyPwrokRise
  repeat' first
    | with_reducible exact Moves.refl _ _
    | with_reducible assumption
    | with_reducible exact mask_le hk0 (by decide)
    | with_reducible apply Moves.ite
    | with_reducible apply Moves.ite_fst
    | with_reducible (apply always_ans)
    | with_reducible (apply stbyRise_moves)
    | with_reducible (apply Moves.foldl)
    | with_reducible (apply Moves.foldl_fst)
    | with_reducible (apply Moves.of_eq; assumption)
    | with_reducible intro _
    | dsimp only
    | split

theorem execFlashReadTimeout_ans (env : BootEnv) (s : State) {k0 : Nat} (hk0 : 8388602 &&& k0 = 8388602) :
    Answers k0 s (execFlashReadTimeout env s) := by
  unfold execFlashReadTimeout
  repeat' first
    | with_reducible exact Moves.refl _ _
    | with_reducible assumption
    | with_reducible exact mask_le hk0 (by decide)
    | with_reducible apply Moves.ite
    | with_reducible apply Moves.ite_fst
    | with_reducible (apply always_ans)
    | with_reducible (apply flashTimeout_moves)
    | with_reducible (apply Moves.foldl)
    | with_reducible (apply Moves.foldl_fst)
    | with_reducible (apply Moves.of_eq; assumption)
    | with_reducible intro _
    | dsimp only
    | split

theorem execBootStepTimeout_ans (env : BootEnv) (s : State) {k0 : Nat} (hk0 : 8388602 &&& k0 = 8388602) :
    Answers k0 s (execBootStepTimeout env s) := by
  unfold execBootStepTimeout
  repeat' first
    | with_reducible exact Moves.refl _ _
    | with_reducible assumption
    | with_reducible exact mask_le hk0 (by decide)
    | with_reducible apply Moves.ite
    | with_reducible apply Moves.ite_fst
    | with_reducible (apply always_ans)
    | with_reducible (apply stepTimeout_moves)
    | with_reducible (apply Moves.foldl)
    | with_reducible (apply Moves.foldl_fst)
    | with_reducible (apply Moves.of_eq; assumption)
    | with_reducible intro _
    | dsimp only
    | split

theorem execResetLRise_ans (env : BootEnv) (s : State) {k0 : Nat} (hk0 : 8388602 &&& k0 = 8388602) :
    Answers k0 s (execResetLRise env s) := by
  unfold execResetLRise
  repeat' first
    | with_reducible exact Moves.refl _ _
    | with_reducible assumption
    | with_reducible exact mask_le hk0 (by decide)
    | with_reducible apply Moves.ite
    | with_reducible apply Moves.ite_fst
    | with_reducible (apply always_ans)
    | with_reducible (apply resetRise_moves)
    | with_reducible (apply Moves.foldl)
    | with_reducible (apply Moves.foldl_fst)
    | with_reducible (apply Moves.of_eq; assumption)
    | with_reducible intro _
    | dsimp only
    | split

theorem execPwrokRise_ans (env : BootEnv) (s : State) {k0 : Nat} (hk0 : 8388602 &&& k0 = 8388602) :
    Answers k0 s (execPwrokRise env s) := by
  unfold execPwrokRise
  repeat' first
    | with_reducible exact Moves.refl _ _
    | with_reducible assumption
    | with_reducible exact mask_le hk0 (by decide)
    | with_reducible apply Moves.ite
    | with_reducible apply Moves.ite_fst
    | with_reducible (apply always_ans)
    | with_reducible (apply pwrokRise_moves)
    | with_reducible (apply Moves.foldl)
    | with_reducible (apply Moves.foldl_fst)
    | with_reducible (apply Moves.of_eq; assumption)
    | with_reducible intro _
    | dsimp only
    | split

theorem execBootReady_ans (us : Nat) (s : State) {k0 : Nat} (hk0 : 262168 &&& k0 = 262168) :
    Answers k0 s (execBootReady us s) := by
  unfold execBootReady
  repeat' first
    | with_reducible exact Moves.refl _ _
    | with_reducible assumption
    | with_reducible exact mask_le hk0 (by decide)
    | with_reducible apply Moves.ite
    | with_reducible apply Moves.ite_fst
    | with_reducible (apply always_ans)
    | with_reducible (apply bootReady_moves)
    | with_reducible (apply Moves.foldl)
    | with_reducible (apply Moves.foldl_fst)
    | with_reducible (apply Moves.of_eq; assumption)
    | with_reducible intro _
    | dsimp only
    | split

theorem execResetLFall_ans (s : State) {k0 : Nat} (hk0 : 8388600 &&& k0 = 8388600) :
    Answers k0 s (execResetLFall s) := by
  unfold execResetLFall
  repeat' first
    | with_reducible exact Moves.refl _ _
    | with_reducible assumption
    | with_reducible exact mask_le hk0 (by decide)
    | with_reducible apply Moves.ite
    | with_reducible apply Moves.ite_fst
    | with_reducible (apply always_ans)
    | with_reducible (apply resetFall_moves)
    | with_reducible (apply Moves.foldl)
    | with_reducible (apply Moves.foldl_fst)
    | with_reducible (apply Moves.of_eq; assumption)
    | with_reducible intro _
    | dsimp only
    | split

theorem execPwrokFall_ans (s : State) {k0 : Nat} (hk0 : 8388600 &&& k0 = 8388600) :
    Answers k0 s (execPwrokFall s) := by
  unfold execPwrokFall
  repeat' first
    | with_reducible exact Moves.refl _ _
    | with_reducible assumption
    | with_reducible exact mask_le hk0 (by decide)
    | with_reducible apply Moves.ite
    | with_reducible apply Moves.ite_fst
    | with_reducible (apply always_ans)
    | with_reducible (apply pwrokFall_moves)
    | with_reducible (apply Moves.foldl)
    | with_reducible (apply Moves.foldl_fst)
    | with_reducible (apply Moves.of_eq; assumption)
    | with_reducible intro _
    | dsimp only
    | split

theorem execStbyPwrokFall_ans (s : State) {k0 : Nat} (hk0 : 8388600 &&& k0 = 8388600) :
    Answers k0 s (execStbyPwrokFall s) := by
  unfold execStbyPwrokFall
  repeat' first
    | with_reducible exact Moves.refl _ _
    | with_reducible assumption
    | with_reducible exact mask_le hk0 (by decide)
    | with_reducible apply Moves.ite
    | with_reducible apply Moves.ite_fst
    | with_reducible (apply always_ans)
    | with_reducible (apply stbyFall_moves)
    | with_reducible (apply Moves.foldl)
    | with_reducible (apply Moves.foldl_fst)
    | with_reducible (apply Moves.of_eq; assumption)
    | with_reducible intro _
    | dsimp only
    | split

theorem execResetHeldAlert_ans (s : State) {k0 : Nat} (hk0 : 262168 &&& k0 = 262168) :
    Answers k0 s (execResetHeldAlert s) := by
  unfold execResetHeldAlert
  repeat' first
    | with_reducible exact Moves.refl _ _
    | with_reducible assumption
    | with_reducible exact mask_le hk0 (by decide)
    | with_reducible apply Moves.ite
    | with_reducible apply Moves.ite_fst
    | with_reducible (apply always_ans)
    | with_reducible (apply heldAlarm_moves)
    | with_reducible (apply Moves.foldl)
    | with_reducible (apply Moves.foldl_fst)
    | with_reducible (apply Moves.of_eq; assumption)
    | with_reducible intro _
    | dsimp only
    | split

theorem execRailMonitorFault_ans (s : State) {k0 : Nat} (hk0 : 8388600 &&& k0 = 8388600) :
    Answers k0 s (execRailMonitorFault s) := by
  unfold execRailMonitorFault
  repeat' first
    | with_reducible exact Moves.refl _ _
    | with_reducible assumption
    | with_reducible exact mask_le hk0 (by decide)
    | with_reducible apply Moves.ite
    | with_reducible apply Moves.ite_fst
    | with_reducible (apply always_ans)
    | with_reducible (apply railFault_moves)
    | with_reducible (apply Moves.foldl)
    | with_reducible (apply Moves.foldl_fst)
    | with_reducible (apply Moves.of_eq; assumption)
    | with_reducible intro _
    | dsimp only
    | split

theorem execRefclkSzLoss_ans (s : State) {k0 : Nat} (hk0 : 8388600 &&& k0 = 8388600) :
    Answers k0 s (execRefclkSzLoss s) := by
  unfold execRefclkSzLoss
  repeat' first
    | with_reducible exact Moves.refl _ _
    | with_reducible assumption
    | with_reducible exact mask_le hk0 (by decide)
    | with_reducible apply Moves.ite
    | with_reducible apply Moves.ite_fst
    | with_reducible (apply always_ans)
    | with_reducible (apply refclkLoss_moves)
    | with_reducible (apply Moves.foldl)
    | with_reducible (apply Moves.foldl_fst)
    | with_reducible (apply Moves.of_eq; assumption)
    | with_reducible intro _
    | dsimp only
    | split

theorem execCrystalLoss_ans (s : State) {k0 : Nat} (hk0 : 8388600 &&& k0 = 8388600) :
    Answers k0 s (execCrystalLoss s) := by
  unfold execCrystalLoss
  repeat' first
    | with_reducible exact Moves.refl _ _
    | with_reducible assumption
    | with_reducible exact mask_le hk0 (by decide)
    | with_reducible apply Moves.ite
    | with_reducible apply Moves.ite_fst
    | with_reducible (apply always_ans)
    | with_reducible (apply crystalLoss_moves)
    | with_reducible (apply Moves.foldl)
    | with_reducible (apply Moves.foldl_fst)
    | with_reducible (apply Moves.of_eq; assumption)
    | with_reducible intro _
    | dsimp only
    | split

theorem execQualifiedPwrokRestore_ans (env : BootEnv) (s : State) {k0 : Nat} (hk0 : 8388602 &&& k0 = 8388602) :
    Answers k0 s (execQualifiedPwrokRestore env s) := by
  unfold execQualifiedPwrokRestore
  repeat' first
    | with_reducible exact Moves.refl _ _
    | with_reducible assumption
    | with_reducible exact mask_le hk0 (by decide)
    | with_reducible apply Moves.ite
    | with_reducible apply Moves.ite_fst
    | with_reducible (apply always_ans)
    | with_reducible (apply pwrokRestore_moves)
    | with_reducible (apply Moves.foldl)
    | with_reducible (apply Moves.foldl_fst)
    | with_reducible (apply Moves.of_eq; assumption)
    | with_reducible intro _
    | dsimp only
    | split

theorem execAvsbusCommandTimeout_ans (rail : Nat) (readBack : Nat) (s : State) {k0 : Nat} (hk0 : 131080 &&& k0 = 131080) :
    Answers k0 s (execAvsbusCommandTimeout rail readBack s) := by
  unfold execAvsbusCommandTimeout
  repeat' first
    | with_reducible exact Moves.refl _ _
    | with_reducible assumption
    | with_reducible exact mask_le hk0 (by decide)
    | with_reducible apply Moves.ite
    | with_reducible apply Moves.ite_fst
    | with_reducible (apply always_ans)
    | with_reducible (apply avsTimeout_moves)
    | with_reducible (apply Moves.foldl)
    | with_reducible (apply Moves.foldl_fst)
    | with_reducible (apply Moves.of_eq; assumption)
    | with_reducible intro _
    | dsimp only
    | split

end Sys2Proof.Machine
end

