-- ==== Sys2Proof/Laws/MovesClaimCmds.lean ====
section
/-! SUPPORT. What each operation of Machine/ClaimCmds.lean may change. -/

set_option linter.unreachableTactic false
set_option linter.unusedTactic false
set_option linter.unusedVariables false

namespace Sys2Proof.Machine

theorem execClaimCreate_ans (seq : Nat) (level : Nat) (block : HostResp) (s : State) {k0 : Nat} (hk0 : 526282 &&& k0 = 526282) :
    Answers k0 s (execClaimCreate seq level block s) := by
  unfold execClaimCreate
  repeat' first
    | with_reducible exact Moves.refl _ _
    | with_reducible assumption
    | with_reducible exact mask_le hk0 (by decide)
    | with_reducible apply Moves.ite
    | with_reducible apply Moves.ite_fst
    | with_reducible (apply claimCmd_moves)
    | with_reducible (apply onDies_ans)
    | with_reducible (apply Moves.foldl)
    | with_reducible (apply Moves.foldl_fst)
    | with_reducible (apply Moves.of_eq; assumption)
    | with_reducible intro _
    | dsimp only
    | split

theorem execClaimModify_ans (seq : Nat) (level : Nat) (block : HostResp) (s : State) {k0 : Nat} (hk0 : 526282 &&& k0 = 526282) :
    Answers k0 s (execClaimModify seq level block s) := by
  unfold execClaimModify
  repeat' first
    | with_reducible exact Moves.refl _ _
    | with_reducible assumption
    | with_reducible exact mask_le hk0 (by decide)
    | with_reducible apply Moves.ite
    | with_reducible apply Moves.ite_fst
    | with_reducible (apply claimCmd_moves)
    | with_reducible (apply onDies_ans)
    | with_reducible (apply Moves.foldl)
    | with_reducible (apply Moves.foldl_fst)
    | with_reducible (apply Moves.of_eq; assumption)
    | with_reducible intro _
    | dsimp only
    | split

theorem execClaimRelease_ans (seq : Nat) (level : Nat) (s : State) {k0 : Nat} (hk0 : 329416 &&& k0 = 329416) :
    Answers k0 s (execClaimRelease seq level s) := by
  unfold execClaimRelease
  repeat' first
    | with_reducible exact Moves.refl _ _
    | with_reducible assumption
    | with_reducible exact mask_le hk0 (by decide)
    | with_reducible apply Moves.ite
    | with_reducible apply Moves.ite_fst
    | with_reducible (apply claimRelease_moves)
    | with_reducible (apply onDies_ans)
    | with_reducible (apply Moves.foldl)
    | with_reducible (apply Moves.foldl_fst)
    | with_reducible (apply Moves.of_eq; assumption)
    | with_reducible intro _
    | dsimp only
    | split

theorem execClaimReleaseEnd_ans (claim : Nat) (s : State) {k0 : Nat} (hk0 : 3196872 &&& k0 = 3196872) :
    Answers k0 s (execClaimReleaseEnd claim s) := by
  unfold execClaimReleaseEnd
  repeat' first
    | with_reducible exact Moves.refl _ _
    | with_reducible assumption
    | with_reducible exact mask_le hk0 (by decide)
    | with_reducible apply Moves.ite
    | with_reducible apply Moves.ite_fst
    | with_reducible (apply onDies_ans)
    | with_reducible (apply releaseEnd_moves)
    | with_reducible (apply Moves.foldl)
    | with_reducible (apply Moves.foldl_fst)
    | with_reducible (apply Moves.of_eq; assumption)
    | with_reducible intro _
    | dsimp only
    | split

theorem execArbitrationFrameStart_ans (core : Bool) (i : Nat) (s : State) {k0 : Nat} (hk0 : 128 &&& k0 = 128) :
    Answers k0 s (execArbitrationFrameStart core i s) := by
  unfold execArbitrationFrameStart
  repeat' first
    | with_reducible exact Moves.refl _ _
    | with_reducible assumption
    | with_reducible exact mask_le hk0 (by decide)
    | with_reducible apply Moves.ite
    | with_reducible apply Moves.ite_fst
    | with_reducible (apply frameStart_moves)
    | with_reducible (apply onDies_ans)
    | with_reducible (apply Moves.foldl)
    | with_reducible (apply Moves.foldl_fst)
    | with_reducible (apply Moves.of_eq; assumption)
    | with_reducible intro _
    | dsimp only
    | split

theorem execArbitrationGrant_ans (core : Bool) (i : Nat) (ns : Nat) (s : State) {k0 : Nat} (hk0 : 131208 &&& k0 = 131208) :
    Answers k0 s (execArbitrationGrant core i ns s) := by
  unfold execArbitrationGrant
  repeat' first
    | with_reducible exact Moves.refl _ _
    | with_reducible assumption
    | with_reducible exact mask_le hk0 (by decide)
    | with_reducible apply Moves.ite
    | with_reducible apply Moves.ite_fst
    | with_reducible (apply engineGrant_moves)
    | with_reducible (apply onDies_ans)
    | with_reducible (apply Moves.foldl)
    | with_reducible (apply Moves.foldl_fst)
    | with_reducible (apply Moves.of_eq; assumption)
    | with_reducible intro _
    | dsimp only
    | split

theorem execEvtRingEnable_ans (ring : Nat) (v : Nat) (s : State) {k0 : Nat} (hk0 : 4194368 &&& k0 = 4194368) :
    Answers k0 s (execEvtRingEnable ring v s) := by
  unfold execEvtRingEnable
  repeat' first
    | with_reducible exact Moves.refl _ _
    | with_reducible assumption
    | with_reducible exact mask_le hk0 (by decide)
    | with_reducible apply Moves.ite
    | with_reducible apply Moves.ite_fst
    | with_reducible (apply always_ans)
    | with_reducible (apply inP0_moves)
    | with_reducible (apply viaRing_moves)
    | with_reducible (apply writeRingSize_moves)
    | with_reducible (apply Moves.foldl)
    | with_reducible (apply Moves.foldl_fst)
    | with_reducible (apply Moves.of_eq; assumption)
    | with_reducible intro _
    | dsimp only
    | split

theorem execEvtRingConsumedWrite_ans (ring : Nat) (v : Nat) (s : State) {k0 : Nat} (hk0 : 4194368 &&& k0 = 4194368) :
    Answers k0 s (execEvtRingConsumedWrite ring v s) := by
  unfold execEvtRingConsumedWrite
  repeat' first
    | with_reducible exact Moves.refl _ _
    | with_reducible assumption
    | with_reducible exact mask_le hk0 (by decide)
    | with_reducible apply Moves.ite
    | with_reducible apply Moves.ite_fst
    | with_reducible (apply always_ans)
    | with_reducible (apply inP0_moves)
    | with_reducible (apply viaRing_moves)
    | with_reducible (apply writeRingConsumed_moves)
    | with_reducible (apply Moves.foldl)
    | with_reducible (apply Moves.foldl_fst)
    | with_reducible (apply Moves.of_eq; assumption)
    | with_reducible intro _
    | dsimp only
    | split

theorem execFunctionLevelReset_ans (claim : Nat) (s : State) {k0 : Nat} (hk0 : 1427400 &&& k0 = 1427400) :
    Answers k0 s (execFunctionLevelReset claim s) := by
  unfold execFunctionLevelReset
  repeat' first
    | with_reducible exact Moves.refl _ _
    | with_reducible assumption
    | with_reducible exact mask_le hk0 (by decide)
    | with_reducible apply Moves.ite
    | with_reducible apply Moves.ite_fst
    | with_reducible (apply functionReset_moves)
    | with_reducible (apply onHost_ans)
    | with_reducible (apply Moves.foldl)
    | with_reducible (apply Moves.foldl_fst)
    | with_reducible (apply Moves.of_eq; assumption)
    | with_reducible intro _
    | dsimp only
    | split

theorem execFlrComplete_ans (claim : Nat) (s : State) {k0 : Nat} (hk0 : 1728 &&& k0 = 1728) :
    Answers k0 s (execFlrComplete claim s) := by
  unfold execFlrComplete
  repeat' first
    | with_reducible exact Moves.refl _ _
    | with_reducible assumption
    | with_reducible exact mask_le hk0 (by decide)
    | with_reducible apply Moves.ite
    | with_reducible apply Moves.ite_fst
    | with_reducible (apply onDies_ans)
    | with_reducible (apply resetComplete_moves)
    | with_reducible (apply Moves.foldl)
    | with_reducible (apply Moves.foldl_fst)
    | with_reducible (apply Moves.of_eq; assumption)
    | with_reducible intro _
    | dsimp only
    | split

theorem execVfEnableClear_ans (enable : Bool) (numVfs : Nat) (s : State) {k0 : Nat} (hk0 : 1951688 &&& k0 = 1951688) :
    Answers k0 s (execVfEnableClear enable numVfs s) := by
  unfold execVfEnableClear
  repeat' first
    | with_reducible exact Moves.refl _ _
    | with_reducible assumption
    | with_reducible exact mask_le hk0 (by decide)
    | with_reducible apply Moves.ite
    | with_reducible apply Moves.ite_fst
    | with_reducible (apply onHost_ans)
    | with_reducible (apply vfClear_moves)
    | with_reducible (apply Moves.foldl)
    | with_reducible (apply Moves.foldl_fst)
    | with_reducible (apply Moves.of_eq; assumption)
    | with_reducible intro _
    | dsimp only
    | split

theorem execVfEnableSet_ans (numVfs : Nat) (s : State) {k0 : Nat} (hk0 : 524288 &&& k0 = 524288) :
    Answers k0 s (execVfEnableSet numVfs s) := by
  unfold execVfEnableSet
  repeat' first
    | with_reducible exact Moves.refl _ _
    | with_reducible assumption
    | with_reducible exact mask_le hk0 (by decide)
    | with_reducible apply Moves.ite
    | with_reducible apply Moves.ite_fst
    | with_reducible (apply onHost_ans)
    | with_reducible (apply vfSet_moves)
    | with_reducible (apply Moves.foldl)
    | with_reducible (apply Moves.foldl_fst)
    | with_reducible (apply Moves.of_eq; assumption)
    | with_reducible intro _
    | dsimp only
    | split

theorem execClmRtBindWrite_ans (v : Nat) (s : State) {k0 : Nat} (hk0 : 4194368 &&& k0 = 4194368) :
    Answers k0 s (execClmRtBindWrite v s) := by
  unfold execClmRtBindWrite
  repeat' first
    | with_reducible exact Moves.refl _ _
    | with_reducible assumption
    | with_reducible exact mask_le hk0 (by decide)
    | with_reducible apply Moves.ite
    | with_reducible apply Moves.ite_fst
    | with_reducible (apply always_ans)
    | with_reducible (apply inP0_moves)
    | with_reducible (apply rtWrite_moves)
    | with_reducible (apply viaReg_moves)
    | with_reducible (apply Moves.foldl)
    | with_reducible (apply Moves.foldl_fst)
    | with_reducible (apply Moves.of_eq; assumption)
    | with_reducible intro _
    | dsimp only
    | split

theorem execRtBindApply_ans (s : State) {k0 : Nat} (hk0 : 64 &&& k0 = 64) :
    Answers k0 s (execRtBindApply s) := by
  unfold execRtBindApply
  repeat' first
    | with_reducible exact Moves.refl _ _
    | with_reducible assumption
    | with_reducible exact mask_le hk0 (by decide)
    | with_reducible apply Moves.ite
    | with_reducible apply Moves.ite_fst
    | with_reducible (apply onDies_ans)
    | with_reducible (apply rtApply_moves)
    | with_reducible (apply Moves.foldl)
    | with_reducible (apply Moves.foldl_fst)
    | with_reducible (apply Moves.of_eq; assumption)
    | with_reducible intro _
    | dsimp only
    | split

end Sys2Proof.Machine
end

