-- ==== Sys2Proof/Laws/MovesDeckCmds.lean ====
section
/-! SUPPORT. What each operation of Machine/DeckCmds.lean may change. -/

set_option linter.unreachableTactic false
set_option linter.unusedTactic false
set_option linter.unusedVariables false

namespace Sys2Proof.Machine

theorem execNop_ans (shoe : Nat) (seq : Nat) (level : Nat) (s : State) {k0 : Nat} (hk0 : 66760 &&& k0 = 66760) :
    Answers k0 s (execNop shoe seq level s) := by
  unfold execNop
  repeat' first
    | with_reducible exact Moves.refl _ _
    | with_reducible assumption
    | with_reducible exact mask_le hk0 (by decide)
    | with_reducible apply Moves.ite
    | with_reducible apply Moves.ite_fst
    | with_reducible (apply doneCmd_moves)
    | with_reducible (apply startOf_ans)
    | with_reducible (apply withCmd_moves)
    | with_reducible (apply Moves.foldl)
    | with_reducible (apply Moves.foldl_fst)
    | with_reducible (apply Moves.of_eq; assumption)
    | with_reducible intro _
    | dsimp only
    | split

theorem execLaneDeck_ans (shoe : Nat) (seq : Nat) (level : Nat) (granule : Nat) (deck : HostResp) (s : State) {k0 : Nat} (hk0 : 4190202 &&& k0 = 4190202) :
    Answers k0 s (execLaneDeck shoe seq level granule deck s) := by
  unfold execLaneDeck
  repeat' first
    | with_reducible exact Moves.refl _ _
    | with_reducible assumption
    | with_reducible exact mask_le hk0 (by decide)
    | with_reducible apply Moves.ite
    | with_reducible apply Moves.ite_fst
    | with_reducible (apply laneDeckCmd_moves)
    | with_reducible (apply startAt_ans)
    | with_reducible (apply Moves.foldl)
    | with_reducible (apply Moves.foldl_fst)
    | with_reducible (apply Moves.of_eq; assumption)
    | with_reducible intro _
    | dsimp only
    | split

theorem execLaneDeckComplete_ans (shoe : Nat) (seq : Nat) (level : Nat) (s : State) {k0 : Nat} (hk0 : 128 &&& k0 = 128) :
    Answers k0 s (execLaneDeckComplete shoe seq level s) := by
  unfold execLaneDeckComplete
  repeat' first
    | with_reducible exact Moves.refl _ _
    | with_reducible assumption
    | with_reducible exact mask_le hk0 (by decide)
    | with_reducible apply Moves.ite
    | with_reducible apply Moves.ite_fst
    | with_reducible (apply laneDeckEnd_moves)
    | with_reducible (apply onDies_ans)
    | with_reducible (apply Moves.foldl)
    | with_reducible (apply Moves.foldl_fst)
    | with_reducible (apply Moves.of_eq; assumption)
    | with_reducible intro _
    | dsimp only
    | split

theorem execTallyAdd_ans (shoe : Nat) (seq : Nat) (level : Nat) (s : State) {k0 : Nat} (hk0 : 116424 &&& k0 = 116424) :
    Answers k0 s (execTallyAdd shoe seq level s) := by
  unfold execTallyAdd
  repeat' first
    | with_reducible exact Moves.refl _ _
    | with_reducible assumption
    | with_reducible exact mask_le hk0 (by decide)
    | with_reducible apply Moves.ite
    | with_reducible apply Moves.ite_fst
    | with_reducible (apply startTally_ans)
    | with_reducible (apply Moves.foldl)
    | with_reducible (apply Moves.foldl_fst)
    | with_reducible (apply Moves.of_eq; assumption)
    | with_reducible intro _
    | dsimp only
    | split

theorem execTallySet_ans (shoe : Nat) (seq : Nat) (level : Nat) (s : State) {k0 : Nat} (hk0 : 116424 &&& k0 = 116424) :
    Answers k0 s (execTallySet shoe seq level s) := by
  unfold execTallySet
  repeat' first
    | with_reducible exact Moves.refl _ _
    | with_reducible assumption
    | with_reducible exact mask_le hk0 (by decide)
    | with_reducible apply Moves.ite
    | with_reducible apply Moves.ite_fst
    | with_reducible (apply startTally_ans)
    | with_reducible (apply Moves.foldl)
    | with_reducible (apply Moves.foldl_fst)
    | with_reducible (apply Moves.of_eq; assumption)
    | with_reducible intro _
    | dsimp only
    | split

theorem execTallyWaitGe_ans (shoe : Nat) (seq : Nat) (level : Nat) (s : State) {k0 : Nat} (hk0 : 116424 &&& k0 = 116424) :
    Answers k0 s (execTallyWaitGe shoe seq level s) := by
  unfold execTallyWaitGe
  repeat' first
    | with_reducible exact Moves.refl _ _
    | with_reducible assumption
    | with_reducible exact mask_le hk0 (by decide)
    | with_reducible apply Moves.ite
    | with_reducible apply Moves.ite_fst
    | with_reducible (apply startTally_ans)
    | with_reducible (apply Moves.foldl)
    | with_reducible (apply Moves.foldl_fst)
    | with_reducible (apply Moves.of_eq; assumption)
    | with_reducible intro _
    | dsimp only
    | split

theorem execTallyWaitEq_ans (shoe : Nat) (seq : Nat) (level : Nat) (s : State) {k0 : Nat} (hk0 : 116424 &&& k0 = 116424) :
    Answers k0 s (execTallyWaitEq shoe seq level s) := by
  unfold execTallyWaitEq
  repeat' first
    | with_reducible exact Moves.refl _ _
    | with_reducible assumption
    | with_reducible exact mask_le hk0 (by decide)
    | with_reducible apply Moves.ite
    | with_reducible apply Moves.ite_fst
    | with_reducible (apply startTally_ans)
    | with_reducible (apply Moves.foldl)
    | with_reducible (apply Moves.foldl_fst)
    | with_reducible (apply Moves.of_eq; assumption)
    | with_reducible intro _
    | dsimp only
    | split

theorem execTallyArm_ans (shoe : Nat) (seq : Nat) (level : Nat) (s : State) {k0 : Nat} (hk0 : 116424 &&& k0 = 116424) :
    Answers k0 s (execTallyArm shoe seq level s) := by
  unfold execTallyArm
  repeat' first
    | with_reducible exact Moves.refl _ _
    | with_reducible assumption
    | with_reducible exact mask_le hk0 (by decide)
    | with_reducible apply Moves.ite
    | with_reducible apply Moves.ite_fst
    | with_reducible (apply startTally_ans)
    | with_reducible (apply Moves.foldl)
    | with_reducible (apply Moves.foldl_fst)
    | with_reducible (apply Moves.of_eq; assumption)
    | with_reducible intro _
    | dsimp only
    | split

theorem execTallyPoison_ans (shoe : Nat) (seq : Nat) (level : Nat) (s : State) {k0 : Nat} (hk0 : 116424 &&& k0 = 116424) :
    Answers k0 s (execTallyPoison shoe seq level s) := by
  unfold execTallyPoison
  repeat' first
    | with_reducible exact Moves.refl _ _
    | with_reducible assumption
    | with_reducible exact mask_le hk0 (by decide)
    | with_reducible apply Moves.ite
    | with_reducible apply Moves.ite_fst
    | with_reducible (apply startTally_ans)
    | with_reducible (apply Moves.foldl)
    | with_reducible (apply Moves.foldl_fst)
    | with_reducible (apply Moves.of_eq; assumption)
    | with_reducible intro _
    | dsimp only
    | split

theorem execWaitMem_ans (shoe : Nat) (seq : Nat) (level : Nat) (s : State) {k0 : Nat} (hk0 : 66760 &&& k0 = 66760) :
    Answers k0 s (execWaitMem shoe seq level s) := by
  unfold execWaitMem
  repeat' first
    | with_reducible exact Moves.refl _ _
    | with_reducible assumption
    | with_reducible exact mask_le hk0 (by decide)
    | with_reducible apply Moves.ite
    | with_reducible apply Moves.ite_fst
    | with_reducible (apply heldCmd_moves)
    | with_reducible (apply startOf_ans)
    | with_reducible (apply waitMemRead_moves)
    | with_reducible (apply withCmd_moves)
    | with_reducible (apply Moves.foldl)
    | with_reducible (apply Moves.foldl_fst)
    | with_reducible (apply Moves.of_eq; assumption)
    | with_reducible intro _
    | dsimp only
    | split

theorem execWaitMemPoll_ans (shoe : Nat) (seq : Nat) (level : Nat) (granule : Nat) (s : State) {k0 : Nat} (hk0 : 136 &&& k0 = 136) :
    Answers k0 s (execWaitMemPoll shoe seq level granule s) := by
  unfold execWaitMemPoll
  repeat' first
    | with_reducible exact Moves.refl _ _
    | with_reducible assumption
    | with_reducible exact mask_le hk0 (by decide)
    | with_reducible apply Moves.ite
    | with_reducible apply Moves.ite_fst
    | with_reducible (apply onDies_ans)
    | with_reducible (apply waitMemPoll_moves)
    | with_reducible (apply Moves.foldl)
    | with_reducible (apply Moves.foldl_fst)
    | with_reducible (apply Moves.of_eq; assumption)
    | with_reducible intro _
    | dsimp only
    | split

theorem execWaitMemReadReturn_ans (shoe : Nat) (seq : Nat) (level : Nat) (granule : Nat) (value : HostResp) (s : State) {k0 : Nat} (hk0 : 524424 &&& k0 = 524424) :
    Answers k0 s (execWaitMemReadReturn shoe seq level granule value s) := by
  unfold execWaitMemReadReturn
  repeat' first
    | with_reducible exact Moves.refl _ _
    | with_reducible assumption
    | with_reducible exact mask_le hk0 (by decide)
    | with_reducible apply Moves.ite
    | with_reducible apply Moves.ite_fst
    | with_reducible (apply onDies_ans)
    | with_reducible (apply waitMemReturn_moves)
    | with_reducible (apply Moves.foldl)
    | with_reducible (apply Moves.foldl_fst)
    | with_reducible (apply Moves.of_eq; assumption)
    | with_reducible intro _
    | dsimp only
    | split

theorem execWriteMem_ans (shoe : Nat) (seq : Nat) (level : Nat) (s : State) {k0 : Nat} (hk0 : 66760 &&& k0 = 66760) :
    Answers k0 s (execWriteMem shoe seq level s) := by
  unfold execWriteMem
  repeat' first
    | with_reducible exact Moves.refl _ _
    | with_reducible assumption
    | with_reducible exact mask_le hk0 (by decide)
    | with_reducible apply Moves.ite
    | with_reducible apply Moves.ite_fst
    | with_reducible (apply runWriteMem_moves)
    | with_reducible (apply startOf_ans)
    | with_reducible (apply withCmd_moves)
    | with_reducible (apply Moves.foldl)
    | with_reducible (apply Moves.foldl_fst)
    | with_reducible (apply Moves.of_eq; assumption)
    | with_reducible intro _
    | dsimp only
    | split

theorem execHostCopy_ans (shoe : Nat) (seq : Nat) (level : Nat) (granule : Nat) (bursts : Nat) (data : HostResp) (s : State) {k0 : Nat} (hk0 : 861640 &&& k0 = 861640) :
    Answers k0 s (execHostCopy shoe seq level granule bursts data s) := by
  unfold execHostCopy
  repeat' first
    | with_reducible exact Moves.refl _ _
    | with_reducible assumption
    | with_reducible exact mask_le hk0 (by decide)
    | with_reducible apply Moves.ite
    | with_reducible apply Moves.ite_fst
    | with_reducible (apply hostCopyCmd_moves)
    | with_reducible (apply startAt_ans)
    | with_reducible (apply Moves.foldl)
    | with_reducible (apply Moves.foldl_fst)
    | with_reducible (apply Moves.of_eq; assumption)
    | with_reducible intro _
    | dsimp only
    | split

theorem execIfCmd_ans (shoe : Nat) (seq : Nat) (level : Nat) (s : State) {k0 : Nat} (hk0 : 66760 &&& k0 = 66760) :
    Answers k0 s (execIfCmd shoe seq level s) := by
  unfold execIfCmd
  repeat' first
    | with_reducible exact Moves.refl _ _
    | with_reducible assumption
    | with_reducible exact mask_le hk0 (by decide)
    | with_reducible apply Moves.ite
    | with_reducible apply Moves.ite_fst
    | with_reducible (apply runIf_moves)
    | with_reducible (apply startOf_ans)
    | with_reducible (apply withCmd_moves)
    | with_reducible (apply Moves.foldl)
    | with_reducible (apply Moves.foldl_fst)
    | with_reducible (apply Moves.of_eq; assumption)
    | with_reducible intro _
    | dsimp only
    | split

theorem execLoopCmd_ans (shoe : Nat) (seq : Nat) (level : Nat) (s : State) {k0 : Nat} (hk0 : 66760 &&& k0 = 66760) :
    Answers k0 s (execLoopCmd shoe seq level s) := by
  unfold execLoopCmd
  repeat' first
    | with_reducible exact Moves.refl _ _
    | with_reducible assumption
    | with_reducible exact mask_le hk0 (by decide)
    | with_reducible apply Moves.ite
    | with_reducible apply Moves.ite_fst
    | with_reducible (apply runLoop_moves)
    | with_reducible (apply startOf_ans)
    | with_reducible (apply withCmd_moves)
    | with_reducible (apply Moves.foldl)
    | with_reducible (apply Moves.foldl_fst)
    | with_reducible (apply Moves.of_eq; assumption)
    | with_reducible intro _
    | dsimp only
    | split

theorem execLoopIterationStart_ans (shoe : Nat) (seq : Nat) (level : Nat) (s : State) {k0 : Nat} (hk0 : 128 &&& k0 = 128) :
    Answers k0 s (execLoopIterationStart shoe seq level s) := by
  unfold execLoopIterationStart
  repeat' first
    | with_reducible exact Moves.refl _ _
    | with_reducible assumption
    | with_reducible exact mask_le hk0 (by decide)
    | with_reducible apply Moves.ite
    | with_reducible apply Moves.ite_fst
    | with_reducible (apply loopIterate_moves)
    | with_reducible (apply onDies_ans)
    | with_reducible (apply Moves.foldl)
    | with_reducible (apply Moves.foldl_fst)
    | with_reducible (apply Moves.of_eq; assumption)
    | with_reducible intro _
    | dsimp only
    | split

theorem execCallCmd_ans (shoe : Nat) (seq : Nat) (level : Nat) (granule : Nat) (deck : HostResp) (s : State) {k0 : Nat} (hk0 : 4190202 &&& k0 = 4190202) :
    Answers k0 s (execCallCmd shoe seq level granule deck s) := by
  unfold execCallCmd
  repeat' first
    | with_reducible exact Moves.refl _ _
    | with_reducible assumption
    | with_reducible exact mask_le hk0 (by decide)
    | with_reducible apply Moves.ite
    | with_reducible apply Moves.ite_fst
    | with_reducible (apply callCmd_moves)
    | with_reducible (apply startAt_ans)
    | with_reducible (apply Moves.foldl)
    | with_reducible (apply Moves.foldl_fst)
    | with_reducible (apply Moves.of_eq; assumption)
    | with_reducible intro _
    | dsimp only
    | split

theorem execCallComplete_ans (shoe : Nat) (seq : Nat) (level : Nat) (s : State) {k0 : Nat} (hk0 : 128 &&& k0 = 128) :
    Answers k0 s (execCallComplete shoe seq level s) := by
  unfold execCallComplete
  repeat' first
    | with_reducible exact Moves.refl _ _
    | with_reducible assumption
    | with_reducible exact mask_le hk0 (by decide)
    | with_reducible apply Moves.ite
    | with_reducible apply Moves.ite_fst
    | with_reducible (apply callEnd_moves)
    | with_reducible (apply onDies_ans)
    | with_reducible (apply Moves.foldl)
    | with_reducible (apply Moves.foldl_fst)
    | with_reducible (apply Moves.of_eq; assumption)
    | with_reducible intro _
    | dsimp only
    | split

theorem execPageMap_ans (shoe : Nat) (seq : Nat) (level : Nat) (s : State) {k0 : Nat} (hk0 : 67016 &&& k0 = 67016) :
    Answers k0 s (execPageMap shoe seq level s) := by
  unfold execPageMap
  repeat' first
    | with_reducible exact Moves.refl _ _
    | with_reducible assumption
    | with_reducible exact mask_le hk0 (by decide)
    | with_reducible apply Moves.ite
    | with_reducible apply Moves.ite_fst
    | with_reducible (apply startPage_ans)
    | with_reducible (apply Moves.foldl)
    | with_reducible (apply Moves.foldl_fst)
    | with_reducible (apply Moves.of_eq; assumption)
    | with_reducible intro _
    | dsimp only
    | split

theorem execPageUnmap_ans (shoe : Nat) (seq : Nat) (level : Nat) (s : State) {k0 : Nat} (hk0 : 67016 &&& k0 = 67016) :
    Answers k0 s (execPageUnmap shoe seq level s) := by
  unfold execPageUnmap
  repeat' first
    | with_reducible exact Moves.refl _ _
    | with_reducible assumption
    | with_reducible exact mask_le hk0 (by decide)
    | with_reducible apply Moves.ite
    | with_reducible apply Moves.ite_fst
    | with_reducible (apply startPage_ans)
    | with_reducible (apply Moves.foldl)
    | with_reducible (apply Moves.foldl_fst)
    | with_reducible (apply Moves.of_eq; assumption)
    | with_reducible intro _
    | dsimp only
    | split

theorem execPagePromote_ans (shoe : Nat) (seq : Nat) (level : Nat) (s : State) {k0 : Nat} (hk0 : 67016 &&& k0 = 67016) :
    Answers k0 s (execPagePromote shoe seq level s) := by
  unfold execPagePromote
  repeat' first
    | with_reducible exact Moves.refl _ _
    | with_reducible assumption
    | with_reducible exact mask_le hk0 (by decide)
    | with_reducible apply Moves.ite
    | with_reducible apply Moves.ite_fst
    | with_reducible (apply startPage_ans)
    | with_reducible (apply Moves.foldl)
    | with_reducible (apply Moves.foldl_fst)
    | with_reducible (apply Moves.of_eq; assumption)
    | with_reducible intro _
    | dsimp only
    | split

theorem execPageDemote_ans (shoe : Nat) (seq : Nat) (level : Nat) (s : State) {k0 : Nat} (hk0 : 67016 &&& k0 = 67016) :
    Answers k0 s (execPageDemote shoe seq level s) := by
  unfold execPageDemote
  repeat' first
    | with_reducible exact Moves.refl _ _
    | with_reducible assumption
    | with_reducible exact mask_le hk0 (by decide)
    | with_reducible apply Moves.ite
    | with_reducible apply Moves.ite_fst
    | with_reducible (apply startPage_ans)
    | with_reducible (apply Moves.foldl)
    | with_reducible (apply Moves.foldl_fst)
    | with_reducible (apply Moves.of_eq; assumption)
    | with_reducible intro _
    | dsimp only
    | split

theorem execPageMoveCommit_ans (table : Nat) (page : Nat) (s : State) {k0 : Nat} (hk0 : 271816 &&& k0 = 271816) :
    Answers k0 s (execPageMoveCommit table page s) := by
  unfold execPageMoveCommit
  repeat' first
    | with_reducible exact Moves.refl _ _
    | with_reducible assumption
    | with_reducible exact mask_le hk0 (by decide)
    | with_reducible apply Moves.ite
    | with_reducible apply Moves.ite_fst
    | with_reducible (apply moveCommit_moves)
    | with_reducible (apply onDies_ans)
    | with_reducible (apply Moves.foldl)
    | with_reducible (apply Moves.foldl_fst)
    | with_reducible (apply Moves.of_eq; assumption)
    | with_reducible intro _
    | dsimp only
    | split

theorem execClearCmd_ans (seq : Nat) (level : Nat) (units : Nat) (s : State) {k0 : Nat} (hk0 : 8576 &&& k0 = 8576) :
    Answers k0 s (execClearCmd seq level units s) := by
  unfold execClearCmd
  repeat' first
    | with_reducible exact Moves.refl _ _
    | with_reducible assumption
    | with_reducible exact mask_le hk0 (by decide)
    | with_reducible apply Moves.ite
    | with_reducible apply Moves.ite_fst
    | with_reducible (apply clearStart_moves)
    | with_reducible (apply onDies_ans)
    | with_reducible (apply Moves.foldl)
    | with_reducible (apply Moves.foldl_fst)
    | with_reducible (apply Moves.of_eq; assumption)
    | with_reducible intro _
    | dsimp only
    | split

theorem execClearComplete_ans (seq : Nat) (level : Nat) (s : State) {k0 : Nat} (hk0 : 8576 &&& k0 = 8576) :
    Answers k0 s (execClearComplete seq level s) := by
  unfold execClearComplete
  repeat' first
    | with_reducible exact Moves.refl _ _
    | with_reducible assumption
    | with_reducible exact mask_le hk0 (by decide)
    | with_reducible apply Moves.ite
    | with_reducible apply Moves.ite_fst
    | with_reducible (apply clearEnd_moves)
    | with_reducible (apply onDies_ans)
    | with_reducible (apply Moves.foldl)
    | with_reducible (apply Moves.foldl_fst)
    | with_reducible (apply Moves.of_eq; assumption)
    | with_reducible intro _
    | dsimp only
    | split

theorem execCommonLoad_ans (seq : Nat) (level : Nat) (data : HostResp) (s : State) {k0 : Nat} (hk0 : 796104 &&& k0 = 796104) :
    Answers k0 s (execCommonLoad seq level data s) := by
  unfold execCommonLoad
  repeat' first
    | with_reducible exact Moves.refl _ _
    | with_reducible assumption
    | with_reducible exact mask_le hk0 (by decide)
    | with_reducible apply Moves.ite
    | with_reducible apply Moves.ite_fst
    | with_reducible (apply commonLoad_moves)
    | with_reducible (apply onDies_ans)
    | with_reducible (apply Moves.foldl)
    | with_reducible (apply Moves.foldl_fst)
    | with_reducible (apply Moves.of_eq; assumption)
    | with_reducible intro _
    | dsimp only
    | split

theorem execCommonRemove_ans (seq : Nat) (level : Nat) (s : State) {k0 : Nat} (hk0 : 384 &&& k0 = 384) :
    Answers k0 s (execCommonRemove seq level s) := by
  unfold execCommonRemove
  repeat' first
    | with_reducible exact Moves.refl _ _
    | with_reducible assumption
    | with_reducible exact mask_le hk0 (by decide)
    | with_reducible apply Moves.ite
    | with_reducible apply Moves.ite_fst
    | with_reducible (apply commonRemove_moves)
    | with_reducible (apply onDies_ans)
    | with_reducible (apply Moves.foldl)
    | with_reducible (apply Moves.foldl_fst)
    | with_reducible (apply Moves.of_eq; assumption)
    | with_reducible intro _
    | dsimp only
    | split

theorem execTableLoad_ans (seq : Nat) (level : Nat) (table : HostResp) (s : State) {k0 : Nat} (hk0 : 524424 &&& k0 = 524424) :
    Answers k0 s (execTableLoad seq level table s) := by
  unfold execTableLoad
  repeat' first
    | with_reducible exact Moves.refl _ _
    | with_reducible assumption
    | with_reducible exact mask_le hk0 (by decide)
    | with_reducible apply Moves.ite
    | with_reducible apply Moves.ite_fst
    | with_reducible (apply onDies_ans)
    | with_reducible (apply tableLoad_moves)
    | with_reducible (apply Moves.foldl)
    | with_reducible (apply Moves.foldl_fst)
    | with_reducible (apply Moves.of_eq; assumption)
    | with_reducible intro _
    | dsimp only
    | split

theorem execTableLoadCommit_ans (slot : Nat) (s : State) {k0 : Nat} (hk0 : 128 &&& k0 = 128) :
    Answers k0 s (execTableLoadCommit slot s) := by
  unfold execTableLoadCommit
  repeat' first
    | with_reducible exact Moves.refl _ _
    | with_reducible assumption
    | with_reducible exact mask_le hk0 (by decide)
    | with_reducible apply Moves.ite
    | with_reducible apply Moves.ite_fst
    | with_reducible (apply onDies_ans)
    | with_reducible (apply tableCommit_moves)
    | with_reducible (apply Moves.foldl)
    | with_reducible (apply Moves.foldl_fst)
    | with_reducible (apply Moves.of_eq; assumption)
    | with_reducible intro _
    | dsimp only
    | split

theorem execFenceClear_ans (seq : Nat) (level : Nat) (s : State) {k0 : Nat} (hk0 : 267464 &&& k0 = 267464) :
    Answers k0 s (execFenceClear seq level s) := by
  unfold execFenceClear
  repeat' first
    | with_reducible exact Moves.refl _ _
    | with_reducible assumption
    | with_reducible exact mask_le hk0 (by decide)
    | with_reducible apply Moves.ite
    | with_reducible apply Moves.ite_fst
    | with_reducible (apply fenceClear_moves)
    | with_reducible (apply onDies_ans)
    | with_reducible (apply Moves.foldl)
    | with_reducible (apply Moves.foldl_fst)
    | with_reducible (apply Moves.of_eq; assumption)
    | with_reducible intro _
    | dsimp only
    | split

theorem execSeal_ans (seq : Nat) (level : Nat) (flashOk : Bool) (s : State) {k0 : Nat} (hk0 : 345306 &&& k0 = 345306) :
    Answers k0 s (execSeal seq level flashOk s) := by
  unfold execSeal
  repeat' first
    | with_reducible exact Moves.refl _ _
    | with_reducible assumption
    | with_reducible exact mask_le hk0 (by decide)
    | with_reducible apply Moves.ite
    | with_reducible apply Moves.ite_fst
    | with_reducible (apply onDies_ans)
    | with_reducible (apply sealCmd_moves)
    | with_reducible (apply Moves.foldl)
    | with_reducible (apply Moves.foldl_fst)
    | with_reducible (apply Moves.of_eq; assumption)
    | with_reducible intro _
    | dsimp only
    | split

end Sys2Proof.Machine
end

