-- ==== Sys2Proof/Laws/MovesEccCmds.lean ====
section
/-! SUPPORT. What each operation of Machine/EccCmds.lean may change. -/

set_option linter.unreachableTactic false
set_option linter.unusedTactic false
set_option linter.unusedVariables false

namespace Sys2Proof.Machine

theorem execEccWriteBack_ans (s : State) {k0 : Nat} (hk0 : 8448 &&& k0 = 8448) :
    Answers k0 s (execEccWriteBack s) := by
  unfold execEccWriteBack
  repeat' first
    | with_reducible exact Moves.refl _ _
    | with_reducible assumption
    | with_reducible exact mask_le hk0 (by decide)
    | with_reducible apply Moves.ite
    | with_reducible apply Moves.ite_fst
    | with_reducible (apply onDies_ans)
    | with_reducible (apply writeBack_moves)
    | with_reducible (apply Moves.foldl)
    | with_reducible (apply Moves.foldl_fst)
    | with_reducible (apply Moves.of_eq; assumption)
    | with_reducible intro _
    | dsimp only
    | split

theorem execEccCeOverClear_ans (die : Nat) (group : Nat) (s : State) {k0 : Nat} (hk0 : 4202496 &&& k0 = 4202496) :
    Answers k0 s (execEccCeOverClear die group s) := by
  unfold execEccCeOverClear
  repeat' first
    | with_reducible exact Moves.refl _ _
    | with_reducible assumption
    | with_reducible exact mask_le hk0 (by decide)
    | with_reducible apply Moves.ite
    | with_reducible apply Moves.ite_fst
    | with_reducible (apply always_ans)
    | with_reducible (apply countClear_moves)
    | with_reducible (apply inP0_moves)
    | with_reducible (apply viaReg_moves)
    | with_reducible (apply Moves.foldl)
    | with_reducible (apply Moves.foldl_fst)
    | with_reducible (apply Moves.of_eq; assumption)
    | with_reducible intro _
    | dsimp only
    | split

theorem execEccLogRelease_ans (die : Nat) (entry : Nat) (s : State) {k0 : Nat} (hk0 : 4202496 &&& k0 = 4202496) :
    Answers k0 s (execEccLogRelease die entry s) := by
  unfold execEccLogRelease
  repeat' first
    | with_reducible exact Moves.refl _ _
    | with_reducible assumption
    | with_reducible exact mask_le hk0 (by decide)
    | with_reducible apply Moves.ite
    | with_reducible apply Moves.ite_fst
    | with_reducible (apply always_ans)
    | with_reducible (apply inP0_moves)
    | with_reducible (apply logRelease_moves)
    | with_reducible (apply viaReg_moves)
    | with_reducible (apply Moves.foldl)
    | with_reducible (apply Moves.foldl_fst)
    | with_reducible (apply Moves.of_eq; assumption)
    | with_reducible intro _
    | dsimp only
    | split

theorem execEccPatchInstall_ans (die : Nat) (mac : Nat) (row : Nat) (word : Nat) (s : State) {k0 : Nat} (hk0 : 4203776 &&& k0 = 4203776) :
    Answers k0 s (execEccPatchInstall die mac row word s) := by
  unfold execEccPatchInstall
  repeat' first
    | with_reducible exact Moves.refl _ _
    | with_reducible assumption
    | with_reducible exact mask_le hk0 (by decide)
    | with_reducible apply Moves.ite
    | with_reducible apply Moves.ite_fst
    | with_reducible (apply always_ans)
    | with_reducible (apply inP0_moves)
    | with_reducible (apply patchWrite_moves)
    | with_reducible (apply viaWide_moves)
    | with_reducible (apply Moves.foldl)
    | with_reducible (apply Moves.foldl_fst)
    | with_reducible (apply Moves.of_eq; assumption)
    | with_reducible intro _
    | dsimp only
    | split

theorem execEccPatchRemove_ans (die : Nat) (mac : Nat) (row : Nat) (word : Nat) (s : State) {k0 : Nat} (hk0 : 4203776 &&& k0 = 4203776) :
    Answers k0 s (execEccPatchRemove die mac row word s) := by
  unfold execEccPatchRemove
  repeat' first
    | with_reducible exact Moves.refl _ _
    | with_reducible assumption
    | with_reducible exact mask_le hk0 (by decide)
    | with_reducible apply Moves.ite
    | with_reducible apply Moves.ite_fst
    | with_reducible (apply always_ans)
    | with_reducible (apply inP0_moves)
    | with_reducible (apply patchWrite_moves)
    | with_reducible (apply viaWide_moves)
    | with_reducible (apply Moves.foldl)
    | with_reducible (apply Moves.foldl_fst)
    | with_reducible (apply Moves.of_eq; assumption)
    | with_reducible intro _
    | dsimp only
    | split

theorem execEccTestWriteNormal_ans (s : State) {k0 : Nat} (hk0 : 4466120 &&& k0 = 4466120) :
    Answers k0 s (execEccTestWriteNormal s) := by
  unfold execEccTestWriteNormal
  repeat' first
    | with_reducible exact Moves.refl _ _
    | with_reducible assumption
    | with_reducible exact mask_le hk0 (by decide)
    | with_reducible apply Moves.ite
    | with_reducible apply Moves.ite_fst
    | with_reducible (apply always_ans)
    | with_reducible (apply inP0_moves)
    | with_reducible (apply testOp_moves)
    | with_reducible (apply viaReg_moves)
    | with_reducible (apply Moves.foldl)
    | with_reducible (apply Moves.foldl_fst)
    | with_reducible (apply Moves.of_eq; assumption)
    | with_reducible intro _
    | dsimp only
    | split

theorem execEccTestWriteSplit_ans (s : State) {k0 : Nat} (hk0 : 4466120 &&& k0 = 4466120) :
    Answers k0 s (execEccTestWriteSplit s) := by
  unfold execEccTestWriteSplit
  repeat' first
    | with_reducible exact Moves.refl _ _
    | with_reducible assumption
    | with_reducible exact mask_le hk0 (by decide)
    | with_reducible apply Moves.ite
    | with_reducible apply Moves.ite_fst
    | with_reducible (apply always_ans)
    | with_reducible (apply inP0_moves)
    | with_reducible (apply testOp_moves)
    | with_reducible (apply viaReg_moves)
    | with_reducible (apply Moves.foldl)
    | with_reducible (apply Moves.foldl_fst)
    | with_reducible (apply Moves.of_eq; assumption)
    | with_reducible intro _
    | dsimp only
    | split

theorem execEccTestRead_ans (s : State) {k0 : Nat} (hk0 : 4466120 &&& k0 = 4466120) :
    Answers k0 s (execEccTestRead s) := by
  unfold execEccTestRead
  repeat' first
    | with_reducible exact Moves.refl _ _
    | with_reducible assumption
    | with_reducible exact mask_le hk0 (by decide)
    | with_reducible apply Moves.ite
    | with_reducible apply Moves.ite_fst
    | with_reducible (apply always_ans)
    | with_reducible (apply inP0_moves)
    | with_reducible (apply testOp_moves)
    | with_reducible (apply viaReg_moves)
    | with_reducible (apply Moves.foldl)
    | with_reducible (apply Moves.foldl_fst)
    | with_reducible (apply Moves.of_eq; assumption)
    | with_reducible intro _
    | dsimp only
    | split

theorem execEccTestArmFlip_ans (s : State) {k0 : Nat} (hk0 : 4466120 &&& k0 = 4466120) :
    Answers k0 s (execEccTestArmFlip s) := by
  unfold execEccTestArmFlip
  repeat' first
    | with_reducible exact Moves.refl _ _
    | with_reducible assumption
    | with_reducible exact mask_le hk0 (by decide)
    | with_reducible apply Moves.ite
    | with_reducible apply Moves.ite_fst
    | with_reducible (apply always_ans)
    | with_reducible (apply inP0_moves)
    | with_reducible (apply testOp_moves)
    | with_reducible (apply viaReg_moves)
    | with_reducible (apply Moves.foldl)
    | with_reducible (apply Moves.foldl_fst)
    | with_reducible (apply Moves.of_eq; assumption)
    | with_reducible intro _
    | dsimp only
    | split

end Sys2Proof.Machine
end

