-- ==== Sys2Proof/Laws/MovesFaultCmds.lean ====
section
/-! SUPPORT. What each operation of Machine/FaultCmds.lean may change. -/

set_option linter.unreachableTactic false
set_option linter.unusedTactic false
set_option linter.unusedVariables false

namespace Sys2Proof.Machine

theorem execRedealRequest_ans (finish : Bool) (s : State) {k0 : Nat} (hk0 : 7860218 &&& k0 = 7860218) :
    Answers k0 s (execRedealRequest finish s) := by
  unfold execRedealRequest
  repeat' first
    | with_reducible exact Moves.refl _ _
    | with_reducible assumption
    | with_reducible exact mask_le hk0 (by decide)
    | with_reducible apply Moves.ite
    | with_reducible apply Moves.ite_fst
    | with_reducible (apply always_ans)
    | with_reducible (apply inP0_moves)
    | with_reducible (apply startRedeal_moves)
    | with_reducible (apply viaReg_moves)
    | with_reducible (apply Moves.foldl)
    | with_reducible (apply Moves.foldl_fst)
    | with_reducible (apply Moves.of_eq; assumption)
    | with_reducible intro _
    | dsimp only
    | split

theorem execRedealWalkEnd_ans (s : State) {k0 : Nat} (hk0 : 273880 &&& k0 = 273880) :
    Answers k0 s (execRedealWalkEnd s) := by
  unfold execRedealWalkEnd
  repeat' first
    | with_reducible exact Moves.refl _ _
    | with_reducible assumption
    | with_reducible exact mask_le hk0 (by decide)
    | with_reducible apply Moves.ite
    | with_reducible apply Moves.ite_fst
    | with_reducible (apply onDies_ans)
    | with_reducible (apply walkEnd_moves)
    | with_reducible (apply Moves.foldl)
    | with_reducible (apply Moves.foldl_fst)
    | with_reducible (apply Moves.of_eq; assumption)
    | with_reducible intro _
    | dsimp only
    | split

theorem execRedealResume_ans (s : State) {k0 : Nat} (hk0 : 4459736 &&& k0 = 4459736) :
    Answers k0 s (execRedealResume s) := by
  unfold execRedealResume
  repeat' first
    | with_reducible exact Moves.refl _ _
    | with_reducible assumption
    | with_reducible exact mask_le hk0 (by decide)
    | with_reducible apply Moves.ite
    | with_reducible apply Moves.ite_fst
    | with_reducible (apply always_ans)
    | with_reducible (apply inP0_moves)
    | with_reducible (apply redealResume_moves)
    | with_reducible (apply viaReg_moves)
    | with_reducible (apply Moves.foldl)
    | with_reducible (apply Moves.foldl_fst)
    | with_reducible (apply Moves.of_eq; assumption)
    | with_reducible intro _
    | dsimp only
    | split

theorem execRedealBoundExpiry_ans (s : State) {k0 : Nat} (hk0 : 323544 &&& k0 = 323544) :
    Answers k0 s (execRedealBoundExpiry s) := by
  unfold execRedealBoundExpiry
  repeat' first
    | with_reducible exact Moves.refl _ _
    | with_reducible assumption
    | with_reducible exact mask_le hk0 (by decide)
    | with_reducible apply Moves.ite
    | with_reducible apply Moves.ite_fst
    | with_reducible (apply onDies_ans)
    | with_reducible (apply redealBound_moves)
    | with_reducible (apply Moves.foldl)
    | with_reducible (apply Moves.foldl_fst)
    | with_reducible (apply Moves.of_eq; assumption)
    | with_reducible intro _
    | dsimp only
    | split

theorem execRedealStallAlert_ans (s : State) {k0 : Nat} (hk0 : 262152 &&& k0 = 262152) :
    Answers k0 s (execRedealStallAlert s) := by
  unfold execRedealStallAlert
  repeat' first
    | with_reducible exact Moves.refl _ _
    | with_reducible assumption
    | with_reducible exact mask_le hk0 (by decide)
    | with_reducible apply Moves.ite
    | with_reducible apply Moves.ite_fst
    | with_reducible (apply alertLatch_moves)
    | with_reducible (apply onDies_ans)
    | with_reducible (apply Moves.foldl)
    | with_reducible (apply Moves.foldl_fst)
    | with_reducible (apply Moves.of_eq; assumption)
    | with_reducible intro _
    | dsimp only
    | split

theorem execDealerUnitFault_ans (cls : Nat) (unit : Nat) (s : State) {k0 : Nat} (hk0 : 317384 &&& k0 = 317384) :
    Answers k0 s (execDealerUnitFault cls unit s) := by
  unfold execDealerUnitFault
  repeat' first
    | with_reducible exact Moves.refl _ _
    | with_reducible assumption
    | with_reducible exact mask_le hk0 (by decide)
    | with_reducible apply Moves.ite
    | with_reducible apply Moves.ite_fst
    | with_reducible (apply dealerFault_moves)
    | with_reducible (apply onDies_ans)
    | with_reducible (apply Moves.foldl)
    | with_reducible (apply Moves.foldl_fst)
    | with_reducible (apply Moves.of_eq; assumption)
    | with_reducible intro _
    | dsimp only
    | split

theorem execLamphouseUnitDisable_ans (cls : Nat) (unit : Nat) (power : Bool) (s : State) {k0 : Nat} (hk0 : 317384 &&& k0 = 317384) :
    Answers k0 s (execLamphouseUnitDisable cls unit power s) := by
  unfold execLamphouseUnitDisable
  repeat' first
    | with_reducible exact Moves.refl _ _
    | with_reducible assumption
    | with_reducible exact mask_le hk0 (by decide)
    | with_reducible apply Moves.ite
    | with_reducible apply Moves.ite_fst
    | with_reducible (apply lamphouseDisable_moves)
    | with_reducible (apply onDies_ans)
    | with_reducible (apply Moves.foldl)
    | with_reducible (apply Moves.foldl_fst)
    | with_reducible (apply Moves.of_eq; assumption)
    | with_reducible intro _
    | dsimp only
    | split

theorem readError_moves (t : ReadTarget) (s : State) {k0 : Nat} {z0 : State} (hz : Moves k0 z0 s) (hk0 : 8388602 &&& k0 = 8388602) :
    Moves k0 z0 (readError t s) := by
  refine hz.trans ?_
  clear hz
  unfold readError
  repeat' first
    | with_reducible exact Moves.refl _ _
    | with_reducible assumption
    | with_reducible exact mask_le hk0 (by decide)
    | with_reducible apply Moves.ite
    | with_reducible apply Moves.ite_fst
    | with_reducible (apply callCmd_moves)
    | with_reducible (apply claimCmd_moves)
    | with_reducible (apply cmdAtGate_moves)
    | with_reducible (apply commonLoad_moves)
    | with_reducible (apply deckRead_moves)
    | with_reducible (apply grantBlock_moves)
    | with_reducible (apply grantBlock_pmoves; assumption)
    | with_reducible (apply hostCopyCmd_moves)
    | with_reducible (apply inP0_moves)
    | with_reducible (apply keySlotBlock_moves)
    | with_reducible (apply keySlotBlock_pmoves; assumption)
    | with_reducible (apply laneDeckCmd_moves)
    | with_reducible (apply qpCreate_moves)
    | with_reducible (apply qpGo_moves)
    | with_reducible (apply qpModify_moves)
    | with_reducible (apply rawTxWrite_moves)
    | with_reducible (apply rqDoorbell_moves)
    | with_reducible (apply secBlock_moves)
    | with_reducible (apply sqDoorbell_moves)
    | with_reducible (apply tableLoad_moves)
    | with_reducible (apply unlockBlock_moves)
    | with_reducible (apply unlockBlock_pmoves; assumption)
    | with_reducible (apply viaClaim_moves)
    | with_reducible (apply viaReg_moves)
    | with_reducible (apply waitMemReturn_moves)
    | with_reducible (apply Moves.foldl)
    | with_reducible (apply Moves.foldl_fst)
    | with_reducible (apply Moves.of_eq; assumption)
    | with_reducible intro _
    | dsimp only
    | split

theorem execHostReadError_ans (target : ReadTarget) (s : State) {k0 : Nat} (hk0 : 8388602 &&& k0 = 8388602) :
    Answers k0 s (execHostReadError target s) := by
  unfold execHostReadError
  repeat' first
    | with_reducible exact Moves.refl _ _
    | with_reducible assumption
    | with_reducible exact mask_le hk0 (by decide)
    | with_reducible apply Moves.ite
    | with_reducible apply Moves.ite_fst
    | with_reducible (apply onDies_ans)
    | with_reducible (apply readError_moves)
    | with_reducible (apply Moves.foldl)
    | with_reducible (apply Moves.foldl_fst)
    | with_reducible (apply Moves.of_eq; assumption)
    | with_reducible intro _
    | dsimp only
    | split

end Sys2Proof.Machine
end

