-- ==== Sys2Proof/Laws/MovesLinkCmds.lean ====
section
/-! SUPPORT. What each operation of Machine/LinkCmds.lean may change. -/

set_option linter.unreachableTactic false
set_option linter.unusedTactic false
set_option linter.unusedVariables false

namespace Sys2Proof.Machine

theorem execPortTrainingStart_ans (port : Nat) (result : TrainResult) (s : State) {k0 : Nat} (hk0 : 279624 &&& k0 = 279624) :
    Answers k0 s (execPortTrainingStart port result s) := by
  unfold execPortTrainingStart
  repeat' first
    | with_reducible exact Moves.refl _ _
    | with_reducible assumption
    | with_reducible exact mask_le hk0 (by decide)
    | with_reducible apply Moves.ite
    | with_reducible apply Moves.ite_fst
    | with_reducible (apply onDies_ans)
    | with_reducible (apply trainDown_moves)
    | with_reducible (apply Moves.foldl)
    | with_reducible (apply Moves.foldl_fst)
    | with_reducible (apply Moves.of_eq; assumption)
    | with_reducible intro _
    | dsimp only
    | split

theorem execPortTrainingTimeout_ans (port : Nat) (s : State) {k0 : Nat} (hk0 : 313288 &&& k0 = 313288) :
    Answers k0 s (execPortTrainingTimeout port s) := by
  unfold execPortTrainingTimeout
  repeat' first
    | with_reducible exact Moves.refl _ _
    | with_reducible assumption
    | with_reducible exact mask_le hk0 (by decide)
    | with_reducible apply Moves.ite
    | with_reducible apply Moves.ite_fst
    | with_reducible (apply onDies_ans)
    | with_reducible (apply trainTimeout_moves)
    | with_reducible (apply Moves.foldl)
    | with_reducible (apply Moves.foldl_fst)
    | with_reducible (apply Moves.of_eq; assumption)
    | with_reducible intro _
    | dsimp only
    | split

theorem execPortRetrainTimer_ans (port : Nat) (result : TrainResult) (s : State) {k0 : Nat} (hk0 : 279624 &&& k0 = 279624) :
    Answers k0 s (execPortRetrainTimer port result s) := by
  unfold execPortRetrainTimer
  repeat' first
    | with_reducible exact Moves.refl _ _
    | with_reducible assumption
    | with_reducible exact mask_le hk0 (by decide)
    | with_reducible apply Moves.ite
    | with_reducible apply Moves.ite_fst
    | with_reducible (apply onDies_ans)
    | with_reducible (apply trainDown_moves)
    | with_reducible (apply Moves.foldl)
    | with_reducible (apply Moves.foldl_fst)
    | with_reducible (apply Moves.of_eq; assumption)
    | with_reducible intro _
    | dsimp only
    | split

theorem execHelloReceived_ans (port : Nat) (payload : List Byte) (s : State) {k0 : Nat} (hk0 : 313288 &&& k0 = 313288) :
    Answers k0 s (execHelloReceived port payload s) := by
  unfold execHelloReceived
  repeat' first
    | with_reducible exact Moves.refl _ _
    | with_reducible assumption
    | with_reducible exact mask_le hk0 (by decide)
    | with_reducible apply Moves.ite
    | with_reducible apply Moves.ite_fst
    | with_reducible (apply failXfers_moves)
    | with_reducible (apply helloReceived_moves)
    | with_reducible (apply helloReceived_pmoves; assumption)
    | with_reducible (apply onDies_ans)
    | with_reducible (apply Moves.foldl)
    | with_reducible (apply Moves.foldl_fst)
    | with_reducible (apply Moves.of_eq; assumption)
    | with_reducible intro _
    | dsimp only
    | split

theorem execQuarantineReceived_ans (port : Nat) (s : State) {k0 : Nat} (hk0 : 313288 &&& k0 = 313288) :
    Answers k0 s (execQuarantineReceived port s) := by
  unfold execQuarantineReceived
  repeat' first
    | with_reducible exact Moves.refl _ _
    | with_reducible assumption
    | with_reducible exact mask_le hk0 (by decide)
    | with_reducible apply Moves.ite
    | with_reducible apply Moves.ite_fst
    | with_reducible (apply failXfers_moves)
    | with_reducible (apply onDies_ans)
    | with_reducible (apply quarantineReceived_moves)
    | with_reducible (apply quarantineReceived_pmoves; assumption)
    | with_reducible (apply Moves.foldl)
    | with_reducible (apply Moves.foldl_fst)
    | with_reducible (apply Moves.of_eq; assumption)
    | with_reducible intro _
    | dsimp only
    | split

theorem execFlitReceived_ans (port : Nat) (lane : Nat) (bytes : List Byte) (dest : Seat) (ns : Nat) (s : State) {k0 : Nat} (hk0 : 2424810 &&& k0 = 2424810) :
    Answers k0 s (execFlitReceived port lane bytes dest ns s) := by
  unfold execFlitReceived
  repeat' first
    | with_reducible exact Moves.refl _ _
    | with_reducible assumption
    | with_reducible exact mask_le hk0 (by decide)
    | with_reducible apply Moves.ite
    | with_reducible apply Moves.ite_fst
    | with_reducible (apply flitReceived_moves)
    | with_reducible (apply onDies_ans)
    | with_reducible (apply Moves.foldl)
    | with_reducible (apply Moves.foldl_fst)
    | with_reducible (apply Moves.of_eq; assumption)
    | with_reducible intro _
    | dsimp only
    | split

theorem execNakReceived_ans (port : Nat) (lane : Nat) (ack : Nat) (s : State) {k0 : Nat} (hk0 : 313288 &&& k0 = 313288) :
    Answers k0 s (execNakReceived port lane ack s) := by
  unfold execNakReceived
  repeat' first
    | with_reducible exact Moves.refl _ _
    | with_reducible assumption
    | with_reducible exact mask_le hk0 (by decide)
    | with_reducible apply Moves.ite
    | with_reducible apply Moves.ite_fst
    | with_reducible (apply nakReceived_moves)
    | with_reducible (apply onDies_ans)
    | with_reducible (apply Moves.foldl)
    | with_reducible (apply Moves.foldl_fst)
    | with_reducible (apply Moves.of_eq; assumption)
    | with_reducible intro _
    | dsimp only
    | split

theorem execReplayLimitReached_ans (port : Nat) (lane : Nat) (s : State) {k0 : Nat} (hk0 : 313288 &&& k0 = 313288) :
    Answers k0 s (execReplayLimitReached port lane s) := by
  unfold execReplayLimitReached
  repeat' first
    | with_reducible exact Moves.refl _ _
    | with_reducible assumption
    | with_reducible exact mask_le hk0 (by decide)
    | with_reducible apply Moves.ite
    | with_reducible apply Moves.ite_fst
    | with_reducible (apply onDies_ans)
    | with_reducible (apply replayLimit_moves)
    | with_reducible (apply Moves.foldl)
    | with_reducible (apply Moves.foldl_fst)
    | with_reducible (apply Moves.of_eq; assumption)
    | with_reducible intro _
    | dsimp only
    | split

theorem execLaneFailure_ans (port : Nat) (lane : Nat) (s : State) {k0 : Nat} (hk0 : 313288 &&& k0 = 313288) :
    Answers k0 s (execLaneFailure port lane s) := by
  unfold execLaneFailure
  repeat' first
    | with_reducible exact Moves.refl _ _
    | with_reducible assumption
    | with_reducible exact mask_le hk0 (by decide)
    | with_reducible apply Moves.ite
    | with_reducible apply Moves.ite_fst
    | with_reducible (apply laneFailure_moves)
    | with_reducible (apply onDies_ans)
    | with_reducible (apply Moves.foldl)
    | with_reducible (apply Moves.foldl_fst)
    | with_reducible (apply Moves.of_eq; assumption)
    | with_reducible intro _
    | dsimp only
    | split

theorem execLanesReceived_ans (port : Nat) (bitmap : Nat) (s : State) {k0 : Nat} (hk0 : 313288 &&& k0 = 313288) :
    Answers k0 s (execLanesReceived port bitmap s) := by
  unfold execLanesReceived
  repeat' first
    | with_reducible exact Moves.refl _ _
    | with_reducible assumption
    | with_reducible exact mask_le hk0 (by decide)
    | with_reducible apply Moves.ite
    | with_reducible apply Moves.ite_fst
    | with_reducible (apply lanesMessage_moves)
    | with_reducible (apply onDies_ans)
    | with_reducible (apply Moves.foldl)
    | with_reducible (apply Moves.foldl_fst)
    | with_reducible (apply Moves.of_eq; assumption)
    | with_reducible intro _
    | dsimp only
    | split

theorem execLanesAckReceived_ans (port : Nat) (bitmap : Nat) (s : State) {k0 : Nat} (hk0 : 279624 &&& k0 = 279624) :
    Answers k0 s (execLanesAckReceived port bitmap s) := by
  unfold execLanesAckReceived
  repeat' first
    | with_reducible exact Moves.refl _ _
    | with_reducible assumption
    | with_reducible exact mask_le hk0 (by decide)
    | with_reducible apply Moves.ite
    | with_reducible apply Moves.ite_fst
    | with_reducible (apply lanesAckMessage_moves)
    | with_reducible (apply onDies_ans)
    | with_reducible (apply Moves.foldl)
    | with_reducible (apply Moves.foldl_fst)
    | with_reducible (apply Moves.of_eq; assumption)
    | with_reducible intro _
    | dsimp only
    | split

theorem execPortFailure_ans (port : Nat) (s : State) {k0 : Nat} (hk0 : 313288 &&& k0 = 313288) :
    Answers k0 s (execPortFailure port s) := by
  unfold execPortFailure
  repeat' first
    | with_reducible exact Moves.refl _ _
    | with_reducible assumption
    | with_reducible exact mask_le hk0 (by decide)
    | with_reducible apply Moves.ite
    | with_reducible apply Moves.ite_fst
    | with_reducible (apply onDies_ans)
    | with_reducible (apply portFails_moves)
    | with_reducible (apply Moves.foldl)
    | with_reducible (apply Moves.foldl_fst)
    | with_reducible (apply Moves.of_eq; assumption)
    | with_reducible intro _
    | dsimp only
    | split

theorem execEchoTimer_ans (s : State) {k0 : Nat} (hk0 : 16384 &&& k0 = 16384) :
    Answers k0 s (execEchoTimer s) := by
  unfold execEchoTimer
  repeat' first
    | with_reducible exact Moves.refl _ _
    | with_reducible assumption
    | with_reducible exact mask_le hk0 (by decide)
    | with_reducible apply Moves.ite
    | with_reducible apply Moves.ite_fst
    | with_reducible (apply echoTimer_moves)
    | with_reducible (apply onDies_ans)
    | with_reducible (apply Moves.foldl)
    | with_reducible (apply Moves.foldl_fst)
    | with_reducible (apply Moves.of_eq; assumption)
    | with_reducible intro _
    | dsimp only
    | split

theorem execEchoReceived_ans (port : Nat) (payload : List Byte) (ns : Nat) (s : State) {k0 : Nat} (hk0 : 16384 &&& k0 = 16384) :
    Answers k0 s (execEchoReceived port payload ns s) := by
  unfold execEchoReceived
  repeat' first
    | with_reducible exact Moves.refl _ _
    | with_reducible assumption
    | with_reducible exact mask_le hk0 (by decide)
    | with_reducible apply Moves.ite
    | with_reducible apply Moves.ite_fst
    | with_reducible (apply echoReceived_moves)
    | with_reducible (apply onDies_ans)
    | with_reducible (apply Moves.foldl)
    | with_reducible (apply Moves.foldl_fst)
    | with_reducible (apply Moves.of_eq; assumption)
    | with_reducible intro _
    | dsimp only
    | split

theorem onMessage_moves (kind : Nat) (header : List Byte) (k : MsgHeader → State → State) (s : State) {k0 : Nat} {z0 : State} (hz : Moves k0 z0 s) (hk0 : 0 &&& k0 = 0) (hk_k : ∀ (v0 : MsgHeader) (v1 : State), Moves k0 v1 (k v0 v1)) :
    Moves k0 z0 (onMessage kind header k s) := by
  refine hz.trans ?_
  clear hz
  unfold onMessage
  repeat' first
    | with_reducible exact Moves.refl _ _
    | with_reducible assumption
    | with_reducible exact mask_le hk0 (by decide)
    | with_reducible apply Moves.ite
    | with_reducible apply Moves.ite_fst
    | with_reducible (refine Moves.trans ?_ (hk_k ..))
    | with_reducible (apply Moves.foldl)
    | with_reducible (apply Moves.foldl_fst)
    | with_reducible (apply Moves.of_eq; assumption)
    | with_reducible intro _
    | dsimp only
    | split

theorem execHandReceived_ans (header : List Byte) (data : List Byte) (crcOk : Bool) (s : State) {k0 : Nat} (hk0 : 321480 &&& k0 = 321480) :
    Answers k0 s (execHandReceived header data crcOk s) := by
  unfold execHandReceived
  repeat' first
    | with_reducible exact Moves.refl _ _
    | with_reducible assumption
    | with_reducible exact mask_le hk0 (by decide)
    | with_reducible apply Moves.ite
    | with_reducible apply Moves.ite_fst
    | with_reducible (apply afterMoves_moves)
    | with_reducible (apply handReceived_moves)
    | with_reducible (apply onDies_ans)
    | with_reducible (apply onMessage_moves)
    | with_reducible (apply Moves.foldl)
    | with_reducible (apply Moves.foldl_fst)
    | with_reducible (apply Moves.of_eq; assumption)
    | with_reducible intro _
    | dsimp only
    | split

theorem execPutReceived_ans (header : List Byte) (data : List Byte) (crcOk : Bool) (s : State) {k0 : Nat} (hk0 : 321482 &&& k0 = 321482) :
    Answers k0 s (execPutReceived header data crcOk s) := by
  unfold execPutReceived
  repeat' first
    | with_reducible exact Moves.refl _ _
    | with_reducible assumption
    | with_reducible exact mask_le hk0 (by decide)
    | with_reducible apply Moves.ite
    | with_reducible apply Moves.ite_fst
    | with_reducible (apply afterMoves_moves)
    | with_reducible (apply onDies_ans)
    | with_reducible (apply onMessage_moves)
    | with_reducible (apply putReceived_moves)
    | with_reducible (apply Moves.foldl)
    | with_reducible (apply Moves.foldl_fst)
    | with_reducible (apply Moves.of_eq; assumption)
    | with_reducible intro _
    | dsimp only
    | split

theorem execSignalReceived_ans (header : List Byte) (s : State) {k0 : Nat} (hk0 : 50824 &&& k0 = 50824) :
    Answers k0 s (execSignalReceived header s) := by
  unfold execSignalReceived
  repeat' first
    | with_reducible exact Moves.refl _ _
    | with_reducible assumption
    | with_reducible exact mask_le hk0 (by decide)
    | with_reducible apply Moves.ite
    | with_reducible apply Moves.ite_fst
    | with_reducible (apply onDies_ans)
    | with_reducible (apply onMessage_moves)
    | with_reducible (apply signalReceived_moves)
    | with_reducible (apply Moves.foldl)
    | with_reducible (apply Moves.foldl_fst)
    | with_reducible (apply Moves.of_eq; assumption)
    | with_reducible intro _
    | dsimp only
    | split

theorem execReceiptReceived_ans (header : List Byte) (s : State) {k0 : Nat} (hk0 : 321480 &&& k0 = 321480) :
    Answers k0 s (execReceiptReceived header s) := by
  unfold execReceiptReceived
  repeat' first
    | with_reducible exact Moves.refl _ _
    | with_reducible assumption
    | with_reducible exact mask_le hk0 (by decide)
    | with_reducible apply Moves.ite
    | with_reducible apply Moves.ite_fst
    | with_reducible (apply onDies_ans)
    | with_reducible (apply onMessage_moves)
    | with_reducible (apply receiptReceived_moves)
    | with_reducible (apply Moves.foldl)
    | with_reducible (apply Moves.foldl_fst)
    | with_reducible (apply Moves.of_eq; assumption)
    | with_reducible intro _
    | dsimp only
    | split

theorem execAbortReceived_ans (header : List Byte) (s : State) {k0 : Nat} (hk0 : 49152 &&& k0 = 49152) :
    Answers k0 s (execAbortReceived header s) := by
  unfold execAbortReceived
  repeat' first
    | with_reducible exact Moves.refl _ _
    | with_reducible assumption
    | with_reducible exact mask_le hk0 (by decide)
    | with_reducible apply Moves.ite
    | with_reducible apply Moves.ite_fst
    | with_reducible (apply abortReceived_moves)
    | with_reducible (apply onDies_ans)
    | with_reducible (apply onMessage_moves)
    | with_reducible (apply Moves.foldl)
    | with_reducible (apply Moves.foldl_fst)
    | with_reducible (apply Moves.of_eq; assumption)
    | with_reducible intro _
    | dsimp only
    | split

theorem execReceiptTimeout_ans (transfer : Nat) (s : State) {k0 : Nat} (hk0 : 51080 &&& k0 = 51080) :
    Answers k0 s (execReceiptTimeout transfer s) := by
  unfold execReceiptTimeout
  repeat' first
    | with_reducible exact Moves.refl _ _
    | with_reducible assumption
    | with_reducible exact mask_le hk0 (by decide)
    | with_reducible apply Moves.ite
    | with_reducible apply Moves.ite_fst
    | with_reducible (apply onDies_ans)
    | with_reducible (apply receiptTimeout_moves)
    | with_reducible (apply Moves.foldl)
    | with_reducible (apply Moves.foldl_fst)
    | with_reducible (apply Moves.of_eq; assumption)
    | with_reducible intro _
    | dsimp only
    | split

theorem execMessageForward_ans (port : Nat) (cls : Nat) (trick : Bool) (dest : Seat) (header : List Byte) (data : List Byte) (trailer : List Byte) (s : State) {k0 : Nat} (hk0 : 49152 &&& k0 = 49152) :
    Answers k0 s (execMessageForward port cls trick dest header data trailer s) := by
  unfold execMessageForward
  repeat' first
    | with_reducible exact Moves.refl _ _
    | with_reducible assumption
    | with_reducible exact mask_le hk0 (by decide)
    | with_reducible apply Moves.ite
    | with_reducible apply Moves.ite_fst
    | with_reducible (apply forwardMessage_moves)
    | with_reducible (apply forwardTrick_moves)
    | with_reducible (apply onDies_ans)
    | with_reducible (apply Moves.foldl)
    | with_reducible (apply Moves.foldl_fst)
    | with_reducible (apply Moves.of_eq; assumption)
    | with_reducible intro _
    | dsimp only
    | split

theorem execSzlHoldDown_ans (port : Nat) (hold : Bool) (s : State) {k0 : Nat} (hk0 : 4507592 &&& k0 = 4507592) :
    Answers k0 s (execSzlHoldDown port hold s) := by
  unfold execSzlHoldDown
  repeat' first
    | with_reducible exact Moves.refl _ _
    | with_reducible assumption
    | with_reducible exact mask_le hk0 (by decide)
    | with_reducible apply Moves.ite
    | with_reducible apply Moves.ite_fst
    | with_reducible (apply always_ans)
    | with_reducible (apply inP0_moves)
    | with_reducible (apply portHold_moves)
    | with_reducible (apply viaReg_moves)
    | with_reducible (apply Moves.foldl)
    | with_reducible (apply Moves.foldl_fst)
    | with_reducible (apply Moves.of_eq; assumption)
    | with_reducible intro _
    | dsimp only
    | split

theorem execSzlRetrain_ans (port : Nat) (result : TrainResult) (s : State) {k0 : Nat} (hk0 : 4507592 &&& k0 = 4507592) :
    Answers k0 s (execSzlRetrain port result s) := by
  unfold execSzlRetrain
  repeat' first
    | with_reducible exact Moves.refl _ _
    | with_reducible assumption
    | with_reducible exact mask_le hk0 (by decide)
    | with_reducible apply Moves.ite
    | with_reducible apply Moves.ite_fst
    | with_reducible (apply always_ans)
    | with_reducible (apply inP0_moves)
    | with_reducible (apply portRetrain_moves)
    | with_reducible (apply viaReg_moves)
    | with_reducible (apply Moves.foldl)
    | with_reducible (apply Moves.foldl_fst)
    | with_reducible (apply Moves.of_eq; assumption)
    | with_reducible intro _
    | dsimp only
    | split

theorem execSzlClearCounters_ans (port : Nat) (s : State) {k0 : Nat} (hk0 : 4210688 &&& k0 = 4210688) :
    Answers k0 s (execSzlClearCounters port s) := by
  unfold execSzlClearCounters
  repeat' first
    | with_reducible exact Moves.refl _ _
    | with_reducible assumption
    | with_reducible exact mask_le hk0 (by decide)
    | with_reducible apply Moves.ite
    | with_reducible apply Moves.ite_fst
    | with_reducible (apply always_ans)
    | with_reducible (apply inP0_moves)
    | with_reducible (apply portClear_moves)
    | with_reducible (apply viaReg_moves)
    | with_reducible (apply Moves.foldl)
    | with_reducible (apply Moves.foldl_fst)
    | with_reducible (apply Moves.of_eq; assumption)
    | with_reducible intro _
    | dsimp only
    | split

theorem execSzlpLinkFailure_ans (link : Nat) (s : State) {k0 : Nat} (hk0 : 323544 &&& k0 = 323544) :
    Answers k0 s (execSzlpLinkFailure link s) := by
  unfold execSzlpLinkFailure
  repeat' first
    | with_reducible exact Moves.refl _ _
    | with_reducible assumption
    | with_reducible exact mask_le hk0 (by decide)
    | with_reducible apply Moves.ite
    | with_reducible apply Moves.ite_fst
    | with_reducible (apply onDies_ans)
    | with_reducible (apply szlpFails_moves)
    | with_reducible (apply Moves.foldl)
    | with_reducible (apply Moves.foldl_fst)
    | with_reducible (apply Moves.of_eq; assumption)
    | with_reducible intro _
    | dsimp only
    | split

theorem execSzlpRetrain_ans (link : Nat) (ok : Bool) (s : State) {k0 : Nat} (hk0 : 279624 &&& k0 = 279624) :
    Answers k0 s (execSzlpRetrain link ok s) := by
  unfold execSzlpRetrain
  repeat' first
    | with_reducible exact Moves.refl _ _
    | with_reducible assumption
    | with_reducible exact mask_le hk0 (by decide)
    | with_reducible apply Moves.ite
    | with_reducible apply Moves.ite_fst
    | with_reducible (apply onDies_ans)
    | with_reducible (apply szlpRetrain_moves)
    | with_reducible (apply Moves.foldl)
    | with_reducible (apply Moves.foldl_fst)
    | with_reducible (apply Moves.of_eq; assumption)
    | with_reducible intro _
    | dsimp only
    | split

theorem execFailedPortIdle_ans (s : State) {k0 : Nat} (hk0 : 312392 &&& k0 = 312392) :
    Answers k0 s (execFailedPortIdle s) := by
  unfold execFailedPortIdle
  repeat' first
    | with_reducible exact Moves.refl _ _
    | with_reducible assumption
    | with_reducible exact mask_le hk0 (by decide)
    | with_reducible apply Moves.ite
    | with_reducible apply Moves.ite_fst
    | with_reducible (apply failedIdle_moves)
    | with_reducible (apply onDies_ans)
    | with_reducible (apply Moves.foldl)
    | with_reducible (apply Moves.foldl_fst)
    | with_reducible (apply Moves.of_eq; assumption)
    | with_reducible intro _
    | dsimp only
    | split

end Sys2Proof.Machine
end

