-- ==== Sys2Proof/Laws/MovesMacroCmds.lean ====
section
/-! SUPPORT. What each operation of Machine/MacroCmds.lean may change. -/

set_option linter.unreachableTactic false
set_option linter.unusedTactic false
set_option linter.unusedVariables false

namespace Sys2Proof.Machine

theorem execMatmul_ans (shoe : Nat) (seq : Nat) (level : Nat) (s : State) {k0 : Nat} (hk0 : 66760 &&& k0 = 66760) :
    Answers k0 s (execMatmul shoe seq level s) := by
  unfold execMatmul
  repeat' first
    | with_reducible exact Moves.refl _ _
    | with_reducible assumption
    | with_reducible exact mask_le hk0 (by decide)
    | with_reducible apply Moves.ite
    | with_reducible apply Moves.ite_fst
    | with_reducible (apply startMacroCmd_ans)
    | with_reducible (apply Moves.foldl)
    | with_reducible (apply Moves.foldl_fst)
    | with_reducible (apply Moves.of_eq; assumption)
    | with_reducible intro _
    | dsimp only
    | split

theorem execAttend_ans (shoe : Nat) (seq : Nat) (level : Nat) (s : State) {k0 : Nat} (hk0 : 66760 &&& k0 = 66760) :
    Answers k0 s (execAttend shoe seq level s) := by
  unfold execAttend
  repeat' first
    | with_reducible exact Moves.refl _ _
    | with_reducible assumption
    | with_reducible exact mask_le hk0 (by decide)
    | with_reducible apply Moves.ite
    | with_reducible apply Moves.ite_fst
    | with_reducible (apply startMacroCmd_ans)
    | with_reducible (apply Moves.foldl)
    | with_reducible (apply Moves.foldl_fst)
    | with_reducible (apply Moves.of_eq; assumption)
    | with_reducible intro _
    | dsimp only
    | split

theorem execAttendBwd_ans (shoe : Nat) (seq : Nat) (level : Nat) (s : State) {k0 : Nat} (hk0 : 66760 &&& k0 = 66760) :
    Answers k0 s (execAttendBwd shoe seq level s) := by
  unfold execAttendBwd
  repeat' first
    | with_reducible exact Moves.refl _ _
    | with_reducible assumption
    | with_reducible exact mask_le hk0 (by decide)
    | with_reducible apply Moves.ite
    | with_reducible apply Moves.ite_fst
    | with_reducible (apply startMacroCmd_ans)
    | with_reducible (apply Moves.foldl)
    | with_reducible (apply Moves.foldl_fst)
    | with_reducible (apply Moves.of_eq; assumption)
    | with_reducible intro _
    | dsimp only
    | split

theorem execSfn_ans (shoe : Nat) (seq : Nat) (level : Nat) (s : State) {k0 : Nat} (hk0 : 66760 &&& k0 = 66760) :
    Answers k0 s (execSfn shoe seq level s) := by
  unfold execSfn
  repeat' first
    | with_reducible exact Moves.refl _ _
    | with_reducible assumption
    | with_reducible exact mask_le hk0 (by decide)
    | with_reducible apply Moves.ite
    | with_reducible apply Moves.ite_fst
    | with_reducible (apply startMacroCmd_ans)
    | with_reducible (apply Moves.foldl)
    | with_reducible (apply Moves.foldl_fst)
    | with_reducible (apply Moves.of_eq; assumption)
    | with_reducible intro _
    | dsimp only
    | split

theorem execNorm_ans (shoe : Nat) (seq : Nat) (level : Nat) (s : State) {k0 : Nat} (hk0 : 66760 &&& k0 = 66760) :
    Answers k0 s (execNorm shoe seq level s) := by
  unfold execNorm
  repeat' first
    | with_reducible exact Moves.refl _ _
    | with_reducible assumption
    | with_reducible exact mask_le hk0 (by decide)
    | with_reducible apply Moves.ite
    | with_reducible apply Moves.ite_fst
    | with_reducible (apply startMacroCmd_ans)
    | with_reducible (apply Moves.foldl)
    | with_reducible (apply Moves.foldl_fst)
    | with_reducible (apply Moves.of_eq; assumption)
    | with_reducible intro _
    | dsimp only
    | split

theorem execReduceCmd_ans (shoe : Nat) (seq : Nat) (level : Nat) (s : State) {k0 : Nat} (hk0 : 66760 &&& k0 = 66760) :
    Answers k0 s (execReduceCmd shoe seq level s) := by
  unfold execReduceCmd
  repeat' first
    | with_reducible exact Moves.refl _ _
    | with_reducible assumption
    | with_reducible exact mask_le hk0 (by decide)
    | with_reducible apply Moves.ite
    | with_reducible apply Moves.ite_fst
    | with_reducible (apply startMacroCmd_ans)
    | with_reducible (apply Moves.foldl)
    | with_reducible (apply Moves.foldl_fst)
    | with_reducible (apply Moves.of_eq; assumption)
    | with_reducible intro _
    | dsimp only
    | split

theorem execHoist_ans (shoe : Nat) (seq : Nat) (level : Nat) (s : State) {k0 : Nat} (hk0 : 66760 &&& k0 = 66760) :
    Answers k0 s (execHoist shoe seq level s) := by
  unfold execHoist
  repeat' first
    | with_reducible exact Moves.refl _ _
    | with_reducible assumption
    | with_reducible exact mask_le hk0 (by decide)
    | with_reducible apply Moves.ite
    | with_reducible apply Moves.ite_fst
    | with_reducible (apply startMacroCmd_ans)
    | with_reducible (apply Moves.foldl)
    | with_reducible (apply Moves.foldl_fst)
    | with_reducible (apply Moves.of_eq; assumption)
    | with_reducible intro _
    | dsimp only
    | split

theorem execConvertCmd_ans (shoe : Nat) (seq : Nat) (level : Nat) (s : State) {k0 : Nat} (hk0 : 66760 &&& k0 = 66760) :
    Answers k0 s (execConvertCmd shoe seq level s) := by
  unfold execConvertCmd
  repeat' first
    | with_reducible exact Moves.refl _ _
    | with_reducible assumption
    | with_reducible exact mask_le hk0 (by decide)
    | with_reducible apply Moves.ite
    | with_reducible apply Moves.ite_fst
    | with_reducible (apply startMacroCmd_ans)
    | with_reducible (apply Moves.foldl)
    | with_reducible (apply Moves.foldl_fst)
    | with_reducible (apply Moves.of_eq; assumption)
    | with_reducible intro _
    | dsimp only
    | split

theorem execAssayRerank_ans (shoe : Nat) (seq : Nat) (level : Nat) (s : State) {k0 : Nat} (hk0 : 66760 &&& k0 = 66760) :
    Answers k0 s (execAssayRerank shoe seq level s) := by
  unfold execAssayRerank
  repeat' first
    | with_reducible exact Moves.refl _ _
    | with_reducible assumption
    | with_reducible exact mask_le hk0 (by decide)
    | with_reducible apply Moves.ite
    | with_reducible apply Moves.ite_fst
    | with_reducible (apply startMacroCmd_ans)
    | with_reducible (apply Moves.foldl)
    | with_reducible (apply Moves.foldl_fst)
    | with_reducible (apply Moves.of_eq; assumption)
    | with_reducible intro _
    | dsimp only
    | split

theorem execMacroDispatch_ans (shoe : Nat) (seq : Nat) (level : Nat) (granule : Nat) (s : State) {k0 : Nat} (hk0 : 3665914 &&& k0 = 3665914) :
    Answers k0 s (execMacroDispatch shoe seq level granule s) := by
  unfold execMacroDispatch
  repeat' first
    | with_reducible exact Moves.refl _ _
    | with_reducible assumption
    | with_reducible exact mask_le hk0 (by decide)
    | with_reducible apply Moves.ite
    | with_reducible apply Moves.ite_fst
    | with_reducible (apply macroDispatch_moves)
    | with_reducible (apply onDies_ans)
    | with_reducible (apply Moves.foldl)
    | with_reducible (apply Moves.foldl_fst)
    | with_reducible (apply Moves.of_eq; assumption)
    | with_reducible intro _
    | dsimp only
    | split

theorem execMacroStart_ans (part : Nat) (s : State) {k0 : Nat} (hk0 : 321480 &&& k0 = 321480) :
    Answers k0 s (execMacroStart part s) := by
  unfold execMacroStart
  repeat' first
    | with_reducible exact Moves.refl _ _
    | with_reducible assumption
    | with_reducible exact mask_le hk0 (by decide)
    | with_reducible apply Moves.ite
    | with_reducible apply Moves.ite_fst
    | with_reducible (apply macroStart_moves)
    | with_reducible (apply onDies_ans)
    | with_reducible (apply Moves.foldl)
    | with_reducible (apply Moves.foldl_fst)
    | with_reducible (apply Moves.of_eq; assumption)
    | with_reducible intro _
    | dsimp only
    | split

theorem execTileGroupEnd_ans (core : Nat) (ns : Nat) (bad : Option (HeadFault × Nat × Nat × Nat)) (s : State) {k0 : Nat} (hk0 : 520152 &&& k0 = 520152) :
    Answers k0 s (execTileGroupEnd core ns bad s) := by
  unfold execTileGroupEnd
  repeat' first
    | with_reducible exact Moves.refl _ _
    | with_reducible assumption
    | with_reducible exact mask_le hk0 (by decide)
    | with_reducible apply Moves.ite
    | with_reducible apply Moves.ite_fst
    | with_reducible (apply headFault_moves)
    | with_reducible (apply onDies_ans)
    | with_reducible (apply tileGroupEnd_moves)
    | with_reducible (apply Moves.foldl)
    | with_reducible (apply Moves.foldl_fst)
    | with_reducible (apply Moves.of_eq; assumption)
    | with_reducible intro _
    | dsimp only
    | split

theorem execMacroComplete_ans (part : Nat) (s : State) {k0 : Nat} (hk0 : 321480 &&& k0 = 321480) :
    Answers k0 s (execMacroComplete part s) := by
  unfold execMacroComplete
  repeat' first
    | with_reducible exact Moves.refl _ _
    | with_reducible assumption
    | with_reducible exact mask_le hk0 (by decide)
    | with_reducible apply Moves.ite
    | with_reducible apply Moves.ite_fst
    | with_reducible (apply macroComplete_moves)
    | with_reducible (apply onDies_ans)
    | with_reducible (apply Moves.foldl)
    | with_reducible (apply Moves.foldl_fst)
    | with_reducible (apply Moves.of_eq; assumption)
    | with_reducible intro _
    | dsimp only
    | split

theorem execP1Entry_ans (core : Nat) (s : State) {k0 : Nat} (hk0 : 128 &&& k0 = 128) :
    Answers k0 s (execP1Entry core s) := by
  unfold execP1Entry
  repeat' first
    | with_reducible exact Moves.refl _ _
    | with_reducible assumption
    | with_reducible exact mask_le hk0 (by decide)
    | with_reducible apply Moves.ite
    | with_reducible apply Moves.ite_fst
    | with_reducible (apply gateCore_moves)
    | with_reducible (apply onDies_ans)
    | with_reducible (apply Moves.foldl)
    | with_reducible (apply Moves.foldl_fst)
    | with_reducible (apply Moves.of_eq; assumption)
    | with_reducible intro _
    | dsimp only
    | split

end Sys2Proof.Machine
end

