-- ==== Sys2Proof/Laws/MovesMgmtCmds.lean ====
section
/-! SUPPORT. What each operation of Machine/MgmtCmds.lean may change. -/

set_option linter.unreachableTactic false
set_option linter.unusedTactic false
set_option linter.unusedVariables false

namespace Sys2Proof.Machine

theorem execMctpPacketReceived_ans (packet : List Byte) (pecOk : Bool) (hardwareOk : Bool) (env : BootEnv) (s : State) {k0 : Nat} (hk0 : 8388602 &&& k0 = 8388602) :
    Answers k0 s (execMctpPacketReceived packet pecOk hardwareOk env s) := by
  unfold execMctpPacketReceived
  repeat' first
    | with_reducible exact Moves.refl _ _
    | with_reducible assumption
    | with_reducible exact mask_le hk0 (by decide)
    | with_reducible apply Moves.ite
    | with_reducible apply Moves.ite_fst
    | with_reducible (apply always_ans)
    | with_reducible (apply mctpPacket_moves)
    | with_reducible (apply Moves.foldl)
    | with_reducible (apply Moves.foldl_fst)
    | with_reducible (apply Moves.of_eq; assumption)
    | with_reducible intro _
    | dsimp only
    | split

theorem execSetEndpointId_ans (eid : Nat) (s : State) {k0 : Nat} (hk0 : 262152 &&& k0 = 262152) :
    Answers k0 s (execSetEndpointId eid s) := by
  unfold execSetEndpointId
  repeat' first
    | with_reducible exact Moves.refl _ _
    | with_reducible assumption
    | with_reducible exact mask_le hk0 (by decide)
    | with_reducible apply Moves.ite
    | with_reducible apply Moves.ite_fst
    | with_reducible (apply always_ans)
    | with_reducible (apply setEid_moves)
    | with_reducible (apply Moves.foldl)
    | with_reducible (apply Moves.foldl_fst)
    | with_reducible (apply Moves.of_eq; assumption)
    | with_reducible intro _
    | dsimp only
    | split

theorem execGetNonce_ans (s : State) {k0 : Nat} (hk0 : 8 &&& k0 = 8) :
    Answers k0 s (execGetNonce s) := by
  unfold execGetNonce
  repeat' first
    | with_reducible exact Moves.refl _ _
    | with_reducible assumption
    | with_reducible exact mask_le hk0 (by decide)
    | with_reducible apply Moves.ite
    | with_reducible apply Moves.ite_fst
    | with_reducible (apply always_ans)
    | with_reducible (apply getNonce_moves)
    | with_reducible (apply Moves.foldl)
    | with_reducible (apply Moves.foldl_fst)
    | with_reducible (apply Moves.of_eq; assumption)
    | with_reducible intro _
    | dsimp only
    | split

theorem execMgmtSecurityKeySlot_ans (block : List Byte) (verified : Bool) (s : State) {k0 : Nat} (hk0 : 328794 &&& k0 = 328794) :
    Answers k0 s (execMgmtSecurityKeySlot block verified s) := by
  unfold execMgmtSecurityKeySlot
  repeat' first
    | with_reducible exact Moves.refl _ _
    | with_reducible assumption
    | with_reducible exact mask_le hk0 (by decide)
    | with_reducible apply Moves.ite
    | with_reducible apply Moves.ite_fst
    | with_reducible (apply always_ans)
    | with_reducible (apply mgmtKeySlot_moves)
    | with_reducible (apply Moves.foldl)
    | with_reducible (apply Moves.foldl_fst)
    | with_reducible (apply Moves.of_eq; assumption)
    | with_reducible intro _
    | dsimp only
    | split

theorem execMgmtSecurityDebugGrant_ans (block : List Byte) (s : State) {k0 : Nat} (hk0 : 328778 &&& k0 = 328778) :
    Answers k0 s (execMgmtSecurityDebugGrant block s) := by
  unfold execMgmtSecurityDebugGrant
  repeat' first
    | with_reducible exact Moves.refl _ _
    | with_reducible assumption
    | with_reducible exact mask_le hk0 (by decide)
    | with_reducible apply Moves.ite
    | with_reducible apply Moves.ite_fst
    | with_reducible (apply always_ans)
    | with_reducible (apply mgmtGrant_moves)
    | with_reducible (apply Moves.foldl)
    | with_reducible (apply Moves.foldl_fst)
    | with_reducible (apply Moves.of_eq; assumption)
    | with_reducible intro _
    | dsimp only
    | split

theorem execMgmtSecurityDebugRevoke_ans (claim : Nat) (s : State) {k0 : Nat} (hk0 : 329416 &&& k0 = 329416) :
    Answers k0 s (execMgmtSecurityDebugRevoke claim s) := by
  unfold execMgmtSecurityDebugRevoke
  repeat' first
    | with_reducible exact Moves.refl _ _
    | with_reducible assumption
    | with_reducible exact mask_le hk0 (by decide)
    | with_reducible apply Moves.ite
    | with_reducible apply Moves.ite_fst
    | with_reducible (apply always_ans)
    | with_reducible (apply mgmtRevoke_moves)
    | with_reducible (apply Moves.foldl)
    | with_reducible (apply Moves.foldl_fst)
    | with_reducible (apply Moves.of_eq; assumption)
    | with_reducible intro _
    | dsimp only
    | split

theorem execMgmtSecurityVendorOpen_ans (block : List Byte) (env : BootEnv) (s : State) {k0 : Nat} (hk0 : 8388602 &&& k0 = 8388602) :
    Answers k0 s (execMgmtSecurityVendorOpen block env s) := by
  unfold execMgmtSecurityVendorOpen
  repeat' first
    | with_reducible exact Moves.refl _ _
    | with_reducible assumption
    | with_reducible exact mask_le hk0 (by decide)
    | with_reducible apply Moves.ite
    | with_reducible apply Moves.ite_fst
    | with_reducible (apply always_ans)
    | with_reducible (apply mgmtUnlock_moves)
    | with_reducible (apply Moves.foldl)
    | with_reducible (apply Moves.foldl_fst)
    | with_reducible (apply Moves.of_eq; assumption)
    | with_reducible intro _
    | dsimp only
    | split

theorem execFlashRead_ans (off : Nat) (len : Nat) (s : State) {k0 : Nat} (hk0 : 8 &&& k0 = 8) :
    Answers k0 s (execFlashRead off len s) := by
  unfold execFlashRead
  repeat' first
    | with_reducible exact Moves.refl _ _
    | with_reducible assumption
    | with_reducible exact mask_le hk0 (by decide)
    | with_reducible apply Moves.ite
    | with_reducible apply Moves.ite_fst
    | with_reducible (apply always_ans)
    | with_reducible (apply flashReadCmd_moves)
    | with_reducible (apply Moves.foldl)
    | with_reducible (apply Moves.foldl_fst)
    | with_reducible (apply Moves.of_eq; assumption)
    | with_reducible intro _
    | dsimp only
    | split

theorem execFlashErase_ans (off : Nat) (count : Nat) (ok : Bool) (s : State) {k0 : Nat} (hk0 : 262170 &&& k0 = 262170) :
    Answers k0 s (execFlashErase off count ok s) := by
  unfold execFlashErase
  repeat' first
    | with_reducible exact Moves.refl _ _
    | with_reducible assumption
    | with_reducible exact mask_le hk0 (by decide)
    | with_reducible apply Moves.ite
    | with_reducible apply Moves.ite_fst
    | with_reducible (apply always_ans)
    | with_reducible (apply flashErase_moves)
    | with_reducible (apply Moves.foldl)
    | with_reducible (apply Moves.foldl_fst)
    | with_reducible (apply Moves.of_eq; assumption)
    | with_reducible intro _
    | dsimp only
    | split

theorem execFlashWrite_ans (off : Nat) (data : List Byte) (ok : Bool) (s : State) {k0 : Nat} (hk0 : 262170 &&& k0 = 262170) :
    Answers k0 s (execFlashWrite off data ok s) := by
  unfold execFlashWrite
  repeat' first
    | with_reducible exact Moves.refl _ _
    | with_reducible assumption
    | with_reducible exact mask_le hk0 (by decide)
    | with_reducible apply Moves.ite
    | with_reducible apply Moves.ite_fst
    | with_reducible (apply always_ans)
    | with_reducible (apply flashWriteCmd_moves)
    | with_reducible (apply Moves.foldl)
    | with_reducible (apply Moves.foldl_fst)
    | with_reducible (apply Moves.of_eq; assumption)
    | with_reducible intro _
    | dsimp only
    | split

theorem execBootRetry_ans (env : BootEnv) (s : State) {k0 : Nat} (hk0 : 8388602 &&& k0 = 8388602) :
    Answers k0 s (execBootRetry env s) := by
  unfold execBootRetry
  repeat' first
    | with_reducible exact Moves.refl _ _
    | with_reducible assumption
    | with_reducible exact mask_le hk0 (by decide)
    | with_reducible apply Moves.ite
    | with_reducible apply Moves.ite_fst
    | with_reducible (apply always_ans)
    | with_reducible (apply bootRetryCmd_moves)
    | with_reducible (apply Moves.foldl)
    | with_reducible (apply Moves.foldl_fst)
    | with_reducible (apply Moves.of_eq; assumption)
    | with_reducible intro _
    | dsimp only
    | split

theorem execGetTid_ans (s : State) {k0 : Nat} (hk0 : 8 &&& k0 = 8) :
    Answers k0 s (execGetTid s) := by
  unfold execGetTid
  repeat' first
    | with_reducible exact Moves.refl _ _
    | with_reducible assumption
    | with_reducible exact mask_le hk0 (by decide)
    | with_reducible apply Moves.ite
    | with_reducible apply Moves.ite_fst
    | with_reducible (apply always_ans)
    | with_reducible (apply getTid_moves)
    | with_reducible (apply Moves.foldl)
    | with_reducible (apply Moves.foldl_fst)
    | with_reducible (apply Moves.of_eq; assumption)
    | with_reducible intro _
    | dsimp only
    | split

theorem execSetTid_ans (tid : Nat) (s : State) {k0 : Nat} (hk0 : 262152 &&& k0 = 262152) :
    Answers k0 s (execSetTid tid s) := by
  unfold execSetTid
  repeat' first
    | with_reducible exact Moves.refl _ _
    | with_reducible assumption
    | with_reducible exact mask_le hk0 (by decide)
    | with_reducible apply Moves.ite
    | with_reducible apply Moves.ite_fst
    | with_reducible (apply always_ans)
    | with_reducible (apply setTid_moves)
    | with_reducible (apply Moves.foldl)
    | with_reducible (apply Moves.foldl_fst)
    | with_reducible (apply Moves.of_eq; assumption)
    | with_reducible intro _
    | dsimp only
    | split

theorem execGetPldmVersion_ans (type : Nat) (s : State) {k0 : Nat} (hk0 : 10 &&& k0 = 10) :
    Answers k0 s (execGetPldmVersion type s) := by
  unfold execGetPldmVersion
  repeat' first
    | with_reducible exact Moves.refl _ _
    | with_reducible assumption
    | with_reducible exact mask_le hk0 (by decide)
    | with_reducible apply Moves.ite
    | with_reducible apply Moves.ite_fst
    | with_reducible (apply always_ans)
    | with_reducible (apply getPldmVersion_moves)
    | with_reducible (apply Moves.foldl)
    | with_reducible (apply Moves.foldl_fst)
    | with_reducible (apply Moves.of_eq; assumption)
    | with_reducible intro _
    | dsimp only
    | split

theorem execGetPldmTypes_ans (s : State) {k0 : Nat} (hk0 : 8 &&& k0 = 8) :
    Answers k0 s (execGetPldmTypes s) := by
  unfold execGetPldmTypes
  repeat' first
    | with_reducible exact Moves.refl _ _
    | with_reducible assumption
    | with_reducible exact mask_le hk0 (by decide)
    | with_reducible apply Moves.ite
    | with_reducible apply Moves.ite_fst
    | with_reducible (apply always_ans)
    | with_reducible (apply getPldmTypes_moves)
    | with_reducible (apply Moves.foldl)
    | with_reducible (apply Moves.foldl_fst)
    | with_reducible (apply Moves.of_eq; assumption)
    | with_reducible intro _
    | dsimp only
    | split

theorem execGetPldmCommands_ans (type : Nat) (s : State) {k0 : Nat} (hk0 : 8 &&& k0 = 8) :
    Answers k0 s (execGetPldmCommands type s) := by
  unfold execGetPldmCommands
  repeat' first
    | with_reducible exact Moves.refl _ _
    | with_reducible assumption
    | with_reducible exact mask_le hk0 (by decide)
    | with_reducible apply Moves.ite
    | with_reducible apply Moves.ite_fst
    | with_reducible (apply always_ans)
    | with_reducible (apply getPldmCommands_moves)
    | with_reducible (apply Moves.foldl)
    | with_reducible (apply Moves.foldl_fst)
    | with_reducible (apply Moves.of_eq; assumption)
    | with_reducible intro _
    | dsimp only
    | split

theorem execGetPdrRepositoryInfo_ans (s : State) {k0 : Nat} (hk0 : 8 &&& k0 = 8) :
    Answers k0 s (execGetPdrRepositoryInfo s) := by
  unfold execGetPdrRepositoryInfo
  repeat' first
    | with_reducible exact Moves.refl _ _
    | with_reducible assumption
    | with_reducible exact mask_le hk0 (by decide)
    | with_reducible apply Moves.ite
    | with_reducible apply Moves.ite_fst
    | with_reducible (apply always_ans)
    | with_reducible (apply getPdrInfo_moves)
    | with_reducible (apply Moves.foldl)
    | with_reducible (apply Moves.foldl_fst)
    | with_reducible (apply Moves.of_eq; assumption)
    | with_reducible intro _
    | dsimp only
    | split

theorem execGetPdr_ans (handle : Nat) (s : State) {k0 : Nat} (hk0 : 8 &&& k0 = 8) :
    Answers k0 s (execGetPdr handle s) := by
  unfold execGetPdr
  repeat' first
    | with_reducible exact Moves.refl _ _
    | with_reducible assumption
    | with_reducible exact mask_le hk0 (by decide)
    | with_reducible apply Moves.ite
    | with_reducible apply Moves.ite_fst
    | with_reducible (apply always_ans)
    | with_reducible (apply getPdr_moves)
    | with_reducible (apply Moves.foldl)
    | with_reducible (apply Moves.foldl_fst)
    | with_reducible (apply Moves.of_eq; assumption)
    | with_reducible intro _
    | dsimp only
    | split

theorem execGetSensorReading_ans (id : Nat) (s : State) {k0 : Nat} (hk0 : 8 &&& k0 = 8) :
    Answers k0 s (execGetSensorReading id s) := by
  unfold execGetSensorReading
  repeat' first
    | with_reducible exact Moves.refl _ _
    | with_reducible assumption
    | with_reducible exact mask_le hk0 (by decide)
    | with_reducible apply Moves.ite
    | with_reducible apply Moves.ite_fst
    | with_reducible (apply always_ans)
    | with_reducible (apply getSensor_moves)
    | with_reducible (apply Moves.foldl)
    | with_reducible (apply Moves.foldl_fst)
    | with_reducible (apply Moves.of_eq; assumption)
    | with_reducible intro _
    | dsimp only
    | split

theorem execGetStateSensorReadings_ans (id : Nat) (s : State) {k0 : Nat} (hk0 : 8 &&& k0 = 8) :
    Answers k0 s (execGetStateSensorReadings id s) := by
  unfold execGetStateSensorReadings
  repeat' first
    | with_reducible exact Moves.refl _ _
    | with_reducible assumption
    | with_reducible exact mask_le hk0 (by decide)
    | with_reducible apply Moves.ite
    | with_reducible apply Moves.ite_fst
    | with_reducible (apply always_ans)
    | with_reducible (apply getStateSensor_moves)
    | with_reducible (apply Moves.foldl)
    | with_reducible (apply Moves.foldl_fst)
    | with_reducible (apply Moves.of_eq; assumption)
    | with_reducible intro _
    | dsimp only
    | split

theorem execGetNumericEffecterValue_ans (id : Nat) (s : State) {k0 : Nat} (hk0 : 10 &&& k0 = 10) :
    Answers k0 s (execGetNumericEffecterValue id s) := by
  unfold execGetNumericEffecterValue
  repeat' first
    | with_reducible exact Moves.refl _ _
    | with_reducible assumption
    | with_reducible exact mask_le hk0 (by decide)
    | with_reducible apply Moves.ite
    | with_reducible apply Moves.ite_fst
    | with_reducible (apply always_ans)
    | with_reducible (apply getNumericEffecter_moves)
    | with_reducible (apply Moves.foldl)
    | with_reducible (apply Moves.foldl_fst)
    | with_reducible (apply Moves.of_eq; assumption)
    | with_reducible intro _
    | dsimp only
    | split

theorem execGetStateEffecterStates_ans (id : Nat) (s : State) {k0 : Nat} (hk0 : 8 &&& k0 = 8) :
    Answers k0 s (execGetStateEffecterStates id s) := by
  unfold execGetStateEffecterStates
  repeat' first
    | with_reducible exact Moves.refl _ _
    | with_reducible assumption
    | with_reducible exact mask_le hk0 (by decide)
    | with_reducible apply Moves.ite
    | with_reducible apply Moves.ite_fst
    | with_reducible (apply always_ans)
    | with_reducible (apply getStateEffecter_moves)
    | with_reducible (apply Moves.foldl)
    | with_reducible (apply Moves.foldl_fst)
    | with_reducible (apply Moves.of_eq; assumption)
    | with_reducible intro _
    | dsimp only
    | split

theorem execPowerRequestEffecter_ans (request : Nat) (env : BootEnv) (s : State) {k0 : Nat} (hk0 : 8388602 &&& k0 = 8388602) :
    Answers k0 s (execPowerRequestEffecter request env s) := by
  unfold execPowerRequestEffecter
  repeat' first
    | with_reducible exact Moves.refl _ _
    | with_reducible assumption
    | with_reducible exact mask_le hk0 (by decide)
    | with_reducible apply Moves.ite
    | with_reducible apply Moves.ite_fst
    | with_reducible (apply always_ans)
    | with_reducible (apply powerEffecter_moves)
    | with_reducible (apply Moves.foldl)
    | with_reducible (apply Moves.foldl_fst)
    | with_reducible (apply Moves.of_eq; assumption)
    | with_reducible intro _
    | dsimp only
    | split

theorem execPowerLimitEffecter_ans (watts : Nat) (s : State) {k0 : Nat} (hk0 : 131080 &&& k0 = 131080) :
    Answers k0 s (execPowerLimitEffecter watts s) := by
  unfold execPowerLimitEffecter
  repeat' first
    | with_reducible exact Moves.refl _ _
    | with_reducible assumption
    | with_reducible exact mask_le hk0 (by decide)
    | with_reducible apply Moves.ite
    | with_reducible apply Moves.ite_fst
    | with_reducible (apply always_ans)
    | with_reducible (apply limitEffecter_moves)
    | with_reducible (apply Moves.foldl)
    | with_reducible (apply Moves.foldl_fst)
    | with_reducible (apply Moves.of_eq; assumption)
    | with_reducible intro _
    | dsimp only
    | split

theorem execAlertAcknowledge_ans (causes : Nat) (s : State) {k0 : Nat} (hk0 : 262152 &&& k0 = 262152) :
    Answers k0 s (execAlertAcknowledge causes s) := by
  unfold execAlertAcknowledge
  repeat' first
    | with_reducible exact Moves.refl _ _
    | with_reducible assumption
    | with_reducible exact mask_le hk0 (by decide)
    | with_reducible apply Moves.ite
    | with_reducible apply Moves.ite_fst
    | with_reducible (apply alertAck_moves)
    | with_reducible (apply always_ans)
    | with_reducible (apply Moves.foldl)
    | with_reducible (apply Moves.foldl_fst)
    | with_reducible (apply Moves.of_eq; assumption)
    | with_reducible intro _
    | dsimp only
    | split

theorem execAlertMask_ans (causes : Nat) (s : State) {k0 : Nat} (hk0 : 262152 &&& k0 = 262152) :
    Answers k0 s (execAlertMask causes s) := by
  unfold execAlertMask
  repeat' first
    | with_reducible exact Moves.refl _ _
    | with_reducible assumption
    | with_reducible exact mask_le hk0 (by decide)
    | with_reducible apply Moves.ite
    | with_reducible apply Moves.ite_fst
    | with_reducible (apply alertMask_moves)
    | with_reducible (apply always_ans)
    | with_reducible (apply Moves.foldl)
    | with_reducible (apply Moves.foldl_fst)
    | with_reducible (apply Moves.of_eq; assumption)
    | with_reducible intro _
    | dsimp only
    | split

theorem execSetEventReceiver_ans (mode : Nat) (receiver : Nat) (s : State) {k0 : Nat} (hk0 : 262152 &&& k0 = 262152) :
    Answers k0 s (execSetEventReceiver mode receiver s) := by
  unfold execSetEventReceiver
  repeat' first
    | with_reducible exact Moves.refl _ _
    | with_reducible assumption
    | with_reducible exact mask_le hk0 (by decide)
    | with_reducible apply Moves.ite
    | with_reducible apply Moves.ite_fst
    | with_reducible (apply always_ans)
    | with_reducible (apply setReceiver_moves)
    | with_reducible (apply Moves.foldl)
    | with_reducible (apply Moves.foldl_fst)
    | with_reducible (apply Moves.of_eq; assumption)
    | with_reducible intro _
    | dsimp only
    | split

theorem execPollForPlatformEventMessage_ans (s : State) {k0 : Nat} (hk0 : 262152 &&& k0 = 262152) :
    Answers k0 s (execPollForPlatformEventMessage s) := by
  unfold execPollForPlatformEventMessage
  repeat' first
    | with_reducible exact Moves.refl _ _
    | with_reducible assumption
    | with_reducible exact mask_le hk0 (by decide)
    | with_reducible apply Moves.ite
    | with_reducible apply Moves.ite_fst
    | with_reducible (apply always_ans)
    | with_reducible (apply pollEvent_moves)
    | with_reducible (apply Moves.foldl)
    | with_reducible (apply Moves.foldl_fst)
    | with_reducible (apply Moves.of_eq; assumption)
    | with_reducible intro _
    | dsimp only
    | split

theorem execPlatformEventMessage_ans (s : State) {k0 : Nat} (hk0 : 262152 &&& k0 = 262152) :
    Answers k0 s (execPlatformEventMessage s) := by
  unfold execPlatformEventMessage
  repeat' first
    | with_reducible exact Moves.refl _ _
    | with_reducible assumption
    | with_reducible exact mask_le hk0 (by decide)
    | with_reducible apply Moves.ite
    | with_reducible apply Moves.ite_fst
    | with_reducible (apply always_ans)
    | with_reducible (apply sendEvent_moves)
    | with_reducible (apply Moves.foldl)
    | with_reducible (apply Moves.foldl_fst)
    | with_reducible (apply Moves.of_eq; assumption)
    | with_reducible intro _
    | dsimp only
    | split

theorem execPlatformEventRetry_ans (s : State) {k0 : Nat} (hk0 : 262152 &&& k0 = 262152) :
    Answers k0 s (execPlatformEventRetry s) := by
  unfold execPlatformEventRetry
  repeat' first
    | with_reducible exact Moves.refl _ _
    | with_reducible assumption
    | with_reducible exact mask_le hk0 (by decide)
    | with_reducible apply Moves.ite
    | with_reducible apply Moves.ite_fst
    | with_reducible (apply always_ans)
    | with_reducible (apply resendEvent_moves)
    | with_reducible (apply Moves.foldl)
    | with_reducible (apply Moves.foldl_fst)
    | with_reducible (apply Moves.of_eq; assumption)
    | with_reducible intro _
    | dsimp only
    | split

theorem execPlatformEventAck_ans (s : State) {k0 : Nat} (hk0 : 262144 &&& k0 = 262144) :
    Answers k0 s (execPlatformEventAck s) := by
  unfold execPlatformEventAck
  repeat' first
    | with_reducible exact Moves.refl _ _
    | with_reducible assumption
    | with_reducible exact mask_le hk0 (by decide)
    | with_reducible apply Moves.ite
    | with_reducible apply Moves.ite_fst
    | with_reducible (apply ackEvent_moves)
    | with_reducible (apply always_ans)
    | with_reducible (apply Moves.foldl)
    | with_reducible (apply Moves.foldl_fst)
    | with_reducible (apply Moves.of_eq; assumption)
    | with_reducible intro _
    | dsimp only
    | split

theorem execGetVersion_ans (s : State) {k0 : Nat} (hk0 : 262152 &&& k0 = 262152) :
    Answers k0 s (execGetVersion s) := by
  unfold execGetVersion
  repeat' first
    | with_reducible exact Moves.refl _ _
    | with_reducible assumption
    | with_reducible exact mask_le hk0 (by decide)
    | with_reducible apply Moves.ite
    | with_reducible apply Moves.ite_fst
    | with_reducible (apply always_ans)
    | with_reducible (apply spdmVersion_moves)
    | with_reducible (apply Moves.foldl)
    | with_reducible (apply Moves.foldl_fst)
    | with_reducible (apply Moves.of_eq; assumption)
    | with_reducible intro _
    | dsimp only
    | split

theorem execGetCapabilities_ans (s : State) {k0 : Nat} (hk0 : 262152 &&& k0 = 262152) :
    Answers k0 s (execGetCapabilities s) := by
  unfold execGetCapabilities
  repeat' first
    | with_reducible exact Moves.refl _ _
    | with_reducible assumption
    | with_reducible exact mask_le hk0 (by decide)
    | with_reducible apply Moves.ite
    | with_reducible apply Moves.ite_fst
    | with_reducible (apply always_ans)
    | with_reducible (apply spdmCapabilities_moves)
    | with_reducible (apply Moves.foldl)
    | with_reducible (apply Moves.foldl_fst)
    | with_reducible (apply Moves.of_eq; assumption)
    | with_reducible intro _
    | dsimp only
    | split

theorem execNegotiateAlgorithms_ans (s : State) {k0 : Nat} (hk0 : 262152 &&& k0 = 262152) :
    Answers k0 s (execNegotiateAlgorithms s) := by
  unfold execNegotiateAlgorithms
  repeat' first
    | with_reducible exact Moves.refl _ _
    | with_reducible assumption
    | with_reducible exact mask_le hk0 (by decide)
    | with_reducible apply Moves.ite
    | with_reducible apply Moves.ite_fst
    | with_reducible (apply always_ans)
    | with_reducible (apply spdmAlgorithms_moves)
    | with_reducible (apply Moves.foldl)
    | with_reducible (apply Moves.foldl_fst)
    | with_reducible (apply Moves.of_eq; assumption)
    | with_reducible intro _
    | dsimp only
    | split

theorem execGetDigests_ans (s : State) {k0 : Nat} (hk0 : 8 &&& k0 = 8) :
    Answers k0 s (execGetDigests s) := by
  unfold execGetDigests
  repeat' first
    | with_reducible exact Moves.refl _ _
    | with_reducible assumption
    | with_reducible exact mask_le hk0 (by decide)
    | with_reducible apply Moves.ite
    | with_reducible apply Moves.ite_fst
    | with_reducible (apply always_ans)
    | with_reducible (apply spdmDigests_moves)
    | with_reducible (apply Moves.foldl)
    | with_reducible (apply Moves.foldl_fst)
    | with_reducible (apply Moves.of_eq; assumption)
    | with_reducible intro _
    | dsimp only
    | split

theorem execGetCertificate_ans (slot : Nat) (off : Nat) (len : Nat) (s : State) {k0 : Nat} (hk0 : 8 &&& k0 = 8) :
    Answers k0 s (execGetCertificate slot off len s) := by
  unfold execGetCertificate
  repeat' first
    | with_reducible exact Moves.refl _ _
    | with_reducible assumption
    | with_reducible exact mask_le hk0 (by decide)
    | with_reducible apply Moves.ite
    | with_reducible apply Moves.ite_fst
    | with_reducible (apply always_ans)
    | with_reducible (apply spdmCertificate_moves)
    | with_reducible (apply Moves.foldl)
    | with_reducible (apply Moves.foldl_fst)
    | with_reducible (apply Moves.of_eq; assumption)
    | with_reducible intro _
    | dsimp only
    | split

theorem execChallenge_ans (nonce : List Byte) (s : State) {k0 : Nat} (hk0 : 10 &&& k0 = 10) :
    Answers k0 s (execChallenge nonce s) := by
  unfold execChallenge
  repeat' first
    | with_reducible exact Moves.refl _ _
    | with_reducible assumption
    | with_reducible exact mask_le hk0 (by decide)
    | with_reducible apply Moves.ite
    | with_reducible apply Moves.ite_fst
    | with_reducible (apply always_ans)
    | with_reducible (apply spdmChallenge_moves)
    | with_reducible (apply Moves.foldl)
    | with_reducible (apply Moves.foldl_fst)
    | with_reducible (apply Moves.of_eq; assumption)
    | with_reducible intro _
    | dsimp only
    | split

theorem execGetMeasurements_ans (index : Nat) (signed : Bool) (nonce : List Byte) (s : State) {k0 : Nat} (hk0 : 8 &&& k0 = 8) :
    Answers k0 s (execGetMeasurements index signed nonce s) := by
  unfold execGetMeasurements
  repeat' first
    | with_reducible exact Moves.refl _ _
    | with_reducible assumption
    | with_reducible exact mask_le hk0 (by decide)
    | with_reducible apply Moves.ite
    | with_reducible apply Moves.ite_fst
    | with_reducible (apply always_ans)
    | with_reducible (apply spdmMeasurements_moves)
    | with_reducible (apply Moves.foldl)
    | with_reducible (apply Moves.foldl_fst)
    | with_reducible (apply Moves.of_eq; assumption)
    | with_reducible intro _
    | dsimp only
    | split

end Sys2Proof.Machine
end

