-- ==== Sys2Proof/Laws/MovesNetCmds.lean ====
section
/-! SUPPORT. What each operation of Machine/NetCmds.lean may change. -/

set_option linter.unreachableTactic false
set_option linter.unusedTactic false
set_option linter.unusedVariables false

namespace Sys2Proof.Machine

theorem execEthLinkNegotiate_ans (port : Nat) (linked : Bool) (s : State) {k0 : Nat} (hk0 : 1048576 &&& k0 = 1048576) :
    Answers k0 s (execEthLinkNegotiate port linked s) := by
  unfold execEthLinkNegotiate
  repeat' first
    | with_reducible exact Moves.refl _ _
    | with_reducible assumption
    | with_reducible exact mask_le hk0 (by decide)
    | with_reducible apply Moves.ite
    | with_reducible apply Moves.ite_fst
    | with_reducible (apply ethNegotiate_moves)
    | with_reducible (apply onDies_ans)
    | with_reducible (apply Moves.foldl)
    | with_reducible (apply Moves.foldl_fst)
    | with_reducible (apply Moves.of_eq; assumption)
    | with_reducible intro _
    | dsimp only
    | split

theorem execEthLinkLoss_ans (port : Nat) (s : State) {k0 : Nat} (hk0 : 1048576 &&& k0 = 1048576) :
    Answers k0 s (execEthLinkLoss port s) := by
  unfold execEthLinkLoss
  repeat' first
    | with_reducible exact Moves.refl _ _
    | with_reducible assumption
    | with_reducible exact mask_le hk0 (by decide)
    | with_reducible apply Moves.ite
    | with_reducible apply Moves.ite_fst
    | with_reducible (apply ethLoss_moves)
    | with_reducible (apply onDies_ans)
    | with_reducible (apply Moves.foldl)
    | with_reducible (apply Moves.foldl_fst)
    | with_reducible (apply Moves.of_eq; assumption)
    | with_reducible intro _
    | dsimp only
    | split

theorem execEthFrameReceived_ans (port : Nat) (good : Bool) (fill : Nat) (frame : List Byte) (s : State) {k0 : Nat} (hk0 : 1048584 &&& k0 = 1048584) :
    Answers k0 s (execEthFrameReceived port good fill frame s) := by
  unfold execEthFrameReceived
  repeat' first
    | with_reducible exact Moves.refl _ _
    | with_reducible assumption
    | with_reducible exact mask_le hk0 (by decide)
    | with_reducible apply Moves.ite
    | with_reducible apply Moves.ite_fst
    | with_reducible (apply ethFrame_moves)
    | with_reducible (apply onDies_ans)
    | with_reducible (apply Moves.foldl)
    | with_reducible (apply Moves.foldl_fst)
    | with_reducible (apply Moves.of_eq; assumption)
    | with_reducible intro _
    | dsimp only
    | split

theorem execRawRxConsumedWrite_ans (v : Nat) (s : State) {k0 : Nat} (hk0 : 5242880 &&& k0 = 5242880) :
    Answers k0 s (execRawRxConsumedWrite v s) := by
  unfold execRawRxConsumedWrite
  repeat' first
    | with_reducible exact Moves.refl _ _
    | with_reducible assumption
    | with_reducible exact mask_le hk0 (by decide)
    | with_reducible apply Moves.ite
    | with_reducible apply Moves.ite_fst
    | with_reducible (apply always_ans)
    | with_reducible (apply inP0_moves)
    | with_reducible (apply rawRxWrite_moves)
    | with_reducible (apply viaReg_moves)
    | with_reducible (apply Moves.foldl)
    | with_reducible (apply Moves.foldl_fst)
    | with_reducible (apply Moves.of_eq; assumption)
    | with_reducible intro _
    | dsimp only
    | split

theorem execRawTxProduce_ans (v : Nat) (feeds : List HostResp) (s : State) {k0 : Nat} (hk0 : 5767176 &&& k0 = 5767176) :
    Answers k0 s (execRawTxProduce v feeds s) := by
  unfold execRawTxProduce
  repeat' first
    | with_reducible exact Moves.refl _ _
    | with_reducible assumption
    | with_reducible exact mask_le hk0 (by decide)
    | with_reducible apply Moves.ite
    | with_reducible apply Moves.ite_fst
    | with_reducible (apply always_ans)
    | with_reducible (apply inP0_moves)
    | with_reducible (apply rawTxWrite_moves)
    | with_reducible (apply viaReg_moves)
    | with_reducible (apply Moves.foldl)
    | with_reducible (apply Moves.foldl_fst)
    | with_reducible (apply Moves.of_eq; assumption)
    | with_reducible intro _
    | dsimp only
    | split

theorem execQpCreate_ans (claim : Nat) (context : HostResp) (s : State) {k0 : Nat} (hk0 : 5767176 &&& k0 = 5767176) :
    Answers k0 s (execQpCreate claim context s) := by
  unfold execQpCreate
  repeat' first
    | with_reducible exact Moves.refl _ _
    | with_reducible assumption
    | with_reducible exact mask_le hk0 (by decide)
    | with_reducible apply Moves.ite
    | with_reducible apply Moves.ite_fst
    | with_reducible (apply always_ans)
    | with_reducible (apply inP0_moves)
    | with_reducible (apply qpCreate_moves)
    | with_reducible (apply qpGo_moves)
    | with_reducible (apply viaClaim_moves)
    | with_reducible (apply Moves.foldl)
    | with_reducible (apply Moves.foldl_fst)
    | with_reducible (apply Moves.of_eq; assumption)
    | with_reducible intro _
    | dsimp only
    | split

theorem execQpModify_ans (claim : Nat) (handle : Nat) (context : HostResp) (s : State) {k0 : Nat} (hk0 : 5817992 &&& k0 = 5817992) :
    Answers k0 s (execQpModify claim handle context s) := by
  unfold execQpModify
  repeat' first
    | with_reducible exact Moves.refl _ _
    | with_reducible assumption
    | with_reducible exact mask_le hk0 (by decide)
    | with_reducible apply Moves.ite
    | with_reducible apply Moves.ite_fst
    | with_reducible (apply always_ans)
    | with_reducible (apply inP0_moves)
    | with_reducible (apply qpGo_moves)
    | with_reducible (apply qpModify_moves)
    | with_reducible (apply viaClaim_moves)
    | with_reducible (apply Moves.foldl)
    | with_reducible (apply Moves.foldl_fst)
    | with_reducible (apply Moves.of_eq; assumption)
    | with_reducible intro _
    | dsimp only
    | split

theorem execQpDestroy_ans (claim : Nat) (handle : Nat) (s : State) {k0 : Nat} (hk0 : 5242880 &&& k0 = 5242880) :
    Answers k0 s (execQpDestroy claim handle s) := by
  unfold execQpDestroy
  repeat' first
    | with_reducible exact Moves.refl _ _
    | with_reducible assumption
    | with_reducible exact mask_le hk0 (by decide)
    | with_reducible apply Moves.ite
    | with_reducible apply Moves.ite_fst
    | with_reducible (apply always_ans)
    | with_reducible (apply inP0_moves)
    | with_reducible (apply qpDestroy_moves)
    | with_reducible (apply qpGo_moves)
    | with_reducible (apply viaClaim_moves)
    | with_reducible (apply Moves.foldl)
    | with_reducible (apply Moves.foldl_fst)
    | with_reducible (apply Moves.of_eq; assumption)
    | with_reducible intro _
    | dsimp only
    | split

theorem execQpQuery_ans (claim : Nat) (handle : Nat) (s : State) {k0 : Nat} (hk0 : 5242888 &&& k0 = 5242888) :
    Answers k0 s (execQpQuery claim handle s) := by
  unfold execQpQuery
  repeat' first
    | with_reducible exact Moves.refl _ _
    | with_reducible assumption
    | with_reducible exact mask_le hk0 (by decide)
    | with_reducible apply Moves.ite
    | with_reducible apply Moves.ite_fst
    | with_reducible (apply always_ans)
    | with_reducible (apply inP0_moves)
    | with_reducible (apply qpGo_moves)
    | with_reducible (apply qpQuery_moves)
    | with_reducible (apply viaClaim_moves)
    | with_reducible (apply Moves.foldl)
    | with_reducible (apply Moves.foldl_fst)
    | with_reducible (apply Moves.of_eq; assumption)
    | with_reducible intro _
    | dsimp only
    | split

theorem execSqDoorbell_ans (claim : Nat) (handle : Nat) (v : Nat) (feeds : List (HostResp × HostResp)) (s : State) {k0 : Nat} (hk0 : 6088648 &&& k0 = 6088648) :
    Answers k0 s (execSqDoorbell claim handle v feeds s) := by
  unfold execSqDoorbell
  repeat' first
    | with_reducible exact Moves.refl _ _
    | with_reducible assumption
    | with_reducible exact mask_le hk0 (by decide)
    | with_reducible apply Moves.ite
    | with_reducible apply Moves.ite_fst
    | with_reducible (apply always_ans)
    | with_reducible (apply inP0_moves)
    | with_reducible (apply sqDoorbell_moves)
    | with_reducible (apply viaClaim_moves)
    | with_reducible (apply Moves.foldl)
    | with_reducible (apply Moves.foldl_fst)
    | with_reducible (apply Moves.of_eq; assumption)
    | with_reducible intro _
    | dsimp only
    | split

theorem execRqDoorbell_ans (claim : Nat) (handle : Nat) (v : Nat) (feeds : List HostResp) (s : State) {k0 : Nat} (hk0 : 5817992 &&& k0 = 5817992) :
    Answers k0 s (execRqDoorbell claim handle v feeds s) := by
  unfold execRqDoorbell
  repeat' first
    | with_reducible exact Moves.refl _ _
    | with_reducible assumption
    | with_reducible exact mask_le hk0 (by decide)
    | with_reducible apply Moves.ite
    | with_reducible apply Moves.ite_fst
    | with_reducible (apply always_ans)
    | with_reducible (apply inP0_moves)
    | with_reducible (apply rqDoorbell_moves)
    | with_reducible (apply viaClaim_moves)
    | with_reducible (apply Moves.foldl)
    | with_reducible (apply Moves.foldl_fst)
    | with_reducible (apply Moves.of_eq; assumption)
    | with_reducible intro _
    | dsimp only
    | split

theorem execCqConsumedWrite_ans (claim : Nat) (handle : Nat) (v : Nat) (feeds : List (HostResp × HostResp)) (s : State) {k0 : Nat} (hk0 : 6088648 &&& k0 = 6088648) :
    Answers k0 s (execCqConsumedWrite claim handle v feeds s) := by
  unfold execCqConsumedWrite
  repeat' first
    | with_reducible exact Moves.refl _ _
    | with_reducible assumption
    | with_reducible exact mask_le hk0 (by decide)
    | with_reducible apply Moves.ite
    | with_reducible apply Moves.ite_fst
    | with_reducible (apply always_ans)
    | with_reducible (apply cqConsumed_moves)
    | with_reducible (apply inP0_moves)
    | with_reducible (apply viaClaim_moves)
    | with_reducible (apply Moves.foldl)
    | with_reducible (apply Moves.foldl_fst)
    | with_reducible (apply Moves.of_eq; assumption)
    | with_reducible intro _
    | dsimp only
    | split

theorem execRoceAckReceived_ans (claim : Nat) (handle : Nat) (psn : Nat) (reads : List (List Byte)) (feeds : List (HostResp × HostResp)) (s : State) {k0 : Nat} (hk0 : 1894344 &&& k0 = 1894344) :
    Answers k0 s (execRoceAckReceived claim handle psn reads feeds s) := by
  unfold execRoceAckReceived
  repeat' first
    | with_reducible exact Moves.refl _ _
    | with_reducible assumption
    | with_reducible exact mask_le hk0 (by decide)
    | with_reducible apply Moves.ite
    | with_reducible apply Moves.ite_fst
    | with_reducible (apply afterMoves_moves)
    | with_reducible (apply onDies_ans)
    | with_reducible (apply roceAck_moves)
    | with_reducible (apply Moves.foldl)
    | with_reducible (apply Moves.foldl_fst)
    | with_reducible (apply Moves.of_eq; assumption)
    | with_reducible intro _
    | dsimp only
    | split

theorem execRoceNakReceived_ans (claim : Nat) (handle : Nat) (psn : Nat) (code : Nat) (reads : List (List Byte)) (s : State) {k0 : Nat} (hk0 : 1370056 &&& k0 = 1370056) :
    Answers k0 s (execRoceNakReceived claim handle psn code reads s) := by
  unfold execRoceNakReceived
  repeat' first
    | with_reducible exact Moves.refl _ _
    | with_reducible assumption
    | with_reducible exact mask_le hk0 (by decide)
    | with_reducible apply Moves.ite
    | with_reducible apply Moves.ite_fst
    | with_reducible (apply afterMoves_moves)
    | with_reducible (apply onDies_ans)
    | with_reducible (apply roceNak_moves)
    | with_reducible (apply Moves.foldl)
    | with_reducible (apply Moves.foldl_fst)
    | with_reducible (apply Moves.of_eq; assumption)
    | with_reducible intro _
    | dsimp only
    | split

theorem execQpAckTimeout_ans (claim : Nat) (handle : Nat) (s : State) {k0 : Nat} (hk0 : 1099400 &&& k0 = 1099400) :
    Answers k0 s (execQpAckTimeout claim handle s) := by
  unfold execQpAckTimeout
  repeat' first
    | with_reducible exact Moves.refl _ _
    | with_reducible assumption
    | with_reducible exact mask_le hk0 (by decide)
    | with_reducible apply Moves.ite
    | with_reducible apply Moves.ite_fst
    | with_reducible (apply ackTimeout_moves)
    | with_reducible (apply onDies_ans)
    | with_reducible (apply Moves.foldl)
    | with_reducible (apply Moves.foldl_fst)
    | with_reducible (apply Moves.of_eq; assumption)
    | with_reducible intro _
    | dsimp only
    | split

theorem execRnrTimerExpiry_ans (claim : Nat) (handle : Nat) (s : State) {k0 : Nat} (hk0 : 1099400 &&& k0 = 1099400) :
    Answers k0 s (execRnrTimerExpiry claim handle s) := by
  unfold execRnrTimerExpiry
  repeat' first
    | with_reducible exact Moves.refl _ _
    | with_reducible assumption
    | with_reducible exact mask_le hk0 (by decide)
    | with_reducible apply Moves.ite
    | with_reducible apply Moves.ite_fst
    | with_reducible (apply onDies_ans)
    | with_reducible (apply rnrExpiry_moves)
    | with_reducible (apply Moves.foldl)
    | with_reducible (apply Moves.foldl_fst)
    | with_reducible (apply Moves.of_eq; assumption)
    | with_reducible intro _
    | dsimp only
    | split

theorem execRdmaWriteReceived_ans (claim : Nat) (handle : Nat) (psn : Nat) (rkey : Nat) (addr : Nat) (payload : List Byte) (imm : Option Nat) (feeds : List HostResp) (s : State) {k0 : Nat} (hk0 : 1894344 &&& k0 = 1894344) :
    Answers k0 s (execRdmaWriteReceived claim handle psn rkey addr payload imm feeds s) := by
  unfold execRdmaWriteReceived
  repeat' first
    | with_reducible exact Moves.refl _ _
    | with_reducible assumption
    | with_reducible exact mask_le hk0 (by decide)
    | with_reducible apply Moves.ite
    | with_reducible apply Moves.ite_fst
    | with_reducible (apply afterMoves_moves)
    | with_reducible (apply onDies_ans)
    | with_reducible (apply rdmaWrite_moves)
    | with_reducible (apply Moves.foldl)
    | with_reducible (apply Moves.foldl_fst)
    | with_reducible (apply Moves.of_eq; assumption)
    | with_reducible intro _
    | dsimp only
    | split

theorem execRdmaReadReceived_ans (claim : Nat) (handle : Nat) (psn : Nat) (rkey : Nat) (addr : Nat) (len : Nat) (data : HostResp) (s : State) {k0 : Nat} (hk0 : 1894344 &&& k0 = 1894344) :
    Answers k0 s (execRdmaReadReceived claim handle psn rkey addr len data s) := by
  unfold execRdmaReadReceived
  repeat' first
    | with_reducible exact Moves.refl _ _
    | with_reducible assumption
    | with_reducible exact mask_le hk0 (by decide)
    | with_reducible apply Moves.ite
    | with_reducible apply Moves.ite_fst
    | with_reducible (apply onDies_ans)
    | with_reducible (apply rdmaRead_moves)
    | with_reducible (apply Moves.foldl)
    | with_reducible (apply Moves.foldl_fst)
    | with_reducible (apply Moves.of_eq; assumption)
    | with_reducible intro _
    | dsimp only
    | split

theorem execRoceSendReceived_ans (claim : Nat) (handle : Nat) (psn : Nat) (payload : List Byte) (imm : Option Nat) (feeds : List HostResp) (s : State) {k0 : Nat} (hk0 : 1894344 &&& k0 = 1894344) :
    Answers k0 s (execRoceSendReceived claim handle psn payload imm feeds s) := by
  unfold execRoceSendReceived
  repeat' first
    | with_reducible exact Moves.refl _ _
    | with_reducible assumption
    | with_reducible exact mask_le hk0 (by decide)
    | with_reducible apply Moves.ite
    | with_reducible apply Moves.ite_fst
    | with_reducible (apply afterMoves_moves)
    | with_reducible (apply onDies_ans)
    | with_reducible (apply roceSend_moves)
    | with_reducible (apply Moves.foldl)
    | with_reducible (apply Moves.foldl_fst)
    | with_reducible (apply Moves.of_eq; assumption)
    | with_reducible intro _
    | dsimp only
    | split

theorem execCnpReceived_ans (claim : Nat) (handle : Nat) (s : State) {k0 : Nat} (hk0 : 1048576 &&& k0 = 1048576) :
    Answers k0 s (execCnpReceived claim handle s) := by
  unfold execCnpReceived
  repeat' first
    | with_reducible exact Moves.refl _ _
    | with_reducible assumption
    | with_reducible exact mask_le hk0 (by decide)
    | with_reducible apply Moves.ite
    | with_reducible apply Moves.ite_fst
    | with_reducible (apply cnpReceived_moves)
    | with_reducible (apply onDies_ans)
    | with_reducible (apply Moves.foldl)
    | with_reducible (apply Moves.foldl_fst)
    | with_reducible (apply Moves.of_eq; assumption)
    | with_reducible intro _
    | dsimp only
    | split

theorem execCePacketReceived_ans (claim : Nat) (handle : Nat) (s : State) {k0 : Nat} (hk0 : 1048584 &&& k0 = 1048584) :
    Answers k0 s (execCePacketReceived claim handle s) := by
  unfold execCePacketReceived
  repeat' first
    | with_reducible exact Moves.refl _ _
    | with_reducible assumption
    | with_reducible exact mask_le hk0 (by decide)
    | with_reducible apply Moves.ite
    | with_reducible apply Moves.ite_fst
    | with_reducible (apply cePacket_moves)
    | with_reducible (apply onDies_ans)
    | with_reducible (apply Moves.foldl)
    | with_reducible (apply Moves.foldl_fst)
    | with_reducible (apply Moves.of_eq; assumption)
    | with_reducible intro _
    | dsimp only
    | split

theorem execRateIncreaseTimer_ans (claim : Nat) (handle : Nat) (s : State) {k0 : Nat} (hk0 : 1048576 &&& k0 = 1048576) :
    Answers k0 s (execRateIncreaseTimer claim handle s) := by
  unfold execRateIncreaseTimer
  repeat' first
    | with_reducible exact Moves.refl _ _
    | with_reducible assumption
    | with_reducible exact mask_le hk0 (by decide)
    | with_reducible apply Moves.ite
    | with_reducible apply Moves.ite_fst
    | with_reducible (apply onDies_ans)
    | with_reducible (apply rateIncrease_moves)
    | with_reducible (apply Moves.foldl)
    | with_reducible (apply Moves.foldl_fst)
    | with_reducible (apply Moves.of_eq; assumption)
    | with_reducible intro _
    | dsimp only
    | split

theorem execPfcFrameReceived_ans (port : Nat) (priority : Nat) (xoff : Bool) (s : State) {k0 : Nat} (hk0 : 1048584 &&& k0 = 1048584) :
    Answers k0 s (execPfcFrameReceived port priority xoff s) := by
  unfold execPfcFrameReceived
  repeat' first
    | with_reducible exact Moves.refl _ _
    | with_reducible assumption
    | with_reducible exact mask_le hk0 (by decide)
    | with_reducible apply Moves.ite
    | with_reducible apply Moves.ite_fst
    | with_reducible (apply onDies_ans)
    | with_reducible (apply pfcReceived_moves)
    | with_reducible (apply Moves.foldl)
    | with_reducible (apply Moves.foldl_fst)
    | with_reducible (apply Moves.of_eq; assumption)
    | with_reducible intro _
    | dsimp only
    | split

theorem execEntMrWrite_ans (claim : Nat) (region : Nat) (word : Nat) (v : Nat) (s : State) {k0 : Nat} (hk0 : 5243904 &&& k0 = 5243904) :
    Answers k0 s (execEntMrWrite claim region word v s) := by
  unfold execEntMrWrite
  repeat' first
    | with_reducible exact Moves.refl _ _
    | with_reducible assumption
    | with_reducible exact mask_le hk0 (by decide)
    | with_reducible apply Moves.ite
    | with_reducible apply Moves.ite_fst
    | with_reducible (apply always_ans)
    | with_reducible (apply inP0_moves)
    | with_reducible (apply regionAccess_moves)
    | with_reducible (apply regionRange_moves)
    | with_reducible (apply viaClaimWide_moves)
    | with_reducible (apply Moves.foldl)
    | with_reducible (apply Moves.foldl_fst)
    | with_reducible (apply Moves.of_eq; assumption)
    | with_reducible intro _
    | dsimp only
    | split

theorem execEntGidCommit_ans (port : Nat) (gid : Nat) (v : Nat) (s : State) {k0 : Nat} (hk0 : 5243904 &&& k0 = 5243904) :
    Answers k0 s (execEntGidCommit port gid v s) := by
  unfold execEntGidCommit
  repeat' first
    | with_reducible exact Moves.refl _ _
    | with_reducible assumption
    | with_reducible exact mask_le hk0 (by decide)
    | with_reducible apply Moves.ite
    | with_reducible apply Moves.ite_fst
    | with_reducible (apply always_ans)
    | with_reducible (apply gidCommit_moves)
    | with_reducible (apply inP0_moves)
    | with_reducible (apply viaWide_moves)
    | with_reducible (apply Moves.foldl)
    | with_reducible (apply Moves.foldl_fst)
    | with_reducible (apply Moves.of_eq; assumption)
    | with_reducible intro _
    | dsimp only
    | split

end Sys2Proof.Machine
end

