-- ==== Sys2Proof/Laws/MovesPcieCmds.lean ====
section
/-! SUPPORT. What each operation of Machine/PcieCmds.lean may change. -/

set_option linter.unreachableTactic false
set_option linter.unusedTactic false
set_option linter.unusedVariables false

namespace Sys2Proof.Machine

theorem execPcieLinkTrain_ans (gen : Nat) (width : Nat) (s : State) {k0 : Nat} (hk0 : 524288 &&& k0 = 524288) :
    Answers k0 s (execPcieLinkTrain gen width s) := by
  unfold execPcieLinkTrain
  repeat' first
    | with_reducible exact Moves.refl _ _
    | with_reducible assumption
    | with_reducible exact mask_le hk0 (by decide)
    | with_reducible apply Moves.ite
    | with_reducible apply Moves.ite_fst
    | with_reducible (apply onDies_ans)
    | with_reducible (apply pcieTrain_moves)
    | with_reducible (apply Moves.foldl)
    | with_reducible (apply Moves.foldl_fst)
    | with_reducible (apply Moves.of_eq; assumption)
    | with_reducible intro _
    | dsimp only
    | split

theorem execPcieLinkDown_ans (s : State) {k0 : Nat} (hk0 : 1951688 &&& k0 = 1951688) :
    Answers k0 s (execPcieLinkDown s) := by
  unfold execPcieLinkDown
  repeat' first
    | with_reducible exact Moves.refl _ _
    | with_reducible assumption
    | with_reducible exact mask_le hk0 (by decide)
    | with_reducible apply Moves.ite
    | with_reducible apply Moves.ite_fst
    | with_reducible (apply onDies_ans)
    | with_reducible (apply pcieDown_moves)
    | with_reducible (apply Moves.foldl)
    | with_reducible (apply Moves.foldl_fst)
    | with_reducible (apply Moves.of_eq; assumption)
    | with_reducible intro _
    | dsimp only
    | split

theorem execPfFunctionLevelReset_ans (s : State) {k0 : Nat} (hk0 : 1951688 &&& k0 = 1951688) :
    Answers k0 s (execPfFunctionLevelReset s) := by
  unfold execPfFunctionLevelReset
  repeat' first
    | with_reducible exact Moves.refl _ _
    | with_reducible assumption
    | with_reducible exact mask_le hk0 (by decide)
    | with_reducible apply Moves.ite
    | with_reducible apply Moves.ite_fst
    | with_reducible (apply onHost_ans)
    | with_reducible (apply pfReset_moves)
    | with_reducible (apply Moves.foldl)
    | with_reducible (apply Moves.foldl_fst)
    | with_reducible (apply Moves.of_eq; assumption)
    | with_reducible intro _
    | dsimp only
    | split

theorem execBusMasterEnableWrite_ans (fn : Nat) (on : Bool) (context : HostResp) (feeds : List (Nat × HostResp × HostResp)) (s : State) {k0 : Nat} (hk0 : 1894344 &&& k0 = 1894344) :
    Answers k0 s (execBusMasterEnableWrite fn on context feeds s) := by
  unfold execBusMasterEnableWrite
  repeat' first
    | with_reducible exact Moves.refl _ _
    | with_reducible assumption
    | with_reducible exact mask_le hk0 (by decide)
    | with_reducible apply Moves.ite
    | with_reducible apply Moves.ite_fst
    | with_reducible (apply onHost_ans)
    | with_reducible (apply requestsChange_moves)
    | with_reducible (apply Moves.foldl)
    | with_reducible (apply Moves.foldl_fst)
    | with_reducible (apply Moves.of_eq; assumption)
    | with_reducible intro _
    | dsimp only
    | split

theorem execD3hotTransition_ans (fn : Nat) (d3hot : Bool) (context : HostResp) (feeds : List (Nat × HostResp × HostResp)) (s : State) {k0 : Nat} (hk0 : 1894344 &&& k0 = 1894344) :
    Answers k0 s (execD3hotTransition fn d3hot context feeds s) := by
  unfold execD3hotTransition
  repeat' first
    | with_reducible exact Moves.refl _ _
    | with_reducible assumption
    | with_reducible exact mask_le hk0 (by decide)
    | with_reducible apply Moves.ite
    | with_reducible apply Moves.ite_fst
    | with_reducible (apply onHost_ans)
    | with_reducible (apply requestsChange_moves)
    | with_reducible (apply Moves.foldl)
    | with_reducible (apply Moves.foldl_fst)
    | with_reducible (apply Moves.of_eq; assumption)
    | with_reducible intro _
    | dsimp only
    | split

theorem execMsixMaskChange_ans (fn : Nat) (enable : Bool) (mask : Bool) (vector : Nat) (masked : Bool) (s : State) {k0 : Nat} (hk0 : 1032 &&& k0 = 1032) :
    Answers k0 s (execMsixMaskChange fn enable mask vector masked s) := by
  unfold execMsixMaskChange
  repeat' first
    | with_reducible exact Moves.refl _ _
    | with_reducible assumption
    | with_reducible exact mask_le hk0 (by decide)
    | with_reducible apply Moves.ite
    | with_reducible apply Moves.ite_fst
    | with_reducible (apply State.modFn_moves)
    | with_reducible (apply msixFlush_moves)
    | with_reducible (apply onHost_ans)
    | with_reducible (apply Moves.foldl)
    | with_reducible (apply Moves.foldl_fst)
    | with_reducible (apply Moves.of_eq; assumption)
    | with_reducible intro _
    | dsimp only
    | split

theorem execHstWinWrite_ans (fn : Nat) (window : Nat) (limit : Bool) (v : Nat) (s : State) {k0 : Nat} (hk0 : 4195328 &&& k0 = 4195328) :
    Answers k0 s (execHstWinWrite fn window limit v s) := by
  unfold execHstWinWrite
  repeat' first
    | with_reducible exact Moves.refl _ _
    | with_reducible assumption
    | with_reducible exact mask_le hk0 (by decide)
    | with_reducible apply Moves.ite
    | with_reducible apply Moves.ite_fst
    | with_reducible (apply always_ans)
    | with_reducible (apply inP0_moves)
    | with_reducible (apply viaWide_moves)
    | with_reducible (apply winWrite_moves)
    | with_reducible (apply Moves.foldl)
    | with_reducible (apply Moves.foldl_fst)
    | with_reducible (apply Moves.of_eq; assumption)
    | with_reducible intro _
    | dsimp only
    | split

theorem execUnsupportedRequestReceived_ans (fn : Nat) (s : State) {k0 : Nat} (hk0 : 524296 &&& k0 = 524296) :
    Answers k0 s (execUnsupportedRequestReceived fn s) := by
  unfold execUnsupportedRequestReceived
  repeat' first
    | with_reducible exact Moves.refl _ _
    | with_reducible assumption
    | with_reducible exact mask_le hk0 (by decide)
    | with_reducible apply Moves.ite
    | with_reducible apply Moves.ite_fst
    | with_reducible (apply onHost_ans)
    | with_reducible (apply unsupported_moves)
    | with_reducible (apply Moves.foldl)
    | with_reducible (apply Moves.foldl_fst)
    | with_reducible (apply Moves.of_eq; assumption)
    | with_reducible intro _
    | dsimp only
    | split

end Sys2Proof.Machine
end

