-- ==== Sys2Proof/Laws/MovesPowerCmds.lean ====
section
/-! SUPPORT. What each operation of Machine/PowerCmds.lean may change. -/

set_option linter.unreachableTactic false
set_option linter.unusedTactic false
set_option linter.unusedVariables false

namespace Sys2Proof.Machine

theorem execPwrRequestP2_ans (wake : Bool) (s : State) {k0 : Nat} (hk0 : 8388600 &&& k0 = 8388600) :
    Answers k0 s (execPwrRequestP2 wake s) := by
  unfold execPwrRequestP2
  repeat' first
    | with_reducible exact Moves.refl _ _
    | with_reducible assumption
    | with_reducible exact mask_le hk0 (by decide)
    | with_reducible apply Moves.ite
    | with_reducible apply Moves.ite_fst
    | with_reducible (apply always_ans)
    | with_reducible (apply powerGo_moves)
    | with_reducible (apply viaReg_moves)
    | with_reducible (apply Moves.foldl)
    | with_reducible (apply Moves.foldl_fst)
    | with_reducible (apply Moves.of_eq; assumption)
    | with_reducible intro _
    | dsimp only
    | split

theorem execPwrRequestP0_ans (wake : Bool) (s : State) {k0 : Nat} (hk0 : 8388600 &&& k0 = 8388600) :
    Answers k0 s (execPwrRequestP0 wake s) := by
  unfold execPwrRequestP0
  repeat' first
    | with_reducible exact Moves.refl _ _
    | with_reducible assumption
    | with_reducible exact mask_le hk0 (by decide)
    | with_reducible apply Moves.ite
    | with_reducible apply Moves.ite_fst
    | with_reducible (apply always_ans)
    | with_reducible (apply powerGo_moves)
    | with_reducible (apply viaReg_moves)
    | with_reducible (apply Moves.foldl)
    | with_reducible (apply Moves.foldl_fst)
    | with_reducible (apply Moves.of_eq; assumption)
    | with_reducible intro _
    | dsimp only
    | split

theorem execPwrRequestP3_ans (wake : Bool) (s : State) {k0 : Nat} (hk0 : 8388600 &&& k0 = 8388600) :
    Answers k0 s (execPwrRequestP3 wake s) := by
  unfold execPwrRequestP3
  repeat' first
    | with_reducible exact Moves.refl _ _
    | with_reducible assumption
    | with_reducible exact mask_le hk0 (by decide)
    | with_reducible apply Moves.ite
    | with_reducible apply Moves.ite_fst
    | with_reducible (apply always_ans)
    | with_reducible (apply powerGo_moves)
    | with_reducible (apply viaReg_moves)
    | with_reducible (apply Moves.foldl)
    | with_reducible (apply Moves.foldl_fst)
    | with_reducible (apply Moves.of_eq; assumption)
    | with_reducible intro _
    | dsimp only
    | split

theorem execPowerLimitCheck_ans (avg : Nat) (sample : Nat) (s : State) {k0 : Nat} (hk0 : 393352 &&& k0 = 393352) :
    Answers k0 s (execPowerLimitCheck avg sample s) := by
  unfold execPowerLimitCheck
  repeat' first
    | with_reducible exact Moves.refl _ _
    | with_reducible assumption
    | with_reducible exact mask_le hk0 (by decide)
    | with_reducible apply Moves.ite
    | with_reducible apply Moves.ite_fst
    | with_reducible (apply always_ans)
    | with_reducible (apply limitCheck_moves)
    | with_reducible (apply Moves.foldl)
    | with_reducible (apply Moves.foldl_fst)
    | with_reducible (apply Moves.of_eq; assumption)
    | with_reducible intro _
    | dsimp only
    | split

theorem execThermalSample_ans (temps : List ℤ) (s : State) {k0 : Nat} (hk0 : 8388600 &&& k0 = 8388600) :
    Answers k0 s (execThermalSample temps s) := by
  unfold execThermalSample
  repeat' first
    | with_reducible exact Moves.refl _ _
    | with_reducible assumption
    | with_reducible exact mask_le hk0 (by decide)
    | with_reducible apply Moves.ite
    | with_reducible apply Moves.ite_fst
    | with_reducible (apply always_ans)
    | with_reducible (apply thermalSample_moves)
    | with_reducible (apply Moves.foldl)
    | with_reducible (apply Moves.foldl_fst)
    | with_reducible (apply Moves.of_eq; assumption)
    | with_reducible intro _
    | dsimp only
    | split

end Sys2Proof.Machine
end

