-- ==== Sys2Proof/Laws/MovesRegCmds.lean ====
section
/-! SUPPORT. What each operation of Machine/RegCmds.lean may change. -/

set_option linter.unreachableTactic false
set_option linter.unusedTactic false
set_option linter.unusedVariables false

namespace Sys2Proof.Machine

theorem execRegisterWrite_ans (fn : Nat) (off : Nat) (width : Nat) (v : Nat) (s : State) {k0 : Nat} (hk0 : 8388602 &&& k0 = 8388602) :
    Answers k0 s (execRegisterWrite fn off width v s) := by
  unfold execRegisterWrite
  repeat' first
    | with_reducible exact Moves.refl _ _
    | with_reducible assumption
    | with_reducible exact mask_le hk0 (by decide)
    | with_reducible apply Moves.ite
    | with_reducible apply Moves.ite_fst
    | with_reducible (apply always_ans)
    | with_reducible (apply regWrite_moves)
    | with_reducible (apply writeAt_moves)
    | with_reducible (apply Moves.foldl)
    | with_reducible (apply Moves.foldl_fst)
    | with_reducible (apply Moves.of_eq; assumption)
    | with_reducible intro _
    | dsimp only
    | split

theorem execRegLowHalfRead_ans (fn : Nat) (off : Nat) (width : Nat) (s : State) {k0 : Nat} (hk0 : 132104 &&& k0 = 132104) :
    Answers k0 s (execRegLowHalfRead fn off s width) := by
  unfold execRegLowHalfRead
  repeat' first
    | with_reducible exact Moves.refl _ _
    | with_reducible assumption
    | with_reducible exact mask_le hk0 (by decide)
    | with_reducible apply Moves.ite
    | with_reducible apply Moves.ite_fst
    | with_reducible (apply always_ans)
    | with_reducible (apply completeRead_moves)
    | with_reducible (apply readWidth_moves)
    | with_reducible (apply readWidth_pmoves; assumption)
    | with_reducible (apply Moves.foldl)
    | with_reducible (apply Moves.foldl_fst)
    | with_reducible (apply Moves.of_eq; assumption)
    | with_reducible intro _
    | dsimp only
    | split

theorem execRegLowHalfWrite_ans (fn : Nat) (off : Nat) (v : Nat) (s : State) {k0 : Nat} (hk0 : 4195328 &&& k0 = 4195328) :
    Answers k0 s (execRegLowHalfWrite fn off v s) := by
  unfold execRegLowHalfWrite
  repeat' first
    | with_reducible exact Moves.refl _ _
    | with_reducible assumption
    | with_reducible exact mask_le hk0 (by decide)
    | with_reducible apply Moves.ite
    | with_reducible apply Moves.ite_fst
    | with_reducible (apply always_ans)
    | with_reducible (apply writeAt_moves)
    | with_reducible (apply writeLow_moves)
    | with_reducible (apply Moves.foldl)
    | with_reducible (apply Moves.foldl_fst)
    | with_reducible (apply Moves.of_eq; assumption)
    | with_reducible intro _
    | dsimp only
    | split

theorem execRegHighHalfWrite_ans (fn : Nat) (off : Nat) (v : Nat) (s : State) {k0 : Nat} (hk0 : 8388602 &&& k0 = 8388602) :
    Answers k0 s (execRegHighHalfWrite fn off v s) := by
  unfold execRegHighHalfWrite
  repeat' first
    | with_reducible exact Moves.refl _ _
    | with_reducible assumption
    | with_reducible exact mask_le hk0 (by decide)
    | with_reducible apply Moves.ite
    | with_reducible apply Moves.ite_fst
    | with_reducible (apply always_ans)
    | with_reducible (apply writeAt_moves)
    | with_reducible (apply writeHigh_moves)
    | with_reducible (apply Moves.foldl)
    | with_reducible (apply Moves.foldl_fst)
    | with_reducible (apply Moves.of_eq; assumption)
    | with_reducible intro _
    | dsimp only
    | split

theorem execPwrMeasureRead_ans (wide : Bool) (s : State) {k0 : Nat} (hk0 : 132104 &&& k0 = 132104) :
    Answers k0 s (execPwrMeasureRead wide s) := by
  unfold execPwrMeasureRead
  repeat' first
    | with_reducible exact Moves.refl _ _
    | with_reducible assumption
    | with_reducible exact mask_le hk0 (by decide)
    | with_reducible apply Moves.ite
    | with_reducible apply Moves.ite_fst
    | with_reducible (apply always_ans)
    | with_reducible (apply completeRead_moves)
    | with_reducible (apply readWidth_moves)
    | with_reducible (apply readWidth_pmoves; assumption)
    | with_reducible (apply Moves.foldl)
    | with_reducible (apply Moves.foldl_fst)
    | with_reducible (apply Moves.of_eq; assumption)
    | with_reducible intro _
    | dsimp only
    | split

end Sys2Proof.Machine
end

