-- ==== Sys2Proof/Laws/MovesRoundCmds.lean ====
section
/-! SUPPORT. What each operation of Machine/RoundCmds.lean may change. -/

set_option linter.unreachableTactic false
set_option linter.unusedTactic false
set_option linter.unusedVariables false

namespace Sys2Proof.Machine

theorem execRoundArm_ans (shoe : Nat) (seq : Nat) (level : Nat) (s : State) {k0 : Nat} (hk0 : 387016 &&& k0 = 387016) :
    Answers k0 s (execRoundArm shoe seq level s) := by
  unfold execRoundArm
  repeat' first
    | with_reducible exact Moves.refl _ _
    | with_reducible assumption
    | with_reducible exact mask_le hk0 (by decide)
    | with_reducible apply Moves.ite
    | with_reducible apply Moves.ite_fst
    | with_reducible (apply gate_moves)
    | with_reducible (apply onDies_ans)
    | with_reducible (apply roundArm_moves)
    | with_reducible (apply withCmd_moves)
    | with_reducible (apply Moves.foldl)
    | with_reducible (apply Moves.foldl_fst)
    | with_reducible (apply Moves.of_eq; assumption)
    | with_reducible intro _
    | dsimp only
    | split

theorem execRoundDisarm_ans (shoe : Nat) (seq : Nat) (level : Nat) (s : State) {k0 : Nat} (hk0 : 116680 &&& k0 = 116680) :
    Answers k0 s (execRoundDisarm shoe seq level s) := by
  unfold execRoundDisarm
  repeat' first
    | with_reducible exact Moves.refl _ _
    | with_reducible assumption
    | with_reducible exact mask_le hk0 (by decide)
    | with_reducible apply Moves.ite
    | with_reducible apply Moves.ite_fst
    | with_reducible (apply gate_moves)
    | with_reducible (apply onDies_ans)
    | with_reducible (apply roundDisarm_moves)
    | with_reducible (apply withCmd_moves)
    | with_reducible (apply Moves.foldl)
    | with_reducible (apply Moves.foldl_fst)
    | with_reducible (apply Moves.of_eq; assumption)
    | with_reducible intro _
    | dsimp only
    | split

theorem execRoundStepTrigger_ans (ctrl : Nat) (s : State) {k0 : Nat} (hk0 : 321480 &&& k0 = 321480) :
    Answers k0 s (execRoundStepTrigger ctrl s) := by
  unfold execRoundStepTrigger
  repeat' first
    | with_reducible exact Moves.refl _ _
    | with_reducible assumption
    | with_reducible exact mask_le hk0 (by decide)
    | with_reducible apply Moves.ite
    | with_reducible apply Moves.ite_fst
    | with_reducible (apply onDies_ans)
    | with_reducible (apply triggerStep_moves)
    | with_reducible (apply Moves.foldl)
    | with_reducible (apply Moves.foldl_fst)
    | with_reducible (apply Moves.of_eq; assumption)
    | with_reducible intro _
    | dsimp only
    | split

theorem execRoundHandSend_ans (ctrl : Nat) (s : State) {k0 : Nat} (hk0 : 321480 &&& k0 = 321480) :
    Answers k0 s (execRoundHandSend ctrl s) := by
  unfold execRoundHandSend
  repeat' first
    | with_reducible exact Moves.refl _ _
    | with_reducible assumption
    | with_reducible exact mask_le hk0 (by decide)
    | with_reducible apply Moves.ite
    | with_reducible apply Moves.ite_fst
    | with_reducible (apply onDies_ans)
    | with_reducible (apply sendHand_moves)
    | with_reducible (apply Moves.foldl)
    | with_reducible (apply Moves.foldl_fst)
    | with_reducible (apply Moves.of_eq; assumption)
    | with_reducible intro _
    | dsimp only
    | split

theorem execPassTimeout_ans (ctrl : Nat) (s : State) {k0 : Nat} (hk0 : 51080 &&& k0 = 51080) :
    Answers k0 s (execPassTimeout ctrl s) := by
  unfold execPassTimeout
  repeat' first
    | with_reducible exact Moves.refl _ _
    | with_reducible assumption
    | with_reducible exact mask_le hk0 (by decide)
    | with_reducible apply Moves.ite
    | with_reducible apply Moves.ite_fst
    | with_reducible (apply onDies_ans)
    | with_reducible (apply passTimeout_moves)
    | with_reducible (apply Moves.foldl)
    | with_reducible (apply Moves.foldl_fst)
    | with_reducible (apply Moves.of_eq; assumption)
    | with_reducible intro _
    | dsimp only
    | split

end Sys2Proof.Machine
end

