-- ==== Sys2Proof/Laws/MovesSecCmds.lean ====
section
/-! SUPPORT. What each operation of Machine/SecCmds.lean may change. -/

set_option linter.unreachableTactic false
set_option linter.unusedTactic false
set_option linter.unusedVariables false

namespace Sys2Proof.Machine

theorem execSecKeySlot_ans (block : HostResp) (verified : Bool) (s : State) {k0 : Nat} (hk0 : 853082 &&& k0 = 853082) :
    Answers k0 s (execSecKeySlot block verified s) := by
  unfold execSecKeySlot
  repeat' first
    | with_reducible exact Moves.refl _ _
    | with_reducible assumption
    | with_reducible exact mask_le hk0 (by decide)
    | with_reducible apply Moves.ite
    | with_reducible apply Moves.ite_fst
    | with_reducible (apply always_ans)
    | with_reducible (apply keySlotBlock_moves)
    | with_reducible (apply keySlotBlock_pmoves; assumption)
    | with_reducible (apply secBlock_moves)
    | with_reducible (apply viaReg_moves)
    | with_reducible (apply Moves.foldl)
    | with_reducible (apply Moves.foldl_fst)
    | with_reducible (apply Moves.of_eq; assumption)
    | with_reducible intro _
    | dsimp only
    | split

theorem execSecDebugGrant_ans (block : HostResp) (s : State) {k0 : Nat} (hk0 : 853066 &&& k0 = 853066) :
    Answers k0 s (execSecDebugGrant block s) := by
  unfold execSecDebugGrant
  repeat' first
    | with_reducible exact Moves.refl _ _
    | with_reducible assumption
    | with_reducible exact mask_le hk0 (by decide)
    | with_reducible apply Moves.ite
    | with_reducible apply Moves.ite_fst
    | with_reducible (apply always_ans)
    | with_reducible (apply grantBlock_moves)
    | with_reducible (apply grantBlock_pmoves; assumption)
    | with_reducible (apply secBlock_moves)
    | with_reducible (apply viaReg_moves)
    | with_reducible (apply Moves.foldl)
    | with_reducible (apply Moves.foldl_fst)
    | with_reducible (apply Moves.of_eq; assumption)
    | with_reducible intro _
    | dsimp only
    | split

theorem execSecDebugRevoke_ans (claim : Nat) (s : State) {k0 : Nat} (hk0 : 329416 &&& k0 = 329416) :
    Answers k0 s (execSecDebugRevoke claim s) := by
  unfold execSecDebugRevoke
  repeat' first
    | with_reducible exact Moves.refl _ _
    | with_reducible assumption
    | with_reducible exact mask_le hk0 (by decide)
    | with_reducible apply Moves.ite
    | with_reducible apply Moves.ite_fst
    | with_reducible (apply always_ans)
    | with_reducible (apply revokeGrant_moves)
    | with_reducible (apply revokeGrant_pmoves; assumption)
    | with_reducible (apply secPlain_moves)
    | with_reducible (apply viaReg_moves)
    | with_reducible (apply Moves.foldl)
    | with_reducible (apply Moves.foldl_fst)
    | with_reducible (apply Moves.of_eq; assumption)
    | with_reducible intro _
    | dsimp only
    | split

theorem execSecVendorOpen_ans (block : HostResp) (env : BootEnv) (s : State) {k0 : Nat} (hk0 : 8388602 &&& k0 = 8388602) :
    Answers k0 s (execSecVendorOpen block env s) := by
  unfold execSecVendorOpen
  repeat' first
    | with_reducible exact Moves.refl _ _
    | with_reducible assumption
    | with_reducible exact mask_le hk0 (by decide)
    | with_reducible apply Moves.ite
    | with_reducible apply Moves.ite_fst
    | with_reducible (apply always_ans)
    | with_reducible (apply secBlock_moves)
    | with_reducible (apply unlockBlock_moves)
    | with_reducible (apply unlockBlock_pmoves; assumption)
    | with_reducible (apply viaReg_moves)
    | with_reducible (apply Moves.foldl)
    | with_reducible (apply Moves.foldl_fst)
    | with_reducible (apply Moves.of_eq; assumption)
    | with_reducible intro _
    | dsimp only
    | split

theorem execDebugGrantExpiry_ans (claim : Nat) (s : State) {k0 : Nat} (hk0 : 329416 &&& k0 = 329416) :
    Answers k0 s (execDebugGrantExpiry claim s) := by
  unfold execDebugGrantExpiry
  repeat' first
    | with_reducible exact Moves.refl _ _
    | with_reducible assumption
    | with_reducible exact mask_le hk0 (by decide)
    | with_reducible apply Moves.ite
    | with_reducible apply Moves.ite_fst
    | with_reducible (apply grantExpiry_moves)
    | with_reducible (apply onDies_ans)
    | with_reducible (apply Moves.foldl)
    | with_reducible (apply Moves.foldl_fst)
    | with_reducible (apply Moves.of_eq; assumption)
    | with_reducible intro _
    | dsimp only
    | split

theorem execDbgHalt_ans (claim : Nat) (s : State) {k0 : Nat} (hk0 : 65664 &&& k0 = 65664) :
    Answers k0 s (execDbgHalt claim s) := by
  unfold execDbgHalt
  repeat' first
    | with_reducible exact Moves.refl _ _
    | with_reducible assumption
    | with_reducible exact mask_le hk0 (by decide)
    | with_reducible apply Moves.ite
    | with_reducible apply Moves.ite_fst
    | with_reducible (apply always_ans)
    | with_reducible (apply dbgHalt_moves)
    | with_reducible (apply viaClaim_moves)
    | with_reducible (apply Moves.foldl)
    | with_reducible (apply Moves.foldl_fst)
    | with_reducible (apply Moves.of_eq; assumption)
    | with_reducible intro _
    | dsimp only
    | split

theorem execDbgResume_ans (claim : Nat) (s : State) {k0 : Nat} (hk0 : 66176 &&& k0 = 66176) :
    Answers k0 s (execDbgResume claim s) := by
  unfold execDbgResume
  repeat' first
    | with_reducible exact Moves.refl _ _
    | with_reducible assumption
    | with_reducible exact mask_le hk0 (by decide)
    | with_reducible apply Moves.ite
    | with_reducible apply Moves.ite_fst
    | with_reducible (apply always_ans)
    | with_reducible (apply dbgResume_moves)
    | with_reducible (apply viaClaim_moves)
    | with_reducible (apply Moves.foldl)
    | with_reducible (apply Moves.foldl_fst)
    | with_reducible (apply Moves.of_eq; assumption)
    | with_reducible intro _
    | dsimp only
    | split

theorem execDbgStep_ans (claim : Nat) (s : State) {k0 : Nat} (hk0 : 65664 &&& k0 = 65664) :
    Answers k0 s (execDbgStep claim s) := by
  unfold execDbgStep
  repeat' first
    | with_reducible exact Moves.refl _ _
    | with_reducible assumption
    | with_reducible exact mask_le hk0 (by decide)
    | with_reducible apply Moves.ite
    | with_reducible apply Moves.ite_fst
    | with_reducible (apply always_ans)
    | with_reducible (apply dbgStep_moves)
    | with_reducible (apply viaClaim_moves)
    | with_reducible (apply Moves.foldl)
    | with_reducible (apply Moves.foldl_fst)
    | with_reducible (apply Moves.of_eq; assumption)
    | with_reducible intro _
    | dsimp only
    | split

theorem execDbgObserve_ans (claim : Nat) (v : Nat) (s : State) {k0 : Nat} (hk0 : 65664 &&& k0 = 65664) :
    Answers k0 s (execDbgObserve claim v s) := by
  unfold execDbgObserve
  repeat' first
    | with_reducible exact Moves.refl _ _
    | with_reducible assumption
    | with_reducible exact mask_le hk0 (by decide)
    | with_reducible apply Moves.ite
    | with_reducible apply Moves.ite_fst
    | with_reducible (apply always_ans)
    | with_reducible (apply dbgObserve_moves)
    | with_reducible (apply viaClaim_moves)
    | with_reducible (apply Moves.foldl)
    | with_reducible (apply Moves.foldl_fst)
    | with_reducible (apply Moves.of_eq; assumption)
    | with_reducible intro _
    | dsimp only
    | split

theorem execJtagIdcode_ans (s : State) {k0 : Nat} (hk0 : 65544 &&& k0 = 65544) :
    Answers k0 s (execJtagIdcode s) := by
  unfold execJtagIdcode
  repeat' first
    | with_reducible exact Moves.refl _ _
    | with_reducible assumption
    | with_reducible exact mask_le hk0 (by decide)
    | with_reducible apply Moves.ite
    | with_reducible apply Moves.ite_fst
    | with_reducible (apply always_ans)
    | with_reducible (apply jtagIdcode_moves)
    | with_reducible (apply Moves.foldl)
    | with_reducible (apply Moves.foldl_fst)
    | with_reducible (apply Moves.of_eq; assumption)
    | with_reducible intro _
    | dsimp only
    | split

theorem execJtagBypass_ans (s : State) {k0 : Nat} (hk0 : 65544 &&& k0 = 65544) :
    Answers k0 s (execJtagBypass s) := by
  unfold execJtagBypass
  repeat' first
    | with_reducible exact Moves.refl _ _
    | with_reducible assumption
    | with_reducible exact mask_le hk0 (by decide)
    | with_reducible apply Moves.ite
    | with_reducible apply Moves.ite_fst
    | with_reducible (apply always_ans)
    | with_reducible (apply jtagBypass_moves)
    | with_reducible (apply Moves.foldl)
    | with_reducible (apply Moves.foldl_fst)
    | with_reducible (apply Moves.of_eq; assumption)
    | with_reducible intro _
    | dsimp only
    | split

theorem execJtagSamplePreload_ans (v : Nat) (s : State) {k0 : Nat} (hk0 : 65544 &&& k0 = 65544) :
    Answers k0 s (execJtagSamplePreload v s) := by
  unfold execJtagSamplePreload
  repeat' first
    | with_reducible exact Moves.refl _ _
    | with_reducible assumption
    | with_reducible exact mask_le hk0 (by decide)
    | with_reducible apply Moves.ite
    | with_reducible apply Moves.ite_fst
    | with_reducible (apply always_ans)
    | with_reducible (apply jtagBoundary_moves)
    | with_reducible (apply Moves.foldl)
    | with_reducible (apply Moves.foldl_fst)
    | with_reducible (apply Moves.of_eq; assumption)
    | with_reducible intro _
    | dsimp only
    | split

theorem execJtagExtest_ans (v : Nat) (s : State) {k0 : Nat} (hk0 : 65544 &&& k0 = 65544) :
    Answers k0 s (execJtagExtest v s) := by
  unfold execJtagExtest
  repeat' first
    | with_reducible exact Moves.refl _ _
    | with_reducible assumption
    | with_reducible exact mask_le hk0 (by decide)
    | with_reducible apply Moves.ite
    | with_reducible apply Moves.ite_fst
    | with_reducible (apply always_ans)
    | with_reducible (apply jtagBoundary_moves)
    | with_reducible (apply Moves.foldl)
    | with_reducible (apply Moves.foldl_fst)
    | with_reducible (apply Moves.of_eq; assumption)
    | with_reducible intro _
    | dsimp only
    | split

theorem execJtagDebugAccess_ans (action : DapAction) (s : State) {k0 : Nat} (hk0 : 66184 &&& k0 = 66184) :
    Answers k0 s (execJtagDebugAccess action s) := by
  unfold execJtagDebugAccess
  repeat' first
    | with_reducible exact Moves.refl _ _
    | with_reducible assumption
    | with_reducible exact mask_le hk0 (by decide)
    | with_reducible apply Moves.ite
    | with_reducible apply Moves.ite_fst
    | with_reducible (apply always_ans)
    | with_reducible (apply jtagAccess_moves)
    | with_reducible (apply Moves.foldl)
    | with_reducible (apply Moves.foldl_fst)
    | with_reducible (apply Moves.of_eq; assumption)
    | with_reducible intro _
    | dsimp only
    | split

end Sys2Proof.Machine
end

