-- ==== Sys2Proof/Laws/MovesShoeCmds.lean ====
section
/-! SUPPORT. What each operation of Machine/ShoeCmds.lean may change. -/

set_option linter.unreachableTactic false
set_option linter.unusedTactic false
set_option linter.unusedVariables false

namespace Sys2Proof.Machine

theorem execShoeDoorbell_ans (shoe : Nat) (v : Nat) (s : State) {k0 : Nat} (hk0 : 409736 &&& k0 = 409736) :
    Answers k0 s (execShoeDoorbell shoe v s) := by
  unfold execShoeDoorbell
  repeat' first
    | with_reducible exact Moves.refl _ _
    | with_reducible assumption
    | with_reducible exact mask_le hk0 (by decide)
    | with_reducible apply Moves.ite
    | with_reducible apply Moves.ite_fst
    | with_reducible (apply always_ans)
    | with_reducible (apply ringBell_moves)
    | with_reducible (apply viaShoe_moves)
    | with_reducible (apply Moves.foldl)
    | with_reducible (apply Moves.foldl_fst)
    | with_reducible (apply Moves.of_eq; assumption)
    | with_reducible intro _
    | dsimp only
    | split

theorem execShoeFetchEntry_ans (shoe : Nat) (s : State) {k0 : Nat} (hk0 : 1224 &&& k0 = 1224) :
    Answers k0 s (execShoeFetchEntry shoe s) := by
  unfold execShoeFetchEntry
  repeat' first
    | with_reducible exact Moves.refl _ _
    | with_reducible assumption
    | with_reducible exact mask_le hk0 (by decide)
    | with_reducible apply Moves.ite
    | with_reducible apply Moves.ite_fst
    | with_reducible (apply fetchEntry_moves)
    | with_reducible (apply onDies_ans)
    | with_reducible (apply Moves.foldl)
    | with_reducible (apply Moves.foldl_fst)
    | with_reducible (apply Moves.of_eq; assumption)
    | with_reducible intro _
    | dsimp only
    | split

theorem execDeckReadComplete_ans (shoe : Nat) (entry : HostResp) (deck : HostResp) (s : State) {k0 : Nat} (hk0 : 524424 &&& k0 = 524424) :
    Answers k0 s (execDeckReadComplete shoe entry deck s) := by
  unfold execDeckReadComplete
  repeat' first
    | with_reducible exact Moves.refl _ _
    | with_reducible assumption
    | with_reducible exact mask_le hk0 (by decide)
    | with_reducible apply Moves.ite
    | with_reducible apply Moves.ite_fst
    | with_reducible (apply deckRead_moves)
    | with_reducible (apply onDies_ans)
    | with_reducible (apply Moves.foldl)
    | with_reducible (apply Moves.foldl_fst)
    | with_reducible (apply Moves.of_eq; assumption)
    | with_reducible intro _
    | dsimp only
    | split

theorem execItemStart_ans (shoe : Nat) (s : State) {k0 : Nat} (hk0 : 3665914 &&& k0 = 3665914) :
    Answers k0 s (execItemStart shoe s) := by
  unfold execItemStart
  repeat' first
    | with_reducible exact Moves.refl _ _
    | with_reducible assumption
    | with_reducible exact mask_le hk0 (by decide)
    | with_reducible apply Moves.ite
    | with_reducible apply Moves.ite_fst
    | with_reducible (apply onDies_ans)
    | with_reducible (apply startItem_moves)
    | with_reducible (apply Moves.foldl)
    | with_reducible (apply Moves.foldl_fst)
    | with_reducible (apply Moves.of_eq; assumption)
    | with_reducible intro _
    | dsimp only
    | split

theorem execShoeTimeout_ans (shoe : Nat) (seq : Nat) (activeUs : Nat) (others : List (Nat × Nat)) (finish : Bool) (s : State) {k0 : Nat} (hk0 : 3665914 &&& k0 = 3665914) :
    Answers k0 s (execShoeTimeout shoe seq activeUs others finish s) := by
  unfold execShoeTimeout
  repeat' first
    | with_reducible exact Moves.refl _ _
    | with_reducible assumption
    | with_reducible exact mask_le hk0 (by decide)
    | with_reducible apply Moves.ite
    | with_reducible apply Moves.ite_fst
    | with_reducible (apply onDies_ans)
    | with_reducible (apply timersExpire_moves)
    | with_reducible (apply Moves.foldl)
    | with_reducible (apply Moves.foldl_fst)
    | with_reducible (apply Moves.of_eq; assumption)
    | with_reducible intro _
    | dsimp only
    | split

theorem execRtLaneTimeout_ans (lane : Nat) (mid : Nat) (finish : Bool) (s : State) {k0 : Nat} (hk0 : 3665914 &&& k0 = 3665914) :
    Answers k0 s (execRtLaneTimeout lane mid finish s) := by
  unfold execRtLaneTimeout
  repeat' first
    | with_reducible exact Moves.refl _ _
    | with_reducible assumption
    | with_reducible exact mask_le hk0 (by decide)
    | with_reducible apply Moves.ite
    | with_reducible apply Moves.ite_fst
    | with_reducible (apply laneExpires_moves)
    | with_reducible (apply onDies_ans)
    | with_reducible (apply Moves.foldl)
    | with_reducible (apply Moves.foldl_fst)
    | with_reducible (apply Moves.of_eq; assumption)
    | with_reducible intro _
    | dsimp only
    | split

theorem execItemCommit_ans (shoe : Nat) (seq : Nat) (s : State) {k0 : Nat} (hk0 : 128 &&& k0 = 128) :
    Answers k0 s (execItemCommit shoe seq s) := by
  unfold execItemCommit
  repeat' first
    | with_reducible exact Moves.refl _ _
    | with_reducible assumption
    | with_reducible exact mask_le hk0 (by decide)
    | with_reducible apply Moves.ite
    | with_reducible apply Moves.ite_fst
    | with_reducible (apply commitItem_moves)
    | with_reducible (apply onDies_ans)
    | with_reducible (apply Moves.foldl)
    | with_reducible (apply Moves.foldl_fst)
    | with_reducible (apply Moves.of_eq; assumption)
    | with_reducible intro _
    | dsimp only
    | split

theorem execOutcomeWrite_ans (shoe : Nat) (bad : Option (HeadFault × Nat × Nat × Nat)) (s : State) {k0 : Nat} (hk0 : 323544 &&& k0 = 323544) :
    Answers k0 s (execOutcomeWrite shoe bad s) := by
  unfold execOutcomeWrite
  repeat' first
    | with_reducible exact Moves.refl _ _
    | with_reducible assumption
    | with_reducible exact mask_le hk0 (by decide)
    | with_reducible apply Moves.ite
    | with_reducible apply Moves.ite_fst
    | with_reducible (apply headFault_moves)
    | with_reducible (apply onDies_ans)
    | with_reducible (apply writeOutcomes_moves)
    | with_reducible (apply Moves.foldl)
    | with_reducible (apply Moves.foldl_fst)
    | with_reducible (apply Moves.of_eq; assumption)
    | with_reducible intro _
    | dsimp only
    | split

theorem execModerationTimeout_ans (shoe : Nat) (s : State) {k0 : Nat} (hk0 : 1160 &&& k0 = 1160) :
    Answers k0 s (execModerationTimeout shoe s) := by
  unfold execModerationTimeout
  repeat' first
    | with_reducible exact Moves.refl _ _
    | with_reducible assumption
    | with_reducible exact mask_le hk0 (by decide)
    | with_reducible apply Moves.ite
    | with_reducible apply Moves.ite_fst
    | with_reducible (apply moderationEnds_moves)
    | with_reducible (apply onDies_ans)
    | with_reducible (apply Moves.foldl)
    | with_reducible (apply Moves.foldl_fst)
    | with_reducible (apply Moves.of_eq; assumption)
    | with_reducible intro _
    | dsimp only
    | split

theorem execSheetConsumedWrite_ans (shoe : Nat) (v : Nat) (s : State) {k0 : Nat} (hk0 : 4195528 &&& k0 = 4195528) :
    Answers k0 s (execSheetConsumedWrite shoe v s) := by
  unfold execSheetConsumedWrite
  repeat' first
    | with_reducible exact Moves.refl _ _
    | with_reducible assumption
    | with_reducible exact mask_le hk0 (by decide)
    | with_reducible apply Moves.ite
    | with_reducible apply Moves.ite_fst
    | with_reducible (apply always_ans)
    | with_reducible (apply inP0_moves)
    | with_reducible (apply viaShoe_moves)
    | with_reducible (apply writeConsumed_moves)
    | with_reducible (apply Moves.foldl)
    | with_reducible (apply Moves.foldl_fst)
    | with_reducible (apply Moves.of_eq; assumption)
    | with_reducible intro _
    | dsimp only
    | split

theorem execShoeEnable_ans (shoe : Nat) (v : Nat) (feeds : List (Nat × HostResp × HostResp)) (s : State) {k0 : Nat} (hk0 : 6088648 &&& k0 = 6088648) :
    Answers k0 s (execShoeEnable shoe v feeds s) := by
  unfold execShoeEnable
  repeat' first
    | with_reducible exact Moves.refl _ _
    | with_reducible assumption
    | with_reducible exact mask_le hk0 (by decide)
    | with_reducible apply Moves.ite
    | with_reducible apply Moves.ite_fst
    | with_reducible (apply always_ans)
    | with_reducible (apply inP0_moves)
    | with_reducible (apply shoeEnable_moves)
    | with_reducible (apply viaShoe_moves)
    | with_reducible (apply Moves.foldl)
    | with_reducible (apply Moves.foldl_fst)
    | with_reducible (apply Moves.of_eq; assumption)
    | with_reducible intro _
    | dsimp only
    | split

theorem execShoeDisable_ans (shoe : Nat) (v : Nat) (s : State) {k0 : Nat} (hk0 : 4194432 &&& k0 = 4194432) :
    Answers k0 s (execShoeDisable shoe v s) := by
  unfold execShoeDisable
  repeat' first
    | with_reducible exact Moves.refl _ _
    | with_reducible assumption
    | with_reducible exact mask_le hk0 (by decide)
    | with_reducible apply Moves.ite
    | with_reducible apply Moves.ite_fst
    | with_reducible (apply always_ans)
    | with_reducible (apply disableShoe_moves)
    | with_reducible (apply inP0_moves)
    | with_reducible (apply viaShoe_moves)
    | with_reducible (apply Moves.foldl)
    | with_reducible (apply Moves.foldl_fst)
    | with_reducible (apply Moves.of_eq; assumption)
    | with_reducible intro _
    | dsimp only
    | split

theorem execSheetEnable_ans (shoe : Nat) (v : Nat) (s : State) {k0 : Nat} (hk0 : 4194432 &&& k0 = 4194432) :
    Answers k0 s (execSheetEnable shoe v s) := by
  unfold execSheetEnable
  repeat' first
    | with_reducible exact Moves.refl _ _
    | with_reducible assumption
    | with_reducible exact mask_le hk0 (by decide)
    | with_reducible apply Moves.ite
    | with_reducible apply Moves.ite_fst
    | with_reducible (apply always_ans)
    | with_reducible (apply inP0_moves)
    | with_reducible (apply viaShoe_moves)
    | with_reducible (apply writeSheetCtrl_moves)
    | with_reducible (apply Moves.foldl)
    | with_reducible (apply Moves.foldl_fst)
    | with_reducible (apply Moves.of_eq; assumption)
    | with_reducible intro _
    | dsimp only
    | split

theorem execShoeFetchWrite_ans (shoe : Nat) (v : Nat) (s : State) {k0 : Nat} (hk0 : 4194432 &&& k0 = 4194432) :
    Answers k0 s (execShoeFetchWrite shoe v s) := by
  unfold execShoeFetchWrite
  repeat' first
    | with_reducible exact Moves.refl _ _
    | with_reducible assumption
    | with_reducible exact mask_le hk0 (by decide)
    | with_reducible apply Moves.ite
    | with_reducible apply Moves.ite_fst
    | with_reducible (apply always_ans)
    | with_reducible (apply inP0_moves)
    | with_reducible (apply viaShoe_moves)
    | with_reducible (apply writeFetch_moves)
    | with_reducible (apply Moves.foldl)
    | with_reducible (apply Moves.foldl_fst)
    | with_reducible (apply Moves.of_eq; assumption)
    | with_reducible intro _
    | dsimp only
    | split

theorem execLdgLookup_ans (shoe : Nat) (s : State) {k0 : Nat} (hk0 : 4194432 &&& k0 = 4194432) :
    Answers k0 s (execLdgLookup shoe s) := by
  unfold execLdgLookup
  repeat' first
    | with_reducible exact Moves.refl _ _
    | with_reducible assumption
    | with_reducible exact mask_le hk0 (by decide)
    | with_reducible apply Moves.ite
    | with_reducible apply Moves.ite_fst
    | with_reducible (apply always_ans)
    | with_reducible (apply inP0_moves)
    | with_reducible (apply ledgerLookup_moves)
    | with_reducible (apply viaReg_moves)
    | with_reducible (apply Moves.foldl)
    | with_reducible (apply Moves.foldl_fst)
    | with_reducible (apply Moves.of_eq; assumption)
    | with_reducible intro _
    | dsimp only
    | split

end Sys2Proof.Machine
end

