-- ==== Sys2Proof/Laws/MovesSyncCmds.lean ====
section
/-! SUPPORT. What each operation of Machine/SyncCmds.lean may change. -/

set_option linter.unreachableTactic false
set_option linter.unusedTactic false
set_option linter.unusedVariables false

namespace Sys2Proof.Machine

theorem execTierLookup_ans (va : Nat) (table : Nat) (s : State) {k0 : Nat} (hk0 : 4195584 &&& k0 = 4195584) :
    Answers k0 s (execTierLookup va table s) := by
  unfold execTierLookup
  repeat' first
    | with_reducible exact Moves.refl _ _
    | with_reducible assumption
    | with_reducible exact mask_le hk0 (by decide)
    | with_reducible apply Moves.ite
    | with_reducible apply Moves.ite_fst
    | with_reducible (apply always_ans)
    | with_reducible (apply inP0_moves)
    | with_reducible (apply tierLookup_moves)
    | with_reducible (apply viaWide_moves)
    | with_reducible (apply Moves.foldl)
    | with_reducible (apply Moves.foldl_fst)
    | with_reducible (apply Moves.of_eq; assumption)
    | with_reducible intro _
    | dsimp only
    | split

theorem execTierCommonShareWrite_ans (claim : Nat) (v : Nat) (s : State) {k0 : Nat} (hk0 : 4194560 &&& k0 = 4194560) :
    Answers k0 s (execTierCommonShareWrite claim v s) := by
  unfold execTierCommonShareWrite
  repeat' first
    | with_reducible exact Moves.refl _ _
    | with_reducible assumption
    | with_reducible exact mask_le hk0 (by decide)
    | with_reducible apply Moves.ite
    | with_reducible apply Moves.ite_fst
    | with_reducible (apply always_ans)
    | with_reducible (apply inP0_moves)
    | with_reducible (apply viaReg_moves)
    | with_reducible (apply writeShare_moves)
    | with_reducible (apply Moves.foldl)
    | with_reducible (apply Moves.foldl_fst)
    | with_reducible (apply Moves.of_eq; assumption)
    | with_reducible intro _
    | dsimp only
    | split

theorem execTlyOpAdd_ans (claim : Nat) (tally : Nat) (v : Nat) (s : State) {k0 : Nat} (hk0 : 4245128 &&& k0 = 4245128) :
    Answers k0 s (execTlyOpAdd claim tally v s) := by
  unfold execTlyOpAdd
  repeat' first
    | with_reducible exact Moves.refl _ _
    | with_reducible assumption
    | with_reducible exact mask_le hk0 (by decide)
    | with_reducible apply Moves.ite
    | with_reducible apply Moves.ite_fst
    | with_reducible (apply always_ans)
    | with_reducible (apply inP0_moves)
    | with_reducible (apply tallyOp_moves)
    | with_reducible (apply viaClaimWide_moves)
    | with_reducible (apply Moves.foldl)
    | with_reducible (apply Moves.foldl_fst)
    | with_reducible (apply Moves.of_eq; assumption)
    | with_reducible intro _
    | dsimp only
    | split

theorem execTlyOpSet_ans (claim : Nat) (tally : Nat) (v : Nat) (s : State) {k0 : Nat} (hk0 : 4245128 &&& k0 = 4245128) :
    Answers k0 s (execTlyOpSet claim tally v s) := by
  unfold execTlyOpSet
  repeat' first
    | with_reducible exact Moves.refl _ _
    | with_reducible assumption
    | with_reducible exact mask_le hk0 (by decide)
    | with_reducible apply Moves.ite
    | with_reducible apply Moves.ite_fst
    | with_reducible (apply always_ans)
    | with_reducible (apply inP0_moves)
    | with_reducible (apply tallyOp_moves)
    | with_reducible (apply viaClaimWide_moves)
    | with_reducible (apply Moves.foldl)
    | with_reducible (apply Moves.foldl_fst)
    | with_reducible (apply Moves.of_eq; assumption)
    | with_reducible intro _
    | dsimp only
    | split

theorem execTlyOpPoison_ans (claim : Nat) (tally : Nat) (s : State) {k0 : Nat} (hk0 : 4245128 &&& k0 = 4245128) :
    Answers k0 s (execTlyOpPoison claim tally s) := by
  unfold execTlyOpPoison
  repeat' first
    | with_reducible exact Moves.refl _ _
    | with_reducible assumption
    | with_reducible exact mask_le hk0 (by decide)
    | with_reducible apply Moves.ite
    | with_reducible apply Moves.ite_fst
    | with_reducible (apply always_ans)
    | with_reducible (apply inP0_moves)
    | with_reducible (apply tallyOp_moves)
    | with_reducible (apply viaClaimWide_moves)
    | with_reducible (apply Moves.foldl)
    | with_reducible (apply Moves.foldl_fst)
    | with_reducible (apply Moves.of_eq; assumption)
    | with_reducible intro _
    | dsimp only
    | split

theorem execTlyHostWaitArm_ans (claim : Nat) (slot : Nat) (tally : Nat) (eq : Bool) (threshold : Nat) (s : State) {k0 : Nat} (hk0 : 4195848 &&& k0 = 4195848) :
    Answers k0 s (execTlyHostWaitArm claim slot tally eq threshold s) := by
  unfold execTlyHostWaitArm
  repeat' first
    | with_reducible exact Moves.refl _ _
    | with_reducible assumption
    | with_reducible exact mask_le hk0 (by decide)
    | with_reducible apply Moves.ite
    | with_reducible apply Moves.ite_fst
    | with_reducible (apply always_ans)
    | with_reducible (apply inP0_moves)
    | with_reducible (apply viaClaimWide_moves)
    | with_reducible (apply waitWrite_moves)
    | with_reducible (apply Moves.foldl)
    | with_reducible (apply Moves.foldl_fst)
    | with_reducible (apply Moves.of_eq; assumption)
    | with_reducible intro _
    | dsimp only
    | split

theorem execTlyDevOpAdd_ans (tally : Nat) (v : Nat) (s : State) {k0 : Nat} (hk0 : 4245128 &&& k0 = 4245128) :
    Answers k0 s (execTlyDevOpAdd tally v s) := by
  unfold execTlyDevOpAdd
  repeat' first
    | with_reducible exact Moves.refl _ _
    | with_reducible assumption
    | with_reducible exact mask_le hk0 (by decide)
    | with_reducible apply Moves.ite
    | with_reducible apply Moves.ite_fst
    | with_reducible (apply always_ans)
    | with_reducible (apply deviceOp_moves)
    | with_reducible (apply inP0_moves)
    | with_reducible (apply viaWide_moves)
    | with_reducible (apply Moves.foldl)
    | with_reducible (apply Moves.foldl_fst)
    | with_reducible (apply Moves.of_eq; assumption)
    | with_reducible intro _
    | dsimp only
    | split

theorem execTlyDevOpSet_ans (tally : Nat) (v : Nat) (s : State) {k0 : Nat} (hk0 : 4245128 &&& k0 = 4245128) :
    Answers k0 s (execTlyDevOpSet tally v s) := by
  unfold execTlyDevOpSet
  repeat' first
    | with_reducible exact Moves.refl _ _
    | with_reducible assumption
    | with_reducible exact mask_le hk0 (by decide)
    | with_reducible apply Moves.ite
    | with_reducible apply Moves.ite_fst
    | with_reducible (apply always_ans)
    | with_reducible (apply deviceOp_moves)
    | with_reducible (apply inP0_moves)
    | with_reducible (apply viaWide_moves)
    | with_reducible (apply Moves.foldl)
    | with_reducible (apply Moves.foldl_fst)
    | with_reducible (apply Moves.of_eq; assumption)
    | with_reducible intro _
    | dsimp only
    | split

theorem execTlyDevOpArm_ans (tally : Nat) (v : Nat) (s : State) {k0 : Nat} (hk0 : 4245128 &&& k0 = 4245128) :
    Answers k0 s (execTlyDevOpArm tally v s) := by
  unfold execTlyDevOpArm
  repeat' first
    | with_reducible exact Moves.refl _ _
    | with_reducible assumption
    | with_reducible exact mask_le hk0 (by decide)
    | with_reducible apply Moves.ite
    | with_reducible apply Moves.ite_fst
    | with_reducible (apply always_ans)
    | with_reducible (apply deviceOp_moves)
    | with_reducible (apply inP0_moves)
    | with_reducible (apply viaWide_moves)
    | with_reducible (apply Moves.foldl)
    | with_reducible (apply Moves.foldl_fst)
    | with_reducible (apply Moves.of_eq; assumption)
    | with_reducible intro _
    | dsimp only
    | split

theorem execTlyDevOpPoison_ans (tally : Nat) (s : State) {k0 : Nat} (hk0 : 4245128 &&& k0 = 4245128) :
    Answers k0 s (execTlyDevOpPoison tally s) := by
  unfold execTlyDevOpPoison
  repeat' first
    | with_reducible exact Moves.refl _ _
    | with_reducible assumption
    | with_reducible exact mask_le hk0 (by decide)
    | with_reducible apply Moves.ite
    | with_reducible apply Moves.ite_fst
    | with_reducible (apply always_ans)
    | with_reducible (apply deviceOp_moves)
    | with_reducible (apply inP0_moves)
    | with_reducible (apply viaWide_moves)
    | with_reducible (apply Moves.foldl)
    | with_reducible (apply Moves.foldl_fst)
    | with_reducible (apply Moves.of_eq; assumption)
    | with_reducible intro _
    | dsimp only
    | split

theorem execTrickArriveReceived_ans (round : Nat) (index : Nat) (generation : Nat) (origin : Seat) (tag : Nat) (s : State) {k0 : Nat} (hk0 : 50824 &&& k0 = 50824) :
    Answers k0 s (execTrickArriveReceived round index generation origin tag s) := by
  unfold execTrickArriveReceived
  repeat' first
    | with_reducible exact Moves.refl _ _
    | with_reducible assumption
    | with_reducible exact mask_le hk0 (by decide)
    | with_reducible apply Moves.ite
    | with_reducible apply Moves.ite_fst
    | with_reducible (apply arriveReceived_moves)
    | with_reducible (apply onDies_ans)
    | with_reducible (apply Moves.foldl)
    | with_reducible (apply Moves.foldl_fst)
    | with_reducible (apply Moves.of_eq; assumption)
    | with_reducible intro _
    | dsimp only
    | split

theorem execTrickReleaseReceived_ans (round : Nat) (index : Nat) (generation : Nat) (tag : Nat) (s : State) {k0 : Nat} (hk0 : 50824 &&& k0 = 50824) :
    Answers k0 s (execTrickReleaseReceived round index generation tag s) := by
  unfold execTrickReleaseReceived
  repeat' first
    | with_reducible exact Moves.refl _ _
    | with_reducible assumption
    | with_reducible exact mask_le hk0 (by decide)
    | with_reducible apply Moves.ite
    | with_reducible apply Moves.ite_fst
    | with_reducible (apply onDies_ans)
    | with_reducible (apply releaseReceived_moves)
    | with_reducible (apply Moves.foldl)
    | with_reducible (apply Moves.foldl_fst)
    | with_reducible (apply Moves.of_eq; assumption)
    | with_reducible intro _
    | dsimp only
    | split

theorem execTrickPoisonReceived_ans (round : Nat) (index : Nat) (origin : Seat) (tag : Nat) (s : State) {k0 : Nat} (hk0 : 51080 &&& k0 = 51080) :
    Answers k0 s (execTrickPoisonReceived round index origin tag s) := by
  unfold execTrickPoisonReceived
  repeat' first
    | with_reducible exact Moves.refl _ _
    | with_reducible assumption
    | with_reducible exact mask_le hk0 (by decide)
    | with_reducible apply Moves.ite
    | with_reducible apply Moves.ite_fst
    | with_reducible (apply onDies_ans)
    | with_reducible (apply poisonReceived_moves)
    | with_reducible (apply Moves.foldl)
    | with_reducible (apply Moves.foldl_fst)
    | with_reducible (apply Moves.of_eq; assumption)
    | with_reducible intro _
    | dsimp only
    | split

end Sys2Proof.Machine
end

