-- ==== Sys2Proof/Laws/State.lean ====
section
/-! SUPPORT. What each field of the state is after each plain update of it, and what an entry of a table is after an entry
was changed. -/

namespace Sys2Proof

theorem tget_tset_same {α : Type} [Inhabited α] {n : Nat} (v : Vector α n) {i : Nat} (x : α) (h : i < n) : tget (tset v i x) i = x := by
  simp [tget, tset, h]

theorem tget_tset_ne {α : Type} [Inhabited α] {n : Nat} (v : Vector α n) {i j : Nat} (x : α) (h : i ≠ j) :
    tget (tset v i x) j = tget v j := by
  simp [tget, tset, Vector.getElem?_setIfInBounds_ne h]

theorem tget_tmod_same {α : Type} [Inhabited α] {n : Nat} (v : Vector α n) {i : Nat} (f : α → α) (h : i < n) :
    tget (tmod v i f) i = f (tget v i) := tget_tset_same v _ h

theorem tget_tmod_ne {α : Type} [Inhabited α] {n : Nat} (v : Vector α n) {i j : Nat} (f : α → α) (h : i ≠ j) :
    tget (tmod v i f) j = tget v j := tget_tset_ne v _ h

theorem alookup_ainsert_same {β : Type} (l : List (Nat × β)) (k : Nat) (x : β) : alookup (ainsert l k x) k = some x := by
  simp [alookup, ainsert]

theorem alookup_ainsert_ne {β : Type} (l : List (Nat × β)) {j k : Nat} (x : β) (h : j ≠ k) : alookup (ainsert l k x) j = alookup l j := by
  rw [alookup, ainsert, List.find?_cons_of_neg (by simpa using Ne.symm h), List.find?_filter, alookup]
  congr 2
  funext p
  by_cases hp : p.1 = j
  · simp [hp, h]
  · simp [hp]

theorem alookup_aerase_same {β : Type} (l : List (Nat × β)) (k : Nat) : alookup (aerase l k) k = none := by
  simp [alookup, aerase]

theorem alookup_aerase_ne {β : Type} (l : List (Nat × β)) {j k : Nat} (h : j ≠ k) : alookup (aerase l k) j = alookup l j := by
  rw [alookup, aerase, List.find?_filter, alookup]
  congr 2
  funext p
  by_cases hp : p.1 = j
  · simp [hp, h]
  · simp [hp]

namespace Machine

@[simp] theorem State.emit_pending (s : State) (o : Output) : (s.emit o).pending = s.pending := rfl
@[simp] theorem State.emit_held (s : State) (o : Output) : (s.emit o).held = s.held := rfl
@[simp] theorem State.emit_freeCtr (s : State) (o : Output) : (s.emit o).freeCtr = s.freeCtr := rfl
@[simp] theorem State.emit_now (s : State) (o : Output) : (s.emit o).now = s.now := rfl
@[simp] theorem State.emit_out (s : State) (o : Output) : (s.emit o).out = s.out ++ [o] := rfl
@[simp] theorem State.emit_boot (s : State) (o : Output) : (s.emit o).boot = s.boot := rfl
@[simp] theorem State.emit_beat (s : State) (o : Output) : (s.emit o).beat = s.beat := rfl
@[simp] theorem State.emit_cl (s : State) (o : Output) : (s.emit o).cl = s.cl := rfl
@[simp] theorem State.emit_dl (s : State) (o : Output) : (s.emit o).dl = s.dl := rfl
@[simp] theorem State.emit_tiers (s : State) (o : Output) : (s.emit o).tiers = s.tiers := rfl
@[simp] theorem State.emit_sync (s : State) (o : Output) : (s.emit o).sync = s.sync := rfl
@[simp] theorem State.emit_fns (s : State) (o : Output) : (s.emit o).fns = s.fns := rfl
@[simp] theorem State.emit_redeal (s : State) (o : Output) : (s.emit o).redeal = s.redeal := rfl
@[simp] theorem State.emit_fences (s : State) (o : Output) : (s.emit o).fences = s.fences := rfl
@[simp] theorem State.emit_ecc (s : State) (o : Output) : (s.emit o).ecc = s.ecc := rfl
@[simp] theorem State.emit_link (s : State) (o : Output) : (s.emit o).link = s.link := rfl
@[simp] theorem State.emit_rounds (s : State) (o : Output) : (s.emit o).rounds = s.rounds := rfl
@[simp] theorem State.emit_dbg (s : State) (o : Output) : (s.emit o).dbg = s.dbg := rfl
@[simp] theorem State.emit_power (s : State) (o : Output) : (s.emit o).power = s.power := rfl
@[simp] theorem State.emit_mgmt (s : State) (o : Output) : (s.emit o).mgmt = s.mgmt := rfl
@[simp] theorem State.emit_pcie (s : State) (o : Output) : (s.emit o).pcie = s.pcie := rfl
@[simp] theorem State.emit_net (s : State) (o : Output) : (s.emit o).net = s.net := rfl
@[simp] theorem State.emit_asy (s : State) (o : Output) : (s.emit o).asy = s.asy := rfl

@[simp] theorem State.draw_pending (s : State) : (s.draw).pending = s.pending := rfl
@[simp] theorem State.draw_held (s : State) : (s.draw).held = s.held := rfl
@[simp] theorem State.draw_freeCtr (s : State) : (s.draw).freeCtr = s.freeCtr + 1 := rfl
@[simp] theorem State.draw_now (s : State) : (s.draw).now = s.now := rfl
@[simp] theorem State.draw_out (s : State) : (s.draw).out = s.out := rfl
@[simp] theorem State.draw_boot (s : State) : (s.draw).boot = s.boot := rfl
@[simp] theorem State.draw_beat (s : State) : (s.draw).beat = s.beat := rfl
@[simp] theorem State.draw_cl (s : State) : (s.draw).cl = s.cl := rfl
@[simp] theorem State.draw_dl (s : State) : (s.draw).dl = s.dl := rfl
@[simp] theorem State.draw_tiers (s : State) : (s.draw).tiers = s.tiers := rfl
@[simp] theorem State.draw_sync (s : State) : (s.draw).sync = s.sync := rfl
@[simp] theorem State.draw_fns (s : State) : (s.draw).fns = s.fns := rfl
@[simp] theorem State.draw_redeal (s : State) : (s.draw).redeal = s.redeal := rfl
@[simp] theorem State.draw_fences (s : State) : (s.draw).fences = s.fences := rfl
@[simp] theorem State.draw_ecc (s : State) : (s.draw).ecc = s.ecc := rfl
@[simp] theorem State.draw_link (s : State) : (s.draw).link = s.link := rfl
@[simp] theorem State.draw_rounds (s : State) : (s.draw).rounds = s.rounds := rfl
@[simp] theorem State.draw_dbg (s : State) : (s.draw).dbg = s.dbg := rfl
@[simp] theorem State.draw_power (s : State) : (s.draw).power = s.power := rfl
@[simp] theorem State.draw_mgmt (s : State) : (s.draw).mgmt = s.mgmt := rfl
@[simp] theorem State.draw_pcie (s : State) : (s.draw).pcie = s.pcie := rfl
@[simp] theorem State.draw_net (s : State) : (s.draw).net = s.net := rfl
@[simp] theorem State.draw_asy (s : State) : (s.draw).asy = s.asy := rfl

@[simp] theorem State.modFn_pending (s : State) (fn : Nat) (f : Fn → Fn) : (s.modFn fn f).pending = s.pending := rfl
@[simp] theorem State.modFn_held (s : State) (fn : Nat) (f : Fn → Fn) : (s.modFn fn f).held = s.held := rfl
@[simp] theorem State.modFn_freeCtr (s : State) (fn : Nat) (f : Fn → Fn) : (s.modFn fn f).freeCtr = s.freeCtr := rfl
@[simp] theorem State.modFn_now (s : State) (fn : Nat) (f : Fn → Fn) : (s.modFn fn f).now = s.now := rfl
@[simp] theorem State.modFn_out (s : State) (fn : Nat) (f : Fn → Fn) : (s.modFn fn f).out = s.out := rfl
@[simp] theorem State.modFn_boot (s : State) (fn : Nat) (f : Fn → Fn) : (s.modFn fn f).boot = s.boot := rfl
@[simp] theorem State.modFn_beat (s : State) (fn : Nat) (f : Fn → Fn) : (s.modFn fn f).beat = s.beat := rfl
@[simp] theorem State.modFn_cl (s : State) (fn : Nat) (f : Fn → Fn) : (s.modFn fn f).cl = s.cl := rfl
@[simp] theorem State.modFn_dl (s : State) (fn : Nat) (f : Fn → Fn) : (s.modFn fn f).dl = s.dl := rfl
@[simp] theorem State.modFn_tiers (s : State) (fn : Nat) (f : Fn → Fn) : (s.modFn fn f).tiers = s.tiers := rfl
@[simp] theorem State.modFn_sync (s : State) (fn : Nat) (f : Fn → Fn) : (s.modFn fn f).sync = s.sync := rfl
@[simp] theorem State.modFn_fns (s : State) (fn : Nat) (f : Fn → Fn) : (s.modFn fn f).fns = tmod s.fns fn f := rfl
@[simp] theorem State.modFn_redeal (s : State) (fn : Nat) (f : Fn → Fn) : (s.modFn fn f).redeal = s.redeal := rfl
@[simp] theorem State.modFn_fences (s : State) (fn : Nat) (f : Fn → Fn) : (s.modFn fn f).fences = s.fences := rfl
@[simp] theorem State.modFn_ecc (s : State) (fn : Nat) (f : Fn → Fn) : (s.modFn fn f).ecc = s.ecc := rfl
@[simp] theorem State.modFn_link (s : State) (fn : Nat) (f : Fn → Fn) : (s.modFn fn f).link = s.link := rfl
@[simp] theorem State.modFn_rounds (s : State) (fn : Nat) (f : Fn → Fn) : (s.modFn fn f).rounds = s.rounds := rfl
@[simp] theorem State.modFn_dbg (s : State) (fn : Nat) (f : Fn → Fn) : (s.modFn fn f).dbg = s.dbg := rfl
@[simp] theorem State.modFn_power (s : State) (fn : Nat) (f : Fn → Fn) : (s.modFn fn f).power = s.power := rfl
@[simp] theorem State.modFn_mgmt (s : State) (fn : Nat) (f : Fn → Fn) : (s.modFn fn f).mgmt = s.mgmt := rfl
@[simp] theorem State.modFn_pcie (s : State) (fn : Nat) (f : Fn → Fn) : (s.modFn fn f).pcie = s.pcie := rfl
@[simp] theorem State.modFn_net (s : State) (fn : Nat) (f : Fn → Fn) : (s.modFn fn f).net = s.net := rfl
@[simp] theorem State.modFn_asy (s : State) (fn : Nat) (f : Fn → Fn) : (s.modFn fn f).asy = s.asy := rfl

@[simp] theorem State.modCl_pending (s : State) (f : Claims → Claims) : (s.modCl f).pending = s.pending := rfl
@[simp] theorem State.modCl_held (s : State) (f : Claims → Claims) : (s.modCl f).held = s.held := rfl
@[simp] theorem State.modCl_freeCtr (s : State) (f : Claims → Claims) : (s.modCl f).freeCtr = s.freeCtr := rfl
@[simp] theorem State.modCl_now (s : State) (f : Claims → Claims) : (s.modCl f).now = s.now := rfl
@[simp] theorem State.modCl_out (s : State) (f : Claims → Claims) : (s.modCl f).out = s.out := rfl
@[simp] theorem State.modCl_boot (s : State) (f : Claims → Claims) : (s.modCl f).boot = s.boot := rfl
@[simp] theorem State.modCl_beat (s : State) (f : Claims → Claims) : (s.modCl f).beat = s.beat := rfl
@[simp] theorem State.modCl_cl (s : State) (f : Claims → Claims) : (s.modCl f).cl = f s.cl := rfl
@[simp] theorem State.modCl_dl (s : State) (f : Claims → Claims) : (s.modCl f).dl = s.dl := rfl
@[simp] theorem State.modCl_tiers (s : State) (f : Claims → Claims) : (s.modCl f).tiers = s.tiers := rfl
@[simp] theorem State.modCl_sync (s : State) (f : Claims → Claims) : (s.modCl f).sync = s.sync := rfl
@[simp] theorem State.modCl_fns (s : State) (f : Claims → Claims) : (s.modCl f).fns = s.fns := rfl
@[simp] theorem State.modCl_redeal (s : State) (f : Claims → Claims) : (s.modCl f).redeal = s.redeal := rfl
@[simp] theorem State.modCl_fences (s : State) (f : Claims → Claims) : (s.modCl f).fences = s.fences := rfl
@[simp] theorem State.modCl_ecc (s : State) (f : Claims → Claims) : (s.modCl f).ecc = s.ecc := rfl
@[simp] theorem State.modCl_link (s : State) (f : Claims → Claims) : (s.modCl f).link = s.link := rfl
@[simp] theorem State.modCl_rounds (s : State) (f : Claims → Claims) : (s.modCl f).rounds = s.rounds := rfl
@[simp] theorem State.modCl_dbg (s : State) (f : Claims → Claims) : (s.modCl f).dbg = s.dbg := rfl
@[simp] theorem State.modCl_power (s : State) (f : Claims → Claims) : (s.modCl f).power = s.power := rfl
@[simp] theorem State.modCl_mgmt (s : State) (f : Claims → Claims) : (s.modCl f).mgmt = s.mgmt := rfl
@[simp] theorem State.modCl_pcie (s : State) (f : Claims → Claims) : (s.modCl f).pcie = s.pcie := rfl
@[simp] theorem State.modCl_net (s : State) (f : Claims → Claims) : (s.modCl f).net = s.net := rfl
@[simp] theorem State.modCl_asy (s : State) (f : Claims → Claims) : (s.modCl f).asy = s.asy := rfl

@[simp] theorem State.modDl_pending (s : State) (f : Dealer → Dealer) : (s.modDl f).pending = s.pending := rfl
@[simp] theorem State.modDl_held (s : State) (f : Dealer → Dealer) : (s.modDl f).held = s.held := rfl
@[simp] theorem State.modDl_freeCtr (s : State) (f : Dealer → Dealer) : (s.modDl f).freeCtr = s.freeCtr := rfl
@[simp] theorem State.modDl_now (s : State) (f : Dealer → Dealer) : (s.modDl f).now = s.now := rfl
@[simp] theorem State.modDl_out (s : State) (f : Dealer → Dealer) : (s.modDl f).out = s.out := rfl
@[simp] theorem State.modDl_boot (s : State) (f : Dealer → Dealer) : (s.modDl f).boot = s.boot := rfl
@[simp] theorem State.modDl_beat (s : State) (f : Dealer → Dealer) : (s.modDl f).beat = s.beat := rfl
@[simp] theorem State.modDl_cl (s : State) (f : Dealer → Dealer) : (s.modDl f).cl = s.cl := rfl
@[simp] theorem State.modDl_dl (s : State) (f : Dealer → Dealer) : (s.modDl f).dl = f s.dl := rfl
@[simp] theorem State.modDl_tiers (s : State) (f : Dealer → Dealer) : (s.modDl f).tiers = s.tiers := rfl
@[simp] theorem State.modDl_sync (s : State) (f : Dealer → Dealer) : (s.modDl f).sync = s.sync := rfl
@[simp] theorem State.modDl_fns (s : State) (f : Dealer → Dealer) : (s.modDl f).fns = s.fns := rfl
@[simp] theorem State.modDl_redeal (s : State) (f : Dealer → Dealer) : (s.modDl f).redeal = s.redeal := rfl
@[simp] theorem State.modDl_fences (s : State) (f : Dealer → Dealer) : (s.modDl f).fences = s.fences := rfl
@[simp] theorem State.modDl_ecc (s : State) (f : Dealer → Dealer) : (s.modDl f).ecc = s.ecc := rfl
@[simp] theorem State.modDl_link (s : State) (f : Dealer → Dealer) : (s.modDl f).link = s.link := rfl
@[simp] theorem State.modDl_rounds (s : State) (f : Dealer → Dealer) : (s.modDl f).rounds = s.rounds := rfl
@[simp] theorem State.modDl_dbg (s : State) (f : Dealer → Dealer) : (s.modDl f).dbg = s.dbg := rfl
@[simp] theorem State.modDl_power (s : State) (f : Dealer → Dealer) : (s.modDl f).power = s.power := rfl
@[simp] theorem State.modDl_mgmt (s : State) (f : Dealer → Dealer) : (s.modDl f).mgmt = s.mgmt := rfl
@[simp] theorem State.modDl_pcie (s : State) (f : Dealer → Dealer) : (s.modDl f).pcie = s.pcie := rfl
@[simp] theorem State.modDl_net (s : State) (f : Dealer → Dealer) : (s.modDl f).net = s.net := rfl
@[simp] theorem State.modDl_asy (s : State) (f : Dealer → Dealer) : (s.modDl f).asy = s.asy := rfl

@[simp] theorem State.modTiers_pending (s : State) (f : Tiers → Tiers) : (s.modTiers f).pending = s.pending := rfl
@[simp] theorem State.modTiers_held (s : State) (f : Tiers → Tiers) : (s.modTiers f).held = s.held := rfl
@[simp] theorem State.modTiers_freeCtr (s : State) (f : Tiers → Tiers) : (s.modTiers f).freeCtr = s.freeCtr := rfl
@[simp] theorem State.modTiers_now (s : State) (f : Tiers → Tiers) : (s.modTiers f).now = s.now := rfl
@[simp] theorem State.modTiers_out (s : State) (f : Tiers → Tiers) : (s.modTiers f).out = s.out := rfl
@[simp] theorem State.modTiers_boot (s : State) (f : Tiers → Tiers) : (s.modTiers f).boot = s.boot := rfl
@[simp] theorem State.modTiers_beat (s : State) (f : Tiers → Tiers) : (s.modTiers f).beat = s.beat := rfl
@[simp] theorem State.modTiers_cl (s : State) (f : Tiers → Tiers) : (s.modTiers f).cl = s.cl := rfl
@[simp] theorem State.modTiers_dl (s : State) (f : Tiers → Tiers) : (s.modTiers f).dl = s.dl := rfl
@[simp] theorem State.modTiers_tiers (s : State) (f : Tiers → Tiers) : (s.modTiers f).tiers = f s.tiers := rfl
@[simp] theorem State.modTiers_sync (s : State) (f : Tiers → Tiers) : (s.modTiers f).sync = s.sync := rfl
@[simp] theorem State.modTiers_fns (s : State) (f : Tiers → Tiers) : (s.modTiers f).fns = s.fns := rfl
@[simp] theorem State.modTiers_redeal (s : State) (f : Tiers → Tiers) : (s.modTiers f).redeal = s.redeal := rfl
@[simp] theorem State.modTiers_fences (s : State) (f : Tiers → Tiers) : (s.modTiers f).fences = s.fences := rfl
@[simp] theorem State.modTiers_ecc (s : State) (f : Tiers → Tiers) : (s.modTiers f).ecc = s.ecc := rfl
@[simp] theorem State.modTiers_link (s : State) (f : Tiers → Tiers) : (s.modTiers f).link = s.link := rfl
@[simp] theorem State.modTiers_rounds (s : State) (f : Tiers → Tiers) : (s.modTiers f).rounds = s.rounds := rfl
@[simp] theorem State.modTiers_dbg (s : State) (f : Tiers → Tiers) : (s.modTiers f).dbg = s.dbg := rfl
@[simp] theorem State.modTiers_power (s : State) (f : Tiers → Tiers) : (s.modTiers f).power = s.power := rfl
@[simp] theorem State.modTiers_mgmt (s : State) (f : Tiers → Tiers) : (s.modTiers f).mgmt = s.mgmt := rfl
@[simp] theorem State.modTiers_pcie (s : State) (f : Tiers → Tiers) : (s.modTiers f).pcie = s.pcie := rfl
@[simp] theorem State.modTiers_net (s : State) (f : Tiers → Tiers) : (s.modTiers f).net = s.net := rfl
@[simp] theorem State.modTiers_asy (s : State) (f : Tiers → Tiers) : (s.modTiers f).asy = s.asy := rfl

@[simp] theorem State.modSync_pending (s : State) (f : Sync → Sync) : (s.modSync f).pending = s.pending := rfl
@[simp] theorem State.modSync_held (s : State) (f : Sync → Sync) : (s.modSync f).held = s.held := rfl
@[simp] theorem State.modSync_freeCtr (s : State) (f : Sync → Sync) : (s.modSync f).freeCtr = s.freeCtr := rfl
@[simp] theorem State.modSync_now (s : State) (f : Sync → Sync) : (s.modSync f).now = s.now := rfl
@[simp] theorem State.modSync_out (s : State) (f : Sync → Sync) : (s.modSync f).out = s.out := rfl
@[simp] theorem State.modSync_boot (s : State) (f : Sync → Sync) : (s.modSync f).boot = s.boot := rfl
@[simp] theorem State.modSync_beat (s : State) (f : Sync → Sync) : (s.modSync f).beat = s.beat := rfl
@[simp] theorem State.modSync_cl (s : State) (f : Sync → Sync) : (s.modSync f).cl = s.cl := rfl
@[simp] theorem State.modSync_dl (s : State) (f : Sync → Sync) : (s.modSync f).dl = s.dl := rfl
@[simp] theorem State.modSync_tiers (s : State) (f : Sync → Sync) : (s.modSync f).tiers = s.tiers := rfl
@[simp] theorem State.modSync_sync (s : State) (f : Sync → Sync) : (s.modSync f).sync = f s.sync := rfl
@[simp] theorem State.modSync_fns (s : State) (f : Sync → Sync) : (s.modSync f).fns = s.fns := rfl
@[simp] theorem State.modSync_redeal (s : State) (f : Sync → Sync) : (s.modSync f).redeal = s.redeal := rfl
@[simp] theorem State.modSync_fences (s : State) (f : Sync → Sync) : (s.modSync f).fences = s.fences := rfl
@[simp] theorem State.modSync_ecc (s : State) (f : Sync → Sync) : (s.modSync f).ecc = s.ecc := rfl
@[simp] theorem State.modSync_link (s : State) (f : Sync → Sync) : (s.modSync f).link = s.link := rfl
@[simp] theorem State.modSync_rounds (s : State) (f : Sync → Sync) : (s.modSync f).rounds = s.rounds := rfl
@[simp] theorem State.modSync_dbg (s : State) (f : Sync → Sync) : (s.modSync f).dbg = s.dbg := rfl
@[simp] theorem State.modSync_power (s : State) (f : Sync → Sync) : (s.modSync f).power = s.power := rfl
@[simp] theorem State.modSync_mgmt (s : State) (f : Sync → Sync) : (s.modSync f).mgmt = s.mgmt := rfl
@[simp] theorem State.modSync_pcie (s : State) (f : Sync → Sync) : (s.modSync f).pcie = s.pcie := rfl
@[simp] theorem State.modSync_net (s : State) (f : Sync → Sync) : (s.modSync f).net = s.net := rfl
@[simp] theorem State.modSync_asy (s : State) (f : Sync → Sync) : (s.modSync f).asy = s.asy := rfl

@[simp] theorem State.modMgmt_pending (s : State) (f : Mgmt → Mgmt) : (s.modMgmt f).pending = s.pending := rfl
@[simp] theorem State.modMgmt_held (s : State) (f : Mgmt → Mgmt) : (s.modMgmt f).held = s.held := rfl
@[simp] theorem State.modMgmt_freeCtr (s : State) (f : Mgmt → Mgmt) : (s.modMgmt f).freeCtr = s.freeCtr := rfl
@[simp] theorem State.modMgmt_now (s : State) (f : Mgmt → Mgmt) : (s.modMgmt f).now = s.now := rfl
@[simp] theorem State.modMgmt_out (s : State) (f : Mgmt → Mgmt) : (s.modMgmt f).out = s.out := rfl
@[simp] theorem State.modMgmt_boot (s : State) (f : Mgmt → Mgmt) : (s.modMgmt f).boot = s.boot := rfl
@[simp] theorem State.modMgmt_beat (s : State) (f : Mgmt → Mgmt) : (s.modMgmt f).beat = s.beat := rfl
@[simp] theorem State.modMgmt_cl (s : State) (f : Mgmt → Mgmt) : (s.modMgmt f).cl = s.cl := rfl
@[simp] theorem State.modMgmt_dl (s : State) (f : Mgmt → Mgmt) : (s.modMgmt f).dl = s.dl := rfl
@[simp] theorem State.modMgmt_tiers (s : State) (f : Mgmt → Mgmt) : (s.modMgmt f).tiers = s.tiers := rfl
@[simp] theorem State.modMgmt_sync (s : State) (f : Mgmt → Mgmt) : (s.modMgmt f).sync = s.sync := rfl
@[simp] theorem State.modMgmt_fns (s : State) (f : Mgmt → Mgmt) : (s.modMgmt f).fns = s.fns := rfl
@[simp] theorem State.modMgmt_redeal (s : State) (f : Mgmt → Mgmt) : (s.modMgmt f).redeal = s.redeal := rfl
@[simp] theorem State.modMgmt_fences (s : State) (f : Mgmt → Mgmt) : (s.modMgmt f).fences = s.fences := rfl
@[simp] theorem State.modMgmt_ecc (s : State) (f : Mgmt → Mgmt) : (s.modMgmt f).ecc = s.ecc := rfl
@[simp] theorem State.modMgmt_link (s : State) (f : Mgmt → Mgmt) : (s.modMgmt f).link = s.link := rfl
@[simp] theorem State.modMgmt_rounds (s : State) (f : Mgmt → Mgmt) : (s.modMgmt f).rounds = s.rounds := rfl
@[simp] theorem State.modMgmt_dbg (s : State) (f : Mgmt → Mgmt) : (s.modMgmt f).dbg = s.dbg := rfl
@[simp] theorem State.modMgmt_power (s : State) (f : Mgmt → Mgmt) : (s.modMgmt f).power = s.power := rfl
@[simp] theorem State.modMgmt_mgmt (s : State) (f : Mgmt → Mgmt) : (s.modMgmt f).mgmt = f s.mgmt := rfl
@[simp] theorem State.modMgmt_pcie (s : State) (f : Mgmt → Mgmt) : (s.modMgmt f).pcie = s.pcie := rfl
@[simp] theorem State.modMgmt_net (s : State) (f : Mgmt → Mgmt) : (s.modMgmt f).net = s.net := rfl
@[simp] theorem State.modMgmt_asy (s : State) (f : Mgmt → Mgmt) : (s.modMgmt f).asy = s.asy := rfl

@[simp] theorem State.modLink_pending (s : State) (f : Link → Link) : (s.modLink f).pending = s.pending := rfl
@[simp] theorem State.modLink_held (s : State) (f : Link → Link) : (s.modLink f).held = s.held := rfl
@[simp] theorem State.modLink_freeCtr (s : State) (f : Link → Link) : (s.modLink f).freeCtr = s.freeCtr := rfl
@[simp] theorem State.modLink_now (s : State) (f : Link → Link) : (s.modLink f).now = s.now := rfl
@[simp] theorem State.modLink_out (s : State) (f : Link → Link) : (s.modLink f).out = s.out := rfl
@[simp] theorem State.modLink_boot (s : State) (f : Link → Link) : (s.modLink f).boot = s.boot := rfl
@[simp] theorem State.modLink_beat (s : State) (f : Link → Link) : (s.modLink f).beat = s.beat := rfl
@[simp] theorem State.modLink_cl (s : State) (f : Link → Link) : (s.modLink f).cl = s.cl := rfl
@[simp] theorem State.modLink_dl (s : State) (f : Link → Link) : (s.modLink f).dl = s.dl := rfl
@[simp] theorem State.modLink_tiers (s : State) (f : Link → Link) : (s.modLink f).tiers = s.tiers := rfl
@[simp] theorem State.modLink_sync (s : State) (f : Link → Link) : (s.modLink f).sync = s.sync := rfl
@[simp] theorem State.modLink_fns (s : State) (f : Link → Link) : (s.modLink f).fns = s.fns := rfl
@[simp] theorem State.modLink_redeal (s : State) (f : Link → Link) : (s.modLink f).redeal = s.redeal := rfl
@[simp] theorem State.modLink_fences (s : State) (f : Link → Link) : (s.modLink f).fences = s.fences := rfl
@[simp] theorem State.modLink_ecc (s : State) (f : Link → Link) : (s.modLink f).ecc = s.ecc := rfl
@[simp] theorem State.modLink_link (s : State) (f : Link → Link) : (s.modLink f).link = f s.link := rfl
@[simp] theorem State.modLink_rounds (s : State) (f : Link → Link) : (s.modLink f).rounds = s.rounds := rfl
@[simp] theorem State.modLink_dbg (s : State) (f : Link → Link) : (s.modLink f).dbg = s.dbg := rfl
@[simp] theorem State.modLink_power (s : State) (f : Link → Link) : (s.modLink f).power = s.power := rfl
@[simp] theorem State.modLink_mgmt (s : State) (f : Link → Link) : (s.modLink f).mgmt = s.mgmt := rfl
@[simp] theorem State.modLink_pcie (s : State) (f : Link → Link) : (s.modLink f).pcie = s.pcie := rfl
@[simp] theorem State.modLink_net (s : State) (f : Link → Link) : (s.modLink f).net = s.net := rfl
@[simp] theorem State.modLink_asy (s : State) (f : Link → Link) : (s.modLink f).asy = s.asy := rfl

@[simp] theorem State.modRounds_pending (s : State) (f : Rounds → Rounds) : (s.modRounds f).pending = s.pending := rfl
@[simp] theorem State.modRounds_held (s : State) (f : Rounds → Rounds) : (s.modRounds f).held = s.held := rfl
@[simp] theorem State.modRounds_freeCtr (s : State) (f : Rounds → Rounds) : (s.modRounds f).freeCtr = s.freeCtr := rfl
@[simp] theorem State.modRounds_now (s : State) (f : Rounds → Rounds) : (s.modRounds f).now = s.now := rfl
@[simp] theorem State.modRounds_out (s : State) (f : Rounds → Rounds) : (s.modRounds f).out = s.out := rfl
@[simp] theorem State.modRounds_boot (s : State) (f : Rounds → Rounds) : (s.modRounds f).boot = s.boot := rfl
@[simp] theorem State.modRounds_beat (s : State) (f : Rounds → Rounds) : (s.modRounds f).beat = s.beat := rfl
@[simp] theorem State.modRounds_cl (s : State) (f : Rounds → Rounds) : (s.modRounds f).cl = s.cl := rfl
@[simp] theorem State.modRounds_dl (s : State) (f : Rounds → Rounds) : (s.modRounds f).dl = s.dl := rfl
@[simp] theorem State.modRounds_tiers (s : State) (f : Rounds → Rounds) : (s.modRounds f).tiers = s.tiers := rfl
@[simp] theorem State.modRounds_sync (s : State) (f : Rounds → Rounds) : (s.modRounds f).sync = s.sync := rfl
@[simp] theorem State.modRounds_fns (s : State) (f : Rounds → Rounds) : (s.modRounds f).fns = s.fns := rfl
@[simp] theorem State.modRounds_redeal (s : State) (f : Rounds → Rounds) : (s.modRounds f).redeal = s.redeal := rfl
@[simp] theorem State.modRounds_fences (s : State) (f : Rounds → Rounds) : (s.modRounds f).fences = s.fences := rfl
@[simp] theorem State.modRounds_ecc (s : State) (f : Rounds → Rounds) : (s.modRounds f).ecc = s.ecc := rfl
@[simp] theorem State.modRounds_link (s : State) (f : Rounds → Rounds) : (s.modRounds f).link = s.link := rfl
@[simp] theorem State.modRounds_rounds (s : State) (f : Rounds → Rounds) : (s.modRounds f).rounds = f s.rounds := rfl
@[simp] theorem State.modRounds_dbg (s : State) (f : Rounds → Rounds) : (s.modRounds f).dbg = s.dbg := rfl
@[simp] theorem State.modRounds_power (s : State) (f : Rounds → Rounds) : (s.modRounds f).power = s.power := rfl
@[simp] theorem State.modRounds_mgmt (s : State) (f : Rounds → Rounds) : (s.modRounds f).mgmt = s.mgmt := rfl
@[simp] theorem State.modRounds_pcie (s : State) (f : Rounds → Rounds) : (s.modRounds f).pcie = s.pcie := rfl
@[simp] theorem State.modRounds_net (s : State) (f : Rounds → Rounds) : (s.modRounds f).net = s.net := rfl
@[simp] theorem State.modRounds_asy (s : State) (f : Rounds → Rounds) : (s.modRounds f).asy = s.asy := rfl

@[simp] theorem State.modDbg_pending (s : State) (f : Debug → Debug) : (s.modDbg f).pending = s.pending := rfl
@[simp] theorem State.modDbg_held (s : State) (f : Debug → Debug) : (s.modDbg f).held = s.held := rfl
@[simp] theorem State.modDbg_freeCtr (s : State) (f : Debug → Debug) : (s.modDbg f).freeCtr = s.freeCtr := rfl
@[simp] theorem State.modDbg_now (s : State) (f : Debug → Debug) : (s.modDbg f).now = s.now := rfl
@[simp] theorem State.modDbg_out (s : State) (f : Debug → Debug) : (s.modDbg f).out = s.out := rfl
@[simp] theorem State.modDbg_boot (s : State) (f : Debug → Debug) : (s.modDbg f).boot = s.boot := rfl
@[simp] theorem State.modDbg_beat (s : State) (f : Debug → Debug) : (s.modDbg f).beat = s.beat := rfl
@[simp] theorem State.modDbg_cl (s : State) (f : Debug → Debug) : (s.modDbg f).cl = s.cl := rfl
@[simp] theorem State.modDbg_dl (s : State) (f : Debug → Debug) : (s.modDbg f).dl = s.dl := rfl
@[simp] theorem State.modDbg_tiers (s : State) (f : Debug → Debug) : (s.modDbg f).tiers = s.tiers := rfl
@[simp] theorem State.modDbg_sync (s : State) (f : Debug → Debug) : (s.modDbg f).sync = s.sync := rfl
@[simp] theorem State.modDbg_fns (s : State) (f : Debug → Debug) : (s.modDbg f).fns = s.fns := rfl
@[simp] theorem State.modDbg_redeal (s : State) (f : Debug → Debug) : (s.modDbg f).redeal = s.redeal := rfl
@[simp] theorem State.modDbg_fences (s : State) (f : Debug → Debug) : (s.modDbg f).fences = s.fences := rfl
@[simp] theorem State.modDbg_ecc (s : State) (f : Debug → Debug) : (s.modDbg f).ecc = s.ecc := rfl
@[simp] theorem State.modDbg_link (s : State) (f : Debug → Debug) : (s.modDbg f).link = s.link := rfl
@[simp] theorem State.modDbg_rounds (s : State) (f : Debug → Debug) : (s.modDbg f).rounds = s.rounds := rfl
@[simp] theorem State.modDbg_dbg (s : State) (f : Debug → Debug) : (s.modDbg f).dbg = f s.dbg := rfl
@[simp] theorem State.modDbg_power (s : State) (f : Debug → Debug) : (s.modDbg f).power = s.power := rfl
@[simp] theorem State.modDbg_mgmt (s : State) (f : Debug → Debug) : (s.modDbg f).mgmt = s.mgmt := rfl
@[simp] theorem State.modDbg_pcie (s : State) (f : Debug → Debug) : (s.modDbg f).pcie = s.pcie := rfl
@[simp] theorem State.modDbg_net (s : State) (f : Debug → Debug) : (s.modDbg f).net = s.net := rfl
@[simp] theorem State.modDbg_asy (s : State) (f : Debug → Debug) : (s.modDbg f).asy = s.asy := rfl

@[simp] theorem State.modRedeal_pending (s : State) (f : Redeal → Redeal) : (s.modRedeal f).pending = s.pending := rfl
@[simp] theorem State.modRedeal_held (s : State) (f : Redeal → Redeal) : (s.modRedeal f).held = s.held := rfl
@[simp] theorem State.modRedeal_freeCtr (s : State) (f : Redeal → Redeal) : (s.modRedeal f).freeCtr = s.freeCtr := rfl
@[simp] theorem State.modRedeal_now (s : State) (f : Redeal → Redeal) : (s.modRedeal f).now = s.now := rfl
@[simp] theorem State.modRedeal_out (s : State) (f : Redeal → Redeal) : (s.modRedeal f).out = s.out := rfl
@[simp] theorem State.modRedeal_boot (s : State) (f : Redeal → Redeal) : (s.modRedeal f).boot = s.boot := rfl
@[simp] theorem State.modRedeal_beat (s : State) (f : Redeal → Redeal) : (s.modRedeal f).beat = s.beat := rfl
@[simp] theorem State.modRedeal_cl (s : State) (f : Redeal → Redeal) : (s.modRedeal f).cl = s.cl := rfl
@[simp] theorem State.modRedeal_dl (s : State) (f : Redeal → Redeal) : (s.modRedeal f).dl = s.dl := rfl
@[simp] theorem State.modRedeal_tiers (s : State) (f : Redeal → Redeal) : (s.modRedeal f).tiers = s.tiers := rfl
@[simp] theorem State.modRedeal_sync (s : State) (f : Redeal → Redeal) : (s.modRedeal f).sync = s.sync := rfl
@[simp] theorem State.modRedeal_fns (s : State) (f : Redeal → Redeal) : (s.modRedeal f).fns = s.fns := rfl
@[simp] theorem State.modRedeal_redeal (s : State) (f : Redeal → Redeal) : (s.modRedeal f).redeal = f s.redeal := rfl
@[simp] theorem State.modRedeal_fences (s : State) (f : Redeal → Redeal) : (s.modRedeal f).fences = s.fences := rfl
@[simp] theorem State.modRedeal_ecc (s : State) (f : Redeal → Redeal) : (s.modRedeal f).ecc = s.ecc := rfl
@[simp] theorem State.modRedeal_link (s : State) (f : Redeal → Redeal) : (s.modRedeal f).link = s.link := rfl
@[simp] theorem State.modRedeal_rounds (s : State) (f : Redeal → Redeal) : (s.modRedeal f).rounds = s.rounds := rfl
@[simp] theorem State.modRedeal_dbg (s : State) (f : Redeal → Redeal) : (s.modRedeal f).dbg = s.dbg := rfl
@[simp] theorem State.modRedeal_power (s : State) (f : Redeal → Redeal) : (s.modRedeal f).power = s.power := rfl
@[simp] theorem State.modRedeal_mgmt (s : State) (f : Redeal → Redeal) : (s.modRedeal f).mgmt = s.mgmt := rfl
@[simp] theorem State.modRedeal_pcie (s : State) (f : Redeal → Redeal) : (s.modRedeal f).pcie = s.pcie := rfl
@[simp] theorem State.modRedeal_net (s : State) (f : Redeal → Redeal) : (s.modRedeal f).net = s.net := rfl
@[simp] theorem State.modRedeal_asy (s : State) (f : Redeal → Redeal) : (s.modRedeal f).asy = s.asy := rfl

@[simp] theorem State.modBoot_pending (s : State) (f : Boot → Boot) : (s.modBoot f).pending = s.pending := rfl
@[simp] theorem State.modBoot_held (s : State) (f : Boot → Boot) : (s.modBoot f).held = s.held := rfl
@[simp] theorem State.modBoot_freeCtr (s : State) (f : Boot → Boot) : (s.modBoot f).freeCtr = s.freeCtr := rfl
@[simp] theorem State.modBoot_now (s : State) (f : Boot → Boot) : (s.modBoot f).now = s.now := rfl
@[simp] theorem State.modBoot_out (s : State) (f : Boot → Boot) : (s.modBoot f).out = s.out := rfl
@[simp] theorem State.modBoot_boot (s : State) (f : Boot → Boot) : (s.modBoot f).boot = f s.boot := rfl
@[simp] theorem State.modBoot_beat (s : State) (f : Boot → Boot) : (s.modBoot f).beat = s.beat := rfl
@[simp] theorem State.modBoot_cl (s : State) (f : Boot → Boot) : (s.modBoot f).cl = s.cl := rfl
@[simp] theorem State.modBoot_dl (s : State) (f : Boot → Boot) : (s.modBoot f).dl = s.dl := rfl
@[simp] theorem State.modBoot_tiers (s : State) (f : Boot → Boot) : (s.modBoot f).tiers = s.tiers := rfl
@[simp] theorem State.modBoot_sync (s : State) (f : Boot → Boot) : (s.modBoot f).sync = s.sync := rfl
@[simp] theorem State.modBoot_fns (s : State) (f : Boot → Boot) : (s.modBoot f).fns = s.fns := rfl
@[simp] theorem State.modBoot_redeal (s : State) (f : Boot → Boot) : (s.modBoot f).redeal = s.redeal := rfl
@[simp] theorem State.modBoot_fences (s : State) (f : Boot → Boot) : (s.modBoot f).fences = s.fences := rfl
@[simp] theorem State.modBoot_ecc (s : State) (f : Boot → Boot) : (s.modBoot f).ecc = s.ecc := rfl
@[simp] theorem State.modBoot_link (s : State) (f : Boot → Boot) : (s.modBoot f).link = s.link := rfl
@[simp] theorem State.modBoot_rounds (s : State) (f : Boot → Boot) : (s.modBoot f).rounds = s.rounds := rfl
@[simp] theorem State.modBoot_dbg (s : State) (f : Boot → Boot) : (s.modBoot f).dbg = s.dbg := rfl
@[simp] theorem State.modBoot_power (s : State) (f : Boot → Boot) : (s.modBoot f).power = s.power := rfl
@[simp] theorem State.modBoot_mgmt (s : State) (f : Boot → Boot) : (s.modBoot f).mgmt = s.mgmt := rfl
@[simp] theorem State.modBoot_pcie (s : State) (f : Boot → Boot) : (s.modBoot f).pcie = s.pcie := rfl
@[simp] theorem State.modBoot_net (s : State) (f : Boot → Boot) : (s.modBoot f).net = s.net := rfl
@[simp] theorem State.modBoot_asy (s : State) (f : Boot → Boot) : (s.modBoot f).asy = s.asy := rfl

@[simp] theorem State.modNet_pending (s : State) (f : Net → Net) : (s.modNet f).pending = s.pending := rfl
@[simp] theorem State.modNet_held (s : State) (f : Net → Net) : (s.modNet f).held = s.held := rfl
@[simp] theorem State.modNet_freeCtr (s : State) (f : Net → Net) : (s.modNet f).freeCtr = s.freeCtr := rfl
@[simp] theorem State.modNet_now (s : State) (f : Net → Net) : (s.modNet f).now = s.now := rfl
@[simp] theorem State.modNet_out (s : State) (f : Net → Net) : (s.modNet f).out = s.out := rfl
@[simp] theorem State.modNet_boot (s : State) (f : Net → Net) : (s.modNet f).boot = s.boot := rfl
@[simp] theorem State.modNet_beat (s : State) (f : Net → Net) : (s.modNet f).beat = s.beat := rfl
@[simp] theorem State.modNet_cl (s : State) (f : Net → Net) : (s.modNet f).cl = s.cl := rfl
@[simp] theorem State.modNet_dl (s : State) (f : Net → Net) : (s.modNet f).dl = s.dl := rfl
@[simp] theorem State.modNet_tiers (s : State) (f : Net → Net) : (s.modNet f).tiers = s.tiers := rfl
@[simp] theorem State.modNet_sync (s : State) (f : Net → Net) : (s.modNet f).sync = s.sync := rfl
@[simp] theorem State.modNet_fns (s : State) (f : Net → Net) : (s.modNet f).fns = s.fns := rfl
@[simp] theorem State.modNet_redeal (s : State) (f : Net → Net) : (s.modNet f).redeal = s.redeal := rfl
@[simp] theorem State.modNet_fences (s : State) (f : Net → Net) : (s.modNet f).fences = s.fences := rfl
@[simp] theorem State.modNet_ecc (s : State) (f : Net → Net) : (s.modNet f).ecc = s.ecc := rfl
@[simp] theorem State.modNet_link (s : State) (f : Net → Net) : (s.modNet f).link = s.link := rfl
@[simp] theorem State.modNet_rounds (s : State) (f : Net → Net) : (s.modNet f).rounds = s.rounds := rfl
@[simp] theorem State.modNet_dbg (s : State) (f : Net → Net) : (s.modNet f).dbg = s.dbg := rfl
@[simp] theorem State.modNet_power (s : State) (f : Net → Net) : (s.modNet f).power = s.power := rfl
@[simp] theorem State.modNet_mgmt (s : State) (f : Net → Net) : (s.modNet f).mgmt = s.mgmt := rfl
@[simp] theorem State.modNet_pcie (s : State) (f : Net → Net) : (s.modNet f).pcie = s.pcie := rfl
@[simp] theorem State.modNet_net (s : State) (f : Net → Net) : (s.modNet f).net = f s.net := rfl
@[simp] theorem State.modNet_asy (s : State) (f : Net → Net) : (s.modNet f).asy = s.asy := rfl

@[simp] theorem State.modEcc_pending (s : State) (f : Ecc → Ecc) : (s.modEcc f).pending = s.pending := rfl
@[simp] theorem State.modEcc_held (s : State) (f : Ecc → Ecc) : (s.modEcc f).held = s.held := rfl
@[simp] theorem State.modEcc_freeCtr (s : State) (f : Ecc → Ecc) : (s.modEcc f).freeCtr = s.freeCtr := rfl
@[simp] theorem State.modEcc_now (s : State) (f : Ecc → Ecc) : (s.modEcc f).now = s.now := rfl
@[simp] theorem State.modEcc_out (s : State) (f : Ecc → Ecc) : (s.modEcc f).out = s.out := rfl
@[simp] theorem State.modEcc_boot (s : State) (f : Ecc → Ecc) : (s.modEcc f).boot = s.boot := rfl
@[simp] theorem State.modEcc_beat (s : State) (f : Ecc → Ecc) : (s.modEcc f).beat = s.beat := rfl
@[simp] theorem State.modEcc_cl (s : State) (f : Ecc → Ecc) : (s.modEcc f).cl = s.cl := rfl
@[simp] theorem State.modEcc_dl (s : State) (f : Ecc → Ecc) : (s.modEcc f).dl = s.dl := rfl
@[simp] theorem State.modEcc_tiers (s : State) (f : Ecc → Ecc) : (s.modEcc f).tiers = s.tiers := rfl
@[simp] theorem State.modEcc_sync (s : State) (f : Ecc → Ecc) : (s.modEcc f).sync = s.sync := rfl
@[simp] theorem State.modEcc_fns (s : State) (f : Ecc → Ecc) : (s.modEcc f).fns = s.fns := rfl
@[simp] theorem State.modEcc_redeal (s : State) (f : Ecc → Ecc) : (s.modEcc f).redeal = s.redeal := rfl
@[simp] theorem State.modEcc_fences (s : State) (f : Ecc → Ecc) : (s.modEcc f).fences = s.fences := rfl
@[simp] theorem State.modEcc_ecc (s : State) (f : Ecc → Ecc) : (s.modEcc f).ecc = f s.ecc := rfl
@[simp] theorem State.modEcc_link (s : State) (f : Ecc → Ecc) : (s.modEcc f).link = s.link := rfl
@[simp] theorem State.modEcc_rounds (s : State) (f : Ecc → Ecc) : (s.modEcc f).rounds = s.rounds := rfl
@[simp] theorem State.modEcc_dbg (s : State) (f : Ecc → Ecc) : (s.modEcc f).dbg = s.dbg := rfl
@[simp] theorem State.modEcc_power (s : State) (f : Ecc → Ecc) : (s.modEcc f).power = s.power := rfl
@[simp] theorem State.modEcc_mgmt (s : State) (f : Ecc → Ecc) : (s.modEcc f).mgmt = s.mgmt := rfl
@[simp] theorem State.modEcc_pcie (s : State) (f : Ecc → Ecc) : (s.modEcc f).pcie = s.pcie := rfl
@[simp] theorem State.modEcc_net (s : State) (f : Ecc → Ecc) : (s.modEcc f).net = s.net := rfl
@[simp] theorem State.modEcc_asy (s : State) (f : Ecc → Ecc) : (s.modEcc f).asy = s.asy := rfl

@[simp] theorem State.modPower_pending (s : State) (f : Power → Power) : (s.modPower f).pending = s.pending := rfl
@[simp] theorem State.modPower_held (s : State) (f : Power → Power) : (s.modPower f).held = s.held := rfl
@[simp] theorem State.modPower_freeCtr (s : State) (f : Power → Power) : (s.modPower f).freeCtr = s.freeCtr := rfl
@[simp] theorem State.modPower_now (s : State) (f : Power → Power) : (s.modPower f).now = s.now := rfl
@[simp] theorem State.modPower_out (s : State) (f : Power → Power) : (s.modPower f).out = s.out := rfl
@[simp] theorem State.modPower_boot (s : State) (f : Power → Power) : (s.modPower f).boot = s.boot := rfl
@[simp] theorem State.modPower_beat (s : State) (f : Power → Power) : (s.modPower f).beat = s.beat := rfl
@[simp] theorem State.modPower_cl (s : State) (f : Power → Power) : (s.modPower f).cl = s.cl := rfl
@[simp] theorem State.modPower_dl (s : State) (f : Power → Power) : (s.modPower f).dl = s.dl := rfl
@[simp] theorem State.modPower_tiers (s : State) (f : Power → Power) : (s.modPower f).tiers = s.tiers := rfl
@[simp] theorem State.modPower_sync (s : State) (f : Power → Power) : (s.modPower f).sync = s.sync := rfl
@[simp] theorem State.modPower_fns (s : State) (f : Power → Power) : (s.modPower f).fns = s.fns := rfl
@[simp] theorem State.modPower_redeal (s : State) (f : Power → Power) : (s.modPower f).redeal = s.redeal := rfl
@[simp] theorem State.modPower_fences (s : State) (f : Power → Power) : (s.modPower f).fences = s.fences := rfl
@[simp] theorem State.modPower_ecc (s : State) (f : Power → Power) : (s.modPower f).ecc = s.ecc := rfl
@[simp] theorem State.modPower_link (s : State) (f : Power → Power) : (s.modPower f).link = s.link := rfl
@[simp] theorem State.modPower_rounds (s : State) (f : Power → Power) : (s.modPower f).rounds = s.rounds := rfl
@[simp] theorem State.modPower_dbg (s : State) (f : Power → Power) : (s.modPower f).dbg = s.dbg := rfl
@[simp] theorem State.modPower_power (s : State) (f : Power → Power) : (s.modPower f).power = f s.power := rfl
@[simp] theorem State.modPower_mgmt (s : State) (f : Power → Power) : (s.modPower f).mgmt = s.mgmt := rfl
@[simp] theorem State.modPower_pcie (s : State) (f : Power → Power) : (s.modPower f).pcie = s.pcie := rfl
@[simp] theorem State.modPower_net (s : State) (f : Power → Power) : (s.modPower f).net = s.net := rfl
@[simp] theorem State.modPower_asy (s : State) (f : Power → Power) : (s.modPower f).asy = s.asy := rfl

@[simp] theorem State.modAsy_pending (s : State) (f : Assay → Assay) : (s.modAsy f).pending = s.pending := rfl
@[simp] theorem State.modAsy_held (s : State) (f : Assay → Assay) : (s.modAsy f).held = s.held := rfl
@[simp] theorem State.modAsy_freeCtr (s : State) (f : Assay → Assay) : (s.modAsy f).freeCtr = s.freeCtr := rfl
@[simp] theorem State.modAsy_now (s : State) (f : Assay → Assay) : (s.modAsy f).now = s.now := rfl
@[simp] theorem State.modAsy_out (s : State) (f : Assay → Assay) : (s.modAsy f).out = s.out := rfl
@[simp] theorem State.modAsy_boot (s : State) (f : Assay → Assay) : (s.modAsy f).boot = s.boot := rfl
@[simp] theorem State.modAsy_beat (s : State) (f : Assay → Assay) : (s.modAsy f).beat = s.beat := rfl
@[simp] theorem State.modAsy_cl (s : State) (f : Assay → Assay) : (s.modAsy f).cl = s.cl := rfl
@[simp] theorem State.modAsy_dl (s : State) (f : Assay → Assay) : (s.modAsy f).dl = s.dl := rfl
@[simp] theorem State.modAsy_tiers (s : State) (f : Assay → Assay) : (s.modAsy f).tiers = s.tiers := rfl
@[simp] theorem State.modAsy_sync (s : State) (f : Assay → Assay) : (s.modAsy f).sync = s.sync := rfl
@[simp] theorem State.modAsy_fns (s : State) (f : Assay → Assay) : (s.modAsy f).fns = s.fns := rfl
@[simp] theorem State.modAsy_redeal (s : State) (f : Assay → Assay) : (s.modAsy f).redeal = s.redeal := rfl
@[simp] theorem State.modAsy_fences (s : State) (f : Assay → Assay) : (s.modAsy f).fences = s.fences := rfl
@[simp] theorem State.modAsy_ecc (s : State) (f : Assay → Assay) : (s.modAsy f).ecc = s.ecc := rfl
@[simp] theorem State.modAsy_link (s : State) (f : Assay → Assay) : (s.modAsy f).link = s.link := rfl
@[simp] theorem State.modAsy_rounds (s : State) (f : Assay → Assay) : (s.modAsy f).rounds = s.rounds := rfl
@[simp] theorem State.modAsy_dbg (s : State) (f : Assay → Assay) : (s.modAsy f).dbg = s.dbg := rfl
@[simp] theorem State.modAsy_power (s : State) (f : Assay → Assay) : (s.modAsy f).power = s.power := rfl
@[simp] theorem State.modAsy_mgmt (s : State) (f : Assay → Assay) : (s.modAsy f).mgmt = s.mgmt := rfl
@[simp] theorem State.modAsy_pcie (s : State) (f : Assay → Assay) : (s.modAsy f).pcie = s.pcie := rfl
@[simp] theorem State.modAsy_net (s : State) (f : Assay → Assay) : (s.modAsy f).net = s.net := rfl
@[simp] theorem State.modAsy_asy (s : State) (f : Assay → Assay) : (s.modAsy f).asy = f s.asy := rfl

@[simp] theorem State.modBeat_pending (s : State) (f : Beat → Beat) : (s.modBeat f).pending = s.pending := rfl
@[simp] theorem State.modBeat_held (s : State) (f : Beat → Beat) : (s.modBeat f).held = s.held := rfl
@[simp] theorem State.modBeat_freeCtr (s : State) (f : Beat → Beat) : (s.modBeat f).freeCtr = s.freeCtr := rfl
@[simp] theorem State.modBeat_now (s : State) (f : Beat → Beat) : (s.modBeat f).now = s.now := rfl
@[simp] theorem State.modBeat_out (s : State) (f : Beat → Beat) : (s.modBeat f).out = s.out := rfl
@[simp] theorem State.modBeat_boot (s : State) (f : Beat → Beat) : (s.modBeat f).boot = s.boot := rfl
@[simp] theorem State.modBeat_beat (s : State) (f : Beat → Beat) : (s.modBeat f).beat = f s.beat := rfl
@[simp] theorem State.modBeat_cl (s : State) (f : Beat → Beat) : (s.modBeat f).cl = s.cl := rfl
@[simp] theorem State.modBeat_dl (s : State) (f : Beat → Beat) : (s.modBeat f).dl = s.dl := rfl
@[simp] theorem State.modBeat_tiers (s : State) (f : Beat → Beat) : (s.modBeat f).tiers = s.tiers := rfl
@[simp] theorem State.modBeat_sync (s : State) (f : Beat → Beat) : (s.modBeat f).sync = s.sync := rfl
@[simp] theorem State.modBeat_fns (s : State) (f : Beat → Beat) : (s.modBeat f).fns = s.fns := rfl
@[simp] theorem State.modBeat_redeal (s : State) (f : Beat → Beat) : (s.modBeat f).redeal = s.redeal := rfl
@[simp] theorem State.modBeat_fences (s : State) (f : Beat → Beat) : (s.modBeat f).fences = s.fences := rfl
@[simp] theorem State.modBeat_ecc (s : State) (f : Beat → Beat) : (s.modBeat f).ecc = s.ecc := rfl
@[simp] theorem State.modBeat_link (s : State) (f : Beat → Beat) : (s.modBeat f).link = s.link := rfl
@[simp] theorem State.modBeat_rounds (s : State) (f : Beat → Beat) : (s.modBeat f).rounds = s.rounds := rfl
@[simp] theorem State.modBeat_dbg (s : State) (f : Beat → Beat) : (s.modBeat f).dbg = s.dbg := rfl
@[simp] theorem State.modBeat_power (s : State) (f : Beat → Beat) : (s.modBeat f).power = s.power := rfl
@[simp] theorem State.modBeat_mgmt (s : State) (f : Beat → Beat) : (s.modBeat f).mgmt = s.mgmt := rfl
@[simp] theorem State.modBeat_pcie (s : State) (f : Beat → Beat) : (s.modBeat f).pcie = s.pcie := rfl
@[simp] theorem State.modBeat_net (s : State) (f : Beat → Beat) : (s.modBeat f).net = s.net := rfl
@[simp] theorem State.modBeat_asy (s : State) (f : Beat → Beat) : (s.modBeat f).asy = s.asy := rfl

theorem claim_modClaim_same (s : State) {n : Nat} (f : Claim → Claim) (h : n < 8) : (s.modClaim n f).claim n = f (s.claim n) := tget_tmod_same _ f h

theorem claim_modClaim_ne (s : State) {n m : Nat} (f : Claim → Claim) (h : n ≠ m) : (s.modClaim n f).claim m = s.claim m := tget_tmod_ne _ f h

theorem ring_modRing_same (s : State) {n : Nat} (f : EvtRing → EvtRing) (h : n < 9) : (s.modRing n f).ring n = f (s.ring n) := tget_tmod_same _ f h

theorem ring_modRing_ne (s : State) {n m : Nat} (f : EvtRing → EvtRing) (h : n ≠ m) : (s.modRing n f).ring m = s.ring m := tget_tmod_ne _ f h

theorem shoe_modShoe_same (s : State) {n : Nat} (f : Shoe → Shoe) (h : n < 9) : (s.modShoe n f).shoe n = f (s.shoe n) := tget_tmod_same _ f h

theorem shoe_modShoe_ne (s : State) {n m : Nat} (f : Shoe → Shoe) (h : n ≠ m) : (s.modShoe n f).shoe m = s.shoe m := tget_tmod_ne _ f h

theorem port_modPort_same (s : State) {n : Nat} (f : Port → Port) (h : n < 12) : (s.modPort n f).port n = f (s.port n) := tget_tmod_same _ f h

theorem port_modPort_ne (s : State) {n m : Nat} (f : Port → Port) (h : n ≠ m) : (s.modPort n f).port m = s.port m := tget_tmod_ne _ f h

theorem index_modIndex_same (s : State) {n : Nat} (f : Index → Index) (h : n < 64) : (s.modIndex n f).index n = f (s.index n) := tget_tmod_same _ f h

theorem index_modIndex_ne (s : State) {n m : Nat} (f : Index → Index) (h : n ≠ m) : (s.modIndex n f).index m = s.index m := tget_tmod_ne _ f h

end Machine

end Sys2Proof
end

