-- ==== Sys2Proof/Laws/Keeps.lean ====
section
/-! SUPPORT. The parts of the state that the shared operations leave as they are, one lemma for each. -/

set_option linter.unusedVariables false

namespace Sys2Proof.Machine

@[simp] theorem drivePins_pending (s : State) : (drivePins s).pending = s.pending :=
  (drivePins_moves s (Moves.refl 262152 s) rfl).rest .pending rfl
@[simp] theorem drivePins_held (s : State) : (drivePins s).held = s.held :=
  (drivePins_moves s (Moves.refl 262152 s) rfl).rest .held rfl
@[simp] theorem drivePins_freeCtr (s : State) : (drivePins s).freeCtr = s.freeCtr :=
  (drivePins_moves s (Moves.refl 262152 s) rfl).rest .freeCtr rfl
@[simp] theorem drivePins_now (s : State) : (drivePins s).now = s.now :=
  (drivePins_moves s (Moves.refl 262152 s) rfl).rest .now rfl
@[simp] theorem drivePins_boot (s : State) : (drivePins s).boot = s.boot :=
  (drivePins_moves s (Moves.refl 262152 s) rfl).rest .boot rfl
@[simp] theorem drivePins_beat (s : State) : (drivePins s).beat = s.beat :=
  (drivePins_moves s (Moves.refl 262152 s) rfl).rest .beat rfl
@[simp] theorem drivePins_cl (s : State) : (drivePins s).cl = s.cl :=
  (drivePins_moves s (Moves.refl 262152 s) rfl).rest .cl rfl
@[simp] theorem drivePins_dl (s : State) : (drivePins s).dl = s.dl :=
  (drivePins_moves s (Moves.refl 262152 s) rfl).rest .dl rfl
@[simp] theorem drivePins_tiers (s : State) : (drivePins s).tiers = s.tiers :=
  (drivePins_moves s (Moves.refl 262152 s) rfl).rest .tiers rfl
@[simp] theorem drivePins_sync (s : State) : (drivePins s).sync = s.sync :=
  (drivePins_moves s (Moves.refl 262152 s) rfl).rest .sync rfl
@[simp] theorem drivePins_fns (s : State) : (drivePins s).fns = s.fns :=
  (drivePins_moves s (Moves.refl 262152 s) rfl).rest .fns rfl
@[simp] theorem drivePins_redeal (s : State) : (drivePins s).redeal = s.redeal :=
  (drivePins_moves s (Moves.refl 262152 s) rfl).rest .redeal rfl
@[simp] theorem drivePins_fences (s : State) : (drivePins s).fences = s.fences :=
  (drivePins_moves s (Moves.refl 262152 s) rfl).rest .fences rfl
@[simp] theorem drivePins_ecc (s : State) : (drivePins s).ecc = s.ecc :=
  (drivePins_moves s (Moves.refl 262152 s) rfl).rest .ecc rfl
@[simp] theorem drivePins_link (s : State) : (drivePins s).link = s.link :=
  (drivePins_moves s (Moves.refl 262152 s) rfl).rest .link rfl
@[simp] theorem drivePins_rounds (s : State) : (drivePins s).rounds = s.rounds :=
  (drivePins_moves s (Moves.refl 262152 s) rfl).rest .rounds rfl
@[simp] theorem drivePins_dbg (s : State) : (drivePins s).dbg = s.dbg :=
  (drivePins_moves s (Moves.refl 262152 s) rfl).rest .dbg rfl
@[simp] theorem drivePins_power (s : State) : (drivePins s).power = s.power :=
  (drivePins_moves s (Moves.refl 262152 s) rfl).rest .power rfl
@[simp] theorem drivePins_pcie (s : State) : (drivePins s).pcie = s.pcie :=
  (drivePins_moves s (Moves.refl 262152 s) rfl).rest .pcie rfl
@[simp] theorem drivePins_net (s : State) : (drivePins s).net = s.net :=
  (drivePins_moves s (Moves.refl 262152 s) rfl).rest .net rfl
@[simp] theorem drivePins_asy (s : State) : (drivePins s).asy = s.asy :=
  (drivePins_moves s (Moves.refl 262152 s) rfl).rest .asy rfl

@[simp] theorem mgmtPush_pending (s : State) (e : MgmtEvent) : (mgmtPush s e).pending = s.pending :=
  (mgmtPush_moves s e (Moves.refl 262152 s) rfl).rest .pending rfl
@[simp] theorem mgmtPush_held (s : State) (e : MgmtEvent) : (mgmtPush s e).held = s.held :=
  (mgmtPush_moves s e (Moves.refl 262152 s) rfl).rest .held rfl
@[simp] theorem mgmtPush_freeCtr (s : State) (e : MgmtEvent) : (mgmtPush s e).freeCtr = s.freeCtr :=
  (mgmtPush_moves s e (Moves.refl 262152 s) rfl).rest .freeCtr rfl
@[simp] theorem mgmtPush_now (s : State) (e : MgmtEvent) : (mgmtPush s e).now = s.now :=
  (mgmtPush_moves s e (Moves.refl 262152 s) rfl).rest .now rfl
@[simp] theorem mgmtPush_boot (s : State) (e : MgmtEvent) : (mgmtPush s e).boot = s.boot :=
  (mgmtPush_moves s e (Moves.refl 262152 s) rfl).rest .boot rfl
@[simp] theorem mgmtPush_beat (s : State) (e : MgmtEvent) : (mgmtPush s e).beat = s.beat :=
  (mgmtPush_moves s e (Moves.refl 262152 s) rfl).rest .beat rfl
@[simp] theorem mgmtPush_cl (s : State) (e : MgmtEvent) : (mgmtPush s e).cl = s.cl :=
  (mgmtPush_moves s e (Moves.refl 262152 s) rfl).rest .cl rfl
@[simp] theorem mgmtPush_dl (s : State) (e : MgmtEvent) : (mgmtPush s e).dl = s.dl :=
  (mgmtPush_moves s e (Moves.refl 262152 s) rfl).rest .dl rfl
@[simp] theorem mgmtPush_tiers (s : State) (e : MgmtEvent) : (mgmtPush s e).tiers = s.tiers :=
  (mgmtPush_moves s e (Moves.refl 262152 s) rfl).rest .tiers rfl
@[simp] theorem mgmtPush_sync (s : State) (e : MgmtEvent) : (mgmtPush s e).sync = s.sync :=
  (mgmtPush_moves s e (Moves.refl 262152 s) rfl).rest .sync rfl
@[simp] theorem mgmtPush_fns (s : State) (e : MgmtEvent) : (mgmtPush s e).fns = s.fns :=
  (mgmtPush_moves s e (Moves.refl 262152 s) rfl).rest .fns rfl
@[simp] theorem mgmtPush_redeal (s : State) (e : MgmtEvent) : (mgmtPush s e).redeal = s.redeal :=
  (mgmtPush_moves s e (Moves.refl 262152 s) rfl).rest .redeal rfl
@[simp] theorem mgmtPush_fences (s : State) (e : MgmtEvent) : (mgmtPush s e).fences = s.fences :=
  (mgmtPush_moves s e (Moves.refl 262152 s) rfl).rest .fences rfl
@[simp] theorem mgmtPush_ecc (s : State) (e : MgmtEvent) : (mgmtPush s e).ecc = s.ecc :=
  (mgmtPush_moves s e (Moves.refl 262152 s) rfl).rest .ecc rfl
@[simp] theorem mgmtPush_link (s : State) (e : MgmtEvent) : (mgmtPush s e).link = s.link :=
  (mgmtPush_moves s e (Moves.refl 262152 s) rfl).rest .link rfl
@[simp] theorem mgmtPush_rounds (s : State) (e : MgmtEvent) : (mgmtPush s e).rounds = s.rounds :=
  (mgmtPush_moves s e (Moves.refl 262152 s) rfl).rest .rounds rfl
@[simp] theorem mgmtPush_dbg (s : State) (e : MgmtEvent) : (mgmtPush s e).dbg = s.dbg :=
  (mgmtPush_moves s e (Moves.refl 262152 s) rfl).rest .dbg rfl
@[simp] theorem mgmtPush_power (s : State) (e : MgmtEvent) : (mgmtPush s e).power = s.power :=
  (mgmtPush_moves s e (Moves.refl 262152 s) rfl).rest .power rfl
@[simp] theorem mgmtPush_pcie (s : State) (e : MgmtEvent) : (mgmtPush s e).pcie = s.pcie :=
  (mgmtPush_moves s e (Moves.refl 262152 s) rfl).rest .pcie rfl
@[simp] theorem mgmtPush_net (s : State) (e : MgmtEvent) : (mgmtPush s e).net = s.net :=
  (mgmtPush_moves s e (Moves.refl 262152 s) rfl).rest .net rfl
@[simp] theorem mgmtPush_asy (s : State) (e : MgmtEvent) : (mgmtPush s e).asy = s.asy :=
  (mgmtPush_moves s e (Moves.refl 262152 s) rfl).rest .asy rfl

@[simp] theorem mgmtOem_pending (s : State) (type : Nat) (cause : Nat) (body : List Byte) : (mgmtOem s type cause body).pending = s.pending :=
  (mgmtOem_moves s type cause body (Moves.refl 262152 s) rfl).rest .pending rfl
@[simp] theorem mgmtOem_held (s : State) (type : Nat) (cause : Nat) (body : List Byte) : (mgmtOem s type cause body).held = s.held :=
  (mgmtOem_moves s type cause body (Moves.refl 262152 s) rfl).rest .held rfl
@[simp] theorem mgmtOem_freeCtr (s : State) (type : Nat) (cause : Nat) (body : List Byte) : (mgmtOem s type cause body).freeCtr = s.freeCtr :=
  (mgmtOem_moves s type cause body (Moves.refl 262152 s) rfl).rest .freeCtr rfl
@[simp] theorem mgmtOem_now (s : State) (type : Nat) (cause : Nat) (body : List Byte) : (mgmtOem s type cause body).now = s.now :=
  (mgmtOem_moves s type cause body (Moves.refl 262152 s) rfl).rest .now rfl
@[simp] theorem mgmtOem_boot (s : State) (type : Nat) (cause : Nat) (body : List Byte) : (mgmtOem s type cause body).boot = s.boot :=
  (mgmtOem_moves s type cause body (Moves.refl 262152 s) rfl).rest .boot rfl
@[simp] theorem mgmtOem_beat (s : State) (type : Nat) (cause : Nat) (body : List Byte) : (mgmtOem s type cause body).beat = s.beat :=
  (mgmtOem_moves s type cause body (Moves.refl 262152 s) rfl).rest .beat rfl
@[simp] theorem mgmtOem_cl (s : State) (type : Nat) (cause : Nat) (body : List Byte) : (mgmtOem s type cause body).cl = s.cl :=
  (mgmtOem_moves s type cause body (Moves.refl 262152 s) rfl).rest .cl rfl
@[simp] theorem mgmtOem_dl (s : State) (type : Nat) (cause : Nat) (body : List Byte) : (mgmtOem s type cause body).dl = s.dl :=
  (mgmtOem_moves s type cause body (Moves.refl 262152 s) rfl).rest .dl rfl
@[simp] theorem mgmtOem_tiers (s : State) (type : Nat) (cause : Nat) (body : List Byte) : (mgmtOem s type cause body).tiers = s.tiers :=
  (mgmtOem_moves s type cause body (Moves.refl 262152 s) rfl).rest .tiers rfl
@[simp] theorem mgmtOem_sync (s : State) (type : Nat) (cause : Nat) (body : List Byte) : (mgmtOem s type cause body).sync = s.sync :=
  (mgmtOem_moves s type cause body (Moves.refl 262152 s) rfl).rest .sync rfl
@[simp] theorem mgmtOem_fns (s : State) (type : Nat) (cause : Nat) (body : List Byte) : (mgmtOem s type cause body).fns = s.fns :=
  (mgmtOem_moves s type cause body (Moves.refl 262152 s) rfl).rest .fns rfl
@[simp] theorem mgmtOem_redeal (s : State) (type : Nat) (cause : Nat) (body : List Byte) : (mgmtOem s type cause body).redeal = s.redeal :=
  (mgmtOem_moves s type cause body (Moves.refl 262152 s) rfl).rest .redeal rfl
@[simp] theorem mgmtOem_fences (s : State) (type : Nat) (cause : Nat) (body : List Byte) : (mgmtOem s type cause body).fences = s.fences :=
  (mgmtOem_moves s type cause body (Moves.refl 262152 s) rfl).rest .fences rfl
@[simp] theorem mgmtOem_ecc (s : State) (type : Nat) (cause : Nat) (body : List Byte) : (mgmtOem s type cause body).ecc = s.ecc :=
  (mgmtOem_moves s type cause body (Moves.refl 262152 s) rfl).rest .ecc rfl
@[simp] theorem mgmtOem_link (s : State) (type : Nat) (cause : Nat) (body : List Byte) : (mgmtOem s type cause body).link = s.link :=
  (mgmtOem_moves s type cause body (Moves.refl 262152 s) rfl).rest .link rfl
@[simp] theorem mgmtOem_rounds (s : State) (type : Nat) (cause : Nat) (body : List Byte) : (mgmtOem s type cause body).rounds = s.rounds :=
  (mgmtOem_moves s type cause body (Moves.refl 262152 s) rfl).rest .rounds rfl
@[simp] theorem mgmtOem_dbg (s : State) (type : Nat) (cause : Nat) (body : List Byte) : (mgmtOem s type cause body).dbg = s.dbg :=
  (mgmtOem_moves s type cause body (Moves.refl 262152 s) rfl).rest .dbg rfl
@[simp] theorem mgmtOem_power (s : State) (type : Nat) (cause : Nat) (body : List Byte) : (mgmtOem s type cause body).power = s.power :=
  (mgmtOem_moves s type cause body (Moves.refl 262152 s) rfl).rest .power rfl
@[simp] theorem mgmtOem_pcie (s : State) (type : Nat) (cause : Nat) (body : List Byte) : (mgmtOem s type cause body).pcie = s.pcie :=
  (mgmtOem_moves s type cause body (Moves.refl 262152 s) rfl).rest .pcie rfl
@[simp] theorem mgmtOem_net (s : State) (type : Nat) (cause : Nat) (body : List Byte) : (mgmtOem s type cause body).net = s.net :=
  (mgmtOem_moves s type cause body (Moves.refl 262152 s) rfl).rest .net rfl
@[simp] theorem mgmtOem_asy (s : State) (type : Nat) (cause : Nat) (body : List Byte) : (mgmtOem s type cause body).asy = s.asy :=
  (mgmtOem_moves s type cause body (Moves.refl 262152 s) rfl).rest .asy rfl

@[simp] theorem mgmtSensor_pending (s : State) (id : Nat) (prev : Nat) (cur : Nat) : (mgmtSensor s id prev cur).pending = s.pending :=
  (mgmtSensor_moves s id prev cur (Moves.refl 262152 s) rfl).rest .pending rfl
@[simp] theorem mgmtSensor_held (s : State) (id : Nat) (prev : Nat) (cur : Nat) : (mgmtSensor s id prev cur).held = s.held :=
  (mgmtSensor_moves s id prev cur (Moves.refl 262152 s) rfl).rest .held rfl
@[simp] theorem mgmtSensor_freeCtr (s : State) (id : Nat) (prev : Nat) (cur : Nat) : (mgmtSensor s id prev cur).freeCtr = s.freeCtr :=
  (mgmtSensor_moves s id prev cur (Moves.refl 262152 s) rfl).rest .freeCtr rfl
@[simp] theorem mgmtSensor_now (s : State) (id : Nat) (prev : Nat) (cur : Nat) : (mgmtSensor s id prev cur).now = s.now :=
  (mgmtSensor_moves s id prev cur (Moves.refl 262152 s) rfl).rest .now rfl
@[simp] theorem mgmtSensor_boot (s : State) (id : Nat) (prev : Nat) (cur : Nat) : (mgmtSensor s id prev cur).boot = s.boot :=
  (mgmtSensor_moves s id prev cur (Moves.refl 262152 s) rfl).rest .boot rfl
@[simp] theorem mgmtSensor_beat (s : State) (id : Nat) (prev : Nat) (cur : Nat) : (mgmtSensor s id prev cur).beat = s.beat :=
  (mgmtSensor_moves s id prev cur (Moves.refl 262152 s) rfl).rest .beat rfl
@[simp] theorem mgmtSensor_cl (s : State) (id : Nat) (prev : Nat) (cur : Nat) : (mgmtSensor s id prev cur).cl = s.cl :=
  (mgmtSensor_moves s id prev cur (Moves.refl 262152 s) rfl).rest .cl rfl
@[simp] theorem mgmtSensor_dl (s : State) (id : Nat) (prev : Nat) (cur : Nat) : (mgmtSensor s id prev cur).dl = s.dl :=
  (mgmtSensor_moves s id prev cur (Moves.refl 262152 s) rfl).rest .dl rfl
@[simp] theorem mgmtSensor_tiers (s : State) (id : Nat) (prev : Nat) (cur : Nat) : (mgmtSensor s id prev cur).tiers = s.tiers :=
  (mgmtSensor_moves s id prev cur (Moves.refl 262152 s) rfl).rest .tiers rfl
@[simp] theorem mgmtSensor_sync (s : State) (id : Nat) (prev : Nat) (cur : Nat) : (mgmtSensor s id prev cur).sync = s.sync :=
  (mgmtSensor_moves s id prev cur (Moves.refl 262152 s) rfl).rest .sync rfl
@[simp] theorem mgmtSensor_fns (s : State) (id : Nat) (prev : Nat) (cur : Nat) : (mgmtSensor s id prev cur).fns = s.fns :=
  (mgmtSensor_moves s id prev cur (Moves.refl 262152 s) rfl).rest .fns rfl
@[simp] theorem mgmtSensor_redeal (s : State) (id : Nat) (prev : Nat) (cur : Nat) : (mgmtSensor s id prev cur).redeal = s.redeal :=
  (mgmtSensor_moves s id prev cur (Moves.refl 262152 s) rfl).rest .redeal rfl
@[simp] theorem mgmtSensor_fences (s : State) (id : Nat) (prev : Nat) (cur : Nat) : (mgmtSensor s id prev cur).fences = s.fences :=
  (mgmtSensor_moves s id prev cur (Moves.refl 262152 s) rfl).rest .fences rfl
@[simp] theorem mgmtSensor_ecc (s : State) (id : Nat) (prev : Nat) (cur : Nat) : (mgmtSensor s id prev cur).ecc = s.ecc :=
  (mgmtSensor_moves s id prev cur (Moves.refl 262152 s) rfl).rest .ecc rfl
@[simp] theorem mgmtSensor_link (s : State) (id : Nat) (prev : Nat) (cur : Nat) : (mgmtSensor s id prev cur).link = s.link :=
  (mgmtSensor_moves s id prev cur (Moves.refl 262152 s) rfl).rest .link rfl
@[simp] theorem mgmtSensor_rounds (s : State) (id : Nat) (prev : Nat) (cur : Nat) : (mgmtSensor s id prev cur).rounds = s.rounds :=
  (mgmtSensor_moves s id prev cur (Moves.refl 262152 s) rfl).rest .rounds rfl
@[simp] theorem mgmtSensor_dbg (s : State) (id : Nat) (prev : Nat) (cur : Nat) : (mgmtSensor s id prev cur).dbg = s.dbg :=
  (mgmtSensor_moves s id prev cur (Moves.refl 262152 s) rfl).rest .dbg rfl
@[simp] theorem mgmtSensor_power (s : State) (id : Nat) (prev : Nat) (cur : Nat) : (mgmtSensor s id prev cur).power = s.power :=
  (mgmtSensor_moves s id prev cur (Moves.refl 262152 s) rfl).rest .power rfl
@[simp] theorem mgmtSensor_pcie (s : State) (id : Nat) (prev : Nat) (cur : Nat) : (mgmtSensor s id prev cur).pcie = s.pcie :=
  (mgmtSensor_moves s id prev cur (Moves.refl 262152 s) rfl).rest .pcie rfl
@[simp] theorem mgmtSensor_net (s : State) (id : Nat) (prev : Nat) (cur : Nat) : (mgmtSensor s id prev cur).net = s.net :=
  (mgmtSensor_moves s id prev cur (Moves.refl 262152 s) rfl).rest .net rfl
@[simp] theorem mgmtSensor_asy (s : State) (id : Nat) (prev : Nat) (cur : Nat) : (mgmtSensor s id prev cur).asy = s.asy :=
  (mgmtSensor_moves s id prev cur (Moves.refl 262152 s) rfl).rest .asy rfl

@[simp] theorem alertLatch_pending (s : State) (b : Nat) : (alertLatch s b).pending = s.pending :=
  (alertLatch_moves s b (Moves.refl 262152 s) rfl).rest .pending rfl
@[simp] theorem alertLatch_held (s : State) (b : Nat) : (alertLatch s b).held = s.held :=
  (alertLatch_moves s b (Moves.refl 262152 s) rfl).rest .held rfl
@[simp] theorem alertLatch_freeCtr (s : State) (b : Nat) : (alertLatch s b).freeCtr = s.freeCtr :=
  (alertLatch_moves s b (Moves.refl 262152 s) rfl).rest .freeCtr rfl
@[simp] theorem alertLatch_now (s : State) (b : Nat) : (alertLatch s b).now = s.now :=
  (alertLatch_moves s b (Moves.refl 262152 s) rfl).rest .now rfl
@[simp] theorem alertLatch_boot (s : State) (b : Nat) : (alertLatch s b).boot = s.boot :=
  (alertLatch_moves s b (Moves.refl 262152 s) rfl).rest .boot rfl
@[simp] theorem alertLatch_beat (s : State) (b : Nat) : (alertLatch s b).beat = s.beat :=
  (alertLatch_moves s b (Moves.refl 262152 s) rfl).rest .beat rfl
@[simp] theorem alertLatch_cl (s : State) (b : Nat) : (alertLatch s b).cl = s.cl :=
  (alertLatch_moves s b (Moves.refl 262152 s) rfl).rest .cl rfl
@[simp] theorem alertLatch_dl (s : State) (b : Nat) : (alertLatch s b).dl = s.dl :=
  (alertLatch_moves s b (Moves.refl 262152 s) rfl).rest .dl rfl
@[simp] theorem alertLatch_tiers (s : State) (b : Nat) : (alertLatch s b).tiers = s.tiers :=
  (alertLatch_moves s b (Moves.refl 262152 s) rfl).rest .tiers rfl
@[simp] theorem alertLatch_sync (s : State) (b : Nat) : (alertLatch s b).sync = s.sync :=
  (alertLatch_moves s b (Moves.refl 262152 s) rfl).rest .sync rfl
@[simp] theorem alertLatch_fns (s : State) (b : Nat) : (alertLatch s b).fns = s.fns :=
  (alertLatch_moves s b (Moves.refl 262152 s) rfl).rest .fns rfl
@[simp] theorem alertLatch_redeal (s : State) (b : Nat) : (alertLatch s b).redeal = s.redeal :=
  (alertLatch_moves s b (Moves.refl 262152 s) rfl).rest .redeal rfl
@[simp] theorem alertLatch_fences (s : State) (b : Nat) : (alertLatch s b).fences = s.fences :=
  (alertLatch_moves s b (Moves.refl 262152 s) rfl).rest .fences rfl
@[simp] theorem alertLatch_ecc (s : State) (b : Nat) : (alertLatch s b).ecc = s.ecc :=
  (alertLatch_moves s b (Moves.refl 262152 s) rfl).rest .ecc rfl
@[simp] theorem alertLatch_link (s : State) (b : Nat) : (alertLatch s b).link = s.link :=
  (alertLatch_moves s b (Moves.refl 262152 s) rfl).rest .link rfl
@[simp] theorem alertLatch_rounds (s : State) (b : Nat) : (alertLatch s b).rounds = s.rounds :=
  (alertLatch_moves s b (Moves.refl 262152 s) rfl).rest .rounds rfl
@[simp] theorem alertLatch_dbg (s : State) (b : Nat) : (alertLatch s b).dbg = s.dbg :=
  (alertLatch_moves s b (Moves.refl 262152 s) rfl).rest .dbg rfl
@[simp] theorem alertLatch_power (s : State) (b : Nat) : (alertLatch s b).power = s.power :=
  (alertLatch_moves s b (Moves.refl 262152 s) rfl).rest .power rfl
@[simp] theorem alertLatch_pcie (s : State) (b : Nat) : (alertLatch s b).pcie = s.pcie :=
  (alertLatch_moves s b (Moves.refl 262152 s) rfl).rest .pcie rfl
@[simp] theorem alertLatch_net (s : State) (b : Nat) : (alertLatch s b).net = s.net :=
  (alertLatch_moves s b (Moves.refl 262152 s) rfl).rest .net rfl
@[simp] theorem alertLatch_asy (s : State) (b : Nat) : (alertLatch s b).asy = s.asy :=
  (alertLatch_moves s b (Moves.refl 262152 s) rfl).rest .asy rfl

@[simp] theorem alertClear_pending (s : State) (b : Nat) : (alertClear s b).pending = s.pending :=
  (alertClear_moves s b (Moves.refl 262152 s) rfl).rest .pending rfl
@[simp] theorem alertClear_held (s : State) (b : Nat) : (alertClear s b).held = s.held :=
  (alertClear_moves s b (Moves.refl 262152 s) rfl).rest .held rfl
@[simp] theorem alertClear_freeCtr (s : State) (b : Nat) : (alertClear s b).freeCtr = s.freeCtr :=
  (alertClear_moves s b (Moves.refl 262152 s) rfl).rest .freeCtr rfl
@[simp] theorem alertClear_now (s : State) (b : Nat) : (alertClear s b).now = s.now :=
  (alertClear_moves s b (Moves.refl 262152 s) rfl).rest .now rfl
@[simp] theorem alertClear_boot (s : State) (b : Nat) : (alertClear s b).boot = s.boot :=
  (alertClear_moves s b (Moves.refl 262152 s) rfl).rest .boot rfl
@[simp] theorem alertClear_beat (s : State) (b : Nat) : (alertClear s b).beat = s.beat :=
  (alertClear_moves s b (Moves.refl 262152 s) rfl).rest .beat rfl
@[simp] theorem alertClear_cl (s : State) (b : Nat) : (alertClear s b).cl = s.cl :=
  (alertClear_moves s b (Moves.refl 262152 s) rfl).rest .cl rfl
@[simp] theorem alertClear_dl (s : State) (b : Nat) : (alertClear s b).dl = s.dl :=
  (alertClear_moves s b (Moves.refl 262152 s) rfl).rest .dl rfl
@[simp] theorem alertClear_tiers (s : State) (b : Nat) : (alertClear s b).tiers = s.tiers :=
  (alertClear_moves s b (Moves.refl 262152 s) rfl).rest .tiers rfl
@[simp] theorem alertClear_sync (s : State) (b : Nat) : (alertClear s b).sync = s.sync :=
  (alertClear_moves s b (Moves.refl 262152 s) rfl).rest .sync rfl
@[simp] theorem alertClear_fns (s : State) (b : Nat) : (alertClear s b).fns = s.fns :=
  (alertClear_moves s b (Moves.refl 262152 s) rfl).rest .fns rfl
@[simp] theorem alertClear_redeal (s : State) (b : Nat) : (alertClear s b).redeal = s.redeal :=
  (alertClear_moves s b (Moves.refl 262152 s) rfl).rest .redeal rfl
@[simp] theorem alertClear_fences (s : State) (b : Nat) : (alertClear s b).fences = s.fences :=
  (alertClear_moves s b (Moves.refl 262152 s) rfl).rest .fences rfl
@[simp] theorem alertClear_ecc (s : State) (b : Nat) : (alertClear s b).ecc = s.ecc :=
  (alertClear_moves s b (Moves.refl 262152 s) rfl).rest .ecc rfl
@[simp] theorem alertClear_link (s : State) (b : Nat) : (alertClear s b).link = s.link :=
  (alertClear_moves s b (Moves.refl 262152 s) rfl).rest .link rfl
@[simp] theorem alertClear_rounds (s : State) (b : Nat) : (alertClear s b).rounds = s.rounds :=
  (alertClear_moves s b (Moves.refl 262152 s) rfl).rest .rounds rfl
@[simp] theorem alertClear_dbg (s : State) (b : Nat) : (alertClear s b).dbg = s.dbg :=
  (alertClear_moves s b (Moves.refl 262152 s) rfl).rest .dbg rfl
@[simp] theorem alertClear_power (s : State) (b : Nat) : (alertClear s b).power = s.power :=
  (alertClear_moves s b (Moves.refl 262152 s) rfl).rest .power rfl
@[simp] theorem alertClear_pcie (s : State) (b : Nat) : (alertClear s b).pcie = s.pcie :=
  (alertClear_moves s b (Moves.refl 262152 s) rfl).rest .pcie rfl
@[simp] theorem alertClear_net (s : State) (b : Nat) : (alertClear s b).net = s.net :=
  (alertClear_moves s b (Moves.refl 262152 s) rfl).rest .net rfl
@[simp] theorem alertClear_asy (s : State) (b : Nat) : (alertClear s b).asy = s.asy :=
  (alertClear_moves s b (Moves.refl 262152 s) rfl).rest .asy rfl

@[simp] theorem postSteward_pending (s : State) (type : Nat) (cause : Nat) (body : List Byte) : (postSteward s type cause body).pending = s.pending :=
  (postSteward_moves s type cause body (Moves.refl 263240 s) rfl).rest .pending rfl
@[simp] theorem postSteward_held (s : State) (type : Nat) (cause : Nat) (body : List Byte) : (postSteward s type cause body).held = s.held :=
  (postSteward_moves s type cause body (Moves.refl 263240 s) rfl).rest .held rfl
@[simp] theorem postSteward_freeCtr (s : State) (type : Nat) (cause : Nat) (body : List Byte) : (postSteward s type cause body).freeCtr = s.freeCtr :=
  (postSteward_moves s type cause body (Moves.refl 263240 s) rfl).rest .freeCtr rfl
@[simp] theorem postSteward_now (s : State) (type : Nat) (cause : Nat) (body : List Byte) : (postSteward s type cause body).now = s.now :=
  (postSteward_moves s type cause body (Moves.refl 263240 s) rfl).rest .now rfl
@[simp] theorem postSteward_boot (s : State) (type : Nat) (cause : Nat) (body : List Byte) : (postSteward s type cause body).boot = s.boot :=
  (postSteward_moves s type cause body (Moves.refl 263240 s) rfl).rest .boot rfl
@[simp] theorem postSteward_beat (s : State) (type : Nat) (cause : Nat) (body : List Byte) : (postSteward s type cause body).beat = s.beat :=
  (postSteward_moves s type cause body (Moves.refl 263240 s) rfl).rest .beat rfl
@[simp] theorem postSteward_dl (s : State) (type : Nat) (cause : Nat) (body : List Byte) : (postSteward s type cause body).dl = s.dl :=
  (postSteward_moves s type cause body (Moves.refl 263240 s) rfl).rest .dl rfl
@[simp] theorem postSteward_tiers (s : State) (type : Nat) (cause : Nat) (body : List Byte) : (postSteward s type cause body).tiers = s.tiers :=
  (postSteward_moves s type cause body (Moves.refl 263240 s) rfl).rest .tiers rfl
@[simp] theorem postSteward_sync (s : State) (type : Nat) (cause : Nat) (body : List Byte) : (postSteward s type cause body).sync = s.sync :=
  (postSteward_moves s type cause body (Moves.refl 263240 s) rfl).rest .sync rfl
@[simp] theorem postSteward_redeal (s : State) (type : Nat) (cause : Nat) (body : List Byte) : (postSteward s type cause body).redeal = s.redeal :=
  (postSteward_moves s type cause body (Moves.refl 263240 s) rfl).rest .redeal rfl
@[simp] theorem postSteward_fences (s : State) (type : Nat) (cause : Nat) (body : List Byte) : (postSteward s type cause body).fences = s.fences :=
  (postSteward_moves s type cause body (Moves.refl 263240 s) rfl).rest .fences rfl
@[simp] theorem postSteward_ecc (s : State) (type : Nat) (cause : Nat) (body : List Byte) : (postSteward s type cause body).ecc = s.ecc :=
  (postSteward_moves s type cause body (Moves.refl 263240 s) rfl).rest .ecc rfl
@[simp] theorem postSteward_link (s : State) (type : Nat) (cause : Nat) (body : List Byte) : (postSteward s type cause body).link = s.link :=
  (postSteward_moves s type cause body (Moves.refl 263240 s) rfl).rest .link rfl
@[simp] theorem postSteward_rounds (s : State) (type : Nat) (cause : Nat) (body : List Byte) : (postSteward s type cause body).rounds = s.rounds :=
  (postSteward_moves s type cause body (Moves.refl 263240 s) rfl).rest .rounds rfl
@[simp] theorem postSteward_dbg (s : State) (type : Nat) (cause : Nat) (body : List Byte) : (postSteward s type cause body).dbg = s.dbg :=
  (postSteward_moves s type cause body (Moves.refl 263240 s) rfl).rest .dbg rfl
@[simp] theorem postSteward_power (s : State) (type : Nat) (cause : Nat) (body : List Byte) : (postSteward s type cause body).power = s.power :=
  (postSteward_moves s type cause body (Moves.refl 263240 s) rfl).rest .power rfl
@[simp] theorem postSteward_pcie (s : State) (type : Nat) (cause : Nat) (body : List Byte) : (postSteward s type cause body).pcie = s.pcie :=
  (postSteward_moves s type cause body (Moves.refl 263240 s) rfl).rest .pcie rfl
@[simp] theorem postSteward_net (s : State) (type : Nat) (cause : Nat) (body : List Byte) : (postSteward s type cause body).net = s.net :=
  (postSteward_moves s type cause body (Moves.refl 263240 s) rfl).rest .net rfl
@[simp] theorem postSteward_asy (s : State) (type : Nat) (cause : Nat) (body : List Byte) : (postSteward s type cause body).asy = s.asy :=
  (postSteward_moves s type cause body (Moves.refl 263240 s) rfl).rest .asy rfl

@[simp] theorem setDev_pending (s : State) (d : DevState) (cause : Nat) : (setDev s d cause).pending = s.pending :=
  (setDev_moves s d cause (Moves.refl 262168 s) rfl).rest .pending rfl
@[simp] theorem setDev_held (s : State) (d : DevState) (cause : Nat) : (setDev s d cause).held = s.held :=
  (setDev_moves s d cause (Moves.refl 262168 s) rfl).rest .held rfl
@[simp] theorem setDev_freeCtr (s : State) (d : DevState) (cause : Nat) : (setDev s d cause).freeCtr = s.freeCtr :=
  (setDev_moves s d cause (Moves.refl 262168 s) rfl).rest .freeCtr rfl
@[simp] theorem setDev_now (s : State) (d : DevState) (cause : Nat) : (setDev s d cause).now = s.now :=
  (setDev_moves s d cause (Moves.refl 262168 s) rfl).rest .now rfl
@[simp] theorem setDev_beat (s : State) (d : DevState) (cause : Nat) : (setDev s d cause).beat = s.beat :=
  (setDev_moves s d cause (Moves.refl 262168 s) rfl).rest .beat rfl
@[simp] theorem setDev_cl (s : State) (d : DevState) (cause : Nat) : (setDev s d cause).cl = s.cl :=
  (setDev_moves s d cause (Moves.refl 262168 s) rfl).rest .cl rfl
@[simp] theorem setDev_dl (s : State) (d : DevState) (cause : Nat) : (setDev s d cause).dl = s.dl :=
  (setDev_moves s d cause (Moves.refl 262168 s) rfl).rest .dl rfl
@[simp] theorem setDev_tiers (s : State) (d : DevState) (cause : Nat) : (setDev s d cause).tiers = s.tiers :=
  (setDev_moves s d cause (Moves.refl 262168 s) rfl).rest .tiers rfl
@[simp] theorem setDev_sync (s : State) (d : DevState) (cause : Nat) : (setDev s d cause).sync = s.sync :=
  (setDev_moves s d cause (Moves.refl 262168 s) rfl).rest .sync rfl
@[simp] theorem setDev_fns (s : State) (d : DevState) (cause : Nat) : (setDev s d cause).fns = s.fns :=
  (setDev_moves s d cause (Moves.refl 262168 s) rfl).rest .fns rfl
@[simp] theorem setDev_redeal (s : State) (d : DevState) (cause : Nat) : (setDev s d cause).redeal = s.redeal :=
  (setDev_moves s d cause (Moves.refl 262168 s) rfl).rest .redeal rfl
@[simp] theorem setDev_fences (s : State) (d : DevState) (cause : Nat) : (setDev s d cause).fences = s.fences :=
  (setDev_moves s d cause (Moves.refl 262168 s) rfl).rest .fences rfl
@[simp] theorem setDev_ecc (s : State) (d : DevState) (cause : Nat) : (setDev s d cause).ecc = s.ecc :=
  (setDev_moves s d cause (Moves.refl 262168 s) rfl).rest .ecc rfl
@[simp] theorem setDev_link (s : State) (d : DevState) (cause : Nat) : (setDev s d cause).link = s.link :=
  (setDev_moves s d cause (Moves.refl 262168 s) rfl).rest .link rfl
@[simp] theorem setDev_rounds (s : State) (d : DevState) (cause : Nat) : (setDev s d cause).rounds = s.rounds :=
  (setDev_moves s d cause (Moves.refl 262168 s) rfl).rest .rounds rfl
@[simp] theorem setDev_dbg (s : State) (d : DevState) (cause : Nat) : (setDev s d cause).dbg = s.dbg :=
  (setDev_moves s d cause (Moves.refl 262168 s) rfl).rest .dbg rfl
@[simp] theorem setDev_power (s : State) (d : DevState) (cause : Nat) : (setDev s d cause).power = s.power :=
  (setDev_moves s d cause (Moves.refl 262168 s) rfl).rest .power rfl
@[simp] theorem setDev_pcie (s : State) (d : DevState) (cause : Nat) : (setDev s d cause).pcie = s.pcie :=
  (setDev_moves s d cause (Moves.refl 262168 s) rfl).rest .pcie rfl
@[simp] theorem setDev_net (s : State) (d : DevState) (cause : Nat) : (setDev s d cause).net = s.net :=
  (setDev_moves s d cause (Moves.refl 262168 s) rfl).rest .net rfl
@[simp] theorem setDev_asy (s : State) (d : DevState) (cause : Nat) : (setDev s d cause).asy = s.asy :=
  (setDev_moves s d cause (Moves.refl 262168 s) rfl).rest .asy rfl

@[simp] theorem setLevel_pending (s : State) (l : Nat) : (setLevel s l).pending = s.pending :=
  (setLevel_moves s l (Moves.refl 393224 s) rfl).rest .pending rfl
@[simp] theorem setLevel_held (s : State) (l : Nat) : (setLevel s l).held = s.held :=
  (setLevel_moves s l (Moves.refl 393224 s) rfl).rest .held rfl
@[simp] theorem setLevel_freeCtr (s : State) (l : Nat) : (setLevel s l).freeCtr = s.freeCtr :=
  (setLevel_moves s l (Moves.refl 393224 s) rfl).rest .freeCtr rfl
@[simp] theorem setLevel_now (s : State) (l : Nat) : (setLevel s l).now = s.now :=
  (setLevel_moves s l (Moves.refl 393224 s) rfl).rest .now rfl
@[simp] theorem setLevel_boot (s : State) (l : Nat) : (setLevel s l).boot = s.boot :=
  (setLevel_moves s l (Moves.refl 393224 s) rfl).rest .boot rfl
@[simp] theorem setLevel_beat (s : State) (l : Nat) : (setLevel s l).beat = s.beat :=
  (setLevel_moves s l (Moves.refl 393224 s) rfl).rest .beat rfl
@[simp] theorem setLevel_cl (s : State) (l : Nat) : (setLevel s l).cl = s.cl :=
  (setLevel_moves s l (Moves.refl 393224 s) rfl).rest .cl rfl
@[simp] theorem setLevel_dl (s : State) (l : Nat) : (setLevel s l).dl = s.dl :=
  (setLevel_moves s l (Moves.refl 393224 s) rfl).rest .dl rfl
@[simp] theorem setLevel_tiers (s : State) (l : Nat) : (setLevel s l).tiers = s.tiers :=
  (setLevel_moves s l (Moves.refl 393224 s) rfl).rest .tiers rfl
@[simp] theorem setLevel_sync (s : State) (l : Nat) : (setLevel s l).sync = s.sync :=
  (setLevel_moves s l (Moves.refl 393224 s) rfl).rest .sync rfl
@[simp] theorem setLevel_fns (s : State) (l : Nat) : (setLevel s l).fns = s.fns :=
  (setLevel_moves s l (Moves.refl 393224 s) rfl).rest .fns rfl
@[simp] theorem setLevel_redeal (s : State) (l : Nat) : (setLevel s l).redeal = s.redeal :=
  (setLevel_moves s l (Moves.refl 393224 s) rfl).rest .redeal rfl
@[simp] theorem setLevel_fences (s : State) (l : Nat) : (setLevel s l).fences = s.fences :=
  (setLevel_moves s l (Moves.refl 393224 s) rfl).rest .fences rfl
@[simp] theorem setLevel_ecc (s : State) (l : Nat) : (setLevel s l).ecc = s.ecc :=
  (setLevel_moves s l (Moves.refl 393224 s) rfl).rest .ecc rfl
@[simp] theorem setLevel_link (s : State) (l : Nat) : (setLevel s l).link = s.link :=
  (setLevel_moves s l (Moves.refl 393224 s) rfl).rest .link rfl
@[simp] theorem setLevel_rounds (s : State) (l : Nat) : (setLevel s l).rounds = s.rounds :=
  (setLevel_moves s l (Moves.refl 393224 s) rfl).rest .rounds rfl
@[simp] theorem setLevel_dbg (s : State) (l : Nat) : (setLevel s l).dbg = s.dbg :=
  (setLevel_moves s l (Moves.refl 393224 s) rfl).rest .dbg rfl
@[simp] theorem setLevel_pcie (s : State) (l : Nat) : (setLevel s l).pcie = s.pcie :=
  (setLevel_moves s l (Moves.refl 393224 s) rfl).rest .pcie rfl
@[simp] theorem setLevel_net (s : State) (l : Nat) : (setLevel s l).net = s.net :=
  (setLevel_moves s l (Moves.refl 393224 s) rfl).rest .net rfl
@[simp] theorem setLevel_asy (s : State) (l : Nat) : (setLevel s l).asy = s.asy :=
  (setLevel_moves s l (Moves.refl 393224 s) rfl).rest .asy rfl

@[simp] theorem raiseVector_pending (s : State) (fn : Nat) (v : Nat) : (raiseVector s fn v).pending = s.pending :=
  (raiseVector_moves s fn v (Moves.refl 1032 s) rfl).rest .pending rfl
@[simp] theorem raiseVector_held (s : State) (fn : Nat) (v : Nat) : (raiseVector s fn v).held = s.held :=
  (raiseVector_moves s fn v (Moves.refl 1032 s) rfl).rest .held rfl
@[simp] theorem raiseVector_freeCtr (s : State) (fn : Nat) (v : Nat) : (raiseVector s fn v).freeCtr = s.freeCtr :=
  (raiseVector_moves s fn v (Moves.refl 1032 s) rfl).rest .freeCtr rfl
@[simp] theorem raiseVector_now (s : State) (fn : Nat) (v : Nat) : (raiseVector s fn v).now = s.now :=
  (raiseVector_moves s fn v (Moves.refl 1032 s) rfl).rest .now rfl
@[simp] theorem raiseVector_boot (s : State) (fn : Nat) (v : Nat) : (raiseVector s fn v).boot = s.boot :=
  (raiseVector_moves s fn v (Moves.refl 1032 s) rfl).rest .boot rfl
@[simp] theorem raiseVector_beat (s : State) (fn : Nat) (v : Nat) : (raiseVector s fn v).beat = s.beat :=
  (raiseVector_moves s fn v (Moves.refl 1032 s) rfl).rest .beat rfl
@[simp] theorem raiseVector_cl (s : State) (fn : Nat) (v : Nat) : (raiseVector s fn v).cl = s.cl :=
  (raiseVector_moves s fn v (Moves.refl 1032 s) rfl).rest .cl rfl
@[simp] theorem raiseVector_dl (s : State) (fn : Nat) (v : Nat) : (raiseVector s fn v).dl = s.dl :=
  (raiseVector_moves s fn v (Moves.refl 1032 s) rfl).rest .dl rfl
@[simp] theorem raiseVector_tiers (s : State) (fn : Nat) (v : Nat) : (raiseVector s fn v).tiers = s.tiers :=
  (raiseVector_moves s fn v (Moves.refl 1032 s) rfl).rest .tiers rfl
@[simp] theorem raiseVector_sync (s : State) (fn : Nat) (v : Nat) : (raiseVector s fn v).sync = s.sync :=
  (raiseVector_moves s fn v (Moves.refl 1032 s) rfl).rest .sync rfl
@[simp] theorem raiseVector_redeal (s : State) (fn : Nat) (v : Nat) : (raiseVector s fn v).redeal = s.redeal :=
  (raiseVector_moves s fn v (Moves.refl 1032 s) rfl).rest .redeal rfl
@[simp] theorem raiseVector_fences (s : State) (fn : Nat) (v : Nat) : (raiseVector s fn v).fences = s.fences :=
  (raiseVector_moves s fn v (Moves.refl 1032 s) rfl).rest .fences rfl
@[simp] theorem raiseVector_ecc (s : State) (fn : Nat) (v : Nat) : (raiseVector s fn v).ecc = s.ecc :=
  (raiseVector_moves s fn v (Moves.refl 1032 s) rfl).rest .ecc rfl
@[simp] theorem raiseVector_link (s : State) (fn : Nat) (v : Nat) : (raiseVector s fn v).link = s.link :=
  (raiseVector_moves s fn v (Moves.refl 1032 s) rfl).rest .link rfl
@[simp] theorem raiseVector_rounds (s : State) (fn : Nat) (v : Nat) : (raiseVector s fn v).rounds = s.rounds :=
  (raiseVector_moves s fn v (Moves.refl 1032 s) rfl).rest .rounds rfl
@[simp] theorem raiseVector_dbg (s : State) (fn : Nat) (v : Nat) : (raiseVector s fn v).dbg = s.dbg :=
  (raiseVector_moves s fn v (Moves.refl 1032 s) rfl).rest .dbg rfl
@[simp] theorem raiseVector_power (s : State) (fn : Nat) (v : Nat) : (raiseVector s fn v).power = s.power :=
  (raiseVector_moves s fn v (Moves.refl 1032 s) rfl).rest .power rfl
@[simp] theorem raiseVector_mgmt (s : State) (fn : Nat) (v : Nat) : (raiseVector s fn v).mgmt = s.mgmt :=
  (raiseVector_moves s fn v (Moves.refl 1032 s) rfl).rest .mgmt rfl
@[simp] theorem raiseVector_pcie (s : State) (fn : Nat) (v : Nat) : (raiseVector s fn v).pcie = s.pcie :=
  (raiseVector_moves s fn v (Moves.refl 1032 s) rfl).rest .pcie rfl
@[simp] theorem raiseVector_net (s : State) (fn : Nat) (v : Nat) : (raiseVector s fn v).net = s.net :=
  (raiseVector_moves s fn v (Moves.refl 1032 s) rfl).rest .net rfl
@[simp] theorem raiseVector_asy (s : State) (fn : Nat) (v : Nat) : (raiseVector s fn v).asy = s.asy :=
  (raiseVector_moves s fn v (Moves.refl 1032 s) rfl).rest .asy rfl

@[simp] theorem raiseSource_pending (s : State) (n : Nat) (src : Nat) : (raiseSource s n src).pending = s.pending :=
  (raiseSource_moves s n src (Moves.refl 1032 s) rfl).rest .pending rfl
@[simp] theorem raiseSource_held (s : State) (n : Nat) (src : Nat) : (raiseSource s n src).held = s.held :=
  (raiseSource_moves s n src (Moves.refl 1032 s) rfl).rest .held rfl
@[simp] theorem raiseSource_freeCtr (s : State) (n : Nat) (src : Nat) : (raiseSource s n src).freeCtr = s.freeCtr :=
  (raiseSource_moves s n src (Moves.refl 1032 s) rfl).rest .freeCtr rfl
@[simp] theorem raiseSource_now (s : State) (n : Nat) (src : Nat) : (raiseSource s n src).now = s.now :=
  (raiseSource_moves s n src (Moves.refl 1032 s) rfl).rest .now rfl
@[simp] theorem raiseSource_boot (s : State) (n : Nat) (src : Nat) : (raiseSource s n src).boot = s.boot :=
  (raiseSource_moves s n src (Moves.refl 1032 s) rfl).rest .boot rfl
@[simp] theorem raiseSource_beat (s : State) (n : Nat) (src : Nat) : (raiseSource s n src).beat = s.beat :=
  (raiseSource_moves s n src (Moves.refl 1032 s) rfl).rest .beat rfl
@[simp] theorem raiseSource_cl (s : State) (n : Nat) (src : Nat) : (raiseSource s n src).cl = s.cl :=
  (raiseSource_moves s n src (Moves.refl 1032 s) rfl).rest .cl rfl
@[simp] theorem raiseSource_dl (s : State) (n : Nat) (src : Nat) : (raiseSource s n src).dl = s.dl :=
  (raiseSource_moves s n src (Moves.refl 1032 s) rfl).rest .dl rfl
@[simp] theorem raiseSource_tiers (s : State) (n : Nat) (src : Nat) : (raiseSource s n src).tiers = s.tiers :=
  (raiseSource_moves s n src (Moves.refl 1032 s) rfl).rest .tiers rfl
@[simp] theorem raiseSource_sync (s : State) (n : Nat) (src : Nat) : (raiseSource s n src).sync = s.sync :=
  (raiseSource_moves s n src (Moves.refl 1032 s) rfl).rest .sync rfl
@[simp] theorem raiseSource_redeal (s : State) (n : Nat) (src : Nat) : (raiseSource s n src).redeal = s.redeal :=
  (raiseSource_moves s n src (Moves.refl 1032 s) rfl).rest .redeal rfl
@[simp] theorem raiseSource_fences (s : State) (n : Nat) (src : Nat) : (raiseSource s n src).fences = s.fences :=
  (raiseSource_moves s n src (Moves.refl 1032 s) rfl).rest .fences rfl
@[simp] theorem raiseSource_ecc (s : State) (n : Nat) (src : Nat) : (raiseSource s n src).ecc = s.ecc :=
  (raiseSource_moves s n src (Moves.refl 1032 s) rfl).rest .ecc rfl
@[simp] theorem raiseSource_link (s : State) (n : Nat) (src : Nat) : (raiseSource s n src).link = s.link :=
  (raiseSource_moves s n src (Moves.refl 1032 s) rfl).rest .link rfl
@[simp] theorem raiseSource_rounds (s : State) (n : Nat) (src : Nat) : (raiseSource s n src).rounds = s.rounds :=
  (raiseSource_moves s n src (Moves.refl 1032 s) rfl).rest .rounds rfl
@[simp] theorem raiseSource_dbg (s : State) (n : Nat) (src : Nat) : (raiseSource s n src).dbg = s.dbg :=
  (raiseSource_moves s n src (Moves.refl 1032 s) rfl).rest .dbg rfl
@[simp] theorem raiseSource_power (s : State) (n : Nat) (src : Nat) : (raiseSource s n src).power = s.power :=
  (raiseSource_moves s n src (Moves.refl 1032 s) rfl).rest .power rfl
@[simp] theorem raiseSource_mgmt (s : State) (n : Nat) (src : Nat) : (raiseSource s n src).mgmt = s.mgmt :=
  (raiseSource_moves s n src (Moves.refl 1032 s) rfl).rest .mgmt rfl
@[simp] theorem raiseSource_pcie (s : State) (n : Nat) (src : Nat) : (raiseSource s n src).pcie = s.pcie :=
  (raiseSource_moves s n src (Moves.refl 1032 s) rfl).rest .pcie rfl
@[simp] theorem raiseSource_net (s : State) (n : Nat) (src : Nat) : (raiseSource s n src).net = s.net :=
  (raiseSource_moves s n src (Moves.refl 1032 s) rfl).rest .net rfl
@[simp] theorem raiseSource_asy (s : State) (n : Nat) (src : Nat) : (raiseSource s n src).asy = s.asy :=
  (raiseSource_moves s n src (Moves.refl 1032 s) rfl).rest .asy rfl

@[simp] theorem writeRecords_pending (s : State) (n : Nat) (type : Nat) (cause : Nat) (x4 : List (List Byte)) : (writeRecords s n type cause x4).pending = s.pending :=
  (writeRecords_moves s n type cause x4 (Moves.refl 72 s) rfl).rest .pending rfl
@[simp] theorem writeRecords_held (s : State) (n : Nat) (type : Nat) (cause : Nat) (x4 : List (List Byte)) : (writeRecords s n type cause x4).held = s.held :=
  (writeRecords_moves s n type cause x4 (Moves.refl 72 s) rfl).rest .held rfl
@[simp] theorem writeRecords_freeCtr (s : State) (n : Nat) (type : Nat) (cause : Nat) (x4 : List (List Byte)) : (writeRecords s n type cause x4).freeCtr = s.freeCtr :=
  (writeRecords_moves s n type cause x4 (Moves.refl 72 s) rfl).rest .freeCtr rfl
@[simp] theorem writeRecords_now (s : State) (n : Nat) (type : Nat) (cause : Nat) (x4 : List (List Byte)) : (writeRecords s n type cause x4).now = s.now :=
  (writeRecords_moves s n type cause x4 (Moves.refl 72 s) rfl).rest .now rfl
@[simp] theorem writeRecords_boot (s : State) (n : Nat) (type : Nat) (cause : Nat) (x4 : List (List Byte)) : (writeRecords s n type cause x4).boot = s.boot :=
  (writeRecords_moves s n type cause x4 (Moves.refl 72 s) rfl).rest .boot rfl
@[simp] theorem writeRecords_beat (s : State) (n : Nat) (type : Nat) (cause : Nat) (x4 : List (List Byte)) : (writeRecords s n type cause x4).beat = s.beat :=
  (writeRecords_moves s n type cause x4 (Moves.refl 72 s) rfl).rest .beat rfl
@[simp] theorem writeRecords_dl (s : State) (n : Nat) (type : Nat) (cause : Nat) (x4 : List (List Byte)) : (writeRecords s n type cause x4).dl = s.dl :=
  (writeRecords_moves s n type cause x4 (Moves.refl 72 s) rfl).rest .dl rfl
@[simp] theorem writeRecords_tiers (s : State) (n : Nat) (type : Nat) (cause : Nat) (x4 : List (List Byte)) : (writeRecords s n type cause x4).tiers = s.tiers :=
  (writeRecords_moves s n type cause x4 (Moves.refl 72 s) rfl).rest .tiers rfl
@[simp] theorem writeRecords_sync (s : State) (n : Nat) (type : Nat) (cause : Nat) (x4 : List (List Byte)) : (writeRecords s n type cause x4).sync = s.sync :=
  (writeRecords_moves s n type cause x4 (Moves.refl 72 s) rfl).rest .sync rfl
@[simp] theorem writeRecords_fns (s : State) (n : Nat) (type : Nat) (cause : Nat) (x4 : List (List Byte)) : (writeRecords s n type cause x4).fns = s.fns :=
  (writeRecords_moves s n type cause x4 (Moves.refl 72 s) rfl).rest .fns rfl
@[simp] theorem writeRecords_redeal (s : State) (n : Nat) (type : Nat) (cause : Nat) (x4 : List (List Byte)) : (writeRecords s n type cause x4).redeal = s.redeal :=
  (writeRecords_moves s n type cause x4 (Moves.refl 72 s) rfl).rest .redeal rfl
@[simp] theorem writeRecords_fences (s : State) (n : Nat) (type : Nat) (cause : Nat) (x4 : List (List Byte)) : (writeRecords s n type cause x4).fences = s.fences :=
  (writeRecords_moves s n type cause x4 (Moves.refl 72 s) rfl).rest .fences rfl
@[simp] theorem writeRecords_ecc (s : State) (n : Nat) (type : Nat) (cause : Nat) (x4 : List (List Byte)) : (writeRecords s n type cause x4).ecc = s.ecc :=
  (writeRecords_moves s n type cause x4 (Moves.refl 72 s) rfl).rest .ecc rfl
@[simp] theorem writeRecords_link (s : State) (n : Nat) (type : Nat) (cause : Nat) (x4 : List (List Byte)) : (writeRecords s n type cause x4).link = s.link :=
  (writeRecords_moves s n type cause x4 (Moves.refl 72 s) rfl).rest .link rfl
@[simp] theorem writeRecords_rounds (s : State) (n : Nat) (type : Nat) (cause : Nat) (x4 : List (List Byte)) : (writeRecords s n type cause x4).rounds = s.rounds :=
  (writeRecords_moves s n type cause x4 (Moves.refl 72 s) rfl).rest .rounds rfl
@[simp] theorem writeRecords_dbg (s : State) (n : Nat) (type : Nat) (cause : Nat) (x4 : List (List Byte)) : (writeRecords s n type cause x4).dbg = s.dbg :=
  (writeRecords_moves s n type cause x4 (Moves.refl 72 s) rfl).rest .dbg rfl
@[simp] theorem writeRecords_power (s : State) (n : Nat) (type : Nat) (cause : Nat) (x4 : List (List Byte)) : (writeRecords s n type cause x4).power = s.power :=
  (writeRecords_moves s n type cause x4 (Moves.refl 72 s) rfl).rest .power rfl
@[simp] theorem writeRecords_mgmt (s : State) (n : Nat) (type : Nat) (cause : Nat) (x4 : List (List Byte)) : (writeRecords s n type cause x4).mgmt = s.mgmt :=
  (writeRecords_moves s n type cause x4 (Moves.refl 72 s) rfl).rest .mgmt rfl
@[simp] theorem writeRecords_pcie (s : State) (n : Nat) (type : Nat) (cause : Nat) (x4 : List (List Byte)) : (writeRecords s n type cause x4).pcie = s.pcie :=
  (writeRecords_moves s n type cause x4 (Moves.refl 72 s) rfl).rest .pcie rfl
@[simp] theorem writeRecords_net (s : State) (n : Nat) (type : Nat) (cause : Nat) (x4 : List (List Byte)) : (writeRecords s n type cause x4).net = s.net :=
  (writeRecords_moves s n type cause x4 (Moves.refl 72 s) rfl).rest .net rfl
@[simp] theorem writeRecords_asy (s : State) (n : Nat) (type : Nat) (cause : Nat) (x4 : List (List Byte)) : (writeRecords s n type cause x4).asy = s.asy :=
  (writeRecords_moves s n type cause x4 (Moves.refl 72 s) rfl).rest .asy rfl

@[simp] theorem eventLost_pending (s : State) (n : Nat) : (eventLost s n).pending = s.pending :=
  (eventLost_moves s n (Moves.refl 1096 s) rfl).rest .pending rfl
@[simp] theorem eventLost_held (s : State) (n : Nat) : (eventLost s n).held = s.held :=
  (eventLost_moves s n (Moves.refl 1096 s) rfl).rest .held rfl
@[simp] theorem eventLost_freeCtr (s : State) (n : Nat) : (eventLost s n).freeCtr = s.freeCtr :=
  (eventLost_moves s n (Moves.refl 1096 s) rfl).rest .freeCtr rfl
@[simp] theorem eventLost_now (s : State) (n : Nat) : (eventLost s n).now = s.now :=
  (eventLost_moves s n (Moves.refl 1096 s) rfl).rest .now rfl
@[simp] theorem eventLost_boot (s : State) (n : Nat) : (eventLost s n).boot = s.boot :=
  (eventLost_moves s n (Moves.refl 1096 s) rfl).rest .boot rfl
@[simp] theorem eventLost_beat (s : State) (n : Nat) : (eventLost s n).beat = s.beat :=
  (eventLost_moves s n (Moves.refl 1096 s) rfl).rest .beat rfl
@[simp] theorem eventLost_dl (s : State) (n : Nat) : (eventLost s n).dl = s.dl :=
  (eventLost_moves s n (Moves.refl 1096 s) rfl).rest .dl rfl
@[simp] theorem eventLost_tiers (s : State) (n : Nat) : (eventLost s n).tiers = s.tiers :=
  (eventLost_moves s n (Moves.refl 1096 s) rfl).rest .tiers rfl
@[simp] theorem eventLost_sync (s : State) (n : Nat) : (eventLost s n).sync = s.sync :=
  (eventLost_moves s n (Moves.refl 1096 s) rfl).rest .sync rfl
@[simp] theorem eventLost_redeal (s : State) (n : Nat) : (eventLost s n).redeal = s.redeal :=
  (eventLost_moves s n (Moves.refl 1096 s) rfl).rest .redeal rfl
@[simp] theorem eventLost_fences (s : State) (n : Nat) : (eventLost s n).fences = s.fences :=
  (eventLost_moves s n (Moves.refl 1096 s) rfl).rest .fences rfl
@[simp] theorem eventLost_ecc (s : State) (n : Nat) : (eventLost s n).ecc = s.ecc :=
  (eventLost_moves s n (Moves.refl 1096 s) rfl).rest .ecc rfl
@[simp] theorem eventLost_link (s : State) (n : Nat) : (eventLost s n).link = s.link :=
  (eventLost_moves s n (Moves.refl 1096 s) rfl).rest .link rfl
@[simp] theorem eventLost_rounds (s : State) (n : Nat) : (eventLost s n).rounds = s.rounds :=
  (eventLost_moves s n (Moves.refl 1096 s) rfl).rest .rounds rfl
@[simp] theorem eventLost_dbg (s : State) (n : Nat) : (eventLost s n).dbg = s.dbg :=
  (eventLost_moves s n (Moves.refl 1096 s) rfl).rest .dbg rfl
@[simp] theorem eventLost_power (s : State) (n : Nat) : (eventLost s n).power = s.power :=
  (eventLost_moves s n (Moves.refl 1096 s) rfl).rest .power rfl
@[simp] theorem eventLost_mgmt (s : State) (n : Nat) : (eventLost s n).mgmt = s.mgmt :=
  (eventLost_moves s n (Moves.refl 1096 s) rfl).rest .mgmt rfl
@[simp] theorem eventLost_pcie (s : State) (n : Nat) : (eventLost s n).pcie = s.pcie :=
  (eventLost_moves s n (Moves.refl 1096 s) rfl).rest .pcie rfl
@[simp] theorem eventLost_net (s : State) (n : Nat) : (eventLost s n).net = s.net :=
  (eventLost_moves s n (Moves.refl 1096 s) rfl).rest .net rfl
@[simp] theorem eventLost_asy (s : State) (n : Nat) : (eventLost s n).asy = s.asy :=
  (eventLost_moves s n (Moves.refl 1096 s) rfl).rest .asy rfl

@[simp] theorem writeEvent_pending (s : State) (n : Nat) (type : Nat) (cause : Nat) (bodies : List (List Byte)) : (writeEvent s n type cause bodies).pending = s.pending :=
  (writeEvent_moves s n type cause bodies (Moves.refl 1096 s) rfl).rest .pending rfl
@[simp] theorem writeEvent_held (s : State) (n : Nat) (type : Nat) (cause : Nat) (bodies : List (List Byte)) : (writeEvent s n type cause bodies).held = s.held :=
  (writeEvent_moves s n type cause bodies (Moves.refl 1096 s) rfl).rest .held rfl
@[simp] theorem writeEvent_freeCtr (s : State) (n : Nat) (type : Nat) (cause : Nat) (bodies : List (List Byte)) : (writeEvent s n type cause bodies).freeCtr = s.freeCtr :=
  (writeEvent_moves s n type cause bodies (Moves.refl 1096 s) rfl).rest .freeCtr rfl
@[simp] theorem writeEvent_now (s : State) (n : Nat) (type : Nat) (cause : Nat) (bodies : List (List Byte)) : (writeEvent s n type cause bodies).now = s.now :=
  (writeEvent_moves s n type cause bodies (Moves.refl 1096 s) rfl).rest .now rfl
@[simp] theorem writeEvent_boot (s : State) (n : Nat) (type : Nat) (cause : Nat) (bodies : List (List Byte)) : (writeEvent s n type cause bodies).boot = s.boot :=
  (writeEvent_moves s n type cause bodies (Moves.refl 1096 s) rfl).rest .boot rfl
@[simp] theorem writeEvent_beat (s : State) (n : Nat) (type : Nat) (cause : Nat) (bodies : List (List Byte)) : (writeEvent s n type cause bodies).beat = s.beat :=
  (writeEvent_moves s n type cause bodies (Moves.refl 1096 s) rfl).rest .beat rfl
@[simp] theorem writeEvent_dl (s : State) (n : Nat) (type : Nat) (cause : Nat) (bodies : List (List Byte)) : (writeEvent s n type cause bodies).dl = s.dl :=
  (writeEvent_moves s n type cause bodies (Moves.refl 1096 s) rfl).rest .dl rfl
@[simp] theorem writeEvent_tiers (s : State) (n : Nat) (type : Nat) (cause : Nat) (bodies : List (List Byte)) : (writeEvent s n type cause bodies).tiers = s.tiers :=
  (writeEvent_moves s n type cause bodies (Moves.refl 1096 s) rfl).rest .tiers rfl
@[simp] theorem writeEvent_sync (s : State) (n : Nat) (type : Nat) (cause : Nat) (bodies : List (List Byte)) : (writeEvent s n type cause bodies).sync = s.sync :=
  (writeEvent_moves s n type cause bodies (Moves.refl 1096 s) rfl).rest .sync rfl
@[simp] theorem writeEvent_redeal (s : State) (n : Nat) (type : Nat) (cause : Nat) (bodies : List (List Byte)) : (writeEvent s n type cause bodies).redeal = s.redeal :=
  (writeEvent_moves s n type cause bodies (Moves.refl 1096 s) rfl).rest .redeal rfl
@[simp] theorem writeEvent_fences (s : State) (n : Nat) (type : Nat) (cause : Nat) (bodies : List (List Byte)) : (writeEvent s n type cause bodies).fences = s.fences :=
  (writeEvent_moves s n type cause bodies (Moves.refl 1096 s) rfl).rest .fences rfl
@[simp] theorem writeEvent_ecc (s : State) (n : Nat) (type : Nat) (cause : Nat) (bodies : List (List Byte)) : (writeEvent s n type cause bodies).ecc = s.ecc :=
  (writeEvent_moves s n type cause bodies (Moves.refl 1096 s) rfl).rest .ecc rfl
@[simp] theorem writeEvent_link (s : State) (n : Nat) (type : Nat) (cause : Nat) (bodies : List (List Byte)) : (writeEvent s n type cause bodies).link = s.link :=
  (writeEvent_moves s n type cause bodies (Moves.refl 1096 s) rfl).rest .link rfl
@[simp] theorem writeEvent_rounds (s : State) (n : Nat) (type : Nat) (cause : Nat) (bodies : List (List Byte)) : (writeEvent s n type cause bodies).rounds = s.rounds :=
  (writeEvent_moves s n type cause bodies (Moves.refl 1096 s) rfl).rest .rounds rfl
@[simp] theorem writeEvent_dbg (s : State) (n : Nat) (type : Nat) (cause : Nat) (bodies : List (List Byte)) : (writeEvent s n type cause bodies).dbg = s.dbg :=
  (writeEvent_moves s n type cause bodies (Moves.refl 1096 s) rfl).rest .dbg rfl
@[simp] theorem writeEvent_power (s : State) (n : Nat) (type : Nat) (cause : Nat) (bodies : List (List Byte)) : (writeEvent s n type cause bodies).power = s.power :=
  (writeEvent_moves s n type cause bodies (Moves.refl 1096 s) rfl).rest .power rfl
@[simp] theorem writeEvent_mgmt (s : State) (n : Nat) (type : Nat) (cause : Nat) (bodies : List (List Byte)) : (writeEvent s n type cause bodies).mgmt = s.mgmt :=
  (writeEvent_moves s n type cause bodies (Moves.refl 1096 s) rfl).rest .mgmt rfl
@[simp] theorem writeEvent_pcie (s : State) (n : Nat) (type : Nat) (cause : Nat) (bodies : List (List Byte)) : (writeEvent s n type cause bodies).pcie = s.pcie :=
  (writeEvent_moves s n type cause bodies (Moves.refl 1096 s) rfl).rest .pcie rfl
@[simp] theorem writeEvent_net (s : State) (n : Nat) (type : Nat) (cause : Nat) (bodies : List (List Byte)) : (writeEvent s n type cause bodies).net = s.net :=
  (writeEvent_moves s n type cause bodies (Moves.refl 1096 s) rfl).rest .net rfl
@[simp] theorem writeEvent_asy (s : State) (n : Nat) (type : Nat) (cause : Nat) (bodies : List (List Byte)) : (writeEvent s n type cause bodies).asy = s.asy :=
  (writeEvent_moves s n type cause bodies (Moves.refl 1096 s) rfl).rest .asy rfl

@[simp] theorem postEvent_pending (s : State) (n : Nat) (type : Nat) (cause : Nat) (bodies : List (List Byte)) : (postEvent s n type cause bodies).pending = s.pending :=
  (postEvent_moves s n type cause bodies (Moves.refl 1096 s) rfl).rest .pending rfl
@[simp] theorem postEvent_held (s : State) (n : Nat) (type : Nat) (cause : Nat) (bodies : List (List Byte)) : (postEvent s n type cause bodies).held = s.held :=
  (postEvent_moves s n type cause bodies (Moves.refl 1096 s) rfl).rest .held rfl
@[simp] theorem postEvent_freeCtr (s : State) (n : Nat) (type : Nat) (cause : Nat) (bodies : List (List Byte)) : (postEvent s n type cause bodies).freeCtr = s.freeCtr :=
  (postEvent_moves s n type cause bodies (Moves.refl 1096 s) rfl).rest .freeCtr rfl
@[simp] theorem postEvent_now (s : State) (n : Nat) (type : Nat) (cause : Nat) (bodies : List (List Byte)) : (postEvent s n type cause bodies).now = s.now :=
  (postEvent_moves s n type cause bodies (Moves.refl 1096 s) rfl).rest .now rfl
@[simp] theorem postEvent_boot (s : State) (n : Nat) (type : Nat) (cause : Nat) (bodies : List (List Byte)) : (postEvent s n type cause bodies).boot = s.boot :=
  (postEvent_moves s n type cause bodies (Moves.refl 1096 s) rfl).rest .boot rfl
@[simp] theorem postEvent_beat (s : State) (n : Nat) (type : Nat) (cause : Nat) (bodies : List (List Byte)) : (postEvent s n type cause bodies).beat = s.beat :=
  (postEvent_moves s n type cause bodies (Moves.refl 1096 s) rfl).rest .beat rfl
@[simp] theorem postEvent_dl (s : State) (n : Nat) (type : Nat) (cause : Nat) (bodies : List (List Byte)) : (postEvent s n type cause bodies).dl = s.dl :=
  (postEvent_moves s n type cause bodies (Moves.refl 1096 s) rfl).rest .dl rfl
@[simp] theorem postEvent_tiers (s : State) (n : Nat) (type : Nat) (cause : Nat) (bodies : List (List Byte)) : (postEvent s n type cause bodies).tiers = s.tiers :=
  (postEvent_moves s n type cause bodies (Moves.refl 1096 s) rfl).rest .tiers rfl
@[simp] theorem postEvent_sync (s : State) (n : Nat) (type : Nat) (cause : Nat) (bodies : List (List Byte)) : (postEvent s n type cause bodies).sync = s.sync :=
  (postEvent_moves s n type cause bodies (Moves.refl 1096 s) rfl).rest .sync rfl
@[simp] theorem postEvent_redeal (s : State) (n : Nat) (type : Nat) (cause : Nat) (bodies : List (List Byte)) : (postEvent s n type cause bodies).redeal = s.redeal :=
  (postEvent_moves s n type cause bodies (Moves.refl 1096 s) rfl).rest .redeal rfl
@[simp] theorem postEvent_fences (s : State) (n : Nat) (type : Nat) (cause : Nat) (bodies : List (List Byte)) : (postEvent s n type cause bodies).fences = s.fences :=
  (postEvent_moves s n type cause bodies (Moves.refl 1096 s) rfl).rest .fences rfl
@[simp] theorem postEvent_ecc (s : State) (n : Nat) (type : Nat) (cause : Nat) (bodies : List (List Byte)) : (postEvent s n type cause bodies).ecc = s.ecc :=
  (postEvent_moves s n type cause bodies (Moves.refl 1096 s) rfl).rest .ecc rfl
@[simp] theorem postEvent_link (s : State) (n : Nat) (type : Nat) (cause : Nat) (bodies : List (List Byte)) : (postEvent s n type cause bodies).link = s.link :=
  (postEvent_moves s n type cause bodies (Moves.refl 1096 s) rfl).rest .link rfl
@[simp] theorem postEvent_rounds (s : State) (n : Nat) (type : Nat) (cause : Nat) (bodies : List (List Byte)) : (postEvent s n type cause bodies).rounds = s.rounds :=
  (postEvent_moves s n type cause bodies (Moves.refl 1096 s) rfl).rest .rounds rfl
@[simp] theorem postEvent_dbg (s : State) (n : Nat) (type : Nat) (cause : Nat) (bodies : List (List Byte)) : (postEvent s n type cause bodies).dbg = s.dbg :=
  (postEvent_moves s n type cause bodies (Moves.refl 1096 s) rfl).rest .dbg rfl
@[simp] theorem postEvent_power (s : State) (n : Nat) (type : Nat) (cause : Nat) (bodies : List (List Byte)) : (postEvent s n type cause bodies).power = s.power :=
  (postEvent_moves s n type cause bodies (Moves.refl 1096 s) rfl).rest .power rfl
@[simp] theorem postEvent_mgmt (s : State) (n : Nat) (type : Nat) (cause : Nat) (bodies : List (List Byte)) : (postEvent s n type cause bodies).mgmt = s.mgmt :=
  (postEvent_moves s n type cause bodies (Moves.refl 1096 s) rfl).rest .mgmt rfl
@[simp] theorem postEvent_pcie (s : State) (n : Nat) (type : Nat) (cause : Nat) (bodies : List (List Byte)) : (postEvent s n type cause bodies).pcie = s.pcie :=
  (postEvent_moves s n type cause bodies (Moves.refl 1096 s) rfl).rest .pcie rfl
@[simp] theorem postEvent_net (s : State) (n : Nat) (type : Nat) (cause : Nat) (bodies : List (List Byte)) : (postEvent s n type cause bodies).net = s.net :=
  (postEvent_moves s n type cause bodies (Moves.refl 1096 s) rfl).rest .net rfl
@[simp] theorem postEvent_asy (s : State) (n : Nat) (type : Nat) (cause : Nat) (bodies : List (List Byte)) : (postEvent s n type cause bodies).asy = s.asy :=
  (postEvent_moves s n type cause bodies (Moves.refl 1096 s) rfl).rest .asy rfl

@[simp] theorem flushEvents_pending (s : State) (n : Nat) : (flushEvents s n).pending = s.pending :=
  (flushEvents_moves s n (Moves.refl 1096 s) rfl).rest .pending rfl
@[simp] theorem flushEvents_held (s : State) (n : Nat) : (flushEvents s n).held = s.held :=
  (flushEvents_moves s n (Moves.refl 1096 s) rfl).rest .held rfl
@[simp] theorem flushEvents_freeCtr (s : State) (n : Nat) : (flushEvents s n).freeCtr = s.freeCtr :=
  (flushEvents_moves s n (Moves.refl 1096 s) rfl).rest .freeCtr rfl
@[simp] theorem flushEvents_now (s : State) (n : Nat) : (flushEvents s n).now = s.now :=
  (flushEvents_moves s n (Moves.refl 1096 s) rfl).rest .now rfl
@[simp] theorem flushEvents_boot (s : State) (n : Nat) : (flushEvents s n).boot = s.boot :=
  (flushEvents_moves s n (Moves.refl 1096 s) rfl).rest .boot rfl
@[simp] theorem flushEvents_beat (s : State) (n : Nat) : (flushEvents s n).beat = s.beat :=
  (flushEvents_moves s n (Moves.refl 1096 s) rfl).rest .beat rfl
@[simp] theorem flushEvents_dl (s : State) (n : Nat) : (flushEvents s n).dl = s.dl :=
  (flushEvents_moves s n (Moves.refl 1096 s) rfl).rest .dl rfl
@[simp] theorem flushEvents_tiers (s : State) (n : Nat) : (flushEvents s n).tiers = s.tiers :=
  (flushEvents_moves s n (Moves.refl 1096 s) rfl).rest .tiers rfl
@[simp] theorem flushEvents_sync (s : State) (n : Nat) : (flushEvents s n).sync = s.sync :=
  (flushEvents_moves s n (Moves.refl 1096 s) rfl).rest .sync rfl
@[simp] theorem flushEvents_redeal (s : State) (n : Nat) : (flushEvents s n).redeal = s.redeal :=
  (flushEvents_moves s n (Moves.refl 1096 s) rfl).rest .redeal rfl
@[simp] theorem flushEvents_fences (s : State) (n : Nat) : (flushEvents s n).fences = s.fences :=
  (flushEvents_moves s n (Moves.refl 1096 s) rfl).rest .fences rfl
@[simp] theorem flushEvents_ecc (s : State) (n : Nat) : (flushEvents s n).ecc = s.ecc :=
  (flushEvents_moves s n (Moves.refl 1096 s) rfl).rest .ecc rfl
@[simp] theorem flushEvents_link (s : State) (n : Nat) : (flushEvents s n).link = s.link :=
  (flushEvents_moves s n (Moves.refl 1096 s) rfl).rest .link rfl
@[simp] theorem flushEvents_rounds (s : State) (n : Nat) : (flushEvents s n).rounds = s.rounds :=
  (flushEvents_moves s n (Moves.refl 1096 s) rfl).rest .rounds rfl
@[simp] theorem flushEvents_dbg (s : State) (n : Nat) : (flushEvents s n).dbg = s.dbg :=
  (flushEvents_moves s n (Moves.refl 1096 s) rfl).rest .dbg rfl
@[simp] theorem flushEvents_power (s : State) (n : Nat) : (flushEvents s n).power = s.power :=
  (flushEvents_moves s n (Moves.refl 1096 s) rfl).rest .power rfl
@[simp] theorem flushEvents_mgmt (s : State) (n : Nat) : (flushEvents s n).mgmt = s.mgmt :=
  (flushEvents_moves s n (Moves.refl 1096 s) rfl).rest .mgmt rfl
@[simp] theorem flushEvents_pcie (s : State) (n : Nat) : (flushEvents s n).pcie = s.pcie :=
  (flushEvents_moves s n (Moves.refl 1096 s) rfl).rest .pcie rfl
@[simp] theorem flushEvents_net (s : State) (n : Nat) : (flushEvents s n).net = s.net :=
  (flushEvents_moves s n (Moves.refl 1096 s) rfl).rest .net rfl
@[simp] theorem flushEvents_asy (s : State) (n : Nat) : (flushEvents s n).asy = s.asy :=
  (flushEvents_moves s n (Moves.refl 1096 s) rfl).rest .asy rfl

@[simp] theorem postHost_pending (s : State) (fn : Nat) (addr : Nat) (bytes : List Byte) : (postHost s fn addr bytes).pending = s.pending :=
  (postHost_moves s fn addr bytes (Moves.refl 8 s) rfl).rest .pending rfl
@[simp] theorem postHost_held (s : State) (fn : Nat) (addr : Nat) (bytes : List Byte) : (postHost s fn addr bytes).held = s.held :=
  (postHost_moves s fn addr bytes (Moves.refl 8 s) rfl).rest .held rfl
@[simp] theorem postHost_freeCtr (s : State) (fn : Nat) (addr : Nat) (bytes : List Byte) : (postHost s fn addr bytes).freeCtr = s.freeCtr :=
  (postHost_moves s fn addr bytes (Moves.refl 8 s) rfl).rest .freeCtr rfl
@[simp] theorem postHost_now (s : State) (fn : Nat) (addr : Nat) (bytes : List Byte) : (postHost s fn addr bytes).now = s.now :=
  (postHost_moves s fn addr bytes (Moves.refl 8 s) rfl).rest .now rfl
@[simp] theorem postHost_boot (s : State) (fn : Nat) (addr : Nat) (bytes : List Byte) : (postHost s fn addr bytes).boot = s.boot :=
  (postHost_moves s fn addr bytes (Moves.refl 8 s) rfl).rest .boot rfl
@[simp] theorem postHost_beat (s : State) (fn : Nat) (addr : Nat) (bytes : List Byte) : (postHost s fn addr bytes).beat = s.beat :=
  (postHost_moves s fn addr bytes (Moves.refl 8 s) rfl).rest .beat rfl
@[simp] theorem postHost_cl (s : State) (fn : Nat) (addr : Nat) (bytes : List Byte) : (postHost s fn addr bytes).cl = s.cl :=
  (postHost_moves s fn addr bytes (Moves.refl 8 s) rfl).rest .cl rfl
@[simp] theorem postHost_dl (s : State) (fn : Nat) (addr : Nat) (bytes : List Byte) : (postHost s fn addr bytes).dl = s.dl :=
  (postHost_moves s fn addr bytes (Moves.refl 8 s) rfl).rest .dl rfl
@[simp] theorem postHost_tiers (s : State) (fn : Nat) (addr : Nat) (bytes : List Byte) : (postHost s fn addr bytes).tiers = s.tiers :=
  (postHost_moves s fn addr bytes (Moves.refl 8 s) rfl).rest .tiers rfl
@[simp] theorem postHost_sync (s : State) (fn : Nat) (addr : Nat) (bytes : List Byte) : (postHost s fn addr bytes).sync = s.sync :=
  (postHost_moves s fn addr bytes (Moves.refl 8 s) rfl).rest .sync rfl
@[simp] theorem postHost_fns (s : State) (fn : Nat) (addr : Nat) (bytes : List Byte) : (postHost s fn addr bytes).fns = s.fns :=
  (postHost_moves s fn addr bytes (Moves.refl 8 s) rfl).rest .fns rfl
@[simp] theorem postHost_redeal (s : State) (fn : Nat) (addr : Nat) (bytes : List Byte) : (postHost s fn addr bytes).redeal = s.redeal :=
  (postHost_moves s fn addr bytes (Moves.refl 8 s) rfl).rest .redeal rfl
@[simp] theorem postHost_fences (s : State) (fn : Nat) (addr : Nat) (bytes : List Byte) : (postHost s fn addr bytes).fences = s.fences :=
  (postHost_moves s fn addr bytes (Moves.refl 8 s) rfl).rest .fences rfl
@[simp] theorem postHost_ecc (s : State) (fn : Nat) (addr : Nat) (bytes : List Byte) : (postHost s fn addr bytes).ecc = s.ecc :=
  (postHost_moves s fn addr bytes (Moves.refl 8 s) rfl).rest .ecc rfl
@[simp] theorem postHost_link (s : State) (fn : Nat) (addr : Nat) (bytes : List Byte) : (postHost s fn addr bytes).link = s.link :=
  (postHost_moves s fn addr bytes (Moves.refl 8 s) rfl).rest .link rfl
@[simp] theorem postHost_rounds (s : State) (fn : Nat) (addr : Nat) (bytes : List Byte) : (postHost s fn addr bytes).rounds = s.rounds :=
  (postHost_moves s fn addr bytes (Moves.refl 8 s) rfl).rest .rounds rfl
@[simp] theorem postHost_dbg (s : State) (fn : Nat) (addr : Nat) (bytes : List Byte) : (postHost s fn addr bytes).dbg = s.dbg :=
  (postHost_moves s fn addr bytes (Moves.refl 8 s) rfl).rest .dbg rfl
@[simp] theorem postHost_power (s : State) (fn : Nat) (addr : Nat) (bytes : List Byte) : (postHost s fn addr bytes).power = s.power :=
  (postHost_moves s fn addr bytes (Moves.refl 8 s) rfl).rest .power rfl
@[simp] theorem postHost_mgmt (s : State) (fn : Nat) (addr : Nat) (bytes : List Byte) : (postHost s fn addr bytes).mgmt = s.mgmt :=
  (postHost_moves s fn addr bytes (Moves.refl 8 s) rfl).rest .mgmt rfl
@[simp] theorem postHost_pcie (s : State) (fn : Nat) (addr : Nat) (bytes : List Byte) : (postHost s fn addr bytes).pcie = s.pcie :=
  (postHost_moves s fn addr bytes (Moves.refl 8 s) rfl).rest .pcie rfl
@[simp] theorem postHost_net (s : State) (fn : Nat) (addr : Nat) (bytes : List Byte) : (postHost s fn addr bytes).net = s.net :=
  (postHost_moves s fn addr bytes (Moves.refl 8 s) rfl).rest .net rfl
@[simp] theorem postHost_asy (s : State) (fn : Nat) (addr : Nat) (bytes : List Byte) : (postHost s fn addr bytes).asy = s.asy :=
  (postHost_moves s fn addr bytes (Moves.refl 8 s) rfl).rest .asy rfl

@[simp] theorem setMeasure_pending (s : State) (i : Nat) (v : List Byte) : (setMeasure s i v).pending = s.pending :=
  (setMeasure_moves s i v (Moves.refl 65536 s) rfl).rest .pending rfl
@[simp] theorem setMeasure_held (s : State) (i : Nat) (v : List Byte) : (setMeasure s i v).held = s.held :=
  (setMeasure_moves s i v (Moves.refl 65536 s) rfl).rest .held rfl
@[simp] theorem setMeasure_freeCtr (s : State) (i : Nat) (v : List Byte) : (setMeasure s i v).freeCtr = s.freeCtr :=
  (setMeasure_moves s i v (Moves.refl 65536 s) rfl).rest .freeCtr rfl
@[simp] theorem setMeasure_now (s : State) (i : Nat) (v : List Byte) : (setMeasure s i v).now = s.now :=
  (setMeasure_moves s i v (Moves.refl 65536 s) rfl).rest .now rfl
@[simp] theorem setMeasure_boot (s : State) (i : Nat) (v : List Byte) : (setMeasure s i v).boot = s.boot :=
  (setMeasure_moves s i v (Moves.refl 65536 s) rfl).rest .boot rfl
@[simp] theorem setMeasure_beat (s : State) (i : Nat) (v : List Byte) : (setMeasure s i v).beat = s.beat :=
  (setMeasure_moves s i v (Moves.refl 65536 s) rfl).rest .beat rfl
@[simp] theorem setMeasure_cl (s : State) (i : Nat) (v : List Byte) : (setMeasure s i v).cl = s.cl :=
  (setMeasure_moves s i v (Moves.refl 65536 s) rfl).rest .cl rfl
@[simp] theorem setMeasure_dl (s : State) (i : Nat) (v : List Byte) : (setMeasure s i v).dl = s.dl :=
  (setMeasure_moves s i v (Moves.refl 65536 s) rfl).rest .dl rfl
@[simp] theorem setMeasure_tiers (s : State) (i : Nat) (v : List Byte) : (setMeasure s i v).tiers = s.tiers :=
  (setMeasure_moves s i v (Moves.refl 65536 s) rfl).rest .tiers rfl
@[simp] theorem setMeasure_sync (s : State) (i : Nat) (v : List Byte) : (setMeasure s i v).sync = s.sync :=
  (setMeasure_moves s i v (Moves.refl 65536 s) rfl).rest .sync rfl
@[simp] theorem setMeasure_fns (s : State) (i : Nat) (v : List Byte) : (setMeasure s i v).fns = s.fns :=
  (setMeasure_moves s i v (Moves.refl 65536 s) rfl).rest .fns rfl
@[simp] theorem setMeasure_redeal (s : State) (i : Nat) (v : List Byte) : (setMeasure s i v).redeal = s.redeal :=
  (setMeasure_moves s i v (Moves.refl 65536 s) rfl).rest .redeal rfl
@[simp] theorem setMeasure_fences (s : State) (i : Nat) (v : List Byte) : (setMeasure s i v).fences = s.fences :=
  (setMeasure_moves s i v (Moves.refl 65536 s) rfl).rest .fences rfl
@[simp] theorem setMeasure_ecc (s : State) (i : Nat) (v : List Byte) : (setMeasure s i v).ecc = s.ecc :=
  (setMeasure_moves s i v (Moves.refl 65536 s) rfl).rest .ecc rfl
@[simp] theorem setMeasure_link (s : State) (i : Nat) (v : List Byte) : (setMeasure s i v).link = s.link :=
  (setMeasure_moves s i v (Moves.refl 65536 s) rfl).rest .link rfl
@[simp] theorem setMeasure_rounds (s : State) (i : Nat) (v : List Byte) : (setMeasure s i v).rounds = s.rounds :=
  (setMeasure_moves s i v (Moves.refl 65536 s) rfl).rest .rounds rfl
@[simp] theorem setMeasure_power (s : State) (i : Nat) (v : List Byte) : (setMeasure s i v).power = s.power :=
  (setMeasure_moves s i v (Moves.refl 65536 s) rfl).rest .power rfl
@[simp] theorem setMeasure_mgmt (s : State) (i : Nat) (v : List Byte) : (setMeasure s i v).mgmt = s.mgmt :=
  (setMeasure_moves s i v (Moves.refl 65536 s) rfl).rest .mgmt rfl
@[simp] theorem setMeasure_pcie (s : State) (i : Nat) (v : List Byte) : (setMeasure s i v).pcie = s.pcie :=
  (setMeasure_moves s i v (Moves.refl 65536 s) rfl).rest .pcie rfl
@[simp] theorem setMeasure_net (s : State) (i : Nat) (v : List Byte) : (setMeasure s i v).net = s.net :=
  (setMeasure_moves s i v (Moves.refl 65536 s) rfl).rest .net rfl
@[simp] theorem setMeasure_asy (s : State) (i : Nat) (v : List Byte) : (setMeasure s i v).asy = s.asy :=
  (setMeasure_moves s i v (Moves.refl 65536 s) rfl).rest .asy rfl
@[simp] theorem setMeasure_out (s : State) (i : Nat) (v : List Byte) : (setMeasure s i v).out = s.out :=
  (setMeasure_moves s i v (Moves.refl 65536 s) rfl).rest .out rfl

@[simp] theorem drawNonce_pending (s : State) : (drawNonce s).pending = s.pending :=
  (drawNonce_moves s (Moves.refl 65538 s) rfl).rest .pending rfl
@[simp] theorem drawNonce_held (s : State) : (drawNonce s).held = s.held :=
  (drawNonce_moves s (Moves.refl 65538 s) rfl).rest .held rfl
@[simp] theorem drawNonce_now (s : State) : (drawNonce s).now = s.now :=
  (drawNonce_moves s (Moves.refl 65538 s) rfl).rest .now rfl
@[simp] theorem drawNonce_boot (s : State) : (drawNonce s).boot = s.boot :=
  (drawNonce_moves s (Moves.refl 65538 s) rfl).rest .boot rfl
@[simp] theorem drawNonce_beat (s : State) : (drawNonce s).beat = s.beat :=
  (drawNonce_moves s (Moves.refl 65538 s) rfl).rest .beat rfl
@[simp] theorem drawNonce_cl (s : State) : (drawNonce s).cl = s.cl :=
  (drawNonce_moves s (Moves.refl 65538 s) rfl).rest .cl rfl
@[simp] theorem drawNonce_dl (s : State) : (drawNonce s).dl = s.dl :=
  (drawNonce_moves s (Moves.refl 65538 s) rfl).rest .dl rfl
@[simp] theorem drawNonce_tiers (s : State) : (drawNonce s).tiers = s.tiers :=
  (drawNonce_moves s (Moves.refl 65538 s) rfl).rest .tiers rfl
@[simp] theorem drawNonce_sync (s : State) : (drawNonce s).sync = s.sync :=
  (drawNonce_moves s (Moves.refl 65538 s) rfl).rest .sync rfl
@[simp] theorem drawNonce_fns (s : State) : (drawNonce s).fns = s.fns :=
  (drawNonce_moves s (Moves.refl 65538 s) rfl).rest .fns rfl
@[simp] theorem drawNonce_redeal (s : State) : (drawNonce s).redeal = s.redeal :=
  (drawNonce_moves s (Moves.refl 65538 s) rfl).rest .redeal rfl
@[simp] theorem drawNonce_fences (s : State) : (drawNonce s).fences = s.fences :=
  (drawNonce_moves s (Moves.refl 65538 s) rfl).rest .fences rfl
@[simp] theorem drawNonce_ecc (s : State) : (drawNonce s).ecc = s.ecc :=
  (drawNonce_moves s (Moves.refl 65538 s) rfl).rest .ecc rfl
@[simp] theorem drawNonce_link (s : State) : (drawNonce s).link = s.link :=
  (drawNonce_moves s (Moves.refl 65538 s) rfl).rest .link rfl
@[simp] theorem drawNonce_rounds (s : State) : (drawNonce s).rounds = s.rounds :=
  (drawNonce_moves s (Moves.refl 65538 s) rfl).rest .rounds rfl
@[simp] theorem drawNonce_power (s : State) : (drawNonce s).power = s.power :=
  (drawNonce_moves s (Moves.refl 65538 s) rfl).rest .power rfl
@[simp] theorem drawNonce_mgmt (s : State) : (drawNonce s).mgmt = s.mgmt :=
  (drawNonce_moves s (Moves.refl 65538 s) rfl).rest .mgmt rfl
@[simp] theorem drawNonce_pcie (s : State) : (drawNonce s).pcie = s.pcie :=
  (drawNonce_moves s (Moves.refl 65538 s) rfl).rest .pcie rfl
@[simp] theorem drawNonce_net (s : State) : (drawNonce s).net = s.net :=
  (drawNonce_moves s (Moves.refl 65538 s) rfl).rest .net rfl
@[simp] theorem drawNonce_asy (s : State) : (drawNonce s).asy = s.asy :=
  (drawNonce_moves s (Moves.refl 65538 s) rfl).rest .asy rfl
@[simp] theorem drawNonce_out (s : State) : (drawNonce s).out = s.out :=
  (drawNonce_moves s (Moves.refl 65538 s) rfl).rest .out rfl

@[simp] theorem updateLedgerFull_pending (s : State) (n : Nat) : (updateLedgerFull s n).pending = s.pending :=
  (updateLedgerFull_moves s n (Moves.refl 1096 s) rfl).rest .pending rfl
@[simp] theorem updateLedgerFull_held (s : State) (n : Nat) : (updateLedgerFull s n).held = s.held :=
  (updateLedgerFull_moves s n (Moves.refl 1096 s) rfl).rest .held rfl
@[simp] theorem updateLedgerFull_freeCtr (s : State) (n : Nat) : (updateLedgerFull s n).freeCtr = s.freeCtr :=
  (updateLedgerFull_moves s n (Moves.refl 1096 s) rfl).rest .freeCtr rfl
@[simp] theorem updateLedgerFull_now (s : State) (n : Nat) : (updateLedgerFull s n).now = s.now :=
  (updateLedgerFull_moves s n (Moves.refl 1096 s) rfl).rest .now rfl
@[simp] theorem updateLedgerFull_boot (s : State) (n : Nat) : (updateLedgerFull s n).boot = s.boot :=
  (updateLedgerFull_moves s n (Moves.refl 1096 s) rfl).rest .boot rfl
@[simp] theorem updateLedgerFull_beat (s : State) (n : Nat) : (updateLedgerFull s n).beat = s.beat :=
  (updateLedgerFull_moves s n (Moves.refl 1096 s) rfl).rest .beat rfl
@[simp] theorem updateLedgerFull_dl (s : State) (n : Nat) : (updateLedgerFull s n).dl = s.dl :=
  (updateLedgerFull_moves s n (Moves.refl 1096 s) rfl).rest .dl rfl
@[simp] theorem updateLedgerFull_tiers (s : State) (n : Nat) : (updateLedgerFull s n).tiers = s.tiers :=
  (updateLedgerFull_moves s n (Moves.refl 1096 s) rfl).rest .tiers rfl
@[simp] theorem updateLedgerFull_sync (s : State) (n : Nat) : (updateLedgerFull s n).sync = s.sync :=
  (updateLedgerFull_moves s n (Moves.refl 1096 s) rfl).rest .sync rfl
@[simp] theorem updateLedgerFull_redeal (s : State) (n : Nat) : (updateLedgerFull s n).redeal = s.redeal :=
  (updateLedgerFull_moves s n (Moves.refl 1096 s) rfl).rest .redeal rfl
@[simp] theorem updateLedgerFull_fences (s : State) (n : Nat) : (updateLedgerFull s n).fences = s.fences :=
  (updateLedgerFull_moves s n (Moves.refl 1096 s) rfl).rest .fences rfl
@[simp] theorem updateLedgerFull_ecc (s : State) (n : Nat) : (updateLedgerFull s n).ecc = s.ecc :=
  (updateLedgerFull_moves s n (Moves.refl 1096 s) rfl).rest .ecc rfl
@[simp] theorem updateLedgerFull_link (s : State) (n : Nat) : (updateLedgerFull s n).link = s.link :=
  (updateLedgerFull_moves s n (Moves.refl 1096 s) rfl).rest .link rfl
@[simp] theorem updateLedgerFull_rounds (s : State) (n : Nat) : (updateLedgerFull s n).rounds = s.rounds :=
  (updateLedgerFull_moves s n (Moves.refl 1096 s) rfl).rest .rounds rfl
@[simp] theorem updateLedgerFull_dbg (s : State) (n : Nat) : (updateLedgerFull s n).dbg = s.dbg :=
  (updateLedgerFull_moves s n (Moves.refl 1096 s) rfl).rest .dbg rfl
@[simp] theorem updateLedgerFull_power (s : State) (n : Nat) : (updateLedgerFull s n).power = s.power :=
  (updateLedgerFull_moves s n (Moves.refl 1096 s) rfl).rest .power rfl
@[simp] theorem updateLedgerFull_mgmt (s : State) (n : Nat) : (updateLedgerFull s n).mgmt = s.mgmt :=
  (updateLedgerFull_moves s n (Moves.refl 1096 s) rfl).rest .mgmt rfl
@[simp] theorem updateLedgerFull_pcie (s : State) (n : Nat) : (updateLedgerFull s n).pcie = s.pcie :=
  (updateLedgerFull_moves s n (Moves.refl 1096 s) rfl).rest .pcie rfl
@[simp] theorem updateLedgerFull_net (s : State) (n : Nat) : (updateLedgerFull s n).net = s.net :=
  (updateLedgerFull_moves s n (Moves.refl 1096 s) rfl).rest .net rfl
@[simp] theorem updateLedgerFull_asy (s : State) (n : Nat) : (updateLedgerFull s n).asy = s.asy :=
  (updateLedgerFull_moves s n (Moves.refl 1096 s) rfl).rest .asy rfl

@[simp] theorem setCopyCause_pending (s : State) (c : Nat) (cause : Nat) : (setCopyCause s c cause).pending = s.pending :=
  (setCopyCause_moves s c cause (Moves.refl 16 s) rfl).rest .pending rfl
@[simp] theorem setCopyCause_held (s : State) (c : Nat) (cause : Nat) : (setCopyCause s c cause).held = s.held :=
  (setCopyCause_moves s c cause (Moves.refl 16 s) rfl).rest .held rfl
@[simp] theorem setCopyCause_freeCtr (s : State) (c : Nat) (cause : Nat) : (setCopyCause s c cause).freeCtr = s.freeCtr :=
  (setCopyCause_moves s c cause (Moves.refl 16 s) rfl).rest .freeCtr rfl
@[simp] theorem setCopyCause_now (s : State) (c : Nat) (cause : Nat) : (setCopyCause s c cause).now = s.now :=
  (setCopyCause_moves s c cause (Moves.refl 16 s) rfl).rest .now rfl
@[simp] theorem setCopyCause_beat (s : State) (c : Nat) (cause : Nat) : (setCopyCause s c cause).beat = s.beat :=
  (setCopyCause_moves s c cause (Moves.refl 16 s) rfl).rest .beat rfl
@[simp] theorem setCopyCause_cl (s : State) (c : Nat) (cause : Nat) : (setCopyCause s c cause).cl = s.cl :=
  (setCopyCause_moves s c cause (Moves.refl 16 s) rfl).rest .cl rfl
@[simp] theorem setCopyCause_dl (s : State) (c : Nat) (cause : Nat) : (setCopyCause s c cause).dl = s.dl :=
  (setCopyCause_moves s c cause (Moves.refl 16 s) rfl).rest .dl rfl
@[simp] theorem setCopyCause_tiers (s : State) (c : Nat) (cause : Nat) : (setCopyCause s c cause).tiers = s.tiers :=
  (setCopyCause_moves s c cause (Moves.refl 16 s) rfl).rest .tiers rfl
@[simp] theorem setCopyCause_sync (s : State) (c : Nat) (cause : Nat) : (setCopyCause s c cause).sync = s.sync :=
  (setCopyCause_moves s c cause (Moves.refl 16 s) rfl).rest .sync rfl
@[simp] theorem setCopyCause_fns (s : State) (c : Nat) (cause : Nat) : (setCopyCause s c cause).fns = s.fns :=
  (setCopyCause_moves s c cause (Moves.refl 16 s) rfl).rest .fns rfl
@[simp] theorem setCopyCause_redeal (s : State) (c : Nat) (cause : Nat) : (setCopyCause s c cause).redeal = s.redeal :=
  (setCopyCause_moves s c cause (Moves.refl 16 s) rfl).rest .redeal rfl
@[simp] theorem setCopyCause_fences (s : State) (c : Nat) (cause : Nat) : (setCopyCause s c cause).fences = s.fences :=
  (setCopyCause_moves s c cause (Moves.refl 16 s) rfl).rest .fences rfl
@[simp] theorem setCopyCause_ecc (s : State) (c : Nat) (cause : Nat) : (setCopyCause s c cause).ecc = s.ecc :=
  (setCopyCause_moves s c cause (Moves.refl 16 s) rfl).rest .ecc rfl
@[simp] theorem setCopyCause_link (s : State) (c : Nat) (cause : Nat) : (setCopyCause s c cause).link = s.link :=
  (setCopyCause_moves s c cause (Moves.refl 16 s) rfl).rest .link rfl
@[simp] theorem setCopyCause_rounds (s : State) (c : Nat) (cause : Nat) : (setCopyCause s c cause).rounds = s.rounds :=
  (setCopyCause_moves s c cause (Moves.refl 16 s) rfl).rest .rounds rfl
@[simp] theorem setCopyCause_dbg (s : State) (c : Nat) (cause : Nat) : (setCopyCause s c cause).dbg = s.dbg :=
  (setCopyCause_moves s c cause (Moves.refl 16 s) rfl).rest .dbg rfl
@[simp] theorem setCopyCause_power (s : State) (c : Nat) (cause : Nat) : (setCopyCause s c cause).power = s.power :=
  (setCopyCause_moves s c cause (Moves.refl 16 s) rfl).rest .power rfl
@[simp] theorem setCopyCause_mgmt (s : State) (c : Nat) (cause : Nat) : (setCopyCause s c cause).mgmt = s.mgmt :=
  (setCopyCause_moves s c cause (Moves.refl 16 s) rfl).rest .mgmt rfl
@[simp] theorem setCopyCause_pcie (s : State) (c : Nat) (cause : Nat) : (setCopyCause s c cause).pcie = s.pcie :=
  (setCopyCause_moves s c cause (Moves.refl 16 s) rfl).rest .pcie rfl
@[simp] theorem setCopyCause_net (s : State) (c : Nat) (cause : Nat) : (setCopyCause s c cause).net = s.net :=
  (setCopyCause_moves s c cause (Moves.refl 16 s) rfl).rest .net rfl
@[simp] theorem setCopyCause_asy (s : State) (c : Nat) (cause : Nat) : (setCopyCause s c cause).asy = s.asy :=
  (setCopyCause_moves s c cause (Moves.refl 16 s) rfl).rest .asy rfl
@[simp] theorem setCopyCause_out (s : State) (c : Nat) (cause : Nat) : (setCopyCause s c cause).out = s.out :=
  (setCopyCause_moves s c cause (Moves.refl 16 s) rfl).rest .out rfl

@[simp] theorem candFail_pending (s : State) (c : Nat) (cause : Nat) : (candFail s c cause).pending = s.pending :=
  (candFail_moves s c cause (Moves.refl 16 s) rfl).rest .pending rfl
@[simp] theorem candFail_held (s : State) (c : Nat) (cause : Nat) : (candFail s c cause).held = s.held :=
  (candFail_moves s c cause (Moves.refl 16 s) rfl).rest .held rfl
@[simp] theorem candFail_freeCtr (s : State) (c : Nat) (cause : Nat) : (candFail s c cause).freeCtr = s.freeCtr :=
  (candFail_moves s c cause (Moves.refl 16 s) rfl).rest .freeCtr rfl
@[simp] theorem candFail_now (s : State) (c : Nat) (cause : Nat) : (candFail s c cause).now = s.now :=
  (candFail_moves s c cause (Moves.refl 16 s) rfl).rest .now rfl
@[simp] theorem candFail_beat (s : State) (c : Nat) (cause : Nat) : (candFail s c cause).beat = s.beat :=
  (candFail_moves s c cause (Moves.refl 16 s) rfl).rest .beat rfl
@[simp] theorem candFail_cl (s : State) (c : Nat) (cause : Nat) : (candFail s c cause).cl = s.cl :=
  (candFail_moves s c cause (Moves.refl 16 s) rfl).rest .cl rfl
@[simp] theorem candFail_dl (s : State) (c : Nat) (cause : Nat) : (candFail s c cause).dl = s.dl :=
  (candFail_moves s c cause (Moves.refl 16 s) rfl).rest .dl rfl
@[simp] theorem candFail_tiers (s : State) (c : Nat) (cause : Nat) : (candFail s c cause).tiers = s.tiers :=
  (candFail_moves s c cause (Moves.refl 16 s) rfl).rest .tiers rfl
@[simp] theorem candFail_sync (s : State) (c : Nat) (cause : Nat) : (candFail s c cause).sync = s.sync :=
  (candFail_moves s c cause (Moves.refl 16 s) rfl).rest .sync rfl
@[simp] theorem candFail_fns (s : State) (c : Nat) (cause : Nat) : (candFail s c cause).fns = s.fns :=
  (candFail_moves s c cause (Moves.refl 16 s) rfl).rest .fns rfl
@[simp] theorem candFail_redeal (s : State) (c : Nat) (cause : Nat) : (candFail s c cause).redeal = s.redeal :=
  (candFail_moves s c cause (Moves.refl 16 s) rfl).rest .redeal rfl
@[simp] theorem candFail_fences (s : State) (c : Nat) (cause : Nat) : (candFail s c cause).fences = s.fences :=
  (candFail_moves s c cause (Moves.refl 16 s) rfl).rest .fences rfl
@[simp] theorem candFail_ecc (s : State) (c : Nat) (cause : Nat) : (candFail s c cause).ecc = s.ecc :=
  (candFail_moves s c cause (Moves.refl 16 s) rfl).rest .ecc rfl
@[simp] theorem candFail_link (s : State) (c : Nat) (cause : Nat) : (candFail s c cause).link = s.link :=
  (candFail_moves s c cause (Moves.refl 16 s) rfl).rest .link rfl
@[simp] theorem candFail_rounds (s : State) (c : Nat) (cause : Nat) : (candFail s c cause).rounds = s.rounds :=
  (candFail_moves s c cause (Moves.refl 16 s) rfl).rest .rounds rfl
@[simp] theorem candFail_dbg (s : State) (c : Nat) (cause : Nat) : (candFail s c cause).dbg = s.dbg :=
  (candFail_moves s c cause (Moves.refl 16 s) rfl).rest .dbg rfl
@[simp] theorem candFail_power (s : State) (c : Nat) (cause : Nat) : (candFail s c cause).power = s.power :=
  (candFail_moves s c cause (Moves.refl 16 s) rfl).rest .power rfl
@[simp] theorem candFail_mgmt (s : State) (c : Nat) (cause : Nat) : (candFail s c cause).mgmt = s.mgmt :=
  (candFail_moves s c cause (Moves.refl 16 s) rfl).rest .mgmt rfl
@[simp] theorem candFail_pcie (s : State) (c : Nat) (cause : Nat) : (candFail s c cause).pcie = s.pcie :=
  (candFail_moves s c cause (Moves.refl 16 s) rfl).rest .pcie rfl
@[simp] theorem candFail_net (s : State) (c : Nat) (cause : Nat) : (candFail s c cause).net = s.net :=
  (candFail_moves s c cause (Moves.refl 16 s) rfl).rest .net rfl
@[simp] theorem candFail_asy (s : State) (c : Nat) (cause : Nat) : (candFail s c cause).asy = s.asy :=
  (candFail_moves s c cause (Moves.refl 16 s) rfl).rest .asy rfl
@[simp] theorem candFail_out (s : State) (c : Nat) (cause : Nat) : (candFail s c cause).out = s.out :=
  (candFail_moves s c cause (Moves.refl 16 s) rfl).rest .out rfl

@[simp] theorem logHold_pending (s : State) (heldNs : Nat) : (logHold s heldNs).pending = s.pending :=
  (logHold_moves s heldNs (Moves.refl 16 s) rfl).rest .pending rfl
@[simp] theorem logHold_held (s : State) (heldNs : Nat) : (logHold s heldNs).held = s.held :=
  (logHold_moves s heldNs (Moves.refl 16 s) rfl).rest .held rfl
@[simp] theorem logHold_freeCtr (s : State) (heldNs : Nat) : (logHold s heldNs).freeCtr = s.freeCtr :=
  (logHold_moves s heldNs (Moves.refl 16 s) rfl).rest .freeCtr rfl
@[simp] theorem logHold_now (s : State) (heldNs : Nat) : (logHold s heldNs).now = s.now :=
  (logHold_moves s heldNs (Moves.refl 16 s) rfl).rest .now rfl
@[simp] theorem logHold_beat (s : State) (heldNs : Nat) : (logHold s heldNs).beat = s.beat :=
  (logHold_moves s heldNs (Moves.refl 16 s) rfl).rest .beat rfl
@[simp] theorem logHold_cl (s : State) (heldNs : Nat) : (logHold s heldNs).cl = s.cl :=
  (logHold_moves s heldNs (Moves.refl 16 s) rfl).rest .cl rfl
@[simp] theorem logHold_dl (s : State) (heldNs : Nat) : (logHold s heldNs).dl = s.dl :=
  (logHold_moves s heldNs (Moves.refl 16 s) rfl).rest .dl rfl
@[simp] theorem logHold_tiers (s : State) (heldNs : Nat) : (logHold s heldNs).tiers = s.tiers :=
  (logHold_moves s heldNs (Moves.refl 16 s) rfl).rest .tiers rfl
@[simp] theorem logHold_sync (s : State) (heldNs : Nat) : (logHold s heldNs).sync = s.sync :=
  (logHold_moves s heldNs (Moves.refl 16 s) rfl).rest .sync rfl
@[simp] theorem logHold_fns (s : State) (heldNs : Nat) : (logHold s heldNs).fns = s.fns :=
  (logHold_moves s heldNs (Moves.refl 16 s) rfl).rest .fns rfl
@[simp] theorem logHold_redeal (s : State) (heldNs : Nat) : (logHold s heldNs).redeal = s.redeal :=
  (logHold_moves s heldNs (Moves.refl 16 s) rfl).rest .redeal rfl
@[simp] theorem logHold_fences (s : State) (heldNs : Nat) : (logHold s heldNs).fences = s.fences :=
  (logHold_moves s heldNs (Moves.refl 16 s) rfl).rest .fences rfl
@[simp] theorem logHold_ecc (s : State) (heldNs : Nat) : (logHold s heldNs).ecc = s.ecc :=
  (logHold_moves s heldNs (Moves.refl 16 s) rfl).rest .ecc rfl
@[simp] theorem logHold_link (s : State) (heldNs : Nat) : (logHold s heldNs).link = s.link :=
  (logHold_moves s heldNs (Moves.refl 16 s) rfl).rest .link rfl
@[simp] theorem logHold_rounds (s : State) (heldNs : Nat) : (logHold s heldNs).rounds = s.rounds :=
  (logHold_moves s heldNs (Moves.refl 16 s) rfl).rest .rounds rfl
@[simp] theorem logHold_dbg (s : State) (heldNs : Nat) : (logHold s heldNs).dbg = s.dbg :=
  (logHold_moves s heldNs (Moves.refl 16 s) rfl).rest .dbg rfl
@[simp] theorem logHold_power (s : State) (heldNs : Nat) : (logHold s heldNs).power = s.power :=
  (logHold_moves s heldNs (Moves.refl 16 s) rfl).rest .power rfl
@[simp] theorem logHold_mgmt (s : State) (heldNs : Nat) : (logHold s heldNs).mgmt = s.mgmt :=
  (logHold_moves s heldNs (Moves.refl 16 s) rfl).rest .mgmt rfl
@[simp] theorem logHold_pcie (s : State) (heldNs : Nat) : (logHold s heldNs).pcie = s.pcie :=
  (logHold_moves s heldNs (Moves.refl 16 s) rfl).rest .pcie rfl
@[simp] theorem logHold_net (s : State) (heldNs : Nat) : (logHold s heldNs).net = s.net :=
  (logHold_moves s heldNs (Moves.refl 16 s) rfl).rest .net rfl
@[simp] theorem logHold_asy (s : State) (heldNs : Nat) : (logHold s heldNs).asy = s.asy :=
  (logHold_moves s heldNs (Moves.refl 16 s) rfl).rest .asy rfl
@[simp] theorem logHold_out (s : State) (heldNs : Nat) : (logHold s heldNs).out = s.out :=
  (logHold_moves s heldNs (Moves.refl 16 s) rfl).rest .out rfl

@[simp] theorem silencePorts_pending (s : State) : (silencePorts s).pending = s.pending :=
  (silencePorts_moves s (Moves.refl 8 s) rfl).rest .pending rfl
@[simp] theorem silencePorts_held (s : State) : (silencePorts s).held = s.held :=
  (silencePorts_moves s (Moves.refl 8 s) rfl).rest .held rfl
@[simp] theorem silencePorts_freeCtr (s : State) : (silencePorts s).freeCtr = s.freeCtr :=
  (silencePorts_moves s (Moves.refl 8 s) rfl).rest .freeCtr rfl
@[simp] theorem silencePorts_now (s : State) : (silencePorts s).now = s.now :=
  (silencePorts_moves s (Moves.refl 8 s) rfl).rest .now rfl
@[simp] theorem silencePorts_boot (s : State) : (silencePorts s).boot = s.boot :=
  (silencePorts_moves s (Moves.refl 8 s) rfl).rest .boot rfl
@[simp] theorem silencePorts_beat (s : State) : (silencePorts s).beat = s.beat :=
  (silencePorts_moves s (Moves.refl 8 s) rfl).rest .beat rfl
@[simp] theorem silencePorts_cl (s : State) : (silencePorts s).cl = s.cl :=
  (silencePorts_moves s (Moves.refl 8 s) rfl).rest .cl rfl
@[simp] theorem silencePorts_dl (s : State) : (silencePorts s).dl = s.dl :=
  (silencePorts_moves s (Moves.refl 8 s) rfl).rest .dl rfl
@[simp] theorem silencePorts_tiers (s : State) : (silencePorts s).tiers = s.tiers :=
  (silencePorts_moves s (Moves.refl 8 s) rfl).rest .tiers rfl
@[simp] theorem silencePorts_sync (s : State) : (silencePorts s).sync = s.sync :=
  (silencePorts_moves s (Moves.refl 8 s) rfl).rest .sync rfl
@[simp] theorem silencePorts_fns (s : State) : (silencePorts s).fns = s.fns :=
  (silencePorts_moves s (Moves.refl 8 s) rfl).rest .fns rfl
@[simp] theorem silencePorts_redeal (s : State) : (silencePorts s).redeal = s.redeal :=
  (silencePorts_moves s (Moves.refl 8 s) rfl).rest .redeal rfl
@[simp] theorem silencePorts_fences (s : State) : (silencePorts s).fences = s.fences :=
  (silencePorts_moves s (Moves.refl 8 s) rfl).rest .fences rfl
@[simp] theorem silencePorts_ecc (s : State) : (silencePorts s).ecc = s.ecc :=
  (silencePorts_moves s (Moves.refl 8 s) rfl).rest .ecc rfl
@[simp] theorem silencePorts_link (s : State) : (silencePorts s).link = s.link :=
  (silencePorts_moves s (Moves.refl 8 s) rfl).rest .link rfl
@[simp] theorem silencePorts_rounds (s : State) : (silencePorts s).rounds = s.rounds :=
  (silencePorts_moves s (Moves.refl 8 s) rfl).rest .rounds rfl
@[simp] theorem silencePorts_dbg (s : State) : (silencePorts s).dbg = s.dbg :=
  (silencePorts_moves s (Moves.refl 8 s) rfl).rest .dbg rfl
@[simp] theorem silencePorts_power (s : State) : (silencePorts s).power = s.power :=
  (silencePorts_moves s (Moves.refl 8 s) rfl).rest .power rfl
@[simp] theorem silencePorts_mgmt (s : State) : (silencePorts s).mgmt = s.mgmt :=
  (silencePorts_moves s (Moves.refl 8 s) rfl).rest .mgmt rfl
@[simp] theorem silencePorts_pcie (s : State) : (silencePorts s).pcie = s.pcie :=
  (silencePorts_moves s (Moves.refl 8 s) rfl).rest .pcie rfl
@[simp] theorem silencePorts_net (s : State) : (silencePorts s).net = s.net :=
  (silencePorts_moves s (Moves.refl 8 s) rfl).rest .net rfl
@[simp] theorem silencePorts_asy (s : State) : (silencePorts s).asy = s.asy :=
  (silencePorts_moves s (Moves.refl 8 s) rfl).rest .asy rfl

@[simp] theorem grantsLost_pending (s : State) : (grantsLost s).pending = s.pending :=
  (grantsLost_moves s (Moves.refl 327688 s) rfl).rest .pending rfl
@[simp] theorem grantsLost_held (s : State) : (grantsLost s).held = s.held :=
  (grantsLost_moves s (Moves.refl 327688 s) rfl).rest .held rfl
@[simp] theorem grantsLost_freeCtr (s : State) : (grantsLost s).freeCtr = s.freeCtr :=
  (grantsLost_moves s (Moves.refl 327688 s) rfl).rest .freeCtr rfl
@[simp] theorem grantsLost_now (s : State) : (grantsLost s).now = s.now :=
  (grantsLost_moves s (Moves.refl 327688 s) rfl).rest .now rfl
@[simp] theorem grantsLost_boot (s : State) : (grantsLost s).boot = s.boot :=
  (grantsLost_moves s (Moves.refl 327688 s) rfl).rest .boot rfl
@[simp] theorem grantsLost_beat (s : State) : (grantsLost s).beat = s.beat :=
  (grantsLost_moves s (Moves.refl 327688 s) rfl).rest .beat rfl
@[simp] theorem grantsLost_cl (s : State) : (grantsLost s).cl = s.cl :=
  (grantsLost_moves s (Moves.refl 327688 s) rfl).rest .cl rfl
@[simp] theorem grantsLost_dl (s : State) : (grantsLost s).dl = s.dl :=
  (grantsLost_moves s (Moves.refl 327688 s) rfl).rest .dl rfl
@[simp] theorem grantsLost_tiers (s : State) : (grantsLost s).tiers = s.tiers :=
  (grantsLost_moves s (Moves.refl 327688 s) rfl).rest .tiers rfl
@[simp] theorem grantsLost_sync (s : State) : (grantsLost s).sync = s.sync :=
  (grantsLost_moves s (Moves.refl 327688 s) rfl).rest .sync rfl
@[simp] theorem grantsLost_fns (s : State) : (grantsLost s).fns = s.fns :=
  (grantsLost_moves s (Moves.refl 327688 s) rfl).rest .fns rfl
@[simp] theorem grantsLost_redeal (s : State) : (grantsLost s).redeal = s.redeal :=
  (grantsLost_moves s (Moves.refl 327688 s) rfl).rest .redeal rfl
@[simp] theorem grantsLost_fences (s : State) : (grantsLost s).fences = s.fences :=
  (grantsLost_moves s (Moves.refl 327688 s) rfl).rest .fences rfl
@[simp] theorem grantsLost_ecc (s : State) : (grantsLost s).ecc = s.ecc :=
  (grantsLost_moves s (Moves.refl 327688 s) rfl).rest .ecc rfl
@[simp] theorem grantsLost_link (s : State) : (grantsLost s).link = s.link :=
  (grantsLost_moves s (Moves.refl 327688 s) rfl).rest .link rfl
@[simp] theorem grantsLost_rounds (s : State) : (grantsLost s).rounds = s.rounds :=
  (grantsLost_moves s (Moves.refl 327688 s) rfl).rest .rounds rfl
@[simp] theorem grantsLost_power (s : State) : (grantsLost s).power = s.power :=
  (grantsLost_moves s (Moves.refl 327688 s) rfl).rest .power rfl
@[simp] theorem grantsLost_pcie (s : State) : (grantsLost s).pcie = s.pcie :=
  (grantsLost_moves s (Moves.refl 327688 s) rfl).rest .pcie rfl
@[simp] theorem grantsLost_net (s : State) : (grantsLost s).net = s.net :=
  (grantsLost_moves s (Moves.refl 327688 s) rfl).rest .net rfl
@[simp] theorem grantsLost_asy (s : State) : (grantsLost s).asy = s.asy :=
  (grantsLost_moves s (Moves.refl 327688 s) rfl).rest .asy rfl

@[simp] theorem avsWrite_pending (s : State) (rail : Nat) (mv : Nat) : (avsWrite s rail mv).pending = s.pending :=
  (avsWrite_moves s rail mv (Moves.refl 131080 s) rfl).rest .pending rfl
@[simp] theorem avsWrite_held (s : State) (rail : Nat) (mv : Nat) : (avsWrite s rail mv).held = s.held :=
  (avsWrite_moves s rail mv (Moves.refl 131080 s) rfl).rest .held rfl
@[simp] theorem avsWrite_freeCtr (s : State) (rail : Nat) (mv : Nat) : (avsWrite s rail mv).freeCtr = s.freeCtr :=
  (avsWrite_moves s rail mv (Moves.refl 131080 s) rfl).rest .freeCtr rfl
@[simp] theorem avsWrite_now (s : State) (rail : Nat) (mv : Nat) : (avsWrite s rail mv).now = s.now :=
  (avsWrite_moves s rail mv (Moves.refl 131080 s) rfl).rest .now rfl
@[simp] theorem avsWrite_boot (s : State) (rail : Nat) (mv : Nat) : (avsWrite s rail mv).boot = s.boot :=
  (avsWrite_moves s rail mv (Moves.refl 131080 s) rfl).rest .boot rfl
@[simp] theorem avsWrite_beat (s : State) (rail : Nat) (mv : Nat) : (avsWrite s rail mv).beat = s.beat :=
  (avsWrite_moves s rail mv (Moves.refl 131080 s) rfl).rest .beat rfl
@[simp] theorem avsWrite_cl (s : State) (rail : Nat) (mv : Nat) : (avsWrite s rail mv).cl = s.cl :=
  (avsWrite_moves s rail mv (Moves.refl 131080 s) rfl).rest .cl rfl
@[simp] theorem avsWrite_dl (s : State) (rail : Nat) (mv : Nat) : (avsWrite s rail mv).dl = s.dl :=
  (avsWrite_moves s rail mv (Moves.refl 131080 s) rfl).rest .dl rfl
@[simp] theorem avsWrite_tiers (s : State) (rail : Nat) (mv : Nat) : (avsWrite s rail mv).tiers = s.tiers :=
  (avsWrite_moves s rail mv (Moves.refl 131080 s) rfl).rest .tiers rfl
@[simp] theorem avsWrite_sync (s : State) (rail : Nat) (mv : Nat) : (avsWrite s rail mv).sync = s.sync :=
  (avsWrite_moves s rail mv (Moves.refl 131080 s) rfl).rest .sync rfl
@[simp] theorem avsWrite_fns (s : State) (rail : Nat) (mv : Nat) : (avsWrite s rail mv).fns = s.fns :=
  (avsWrite_moves s rail mv (Moves.refl 131080 s) rfl).rest .fns rfl
@[simp] theorem avsWrite_redeal (s : State) (rail : Nat) (mv : Nat) : (avsWrite s rail mv).redeal = s.redeal :=
  (avsWrite_moves s rail mv (Moves.refl 131080 s) rfl).rest .redeal rfl
@[simp] theorem avsWrite_fences (s : State) (rail : Nat) (mv : Nat) : (avsWrite s rail mv).fences = s.fences :=
  (avsWrite_moves s rail mv (Moves.refl 131080 s) rfl).rest .fences rfl
@[simp] theorem avsWrite_ecc (s : State) (rail : Nat) (mv : Nat) : (avsWrite s rail mv).ecc = s.ecc :=
  (avsWrite_moves s rail mv (Moves.refl 131080 s) rfl).rest .ecc rfl
@[simp] theorem avsWrite_link (s : State) (rail : Nat) (mv : Nat) : (avsWrite s rail mv).link = s.link :=
  (avsWrite_moves s rail mv (Moves.refl 131080 s) rfl).rest .link rfl
@[simp] theorem avsWrite_rounds (s : State) (rail : Nat) (mv : Nat) : (avsWrite s rail mv).rounds = s.rounds :=
  (avsWrite_moves s rail mv (Moves.refl 131080 s) rfl).rest .rounds rfl
@[simp] theorem avsWrite_dbg (s : State) (rail : Nat) (mv : Nat) : (avsWrite s rail mv).dbg = s.dbg :=
  (avsWrite_moves s rail mv (Moves.refl 131080 s) rfl).rest .dbg rfl
@[simp] theorem avsWrite_mgmt (s : State) (rail : Nat) (mv : Nat) : (avsWrite s rail mv).mgmt = s.mgmt :=
  (avsWrite_moves s rail mv (Moves.refl 131080 s) rfl).rest .mgmt rfl
@[simp] theorem avsWrite_pcie (s : State) (rail : Nat) (mv : Nat) : (avsWrite s rail mv).pcie = s.pcie :=
  (avsWrite_moves s rail mv (Moves.refl 131080 s) rfl).rest .pcie rfl
@[simp] theorem avsWrite_net (s : State) (rail : Nat) (mv : Nat) : (avsWrite s rail mv).net = s.net :=
  (avsWrite_moves s rail mv (Moves.refl 131080 s) rfl).rest .net rfl
@[simp] theorem avsWrite_asy (s : State) (rail : Nat) (mv : Nat) : (avsWrite s rail mv).asy = s.asy :=
  (avsWrite_moves s rail mv (Moves.refl 131080 s) rfl).rest .asy rfl

@[simp] theorem faceRails_pending (s : State) : (faceRails s).pending = s.pending :=
  (faceRails_moves s (Moves.refl 131080 s) rfl).rest .pending rfl
@[simp] theorem faceRails_held (s : State) : (faceRails s).held = s.held :=
  (faceRails_moves s (Moves.refl 131080 s) rfl).rest .held rfl
@[simp] theorem faceRails_freeCtr (s : State) : (faceRails s).freeCtr = s.freeCtr :=
  (faceRails_moves s (Moves.refl 131080 s) rfl).rest .freeCtr rfl
@[simp] theorem faceRails_now (s : State) : (faceRails s).now = s.now :=
  (faceRails_moves s (Moves.refl 131080 s) rfl).rest .now rfl
@[simp] theorem faceRails_boot (s : State) : (faceRails s).boot = s.boot :=
  (faceRails_moves s (Moves.refl 131080 s) rfl).rest .boot rfl
@[simp] theorem faceRails_beat (s : State) : (faceRails s).beat = s.beat :=
  (faceRails_moves s (Moves.refl 131080 s) rfl).rest .beat rfl
@[simp] theorem faceRails_cl (s : State) : (faceRails s).cl = s.cl :=
  (faceRails_moves s (Moves.refl 131080 s) rfl).rest .cl rfl
@[simp] theorem faceRails_dl (s : State) : (faceRails s).dl = s.dl :=
  (faceRails_moves s (Moves.refl 131080 s) rfl).rest .dl rfl
@[simp] theorem faceRails_tiers (s : State) : (faceRails s).tiers = s.tiers :=
  (faceRails_moves s (Moves.refl 131080 s) rfl).rest .tiers rfl
@[simp] theorem faceRails_sync (s : State) : (faceRails s).sync = s.sync :=
  (faceRails_moves s (Moves.refl 131080 s) rfl).rest .sync rfl
@[simp] theorem faceRails_fns (s : State) : (faceRails s).fns = s.fns :=
  (faceRails_moves s (Moves.refl 131080 s) rfl).rest .fns rfl
@[simp] theorem faceRails_redeal (s : State) : (faceRails s).redeal = s.redeal :=
  (faceRails_moves s (Moves.refl 131080 s) rfl).rest .redeal rfl
@[simp] theorem faceRails_fences (s : State) : (faceRails s).fences = s.fences :=
  (faceRails_moves s (Moves.refl 131080 s) rfl).rest .fences rfl
@[simp] theorem faceRails_ecc (s : State) : (faceRails s).ecc = s.ecc :=
  (faceRails_moves s (Moves.refl 131080 s) rfl).rest .ecc rfl
@[simp] theorem faceRails_link (s : State) : (faceRails s).link = s.link :=
  (faceRails_moves s (Moves.refl 131080 s) rfl).rest .link rfl
@[simp] theorem faceRails_rounds (s : State) : (faceRails s).rounds = s.rounds :=
  (faceRails_moves s (Moves.refl 131080 s) rfl).rest .rounds rfl
@[simp] theorem faceRails_dbg (s : State) : (faceRails s).dbg = s.dbg :=
  (faceRails_moves s (Moves.refl 131080 s) rfl).rest .dbg rfl
@[simp] theorem faceRails_mgmt (s : State) : (faceRails s).mgmt = s.mgmt :=
  (faceRails_moves s (Moves.refl 131080 s) rfl).rest .mgmt rfl
@[simp] theorem faceRails_pcie (s : State) : (faceRails s).pcie = s.pcie :=
  (faceRails_moves s (Moves.refl 131080 s) rfl).rest .pcie rfl
@[simp] theorem faceRails_net (s : State) : (faceRails s).net = s.net :=
  (faceRails_moves s (Moves.refl 131080 s) rfl).rest .net rfl
@[simp] theorem faceRails_asy (s : State) : (faceRails s).asy = s.asy :=
  (faceRails_moves s (Moves.refl 131080 s) rfl).rest .asy rfl

@[simp] theorem tripUnits_pending (s : State) (d : Nat) (on : Bool) : (tripUnits s d on).pending = s.pending :=
  (tripUnits_moves s d on (Moves.refl 4096 s) rfl).rest .pending rfl
@[simp] theorem tripUnits_held (s : State) (d : Nat) (on : Bool) : (tripUnits s d on).held = s.held :=
  (tripUnits_moves s d on (Moves.refl 4096 s) rfl).rest .held rfl
@[simp] theorem tripUnits_freeCtr (s : State) (d : Nat) (on : Bool) : (tripUnits s d on).freeCtr = s.freeCtr :=
  (tripUnits_moves s d on (Moves.refl 4096 s) rfl).rest .freeCtr rfl
@[simp] theorem tripUnits_now (s : State) (d : Nat) (on : Bool) : (tripUnits s d on).now = s.now :=
  (tripUnits_moves s d on (Moves.refl 4096 s) rfl).rest .now rfl
@[simp] theorem tripUnits_boot (s : State) (d : Nat) (on : Bool) : (tripUnits s d on).boot = s.boot :=
  (tripUnits_moves s d on (Moves.refl 4096 s) rfl).rest .boot rfl
@[simp] theorem tripUnits_beat (s : State) (d : Nat) (on : Bool) : (tripUnits s d on).beat = s.beat :=
  (tripUnits_moves s d on (Moves.refl 4096 s) rfl).rest .beat rfl
@[simp] theorem tripUnits_cl (s : State) (d : Nat) (on : Bool) : (tripUnits s d on).cl = s.cl :=
  (tripUnits_moves s d on (Moves.refl 4096 s) rfl).rest .cl rfl
@[simp] theorem tripUnits_dl (s : State) (d : Nat) (on : Bool) : (tripUnits s d on).dl = s.dl :=
  (tripUnits_moves s d on (Moves.refl 4096 s) rfl).rest .dl rfl
@[simp] theorem tripUnits_tiers (s : State) (d : Nat) (on : Bool) : (tripUnits s d on).tiers = s.tiers :=
  (tripUnits_moves s d on (Moves.refl 4096 s) rfl).rest .tiers rfl
@[simp] theorem tripUnits_sync (s : State) (d : Nat) (on : Bool) : (tripUnits s d on).sync = s.sync :=
  (tripUnits_moves s d on (Moves.refl 4096 s) rfl).rest .sync rfl
@[simp] theorem tripUnits_fns (s : State) (d : Nat) (on : Bool) : (tripUnits s d on).fns = s.fns :=
  (tripUnits_moves s d on (Moves.refl 4096 s) rfl).rest .fns rfl
@[simp] theorem tripUnits_redeal (s : State) (d : Nat) (on : Bool) : (tripUnits s d on).redeal = s.redeal :=
  (tripUnits_moves s d on (Moves.refl 4096 s) rfl).rest .redeal rfl
@[simp] theorem tripUnits_ecc (s : State) (d : Nat) (on : Bool) : (tripUnits s d on).ecc = s.ecc :=
  (tripUnits_moves s d on (Moves.refl 4096 s) rfl).rest .ecc rfl
@[simp] theorem tripUnits_link (s : State) (d : Nat) (on : Bool) : (tripUnits s d on).link = s.link :=
  (tripUnits_moves s d on (Moves.refl 4096 s) rfl).rest .link rfl
@[simp] theorem tripUnits_rounds (s : State) (d : Nat) (on : Bool) : (tripUnits s d on).rounds = s.rounds :=
  (tripUnits_moves s d on (Moves.refl 4096 s) rfl).rest .rounds rfl
@[simp] theorem tripUnits_dbg (s : State) (d : Nat) (on : Bool) : (tripUnits s d on).dbg = s.dbg :=
  (tripUnits_moves s d on (Moves.refl 4096 s) rfl).rest .dbg rfl
@[simp] theorem tripUnits_power (s : State) (d : Nat) (on : Bool) : (tripUnits s d on).power = s.power :=
  (tripUnits_moves s d on (Moves.refl 4096 s) rfl).rest .power rfl
@[simp] theorem tripUnits_mgmt (s : State) (d : Nat) (on : Bool) : (tripUnits s d on).mgmt = s.mgmt :=
  (tripUnits_moves s d on (Moves.refl 4096 s) rfl).rest .mgmt rfl
@[simp] theorem tripUnits_pcie (s : State) (d : Nat) (on : Bool) : (tripUnits s d on).pcie = s.pcie :=
  (tripUnits_moves s d on (Moves.refl 4096 s) rfl).rest .pcie rfl
@[simp] theorem tripUnits_net (s : State) (d : Nat) (on : Bool) : (tripUnits s d on).net = s.net :=
  (tripUnits_moves s d on (Moves.refl 4096 s) rfl).rest .net rfl
@[simp] theorem tripUnits_asy (s : State) (d : Nat) (on : Bool) : (tripUnits s d on).asy = s.asy :=
  (tripUnits_moves s d on (Moves.refl 4096 s) rfl).rest .asy rfl
@[simp] theorem tripUnits_out (s : State) (d : Nat) (on : Bool) : (tripUnits s d on).out = s.out :=
  (tripUnits_moves s d on (Moves.refl 4096 s) rfl).rest .out rfl

@[simp] theorem resetCopies_pending (s : State) : (resetCopies s).pending = s.pending :=
  (resetCopies_moves s (Moves.refl 262152 s) rfl).rest .pending rfl
@[simp] theorem resetCopies_held (s : State) : (resetCopies s).held = s.held :=
  (resetCopies_moves s (Moves.refl 262152 s) rfl).rest .held rfl
@[simp] theorem resetCopies_freeCtr (s : State) : (resetCopies s).freeCtr = s.freeCtr :=
  (resetCopies_moves s (Moves.refl 262152 s) rfl).rest .freeCtr rfl
@[simp] theorem resetCopies_now (s : State) : (resetCopies s).now = s.now :=
  (resetCopies_moves s (Moves.refl 262152 s) rfl).rest .now rfl
@[simp] theorem resetCopies_boot (s : State) : (resetCopies s).boot = s.boot :=
  (resetCopies_moves s (Moves.refl 262152 s) rfl).rest .boot rfl
@[simp] theorem resetCopies_beat (s : State) : (resetCopies s).beat = s.beat :=
  (resetCopies_moves s (Moves.refl 262152 s) rfl).rest .beat rfl
@[simp] theorem resetCopies_cl (s : State) : (resetCopies s).cl = s.cl :=
  (resetCopies_moves s (Moves.refl 262152 s) rfl).rest .cl rfl
@[simp] theorem resetCopies_dl (s : State) : (resetCopies s).dl = s.dl :=
  (resetCopies_moves s (Moves.refl 262152 s) rfl).rest .dl rfl
@[simp] theorem resetCopies_tiers (s : State) : (resetCopies s).tiers = s.tiers :=
  (resetCopies_moves s (Moves.refl 262152 s) rfl).rest .tiers rfl
@[simp] theorem resetCopies_sync (s : State) : (resetCopies s).sync = s.sync :=
  (resetCopies_moves s (Moves.refl 262152 s) rfl).rest .sync rfl
@[simp] theorem resetCopies_fns (s : State) : (resetCopies s).fns = s.fns :=
  (resetCopies_moves s (Moves.refl 262152 s) rfl).rest .fns rfl
@[simp] theorem resetCopies_redeal (s : State) : (resetCopies s).redeal = s.redeal :=
  (resetCopies_moves s (Moves.refl 262152 s) rfl).rest .redeal rfl
@[simp] theorem resetCopies_fences (s : State) : (resetCopies s).fences = s.fences :=
  (resetCopies_moves s (Moves.refl 262152 s) rfl).rest .fences rfl
@[simp] theorem resetCopies_ecc (s : State) : (resetCopies s).ecc = s.ecc :=
  (resetCopies_moves s (Moves.refl 262152 s) rfl).rest .ecc rfl
@[simp] theorem resetCopies_link (s : State) : (resetCopies s).link = s.link :=
  (resetCopies_moves s (Moves.refl 262152 s) rfl).rest .link rfl
@[simp] theorem resetCopies_rounds (s : State) : (resetCopies s).rounds = s.rounds :=
  (resetCopies_moves s (Moves.refl 262152 s) rfl).rest .rounds rfl
@[simp] theorem resetCopies_dbg (s : State) : (resetCopies s).dbg = s.dbg :=
  (resetCopies_moves s (Moves.refl 262152 s) rfl).rest .dbg rfl
@[simp] theorem resetCopies_power (s : State) : (resetCopies s).power = s.power :=
  (resetCopies_moves s (Moves.refl 262152 s) rfl).rest .power rfl
@[simp] theorem resetCopies_pcie (s : State) : (resetCopies s).pcie = s.pcie :=
  (resetCopies_moves s (Moves.refl 262152 s) rfl).rest .pcie rfl
@[simp] theorem resetCopies_net (s : State) : (resetCopies s).net = s.net :=
  (resetCopies_moves s (Moves.refl 262152 s) rfl).rest .net rfl
@[simp] theorem resetCopies_asy (s : State) : (resetCopies s).asy = s.asy :=
  (resetCopies_moves s (Moves.refl 262152 s) rfl).rest .asy rfl

@[simp] theorem tripReport_pending (s : State) : (tripReport s).pending = s.pending :=
  (tripReport_moves s (Moves.refl 448456 s) rfl).rest .pending rfl
@[simp] theorem tripReport_held (s : State) : (tripReport s).held = s.held :=
  (tripReport_moves s (Moves.refl 448456 s) rfl).rest .held rfl
@[simp] theorem tripReport_freeCtr (s : State) : (tripReport s).freeCtr = s.freeCtr :=
  (tripReport_moves s (Moves.refl 448456 s) rfl).rest .freeCtr rfl
@[simp] theorem tripReport_now (s : State) : (tripReport s).now = s.now :=
  (tripReport_moves s (Moves.refl 448456 s) rfl).rest .now rfl
@[simp] theorem tripReport_boot (s : State) : (tripReport s).boot = s.boot :=
  (tripReport_moves s (Moves.refl 448456 s) rfl).rest .boot rfl
@[simp] theorem tripReport_beat (s : State) : (tripReport s).beat = s.beat :=
  (tripReport_moves s (Moves.refl 448456 s) rfl).rest .beat rfl
@[simp] theorem tripReport_redeal (s : State) : (tripReport s).redeal = s.redeal :=
  (tripReport_moves s (Moves.refl 448456 s) rfl).rest .redeal rfl
@[simp] theorem tripReport_ecc (s : State) : (tripReport s).ecc = s.ecc :=
  (tripReport_moves s (Moves.refl 448456 s) rfl).rest .ecc rfl
@[simp] theorem tripReport_dbg (s : State) : (tripReport s).dbg = s.dbg :=
  (tripReport_moves s (Moves.refl 448456 s) rfl).rest .dbg rfl
@[simp] theorem tripReport_pcie (s : State) : (tripReport s).pcie = s.pcie :=
  (tripReport_moves s (Moves.refl 448456 s) rfl).rest .pcie rfl
@[simp] theorem tripReport_net (s : State) : (tripReport s).net = s.net :=
  (tripReport_moves s (Moves.refl 448456 s) rfl).rest .net rfl
@[simp] theorem tripReport_asy (s : State) : (tripReport s).asy = s.asy :=
  (tripReport_moves s (Moves.refl 448456 s) rfl).rest .asy rfl

@[simp] theorem repairApply_pending (s : State) : (repairApply s).pending = s.pending :=
  (repairApply_moves s (Moves.refl 8192 s) rfl).rest .pending rfl
@[simp] theorem repairApply_held (s : State) : (repairApply s).held = s.held :=
  (repairApply_moves s (Moves.refl 8192 s) rfl).rest .held rfl
@[simp] theorem repairApply_freeCtr (s : State) : (repairApply s).freeCtr = s.freeCtr :=
  (repairApply_moves s (Moves.refl 8192 s) rfl).rest .freeCtr rfl
@[simp] theorem repairApply_now (s : State) : (repairApply s).now = s.now :=
  (repairApply_moves s (Moves.refl 8192 s) rfl).rest .now rfl
@[simp] theorem repairApply_boot (s : State) : (repairApply s).boot = s.boot :=
  (repairApply_moves s (Moves.refl 8192 s) rfl).rest .boot rfl
@[simp] theorem repairApply_beat (s : State) : (repairApply s).beat = s.beat :=
  (repairApply_moves s (Moves.refl 8192 s) rfl).rest .beat rfl
@[simp] theorem repairApply_cl (s : State) : (repairApply s).cl = s.cl :=
  (repairApply_moves s (Moves.refl 8192 s) rfl).rest .cl rfl
@[simp] theorem repairApply_dl (s : State) : (repairApply s).dl = s.dl :=
  (repairApply_moves s (Moves.refl 8192 s) rfl).rest .dl rfl
@[simp] theorem repairApply_tiers (s : State) : (repairApply s).tiers = s.tiers :=
  (repairApply_moves s (Moves.refl 8192 s) rfl).rest .tiers rfl
@[simp] theorem repairApply_sync (s : State) : (repairApply s).sync = s.sync :=
  (repairApply_moves s (Moves.refl 8192 s) rfl).rest .sync rfl
@[simp] theorem repairApply_fns (s : State) : (repairApply s).fns = s.fns :=
  (repairApply_moves s (Moves.refl 8192 s) rfl).rest .fns rfl
@[simp] theorem repairApply_redeal (s : State) : (repairApply s).redeal = s.redeal :=
  (repairApply_moves s (Moves.refl 8192 s) rfl).rest .redeal rfl
@[simp] theorem repairApply_fences (s : State) : (repairApply s).fences = s.fences :=
  (repairApply_moves s (Moves.refl 8192 s) rfl).rest .fences rfl
@[simp] theorem repairApply_link (s : State) : (repairApply s).link = s.link :=
  (repairApply_moves s (Moves.refl 8192 s) rfl).rest .link rfl
@[simp] theorem repairApply_rounds (s : State) : (repairApply s).rounds = s.rounds :=
  (repairApply_moves s (Moves.refl 8192 s) rfl).rest .rounds rfl
@[simp] theorem repairApply_dbg (s : State) : (repairApply s).dbg = s.dbg :=
  (repairApply_moves s (Moves.refl 8192 s) rfl).rest .dbg rfl
@[simp] theorem repairApply_power (s : State) : (repairApply s).power = s.power :=
  (repairApply_moves s (Moves.refl 8192 s) rfl).rest .power rfl
@[simp] theorem repairApply_mgmt (s : State) : (repairApply s).mgmt = s.mgmt :=
  (repairApply_moves s (Moves.refl 8192 s) rfl).rest .mgmt rfl
@[simp] theorem repairApply_pcie (s : State) : (repairApply s).pcie = s.pcie :=
  (repairApply_moves s (Moves.refl 8192 s) rfl).rest .pcie rfl
@[simp] theorem repairApply_net (s : State) : (repairApply s).net = s.net :=
  (repairApply_moves s (Moves.refl 8192 s) rfl).rest .net rfl
@[simp] theorem repairApply_asy (s : State) : (repairApply s).asy = s.asy :=
  (repairApply_moves s (Moves.refl 8192 s) rfl).rest .asy rfl
@[simp] theorem repairApply_out (s : State) : (repairApply s).out = s.out :=
  (repairApply_moves s (Moves.refl 8192 s) rfl).rest .out rfl

@[simp] theorem configApply_pending (s : State) : (configApply s).pending = s.pending :=
  (configApply_moves s (Moves.refl 17056 s) rfl).rest .pending rfl
@[simp] theorem configApply_held (s : State) : (configApply s).held = s.held :=
  (configApply_moves s (Moves.refl 17056 s) rfl).rest .held rfl
@[simp] theorem configApply_freeCtr (s : State) : (configApply s).freeCtr = s.freeCtr :=
  (configApply_moves s (Moves.refl 17056 s) rfl).rest .freeCtr rfl
@[simp] theorem configApply_now (s : State) : (configApply s).now = s.now :=
  (configApply_moves s (Moves.refl 17056 s) rfl).rest .now rfl
@[simp] theorem configApply_boot (s : State) : (configApply s).boot = s.boot :=
  (configApply_moves s (Moves.refl 17056 s) rfl).rest .boot rfl
@[simp] theorem configApply_cl (s : State) : (configApply s).cl = s.cl :=
  (configApply_moves s (Moves.refl 17056 s) rfl).rest .cl rfl
@[simp] theorem configApply_tiers (s : State) : (configApply s).tiers = s.tiers :=
  (configApply_moves s (Moves.refl 17056 s) rfl).rest .tiers rfl
@[simp] theorem configApply_fns (s : State) : (configApply s).fns = s.fns :=
  (configApply_moves s (Moves.refl 17056 s) rfl).rest .fns rfl
@[simp] theorem configApply_redeal (s : State) : (configApply s).redeal = s.redeal :=
  (configApply_moves s (Moves.refl 17056 s) rfl).rest .redeal rfl
@[simp] theorem configApply_fences (s : State) : (configApply s).fences = s.fences :=
  (configApply_moves s (Moves.refl 17056 s) rfl).rest .fences rfl
@[simp] theorem configApply_ecc (s : State) : (configApply s).ecc = s.ecc :=
  (configApply_moves s (Moves.refl 17056 s) rfl).rest .ecc rfl
@[simp] theorem configApply_rounds (s : State) : (configApply s).rounds = s.rounds :=
  (configApply_moves s (Moves.refl 17056 s) rfl).rest .rounds rfl
@[simp] theorem configApply_dbg (s : State) : (configApply s).dbg = s.dbg :=
  (configApply_moves s (Moves.refl 17056 s) rfl).rest .dbg rfl
@[simp] theorem configApply_power (s : State) : (configApply s).power = s.power :=
  (configApply_moves s (Moves.refl 17056 s) rfl).rest .power rfl
@[simp] theorem configApply_mgmt (s : State) : (configApply s).mgmt = s.mgmt :=
  (configApply_moves s (Moves.refl 17056 s) rfl).rest .mgmt rfl
@[simp] theorem configApply_pcie (s : State) : (configApply s).pcie = s.pcie :=
  (configApply_moves s (Moves.refl 17056 s) rfl).rest .pcie rfl
@[simp] theorem configApply_net (s : State) : (configApply s).net = s.net :=
  (configApply_moves s (Moves.refl 17056 s) rfl).rest .net rfl
@[simp] theorem configApply_asy (s : State) : (configApply s).asy = s.asy :=
  (configApply_moves s (Moves.refl 17056 s) rfl).rest .asy rfl
@[simp] theorem configApply_out (s : State) : (configApply s).out = s.out :=
  (configApply_moves s (Moves.refl 17056 s) rfl).rest .out rfl

@[simp] theorem loadSlots_pending (s : State) : (loadSlots s).pending = s.pending :=
  (loadSlots_moves s (Moves.refl 128 s) rfl).rest .pending rfl
@[simp] theorem loadSlots_held (s : State) : (loadSlots s).held = s.held :=
  (loadSlots_moves s (Moves.refl 128 s) rfl).rest .held rfl
@[simp] theorem loadSlots_freeCtr (s : State) : (loadSlots s).freeCtr = s.freeCtr :=
  (loadSlots_moves s (Moves.refl 128 s) rfl).rest .freeCtr rfl
@[simp] theorem loadSlots_now (s : State) : (loadSlots s).now = s.now :=
  (loadSlots_moves s (Moves.refl 128 s) rfl).rest .now rfl
@[simp] theorem loadSlots_boot (s : State) : (loadSlots s).boot = s.boot :=
  (loadSlots_moves s (Moves.refl 128 s) rfl).rest .boot rfl
@[simp] theorem loadSlots_beat (s : State) : (loadSlots s).beat = s.beat :=
  (loadSlots_moves s (Moves.refl 128 s) rfl).rest .beat rfl
@[simp] theorem loadSlots_cl (s : State) : (loadSlots s).cl = s.cl :=
  (loadSlots_moves s (Moves.refl 128 s) rfl).rest .cl rfl
@[simp] theorem loadSlots_tiers (s : State) : (loadSlots s).tiers = s.tiers :=
  (loadSlots_moves s (Moves.refl 128 s) rfl).rest .tiers rfl
@[simp] theorem loadSlots_sync (s : State) : (loadSlots s).sync = s.sync :=
  (loadSlots_moves s (Moves.refl 128 s) rfl).rest .sync rfl
@[simp] theorem loadSlots_fns (s : State) : (loadSlots s).fns = s.fns :=
  (loadSlots_moves s (Moves.refl 128 s) rfl).rest .fns rfl
@[simp] theorem loadSlots_redeal (s : State) : (loadSlots s).redeal = s.redeal :=
  (loadSlots_moves s (Moves.refl 128 s) rfl).rest .redeal rfl
@[simp] theorem loadSlots_fences (s : State) : (loadSlots s).fences = s.fences :=
  (loadSlots_moves s (Moves.refl 128 s) rfl).rest .fences rfl
@[simp] theorem loadSlots_ecc (s : State) : (loadSlots s).ecc = s.ecc :=
  (loadSlots_moves s (Moves.refl 128 s) rfl).rest .ecc rfl
@[simp] theorem loadSlots_link (s : State) : (loadSlots s).link = s.link :=
  (loadSlots_moves s (Moves.refl 128 s) rfl).rest .link rfl
@[simp] theorem loadSlots_rounds (s : State) : (loadSlots s).rounds = s.rounds :=
  (loadSlots_moves s (Moves.refl 128 s) rfl).rest .rounds rfl
@[simp] theorem loadSlots_dbg (s : State) : (loadSlots s).dbg = s.dbg :=
  (loadSlots_moves s (Moves.refl 128 s) rfl).rest .dbg rfl
@[simp] theorem loadSlots_power (s : State) : (loadSlots s).power = s.power :=
  (loadSlots_moves s (Moves.refl 128 s) rfl).rest .power rfl
@[simp] theorem loadSlots_mgmt (s : State) : (loadSlots s).mgmt = s.mgmt :=
  (loadSlots_moves s (Moves.refl 128 s) rfl).rest .mgmt rfl
@[simp] theorem loadSlots_pcie (s : State) : (loadSlots s).pcie = s.pcie :=
  (loadSlots_moves s (Moves.refl 128 s) rfl).rest .pcie rfl
@[simp] theorem loadSlots_net (s : State) : (loadSlots s).net = s.net :=
  (loadSlots_moves s (Moves.refl 128 s) rfl).rest .net rfl
@[simp] theorem loadSlots_asy (s : State) : (loadSlots s).asy = s.asy :=
  (loadSlots_moves s (Moves.refl 128 s) rfl).rest .asy rfl
@[simp] theorem loadSlots_out (s : State) : (loadSlots s).out = s.out :=
  (loadSlots_moves s (Moves.refl 128 s) rfl).rest .out rfl

@[simp] theorem measureBoot_pending (s : State) : (measureBoot s).pending = s.pending :=
  (measureBoot_moves s (Moves.refl 65536 s) rfl).rest .pending rfl
@[simp] theorem measureBoot_held (s : State) : (measureBoot s).held = s.held :=
  (measureBoot_moves s (Moves.refl 65536 s) rfl).rest .held rfl
@[simp] theorem measureBoot_freeCtr (s : State) : (measureBoot s).freeCtr = s.freeCtr :=
  (measureBoot_moves s (Moves.refl 65536 s) rfl).rest .freeCtr rfl
@[simp] theorem measureBoot_now (s : State) : (measureBoot s).now = s.now :=
  (measureBoot_moves s (Moves.refl 65536 s) rfl).rest .now rfl
@[simp] theorem measureBoot_boot (s : State) : (measureBoot s).boot = s.boot :=
  (measureBoot_moves s (Moves.refl 65536 s) rfl).rest .boot rfl
@[simp] theorem measureBoot_beat (s : State) : (measureBoot s).beat = s.beat :=
  (measureBoot_moves s (Moves.refl 65536 s) rfl).rest .beat rfl
@[simp] theorem measureBoot_cl (s : State) : (measureBoot s).cl = s.cl :=
  (measureBoot_moves s (Moves.refl 65536 s) rfl).rest .cl rfl
@[simp] theorem measureBoot_dl (s : State) : (measureBoot s).dl = s.dl :=
  (measureBoot_moves s (Moves.refl 65536 s) rfl).rest .dl rfl
@[simp] theorem measureBoot_tiers (s : State) : (measureBoot s).tiers = s.tiers :=
  (measureBoot_moves s (Moves.refl 65536 s) rfl).rest .tiers rfl
@[simp] theorem measureBoot_sync (s : State) : (measureBoot s).sync = s.sync :=
  (measureBoot_moves s (Moves.refl 65536 s) rfl).rest .sync rfl
@[simp] theorem measureBoot_fns (s : State) : (measureBoot s).fns = s.fns :=
  (measureBoot_moves s (Moves.refl 65536 s) rfl).rest .fns rfl
@[simp] theorem measureBoot_redeal (s : State) : (measureBoot s).redeal = s.redeal :=
  (measureBoot_moves s (Moves.refl 65536 s) rfl).rest .redeal rfl
@[simp] theorem measureBoot_fences (s : State) : (measureBoot s).fences = s.fences :=
  (measureBoot_moves s (Moves.refl 65536 s) rfl).rest .fences rfl
@[simp] theorem measureBoot_ecc (s : State) : (measureBoot s).ecc = s.ecc :=
  (measureBoot_moves s (Moves.refl 65536 s) rfl).rest .ecc rfl
@[simp] theorem measureBoot_link (s : State) : (measureBoot s).link = s.link :=
  (measureBoot_moves s (Moves.refl 65536 s) rfl).rest .link rfl
@[simp] theorem measureBoot_rounds (s : State) : (measureBoot s).rounds = s.rounds :=
  (measureBoot_moves s (Moves.refl 65536 s) rfl).rest .rounds rfl
@[simp] theorem measureBoot_power (s : State) : (measureBoot s).power = s.power :=
  (measureBoot_moves s (Moves.refl 65536 s) rfl).rest .power rfl
@[simp] theorem measureBoot_mgmt (s : State) : (measureBoot s).mgmt = s.mgmt :=
  (measureBoot_moves s (Moves.refl 65536 s) rfl).rest .mgmt rfl
@[simp] theorem measureBoot_pcie (s : State) : (measureBoot s).pcie = s.pcie :=
  (measureBoot_moves s (Moves.refl 65536 s) rfl).rest .pcie rfl
@[simp] theorem measureBoot_net (s : State) : (measureBoot s).net = s.net :=
  (measureBoot_moves s (Moves.refl 65536 s) rfl).rest .net rfl
@[simp] theorem measureBoot_asy (s : State) : (measureBoot s).asy = s.asy :=
  (measureBoot_moves s (Moves.refl 65536 s) rfl).rest .asy rfl
@[simp] theorem measureBoot_out (s : State) : (measureBoot s).out = s.out :=
  (measureBoot_moves s (Moves.refl 65536 s) rfl).rest .out rfl

@[simp] theorem seatCheck_pending (s : State) : (seatCheck s).pending = s.pending :=
  (seatCheck_moves s (Moves.refl 16 s) rfl).rest .pending rfl
@[simp] theorem seatCheck_held (s : State) : (seatCheck s).held = s.held :=
  (seatCheck_moves s (Moves.refl 16 s) rfl).rest .held rfl
@[simp] theorem seatCheck_freeCtr (s : State) : (seatCheck s).freeCtr = s.freeCtr :=
  (seatCheck_moves s (Moves.refl 16 s) rfl).rest .freeCtr rfl
@[simp] theorem seatCheck_now (s : State) : (seatCheck s).now = s.now :=
  (seatCheck_moves s (Moves.refl 16 s) rfl).rest .now rfl
@[simp] theorem seatCheck_beat (s : State) : (seatCheck s).beat = s.beat :=
  (seatCheck_moves s (Moves.refl 16 s) rfl).rest .beat rfl
@[simp] theorem seatCheck_cl (s : State) : (seatCheck s).cl = s.cl :=
  (seatCheck_moves s (Moves.refl 16 s) rfl).rest .cl rfl
@[simp] theorem seatCheck_dl (s : State) : (seatCheck s).dl = s.dl :=
  (seatCheck_moves s (Moves.refl 16 s) rfl).rest .dl rfl
@[simp] theorem seatCheck_tiers (s : State) : (seatCheck s).tiers = s.tiers :=
  (seatCheck_moves s (Moves.refl 16 s) rfl).rest .tiers rfl
@[simp] theorem seatCheck_sync (s : State) : (seatCheck s).sync = s.sync :=
  (seatCheck_moves s (Moves.refl 16 s) rfl).rest .sync rfl
@[simp] theorem seatCheck_fns (s : State) : (seatCheck s).fns = s.fns :=
  (seatCheck_moves s (Moves.refl 16 s) rfl).rest .fns rfl
@[simp] theorem seatCheck_redeal (s : State) : (seatCheck s).redeal = s.redeal :=
  (seatCheck_moves s (Moves.refl 16 s) rfl).rest .redeal rfl
@[simp] theorem seatCheck_fences (s : State) : (seatCheck s).fences = s.fences :=
  (seatCheck_moves s (Moves.refl 16 s) rfl).rest .fences rfl
@[simp] theorem seatCheck_ecc (s : State) : (seatCheck s).ecc = s.ecc :=
  (seatCheck_moves s (Moves.refl 16 s) rfl).rest .ecc rfl
@[simp] theorem seatCheck_link (s : State) : (seatCheck s).link = s.link :=
  (seatCheck_moves s (Moves.refl 16 s) rfl).rest .link rfl
@[simp] theorem seatCheck_rounds (s : State) : (seatCheck s).rounds = s.rounds :=
  (seatCheck_moves s (Moves.refl 16 s) rfl).rest .rounds rfl
@[simp] theorem seatCheck_dbg (s : State) : (seatCheck s).dbg = s.dbg :=
  (seatCheck_moves s (Moves.refl 16 s) rfl).rest .dbg rfl
@[simp] theorem seatCheck_power (s : State) : (seatCheck s).power = s.power :=
  (seatCheck_moves s (Moves.refl 16 s) rfl).rest .power rfl
@[simp] theorem seatCheck_mgmt (s : State) : (seatCheck s).mgmt = s.mgmt :=
  (seatCheck_moves s (Moves.refl 16 s) rfl).rest .mgmt rfl
@[simp] theorem seatCheck_pcie (s : State) : (seatCheck s).pcie = s.pcie :=
  (seatCheck_moves s (Moves.refl 16 s) rfl).rest .pcie rfl
@[simp] theorem seatCheck_net (s : State) : (seatCheck s).net = s.net :=
  (seatCheck_moves s (Moves.refl 16 s) rfl).rest .net rfl
@[simp] theorem seatCheck_asy (s : State) : (seatCheck s).asy = s.asy :=
  (seatCheck_moves s (Moves.refl 16 s) rfl).rest .asy rfl
@[simp] theorem seatCheck_out (s : State) : (seatCheck s).out = s.out :=
  (seatCheck_moves s (Moves.refl 16 s) rfl).rest .out rfl

@[simp] theorem restartEndpoint_pending (s : State) : (restartEndpoint s).pending = s.pending :=
  (restartEndpoint_moves s (Moves.refl 262144 s) rfl).rest .pending rfl
@[simp] theorem restartEndpoint_held (s : State) : (restartEndpoint s).held = s.held :=
  (restartEndpoint_moves s (Moves.refl 262144 s) rfl).rest .held rfl
@[simp] theorem restartEndpoint_freeCtr (s : State) : (restartEndpoint s).freeCtr = s.freeCtr :=
  (restartEndpoint_moves s (Moves.refl 262144 s) rfl).rest .freeCtr rfl
@[simp] theorem restartEndpoint_now (s : State) : (restartEndpoint s).now = s.now :=
  (restartEndpoint_moves s (Moves.refl 262144 s) rfl).rest .now rfl
@[simp] theorem restartEndpoint_boot (s : State) : (restartEndpoint s).boot = s.boot :=
  (restartEndpoint_moves s (Moves.refl 262144 s) rfl).rest .boot rfl
@[simp] theorem restartEndpoint_beat (s : State) : (restartEndpoint s).beat = s.beat :=
  (restartEndpoint_moves s (Moves.refl 262144 s) rfl).rest .beat rfl
@[simp] theorem restartEndpoint_cl (s : State) : (restartEndpoint s).cl = s.cl :=
  (restartEndpoint_moves s (Moves.refl 262144 s) rfl).rest .cl rfl
@[simp] theorem restartEndpoint_dl (s : State) : (restartEndpoint s).dl = s.dl :=
  (restartEndpoint_moves s (Moves.refl 262144 s) rfl).rest .dl rfl
@[simp] theorem restartEndpoint_tiers (s : State) : (restartEndpoint s).tiers = s.tiers :=
  (restartEndpoint_moves s (Moves.refl 262144 s) rfl).rest .tiers rfl
@[simp] theorem restartEndpoint_sync (s : State) : (restartEndpoint s).sync = s.sync :=
  (restartEndpoint_moves s (Moves.refl 262144 s) rfl).rest .sync rfl
@[simp] theorem restartEndpoint_fns (s : State) : (restartEndpoint s).fns = s.fns :=
  (restartEndpoint_moves s (Moves.refl 262144 s) rfl).rest .fns rfl
@[simp] theorem restartEndpoint_redeal (s : State) : (restartEndpoint s).redeal = s.redeal :=
  (restartEndpoint_moves s (Moves.refl 262144 s) rfl).rest .redeal rfl
@[simp] theorem restartEndpoint_fences (s : State) : (restartEndpoint s).fences = s.fences :=
  (restartEndpoint_moves s (Moves.refl 262144 s) rfl).rest .fences rfl
@[simp] theorem restartEndpoint_ecc (s : State) : (restartEndpoint s).ecc = s.ecc :=
  (restartEndpoint_moves s (Moves.refl 262144 s) rfl).rest .ecc rfl
@[simp] theorem restartEndpoint_link (s : State) : (restartEndpoint s).link = s.link :=
  (restartEndpoint_moves s (Moves.refl 262144 s) rfl).rest .link rfl
@[simp] theorem restartEndpoint_rounds (s : State) : (restartEndpoint s).rounds = s.rounds :=
  (restartEndpoint_moves s (Moves.refl 262144 s) rfl).rest .rounds rfl
@[simp] theorem restartEndpoint_dbg (s : State) : (restartEndpoint s).dbg = s.dbg :=
  (restartEndpoint_moves s (Moves.refl 262144 s) rfl).rest .dbg rfl
@[simp] theorem restartEndpoint_power (s : State) : (restartEndpoint s).power = s.power :=
  (restartEndpoint_moves s (Moves.refl 262144 s) rfl).rest .power rfl
@[simp] theorem restartEndpoint_pcie (s : State) : (restartEndpoint s).pcie = s.pcie :=
  (restartEndpoint_moves s (Moves.refl 262144 s) rfl).rest .pcie rfl
@[simp] theorem restartEndpoint_net (s : State) : (restartEndpoint s).net = s.net :=
  (restartEndpoint_moves s (Moves.refl 262144 s) rfl).rest .net rfl
@[simp] theorem restartEndpoint_asy (s : State) : (restartEndpoint s).asy = s.asy :=
  (restartEndpoint_moves s (Moves.refl 262144 s) rfl).rest .asy rfl
@[simp] theorem restartEndpoint_out (s : State) : (restartEndpoint s).out = s.out :=
  (restartEndpoint_moves s (Moves.refl 262144 s) rfl).rest .out rfl

@[simp] theorem removeMacro_pending (s : State) (mid : Nat) : (removeMacro s mid).pending = s.pending :=
  (removeMacro_moves s mid (Moves.refl 128 s) rfl).rest .pending rfl
@[simp] theorem removeMacro_held (s : State) (mid : Nat) : (removeMacro s mid).held = s.held :=
  (removeMacro_moves s mid (Moves.refl 128 s) rfl).rest .held rfl
@[simp] theorem removeMacro_freeCtr (s : State) (mid : Nat) : (removeMacro s mid).freeCtr = s.freeCtr :=
  (removeMacro_moves s mid (Moves.refl 128 s) rfl).rest .freeCtr rfl
@[simp] theorem removeMacro_now (s : State) (mid : Nat) : (removeMacro s mid).now = s.now :=
  (removeMacro_moves s mid (Moves.refl 128 s) rfl).rest .now rfl
@[simp] theorem removeMacro_boot (s : State) (mid : Nat) : (removeMacro s mid).boot = s.boot :=
  (removeMacro_moves s mid (Moves.refl 128 s) rfl).rest .boot rfl
@[simp] theorem removeMacro_beat (s : State) (mid : Nat) : (removeMacro s mid).beat = s.beat :=
  (removeMacro_moves s mid (Moves.refl 128 s) rfl).rest .beat rfl
@[simp] theorem removeMacro_cl (s : State) (mid : Nat) : (removeMacro s mid).cl = s.cl :=
  (removeMacro_moves s mid (Moves.refl 128 s) rfl).rest .cl rfl
@[simp] theorem removeMacro_tiers (s : State) (mid : Nat) : (removeMacro s mid).tiers = s.tiers :=
  (removeMacro_moves s mid (Moves.refl 128 s) rfl).rest .tiers rfl
@[simp] theorem removeMacro_sync (s : State) (mid : Nat) : (removeMacro s mid).sync = s.sync :=
  (removeMacro_moves s mid (Moves.refl 128 s) rfl).rest .sync rfl
@[simp] theorem removeMacro_fns (s : State) (mid : Nat) : (removeMacro s mid).fns = s.fns :=
  (removeMacro_moves s mid (Moves.refl 128 s) rfl).rest .fns rfl
@[simp] theorem removeMacro_redeal (s : State) (mid : Nat) : (removeMacro s mid).redeal = s.redeal :=
  (removeMacro_moves s mid (Moves.refl 128 s) rfl).rest .redeal rfl
@[simp] theorem removeMacro_fences (s : State) (mid : Nat) : (removeMacro s mid).fences = s.fences :=
  (removeMacro_moves s mid (Moves.refl 128 s) rfl).rest .fences rfl
@[simp] theorem removeMacro_ecc (s : State) (mid : Nat) : (removeMacro s mid).ecc = s.ecc :=
  (removeMacro_moves s mid (Moves.refl 128 s) rfl).rest .ecc rfl
@[simp] theorem removeMacro_link (s : State) (mid : Nat) : (removeMacro s mid).link = s.link :=
  (removeMacro_moves s mid (Moves.refl 128 s) rfl).rest .link rfl
@[simp] theorem removeMacro_rounds (s : State) (mid : Nat) : (removeMacro s mid).rounds = s.rounds :=
  (removeMacro_moves s mid (Moves.refl 128 s) rfl).rest .rounds rfl
@[simp] theorem removeMacro_dbg (s : State) (mid : Nat) : (removeMacro s mid).dbg = s.dbg :=
  (removeMacro_moves s mid (Moves.refl 128 s) rfl).rest .dbg rfl
@[simp] theorem removeMacro_power (s : State) (mid : Nat) : (removeMacro s mid).power = s.power :=
  (removeMacro_moves s mid (Moves.refl 128 s) rfl).rest .power rfl
@[simp] theorem removeMacro_mgmt (s : State) (mid : Nat) : (removeMacro s mid).mgmt = s.mgmt :=
  (removeMacro_moves s mid (Moves.refl 128 s) rfl).rest .mgmt rfl
@[simp] theorem removeMacro_pcie (s : State) (mid : Nat) : (removeMacro s mid).pcie = s.pcie :=
  (removeMacro_moves s mid (Moves.refl 128 s) rfl).rest .pcie rfl
@[simp] theorem removeMacro_net (s : State) (mid : Nat) : (removeMacro s mid).net = s.net :=
  (removeMacro_moves s mid (Moves.refl 128 s) rfl).rest .net rfl
@[simp] theorem removeMacro_asy (s : State) (mid : Nat) : (removeMacro s mid).asy = s.asy :=
  (removeMacro_moves s mid (Moves.refl 128 s) rfl).rest .asy rfl
@[simp] theorem removeMacro_out (s : State) (mid : Nat) : (removeMacro s mid).out = s.out :=
  (removeMacro_moves s mid (Moves.refl 128 s) rfl).rest .out rfl

@[simp] theorem dropMacro_pending (s : State) (mid : Nat) : (dropMacro s mid).pending = s.pending :=
  (dropMacro_moves s mid (Moves.refl 128 s) rfl).rest .pending rfl
@[simp] theorem dropMacro_held (s : State) (mid : Nat) : (dropMacro s mid).held = s.held :=
  (dropMacro_moves s mid (Moves.refl 128 s) rfl).rest .held rfl
@[simp] theorem dropMacro_freeCtr (s : State) (mid : Nat) : (dropMacro s mid).freeCtr = s.freeCtr :=
  (dropMacro_moves s mid (Moves.refl 128 s) rfl).rest .freeCtr rfl
@[simp] theorem dropMacro_now (s : State) (mid : Nat) : (dropMacro s mid).now = s.now :=
  (dropMacro_moves s mid (Moves.refl 128 s) rfl).rest .now rfl
@[simp] theorem dropMacro_boot (s : State) (mid : Nat) : (dropMacro s mid).boot = s.boot :=
  (dropMacro_moves s mid (Moves.refl 128 s) rfl).rest .boot rfl
@[simp] theorem dropMacro_beat (s : State) (mid : Nat) : (dropMacro s mid).beat = s.beat :=
  (dropMacro_moves s mid (Moves.refl 128 s) rfl).rest .beat rfl
@[simp] theorem dropMacro_cl (s : State) (mid : Nat) : (dropMacro s mid).cl = s.cl :=
  (dropMacro_moves s mid (Moves.refl 128 s) rfl).rest .cl rfl
@[simp] theorem dropMacro_tiers (s : State) (mid : Nat) : (dropMacro s mid).tiers = s.tiers :=
  (dropMacro_moves s mid (Moves.refl 128 s) rfl).rest .tiers rfl
@[simp] theorem dropMacro_sync (s : State) (mid : Nat) : (dropMacro s mid).sync = s.sync :=
  (dropMacro_moves s mid (Moves.refl 128 s) rfl).rest .sync rfl
@[simp] theorem dropMacro_fns (s : State) (mid : Nat) : (dropMacro s mid).fns = s.fns :=
  (dropMacro_moves s mid (Moves.refl 128 s) rfl).rest .fns rfl
@[simp] theorem dropMacro_redeal (s : State) (mid : Nat) : (dropMacro s mid).redeal = s.redeal :=
  (dropMacro_moves s mid (Moves.refl 128 s) rfl).rest .redeal rfl
@[simp] theorem dropMacro_fences (s : State) (mid : Nat) : (dropMacro s mid).fences = s.fences :=
  (dropMacro_moves s mid (Moves.refl 128 s) rfl).rest .fences rfl
@[simp] theorem dropMacro_ecc (s : State) (mid : Nat) : (dropMacro s mid).ecc = s.ecc :=
  (dropMacro_moves s mid (Moves.refl 128 s) rfl).rest .ecc rfl
@[simp] theorem dropMacro_link (s : State) (mid : Nat) : (dropMacro s mid).link = s.link :=
  (dropMacro_moves s mid (Moves.refl 128 s) rfl).rest .link rfl
@[simp] theorem dropMacro_rounds (s : State) (mid : Nat) : (dropMacro s mid).rounds = s.rounds :=
  (dropMacro_moves s mid (Moves.refl 128 s) rfl).rest .rounds rfl
@[simp] theorem dropMacro_dbg (s : State) (mid : Nat) : (dropMacro s mid).dbg = s.dbg :=
  (dropMacro_moves s mid (Moves.refl 128 s) rfl).rest .dbg rfl
@[simp] theorem dropMacro_power (s : State) (mid : Nat) : (dropMacro s mid).power = s.power :=
  (dropMacro_moves s mid (Moves.refl 128 s) rfl).rest .power rfl
@[simp] theorem dropMacro_mgmt (s : State) (mid : Nat) : (dropMacro s mid).mgmt = s.mgmt :=
  (dropMacro_moves s mid (Moves.refl 128 s) rfl).rest .mgmt rfl
@[simp] theorem dropMacro_pcie (s : State) (mid : Nat) : (dropMacro s mid).pcie = s.pcie :=
  (dropMacro_moves s mid (Moves.refl 128 s) rfl).rest .pcie rfl
@[simp] theorem dropMacro_net (s : State) (mid : Nat) : (dropMacro s mid).net = s.net :=
  (dropMacro_moves s mid (Moves.refl 128 s) rfl).rest .net rfl
@[simp] theorem dropMacro_asy (s : State) (mid : Nat) : (dropMacro s mid).asy = s.asy :=
  (dropMacro_moves s mid (Moves.refl 128 s) rfl).rest .asy rfl
@[simp] theorem dropMacro_out (s : State) (mid : Nat) : (dropMacro s mid).out = s.out :=
  (dropMacro_moves s mid (Moves.refl 128 s) rfl).rest .out rfl

@[simp] theorem releaseHoldings_pending (s : State) (shoe : Nat) (seq : Nat) : (releaseHoldings s shoe seq).pending = s.pending :=
  (releaseHoldings_moves s shoe seq (Moves.refl 128 s) rfl).rest .pending rfl
@[simp] theorem releaseHoldings_held (s : State) (shoe : Nat) (seq : Nat) : (releaseHoldings s shoe seq).held = s.held :=
  (releaseHoldings_moves s shoe seq (Moves.refl 128 s) rfl).rest .held rfl
@[simp] theorem releaseHoldings_freeCtr (s : State) (shoe : Nat) (seq : Nat) : (releaseHoldings s shoe seq).freeCtr = s.freeCtr :=
  (releaseHoldings_moves s shoe seq (Moves.refl 128 s) rfl).rest .freeCtr rfl
@[simp] theorem releaseHoldings_now (s : State) (shoe : Nat) (seq : Nat) : (releaseHoldings s shoe seq).now = s.now :=
  (releaseHoldings_moves s shoe seq (Moves.refl 128 s) rfl).rest .now rfl
@[simp] theorem releaseHoldings_boot (s : State) (shoe : Nat) (seq : Nat) : (releaseHoldings s shoe seq).boot = s.boot :=
  (releaseHoldings_moves s shoe seq (Moves.refl 128 s) rfl).rest .boot rfl
@[simp] theorem releaseHoldings_beat (s : State) (shoe : Nat) (seq : Nat) : (releaseHoldings s shoe seq).beat = s.beat :=
  (releaseHoldings_moves s shoe seq (Moves.refl 128 s) rfl).rest .beat rfl
@[simp] theorem releaseHoldings_cl (s : State) (shoe : Nat) (seq : Nat) : (releaseHoldings s shoe seq).cl = s.cl :=
  (releaseHoldings_moves s shoe seq (Moves.refl 128 s) rfl).rest .cl rfl
@[simp] theorem releaseHoldings_tiers (s : State) (shoe : Nat) (seq : Nat) : (releaseHoldings s shoe seq).tiers = s.tiers :=
  (releaseHoldings_moves s shoe seq (Moves.refl 128 s) rfl).rest .tiers rfl
@[simp] theorem releaseHoldings_sync (s : State) (shoe : Nat) (seq : Nat) : (releaseHoldings s shoe seq).sync = s.sync :=
  (releaseHoldings_moves s shoe seq (Moves.refl 128 s) rfl).rest .sync rfl
@[simp] theorem releaseHoldings_fns (s : State) (shoe : Nat) (seq : Nat) : (releaseHoldings s shoe seq).fns = s.fns :=
  (releaseHoldings_moves s shoe seq (Moves.refl 128 s) rfl).rest .fns rfl
@[simp] theorem releaseHoldings_redeal (s : State) (shoe : Nat) (seq : Nat) : (releaseHoldings s shoe seq).redeal = s.redeal :=
  (releaseHoldings_moves s shoe seq (Moves.refl 128 s) rfl).rest .redeal rfl
@[simp] theorem releaseHoldings_fences (s : State) (shoe : Nat) (seq : Nat) : (releaseHoldings s shoe seq).fences = s.fences :=
  (releaseHoldings_moves s shoe seq (Moves.refl 128 s) rfl).rest .fences rfl
@[simp] theorem releaseHoldings_ecc (s : State) (shoe : Nat) (seq : Nat) : (releaseHoldings s shoe seq).ecc = s.ecc :=
  (releaseHoldings_moves s shoe seq (Moves.refl 128 s) rfl).rest .ecc rfl
@[simp] theorem releaseHoldings_link (s : State) (shoe : Nat) (seq : Nat) : (releaseHoldings s shoe seq).link = s.link :=
  (releaseHoldings_moves s shoe seq (Moves.refl 128 s) rfl).rest .link rfl
@[simp] theorem releaseHoldings_rounds (s : State) (shoe : Nat) (seq : Nat) : (releaseHoldings s shoe seq).rounds = s.rounds :=
  (releaseHoldings_moves s shoe seq (Moves.refl 128 s) rfl).rest .rounds rfl
@[simp] theorem releaseHoldings_dbg (s : State) (shoe : Nat) (seq : Nat) : (releaseHoldings s shoe seq).dbg = s.dbg :=
  (releaseHoldings_moves s shoe seq (Moves.refl 128 s) rfl).rest .dbg rfl
@[simp] theorem releaseHoldings_power (s : State) (shoe : Nat) (seq : Nat) : (releaseHoldings s shoe seq).power = s.power :=
  (releaseHoldings_moves s shoe seq (Moves.refl 128 s) rfl).rest .power rfl
@[simp] theorem releaseHoldings_mgmt (s : State) (shoe : Nat) (seq : Nat) : (releaseHoldings s shoe seq).mgmt = s.mgmt :=
  (releaseHoldings_moves s shoe seq (Moves.refl 128 s) rfl).rest .mgmt rfl
@[simp] theorem releaseHoldings_pcie (s : State) (shoe : Nat) (seq : Nat) : (releaseHoldings s shoe seq).pcie = s.pcie :=
  (releaseHoldings_moves s shoe seq (Moves.refl 128 s) rfl).rest .pcie rfl
@[simp] theorem releaseHoldings_net (s : State) (shoe : Nat) (seq : Nat) : (releaseHoldings s shoe seq).net = s.net :=
  (releaseHoldings_moves s shoe seq (Moves.refl 128 s) rfl).rest .net rfl
@[simp] theorem releaseHoldings_asy (s : State) (shoe : Nat) (seq : Nat) : (releaseHoldings s shoe seq).asy = s.asy :=
  (releaseHoldings_moves s shoe seq (Moves.refl 128 s) rfl).rest .asy rfl
@[simp] theorem releaseHoldings_out (s : State) (shoe : Nat) (seq : Nat) : (releaseHoldings s shoe seq).out = s.out :=
  (releaseHoldings_moves s shoe seq (Moves.refl 128 s) rfl).rest .out rfl

@[simp] theorem failItem_pending (s : State) (shoe : Nat) (seq : Nat) (o : Outcome) : (failItem s shoe seq o).pending = s.pending :=
  (failItem_moves s shoe seq o (Moves.refl 128 s) rfl).rest .pending rfl
@[simp] theorem failItem_held (s : State) (shoe : Nat) (seq : Nat) (o : Outcome) : (failItem s shoe seq o).held = s.held :=
  (failItem_moves s shoe seq o (Moves.refl 128 s) rfl).rest .held rfl
@[simp] theorem failItem_freeCtr (s : State) (shoe : Nat) (seq : Nat) (o : Outcome) : (failItem s shoe seq o).freeCtr = s.freeCtr :=
  (failItem_moves s shoe seq o (Moves.refl 128 s) rfl).rest .freeCtr rfl
@[simp] theorem failItem_now (s : State) (shoe : Nat) (seq : Nat) (o : Outcome) : (failItem s shoe seq o).now = s.now :=
  (failItem_moves s shoe seq o (Moves.refl 128 s) rfl).rest .now rfl
@[simp] theorem failItem_boot (s : State) (shoe : Nat) (seq : Nat) (o : Outcome) : (failItem s shoe seq o).boot = s.boot :=
  (failItem_moves s shoe seq o (Moves.refl 128 s) rfl).rest .boot rfl
@[simp] theorem failItem_beat (s : State) (shoe : Nat) (seq : Nat) (o : Outcome) : (failItem s shoe seq o).beat = s.beat :=
  (failItem_moves s shoe seq o (Moves.refl 128 s) rfl).rest .beat rfl
@[simp] theorem failItem_cl (s : State) (shoe : Nat) (seq : Nat) (o : Outcome) : (failItem s shoe seq o).cl = s.cl :=
  (failItem_moves s shoe seq o (Moves.refl 128 s) rfl).rest .cl rfl
@[simp] theorem failItem_tiers (s : State) (shoe : Nat) (seq : Nat) (o : Outcome) : (failItem s shoe seq o).tiers = s.tiers :=
  (failItem_moves s shoe seq o (Moves.refl 128 s) rfl).rest .tiers rfl
@[simp] theorem failItem_sync (s : State) (shoe : Nat) (seq : Nat) (o : Outcome) : (failItem s shoe seq o).sync = s.sync :=
  (failItem_moves s shoe seq o (Moves.refl 128 s) rfl).rest .sync rfl
@[simp] theorem failItem_fns (s : State) (shoe : Nat) (seq : Nat) (o : Outcome) : (failItem s shoe seq o).fns = s.fns :=
  (failItem_moves s shoe seq o (Moves.refl 128 s) rfl).rest .fns rfl
@[simp] theorem failItem_redeal (s : State) (shoe : Nat) (seq : Nat) (o : Outcome) : (failItem s shoe seq o).redeal = s.redeal :=
  (failItem_moves s shoe seq o (Moves.refl 128 s) rfl).rest .redeal rfl
@[simp] theorem failItem_fences (s : State) (shoe : Nat) (seq : Nat) (o : Outcome) : (failItem s shoe seq o).fences = s.fences :=
  (failItem_moves s shoe seq o (Moves.refl 128 s) rfl).rest .fences rfl
@[simp] theorem failItem_ecc (s : State) (shoe : Nat) (seq : Nat) (o : Outcome) : (failItem s shoe seq o).ecc = s.ecc :=
  (failItem_moves s shoe seq o (Moves.refl 128 s) rfl).rest .ecc rfl
@[simp] theorem failItem_link (s : State) (shoe : Nat) (seq : Nat) (o : Outcome) : (failItem s shoe seq o).link = s.link :=
  (failItem_moves s shoe seq o (Moves.refl 128 s) rfl).rest .link rfl
@[simp] theorem failItem_rounds (s : State) (shoe : Nat) (seq : Nat) (o : Outcome) : (failItem s shoe seq o).rounds = s.rounds :=
  (failItem_moves s shoe seq o (Moves.refl 128 s) rfl).rest .rounds rfl
@[simp] theorem failItem_dbg (s : State) (shoe : Nat) (seq : Nat) (o : Outcome) : (failItem s shoe seq o).dbg = s.dbg :=
  (failItem_moves s shoe seq o (Moves.refl 128 s) rfl).rest .dbg rfl
@[simp] theorem failItem_power (s : State) (shoe : Nat) (seq : Nat) (o : Outcome) : (failItem s shoe seq o).power = s.power :=
  (failItem_moves s shoe seq o (Moves.refl 128 s) rfl).rest .power rfl
@[simp] theorem failItem_mgmt (s : State) (shoe : Nat) (seq : Nat) (o : Outcome) : (failItem s shoe seq o).mgmt = s.mgmt :=
  (failItem_moves s shoe seq o (Moves.refl 128 s) rfl).rest .mgmt rfl
@[simp] theorem failItem_pcie (s : State) (shoe : Nat) (seq : Nat) (o : Outcome) : (failItem s shoe seq o).pcie = s.pcie :=
  (failItem_moves s shoe seq o (Moves.refl 128 s) rfl).rest .pcie rfl
@[simp] theorem failItem_net (s : State) (shoe : Nat) (seq : Nat) (o : Outcome) : (failItem s shoe seq o).net = s.net :=
  (failItem_moves s shoe seq o (Moves.refl 128 s) rfl).rest .net rfl
@[simp] theorem failItem_asy (s : State) (shoe : Nat) (seq : Nat) (o : Outcome) : (failItem s shoe seq o).asy = s.asy :=
  (failItem_moves s shoe seq o (Moves.refl 128 s) rfl).rest .asy rfl
@[simp] theorem failItem_out (s : State) (shoe : Nat) (seq : Nat) (o : Outcome) : (failItem s shoe seq o).out = s.out :=
  (failItem_moves s shoe seq o (Moves.refl 128 s) rfl).rest .out rfl

@[simp] theorem failAt_pending (s : State) (shoe : Nat) (seq : Nat) (l : Nat) (g : Nat) (cause : Nat) (detail : Nat) : (failAt s shoe seq l g cause detail).pending = s.pending :=
  (failAt_moves s shoe seq l g cause detail (Moves.refl 128 s) rfl).rest .pending rfl
@[simp] theorem failAt_held (s : State) (shoe : Nat) (seq : Nat) (l : Nat) (g : Nat) (cause : Nat) (detail : Nat) : (failAt s shoe seq l g cause detail).held = s.held :=
  (failAt_moves s shoe seq l g cause detail (Moves.refl 128 s) rfl).rest .held rfl
@[simp] theorem failAt_freeCtr (s : State) (shoe : Nat) (seq : Nat) (l : Nat) (g : Nat) (cause : Nat) (detail : Nat) : (failAt s shoe seq l g cause detail).freeCtr = s.freeCtr :=
  (failAt_moves s shoe seq l g cause detail (Moves.refl 128 s) rfl).rest .freeCtr rfl
@[simp] theorem failAt_now (s : State) (shoe : Nat) (seq : Nat) (l : Nat) (g : Nat) (cause : Nat) (detail : Nat) : (failAt s shoe seq l g cause detail).now = s.now :=
  (failAt_moves s shoe seq l g cause detail (Moves.refl 128 s) rfl).rest .now rfl
@[simp] theorem failAt_boot (s : State) (shoe : Nat) (seq : Nat) (l : Nat) (g : Nat) (cause : Nat) (detail : Nat) : (failAt s shoe seq l g cause detail).boot = s.boot :=
  (failAt_moves s shoe seq l g cause detail (Moves.refl 128 s) rfl).rest .boot rfl
@[simp] theorem failAt_beat (s : State) (shoe : Nat) (seq : Nat) (l : Nat) (g : Nat) (cause : Nat) (detail : Nat) : (failAt s shoe seq l g cause detail).beat = s.beat :=
  (failAt_moves s shoe seq l g cause detail (Moves.refl 128 s) rfl).rest .beat rfl
@[simp] theorem failAt_cl (s : State) (shoe : Nat) (seq : Nat) (l : Nat) (g : Nat) (cause : Nat) (detail : Nat) : (failAt s shoe seq l g cause detail).cl = s.cl :=
  (failAt_moves s shoe seq l g cause detail (Moves.refl 128 s) rfl).rest .cl rfl
@[simp] theorem failAt_tiers (s : State) (shoe : Nat) (seq : Nat) (l : Nat) (g : Nat) (cause : Nat) (detail : Nat) : (failAt s shoe seq l g cause detail).tiers = s.tiers :=
  (failAt_moves s shoe seq l g cause detail (Moves.refl 128 s) rfl).rest .tiers rfl
@[simp] theorem failAt_sync (s : State) (shoe : Nat) (seq : Nat) (l : Nat) (g : Nat) (cause : Nat) (detail : Nat) : (failAt s shoe seq l g cause detail).sync = s.sync :=
  (failAt_moves s shoe seq l g cause detail (Moves.refl 128 s) rfl).rest .sync rfl
@[simp] theorem failAt_fns (s : State) (shoe : Nat) (seq : Nat) (l : Nat) (g : Nat) (cause : Nat) (detail : Nat) : (failAt s shoe seq l g cause detail).fns = s.fns :=
  (failAt_moves s shoe seq l g cause detail (Moves.refl 128 s) rfl).rest .fns rfl
@[simp] theorem failAt_redeal (s : State) (shoe : Nat) (seq : Nat) (l : Nat) (g : Nat) (cause : Nat) (detail : Nat) : (failAt s shoe seq l g cause detail).redeal = s.redeal :=
  (failAt_moves s shoe seq l g cause detail (Moves.refl 128 s) rfl).rest .redeal rfl
@[simp] theorem failAt_fences (s : State) (shoe : Nat) (seq : Nat) (l : Nat) (g : Nat) (cause : Nat) (detail : Nat) : (failAt s shoe seq l g cause detail).fences = s.fences :=
  (failAt_moves s shoe seq l g cause detail (Moves.refl 128 s) rfl).rest .fences rfl
@[simp] theorem failAt_ecc (s : State) (shoe : Nat) (seq : Nat) (l : Nat) (g : Nat) (cause : Nat) (detail : Nat) : (failAt s shoe seq l g cause detail).ecc = s.ecc :=
  (failAt_moves s shoe seq l g cause detail (Moves.refl 128 s) rfl).rest .ecc rfl
@[simp] theorem failAt_link (s : State) (shoe : Nat) (seq : Nat) (l : Nat) (g : Nat) (cause : Nat) (detail : Nat) : (failAt s shoe seq l g cause detail).link = s.link :=
  (failAt_moves s shoe seq l g cause detail (Moves.refl 128 s) rfl).rest .link rfl
@[simp] theorem failAt_rounds (s : State) (shoe : Nat) (seq : Nat) (l : Nat) (g : Nat) (cause : Nat) (detail : Nat) : (failAt s shoe seq l g cause detail).rounds = s.rounds :=
  (failAt_moves s shoe seq l g cause detail (Moves.refl 128 s) rfl).rest .rounds rfl
@[simp] theorem failAt_dbg (s : State) (shoe : Nat) (seq : Nat) (l : Nat) (g : Nat) (cause : Nat) (detail : Nat) : (failAt s shoe seq l g cause detail).dbg = s.dbg :=
  (failAt_moves s shoe seq l g cause detail (Moves.refl 128 s) rfl).rest .dbg rfl
@[simp] theorem failAt_power (s : State) (shoe : Nat) (seq : Nat) (l : Nat) (g : Nat) (cause : Nat) (detail : Nat) : (failAt s shoe seq l g cause detail).power = s.power :=
  (failAt_moves s shoe seq l g cause detail (Moves.refl 128 s) rfl).rest .power rfl
@[simp] theorem failAt_mgmt (s : State) (shoe : Nat) (seq : Nat) (l : Nat) (g : Nat) (cause : Nat) (detail : Nat) : (failAt s shoe seq l g cause detail).mgmt = s.mgmt :=
  (failAt_moves s shoe seq l g cause detail (Moves.refl 128 s) rfl).rest .mgmt rfl
@[simp] theorem failAt_pcie (s : State) (shoe : Nat) (seq : Nat) (l : Nat) (g : Nat) (cause : Nat) (detail : Nat) : (failAt s shoe seq l g cause detail).pcie = s.pcie :=
  (failAt_moves s shoe seq l g cause detail (Moves.refl 128 s) rfl).rest .pcie rfl
@[simp] theorem failAt_net (s : State) (shoe : Nat) (seq : Nat) (l : Nat) (g : Nat) (cause : Nat) (detail : Nat) : (failAt s shoe seq l g cause detail).net = s.net :=
  (failAt_moves s shoe seq l g cause detail (Moves.refl 128 s) rfl).rest .net rfl
@[simp] theorem failAt_asy (s : State) (shoe : Nat) (seq : Nat) (l : Nat) (g : Nat) (cause : Nat) (detail : Nat) : (failAt s shoe seq l g cause detail).asy = s.asy :=
  (failAt_moves s shoe seq l g cause detail (Moves.refl 128 s) rfl).rest .asy rfl
@[simp] theorem failAt_out (s : State) (shoe : Nat) (seq : Nat) (l : Nat) (g : Nat) (cause : Nat) (detail : Nat) : (failAt s shoe seq l g cause detail).out = s.out :=
  (failAt_moves s shoe seq l g cause detail (Moves.refl 128 s) rfl).rest .out rfl

@[simp] theorem completeCmd_pending (s : State) (shoe : Nat) (seq : Nat) (l : Nat) (g : Nat) : (completeCmd s shoe seq l g).pending = s.pending :=
  (completeCmd_moves s shoe seq l g (Moves.refl 128 s) rfl).rest .pending rfl
@[simp] theorem completeCmd_held (s : State) (shoe : Nat) (seq : Nat) (l : Nat) (g : Nat) : (completeCmd s shoe seq l g).held = s.held :=
  (completeCmd_moves s shoe seq l g (Moves.refl 128 s) rfl).rest .held rfl
@[simp] theorem completeCmd_freeCtr (s : State) (shoe : Nat) (seq : Nat) (l : Nat) (g : Nat) : (completeCmd s shoe seq l g).freeCtr = s.freeCtr :=
  (completeCmd_moves s shoe seq l g (Moves.refl 128 s) rfl).rest .freeCtr rfl
@[simp] theorem completeCmd_now (s : State) (shoe : Nat) (seq : Nat) (l : Nat) (g : Nat) : (completeCmd s shoe seq l g).now = s.now :=
  (completeCmd_moves s shoe seq l g (Moves.refl 128 s) rfl).rest .now rfl
@[simp] theorem completeCmd_boot (s : State) (shoe : Nat) (seq : Nat) (l : Nat) (g : Nat) : (completeCmd s shoe seq l g).boot = s.boot :=
  (completeCmd_moves s shoe seq l g (Moves.refl 128 s) rfl).rest .boot rfl
@[simp] theorem completeCmd_beat (s : State) (shoe : Nat) (seq : Nat) (l : Nat) (g : Nat) : (completeCmd s shoe seq l g).beat = s.beat :=
  (completeCmd_moves s shoe seq l g (Moves.refl 128 s) rfl).rest .beat rfl
@[simp] theorem completeCmd_cl (s : State) (shoe : Nat) (seq : Nat) (l : Nat) (g : Nat) : (completeCmd s shoe seq l g).cl = s.cl :=
  (completeCmd_moves s shoe seq l g (Moves.refl 128 s) rfl).rest .cl rfl
@[simp] theorem completeCmd_tiers (s : State) (shoe : Nat) (seq : Nat) (l : Nat) (g : Nat) : (completeCmd s shoe seq l g).tiers = s.tiers :=
  (completeCmd_moves s shoe seq l g (Moves.refl 128 s) rfl).rest .tiers rfl
@[simp] theorem completeCmd_sync (s : State) (shoe : Nat) (seq : Nat) (l : Nat) (g : Nat) : (completeCmd s shoe seq l g).sync = s.sync :=
  (completeCmd_moves s shoe seq l g (Moves.refl 128 s) rfl).rest .sync rfl
@[simp] theorem completeCmd_fns (s : State) (shoe : Nat) (seq : Nat) (l : Nat) (g : Nat) : (completeCmd s shoe seq l g).fns = s.fns :=
  (completeCmd_moves s shoe seq l g (Moves.refl 128 s) rfl).rest .fns rfl
@[simp] theorem completeCmd_redeal (s : State) (shoe : Nat) (seq : Nat) (l : Nat) (g : Nat) : (completeCmd s shoe seq l g).redeal = s.redeal :=
  (completeCmd_moves s shoe seq l g (Moves.refl 128 s) rfl).rest .redeal rfl
@[simp] theorem completeCmd_fences (s : State) (shoe : Nat) (seq : Nat) (l : Nat) (g : Nat) : (completeCmd s shoe seq l g).fences = s.fences :=
  (completeCmd_moves s shoe seq l g (Moves.refl 128 s) rfl).rest .fences rfl
@[simp] theorem completeCmd_ecc (s : State) (shoe : Nat) (seq : Nat) (l : Nat) (g : Nat) : (completeCmd s shoe seq l g).ecc = s.ecc :=
  (completeCmd_moves s shoe seq l g (Moves.refl 128 s) rfl).rest .ecc rfl
@[simp] theorem completeCmd_link (s : State) (shoe : Nat) (seq : Nat) (l : Nat) (g : Nat) : (completeCmd s shoe seq l g).link = s.link :=
  (completeCmd_moves s shoe seq l g (Moves.refl 128 s) rfl).rest .link rfl
@[simp] theorem completeCmd_rounds (s : State) (shoe : Nat) (seq : Nat) (l : Nat) (g : Nat) : (completeCmd s shoe seq l g).rounds = s.rounds :=
  (completeCmd_moves s shoe seq l g (Moves.refl 128 s) rfl).rest .rounds rfl
@[simp] theorem completeCmd_dbg (s : State) (shoe : Nat) (seq : Nat) (l : Nat) (g : Nat) : (completeCmd s shoe seq l g).dbg = s.dbg :=
  (completeCmd_moves s shoe seq l g (Moves.refl 128 s) rfl).rest .dbg rfl
@[simp] theorem completeCmd_power (s : State) (shoe : Nat) (seq : Nat) (l : Nat) (g : Nat) : (completeCmd s shoe seq l g).power = s.power :=
  (completeCmd_moves s shoe seq l g (Moves.refl 128 s) rfl).rest .power rfl
@[simp] theorem completeCmd_mgmt (s : State) (shoe : Nat) (seq : Nat) (l : Nat) (g : Nat) : (completeCmd s shoe seq l g).mgmt = s.mgmt :=
  (completeCmd_moves s shoe seq l g (Moves.refl 128 s) rfl).rest .mgmt rfl
@[simp] theorem completeCmd_pcie (s : State) (shoe : Nat) (seq : Nat) (l : Nat) (g : Nat) : (completeCmd s shoe seq l g).pcie = s.pcie :=
  (completeCmd_moves s shoe seq l g (Moves.refl 128 s) rfl).rest .pcie rfl
@[simp] theorem completeCmd_net (s : State) (shoe : Nat) (seq : Nat) (l : Nat) (g : Nat) : (completeCmd s shoe seq l g).net = s.net :=
  (completeCmd_moves s shoe seq l g (Moves.refl 128 s) rfl).rest .net rfl
@[simp] theorem completeCmd_asy (s : State) (shoe : Nat) (seq : Nat) (l : Nat) (g : Nat) : (completeCmd s shoe seq l g).asy = s.asy :=
  (completeCmd_moves s shoe seq l g (Moves.refl 128 s) rfl).rest .asy rfl
@[simp] theorem completeCmd_out (s : State) (shoe : Nat) (seq : Nat) (l : Nat) (g : Nat) : (completeCmd s shoe seq l g).out = s.out :=
  (completeCmd_moves s shoe seq l g (Moves.refl 128 s) rfl).rest .out rfl

@[simp] theorem activate_pending (s : State) (shoe : Nat) (seq : Nat) (l : Nat) (g : Nat) (st : CmdState) : (activate s shoe seq l g st).pending = s.pending :=
  (activate_moves s shoe seq l g st (Moves.refl 128 s) rfl).rest .pending rfl
@[simp] theorem activate_held (s : State) (shoe : Nat) (seq : Nat) (l : Nat) (g : Nat) (st : CmdState) : (activate s shoe seq l g st).held = s.held :=
  (activate_moves s shoe seq l g st (Moves.refl 128 s) rfl).rest .held rfl
@[simp] theorem activate_freeCtr (s : State) (shoe : Nat) (seq : Nat) (l : Nat) (g : Nat) (st : CmdState) : (activate s shoe seq l g st).freeCtr = s.freeCtr :=
  (activate_moves s shoe seq l g st (Moves.refl 128 s) rfl).rest .freeCtr rfl
@[simp] theorem activate_now (s : State) (shoe : Nat) (seq : Nat) (l : Nat) (g : Nat) (st : CmdState) : (activate s shoe seq l g st).now = s.now :=
  (activate_moves s shoe seq l g st (Moves.refl 128 s) rfl).rest .now rfl
@[simp] theorem activate_boot (s : State) (shoe : Nat) (seq : Nat) (l : Nat) (g : Nat) (st : CmdState) : (activate s shoe seq l g st).boot = s.boot :=
  (activate_moves s shoe seq l g st (Moves.refl 128 s) rfl).rest .boot rfl
@[simp] theorem activate_beat (s : State) (shoe : Nat) (seq : Nat) (l : Nat) (g : Nat) (st : CmdState) : (activate s shoe seq l g st).beat = s.beat :=
  (activate_moves s shoe seq l g st (Moves.refl 128 s) rfl).rest .beat rfl
@[simp] theorem activate_cl (s : State) (shoe : Nat) (seq : Nat) (l : Nat) (g : Nat) (st : CmdState) : (activate s shoe seq l g st).cl = s.cl :=
  (activate_moves s shoe seq l g st (Moves.refl 128 s) rfl).rest .cl rfl
@[simp] theorem activate_tiers (s : State) (shoe : Nat) (seq : Nat) (l : Nat) (g : Nat) (st : CmdState) : (activate s shoe seq l g st).tiers = s.tiers :=
  (activate_moves s shoe seq l g st (Moves.refl 128 s) rfl).rest .tiers rfl
@[simp] theorem activate_sync (s : State) (shoe : Nat) (seq : Nat) (l : Nat) (g : Nat) (st : CmdState) : (activate s shoe seq l g st).sync = s.sync :=
  (activate_moves s shoe seq l g st (Moves.refl 128 s) rfl).rest .sync rfl
@[simp] theorem activate_fns (s : State) (shoe : Nat) (seq : Nat) (l : Nat) (g : Nat) (st : CmdState) : (activate s shoe seq l g st).fns = s.fns :=
  (activate_moves s shoe seq l g st (Moves.refl 128 s) rfl).rest .fns rfl
@[simp] theorem activate_redeal (s : State) (shoe : Nat) (seq : Nat) (l : Nat) (g : Nat) (st : CmdState) : (activate s shoe seq l g st).redeal = s.redeal :=
  (activate_moves s shoe seq l g st (Moves.refl 128 s) rfl).rest .redeal rfl
@[simp] theorem activate_fences (s : State) (shoe : Nat) (seq : Nat) (l : Nat) (g : Nat) (st : CmdState) : (activate s shoe seq l g st).fences = s.fences :=
  (activate_moves s shoe seq l g st (Moves.refl 128 s) rfl).rest .fences rfl
@[simp] theorem activate_ecc (s : State) (shoe : Nat) (seq : Nat) (l : Nat) (g : Nat) (st : CmdState) : (activate s shoe seq l g st).ecc = s.ecc :=
  (activate_moves s shoe seq l g st (Moves.refl 128 s) rfl).rest .ecc rfl
@[simp] theorem activate_link (s : State) (shoe : Nat) (seq : Nat) (l : Nat) (g : Nat) (st : CmdState) : (activate s shoe seq l g st).link = s.link :=
  (activate_moves s shoe seq l g st (Moves.refl 128 s) rfl).rest .link rfl
@[simp] theorem activate_rounds (s : State) (shoe : Nat) (seq : Nat) (l : Nat) (g : Nat) (st : CmdState) : (activate s shoe seq l g st).rounds = s.rounds :=
  (activate_moves s shoe seq l g st (Moves.refl 128 s) rfl).rest .rounds rfl
@[simp] theorem activate_dbg (s : State) (shoe : Nat) (seq : Nat) (l : Nat) (g : Nat) (st : CmdState) : (activate s shoe seq l g st).dbg = s.dbg :=
  (activate_moves s shoe seq l g st (Moves.refl 128 s) rfl).rest .dbg rfl
@[simp] theorem activate_power (s : State) (shoe : Nat) (seq : Nat) (l : Nat) (g : Nat) (st : CmdState) : (activate s shoe seq l g st).power = s.power :=
  (activate_moves s shoe seq l g st (Moves.refl 128 s) rfl).rest .power rfl
@[simp] theorem activate_mgmt (s : State) (shoe : Nat) (seq : Nat) (l : Nat) (g : Nat) (st : CmdState) : (activate s shoe seq l g st).mgmt = s.mgmt :=
  (activate_moves s shoe seq l g st (Moves.refl 128 s) rfl).rest .mgmt rfl
@[simp] theorem activate_pcie (s : State) (shoe : Nat) (seq : Nat) (l : Nat) (g : Nat) (st : CmdState) : (activate s shoe seq l g st).pcie = s.pcie :=
  (activate_moves s shoe seq l g st (Moves.refl 128 s) rfl).rest .pcie rfl
@[simp] theorem activate_net (s : State) (shoe : Nat) (seq : Nat) (l : Nat) (g : Nat) (st : CmdState) : (activate s shoe seq l g st).net = s.net :=
  (activate_moves s shoe seq l g st (Moves.refl 128 s) rfl).rest .net rfl
@[simp] theorem activate_asy (s : State) (shoe : Nat) (seq : Nat) (l : Nat) (g : Nat) (st : CmdState) : (activate s shoe seq l g st).asy = s.asy :=
  (activate_moves s shoe seq l g st (Moves.refl 128 s) rfl).rest .asy rfl
@[simp] theorem activate_out (s : State) (shoe : Nat) (seq : Nat) (l : Nat) (g : Nat) (st : CmdState) : (activate s shoe seq l g st).out = s.out :=
  (activate_moves s shoe seq l g st (Moves.refl 128 s) rfl).rest .out rfl

@[simp] theorem setActive_pending (s : State) (shoe : Nat) (seq : Nat) (l : Nat) (g : Nat) (st : CmdState) : (setActive s shoe seq l g st).pending = s.pending :=
  (setActive_moves s shoe seq l g st (Moves.refl 128 s) rfl).rest .pending rfl
@[simp] theorem setActive_held (s : State) (shoe : Nat) (seq : Nat) (l : Nat) (g : Nat) (st : CmdState) : (setActive s shoe seq l g st).held = s.held :=
  (setActive_moves s shoe seq l g st (Moves.refl 128 s) rfl).rest .held rfl
@[simp] theorem setActive_freeCtr (s : State) (shoe : Nat) (seq : Nat) (l : Nat) (g : Nat) (st : CmdState) : (setActive s shoe seq l g st).freeCtr = s.freeCtr :=
  (setActive_moves s shoe seq l g st (Moves.refl 128 s) rfl).rest .freeCtr rfl
@[simp] theorem setActive_now (s : State) (shoe : Nat) (seq : Nat) (l : Nat) (g : Nat) (st : CmdState) : (setActive s shoe seq l g st).now = s.now :=
  (setActive_moves s shoe seq l g st (Moves.refl 128 s) rfl).rest .now rfl
@[simp] theorem setActive_boot (s : State) (shoe : Nat) (seq : Nat) (l : Nat) (g : Nat) (st : CmdState) : (setActive s shoe seq l g st).boot = s.boot :=
  (setActive_moves s shoe seq l g st (Moves.refl 128 s) rfl).rest .boot rfl
@[simp] theorem setActive_beat (s : State) (shoe : Nat) (seq : Nat) (l : Nat) (g : Nat) (st : CmdState) : (setActive s shoe seq l g st).beat = s.beat :=
  (setActive_moves s shoe seq l g st (Moves.refl 128 s) rfl).rest .beat rfl
@[simp] theorem setActive_cl (s : State) (shoe : Nat) (seq : Nat) (l : Nat) (g : Nat) (st : CmdState) : (setActive s shoe seq l g st).cl = s.cl :=
  (setActive_moves s shoe seq l g st (Moves.refl 128 s) rfl).rest .cl rfl
@[simp] theorem setActive_tiers (s : State) (shoe : Nat) (seq : Nat) (l : Nat) (g : Nat) (st : CmdState) : (setActive s shoe seq l g st).tiers = s.tiers :=
  (setActive_moves s shoe seq l g st (Moves.refl 128 s) rfl).rest .tiers rfl
@[simp] theorem setActive_sync (s : State) (shoe : Nat) (seq : Nat) (l : Nat) (g : Nat) (st : CmdState) : (setActive s shoe seq l g st).sync = s.sync :=
  (setActive_moves s shoe seq l g st (Moves.refl 128 s) rfl).rest .sync rfl
@[simp] theorem setActive_fns (s : State) (shoe : Nat) (seq : Nat) (l : Nat) (g : Nat) (st : CmdState) : (setActive s shoe seq l g st).fns = s.fns :=
  (setActive_moves s shoe seq l g st (Moves.refl 128 s) rfl).rest .fns rfl
@[simp] theorem setActive_redeal (s : State) (shoe : Nat) (seq : Nat) (l : Nat) (g : Nat) (st : CmdState) : (setActive s shoe seq l g st).redeal = s.redeal :=
  (setActive_moves s shoe seq l g st (Moves.refl 128 s) rfl).rest .redeal rfl
@[simp] theorem setActive_fences (s : State) (shoe : Nat) (seq : Nat) (l : Nat) (g : Nat) (st : CmdState) : (setActive s shoe seq l g st).fences = s.fences :=
  (setActive_moves s shoe seq l g st (Moves.refl 128 s) rfl).rest .fences rfl
@[simp] theorem setActive_ecc (s : State) (shoe : Nat) (seq : Nat) (l : Nat) (g : Nat) (st : CmdState) : (setActive s shoe seq l g st).ecc = s.ecc :=
  (setActive_moves s shoe seq l g st (Moves.refl 128 s) rfl).rest .ecc rfl
@[simp] theorem setActive_link (s : State) (shoe : Nat) (seq : Nat) (l : Nat) (g : Nat) (st : CmdState) : (setActive s shoe seq l g st).link = s.link :=
  (setActive_moves s shoe seq l g st (Moves.refl 128 s) rfl).rest .link rfl
@[simp] theorem setActive_rounds (s : State) (shoe : Nat) (seq : Nat) (l : Nat) (g : Nat) (st : CmdState) : (setActive s shoe seq l g st).rounds = s.rounds :=
  (setActive_moves s shoe seq l g st (Moves.refl 128 s) rfl).rest .rounds rfl
@[simp] theorem setActive_dbg (s : State) (shoe : Nat) (seq : Nat) (l : Nat) (g : Nat) (st : CmdState) : (setActive s shoe seq l g st).dbg = s.dbg :=
  (setActive_moves s shoe seq l g st (Moves.refl 128 s) rfl).rest .dbg rfl
@[simp] theorem setActive_power (s : State) (shoe : Nat) (seq : Nat) (l : Nat) (g : Nat) (st : CmdState) : (setActive s shoe seq l g st).power = s.power :=
  (setActive_moves s shoe seq l g st (Moves.refl 128 s) rfl).rest .power rfl
@[simp] theorem setActive_mgmt (s : State) (shoe : Nat) (seq : Nat) (l : Nat) (g : Nat) (st : CmdState) : (setActive s shoe seq l g st).mgmt = s.mgmt :=
  (setActive_moves s shoe seq l g st (Moves.refl 128 s) rfl).rest .mgmt rfl
@[simp] theorem setActive_pcie (s : State) (shoe : Nat) (seq : Nat) (l : Nat) (g : Nat) (st : CmdState) : (setActive s shoe seq l g st).pcie = s.pcie :=
  (setActive_moves s shoe seq l g st (Moves.refl 128 s) rfl).rest .pcie rfl
@[simp] theorem setActive_net (s : State) (shoe : Nat) (seq : Nat) (l : Nat) (g : Nat) (st : CmdState) : (setActive s shoe seq l g st).net = s.net :=
  (setActive_moves s shoe seq l g st (Moves.refl 128 s) rfl).rest .net rfl
@[simp] theorem setActive_asy (s : State) (shoe : Nat) (seq : Nat) (l : Nat) (g : Nat) (st : CmdState) : (setActive s shoe seq l g st).asy = s.asy :=
  (setActive_moves s shoe seq l g st (Moves.refl 128 s) rfl).rest .asy rfl
@[simp] theorem setActive_out (s : State) (shoe : Nat) (seq : Nat) (l : Nat) (g : Nat) (st : CmdState) : (setActive s shoe seq l g st).out = s.out :=
  (setActive_moves s shoe seq l g st (Moves.refl 128 s) rfl).rest .out rfl

@[simp] theorem State.modItem_pending (s : State) (shoe : Nat) (seq : Nat) (f : Item → Item) : (State.modItem s shoe seq f).pending = s.pending :=
  (State.modItem_moves s shoe seq f (Moves.refl 128 s) rfl).rest .pending rfl
@[simp] theorem State.modItem_held (s : State) (shoe : Nat) (seq : Nat) (f : Item → Item) : (State.modItem s shoe seq f).held = s.held :=
  (State.modItem_moves s shoe seq f (Moves.refl 128 s) rfl).rest .held rfl
@[simp] theorem State.modItem_freeCtr (s : State) (shoe : Nat) (seq : Nat) (f : Item → Item) : (State.modItem s shoe seq f).freeCtr = s.freeCtr :=
  (State.modItem_moves s shoe seq f (Moves.refl 128 s) rfl).rest .freeCtr rfl
@[simp] theorem State.modItem_now (s : State) (shoe : Nat) (seq : Nat) (f : Item → Item) : (State.modItem s shoe seq f).now = s.now :=
  (State.modItem_moves s shoe seq f (Moves.refl 128 s) rfl).rest .now rfl
@[simp] theorem State.modItem_boot (s : State) (shoe : Nat) (seq : Nat) (f : Item → Item) : (State.modItem s shoe seq f).boot = s.boot :=
  (State.modItem_moves s shoe seq f (Moves.refl 128 s) rfl).rest .boot rfl
@[simp] theorem State.modItem_beat (s : State) (shoe : Nat) (seq : Nat) (f : Item → Item) : (State.modItem s shoe seq f).beat = s.beat :=
  (State.modItem_moves s shoe seq f (Moves.refl 128 s) rfl).rest .beat rfl
@[simp] theorem State.modItem_cl (s : State) (shoe : Nat) (seq : Nat) (f : Item → Item) : (State.modItem s shoe seq f).cl = s.cl :=
  (State.modItem_moves s shoe seq f (Moves.refl 128 s) rfl).rest .cl rfl
@[simp] theorem State.modItem_tiers (s : State) (shoe : Nat) (seq : Nat) (f : Item → Item) : (State.modItem s shoe seq f).tiers = s.tiers :=
  (State.modItem_moves s shoe seq f (Moves.refl 128 s) rfl).rest .tiers rfl
@[simp] theorem State.modItem_sync (s : State) (shoe : Nat) (seq : Nat) (f : Item → Item) : (State.modItem s shoe seq f).sync = s.sync :=
  (State.modItem_moves s shoe seq f (Moves.refl 128 s) rfl).rest .sync rfl
@[simp] theorem State.modItem_fns (s : State) (shoe : Nat) (seq : Nat) (f : Item → Item) : (State.modItem s shoe seq f).fns = s.fns :=
  (State.modItem_moves s shoe seq f (Moves.refl 128 s) rfl).rest .fns rfl
@[simp] theorem State.modItem_redeal (s : State) (shoe : Nat) (seq : Nat) (f : Item → Item) : (State.modItem s shoe seq f).redeal = s.redeal :=
  (State.modItem_moves s shoe seq f (Moves.refl 128 s) rfl).rest .redeal rfl
@[simp] theorem State.modItem_fences (s : State) (shoe : Nat) (seq : Nat) (f : Item → Item) : (State.modItem s shoe seq f).fences = s.fences :=
  (State.modItem_moves s shoe seq f (Moves.refl 128 s) rfl).rest .fences rfl
@[simp] theorem State.modItem_ecc (s : State) (shoe : Nat) (seq : Nat) (f : Item → Item) : (State.modItem s shoe seq f).ecc = s.ecc :=
  (State.modItem_moves s shoe seq f (Moves.refl 128 s) rfl).rest .ecc rfl
@[simp] theorem State.modItem_link (s : State) (shoe : Nat) (seq : Nat) (f : Item → Item) : (State.modItem s shoe seq f).link = s.link :=
  (State.modItem_moves s shoe seq f (Moves.refl 128 s) rfl).rest .link rfl
@[simp] theorem State.modItem_rounds (s : State) (shoe : Nat) (seq : Nat) (f : Item → Item) : (State.modItem s shoe seq f).rounds = s.rounds :=
  (State.modItem_moves s shoe seq f (Moves.refl 128 s) rfl).rest .rounds rfl
@[simp] theorem State.modItem_dbg (s : State) (shoe : Nat) (seq : Nat) (f : Item → Item) : (State.modItem s shoe seq f).dbg = s.dbg :=
  (State.modItem_moves s shoe seq f (Moves.refl 128 s) rfl).rest .dbg rfl
@[simp] theorem State.modItem_power (s : State) (shoe : Nat) (seq : Nat) (f : Item → Item) : (State.modItem s shoe seq f).power = s.power :=
  (State.modItem_moves s shoe seq f (Moves.refl 128 s) rfl).rest .power rfl
@[simp] theorem State.modItem_mgmt (s : State) (shoe : Nat) (seq : Nat) (f : Item → Item) : (State.modItem s shoe seq f).mgmt = s.mgmt :=
  (State.modItem_moves s shoe seq f (Moves.refl 128 s) rfl).rest .mgmt rfl
@[simp] theorem State.modItem_pcie (s : State) (shoe : Nat) (seq : Nat) (f : Item → Item) : (State.modItem s shoe seq f).pcie = s.pcie :=
  (State.modItem_moves s shoe seq f (Moves.refl 128 s) rfl).rest .pcie rfl
@[simp] theorem State.modItem_net (s : State) (shoe : Nat) (seq : Nat) (f : Item → Item) : (State.modItem s shoe seq f).net = s.net :=
  (State.modItem_moves s shoe seq f (Moves.refl 128 s) rfl).rest .net rfl
@[simp] theorem State.modItem_asy (s : State) (shoe : Nat) (seq : Nat) (f : Item → Item) : (State.modItem s shoe seq f).asy = s.asy :=
  (State.modItem_moves s shoe seq f (Moves.refl 128 s) rfl).rest .asy rfl
@[simp] theorem State.modItem_out (s : State) (shoe : Nat) (seq : Nat) (f : Item → Item) : (State.modItem s shoe seq f).out = s.out :=
  (State.modItem_moves s shoe seq f (Moves.refl 128 s) rfl).rest .out rfl

@[simp] theorem State.modLevel_pending (s : State) (shoe : Nat) (seq : Nat) (l : Nat) (f : Level → Level) : (State.modLevel s shoe seq l f).pending = s.pending :=
  (State.modLevel_moves s shoe seq l f (Moves.refl 128 s) rfl).rest .pending rfl
@[simp] theorem State.modLevel_held (s : State) (shoe : Nat) (seq : Nat) (l : Nat) (f : Level → Level) : (State.modLevel s shoe seq l f).held = s.held :=
  (State.modLevel_moves s shoe seq l f (Moves.refl 128 s) rfl).rest .held rfl
@[simp] theorem State.modLevel_freeCtr (s : State) (shoe : Nat) (seq : Nat) (l : Nat) (f : Level → Level) : (State.modLevel s shoe seq l f).freeCtr = s.freeCtr :=
  (State.modLevel_moves s shoe seq l f (Moves.refl 128 s) rfl).rest .freeCtr rfl
@[simp] theorem State.modLevel_now (s : State) (shoe : Nat) (seq : Nat) (l : Nat) (f : Level → Level) : (State.modLevel s shoe seq l f).now = s.now :=
  (State.modLevel_moves s shoe seq l f (Moves.refl 128 s) rfl).rest .now rfl
@[simp] theorem State.modLevel_boot (s : State) (shoe : Nat) (seq : Nat) (l : Nat) (f : Level → Level) : (State.modLevel s shoe seq l f).boot = s.boot :=
  (State.modLevel_moves s shoe seq l f (Moves.refl 128 s) rfl).rest .boot rfl
@[simp] theorem State.modLevel_beat (s : State) (shoe : Nat) (seq : Nat) (l : Nat) (f : Level → Level) : (State.modLevel s shoe seq l f).beat = s.beat :=
  (State.modLevel_moves s shoe seq l f (Moves.refl 128 s) rfl).rest .beat rfl
@[simp] theorem State.modLevel_cl (s : State) (shoe : Nat) (seq : Nat) (l : Nat) (f : Level → Level) : (State.modLevel s shoe seq l f).cl = s.cl :=
  (State.modLevel_moves s shoe seq l f (Moves.refl 128 s) rfl).rest .cl rfl
@[simp] theorem State.modLevel_tiers (s : State) (shoe : Nat) (seq : Nat) (l : Nat) (f : Level → Level) : (State.modLevel s shoe seq l f).tiers = s.tiers :=
  (State.modLevel_moves s shoe seq l f (Moves.refl 128 s) rfl).rest .tiers rfl
@[simp] theorem State.modLevel_sync (s : State) (shoe : Nat) (seq : Nat) (l : Nat) (f : Level → Level) : (State.modLevel s shoe seq l f).sync = s.sync :=
  (State.modLevel_moves s shoe seq l f (Moves.refl 128 s) rfl).rest .sync rfl
@[simp] theorem State.modLevel_fns (s : State) (shoe : Nat) (seq : Nat) (l : Nat) (f : Level → Level) : (State.modLevel s shoe seq l f).fns = s.fns :=
  (State.modLevel_moves s shoe seq l f (Moves.refl 128 s) rfl).rest .fns rfl
@[simp] theorem State.modLevel_redeal (s : State) (shoe : Nat) (seq : Nat) (l : Nat) (f : Level → Level) : (State.modLevel s shoe seq l f).redeal = s.redeal :=
  (State.modLevel_moves s shoe seq l f (Moves.refl 128 s) rfl).rest .redeal rfl
@[simp] theorem State.modLevel_fences (s : State) (shoe : Nat) (seq : Nat) (l : Nat) (f : Level → Level) : (State.modLevel s shoe seq l f).fences = s.fences :=
  (State.modLevel_moves s shoe seq l f (Moves.refl 128 s) rfl).rest .fences rfl
@[simp] theorem State.modLevel_ecc (s : State) (shoe : Nat) (seq : Nat) (l : Nat) (f : Level → Level) : (State.modLevel s shoe seq l f).ecc = s.ecc :=
  (State.modLevel_moves s shoe seq l f (Moves.refl 128 s) rfl).rest .ecc rfl
@[simp] theorem State.modLevel_link (s : State) (shoe : Nat) (seq : Nat) (l : Nat) (f : Level → Level) : (State.modLevel s shoe seq l f).link = s.link :=
  (State.modLevel_moves s shoe seq l f (Moves.refl 128 s) rfl).rest .link rfl
@[simp] theorem State.modLevel_rounds (s : State) (shoe : Nat) (seq : Nat) (l : Nat) (f : Level → Level) : (State.modLevel s shoe seq l f).rounds = s.rounds :=
  (State.modLevel_moves s shoe seq l f (Moves.refl 128 s) rfl).rest .rounds rfl
@[simp] theorem State.modLevel_dbg (s : State) (shoe : Nat) (seq : Nat) (l : Nat) (f : Level → Level) : (State.modLevel s shoe seq l f).dbg = s.dbg :=
  (State.modLevel_moves s shoe seq l f (Moves.refl 128 s) rfl).rest .dbg rfl
@[simp] theorem State.modLevel_power (s : State) (shoe : Nat) (seq : Nat) (l : Nat) (f : Level → Level) : (State.modLevel s shoe seq l f).power = s.power :=
  (State.modLevel_moves s shoe seq l f (Moves.refl 128 s) rfl).rest .power rfl
@[simp] theorem State.modLevel_mgmt (s : State) (shoe : Nat) (seq : Nat) (l : Nat) (f : Level → Level) : (State.modLevel s shoe seq l f).mgmt = s.mgmt :=
  (State.modLevel_moves s shoe seq l f (Moves.refl 128 s) rfl).rest .mgmt rfl
@[simp] theorem State.modLevel_pcie (s : State) (shoe : Nat) (seq : Nat) (l : Nat) (f : Level → Level) : (State.modLevel s shoe seq l f).pcie = s.pcie :=
  (State.modLevel_moves s shoe seq l f (Moves.refl 128 s) rfl).rest .pcie rfl
@[simp] theorem State.modLevel_net (s : State) (shoe : Nat) (seq : Nat) (l : Nat) (f : Level → Level) : (State.modLevel s shoe seq l f).net = s.net :=
  (State.modLevel_moves s shoe seq l f (Moves.refl 128 s) rfl).rest .net rfl
@[simp] theorem State.modLevel_asy (s : State) (shoe : Nat) (seq : Nat) (l : Nat) (f : Level → Level) : (State.modLevel s shoe seq l f).asy = s.asy :=
  (State.modLevel_moves s shoe seq l f (Moves.refl 128 s) rfl).rest .asy rfl
@[simp] theorem State.modLevel_out (s : State) (shoe : Nat) (seq : Nat) (l : Nat) (f : Level → Level) : (State.modLevel s shoe seq l f).out = s.out :=
  (State.modLevel_moves s shoe seq l f (Moves.refl 128 s) rfl).rest .out rfl

@[simp] theorem State.modTally_pending (s : State) (n : Nat) (f : Tally → Tally) : (State.modTally s n f).pending = s.pending :=
  (State.modTally_moves s n f (Moves.refl 512 s) rfl).rest .pending rfl
@[simp] theorem State.modTally_held (s : State) (n : Nat) (f : Tally → Tally) : (State.modTally s n f).held = s.held :=
  (State.modTally_moves s n f (Moves.refl 512 s) rfl).rest .held rfl
@[simp] theorem State.modTally_freeCtr (s : State) (n : Nat) (f : Tally → Tally) : (State.modTally s n f).freeCtr = s.freeCtr :=
  (State.modTally_moves s n f (Moves.refl 512 s) rfl).rest .freeCtr rfl
@[simp] theorem State.modTally_now (s : State) (n : Nat) (f : Tally → Tally) : (State.modTally s n f).now = s.now :=
  (State.modTally_moves s n f (Moves.refl 512 s) rfl).rest .now rfl
@[simp] theorem State.modTally_boot (s : State) (n : Nat) (f : Tally → Tally) : (State.modTally s n f).boot = s.boot :=
  (State.modTally_moves s n f (Moves.refl 512 s) rfl).rest .boot rfl
@[simp] theorem State.modTally_beat (s : State) (n : Nat) (f : Tally → Tally) : (State.modTally s n f).beat = s.beat :=
  (State.modTally_moves s n f (Moves.refl 512 s) rfl).rest .beat rfl
@[simp] theorem State.modTally_cl (s : State) (n : Nat) (f : Tally → Tally) : (State.modTally s n f).cl = s.cl :=
  (State.modTally_moves s n f (Moves.refl 512 s) rfl).rest .cl rfl
@[simp] theorem State.modTally_dl (s : State) (n : Nat) (f : Tally → Tally) : (State.modTally s n f).dl = s.dl :=
  (State.modTally_moves s n f (Moves.refl 512 s) rfl).rest .dl rfl
@[simp] theorem State.modTally_tiers (s : State) (n : Nat) (f : Tally → Tally) : (State.modTally s n f).tiers = s.tiers :=
  (State.modTally_moves s n f (Moves.refl 512 s) rfl).rest .tiers rfl
@[simp] theorem State.modTally_fns (s : State) (n : Nat) (f : Tally → Tally) : (State.modTally s n f).fns = s.fns :=
  (State.modTally_moves s n f (Moves.refl 512 s) rfl).rest .fns rfl
@[simp] theorem State.modTally_redeal (s : State) (n : Nat) (f : Tally → Tally) : (State.modTally s n f).redeal = s.redeal :=
  (State.modTally_moves s n f (Moves.refl 512 s) rfl).rest .redeal rfl
@[simp] theorem State.modTally_fences (s : State) (n : Nat) (f : Tally → Tally) : (State.modTally s n f).fences = s.fences :=
  (State.modTally_moves s n f (Moves.refl 512 s) rfl).rest .fences rfl
@[simp] theorem State.modTally_ecc (s : State) (n : Nat) (f : Tally → Tally) : (State.modTally s n f).ecc = s.ecc :=
  (State.modTally_moves s n f (Moves.refl 512 s) rfl).rest .ecc rfl
@[simp] theorem State.modTally_link (s : State) (n : Nat) (f : Tally → Tally) : (State.modTally s n f).link = s.link :=
  (State.modTally_moves s n f (Moves.refl 512 s) rfl).rest .link rfl
@[simp] theorem State.modTally_rounds (s : State) (n : Nat) (f : Tally → Tally) : (State.modTally s n f).rounds = s.rounds :=
  (State.modTally_moves s n f (Moves.refl 512 s) rfl).rest .rounds rfl
@[simp] theorem State.modTally_dbg (s : State) (n : Nat) (f : Tally → Tally) : (State.modTally s n f).dbg = s.dbg :=
  (State.modTally_moves s n f (Moves.refl 512 s) rfl).rest .dbg rfl
@[simp] theorem State.modTally_power (s : State) (n : Nat) (f : Tally → Tally) : (State.modTally s n f).power = s.power :=
  (State.modTally_moves s n f (Moves.refl 512 s) rfl).rest .power rfl
@[simp] theorem State.modTally_mgmt (s : State) (n : Nat) (f : Tally → Tally) : (State.modTally s n f).mgmt = s.mgmt :=
  (State.modTally_moves s n f (Moves.refl 512 s) rfl).rest .mgmt rfl
@[simp] theorem State.modTally_pcie (s : State) (n : Nat) (f : Tally → Tally) : (State.modTally s n f).pcie = s.pcie :=
  (State.modTally_moves s n f (Moves.refl 512 s) rfl).rest .pcie rfl
@[simp] theorem State.modTally_net (s : State) (n : Nat) (f : Tally → Tally) : (State.modTally s n f).net = s.net :=
  (State.modTally_moves s n f (Moves.refl 512 s) rfl).rest .net rfl
@[simp] theorem State.modTally_asy (s : State) (n : Nat) (f : Tally → Tally) : (State.modTally s n f).asy = s.asy :=
  (State.modTally_moves s n f (Moves.refl 512 s) rfl).rest .asy rfl
@[simp] theorem State.modTally_out (s : State) (n : Nat) (f : Tally → Tally) : (State.modTally s n f).out = s.out :=
  (State.modTally_moves s n f (Moves.refl 512 s) rfl).rest .out rfl

@[simp] theorem State.modMacro_pending (s : State) (mid : Nat) (f : MacroInst → MacroInst) : (State.modMacro s mid f).pending = s.pending :=
  (State.modMacro_moves s mid f (Moves.refl 128 s) rfl).rest .pending rfl
@[simp] theorem State.modMacro_held (s : State) (mid : Nat) (f : MacroInst → MacroInst) : (State.modMacro s mid f).held = s.held :=
  (State.modMacro_moves s mid f (Moves.refl 128 s) rfl).rest .held rfl
@[simp] theorem State.modMacro_freeCtr (s : State) (mid : Nat) (f : MacroInst → MacroInst) : (State.modMacro s mid f).freeCtr = s.freeCtr :=
  (State.modMacro_moves s mid f (Moves.refl 128 s) rfl).rest .freeCtr rfl
@[simp] theorem State.modMacro_now (s : State) (mid : Nat) (f : MacroInst → MacroInst) : (State.modMacro s mid f).now = s.now :=
  (State.modMacro_moves s mid f (Moves.refl 128 s) rfl).rest .now rfl
@[simp] theorem State.modMacro_boot (s : State) (mid : Nat) (f : MacroInst → MacroInst) : (State.modMacro s mid f).boot = s.boot :=
  (State.modMacro_moves s mid f (Moves.refl 128 s) rfl).rest .boot rfl
@[simp] theorem State.modMacro_beat (s : State) (mid : Nat) (f : MacroInst → MacroInst) : (State.modMacro s mid f).beat = s.beat :=
  (State.modMacro_moves s mid f (Moves.refl 128 s) rfl).rest .beat rfl
@[simp] theorem State.modMacro_cl (s : State) (mid : Nat) (f : MacroInst → MacroInst) : (State.modMacro s mid f).cl = s.cl :=
  (State.modMacro_moves s mid f (Moves.refl 128 s) rfl).rest .cl rfl
@[simp] theorem State.modMacro_tiers (s : State) (mid : Nat) (f : MacroInst → MacroInst) : (State.modMacro s mid f).tiers = s.tiers :=
  (State.modMacro_moves s mid f (Moves.refl 128 s) rfl).rest .tiers rfl
@[simp] theorem State.modMacro_sync (s : State) (mid : Nat) (f : MacroInst → MacroInst) : (State.modMacro s mid f).sync = s.sync :=
  (State.modMacro_moves s mid f (Moves.refl 128 s) rfl).rest .sync rfl
@[simp] theorem State.modMacro_fns (s : State) (mid : Nat) (f : MacroInst → MacroInst) : (State.modMacro s mid f).fns = s.fns :=
  (State.modMacro_moves s mid f (Moves.refl 128 s) rfl).rest .fns rfl
@[simp] theorem State.modMacro_redeal (s : State) (mid : Nat) (f : MacroInst → MacroInst) : (State.modMacro s mid f).redeal = s.redeal :=
  (State.modMacro_moves s mid f (Moves.refl 128 s) rfl).rest .redeal rfl
@[simp] theorem State.modMacro_fences (s : State) (mid : Nat) (f : MacroInst → MacroInst) : (State.modMacro s mid f).fences = s.fences :=
  (State.modMacro_moves s mid f (Moves.refl 128 s) rfl).rest .fences rfl
@[simp] theorem State.modMacro_ecc (s : State) (mid : Nat) (f : MacroInst → MacroInst) : (State.modMacro s mid f).ecc = s.ecc :=
  (State.modMacro_moves s mid f (Moves.refl 128 s) rfl).rest .ecc rfl
@[simp] theorem State.modMacro_link (s : State) (mid : Nat) (f : MacroInst → MacroInst) : (State.modMacro s mid f).link = s.link :=
  (State.modMacro_moves s mid f (Moves.refl 128 s) rfl).rest .link rfl
@[simp] theorem State.modMacro_rounds (s : State) (mid : Nat) (f : MacroInst → MacroInst) : (State.modMacro s mid f).rounds = s.rounds :=
  (State.modMacro_moves s mid f (Moves.refl 128 s) rfl).rest .rounds rfl
@[simp] theorem State.modMacro_dbg (s : State) (mid : Nat) (f : MacroInst → MacroInst) : (State.modMacro s mid f).dbg = s.dbg :=
  (State.modMacro_moves s mid f (Moves.refl 128 s) rfl).rest .dbg rfl
@[simp] theorem State.modMacro_power (s : State) (mid : Nat) (f : MacroInst → MacroInst) : (State.modMacro s mid f).power = s.power :=
  (State.modMacro_moves s mid f (Moves.refl 128 s) rfl).rest .power rfl
@[simp] theorem State.modMacro_mgmt (s : State) (mid : Nat) (f : MacroInst → MacroInst) : (State.modMacro s mid f).mgmt = s.mgmt :=
  (State.modMacro_moves s mid f (Moves.refl 128 s) rfl).rest .mgmt rfl
@[simp] theorem State.modMacro_pcie (s : State) (mid : Nat) (f : MacroInst → MacroInst) : (State.modMacro s mid f).pcie = s.pcie :=
  (State.modMacro_moves s mid f (Moves.refl 128 s) rfl).rest .pcie rfl
@[simp] theorem State.modMacro_net (s : State) (mid : Nat) (f : MacroInst → MacroInst) : (State.modMacro s mid f).net = s.net :=
  (State.modMacro_moves s mid f (Moves.refl 128 s) rfl).rest .net rfl
@[simp] theorem State.modMacro_asy (s : State) (mid : Nat) (f : MacroInst → MacroInst) : (State.modMacro s mid f).asy = s.asy :=
  (State.modMacro_moves s mid f (Moves.refl 128 s) rfl).rest .asy rfl
@[simp] theorem State.modMacro_out (s : State) (mid : Nat) (f : MacroInst → MacroInst) : (State.modMacro s mid f).out = s.out :=
  (State.modMacro_moves s mid f (Moves.refl 128 s) rfl).rest .out rfl

@[simp] theorem State.modArb_pending (s : State) (e : Engine) (f : Arb → Arb) : (State.modArb s e f).pending = s.pending :=
  (State.modArb_moves s e f (Moves.refl 128 s) rfl).rest .pending rfl
@[simp] theorem State.modArb_held (s : State) (e : Engine) (f : Arb → Arb) : (State.modArb s e f).held = s.held :=
  (State.modArb_moves s e f (Moves.refl 128 s) rfl).rest .held rfl
@[simp] theorem State.modArb_freeCtr (s : State) (e : Engine) (f : Arb → Arb) : (State.modArb s e f).freeCtr = s.freeCtr :=
  (State.modArb_moves s e f (Moves.refl 128 s) rfl).rest .freeCtr rfl
@[simp] theorem State.modArb_now (s : State) (e : Engine) (f : Arb → Arb) : (State.modArb s e f).now = s.now :=
  (State.modArb_moves s e f (Moves.refl 128 s) rfl).rest .now rfl
@[simp] theorem State.modArb_boot (s : State) (e : Engine) (f : Arb → Arb) : (State.modArb s e f).boot = s.boot :=
  (State.modArb_moves s e f (Moves.refl 128 s) rfl).rest .boot rfl
@[simp] theorem State.modArb_beat (s : State) (e : Engine) (f : Arb → Arb) : (State.modArb s e f).beat = s.beat :=
  (State.modArb_moves s e f (Moves.refl 128 s) rfl).rest .beat rfl
@[simp] theorem State.modArb_cl (s : State) (e : Engine) (f : Arb → Arb) : (State.modArb s e f).cl = s.cl :=
  (State.modArb_moves s e f (Moves.refl 128 s) rfl).rest .cl rfl
@[simp] theorem State.modArb_tiers (s : State) (e : Engine) (f : Arb → Arb) : (State.modArb s e f).tiers = s.tiers :=
  (State.modArb_moves s e f (Moves.refl 128 s) rfl).rest .tiers rfl
@[simp] theorem State.modArb_sync (s : State) (e : Engine) (f : Arb → Arb) : (State.modArb s e f).sync = s.sync :=
  (State.modArb_moves s e f (Moves.refl 128 s) rfl).rest .sync rfl
@[simp] theorem State.modArb_fns (s : State) (e : Engine) (f : Arb → Arb) : (State.modArb s e f).fns = s.fns :=
  (State.modArb_moves s e f (Moves.refl 128 s) rfl).rest .fns rfl
@[simp] theorem State.modArb_redeal (s : State) (e : Engine) (f : Arb → Arb) : (State.modArb s e f).redeal = s.redeal :=
  (State.modArb_moves s e f (Moves.refl 128 s) rfl).rest .redeal rfl
@[simp] theorem State.modArb_fences (s : State) (e : Engine) (f : Arb → Arb) : (State.modArb s e f).fences = s.fences :=
  (State.modArb_moves s e f (Moves.refl 128 s) rfl).rest .fences rfl
@[simp] theorem State.modArb_ecc (s : State) (e : Engine) (f : Arb → Arb) : (State.modArb s e f).ecc = s.ecc :=
  (State.modArb_moves s e f (Moves.refl 128 s) rfl).rest .ecc rfl
@[simp] theorem State.modArb_link (s : State) (e : Engine) (f : Arb → Arb) : (State.modArb s e f).link = s.link :=
  (State.modArb_moves s e f (Moves.refl 128 s) rfl).rest .link rfl
@[simp] theorem State.modArb_rounds (s : State) (e : Engine) (f : Arb → Arb) : (State.modArb s e f).rounds = s.rounds :=
  (State.modArb_moves s e f (Moves.refl 128 s) rfl).rest .rounds rfl
@[simp] theorem State.modArb_dbg (s : State) (e : Engine) (f : Arb → Arb) : (State.modArb s e f).dbg = s.dbg :=
  (State.modArb_moves s e f (Moves.refl 128 s) rfl).rest .dbg rfl
@[simp] theorem State.modArb_power (s : State) (e : Engine) (f : Arb → Arb) : (State.modArb s e f).power = s.power :=
  (State.modArb_moves s e f (Moves.refl 128 s) rfl).rest .power rfl
@[simp] theorem State.modArb_mgmt (s : State) (e : Engine) (f : Arb → Arb) : (State.modArb s e f).mgmt = s.mgmt :=
  (State.modArb_moves s e f (Moves.refl 128 s) rfl).rest .mgmt rfl
@[simp] theorem State.modArb_pcie (s : State) (e : Engine) (f : Arb → Arb) : (State.modArb s e f).pcie = s.pcie :=
  (State.modArb_moves s e f (Moves.refl 128 s) rfl).rest .pcie rfl
@[simp] theorem State.modArb_net (s : State) (e : Engine) (f : Arb → Arb) : (State.modArb s e f).net = s.net :=
  (State.modArb_moves s e f (Moves.refl 128 s) rfl).rest .net rfl
@[simp] theorem State.modArb_asy (s : State) (e : Engine) (f : Arb → Arb) : (State.modArb s e f).asy = s.asy :=
  (State.modArb_moves s e f (Moves.refl 128 s) rfl).rest .asy rfl
@[simp] theorem State.modArb_out (s : State) (e : Engine) (f : Arb → Arb) : (State.modArb s e f).out = s.out :=
  (State.modArb_moves s e f (Moves.refl 128 s) rfl).rest .out rfl

@[simp] theorem State.modPort_pending (s : State) (p : Nat) (f : Port → Port) : (State.modPort s p f).pending = s.pending :=
  (State.modPort_moves s p f (Moves.refl 16384 s) rfl).rest .pending rfl
@[simp] theorem State.modPort_held (s : State) (p : Nat) (f : Port → Port) : (State.modPort s p f).held = s.held :=
  (State.modPort_moves s p f (Moves.refl 16384 s) rfl).rest .held rfl
@[simp] theorem State.modPort_freeCtr (s : State) (p : Nat) (f : Port → Port) : (State.modPort s p f).freeCtr = s.freeCtr :=
  (State.modPort_moves s p f (Moves.refl 16384 s) rfl).rest .freeCtr rfl
@[simp] theorem State.modPort_now (s : State) (p : Nat) (f : Port → Port) : (State.modPort s p f).now = s.now :=
  (State.modPort_moves s p f (Moves.refl 16384 s) rfl).rest .now rfl
@[simp] theorem State.modPort_boot (s : State) (p : Nat) (f : Port → Port) : (State.modPort s p f).boot = s.boot :=
  (State.modPort_moves s p f (Moves.refl 16384 s) rfl).rest .boot rfl
@[simp] theorem State.modPort_beat (s : State) (p : Nat) (f : Port → Port) : (State.modPort s p f).beat = s.beat :=
  (State.modPort_moves s p f (Moves.refl 16384 s) rfl).rest .beat rfl
@[simp] theorem State.modPort_cl (s : State) (p : Nat) (f : Port → Port) : (State.modPort s p f).cl = s.cl :=
  (State.modPort_moves s p f (Moves.refl 16384 s) rfl).rest .cl rfl
@[simp] theorem State.modPort_dl (s : State) (p : Nat) (f : Port → Port) : (State.modPort s p f).dl = s.dl :=
  (State.modPort_moves s p f (Moves.refl 16384 s) rfl).rest .dl rfl
@[simp] theorem State.modPort_tiers (s : State) (p : Nat) (f : Port → Port) : (State.modPort s p f).tiers = s.tiers :=
  (State.modPort_moves s p f (Moves.refl 16384 s) rfl).rest .tiers rfl
@[simp] theorem State.modPort_sync (s : State) (p : Nat) (f : Port → Port) : (State.modPort s p f).sync = s.sync :=
  (State.modPort_moves s p f (Moves.refl 16384 s) rfl).rest .sync rfl
@[simp] theorem State.modPort_fns (s : State) (p : Nat) (f : Port → Port) : (State.modPort s p f).fns = s.fns :=
  (State.modPort_moves s p f (Moves.refl 16384 s) rfl).rest .fns rfl
@[simp] theorem State.modPort_redeal (s : State) (p : Nat) (f : Port → Port) : (State.modPort s p f).redeal = s.redeal :=
  (State.modPort_moves s p f (Moves.refl 16384 s) rfl).rest .redeal rfl
@[simp] theorem State.modPort_fences (s : State) (p : Nat) (f : Port → Port) : (State.modPort s p f).fences = s.fences :=
  (State.modPort_moves s p f (Moves.refl 16384 s) rfl).rest .fences rfl
@[simp] theorem State.modPort_ecc (s : State) (p : Nat) (f : Port → Port) : (State.modPort s p f).ecc = s.ecc :=
  (State.modPort_moves s p f (Moves.refl 16384 s) rfl).rest .ecc rfl
@[simp] theorem State.modPort_rounds (s : State) (p : Nat) (f : Port → Port) : (State.modPort s p f).rounds = s.rounds :=
  (State.modPort_moves s p f (Moves.refl 16384 s) rfl).rest .rounds rfl
@[simp] theorem State.modPort_dbg (s : State) (p : Nat) (f : Port → Port) : (State.modPort s p f).dbg = s.dbg :=
  (State.modPort_moves s p f (Moves.refl 16384 s) rfl).rest .dbg rfl
@[simp] theorem State.modPort_power (s : State) (p : Nat) (f : Port → Port) : (State.modPort s p f).power = s.power :=
  (State.modPort_moves s p f (Moves.refl 16384 s) rfl).rest .power rfl
@[simp] theorem State.modPort_mgmt (s : State) (p : Nat) (f : Port → Port) : (State.modPort s p f).mgmt = s.mgmt :=
  (State.modPort_moves s p f (Moves.refl 16384 s) rfl).rest .mgmt rfl
@[simp] theorem State.modPort_pcie (s : State) (p : Nat) (f : Port → Port) : (State.modPort s p f).pcie = s.pcie :=
  (State.modPort_moves s p f (Moves.refl 16384 s) rfl).rest .pcie rfl
@[simp] theorem State.modPort_net (s : State) (p : Nat) (f : Port → Port) : (State.modPort s p f).net = s.net :=
  (State.modPort_moves s p f (Moves.refl 16384 s) rfl).rest .net rfl
@[simp] theorem State.modPort_asy (s : State) (p : Nat) (f : Port → Port) : (State.modPort s p f).asy = s.asy :=
  (State.modPort_moves s p f (Moves.refl 16384 s) rfl).rest .asy rfl
@[simp] theorem State.modPort_out (s : State) (p : Nat) (f : Port → Port) : (State.modPort s p f).out = s.out :=
  (State.modPort_moves s p f (Moves.refl 16384 s) rfl).rest .out rfl

@[simp] theorem State.modShoe_pending (s : State) (n : Nat) (f : Shoe → Shoe) : (State.modShoe s n f).pending = s.pending :=
  (State.modShoe_moves s n f (Moves.refl 128 s) rfl).rest .pending rfl
@[simp] theorem State.modShoe_held (s : State) (n : Nat) (f : Shoe → Shoe) : (State.modShoe s n f).held = s.held :=
  (State.modShoe_moves s n f (Moves.refl 128 s) rfl).rest .held rfl
@[simp] theorem State.modShoe_freeCtr (s : State) (n : Nat) (f : Shoe → Shoe) : (State.modShoe s n f).freeCtr = s.freeCtr :=
  (State.modShoe_moves s n f (Moves.refl 128 s) rfl).rest .freeCtr rfl
@[simp] theorem State.modShoe_now (s : State) (n : Nat) (f : Shoe → Shoe) : (State.modShoe s n f).now = s.now :=
  (State.modShoe_moves s n f (Moves.refl 128 s) rfl).rest .now rfl
@[simp] theorem State.modShoe_boot (s : State) (n : Nat) (f : Shoe → Shoe) : (State.modShoe s n f).boot = s.boot :=
  (State.modShoe_moves s n f (Moves.refl 128 s) rfl).rest .boot rfl
@[simp] theorem State.modShoe_beat (s : State) (n : Nat) (f : Shoe → Shoe) : (State.modShoe s n f).beat = s.beat :=
  (State.modShoe_moves s n f (Moves.refl 128 s) rfl).rest .beat rfl
@[simp] theorem State.modShoe_cl (s : State) (n : Nat) (f : Shoe → Shoe) : (State.modShoe s n f).cl = s.cl :=
  (State.modShoe_moves s n f (Moves.refl 128 s) rfl).rest .cl rfl
@[simp] theorem State.modShoe_tiers (s : State) (n : Nat) (f : Shoe → Shoe) : (State.modShoe s n f).tiers = s.tiers :=
  (State.modShoe_moves s n f (Moves.refl 128 s) rfl).rest .tiers rfl
@[simp] theorem State.modShoe_sync (s : State) (n : Nat) (f : Shoe → Shoe) : (State.modShoe s n f).sync = s.sync :=
  (State.modShoe_moves s n f (Moves.refl 128 s) rfl).rest .sync rfl
@[simp] theorem State.modShoe_fns (s : State) (n : Nat) (f : Shoe → Shoe) : (State.modShoe s n f).fns = s.fns :=
  (State.modShoe_moves s n f (Moves.refl 128 s) rfl).rest .fns rfl
@[simp] theorem State.modShoe_redeal (s : State) (n : Nat) (f : Shoe → Shoe) : (State.modShoe s n f).redeal = s.redeal :=
  (State.modShoe_moves s n f (Moves.refl 128 s) rfl).rest .redeal rfl
@[simp] theorem State.modShoe_fences (s : State) (n : Nat) (f : Shoe → Shoe) : (State.modShoe s n f).fences = s.fences :=
  (State.modShoe_moves s n f (Moves.refl 128 s) rfl).rest .fences rfl
@[simp] theorem State.modShoe_ecc (s : State) (n : Nat) (f : Shoe → Shoe) : (State.modShoe s n f).ecc = s.ecc :=
  (State.modShoe_moves s n f (Moves.refl 128 s) rfl).rest .ecc rfl
@[simp] theorem State.modShoe_link (s : State) (n : Nat) (f : Shoe → Shoe) : (State.modShoe s n f).link = s.link :=
  (State.modShoe_moves s n f (Moves.refl 128 s) rfl).rest .link rfl
@[simp] theorem State.modShoe_rounds (s : State) (n : Nat) (f : Shoe → Shoe) : (State.modShoe s n f).rounds = s.rounds :=
  (State.modShoe_moves s n f (Moves.refl 128 s) rfl).rest .rounds rfl
@[simp] theorem State.modShoe_dbg (s : State) (n : Nat) (f : Shoe → Shoe) : (State.modShoe s n f).dbg = s.dbg :=
  (State.modShoe_moves s n f (Moves.refl 128 s) rfl).rest .dbg rfl
@[simp] theorem State.modShoe_power (s : State) (n : Nat) (f : Shoe → Shoe) : (State.modShoe s n f).power = s.power :=
  (State.modShoe_moves s n f (Moves.refl 128 s) rfl).rest .power rfl
@[simp] theorem State.modShoe_mgmt (s : State) (n : Nat) (f : Shoe → Shoe) : (State.modShoe s n f).mgmt = s.mgmt :=
  (State.modShoe_moves s n f (Moves.refl 128 s) rfl).rest .mgmt rfl
@[simp] theorem State.modShoe_pcie (s : State) (n : Nat) (f : Shoe → Shoe) : (State.modShoe s n f).pcie = s.pcie :=
  (State.modShoe_moves s n f (Moves.refl 128 s) rfl).rest .pcie rfl
@[simp] theorem State.modShoe_net (s : State) (n : Nat) (f : Shoe → Shoe) : (State.modShoe s n f).net = s.net :=
  (State.modShoe_moves s n f (Moves.refl 128 s) rfl).rest .net rfl
@[simp] theorem State.modShoe_asy (s : State) (n : Nat) (f : Shoe → Shoe) : (State.modShoe s n f).asy = s.asy :=
  (State.modShoe_moves s n f (Moves.refl 128 s) rfl).rest .asy rfl
@[simp] theorem State.modShoe_out (s : State) (n : Nat) (f : Shoe → Shoe) : (State.modShoe s n f).out = s.out :=
  (State.modShoe_moves s n f (Moves.refl 128 s) rfl).rest .out rfl

@[simp] theorem State.modClaim_pending (s : State) (n : Nat) (f : Claim → Claim) : (State.modClaim s n f).pending = s.pending :=
  (State.modClaim_moves s n f (Moves.refl 64 s) rfl).rest .pending rfl
@[simp] theorem State.modClaim_held (s : State) (n : Nat) (f : Claim → Claim) : (State.modClaim s n f).held = s.held :=
  (State.modClaim_moves s n f (Moves.refl 64 s) rfl).rest .held rfl
@[simp] theorem State.modClaim_freeCtr (s : State) (n : Nat) (f : Claim → Claim) : (State.modClaim s n f).freeCtr = s.freeCtr :=
  (State.modClaim_moves s n f (Moves.refl 64 s) rfl).rest .freeCtr rfl
@[simp] theorem State.modClaim_now (s : State) (n : Nat) (f : Claim → Claim) : (State.modClaim s n f).now = s.now :=
  (State.modClaim_moves s n f (Moves.refl 64 s) rfl).rest .now rfl
@[simp] theorem State.modClaim_boot (s : State) (n : Nat) (f : Claim → Claim) : (State.modClaim s n f).boot = s.boot :=
  (State.modClaim_moves s n f (Moves.refl 64 s) rfl).rest .boot rfl
@[simp] theorem State.modClaim_beat (s : State) (n : Nat) (f : Claim → Claim) : (State.modClaim s n f).beat = s.beat :=
  (State.modClaim_moves s n f (Moves.refl 64 s) rfl).rest .beat rfl
@[simp] theorem State.modClaim_dl (s : State) (n : Nat) (f : Claim → Claim) : (State.modClaim s n f).dl = s.dl :=
  (State.modClaim_moves s n f (Moves.refl 64 s) rfl).rest .dl rfl
@[simp] theorem State.modClaim_tiers (s : State) (n : Nat) (f : Claim → Claim) : (State.modClaim s n f).tiers = s.tiers :=
  (State.modClaim_moves s n f (Moves.refl 64 s) rfl).rest .tiers rfl
@[simp] theorem State.modClaim_sync (s : State) (n : Nat) (f : Claim → Claim) : (State.modClaim s n f).sync = s.sync :=
  (State.modClaim_moves s n f (Moves.refl 64 s) rfl).rest .sync rfl
@[simp] theorem State.modClaim_fns (s : State) (n : Nat) (f : Claim → Claim) : (State.modClaim s n f).fns = s.fns :=
  (State.modClaim_moves s n f (Moves.refl 64 s) rfl).rest .fns rfl
@[simp] theorem State.modClaim_redeal (s : State) (n : Nat) (f : Claim → Claim) : (State.modClaim s n f).redeal = s.redeal :=
  (State.modClaim_moves s n f (Moves.refl 64 s) rfl).rest .redeal rfl
@[simp] theorem State.modClaim_fences (s : State) (n : Nat) (f : Claim → Claim) : (State.modClaim s n f).fences = s.fences :=
  (State.modClaim_moves s n f (Moves.refl 64 s) rfl).rest .fences rfl
@[simp] theorem State.modClaim_ecc (s : State) (n : Nat) (f : Claim → Claim) : (State.modClaim s n f).ecc = s.ecc :=
  (State.modClaim_moves s n f (Moves.refl 64 s) rfl).rest .ecc rfl
@[simp] theorem State.modClaim_link (s : State) (n : Nat) (f : Claim → Claim) : (State.modClaim s n f).link = s.link :=
  (State.modClaim_moves s n f (Moves.refl 64 s) rfl).rest .link rfl
@[simp] theorem State.modClaim_rounds (s : State) (n : Nat) (f : Claim → Claim) : (State.modClaim s n f).rounds = s.rounds :=
  (State.modClaim_moves s n f (Moves.refl 64 s) rfl).rest .rounds rfl
@[simp] theorem State.modClaim_dbg (s : State) (n : Nat) (f : Claim → Claim) : (State.modClaim s n f).dbg = s.dbg :=
  (State.modClaim_moves s n f (Moves.refl 64 s) rfl).rest .dbg rfl
@[simp] theorem State.modClaim_power (s : State) (n : Nat) (f : Claim → Claim) : (State.modClaim s n f).power = s.power :=
  (State.modClaim_moves s n f (Moves.refl 64 s) rfl).rest .power rfl
@[simp] theorem State.modClaim_mgmt (s : State) (n : Nat) (f : Claim → Claim) : (State.modClaim s n f).mgmt = s.mgmt :=
  (State.modClaim_moves s n f (Moves.refl 64 s) rfl).rest .mgmt rfl
@[simp] theorem State.modClaim_pcie (s : State) (n : Nat) (f : Claim → Claim) : (State.modClaim s n f).pcie = s.pcie :=
  (State.modClaim_moves s n f (Moves.refl 64 s) rfl).rest .pcie rfl
@[simp] theorem State.modClaim_net (s : State) (n : Nat) (f : Claim → Claim) : (State.modClaim s n f).net = s.net :=
  (State.modClaim_moves s n f (Moves.refl 64 s) rfl).rest .net rfl
@[simp] theorem State.modClaim_asy (s : State) (n : Nat) (f : Claim → Claim) : (State.modClaim s n f).asy = s.asy :=
  (State.modClaim_moves s n f (Moves.refl 64 s) rfl).rest .asy rfl
@[simp] theorem State.modClaim_out (s : State) (n : Nat) (f : Claim → Claim) : (State.modClaim s n f).out = s.out :=
  (State.modClaim_moves s n f (Moves.refl 64 s) rfl).rest .out rfl

@[simp] theorem State.modRing_pending (s : State) (n : Nat) (f : EvtRing → EvtRing) : (State.modRing s n f).pending = s.pending :=
  (State.modRing_moves s n f (Moves.refl 64 s) rfl).rest .pending rfl
@[simp] theorem State.modRing_held (s : State) (n : Nat) (f : EvtRing → EvtRing) : (State.modRing s n f).held = s.held :=
  (State.modRing_moves s n f (Moves.refl 64 s) rfl).rest .held rfl
@[simp] theorem State.modRing_freeCtr (s : State) (n : Nat) (f : EvtRing → EvtRing) : (State.modRing s n f).freeCtr = s.freeCtr :=
  (State.modRing_moves s n f (Moves.refl 64 s) rfl).rest .freeCtr rfl
@[simp] theorem State.modRing_now (s : State) (n : Nat) (f : EvtRing → EvtRing) : (State.modRing s n f).now = s.now :=
  (State.modRing_moves s n f (Moves.refl 64 s) rfl).rest .now rfl
@[simp] theorem State.modRing_boot (s : State) (n : Nat) (f : EvtRing → EvtRing) : (State.modRing s n f).boot = s.boot :=
  (State.modRing_moves s n f (Moves.refl 64 s) rfl).rest .boot rfl
@[simp] theorem State.modRing_beat (s : State) (n : Nat) (f : EvtRing → EvtRing) : (State.modRing s n f).beat = s.beat :=
  (State.modRing_moves s n f (Moves.refl 64 s) rfl).rest .beat rfl
@[simp] theorem State.modRing_dl (s : State) (n : Nat) (f : EvtRing → EvtRing) : (State.modRing s n f).dl = s.dl :=
  (State.modRing_moves s n f (Moves.refl 64 s) rfl).rest .dl rfl
@[simp] theorem State.modRing_tiers (s : State) (n : Nat) (f : EvtRing → EvtRing) : (State.modRing s n f).tiers = s.tiers :=
  (State.modRing_moves s n f (Moves.refl 64 s) rfl).rest .tiers rfl
@[simp] theorem State.modRing_sync (s : State) (n : Nat) (f : EvtRing → EvtRing) : (State.modRing s n f).sync = s.sync :=
  (State.modRing_moves s n f (Moves.refl 64 s) rfl).rest .sync rfl
@[simp] theorem State.modRing_fns (s : State) (n : Nat) (f : EvtRing → EvtRing) : (State.modRing s n f).fns = s.fns :=
  (State.modRing_moves s n f (Moves.refl 64 s) rfl).rest .fns rfl
@[simp] theorem State.modRing_redeal (s : State) (n : Nat) (f : EvtRing → EvtRing) : (State.modRing s n f).redeal = s.redeal :=
  (State.modRing_moves s n f (Moves.refl 64 s) rfl).rest .redeal rfl
@[simp] theorem State.modRing_fences (s : State) (n : Nat) (f : EvtRing → EvtRing) : (State.modRing s n f).fences = s.fences :=
  (State.modRing_moves s n f (Moves.refl 64 s) rfl).rest .fences rfl
@[simp] theorem State.modRing_ecc (s : State) (n : Nat) (f : EvtRing → EvtRing) : (State.modRing s n f).ecc = s.ecc :=
  (State.modRing_moves s n f (Moves.refl 64 s) rfl).rest .ecc rfl
@[simp] theorem State.modRing_link (s : State) (n : Nat) (f : EvtRing → EvtRing) : (State.modRing s n f).link = s.link :=
  (State.modRing_moves s n f (Moves.refl 64 s) rfl).rest .link rfl
@[simp] theorem State.modRing_rounds (s : State) (n : Nat) (f : EvtRing → EvtRing) : (State.modRing s n f).rounds = s.rounds :=
  (State.modRing_moves s n f (Moves.refl 64 s) rfl).rest .rounds rfl
@[simp] theorem State.modRing_dbg (s : State) (n : Nat) (f : EvtRing → EvtRing) : (State.modRing s n f).dbg = s.dbg :=
  (State.modRing_moves s n f (Moves.refl 64 s) rfl).rest .dbg rfl
@[simp] theorem State.modRing_power (s : State) (n : Nat) (f : EvtRing → EvtRing) : (State.modRing s n f).power = s.power :=
  (State.modRing_moves s n f (Moves.refl 64 s) rfl).rest .power rfl
@[simp] theorem State.modRing_mgmt (s : State) (n : Nat) (f : EvtRing → EvtRing) : (State.modRing s n f).mgmt = s.mgmt :=
  (State.modRing_moves s n f (Moves.refl 64 s) rfl).rest .mgmt rfl
@[simp] theorem State.modRing_pcie (s : State) (n : Nat) (f : EvtRing → EvtRing) : (State.modRing s n f).pcie = s.pcie :=
  (State.modRing_moves s n f (Moves.refl 64 s) rfl).rest .pcie rfl
@[simp] theorem State.modRing_net (s : State) (n : Nat) (f : EvtRing → EvtRing) : (State.modRing s n f).net = s.net :=
  (State.modRing_moves s n f (Moves.refl 64 s) rfl).rest .net rfl
@[simp] theorem State.modRing_asy (s : State) (n : Nat) (f : EvtRing → EvtRing) : (State.modRing s n f).asy = s.asy :=
  (State.modRing_moves s n f (Moves.refl 64 s) rfl).rest .asy rfl
@[simp] theorem State.modRing_out (s : State) (n : Nat) (f : EvtRing → EvtRing) : (State.modRing s n f).out = s.out :=
  (State.modRing_moves s n f (Moves.refl 64 s) rfl).rest .out rfl

@[simp] theorem State.modWait_pending (s : State) (c : Nat) (w : Nat) (f : HostWait → HostWait) : (State.modWait s c w f).pending = s.pending :=
  (State.modWait_moves s c w f (Moves.refl 512 s) rfl).rest .pending rfl
@[simp] theorem State.modWait_held (s : State) (c : Nat) (w : Nat) (f : HostWait → HostWait) : (State.modWait s c w f).held = s.held :=
  (State.modWait_moves s c w f (Moves.refl 512 s) rfl).rest .held rfl
@[simp] theorem State.modWait_freeCtr (s : State) (c : Nat) (w : Nat) (f : HostWait → HostWait) : (State.modWait s c w f).freeCtr = s.freeCtr :=
  (State.modWait_moves s c w f (Moves.refl 512 s) rfl).rest .freeCtr rfl
@[simp] theorem State.modWait_now (s : State) (c : Nat) (w : Nat) (f : HostWait → HostWait) : (State.modWait s c w f).now = s.now :=
  (State.modWait_moves s c w f (Moves.refl 512 s) rfl).rest .now rfl
@[simp] theorem State.modWait_boot (s : State) (c : Nat) (w : Nat) (f : HostWait → HostWait) : (State.modWait s c w f).boot = s.boot :=
  (State.modWait_moves s c w f (Moves.refl 512 s) rfl).rest .boot rfl
@[simp] theorem State.modWait_beat (s : State) (c : Nat) (w : Nat) (f : HostWait → HostWait) : (State.modWait s c w f).beat = s.beat :=
  (State.modWait_moves s c w f (Moves.refl 512 s) rfl).rest .beat rfl
@[simp] theorem State.modWait_cl (s : State) (c : Nat) (w : Nat) (f : HostWait → HostWait) : (State.modWait s c w f).cl = s.cl :=
  (State.modWait_moves s c w f (Moves.refl 512 s) rfl).rest .cl rfl
@[simp] theorem State.modWait_dl (s : State) (c : Nat) (w : Nat) (f : HostWait → HostWait) : (State.modWait s c w f).dl = s.dl :=
  (State.modWait_moves s c w f (Moves.refl 512 s) rfl).rest .dl rfl
@[simp] theorem State.modWait_tiers (s : State) (c : Nat) (w : Nat) (f : HostWait → HostWait) : (State.modWait s c w f).tiers = s.tiers :=
  (State.modWait_moves s c w f (Moves.refl 512 s) rfl).rest .tiers rfl
@[simp] theorem State.modWait_fns (s : State) (c : Nat) (w : Nat) (f : HostWait → HostWait) : (State.modWait s c w f).fns = s.fns :=
  (State.modWait_moves s c w f (Moves.refl 512 s) rfl).rest .fns rfl
@[simp] theorem State.modWait_redeal (s : State) (c : Nat) (w : Nat) (f : HostWait → HostWait) : (State.modWait s c w f).redeal = s.redeal :=
  (State.modWait_moves s c w f (Moves.refl 512 s) rfl).rest .redeal rfl
@[simp] theorem State.modWait_fences (s : State) (c : Nat) (w : Nat) (f : HostWait → HostWait) : (State.modWait s c w f).fences = s.fences :=
  (State.modWait_moves s c w f (Moves.refl 512 s) rfl).rest .fences rfl
@[simp] theorem State.modWait_ecc (s : State) (c : Nat) (w : Nat) (f : HostWait → HostWait) : (State.modWait s c w f).ecc = s.ecc :=
  (State.modWait_moves s c w f (Moves.refl 512 s) rfl).rest .ecc rfl
@[simp] theorem State.modWait_link (s : State) (c : Nat) (w : Nat) (f : HostWait → HostWait) : (State.modWait s c w f).link = s.link :=
  (State.modWait_moves s c w f (Moves.refl 512 s) rfl).rest .link rfl
@[simp] theorem State.modWait_rounds (s : State) (c : Nat) (w : Nat) (f : HostWait → HostWait) : (State.modWait s c w f).rounds = s.rounds :=
  (State.modWait_moves s c w f (Moves.refl 512 s) rfl).rest .rounds rfl
@[simp] theorem State.modWait_dbg (s : State) (c : Nat) (w : Nat) (f : HostWait → HostWait) : (State.modWait s c w f).dbg = s.dbg :=
  (State.modWait_moves s c w f (Moves.refl 512 s) rfl).rest .dbg rfl
@[simp] theorem State.modWait_power (s : State) (c : Nat) (w : Nat) (f : HostWait → HostWait) : (State.modWait s c w f).power = s.power :=
  (State.modWait_moves s c w f (Moves.refl 512 s) rfl).rest .power rfl
@[simp] theorem State.modWait_mgmt (s : State) (c : Nat) (w : Nat) (f : HostWait → HostWait) : (State.modWait s c w f).mgmt = s.mgmt :=
  (State.modWait_moves s c w f (Moves.refl 512 s) rfl).rest .mgmt rfl
@[simp] theorem State.modWait_pcie (s : State) (c : Nat) (w : Nat) (f : HostWait → HostWait) : (State.modWait s c w f).pcie = s.pcie :=
  (State.modWait_moves s c w f (Moves.refl 512 s) rfl).rest .pcie rfl
@[simp] theorem State.modWait_net (s : State) (c : Nat) (w : Nat) (f : HostWait → HostWait) : (State.modWait s c w f).net = s.net :=
  (State.modWait_moves s c w f (Moves.refl 512 s) rfl).rest .net rfl
@[simp] theorem State.modWait_asy (s : State) (c : Nat) (w : Nat) (f : HostWait → HostWait) : (State.modWait s c w f).asy = s.asy :=
  (State.modWait_moves s c w f (Moves.refl 512 s) rfl).rest .asy rfl
@[simp] theorem State.modWait_out (s : State) (c : Nat) (w : Nat) (f : HostWait → HostWait) : (State.modWait s c w f).out = s.out :=
  (State.modWait_moves s c w f (Moves.refl 512 s) rfl).rest .out rfl

@[simp] theorem State.modQp_pending (s : State) (c : Nat) (h : Nat) (f : Qp → Qp) : (State.modQp s c h f).pending = s.pending :=
  (State.modQp_moves s c h f (Moves.refl 1048576 s) rfl).rest .pending rfl
@[simp] theorem State.modQp_held (s : State) (c : Nat) (h : Nat) (f : Qp → Qp) : (State.modQp s c h f).held = s.held :=
  (State.modQp_moves s c h f (Moves.refl 1048576 s) rfl).rest .held rfl
@[simp] theorem State.modQp_freeCtr (s : State) (c : Nat) (h : Nat) (f : Qp → Qp) : (State.modQp s c h f).freeCtr = s.freeCtr :=
  (State.modQp_moves s c h f (Moves.refl 1048576 s) rfl).rest .freeCtr rfl
@[simp] theorem State.modQp_now (s : State) (c : Nat) (h : Nat) (f : Qp → Qp) : (State.modQp s c h f).now = s.now :=
  (State.modQp_moves s c h f (Moves.refl 1048576 s) rfl).rest .now rfl
@[simp] theorem State.modQp_boot (s : State) (c : Nat) (h : Nat) (f : Qp → Qp) : (State.modQp s c h f).boot = s.boot :=
  (State.modQp_moves s c h f (Moves.refl 1048576 s) rfl).rest .boot rfl
@[simp] theorem State.modQp_beat (s : State) (c : Nat) (h : Nat) (f : Qp → Qp) : (State.modQp s c h f).beat = s.beat :=
  (State.modQp_moves s c h f (Moves.refl 1048576 s) rfl).rest .beat rfl
@[simp] theorem State.modQp_cl (s : State) (c : Nat) (h : Nat) (f : Qp → Qp) : (State.modQp s c h f).cl = s.cl :=
  (State.modQp_moves s c h f (Moves.refl 1048576 s) rfl).rest .cl rfl
@[simp] theorem State.modQp_dl (s : State) (c : Nat) (h : Nat) (f : Qp → Qp) : (State.modQp s c h f).dl = s.dl :=
  (State.modQp_moves s c h f (Moves.refl 1048576 s) rfl).rest .dl rfl
@[simp] theorem State.modQp_tiers (s : State) (c : Nat) (h : Nat) (f : Qp → Qp) : (State.modQp s c h f).tiers = s.tiers :=
  (State.modQp_moves s c h f (Moves.refl 1048576 s) rfl).rest .tiers rfl
@[simp] theorem State.modQp_sync (s : State) (c : Nat) (h : Nat) (f : Qp → Qp) : (State.modQp s c h f).sync = s.sync :=
  (State.modQp_moves s c h f (Moves.refl 1048576 s) rfl).rest .sync rfl
@[simp] theorem State.modQp_fns (s : State) (c : Nat) (h : Nat) (f : Qp → Qp) : (State.modQp s c h f).fns = s.fns :=
  (State.modQp_moves s c h f (Moves.refl 1048576 s) rfl).rest .fns rfl
@[simp] theorem State.modQp_redeal (s : State) (c : Nat) (h : Nat) (f : Qp → Qp) : (State.modQp s c h f).redeal = s.redeal :=
  (State.modQp_moves s c h f (Moves.refl 1048576 s) rfl).rest .redeal rfl
@[simp] theorem State.modQp_fences (s : State) (c : Nat) (h : Nat) (f : Qp → Qp) : (State.modQp s c h f).fences = s.fences :=
  (State.modQp_moves s c h f (Moves.refl 1048576 s) rfl).rest .fences rfl
@[simp] theorem State.modQp_ecc (s : State) (c : Nat) (h : Nat) (f : Qp → Qp) : (State.modQp s c h f).ecc = s.ecc :=
  (State.modQp_moves s c h f (Moves.refl 1048576 s) rfl).rest .ecc rfl
@[simp] theorem State.modQp_link (s : State) (c : Nat) (h : Nat) (f : Qp → Qp) : (State.modQp s c h f).link = s.link :=
  (State.modQp_moves s c h f (Moves.refl 1048576 s) rfl).rest .link rfl
@[simp] theorem State.modQp_rounds (s : State) (c : Nat) (h : Nat) (f : Qp → Qp) : (State.modQp s c h f).rounds = s.rounds :=
  (State.modQp_moves s c h f (Moves.refl 1048576 s) rfl).rest .rounds rfl
@[simp] theorem State.modQp_dbg (s : State) (c : Nat) (h : Nat) (f : Qp → Qp) : (State.modQp s c h f).dbg = s.dbg :=
  (State.modQp_moves s c h f (Moves.refl 1048576 s) rfl).rest .dbg rfl
@[simp] theorem State.modQp_power (s : State) (c : Nat) (h : Nat) (f : Qp → Qp) : (State.modQp s c h f).power = s.power :=
  (State.modQp_moves s c h f (Moves.refl 1048576 s) rfl).rest .power rfl
@[simp] theorem State.modQp_mgmt (s : State) (c : Nat) (h : Nat) (f : Qp → Qp) : (State.modQp s c h f).mgmt = s.mgmt :=
  (State.modQp_moves s c h f (Moves.refl 1048576 s) rfl).rest .mgmt rfl
@[simp] theorem State.modQp_pcie (s : State) (c : Nat) (h : Nat) (f : Qp → Qp) : (State.modQp s c h f).pcie = s.pcie :=
  (State.modQp_moves s c h f (Moves.refl 1048576 s) rfl).rest .pcie rfl
@[simp] theorem State.modQp_asy (s : State) (c : Nat) (h : Nat) (f : Qp → Qp) : (State.modQp s c h f).asy = s.asy :=
  (State.modQp_moves s c h f (Moves.refl 1048576 s) rfl).rest .asy rfl
@[simp] theorem State.modQp_out (s : State) (c : Nat) (h : Nat) (f : Qp → Qp) : (State.modQp s c h f).out = s.out :=
  (State.modQp_moves s c h f (Moves.refl 1048576 s) rfl).rest .out rfl

@[simp] theorem State.modClaimNet_pending (s : State) (c : Nat) (f : ClaimNet → ClaimNet) : (State.modClaimNet s c f).pending = s.pending :=
  (State.modClaimNet_moves s c f (Moves.refl 1048576 s) rfl).rest .pending rfl
@[simp] theorem State.modClaimNet_held (s : State) (c : Nat) (f : ClaimNet → ClaimNet) : (State.modClaimNet s c f).held = s.held :=
  (State.modClaimNet_moves s c f (Moves.refl 1048576 s) rfl).rest .held rfl
@[simp] theorem State.modClaimNet_freeCtr (s : State) (c : Nat) (f : ClaimNet → ClaimNet) : (State.modClaimNet s c f).freeCtr = s.freeCtr :=
  (State.modClaimNet_moves s c f (Moves.refl 1048576 s) rfl).rest .freeCtr rfl
@[simp] theorem State.modClaimNet_now (s : State) (c : Nat) (f : ClaimNet → ClaimNet) : (State.modClaimNet s c f).now = s.now :=
  (State.modClaimNet_moves s c f (Moves.refl 1048576 s) rfl).rest .now rfl
@[simp] theorem State.modClaimNet_boot (s : State) (c : Nat) (f : ClaimNet → ClaimNet) : (State.modClaimNet s c f).boot = s.boot :=
  (State.modClaimNet_moves s c f (Moves.refl 1048576 s) rfl).rest .boot rfl
@[simp] theorem State.modClaimNet_beat (s : State) (c : Nat) (f : ClaimNet → ClaimNet) : (State.modClaimNet s c f).beat = s.beat :=
  (State.modClaimNet_moves s c f (Moves.refl 1048576 s) rfl).rest .beat rfl
@[simp] theorem State.modClaimNet_cl (s : State) (c : Nat) (f : ClaimNet → ClaimNet) : (State.modClaimNet s c f).cl = s.cl :=
  (State.modClaimNet_moves s c f (Moves.refl 1048576 s) rfl).rest .cl rfl
@[simp] theorem State.modClaimNet_dl (s : State) (c : Nat) (f : ClaimNet → ClaimNet) : (State.modClaimNet s c f).dl = s.dl :=
  (State.modClaimNet_moves s c f (Moves.refl 1048576 s) rfl).rest .dl rfl
@[simp] theorem State.modClaimNet_tiers (s : State) (c : Nat) (f : ClaimNet → ClaimNet) : (State.modClaimNet s c f).tiers = s.tiers :=
  (State.modClaimNet_moves s c f (Moves.refl 1048576 s) rfl).rest .tiers rfl
@[simp] theorem State.modClaimNet_sync (s : State) (c : Nat) (f : ClaimNet → ClaimNet) : (State.modClaimNet s c f).sync = s.sync :=
  (State.modClaimNet_moves s c f (Moves.refl 1048576 s) rfl).rest .sync rfl
@[simp] theorem State.modClaimNet_fns (s : State) (c : Nat) (f : ClaimNet → ClaimNet) : (State.modClaimNet s c f).fns = s.fns :=
  (State.modClaimNet_moves s c f (Moves.refl 1048576 s) rfl).rest .fns rfl
@[simp] theorem State.modClaimNet_redeal (s : State) (c : Nat) (f : ClaimNet → ClaimNet) : (State.modClaimNet s c f).redeal = s.redeal :=
  (State.modClaimNet_moves s c f (Moves.refl 1048576 s) rfl).rest .redeal rfl
@[simp] theorem State.modClaimNet_fences (s : State) (c : Nat) (f : ClaimNet → ClaimNet) : (State.modClaimNet s c f).fences = s.fences :=
  (State.modClaimNet_moves s c f (Moves.refl 1048576 s) rfl).rest .fences rfl
@[simp] theorem State.modClaimNet_ecc (s : State) (c : Nat) (f : ClaimNet → ClaimNet) : (State.modClaimNet s c f).ecc = s.ecc :=
  (State.modClaimNet_moves s c f (Moves.refl 1048576 s) rfl).rest .ecc rfl
@[simp] theorem State.modClaimNet_link (s : State) (c : Nat) (f : ClaimNet → ClaimNet) : (State.modClaimNet s c f).link = s.link :=
  (State.modClaimNet_moves s c f (Moves.refl 1048576 s) rfl).rest .link rfl
@[simp] theorem State.modClaimNet_rounds (s : State) (c : Nat) (f : ClaimNet → ClaimNet) : (State.modClaimNet s c f).rounds = s.rounds :=
  (State.modClaimNet_moves s c f (Moves.refl 1048576 s) rfl).rest .rounds rfl
@[simp] theorem State.modClaimNet_dbg (s : State) (c : Nat) (f : ClaimNet → ClaimNet) : (State.modClaimNet s c f).dbg = s.dbg :=
  (State.modClaimNet_moves s c f (Moves.refl 1048576 s) rfl).rest .dbg rfl
@[simp] theorem State.modClaimNet_power (s : State) (c : Nat) (f : ClaimNet → ClaimNet) : (State.modClaimNet s c f).power = s.power :=
  (State.modClaimNet_moves s c f (Moves.refl 1048576 s) rfl).rest .power rfl
@[simp] theorem State.modClaimNet_mgmt (s : State) (c : Nat) (f : ClaimNet → ClaimNet) : (State.modClaimNet s c f).mgmt = s.mgmt :=
  (State.modClaimNet_moves s c f (Moves.refl 1048576 s) rfl).rest .mgmt rfl
@[simp] theorem State.modClaimNet_pcie (s : State) (c : Nat) (f : ClaimNet → ClaimNet) : (State.modClaimNet s c f).pcie = s.pcie :=
  (State.modClaimNet_moves s c f (Moves.refl 1048576 s) rfl).rest .pcie rfl
@[simp] theorem State.modClaimNet_asy (s : State) (c : Nat) (f : ClaimNet → ClaimNet) : (State.modClaimNet s c f).asy = s.asy :=
  (State.modClaimNet_moves s c f (Moves.refl 1048576 s) rfl).rest .asy rfl
@[simp] theorem State.modClaimNet_out (s : State) (c : Nat) (f : ClaimNet → ClaimNet) : (State.modClaimNet s c f).out = s.out :=
  (State.modClaimNet_moves s c f (Moves.refl 1048576 s) rfl).rest .out rfl

@[simp] theorem State.modEth_pending (s : State) (p : Nat) (f : EthPort → EthPort) : (State.modEth s p f).pending = s.pending :=
  (State.modEth_moves s p f (Moves.refl 1048576 s) rfl).rest .pending rfl
@[simp] theorem State.modEth_held (s : State) (p : Nat) (f : EthPort → EthPort) : (State.modEth s p f).held = s.held :=
  (State.modEth_moves s p f (Moves.refl 1048576 s) rfl).rest .held rfl
@[simp] theorem State.modEth_freeCtr (s : State) (p : Nat) (f : EthPort → EthPort) : (State.modEth s p f).freeCtr = s.freeCtr :=
  (State.modEth_moves s p f (Moves.refl 1048576 s) rfl).rest .freeCtr rfl
@[simp] theorem State.modEth_now (s : State) (p : Nat) (f : EthPort → EthPort) : (State.modEth s p f).now = s.now :=
  (State.modEth_moves s p f (Moves.refl 1048576 s) rfl).rest .now rfl
@[simp] theorem State.modEth_boot (s : State) (p : Nat) (f : EthPort → EthPort) : (State.modEth s p f).boot = s.boot :=
  (State.modEth_moves s p f (Moves.refl 1048576 s) rfl).rest .boot rfl
@[simp] theorem State.modEth_beat (s : State) (p : Nat) (f : EthPort → EthPort) : (State.modEth s p f).beat = s.beat :=
  (State.modEth_moves s p f (Moves.refl 1048576 s) rfl).rest .beat rfl
@[simp] theorem State.modEth_cl (s : State) (p : Nat) (f : EthPort → EthPort) : (State.modEth s p f).cl = s.cl :=
  (State.modEth_moves s p f (Moves.refl 1048576 s) rfl).rest .cl rfl
@[simp] theorem State.modEth_dl (s : State) (p : Nat) (f : EthPort → EthPort) : (State.modEth s p f).dl = s.dl :=
  (State.modEth_moves s p f (Moves.refl 1048576 s) rfl).rest .dl rfl
@[simp] theorem State.modEth_tiers (s : State) (p : Nat) (f : EthPort → EthPort) : (State.modEth s p f).tiers = s.tiers :=
  (State.modEth_moves s p f (Moves.refl 1048576 s) rfl).rest .tiers rfl
@[simp] theorem State.modEth_sync (s : State) (p : Nat) (f : EthPort → EthPort) : (State.modEth s p f).sync = s.sync :=
  (State.modEth_moves s p f (Moves.refl 1048576 s) rfl).rest .sync rfl
@[simp] theorem State.modEth_fns (s : State) (p : Nat) (f : EthPort → EthPort) : (State.modEth s p f).fns = s.fns :=
  (State.modEth_moves s p f (Moves.refl 1048576 s) rfl).rest .fns rfl
@[simp] theorem State.modEth_redeal (s : State) (p : Nat) (f : EthPort → EthPort) : (State.modEth s p f).redeal = s.redeal :=
  (State.modEth_moves s p f (Moves.refl 1048576 s) rfl).rest .redeal rfl
@[simp] theorem State.modEth_fences (s : State) (p : Nat) (f : EthPort → EthPort) : (State.modEth s p f).fences = s.fences :=
  (State.modEth_moves s p f (Moves.refl 1048576 s) rfl).rest .fences rfl
@[simp] theorem State.modEth_ecc (s : State) (p : Nat) (f : EthPort → EthPort) : (State.modEth s p f).ecc = s.ecc :=
  (State.modEth_moves s p f (Moves.refl 1048576 s) rfl).rest .ecc rfl
@[simp] theorem State.modEth_link (s : State) (p : Nat) (f : EthPort → EthPort) : (State.modEth s p f).link = s.link :=
  (State.modEth_moves s p f (Moves.refl 1048576 s) rfl).rest .link rfl
@[simp] theorem State.modEth_rounds (s : State) (p : Nat) (f : EthPort → EthPort) : (State.modEth s p f).rounds = s.rounds :=
  (State.modEth_moves s p f (Moves.refl 1048576 s) rfl).rest .rounds rfl
@[simp] theorem State.modEth_dbg (s : State) (p : Nat) (f : EthPort → EthPort) : (State.modEth s p f).dbg = s.dbg :=
  (State.modEth_moves s p f (Moves.refl 1048576 s) rfl).rest .dbg rfl
@[simp] theorem State.modEth_power (s : State) (p : Nat) (f : EthPort → EthPort) : (State.modEth s p f).power = s.power :=
  (State.modEth_moves s p f (Moves.refl 1048576 s) rfl).rest .power rfl
@[simp] theorem State.modEth_mgmt (s : State) (p : Nat) (f : EthPort → EthPort) : (State.modEth s p f).mgmt = s.mgmt :=
  (State.modEth_moves s p f (Moves.refl 1048576 s) rfl).rest .mgmt rfl
@[simp] theorem State.modEth_pcie (s : State) (p : Nat) (f : EthPort → EthPort) : (State.modEth s p f).pcie = s.pcie :=
  (State.modEth_moves s p f (Moves.refl 1048576 s) rfl).rest .pcie rfl
@[simp] theorem State.modEth_asy (s : State) (p : Nat) (f : EthPort → EthPort) : (State.modEth s p f).asy = s.asy :=
  (State.modEth_moves s p f (Moves.refl 1048576 s) rfl).rest .asy rfl
@[simp] theorem State.modEth_out (s : State) (p : Nat) (f : EthPort → EthPort) : (State.modEth s p f).out = s.out :=
  (State.modEth_moves s p f (Moves.refl 1048576 s) rfl).rest .out rfl

@[simp] theorem State.modIndex_pending (s : State) (i : Nat) (f : Index → Index) : (State.modIndex s i f).pending = s.pending :=
  (State.modIndex_moves s i f (Moves.refl 2097152 s) rfl).rest .pending rfl
@[simp] theorem State.modIndex_held (s : State) (i : Nat) (f : Index → Index) : (State.modIndex s i f).held = s.held :=
  (State.modIndex_moves s i f (Moves.refl 2097152 s) rfl).rest .held rfl
@[simp] theorem State.modIndex_freeCtr (s : State) (i : Nat) (f : Index → Index) : (State.modIndex s i f).freeCtr = s.freeCtr :=
  (State.modIndex_moves s i f (Moves.refl 2097152 s) rfl).rest .freeCtr rfl
@[simp] theorem State.modIndex_now (s : State) (i : Nat) (f : Index → Index) : (State.modIndex s i f).now = s.now :=
  (State.modIndex_moves s i f (Moves.refl 2097152 s) rfl).rest .now rfl
@[simp] theorem State.modIndex_boot (s : State) (i : Nat) (f : Index → Index) : (State.modIndex s i f).boot = s.boot :=
  (State.modIndex_moves s i f (Moves.refl 2097152 s) rfl).rest .boot rfl
@[simp] theorem State.modIndex_beat (s : State) (i : Nat) (f : Index → Index) : (State.modIndex s i f).beat = s.beat :=
  (State.modIndex_moves s i f (Moves.refl 2097152 s) rfl).rest .beat rfl
@[simp] theorem State.modIndex_cl (s : State) (i : Nat) (f : Index → Index) : (State.modIndex s i f).cl = s.cl :=
  (State.modIndex_moves s i f (Moves.refl 2097152 s) rfl).rest .cl rfl
@[simp] theorem State.modIndex_dl (s : State) (i : Nat) (f : Index → Index) : (State.modIndex s i f).dl = s.dl :=
  (State.modIndex_moves s i f (Moves.refl 2097152 s) rfl).rest .dl rfl
@[simp] theorem State.modIndex_tiers (s : State) (i : Nat) (f : Index → Index) : (State.modIndex s i f).tiers = s.tiers :=
  (State.modIndex_moves s i f (Moves.refl 2097152 s) rfl).rest .tiers rfl
@[simp] theorem State.modIndex_sync (s : State) (i : Nat) (f : Index → Index) : (State.modIndex s i f).sync = s.sync :=
  (State.modIndex_moves s i f (Moves.refl 2097152 s) rfl).rest .sync rfl
@[simp] theorem State.modIndex_fns (s : State) (i : Nat) (f : Index → Index) : (State.modIndex s i f).fns = s.fns :=
  (State.modIndex_moves s i f (Moves.refl 2097152 s) rfl).rest .fns rfl
@[simp] theorem State.modIndex_redeal (s : State) (i : Nat) (f : Index → Index) : (State.modIndex s i f).redeal = s.redeal :=
  (State.modIndex_moves s i f (Moves.refl 2097152 s) rfl).rest .redeal rfl
@[simp] theorem State.modIndex_fences (s : State) (i : Nat) (f : Index → Index) : (State.modIndex s i f).fences = s.fences :=
  (State.modIndex_moves s i f (Moves.refl 2097152 s) rfl).rest .fences rfl
@[simp] theorem State.modIndex_ecc (s : State) (i : Nat) (f : Index → Index) : (State.modIndex s i f).ecc = s.ecc :=
  (State.modIndex_moves s i f (Moves.refl 2097152 s) rfl).rest .ecc rfl
@[simp] theorem State.modIndex_link (s : State) (i : Nat) (f : Index → Index) : (State.modIndex s i f).link = s.link :=
  (State.modIndex_moves s i f (Moves.refl 2097152 s) rfl).rest .link rfl
@[simp] theorem State.modIndex_rounds (s : State) (i : Nat) (f : Index → Index) : (State.modIndex s i f).rounds = s.rounds :=
  (State.modIndex_moves s i f (Moves.refl 2097152 s) rfl).rest .rounds rfl
@[simp] theorem State.modIndex_dbg (s : State) (i : Nat) (f : Index → Index) : (State.modIndex s i f).dbg = s.dbg :=
  (State.modIndex_moves s i f (Moves.refl 2097152 s) rfl).rest .dbg rfl
@[simp] theorem State.modIndex_power (s : State) (i : Nat) (f : Index → Index) : (State.modIndex s i f).power = s.power :=
  (State.modIndex_moves s i f (Moves.refl 2097152 s) rfl).rest .power rfl
@[simp] theorem State.modIndex_mgmt (s : State) (i : Nat) (f : Index → Index) : (State.modIndex s i f).mgmt = s.mgmt :=
  (State.modIndex_moves s i f (Moves.refl 2097152 s) rfl).rest .mgmt rfl
@[simp] theorem State.modIndex_pcie (s : State) (i : Nat) (f : Index → Index) : (State.modIndex s i f).pcie = s.pcie :=
  (State.modIndex_moves s i f (Moves.refl 2097152 s) rfl).rest .pcie rfl
@[simp] theorem State.modIndex_net (s : State) (i : Nat) (f : Index → Index) : (State.modIndex s i f).net = s.net :=
  (State.modIndex_moves s i f (Moves.refl 2097152 s) rfl).rest .net rfl
@[simp] theorem State.modIndex_out (s : State) (i : Nat) (f : Index → Index) : (State.modIndex s i f).out = s.out :=
  (State.modIndex_moves s i f (Moves.refl 2097152 s) rfl).rest .out rfl

@[simp] theorem State.modWin_pending (s : State) (n : Nat) (f : DebugWin → DebugWin) : (State.modWin s n f).pending = s.pending :=
  (State.modWin_moves s n f (Moves.refl 65536 s) rfl).rest .pending rfl
@[simp] theorem State.modWin_held (s : State) (n : Nat) (f : DebugWin → DebugWin) : (State.modWin s n f).held = s.held :=
  (State.modWin_moves s n f (Moves.refl 65536 s) rfl).rest .held rfl
@[simp] theorem State.modWin_freeCtr (s : State) (n : Nat) (f : DebugWin → DebugWin) : (State.modWin s n f).freeCtr = s.freeCtr :=
  (State.modWin_moves s n f (Moves.refl 65536 s) rfl).rest .freeCtr rfl
@[simp] theorem State.modWin_now (s : State) (n : Nat) (f : DebugWin → DebugWin) : (State.modWin s n f).now = s.now :=
  (State.modWin_moves s n f (Moves.refl 65536 s) rfl).rest .now rfl
@[simp] theorem State.modWin_boot (s : State) (n : Nat) (f : DebugWin → DebugWin) : (State.modWin s n f).boot = s.boot :=
  (State.modWin_moves s n f (Moves.refl 65536 s) rfl).rest .boot rfl
@[simp] theorem State.modWin_beat (s : State) (n : Nat) (f : DebugWin → DebugWin) : (State.modWin s n f).beat = s.beat :=
  (State.modWin_moves s n f (Moves.refl 65536 s) rfl).rest .beat rfl
@[simp] theorem State.modWin_cl (s : State) (n : Nat) (f : DebugWin → DebugWin) : (State.modWin s n f).cl = s.cl :=
  (State.modWin_moves s n f (Moves.refl 65536 s) rfl).rest .cl rfl
@[simp] theorem State.modWin_dl (s : State) (n : Nat) (f : DebugWin → DebugWin) : (State.modWin s n f).dl = s.dl :=
  (State.modWin_moves s n f (Moves.refl 65536 s) rfl).rest .dl rfl
@[simp] theorem State.modWin_tiers (s : State) (n : Nat) (f : DebugWin → DebugWin) : (State.modWin s n f).tiers = s.tiers :=
  (State.modWin_moves s n f (Moves.refl 65536 s) rfl).rest .tiers rfl
@[simp] theorem State.modWin_sync (s : State) (n : Nat) (f : DebugWin → DebugWin) : (State.modWin s n f).sync = s.sync :=
  (State.modWin_moves s n f (Moves.refl 65536 s) rfl).rest .sync rfl
@[simp] theorem State.modWin_fns (s : State) (n : Nat) (f : DebugWin → DebugWin) : (State.modWin s n f).fns = s.fns :=
  (State.modWin_moves s n f (Moves.refl 65536 s) rfl).rest .fns rfl
@[simp] theorem State.modWin_redeal (s : State) (n : Nat) (f : DebugWin → DebugWin) : (State.modWin s n f).redeal = s.redeal :=
  (State.modWin_moves s n f (Moves.refl 65536 s) rfl).rest .redeal rfl
@[simp] theorem State.modWin_fences (s : State) (n : Nat) (f : DebugWin → DebugWin) : (State.modWin s n f).fences = s.fences :=
  (State.modWin_moves s n f (Moves.refl 65536 s) rfl).rest .fences rfl
@[simp] theorem State.modWin_ecc (s : State) (n : Nat) (f : DebugWin → DebugWin) : (State.modWin s n f).ecc = s.ecc :=
  (State.modWin_moves s n f (Moves.refl 65536 s) rfl).rest .ecc rfl
@[simp] theorem State.modWin_link (s : State) (n : Nat) (f : DebugWin → DebugWin) : (State.modWin s n f).link = s.link :=
  (State.modWin_moves s n f (Moves.refl 65536 s) rfl).rest .link rfl
@[simp] theorem State.modWin_rounds (s : State) (n : Nat) (f : DebugWin → DebugWin) : (State.modWin s n f).rounds = s.rounds :=
  (State.modWin_moves s n f (Moves.refl 65536 s) rfl).rest .rounds rfl
@[simp] theorem State.modWin_power (s : State) (n : Nat) (f : DebugWin → DebugWin) : (State.modWin s n f).power = s.power :=
  (State.modWin_moves s n f (Moves.refl 65536 s) rfl).rest .power rfl
@[simp] theorem State.modWin_mgmt (s : State) (n : Nat) (f : DebugWin → DebugWin) : (State.modWin s n f).mgmt = s.mgmt :=
  (State.modWin_moves s n f (Moves.refl 65536 s) rfl).rest .mgmt rfl
@[simp] theorem State.modWin_pcie (s : State) (n : Nat) (f : DebugWin → DebugWin) : (State.modWin s n f).pcie = s.pcie :=
  (State.modWin_moves s n f (Moves.refl 65536 s) rfl).rest .pcie rfl
@[simp] theorem State.modWin_net (s : State) (n : Nat) (f : DebugWin → DebugWin) : (State.modWin s n f).net = s.net :=
  (State.modWin_moves s n f (Moves.refl 65536 s) rfl).rest .net rfl
@[simp] theorem State.modWin_asy (s : State) (n : Nat) (f : DebugWin → DebugWin) : (State.modWin s n f).asy = s.asy :=
  (State.modWin_moves s n f (Moves.refl 65536 s) rfl).rest .asy rfl
@[simp] theorem State.modWin_out (s : State) (n : Nat) (f : DebugWin → DebugWin) : (State.modWin s n f).out = s.out :=
  (State.modWin_moves s n f (Moves.refl 65536 s) rfl).rest .out rfl

@[simp] theorem State.modDie_pending (s : State) (d : Nat) (f : EccDie → EccDie) : (State.modDie s d f).pending = s.pending :=
  (State.modDie_moves s d f (Moves.refl 8192 s) rfl).rest .pending rfl
@[simp] theorem State.modDie_held (s : State) (d : Nat) (f : EccDie → EccDie) : (State.modDie s d f).held = s.held :=
  (State.modDie_moves s d f (Moves.refl 8192 s) rfl).rest .held rfl
@[simp] theorem State.modDie_freeCtr (s : State) (d : Nat) (f : EccDie → EccDie) : (State.modDie s d f).freeCtr = s.freeCtr :=
  (State.modDie_moves s d f (Moves.refl 8192 s) rfl).rest .freeCtr rfl
@[simp] theorem State.modDie_now (s : State) (d : Nat) (f : EccDie → EccDie) : (State.modDie s d f).now = s.now :=
  (State.modDie_moves s d f (Moves.refl 8192 s) rfl).rest .now rfl
@[simp] theorem State.modDie_boot (s : State) (d : Nat) (f : EccDie → EccDie) : (State.modDie s d f).boot = s.boot :=
  (State.modDie_moves s d f (Moves.refl 8192 s) rfl).rest .boot rfl
@[simp] theorem State.modDie_beat (s : State) (d : Nat) (f : EccDie → EccDie) : (State.modDie s d f).beat = s.beat :=
  (State.modDie_moves s d f (Moves.refl 8192 s) rfl).rest .beat rfl
@[simp] theorem State.modDie_cl (s : State) (d : Nat) (f : EccDie → EccDie) : (State.modDie s d f).cl = s.cl :=
  (State.modDie_moves s d f (Moves.refl 8192 s) rfl).rest .cl rfl
@[simp] theorem State.modDie_dl (s : State) (d : Nat) (f : EccDie → EccDie) : (State.modDie s d f).dl = s.dl :=
  (State.modDie_moves s d f (Moves.refl 8192 s) rfl).rest .dl rfl
@[simp] theorem State.modDie_tiers (s : State) (d : Nat) (f : EccDie → EccDie) : (State.modDie s d f).tiers = s.tiers :=
  (State.modDie_moves s d f (Moves.refl 8192 s) rfl).rest .tiers rfl
@[simp] theorem State.modDie_sync (s : State) (d : Nat) (f : EccDie → EccDie) : (State.modDie s d f).sync = s.sync :=
  (State.modDie_moves s d f (Moves.refl 8192 s) rfl).rest .sync rfl
@[simp] theorem State.modDie_fns (s : State) (d : Nat) (f : EccDie → EccDie) : (State.modDie s d f).fns = s.fns :=
  (State.modDie_moves s d f (Moves.refl 8192 s) rfl).rest .fns rfl
@[simp] theorem State.modDie_redeal (s : State) (d : Nat) (f : EccDie → EccDie) : (State.modDie s d f).redeal = s.redeal :=
  (State.modDie_moves s d f (Moves.refl 8192 s) rfl).rest .redeal rfl
@[simp] theorem State.modDie_fences (s : State) (d : Nat) (f : EccDie → EccDie) : (State.modDie s d f).fences = s.fences :=
  (State.modDie_moves s d f (Moves.refl 8192 s) rfl).rest .fences rfl
@[simp] theorem State.modDie_link (s : State) (d : Nat) (f : EccDie → EccDie) : (State.modDie s d f).link = s.link :=
  (State.modDie_moves s d f (Moves.refl 8192 s) rfl).rest .link rfl
@[simp] theorem State.modDie_rounds (s : State) (d : Nat) (f : EccDie → EccDie) : (State.modDie s d f).rounds = s.rounds :=
  (State.modDie_moves s d f (Moves.refl 8192 s) rfl).rest .rounds rfl
@[simp] theorem State.modDie_dbg (s : State) (d : Nat) (f : EccDie → EccDie) : (State.modDie s d f).dbg = s.dbg :=
  (State.modDie_moves s d f (Moves.refl 8192 s) rfl).rest .dbg rfl
@[simp] theorem State.modDie_power (s : State) (d : Nat) (f : EccDie → EccDie) : (State.modDie s d f).power = s.power :=
  (State.modDie_moves s d f (Moves.refl 8192 s) rfl).rest .power rfl
@[simp] theorem State.modDie_mgmt (s : State) (d : Nat) (f : EccDie → EccDie) : (State.modDie s d f).mgmt = s.mgmt :=
  (State.modDie_moves s d f (Moves.refl 8192 s) rfl).rest .mgmt rfl
@[simp] theorem State.modDie_pcie (s : State) (d : Nat) (f : EccDie → EccDie) : (State.modDie s d f).pcie = s.pcie :=
  (State.modDie_moves s d f (Moves.refl 8192 s) rfl).rest .pcie rfl
@[simp] theorem State.modDie_net (s : State) (d : Nat) (f : EccDie → EccDie) : (State.modDie s d f).net = s.net :=
  (State.modDie_moves s d f (Moves.refl 8192 s) rfl).rest .net rfl
@[simp] theorem State.modDie_asy (s : State) (d : Nat) (f : EccDie → EccDie) : (State.modDie s d f).asy = s.asy :=
  (State.modDie_moves s d f (Moves.refl 8192 s) rfl).rest .asy rfl
@[simp] theorem State.modDie_out (s : State) (d : Nat) (f : EccDie → EccDie) : (State.modDie s d f).out = s.out :=
  (State.modDie_moves s d f (Moves.refl 8192 s) rfl).rest .out rfl

@[simp] theorem State.modUnit_pending (s : State) (cls : Nat) (i : Nat) (f : FenceUnit → FenceUnit) : (State.modUnit s cls i f).pending = s.pending :=
  (State.modUnit_moves s cls i f (Moves.refl 4096 s) rfl).rest .pending rfl
@[simp] theorem State.modUnit_held (s : State) (cls : Nat) (i : Nat) (f : FenceUnit → FenceUnit) : (State.modUnit s cls i f).held = s.held :=
  (State.modUnit_moves s cls i f (Moves.refl 4096 s) rfl).rest .held rfl
@[simp] theorem State.modUnit_freeCtr (s : State) (cls : Nat) (i : Nat) (f : FenceUnit → FenceUnit) : (State.modUnit s cls i f).freeCtr = s.freeCtr :=
  (State.modUnit_moves s cls i f (Moves.refl 4096 s) rfl).rest .freeCtr rfl
@[simp] theorem State.modUnit_now (s : State) (cls : Nat) (i : Nat) (f : FenceUnit → FenceUnit) : (State.modUnit s cls i f).now = s.now :=
  (State.modUnit_moves s cls i f (Moves.refl 4096 s) rfl).rest .now rfl
@[simp] theorem State.modUnit_boot (s : State) (cls : Nat) (i : Nat) (f : FenceUnit → FenceUnit) : (State.modUnit s cls i f).boot = s.boot :=
  (State.modUnit_moves s cls i f (Moves.refl 4096 s) rfl).rest .boot rfl
@[simp] theorem State.modUnit_beat (s : State) (cls : Nat) (i : Nat) (f : FenceUnit → FenceUnit) : (State.modUnit s cls i f).beat = s.beat :=
  (State.modUnit_moves s cls i f (Moves.refl 4096 s) rfl).rest .beat rfl
@[simp] theorem State.modUnit_cl (s : State) (cls : Nat) (i : Nat) (f : FenceUnit → FenceUnit) : (State.modUnit s cls i f).cl = s.cl :=
  (State.modUnit_moves s cls i f (Moves.refl 4096 s) rfl).rest .cl rfl
@[simp] theorem State.modUnit_dl (s : State) (cls : Nat) (i : Nat) (f : FenceUnit → FenceUnit) : (State.modUnit s cls i f).dl = s.dl :=
  (State.modUnit_moves s cls i f (Moves.refl 4096 s) rfl).rest .dl rfl
@[simp] theorem State.modUnit_tiers (s : State) (cls : Nat) (i : Nat) (f : FenceUnit → FenceUnit) : (State.modUnit s cls i f).tiers = s.tiers :=
  (State.modUnit_moves s cls i f (Moves.refl 4096 s) rfl).rest .tiers rfl
@[simp] theorem State.modUnit_sync (s : State) (cls : Nat) (i : Nat) (f : FenceUnit → FenceUnit) : (State.modUnit s cls i f).sync = s.sync :=
  (State.modUnit_moves s cls i f (Moves.refl 4096 s) rfl).rest .sync rfl
@[simp] theorem State.modUnit_fns (s : State) (cls : Nat) (i : Nat) (f : FenceUnit → FenceUnit) : (State.modUnit s cls i f).fns = s.fns :=
  (State.modUnit_moves s cls i f (Moves.refl 4096 s) rfl).rest .fns rfl
@[simp] theorem State.modUnit_redeal (s : State) (cls : Nat) (i : Nat) (f : FenceUnit → FenceUnit) : (State.modUnit s cls i f).redeal = s.redeal :=
  (State.modUnit_moves s cls i f (Moves.refl 4096 s) rfl).rest .redeal rfl
@[simp] theorem State.modUnit_ecc (s : State) (cls : Nat) (i : Nat) (f : FenceUnit → FenceUnit) : (State.modUnit s cls i f).ecc = s.ecc :=
  (State.modUnit_moves s cls i f (Moves.refl 4096 s) rfl).rest .ecc rfl
@[simp] theorem State.modUnit_link (s : State) (cls : Nat) (i : Nat) (f : FenceUnit → FenceUnit) : (State.modUnit s cls i f).link = s.link :=
  (State.modUnit_moves s cls i f (Moves.refl 4096 s) rfl).rest .link rfl
@[simp] theorem State.modUnit_rounds (s : State) (cls : Nat) (i : Nat) (f : FenceUnit → FenceUnit) : (State.modUnit s cls i f).rounds = s.rounds :=
  (State.modUnit_moves s cls i f (Moves.refl 4096 s) rfl).rest .rounds rfl
@[simp] theorem State.modUnit_dbg (s : State) (cls : Nat) (i : Nat) (f : FenceUnit → FenceUnit) : (State.modUnit s cls i f).dbg = s.dbg :=
  (State.modUnit_moves s cls i f (Moves.refl 4096 s) rfl).rest .dbg rfl
@[simp] theorem State.modUnit_power (s : State) (cls : Nat) (i : Nat) (f : FenceUnit → FenceUnit) : (State.modUnit s cls i f).power = s.power :=
  (State.modUnit_moves s cls i f (Moves.refl 4096 s) rfl).rest .power rfl
@[simp] theorem State.modUnit_mgmt (s : State) (cls : Nat) (i : Nat) (f : FenceUnit → FenceUnit) : (State.modUnit s cls i f).mgmt = s.mgmt :=
  (State.modUnit_moves s cls i f (Moves.refl 4096 s) rfl).rest .mgmt rfl
@[simp] theorem State.modUnit_pcie (s : State) (cls : Nat) (i : Nat) (f : FenceUnit → FenceUnit) : (State.modUnit s cls i f).pcie = s.pcie :=
  (State.modUnit_moves s cls i f (Moves.refl 4096 s) rfl).rest .pcie rfl
@[simp] theorem State.modUnit_net (s : State) (cls : Nat) (i : Nat) (f : FenceUnit → FenceUnit) : (State.modUnit s cls i f).net = s.net :=
  (State.modUnit_moves s cls i f (Moves.refl 4096 s) rfl).rest .net rfl
@[simp] theorem State.modUnit_asy (s : State) (cls : Nat) (i : Nat) (f : FenceUnit → FenceUnit) : (State.modUnit s cls i f).asy = s.asy :=
  (State.modUnit_moves s cls i f (Moves.refl 4096 s) rfl).rest .asy rfl
@[simp] theorem State.modUnit_out (s : State) (cls : Nat) (i : Nat) (f : FenceUnit → FenceUnit) : (State.modUnit s cls i f).out = s.out :=
  (State.modUnit_moves s cls i f (Moves.refl 4096 s) rfl).rest .out rfl

@[simp] theorem State.modCtrl_pending (s : State) (c : Nat) (f : RoundCtl → RoundCtl) : (State.modCtrl s c f).pending = s.pending :=
  (State.modCtrl_moves s c f (Moves.refl 32768 s) rfl).rest .pending rfl
@[simp] theorem State.modCtrl_held (s : State) (c : Nat) (f : RoundCtl → RoundCtl) : (State.modCtrl s c f).held = s.held :=
  (State.modCtrl_moves s c f (Moves.refl 32768 s) rfl).rest .held rfl
@[simp] theorem State.modCtrl_freeCtr (s : State) (c : Nat) (f : RoundCtl → RoundCtl) : (State.modCtrl s c f).freeCtr = s.freeCtr :=
  (State.modCtrl_moves s c f (Moves.refl 32768 s) rfl).rest .freeCtr rfl
@[simp] theorem State.modCtrl_now (s : State) (c : Nat) (f : RoundCtl → RoundCtl) : (State.modCtrl s c f).now = s.now :=
  (State.modCtrl_moves s c f (Moves.refl 32768 s) rfl).rest .now rfl
@[simp] theorem State.modCtrl_boot (s : State) (c : Nat) (f : RoundCtl → RoundCtl) : (State.modCtrl s c f).boot = s.boot :=
  (State.modCtrl_moves s c f (Moves.refl 32768 s) rfl).rest .boot rfl
@[simp] theorem State.modCtrl_beat (s : State) (c : Nat) (f : RoundCtl → RoundCtl) : (State.modCtrl s c f).beat = s.beat :=
  (State.modCtrl_moves s c f (Moves.refl 32768 s) rfl).rest .beat rfl
@[simp] theorem State.modCtrl_cl (s : State) (c : Nat) (f : RoundCtl → RoundCtl) : (State.modCtrl s c f).cl = s.cl :=
  (State.modCtrl_moves s c f (Moves.refl 32768 s) rfl).rest .cl rfl
@[simp] theorem State.modCtrl_dl (s : State) (c : Nat) (f : RoundCtl → RoundCtl) : (State.modCtrl s c f).dl = s.dl :=
  (State.modCtrl_moves s c f (Moves.refl 32768 s) rfl).rest .dl rfl
@[simp] theorem State.modCtrl_tiers (s : State) (c : Nat) (f : RoundCtl → RoundCtl) : (State.modCtrl s c f).tiers = s.tiers :=
  (State.modCtrl_moves s c f (Moves.refl 32768 s) rfl).rest .tiers rfl
@[simp] theorem State.modCtrl_sync (s : State) (c : Nat) (f : RoundCtl → RoundCtl) : (State.modCtrl s c f).sync = s.sync :=
  (State.modCtrl_moves s c f (Moves.refl 32768 s) rfl).rest .sync rfl
@[simp] theorem State.modCtrl_fns (s : State) (c : Nat) (f : RoundCtl → RoundCtl) : (State.modCtrl s c f).fns = s.fns :=
  (State.modCtrl_moves s c f (Moves.refl 32768 s) rfl).rest .fns rfl
@[simp] theorem State.modCtrl_redeal (s : State) (c : Nat) (f : RoundCtl → RoundCtl) : (State.modCtrl s c f).redeal = s.redeal :=
  (State.modCtrl_moves s c f (Moves.refl 32768 s) rfl).rest .redeal rfl
@[simp] theorem State.modCtrl_fences (s : State) (c : Nat) (f : RoundCtl → RoundCtl) : (State.modCtrl s c f).fences = s.fences :=
  (State.modCtrl_moves s c f (Moves.refl 32768 s) rfl).rest .fences rfl
@[simp] theorem State.modCtrl_ecc (s : State) (c : Nat) (f : RoundCtl → RoundCtl) : (State.modCtrl s c f).ecc = s.ecc :=
  (State.modCtrl_moves s c f (Moves.refl 32768 s) rfl).rest .ecc rfl
@[simp] theorem State.modCtrl_link (s : State) (c : Nat) (f : RoundCtl → RoundCtl) : (State.modCtrl s c f).link = s.link :=
  (State.modCtrl_moves s c f (Moves.refl 32768 s) rfl).rest .link rfl
@[simp] theorem State.modCtrl_dbg (s : State) (c : Nat) (f : RoundCtl → RoundCtl) : (State.modCtrl s c f).dbg = s.dbg :=
  (State.modCtrl_moves s c f (Moves.refl 32768 s) rfl).rest .dbg rfl
@[simp] theorem State.modCtrl_power (s : State) (c : Nat) (f : RoundCtl → RoundCtl) : (State.modCtrl s c f).power = s.power :=
  (State.modCtrl_moves s c f (Moves.refl 32768 s) rfl).rest .power rfl
@[simp] theorem State.modCtrl_mgmt (s : State) (c : Nat) (f : RoundCtl → RoundCtl) : (State.modCtrl s c f).mgmt = s.mgmt :=
  (State.modCtrl_moves s c f (Moves.refl 32768 s) rfl).rest .mgmt rfl
@[simp] theorem State.modCtrl_pcie (s : State) (c : Nat) (f : RoundCtl → RoundCtl) : (State.modCtrl s c f).pcie = s.pcie :=
  (State.modCtrl_moves s c f (Moves.refl 32768 s) rfl).rest .pcie rfl
@[simp] theorem State.modCtrl_net (s : State) (c : Nat) (f : RoundCtl → RoundCtl) : (State.modCtrl s c f).net = s.net :=
  (State.modCtrl_moves s c f (Moves.refl 32768 s) rfl).rest .net rfl
@[simp] theorem State.modCtrl_asy (s : State) (c : Nat) (f : RoundCtl → RoundCtl) : (State.modCtrl s c f).asy = s.asy :=
  (State.modCtrl_moves s c f (Moves.refl 32768 s) rfl).rest .asy rfl
@[simp] theorem State.modCtrl_out (s : State) (c : Nat) (f : RoundCtl → RoundCtl) : (State.modCtrl s c f).out = s.out :=
  (State.modCtrl_moves s c f (Moves.refl 32768 s) rfl).rest .out rfl

@[simp] theorem State.modArmed_pending (s : State) (c : Nat) (f : Armed → Armed) : (State.modArmed s c f).pending = s.pending :=
  (State.modArmed_moves s c f (Moves.refl 32768 s) rfl).rest .pending rfl
@[simp] theorem State.modArmed_held (s : State) (c : Nat) (f : Armed → Armed) : (State.modArmed s c f).held = s.held :=
  (State.modArmed_moves s c f (Moves.refl 32768 s) rfl).rest .held rfl
@[simp] theorem State.modArmed_freeCtr (s : State) (c : Nat) (f : Armed → Armed) : (State.modArmed s c f).freeCtr = s.freeCtr :=
  (State.modArmed_moves s c f (Moves.refl 32768 s) rfl).rest .freeCtr rfl
@[simp] theorem State.modArmed_now (s : State) (c : Nat) (f : Armed → Armed) : (State.modArmed s c f).now = s.now :=
  (State.modArmed_moves s c f (Moves.refl 32768 s) rfl).rest .now rfl
@[simp] theorem State.modArmed_boot (s : State) (c : Nat) (f : Armed → Armed) : (State.modArmed s c f).boot = s.boot :=
  (State.modArmed_moves s c f (Moves.refl 32768 s) rfl).rest .boot rfl
@[simp] theorem State.modArmed_beat (s : State) (c : Nat) (f : Armed → Armed) : (State.modArmed s c f).beat = s.beat :=
  (State.modArmed_moves s c f (Moves.refl 32768 s) rfl).rest .beat rfl
@[simp] theorem State.modArmed_cl (s : State) (c : Nat) (f : Armed → Armed) : (State.modArmed s c f).cl = s.cl :=
  (State.modArmed_moves s c f (Moves.refl 32768 s) rfl).rest .cl rfl
@[simp] theorem State.modArmed_dl (s : State) (c : Nat) (f : Armed → Armed) : (State.modArmed s c f).dl = s.dl :=
  (State.modArmed_moves s c f (Moves.refl 32768 s) rfl).rest .dl rfl
@[simp] theorem State.modArmed_tiers (s : State) (c : Nat) (f : Armed → Armed) : (State.modArmed s c f).tiers = s.tiers :=
  (State.modArmed_moves s c f (Moves.refl 32768 s) rfl).rest .tiers rfl
@[simp] theorem State.modArmed_sync (s : State) (c : Nat) (f : Armed → Armed) : (State.modArmed s c f).sync = s.sync :=
  (State.modArmed_moves s c f (Moves.refl 32768 s) rfl).rest .sync rfl
@[simp] theorem State.modArmed_fns (s : State) (c : Nat) (f : Armed → Armed) : (State.modArmed s c f).fns = s.fns :=
  (State.modArmed_moves s c f (Moves.refl 32768 s) rfl).rest .fns rfl
@[simp] theorem State.modArmed_redeal (s : State) (c : Nat) (f : Armed → Armed) : (State.modArmed s c f).redeal = s.redeal :=
  (State.modArmed_moves s c f (Moves.refl 32768 s) rfl).rest .redeal rfl
@[simp] theorem State.modArmed_fences (s : State) (c : Nat) (f : Armed → Armed) : (State.modArmed s c f).fences = s.fences :=
  (State.modArmed_moves s c f (Moves.refl 32768 s) rfl).rest .fences rfl
@[simp] theorem State.modArmed_ecc (s : State) (c : Nat) (f : Armed → Armed) : (State.modArmed s c f).ecc = s.ecc :=
  (State.modArmed_moves s c f (Moves.refl 32768 s) rfl).rest .ecc rfl
@[simp] theorem State.modArmed_link (s : State) (c : Nat) (f : Armed → Armed) : (State.modArmed s c f).link = s.link :=
  (State.modArmed_moves s c f (Moves.refl 32768 s) rfl).rest .link rfl
@[simp] theorem State.modArmed_dbg (s : State) (c : Nat) (f : Armed → Armed) : (State.modArmed s c f).dbg = s.dbg :=
  (State.modArmed_moves s c f (Moves.refl 32768 s) rfl).rest .dbg rfl
@[simp] theorem State.modArmed_power (s : State) (c : Nat) (f : Armed → Armed) : (State.modArmed s c f).power = s.power :=
  (State.modArmed_moves s c f (Moves.refl 32768 s) rfl).rest .power rfl
@[simp] theorem State.modArmed_mgmt (s : State) (c : Nat) (f : Armed → Armed) : (State.modArmed s c f).mgmt = s.mgmt :=
  (State.modArmed_moves s c f (Moves.refl 32768 s) rfl).rest .mgmt rfl
@[simp] theorem State.modArmed_pcie (s : State) (c : Nat) (f : Armed → Armed) : (State.modArmed s c f).pcie = s.pcie :=
  (State.modArmed_moves s c f (Moves.refl 32768 s) rfl).rest .pcie rfl
@[simp] theorem State.modArmed_net (s : State) (c : Nat) (f : Armed → Armed) : (State.modArmed s c f).net = s.net :=
  (State.modArmed_moves s c f (Moves.refl 32768 s) rfl).rest .net rfl
@[simp] theorem State.modArmed_asy (s : State) (c : Nat) (f : Armed → Armed) : (State.modArmed s c f).asy = s.asy :=
  (State.modArmed_moves s c f (Moves.refl 32768 s) rfl).rest .asy rfl
@[simp] theorem State.modArmed_out (s : State) (c : Nat) (f : Armed → Armed) : (State.modArmed s c f).out = s.out :=
  (State.modArmed_moves s c f (Moves.refl 32768 s) rfl).rest .out rfl

@[simp] theorem State.setTrick_pending (s : State) (k : Nat) (t : Option Trick) : (State.setTrick s k t).pending = s.pending :=
  (State.setTrick_moves s k t (Moves.refl 512 s) rfl).rest .pending rfl
@[simp] theorem State.setTrick_held (s : State) (k : Nat) (t : Option Trick) : (State.setTrick s k t).held = s.held :=
  (State.setTrick_moves s k t (Moves.refl 512 s) rfl).rest .held rfl
@[simp] theorem State.setTrick_freeCtr (s : State) (k : Nat) (t : Option Trick) : (State.setTrick s k t).freeCtr = s.freeCtr :=
  (State.setTrick_moves s k t (Moves.refl 512 s) rfl).rest .freeCtr rfl
@[simp] theorem State.setTrick_now (s : State) (k : Nat) (t : Option Trick) : (State.setTrick s k t).now = s.now :=
  (State.setTrick_moves s k t (Moves.refl 512 s) rfl).rest .now rfl
@[simp] theorem State.setTrick_boot (s : State) (k : Nat) (t : Option Trick) : (State.setTrick s k t).boot = s.boot :=
  (State.setTrick_moves s k t (Moves.refl 512 s) rfl).rest .boot rfl
@[simp] theorem State.setTrick_beat (s : State) (k : Nat) (t : Option Trick) : (State.setTrick s k t).beat = s.beat :=
  (State.setTrick_moves s k t (Moves.refl 512 s) rfl).rest .beat rfl
@[simp] theorem State.setTrick_cl (s : State) (k : Nat) (t : Option Trick) : (State.setTrick s k t).cl = s.cl :=
  (State.setTrick_moves s k t (Moves.refl 512 s) rfl).rest .cl rfl
@[simp] theorem State.setTrick_dl (s : State) (k : Nat) (t : Option Trick) : (State.setTrick s k t).dl = s.dl :=
  (State.setTrick_moves s k t (Moves.refl 512 s) rfl).rest .dl rfl
@[simp] theorem State.setTrick_tiers (s : State) (k : Nat) (t : Option Trick) : (State.setTrick s k t).tiers = s.tiers :=
  (State.setTrick_moves s k t (Moves.refl 512 s) rfl).rest .tiers rfl
@[simp] theorem State.setTrick_fns (s : State) (k : Nat) (t : Option Trick) : (State.setTrick s k t).fns = s.fns :=
  (State.setTrick_moves s k t (Moves.refl 512 s) rfl).rest .fns rfl
@[simp] theorem State.setTrick_redeal (s : State) (k : Nat) (t : Option Trick) : (State.setTrick s k t).redeal = s.redeal :=
  (State.setTrick_moves s k t (Moves.refl 512 s) rfl).rest .redeal rfl
@[simp] theorem State.setTrick_fences (s : State) (k : Nat) (t : Option Trick) : (State.setTrick s k t).fences = s.fences :=
  (State.setTrick_moves s k t (Moves.refl 512 s) rfl).rest .fences rfl
@[simp] theorem State.setTrick_ecc (s : State) (k : Nat) (t : Option Trick) : (State.setTrick s k t).ecc = s.ecc :=
  (State.setTrick_moves s k t (Moves.refl 512 s) rfl).rest .ecc rfl
@[simp] theorem State.setTrick_link (s : State) (k : Nat) (t : Option Trick) : (State.setTrick s k t).link = s.link :=
  (State.setTrick_moves s k t (Moves.refl 512 s) rfl).rest .link rfl
@[simp] theorem State.setTrick_rounds (s : State) (k : Nat) (t : Option Trick) : (State.setTrick s k t).rounds = s.rounds :=
  (State.setTrick_moves s k t (Moves.refl 512 s) rfl).rest .rounds rfl
@[simp] theorem State.setTrick_dbg (s : State) (k : Nat) (t : Option Trick) : (State.setTrick s k t).dbg = s.dbg :=
  (State.setTrick_moves s k t (Moves.refl 512 s) rfl).rest .dbg rfl
@[simp] theorem State.setTrick_power (s : State) (k : Nat) (t : Option Trick) : (State.setTrick s k t).power = s.power :=
  (State.setTrick_moves s k t (Moves.refl 512 s) rfl).rest .power rfl
@[simp] theorem State.setTrick_mgmt (s : State) (k : Nat) (t : Option Trick) : (State.setTrick s k t).mgmt = s.mgmt :=
  (State.setTrick_moves s k t (Moves.refl 512 s) rfl).rest .mgmt rfl
@[simp] theorem State.setTrick_pcie (s : State) (k : Nat) (t : Option Trick) : (State.setTrick s k t).pcie = s.pcie :=
  (State.setTrick_moves s k t (Moves.refl 512 s) rfl).rest .pcie rfl
@[simp] theorem State.setTrick_net (s : State) (k : Nat) (t : Option Trick) : (State.setTrick s k t).net = s.net :=
  (State.setTrick_moves s k t (Moves.refl 512 s) rfl).rest .net rfl
@[simp] theorem State.setTrick_asy (s : State) (k : Nat) (t : Option Trick) : (State.setTrick s k t).asy = s.asy :=
  (State.setTrick_moves s k t (Moves.refl 512 s) rfl).rest .asy rfl
@[simp] theorem State.setTrick_out (s : State) (k : Nat) (t : Option Trick) : (State.setTrick s k t).out = s.out :=
  (State.setTrick_moves s k t (Moves.refl 512 s) rfl).rest .out rfl

@[simp] theorem State.setPte_pending (s : State) (t : Nat) (page : Nat) (p : Pte) : (State.setPte s t page p).pending = s.pending :=
  (State.setPte_moves s t page p (Moves.refl 256 s) rfl).rest .pending rfl
@[simp] theorem State.setPte_held (s : State) (t : Nat) (page : Nat) (p : Pte) : (State.setPte s t page p).held = s.held :=
  (State.setPte_moves s t page p (Moves.refl 256 s) rfl).rest .held rfl
@[simp] theorem State.setPte_freeCtr (s : State) (t : Nat) (page : Nat) (p : Pte) : (State.setPte s t page p).freeCtr = s.freeCtr :=
  (State.setPte_moves s t page p (Moves.refl 256 s) rfl).rest .freeCtr rfl
@[simp] theorem State.setPte_now (s : State) (t : Nat) (page : Nat) (p : Pte) : (State.setPte s t page p).now = s.now :=
  (State.setPte_moves s t page p (Moves.refl 256 s) rfl).rest .now rfl
@[simp] theorem State.setPte_boot (s : State) (t : Nat) (page : Nat) (p : Pte) : (State.setPte s t page p).boot = s.boot :=
  (State.setPte_moves s t page p (Moves.refl 256 s) rfl).rest .boot rfl
@[simp] theorem State.setPte_beat (s : State) (t : Nat) (page : Nat) (p : Pte) : (State.setPte s t page p).beat = s.beat :=
  (State.setPte_moves s t page p (Moves.refl 256 s) rfl).rest .beat rfl
@[simp] theorem State.setPte_cl (s : State) (t : Nat) (page : Nat) (p : Pte) : (State.setPte s t page p).cl = s.cl :=
  (State.setPte_moves s t page p (Moves.refl 256 s) rfl).rest .cl rfl
@[simp] theorem State.setPte_dl (s : State) (t : Nat) (page : Nat) (p : Pte) : (State.setPte s t page p).dl = s.dl :=
  (State.setPte_moves s t page p (Moves.refl 256 s) rfl).rest .dl rfl
@[simp] theorem State.setPte_sync (s : State) (t : Nat) (page : Nat) (p : Pte) : (State.setPte s t page p).sync = s.sync :=
  (State.setPte_moves s t page p (Moves.refl 256 s) rfl).rest .sync rfl
@[simp] theorem State.setPte_fns (s : State) (t : Nat) (page : Nat) (p : Pte) : (State.setPte s t page p).fns = s.fns :=
  (State.setPte_moves s t page p (Moves.refl 256 s) rfl).rest .fns rfl
@[simp] theorem State.setPte_redeal (s : State) (t : Nat) (page : Nat) (p : Pte) : (State.setPte s t page p).redeal = s.redeal :=
  (State.setPte_moves s t page p (Moves.refl 256 s) rfl).rest .redeal rfl
@[simp] theorem State.setPte_fences (s : State) (t : Nat) (page : Nat) (p : Pte) : (State.setPte s t page p).fences = s.fences :=
  (State.setPte_moves s t page p (Moves.refl 256 s) rfl).rest .fences rfl
@[simp] theorem State.setPte_ecc (s : State) (t : Nat) (page : Nat) (p : Pte) : (State.setPte s t page p).ecc = s.ecc :=
  (State.setPte_moves s t page p (Moves.refl 256 s) rfl).rest .ecc rfl
@[simp] theorem State.setPte_link (s : State) (t : Nat) (page : Nat) (p : Pte) : (State.setPte s t page p).link = s.link :=
  (State.setPte_moves s t page p (Moves.refl 256 s) rfl).rest .link rfl
@[simp] theorem State.setPte_rounds (s : State) (t : Nat) (page : Nat) (p : Pte) : (State.setPte s t page p).rounds = s.rounds :=
  (State.setPte_moves s t page p (Moves.refl 256 s) rfl).rest .rounds rfl
@[simp] theorem State.setPte_dbg (s : State) (t : Nat) (page : Nat) (p : Pte) : (State.setPte s t page p).dbg = s.dbg :=
  (State.setPte_moves s t page p (Moves.refl 256 s) rfl).rest .dbg rfl
@[simp] theorem State.setPte_power (s : State) (t : Nat) (page : Nat) (p : Pte) : (State.setPte s t page p).power = s.power :=
  (State.setPte_moves s t page p (Moves.refl 256 s) rfl).rest .power rfl
@[simp] theorem State.setPte_mgmt (s : State) (t : Nat) (page : Nat) (p : Pte) : (State.setPte s t page p).mgmt = s.mgmt :=
  (State.setPte_moves s t page p (Moves.refl 256 s) rfl).rest .mgmt rfl
@[simp] theorem State.setPte_pcie (s : State) (t : Nat) (page : Nat) (p : Pte) : (State.setPte s t page p).pcie = s.pcie :=
  (State.setPte_moves s t page p (Moves.refl 256 s) rfl).rest .pcie rfl
@[simp] theorem State.setPte_net (s : State) (t : Nat) (page : Nat) (p : Pte) : (State.setPte s t page p).net = s.net :=
  (State.setPte_moves s t page p (Moves.refl 256 s) rfl).rest .net rfl
@[simp] theorem State.setPte_asy (s : State) (t : Nat) (page : Nat) (p : Pte) : (State.setPte s t page p).asy = s.asy :=
  (State.setPte_moves s t page p (Moves.refl 256 s) rfl).rest .asy rfl
@[simp] theorem State.setPte_out (s : State) (t : Nat) (page : Nat) (p : Pte) : (State.setPte s t page p).out = s.out :=
  (State.setPte_moves s t page p (Moves.refl 256 s) rfl).rest .out rfl

@[simp] theorem State.modPte_pending (s : State) (t : Nat) (page : Nat) (f : Pte → Pte) : (State.modPte s t page f).pending = s.pending :=
  (State.modPte_moves s t page f (Moves.refl 256 s) rfl).rest .pending rfl
@[simp] theorem State.modPte_held (s : State) (t : Nat) (page : Nat) (f : Pte → Pte) : (State.modPte s t page f).held = s.held :=
  (State.modPte_moves s t page f (Moves.refl 256 s) rfl).rest .held rfl
@[simp] theorem State.modPte_freeCtr (s : State) (t : Nat) (page : Nat) (f : Pte → Pte) : (State.modPte s t page f).freeCtr = s.freeCtr :=
  (State.modPte_moves s t page f (Moves.refl 256 s) rfl).rest .freeCtr rfl
@[simp] theorem State.modPte_now (s : State) (t : Nat) (page : Nat) (f : Pte → Pte) : (State.modPte s t page f).now = s.now :=
  (State.modPte_moves s t page f (Moves.refl 256 s) rfl).rest .now rfl
@[simp] theorem State.modPte_boot (s : State) (t : Nat) (page : Nat) (f : Pte → Pte) : (State.modPte s t page f).boot = s.boot :=
  (State.modPte_moves s t page f (Moves.refl 256 s) rfl).rest .boot rfl
@[simp] theorem State.modPte_beat (s : State) (t : Nat) (page : Nat) (f : Pte → Pte) : (State.modPte s t page f).beat = s.beat :=
  (State.modPte_moves s t page f (Moves.refl 256 s) rfl).rest .beat rfl
@[simp] theorem State.modPte_cl (s : State) (t : Nat) (page : Nat) (f : Pte → Pte) : (State.modPte s t page f).cl = s.cl :=
  (State.modPte_moves s t page f (Moves.refl 256 s) rfl).rest .cl rfl
@[simp] theorem State.modPte_dl (s : State) (t : Nat) (page : Nat) (f : Pte → Pte) : (State.modPte s t page f).dl = s.dl :=
  (State.modPte_moves s t page f (Moves.refl 256 s) rfl).rest .dl rfl
@[simp] theorem State.modPte_sync (s : State) (t : Nat) (page : Nat) (f : Pte → Pte) : (State.modPte s t page f).sync = s.sync :=
  (State.modPte_moves s t page f (Moves.refl 256 s) rfl).rest .sync rfl
@[simp] theorem State.modPte_fns (s : State) (t : Nat) (page : Nat) (f : Pte → Pte) : (State.modPte s t page f).fns = s.fns :=
  (State.modPte_moves s t page f (Moves.refl 256 s) rfl).rest .fns rfl
@[simp] theorem State.modPte_redeal (s : State) (t : Nat) (page : Nat) (f : Pte → Pte) : (State.modPte s t page f).redeal = s.redeal :=
  (State.modPte_moves s t page f (Moves.refl 256 s) rfl).rest .redeal rfl
@[simp] theorem State.modPte_fences (s : State) (t : Nat) (page : Nat) (f : Pte → Pte) : (State.modPte s t page f).fences = s.fences :=
  (State.modPte_moves s t page f (Moves.refl 256 s) rfl).rest .fences rfl
@[simp] theorem State.modPte_ecc (s : State) (t : Nat) (page : Nat) (f : Pte → Pte) : (State.modPte s t page f).ecc = s.ecc :=
  (State.modPte_moves s t page f (Moves.refl 256 s) rfl).rest .ecc rfl
@[simp] theorem State.modPte_link (s : State) (t : Nat) (page : Nat) (f : Pte → Pte) : (State.modPte s t page f).link = s.link :=
  (State.modPte_moves s t page f (Moves.refl 256 s) rfl).rest .link rfl
@[simp] theorem State.modPte_rounds (s : State) (t : Nat) (page : Nat) (f : Pte → Pte) : (State.modPte s t page f).rounds = s.rounds :=
  (State.modPte_moves s t page f (Moves.refl 256 s) rfl).rest .rounds rfl
@[simp] theorem State.modPte_dbg (s : State) (t : Nat) (page : Nat) (f : Pte → Pte) : (State.modPte s t page f).dbg = s.dbg :=
  (State.modPte_moves s t page f (Moves.refl 256 s) rfl).rest .dbg rfl
@[simp] theorem State.modPte_power (s : State) (t : Nat) (page : Nat) (f : Pte → Pte) : (State.modPte s t page f).power = s.power :=
  (State.modPte_moves s t page f (Moves.refl 256 s) rfl).rest .power rfl
@[simp] theorem State.modPte_mgmt (s : State) (t : Nat) (page : Nat) (f : Pte → Pte) : (State.modPte s t page f).mgmt = s.mgmt :=
  (State.modPte_moves s t page f (Moves.refl 256 s) rfl).rest .mgmt rfl
@[simp] theorem State.modPte_pcie (s : State) (t : Nat) (page : Nat) (f : Pte → Pte) : (State.modPte s t page f).pcie = s.pcie :=
  (State.modPte_moves s t page f (Moves.refl 256 s) rfl).rest .pcie rfl
@[simp] theorem State.modPte_net (s : State) (t : Nat) (page : Nat) (f : Pte → Pte) : (State.modPte s t page f).net = s.net :=
  (State.modPte_moves s t page f (Moves.refl 256 s) rfl).rest .net rfl
@[simp] theorem State.modPte_asy (s : State) (t : Nat) (page : Nat) (f : Pte → Pte) : (State.modPte s t page f).asy = s.asy :=
  (State.modPte_moves s t page f (Moves.refl 256 s) rfl).rest .asy rfl
@[simp] theorem State.modPte_out (s : State) (t : Nat) (page : Nat) (f : Pte → Pte) : (State.modPte s t page f).out = s.out :=
  (State.modPte_moves s t page f (Moves.refl 256 s) rfl).rest .out rfl

@[simp] theorem State.dropPte_pending (s : State) (t : Nat) (page : Nat) : (State.dropPte s t page).pending = s.pending :=
  (State.dropPte_moves s t page (Moves.refl 256 s) rfl).rest .pending rfl
@[simp] theorem State.dropPte_held (s : State) (t : Nat) (page : Nat) : (State.dropPte s t page).held = s.held :=
  (State.dropPte_moves s t page (Moves.refl 256 s) rfl).rest .held rfl
@[simp] theorem State.dropPte_freeCtr (s : State) (t : Nat) (page : Nat) : (State.dropPte s t page).freeCtr = s.freeCtr :=
  (State.dropPte_moves s t page (Moves.refl 256 s) rfl).rest .freeCtr rfl
@[simp] theorem State.dropPte_now (s : State) (t : Nat) (page : Nat) : (State.dropPte s t page).now = s.now :=
  (State.dropPte_moves s t page (Moves.refl 256 s) rfl).rest .now rfl
@[simp] theorem State.dropPte_boot (s : State) (t : Nat) (page : Nat) : (State.dropPte s t page).boot = s.boot :=
  (State.dropPte_moves s t page (Moves.refl 256 s) rfl).rest .boot rfl
@[simp] theorem State.dropPte_beat (s : State) (t : Nat) (page : Nat) : (State.dropPte s t page).beat = s.beat :=
  (State.dropPte_moves s t page (Moves.refl 256 s) rfl).rest .beat rfl
@[simp] theorem State.dropPte_cl (s : State) (t : Nat) (page : Nat) : (State.dropPte s t page).cl = s.cl :=
  (State.dropPte_moves s t page (Moves.refl 256 s) rfl).rest .cl rfl
@[simp] theorem State.dropPte_dl (s : State) (t : Nat) (page : Nat) : (State.dropPte s t page).dl = s.dl :=
  (State.dropPte_moves s t page (Moves.refl 256 s) rfl).rest .dl rfl
@[simp] theorem State.dropPte_sync (s : State) (t : Nat) (page : Nat) : (State.dropPte s t page).sync = s.sync :=
  (State.dropPte_moves s t page (Moves.refl 256 s) rfl).rest .sync rfl
@[simp] theorem State.dropPte_fns (s : State) (t : Nat) (page : Nat) : (State.dropPte s t page).fns = s.fns :=
  (State.dropPte_moves s t page (Moves.refl 256 s) rfl).rest .fns rfl
@[simp] theorem State.dropPte_redeal (s : State) (t : Nat) (page : Nat) : (State.dropPte s t page).redeal = s.redeal :=
  (State.dropPte_moves s t page (Moves.refl 256 s) rfl).rest .redeal rfl
@[simp] theorem State.dropPte_fences (s : State) (t : Nat) (page : Nat) : (State.dropPte s t page).fences = s.fences :=
  (State.dropPte_moves s t page (Moves.refl 256 s) rfl).rest .fences rfl
@[simp] theorem State.dropPte_ecc (s : State) (t : Nat) (page : Nat) : (State.dropPte s t page).ecc = s.ecc :=
  (State.dropPte_moves s t page (Moves.refl 256 s) rfl).rest .ecc rfl
@[simp] theorem State.dropPte_link (s : State) (t : Nat) (page : Nat) : (State.dropPte s t page).link = s.link :=
  (State.dropPte_moves s t page (Moves.refl 256 s) rfl).rest .link rfl
@[simp] theorem State.dropPte_rounds (s : State) (t : Nat) (page : Nat) : (State.dropPte s t page).rounds = s.rounds :=
  (State.dropPte_moves s t page (Moves.refl 256 s) rfl).rest .rounds rfl
@[simp] theorem State.dropPte_dbg (s : State) (t : Nat) (page : Nat) : (State.dropPte s t page).dbg = s.dbg :=
  (State.dropPte_moves s t page (Moves.refl 256 s) rfl).rest .dbg rfl
@[simp] theorem State.dropPte_power (s : State) (t : Nat) (page : Nat) : (State.dropPte s t page).power = s.power :=
  (State.dropPte_moves s t page (Moves.refl 256 s) rfl).rest .power rfl
@[simp] theorem State.dropPte_mgmt (s : State) (t : Nat) (page : Nat) : (State.dropPte s t page).mgmt = s.mgmt :=
  (State.dropPte_moves s t page (Moves.refl 256 s) rfl).rest .mgmt rfl
@[simp] theorem State.dropPte_pcie (s : State) (t : Nat) (page : Nat) : (State.dropPte s t page).pcie = s.pcie :=
  (State.dropPte_moves s t page (Moves.refl 256 s) rfl).rest .pcie rfl
@[simp] theorem State.dropPte_net (s : State) (t : Nat) (page : Nat) : (State.dropPte s t page).net = s.net :=
  (State.dropPte_moves s t page (Moves.refl 256 s) rfl).rest .net rfl
@[simp] theorem State.dropPte_asy (s : State) (t : Nat) (page : Nat) : (State.dropPte s t page).asy = s.asy :=
  (State.dropPte_moves s t page (Moves.refl 256 s) rfl).rest .asy rfl
@[simp] theorem State.dropPte_out (s : State) (t : Nat) (page : Nat) : (State.dropPte s t page).out = s.out :=
  (State.dropPte_moves s t page (Moves.refl 256 s) rfl).rest .out rfl

@[simp] theorem State.setFrame_pending (s : State) (f : Nat) (o : Option Owned) : (State.setFrame s f o).pending = s.pending :=
  (State.setFrame_moves s f o (Moves.refl 256 s) rfl).rest .pending rfl
@[simp] theorem State.setFrame_held (s : State) (f : Nat) (o : Option Owned) : (State.setFrame s f o).held = s.held :=
  (State.setFrame_moves s f o (Moves.refl 256 s) rfl).rest .held rfl
@[simp] theorem State.setFrame_freeCtr (s : State) (f : Nat) (o : Option Owned) : (State.setFrame s f o).freeCtr = s.freeCtr :=
  (State.setFrame_moves s f o (Moves.refl 256 s) rfl).rest .freeCtr rfl
@[simp] theorem State.setFrame_now (s : State) (f : Nat) (o : Option Owned) : (State.setFrame s f o).now = s.now :=
  (State.setFrame_moves s f o (Moves.refl 256 s) rfl).rest .now rfl
@[simp] theorem State.setFrame_boot (s : State) (f : Nat) (o : Option Owned) : (State.setFrame s f o).boot = s.boot :=
  (State.setFrame_moves s f o (Moves.refl 256 s) rfl).rest .boot rfl
@[simp] theorem State.setFrame_beat (s : State) (f : Nat) (o : Option Owned) : (State.setFrame s f o).beat = s.beat :=
  (State.setFrame_moves s f o (Moves.refl 256 s) rfl).rest .beat rfl
@[simp] theorem State.setFrame_cl (s : State) (f : Nat) (o : Option Owned) : (State.setFrame s f o).cl = s.cl :=
  (State.setFrame_moves s f o (Moves.refl 256 s) rfl).rest .cl rfl
@[simp] theorem State.setFrame_dl (s : State) (f : Nat) (o : Option Owned) : (State.setFrame s f o).dl = s.dl :=
  (State.setFrame_moves s f o (Moves.refl 256 s) rfl).rest .dl rfl
@[simp] theorem State.setFrame_sync (s : State) (f : Nat) (o : Option Owned) : (State.setFrame s f o).sync = s.sync :=
  (State.setFrame_moves s f o (Moves.refl 256 s) rfl).rest .sync rfl
@[simp] theorem State.setFrame_fns (s : State) (f : Nat) (o : Option Owned) : (State.setFrame s f o).fns = s.fns :=
  (State.setFrame_moves s f o (Moves.refl 256 s) rfl).rest .fns rfl
@[simp] theorem State.setFrame_redeal (s : State) (f : Nat) (o : Option Owned) : (State.setFrame s f o).redeal = s.redeal :=
  (State.setFrame_moves s f o (Moves.refl 256 s) rfl).rest .redeal rfl
@[simp] theorem State.setFrame_fences (s : State) (f : Nat) (o : Option Owned) : (State.setFrame s f o).fences = s.fences :=
  (State.setFrame_moves s f o (Moves.refl 256 s) rfl).rest .fences rfl
@[simp] theorem State.setFrame_ecc (s : State) (f : Nat) (o : Option Owned) : (State.setFrame s f o).ecc = s.ecc :=
  (State.setFrame_moves s f o (Moves.refl 256 s) rfl).rest .ecc rfl
@[simp] theorem State.setFrame_link (s : State) (f : Nat) (o : Option Owned) : (State.setFrame s f o).link = s.link :=
  (State.setFrame_moves s f o (Moves.refl 256 s) rfl).rest .link rfl
@[simp] theorem State.setFrame_rounds (s : State) (f : Nat) (o : Option Owned) : (State.setFrame s f o).rounds = s.rounds :=
  (State.setFrame_moves s f o (Moves.refl 256 s) rfl).rest .rounds rfl
@[simp] theorem State.setFrame_dbg (s : State) (f : Nat) (o : Option Owned) : (State.setFrame s f o).dbg = s.dbg :=
  (State.setFrame_moves s f o (Moves.refl 256 s) rfl).rest .dbg rfl
@[simp] theorem State.setFrame_power (s : State) (f : Nat) (o : Option Owned) : (State.setFrame s f o).power = s.power :=
  (State.setFrame_moves s f o (Moves.refl 256 s) rfl).rest .power rfl
@[simp] theorem State.setFrame_mgmt (s : State) (f : Nat) (o : Option Owned) : (State.setFrame s f o).mgmt = s.mgmt :=
  (State.setFrame_moves s f o (Moves.refl 256 s) rfl).rest .mgmt rfl
@[simp] theorem State.setFrame_pcie (s : State) (f : Nat) (o : Option Owned) : (State.setFrame s f o).pcie = s.pcie :=
  (State.setFrame_moves s f o (Moves.refl 256 s) rfl).rest .pcie rfl
@[simp] theorem State.setFrame_net (s : State) (f : Nat) (o : Option Owned) : (State.setFrame s f o).net = s.net :=
  (State.setFrame_moves s f o (Moves.refl 256 s) rfl).rest .net rfl
@[simp] theorem State.setFrame_asy (s : State) (f : Nat) (o : Option Owned) : (State.setFrame s f o).asy = s.asy :=
  (State.setFrame_moves s f o (Moves.refl 256 s) rfl).rest .asy rfl
@[simp] theorem State.setFrame_out (s : State) (f : Nat) (o : Option Owned) : (State.setFrame s f o).out = s.out :=
  (State.setFrame_moves s f o (Moves.refl 256 s) rfl).rest .out rfl

@[simp] theorem State.setHandle_pending (s : State) (h : Nat) (o : Option Owned) : (State.setHandle s h o).pending = s.pending :=
  (State.setHandle_moves s h o (Moves.refl 256 s) rfl).rest .pending rfl
@[simp] theorem State.setHandle_held (s : State) (h : Nat) (o : Option Owned) : (State.setHandle s h o).held = s.held :=
  (State.setHandle_moves s h o (Moves.refl 256 s) rfl).rest .held rfl
@[simp] theorem State.setHandle_freeCtr (s : State) (h : Nat) (o : Option Owned) : (State.setHandle s h o).freeCtr = s.freeCtr :=
  (State.setHandle_moves s h o (Moves.refl 256 s) rfl).rest .freeCtr rfl
@[simp] theorem State.setHandle_now (s : State) (h : Nat) (o : Option Owned) : (State.setHandle s h o).now = s.now :=
  (State.setHandle_moves s h o (Moves.refl 256 s) rfl).rest .now rfl
@[simp] theorem State.setHandle_boot (s : State) (h : Nat) (o : Option Owned) : (State.setHandle s h o).boot = s.boot :=
  (State.setHandle_moves s h o (Moves.refl 256 s) rfl).rest .boot rfl
@[simp] theorem State.setHandle_beat (s : State) (h : Nat) (o : Option Owned) : (State.setHandle s h o).beat = s.beat :=
  (State.setHandle_moves s h o (Moves.refl 256 s) rfl).rest .beat rfl
@[simp] theorem State.setHandle_cl (s : State) (h : Nat) (o : Option Owned) : (State.setHandle s h o).cl = s.cl :=
  (State.setHandle_moves s h o (Moves.refl 256 s) rfl).rest .cl rfl
@[simp] theorem State.setHandle_dl (s : State) (h : Nat) (o : Option Owned) : (State.setHandle s h o).dl = s.dl :=
  (State.setHandle_moves s h o (Moves.refl 256 s) rfl).rest .dl rfl
@[simp] theorem State.setHandle_sync (s : State) (h : Nat) (o : Option Owned) : (State.setHandle s h o).sync = s.sync :=
  (State.setHandle_moves s h o (Moves.refl 256 s) rfl).rest .sync rfl
@[simp] theorem State.setHandle_fns (s : State) (h : Nat) (o : Option Owned) : (State.setHandle s h o).fns = s.fns :=
  (State.setHandle_moves s h o (Moves.refl 256 s) rfl).rest .fns rfl
@[simp] theorem State.setHandle_redeal (s : State) (h : Nat) (o : Option Owned) : (State.setHandle s h o).redeal = s.redeal :=
  (State.setHandle_moves s h o (Moves.refl 256 s) rfl).rest .redeal rfl
@[simp] theorem State.setHandle_fences (s : State) (h : Nat) (o : Option Owned) : (State.setHandle s h o).fences = s.fences :=
  (State.setHandle_moves s h o (Moves.refl 256 s) rfl).rest .fences rfl
@[simp] theorem State.setHandle_ecc (s : State) (h : Nat) (o : Option Owned) : (State.setHandle s h o).ecc = s.ecc :=
  (State.setHandle_moves s h o (Moves.refl 256 s) rfl).rest .ecc rfl
@[simp] theorem State.setHandle_link (s : State) (h : Nat) (o : Option Owned) : (State.setHandle s h o).link = s.link :=
  (State.setHandle_moves s h o (Moves.refl 256 s) rfl).rest .link rfl
@[simp] theorem State.setHandle_rounds (s : State) (h : Nat) (o : Option Owned) : (State.setHandle s h o).rounds = s.rounds :=
  (State.setHandle_moves s h o (Moves.refl 256 s) rfl).rest .rounds rfl
@[simp] theorem State.setHandle_dbg (s : State) (h : Nat) (o : Option Owned) : (State.setHandle s h o).dbg = s.dbg :=
  (State.setHandle_moves s h o (Moves.refl 256 s) rfl).rest .dbg rfl
@[simp] theorem State.setHandle_power (s : State) (h : Nat) (o : Option Owned) : (State.setHandle s h o).power = s.power :=
  (State.setHandle_moves s h o (Moves.refl 256 s) rfl).rest .power rfl
@[simp] theorem State.setHandle_mgmt (s : State) (h : Nat) (o : Option Owned) : (State.setHandle s h o).mgmt = s.mgmt :=
  (State.setHandle_moves s h o (Moves.refl 256 s) rfl).rest .mgmt rfl
@[simp] theorem State.setHandle_pcie (s : State) (h : Nat) (o : Option Owned) : (State.setHandle s h o).pcie = s.pcie :=
  (State.setHandle_moves s h o (Moves.refl 256 s) rfl).rest .pcie rfl
@[simp] theorem State.setHandle_net (s : State) (h : Nat) (o : Option Owned) : (State.setHandle s h o).net = s.net :=
  (State.setHandle_moves s h o (Moves.refl 256 s) rfl).rest .net rfl
@[simp] theorem State.setHandle_asy (s : State) (h : Nat) (o : Option Owned) : (State.setHandle s h o).asy = s.asy :=
  (State.setHandle_moves s h o (Moves.refl 256 s) rfl).rest .asy rfl
@[simp] theorem State.setHandle_out (s : State) (h : Nat) (o : Option Owned) : (State.setHandle s h o).out = s.out :=
  (State.setHandle_moves s h o (Moves.refl 256 s) rfl).rest .out rfl

@[simp] theorem endHostWait_pending (s : State) (c : Nat) (w : Nat) (failed : Bool) : (endHostWait s c w failed).pending = s.pending :=
  (endHostWait_moves s c w failed (Moves.refl 1544 s) rfl).rest .pending rfl
@[simp] theorem endHostWait_held (s : State) (c : Nat) (w : Nat) (failed : Bool) : (endHostWait s c w failed).held = s.held :=
  (endHostWait_moves s c w failed (Moves.refl 1544 s) rfl).rest .held rfl
@[simp] theorem endHostWait_freeCtr (s : State) (c : Nat) (w : Nat) (failed : Bool) : (endHostWait s c w failed).freeCtr = s.freeCtr :=
  (endHostWait_moves s c w failed (Moves.refl 1544 s) rfl).rest .freeCtr rfl
@[simp] theorem endHostWait_now (s : State) (c : Nat) (w : Nat) (failed : Bool) : (endHostWait s c w failed).now = s.now :=
  (endHostWait_moves s c w failed (Moves.refl 1544 s) rfl).rest .now rfl
@[simp] theorem endHostWait_boot (s : State) (c : Nat) (w : Nat) (failed : Bool) : (endHostWait s c w failed).boot = s.boot :=
  (endHostWait_moves s c w failed (Moves.refl 1544 s) rfl).rest .boot rfl
@[simp] theorem endHostWait_beat (s : State) (c : Nat) (w : Nat) (failed : Bool) : (endHostWait s c w failed).beat = s.beat :=
  (endHostWait_moves s c w failed (Moves.refl 1544 s) rfl).rest .beat rfl
@[simp] theorem endHostWait_cl (s : State) (c : Nat) (w : Nat) (failed : Bool) : (endHostWait s c w failed).cl = s.cl :=
  (endHostWait_moves s c w failed (Moves.refl 1544 s) rfl).rest .cl rfl
@[simp] theorem endHostWait_dl (s : State) (c : Nat) (w : Nat) (failed : Bool) : (endHostWait s c w failed).dl = s.dl :=
  (endHostWait_moves s c w failed (Moves.refl 1544 s) rfl).rest .dl rfl
@[simp] theorem endHostWait_tiers (s : State) (c : Nat) (w : Nat) (failed : Bool) : (endHostWait s c w failed).tiers = s.tiers :=
  (endHostWait_moves s c w failed (Moves.refl 1544 s) rfl).rest .tiers rfl
@[simp] theorem endHostWait_redeal (s : State) (c : Nat) (w : Nat) (failed : Bool) : (endHostWait s c w failed).redeal = s.redeal :=
  (endHostWait_moves s c w failed (Moves.refl 1544 s) rfl).rest .redeal rfl
@[simp] theorem endHostWait_fences (s : State) (c : Nat) (w : Nat) (failed : Bool) : (endHostWait s c w failed).fences = s.fences :=
  (endHostWait_moves s c w failed (Moves.refl 1544 s) rfl).rest .fences rfl
@[simp] theorem endHostWait_ecc (s : State) (c : Nat) (w : Nat) (failed : Bool) : (endHostWait s c w failed).ecc = s.ecc :=
  (endHostWait_moves s c w failed (Moves.refl 1544 s) rfl).rest .ecc rfl
@[simp] theorem endHostWait_link (s : State) (c : Nat) (w : Nat) (failed : Bool) : (endHostWait s c w failed).link = s.link :=
  (endHostWait_moves s c w failed (Moves.refl 1544 s) rfl).rest .link rfl
@[simp] theorem endHostWait_rounds (s : State) (c : Nat) (w : Nat) (failed : Bool) : (endHostWait s c w failed).rounds = s.rounds :=
  (endHostWait_moves s c w failed (Moves.refl 1544 s) rfl).rest .rounds rfl
@[simp] theorem endHostWait_dbg (s : State) (c : Nat) (w : Nat) (failed : Bool) : (endHostWait s c w failed).dbg = s.dbg :=
  (endHostWait_moves s c w failed (Moves.refl 1544 s) rfl).rest .dbg rfl
@[simp] theorem endHostWait_power (s : State) (c : Nat) (w : Nat) (failed : Bool) : (endHostWait s c w failed).power = s.power :=
  (endHostWait_moves s c w failed (Moves.refl 1544 s) rfl).rest .power rfl
@[simp] theorem endHostWait_mgmt (s : State) (c : Nat) (w : Nat) (failed : Bool) : (endHostWait s c w failed).mgmt = s.mgmt :=
  (endHostWait_moves s c w failed (Moves.refl 1544 s) rfl).rest .mgmt rfl
@[simp] theorem endHostWait_pcie (s : State) (c : Nat) (w : Nat) (failed : Bool) : (endHostWait s c w failed).pcie = s.pcie :=
  (endHostWait_moves s c w failed (Moves.refl 1544 s) rfl).rest .pcie rfl
@[simp] theorem endHostWait_net (s : State) (c : Nat) (w : Nat) (failed : Bool) : (endHostWait s c w failed).net = s.net :=
  (endHostWait_moves s c w failed (Moves.refl 1544 s) rfl).rest .net rfl
@[simp] theorem endHostWait_asy (s : State) (c : Nat) (w : Nat) (failed : Bool) : (endHostWait s c w failed).asy = s.asy :=
  (endHostWait_moves s c w failed (Moves.refl 1544 s) rfl).rest .asy rfl

@[simp] theorem testTally_pending (s : State) (n : Nat) : (testTally s n).pending = s.pending :=
  (testTally_moves s n (Moves.refl 34440 s) rfl).rest .pending rfl
@[simp] theorem testTally_held (s : State) (n : Nat) : (testTally s n).held = s.held :=
  (testTally_moves s n (Moves.refl 34440 s) rfl).rest .held rfl
@[simp] theorem testTally_freeCtr (s : State) (n : Nat) : (testTally s n).freeCtr = s.freeCtr :=
  (testTally_moves s n (Moves.refl 34440 s) rfl).rest .freeCtr rfl
@[simp] theorem testTally_now (s : State) (n : Nat) : (testTally s n).now = s.now :=
  (testTally_moves s n (Moves.refl 34440 s) rfl).rest .now rfl
@[simp] theorem testTally_boot (s : State) (n : Nat) : (testTally s n).boot = s.boot :=
  (testTally_moves s n (Moves.refl 34440 s) rfl).rest .boot rfl
@[simp] theorem testTally_beat (s : State) (n : Nat) : (testTally s n).beat = s.beat :=
  (testTally_moves s n (Moves.refl 34440 s) rfl).rest .beat rfl
@[simp] theorem testTally_cl (s : State) (n : Nat) : (testTally s n).cl = s.cl :=
  (testTally_moves s n (Moves.refl 34440 s) rfl).rest .cl rfl
@[simp] theorem testTally_tiers (s : State) (n : Nat) : (testTally s n).tiers = s.tiers :=
  (testTally_moves s n (Moves.refl 34440 s) rfl).rest .tiers rfl
@[simp] theorem testTally_redeal (s : State) (n : Nat) : (testTally s n).redeal = s.redeal :=
  (testTally_moves s n (Moves.refl 34440 s) rfl).rest .redeal rfl
@[simp] theorem testTally_fences (s : State) (n : Nat) : (testTally s n).fences = s.fences :=
  (testTally_moves s n (Moves.refl 34440 s) rfl).rest .fences rfl
@[simp] theorem testTally_ecc (s : State) (n : Nat) : (testTally s n).ecc = s.ecc :=
  (testTally_moves s n (Moves.refl 34440 s) rfl).rest .ecc rfl
@[simp] theorem testTally_link (s : State) (n : Nat) : (testTally s n).link = s.link :=
  (testTally_moves s n (Moves.refl 34440 s) rfl).rest .link rfl
@[simp] theorem testTally_dbg (s : State) (n : Nat) : (testTally s n).dbg = s.dbg :=
  (testTally_moves s n (Moves.refl 34440 s) rfl).rest .dbg rfl
@[simp] theorem testTally_power (s : State) (n : Nat) : (testTally s n).power = s.power :=
  (testTally_moves s n (Moves.refl 34440 s) rfl).rest .power rfl
@[simp] theorem testTally_mgmt (s : State) (n : Nat) : (testTally s n).mgmt = s.mgmt :=
  (testTally_moves s n (Moves.refl 34440 s) rfl).rest .mgmt rfl
@[simp] theorem testTally_pcie (s : State) (n : Nat) : (testTally s n).pcie = s.pcie :=
  (testTally_moves s n (Moves.refl 34440 s) rfl).rest .pcie rfl
@[simp] theorem testTally_net (s : State) (n : Nat) : (testTally s n).net = s.net :=
  (testTally_moves s n (Moves.refl 34440 s) rfl).rest .net rfl
@[simp] theorem testTally_asy (s : State) (n : Nat) : (testTally s n).asy = s.asy :=
  (testTally_moves s n (Moves.refl 34440 s) rfl).rest .asy rfl

@[simp] theorem failWaiters_pending (s : State) (n : Nat) : (failWaiters s n).pending = s.pending :=
  (failWaiters_moves s n (Moves.refl 34440 s) rfl).rest .pending rfl
@[simp] theorem failWaiters_held (s : State) (n : Nat) : (failWaiters s n).held = s.held :=
  (failWaiters_moves s n (Moves.refl 34440 s) rfl).rest .held rfl
@[simp] theorem failWaiters_freeCtr (s : State) (n : Nat) : (failWaiters s n).freeCtr = s.freeCtr :=
  (failWaiters_moves s n (Moves.refl 34440 s) rfl).rest .freeCtr rfl
@[simp] theorem failWaiters_now (s : State) (n : Nat) : (failWaiters s n).now = s.now :=
  (failWaiters_moves s n (Moves.refl 34440 s) rfl).rest .now rfl
@[simp] theorem failWaiters_boot (s : State) (n : Nat) : (failWaiters s n).boot = s.boot :=
  (failWaiters_moves s n (Moves.refl 34440 s) rfl).rest .boot rfl
@[simp] theorem failWaiters_beat (s : State) (n : Nat) : (failWaiters s n).beat = s.beat :=
  (failWaiters_moves s n (Moves.refl 34440 s) rfl).rest .beat rfl
@[simp] theorem failWaiters_cl (s : State) (n : Nat) : (failWaiters s n).cl = s.cl :=
  (failWaiters_moves s n (Moves.refl 34440 s) rfl).rest .cl rfl
@[simp] theorem failWaiters_tiers (s : State) (n : Nat) : (failWaiters s n).tiers = s.tiers :=
  (failWaiters_moves s n (Moves.refl 34440 s) rfl).rest .tiers rfl
@[simp] theorem failWaiters_redeal (s : State) (n : Nat) : (failWaiters s n).redeal = s.redeal :=
  (failWaiters_moves s n (Moves.refl 34440 s) rfl).rest .redeal rfl
@[simp] theorem failWaiters_fences (s : State) (n : Nat) : (failWaiters s n).fences = s.fences :=
  (failWaiters_moves s n (Moves.refl 34440 s) rfl).rest .fences rfl
@[simp] theorem failWaiters_ecc (s : State) (n : Nat) : (failWaiters s n).ecc = s.ecc :=
  (failWaiters_moves s n (Moves.refl 34440 s) rfl).rest .ecc rfl
@[simp] theorem failWaiters_link (s : State) (n : Nat) : (failWaiters s n).link = s.link :=
  (failWaiters_moves s n (Moves.refl 34440 s) rfl).rest .link rfl
@[simp] theorem failWaiters_dbg (s : State) (n : Nat) : (failWaiters s n).dbg = s.dbg :=
  (failWaiters_moves s n (Moves.refl 34440 s) rfl).rest .dbg rfl
@[simp] theorem failWaiters_power (s : State) (n : Nat) : (failWaiters s n).power = s.power :=
  (failWaiters_moves s n (Moves.refl 34440 s) rfl).rest .power rfl
@[simp] theorem failWaiters_mgmt (s : State) (n : Nat) : (failWaiters s n).mgmt = s.mgmt :=
  (failWaiters_moves s n (Moves.refl 34440 s) rfl).rest .mgmt rfl
@[simp] theorem failWaiters_pcie (s : State) (n : Nat) : (failWaiters s n).pcie = s.pcie :=
  (failWaiters_moves s n (Moves.refl 34440 s) rfl).rest .pcie rfl
@[simp] theorem failWaiters_net (s : State) (n : Nat) : (failWaiters s n).net = s.net :=
  (failWaiters_moves s n (Moves.refl 34440 s) rfl).rest .net rfl
@[simp] theorem failWaiters_asy (s : State) (n : Nat) : (failWaiters s n).asy = s.asy :=
  (failWaiters_moves s n (Moves.refl 34440 s) rfl).rest .asy rfl

@[simp] theorem applyTally_pending (s : State) (n : Nat) (v : Word32) : (applyTally s n v).pending = s.pending :=
  (applyTally_moves s n v (Moves.refl 50824 s) rfl).rest .pending rfl
@[simp] theorem applyTally_held (s : State) (n : Nat) (v : Word32) : (applyTally s n v).held = s.held :=
  (applyTally_moves s n v (Moves.refl 50824 s) rfl).rest .held rfl
@[simp] theorem applyTally_freeCtr (s : State) (n : Nat) (v : Word32) : (applyTally s n v).freeCtr = s.freeCtr :=
  (applyTally_moves s n v (Moves.refl 50824 s) rfl).rest .freeCtr rfl
@[simp] theorem applyTally_now (s : State) (n : Nat) (v : Word32) : (applyTally s n v).now = s.now :=
  (applyTally_moves s n v (Moves.refl 50824 s) rfl).rest .now rfl
@[simp] theorem applyTally_boot (s : State) (n : Nat) (v : Word32) : (applyTally s n v).boot = s.boot :=
  (applyTally_moves s n v (Moves.refl 50824 s) rfl).rest .boot rfl
@[simp] theorem applyTally_beat (s : State) (n : Nat) (v : Word32) : (applyTally s n v).beat = s.beat :=
  (applyTally_moves s n v (Moves.refl 50824 s) rfl).rest .beat rfl
@[simp] theorem applyTally_cl (s : State) (n : Nat) (v : Word32) : (applyTally s n v).cl = s.cl :=
  (applyTally_moves s n v (Moves.refl 50824 s) rfl).rest .cl rfl
@[simp] theorem applyTally_tiers (s : State) (n : Nat) (v : Word32) : (applyTally s n v).tiers = s.tiers :=
  (applyTally_moves s n v (Moves.refl 50824 s) rfl).rest .tiers rfl
@[simp] theorem applyTally_redeal (s : State) (n : Nat) (v : Word32) : (applyTally s n v).redeal = s.redeal :=
  (applyTally_moves s n v (Moves.refl 50824 s) rfl).rest .redeal rfl
@[simp] theorem applyTally_fences (s : State) (n : Nat) (v : Word32) : (applyTally s n v).fences = s.fences :=
  (applyTally_moves s n v (Moves.refl 50824 s) rfl).rest .fences rfl
@[simp] theorem applyTally_ecc (s : State) (n : Nat) (v : Word32) : (applyTally s n v).ecc = s.ecc :=
  (applyTally_moves s n v (Moves.refl 50824 s) rfl).rest .ecc rfl
@[simp] theorem applyTally_dbg (s : State) (n : Nat) (v : Word32) : (applyTally s n v).dbg = s.dbg :=
  (applyTally_moves s n v (Moves.refl 50824 s) rfl).rest .dbg rfl
@[simp] theorem applyTally_power (s : State) (n : Nat) (v : Word32) : (applyTally s n v).power = s.power :=
  (applyTally_moves s n v (Moves.refl 50824 s) rfl).rest .power rfl
@[simp] theorem applyTally_mgmt (s : State) (n : Nat) (v : Word32) : (applyTally s n v).mgmt = s.mgmt :=
  (applyTally_moves s n v (Moves.refl 50824 s) rfl).rest .mgmt rfl
@[simp] theorem applyTally_pcie (s : State) (n : Nat) (v : Word32) : (applyTally s n v).pcie = s.pcie :=
  (applyTally_moves s n v (Moves.refl 50824 s) rfl).rest .pcie rfl
@[simp] theorem applyTally_net (s : State) (n : Nat) (v : Word32) : (applyTally s n v).net = s.net :=
  (applyTally_moves s n v (Moves.refl 50824 s) rfl).rest .net rfl
@[simp] theorem applyTally_asy (s : State) (n : Nat) (v : Word32) : (applyTally s n v).asy = s.asy :=
  (applyTally_moves s n v (Moves.refl 50824 s) rfl).rest .asy rfl

@[simp] theorem agentAdd_pending (s : State) (n : Nat) (v : Nat) : (agentAdd s n v).pending = s.pending :=
  (agentAdd_moves s n v (Moves.refl 50824 s) rfl).rest .pending rfl
@[simp] theorem agentAdd_held (s : State) (n : Nat) (v : Nat) : (agentAdd s n v).held = s.held :=
  (agentAdd_moves s n v (Moves.refl 50824 s) rfl).rest .held rfl
@[simp] theorem agentAdd_freeCtr (s : State) (n : Nat) (v : Nat) : (agentAdd s n v).freeCtr = s.freeCtr :=
  (agentAdd_moves s n v (Moves.refl 50824 s) rfl).rest .freeCtr rfl
@[simp] theorem agentAdd_now (s : State) (n : Nat) (v : Nat) : (agentAdd s n v).now = s.now :=
  (agentAdd_moves s n v (Moves.refl 50824 s) rfl).rest .now rfl
@[simp] theorem agentAdd_boot (s : State) (n : Nat) (v : Nat) : (agentAdd s n v).boot = s.boot :=
  (agentAdd_moves s n v (Moves.refl 50824 s) rfl).rest .boot rfl
@[simp] theorem agentAdd_beat (s : State) (n : Nat) (v : Nat) : (agentAdd s n v).beat = s.beat :=
  (agentAdd_moves s n v (Moves.refl 50824 s) rfl).rest .beat rfl
@[simp] theorem agentAdd_cl (s : State) (n : Nat) (v : Nat) : (agentAdd s n v).cl = s.cl :=
  (agentAdd_moves s n v (Moves.refl 50824 s) rfl).rest .cl rfl
@[simp] theorem agentAdd_tiers (s : State) (n : Nat) (v : Nat) : (agentAdd s n v).tiers = s.tiers :=
  (agentAdd_moves s n v (Moves.refl 50824 s) rfl).rest .tiers rfl
@[simp] theorem agentAdd_redeal (s : State) (n : Nat) (v : Nat) : (agentAdd s n v).redeal = s.redeal :=
  (agentAdd_moves s n v (Moves.refl 50824 s) rfl).rest .redeal rfl
@[simp] theorem agentAdd_fences (s : State) (n : Nat) (v : Nat) : (agentAdd s n v).fences = s.fences :=
  (agentAdd_moves s n v (Moves.refl 50824 s) rfl).rest .fences rfl
@[simp] theorem agentAdd_ecc (s : State) (n : Nat) (v : Nat) : (agentAdd s n v).ecc = s.ecc :=
  (agentAdd_moves s n v (Moves.refl 50824 s) rfl).rest .ecc rfl
@[simp] theorem agentAdd_dbg (s : State) (n : Nat) (v : Nat) : (agentAdd s n v).dbg = s.dbg :=
  (agentAdd_moves s n v (Moves.refl 50824 s) rfl).rest .dbg rfl
@[simp] theorem agentAdd_power (s : State) (n : Nat) (v : Nat) : (agentAdd s n v).power = s.power :=
  (agentAdd_moves s n v (Moves.refl 50824 s) rfl).rest .power rfl
@[simp] theorem agentAdd_mgmt (s : State) (n : Nat) (v : Nat) : (agentAdd s n v).mgmt = s.mgmt :=
  (agentAdd_moves s n v (Moves.refl 50824 s) rfl).rest .mgmt rfl
@[simp] theorem agentAdd_pcie (s : State) (n : Nat) (v : Nat) : (agentAdd s n v).pcie = s.pcie :=
  (agentAdd_moves s n v (Moves.refl 50824 s) rfl).rest .pcie rfl
@[simp] theorem agentAdd_net (s : State) (n : Nat) (v : Nat) : (agentAdd s n v).net = s.net :=
  (agentAdd_moves s n v (Moves.refl 50824 s) rfl).rest .net rfl
@[simp] theorem agentAdd_asy (s : State) (n : Nat) (v : Nat) : (agentAdd s n v).asy = s.asy :=
  (agentAdd_moves s n v (Moves.refl 50824 s) rfl).rest .asy rfl

@[simp] theorem agentSet_pending (s : State) (n : Nat) (v : Nat) : (agentSet s n v).pending = s.pending :=
  (agentSet_moves s n v (Moves.refl 50824 s) rfl).rest .pending rfl
@[simp] theorem agentSet_held (s : State) (n : Nat) (v : Nat) : (agentSet s n v).held = s.held :=
  (agentSet_moves s n v (Moves.refl 50824 s) rfl).rest .held rfl
@[simp] theorem agentSet_freeCtr (s : State) (n : Nat) (v : Nat) : (agentSet s n v).freeCtr = s.freeCtr :=
  (agentSet_moves s n v (Moves.refl 50824 s) rfl).rest .freeCtr rfl
@[simp] theorem agentSet_now (s : State) (n : Nat) (v : Nat) : (agentSet s n v).now = s.now :=
  (agentSet_moves s n v (Moves.refl 50824 s) rfl).rest .now rfl
@[simp] theorem agentSet_boot (s : State) (n : Nat) (v : Nat) : (agentSet s n v).boot = s.boot :=
  (agentSet_moves s n v (Moves.refl 50824 s) rfl).rest .boot rfl
@[simp] theorem agentSet_beat (s : State) (n : Nat) (v : Nat) : (agentSet s n v).beat = s.beat :=
  (agentSet_moves s n v (Moves.refl 50824 s) rfl).rest .beat rfl
@[simp] theorem agentSet_cl (s : State) (n : Nat) (v : Nat) : (agentSet s n v).cl = s.cl :=
  (agentSet_moves s n v (Moves.refl 50824 s) rfl).rest .cl rfl
@[simp] theorem agentSet_tiers (s : State) (n : Nat) (v : Nat) : (agentSet s n v).tiers = s.tiers :=
  (agentSet_moves s n v (Moves.refl 50824 s) rfl).rest .tiers rfl
@[simp] theorem agentSet_redeal (s : State) (n : Nat) (v : Nat) : (agentSet s n v).redeal = s.redeal :=
  (agentSet_moves s n v (Moves.refl 50824 s) rfl).rest .redeal rfl
@[simp] theorem agentSet_fences (s : State) (n : Nat) (v : Nat) : (agentSet s n v).fences = s.fences :=
  (agentSet_moves s n v (Moves.refl 50824 s) rfl).rest .fences rfl
@[simp] theorem agentSet_ecc (s : State) (n : Nat) (v : Nat) : (agentSet s n v).ecc = s.ecc :=
  (agentSet_moves s n v (Moves.refl 50824 s) rfl).rest .ecc rfl
@[simp] theorem agentSet_dbg (s : State) (n : Nat) (v : Nat) : (agentSet s n v).dbg = s.dbg :=
  (agentSet_moves s n v (Moves.refl 50824 s) rfl).rest .dbg rfl
@[simp] theorem agentSet_power (s : State) (n : Nat) (v : Nat) : (agentSet s n v).power = s.power :=
  (agentSet_moves s n v (Moves.refl 50824 s) rfl).rest .power rfl
@[simp] theorem agentSet_mgmt (s : State) (n : Nat) (v : Nat) : (agentSet s n v).mgmt = s.mgmt :=
  (agentSet_moves s n v (Moves.refl 50824 s) rfl).rest .mgmt rfl
@[simp] theorem agentSet_pcie (s : State) (n : Nat) (v : Nat) : (agentSet s n v).pcie = s.pcie :=
  (agentSet_moves s n v (Moves.refl 50824 s) rfl).rest .pcie rfl
@[simp] theorem agentSet_net (s : State) (n : Nat) (v : Nat) : (agentSet s n v).net = s.net :=
  (agentSet_moves s n v (Moves.refl 50824 s) rfl).rest .net rfl
@[simp] theorem agentSet_asy (s : State) (n : Nat) (v : Nat) : (agentSet s n v).asy = s.asy :=
  (agentSet_moves s n v (Moves.refl 50824 s) rfl).rest .asy rfl

@[simp] theorem armTally_pending (s : State) (n : Nat) (v : Nat) : (armTally s n v).pending = s.pending :=
  (armTally_moves s n v (Moves.refl 50824 s) rfl).rest .pending rfl
@[simp] theorem armTally_held (s : State) (n : Nat) (v : Nat) : (armTally s n v).held = s.held :=
  (armTally_moves s n v (Moves.refl 50824 s) rfl).rest .held rfl
@[simp] theorem armTally_freeCtr (s : State) (n : Nat) (v : Nat) : (armTally s n v).freeCtr = s.freeCtr :=
  (armTally_moves s n v (Moves.refl 50824 s) rfl).rest .freeCtr rfl
@[simp] theorem armTally_now (s : State) (n : Nat) (v : Nat) : (armTally s n v).now = s.now :=
  (armTally_moves s n v (Moves.refl 50824 s) rfl).rest .now rfl
@[simp] theorem armTally_boot (s : State) (n : Nat) (v : Nat) : (armTally s n v).boot = s.boot :=
  (armTally_moves s n v (Moves.refl 50824 s) rfl).rest .boot rfl
@[simp] theorem armTally_beat (s : State) (n : Nat) (v : Nat) : (armTally s n v).beat = s.beat :=
  (armTally_moves s n v (Moves.refl 50824 s) rfl).rest .beat rfl
@[simp] theorem armTally_cl (s : State) (n : Nat) (v : Nat) : (armTally s n v).cl = s.cl :=
  (armTally_moves s n v (Moves.refl 50824 s) rfl).rest .cl rfl
@[simp] theorem armTally_tiers (s : State) (n : Nat) (v : Nat) : (armTally s n v).tiers = s.tiers :=
  (armTally_moves s n v (Moves.refl 50824 s) rfl).rest .tiers rfl
@[simp] theorem armTally_redeal (s : State) (n : Nat) (v : Nat) : (armTally s n v).redeal = s.redeal :=
  (armTally_moves s n v (Moves.refl 50824 s) rfl).rest .redeal rfl
@[simp] theorem armTally_fences (s : State) (n : Nat) (v : Nat) : (armTally s n v).fences = s.fences :=
  (armTally_moves s n v (Moves.refl 50824 s) rfl).rest .fences rfl
@[simp] theorem armTally_ecc (s : State) (n : Nat) (v : Nat) : (armTally s n v).ecc = s.ecc :=
  (armTally_moves s n v (Moves.refl 50824 s) rfl).rest .ecc rfl
@[simp] theorem armTally_dbg (s : State) (n : Nat) (v : Nat) : (armTally s n v).dbg = s.dbg :=
  (armTally_moves s n v (Moves.refl 50824 s) rfl).rest .dbg rfl
@[simp] theorem armTally_power (s : State) (n : Nat) (v : Nat) : (armTally s n v).power = s.power :=
  (armTally_moves s n v (Moves.refl 50824 s) rfl).rest .power rfl
@[simp] theorem armTally_mgmt (s : State) (n : Nat) (v : Nat) : (armTally s n v).mgmt = s.mgmt :=
  (armTally_moves s n v (Moves.refl 50824 s) rfl).rest .mgmt rfl
@[simp] theorem armTally_pcie (s : State) (n : Nat) (v : Nat) : (armTally s n v).pcie = s.pcie :=
  (armTally_moves s n v (Moves.refl 50824 s) rfl).rest .pcie rfl
@[simp] theorem armTally_net (s : State) (n : Nat) (v : Nat) : (armTally s n v).net = s.net :=
  (armTally_moves s n v (Moves.refl 50824 s) rfl).rest .net rfl
@[simp] theorem armTally_asy (s : State) (n : Nat) (v : Nat) : (armTally s n v).asy = s.asy :=
  (armTally_moves s n v (Moves.refl 50824 s) rfl).rest .asy rfl

@[simp] theorem sendTrick_pending (s : State) (seat : Seat) (msg : List Byte) : (sendTrick s seat msg).pending = s.pending :=
  (sendTrick_moves s seat msg (Moves.refl 49152 s) rfl).rest .pending rfl
@[simp] theorem sendTrick_held (s : State) (seat : Seat) (msg : List Byte) : (sendTrick s seat msg).held = s.held :=
  (sendTrick_moves s seat msg (Moves.refl 49152 s) rfl).rest .held rfl
@[simp] theorem sendTrick_freeCtr (s : State) (seat : Seat) (msg : List Byte) : (sendTrick s seat msg).freeCtr = s.freeCtr :=
  (sendTrick_moves s seat msg (Moves.refl 49152 s) rfl).rest .freeCtr rfl
@[simp] theorem sendTrick_now (s : State) (seat : Seat) (msg : List Byte) : (sendTrick s seat msg).now = s.now :=
  (sendTrick_moves s seat msg (Moves.refl 49152 s) rfl).rest .now rfl
@[simp] theorem sendTrick_boot (s : State) (seat : Seat) (msg : List Byte) : (sendTrick s seat msg).boot = s.boot :=
  (sendTrick_moves s seat msg (Moves.refl 49152 s) rfl).rest .boot rfl
@[simp] theorem sendTrick_beat (s : State) (seat : Seat) (msg : List Byte) : (sendTrick s seat msg).beat = s.beat :=
  (sendTrick_moves s seat msg (Moves.refl 49152 s) rfl).rest .beat rfl
@[simp] theorem sendTrick_cl (s : State) (seat : Seat) (msg : List Byte) : (sendTrick s seat msg).cl = s.cl :=
  (sendTrick_moves s seat msg (Moves.refl 49152 s) rfl).rest .cl rfl
@[simp] theorem sendTrick_dl (s : State) (seat : Seat) (msg : List Byte) : (sendTrick s seat msg).dl = s.dl :=
  (sendTrick_moves s seat msg (Moves.refl 49152 s) rfl).rest .dl rfl
@[simp] theorem sendTrick_tiers (s : State) (seat : Seat) (msg : List Byte) : (sendTrick s seat msg).tiers = s.tiers :=
  (sendTrick_moves s seat msg (Moves.refl 49152 s) rfl).rest .tiers rfl
@[simp] theorem sendTrick_sync (s : State) (seat : Seat) (msg : List Byte) : (sendTrick s seat msg).sync = s.sync :=
  (sendTrick_moves s seat msg (Moves.refl 49152 s) rfl).rest .sync rfl
@[simp] theorem sendTrick_fns (s : State) (seat : Seat) (msg : List Byte) : (sendTrick s seat msg).fns = s.fns :=
  (sendTrick_moves s seat msg (Moves.refl 49152 s) rfl).rest .fns rfl
@[simp] theorem sendTrick_redeal (s : State) (seat : Seat) (msg : List Byte) : (sendTrick s seat msg).redeal = s.redeal :=
  (sendTrick_moves s seat msg (Moves.refl 49152 s) rfl).rest .redeal rfl
@[simp] theorem sendTrick_fences (s : State) (seat : Seat) (msg : List Byte) : (sendTrick s seat msg).fences = s.fences :=
  (sendTrick_moves s seat msg (Moves.refl 49152 s) rfl).rest .fences rfl
@[simp] theorem sendTrick_ecc (s : State) (seat : Seat) (msg : List Byte) : (sendTrick s seat msg).ecc = s.ecc :=
  (sendTrick_moves s seat msg (Moves.refl 49152 s) rfl).rest .ecc rfl
@[simp] theorem sendTrick_dbg (s : State) (seat : Seat) (msg : List Byte) : (sendTrick s seat msg).dbg = s.dbg :=
  (sendTrick_moves s seat msg (Moves.refl 49152 s) rfl).rest .dbg rfl
@[simp] theorem sendTrick_power (s : State) (seat : Seat) (msg : List Byte) : (sendTrick s seat msg).power = s.power :=
  (sendTrick_moves s seat msg (Moves.refl 49152 s) rfl).rest .power rfl
@[simp] theorem sendTrick_mgmt (s : State) (seat : Seat) (msg : List Byte) : (sendTrick s seat msg).mgmt = s.mgmt :=
  (sendTrick_moves s seat msg (Moves.refl 49152 s) rfl).rest .mgmt rfl
@[simp] theorem sendTrick_pcie (s : State) (seat : Seat) (msg : List Byte) : (sendTrick s seat msg).pcie = s.pcie :=
  (sendTrick_moves s seat msg (Moves.refl 49152 s) rfl).rest .pcie rfl
@[simp] theorem sendTrick_net (s : State) (seat : Seat) (msg : List Byte) : (sendTrick s seat msg).net = s.net :=
  (sendTrick_moves s seat msg (Moves.refl 49152 s) rfl).rest .net rfl
@[simp] theorem sendTrick_asy (s : State) (seat : Seat) (msg : List Byte) : (sendTrick s seat msg).asy = s.asy :=
  (sendTrick_moves s seat msg (Moves.refl 49152 s) rfl).rest .asy rfl
@[simp] theorem sendTrick_out (s : State) (seat : Seat) (msg : List Byte) : (sendTrick s seat msg).out = s.out :=
  (sendTrick_moves s seat msg (Moves.refl 49152 s) rfl).rest .out rfl

@[simp] theorem beatEvent_pending (s : State) : (beatEvent s).pending = s.pending :=
  (beatEvent_moves s (Moves.refl 263240 s) rfl).rest .pending rfl
@[simp] theorem beatEvent_held (s : State) : (beatEvent s).held = s.held :=
  (beatEvent_moves s (Moves.refl 263240 s) rfl).rest .held rfl
@[simp] theorem beatEvent_freeCtr (s : State) : (beatEvent s).freeCtr = s.freeCtr :=
  (beatEvent_moves s (Moves.refl 263240 s) rfl).rest .freeCtr rfl
@[simp] theorem beatEvent_now (s : State) : (beatEvent s).now = s.now :=
  (beatEvent_moves s (Moves.refl 263240 s) rfl).rest .now rfl
@[simp] theorem beatEvent_boot (s : State) : (beatEvent s).boot = s.boot :=
  (beatEvent_moves s (Moves.refl 263240 s) rfl).rest .boot rfl
@[simp] theorem beatEvent_beat (s : State) : (beatEvent s).beat = s.beat :=
  (beatEvent_moves s (Moves.refl 263240 s) rfl).rest .beat rfl
@[simp] theorem beatEvent_dl (s : State) : (beatEvent s).dl = s.dl :=
  (beatEvent_moves s (Moves.refl 263240 s) rfl).rest .dl rfl
@[simp] theorem beatEvent_tiers (s : State) : (beatEvent s).tiers = s.tiers :=
  (beatEvent_moves s (Moves.refl 263240 s) rfl).rest .tiers rfl
@[simp] theorem beatEvent_sync (s : State) : (beatEvent s).sync = s.sync :=
  (beatEvent_moves s (Moves.refl 263240 s) rfl).rest .sync rfl
@[simp] theorem beatEvent_redeal (s : State) : (beatEvent s).redeal = s.redeal :=
  (beatEvent_moves s (Moves.refl 263240 s) rfl).rest .redeal rfl
@[simp] theorem beatEvent_fences (s : State) : (beatEvent s).fences = s.fences :=
  (beatEvent_moves s (Moves.refl 263240 s) rfl).rest .fences rfl
@[simp] theorem beatEvent_ecc (s : State) : (beatEvent s).ecc = s.ecc :=
  (beatEvent_moves s (Moves.refl 263240 s) rfl).rest .ecc rfl
@[simp] theorem beatEvent_link (s : State) : (beatEvent s).link = s.link :=
  (beatEvent_moves s (Moves.refl 263240 s) rfl).rest .link rfl
@[simp] theorem beatEvent_rounds (s : State) : (beatEvent s).rounds = s.rounds :=
  (beatEvent_moves s (Moves.refl 263240 s) rfl).rest .rounds rfl
@[simp] theorem beatEvent_dbg (s : State) : (beatEvent s).dbg = s.dbg :=
  (beatEvent_moves s (Moves.refl 263240 s) rfl).rest .dbg rfl
@[simp] theorem beatEvent_power (s : State) : (beatEvent s).power = s.power :=
  (beatEvent_moves s (Moves.refl 263240 s) rfl).rest .power rfl
@[simp] theorem beatEvent_pcie (s : State) : (beatEvent s).pcie = s.pcie :=
  (beatEvent_moves s (Moves.refl 263240 s) rfl).rest .pcie rfl
@[simp] theorem beatEvent_net (s : State) : (beatEvent s).net = s.net :=
  (beatEvent_moves s (Moves.refl 263240 s) rfl).rest .net rfl
@[simp] theorem beatEvent_asy (s : State) : (beatEvent s).asy = s.asy :=
  (beatEvent_moves s (Moves.refl 263240 s) rfl).rest .asy rfl

@[simp] theorem setSec_pending (s : State) (x : SecState) : (setSec s x).pending = s.pending :=
  (setSec_moves s x (Moves.refl 327688 s) rfl).rest .pending rfl
@[simp] theorem setSec_held (s : State) (x : SecState) : (setSec s x).held = s.held :=
  (setSec_moves s x (Moves.refl 327688 s) rfl).rest .held rfl
@[simp] theorem setSec_freeCtr (s : State) (x : SecState) : (setSec s x).freeCtr = s.freeCtr :=
  (setSec_moves s x (Moves.refl 327688 s) rfl).rest .freeCtr rfl
@[simp] theorem setSec_now (s : State) (x : SecState) : (setSec s x).now = s.now :=
  (setSec_moves s x (Moves.refl 327688 s) rfl).rest .now rfl
@[simp] theorem setSec_boot (s : State) (x : SecState) : (setSec s x).boot = s.boot :=
  (setSec_moves s x (Moves.refl 327688 s) rfl).rest .boot rfl
@[simp] theorem setSec_beat (s : State) (x : SecState) : (setSec s x).beat = s.beat :=
  (setSec_moves s x (Moves.refl 327688 s) rfl).rest .beat rfl
@[simp] theorem setSec_cl (s : State) (x : SecState) : (setSec s x).cl = s.cl :=
  (setSec_moves s x (Moves.refl 327688 s) rfl).rest .cl rfl
@[simp] theorem setSec_dl (s : State) (x : SecState) : (setSec s x).dl = s.dl :=
  (setSec_moves s x (Moves.refl 327688 s) rfl).rest .dl rfl
@[simp] theorem setSec_tiers (s : State) (x : SecState) : (setSec s x).tiers = s.tiers :=
  (setSec_moves s x (Moves.refl 327688 s) rfl).rest .tiers rfl
@[simp] theorem setSec_sync (s : State) (x : SecState) : (setSec s x).sync = s.sync :=
  (setSec_moves s x (Moves.refl 327688 s) rfl).rest .sync rfl
@[simp] theorem setSec_fns (s : State) (x : SecState) : (setSec s x).fns = s.fns :=
  (setSec_moves s x (Moves.refl 327688 s) rfl).rest .fns rfl
@[simp] theorem setSec_redeal (s : State) (x : SecState) : (setSec s x).redeal = s.redeal :=
  (setSec_moves s x (Moves.refl 327688 s) rfl).rest .redeal rfl
@[simp] theorem setSec_fences (s : State) (x : SecState) : (setSec s x).fences = s.fences :=
  (setSec_moves s x (Moves.refl 327688 s) rfl).rest .fences rfl
@[simp] theorem setSec_ecc (s : State) (x : SecState) : (setSec s x).ecc = s.ecc :=
  (setSec_moves s x (Moves.refl 327688 s) rfl).rest .ecc rfl
@[simp] theorem setSec_link (s : State) (x : SecState) : (setSec s x).link = s.link :=
  (setSec_moves s x (Moves.refl 327688 s) rfl).rest .link rfl
@[simp] theorem setSec_rounds (s : State) (x : SecState) : (setSec s x).rounds = s.rounds :=
  (setSec_moves s x (Moves.refl 327688 s) rfl).rest .rounds rfl
@[simp] theorem setSec_power (s : State) (x : SecState) : (setSec s x).power = s.power :=
  (setSec_moves s x (Moves.refl 327688 s) rfl).rest .power rfl
@[simp] theorem setSec_pcie (s : State) (x : SecState) : (setSec s x).pcie = s.pcie :=
  (setSec_moves s x (Moves.refl 327688 s) rfl).rest .pcie rfl
@[simp] theorem setSec_net (s : State) (x : SecState) : (setSec s x).net = s.net :=
  (setSec_moves s x (Moves.refl 327688 s) rfl).rest .net rfl
@[simp] theorem setSec_asy (s : State) (x : SecState) : (setSec s x).asy = s.asy :=
  (setSec_moves s x (Moves.refl 327688 s) rfl).rest .asy rfl

@[simp] theorem secEvent_pending (s : State) (kind : Nat) (which : Nat) (code : Nat) (seq : Nat) : (secEvent s kind which code seq).pending = s.pending :=
  (secEvent_moves s kind which code seq (Moves.refl 263240 s) rfl).rest .pending rfl
@[simp] theorem secEvent_held (s : State) (kind : Nat) (which : Nat) (code : Nat) (seq : Nat) : (secEvent s kind which code seq).held = s.held :=
  (secEvent_moves s kind which code seq (Moves.refl 263240 s) rfl).rest .held rfl
@[simp] theorem secEvent_freeCtr (s : State) (kind : Nat) (which : Nat) (code : Nat) (seq : Nat) : (secEvent s kind which code seq).freeCtr = s.freeCtr :=
  (secEvent_moves s kind which code seq (Moves.refl 263240 s) rfl).rest .freeCtr rfl
@[simp] theorem secEvent_now (s : State) (kind : Nat) (which : Nat) (code : Nat) (seq : Nat) : (secEvent s kind which code seq).now = s.now :=
  (secEvent_moves s kind which code seq (Moves.refl 263240 s) rfl).rest .now rfl
@[simp] theorem secEvent_boot (s : State) (kind : Nat) (which : Nat) (code : Nat) (seq : Nat) : (secEvent s kind which code seq).boot = s.boot :=
  (secEvent_moves s kind which code seq (Moves.refl 263240 s) rfl).rest .boot rfl
@[simp] theorem secEvent_beat (s : State) (kind : Nat) (which : Nat) (code : Nat) (seq : Nat) : (secEvent s kind which code seq).beat = s.beat :=
  (secEvent_moves s kind which code seq (Moves.refl 263240 s) rfl).rest .beat rfl
@[simp] theorem secEvent_dl (s : State) (kind : Nat) (which : Nat) (code : Nat) (seq : Nat) : (secEvent s kind which code seq).dl = s.dl :=
  (secEvent_moves s kind which code seq (Moves.refl 263240 s) rfl).rest .dl rfl
@[simp] theorem secEvent_tiers (s : State) (kind : Nat) (which : Nat) (code : Nat) (seq : Nat) : (secEvent s kind which code seq).tiers = s.tiers :=
  (secEvent_moves s kind which code seq (Moves.refl 263240 s) rfl).rest .tiers rfl
@[simp] theorem secEvent_sync (s : State) (kind : Nat) (which : Nat) (code : Nat) (seq : Nat) : (secEvent s kind which code seq).sync = s.sync :=
  (secEvent_moves s kind which code seq (Moves.refl 263240 s) rfl).rest .sync rfl
@[simp] theorem secEvent_redeal (s : State) (kind : Nat) (which : Nat) (code : Nat) (seq : Nat) : (secEvent s kind which code seq).redeal = s.redeal :=
  (secEvent_moves s kind which code seq (Moves.refl 263240 s) rfl).rest .redeal rfl
@[simp] theorem secEvent_fences (s : State) (kind : Nat) (which : Nat) (code : Nat) (seq : Nat) : (secEvent s kind which code seq).fences = s.fences :=
  (secEvent_moves s kind which code seq (Moves.refl 263240 s) rfl).rest .fences rfl
@[simp] theorem secEvent_ecc (s : State) (kind : Nat) (which : Nat) (code : Nat) (seq : Nat) : (secEvent s kind which code seq).ecc = s.ecc :=
  (secEvent_moves s kind which code seq (Moves.refl 263240 s) rfl).rest .ecc rfl
@[simp] theorem secEvent_link (s : State) (kind : Nat) (which : Nat) (code : Nat) (seq : Nat) : (secEvent s kind which code seq).link = s.link :=
  (secEvent_moves s kind which code seq (Moves.refl 263240 s) rfl).rest .link rfl
@[simp] theorem secEvent_rounds (s : State) (kind : Nat) (which : Nat) (code : Nat) (seq : Nat) : (secEvent s kind which code seq).rounds = s.rounds :=
  (secEvent_moves s kind which code seq (Moves.refl 263240 s) rfl).rest .rounds rfl
@[simp] theorem secEvent_dbg (s : State) (kind : Nat) (which : Nat) (code : Nat) (seq : Nat) : (secEvent s kind which code seq).dbg = s.dbg :=
  (secEvent_moves s kind which code seq (Moves.refl 263240 s) rfl).rest .dbg rfl
@[simp] theorem secEvent_power (s : State) (kind : Nat) (which : Nat) (code : Nat) (seq : Nat) : (secEvent s kind which code seq).power = s.power :=
  (secEvent_moves s kind which code seq (Moves.refl 263240 s) rfl).rest .power rfl
@[simp] theorem secEvent_pcie (s : State) (kind : Nat) (which : Nat) (code : Nat) (seq : Nat) : (secEvent s kind which code seq).pcie = s.pcie :=
  (secEvent_moves s kind which code seq (Moves.refl 263240 s) rfl).rest .pcie rfl
@[simp] theorem secEvent_net (s : State) (kind : Nat) (which : Nat) (code : Nat) (seq : Nat) : (secEvent s kind which code seq).net = s.net :=
  (secEvent_moves s kind which code seq (Moves.refl 263240 s) rfl).rest .net rfl
@[simp] theorem secEvent_asy (s : State) (kind : Nat) (which : Nat) (code : Nat) (seq : Nat) : (secEvent s kind which code seq).asy = s.asy :=
  (secEvent_moves s kind which code seq (Moves.refl 263240 s) rfl).rest .asy rfl

@[simp] theorem startClocks_pending (s : State) : (startClocks s).pending = s.pending :=
  (startClocks_moves s (Moves.refl 131200 s) rfl).rest .pending rfl
@[simp] theorem startClocks_held (s : State) : (startClocks s).held = s.held :=
  (startClocks_moves s (Moves.refl 131200 s) rfl).rest .held rfl
@[simp] theorem startClocks_freeCtr (s : State) : (startClocks s).freeCtr = s.freeCtr :=
  (startClocks_moves s (Moves.refl 131200 s) rfl).rest .freeCtr rfl
@[simp] theorem startClocks_now (s : State) : (startClocks s).now = s.now :=
  (startClocks_moves s (Moves.refl 131200 s) rfl).rest .now rfl
@[simp] theorem startClocks_boot (s : State) : (startClocks s).boot = s.boot :=
  (startClocks_moves s (Moves.refl 131200 s) rfl).rest .boot rfl
@[simp] theorem startClocks_beat (s : State) : (startClocks s).beat = s.beat :=
  (startClocks_moves s (Moves.refl 131200 s) rfl).rest .beat rfl
@[simp] theorem startClocks_cl (s : State) : (startClocks s).cl = s.cl :=
  (startClocks_moves s (Moves.refl 131200 s) rfl).rest .cl rfl
@[simp] theorem startClocks_tiers (s : State) : (startClocks s).tiers = s.tiers :=
  (startClocks_moves s (Moves.refl 131200 s) rfl).rest .tiers rfl
@[simp] theorem startClocks_sync (s : State) : (startClocks s).sync = s.sync :=
  (startClocks_moves s (Moves.refl 131200 s) rfl).rest .sync rfl
@[simp] theorem startClocks_fns (s : State) : (startClocks s).fns = s.fns :=
  (startClocks_moves s (Moves.refl 131200 s) rfl).rest .fns rfl
@[simp] theorem startClocks_redeal (s : State) : (startClocks s).redeal = s.redeal :=
  (startClocks_moves s (Moves.refl 131200 s) rfl).rest .redeal rfl
@[simp] theorem startClocks_fences (s : State) : (startClocks s).fences = s.fences :=
  (startClocks_moves s (Moves.refl 131200 s) rfl).rest .fences rfl
@[simp] theorem startClocks_ecc (s : State) : (startClocks s).ecc = s.ecc :=
  (startClocks_moves s (Moves.refl 131200 s) rfl).rest .ecc rfl
@[simp] theorem startClocks_link (s : State) : (startClocks s).link = s.link :=
  (startClocks_moves s (Moves.refl 131200 s) rfl).rest .link rfl
@[simp] theorem startClocks_rounds (s : State) : (startClocks s).rounds = s.rounds :=
  (startClocks_moves s (Moves.refl 131200 s) rfl).rest .rounds rfl
@[simp] theorem startClocks_dbg (s : State) : (startClocks s).dbg = s.dbg :=
  (startClocks_moves s (Moves.refl 131200 s) rfl).rest .dbg rfl
@[simp] theorem startClocks_mgmt (s : State) : (startClocks s).mgmt = s.mgmt :=
  (startClocks_moves s (Moves.refl 131200 s) rfl).rest .mgmt rfl
@[simp] theorem startClocks_pcie (s : State) : (startClocks s).pcie = s.pcie :=
  (startClocks_moves s (Moves.refl 131200 s) rfl).rest .pcie rfl
@[simp] theorem startClocks_net (s : State) : (startClocks s).net = s.net :=
  (startClocks_moves s (Moves.refl 131200 s) rfl).rest .net rfl
@[simp] theorem startClocks_asy (s : State) : (startClocks s).asy = s.asy :=
  (startClocks_moves s (Moves.refl 131200 s) rfl).rest .asy rfl

@[simp] theorem drawCommonKey_pending (s : State) : (drawCommonKey s).pending = s.pending :=
  (drawCommonKey_moves s (Moves.refl 258 s) rfl).rest .pending rfl
@[simp] theorem drawCommonKey_held (s : State) : (drawCommonKey s).held = s.held :=
  (drawCommonKey_moves s (Moves.refl 258 s) rfl).rest .held rfl
@[simp] theorem drawCommonKey_now (s : State) : (drawCommonKey s).now = s.now :=
  (drawCommonKey_moves s (Moves.refl 258 s) rfl).rest .now rfl
@[simp] theorem drawCommonKey_boot (s : State) : (drawCommonKey s).boot = s.boot :=
  (drawCommonKey_moves s (Moves.refl 258 s) rfl).rest .boot rfl
@[simp] theorem drawCommonKey_beat (s : State) : (drawCommonKey s).beat = s.beat :=
  (drawCommonKey_moves s (Moves.refl 258 s) rfl).rest .beat rfl
@[simp] theorem drawCommonKey_cl (s : State) : (drawCommonKey s).cl = s.cl :=
  (drawCommonKey_moves s (Moves.refl 258 s) rfl).rest .cl rfl
@[simp] theorem drawCommonKey_dl (s : State) : (drawCommonKey s).dl = s.dl :=
  (drawCommonKey_moves s (Moves.refl 258 s) rfl).rest .dl rfl
@[simp] theorem drawCommonKey_sync (s : State) : (drawCommonKey s).sync = s.sync :=
  (drawCommonKey_moves s (Moves.refl 258 s) rfl).rest .sync rfl
@[simp] theorem drawCommonKey_fns (s : State) : (drawCommonKey s).fns = s.fns :=
  (drawCommonKey_moves s (Moves.refl 258 s) rfl).rest .fns rfl
@[simp] theorem drawCommonKey_redeal (s : State) : (drawCommonKey s).redeal = s.redeal :=
  (drawCommonKey_moves s (Moves.refl 258 s) rfl).rest .redeal rfl
@[simp] theorem drawCommonKey_fences (s : State) : (drawCommonKey s).fences = s.fences :=
  (drawCommonKey_moves s (Moves.refl 258 s) rfl).rest .fences rfl
@[simp] theorem drawCommonKey_ecc (s : State) : (drawCommonKey s).ecc = s.ecc :=
  (drawCommonKey_moves s (Moves.refl 258 s) rfl).rest .ecc rfl
@[simp] theorem drawCommonKey_link (s : State) : (drawCommonKey s).link = s.link :=
  (drawCommonKey_moves s (Moves.refl 258 s) rfl).rest .link rfl
@[simp] theorem drawCommonKey_rounds (s : State) : (drawCommonKey s).rounds = s.rounds :=
  (drawCommonKey_moves s (Moves.refl 258 s) rfl).rest .rounds rfl
@[simp] theorem drawCommonKey_dbg (s : State) : (drawCommonKey s).dbg = s.dbg :=
  (drawCommonKey_moves s (Moves.refl 258 s) rfl).rest .dbg rfl
@[simp] theorem drawCommonKey_power (s : State) : (drawCommonKey s).power = s.power :=
  (drawCommonKey_moves s (Moves.refl 258 s) rfl).rest .power rfl
@[simp] theorem drawCommonKey_mgmt (s : State) : (drawCommonKey s).mgmt = s.mgmt :=
  (drawCommonKey_moves s (Moves.refl 258 s) rfl).rest .mgmt rfl
@[simp] theorem drawCommonKey_pcie (s : State) : (drawCommonKey s).pcie = s.pcie :=
  (drawCommonKey_moves s (Moves.refl 258 s) rfl).rest .pcie rfl
@[simp] theorem drawCommonKey_net (s : State) : (drawCommonKey s).net = s.net :=
  (drawCommonKey_moves s (Moves.refl 258 s) rfl).rest .net rfl
@[simp] theorem drawCommonKey_asy (s : State) : (drawCommonKey s).asy = s.asy :=
  (drawCommonKey_moves s (Moves.refl 258 s) rfl).rest .asy rfl

@[simp] theorem dropHold_pending (s : State) (fn : Nat) (off : Nat) : (dropHold s fn off).pending = s.pending :=
  (dropHold_moves s fn off (Moves.refl 1024 s) rfl).rest .pending rfl
@[simp] theorem dropHold_held (s : State) (fn : Nat) (off : Nat) : (dropHold s fn off).held = s.held :=
  (dropHold_moves s fn off (Moves.refl 1024 s) rfl).rest .held rfl
@[simp] theorem dropHold_freeCtr (s : State) (fn : Nat) (off : Nat) : (dropHold s fn off).freeCtr = s.freeCtr :=
  (dropHold_moves s fn off (Moves.refl 1024 s) rfl).rest .freeCtr rfl
@[simp] theorem dropHold_now (s : State) (fn : Nat) (off : Nat) : (dropHold s fn off).now = s.now :=
  (dropHold_moves s fn off (Moves.refl 1024 s) rfl).rest .now rfl
@[simp] theorem dropHold_boot (s : State) (fn : Nat) (off : Nat) : (dropHold s fn off).boot = s.boot :=
  (dropHold_moves s fn off (Moves.refl 1024 s) rfl).rest .boot rfl
@[simp] theorem dropHold_beat (s : State) (fn : Nat) (off : Nat) : (dropHold s fn off).beat = s.beat :=
  (dropHold_moves s fn off (Moves.refl 1024 s) rfl).rest .beat rfl
@[simp] theorem dropHold_cl (s : State) (fn : Nat) (off : Nat) : (dropHold s fn off).cl = s.cl :=
  (dropHold_moves s fn off (Moves.refl 1024 s) rfl).rest .cl rfl
@[simp] theorem dropHold_dl (s : State) (fn : Nat) (off : Nat) : (dropHold s fn off).dl = s.dl :=
  (dropHold_moves s fn off (Moves.refl 1024 s) rfl).rest .dl rfl
@[simp] theorem dropHold_tiers (s : State) (fn : Nat) (off : Nat) : (dropHold s fn off).tiers = s.tiers :=
  (dropHold_moves s fn off (Moves.refl 1024 s) rfl).rest .tiers rfl
@[simp] theorem dropHold_sync (s : State) (fn : Nat) (off : Nat) : (dropHold s fn off).sync = s.sync :=
  (dropHold_moves s fn off (Moves.refl 1024 s) rfl).rest .sync rfl
@[simp] theorem dropHold_redeal (s : State) (fn : Nat) (off : Nat) : (dropHold s fn off).redeal = s.redeal :=
  (dropHold_moves s fn off (Moves.refl 1024 s) rfl).rest .redeal rfl
@[simp] theorem dropHold_fences (s : State) (fn : Nat) (off : Nat) : (dropHold s fn off).fences = s.fences :=
  (dropHold_moves s fn off (Moves.refl 1024 s) rfl).rest .fences rfl
@[simp] theorem dropHold_ecc (s : State) (fn : Nat) (off : Nat) : (dropHold s fn off).ecc = s.ecc :=
  (dropHold_moves s fn off (Moves.refl 1024 s) rfl).rest .ecc rfl
@[simp] theorem dropHold_link (s : State) (fn : Nat) (off : Nat) : (dropHold s fn off).link = s.link :=
  (dropHold_moves s fn off (Moves.refl 1024 s) rfl).rest .link rfl
@[simp] theorem dropHold_rounds (s : State) (fn : Nat) (off : Nat) : (dropHold s fn off).rounds = s.rounds :=
  (dropHold_moves s fn off (Moves.refl 1024 s) rfl).rest .rounds rfl
@[simp] theorem dropHold_dbg (s : State) (fn : Nat) (off : Nat) : (dropHold s fn off).dbg = s.dbg :=
  (dropHold_moves s fn off (Moves.refl 1024 s) rfl).rest .dbg rfl
@[simp] theorem dropHold_power (s : State) (fn : Nat) (off : Nat) : (dropHold s fn off).power = s.power :=
  (dropHold_moves s fn off (Moves.refl 1024 s) rfl).rest .power rfl
@[simp] theorem dropHold_mgmt (s : State) (fn : Nat) (off : Nat) : (dropHold s fn off).mgmt = s.mgmt :=
  (dropHold_moves s fn off (Moves.refl 1024 s) rfl).rest .mgmt rfl
@[simp] theorem dropHold_pcie (s : State) (fn : Nat) (off : Nat) : (dropHold s fn off).pcie = s.pcie :=
  (dropHold_moves s fn off (Moves.refl 1024 s) rfl).rest .pcie rfl
@[simp] theorem dropHold_net (s : State) (fn : Nat) (off : Nat) : (dropHold s fn off).net = s.net :=
  (dropHold_moves s fn off (Moves.refl 1024 s) rfl).rest .net rfl
@[simp] theorem dropHold_asy (s : State) (fn : Nat) (off : Nat) : (dropHold s fn off).asy = s.asy :=
  (dropHold_moves s fn off (Moves.refl 1024 s) rfl).rest .asy rfl

@[simp] theorem followRail_pending (s : State) (d : Nat) : (followRail s d).pending = s.pending :=
  (followRail_moves s d (Moves.refl 131080 s) rfl).rest .pending rfl
@[simp] theorem followRail_held (s : State) (d : Nat) : (followRail s d).held = s.held :=
  (followRail_moves s d (Moves.refl 131080 s) rfl).rest .held rfl
@[simp] theorem followRail_freeCtr (s : State) (d : Nat) : (followRail s d).freeCtr = s.freeCtr :=
  (followRail_moves s d (Moves.refl 131080 s) rfl).rest .freeCtr rfl
@[simp] theorem followRail_now (s : State) (d : Nat) : (followRail s d).now = s.now :=
  (followRail_moves s d (Moves.refl 131080 s) rfl).rest .now rfl
@[simp] theorem followRail_boot (s : State) (d : Nat) : (followRail s d).boot = s.boot :=
  (followRail_moves s d (Moves.refl 131080 s) rfl).rest .boot rfl
@[simp] theorem followRail_beat (s : State) (d : Nat) : (followRail s d).beat = s.beat :=
  (followRail_moves s d (Moves.refl 131080 s) rfl).rest .beat rfl
@[simp] theorem followRail_cl (s : State) (d : Nat) : (followRail s d).cl = s.cl :=
  (followRail_moves s d (Moves.refl 131080 s) rfl).rest .cl rfl
@[simp] theorem followRail_dl (s : State) (d : Nat) : (followRail s d).dl = s.dl :=
  (followRail_moves s d (Moves.refl 131080 s) rfl).rest .dl rfl
@[simp] theorem followRail_tiers (s : State) (d : Nat) : (followRail s d).tiers = s.tiers :=
  (followRail_moves s d (Moves.refl 131080 s) rfl).rest .tiers rfl
@[simp] theorem followRail_sync (s : State) (d : Nat) : (followRail s d).sync = s.sync :=
  (followRail_moves s d (Moves.refl 131080 s) rfl).rest .sync rfl
@[simp] theorem followRail_fns (s : State) (d : Nat) : (followRail s d).fns = s.fns :=
  (followRail_moves s d (Moves.refl 131080 s) rfl).rest .fns rfl
@[simp] theorem followRail_redeal (s : State) (d : Nat) : (followRail s d).redeal = s.redeal :=
  (followRail_moves s d (Moves.refl 131080 s) rfl).rest .redeal rfl
@[simp] theorem followRail_fences (s : State) (d : Nat) : (followRail s d).fences = s.fences :=
  (followRail_moves s d (Moves.refl 131080 s) rfl).rest .fences rfl
@[simp] theorem followRail_ecc (s : State) (d : Nat) : (followRail s d).ecc = s.ecc :=
  (followRail_moves s d (Moves.refl 131080 s) rfl).rest .ecc rfl
@[simp] theorem followRail_link (s : State) (d : Nat) : (followRail s d).link = s.link :=
  (followRail_moves s d (Moves.refl 131080 s) rfl).rest .link rfl
@[simp] theorem followRail_rounds (s : State) (d : Nat) : (followRail s d).rounds = s.rounds :=
  (followRail_moves s d (Moves.refl 131080 s) rfl).rest .rounds rfl
@[simp] theorem followRail_dbg (s : State) (d : Nat) : (followRail s d).dbg = s.dbg :=
  (followRail_moves s d (Moves.refl 131080 s) rfl).rest .dbg rfl
@[simp] theorem followRail_mgmt (s : State) (d : Nat) : (followRail s d).mgmt = s.mgmt :=
  (followRail_moves s d (Moves.refl 131080 s) rfl).rest .mgmt rfl
@[simp] theorem followRail_pcie (s : State) (d : Nat) : (followRail s d).pcie = s.pcie :=
  (followRail_moves s d (Moves.refl 131080 s) rfl).rest .pcie rfl
@[simp] theorem followRail_net (s : State) (d : Nat) : (followRail s d).net = s.net :=
  (followRail_moves s d (Moves.refl 131080 s) rfl).rest .net rfl
@[simp] theorem followRail_asy (s : State) (d : Nat) : (followRail s d).asy = s.asy :=
  (followRail_moves s d (Moves.refl 131080 s) rfl).rest .asy rfl

end Sys2Proof.Machine
end

