-- ==== Sys2Proof/Laws/Frames.lean ====
section
/-! SUPPORT. From what an operation may change to what a statement says of a command: frames, completions, and the
operations that only reach management. -/

namespace Sys2Proof

open Machine

/-- The parts outside a mask are the same. -/
theorem Moves.only {m : Nat} {ps : List Part} {s t : State} (h : Moves m s t) (hm : ∀ p : Part, p ∉ ps → m.testBit p.bit = false) :
    OnlyParts ps s t := fun p hp => h.rest p (hm p hp)

theorem OnlyParts.mono {ps qs : List Part} {s t : State} (h : OnlyParts ps s t) (hm : ∀ p : Part, p ∈ ps → p ∈ qs) : OnlyParts qs s t :=
  fun p hp => h p fun hq => hp (hm p hq)

theorem OnlyParts.refl (ps : List Part) (s : State) : OnlyParts ps s s := fun p _ => p.same_refl s

theorem OnlyParts.trans {ps : List Part} {s t u : State} (h : OnlyParts ps s t) (k : OnlyParts ps t u) : OnlyParts ps s u :=
  fun p hp => Part.same_trans (h p hp) (k p hp)

/-- A command that the main dies do not have to carry out completes. -/
theorem Runs.always {i : Instr} {s : State} {k : State → State} {p : State → Prop} (he : exec i s = Machine.always k s) (hp : p (k s)) :
    Runs i s p := ⟨k s, he, hp⟩

/-- A command of the main dies completes while they run. -/
theorem Runs.onDies {i : Instr} {s : State} {k : State → State} {p : State → Prop} (he : exec i s = Machine.onDies k s)
    (hd : diesUp s = true) (hp : p (k s)) : Runs i s p := ⟨k s, by rw [he, Machine.onDies, if_pos hd], hp⟩

/-- The frame of a command that completes follows from its mask. -/
theorem Runs.only {i : Instr} {s : State} {m : Nat} {ps : List Part} {p : State → Prop} (ha : Answers m s (exec i s))
    (hm : ∀ q : Part, q ∉ ps → m.testBit q.bit = false) (hr : Runs i s p) : Runs i s fun t => p t ∧ OnlyParts ps s t := by
  obtain ⟨t, ht, hp⟩ := hr
  obtain ⟨u, hu, hm'⟩ := ha
  cases ht.symm.trans hu
  exact ⟨t, ht, hp, hm'.only hm⟩

namespace Machine

theorem viaReg_pos {s : State} {fn off : Nat} {k : State → State} (h : (regAt s fn off).isSome = true) : viaReg s fn off k = k s :=
  if_pos h

theorem viaReg_neg {s : State} {fn off : Nat} {k : State → State} (h : regAt s fn off = none) : viaReg s fn off k = s := by
  simp [viaReg, h]

theorem viaShoe_pos {s : State} {n o : Nat} {k : State → State} (hn : n < 9) (h : (regAt s (fnOf n) (shoeOff n o)).isSome = true) :
    viaShoe s n o k = k s := by
  rw [viaShoe, if_pos hn, viaReg_pos h]

theorem viaRing_pos {s : State} {n o : Nat} {k : State → State} (hn : n < 9) (h : (regAt s (fnOf n) (ringOff n o)).isSome = true) :
    viaRing s n o k = k s := by
  rw [viaRing, if_pos hn, viaReg_pos h]

theorem viaClaim_pos {s : State} {n o : Nat} {k : State → State} (hn : n < 8) (h : (regAt s (n + 1) o).isSome = true) :
    viaClaim s n o k = k s := by
  rw [viaClaim, if_pos hn, viaReg_pos h]

/-- Of the boot registers a change of the device state changes that state. -/
@[simp] theorem setDev_boot (s : State) (d : DevState) (cause : Nat) : (setDev s d cause).boot = { s.boot with dev := d } := by
  unfold setDev
  dsimp only
  split
  · rename_i h
    simp only [← h]
  · split
    · simp
    · simp

end Machine

end Sys2Proof
end

