-- ==== Sys2Proof/Laws/Answers.lean ====
section
/-! SUPPORT. What each command may change, from its meaning's law to the table of `Instr.parts`: one theorem a command, and
`exec_within` for all. -/

namespace Sys2Proof

open Machine

/-- The parts in the order of their bits. -/
def allParts : List Part :=
  [.pending, .freeCtr, .now, .out, .boot, .beat, .cl, .dl, .tiers, .sync, .fns, .redeal, .fences, .ecc, .link, .rounds, .dbg,
    .power, .mgmt, .pcie, .net, .asy, .held]

/-- A list of parts names every part of a mask. -/
def covers (ps : List Part) (m : Nat) : Bool := allParts.all fun p => ps.contains p || !m.testBit p.bit

theorem covers_spec {ps : List Part} {m : Nat} (h : covers ps m = true) (p : Part) (hp : p ∉ ps) : m.testBit p.bit = false := by
  have h1 := List.all_eq_true.mp h p (by cases p <;> decide)
  have h2 : ps.contains p = false := by simpa using hp
  rw [h2, Bool.false_or] at h1
  simpa using h1

/-- The command answers a next state, and a mask that its parts cover says what may change. -/
def Within (i : Instr) (s : State) : Prop := ∃ m, covers i.parts m = true ∧ Answers m s (exec i s)

theorem Within.only {i : Instr} {s : State} (h : Within i s) : ∃ t, exec i s = .next t ∧ OnlyParts i.parts s t := by
  obtain ⟨m, hc, t, ht, hm⟩ := h
  exact ⟨t, ht, hm.only (covers_spec hc)⟩

theorem OnlyParts.sub {ps qs : List Part} {s t : State} (h : OnlyParts ps s t) (hc : ps.all qs.contains = true) : OnlyParts qs s t :=
  h.mono fun p hp => by simpa using List.all_eq_true.mp hc p hp

/-- What a command that completes holds, with its frame. -/
theorem Runs.framed {i : Instr} {s : State} {p : State → Prop} (h : Within i s) (hr : Runs i s p) :
    Runs i s fun t => p t ∧ OnlyParts i.parts s t := by
  obtain ⟨t, ht, hp⟩ := hr
  obtain ⟨u, hu, ho⟩ := h.only
  cases ht.symm.trans hu
  exact ⟨t, ht, hp, ho⟩

theorem registerWrite_within (fn off width v : Nat) (s : State) : Within (.registerWrite fn off width v) s := ⟨8388602, rfl, execRegisterWrite_ans fn off width v s rfl⟩
theorem regLowHalfRead_within (fn off width : Nat) (s : State) : Within (.regLowHalfRead fn off width) s := ⟨132104, rfl, execRegLowHalfRead_ans fn off width s rfl⟩
theorem regLowHalfWrite_within (fn off v : Nat) (s : State) : Within (.regLowHalfWrite fn off v) s := ⟨4195328, rfl, execRegLowHalfWrite_ans fn off v s rfl⟩
theorem regHighHalfWrite_within (fn off v : Nat) (s : State) : Within (.regHighHalfWrite fn off v) s := ⟨8388602, rfl, execRegHighHalfWrite_ans fn off v s rfl⟩
theorem pwrMeasureRead_within (wide : Bool) (s : State) : Within (.pwrMeasureRead wide) s := ⟨132104, rfl, execPwrMeasureRead_ans wide s rfl⟩
theorem stbyPwrokRise_within (flash : Flash) (fuses : Fuses) (env : BootEnv) (s : State) : Within (.stbyPwrokRise flash fuses env) s := ⟨8388602, rfl, execStbyPwrokRise_ans flash fuses env s rfl⟩
theorem flashReadTimeout_within (env : BootEnv) (s : State) : Within (.flashReadTimeout env) s := ⟨8388602, rfl, execFlashReadTimeout_ans env s rfl⟩
theorem bootStepTimeout_within (env : BootEnv) (s : State) : Within (.bootStepTimeout env) s := ⟨8388602, rfl, execBootStepTimeout_ans env s rfl⟩
theorem resetLRise_within (env : BootEnv) (s : State) : Within (.resetLRise env) s := ⟨8388602, rfl, execResetLRise_ans env s rfl⟩
theorem pwrokRise_within (env : BootEnv) (s : State) : Within (.pwrokRise env) s := ⟨8388602, rfl, execPwrokRise_ans env s rfl⟩
theorem bootReady_within (us : Nat) (s : State) : Within (.bootReady us) s := ⟨262168, rfl, execBootReady_ans us s rfl⟩
theorem pinBeatEdge_within (ns : Nat) (s : State) : Within (.pinBeatEdge ns) s := ⟨2424808, rfl, execPinBeatEdge_ans ns s rfl⟩
theorem pinBeatFrame_within (pulses : List Nat) (s : State) : Within (.pinBeatFrame pulses) s := ⟨2424808, rfl, execPinBeatFrame_ans pulses s rfl⟩
theorem reservationApplyTimeout_within (claim : Nat) (s : State) : Within (.reservationApplyTimeout claim) s := ⟨1096, rfl, execReservationApplyTimeout_ans claim s rfl⟩
theorem linkBeatMessage_within (port hop count ns : Nat) (s : State) : Within (.linkBeatMessage port hop count ns) s := ⟨2424808, rfl, execLinkBeatMessage_ans port hop count ns s rfl⟩
theorem tokenBeatCommit_within (s : State) : Within (.tokenBeatCommit ) s := ⟨2424808, rfl, execTokenBeatCommit_ans s rfl⟩
theorem fillerBeat_within (s : State) : Within (.fillerBeat ) s := ⟨2424808, rfl, execFillerBeat_ans s rfl⟩
theorem beatLoss_within (s : State) : Within (.beatLoss ) s := ⟨263272, rfl, execBeatLoss_ans s rfl⟩
theorem holdoverBeatEdge_within (s : State) : Within (.holdoverBeatEdge ) s := ⟨2424808, rfl, execHoldoverBeatEdge_ans s rfl⟩
theorem beatCalCommitArm_within (atBeat : Nat) (s : State) : Within (.beatCalCommitArm atBeat) s := ⟨4195360, rfl, execBeatCalCommitArm_ans atBeat s rfl⟩
theorem beatCalShadowWrite_within (entry word v : Nat) (s : State) : Within (.beatCalShadowWrite entry word v) s := ⟨4195360, rfl, execBeatCalShadowWrite_ans entry word v s rfl⟩
theorem beatTokenDesignate_within (round : Nat) (s : State) : Within (.beatTokenDesignate round) s := ⟨4456488, rfl, execBeatTokenDesignate_ans round s rfl⟩
theorem shareSet_within (idx : Nat) (s : State) : Within (.shareSet idx) s := ⟨2424808, rfl, execShareSet_ans idx s rfl⟩
theorem scrubSlice_within (idx : Nat) (s : State) : Within (.scrubSlice idx) s := ⟨2424808, rfl, execScrubSlice_ans idx s rfl⟩
theorem heatAge_within (idx : Nat) (s : State) : Within (.heatAge idx) s := ⟨2424808, rfl, execHeatAge_ans idx s rfl⟩
theorem assayWindow_within (idx : Nat) (s : State) : Within (.assayWindow idx) s := ⟨2424808, rfl, execAssayWindow_ans idx s rfl⟩
theorem assayWindowClose_within (s : State) : Within (.assayWindowClose ) s := ⟨2368968, rfl, execAssayWindowClose_ans s rfl⟩
theorem epochAdvance_within (idx : Nat) (s : State) : Within (.epochAdvance idx) s := ⟨2424808, rfl, execEpochAdvance_ans idx s rfl⟩
theorem rollCall_within (idx : Nat) (views : List UnitView) (s : State) : Within (.rollCall idx views) s := ⟨2424808, rfl, execRollCall_ans idx views s rfl⟩
theorem checkpointWindow_within (idx : Nat) (s : State) : Within (.checkpointWindow idx) s := ⟨2424808, rfl, execCheckpointWindow_ans idx s rfl⟩
theorem checkpointWindowEnd_within (s : State) : Within (.checkpointWindowEnd ) s := ⟨64, rfl, execCheckpointWindowEnd_ans s rfl⟩
theorem markCmd_within (idx : Nat) (s : State) : Within (.markCmd idx) s := ⟨2424808, rfl, execMarkCmd_ans idx s rfl⟩
theorem claimCreate_within (seq level : Nat) (block : HostResp) (s : State) : Within (.claimCreate seq level block) s := ⟨526282, rfl, execClaimCreate_ans seq level block s rfl⟩
theorem claimModify_within (seq level : Nat) (block : HostResp) (s : State) : Within (.claimModify seq level block) s := ⟨526282, rfl, execClaimModify_ans seq level block s rfl⟩
theorem claimRelease_within (seq level : Nat) (s : State) : Within (.claimRelease seq level) s := ⟨329416, rfl, execClaimRelease_ans seq level s rfl⟩
theorem claimReleaseEnd_within (claim : Nat) (s : State) : Within (.claimReleaseEnd claim) s := ⟨3196872, rfl, execClaimReleaseEnd_ans claim s rfl⟩
theorem arbitrationFrameStart_within (core : Bool) (idx : Nat) (s : State) : Within (.arbitrationFrameStart core idx) s := ⟨128, rfl, execArbitrationFrameStart_ans core idx s rfl⟩
theorem arbitrationGrant_within (core : Bool) (idx ns : Nat) (s : State) : Within (.arbitrationGrant core idx ns) s := ⟨131208, rfl, execArbitrationGrant_ans core idx ns s rfl⟩
theorem evtRingEnable_within (ring v : Nat) (s : State) : Within (.evtRingEnable ring v) s := ⟨4194368, rfl, execEvtRingEnable_ans ring v s rfl⟩
theorem evtRingConsumedWrite_within (ring v : Nat) (s : State) : Within (.evtRingConsumedWrite ring v) s := ⟨4194368, rfl, execEvtRingConsumedWrite_ans ring v s rfl⟩
theorem functionLevelReset_within (claim : Nat) (s : State) : Within (.functionLevelReset claim) s := ⟨1427400, rfl, execFunctionLevelReset_ans claim s rfl⟩
theorem flrComplete_within (claim : Nat) (s : State) : Within (.flrComplete claim) s := ⟨1728, rfl, execFlrComplete_ans claim s rfl⟩
theorem vfEnableClear_within (enable : Bool) (numVfs : Nat) (s : State) : Within (.vfEnableClear enable numVfs) s := ⟨1951688, rfl, execVfEnableClear_ans enable numVfs s rfl⟩
theorem clmRtBindWrite_within (v : Nat) (s : State) : Within (.clmRtBindWrite v) s := ⟨4194368, rfl, execClmRtBindWrite_ans v s rfl⟩
theorem rtBindApply_within (s : State) : Within (.rtBindApply ) s := ⟨64, rfl, execRtBindApply_ans s rfl⟩
theorem shoeDoorbell_within (shoe v : Nat) (s : State) : Within (.shoeDoorbell shoe v) s := ⟨409736, rfl, execShoeDoorbell_ans shoe v s rfl⟩
theorem shoeFetchEntry_within (shoe : Nat) (s : State) : Within (.shoeFetchEntry shoe) s := ⟨1224, rfl, execShoeFetchEntry_ans shoe s rfl⟩
theorem deckReadComplete_within (shoe : Nat) (entry deck : HostResp) (s : State) : Within (.deckReadComplete shoe entry deck) s := ⟨524424, rfl, execDeckReadComplete_ans shoe entry deck s rfl⟩
theorem itemStart_within (shoe : Nat) (s : State) : Within (.itemStart shoe) s := ⟨3665914, rfl, execItemStart_ans shoe s rfl⟩
theorem nop_within (shoe seq level : Nat) (s : State) : Within (.nop shoe seq level) s := ⟨66760, rfl, execNop_ans shoe seq level s rfl⟩
theorem matmul_within (shoe seq level : Nat) (s : State) : Within (.matmul shoe seq level) s := ⟨66760, rfl, execMatmul_ans shoe seq level s rfl⟩
theorem attend_within (shoe seq level : Nat) (s : State) : Within (.attend shoe seq level) s := ⟨66760, rfl, execAttend_ans shoe seq level s rfl⟩
theorem attendBwd_within (shoe seq level : Nat) (s : State) : Within (.attendBwd shoe seq level) s := ⟨66760, rfl, execAttendBwd_ans shoe seq level s rfl⟩
theorem sfn_within (shoe seq level : Nat) (s : State) : Within (.sfn shoe seq level) s := ⟨66760, rfl, execSfn_ans shoe seq level s rfl⟩
theorem norm_within (shoe seq level : Nat) (s : State) : Within (.norm shoe seq level) s := ⟨66760, rfl, execNorm_ans shoe seq level s rfl⟩
theorem reduceCmd_within (shoe seq level : Nat) (s : State) : Within (.reduceCmd shoe seq level) s := ⟨66760, rfl, execReduceCmd_ans shoe seq level s rfl⟩
theorem hoist_within (shoe seq level : Nat) (s : State) : Within (.hoist shoe seq level) s := ⟨66760, rfl, execHoist_ans shoe seq level s rfl⟩
theorem convertCmd_within (shoe seq level : Nat) (s : State) : Within (.convertCmd shoe seq level) s := ⟨66760, rfl, execConvertCmd_ans shoe seq level s rfl⟩
theorem assayRerank_within (shoe seq level : Nat) (s : State) : Within (.assayRerank shoe seq level) s := ⟨66760, rfl, execAssayRerank_ans shoe seq level s rfl⟩
theorem macroDispatch_within (shoe seq level granule : Nat) (s : State) : Within (.macroDispatch shoe seq level granule) s := ⟨3665914, rfl, execMacroDispatch_ans shoe seq level granule s rfl⟩
theorem macroStart_within (part : Nat) (s : State) : Within (.macroStart part) s := ⟨321480, rfl, execMacroStart_ans part s rfl⟩
theorem tileGroupEnd_within (core ns : Nat) (bad : Option (HeadFault × Nat × Nat × Nat)) (s : State) : Within (.tileGroupEnd core ns bad) s := ⟨520152, rfl, execTileGroupEnd_ans core ns bad s rfl⟩
theorem macroComplete_within (part : Nat) (s : State) : Within (.macroComplete part) s := ⟨321480, rfl, execMacroComplete_ans part s rfl⟩
theorem p1Entry_within (core : Nat) (s : State) : Within (.p1Entry core) s := ⟨128, rfl, execP1Entry_ans core s rfl⟩
theorem laneDeck_within (shoe seq level granule : Nat) (deck : HostResp) (s : State) : Within (.laneDeck shoe seq level granule deck) s := ⟨4190202, rfl, execLaneDeck_ans shoe seq level granule deck s rfl⟩
theorem laneDeckComplete_within (shoe seq level : Nat) (s : State) : Within (.laneDeckComplete shoe seq level) s := ⟨128, rfl, execLaneDeckComplete_ans shoe seq level s rfl⟩
theorem tallyAdd_within (shoe seq level : Nat) (s : State) : Within (.tallyAdd shoe seq level) s := ⟨116424, rfl, execTallyAdd_ans shoe seq level s rfl⟩
theorem tallySet_within (shoe seq level : Nat) (s : State) : Within (.tallySet shoe seq level) s := ⟨116424, rfl, execTallySet_ans shoe seq level s rfl⟩
theorem tallyWaitGe_within (shoe seq level : Nat) (s : State) : Within (.tallyWaitGe shoe seq level) s := ⟨116424, rfl, execTallyWaitGe_ans shoe seq level s rfl⟩
theorem tallyWaitEq_within (shoe seq level : Nat) (s : State) : Within (.tallyWaitEq shoe seq level) s := ⟨116424, rfl, execTallyWaitEq_ans shoe seq level s rfl⟩
theorem tallyArm_within (shoe seq level : Nat) (s : State) : Within (.tallyArm shoe seq level) s := ⟨116424, rfl, execTallyArm_ans shoe seq level s rfl⟩
theorem tallyPoison_within (shoe seq level : Nat) (s : State) : Within (.tallyPoison shoe seq level) s := ⟨116424, rfl, execTallyPoison_ans shoe seq level s rfl⟩
theorem waitMem_within (shoe seq level : Nat) (s : State) : Within (.waitMem shoe seq level) s := ⟨66760, rfl, execWaitMem_ans shoe seq level s rfl⟩
theorem waitMemPoll_within (shoe seq level granule : Nat) (s : State) : Within (.waitMemPoll shoe seq level granule) s := ⟨136, rfl, execWaitMemPoll_ans shoe seq level granule s rfl⟩
theorem waitMemReadReturn_within (shoe seq level granule : Nat) (value : HostResp) (s : State) : Within (.waitMemReadReturn shoe seq level granule value) s := ⟨524424, rfl, execWaitMemReadReturn_ans shoe seq level granule value s rfl⟩
theorem writeMem_within (shoe seq level : Nat) (s : State) : Within (.writeMem shoe seq level) s := ⟨66760, rfl, execWriteMem_ans shoe seq level s rfl⟩
theorem hostCopy_within (shoe seq level granule bursts : Nat) (data : HostResp) (s : State) : Within (.hostCopy shoe seq level granule bursts data) s := ⟨861640, rfl, execHostCopy_ans shoe seq level granule bursts data s rfl⟩
theorem ifCmd_within (shoe seq level : Nat) (s : State) : Within (.ifCmd shoe seq level) s := ⟨66760, rfl, execIfCmd_ans shoe seq level s rfl⟩
theorem loopCmd_within (shoe seq level : Nat) (s : State) : Within (.loopCmd shoe seq level) s := ⟨66760, rfl, execLoopCmd_ans shoe seq level s rfl⟩
theorem loopIterationStart_within (shoe seq level : Nat) (s : State) : Within (.loopIterationStart shoe seq level) s := ⟨128, rfl, execLoopIterationStart_ans shoe seq level s rfl⟩
theorem callCmd_within (shoe seq level granule : Nat) (deck : HostResp) (s : State) : Within (.callCmd shoe seq level granule deck) s := ⟨4190202, rfl, execCallCmd_ans shoe seq level granule deck s rfl⟩
theorem callComplete_within (shoe seq level : Nat) (s : State) : Within (.callComplete shoe seq level) s := ⟨128, rfl, execCallComplete_ans shoe seq level s rfl⟩
theorem roundArm_within (shoe seq level : Nat) (s : State) : Within (.roundArm shoe seq level) s := ⟨387016, rfl, execRoundArm_ans shoe seq level s rfl⟩
theorem roundDisarm_within (shoe seq level : Nat) (s : State) : Within (.roundDisarm shoe seq level) s := ⟨116680, rfl, execRoundDisarm_ans shoe seq level s rfl⟩
theorem assaySearch_within (shoe seq level : Nat) (s : State) : Within (.assaySearch shoe seq level) s := ⟨2434504, rfl, execAssaySearch_ans shoe seq level s rfl⟩
theorem assayMerge_within (shoe seq level : Nat) (s : State) : Within (.assayMerge shoe seq level) s := ⟨337352, rfl, execAssayMerge_ans shoe seq level s rfl⟩
theorem pageMap_within (shoe seq level : Nat) (s : State) : Within (.pageMap shoe seq level) s := ⟨67016, rfl, execPageMap_ans shoe seq level s rfl⟩
theorem pageUnmap_within (shoe seq level : Nat) (s : State) : Within (.pageUnmap shoe seq level) s := ⟨67016, rfl, execPageUnmap_ans shoe seq level s rfl⟩
theorem pagePromote_within (shoe seq level : Nat) (s : State) : Within (.pagePromote shoe seq level) s := ⟨67016, rfl, execPagePromote_ans shoe seq level s rfl⟩
theorem pageDemote_within (shoe seq level : Nat) (s : State) : Within (.pageDemote shoe seq level) s := ⟨67016, rfl, execPageDemote_ans shoe seq level s rfl⟩
theorem pageMoveCommit_within (table page : Nat) (s : State) : Within (.pageMoveCommit table page) s := ⟨271816, rfl, execPageMoveCommit_ans table page s rfl⟩
theorem clearCmd_within (seq level units : Nat) (s : State) : Within (.clearCmd seq level units) s := ⟨8576, rfl, execClearCmd_ans seq level units s rfl⟩
theorem clearComplete_within (seq level : Nat) (s : State) : Within (.clearComplete seq level) s := ⟨8576, rfl, execClearComplete_ans seq level s rfl⟩
theorem commonLoad_within (seq level : Nat) (data : HostResp) (s : State) : Within (.commonLoad seq level data) s := ⟨796104, rfl, execCommonLoad_ans seq level data s rfl⟩
theorem commonRemove_within (seq level : Nat) (s : State) : Within (.commonRemove seq level) s := ⟨384, rfl, execCommonRemove_ans seq level s rfl⟩
theorem tableLoad_within (seq level : Nat) (table : HostResp) (s : State) : Within (.tableLoad seq level table) s := ⟨524424, rfl, execTableLoad_ans seq level table s rfl⟩
theorem tableLoadCommit_within (slot : Nat) (s : State) : Within (.tableLoadCommit slot) s := ⟨128, rfl, execTableLoadCommit_ans slot s rfl⟩
theorem fenceClear_within (seq level : Nat) (s : State) : Within (.fenceClear seq level) s := ⟨267464, rfl, execFenceClear_ans seq level s rfl⟩
theorem sealCmd_within (seq level : Nat) (flashOk : Bool) (s : State) : Within (.sealCmd seq level flashOk) s := ⟨345306, rfl, execSeal_ans seq level flashOk s rfl⟩
theorem shoeTimeout_within (shoe seq activeUs : Nat) (others : List (Nat × Nat)) (finish : Bool) (s : State) : Within (.shoeTimeout shoe seq activeUs others finish) s := ⟨3665914, rfl, execShoeTimeout_ans shoe seq activeUs others finish s rfl⟩
theorem rtLaneTimeout_within (lane mid : Nat) (finish : Bool) (s : State) : Within (.rtLaneTimeout lane mid finish) s := ⟨3665914, rfl, execRtLaneTimeout_ans lane mid finish s rfl⟩
theorem itemCommit_within (shoe seq : Nat) (s : State) : Within (.itemCommit shoe seq) s := ⟨128, rfl, execItemCommit_ans shoe seq s rfl⟩
theorem outcomeWrite_within (shoe : Nat) (bad : Option (HeadFault × Nat × Nat × Nat)) (s : State) : Within (.outcomeWrite shoe bad) s := ⟨323544, rfl, execOutcomeWrite_ans shoe bad s rfl⟩
theorem moderationTimeout_within (shoe : Nat) (s : State) : Within (.moderationTimeout shoe) s := ⟨1160, rfl, execModerationTimeout_ans shoe s rfl⟩
theorem sheetConsumedWrite_within (shoe v : Nat) (s : State) : Within (.sheetConsumedWrite shoe v) s := ⟨4195528, rfl, execSheetConsumedWrite_ans shoe v s rfl⟩
theorem shoeEnable_within (shoe v : Nat) (feeds : List (Nat × HostResp × HostResp)) (s : State) : Within (.shoeEnable shoe v feeds) s := ⟨6088648, rfl, execShoeEnable_ans shoe v feeds s rfl⟩
theorem shoeDisable_within (shoe v : Nat) (s : State) : Within (.shoeDisable shoe v) s := ⟨4194432, rfl, execShoeDisable_ans shoe v s rfl⟩
theorem sheetEnable_within (shoe v : Nat) (s : State) : Within (.sheetEnable shoe v) s := ⟨4194432, rfl, execSheetEnable_ans shoe v s rfl⟩
theorem shoeFetchWrite_within (shoe v : Nat) (s : State) : Within (.shoeFetchWrite shoe v) s := ⟨4194432, rfl, execShoeFetchWrite_ans shoe v s rfl⟩
theorem ldgLookup_within (shoe : Nat) (s : State) : Within (.ldgLookup shoe) s := ⟨4194432, rfl, execLdgLookup_ans shoe s rfl⟩
theorem tierLookup_within (va table : Nat) (s : State) : Within (.tierLookup va table) s := ⟨4195584, rfl, execTierLookup_ans va table s rfl⟩
theorem tierCommonShareWrite_within (claim v : Nat) (s : State) : Within (.tierCommonShareWrite claim v) s := ⟨4194560, rfl, execTierCommonShareWrite_ans claim v s rfl⟩
theorem tlyOpAdd_within (claim tally v : Nat) (s : State) : Within (.tlyOpAdd claim tally v) s := ⟨4245128, rfl, execTlyOpAdd_ans claim tally v s rfl⟩
theorem tlyOpSet_within (claim tally v : Nat) (s : State) : Within (.tlyOpSet claim tally v) s := ⟨4245128, rfl, execTlyOpSet_ans claim tally v s rfl⟩
theorem tlyOpPoison_within (claim tally : Nat) (s : State) : Within (.tlyOpPoison claim tally) s := ⟨4245128, rfl, execTlyOpPoison_ans claim tally s rfl⟩
theorem tlyHostWaitArm_within (claim slot tally : Nat) (eq : Bool) (threshold : Nat) (s : State) : Within (.tlyHostWaitArm claim slot tally eq threshold) s := ⟨4195848, rfl, execTlyHostWaitArm_ans claim slot tally eq threshold s rfl⟩
theorem tlyDevOpAdd_within (tally v : Nat) (s : State) : Within (.tlyDevOpAdd tally v) s := ⟨4245128, rfl, execTlyDevOpAdd_ans tally v s rfl⟩
theorem tlyDevOpSet_within (tally v : Nat) (s : State) : Within (.tlyDevOpSet tally v) s := ⟨4245128, rfl, execTlyDevOpSet_ans tally v s rfl⟩
theorem tlyDevOpArm_within (tally v : Nat) (s : State) : Within (.tlyDevOpArm tally v) s := ⟨4245128, rfl, execTlyDevOpArm_ans tally v s rfl⟩
theorem tlyDevOpPoison_within (tally : Nat) (s : State) : Within (.tlyDevOpPoison tally) s := ⟨4245128, rfl, execTlyDevOpPoison_ans tally s rfl⟩
theorem trickArriveReceived_within (round index generation : Nat) (origin : Seat) (tag : Nat) (s : State) : Within (.trickArriveReceived round index generation origin tag) s := ⟨50824, rfl, execTrickArriveReceived_ans round index generation origin tag s rfl⟩
theorem trickReleaseReceived_within (round index generation tag : Nat) (s : State) : Within (.trickReleaseReceived round index generation tag) s := ⟨50824, rfl, execTrickReleaseReceived_ans round index generation tag s rfl⟩
theorem trickPoisonReceived_within (round index : Nat) (origin : Seat) (tag : Nat) (s : State) : Within (.trickPoisonReceived round index origin tag) s := ⟨51080, rfl, execTrickPoisonReceived_ans round index origin tag s rfl⟩
theorem portTrainingStart_within (port : Nat) (result : TrainResult) (s : State) : Within (.portTrainingStart port result) s := ⟨279624, rfl, execPortTrainingStart_ans port result s rfl⟩
theorem portTrainingTimeout_within (port : Nat) (s : State) : Within (.portTrainingTimeout port) s := ⟨313288, rfl, execPortTrainingTimeout_ans port s rfl⟩
theorem portRetrainTimer_within (port : Nat) (result : TrainResult) (s : State) : Within (.portRetrainTimer port result) s := ⟨279624, rfl, execPortRetrainTimer_ans port result s rfl⟩
theorem helloReceived_within (port : Nat) (payload : List Byte) (s : State) : Within (.helloReceived port payload) s := ⟨313288, rfl, execHelloReceived_ans port payload s rfl⟩
theorem quarantineReceived_within (port : Nat) (s : State) : Within (.quarantineReceived port) s := ⟨313288, rfl, execQuarantineReceived_ans port s rfl⟩
theorem flitReceived_within (port lane : Nat) (bytes : List Byte) (dest : Seat) (ns : Nat) (s : State) : Within (.flitReceived port lane bytes dest ns) s := ⟨2424810, rfl, execFlitReceived_ans port lane bytes dest ns s rfl⟩
theorem nakReceived_within (port lane ack : Nat) (s : State) : Within (.nakReceived port lane ack) s := ⟨313288, rfl, execNakReceived_ans port lane ack s rfl⟩
theorem replayLimitReached_within (port lane : Nat) (s : State) : Within (.replayLimitReached port lane) s := ⟨313288, rfl, execReplayLimitReached_ans port lane s rfl⟩
theorem laneFailure_within (port lane : Nat) (s : State) : Within (.laneFailure port lane) s := ⟨313288, rfl, execLaneFailure_ans port lane s rfl⟩
theorem lanesReceived_within (port bitmap : Nat) (s : State) : Within (.lanesReceived port bitmap) s := ⟨313288, rfl, execLanesReceived_ans port bitmap s rfl⟩
theorem lanesAckReceived_within (port bitmap : Nat) (s : State) : Within (.lanesAckReceived port bitmap) s := ⟨279624, rfl, execLanesAckReceived_ans port bitmap s rfl⟩
theorem portFailure_within (port : Nat) (s : State) : Within (.portFailure port) s := ⟨313288, rfl, execPortFailure_ans port s rfl⟩
theorem echoTimer_within (s : State) : Within (.echoTimer ) s := ⟨16384, rfl, execEchoTimer_ans s rfl⟩
theorem echoReceived_within (port : Nat) (payload : List Byte) (ns : Nat) (s : State) : Within (.echoReceived port payload ns) s := ⟨16384, rfl, execEchoReceived_ans port payload ns s rfl⟩
theorem handReceived_within (header data : List Byte) (crcOk : Bool) (s : State) : Within (.handReceived header data crcOk) s := ⟨321480, rfl, execHandReceived_ans header data crcOk s rfl⟩
theorem putReceived_within (header data : List Byte) (crcOk : Bool) (s : State) : Within (.putReceived header data crcOk) s := ⟨321482, rfl, execPutReceived_ans header data crcOk s rfl⟩
theorem signalReceived_within (header : List Byte) (s : State) : Within (.signalReceived header) s := ⟨50824, rfl, execSignalReceived_ans header s rfl⟩
theorem receiptReceived_within (header : List Byte) (s : State) : Within (.receiptReceived header) s := ⟨321480, rfl, execReceiptReceived_ans header s rfl⟩
theorem abortReceived_within (header : List Byte) (s : State) : Within (.abortReceived header) s := ⟨49152, rfl, execAbortReceived_ans header s rfl⟩
theorem receiptTimeout_within (transfer : Nat) (s : State) : Within (.receiptTimeout transfer) s := ⟨51080, rfl, execReceiptTimeout_ans transfer s rfl⟩
theorem messageForward_within (port cls : Nat) (trick : Bool) (dest : Seat) (header data trailer : List Byte) (s : State) : Within (.messageForward port cls trick dest header data trailer) s := ⟨49152, rfl, execMessageForward_ans port cls trick dest header data trailer s rfl⟩
theorem szlHoldDown_within (port : Nat) (hold : Bool) (s : State) : Within (.szlHoldDown port hold) s := ⟨4507592, rfl, execSzlHoldDown_ans port hold s rfl⟩
theorem szlRetrain_within (port : Nat) (result : TrainResult) (s : State) : Within (.szlRetrain port result) s := ⟨4507592, rfl, execSzlRetrain_ans port result s rfl⟩
theorem szlClearCounters_within (port : Nat) (s : State) : Within (.szlClearCounters port) s := ⟨4210688, rfl, execSzlClearCounters_ans port s rfl⟩
theorem szlpLinkFailure_within (link : Nat) (s : State) : Within (.szlpLinkFailure link) s := ⟨323544, rfl, execSzlpLinkFailure_ans link s rfl⟩
theorem szlpRetrain_within (link : Nat) (ok : Bool) (s : State) : Within (.szlpRetrain link ok) s := ⟨279624, rfl, execSzlpRetrain_ans link ok s rfl⟩
theorem failedPortIdle_within (s : State) : Within (.failedPortIdle ) s := ⟨312392, rfl, execFailedPortIdle_ans s rfl⟩
theorem roundStepTrigger_within (ctrl : Nat) (s : State) : Within (.roundStepTrigger ctrl) s := ⟨321480, rfl, execRoundStepTrigger_ans ctrl s rfl⟩
theorem roundHandSend_within (ctrl : Nat) (s : State) : Within (.roundHandSend ctrl) s := ⟨321480, rfl, execRoundHandSend_ans ctrl s rfl⟩
theorem passTimeout_within (ctrl : Nat) (s : State) : Within (.passTimeout ctrl) s := ⟨51080, rfl, execPassTimeout_ans ctrl s rfl⟩
theorem pcieLinkTrain_within (gen width : Nat) (s : State) : Within (.pcieLinkTrain gen width) s := ⟨524288, rfl, execPcieLinkTrain_ans gen width s rfl⟩
theorem pcieLinkDown_within (s : State) : Within (.pcieLinkDown ) s := ⟨1951688, rfl, execPcieLinkDown_ans s rfl⟩
theorem pfFunctionLevelReset_within (s : State) : Within (.pfFunctionLevelReset ) s := ⟨1951688, rfl, execPfFunctionLevelReset_ans s rfl⟩
theorem busMasterEnableWrite_within (fn : Nat) (on : Bool) (context : HostResp) (feeds : List (Nat × HostResp × HostResp)) (s : State) : Within (.busMasterEnableWrite fn on context feeds) s := ⟨1894344, rfl, execBusMasterEnableWrite_ans fn on context feeds s rfl⟩
theorem d3hotTransition_within (fn : Nat) (d3hot : Bool) (context : HostResp) (feeds : List (Nat × HostResp × HostResp)) (s : State) : Within (.d3hotTransition fn d3hot context feeds) s := ⟨1894344, rfl, execD3hotTransition_ans fn d3hot context feeds s rfl⟩
theorem msixMaskChange_within (fn : Nat) (enable mask : Bool) (vector : Nat) (masked : Bool) (s : State) : Within (.msixMaskChange fn enable mask vector masked) s := ⟨1032, rfl, execMsixMaskChange_ans fn enable mask vector masked s rfl⟩
theorem hstWinWrite_within (fn window : Nat) (limit : Bool) (v : Nat) (s : State) : Within (.hstWinWrite fn window limit v) s := ⟨4195328, rfl, execHstWinWrite_ans fn window limit v s rfl⟩
theorem unsupportedRequestReceived_within (fn : Nat) (s : State) : Within (.unsupportedRequestReceived fn) s := ⟨524296, rfl, execUnsupportedRequestReceived_ans fn s rfl⟩
theorem hostReadError_within (target : ReadTarget) (s : State) : Within (.hostReadError target) s := ⟨8388602, rfl, execHostReadError_ans target s rfl⟩
theorem ethLinkNegotiate_within (port : Nat) (linked : Bool) (s : State) : Within (.ethLinkNegotiate port linked) s := ⟨1048576, rfl, execEthLinkNegotiate_ans port linked s rfl⟩
theorem ethFrameReceived_within (port : Nat) (good : Bool) (fill : Nat) (frame : List Byte) (s : State) : Within (.ethFrameReceived port good fill frame) s := ⟨1048584, rfl, execEthFrameReceived_ans port good fill frame s rfl⟩
theorem rawRxConsumedWrite_within (v : Nat) (s : State) : Within (.rawRxConsumedWrite v) s := ⟨5242880, rfl, execRawRxConsumedWrite_ans v s rfl⟩
theorem rawTxProduce_within (v : Nat) (feeds : List HostResp) (s : State) : Within (.rawTxProduce v feeds) s := ⟨5767176, rfl, execRawTxProduce_ans v feeds s rfl⟩
theorem qpCreate_within (claim : Nat) (context : HostResp) (s : State) : Within (.qpCreate claim context) s := ⟨5767176, rfl, execQpCreate_ans claim context s rfl⟩
theorem qpModify_within (claim handle : Nat) (context : HostResp) (s : State) : Within (.qpModify claim handle context) s := ⟨5817992, rfl, execQpModify_ans claim handle context s rfl⟩
theorem qpDestroy_within (claim handle : Nat) (s : State) : Within (.qpDestroy claim handle) s := ⟨5242880, rfl, execQpDestroy_ans claim handle s rfl⟩
theorem qpQuery_within (claim handle : Nat) (s : State) : Within (.qpQuery claim handle) s := ⟨5242888, rfl, execQpQuery_ans claim handle s rfl⟩
theorem sqDoorbell_within (claim handle v : Nat) (feeds : List (HostResp × HostResp)) (s : State) : Within (.sqDoorbell claim handle v feeds) s := ⟨6088648, rfl, execSqDoorbell_ans claim handle v feeds s rfl⟩
theorem rqDoorbell_within (claim handle v : Nat) (feeds : List HostResp) (s : State) : Within (.rqDoorbell claim handle v feeds) s := ⟨5817992, rfl, execRqDoorbell_ans claim handle v feeds s rfl⟩
theorem cqConsumedWrite_within (claim handle v : Nat) (feeds : List (HostResp × HostResp)) (s : State) : Within (.cqConsumedWrite claim handle v feeds) s := ⟨6088648, rfl, execCqConsumedWrite_ans claim handle v feeds s rfl⟩
theorem roceAckReceived_within (claim handle psn : Nat) (reads : List (List Byte)) (feeds : List (HostResp × HostResp)) (s : State) : Within (.roceAckReceived claim handle psn reads feeds) s := ⟨1894344, rfl, execRoceAckReceived_ans claim handle psn reads feeds s rfl⟩
theorem roceNakReceived_within (claim handle psn code : Nat) (reads : List (List Byte)) (s : State) : Within (.roceNakReceived claim handle psn code reads) s := ⟨1370056, rfl, execRoceNakReceived_ans claim handle psn code reads s rfl⟩
theorem qpAckTimeout_within (claim handle : Nat) (s : State) : Within (.qpAckTimeout claim handle) s := ⟨1099400, rfl, execQpAckTimeout_ans claim handle s rfl⟩
theorem rdmaWriteReceived_within (claim handle psn rkey addr : Nat) (payload : List Byte) (imm : Option Nat) (feeds : List HostResp) (s : State) : Within (.rdmaWriteReceived claim handle psn rkey addr payload imm feeds) s := ⟨1894344, rfl, execRdmaWriteReceived_ans claim handle psn rkey addr payload imm feeds s rfl⟩
theorem rdmaReadReceived_within (claim handle psn rkey addr len : Nat) (data : HostResp) (s : State) : Within (.rdmaReadReceived claim handle psn rkey addr len data) s := ⟨1894344, rfl, execRdmaReadReceived_ans claim handle psn rkey addr len data s rfl⟩
theorem roceSendReceived_within (claim handle psn : Nat) (payload : List Byte) (imm : Option Nat) (feeds : List HostResp) (s : State) : Within (.roceSendReceived claim handle psn payload imm feeds) s := ⟨1894344, rfl, execRoceSendReceived_ans claim handle psn payload imm feeds s rfl⟩
theorem cnpReceived_within (claim handle : Nat) (s : State) : Within (.cnpReceived claim handle) s := ⟨1048576, rfl, execCnpReceived_ans claim handle s rfl⟩
theorem cePacketReceived_within (claim handle : Nat) (s : State) : Within (.cePacketReceived claim handle) s := ⟨1048584, rfl, execCePacketReceived_ans claim handle s rfl⟩
theorem rateIncreaseTimer_within (claim handle : Nat) (s : State) : Within (.rateIncreaseTimer claim handle) s := ⟨1048576, rfl, execRateIncreaseTimer_ans claim handle s rfl⟩
theorem pfcFrameReceived_within (port priority : Nat) (xoff : Bool) (s : State) : Within (.pfcFrameReceived port priority xoff) s := ⟨1048584, rfl, execPfcFrameReceived_ans port priority xoff s rfl⟩
theorem entMrWrite_within (claim region word v : Nat) (s : State) : Within (.entMrWrite claim region word v) s := ⟨5243904, rfl, execEntMrWrite_ans claim region word v s rfl⟩
theorem entGidCommit_within (port gid v : Nat) (s : State) : Within (.entGidCommit port gid v) s := ⟨5243904, rfl, execEntGidCommit_ans port gid v s rfl⟩
theorem asyIndexBind_within (index va claim : Nat) (s : State) : Within (.asyIndexBind index va claim) s := ⟨6563272, rfl, execAsyIndexBind_ans index va claim s rfl⟩
theorem asyIndexUnbind_within (index v : Nat) (s : State) : Within (.asyIndexUnbind index v) s := ⟨6563272, rfl, execAsyIndexUnbind_ans index v s rfl⟩
theorem batchComplete_within (s : State) : Within (.batchComplete ) s := ⟨2368968, rfl, execBatchComplete_ans s rfl⟩
theorem continuousBatch_within (s : State) : Within (.continuousBatch ) s := ⟨2368840, rfl, execContinuousBatch_ans s rfl⟩
theorem asyAdvanceWrite_within (index : Nat) (s : State) : Within (.asyAdvanceWrite index) s := ⟨6563272, rfl, execAsyAdvanceWrite_ans index s rfl⟩
theorem backfill_within (s : State) : Within (.backfill ) s := ⟨2368968, rfl, execBackfill_ans s rfl⟩
theorem eccWriteBack_within (s : State) : Within (.eccWriteBack ) s := ⟨8448, rfl, execEccWriteBack_ans s rfl⟩
theorem eccCeOverClear_within (die group : Nat) (s : State) : Within (.eccCeOverClear die group) s := ⟨4202496, rfl, execEccCeOverClear_ans die group s rfl⟩
theorem eccLogRelease_within (die entry : Nat) (s : State) : Within (.eccLogRelease die entry) s := ⟨4202496, rfl, execEccLogRelease_ans die entry s rfl⟩
theorem eccPatchInstall_within (die mac row word : Nat) (s : State) : Within (.eccPatchInstall die mac row word) s := ⟨4203776, rfl, execEccPatchInstall_ans die mac row word s rfl⟩
theorem eccPatchRemove_within (die mac row word : Nat) (s : State) : Within (.eccPatchRemove die mac row word) s := ⟨4203776, rfl, execEccPatchRemove_ans die mac row word s rfl⟩
theorem eccTestWriteNormal_within (s : State) : Within (.eccTestWriteNormal ) s := ⟨4466120, rfl, execEccTestWriteNormal_ans s rfl⟩
theorem eccTestWriteSplit_within (s : State) : Within (.eccTestWriteSplit ) s := ⟨4466120, rfl, execEccTestWriteSplit_ans s rfl⟩
theorem eccTestRead_within (s : State) : Within (.eccTestRead ) s := ⟨4466120, rfl, execEccTestRead_ans s rfl⟩
theorem eccTestArmFlip_within (s : State) : Within (.eccTestArmFlip ) s := ⟨4466120, rfl, execEccTestArmFlip_ans s rfl⟩
theorem redealRequest_within (finish : Bool) (s : State) : Within (.redealRequest finish) s := ⟨7860218, rfl, execRedealRequest_ans finish s rfl⟩
theorem redealWalkEnd_within (s : State) : Within (.redealWalkEnd ) s := ⟨273880, rfl, execRedealWalkEnd_ans s rfl⟩
theorem redealResume_within (s : State) : Within (.redealResume ) s := ⟨4459736, rfl, execRedealResume_ans s rfl⟩
theorem redealBoundExpiry_within (s : State) : Within (.redealBoundExpiry ) s := ⟨323544, rfl, execRedealBoundExpiry_ans s rfl⟩
theorem redealStallAlert_within (s : State) : Within (.redealStallAlert ) s := ⟨262152, rfl, execRedealStallAlert_ans s rfl⟩
theorem resetLFall_within (s : State) : Within (.resetLFall ) s := ⟨8388600, rfl, execResetLFall_ans s rfl⟩
theorem pwrokFall_within (s : State) : Within (.pwrokFall ) s := ⟨8388600, rfl, execPwrokFall_ans s rfl⟩
theorem stbyPwrokFall_within (s : State) : Within (.stbyPwrokFall ) s := ⟨8388600, rfl, execStbyPwrokFall_ans s rfl⟩
theorem resetHeldAlert_within (s : State) : Within (.resetHeldAlert ) s := ⟨262168, rfl, execResetHeldAlert_ans s rfl⟩
theorem dealerUnitFault_within (cls unit : Nat) (s : State) : Within (.dealerUnitFault cls unit) s := ⟨317384, rfl, execDealerUnitFault_ans cls unit s rfl⟩
theorem lamphouseUnitDisable_within (cls unit : Nat) (power : Bool) (s : State) : Within (.lamphouseUnitDisable cls unit power) s := ⟨317384, rfl, execLamphouseUnitDisable_ans cls unit power s rfl⟩
theorem secKeySlot_within (block : HostResp) (verified : Bool) (s : State) : Within (.secKeySlot block verified) s := ⟨853082, rfl, execSecKeySlot_ans block verified s rfl⟩
theorem secDebugGrant_within (block : HostResp) (s : State) : Within (.secDebugGrant block) s := ⟨853066, rfl, execSecDebugGrant_ans block s rfl⟩
theorem secDebugRevoke_within (claim : Nat) (s : State) : Within (.secDebugRevoke claim) s := ⟨329416, rfl, execSecDebugRevoke_ans claim s rfl⟩
theorem secVendorOpen_within (block : HostResp) (env : BootEnv) (s : State) : Within (.secVendorOpen block env) s := ⟨8388602, rfl, execSecVendorOpen_ans block env s rfl⟩
theorem debugGrantExpiry_within (claim : Nat) (s : State) : Within (.debugGrantExpiry claim) s := ⟨329416, rfl, execDebugGrantExpiry_ans claim s rfl⟩
theorem dbgHalt_within (claim : Nat) (s : State) : Within (.dbgHalt claim) s := ⟨65664, rfl, execDbgHalt_ans claim s rfl⟩
theorem dbgResume_within (claim : Nat) (s : State) : Within (.dbgResume claim) s := ⟨66176, rfl, execDbgResume_ans claim s rfl⟩
theorem dbgStep_within (claim : Nat) (s : State) : Within (.dbgStep claim) s := ⟨65664, rfl, execDbgStep_ans claim s rfl⟩
theorem dbgObserve_within (claim v : Nat) (s : State) : Within (.dbgObserve claim v) s := ⟨65664, rfl, execDbgObserve_ans claim v s rfl⟩
theorem jtagIdcode_within (s : State) : Within (.jtagIdcode ) s := ⟨65544, rfl, execJtagIdcode_ans s rfl⟩
theorem jtagBypass_within (s : State) : Within (.jtagBypass ) s := ⟨65544, rfl, execJtagBypass_ans s rfl⟩
theorem jtagSamplePreload_within (v : Nat) (s : State) : Within (.jtagSamplePreload v) s := ⟨65544, rfl, execJtagSamplePreload_ans v s rfl⟩
theorem jtagExtest_within (v : Nat) (s : State) : Within (.jtagExtest v) s := ⟨65544, rfl, execJtagExtest_ans v s rfl⟩
theorem jtagDebugAccess_within (action : DapAction) (s : State) : Within (.jtagDebugAccess action) s := ⟨66184, rfl, execJtagDebugAccess_ans action s rfl⟩
theorem pwrRequestP2_within (wake : Bool) (s : State) : Within (.pwrRequestP2 wake) s := ⟨8388600, rfl, execPwrRequestP2_ans wake s rfl⟩
theorem pwrRequestP0_within (wake : Bool) (s : State) : Within (.pwrRequestP0 wake) s := ⟨8388600, rfl, execPwrRequestP0_ans wake s rfl⟩
theorem pwrRequestP3_within (wake : Bool) (s : State) : Within (.pwrRequestP3 wake) s := ⟨8388600, rfl, execPwrRequestP3_ans wake s rfl⟩
theorem powerLimitCheck_within (avg sample : Nat) (s : State) : Within (.powerLimitCheck avg sample) s := ⟨393352, rfl, execPowerLimitCheck_ans avg sample s rfl⟩
theorem thermalSample_within (temps : List Int) (s : State) : Within (.thermalSample temps) s := ⟨8388600, rfl, execThermalSample_ans temps s rfl⟩
theorem avsbusCommandTimeout_within (rail readBack : Nat) (s : State) : Within (.avsbusCommandTimeout rail readBack) s := ⟨131080, rfl, execAvsbusCommandTimeout_ans rail readBack s rfl⟩
theorem railMonitorFault_within (s : State) : Within (.railMonitorFault ) s := ⟨8388600, rfl, execRailMonitorFault_ans s rfl⟩
theorem refclkSzLoss_within (s : State) : Within (.refclkSzLoss ) s := ⟨8388600, rfl, execRefclkSzLoss_ans s rfl⟩
theorem crystalLoss_within (s : State) : Within (.crystalLoss ) s := ⟨8388600, rfl, execCrystalLoss_ans s rfl⟩
theorem qualifiedPwrokRestore_within (env : BootEnv) (s : State) : Within (.qualifiedPwrokRestore env) s := ⟨8388602, rfl, execQualifiedPwrokRestore_ans env s rfl⟩
theorem mctpPacketReceived_within (packet : List Byte) (pecOk hardwareOk : Bool) (env : BootEnv) (s : State) : Within (.mctpPacketReceived packet pecOk hardwareOk env) s := ⟨8388602, rfl, execMctpPacketReceived_ans packet pecOk hardwareOk env s rfl⟩
theorem setEndpointId_within (eid : Nat) (s : State) : Within (.setEndpointId eid) s := ⟨262152, rfl, execSetEndpointId_ans eid s rfl⟩
theorem getNonce_within (s : State) : Within (.getNonce ) s := ⟨8, rfl, execGetNonce_ans s rfl⟩
theorem mgmtSecurityKeySlot_within (block : List Byte) (verified : Bool) (s : State) : Within (.mgmtSecurityKeySlot block verified) s := ⟨328794, rfl, execMgmtSecurityKeySlot_ans block verified s rfl⟩
theorem mgmtSecurityDebugGrant_within (block : List Byte) (s : State) : Within (.mgmtSecurityDebugGrant block) s := ⟨328778, rfl, execMgmtSecurityDebugGrant_ans block s rfl⟩
theorem mgmtSecurityDebugRevoke_within (claim : Nat) (s : State) : Within (.mgmtSecurityDebugRevoke claim) s := ⟨329416, rfl, execMgmtSecurityDebugRevoke_ans claim s rfl⟩
theorem mgmtSecurityVendorOpen_within (block : List Byte) (env : BootEnv) (s : State) : Within (.mgmtSecurityVendorOpen block env) s := ⟨8388602, rfl, execMgmtSecurityVendorOpen_ans block env s rfl⟩
theorem flashRead_within (off len : Nat) (s : State) : Within (.flashRead off len) s := ⟨8, rfl, execFlashRead_ans off len s rfl⟩
theorem flashErase_within (off count : Nat) (ok : Bool) (s : State) : Within (.flashErase off count ok) s := ⟨262170, rfl, execFlashErase_ans off count ok s rfl⟩
theorem flashWrite_within (off : Nat) (data : List Byte) (ok : Bool) (s : State) : Within (.flashWrite off data ok) s := ⟨262170, rfl, execFlashWrite_ans off data ok s rfl⟩
theorem bootRetry_within (env : BootEnv) (s : State) : Within (.bootRetry env) s := ⟨8388602, rfl, execBootRetry_ans env s rfl⟩
theorem getTid_within (s : State) : Within (.getTid ) s := ⟨8, rfl, execGetTid_ans s rfl⟩
theorem setTid_within (tid : Nat) (s : State) : Within (.setTid tid) s := ⟨262152, rfl, execSetTid_ans tid s rfl⟩
theorem getPldmVersion_within (type : Nat) (s : State) : Within (.getPldmVersion type) s := ⟨10, rfl, execGetPldmVersion_ans type s rfl⟩
theorem getPldmTypes_within (s : State) : Within (.getPldmTypes ) s := ⟨8, rfl, execGetPldmTypes_ans s rfl⟩
theorem getPldmCommands_within (type : Nat) (s : State) : Within (.getPldmCommands type) s := ⟨8, rfl, execGetPldmCommands_ans type s rfl⟩
theorem getPdrRepositoryInfo_within (s : State) : Within (.getPdrRepositoryInfo ) s := ⟨8, rfl, execGetPdrRepositoryInfo_ans s rfl⟩
theorem getPdr_within (handle : Nat) (s : State) : Within (.getPdr handle) s := ⟨8, rfl, execGetPdr_ans handle s rfl⟩
theorem getSensorReading_within (id : Nat) (s : State) : Within (.getSensorReading id) s := ⟨8, rfl, execGetSensorReading_ans id s rfl⟩
theorem getStateSensorReadings_within (id : Nat) (s : State) : Within (.getStateSensorReadings id) s := ⟨8, rfl, execGetStateSensorReadings_ans id s rfl⟩
theorem getNumericEffecterValue_within (id : Nat) (s : State) : Within (.getNumericEffecterValue id) s := ⟨10, rfl, execGetNumericEffecterValue_ans id s rfl⟩
theorem getStateEffecterStates_within (id : Nat) (s : State) : Within (.getStateEffecterStates id) s := ⟨8, rfl, execGetStateEffecterStates_ans id s rfl⟩
theorem powerRequestEffecter_within (request : Nat) (env : BootEnv) (s : State) : Within (.powerRequestEffecter request env) s := ⟨8388602, rfl, execPowerRequestEffecter_ans request env s rfl⟩
theorem powerLimitEffecter_within (watts : Nat) (s : State) : Within (.powerLimitEffecter watts) s := ⟨131080, rfl, execPowerLimitEffecter_ans watts s rfl⟩
theorem alertAcknowledge_within (causes : Nat) (s : State) : Within (.alertAcknowledge causes) s := ⟨262152, rfl, execAlertAcknowledge_ans causes s rfl⟩
theorem alertMask_within (causes : Nat) (s : State) : Within (.alertMask causes) s := ⟨262152, rfl, execAlertMask_ans causes s rfl⟩
theorem setEventReceiver_within (mode receiver : Nat) (s : State) : Within (.setEventReceiver mode receiver) s := ⟨262152, rfl, execSetEventReceiver_ans mode receiver s rfl⟩
theorem pollForPlatformEventMessage_within (s : State) : Within (.pollForPlatformEventMessage ) s := ⟨262152, rfl, execPollForPlatformEventMessage_ans s rfl⟩
theorem platformEventMessage_within (s : State) : Within (.platformEventMessage ) s := ⟨262152, rfl, execPlatformEventMessage_ans s rfl⟩
theorem platformEventRetry_within (s : State) : Within (.platformEventRetry ) s := ⟨262152, rfl, execPlatformEventRetry_ans s rfl⟩
theorem platformEventAck_within (s : State) : Within (.platformEventAck ) s := ⟨262144, rfl, execPlatformEventAck_ans s rfl⟩
theorem getVersion_within (s : State) : Within (.getVersion ) s := ⟨262152, rfl, execGetVersion_ans s rfl⟩
theorem getCapabilities_within (s : State) : Within (.getCapabilities ) s := ⟨262152, rfl, execGetCapabilities_ans s rfl⟩
theorem negotiateAlgorithms_within (s : State) : Within (.negotiateAlgorithms ) s := ⟨262152, rfl, execNegotiateAlgorithms_ans s rfl⟩
theorem getDigests_within (s : State) : Within (.getDigests ) s := ⟨8, rfl, execGetDigests_ans s rfl⟩
theorem getCertificate_within (slot off len : Nat) (s : State) : Within (.getCertificate slot off len) s := ⟨8, rfl, execGetCertificate_ans slot off len s rfl⟩
theorem challenge_within (nonce : List Byte) (s : State) : Within (.challenge nonce) s := ⟨10, rfl, execChallenge_ans nonce s rfl⟩
theorem getMeasurements_within (index : Nat) (signed : Bool) (nonce : List Byte) (s : State) : Within (.getMeasurements index signed nonce) s := ⟨8, rfl, execGetMeasurements_ans index signed nonce s rfl⟩
theorem vfEnableSet_within (numVfs : Nat) (s : State) : Within (.vfEnableSet numVfs) s := ⟨524288, rfl, execVfEnableSet_ans numVfs s rfl⟩
theorem ethLinkLoss_within (port : Nat) (s : State) : Within (.ethLinkLoss port) s := ⟨1048576, rfl, execEthLinkLoss_ans port s rfl⟩
theorem rnrTimerExpiry_within (claim handle : Nat) (s : State) : Within (.rnrTimerExpiry claim handle) s := ⟨1099400, rfl, execRnrTimerExpiry_ans claim handle s rfl⟩

/-- Every command completes within its parts. -/
theorem exec_within (i : Instr) (s : State) : Within i s := by
  cases i with
  | registerWrite fn off width v => exact registerWrite_within fn off width v s
  | regLowHalfRead fn off width => exact regLowHalfRead_within fn off width s
  | regLowHalfWrite fn off v => exact regLowHalfWrite_within fn off v s
  | regHighHalfWrite fn off v => exact regHighHalfWrite_within fn off v s
  | pwrMeasureRead wide => exact pwrMeasureRead_within wide s
  | stbyPwrokRise flash fuses env => exact stbyPwrokRise_within flash fuses env s
  | flashReadTimeout env => exact flashReadTimeout_within env s
  | bootStepTimeout env => exact bootStepTimeout_within env s
  | resetLRise env => exact resetLRise_within env s
  | pwrokRise env => exact pwrokRise_within env s
  | bootReady us => exact bootReady_within us s
  | pinBeatEdge ns => exact pinBeatEdge_within ns s
  | pinBeatFrame pulses => exact pinBeatFrame_within pulses s
  | reservationApplyTimeout claim => exact reservationApplyTimeout_within claim s
  | linkBeatMessage port hop count ns => exact linkBeatMessage_within port hop count ns s
  | tokenBeatCommit  => exact tokenBeatCommit_within s
  | fillerBeat  => exact fillerBeat_within s
  | beatLoss  => exact beatLoss_within s
  | holdoverBeatEdge  => exact holdoverBeatEdge_within s
  | beatCalCommitArm atBeat => exact beatCalCommitArm_within atBeat s
  | beatCalShadowWrite entry word v => exact beatCalShadowWrite_within entry word v s
  | beatTokenDesignate round => exact beatTokenDesignate_within round s
  | shareSet idx => exact shareSet_within idx s
  | scrubSlice idx => exact scrubSlice_within idx s
  | heatAge idx => exact heatAge_within idx s
  | assayWindow idx => exact assayWindow_within idx s
  | assayWindowClose  => exact assayWindowClose_within s
  | epochAdvance idx => exact epochAdvance_within idx s
  | rollCall idx views => exact rollCall_within idx views s
  | checkpointWindow idx => exact checkpointWindow_within idx s
  | checkpointWindowEnd  => exact checkpointWindowEnd_within s
  | markCmd idx => exact markCmd_within idx s
  | claimCreate seq level block => exact claimCreate_within seq level block s
  | claimModify seq level block => exact claimModify_within seq level block s
  | claimRelease seq level => exact claimRelease_within seq level s
  | claimReleaseEnd claim => exact claimReleaseEnd_within claim s
  | arbitrationFrameStart core idx => exact arbitrationFrameStart_within core idx s
  | arbitrationGrant core idx ns => exact arbitrationGrant_within core idx ns s
  | evtRingEnable ring v => exact evtRingEnable_within ring v s
  | evtRingConsumedWrite ring v => exact evtRingConsumedWrite_within ring v s
  | functionLevelReset claim => exact functionLevelReset_within claim s
  | flrComplete claim => exact flrComplete_within claim s
  | vfEnableClear enable numVfs => exact vfEnableClear_within enable numVfs s
  | clmRtBindWrite v => exact clmRtBindWrite_within v s
  | rtBindApply  => exact rtBindApply_within s
  | shoeDoorbell shoe v => exact shoeDoorbell_within shoe v s
  | shoeFetchEntry shoe => exact shoeFetchEntry_within shoe s
  | deckReadComplete shoe entry deck => exact deckReadComplete_within shoe entry deck s
  | itemStart shoe => exact itemStart_within shoe s
  | nop shoe seq level => exact nop_within shoe seq level s
  | matmul shoe seq level => exact matmul_within shoe seq level s
  | attend shoe seq level => exact attend_within shoe seq level s
  | attendBwd shoe seq level => exact attendBwd_within shoe seq level s
  | sfn shoe seq level => exact sfn_within shoe seq level s
  | norm shoe seq level => exact norm_within shoe seq level s
  | reduceCmd shoe seq level => exact reduceCmd_within shoe seq level s
  | hoist shoe seq level => exact hoist_within shoe seq level s
  | convertCmd shoe seq level => exact convertCmd_within shoe seq level s
  | assayRerank shoe seq level => exact assayRerank_within shoe seq level s
  | macroDispatch shoe seq level granule => exact macroDispatch_within shoe seq level granule s
  | macroStart part => exact macroStart_within part s
  | tileGroupEnd core ns bad => exact tileGroupEnd_within core ns bad s
  | macroComplete part => exact macroComplete_within part s
  | p1Entry core => exact p1Entry_within core s
  | laneDeck shoe seq level granule deck => exact laneDeck_within shoe seq level granule deck s
  | laneDeckComplete shoe seq level => exact laneDeckComplete_within shoe seq level s
  | tallyAdd shoe seq level => exact tallyAdd_within shoe seq level s
  | tallySet shoe seq level => exact tallySet_within shoe seq level s
  | tallyWaitGe shoe seq level => exact tallyWaitGe_within shoe seq level s
  | tallyWaitEq shoe seq level => exact tallyWaitEq_within shoe seq level s
  | tallyArm shoe seq level => exact tallyArm_within shoe seq level s
  | tallyPoison shoe seq level => exact tallyPoison_within shoe seq level s
  | waitMem shoe seq level => exact waitMem_within shoe seq level s
  | waitMemPoll shoe seq level granule => exact waitMemPoll_within shoe seq level granule s
  | waitMemReadReturn shoe seq level granule value => exact waitMemReadReturn_within shoe seq level granule value s
  | writeMem shoe seq level => exact writeMem_within shoe seq level s
  | hostCopy shoe seq level granule bursts data => exact hostCopy_within shoe seq level granule bursts data s
  | ifCmd shoe seq level => exact ifCmd_within shoe seq level s
  | loopCmd shoe seq level => exact loopCmd_within shoe seq level s
  | loopIterationStart shoe seq level => exact loopIterationStart_within shoe seq level s
  | callCmd shoe seq level granule deck => exact callCmd_within shoe seq level granule deck s
  | callComplete shoe seq level => exact callComplete_within shoe seq level s
  | roundArm shoe seq level => exact roundArm_within shoe seq level s
  | roundDisarm shoe seq level => exact roundDisarm_within shoe seq level s
  | assaySearch shoe seq level => exact assaySearch_within shoe seq level s
  | assayMerge shoe seq level => exact assayMerge_within shoe seq level s
  | pageMap shoe seq level => exact pageMap_within shoe seq level s
  | pageUnmap shoe seq level => exact pageUnmap_within shoe seq level s
  | pagePromote shoe seq level => exact pagePromote_within shoe seq level s
  | pageDemote shoe seq level => exact pageDemote_within shoe seq level s
  | pageMoveCommit table page => exact pageMoveCommit_within table page s
  | clearCmd seq level units => exact clearCmd_within seq level units s
  | clearComplete seq level => exact clearComplete_within seq level s
  | commonLoad seq level data => exact commonLoad_within seq level data s
  | commonRemove seq level => exact commonRemove_within seq level s
  | tableLoad seq level table => exact tableLoad_within seq level table s
  | tableLoadCommit slot => exact tableLoadCommit_within slot s
  | fenceClear seq level => exact fenceClear_within seq level s
  | sealCmd seq level flashOk => exact sealCmd_within seq level flashOk s
  | shoeTimeout shoe seq activeUs others finish => exact shoeTimeout_within shoe seq activeUs others finish s
  | rtLaneTimeout lane mid finish => exact rtLaneTimeout_within lane mid finish s
  | itemCommit shoe seq => exact itemCommit_within shoe seq s
  | outcomeWrite shoe bad => exact outcomeWrite_within shoe bad s
  | moderationTimeout shoe => exact moderationTimeout_within shoe s
  | sheetConsumedWrite shoe v => exact sheetConsumedWrite_within shoe v s
  | shoeEnable shoe v feeds => exact shoeEnable_within shoe v feeds s
  | shoeDisable shoe v => exact shoeDisable_within shoe v s
  | sheetEnable shoe v => exact sheetEnable_within shoe v s
  | shoeFetchWrite shoe v => exact shoeFetchWrite_within shoe v s
  | ldgLookup shoe => exact ldgLookup_within shoe s
  | tierLookup va table => exact tierLookup_within va table s
  | tierCommonShareWrite claim v => exact tierCommonShareWrite_within claim v s
  | tlyOpAdd claim tally v => exact tlyOpAdd_within claim tally v s
  | tlyOpSet claim tally v => exact tlyOpSet_within claim tally v s
  | tlyOpPoison claim tally => exact tlyOpPoison_within claim tally s
  | tlyHostWaitArm claim slot tally eq threshold => exact tlyHostWaitArm_within claim slot tally eq threshold s
  | tlyDevOpAdd tally v => exact tlyDevOpAdd_within tally v s
  | tlyDevOpSet tally v => exact tlyDevOpSet_within tally v s
  | tlyDevOpArm tally v => exact tlyDevOpArm_within tally v s
  | tlyDevOpPoison tally => exact tlyDevOpPoison_within tally s
  | trickArriveReceived round index generation origin tag => exact trickArriveReceived_within round index generation origin tag s
  | trickReleaseReceived round index generation tag => exact trickReleaseReceived_within round index generation tag s
  | trickPoisonReceived round index origin tag => exact trickPoisonReceived_within round index origin tag s
  | portTrainingStart port result => exact portTrainingStart_within port result s
  | portTrainingTimeout port => exact portTrainingTimeout_within port s
  | portRetrainTimer port result => exact portRetrainTimer_within port result s
  | helloReceived port payload => exact helloReceived_within port payload s
  | quarantineReceived port => exact quarantineReceived_within port s
  | flitReceived port lane bytes dest ns => exact flitReceived_within port lane bytes dest ns s
  | nakReceived port lane ack => exact nakReceived_within port lane ack s
  | replayLimitReached port lane => exact replayLimitReached_within port lane s
  | laneFailure port lane => exact laneFailure_within port lane s
  | lanesReceived port bitmap => exact lanesReceived_within port bitmap s
  | lanesAckReceived port bitmap => exact lanesAckReceived_within port bitmap s
  | portFailure port => exact portFailure_within port s
  | echoTimer  => exact echoTimer_within s
  | echoReceived port payload ns => exact echoReceived_within port payload ns s
  | handReceived header data crcOk => exact handReceived_within header data crcOk s
  | putReceived header data crcOk => exact putReceived_within header data crcOk s
  | signalReceived header => exact signalReceived_within header s
  | receiptReceived header => exact receiptReceived_within header s
  | abortReceived header => exact abortReceived_within header s
  | receiptTimeout transfer => exact receiptTimeout_within transfer s
  | messageForward port cls trick dest header data trailer => exact messageForward_within port cls trick dest header data trailer s
  | szlHoldDown port hold => exact szlHoldDown_within port hold s
  | szlRetrain port result => exact szlRetrain_within port result s
  | szlClearCounters port => exact szlClearCounters_within port s
  | szlpLinkFailure link => exact szlpLinkFailure_within link s
  | szlpRetrain link ok => exact szlpRetrain_within link ok s
  | failedPortIdle  => exact failedPortIdle_within s
  | roundStepTrigger ctrl => exact roundStepTrigger_within ctrl s
  | roundHandSend ctrl => exact roundHandSend_within ctrl s
  | passTimeout ctrl => exact passTimeout_within ctrl s
  | pcieLinkTrain gen width => exact pcieLinkTrain_within gen width s
  | pcieLinkDown  => exact pcieLinkDown_within s
  | pfFunctionLevelReset  => exact pfFunctionLevelReset_within s
  | busMasterEnableWrite fn on context feeds => exact busMasterEnableWrite_within fn on context feeds s
  | d3hotTransition fn d3hot context feeds => exact d3hotTransition_within fn d3hot context feeds s
  | msixMaskChange fn enable mask vector masked => exact msixMaskChange_within fn enable mask vector masked s
  | hstWinWrite fn window limit v => exact hstWinWrite_within fn window limit v s
  | unsupportedRequestReceived fn => exact unsupportedRequestReceived_within fn s
  | hostReadError target => exact hostReadError_within target s
  | ethLinkNegotiate port linked => exact ethLinkNegotiate_within port linked s
  | ethFrameReceived port good fill frame => exact ethFrameReceived_within port good fill frame s
  | rawRxConsumedWrite v => exact rawRxConsumedWrite_within v s
  | rawTxProduce v feeds => exact rawTxProduce_within v feeds s
  | qpCreate claim context => exact qpCreate_within claim context s
  | qpModify claim handle context => exact qpModify_within claim handle context s
  | qpDestroy claim handle => exact qpDestroy_within claim handle s
  | qpQuery claim handle => exact qpQuery_within claim handle s
  | sqDoorbell claim handle v feeds => exact sqDoorbell_within claim handle v feeds s
  | rqDoorbell claim handle v feeds => exact rqDoorbell_within claim handle v feeds s
  | cqConsumedWrite claim handle v feeds => exact cqConsumedWrite_within claim handle v feeds s
  | roceAckReceived claim handle psn reads feeds => exact roceAckReceived_within claim handle psn reads feeds s
  | roceNakReceived claim handle psn code reads => exact roceNakReceived_within claim handle psn code reads s
  | qpAckTimeout claim handle => exact qpAckTimeout_within claim handle s
  | rdmaWriteReceived claim handle psn rkey addr payload imm feeds => exact rdmaWriteReceived_within claim handle psn rkey addr payload imm feeds s
  | rdmaReadReceived claim handle psn rkey addr len data => exact rdmaReadReceived_within claim handle psn rkey addr len data s
  | roceSendReceived claim handle psn payload imm feeds => exact roceSendReceived_within claim handle psn payload imm feeds s
  | cnpReceived claim handle => exact cnpReceived_within claim handle s
  | cePacketReceived claim handle => exact cePacketReceived_within claim handle s
  | rateIncreaseTimer claim handle => exact rateIncreaseTimer_within claim handle s
  | pfcFrameReceived port priority xoff => exact pfcFrameReceived_within port priority xoff s
  | entMrWrite claim region word v => exact entMrWrite_within claim region word v s
  | entGidCommit port gid v => exact entGidCommit_within port gid v s
  | asyIndexBind index va claim => exact asyIndexBind_within index va claim s
  | asyIndexUnbind index v => exact asyIndexUnbind_within index v s
  | batchComplete  => exact batchComplete_within s
  | continuousBatch  => exact continuousBatch_within s
  | asyAdvanceWrite index => exact asyAdvanceWrite_within index s
  | backfill  => exact backfill_within s
  | eccWriteBack  => exact eccWriteBack_within s
  | eccCeOverClear die group => exact eccCeOverClear_within die group s
  | eccLogRelease die entry => exact eccLogRelease_within die entry s
  | eccPatchInstall die mac row word => exact eccPatchInstall_within die mac row word s
  | eccPatchRemove die mac row word => exact eccPatchRemove_within die mac row word s
  | eccTestWriteNormal  => exact eccTestWriteNormal_within s
  | eccTestWriteSplit  => exact eccTestWriteSplit_within s
  | eccTestRead  => exact eccTestRead_within s
  | eccTestArmFlip  => exact eccTestArmFlip_within s
  | redealRequest finish => exact redealRequest_within finish s
  | redealWalkEnd  => exact redealWalkEnd_within s
  | redealResume  => exact redealResume_within s
  | redealBoundExpiry  => exact redealBoundExpiry_within s
  | redealStallAlert  => exact redealStallAlert_within s
  | resetLFall  => exact resetLFall_within s
  | pwrokFall  => exact pwrokFall_within s
  | stbyPwrokFall  => exact stbyPwrokFall_within s
  | resetHeldAlert  => exact resetHeldAlert_within s
  | dealerUnitFault cls unit => exact dealerUnitFault_within cls unit s
  | lamphouseUnitDisable cls unit power => exact lamphouseUnitDisable_within cls unit power s
  | secKeySlot block verified => exact secKeySlot_within block verified s
  | secDebugGrant block => exact secDebugGrant_within block s
  | secDebugRevoke claim => exact secDebugRevoke_within claim s
  | secVendorOpen block env => exact secVendorOpen_within block env s
  | debugGrantExpiry claim => exact debugGrantExpiry_within claim s
  | dbgHalt claim => exact dbgHalt_within claim s
  | dbgResume claim => exact dbgResume_within claim s
  | dbgStep claim => exact dbgStep_within claim s
  | dbgObserve claim v => exact dbgObserve_within claim v s
  | jtagIdcode  => exact jtagIdcode_within s
  | jtagBypass  => exact jtagBypass_within s
  | jtagSamplePreload v => exact jtagSamplePreload_within v s
  | jtagExtest v => exact jtagExtest_within v s
  | jtagDebugAccess action => exact jtagDebugAccess_within action s
  | pwrRequestP2 wake => exact pwrRequestP2_within wake s
  | pwrRequestP0 wake => exact pwrRequestP0_within wake s
  | pwrRequestP3 wake => exact pwrRequestP3_within wake s
  | powerLimitCheck avg sample => exact powerLimitCheck_within avg sample s
  | thermalSample temps => exact thermalSample_within temps s
  | avsbusCommandTimeout rail readBack => exact avsbusCommandTimeout_within rail readBack s
  | railMonitorFault  => exact railMonitorFault_within s
  | refclkSzLoss  => exact refclkSzLoss_within s
  | crystalLoss  => exact crystalLoss_within s
  | qualifiedPwrokRestore env => exact qualifiedPwrokRestore_within env s
  | mctpPacketReceived packet pecOk hardwareOk env => exact mctpPacketReceived_within packet pecOk hardwareOk env s
  | setEndpointId eid => exact setEndpointId_within eid s
  | getNonce  => exact getNonce_within s
  | mgmtSecurityKeySlot block verified => exact mgmtSecurityKeySlot_within block verified s
  | mgmtSecurityDebugGrant block => exact mgmtSecurityDebugGrant_within block s
  | mgmtSecurityDebugRevoke claim => exact mgmtSecurityDebugRevoke_within claim s
  | mgmtSecurityVendorOpen block env => exact mgmtSecurityVendorOpen_within block env s
  | flashRead off len => exact flashRead_within off len s
  | flashErase off count ok => exact flashErase_within off count ok s
  | flashWrite off data ok => exact flashWrite_within off data ok s
  | bootRetry env => exact bootRetry_within env s
  | getTid  => exact getTid_within s
  | setTid tid => exact setTid_within tid s
  | getPldmVersion type => exact getPldmVersion_within type s
  | getPldmTypes  => exact getPldmTypes_within s
  | getPldmCommands type => exact getPldmCommands_within type s
  | getPdrRepositoryInfo  => exact getPdrRepositoryInfo_within s
  | getPdr handle => exact getPdr_within handle s
  | getSensorReading id => exact getSensorReading_within id s
  | getStateSensorReadings id => exact getStateSensorReadings_within id s
  | getNumericEffecterValue id => exact getNumericEffecterValue_within id s
  | getStateEffecterStates id => exact getStateEffecterStates_within id s
  | powerRequestEffecter request env => exact powerRequestEffecter_within request env s
  | powerLimitEffecter watts => exact powerLimitEffecter_within watts s
  | alertAcknowledge causes => exact alertAcknowledge_within causes s
  | alertMask causes => exact alertMask_within causes s
  | setEventReceiver mode receiver => exact setEventReceiver_within mode receiver s
  | pollForPlatformEventMessage  => exact pollForPlatformEventMessage_within s
  | platformEventMessage  => exact platformEventMessage_within s
  | platformEventRetry  => exact platformEventRetry_within s
  | platformEventAck  => exact platformEventAck_within s
  | getVersion  => exact getVersion_within s
  | getCapabilities  => exact getCapabilities_within s
  | negotiateAlgorithms  => exact negotiateAlgorithms_within s
  | getDigests  => exact getDigests_within s
  | getCertificate slot off len => exact getCertificate_within slot off len s
  | challenge nonce => exact challenge_within nonce s
  | getMeasurements index signed nonce => exact getMeasurements_within index signed nonce s
  | vfEnableSet numVfs => exact vfEnableSet_within numVfs s
  | ethLinkLoss port => exact ethLinkLoss_within port s
  | rnrTimerExpiry claim handle => exact rnrTimerExpiry_within claim handle s

end Sys2Proof
end

