-- ==== Sys2Proof/Laws/Execs.lean ====
section
/-! SUPPORT. What each command does, as one equation: the meaning without its guards. A register command does so where no
register write waits for P0. -/

namespace Sys2Proof

open Machine

theorem inP0_now {c : Instr} {k : State → State} {s : State} (h : writesWait s = false) : inP0 c k s = k s := by simp [inP0, h]

theorem writeAt_now {c : Instr} {fn off : Nat} {k : State → State} {s : State} (h : writesWait s = false) :
    writeAt c fn off k s = k s := by simp [writeAt, inP0, h]

theorem viaReg_now {c : Instr} {fn off : Nat} {k : State → State} {s : State} (h : writesWait s = false) :
    viaReg s fn off (inP0 c k) = viaReg s fn off k := by simp [viaReg, inP0, h]

@[simp] theorem writesWait_dropHold (s : State) (fn off : Nat) : writesWait (dropHold s fn off) = writesWait s := by
  have h := dropHold_moves s fn off (Moves.refl 1024 s) rfl
  have h1 : (dropHold s fn off).power = s.power := h.rest .power rfl
  have h2 : (dropHold s fn off).held = s.held := h.rest .held rfl
  simp only [writesWait, h1, h2]

theorem viaWide_now {c : Instr} {fn off : Nat} {k : State → State} {s : State} (h : writesWait s = false) :
    viaWide s fn off (inP0 c k) = viaWide s fn off k := by simp [viaWide, viaReg, inP0, h]

theorem viaClaim_now {c : Instr} {n o : Nat} {k : State → State} {s : State} (h : writesWait s = false) :
    viaClaim s n o (inP0 c k) = viaClaim s n o k := by simp [viaClaim, viaReg_now h]

theorem viaClaimWide_now {c : Instr} {n o : Nat} {k : State → State} {s : State} (h : writesWait s = false) :
    viaClaimWide s n o (inP0 c k) = viaClaimWide s n o k := by simp [viaClaimWide, viaWide_now h]

theorem viaShoe_now {c : Instr} {n o : Nat} {k : State → State} {s : State} (h : writesWait s = false) :
    viaShoe s n o (inP0 c k) = viaShoe s n o k := by simp [viaShoe, viaReg_now h]

theorem viaRing_now {c : Instr} {n o : Nat} {k : State → State} {s : State} (h : writesWait s = false) :
    viaRing s n o (inP0 c k) = viaRing s n o k := by simp [viaRing, viaReg_now h]

theorem assaySearch_runs (shoe seq level : Nat) (s : State) (hd : diesUp s = true) :
    exec (.assaySearch shoe seq level) s = .next ((gate shoe seq level 0x0B (fun b => asIndex b != 0xFFFF) fun s => assaySearch s shoe seq level) s) := congrArg Host.Outcome.next (if_pos hd)

theorem assayMerge_runs (shoe seq level : Nat) (s : State) (hd : diesUp s = true) :
    exec (.assayMerge shoe seq level) s = .next ((gate shoe seq level 0x0B (fun b => asIndex b == 0xFFFF) (afterMoves fun s => assayMerge s shoe seq level)) s) := congrArg Host.Outcome.next (if_pos hd)

theorem asyIndexBind_runs (index va claim : Nat) (s : State) (hw : writesWait s = false) :
    exec (.asyIndexBind index va claim) s = .next (viaWide s 0 (asyOff (0x1000 + 16 * index)) fun s =>
    indexWrite s index (va % 2 ^ 40 + 2 ^ 40 * (claim % 8) + 2 ^ 63)) := congrArg Host.Outcome.next (viaWide_now hw)

theorem asyIndexUnbind_runs (index v : Nat) (s : State) (hw : writesWait s = false) :
    exec (.asyIndexUnbind index v) s = .next (viaWide s 0 (asyOff (0x1000 + 16 * index)) fun s => indexWrite s index (v % 2 ^ 63)) := congrArg Host.Outcome.next (viaWide_now hw)

theorem batchComplete_runs (s : State) (hd : diesUp s = true) (hp : s.power.level = 0) :
    exec (.batchComplete) s = .next (afterMoves batchComplete s) := congrArg Host.Outcome.next (if_pos (by simp [hd, hp]))

theorem continuousBatch_runs (s : State) (hd : diesUp s = true) (hp : s.power.level = 0) :
    exec (.continuousBatch) s = .next (continuousBatch s) := congrArg Host.Outcome.next (if_pos (by simp [hd, hp]))

theorem asyAdvanceWrite_runs (index : Nat) (s : State) (hw : writesWait s = false) :
    exec (.asyAdvanceWrite index) s = .next (viaReg s 0 (asyOff 0x10) fun s => advanceNamed s (index % 65536)) := congrArg Host.Outcome.next (viaReg_now hw)

theorem backfill_runs (s : State) (hd : diesUp s = true) (hp : s.power.level = 0) :
    exec (.backfill) s = .next (afterMoves backfill s) := congrArg Host.Outcome.next (if_pos (by simp [hd, hp]))

theorem pinBeatEdge_runs (ns : Nat) (s : State) (hd : diesUp s = true) :
    exec (.pinBeatEdge ns) s = .next (pinEdge s ns) := congrArg Host.Outcome.next (if_pos hd)

theorem pinBeatFrame_runs (pulses : List Nat) (s : State) (hd : diesUp s = true) :
    exec (.pinBeatFrame pulses) s = .next (pinFrame s pulses) := congrArg Host.Outcome.next (if_pos hd)

theorem reservationApplyTimeout_runs (claim : Nat) (s : State) (hd : diesUp s = true) :
    exec (.reservationApplyTimeout claim) s = .next (if s.beat.aligned then s else applyReservation s claim) := congrArg Host.Outcome.next (if_pos hd)

theorem linkBeatMessage_runs (port hop count ns : Nat) (s : State) (hd : diesUp s = true) :
    exec (.linkBeatMessage port hop count ns) s = .next (linkBeat s port hop count ns) := congrArg Host.Outcome.next (if_pos hd)

theorem tokenBeatCommit_runs (s : State) (hd : diesUp s = true) :
    exec (.tokenBeatCommit) s = .next (tokenCommit s) := congrArg Host.Outcome.next (if_pos hd)

theorem fillerBeat_runs (s : State) (hd : diesUp s = true) :
    exec (.fillerBeat) s = .next (fillerBeat s) := congrArg Host.Outcome.next (if_pos hd)

theorem beatLoss_runs (s : State) (hd : diesUp s = true) :
    exec (.beatLoss) s = .next (beatLoss s) := congrArg Host.Outcome.next (if_pos hd)

theorem holdoverBeatEdge_runs (s : State) (hd : diesUp s = true) :
    exec (.holdoverBeatEdge) s = .next (holdoverEdge s) := congrArg Host.Outcome.next (if_pos hd)

theorem beatCalCommitArm_runs (atBeat : Nat) (s : State) (hw : writesWait s = false) :
    exec (.beatCalCommitArm atBeat) s = .next (viaWide s 0 (beatOff 0x30) fun s => commitWrite s (atBeat % 2 ^ 48 + 2 ^ 63)) := congrArg Host.Outcome.next (viaWide_now hw)

theorem beatCalShadowWrite_runs (entry word v : Nat) (s : State) (hw : writesWait s = false) :
    exec (.beatCalShadowWrite entry word v) s = .next (viaWide s 0 (beatOff (0x2000 + 16 * entry + 8 * word)) fun s => shadowWrite s (16 * entry + 8 * word) (leBytes 8 v)) := congrArg Host.Outcome.next (viaWide_now hw)

theorem beatTokenDesignate_runs (round : Nat) (s : State) (hw : writesWait s = false) :
    exec (.beatTokenDesignate round) s = .next (viaReg s 0 (beatOff 0x28) fun s => tokenWrite s (round % 65536 + 2 ^ 31)) := congrArg Host.Outcome.next (viaReg_now hw)

theorem shareSet_runs (i : Nat) (s : State) (hd : diesUp s = true) :
    exec (.shareSet i) s = .next (entryRun s i 1 []) := congrArg Host.Outcome.next (if_pos hd)

theorem scrubSlice_runs (i : Nat) (s : State) (hd : diesUp s = true) :
    exec (.scrubSlice i) s = .next (entryRun s i 2 []) := congrArg Host.Outcome.next (if_pos hd)

theorem heatAge_runs (i : Nat) (s : State) (hd : diesUp s = true) :
    exec (.heatAge i) s = .next (entryRun s i 3 []) := congrArg Host.Outcome.next (if_pos hd)

theorem assayWindow_runs (i : Nat) (s : State) (hd : diesUp s = true) :
    exec (.assayWindow i) s = .next (entryRun s i 4 []) := congrArg Host.Outcome.next (if_pos hd)

theorem assayWindowClose_runs (s : State) (hd : diesUp s = true) (hp : s.power.level = 0) :
    exec (.assayWindowClose) s = .next (closeWindow s) := congrArg Host.Outcome.next (if_pos (by simp [hd, hp]))

theorem epochAdvance_runs (i : Nat) (s : State) (hd : diesUp s = true) :
    exec (.epochAdvance i) s = .next (entryRun s i 5 []) := congrArg Host.Outcome.next (if_pos hd)

theorem rollCall_runs (i : Nat) (views : List UnitView) (s : State) (hd : diesUp s = true) :
    exec (.rollCall i views) s = .next (entryRun s i 6 views) := congrArg Host.Outcome.next (if_pos hd)

theorem checkpointWindow_runs (i : Nat) (s : State) (hd : diesUp s = true) :
    exec (.checkpointWindow i) s = .next (entryRun s i 7 []) := congrArg Host.Outcome.next (if_pos hd)

theorem checkpointWindowEnd_runs (s : State) (hd : diesUp s = true) :
    exec (.checkpointWindowEnd) s = .next (checkpointEnd s) := congrArg Host.Outcome.next (if_pos hd)

theorem markCmd_runs (i : Nat) (s : State) (hd : diesUp s = true) :
    exec (.markCmd i) s = .next (entryRun s i 8 []) := congrArg Host.Outcome.next (if_pos hd)

theorem stbyPwrokRise_runs (flash : Flash) (fuses : Fuses) (env : BootEnv) (s : State) :
    exec (.stbyPwrokRise flash fuses env) s = .next (stbyRise s flash fuses env) := rfl

theorem flashReadTimeout_runs (env : BootEnv) (s : State) :
    exec (.flashReadTimeout env) s = .next (flashTimeout s env) := rfl

theorem bootStepTimeout_runs (env : BootEnv) (s : State) :
    exec (.bootStepTimeout env) s = .next (stepTimeout s env) := rfl

theorem resetLRise_runs (env : BootEnv) (s : State) :
    exec (.resetLRise env) s = .next (resetRise s env) := rfl

theorem pwrokRise_runs (env : BootEnv) (s : State) :
    exec (.pwrokRise env) s = .next (pwrokRise s env) := rfl

theorem bootReady_runs (us : Nat) (s : State) :
    exec (.bootReady us) s = .next (bootReady s us) := rfl

theorem resetLFall_runs (s : State) :
    exec (.resetLFall) s = .next (resetFall s) := rfl

theorem pwrokFall_runs (s : State) :
    exec (.pwrokFall) s = .next (pwrokFall s) := rfl

theorem stbyPwrokFall_runs (s : State) :
    exec (.stbyPwrokFall) s = .next (stbyFall s) := rfl

theorem resetHeldAlert_runs (s : State) :
    exec (.resetHeldAlert) s = .next (heldAlarm s) := rfl

theorem railMonitorFault_runs (s : State) :
    exec (.railMonitorFault) s = .next (railFault s) := rfl

theorem refclkSzLoss_runs (s : State) :
    exec (.refclkSzLoss) s = .next (refclkLoss s) := rfl

theorem crystalLoss_runs (s : State) :
    exec (.crystalLoss) s = .next (crystalLoss s) := rfl

theorem qualifiedPwrokRestore_runs (env : BootEnv) (s : State) :
    exec (.qualifiedPwrokRestore env) s = .next (pwrokRestore s env) := rfl

theorem avsbusCommandTimeout_runs (rail readBack : Nat) (s : State) :
    exec (.avsbusCommandTimeout rail readBack) s = .next (avsTimeout s rail readBack) := rfl

theorem claimCreate_runs (seq level : Nat) (block : HostResp) (s : State) (hd : diesUp s = true) :
    exec (.claimCreate seq level block) s = .next (claimCmd s seq level true block) := congrArg Host.Outcome.next (if_pos hd)

theorem claimModify_runs (seq level : Nat) (block : HostResp) (s : State) (hd : diesUp s = true) :
    exec (.claimModify seq level block) s = .next (claimCmd s seq level false block) := congrArg Host.Outcome.next (if_pos hd)

theorem claimRelease_runs (seq level : Nat) (s : State) (hd : diesUp s = true) :
    exec (.claimRelease seq level) s = .next (claimRelease s seq level) := congrArg Host.Outcome.next (if_pos hd)

theorem claimReleaseEnd_runs (claim : Nat) (s : State) (hd : diesUp s = true) :
    exec (.claimReleaseEnd claim) s = .next (releaseEnd s claim) := congrArg Host.Outcome.next (if_pos hd)

theorem arbitrationFrameStart_runs (core : Bool) (i : Nat) (s : State) (hd : diesUp s = true) :
    exec (.arbitrationFrameStart core i) s = .next (frameStart s (engineOf core i)) := congrArg Host.Outcome.next (if_pos hd)

theorem arbitrationGrant_runs (core : Bool) (i ns : Nat) (s : State) (hd : diesUp s = true) :
    exec (.arbitrationGrant core i ns) s = .next (engineGrant s (engineOf core i) ns) := congrArg Host.Outcome.next (if_pos hd)

theorem evtRingEnable_runs (ring v : Nat) (s : State) (hw : writesWait s = false) :
    exec (.evtRingEnable ring v) s = .next (viaRing s ring 0x08 fun s => writeRingSize s ring (v % 2 ^ 31 + 2 ^ 31)) := congrArg Host.Outcome.next (viaRing_now hw)

theorem evtRingConsumedWrite_runs (ring v : Nat) (s : State) (hw : writesWait s = false) :
    exec (.evtRingConsumedWrite ring v) s = .next (viaRing s ring 0x10 fun s => writeRingConsumed s ring v) := congrArg Host.Outcome.next (viaRing_now hw)

theorem functionLevelReset_runs (claim : Nat) (s : State) (hh : hostUp s = true) :
    exec (.functionLevelReset claim) s = .next (functionReset s claim) := congrArg Host.Outcome.next (if_pos hh)

theorem flrComplete_runs (claim : Nat) (s : State) (hd : diesUp s = true) :
    exec (.flrComplete claim) s = .next (resetComplete s claim) := congrArg Host.Outcome.next (if_pos hd)

theorem vfEnableClear_runs (enable : Bool) (numVfs : Nat) (s : State) (hh : hostUp s = true) :
    exec (.vfEnableClear enable numVfs) s = .next (vfClear s enable numVfs) := congrArg Host.Outcome.next (if_pos hh)

theorem vfEnableSet_runs (numVfs : Nat) (s : State) (hh : hostUp s = true) :
    exec (.vfEnableSet numVfs) s = .next (vfSet s numVfs) := congrArg Host.Outcome.next (if_pos hh)

theorem clmRtBindWrite_runs (v : Nat) (s : State) (hw : writesWait s = false) :
    exec (.clmRtBindWrite v) s = .next (viaReg s 0 (clmOff 0x1000) fun s => rtWrite s v) := congrArg Host.Outcome.next (viaReg_now hw)

theorem rtBindApply_runs (s : State) (hd : diesUp s = true) :
    exec (.rtBindApply) s = .next (rtApply s) := congrArg Host.Outcome.next (if_pos hd)

theorem nop_runs (shoe seq level : Nat) (s : State) (hd : diesUp s = true) :
    exec (.nop shoe seq level) s = .next (gate shoe seq level 0x00 (fun _ => true) (fun s => withCmd s shoe seq level 0x00 fun g b => doneCmd s shoe seq level g b) s) := congrArg Host.Outcome.next (if_pos hd)

theorem laneDeck_runs (shoe seq level granule : Nat) (deck : HostResp) (s : State) (hd : diesUp s = true) :
    exec (.laneDeck shoe seq level granule deck) s = .next (cmdAtGate shoe seq level granule 0x02 (fun s => laneDeckCmd s shoe seq level granule deck) s) := congrArg Host.Outcome.next (if_pos hd)

theorem laneDeckComplete_runs (shoe seq level : Nat) (s : State) (hd : diesUp s = true) :
    exec (.laneDeckComplete shoe seq level) s = .next (laneDeckEnd s shoe seq level) := congrArg Host.Outcome.next (if_pos hd)

theorem tallyAdd_runs (shoe seq level : Nat) (s : State) (hd : diesUp s = true) :
    exec (.tallyAdd shoe seq level) s = .next (gate shoe seq level 0x03 (fun b => field b 6 1 == 0) (fun s => tallyCmd s shoe seq level 0) s) := congrArg Host.Outcome.next (if_pos hd)

theorem tallySet_runs (shoe seq level : Nat) (s : State) (hd : diesUp s = true) :
    exec (.tallySet shoe seq level) s = .next (gate shoe seq level 0x03 (fun b => field b 6 1 == 1) (fun s => tallyCmd s shoe seq level 1) s) := congrArg Host.Outcome.next (if_pos hd)

theorem tallyWaitGe_runs (shoe seq level : Nat) (s : State) (hd : diesUp s = true) :
    exec (.tallyWaitGe shoe seq level) s = .next (gate shoe seq level 0x03 (fun b => field b 6 1 == 2) (fun s => tallyCmd s shoe seq level 2) s) := congrArg Host.Outcome.next (if_pos hd)

theorem tallyWaitEq_runs (shoe seq level : Nat) (s : State) (hd : diesUp s = true) :
    exec (.tallyWaitEq shoe seq level) s = .next (gate shoe seq level 0x03 (fun b => field b 6 1 == 3) (fun s => tallyCmd s shoe seq level 3) s) := congrArg Host.Outcome.next (if_pos hd)

theorem tallyArm_runs (shoe seq level : Nat) (s : State) (hd : diesUp s = true) :
    exec (.tallyArm shoe seq level) s = .next (gate shoe seq level 0x03 (fun b => field b 6 1 == 4) (fun s => tallyCmd s shoe seq level 4) s) := congrArg Host.Outcome.next (if_pos hd)

theorem tallyPoison_runs (shoe seq level : Nat) (s : State) (hd : diesUp s = true) :
    exec (.tallyPoison shoe seq level) s = .next (gate shoe seq level 0x03 (fun b => field b 6 1 == 5) (fun s => tallyCmd s shoe seq level 5) s) := congrArg Host.Outcome.next (if_pos hd)

theorem waitMem_runs (shoe seq level : Nat) (s : State) (hd : diesUp s = true) :
    exec (.waitMem shoe seq level) s = .next (gate shoe seq level 0x04 (fun _ => true) (fun s => withCmd s shoe seq level 0x04 fun g b =>
    waitMemRead (heldCmd s shoe seq level g b (.waitMem false)) shoe seq level g b) s) := congrArg Host.Outcome.next (if_pos hd)

theorem waitMemPoll_runs (shoe seq level granule : Nat) (s : State) (hd : diesUp s = true) :
    exec (.waitMemPoll shoe seq level granule) s = .next (waitMemPoll s shoe seq level granule) := congrArg Host.Outcome.next (if_pos hd)

theorem waitMemReadReturn_runs (shoe seq level granule : Nat) (value : HostResp) (s : State) (hd : diesUp s = true) :
    exec (.waitMemReadReturn shoe seq level granule value) s = .next (waitMemReturn s shoe seq level granule value) := congrArg Host.Outcome.next (if_pos hd)

theorem writeMem_runs (shoe seq level : Nat) (s : State) (hd : diesUp s = true) :
    exec (.writeMem shoe seq level) s = .next (gate shoe seq level 0x05 (fun _ => true) (fun s => withCmd s shoe seq level 0x05 fun g b => runWriteMem s shoe seq level g b) s) := congrArg Host.Outcome.next (if_pos hd)

theorem hostCopy_runs (shoe seq level granule bursts : Nat) (data : HostResp) (s : State) (hd : diesUp s = true) :
    exec (.hostCopy shoe seq level granule bursts data) s = .next (cmdAtGate shoe seq level granule 0x06 (fun s => hostCopyCmd s shoe seq level granule bursts data) s) := congrArg Host.Outcome.next (if_pos hd)

theorem ifCmd_runs (shoe seq level : Nat) (s : State) (hd : diesUp s = true) :
    exec (.ifCmd shoe seq level) s = .next (gate shoe seq level 0x07 (fun _ => true) (fun s => withCmd s shoe seq level 0x07 fun g b => runIf s shoe seq level g b) s) := congrArg Host.Outcome.next (if_pos hd)

theorem loopCmd_runs (shoe seq level : Nat) (s : State) (hd : diesUp s = true) :
    exec (.loopCmd shoe seq level) s = .next (gate shoe seq level 0x08 (fun _ => true) (fun s => withCmd s shoe seq level 0x08 fun g b => runLoop s shoe seq level g b) s) := congrArg Host.Outcome.next (if_pos hd)

theorem loopIterationStart_runs (shoe seq level : Nat) (s : State) (hd : diesUp s = true) :
    exec (.loopIterationStart shoe seq level) s = .next (loopIterate s shoe seq level) := congrArg Host.Outcome.next (if_pos hd)

theorem callCmd_runs (shoe seq level granule : Nat) (deck : HostResp) (s : State) (hd : diesUp s = true) :
    exec (.callCmd shoe seq level granule deck) s = .next (cmdAtGate shoe seq level granule 0x09 (fun s => callCmd s shoe seq level granule deck) s) := congrArg Host.Outcome.next (if_pos hd)

theorem callComplete_runs (shoe seq level : Nat) (s : State) (hd : diesUp s = true) :
    exec (.callComplete shoe seq level) s = .next (callEnd s shoe seq level) := congrArg Host.Outcome.next (if_pos hd)

theorem pageMap_runs (shoe seq level : Nat) (s : State) (hd : diesUp s = true) :
    exec (.pageMap shoe seq level) s = .next (gate shoe seq level 0x0C (fun b => field b 6 1 == 0) (fun s => pageCmd s shoe seq level 0) s) := congrArg Host.Outcome.next (if_pos hd)

theorem pageUnmap_runs (shoe seq level : Nat) (s : State) (hd : diesUp s = true) :
    exec (.pageUnmap shoe seq level) s = .next (gate shoe seq level 0x0C (fun b => field b 6 1 == 1) (fun s => pageCmd s shoe seq level 1) s) := congrArg Host.Outcome.next (if_pos hd)

theorem pagePromote_runs (shoe seq level : Nat) (s : State) (hd : diesUp s = true) :
    exec (.pagePromote shoe seq level) s = .next (gate shoe seq level 0x0C (fun b => field b 6 1 == 2) (fun s => pageCmd s shoe seq level 2) s) := congrArg Host.Outcome.next (if_pos hd)

theorem pageDemote_runs (shoe seq level : Nat) (s : State) (hd : diesUp s = true) :
    exec (.pageDemote shoe seq level) s = .next (gate shoe seq level 0x0C (fun b => field b 6 1 == 3) (fun s => pageCmd s shoe seq level 3) s) := congrArg Host.Outcome.next (if_pos hd)

theorem pageMoveCommit_runs (table page : Nat) (s : State) (hd : diesUp s = true) :
    exec (.pageMoveCommit table page) s = .next (moveCommit s table page) := congrArg Host.Outcome.next (if_pos hd)

theorem clearCmd_runs (seq level units : Nat) (s : State) (hd : diesUp s = true) :
    exec (.clearCmd seq level units) s = .next (clearStart s seq level units) := congrArg Host.Outcome.next (if_pos hd)

theorem clearComplete_runs (seq level : Nat) (s : State) (hd : diesUp s = true) :
    exec (.clearComplete seq level) s = .next (clearEnd s seq level) := congrArg Host.Outcome.next (if_pos hd)

theorem commonLoad_runs (seq level : Nat) (data : HostResp) (s : State) (hd : diesUp s = true) :
    exec (.commonLoad seq level data) s = .next (commonLoad s seq level data) := congrArg Host.Outcome.next (if_pos hd)

theorem commonRemove_runs (seq level : Nat) (s : State) (hd : diesUp s = true) :
    exec (.commonRemove seq level) s = .next (commonRemove s seq level) := congrArg Host.Outcome.next (if_pos hd)

theorem tableLoad_runs (seq level : Nat) (table : HostResp) (s : State) (hd : diesUp s = true) :
    exec (.tableLoad seq level table) s = .next (tableLoad s seq level table) := congrArg Host.Outcome.next (if_pos hd)

theorem tableLoadCommit_runs (slot : Nat) (s : State) (hd : diesUp s = true) :
    exec (.tableLoadCommit slot) s = .next (tableCommit s slot) := congrArg Host.Outcome.next (if_pos hd)

theorem fenceClear_runs (seq level : Nat) (s : State) (hd : diesUp s = true) :
    exec (.fenceClear seq level) s = .next (fenceClear s seq level) := congrArg Host.Outcome.next (if_pos hd)

theorem sealCmd_runs (seq level : Nat) (flashOk : Bool) (s : State) (hd : diesUp s = true) :
    exec (.sealCmd seq level flashOk) s = .next (sealCmd s seq level flashOk) := congrArg Host.Outcome.next (if_pos hd)

theorem eccWriteBack_runs (s : State) (hd : diesUp s = true) :
    exec (.eccWriteBack) s = .next (writeBack s) := congrArg Host.Outcome.next (if_pos hd)

theorem eccCeOverClear_runs (die group : Nat) (s : State) (hw : writesWait s = false) :
    exec (.eccCeOverClear die group) s = .next (viaReg s 0 (eccOff (0x1400 + 0x1000 * die + 4 * group)) fun s => countClear s die group) := congrArg Host.Outcome.next (viaReg_now hw)

theorem eccLogRelease_runs (die entry : Nat) (s : State) (hw : writesWait s = false) :
    exec (.eccLogRelease die entry) s = .next (viaReg s 0 (eccOff (0x1200 + 0x1000 * die)) fun s => logRelease s die (entry % 16)) := congrArg Host.Outcome.next (viaReg_now hw)

theorem eccPatchInstall_runs (die mac row word : Nat) (s : State) (hw : writesWait s = false) :
    exec (.eccPatchInstall die mac row word) s = .next (viaWide s 0 (eccOff 0x200) fun s => patchWrite s (patchCmdWord die mac row word false)) := congrArg Host.Outcome.next (viaWide_now hw)

theorem eccPatchRemove_runs (die mac row word : Nat) (s : State) (hw : writesWait s = false) :
    exec (.eccPatchRemove die mac row word) s = .next (viaWide s 0 (eccOff 0x200) fun s => patchWrite s (patchCmdWord die mac row word true)) := congrArg Host.Outcome.next (viaWide_now hw)

theorem eccTestWriteNormal_runs (s : State) (hw : writesWait s = false) :
    exec (.eccTestWriteNormal) s = .next (viaReg s 0 (eccOff 0x128) fun s => testOp s 1) := congrArg Host.Outcome.next (viaReg_now hw)

theorem eccTestWriteSplit_runs (s : State) (hw : writesWait s = false) :
    exec (.eccTestWriteSplit) s = .next (viaReg s 0 (eccOff 0x128) fun s => testOp s 2) := congrArg Host.Outcome.next (viaReg_now hw)

theorem eccTestRead_runs (s : State) (hw : writesWait s = false) :
    exec (.eccTestRead) s = .next (viaReg s 0 (eccOff 0x128) fun s => testOp s 3) := congrArg Host.Outcome.next (viaReg_now hw)

theorem eccTestArmFlip_runs (s : State) (hw : writesWait s = false) :
    exec (.eccTestArmFlip) s = .next (viaReg s 0 (eccOff 0x128) fun s => testOp s 4) := congrArg Host.Outcome.next (viaReg_now hw)

theorem redealRequest_runs (finish : Bool) (s : State) (hw : writesWait s = false) :
    exec (.redealRequest finish) s = .next (viaReg s 0 (ldgOff 0x108) fun s => startRedeal s { cause := 0x0703, faulting := 0xFF } finish) := congrArg Host.Outcome.next (viaReg_now hw)

theorem redealWalkEnd_runs (s : State) (hd : diesUp s = true) :
    exec (.redealWalkEnd) s = .next (walkEnd s) := congrArg Host.Outcome.next (if_pos hd)

theorem redealResume_runs (s : State) (hw : writesWait s = false) :
    exec (.redealResume) s = .next (viaReg s 0 (ldgOff 0x108) redealResume) := congrArg Host.Outcome.next (viaReg_now hw)

theorem redealBoundExpiry_runs (s : State) (hd : diesUp s = true) :
    exec (.redealBoundExpiry) s = .next (redealBound s) := congrArg Host.Outcome.next (if_pos hd)

theorem redealStallAlert_runs (s : State) (hd : diesUp s = true) :
    exec (.redealStallAlert) s = .next (if s.redeal.phase = .waiting then alertLatch s 4 else s) := congrArg Host.Outcome.next (if_pos hd)

theorem dealerUnitFault_runs (cls unit : Nat) (s : State) (hd : diesUp s = true) :
    exec (.dealerUnitFault cls unit) s = .next (dealerFault s cls unit) := congrArg Host.Outcome.next (if_pos hd)

theorem lamphouseUnitDisable_runs (cls unit : Nat) (power : Bool) (s : State) (hd : diesUp s = true) :
    exec (.lamphouseUnitDisable cls unit power) s = .next (lamphouseDisable s cls unit power) := congrArg Host.Outcome.next (if_pos hd)

theorem hostReadError_runs (target : ReadTarget) (s : State) (hd : diesUp s = true) :
    exec (.hostReadError target) s = .next (readError target s) := congrArg Host.Outcome.next (if_pos hd)

theorem portTrainingStart_runs (port : Nat) (result : TrainResult) (s : State) (hd : diesUp s = true) :
    exec (.portTrainingStart port result) s = .next (trainDown s port result) := congrArg Host.Outcome.next (if_pos hd)

theorem portTrainingTimeout_runs (port : Nat) (s : State) (hd : diesUp s = true) :
    exec (.portTrainingTimeout port) s = .next (trainTimeout s port) := congrArg Host.Outcome.next (if_pos hd)

theorem portRetrainTimer_runs (port : Nat) (result : TrainResult) (s : State) (hd : diesUp s = true) :
    exec (.portRetrainTimer port result) s = .next (trainDown s port result) := congrArg Host.Outcome.next (if_pos hd)

theorem helloReceived_runs (port : Nat) (payload : List Byte) (s : State) (hd : diesUp s = true) :
    exec (.helloReceived port payload) s = .next (failXfers (helloReceived s port payload)) := congrArg Host.Outcome.next (if_pos hd)

theorem quarantineReceived_runs (port : Nat) (s : State) (hd : diesUp s = true) :
    exec (.quarantineReceived port) s = .next (failXfers (quarantineReceived s port)) := congrArg Host.Outcome.next (if_pos hd)

theorem flitReceived_runs (port lane : Nat) (bytes : List Byte) (dest : Seat) (ns : Nat) (s : State) (hd : diesUp s = true) :
    exec (.flitReceived port lane bytes dest ns) s = .next (flitReceived s port lane bytes dest ns) := congrArg Host.Outcome.next (if_pos hd)

theorem nakReceived_runs (port lane ack : Nat) (s : State) (hd : diesUp s = true) :
    exec (.nakReceived port lane ack) s = .next (nakReceived s port lane ack) := congrArg Host.Outcome.next (if_pos hd)

theorem replayLimitReached_runs (port lane : Nat) (s : State) (hd : diesUp s = true) :
    exec (.replayLimitReached port lane) s = .next (replayLimit s port lane) := congrArg Host.Outcome.next (if_pos hd)

theorem laneFailure_runs (port lane : Nat) (s : State) (hd : diesUp s = true) :
    exec (.laneFailure port lane) s = .next (laneFailure s port lane) := congrArg Host.Outcome.next (if_pos hd)

theorem lanesReceived_runs (port bitmap : Nat) (s : State) (hd : diesUp s = true) :
    exec (.lanesReceived port bitmap) s = .next (lanesMessage s port bitmap) := congrArg Host.Outcome.next (if_pos hd)

theorem lanesAckReceived_runs (port bitmap : Nat) (s : State) (hd : diesUp s = true) :
    exec (.lanesAckReceived port bitmap) s = .next (lanesAckMessage s port bitmap) := congrArg Host.Outcome.next (if_pos hd)

theorem portFailure_runs (port : Nat) (s : State) (hd : diesUp s = true) :
    exec (.portFailure port) s = .next (portFails s port) := congrArg Host.Outcome.next (if_pos hd)

theorem echoTimer_runs (s : State) (hd : diesUp s = true) :
    exec (.echoTimer) s = .next (echoTimer s) := congrArg Host.Outcome.next (if_pos hd)

theorem echoReceived_runs (port : Nat) (payload : List Byte) (ns : Nat) (s : State) (hd : diesUp s = true) :
    exec (.echoReceived port payload ns) s = .next (echoReceived s port payload ns) := congrArg Host.Outcome.next (if_pos hd)

theorem handReceived_runs (header data : List Byte) (crcOk : Bool) (s : State) (hd : diesUp s = true) :
    exec (.handReceived header data crcOk) s = .next ((afterMoves (onMessage 1 header fun h s => handReceived s h data crcOk)) s) := congrArg Host.Outcome.next (if_pos hd)

theorem putReceived_runs (header data : List Byte) (crcOk : Bool) (s : State) (hd : diesUp s = true) :
    exec (.putReceived header data crcOk) s = .next ((afterMoves (onMessage 2 header fun h s => putReceived s h data crcOk)) s) := congrArg Host.Outcome.next (if_pos hd)

theorem signalReceived_runs (header : List Byte) (s : State) (hd : diesUp s = true) :
    exec (.signalReceived header) s = .next ((onMessage 3 header fun h s => signalReceived s h) s) := congrArg Host.Outcome.next (if_pos hd)

theorem receiptReceived_runs (header : List Byte) (s : State) (hd : diesUp s = true) :
    exec (.receiptReceived header) s = .next ((onMessage 4 header fun h s => receiptReceived s h) s) := congrArg Host.Outcome.next (if_pos hd)

theorem abortReceived_runs (header : List Byte) (s : State) (hd : diesUp s = true) :
    exec (.abortReceived header) s = .next ((onMessage 5 header fun h s => abortReceived s h) s) := congrArg Host.Outcome.next (if_pos hd)

theorem receiptTimeout_runs (transfer : Nat) (s : State) (hd : diesUp s = true) :
    exec (.receiptTimeout transfer) s = .next (receiptTimeout s transfer) := congrArg Host.Outcome.next (if_pos hd)

theorem messageForward_runs (port cls : Nat) (trick : Bool) (dest : Seat) (header data trailer : List Byte) (s : State) (hd : diesUp s = true) :
    exec (.messageForward port cls trick dest header data trailer) s = .next (let d := (s.port port).dir
    if (s.port port).st ≠ .up then s
    else if trick then (if dest = ownSeat s then s else forwardTrick s d cls dest data)
    else if (MsgHeader.read header).dest = ownSeat s then s
    else forwardMessage s d cls header data trailer) := congrArg Host.Outcome.next (if_pos hd)

theorem szlHoldDown_runs (port : Nat) (hold : Bool) (s : State) (hw : writesWait s = false) :
    exec (.szlHoldDown port hold) s = .next (viaReg s 0 (szlOff (0x100 * port + 0x20)) fun s => portHold s port hold) := congrArg Host.Outcome.next (viaReg_now hw)

theorem szlRetrain_runs (port : Nat) (result : TrainResult) (s : State) (hw : writesWait s = false) :
    exec (.szlRetrain port result) s = .next (viaReg s 0 (szlOff (0x100 * port + 0x20)) fun s => portRetrain s port result) := congrArg Host.Outcome.next (viaReg_now hw)

theorem szlClearCounters_runs (port : Nat) (s : State) (hw : writesWait s = false) :
    exec (.szlClearCounters port) s = .next (viaReg s 0 (szlOff (0x100 * port + 0x20)) fun s => portClear s port) := congrArg Host.Outcome.next (viaReg_now hw)

theorem szlpLinkFailure_runs (link : Nat) (s : State) (hd : diesUp s = true) :
    exec (.szlpLinkFailure link) s = .next (if link < 14 then szlpFails s link else s) := congrArg Host.Outcome.next (if_pos hd)

theorem szlpRetrain_runs (link : Nat) (ok : Bool) (s : State) (hd : diesUp s = true) :
    exec (.szlpRetrain link ok) s = .next (if link < 14 then szlpRetrain s link ok else s) := congrArg Host.Outcome.next (if_pos hd)

theorem failedPortIdle_runs (s : State) (hd : diesUp s = true) :
    exec (.failedPortIdle) s = .next (failedIdle s) := congrArg Host.Outcome.next (if_pos hd)

theorem matmul_runs (shoe seq level : Nat) (s : State) (hd : diesUp s = true) :
    exec (.matmul shoe seq level) s = .next (gate shoe seq level 0x01 (fun b => mcCode b == 0x01) (fun s => macroCmd s shoe seq level 0x01) s) := congrArg Host.Outcome.next (if_pos hd)

theorem attend_runs (shoe seq level : Nat) (s : State) (hd : diesUp s = true) :
    exec (.attend shoe seq level) s = .next (gate shoe seq level 0x01 (fun b => mcCode b == 0x02) (fun s => macroCmd s shoe seq level 0x02) s) := congrArg Host.Outcome.next (if_pos hd)

theorem attendBwd_runs (shoe seq level : Nat) (s : State) (hd : diesUp s = true) :
    exec (.attendBwd shoe seq level) s = .next (gate shoe seq level 0x01 (fun b => mcCode b == 0x03) (fun s => macroCmd s shoe seq level 0x03) s) := congrArg Host.Outcome.next (if_pos hd)

theorem sfn_runs (shoe seq level : Nat) (s : State) (hd : diesUp s = true) :
    exec (.sfn shoe seq level) s = .next (gate shoe seq level 0x01 (fun b => mcCode b == 0x04) (fun s => macroCmd s shoe seq level 0x04) s) := congrArg Host.Outcome.next (if_pos hd)

theorem norm_runs (shoe seq level : Nat) (s : State) (hd : diesUp s = true) :
    exec (.norm shoe seq level) s = .next (gate shoe seq level 0x01 (fun b => mcCode b == 0x05) (fun s => macroCmd s shoe seq level 0x05) s) := congrArg Host.Outcome.next (if_pos hd)

theorem reduceCmd_runs (shoe seq level : Nat) (s : State) (hd : diesUp s = true) :
    exec (.reduceCmd shoe seq level) s = .next (gate shoe seq level 0x01 (fun b => mcCode b == 0x06) (fun s => macroCmd s shoe seq level 0x06) s) := congrArg Host.Outcome.next (if_pos hd)

theorem hoist_runs (shoe seq level : Nat) (s : State) (hd : diesUp s = true) :
    exec (.hoist shoe seq level) s = .next (gate shoe seq level 0x01 (fun b => mcCode b == 0x07) (fun s => macroCmd s shoe seq level 0x07) s) := congrArg Host.Outcome.next (if_pos hd)

theorem convertCmd_runs (shoe seq level : Nat) (s : State) (hd : diesUp s = true) :
    exec (.convertCmd shoe seq level) s = .next (gate shoe seq level 0x01 (fun b => mcCode b == 0x08) (fun s => macroCmd s shoe seq level 0x08) s) := congrArg Host.Outcome.next (if_pos hd)

theorem assayRerank_runs (shoe seq level : Nat) (s : State) (hd : diesUp s = true) :
    exec (.assayRerank shoe seq level) s = .next (gate shoe seq level 0x01 (fun b => mcCode b == 0x09) (fun s => macroCmd s shoe seq level 0x09) s) := congrArg Host.Outcome.next (if_pos hd)

theorem macroDispatch_runs (shoe seq level granule : Nat) (s : State) (hd : diesUp s = true) :
    exec (.macroDispatch shoe seq level granule) s = .next (macroDispatch s shoe seq level granule) := congrArg Host.Outcome.next (if_pos hd)

theorem macroStart_runs (part : Nat) (s : State) (hd : diesUp s = true) :
    exec (.macroStart part) s = .next (macroStart s part) := congrArg Host.Outcome.next (if_pos hd)

theorem tileGroupEnd_runs (core ns : Nat) (bad : Option (HeadFault × Nat × Nat × Nat)) (s : State) (hd : diesUp s = true) :
    exec (.tileGroupEnd core ns bad) s = .next (tileGroupEnd (match bad with
    | some b => headFault s b.1 b.2.1 b.2.2.1 b.2.2.2
    | none => s) core ns) := congrArg Host.Outcome.next (if_pos hd)

theorem macroComplete_runs (part : Nat) (s : State) (hd : diesUp s = true) :
    exec (.macroComplete part) s = .next (macroComplete s part) := congrArg Host.Outcome.next (if_pos hd)

theorem p1Entry_runs (core : Nat) (s : State) (hd : diesUp s = true) :
    exec (.p1Entry core) s = .next (gateCore s core) := congrArg Host.Outcome.next (if_pos hd)

theorem mctpPacketReceived_runs (packet : List Byte) (pecOk hardwareOk : Bool) (env : BootEnv) (s : State) :
    exec (.mctpPacketReceived packet pecOk hardwareOk env) s = .next (mctpPacket s packet pecOk hardwareOk env) := rfl

theorem setEndpointId_runs (eid : Nat) (s : State) :
    exec (.setEndpointId eid) s = .next (setEid s eid) := rfl

theorem getNonce_runs (s : State) :
    exec (.getNonce) s = .next (getNonce s) := rfl

theorem mgmtSecurityKeySlot_runs (block : List Byte) (verified : Bool) (s : State) :
    exec (.mgmtSecurityKeySlot block verified) s = .next (mgmtKeySlot s block verified) := rfl

theorem mgmtSecurityDebugGrant_runs (block : List Byte) (s : State) :
    exec (.mgmtSecurityDebugGrant block) s = .next (mgmtGrant s block) := rfl

theorem mgmtSecurityDebugRevoke_runs (claim : Nat) (s : State) :
    exec (.mgmtSecurityDebugRevoke claim) s = .next (mgmtRevoke s claim) := rfl

theorem mgmtSecurityVendorOpen_runs (block : List Byte) (env : BootEnv) (s : State) :
    exec (.mgmtSecurityVendorOpen block env) s = .next (mgmtUnlock s block env) := rfl

theorem flashRead_runs (off len : Nat) (s : State) :
    exec (.flashRead off len) s = .next (flashReadCmd s off len) := rfl

theorem flashErase_runs (off count : Nat) (ok : Bool) (s : State) :
    exec (.flashErase off count ok) s = .next (flashErase s off count ok) := rfl

theorem flashWrite_runs (off : Nat) (data : List Byte) (ok : Bool) (s : State) :
    exec (.flashWrite off data ok) s = .next (flashWriteCmd s off data ok) := rfl

theorem bootRetry_runs (env : BootEnv) (s : State) :
    exec (.bootRetry env) s = .next (bootRetryCmd s env) := rfl

theorem getTid_runs (s : State) :
    exec (.getTid) s = .next (getTid s) := rfl

theorem setTid_runs (tid : Nat) (s : State) :
    exec (.setTid tid) s = .next (setTid s tid) := rfl

theorem getPldmVersion_runs (type : Nat) (s : State) :
    exec (.getPldmVersion type) s = .next (getPldmVersion s type) := rfl

theorem getPldmTypes_runs (s : State) :
    exec (.getPldmTypes) s = .next (getPldmTypes s) := rfl

theorem getPldmCommands_runs (type : Nat) (s : State) :
    exec (.getPldmCommands type) s = .next (getPldmCommands s type) := rfl

theorem getPdrRepositoryInfo_runs (s : State) :
    exec (.getPdrRepositoryInfo) s = .next (getPdrInfo s) := rfl

theorem getPdr_runs (handle : Nat) (s : State) :
    exec (.getPdr handle) s = .next (getPdr s handle) := rfl

theorem getSensorReading_runs (id : Nat) (s : State) :
    exec (.getSensorReading id) s = .next (getSensor s id) := rfl

theorem getStateSensorReadings_runs (id : Nat) (s : State) :
    exec (.getStateSensorReadings id) s = .next (getStateSensor s id) := rfl

theorem getNumericEffecterValue_runs (id : Nat) (s : State) :
    exec (.getNumericEffecterValue id) s = .next (getNumericEffecter s id) := rfl

theorem getStateEffecterStates_runs (id : Nat) (s : State) :
    exec (.getStateEffecterStates id) s = .next (getStateEffecter s id) := rfl

theorem powerRequestEffecter_runs (request : Nat) (env : BootEnv) (s : State) :
    exec (.powerRequestEffecter request env) s = .next (powerEffecter s request env) := rfl

theorem powerLimitEffecter_runs (watts : Nat) (s : State) :
    exec (.powerLimitEffecter watts) s = .next (limitEffecter s watts) := rfl

theorem alertAcknowledge_runs (causes : Nat) (s : State) :
    exec (.alertAcknowledge causes) s = .next (alertAck s causes) := rfl

theorem alertMask_runs (causes : Nat) (s : State) :
    exec (.alertMask causes) s = .next (alertMask s causes) := rfl

theorem setEventReceiver_runs (mode receiver : Nat) (s : State) :
    exec (.setEventReceiver mode receiver) s = .next (setReceiver s mode receiver) := rfl

theorem pollForPlatformEventMessage_runs (s : State) :
    exec (.pollForPlatformEventMessage) s = .next (pollEvent s) := rfl

theorem platformEventMessage_runs (s : State) :
    exec (.platformEventMessage) s = .next (sendEvent s) := rfl

theorem platformEventRetry_runs (s : State) :
    exec (.platformEventRetry) s = .next (resendEvent s) := rfl

theorem platformEventAck_runs (s : State) :
    exec (.platformEventAck) s = .next (ackEvent s) := rfl

theorem getVersion_runs (s : State) :
    exec (.getVersion) s = .next (spdmVersion s) := rfl

theorem getCapabilities_runs (s : State) :
    exec (.getCapabilities) s = .next (spdmCapabilities s) := rfl

theorem negotiateAlgorithms_runs (s : State) :
    exec (.negotiateAlgorithms) s = .next (spdmAlgorithms s) := rfl

theorem getDigests_runs (s : State) :
    exec (.getDigests) s = .next (spdmDigests s) := rfl

theorem getCertificate_runs (slot off len : Nat) (s : State) :
    exec (.getCertificate slot off len) s = .next (spdmCertificate s slot off len) := rfl

theorem challenge_runs (nonce : List Byte) (s : State) :
    exec (.challenge nonce) s = .next (spdmChallenge s nonce) := rfl

theorem getMeasurements_runs (index : Nat) (signed : Bool) (nonce : List Byte) (s : State) :
    exec (.getMeasurements index signed nonce) s = .next (spdmMeasurements s index signed nonce) := rfl

theorem ethLinkNegotiate_runs (port : Nat) (linked : Bool) (s : State) (hd : diesUp s = true) :
    exec (.ethLinkNegotiate port linked) s = .next (ethNegotiate s port linked) := congrArg Host.Outcome.next (if_pos hd)

theorem ethLinkLoss_runs (port : Nat) (s : State) (hd : diesUp s = true) :
    exec (.ethLinkLoss port) s = .next (ethLoss s port) := congrArg Host.Outcome.next (if_pos hd)

theorem ethFrameReceived_runs (port : Nat) (good : Bool) (fill : Nat) (frame : List Byte) (s : State) (hd : diesUp s = true) :
    exec (.ethFrameReceived port good fill frame) s = .next (ethFrame s port good fill frame) := congrArg Host.Outcome.next (if_pos hd)

theorem rawRxConsumedWrite_runs (v : Nat) (s : State) (hw : writesWait s = false) :
    exec (.rawRxConsumedWrite v) s = .next (viaReg s 0 (entOff 0x1108) fun s => rawRxWrite s v) := congrArg Host.Outcome.next (viaReg_now hw)

theorem rawTxProduce_runs (v : Nat) (feeds : List HostResp) (s : State) (hw : writesWait s = false) :
    exec (.rawTxProduce v feeds) s = .next (viaReg s 0 (entOff 0x1118) fun s => rawTxWrite s v feeds) := congrArg Host.Outcome.next (viaReg_now hw)

theorem qpCreate_runs (claim : Nat) (context : HostResp) (s : State) (hw : writesWait s = false) :
    exec (.qpCreate claim context) s = .next (viaClaim s claim 0x60008 fun s => qpGo s claim 0 0 true fun s => qpCreate s claim context) := congrArg Host.Outcome.next (viaClaim_now hw)

theorem qpModify_runs (claim handle : Nat) (context : HostResp) (s : State) (hw : writesWait s = false) :
    exec (.qpModify claim handle context) s = .next (viaClaim s claim 0x60008 fun s => qpGo s claim 1 handle true fun s => qpModify s claim handle context) := congrArg Host.Outcome.next (viaClaim_now hw)

theorem qpDestroy_runs (claim handle : Nat) (s : State) (hw : writesWait s = false) :
    exec (.qpDestroy claim handle) s = .next (viaClaim s claim 0x60008 fun s => qpGo s claim 2 handle false fun s => qpDestroy s claim handle) := congrArg Host.Outcome.next (viaClaim_now hw)

theorem qpQuery_runs (claim handle : Nat) (s : State) (hw : writesWait s = false) :
    exec (.qpQuery claim handle) s = .next (viaClaim s claim 0x60008 fun s => qpGo s claim 3 handle true fun s => qpQuery s claim handle) := congrArg Host.Outcome.next (viaClaim_now hw)

theorem sqDoorbell_runs (claim handle v : Nat) (feeds : List (HostResp × HostResp)) (s : State) (hw : writesWait s = false) :
    exec (.sqDoorbell claim handle v feeds) s = .next (viaClaim s claim (0x68000 + 16 * handle) fun s => sqDoorbell s claim handle v feeds) := congrArg Host.Outcome.next (viaClaim_now hw)

theorem rqDoorbell_runs (claim handle v : Nat) (feeds : List HostResp) (s : State) (hw : writesWait s = false) :
    exec (.rqDoorbell claim handle v feeds) s = .next (viaClaim s claim (0x68004 + 16 * handle) fun s => rqDoorbell s claim handle v feeds) := congrArg Host.Outcome.next (viaClaim_now hw)

theorem cqConsumedWrite_runs (claim handle v : Nat) (feeds : List (HostResp × HostResp)) (s : State) (hw : writesWait s = false) :
    exec (.cqConsumedWrite claim handle v feeds) s = .next (viaClaim s claim (0x68008 + 16 * handle) fun s => cqConsumed s claim handle v feeds) := congrArg Host.Outcome.next (viaClaim_now hw)

theorem roceAckReceived_runs (claim handle psn : Nat) (reads : List (List Byte)) (feeds : List (HostResp × HostResp)) (s : State) (hd : diesUp s = true) :
    exec (.roceAckReceived claim handle psn reads feeds) s = .next ((afterMoves fun s => roceAck s claim handle psn reads feeds) s) := congrArg Host.Outcome.next (if_pos hd)

theorem roceNakReceived_runs (claim handle psn code : Nat) (reads : List (List Byte)) (s : State) (hd : diesUp s = true) :
    exec (.roceNakReceived claim handle psn code reads) s = .next ((afterMoves fun s => roceNak s claim handle psn code reads) s) := congrArg Host.Outcome.next (if_pos hd)

theorem qpAckTimeout_runs (claim handle : Nat) (s : State) (hd : diesUp s = true) :
    exec (.qpAckTimeout claim handle) s = .next (ackTimeout s claim handle) := congrArg Host.Outcome.next (if_pos hd)

theorem rnrTimerExpiry_runs (claim handle : Nat) (s : State) (hd : diesUp s = true) :
    exec (.rnrTimerExpiry claim handle) s = .next (rnrExpiry s claim handle) := congrArg Host.Outcome.next (if_pos hd)

theorem rdmaWriteReceived_runs (claim handle psn rkey addr : Nat) (payload : List Byte) (imm : Option Nat) (feeds : List HostResp) (s : State) (hd : diesUp s = true) :
    exec (.rdmaWriteReceived claim handle psn rkey addr payload imm feeds) s = .next ((afterMoves fun s => rdmaWrite s claim handle psn rkey addr payload imm feeds) s) := congrArg Host.Outcome.next (if_pos hd)

theorem rdmaReadReceived_runs (claim handle psn rkey addr len : Nat) (data : HostResp) (s : State) (hd : diesUp s = true) :
    exec (.rdmaReadReceived claim handle psn rkey addr len data) s = .next (rdmaRead s claim handle psn rkey addr len data) := congrArg Host.Outcome.next (if_pos hd)

theorem roceSendReceived_runs (claim handle psn : Nat) (payload : List Byte) (imm : Option Nat) (feeds : List HostResp) (s : State) (hd : diesUp s = true) :
    exec (.roceSendReceived claim handle psn payload imm feeds) s = .next ((afterMoves fun s => roceSend s claim handle psn payload imm feeds) s) := congrArg Host.Outcome.next (if_pos hd)

theorem cnpReceived_runs (claim handle : Nat) (s : State) (hd : diesUp s = true) :
    exec (.cnpReceived claim handle) s = .next (cnpReceived s claim handle) := congrArg Host.Outcome.next (if_pos hd)

theorem cePacketReceived_runs (claim handle : Nat) (s : State) (hd : diesUp s = true) :
    exec (.cePacketReceived claim handle) s = .next (cePacket s claim handle) := congrArg Host.Outcome.next (if_pos hd)

theorem rateIncreaseTimer_runs (claim handle : Nat) (s : State) (hd : diesUp s = true) :
    exec (.rateIncreaseTimer claim handle) s = .next (rateIncrease s claim handle) := congrArg Host.Outcome.next (if_pos hd)

theorem pfcFrameReceived_runs (port priority : Nat) (xoff : Bool) (s : State) (hd : diesUp s = true) :
    exec (.pfcFrameReceived port priority xoff) s = .next (pfcReceived s port priority xoff) := congrArg Host.Outcome.next (if_pos hd)

theorem entMrWrite_runs (claim region word v : Nat) (s : State) (hw : writesWait s = false) :
    exec (.entMrWrite claim region word v) s = .next (viaClaimWide s claim (0x61000 + 32 * region + 8 * word) fun s =>
    match word with
    | 0 => regionRange s claim region false v
    | 1 => regionRange s claim region true v
    | _ => regionAccess s claim region v) := congrArg Host.Outcome.next (viaClaimWide_now hw)

theorem entGidCommit_runs (port gid v : Nat) (s : State) (hw : writesWait s = false) :
    exec (.entGidCommit port gid v) s = .next (viaWide s 0 (entOff (0x808 + 0x100 * port + 16 * gid)) fun s => gidCommit s port gid (v % 2 ^ 64)) := congrArg Host.Outcome.next (viaWide_now hw)

theorem pcieLinkTrain_runs (gen width : Nat) (s : State) (hd : diesUp s = true) :
    exec (.pcieLinkTrain gen width) s = .next (pcieTrain s gen width) := congrArg Host.Outcome.next (if_pos hd)

theorem pcieLinkDown_runs (s : State) (hd : diesUp s = true) :
    exec (.pcieLinkDown) s = .next (pcieDown s) := congrArg Host.Outcome.next (if_pos hd)

theorem pfFunctionLevelReset_runs (s : State) (hh : hostUp s = true) :
    exec (.pfFunctionLevelReset) s = .next (pfReset s) := congrArg Host.Outcome.next (if_pos hh)

theorem busMasterEnableWrite_runs (fn : Nat) (on : Bool) (context : HostResp) (feeds : List (Nat × HostResp × HostResp)) (s : State) (hh : hostUp s = true) :
    exec (.busMasterEnableWrite fn on context feeds) s = .next (if fn < 9 then requestsChange s fn (fun f => { f with busMaster := on }) context feeds else s) := congrArg Host.Outcome.next (if_pos hh)

theorem d3hotTransition_runs (fn : Nat) (d3hot : Bool) (context : HostResp) (feeds : List (Nat × HostResp × HostResp)) (s : State) (hh : hostUp s = true) :
    exec (.d3hotTransition fn d3hot context feeds) s = .next (if fn < 9 then requestsChange s fn (fun f => { f with d3hot := d3hot }) context feeds else s) := congrArg Host.Outcome.next (if_pos hh)

theorem msixMaskChange_runs (fn : Nat) (enable mask : Bool) (vector : Nat) (masked : Bool) (s : State) (hh : hostUp s = true) :
    exec (.msixMaskChange fn enable mask vector masked) s = .next (if fn < 9 then
      msixFlush (s.modFn fn fun f =>
        { f with msixEnable := enable, msixMask := mask, vecs := tmod f.vecs vector fun x => { x with masked := masked } }) fn
    else s) := congrArg Host.Outcome.next (if_pos hh)

theorem hstWinWrite_runs (fn window : Nat) (limit : Bool) (v : Nat) (s : State) (hw : writesWait s = false) :
    exec (.hstWinWrite fn window limit v) s = .next (viaWide s 0 (hstOff (0x1000 + 0x40 * fn + 16 * window + (if limit then 8 else 0))) fun s =>
    winWrite s fn window limit v) := congrArg Host.Outcome.next (viaWide_now hw)

theorem unsupportedRequestReceived_runs (fn : Nat) (s : State) (hh : hostUp s = true) :
    exec (.unsupportedRequestReceived fn) s = .next (unsupported s fn) := congrArg Host.Outcome.next (if_pos hh)

theorem pwrRequestP2_runs (wake : Bool) (s : State) :
    exec (.pwrRequestP2 wake) s = .next (viaReg s 0 (pwrOff 0x8) fun s => powerGo s 2 wake) := rfl

theorem pwrRequestP0_runs (wake : Bool) (s : State) :
    exec (.pwrRequestP0 wake) s = .next (viaReg s 0 (pwrOff 0x8) fun s => powerGo s 0 wake) := rfl

theorem pwrRequestP3_runs (wake : Bool) (s : State) :
    exec (.pwrRequestP3 wake) s = .next (viaReg s 0 (pwrOff 0x8) fun s => powerGo s 3 wake) := rfl

theorem powerLimitCheck_runs (avg sample : Nat) (s : State) :
    exec (.powerLimitCheck avg sample) s = .next (limitCheck s avg sample) := rfl

theorem thermalSample_runs (temps : List Int) (s : State) :
    exec (.thermalSample temps) s = .next (thermalSample s temps) := rfl

theorem registerWrite_runs (fn off width v : Nat) (s : State) (hw : writesWait s = false) :
    exec (.registerWrite fn off width v) s = .next (regWrite s fn off width v) := congrArg Host.Outcome.next (writeAt_now hw)

theorem regLowHalfRead_runs (fn off width : Nat) (s : State) :
    exec (.regLowHalfRead fn off width) s = .next (completeRead s fn off (readWidth s fn off width)) := rfl

theorem regLowHalfWrite_runs (fn off v : Nat) (s : State) (hw : writesWait s = false) :
    exec (.regLowHalfWrite fn off v) s = .next (writeLow s fn off v) := congrArg Host.Outcome.next (writeAt_now hw)

theorem regHighHalfWrite_runs (fn off v : Nat) (s : State) (hw : writesWait s = false) :
    exec (.regHighHalfWrite fn off v) s = .next (writeHigh s fn off v) := congrArg Host.Outcome.next (writeAt_now hw)

theorem pwrMeasureRead_runs (wide : Bool) (s : State) :
    exec (.pwrMeasureRead wide) s = .next (completeRead s 0 measureOff (readWidth s 0 measureOff (if wide then 8 else 4))) := rfl

theorem roundArm_runs (shoe seq level : Nat) (s : State) (hd : diesUp s = true) :
    exec (.roundArm shoe seq level) s = .next ((gate shoe seq level 0x0A (fun b => field b 8 5 != 0) fun s =>
    withCmd s shoe seq level 0x0A fun g b => roundArm s shoe seq level g b) s) := congrArg Host.Outcome.next (if_pos hd)

theorem roundDisarm_runs (shoe seq level : Nat) (s : State) (hd : diesUp s = true) :
    exec (.roundDisarm shoe seq level) s = .next ((gate shoe seq level 0x0A (fun b => field b 8 5 == 0) fun s =>
    withCmd s shoe seq level 0x0A fun g b => roundDisarm s shoe seq level g b) s) := congrArg Host.Outcome.next (if_pos hd)

theorem roundStepTrigger_runs (ctrl : Nat) (s : State) (hd : diesUp s = true) :
    exec (.roundStepTrigger ctrl) s = .next (triggerStep s ctrl) := congrArg Host.Outcome.next (if_pos hd)

theorem roundHandSend_runs (ctrl : Nat) (s : State) (hd : diesUp s = true) :
    exec (.roundHandSend ctrl) s = .next (sendHand s ctrl) := congrArg Host.Outcome.next (if_pos hd)

theorem passTimeout_runs (ctrl : Nat) (s : State) (hd : diesUp s = true) :
    exec (.passTimeout ctrl) s = .next (passTimeout s ctrl) := congrArg Host.Outcome.next (if_pos hd)

theorem secKeySlot_runs (block : HostResp) (verified : Bool) (s : State) :
    exec (.secKeySlot block verified) s = .next (viaReg s 0 (secOff 0x18) fun s => secBlock s 256 block fun s b => keySlotBlock s b verified) := rfl

theorem secDebugGrant_runs (block : HostResp) (s : State) :
    exec (.secDebugGrant block) s = .next (viaReg s 0 (secOff 0x18) fun s => secBlock s 224 block grantBlock) := rfl

theorem secDebugRevoke_runs (claim : Nat) (s : State) :
    exec (.secDebugRevoke claim) s = .next (viaReg s 0 (secOff 0x18) fun s => secPlain s fun s => revokeGrant s (claim % 8)) := rfl

theorem secVendorOpen_runs (block : HostResp) (env : BootEnv) (s : State) :
    exec (.secVendorOpen block env) s = .next (viaReg s 0 (secOff 0x18) fun s => secBlock s 416 block fun s b => unlockBlock s b env) := rfl

theorem debugGrantExpiry_runs (claim : Nat) (s : State) (hd : diesUp s = true) :
    exec (.debugGrantExpiry claim) s = .next (grantExpiry s claim) := congrArg Host.Outcome.next (if_pos hd)

theorem dbgHalt_runs (claim : Nat) (s : State) :
    exec (.dbgHalt claim) s = .next (viaClaim s claim 0x40008 fun s => dbgHalt s claim) := rfl

theorem dbgResume_runs (claim : Nat) (s : State) :
    exec (.dbgResume claim) s = .next (viaClaim s claim 0x40008 fun s => dbgResume s claim) := rfl

theorem dbgStep_runs (claim : Nat) (s : State) :
    exec (.dbgStep claim) s = .next (viaClaim s claim 0x40008 fun s => dbgStep s claim) := rfl

theorem dbgObserve_runs (claim v : Nat) (s : State) :
    exec (.dbgObserve claim v) s = .next (viaClaim s claim 0x40020 fun s => dbgObserve s claim v) := rfl

theorem jtagIdcode_runs (s : State) :
    exec (.jtagIdcode) s = .next (jtagIdcode s) := rfl

theorem jtagBypass_runs (s : State) :
    exec (.jtagBypass) s = .next (jtagBypass s) := rfl

theorem jtagSamplePreload_runs (v : Nat) (s : State) :
    exec (.jtagSamplePreload v) s = .next (jtagBoundary s false v) := rfl

theorem jtagExtest_runs (v : Nat) (s : State) :
    exec (.jtagExtest v) s = .next (jtagBoundary s true v) := rfl

theorem jtagDebugAccess_runs (action : DapAction) (s : State) :
    exec (.jtagDebugAccess action) s = .next (jtagAccess s action) := rfl

theorem shoeDoorbell_runs (shoe v : Nat) (s : State) :
    exec (.shoeDoorbell shoe v) s = .next (viaShoe s shoe 0x18 fun s => ringBell s shoe v) := rfl

theorem shoeFetchEntry_runs (shoe : Nat) (s : State) (hd : diesUp s = true) :
    exec (.shoeFetchEntry shoe) s = .next (fetchEntry s shoe) := congrArg Host.Outcome.next (if_pos hd)

theorem deckReadComplete_runs (shoe : Nat) (entry deck : HostResp) (s : State) (hd : diesUp s = true) :
    exec (.deckReadComplete shoe entry deck) s = .next (deckRead s shoe entry deck) := congrArg Host.Outcome.next (if_pos hd)

theorem itemStart_runs (shoe : Nat) (s : State) (hd : diesUp s = true) :
    exec (.itemStart shoe) s = .next (startItem s shoe) := congrArg Host.Outcome.next (if_pos hd)

theorem shoeTimeout_runs (shoe seq activeUs : Nat) (others : List (Nat × Nat)) (finish : Bool) (s : State) (hd : diesUp s = true) :
    exec (.shoeTimeout shoe seq activeUs others finish) s = .next (timersExpire s activeUs (((shoe, seq) :: others).map fun x => (x.1, x.2, 0x0301)) finish) := congrArg Host.Outcome.next (if_pos hd)

theorem rtLaneTimeout_runs (lane mid : Nat) (finish : Bool) (s : State) (hd : diesUp s = true) :
    exec (.rtLaneTimeout lane mid finish) s = .next (laneExpires s lane mid finish) := congrArg Host.Outcome.next (if_pos hd)

theorem itemCommit_runs (shoe seq : Nat) (s : State) (hd : diesUp s = true) :
    exec (.itemCommit shoe seq) s = .next (commitItem s shoe seq) := congrArg Host.Outcome.next (if_pos hd)

theorem outcomeWrite_runs (shoe : Nat) (bad : Option (HeadFault × Nat × Nat × Nat)) (s : State) (hd : diesUp s = true) :
    exec (.outcomeWrite shoe bad) s = .next (writeOutcomes (match bad with
    | some b => headFault s b.1 b.2.1 b.2.2.1 b.2.2.2
    | none => s) shoe) := congrArg Host.Outcome.next (if_pos hd)

theorem moderationTimeout_runs (shoe : Nat) (s : State) (hd : diesUp s = true) :
    exec (.moderationTimeout shoe) s = .next (moderationEnds s shoe) := congrArg Host.Outcome.next (if_pos hd)

theorem sheetConsumedWrite_runs (shoe v : Nat) (s : State) (hw : writesWait s = false) :
    exec (.sheetConsumedWrite shoe v) s = .next (viaShoe s shoe 0x58 fun s => writeConsumed s shoe v) := congrArg Host.Outcome.next (viaShoe_now hw)

theorem shoeEnable_runs (shoe v : Nat) (feeds : List (Nat × HostResp × HostResp)) (s : State) (hw : writesWait s = false) :
    exec (.shoeEnable shoe v feeds) s = .next (viaShoe s shoe 0x08 fun s =>
    shoeEnable s shoe (v % 2 ^ 31 + 2 ^ 31) feeds) := congrArg Host.Outcome.next (viaShoe_now hw)

theorem shoeDisable_runs (shoe v : Nat) (s : State) (hw : writesWait s = false) :
    exec (.shoeDisable shoe v) s = .next (viaShoe s shoe 0x08 fun s => disableShoe s shoe (v % 2 ^ 31)) := congrArg Host.Outcome.next (viaShoe_now hw)

theorem sheetEnable_runs (shoe v : Nat) (s : State) (hw : writesWait s = false) :
    exec (.sheetEnable shoe v) s = .next (viaShoe s shoe 0x50 fun s => writeSheetCtrl s shoe (v % 2 ^ 31 + 2 ^ 31)) := congrArg Host.Outcome.next (viaShoe_now hw)

theorem shoeFetchWrite_runs (shoe v : Nat) (s : State) (hw : writesWait s = false) :
    exec (.shoeFetchWrite shoe v) s = .next (viaShoe s shoe 0x20 fun s => writeFetch s shoe v) := congrArg Host.Outcome.next (viaShoe_now hw)

theorem ldgLookup_runs (shoe : Nat) (s : State) (hw : writesWait s = false) :
    exec (.ldgLookup shoe) s = .next (viaReg s 0 (ldgOff 0x18) fun s => ledgerLookup s (shoe % 16)) := congrArg Host.Outcome.next (viaReg_now hw)

theorem tierLookup_runs (va table : Nat) (s : State) (hw : writesWait s = false) :
    exec (.tierLookup va table) s = .next (viaWide s 0 (tierOff 0x400) fun s => tierLookup s (va % 2 ^ 40 + 2 ^ 40 * (table % 16) + 2 ^ 63)) := congrArg Host.Outcome.next (viaWide_now hw)

theorem tierCommonShareWrite_runs (claim v : Nat) (s : State) (hw : writesWait s = false) :
    exec (.tierCommonShareWrite claim v) s = .next (viaReg s 0 (tierOff (0x100 + 8 * claim)) fun s => writeShare s claim v) := congrArg Host.Outcome.next (viaReg_now hw)

theorem tlyOpAdd_runs (claim tally v : Nat) (s : State) (hw : writesWait s = false) :
    exec (.tlyOpAdd claim tally v) s = .next (viaClaimWide s claim (0x20008 + 16 * tally) fun s => tallyOp s claim tally 0 (v % 2 ^ 32)) := congrArg Host.Outcome.next (viaClaimWide_now hw)

theorem tlyOpSet_runs (claim tally v : Nat) (s : State) (hw : writesWait s = false) :
    exec (.tlyOpSet claim tally v) s = .next (viaClaimWide s claim (0x20008 + 16 * tally) fun s => tallyOp s claim tally 1 (v % 2 ^ 32)) := congrArg Host.Outcome.next (viaClaimWide_now hw)

theorem tlyOpPoison_runs (claim tally : Nat) (s : State) (hw : writesWait s = false) :
    exec (.tlyOpPoison claim tally) s = .next (viaClaimWide s claim (0x20008 + 16 * tally) fun s => tallyOp s claim tally 5 0) := congrArg Host.Outcome.next (viaClaimWide_now hw)

theorem tlyHostWaitArm_runs (claim slot tally : Nat) (eq : Bool) (threshold : Nat) (s : State) (hw : writesWait s = false) :
    exec (.tlyHostWaitArm claim slot tally eq threshold) s = .next (viaClaimWide s claim (0x28000 + 16 * slot) fun s =>
    waitWrite s claim slot (tally % 2 ^ 10 + 2 ^ 10 * b2n eq + 2 ^ 11 + 2 ^ 32 * (threshold % 2 ^ 32))) := congrArg Host.Outcome.next (viaClaimWide_now hw)

theorem tlyDevOpAdd_runs (tally v : Nat) (s : State) (hw : writesWait s = false) :
    exec (.tlyDevOpAdd tally v) s = .next (viaWide s 0 (tlyOff (0x8 + 16 * tally)) fun s => deviceOp s tally 0 (v % 2 ^ 32)) := congrArg Host.Outcome.next (viaWide_now hw)

theorem tlyDevOpSet_runs (tally v : Nat) (s : State) (hw : writesWait s = false) :
    exec (.tlyDevOpSet tally v) s = .next (viaWide s 0 (tlyOff (0x8 + 16 * tally)) fun s => deviceOp s tally 1 (v % 2 ^ 32)) := congrArg Host.Outcome.next (viaWide_now hw)

theorem tlyDevOpArm_runs (tally v : Nat) (s : State) (hw : writesWait s = false) :
    exec (.tlyDevOpArm tally v) s = .next (viaWide s 0 (tlyOff (0x8 + 16 * tally)) fun s => deviceOp s tally 4 (v % 2 ^ 32)) := congrArg Host.Outcome.next (viaWide_now hw)

theorem tlyDevOpPoison_runs (tally : Nat) (s : State) (hw : writesWait s = false) :
    exec (.tlyDevOpPoison tally) s = .next (viaWide s 0 (tlyOff (0x8 + 16 * tally)) fun s => deviceOp s tally 5 0) := congrArg Host.Outcome.next (viaWide_now hw)

theorem trickArriveReceived_runs (round index generation : Nat) (origin : Seat) (tag : Nat) (s : State) (hd : diesUp s = true) :
    exec (.trickArriveReceived round index generation origin tag) s = .next (arriveReceived s round index generation origin tag) := congrArg Host.Outcome.next (if_pos hd)

theorem trickReleaseReceived_runs (round index generation tag : Nat) (s : State) (hd : diesUp s = true) :
    exec (.trickReleaseReceived round index generation tag) s = .next (releaseReceived s round index generation tag) := congrArg Host.Outcome.next (if_pos hd)

theorem trickPoisonReceived_runs (round index : Nat) (origin : Seat) (tag : Nat) (s : State) (hd : diesUp s = true) :
    exec (.trickPoisonReceived round index origin tag) s = .next (poisonReceived s round index origin tag) := congrArg Host.Outcome.next (if_pos hd)

end Sys2Proof
end

