-- ==== Sys2Proof/Laws/FxBase.lean ====
section
/-! SUPPORT. Bits of numbers, and what an event leaves alone of the claims. -/

set_option linter.unusedSimpArgs false
set_option linter.unusedVariables false

namespace Sys2Proof

open Machine

theorem bit_top {x k : Nat} (h : x < 2 ^ k) : bit (x + 2 ^ k) k = true := by
  rw [bit, Nat.add_comm, Nat.testBit_two_pow_add_eq, Nat.testBit_lt_two_pow h]; rfl

theorem bit_low {x k : Nat} (h : x < 2 ^ k) : bit x k = false := Nat.testBit_lt_two_pow h

theorem bits_low {x k w : Nat} (hw : w ≤ k) : bits (x + 2 ^ k) 0 w = x % 2 ^ w := by
  obtain ⟨d, rfl⟩ := Nat.exists_eq_add_of_le hw
  rw [bits, Nat.pow_zero, Nat.div_one, Nat.pow_add, Nat.mul_comm, Nat.add_mul_mod_self_right]

theorem bits_id {x w : Nat} (h : x < 2 ^ w) : bits x 0 w = x := by simp [bits, Nat.mod_eq_of_lt h]

theorem leBytes_length (n v : Nat) : (leBytes n v).length = n := by
  induction n generalizing v with
  | zero => rfl
  | succ n ih => simp [leBytes, ih]

theorem bytesAt_length (l : List Byte) (o n : Nat) : (bytesAt l o n).length = n := by
  simp only [bytesAt, List.length_append, List.length_replicate, List.length_take, List.length_drop]; omega

theorem bytesAt_getD (l : List Byte) (o n i : Nat) (h : i < n) : (bytesAt l o n).getD i 0#8 = l.getD (o + i) 0#8 := by
  simp only [bytesAt, List.getD_eq_getElem?_getD, List.getElem?_append, List.length_take, List.length_drop,
    List.getElem?_replicate, List.getElem?_take, List.getElem?_drop]
  split
  · simp [h]
  · rename_i h1
    rw [if_pos (by omega), List.getElem?_eq_none (l := l) (by omega)]
    rfl

theorem bytesAt_ext {l : List Byte} {o n : Nat} {b : List Byte} (hb : b.length = n) (h : ∀ i < n, l.getD (o + i) 0#8 = b.getD i 0#8) :
    bytesAt l o n = b := by
  refine List.ext_getElem (by rw [bytesAt_length, hb]) fun i h1 h2 => ?_
  rw [bytesAt_length] at h1
  have := bytesAt_getD l o n i h1
  rw [h i h1] at this
  simpa [List.getD_eq_getElem?_getD, List.getElem?_eq_getElem, bytesAt_length, hb, h1] using this

theorem tget_map {α β : Type} [Inhabited α] [Inhabited β] {n : Nat} (v : Vector α n) (f : α → β) {i : Nat} (h : i < n) :
    tget (v.map f) i = f (tget v i) := by
  simp [tget, h]

/-- Of the claims block only the event rings differ. -/
def RingsOnly (c d : Claims) : Prop := d = { c with rings := d.rings }

theorem RingsOnly.refl (c : Claims) : RingsOnly c c := rfl

theorem RingsOnly.trans {a b c : Claims} (h : RingsOnly a b) (k : RingsOnly b c) : RingsOnly a c := by
  unfold RingsOnly at *
  rw [h] at k
  exact k

theorem RingsOnly.of_eq {c d : Claims} (h : d = c) : RingsOnly c d := h ▸ rfl

theorem RingsOnly.modRing (s : State) (n : Nat) (f : EvtRing → EvtRing) : RingsOnly s.cl (s.modRing n f).cl := rfl

theorem writeRecords_rings (n type cause : Nat) (l : List (List Byte)) (s : State) :
    RingsOnly s.cl (writeRecords s n type cause l).cl := by
  induction l generalizing s with
  | nil => exact .refl _
  | cons b l ih =>
    refine RingsOnly.trans ?_ (ih _)
    refine RingsOnly.trans (.of_eq (d := (postHost s _ _ _).cl) (by simp)) (.modRing _ _ _)

theorem eventLost_rings (s : State) (n : Nat) : RingsOnly s.cl (eventLost s n).cl := by
  rw [eventLost, raiseSource_cl]; exact .modRing _ _ _

theorem writeEvent_rings (s : State) (n type cause : Nat) (bs : List (List Byte)) : RingsOnly s.cl (writeEvent s n type cause bs).cl := by
  unfold writeEvent
  dsimp only
  split
  · rw [raiseSource_cl]
    exact (writeRecords_rings n type cause bs s).trans (.modRing _ _ _)
  · exact eventLost_rings s n

theorem postEvent_rings (s : State) (n type cause : Nat) (bs : List (List Byte)) : RingsOnly s.cl (postEvent s n type cause bs).cl := by
  unfold postEvent
  split
  · exact .modRing _ _ _
  · exact writeEvent_rings s n type cause bs

@[simp] theorem postEvent_claim (s : State) (n type cause : Nat) (bs : List (List Byte)) (m : Nat) :
    (postEvent s n type cause bs).claim m = s.claim m := by
  unfold State.claim; rw [postEvent_rings s n type cause bs]

end Sys2Proof
end

