-- ==== Sys2Proof/Laws/FxItem.lean ====
section
/-! SUPPORT. Items, levels and commands of the ledger. -/

set_option linter.unusedSimpArgs false
set_option linter.unusedVariables false

namespace Sys2Proof

open Machine

theorem find_map_key {s : State} {f : Item → Item} (hk : ∀ i, (f i).shoe = i.shoe ∧ (f i).seq = i.seq) (a b : Nat) :
    (s.dl.items.map f).find? (fun i => i.shoe == a && i.seq == b) = (findItem s a b).map f := by
  rw [findItem, List.find?_map]
  congr 2
  funext i
  simp [(hk i).1, (hk i).2]

theorem findItem_modItem {s : State} {shoe seq : Nat} {f : Item → Item} (hk : ∀ i, (f i).shoe = i.shoe ∧ (f i).seq = i.seq) (a b : Nat) :
    findItem (s.modItem shoe seq f) a b = if a = shoe ∧ b = seq then (findItem s a b).map f else findItem s a b := by
  have h := find_map_key (s := s) (f := fun i => if i.shoe == shoe && i.seq == seq then f i else i)
    (fun i => by split <;> simp [hk i]) a b
  refine Eq.trans h ?_
  cases hi : findItem s a b with
  | none => simp
  | some i =>
    have hp := List.find?_some hi
    simp only [Bool.and_eq_true, beq_iff_eq] at hp
    simp only [Option.map_some, hp.1, hp.2]
    by_cases h1 : a = shoe ∧ b = seq
    · simp [h1]
    · rw [if_neg h1, if_neg (by simpa using h1)]

theorem findItem_congr {s t : State} (h : t.dl.items = s.dl.items) (a b : Nat) : findItem t a b = findItem s a b := by
  simp [findItem, h]

theorem levelOf_congr {s t : State} (h : t.dl.items = s.dl.items) (a b l : Nat) : levelOf t a b l = levelOf s a b l := by
  simp [levelOf, findItem_congr h]

theorem level_modLevel {i : Item} {l : Nat} {f : Level → Level} (hk : ∀ v, (f v).id = v.id) (k : Nat) :
    (i.modLevel l f).level k = if k = l then (i.level k).map f else i.level k := by
  simp only [Item.modLevel, Item.level, List.find?_map]
  have e : ((fun v : Level => v.id == k) ∘ fun v : Level => if (v.id == l) = true then f v else v) = fun v => v.id == k := by
    funext v; simp only [Function.comp]; split <;> simp [hk]
  rw [e]
  cases hv : i.levels.find? fun v => v.id == k with
  | none => simp
  | some v =>
    have hp := List.find?_some hv
    simp only [beq_iff_eq] at hp
    simp only [Option.map_some, hp]
    by_cases h1 : k = l
    · simp [h1]
    · simp [h1]

theorem findItem_modLevel {s : State} {shoe seq l : Nat} {f : Level → Level} (a b : Nat) :
    findItem (s.modLevel shoe seq l f) a b =
      if a = shoe ∧ b = seq then (findItem s a b).map fun i => i.modLevel l f else findItem s a b :=
  findItem_modItem (f := fun i => i.modLevel l f) (fun _ => ⟨rfl, rfl⟩) a b

theorem levelOf_modLevel {s : State} {shoe seq l : Nat} {f : Level → Level} (hk : ∀ v, (f v).id = v.id) :
    levelOf (s.modLevel shoe seq l f) shoe seq l = (levelOf s shoe seq l).map f := by
  rw [levelOf, findItem_modLevel, if_pos ⟨rfl, rfl⟩, levelOf]
  cases findItem s shoe seq with
  | none => rfl
  | some i => simp [level_modLevel hk]

theorem othersStay.refl (s : State) (shoe seq : Nat) : othersStay s s shoe seq := fun _ _ _ => rfl

theorem othersStay.trans {s t u : State} {shoe seq : Nat} (h : othersStay s t shoe seq) (k : othersStay t u shoe seq) : othersStay s u shoe seq :=
  fun a b hab => (k a b hab).trans (h a b hab)

theorem othersStay.of_items {s t : State} {shoe seq : Nat} (h : t.dl.items = s.dl.items) : othersStay s t shoe seq :=
  fun a b _ => findItem_congr h a b

theorem othersStay.modItem (s : State) {shoe seq : Nat} {f : Item → Item} (hk : ∀ i, (f i).shoe = i.shoe ∧ (f i).seq = i.seq) :
    othersStay s (s.modItem shoe seq f) shoe seq := by
  intro a b h
  rw [findItem_modItem hk, if_neg (by rintro ⟨h1, h2⟩; rcases h with h | h <;> contradiction)]

theorem othersStay.modLevel (s : State) (shoe seq l : Nat) (f : Level → Level) : othersStay s (s.modLevel shoe seq l f) shoe seq :=
  .modItem s fun _ => ⟨rfl, rfl⟩

theorem nextCmd_some {s : State} {shoe seq l op g : Nat} {lv : Level} {b : List Byte} (h : nextCmd s shoe seq l op = some (lv, g, b)) :
    ∃ i, findItem s shoe seq = some i ∧ i.st = .running ∧ i.level l = some lv ∧ g = lv.pc ∧ b = cmdAt lv.bytes lv.pc ∧ cmdOp b = op ∧
      s.redealing = false ∧ levelOf s shoe seq l = some lv := by
  unfold nextCmd at h
  split at h
  · cases h
  · rename_i i hi
    split at h
    · cases h
    · rename_i v hv
      dsimp only at h
      split at h
      · rename_i hc
        cases h
        exact ⟨i, hi, hc.1, hv, rfl, rfl, hc.2.2.1, by simpa using hc.2.2.2.1, by simp [levelOf, hi, hv]⟩
      · cases h

theorem level_id {i : Item} {l : Nat} {lv : Level} (h : i.level l = some lv) : lv.id = l := by
  have := List.find?_some h
  simpa using this

/-- The Dealer's turn passes where it serves the level; the ledger's items stay (R125). -/
theorem turn_items (s : State) (shoe seq l : Nat) : (if dealerLevel s shoe seq l then served s shoe else s).dl.items = s.dl.items := by
  unfold served; split <;> (try split) <;> rfl

theorem turn_now (s : State) (shoe seq l : Nat) : (if dealerLevel s shoe seq l then served s shoe else s).now = s.now := by
  unfold served; split <;> (try split) <;> rfl

/-- Passing a command changes the Dealer's part only. -/
theorem passCmd_parts (s : State) (shoe seq l : Nat) (b : List Byte) : OnlyParts [.dl] s (passCmd s shoe seq l b) := by
  intro p hp
  unfold passCmd served
  split
  · split <;> (cases p <;> first | exact absurd (by decide) hp | rfl)
  · cases p <;> first | exact absurd (by decide) hp | rfl

@[simp] theorem passCmd_now (s : State) (shoe seq l : Nat) (b : List Byte) : (passCmd s shoe seq l b).now = s.now := turn_now s shoe seq l

theorem levelOf_passCmd (s : State) (shoe seq l : Nat) (b : List Byte) : levelOf (passCmd s shoe seq l b) shoe seq l =
    (levelOf s shoe seq l).map fun lv => { lv with pc := lv.pc + cmdSize b } := by
  rw [passCmd, levelOf_modLevel (f := fun lv => { lv with pc := lv.pc + cmdSize b }) fun _ => rfl, levelOf, levelOf, findItem_congr (turn_items s shoe seq l)]

theorem levelOf_completeCmd (s : State) (shoe seq l g : Nat) : levelOf (completeCmd s shoe seq l g) shoe seq l =
    (levelOf s shoe seq l).map fun lv => cmdEnded lv g := levelOf_modLevel fun _ => rfl

theorem levelOf_doneCmd {s : State} {shoe seq l : Nat} {lv : Level} (b : List Byte) (h : levelOf s shoe seq l = some lv) :
    levelOf (doneCmd s shoe seq l lv.pc b) shoe seq l = some (cmdDone lv b) := by
  rw [doneCmd, levelOf_completeCmd, levelOf_passCmd, h]; rfl

theorem levelOf_heldCmd {s : State} {shoe seq l : Nat} {lv : Level} (b : List Byte) (st : CmdState) (h : levelOf s shoe seq l = some lv) :
    levelOf (heldCmd s shoe seq l lv.pc b st) shoe seq l = some (cmdHeld s.now lv b st) := by
  have e := levelOf_modLevel (s := passCmd s shoe seq l b) (shoe := shoe) (seq := seq) (l := l)
    (f := fun v => { v with active := v.active ++ [{ granule := lv.pc, st := st, age := (passCmd s shoe seq l b).now }] }) (fun _ => rfl)
  refine e.trans ?_
  rw [levelOf_passCmd, h, passCmd_now]; rfl

theorem findItem_completeCmd (s : State) (shoe seq l g : Nat) : findItem (completeCmd s shoe seq l g) shoe seq =
    (findItem s shoe seq).map fun i => i.modLevel l fun lv => cmdEnded lv g := by
  rw [completeCmd, findItem_modLevel, if_pos ⟨rfl, rfl⟩]; rfl

theorem others_completeCmd (s : State) (shoe seq l g : Nat) : othersStay s (completeCmd s shoe seq l g) shoe seq := .modLevel _ _ _ _ _
theorem others_passCmd (s : State) (shoe seq l : Nat) (b : List Byte) : othersStay s (passCmd s shoe seq l b) shoe seq :=
  (othersStay.of_items (turn_items s shoe seq l)).trans (.modLevel _ _ _ _ _)
theorem others_setActive (s : State) (shoe seq l g : Nat) (st : CmdState) : othersStay s (setActive s shoe seq l g st) shoe seq := .modLevel _ _ _ _ _

theorem others_doneCmd (s : State) (shoe seq l g : Nat) (b : List Byte) : othersStay s (doneCmd s shoe seq l g b) shoe seq :=
  (others_passCmd _ _ _ _ _).trans (others_completeCmd _ _ _ _ _)

theorem others_heldCmd (s : State) (shoe seq l g : Nat) (b : List Byte) (st : CmdState) : othersStay s (heldCmd s shoe seq l g b st) shoe seq :=
  (others_passCmd _ _ _ _ _).trans (.modLevel _ _ _ _ _)

theorem dropMacro_items (s : State) (m : Nat) : (dropMacro s m).dl.items = s.dl.items := by
  unfold dropMacro; split <;> rfl

theorem releaseHoldings_items (s : State) (shoe seq : Nat) : (releaseHoldings s shoe seq).dl.items = s.dl.items := by
  unfold releaseHoldings
  simp only [State.modDl, State.modShoe]
  have h : ∀ (l : List Nat) (u : State), (l.foldl dropMacro u).dl.items = u.dl.items := by
    intro l; induction l with
    | nil => intro u; rfl
    | cons m l ih => intro u; rw [List.foldl_cons, ih, dropMacro_items]
  exact h _ _

/-- An item that is not past its commit point ends as failed with the outcome (R98, R124). -/
theorem findItem_failItem {s : State} {shoe seq : Nat} {i : Item} (o : Outcome) (h : findItem s shoe seq = some i) (hf : i.fixed = false) :
    findItem (failItem s shoe seq o) shoe seq = some { i with st := .resolved, out := o, levels := [], held := none } := by
  simp only [failItem, h, hf, Bool.false_eq_true, if_false]
  rw [findItem_modItem (f := fun i => { i with st := .resolved, out := o, levels := [], held := none }) (fun i => ⟨rfl, rfl⟩), if_pos ⟨rfl, rfl⟩,
    findItem_congr (releaseHoldings_items s shoe seq), h]
  rfl

theorem others_failItem (s : State) (shoe seq : Nat) (o : Outcome) : othersStay s (failItem s shoe seq o) shoe seq := by
  unfold failItem
  split
  · exact .refl _ _ _
  · split
    · exact .refl _ _ _
    · exact (othersStay.of_items (releaseHoldings_items s shoe seq)).trans (.modItem _ fun _ => ⟨rfl, rfl⟩)

theorem others_failAt (s : State) (shoe seq l g cause d : Nat) : othersStay s (failAt s shoe seq l g cause d) shoe seq := by
  unfold failAt
  split
  · exact .refl _ _ _
  · split <;> exact others_failItem _ _ _ _

theorem itemFails_failItem {s : State} {shoe seq : Nat} {i : Item} (o : Outcome) (h : findItem s shoe seq = some i) (hf : i.fixed = false)
    (ho : o.failed = true) : itemFails (failItem s shoe seq o) shoe seq o.cause :=
  ⟨_, findItem_failItem o h hf, rfl, ho, rfl⟩

theorem itemFails_failAt {s : State} {shoe seq : Nat} {i : Item} (l g cause d : Nat) (h : findItem s shoe seq = some i) (hf : i.fixed = false) :
    itemFails (failAt s shoe seq l g cause d) shoe seq cause := by
  unfold failAt
  simp only [h]
  split
  · exact itemFails_failItem _ h hf rfl
  · exact itemFails_failItem _ h hf rfl

theorem running_open {i : Item} (h : i.st = .running) : i.fixed = false := by simp [Item.fixed, h]

/-- A command that starts may fail its item from any state with the same ledger, or one in which the level has passed it. -/
theorem fails_of_next {s t : State} {shoe seq l op g : Nat} {lv : Level} {b : List Byte} (h : nextCmd s shoe seq l op = some (lv, g, b))
    (ht : t.dl.items = s.dl.items) (g' cause d : Nat) : itemFails (failAt t shoe seq l g' cause d) shoe seq cause := by
  obtain ⟨i, hi, hr, -⟩ := nextCmd_some h
  exact itemFails_failAt l g' cause d ((findItem_congr ht _ _).trans hi) (running_open hr)

theorem findItem_passCmd (s : State) (shoe seq l : Nat) (b : List Byte) : findItem (passCmd s shoe seq l b) shoe seq =
    (findItem s shoe seq).map fun i => i.modLevel l fun lv => { lv with pc := lv.pc + cmdSize b } := by
  rw [passCmd, findItem_modLevel, if_pos ⟨rfl, rfl⟩, findItem_congr (turn_items s shoe seq l)]

theorem findItem_heldCmd (s : State) (shoe seq l g : Nat) (b : List Byte) (st : CmdState) : ∃ f : Item → Item, (∀ i, (f i).st = i.st) ∧
    findItem (heldCmd s shoe seq l g b st) shoe seq = (findItem s shoe seq).map f := by
  refine ⟨_, fun i => ?_, by rw [heldCmd, activate, findItem_modLevel, if_pos ⟨rfl, rfl⟩, findItem_passCmd, Option.map_map]⟩
  rfl

theorem fails_of_pass {s t : State} {shoe seq l op g : Nat} {lv : Level} {b : List Byte} (h : nextCmd s shoe seq l op = some (lv, g, b))
    (ht : t.dl.items = (passCmd s shoe seq l b).dl.items) (g' cause d : Nat) : itemFails (failAt t shoe seq l g' cause d) shoe seq cause := by
  obtain ⟨i, hi, hr, -⟩ := nextCmd_some h
  have e := (findItem_congr ht shoe seq).trans ((findItem_passCmd s shoe seq l b).trans (by rw [hi]))
  exact itemFails_failAt l g' cause d e (running_open hr)

theorem fails_of_held {s t : State} {shoe seq l op g g0 : Nat} {lv : Level} {b : List Byte} {st : CmdState}
    (h : nextCmd s shoe seq l op = some (lv, g, b)) (ht : t.dl.items = (heldCmd s shoe seq l g0 b st).dl.items) (g' cause d : Nat) :
    itemFails (failAt t shoe seq l g' cause d) shoe seq cause := by
  obtain ⟨i, hi, hr, -⟩ := nextCmd_some h
  obtain ⟨f, hf, he⟩ := findItem_heldCmd s shoe seq l g0 b st
  refine itemFails_failAt l g' cause d ((findItem_congr ht _ _).trans (he.trans (by rw [hi]; rfl))) (running_open ?_)
  rw [hf, hr]

/-- What a command of a shoe that starts does: past the break check, its own effect (R389). -/
theorem gate_starts {s : State} {shoe seq l op : Nat} {lv : Level} {b : List Byte} (h : cmdStarts s shoe seq l op lv b)
    {mine : List Byte → Bool} (hm : mine b = true) (k : State → State) : gate shoe seq l op mine k s = k s := by
  obtain ⟨-, hn, hw⟩ := h
  simp only [gate, hn, hm, Bool.not_true, Bool.false_eq_true, if_false]
  split
  · rfl
  · rename_i h8
    obtain ⟨h1, h2⟩ := hw (by omega)
    simp [h1, h2]

theorem withCmd_starts {s : State} {shoe seq l op : Nat} {lv : Level} {b : List Byte} (h : cmdStarts s shoe seq l op lv b)
    (k : Nat → List Byte → State) : withCmd s shoe seq l op k = k lv.pc b := by
  simp [withCmd, h.2.1]

theorem activeCmd_none {s : State} {shoe seq l op : Nat} {lv : Level} {b : List Byte} (h : cmdStarts s shoe seq l op lv b) {g : Nat}
    (ha : lv.active.find? (·.granule == g) = none) : activeCmd s shoe seq l g = none := by
  obtain ⟨i, hi, hr, hl, -⟩ := nextCmd_some h.2.1
  simp [activeCmd, hi, hl, ha]

theorem cmdAtGate_starts {s : State} {shoe seq l op : Nat} {lv : Level} {b : List Byte} (h : cmdStarts s shoe seq l op lv b)
    (k : State → State) : cmdAtGate shoe seq l lv.pc op k s = k s := by
  unfold cmdAtGate
  split
  · rfl
  · simp [h.2.1, gate_starts h]

end Sys2Proof
end

