-- ==== Sys2Proof/Laws/FxShoe.lean ====
section
/-! SUPPORT. Shoes, their entries, items and outcomes. -/

set_option linter.unusedSimpArgs false
set_option linter.unusedVariables false

namespace Sys2Proof

open Machine

theorem ShoeFlow.refl (a : Shoe) : ShoeFlow a a := rfl

theorem ShoeFlow.trans {a b c : Shoe} (h : ShoeFlow a b) (k : ShoeFlow b c) : ShoeFlow a c := by
  unfold ShoeFlow at *
  rw [h] at k
  exact k

theorem ShoeFlow.of_eq {a b : Shoe} (h : b = a) : ShoeFlow a b := h ▸ rfl

/-- Every shoe flows. -/
def ShoesFlow (s t : State) : Prop := ∀ n, ShoeFlow (s.shoe n) (t.shoe n)

theorem ShoesFlow.refl (s : State) : ShoesFlow s s := fun _ => .refl _

theorem ShoesFlow.trans {s t u : State} (h : ShoesFlow s t) (k : ShoesFlow t u) : ShoesFlow s u := fun n => (h n).trans (k n)

theorem ShoesFlow.of_shoes {s t : State} (h : t.dl.shoes = s.dl.shoes) : ShoesFlow s t := fun n => .of_eq (by simp [State.shoe, h])

theorem ShoesFlow.of_dl {s t : State} (h : t.dl = s.dl) : ShoesFlow s t := .of_shoes (by rw [h])

theorem shoesFlow_foldl {α : Type} {f : State → α → State} (hf : ∀ u x, ShoesFlow u (f u x)) (l : List α) (s : State) : ShoesFlow s (l.foldl f s) := by
  induction l generalizing s with
  | nil => exact .refl _
  | cons x l ih => exact (hf s x).trans (ih _)

theorem shoe_ge (s : State) {n : Nat} (h : 9 ≤ n) : s.shoe n = default := by
  simp [State.shoe, tget, Nat.not_lt.2 h]

theorem modShoe_flow (s : State) (n : Nat) {f : Shoe → Shoe} (hf : ∀ h, ShoeFlow h (f h)) : ShoesFlow s (s.modShoe n f) := by
  intro m
  by_cases hm : n = m
  · subst hm
    by_cases h9 : n < 9
    · rw [shoe_modShoe_same _ _ h9]; exact hf _
    · rw [shoe_ge _ (by omega), shoe_ge _ (by omega)]; exact .refl _
  · rw [shoe_modShoe_ne _ _ hm]; exact .refl _

theorem dropMacro_shoes (s : State) (m : Nat) : (dropMacro s m).dl.shoes = s.dl.shoes := by
  unfold dropMacro; split <;> rfl

theorem releaseHoldings_flow (s : State) (shoe seq : Nat) : ShoesFlow s (releaseHoldings s shoe seq) := by
  unfold releaseHoldings
  dsimp only
  refine ShoesFlow.trans (t := (macrosOf s shoe seq).foldl dropMacro s) (shoesFlow_foldl (fun u x => .of_shoes (dropMacro_shoes u x)) _ _) ?_
  refine ShoesFlow.trans (modShoe_flow _ shoe (f := fun h => if h.callOwner = some seq then { h with callOwner := none, callUsed := 0 } else h)
    fun h => ?_) (.of_shoes rfl)
  split <;> rfl

theorem failItem_flow (s : State) (shoe seq : Nat) (o : Outcome) : ShoesFlow s (failItem s shoe seq o) := by
  unfold failItem
  split
  · exact .refl _
  · split
    · exact .refl _
    · exact (releaseHoldings_flow s shoe seq).trans (.of_shoes rfl)

theorem failAt_flow (s : State) (shoe seq l g c d : Nat) : ShoesFlow s (failAt s shoe seq l g c d) := by
  unfold failAt
  split
  · exact .refl _
  · split <;> exact failItem_flow _ _ _ _

theorem waitMemRead_flow (s : State) (shoe seq l g : Nat) (b : List Byte) : ShoesFlow s (waitMemRead s shoe seq l g b) := by
  unfold waitMemRead
  split
  · exact .of_shoes rfl
  · exact failAt_flow _ _ _ _ _ _ _

theorem waitMemPoll_flow (s : State) (shoe seq l g : Nat) : ShoesFlow s (waitMemPoll s shoe seq l g) := by
  unfold waitMemPoll
  split
  · split
    · exact waitMemRead_flow _ _ _ _ _ _
    · exact .refl _
  · exact .refl _

theorem ringWaits_flow (s : State) (shoe : Nat) : ShoesFlow s (ringWaits s shoe) := by
  unfold ringWaits
  dsimp only
  have h1 := shoesFlow_foldl (f := fun u (w : Nat × Nat × Nat) => setActive u shoe w.1 w.2.1 w.2.2 .waitMemRung) (fun u x => .of_shoes rfl) (memWaits s shoe true) s
  exact h1.trans (shoesFlow_foldl (fun u (x : Nat × Nat × Nat) => waitMemPoll_flow u shoe x.1 x.2.1 x.2.2) _ _)

theorem holdSheet_flow (s : State) (shoe : Nat) : ShoesFlow s (holdSheet s shoe) := modShoe_flow _ _ fun _ => rfl

theorem fixOutcomes_flow (s : State) (shoe : Nat) : ShoesFlow s (fixOutcomes s shoe) := .of_shoes rfl

theorem writeSheet_flow (s : State) (shoe : Nat) (i : Item) : ShoesFlow s (writeSheet s shoe i) := by
  unfold writeSheet
  dsimp only
  have h1 : ShoesFlow s (postHost s (fnOf shoe) (32 * (s.shoe shoe).sheetBase + 32 * (s.shoe shoe).sheetProduce) (sheetRecord i (s.shoe shoe).sheetPhase)) :=
    .of_dl (by simp)
  revert h1
  generalize postHost s (fnOf shoe) (32 * (s.shoe shoe).sheetBase + 32 * (s.shoe shoe).sheetProduce) (sheetRecord i (s.shoe shoe).sheetPhase) = u
  generalize decide ((s.shoe shoe).sheetProduce + 1 = 2 ^ (s.shoe shoe).sheetSizeLog2) = w
  intro h1
  have h2 : ShoesFlow u (u.modShoe shoe fun h => { h with sheetProduce := if w then 0 else h.sheetProduce + 1, sheetPhase := if w then !h.sheetPhase else h.sheetPhase }) :=
    modShoe_flow u shoe fun _ => rfl
  split
  · exact (h1.trans h2).trans (.of_dl (by simp))
  · exact h1.trans h2

theorem reportItems_flow (shoe : Nat) (n : Nat) (s : State) (hi k : Nat) (q : Bool) : ShoesFlow s (reportItems shoe n s hi k q).1 := by
  induction n generalizing s hi k q with
  | zero => exact .refl _
  | succ n ih =>
    unfold reportItems
    split
    · exact holdSheet_flow _ _
    · rename_i i rest hi
      dsimp only
      split
      · exact holdSheet_flow _ _
      · refine ShoesFlow.trans ?_ (ih _ _ _ _)
        refine ShoesFlow.trans (t := if recordDue i then writeSheet s shoe i else s) ?_ (.of_shoes rfl)
        split
        · exact writeSheet_flow _ _ _
        · exact .refl _

theorem writeScore_flow (s : State) (shoe v : Nat) : ShoesFlow s (writeScore s shoe v) := by
  unfold writeScore
  have h1 : ShoesFlow s (postHost s (fnOf shoe) (8 * (s.shoe shoe).scorecard) (leBytes 8 v)) := .of_dl (by simp)
  exact h1.trans (modShoe_flow _ _ fun _ => rfl)

theorem moderate_flow (s : State) (shoe k : Nat) (q : Bool) : ShoesFlow s (moderate s shoe k q) := by
  unfold moderate
  dsimp only
  split
  · have h1 : ShoesFlow s (s.modShoe shoe fun h => { h with modItems := 0 }) := modShoe_flow _ _ fun _ => rfl
    exact h1.trans (.of_dl (by simp))
  · exact modShoe_flow _ _ fun _ => rfl

theorem writeOutcomes_flow (s : State) (shoe : Nat) : ShoesFlow s (writeOutcomes s shoe) := by
  unfold writeOutcomes
  dsimp only
  refine (fixOutcomes_flow s shoe).trans ?_
  generalize fixOutcomes s shoe = u
  split
  · have h1 := reportItems_flow shoe ((itemsOf u shoe).length + 1) u 0 0 false
    split
    · exact h1.trans (.trans (writeScore_flow _ _ _) (.trans (moderate_flow _ _ _ _) (.of_dl (updateLedgerFull_dl _ _))))
    · split
      · exact h1
      · exact h1.trans (.trans (writeScore_flow _ _ _) (.trans (moderate_flow _ _ _ _) (.of_dl (updateLedgerFull_dl _ _))))
  · exact holdSheet_flow _ _

theorem viaShoe_pos {s : State} {n o : Nat} (h : shoeReg s n o) (k : State → State) : viaShoe s n o k = k s := by
  rw [viaShoe, if_pos h.1, viaReg_pos h.2]

theorem ringBell_flow (s : State) {shoe : Nat} (v : Nat) (h : shoe < 9) :
    ShoeFlow (if bits v 0 12 < 2 ^ (s.shoe shoe).sizeLog2 then { s.shoe shoe with produce := bits v 0 12 } else { s.shoe shoe with configError := true })
      ((ringBell s shoe v).shoe shoe) := by
  unfold ringBell
  have hp : ShoeFlow (if bits v 0 12 < 2 ^ (s.shoe shoe).sizeLog2 then { s.shoe shoe with produce := bits v 0 12 } else { s.shoe shoe with configError := true })
      ((writeProduce s shoe v).shoe shoe) := by
    unfold writeProduce
    dsimp only
    refine ShoeFlow.trans ?_ (ringWaits_flow _ _ shoe)
    by_cases hc : bits v 0 12 < 2 ^ (s.shoe shoe).sizeLog2
    · rw [if_pos hc, if_neg (by omega), shoe_modShoe_same _ _ h]; exact .refl _
    · rw [if_neg hc, if_pos (by omega), shoe_modShoe_same _ _ h]; exact .refl _
  refine hp.trans (.of_eq ?_)
  dsimp only
  split
  · have : (leaveP2 (writeProduce s shoe v)).dl = (writeProduce s shoe v).dl := (leaveP2_moves _ (Moves.refl 409608 _) rfl).rest .dl rfl
    simp [State.shoe, this]
  · rfl

end Sys2Proof
end

