-- ==== Sys2Proof/Laws/FxItems.lean ====
section
/-! SUPPORT. Items from their fetch to their outcome. -/

set_option linter.unusedSimpArgs false
set_option linter.unusedVariables false

namespace Sys2Proof

open Machine

theorem reportItems_sub (shoe : Nat) (n : Nat) (s : State) (hi k : Nat) (q : Bool) : ∀ i ∈ (reportItems shoe n s hi k q).1.dl.items, i ∈ s.dl.items := by
  induction n generalizing s hi k q with
  | zero => exact fun i h => h
  | succ n ih =>
    unfold reportItems
    split
    · exact fun i h => h
    · rename_i j rest hj
      dsimp only
      split
      · exact fun i h => h
      · intro i h
        have h1 := ih _ _ _ _ i h
        have h2 : i ∈ (if recordDue j then writeSheet s shoe j else s).dl.items := (List.mem_filter.1 h1).1
        have h3 : (writeSheet s shoe j).dl.items = s.dl.items := by
          unfold writeSheet
          dsimp only
          split
          · rw [raiseSource_dl]; simp [State.modShoe, State.modDl]
          · simp [State.modShoe, State.modDl]
        split at h2
        · rwa [h3] at h2
        · exact h2

theorem findItem_none {s : State} {a b : Nat} (h : ∀ i ∈ s.dl.items, ¬ (i.shoe = a ∧ i.seq = b)) : findItem s a b = none := by
  rw [findItem, List.find?_eq_none]
  intro i hi
  have := h i hi
  simpa using this

theorem writeScore_items (s : State) (n v : Nat) : (writeScore s n v).dl.items = s.dl.items := by
  simp [writeScore, State.modShoe, State.modDl]

theorem moderate_items (s : State) (n k : Nat) (q : Bool) : (moderate s n k q).dl.items = s.dl.items := by
  unfold moderate
  dsimp only
  split
  · rw [raiseSource_dl]; rfl
  · rfl

theorem writeOutcomes_items {s : State} {n : Nat} (h : ((s.shoe n).sheetActive && canIssue s (fnOf n)) = true) :
    (writeOutcomes s n).dl.items =
    (reportItems n ((itemsOf (fixOutcomes s n) n).length + 1) (fixOutcomes s n) 0 0 false).1.dl.items := by
  have h' : (s.shoe n).sheetActive = true ∧ canIssue s (fnOf n) = true := by simpa using h
  unfold writeOutcomes
  dsimp only
  rw [if_pos (show ((fixOutcomes s n).shoe n).sheetActive = true ∧ canIssue (fixOutcomes s n) (fnOf n) = true from h')]
  split
  · rw [updateLedgerFull_dl, moderate_items, writeScore_items]
  · split
    · rfl
    · rw [updateLedgerFull_dl, moderate_items, writeScore_items]

/-- What writing a shoe's outcomes does, once its fixed items are RESOLVED: nothing but to note what waits, or records that may
be followed by the scorecard (R103, R104). -/
theorem writeOutcomes_shape (s : State) (n : Nat) :
    let u := fixOutcomes s n
    let r := reportItems n ((itemsOf u n).length + 1) u 0 0 false
    writeOutcomes s n = holdSheet u n ∨ writeOutcomes s n = r.1 ∨
      ∃ v, writeOutcomes s n = updateLedgerFull (moderate (writeScore r.1 n v) n r.2.2.1 r.2.2.2) n := by
  unfold writeOutcomes
  dsimp only
  split
  · split
    · exact .inr (.inr ⟨_, rfl⟩)
    · split
      · exact .inr (.inl rfl)
      · exact .inr (.inr ⟨_, rfl⟩)
  · exact .inl rfl

theorem itemsOf_filter_shoe {s : State} {n : Nat} {i : Item} {rest : List Item} (h : itemsOf s n = i :: rest) : i.shoe = n := by
  have : i ∈ itemsOf s n := by rw [h]; simp
  simpa using (List.mem_filter.1 this).2

theorem entryPassed_fail {s : State} {n q : Nat} {f g : Item → Item} (hn : n < 9) (hf : ∀ i, (f i).shoe = i.shoe ∧ (f i).seq = i.seq)
    (hg : ∀ i, (g i).shoe = i.shoe ∧ (g i).seq = i.seq) :
    entryPassed s ((passEntry (s.modItem n q f) n).modItem n q g) n q (fun i => g (f i)) := by
  have h0 : ∀ u : State, (passEntry u n).dl.items = u.dl.items := fun _ => rfl
  refine ⟨?_, ?_, ?_, ?_⟩
  · have e : ((passEntry (s.modItem n q f) n).modItem n q g).shoe n = (passEntry (s.modItem n q f) n).shoe n := rfl
    have e2 : (s.modItem n q f).shoe n = s.shoe n := rfl
    rw [e, passEntry, shoe_modShoe_same _ _ hn, e2]
  · rw [findItem_modItem hg, if_pos ⟨rfl, rfl⟩, findItem_congr (h0 _), findItem_modItem hf, if_pos ⟨rfl, rfl⟩, Option.map_map]; rfl
  · exact (othersStay.modItem s hf).trans ((othersStay.of_items (h0 _)).trans (.modItem _ hg))
  · intro p hp; cases p <;> first | exact absurd (by decide) hp | rfl

theorem entryPassed_bare {s : State} {n q : Nat} {g : Item → Item} (hn : n < 9) (hg : ∀ i, (g i).shoe = i.shoe ∧ (g i).seq = i.seq) :
    entryPassed s ((passEntry s n).modItem n q g) n q g := by
  have h0 : ∀ u : State, (passEntry u n).dl.items = u.dl.items := fun _ => rfl
  refine ⟨?_, ?_, ?_, ?_⟩
  · have e : ((passEntry s n).modItem n q g).shoe n = (passEntry s n).shoe n := rfl
    rw [e, passEntry, shoe_modShoe_same _ _ hn]
  · rw [findItem_modItem hg, if_pos ⟨rfl, rfl⟩, findItem_congr (h0 _)]
  · exact (othersStay.of_items (h0 _)).trans (.modItem _ hg)
  · intro p hp; cases p <;> first | exact absurd (by decide) hp | rfl

end Sys2Proof
end

