-- ==== Sys2Proof/Laws/FxCmd.lean ====
section
/-! SUPPORT. The plain commands of decks. -/

set_option linter.unusedSimpArgs false
set_option linter.unusedVariables false

namespace Sys2Proof

open Machine

theorem levelOf_setActive (s : State) (shoe seq l g : Nat) (st : CmdState) : levelOf (setActive s shoe seq l g st) shoe seq l =
    (levelOf s shoe seq l).map fun lv => { lv with active := lv.active.map fun a => if a.granule == g then { a with st := st } else a } :=
  levelOf_modLevel fun _ => rfl

theorem activeAt_set {s : State} {shoe seq l g : Nat} {lv : Level} (st : CmdState) (h : levelOf s shoe seq l = some lv)
    (ha : ∃ a ∈ lv.active, a.granule = g) : ∃ lv', levelOf (setActive s shoe seq l g st) shoe seq l = some lv' ∧ lv'.pc = lv.pc ∧
      lv'.events = lv.events ∧ activeAt lv' g st := by
  obtain ⟨a, h1, h2⟩ := ha
  refine ⟨{ lv with active := lv.active.map fun a => if a.granule == g then { a with st := st } else a },
    by rw [levelOf_setActive, h]; rfl, rfl, rfl, { a with st := st }, ?_, h2, rfl⟩
  exact List.mem_map.2 ⟨a, h1, by simp [h2]⟩

theorem held_active {s : State} {shoe seq l op : Nat} {lv : Level} {b : List Byte} (h : cmdStarts s shoe seq l op lv b) (st : CmdState) :
    levelOf (heldCmd s shoe seq l lv.pc b st) shoe seq l = some (cmdHeld s.now lv b st) ∧
      ∃ a ∈ (cmdHeld s.now lv b st).active, a.granule = lv.pc := by
  obtain ⟨i, hi, hr, hl, -, -, -, -, hlv⟩ := nextCmd_some h.2.1
  exact ⟨levelOf_heldCmd b st hlv, { granule := lv.pc, st := st, age := s.now }, by simp [cmdHeld], rfl⟩

theorem activeCmd_some {s : State} {shoe seq l g : Nat} {lv : Level} {a : Active} {b : List Byte} (h : activeCmd s shoe seq l g = some (lv, a, b)) :
    ∃ i, findItem s shoe seq = some i ∧ i.st = .running ∧ i.level l = some lv ∧ b = cmdAt lv.bytes g ∧ a ∈ lv.active ∧ a.granule = g ∧
      levelOf s shoe seq l = some lv := by
  unfold activeCmd at h
  split at h
  · cases h
  · rename_i i hi
    split at h
    · cases h
    · rename_i v hv
      split at h
      · cases h
      · rename_i a' ha
        split at h
        · rename_i hr
          cases h
          exact ⟨i, hi, hr, hv, rfl, List.mem_of_find?_eq_some ha, by simpa using List.find?_some ha, by simp [levelOf, hi, hv]⟩
        · cases h

theorem fails_of_active {s t : State} {shoe seq l g : Nat} {lv : Level} {a : Active} {b : List Byte}
    (h : activeCmd s shoe seq l g = some (lv, a, b)) (ht : t.dl.items = s.dl.items) (g' cause d : Nat) :
    itemFails (failAt t shoe seq l g' cause d) shoe seq cause := by
  obtain ⟨i, hi, hr, -⟩ := activeCmd_some h
  exact itemFails_failAt l g' cause d ((findItem_congr ht _ _).trans hi) (running_open hr)

theorem compareTally_iff (cmp v o : Nat) : compareTally cmp v o = true ↔ condHolds cmp v o := by
  match cmp with
  | 0 => simp [compareTally, condHolds]
  | 1 => simp [compareTally, condHolds]
  | 2 => simp [compareTally, condHolds]
  | n + 3 =>
    have h1 : n + 3 ≠ 0 := by omega
    have h2 : n + 3 ≠ 1 := by omega
    have h3 : n + 3 ≠ 2 := by omega
    simp [compareTally, condHolds, h1, h2, h3]

theorem testCond_ok {s : State} {shoe n : Nat} {b : List Byte} (cmp : Nat) (h : resolveTally s shoe (field b 8 2) = some n)
    (hp : (s.tally n).poisoned = false) : testCond s shoe b cmp = .ok (compareTally cmp (s.tally n).value.toNat (field b 0xC 4)) := by
  simp [testCond, h, hp]

theorem testCond_poisoned {s : State} {shoe n : Nat} {b : List Byte} (cmp : Nat) (h : resolveTally s shoe (field b 8 2) = some n)
    (hp : (s.tally n).poisoned = true) : testCond s shoe b cmp = .error ((s.tally n).cause, poisonDetail (s.tally n) (field b 8 2)) := by
  simp [testCond, h, hp]

theorem testCond_none {s : State} {shoe : Nat} {b : List Byte} (cmp : Nat) (h : resolveTally s shoe (field b 8 2) = none) :
    testCond s shoe b cmp = .error (0x0102, 0) := by
  simp [testCond, h]

/-- The level that a LOOP enters (R111). -/
theorem levelOf_enter {s : State} {shoe seq l : Nat} {lv : Level} (b : List Byte) (f : LoopFrame) (h : levelOf s shoe seq l = some lv) :
    levelOf ((heldCmd s shoe seq l lv.pc b .loop).modLevel shoe seq l fun lv => { lv with loops := f :: lv.loops }) shoe seq l =
      some { cmdHeld s.now lv b .loop with loops := f :: lv.loops } := by
  have e := levelOf_modLevel (s := heldCmd s shoe seq l lv.pc b .loop) (shoe := shoe) (seq := seq) (l := l)
    (f := fun v => { v with loops := f :: v.loops }) (fun _ => rfl)
  refine e.trans ?_
  rw [levelOf_heldCmd b .loop h]; rfl

theorem levelOf_endLoop {s : State} {shoe seq l : Nat} {lv : Level} (f : LoopFrame) (h : levelOf s shoe seq l = some lv) :
    levelOf (endLoop s shoe seq l f) shoe seq l = some (loopEnded lv f lv.loops.tail) := by
  have e := levelOf_modLevel (s := s) (shoe := shoe) (seq := seq) (l := l)
    (f := fun v => { v with pc := f.last, loops := v.loops.tail }) (fun _ => rfl)
  rw [h] at e
  rw [endLoop, levelOf_completeCmd, e]
  rfl

end Sys2Proof
end

