-- ==== Sys2Proof/Laws/FxTally.lean ====
section
/-! SUPPORT. Tallies, host wait slots and tricks. -/

set_option linter.unusedSimpArgs false
set_option linter.unusedVariables false

namespace Sys2Proof

open Machine

/-- Of the tallies' block only the claims' windows differ. -/
def SyncClaims (a b : Sync) : Prop := b = { a with claims := b.claims }

theorem SyncClaims.refl (a : Sync) : SyncClaims a a := rfl

theorem SyncClaims.trans {a b c : Sync} (h : SyncClaims a b) (k : SyncClaims b c) : SyncClaims a c := by
  unfold SyncClaims at *
  rw [h] at k
  exact k

theorem SyncClaims.of_eq {a b : Sync} (h : b = a) : SyncClaims a b := h ▸ rfl

theorem SyncClaims.tally {s t : State} (h : SyncClaims s.sync t.sync) (n : Nat) : t.tally n = s.tally n := by
  unfold State.tally; rw [h]

theorem endHostWait_sync (s : State) (c w : Nat) (b : Bool) : SyncClaims s.sync (endHostWait s c w b).sync := by
  rw [endHostWait, raiseSource_sync]; rfl

theorem sync_foldl {α : Type} {f : State → α → State} (hf : ∀ u x, SyncClaims u.sync (f u x).sync) (l : List α) (s : State) :
    SyncClaims s.sync (l.foldl f s).sync := by
  induction l generalizing s with
  | nil => exact .refl _
  | cons x l ih => exact (hf s x).trans (ih _)

theorem modRoundsArmed_sync (s : State) (f : Armed → Armed) : (s.modRoundsArmed f).sync = s.sync := rfl

theorem modRoundsArmed_dl (s : State) (f : Armed → Armed) : (s.modRoundsArmed f).dl = s.dl := rfl

theorem waitersOn_modRoundsArmed (s : State) (f : Armed → Armed) (n : Nat) : waitersOn (s.modRoundsArmed f) n = waitersOn s n := rfl

theorem beginWaits_sync (s : State) (c : Nat) : (beginWaits s c).sync = s.sync := rfl

theorem beginWaits_dl (s : State) (c : Nat) : (beginWaits s c).dl = s.dl := rfl

theorem testTally_sync (s : State) (n : Nat) : SyncClaims s.sync (testTally s n).sync := by
  unfold testTally
  dsimp only
  refine SyncClaims.trans ?_ (sync_foldl (fun u x => ?_) _ _)
  · refine SyncClaims.trans (.of_eq (modRoundsArmed_sync s _)) (sync_foldl (fun u x => ?_) _ _)
    split
    · exact .of_eq rfl
    · exact .refl _
  · split
    · exact endHostWait_sync _ _ _ _
    · exact .refl _

theorem failWaiters_sync (s : State) (n : Nat) : SyncClaims s.sync (failWaiters s n).sync := by
  unfold failWaiters
  dsimp only
  refine SyncClaims.trans ?_ (sync_foldl (fun u x => endHostWait_sync _ _ _ _) _ _)
  exact (SyncClaims.of_eq (modRoundsArmed_sync s _)).trans <| sync_foldl (fun u x => .of_eq ((failAt_moves u _ _ _ _ _ _ (Moves.refl 128 u) rfl).rest .sync rfl)) _ _

theorem tally_modTally_same (s : State) {n : Nat} (f : Tally → Tally) (h : n < 1024) : (s.modTally n f).tally n = f (s.tally n) := by
  simp [State.tally, State.modTally, State.modSync, tget_tmod_same _ _ h]

theorem tally_modTally_ne (s : State) {n m : Nat} (f : Tally → Tally) (h : n ≠ m) : (s.modTally n f).tally m = s.tally m := by
  simp [State.tally, State.modTally, State.modSync, tget_tmod_ne _ _ h]

/-- The levels of the ledger after commands have completed: each level that was is, with fewer active commands. -/
def Falls (s t : State) : Prop := ∀ a b l, (levelOf s a b l = none → levelOf t a b l = none) ∧
  ∀ lv, levelOf s a b l = some lv → ∃ lv', levelOf t a b l = some lv' ∧ lv'.pc = lv.pc ∧ lv'.bytes = lv.bytes ∧ lv'.loops = lv.loops ∧
    ∀ x ∈ lv'.active, x ∈ lv.active

theorem Falls.of_items {s t : State} (h : t.dl.items = s.dl.items) : Falls s t := fun a b l =>
  ⟨fun k => (levelOf_congr h a b l).trans k, fun lv k => ⟨lv, (levelOf_congr h a b l).trans k, rfl, rfl, rfl, fun _ hx => hx⟩⟩

theorem Falls.refl (s : State) : Falls s s := .of_items rfl

theorem Falls.trans {s t u : State} (h : Falls s t) (k : Falls t u) : Falls s u := by
  intro a b l
  refine ⟨fun h0 => (k a b l).1 ((h a b l).1 h0), fun lv h0 => ?_⟩
  obtain ⟨lv', h1, h2, h3, h4, h5⟩ := (h a b l).2 lv h0
  obtain ⟨lw, k1, k2, k3, k4, k5⟩ := (k a b l).2 lv' h1
  exact ⟨lw, k1, k2.trans h2, k3.trans h3, k4.trans h4, fun x hx => h5 x (k5 x hx)⟩

theorem levelOf_modLevel_ne {s : State} {shoe seq l : Nat} {f : Level → Level} (hk : ∀ v, (f v).id = v.id) {a b k : Nat}
    (h : ¬ (a = shoe ∧ b = seq ∧ k = l)) : levelOf (s.modLevel shoe seq l f) a b k = levelOf s a b k := by
  rw [levelOf, findItem_modLevel, levelOf]
  split
  · rename_i hab
    cases findItem s a b with
    | none => rfl
    | some i =>
      simp only [Option.map_some, Option.bind_some, level_modLevel hk]
      rw [if_neg (fun hl => h ⟨hab.1, hab.2, hl⟩)]
  · rfl

theorem completeCmd_falls (s : State) (shoe seq l g : Nat) : Falls s (completeCmd s shoe seq l g) := by
  intro a b k
  by_cases h : a = shoe ∧ b = seq ∧ k = l
  · obtain ⟨rfl, rfl, rfl⟩ := h
    rw [levelOf_completeCmd]
    exact ⟨fun h => by rw [h]; rfl, fun lv h => ⟨cmdEnded lv g, by rw [h]; rfl, rfl, rfl, rfl, fun x hx => (List.mem_filter.1 hx).1⟩⟩
  · have e : levelOf (completeCmd s shoe seq l g) a b k = levelOf s a b k := levelOf_modLevel_ne (f := fun lv => cmdEnded lv g) (fun _ => rfl) h
    rw [e]
    exact ⟨fun h => h, fun lv h => ⟨lv, h, rfl, rfl, rfl, fun _ hx => hx⟩⟩

theorem falls_foldl {α : Type} {f : State → α → State} (hf : ∀ u x, Falls u (f u x)) (l : List α) (s : State) : Falls s (l.foldl f s) := by
  induction l generalizing s with
  | nil => exact .refl _
  | cons x l ih => exact (hf s x).trans (ih _)

theorem endHostWait_items (s : State) (c w : Nat) (b : Bool) : (endHostWait s c w b).dl = s.dl := by
  rw [endHostWait, raiseSource_dl]; rfl

/-- No command of a level is active at a granule. -/
def Gone (t : State) (sh sq k g : Nat) : Prop := ∀ lv, levelOf t sh sq k = some lv → ∀ a ∈ lv.active, a.granule ≠ g

theorem Gone.mono {s t : State} {sh sq k g : Nat} (h : Gone s sh sq k g) (f : Falls s t) : Gone t sh sq k g := by
  intro lv hlv a ha
  cases hs : levelOf s sh sq k with
  | none => rw [(f sh sq k).1 hs] at hlv; cases hlv
  | some lw =>
    obtain ⟨lv', h1, -, -, -, h5⟩ := (f sh sq k).2 lw hs
    rw [hlv] at h1; cases h1
    exact h lw hs a (h5 a ha)

theorem completeCmd_gone (s : State) (shoe seq l g : Nat) : Gone (completeCmd s shoe seq l g) shoe seq l g := by
  intro lv h a ha
  rw [levelOf_completeCmd] at h
  cases hs : levelOf s shoe seq l with
  | none => rw [hs] at h; cases h
  | some lw =>
    rw [hs] at h; cases h
    have := (List.mem_filter.1 ha).2
    simpa using this

theorem testTally_falls (s : State) (n : Nat) : Falls s (testTally s n) := by
  unfold testTally
  dsimp only
  refine Falls.trans (Falls.trans (.of_items (by rw [modRoundsArmed_dl])) (falls_foldl (fun u x => ?_) _ _)) (falls_foldl (fun u x => ?_) _ _)
  · split
    · exact completeCmd_falls _ _ _ _ _
    · exact .refl _
  · split
    · exact .of_items (by rw [endHostWait_items])
    · exact .refl _

theorem testTally_gone (s : State) (n : Nat) {sh sq k g thr : Nat} {eq : Bool} (h : (sh, sq, k, g, eq, thr) ∈ waitersOn s n)
    (hm : waitMet eq (s.tally n).value.toNat thr = true) : Gone (testTally s n) sh sq k g := by
  unfold testTally
  dsimp only
  refine Gone.mono ?_ (falls_foldl (fun u x => ?_) _ _)
  · have key : ∀ (v : Nat) (ws : List (Nat × Nat × Nat × Nat × Bool × Nat)) (u : State), (sh, sq, k, g, eq, thr) ∈ ws → waitMet eq v thr = true →
        Gone (ws.foldl (fun s w => if waitMet w.2.2.2.2.1 v w.2.2.2.2.2 then completeCmd s w.1 w.2.1 w.2.2.1 w.2.2.2.1 else s) u) sh sq k g := by
      intro v ws
      induction ws with
      | nil => intro u h; cases h
      | cons w ws ih =>
        intro u h hm
        rw [List.foldl_cons]
        rcases List.mem_cons.1 h with rfl | h
        · rw [if_pos hm]
          refine (completeCmd_gone u sh sq k g).mono (falls_foldl (fun u x => ?_) _ _)
          split
          · exact completeCmd_falls _ _ _ _ _
          · exact .refl _
        · exact ih _ h hm
    exact key _ _ _ h hm
  · split
    · exact .of_items (by rw [endHostWait_items])
    · exact .refl _

theorem sendTrick_sync (s : State) (seat : Seat) (m : List Byte) : (sendTrick s seat m).sync = s.sync :=
  (sendTrick_moves s seat m (Moves.refl 49152 s) rfl).rest .sync rfl

theorem sendTrick_dl (s : State) (seat : Seat) (m : List Byte) : (sendTrick s seat m).dl = s.dl :=
  (sendTrick_moves s seat m (Moves.refl 49152 s) rfl).rest .dl rfl

theorem sendTricks_eq (l : List Seat) (m : State → List Byte) (s : State) :
    (l.foldl (fun s seat => sendTrick s seat (m s)) s).sync = s.sync ∧ (l.foldl (fun s seat => sendTrick s seat (m s)) s).dl = s.dl := by
  induction l generalizing s with
  | nil => exact ⟨rfl, rfl⟩
  | cons x l ih => rw [List.foldl_cons, (ih _).1, (ih _).2, sendTrick_sync, sendTrick_dl]; exact ⟨rfl, rfl⟩

/-- The release tally of the trick in slot k. -/
def relOf (s : State) (k : Nat) : Option Nat := (tget s.sync.tricks k).map (·.releaseTally)

/-- The tallies but one, and the tricks' tallies, stay, and levels only lose commands. -/
structure TrickOnly (k : Nat) (s t : State) : Prop where
  tallies : ∀ m, relOf s k ≠ some m → t.tally m = s.tally m
  rel : relOf t k = relOf s k
  falls : Falls s t

theorem TrickOnly.refl (k : Nat) (s : State) : TrickOnly k s s := ⟨fun _ _ => rfl, rfl, .refl _⟩

theorem TrickOnly.trans {k : Nat} {s t u : State} (h : TrickOnly k s t) (j : TrickOnly k t u) : TrickOnly k s u :=
  ⟨fun m hm => (j.tallies m (by rw [h.rel]; exact hm)).trans (h.tallies m hm), j.rel.trans h.rel, h.falls.trans j.falls⟩

theorem TrickOnly.of_eq {k : Nat} {s t : State} (h : t.sync = s.sync) (d : t.dl = s.dl) : TrickOnly k s t :=
  ⟨fun m _ => by simp [State.tally, h], by simp [relOf, h], .of_items (by rw [d])⟩

theorem tget_ge {α : Type} [Inhabited α] {n : Nat} (v : Vector α n) {i : Nat} (h : n ≤ i) : tget v i = default := by
  simp [tget, Nat.not_lt.2 h]

theorem setTrick_only {s : State} {k : Nat} {t0 : Trick} (t : Trick) (h : tget s.sync.tricks k = some t0) (hr : t.releaseTally = t0.releaseTally) :
    TrickOnly k s (s.setTrick k (some t)) := by
  refine ⟨fun _ _ => rfl, ?_, .of_items rfl⟩
  have hk : k < 64 := by
    by_contra hc
    rw [tget_ge _ (by omega)] at h
    cases h
  simp only [relOf, State.setTrick, State.modSync, tget_tset_same _ _ hk, h, Option.map_some, hr]

theorem testTally_only (s : State) (n k : Nat) : TrickOnly k s (testTally s n) := by
  have h := testTally_sync s n
  exact ⟨fun m _ => h.tally m, by unfold relOf; rw [h], testTally_falls s n⟩

theorem modTally_only {s : State} {k n : Nat} (f : Tally → Tally) (h : relOf s k = some n) : TrickOnly k s (s.modTally n f) := by
  refine ⟨fun m hm => tally_modTally_ne _ _ ?_, rfl, .of_items rfl⟩
  rintro rfl; exact hm h

theorem applyRelease_only (s : State) (k g : Nat) : TrickOnly k s (applyRelease s k g) := by
  unfold applyRelease
  split
  · exact .refl _ _
  · rename_i t ht
    have h1 := setTrick_only (s := s) { t with gen := g + 1, arrived := false, arrivals := [] } ht rfl
    dsimp only
    have h2 := h1.trans (.trans (modTally_only (n := t.releaseTally) (fun y => { y with value := BitVec.ofNat 32 g })
      (by rw [h1.rel, relOf, ht]; rfl)) (testTally_only _ t.releaseTally _))
    split
    · exact h2.trans (.of_eq (beginWaits_sync _ _) (beginWaits_dl _ _))
    · exact h2

theorem collectArrival_only (s : State) (k : Nat) (o : Seat) : TrickOnly k s (collectArrival s k o) := by
  unfold collectArrival
  split
  · exact .refl _ _
  · rename_i t ht
    dsimp only
    generalize (if t.arrivals.contains o then t.arrivals else t.arrivals ++ [o]) = arr
    split
    · have h0 := sendTricks_eq ((distinctSeats t.seats).filter (· != ownSeat s)) (fun s => trickMessage t 2 0 (ownSeat s)) s
      revert h0
      generalize ((distinctSeats t.seats).filter (· != ownSeat s)).foldl (fun s seat => sendTrick s seat (trickMessage t 2 0 (ownSeat s))) s = u
      intro h0
      have hu : tget u.sync.tricks k = some t := by rw [h0.1]; exact ht
      have h1 : TrickOnly k u (u.setTrick k (some { t with arrivals := arr })) := setTrick_only (t0 := t) _ hu rfl
      exact (TrickOnly.of_eq h0.1 h0.2).trans (h1.trans (applyRelease_only _ _ _))
    · exact setTrick_only (t0 := t) { t with arrivals := arr } ht rfl

theorem arriveFrom_only (n : Nat) (s : State) (k : Nat) : TrickOnly k s (arriveFrom n s k) := by
  induction n generalizing s with
  | zero => exact .refl _ _
  | succ n ih =>
    unfold arriveFrom
    split
    · exact .refl _ _
    · rename_i t ht
      split
      · exact .refl _ _
      · dsimp only
        have h1 := setTrick_only (s := s) { t with arrived := true } ht rfl
        split
        · exact h1.trans ((collectArrival_only _ _ _).trans (ih _))
        · exact h1.trans (.of_eq (sendTrick_sync _ _ _) (sendTrick_dl _ _ _))

theorem arriveCheck_only (s : State) (k : Nat) : TrickOnly k s (arriveCheck s k) := arriveFrom_only _ _ _

theorem modTally_falls (s : State) (n : Nat) (f : Tally → Tally) : Falls s (s.modTally n f) := .of_items rfl

theorem findSome_range {α : Type} {n : Nat} {f : Nat → Option α} {x : α} (h : (List.range n).findSome? f = some x) : ∃ k < n, f k = some x := by
  obtain ⟨k, hk, hx⟩ := List.exists_of_findSome?_eq_some h
  exact ⟨k, by simpa using hk, hx⟩

theorem trickOfTally_some {s : State} {n k : Nat} {t : Trick} (h : trickOfTally s n = some (k, t)) :
    k < 64 ∧ tget s.sync.tricks k = some t ∧ (t.arriveTally = n ∨ t.releaseTally = n) := by
  obtain ⟨j, hj, hx⟩ := findSome_range h
  split at hx
  · rename_i t' ht
    split at hx
    · rename_i hc; cases hx; exact ⟨hj, ht, hc⟩
    · cases hx
  · cases hx

/-- What an operation does that sets a READY tally which is no live trick's release tally (Table 11.1, R215). -/
theorem applyTally_set {s : State} {n : Nat} (v : Word32) (hn : n < 1024) (hr : isRelease s n = false) :
    tallySet s (applyTally s n v) n v ∧ Falls s (applyTally s n v) := by
  have e1 : Falls s (testTally (s.modTally n fun t => { t with value := v }) n) := (modTally_falls s n _).trans (testTally_falls _ n)
  have e2 : ∀ m, (testTally (s.modTally n fun t => { t with value := v }) n).tally m = (s.modTally n fun t => { t with value := v }).tally m := fun m =>
    (testTally_sync _ n).tally m
  have e3 : ∀ sh sq k g eq thr, (sh, sq, k, g, eq, thr) ∈ waitersOn s n → (if eq then v.toNat = thr else thr ≤ v.toNat) →
      Gone (testTally (s.modTally n fun t => { t with value := v }) n) sh sq k g := by
    intro sh sq k g eq thr h hm
    refine testTally_gone _ _ h ?_
    rw [tally_modTally_same _ _ hn]
    cases eq <;> simpa [waitMet] using hm
  have e4 : isRelease s n = false → ∀ k t, trickOfTally s n = some (k, t) → t.releaseTally ≠ n := by
    intro h k t ht; rw [isRelease, ht] at h; simpa using h
  unfold applyTally
  dsimp only
  split
  · rename_i k t ht
    obtain ⟨hk, htk, -⟩ := trickOfTally_some ht
    split
    · have h := arriveCheck_only (testTally (s.modTally n fun t => { t with value := v }) n) k
      have hrel : relOf (testTally (s.modTally n fun t => { t with value := v }) n) k ≠ some n := by
        have : relOf (testTally (s.modTally n fun t => { t with value := v }) n) k = some t.releaseTally := by
          rw [(testTally_only _ n k).rel]
          show (tget s.sync.tricks k).map (·.releaseTally) = _
          rw [htk]; rfl
        rw [this]
        intro hc; cases hc
        exact e4 hr k t ht rfl
      refine ⟨⟨?_, fun hc => (by rw [ht] at hc; cases hc), fun sh sq k g eq thr hw hm => ?_⟩, e1.trans h.falls⟩
      · rw [h.tallies _ hrel, e2, tally_modTally_same _ _ hn]
      · exact (e3 sh sq k g eq thr hw hm).mono h.falls
    · refine ⟨⟨by rw [e2, tally_modTally_same _ _ hn], fun _ m hm => by rw [e2, tally_modTally_ne _ _ (Ne.symm hm)], e3⟩, e1⟩
  · refine ⟨⟨by rw [e2, tally_modTally_same _ _ hn], fun _ m hm => by rw [e2, tally_modTally_ne _ _ (Ne.symm hm)], e3⟩, e1⟩

theorem isRelease_modTally (s : State) (n m : Nat) (f : Tally → Tally) : isRelease (s.modTally m f) n = isRelease s n := rfl

theorem armTally_set {s : State} {n : Nat} (v : Nat) (hn : n < 1024) (hr : isRelease s n = false) :
    (armTally s n v).tally n = { value := BitVec.ofNat 32 v } ∧
    (trickOfTally s n = none → ∀ m, m ≠ n → (armTally s n v).tally m = s.tally m) ∧ Falls s (armTally s n v) ∧
    ∀ sh sq k g eq thr, (sh, sq, k, g, eq, thr) ∈ waitersOn s n → (if eq then (BitVec.ofNat 32 v).toNat = thr else thr ≤ (BitVec.ofNat 32 v).toNat) →
      Gone (armTally s n v) sh sq k g := by
  obtain ⟨⟨h1, h2, h3⟩, h4⟩ := applyTally_set (s := s.modTally n fun _ => {}) (n := n) (BitVec.ofNat 32 v) hn hr
  refine ⟨?_, fun h m hm => ?_, (modTally_falls s n _).trans h4, h3⟩
  · rw [armTally, h1, tally_modTally_same _ _ hn]
  · rw [armTally, h2 h m hm, tally_modTally_ne _ _ (Ne.symm hm)]

/-- An item that is past its commit point or has ended stays as it is. -/
def Settled (s t : State) : Prop := ∀ a b i, findItem s a b = some i → i.fixed = true → findItem t a b = some i

theorem Settled.refl (s : State) : Settled s s := fun _ _ _ h _ => h

theorem Settled.trans {s t u : State} (h : Settled s t) (k : Settled t u) : Settled s u := fun a b i h1 h2 => k a b i (h a b i h1 h2) h2

theorem Settled.of_items {s t : State} (h : t.dl.items = s.dl.items) : Settled s t := fun a b _ h1 _ => (findItem_congr h a b).trans h1

theorem failAt_settled (s : State) (shoe seq l g c d : Nat) : Settled s (failAt s shoe seq l g c d) := by
  intro a b i h hf
  by_cases hab : a = shoe ∧ b = seq
  · obtain ⟨rfl, rfl⟩ := hab
    unfold failAt
    simp only [h]
    split <;> simp [failItem, h, hf]
  · rw [others_failAt s shoe seq l g c d a b (by omega)]; exact h

theorem settled_foldl {α : Type} {f : State → α → State} (hf : ∀ u x, Settled u (f u x)) (l : List α) (s : State) : Settled s (l.foldl f s) := by
  induction l generalizing s with
  | nil => exact .refl _
  | cons x l ih => exact (hf s x).trans (ih _)

theorem failWaiters_settled (s : State) (n : Nat) : Settled s (failWaiters s n) := by
  unfold failWaiters
  dsimp only
  refine Settled.trans ((Settled.of_items (by rw [modRoundsArmed_dl])).trans (settled_foldl (fun u x => failAt_settled _ _ _ _ _ _ _) _ _))
    (settled_foldl (fun u x => ?_) _ _)
  exact .of_items (by rw [endHostWait_items])

theorem itemFails_settled {s t : State} {a b c : Nat} (h : itemFails s a b c) (k : Settled s t) : itemFails t a b c := by
  obtain ⟨i, h1, h2, h3, h4⟩ := h
  exact ⟨i, k a b i h1 (by simp [Item.fixed, h2]), h2, h3, h4⟩

/-- Failing a list of waiters fails each of their items that was open, and changes no other item. -/
theorem failList (c : Nat) (d : State → Nat × Nat × Nat × Nat × Bool × Nat → Nat) (ws : List (Nat × Nat × Nat × Nat × Bool × Nat)) (s : State) :
    (∀ w ∈ ws, ∀ i, findItem s w.1 w.2.1 = some i → i.fixed = false →
      itemFails (ws.foldl (fun s w => failAt s w.1 w.2.1 w.2.2.1 w.2.2.2.1 c (d s w)) s) w.1 w.2.1 c) ∧
    (∀ a b, (∀ w ∈ ws, ¬ (w.1 = a ∧ w.2.1 = b)) →
      findItem (ws.foldl (fun s w => failAt s w.1 w.2.1 w.2.2.1 w.2.2.2.1 c (d s w)) s) a b = findItem s a b) := by
  induction ws generalizing s with
  | nil => exact ⟨(fun w h => by cases h), fun _ _ _ => rfl⟩
  | cons x ws ih =>
    rw [List.foldl_cons]
    refine ⟨fun w hw i hi hf => ?_, fun a b h => ?_⟩
    · by_cases hx : w.1 = x.1 ∧ w.2.1 = x.2.1
      · rw [hx.1, hx.2] at hi ⊢
        refine itemFails_settled (itemFails_failAt _ _ _ _ hi hf) (settled_foldl (fun u y => failAt_settled _ _ _ _ _ _ _) _ _)
      · rcases List.mem_cons.1 hw with rfl | hw
        · exact absurd ⟨rfl, rfl⟩ hx
        · exact (ih _).1 w hw i ((others_failAt _ _ _ _ _ _ _ _ _ (by omega)).trans hi) hf
    · rw [(ih _).2 a b fun w hw => h w (List.mem_cons_of_mem _ hw)]
      refine others_failAt _ _ _ _ _ _ _ _ _ ?_
      have := h x (by simp)
      omega

theorem failWaiters_items (s : State) (n : Nat) :
    (∀ w ∈ waitersOn s n, ∀ i, findItem s w.1 w.2.1 = some i → i.fixed = false → itemFails (failWaiters s n) w.1 w.2.1 (s.tally n).cause) ∧
    (∀ a b, (∀ w ∈ waitersOn s n, ¬ (w.1 = a ∧ w.2.1 = b)) → findItem (failWaiters s n) a b = findItem s a b) := by
  have h := failList (s.tally n).cause (fun s' w => poisonDetail (s.tally n) (n - (if w.1 < 8 then (s'.claim w.1).tallyBase else 0))) (waitersOn s n) (s.modRoundsArmed (Armed.failWaits n (s.tally n).cause))
  have e : ∀ a b, findItem (s.modRoundsArmed (Armed.failWaits n (s.tally n).cause)) a b = findItem s a b := fun _ _ => rfl
  have k : ∀ (ws : List (Nat × Nat)) (u : State), (ws.foldl (fun s cw => endHostWait s cw.1 cw.2 true) u).dl = u.dl := by
    intro ws; induction ws with
    | nil => intro u; rfl
    | cons w ws ih => intro u; rw [List.foldl_cons, ih, endHostWait_items]
  unfold failWaiters
  dsimp only
  refine ⟨fun w hw i hi hf => ?_, fun a b hab => ?_⟩
  · exact itemFails_settled (h.1 w hw i ((e _ _).trans hi) hf) (.of_items (by rw [k]))
  · refine Eq.trans (findItem_congr ?_ a b) ((h.2 a b hab).trans (e a b))
    rw [k]

theorem modTally_settled (s : State) (n : Nat) (f : Tally → Tally) : Settled s (s.modTally n f) := .of_items rfl

theorem setTrick_settled (s : State) (k : Nat) (t : Option Trick) : Settled s (s.setTrick k t) := .of_items rfl

theorem setTrick_tally (s : State) (k : Nat) (t : Option Trick) (m : Nat) : (s.setTrick k t).tally m = s.tally m := rfl

theorem poisonOne_settled (s : State) (n c : Nat) (o : Seat) : Settled s (poisonOne s n c o) := by
  unfold poisonOne
  split
  · exact .refl _
  · exact (modTally_settled s n _).trans (failWaiters_settled _ n)

theorem poisonOne_tally (s : State) (n c : Nat) (o : Seat) (m : Nat) (hm : (s.tally m).poisoned = true ∨ m ≠ n) :
    (poisonOne s n c o).tally m = s.tally m := by
  unfold poisonOne
  split
  · rfl
  · rename_i hp
    have hne : n ≠ m := by rintro rfl; rcases hm with h | h <;> contradiction
    rw [(failWaiters_sync _ _).tally m, tally_modTally_ne _ _ hne]

theorem poisonOne_here {s : State} {n : Nat} (c : Nat) (o : Seat) (hn : n < 1024) (h : (s.tally n).poisoned = false) :
    (poisonOne s n c o).tally n = { s.tally n with poisoned := true, cause := c, origin := o } := by
  rw [poisonOne, if_neg (by simp [h]), (failWaiters_sync _ _).tally n, tally_modTally_same _ _ hn]

theorem poisonTrickHere_facts (s : State) (k : Nat) (o : Seat) : Settled s (poisonTrickHere s k o) ∧
    ∀ m, (s.tally m).poisoned = true → (poisonTrickHere s k o).tally m = s.tally m := by
  unfold poisonTrickHere
  split
  · exact ⟨.refl _, fun _ _ => rfl⟩
  · rename_i t ht
    dsimp only
    generalize (if t.poisoned then t.origin else o) = o'
    have h1 := setTrick_settled s k (some { t with poisoned := true, origin := o' })
    have h2 := fun m => setTrick_tally s k (some { t with poisoned := true, origin := o' }) m
    revert h1 h2
    generalize s.setTrick k (some { t with poisoned := true, origin := o' }) = u
    intro h1 h2
    refine ⟨h1.trans ((poisonOne_settled u _ _ _).trans (poisonOne_settled _ _ _ _)), fun m hm => ?_⟩
    rw [← h2 m] at hm
    have e := poisonOne_tally u t.arriveTally 0x0520 o m (.inl hm)
    rw [poisonOne_tally _ _ _ _ m (.inl (by rw [e]; exact hm)), e, h2]

theorem poisonTrick_facts (s : State) (k c : Nat) : Settled s (poisonTrick s k c) ∧
    ∀ m, (s.tally m).poisoned = true → (poisonTrick s k c).tally m = s.tally m := by
  unfold poisonTrick
  split
  · exact ⟨.refl _, fun _ _ => rfl⟩
  · rename_i t ht
    split
    · exact ⟨.refl _, fun _ _ => rfl⟩
    · dsimp only
      have h0 := sendTricks_eq ((distinctSeats t.seats).filter (· != ownSeat s)) (fun _ => trickMessage t 3 c (ownSeat s)) s
      revert h0
      generalize ((distinctSeats t.seats).filter (· != ownSeat s)).foldl (fun s' seat => sendTrick s' seat (trickMessage t 3 c (ownSeat s))) s = u
      intro h0
      have hu : ∀ m, u.tally m = s.tally m := fun m => by simp only [State.tally, h0.1]
      have h1 := poisonTrickHere_facts u k (ownSeat s)
      exact ⟨(Settled.of_items (by rw [h0.2])).trans h1.1, fun m hm => (h1.2 m (by rw [hu]; exact hm)).trans (hu m)⟩

/-- What poisoning a READY tally does (R217, R224). -/
theorem poisonTally_ready {s : State} {n : Nat} (hn : n < 1024) (h : (s.tally n).poisoned = false) :
    tallyPoisoned s (poisonTally s n 0x0303) n ∧ Settled s (poisonTally s n 0x0303) ∧
    (trickOfTally s n = none → (∀ m, m ≠ n → (poisonTally s n 0x0303).tally m = s.tally m) ∧
      ∀ a b, (∀ w ∈ waitersOn s n, ¬ (w.1 = a ∧ w.2.1 = b)) → findItem (poisonTally s n 0x0303) a b = findItem s a b) := by
  have k1 := poisonOne_here 0x0303 (0, 0, 0) hn h
  have k2 := poisonOne_settled s n 0x0303 (0, 0, 0)
  have e : poisonOne s n 0x0303 (0, 0, 0) = failWaiters (s.modTally n fun t => { t with poisoned := true, cause := 0x0303, origin := (0, 0, 0) }) n := by
    rw [poisonOne, if_neg (by simp [h])]
  have k3 := failWaiters_items (s.modTally n fun t => { t with poisoned := true, cause := 0x0303, origin := (0, 0, 0) }) n
  rw [← e, tally_modTally_same _ _ hn] at k3
  have k4 : ∀ t, Settled (poisonOne s n 0x0303 (0, 0, 0)) t → t.tally n = (poisonOne s n 0x0303 (0, 0, 0)).tally n → tallyPoisoned s t n := by
    intro t ht hq
    exact ⟨hq.trans k1, fun w hw i hi hf => itemFails_settled (k3.1 w hw i hi hf) ht⟩
  unfold poisonTally
  dsimp only
  rw [if_neg (by simp [h])]
  split
  · rename_i k t ht
    have j := poisonTrick_facts (poisonOne s n 0x0303 (0, 0, 0)) k 0x0303
    exact ⟨k4 _ j.1 (j.2 n (by rw [k1])), k2.trans j.1, fun hc => (by rw [ht] at hc; cases hc)⟩
  · exact ⟨k4 _ (.refl _) rfl, k2, fun _ => ⟨fun m hm => poisonOne_tally _ _ _ _ _ (.inr hm), k3.2⟩⟩

theorem poisonTally_poisoned {s : State} {n : Nat} (c : Nat) (h : (s.tally n).poisoned = true) : poisonTally s n c = s := by
  simp [poisonTally, poisonOne, h]

theorem tallyCmd_starts {s : State} {shoe seq l : Nat} {lv : Level} {b : List Byte} {op : Nat} (h : cmdStarts s shoe seq l 0x03 lv b)
    (ho : field b 6 1 = op) : gate shoe seq l 0x03 (fun b => field b 6 1 == op) (fun s => tallyCmd s shoe seq l op) s = runTally s shoe seq l lv.pc b := by
  rw [gate_starts h (by simp [ho]), tallyCmd]
  simp [h.2.1, ho]

theorem passed_of_falls {s t : State} {shoe seq l : Nat} {lv : Level} (b : List Byte) (h : levelOf s shoe seq l = some lv) (f : Falls s t) :
    cmdPassed (doneCmd t shoe seq l lv.pc b) shoe seq l lv b := by
  obtain ⟨lv', h1, h2, h3, h4, -⟩ := (f shoe seq l).2 lv h
  refine ⟨lv', ?_, h2, h3, h4⟩
  rw [← h2]; exact levelOf_doneCmd b h1

theorem doneCmd_falls_gone {t : State} {sh sq k g : Nat} (shoe seq l g' : Nat) (b : List Byte) (h : Gone t sh sq k g) :
    Gone (doneCmd t shoe seq l g' b) sh sq k g := by
  intro lv hlv a ha
  have e : ∀ a b' k', ∃ f : Level → Level, (∀ v, ∀ x ∈ (f v).active, x ∈ v.active) ∧ levelOf (doneCmd t shoe seq l g' b) a b' k' = (levelOf t a b' k').map f := by
    intro a b' k'
    by_cases hk : a = shoe ∧ b' = seq ∧ k' = l
    · obtain ⟨rfl, rfl, rfl⟩ := hk
      refine ⟨fun v => cmdEnded { v with pc := v.pc + cmdSize b } g', fun v x hx => (List.mem_filter.1 hx).1, ?_⟩
      rw [doneCmd, levelOf_completeCmd, levelOf_passCmd, Option.map_map]; rfl
    · refine ⟨id, fun _ _ h => h, ?_⟩
      have e1 : levelOf (completeCmd (passCmd t shoe seq l b) shoe seq l g') a b' k' = levelOf (passCmd t shoe seq l b) a b' k' :=
        levelOf_modLevel_ne (f := fun lv => cmdEnded lv g') (fun _ => rfl) hk
      have e2 : levelOf (passCmd t shoe seq l b) a b' k' = levelOf t a b' k' :=
        (levelOf_modLevel_ne (f := fun lv => { lv with pc := lv.pc + cmdSize b }) (fun _ => rfl) hk).trans
          (levelOf_congr (turn_items t shoe seq l) a b' k')
      rw [doneCmd, e1, e2]; simp
  obtain ⟨f, hf, he⟩ := e sh sq k
  rw [he] at hlv
  cases hs : levelOf t sh sq k with
  | none => rw [hs] at hlv; cases hlv
  | some v => rw [hs] at hlv; cases hlv; exact h v hs a (hf v a ha)

theorem doneCmd_sync (t : State) (shoe seq l g : Nat) (b : List Byte) : (doneCmd t shoe seq l g b).sync = t.sync := by
  unfold doneCmd completeCmd passCmd served
  split <;> (try split) <;> rfl

theorem doneCmd_set {s t : State} {n : Nat} {v : Word32} (shoe seq l g : Nat) (b : List Byte) (h : tallySet s t n v) :
    tallySet s (doneCmd t shoe seq l g b) n v :=
  have e : ∀ m, (doneCmd t shoe seq l g b).tally m = t.tally m := fun m => by simp only [State.tally, doneCmd_sync]
  ⟨(e n).trans h.1, fun h1 m hm => (e m).trans (h.2.1 h1 m hm),
    fun sh sq k g' eq thr h1 h2 => doneCmd_falls_gone _ _ _ _ _ (h.2.2 sh sq k g' eq thr h1 h2)⟩

end Sys2Proof
end

