-- ==== Sys2Proof/Laws/FxClaim.lean ====
section
/-! SUPPORT. Claims: their creation, change, release and resets. -/

set_option linter.unusedSimpArgs false
set_option linter.unusedVariables false

namespace Sys2Proof

open Machine

@[simp] theorem clearNeeded_claim (s : State) (t2 : Bool) (c w m : Nat) : (clearNeeded s t2 c w).claim m = s.claim m := by
  unfold clearNeeded
  rw [postEvent_claim]
  rfl

theorem claim_of_cl {s t : State} (h : t.cl = s.cl) (m : Nat) : t.claim m = s.claim m := by simp [State.claim, h]

theorem startDemotion_claim (s : State) (t p : Nat) (c : Option Nat) (w : Option (Nat × Nat)) (m : Nat) :
    (startDemotion s t p c w).1.claim m = s.claim m := by
  unfold startDemotion
  split
  · exact clearNeeded_claim _ _ _ _ _
  · exact claim_of_cl (by dsimp only; first | rfl | (rw [(State.modPte_moves _ _ _ _ (Moves.refl 256 _) rfl).rest .cl rfl]; rfl)) m

theorem demoteOwn_claim (s : State) (n p : Nat) (w : Option (Nat × Nat)) (m : Nat) : (demoteOwn s n p w).1.claim m = s.claim m := by
  unfold demoteOwn
  split
  · split
    · rfl
    · exact startDemotion_claim _ _ _ _ _ _
  · rfl

theorem evictCharge_claim (s : State) (n p m : Nat) : (evictCharge s n p).claim m = s.claim m := by
  unfold evictCharge commonSettle
  dsimp only
  split
  · split
    · exact claim_of_cl ((State.modPte_moves _ _ _ _ (Moves.refl 256 _) rfl).rest .cl rfl) m
    · rw [startDemotion_claim]; exact claim_of_cl ((State.modPte_moves _ _ _ _ (Moves.refl 256 _) rfl).rest .cl rfl) m
  · exact claim_of_cl ((State.modPte_moves _ _ _ _ (Moves.refl 256 _) rfl).rest .cl rfl) m

theorem victimStep_claim (s : State) (n : Nat) (h : Option Nat) (w : Option (Nat × Nat)) (m : Nat) : (victimStep s n h w).1.claim m = s.claim m := by
  unfold victimStep
  split
  · rfl
  · split
    · exact demoteOwn_claim _ _ _ _ _
    · exact evictCharge_claim _ _ _ _

theorem relieveT1_claim (k : Nat) (s : State) (n m : Nat) : (relieveT1 k s n).claim m = s.claim m := by
  induction k generalizing s with
  | zero => rfl
  | succ k ih =>
    unfold relieveT1
    split
    · have h := victimStep_claim s n none none m
      split
      · rename_i s1 hs; rw [hs] at h; rw [ih]; exact h
      · rename_i s1 hs; rw [hs] at h; exact h
    · rfl

theorem LedgerOnly.refl (a : Claim) : LedgerOnly a a := rfl

theorem LedgerOnly.of_eq {a b : Claim} (h : b = a) : LedgerOnly a b := h ▸ rfl

theorem LedgerOnly.trans {a b c : Claim} (h : LedgerOnly a b) (k : LedgerOnly b c) : LedgerOnly a c := by
  unfold LedgerOnly at *
  rw [h] at k
  exact k

theorem updateLedgerFull_claim (s : State) (n m : Nat) : LedgerOnly (s.claim m) ((updateLedgerFull s n).claim m) ∧
    (m ≠ n → (updateLedgerFull s n).claim m = s.claim m) := by
  unfold updateLedgerFull
  split
  · rename_i hn
    dsimp only
    split
    · exact ⟨.refl _, fun _ => rfl⟩
    · rw [postEvent_claim]
      by_cases hm : m = n
      · subst hm; rw [claim_modClaim_same _ _ hn]; exact ⟨rfl, fun h => absurd rfl h⟩
      · rw [claim_modClaim_ne _ _ (Ne.symm hm)]; exact ⟨.refl _, fun _ => rfl⟩
  · exact ⟨.refl _, fun _ => rfl⟩

theorem writeOutcomes_claim (s : State) (n m : Nat) : LedgerOnly (s.claim m) ((writeOutcomes s n).claim m) := by
  have h1 : (reportItems n ((itemsOf (fixOutcomes s n) n).length + 1) (fixOutcomes s n) 0 0 false).1.cl = s.cl :=
    (reportItems_moves _ _ _ _ _ _ (Moves.refl 1160 _) rfl).rest .cl rfl
  rcases writeOutcomes_shape s n with e | e | ⟨v, e⟩ <;> rw [e]
  · exact .refl _
  · exact .of_eq (claim_of_cl h1 m)
  · refine LedgerOnly.trans (.of_eq (claim_of_cl ?_ m)) (updateLedgerFull_claim _ n m).1
    rw [(moderate_moves _ _ _ _ (Moves.refl 1160 _) rfl).rest .cl rfl, ← h1]
    exact (writeScore_moves _ _ _ (Moves.refl 1160 _) rfl).rest .cl rfl

theorem postSteward_claim (s : State) (a b : Nat) (c : List Byte) (m : Nat) : (postSteward s a b c).claim m = s.claim m := by
  unfold postSteward
  have h : (mgmtOem (postEvent s 8 a b [c]) a b c).cl = (postEvent s 8 a b [c]).cl := (mgmtOem_moves _ a b c (Moves.refl 262152 _) rfl).rest .cl rfl
  rw [claim_of_cl h, postEvent_claim]

theorem endGrant_claim (s : State) (n m : Nat) : (endGrant s n).claim m = s.claim m := by
  unfold endGrant
  split
  · dsimp only
    unfold secEvent
    rw [postSteward_claim]
    split
    · rw [claim_of_cl ((setSec_moves _ _ (Moves.refl 327688 _) rfl).rest .cl rfl)]; rfl
    · rfl
  · rfl

theorem cl_foldl {α : Type} {f : State → α → State} (m : Nat) (hf : ∀ u x, (f u x).claim m = u.claim m) (l : List α) (s : State) :
    (l.foldl f s).claim m = s.claim m := by
  induction l generalizing s with
  | nil => rfl
  | cons x l ih => rw [List.foldl_cons, ih, hf]

theorem cancelMoves_cl (l : List Move) (s : State) : (l.foldl (fun s m => cancelMove s m.table m.page) s).cl = s.cl := by
  induction l generalizing s with
  | nil => rfl
  | cons x l ih => rw [List.foldl_cons, ih, (cancelMove_moves s x.table x.page (Moves.refl 256 s) rfl).rest .cl rfl]

theorem foreignPages_claim (s : State) (n m : Nat) : (foreignPages s n).claim m = s.claim m := by
  unfold foreignPages
  dsimp only
  rw [cl_foldl m (fun u x => evictCharge_claim u n x m)]
  refine claim_of_cl ?_ m
  rw [State.modTiers_cl, cancelMoves_cl]

theorem changeShare_claim (s : State) {n : Nat} (ps : Vector Word32 8) (a m : Nat) (hn : n < 8) :
    (m ≠ n → (changeShare s n ps a).claim m = s.claim m) ∧
    ∃ e p, (changeShare s n ps a).claim n = { s.claim n with profiles := ps, activeProfile := a, effResv := e, resvPending := p } := by
  unfold changeShare
  dsimp only
  have key : ∀ u : State, (m ≠ n → (settleReservation u n).claim m = u.claim m) ∧ ∃ e p, (settleReservation u n).claim n = { u.claim n with effResv := e, resvPending := p } := by
    intro u
    unfold settleReservation
    dsimp only
    split
    · exact ⟨fun h => claim_modClaim_ne _ _ (Ne.symm h), _, _, claim_modClaim_same _ _ hn⟩
    · exact ⟨fun h => claim_modClaim_ne _ _ (Ne.symm h), _, _, claim_modClaim_same _ _ hn⟩
  obtain ⟨k1, e, p, k2⟩ := key (s.modClaim n fun c => { c with profiles := ps, activeProfile := a })
  have k3 : (settleReservation (s.modClaim n fun c => { c with profiles := ps, activeProfile := a }) n).claim n =
      { s.claim n with profiles := ps, activeProfile := a, effResv := e, resvPending := p } := by
    rw [k2, claim_modClaim_same _ _ hn]
  have k4 : m ≠ n → (settleReservation (s.modClaim n fun c => { c with profiles := ps, activeProfile := a }) n).claim m = s.claim m := fun h => by
    rw [k1 h, claim_modClaim_ne _ _ (Ne.symm h)]
  split
  · exact ⟨k4, e, p, k3⟩
  · exact ⟨fun h => by rw [postEvent_claim, k4 h], e, p, by rw [postEvent_claim, k3]⟩

theorem openTallies_claim (s : State) (a b c d m : Nat) : (openTallies s a b c d).claim m = s.claim m :=
  claim_of_cl ((openTallies_moves s a b c d (Moves.refl 512 s) rfl).rest .cl rfl) m

theorem grantDescs_cl {n : Nat} (is : List Nat) (s t : State) (fs gs : List Nat) (h : grantDescs n is s fs = some (t, gs)) :
    t.cl = s.cl ∧ t.dl = s.dl ∧ t.sync = s.sync ∧ t.freeCtr = s.freeCtr ∧ t.tiers.keys = s.tiers.keys := by
  induction is generalizing s fs with
  | nil => cases h; exact ⟨rfl, rfl, rfl, rfl, rfl⟩
  | cons i is ih =>
    rw [grantDescs] at h
    cases hf : takeFrame s n (homeDie (descPage i)) with
    | none => rw [hf] at h; cases h
    | some r =>
      rw [hf] at h
      have hr : r.2.cl = s.cl ∧ r.2.dl = s.dl ∧ r.2.sync = s.sync ∧ r.2.freeCtr = s.freeCtr ∧ r.2.tiers.keys = s.tiers.keys := by
        unfold takeFrame at hf
        obtain ⟨g, -, rfl⟩ := Option.map_eq_some_iff.1 hf
        exact ⟨rfl, rfl, rfl, rfl, rfl⟩
      obtain ⟨a1, a2, a3, a4, a5⟩ := ih r.2 _ h
      exact ⟨a1.trans hr.1, a2.trans hr.2.1, a3.trans hr.2.2.1, a4.trans hr.2.2.2.1, a5.trans hr.2.2.2.2⟩

theorem openTallies_fresh (s : State) (base count : Nat) {k : Nat} (h1 : base ≤ k) (h2 : k < base + count) (h3 : base + count ≤ 1024) :
    (openTallies s base count 0 0).tally k = {} := by
  unfold openTallies
  have key : ∀ (l : List Nat) (u : State), (∀ x ∈ l, x < 1024) → (k ∈ l ∨ u.tally k = {}) →
      (l.foldl (fun s t => if 0 ≤ t ∧ t < 0 + 0 then s else s.modTally t fun _ => {}) u).tally k = {} := by
    intro l
    induction l with
    | nil => intro u _ h; rcases h with h | h
             · cases h
             · exact h
    | cons x l ih =>
      intro u hb h
      rw [List.foldl_cons, if_neg (by omega)]
      refine ih _ (fun y hy => hb y (List.mem_cons_of_mem _ hy)) ?_
      by_cases hx : x = k
      · right; subst hx; exact tally_modTally_same _ _ (hb x (by simp))
      · rcases h with h | h
        · rcases List.mem_cons.1 h with h | h
          · exact absurd h.symm hx
          · exact .inl h
        · right; rw [tally_modTally_ne _ _ hx]; exact h
  refine key _ s (fun x hx => ?_) (.inl ?_)
  · simp [rangeFrom] at hx; omega
  · simp [rangeFrom]; exact ⟨k - base, by omega, by omega⟩

theorem claimFault_valid {s : State} {create : Bool} {b : List Byte} (h : claimFault s create b = none) :
    field b 0 1 < 8 ∧ (newVals s create b).tallyBase + (newVals s create b).tallyCount ≤ 1024 ∧ (s.claim (field b 0 1)).st = (if create then .free else .active) := by
  unfold claimFault at h
  dsimp only at h
  by_cases h1 : (claimValid s (field b 0 1) && maskOk create b && valsOk (newVals s create b)) = true
  · rw [h1] at h
    by_cases h2 : (s.claim (field b 0 1)).st = (if create then .free else .active)
    · simp only [Bool.and_eq_true] at h1
      refine ⟨?_, ?_, h2⟩
      · have := h1.1.1; simp [claimValid] at this; exact this.1
      · have := h1.2; simp only [valsOk, Bool.and_eq_true, decide_eq_true_eq] at this; exact this.1.1.2
    · rw [if_neg (by decide), if_pos (by simpa using h2)] at h; cases h
  · rw [if_pos (by rw [Bool.eq_false_iff.2 h1]; rfl)] at h; cases h

end Sys2Proof
end

