-- ==== Sys2Proof/Laws/FxArb.lean ====
section
/-! SUPPORT. Arbitration, event rings and real-time bindings. -/

set_option linter.unusedSimpArgs false
set_option linter.unusedVariables false

namespace Sys2Proof

open Machine

theorem arbOf_modArb {s : State} {core : Bool} {i : Nat} (h : engineIs core i) (f : Arb → Arb) :
    arbOf (s.modArb (engineOf core i) f) (engineOf core i) = f (arbOf s (engineOf core i)) := by
  cases core
  · show (tget (tmod s.dl.lanes i _) i).arb = _
    rw [tget_tmod_same _ _ h]; rfl
  · show (tget (tmod s.dl.cores i _) i).arb = _
    rw [tget_tmod_same _ _ h]; rfl

theorem modArb_parts (s : State) (e : Engine) (f : Arb → Arb) : OnlyParts [.dl] s (s.modArb e f) := by
  intro p hp; cases e <;> cases p <;> first | exact absurd (by decide) hp | rfl

theorem winner_spec {s : State} {e : Engine} {w : MacroInst} (h : arbWinner s e = some w) :
    w ∈ requesters s e ∧ ∀ m ∈ requesters s e, arbLevel s e w.claim ≤ arbLevel s e m.claim := by
  unfold arbWinner at h
  have key : ∀ (l : List MacroInst) (b : Option MacroInst) (w : MacroInst),
      l.foldl (fun best m => match best with
        | none => some m
        | some b => if arbBefore s e m b then some m else some b) b = some w →
      (w ∈ l ∨ b = some w) ∧ (∀ m ∈ l, arbLevel s e w.claim ≤ arbLevel s e m.claim) ∧ ∀ x, b = some x → arbLevel s e w.claim ≤ arbLevel s e x.claim := by
    intro l
    induction l with
    | nil =>
      intro b w h
      have h : b = some w := h
      subst h
      exact ⟨.inr rfl, fun m hm => (nomatch hm), fun x hx => by cases hx; exact Nat.le_refl _⟩
    | cons y l ih =>
      intro b w h
      rw [List.foldl_cons] at h
      obtain ⟨h1, h2, h3⟩ := ih _ _ h
      cases b with
      | none =>
        dsimp only at h1 h3
        have hy := h3 y rfl
        refine ⟨.inl ?_, ?_, fun x hx => (nomatch hx)⟩
        · rcases h1 with h1 | h1
          · exact List.mem_cons_of_mem _ h1
          · cases h1; simp
        · intro m hm
          rcases List.mem_cons.1 hm with rfl | hm
          · exact hy
          · exact h2 m hm
      | some b =>
        dsimp only at h1 h3
        have hb : ∀ (p : MacroInst), arbBefore s e p b = true → arbLevel s e p.claim ≤ arbLevel s e b.claim := by
          intro p hp
          unfold arbBefore at hp
          dsimp only at hp
          split at hp
          · exact Nat.le_of_lt (by simpa using hp)
          · omega
        have hb' : ∀ (p : MacroInst), arbBefore s e p b = false → arbLevel s e b.claim ≤ arbLevel s e p.claim := by
          intro p hp
          unfold arbBefore at hp
          dsimp only at hp
          split at hp
          · have : ¬ (arbLevel s e p.claim < arbLevel s e b.claim) := by simpa using hp
            omega
          · omega
        by_cases hc : arbBefore s e y b = true
        · rw [if_pos hc] at h1 h3
          have hy := h3 y rfl
          refine ⟨.inl ?_, ?_, ?_⟩
          · rcases h1 with h1 | h1
            · exact List.mem_cons_of_mem _ h1
            · cases h1; simp
          · intro m hm
            rcases List.mem_cons.1 hm with rfl | hm
            · exact hy
            · exact h2 m hm
          · intro x hx; cases hx; exact Nat.le_trans hy (hb y hc)
        · rw [if_neg hc] at h1 h3
          have hy := h3 b rfl
          refine ⟨?_, ?_, ?_⟩
          · rcases h1 with h1 | h1
            · exact .inl (List.mem_cons_of_mem _ h1)
            · exact .inr h1
          · intro m hm
            rcases List.mem_cons.1 hm with rfl | hm
            · exact Nat.le_trans hy (hb' _ (Bool.eq_false_iff.2 hc))
            · exact h2 m hm
          · intro x hx; cases hx; exact hy
  obtain ⟨h1, h2, -⟩ := key _ _ _ h
  refine ⟨?_, h2⟩
  rcases h1 with h1 | h1
  · exact h1
  · cases h1

theorem chargeGrant_arb {s : State} {core : Bool} {i : Nat} (h : engineIs core i) (ns : Nat) :
    charged (arbOf s (engineOf core i)) (arbOf (chargeGrant s (engineOf core i) ns) (engineOf core i)) ns := by
  unfold charged chargeGrant
  rw [arbOf_modArb h]
  generalize arbOf s (engineOf core i) = a
  cases hg : a.grant with
  | none => rfl
  | some p =>
    obtain ⟨n, c⟩ := p
    cases c <;> simp

/-- Of the real-time bindings in force, each is as it was, or is what was written, or is hidden by a lower one. -/
theorem rtApply_force (s : State) : (rtApply s).cl.rtWritten = s.cl.rtWritten ∧ OnlyParts [.cl] s (rtApply s) ∧
    ∀ i < 4, let o := tget (rtApply s).cl.rtInForce i; let w := tget s.cl.rtWritten i
      o = tget s.cl.rtInForce i ∨ o = w ∨ o = { w with valid := false } := by
  have key : ∀ (l : List Nat) (u : State), (∀ x ∈ l, x < 4) → u.cl.rtWritten = s.cl.rtWritten → OnlyParts [.cl] s u →
      (∀ i < 4, let o := tget u.cl.rtInForce i; let w := tget s.cl.rtWritten i; o = tget s.cl.rtInForce i ∨ o = w ∨ o = { w with valid := false }) →
      let t := l.foldl (fun s i => if rtDrained s i then s.modCl fun c => { c with rtInForce := tset c.rtInForce i (rtWanted s i) } else s) u
      t.cl.rtWritten = s.cl.rtWritten ∧ OnlyParts [.cl] s t ∧
      ∀ i < 4, let o := tget t.cl.rtInForce i; let w := tget s.cl.rtWritten i; o = tget s.cl.rtInForce i ∨ o = w ∨ o = { w with valid := false } := by
    intro l
    induction l with
    | nil => intro u _ h1 h2 h3; exact ⟨h1, h2, h3⟩
    | cons x l ih =>
      intro u hb h1 h2 h3
      dsimp only
      rw [List.foldl_cons]
      refine ih _ (fun y hy => hb y (List.mem_cons_of_mem _ hy)) ?_ ?_ ?_
      · split
        · exact h1
        · exact h1
      · split
        · refine h2.trans ?_
          intro p hp; cases p <;> first | exact absurd (by decide) hp | rfl
        · exact h2
      · intro i hi
        split
        · show (tget (tset u.cl.rtInForce x (rtWanted u x)) i = _ ∨ tget (tset u.cl.rtInForce x (rtWanted u x)) i = _ ∨ tget (tset u.cl.rtInForce x (rtWanted u x)) i = _)
          by_cases hx : x = i
          · subst hx
            rw [tget_tset_same _ _ hi]
            unfold rtWanted
            dsimp only
            rw [h1]
            split
            · exact .inr (.inr rfl)
            · exact .inr (.inl rfl)
          · rw [tget_tset_ne _ _ hx]; exact h3 i hi
        · exact h3 i hi
  exact key _ s (by decide) rfl (.refl _ _) fun i _ => .inl rfl
theorem laneGrant_spec {u : State} {x : Nat} {w : MacroInst} (hl : x < 16) (hw : arbWinner u (.lane x) = some w) :
    OnlyParts [.dl] u (laneGrant u x) ∧
    arbOf (laneGrant u x) (.lane x) = { arbOf u (.lane x) with grant := some (w.claim, decide (arbLevel u (.lane x) w.claim ≤ 3)) } ∧
    (tget (laneGrant u x).dl.lanes x).queue = (tget u.dl.lanes x).queue.filter (· != w.id) ∧
    ∀ m, findMacro (laneGrant u x) w.id = some m → m.phase = .dispatched ∧ m.age = u.now := by
  have e : laneGrant u x = ((grantNext u (.lane x)).modDl fun d =>
      { d with lanes := tmod d.lanes x fun y => { y with queue := y.queue.filter (· != w.id) } }).modMacro w.id
        fun m => { m with phase := .dispatched, age := u.now } := by rw [laneGrant, hw]
  have g : grantNext u (.lane x) = u.modArb (.lane x) fun a => { a with grant := some (w.claim, decide (arbLevel u (.lane x) w.claim ≤ 3)) } := by
    rw [grantNext, hw]
  have g1 : (tget (grantNext u (.lane x)).dl.lanes x) = { tget u.dl.lanes x with arb := { arbOf u (.lane x) with grant := some (w.claim, decide (arbLevel u (.lane x) w.claim ≤ 3)) } } := by
    rw [g]; exact tget_tmod_same _ _ hl
  have g2 : OnlyParts [.dl] u (grantNext u (.lane x)) := by rw [g]; exact modArb_parts _ _ _
  generalize grantNext u (.lane x) = v at e g1 g2
  have e1 : tget (laneGrant u x).dl.lanes x = { tget v.dl.lanes x with queue := (tget v.dl.lanes x).queue.filter (· != w.id) } := by
    rw [e]; exact tget_tmod_same _ _ hl
  refine ⟨?_, ?_, ?_, fun m hm => ?_⟩
  · rw [e]; refine g2.trans ?_
    intro p hp; cases p <;> first | exact absurd (by decide) hp | rfl
  · show (tget (laneGrant u x).dl.lanes x).arb = _
    rw [e1, g1]
  · rw [e1, g1]
  · rw [e] at hm
    have h1 : List.find? (fun m => m.id == w.id) (v.dl.macros.map fun m => if m.id == w.id then { m with phase := .dispatched, age := u.now } else m) = some m := hm
    rw [List.find?_map] at h1
    obtain ⟨y, hy, rfl⟩ := Option.map_eq_some_iff.1 h1
    have := List.find?_some hy
    simp only [Function.comp] at this
    split
    · exact ⟨rfl, rfl⟩
    · rename_i hne; rw [if_neg hne] at this; exact absurd this hne

theorem coreGrant_spec {u : State} {x : Nat} {w : MacroInst} (hl : x < 96) (hw : arbWinner u (.core x) = some w) :
    OnlyParts [.dl] u (grantNext u (.core x)) ∧
    arbOf (grantNext u (.core x)) (.core x) = { arbOf u (.core x) with grant := some (w.claim, decide (arbLevel u (.core x) w.claim ≤ 3)) } ∧
    (tget (grantNext u (.core x)).dl.cores x).current = some w.id ∧
    (tget (grantNext u (.core x)).dl.cores x).clockMhz = (if (tget u.dl.cores x).gated then 0 else grantClock u x w.claim) ∧
    ∀ d, d ≠ x → tget (grantNext u (.core x)).dl.cores d = tget u.dl.cores d := by
  have e : grantNext u (.core x) = ((u.modArb (.core x) fun a => { a with grant := some (w.claim, decide (arbLevel u (.core x) w.claim ≤ 3)) }).modMacro w.id
      fun y => { y with granted := true }.takeBlock x).modDl fun d => { d with cores := tmod d.cores x fun y =>
        { y with current := some w.id, clockMhz := if y.gated then 0 else grantClock u x w.claim } } := by simp only [grantNext, hw]
  have g1 : tget (u.modArb (.core x) fun a => { a with grant := some (w.claim, decide (arbLevel u (.core x) w.claim ≤ 3)) }).dl.cores x =
      { tget u.dl.cores x with arb := { arbOf u (.core x) with grant := some (w.claim, decide (arbLevel u (.core x) w.claim ≤ 3)) } } := tget_tmod_same _ _ hl
  have g3 : ∀ d, d ≠ x → tget (u.modArb (.core x) fun a => { a with grant := some (w.claim, decide (arbLevel u (.core x) w.claim ≤ 3)) }).dl.cores d =
      tget u.dl.cores d := fun d hd => tget_tmod_ne _ _ (Ne.symm hd)
  have g2 : OnlyParts [.dl] u (u.modArb (.core x) fun a => { a with grant := some (w.claim, decide (arbLevel u (.core x) w.claim ≤ 3)) }) := modArb_parts _ _ _
  generalize (u.modArb (.core x) fun a => { a with grant := some (w.claim, decide (arbLevel u (.core x) w.claim ≤ 3)) }) = v at e g1 g2 g3
  have e0 : ∀ d, tget (v.modMacro w.id fun y => { y with granted := true }.takeBlock x).dl.cores d = tget v.dl.cores d := fun _ => rfl
  have e1 : tget (grantNext u (.core x)).dl.cores x = { tget v.dl.cores x with
      current := some w.id, clockMhz := if (tget v.dl.cores x).gated then 0 else grantClock u x w.claim } := by
    rw [e]; exact tget_tmod_same _ _ hl
  refine ⟨?_, ?_, ?_, ?_, fun d hd => ?_⟩
  · rw [e]; refine g2.trans ?_
    intro p hp; cases p <;> first | exact absurd (by decide) hp | rfl
  · show (tget (grantNext u (.core x)).dl.cores x).arb = _
    rw [e1, g1]
  · rw [e1]
  · rw [e1, g1]
  · rw [e, ← g3 d hd]; exact tget_tmod_ne _ _ (Ne.symm hd)

theorem winner_some {u : State} {e : Engine} (h : requesters u e ≠ []) : ∃ w, arbWinner u e = some w := by
  cases hr : requesters u e with
  | nil => exact absurd hr h
  | cons a l =>
    unfold arbWinner
    rw [hr, List.foldl_cons]
    have : ∀ (l : List MacroInst) (b : MacroInst), ∃ w, l.foldl (fun best m => match best with
        | none => some m
        | some b => if arbBefore u e m b then some m else some b) (some b) = some w := by
      intro l
      induction l with
      | nil => intro b; exact ⟨b, rfl⟩
      | cons y l ih => intro b; rw [List.foldl_cons]; dsimp only; split <;> exact ih _
    exact this l a

end Sys2Proof
end

