-- ==== Sys2Proof/Laws/FxBoot.lean ====
section
/-! SUPPORT. The boot, the release and the reset of the main dies. -/

set_option linter.unusedSimpArgs false
set_option linter.unusedVariables false

namespace Sys2Proof

open Machine

theorem bf_boot (s : State) (h : s.boot.released = false) : (bootFailed s).boot = { s.boot with step := 0, cands := [], released := false, dev := .failed } := by
  simp [bootFailed, h]
theorem bf_only (s : State) (h : s.boot.released = false) : OnlyParts [.boot, .mgmt, .out] s (bootFailed s) := by
  simp only [bootFailed, h]
  exact (alertLatch_moves _ _ (setDev_moves _ _ _ (restartEndpoint_moves _ (State.modBoot_moves s _ rfl (Moves.refl 262168 s) rfl) rfl) rfl) rfl).only (by intro p; cases p <;> decide)
theorem mainReset_boot (s : State) (d : DevState) : (mainReset s d).boot = { s.boot with released := false, heldSince := s.now, heldAlert := false, failCause := 0, step := if d = .held then 9 else s.boot.step, cands := [], dev := d } := by
  have : ∀ u, (dropMain u).boot = u.boot := fun _ => rfl
  simp [mainReset, this]
theorem releaseFailed_boot (s : State) : (releaseFailed s).boot.dev = .failed ∧ (releaseFailed s).boot.released = false ∧ (releaseFailed s).boot.releaseCause = 0x0510 ∧ (releaseFailed s).boot.img = s.boot.img ∧
        (releaseFailed s).boot.flash = s.boot.flash ∧ (releaseFailed s).boot.fuses = s.boot.fuses := by
  unfold releaseFailed bootFailed
  cases h : s.boot.released <;> simp [h, mainReset_boot]
theorem tryRelease_not (s : State) (env) (h : s.boot.step ≠ 9) : tryRelease s env = s := by
  have : mayRelease s = false := by simp [mayRelease, h]
  simp [tryRelease, this]
theorem setLevel_level (u : State) (l : Nat) : (setLevel u l).power.level = l := by simp [setLevel]
theorem release_now (s u : State) (env : BootEnv) (h : env.stall = 10) (h1 : mayRelease u = true) (h2 : u.boot.imageStale = false) (hn : u.now = s.now) (hi : u.boot.img = s.boot.img) :
   releasedNow s (tryRelease u env) := by
  have hb : (tryRelease u env).boot = { u.boot with released := true, step := 10, releaseCause := 0, releasedAt := u.now, releaseToReadyUs := 0, failCause := 0, dev := .booting } := by
    simp only [tryRelease, h1, h2, releaseDies, h]
    have e : ∀ v : State, ((List.range 8).foldl (fun s d => if tget s.power.tripped d then tripUnits s d false else s) v).boot = v.boot := by
      intro u
      exact (Moves.foldl (l := List.range 8) (f := fun s d => if tget s.power.tripped d then tripUnits s d false else s) (Moves.refl 4096 u) (fun v x => Moves.ite (tripUnits_moves v x false (Moves.refl _ _) (by decide)) (Moves.refl _ _))).rest .boot rfl
    have e2 : ∀ v : State, (dropMain v).boot = v.boot := fun _ => rfl
    simp [e, e2, h2]
  simp only [mayRelease, Bool.and_eq_true] at h1
  unfold releasedNow
  rw [hb]
  simp_all
theorem mainReset_cold (s : State) : coldStarted s (mainReset s .held) := by
  have e : ∀ u, (dropMain u).boot = u.boot := fun _ => rfl
  have k : ∀ u v : State, OnlyParts [.boot, .mgmt, .out] u v → mainLost u → mainLost v := by
    intro u v h hu
    have a1 := h .beat (by decide); have a2 := h .cl (by decide); have a3 := h .dl (by decide); have a4 := h .tiers (by decide)
    have a5 := h .sync (by decide); have a6 := h .fns (by decide); have a7 := h .redeal (by decide); have a8 := h .fences (by decide)
    have a9 := h .ecc (by decide); have a10 := h .link (by decide); have a11 := h .rounds (by decide); have a12 := h .pcie (by decide)
    have a13 := h .net (by decide); have a14 := h .asy (by decide); have a15 := h .held (by decide)
    simp only [Part.same] at a1 a2 a3 a4 a5 a6 a7 a8 a9 a10 a11 a12 a13 a14 a15
    simpa [mainLost, a1, a2, a3, a4, a5, a6, a7, a8, a9, a10, a11, a12, a13, a14, a15] using hu
  have l : ∀ u, mainLost (dropMain u) := fun u => ⟨rfl, rfl, rfl, rfl, rfl, rfl, rfl, rfl, rfl, rfl, rfl, rfl, rfl, rfl, rfl⟩
  refine ⟨?_, ?_, ?_, ?_, ?_, ?_, ?_, ?_, ?_⟩ <;> simp [mainReset, e]
  exact k _ _ ((setDev_moves _ _ _ (State.modBoot_moves _ (fun b => { b with released := false, heldSince := s.now, heldAlert := false, failCause := 0, step := 9, cands := [] }) rfl (mgmtSensor_moves _ _ _ _ (mgmtSensor_moves _ _ _ _ (Moves.refl 262168 _) rfl) rfl) rfl) rfl).only (by intro p; cases p <;> decide)) (l _)
theorem cold_congr {s u t : State} (h : coldStarted u t) (h1 : u.now = s.now) (h2 : u.boot.img = s.boot.img) (h3 : u.boot.flash = s.boot.flash) (h4 : u.boot.fuses = s.boot.fuses) (h5 : u.boot.seat = s.boot.seat) : coldStarted s t := by
  unfold coldStarted at *; simp_all
theorem mainReset_keeps (s : State) : (mainReset s .held).boot = { s.boot with released := false, heldSince := s.now, heldAlert := false, failCause := 0, step := 9, cands := [], dev := .held } := by
  have e : ∀ u, (dropMain u).boot = u.boot := fun _ => rfl
  simp [mainReset, e]
theorem qualify_cold (s : State) (f : Boot → Boot) (h : s.boot.released = true) (hq : s.boot.qualified = true) (hg : powerGood (s.modBoot f) = false)
   (e1 : (f s.boot).released = s.boot.released) (e2 : (f s.boot).qualified = s.boot.qualified) (e3 : (f s.boot).img = s.boot.img) (e4 : (f s.boot).flash = s.boot.flash) (e5 : (f s.boot).fuses = s.boot.fuses) (e6 : (f s.boot).seat = s.boot.seat) :
   coldStarted s (qualify (s.modBoot f)) ∧ (qualify (s.modBoot f)).boot.pwrok = (f s.boot).pwrok ∧ (qualify (s.modBoot f)).boot.railsOk = (f s.boot).railsOk ∧ (qualify (s.modBoot f)).boot.refclk = (f s.boot).refclk ∧ (qualify (s.modBoot f)).boot.crystal = (f s.boot).crystal ∧ (qualify (s.modBoot f)).boot.qualified = false := by
  have hh : qualify (s.modBoot f) = mainReset ((s.modBoot f).modBoot fun b => { b with qualified := false }) .held := by
    simp [qualify, e2, hq, hg, coldStart, e1, h]
  rw [hh]
  refine ⟨cold_congr (mainReset_cold _) (by simp) (by simp [e3]) (by simp [e4]) (by simp [e5]) (by simp [e6]), ?_⟩
  rw [mainReset_keeps]
  simp
theorem silence_boot (s : State) : (silencePorts s).boot = s.boot := (silencePorts_moves s (Moves.refl 8 s) rfl).rest .boot rfl
theorem drivePins_alerts (u : State) : (drivePins u).mgmt.alerts = u.mgmt.alerts := by
  simp only [drivePins]
  repeat' split
  all_goals simp
theorem mgmtPush_alerts {u : State} {b : Nat} (e : MgmtEvent) (h : u.mgmt.alerts.testBit b = true) : (mgmtPush u e).mgmt.alerts.testBit b = true := by
  simp only [mgmtPush]
  repeat' split
  all_goals simp [drivePins_alerts, h]
theorem alertLatch_bit (s : State) (b : Nat) : (alertLatch s b).mgmt.alerts.testBit b = true := by
  unfold alertLatch
  split
  · assumption
  · exact mgmtPush_alerts _ (by simp [drivePins_alerts])

end Sys2Proof
end

