-- ==== Sys2Proof/Laws/FxBeat.lean ====
section
/-! SUPPORT. The beat, the calendar and its entries. -/

set_option linter.unusedSimpArgs false
set_option linter.unusedVariables false

namespace Sys2Proof

open Machine

theorem BeatQuiet.refl (b : Beat) : BeatQuiet b b := rfl

theorem BeatQuiet.of_eq {b c : Beat} (h : c = b) : BeatQuiet b c := h ▸ rfl

theorem BeatQuiet.trans {a b c : Beat} (h : BeatQuiet a b) (k : BeatQuiet b c) : BeatQuiet a c := by
  unfold BeatQuiet at *
  rw [h] at k
  exact k

theorem entryAct_beat (s : State) (i : Nat) (v : List UnitView) : (entryAct s i v).beat = s.beat :=
  (entryAct_moves s i v (Moves.refl 2424776 s) rfl).rest .beat rfl

theorem entryFire_quiet (s : State) (i : Nat) (v : List UnitView) : BeatQuiet s.beat (entryFire s i v).beat := by
  unfold entryFire
  split
  · dsimp only
    split
    · have := entryAct_beat s i v
      simp only [State.modBeat, this, BeatQuiet]
    · exact .of_eq (entryAct_beat s i v)
  · exact .refl _

theorem entryNow_quiet (s : State) (i : Nat) (v : List UnitView) : BeatQuiet s.beat (entryNow s i v).beat := by
  unfold entryNow
  split
  · exact BeatQuiet.trans (b := { s.beat with fired := s.beat.fired ++ [i] }) rfl (entryFire_quiet _ i v)
  · exact .refl _

theorem quiet_foldl {α : Type} {f : State → α → State} (hf : ∀ u x, BeatQuiet u.beat (f u x).beat) (l : List α) (s : State) :
    BeatQuiet s.beat (l.foldl f s).beat := by
  induction l generalizing s with
  | nil => exact .refl _
  | cons x l ih => exact (hf s x).trans (ih _)

theorem fireInOrder_quiet (s : State) (es : List (Nat × Nat × Nat)) : BeatQuiet s.beat (fireInOrder s es).beat :=
  quiet_foldl (f := fun u (x : Nat × Nat × Nat) => entryNow u x.2.2 []) (fun u x => entryNow_quiet u x.2.2 []) _ s

theorem entryRun_quiet (s : State) (i a : Nat) (v : List UnitView) : BeatQuiet s.beat (entryRun s i a v).beat := by
  unfold entryRun
  split
  · refine (fireInOrder_quiet s (dueBefore s i)).trans (BeatQuiet.trans ?_ (entryNow_quiet (reachPhase (fireInOrder s (dueBefore s i)) (cePhase (s.entry i))) i v))
    exact rfl
  · exact .refl _

theorem flushBeat_quiet (s : State) : BeatQuiet s.beat (flushBeat s).beat := by
  unfold flushBeat
  have h1 := quiet_foldl (f := fun s i => entryNow s i []) (fun u x => entryNow_quiet u x _) (List.range 64) s
  exact h1.trans (.of_eq ((closeWindow_moves _ (Moves.refl 2368968 _) rfl).rest .beat rfl))

theorem catchUp_quiet (s : State) (lo hi : Nat) : BeatQuiet s.beat (catchUp s lo hi).beat :=
  quiet_foldl (fun u x => entryFire_quiet u _ _) _ s

theorem catchHeld_quiet (s : State) : BeatQuiet s.beat (catchHeld s).beat := by
  unfold catchHeld
  split
  · exact BeatQuiet.trans (b := { s.beat with skippedRange := none }) rfl (catchUp_quiet _ _ _)
  · exact .refl _

theorem calendarApply_quiet (s : State) : BeatQuiet s.beat (calendarApply s).beat := by
  unfold calendarApply
  split <;> rfl

theorem edgeEnd_beat (s : State) : (edgeEnd s).beat = s.beat := (edgeEnd_moves s (Moves.refl 17992 s) rfl).rest .beat rfl

theorem BeatQuiet.fields {b c : Beat} (h : BeatQuiet b c) : c.count = b.count ∧ c.held = b.held ∧ c.aligned = b.aligned ∧
    c.locked = b.locked ∧ c.holdover = b.holdover ∧ c.inFiller = b.inFiller ∧ c.source = b.source ∧ c.lastValid = b.lastValid ∧
    c.goodRun = b.goodRun ∧ c.badRun = b.badRun ∧ c.agreed = b.agreed ∧ c.filler = b.filler ∧ c.since = b.since ∧
    c.intervals = b.intervals ∧ c.skipped = b.skipped := by
  rw [h]; exact ⟨rfl, rfl, rfl, rfl, rfl, rfl, rfl, rfl, rfl, rfl, rfl, rfl, rfl, rfl, rfl⟩

/-- What an edge does to the count (R46, R54): it stands while the beat is held, and otherwise rises by one. -/
theorem beatEdge_beat (s : State) : ∃ b, BeatQuiet s.beat b ∧ BeatQuiet
    (if 0 < s.beat.held then { edgePhase s.now b with held := b.held - 1, inFiller := false, fired := List.range 64 }
      else { edgePhase s.now b with count := (b.count + 1) % 2 ^ 48, inFiller := false, fired := [] }) (beatEdge s).beat := by
  refine ⟨(flushBeat s).beat, flushBeat_quiet s, ?_⟩
  unfold beatEdge
  dsimp only
  rw [edgeEnd_beat]
  refine BeatQuiet.trans ?_ ((calendarApply_quiet _).trans (catchHeld_quiet _))
  have h := (flushBeat_quiet s).fields
  rw [← h.2.1]
  generalize flushBeat s = u
  exact .refl _

theorem beatEdge_count (s : State) : (beatEdge s).beat.count = (if 0 < s.beat.held then s.beat.count else (s.beat.count + 1) % 2 ^ 48) ∧
    (beatEdge s).beat.held = s.beat.held - 1 ∧ (beatEdge s).beat.inFiller = false ∧ (beatEdge s).beat.aligned = s.beat.aligned ∧
    (beatEdge s).beat.locked = s.beat.locked ∧ (beatEdge s).beat.holdover = s.beat.holdover ∧
    (beatEdge s).beat.lastValid = s.beat.lastValid ∧ (beatEdge s).beat.badRun = s.beat.badRun ∧
    (beatEdge s).beat.source = s.beat.source ∧ (beatEdge s).beat.goodRun = s.beat.goodRun ∧
    (beatEdge s).beat.agreed = s.beat.agreed ∧ (beatEdge s).beat.intervals = s.beat.intervals := by
  obtain ⟨b, hb, hc⟩ := beatEdge_beat s
  have f := hb.fields
  have g := hc.fields
  by_cases h : 0 < s.beat.held
  · simp only [h, if_true] at g ⊢
    simp [g, f, edgePhase]
  · simp only [h, if_false] at g ⊢
    have h0 : s.beat.held = 0 := by omega
    simp [g, f, h0, edgePhase]

@[simp] theorem beatSet_beat (s : State) (f : Beat → Beat) : (s.beatSet f).beat = f s.beat := by simp [State.beatSet, State.modBeat]

/-- A lock leaves the count of an aligned beat alone (R52). -/
theorem lockCheck_aligned {s : State} (h : s.beat.aligned = true) : (lockCheck s).beat.count = s.beat.count ∧
    (lockCheck s).beat.held = s.beat.held ∧ (lockCheck s).beat.aligned = true ∧
    (lockCheck s).beat.jumpHold = s.beat.jumpHold ∧ (lockCheck s).beat.jumpFwd = s.beat.jumpFwd ∧
    (lockCheck s).beat.jumpFar = s.beat.jumpFar ∧ (lockCheck s).beat.skipped = s.beat.skipped ∧
    (lockCheck s).beat.lastValid = s.beat.lastValid ∧ (lockCheck s).beat.agreed = s.beat.agreed := by
  have hb : ∀ u, (beatEvent u).beat = u.beat := fun u => (beatEvent_moves u (Moves.refl 263240 u) rfl).rest .beat rfl
  unfold lockCheck
  dsimp only
  split
  · split
    · simp [h, hb]
    · simp [h]
  · simp [h]

theorem beatLoss_beat (s : State) (h : s.beat.locked = true) : (beatLoss s).beat = { s.beat with
    locked := false, holdover := true, loss := true, goodRun := 0, badRun := 0, agreed := false, lastValid := none } := by
  have hb : ∀ u, (beatEvent u).beat = u.beat := fun u => (beatEvent_moves u (Moves.refl 263240 u) rfl).rest .beat rfl
  have ha : ∀ u k, (alertLatch u k).beat = u.beat := fun u k => by simp
  simp only [beatLoss, h, if_true, ha, hb, beatSet_beat]

theorem lossCheck_count (s : State) : (lossCheck s).beat.count = s.beat.count ∧ (lossCheck s).beat.held = s.beat.held ∧
    (lossCheck s).beat.aligned = s.beat.aligned ∧ (lossCheck s).beat.intervals = s.beat.intervals := by
  unfold lossCheck
  split
  · cases h : s.beat.locked
    · simp [beatLoss, h]
    · simp [beatLoss_beat s h]
  · simp

theorem measureEdge_beat (s : State) (ns : Nat) : (measureEdge s ns).beat.intervals = (ns :: s.beat.intervals).take 16 ∧
    (measureEdge s ns).beat.count = s.beat.count ∧ (measureEdge s ns).beat.held = s.beat.held ∧
    (measureEdge s ns).beat.aligned = s.beat.aligned ∧ (measureEdge s ns).beat.holdover = s.beat.holdover ∧
    (measureEdge s ns).beat.lastValid = s.beat.lastValid ∧ (measureEdge s ns).beat.locked = s.beat.locked := by
  simp only [measureEdge, State.modBeat, addInterval]
  split <;> simp [edgePhase]

/-- A lock of an aligned beat changes nothing of it but its lock (R52). -/
theorem lockCheck_shape {s : State} (h : s.beat.aligned = true) : ∃ l o r p, (lockCheck s).beat = { s.beat with
    locked := l, holdover := o, relock := r, period := p } := by
  unfold lockCheck
  dsimp only
  split
  · split
    · simp only [h, if_true, beatEvent_beat, beatSet_beat]
      exact ⟨_, _, _, _, rfl⟩
    · exact ⟨_, _, _, _, rfl⟩
  · exact ⟨_, _, _, _, rfl⟩

theorem holdRange_quiet (s : State) (lo hi : Nat) : BeatQuiet s.beat (holdRange s lo hi).beat := rfl

theorem jumpTo_shape (s : State) (n : Nat) : BeatQuiet { s.beat with
    count := n % 2 ^ 48, held := 0, skipped := (s.beat.skipped + (n - s.beat.count)) % 2 ^ 48
    jumpFwd := s.beat.jumpFwd || !decide (65536 < n - s.beat.count), jumpFar := s.beat.jumpFar || decide (65536 < n - s.beat.count) }
    (jumpTo s n).beat := by
  unfold jumpTo
  dsimp only
  have e : ∀ u : State, BeatQuiet u.beat (u.modBeat fun b => { b with fired := List.range 64 }).beat := fun _ => rfl
  have k := beatEvent_beat (s.modBeat fun b => { b with
    count := n % 2 ^ 48, held := 0, skipped := (b.skipped + (n - s.beat.count)) % 2 ^ 48
    jumpFwd := b.jumpFwd || !decide (65536 < n - s.beat.count), jumpFar := b.jumpFar || decide (65536 < n - s.beat.count) })
  rw [← State.modBeat_beat s fun b => { b with
    count := n % 2 ^ 48, held := 0, skipped := (b.skipped + (n - s.beat.count)) % 2 ^ 48
    jumpFwd := b.jumpFwd || !decide (65536 < n - s.beat.count), jumpFar := b.jumpFar || decide (65536 < n - s.beat.count) }, ← k]
  split
  · exact e _
  · split
    · exact (holdRange_quiet _ _ _).trans (e _)
    · exact (catchUp_quiet _ _ _).trans (e _)

/-- A received count that is ahead of the own count is taken (R54). -/
theorem jumpTo_beat (s : State) (n : Nat) : (jumpTo s n).beat.count = n % 2 ^ 48 ∧ (jumpTo s n).beat.aligned = s.beat.aligned ∧
    (jumpTo s n).beat.skipped = (s.beat.skipped + (n - s.beat.count)) % 2 ^ 48 ∧
    (jumpTo s n).beat.jumpFwd = (s.beat.jumpFwd || decide (n - s.beat.count ≤ 65536)) ∧
    (jumpTo s n).beat.jumpFar = (s.beat.jumpFar || decide (65536 < n - s.beat.count)) ∧ (jumpTo s n).beat.held = 0 ∧
    (jumpTo s n).beat.lastValid = s.beat.lastValid := by
  have hd : (!decide (65536 < n - s.beat.count)) = decide (n - s.beat.count ≤ 65536) := by
    rw [← decide_not]; simp [Nat.not_lt]
  rw [jumpTo_shape s n, ← hd]
  exact ⟨rfl, rfl, rfl, rfl, rfl, rfl, rfl⟩

/-- What a valid count does to an aligned beat (R54). -/
theorem compareCount_facts (s : State) (n : Nat) (ha : s.beat.aligned = true) (hn : n < 2 ^ 48) :
    (compareCount s n).beat.aligned = true ∧ (compareCount s n).beat.lastValid = s.beat.lastValid ∧
    (compareCount s n).beat.differed = decide (n + (compareCount s n).beat.held ≠ (compareCount s n).beat.count) ∧
    (s.beat.agreed = false ∨ s.beat.differed = false ∨ n + s.beat.held = s.beat.count ∨ n = s.beat.count →
      ∃ d, (compareCount s n).beat = { s.beat with differed := d }) ∧
    (s.beat.agreed = true → s.beat.differed = true → n + s.beat.held ≠ s.beat.count →
      (n < s.beat.count → (compareCount s n).beat.count = s.beat.count ∧ (compareCount s n).beat.held = s.beat.count - n ∧
        (compareCount s n).beat.jumpHold = true) ∧
      (s.beat.count < n → (compareCount s n).beat.count = n ∧ (compareCount s n).beat.held = 0 ∧
        (compareCount s n).beat.skipped = (s.beat.skipped + (n - s.beat.count)) % 2 ^ 48 ∧
        (compareCount s n).beat.jumpFwd = (s.beat.jumpFwd || decide (n - s.beat.count ≤ 65536)) ∧
        (compareCount s n).beat.jumpFar = (s.beat.jumpFar || decide (65536 < n - s.beat.count)))) := by
  unfold compareCount
  dsimp only
  by_cases h : s.beat.agreed = false ∨ s.beat.differed = false ∨ n + s.beat.held = s.beat.count ∨ n = s.beat.count
  · rw [if_pos (by simpa [ha] using h)]
    refine ⟨ha, rfl, by simp [State.modBeat, ha], fun _ => ⟨_, rfl⟩, fun h1 h2 h3 => ?_⟩
    have h4 : n = s.beat.count := by simpa [h1, h2, h3] using h
    exact ⟨fun h5 => absurd h4 (by omega), fun h5 => absurd h4 (by omega)⟩
  · rw [if_neg (by simpa [ha] using h)]
    refine ⟨?_, ?_, ?_, fun h1 => absurd h1 h, fun h1 h2 h3 => ⟨fun h4 => ?_, fun h4 => ?_⟩⟩
    · split
      · simp [State.modBeat, beatEvent_beat, ha]
      · have k := (flushBeat_quiet s).fields
        simp [State.modBeat, jumpTo_beat, k, ha]
    · split
      · simp [State.modBeat, beatEvent_beat]
      · have k := (flushBeat_quiet s).fields
        simp [State.modBeat, jumpTo_beat, k]
    · split
      · simp [State.modBeat, beatEvent_beat, ha]
      · have k := (flushBeat_quiet s).fields
        simp [State.modBeat, jumpTo_beat, k, ha]
    · rw [if_pos h4]
      simp [State.modBeat, beatEvent_beat]
    · rw [if_neg (by omega)]
      have k := (flushBeat_quiet s).fields
      have g : (flushBeat s).beat.jumpFwd = s.beat.jumpFwd ∧ (flushBeat s).beat.jumpFar = s.beat.jumpFar := by
        rw [flushBeat_quiet s]; exact ⟨rfl, rfl⟩
      simp only [State.modBeat, jumpTo_beat, k, g, Nat.mod_eq_of_lt hn, and_self]

theorem lossCheck_shape (s : State) : ∃ l o x g b a v, (lossCheck s).beat = { s.beat with
    locked := l, holdover := o, loss := x, goodRun := g, badRun := b, agreed := a, lastValid := v } := by
  unfold lossCheck
  split
  · cases h : s.beat.locked
    · exact ⟨_, _, _, _, _, _, _, by simp only [beatLoss, h]; rfl⟩
    · exact ⟨_, _, _, _, _, _, _, beatLoss_beat s h⟩
  · exact ⟨_, _, _, _, _, _, _, rfl⟩

/-- The views that a calendar command carries. -/
def cmdViews (views : List UnitView) (a : Nat) : List UnitView := if a = 6 then views else []

theorem calendarCmd_exec {s : State} {i a : Nat} {views : List UnitView} {c : Instr} (h : calendarCmd i views a = some c)
    (hd : diesUp s = true) : exec c s = .next (entryRun s i a (cmdViews views a)) := by
  unfold calendarCmd at h
  split at h <;> first
    | (cases h; first
        | exact shareSet_runs i s hd
        | exact scrubSlice_runs i s hd
        | exact heatAge_runs i s hd
        | exact assayWindow_runs i s hd
        | exact epochAdvance_runs i s hd
        | exact rollCall_runs i views s hd
        | exact checkpointWindow_runs i s hd
        | exact markCmd_runs i s hd)
    | cases h

theorem fired_filter {s : State} {i : Nat} (h : entryTurn s i) : dueBefore s i = [] := by
  simp only [dueBefore, List.filterMap_eq_nil_iff]
  intro j hj
  rw [if_neg]
  rintro ⟨h1, h2⟩
  exact h j (by simpa using hj) h1 h2

/-- An entry whose turn it is fires at once (R56, R58). -/
theorem entryRun_turn {s : State} {i a : Nat} (views : List UnitView) (hd : entryDue s i = true) (ha : ceAction (s.entry i) = a)
    (ht : entryTurn s i) : entryRun s i a views = entryFire (firing s i) i views := by
  rw [entryRun, hd, ha, if_pos (by simp), fired_filter ht]
  show entryNow (reachPhase s (cePhase (s.entry i))) i views = _
  rw [entryNow, if_pos (show entryDue (reachPhase s (cePhase (s.entry i))) i = true from hd)]
  rfl

theorem entryRun_ready {s : State} {i a : Nat} (views : List UnitView) (h : entryReady s i a) :
    entryRun s i a views = (let u := entryAct (firing s i) i views
      if ceOnce (s.entry i) then
        u.modBeat fun b => { b with active := tmod b.active i fun e => e.take 0xB ++ [e.getD 0xB 0#8 &&& 0xFE#8] ++ e.drop 0xC }
      else u) := by
  obtain ⟨_, h1, h2, h3, h5⟩ := h
  have h4 : actionAllowed (firing s i) (ceAction ((firing s i).entry i)) = true := by rw [← h3, ← h2]; rfl
  rw [entryRun_turn views h1 h2 h5, entryFire, if_pos h4]
  rfl

/-- What an entry that is ready does to anything but the beat block is what its action does. -/
theorem entryRun_proj {α : Type} {s : State} {i a : Nat} {views : List UnitView} (h : entryReady s i a) (f : State → α)
    (hf : ∀ (u : State) (g : Beat → Beat), f (u.modBeat g) = f u) : f (entryRun s i a views) = f (entryAct (firing s i) i views) := by
  rw [entryRun_ready views h]
  dsimp only
  split
  · exact hf _ _
  · rfl

theorem entryRun_fired {s : State} {i a : Nat} (views : List UnitView) (h : entryReady s i a) : entryFired s (entryRun s i a views) i := by
  rw [entryRun_ready views h]
  have hb := entryAct_beat (firing s i) i views
  dsimp only
  unfold entryFired
  split
  · simp only [State.modBeat, hb]; rfl
  · rw [hb]; rfl

theorem shareSet_claims (s : State) (n p m : Nat) (hn : n < 8) (hr : s.redealing = false) :
    ((shareSet s n p).claim m).activeProfile = (if n = m ∧ (s.claim n).st = .active then p else (s.claim m).activeProfile) ∧
    ((shareSet s n p).claim m).st = (s.claim m).st ∧ (shareSet s n p).redealing = false := by
  have hb : (shareSet s n p).boot = s.boot := (shareSet_moves s n p (Moves.refl 3144 s) rfl).rest .boot rfl
  have hs : ∀ u k, ((settleReservation u k).claim m).activeProfile = (u.claim m).activeProfile ∧ ((settleReservation u k).claim m).st = (u.claim m).st := by
    intro u k
    unfold settleReservation
    dsimp only
    by_cases h : k = m
    · subst h
      by_cases h8 : k < 8
      · split <;> simp [claim_modClaim_same _ _ h8]
      · have e : ∀ v : State, ∀ f, (v.modClaim k f).claim k = v.claim k := by
          intro v f; simp [State.claim, State.modClaim, State.modCl, tget, tmod, tset, h8]
        split <;> simp [e]
    · split <;> simp [claim_modClaim_ne _ _ h]
  refine ⟨?_, ?_, by simp only [State.redealing, hb] at *; exact hr⟩
  · unfold shareSet
    rw [if_neg (by simp [hr])]
    by_cases ha : (s.claim n).st = .active
    · rw [if_pos ha]
      unfold changeShare
      dsimp only
      have e : ∀ (P : Prop) [Decidable P] (u : State) (b : List (List Byte)), (if P then u else postEvent u n 0x0003 0 b).claim m = u.claim m := by
        intro P _ u b; split <;> simp
      rw [e, (hs _ _).1]
      by_cases h : n = m
      · subst h; simp [claim_modClaim_same _ _ hn, ha]
      · simp [claim_modClaim_ne _ _ h, h]
    · rw [if_neg ha]; simp [ha]
  · unfold shareSet
    rw [if_neg (by simp [hr])]
    split
    · unfold changeShare
      dsimp only
      have e : ∀ (P : Prop) [Decidable P] (u : State) (b : List (List Byte)), (if P then u else postEvent u n 0x0003 0 b).claim m = u.claim m := by
        intro P _ u b; split <;> simp
      rw [e, (hs _ _).2]
      by_cases h : n = m
      · subst h; simp [claim_modClaim_same _ _ hn]
      · simp [claim_modClaim_ne _ _ h]
    · rfl

theorem shareSets_claims (l : List Nat) (s : State) (p m : Nat) (hl : ∀ n ∈ l, n < 8) (hr : s.redealing = false) :
    (((l.foldl (fun s n => shareSet s n p) s).claim m).activeProfile =
      if m ∈ l ∧ (s.claim m).st = .active then p else (s.claim m).activeProfile) := by
  induction l generalizing s with
  | nil => simp
  | cons n l ih =>
    have h := shareSet_claims s n p m (hl n (by simp)) hr
    rw [List.foldl_cons, ih _ (fun k hk => hl k (by simp [hk])) h.2.2, h.1, h.2.1]
    by_cases h1 : n = m
    · subst h1; by_cases h2 : (s.claim n).st = .active <;> simp [h2]
    · have h3 : ¬ m = n := fun e => h1 e.symm
      simp [h1, h3]

/-- One claim's checkpoint window (R57, R80). -/
def ckptStep (len mask : Nat) (s : State) (n : Nat) : State :=
  if mask.testBit n ∧ (s.claim n).st = .active then
    postEvent (s.modClaim n fun c => { c with ckptUntil := some (max (c.ckptUntil.getD 0) (s.beat.count + len)) }) n 0x0002 0
      [leBytes 6 s.beat.count ++ leBytes 2 0 ++ leBytes 2 len]
  else s

theorem ckptStep_claim (len mask : Nat) (s : State) (n m : Nat) (hn : n < 8) :
    (ckptStep len mask s n).claim m = (if n = m ∧ mask.testBit m ∧ (s.claim m).st = .active then
      { s.claim m with ckptUntil := some (max ((s.claim m).ckptUntil.getD 0) (s.beat.count + len)) } else s.claim m) ∧
    (ckptStep len mask s n).beat = s.beat := by
  unfold ckptStep
  by_cases h : n = m
  · subst h
    split
    · rename_i h1; simp [h1, claim_modClaim_same _ _ hn]
    · rename_i h1; simp [h1]
  · split
    · simp [h, claim_modClaim_ne _ _ h]
    · simp [h]

theorem ckptSteps_claim (len mask : Nat) (l : List Nat) (s : State) (m : Nat) (hl : ∀ n ∈ l, n < 8) (hd : l.Nodup) :
    (l.foldl (ckptStep len mask) s).claim m = (if m ∈ l ∧ mask.testBit m ∧ (s.claim m).st = .active then
      { s.claim m with ckptUntil := some (max ((s.claim m).ckptUntil.getD 0) (s.beat.count + len)) } else s.claim m) := by
  induction l generalizing s with
  | nil => simp
  | cons n l ih =>
    have h := ckptStep_claim len mask s n m (hl n (by simp))
    rw [List.foldl_cons, ih _ (fun k hk => hl k (by simp [hk])) hd.tail, h.1, h.2]
    by_cases h1 : n = m
    · subst h1
      have h2 : n ∉ l := (List.nodup_cons.mp hd).1
      simp [h2]
    · have h3 : ¬ m = n := fun e => h1 e.symm
      simp [h1, h3]

theorem checkpointOpen_claim (s : State) (mask len m : Nat) (hm : m < 8) :
    (checkpointOpen s mask len).claim m = (if mask.testBit m ∧ (s.claim m).st = .active then
      { s.claim m with ckptUntil := some (max ((s.claim m).ckptUntil.getD 0) (s.beat.count + len)) } else s.claim m) := by
  have e : checkpointOpen s mask len = (List.range 8).foldl (ckptStep len mask) s := rfl
  rw [e, ckptSteps_claim len mask _ s m (by simp) List.nodup_range]
  simp [hm]

end Sys2Proof
end

