-- ==== Sys2Proof/Laws/FxMgmt.lean ====
section
/-! SUPPORT. The management endpoint. -/

set_option linter.unusedSimpArgs false
set_option linter.unusedVariables false

namespace Sys2Proof

open Machine

theorem mgmtAnswers_up {s : State} (h : mgmtUp s) : mgmtAnswers s = true := by
  obtain ⟨h1, h2, h3⟩ := h
  simp [mgmtAnswers, mgmtRuns, h1, h2, h3]

theorem vendorGo_up {s : State} (h : mgmtUp s) (k : State → State) : vendorGo s k = k s := by
  rw [vendorGo, if_pos (mgmtAnswers_up h)]

theorem drivePins_mgmt (s : State) : (drivePins s).mgmt = { s.mgmt with critLow := pinWanted s.mgmt true, warnLow := pinWanted s.mgmt false } := by
  unfold drivePins
  dsimp only
  split <;> split <;> rfl

end Sys2Proof
end

