-- ==== Sys2Proof/Laws/FxSec.lean ====
section
/-! SUPPORT. Security blocks. -/

set_option linter.unusedSimpArgs false
set_option linter.unusedVariables false

namespace Sys2Proof

open Machine

theorem chain5 (s : State) (p1 p3 p4 p5 : Bool) (q : Prop) [Decidable q] (f : State × Nat) :
    (if p1 then (s, 0x02) else if q then (s, 0x05) else if p3 then (s, 0x03) else if p4 then (s, 0x04) else if p5 then (s, 0x07) else f) =
      if firstCode [(p1, 0x02), (decide q, 0x05), (p3, 0x03), (p4, 0x04), (p5, 0x07)] ≠ 0 then
        (s, firstCode [(p1, 0x02), (decide q, 0x05), (p3, 0x03), (p4, 0x04), (p5, 0x07)]) else f := by
  cases p1 <;> by_cases hq : q <;> cases p3 <;> cases p4 <;> cases p5 <;> simp [firstCode, hq]

theorem chain8 (s : State) (p1 p3 p4 p6 p7 : Bool) (q2 q5 q8 : Prop) [Decidable q2] [Decidable q5] [Decidable q8] (f : State × Nat) :
    (if p1 then (s, 0x02) else if q2 then (s, 0x0B) else if p3 then (s, 0x0C) else if p4 then (s, 0x06) else if q5 then (s, 0x05) else if p6 then (s, 0x03)
      else if p7 then (s, 0x04) else if q8 then (s, 0x08) else f) =
      if firstCode [(p1, 0x02), (decide q2, 0x0B), (p3, 0x0C), (p4, 0x06), (decide q5, 0x05), (p6, 0x03), (p7, 0x04), (decide q8, 0x08)] ≠ 0 then
        (s, firstCode [(p1, 0x02), (decide q2, 0x0B), (p3, 0x0C), (p4, 0x06), (decide q5, 0x05), (p6, 0x03), (p7, 0x04), (decide q8, 0x08)]) else f := by
  cases p1
  · by_cases h2 : q2
    · simp [firstCode, h2]
    · cases p3
      · cases p4
        · by_cases h5 : q5
          · simp [firstCode, h2, h5]
          · cases p6
            · cases p7
              · by_cases h8 : q8 <;> simp [firstCode, h2, h5, h8]
              · simp [firstCode, h2, h5]
            · simp [firstCode, h2, h5]
        · simp [firstCode, h2]
      · simp [firstCode, h2]
  · simp [firstCode]

theorem keySlot_spec (s : State) (b : List Byte) (v : Bool) : let c := firstCode (keyChecks s b)
    (keySlotBlock s b v).2 = (if c ≠ 0 then c else if v then 0 else 0x0F) ∧ (c ≠ 0 → (keySlotBlock s b v).1 = s) ∧
      (c = 0 → v = true → slotBlown s (keySlotBlock s b v).1 b) := by
  unfold keySlotBlock
  dsimp only
  rw [chain5]
  show let c := firstCode (keyChecks s b); _
  unfold keyChecks
  generalize firstCode _ = c
  dsimp only
  by_cases hc : c ≠ 0
  · rw [if_pos hc]; exact ⟨by rw [if_pos hc], fun _ => rfl, fun h => absurd h hc⟩
  · rw [if_neg hc]
    refine ⟨by rw [if_neg hc], fun h => absurd h hc, fun _ hv => ?_⟩
    subst hv
    unfold slotBlown
    rw [secEvent_boot]
    simp only [if_true, State.modSlot, State.modBoot]
    congr 3
    funext k
    by_cases hp : field b 4 1 = 1 <;> simp [slotAfter, hp]

theorem setSec_dbg (s : State) (x : SecState) : (setSec s x).dbg = { s.dbg with st := x } := by
  unfold setSec mgmtSensor
  split
  · rfl
  · rw [(mgmtPush_moves _ _ (Moves.refl 262152 _) rfl).rest .dbg rfl]; rfl

theorem grant_spec (s : State) (b : List Byte) : let c := firstCode (grantChecks s b)
    (grantBlock s b).2 = c ∧ (c ≠ 0 → (grantBlock s b).1 = s) ∧ (c = 0 → grantLives s (grantBlock s b).1 b) := by
  unfold grantBlock
  dsimp only
  rw [chain8]
  have h1 : firstCode (grantChecks s b) = 0 → grantBlockOk b = true := by
    unfold grantChecks firstCode
    intro h
    by_contra hc
    simp only [Bool.not_eq_true] at hc
    simp [hc] at h
  unfold grantChecks at h1 ⊢
  generalize firstCode _ = c at h1 ⊢
  by_cases hc : c ≠ 0
  · rw [if_pos hc]; exact ⟨rfl, fun _ => rfl, fun h => absurd h hc⟩
  rw [if_neg hc]
  simp only [ne_eq, Decidable.not_not] at hc
  refine ⟨hc.symm, fun h => absurd hc h, fun _ => ?_⟩
  replace h1 := h1 hc
  have hn : field b 4 1 < 8 := by
    simp only [grantBlockOk, Bool.and_eq_true, decide_eq_true_eq] at h1
    omega
  have key : ∀ u : State, u.dbg.grants = s.dbg.grants → u.boot = s.boot → ∀ g,
      let t := secEvent (setSec (u.modDbg fun d => { d with grants := tset d.grants (field b 4 1) g }) .claimDebug) 1 (field b 4 1) 0
      tget t.dbg.grants (field b 4 1) = g ∧ (∀ m, m < 8 → m ≠ field b 4 1 → tget t.dbg.grants m = tget s.dbg.grants m) ∧ t.dbg.st = .claimDebug ∧ t.boot = s.boot := by
    intro u hu hb g
    dsimp only
    rw [secEvent_dbg, setSec_dbg, secEvent_boot, setSec_boot]
    refine ⟨tget_tset_same _ _ hn, fun m _ hm => ?_, rfl, hb⟩
    show tget (tset u.dbg.grants _ _) m = _
    rw [tget_tset_ne _ _ (Ne.symm hm), hu]
  unfold grantLives
  have e1 : (extendMeasure s 5 (bytesAt b 0 32)).dbg.grants = s.dbg.grants := by unfold extendMeasure setMeasure; rfl
  have e2 : (extendMeasure s 5 (bytesAt b 0 32)).boot = s.boot := by unfold extendMeasure setMeasure; rfl
  generalize extendMeasure s 5 (bytesAt b 0 32) = w at e1 e2
  split
  · exact key w e1 e2 _
  · exact key (w.modWin (field b 4 1) fun _ => {}) e1 e2 _

theorem endGrant_spec (s : State) {n : Nat} (hn : n < 8) (hl : (tget s.dbg.grants n).live = true) : grantOver s (endGrant s n) n := by
  unfold endGrant
  rw [if_pos hl]
  dsimp only
  have hw : tget (tmod (tmod s.dbg.wins n fun w => { w with halted := false, stepping := [] }) n fun _ => ({} : DebugWin)) n = {} := tget_tmod_same _ _ hn
  have hgn : tget (tset s.dbg.grants n {}) n = ({} : Grant) := tget_tset_same _ _ hn
  have hgm : ∀ m, m < 8 → m ≠ n → tget (tset s.dbg.grants n {}) m = tget s.dbg.grants m := fun m _ h => tget_tset_ne _ _ (Ne.symm h)
  unfold grantOver
  rw [secEvent_dbg, secEvent_boot]
  split
  · rw [setSec_dbg, setSec_boot]
    exact ⟨hgn, hw, hgm, fun _ _ => rfl, rfl⟩
  · rename_i hc
    refine ⟨hgn, hw, hgm, fun h1 h2 => absurd ⟨h1, ?_⟩ hc, rfl⟩
    show (!(tset s.dbg.grants n {}).toList.any (·.live)) = true
    rw [Bool.not_eq_true', List.any_eq_false]
    intro g hg
    obtain ⟨m, hm, rfl⟩ := List.getElem_of_mem hg
    have hm8 : m < 8 := by simpa using hm
    have : (tset s.dbg.grants n {}).toList[m] = tget (tset s.dbg.grants n {}) m := by
      simp [tget, hm8]
    rw [this]
    by_cases e : m = n
    · subst e; rw [hgn]; decide
    · rw [hgm m hm8 e, h2 m hm8 e]; decide

theorem nonce_ok (s : State) : nonceDrawn (drawNonce s) := by
  show 0 < Config.entropy s.freeCtr % (2 ^ 64 - 1) + 1 ∧ Config.entropy s.freeCtr % (2 ^ 64 - 1) + 1 < 2 ^ 64
  have := Nat.mod_lt (Config.entropy s.freeCtr) (show 0 < 2 ^ 64 - 1 by decide)
  omega

end Sys2Proof
end

