-- ==== Sys2Proof/Laws/FxDebug.lean ====
section
/-! SUPPORT. Debug windows, JTAG and the vendor unlock. -/

set_option linter.unusedSimpArgs false
set_option linter.unusedVariables false

namespace Sys2Proof

open Machine

theorem chainU (p1 p2 p4 p5 : Bool) (q : Prop) [Decidable q] :
    (if p1 then 0x02 else if p2 then 0x06 else if q then 0x05 else if p4 then 0x03 else if p5 then 0x04 else 0 : Nat) =
      firstCode [(p1, 0x02), (p2, 0x06), (decide q, 0x05), (p4, 0x03), (p5, 0x04)] := by
  cases p1 <;> cases p2 <;> by_cases hq : q <;> cases p4 <;> cases p5 <;> simp [firstCode, hq]

theorem unlockCode_eq (s : State) (b : List Byte) : unlockCode s b = firstCode (unlockChecks s b) := chainU _ _ _ _ _

theorem vendorOpen_spec (s : State) (b : List Byte) (env : BootEnv) : ∃ u, vendorOpened u ∧ (s.boot.released = true → mainLost u) ∧ vendorOpen s b env = tryRelease u env := by
  unfold vendorOpen
  refine ⟨_, ?_, ?_, rfl⟩
  · have hb : (extendMeasure s 5 (bytesAt b 0 32)).boot = s.boot := by unfold extendMeasure setMeasure; rfl
    generalize extendMeasure s 5 (bytesAt b 0 32) = w at hb
    dsimp only
    generalize hv : secEvent (setSec ((w.modBoot fun x => { x with fuses := { x.fuses with vendorOpen := true, killed := true } }).modDbg fun d => { d with identity := false }) .vendorOpen) 5 0 0 = v
    have hvb : v.boot.fuses.vendorOpen = true ∧ v.boot.fuses.killed = true := by
      rw [← hv, secEvent_boot, setSec_boot]; exact ⟨rfl, rfl⟩
    split
    · refine ⟨?_, ?_, rfl, rfl, rfl⟩
      · show (mainReset v .held).boot.fuses.killed = true
        rw [mainReset_keeps]; exact hvb.2
      · show (mainReset v .held).boot.fuses.vendorOpen = true
        rw [mainReset_keeps]; exact hvb.1
    · exact ⟨hvb.2, hvb.1, rfl, rfl, rfl⟩
  · intro hr
    dsimp only
    have hb : (secEvent (setSec (((extendMeasure s 5 (bytesAt b 0 32)).modBoot fun x => { x with fuses := { x.fuses with vendorOpen := true, killed := true } }).modDbg fun d => { d with identity := false }) .vendorOpen) 5 0 0).boot.released = true := by
      rw [secEvent_boot, setSec_boot]; unfold extendMeasure setMeasure; exact hr
    rw [if_pos hb]
    generalize secEvent _ _ _ _ = v
    have := mainReset_cold v
    unfold coldStarted at this
    exact this.2.2.2.2.2.2.2.2

theorem dbgCheck_allowed {s : State} {n : Nat} {r : Grant → Bool} (h : dbgAllowed s n r) : dbgCheck s n r = none := by
  obtain ⟨h1, h2, h3⟩ := h
  simp [dbgCheck, h1, h2, h3]

theorem dbgCheck_refused {s : State} {n c : Nat} {r : Grant → Bool} (h : dbgRefused s n r c) : dbgCheck s n r = some c := by
  rcases h with ⟨h1, rfl⟩ | ⟨h1, h2, rfl⟩ | ⟨h1, h2, h3, rfl⟩
  · simp [dbgCheck, h1]
  · simp [dbgCheck, h1, h2]
  · simp [dbgCheck, h1, h2, h3]

theorem haltClaim_spec (s : State) {n : Nat} (hn : n < 8) : claimHalts s (haltClaim s n) n := by
  refine ⟨?_, rfl, ?_, ?_⟩
  · show (tget (tmod s.dbg.wins n _) n).halted = true
    rw [tget_tmod_same _ _ hn]
  · intro m hm h1 h2 c hc
    obtain ⟨m0, h0, rfl⟩ := List.mem_map.1 hm
    by_cases h : m0.claim = n ∧ m0.phase = .running
    · rw [if_pos h] at hc ⊢
      simp only [List.mem_filter, bne_iff_ne, ne_eq, and_iff_right_iff_imp]
      exact fun _ => hc
    · rw [if_neg h] at h1 h2
      exact absurd ⟨h1, h2⟩ h
  · show (s.dl.macros.map _).filter _ = _
    generalize s.dl.macros = l
    induction l with
    | nil => rfl
    | cons m l ih =>
      rw [List.map_cons, List.filter_cons, List.filter_cons, ih]
      by_cases hm : m.claim = n
      · have hcl : (if m.claim = n ∧ m.phase = .running then { m with halted := m.cores.filter fun c => (tget s.dl.cores c).current != some m.id } else m).claim = n := by
          split <;> exact hm
        rw [if_neg (by simp [hcl]), if_neg (by simp [hm])]
      · rw [if_neg (fun h : m.claim = n ∧ m.phase = .running => hm h.1)]

theorem modWin_win (s : State) {n : Nat} (f : DebugWin → DebugWin) (hn : n < 8) : tget (s.modWin n f).dbg.wins n = f (tget s.dbg.wins n) := tget_tmod_same _ _ hn

end Sys2Proof
end

