-- ==== Sys2Proof/Laws/FxRedeal.lean ====
section
/-! SUPPORT. Redeals, runtime FAILED and fences. -/

set_option linter.unusedSimpArgs false
set_option linter.unusedVariables false

namespace Sys2Proof

open Machine

theorem AllResolved.of_items {s t : State} (h : AllResolved s) (e : t.dl.items = s.dl.items) : AllResolved t := by
  intro i hi; rw [e] at hi; exact h i hi

theorem AllResolved.of_dl {s t : State} (h : AllResolved s) (e : t.dl = s.dl) : AllResolved t := h.of_items (by rw [e])

theorem all_foldl {α : Type} {f : State → α → State} (hf : ∀ u x, AllResolved u → AllResolved (f u x)) (l : List α) (s : State) (h : AllResolved s) :
    AllResolved (l.foldl f s) := by
  induction l generalizing s with
  | nil => exact h
  | cons x l ih => exact ih _ (hf s x h)

theorem all_modItem {s : State} (h : AllResolved s) (a b : Nat) {f : Item → Item} (hf : ∀ i, i.st = .resolved → (f i).st = .resolved) :
    AllResolved (s.modItem a b f) := by
  intro i hi
  obtain ⟨j, hj, rfl⟩ := List.mem_map.1 hi
  split
  · exact hf j (h j hj)
  · exact h j hj

theorem all_completeCmd {s : State} (h : AllResolved s) (a b l g : Nat) : AllResolved (completeCmd s a b l g) := all_modItem h a b fun _ hi => hi

theorem findItem_mem {s : State} {a b : Nat} {i : Item} (h : findItem s a b = some i) : i ∈ s.dl.items := List.mem_of_find?_eq_some h

theorem all_failItem {s : State} (h : AllResolved s) (a b : Nat) (o : Outcome) : AllResolved (failItem s a b o) := by
  unfold failItem
  split
  · exact h
  · rename_i i hi
    have : i.fixed = true := by simp [Item.fixed, h i (findItem_mem hi)]
    rw [if_pos this]; exact h

theorem all_failAt {s : State} (h : AllResolved s) (a b l g c d : Nat) : AllResolved (failAt s a b l g c d) := by
  unfold failAt
  split
  · exact h
  · split <;> exact all_failItem h _ _ _

theorem all_endHostWait {s : State} (h : AllResolved s) (c w : Nat) (b : Bool) : AllResolved (endHostWait s c w b) := h.of_dl (endHostWait_items _ _ _ _)

theorem all_failWaiters {s : State} (h : AllResolved s) (n : Nat) : AllResolved (failWaiters s n) := by
  unfold failWaiters
  dsimp only
  refine all_foldl (fun u x hu => all_endHostWait hu _ _ _) _ _ ?_
  exact all_foldl (fun u x hu => all_failAt hu _ _ _ _ _ _) _ _ (h.of_dl (modRoundsArmed_dl s _))

theorem all_testTally {s : State} (h : AllResolved s) (n : Nat) : AllResolved (testTally s n) := by
  unfold testTally
  dsimp only
  refine all_foldl (fun u x hu => ?_) _ _ (all_foldl (fun u x hu => ?_) _ _ (h.of_dl (modRoundsArmed_dl s _)))
  · split
    · exact all_endHostWait hu _ _ _
    · exact hu
  · split
    · exact all_completeCmd hu _ _ _ _
    · exact hu

theorem all_modTally {s : State} (h : AllResolved s) (n : Nat) (f : Tally → Tally) : AllResolved (s.modTally n f) := h.of_items rfl
theorem all_setTrick {s : State} (h : AllResolved s) (k : Nat) (t : Option Trick) : AllResolved (s.setTrick k t) := h.of_items rfl
theorem all_modQp {s : State} (h : AllResolved s) (c q : Nat) (f : Qp → Qp) : AllResolved (s.modQp c q f) := h.of_items rfl

theorem all_poisonOne {s : State} (h : AllResolved s) (n c : Nat) (o : Seat) : AllResolved (poisonOne s n c o) := by
  unfold poisonOne
  split
  · exact h
  · exact all_failWaiters (all_modTally h _ _) n

theorem all_poisonTrickHere {s : State} (h : AllResolved s) (k : Nat) (o : Seat) : AllResolved (poisonTrickHere s k o) := by
  unfold poisonTrickHere
  split
  · exact h
  · exact all_poisonOne (all_poisonOne (all_setTrick h _ _) _ _ _) _ _ _

theorem all_poisonTrick {s : State} (h : AllResolved s) (k c : Nat) : AllResolved (poisonTrick s k c) := by
  unfold poisonTrick
  split
  · exact h
  · split
    · exact h
    · exact all_poisonTrickHere (all_foldl (fun u x hu => hu.of_dl (sendTrick_dl _ _ _)) _ _ h) _ _

theorem all_poisonTally {s : State} (h : AllResolved s) (n c : Nat) : AllResolved (poisonTally s n c) := by
  unfold poisonTally
  dsimp only
  split
  · exact all_poisonOne h _ _ _
  · split
    · exact all_poisonTrick (all_poisonOne h _ _ _) _ _
    · exact all_poisonOne h _ _ _

theorem all_poisonClaimTallies {s : State} (h : AllResolved s) (n : Nat) : AllResolved (poisonClaimTallies s n) := by
  unfold poisonClaimTallies
  dsimp only
  refine all_foldl (fun u x hu => ?_) _ _ (all_foldl (fun u x hu => all_poisonOne hu _ _ _) _ _ h)
  split
  · exact all_poisonTrick hu _ _
  · exact hu

theorem all_applyRelease {s : State} (h : AllResolved s) (k g : Nat) : AllResolved (applyRelease s k g) := by
  unfold applyRelease
  split
  · exact h
  · rename_i t ht
    dsimp only
    have k := all_testTally (all_modTally (all_setTrick h k (some { t with gen := g + 1, arrived := false, arrivals := [] }))
      t.releaseTally fun y => { y with value := BitVec.ofNat 32 g }) t.releaseTally
    split
    · exact k.of_dl (beginWaits_dl _ _)
    · exact k

theorem all_collectArrival {s : State} (h : AllResolved s) (k : Nat) (o : Seat) : AllResolved (collectArrival s k o) := by
  unfold collectArrival
  split
  · exact h
  · rename_i t ht
    dsimp only
    generalize (if t.arrivals.contains o then t.arrivals else t.arrivals ++ [o]) = arr
    split
    · refine all_applyRelease (all_setTrick ?_ _ _) _ _
      exact all_foldl (fun u x hu => hu.of_dl (sendTrick_dl _ _ _)) _ _ h
    · exact all_setTrick h _ _

theorem all_arriveFrom (n : Nat) {s : State} (h : AllResolved s) (k : Nat) : AllResolved (arriveFrom n s k) := by
  induction n generalizing s with
  | zero => exact h
  | succ n ih =>
    unfold arriveFrom
    split
    · exact h
    · split
      · exact h
      · dsimp only
        split
        · exact ih (all_collectArrival (all_setTrick h _ _) _ _)
        · exact (all_setTrick h _ _).of_dl (sendTrick_dl _ _ _)

theorem all_arriveCheck {s : State} (h : AllResolved s) (k : Nat) : AllResolved (arriveCheck s k) := all_arriveFrom _ h k

theorem all_applyTally {s : State} (h : AllResolved s) (n : Nat) (v : Word32) : AllResolved (applyTally s n v) := by
  unfold applyTally
  dsimp only
  have h1 : AllResolved (testTally (s.modTally n fun t => { t with value := v }) n) := all_testTally (all_modTally h _ _) _
  split
  · split
    · exact all_arriveCheck h1 _
    · exact h1
  · exact h1

theorem all_completionAdd {s : State} (h : AllResolved s) (c n : Nat) : AllResolved (completionAdd s c n) := by
  unfold completionAdd
  split
  · exact h
  · unfold windowOp
    dsimp only
    split
    · unfold agentAdd
      split
      · exact h
      · exact all_applyTally h _ _
    · exact h.of_dl rfl

theorem all_completionPoison {s : State} (h : AllResolved s) (c n k : Nat) : AllResolved (completionPoison s c n k) := by
  unfold completionPoison
  split
  · exact all_poisonTally h _ _
  · exact h

theorem all_writeCqe {s : State} (h : AllResolved s) (c k : Nat) (q : Qp) (r : List Byte × Nat) : AllResolved (writeCqe s c k q r) := by
  unfold writeCqe
  dsimp only
  split
  · exact all_completionPoison (all_modQp h _ _ _) _ _ _
  · exact all_completionAdd (all_modQp (h.of_dl (postHost_dl _ _ _ _)) _ _ _) _ _

theorem all_drainRecords (c q : Nat) (n : Nat) {s : State} (h : AllResolved s) : AllResolved (drainRecords c q n s) := by
  induction n generalizing s with
  | zero => exact h
  | succ n ih =>
    unfold drainRecords
    split
    · exact h
    · split
      · exact h
      · split
        · exact h
        · exact ih (all_writeCqe h _ _ _ _)

theorem all_pushRecord {s : State} (h : AllResolved s) (c q : Nat) (r : List Byte) (k : Nat) : AllResolved (pushRecord s c q r k) :=
  all_drainRecords c q _ (all_modQp h _ _ _)

theorem all_failWqe {s : State} (h : AllResolved s) (c q : Nat) (r : Bool) (k : Nat) (w : Wqe) : AllResolved (failWqe s c q r k w) :=
  all_completionPoison (all_pushRecord h _ _ _ _) _ _ _

theorem all_enterErr {s : State} (h : AllResolved s) (c q : Nat) : AllResolved (enterErr s c q) := by
  unfold enterErr
  split
  · exact h
  · dsimp only
    exact all_foldl (fun u x hu => all_failWqe hu _ _ _ _ _) _ _ (all_foldl (fun u x hu => all_failWqe hu _ _ _ _ _) _ _ (all_modQp h _ _ _))

theorem all_qpsErr {s : State} (h : AllResolved s) (c : Nat) : AllResolved (qpsErr s c) := all_foldl (fun u x hu => all_enterErr hu _ _) _ _ h

theorem all_fixOutcomes {s : State} (h : AllResolved s) (n : Nat) : AllResolved (fixOutcomes s n) := by
  intro i hi
  obtain ⟨j, hj, rfl⟩ := List.mem_map.1 hi
  split
  · rfl
  · exact h j hj

theorem all_writeOutcomes {s : State} (h : AllResolved s) (n : Nat) : AllResolved (writeOutcomes s n) := by
  have hu := all_fixOutcomes h n
  by_cases hc : ((s.shoe n).sheetActive && canIssue s (fnOf n)) = true
  · intro i hi
    rw [writeOutcomes_items hc] at hi
    exact hu i (reportItems_sub _ _ _ _ _ _ i hi)
  · unfold writeOutcomes
    dsimp only
    rw [if_neg (fun k : ((fixOutcomes s n).shoe n).sheetActive = true ∧ canIssue (fixOutcomes s n) (fnOf n) = true => hc (by simpa using (show (s.shoe n).sheetActive = true ∧ canIssue s (fnOf n) = true from k)))]
    exact hu.of_items rfl

theorem reportItems_macros (n k : Nat) (s : State) (hi j : Nat) (q : Bool) : (reportItems n k s hi j q).1.dl.macros = s.dl.macros := by
  induction k generalizing s hi j q with
  | zero => rfl
  | succ k ih =>
    unfold reportItems
    split
    · rfl
    · split
      · rfl
      · rw [ih]
        show (if _ then writeSheet _ _ _ else _ : State).dl.macros = _
        split
        · unfold writeSheet
          dsimp only
          split
          · rw [raiseSource_dl]; simp [State.modShoe, State.modDl]
          · simp [State.modShoe, State.modDl]
        · rfl

theorem moderate_macros (v : State) (n k : Nat) (q : Bool) : (moderate v n k q).dl.macros = v.dl.macros := by
  unfold moderate
  dsimp only
  split
  · rw [raiseSource_dl]; rfl
  · rfl

theorem writeScore_macros (s : State) (n v : Nat) : (writeScore s n v).dl.macros = s.dl.macros := by
  simp [writeScore, State.modShoe, State.modDl]

theorem writeOutcomes_macros (s : State) (n : Nat) : (writeOutcomes s n).dl.macros = s.dl.macros := by
  have e : (fixOutcomes s n).dl.macros = s.dl.macros := rfl
  unfold writeOutcomes
  dsimp only
  rw [← e]
  generalize fixOutcomes s n = u
  split
  · split
    · rw [updateLedgerFull_dl, moderate_macros, writeScore_macros, reportItems_macros]
    · split
      · exact reportItems_macros _ _ _ _ _ _
      · rw [updateLedgerFull_dl, moderate_macros, writeScore_macros, reportItems_macros]
  · rfl

theorem redealBegin_boot (s : State) (t : Trigger) : (redealBegin s t).boot = { s.boot with dev := .redealing } ∧
    (redealBegin s t).redeal = { s.redeal with phase := .resolving, resumeSeen := false, id := (s.redeal.id + 1) % 2 ^ 32, confirmed := Vector.replicate 8 false, before := s.boot.dev, started := s.now, heldShares := [] } := by
  unfold redealBegin
  dsimp only
  have g : ∀ (l : List Nat) (u : State), (l.foldl endGrant u).boot = u.boot ∧ (l.foldl endGrant u).redeal = u.redeal := by
    intro l
    induction l with
    | nil => intro u; exact ⟨rfl, rfl⟩
    | cons x l ih =>
      intro u; rw [List.foldl_cons]
      have := endGrant_moves u x (Moves.refl 329416 u) rfl
      exact ⟨(ih _).1.trans (this.rest .boot rfl), (ih _).2.trans (this.rest .redeal rfl)⟩
  have p : ∀ (l : List Nat) (u : State) (e : Nat → List (List Byte)), (l.foldl (fun s' n => if (s'.claim n).st = .active then postEvent s' n 0x0005 t.cause (e n) else s') u).boot = u.boot ∧
      (l.foldl (fun s' n => if (s'.claim n).st = .active then postEvent s' n 0x0005 t.cause (e n) else s') u).redeal = u.redeal := by
    intro l
    induction l with
    | nil => intro u e; exact ⟨rfl, rfl⟩
    | cons x l ih =>
      intro u e; rw [List.foldl_cons, (ih _ _).1, (ih _ _).2]
      split
      · have := postEvent_moves u x 0x0005 t.cause (e x) (Moves.refl 1096 u) rfl
        exact ⟨this.rest .boot rfl, this.rest .redeal rfl⟩
      · exact ⟨rfl, rfl⟩
  have q : ∀ (u : State) (bd : List Byte), (postSteward u 0x0005 t.cause bd).boot = u.boot ∧ (postSteward u 0x0005 t.cause bd).redeal = u.redeal := by
    intro u bd
    have := postSteward_moves u 0x0005 t.cause bd (Moves.refl 263240 u) rfl
    exact ⟨this.rest .boot rfl, this.rest .redeal rfl⟩
  rw [(g _ _).1, (g _ _).2, (p _ _ _).1, (p _ _ _).2, (q _ _).1, (q _ _).2, setDev_boot, setDev_redeal]
  exact ⟨rfl, rfl⟩

theorem redealResolve_st (t : Trigger) (id : Nat) (i : Item) : (redealResolve t id i).st = .resolved := by
  unfold redealResolve
  split
  · assumption
  · rfl

theorem redealSettle_facts (s : State) (t : Trigger) : AllResolved (redealSettle s t) ∧ (redealSettle s t).boot = s.boot ∧ (redealSettle s t).fences = s.fences ∧
    (redealSettle s t).redeal.id = s.redeal.id ∧ (redealSettle s t).redeal.trigger = t.cause ∧ (redealSettle s t).redeal.faulting = t.faulting ∧
    (redealSettle s t).redeal.phase = s.redeal.phase ∧ (redealSettle s t).redeal.resumeSeen = s.redeal.resumeSeen ∧
    (redealSettle s t).redeal.before = s.redeal.before ∧ (redealSettle s t).redeal.started = s.redeal.started ∧
    (redealSettle s t).redeal.faultSeq = (t.item.map (·.2)).getD 0 := by
  have hb := (redealSettle_moves s t (Moves.refl 3198856 s) rfl)
  refine ⟨?_, hb.rest .boot rfl, hb.rest .fences rfl, ?_⟩
  · unfold redealSettle
    dsimp only
    have ra : ∀ u : State, (resetAssay u).dl = u.dl := fun u => (resetAssay_moves u (Moves.refl 2097408 u) rfl).rest .dl rfl
    refine AllResolved.of_dl ?_ (ra _)
    refine AllResolved.of_items (all_foldl (fun u x hu => all_qpsErr hu _) _ _ (all_foldl (fun u x hu => all_poisonClaimTallies hu _) _ _ ?_)) rfl
    intro i hi
    have hi : i ∈ s.dl.items.map (redealResolve t s.redeal.id) := hi
    obtain ⟨j, -, rfl⟩ := List.mem_map.1 hi
    exact redealResolve_st _ _ _
  · unfold redealSettle
    dsimp only
    have g : ∀ (l : List Nat) (u : State), (l.foldl qpsErr u).redeal = u.redeal := by
      intro l
      induction l with
      | nil => intro u; rfl
      | cons x l ih => intro u; rw [List.foldl_cons, ih, (qpsErr_moves u x (Moves.refl 1099400 u) rfl).rest .redeal rfl]
    have p : ∀ (l : List Nat) (u : State), (l.foldl poisonClaimTallies u).redeal = u.redeal := by
      intro l
      induction l with
      | nil => intro u; rfl
      | cons x l ih => intro u; rw [List.foldl_cons, ih, (poisonClaimTallies_moves u x (Moves.refl 50824 u) rfl).rest .redeal rfl]
    have ra : ∀ u : State, (resetAssay u).redeal = u.redeal := fun u => (resetAssay_moves u (Moves.refl 2097408 u) rfl).rest .redeal rfl
    rw [ra, State.modNet_redeal, State.modSync_redeal, g, p]
    exact ⟨rfl, rfl, rfl, rfl, rfl, rfl, rfl, rfl⟩

theorem shoeClear_clearRegs (h : Shoe) : shoeClear (Shoe.clearRegs h) := by unfold shoeClear; rfl

theorem ringClear_clearRegs (r : EvtRing) : ringClear (EvtRing.clearRegs r) := by unfold ringClear; rfl

theorem startRedeal_begun {s : State} (h : mayRedeal s = true) (t : Trigger) (finish : Bool) :
    redealBegun s (startRedeal s t finish) t.cause t.faulting finish ∧ (startRedeal s t finish).redeal.faultSeq = (t.item.map (·.2)).getD 0 := by
  unfold startRedeal
  rw [if_pos h]
  dsimp only
  obtain ⟨b1, b2⟩ := redealBegin_boot s t
  have bf : (redealBegin s t).fences = s.fences := (redealBegin_moves s t (Moves.refl 331480 s) rfl).rest .fences rfl
  have hh := redealHalt_moves (redealBegin s t) (Moves.refl 321482 _) rfl
  obtain ⟨s1, s2, s3, s4, s5, s6, s7, s8, s9, s10, s11⟩ := redealSettle_facts (redealHalt (redealBegin s t)) t
  generalize redealSettle (redealHalt (redealBegin s t)) t = u at s1 s2 s3 s4 s5 s6 s7 s8 s9 s10 s11 ⊢
  rw [hh.rest .boot rfl, b1] at s2
  rw [hh.rest .fences rfl, bf] at s3
  have hr : (redealHalt (redealBegin s t)).redeal = (redealBegin s t).redeal := hh.rest .redeal rfl
  rw [hr, b2] at s4 s7 s8 s9 s10
  cases finish
  · exact ⟨⟨s2, s4, s5, s6, s7, s8, s9, s10, s3, s1, fun h => nomatch h⟩, s11⟩
  · refine ⟨⟨s2, s4, s5, s6, rfl, s8, s9, s10, s3, ?_, fun _ => ⟨rfl, rfl, rfl, rfl, rfl, rfl, fun n hn => ⟨?_, ?_⟩⟩⟩, s11⟩
    · exact s1.of_items rfl
    · show ringClear (tget (u.cl.rings.map EvtRing.clearRegs) n)
      rw [tget_map _ _ hn]; exact ringClear_clearRegs _
    · show shoeClear (tget (u.dl.shoes.map Shoe.clearRegs) n)
      rw [tget_map _ _ hn]; exact shoeClear_clearRegs _

theorem firstExpiry_spec {l : List (Nat × Nat × Nat)} {x : Nat × Nat × Nat} (h : firstExpiry l = some x) : x ∈ l ∧ ∀ y ∈ l, x.1 ≤ y.1 := by
  induction l generalizing x with
  | nil => cases h
  | cons a l ih =>
    unfold firstExpiry at h
    cases hf : firstExpiry l with
    | none =>
      rw [hf] at h; cases h
      cases l with
      | nil => exact ⟨by simp, by simp⟩
      | cons b l =>
        unfold firstExpiry at hf
        split at hf
        · split at hf <;> cases hf
        · cases hf
    | some y =>
      rw [hf] at h
      obtain ⟨h1, h2⟩ := ih hf
      dsimp only at h
      split at h
      · cases h; rename_i hlt
        refine ⟨List.mem_cons_of_mem _ h1, fun z hz => ?_⟩
        rcases List.mem_cons.1 hz with rfl | hz
        · omega
        · exact h2 z hz
      · cases h; rename_i hlt
        refine ⟨by simp, fun z hz => ?_⟩
        rcases List.mem_cons.1 hz with rfl | hz
        · exact Nat.le_refl _
        · have := h2 z hz; omega

theorem firstExpiry_some {l : List (Nat × Nat × Nat)} (h : l ≠ []) : ∃ x, firstExpiry l = some x := by
  cases l with
  | nil => exact absurd rfl h
  | cons a l =>
    unfold firstExpiry
    split
    · split
      · exact ⟨_, rfl⟩
      · exact ⟨_, rfl⟩
    · exact ⟨_, rfl⟩

theorem runtimeFailed_now {s : State} (h : s.boot.dev ≠ .failed) (cause : Nat) : failedNow s (runtimeFailed s cause) cause := by
  unfold runtimeFailed
  rw [if_neg h]
  dsimp only
  have a1 : (alertLatch (setDev (s.modBoot fun b => { b with failCause := cause }) .failed cause) 3).boot = { s.boot with dev := .failed, failCause := cause } := by
    rw [(alertLatch_moves _ _ (Moves.refl 262152 _) rfl).rest .boot rfl, setDev_boot]; rfl
  generalize alertLatch (setDev (s.modBoot fun b => { b with failCause := cause }) .failed cause) 3 = A at a1 ⊢
  have p : ∀ (l : List Nat) (u : State), (l.foldl (fun s k => poisonTrick s k 0x0707) u).boot = u.boot ∧ (l.foldl (fun s k => poisonTrick s k 0x0707) u).redeal = u.redeal := by
    intro l
    induction l with
    | nil => intro u; exact ⟨rfl, rfl⟩
    | cons x l ih =>
      intro u; rw [List.foldl_cons, (ih _).1, (ih _).2]
      have := poisonTrick_moves u x 0x0707 (Moves.refl 50824 u) rfl
      exact ⟨this.rest .boot rfl, this.rest .redeal rfl⟩
  have g : ∀ (l : List Nat) (u : State), (l.foldl (fun s c => if (tget s.dl.cores c).current.isSome then (groupEnd s c).1 else s) u).boot = u.boot ∧
      (l.foldl (fun s c => if (tget s.dl.cores c).current.isSome then (groupEnd s c).1 else s) u).redeal = u.redeal := by
    intro l
    induction l with
    | nil => intro u; exact ⟨rfl, rfl⟩
    | cons x l ih =>
      intro u; rw [List.foldl_cons, (ih _).1, (ih _).2]
      split
      · have := groupEnd_moves u x (Moves.refl 304584 u) rfl
        exact ⟨this.rest .boot rfl, this.rest .redeal rfl⟩
      · exact ⟨rfl, rfl⟩
  have w : ∀ (l : List Nat) (u : State), (l.foldl writeOutcomes u).boot = u.boot ∧ (l.foldl writeOutcomes u).redeal = u.redeal ∧
      (AllResolved u → AllResolved (l.foldl writeOutcomes u)) ∧ (u.dl.macros = [] → (l.foldl writeOutcomes u).dl.macros = []) := by
    intro l
    induction l with
    | nil => intro u; exact ⟨rfl, rfl, fun h => h, fun h => h⟩
    | cons x l ih =>
      intro u; rw [List.foldl_cons]
      obtain ⟨i1, i2, i3, i4⟩ := ih (writeOutcomes u x)
      have := writeOutcomes_moves u x (Moves.refl 1224 u) rfl
      exact ⟨i1.trans (this.rest .boot rfl), i2.trans (this.rest .redeal rfl), fun h => i3 (all_writeOutcomes h x), fun h => i4 (by rw [writeOutcomes_macros, h])⟩
  have pB := p (List.range 64) (A.modRedeal fun r => { r with phase := .none })
  generalize (List.range 64).foldl (fun s k => poisonTrick s k 0x0707) (A.modRedeal fun r => { r with phase := .none }) = B at pB ⊢
  have gC := g (List.range 96) B
  generalize (List.range 96).foldl (fun s c => if (tget s.dl.cores c).current.isSome then (groupEnd s c).1 else s) B = C at gC ⊢
  have d1 : (resetEngines C).boot = C.boot ∧ (resetEngines C).redeal = C.redeal ∧ (resetEngines C).dl.macros = [] := ⟨rfl, rfl, rfl⟩
  generalize resetEngines C = D at d1 ⊢
  generalize hE : (D.modDl fun d => { d with items := d.items.map fun i =>
      if i.fixed then { i with st := .resolved } else { i with st := .resolved, out := openOutcome i 0x0707 cause, levels := [], held := none } }) = E
  have e1 : E.boot = D.boot ∧ E.redeal = D.redeal ∧ E.dl.macros = D.dl.macros := by rw [← hE]; exact ⟨rfl, rfl, rfl⟩
  have e2 : AllResolved E := by
    rw [← hE]
    intro i hi
    obtain ⟨j, -, rfl⟩ := List.mem_map.1 hi
    split <;> rfl
  obtain ⟨w1, w2, w3, w4⟩ := w (List.range 9) E
  refine ⟨?_, ?_, w3 e2, w4 (e1.2.2.trans d1.2.2)⟩
  · rw [w1, e1.1, d1.1, gC.1, pB.1]; exact a1
  · rw [w2, e1.2.1, d1.2.1, gC.2, pB.2]; rfl

theorem redealEnd_over (s : State) : redealOver s (redealEnd s) := by
  unfold redealEnd
  dsimp only
  have sh : ∀ (l : List (Nat × Nat)) (u : State), (l.foldl (fun s x => if (s.claim x.1).st = .active then changeShare s x.1 (s.claim x.1).profiles x.2 else s) u).boot = u.boot ∧
      (l.foldl (fun s x => if (s.claim x.1).st = .active then changeShare s x.1 (s.claim x.1).profiles x.2 else s) u).redeal = u.redeal := by
    intro l
    induction l with
    | nil => intro u; exact ⟨rfl, rfl⟩
    | cons x l ih =>
      intro u; rw [List.foldl_cons, (ih _).1, (ih _).2]
      split
      · have := changeShare_moves u x.1 (u.claim x.1).profiles x.2 (Moves.refl 1096 u) rfl
        exact ⟨this.rest .boot rfl, this.rest .redeal rfl⟩
      · exact ⟨rfl, rfl⟩
  have so : ∀ (l : List Nat) (u : State), (l.foldl (fun s n => if (s.shoe n).resumeWait then startShoe (s.modShoe n fun h => { h with resumeWait := false }) n else writeOutcomes s n) u).boot = u.boot ∧
      (l.foldl (fun s n => if (s.shoe n).resumeWait then startShoe (s.modShoe n fun h => { h with resumeWait := false }) n else writeOutcomes s n) u).redeal = u.redeal := by
    intro l
    induction l with
    | nil => intro u; exact ⟨rfl, rfl⟩
    | cons x l ih =>
      intro u; rw [List.foldl_cons, (ih _).1, (ih _).2]
      split
      · have := startShoe_moves (u.modShoe x fun h => { h with resumeWait := false }) x (Moves.refl 1224 _) rfl
        exact ⟨this.rest .boot rfl, this.rest .redeal rfl⟩
      · have := writeOutcomes_moves u x (Moves.refl 1224 u) rfl
        exact ⟨this.rest .boot rfl, this.rest .redeal rfl⟩
  refine ⟨?_, ?_⟩
  · rw [(so _ _).1, (sh _ _).1, setDev_boot]; rfl
  · rw [(so _ _).2, (sh _ _).2, setDev_redeal]
    exact ⟨rfl, rfl, rfl⟩

theorem unitOf_modUnit (s : State) {cls i : Nat} (hc : cls < 4) (hi : i < classSize cls) (f : FenceUnit → FenceUnit) :
    unitOf (s.modUnit cls i f) cls i = f (unitOf s cls i) := by
  match cls, hc with
  | 0, _ => exact tget_tmod_same _ _ hi
  | 1, _ => exact tget_tmod_same _ _ hi
  | 2, _ => exact tget_tmod_same _ _ hi
  | 3, _ => exact tget_tmod_same _ _ hi

theorem unitOf_fences {s t : State} (h : t.fences = s.fences) (cls i : Nat) : unitOf t cls i = unitOf s cls i := by
  unfold unitOf; rw [h]

/-- What a fence does with the work of its unit. -/
def fenceWork (s s1 : State) (cls i : Nat) : State × Nat :=
  match cls with
  | 0 =>
    let r := if (unitOf s cls i).finishes then (s1, 0) else fenceCoreWork s1 i (cls + 2 ^ 8 * i)
    (if (unitOf s cls i).finishes ∧ groupRuns s1 i then r.1 else roundCoreFenced r.1 i, r.2)
  | 1 => if (unitOf s cls i).finishes then (s1, 0) else fenceLaneWork s1 i (cls + 2 ^ 8 * i)
  | 2 => (failXfers (leaveGroup s1 i .down), 0)
  | _ => (s1, 0)

theorem fenceWork_fences (s s1 : State) (cls i : Nat) : (fenceWork s s1 cls i).1.fences = s1.fences := by
  unfold fenceWork
  split
  · dsimp only
    have hk : ∀ c d, (if (unitOf s c i).finishes = true then (s1, 0) else fenceCoreWork s1 i d).1.fences = s1.fences := by
      intro c d; split
      · rfl
      · exact (fenceCoreWork_moves s1 i _ (Moves.refl 128 s1) rfl).rest .fences rfl
    split
    · exact hk _ _
    · exact ((roundCoreFenced_moves _ i (Moves.refl 51080 _) rfl).rest .fences rfl).trans (hk _ _)
  · split
    · rfl
    · exact (fenceLaneWork_moves s1 i _ (Moves.refl 128 s1) rfl).rest .fences rfl
  · have h1 : (leaveGroup s1 i .down).1.fences = s1.fences := (leaveGroup_moves s1 i .down (Moves.refl 312392 s1) rfl).rest .fences rfl
    rw [← h1]
    exact (failXfers_moves (leaveGroup s1 i .down) (Moves.refl 51080 (leaveGroup s1 i .down).1) rfl).rest .fences rfl
  · rfl

/-- The unit is marked and counted. -/
def fenceMark (s : State) (cls i : Nat) : State :=
  { s.modUnit cls i fun u => { u with fenced := true, agreed := 0 } with
    fences := { (s.modUnit cls i fun u => { u with fenced := true, agreed := 0 }).fences with
      fenceCount := satInc 32 (s.modUnit cls i fun u => { u with fenced := true, agreed := 0 }).fences.fenceCount } }

theorem fence_eq {s : State} {cls i : Nat} (h : ¬ ((unitOf s cls i).fenced = true ∨ classSize cls ≤ i)) (r : Nat) :
    fence s cls i r = alertLatch (fenceEvent (fenceWork s (fenceMark s cls i) cls i).1 cls i 1 r (fenceWork s (fenceMark s cls i) cls i).2
      (fencedCount s cls) (unitBusy s cls i) (unitClaims s cls i)) 8 := by
  unfold fence
  dsimp only
  rw [if_neg h]
  rfl

theorem fenceMark_unit (s : State) {cls i : Nat} (hc : cls < 4) (hi : i < classSize cls) :
    unitOf (fenceMark s cls i) cls i = { unitOf s cls i with fenced := true, agreed := 0 } ∧ (fenceMark s cls i).fences.fenceCount = satInc 32 s.fences.fenceCount := by
  rw [← unitOf_modUnit s hc hi fun u => { u with fenced := true, agreed := 0 }]
  unfold fenceMark
  match cls, hc with
  | 0, _ => exact ⟨rfl, rfl⟩
  | 1, _ => exact ⟨rfl, rfl⟩
  | 2, _ => exact ⟨rfl, rfl⟩
  | 3, _ => exact ⟨rfl, rfl⟩

theorem fence_unit {s : State} {cls i : Nat} (hc : cls < 4) (hi : i < classSize cls) (hf : (unitOf s cls i).fenced = false) (r : Nat) :
    unitOf (fence s cls i r) cls i = { unitOf s cls i with fenced := true, agreed := 0 } ∧
    (fence s cls i r).fences.fenceCount = satInc 32 s.fences.fenceCount ∧ (fence s cls i r).mgmt.alerts.testBit 8 = true := by
  have e := fence_eq (s := s) (cls := cls) (i := i) (by rw [hf]; simp; omega) r
  have hR := fenceWork_fences s (fenceMark s cls i) cls i
  obtain ⟨m1, m2⟩ := fenceMark_unit s hc hi
  generalize fenceMark s cls i = s1 at e hR m1 m2
  generalize fenceWork s s1 cls i = R at e hR
  have hF : (fence s cls i r).fences = s1.fences := by
    rw [e, (alertLatch_moves _ 8 (Moves.refl 262152 _) rfl).rest .fences rfl,
      (fenceEvent_moves R.1 _ _ _ _ _ _ _ _ (Moves.refl 263240 R.1) rfl).rest .fences rfl, hR]
  refine ⟨?_, by rw [hF, m2], by rw [e]; exact alertLatch_bit _ _⟩
  rw [unitOf_fences hF, m1]

theorem unfence_unit {s : State} {cls i : Nat} (hc : cls < 4) (hi : i < classSize cls) (a : Nat) :
    unitOf (unfence s cls i a) cls i = { unitOf s cls i with fenced := false } ∧ (unfence s cls i a).dl = s.dl := by
  unfold unfence
  split
  · rename_i h
    have h : (unitOf s cls i).fenced = false := by simpa using h
    refine ⟨?_, rfl⟩
    rw [← h]
  · dsimp only
    have hm := fenceEvent_moves (s.modUnit cls i fun u => { u with fenced := false }) cls i a (if a = 2 then 4 else 0) 0 (fencedCount s cls)
      (unitBusy s cls i) (unitClaims s cls i) (Moves.refl 263240 _) rfl
    refine ⟨?_, (hm.rest .dl rfl).trans rfl⟩
    rw [unitOf_fences (hm.rest .fences rfl), unitOf_modUnit s hc hi]

theorem walkEnd_eq {s : State} (hp : s.redeal.phase = .walking) : ∃ W : State, W.boot = s.boot ∧ W.redeal = s.redeal ∧
    walkEnd s = (if s.redeal.resumeSeen then redealEnd (W.modRedeal fun r => { r with phase := .waiting, confirmed := Vector.replicate 8 true, walkErrors := Vector.ofFn fun n : Fin 8 => ((List.range 9).map (walkCount s)).getD n 0, commonErrors := ((List.range 9).map (walkCount s)).getD 8 0 })
      else (W.modRedeal fun r => { r with phase := .waiting, confirmed := Vector.replicate 8 true, walkErrors := Vector.ofFn fun n : Fin 8 => ((List.range 9).map (walkCount s)).getD n 0, commonErrors := ((List.range 9).map (walkCount s)).getD 8 0 })) := by
  unfold walkEnd
  rw [if_neg (by simp [hp])]
  dsimp only
  have f1 : ∀ (b : Bool) (l : List (Nat × Owned)) (u : State), (l.foldl (fun s f => walkFrame s b f.1) u).boot = u.boot ∧ (l.foldl (fun s f => walkFrame s b f.1) u).redeal = u.redeal := by
    intro b l
    induction l with
    | nil => intro u; exact ⟨rfl, rfl⟩
    | cons x l ih =>
      intro u; rw [List.foldl_cons, (ih _).1, (ih _).2]
      have := walkFrame_moves u b x.1 (Moves.refl 271688 u) rfl
      exact ⟨this.rest .boot rfl, this.rest .redeal rfl⟩
  have f2 : ∀ (t : Nat) (l : List (Bool × Nat)) (u : State), (l.foldl (fun s m => (logDetection s (if m.1 then locT2 s m.2 0 else locT1 m.2 0) 3 3 0 0xFF (ownerTag s m.1 m.2)).1) u).boot = u.boot ∧
      (l.foldl (fun s m => (logDetection s (if m.1 then locT2 s m.2 0 else locT1 m.2 0) 3 3 0 0xFF (ownerTag s m.1 m.2)).1) u).redeal = u.redeal := by
    intro t l
    induction l with
    | nil => intro u; exact ⟨rfl, rfl⟩
    | cons x l ih =>
      intro u; rw [List.foldl_cons, (ih _).1, (ih _).2]
      have := logDetection_moves u (if x.1 then locT2 u x.2 0 else locT1 x.2 0) 3 3 0 0xFF (ownerTag u x.1 x.2) (Moves.refl 271432 u) rfl
      exact ⟨this.rest .boot rfl, this.rest .redeal rfl⟩
  have f3 : ∀ (l : List Nat) (u : State), (l.foldl (fun s t => (walkMismatch s t).foldl (fun s m => (logDetection s (if m.1 then locT2 s m.2 0 else locT1 m.2 0) 3 3 0 0xFF (ownerTag s m.1 m.2)).1) s) u).boot = u.boot ∧
      (l.foldl (fun s t => (walkMismatch s t).foldl (fun s m => (logDetection s (if m.1 then locT2 s m.2 0 else locT1 m.2 0) 3 3 0 0xFF (ownerTag s m.1 m.2)).1) s) u).redeal = u.redeal := by
    intro l
    induction l with
    | nil => intro u; exact ⟨rfl, rfl⟩
    | cons x l ih =>
      intro u; rw [List.foldl_cons, (ih _).1, (ih _).2]
      exact f2 x _ _
  have g1 := f1 false (s.tiers.frames.filter fun f => !f.2.isForeign) s
  generalize (s.tiers.frames.filter fun f => !f.2.isForeign).foldl (fun s f => walkFrame s false f.1) s = A at g1 ⊢
  have g2 := f1 true (s.tiers.handles.filter fun f => !f.2.isForeign) A
  generalize (s.tiers.handles.filter fun f => !f.2.isForeign).foldl (fun s f => walkFrame s true f.1) A = B at g2 ⊢
  have g3 := f3 (List.range 9) B
  generalize (List.range 9).foldl (fun s t => (walkMismatch s t).foldl (fun s m => (logDetection s (if m.1 then locT2 s m.2 0 else locT1 m.2 0) 3 3 0 0xFF (ownerTag s m.1 m.2)).1) s) B = C at g3 ⊢
  have e : C.redeal = s.redeal := g3.2.trans (g2.2.trans g1.2)
  refine ⟨C, g3.1.trans (g2.1.trans g1.1), e, ?_⟩
  have e2 : ∀ f : Redeal → Redeal, (f C.redeal).resumeSeen = C.redeal.resumeSeen → (C.modRedeal f).redeal.resumeSeen = s.redeal.resumeSeen := by
    intro f hf; rw [← e, ← hf]; rfl
  rw [e2 _ rfl]

/-- The registers at the end of the walk. -/
def walked (s : State) (r : Redeal) : Redeal :=
  { r with phase := .waiting, confirmed := Vector.replicate 8 true, walkErrors := Vector.ofFn fun n : Fin 8 => ((List.range 9).map (walkCount s)).getD n 0, commonErrors := ((List.range 9).map (walkCount s)).getD 8 0 }

theorem walkEnd_waits {s : State} (hp : s.redeal.phase = .walking) (hs : s.redeal.resumeSeen = false) :
    (walkEnd s).redeal.phase = .waiting ∧ (walkEnd s).boot = s.boot ∧
    (∀ n < 8, tget (walkEnd s).redeal.confirmed n = true ∧ tget (walkEnd s).redeal.walkErrors n = walkCount s n) ∧ (walkEnd s).redeal.commonErrors = walkCount s 8 := by
  obtain ⟨W, w1, w2, w3⟩ := walkEnd_eq hp
  have w4 : walkEnd s = W.modRedeal (walked s) := by rw [w3, hs]; rfl
  have r1 : (walkEnd s).redeal = walked s W.redeal := by rw [w4]; rfl
  refine ⟨by rw [r1]; rfl, by rw [w4]; exact w1, fun n hn => ?_, by rw [r1]; rfl⟩
  rw [r1]
  refine ⟨by simp [walked, tget, hn], ?_⟩
  simp [walked, tget, hn, List.getD_eq_getElem?_getD, List.getElem?_map, List.getElem?_range (show n < 9 by omega)]

theorem walkEnd_over {s : State} (hp : s.redeal.phase = .walking) (hs : s.redeal.resumeSeen = true) : redealOver s (walkEnd s) := by
  obtain ⟨W, w1, w2, w3⟩ := walkEnd_eq hp
  have w4 : walkEnd s = redealEnd (W.modRedeal (walked s)) := by rw [w3, hs]; rfl
  rw [w4]
  have := redealEnd_over (W.modRedeal (walked s))
  have hb : (W.modRedeal (walked s)).redeal.before = s.redeal.before := by rw [← w2]; rfl
  have hb2 : (W.modRedeal (walked s)).boot = s.boot := w1
  unfold redealOver at this ⊢
  rw [hb, hb2] at this
  exact this

end Sys2Proof
end

