-- ==== Sys2Proof/Laws/FxDecks.lean ====
section
/-! SUPPORT. Decks within decks, and copies between host and claim memory. -/

set_option linter.unusedSimpArgs false
set_option linter.unusedVariables false

namespace Sys2Proof

open Machine

theorem fresh_none {s : State} {shoe seq l op : Nat} {lv : Level} {b : List Byte} (h : cmdFresh s shoe seq l op lv b) :
    activeCmd s shoe seq l lv.pc = none := by
  refine activeCmd_none h.1 ?_
  rw [List.find?_eq_none]
  intro a ha
  simpa using h.2 a ha

theorem openLevel_spec {u : State} {shoe seq l g : Nat} {i : Item} {lv : Level} (hi : findItem u shoe seq = some i) (hl : i.level l = some lv)
    (ha : ∃ a ∈ lv.active, a.granule = g) (depth : Nat) (kind : LevelKind) (run : Nat → CmdState) (bs : List Byte) :
    ∃ j lv', findItem (openLevel u shoe seq l g depth kind run bs) shoe seq = some j ∧ j.nextLevel = i.nextLevel + 1 ∧
      j.levels.getLast? = some { id := i.nextLevel, kind := kind, depth := depth, bytes := bs } ∧ j.level l = some lv' ∧ lv'.pc = lv.pc ∧
      activeAt lv' g (run i.nextLevel) := by
  have hv : levelOf u shoe seq l = some lv := by simp [levelOf, hi, hl]
  obtain ⟨lv', h1, h2, -, h3⟩ := activeAt_set (run i.nextLevel) hv ha
  have hs : findItem (setActive u shoe seq l g (run i.nextLevel)) shoe seq =
      some (i.modLevel l fun lv => { lv with active := lv.active.map fun a => if a.granule == g then { a with st := run i.nextLevel } else a }) := by
    rw [setActive, findItem_modLevel, if_pos ⟨rfl, rfl⟩, hi]; rfl
  generalize (i.modLevel l fun lv => { lv with active := lv.active.map fun a => if a.granule == g then { a with st := run i.nextLevel } else a }) = i2 at hs
  have hn : i2.nextLevel = i.nextLevel := by
    have : findItem (setActive u shoe seq l g (run i.nextLevel)) shoe seq = (findItem u shoe seq).map fun i' => i'.modLevel l fun lv =>
        { lv with active := lv.active.map fun a => if a.granule == g then { a with st := run i.nextLevel } else a } := by
      rw [setActive, findItem_modLevel, if_pos ⟨rfl, rfl⟩]
    rw [this, hi] at hs
    cases hs; rfl
  have hlv : i2.level l = some lv' := by
    have := h1; rw [levelOf, hs] at this; exact this
  refine ⟨{ i2 with nextLevel := i2.nextLevel + 1, levels := i2.levels ++ [{ id := i2.nextLevel, kind := kind, depth := depth, bytes := bs }] }, lv', ?_, by simp [hn], ?_, ?_, h2, h3⟩
  · unfold openLevel
    rw [hi]
    dsimp only
    rw [findItem_modItem (f := fun i => { i with nextLevel := i.nextLevel + 1, levels := i.levels ++ [{ id := i.nextLevel, kind := kind, depth := depth, bytes := bs }] })
      fun _ => ⟨rfl, rfl⟩, if_pos ⟨rfl, rfl⟩, hs]; rfl
  · simp [hn]
  · unfold Item.level at hlv ⊢
    dsimp only
    rw [List.find?_append, hlv]; rfl

theorem redealBegun.of {s u t : State} {c f : Nat} {b : Bool} (h : redealBegun u t c f b) (h1 : u.boot = s.boot) (h2 : u.redeal = s.redeal)
    (h3 : u.now = s.now) (h4 : u.fences = s.fences) : redealBegun s t c f b := by
  unfold redealBegun at *
  rw [← h1, ← h2, ← h3, ← h4]; exact h

theorem levelFault_nested {s u : State} {shoe seq : Nat} {i : Item} (hi : findItem u shoe seq = some i) (hr : i.st = .running) (o : Outcome)
    (ho : o.failed = true) (hu : OnlyParts [.dl, .out] s u) : nestedFault s (levelFault u shoe seq o) shoe seq o.cause := by
  unfold levelFault
  refine ⟨fun h => ?_, fun h hm => ?_⟩
  · rw [if_neg (by omega)]
    exact itemFails_failItem o hi (running_open hr) ho
  · rw [if_pos h]
    have hm2 : mayRedeal u = true := by
      unfold mayRedeal at hm ⊢
      rw [show u.boot = s.boot from hu .boot (by decide)]; exact hm
    exact (startRedeal_begun hm2 _ true).1.of (hu .boot (by decide)) (hu .redeal (by decide)) (hu .now (by decide)) (hu .fences (by decide))

/-- A held command's item, as its deck is read. -/
theorem held_item {s : State} {shoe seq l op : Nat} {lv : Level} {b : List Byte} (h : cmdStarts s shoe seq l op lv b) (st : CmdState) :
    ∃ i i', findItem s shoe seq = some i ∧ findItem (heldCmd s shoe seq l lv.pc b st) shoe seq = some i' ∧ i'.st = .running ∧ i'.nextLevel = i.nextLevel ∧
      i'.flags = i.flags ∧ i'.level l = some (cmdHeld s.now lv b st) ∧ ∃ a ∈ (cmdHeld s.now lv b st).active, a.granule = lv.pc := by
  obtain ⟨i, hi, hr, -⟩ := nextCmd_some h.2.1
  obtain ⟨a1, a2⟩ := held_active h st
  have e : findItem (heldCmd s shoe seq l lv.pc b st) shoe seq = some ((i.modLevel l fun lv => { lv with pc := lv.pc + cmdSize b }).modLevel l
      fun v => { v with active := v.active ++ [{ granule := lv.pc, st := st, age := s.now }] }) := by
    rw [heldCmd, activate, findItem_modLevel, if_pos ⟨rfl, rfl⟩, findItem_passCmd, hi, passCmd_now]; rfl
  refine ⟨i, _, hi, e, hr, rfl, rfl, ?_, a2⟩
  rw [levelOf, e] at a1; exact a1

theorem checkOutcome_fails (bs : List Byte) (d c : Nat) (f : Nat) : (checkOutcome bs d c f).failed = true ∧ (checkOutcome bs d c f).cause = c := ⟨rfl, rfl⟩

theorem held_parts (s : State) (shoe seq l g : Nat) (b : List Byte) (st : CmdState) : OnlyParts [.dl, .out] s (heldCmd s shoe seq l g b st) := by
  refine ((passCmd_parts s shoe seq l b).mono (by decide)).trans ?_
  intro p hp; cases p <;> first | exact absurd (by decide) hp | rfl

theorem emit_parts (s : State) (o : Output) : OnlyParts [.dl, .out] s (s.emit o) := by
  intro p hp; cases p <;> first | exact absurd (by decide) hp | rfl

/-- What the read of a nested deck gives: the item fails, or its bytes. -/
theorem readDeck_spec {s : State} {shoe seq l op : Nat} {lv : Level} {b : List Byte} (h : cmdStarts s shoe seq l op lv b) (st : CmdState) (r : HostResp) :
    let u := heldCmd s shoe seq l lv.pc b st
    (hostOk s (fnOf shoe) (field b 8 8) (field b 0x10 4) = false → ∃ t, readDeck u shoe seq l lv.pc b r = .error t ∧ itemFails t shoe seq 0x0104) ∧
    (hostOk s (fnOf shoe) (field b 8 8) (field b 0x10 4) = true → r.bytes (field b 0x10 4) = none →
      ∃ t, readDeck u shoe seq l lv.pc b r = .error t ∧ itemFails t shoe seq 0x0105) ∧
    (hostOk s (fnOf shoe) (field b 8 8) (field b 0x10 4) = true → ∀ d, r.bytes (field b 0x10 4) = some d →
      readDeck u shoe seq l lv.pc b r = .ok (u.emit (.hostRead (fnOf shoe) (field b 8 8) (field b 0x10 4)), d)) := by
  have hk : ∀ a n, hostOk (heldCmd s shoe seq l lv.pc b st) (fnOf shoe) a n = hostOk s (fnOf shoe) a n := fun a n =>
by
    unfold hostOk canIssue winOk
    rw [show (heldCmd s shoe seq l lv.pc b st).fns = s.fns from held_parts s shoe seq l lv.pc b st .fns (by decide)]
  refine ⟨fun h0 => ⟨failAt (heldCmd s shoe seq l lv.pc b st) shoe seq l lv.pc 0x0104, ?_, fails_of_held h.2.1 rfl _ _ _⟩,
    fun h0 hr => ⟨failAt (aerLog ((heldCmd s shoe seq l lv.pc b st).emit (.hostRead (fnOf shoe) (field b 8 8) (field b 0x10 4)))) shoe seq l lv.pc 0x0105, ?_, ?_⟩,
    fun h0 d hr => ?_⟩
  · simp [readDeck, hk, h0]
  · simp [readDeck, readHost, readBack, hk, h0, hr]
  · exact fails_of_held (t := aerLog ((heldCmd s shoe seq l lv.pc b st).emit (.hostRead (fnOf shoe) (field b 8 8) (field b 0x10 4)))) h.2.1 rfl _ _ _
  · simp [readDeck, readHost, readBack, hk, h0, hr]

theorem writePieces_items (n : Nat) (heat : Bool) (ps : List Piece) (bs : List Byte) (s : State) : (writePieces n heat ps bs s).1.dl.items = s.dl.items := by
  have dc : ∀ (u : State) n p, (dropCached u n p).dl.items = u.dl.items := by
    intro u n p; unfold dropCached; dsimp only; split <;> rfl
  have sm : ∀ (u : State) p, (settleMove u p).dl = u.dl := fun u p => (settleMove_moves u p (Moves.refl 271688 u) rfl).rest .dl rfl
  have tp : ∀ (u : State) n p h, (touchPlace u n p h).dl = u.dl := fun u n p h => (touchPlace_moves u n p h (Moves.refl 1352 u) rfl).rest .dl rfl
  have wf : ∀ (u : State) n t f o bs w, (writeFrame u n t f o bs w).1.dl = u.dl := fun u n t f o bs w => (writeFrame_moves u n t f o bs w (Moves.refl 271688 u) rfl).rest .dl rfl
  induction ps generalizing bs s with
  | nil => rfl
  | cons x ps ih =>
    unfold writePieces
    split
    · rfl
    · rename_i p0 h0
      dsimp only
      split
      · rw [sm]
      · rename_i p hp
        have w := wf (settleMove s p0) n p.tier2 p.frame p.off (bs.take x.len) (accessOwner n p)
        split
        · rename_i s1 e he; rw [he] at w; rw [show s1.dl = _ from w, sm]
        · rename_i s1 e he; rw [he] at w; rw [ih, tp, dc, show s1.dl = _ from w, sm]

theorem writeClaim_items (s : State) (n va : Nat) (bs : List Byte) (h : Bool) : (writeClaim s n va bs h).1.dl.items = s.dl.items := writePieces_items _ _ _ _ _

theorem copyBurst_items (s : State) (n : Nat) (b data : List Byte) (ok : Bool) (done : Nat) : (copyBurst s n b data ok done).1.dl.items = s.dl.items := by
  unfold copyBurst
  dsimp only
  split
  · split
    · rfl
    · split
      · rfl
      · split
        · rfl
        · unfold Run.andThen
          have := writeClaim_items (s.emit (.hostRead (fnOf n) (field b 8 8 + done) (min 4096 (field b 0x18 4 - done)))) n (field b 0x10 5 + done) (bytesAt data 0 (min 4096 (field b 0x18 4 - done))) true
          split
          · rename_i s1 a he; rw [he] at this; exact this
          · rename_i s1 a he; rw [he] at this; exact this
  · unfold Run.andThen
    have := readClaim_moves s n (field b 0x10 5 + done) (min 4096 (field b 0x18 4 - done)) true (Moves.refl 271688 s) rfl
    generalize readClaim s n (field b 0x10 5 + done) (min 4096 (field b 0x18 4 - done)) true = R at this ⊢
    obtain ⟨s1, a | e⟩ := R
    · dsimp only at this ⊢
      rw [show s1.dl = s.dl from this.rest .dl rfl]
    · dsimp only at this ⊢
      split
      · rw [postHost_dl, show s1.dl = s.dl from this.rest .dl rfl]
      · rw [show s1.dl = s.dl from this.rest .dl rfl]

end Sys2Proof
end

