-- ==== Sys2Proof/Laws/FxPages.lean ====
section
/-! SUPPORT. Pages: mapping, moves, lookups and shares; copies between host and claim memory. -/

set_option linter.unusedSimpArgs false
set_option linter.unusedVariables false

namespace Sys2Proof

open Machine

theorem alookup_insertPage_same (l : List (Nat × Pte)) (page : Nat) (p : Pte) : alookup (insertPage l page p) page = some p := by
  unfold alookup insertPage
  rw [List.find?_append]
  have : (l.filter fun x => decide (x.1 < page)).find? (·.1 == page) = none := by
    rw [List.find?_eq_none]
    intro x hx
    have := (List.mem_filter.1 hx).2
    simp at this ⊢; omega
  rw [this]; simp

theorem alookup_insertPage_ne (l : List (Nat × Pte)) {page q : Nat} (p : Pte) (h : q ≠ page) : alookup (insertPage l page p) q = alookup l q := by
  unfold alookup insertPage
  rw [List.find?_append, List.find?_cons]
  have hp : (page == q) = false := by simpa using Ne.symm h
  simp only [hp]
  rcases Nat.lt_or_gt_of_ne h with h1 | h1
  · have a : (l.filter fun x => decide (x.1 < page)).find? (·.1 == q) = l.find? (·.1 == q) := by
      rw [List.find?_filter]; congr 1; funext x
      by_cases hx : x.1 = q
      · simp [hx, h1]
      · simp [hx]
    have b : (l.filter fun x => decide (page < x.1)).find? (·.1 == q) = none := by
      rw [List.find?_eq_none]; intro x hx
      have := (List.mem_filter.1 hx).2
      simp at this ⊢; omega
    rw [a, b]; simp
  · have a : (l.filter fun x => decide (x.1 < page)).find? (·.1 == q) = none := by
      rw [List.find?_eq_none]; intro x hx
      have := (List.mem_filter.1 hx).2
      simp at this ⊢; omega
    have b : (l.filter fun x => decide (page < x.1)).find? (·.1 == q) = l.find? (·.1 == q) := by
      rw [List.find?_filter]; congr 1; funext x
      by_cases hx : x.1 = q
      · simp [hx, h1]
      · simp [hx]
    rw [a, b]; simp

theorem pteOf_setPte_same (s : State) {t : Nat} (ht : t < 9) (page : Nat) (p : Pte) : pteOf (s.setPte t page p) t page = some p := by
  show alookup (tget (tmod s.tiers.tables t _) t).pages page = _
  rw [tget_tmod_same _ _ ht]; exact alookup_insertPage_same _ _ _

theorem pteOf_setPte_ne (s : State) {t : Nat} (ht : t < 9) {page q : Nat} (p : Pte) (h : q ≠ page) : pteOf (s.setPte t page p) t q = pteOf s t q := by
  show alookup (tget (tmod s.tiers.tables t _) t).pages q = _
  rw [tget_tmod_same _ _ ht]; exact alookup_insertPage_ne _ _ h

theorem pteOf_tables {s u : State} {t : Nat} (h : (u.ptab t).pages = (s.ptab t).pages) (q : Nat) : pteOf u t q = pteOf s t q := by
  unfold pteOf; rw [h]

theorem takeFrame_pages {s : State} {o h : Nat} {r : Nat × State} (hr : takeFrame s o h = some r) (t : Nat) : r.2.ptab t = s.ptab t := by
  unfold takeFrame at hr
  obtain ⟨f, -, rfl⟩ := Option.map_eq_some_iff.1 hr
  rfl

theorem tables_keep (s : State) {t : Nat} (ht : t < 9) (f : PageTable → PageTable) (hf : ∀ p, (f p).pages = p.pages) :
    ((s.modTiers fun x => { x with tables := tmod x.tables t f }).ptab t).pages = (s.ptab t).pages := by
  show (tget (tmod s.tiers.tables t f) t).pages = _
  rw [tget_tmod_same _ _ ht, hf]; rfl

theorem ensureTables_pages {s u : State} {t page : Nat} (ht : t < 9) (h : ensureTables s t page = some u) : (u.ptab t).pages = (s.ptab t).pages := by
  unfold ensureTables at h
  dsimp only at h
  generalize hs : (if needsL1 (s.ptab t) then (takeFrame s t (homeDie page)).map fun r =>
        r.2.modTiers fun x => { x with tables := tmod x.tables t fun pt => { pt with l1 := some r.1 } } else some s) = s1? at h
  cases s1? with
  | none => cases h
  | some s1 =>
    have h1 : (s1.ptab t).pages = (s.ptab t).pages := by
      split at hs
      · obtain ⟨r, hr, rfl⟩ := Option.map_eq_some_iff.1 hs
        exact (tables_keep r.2 ht (fun pt => { pt with l1 := some r.1 }) fun _ => rfl).trans (by rw [takeFrame_pages hr])
      · cases hs; rfl
    dsimp only at h
    split at h
    · cases h; exact h1
    · split at h
      · obtain ⟨r, hr, rfl⟩ := Option.map_eq_some_iff.1 h
        exact (tables_keep r.2 ht (fun pt => { pt with l2 := pt.l2 ++ [(page / 4096, r.1, false)] }) fun _ => rfl).trans (by rw [takeFrame_pages hr, h1])
      · cases h
        exact (tables_keep s1 ht (fun pt => { pt with l2 := pt.l2 ++ [(page / 4096, (match (s1.ptab t).l2.getLast? with
          | some e => e.2.1
          | none => 0), true)] }) fun _ => rfl).trans h1

theorem placeT1_pages {s u : State} {t page : Nat} (ht : t < 9) (h : placeT1 s t page = some u) :
    (pteOf u t page).isSome = true ∧ ∀ q, q ≠ page → pteOf u t q = pteOf s t q := by
  unfold placeT1 at h
  obtain ⟨r, hr, rfl⟩ := Option.map_eq_some_iff.1 h
  refine ⟨by rw [pteOf_setPte_same _ ht]; rfl, fun q hq => ?_⟩
  rw [pteOf_setPte_ne _ ht _ hq]
  refine (pteOf_tables (s := r.2) ?_ q).trans (pteOf_tables (by rw [takeFrame_pages hr]) q)
  rfl

theorem placeT2_pages {s u : State} {t page : Nat} (ht : t < 9) (h : placeT2 s t page = some u) :
    (pteOf u t page).isSome = true ∧ ∀ q, q ≠ page → pteOf u t q = pteOf s t q := by
  unfold placeT2 at h
  obtain ⟨r, hr, rfl⟩ := Option.map_eq_some_iff.1 h
  refine ⟨by rw [pteOf_setPte_same _ ht]; rfl, fun q hq => ?_⟩
  rw [pteOf_setPte_ne _ ht _ hq]
  exact pteOf_tables (s := s) rfl q

theorem mapOne_pages {s u : State} {t page : Nat} {p2 : Bool} (ht : t < 9) (h : mapOne s t page p2 = .ok u) :
    (pteOf u t page).isSome = true ∧ ∀ q, q ≠ page → pteOf u t q = pteOf s t q := by
  have key : ∀ v, ((if t1Room s t then placeT1 s t page else none) = some v ∨ (if vaultRoom s t then placeT2 s t page else none) = some v) →
      (pteOf v t page).isSome = true ∧ ∀ q, q ≠ page → pteOf v t q = pteOf s t q := by
    intro v hv
    rcases hv with hv | hv
    · split at hv
      · exact placeT1_pages ht hv
      · cases hv
    · split at hv
      · exact placeT2_pages ht hv
      · cases hv
  unfold mapOne at h
  dsimp only at h
  generalize (if t1Room s t then placeT1 s t page else none) = i1 at h key
  generalize (if vaultRoom s t then placeT2 s t page else none) = i2 at h key
  split at h
  · rename_i a b c h1
    cases h
    cases p2
    · exact key _ (.inl h1)
    · exact key _ (.inr h1)
  · rename_i a b c h1 h2
    cases h
    cases p2
    · exact key _ (.inr h2)
    · exact key _ (.inl h2)
  · split at h <;> cases h

theorem mapTables_pages {t : Nat} (ht : t < 9) (ps : List Nat) {s u : State} (h : mapTables t s ps = some u) (q : Nat) : pteOf u t q = pteOf s t q := by
  induction ps generalizing s with
  | nil => cases h; rfl
  | cons x ps ih =>
    obtain ⟨s1, h1, h2⟩ := Option.bind_eq_some_iff.1 h
    exact (ih h2).trans (pteOf_tables (ensureTables_pages ht h1) q)

theorem mapPages_pages {t : Nat} {p2 : Bool} (ht : t < 9) (ps : List Nat) (s u : State) (h : mapPages t p2 s ps = .ok u) :
    (∀ q ∈ ps, (pteOf u t q).isSome = true) ∧ ∀ q, q ∉ ps → pteOf u t q = pteOf s t q := by
  induction ps generalizing s with
  | nil => cases h; exact ⟨fun q hq => (nomatch hq), fun q _ => rfl⟩
  | cons x ps ih =>
    unfold mapPages at h
    cases hm : mapOne s t x p2 with
    | quota => rw [hm] at h; cases h
    | frames b => rw [hm] at h; cases h
    | ok s1 =>
      rw [hm] at h
      obtain ⟨a1, a2⟩ := mapOne_pages ht hm
      obtain ⟨b1, b2⟩ := ih s1 h
      refine ⟨fun q hq => ?_, fun q hq => ?_⟩
      · by_cases hin : q ∈ ps
        · exact b1 q hin
        · rw [b2 q hin]
          rcases List.mem_cons.1 hq with rfl | hq
          · exact a1
          · exact absurd hq hin
      · rw [b2 q (fun h => hq (List.mem_cons_of_mem _ h)), a2 q (fun h => hq (by simp [h]))]

theorem mapRange_pages {s u : State} {t : Nat} {p2 : Bool} {ps : List Nat} (ht : t < 9) (h : mapRange t p2 s ps = .ok u) :
    (∀ q ∈ ps, (pteOf u t q).isSome = true) ∧ ∀ q, q ∉ ps → pteOf u t q = pteOf s t q := by
  unfold mapRange at h
  split at h
  · split at h
    · cases h
    · rename_i s1 h1
      obtain ⟨a, b⟩ := mapPages_pages ht _ _ _ h
      exact ⟨a, fun q hq => (b q hq).trans (mapTables_pages ht _ h1 q)⟩
  · cases h

theorem foreign_pages (s : State) (p : Pte) (t : Nat) : (if p.tier2 then foreignHandle s p.frame else foreignFrame s p.frame).ptab t = s.ptab t := by
  split
  · unfold foreignHandle; split <;> rfl
  · unfold foreignFrame; split <;> rfl

theorem unmapOne_pages (s : State) {t : Nat} (ht : t < 9) (page : Nat) :
    pteOf (unmapOne s t page) t page = none ∧ ∀ q, q ≠ page → pteOf (unmapOne s t page) t q = pteOf s t q := by
  unfold unmapOne
  split
  · rename_i h; exact ⟨h, fun _ _ => rfl⟩
  · rename_i p h
    dsimp only
    have hf := foreign_pages s p t
    generalize (if p.tier2 then foreignHandle s p.frame else foreignFrame s p.frame) = u at hf
    have hd : ∀ q, pteOf (u.dropPte t page) t q = alookup (aerase (s.ptab t).pages page) q := by
      intro q
      show alookup (tget (tmod u.tiers.tables t _) t).pages q = _
      rw [tget_tmod_same _ _ ht]
      show alookup (aerase (u.ptab t).pages page) q = _
      rw [hf]
    exact ⟨by rw [hd, alookup_aerase_same], fun q hq => by rw [hd, alookup_aerase_ne _ hq]; rfl⟩

theorem unmap_pages {t : Nat} (ht : t < 9) (ps : List Nat) (s : State) :
    (∀ q ∈ ps, pteOf (ps.foldl (fun s p => unmapOne s t p) s) t q = none) ∧ ∀ q, q ∉ ps → pteOf (ps.foldl (fun s p => unmapOne s t p) s) t q = pteOf s t q := by
  induction ps generalizing s with
  | nil => exact ⟨fun q hq => (nomatch hq), fun q _ => rfl⟩
  | cons x ps ih =>
    obtain ⟨a1, a2⟩ := unmapOne_pages s ht x
    obtain ⟨b1, b2⟩ := ih (unmapOne s t x)
    refine ⟨fun q hq => ?_, fun q hq => ?_⟩
    · by_cases hin : q ∈ ps
      · exact b1 q hin
      · rw [List.foldl_cons, b2 q hin]
        rcases List.mem_cons.1 hq with rfl | hq
        · exact a1
        · exact absurd hq hin
    · rw [List.foldl_cons, b2 q (fun h => hq (List.mem_cons_of_mem _ h)), a2 q (fun h => hq (by simp [h]))]

theorem tiersSame.refl (s : State) : tiersSame s s := ⟨rfl, rfl⟩
theorem tiersSame.trans {s t u : State} (h : tiersSame s t) (k : tiersSame t u) : tiersSame s u := ⟨k.1.trans h.1, k.2.trans h.2⟩
theorem tiersSame.of_tiers {s t : State} (h : t.tiers = s.tiers) : tiersSame s t := by rw [tiersSame, h]; exact ⟨rfl, rfl⟩

theorem modPte_same (s : State) (t p : Nat) (f : Pte → Pte) : tiersSame s (s.modPte t p f) := by
  unfold State.modPte; split <;> exact ⟨rfl, rfl⟩

theorem clearNeeded_same (s : State) (t2 : Bool) (c w : Nat) : tiersSame s (clearNeeded s t2 c w) := by
  unfold clearNeeded
  dsimp only
  refine tiersSame.trans (t := s.modTiers fun t => if t2 then { t with clearT2 := true } else { t with clearT1 := true }) ?_ (.of_tiers ?_)
  · cases t2 <;> exact ⟨rfl, rfl⟩
  · exact (postEvent_moves _ _ _ _ _ (Moves.refl 1096 _) rfl).rest .tiers rfl

theorem startDemotion_same (s : State) (t p : Nat) (c : Option Nat) (w : Option (Nat × Nat)) : tiersSame s (startDemotion s t p c w).1 := by
  unfold startDemotion
  split
  · exact clearNeeded_same _ _ _ _
  · dsimp only
    exact tiersSame.trans ⟨rfl, rfl⟩ (modPte_same _ _ _ _)

theorem demoteOwn_same (s : State) (n p : Nat) (w : Option (Nat × Nat)) : tiersSame s (demoteOwn s n p w).1 := by
  unfold demoteOwn
  split
  · split
    · exact .refl _
    · exact startDemotion_same _ _ _ _ _
  · exact .refl _

theorem cancelMove_same (s : State) (t p : Nat) : tiersSame s (cancelMove s t p) := by
  unfold cancelMove
  split
  · exact .refl _
  · dsimp only
    have h : tiersSame s (dropMove s t p) := by
      unfold dropMove; exact tiersSame.trans ⟨rfl, rfl⟩ (modPte_same _ _ _ _)
    split
    · exact h.trans ⟨rfl, rfl⟩
    · exact h.trans ⟨rfl, rfl⟩

theorem promoteRequest_same (s : State) (t p n : Nat) : tiersSame s (promoteRequest s t p n false) := by
  unfold promoteRequest
  split
  · exact .refl _
  · split
    · split
      · exact .refl _
      · exact cancelMove_same _ _ _
    · split
      · exact .refl _
      · split
        · exact .refl _
        · dsimp only
          split
          · split
            · rename_i s1 hs
              unfold startPromotion at hs
              split at hs
              · cases hs
              · rename_i f u hu
                cases hs
                have : tiersSame s u := by
                  unfold takeFrame at hu
                  obtain ⟨g, -, h⟩ := Option.map_eq_some_iff.1 hu
                  cases h; exact ⟨rfl, rfl⟩
                exact this.trans (tiersSame.trans ⟨rfl, rfl⟩ (modPte_same _ _ _ _))
            · exact clearNeeded_same _ _ _ _
          · exact .refl _

theorem same_foldl {α : Type} {f : State → α → State} (hf : ∀ u x, tiersSame u (f u x)) (l : List α) (s : State) : tiersSame s (l.foldl f s) := by
  induction l generalizing s with
  | nil => exact .refl _
  | cons x l ih => exact (hf s x).trans (ih _)

theorem demoteLate_same (s : State) (n : Nat) (ps : List Nat) (m : Nat) : tiersSame s (demoteLate s n ps m).1 := by
  unfold demoteLate
  have key : ∀ (l : List (Nat × Nat)) (a : State × Nat), tiersSame a.1 (l.foldl (fun (acc : State × Nat) p =>
      if m.testBit p.2 && (moveOf acc.1 n p.1).isNone then ((demoteOwn acc.1 n p.1 none).1, acc.2 - 2 ^ p.2) else acc) a).1 := by
    intro l
    induction l with
    | nil => intro a; exact .refl _
    | cons x l ih =>
      intro a
      rw [List.foldl_cons]
      refine tiersSame.trans ?_ (ih _)
      split
      · exact demoteOwn_same _ _ _ _
      · exact .refl _
  exact key _ (s, m)
theorem moveOf_congr {s t : State} (h : t.tiers = s.tiers) (n p : Nat) : moveOf t n p = moveOf s n p := by unfold moveOf; rw [h]

theorem anyMoving_congr {s t : State} (h : t.tiers = s.tiers) (n : Nat) (ps : List Nat) : anyMoving t n ps = anyMoving s n ps := by
  unfold anyMoving; congr 1; funext p; rw [moveOf_congr h]

theorem clearNeeded_items (s : State) (t2 : Bool) (c w : Nat) : (clearNeeded s t2 c w).dl.items = s.dl.items := by
  rw [(clearNeeded_moves s t2 c w (Moves.refl 1352 s) rfl).rest .dl rfl]

theorem demoteOwn_dl (s : State) (n p : Nat) (w : Option (Nat × Nat)) : (demoteOwn s n p w).1.dl = s.dl :=
  (demoteOwn_moves s n p w (Moves.refl 1352 s) rfl).rest .dl rfl

theorem promoteRequest_dl (s : State) (t p n : Nat) (v : Bool) : (promoteRequest s t p n v).dl = s.dl :=
  (promoteRequest_moves s t p n v (Moves.refl 1352 s) rfl).rest .dl rfl

theorem demoteLate_dl (s : State) (n : Nat) (ps : List Nat) (m : Nat) : (demoteLate s n ps m).1.dl = s.dl := by
  unfold demoteLate
  have key : ∀ (l : List (Nat × Nat)) (a : State × Nat), (l.foldl (fun (acc : State × Nat) p =>
      if m.testBit p.2 && (moveOf acc.1 n p.1).isNone then ((demoteOwn acc.1 n p.1 none).1, acc.2 - 2 ^ p.2) else acc) a).1.dl = a.1.dl := by
    intro l
    induction l with
    | nil => intro a; rfl
    | cons x l ih =>
      intro a
      rw [List.foldl_cons, ih]
      split
      · exact demoteOwn_dl _ _ _ _
      · rfl
  exact key _ (s, m)

theorem demoteLate_zero (s : State) (n : Nat) (ps : List Nat) : demoteLate s n ps 0 = (s, 0) := by
  unfold demoteLate
  generalize ps.zipIdx = l
  induction l with
  | nil => rfl
  | cons x l ih => rw [List.foldl_cons, Nat.zero_testBit, Bool.false_and, if_neg (by simp)]; exact ih

theorem set_ended (now : Nat) (lv : Level) (b : List Byte) (st st' : CmdState) :
    cmdEnded { cmdHeld now lv b st with active := (cmdHeld now lv b st).active.map fun a => if a.granule == lv.pc then { a with st := st' } else a } lv.pc = cmdDone lv b := by
  have h : ∀ l : List Active, (l.map fun a => if a.granule == lv.pc then { a with st := st' } else a).filter (·.granule != lv.pc) = l.filter (·.granule != lv.pc) := by
    intro l
    induction l with
    | nil => rfl
    | cons a l ih =>
      rw [List.map_cons, List.filter_cons, List.filter_cons, ih]
      by_cases ha : a.granule = lv.pc
      · simp [ha]
      · simp [ha]
  simp only [cmdEnded, cmdHeld, cmdDone, h, List.filter_append]
  simp
  rfl

theorem ended_held (now : Nat) (lv : Level) (b : List Byte) (st : CmdState) : cmdEnded (cmdHeld now lv b st) lv.pc = cmdDone lv b := by
  simp [cmdEnded, cmdHeld, cmdDone, List.filter_append]
  rfl

theorem levelOf_noteItem {s : State} {shoe seq l : Nat} (c d : Nat) : levelOf (noteItem s shoe seq c d) shoe seq l = levelOf s shoe seq l := by
  unfold noteItem
  rw [levelOf, findItem_modItem (fun i => by split_ifs <;> exact ⟨rfl, rfl⟩), if_pos ⟨rfl, rfl⟩, levelOf]
  cases findItem s shoe seq with
  | none => rfl
  | some i =>
    simp only [Option.map_some, Option.bind_some]
    split_ifs <;> rfl

theorem others_noteItem (s : State) (shoe seq c d : Nat) : othersStay s (noteItem s shoe seq c d) shoe seq := by
  refine .modItem s fun i => ?_
  split_ifs <;> exact ⟨rfl, rfl⟩

/-- PROMOTE or DEMOTE at granule g of a level, with its pages' masks: it is active there, and all that its end does is to end it. -/
def pageHeld (t : State) (n seq l : Nat) (lv : Level) (b : List Byte) (m k : Nat) : Prop :=
  ∃ lv', levelOf t n seq l = some lv' ∧ lv'.pc = lv.pc + cmdSize b ∧ activeAt lv' lv.pc (.pages m k) ∧ cmdEnded lv' lv.pc = cmdDone lv b

theorem pageHeld.of_dl {s t : State} {n seq l : Nat} {lv : Level} {b : List Byte} {m k : Nat} (h : pageHeld s n seq l lv b m k) (e : t.dl = s.dl) :
    pageHeld t n seq l lv b m k := by
  obtain ⟨lv', h1, h2⟩ := h
  exact ⟨lv', (levelOf_congr (by rw [e]) _ _ _).trans h1, h2⟩

theorem pageHeld.set {s : State} {n seq l : Nat} {lv : Level} {b : List Byte} {m k : Nat} (h : pageHeld s n seq l lv b m k) (m' k' : Nat) :
    pageHeld (setActive s n seq l lv.pc (.pages m' k')) n seq l lv b m' k' := by
  obtain ⟨lv', h1, h2, ⟨a, ha, hg, hs⟩, h4⟩ := h
  refine ⟨{ lv' with active := lv'.active.map fun a => if a.granule == lv.pc then { a with st := .pages m' k' } else a }, by rw [levelOf_setActive, h1]; rfl, h2,
    ⟨{ a with st := .pages m' k' }, List.mem_map.2 ⟨a, ha, by simp [hg]⟩, hg, rfl⟩, ?_⟩
  rw [← h4]
  simp only [cmdEnded]
  congr 1
  generalize lv'.active = l
  induction l with
  | nil => rfl
  | cons x l ih =>
    rw [List.map_cons, List.filter_cons, List.filter_cons, ih]
    by_cases hx : x.granule = lv.pc
    · simp [hx]
    · simp [hx]

theorem pageHeld_start {s : State} {n seq l op : Nat} {lv : Level} {b : List Byte} (h : cmdStarts s n seq l op lv b) (m k : Nat) :
    pageHeld (heldCmd s n seq l lv.pc b (.pages m k)) n seq l lv b m k := by
  obtain ⟨hl, hact⟩ := held_active h (.pages m k)
  exact ⟨_, hl, rfl, ⟨{ granule := lv.pc, st := .pages m k, age := s.now }, by simp [cmdHeld], rfl, rfl⟩, ended_held _ _ _ _⟩

/-- How PROMOTE and DEMOTE go on: with the pages that are still to be considered and those that they still move (R198, R209). -/
theorem settlePage_goes {s u : State} {n seq l m k : Nat} {lv : Level} {b : List Byte} (h : pageHeld u n seq l lv b m k)
    (ho : othersStay s u n seq) (hop : field b 6 1 ≠ 1) :
    let r := demoteLate u n (pageSpan b) m
    let mine := stillMoving r.1 n (field b 6 1 == 2) (pageSpan b)
      (k ||| (if field b 6 1 = 3 then movingMask r.1 n false (pageSpan b) ^^^ movingMask u n false (pageSpan b) else 0))
    let t := settlePage u n seq l lv.pc b m k
    (r.2 = 0 ∧ mine = 0 → levelOf t n seq l = some (cmdDone lv b)) ∧ (¬ (r.2 = 0 ∧ mine = 0) → pageHeld t n seq l lv b r.2 mine) ∧
      othersStay s t n seq ∧ tiersSame u t := by
  dsimp only
  unfold settlePage
  dsimp only
  have hd := demoteLate_dl u n (pageSpan b) m
  have hsame := demoteLate_same u n (pageSpan b) m
  generalize demoteLate u n (pageSpan b) m = r at hd hsame
  generalize stillMoving r.1 n (field b 6 1 == 2) (pageSpan b)
      (k ||| (if field b 6 1 = 3 then movingMask r.1 n false (pageSpan b) ^^^ movingMask u n false (pageSpan b) else 0)) = mine
  have hr : pageHeld r.1 n seq l lv b m k := h.of_dl hd
  have hro : othersStay s r.1 n seq := ho.trans (.of_items (by rw [hd]))
  have key : ∃ v, (if r.2 = m ∧ mine = k then r.1 else setActive r.1 n seq l lv.pc (.pages r.2 mine)) = v ∧ v.tiers = r.1.tiers ∧
      othersStay s v n seq ∧ pageHeld v n seq l lv b r.2 mine := by
    refine ⟨_, rfl, ?_⟩
    split
    · rename_i he; rw [he.1, he.2]; exact ⟨rfl, hro, hr⟩
    · exact ⟨rfl, hro.trans (others_setActive _ _ _ _ _ _), hr.set _ _⟩
  obtain ⟨v, hv, hvt, hvo, hvh⟩ := key
  rw [hv]
  clear hv
  have hsv : tiersSame u v := hsame.trans (.of_tiers hvt)
  rw [if_neg hop, if_neg hop]
  by_cases ha : r.2 = 0 ∧ mine = 0
  · rw [if_neg (by simp [ha.1, ha.2])]
    generalize notInTier v n (field b 6 1 == 3) (pageSpan b) = left
    have hw : ∃ w, (if left = 0 then v else noteItem v n seq 0x0022 left) = w ∧ w.tiers = v.tiers ∧ othersStay s w n seq ∧ levelOf w n seq l = levelOf v n seq l := by
      refine ⟨_, rfl, ?_⟩
      split
      · exact ⟨rfl, hvo, rfl⟩
      · exact ⟨rfl, hvo.trans (others_noteItem _ _ _ _ _), levelOf_noteItem _ _⟩
    obtain ⟨w, hw, hwt, hwo, hwl⟩ := hw
    rw [hw]
    obtain ⟨lv', h1, -, -, h4⟩ := hvh
    refine ⟨fun _ => ?_, fun hn => absurd ha hn, hwo.trans (others_completeCmd _ _ _ _ _), hsv.trans (.of_tiers ?_)⟩
    · rw [levelOf_completeCmd, hwl, h1, ← h4]; rfl
    · rw [completeCmd_tiers, hwt]
  · rw [if_pos (by simp only [Bool.or_eq_true, decide_eq_true_eq, ne_eq]; omega)]
    exact ⟨fun hn => absurd hn ha, fun _ => hvh, hvo, hsv⟩

theorem dropMove_pte (s : State) {t : Nat} (ht : t < 9) (page : Nat) {p : Pte} (h : pteOf s t page = some p) :
    pteOf (dropMove s t page) t page = some { p with moving := false } := by
  unfold dropMove State.modPte
  have : pteOf (s.modTiers fun x => { x with moves := x.moves.filter fun m => !(m.table == t && m.page == page) }) t page = some p := h
  rw [this]
  exact pteOf_setPte_same _ ht _ _

theorem modPte_pte (s : State) {t : Nat} (ht : t < 9) (page : Nat) {p : Pte} (f : Pte → Pte) (h : pteOf s t page = some p) :
    pteOf (s.modPte t page f) t page = some (f p) := by
  unfold State.modPte; rw [h]; exact pteOf_setPte_same _ ht _ _
theorem unmapAll_dl (n : Nat) (ps : List Nat) (s : State) : (ps.foldl (fun s p => unmapOne s n p) s).dl = s.dl :=
  ((Moves.refl 256 s).foldl (fun u p => unmapOne_moves u n p (Moves.refl 256 u) rfl)).rest .dl rfl

theorem unmapAll_moves (n : Nat) (ps : List Nat) (s : State) : (ps.foldl (fun s p => unmapOne s n p) s).tiers.moves = s.tiers.moves := by
  induction ps generalizing s with
  | nil => rfl
  | cons x ps ih =>
    rw [List.foldl_cons, ih]
    unfold unmapOne
    split
    · rfl
    · rename_i p _
      have : (if p.tier2 then foreignHandle s p.frame else foreignFrame s p.frame).tiers.moves = s.tiers.moves := by
        unfold foreignHandle foreignFrame
        split_ifs <;> (split <;> rfl)
      exact this

theorem settle_unmap {u : State} {n seq l g : Nat} {b : List Byte} (hop : field b 6 1 = 1) :
    settlePage u n seq l g b 0 0 = if anyMoving u n (pageSpan b) then u else completeCmd ((pageSpan b).foldl (fun s p => unmapOne s n p) u) n seq l g := by
  unfold settlePage
  dsimp only
  rw [demoteLate_zero]
  have h0 : stillMoving u n (field b 6 1 == 2) (pageSpan b) (0 ||| (if field b 6 1 = 3 then
      movingMask u n false (pageSpan b) ^^^ movingMask u n false (pageSpan b) else 0)) = 0 := by
    rw [if_neg (by omega)]; exact Nat.zero_and _
  dsimp only
  rw [h0]
  simp only [hop, and_self, if_true]

end Sys2Proof
end

