-- ==== Sys2Proof/Laws/FxEcc.lean ====
section
/-! SUPPORT. Write-backs, counters, the log, patches and checker tests. -/

set_option linter.unusedSimpArgs false
set_option linter.unusedVariables false

namespace Sys2Proof

open Machine

theorem alookup_filter_none {α : Type} {l : List (Nat × α)} {p : Nat × α → Bool} {k : Nat} (h : ∀ x ∈ l, x.1 = k → p x = false) : alookup (l.filter p) k = none := by
  unfold alookup
  rw [List.find?_eq_none.2]; rfl
  intro x hx
  obtain ⟨h1, h2⟩ := List.mem_filter.1 hx
  intro he
  have := h x h1 (by simpa using he)
  rw [this] at h2; cases h2

theorem markOf_clear (s : State) (key : Nat) : markOf (clearMarks s key 1) key = none := by
  unfold markOf clearMarks
  refine alookup_filter_none fun x _ hx => ?_
  simp [hx]

theorem setMem_tier (s : State) (t2 : Bool) (m : List Host.Cell) : tierMem (s.setMem t2 m) t2 = m := by
  cases t2 <;> rfl

theorem putAll_get (m : List Host.Cell) (a v : Nat) {i : Nat} (h : i < 8) : memGet (memPutAll m a (leBytes 8 v)) (a + i) = some ((leBytes 8 v).getD i 0#8) := by
  have hl : i < (leBytes 8 v).length := by rw [leBytes_length]; exact h
  rw [memGet_memPutAll_in m a (leBytes 8 v) i hl]
  simp [List.getD, hl]

theorem testStore_spec (s : State) (key diff : Nat) :
    let t := testStore s key diff
    markOf t key = (if diff = 0 then none else some (0, diff)) ∧ (keyT0 key = true → alookup t.ecc.t0Data key = some (s.ecc.data % 2 ^ 32)) ∧
    (keyT0 key = false → ∀ i, i < 8 → memGet (tierMem t (keyPlace key).1) (pageBase (keyPlace key).2.1 + 8 * (keyPlace key).2.2 + i) = some ((leBytes 8 s.ecc.data).getD i 0#8)) := by
  have he : (testTouch s key).ecc = s.ecc := (testTouch_moves s key (Moves.refl 384 s) rfl).rest .ecc rfl
  unfold testStore
  dsimp only
  generalize testTouch s key = u at he
  generalize hw : (if keyT0 key = true then u.modEcc fun e => { e with t0Data := ainsert e.t0Data key (e.data % 2 ^ 32) }
      else u.setMem (keyPlace key).1 (memPutAll (tierMem u (keyPlace key).1) (pageBase (keyPlace key).2.1 + 8 * (keyPlace key).2.2) (leBytes 8 s.ecc.data))) = w
  have h1 : keyT0 key = true → alookup w.ecc.t0Data key = some (s.ecc.data % 2 ^ 32) := by
    intro hk
    rw [if_pos hk] at hw
    subst hw
    show alookup (ainsert u.ecc.t0Data key (u.ecc.data % 2 ^ 32)) key = _
    rw [alookup_ainsert_same, he]
  have h2 : keyT0 key = false → ∀ i, i < 8 → memGet (tierMem w (keyPlace key).1) (pageBase (keyPlace key).2.1 + 8 * (keyPlace key).2.2 + i) = some ((leBytes 8 s.ecc.data).getD i 0#8) := by
    intro hk i hi
    rw [if_neg (by simp [hk])] at hw
    subst hw
    rw [setMem_tier, putAll_get _ _ _ hi]
  by_cases hd : diff = 0
  · rw [if_pos hd, if_pos hd]
    exact ⟨markOf_clear _ _, h1, h2⟩
  · rw [if_neg hd, if_neg hd]
    refine ⟨?_, h1, h2⟩
    show alookup (ainsert _ key (0, diff)) key = _
    rw [alookup_ainsert_same]

theorem noteWord_res (s : State) (loc : WordLoc) (cls : WordClass) (syn b tag src : Nat) :
    let t := noteWord s loc cls syn b tag src
    t.ecc.resClass = s.ecc.resClass ∧ t.ecc.resSyndrome = s.ecc.resSyndrome ∧ t.ecc.resBit = s.ecc.resBit ∧ t.ecc.resData = s.ecc.resData ∧
      t.ecc.armed = s.ecc.armed ∧ t.ecc.marks = s.ecc.marks ∧ t.tiers = s.tiers := by
  have hp : ∀ (u : State) (ty c : Nat) (bs : List Byte), (postSteward u ty c bs).ecc = u.ecc := fun u ty c bs =>
    (postSteward_moves u ty c bs (Moves.refl 263240 u) rfl).rest .ecc rfl
  have hev : ∀ (u : State) (l : WordLoc) (i k : Nat), (eccEvent u l i k).ecc = u.ecc := fun u l i k =>
    (eccEvent_moves u l i k (Moves.refl 263240 u) rfl).rest .ecc rfl
  have hc : ∀ u : State, ∃ d, (countCorrected u loc).ecc = { u.ecc with dies := d } := by
    intro u
    unfold countCorrected
    dsimp only
    split
    · exact ⟨_, by rw [hp]; rfl⟩
    · exact ⟨_, rfl⟩
  have hl : ∀ (u : State) (k s' sy bi o : Nat), ∃ d, (logDetection u loc k s' sy bi o).1.ecc = { u.ecc with dies := d } := by
    intro u k s' sy bi o
    unfold logDetection
    dsimp only
    split
    · dsimp only
      split
      · exact ⟨_, by rw [hev]; rfl⟩
      · exact ⟨_, rfl⟩
    · split
      · exact ⟨_, rfl⟩
      · exact ⟨_, by rw [hev]; rfl⟩
  have ht : (noteWord s loc cls syn b tag src).tiers = s.tiers := (noteWord_moves s loc cls syn b tag src (Moves.refl 271432 s) rfl).rest .tiers rfl
  unfold noteWord at ht ⊢
  split
  · obtain ⟨d1, e1⟩ := hc s
    obtain ⟨d2, e2⟩ := hl (countCorrected s loc) 1 src syn b tag
    rw [e1] at e2
    dsimp only
    have : ∀ f : Ecc → Ecc, ((logDetection (countCorrected s loc) loc 1 src syn b tag).1.modEcc f).ecc = f (logDetection (countCorrected s loc) loc 1 src syn b tag).1.ecc := fun _ => rfl
    rw [this, e2]
    exact ⟨rfl, rfl, rfl, rfl, rfl, rfl, ht⟩
  · obtain ⟨d2, e2⟩ := hl s 2 src syn b tag
    dsimp only
    rw [e2]
    exact ⟨rfl, rfl, rfl, rfl, rfl, rfl, ht⟩
  · exact ⟨rfl, rfl, rfl, rfl, rfl, rfl, rfl⟩

theorem patchWord_fields (die mac row word : Nat) (r : Bool) : bits (patchCmdWord die mac row word r) 0 3 = die % 8 ∧ bits (patchCmdWord die mac row word r) 4 14 = mac % 16384 ∧
    bits (patchCmdWord die mac row word r) 18 9 = row % 512 ∧ bits (patchCmdWord die mac row word r) 27 5 = word % 32 ∧
    bit (patchCmdWord die mac row word r) 3 = r ∧ bit (patchCmdWord die mac row word r) 63 = true := by
  have e : b2n r < 2 := by cases r <;> decide
  have h3 : ∀ k, bit (patchCmdWord die mac row word r) k = decide (patchCmdWord die mac row word r / 2 ^ k % 2 = 1) := fun k => Nat.testBit_eq_decide_div_mod_eq
  rw [h3, h3]
  have hr : r = decide (b2n r = 1) := by cases r <;> rfl
  unfold bits patchCmdWord
  norm_num
  refine ⟨by omega, by omega, by omega, by omega, ?_, by omega⟩
  rw [hr]
  rw [← hr]
  have : (die % 8 + 8 * b2n r + 16 * (mac % 16384) + 262144 * (row % 512) + 134217728 * (word % 32) + 9223372036854775808) / 8 % 2 = b2n r := by omega
  rw [this]; exact hr.symm

end Sys2Proof
end

