-- ==== Sys2Proof/Laws/FxEth.lean ====
section
/-! SUPPORT. Ethernet ports, the raw rings and the region table. -/

set_option linter.unusedSimpArgs false
set_option linter.unusedVariables false

namespace Sys2Proof

open Machine

theorem modEth_same (s : State) {p : Nat} (hp : p < 2) (f : EthPort → EthPort) : ethPort (s.modEth p f) p = f (ethPort s p) := tget_tmod_same _ _ hp
theorem modEth_ne (s : State) {p k : Nat} (hk : k ≠ p) (f : EthPort → EthPort) : ethPort (s.modEth p f) k = ethPort s k := tget_tmod_ne _ _ (Ne.symm hk)
theorem modEth_only (s : State) (p : Nat) (f : EthPort → EthPort) : portOnly s (s.modEth p f) p := ⟨fun k hk => modEth_ne s hk f, rfl⟩
theorem portOnly.refl (s : State) (p : Nat) : portOnly s s p := ⟨fun _ _ => rfl, rfl⟩
theorem portOnly.trans {s t u : State} {p : Nat} (h : portOnly s t p) (k : portOnly t u p) : portOnly s u p := by
  refine ⟨fun x hx => (k.1 x hx).trans (h.1 x hx), ?_⟩
  have := congrArg (fun n : Net => { n with ports := s.net.ports }) k.2
  exact this.trans h.2
theorem netOnly (s : State) (f : Net → Net) : OnlyParts [.net] s (s.modNet f) := by
  intro p hp; cases p <;> first | exact absurd (by decide) hp | rfl

theorem emitAll (l : List Output) (s : State) : l.foldl (fun s o => s.emit o) s = { s with out := s.out ++ l } := by
  induction l generalizing s with
  | nil => simp
  | cons x l ih => rw [List.foldl_cons, ih]; simp [State.emit]

theorem dropFrame_spec (s : State) {p : Nat} (hp : p < 2) : ethPort (dropFrame s p) p = { ethPort s p with dropped := satInc 32 (ethPort s p).dropped } ∧ portOnly s (dropFrame s p) p ∧
    (dropFrame s p).out = s.out := ⟨modEth_same s hp _, modEth_only s p _, rfl⟩

theorem pfcFill_spec (s : State) {p : Nat} (hp : p < 2) (fill : Nat) : let t := pfcFill s p fill
    (ethPort t p).xoff = (if s.net.pfcEnable then (if 6 * 2 ^ 20 ≤ fill then true else if fill < 4 * 2 ^ 20 then false else (ethPort s p).xoff) else (ethPort s p).xoff) ∧
    (ethPort t p).dropped = (ethPort s p).dropped ∧ (ethPort t p).up = (ethPort s p).up ∧ portOnly s t p ∧ OnlyParts [.net, .out] s t ∧
    (∀ a n, hostOk t 0 a n = hostOk s 0 a n) ∧ canIssue t 0 = canIssue s 0 := by
  have e : ∀ (m : State) (o : Output) (f : EthPort → EthPort), ethPort ((m.emit o).modEth p f) p = f (ethPort m p) ∧ portOnly m ((m.emit o).modEth p f) p ∧ OnlyParts [.net, .out] m ((m.emit o).modEth p f) :=
    fun m o f => ⟨tget_tmod_same _ _ hp, ⟨fun k hk => tget_tmod_ne _ _ (Ne.symm hk), rfl⟩, by intro p hp; cases p <;> first | exact absurd (by decide) hp | rfl⟩
  unfold pfcFill
  dsimp only
  have hx : (tget s.net.ports p) = ethPort s p := rfl
  rw [hx]
  cases he : s.net.pfcEnable with
  | false => exact ⟨by simp, rfl, rfl, .refl _ _, fun p _ => by cases p <;> rfl, fun _ _ => rfl, rfl⟩
  | true =>
    rw [if_neg (by decide)]
    by_cases h1 : (!(ethPort s p).xoff) = true ∧ 6 * 2 ^ 20 ≤ fill
    · rw [if_pos h1]
      obtain ⟨a, b, c⟩ := e s (.ethernet p 7 [s.net.pfcPriority, 1] []) fun x => { x with xoff := true, pfcSent := satInc 32 x.pfcSent }
      refine ⟨?_, by rw [a], by rw [a], b, c, fun _ _ => rfl, rfl⟩
      rw [a]; dsimp only; rw [if_pos rfl, if_pos h1.2]
    · rw [if_neg h1]
      by_cases h2 : (ethPort s p).xoff = true ∧ fill < 4 * 2 ^ 20
      · rw [if_pos h2]
        obtain ⟨a, b, c⟩ := e s (.ethernet p 7 [s.net.pfcPriority, 0] []) fun x => { x with xoff := false }
        refine ⟨?_, by rw [a], by rw [a], b, c, fun _ _ => rfl, rfl⟩
        rw [a]
        have := h2.2
        rw [if_pos rfl, if_neg (by omega), if_pos h2.2]
      · rw [if_neg h2]
        refine ⟨?_, rfl, rfl, .refl _ _, fun p _ => by cases p <;> rfl, fun _ _ => rfl, rfl⟩
        rw [if_pos rfl]
        cases hxo : (ethPort s p).xoff with
        | true =>
          rw [hxo] at h2
          split
          · rfl
          · split
            · rename_i h3; exact absurd ⟨rfl, h3⟩ h2
            · rfl
        | false =>
          rw [hxo] at h1
          split
          · rename_i h3; exact absurd ⟨rfl, h3⟩ h1
          · split <;> rfl

/-- A part of a range that a host access may have is one that it may have. -/
theorem hostOk_mono {s : State} {fn a n a' n' : Nat} (h : hostOk s fn a n = true) (h1 : a ≤ a') (h2 : a' + n' ≤ a + n) : hostOk s fn a' n' = true := by
  unfold hostOk winOk at *
  simp only [Bool.and_eq_true, List.any_eq_true, decide_eq_true_eq] at *
  obtain ⟨hc, w, hw, ⟨hv, ha⟩, hb⟩ := h
  exact ⟨hc, w, hw, ⟨hv, by omega⟩, by omega⟩

/-- A frame that the raw receive ring takes: its bytes, then its header, go to the host, and the ring moves on. -/
theorem rawReceive_takes {s : State} {p : Nat} {f : List Byte} (h : rawRoom s f) (hp : p < 2) :
    rawReceive s p f = { s with
      out := s.out ++ [.hostWrite 0 (2048 * s.net.rx.base + 2048 * s.net.rx.next + 16) f,
        .hostWrite 0 (2048 * s.net.rx.base + 2048 * s.net.rx.next) (leBytes 2 f.length ++ leBytes 1 p ++ leBytes 1 (b2n s.net.rx.phase) ++ List.replicate 12 0#8)]
      net := { s.net with rx := { s.net.rx with
        next := if s.net.rx.next + 1 = 2 ^ s.net.rx.sizeLog2 then 0 else s.net.rx.next + 1
        phase := if s.net.rx.next + 1 = 2 ^ s.net.rx.sizeLog2 then !s.net.rx.phase else s.net.rx.phase } } } := by
  obtain ⟨h1, h2, h3, h4, hk⟩ := h
  have h5 : hostOk s 0 (2048 * s.net.rx.base + 2048 * s.net.rx.next) 16 = true := hostOk_mono hk (by omega) (by omega)
  have h6 : hostOk s 0 (2048 * s.net.rx.base + 2048 * s.net.rx.next + 16) f.length = true := hostOk_mono hk (by omega) (by omega)
  unfold rawReceive
  dsimp only
  rw [if_neg (by simp only [h1, hk, Bool.not_true, Bool.false_eq_true, false_or, or_false]; omega)]
  have hl : (leBytes 2 f.length ++ leBytes 1 p ++ leBytes 1 (b2n s.net.rx.phase) ++ List.replicate 12 0#8).length = 16 := by
    simp [leBytes_length]
  have e1 : postHost s 0 (2048 * s.net.rx.base + 2048 * s.net.rx.next + 16) f = s.emit (.hostWrite 0 (2048 * s.net.rx.base + 2048 * s.net.rx.next + 16) f) := if_pos h6
  rw [e1]
  generalize (leBytes 2 f.length ++ leBytes 1 p ++ leBytes 1 (b2n s.net.rx.phase) ++ List.replicate 12 0#8) = hdr at hl ⊢
  have e2 : postHost (s.emit (.hostWrite 0 (2048 * s.net.rx.base + 2048 * s.net.rx.next + 16) f)) 0 (2048 * s.net.rx.base + 2048 * s.net.rx.next) hdr =
      (s.emit (.hostWrite 0 (2048 * s.net.rx.base + 2048 * s.net.rx.next + 16) f)).emit (.hostWrite 0 (2048 * s.net.rx.base + 2048 * s.net.rx.next) hdr) := by
    refine if_pos ?_
    rw [hl]; exact h5
  rw [e2]
  simp [State.emit, State.modNet]

theorem rawReceive_full {s : State} {p : Nat} {f : List Byte} (h : s.net.rx.active = false ∨ 2032 < f.length ∨ (s.net.rx.next + 1) % 2 ^ s.net.rx.sizeLog2 = s.net.rx.index) :
    rawReceive s p f = dropFrame s p := by
  unfold rawReceive
  dsimp only
  rw [if_pos]
  rcases h with h | h | h
  · exact .inl (by simp [h])
  · exact .inr (.inl h)
  · exact .inr (.inr (.inr (.inl h)))

theorem ethFrame_raw {s : State} {p fill : Nat} {f : List Byte} (hu : (ethPort s p).up = true) (h : rawFrame s p f) :
    ethFrame s p true fill f = rawReceive (pfcFill s p fill) p f := by
  obtain ⟨t, off, h1, h2, h3, h4⟩ := h
  unfold ethFrame
  dsimp only
  rw [if_neg (by simp [show (tget s.net.ports p).up = true from hu]), if_neg (by decide), h1]
  dsimp only
  rw [if_neg h2]
  rcases h3 with h3 | h3
  · rw [h3]; exact if_pos h4
  · rw [h3]; dsimp only; rw [if_pos rfl]; exact if_pos h4

end Sys2Proof
end

