-- ==== Sys2Proof/Laws/FxFlash.lean ====
section
/-! SUPPORT. The flash, SPDM and packets of management. -/

set_option linter.unusedSimpArgs false
set_option linter.unusedVariables false

namespace Sys2Proof

open Machine

theorem mctp_go {s : State} {b : List Byte} {pec : Bool} (h : mctpHere s b pec) (ok : Bool) (env : BootEnv) :
    mctpPacket s b pec ok env = match (assemble s.mgmt.assembly b).2 with
      | some msg => mgmtMessage (s.modMgmt fun m => { m with assembly := (assemble s.mgmt.assembly b).1 }) msg ok env
      | none => s.modMgmt fun m => { m with assembly := (assemble s.mgmt.assembly b).1 } := by
  obtain ⟨h1, h2, h3, h4, h5, h6⟩ := h
  unfold mctpPacket
  dsimp only
  refine (if_neg ?_).trans rfl
  rw [mgmtRuns, h1, h2, h3]
  simp only [Bool.and_self, Bool.not_true, Bool.false_eq_true, false_or, not_or, Decidable.not_not]
  exact ⟨by omega, by omega, by omega⟩
theorem memGet_memDrop (m : List Host.Cell) (lo n x : Nat) : memGet (memDrop m lo n) x = if lo ≤ x ∧ x < lo + n then none else memGet m x := by
  split
  · rename_i h
    unfold memGet memDrop
    rw [List.find?_eq_none.2]; rfl
    intro c hc
    have := (List.mem_filter.1 hc).2
    simp only [Bool.not_eq_true', Bool.and_eq_false_iff, decide_eq_false_iff_not] at this
    intro hx
    have hx : c.1 = x := by simpa using hx
    omega
  · exact memGet_memDrop_out _ (by omega)

theorem flashPut_get (bs : List Byte) (c : List Host.Cell) (a x : Nat) : (memGet (flashPut c a bs) x).getD 0xFF#8 =
    if a ≤ x ∧ x < a + bs.length then bs.getD (x - a) 0#8 else (memGet c x).getD 0xFF#8 := by
  induction bs generalizing c a with
  | nil => rw [if_neg (by simp)]; rfl
  | cons b bs ih =>
    unfold flashPut
    rw [ih]
    have h0 : (memGet (if b = 0xFF#8 then memDrop c a 1 else memPut c a b) x).getD 0xFF#8 = if x = a then b else (memGet c x).getD 0xFF#8 := by
      by_cases hx : x = a
      · subst hx
        rw [if_pos rfl]
        split
        · rename_i hb
          rw [memGet_memDrop, if_pos (by omega), hb]; rfl
        · rw [memGet_memPut_same]; rfl
      · rw [if_neg hx]
        split
        · rw [memGet_memDrop_out _ (by omega)]
        · rw [memGet_memPut_ne _ _ hx]
    by_cases h1 : a + 1 ≤ x ∧ x < a + 1 + bs.length
    · rw [if_pos h1, if_pos (by simp; omega), (by omega : x - a = (x - (a + 1)) + 1)]; rfl
    · rw [if_neg h1, h0]
      by_cases hx : x = a
      · subst hx; rw [if_pos rfl, if_pos (by simp)]; simp
      · rw [if_neg hx, if_neg (by simp; omega)]

theorem markStale_boot (s : State) : (markStale s).boot.flash = s.boot.flash ∧ (s.boot.img.isSome = true → (markStale s).boot.imageStale = true) := by
  unfold markStale
  split
  · rename_i h
    rw [show ∀ u a b c, (mgmtSensor u a b c).boot = u.boot from fun u a b c => (mgmtSensor_moves u a b c (Moves.refl 262152 u) rfl).rest .boot rfl]
    exact ⟨rfl, fun _ => rfl⟩
  · rename_i h; exact ⟨rfl, fun h' => absurd h' h⟩

theorem flashMix_erased (d free : List Byte) (old : List Byte) (ho : old.length = d.length) (hf : free.length = d.length) (h : ∀ b ∈ old, b = 0xFF#8) :
    flashMix old d free = d := by
  unfold flashMix
  induction d generalizing old free with
  | nil => cases old with
    | nil => rfl
    | cons x o => simp at ho
  | cons b d ih =>
    cases old with
    | nil => simp at ho
    | cons o old =>
      cases free with
      | nil => simp at hf
      | cons f free =>
        simp only [List.zip_cons_cons, List.map_cons]
        rw [ih free old (by simpa using ho) (by simpa using hf) (fun b hb => h b (List.mem_cons_of_mem _ hb)), if_pos (h o (by simp))]

end Sys2Proof
end

