-- ==== Sys2Proof/Laws/FxPower.lean ====
section
/-! SUPPORT. Power requests, the power limit, temperatures and rails. -/

set_option linter.unusedSimpArgs false
set_option linter.unusedVariables false

namespace Sys2Proof

open Machine

theorem firstTrue (b1 b2 b3 b4 b5 b6 : Bool) (k : Nat) (h1 : 1 ≤ k) (h2 : [b1, b2, b3, b4, b5, b6][k - 1]? = some true)
    (h3 : ∀ j < k - 1, [b1, b2, b3, b4, b5, b6][j]? = some false) :
    (if b1 then 1 else if b2 then 2 else if b3 then 3 else if b4 then 4 else if b5 then 5 else if b6 then 6 else 0 : Nat) = k := by
  have hk : k ≤ 6 := by
    by_contra hc
    rw [List.getElem?_eq_none (by simp; omega)] at h2
    cases h2
  have e : ∀ j, j < k - 1 → [b1, b2, b3, b4, b5, b6][j]? = some false := h3
  obtain rfl | rfl | rfl | rfl | rfl | rfl : k = 1 ∨ k = 2 ∨ k = 3 ∨ k = 4 ∨ k = 5 ∨ k = 6 := by omega
  · simp at h2; simp [h2]
  · have e0 := e 0 (by decide); simp at h2 e0; simp [h2, e0]
  · have e0 := e 0 (by decide); have e1 := e 1 (by decide); simp at h2 e0 e1; simp [h2, e0, e1]
  · have e0 := e 0 (by decide); have e1 := e 1 (by decide); have e2 := e 2 (by decide)
    simp at h2 e0 e1 e2; simp [h2, e0, e1, e2]
  · have e0 := e 0 (by decide); have e1 := e 1 (by decide); have e2 := e 2 (by decide); have e3 := e 3 (by decide)
    simp at h2 e0 e1 e2 e3; simp [h2, e0, e1, e2, e3]
  · have e0 := e 0 (by decide); have e1 := e 1 (by decide); have e2 := e 2 (by decide); have e3 := e 3 (by decide)
    have e4 := e 4 (by decide)
    simp at h2 e0 e1 e2 e3 e4; simp [h2, e0, e1, e2, e3, e4]

theorem noneTrue (b1 b2 b3 b4 b5 b6 : Bool)
    (h : ∀ k, ¬ (1 ≤ k ∧ [b1, b2, b3, b4, b5, b6][k - 1]? = some true ∧ ∀ j < k - 1, [b1, b2, b3, b4, b5, b6][j]? = some false)) :
    b1 = false ∧ b2 = false ∧ b3 = false ∧ b4 = false ∧ b5 = false ∧ b6 = false := by
  have a1 : b1 = false := by
    by_contra hc; exact h 1 ⟨by omega, by simpa using hc, fun j hj => by omega⟩
  have a2 : b2 = false := by
    by_contra hc; exact h 2 ⟨by omega, by simpa using hc, fun j hj => by
      obtain rfl : j = 0 := by omega
      simp [a1]⟩
  have a3 : b3 = false := by
    by_contra hc; exact h 3 ⟨by omega, by simpa using hc, fun j hj => by
      obtain rfl | rfl : j = 0 ∨ j = 1 := by omega
      all_goals simp [a1, a2]⟩
  have a4 : b4 = false := by
    by_contra hc; exact h 4 ⟨by omega, by simpa using hc, fun j hj => by
      obtain rfl | rfl | rfl : j = 0 ∨ j = 1 ∨ j = 2 := by omega
      all_goals simp [a1, a2, a3]⟩
  have a5 : b5 = false := by
    by_contra hc; exact h 5 ⟨by omega, by simpa using hc, fun j hj => by
      obtain rfl | rfl | rfl | rfl : j = 0 ∨ j = 1 ∨ j = 2 ∨ j = 3 := by omega
      all_goals simp [a1, a2, a3, a4]⟩
  have a6 : b6 = false := by
    by_contra hc; exact h 6 ⟨by omega, by simpa using hc, fun j hj => by
      obtain rfl | rfl | rfl | rfl | rfl : j = 0 ∨ j = 1 ∨ j = 2 ∨ j = 3 ∨ j = 4 := by omega
      all_goals simp [a1, a2, a3, a4, a5]⟩
  exact ⟨a1, a2, a3, a4, a5, a6⟩

/-- The code of a refused request is that of the first condition that fails. -/
theorem powerRefusal_of {s : State} {k : Nat} (h : refusalCode s k) : powerRefusal s = k ∧ k ≠ 0 := by
  obtain ⟨h1, h2, h3⟩ := h
  refine ⟨?_, by omega⟩
  have := firstTrue _ _ _ _ _ _ k h1 h2 h3
  rw [← this]
  simp [powerRefusal]

theorem powerRefusal_zero {s : State} (h : ∀ k, ¬ refusalCode s k) : powerRefusal s = 0 := by
  obtain ⟨a1, a2, a3, a4, a5, a6⟩ := noneTrue _ _ _ _ _ _ h
  simp only [Bool.or_eq_false_iff, decide_eq_false_iff_not] at a6
  simp only [powerRefusal, a1, a2, a3, a4, a5]
  simp only [a6.1, a6.2]
  simp
 
/-- What a command to a rail leaves in the rails. -/
theorem avsWrite_rail_same (s : State) (r v : Nat) : alookup (avsWrite s r v).power.rails r = some v := by
  simp [avsWrite, alookup_ainsert_same]

theorem avsWrite_rail_ne {s : State} {r v q : Nat} (h : q ≠ r) : alookup (avsWrite s r v).power.rails q = alookup s.power.rails q := by
  simp [avsWrite, alookup_ainsert_ne _ _ h]

@[simp] theorem avsWrite_level (s : State) (r v : Nat) : (avsWrite s r v).power.level = s.power.level := by simp [avsWrite]
@[simp] theorem avsWrite_request (s : State) (r v : Nat) : (avsWrite s r v).power.request = s.power.request := by simp [avsWrite]

/-- The ports of the package are idle, and power and the rest of the core's parts are as they were. -/
theorem idlePorts_idle (s : State) : (idlePorts s).1.link.idle = true := rfl

theorem setLevel_rails (s : State) (l : Nat) : (setLevel s l).power = { s.power with level := l } := by simp [setLevel]

theorem setLevel_cold {s u : State} {o : Output} (h : coldStarted s u) :
    coldStarted s (setLevel ((u.modBoot fun b => { b with mainEn := false }).emit o) 3) := by
  simp only [coldStarted, mainLost] at *
  simpa using h

theorem dropXfers_idle (l : List Nat) (s : State) : (l.foldl dropXfer s).link.idle = s.link.idle := by
  induction l generalizing s with
  | nil => rfl
  | cons x l ih => rw [List.foldl_cons, ih]; rfl

theorem idlePorts_power (s : State) : (idlePorts s).1.power = s.power :=
  (idlePorts_moves s (Moves.refl 312392 s) rfl).rest .power rfl

theorem dropXfers_power (l : List Nat) (s : State) : (l.foldl dropXfer s).power = s.power := by
  induction l generalizing s with
  | nil => rfl
  | cons x l ih => rw [List.foldl_cons, ih]; rfl

theorem lowRails_spec (s : State) :
    (∀ d < 4, alookup ((List.range 4).foldl (fun s d => avsWrite s d 650) s).power.rails d = some 650) ∧
      ∀ d, 4 ≤ d → alookup ((List.range 4).foldl (fun s d => avsWrite s d 650) s).power.rails d = alookup s.power.rails d := by
  have e : (List.range 4).foldl (fun s d => avsWrite s d 650) s = avsWrite (avsWrite (avsWrite (avsWrite s 0 650) 1 650) 2 650) 3 650 := rfl
  rw [e]
  refine ⟨fun d hd => ?_, fun d hd => ?_⟩
  · obtain rfl | rfl | rfl | rfl : d = 0 ∨ d = 1 ∨ d = 2 ∨ d = 3 := by omega
    all_goals simp [avsWrite_rail_same, avsWrite_rail_ne]
  · rw [avsWrite_rail_ne (by omega), avsWrite_rail_ne (by omega), avsWrite_rail_ne (by omega), avsWrite_rail_ne (by omega)]

theorem lowRails_rest (s : State) : let u := (List.range 4).foldl (fun s d => avsWrite s d 650) s
    u.link = s.link ∧ u.power.request = s.power.request := by
  have e : (List.range 4).foldl (fun s d => avsWrite s d 650) s = avsWrite (avsWrite (avsWrite (avsWrite s 0 650) 1 650) 2 650) 3 650 := rfl
  simp only [e]
  constructor <;> simp

theorem enterP2_spec (s : State) : (enterP2 s).power.level = 2 ∧ (enterP2 s).power.request = s.power.request ∧
    (enterP2 s).link.idle = true ∧
    (s.power.boostWithheld = false → alookup (enterP2 s).power.rails 4 = some 600 ∧ alookup (enterP2 s).power.rails 5 = some 600 ∧
      ∀ d < 4, alookup (enterP2 s).power.rails d = some 650) ∧
    (s.power.boostWithheld = true → (enterP2 s).power.rails = s.power.rails) := by
  have hp := idlePorts_power s
  have hi := idlePorts_idle s
  unfold enterP2
  dsimp only
  generalize hu : (((idlePorts s).2.foldl dropXfer (idlePorts s).1).modNet fun n =>
    { n with ports := n.ports.map fun p => { p with up := false, paused := false, xoff := false, held := [] } }) = u
  have up : u.power = s.power := by rw [← hu]; simp [dropXfers_power, hp]
  have ui : u.link.idle = true := by rw [← hu]; simp [dropXfers_idle, hi]
  have hb : ∀ v : State, (if v.beat.source = 1 then beatLoss v else v).power = v.power ∧
      (if v.beat.source = 1 then beatLoss v else v).link = v.link := by
    intro v; split
    · exact ⟨(beatLoss_moves v (Moves.refl 263272 v) rfl).rest .power rfl, (beatLoss_moves v (Moves.refl 263272 v) rfl).rest .link rfl⟩
    · exact ⟨rfl, rfl⟩
  simp only [setLevel_rails, (hb _).1, setLevel_link, (hb _).2]
  cases hw : s.power.boostWithheld
  · have hw' : u.power.boostWithheld = false := by rw [up, hw]
    simp only [hw', Bool.false_eq_true, if_false]
    have l1 := lowRails_spec (avsWrite (avsWrite u 4 600) 5 600)
    have l2 := lowRails_rest (avsWrite (avsWrite u 4 600) 5 600)
    refine ⟨trivial, ?_, ?_, fun _ => ⟨?_, ?_, l1.1⟩, by simp⟩
    · rw [l2.2]; simp [up]
    · rw [l2.1]; simp [ui]
    · rw [l1.2 4 (by omega), avsWrite_rail_ne (by omega), avsWrite_rail_same]
    · rw [l1.2 5 (by omega), avsWrite_rail_same]
  · have hw' : u.power.boostWithheld = true := by rw [up, hw]
    simp only [hw', if_true]
    simp [up, ui]

theorem faceRails_spec (s : State) : (∀ d, 4 ≤ d → alookup (faceRails s).power.rails d = alookup s.power.rails d) ∧
    (faceRails s).link = s.link ∧ (faceRails s).power.level = s.power.level ∧ (faceRails s).power.request = s.power.request := by
  have e : faceRails s = avsWrite (avsWrite (avsWrite (avsWrite s 0 (Config.faceVoltage 0)) 1 (Config.faceVoltage 1)) 2 (Config.faceVoltage 2))
    3 (Config.faceVoltage 3) := rfl
  rw [e]
  refine ⟨fun d hd => ?_, by simp, by simp, by simp⟩
  rw [avsWrite_rail_ne (by omega), avsWrite_rail_ne (by omega), avsWrite_rail_ne (by omega), avsWrite_rail_ne (by omega)]

theorem leaveP2_spec (s : State) (h : s.power.level = 2) : (leaveP2 s).power.level = 0 ∧ (leaveP2 s).power.request = s.power.request ∧
    (leaveP2 s).link = { s.link with idle := false } ∧
    (s.power.boostWithheld = false → alookup (leaveP2 s).power.rails 4 = some 800 ∧ alookup (leaveP2 s).power.rails 5 = some 750) := by
  unfold leaveP2
  rw [if_pos h]
  dsimp only
  generalize hu : setLevel (s.modLink fun l => { l with idle := false }) 0 = u
  have up : u.power = { s.power with level := 0 } := by rw [← hu]; simp [setLevel_rails]
  have ul : u.link = { s.link with idle := false } := by rw [← hu]; simp
  cases hw : s.power.boostWithheld
  · have hw' : u.power.boostWithheld = false := by rw [up]; exact hw
    simp only [hw', Bool.false_eq_true, if_false]
    obtain ⟨f1, f2, f3, f4⟩ := faceRails_spec (avsWrite (avsWrite u 4 800) 5 750)
    refine ⟨?_, ?_, ?_, fun _ => ⟨?_, ?_⟩⟩
    · rw [f3]; simp [up]
    · rw [f4]; simp [up]
    · rw [f2]; simp [ul]
    · rw [f1 4 (by omega), avsWrite_rail_ne (by omega), avsWrite_rail_same]
    · rw [f1 5 (by omega), avsWrite_rail_same]
  · have hw' : u.power.boostWithheld = true := by rw [up]; exact hw
    simp only [hw', if_true]
    simp [up, ul]

/-- Of the power block only the rails differ. -/
def RailsOnly (p q : Power) : Prop := q = { p with rails := q.rails, avsTries := q.avsTries, boosted := q.boosted }

theorem RailsOnly.trans {p q r : Power} (h : RailsOnly p q) (k : RailsOnly q r) : RailsOnly p r := by
  unfold RailsOnly at *
  rw [h] at k
  exact k

theorem followRail_power (s : State) (d : Nat) : RailsOnly s.power (followRail s d).power := by
  unfold followRail
  dsimp only
  split <;> rfl

theorem followRails_power (l : List Nat) (s : State) : RailsOnly s.power (l.foldl followRail s).power := by
  induction l generalizing s with
  | nil => rfl
  | cons d l ih => exact (followRail_power s d).trans (ih _)

/-- A step of the clocks: beside them only the rails of the face dies may move (R78, R395). -/
theorem stepClocks_power (s : State) (up : Bool) : RailsOnly { s.power with
    clocks := s.power.clocks.map fun c => if up then min 1750 (c + 25) else max 25 (c - 25) } (stepClocks s up).power := by
  unfold stepClocks
  dsimp only
  refine RailsOnly.trans ?_ (followRails_power _ _)
  rw [State.modDl_power, State.modPower_power]
  exact rfl

theorem stepClocks_fields (s : State) (up : Bool) :
    (stepClocks s up).power.clocks = (s.power.clocks.map fun c => if up then min 1750 (c + 25) else max 25 (c - 25)) ∧
    (stepClocks s up).power.avgW = s.power.avgW ∧ (stepClocks s up).power.peakW = s.power.peakW ∧
    (stepClocks s up).power.powerThrottled = s.power.powerThrottled ∧ (stepClocks s up).power.thermalThrottled = s.power.thermalThrottled := by
  have h := stepClocks_power s up
  unfold RailsOnly at h
  rw [h]
  exact ⟨rfl, rfl, rfl, rfl, rfl⟩

/-- The power limit's check while the dies run (R395). -/
theorem limitCheck_spec (s : State) (avg sample : Nat) (hr : s.boot.released = true) (ha : avg < 65536) (hs : sample < 65536) :
    (limitCheck s avg sample).power.avgW = avg ∧ (limitCheck s avg sample).power.peakW = max s.power.peakW sample ∧
    (powerLimit s < avg → (limitCheck s avg sample).power.powerThrottled = true ∧
      (limitCheck s avg sample).power.clocks = s.power.clocks.map fun c => max 25 (c - 25)) ∧
    (20 * avg < 19 * powerLimit s → (limitCheck s avg sample).power.powerThrottled = false ∧
      (limitCheck s avg sample).power.clocks =
        if s.power.thermalThrottled then s.power.clocks else s.power.clocks.map fun c => min 1750 (c + 25)) ∧
    (avg ≤ powerLimit s → 19 * powerLimit s ≤ 20 * avg →
      (limitCheck s avg sample).power.powerThrottled = s.power.powerThrottled ∧
      (limitCheck s avg sample).power.clocks = s.power.clocks) := by
  have e1 : avg % 65536 = avg := Nat.mod_eq_of_lt ha
  have e2 : sample % 65536 = sample := Nat.mod_eq_of_lt hs
  have hx : ∀ (P : Prop) [Decidable P] (u : State), (if P then alertLatch u 11 else u).power = u.power := by
    intro P _ u; split <;> simp
  unfold limitCheck
  simp only [hr, e1, e2]
  by_cases h1 : powerLimit s < avg
  · have h2 : ¬ 20 * avg < 19 * powerLimit s := by omega
    have h3 : ¬ avg ≤ powerLimit s := by omega
    simp only [h1, h2, h3, Bool.not_true, Bool.false_eq_true, if_false, if_true, hx]
    simp [stepClocks_fields]
  · by_cases h2 : 20 * avg < 19 * powerLimit s
    · have h3 : ¬ 19 * powerLimit s ≤ 20 * avg := by omega
      cases h4 : s.power.thermalThrottled <;> simp [h1, h2, h3, h4, hx, stepClocks_fields]
    · have h4 : 19 * powerLimit s ≤ 20 * avg := by omega
      simp only [h1, h2, h4, Bool.not_true, Bool.false_eq_true, if_false, if_true, hx]
      simp

theorem dieTrip_none (s : State) (d : Nat) (h : tget s.power.tripped d = false) (ht : tget s.power.temps d ≤ (dieLimits d).2.1) :
    dieTrip s d = s := by
  simp [dieTrip, h, Int.not_lt.mpr ht]

theorem dieTrips_none (l : List Nat) (s : State) (h : ∀ d ∈ l, tget s.power.tripped d = false ∧ tget s.power.temps d ≤ (dieLimits d).2.1) :
    l.foldl dieTrip s = s := by
  induction l with
  | nil => rfl
  | cons d l ih =>
    rw [List.foldl_cons, dieTrip_none s d (h d (by simp)).1 (h d (by simp)).2]
    exact ih fun e he => h e (by simp [he])

theorem temps_get (temps : List Int) (d : Nat) (h : d < 8) : tget (Vector.ofFn fun i : Fin 8 => temps.getD i 0) d = temps.getD d 0 := by
  simp [tget, h]

/-- A sample in which no die is past its trip limit. -/
theorem thermal_untripped (s : State) (temps : List Int) (ht : ∀ d < 8, tget s.power.tripped d = false)
    (hq : s.boot.qualified = true → powerGood s = true) (h : ∀ d < 8, temps.getD d 0 ≤ (dieLimits d).2.1) :
    qualify ((List.range 8).foldl dieTrip (s.modPower fun p => { p with temps := Vector.ofFn fun i : Fin 8 => temps.getD i 0 }))
      = s.modPower fun p => { p with temps := Vector.ofFn fun i : Fin 8 => temps.getD i 0 } := by
  rw [dieTrips_none]
  · unfold qualify
    cases hb : s.boot.qualified
    · simp [hb]
    · have := hq hb
      generalize (Vector.ofFn fun i : Fin 8 => temps.getD i 0) = T
      have e : powerGood (s.modPower fun p => { p with temps := T }) = powerGood s := rfl
      rw [if_neg (by rw [e, this]; simp)]
  · intro d hd
    have hd8 : d < 8 := by simpa using hd
    refine ⟨ht d hd8, ?_⟩
    show tget (Vector.ofFn fun i : Fin 8 => temps.getD i 0) d ≤ _
    rw [temps_get temps d hd8]
    exact h d hd8

theorem thermal_cool (s : State) (temps : List Int) (ht : ∀ d < 8, tget s.power.tripped d = false) (hr : s.boot.released = true)
    (hq : s.boot.qualified = true → powerGood s = true) (h1 : ∀ d < 7, temps.getD d 0 + 3 ≤ (dieLimits d).1.getD 0)
    (h2 : temps.getD 7 0 ≤ 115) (h3 : s.power.thermalThrottled = false) :
    thermalSample s temps = s.modPower fun p => { p with temps := Vector.ofFn fun i : Fin 8 => temps.getD i 0 } := by
  have h : ∀ d < 8, temps.getD d 0 ≤ (dieLimits d).2.1 := by
    intro d hd
    by_cases h7 : d = 7
    · subst h7; exact h2
    · have := h1 d (by omega)
      interval_cases d <;> simp [dieLimits] at this ⊢ <;> omega
  have hu := thermal_untripped s temps ht hq h
  unfold thermalSample
  simp only [hu]
  rw [if_neg (by simp [hr]), if_neg, if_neg (by simp [h3])]
  rw [Bool.not_eq_true, List.any_eq_false]
  intro d hd
  have hd8 : d < 8 := by simpa using hd
  show ¬ (match (dieLimits d).1 with
      | some l => decide (l < tget (Vector.ofFn fun i : Fin 8 => temps.getD i 0) d + 0)
      | none => false) = true
  rw [temps_get temps d hd8]
  by_cases h7 : d = 7
  · subst h7; simp [dieLimits]
  · have := h1 d (by omega)
    interval_cases d <;> simp [dieLimits] at this ⊢ <;> omega

theorem thermal_hot (s : State) (temps : List Int) (ht : ∀ d < 8, tget s.power.tripped d = false) (hr : s.boot.released = true)
    (hq : s.boot.qualified = true → powerGood s = true) (h1 : ∀ d < 8, temps.getD d 0 ≤ (dieLimits d).2.1)
    (h2 : ∃ d < 7, (dieLimits d).1.getD 0 < temps.getD d 0) :
    (thermalSample s temps).power.thermalThrottled = true ∧
      (thermalSample s temps).power.clocks = (s.power.clocks.map fun c => max 25 (c - 25)) ∧ OnlyParts [.power, .dl, .out] s (thermalSample s temps) := by
  have hu := thermal_untripped s temps ht hq h1
  have e : thermalSample s temps = stepClocks ((s.modPower fun p => { p with temps := Vector.ofFn fun i : Fin 8 => temps.getD i 0 }).modPower
      fun p => { p with thermalThrottled := true }) false := by
    unfold thermalSample
    simp only [hu]
    rw [if_neg (by simp [hr]), if_pos]
    rw [List.any_eq_true]
    obtain ⟨d, hd, hl⟩ := h2
    refine ⟨d, by simp; omega, ?_⟩
    show (match (dieLimits d).1 with
      | some l => decide (l < tget (Vector.ofFn fun i : Fin 8 => temps.getD i 0) d + 0)
      | none => false) = true
    rw [temps_get temps d (by omega)]
    interval_cases d <;> simp [dieLimits] at hl ⊢ <;> omega
  rw [e]
  clear e hu
  generalize (Vector.ofFn fun i : Fin 8 => temps.getD i 0) = T
  rw [(stepClocks_fields _ _).2.2.2.2, (stepClocks_fields _ _).1]
  exact ⟨rfl, rfl, (stepClocks_moves _ false (State.modPower_moves _ _ (State.modPower_moves s _ (Moves.refl 131208 s) rfl) rfl) rfl).only (by intro p; cases p <;> decide)⟩

end Sys2Proof
end

