-- ==== Sys2Proof/Laws/FxMgmt2.lean ====
section
/-! SUPPORT. Events, alerts and effecters of management. -/

set_option linter.unusedSimpArgs false
set_option linter.unusedVariables false

namespace Sys2Proof

open Machine

/-- Of the management endpoint only what a raised record touches differs: the queue, its counts, and the alert causes' bit 10. -/
theorem push_alerts (s : State) (e : MgmtEvent) {k : Nat} (hk : k ≠ 10) : (mgmtPush s e).mgmt.alerts.testBit k = s.mgmt.alerts.testBit k := by
  unfold mgmtPush
  split
  · rfl
  · dsimp only
    rw [drivePins_mgmt]
    show (s.mgmt.alerts ||| 2 ^ 10).testBit k = _
    rw [Nat.testBit_or, Nat.testBit_two_pow_of_ne (Ne.symm hk), Bool.or_false]

theorem oem_alerts (s : State) (t c : Nat) (b : List Byte) {k : Nat} (hk : k ≠ 10) : (mgmtOem s t c b).mgmt.alerts.testBit k = s.mgmt.alerts.testBit k := by
  unfold mgmtOem
  dsimp only
  rw [push_alerts _ _ hk]; rfl

theorem clear_alerts (s : State) (b : Nat) {k : Nat} (hk : k ≠ 10) : (alertClear s b).mgmt.alerts.testBit k =
    (s.mgmt.alerts.testBit k && !(decide (k = b))) := by
  unfold alertClear
  split
  · rename_i h
    dsimp only
    rw [oem_alerts _ _ _ _ hk, drivePins_mgmt]
    show (s.mgmt.alerts ^^^ 2 ^ b).testBit k = _
    rw [Nat.testBit_xor]
    by_cases e : k = b
    · subst e; rw [h, Nat.testBit_two_pow_self]; simp
    · rw [Nat.testBit_two_pow_of_ne (Ne.symm e)]; simp [e]
  · rename_i h
    by_cases e : k = b
    · subst e; simp at h; simp [h]
    · simp [e]

theorem alertClear_mgmt (s : State) (b : Nat) : OnlyParts [.out, .mgmt] s (alertClear s b) :=
  (alertClear_moves s b (Moves.refl 262152 s) rfl).only (by intro p; cases p <;> decide)

theorem blocked_congr {s t : State} (h : OnlyParts [.out, .mgmt] s t) (b : Nat) : alertBlocked t b = alertBlocked s b := by
  have e1 : t.boot = s.boot := h .boot (by decide)
  have e2 : t.redeal = s.redeal := h .redeal (by decide)
  have e3 : t.beat = s.beat := h .beat (by decide)
  have e4 : t.power = s.power := h .power (by decide)
  have e5 : t.ecc = s.ecc := h .ecc (by decide)
  have e6 : t.fences = s.fences := h .fences (by decide)
  have e7 : t.link = s.link := h .link (by decide)
  unfold alertBlocked fencedCount unitOf eccBad State.port
  rw [e1, e2, e3, e4, e5, e6, e7]

theorem ack_fold (v : Nat) (s0 : State) (l : List Nat) {k : Nat} (hk : k ≠ 10) (s : State) (hs : OnlyParts [.out, .mgmt] s0 s) :
    (l.foldl (fun s b => if v.testBit b && !alertBlocked s b then alertClear s b else s) s).mgmt.alerts.testBit k =
      (s.mgmt.alerts.testBit k && !(decide (k ∈ l) && v.testBit k && !alertBlocked s0 k)) ∧
    OnlyParts [.out, .mgmt] s0 (l.foldl (fun s b => if v.testBit b && !alertBlocked s b then alertClear s b else s) s) := by
  induction l generalizing s with
  | nil => exact ⟨by simp, hs⟩
  | cons b l ih =>
    rw [List.foldl_cons]
    have hb : OnlyParts [.out, .mgmt] s0 (if v.testBit b && !alertBlocked s b then alertClear s b else s) := by
      split
      · exact hs.trans (alertClear_mgmt s b)
      · exact hs
    obtain ⟨a1, a2⟩ := ih _ hb
    refine ⟨?_, a2⟩
    rw [a1, blocked_congr hs]
    by_cases e : k = b
    · subst e
      by_cases c : (v.testBit k && !alertBlocked s0 k) = true
      · rw [if_pos c, clear_alerts _ _ hk]
        simp only [Bool.and_eq_true, Bool.not_eq_true'] at c
        simp [c]
      · rw [if_neg c]
        simp only [Bool.not_eq_true] at c
        simp only [Bool.and_assoc, c, Bool.and_false, Bool.not_false]
    · have : (if (v.testBit b && !alertBlocked s0 b) = true then alertClear s b else s).mgmt.alerts.testBit k = s.mgmt.alerts.testBit k := by
        split
        · rw [clear_alerts _ _ hk]; simp [e]
        · rfl
      rw [this]
      simp [e]
theorem setDev_booting (s : State) (d : DevState) (c : Nat) : (setDev s d c).boot.dev = d ∧ (setDev s d c).boot.img = s.boot.img := by
  unfold setDev
  dsimp only
  split
  · rename_i h; exact ⟨h, rfl⟩
  · split <;> simp

end Sys2Proof
end

