-- ==== Sys2Proof/Laws/FxReset.lean ====
section
/-! SUPPORT. Releases and resets of claims: what becomes of their items. -/

set_option linter.unusedSimpArgs false
set_option linter.unusedVariables false

namespace Sys2Proof

open Machine

theorem claim_ge (s : State) {n : Nat} (h : 8 ≤ n) : s.claim n = default := by simp [State.claim, tget, Nat.not_lt.2 h]

theorem active_lt {s : State} {n : Nat} (h : (s.claim n).st ≠ .free) : n < 8 := by
  rcases Nat.lt_or_ge n 8 with h8 | h8
  · exact h8
  · rw [claim_ge s h8] at h; exact absurd rfl h

theorem find_filter_key (l : List Item) (a b x y : Nat) :
    (l.filter fun j => !(j.shoe == x && j.seq == y)).find? (fun i => i.shoe == a && i.seq == b) =
      if a = x ∧ b = y then none else l.find? (fun i => i.shoe == a && i.seq == b) := by
  induction l with
  | nil => simp
  | cons i l ih =>
    rw [List.filter_cons, List.find?_cons]
    by_cases h1 : i.shoe = x ∧ i.seq = y
    · obtain ⟨rfl, rfl⟩ := h1
      simp only [beq_self_eq_true, Bool.and_self, Bool.not_true, Bool.false_eq_true, if_false]
      rw [ih]
      split
      · rfl
      · rename_i h2
        have : (i.shoe == a && i.seq == b) = false := by
          rw [Bool.and_eq_false_iff]
          by_cases e : i.shoe = a
          · right; simp only [beq_eq_false_iff_ne]; exact fun e2 => h2 ⟨e.symm, e2.symm⟩
          · left; simpa using e
        rw [this]
    · have h2 : (i.shoe == x && i.seq == y) = false := by
        rw [Bool.eq_false_iff]; intro h; exact h1 (by simpa using h)
      rw [h2]
      simp only [Bool.not_false, if_true, List.find?_cons]
      by_cases h3 : (i.shoe == a && i.seq == b) = true
      · rw [h3]
        rw [if_neg]
        rintro ⟨rfl, rfl⟩
        exact h1 (by simpa using h3)
      · rw [Bool.eq_false_iff.2 h3]
        exact ih

/-- Of the ledger only items of one shoe may have left. -/
def OnlyLeft (s t : State) (n : Nat) : Prop := ∀ a b, findItem t a b = findItem s a b ∨ (a = n ∧ findItem t a b = none)

theorem OnlyLeft.of_items {s t : State} (n : Nat) (h : t.dl.items = s.dl.items) : OnlyLeft s t n := fun a b => .inl (findItem_congr h a b)

theorem OnlyLeft.trans {s t u : State} {n : Nat} (h : OnlyLeft s t n) (k : OnlyLeft t u n) : OnlyLeft s u n := by
  intro a b
  rcases k a b with e | e
  · rw [e]; exact h a b
  · exact .inr e

theorem OnlyLeft.ne {s t : State} {n : Nat} (h : OnlyLeft s t n) {a : Nat} (ha : a ≠ n) (b : Nat) : findItem t a b = findItem s a b := by
  rcases h a b with e | e
  · exact e
  · exact absurd e.1 ha

theorem writeSheet_items (s : State) (n : Nat) (i : Item) : (writeSheet s n i).dl.items = s.dl.items := by
  unfold writeSheet
  dsimp only
  split
  · rw [raiseSource_dl]; simp [State.modShoe, State.modDl]
  · simp [State.modShoe, State.modDl]

theorem reportItems_left (n : Nat) (k : Nat) (s : State) (hi j : Nat) (q : Bool) : OnlyLeft s (reportItems n k s hi j q).1 n := by
  induction k generalizing s hi j q with
  | zero => exact .of_items _ rfl
  | succ k ih =>
    unfold reportItems
    split
    · exact .of_items _ rfl
    · split
      · exact .of_items _ rfl
      · rename_i i rest hj hf
        refine OnlyLeft.trans ?_ (ih _ _ _ _)
        refine OnlyLeft.trans (t := if recordDue i then writeSheet s n i else s) (.of_items _ ?_) ?_
        · split
          · exact writeSheet_items _ _ _
          · rfl
        · intro a b
          show List.find? _ (List.filter _ _) = _ ∨ _ ∧ List.find? _ (List.filter _ _) = _
          rw [find_filter_key]
          split
          · rename_i h; exact .inr ⟨h.1, rfl⟩
          · exact .inl rfl

/-- A fixed success of shoe n is RESOLVED (Table 6.1). -/
def settleOne (n : Nat) (i : Item) : Item := if i.shoe = n ∧ i.st = .committed then { i with st := .resolved } else i

theorem findItem_fixOutcomes (s : State) (n a b : Nat) : findItem (fixOutcomes s n) a b = (findItem s a b).map (settleOne n) := by
  show List.find? _ (List.map (settleOne n) _) = _
  rw [List.find?_map]
  unfold findItem
  congr 1
  congr 1
  funext i
  show ((settleOne n i).shoe == a && (settleOne n i).seq == b) = _
  unfold settleOne
  split <;> rfl

/-- Writing a shoe's outcomes lets items of it leave, and no other change comes to an item than that a fixed success is RESOLVED. -/
theorem writeOutcomes_left (s : State) (n : Nat) : OnlyLeft (fixOutcomes s n) (writeOutcomes s n) n := by
  have h := reportItems_left n ((itemsOf (fixOutcomes s n) n).length + 1) (fixOutcomes s n) 0 0 false
  rcases writeOutcomes_shape s n with e | e | ⟨v, e⟩ <;> rw [e]
  · exact .of_items _ rfl
  · exact h
  · refine h.trans (.of_items _ ?_)
    rw [updateLedgerFull_dl, moderate_items, writeScore_items]

theorem failItem_fixed {s : State} {n q : Nat} {i : Item} (h : findItem s n q = some i) (hf : i.fixed = true) (o : Outcome) :
    failItem s n q o = s := by
  unfold failItem; simp only [h, hf, if_true]

theorem openOutcome_fails (i : Item) (c d : Nat) : (openOutcome i c d).failed = true ∧ (openOutcome i c d).cause = c := by
  unfold openOutcome
  split
  · exact ⟨rfl, rfl⟩
  · split <;> exact ⟨rfl, rfl⟩

/-- One item of `resolveShoe`. -/
def resolveOne (n cause : Nat) (s : State) (i : Item) : State :=
  match i.st with
  | .resolved => s
  | .committed => s.modItem n i.seq fun i => { i with st := .resolved }
  | _ => failItem s n i.seq (openOutcome i cause 0)

theorem resolveOne_others (n cause : Nat) (s : State) (i : Item) : othersStay s (resolveOne n cause s i) n i.seq := by
  unfold resolveOne
  split
  · exact .refl _ _ _
  · exact .modItem _ fun _ => ⟨rfl, rfl⟩
  · exact others_failItem _ _ _ _

theorem modItem_self {s : State} {n q : Nat} {f : Item → Item} (hk : ∀ i, (f i).shoe = i.shoe ∧ (f i).seq = i.seq) :
    findItem (s.modItem n q f) n q = (findItem s n q).map f := by
  rw [findItem_modItem hk, if_pos ⟨rfl, rfl⟩]

theorem resolveOne_done {n cause : Nat} {s : State} {q : Nat} {j : Item} (h : findItem s n q = some j) (hj : j.st = .resolved) (i : Item) :
    findItem (resolveOne n cause s i) n q = some j := by
  by_cases hq : q = i.seq
  · subst hq
    unfold resolveOne
    split
    · exact h
    · rw [modItem_self (f := fun i => { i with st := .resolved }) fun _ => ⟨rfl, rfl⟩, h]
      show some { j with st := .resolved } = some j
      rw [← hj]
    · rw [failItem_fixed h (by simp [Item.fixed, hj]), h]
  · rw [resolveOne_others n cause s i n q (.inr hq), h]

theorem resolveShoe_fold (n cause : Nat) (s : State) : resolveShoe s n cause = (itemsOf s n).foldl (resolveOne n cause) s := rfl

theorem resolveFold_done {n cause q : Nat} {j : Item} (l : List Item) (s : State) (h : findItem s n q = some j) (hj : j.st = .resolved) :
    findItem (l.foldl (resolveOne n cause) s) n q = some j := by
  induction l generalizing s with
  | nil => exact h
  | cons x l ih => exact ih _ (resolveOne_done h hj x)

theorem resolveOne_self {n cause : Nat} {s : State} {j : Item} (h : findItem s n j.seq = some j) :
    ∃ k, findItem (resolveOne n cause s j) n j.seq = some k ∧ (j.st = .resolved → k = j) ∧ (j.st ≠ .resolved → resolvedAs cause j k) ∧ k.st = .resolved := by
  unfold resolveOne
  split
  · rename_i hs; exact ⟨j, h, fun _ => rfl, fun e => absurd hs e, hs⟩
  · rename_i hs
    exact ⟨{ j with st := .resolved }, by rw [modItem_self (f := fun i => { i with st := .resolved }) fun _ => ⟨rfl, rfl⟩, h]; rfl, fun e => (nomatch hs.symm.trans e), fun _ => ⟨rfl, fun _ => rfl, fun e => absurd hs e⟩, rfl⟩
  · rename_i h1 h2
    have hf : j.fixed = false := by
      unfold Item.fixed
      simp only [Bool.or_eq_false_iff, decide_eq_false_iff_not]
      exact ⟨h2, h1⟩
    exact ⟨_, findItem_failItem _ h hf, fun e => absurd e h1, fun _ => ⟨rfl, fun e => absurd e h2, fun _ => openOutcome_fails _ _ _⟩, rfl⟩

theorem resolveFold_find {n cause q : Nat} {j : Item} (l : List Item) (s : State) (h : findItem s n q = some j)
    (hl : l.find? (fun i => i.seq == q) = some j) :
    ∃ k, findItem (l.foldl (resolveOne n cause) s) n q = some k ∧ (j.st = .resolved → k = j) ∧ (j.st ≠ .resolved → resolvedAs cause j k) ∧ k.st = .resolved := by
  induction l generalizing s with
  | nil => cases hl
  | cons x l ih =>
    rw [List.find?_cons] at hl
    by_cases hx : x.seq = q
    · simp only [hx, beq_self_eq_true] at hl
      cases hl
      subst hx
      obtain ⟨k, k1, k2, k3, k4⟩ := resolveOne_self (cause := cause) h
      exact ⟨k, resolveFold_done l _ k1 k4, k2, k3, k4⟩
    · have : (x.seq == q) = false := by simpa using hx
      rw [this] at hl
      exact ih _ ((resolveOne_others n cause s x n q (.inr (Ne.symm hx))).trans h) hl

theorem find_in_shoe (l : List Item) (n q : Nat) : (l.filter fun i => i.shoe == n).find? (fun i => i.seq == q) =
    l.find? (fun i => i.shoe == n && i.seq == q) := by
  rw [List.find?_filter]
  congr 1; funext a; simp [Bool.beq_eq_decide_eq]

theorem resolveShoe_find {s : State} {n q : Nat} {j : Item} (cause : Nat) (h : findItem s n q = some j) :
    ∃ k, findItem (resolveShoe s n cause) n q = some k ∧ (j.st = .resolved → k = j) ∧ (j.st ≠ .resolved → resolvedAs cause j k) ∧ k.st = .resolved := by
  rw [resolveShoe_fold]
  refine resolveFold_find _ s h ?_
  unfold itemsOf
  rw [find_in_shoe]
  exact h

theorem resolveShoe_ne (s : State) {n a : Nat} (cause : Nat) (ha : a ≠ n) (b : Nat) : findItem (resolveShoe s n cause) a b = findItem s a b := by
  rw [resolveShoe_fold]
  generalize itemsOf s n = l
  induction l generalizing s with
  | nil => rfl
  | cons x l ih => rw [List.foldl_cons, ih, resolveOne_others n cause s x a b (.inl ha)]

theorem resolveShoe_cl (s : State) (n cause : Nat) : (resolveShoe s n cause).cl = s.cl :=
  (resolveShoe_moves s n cause (Moves.refl 128 s) rfl).rest .cl rfl

theorem resumeClaim_items (s : State) (n : Nat) : OnlyParts [.dl, .dbg, .sync] s (resumeClaim s n) :=
  (resumeClaim_moves s n (Moves.refl 66176 s) rfl).only (by intro p; cases p <;> decide)
theorem levelOf_of_find {s t : State} {a b : Nat} (h : findItem t a b = findItem s a b) (l : Nat) : levelOf t a b l = levelOf s a b l := by
  rw [levelOf, levelOf, h]

theorem endGrant_items (s : State) (n : Nat) : (endGrant s n).dl.items = s.dl.items := by
  unfold endGrant
  split
  · dsimp only
    have h1 : ∀ u, (secEvent u 2 n 0).dl = u.dl := fun u => by
      rw [secEvent, (postSteward_moves _ _ _ _ (Moves.refl 263240 _) rfl).rest .dl rfl]
    have h2 : ∀ u x, (setSec u x).dl = u.dl := fun u x => (setSec_moves u x (Moves.refl 327688 u) rfl).rest .dl rfl
    rw [h1]
    split
    · rw [h2]; rfl
    · rfl
  · rfl

theorem writeOutcomes_claim_ne (s : State) {n m : Nat} (hm : m ≠ n) : (writeOutcomes s n).claim m = s.claim m := by
  have h1 : (reportItems n ((itemsOf (fixOutcomes s n) n).length + 1) (fixOutcomes s n) 0 0 false).1.cl = s.cl :=
    (reportItems_moves _ _ _ _ _ _ (Moves.refl 1160 _) rfl).rest .cl rfl
  rcases writeOutcomes_shape s n with e | e | ⟨v, e⟩ <;> rw [e]
  · rfl
  · exact claim_of_cl h1 m
  · rw [(updateLedgerFull_claim _ n m).2 hm]
    refine claim_of_cl ?_ m
    rw [(moderate_moves _ _ _ _ (Moves.refl 1160 _) rfl).rest .cl rfl, ← h1]
    exact (writeScore_moves _ _ _ (Moves.refl 1160 _) rfl).rest .cl rfl

theorem clearWindow_clear (s : State) {n : Nat} (hn : n < 8) : windowClear (clearWindow s n) n := by
  have hs : (clearWindow s n).shoe n = Shoe.clearRegs (s.shoe n) := by
    show tget (tmod s.dl.shoes n _) n = _; rw [tget_tmod_same _ _ (by omega)]; rfl
  have hr : (clearWindow s n).ring n = EvtRing.clearRegs (s.ring n) := by
    show tget (tmod s.cl.rings n _) n = _; rw [tget_tmod_same _ _ (by omega)]; rfl
  refine ⟨?_, ?_, ?_, (tget s.sync.claims n).declared, (tget s.sync.claims n).stalemateId, ?_⟩
  · rw [hs]; exact shoeClear_clearRegs _
  · show tget (tset s.cl.vectorMap n _) n = _; rw [tget_tset_same _ _ hn]
  · rw [hr]; exact ringClear_clearRegs _
  · show tget (tmod s.sync.claims n _) n = _; rw [tget_tmod_same _ _ hn]; rfl

theorem clearWindow_claim (s : State) (n m : Nat) : (clearWindow s n).claim m = s.claim m := rfl
theorem clearWindow_find (s : State) (n a b : Nat) : findItem (clearWindow s n) a b = findItem s a b := rfl

theorem windowClear.of {s t : State} {n : Nat} (h : windowClear s n) (h1 : t.dl.shoes = s.dl.shoes) (h2 : t.cl.vectorMap = s.cl.vectorMap)
    (h3 : t.cl.rings = s.cl.rings) (h4 : t.sync.claims = s.sync.claims) : windowClear t n := by
  unfold windowClear State.shoe State.ring at *
  rw [h1, h2, h3, h4]; exact h

theorem items_drop (s : State) (n : Nat) : itemsOf (s.modDl fun d => { d with items := d.items.filter fun i => i.shoe != n }) n = [] := by
  show List.filter _ (List.filter _ _) = []
  rw [List.filter_filter, List.filter_eq_nil_iff]
  intro i _
  by_cases h : i.shoe = n <;> simp [h]

theorem items_drop_ne (s : State) {n a : Nat} (ha : a ≠ n) (b : Nat) :
    findItem (s.modDl fun d => { d with items := d.items.filter fun i => i.shoe != n }) a b = findItem s a b := by
  show List.find? _ (List.filter _ _) = _
  rw [List.find?_filter]
  unfold findItem
  congr 1
  funext i
  by_cases h : i.shoe = a
  · simp [h, ha, Bool.beq_eq_decide_eq]
  · simp [h]

theorem evictCharge_keys (s : State) (n p : Nat) : (evictCharge s n p).tiers.keys = s.tiers.keys := by
  have hm : ∀ (u : State) t q f, (u.modPte t q f).tiers.keys = u.tiers.keys := by
    intro u t q f; unfold State.modPte; split <;> rfl
  have hd : ∀ (u : State) t q c w, (startDemotion u t q c w).1.tiers.keys = u.tiers.keys := by
    intro u t q c w
    unfold startDemotion
    split
    · unfold clearNeeded
      dsimp only
      rw [(postEvent_moves _ _ _ _ _ (Moves.refl 1096 _) rfl).rest .tiers rfl]
      show (if _ then _ else _ : Tiers).keys = _
      split <;> rfl
    · dsimp only; rw [hm]; rfl
  unfold evictCharge commonSettle
  dsimp only
  split
  · split
    · rw [hm]
    · rw [hd, hm]
  · rw [hm]

theorem foreignPages_keys (s : State) {n : Nat} (hn : n < 8) : tget (foreignPages s n).tiers.keys n = none := by
  unfold foreignPages
  dsimp only
  have : ∀ (l : List Nat) (u : State), (l.foldl (fun s p => evictCharge s n p) u).tiers.keys = u.tiers.keys := by
    intro l
    induction l with
    | nil => intro u; rfl
    | cons x l ih => intro u; rw [List.foldl_cons, ih, evictCharge_keys]
  rw [this]
  show tget (tset _ n none) n = none
  exact tget_tset_same _ _ (by omega)

/-- What a function-level reset does after the claim's report. -/
theorem resetTail (w : State) (n : Nat) :
    (∀ m, ((clearRegions (qpsErr (failRoundsOf (poisonClaimTallies (resolveShoe w n 0x0704) n) n 0x0704) n) n).modDl fun d =>
      { d with items := d.items.filter fun i => i.shoe != n }).claim m = w.claim m) ∧
    itemsOf ((clearRegions (qpsErr (failRoundsOf (poisonClaimTallies (resolveShoe w n 0x0704) n) n 0x0704) n) n).modDl fun d =>
      { d with items := d.items.filter fun i => i.shoe != n }) n = [] := by
  refine ⟨fun m => claim_of_cl ?_ m, items_drop _ n⟩
  rw [State.modDl_cl, (clearRegions_moves _ n (Moves.refl 1048576 _) rfl).rest .cl rfl, (qpsErr_moves _ n (Moves.refl 1099400 _) rfl).rest .cl rfl,
    (failRoundsOf_moves _ n _ (Moves.refl 51080 _) rfl).rest .cl rfl, (poisonClaimTallies_moves _ n (Moves.refl 50824 _) rfl).rest .cl rfl, resolveShoe_cl]

theorem functionReset_claim (s : State) {n : Nat} (hn : n < 8) :
    ((s.claim n).st = .active → ((functionReset s n).claim n).st = .resetting ∧ itemsOf (functionReset s n) n = []) ∧
    ((s.claim n).st ≠ .active → (functionReset s n).claim n = s.claim n) ∧ (∀ m, m ≠ n → (functionReset s n).claim m = s.claim m) ∧
    (functionReset s n).pcie = s.pcie := by
  have h0 : ∀ m, (endGrant (s.modFn (n + 1) fun f => f.reset true) n).claim m = s.claim m := fun m => by rw [endGrant_claim]; rfl
  have hp : (functionReset s n).pcie = s.pcie := (functionReset_moves s n (Moves.refl 1427400 s) rfl).rest .pcie rfl
  unfold functionReset at hp ⊢
  dsimp only at hp ⊢
  generalize (endGrant (s.modFn (n + 1) fun f => f.reset true) n) = u at h0 hp ⊢
  refine ⟨fun ha => ?_, fun ha => ?_, fun m hm => ?_, hp⟩
  · rw [h0, ha]
    dsimp only
    generalize hw : (u.modClaim n fun c => { c with st := .resetting, ledgerFull := false }.withReport (resetReport (openItems u n))) = w
    have hwc : (w.claim n).st = .resetting := by rw [← hw, claim_modClaim_same _ _ hn]; rfl
    obtain ⟨k1, k2⟩ := resetTail w n
    exact ⟨by rw [postEvent_claim, k1]; exact hwc, by rw [itemsOf, postEvent_dl]; exact k2⟩
  · rw [h0 n]
    generalize hst : (s.claim n).st = st at ha
    cases st with
    | active => exact absurd rfl ha
    | resetting => exact h0 n
    | free => exact (clearWindow_claim u n n).trans (h0 n)
    | releasing => exact (clearWindow_claim u n n).trans (h0 n)
  · generalize hst : (u.claim n).st = st
    cases st with
    | active =>
      dsimp only
      rw [postEvent_claim, (resetTail _ n).1, claim_modClaim_ne _ _ (Ne.symm hm), h0]
    | resetting => exact h0 m
    | free => exact (clearWindow_claim u n m).trans (h0 m)
    | releasing => exact (clearWindow_claim u n m).trans (h0 m)

end Sys2Proof
end

