-- ==== Sys2Proof/Laws/FxPcie.lean ====
section
/-! SUPPORT. The PCIe endpoint: training, resets, enables, MSI-X and errors. -/

set_option linter.unusedSimpArgs false
set_option linter.unusedVariables false

namespace Sys2Proof

open Machine

theorem flushOne (s : State) {fn v : Nat} (hf : fn < 9) (hv : v < 64)
    (ha : (canIssue s fn && (tget s.fns fn).msixEnable && !(tget s.fns fn).msixMask) = true) :
    let t := (s.modFn fn fun f => { f with vecs := tmod f.vecs v fun x => { x with pending := false } }).emit (.msix fn v)
    (tget t.fns fn) = { tget s.fns fn with vecs := tmod (tget s.fns fn).vecs v fun x => { x with pending := false } } ∧
      (canIssue t fn && (tget t.fns fn).msixEnable && !(tget t.fns fn).msixMask) = true ∧ (∀ k, k ≠ fn → tget t.fns k = tget s.fns k) ∧ OnlyParts [.fns, .out] s t := by
  have h1 : tget ((s.modFn fn fun f => { f with vecs := tmod f.vecs v fun x => { x with pending := false } }).emit (.msix fn v)).fns fn =
      { tget s.fns fn with vecs := tmod (tget s.fns fn).vecs v fun x => { x with pending := false } } := tget_tmod_same _ _ hf
  refine ⟨h1, ?_, fun k hk => tget_tmod_ne _ _ (Ne.symm hk), ?_⟩
  · unfold canIssue at ha ⊢
    dsimp only
    rw [h1]; exact ha
  · intro p hp; cases p <;> first | exact absurd (by decide) hp | rfl

theorem msixFlush_spec (s : State) {fn : Nat} (hf : fn < 9) : msixSent s (msixFlush s fn) fn := by
  unfold msixSent msixFlush
  dsimp only
  refine ⟨fun h => ?_, fun h => ?_⟩
  · generalize List.range 64 = l
    induction l with
    | nil => rfl
    | cons v l ih =>
      rw [List.foldl_cons, if_neg, ih]
      intro hc
      simp only [Bool.and_eq_true] at hc
      rw [Bool.eq_false_iff] at h
      exact h (by simp only [Bool.and_eq_true]; exact ⟨⟨hc.1.1.1.2, hc.1.1.2⟩, hc.1.2⟩)
  · have key : ∀ (l : List Nat) (u : State), l.Nodup → (∀ v ∈ l, v < 64) → (canIssue u fn && (tget u.fns fn).msixEnable && !(tget u.fns fn).msixMask) = true →
        let t := l.foldl (fun s v => if (tget (tget s.fns fn).vecs v).pending && canIssue s fn && (tget s.fns fn).msixEnable && !(tget s.fns fn).msixMask && !(tget (tget s.fns fn).vecs v).masked
          then (s.modFn fn fun f => { f with vecs := tmod f.vecs v fun x => { x with pending := false } }).emit (.msix fn v) else s) u
        OnlyParts [.fns, .out] u t ∧ t.out = u.out ++ (l.filter (msixReady u fn)).map (.msix fn) ∧
        (∀ k, k ≠ fn → tget t.fns k = tget u.fns k) ∧ { tget t.fns fn with vecs := (tget u.fns fn).vecs } = tget u.fns fn ∧
        ∀ v, tget (tget t.fns fn).vecs v = (if v ∈ l ∧ msixReady u fn v = true then { tget (tget u.fns fn).vecs v with pending := false } else tget (tget u.fns fn).vecs v) := by
      intro l
      induction l with
      | nil => intro u _ _ _; exact ⟨fun p _ => by cases p <;> rfl, by simp, fun _ _ => rfl, rfl, fun v => by simp⟩
      | cons v l ih =>
        intro u hnd hb ha
        rw [List.nodup_cons] at hnd
        have hv := hb v (by simp)
        have ha' := ha
        simp only [Bool.and_eq_true] at ha'
        rw [List.foldl_cons]
        by_cases hr : msixReady u fn v = true
        · have hr' := hr
          simp only [msixReady, Bool.and_eq_true] at hr'
          rw [if_pos (by simp only [Bool.and_eq_true]; exact ⟨⟨⟨⟨hr'.1, ha'.1.1⟩, ha'.1.2⟩, ha'.2⟩, hr'.2⟩)]
          obtain ⟨f1, f2, f3, f4⟩ := flushOne u hf hv ha
          have hrd : ∀ x, x ≠ v → msixReady ((u.modFn fn fun f => { f with vecs := tmod f.vecs v fun x => { x with pending := false } }).emit (.msix fn v)) fn x = msixReady u fn x := by
            intro x hx
            unfold msixReady
            rw [f1]
            dsimp only
            rw [tget_tmod_ne _ _ (Ne.symm hx)]
          have hout : ((u.modFn fn fun f => { f with vecs := tmod f.vecs v fun x => { x with pending := false } }).emit (.msix fn v)).out = u.out ++ [.msix fn v] := rfl
          generalize (u.modFn fn fun f => { f with vecs := tmod f.vecs v fun x => { x with pending := false } }).emit (.msix fn v) = w at f1 f2 f3 f4 hrd hout
          obtain ⟨i1, i2, i3, i4, i5⟩ := ih w hnd.2 (fun y hy => hb y (List.mem_cons_of_mem _ hy)) f2
          have hfl : l.filter (msixReady w fn) = l.filter (msixReady u fn) := by
            apply List.filter_congr
            intro x hx
            exact hrd x (fun e => hnd.1 (e ▸ hx))
          refine ⟨f4.trans i1, ?_, fun k hk => (i3 k hk).trans (f3 k hk), ?_, fun x => ?_⟩
          · rw [i2, hout, hfl, List.filter_cons, if_pos hr, List.map_cons, List.append_assoc]; rfl
          · generalize (l.foldl _ w) = t at i4
            rw [f1] at i4
            have := congrArg (fun g : Fn => { g with vecs := (tget u.fns fn).vecs }) i4
            exact this
          · rw [i5 x]
            by_cases hx : x = v
            · subst hx
              rw [if_neg (fun h => hnd.1 h.1), if_pos ⟨by simp, hr⟩, f1]
              exact tget_tmod_same _ _ hv
            · rw [hrd x hx, f1]
              dsimp only
              rw [tget_tmod_ne _ _ (Ne.symm hx)]
              simp only [List.mem_cons, hx, false_or]
        · rw [if_neg (by
            intro hc
            simp only [Bool.and_eq_true] at hc
            exact hr (by simp only [msixReady, Bool.and_eq_true]; exact ⟨hc.1.1.1.1, hc.2⟩))]
          obtain ⟨i1, i2, i3, i4, i5⟩ := ih u hnd.2 (fun y hy => hb y (List.mem_cons_of_mem _ hy)) ha
          refine ⟨i1, ?_, i3, i4, fun x => ?_⟩
          · rw [i2, List.filter_cons, if_neg hr]
          · rw [i5 x]
            by_cases hx : x = v
            · subst hx
              rw [if_neg (fun h => hr h.2), if_neg (fun h => hr h.2)]
            · simp only [List.mem_cons, hx, false_or]
    obtain ⟨a, b, c, d, e⟩ := key (List.range 64) s List.nodup_range (fun v hv => by simpa using hv) h
    exact ⟨a, b, c, d, fun v hv => by rw [e v]; simp [hv]⟩

theorem enables_spec (s : State) {fn : Nat} (hf : fn < 9) (f : Fn → Fn) (r : HostResp) (feeds : List (Nat × HostResp × HostResp)) :
    enablesChange s (requestsChange s fn f r feeds) fn f r feeds := by
  unfold enablesChange requestsChange
  dsimp only
  refine ⟨fun h => ?_, fun h1 h2 => ?_⟩
  · rw [if_neg (by rcases h with h | h <;> simp [h])]; exact msixFlush_spec _ hf
  · rw [if_pos (show (canIssue (s.modFn fn f) fn && !canIssue s fn) = true by simp [h1, h2])]; exact msixFlush_spec _ hf

theorem resolveShoe_all (s : State) (n cause : Nat) : ∀ q j, findItem (resolveShoe s n cause) n q = some j → j.st = .resolved := by
  intro q j hj
  cases hf : findItem s n q with
  | some i =>
    obtain ⟨k, k1, -, -, k4⟩ := resolveShoe_find cause hf
    rw [k1] at hj; cases hj; exact k4
  | none =>
    exfalso
    have hl : ∀ i ∈ itemsOf s n, i.seq ≠ q := by
      intro i hi he
      unfold itemsOf at hi
      obtain ⟨h1, h2⟩ := List.mem_filter.1 hi
      unfold findItem at hf
      rw [List.find?_eq_none] at hf
      exact hf i h1 (by simp at h2; simp [h2, he])
    have : findItem (resolveShoe s n cause) n q = none := by
      rw [resolveShoe_fold]
      generalize itemsOf s n = l at hl
      have : ∀ (l : List Item) (u : State), (∀ i ∈ l, i.seq ≠ q) → findItem (l.foldl (resolveOne n cause) u) n q = findItem u n q := by
        intro l
        induction l with
        | nil => intro u _; rfl
        | cons x l ih =>
          intro u h
          rw [List.foldl_cons, ih _ (fun i hi => h i (List.mem_cons_of_mem _ hi)), resolveOne_others n cause u x n q (.inr (Ne.symm (h x (by simp))))]
      rw [this l s hl, hf]
    rw [this] at hj; cases hj

theorem pfReset_spec (s : State) : pfResets s (pfReset s) ∧ (pfReset s).pcie.linkUp = s.pcie.linkUp := by
  have hm : (pfReset s).boot = s.boot ∧ (pfReset s).beat = s.beat ∧ (pfReset s).redeal = s.redeal := by
    have := pfReset_moves s (Moves.refl 1951688 s) rfl
    exact ⟨this.rest .boot rfl, this.rest .beat rfl, this.rest .redeal rfl⟩
  unfold pfResets pfReset at *
  dsimp only at *
  generalize hs1 : ({ s with pcie := { s.pcie with vfEnable := false, numVfs := 0 } } : State) = s1 at *
  have c1 : ∀ m, s1.claim m = s.claim m := fun m => by rw [← hs1]; rfl
  have c2 : s1.pcie.vfEnable = false ∧ s1.pcie.numVfs = 0 := by rw [← hs1]; exact ⟨rfl, rfl⟩
  have c3 : s1.pcie.linkUp = s.pcie.linkUp := by rw [← hs1]
  have key : ∀ (l : List Nat) (u : State), l.Nodup → (∀ x ∈ l, x < 8) → (∀ m, m ∈ l → u.claim m = s.claim m) →
      let f := (fun (v : State) n => if (v.claim n).st ≠ .free then functionReset v n else v)
      (l.foldl f u).pcie = u.pcie ∧ (∀ m, m ∉ l → (l.foldl f u).claim m = u.claim m) ∧ ∀ m, m ∈ l →
        ((s.claim m).st = .active → ((l.foldl f u).claim m).st = .resetting) ∧ ((s.claim m).st ≠ .active → (l.foldl f u).claim m = s.claim m) := by
    intro l
    induction l with
    | nil => intro u _ _ _; exact ⟨rfl, fun _ _ => rfl, fun m hm => nomatch hm⟩
    | cons x l ih =>
      intro u hnd hb hu
      dsimp only
      rw [List.foldl_cons]
      have hx : x < 8 := hb x (by simp)
      rw [List.nodup_cons] at hnd
      have fr := functionReset_claim u hx
      generalize hw : (if (u.claim x).st ≠ .free then functionReset u x else u) = w
      have w1 : ∀ m, m ≠ x → w.claim m = u.claim m := by
        intro m hm; rw [← hw]; split
        · exact fr.2.2.1 m hm
        · rfl
      have w2 : w.pcie = u.pcie := by
        rw [← hw]; split
        · exact fr.2.2.2
        · rfl
      obtain ⟨i1, i2, i3⟩ := ih w hnd.2 (fun y hy => hb y (List.mem_cons_of_mem _ hy)) (fun m hm => by
        rw [w1 m (fun e => hnd.1 (e ▸ hm))]; exact hu m (List.mem_cons_of_mem _ hm))
      refine ⟨i1.trans w2, fun m hm => ?_, fun m hm => ?_⟩
      · rw [i2 m (fun h => hm (List.mem_cons_of_mem _ h)), w1 m (fun e => hm (by simp [e]))]
      · by_cases hmx : m = x
        · subst hmx
          have hus := hu m (by simp)
          refine ⟨fun ha => ?_, fun ha => ?_⟩
          · rw [i2 m hnd.1, ← hw, if_pos (by rw [hus, ha]; decide)]
            exact (fr.1 (by rw [hus]; exact ha)).1
          · rw [i2 m hnd.1, ← hw]
            split
            · rw [fr.2.1 (by rw [hus]; exact ha), hus]
            · exact hus
        · exact i3 m ((List.mem_cons.1 hm).resolve_left hmx)
  obtain ⟨k1, -, k3⟩ := key (List.range 8) s1 List.nodup_range (fun x hx => by simpa using hx) (fun m _ => c1 m)
  generalize (List.range 8).foldl (fun (v : State) n => if (v.claim n).st ≠ .free then functionReset v n else v) s1 = s2 at *
  have r1 : (resolveShoe s2 8 0x0706).pcie = s2.pcie := (resolveShoe_moves s2 8 _ (Moves.refl 128 s2) rfl).rest .pcie rfl
  have r2 : (resolveShoe s2 8 0x0706).cl = s2.cl := resolveShoe_cl _ _ _
  have r3 := resolveShoe_all s2 8 0x0706
  generalize resolveShoe s2 8 0x0706 = s3 at *
  refine ⟨⟨?_, ?_, fun n hn => ?_, fun q j hj => r3 q j hj, ?_, ?_, rfl, ?_, hm⟩, ?_⟩
  · show s3.pcie.vfEnable = _; rw [r1, k1]; exact c2.1
  · show s3.pcie.numVfs = _; rw [r1, k1]; exact c2.2
  · have hc : ((((s3.modShoe 8 Shoe.clearRegs).modCl fun c => { c with rings := tmod c.rings 8 EvtRing.clearRegs, stewardVectors := 0 }).modFn 0 fun _ => {})).claim n = s2.claim n := by
      show tget s3.cl.claims n = _
      rw [r2]; rfl
    rw [hc]; exact k3 n (by simpa using hn)
  · show shoeClear (tget (tmod s3.dl.shoes 8 Shoe.clearRegs) 8)
    rw [tget_tmod_same _ _ (by decide)]; exact shoeClear_clearRegs _
  · show ringClear (tget (tmod s3.cl.rings 8 EvtRing.clearRegs) 8)
    rw [tget_tmod_same _ _ (by decide)]; exact ringClear_clearRegs _
  · show tget (tmod s3.fns 0 _) 0 = {}
    rw [tget_tmod_same _ _ (by decide)]
  · show s3.pcie.linkUp = _; rw [r1, k1]; exact c3

theorem pfResets_pcie {s u : State} (p : Pcie) (h : pfResets s u) (h1 : p.vfEnable = false) (h2 : p.numVfs = 0) : pfResets s { u with pcie := p } := by
  obtain ⟨-, -, a3, a4, a5, a6, a7, a8, a9⟩ := h
  exact ⟨h1, h2, a3, a4, a5, a6, a7, a8, a9⟩

theorem pcieDown_spec (s : State) : pfResets s (pcieDown s) ∧ (pcieDown s).pcie.linkUp = false ∧ (pcieDown s).pcie.width = 0 := by
  have h := (pfReset_spec s).1
  unfold pcieDown
  generalize pfReset s = u at h
  exact ⟨pfResets_pcie _ h h.1 h.2.1, rfl, rfl⟩

end Sys2Proof
end

