-- ==== Sys2Proof/Laws/FxQp.lean ====
section
/-! SUPPORT. Queue pairs: their commands and doorbells. -/

set_option linter.unusedSimpArgs false
set_option linter.unusedVariables false

namespace Sys2Proof

open Machine

theorem qpsAlike.refl {α : Type} (π : Qp → α) (s : State) : qpsAlike π s s := rfl
theorem qpsAlike.trans {α : Type} {π : Qp → α} {s t u : State} (h : qpsAlike π s t) (k : qpsAlike π t u) : qpsAlike π s u := Eq.trans k h
theorem qpsAlike.of_qps {α : Type} (π : Qp → α) {s t : State} (h : t.net.qps = s.net.qps) : qpsAlike π s t := by unfold qpsAlike; rw [h]
theorem qpsAlike.of_net {α : Type} (π : Qp → α) {s t : State} (h : t.net = s.net) : qpsAlike π s t := .of_qps π (by rw [h])
theorem qpsAlike.modQp {α : Type} (π : Qp → α) (s : State) (c h : Nat) {f : Qp → Qp} (hf : ∀ q, π (f q) = π q) : qpsAlike π s (s.modQp c h f) := by
  show (s.net.qps.map _).map π = _
  rw [List.map_map]
  apply List.map_congr_left
  intro q _
  show π (if _ then _ else _) = _
  split
  · exact hf q
  · rfl
theorem qpsAlike.fixed {s t : State} (h : qpsAlike qpCore s t) : qpsAlike qpFixed s t := by
  have := congrArg (List.map qpFixed) h
  rw [List.map_map, List.map_map] at this
  exact this

theorem findQp_alike {α : Type} {π : Qp → α} (key : α → Nat × Nat) (hk : ∀ q, key (π q) = (q.claim, q.handle)) {s t : State} (h : qpsAlike π s t) (c k : Nat) :
    (findQp t c k).map π = (findQp s c k).map π := by
  have e : ∀ l : List Qp, (l.find? fun q => q.claim == c && q.handle == k).map π = (l.map π).find? fun a => (key a).1 == c && (key a).2 == k := by
    intro l
    rw [List.find?_map]
    congr 2
    funext q
    simp [hk]
  unfold findQp
  rw [e, e, h]

theorem findQp_core {s t : State} (h : qpsAlike qpCore s t) (c k : Nat) : (findQp t c k).map qpCore = (findQp s c k).map qpCore :=
  findQp_alike (fun q => (q.claim, q.handle)) (fun _ => rfl) h c k
theorem findQp_fixed {s t : State} (h : qpsAlike qpFixed s t) (c k : Nat) : (findQp t c k).map qpFixed = (findQp s c k).map qpFixed :=
  findQp_alike (fun q => (q.claim, q.handle)) (fun _ => rfl) h c k

theorem findQp_modQp {s : State} {c h : Nat} {f : Qp → Qp} (hk : ∀ q, (f q).claim = q.claim ∧ (f q).handle = q.handle) (a b : Nat) :
    findQp (s.modQp c h f) a b = if a = c ∧ b = h then (findQp s a b).map f else findQp s a b := by
  unfold findQp State.modQp State.modNet
  dsimp only
  rw [List.find?_map]
  have e : ((fun q : Qp => q.claim == a && q.handle == b) ∘ fun q => if (q.claim == c && q.handle == h) = true then f q else q) = fun q : Qp => q.claim == a && q.handle == b := by
    funext q
    simp only [Function.comp]
    split
    · rw [(hk q).1, (hk q).2]
    · rfl
  rw [e]
  generalize hr : s.net.qps.find? (fun q => q.claim == a && q.handle == b) = r
  cases r with
  | none => simp
  | some q =>
    have := List.find?_some hr
    simp only [Bool.and_eq_true, beq_iff_eq] at this
    rw [Option.map_some, this.1, this.2]
    by_cases hx : a = c ∧ b = h
    · rw [if_pos hx, if_pos (by simp [hx]), Option.map_some]
    · rw [if_neg hx, if_neg (by simpa using hx)]

theorem findQp_key {s : State} {c h : Nat} {q : Qp} (hq : findQp s c h = some q) : q.claim = c ∧ q.handle = h := by
  have := List.find?_some hq
  simpa using this

/-- What writing completion records leaves as it is: everything but the completion queue's own fields and the state. -/
def qpWork (q : Qp) : Qp := { q with st := .init, cqProduce := 0, cqPhase := true, records := [] }

theorem qpsAlike.work {s t : State} (h : qpsAlike qpWork s t) : qpsAlike qpCore s t := by
  have := congrArg (List.map qpCore) h
  rw [List.map_map, List.map_map] at this
  exact this

theorem findQp_work {s t : State} (h : qpsAlike qpWork s t) (c k : Nat) : (findQp t c k).map qpWork = (findQp s c k).map qpWork :=
  findQp_alike (fun q => (q.claim, q.handle)) (fun _ => rfl) h c k

/-- What writing completion records can do: the completion queues move, a queue pair may enter ERR, and one in ERR stays there. -/
def Drains (s t : State) : Prop :=
  qpsAlike qpWork s t ∧ ∀ c h q, findQp s c h = some q → q.st = .err → ∃ q', findQp t c h = some q' ∧ q'.st = .err

theorem Drains.refl (s : State) : Drains s s := ⟨qpsAlike.refl _ _, fun _ _ q h k => ⟨q, h, k⟩⟩
theorem Drains.trans {s t u : State} (h : Drains s t) (k : Drains t u) : Drains s u :=
  ⟨h.1.trans k.1, fun c n q a b => by obtain ⟨q', a', b'⟩ := h.2 c n q a b; exact k.2 c n q' a' b'⟩
theorem Drains.of_net {s t : State} (h : t.net = s.net) : Drains s t :=
  ⟨.of_net _ h, fun c n q a b => ⟨q, by unfold findQp at a ⊢; rw [h]; exact a, b⟩⟩
theorem Drains.modQp (s : State) (c h : Nat) {f : Qp → Qp} (hf : ∀ q, qpWork (f q) = qpWork q) (he : ∀ q, q.st = .err → (f q).st = .err) : Drains s (s.modQp c h f) := by
  refine ⟨.modQp _ _ _ _ hf, fun a b q hq hs => ?_⟩
  have key : ∀ q, (f q).claim = q.claim ∧ (f q).handle = q.handle := fun q => by
    have e := hf q
    exact ⟨(congrArg Qp.claim e : (qpWork (f q)).claim = (qpWork q).claim), (congrArg Qp.handle e : (qpWork (f q)).handle = (qpWork q).handle)⟩
  rw [findQp_modQp key, hq]
  split
  · exact ⟨f q, rfl, he q hs⟩
  · exact ⟨q, rfl, hs⟩
theorem drains_foldl {β : Type} {f : State → β → State} (hf : ∀ u x, Drains u (f u x)) (l : List β) (s : State) : Drains s (l.foldl f s) := by
  induction l generalizing s with
  | nil => exact .refl _
  | cons x l ih => exact (hf s x).trans (ih _)

theorem sendRoce_qps (s : State) (p : Qp) (k d : Nat) (fs : List Nat) (b : List Byte) : (sendRoce s p k d fs b).net.qps = s.net.qps := by
  unfold sendRoce
  dsimp only
  split
  · rfl
  · split <;> rfl

theorem completionAdd_net (s : State) (c n : Nat) : (completionAdd s c n).net = s.net := (completionAdd_moves s c n (Moves.refl 50824 s) rfl).rest .net rfl
theorem completionPoison_net (s : State) (c n k : Nat) : (completionPoison s c n k).net = s.net := (completionPoison_moves s c n k (Moves.refl 50824 s) rfl).rest .net rfl
theorem postHost_net (s : State) (f a : Nat) (b : List Byte) : (postHost s f a b).net = s.net := by unfold postHost; split <;> rfl

theorem writeCqe_drains (s : State) (c h : Nat) (q : Qp) (r : List Byte × Nat) : Drains s (writeCqe s c h q r) := by
  unfold writeCqe
  dsimp only
  split
  · exact (Drains.modQp _ _ _ (by intro _; rfl) (by intro _ _; rfl)).trans (.of_net (completionPoison_net _ _ _ _))
  · exact (Drains.of_net (postHost_net _ _ _ _)).trans ((Drains.modQp _ _ _ (by intro _; rfl) (by intro _ x; exact x)).trans (.of_net (completionAdd_net _ _ _)))

theorem drainRecords_drains (c h n : Nat) (s : State) : Drains s (drainRecords c h n s) := by
  induction n generalizing s with
  | zero => exact .refl _
  | succ n ih =>
    unfold drainRecords
    split
    · exact .refl _
    · split
      · exact .refl _
      · split
        · exact .refl _
        · exact (writeCqe_drains _ _ _ _ _).trans (ih _)

theorem pushRecord_drains (s : State) (c h : Nat) (r : List Byte) (t : Nat) : Drains s (pushRecord s c h r t) := by
  unfold pushRecord
  exact (Drains.modQp _ _ _ (by intro _; rfl) (by intro _ x; exact x)).trans (drainRecords_drains _ _ _ _)

theorem failWqe_drains (s : State) (c h : Nat) (rv : Bool) (k : Nat) (w : Wqe) : Drains s (failWqe s c h rv k w) := by
  unfold failWqe
  exact (pushRecord_drains _ _ _ _ _).trans (.of_net (completionPoison_net _ _ _ _))

theorem alike_foldl {α β : Type} {π : Qp → α} {f : State → β → State} (hf : ∀ u x, qpsAlike π u (f u x)) (l : List β) (s : State) : qpsAlike π s (l.foldl f s) := by
  induction l generalizing s with
  | nil => exact .refl _ _
  | cons x l ih => exact (hf s x).trans (ih _)

theorem enterErr_alike (s : State) (c h : Nat) : qpsAlike qpCore s (enterErr s c h) := by
  unfold enterErr
  split
  · exact .refl _ _
  · dsimp only
    exact (qpsAlike.modQp _ _ _ _ (by intro _; rfl)).trans (((drains_foldl (fun u w => (failWqe_drains u c h false _ w)) _ _).trans (drains_foldl (fun u w => (failWqe_drains u c h true _ w)) _ _)).1.work)

theorem settleErr_alike (s : State) (c h : Nat) : qpsAlike qpCore s (settleErr s c h) := by
  unfold settleErr
  split
  · exact .refl _ _
  · split
    · exact enterErr_alike _ _ _
    · exact .refl _ _

theorem completeWqe_alike (s : State) (c h : Nat) (w : Wqe) : qpsAlike qpCore s (completeWqe s c h w) := by
  unfold completeWqe
  split
  · exact (pushRecord_drains _ _ _ _ _).1.work.trans (settleErr_alike _ _ _)
  · exact .of_net _ (completionAdd_net _ _ _)

theorem dead_of {s t : State} {c h : Nat} (hs : qpDead s c h) (ha : Drains s t) : qpDead t c h := by
  obtain ⟨q, h1, h2, h3, h4, h5, h6⟩ := hs
  obtain ⟨q', e1, e3⟩ := ha.2 _ _ _ h1 h2
  have e2 := findQp_work ha.1 c h
  rw [h1, e1] at e2
  replace e2 := Option.some.inj e2
  exact ⟨q', e1, e3, (congrArg Qp.waiting e2).trans h3, (congrArg Qp.sent e2).trans h4, (congrArg Qp.recvs e2).trans h5, (congrArg Qp.rnrWait e2).trans h6⟩

theorem enterErr_dead {s : State} {c h : Nat} {q : Qp} (hq : findQp s c h = some q) : qpDead (enterErr s c h) c h := by
  unfold enterErr
  rw [hq]
  dsimp only
  refine dead_of ?_ ((drains_foldl (fun u w => (failWqe_drains u c h false _ w)) _ _).trans (drains_foldl (fun u w => (failWqe_drains u c h true _ w)) _ _))
  refine ⟨{ q with st := .err, sent := [], waiting := [], recvs := [], rnrWait := false }, ?_, rfl, rfl, rfl, rfl, rfl⟩
  rw [findQp_modQp (f := fun q => { q with st := .err, sent := [], waiting := [], recvs := [], rnrWait := false }) (fun _ => ⟨rfl, rfl⟩), if_pos ⟨rfl, rfl⟩, hq]; rfl

theorem failEntry_alike (s : State) (c h : Nat) (rv : Bool) (k : Nat) (w : Wqe) : qpsAlike qpCore s (failEntry s c h rv k w) :=
  (failWqe_drains _ _ _ _ _ _).1.work.trans (enterErr_alike _ _ _)

theorem failEntry_dead {s : State} {c h : Nat} {q : Qp} (hq : findQp s c h = some q) (rv : Bool) (k : Nat) (w : Wqe) : qpDead (failEntry s c h rv k w) c h := by
  have := findQp_work (failWqe_drains s c h rv k w).1 c h
  rw [hq] at this
  obtain ⟨q', e1, -⟩ := Option.map_eq_some_iff.1 this
  exact enterErr_dead e1

theorem sendRequest_qps (s : State) (q : Qp) (w : Wqe) : (sendRequest s q w).net.qps = s.net.qps := by
  unfold sendRequest
  generalize List.range _ = l
  induction l generalizing s with
  | nil => rfl
  | cons x l ih => rw [List.foldl_cons, ih, sendRoce_qps]

theorem readClaim_net (s : State) (n va len : Nat) (b : Bool) : (readClaim s n va len b).1.net = s.net := (readClaim_moves s n va len b (Moves.refl 271688 s) rfl).rest .net rfl
theorem writeClaim_net (s : State) (n va : Nat) (bs : List Byte) (b : Bool) : (writeClaim s n va bs b).1.net = s.net := (writeClaim_moves s n va bs b (Moves.refl 271816 s) rfl).rest .net rfl

theorem startEntry_alike (s : State) (c h : Nat) (w : Wqe) : qpsAlike qpCore s (startEntry s c h w) := by
  unfold startEntry
  split
  · exact .refl _ _
  · exact failEntry_alike _ _ _ _ _ _
  · dsimp only
    generalize hd : (if wOp w.bytes = 5 then ((s, Except.ok []) : Run (List Byte)) else if wHost w.bytes then (s, .ok (bytesAt w.payload 0 (wLen w.bytes))) else readClaim s c (wLocal w.bytes % 2 ^ 40) (wLen w.bytes)) = r
    have hn : r.1.net = s.net := by
      rw [← hd]
      split
      · rfl
      · split
        · rfl
        · exact readClaim_net _ _ _ _ _
    obtain ⟨u, x⟩ := r
    cases x with
    | error e => exact (qpsAlike.of_net _ hn).trans (failEntry_alike _ _ _ _ _ _)
    | ok bs => exact (qpsAlike.of_net _ hn).trans ((qpsAlike.modQp _ _ _ _ (by intro _; rfl)).trans (.of_qps _ (sendRequest_qps _ _ _)))

theorem startWaiting_alike (c h n : Nat) (s : State) : qpsAlike qpCore s (startWaiting c h n s) := by
  induction n generalizing s with
  | zero => exact .refl _ _
  | succ n ih =>
    unfold startWaiting
    split
    · exact .refl _ _
    · split
      · exact .refl _ _
      · split
        · exact (qpsAlike.modQp _ _ _ _ (by intro _; rfl)).trans ((startEntry_alike _ _ _ _).trans (ih _))
        · exact .refl _ _

theorem readHost_net (s : State) (fn a n : Nat) (r : HostResp) : (readHost s fn a n r).1.net = s.net := by
  unfold readHost readBack
  split <;> rfl

theorem readWqe_net (s : State) (c b i : Nat) (r p : HostResp) : (readWqe s c b i r p).1.net = s.net := by
  unfold readWqe
  dsimp only
  split
  · split
    · next heq => exact (congrArg (fun x : State × Option (List Byte) => x.1.net) heq).symm.trans (readHost_net _ _ _ _ _)
    · next heq =>
      have e := (congrArg (fun x : State × Option (List Byte) => x.1.net) heq).symm.trans (readHost_net _ _ _ _ _)
      split
      · split
        · next heq => exact ((congrArg (fun x : State × Option (List Byte) => x.1.net) heq).symm.trans (readHost_net _ _ _ _ _)).trans e
        · next heq => exact ((congrArg (fun x : State × Option (List Byte) => x.1.net) heq).symm.trans (readHost_net _ _ _ _ _)).trans e
      · exact e
  · rfl

theorem runSq_alike (c h : Nat) (l : List (HostResp × HostResp)) (s : State) : qpsAlike qpFixed s (runSq c h l s) := by
  have d : ∀ u n m, qpsAlike qpCore u (startWaiting c h m (drainRecords c h n u)) := fun u n m => (drainRecords_drains _ _ _ _).1.work.trans (startWaiting_alike _ _ _ _)
  induction l generalizing s with
  | nil => exact (d _ _ _).fixed
  | cons f fs ih =>
    unfold runSq
    dsimp only
    generalize hu : (startWaiting c h _ _) = u
    have hsu : qpsAlike qpFixed s u := by rw [← hu]; exact (d _ _ _).fixed
    split
    · exact hsu
    · split
      · exact hsu
      · split
        · exact hsu.trans ((qpsAlike.of_net _ (readWqe_net _ _ _ _ _ _)).trans ((qpsAlike.modQp _ _ _ _ (by intro _; rfl)).trans (ih _)))
        · split
          · exact hsu.trans ((qpsAlike.of_net _ (readWqe_net _ _ _ _ _ _)).trans ((qpsAlike.modQp _ _ _ _ (by intro _; rfl)).trans ((failWqe_drains _ _ _ _ _ _).1.work.fixed.trans (ih _))))
          · exact hsu

theorem readRq_alike (c h : Nat) (l : List HostResp) (s : State) : qpsAlike qpFixed s (readRq c h l s) := by
  induction l generalizing s with
  | nil => exact .refl _ _
  | cons f fs ih =>
    unfold readRq
    split
    · exact .refl _ _
    · split
      · exact .refl _ _
      · dsimp only
        split
        · exact (qpsAlike.of_net _ (readWqe_net _ _ _ _ _ _)).trans ((qpsAlike.modQp _ _ _ _ (by intro _; rfl)).trans ((failWqe_drains _ _ _ _ _ _).1.work.fixed.trans (ih _)))
        · exact (qpsAlike.of_net _ (readWqe_net _ _ _ _ _ _)).trans ((qpsAlike.modQp _ _ _ _ (by intro _; rfl)).trans ((qpsAlike.modQp _ _ _ _ (by intro _; rfl)).trans (ih _)))

theorem qpResult_answers (s : State) {c : Nat} (hc : c < 8) (k : Nat) : qpAnswered (qpResult s c k) c k ∧ (qpResult s c k).net.qps = s.net.qps ∧ (qpResult s c k).net.ports = s.net.ports := by
  have e : tget (qpResult s c k).net.claims c = { tget s.net.claims c with done := true, cause := k } := tget_tmod_same _ _ hc
  exact ⟨⟨by rw [e], by rw [e]⟩, rfl, rfl⟩

end Sys2Proof
end

