-- ==== Sys2Proof/Laws/FxSteward.lean ====
section
/-! SUPPORT. CLEAR, COMMON_LOAD, TABLE_LOAD, SEAL and HOST_COPY. -/

set_option linter.unusedSimpArgs false
set_option linter.unusedVariables false

namespace Sys2Proof

open Machine

theorem memGet_dropIn (m : List Host.Cell) {lo n x : Nat} (h : lo ≤ x ∧ x < lo + n) : memGet (memDrop m lo n) x = none := by
  unfold memGet memDrop
  rw [List.find?_eq_none.2]; rfl
  intro c hc
  have := (List.mem_filter.1 hc).2
  simp only [Bool.not_eq_true', Bool.and_eq_false_iff, decide_eq_false_iff_not] at this
  intro hx
  have hx : c.1 = x := by simpa using hx
  omega

theorem clearOne_cleared (s : State) (tier2 : Bool) (f : Nat) : unitCleared (clearOne s tier2 f) tier2 f := by
  unfold unitCleared clearOne
  cases tier2 with
  | true =>
    refine ⟨?_, fun x h1 h2 => ?_⟩
    · exact alookup_aerase_same _ _
    · exact memGet_dropIn _ ⟨h1, h2⟩
  | false =>
    refine ⟨?_, fun x h1 h2 => ?_⟩
    · exact alookup_aerase_same _ _
    · exact memGet_dropIn _ ⟨h1, h2⟩

theorem clearUnits_none {s : State} {tier2 : Bool} (h : nextForeign s tier2 = none) (k c : Nat) : clearUnitsEcc tier2 k s c = (s, c) := by
  cases k with
  | zero => rfl
  | succ k => rw [clearUnitsEcc, h]

theorem clearUnits_dl (tier2 : Bool) (k : Nat) (s : State) (c : Nat) : (clearUnitsEcc tier2 k s c).1.dl = s.dl :=
  (clearUnitsEcc_moves tier2 k s c (Moves.refl 8448 s) rfl).rest .dl rfl

theorem clearUnits_count (tier2 : Bool) (k : Nat) (s : State) (c : Nat) : c ≤ (clearUnitsEcc tier2 k s c).2 ∧ (clearUnitsEcc tier2 k s c).2 ≤ c + k := by
  induction k generalizing s c with
  | zero => exact ⟨Nat.le_refl _, Nat.le_refl _⟩
  | succ k ih =>
    unfold clearUnitsEcc
    split
    · exact ⟨Nat.le_refl _, by simp⟩
    · rename_i f _
      obtain ⟨a, b⟩ := ih (clearOne (clearFrameMarks s tier2 f) tier2 f) (c + 1)
      exact ⟨by omega, by omega⟩

theorem levelOf_set {s u : State} {shoe seq l g : Nat} {lv : Level} (st : CmdState) (hu : u.dl.items = s.dl.items) (h : levelOf s shoe seq l = some lv)
    (ha : ∃ a ∈ lv.active, a.granule = g) : ∃ lv', levelOf (setActive u shoe seq l g st) shoe seq l = some lv' ∧ lv'.pc = lv.pc ∧ lv'.events = lv.events ∧ activeAt lv' g st :=
  activeAt_set st ((levelOf_congr (s := s) hu _ _ _).trans h) ha

theorem sendHellos_boot (l : List Nat) (s : State) : let u := l.foldl (fun s p => if (s.port p).st = .quarantined then sendHello s p else s) s
    u.boot = s.boot ∧ u.dbg = s.dbg ∧ u.dl = s.dl := by
  induction l generalizing s with
  | nil => exact ⟨rfl, rfl, rfl⟩
  | cons p l ih =>
    rw [List.foldl_cons]
    obtain ⟨a, b, c⟩ := ih (if (s.port p).st = .quarantined then sendHello s p else s)
    have hh : ∀ u : State, (sendHello u p).boot = u.boot ∧ (sendHello u p).dbg = u.dbg ∧ (sendHello u p).dl = u.dl := fun u =>
      ⟨(sendHello_moves u p (Moves.refl 16384 u) rfl).rest .boot rfl, (sendHello_moves u p (Moves.refl 16384 u) rfl).rest .dbg rfl, (sendHello_moves u p (Moves.refl 16384 u) rfl).rest .dl rfl⟩
    dsimp only at a b c ⊢
    split at a <;> split at b <;> split at c
    all_goals first | contradiction | skip
    all_goals simp_all

theorem secEvent_dl' (s : State) (k w c q : Nat) : (secEvent s k w c q).dl = s.dl := secEvent_dl s k w c q

/-- A state with a sealed record in force. -/
def sealReady (u : State) (r : SeatRecord) : State :=
  if (measureSeat (u.modBoot fun b => { b with seat := some r })).boot.dev = .newSeat then
    raiseRollback (setDev ((measureSeat (u.modBoot fun b => { b with seat := some r })).modBoot fun b => { b with newSeat := false }) .ready 0)
  else measureSeat (u.modBoot fun b => { b with seat := some r })

theorem sealReady_spec (u : State) (r : SeatRecord) : (sealReady u r).boot.seat = some r ∧ (u.boot.dev = .newSeat → (sealReady u r).boot.dev = .ready) ∧
    (u.boot.dev ≠ .newSeat → (sealReady u r).boot.dev = u.boot.dev) ∧ True := by
  have hm : ∀ u : State, (measureSeat u).boot = u.boot := fun u => (measureSeat_moves u (Moves.refl 65536 u) rfl).rest .boot rfl
  have hr : ∀ u : State, (raiseRollback u).boot.seat = u.boot.seat ∧ (raiseRollback u).boot.dev = u.boot.dev := fun u => ⟨rfl, rfl⟩
  unfold sealReady
  split
  · rename_i hd
    rw [hm] at hd
    refine ⟨?_, fun _ => ?_, fun hn => absurd hd hn, trivial⟩
    · rw [(hr _).1, setDev_boot]
      show (measureSeat _).boot.seat = _
      rw [hm]; rfl
    · rw [(hr _).2, setDev_boot]
  · rename_i hd
    rw [hm] at hd
    refine ⟨by rw [hm]; rfl, fun hn => absurd hn hd, fun _ => by rw [hm]; rfl, trivial⟩

/-- What a SEAL leaves: its result, and the record it wrote (R379). -/
theorem sealRecord_spec (s : State) (ok : Bool) :
    (s.dbg.identity = false → sealRecord s ok = s.modDbg fun d => { d with sealResult := 0x0D }) ∧
    (s.dbg.identity = true → ok = false → (sealRecord s ok).dbg.sealResult = 0x0E ∧ (sealRecord s ok).boot.seat = s.boot.seat ∧ (sealRecord s ok).boot.dev = s.boot.dev) ∧
    (s.dbg.identity = true → ok = true → (sealRecord s ok).dbg.sealResult = 0 ∧ (∃ q r, (sealRecord s ok).boot.seat = some r ∧ r.bytes = buildSeal s q ∧ r.coord = s.image.coord) ∧
      (s.boot.dev = .newSeat → (sealRecord s ok).boot.dev = .ready) ∧ (s.boot.dev ≠ .newSeat → (sealRecord s ok).boot.dev = s.boot.dev)) ∧
    (sealRecord s ok).dl = s.dl := by
  refine ⟨fun h => ?_, fun h ho => ?_, fun h ho => ?_, (sealRecord_moves s ok (Moves.refl 345178 s) rfl).rest .dl rfl⟩
  · rw [sealRecord, if_pos (by rw [h]; rfl)]
  · subst ho
    have hne : ¬ ((!s.dbg.identity) = true) := by simp [h]
    rw [sealRecord, if_neg hne]
    dsimp only
    rw [if_pos (show (!false) = true from rfl), secEvent_dbg, secEvent_boot]
    have e : (freeBytes s 0x3B0).1.boot = s.boot := (freeBytes_moves s 0x3B0 (Moves.refl 2 s) rfl).rest .boot rfl
    generalize (freeBytes s 0x3B0) = r at e
    refine ⟨rfl, ?_, ?_⟩
    · show r.1.boot.seat = _
      rw [e]
    · show r.1.boot.dev = _
      rw [e]
  · subst ho
    have e : ∃ q r u, u.boot.dev = s.boot.dev ∧ r.bytes = buildSeal s q ∧ r.coord = s.image.coord ∧ sealRecord s true =
        secEvent (((List.range 12).foldl (fun s p => if (s.port p).st = .quarantined then sendHello s p else s) (sealReady u r)).modDbg fun d => { d with sealResult := 0 }) 4 0 0 q := by
      have hne : ¬ ((!s.dbg.identity) = true) := by simp [h]
      unfold sealRecord
      rw [if_neg hne]
      dsimp only
      rw [if_neg (fun h => Bool.noConfusion h : ¬ ((!true) = true))]
      unfold sealReady
      refine ⟨?q, ?r, ?u, ?h1, ?h2, ?h3, ?h4⟩
      case h4 => with_reducible rfl
      all_goals rfl
    obtain ⟨q, r, u, h1, h2, h3, h4⟩ := e
    obtain ⟨a, b, c, d⟩ := sealReady_spec u r
    obtain ⟨k1, k2, k3⟩ := sendHellos_boot (List.range 12) (sealReady u r)
    generalize hw : (List.range 12).foldl (fun s p => if (s.port p).st = .quarantined then sendHello s p else s) (sealReady u r) = w at k1 k2 k3 h4
    rw [h4, secEvent_dbg, secEvent_boot]
    refine ⟨rfl, ⟨q, r, ?_, h2, h3⟩, fun hd => ?_, fun hd => ?_⟩
    · show w.boot.seat = _
      rw [k1]; exact a
    · show w.boot.dev = _
      rw [k1]; exact b (h1.trans hd)
    · show w.boot.dev = _
      rw [k1, c (by rw [h1]; exact hd), h1]
theorem failItem_table (s : State) (shoe seq : Nat) (o : Outcome) {k : Nat} (hk : k < 32) :
    (tget (failItem s shoe seq o).dl.slots k).table = (tget s.dl.slots k).table := by
  have hd : ∀ (l : List Nat) (u : State), (l.foldl dropMacro u).dl.slots = u.dl.slots := by
    intro l
    induction l with
    | nil => intro u; rfl
    | cons x l ih =>
      intro u
      rw [List.foldl_cons, ih]
      unfold dropMacro
      split <;> rfl
  unfold failItem
  split
  · rfl
  · split
    · rfl
    · show (tget (if shoe = 8 then ((macrosOf s shoe seq).foldl dropMacro s).dl.slots.map fun t => { t with loads := t.loads.filter (·.seq != seq) }
        else ((macrosOf s shoe seq).foldl dropMacro s).dl.slots) k).table = _
      split
      · refine (congrArg TblSlot.table (tget_map ((macrosOf s shoe seq).foldl dropMacro s).dl.slots _ hk)).trans ?_
        show (tget ((macrosOf s shoe seq).foldl dropMacro s).dl.slots k).table = _
        rw [hd]
      · show (tget ((macrosOf s shoe seq).foldl dropMacro s).dl.slots k).table = _
        rw [hd]

theorem failAt_table (s : State) (shoe seq l g c d : Nat) {k : Nat} (hk : k < 32) :
    (tget (failAt s shoe seq l g c d).dl.slots k).table = (tget s.dl.slots k).table := by
  unfold failAt
  split
  · rfl
  · split
    · exact failItem_table _ _ _ _ hk
    · exact failItem_table _ _ _ _ hk

theorem loadCommons_dl (ps : List Nat) (bs : List Byte) (s : State) : (loadCommons ps bs s).1.dl = s.dl :=
  (loadCommons_moves ps bs s (Moves.refl 271688 s) rfl).rest .dl rfl

end Sys2Proof
end

