-- ==== Sys2Proof/Laws/FxTrick.lean ====
section
/-! SUPPORT. Tricks between seats. -/

set_option linter.unusedSimpArgs false
set_option linter.unusedVariables false

namespace Sys2Proof

open Machine

/-- A tally that is poisoned stays as it is. -/
def KeptPoison (s t : State) : Prop := ∀ m, (s.tally m).poisoned = true → t.tally m = s.tally m

theorem KeptPoison.refl (s : State) : KeptPoison s s := fun _ _ => rfl

theorem KeptPoison.trans {s t u : State} (h : KeptPoison s t) (k : KeptPoison t u) : KeptPoison s u := fun m hm =>
  (k m (by rw [h m hm]; exact hm)).trans (h m hm)

theorem KeptPoison.of_sync {s t : State} (h : t.sync = s.sync) : KeptPoison s t := fun m _ => by simp only [State.tally, h]

theorem kept_foldl {α : Type} {f : State → α → State} (hf : ∀ u x, KeptPoison u (f u x)) (l : List α) (s : State) : KeptPoison s (l.foldl f s) := by
  induction l generalizing s with
  | nil => exact .refl _
  | cons x l ih => exact (hf s x).trans (ih _)

theorem poisonTally_kept (s : State) (n c : Nat) : KeptPoison s (poisonTally s n c) := by
  intro m hm
  have e := poisonOne_tally s n c (0, 0, 0) m (.inl hm)
  unfold poisonTally
  dsimp only
  split
  · exact e
  · split
    · rw [(poisonTrick_facts _ _ _).2 m (by rw [e]; exact hm), e]
    · exact e

theorem freeRound_kept (s : State) (c : Nat) (a : Armed) : KeptPoison s (freeRound s c a) := by
  intro m _
  unfold freeRound
  dsimp only
  have h1 : (unpinPages s a.claim a.pins).sync = s.sync := (unpinPages_moves s a.claim a.pins (Moves.refl 256 s) rfl).rest .sync rfl
  have h2 : ∀ (l : List Nat) (u : State), (l.foldl (fun s k => s.setTrick k none) u).sync.tallies = u.sync.tallies := by
    intro l; induction l with
    | nil => intro u; rfl
    | cons k l ih => intro u; rw [List.foldl_cons, ih]; rfl
  have h3 : ∀ (u : State) f, (u.modCtrl c f).sync = u.sync := fun _ _ => rfl
  unfold State.tally
  rw [h3, h2]
  show tget (unpinPages s a.claim a.pins).sync.tallies m = _
  rw [h1]

theorem endFailedRound_kept (s : State) (c : Nat) (a : Armed) : KeptPoison s (endFailedRound s c a) := by
  unfold endFailedRound
  dsimp only
  refine KeptPoison.trans (.of_sync ?_) ((kept_foldl (fun u x => ?_) _ _).trans (freeRound_kept _ _ _))
  · rw [(abortXfers_moves _ c (Moves.refl 49152 _) rfl).rest .sync rfl, (stopRoundMacros_moves s c (Moves.refl 128 _) rfl).rest .sync rfl]
  · split
    · exact poisonTally_kept _ _ _
    · exact .refl _

theorem roundPoisoned_kept (s : State) (c : Nat) (o : Seat) : KeptPoison s (roundPoisoned s c o) := by
  unfold roundPoisoned
  split
  · exact .refl _
  · dsimp only
    refine KeptPoison.trans (t := s.modCtrl c _) (.of_sync rfl) ((kept_foldl (fun u x => ?_) _ _).trans (endFailedRound_kept _ _ _))
    exact (poisonTrickHere_facts u x o).2

theorem trickNamed_some {s : State} {round index tag k : Nat} {t : Trick} (h : trickNamed s round index tag = some (k, t)) :
    k < 64 ∧ tget s.sync.tricks k = some t := by
  obtain ⟨j, hj, hx⟩ := findSome_range h
  cases ht : tget s.sync.tricks j with
  | none => rw [ht] at hx; cases hx
  | some t' =>
    rw [ht] at hx
    simp only [Option.bind_some] at hx
    split at hx
    · cases hx; exact ⟨hj, ht⟩
    · cases hx

theorem tget_setTrick (s : State) {k : Nat} (t : Option Trick) (h : k < 64) : tget (s.setTrick k t).sync.tricks k = t := by
  simp [State.setTrick, State.modSync, tget_tset_same _ _ h]

theorem arriveFrom_stop {n : Nat} {s : State} {k : Nat} {t : Trick} (ht : tget s.sync.tricks k = some t)
    (h : t.poisoned = true ∨ t.arrived = true ∨ notReached s t t.gen) : arriveFrom n s k = s := by
  cases n with
  | zero => rfl
  | succ n =>
    have : (t.poisoned || t.arrived || !geWrap32 (s.tally t.arriveTally).value.toNat (t.gen * t.quota)) = true := by
      rcases h with h | h | h
      · simp [h]
      · simp [h]
      · unfold notReached at h; simp [h]
    simp only [arriveFrom, ht]
    rw [if_pos this]

theorem arriveCheck_stop {s : State} {k : Nat} {t : Trick} (ht : tget s.sync.tricks k = some t)
    (h : t.poisoned = true ∨ t.arrived = true ∨ notReached s t t.gen) : arriveCheck s k = s := arriveFrom_stop ht h

theorem testTally_tricks (s : State) (n : Nat) : (testTally s n).sync.tricks = s.sync.tricks := by rw [testTally_sync s n]

/-- A seat that the release of generation g reaches, before the waits that this begins (R222). -/
def released (s : State) (k : Nat) (t : Trick) (g : Nat) : State :=
  testTally ((s.setTrick k (some { t with gen := g + 1, arrived := false, arrivals := [] })).modTally t.releaseTally
    fun y => { y with value := BitVec.ofNat 32 g }) t.releaseTally

/-- A release that reaches a seat (R222, step 4). -/
theorem applyRelease_facts {s : State} {k : Nat} {t : Trick} (g : Nat) (hk : k < 64) (ht : tget s.sync.tricks k = some t) (hr : t.releaseTally < 1024) :
    tget (applyRelease s k g).sync.tricks k = some { t with gen := g + 1, arrived := false, arrivals := [] } ∧
    (applyRelease s k g).tally t.releaseTally = { s.tally t.releaseTally with value := BitVec.ofNat 32 g } ∧
    (∀ m, m ≠ t.releaseTally → (applyRelease s k g).tally m = s.tally m) ∧ (applyRelease s k g).link = s.link := by
  have h1 := tget_setTrick s (some { t with gen := g + 1, arrived := false, arrivals := [] }) hk
  have h2 : ∀ m, (s.setTrick k (some { t with gen := g + 1, arrived := false, arrivals := [] })).tally m = s.tally m := fun _ => rfl
  have h3 : (s.setTrick k (some { t with gen := g + 1, arrived := false, arrivals := [] })).link = s.link := rfl
  have ht' : ∀ {u v : State}, u.sync = v.sync → ∀ m, u.tally m = v.tally m := fun h m => by simp only [State.tally, h]
  obtain ⟨hw, hl⟩ : (applyRelease s k g).sync = (released s k t g).sync ∧ (applyRelease s k g).link = (released s k t g).link := by
    simp only [applyRelease, ht]; split <;> exact ⟨rfl, rfl⟩
  rw [hw, hl]; simp only [ht' hw]
  unfold released
  revert h1 h2 h3
  generalize s.setTrick k (some { t with gen := g + 1, arrived := false, arrivals := [] }) = u
  intro h1 h2 h3
  refine ⟨?_, ?_, fun m hm => ?_, ?_⟩
  · rw [testTally_tricks]; exact h1
  · rw [(testTally_sync _ _).tally, tally_modTally_same _ _ hr, h2]
  · rw [(testTally_sync _ _).tally, tally_modTally_ne _ _ (Ne.symm hm), h2]
  · rw [(testTally_moves _ _ (Moves.refl 34440 _) rfl).rest .link rfl]; exact h3

end Sys2Proof
end

