-- ==== Sys2Proof/Tests/Slice0.lean ====
section
/-! SUPPORT. The model's own tests: what the well-formedness checks refuse, and for each statement a state and operands
that meet its hypotheses. -/

namespace Sys2Proof.Tests

open Machine

theorem test_reset_queue_empty : State.reset.pending = [] := rfl

theorem test_wf_below : (Instr.registerWrite 9 0 4 0).wf = false := by decide
theorem test_wf_offset : (Instr.regLowHalfRead 0 (2 ^ 26) 4).wf = false := by decide
theorem test_wf_width : (Instr.registerWrite 0 0 3 0).wf = false := by decide
theorem test_wf_value : (Instr.regLowHalfWrite 0 0 (2 ^ 64)).wf = false := by decide
theorem test_wf_length : (Instr.pinBeatFrame []).wf = false := by decide
theorem test_wf_seat : (Instr.trickArriveReceived 0 0 0 (256, 0, 0) 0).wf = false := by decide
theorem test_wf_header : (Instr.messageForward 0 0 false (0, 0, 0) [] [] []).wf = false := by decide
theorem test_wf_packet : (Instr.mctpPacketReceived [] true true {}).wf = false := by decide
theorem test_wf_accepts : (Instr.registerWrite 8 8 8 (2 ^ 64 - 1)).wf = true := by decide

/-- The package in operation: every claim ACTIVE with 64 tallies and two queue pairs, every function with one host window. -/
def up : State :=
  { State.reset with
    boot := { lamphouse := true, stbyPwrok := true, released := true, step := 14, dev := .ready, qualified := true, pwrok := true, resetL := true, mainEn := true }
    fns := Vector.replicate 9 { busMaster := true, wins := Vector.replicate 4 { valid := true, limit := 255 } }
    pcie := { vfEnable := true, numVfs := 8 }
    cl := { claims := Vector.replicate 8 { st := .active, tallyCount := 64, queuePairs := 2, t1Pages := 4, t2Pages := 4, ledgerQuota := 4 } }
    mgmt := { running := true, eid := 8 } }

/-- A command of an opcode and extra granules, with its operand bytes from byte 6 on. -/
def cmd (op extra : Nat) (rest : List Byte) : List Byte :=
  let b := [BitVec.ofNat 8 op, BitVec.ofNat 8 extra, 0, 0, 0, 0] ++ rest
  b ++ List.replicate (16 * (extra + 1) - b.length) 0
/-- A deck level that holds one command. -/
def level (b : List Byte) : Level := { id := 0, bytes := b }
/-- The package with one running item, number 0 of a shoe, at a level. -/
def deck (n : Nat) (lv : Level) : State := { up with dl := { up.dl with items := [{ shoe := n, seq := 0, st := .running, levels := [lv] }] } }
/-- A level whose one command is active in a state. -/
def busy (b : List Byte) (st : CmdState) : Level := { level b with pc := cmdSize b, active := [{ granule := 0, st := st }] }

theorem up_dies : diesUp up = true := by decide

theorem starts_of {n op : Nat} {b : List Byte} (h : nextCmd (deck n (level b)) n 0 0 op = some (level b, 0, b))
    (hw : n < 8 → (tget up.dbg.wins n).held = none ∧ (tget up.dbg.wins n).mode = 0) : cmdStarts (deck n (level b)) n 0 0 op (level b) b :=
  ⟨up_dies, h, hw⟩

theorem claim_wins : ∀ n, n < 8 → (tget up.dbg.wins n).held = none ∧ (tget up.dbg.wins n).mode = 0 := by decide

/-! One witness for each statement with hypotheses, in the statements' order. -/

theorem witness_StepKeepsMemoryCanonical : State.reset.memWf = true ∧ ∃ t, step State.reset = .next t := ⟨by decide, _, rfl⟩
theorem witness_FrameOfEveryCommand : ∃ t, exec (.nop 0 0 0) up = .next t := ⟨_, rfl⟩
theorem witness_HeldDiesDoNothing : (Instr.nop 0 0 0).byDies = true ∧ diesUp State.reset = false := by decide
theorem witness_UnansweredWritesDiscarded : (Instr.shoeDoorbell 0 0).place = some (1, shoeOff 0 0x18) ∧ regAt State.reset 1 (shoeOff 0 0x18) = none := ⟨rfl, rfl⟩
theorem witness_IdleStepTicks : State.reset.pending = [] ∧ State.reset.held = [] ∧ ∃ t, step { up with held := [.nop 0 0 0] } = .next t := ⟨rfl, rfl, _, rfl⟩
theorem witness_HalvesOfWideRegisters : (wideAt up 0 (hstOff 0x1000)).isSome = true ∧ (wideAt up 8 0x60010).isSome = true ∧ writesNow up 0 (hstOff 0x1000) ∧
    completes up 0 = true ∧ completes State.reset 0 = false := by unfold writesNow; decide
theorem witness_NarrowRegistersAndMeasure : (narrowAt up 0 (pwrOff 0x8)).isSome = true ∧ writesNow up 0 (pwrOff 0x8) ∧ (wideAt up 0 measureOff).isSome = true := by
  unfold writesNow; decide
theorem witness_StandbyAndBootFailures : State.reset.boot.stbyPwrok = false ∧ State.reset.boot.found = false ∧ State.reset.boot.released = false ∧
    (State.reset.modBoot fun b => { b with step := 4, cands := [1] }).boot.img = none := by decide

/-- The package as it waits for RESET_L with an image in force. -/
def waiting : State :=
  { up with boot := { up.boot with img := some {}, released := false, step := 9, dev := .held, resetL := false } }
theorem witness_DieReleaseEvents : waitsForRelease waiting ∧ waiting.boot.resetL = false ∧ waiting.boot.qualified = true ∧
    waitsForRelease (waiting.modBoot fun b => { b with pwrok := false, qualified := false }) ∧
    powerGood ((waiting.modBoot fun b => { b with pwrok := false, qualified := false }).modBoot fun b => { b with pwrok := true }) = true := by
  unfold waitsForRelease; decide
theorem witness_ColdStartEvents : up.boot.released = true ∧ up.boot.qualified = true ∧ waiting.boot.lamphouse = true ∧
    waiting.boot.released = false ∧ waiting.power.level ≠ 3 ∧ waiting.boot.resetL = false := by decide
theorem witness_PowerRequests : actsInP2 0 (tierOff 0x400) = false ∧ (regAt up 0 (pwrOff 0x8)).isSome = true ∧ (∀ k, ¬ refusalCode up k) ∧
    refusalCode (deck 0 (level [])) 1 := by
  refine ⟨by decide, by decide, ?_, by unfold refusalCode; decide⟩
  intro k
  unfold refusalCode
  rintro ⟨-, h, -⟩
  have h' : [false, false, false, false, false, false][k - 1]? = some true := h
  match k - 1, h' with
  | 0, h | 1, h | 2, h | 3, h | 4, h | 5, h => cases h
  | n + 6, h => simp at h
theorem witness_PowerLimitAndRails : up.boot.released = true ∧ (∀ d < 8, tget up.power.tripped d = false) ∧ powerGood up = true ∧
    alookup ({ up with power := { up.power with rails := [(0, 800)], avsTries := [(0, 3)] } } : State).power.avsTries 0 = some 3 := by decide

/-- The beat is aligned, from the source given. -/
def beating (source : Nat) : State := { up with beat := { up.beat with source := source, aligned := true, locked := true } }
theorem witness_BeatEdges : diesUp (beating 0) = true ∧ 11 ≤ (beating 0).boot.step ∧ (beating 0).beat.aligned = true ∧ (beating 0).beat.holdover = false ∧
    (beating 0).beat.source = 0 ∧ (beating 0).beat.locked = true ∧ up.beat.lastValid = none := by decide

/-- Entry 0 of the calendar is enabled with an action, at every beat. -/
def calendar (a : Nat) : State :=
  { beating 0 with beat := { (beating 0).beat with active := tset (beating 0).beat.active 0 (leBytes 8 1 ++ [0, 0, BitVec.ofNat 8 a, 1] ++ leBytes 4 0) } }
/-- The same in P2, where only two actions fire. -/
def refused (a : Nat) : State := { calendar a with power := { up.power with level := 2 } }
theorem witness_CalendarEntries : ∀ a ∈ [1, 2, 3, 4, 5, 6, 7, 8], (calendarCmd 0 [] a).isSome = true ∧ entryDue (calendar a) 0 = true ∧
    ceAction ((calendar a).entry 0) = a ∧ actionAllowed (calendar a) a = true ∧ entryTurn (calendar a) 0 ∧ entryReady (calendar a) 0 a := by
  unfold entryReady entryTurn entryBefore; decide
theorem witness_CalendarEntriesWait : actionAllowed (refused 5) 5 = false ∧ entryDue (refused 5) 0 = true ∧ entryTurn (refused 5) 0 := by
  unfold entryTurn entryBefore; decide
theorem witness_CalendarChanges : writesWait up = false ∧ (regAt up 0 (beatOff 0x30)).isSome = true ∧ (regAt up 0 (beatOff (0x2000 + 16 * 63 + 8 * 1))).isSome = true ∧
    (∀ i < 64, ceOk (tget (Vector.replicate 64 (ceMake 1 0 0 6 1 0)) i) = true) ∧ ceOk (tget up.beat.shadow 0) = false ∧
    (∃ u, (tget (Vector.replicate 8 { (up.claim 0) with ckptUntil := some 5 }) 0).ckptUntil = some u) ∧ up.beat.aligned = false ∧
    rtLaneBusy up 0 = false := by
  refine ⟨by decide, by decide, by decide, by decide, by decide, ⟨5, rfl⟩, by decide, by decide⟩

theorem witness_PlainDeckCommands :
    (∀ x ∈ [(0x00, 0), (0x05, 1), (0x04, 1)], cmdStarts (deck 0 (level (cmd x.1 x.2 []))) 0 0 0 x.1 (level (cmd x.1 x.2 [])) (cmd x.1 x.2 [])) ∧
    (∀ r, cmdRuns (deck 0 (busy (cmd 0x04 1 []) (.waitMem r))) 0 0 0 0 (busy (cmd 0x04 1 []) (.waitMem r)) { granule := 0, st := .waitMem r } (cmd 0x04 1 [])) ∧
    hostOk up (fnOf 0) 0 8 = true ∧ hostOk up (fnOf 0) (2 ^ 20) 8 = false := by
  refine ⟨?_, fun r => ⟨up_dies, rfl⟩, by decide, by decide⟩
  intro x hx
  simp only [List.mem_cons, List.not_mem_nil, or_false] at hx
  rcases hx with rfl | rfl | rfl <;> exact starts_of rfl (claim_wins 0)

/-- A level whose LOOP has run its body to the end. -/
def looping : Level := { level (cmd 0x08 0 []) with pc := 1, loops := [{ granule := 0, first := 1, last := 1, left := 1 }] }
theorem witness_ControlCommands :
    (∀ op ∈ [0x07, 0x08], cmdStarts (deck 0 (level (cmd op 0 []))) 0 0 0 op (level (cmd op 0 [])) (cmd op 0 [])) ∧
    loopWaits (deck 0 looping) 0 0 0 looping { granule := 0, first := 1, last := 1, left := 1 } [] ∧ resolveTally up 0 63 = some 63 ∧
    resolveTally up 0 64 = none ∧ (up.tally 63).poisoned = false ∧ condHolds 0 5 5 ∧ ¬ condHolds 0 4 5 := by
  refine ⟨?_, ⟨up_dies, ⟨_, rfl, rfl, rfl⟩, rfl, by decide, by decide, by decide, by decide⟩, by decide, by decide, by decide, by unfold condHolds; decide, by unfold condHolds; decide⟩
  intro op hx
  simp only [List.mem_cons, List.not_mem_nil, or_false] at hx
  rcases hx with rfl | rfl <;> exact starts_of rfl (claim_wins 0)
theorem witness_TallyDeckCommands : cmdStarts (deck 0 (level (cmd 0x03 0 [5]))) 0 0 0 0x03 (level (cmd 0x03 0 [5])) (cmd 0x03 0 [5]) ∧
    isRelease up 0 = false ∧ trickOfTally up 0 = none := ⟨starts_of rfl (claim_wins 0), by decide, by decide⟩
theorem witness_TallyWindows : writesWait up = false ∧ (regAt up 8 (0x20008 + 16 * 63)).isSome = true ∧ (regAt up 8 (0x28000 + 16 * 15)).isSome = true ∧
    (regAt up 0 (tlyOff (0x8 + 16 * 63))).isSome = true := by decide

/-- A trick of two seats, led here, at generation 1. -/
def trick : Trick :=
  { claim := 0, index := 0, round := 0, roundTag := 0, arriveTally := 0, releaseTally := 1, quota := 1, seats := [(0, 0, 0), (1, 0, 0)], lead := true }
/-- The package with that trick. -/
def tricking : State := { up with sync := { up.sync with tricks := tset up.sync.tricks 0 (some trick) } }
theorem witness_TrickMessages : diesUp tricking = true ∧ trickNamed tricking 0 0 0 = some (0, trick) ∧ trickNamed tricking 1 0 0 = none ∧
    ((1, 0, 0) : Seat) ∉ trick.arrivals ∧ ((1, 0, 0) : Seat) ∈ trick.seats ∧ trick.arrivals.length + 1 < (distinctSeats trick.seats).length ∧
    notReached tricking trick trick.gen ∧ notReached tricking trick (trick.gen + 1) := by
  unfold notReached; decide
theorem witness_ShoeRegisters : (∀ o ∈ [0x20, 0x58, 0x50, 0x08], shoeWrite up 7 o) ∧ shoeReg up 7 0x18 ∧ shoeReg up 8 0x18 ∧ (regAt up 0 (ldgOff 0x18)).isSome = true ∧
    enableOk up 7 = false ∧ (up.shoe 7).enable = false ∧ (up.shoe 7).modItems = 0 := by
  unfold shoeWrite shoeReg; decide

/-- The package with an enabled shoe 0 that has an entry to fetch. -/
def dealing (items : List Item) : State :=
  { up with dl := { up.dl with shoes := tset up.dl.shoes 0 { sizeLog2 := 4, enable := true, produce := 2, sheetEnable := true, sheetSizeLog2 := 6 }, items := items } }
theorem witness_EntryFetch : diesUp (dealing []) = true ∧ mayFetch (dealing []) 0 = true ∧ mayFetch up 0 = false := by decide
theorem witness_EntryReadStartCommit : fetching (dealing [{ shoe := 0, seq := 1 }]) 0 { shoe := 0, seq := 1 } ∧
    nextItem (dealing [{ shoe := 0, seq := 1, st := .queued }]) 0 = some { shoe := 0, seq := 1, st := .queued } ∧
    mayRedeal (dealing []) = true ∧ turnNow (dealing [{ shoe := 0, seq := 1, st := .queued }]) 0 = true ∧
    findItem (deck 0 { level [] with pc := 0 }) 0 0 = some { shoe := 0, seq := 0, st := .running, levels := [level []] } := by
  unfold fetching; decide
theorem witness_OutcomesReported : diesUp (dealing []) = true ∧ canIssue (dealing []) (fnOf 0) = true ∧ ((dealing []).shoe 0).sheetActive = true ∧
    itemsOf (dealing [{ shoe := 0, seq := 1, st := .resolved }]) 0 = [{ shoe := 0, seq := 1, st := .resolved }] ∧
    ({ shoe := 0, seq := 1, st := .resolved } : Item).fixed = true := by decide

theorem steward_starts {op : Nat} {b : List Byte} (h : nextCmd (deck 8 (level b)) 8 0 0 op = some (level b, 0, b)) :
    cmdStarts (deck 8 (level b)) 8 0 0 op (level b) b := starts_of h (by intro h; omega)
theorem witness_ClaimCommands : cmdStarts (deck 8 (level (cmd 0x40 0 []))) 8 0 0 0x40 (level (cmd 0x40 0 [])) (cmd 0x40 0 []) ∧
    cmdStarts (deck 8 (level (cmd 0x41 0 []))) 8 0 0 0x41 (level (cmd 0x41 0 [])) (cmd 0x41 0 []) ∧ hostOk (deck 8 (level [])) 0 0 64 = true :=
  ⟨steward_starts rfl, steward_starts rfl, by decide⟩
theorem witness_ClaimReleases : cmdStarts (deck 8 (level (cmd 0x42 0 [7]))) 8 0 0 0x42 (level (cmd 0x42 0 [7])) (cmd 0x42 0 [7]) ∧
    (up.claim 7).st = .active ∧ (State.reset.claim 7).st ≠ .active := ⟨steward_starts rfl, by decide, by decide⟩
theorem witness_FunctionResets : diesUp up = true ∧ hostUp up = true ∧ hostUp State.reset = false ∧ (up.claim 7).st = .active ∧ (State.reset.claim 7).st = .free := by decide
theorem witness_ArbitrationRingsBindings : diesUp up = true ∧ engineIs true 95 ∧ engineIs false 15 ∧ (tget up.dl.cores 95).current = none ∧ ringReg up 8 0x08 ∧ ringReg up 0 0x10 ∧
    (regAt up 0 (clmOff 0x1000)).isSome = true := by unfold engineIs ringReg; decide
theorem witness_Redeals : diesUp up = true ∧ mayRedeal up = true ∧ writesWait up = false ∧ timerRuns (deck 0 (busy (cmd 0x01 1 [1]) (.macroWait 15))) (0, 0, 0x0301) = false ∧
    timerRuns (deck 0 (busy (cmd 0x04 1 []) (.waitMem true))) (0, 0, 0x0301) = true ∧ (regAt up 0 (ldgOff 0x108)).isSome = true ∧
    ({ up with redeal := { up.redeal with phase := .walking } } : State).redeal.phase = .walking := by decide
theorem witness_UnitFences : diesUp up = true ∧ classSize 3 = 32 ∧ (unitOf up 0 95).fenced = false ∧
    cmdStarts (deck 8 (level (cmd 0x46 0 [3]))) 8 0 0 0x46 (level (cmd 0x46 0 [3])) (cmd 0x46 0 [3]) := ⟨by decide, rfl, by decide, steward_starts rfl⟩
theorem witness_NestedDecks : cmdFresh (deck 0 (level (cmd 0x09 1 []))) 0 0 0 0x09 (level (cmd 0x09 1 [])) (cmd 0x09 1 []) ∧
    cmdFresh (deck 0 (level (cmd 0x02 1 [15]))) 0 0 0 0x02 (level (cmd 0x02 1 [15])) (cmd 0x02 1 [15]) ∧ (level []).ended = true :=
  ⟨⟨starts_of rfl (claim_wins 0), by decide⟩, ⟨starts_of rfl (claim_wins 0), by decide⟩, by decide⟩
theorem witness_ClaimPages : (∀ op ∈ [0, 1, 2, 3], pageStarts (deck 0 (level (cmd 0x0C 0 [BitVec.ofNat 8 op]))) 0 0 0 op
      (level (cmd 0x0C 0 [BitVec.ofNat 8 op])) (cmd 0x0C 0 [BitVec.ofNat 8 op])) ∧
    writesWait up = false ∧ (regAt up 0 (tierOff 0x400)).isSome = true ∧ (regAt up 0 (tierOff (0x100 + 8 * 7))).isSome = true ∧ moveOf up 8 0 = none := by
  refine ⟨?_, by decide, by decide, by decide, by decide⟩
  intro op hx
  simp only [List.mem_cons, List.not_mem_nil, or_false] at hx
  rcases hx with rfl | rfl | rfl | rfl <;> exact ⟨by decide, starts_of rfl (claim_wins 0), by decide⟩
theorem up_mgmt : mgmtUp up := by unfold mgmtUp; decide
theorem witness_PldmAnswers : mgmtUp up := up_mgmt
theorem witness_ManagementEvents : mgmtUp up ∧ up.mgmt.staticEid = 0 ∧ up.mgmt.mode ≠ .polling ∧ up.mgmt.awaiting = false ∧
    mgmtUp { up with mgmt := { up.mgmt with mode := .polling } } := by unfold mgmtUp; decide
/-- The package after a boot that failed. -/
def bootFailed : State := { up with boot := { up.boot with released := false, dev := .failed } }
theorem witness_BootRetryOnlyAfterBootFailure : mgmtUp bootFailed ∧ bootFailed.boot.dev = .failed ∧ bootFailed.boot.released = false := by unfold mgmtUp; decide
theorem witness_PowerEffecters : mgmtUp up ∧ up.boot.dev = .ready ∧ (∀ k, ¬ refusalCode up k) := ⟨up_mgmt, rfl, witness_PowerRequests.2.2.1⟩
theorem witness_SecurityBlocks : (regAt up 0 (secOff 0x18)).isSome = true ∧ hostOk up 0 0 256 = true ∧ mgmtUp up ∧ up.boot.dev ≠ .booting ∧
    (tget up.dbg.grants 7).live = false := ⟨by decide, by decide, up_mgmt, by decide, by decide⟩
/-- A packet of one byte for the endpoint, a whole message. -/
def packet : List Byte := [1, 8, 9, 0xC0, 0]
theorem witness_NonceFlashAndPackets : mgmtUp up ∧ up.boot.dev ≠ .booting ∧ mctpHere up packet true ∧ bit (field packet 3 1) 7 = true ∧
    ¬ mctpHere up packet false := by unfold mgmtUp mctpHere; decide
theorem witness_SpdmAnswers : mgmtUp up ∧ up.mgmt.spdmVersion = false ∧ measured up = false ∧
    mgmtUp { up with mgmt := { up.mgmt with spdmVersion := true, spdmCaps := true, spdmAlgs := true } } := by unfold mgmtUp; decide
/-- A live grant of claim 0 with both rights. -/
def granted : State := { up with dbg := { up.dbg with grants := tset up.dbg.grants 0 { live := true, observe := true, halt := true } } }
theorem witness_DebugActions : dbgReg granted 0 0x40008 ∧ dbgReg granted 0 0x40020 ∧ dbgAllowed granted 0 (·.halt) ∧ dbgRefused up 0 (·.observe) 0x09 ∧
    (regAt up 0 (secOff 0x18)).isSome = true := by unfold dbgReg dbgAllowed dbgRefused; decide
theorem witness_StewardStores :
    (∀ x ∈ [(0x43, 0), (0x44, 1), (0x45, 1), (0x47, 0)], cmdStarts (deck 8 (level (cmd x.1 x.2 []))) 8 0 0 x.1 (level (cmd x.1 x.2 [])) (cmd x.1 x.2 [])) ∧
    cmdFresh (deck 0 (level (cmd 0x06 1 []))) 0 0 0 0x06 (level (cmd 0x06 1 [])) (cmd 0x06 1 []) := by
  refine ⟨?_, starts_of rfl (claim_wins 0), by decide⟩
  intro x hx
  simp only [List.mem_cons, List.not_mem_nil, or_false] at hx
  rcases hx with rfl | rfl | rfl | rfl <;> exact steward_starts rfl

/-- A dispatched MACRO of claim 0 in a round. -/
def part : MacroInst := { id := 5, claim := 0, owner := .round 0, code := 2, phase := .dispatched }
/-- The armed round of two seats whose deal goes on, with its trick past the barrier. -/
def round : Armed := { claim := 0, round := 0, seatCount := 2, seats := [(0, 0, 0), (1, 0, 0)], tag := 7, tricks := [0], dealing := true, deal := 1, trig := 1, comp := 1, coreMask := 1 }
/-- The package with that round on controller 0, and a macro-instruction of it. -/
def armed (a : Armed) (m : MacroInst) : State :=
  { up with
    sync := { up.sync with tricks := tset up.sync.tricks 0 (some { trick with gen := 2 }) }
    rounds := { up.rounds with ctrls := tset up.rounds.ctrls 0 { armed := some a } }
    dl := { up.dl with macros := [m] } }

theorem witness_EccCommands : diesUp up = true ∧ eccReg up (0x1400 + 0x1000 * 0 + 4 * 87) ∧ eccReg up (0x1400 + 0x1000 * 6) ∧ eccReg up (0x1200 + 0x1000 * 6) ∧ eccReg up 0x200 ∧ eccReg up 0x128 ∧
    patchAt up 0 0 0 0 = none ∧ testLives { up with ecc := { up.ecc with target := 1 } } ∧ ¬ testLives { up with ecc := { up.ecc with target := 3 } } := by
  unfold eccReg testLives; decide
theorem witness_PcieCommands : diesUp up = true ∧ hostUp up = true ∧ hostUp State.reset = false ∧ writesWait up = false ∧ (regAt up 0 (hstOff (0x1000 + 0x40 * 8 + 16 * 3 + 8))).isSome = true := by decide

/-- The package with both Ethernet ports up, open raw rings. -/
def linked : State :=
  { up with net := { up.net with ports := Vector.replicate 2 { up := true }, rx := { sizeLog2 := 6, index := 5, enable := true }, tx := { sizeLog2 := 6, index := 5, enable := true } } }
/-- A broadcast frame of 14 bytes. -/
def frame : List Byte := List.replicate 12 255 ++ [0x12, 0x34]
theorem witness_EthernetPorts : diesUp linked = true ∧ writesWait linked = false ∧ (ethPort linked 1).up = true ∧ (ethPort up 1).up = false ∧ rawFrame linked 0 frame ∧ rawRoom linked frame ∧
    sendDue linked ∧ (regAt up 0 (entOff 0x1118)).isSome = true ∧ (regAt up 8 (0x61000 + 32 * 63 + 16)).isSome = true ∧
    (regAt up 0 (entOff (0x808 + 0x100 + 16 * 15))).isSome = true ∧ slotGood linked ([14, 0] ++ List.replicate 30 0) := by
  refine ⟨by decide, by decide, by decide, by decide, ⟨0x1234, 14, by decide, by decide, by decide, by decide⟩, ?_, ?_, by decide, by decide, by decide, ?_⟩ <;>
    simp only [rawRoom, sendDue, slotGood] <;> decide

/-- A queue pair of claim 0 in a state, with queues of 16 entries. -/
def pair (st : QpState) : Qp := { claim := 0, handle := 0, ctx := bytesAt [] 0 64 ++ [4, 4, 4] ++ List.replicate 61 0, st := st }
/-- The package with queue pair 0 of claim 0. -/
def paired (q : Qp) : State := { linked with net := { linked.net with qps := [q] } }
theorem witness_QueuePairs : qpReady up 7 ∧ (∀ o ∈ [0, 4, 8], qpDoor (paired (pair .rts)) 0 0 o (pair .rts)) ∧ qpIdle (paired (pair .rts)) 0 (pair .rts) ∧
    canIssue up (fnOf 7) = true ∧ winOk up (fnOf 7) (qpCtxAddr up 7) 128 = true := by
  simp only [qpReady, qpDoor, qpIdle]; decide
theorem witness_RocePackets : qpTakes (paired (pair .rtr)) 0 0 0 (pair .rtr) ∧ findQp (paired { pair .rts with sent := [{ index := 0, bytes := [] }] }) 0 0 =
    some { pair .rts with sent := [{ index := 0, bytes := [] }] } ∧ portSends linked 0 ∧ psnAtLeast 0 (0 + 1 - 1) = true ∧ psnAtLeast ((0 + 2 ^ 24 - 1) % 2 ^ 24) 0 = false := by
  simp only [qpTakes, portSends]; decide

/-- Port 0 is wired to direction 0, in a state. -/
def wired (st : PortState) : State := { up with link := { up.link with ports := tset up.link.ports 0 { st := st, dir := 0, lanes := Vector.replicate 8 { good := true, inUse := true } } } }
theorem witness_PortTraining : ∀ st ∈ [PortState.dark, .down, .training, .quarantined, .up], diesUp (wired st) = true ∧ ((wired st).port 0).st = st ∧
    mayTrain (wired st) 0 = true ∧ writesWait (wired st) = false ∧ (regAt (wired st) 0 (szlOff (0x100 * 11 + 0x20))).isSome = true := by decide
theorem witness_LanesAndFlits : diesUp (wired .up) = true ∧ trained (wired .up) 0 ∧ (laneOf (wired .up) 0 7).good = true ∧ (laneOf (wired .up) 0 7).inUse = true ∧
    (tget up.link.szlp 13).failed = false := by simp only [trained]; decide
/-- A message of a kind for this seat, of the round on controller 0. -/
def message (k : Nat) : List Byte := MsgHeader.bytes { kind := k, tag := 7 }
theorem witness_LinkMessages : (∀ k ∈ [1, 2, 3, 4, 5], (MsgHeader.read (message k)).kind = k) ∧ (MsgHeader.read (message 1)).dest = ownSeat up ∧ diesUp up = true ∧
    (armed round part).redealing = false ∧ messageRound (armed round part) (MsgHeader.read (message 1)) = some (0, round) ∧
    namesRelease (armed round part) (MsgHeader.read (message 1)) = false ∧ messageRound up (MsgHeader.read (message 1)) = none ∧
    routeFrom (wired .up) (1, 0, 0) = .dir 0 := by
  refine ⟨by decide, by decide, by decide, by decide, ?_, by decide, by decide, by decide⟩
  decide
/-- The package as a token follower whose designated round has committed two steps on controller 0. -/
def token : State :=
  { armed { round with commit := some 0 } part with beat := { (beating 2).beat with designate := true, tokenRound := 0 }, sync := { up.sync with tricks := tset up.sync.tricks 0 (some { trick with gen := 3 }) } }
theorem witness_BeatCounts : frameCount [] = none ∧ (frameCount (750 :: List.replicate 63 250)).isSome = true ∧ (beating 1).image.linkPort = 0 ∧ (beating 1).beat.held = 0 ∧
    trained (wired .up) 0 ∧ token.beat.source = 2 ∧ committedSteps token 0 = some 2 ∧ writesWait token = false ∧ (regAt token 0 (beatOff 0x28)).isSome = true := by
  unfold trained; decide
theorem witness_RoundCommands :
    roundCmd (deck 0 (level (cmd 0x0A 0 [0, 0, 1]))) 0 0 0 (level (cmd 0x0A 0 [0, 0, 1])) (cmd 0x0A 0 [0, 0, 1]) true ∧
    roundCmd (deck 0 (level (cmd 0x0A 0 []))) 0 0 0 (level (cmd 0x0A 0 [])) (cmd 0x0A 0 []) false ∧ roundRuns (armed round part) 0 round ∧
    handDue (armed { round with readyWait := .met } part) 0 { round with readyWait := .met } ∧ stillWaits round.readyWait := by
  refine ⟨⟨starts_of rfl (claim_wins 0), by decide⟩, ⟨starts_of rfl (claim_wins 0), by decide⟩, ?_, ?_, .inl rfl⟩ <;> simp only [roundRuns, handDue] <;> decide
theorem witness_MacroCommands : (∀ code ∈ [1, 2, 3, 4, 5, 6, 7, 8, 9], cmdStarts (deck 0 (level (cmd 0x01 1 [code]))) 0 0 0 0x01
      (level (cmd 0x01 1 [code])) (cmd 0x01 1 [code]) ∧ field (cmd 0x01 1 [code]) 6 1 = code.toNat) ∧
    macroWaits (deck 0 (busy (cmd 0x01 1 [1, 255]) (.macroWait 15))) 0 0 0 0 (busy (cmd 0x01 1 [1, 255]) (.macroWait 15)) (cmd 0x01 1 [1, 255]) 15 := by
  refine ⟨?_, ⟨{ granule := 0, st := .macroWait 15 }, 15, ⟨up_dies, rfl⟩, rfl, fun _ => ⟨fun k h => absurd h (by decide), fun _ =>
    ⟨fun h => absurd h (by decide), fun _ => ⟨fun _ => rfl, fun h => absurd ⟨by decide, by decide, fun c h => nomatch h⟩ h⟩⟩⟩⟩,
    fun k g h => (nomatch h), by decide⟩
  intro code hx
  simp only [List.mem_cons, List.not_mem_nil, or_false] at hx
  rcases hx with rfl | rfl | rfl | rfl | rfl | rfl | rfl | rfl | rfl <;> exact ⟨starts_of rfl (claim_wins 0), by decide⟩
/-- The round's macro-instruction runs on core 0, which has its one tile group. -/
def running : MacroInst := { part with phase := .running, cores := [0], groups := 1, granted := true, nextBlock := 1, works := [{ core := 0, block := 0 }] }
/-- The package with that tile group on core 0. -/
def grouping : State :=
  { armed round running with dl := { (armed round running).dl with cores := tset (armed round running).dl.cores 0 { slots := tset (Vector.replicate 12 none) 0 (some 5), current := some 5 } } }
theorem witness_MacroLife : partMayStart (armed round part) part ∧ groupEnds grouping 0 running { core := 0, block := 0 } ∧
    findMacro (armed round { running with nextGroup := 1 }) 5 = some { running with nextGroup := 1 } ∧ (tget up.dl.cores 95).contexts = [] := by
  simp only [partMayStart, groupEnds, groupLive, groupOf]; decide
theorem witness_AssayIndexes : indexReg up 63 ∧ writesWait up = false ∧ up.power.level = 0 ∧ (up.index 63).st = .unbound ∧ (regAt up 0 (asyOff 0x10)).isSome = true ∧ diesUp up = true ∧
    up.asy.windowOpen = false ∧ up.asy.batch = none ∧ up.redealing = false ∧ up.beat.aligned = false := by simp only [indexReg]; decide
/-- A search of claim 0 that waits, as the item of a deck does. -/
def search : Search := { shoe := 0, seq := 0, level := 0, granule := 0, index := 0, k := 1, probes := 1, queries := 256, qDesc := [], pDesc := [], rDesc := [] }
/-- The package with that search. -/
def searching : State := { deck 0 (busy (cmd 0x0B 1 []) .assay) with asy := { up.asy with waiting := [search] } }
theorem witness_AssaySearches :
    (∀ b ∈ [cmd 0x0B 1 [], cmd 0x0B 1 [255, 255]], cmdStarts (deck 0 (level b)) 0 0 0 0x0B (level b) b) ∧ field (cmd 0x0B 1 []) 6 2 ≠ 0xFFFF ∧
    field (cmd 0x0B 1 [255, 255]) 6 2 = 0xFFFF ∧ diesUp searching = true ∧ (∃ q ∈ searching.asy.waiting, searchLive searching q = true) ∧
    (∀ q ∈ searching.asy.waiting, q.queries ≤ 256) ∧ searching.beat.aligned = false ∧ searching.asy.batch = none ∧
    searching.power.level = 0 := by
  refine ⟨?_, by decide, by decide, by decide, ⟨search, List.mem_singleton.2 rfl, by decide⟩, by decide, by decide, by decide, by decide⟩
  intro b hx
  simp only [List.mem_cons, List.not_mem_nil, or_false] at hx
  rcases hx with rfl | rfl <;> exact starts_of rfl (claim_wins 0)

end Sys2Proof.Tests
end

section
/-! SUPPORT. Host accesses to registers (R6, R8, R9, R43, R417, R420): where a register answers, what an access of each width does
there, and that a register command acts through the register of its place. -/

namespace Sys2Proof

open Machine

/-! Where a register answers. -/

/-- A register of 64 bits answers at its own offset only, a multiple of 8. -/
theorem wideAt_eq_some_iff {s : State} {fn off : Nat} {r : RegRow × Nat} :
    wideAt s fn off = some r ↔ regAt s fn off = some r ∧ r.1.wide = true ∧ off % 8 = 0 := by
  unfold wideAt
  cases regAt s fn off with
  | none => simp
  | some q =>
    simp only [Option.ite_none_right_eq_some, Option.some.injEq, Bool.and_eq_true, decide_eq_true_eq]
    constructor
    · rintro ⟨hq, rfl⟩; exact ⟨rfl, hq⟩
    · rintro ⟨rfl, hq⟩; exact ⟨hq, rfl⟩

theorem narrowAt_eq_some_iff {s : State} {fn off : Nat} {r : RegRow × Nat} :
    narrowAt s fn off = some r ↔ regAt s fn off = some r ∧ r.1.wide = false ∧ off % 4 = 0 := by
  unfold narrowAt
  cases regAt s fn off with
  | none => simp
  | some q =>
    simp only [Option.ite_none_left_eq_some, Option.some.injEq, Bool.or_eq_true, decide_eq_true_eq, not_or, Bool.not_eq_true,
      not_not]
    constructor
    · rintro ⟨hq, rfl⟩; exact ⟨rfl, hq⟩
    · rintro ⟨rfl, hq⟩; exact ⟨hq, rfl⟩

theorem narrowAt_of_wideAt {s : State} {fn off : Nat} {r : RegRow × Nat} (h : wideAt s fn off = some r) : narrowAt s fn off = none := by
  obtain ⟨hr, hw, -⟩ := wideAt_eq_some_iff.1 h
  simp [narrowAt, hr, hw]

theorem wideAt_of_narrowAt {s : State} {fn off : Nat} {r : RegRow × Nat} (h : narrowAt s fn off = some r) : wideAt s fn off = none := by
  obtain ⟨hr, hw, -⟩ := narrowAt_eq_some_iff.1 h
  simp [wideAt, hr, hw]

/-- A register answers only of a function that the package has, while the endpoint completes that function's requests (R43, R422). -/
theorem regAt_answers {s : State} {fn off : Nat} {r : RegRow × Nat} (h : regAt s fn off = some r) : fn < 9 ∧ completes s fn = true := by
  by_cases hc : !fnAnswers s fn ∨ 8 < fn ∨ (s.boot.dev = .failed ∧ !failedAnswers fn off)
  · rw [regAt, regRows, if_pos hc] at h
    cases h
  · simp only [Bool.not_eq_true', not_or, Bool.not_eq_false] at hc
    obtain ⟨ha, hf, -⟩ := hc
    simp only [fnAnswers, Bool.and_eq_true] at ha
    exact ⟨by omega, by simp [completes, ha.1]⟩

/-! What an access leaves alone. -/

theorem fn_modFn_same (s : State) {fn : Nat} (f : Fn → Fn) (h : fn < 9) : tget (s.modFn fn f).fns fn = f (tget s.fns fn) :=
  tget_tmod_same s.fns f h

theorem modFn_only (s : State) (fn : Nat) (f : Fn → Fn) : OnlyParts [.fns] s (s.modFn fn f) :=
  (State.modFn_moves s fn f (Moves.refl 1024 s) rfl).only (covers_spec rfl)

/-- What a read sets going sends nothing. -/
@[simp] theorem readEffects_out (s : State) (fn off : Nat) : (readEffects s fn off).out = s.out :=
  (readEffects_moves s fn off (Moves.refl 132096 s) rfl).rest .out rfl

/-- PWR_MEASURE is no entry of several words: its read only restarts peak_w (R420). -/
theorem readEffects_measure (s : State) : readEffects s 0 measureOff = s.modPower fun p => { p with peakW := 0 } := rfl

/-- After a whole write of a register no low half of it is held. -/
theorem dropHold_holds (s : State) {fn : Nat} (off : Nat) (h : fn < 9) : alookup (tget (dropHold s fn off).fns fn).holds off = none := by
  rw [dropHold, fn_modFn_same s _ h]
  exact alookup_aerase_same _ _

/-! Writes that apply at once: no register write waits for P0, or the register acts in P2 too (R393). -/

theorem writeAt_writesNow {c : Instr} {fn off : Nat} {k : State → State} {s : State} (h : writesNow s fn off) : writeAt c fn off k s = k s := by
  rcases h with hw | ha
  · exact writeAt_now hw
  · exact if_pos ha

theorem exec_registerWrite {s : State} {fn off : Nat} (width v : Nat) (h : writesNow s fn off) :
    exec (.registerWrite fn off width v) s = .next (regWrite s fn off width v) := congrArg Host.Outcome.next (writeAt_writesNow h)

theorem exec_regLowHalfWrite {s : State} {fn off : Nat} (v : Nat) (h : writesNow s fn off) :
    exec (.regLowHalfWrite fn off v) s = .next (writeLow s fn off v) := congrArg Host.Outcome.next (writeAt_writesNow h)

theorem exec_regHighHalfWrite {s : State} {fn off : Nat} (v : Nat) (h : writesNow s fn off) :
    exec (.regHighHalfWrite fn off v) s = .next (writeHigh s fn off v) := congrArg Host.Outcome.next (writeAt_writesNow h)

section Wide

variable {s : State} {fn off : Nat} {r : RegRow × Nat} (h : wideAt s fn off = some r)
include h

theorem writeLow_wide (v : Nat) : writeLow s fn off v = s.modFn fn fun f => { f with holds := ainsert f.holds off (v % 2 ^ 32) } := by
  simp [writeLow, h]

theorem writeHigh_wide (v : Nat) :
    writeHigh s fn off v =
      commit64 s fn off ((alookup (tget s.fns fn).holds off).getD (r.1.val r.2 % 2 ^ 32) + 2 ^ 32 * (v % 2 ^ 32)) r := by
  simp [writeHigh, h]

theorem regWrite_wide (v : Nat) : regWrite s fn off 8 v = commit64 s fn off v r := by
  obtain ⟨-, -, h8⟩ := wideAt_eq_some_iff.1 h
  simp [regWrite, h8, h]

/-- A read of the low half answers it and latches the high half (R8). -/
theorem readWidth_low :
    readWidth s fn off 4 = ((readEffects s fn off).modFn fn fun f => { f with latches := ainsert f.latches off (regValue s fn off r / 2 ^ 32) },
      regValue s fn off r % 2 ^ 32) := by
  simp [readWidth, read32, narrowAt_of_wideAt h, h]

theorem readWidth_whole : readWidth s fn off 8 = (readEffects s fn off, regValue s fn off r) := by
  obtain ⟨-, -, h8⟩ := wideAt_eq_some_iff.1 h
  simp [readWidth, read64, h8, h]

end Wide

section Narrow

variable {s : State} {fn off : Nat} {r : RegRow × Nat} (h : narrowAt s fn off = some r)
include h

theorem write32Reg_narrow (v : Nat) : write32Reg s fn off v = r.1.wr r.2 (v % 2 ^ 32) s := by
  simp [write32Reg, h]

theorem regWrite_narrow (v : Nat) : regWrite s fn off 4 v = r.1.wr r.2 (v % 2 ^ 32) s := by
  obtain ⟨-, -, h4⟩ := narrowAt_eq_some_iff.1 h
  simp [regWrite, h4, h, write32Reg_narrow h]

/-- A 64-bit write over a register of 32 bits is two writes, the lower address first (R417). -/
theorem regWrite_narrow_pair (v : Nat) (h8 : off % 8 = 0) :
    regWrite s fn off 8 v = write32Reg (r.1.wr r.2 (v % 2 ^ 32) s) fn (off + 4) (v / 2 ^ 32) := by
  simp [regWrite, h8, wideAt_of_narrowAt h, write32Reg_narrow h]

end Narrow

/-! Reads. -/

theorem completeRead_of_completes {s : State} {fn : Nat} (off : Nat) (x : State × Nat) (h : completes s fn = true) :
    completeRead s fn off x = x.1.emit (.regRead fn off x.2) := if_pos h

theorem completeRead_of_not_completes {s : State} {fn : Nat} (off : Nat) (x : State × Nat) (h : completes s fn = false) :
    completeRead s fn off x = s := by simp [completeRead, h]

/-- A read where a register answers completes with what an access of its width finds. -/
theorem exec_regLowHalfRead {s : State} {fn off width v : Nat} {r : RegRow × Nat} {t : State} (h : regAt s fn off = some r)
    (hv : readWidth s fn off width = (t, v)) : exec (.regLowHalfRead fn off width) s = .next (t.emit (.regRead fn off v)) := by
  rw [regLowHalfRead_runs, hv, completeRead_of_completes off _ (regAt_answers h).2]

/-- A read changes function registers and power, and sends its completion. -/
theorem regLowHalfRead_only {s t : State} {fn off width : Nat} (h : exec (.regLowHalfRead fn off width) s = .next t) :
    OnlyParts [.fns, .power, .out] s t := by
  obtain ⟨u, hu, ho⟩ := (regLowHalfRead_within fn off width s).only
  cases h.symm.trans hu
  exact ho.sub rfl

/-- PWR_MEASURE_READ is a read of that register, whole or of its low half. -/
theorem exec_pwrMeasureRead (wide : Bool) (s : State) :
    exec (.pwrMeasureRead wide) s = exec (.regLowHalfRead 0 measureOff (if wide then 8 else 4)) s := rfl

/-! The place of a register command. Shoes, rings and claims go by number: a write of theirs is one through a register, which does
nothing for a number out of range. -/

theorem viaShoe_eq_viaReg (s : State) (n o : Nat) (k : State → State) :
    viaShoe s n o k = viaReg s (fnOf n) (shoeOff n o) fun s => if n < 9 then k s else s := by
  by_cases hn : n < 9 <;> simp [viaShoe, viaReg, hn]

theorem viaRing_eq_viaReg (s : State) (n o : Nat) (k : State → State) :
    viaRing s n o k = viaReg s (fnOf n) (ringOff n o) fun s => if n < 9 then k s else s := by
  by_cases hn : n < 9 <;> simp [viaRing, viaReg, hn]

theorem viaClaim_eq_viaReg (s : State) (n o : Nat) (k : State → State) :
    viaClaim s n o k = viaReg s (n + 1) o fun s => if n < 8 then k s else s := by
  by_cases hn : n < 8 <;> simp [viaClaim, viaReg, hn]

theorem viaClaimWide_eq_viaReg (s : State) (n o : Nat) (k : State → State) :
    viaClaimWide s n o k = viaReg s (n + 1) o fun s => if n < 8 then k (dropHold s (n + 1) o) else s := by
  by_cases hn : n < 8 <;> simp [viaClaimWide, viaWide, viaReg, hn]

/-- A command with a place acts through the register there, whatever the state. -/
theorem exec_through_place {i : Instr} {fn off : Nat} (h : i.place = some (fn, off)) :
    ∃ k : State → State, ∀ s, exec i s = .next (viaReg s fn off k) := by
  cases i with
  | shoeDoorbell | sheetConsumedWrite | shoeEnable | shoeDisable | sheetEnable | shoeFetchWrite =>
    cases h; exact ⟨_, fun s => congrArg Host.Outcome.next (viaShoe_eq_viaReg s ..)⟩
  | evtRingEnable | evtRingConsumedWrite =>
    cases h; exact ⟨_, fun s => congrArg Host.Outcome.next (viaRing_eq_viaReg s ..)⟩
  | qpCreate | qpModify | qpDestroy | qpQuery | sqDoorbell | rqDoorbell | cqConsumedWrite | dbgHalt | dbgResume | dbgStep | dbgObserve =>
    cases h; exact ⟨_, fun s => congrArg Host.Outcome.next (viaClaim_eq_viaReg s ..)⟩
  | tlyOpAdd | tlyOpSet | tlyOpPoison | tlyHostWaitArm | entMrWrite =>
    cases h; exact ⟨_, fun s => congrArg Host.Outcome.next (viaClaimWide_eq_viaReg s ..)⟩
  | beatCalCommitArm | beatCalShadowWrite | tierLookup | tlyDevOpAdd | tlyDevOpSet | tlyDevOpArm | tlyDevOpPoison | hstWinWrite
  | entGidCommit | asyIndexBind | asyIndexUnbind | eccPatchInstall | eccPatchRemove
  | beatTokenDesignate | clmRtBindWrite | ldgLookup | tierCommonShareWrite | szlHoldDown | szlRetrain | szlClearCounters
  | rawRxConsumedWrite | rawTxProduce | asyAdvanceWrite | eccCeOverClear | eccLogRelease | eccTestWriteNormal | eccTestWriteSplit
  | eccTestRead | eccTestArmFlip | redealRequest | redealResume | secKeySlot | secDebugGrant | secDebugRevoke | secVendorOpen
  | pwrRequestP2 | pwrRequestP0 | pwrRequestP3 =>
    cases h; exact ⟨_, fun _ => rfl⟩
  | _ => cases h

/-! The halves of a register of 64 bits. -/

section Halves

variable {s : State} {fn off : Nat} {r : RegRow × Nat} (h : wideAt s fn off = some r)
include h

theorem regLowHalfWrite_holds (v : Nat) (hw : writesNow s fn off) :
    Runs (.regLowHalfWrite fn off v) s (fun t => alookup (tget t.fns fn).holds off = some (v % 2 ^ 32) ∧ OnlyParts [.fns] s t) := by
  refine ⟨_, (exec_regLowHalfWrite v hw).trans (congrArg _ (writeLow_wide h v)), ?_, modFn_only s _ _⟩
  rw [fn_modFn_same s _ (regAt_answers (wideAt_eq_some_iff.1 h).1).1]
  exact alookup_ainsert_same ..

theorem regHighHalfWrite_commits (v : Nat) (hw : writesNow s fn off) :
    exec (.regHighHalfWrite fn off v) s = .next (r.1.wr r.2
      (((alookup (tget s.fns fn).holds off).getD (r.1.val r.2 % 2 ^ 32) + 2 ^ 32 * (v % 2 ^ 32)) % 2 ^ 64) (dropHold s fn off)) := by
  rw [exec_regHighHalfWrite v hw, writeHigh_wide h, commit64]

theorem registerWrite_commits (v : Nat) (hw : writesNow s fn off) :
    exec (.registerWrite fn off 8 v) s = .next (r.1.wr r.2 (v % 2 ^ 64) (dropHold s fn off)) := by
  rw [exec_registerWrite 8 v hw, regWrite_wide h, commit64]

theorem regLowHalfRead_latches :
    Runs (.regLowHalfRead fn off 4) s (fun t => alookup (tget t.fns fn).latches off = some (regValue s fn off r / 2 ^ 32) ∧
      t.out = s.out ++ [.regRead fn off (regValue s fn off r % 2 ^ 32)] ∧ OnlyParts [.fns, .power, .out] s t) := by
  obtain ⟨hr, -, -⟩ := wideAt_eq_some_iff.1 h
  have he := exec_regLowHalfRead hr (readWidth_low h)
  refine ⟨_, he, ?_, by simp, regLowHalfRead_only he⟩
  rw [State.emit_fns, fn_modFn_same _ _ (regAt_answers hr).1]
  exact alookup_ainsert_same ..

theorem regLowHalfRead_whole :
    Runs (.regLowHalfRead fn off 8) s (fun t => t.out = s.out ++ [.regRead fn off (regValue s fn off r)] ∧
      OnlyParts [.fns, .power, .out] s t) := by
  have he := exec_regLowHalfRead (wideAt_eq_some_iff.1 h).1 (readWidth_whole h)
  exact ⟨_, he, by simp, regLowHalfRead_only he⟩

end Halves

/-- A read of any other width returns 0 (R9). -/
theorem regLowHalfRead_other_width {s : State} {fn off width : Nat} (hc : completes s fn = true) (h4 : width ≠ 4) (h8 : width ≠ 8) :
    exec (.regLowHalfRead fn off width) s = .next (s.emit (.regRead fn off 0)) := by
  rw [regLowHalfRead_runs, completeRead_of_completes off _ hc, readWidth, if_neg h4, if_neg h8]

/-! PWR_MEASURE. -/

/-- A read of PWR_MEASURE, whole or of its low half, restarts the peak (R420). -/
theorem pwrMeasureRead_restarts {s : State} (wide : Bool) {r : RegRow × Nat} (h : wideAt s 0 measureOff = some r) :
    Runs (.pwrMeasureRead wide) s fun t => t.power = { s.power with peakW := 0 } ∧
      t.out = s.out ++ [.regRead 0 measureOff (if wide then regValue s 0 measureOff r else regValue s 0 measureOff r % 2 ^ 32)] ∧
      OnlyParts [.fns, .power, .out] s t := by
  obtain ⟨hr, -, -⟩ := wideAt_eq_some_iff.1 h
  unfold Runs
  rw [exec_pwrMeasureRead]
  cases wide with
  | false =>
    have he := exec_regLowHalfRead hr (readWidth_low h)
    exact ⟨_, he, by simp [readEffects_measure], by simp, regLowHalfRead_only he⟩
  | true =>
    have he := exec_regLowHalfRead hr (readWidth_whole h)
    exact ⟨_, he, by simp [readEffects_measure], by simp, regLowHalfRead_only he⟩

/-! The statements. -/

/-- Settles O1: on a queue with a command at its front, step is exec of that command by definition; the queue is the model's own. -/
theorem stepRunsFrontCommand : Obligations.StepRunsFrontCommand := fun _ _ => rfl

/-- Settles O9: a command acts through the register of its place, and a write is discarded where none answers (R9). -/
theorem unansweredWritesDiscarded : Obligations.UnansweredWritesDiscarded := by
  intro i s fn off hp hr
  obtain ⟨k, hk⟩ := exec_through_place hp
  rw [hk, viaReg_neg hr]

/-- Settles O10, from what each access of a register of 64 bits does (R8, R9, R43). -/
theorem halvesOfWideRegisters : Obligations.HalvesOfWideRegisters := by
  refine ⟨fun s fn off v r h => ?_, fun s fn off width => ⟨regLowHalfRead_other_width, fun hc => ?_⟩⟩
  · have hfn : fn < 9 := (regAt_answers (wideAt_eq_some_iff.1 h).1).1
    exact ⟨regLowHalfWrite_holds h v,
      fun hw => ⟨dropHold s fn off, dropHold_holds s off hfn, modFn_only s _ _, regHighHalfWrite_commits h v hw, registerWrite_commits h v hw⟩,
      regLowHalfRead_latches h, regLowHalfRead_whole h⟩
  · rw [regLowHalfRead_runs, completeRead_of_not_completes off _ hc]

/-- Settles O11, from the writes of a register of 32 bits (R6, R417) and the read of PWR_MEASURE (R420). -/
theorem narrowRegistersAndMeasure : Obligations.NarrowRegistersAndMeasure := by
  refine ⟨fun s fn off v r h hw => ⟨?_, fun h8 => ?_⟩, fun s wide r h => pwrMeasureRead_restarts wide h⟩
  · rw [exec_registerWrite 4 v hw, regWrite_narrow h]
  · rw [exec_registerWrite 8 v hw, regWrite_narrow_pair h v h8]

end Sys2Proof
end

section
/-! SUPPORT. Commands of the main dies while these are held (log entry 8): each is guarded by dies that run. -/

namespace Sys2Proof

open Machine

/-- The endpoint carries requests out only on dies that run (R43). -/
theorem diesUp_of_hostUp {s : State} (h : hostUp s = true) : diesUp s = true := by
  simp only [hostUp, Bool.and_eq_true, and_assoc] at h
  obtain ⟨hr, hs, -, -⟩ := h
  simp only [diesUp, hr, hs, Bool.and_self]

/-- A command that goes through the endpoint does nothing while that is not ready (R43). -/
theorem exec_endpoint_down {i : Instr} {k : State → State} {s : State} (he : exec i = onHost k) (h : hostUp s = false) :
    exec i s = .next s := by
  rw [he, onHost, if_neg (by simp [h])]

/-- Each command of the main dies is carried out behind one of three guards: the dies run, they run in P0, or the endpoint is ready. -/
theorem exec_guarded {i : Instr} (h : i.byDies = true) :
    ∃ k : State → State, exec i = onDies k ∨ exec i = onRun k ∨ exec i = onHost k := by
  cases i with
  | pinBeatEdge | pinBeatFrame | reservationApplyTimeout | linkBeatMessage | tokenBeatCommit | fillerBeat | beatLoss | holdoverBeatEdge
  | shareSet | scrubSlice | heatAge | assayWindow | epochAdvance | rollCall | checkpointWindow | checkpointWindowEnd | markCmd
  | claimCreate | claimModify | claimRelease | claimReleaseEnd | arbitrationFrameStart | arbitrationGrant | flrComplete | rtBindApply
  | shoeFetchEntry | deckReadComplete | itemStart | nop | matmul | attend | attendBwd | sfn | norm | reduceCmd | hoist | convertCmd
  | assayRerank | macroDispatch | macroStart | tileGroupEnd | macroComplete | p1Entry | laneDeck | laneDeckComplete | tallyAdd | tallySet
  | tallyWaitGe | tallyWaitEq | tallyArm | tallyPoison | waitMem | waitMemPoll | waitMemReadReturn | writeMem | hostCopy | ifCmd | loopCmd
  | loopIterationStart | callCmd | callComplete | roundArm | roundDisarm | assaySearch | assayMerge | pageMap | pageUnmap | pagePromote
  | pageDemote | pageMoveCommit | clearCmd | clearComplete | commonLoad | commonRemove | tableLoad | tableLoadCommit | fenceClear | sealCmd
  | shoeTimeout | rtLaneTimeout | itemCommit | outcomeWrite | moderationTimeout | trickArriveReceived | trickReleaseReceived
  | trickPoisonReceived | portTrainingStart | portTrainingTimeout | portRetrainTimer | helloReceived | quarantineReceived | flitReceived
  | nakReceived | replayLimitReached | laneFailure | lanesReceived | lanesAckReceived | portFailure | echoTimer | echoReceived
  | handReceived | putReceived | signalReceived | receiptReceived | abortReceived | receiptTimeout | messageForward | szlpLinkFailure
  | szlpRetrain | failedPortIdle | roundStepTrigger | roundHandSend | passTimeout | pcieLinkTrain | pcieLinkDown | hostReadError
  | ethLinkNegotiate | ethFrameReceived | roceAckReceived | roceNakReceived | qpAckTimeout | rdmaWriteReceived | rdmaReadReceived
  | roceSendReceived | cnpReceived | cePacketReceived | rateIncreaseTimer | pfcFrameReceived | eccWriteBack | redealWalkEnd
  | redealBoundExpiry | redealStallAlert | dealerUnitFault | lamphouseUnitDisable | debugGrantExpiry | ethLinkLoss | rnrTimerExpiry => exact ⟨_, .inl rfl⟩
  | batchComplete | continuousBatch | backfill | assayWindowClose => exact ⟨_, .inr (.inl rfl)⟩
  | functionLevelReset | vfEnableClear | vfEnableSet | pfFunctionLevelReset | busMasterEnableWrite | d3hotTransition | msixMaskChange
  | unsupportedRequestReceived => exact ⟨_, .inr (.inr rfl)⟩
  | _ => cases h

/-- Settles O8: while the dies are held every guard of their commands is closed (log entry 8). -/
theorem heldDiesDoNothing : Obligations.HeldDiesDoNothing := by
  intro i s hi hd
  have hh : hostUp s = false := Bool.eq_false_iff.2 fun h => by simp [diesUp_of_hostUp h] at hd
  obtain ⟨k, he | he | he⟩ := exec_guarded hi
  · rw [he, onDies, if_neg (by simp [hd])]
  · rw [he, onRun, if_neg (by simp [hd])]
  · exact exec_endpoint_down he hh

end Sys2Proof
end


section
/-! SUPPORT. The failure exits of the boot (R33, R42, Table 2.7). -/

namespace Sys2Proof

open Machine

/-! Frames. -/

/-- What a command may change, for one whose next state is known. -/
theorem Within.only_of {i : Instr} {s t : State} (h : Within i s) (he : exec i s = .next t) : OnlyParts i.parts s t := by
  obtain ⟨u, hu, ho⟩ := h.only
  cases he.symm.trans hu
  exact ho

theorem modBoot_only (s : State) (f : Boot → Boot) : OnlyParts [.boot] s (s.modBoot f) := by
  intro p hp
  cases p with
  | boot => exact absurd (by decide) hp
  | _ => rfl

theorem emit_only (s : State) (o : Output) : OnlyParts [.out] s (s.emit o) := by
  intro p hp
  cases p with
  | out => exact absurd (by decide) hp
  | _ => rfl

/-! What the operations of a failure exit leave in the boot registers. -/

theorem setCopyCause_boot (s : State) (c k : Nat) :
    (setCopyCause s c k).boot = if c = 0 then { s.boot with copyACause := k } else { s.boot with copyBCause := k } := by
  simp [setCopyCause]

theorem candFail_boot (s : State) (c k : Nat) :
    (candFail s c k).boot = { (setCopyCause s c k).boot with fallback := s.boot.fallback || s.boot.img.isNone } := by
  by_cases hc : c = 0 <;> simp [candFail, setCopyCause_boot, hc]

theorem copyCause_candFail (s : State) (c k : Nat) : copyCause (candFail s c k).boot c = k := by
  by_cases hc : c = 0 <;> simp [copyCause, candFail_boot, setCopyCause_boot, hc]

theorem copyCause_candFail_other (s : State) (c k : Nat) : copyCause (candFail s c k).boot (1 - c) = copyCause s.boot (1 - c) := by
  by_cases hc : c = 0
  · simp [copyCause, candFail_boot, setCopyCause_boot, hc]
  · simp [copyCause, candFail_boot, setCopyCause_boot, hc, show 1 - c = 0 by omega]

@[simp] theorem candFail_img (s : State) (c k : Nat) : (candFail s c k).boot.img = s.boot.img := by
  by_cases hc : c = 0 <;> simp [candFail_boot, setCopyCause_boot, hc]

@[simp] theorem candFail_released (s : State) (c k : Nat) : (candFail s c k).boot.released = s.boot.released := by
  by_cases hc : c = 0 <;> simp [candFail_boot, setCopyCause_boot, hc]

theorem candFail_only (s : State) (c k : Nat) : OnlyParts [.boot] s (candFail s c k) :=
  (candFail_moves s c k (Moves.refl 16 s) rfl).only (covers_spec rfl)

/-- The first step of the boot senses the fuses and leaves the boot registers as they are. -/
@[simp] theorem bootSense_boot (s : State) : (bootSense s).boot = s.boot := (bootSense_moves s (Moves.refl 327682 s) rfl).rest .boot rfl

/-- Both copies fail with one cause, and the boot ends FAILED. -/
theorem bootFailed_both (s : State) (k : Nat) (h : s.boot.released = false) :
    (bootFailed (setCopyCause (setCopyCause s 0 k) 1 k)).boot =
      { s.boot with copyACause := k, copyBCause := k, step := 0, cands := [], released := false, dev := .failed } := by
  rw [bf_boot _ (by simp [setCopyCause_boot, h])]
  simp [setCopyCause_boot]

/-! The first rise of STBY_PWROK. -/

section Rise

variable {s : State} {env : BootEnv} (flash : Flash) (fuses : Fuses) (hp : s.boot.stbyPwrok = false) (hf : s.boot.found = false)
include hp hf

theorem stbyRise_rests (hr : env.stall = 1) :
    stbyRise s flash fuses env =
      (s.modBoot fun b =>
        { b with
          flash := flashKept flash, fuses := fuses, found := true, stbyPwrok := true, lamphouse := true, mainEn := true
          step := 1, heldSince := s.now, qualified := powerGood s, wasQualified := powerGood s }).emit (.pin "MAIN_EN" true) := by
  simp [stbyRise, hp, hf, hr, State.modBoot]

/-- A sense error of the fuses ends the boot (Table 2.7, step 1). -/
theorem stbyRise_senseError (hr : env.stall ≠ 1) (he : fuses.senseError = true) (hd : s.boot.released = false) :
    let t := stbyRise s flash fuses env
    t.boot.dev = .failed ∧ t.boot.copyACause = 0x0801 ∧ t.boot.copyBCause = 0x0801 ∧ t.boot.lamphouse = true := by
  simp [stbyRise, hp, hf, hr, he, hd, bootFailed_both]

end Rise

/-! A flash read that is not answered. -/

section Unanswered

variable {s : State} (env : BootEnv) {c : Nat} (hs : s.boot.step = 4) (hc : s.boot.cands = [c]) (hi : s.boot.img = none)
  (hd : s.boot.released = false)
include hs hc hi hd

/-- The last candidate's read is not answered while no image is held: nothing is left to verify (R36). -/
theorem flashTimeout_last : flashTimeout s env = bootFailed ((candFail s c 0x0801).modBoot fun b => { b with fallback := false }) := by
  simp only [flashTimeout, hs, hc, bootVerify, candFail_img, hi, Option.isSome_none, Bool.false_eq_true, if_false]
  refine tryRelease_not _ env ?_
  rw [bf_boot _ (by simpa using hd)]
  exact fun h => nomatch h

theorem flashTimeout_fails :
    let t := flashTimeout s env
    t.boot.dev = .failed ∧ copyCause t.boot c = 0x0801 ∧ copyCause t.boot (1 - c) = copyCause s.boot (1 - c) ∧
      OnlyParts [.boot, .mgmt, .out] s t := by
  have hr : ((candFail s c 0x0801).modBoot fun b => { b with fallback := false }).boot.released = false := by simpa using hd
  rw [flashTimeout_last env hs hc hi hd]
  refine ⟨?_, ?_, ?_, ?_⟩
  · rw [bf_boot _ hr]
  · rw [bf_boot _ hr]; exact copyCause_candFail s c _
  · rw [bf_boot _ hr]; exact copyCause_candFail_other s c _
  · exact ((candFail_only s c _).sub rfl).trans (((modBoot_only _ _).sub rfl).trans (bf_only _ hr))

end Unanswered

/-! A boot step past its limit. -/

/-- A release that overruns in step 10, 11 or 12 has failed (Table 2.7). -/
theorem stepTimeout_release {s : State} (env : BootEnv) (h : s.boot.step = 10 ∨ s.boot.step = 11 ∨ s.boot.step = 12) :
    stepTimeout s env = releaseFailed s := by
  rcases h with h | h | h <;> simp [stepTimeout, h]

/-- The discovery of the flash overruns: the cause is that of a failed discovery, for both copies (log entries 14 and 120). -/
theorem stepTimeout_discovery {s : State} (env : BootEnv) (h : s.boot.step = 2) (hd : s.boot.released = false) :
    let t := stepTimeout s env
    t.boot.dev = .failed ∧ t.boot.copyACause = 0x0807 ∧ t.boot.copyBCause = 0x0807 := by
  simp [stepTimeout, h, bootFailed_both, hd]

/-- Settles O12: the exits of step 1, of an unanswered flash read and of a step past its limit (R33, R42). -/
theorem standbyAndBootFailures : Obligations.StandbyAndBootFailures := by
  refine ⟨fun s flash fuses env hp hf => ⟨fun hr => ?_, fun hr he hd => ?_⟩,
    fun s env c hs hc _ hi hd => ?_, fun s env => ⟨fun h => ?_, fun h hd => ?_⟩⟩
  · refine ⟨_, (stbyPwrokRise_runs ..).trans (congrArg _ (stbyRise_rests flash fuses hp hf hr)), ?_⟩
    refine ⟨rfl, rfl, rfl, rfl, rfl, rfl, rfl, ?_⟩
    exact ((modBoot_only s _).sub rfl).trans ((emit_only _ _).sub rfl)
  · exact ⟨_, stbyPwrokRise_runs .., stbyRise_senseError flash fuses hp hf hr he hd⟩
  · exact ⟨_, flashReadTimeout_runs .., flashTimeout_fails env hs hc hi hd⟩
  · exact ⟨_, (bootStepTimeout_runs ..).trans (congrArg _ (stepTimeout_release env h)), releaseFailed_boot s⟩
  · exact ⟨_, bootStepTimeout_runs .., stepTimeout_discovery env h hd⟩

end Sys2Proof
end

section
/-! SUPPORT. The release of the main dies (R41, R434) and the end of the boot (R42). -/

namespace Sys2Proof

open Machine

/-- Without RESET_L high nothing is released (R41). -/
theorem tryRelease_reset_low {s : State} (env : BootEnv) (h : s.boot.resetL = false) : tryRelease s env = s := by
  have hm : mayRelease s = false := by simp [mayRelease, h]
  simp [tryRelease, hm]

/-- The first rise of PWROK qualifies at once (log entry 21). -/
theorem pwrokRise_qualifies {s : State} {env : BootEnv} (hw : waitsForRelease s)
    (hg : powerGood (s.modBoot fun b => { b with pwrok := true }) = true)
    (hu : s.boot.wasQualified = false) :
    pwrokRise s env = tryRelease (s.modBoot fun b => { b with pwrok := true, qualified := true, wasQualified := true }) env := by
  obtain ⟨hl, -⟩ := hw
  rw [pwrokRise, if_pos ⟨hg, by simp [hu], by simpa using hl⟩]
  rfl

section Release

variable {s : State} {env : BootEnv} (hs : env.stall = 10)
include hs

/-- A state that waits for R41 with RESET_L and qualified PWROK high is released at once. -/
theorem tryRelease_now {u : State} (hw : waitsForRelease u) (hr : u.boot.resetL = true) (hq : u.boot.qualified = true)
    (hn : u.now = s.now) (hi : u.boot.img = s.boot.img) : releasedNow s (tryRelease u env) := by
  obtain ⟨hl, him, hst, hd, hp, -, hm, h3⟩ := hw
  refine release_now s u env hs ?_ hst hn hi
  simp [mayRelease, hl, him, hr, hq, hm, hd, hp, h3]

variable (hw : waitsForRelease s)
include hw

theorem resetRise_releases (hr : s.boot.resetL = false) (hq : s.boot.qualified = true) : releasedNow s (resetRise s env) := by
  obtain ⟨hl, him, hst, hd, hp, hdev, hm, -⟩ := hw
  have hf : bootHasFailed (setLevel (logHold (s.modBoot fun b => { b with resetL := true, mainEn := true }) env.heldNs) 0) = false := by
    simp [bootHasFailed, logHold, hdev]
  simp only [resetRise, hr, hl, hm, hf, Bool.not_true, Bool.false_eq_true, or_self, if_false, if_true]
  refine tryRelease_now hs ?_ ?_ ?_ ?_ ?_
  · simp [waitsForRelease, setLevel_level, logHold, hl, him, hst, hd, hp, hdev]
  all_goals simp [logHold, hq]

/-- Qualified PWROK comes back after 1 ms of good conditions (R434), also where its low is logged as a hold. -/
theorem pwrokRestore_releases (hg : powerGood (s.modBoot fun b => { b with railsOk := true, refclk := true, crystal := true }) = true)
    (hq : s.boot.qualified = false) (hr : s.boot.resetL = true) : releasedNow s (pwrokRestore s env) := by
  have h := hw
  obtain ⟨hl, -⟩ := hw
  rw [pwrokRestore, if_pos ⟨hg, by simp [hq], by simpa using hl⟩]
  split
  · refine tryRelease_now hs ?_ ?_ ?_ ?_ ?_
    · simpa [waitsForRelease, logHold] using h
    all_goals simp [logHold, hr]
  · refine tryRelease_now hs ?_ ?_ ?_ ?_ ?_
    · simpa [waitsForRelease] using h
    all_goals simp [hr]

end Release

/-- Step 14: the package reports NEW_SEAT or READY, with the time since the release (R42, R45). -/
theorem bootReady_ends {s : State} (us : Nat) (hp : s.boot.step = 13) (hd : s.boot.released = true) :
    (bootReady s us).boot.step = 14 ∧ (bootReady s us).boot.releaseToReadyUs = us % 2 ^ 32 ∧
      (bootReady s us).boot.dev = if s.boot.newSeat then .newSeat else .ready := by
  cases hn : s.boot.newSeat <;> simp [bootReady, raiseRollback, hp, hd, hn]

/-- Settles O13: each event of R41 and R434 ends the wait for the release where it was the last one missing. -/
theorem dieReleaseEvents : Obligations.DieReleaseEvents := by
  refine fun s env hs => ⟨fun hw hr hq => ?_, fun hw hg hu => ⟨fun hr => ?_, fun hr => ?_⟩, fun hw hg hq hr => ?_, fun us hp hd => ?_⟩
  · exact ⟨_, resetLRise_runs .., resetRise_releases hs hw hr hq⟩
  · refine ⟨_, (pwrokRise_runs ..).trans (congrArg _ (pwrokRise_qualifies hw hg hu)), tryRelease_now hs ?_ hr rfl rfl rfl⟩
    simpa [waitsForRelease] using hw
  · rw [pwrokRise_runs, pwrokRise_qualifies hw hg hu, tryRelease_reset_low _ (by simpa using hr)]
  · exact ⟨_, qualifiedPwrokRestore_runs .., pwrokRestore_releases hs hw hg hq hr⟩
  · obtain ⟨h1, h2, h3⟩ := bootReady_ends us hp hd
    exact ⟨_, bootReady_runs .., h1, h2, h3, ((bootReady_within us s).only_of (bootReady_runs us s)).sub rfl⟩

end Sys2Proof
end

section
/-! SUPPORT. Resets of functions, and functions that disappear (R31, R83, R84, R282). -/

namespace Sys2Proof

open Machine

/-! The end of a debug grant, which every reset of a function brings (R384): it leaves items, tallies, rounds and the network alone. -/

theorem endGrant_keeps (s : State) (n : Nat) : OnlyParts [.out, .cl, .dl, .sync, .fns, .dbg, .mgmt] s (endGrant s n) :=
  (endGrant_moves s n (Moves.refl 329416 s) rfl).only (covers_spec rfl)

@[simp] theorem resumeClaim_tallies (s : State) (n : Nat) : (resumeClaim s n).sync.tallies = s.sync.tallies := by
  show (ite _ _ _ : Sync).tallies = _
  split <;> rfl

theorem endGrant_tallies (s : State) (n : Nat) : (endGrant s n).sync.tallies = s.sync.tallies := by
  unfold endGrant
  split
  · rw [secEvent_sync]
    split
    · rw [setSec_sync]; exact resumeClaim_tallies s n
    · exact resumeClaim_tallies s n
  · rfl

/-! A reset of a function whose claim is FREE or RELEASING (R83). -/

/-- Only the function's window and its debug grant are reset. -/
theorem functionReset_idle {s : State} {n : Nat} (h : (s.claim n).st = .free ∨ (s.claim n).st = .releasing) :
    functionReset s n = clearWindow (endGrant (s.modFn (n + 1) fun f => f.reset true) n) n := by
  have hc : ((endGrant (s.modFn (n + 1) fun f => f.reset true) n).claim n).st = (s.claim n).st := by rw [endGrant_claim]; rfl
  rcases h with h | h <;> simp only [functionReset, hc, h]

theorem functionReset_idle_spec {s : State} {n : Nat} (hn : n < 8) (h : (s.claim n).st = .free ∨ (s.claim n).st = .releasing) :
    let t := functionReset s n
    windowClear t n ∧ (∀ m, t.claim m = s.claim m) ∧ t.dl.items = s.dl.items ∧ t.net = s.net ∧ t.rounds = s.rounds ∧
      t.sync.tallies = s.sync.tallies := by
  rw [functionReset_idle h]
  have hk := endGrant_keeps (s.modFn (n + 1) fun f => f.reset true) n
  have hc := endGrant_claim (s.modFn (n + 1) fun f => f.reset true) n
  have hi := endGrant_items (s.modFn (n + 1) fun f => f.reset true) n
  have ht := endGrant_tallies (s.modFn (n + 1) fun f => f.reset true) n
  generalize endGrant (s.modFn (n + 1) fun f => f.reset true) n = u at *
  exact ⟨clearWindow_clear u hn, hc, hi, hk .net (by decide), hk .rounds (by decide), ht⟩

/-! The end of a reset (R83, step 5). -/

@[simp] theorem clearWindow_fns (s : State) (n : Nat) : (clearWindow s n).fns = s.fns := rfl

theorem resetComplete_resetting {s : State} {n : Nat} (hn : n < 8) (h : (s.claim n).st = .resetting) :
    let t := resetComplete s n
    t.claim n = { s.claim n with st := .active } ∧ windowClear t n ∧ (tget t.fns (n + 1)).resetting = false ∧
      ∀ m, m ≠ n → t.claim m = s.claim m := by
  have hf : (tget (s.modFn (n + 1) fun f => { f with resetting := false }).fns (n + 1)).resetting = false := by
    rw [fn_modFn_same s _ (by omega)]
  have hc : ∀ m, (s.modFn (n + 1) fun f => { f with resetting := false }).claim m = s.claim m := fun _ => rfl
  unfold resetComplete
  generalize (s.modFn (n + 1) fun f => { f with resetting := false }) = u at *
  rw [if_pos (by rw [hc, h])]
  refine ⟨?_, (clearWindow_clear u hn).of rfl rfl rfl rfl, by rw [State.modClaim_fns, clearWindow_fns, hf], fun m hm => ?_⟩
  · rw [claim_modClaim_same _ _ hn, clearWindow_claim, hc]
  · rw [claim_modClaim_ne _ _ (Ne.symm hm), clearWindow_claim, hc]

theorem resetComplete_other {s : State} {n : Nat} (h : (s.claim n).st ≠ .resetting) :
    resetComplete s n = s.modFn (n + 1) fun f => { f with resetting := false } := if_neg h

/-! Virtual functions that disappear together (R84): their claims are reset one after the other. -/

/-- One function of those that disappear: the claim is reset where it was created. -/
def resetGone (gone : Nat → Bool) (s : State) (n : Nat) : State :=
  if gone n && decide ((s.claim n).st ≠ .free) then functionReset s n else s

theorem resetGone_ne (gone : Nat → Bool) (s : State) {n m : Nat} (hn : n < 8) (hm : m ≠ n) : (resetGone gone s n).claim m = s.claim m := by
  unfold resetGone
  split
  · exact (functionReset_claim s hn).2.2.1 m hm
  · rfl

theorem resetGone_pcie (gone : Nat → Bool) (s : State) {n : Nat} (hn : n < 8) : (resetGone gone s n).pcie = s.pcie := by
  unfold resetGone
  split
  · exact (functionReset_claim s hn).2.2.2
  · rfl

theorem resetGone_stays {gone : Nat → Bool} {n : Nat} (s : State) (h : gone n = false) : resetGone gone s n = s := by
  simp [resetGone, h]

theorem resetGone_active {gone : Nat → Bool} {s : State} {n : Nat} (hn : n < 8) (h : gone n = true) (ha : (s.claim n).st = .active) :
    ((resetGone gone s n).claim n).st = .resetting := by
  have hr : resetGone gone s n = functionReset s n := if_pos (by simp [h, ha])
  rw [hr]
  exact ((functionReset_claim s hn).1 ha).1

theorem resetGone_fold (gone : Nat → Bool) (l : List Nat) (s : State) (hd : l.Nodup) (hl : ∀ n ∈ l, n < 8) :
    let t := l.foldl (resetGone gone) s
    t.pcie = s.pcie ∧ (∀ m, m ∉ l ∨ gone m = false → t.claim m = s.claim m) ∧
      ∀ m ∈ l, gone m = true → (s.claim m).st = .active → (t.claim m).st = .resetting := by
  induction l generalizing s with
  | nil => exact ⟨rfl, fun _ _ => rfl, fun _ h => nomatch h⟩
  | cons n l ih =>
    obtain ⟨hnl, hd⟩ := List.nodup_cons.1 hd
    have hn : n < 8 := hl n List.mem_cons_self
    obtain ⟨ip, is, ir⟩ := ih (resetGone gone s n) hd fun m hm => hl m (List.mem_cons_of_mem _ hm)
    refine ⟨ip.trans (resetGone_pcie gone s hn), fun m hm => ?_, fun m hm hg ha => ?_⟩
    · rw [List.foldl_cons, is m (hm.imp_left fun h hml => h (List.mem_cons_of_mem _ hml))]
      by_cases hmn : m = n
      · subst hmn
        rw [resetGone_stays s (hm.resolve_left fun h => h List.mem_cons_self)]
      · exact resetGone_ne gone s hn hmn
    · rw [List.foldl_cons]
      rcases List.mem_cons.1 hm with rfl | hml
      · rw [is m (.inl hnl)]; exact resetGone_active hn hg ha
      · refine ir m hml hg ?_
        rw [resetGone_ne gone s hn fun h => hnl (h ▸ hml)]; exact ha

theorem vfClear_spec (s : State) (enable : Bool) (num : Nat) :
    let t := vfClear s enable num
    let left := min num s.image.claimCount
    t.pcie = { s.pcie with vfEnable := enable, numVfs := left } ∧
      ∀ n < 8, let gone := (s.pcie.vfEnable && decide (n < s.pcie.numVfs)) && !(enable && decide (n < left))
        (gone = true → (s.claim n).st = .active → (t.claim n).st = .resetting) ∧ (gone = false → t.claim n = s.claim n) := by
  obtain ⟨hp, hs, hr⟩ := resetGone_fold
    (fun n => (s.pcie.vfEnable && decide (n < s.pcie.numVfs)) && !(enable && decide (n < min num s.image.claimCount))) (List.range 8)
    { s with pcie := { s.pcie with vfEnable := enable, numVfs := min num s.image.claimCount } } List.nodup_range fun n hn => List.mem_range.1 hn
  exact ⟨hp, fun n hn => ⟨hr n (List.mem_range.2 hn), fun hg => hs n (.inr hg)⟩⟩

/-- Settles O32: resets of functions by the state of their claims, and functions that disappear or appear (R31, R43, R83, R84, R282). -/
theorem functionResets : Obligations.FunctionResets := by
  refine fun s hd => ⟨fun n hn => ⟨fun hh ha => ?_, fun hh hi => ?_, fun hr => ?_, fun hr => ?_⟩,
    fun hh enable num => ?_, fun hh num => ?_, fun hh n num enable => ?_⟩
  · obtain ⟨hact, -, hother, -⟩ := functionReset_claim s hn
    obtain ⟨hst, hit⟩ := hact ha
    exact ⟨_, functionLevelReset_runs n s hh, hst, hit, hother⟩
  · exact ⟨_, functionLevelReset_runs n s hh, functionReset_idle_spec hn hi⟩
  · exact ⟨_, flrComplete_runs n s hd, resetComplete_resetting hn hr⟩
  · exact (flrComplete_runs n s hd).trans (congrArg _ (resetComplete_other hr))
  · exact ⟨_, vfEnableClear_runs enable num s hh, vfClear_spec s enable num⟩
  · exact ⟨_, vfEnableSet_runs num s hh, rfl⟩
  · exact ⟨exec_endpoint_down rfl hh, exec_endpoint_down rfl hh, exec_endpoint_down rfl hh⟩

end Sys2Proof
end

section
/-! SUPPORT. The commands of the PCIe endpoint (R281, R286, R288 to R290, R292, R293). -/

namespace Sys2Proof

open Machine

/-! Training (R281). -/

/-- The width that settles is the widest of the five that is within the limit, and at least 1. -/
theorem settleWidth_spec (m : Nat) :
    settleWidth m ∈ [1, 2, 4, 8, 16] ∧ (∀ x ∈ [1, 2, 4, 8, 16], x ≤ m → x ≤ settleWidth m) ∧ (1 < settleWidth m → settleWidth m ≤ m) := by
  simp only [settleWidth, List.find?_cons, List.find?_nil, List.forall_mem_cons, List.not_mem_nil, false_implies, implies_true, and_true]
  by_cases h16 : 16 ≤ m
  · simp [h16]
  by_cases h8 : 8 ≤ m
  · simp [h16, h8]
  by_cases h4 : 4 ≤ m
  · simp [h16, h8, h4]
  by_cases h2 : 2 ≤ m
  · simp [h16, h8, h4, h2]
  · by_cases h1 : 1 ≤ m <;> simp [h16, h8, h4, h2, h1]

theorem pcieTrain_only (s : State) (gen width : Nat) : OnlyParts [.pcie] s (pcieTrain s gen width) :=
  (pcieTrain_moves s gen width (Moves.refl 524288 s) rfl).only (covers_spec rfl)

/-! A failed host read (R289). -/

/-- The action that needed the read is carried out with an error as its answer. -/
theorem exec_readFor {s : State} (target : ReadTarget) (hd : diesUp s = true) (hw : writesWait s = false) :
    exec (readFor target) s = .next (readError target s) := by
  cases target with
  | entry n => exact deckReadComplete_runs n .err .err s hd
  | deck n entry => exact deckReadComplete_runs n (.ok entry) .err s hd
  | waitMem n q l g => exact waitMemReadReturn_runs n q l g .err s hd
  | call n q l g => exact callCmd_runs n q l g .err s hd
  | laneDeck n q l g => exact laneDeck_runs n q l g .err s hd
  | hostCopy n q l g => exact hostCopy_runs n q l g 1 .err s hd
  | claimBlock create q l =>
    cases create with
    | true => exact claimCreate_runs q l .err s hd
    | false => exact claimModify_runs q l .err s hd
  | table q l => exact tableLoad_runs q l .err s hd
  | common q l => exact commonLoad_runs q l .err s hd
  | qpContext c create h =>
    rw [readError, viaClaim_now hw]
    cases create with
    | true => exact qpCreate_runs c .err s hw
    | false => exact qpModify_runs c h .err s hw
  | sendEntry c h v => rw [readError, viaClaim_now hw]; exact sqDoorbell_runs c h v _ s hw
  | recvEntry c h v => rw [readError, viaClaim_now hw]; exact rqDoorbell_runs c h v _ s hw
  | rawSlot v => rw [readError, viaReg_now hw]; exact rawTxProduce_runs v _ s hw
  | keySlot => exact secKeySlot_runs .err true s
  | grant => exact secDebugGrant_runs .err s
  | unlock env => exact secVendorOpen_runs .err env s

/-! Host windows (R285, R286). -/

/-- One of a window's two registers after a write of it. -/
def winWritten (limit : Bool) (v : Nat) (x : HostWin) : HostWin :=
  if limit then { x with limit := v / 4096 } else { x with valid := bit v 0, base := v / 4096 }

theorem winWrite_fn (s : State) {fn : Nat} (w : Nat) (limit : Bool) (v : Nat) (hf : fn < 9) :
    tget (winWrite s fn w limit v).fns fn = { tget s.fns fn with wins := tmod (tget s.fns fn).wins w (winWritten limit v) } :=
  fn_modFn_same s _ hf

/-- Half-written registers are none of a function's windows. -/
theorem dropHold_wins (s : State) (a off : Nat) {fn : Nat} (hf : fn < 9) : (tget (dropHold s a off).fns fn).wins = (tget s.fns fn).wins := by
  by_cases h : fn = a
  · subst h; rw [dropHold, fn_modFn_same s _ hf]
  · rw [dropHold, State.modFn, tget_tmod_ne _ _ (Ne.symm h)]

/-- A write of a window register changes the fields of that window that it holds, and ends a held low half. -/
theorem hstWinWrite_spec {s : State} {fn w v : Nat} {limit : Bool} (hf : fn < 9) (hw : w < 4) (hp : writesWait s = false)
    (hr : (regAt s 0 (hstOff (0x1000 + 0x40 * fn + 16 * w + if limit then 8 else 0))).isSome = true) :
    let u := dropHold s 0 (hstOff (0x1000 + 0x40 * fn + 16 * w + if limit then 8 else 0))
    Runs (.hstWinWrite fn w limit v) s fun t => OnlyParts [.fns] s t ∧ (∀ k, k ≠ fn → tget t.fns k = tget u.fns k) ∧
      { tget t.fns fn with wins := (tget u.fns fn).wins } = tget u.fns fn ∧ ∀ x, tget (tget t.fns fn).wins x =
        if x = w then winWritten limit v (tget (tget s.fns fn).wins w) else tget (tget s.fns fn).wins x := by
  intro u
  have hu : OnlyParts [.fns] s u := modFn_only s _ _
  have hwins : (tget u.fns fn).wins = (tget s.fns fn).wins := dropHold_wins s 0 _ hf
  refine ⟨winWrite u fn w limit v, ?_, hu.trans (modFn_only u _ _), fun k hk => tget_tmod_ne _ _ (Ne.symm hk), ?_, fun x => ?_⟩
  · rw [hstWinWrite_runs fn w limit v s hp, viaWide, viaReg_pos hr]
  · rw [winWrite_fn u w limit v hf]
  · rw [winWrite_fn u w limit v hf, ← hwins]
    by_cases hx : x = w
    · subst hx; rw [if_pos rfl]; exact tget_tmod_same _ _ hw
    · rw [if_neg hx]; exact tget_tmod_ne _ _ (Ne.symm hx)

/-- Settles O48: each command of the endpoint by the lemma about its operation (R43, R281, R286, R288 to R290, R292, R293). -/
theorem pcieCommands : Obligations.PcieCommands := by
  refine ⟨fun s hd => ⟨fun gen width => ?_, ?_, fun hh => ?_, fun hh fn hf r feeds b => ⟨?_, ?_, fun mask v masked => ?_⟩, fun hh fn => ?_,
    fun hh fn b mask v masked r feeds i hi => ?_, fun hw target => ?_⟩, fun s fn w v hf hw hp => ⟨fun hr => ?_, fun hr => ?_⟩⟩
  · obtain ⟨hmem, hmax, hle⟩ := settleWidth_spec (min width s.image.maxWidth)
    exact ⟨_, pcieLinkTrain_runs gen width s hd, pcieTrain_only s gen width, _, hmem, hmax, hle, by simp [pcieTrain]⟩
  · obtain ⟨hreset, hup, hwid⟩ := pcieDown_spec s
    exact ⟨_, pcieLinkDown_runs s hd, hreset, hup, rfl, hwid⟩
  · exact ⟨_, pfFunctionLevelReset_runs s hh, pfReset_spec s⟩
  · exact ⟨_, (busMasterEnableWrite_runs fn b r feeds s hh).trans (congrArg _ (if_pos hf)), enables_spec s hf _ r feeds⟩
  · exact ⟨_, (d3hotTransition_runs fn b r feeds s hh).trans (congrArg _ (if_pos hf)), enables_spec s hf _ r feeds⟩
  · exact ⟨_, (msixMaskChange_runs fn b mask v masked s hh).trans (congrArg _ (if_pos hf)), msixFlush_spec _ hf⟩
  · exact unsupportedRequestReceived_runs fn s hh
  · simp only [List.mem_cons, List.not_mem_nil, or_false] at hi
    rcases hi with rfl | rfl | rfl | rfl | rfl <;> exact exec_endpoint_down rfl hh
  · exact ⟨_, hostReadError_runs target s hd, exec_readFor target hd hw⟩
  · exact hstWinWrite_spec (limit := false) hf hw hp hr
  · exact hstWinWrite_spec (limit := true) hf hw hp hr

end Sys2Proof
end

section
/-! SUPPORT. Events of an Ethernet port: its link, the frames that it receives and PFC (R295 to R297, R306). -/

namespace Sys2Proof

open Machine

/-! The link (R295). -/

/-- The device is up, or in its boot from step 11 on. -/
theorem linksMayTrain_iff (s : State) :
    (s.up || (s.boot.dev = .booting && decide (11 ≤ s.boot.step))) = true ↔ s.up = true ∨ (s.boot.dev = .booting ∧ 11 ≤ s.boot.step) := by
  simp only [Bool.or_eq_true, Bool.and_eq_true, decide_eq_true_eq]

section Link

variable (s : State) {p : Nat} (linked : Bool)

theorem ethNegotiate_stays (h : s.image.ethEnable.testBit p = false ∨ ¬ (s.up = true ∨ (s.boot.dev = .booting ∧ 11 ≤ s.boot.step)) ∨
    (ethPort s p).up = true) : ethNegotiate s p linked = s := by
  refine if_pos ?_
  rcases h with h | h | h
  · exact .inl (by simp [h])
  · exact .inr (.inl (by rw [Bool.not_eq_true', Bool.eq_false_iff]; exact fun k => h ((linksMayTrain_iff s).1 k)))
  · exact .inr (.inr h)

theorem ethNegotiate_changes (he : s.image.ethEnable.testBit p = true) (hm : s.up = true ∨ (s.boot.dev = .booting ∧ 11 ≤ s.boot.step))
    (hu : (ethPort s p).up = false) :
    ethNegotiate s p linked = s.modEth p fun x => if linked then { x with up := true } else { x with c2m := !x.c2m } := by
  have hu' : (tget s.net.ports p).up = false := hu
  rw [ethNegotiate, if_neg (by rw [he, (linksMayTrain_iff s).2 hm, hu']; decide)]
  cases linked <;> rfl

theorem ethLoss_down (hu : (ethPort s p).up = false) : ethLoss s p = s := if_neg (by simpa [ethPort] using hu)

theorem ethLoss_up (hu : (ethPort s p).up = true) :
    ethLoss s p = s.modEth p fun x => { x with up := false, c2m := false, paused := false, xoff := false, held := [] } := if_pos hu

end Link

theorem modEth_net_only (s : State) (p : Nat) (f : EthPort → EthPort) : OnlyParts [.net] s (s.modEth p f) := netOnly s _

/-! Frames that are dropped (R295 to R297). -/

theorem ethFrame_down {s : State} {p : Nat} (hu : (ethPort s p).up = false) (good : Bool) (fill : Nat) (f : List Byte) :
    ethFrame s p good fill f = s := if_pos (by simpa [ethPort] using hu)

/-- The raw receive ring has no use for a frame: it is off or full, the frame does not fit a slot, or no window takes it. -/
def rawRefuses (s : State) (f : List Byte) : Prop :=
  s.net.rx.active = false ∨ f.length < 14 ∨ 2032 < f.length ∨ (s.net.rx.next + 1) % 2 ^ s.net.rx.sizeLog2 = s.net.rx.index ∨
    hostOk s 0 (2048 * (s.net.rx.base + s.net.rx.next)) 2048 = false

theorem rawReceive_drops {s : State} (p : Nat) {f : List Byte} (h : rawRefuses s f) : rawReceive s p f = dropFrame s p := by
  rcases h with h | h | h | h | h
  · exact rawReceive_full (.inl h)
  · exact if_pos (.inr (.inr (.inl h)))
  · exact rawReceive_full (.inr (.inl h))
  · exact rawReceive_full (.inr (.inr h))
  · exact if_pos (.inr (.inr (.inr (.inr (by simp [h])))))

theorem portOnly.rx {s t : State} {p : Nat} (h : portOnly s t p) : t.net.rx = s.net.rx := by
  have hr := congrArg Net.rx h.2
  exact hr

theorem pfcFill_rx (s : State) {p : Nat} (hp : p < 2) (fill : Nat) : (pfcFill s p fill).net.rx = s.net.rx := by
  obtain ⟨-, -, -, hport, -⟩ := pfcFill_spec s hp fill
  exact hport.rx

/-- The fill's XOFF or XON goes out, and nothing without PFC (R306). -/
theorem pfcFill_out (s : State) (p fill : Nat) :
    ∃ first, (s.net.pfcEnable = false → first = []) ∧ (pfcFill s p fill).out = s.out ++ first := by
  cases he : s.net.pfcEnable with
  | false => exact ⟨[], fun _ => rfl, by simp [pfcFill, he]⟩
  | true =>
    obtain ⟨ys, hy⟩ := (pfcFill_moves s p fill (Moves.refl 1048584 s) rfl).sent
    exact ⟨ys, fun h => absurd h (by decide), hy⟩

theorem ethFrame_drops {s : State} {p fill : Nat} {good : Bool} {f : List Byte} (hp : p < 2) (hu : (ethPort s p).up = true)
    (h : good = false ∨ frameType f = none ∨ (rawFrame s p f ∧ rawRefuses s f)) :
    ethFrame s p good fill f = dropFrame (pfcFill s p fill) p := by
  have hu' : ¬ (!(tget s.net.ports p).up) = true := by simpa [ethPort] using hu
  cases good with
  | false => exact (if_neg hu').trans (if_pos rfl)
  | true =>
    rcases h with h | h | ⟨hraw, h⟩
    · cases h
    · rw [ethFrame, if_neg hu', if_neg (by decide), h]
    · obtain ⟨-, -, -, -, -, hhost, -⟩ := pfcFill_spec s hp fill
      rw [ethFrame_raw hu hraw, rawReceive_drops p (by rwa [rawRefuses, pfcFill_rx s hp, hhost])]

/-- A dropped frame is counted, after the fill has set XOFF or XON. -/
theorem dropFrame_pfcFill (s : State) {p : Nat} (hp : p < 2) (fill : Nat) :
    let t := dropFrame (pfcFill s p fill) p
    OnlyParts [.net, .out] s t ∧ portOnly s t p ∧ (ethPort t p).dropped = satInc 32 (ethPort s p).dropped ∧
      (s.net.pfcEnable = true → (6 * 2 ^ 20 ≤ fill → (ethPort t p).xoff = true) ∧ (fill < 4 * 2 ^ 20 → (ethPort t p).xoff = false)) := by
  obtain ⟨hx, hd, -, hport, honly, -⟩ := pfcFill_spec s hp fill
  obtain ⟨he, hdport, -⟩ := dropFrame_spec (pfcFill s p fill) hp
  refine ⟨honly.trans ((modEth_net_only _ p _).sub rfl), hport.trans hdport, ?_, fun hpfc => ⟨fun h6 => ?_, fun h4 => ?_⟩⟩
  · rw [he, hd]
  · simp only [he, hx, hpfc, if_true, if_pos h6]
  · have h6 : ¬ 6 * 2 ^ 20 ≤ fill := by omega
    simp only [he, hx, hpfc, if_true, if_neg h6, if_pos h4]

/-! Frames that the raw receive ring takes (R297). -/

theorem ethFrame_takes {s : State} {p : Nat} (fill : Nat) {f : List Byte} (hp : p < 2) (hu : (ethPort s p).up = true) (hf : rawFrame s p f)
    (hr : rawRoom s f) :
    let t := ethFrame s p true fill f
    let r := s.net.rx
    t.net.rx = { r with
        next := if r.next + 1 = 2 ^ r.sizeLog2 then 0 else r.next + 1, phase := if r.next + 1 = 2 ^ r.sizeLog2 then !r.phase else r.phase } ∧
      (ethPort t p).dropped = (ethPort s p).dropped ∧ ∃ first, (s.net.pfcEnable = false → first = []) ∧
        t.out = s.out ++ first ++ [.hostWrite 0 (2048 * r.base + 2048 * r.next + 16) f, .hostWrite 0 (2048 * r.base + 2048 * r.next)
          (leBytes 2 f.length ++ leBytes 1 p ++ leBytes 1 (b2n r.phase) ++ List.replicate 12 0#8)] := by
  obtain ⟨-, hd, -, -, -, hhost, -⟩ := pfcFill_spec s hp fill
  obtain ⟨first, hfirst, hout⟩ := pfcFill_out s p fill
  have hroom : rawRoom (pfcFill s p fill) f := by simpa only [rawRoom, pfcFill_rx s hp, hhost] using hr
  have ht := rawReceive_takes hroom hp
  rw [pfcFill_rx s hp] at ht
  rw [ethFrame_raw hu hf, ht]
  exact ⟨rfl, hd, first, hfirst, by rw [hout]⟩

/-! PFC (R306). -/

section Pfc

variable (s : State) {p priority : Nat}

theorem pfcReceived_stays (xoff : Bool) (h : s.net.pfcEnable = false ∨ priority ≠ s.net.pfcPriority ∨ (ethPort s p).up = false) :
    pfcReceived s p priority xoff = s := by
  refine if_pos ?_
  rcases h with h | h | h
  · exact .inl (by simp [h])
  · exact .inr (.inl h)
  · exact .inr (.inr (by simpa [ethPort] using h))

variable (he : s.net.pfcEnable = true) (hq : priority = s.net.pfcPriority) (hu : (ethPort s p).up = true)
include he hq hu

theorem pfcReceived_acts (xoff : Bool) :
    pfcReceived s p priority xoff = if xoff then s.modEth p fun x => { x with paused := true }
      else (ethPort s p).held.foldl (fun s o => s.emit o) (s.modEth p fun x => { x with paused := false, held := [] }) := by
  refine if_neg ?_
  have hu' : (tget s.net.ports p).up = true := hu
  simp [he, hq, hu']

theorem pfcReceived_xoff : pfcReceived s p priority true = s.modEth p fun x => { x with paused := true } := by
  rw [pfcReceived_acts s he hq hu]; rfl

theorem pfcReceived_xon :
    pfcReceived s p priority false =
      { s.modEth p fun x => { x with paused := false, held := [] } with out := s.out ++ (ethPort s p).held } := by
  rw [pfcReceived_acts s he hq hu, if_neg (by decide), emitAll]; rfl

end Pfc

end Sys2Proof
end

section
/-! SUPPORT. Registers of the network: the raw rings (R297), regions (R419) and GIDs (R418). -/

namespace Sys2Proof

open Machine

/-! The raw rings' control registers (R297). -/

theorem rawCtrl_eq_ringWritten (r : RawRing) (v : Nat) : rawCtrl r v = ringWritten r v := by
  cases h : bit v 31 && !r.enable <;> simp [rawCtrl, ringWritten, h]

theorem bytesAt_whole {b : List Byte} {n : Nat} (h : b.length = n) : bytesAt b 0 n = b :=
  bytesAt_ext h fun i _ => by rw [Nat.zero_add]

/-! The raw send ring (R297). -/

/-- The state in which the slot at the device's index has been taken. -/
def slotTaken (s : State) : State :=
  s.modNet fun n => { n with tx := { s.net.tx with next := (s.net.tx.next + 1) % 2 ^ s.net.tx.sizeLog2 } }

/-- The address of the slot at the device's index of the send ring. -/
def slotAddr (s : State) : Nat := 2048 * s.net.tx.base + 2048 * s.net.tx.next

section Send

variable {s : State}

theorem rawSend_idle (h : ¬ sendDue s) (feeds : List HostResp) : rawSend feeds s = s := by
  cases feeds with
  | nil => rfl
  | cons f fs =>
    refine if_pos ?_
    simp only [sendDue, not_and_or, Bool.not_eq_true, not_lt, Decidable.not_not] at h
    simpa using h

variable (h : sendDue s)
include h

theorem not_rawSend_idle :
    ¬ ((!s.net.tx.active) = true ∨ 2 ^ s.net.tx.sizeLog2 ≤ s.net.tx.index ∨ s.net.tx.next = s.net.tx.index ∨ (!canIssue s 0) = true) := by
  obtain ⟨ha, hi, hn, hc⟩ := h
  simp [ha, hn, hc, Nat.not_le.2 hi]

/-- A slot outside the windows is counted and not read. -/
theorem rawSend_unread (r : HostResp) (hw : winOk s 0 (slotAddr s) 2048 = false) : rawSend [r] s = dropFrame (slotTaken s) 0 := by
  rw [slotAddr] at hw
  rw [rawSend, if_neg (not_rawSend_idle h), hw]
  rfl

variable (hw : winOk s 0 (slotAddr s) 2048 = true)
include hw

theorem rawSend_failed : rawSend [.err] s = dropFrame (aerLog ((slotTaken s).emit (.hostRead 0 (slotAddr s) 2048))) 0 := by
  rw [slotAddr] at hw
  rw [rawSend, if_neg (not_rawSend_idle h), hw]
  rfl

theorem rawSend_read (b : List Byte) :
    rawSend [.ok b] s = rawSendSlot ((slotTaken s).emit (.hostRead 0 (slotAddr s) 2048)) (bytesAt b 0 2048) := by
  rw [slotAddr] at hw
  rw [rawSend, if_neg (not_rawSend_idle h), hw]
  rfl

end Send

theorem rawSendSlot_good {s : State} {b : List Byte} (h : slotGood s b) :
    rawSendSlot s b = s.emit (.ethernet (field b 2 1) 0 [] (bytesAt b 16 (field b 0 2))) := if_pos h

theorem rawSendSlot_bad {s : State} {b : List Byte} (h : ¬ slotGood s b) :
    rawSendSlot s b = dropFrame s (if field b 2 1 < 2 then field b 2 1 else 0) := if_neg h

theorem rawSendSlot_tx (s : State) (b : List Byte) : (rawSendSlot s b).net.tx = s.net.tx := by
  unfold rawSendSlot
  dsimp only
  split <;> rfl

/-- Whatever the read brings, one slot is taken. -/
theorem rawSend_tx {s : State} (h : sendDue s) (r : HostResp) : (rawSend [r] s).net.tx = (slotTaken s).net.tx := by
  cases hw : winOk s 0 (slotAddr s) 2048 with
  | false => rw [rawSend_unread h r hw]; rfl
  | true =>
    cases r with
    | err => rw [rawSend_failed h hw]; rfl
    | ok b => rw [rawSend_read h hw, rawSendSlot_tx]; rfl

theorem dropFrame_dropped (s : State) {p : Nat} (hp : p < 2) : (ethPort (dropFrame s p) p).dropped = satInc 32 (ethPort s p).dropped := by
  obtain ⟨he, -, -⟩ := dropFrame_spec s hp
  rw [he]

/-! Regions (R419). -/

/-- One region of a claim changes. -/
def modRegion (s : State) (c i : Nat) (f : Region → Region) : State :=
  s.modClaimNet c fun n => { n with regions := tmod n.regions i f }

theorem regionOf_modRegion_same (s : State) {c i : Nat} (f : Region → Region) (hc : c < 8) (hi : i < 64) :
    regionOf (modRegion s c i f) c i = f (regionOf s c i) := by
  show tget (tget (tmod s.net.claims c _) c).regions i = _
  rw [tget_tmod_same _ _ hc]
  exact tget_tmod_same _ _ hi

theorem regionOf_modRegion_ne (s : State) {c i d j : Nat} (f : Region → Region) (hc : c < 8) (h : d ≠ c ∨ j ≠ i) :
    regionOf (modRegion s c i f) d j = regionOf s d j := by
  show tget (tget (tmod s.net.claims c _) d).regions j = _
  by_cases hd : d = c
  · subst hd
    rw [tget_tmod_same _ _ hc]
    exact tget_tmod_ne _ _ (Ne.symm (h.resolve_left fun k => k rfl))
  · rw [tget_tmod_ne _ _ (Ne.symm hd)]; rfl

/-- The check of a region's range (R302, R419). -/
theorem rangeGood_iff (s : State) {c : Nat} (r : Region) (host : Bool) (hc : c < 8) :
    rangeGood s c r host ↔ ((host && winOk s (fnOf c) r.base r.length)
      || (!host && decide (r.base % 32 = 0) && decide (r.length % 32 = 0) && decide (r.base + r.length ≤ 2 ^ 40))) = true := by
  have hf : fnOf c = c + 1 := if_pos hc
  cases host <;> simp [rangeGood, hf, and_assoc]

theorem regionAccess_refused {s : State} {c i v : Nat} (hc : c < 8) (hv : bit v 0 = true) (hg : ¬ rangeGood s c (regionOf s c i) (bit v 1)) :
    regionAccess s c i v = s := (if_pos hv).trans (if_neg fun h => hg ((rangeGood_iff s _ _ hc).2 h))

theorem regionAccess_taken {s : State} {c i v : Nat} (hc : c < 8) (hg : bit v 0 = true → rangeGood s c (regionOf s c i) (bit v 1)) :
    regionAccess s c i v = modRegion s c i fun r =>
      { r with valid := bit v 0, host := bit v 1, remoteRead := bit v 2, remoteWrite := bit v 3, key := bits v 8 8 } := by
  cases hv : bit v 0 with
  | true => exact (if_pos hv).trans (if_pos ((rangeGood_iff s _ _ hc).1 (hg hv)))
  | false => exact if_neg (by simp [hv])

/-- A held half of a register is none of the windows that a range is checked by. -/
theorem rangeGood_dropHold (s : State) {c : Nat} (off : Nat) (r : Region) (host : Bool) (hc : c < 8) :
    rangeGood (dropHold s (c + 1) off) c r host ↔ rangeGood s c r host := by
  have hw : winOk (dropHold s (c + 1) off) (c + 1) r.base r.length = winOk s (c + 1) r.base r.length := by
    unfold winOk
    rw [dropHold_wins s _ _ (by omega)]
  rw [rangeGood, rangeGood, hw]

theorem viaClaimWide_pos {s : State} {n o : Nat} {k : State → State} (hn : n < 8) (h : (regAt s (n + 1) o).isSome = true) :
    viaClaimWide s n o k = k (dropHold s (n + 1) o) := by
  rw [viaClaimWide, if_pos hn, viaWide, viaReg_pos h]

/-! GIDs (R418). -/

theorem gidCommit_gids (s : State) {p g : Nat} (v : Nat) (hp : p < 2) (hg : g < 16) (k : Nat) :
    tget (ethPort (gidCommit s p g v) p).gids k =
      if k = g then (alookup (ethPort s p).gidHeld g).getD (tget (ethPort s p).gids g % 2 ^ 64) + 2 ^ 64 * v else tget (ethPort s p).gids k := by
  rw [gidCommit, modEth_same s hp]
  by_cases hk : k = g
  · subst hk; rw [if_pos rfl]; exact tget_tset_same _ _ hg
  · rw [if_neg hk]; exact tget_tset_ne _ _ (Ne.symm hk)

end Sys2Proof
end

section
/-! SUPPORT. The Ethernet ports and their registers as commands (R295 to R297, R302, R306, R418, R419). -/

namespace Sys2Proof

open Machine

/-! A write of the send ring's control register (R297). -/

section Produce

variable {s : State} {v : Nat} (hr : (regAt s 0 (entOff 0x1118)).isSome = true) (hw : writesWait s = false)
include hr hw

theorem exec_rawTxProduce (feeds : List HostResp) :
    exec (.rawTxProduce v feeds) s = .next (rawSend feeds (s.modNet fun n => { n with tx := ringWritten n.tx v })) := by
  rw [rawTxProduce_runs v feeds s hw, viaReg_pos hr, rawTxWrite]
  simp only [rawCtrl_eq_ringWritten]

/-- One due slot is taken, and read where a window holds it; a good one leaves its port, and any other is counted. -/
theorem rawTxProduce_one (r : HostResp) :
    let u := s.modNet fun n => { n with tx := ringWritten n.tx v }
    let a := 2048 * u.net.tx.base + 2048 * u.net.tx.next
    sendDue u → Runs (.rawTxProduce v [r]) s fun t => OnlyParts [.net, .out, .pcie] s t ∧
      t.net.tx = { u.net.tx with next := (u.net.tx.next + 1) % 2 ^ u.net.tx.sizeLog2 } ∧
      (winOk s 0 a 2048 = false → t.out = s.out ∧ (ethPort t 0).dropped = satInc 32 (ethPort s 0).dropped) ∧
      (winOk s 0 a 2048 = true → r = .err → t.out = s.out ++ [.hostRead 0 a 2048] ∧ t.pcie = (aerLog s).pcie ∧
        (ethPort t 0).dropped = satInc 32 (ethPort s 0).dropped) ∧
      ∀ b, winOk s 0 a 2048 = true → r = .ok b → b.length = 2048 →
        (slotGood s b → t.out = s.out ++ [.hostRead 0 a 2048, .ethernet (field b 2 1) 0 [] (bytesAt b 16 (field b 0 2))] ∧
          t.net.ports = s.net.ports) ∧
        (¬ slotGood s b → t.out = s.out ++ [.hostRead 0 a 2048] ∧ let p := if field b 2 1 < 2 then field b 2 1 else 0
          (ethPort t p).dropped = satInc 32 (ethPort s p).dropped) := by
  intro u a hd
  have honly : OnlyParts [.net, .out, .pcie] s (rawSend [r] u) :=
    ((netOnly s _).sub rfl).trans ((rawSend_moves [r] u (Moves.refl 1572872 u) rfl).only (covers_spec rfl))
  refine ⟨rawSend [r] u, exec_rawTxProduce hr hw [r], honly, rawSend_tx hd r,
    fun hn => ?_, fun hy he => ?_, fun b hy hb hl => ⟨fun hg => ?_, fun hg => ?_⟩⟩
  · rw [rawSend_unread hd r hn]
    exact ⟨rfl, dropFrame_dropped _ (by decide)⟩
  · rw [he, rawSend_failed hd hy]
    exact ⟨rfl, rfl, dropFrame_dropped _ (by decide)⟩
  · have hg' : slotGood ((slotTaken u).emit (.hostRead 0 (slotAddr u) 2048)) b := hg
    rw [hb, rawSend_read hd hy, bytesAt_whole hl, rawSendSlot_good hg']
    exact ⟨List.append_assoc _ _ _, rfl⟩
  · have hg' : ¬ slotGood ((slotTaken u).emit (.hostRead 0 (slotAddr u) 2048)) b := hg
    rw [hb, rawSend_read hd hy, bytesAt_whole hl, rawSendSlot_bad hg']
    refine ⟨rfl, dropFrame_dropped _ ?_⟩
    split
    · assumption
    · decide

end Produce

/-! A write of a region's register (R419). -/

section Regions

variable {s : State} {c i w v : Nat} (hc : c < 8) (hi : i < 64) (hr : (regAt s (c + 1) (0x61000 + 32 * i + 8 * w)).isSome = true)
  (hp : writesWait s = false)
include hc hr hp

/-- Base and length go to the region where it is invalid. -/
theorem exec_entMrWrite_range (hw : w < 2) :
    exec (.entMrWrite c i w v) s = .next (modRegion (dropHold s (c + 1) (0x61000 + 32 * i + 8 * w)) c i fun r =>
      if r.valid then r else if w = 1 then { r with length := v } else { r with base := v }) := by
  rw [entMrWrite_runs c i w v s hp, viaClaimWide_pos hc hr]
  obtain rfl | rfl : w = 0 ∨ w = 1 := by omega
  · rfl
  · rfl

theorem exec_entMrWrite_access (hw : w = 2) :
    exec (.entMrWrite c i w v) s = .next (regionAccess (dropHold s (c + 1) (0x61000 + 32 * i + 8 * w)) c i v) := by
  rw [entMrWrite_runs c i w v s hp, viaClaimWide_pos hc hr]
  subst hw
  rfl

include hi

theorem entMrWrite_range_spec (hw : w < 2) : Runs (.entMrWrite c i w v) s fun t =>
    OnlyParts [.net, .fns] s t ∧ (∀ d j, (d ≠ c ∨ j ≠ i) → regionOf t d j = regionOf s d j) ∧
      regionOf t c i = if (regionOf s c i).valid then regionOf s c i
        else if w = 1 then { regionOf s c i with length := v } else { regionOf s c i with base := v } := by
  have he := exec_entMrWrite_range (v := v) hc hr hp hw
  refine ⟨_, he, ((modFn_only s _ _).sub rfl).trans ((netOnly _ _).sub rfl), fun d j h => ?_, ?_⟩
  · exact regionOf_modRegion_ne _ _ hc h
  · exact regionOf_modRegion_same _ _ hc hi

theorem entMrWrite_access_spec (hw : w = 2) : let r := regionOf s c i
    Runs (.entMrWrite c i w v) s fun t => OnlyParts [.net, .fns] s t ∧ (∀ d j, (d ≠ c ∨ j ≠ i) → regionOf t d j = regionOf s d j) ∧
      (bit v 0 = true → ¬ rangeGood s c r (bit v 1) → regionOf t c i = r) ∧
      ((bit v 0 = true → rangeGood s c r (bit v 1)) → regionOf t c i =
        { r with valid := bit v 0, host := bit v 1, remoteRead := bit v 2, remoteWrite := bit v 3, key := bits v 8 8 }) := by
  intro r
  have he := exec_entMrWrite_access (v := v) hc hr hp hw
  have hg := rangeGood_dropHold s (0x61000 + 32 * i + 8 * w) r (bit v 1) hc
  have ho : OnlyParts [.net, .fns] s (dropHold s (c + 1) (0x61000 + 32 * i + 8 * w)) := (modFn_only s _ _).sub rfl
  have hreg : ∀ d j, regionOf (dropHold s (c + 1) (0x61000 + 32 * i + 8 * w)) d j = regionOf s d j := fun _ _ => rfl
  generalize dropHold s (c + 1) (0x61000 + 32 * i + 8 * w) = u at *
  by_cases hok : bit v 0 = true → rangeGood s c r (bit v 1)
  · rw [regionAccess_taken hc fun hv => by rw [hreg]; exact hg.2 (hok hv)] at he
    refine ⟨_, he, ho.trans ((netOnly _ _).sub rfl), fun d j h => ?_, fun hv hn => absurd (hok hv) hn, fun _ => ?_⟩
    · exact (regionOf_modRegion_ne _ _ hc h).trans (hreg d j)
    · rw [regionOf_modRegion_same _ _ hc hi, hreg]
  · obtain ⟨hv, hn⟩ := Classical.not_imp.1 hok
    rw [regionAccess_refused hc hv (by rw [hreg]; exact fun h => hn (hg.1 h))] at he
    exact ⟨_, he, ho, fun d j _ => hreg d j, fun _ _ => hreg c i, fun h => absurd h hok⟩

end Regions

/-- Settles O49: each event of a port and each register by the lemma about its operation (R42, R295 to R297, R302, R306, R418, R419). -/
theorem ethernetPorts : Obligations.EthernetPorts := by
  refine ⟨fun s hd p hp => ⟨fun linked => ⟨fun h => ?_, fun he hm hu => ?_⟩, fun hu => ⟨?_, fun good fill f => ?_⟩,
      fun hu => ⟨?_, fun good fill f => ⟨fun h => ?_, fun hf hr => ?_⟩⟩, fun priority xoff => ⟨fun h => ?_, fun he hq hu => ?_⟩⟩,
    fun s => ⟨fun v hr hw => ?_, fun v hr hw => ⟨fun feeds hn => ?_, fun r => rawTxProduce_one hr hw r⟩, fun c i w v hc hi hw hr hp => ?_,
      fun p g v hp hg hr hw => ?_⟩⟩
  · rw [ethLinkNegotiate_runs p linked s hd, ethNegotiate_stays s linked h]
  · refine ⟨_, (ethLinkNegotiate_runs p linked s hd).trans (congrArg _ (ethNegotiate_changes s linked he hm hu)), modEth_net_only _ _ _,
      modEth_only _ _ _, modEth_same s hp _⟩
  · rw [ethLinkLoss_runs p s hd, ethLoss_down s hu]
  · rw [ethFrameReceived_runs p good fill f s hd, ethFrame_down hu]
  · exact ⟨_, (ethLinkLoss_runs p s hd).trans (congrArg _ (ethLoss_up s hu)), modEth_net_only _ _ _, modEth_only _ _ _, modEth_same s hp _⟩
  · exact ⟨_, (ethFrameReceived_runs p good fill f s hd).trans (congrArg _ (ethFrame_drops hp hu h)), dropFrame_pfcFill s hp fill⟩
  · have he := ethFrameReceived_runs p true fill f s hd
    exact ⟨_, he, ((ethFrameReceived_within p true fill f s).only_of he).sub rfl, ethFrame_takes fill hp hu hf hr⟩
  · rw [pfcFrameReceived_runs p priority xoff s hd, pfcReceived_stays s xoff h]
  · cases xoff with
    | true =>
      refine ⟨_, (pfcFrameReceived_runs p priority true s hd).trans (congrArg _ (pfcReceived_xoff s he hq hu)), (modEth_net_only _ _ _).sub rfl,
        modEth_only _ _ _, fun _ => ⟨modEth_same s hp _, rfl⟩, fun h => absurd h (by decide)⟩
    | false =>
      have hx := (pfcFrameReceived_runs p priority false s hd).trans (congrArg _ (pfcReceived_xon s he hq hu))
      exact ⟨_, hx, ((pfcFrameReceived_within p priority false s).only_of hx).sub rfl, modEth_only _ _ _, fun h => absurd h (by decide),
        fun _ => ⟨modEth_same s hp _, rfl⟩⟩
  · refine ⟨_, (rawRxConsumedWrite_runs v s hw).trans (congrArg _ (viaReg_pos hr)), netOnly s _, ?_⟩
    simp only [rawRxWrite, State.modNet, rawCtrl_eq_ringWritten]
  · rw [exec_rawTxProduce hr hw, rawSend_idle hn]
  · obtain rfl | rfl | rfl : w = 0 ∨ w = 1 ∨ w = 2 := by omega
    · obtain ⟨t, ht, ho, hne, hreg⟩ := entMrWrite_range_spec (v := v) hc hi hr hp (by decide)
      exact ⟨t, ht, ho, hne, fun _ => hreg, fun h => absurd h (by decide), fun h => absurd h (by decide)⟩
    · obtain ⟨t, ht, ho, hne, hreg⟩ := entMrWrite_range_spec (v := v) hc hi hr hp (by decide)
      exact ⟨t, ht, ho, hne, fun h => absurd h (by decide), fun _ => hreg, fun h => absurd h (by decide)⟩
    · obtain ⟨t, ht, ho, hne, hreg⟩ := entMrWrite_access_spec (v := v) hc hi hr hp rfl
      exact ⟨t, ht, ho, hne, fun h => absurd h (by decide), fun h => absurd h (by decide), fun _ => hreg⟩
  · refine ⟨_, (entGidCommit_runs p g v s hw).trans (congrArg _ (viaReg_pos hr)), ?_, modEth_only _ _ _, fun k => ?_⟩
    · exact ((modFn_only s _ _).sub rfl).trans ((modEth_net_only _ _ _).sub rfl)
    · exact gidCommit_gids _ _ hp hg k

end Sys2Proof
end

section
/-! SUPPORT. The step on an empty queue: a tick, or the register writes that waited for P0 (R393; log entries 3 and 99). -/

namespace Sys2Proof

open Machine

theorem step_tick {s : State} (hq : s.pending = []) (hn : s.held = [] ∨ s.power.level ≠ 0) : step s = .next (tick s) := by
  have hd : heldDue s = false := by
    rcases hn with h | h <;> simp [heldDue, h]
  simp [step, hq, hd]

theorem step_held {s : State} (hq : s.pending = []) (hh : s.held ≠ []) (hp : s.power.level = 0) :
    step s = runHeld s.held { s with held := [] } := by
  have hd : heldDue s = true := by simp [heldDue, hh, hp]
  simp [step, hq, hd]

theorem tick_dies {s : State} (h : diesUp s = true) : tick s = dieTick { s with now := s.now + 1000 } := if_pos h

theorem tick_held_dies {s : State} (h : diesUp s = false) : tick s = { s with now := s.now + 1000 } :=
  if_neg (show ¬ diesUp s = true by simp [h])

/-- Only the local timer itself counts the tick. -/
theorem tick_now (s : State) : (tick s).now = s.now + 1000 := by
  cases h : diesUp s with
  | false => rw [tick_held_dies h]
  | true =>
    rw [tick_dies h]
    exact (dieTick_moves { s with now := s.now + 1000 } (Moves.refl 321482 _) rfl).rest .now rfl

theorem tick_moved (s : State) : Moves 321486 s (tick s) := tick_moves s (Moves.refl 321486 s) rfl

/-- No command may move the local timer (log entry 3). -/
theorem now_not_mem_parts (i : Instr) : Part.now ∉ i.parts := by
  have hc : i.parts.contains .now = false := by cases i <;> rfl
  simpa using hc

/-- A command completes, leaves the queue to the step, and no time passes. -/
theorem exec_completes (i : Instr) (s : State) : ∃ t, exec i s = .next t ∧ t.pending = s.pending ∧ t.now = s.now := by
  obtain ⟨m, hm, t, ht, hmoves⟩ := exec_within i s
  exact ⟨t, ht, hmoves.queue, hmoves.rest .now (covers_spec hm .now (now_not_mem_parts i))⟩

theorem runHeld_completes (cs : List Instr) (s : State) : ∃ t, runHeld cs s = .next t ∧ t.pending = s.pending ∧ t.now = s.now := by
  induction cs generalizing s with
  | nil => exact ⟨s, rfl, rfl, rfl⟩
  | cons c cs ih =>
    obtain ⟨u, hu, hq, hn⟩ := exec_completes c s
    obtain ⟨t, ht, hqt, hnt⟩ := ih u
    exact ⟨t, by rw [runHeld, hu]; exact ht, hqt.trans hq, hnt.trans hn⟩

/-- Settles O2: an idle step is a tick, or carries out the writes that waited (log entries 3 and 99). -/
theorem idleStepTicks : Obligations.IdleStepTicks := by
  refine fun s hq => ⟨fun hn => ?_, fun c cs hh hp => ?_⟩
  · have hm := tick_moved s
    exact ⟨tick s, step_tick hq hn, tick_now s, hm.queue.trans hq, hm.rest .held rfl, tick_held_dies, hm.only (covers_spec rfl)⟩
  · obtain ⟨u, hu, hqu, hnu⟩ := exec_completes c { s with held := [] }
    obtain ⟨t, ht, hqt, hnt⟩ := runHeld_completes cs u
    refine ⟨u, t, hu, ht, ?_, hnt.trans hnu, hqt.trans (hqu.trans hq)⟩
    rw [step_held hq (by simp [hh]) hp, hh, runHeld, hu]
    exact ht

end Sys2Proof
end

section
/-! SUPPORT. Which calendar entries fire in a beat, and what an entry that fires does (R55 to R58, R61, R75, R80). -/

namespace Sys2Proof

open Machine

/-! Firing in order: whatever an entry's action does, another entry that is due stays due until it has fired. -/

/-- What entries that fire in the beat in progress leave of the beat block: its count and the rest beside the entries' own state, what has
fired, and every entry that has not. -/
structure FiringOn (s u : State) : Prop where
  quiet : BeatQuiet s.beat u.beat
  fired : ∀ j ∈ s.beat.fired, j ∈ u.beat.fired
  entry : ∀ j, j ∉ u.beat.fired → u.entry j = s.entry j

theorem FiringOn.refl (s : State) : FiringOn s s := ⟨.refl _, fun _ h => h, fun _ _ => rfl⟩

theorem FiringOn.trans {s u v : State} (h : FiringOn s u) (k : FiringOn u v) : FiringOn s v :=
  ⟨h.quiet.trans k.quiet, fun j hj => k.fired j (h.fired j hj),
    fun j hj => (k.entry j hj).trans (h.entry j fun hu => hj (k.fired j hu))⟩

/-- A due entry that has not fired is still due. -/
theorem FiringOn.due {s u : State} {j : Nat} (h : FiringOn s u) (hd : entryDue s j = true) (hj : j ∉ u.beat.fired) : entryDue u j = true := by
  obtain ⟨hc, -, ha, -, -, hf, -⟩ := h.quiet.fields
  simp only [entryDue, Bool.and_eq_true] at hd
  simp_all [entryDue, h.entry j hj]

theorem entryFire_fired (s : State) (i : Nat) (v : List UnitView) : (entryFire s i v).beat.fired = s.beat.fired := by
  have hb := entryAct_beat s i v
  unfold entryFire
  split
  · dsimp only
    split <;> simp [hb]
  · rfl

/-- An entry that fires changes no other entry, and itself only where it is a once entry (Table 3.3). -/
theorem entryFire_entry_ne (s : State) {i j : Nat} (v : List UnitView) (h : i ≠ j) : (entryFire s i v).entry j = s.entry j := by
  have hb := entryAct_beat s i v
  unfold entryFire State.entry
  split
  · dsimp only
    split
    · rw [State.modBeat_beat, hb]
      exact tget_tmod_ne _ _ h
    · rw [hb]
  · rfl

/-- A due entry is among the fired ones when its turn comes. -/
theorem entryNow_of_due {s : State} {i : Nat} (v : List UnitView) (h : entryDue s i = true) :
    (entryNow s i v).beat.fired = s.beat.fired ++ [i] := by
  rw [entryNow, if_pos h, entryFire_fired]
  rfl

theorem entryNow_of_not_due {s : State} {i : Nat} (v : List UnitView) (h : ¬ entryDue s i = true) : entryNow s i v = s := if_neg h

theorem entryNow_firingOn (s : State) (i : Nat) (v : List UnitView) : FiringOn s (entryNow s i v) := by
  by_cases hd : entryDue s i = true
  · have hf := entryNow_of_due v hd
    refine ⟨entryNow_quiet s i v, fun j hj => ?_, fun j hj => ?_⟩
    · rw [hf]
      exact List.mem_append_left _ hj
    · have hij : i ≠ j := by
        rintro rfl
        exact hj (by simp [hf])
      rw [entryNow, if_pos hd]
      exact entryFire_entry_ne _ v hij
  · rw [entryNow_of_not_due v hd]
    exact .refl s

/-- Once its turn has come, an entry that was due in the beat has fired, then or before. -/
theorem mem_fired_entryNow {s u : State} {i : Nat} (v : List UnitView) (h : FiringOn s u) (hd : entryDue s i = true) :
    i ∈ (entryNow u i v).beat.fired := by
  by_cases hi : i ∈ u.beat.fired
  · exact (entryNow_firingOn u i v).fired i hi
  · simp [entryNow_of_due v (h.due hd hi)]

/-- Entries take their turn one after the other. -/
def inTurn (s : State) (l : List (Nat × Nat × Nat)) : State := l.foldl (fun u x => entryNow u x.2.2 []) s

theorem inTurn_firingOn (l : List (Nat × Nat × Nat)) (s : State) : FiringOn s (inTurn s l) := by
  induction l generalizing s with
  | nil => exact .refl s
  | cons x l ih => exact (entryNow_firingOn s x.2.2 []).trans (ih _)

/-- Every due entry of a list whose turns have come has fired. -/
theorem mem_fired_inTurn {s u : State} {l : List (Nat × Nat × Nat)} {x : Nat × Nat × Nat} (h : FiringOn s u) (hx : x ∈ l)
    (hd : entryDue s x.2.2 = true) : x.2.2 ∈ (inTurn u l).beat.fired := by
  induction l generalizing u with
  | nil => cases hx
  | cons y l ih =>
    rcases List.mem_cons.1 hx with rfl | hl
    · exact (inTurn_firingOn l _).fired _ (mem_fired_entryNow [] h hd)
    · exact ih (h.trans (entryNow_firingOn u y.2.2 [])) hl

theorem mem_insertCatch {x y : Nat × Nat × Nat} {l : List (Nat × Nat × Nat)} : x ∈ insertCatch y l ↔ x = y ∨ x ∈ l := by
  induction l with
  | nil => simp [insertCatch]
  | cons z l ih =>
    unfold insertCatch
    split
    · simp
    · simp only [List.mem_cons, ih]
      exact or_left_comm

/-- Putting entries in the order in which they fire loses none. -/
theorem mem_foldr_insertCatch {x : Nat × Nat × Nat} {l : List (Nat × Nat × Nat)} : x ∈ l.foldr insertCatch [] ↔ x ∈ l := by
  induction l with
  | nil => rfl
  | cons y l ih => rw [List.foldr_cons, mem_insertCatch, ih, List.mem_cons]

theorem fireInOrder_eq_inTurn (s : State) (l : List (Nat × Nat × Nat)) : fireInOrder s l = inTurn s (l.foldr insertCatch []) := rfl

theorem mem_dueBefore {s : State} {i j : Nat} (hj : j < 64) (hd : entryDue s j = true) (hb : entryBefore s j i) :
    (s.beat.count, cePhase (s.entry j), j) ∈ dueBefore s i :=
  List.mem_filterMap.2 ⟨j, List.mem_range.2 hj, if_pos ⟨hd, hb⟩⟩

theorem reachPhase_firingOn (s : State) (p : Nat) : FiringOn s (reachPhase s p) := ⟨rfl, fun _ h => h, fun _ _ => rfl⟩

/-! An entry's command (R56, R58). -/

theorem entryRun_not_due {s : State} {i a : Nat} (v : List UnitView) (h : entryDue s i = false ∨ ceAction (s.entry i) ≠ a) :
    entryRun s i a v = s := if_neg (by simpa using fun hd => (h.resolve_left (by simp [hd])))

/-- An entry whose action the package does not let fire is passed over (R61, R393). -/
theorem entryRun_passed {s : State} {i a : Nat} (v : List UnitView) (hd : entryDue s i = true) (ha : ceAction (s.entry i) = a)
    (hn : actionAllowed s a = false) (ht : entryTurn s i) : entryRun s i a v = firing s i := by
  have hn' : actionAllowed (firing s i) (ceAction ((firing s i).entry i)) = false := hn.symm ▸ ha ▸ rfl
  rw [entryRun_turn v hd ha ht, entryFire, if_neg (by simp [hn'])]

/-- At the end of its command the entry has fired, and so has every due entry that comes before it. -/
theorem entryRun_mem_fired {s : State} {i a : Nat} (v : List UnitView) (hd : entryDue s i = true) (ha : ceAction (s.entry i) = a) :
    i ∈ (entryRun s i a v).beat.fired ∧
      ∀ j < 64, entryDue s j = true → entryBefore s j i → j ∈ (entryRun s i a v).beat.fired := by
  have hr : entryRun s i a v = entryNow (reachPhase (fireInOrder s (dueBefore s i)) (cePhase (s.entry i))) i v := if_pos (by simp [hd, ha])
  have hf : FiringOn s (fireInOrder s (dueBefore s i)) := inTurn_firingOn _ s
  have hp := reachPhase_firingOn (fireInOrder s (dueBefore s i)) (cePhase (s.entry i))
  rw [hr]
  refine ⟨mem_fired_entryNow v (hf.trans hp) hd, fun j hj hdj hb => ?_⟩
  have hm := mem_fired_inTurn (.refl s) (mem_foldr_insertCatch.2 (mem_dueBefore hj hdj hb)) hdj
  exact (entryNow_firingOn _ i v).fired j (hp.fired j hm)

/-- The state in which an entry acts has the same calendar in force. -/
theorem entryReady.action {s : State} {i a : Nat} (h : entryReady s i a) : ceAction ((firing s i).entry i) = a := by
  obtain ⟨-, -, ha, -, -⟩ := h
  exact ha

/-! What the actions of Table 3.4 do. -/

section Actions

variable {s : State} {i : Nat} (v : List UnitView)

theorem entryAct_share (h : ceAction (s.entry i) = 1) :
    entryAct s i v = if bits (ceArg (s.entry i)) 0 4 = 0xF
      then (List.range 8).foldl (fun u n => shareSet u n (bits (ceArg (s.entry i)) 4 3)) s
      else shareSet s (bits (ceArg (s.entry i)) 0 4) (bits (ceArg (s.entry i)) 4 3) := by
  simp only [entryAct, h]

theorem entryAct_checkpoint (h : ceAction (s.entry i) = 7) :
    entryAct s i v = checkpointOpen s (bits (ceArg (s.entry i)) 0 8) (bits (ceArg (s.entry i)) 8 16) := by
  simp only [entryAct, h]

theorem entryAct_mark (h : ceAction (s.entry i) = 8) :
    entryAct s i v = postEvent s 8 0x0012 0 [leBytes 1 i ++ List.replicate 3 0#8 ++ leBytes 4 (ceArg (s.entry i))] := by
  simp only [entryAct, h]

/-- A claim number that no claim has names none. -/
theorem shareSet_missing {n : Nat} (p : Nat) (hn : ¬ n < 8) (hr : s.redealing = false) : shareSet s n p = s := by
  have hst : (s.claim n).st = .free := by
    have hc : s.claim n = default := by simp [State.claim, tget, hn]
    rw [hc]
    rfl
  simp [shareSet, hr, hst]

/-- SHARE_SET gives its profile to the ACTIVE claims that it names (R75). -/
theorem entryAct_share_profile (h : ceAction (s.entry i) = 1) (hr : s.redealing = false) {n : Nat} (hn : n < 8) :
    ((entryAct s i v).claim n).activeProfile = let arg := ceArg (s.entry i)
      if (bits arg 0 4 = n ∨ bits arg 0 4 = 0xF) ∧ (bits arg 0 4 < 8 ∨ bits arg 0 4 = 0xF) ∧ (s.claim n).st = .active then bits arg 4 3
      else (s.claim n).activeProfile := by
  rw [entryAct_share v h]
  generalize ceArg (s.entry i) = arg
  dsimp only
  by_cases hall : bits arg 0 4 = 0xF
  · rw [if_pos hall, shareSets_claims _ s _ n (fun k hk => List.mem_range.1 hk) hr]
    simp [hall, hn]
  · rw [if_neg hall]
    by_cases h8 : bits arg 0 4 < 8
    · obtain ⟨hp, -, -⟩ := shareSet_claims s (bits arg 0 4) (bits arg 4 3) n h8 hr
      rw [hp]
      by_cases hk : bits arg 0 4 = n
      · simp [hk, hn]
      · simp [hk, hall]
    · rw [shareSet_missing _ h8 hr]
      simp [hall, h8]

/-- A single claim's profile is held while a redeal is on (R61). -/
theorem entryAct_share_held (h : ceAction (s.entry i) = 1) (hr : s.redealing = true) (hk : bits (ceArg (s.entry i)) 0 4 < 8) :
    (entryAct s i v).redeal.heldShares =
      s.redeal.heldShares ++ [(bits (ceArg (s.entry i)) 0 4, bits (ceArg (s.entry i)) 4 3)] := by
  rw [entryAct_share v h, if_neg (by omega), shareSet, if_pos hr]
  rfl

end Actions

theorem postEvent_only (s : State) (n type cause : Nat) (bs : List (List Byte)) : OnlyParts [.out, .cl, .fns] s (postEvent s n type cause bs) :=
  (postEvent_moves s n type cause bs (Moves.refl 1096 s) rfl).only (covers_spec rfl)

theorem modBeat_only (s : State) (f : Beat → Beat) : OnlyParts [.beat] s (s.modBeat f) :=
  (State.modBeat_moves s f (Moves.refl 32 s) rfl).only (covers_spec rfl)

/-- MARK changes nothing but the beat block and what its event does (R57). -/
theorem entryRun_mark_only {s : State} {i : Nat} (v : List UnitView) (h : entryReady s i 8) :
    OnlyParts [.beat, .cl, .fns, .out] s (entryRun s i 8 v) := by
  have hf : OnlyParts [.beat, .cl, .fns, .out] s (firing s i) := (modBeat_only s _).sub rfl
  rw [entryRun_ready v h, entryAct_mark v h.action]
  dsimp only
  have hp : ∀ bs, OnlyParts [.beat, .cl, .fns, .out] s (postEvent (firing s i) 8 0x0012 0 bs) := fun bs =>
    hf.trans ((postEvent_only _ _ _ _ bs).sub rfl)
  split
  · exact (hp _).trans ((modBeat_only _ _).sub rfl)
  · exact hp _

/-- Settles O19: an entry that is not due changes nothing, an entry's turn comes after those before it, and an entry that is ready does
its action's part (R56 to R58, R61, R75, R80). -/
theorem calendarEntries : Obligations.CalendarEntries := by
  intro s i a views c hc hup
  have hx := calendarCmd_exec (views := views) hc hup
  generalize cmdViews views a = v at hx
  refine ⟨fun h => ?_, fun hd ha hn ht => ?_, fun hd ha => ⟨_, hx, entryRun_mem_fired v hd ha⟩, fun h => ⟨_, hx, entryRun_fired v h, ?_⟩⟩
  · rw [hx, entryRun_not_due v h]
  · rw [hx, entryRun_passed v hd ha hn ht]
  · have hact := h.action
    refine ⟨fun h1 hr n hn => ?_, fun h1 hr hk => ?_, fun h7 n hn => ?_, fun h8 => ?_⟩
    · rw [entryRun_proj h (fun u => (u.claim n).activeProfile) fun _ _ => rfl]
      exact entryAct_share_profile v (hact.trans h1) hr hn
    · rw [entryRun_proj h (fun u => u.redeal.heldShares) fun _ _ => rfl]
      exact entryAct_share_held v (hact.trans h1) hr hk
    · rw [entryRun_proj h (fun u => u.claim n) fun _ _ => rfl, entryAct_checkpoint v (hact.trans h7)]
      exact checkpointOpen_claim _ _ _ n hn
    · subst h8
      have he := entryAct_mark (s := firing s i) v hact
      refine ⟨entryRun_mark_only v h, ?_, ?_⟩
      · rw [entryRun_proj h (fun u => u.cl) fun _ _ => rfl, he]
        rfl
      · rw [entryRun_proj h (fun u => u.out) fun _ _ => rfl, he]
        rfl

end Sys2Proof
end

section
/-! SUPPORT. Edges of the beat and received counts (R47 to R55). -/

namespace Sys2Proof

open Machine

/-- The receiver runs on dies that run, from boot step 11 on (R46). -/
theorem receiverOn_of_diesUp {s : State} (hd : diesUp s = true) (hb : 11 ≤ s.boot.step) : receiverOn s = true := by
  simp only [diesUp, Bool.and_eq_true] at hd
  simp [receiverOn, hd.1, hb]

/-! What the shared parts of an edge leave alone. -/

theorem beatSet_quiet (s : State) (f : Beat → Beat) : BeatQuiet (f s.beat) (s.beatSet f).beat := .of_eq (beatSet_beat s f)

theorem BeatQuiet.filler {b c : Beat} (h : BeatQuiet b c) : c.filler = b.filler := by rw [h]

theorem BeatQuiet.inFiller {b c : Beat} (h : BeatQuiet b c) : c.inFiller = b.inFiller := by rw [h]

theorem BeatQuiet.hop {b c : Beat} (h : BeatQuiet b c) : c.hop = b.hop := by rw [h]

theorem BeatQuiet.count {b c : Beat} (h : BeatQuiet b c) : c.count = b.count := by rw [h]

theorem BeatQuiet.skipped {b c : Beat} (h : BeatQuiet b c) : c.skipped = b.skipped := by rw [h]

theorem BeatQuiet.ite {b : Beat} {c : Prop} [Decidable c] {s t : State} (h : BeatQuiet b s.beat) (k : BeatQuiet b t.beat) :
    BeatQuiet b (if c then s else t).beat := by
  split
  · exact h
  · exact k

theorem measureEdge_hop (s : State) (ns : Nat) : (measureEdge s ns).beat.hop = s.beat.hop := by
  simp only [measureEdge, State.modBeat, addInterval]
  split <;> rfl

theorem beatEdge_hop (s : State) : (beatEdge s).beat.hop = s.beat.hop := by
  obtain ⟨b, hb, hc⟩ := beatEdge_beat s
  rw [hc.hop, ← hb.hop]
  split <;> rfl

theorem lockCheck_none {s : State} (h : s.beat.lastValid = none) : lockCheck s = s := by
  simp [lockCheck, h]

theorem lossCheck_none {s : State} (h : s.beat.lastValid = none) : (lossCheck s).beat.lastValid = none := by
  unfold lossCheck
  split
  · cases hl : s.beat.locked with
    | false => simp [beatLoss, hl, h]
    | true => rw [beatLoss_beat s hl]
  · exact h

/-- Measuring a token edge moves neither the count nor what was skipped. -/
theorem tokenEdge_fields (now : Nat) (b : Beat) : (tokenEdge now b).count = b.count ∧ (tokenEdge now b).skipped = b.skipped := by
  unfold tokenEdge
  split <;> exact ⟨rfl, rfl⟩

/-- After a step's jump, a commit, catch-up and what every edge does leave the count (R54). -/
theorem tokenEnd_quiet (p q r : Prop) [Decidable p] [Decidable q] [Decidable r] (u : State) (lo hi : Nat) : BeatQuiet u.beat
    (if p then edgeEnd (if q then holdRange u lo hi else u)
      else edgeEnd (if r then catchUp (catchHeld (calendarApply u)) lo hi else catchHeld (calendarApply u))).beat := by
  have hh := (calendarApply_quiet u).trans (catchHeld_quiet _)
  refine .ite ?_ ?_
  · rw [edgeEnd_beat]
    exact .ite (holdRange_quiet _ _ _) (.refl _)
  · rw [edgeEnd_beat]
    exact .ite (hh.trans (catchUp_quiet _ _ _)) hh

/-! Edges. -/

section Edges

variable {s : State} (hr : receiverOn s = true)
include hr

theorem pinEdge_aligned (ns : Nat) (hs : s.beat.source = 0) (ha : s.beat.aligned = true) (hh : s.beat.holdover = false) :
    (pinEdge s ns).beat.count = (if 0 < s.beat.held then s.beat.count else (s.beat.count + 1) % 2 ^ 48) ∧
      (pinEdge s ns).beat.held = s.beat.held - 1 ∧ (pinEdge s ns).beat.aligned = true := by
  obtain ⟨-, hmc, hmh, hma, hmo, -, -⟩ := measureEdge_beat s ns
  have he : pinEdge s ns = lockCheck (lossCheck (beatEdge (measureEdge s ns))) := by
    simp [pinEdge, hr, hs, hma, hmo, ha, hh]
  obtain ⟨hec, heh, -, hea, -⟩ := beatEdge_count (measureEdge s ns)
  obtain ⟨hlc, hlh, hla, -⟩ := lossCheck_count (beatEdge (measureEdge s ns))
  obtain ⟨hc, hd, hal, -⟩ := lockCheck_aligned (s := lossCheck (beatEdge (measureEdge s ns))) (by rw [hla, hea, hma, ha])
  rw [he]
  exact ⟨by rw [hc, hlc, hec, hmc, hmh], by rw [hd, hlh, heh, hmh], hal⟩

/-- Before any valid count an edge of an unaligned package is only measured (R48, R55). -/
theorem pinEdge_unaligned (ns : Nat) (hs : s.beat.source = 0) (ha : s.beat.aligned = false) (hv : s.beat.lastValid = none) :
    (pinEdge s ns).beat.count = s.beat.count ∧ (pinEdge s ns).beat.aligned = false ∧
      (pinEdge s ns).beat.intervals = (ns :: s.beat.intervals).take 16 := by
  obtain ⟨hmi, hmc, -, hma, -, hmv, -⟩ := measureEdge_beat s ns
  have he : pinEdge s ns = lossCheck (measureEdge s ns) := by
    rw [← lockCheck_none (lossCheck_none (hmv.trans hv))]
    simp [pinEdge, hr, hs, hma, ha]
  obtain ⟨hlc, -, hla, hli⟩ := lossCheck_count (measureEdge s ns)
  rw [he]
  exact ⟨hlc.trans hmc, by rw [hla, hma, ha], hli.trans hmi⟩

theorem holdoverEdge_on (hh : s.beat.holdover = true) : holdoverEdge s = beatEdge s := if_pos ⟨hr, hh⟩

/-- A filler beat leaves the count (R51). -/
theorem fillerBeat_shows (hs : s.beat.source = 2) :
    (fillerBeat s).beat.count = s.beat.count ∧ (fillerBeat s).beat.inFiller = true ∧ (fillerBeat s).beat.filler = true := by
  have hq : ∀ u, BeatQuiet u.beat (edgeEnd (catchHeld (calendarApply u))).beat := fun u => by
    rw [edgeEnd_beat]
    exact (calendarApply_quiet u).trans (catchHeld_quiet _)
  rw [fillerBeat, if_pos ⟨hr, hs⟩]
  dsimp only
  refine ⟨(hq _).count.trans ?_, (hq _).inFiller.trans ?_, (hq _).filler.trans ?_⟩
  · rw [beatSet_beat]
    dsimp only
    rw [(tokenEdge_fields _ _).1, (flushBeat_quiet s).count]
  · rw [beatSet_beat]
  · rw [beatSet_beat]

end Edges

/-- A loss latches alert 5 (R53, R412). -/
theorem beatLoss_alert {s : State} (h : s.beat.locked = true) : (beatLoss s).mgmt.alerts.testBit 5 = true := by
  rw [beatLoss, if_pos h]
  exact alertLatch_bit _ 5

/-- Settles O17: each edge by the lemma about its operation, and a loss by what it latches (R47, R50, R51, R53, R54). -/
theorem beatEdges : Obligations.BeatEdges := by
  intro s hd hb
  have hr := receiverOn_of_diesUp hd hb
  refine ⟨fun ha => ⟨fun hs hh ns => ?_, fun hh => ?_⟩, fun ha hs hv ns => ?_, fun hs => ?_, fun hl => ?_⟩
  · exact ⟨_, pinBeatEdge_runs ns s hd, pinEdge_aligned hr ns hs ha hh⟩
  · obtain ⟨hc, hh', -, -, -, ho, -⟩ := beatEdge_count s
    exact ⟨_, (holdoverBeatEdge_runs s hd).trans (congrArg _ (holdoverEdge_on hr hh)), hc, hh', ho.trans hh⟩
  · exact ⟨_, pinBeatEdge_runs ns s hd, pinEdge_unaligned hr ns hs ha hv⟩
  · exact ⟨_, fillerBeat_runs s hd, fillerBeat_shows hr hs⟩
  · have he := beatLoss_runs s hd
    exact ⟨_, he, beatLoss_beat s hl, beatLoss_alert hl, ((beatLoss_within s).only_of he).sub rfl⟩

/-! Received counts. -/

/-- The start count of a valid frame is taken as the last valid count (R48, R52). -/
def frameTaken (s : State) (c : Nat) : State :=
  s.modBeat fun b => { b with lastValid := some c, since := 0, agreed := decide (b.lastValid.map (· + 64) = some c) }

/-- The edge that a beat message brings to an aligned package (R49). -/
def linkEdge (s : State) (hop ns : Nat) : State := beatEdge (measureEdge (s.modBeat fun b => { b with hop := hop }) ns)

/-- The count of a beat message is taken as the last valid count (R49, R52). -/
def linkTaken (s : State) (c : Nat) : State :=
  s.modBeat fun b => { b with lastValid := some c, since := 0, agreed := decide (b.lastValid.map (· + 1) = some c) }

theorem linkBeat_refused {s : State} {p hop count ns : Nat} (h : p ≠ s.image.linkPort ∨ 15 < hop ∨ ¬ trained s p) : linkBeat s p hop count ns = s := by
  refine if_neg fun ⟨_, _, hp, hh, ht⟩ => ?_
  rcases h with h | h | h
  · exact h hp
  · omega
  · exact h ht

section Received

variable {s : State} (hr : receiverOn s = true)
include hr

theorem pinFrame_invalid {pulses : List Nat} (hs : s.beat.source = 0) (hf : frameCount pulses = none) :
    pinFrame s pulses = s.modBeat fun b => { b with frameError := satInc 16 b.frameError } := by
  simp [pinFrame, hr, hs, hf]

theorem pinFrame_valid {pulses : List Nat} {c : Nat} (hs : s.beat.source = 0) (hf : frameCount pulses = some c) :
    pinFrame s pulses = lockCheck (compareCount (frameTaken s c) ((c + 63) % 2 ^ 48)) := by
  simp [pinFrame, hr, hs, hf, frameTaken]

/-- What a valid frame does to an aligned package (R48, R54). -/
theorem pinFrame_compares {pulses : List Nat} {c : Nat} (hs : s.beat.source = 0) (hf : frameCount pulses = some c)
    (ha : s.beat.aligned = true) : let b := (pinFrame s pulses).beat
    b.lastValid = some c ∧ b.aligned = true ∧
    (let n := (c + 63) % 2 ^ 48
    b.differed = decide (n + b.held ≠ b.count) ∧
    (s.beat.lastValid.map (· + 64) = some c → s.beat.differed = true → n + s.beat.held ≠ s.beat.count →
      (n < s.beat.count → b.count = s.beat.count ∧ b.held = s.beat.count - n ∧ b.jumpHold = true) ∧
      (s.beat.count < n → b.count = n ∧ b.held = 0 ∧ b.skipped = (s.beat.skipped + (n - s.beat.count)) % 2 ^ 48 ∧
        b.jumpFwd = (s.beat.jumpFwd || decide (n - s.beat.count ≤ 65536)) ∧
        b.jumpFar = (s.beat.jumpFar || decide (65536 < n - s.beat.count)))) ∧
    (s.beat.lastValid.map (· + 64) ≠ some c ∨ s.beat.differed = false ∨ n + s.beat.held = s.beat.count ∨ n = s.beat.count →
      b.count = s.beat.count ∧ b.held = s.beat.held ∧ b.jumpHold = s.beat.jumpHold ∧ b.skipped = s.beat.skipped)) := by
  obtain ⟨hca, hcv, hcd, hstay, hmove⟩ := compareCount_facts (frameTaken s c) ((c + 63) % 2 ^ 48) ha (Nat.mod_lt _ (by decide))
  obtain ⟨l, o, r, p, hl⟩ := lockCheck_shape hca
  rw [pinFrame_valid hr hs hf, hl]
  refine ⟨hcv, hca, hcd, fun hagree => hmove (decide_eq_true hagree), fun h => ?_⟩
  obtain ⟨d, hd⟩ := hstay (h.imp_left fun hn => decide_eq_false hn)
  dsimp only
  rw [hd]
  exact ⟨rfl, rfl, rfl, rfl⟩

theorem linkBeat_aligned {p hop count ns : Nat} (hs : s.beat.source = 1) (hp : p = s.image.linkPort) (hh : hop ≤ 15) (ht : trained s p)
    (ha : s.beat.aligned = true) (ho : s.beat.holdover = false) :
    linkBeat s p hop count ns = lockCheck (lossCheck (compareCount (linkTaken (linkEdge s hop ns) count) count)) := by
  obtain ⟨-, -, -, hma, hmo, -, -⟩ := measureEdge_beat (s.modBeat fun b => { b with hop := hop }) ns
  rw [linkBeat, if_pos ⟨hr, hs, hp, hh, ht⟩]
  dsimp only
  rw [if_pos ⟨hma.trans ha, by rw [hmo]; simpa using ho⟩]
  rfl

/-- A beat message whose count is that of its own edge moves the count by that edge alone (R49, R54). -/
theorem linkBeat_advances {p hop count ns : Nat} (hs : s.beat.source = 1) (hp : p = s.image.linkPort) (hh : hop ≤ 15) (ht : trained s p)
    (ha : s.beat.aligned = true) (ho : s.beat.holdover = false) (hz : s.beat.held = 0) (hc : count = (s.beat.count + 1) % 2 ^ 48) :
    (linkBeat s p hop count ns).beat.count = count ∧ (linkBeat s p hop count ns).beat.hop = hop ∧
      (linkBeat s p hop count ns).beat.aligned = true := by
  obtain ⟨-, hmc, hmh, hma, -, -, -⟩ := measureEdge_beat (s.modBeat fun b => { b with hop := hop }) ns
  obtain ⟨hec, -, -, hea, -⟩ := beatEdge_count (measureEdge (s.modBeat fun b => { b with hop := hop }) ns)
  have hcount : (linkEdge s hop ns).beat.count = count := by
    rw [linkEdge, hec, hmc, hmh, State.modBeat_beat, if_neg (by simp [hz]), hc]
  have hhop : (linkEdge s hop ns).beat.hop = hop := by
    rw [linkEdge, beatEdge_hop, measureEdge_hop, State.modBeat_beat]
  have hal : (linkEdge s hop ns).beat.aligned = true := by rw [linkEdge, hea, hma]; exact ha
  have hlt : count < 2 ^ 48 := by omega
  rw [linkBeat_aligned hr hs hp hh ht ha ho]
  generalize linkEdge s hop ns = u at *
  obtain ⟨-, -, -, hstay, -⟩ := compareCount_facts (linkTaken u count) count hal hlt
  obtain ⟨d, hd⟩ := hstay (.inr (.inr (.inr hcount.symm)))
  obtain ⟨_, _, _, _, _, _, _, hloss⟩ := lossCheck_shape (compareCount (linkTaken u count) count)
  obtain ⟨_, _, _, _, hlock⟩ := lockCheck_shape (s := lossCheck (compareCount (linkTaken u count) count)) (by rw [hloss, hd]; exact hal)
  rw [hlock, hloss, hd]
  exact ⟨hcount, hhop, hal⟩

/-! The token (R50). -/

section Token

variable {n : Nat} (hs : s.beat.source = 2) (hg : s.beat.designate = true) (hc : committedSteps s s.beat.tokenRound = some n)
include hs hg hc

/-- A committed step aligns an unaligned package. -/
theorem tokenCommit_aligns (ha : s.beat.aligned = false) : (tokenCommit s).beat.aligned = true ∧ (tokenCommit s).beat.count = n := by
  have hq : BeatQuiet { edgePhase s.now s.beat with aligned := true, count := n, filler := false, inFiller := false, fired := [] }
      (tokenCommit s).beat := by
    rw [tokenCommit, if_pos ⟨hr, hs, hg⟩, hc]
    dsimp only
    rw [if_pos (by simp [ha]), edgeEnd_beat]
    exact (beatSet_quiet _ _).trans (calendarApply_quiet _)
  obtain ⟨hn, -, ha', -⟩ := hq.fields
  exact ⟨ha', hn⟩

theorem tokenCommit_passed (ha : s.beat.aligned = true) (hn : n ≤ s.beat.count) : tokenCommit s = s := by
  rw [tokenCommit, if_pos ⟨hr, hs, hg⟩, hc]
  dsimp only
  rw [if_neg (by simp [ha]), if_pos hn]

/-- An aligned package takes the count of a step ahead of it, and skips the beats between. -/
theorem tokenCommit_jumps (ha : s.beat.aligned = true) (hn : s.beat.count < n) : (tokenCommit s).beat.count = n ∧
    (tokenCommit s).beat.skipped = (s.beat.skipped + (n - s.beat.count - 1)) % 2 ^ 48 := by
  have hf := flushBeat_quiet s
  rw [tokenCommit, if_pos ⟨hr, hs, hg⟩, hc]
  dsimp only
  rw [if_neg (by simp [ha]), if_neg (by omega)]
  refine ⟨(tokenEnd_quiet ..).count.trans ?_, (tokenEnd_quiet ..).skipped.trans ?_⟩
  · rw [apply_ite State.beat, beatEvent_beat, ite_self, State.modBeat_beat]
  · rw [apply_ite State.beat, beatEvent_beat, ite_self, State.modBeat_beat]
    dsimp only
    rw [hf.skipped, hf.count]

end Token

end Received

/-- Writing BEAT_TOKEN with designate aligns the count to the round's committed steps (R50). -/
theorem tokenWrite_designates {s : State} {round n : Nat} (hs : s.beat.source = 2) (hr : round < 65536)
    (hc : committedSteps s round = some n) : ∃ b : Beat, (tokenWrite s (round % 65536 + 2 ^ 31)).beat =
      { b with aligned := true, count := n, redesignated := true, tokenRound := round, designate := true } := by
  have hround : bits (round % 65536 + 2 ^ 31) 0 16 = round := by
    rw [bits_low (by decide)]
    omega
  have hbit : bit (round % 65536 + 2 ^ 31) 31 = true := bit_top (by omega)
  have hc' : committedSteps (s.modBeat fun b => { b with tokenRound := round, designate := true }) round = some n := hc
  rw [tokenWrite, if_neg (by simp [hs]), hround, hbit]
  dsimp only
  rw [if_pos rfl, hc']
  dsimp only
  rw [beatSet_beat]
  split
  · exact ⟨_, rfl⟩
  · exact ⟨_, rfl⟩

/-- Settles O18: frames by the comparison of counts, messages by their edge, and the token by the round's committed steps (R48 to R50, R52,
R54; log entries 123 and 124). -/
theorem beatCounts : Obligations.BeatCounts := by
  intro s hd hb
  have hr := receiverOn_of_diesUp hd hb
  refine ⟨fun hs pulses => ⟨fun hf => ?_, fun c hf ha => ?_⟩, fun hs port hop count ns => ⟨fun h => ?_, fun hp hh ht ha ho hz hc => ?_⟩,
    fun hs n => ⟨fun hg hc => ⟨fun ha => ?_, fun ha hn => ?_, fun ha hn => ?_⟩, fun round hround hreg hw hc => ?_⟩⟩
  · rw [pinBeatFrame_runs pulses s hd, pinFrame_invalid hr hs hf]
  · exact ⟨_, pinBeatFrame_runs pulses s hd, pinFrame_compares hr hs hf ha⟩
  · rw [linkBeatMessage_runs port hop count ns s hd, linkBeat_refused h]
  · exact ⟨_, linkBeatMessage_runs port hop count ns s hd, linkBeat_advances hr hs hp hh ht ha ho hz hc⟩
  · exact ⟨_, tokenBeatCommit_runs s hd, tokenCommit_aligns hr hs hg hc ha⟩
  · rw [tokenBeatCommit_runs s hd, tokenCommit_passed hr hs hg hc ha hn]
  · exact ⟨_, tokenBeatCommit_runs s hd, tokenCommit_jumps hr hs hg hc ha hn⟩
  · obtain ⟨b, hw'⟩ := tokenWrite_designates hs hround hc
    refine ⟨_, (beatTokenDesignate_runs round s hw).trans (congrArg _ (viaReg_pos hreg)), ?_⟩
    dsimp only
    rw [hw']
    exact ⟨rfl, rfl, rfl, rfl, rfl⟩

end Sys2Proof
end

section
/-! SUPPORT. Changes of the calendar (R60), the ends of checkpoint windows (R80) and lowered reservations (R76). -/

namespace Sys2Proof

open Machine

theorem viaWide_pos {s : State} {fn off : Nat} {k : State → State} (h : (regAt s fn off).isSome = true) :
    viaWide s fn off k = k (dropHold s fn off) := viaReg_pos h

/-! BEAT_CAL_COMMIT (R60). -/

section Commit

variable (s : State) {b : Nat} (hb : b < 2 ^ 48)
include hb

/-- The value that arming at beat b writes names b and sets arm. -/
theorem bits_armValue : bits (b % 2 ^ 48 + 2 ^ 63) 0 48 = b ∧ bit (b % 2 ^ 48 + 2 ^ 63) 63 = true :=
  ⟨by rw [bits_low (by decide), Nat.mod_mod, Nat.mod_eq_of_lt hb], bit_top (by omega)⟩

theorem commitWrite_pending (h : ∀ i < 64, ceOk (tget s.beat.shadow i) = true) :
    commitWrite s (b % 2 ^ 48 + 2 ^ 63) = s.modBeat fun x => { x with atBeat := b, commitPending := true } := by
  obtain ⟨hbeat, harm⟩ := bits_armValue hb
  have hnone : ((List.range 64).find? fun i => !ceOk (tget s.beat.shadow i)) = none :=
    List.find?_eq_none.2 fun i hi => by simp [h i (List.mem_range.1 hi)]
  simp only [commitWrite, hbeat, harm, if_true, State.modBeat_beat, hnone]
  rfl

theorem commitWrite_refused {i : Nat} (hi : i < 64) (hbad : ceOk (tget s.beat.shadow i) = false)
    (hgood : ∀ j < i, ceOk (tget s.beat.shadow j) = true) :
    commitWrite s (b % 2 ^ 48 + 2 ^ 63) =
      s.modBeat fun x => { x with atBeat := b, commitPending := false, commitRefused := true, refusedEntry := i } := by
  obtain ⟨hbeat, harm⟩ := bits_armValue hb
  have hsome : ((List.range 64).find? fun i => !ceOk (tget s.beat.shadow i)) = some i :=
    List.find?_range_eq_some.2 ⟨by simp [hbad], List.mem_range.2 hi, fun j hj => by simp [hgood j hj]⟩
  simp only [commitWrite, hbeat, harm, if_true, State.modBeat_beat, hsome]
  rfl

end Commit

/-! The shadow calendar (R60). -/

/-- What a write of some bytes makes of a 16-byte entry. -/
def splice (e : List Byte) (o : Nat) (bs : List Byte) : List Byte :=
  ((bytesAt e 0 16).take o ++ bs ++ (bytesAt e 0 16).drop (o + bs.length)).take 16

/-- Of the entry the bytes written are those of the write, and the others stay. -/
theorem splice_getD (e bs : List Byte) {o i : Nat} (ho : o + bs.length ≤ 16) (hi : i < 16) :
    (splice e o bs).getD i 0#8 = if o ≤ i ∧ i < o + bs.length then bs.getD (i - o) 0#8 else e.getD i 0#8 := by
  have hb := bytesAt_getD e 0 16 i hi
  have hl := bytesAt_length e 0 16
  rw [Nat.zero_add] at hb
  rw [← hb, splice]
  simp only [List.getD_eq_getElem?_getD, List.getElem?_take, List.getElem?_append, List.length_append, List.length_take, hl,
    List.getElem?_drop]
  by_cases h1 : i < o
  · simp [h1, hi, show i < min o 16 + bs.length by omega, show i < min o 16 by omega, show ¬ o ≤ i by omega]
  · by_cases h2 : i < o + bs.length
    · simp [hi, show min o 16 = o by omega, h1, h2, Nat.le_of_not_lt h1]
    · simp [hi, show min o 16 = o by omega, h2, show o + bs.length + (i - (o + bs.length)) = i by omega]

theorem bytesAt_splice_written (e bs : List Byte) {o n : Nat} (hn : bs.length = n) (ho : o + n ≤ 16) :
    bytesAt (splice e o bs) o n = bs := by
  refine bytesAt_ext hn fun i hi => ?_
  rw [splice_getD e bs (by omega) (by omega), if_pos (by omega), Nat.add_sub_cancel_left]

theorem bytesAt_splice_other (e bs : List Byte) {o p n : Nat} (ho : o + bs.length ≤ 16) (hp : p + n ≤ 16) (hd : p + n ≤ o ∨ o + bs.length ≤ p) :
    bytesAt (splice e o bs) p n = bytesAt e p n := by
  refine bytesAt_ext (bytesAt_length e p n) fun i hi => ?_
  rw [splice_getD e bs ho (by omega), if_neg (by omega), bytesAt_getD e p n i hi]

/-- A write of bytes of the shadow calendar changes one entry and ends a pending commit. -/
theorem shadowWrite_eq (s : State) (entry o : Nat) (bs : List Byte) (ho : o < 16) :
    shadowWrite s (16 * entry + o) bs = s.modBeat fun b => { b with
      shadow := tmod b.shadow entry (splice · o bs), commitPending := false, commitCancelled := b.commitCancelled || b.commitPending } := by
  have hq : (16 * entry + o) / 16 = entry := by omega
  have hr : (16 * entry + o) % 16 = o := by omega
  rw [shadowWrite, hq, hr]
  rfl

/-- The halves of an entry: the one written, and the other. -/
theorem shadowWrite_half (s : State) {entry word : Nat} (v : Nat) (he : entry < 64) (hw : word < 2) :
    let e' := tget (shadowWrite s (16 * entry + 8 * word) (leBytes 8 v)).beat.shadow entry
    bytesAt e' (8 * word) 8 = leBytes 8 v ∧
      bytesAt e' (8 * (1 - word)) 8 = bytesAt (tget s.beat.shadow entry) (8 * (1 - word)) 8 := by
  have hl := leBytes_length 8 v
  rw [shadowWrite_eq s entry _ _ (by omega), State.modBeat_beat, tget_tmod_same _ _ he]
  exact ⟨bytesAt_splice_written _ _ hl (by omega), bytesAt_splice_other _ _ (by omega) (by omega) (by omega)⟩

/-! The ends of checkpoint windows (R80). -/

theorem checkpointEnd_only (s : State) : OnlyParts [.cl] s (checkpointEnd s) :=
  (checkpointEnd_moves s (Moves.refl 64 s) rfl).only (covers_spec rfl)

theorem checkpointEnd_claim (s : State) {n : Nat} (hn : n < 8) : (checkpointEnd s).claim n = match (s.claim n).ckptUntil with
    | some u => if u ≤ s.beat.count then { s.claim n with ckptUntil := none } else s.claim n
    | none => s.claim n :=
  tget_map _ _ hn

/-- A window whose end the count has reached closes. -/
theorem checkpointEnd_closes (s : State) {n u : Nat} (hn : n < 8) (hu : (s.claim n).ckptUntil = some u) (hc : u ≤ s.beat.count) :
    (checkpointEnd s).claim n = { s.claim n with ckptUntil := none } := by
  rw [checkpointEnd_claim s hn, hu]
  exact if_pos hc

theorem checkpointEnd_stays (s : State) {n : Nat} (hn : n < 8) (h : ∀ u, (s.claim n).ckptUntil = some u → s.beat.count < u) :
    (checkpointEnd s).claim n = s.claim n := by
  rw [checkpointEnd_claim s hn]
  cases hu : (s.claim n).ckptUntil with
  | none => rfl
  | some u => exact if_neg (Nat.not_le.2 (h u hu))

/-! Lowered reservations (R76). -/

/-- A pending reservation applies to its claim alone, with an event. -/
theorem applyReservation_claim (s : State) {n : Nat} (hn : n < 8) (hp : (s.claim n).resvPending = true) (hb : rtLaneBusy s n = false) :
    (applyReservation s n).claim n = { s.claim n with effResv := profResv (activeProf (s.claim n)), resvPending := false } ∧
      ∀ m, m ≠ n → (applyReservation s n).claim m = s.claim m := by
  rw [applyReservation, if_pos ⟨hp, by simp [hb]⟩]
  dsimp only
  simp only [postEvent_claim]
  exact ⟨claim_modClaim_same s _ hn, fun m hm => claim_modClaim_ne s _ (Ne.symm hm)⟩

/-- Settles O20: an armed commit by the lowest invalid entry, a shadow write by the bytes it splices in, and the two timed ends by the claim
they are about (R60, R76, R80; log entries 31, 33 and 122). -/
theorem calendarChanges : Obligations.CalendarChanges := by
  refine ⟨fun s b hr hw hb => ⟨fun h => ?_, fun i hi hbad hgood => ?_⟩, fun s entry word v he hword hr hw => ?_,
    fun s hd => ⟨?_, fun n hn => ⟨fun ha => ?_, fun ha hp hb => ?_⟩⟩⟩
  · rw [beatCalCommitArm_runs b s hw, viaWide_pos hr, commitWrite_pending (dropHold s 0 (beatOff 0x30)) hb h]
  · rw [beatCalCommitArm_runs b s hw, viaWide_pos hr, commitWrite_refused (dropHold s 0 (beatOff 0x30)) hb hi hbad hgood]
  · have hx := (beatCalShadowWrite_runs entry word v s hw).trans (congrArg _ (viaWide_pos hr))
    obtain ⟨hhalf, hother⟩ := shadowWrite_half (dropHold s 0 (beatOff (0x2000 + 16 * entry + 8 * word))) v he hword
    refine ⟨_, hx, hhalf, hother, fun j hj => ?_, rfl, rfl, rfl, ?_⟩
    · rw [shadowWrite_eq _ _ _ _ (by omega), State.modBeat_beat]
      exact tget_tmod_ne _ _ (Ne.symm hj)
    · exact ((modFn_only s _ _).sub rfl).trans ((modBeat_only _ _).sub rfl)
  · refine ⟨_, checkpointWindowEnd_runs s hd, fun n hn => ⟨fun u hu hc => ?_, checkpointEnd_stays s hn⟩, rfl, checkpointEnd_only s⟩
    exact checkpointEnd_closes s hn hu hc
  · rw [reservationApplyTimeout_runs n s hd, if_pos ha]
  · have hx := reservationApplyTimeout_runs n s hd
    rw [if_neg (by simp [ha])] at hx
    obtain ⟨hown, hothers⟩ := applyReservation_claim s hn hp hb
    exact ⟨_, hx, hown, hothers, ((reservationApplyTimeout_within n s).only_of hx).sub rfl⟩

end Sys2Proof
end

section
/-! SUPPORT. CLAIM_CREATE and CLAIM_MODIFY (R65 to R69, R75). -/

namespace Sys2Proof

open Machine

/-! The block that either command reads (R66). -/

theorem claimInstr_runs (create : Bool) (seq l : Nat) (r : HostResp) {s : State} (hd : diesUp s = true) :
    exec (claimInstr create seq l r) s = .next (claimCmd s seq l create r) := by
  cases create with
  | true => exact claimCreate_runs seq l r s hd
  | false => exact claimModify_runs seq l r s hd

/-- A level that has passed its command and then completes it is done with it (R92). -/
theorem levelOf_completed {s u : State} {shoe seq l op g : Nat} {lv : Level} {b : List Byte} (h : nextCmd s shoe seq l op = some (lv, g, b))
    (hu : u.dl = (passCmd s shoe seq l b).dl) : levelOf (completeCmd u shoe seq l g) shoe seq l = some (cmdDone lv b) := by
  obtain ⟨-, -, -, -, rfl, -, -, -, hl⟩ := nextCmd_some h
  rw [levelOf_completeCmd, levelOf_congr (s := passCmd s shoe seq l b) (by rw [hu]), ← levelOf_completeCmd]
  exact levelOf_doneCmd b hl

/-- Without its block either command fails (R285, R288, R289). -/
theorem claimCmd_unread {s : State} {seq l : Nat} {create : Bool} {lv : Level} {b : List Byte} {r : HostResp}
    (h : nextCmd s 8 seq l (if create then 0x40 else 0x41) = some (lv, lv.pc, b)) (hr : hostOk s 0 (field b 8 8) 64 = false ∨ r = .err) :
    ∃ u, claimCmd s seq l create r = failAt u 8 seq l lv.pc 0x0411 ∧ u.dl = (passCmd s 8 seq l b).dl ∧ OnlyParts [.dl, .out, .pcie] s u := by
  have hp := (passCmd_parts s 8 seq l b).mono (qs := [.dl, .out, .pcie]) (by simp)
  by_cases hok : hostOk s 0 (field b 8 8) 64 = true
  · obtain rfl : r = .err := hr.resolve_left (by simp [hok])
    refine ⟨aerLog ((passCmd s 8 seq l b).emit (.hostRead 0 (field b 8 8) 64)), ?_, rfl, hp.trans ?_⟩
    · simp only [claimCmd, h, hok]; rfl
    · intro p hp
      cases p <;> first | exact absurd (by decide) hp | rfl
  · exact ⟨_, by simp only [claimCmd, h, hok]; rfl, rfl, hp⟩

section Read

variable {s u : State} {seq l : Nat} {create : Bool} {lv : Level} {b d : List Byte}

/-- With its block read, either command is decided by the checks of R67. -/
theorem claimCmd_refused (h : blockRead s seq l create lv b (bytesAt d 0 64) u) {cause : Nat}
    (hf : claimFault u create (bytesAt d 0 64) = some cause) : claimCmd s seq l create (.ok d) = failAt u 8 seq l lv.pc cause := by
  obtain ⟨⟨-, hn, -⟩, hok, -, rfl⟩ := h
  simp [claimCmd, hn, hok, readHost, readBack, HostResp.bytes, hf]

theorem claimCmd_noFrames (h : blockRead s seq l true lv b (bytesAt d 0 64) u) (hf : claimFault u true (bytesAt d 0 64) = none)
    (hg : grantDescs (field (bytesAt d 0 64) 0 1) (List.range (descPages (newVals u true (bytesAt d 0 64)).descs)) u [] = none) :
    claimCmd s seq l true (.ok d) = failAt (clearNeeded u false (field (bytesAt d 0 64) 0 1) (descPages (newVals u true (bytesAt d 0 64)).descs))
      8 seq l lv.pc 0x0402 := by
  obtain ⟨⟨-, hn, -⟩, hok, -, rfl⟩ := h
  simp only [if_true] at hn
  simp [claimCmd, hn, hok, readHost, readBack, HostResp.bytes, hf, createClaim, hg]

theorem claimCmd_creates (h : blockRead s seq l true lv b (bytesAt d 0 64) u) (hf : claimFault u true (bytesAt d 0 64) = none) {t : State}
    (ht : createClaim u (bytesAt d 0 64) = .ok t) : claimCmd s seq l true (.ok d) = completeCmd t 8 seq l lv.pc := by
  obtain ⟨⟨-, hn, -⟩, hok, -, rfl⟩ := h
  simp only [if_true] at hn
  simp [claimCmd, hn, hok, readHost, readBack, HostResp.bytes, hf, ht]

theorem claimCmd_modifies (h : blockRead s seq l false lv b (bytesAt d 0 64) u) (hf : claimFault u false (bytesAt d 0 64) = none) :
    claimCmd s seq l false (.ok d) = completeCmd (modifyClaim u (bytesAt d 0 64)) 8 seq l lv.pc := by
  obtain ⟨⟨-, hn, -⟩, hok, -, rfl⟩ := h
  simp only [Bool.false_eq_true, if_false] at hn
  simp [claimCmd, hn, hok, readHost, readBack, HostResp.bytes, hf]

theorem blockRead_only (h : blockRead s seq l create lv b (bytesAt d 0 64) u) : OnlyParts [.dl, .out] s u := by
  obtain ⟨-, -, -, rfl⟩ := h
  exact ((passCmd_parts s 8 seq l b).mono (by simp)).trans ((emit_only _ _).mono (by simp))

end Read

/-! CLAIM_CREATE (R64, R67, R208, R213). -/

/-- A claim as its creation leaves it: the block's values, and of the claim before only its reset report. -/
def createdClaim (v : ClaimVals) (c : Claim) (frames : List Nat) : Claim :=
  { (({} : Claim).withVals v) with
    st := .active, activeProfile := v.active, profiles := profVec v.profiles, resetLast := c.resetLast, resetFailed := c.resetFailed
    resetCompleted := c.resetCompleted, descFrames := frames, effResv := profResv (BitVec.ofNat 32 (v.profiles.getD v.active 0)) }

theorem openTallies_only (s : State) (base count oldBase oldCount : Nat) : OnlyParts [.sync] s (openTallies s base count oldBase oldCount) :=
  (openTallies_moves s base count oldBase oldCount (Moves.refl 512 s) rfl).only (covers_spec rfl)

theorem quotaEvent_only (s : State) (n : Nat) : OnlyParts [.out, .cl, .fns] s (quotaEvent s n) := postEvent_only s n _ _ _

theorem createClaim_granted {u u1 : State} {blk : List Byte} {fs : List Nat}
    (hg : grantDescs (field blk 0 1) (List.range (descPages (newVals u true blk).descs)) u [] = some (u1, fs)) :
    let n := field blk 0 1
    let v := newVals u true blk
    createClaim u blk = .ok (quotaEvent ((openTallies (u1.modClaim n fun c => createdClaim v c fs) v.tallyBase v.tallyCount 0 0).modTiers fun t =>
      { t with keys := tset t.keys n (some u.freeCtr) }).draw n) := by
  simp only [createClaim, hg]; rfl

theorem createClaim_spec {u u1 : State} {blk : List Byte} {fs : List Nat} (hf : claimFault u true blk = none)
    (hg : grantDescs (field blk 0 1) (List.range (descPages (newVals u true blk).descs)) u [] = some (u1, fs)) :
    let n := field blk 0 1
    let v := newVals u true blk
    ∃ t, createClaim u blk = .ok t ∧ t.dl = u.dl ∧ t.claim n = createdClaim v (u.claim n) fs ∧ (∀ m, m ≠ n → t.claim m = u.claim m) ∧
      (∀ k, v.tallyBase ≤ k → k < v.tallyBase + v.tallyCount → t.tally k = {}) ∧ tget t.tiers.keys n = some u.freeCtr ∧ u.freeCtr < t.freeCtr := by
  intro n v
  obtain ⟨hn, hrange, -⟩ := claimFault_valid hf
  obtain ⟨hcl, hdl, -, hctr, -⟩ := grantDescs_cl _ _ _ _ _ hg
  have hc := claim_of_cl hcl
  have ho := openTallies_only (u1.modClaim n fun c => createdClaim v c fs) v.tallyBase v.tallyCount 0 0
  have hfresh := fun k h1 h2 => openTallies_fresh (u1.modClaim n fun c => createdClaim v c fs) v.tallyBase v.tallyCount (k := k) h1 h2 hrange
  refine ⟨_, createClaim_granted hg, ?_⟩
  generalize openTallies (u1.modClaim n fun c => createdClaim v c fs) v.tallyBase v.tallyCount 0 0 = o at *
  have hq := quotaEvent_only ((o.modTiers fun t => { t with keys := tset t.keys n (some u.freeCtr) }).draw) n
  have hoc : ∀ m, o.claim m = (u1.modClaim n fun c => createdClaim v c fs).claim m := claim_of_cl (ho .cl (by decide))
  refine ⟨?_, ?_, fun m hm => ?_, fun k h1 h2 => ?_, ?_, ?_⟩
  · exact (hq .dl (by decide)).trans ((ho .dl (by decide)).trans hdl)
  · rw [quotaEvent, postEvent_claim]
    exact (hoc n).trans ((claim_modClaim_same _ _ hn).trans (by rw [hc]))
  · rw [quotaEvent, postEvent_claim]
    exact (hoc m).trans ((claim_modClaim_ne _ _ (Ne.symm hm)).trans (hc m))
  · rw [State.tally, hq .sync (by decide)]
    exact hfresh k h1 h2
  · rw [hq .tiers (by decide)]
    exact tget_tset_same _ _ (by omega)
  · rw [hq .freeCtr (by decide), State.draw_freeCtr, State.modTiers_freeCtr, ho .freeCtr (by decide), State.modClaim_freeCtr, hctr]
    exact Nat.lt_succ_self _

/-! CLAIM_MODIFY (R67, R69, R75). -/

theorem disarmWaits_claim (s : State) (n m : Nat) : (disarmWaits s n).claim m = s.claim m :=
  claim_of_cl ((disarmWaits_moves s n (Moves.refl 1544 s) rfl).rest .cl rfl) m

/-- The claims after a change of quotas and ranges, before its shares (R69, R213, R220). -/
theorem rangedClaim_spec (s : State) {n : Nat} (hn : n < 8) (v : ClaimVals) :
    let o := openTallies (s.modClaim n fun c => c.withVals v) v.tallyBase v.tallyCount (s.claim n).tallyBase (s.claim n).tallyCount
    let u := if (s.claim n).tallyBase ≠ v.tallyBase ∨ (s.claim n).tallyCount ≠ v.tallyCount then disarmWaits o n else o
    u.claim n = (s.claim n).withVals v ∧ ∀ m, m ≠ n → u.claim m = s.claim m := by
  intro o u
  have hu : ∀ m, u.claim m = (s.modClaim n fun c => c.withVals v).claim m := fun m => by
    refine Eq.trans ?_ (openTallies_claim _ v.tallyBase v.tallyCount (s.claim n).tallyBase (s.claim n).tallyCount m)
    simp only [u]
    split
    · exact disarmWaits_claim o n m
    · rfl
  exact ⟨(hu n).trans (claim_modClaim_same _ _ hn), fun m hm => (hu m).trans (claim_modClaim_ne _ _ (Ne.symm hm))⟩

/-- The claims after a change of shares, where the block's mask asks for one (R75). -/
theorem sharedClaim_spec (s : State) {n : Nat} (hn : n < 8) (asked : Bool) (ps : Vector Word32 8) (a : Nat) :
    let u := if asked then changeShare s n ps a else s
    let c := s.claim n
    (∃ ps' a' e p, u.claim n = { c with profiles := ps', activeProfile := a', effResv := e, resvPending := p } ∧
      (asked = true → ps' = ps ∧ a' = a) ∧ (asked = false → ps' = c.profiles ∧ a' = c.activeProfile ∧ e = c.effResv)) ∧
    ∀ m, m ≠ n → u.claim m = s.claim m := by
  cases asked with
  | true =>
    obtain ⟨e, p, he⟩ := (changeShare_claim s ps a n hn).2
    exact ⟨⟨ps, a, e, p, he, fun _ => ⟨rfl, rfl⟩, nofun⟩, fun m hm => (changeShare_claim s ps a m hn).1 hm⟩
  | false => exact ⟨⟨_, _, _, (s.claim n).resvPending, rfl, nofun, fun _ => ⟨rfl, rfl, rfl⟩⟩, fun _ _ => rfl⟩

theorem modifyClaim_spec {u : State} {blk : List Byte} (hf : claimFault u false blk = none) :
    let n := field blk 0 1
    let v := newVals u false blk
    let c := u.claim n
    (∃ ps a e p, LedgerOnly { c.withVals v with profiles := ps, activeProfile := a, effResv := e, resvPending := p } ((modifyClaim u blk).claim n) ∧
      ((field blk 1 1).testBit 5 = true → ps = profVec v.profiles ∧ a = v.active) ∧
      ((field blk 1 1).testBit 5 = false → ps = c.profiles ∧ a = c.activeProfile ∧ e = c.effResv)) ∧
    ∀ m, m ≠ n → (modifyClaim u blk).claim m = u.claim m := by
  intro n v c
  have hn : n < 8 := (claimFault_valid hf).1
  obtain ⟨hr, hro⟩ := rangedClaim_spec u hn v
  unfold modifyClaim
  dsimp only at hr hro ⊢
  generalize (if (u.claim n).tallyBase ≠ v.tallyBase ∨ (u.claim n).tallyCount ≠ v.tallyCount then disarmWaits _ n else _) = w at hr hro ⊢
  obtain ⟨⟨ps, a, e, p, hs, hyes, hno⟩, hso⟩ := sharedClaim_spec w hn ((field blk 1 1).testBit 5) (profVec v.profiles) v.active
  generalize (if (field blk 1 1).testBit 5 = true then changeShare w n (profVec v.profiles) v.active else w) = x at hs hso ⊢
  have hx : ∀ m, (quotaEvent (relieveT1 (t1Use x n + 1) (updateLedgerFull x n) n) n).claim m = (updateLedgerFull x n).claim m := fun m => by
    rw [quotaEvent, postEvent_claim, relieveT1_claim]
  rw [hr] at hs hno
  refine ⟨⟨ps, a, e, p, ?_, hyes, hno⟩, fun m hm => ?_⟩
  · rw [hx, ← hs]
    exact (updateLedgerFull_claim x n n).1
  · rw [hx, (updateLedgerFull_claim x n m).2 hm, hso m hm, hro m hm]

/-- Settles O30: the block's read, the checks of R67, and what CLAIM_CREATE and CLAIM_MODIFY leave (R66 to R69, R75). -/
theorem claimCommands : Obligations.ClaimCommands := by
  refine fun s seq l create lv b => ⟨fun r h hr => ?_, fun d u => ?_⟩
  · obtain ⟨w, hw, hdl, ho⟩ := claimCmd_unread h.2.1 hr
    have hall : OnlyParts [.dl, .out, .pcie] s (failAt w 8 seq l lv.pc 0x0411) :=
      ho.trans ((failAt_moves w 8 seq l lv.pc 0x0411 0 (Moves.refl 128 w) rfl).only (covers_spec rfl))
    exact ⟨_, (claimInstr_runs create seq l r h.1).trans (congrArg _ hw), fails_of_pass h.2.1 (by rw [hdl]) _ _ _, hall .cl (by decide), hall⟩
  · intro blk h n v i
    have hd : diesUp s = true := h.1.1
    have hn := h.1.2.1
    have hdl : u.dl = (passCmd s 8 seq l b).dl := by rw [h.2.2.2]; rfl
    have ho := blockRead_only h
    have hc : ∀ m, u.claim m = s.claim m := claim_of_cl (ho .cl (by decide))
    have hrun := claimInstr_runs create seq l (.ok d) hd
    refine ⟨fun cause hf => ?_, fun hf hcr => ⟨fun hg => ?_, fun u1 fs hg => ?_⟩, fun hf hcr => ?_⟩
    · have hall : OnlyParts [.dl, .out] s (failAt u 8 seq l lv.pc cause) :=
        ho.trans ((failAt_moves u 8 seq l lv.pc cause 0 (Moves.refl 128 u) rfl).only (covers_spec rfl))
      exact ⟨_, hrun.trans (congrArg _ (claimCmd_refused h hf)), fails_of_pass hn (by rw [hdl]) _ _ _, hall .cl (by decide), hall⟩
    · subst hcr
      refine ⟨_, hrun.trans (congrArg _ (claimCmd_noFrames h hf hg)), fails_of_pass hn ?_ _ _ _, fun m => ?_⟩
      · rw [clearNeeded, postEvent_dl, State.modTiers_dl, hdl]
      · rw [claim_of_cl (failAt_cl ..), clearNeeded_claim, hc]
    · subst hcr
      obtain ⟨t, ht, htd, hcn, hco, htal, hkey, hctr⟩ := createClaim_spec hf hg
      rw [ho .freeCtr (by decide)] at hkey hctr
      refine ⟨_, hrun.trans (congrArg _ (claimCmd_creates h hf ht)), ?_, fun m hm => ?_, htal, hkey, hctr, levelOf_completed hn (htd.trans hdl)⟩
      · rw [← hc n]; exact hcn
      · exact (hco m hm).trans (hc m)
    · subst hcr
      obtain ⟨⟨ps, a, e, p, hl, hyes, hno⟩, hco⟩ := modifyClaim_spec hf
      have hact : (u.claim n).st = .active := (claimFault_valid hf).2.2
      have hmd : (modifyClaim u blk).dl = (passCmd s 8 seq l b).dl :=
        ((modifyClaim_moves u blk (Moves.refl 1864 u) rfl).rest .dl rfl).trans hdl
      have hk {α : Type} (f : Claim → α) := congrArg f hl
      rw [show u.claim (field blk 0 1) = s.claim n from hc n] at hno
      exact ⟨_, hrun.trans (congrArg _ (claimCmd_modifies h hf)), hk (·.vectors), hk (·.ledgerQuota), hk (·.t1Pages), hk (·.t2Pages), hk (·.queuePairs),
        hk (·.tallyBase), hk (·.tallyCount), hk (·.descriptors), (hk (·.st)).trans hact,
        fun h5 => ⟨(hk (·.profiles)).trans (hyes h5).1, (hk (·.activeProfile)).trans (hyes h5).2⟩,
        fun h5 => ⟨(hk (·.profiles)).trans (hno h5).1, (hk (·.activeProfile)).trans (hno h5).2.1, (hk (·.effResv)).trans (hno h5).2.2⟩,
        fun m hm => (hco m hm).trans (hc m), levelOf_completed hn hmd⟩

end Sys2Proof
end

section
/-! SUPPORT. CLAIM_RELEASE and the end of a release (R70). -/

namespace Sys2Proof

open Machine

/-! CLAIM_RELEASE (R70, steps 1 and 2). -/

theorem claimRelease_refused {s : State} {seq l g : Nat} {lv : Level} {b : List Byte} (h : nextCmd s 8 seq l 0x42 = some (lv, g, b))
    (ha : (s.claim (field b 6 1)).st ≠ .active) : claimRelease s seq l = failAt (passCmd s 8 seq l b) 8 seq l g 0x0122 := by
  simp only [claimRelease, h]
  exact if_pos ha

/-- The state in which a claim that is released has its items resolved: it is RELEASING, its report counts what is open, and its debug
grant has ended. -/
def releaseBegun (s : State) (n seq l g : Nat) (b : List Byte) : State :=
  let u := heldCmd s 8 seq l g b .steward
  endGrant (u.modClaim n fun c => { c with st := .releasing, releaseItem := some seq, report := some (resetReport (openItems u n)) }) n

theorem claimRelease_active {s : State} {seq l g : Nat} {lv : Level} {b : List Byte} (h : nextCmd s 8 seq l 0x42 = some (lv, g, b))
    (ha : (s.claim (field b 6 1)).st = .active) :
    claimRelease s seq l = writeOutcomes (resolveShoe (releaseBegun s (field b 6 1) seq l g b) (field b 6 1) 0x0705) (field b 6 1) := by
  simp only [claimRelease, h]
  exact if_neg (by simp [ha])

theorem releaseBegun_claim (s : State) {n : Nat} (hn : n < 8) (seq l g : Nat) (b : List Byte) :
    let u := releaseBegun s n seq l g b
    (u.claim n).st = .releasing ∧ (u.claim n).releaseItem = some seq ∧ ∀ m, m ≠ n → u.claim m = s.claim m := by
  intro u
  have hu : ∀ m, u.claim m = ((heldCmd s 8 seq l g b .steward).modClaim n fun c =>
      { c with st := .releasing, releaseItem := some seq, report := some (resetReport (openItems (heldCmd s 8 seq l g b .steward) n)) }).claim m :=
    endGrant_claim _ n
  have hh : (heldCmd s 8 seq l g b .steward).cl = s.cl := (heldCmd_moves s 8 seq l g b .steward (Moves.refl 128 s) rfl).rest .cl rfl
  rw [hu n, claim_modClaim_same _ _ hn]
  exact ⟨rfl, rfl, fun m hm => by rw [hu m, claim_modClaim_ne _ _ (Ne.symm hm), claim_of_cl hh]⟩

theorem releaseBegun_items (s : State) (n seq l g : Nat) (b : List Byte) :
    (releaseBegun s n seq l g b).dl.items = (heldCmd s 8 seq l g b .steward).dl.items := endGrant_items _ n

/-- Resolving a shoe's items and writing its outcomes leaves of a claim all but its ledger_full flag. -/
theorem resolveOutcomes_claim (s : State) (n cause m : Nat) :
    let t := writeOutcomes (resolveShoe s n cause) n
    LedgerOnly (s.claim m) (t.claim m) ∧ (m ≠ n → t.claim m = s.claim m) := by
  have hr := claim_of_cl (resolveShoe_cl s n cause) m
  exact ⟨hr ▸ writeOutcomes_claim _ n m, fun hm => (writeOutcomes_claim_ne _ hm).trans hr⟩

/-- It leaves the items of the other shoes alone. -/
theorem resolveOutcomes_ne (s : State) {n a : Nat} (cause : Nat) (ha : a ≠ n) (q : Nat) :
    findItem (writeOutcomes (resolveShoe s n cause) n) a q = findItem s a q := by
  rw [(writeOutcomes_left _ n).ne ha, findItem_fixOutcomes, resolveShoe_ne s cause ha]
  cases hi : findItem s a q with
  | none => rfl
  | some i =>
    have hshoe : i.shoe = a := by
      have hp := List.find?_some hi
      simp only [Bool.and_eq_true, beq_iff_eq] at hp
      exact hp.1
    have hstays : settleOne n i = i := if_neg fun h => ha (hshoe.symm.trans h.1)
    exact congrArg some hstays

/-- An item of the shoe that was not resolved, and is still there, has become resolved with the cause (R70). -/
theorem resolveOutcomes_resolved {s : State} {n q cause : Nat} {i j : Item} (hi : findItem s n q = some i) (hst : i.st ≠ .resolved)
    (hj : findItem (writeOutcomes (resolveShoe s n cause) n) n q = some j) : resolvedAs cause i j := by
  obtain ⟨k, hk, -, hres, hkst⟩ := resolveShoe_find cause hi
  have hset : settleOne n k = k := if_neg fun h => absurd (h.2.symm.trans hkst) (by decide)
  rcases writeOutcomes_left (resolveShoe s n cause) n n q with h | h
  · rw [hj, findItem_fixOutcomes, hk, Option.map_some, hset] at h
    cases h
    exact hres hst
  · rw [hj] at h
    exact nomatch h.2

theorem claimRelease_active_spec {s : State} {seq l : Nat} {lv : Level} {b : List Byte} (h : nextCmd s 8 seq l 0x42 = some (lv, lv.pc, b))
    (ha : (s.claim (field b 6 1)).st = .active) :
    let n := field b 6 1
    let t := claimRelease s seq l
    (t.claim n).st = .releasing ∧ (t.claim n).releaseItem = some seq ∧ (∀ m, m ≠ n → t.claim m = s.claim m) ∧
      levelOf t 8 seq l = some (cmdHeld s.now lv b .steward) ∧
      ∀ q i j, findItem s n q = some i → i.st ≠ .resolved → findItem t n q = some j → resolvedAs 0x0705 i j := by
  intro n t
  have hn : n < 8 := active_lt (by rw [ha]; decide)
  have hn8 : n ≠ 8 := Nat.ne_of_lt hn
  obtain ⟨-, -, -, -, -, -, -, -, hl⟩ := nextCmd_some h
  obtain ⟨hst, hitem, hother⟩ := releaseBegun_claim s hn seq l lv.pc b
  have hfind : ∀ a q, findItem (releaseBegun s n seq l lv.pc b) a q = findItem (heldCmd s 8 seq l lv.pc b .steward) a q :=
    findItem_congr (releaseBegun_items s n seq l lv.pc b)
  rw [show t = writeOutcomes (resolveShoe (releaseBegun s n seq l lv.pc b) n 0x0705) n from claimRelease_active h ha]
  clear_value t
  generalize releaseBegun s n seq l lv.pc b = u at *
  have hl' : LedgerOnly _ _ := (resolveOutcomes_claim u n 0x0705 n).1
  refine ⟨(congrArg Claim.st hl').trans hst, (congrArg Claim.releaseItem hl').trans hitem, fun m hm => ?_, ?_, fun q i j hi hne hj => ?_⟩
  · exact ((resolveOutcomes_claim u n 0x0705 m).2 hm).trans (hother m hm)
  · rw [levelOf_of_find ((resolveOutcomes_ne u 0x0705 (Ne.symm hn8) seq).trans (hfind 8 seq))]
    exact levelOf_heldCmd b .steward hl
  · refine resolveOutcomes_resolved ?_ hne hj
    rw [hfind, others_heldCmd s 8 seq l lv.pc b .steward n q (.inl hn8)]
    exact hi

/-! CLAIM_RELEASE_END (R70, steps 3 to 5). -/

/-- What ends with a release before the claim's pages do: its rounds and tallies, its queue pairs and its index bindings. -/
def workEnded (s : State) (n : Nat) : State :=
  (List.range 64).foldl (fun s i => if (s.index i).claim = n ∧ (s.index i).st ≠ .unbound then unbindIndex s i (s.index i).headerVa (s.index i).claim else s)
    ((poisonClaimTallies (failRoundsOf s n 0x0705) n).modNet fun x => { x with qps := x.qps.filter fun q => q.claim != n })

/-- The state after a release but for the steward's item that asked for it. -/
def releaseCleared (s : State) (n : Nat) : State :=
  (clearRegions (clearWindow ((clearBinding (foreignPages (workEnded s n) n) n).modDl fun d =>
    { d with items := d.items.filter fun i => i.shoe != n }) n) n).modClaim n fun c =>
      ({ ({} : Claim) with resetLast := c.resetLast } : Claim).withReport (c.report.getD (none, 0, 0))

/-- The end of a release clears the claim, and then at most completes a command of the steward's. -/
theorem releaseEnd_releasing {s : State} {n : Nat} (h : (s.claim n).st = .releasing) :
    releaseEnd s n = releaseCleared s n ∨
      ∃ seq l g lost, releaseEnd s n = completeCmd ((releaseCleared s n).modItem 8 seq fun i => { i with noteDetail := lost }) 8 seq l g := by
  have hne : ¬ (s.claim n).st ≠ .releasing := by simp [h]
  unfold releaseEnd
  dsimp only
  rw [if_neg hne]
  split
  · exact .inl rfl
  · rename_i seq _
    split
    · rename_i l g _
      exact .inr ⟨seq, l, g, _, rfl⟩
    · exact .inl rfl

theorem workEnded_qps (s : State) (n : Nat) : ∀ q ∈ (workEnded s n).net.qps, q.claim ≠ n := by
  have hnet : (workEnded s n).net = ((poisonClaimTallies (failRoundsOf s n 0x0705) n).modNet fun x =>
      { x with qps := x.qps.filter fun q => q.claim != n }).net := by
    refine ((Moves.refl 2097536 _).foldl fun u i => ?_).rest .net rfl
    split
    · exact unbindIndex_moves u i _ _ (Moves.refl 2097536 u) rfl
    · exact Moves.refl _ _
  rw [hnet]
  intro q hq
  simpa using (List.mem_filter.1 hq).2

theorem clearBinding_unbound (s : State) (n : Nat) {i : Nat} (hi : i < 4) (hv : (tget (clearBinding s n).cl.rtInForce i).valid = true) :
    (tget (clearBinding s n).cl.rtInForce i).claim ≠ n := by
  have hmap : tget (clearBinding s n).cl.rtInForce i =
      if (tget s.cl.rtInForce i).valid ∧ (tget s.cl.rtInForce i).claim = n then {} else tget s.cl.rtInForce i := tget_map _ _ hi
  rw [hmap] at hv ⊢
  split
  · rename_i hc
    rw [if_pos hc] at hv
    exact nomatch hv
  · rename_i hc
    rw [if_neg hc] at hv
    exact fun he => hc ⟨hv, he⟩

/-- What the end of a release leaves of a claim (R70). -/
def claimGone (t : State) (n : Nat) : Prop :=
  claimFree (t.claim n) ∧ windowClear t n ∧ itemsOf t n = [] ∧ (∀ q ∈ t.net.qps, q.claim ≠ n) ∧ tget t.tiers.keys n = none ∧
    ∀ i < 4, (tget t.cl.rtInForce i).valid = true → (tget t.cl.rtInForce i).claim ≠ n

theorem releaseCleared_gone (s : State) {n : Nat} (hn : n < 8) : claimGone (releaseCleared s n) n := by
  have hq := workEnded_qps s n
  unfold releaseCleared
  generalize workEnded s n = w at hq ⊢
  have hfn : (foreignPages w n).net = w.net := (foreignPages_moves w n (Moves.refl 1352 w) rfl).rest .net rfl
  have hfk := foreignPages_keys w hn
  generalize foreignPages w n = f at hfn hfk ⊢
  have hct : (clearBinding f n).tiers = f.tiers := rfl
  have hcn : (clearBinding f n).net = f.net := rfl
  have hcr := fun i hi => clearBinding_unbound f n (i := i) hi
  generalize clearBinding f n = c at hct hcn hcr ⊢
  have hdi := items_drop c n
  have hdt : (c.modDl fun d => { d with items := d.items.filter fun i => i.shoe != n }).tiers = c.tiers := rfl
  have hdn : (c.modDl fun d => { d with items := d.items.filter fun i => i.shoe != n }).net = c.net := rfl
  have hdc : (c.modDl fun d => { d with items := d.items.filter fun i => i.shoe != n }).cl = c.cl := rfl
  generalize (c.modDl fun d => { d with items := d.items.filter fun i => i.shoe != n }) = d at hdi hdt hdn hdc ⊢
  have hw := clearWindow_clear d hn
  have hwi : itemsOf (clearWindow d n) n = itemsOf d n := rfl
  have hwt : (clearWindow d n).tiers = d.tiers := rfl
  have hwn : (clearWindow d n).net = d.net := rfl
  have hwr : (clearWindow d n).cl.rtInForce = d.cl.rtInForce := rfl
  generalize clearWindow d n = x at hw hwi hwt hwn hwr ⊢
  refine ⟨?_, hw.of rfl rfl rfl rfl, hwi.trans hdi, fun q h => hq q ?_, ?_, fun i hi => ?_⟩
  · rw [claim_modClaim_same _ _ hn]
    rfl
  · rw [← hfn, ← hcn, ← hdn, ← hwn]
    exact h
  · rw [State.modClaim_tiers, show (clearRegions x n).tiers = x.tiers from rfl, hwt, hdt, hct]
    exact hfk
  · rw [show ((clearRegions x n).modClaim n _).cl.rtInForce = x.cl.rtInForce from rfl, hwr, hdc]
    exact hcr i hi

theorem itemsOf_modItem_ne (s : State) {a n : Nat} (ha : n ≠ a) (q : Nat) {f : Item → Item} (hk : ∀ i, (f i).shoe = i.shoe) :
    itemsOf (s.modItem a q f) n = itemsOf s n := by
  show List.filter _ (List.map _ s.dl.items) = List.filter _ s.dl.items
  generalize s.dl.items = l
  induction l with
  | nil => rfl
  | cons i l ih =>
    rw [List.map_cons, List.filter_cons, List.filter_cons, ih]
    by_cases h : (i.shoe == a && i.seq == q) = true
    · have hia : i.shoe = a := by simp only [Bool.and_eq_true, beq_iff_eq] at h; exact h.1
      rw [if_pos h]
      simp [hk, hia, Ne.symm ha]
    · simp [h]

/-- A change of an item of another shoe's leaves a claim gone. -/
theorem claimGone.modItem {s : State} {a n : Nat} (h : claimGone s n) (ha : n ≠ a) (q : Nat) {f : Item → Item} (hk : ∀ i, (f i).shoe = i.shoe) :
    claimGone (s.modItem a q f) n := by
  obtain ⟨hc, hw, hi, hq, ht, hr⟩ := h
  exact ⟨hc, hw.of rfl rfl rfl rfl, (itemsOf_modItem_ne s ha q hk).trans hi, hq, ht, hr⟩

theorem claimGone.completeCmd {s : State} {a n : Nat} (h : claimGone s n) (ha : n ≠ a) (q l g : Nat) : claimGone (Machine.completeCmd s a q l g) n :=
  h.modItem ha q (f := fun i => i.modLevel l fun lv => { lv with active := lv.active.filter (·.granule != g), events := signalled lv g })
    fun _ => rfl

theorem releaseEnd_gone {s : State} {n : Nat} (h : (s.claim n).st = .releasing) : claimGone (releaseEnd s n) n := by
  have hn : n < 8 := active_lt (by rw [h]; decide)
  have hw := releaseCleared_gone s hn
  rcases releaseEnd_releasing h with e | ⟨seq, l, g, lost, e⟩ <;> rw [e]
  · exact hw
  · exact (hw.modItem (Nat.ne_of_lt hn) seq (f := fun i => { i with noteDetail := lost }) fun _ => rfl).completeCmd (Nat.ne_of_lt hn) seq l g

/-- Settles O31: what CLAIM_RELEASE begins, and what the end of a release leaves (R70). -/
theorem claimReleases : Obligations.ClaimReleases := by
  refine fun s => ⟨fun seq l lv b h => ⟨fun ha => ?_, fun ha => ?_⟩, fun n hd => ⟨fun h => ?_, fun h => ?_⟩⟩
  · exact ⟨_, (claimRelease_runs seq l s h.1).trans (congrArg _ (claimRelease_refused h.2.1 ha)), fails_of_pass h.2.1 rfl _ _ _,
      (passCmd_parts s 8 seq l b).trans ((failAt_moves _ 8 seq l lv.pc 0x0122 0 (Moves.refl 128 _) rfl).only (covers_spec rfl))⟩
  · exact ⟨_, claimRelease_runs seq l s h.1, claimRelease_active_spec h.2.1 ha⟩
  · exact ⟨_, claimReleaseEnd_runs n s hd, releaseEnd_gone h⟩
  · exact (claimReleaseEnd_runs n s hd).trans (congrArg _ (if_pos h))

end Sys2Proof
end

section
/-! SUPPORT. What a held or completed command leaves, for the stores of the steward's and HOST_COPY. -/

namespace Sys2Proof

open Machine

/-- Holding a command changes the Dealer's part only. -/
theorem heldCmd_eq (s : State) (shoe seq l g : Nat) (b : List Byte) (st : CmdState) :
    ∃ d, heldCmd s shoe seq l g b st = { s with dl := d } := by
  unfold heldCmd passCmd served
  split_ifs <;> exact ⟨_, rfl⟩

theorem heldCmd_only (s : State) (shoe seq l g : Nat) (b : List Byte) (st : CmdState) : OnlyParts [.dl] s (heldCmd s shoe seq l g b st) :=
  (heldCmd_moves s shoe seq l g b st (Moves.refl 128 s) rfl).only (covers_spec rfl)

theorem completeCmd_only (s : State) (shoe seq l g : Nat) : OnlyParts [.dl] s (completeCmd s shoe seq l g) :=
  (completeCmd_moves s shoe seq l g (Moves.refl 128 s) rfl).only (covers_spec rfl)

theorem setActive_only (s : State) (shoe seq l g : Nat) (st : CmdState) : OnlyParts [.dl] s (setActive s shoe seq l g st) :=
  (setActive_moves s shoe seq l g st (Moves.refl 128 s) rfl).only (covers_spec rfl)

theorem doneCmd_only (s : State) (shoe seq l g : Nat) (b : List Byte) : OnlyParts [.dl] s (doneCmd s shoe seq l g b) :=
  (passCmd_parts s shoe seq l b).trans (completeCmd_only _ _ _ _ _)

theorem failAt_only (s : State) (shoe seq l g cause d : Nat) : OnlyParts [.dl] s (failAt s shoe seq l g cause d) :=
  (failAt_moves s shoe seq l g cause d (Moves.refl 128 s) rfl).only (covers_spec rfl)

/-- A change of an item that leaves its levels alone. -/
theorem levelOf_modItem {s : State} {shoe seq : Nat} {f : Item → Item} (hk : ∀ i, (f i).shoe = i.shoe ∧ (f i).seq = i.seq)
    (hl : ∀ i, (f i).levels = i.levels) (l : Nat) : levelOf (s.modItem shoe seq f) shoe seq l = levelOf s shoe seq l := by
  rw [levelOf, levelOf, modItem_self hk]
  cases findItem s shoe seq with
  | none => rfl
  | some i => exact congrArg (fun v : List Level => v.find? (·.id == l)) (hl i)

section Starts

variable {s u : State} {shoe seq l op : Nat} {lv : Level} {b : List Byte} {st : CmdState}

/-- A held command that has gone on to another state is still active, and the rest of the ledger is as it was. -/
theorem held_goesOn (h : cmdStarts s shoe seq l op lv b) (hu : u.dl.items = (heldCmd s shoe seq l lv.pc b st).dl.items) (st' : CmdState) :
    othersStay s (setActive u shoe seq l lv.pc st') shoe seq ∧
      ∃ lv', levelOf (setActive u shoe seq l lv.pc st') shoe seq l = some lv' ∧ activeAt lv' lv.pc st' := by
  obtain ⟨hl, ha⟩ := held_active h st
  obtain ⟨lv', h1, -, -, h2⟩ := levelOf_set st' hu hl ha
  exact ⟨(others_heldCmd _ _ _ _ _ _ _).trans ((othersStay.of_items hu).trans (others_setActive _ _ _ _ _ _)), lv', h1, h2⟩

/-- A held command that ends is done. -/
theorem held_ends (h : cmdStarts s shoe seq l op lv b) (hu : u.dl.items = (heldCmd s shoe seq l lv.pc b st).dl.items) :
    othersStay s (completeCmd u shoe seq l lv.pc) shoe seq ∧ levelOf (completeCmd u shoe seq l lv.pc) shoe seq l = some (cmdDone lv b) := by
  refine ⟨(others_heldCmd _ _ _ _ _ _ _).trans ((othersStay.of_items hu).trans (others_completeCmd _ _ _ _ _)), ?_⟩
  rw [levelOf_completeCmd, levelOf_congr hu, (held_active h st).1]
  exact congrArg some (ended_held _ _ _ _)

/-- A held command that fails its item. -/
theorem held_fails (h : cmdStarts s shoe seq l op lv b) (hu : u.dl.items = (heldCmd s shoe seq l lv.pc b st).dl.items) (cause d : Nat) :
    othersStay s (failAt u shoe seq l lv.pc cause d) shoe seq ∧ itemFails (failAt u shoe seq l lv.pc cause d) shoe seq cause :=
  ⟨(others_heldCmd _ _ _ _ _ _ _).trans ((othersStay.of_items hu).trans (others_failAt _ _ _ _ _ _ _)), fails_of_held h.2.1 hu _ _ _⟩

end Starts

/-- What a held command does next stands in its level in place of what it did, where no other active command is at its granule. -/
theorem setActive_held {now : Nat} {lv : Level} {b : List Byte} (st st' : CmdState) (h : ∀ a ∈ lv.active, a.granule ≠ lv.pc) :
    { cmdHeld now lv b st with active := (cmdHeld now lv b st).active.map fun a => if a.granule == lv.pc then { a with st := st' } else a } =
      cmdHeld now lv b st' := by
  have hm : (lv.active.map fun a => if a.granule == lv.pc then { a with st := st' } else a) = lv.active :=
    (List.map_congr_left fun a ha => if_neg (by simpa using h a ha)).trans (List.map_id _)
  simp only [cmdHeld, List.map_append, hm]
  simp

end Sys2Proof
end

section
/-! SUPPORT. CLEAR (R207). -/

namespace Sys2Proof

open Machine

theorem clearStart_starts {s : State} {seq l : Nat} {lv : Level} {b : List Byte} (h : cmdStarts s 8 seq l 0x43 lv b) (units : Nat) :
    let left := field b 8 4
    let all := field b 8 4 == 0
    let r := clearUnitsEcc (field b 6 1 == 2) (if all then units else min units left) (heldCmd s 8 seq l lv.pc b (.clear left all 0)) 0
    clearStart s seq l units = setActive r.1 8 seq l lv.pc (.clear (left - r.2) all (0 + r.2)) := by
  simp only [clearStart, h.2.1]

theorem nextForeign_heldCmd (s : State) (t2 : Bool) (shoe seq l g : Nat) (b : List Byte) (st : CmdState) :
    nextForeign (heldCmd s shoe seq l g b st) t2 = nextForeign s t2 := by
  obtain ⟨d, hd⟩ := heldCmd_eq s shoe seq l g b st
  rw [hd]; rfl

/-- With nothing FOREIGN, CLEAR only waits. -/
theorem clearStart_none {s : State} {seq l : Nat} {lv : Level} {b : List Byte} (h : cmdStarts s 8 seq l 0x43 lv b)
    (hf : nextForeign s (field b 6 1 == 2) = none) (units : Nat) :
    let t := clearStart s seq l units
    t.tiers = s.tiers ∧ othersStay s t 8 seq ∧
      ∃ lv', levelOf t 8 seq l = some lv' ∧ activeAt lv' lv.pc (.clear (field b 8 4) (field b 8 4 == 0) 0) := by
  rw [clearStart_starts h, clearUnits_none ((nextForeign_heldCmd s _ 8 seq l lv.pc b (.clear (field b 8 4) (field b 8 4 == 0) 0)).trans hf)]
  exact ⟨heldCmd_only s 8 seq l lv.pc b (.clear (field b 8 4) (field b 8 4 == 0) 0) .tiers (by decide), held_goesOn h rfl _⟩

/-- One unit of CLEAR frees the lowest FOREIGN frame or handle. -/
theorem clearStart_unit {s : State} {seq l f : Nat} {lv : Level} {b : List Byte} (h : cmdStarts s 8 seq l 0x43 lv b)
    (hf : nextForeign s (field b 6 1 == 2) = some f) (hn : 1 ≤ field b 8 4) :
    let t := clearStart s seq l 1
    unitCleared t (field b 6 1 == 2) f ∧ othersStay s t 8 seq ∧
      ∃ lv', levelOf t 8 seq l = some lv' ∧ activeAt lv' lv.pc (.clear (field b 8 4 - 1) false 1) := by
  have hall : (field b 8 4 == 0) = false := by simp only [beq_eq_false_iff_ne]; omega
  have hunit : (clearUnitsEcc (field b 6 1 == 2) 1 (heldCmd s 8 seq l lv.pc b (.clear (field b 8 4) false 0)) 0) =
      (clearOne (clearFrameMarks (heldCmd s 8 seq l lv.pc b (.clear (field b 8 4) false 0)) (field b 6 1 == 2) f) (field b 6 1 == 2) f, 1) := by
    simp only [clearUnitsEcc, nextForeign_heldCmd, hf]
  have hdl := clearUnits_dl (field b 6 1 == 2) 1 (heldCmd s 8 seq l lv.pc b (.clear (field b 8 4) false 0)) 0
  rw [clearStart_starts h]
  simp only [hall, Bool.false_eq_true, if_false, Nat.min_eq_left hn]
  rw [hunit] at hdl ⊢
  exact ⟨clearOne_cleared _ _ _, held_goesOn h (congrArg Dealer.items hdl) _⟩

theorem clearEnd_active {s : State} {seq l left freed : Nat} {all : Bool} {lv : Level} {a : Active} {b : List Byte}
    (h : activeCmd s 8 seq l 0 = some (lv, a, b)) (ha : a.st = .clear left all freed) (hr : s.redealing = false) :
    let r := clearUnitsEcc (field b 6 1 == 2) (if all then 65536 else min left 65536) s 0
    clearEnd s seq l = completeCmd (r.1.modItem 8 seq fun i => { i with noteDetail := freed + r.2 }) 8 seq l 0 := by
  simp [clearEnd, h, ha, hr]

/-- CLEAR's completion reports what it freed. -/
theorem clearEnd_spec {s : State} {seq l left freed : Nat} {all : Bool} {lv : Level} {a : Active} {b : List Byte}
    (h : activeCmd s 8 seq l 0 = some (lv, a, b)) (ha : a.st = .clear left all freed) (hr : s.redealing = false) :
    let t := clearEnd s seq l
    othersStay s t 8 seq ∧ levelOf t 8 seq l = some (cmdEnded lv 0) ∧
      ∃ k i, findItem t 8 seq = some i ∧ i.noteDetail = freed + k ∧ k ≤ (if all then 65536 else left) ∧
        (nextForeign s (field b 6 1 == 2) = none → k = 0 ∧ t.tiers = s.tiers) := by
  obtain ⟨i, hi, -, -, -, -, -, hl⟩ := activeCmd_some h
  rw [clearEnd_active h ha hr]
  have hdl := clearUnits_dl (field b 6 1 == 2) (if all then 65536 else min left 65536) s 0
  have hcount := (clearUnits_count (field b 6 1 == 2) (if all then 65536 else min left 65536) s 0).2
  have hnone := fun hf => clearUnits_none (s := s) (tier2 := field b 6 1 == 2) hf (if all then 65536 else min left 65536) 0
  generalize clearUnitsEcc (field b 6 1 == 2) (if all then 65536 else min left 65536) s 0 = r at *
  have hkey : ∀ j : Item, ({ j with noteDetail := freed + r.2 } : Item).shoe = j.shoe ∧ ({ j with noteDetail := freed + r.2 } : Item).seq = j.seq :=
    fun _ => ⟨rfl, rfl⟩
  have hitems : r.1.dl.items = s.dl.items := congrArg Dealer.items hdl
  refine ⟨(othersStay.of_items hitems).trans ((othersStay.modItem _ hkey).trans (others_completeCmd _ _ _ _ _)), ?_, r.2, ?_⟩
  · rw [levelOf_completeCmd, levelOf_modItem hkey fun _ => rfl, levelOf_congr hitems, hl]
    rfl
  · refine ⟨({ i with noteDetail := freed + r.2 } : Item).modLevel l fun lv => cmdEnded lv 0, ?_, rfl, ?_, fun hf => ?_⟩
    · rw [findItem_completeCmd, modItem_self hkey, findItem_congr hitems, hi]
      rfl
    · cases all with
      | true => simpa using hcount
      | false => simp only [Bool.false_eq_true, if_false] at hcount ⊢; omega
    · have he := hnone hf
      subst he
      exact ⟨rfl, rfl⟩

end Sys2Proof
end

section
/-! SUPPORT. COMMON_LOAD and its removal (R206, R211). -/

namespace Sys2Proof

open Machine

section Load

variable {s : State} {seq l : Nat} {lv : Level} {b : List Byte}

theorem commonLoad_mapped (h : cmdStarts s 8 seq l 0x44 lv b) (ha : field b 8 8 ≠ 0) (hm : ∃ p ∈ commonSpan b, (pteOf s 8 p).isSome = true)
    (r : HostResp) : commonLoad s seq l r = failAt s 8 seq l lv.pc 0x0406 := by
  simp only [commonLoad, h.2.1]
  rw [if_neg ha, if_pos (List.any_eq_true.2 hm)]

/-- No page of a list is mapped. -/
theorem unmapped_any {ps : List Nat} (hm : ∀ p ∈ ps, pteOf s 8 p = none) : ps.any (fun p => (pteOf s 8 p).isSome) = false := by
  rw [List.any_eq_false]
  intro p hp
  simp [hm p hp]

theorem commonLoad_unread (h : cmdStarts s 8 seq l 0x44 lv b) (ha : field b 8 8 ≠ 0) (hm : ∀ p ∈ commonSpan b, pteOf s 8 p = none) {r : HostResp}
    (hr : hostOk s 0 (field b 8 8) (field b 0x18 4) = false ∨ r = .err) :
    ∃ u, commonLoad s seq l r = failAt u 8 seq l lv.pc 0x0411 ∧ u.dl = s.dl ∧ u.tiers = s.tiers := by
  simp only [commonLoad, h.2.1, if_neg ha, unmapped_any hm, Bool.false_eq_true, if_false]
  by_cases hok : hostOk s 0 (field b 8 8) (field b 0x18 4) = true
  · obtain rfl : r = .err := hr.resolve_left (by simp [hok])
    refine ⟨aerLog (s.emit (.hostRead 0 (field b 8 8) (field b 0x18 4))), ?_, rfl, rfl⟩
    rw [hok]; rfl
  · exact ⟨s, by simp [hok], rfl, rfl⟩

/-- The pages of a COMMON_LOAD are created after its read. -/
def commonLoaded (s : State) (b d : List Byte) : Run Unit :=
  loadCommons (commonSpan b) (bytesAt d 0 (field b 0x18 4)) (s.emit (.hostRead 0 (field b 8 8) (field b 0x18 4)))

theorem commonLoad_error (h : cmdStarts s 8 seq l 0x44 lv b) (ha : field b 8 8 ≠ 0) (hm : ∀ p ∈ commonSpan b, pteOf s 8 p = none)
    (hok : hostOk s 0 (field b 8 8) (field b 0x18 4) = true) {d : List Byte} {e : Nat × Nat} (he : (commonLoaded s b d).2 = .error e) :
    commonLoad s seq l (.ok d) = failAt ((commonSpan b).foldl (fun s p => unmapOne s 8 p) (commonLoaded s b d).1) 8 seq l lv.pc e.1 := by
  have hp : commonLoaded s b d = ((commonLoaded s b d).1, .error e) := Prod.ext rfl he
  rw [commonLoaded] at hp
  simp only [commonLoad, h.2.1, if_neg ha, unmapped_any hm, hok, Bool.false_eq_true, if_false, Bool.not_true, readHost, readBack, HostResp.bytes]
  rw [hp]
  rfl

theorem commonLoad_ok (h : cmdStarts s 8 seq l 0x44 lv b) (ha : field b 8 8 ≠ 0) (hm : ∀ p ∈ commonSpan b, pteOf s 8 p = none)
    (hok : hostOk s 0 (field b 8 8) (field b 0x18 4) = true) {d : List Byte} (he : (commonLoaded s b d).2 = .ok ()) :
    commonLoad s seq l (.ok d) = doneCmd (commonLoaded s b d).1 8 seq l lv.pc b := by
  have hp : commonLoaded s b d = ((commonLoaded s b d).1, .ok ()) := Prod.ext rfl he
  rw [commonLoaded] at hp
  simp only [commonLoad, h.2.1, if_neg ha, unmapped_any hm, hok, Bool.false_eq_true, if_false, Bool.not_true, readHost, readBack, HostResp.bytes]
  rw [hp]
  rfl

theorem commonLoaded_dl (s : State) (b d : List Byte) : (commonLoaded s b d).1.dl = s.dl := loadCommons_dl _ _ _

/-- A failed COMMON_LOAD leaves none of its pages. -/
theorem commonLoad_error_spec (h : cmdStarts s 8 seq l 0x44 lv b) (ha : field b 8 8 ≠ 0) (hm : ∀ p ∈ commonSpan b, pteOf s 8 p = none)
    (hok : hostOk s 0 (field b 8 8) (field b 0x18 4) = true) {d : List Byte} {e : Nat × Nat} (he : (commonLoaded s b d).2 = .error e) :
    let t := commonLoad s seq l (.ok d)
    othersStay s t 8 seq ∧ itemFails t 8 seq e.1 ∧ ∀ p ∈ commonSpan b, pteOf t 8 p = none := by
  rw [commonLoad_error h ha hm hok he]
  have hi := congrArg Dealer.items ((unmapAll_dl 8 (commonSpan b) (commonLoaded s b d).1).trans (commonLoaded_dl s b d))
  have hp := (unmap_pages (t := 8) (by decide) (commonSpan b) (commonLoaded s b d).1).1
  refine ⟨(othersStay.of_items hi).trans (others_failAt _ _ _ _ _ _ _), fails_of_next h.2.1 hi _ _ _, fun p hin => ?_⟩
  refine Eq.trans (pteOf_tables ?_ p) (hp p hin)
  rw [State.ptab, failAt_tiers]; rfl

theorem commonLoad_ok_spec (h : cmdStarts s 8 seq l 0x44 lv b) (ha : field b 8 8 ≠ 0) (hm : ∀ p ∈ commonSpan b, pteOf s 8 p = none)
    (hok : hostOk s 0 (field b 8 8) (field b 0x18 4) = true) {d : List Byte} (he : (commonLoaded s b d).2 = .ok ()) :
    let t := commonLoad s seq l (.ok d)
    othersStay s t 8 seq ∧ t.tiers = (commonLoaded s b d).1.tiers ∧ levelOf t 8 seq l = some (cmdDone lv b) := by
  rw [commonLoad_ok h ha hm hok he]
  obtain ⟨-, -, -, -, -, -, -, -, hl⟩ := nextCmd_some h.2.1
  have hi := congrArg Dealer.items (commonLoaded_dl s b d)
  exact ⟨(othersStay.of_items hi).trans (others_doneCmd _ _ _ _ _ _), doneCmd_only _ _ _ _ _ _ .tiers (by decide),
    levelOf_doneCmd b ((levelOf_congr hi _ _ _).trans hl)⟩

/-- COMMON_LOAD by what it meets: a page that exists, a failed read, a page that cannot be created, or nothing. -/
theorem commonLoad_spec (h : cmdStarts s 8 seq l 0x44 lv b) (ha : field b 8 8 ≠ 0) (r : HostResp) :
    let t := commonLoad s seq l r
    othersStay s t 8 seq ∧
      ((∃ p ∈ commonSpan b, (pteOf s 8 p).isSome = true) → itemFails t 8 seq 0x0406 ∧ OnlyParts [.dl] s t) ∧
      ((∀ p ∈ commonSpan b, pteOf s 8 p = none) →
        (hostOk s 0 (field b 8 8) (field b 0x18 4) = false ∨ r = .err → itemFails t 8 seq 0x0411 ∧ t.tiers = s.tiers) ∧
        ∀ d, hostOk s 0 (field b 8 8) (field b 0x18 4) = true → r = .ok d →
          (∀ e, (commonLoaded s b d).2 = .error e → itemFails t 8 seq e.1 ∧ ∀ p ∈ commonSpan b, pteOf t 8 p = none) ∧
          ((commonLoaded s b d).2 = .ok () → t.tiers = (commonLoaded s b d).1.tiers ∧ levelOf t 8 seq l = some (cmdDone lv b))) := by
  intro t
  by_cases hm : ∃ p ∈ commonSpan b, (pteOf s 8 p).isSome = true
  · have ht : t = failAt s 8 seq l lv.pc 0x0406 := commonLoad_mapped h ha hm r
    refine ⟨ht ▸ others_failAt _ _ _ _ _ _ _, fun _ => ⟨ht ▸ fails_of_next h.2.1 rfl _ _ _, ht ▸ failAt_only _ _ _ _ _ _ _⟩, fun hn => ?_⟩
    obtain ⟨p, hp, hs⟩ := hm
    rw [hn p hp] at hs
    exact nomatch hs
  · have hn : ∀ p ∈ commonSpan b, pteOf s 8 p = none := fun p hp => Option.not_isSome_iff_eq_none.1 fun hs => hm ⟨p, hp, hs⟩
    have hread : hostOk s 0 (field b 8 8) (field b 0x18 4) = false ∨ r = .err →
        othersStay s t 8 seq ∧ itemFails t 8 seq 0x0411 ∧ t.tiers = s.tiers := fun hr => by
      obtain ⟨u, hu, hdl, htr⟩ := commonLoad_unread h ha hn hr
      rw [show t = failAt u 8 seq l lv.pc 0x0411 from hu]
      have hi := congrArg Dealer.items hdl
      exact ⟨(othersStay.of_items hi).trans (others_failAt _ _ _ _ _ _ _), fails_of_next h.2.1 hi _ _ _, by rw [failAt_tiers, htr]⟩
    refine ⟨?_, fun hs => absurd hs hm, fun _ => ⟨fun hr => (hread hr).2, fun d hok hr => ?_⟩⟩
    · by_cases hok : hostOk s 0 (field b 8 8) (field b 0x18 4) = true
      · cases r with
        | err => exact (hread (.inr rfl)).1
        | ok d =>
          cases he : (commonLoaded s b d).2 with
          | error e => exact (commonLoad_error_spec h ha hn hok he).1
          | ok => exact (commonLoad_ok_spec h ha hn hok he).1
      · exact (hread (.inl (Bool.eq_false_iff.2 hok))).1
    · subst hr
      exact ⟨fun e he => (commonLoad_error_spec h ha hn hok he).2, fun he => (commonLoad_ok_spec h ha hn hok he).2⟩

theorem commonRemove_missing (h : cmdStarts s 8 seq l 0x44 lv b) (ha : field b 8 8 = 0) (hm : ∃ p ∈ commonSpan b, pteOf s 8 p = none) :
    commonRemove s seq l = failAt s 8 seq l lv.pc 0x0406 := by
  obtain ⟨p, hp, hn⟩ := hm
  have hall : (commonSpan b).all (fun p => (pteOf s 8 p).isSome) = false := List.all_eq_false.2 ⟨p, hp, by simp [hn]⟩
  simp [commonRemove, h.2.1, ha, hall]

theorem commonRemove_mapped (h : cmdStarts s 8 seq l 0x44 lv b) (ha : field b 8 8 = 0) (hm : ∀ p ∈ commonSpan b, (pteOf s 8 p).isSome = true) :
    commonRemove s seq l = settleCommon (heldCmd s 8 seq l lv.pc b (.pages 0 0)) seq l lv.pc b := by
  have hall : (commonSpan b).all (fun p => (pteOf s 8 p).isSome) = true := List.all_eq_true.2 hm
  simp only [commonRemove, h.2.1, ha, hall]
  rfl

theorem commonRemove_moving (h : cmdStarts s 8 seq l 0x44 lv b) (ha : field b 8 8 = 0) (hm : ∀ p ∈ commonSpan b, (pteOf s 8 p).isSome = true)
    (hv : anyMoving s 8 (commonSpan b) = true) : commonRemove s seq l = heldCmd s 8 seq l lv.pc b (.pages 0 0) := by
  rw [commonRemove_mapped h ha hm, settleCommon, anyMoving_congr (heldCmd_only _ _ _ _ _ _ _ .tiers (by decide)), if_pos hv]

theorem commonRemove_settled (h : cmdStarts s 8 seq l 0x44 lv b) (ha : field b 8 8 = 0) (hm : ∀ p ∈ commonSpan b, (pteOf s 8 p).isSome = true)
    (hv : anyMoving s 8 (commonSpan b) = false) :
    commonRemove s seq l = completeCmd ((commonSpan b).foldl (fun s p => unmapOne s 8 p) (heldCmd s 8 seq l lv.pc b (.pages 0 0))) 8 seq l lv.pc := by
  rw [commonRemove_mapped h ha hm, settleCommon, anyMoving_congr (heldCmd_only _ _ _ _ _ _ _ .tiers (by decide)), if_neg (by simp [hv])]

theorem commonRemove_settled_spec (h : cmdStarts s 8 seq l 0x44 lv b) (ha : field b 8 8 = 0) (hm : ∀ p ∈ commonSpan b, (pteOf s 8 p).isSome = true)
    (hv : anyMoving s 8 (commonSpan b) = false) :
    let t := commonRemove s seq l
    othersStay s t 8 seq ∧ levelOf t 8 seq l = some (cmdDone lv b) ∧ (∀ p ∈ commonSpan b, pteOf t 8 p = none) ∧
      ∀ p, p ∉ commonSpan b → pteOf t 8 p = pteOf s 8 p := by
  rw [commonRemove_settled h ha hm hv]
  have hs : ∀ p, pteOf (heldCmd s 8 seq l lv.pc b (.pages 0 0)) 8 p = pteOf s 8 p := fun p =>
    pteOf_tables (by rw [State.ptab, heldCmd_only s 8 seq l lv.pc b (.pages 0 0) .tiers (by decide)]; rfl) p
  obtain ⟨hin, hout⟩ := unmap_pages (t := 8) (by decide) (commonSpan b) (heldCmd s 8 seq l lv.pc b (.pages 0 0))
  obtain ⟨ho, hl⟩ := held_ends h (congrArg Dealer.items (unmapAll_dl 8 (commonSpan b) (heldCmd s 8 seq l lv.pc b (.pages 0 0))))
  exact ⟨ho, hl, hin, fun p hp => (hout p hp).trans (hs p)⟩

theorem commonRemove_spec (h : cmdStarts s 8 seq l 0x44 lv b) (ha : field b 8 8 = 0) :
    let t := commonRemove s seq l
    othersStay s t 8 seq ∧ ((∃ p ∈ commonSpan b, pteOf s 8 p = none) → itemFails t 8 seq 0x0406 ∧ OnlyParts [.dl] s t) ∧
      ((∀ p ∈ commonSpan b, (pteOf s 8 p).isSome = true) →
        (anyMoving s 8 (commonSpan b) = true → levelOf t 8 seq l = some (cmdHeld s.now lv b (.pages 0 0)) ∧ OnlyParts [.dl] s t) ∧
        (anyMoving s 8 (commonSpan b) = false → levelOf t 8 seq l = some (cmdDone lv b) ∧ (∀ p ∈ commonSpan b, pteOf t 8 p = none) ∧
          ∀ p, p ∉ commonSpan b → pteOf t 8 p = pteOf s 8 p)) := by
  intro t
  by_cases hm : ∃ p ∈ commonSpan b, pteOf s 8 p = none
  · have ht : t = failAt s 8 seq l lv.pc 0x0406 := commonRemove_missing h ha hm
    refine ⟨ht ▸ others_failAt _ _ _ _ _ _ _, fun _ => ⟨ht ▸ fails_of_next h.2.1 rfl _ _ _, ht ▸ failAt_only _ _ _ _ _ _ _⟩, fun hall => ?_⟩
    obtain ⟨p, hp, hn⟩ := hm
    have hs := hall p hp
    rw [hn] at hs
    exact nomatch hs
  · have hall : ∀ p ∈ commonSpan b, (pteOf s 8 p).isSome = true := fun p hp => Option.isSome_iff_ne_none.2 fun hn => hm ⟨p, hp, hn⟩
    by_cases hv : anyMoving s 8 (commonSpan b) = true
    · have ht : t = heldCmd s 8 seq l lv.pc b (.pages 0 0) := commonRemove_moving h ha hall hv
      exact ⟨ht ▸ others_heldCmd _ _ _ _ _ _ _, fun hn => absurd hn hm,
        fun _ => ⟨fun _ => ⟨ht ▸ (held_active h _).1, ht ▸ heldCmd_only _ _ _ _ _ _ _⟩, fun hf => nomatch hv.symm.trans hf⟩⟩
    · obtain ⟨ho, hrest⟩ := commonRemove_settled_spec h ha hall (Bool.eq_false_iff.2 hv)
      exact ⟨ho, fun hn => absurd hn hm, fun _ => ⟨fun hf => absurd hf hv, fun _ => hrest⟩⟩

end Load

end Sys2Proof
end

section
/-! SUPPORT. TABLE_LOAD, its commit (R170, R171), and SEAL (R379). -/

namespace Sys2Proof

open Machine

section Load

variable {s : State} {seq l : Nat} {lv : Level} {b : List Byte}

theorem tableLoad_unread (h : cmdStarts s 8 seq l 0x45 lv b) {r : HostResp}
    (hr : hostOk s 0 (field b 8 8) (field b 0x10 4) = false ∨ r = .err) :
    ∃ u, tableLoad s seq l r = failAt u 8 seq l lv.pc 0x0411 ∧ u.dl = s.dl := by
  simp only [tableLoad, h.2.1]
  by_cases hok : hostOk s 0 (field b 8 8) (field b 0x10 4) = true
  · obtain rfl : r = .err := hr.resolve_left (by simp [hok])
    refine ⟨aerLog (s.emit (.hostRead 0 (field b 8 8) (field b 0x10 4))), ?_, rfl⟩
    rw [hok]; rfl
  · exact ⟨s, by simp [hok], rfl⟩

theorem tableLoad_invalid (h : cmdStarts s 8 seq l 0x45 lv b) (hok : hostOk s 0 (field b 8 8) (field b 0x10 4) = true) {d : List Byte}
    (hv : tableValid (bytesAt d 0 (field b 0x10 4)) = false ∨ field (bytesAt d 0 (field b 0x10 4)) 0 1 ≠ field b 6 1) :
    tableLoad s seq l (.ok d) = failAt (s.emit (.hostRead 0 (field b 8 8) (field b 0x10 4))) 8 seq l lv.pc 0x0114 := by
  have hc : (!tableValid (bytesAt d 0 (field b 0x10 4))) = true ∨ field (bytesAt d 0 (field b 0x10 4)) 0 1 ≠ field b 6 1 := by simpa using hv
  simp only [tableLoad, h.2.1, hok, Bool.not_true, Bool.false_eq_true, if_false, readHost, readBack, HostResp.bytes, if_pos hc]

/-- A table that is valid waits with its command. -/
theorem tableLoad_valid (h : cmdStarts s 8 seq l 0x45 lv b) (hok : hostOk s 0 (field b 8 8) (field b 0x10 4) = true) {d : List Byte}
    (hv : tableValid (bytesAt d 0 (field b 0x10 4)) = true) (hf : field (bytesAt d 0 (field b 0x10 4)) 0 1 = field b 6 1) :
    tableLoad s seq l (.ok d) = (heldCmd (s.emit (.hostRead 0 (field b 8 8) (field b 0x10 4))) 8 seq l lv.pc b .steward).modDl fun x =>
      { x with slots := tmod x.slots (field b 6 1) fun t => { t with loads := t.loads ++ [{ seq := seq, table := SfnTable.parse (bytesAt d 0 (field b 0x10 4)) }] } } := by
  simp [tableLoad, h.2.1, hok, readHost, readBack, HostResp.bytes, hv, hf]

theorem heldCmd_slots (s : State) (shoe seq l g : Nat) (b : List Byte) (st : CmdState) : (heldCmd s shoe seq l g b st).dl.slots = s.dl.slots := by
  unfold heldCmd passCmd served
  split_ifs <;> rfl

theorem tableLoad_spec (h : cmdStarts s 8 seq l 0x45 lv b) (r : HostResp) :
    let t := tableLoad s seq l r
    othersStay s t 8 seq ∧
      (hostOk s 0 (field b 8 8) (field b 0x10 4) = false ∨ r = .err →
        itemFails t 8 seq 0x0411 ∧ ∀ k < 32, (tget t.dl.slots k).table = (tget s.dl.slots k).table) ∧
      ∀ d, hostOk s 0 (field b 8 8) (field b 0x10 4) = true → r = .ok d → let bs := bytesAt d 0 (field b 0x10 4)
        (tableValid bs = false ∨ field bs 0 1 ≠ field b 6 1 →
          itemFails t 8 seq 0x0114 ∧ ∀ k < 32, (tget t.dl.slots k).table = (tget s.dl.slots k).table) ∧
        (tableValid bs = true → field bs 0 1 = field b 6 1 → levelOf t 8 seq l = some (cmdHeld s.now lv b .steward) ∧
          t.dl.slots = tmod s.dl.slots (field b 6 1) fun x => { x with loads := x.loads ++ [{ seq := seq, table := SfnTable.parse bs }] }) := by
  intro t
  have hfail : ∀ u c, u.dl = s.dl → t = failAt u 8 seq l lv.pc c →
      othersStay s t 8 seq ∧ itemFails t 8 seq c ∧ ∀ k < 32, (tget t.dl.slots k).table = (tget s.dl.slots k).table := fun u c hu ht => by
    rw [ht]
    have hi := congrArg Dealer.items hu
    exact ⟨(othersStay.of_items hi).trans (others_failAt _ _ _ _ _ _ _), fails_of_next h.2.1 hi _ _ _, fun k hk => by rw [failAt_table _ _ _ _ _ _ _ hk, hu]⟩
  by_cases hr : hostOk s 0 (field b 8 8) (field b 0x10 4) = false ∨ r = .err
  · obtain ⟨u, hu, hdl⟩ := tableLoad_unread h hr
    obtain ⟨ho, hf⟩ := hfail u _ hdl hu
    refine ⟨ho, fun _ => hf, fun d hok hd => ?_⟩
    rcases hr with hr | hr
    · exact nomatch hok.symm.trans hr
    · exact nomatch hr.symm.trans hd
  · obtain ⟨hok, hne⟩ := not_or.1 hr
    have hok : hostOk s 0 (field b 8 8) (field b 0x10 4) = true := by simpa using hok
    cases r with
    | err => exact absurd rfl hne
    | ok d =>
      by_cases hv : tableValid (bytesAt d 0 (field b 0x10 4)) = false ∨ field (bytesAt d 0 (field b 0x10 4)) 0 1 ≠ field b 6 1
      · obtain ⟨ho, hf⟩ := hfail (s.emit _) _ rfl (tableLoad_invalid h hok hv)
        refine ⟨ho, fun h => absurd h hr, fun d' _ hd => ?_⟩
        cases hd
        refine ⟨fun _ => hf, fun hv' hf' => ?_⟩
        rcases hv with hv | hv
        · exact nomatch hv'.symm.trans hv
        · exact absurd hf' hv
      · obtain ⟨hv, hf⟩ := not_or.1 hv
        have hv : tableValid (bytesAt d 0 (field b 0x10 4)) = true := by simpa using hv
        have hf : field (bytesAt d 0 (field b 0x10 4)) 0 1 = field b 6 1 := not_not.1 hf
        have ht : t = _ := tableLoad_valid h hok hv hf
        obtain ⟨-, -, -, -, -, -, -, -, hl⟩ := nextCmd_some h.2.1
        refine ⟨?_, fun h => absurd h hr, fun d' _ hd => ?_⟩
        · rw [ht]; exact others_heldCmd _ _ _ _ _ _ _
        · cases hd
          refine ⟨fun hbad => ?_, fun _ _ => ?_⟩
          · rcases hbad with hbad | hbad
            · exact nomatch hv.symm.trans hbad
            · exact absurd hf hbad
          · rw [ht]
            refine ⟨levelOf_heldCmd (s := s.emit _) b .steward hl, ?_⟩
            rw [State.modDl_dl, heldCmd_slots, State.emit_dl]

end Load

/-- A part of a MACRO has latched the inactive bank of a table slot (R171). -/
def bankLatched (s : State) (slot : Nat) : Prop :=
  ∃ m ∈ s.dl.macros, ∃ x, m.table = some x ∧ x.1 = slot ∧ x.2.1 ≠ (tget s.dl.slots slot).bank

theorem tableCommit_stays {s : State} {slot : Nat}
    (h : (∀ x ∈ (tget s.dl.slots slot).loads, earlierLoad s slot x.seq = true) ∨ bankLatched s slot ∨ s.redealing = true) : tableCommit s slot = s := by
  unfold tableCommit
  dsimp only
  split
  · rfl
  · rename_i x hx
    refine if_pos ?_
    rcases h with h | ⟨m, hm, y, hy, hs, hb⟩ | h
    · have h1 := List.find?_some hx
      rw [h x (List.mem_of_find?_eq_some hx)] at h1
      exact nomatch h1
    · have : (s.dl.macros.any fun m => match m.table with
          | some x => x.1 == slot && x.2.1 != (tget s.dl.slots slot).bank
          | none => false) = true := List.any_eq_true.2 ⟨m, hm, by simp [hy, hs, hb]⟩
      rw [Bool.or_eq_true]
      exact .inl this
    · simp [h]

/-- The table that commits is the slot's, in the bank that was inactive. -/
def tableCommitted (s : State) (slot : Nat) (x : TblLoad) : State :=
  completeCmd (s.modDl fun d => { d with slots := tmod d.slots slot fun t =>
    { source := .load, bank := !t.bank, table := some x.table, loads := t.loads.filter (·.seq != x.seq) } }) 8 x.seq 0 0

theorem tableCommit_commits {s : State} {slot : Nat} {x : TblLoad} (hx : (tget s.dl.slots slot).loads.find? (fun x => !earlierLoad s slot x.seq) = some x)
    (hl : ¬ bankLatched s slot) (hr : s.redealing = false) : tableCommit s slot = tableCommitted s slot x := by
  unfold tableCommit
  dsimp only
  rw [hx]
  refine if_neg ?_
  rw [hr, Bool.or_false, List.any_eq_true]
  rintro ⟨m, hm, hp⟩
  cases ht : m.table with
  | none => simp [ht] at hp
  | some y =>
    simp only [ht, Bool.and_eq_true, beq_iff_eq, bne_iff_ne] at hp
    exact hl ⟨m, hm, y, ht, hp.1, hp.2⟩

theorem tableCommitted_spec (s : State) {slot : Nat} (hs : slot < 32) (x : TblLoad) :
    let t := tableCommitted s slot x
    OnlyParts [.dl] s t ∧ (tget t.dl.slots slot).table = some x.table ∧ (tget t.dl.slots slot).bank = !(tget s.dl.slots slot).bank ∧
      (∀ k, k ≠ slot → tget t.dl.slots k = tget s.dl.slots k) ∧ levelOf t 8 x.seq 0 = (levelOf s 8 x.seq 0).map (cmdEnded · 0) := by
  have hslot : tget (tableCommitted s slot x).dl.slots slot =
      { source := .load, bank := !(tget s.dl.slots slot).bank, table := some x.table, loads := (tget s.dl.slots slot).loads.filter (·.seq != x.seq) } :=
    tget_tmod_same _ _ hs
  refine ⟨?_, congrArg TblSlot.table hslot, congrArg TblSlot.bank hslot, fun k hk => tget_tmod_ne _ _ (Ne.symm hk), levelOf_completeCmd _ _ _ _ _⟩
  intro p hp
  cases p <;> first | exact absurd (by decide) hp | rfl

theorem sealCmd_starts {s : State} {seq l : Nat} {lv : Level} {b : List Byte} (h : cmdStarts s 8 seq l 0x47 lv b) (ok : Bool) :
    sealCmd s seq l ok = sealRecord (doneCmd s 8 seq l lv.pc b) ok := by
  simp [sealCmd, h.2.1]

theorem sealCmd_spec {s : State} {seq l : Nat} {lv : Level} {b : List Byte} (h : cmdStarts s 8 seq l 0x47 lv b) (ok : Bool) :
    let t := sealCmd s seq l ok
    othersStay s t 8 seq ∧ levelOf t 8 seq l = some (cmdDone lv b) ∧
      (s.dbg.identity = false → t.dbg.sealResult = 0x0D ∧ t.boot = s.boot) ∧
      (s.dbg.identity = true → ok = false → t.dbg.sealResult = 0x0E ∧ t.boot.seat = s.boot.seat ∧ t.boot.dev = s.boot.dev) ∧
      (s.dbg.identity = true → ok = true → t.dbg.sealResult = 0 ∧ (∃ r, t.boot.seat = some r ∧ r.coord = s.image.coord) ∧
        (s.boot.dev = .newSeat → t.boot.dev = .ready) ∧ (s.boot.dev ≠ .newSeat → t.boot.dev = s.boot.dev)) := by
  rw [sealCmd_starts h]
  obtain ⟨-, -, -, -, -, -, -, -, hl⟩ := nextCmd_some h.2.1
  have hlev := levelOf_doneCmd b hl
  have ho := others_doneCmd s 8 seq l lv.pc b
  have hd := doneCmd_only s 8 seq l lv.pc b
  have hboot : (doneCmd s 8 seq l lv.pc b).boot = s.boot := hd .boot (by decide)
  have hdbg : (doneCmd s 8 seq l lv.pc b).dbg = s.dbg := hd .dbg (by decide)
  generalize doneCmd s 8 seq l lv.pc b = u at *
  obtain ⟨hno, hbad, hgood, hdl⟩ := sealRecord_spec u ok
  have hi := congrArg Dealer.items hdl
  rw [State.image, ← hboot, ← hdbg]
  refine ⟨ho.trans (.of_items hi), (levelOf_congr hi _ _ _).trans hlev, fun h => ?_, hbad, fun h1 h2 => ?_⟩
  · rw [hno h]
    exact ⟨rfl, rfl⟩
  · obtain ⟨h3, ⟨q, r, h4, -, h5⟩, h6, h7⟩ := hgood h1 h2
    exact ⟨h3, ⟨r, h4, h5⟩, h6, h7⟩

end Sys2Proof
end

section
/-! SUPPORT. HOST_COPY's first burst (R79, R197, R210). -/

namespace Sys2Proof

open Machine

theorem copyBursts_error {s u : State} {shoe seq l g age fuel done : Nat} {b data : List Byte} {ok : Bool} {e : Nat × Nat}
    (h : copyBurst s shoe b data ok done = (u, .error e)) :
    copyBursts shoe seq l g age b ok (fuel + 1) data done s = failAt u shoe seq l g e.1 e.2 := by
  rw [copyBursts, h]

theorem copyBursts_last {s u : State} {shoe seq l g age fuel done k : Nat} {b data : List Byte} {ok : Bool}
    (h : copyBurst s shoe b data ok done = (u, .ok k)) (hk : field b 0x18 4 ≤ done + k) :
    copyBursts shoe seq l g age b ok (fuel + 1) data done s = completeCmd u shoe seq l g := by
  rw [copyBursts, h]
  exact if_pos hk

theorem copyBursts_more {s u : State} {shoe seq l g age fuel done k : Nat} {b data : List Byte} {ok : Bool}
    (h : copyBurst s shoe b data ok done = (u, .ok k)) (hk : done + k < field b 0x18 4) :
    copyBursts shoe seq l g age b ok (fuel + 1) data done s = copyBursts shoe seq l g age b ok fuel (data.drop k) (done + k) u := by
  rw [copyBursts, h]
  exact if_neg (Nat.not_le.2 hk)

section Fresh

variable {s : State} {n seq l : Nat} {lv : Level} {b : List Byte}

theorem copyCmd_fresh (h : cmdFresh s n seq l 0x06 lv b) (bursts : Nat) (r : HostResp) :
    copyCmd n seq l lv.pc bursts r s = copyBursts n seq l lv.pc s.now b (decide (r ≠ .err)) (if copyFirst s n s.now then bursts else 0) (respData r) 0
      (heldCmd s n seq l lv.pc b (.hostCopy 0 s.now)) := by
  simp only [copyCmd, fresh_none h, h.1.2.1, if_true]
  cases r <;> rfl

theorem hostCopy_fresh (h : cmdFresh s n seq l 0x06 lv b) (bursts : Nat) (r : HostResp) :
    exec (.hostCopy n seq l lv.pc bursts r) s = .next (afterMoves (copyCmd n seq l lv.pc bursts r) s) :=
  (hostCopy_runs n seq l lv.pc bursts r s h.1.1).trans (congrArg _ (cmdAtGate_starts h.1 _))

/-- Where no tier changes, no move commits. -/
theorem no_move_commits {s t : State} (h : t.tiers = s.tiers) : s.tiers.moves.any (moveCommitted t) = false := by
  rw [List.any_eq_false]
  intro m hm
  have hsome : (moveOf t m.table m.page).isSome = true := by
    rw [moveOf, h, List.find?_isSome]
    exact ⟨m, hm, by simp⟩
  simp [moveCommitted, Option.isSome_iff_ne_none.1 hsome]

/-- A HOST_COPY behind another one waits for its turn (R79). -/
theorem hostCopy_waits (h : cmdFresh s n seq l 0x06 lv b) (hc : copyFirst s n s.now = false) (bursts : Nat) (r : HostResp) :
    Runs (.hostCopy n seq l lv.pc bursts r) s fun t => othersStay s t n seq ∧ OnlyParts [.dl] s t ∧
      levelOf t n seq l = some (cmdHeld s.now lv b (.hostCopy 0 s.now)) := by
  have hcmd : copyCmd n seq l lv.pc bursts r s =
      setActive (heldCmd s n seq l lv.pc b (.hostCopy 0 s.now)) n seq l lv.pc (.hostCopy 0 s.now) := by
    rw [copyCmd_fresh h, hc]
    rfl
  have honly : OnlyParts [.dl] s (copyCmd n seq l lv.pc bursts r s) := by
    rw [hcmd]
    exact (heldCmd_only _ _ _ _ _ _ _).trans (setActive_only _ _ _ _ _ _)
  refine ⟨_, hostCopy_fresh h bursts r, ?_⟩
  rw [afterMoves, no_move_commits (honly .tiers (by decide))]
  refine ⟨hcmd ▸ (held_goesOn h.1 rfl _).1, honly, ?_⟩
  show levelOf (copyCmd n seq l lv.pc bursts r s) n seq l = _
  rw [hcmd, levelOf_setActive, (held_active h.1 _).1]
  exact congrArg some (setActive_held _ _ h.2)

theorem rangeFault_heldCmd (s : State) (shoe seq l g : Nat) (b : List Byte) (st : CmdState) (n va len : Nat) :
    rangeFault (heldCmd s shoe seq l g b st) n va len = rangeFault s n va len := by
  obtain ⟨d, hd⟩ := heldCmd_eq s shoe seq l g b st
  rw [hd]; rfl

theorem hostOk_heldCmd (s : State) (shoe seq l g : Nat) (b : List Byte) (st : CmdState) (fn a len : Nat) :
    hostOk (heldCmd s shoe seq l g b st) fn a len = hostOk s fn a len := by
  obtain ⟨d, hd⟩ := heldCmd_eq s shoe seq l g b st
  rw [hd]; rfl

/-- The first burst of a HOST_COPY that has just started. -/
def firstBurst (s : State) (n seq l : Nat) (lv : Level) (b : List Byte) (r : HostResp) : Run Nat :=
  copyBurst (heldCmd s n seq l lv.pc b (.hostCopy 0 s.now)) n b (respData r) (decide (r ≠ .err)) 0

/-- A page fault of the claim's range comes before any host request (R210). -/
theorem firstBurst_fault (s : State) (n seq l : Nat) (lv : Level) (r : HostResp) {e : Nat × Nat} (hop : field b 6 1 = 0)
    (hf : rangeFault s n (field b 0x10 5) (min 4096 (field b 0x18 4)) = some e) :
    firstBurst s n seq l lv b r = (heldCmd s n seq l lv.pc b (.hostCopy 0 s.now), .error e) := by
  unfold firstBurst copyBurst
  simp only [if_pos hop, rangeFault_heldCmd, Nat.add_zero, Nat.sub_zero, hf]

/-- A host access that is refused, or a read that fails, fails the burst (R210, R285, R289). -/
theorem firstBurst_unread (s : State) (n seq l : Nat) (lv : Level) {r : HostResp} (hop : field b 6 1 = 0)
    (hf : rangeFault s n (field b 0x10 5) (min 4096 (field b 0x18 4)) = none)
    (hr : hostOk s (fnOf n) (field b 8 8) (min 4096 (field b 0x18 4)) = false ∨ r = .err) : (firstBurst s n seq l lv b r).2 = .error (0x0411, 0) := by
  unfold firstBurst copyBurst
  simp only [if_pos hop, rangeFault_heldCmd, hostOk_heldCmd, Nat.add_zero, Nat.sub_zero, hf]
  by_cases hok : hostOk s (fnOf n) (field b 8 8) (min 4096 (field b 0x18 4)) = true
  · obtain rfl : r = .err := hr.resolve_left (by simp [hok])
    simp [hok]
  · simp [hok]

theorem firstBurst_items (s : State) (n seq l : Nat) (lv : Level) (b : List Byte) (r : HostResp) :
    (firstBurst s n seq l lv b r).1.dl.items = (heldCmd s n seq l lv.pc b (.hostCopy 0 s.now)).dl.items := copyBurst_items _ _ _ _ _ _

theorem copyCmd_first (h : cmdFresh s n seq l 0x06 lv b) (hc : copyFirst s n s.now = true) (r : HostResp) :
    let t := copyCmd n seq l lv.pc 1 r s
    (∀ e, (firstBurst s n seq l lv b r).2 = .error e → t = failAt (firstBurst s n seq l lv b r).1 n seq l lv.pc e.1 e.2) ∧
      ∀ k, (firstBurst s n seq l lv b r).2 = .ok k →
        (field b 0x18 4 ≤ k → t = completeCmd (firstBurst s n seq l lv b r).1 n seq l lv.pc) ∧
        (k < field b 0x18 4 → t = setActive (firstBurst s n seq l lv b r).1 n seq l lv.pc (.hostCopy k s.now)) := by
  have ht := copyCmd_fresh h 1 r
  rw [hc, if_pos rfl] at ht
  refine ⟨fun e he => ?_, fun k hk => ⟨fun hle => ?_, fun hlt => ?_⟩⟩
  · exact ht.trans (copyBursts_error (Prod.ext rfl he))
  · exact ht.trans (copyBursts_last (Prod.ext rfl hk) (by omega))
  · refine ht.trans ((copyBursts_more (Prod.ext rfl hk) (by omega)).trans ?_)
    rw [Nat.zero_add]
    rfl

/-- The first burst of a HOST_COPY whose turn it is (R210). -/
theorem copyCmd_first_spec (h : cmdFresh s n seq l 0x06 lv b) (hc : copyFirst s n s.now = true) (r : HostResp) :
    let len := min 4096 (field b 0x18 4)
    let t := copyCmd n seq l lv.pc 1 r s
    let R := firstBurst s n seq l lv b r
    othersStay s t n seq ∧
      (∀ e, field b 6 1 = 0 → rangeFault s n (field b 0x10 5) len = some e → itemFails t n seq e.1 ∧ t.out = s.out) ∧
      (field b 6 1 = 0 → rangeFault s n (field b 0x10 5) len = none → hostOk s (fnOf n) (field b 8 8) len = false ∨ r = .err → itemFails t n seq 0x0411) ∧
      (∀ e, R.2 = .error e → itemFails t n seq e.1) ∧
      ∀ k, R.2 = .ok k → t.tiers = R.1.tiers ∧ (field b 0x18 4 ≤ k → levelOf t n seq l = some (cmdDone lv b)) ∧
        (k < field b 0x18 4 → ∃ lv', levelOf t n seq l = some lv' ∧ activeAt lv' lv.pc (.hostCopy k s.now)) := by
  intro len t R
  obtain ⟨herr, hok⟩ := copyCmd_first h hc r
  have hi := firstBurst_items s n seq l lv b r
  have hfails : ∀ e, R.2 = .error e → othersStay s t n seq ∧ itemFails t n seq e.1 := fun e he => by
    rw [show t = _ from herr e he]
    exact held_fails h.1 hi _ _
  refine ⟨?_, fun e hop hf => ?_, fun hop hf hr => (hfails _ (firstBurst_unread s n seq l lv hop hf hr)).2, fun e he => (hfails e he).2, fun k hk => ?_⟩
  · cases hR : R.2 with
    | error e => exact (hfails e hR).1
    | ok k =>
      rcases Nat.lt_or_ge k (field b 0x18 4) with hlt | hge
      · rw [show t = _ from (hok k hR).2 hlt]; exact (held_goesOn h.1 hi _).1
      · rw [show t = _ from (hok k hR).1 hge]; exact (held_ends h.1 hi).1
  · have hR := firstBurst_fault s n seq l lv r hop hf
    refine ⟨(hfails e (congrArg Prod.snd hR)).2, ?_⟩
    rw [show t = _ from herr e (congrArg Prod.snd hR), hR, failAt_out]
    exact heldCmd_only _ _ _ _ _ _ _ .out (by decide)
  · refine ⟨?_, fun hge => ?_, fun hlt => ?_⟩
    · rcases Nat.lt_or_ge k (field b 0x18 4) with hlt | hge
      · rw [show t = _ from (hok k hk).2 hlt]; rfl
      · rw [show t = _ from (hok k hk).1 hge]; rfl
    · rw [show t = _ from (hok k hk).1 hge]; exact (held_ends h.1 hi).2
    · rw [show t = _ from (hok k hk).2 hlt]; exact (held_goesOn h.1 hi _).2

end Fresh

/-- Settles O46: CLEAR, COMMON_LOAD and its removal, TABLE_LOAD and its commit, SEAL, and HOST_COPY (R79, R170, R171, R197, R206, R207, R210,
R211, R379). -/
theorem stewardStores : Obligations.StewardStores := by
  refine fun s => ⟨fun seq l lv b h => ⟨fun n hf => ?_, fun f hf hn => ?_⟩, fun seq l lv a b left all freed h ha hr => ?_,
    fun seq l lv b h => ⟨fun ha r => ?_, fun ha => ?_⟩, fun seq l lv b h r => ?_, fun hd slot hs => ⟨fun hstay => ?_, fun x hx hl hr => ?_⟩,
    fun seq l lv b ok h => ?_, fun n seq l lv b r h => ⟨fun hc => ?_, fun hc => ?_⟩⟩
  · exact ⟨_, clearCmd_runs seq l n s h.1, clearStart_none h hf n⟩
  · exact ⟨_, clearCmd_runs seq l 1 s h.1, clearStart_unit h hf hn⟩
  · exact ⟨_, clearComplete_runs seq l s h.1, clearEnd_spec h.2 ha hr⟩
  · exact ⟨_, commonLoad_runs seq l r s h.1, commonLoad_spec h ha r⟩
  · exact ⟨_, commonRemove_runs seq l s h.1, commonRemove_spec h ha⟩
  · exact ⟨_, tableLoad_runs seq l r s h.1, tableLoad_spec h r⟩
  · exact (tableLoadCommit_runs slot s hd).trans (congrArg _ (tableCommit_stays hstay))
  · exact ⟨_, (tableLoadCommit_runs slot s hd).trans (congrArg _ (tableCommit_commits hx hl hr)), tableCommitted_spec s hs x⟩
  · exact ⟨_, sealCmd_runs seq l ok s h.1, sealCmd_spec h ok⟩
  · exact hostCopy_waits h hc 1 r
  · exact ⟨_, copyCmd_first_spec h hc r, hostCopy_fresh h 1 r⟩

end Sys2Proof
end

section
/-! SUPPORT. The start of a MACRO and the lane that the Dealer chooses for it (R77, R117, R118, R369). -/

namespace Sys2Proof

open Machine

/-! The Dealer's choice of a lane. -/

theorem laneEligible_iff (s : State) (n k : Nat) : laneEligible s n k ↔ k < 16 ∧ Machine.laneEligible s n k = true := by
  cases hc : rtClaimOf s k <;> simp [laneEligible, Machine.laneEligible, hc]

/-- One lane of the Dealer's search: the best lane so far, or this one where it is eligible and has a shorter queue. -/
def betterLane (s : State) (n : Nat) (best : Option Nat) (l : Nat) : Option Nat :=
  if !Machine.laneEligible s n l then best
  else match best with
    | none => some l
    | some b => if laneQueued s l < laneQueued s b then some l else best

/-- Lane b is eligible, and no eligible lane of a list has a shorter queue, or the same at a lower number. -/
def bestLane (s : State) (n : Nat) (ls : List Nat) (b : Nat) : Prop :=
  b ∈ ls ∧ Machine.laneEligible s n b = true ∧
    ∀ k ∈ ls, Machine.laneEligible s n k = true → laneQueued s b < laneQueued s k ∨ (laneQueued s b = laneQueued s k ∧ b ≤ k)

/-- What the search over rising lanes has found: nothing where none is eligible, else the best lane. -/
def laneFound (s : State) (n : Nat) (ls : List Nat) (best : Option Nat) : Prop :=
  match best with
  | none => ∀ k ∈ ls, Machine.laneEligible s n k = false
  | some b => bestLane s n ls b

theorem laneFound_step {s : State} {n l : Nat} {ls : List Nat} {best : Option Nat} (h : laneFound s n ls best) (hl : ∀ k ∈ ls, k < l) :
    laneFound s n (ls ++ [l]) (betterLane s n best l) := by
  unfold betterLane
  cases hel : Machine.laneEligible s n l with
  | false =>
    simp only [Bool.not_false, if_true]
    cases best with
    | none =>
      intro k hk
      rcases List.mem_append.1 hk with hk | hk
      · exact h k hk
      · rw [List.mem_singleton.1 hk]; exact hel
    | some b =>
      obtain ⟨hb, he, hmin⟩ := h
      refine ⟨List.mem_append_left _ hb, he, fun k hk hke => ?_⟩
      rcases List.mem_append.1 hk with hk | hk
      · exact hmin k hk hke
      · rw [List.mem_singleton.1 hk, hel] at hke
        exact nomatch hke
  | true =>
    simp only [Bool.not_true, Bool.false_eq_true, if_false]
    cases best with
    | none =>
      refine ⟨by simp, hel, fun k hk hke => ?_⟩
      rcases List.mem_append.1 hk with hk | hk
      · rw [h k hk] at hke
        exact nomatch hke
      · rw [List.mem_singleton.1 hk]; exact .inr ⟨rfl, Nat.le_refl _⟩
    | some b =>
      obtain ⟨hb, he, hmin⟩ := h
      by_cases hq : laneQueued s l < laneQueued s b
      · simp only [hq, if_true]
        refine ⟨by simp, hel, fun k hk hke => ?_⟩
        rcases List.mem_append.1 hk with hk | hk
        · have := hmin k hk hke
          omega
        · rw [List.mem_singleton.1 hk]; exact .inr ⟨rfl, Nat.le_refl _⟩
      · simp only [hq, if_false]
        refine ⟨List.mem_append_left _ hb, he, fun k hk hke => ?_⟩
        rcases List.mem_append.1 hk with hk | hk
        · exact hmin k hk hke
        · have := hl b hb
          rw [List.mem_singleton.1 hk]
          omega

theorem dealerLane_found (s : State) (n : Nat) : laneFound s n (List.range 16) (dealerLane s n) := by
  have hall : ∀ k, laneFound s n (List.range k) ((List.range k).foldl (betterLane s n) none) := fun k => by
    induction k with
    | zero => exact fun _ h => nomatch h
    | succ k ih =>
      rw [List.range_succ, List.foldl_append]
      exact laneFound_step ih fun j hj => List.mem_range.1 hj
  exact hall 16

/-- The Dealer's own choice, 16 for none, is the lowest eligible lane of the shortest queue. -/
theorem dealerLane_spec (s : State) (n : Nat) : let lane := (dealerLane s n).getD 16
    (lane = 16 ∧ ∀ k, ¬ laneEligible s n k) ∨
      (laneEligible s n lane ∧ ∀ k, laneEligible s n k → laneQueued s lane < laneQueued s k ∨ (laneQueued s lane = laneQueued s k ∧ lane ≤ k)) := by
  have h := dealerLane_found s n
  cases hd : dealerLane s n with
  | none =>
    rw [hd] at h
    refine .inl ⟨rfl, fun k hk => ?_⟩
    obtain ⟨hk, he⟩ := (laneEligible_iff s n k).1 hk
    rw [h k (List.mem_range.2 hk)] at he
    exact nomatch he
  | some b =>
    rw [hd] at h
    obtain ⟨hb, he, hmin⟩ := h
    refine .inr ⟨(laneEligible_iff s n b).2 ⟨List.mem_range.1 hb, he⟩, fun k hk => ?_⟩
    obtain ⟨hk, hke⟩ := (laneEligible_iff s n k).1 hk
    exact hmin k (List.mem_range.2 hk) hke

theorem chooseLane_bound {s : State} {n k : Nat} (named before : Nat) (h3 : effClass s n = 3) (hk : rtLaneOf s n = some k) :
    chooseLane s n named before = if laneFenced s k then none else some k := by
  simp only [chooseLane, h3, if_true, hk]

theorem chooseLane_central {s : State} {n : Nat} (named before : Nat) (h : effClass s n ≠ 3 ∨ rtLaneOf s n = none) :
    chooseLane s n named before = if named < 16 ∧ ¬ laneFenced s named then some named
      else if before < 16 ∧ Machine.laneEligible s n before then some before else dealerLane s n := by
  have hn : (if effClass s n = 3 then rtLaneOf s n else none) = none := by
    split
    · exact h.resolve_left (not_not.2 ‹_›)
    · rfl
  simp only [chooseLane, hn]

/-- The lane of a MACRO in central mode is the chosen one, 16 while none is eligible. -/
theorem chooseLane_chosen (s : State) (n named before : Nat) : laneChosen s n named before ((chooseLane s n named before).getD 16) := by
  refine ⟨fun k h3 hk => ?_, fun h => ?_⟩
  · rw [chooseLane_bound named before h3 hk]
    split <;> rfl
  · rw [chooseLane_central named before h]
    refine ⟨fun hlt hf => ?_, fun hno => ?_⟩
    · rw [if_pos ⟨hlt, by simp [hf]⟩]; rfl
    · rw [if_neg (by rintro ⟨h1, h2⟩; rcases hno with h | h; exacts [absurd h1 (Nat.not_lt.2 h), h2 h])]
      refine ⟨fun he => ?_, fun hne => ?_⟩
      · rw [if_pos ((laneEligible_iff s n before).1 he)]; rfl
      · rw [if_neg fun he => hne ((laneEligible_iff s n before).2 he)]
        exact dealerLane_spec s n

/-- At most one lane is the chosen one. -/
theorem laneChosen_unique {s : State} {n named before x y : Nat} (hx : laneChosen s n named before x) (hy : laneChosen s n named before y) : x = y := by
  obtain ⟨hx3, hx⟩ := hx
  obtain ⟨hy3, hy⟩ := hy
  by_cases h : effClass s n ≠ 3 ∨ rtLaneOf s n = none
  · obtain ⟨hxn, hx⟩ := hx h
    obtain ⟨hyn, hy⟩ := hy h
    by_cases hnamed : 16 ≤ named ∨ laneFenced s named = true
    · obtain ⟨hxb, hx⟩ := hx hnamed
      obtain ⟨hyb, hy⟩ := hy hnamed
      by_cases hb : laneEligible s n before
      · rw [hxb hb, hyb hb]
      · rcases hx hb with ⟨rfl, hxno⟩ | ⟨hxe, hxmin⟩ <;> rcases hy hb with ⟨rfl, hyno⟩ | ⟨hye, hymin⟩
        · rfl
        · exact absurd hye (hxno y)
        · exact absurd hxe (hyno x)
        · have h1 := hxmin y hye
          have h2 := hymin x hxe
          omega
    · obtain ⟨hlt, hf⟩ := not_or.1 hnamed
      have hf := Bool.eq_false_iff.2 hf
      rw [hxn (Nat.not_le.1 hlt) hf, hyn (Nat.not_le.1 hlt) hf]
  · obtain ⟨h3, hk⟩ := not_or.1 h
    obtain ⟨k, hk⟩ := Option.ne_none_iff_exists'.1 hk
    rw [hx3 k (not_not.1 h3) hk, hy3 k (not_not.1 h3) hk]

theorem laneFor_lane (s : State) (n : Nat) {lv : Level} {k g : Nat} (named before : Nat) (h : lv.kind = .lane k g) : laneFor s n lv named before = k := by
  simp only [laneFor, h]

theorem laneFor_central (s : State) (n : Nat) {lv : Level} (named before : Nat) (h : ∀ k g, lv.kind ≠ .lane k g) :
    laneFor s n lv named before = (chooseLane s n named before).getD 16 := by
  unfold laneFor
  split
  · rename_i k g hk
    exact absurd hk (h k g)
  · rfl

/-! The start. -/

/-- A MACRO that starts waits for its lane. -/
theorem macroCmd_waits {s : State} {n seq l : Nat} {lv : Level} {b : List Byte} (h : cmdStarts s n seq l 0x01 lv b) :
    macroCmd s n seq l (field b 6 1) = heldCmd s n seq l lv.pc b (.macroWait (laneFor s n lv (field b 7 1) 16)) := by
  simp only [macroCmd, h.2.1]
  exact if_pos rfl

theorem macroCmd_waits_spec {s : State} {n seq l : Nat} {lv : Level} {b : List Byte} (h : cmdStarts s n seq l 0x01 lv b) :
    let t := macroCmd s n seq l (field b 6 1)
    othersStay s t n seq ∧ OnlyParts [.dl] s t ∧ ∃ lane, levelOf t n seq l = some (cmdHeld s.now lv b (.macroWait lane)) ∧
      (∀ k g, lv.kind = .lane k g → lane = k) ∧ ((∀ k g, lv.kind ≠ .lane k g) → laneChosen s n (field b 7 1) 16 lane) := by
  rw [macroCmd_waits h]
  refine ⟨others_heldCmd _ _ _ _ _ _ _, heldCmd_only _ _ _ _ _ _ _, _, (held_active h _).1, fun k g hk => laneFor_lane s n _ _ hk, fun hk => ?_⟩
  rw [laneFor_central s n _ _ hk]
  exact chooseLane_chosen s n _ _

/-- The nine codes of a MACRO are one command, told apart by its code. -/
theorem macroCmd_exec {s : State} {n seq l : Nat} (hd : diesUp s = true) {i : Instr} {code : Nat}
    (hi : (i, code) ∈ [(Instr.matmul n seq l, 1), (.attend n seq l, 2), (.attendBwd n seq l, 3), (.sfn n seq l, 4), (.norm n seq l, 5),
      (.reduceCmd n seq l, 6), (.hoist n seq l, 7), (.convertCmd n seq l, 8), (.assayRerank n seq l, 9)]) :
    exec i s = .next (gate n seq l 0x01 (fun b => mcCode b == code) (fun s => macroCmd s n seq l code) s) := by
  simp only [List.mem_cons, Prod.mk.injEq, List.not_mem_nil, or_false] at hi
  rcases hi with ⟨rfl, rfl⟩ | ⟨rfl, rfl⟩ | ⟨rfl, rfl⟩ | ⟨rfl, rfl⟩ | ⟨rfl, rfl⟩ | ⟨rfl, rfl⟩ | ⟨rfl, rfl⟩ | ⟨rfl, rfl⟩ | ⟨rfl, rfl⟩
  · exact matmul_runs n seq l s hd
  · exact attend_runs n seq l s hd
  · exact attendBwd_runs n seq l s hd
  · exact sfn_runs n seq l s hd
  · exact norm_runs n seq l s hd
  · exact reduceCmd_runs n seq l s hd
  · exact hoist_runs n seq l s hd
  · exact convertCmd_runs n seq l s hd
  · exact assayRerank_runs n seq l s hd

/-- A command that is not the one to start does nothing. -/
theorem gate_other {s : State} {shoe seq l op g : Nat} {lv : Level} {b : List Byte} (h : nextCmd s shoe seq l op = some (lv, g, b))
    {mine : List Byte → Bool} (hm : mine b = false) (k : State → State) : gate shoe seq l op mine k s = s := by
  simp [gate, h, hm]

end Sys2Proof
end

section
/-! SUPPORT. The parts of a MACRO: how they are made and how they join their lane's queue (R118, R123). -/

namespace Sys2Proof

open Machine

/-- A part is as it was but for the lane that it was sent to and its age. -/
def sameButLane (x y : MacroInst) : Prop := y = { x with lane := y.lane, age := y.age }

theorem sameButLane.rfl' (x : MacroInst) : sameButLane x x := rfl

theorem sameButLane.trans {x y z : MacroInst} (h : sameButLane x y) (k : sameButLane y z) : sameButLane x z := by
  rw [sameButLane] at h k ⊢
  rw [k, h]

/-- Lists of parts that are as they were but for lanes and ages. -/
def sameParts (xs ys : List MacroInst) : Prop := List.Forall₂ sameButLane xs ys

theorem sameParts.refl (xs : List MacroInst) : sameParts xs xs := List.forall₂_same.2 fun x _ => sameButLane.rfl' x

theorem sameParts.trans {xs ys zs : List MacroInst} (h : sameParts xs ys) (k : sameParts ys zs) : sameParts xs zs := by
  induction h generalizing zs with
  | nil => exact k
  | cons hx _ ih =>
    cases k with
    | cons ky kys => exact .cons (hx.trans ky) (ih kys)

/-- What every part keeps, the list of parts keeps. -/
theorem sameParts.map_eq {α : Type} {f : MacroInst → α} (hf : ∀ x y, sameButLane x y → f y = f x) {xs ys : List MacroInst} (h : sameParts xs ys) :
    ys.map f = xs.map f := by
  induction h with
  | nil => rfl
  | cons hx _ ih => rw [List.map_cons, List.map_cons, hf _ _ hx, ih]

/-- What holds of every part of a list, whatever its lane and age, holds of the parts that they become. -/
theorem sameParts.all {p : MacroInst → Prop} (hp : ∀ x y, sameButLane x y → p x → p y) {xs ys : List MacroInst} (h : sameParts xs ys)
    (hx : ∀ x ∈ xs, p x) : ∀ y ∈ ys, p y := by
  induction h with
  | nil => exact hx
  | cons hxy _ ih =>
    intro y hy
    rcases List.mem_cons.1 hy with rfl | hy
    · exact hp _ _ hxy (hx _ List.mem_cons_self)
    · exact ih (fun x h => hx x (List.mem_cons_of_mem _ h)) y hy

theorem sameParts.split {xs ps ys : List MacroInst} (h : sameParts (xs ++ ps) ys) :
    ∃ old new, ys = old ++ new ∧ sameParts xs old ∧ sameParts ps new := by
  induction xs generalizing ys with
  | nil => exact ⟨[], ys, rfl, .nil, h⟩
  | cons x xs ih =>
    cases h with
    | cons hx hxs =>
      obtain ⟨old, new, rfl, ho, hn⟩ := ih hxs
      exact ⟨_ :: old, new, rfl, .cons hx ho, hn⟩

/-! One part enters its lane. -/

theorem enterLane_parts (s : State) (mid lane : Nat) : sameParts s.dl.macros (enterLane s mid lane).dl.macros := by
  refine List.forall₂_map_right_iff.2 (List.forall₂_same.2 fun x _ => ?_)
  by_cases h : (x.id == mid) = true <;> simp only [h, if_true, Bool.false_eq_true, if_false] <;> exact rfl

theorem enterLane_queue (s : State) (mid : Nat) {lane : Nat} (h : lane < 16) :
    (tget (enterLane s mid lane).dl.lanes lane).queue = (tget s.dl.lanes lane).queue ++ [mid] :=
  congrArg Lane.queue (tget_tmod_same s.dl.lanes _ h)

theorem enterLane_ne (s : State) (mid : Nat) {lane k : Nat} (h : k ≠ lane) : tget (enterLane s mid lane).dl.lanes k = tget s.dl.lanes k :=
  tget_tmod_ne s.dl.lanes _ (Ne.symm h)

/-! All parts enter it in order, until it is full. -/

/-- Parts of some numbers have joined a lane's queue in order, and nothing else of the parts but lanes and ages has changed. -/
def partsPlaced (s t : State) (lane : Nat) (mids : List Nat) : Prop :=
  sameParts s.dl.macros t.dl.macros ∧ (∀ k, k ≠ lane → tget t.dl.lanes k = tget s.dl.lanes k) ∧ laneQueued t lane ≤ 16 ∧
    ∃ ids, (tget t.dl.lanes lane).queue = (tget s.dl.lanes lane).queue ++ ids ∧ ids.Sublist mids

theorem partsPlaced.none {s t : State} {lane : Nat} (mids : List Nat) (hm : t.dl.macros = s.dl.macros) (hl : t.dl.lanes = s.dl.lanes)
    (hq : laneQueued s lane ≤ 16) : partsPlaced s t lane mids :=
  ⟨hm ▸ .refl _, fun _ _ => by rw [hl], by rw [laneQueued, hl]; exact hq, [], by rw [hl, List.append_nil], List.nil_sublist _⟩

theorem partsPlaced.skip {s t : State} {lane : Nat} {mids : List Nat} (mid : Nat) (h : partsPlaced s t lane mids) :
    partsPlaced s t lane (mid :: mids) := by
  obtain ⟨hm, ho, hq, ids, hids, hsub⟩ := h
  exact ⟨hm, ho, hq, ids, hids, hsub.cons mid⟩

theorem partsPlaced.enter {s t : State} {lane mid : Nat} {mids : List Nat} (hl : lane < 16) (h : partsPlaced (enterLane s mid lane) t lane mids) :
    partsPlaced s t lane (mid :: mids) := by
  obtain ⟨hm, ho, hq, ids, hids, hsub⟩ := h
  refine ⟨(enterLane_parts s mid lane).trans hm, fun k hk => (ho k hk).trans (enterLane_ne s mid hk), hq, mid :: ids, ?_, hsub.cons_cons mid⟩
  rw [hids, enterLane_queue s mid hl, List.append_assoc, List.singleton_append]

theorem placeParts_placed (n seq l g : Nat) {lane : Nat} (hl : lane < 16) (ms : List MacroInst) {s : State} (hq : laneQueued s lane ≤ 16) :
    partsPlaced s (placeParts n seq l g lane ms s) lane (ms.map (·.id)) := by
  induction ms generalizing s with
  | nil => exact .none _ rfl rfl hq
  | cons m ms ih =>
    unfold placeParts
    split
    · exact (ih hq).skip m.id
    · split
      · rename_i hroom
        refine (ih ?_).enter hl
        rw [laneQueued, enterLane_queue s m.id hl, List.length_append]
        exact hroom
      · exact .none _ rfl rfl hq

/-! The parts that a MACRO is made into. -/

/-- The part of a MACRO with a number and a cut. -/
def newPart (s : State) (n seq l g lane : Nat) (b : List Byte) (ds : List Slot) (set_ : List Byte) (tb : Option (Nat × Bool × SfnTable))
    (c : PartCut × Nat) : MacroInst :=
  let m : MacroInst :=
    { id := s.dl.nextMacro + c.2, claim := n, owner := .item n seq l g, code := mcCode b, programVa := mcProgram b, param := mcParam b
      descs := ds.map (·.getD []), t0Units := field set_ 6 2, lane := some lane, cut := c.1, table := tb, age := s.now, header := bytesAt set_ 0 64 }
  { m with groups := groupCount m, chunks := chunksOf m }

/-- All its parts, one of each cut. -/
def newParts (s : State) (n seq l g lane : Nat) (b : List Byte) (ds : List Slot) (set_ : List Byte) (tb : Option (Nat × Bool × SfnTable)) :
    List MacroInst :=
  (cutsOf (Config.programBucketed set_) ((ds.getD 0 none).getD [])).zipIdx.map (newPart s n seq l g lane b ds set_ tb)

/-- The state in which its parts exist, none of them on a lane yet. -/
def withParts (s : State) (ps : List MacroInst) : State :=
  s.modDl fun d => { d with macros := d.macros ++ ps, nextMacro := d.nextMacro + ps.length }

theorem newPart_partOf (s : State) (n seq l g lane : Nat) (b : List Byte) (ds : List Slot) (set_ : List Byte)
    (tb : Option (Nat × Bool × SfnTable)) (c : PartCut × Nat) : partOf n seq l g b ds set_ tb (newPart s n seq l g lane b ds set_ tb c) :=
  ⟨rfl, rfl, rfl, rfl, rfl, rfl, rfl, rfl, rfl, rfl, rfl, rfl, rfl, rfl, rfl⟩

theorem newParts_cut (s : State) (n seq l g lane : Nat) (b : List Byte) (ds : List Slot) (set_ : List Byte) (tb : Option (Nat × Bool × SfnTable)) :
    (newParts s n seq l g lane b ds set_ tb).map (·.cut) = cutsOf (Config.programBucketed set_) ((ds.getD 0 none).getD []) := by
  rw [newParts, List.map_map]
  exact List.zipIdx_map_fst 0 _

/-- A part of a MACRO is one on whatever lane. -/
theorem partOf_sameButLane {n seq l g : Nat} {b : List Byte} {ds : List Slot} {set_ : List Byte} {tb : Option (Nat × Bool × SfnTable)}
    (x y : MacroInst) (h : sameButLane x y) (hx : partOf n seq l g b ds set_ tb x) : partOf n seq l g b ds set_ tb y := by
  rw [sameButLane] at h
  rw [h]
  exact hx

/-- Once its parts are made and placed, a MACRO is dispatched. -/
theorem newParts_made (s : State) (n seq l g : Nat) {lane : Nat} (hl : lane < 16) (hq : laneQueued s lane ≤ 16) (b : List Byte) (ds : List Slot)
    (set_ : List Byte) (tb : Option (Nat × Bool × SfnTable)) :
    let ps := newParts s n seq l g lane b ds set_ tb
    partsMade s (placeParts n seq l g lane ps (withParts s ps)) n seq l g lane b ds set_ tb := by
  intro ps
  obtain ⟨hparts, hother, hfull, ids, hids, hsub⟩ := placeParts_placed n seq l g hl ps (s := withParts s ps) hq
  obtain ⟨old, new, hsplit, hold, hnew⟩ := sameParts.split (xs := s.dl.macros) (ps := ps) hparts
  refine ⟨old, new, ids, hsplit, hold, ?_, hnew.all partOf_sameButLane fun x hx => ?_, hids, hfull, ?_, hother⟩
  · rw [hnew.map_eq (f := (·.cut)) fun x y h => by rw [h]]
    exact newParts_cut _ _ _ _ _ _ _ _ _ _
  · obtain ⟨c, -, rfl⟩ := List.mem_map.1 hx
    exact newPart_partOf _ _ _ _ _ _ _ _ _ _ _
  · rw [hnew.map_eq (f := (·.id)) fun x y h => by rw [h]]
    exact hsub

end Sys2Proof
end

section
/-! SUPPORT. The dispatch of a MACRO and its checks (R118, R122, R123, R139, R143, R144, R171). -/

namespace Sys2Proof

open Machine

/-! The MACRO that waits. -/

/-- A command that does not wait for a dispatch is not dispatched. -/
theorem dispatchMacro_not_waiting {s : State} {n seq l g : Nat} (f : State → State)
    (h : ∀ lv a b, activeCmd s n seq l g = some (lv, a, b) → ∀ lane, a.st ≠ .macroWait lane) : dispatchMacro s n seq l g f = s := by
  unfold dispatchMacro
  split
  · rfl
  · rename_i lv a b ha
    split
    · rename_i lane hst
      exact absurd hst (h lv a b ha lane)
    · rfl

/-- What the dispatch of a MACRO does once its lane has room: the checks in order, then its parts. -/
def checkedDispatch (s : State) (n seq l g lane : Nat) (b : List Byte) : State :=
  match readDescs n b s with
  | (u, .error e) => failAt u n seq l g e.1 e.2
  | (u, .ok ds) =>
    match descFault (mcCode b) (mcParam b) ds with
    | some e => failAt u n seq l g e.1 e.2
    | none =>
      match readProgram n (mcCode b) (mcProgram b) u with
      | (w, .error e) => failAt w n seq l g e.1 e.2
      | (w, .ok set_) =>
        match latchTable w (mcCode b) (mcParam b) with
        | none => failAt w n seq l g 0x0115
        | some t => makeParts w n seq l g lane b ds set_ t

theorem onLane_kind {lv : Level} (h : lv.onLane = true) : ∃ k g, lv.kind = .lane k g := by
  unfold Level.onLane at h
  split at h
  · rename_i k g hk
    exact ⟨k, g, hk⟩
  · exact nomatch h

section Waits

variable {s : State} {n seq l g lane : Nat} {lv : Level} {b : List Byte}

/-- The lane at dispatch is the one that is chosen again, of the one chosen before. -/
theorem macroWaits_lane (h : macroWaits s n seq l g lv b lane) : ∃ a before, activeCmd s n seq l g = some (lv, a, b) ∧ a.st = .macroWait before ∧
    laneFor s n lv (mcLane b) before = lane := by
  obtain ⟨⟨a, before, ⟨-, ha⟩, hst, hcentral⟩, hown, -⟩ := h
  refine ⟨a, before, ha, hst, ?_⟩
  by_cases hk : ∃ k g, lv.kind = .lane k g
  · obtain ⟨k, g', hk⟩ := hk
    rw [laneFor_lane s n _ _ hk, (hown k g' hk).1]
  · have hk : ∀ k g, lv.kind ≠ .lane k g := fun k g he => hk ⟨k, g, he⟩
    rw [laneFor_central s n _ _ hk]
    exact laneChosen_unique (chooseLane_chosen s n _ _) (hcentral hk)

/-- Its lane is not one that can do no more. -/
theorem macroWaits_alive (h : macroWaits s n seq l g lv b lane) : ¬ (lv.onLane = true ∧ laneDead s lane = true) := by
  rintro ⟨hon, hdead⟩
  obtain ⟨k, g', hk⟩ := onLane_kind hon
  obtain ⟨-, hown, -⟩ := h
  rw [(hown k g' hk).2] at hdead
  exact nomatch hdead

/-- A MACRO that waits and has no part yet: a full lane keeps it waiting, and with room it is checked. -/
theorem macroDispatch_waits (h : macroWaits s n seq l g lv b lane) : macroDispatch s n seq l g =
    if 16 ≤ laneQueued s lane then setActive s n seq l g (.macroWait lane)
    else if noneSlotUsed b then macroMalformed n seq l g s else checkedDispatch s n seq l g lane b := by
  obtain ⟨a, before, ha, hst, hlane⟩ := macroWaits_lane h
  have halive := macroWaits_alive h
  obtain ⟨-, -, hlt, hre, hhalt, hparts⟩ := h
  have hgo : ¬ (s.redealing = true ∨ shoeHalted s n = true) := by simp [hre, hhalt]
  simp only [macroDispatch, dispatchMacro, ha, hst, hlane, hparts, if_neg hgo, if_neg (Nat.not_le.2 hlt), if_neg halive]
  rfl

theorem macroWaits_dies (h : macroWaits s n seq l g lv b lane) : diesUp s = true := by
  obtain ⟨⟨a, before, ⟨hd, -⟩, -⟩, -⟩ := h
  exact hd

/-- The item of a waiting MACRO fails at its dispatch, from any state with the same ledger, and no other item changes. -/
theorem dispatch_fails (h : macroWaits s n seq l g lv b lane) {u : State} (hu : u.dl = s.dl) (cause d : Nat) :
    itemFails (failAt u n seq l g cause d) n seq cause ∧ othersStay s (failAt u n seq l g cause d) n seq := by
  obtain ⟨a, before, ha, -⟩ := macroWaits_lane h
  have hitems : u.dl.items = s.dl.items := by rw [hu]
  exact ⟨fails_of_active ha hitems g cause d, (othersStay.of_items hitems).trans (others_failAt _ _ _ _ _ _ _)⟩

/-- A waiting MACRO whose descriptor is empty completes. -/
theorem dispatch_completes (h : macroWaits s n seq l g lv b lane) {u : State} (hu : u.dl = s.dl) :
    levelOf (completeCmd u n seq l g) n seq l = some (cmdEnded lv g) ∧ (completeCmd u n seq l g).dl.macros = s.dl.macros := by
  obtain ⟨a, before, ha, -⟩ := macroWaits_lane h
  obtain ⟨i, -, -, -, -, -, -, hlv⟩ := activeCmd_some ha
  refine ⟨?_, (congrArg Dealer.macros hu :)⟩
  rw [levelOf_completeCmd, levelOf_congr (congrArg Dealer.items hu), hlv]
  rfl

theorem macroDispatch_full (h : macroWaits s n seq l g lv b lane) (hq : 16 ≤ laneQueued s lane) :
    Runs (.macroDispatch n seq l g) s fun t => t.dl.macros = s.dl.macros ∧ t.dl.lanes = s.dl.lanes ∧ OnlyParts [.dl] s t := by
  refine ⟨_, macroDispatch_runs n seq l g s (macroWaits_dies h), ?_⟩
  rw [macroDispatch_waits h, if_pos hq]
  exact ⟨rfl, rfl, setActive_only _ _ _ _ _ _⟩

/-- With room on its lane and no slot wrongly used, a dispatch is its checks. -/
theorem macroDispatch_checked (h : macroWaits s n seq l g lv b lane) (hq : laneQueued s lane < 16) (hn : noneSlotUsed b = false) :
    exec (.macroDispatch n seq l g) s = .next (checkedDispatch s n seq l g lane b) := by
  rw [macroDispatch_runs n seq l g s (macroWaits_dies h), macroDispatch_waits h, if_neg (Nat.not_le.2 hq), if_neg (by simp [hn])]

end Waits

/-! The checks, in order. -/

theorem readDescs_dl (n : Nat) (b : List Byte) (s : State) : (readDescs n b s).1.dl = s.dl :=
  (readDescs_moves n b s (Moves.refl 271688 s) rfl).rest .dl rfl

theorem readProgram_dl (n code va : Nat) (s : State) : (readProgram n code va s).1.dl = s.dl :=
  (readProgram_moves n code va s (Moves.refl 271688 s) rfl).rest .dl rfl

theorem latchTable_congr {s t : State} (h : t.dl = s.dl) (code param : Nat) : latchTable t code param = latchTable s code param := by
  simp only [latchTable, h]

section Checks

variable {s u w : State} {n seq l g lane : Nat} {b : List Byte} {e : Nat × Nat} {ds : List Slot} {set_ : List Byte}

theorem checked_unreadDescs (hr : readDescs n b s = (u, .error e)) :
    checkedDispatch s n seq l g lane b = failAt u n seq l g e.1 e.2 := by
  simp only [checkedDispatch, hr]

theorem checked_badDescs (hr : readDescs n b s = (u, .ok ds)) (hd : descFault (mcCode b) (mcParam b) ds = some e) :
    checkedDispatch s n seq l g lane b = failAt u n seq l g e.1 e.2 := by
  simp only [checkedDispatch, hr, hd]

theorem checked_badProgram (hr : readDescs n b s = (u, .ok ds)) (hd : descFault (mcCode b) (mcParam b) ds = none)
    (hp : readProgram n (mcCode b) (mcProgram b) u = (w, .error e)) : checkedDispatch s n seq l g lane b = failAt w n seq l g e.1 e.2 := by
  simp only [checkedDispatch, hr, hd, hp]

theorem checked_noTable (hr : readDescs n b s = (u, .ok ds)) (hd : descFault (mcCode b) (mcParam b) ds = none)
    (hp : readProgram n (mcCode b) (mcProgram b) u = (w, .ok set_)) (ht : latchTable w (mcCode b) (mcParam b) = none) :
    checkedDispatch s n seq l g lane b = failAt w n seq l g 0x0115 := by
  simp only [checkedDispatch, hr, hd, hp, ht]

theorem checked_passes (hr : readDescs n b s = (u, .ok ds)) (hd : descFault (mcCode b) (mcParam b) ds = none)
    (hp : readProgram n (mcCode b) (mcProgram b) u = (w, .ok set_)) {tb : Option (Nat × Bool × SfnTable)}
    (ht : latchTable w (mcCode b) (mcParam b) = some tb) : checkedDispatch s n seq l g lane b = makeParts w n seq l g lane b ds set_ tb := by
  simp only [checkedDispatch, hr, hd, hp, ht]

end Checks

/-! The parts, or the end of an empty MACRO. -/

/-- What a MACRO that has passed its checks comes to. -/
theorem makeParts_eq (s : State) (n seq l g lane : Nat) (b : List Byte) (ds : List Slot) (set_ : List Byte) (tb : Option (Nat × Bool × SfnTable)) :
    makeParts s n seq l g lane b ds set_ tb =
      if (ds.any fun d => d.any dEmpty) = true then completeCmd s n seq l g
      else if 4096 < partCount (Config.programBucketed set_) ((ds.getD 0 none).getD []) then failAt s n seq l g 0x010A
      else placeParts n seq l g lane (newParts s n seq l g lane b ds set_ tb) (withParts s (newParts s n seq l g lane b ds set_ tb)) := by
  have hempty : (fun d : Slot => d.any dEmpty) = fun d => match d with
      | some x => dEmpty x
      | none => false := by
    funext d
    cases d <;> rfl
  rw [hempty]
  rfl

section Passed

variable {s w : State} {n seq l g lane : Nat} {lv : Level} {b : List Byte} (ds : List Slot) (set_ : List Byte)
  (tb : Option (Nat × Bool × SfnTable))

theorem made_empty (h : macroWaits s n seq l g lv b lane) (hw : w.dl = s.dl) (he : (ds.any fun d => d.any dEmpty) = true) :
    let t := makeParts w n seq l g lane b ds set_ tb
    levelOf t n seq l = some (cmdEnded lv g) ∧ t.dl.macros = s.dl.macros := by
  rw [makeParts_eq, if_pos he]
  exact dispatch_completes h hw

theorem made_tooMany (h : macroWaits s n seq l g lv b lane) (hw : w.dl = s.dl) (he : (ds.any fun d => d.any dEmpty) = false)
    (hc : 4096 < partCount (Config.programBucketed set_) ((ds.getD 0 none).getD [])) :
    let t := makeParts w n seq l g lane b ds set_ tb
    itemFails t n seq 0x010A ∧ othersStay s t n seq := by
  rw [makeParts_eq, if_neg (by simp [he]), if_pos hc]
  exact dispatch_fails h hw _ _

theorem partsMade_congr {t : State} (hw : w.dl = s.dl) (h : partsMade w t n seq l g lane b ds set_ tb) :
    partsMade s t n seq l g lane b ds set_ tb := by
  simpa only [partsMade, hw] using h

theorem made_parts (h : macroWaits s n seq l g lv b lane) (hw : w.dl = s.dl) (hq : laneQueued s lane < 16)
    (he : (ds.any fun d => d.any dEmpty) = false) (hc : partCount (Config.programBucketed set_) ((ds.getD 0 none).getD []) ≤ 4096) :
    partsMade s (makeParts w n seq l g lane b ds set_ tb) n seq l g lane b ds set_ tb := by
  obtain ⟨-, -, hlt, -⟩ := h
  have hq : laneQueued w lane ≤ 16 := by
    rw [laneQueued, hw]
    exact Nat.le_of_lt hq
  rw [makeParts_eq, if_neg (by simp [he]), if_neg (Nat.not_lt.2 hc)]
  exact partsMade_congr ds set_ tb hw (newParts_made w n seq l g hlt hq b ds set_ tb)

end Passed

/-- The start of each of the nine. -/
theorem macroCmd_starts (s : State) (n seq l : Nat) (lv : Level) (b : List Byte) (h : cmdStarts s n seq l 0x01 lv b) (i : Instr) (code : Nat)
    (hi : (i, code) ∈ [(Instr.matmul n seq l, 1), (.attend n seq l, 2), (.attendBwd n seq l, 3), (.sfn n seq l, 4), (.norm n seq l, 5),
      (.reduceCmd n seq l, 6), (.hoist n seq l, 7), (.convertCmd n seq l, 8), (.assayRerank n seq l, 9)]) :
    (field b 6 1 ≠ code → exec i s = .next s) ∧
    (field b 6 1 = code → Runs i s fun t => othersStay s t n seq ∧ OnlyParts [.dl] s t ∧
      ∃ lane, levelOf t n seq l = some (cmdHeld s.now lv b (.macroWait lane)) ∧ (∀ k g, lv.kind = .lane k g → lane = k) ∧
        ((∀ k g, lv.kind ≠ .lane k g) → laneChosen s n (field b 7 1) 16 lane)) := by
  have hrun := macroCmd_exec h.1 hi
  refine ⟨fun hne => ?_, fun heq => ?_⟩
  · rw [hrun, gate_other h.2.1 (mine := fun b => mcCode b == code) (beq_false_of_ne hne)]
  · rw [gate_starts h (mine := fun b => mcCode b == code) (beq_iff_eq.2 heq)] at hrun
    exact ⟨_, hrun, heq ▸ macroCmd_waits_spec h⟩

/-- A dispatch that finds no waiting MACRO. -/
theorem macroDispatch_idle (s : State) (n seq l g : Nat) (h : ∀ lv a b, cmdRuns s n seq l g lv a b → ∀ lane, a.st ≠ .macroWait lane) :
    exec (.macroDispatch n seq l g) s = .next s := by
  cases hd : diesUp s with
  | false => exact congrArg Host.Outcome.next (if_neg (by simp [hd]))
  | true =>
    rw [macroDispatch_runs n seq l g s hd]
    exact congrArg Host.Outcome.next (dispatchMacro_not_waiting _ fun lv a b ha => h lv a b ⟨hd, ha⟩)

/-- Settles O56: a MACRO waits for the lane that is chosen for it (R77, R117, R369), and its dispatch makes the checks in order before its parts
enter the lane's queue (R93, R118, R122, R123, R139, R141 to R144, R171). -/
theorem macroCommands : Obligations.MacroCommands := by
  refine ⟨macroCmd_starts, macroDispatch_idle, fun s n seq l g lv b lane h => ⟨macroDispatch_full h, fun hq hn => ?_⟩⟩
  have hrun := macroDispatch_checked h hq hn
  have hu := readDescs_dl n b s
  refine ⟨fun e he => ?_, fun ds hds => ⟨fun e he => ?_, fun hd => ?_⟩⟩
  · rw [checked_unreadDescs (Prod.ext rfl he)] at hrun
    exact ⟨_, hrun, dispatch_fails h hu _ _⟩
  · rw [checked_badDescs (Prod.ext rfl hds) he] at hrun
    exact ⟨_, hrun, dispatch_fails h hu _ _⟩
  · have hw := (readProgram_dl n (field b 6 1) (field b 8 5) (readDescs n b s).1).trans hu
    refine ⟨fun e he => ?_, fun set_ hset => ⟨fun ht => ?_, fun tb ht => ?_⟩⟩
    · rw [checked_badProgram (Prod.ext rfl hds) hd (Prod.ext rfl he)] at hrun
      exact ⟨_, hrun, dispatch_fails h hw _ _⟩
    · rw [checked_noTable (Prod.ext rfl hds) hd (Prod.ext rfl hset) ((latchTable_congr hw _ _).trans ht)] at hrun
      exact ⟨_, hrun, dispatch_fails h hw _ _⟩
    · rw [checked_passes (Prod.ext rfl hds) hd (Prod.ext rfl hset) ((latchTable_congr hw _ _).trans ht)] at hrun
      exact ⟨fun he => ⟨_, hrun, made_empty ds set_ tb h hw he⟩,
        fun he => ⟨fun hc => ⟨_, hrun, made_tooMany ds set_ tb h hw he hc⟩, fun hc => ⟨_, hrun, made_parts ds set_ tb h hw hq he hc⟩⟩⟩

end Sys2Proof
end

section
/-! SUPPORT. NOP, WRITE_MEM and WAIT_MEM (R92, R93, R99). -/

namespace Sys2Proof

open Machine

/-- A WAIT_MEM that is active at granule g of a level of a running item (R99). -/
def memWaiting (u : State) (shoe seq l g : Nat) (lv : Level) : Prop :=
  levelOf u shoe seq l = some lv ∧ (∃ a ∈ lv.active, a.granule = g) ∧ ∃ i, findItem u shoe seq = some i ∧ i.fixed = false

/-- A command that has just been held is active, and its item runs. -/
theorem memWaiting_held {s : State} {shoe seq l op : Nat} {lv : Level} {b : List Byte} (h : cmdStarts s shoe seq l op lv b) (st : CmdState) :
    memWaiting (heldCmd s shoe seq l lv.pc b st) shoe seq l lv.pc (cmdHeld s.now lv b st) := by
  obtain ⟨i, hi, hr, -⟩ := nextCmd_some h.2.1
  obtain ⟨f, hf, he⟩ := findItem_heldCmd s shoe seq l lv.pc b st
  obtain ⟨hl, ha⟩ := held_active h st
  exact ⟨hl, ha, f i, by rw [he, hi]; rfl, running_open ((hf i).trans hr)⟩

/-- So is one that runs. -/
theorem memWaiting_runs {s : State} {shoe seq l g : Nat} {lv : Level} {a : Active} {b : List Byte} (h : cmdRuns s shoe seq l g lv a b) :
    memWaiting s shoe seq l g lv := by
  obtain ⟨i, hi, hr, -, -, ham, hag, hl⟩ := activeCmd_some h.2
  exact ⟨hl, ⟨a, ham, hag⟩, i, hi, running_open hr⟩

section Waiting

variable {u : State} {shoe seq l g : Nat} {lv : Level} (h : memWaiting u shoe seq l g lv)
include h

theorem memWaiting_set (st : CmdState) : ∃ lv', levelOf (setActive u shoe seq l g st) shoe seq l = some lv' ∧ lv'.pc = lv.pc ∧
    lv'.events = lv.events ∧ activeAt lv' g st := activeAt_set st h.1 h.2.1

theorem memWaiting_fails (cause d : Nat) : itemFails (failAt u shoe seq l g cause d) shoe seq cause := by
  obtain ⟨-, -, i, hi, hf⟩ := h
  exact itemFails_failAt l g cause d hi hf

/-- An active WAIT_MEM issues its read and waits for it, or fails its item (R99, R285, R288). -/
theorem waitMemRead_spec (b : List Byte) : let t := waitMemRead u shoe seq l g b
    othersStay u t shoe seq ∧
      (hostOk u (fnOf shoe) (field b 8 8) (waitMemLen b) = true → t.out = u.out ++ [.hostRead (fnOf shoe) (field b 8 8) (waitMemLen b)] ∧
        ∃ lv', levelOf t shoe seq l = some lv' ∧ lv'.pc = lv.pc ∧ lv'.events = lv.events ∧ activeAt lv' g (.waitMem true)) ∧
      (hostOk u (fnOf shoe) (field b 8 8) (waitMemLen b) = false → t.out = u.out ∧ itemFails t shoe seq 0x0411) := by
  dsimp only
  unfold waitMemRead
  cases hok : hostOk u (fnOf shoe) (field b 8 8) (waitMemLen b) with
  | true =>
    refine ⟨others_setActive _ _ _ _ _ _, fun _ => ⟨rfl, ?_⟩, fun hno => (nomatch hno)⟩
    exact memWaiting_set (u := u.emit (.hostRead (fnOf shoe) (field b 8 8) (waitMemLen b))) h _
  | false =>
    refine ⟨others_failAt _ _ _ _ _ _ _, fun hno => (nomatch hno), fun _ => ⟨?_, memWaiting_fails h _ _⟩⟩
    exact failAt_only u shoe seq l g 0x0411 0 .out (by decide)

end Waiting

theorem waitMemRead_only (u : State) (shoe seq l g : Nat) (b : List Byte) : OnlyParts [.dl, .out] u (waitMemRead u shoe seq l g b) :=
  (waitMemRead_moves u shoe seq l g b (Moves.refl 136 u) rfl).only (covers_spec rfl)

section Starts

variable {s : State} {shoe seq l : Nat} {lv : Level} {b : List Byte}

theorem nop_done (h : cmdStarts s shoe seq l 0x00 lv b) : Runs (.nop shoe seq l) s fun t =>
    levelOf t shoe seq l = some (cmdDone lv b) ∧ othersStay s t shoe seq ∧ OnlyParts [.dl] s t := by
  obtain ⟨-, -, -, -, -, -, -, -, hl⟩ := nextCmd_some h.2.1
  refine ⟨doneCmd s shoe seq l lv.pc b, ?_, levelOf_doneCmd b hl, others_doneCmd _ _ _ _ _ _, doneCmd_only _ _ _ _ _ _⟩
  rw [nop_runs shoe seq l s h.1, gate_starts h rfl, withCmd_starts h]

/-- A posted write of WRITE_MEM's bytes, or the failure of its host access (R93, R285, R288). -/
theorem writeMem_posts (h : cmdStarts s shoe seq l 0x05 lv b) : Runs (.writeMem shoe seq l) s fun t =>
    othersStay s t shoe seq ∧ OnlyParts [.dl, .out] s t ∧
      (hostOk s (fnOf shoe) (field b 8 8) (writeMemBytes s b).length = true →
        t.out = s.out ++ [.hostWrite (fnOf shoe) (field b 8 8) (writeMemBytes s b)] ∧ levelOf t shoe seq l = some (cmdDone lv b)) ∧
      (hostOk s (fnOf shoe) (field b 8 8) (writeMemBytes s b).length = false → t.out = s.out ∧ itemFails t shoe seq 0x0411) := by
  obtain ⟨-, -, -, -, -, -, -, -, hl⟩ := nextCmd_some h.2.1
  refine ⟨runWriteMem s shoe seq l lv.pc b, by rw [writeMem_runs shoe seq l s h.1, gate_starts h rfl, withCmd_starts h], ?_⟩
  cases hok : hostOk s (fnOf shoe) (field b 8 8) (writeMemBytes s b).length with
  | true =>
    let u := s.emit (.hostWrite (fnOf shoe) (field b 8 8) (writeMemBytes s b))
    have hrun : runWriteMem s shoe seq l lv.pc b = doneCmd u shoe seq l lv.pc b := by
      simp only [runWriteMem, postHost, hok, if_true, u]
    have hdone := doneCmd_only u shoe seq l lv.pc b
    rw [hrun]
    exact ⟨others_doneCmd u _ _ _ _ _, ((emit_only s _).sub rfl).trans (hdone.sub rfl),
      fun _ => ⟨hdone .out (by decide), levelOf_doneCmd (s := u) b hl⟩, fun hno => (nomatch hno)⟩
  | false =>
    have hrun : runWriteMem s shoe seq l lv.pc b = failAt s shoe seq l lv.pc 0x0411 := by
      simp only [runWriteMem, hok, Bool.false_eq_true, if_false]
    have hfail := failAt_only s shoe seq l lv.pc 0x0411 0
    rw [hrun]
    exact ⟨others_failAt _ _ _ _ _ _ _, hfail.sub rfl, fun hno => (nomatch hno),
      fun _ => ⟨hfail .out (by decide), fails_of_next h.2.1 rfl _ _ _⟩⟩

/-- WAIT_MEM's first read (R99). -/
theorem waitMem_reads (h : cmdStarts s shoe seq l 0x04 lv b) : Runs (.waitMem shoe seq l) s fun t =>
    othersStay s t shoe seq ∧ OnlyParts [.dl, .out] s t ∧
      (hostOk s (fnOf shoe) (field b 8 8) (waitMemLen b) = true → t.out = s.out ++ [.hostRead (fnOf shoe) (field b 8 8) (waitMemLen b)] ∧
        ∃ lv', levelOf t shoe seq l = some lv' ∧ lv'.pc = lv.pc + cmdSize b ∧ activeAt lv' lv.pc (.waitMem true)) ∧
      (hostOk s (fnOf shoe) (field b 8 8) (waitMemLen b) = false → t.out = s.out ∧ itemFails t shoe seq 0x0411) := by
  let u := heldCmd s shoe seq l lv.pc b (.waitMem false)
  have hu : OnlyParts [.dl] s u := heldCmd_only _ _ _ _ _ _ _
  have hout : u.out = s.out := hu .out (by decide)
  obtain ⟨hothers, hissue, hfail⟩ := waitMemRead_spec (memWaiting_held h (.waitMem false)) b
  rw [hostOk_heldCmd] at hissue hfail
  refine ⟨waitMemRead u shoe seq l lv.pc b, by rw [waitMem_runs shoe seq l s h.1, gate_starts h rfl, withCmd_starts h],
    (others_heldCmd _ _ _ _ _ _ _).trans hothers, (hu.sub rfl).trans (waitMemRead_only _ _ _ _ _ _), fun hok => ?_, fun hno => ?_⟩
  · obtain ⟨ho, lv', h1, h2, -, h3⟩ := hissue hok
    exact ⟨ho.trans (by rw [← hout]), lv', h1, h2, h3⟩
  · obtain ⟨ho, hf⟩ := hfail hno
    exact ⟨ho.trans hout, hf⟩

end Starts

section Runs

variable {s : State} {shoe seq l g : Nat} {lv : Level} {a : Active} {b : List Byte} (h : cmdRuns s shoe seq l g lv a b)
include h

/-- A WAIT_MEM that waits for its next read reads again (R99). -/
theorem waitMemPoll_reads (ha : a.st = .waitMem false) (hr : s.redealing = false) : Runs (.waitMemPoll shoe seq l g) s fun t =>
    othersStay s t shoe seq ∧ OnlyParts [.dl, .out] s t ∧
      (hostOk s (fnOf shoe) (field b 8 8) (waitMemLen b) = true → t.out = s.out ++ [.hostRead (fnOf shoe) (field b 8 8) (waitMemLen b)] ∧
        ∃ lv', levelOf t shoe seq l = some lv' ∧ lv'.pc = lv.pc ∧ activeAt lv' g (.waitMem true)) ∧
      (hostOk s (fnOf shoe) (field b 8 8) (waitMemLen b) = false → t.out = s.out ∧ itemFails t shoe seq 0x0411) := by
  obtain ⟨hothers, hissue, hfail⟩ := waitMemRead_spec (memWaiting_runs h) b
  refine ⟨waitMemRead s shoe seq l g b, ?_, hothers, waitMemRead_only _ _ _ _ _ _, fun hok => ?_, hfail⟩
  · simp only [waitMemPoll_runs shoe seq l g s h.1, waitMemPoll, h.2, ha, hr, Bool.false_eq_true, not_false_eq_true, and_self, if_true]
  · obtain ⟨ho, lv', h1, h2, -, h3⟩ := hissue hok
    exact ⟨ho, lv', h1, h2, h3⟩

variable (ha : a.st = .waitMem true ∨ a.st = .waitMemRung)
include ha

theorem waitMemReturn_error : waitMemReturn s shoe seq l g .err = failAt (aerLog s) shoe seq l g 0x0411 := by
  simp only [waitMemReturn, h.2, if_pos ha]
  rfl

theorem waitMemReturn_value (bs : List Byte) : waitMemReturn s shoe seq l g (.ok bs) =
    if waitMemHolds b (leNat (bytesAt bs 0 (waitMemLen b))) then completeCmd s shoe seq l g
    else if a.st = .waitMemRung ∧ ¬ s.redealing then waitMemRead s shoe seq l g b
    else setActive s shoe seq l g (.waitMem false) := by
  simp only [waitMemReturn, h.2, if_pos ha]
  rfl

/-- A WAIT_MEM's read has returned with a value (R99). -/
theorem waitMemReturn_value_spec (bs : List Byte) :
    let t := waitMemReturn s shoe seq l g (.ok bs)
    let waits := fun st => ∃ lv', levelOf t shoe seq l = some lv' ∧ lv'.pc = lv.pc ∧ lv'.events = lv.events ∧ activeAt lv' g (.waitMem st)
    othersStay s t shoe seq ∧ OnlyParts [.dl, .out] s t ∧
      (waitMemHolds b (leNat (bytesAt bs 0 (waitMemLen b))) = true → levelOf t shoe seq l = some (cmdEnded lv g) ∧ t.out = s.out) ∧
      (waitMemHolds b (leNat (bytesAt bs 0 (waitMemLen b))) = false →
        (a.st = .waitMem true ∨ s.redealing = true → waits false ∧ t.out = s.out) ∧
        (a.st = .waitMemRung → s.redealing = false →
          (hostOk s (fnOf shoe) (field b 8 8) (waitMemLen b) = true → waits true ∧ t.out = s.out ++ [.hostRead (fnOf shoe) (field b 8 8) (waitMemLen b)]) ∧
          (hostOk s (fnOf shoe) (field b 8 8) (waitMemLen b) = false → itemFails t shoe seq 0x0411 ∧ t.out = s.out))) := by
  dsimp only
  rw [waitMemReturn_value h ha]
  have hw := memWaiting_runs h
  cases waitMemHolds b (leNat (bytesAt bs 0 (waitMemLen b))) with
  | true =>
    rw [if_pos rfl]
    exact ⟨others_completeCmd _ _ _ _ _, (completeCmd_only _ _ _ _ _).sub rfl, fun _ => ⟨by rw [levelOf_completeCmd, hw.1]; rfl, rfl⟩,
      fun hno => (nomatch hno)⟩
  | false =>
    rw [if_neg Bool.false_ne_true]
    by_cases hrung : a.st = .waitMemRung ∧ ¬ s.redealing = true
    · rw [if_pos hrung]
      obtain ⟨hothers, hissue, hfail⟩ := waitMemRead_spec hw b
      refine ⟨hothers, waitMemRead_only _ _ _ _ _ _, fun hno => (nomatch hno), fun _ => ⟨?_, fun _ _ => ⟨fun hok => (hissue hok).symm, fun hno => (hfail hno).symm⟩⟩⟩
      rintro (hst | hre)
      · exact nomatch hrung.1.symm.trans hst
      · exact absurd hre hrung.2
    · rw [if_neg hrung]
      exact ⟨others_setActive _ _ _ _ _ _, (setActive_only _ _ _ _ _ _).sub rfl, fun hno => (nomatch hno),
        fun _ => ⟨fun _ => ⟨memWaiting_set hw _, rfl⟩, fun hst hre => absurd ⟨hst, by simp [hre]⟩ hrung⟩⟩

/-- A WAIT_MEM's read has failed (R99, R289). -/
theorem waitMemReturn_error_spec : let t := waitMemReturn s shoe seq l g .err
    othersStay s t shoe seq ∧ itemFails t shoe seq 0x0411 ∧ t.pcie = (aerLog s).pcie ∧ t.out = s.out := by
  dsimp only
  rw [waitMemReturn_error h ha]
  have hfail := failAt_only (aerLog s) shoe seq l g 0x0411 0
  exact ⟨others_failAt (aerLog s) _ _ _ _ _ _, fails_of_active (t := aerLog s) h.2 rfl _ _ _, hfail .pcie (by decide), hfail .out (by decide)⟩

end Runs

/-- Settles O21: a command that starts is done, posts its write or issues its read (R92, R93, R99), and a WAIT_MEM that runs reads again or
takes what its read returns (R99, R289). -/
theorem plainDeckCommands : Obligations.PlainDeckCommands := by
  intro s shoe seq l
  refine ⟨fun lv b h => nop_done h, fun lv b h => ?_, fun lv b h => waitMem_reads h, fun g lv a b h ha hr => waitMemPoll_reads h ha hr,
    fun g lv a b h ha r => ?_⟩
  · have hbytes : writeMemBytes s b = if bits (field b 6 1) 1 2 = 0 then leBytes (if bit (field b 6 1) 0 then 8 else 4) (field b 0x10 8)
        else if bits (field b 6 1) 1 2 = 1 then leBytes 8 (beatStamp s) else leBytes 8 (s.now / 1000) := by
      unfold writeMemBytes
      split <;> simp_all
    exact hbytes ▸ writeMem_posts h
  · refine ⟨_, waitMemReadReturn_runs shoe seq l g r s h.1, ?_⟩
    cases r with
    | err =>
      obtain ⟨hothers, hspec⟩ := waitMemReturn_error_spec h ha
      exact ⟨hothers, (waitMemReturn_moves s shoe seq l g .err (Moves.refl 524424 s) rfl).only (covers_spec rfl), fun _ => hspec, fun _ hr => nomatch hr⟩
    | ok bs =>
      obtain ⟨hothers, honly, hspec⟩ := waitMemReturn_value_spec h ha bs
      refine ⟨hothers, honly.sub rfl, fun hr => (nomatch hr), fun bs' hr => ?_⟩
      cases hr
      exact ⟨honly .pcie (by decide), hspec⟩

end Sys2Proof
end

section
/-! SUPPORT. Writes of a shoe's registers, the ledger's lookup and moderation (R102, R104, R106 to R108, R127, R299, R361). -/

namespace Sys2Proof

open Machine

theorem modDl_only (s : State) (f : Dealer → Dealer) : OnlyParts [.dl] s (s.modDl f) := by
  intro p hp
  cases p with
  | dl => exact absurd (by decide) hp
  | _ => rfl

theorem modShoe_only (s : State) (n : Nat) (f : Shoe → Shoe) : OnlyParts [.dl] s (s.modShoe n f) := modDl_only s _

theorem shoeWrite_lt {s : State} {n o : Nat} (h : shoeWrite s n o) : n < 9 := h.1.1

/-- An interrupt is raised beside what the Dealer holds. -/
theorem raiseSource_modDl (s : State) (n src : Nat) (f : Dealer → Dealer) : raiseSource (s.modDl f) n src = (raiseSource s n src).modDl f := by
  simp only [raiseSource, raiseVector, apply_ite (State.modDl · f)]
  rfl

/-! The values of the control registers' writes: enable is bit 31, the size stands below it. -/

theorem size_enabled (v : Nat) {w : Nat} (hw : w ≤ 31) : bits (v % 2 ^ 31 + 2 ^ 31) 0 w = bits v 0 w := by
  rw [bits_low hw, Nat.mod_mod_of_dvd _ (Nat.pow_dvd_pow 2 hw), bits, Nat.pow_zero, Nat.div_one]

theorem size_disabled (v : Nat) {w : Nat} (hw : w ≤ 31) : bits (v % 2 ^ 31) 0 w = bits v 0 w := by
  rw [bits, bits, Nat.pow_zero, Nat.div_one, Nat.div_one, Nat.mod_mod_of_dvd _ (Nat.pow_dvd_pow 2 hw)]

theorem enable_bit (v : Nat) : bit (v % 2 ^ 31 + 2 ^ 31) 31 = true := bit_top (Nat.mod_lt _ (by decide))

/-! The ring. -/

section Ring

variable {s : State} {n : Nat} (v : Nat)

theorem shoeDoorbell_rings (h : shoeReg s n 0x18) : Runs (.shoeDoorbell n v) s fun t => ShoeFlow
    (if bits v 0 12 < 2 ^ (s.shoe n).sizeLog2 then { s.shoe n with produce := bits v 0 12 } else { s.shoe n with configError := true }) (t.shoe n) :=
  ⟨_, by rw [shoeDoorbell_runs, viaShoe_pos h], ringBell_flow s v h.1⟩

theorem writeFetch_shoe (h : n < 9) : (writeFetch s n v).shoe n =
    if 2 ^ (s.shoe n).sizeLog2 ≤ bits v 0 12 then { s.shoe n with configError := true }
    else if (s.shoe n).enable then s.shoe n else { s.shoe n with fetch := bits v 0 12 } := by
  unfold writeFetch
  dsimp only
  split_ifs with hbad hen
  · rw [shoe_modShoe_same _ _ h]
  · rfl
  · rw [shoe_modShoe_same _ _ h]

theorem shoeFetchWrite_moves_fetch (h : shoeWrite s n 0x20) : Runs (.shoeFetchWrite n v) s fun t => OnlyParts [.dl] s t ∧ t.dl.items = s.dl.items ∧
    t.shoe n = if 2 ^ (s.shoe n).sizeLog2 ≤ bits v 0 12 then { s.shoe n with configError := true }
      else if (s.shoe n).enable then s.shoe n else { s.shoe n with fetch := bits v 0 12 } := by
  refine ⟨writeFetch s n v, by rw [shoeFetchWrite_runs n v s h.2, viaShoe_pos h.1],
    (writeFetch_moves s n v (Moves.refl 128 s) rfl).only (covers_spec rfl), ?_, writeFetch_shoe v (shoeWrite_lt h)⟩
  unfold writeFetch
  dsimp only
  split_ifs <;> rfl

end Ring

/-! The score sheet. -/

section Sheet

variable {s : State} {n : Nat} (v : Nat)

theorem sheetConsumedWrite_refused (h : shoeWrite s n 0x58) (hv : 2 ^ (s.shoe n).sheetSizeLog2 ≤ bits v 0 16) :
    exec (.sheetConsumedWrite n v) s = .next (s.modShoe n fun h => { h with configError := true }) := by
  rw [sheetConsumedWrite_runs n v s h.2, viaShoe_pos h.1, writeConsumed]
  exact congrArg Host.Outcome.next (if_pos hv)

theorem sheetConsumedWrite_resumes (h : shoeWrite s n 0x58) (hv : bits v 0 16 < 2 ^ (s.shoe n).sheetSizeLog2) :
    Runs (.sheetConsumedWrite n v) s fun t => ShoeFlow { s.shoe n with consumed := bits v 0 16 } (t.shoe n) ∧ OnlyParts [.dl, .out, .cl, .fns] s t := by
  have hw : writeConsumed s n v = writeOutcomes (s.modShoe n fun h => { h with consumed := bits v 0 16 }) n := if_neg (Nat.not_le.2 hv)
  refine ⟨writeConsumed s n v, by rw [sheetConsumedWrite_runs n v s h.2, viaShoe_pos h.1], ?_,
    (writeConsumed_moves s n v (Moves.refl 1224 s) rfl).only (covers_spec rfl)⟩
  have hf := writeOutcomes_flow (s.modShoe n fun h => { h with consumed := bits v 0 16 }) n n
  rwa [shoe_modShoe_same _ _ (shoeWrite_lt h), ← hw] at hf

theorem sheetEnable_starts (h : shoeWrite s n 0x50) : Runs (.sheetEnable n v) s fun t => OnlyParts [.dl] s t ∧ t.dl.items = s.dl.items ∧
    let size := if (s.shoe n).enable then (s.shoe n).sheetSizeLog2 else bits v 0 5
    t.shoe n = if (s.shoe n).sheetEnable then { s.shoe n with sheetSizeLog2 := size }
      else { s.shoe n with sheetSizeLog2 := size, sheetEnable := true, sheetProduce := 0, sheetPhase := true } := by
  refine ⟨writeSheetCtrl s n (v % 2 ^ 31 + 2 ^ 31), by rw [sheetEnable_runs n v s h.2, viaShoe_pos h.1], modShoe_only _ _ _, rfl, ?_⟩
  rw [writeSheetCtrl, shoe_modShoe_same _ _ (shoeWrite_lt h)]
  generalize s.shoe n = x
  simp only [enable_bit, size_enabled v (show 5 ≤ 31 by decide), Bool.true_and]
  by_cases hs : x.sheetEnable = true
  · by_cases he : x.enable = true <;> simp [hs, he]
  · by_cases he : x.enable = true <;> simp [hs, he]

end Sheet

/-! Enabling and disabling (R107). -/

section Enable

variable {s : State} {n : Nat} (v : Nat)

/-- Disabling clears enable and resume_wait; a disabled shoe takes the size. -/
theorem shoeDisable_shoe (h : shoeWrite s n 0x08) : Runs (.shoeDisable n v) s fun t =>
    (t.shoe n = if (s.shoe n).enable then { s.shoe n with enable := false, resumeWait := false } else { s.shoe n with sizeLog2 := bits v 0 4 }) ∧
      OnlyParts [.dl] s t := by
  refine ⟨disableShoe s n (v % 2 ^ 31), by rw [shoeDisable_runs n v s h.2, viaShoe_pos h.1], ?_, modShoe_only _ _ _⟩
  rw [disableShoe, shoe_modShoe_same _ _ (shoeWrite_lt h), size_disabled v (show 4 ≤ 31 by decide)]

/-- A write that enables an enabled shoe changes nothing. -/
theorem shoeEnable_enabled (feeds : List (Nat × HostResp × HostResp)) (h : shoeWrite s n 0x08) (he : (s.shoe n).enable = true) :
    exec (.shoeEnable n v feeds) s = .next s := by
  have hs : enableShoe s n (v % 2 ^ 31 + 2 ^ 31) = s := if_pos he
  rw [shoeEnable_runs n v feeds s h.2, viaShoe_pos h.1, shoeEnable]
  simp only [hs, he, Bool.not_true, Bool.false_eq_true, and_false, if_false]

/-- The disabled shoe n with the size that a write gives it. -/
def sizedShoe (s : State) (n v : Nat) : State := s.modShoe n fun h => { h with sizeLog2 := bits v 0 4 }

theorem enableShoe_disabled (he : (s.shoe n).enable = false) : enableShoe s n (v % 2 ^ 31 + 2 ^ 31) =
    if !enableOk (sizedShoe s n v) n then (sizedShoe s n v).modShoe n fun h => { h with configError := true }
    else if s.redealing then ((sizedShoe s n v).modShoe n fun h => { h with enable := true }).modShoe n fun h => { h with resumeWait := true }
    else startShoe ((sizedShoe s n v).modShoe n fun h => { h with enable := true }) n := by
  simp only [enableShoe, he, Bool.false_eq_true, if_false, size_enabled v (show 4 ≤ 31 by decide)]
  rfl

/-- A refused configuration sets config_error and nothing else (R107). -/
theorem shoeEnable_refused (feeds : List (Nat × HostResp × HostResp)) (h : shoeWrite s n 0x08) (he : (s.shoe n).enable = false)
    (hok : enableOk (sizedShoe s n v) n = false) :
    exec (.shoeEnable n v feeds) s = .next ((sizedShoe s n v).modShoe n fun h => { h with configError := true }) := by
  have hs : enableShoe s n (v % 2 ^ 31 + 2 ^ 31) = (sizedShoe s n v).modShoe n fun h => { h with configError := true } := by
    rw [enableShoe_disabled v he, hok]
    rfl
  have hstill : (((sizedShoe s n v).modShoe n fun h => { h with configError := true }).shoe n).enable = false := by
    rw [shoe_modShoe_same _ _ (shoeWrite_lt h), sizedShoe, shoe_modShoe_same _ _ (shoeWrite_lt h)]
    exact he
  rw [shoeEnable_runs n v feeds s h.2, viaShoe_pos h.1, shoeEnable]
  simp only [hs, hstill, Bool.false_eq_true, false_and, and_false, if_false]

/-- An accepted one enables the shoe, which waits in a redeal and else reports what stood (R105, R107). -/
theorem enableShoe_flow (hn : n < 9) (he : (s.shoe n).enable = false) (hok : enableOk (sizedShoe s n v) n = true) :
    ShoeFlow { s.shoe n with sizeLog2 := bits v 0 4, enable := true, resumeWait := s.redealing || (s.shoe n).resumeWait }
      ((enableShoe s n (v % 2 ^ 31 + 2 ^ 31)).shoe n) := by
  have hsized : (sizedShoe s n v).shoe n = { s.shoe n with sizeLog2 := bits v 0 4 } := shoe_modShoe_same _ _ hn
  rw [enableShoe_disabled v he, hok, Bool.not_true, if_neg Bool.false_ne_true]
  cases hr : s.redealing with
  | true =>
    rw [if_pos rfl, shoe_modShoe_same _ _ hn, shoe_modShoe_same _ _ hn, hsized]
    exact .refl _
  | false =>
    rw [if_neg Bool.false_ne_true, Bool.false_or, startShoe]
    refine ShoeFlow.trans ?_ (writeOutcomes_flow _ n n)
    rw [shoe_modShoe_same _ _ hn, shoe_modShoe_same _ _ hn, hsized]
    rfl

theorem shoeEnable_accepted (feeds : List (Nat × HostResp × HostResp)) (h : shoeWrite s n 0x08) (he : (s.shoe n).enable = false)
    (hok : enableOk (sizedShoe s n v) n = true) : ∃ u, OnlyParts [.dl, .out, .cl, .fns] s u ∧
      ShoeFlow { s.shoe n with sizeLog2 := bits v 0 4, enable := true, resumeWait := s.redealing || (s.shoe n).resumeWait } (u.shoe n) ∧
      exec (.shoeEnable n v feeds) s = .next (if n < 8 then
          qpsRun (u.modNet fun x => { x with qps := x.qps.map fun q => if q.claim = n then { q with heldForShoe := false } else q }) n feeds
        else u) := by
  have hf := enableShoe_flow v (shoeWrite_lt h) he hok
  have hen : ((enableShoe s n (v % 2 ^ 31 + 2 ^ 31)).shoe n).enable = true := congrArg Shoe.enable hf
  refine ⟨enableShoe s n (v % 2 ^ 31 + 2 ^ 31), (enableShoe_moves s n _ (Moves.refl 1224 s) rfl).only (covers_spec rfl), hf, ?_⟩
  rw [shoeEnable_runs n v feeds s h.2, viaShoe_pos h.1, shoeEnable]
  simp only [hen, he, Bool.not_false, and_self, and_true]

end Enable

/-! The ledger's lookup (R127) and moderation (R106). -/

theorem ldgLookup_reports (s : State) (n : Nat) (h : (regAt s 0 (ldgOff 0x18)).isSome = true) (hw : writesWait s = false) :
    Runs (.ldgLookup n) s fun t => OnlyParts [.dl] s t ∧ t.dl = { s.dl with lookup := t.dl.lookup } ∧
      t.dl.lookup.done = true ∧ t.dl.lookup.shoe = n % 16 ∧ (t.dl.lookup.found = true ↔ (findItem s (n % 16) s.dl.lookup.seq).isSome = true) ∧
      ∀ i, findItem s (n % 16) s.dl.lookup.seq = some i → t.dl.lookup.state = i.st.code ∧
        (i.st = .resolved → t.dl.lookup.cause = i.out.cause ∧ t.dl.lookup.failOffset = i.out.failOffset) ∧ (i.st ≠ .resolved → t.dl.lookup.cause = 0) := by
  refine ⟨ledgerLookup s (n % 16), by rw [ldgLookup_runs n s hw, viaReg_pos h], modDl_only _ _, ?_⟩
  simp only [ledgerLookup, State.modDl_dl]
  cases hi : findItem s (n % 16) s.dl.lookup.seq with
  | none =>
    rw [show s.dl.items.find? _ = none from hi]
    exact ⟨rfl, rfl, rfl, by simp, fun _ hno => nomatch hno⟩
  | some i =>
    rw [show s.dl.items.find? _ = some i from hi]
    refine ⟨rfl, rfl, rfl, by simp, fun j hj => ?_⟩
    cases hj
    exact ⟨rfl, fun hr => ⟨if_pos hr, if_pos hr⟩, fun hr => if_neg hr⟩

theorem moderationTimeout_idle {s : State} {n : Nat} (hd : diesUp s = true) (h : (s.shoe n).modItems = 0 ∨ (s.shoe n).modDelay = 0) :
    exec (.moderationTimeout n) s = .next s := by
  rw [moderationTimeout_runs n s hd, moderationEnds, if_pos h]

/-- The end of a moderation delay raises source 0 and clears the count. -/
theorem moderationTimeout_raises {s : State} {n : Nat} (hd : diesUp s = true) (hn : n < 9) (hk : 0 < (s.shoe n).modItems)
    (hdelay : (s.shoe n).modDelay ≠ 0) : Runs (.moderationTimeout n) s fun t => t.shoe n = { s.shoe n with modItems := 0 } ∧
      t.fns = (raiseSource s n 0).fns ∧ OnlyParts [.dl, .out, .fns] s t := by
  have hgo : ¬ ((s.shoe n).modItems = 0 ∨ (s.shoe n).modDelay = 0) := by omega
  refine ⟨_, by rw [moderationTimeout_runs n s hd, moderationEnds, if_neg hgo], ?_, ?_, ?_⟩
  · have hdl := raiseSource_dl (s.modShoe n fun h => { h with modItems := 0 }) n 0
    rw [State.shoe, hdl]
    exact shoe_modShoe_same _ _ hn
  · rw [State.modShoe, raiseSource_modDl]
    rfl
  · exact ((modShoe_only s n _).sub rfl).trans ((raiseSource_moves _ n 0 (Moves.refl 1032 _) rfl).only (covers_spec rfl))

/-- Settles O26: each register by the lemma about its write (R102, R104, R107, R108, R299, R361), the lookup (R127) and the end of a
moderation delay (R106). -/
theorem shoeRegisters : Obligations.ShoeRegisters := by
  intro s n v
  refine ⟨shoeDoorbell_rings v, shoeFetchWrite_moves_fetch v, fun h => ⟨sheetConsumedWrite_refused v h, sheetConsumedWrite_resumes v h⟩,
    sheetEnable_starts v, fun h feeds => ⟨fun he => ⟨shoeEnable_enabled v feeds h he, ?_⟩,
      fun he => ⟨?_, shoeEnable_refused v feeds h he, shoeEnable_accepted v feeds h he⟩⟩, ldgLookup_reports s n,
    fun hd hn => ⟨moderationTimeout_idle hd, moderationTimeout_raises hd hn⟩⟩
  · simpa only [he, if_true] using shoeDisable_shoe v h
  · simpa only [he, Bool.false_eq_true, if_false] using shoeDisable_shoe v h

end Sys2Proof
end

section
/-! SUPPORT. The fetch of an entry (R88, R285, R288). -/

namespace Sys2Proof

open Machine

section Fetch

variable {s : State} {n : Nat}

/-- R88's conditions are among those of the Dealer's fetch. -/
theorem mayFetch_conditions (h : mayFetch s n = true) : (s.shoe n).fetch ≠ (s.shoe n).produce ∧
    (n < 8 → (itemsOf s n).length < (s.claim n).ledgerQuota) ∧ deckRoom s n ∧ (s.shoe n).enable = true ∧ s.boot.dev ≠ .redealing := by
  simp only [mayFetch, ledgerRoom, Bool.and_eq_true, Bool.or_eq_true, decide_eq_true_eq] at h
  obtain ⟨⟨⟨⟨⟨⟨⟨⟨⟨hen, -⟩, hdev⟩, -⟩, hne⟩, -, hquota⟩, hdecks⟩, -⟩, -⟩, -⟩ := h
  refine ⟨hne, fun hn => hquota.resolve_left (Nat.not_le.2 hn), hdecks, hen, ?_⟩
  rcases hdev with hdev | hdev <;> simp [hdev]

/-- The entry takes the next sequence number, and its item joins the ledger (R88). -/
def entryTaken (s : State) (n : Nat) : State :=
  (s.modShoe n fun h => { h with nextSeq := h.nextSeq + 1 }).modDl fun d => { d with items := d.items ++ [{ shoe := n, seq := (s.shoe n).nextSeq }] }

/-- The read of the entry at SHOE_FETCH.index, where it lies in a host window (R285). -/
def entryReads (s : State) (n : Nat) : List Output :=
  if winOk s (fnOf n) (64 * (s.shoe n).base + 64 * (s.shoe n).fetch) 64 then
    [.hostRead (fnOf n) (64 * (s.shoe n).base + 64 * (s.shoe n).fetch) 64] else []

theorem fetchEntry_takes (h : mayFetch s n = true) :
    fetchEntry s n = updateLedgerFull { entryTaken s n with out := s.out ++ entryReads s n } n := by
  rw [fetchEntry, if_pos h]
  have hwin : winOk (entryTaken s n) (fnOf n) (64 * (s.shoe n).base + 64 * (s.shoe n).fetch) 64 =
      winOk s (fnOf n) (64 * (s.shoe n).base + 64 * (s.shoe n).fetch) 64 := rfl
  change updateLedgerFull (if winOk (entryTaken s n) _ _ _ then _ else entryTaken s n) n = _
  rw [hwin, entryReads]
  split
  · rfl
  · rw [List.append_nil]
    rfl

/-- The Dealer fetches the next entry in ring order (R88). -/
theorem shoeFetchEntry_fetches (hd : diesUp s = true) (hn : n < 9) (h : mayFetch s n = true) : Runs (.shoeFetchEntry n) s fun t =>
    t.shoe n = { s.shoe n with nextSeq := (s.shoe n).nextSeq + 1 } ∧ t.dl.items = s.dl.items ++ [{ shoe := n, seq := (s.shoe n).nextSeq }] ∧
      (∃ ys, t.out = s.out ++ entryReads s n ++ ys) ∧ OnlyParts [.dl, .out, .cl, .fns] s t := by
  refine ⟨fetchEntry s n, shoeFetchEntry_runs n s hd, ?_⟩
  have honly : OnlyParts [.dl, .out, .cl, .fns] s (fetchEntry s n) := (fetchEntry_moves s n (Moves.refl 1224 s) rfl).only (covers_spec rfl)
  rw [fetchEntry_takes h] at honly ⊢
  have hdl := updateLedgerFull_dl { entryTaken s n with out := s.out ++ entryReads s n } n
  refine ⟨?_, ?_, (updateLedgerFull_moves _ n (Moves.refl 1096 _) rfl).sent, honly⟩
  · rw [State.shoe, hdl]
    exact shoe_modShoe_same _ _ hn
  · rw [hdl]
    rfl

/-- Where it may not fetch, at most ledger_full changes (R68). -/
theorem shoeFetchEntry_waits (hd : diesUp s = true) (h : mayFetch s n = false) :
    Runs (.shoeFetchEntry n) s fun t => t.dl = s.dl ∧ OnlyParts [.out, .cl, .fns] s t := by
  refine ⟨updateLedgerFull s n, ?_, updateLedgerFull_dl s n, (updateLedgerFull_moves s n (Moves.refl 1096 s) rfl).only (covers_spec rfl)⟩
  rw [shoeFetchEntry_runs n s hd, fetchEntry, h, if_neg Bool.false_ne_true]

end Fetch

/-- Settles O27: the fetch of an entry, its conditions, and a fetch that must wait (R88). -/
theorem entryFetch : Obligations.EntryFetch :=
  fun _ _ hd hn => ⟨shoeFetchEntry_fetches hd hn, mayFetch_conditions, shoeFetchEntry_waits hd⟩

end Sys2Proof
end

section
/-! SUPPORT. An item from its entry's reads to its commit (R86, R89, R96, R97, R124, R125, R285, R289, R444). -/

namespace Sys2Proof

open Machine

/-! What the reads of an entry leave (R89). -/

/-- A read or its error comes before the entry is passed. -/
theorem entryPassed.after {s u t : State} {n q : Nat} {f : Item → Item} (hu : OnlyParts [.out, .pcie] s u) (h : entryPassed u t n q f) :
    entryPassed s t n q f := by
  obtain ⟨hshoe, hitem, hothers, honly⟩ := h
  have hdl : u.dl = s.dl := hu .dl (by decide)
  have hitems : u.dl.items = s.dl.items := congrArg Dealer.items hdl
  refine ⟨?_, hitem.trans (by rw [findItem_congr hitems]), (othersStay.of_items hitems).trans hothers, (hu.sub rfl).trans honly⟩
  simpa only [State.shoe, hdl] using hshoe

/-- The entry is passed, and its item, which takes the entry's fields, becomes g of itself. -/
theorem entryPassed_read {s u : State} {n q : Nat} {g : Item → Item} (e : List Byte) (hu : OnlyParts [.out, .pcie] s u) (hn : n < 9)
    (hg : ∀ i, (g i).shoe = i.shoe ∧ (g i).seq = i.seq) :
    entryPassed s ((passEntry (u.modItem n q (entryRead e)) n).modItem n q g) n q (fun i => g (entryRead e i)) :=
  (entryPassed_fail (s := u) (f := entryRead e) hn (fun _ => ⟨rfl, rfl⟩) hg).after hu

/-- A command that passes an entry and sends what its deck's read sends. -/
def passesEntry (c : Instr) (s : State) (n q : Nat) (f : Item → Item) (outs : List Output) : Prop :=
  Runs c s fun t => entryPassed s t n q f ∧ t.out = s.out ++ outs

/-- The checks of the code of an entry of bytes e, from the state after its reads (R93 to R95, R444). -/
def codeChecked (n q : Nat) (e : List Byte) (u : State) (code : List Byte) : State :=
  match checkLevel (placeOf n (decide (entryType e = 1)) (fLaneMode (entryFlags e))) (countsOf u n).1 (countsOf u n).2 code with
  | some (cause, g) => faultAtFetch (passEntry u n) n q (checkOutcome code 0 cause g) (decide (entryType e = 1) && decide (n < 8))
  | none => (passEntry u n).modItem n q fun i =>
      { i with st := .queued, levels := [{ id := 0, bytes := if decide (entryType e = 1) then code else code.take (16 * cmdSize code) }] }

/-- What follows an entry's read and, if it names one, its deck's. -/
def entryDecided (n q : Nat) (e : List Byte) (r : State × Option (List Byte)) : State :=
  match r with
  | (u, none) => faultAtFetch (passEntry u n) n q (bareOutcome 0x0105) false
  | (u, some code) => codeChecked n q e u code

section Fetching

variable {s : State} {n : Nat} {i : Item} {entry deck : HostResp} (h : fetching s n i)
include h

theorem deckReadComplete_is {t : State} (ht : deckRead s n entry deck = t) : exec (.deckReadComplete n entry deck) s = .next t := by
  rw [deckReadComplete_runs n entry deck s h.1, ht]

/-- An entry outside the window, or read with an error, fails the item (R285, R289). -/
theorem entry_unread (hn : n < 9) (hbad : winOk s (fnOf n) (64 * (s.shoe n).base + 64 * (s.shoe n).fetch) 64 = false ∨ entry = .err) :
    passesEntry (.deckReadComplete n entry deck) s n i.seq (checkFailed 0x0105) [] := by
  have hpass : ∀ u, OnlyParts [.out, .pcie] s u → u.out = s.out → deckRead s n entry deck = (passEntry u n).modItem n i.seq (checkFailed 0x0105) →
      passesEntry (.deckReadComplete n entry deck) s n i.seq (checkFailed 0x0105) [] := fun u hu ho hrun =>
    ⟨_, deckReadComplete_is h hrun, (entryPassed_bare (g := checkFailed 0x0105) hn fun _ => ⟨rfl, rfl⟩).after hu, by rw [List.append_nil]; exact ho⟩
  cases hwin : winOk s (fnOf n) (64 * (s.shoe n).base + 64 * (s.shoe n).fetch) 64 with
  | false =>
    refine hpass s (.refl _ _) rfl ?_
    simp only [deckRead, h.2, hwin, Bool.not_false, if_true]
    rfl
  | true =>
    obtain rfl : entry = .err := hbad.resolve_left (by simp [hwin])
    refine hpass (aerLog s) (((aerLog_moves s (Moves.refl 524288 s) rfl).only (covers_spec rfl) : OnlyParts [.pcie] s _).sub rfl) rfl ?_
    simp only [deckRead, h.2, hwin, Bool.not_true, Bool.false_eq_true, if_false]
    rfl

section Seen

variable {bs e : List Byte} (hseen : winOk s (fnOf n) (64 * (s.shoe n).base + 64 * (s.shoe n).fetch) 64 = true) (he : e = bytesAt bs 0 64)
include hseen he

/-- What the read of an entry of bytes e does: R444's checks in order, from the item that has the entry's fields. -/
theorem deckRead_seen : deckRead s n (.ok bs) deck =
    let s1 := s.modItem n i.seq (entryRead e)
    let isDeck := decide (entryType e = 1)
    if !entryOk e then faultAtFetch (passEntry s1 n) n i.seq (bareOutcome 0x0101) false
    else if isDeck && !winOk s (fnOf n) (entryAddr e) (entryLen e) then faultAtFetch (passEntry s1 n) n i.seq (bareOutcome 0x0104) false
    else if isDeck && !canIssue s (fnOf n) then s
    else entryDecided n i.seq e (if isDeck then readHost s1 (fnOf n) (entryAddr e) (entryLen e) deck else (s1, some (entryCmd e))) := by
  subst he
  simp only [deckRead, h.2, hseen, Bool.not_true, Bool.false_eq_true, if_false, entryDecided, codeChecked] <;> rfl

variable (hn : n < 9)
include hn

theorem entry_malformed (hok : entryOk e = false) :
    passesEntry (.deckReadComplete n (.ok bs) deck) s n i.seq (fun i => checkFailed 0x0101 (entryRead e i)) [] := by
  refine ⟨_, deckReadComplete_is h ((deckRead_seen h hseen he).trans (if_pos (by simp [hok]))),
    entryPassed_read e (.refl _ _) hn fun _ => ⟨rfl, rfl⟩, (List.append_nil _).symm⟩

variable (hok : entryOk e = true)
include hok

theorem deck_outside (hdeck : entryType e = 1) (hwin : winOk s (fnOf n) (entryAddr e) (entryLen e) = false) :
    passesEntry (.deckReadComplete n (.ok bs) deck) s n i.seq (fun i => checkFailed 0x0104 (entryRead e i)) [] := by
  have hrun := deckRead_seen (deck := deck) h hseen he
  simp only [hok, hdeck, hwin, Bool.not_true, Bool.not_false, Bool.false_eq_true, if_false, decide_true, Bool.and_self, if_true] at hrun
  exact ⟨_, deckReadComplete_is h hrun, entryPassed_read e (.refl _ _) hn fun _ => ⟨rfl, rfl⟩, (List.append_nil _).symm⟩

omit hn in
/-- A function that may not issue the deck's read has it wait (R288). -/
theorem deck_waits (hdeck : entryType e = 1) (hwin : winOk s (fnOf n) (entryAddr e) (entryLen e) = true)
    (hissue : canIssue s (fnOf n) = false) : exec (.deckReadComplete n (.ok bs) deck) s = .next s := by
  have hrun := deckRead_seen (deck := deck) h hseen he
  simp only [hok, hdeck, hwin, hissue, Bool.not_true, Bool.not_false, Bool.false_eq_true, if_false, decide_true, Bool.and_self, Bool.and_false, if_true] at hrun
  exact deckReadComplete_is h hrun

omit hn in
/-- Past the checks of the window and the function, the reads decide. -/
theorem deckRead_decides (hread : entryType e = 1 → hostOk s (fnOf n) (entryAddr e) (entryLen e) = true) : deckRead s n (.ok bs) deck =
    entryDecided n i.seq e (if entryType e = 1 then readHost (s.modItem n i.seq (entryRead e)) (fnOf n) (entryAddr e) (entryLen e) deck
      else (s.modItem n i.seq (entryRead e), some (entryCmd e))) := by
  have hrun := deckRead_seen (deck := deck) h hseen he
  by_cases hdeck : entryType e = 1
  · obtain ⟨hissue, hwin⟩ := Bool.and_eq_true_iff.1 (hread hdeck)
    simpa only [hok, hdeck, hwin, hissue, Bool.not_true, Bool.false_eq_true, if_false, decide_true, Bool.and_false, if_true] using hrun
  · simpa only [hok, hdeck, Bool.not_true, Bool.false_eq_true, if_false, decide_false, Bool.false_and] using hrun

theorem deck_unread (hdeck : entryType e = 1) (hread : hostOk s (fnOf n) (entryAddr e) (entryLen e) = true) (herr : deck = .err) :
    passesEntry (.deckReadComplete n (.ok bs) deck) s n i.seq (fun i => checkFailed 0x0105 (entryRead e i))
      [.hostRead (fnOf n) (entryAddr e) (entryLen e)] := by
  subst herr
  have hrun := deckRead_decides (deck := .err) h hseen he hok fun _ => hread
  rw [if_pos hdeck] at hrun
  let u := aerLog (s.emit (.hostRead (fnOf n) (entryAddr e) (entryLen e)))
  have hu : OnlyParts [.out, .pcie] s u := ((emit_only s _).sub rfl).trans ((aerLog_moves _ (Moves.refl 524288 _) rfl).only (covers_spec rfl))
  exact ⟨_, deckReadComplete_is h hrun, entryPassed_read (u := u) e hu hn fun _ => ⟨rfl, rfl⟩, rfl⟩

/-- The code of an entry has been read: the checks of its commands decide (R93 to R95, R444). -/
theorem entry_checked {code : List Byte}
    (hdeck : entryType e = 1 → hostOk s (fnOf n) (entryAddr e) (entryLen e) = true ∧ ∃ d, deck = .ok d ∧ code = bytesAt d 0 (entryLen e))
    (hsingle : entryType e ≠ 1 → code = entryCmd e) :
    let isDeck := decide (entryType e = 1)
    let reads := if isDeck then [Output.hostRead (fnOf n) (entryAddr e) (entryLen e)] else []
    let check := checkLevel (placeOf n isDeck (fLaneMode (entryFlags e))) (countsOf s n).1 (countsOf s n).2 code
    (∀ cause g, check = some (cause, g) → passesEntry (.deckReadComplete n (.ok bs) deck) s n i.seq
      (fun i => if isDeck && decide (n < 8) then { entryRead e i with st := .queued, held := some (checkOutcome code 0 cause g) }
        else { entryRead e i with st := .resolved, out := checkOutcome code 0 cause g }) reads) ∧
    (check = none → passesEntry (.deckReadComplete n (.ok bs) deck) s n i.seq
      (fun i => { entryRead e i with st := .queued, levels := [{ id := 0, bytes := if isDeck then code else code.take (16 * cmdSize code) }] }) reads) := by
  dsimp only
  generalize hreads : (if decide (entryType e = 1) then [Output.hostRead (fnOf n) (entryAddr e) (entryLen e)] else []) = reads
  have hrun := deckRead_decides (deck := deck) h hseen he hok fun hd => (hdeck hd).1
  obtain ⟨u, hu, ho, hc, hread⟩ : ∃ u : State, OnlyParts [.out, .pcie] s u ∧ u.out = s.out ++ reads ∧ countsOf u n = countsOf s n ∧
      (if entryType e = 1 then readHost (s.modItem n i.seq (entryRead e)) (fnOf n) (entryAddr e) (entryLen e) deck
        else (s.modItem n i.seq (entryRead e), some (entryCmd e))) = (u.modItem n i.seq (entryRead e), some code) := by
    by_cases hd : entryType e = 1
    · obtain ⟨-, d, rfl, rfl⟩ := hdeck hd
      refine ⟨s.emit (.hostRead (fnOf n) (entryAddr e) (entryLen e)), (emit_only s _).sub rfl, ?_, rfl, if_pos hd⟩
      rw [← hreads, if_pos (by simpa using hd)]
      rfl
    · refine ⟨s, .refl _ _, ?_, rfl, by rw [if_neg hd, hsingle hd]⟩
      rw [← hreads, if_neg (by simpa using hd), List.append_nil]
  rw [hread] at hrun
  have hcode : entryDecided n i.seq e (u.modItem n i.seq (entryRead e), some code) = codeChecked n i.seq e (u.modItem n i.seq (entryRead e)) code := rfl
  rw [hcode, codeChecked, show countsOf (u.modItem n i.seq (entryRead e)) n = countsOf s n from hc] at hrun
  refine ⟨fun cause g hcheck => ?_, fun hcheck => ?_⟩
  · rw [hcheck] at hrun
    refine ⟨_, deckReadComplete_is h hrun, ?_⟩
    dsimp only [faultAtFetch]
    cases decide (entryType e = 1) && decide (n < 8) with
    | true => exact ⟨entryPassed_read e hu hn fun _ => ⟨rfl, rfl⟩, ho⟩
    | false => exact ⟨entryPassed_read e hu hn fun _ => ⟨rfl, rfl⟩, ho⟩
  · rw [hcheck] at hrun
    exact ⟨_, deckReadComplete_is h hrun, entryPassed_read e hu hn fun _ => ⟨rfl, rfl⟩, ho⟩

end Seen

end Fetching

/-! The start of an item (R97, R125) and its commit (R124). -/

/-- A shoe that is served changes whose turn comes next in its class, and nothing else (R125). -/
theorem served_eq (s : State) (n : Nat) :
    served s n = if n < 8 then s.modDl fun d => { d with lastServed := tset d.lastServed (effClass s n) n } else s := rfl

theorem served_items (s : State) (n : Nat) : (served s n).dl.items = s.dl.items := by
  rw [served_eq]
  split <;> rfl

theorem served_only (s : State) (n : Nat) : OnlyParts [.dl] s (served s n) :=
  (served_moves s n (Moves.refl 128 s) rfl).only (covers_spec rfl)

theorem modItem_only (s : State) (n q : Nat) (f : Item → Item) : OnlyParts [.dl] s (s.modItem n q f) := modDl_only s _

section Start

variable {s : State} {n : Nat} {i : Item} (hi : nextItem s n = some i) (hr : mayRedeal s = true) (hp : s.power.level = 0)
  (hh : shoeHalted s n = false) (ht : turnNow s n = true)
include hi hr hp hh ht

omit hi in
theorem startItem_guard : (!mayRedeal s || decide (s.power.level ≠ 0) || shoeHalted s n || !turnNow s n) = false := by simp [hr, hp, hh, ht]

/-- The item that may start runs (R97). -/
theorem itemStart_runsItem (hd : diesUp s = true) (hheld : i.held = none) : Runs (.itemStart n) s fun t =>
    findItem t n i.seq = (findItem s n i.seq).map (fun j => { j with st := .running }) ∧ othersStay s t n i.seq ∧
      t.dl.lastServed = (served s n).dl.lastServed ∧ OnlyParts [.dl] s t := by
  have hgo : startItem s n = (served s n).modItem n i.seq fun i => { i with st := .running } := by
    simp only [startItem, hi, startItem_guard hr hp hh ht, Bool.false_eq_true, if_false, hheld]
  refine ⟨_, (itemStart_runs n s hd).trans (congrArg _ hgo), ?_, ?_, rfl, (served_only s n).trans (modItem_only _ _ _ _)⟩
  · rw [modItem_self (f := fun i => { i with st := .running }) fun _ => ⟨rfl, rfl⟩, findItem_congr (served_items s n)]
  · exact (othersStay.of_items (served_items s n)).trans (.modItem _ fun _ => ⟨rfl, rfl⟩)

/-- Its held fault starts a redeal instead (R96, R97). -/
theorem itemStart_faults (hd : diesUp s = true) {o : Outcome} (hheld : i.held = some o) :
    exec (.itemStart n) s = .next (deckFault n i.seq o (served s n)) := by
  simp only [itemStart_runs n s hd, startItem, hi, startItem_guard hr hp hh ht, Bool.false_eq_true, if_false, hheld]

end Start

/-- An item whose last command has completed is COMMITTED with its note (R124, R162). -/
theorem itemCommit_commits {s : State} {n q : Nat} {i : Item} {lv : Level} (hd : diesUp s = true) (hi : findItem s n q = some i)
    (hrun : i.st = .running) (hlv : i.levels = [lv]) (hend : lv.bytes.length / 16 ≤ lv.pc) (hact : lv.active = []) (hloops : lv.loops = []) :
    Runs (.itemCommit n q) s fun t =>
      findItem t n q = some { i with st := .committed, levels := [], out := { cause := i.note, detail := i.noteDetail } } ∧
        othersStay s t n q ∧ OnlyParts [.dl] s t := by
  have hdone : i.done = true := by simp [Item.done, hrun, hlv, Level.total, hend, hact, hloops]
  have hgo : commitItem s n q = s.modItem n q fun i => { i with st := .committed, levels := [], out := { cause := i.note, detail := i.noteDetail } } := by
    simp only [commitItem, hi, hdone, if_true]
  refine ⟨_, (itemCommit_runs n q s hd).trans (congrArg _ hgo), ?_, .modItem _ fun _ => ⟨rfl, rfl⟩, modItem_only _ _ _ _⟩
  rw [modItem_self (f := fun i => { i with st := .committed, levels := [], out := { cause := i.note, detail := i.noteDetail } }) fun _ => ⟨rfl, rfl⟩, hi]
  rfl

/-- Settles O28: the reads of an entry and its deck by the check that fails or by what follows them (R89, R96, R285, R289, R444), the start of an
item (R97, R125) and its commit (R124). -/
theorem entryReadStartCommit : Obligations.EntryReadStartCommit := by
  intro s n hn
  refine ⟨fun i entry deck hf => ⟨entry_unread hf hn, fun bs hseen he => ?_⟩, fun i hd hi hr hp hh ht => ⟨?_, fun o => ?_⟩,
    fun q i lv hd hi hrun hlv hend hact hloops => itemCommit_commits hd hi hrun hlv hend hact hloops⟩
  · subst he
    refine ⟨entry_malformed hf hseen rfl hn, fun hok hdeck hwin => ?_, fun hok hdeck hwin hissue => ?_, fun hok hdeck hread herr => ?_,
      fun code hok hdeck hsingle => ?_⟩
    · exact deck_outside hf hseen rfl hn hok (of_decide_eq_true hdeck) hwin
    · exact deck_waits hf hseen rfl hok (of_decide_eq_true hdeck) hwin hissue
    · exact deck_unread hf hseen rfl hn hok (of_decide_eq_true hdeck) hread herr
    · exact entry_checked hf hseen rfl hn hok (fun h => hdeck (decide_eq_true h)) (fun h => hsingle (decide_eq_false h))
  · exact itemStart_runsItem hi hr hp hh ht hd
  · exact itemStart_faults hi hr hp hh ht hd

end Sys2Proof
end

section
/-! SUPPORT. A shoe's outcomes: their order, their room and the scorecard (R102 to R106, R124). -/

namespace Sys2Proof

open Machine

/-! What an interrupt leaves of host accesses. -/

/-- A reading that a change of one entry leaves alone is the same for every entry. -/
theorem proj_tmod {α β : Type} [Inhabited α] {k : Nat} (v : Vector α k) (i j : Nat) {f : α → α} {g : α → β} (hg : ∀ x, g (f x) = g x) :
    g (tget (tmod v i f) j) = g (tget v j) := by
  by_cases hij : i = j
  · subst hij
    by_cases hi : i < k
    · rw [tget_tmod_same v f hi, hg]
    · simp only [tget, Vector.getElem?_eq_none (Nat.not_lt.1 hi)]
  · rw [tget_tmod_ne v f hij]

/-- A pending vector changes no host access. -/
theorem hostOk_raiseSource (s : State) (n src fn a len : Nat) : hostOk (raiseSource s n src) fn a len = hostOk s fn a len := by
  have hmod : ∀ m v, hostOk (s.modFn m fun f => { f with vecs := tmod f.vecs v fun x => { x with pending := true } }) fn a len = hostOk s fn a len := by
    intro m v
    exact proj_tmod s.fns m fn (g := fun f : Fn => f.busMaster && !f.d3hot && f.wins.toList.any fun w =>
      w.valid && decide (w.base * 4096 ≤ a) && decide (a + len ≤ w.limit * 4096 + 4096)) fun _ => rfl
  unfold raiseSource raiseVector
  dsimp only
  split_ifs
  · rfl
  · exact hmod _ _
  · rfl

theorem postHost_out (s : State) (fn a : Nat) (bs : List Byte) :
    (postHost s fn a bs).out = s.out ++ if hostOk s fn a bs.length then [.hostWrite fn a bs] else [] := by
  unfold postHost
  split
  · rfl
  · exact (List.append_nil _).symm

theorem hostOk_postHost (s : State) (fn a : Nat) (bs : List Byte) (fn' a' len : Nat) : hostOk (postHost s fn a bs) fn' a' len = hostOk s fn' a' len := by
  unfold postHost
  split <;> rfl

/-! The ledger with a shoe's fixed outcomes RESOLVED (Table 6.1). -/

@[simp] theorem settleOne_shoe (n : Nat) (i : Item) : (settleOne n i).shoe = i.shoe := by unfold settleOne; split <;> rfl
@[simp] theorem settleOne_seq (n : Nat) (i : Item) : (settleOne n i).seq = i.seq := by unfold settleOne; split <;> rfl
@[simp] theorem settleOne_flags (n : Nat) (i : Item) : (settleOne n i).flags = i.flags := by unfold settleOne; split <;> rfl
@[simp] theorem settleOne_out (n : Nat) (i : Item) : (settleOne n i).out = i.out := by unfold settleOne; split <;> rfl
@[simp] theorem settleOne_userTag (n : Nat) (i : Item) : (settleOne n i).userTag = i.userTag := by unfold settleOne; split <;> rfl
@[simp] theorem recordDue_settleOne (n : Nat) (i : Item) : recordDue (settleOne n i) = recordDue i := by simp [recordDue]
@[simp] theorem sheetRecord_settleOne (n : Nat) (i : Item) (p : Bool) : sheetRecord (settleOne n i) p = sheetRecord i p := by simp [sheetRecord]

@[simp] theorem settleOne_fixed (n : Nat) (i : Item) : (settleOne n i).fixed = i.fixed := by
  unfold settleOne
  split
  · rename_i h
    simp [Item.fixed, h.2]
  · rfl

theorem itemsOf_fixOutcomes (s : State) (n : Nat) : itemsOf (fixOutcomes s n) n = (itemsOf s n).map (settleOne n) := by
  have hkey : (fun i : Item => i.shoe == n) ∘ settleOne n = fun i => i.shoe == n := funext fun i => by simp
  change (s.dl.items.map (settleOne n)).filter (·.shoe == n) = _
  rw [List.filter_map, hkey, itemsOf]

theorem dueWaits_fixOutcomes (s : State) (n : Nat) : dueWaits (fixOutcomes s n) n = dueWaits s n := by
  have hfixed : Item.fixed ∘ settleOne n = Item.fixed := funext (settleOne_fixed n)
  have hdue : recordDue ∘ settleOne n = recordDue := funext (recordDue_settleOne n)
  rw [dueWaits, itemsOf_fixOutcomes, List.takeWhile_map, List.any_map, hfixed, hdue, dueWaits]

theorem scoreOf_fixOutcomes (s : State) (n : Nat) : scoreOf (fixOutcomes s n) n = scoreOf s n := by
  unfold scoreOf
  rw [itemsOf_fixOutcomes]
  cases itemsOf s n with
  | nil => rfl
  | cons i rest => exact congrArg (· - 1) (settleOne_seq n i)

/-! One pass over the outcomes. -/

/-- A record that is due is written, and its item leaves the ledger (R102, R104). -/
def outcomePassed (u : State) (n : Nat) (i : Item) : State :=
  (if recordDue i then writeSheet u n i else u).modDl fun d => { d with items := d.items.filter fun j => !(j.shoe == n && j.seq == i.seq) }

section Pass

variable {u : State} {n : Nat}

theorem reportItems_empty (h : itemsOf u n = []) (fuel hi k : Nat) (q : Bool) : reportItems n (fuel + 1) u hi k q = (holdSheet u n, hi, k, q) := by
  simp only [reportItems, h]

theorem reportItems_held {i : Item} {rest : List Item} (h : itemsOf u n = i :: rest) (hb : i.fixed = false ∨ outcomeHeld u n i = true)
    (fuel hi k : Nat) (q : Bool) : reportItems n (fuel + 1) u hi k q = (holdSheet u n, hi, k, q) := by
  have hb : (!i.fixed || outcomeHeld u n i) = true := by rcases hb with hb | hb <;> simp [hb]
  simp only [reportItems, h, if_pos hb]

theorem reportItems_reports {i : Item} {rest : List Item} (h : itemsOf u n = i :: rest) (hf : i.fixed = true) (hb : outcomeHeld u n i = false)
    (fuel hi k : Nat) (q : Bool) :
    reportItems n (fuel + 1) u hi k q = reportItems n fuel (outcomePassed u n i) i.seq (k + 1) (q || fIrqNow i.flags) := by
  simp only [reportItems, h, hf, hb, Bool.not_true, Bool.or_self, Bool.false_eq_true, if_false, outcomePassed]

/-- A shoe whose sheet has moved past a record, back to its start where w. -/
def sheetMoved (w : Bool) (h : Shoe) : Shoe :=
  { h with sheetProduce := if w then 0 else h.sheetProduce + 1, sheetPhase := if w then !h.sheetPhase else h.sheetPhase }

/-- The record of an item is posted at the sheet's produce index, and the sheet moves past it. -/
def recordPosted (u : State) (n : Nat) (i : Item) : State :=
  (postHost u (fnOf n) (32 * (u.shoe n).sheetBase + 32 * (u.shoe n).sheetProduce) (sheetRecord i (u.shoe n).sheetPhase)).modShoe n
    (sheetMoved (decide ((u.shoe n).sheetProduce + 1 = 2 ^ (u.shoe n).sheetSizeLog2)))

theorem writeSheet_eq (u : State) (n : Nat) (i : Item) :
    writeSheet u n i = if i.out.failed then raiseSource (recordPosted u n i) n 1 else recordPosted u n i := rfl

theorem writeSheet_dl (u : State) (n : Nat) (i : Item) : (writeSheet u n i).dl = (recordPosted u n i).dl := by
  rw [writeSheet_eq]
  split
  · exact raiseSource_dl _ _ _
  · rfl

theorem recordPosted_shoes (u : State) (n : Nat) (i : Item) : (recordPosted u n i).dl.shoes =
    tmod u.dl.shoes n (sheetMoved (decide ((u.shoe n).sheetProduce + 1 = 2 ^ (u.shoe n).sheetSizeLog2))) := by
  rw [recordPosted, State.modShoe, State.modDl_dl, postHost_dl]

theorem writeSheet_scoreDue (u : State) (n : Nat) (i : Item) : ((writeSheet u n i).shoe n).scoreDue = (u.shoe n).scoreDue := by
  rw [State.shoe, writeSheet_dl, recordPosted_shoes]
  exact proj_tmod u.dl.shoes n n (g := Shoe.scoreDue) fun _ => rfl

theorem hostOk_recordPosted (u : State) (n : Nat) (i : Item) (fn a len : Nat) : hostOk (recordPosted u n i) fn a len = hostOk u fn a len :=
  hostOk_postHost u _ _ _ fn a len

theorem hostOk_writeSheet (u : State) (n : Nat) (i : Item) (fn a len : Nat) : hostOk (writeSheet u n i) fn a len = hostOk u fn a len := by
  rw [writeSheet_eq]
  split
  · rw [hostOk_raiseSource, hostOk_recordPosted]
  · exact hostOk_recordPosted u n i fn a len

/-- A record that its window takes is the first thing sent. -/
theorem writeSheet_out {u : State} {n : Nat} {i : Item}
    (hok : hostOk u (fnOf n) (32 * (u.shoe n).sheetBase + 32 * (u.shoe n).sheetProduce) 32 = true) : ∃ ys, (writeSheet u n i).out =
      u.out ++ [.hostWrite (fnOf n) (32 * (u.shoe n).sheetBase + 32 * (u.shoe n).sheetProduce) (sheetRecord i (u.shoe n).sheetPhase)] ++ ys := by
  have hlen : (sheetRecord i (u.shoe n).sheetPhase).length = 32 := by simp only [sheetRecord, List.length_append, leBytes_length, List.length_singleton]
  have hpost : (recordPosted u n i).out =
      u.out ++ [.hostWrite (fnOf n) (32 * (u.shoe n).sheetBase + 32 * (u.shoe n).sheetProduce) (sheetRecord i (u.shoe n).sheetPhase)] := by
    rw [recordPosted, State.modShoe, State.modDl_out, postHost_out, hlen, hok]
    rfl
  rw [writeSheet_eq, ← hpost]
  split
  · exact (raiseSource_moves _ n 1 (Moves.refl 1032 _) rfl).sent
  · exact ⟨[], (List.append_nil _).symm⟩

theorem outcomePassed_scoreDue (u : State) (n : Nat) (i : Item) : ((outcomePassed u n i).shoe n).scoreDue = (u.shoe n).scoreDue := by
  change ((if recordDue i then writeSheet u n i else u).shoe n).scoreDue = _
  split
  · exact writeSheet_scoreDue u n i
  · rfl

theorem holdSheet_scoreDue (u : State) (n : Nat) : ((holdSheet u n).shoe n).scoreDue = (u.shoe n).scoreDue :=
  proj_tmod u.dl.shoes n n (g := Shoe.scoreDue) fun _ => rfl

/-- A pass counts what it reports, and leaves a scorecard that is owed as it is (R103). -/
theorem reportItems_counts (n fuel : Nat) (u : State) (hi k : Nat) (q : Bool) :
    k ≤ (reportItems n fuel u hi k q).2.2.1 ∧ ((reportItems n fuel u hi k q).1.shoe n).scoreDue = (u.shoe n).scoreDue := by
  induction fuel generalizing u hi k q with
  | zero => exact ⟨Nat.le_refl _, rfl⟩
  | succ fuel ih =>
    cases hitems : itemsOf u n with
    | nil =>
      rw [reportItems_empty hitems]
      exact ⟨Nat.le_refl _, holdSheet_scoreDue u n⟩
    | cons i rest =>
      by_cases hb : i.fixed = false ∨ outcomeHeld u n i = true
      · rw [reportItems_held hitems hb]
        exact ⟨Nat.le_refl _, holdSheet_scoreDue u n⟩
      · obtain ⟨hf, hh⟩ : i.fixed = true ∧ outcomeHeld u n i = false := by simpa using hb
        obtain ⟨hk, hdue⟩ := ih (outcomePassed u n i) i.seq (k + 1) (q || fIrqNow i.flags)
        rw [reportItems_reports hitems hf hh]
        exact ⟨Nat.le_of_succ_le hk, hdue.trans (outcomePassed_scoreDue u n i)⟩

end Pass

/-! OUTCOME_WRITE. -/

theorem outcomeWrite_writes {s : State} {n : Nat} (hd : diesUp s = true) : exec (.outcomeWrite n none) s = .next (writeOutcomes s n) :=
  outcomeWrite_runs n none s hd

theorem writeOutcomes_only (s : State) (n : Nat) : OnlyParts [.dl, .out, .cl, .fns] s (writeOutcomes s n) :=
  (writeOutcomes_moves s n (Moves.refl 1224 s) rfl).only (covers_spec rfl)

/-- What is left of a write of the outcomes where nothing is reported: of the shoe only sheet_hold changes (R104). -/
theorem outcomes_wait {s : State} {n : Nat} (hd : diesUp s = true) (hn : n < 9) (hw : writeOutcomes s n = holdSheet (fixOutcomes s n) n) :
    Runs (.outcomeWrite n none) s fun t =>
      t.shoe n = { s.shoe n with sheetHold := ((itemsOf s n).takeWhile Item.fixed).any recordDue } ∧ t.dl.items = settledItems s n ∧
        OnlyParts [.dl] s t := by
  refine ⟨_, (outcomeWrite_writes hd).trans (congrArg _ hw), ?_, rfl, (modDl_only s _).trans (modShoe_only _ _ _)⟩
  rw [holdSheet, shoe_modShoe_same _ _ hn, dueWaits_fixOutcomes]
  rfl

/-- Nothing is reported where the oldest item has not ended, or is held. -/
theorem reportItems_nothing {s : State} {n : Nat} (hb : ∀ i rest, itemsOf s n = i :: rest → i.fixed = false ∨ outcomeHeld (fixOutcomes s n) n (settleOne n i) = true)
    (fuel : Nat) : reportItems n (fuel + 1) (fixOutcomes s n) 0 0 false = (holdSheet (fixOutcomes s n) n, 0, 0, false) := by
  cases hitems : itemsOf s n with
  | nil => exact reportItems_empty (by rw [itemsOf_fixOutcomes, hitems]; rfl) _ _ _ _
  | cons i rest =>
    refine reportItems_held (i := settleOne n i) (rest := rest.map (settleOne n)) (by rw [itemsOf_fixOutcomes, hitems]; rfl) ?_ _ _ _ _
    rw [settleOne_fixed]
    exact hb i rest hitems

/-- A scorecard write that passes items (R103, R106). -/
def scored (w : State) (n v k : Nat) (q : Bool) : State := updateLedgerFull (moderate (writeScore w n v) n k q) n

theorem moderate_score (w : State) (n k : Nat) (q : Bool) : ((moderate w n k q).shoe n).lastScore = (w.shoe n).lastScore ∧
    ((moderate w n k q).shoe n).scoreDue = (w.shoe n).scoreDue := by
  have hmod : ∀ x : Nat, (((w.modShoe n fun h => { h with modItems := x }).shoe n).lastScore, ((w.modShoe n fun h => { h with modItems := x }).shoe n).scoreDue) =
      ((w.shoe n).lastScore, (w.shoe n).scoreDue) := fun x =>
    proj_tmod w.dl.shoes n n (f := fun h => { h with modItems := x }) (g := fun h : Shoe => (h.lastScore, h.scoreDue)) fun _ => rfl
  unfold moderate
  dsimp only
  split
  · rw [State.shoe, raiseSource_dl]
    exact Prod.mk.inj (hmod 0)
  · exact Prod.mk.inj (hmod _)

theorem scored_shoe {w : State} {n : Nat} (hn : n < 9) (v k : Nat) (q : Bool) :
    ((scored w n v k q).shoe n).lastScore = v ∧ ((scored w n v k q).shoe n).scoreDue = false := by
  have hscore : (writeScore w n v).shoe n = { w.shoe n with lastScore := v, scoreDue := false } := by
    rw [writeScore, shoe_modShoe_same _ _ hn, State.shoe, postHost_dl]
    rfl
  have hmod := moderate_score (writeScore w n v) n k q
  rwa [scored, State.shoe, updateLedgerFull_dl, ← State.shoe, hscore] at *

theorem scored_items (w : State) (n v k : Nat) (q : Bool) : (scored w n v k q).dl.items = w.dl.items := by
  rw [scored, updateLedgerFull_dl, moderate_items, writeScore_items]

theorem scored_out (w : State) (n v k : Nat) (q : Bool) : ∃ ys, (scored w n v k q).out = w.out ++
    (if hostOk w (fnOf n) (8 * (w.shoe n).scorecard) 8 then [.hostWrite (fnOf n) (8 * (w.shoe n).scorecard) (leBytes 8 v)] else []) ++ ys := by
  have hpost : (writeScore w n v).out = w.out ++
      if hostOk w (fnOf n) (8 * (w.shoe n).scorecard) 8 then [.hostWrite (fnOf n) (8 * (w.shoe n).scorecard) (leBytes 8 v)] else [] := by
    rw [writeScore, State.modShoe, State.modDl_out, postHost_out, leBytes_length]
  rw [← hpost]
  exact (updateLedgerFull_moves _ n (moderate_moves _ n k q (Moves.refl 1224 _) rfl) rfl).sent

section Active

variable {s : State} {n : Nat} (hs : (s.shoe n).sheetActive = true) (hc : canIssue s (fnOf n) = true)
include hs hc

/-- With the sheet enabled and requests allowed, what a pass has reported is followed by the scorecard (R103). -/
theorem writeOutcomes_active : writeOutcomes s n =
    let u := fixOutcomes s n
    let r := reportItems n ((itemsOf u n).length + 1) u 0 0 false
    if (r.1.shoe n).scoreDue then updateLedgerFull (moderate (writeScore r.1 n (scoreOf r.1 n)) n r.2.2.1 r.2.2.2) n
    else if r.2.2.1 = 0 then r.1
    else updateLedgerFull (moderate (writeScore r.1 n r.2.1) n r.2.2.1 r.2.2.2) n :=
  if_pos ⟨hs, hc⟩

theorem writeOutcomes_nothing (hdue : (s.shoe n).scoreDue = false)
    (hb : ∀ i rest, itemsOf s n = i :: rest → i.fixed = false ∨ outcomeHeld (fixOutcomes s n) n (settleOne n i) = true) :
    writeOutcomes s n = holdSheet (fixOutcomes s n) n := by
  have hstill : ((holdSheet (fixOutcomes s n) n).shoe n).scoreDue = false := (holdSheet_scoreDue _ n).trans hdue
  rw [writeOutcomes_active hs hc]
  simp only [reportItems_nothing hb, hstill, Bool.false_eq_true, if_false, if_true]

/-- A scorecard that is owed is written where no outcome is (R103, log entry 44). -/
theorem writeOutcomes_scores (hdue : (s.shoe n).scoreDue = true) (hb : ∀ i rest, itemsOf s n = i :: rest → i.fixed = false) :
    writeOutcomes s n = scored (holdSheet (fixOutcomes s n) n) n (scoreOf s n) 0 false := by
  have hstill : ((holdSheet (fixOutcomes s n) n).shoe n).scoreDue = true := (holdSheet_scoreDue _ n).trans hdue
  have hscore : scoreOf (holdSheet (fixOutcomes s n) n) n = scoreOf s n := by
    refine Eq.trans ?_ (scoreOf_fixOutcomes s n)
    unfold scoreOf
    cases hitems : itemsOf (fixOutcomes s n) n with
    | nil =>
      rw [show itemsOf (holdSheet (fixOutcomes s n) n) n = [] from hitems]
      exact congrArg (· - 1) (proj_tmod (fixOutcomes s n).dl.shoes n n (g := Shoe.nextSeq) fun _ => rfl)
    | cons i rest => rw [show itemsOf (holdSheet (fixOutcomes s n) n) n = i :: rest from hitems]
  rw [writeOutcomes_active hs hc]
  simp only [reportItems_nothing fun i rest h => .inl (hb i rest h), hstill, if_true, hscore]
  rfl

end Active

theorem hostOk_of_issue {s : State} {fn : Nat} (hc : canIssue s fn = true) (a len : Nat) : hostOk s fn a len = winOk s fn a len := by
  rw [hostOk, hc, Bool.true_and]

/-- The scorecard that is owed (R103). -/
theorem outcomeWrite_scores {s : State} {n : Nat} (hd : diesUp s = true) (hn : n < 9) (hs : (s.shoe n).sheetActive = true)
    (hc : canIssue s (fnOf n) = true) (hdue : (s.shoe n).scoreDue = true) (hb : ∀ i rest, itemsOf s n = i :: rest → i.fixed = false) :
    Runs (.outcomeWrite n none) s fun t => (t.shoe n).lastScore = scoreOf s n ∧ (t.shoe n).scoreDue = false ∧ t.dl.items = settledItems s n ∧
      OnlyParts [.dl, .out, .cl, .fns] s t ∧ (winOk s (fnOf n) (8 * (s.shoe n).scorecard) 8 = true →
        Output.hostWrite (fnOf n) (8 * (s.shoe n).scorecard) (leBytes 8 (scoreOf s n)) ∈ t.out) := by
  have hw := writeOutcomes_scores hs hc hdue hb
  refine ⟨_, outcomeWrite_writes hd, ?_⟩
  have honly := writeOutcomes_only s n
  rw [hw] at honly ⊢
  obtain ⟨hlast, hnone⟩ := scored_shoe (w := holdSheet (fixOutcomes s n) n) hn (scoreOf s n) 0 false
  refine ⟨hlast, hnone, scored_items _ _ _ _ _, honly, fun hwin => ?_⟩
  obtain ⟨ys, hout⟩ := scored_out (holdSheet (fixOutcomes s n) n) n (scoreOf s n) 0 false
  have hcard : ((holdSheet (fixOutcomes s n) n).shoe n).scorecard = (s.shoe n).scorecard :=
    proj_tmod (fixOutcomes s n).dl.shoes n n (g := Shoe.scorecard) fun _ => rfl
  have hok : hostOk (holdSheet (fixOutcomes s n) n) (fnOf n) (8 * (s.shoe n).scorecard) 8 = true := (hostOk_of_issue hc _ _).trans hwin
  rw [hout, hcard, hok, if_pos rfl]
  simp

theorem outcomeHeld_settleOne (s : State) (n : Nat) (i : Item) : outcomeHeld (fixOutcomes s n) n (settleOne n i) = outcomeHeld s n i := by
  simp only [outcomeHeld, recordDue_settleOne, settleOne_seq]
  rfl

/-- An outcome is held where its record finds no room, or is left of a shoe not yet enabled again (R104, R105). -/
theorem outcomeHeld_of_issue {s : State} {n : Nat} (hc : canIssue s (fnOf n) = true) (i : Item) : outcomeHeld s n i = true ↔
    (i.seq < (s.shoe n).backlog ∧ ((s.shoe n).enable = false ∨ (s.shoe n).resumeWait = true)) ∨
      (recordDue i = true ∧ ((s.shoe n).sheetProduce + 1) % 2 ^ (s.shoe n).sheetSizeLog2 = (s.shoe n).consumed) := by
  simp [outcomeHeld, hc, Shoe.sheetFull, or_comm]

/-- What the pass over the outcomes makes of an oldest item that is reported, and the scorecard after it (R102, R103). -/
theorem writeOutcomes_reports {s : State} {n : Nat} (hs : (s.shoe n).sheetActive = true) (hc : canIssue s (fnOf n) = true)
    (hdue : (s.shoe n).scoreDue = false) {i : Item} {rest : List Item} (hitems : itemsOf s n = i :: rest) (hf : i.fixed = true)
    (hh : outcomeHeld s n i = false) : let r := reportItems n (rest.length + 1) (outcomePassed (fixOutcomes s n) n (settleOne n i)) i.seq 1 (fIrqNow i.flags)
    writeOutcomes s n = scored r.1 n r.2.1 r.2.2.1 r.2.2.2 := by
  have hitems' : itemsOf (fixOutcomes s n) n = settleOne n i :: rest.map (settleOne n) := by rw [itemsOf_fixOutcomes, hitems]; rfl
  have hfirst := reportItems_reports hitems' ((settleOne_fixed n i).trans hf) ((outcomeHeld_settleOne s n i).trans hh) (rest.length + 1) 0 0 false
  rw [settleOne_seq, settleOne_flags, Bool.false_or] at hfirst
  have hlen : (itemsOf (fixOutcomes s n) n).length = rest.length + 1 := by rw [hitems', List.length_cons, List.length_map]
  intro r
  obtain ⟨hk, hscore⟩ : 1 ≤ r.2.2.1 ∧ (r.1.shoe n).scoreDue = _ := reportItems_counts n (rest.length + 1) _ i.seq 1 (fIrqNow i.flags)
  have hnone : (r.1.shoe n).scoreDue = false := hscore.trans ((outcomePassed_scoreDue _ n _).trans hdue)
  have hr : reportItems n ((itemsOf (fixOutcomes s n) n).length + 1) (fixOutcomes s n) 0 0 false = r := by rw [hlen]; exact hfirst
  rw [writeOutcomes_active hs hc]
  dsimp only
  rw [hr, hnone, if_neg Bool.false_ne_true, if_neg (by omega)]
  rfl

section Passed

variable {s : State} {n : Nat} {i : Item}

theorem outcomePassed_items : (outcomePassed (fixOutcomes s n) n (settleOne n i)).dl.items =
    (settledItems s n).filter fun j => !(j.shoe == n && j.seq == i.seq) := by
  have hkeep : (if recordDue (settleOne n i) then writeSheet (fixOutcomes s n) n (settleOne n i) else fixOutcomes s n).dl.items = settledItems s n := by
    split
    · exact writeSheet_items _ _ _
    · rfl
  rw [outcomePassed, State.modDl_dl, settleOne_seq]
  exact congrArg _ hkeep

/-- The record of a reported item is the first thing written (Table 5.7). -/
theorem outcomePassed_out (hc : canIssue s (fnOf n) = true)
    (hok : recordDue i = true → winOk s (fnOf n) (32 * (s.shoe n).sheetBase + 32 * (s.shoe n).sheetProduce) 32 = true) :
    ∃ ys, (outcomePassed (fixOutcomes s n) n (settleOne n i)).out = s.out ++ (if recordDue i then
      [.hostWrite (fnOf n) (32 * (s.shoe n).sheetBase + 32 * (s.shoe n).sheetProduce) (sheetRecord i (s.shoe n).sheetPhase)] else []) ++ ys := by
  rw [outcomePassed, State.modDl_out, recordDue_settleOne]
  by_cases hr : recordDue i = true
  · obtain ⟨ys, hys⟩ := writeSheet_out (u := fixOutcomes s n) (n := n) (i := settleOne n i) ((hostOk_of_issue hc _ _).trans (hok hr))
    rw [sheetRecord_settleOne] at hys
    rw [if_pos hr, if_pos hr]
    exact ⟨ys, hys⟩
  · rw [if_neg hr, if_neg hr]
    exact ⟨[], by simp [fixOutcomes, State.modDl]⟩

theorem outcomePassed_empty {rest : List Item} (hitems : itemsOf s n = i :: rest) (hsame : ∀ j ∈ rest, j.seq = i.seq) :
    itemsOf (outcomePassed (fixOutcomes s n) n (settleOne n i)) n = [] := by
  rw [itemsOf, outcomePassed_items, List.filter_filter, List.filter_eq_nil_iff]
  intro j hj hkey
  obtain ⟨k, hk, rfl⟩ : ∃ k ∈ s.dl.items, settleOne n k = j := List.mem_map.1 hj
  obtain ⟨hshoe, hother⟩ : k.shoe = n ∧ (k.shoe ≠ n ∨ k.seq ≠ i.seq) := by simpa using hkey
  have hseq := hother.resolve_left (not_not_intro hshoe)
  have hmem : k ∈ i :: rest := hitems ▸ List.mem_filter.2 ⟨hk, by simpa using hshoe⟩
  exact hseq ((List.mem_cons.1 hmem).elim (congrArg Item.seq) (hsame k))

theorem outcomePassed_scorecard : ((outcomePassed (fixOutcomes s n) n (settleOne n i)).shoe n).scorecard = (s.shoe n).scorecard := by
  change ((if recordDue (settleOne n i) then writeSheet (fixOutcomes s n) n (settleOne n i) else fixOutcomes s n).shoe n).scorecard = _
  split
  · rw [State.shoe, writeSheet_dl, recordPosted_shoes]
    exact proj_tmod (fixOutcomes s n).dl.shoes n n (g := Shoe.scorecard) fun _ => rfl
  · rfl

theorem hostOk_outcomePassed (fn a len : Nat) : hostOk (outcomePassed (fixOutcomes s n) n (settleOne n i)) fn a len = hostOk s fn a len := by
  change hostOk (if recordDue (settleOne n i) then writeSheet (fixOutcomes s n) n (settleOne n i) else fixOutcomes s n) fn a len = _
  split
  · exact hostOk_writeSheet _ n _ fn a len
  · rfl

end Passed

/-- The oldest outcome is reported: its record first, then the scorecard (R102, R103). -/
theorem outcomeWrite_reports {s : State} {n : Nat} (hd : diesUp s = true) (hn : n < 9) (hs : (s.shoe n).sheetActive = true)
    (hc : canIssue s (fnOf n) = true) (hdue : (s.shoe n).scoreDue = false) {i : Item} {rest : List Item} (hitems : itemsOf s n = i :: rest)
    (hf : i.fixed = true) (hh : outcomeHeld s n i = false)
    (hok : recordDue i = true → winOk s (fnOf n) (32 * (s.shoe n).sheetBase + 32 * (s.shoe n).sheetProduce) 32 = true) :
    Runs (.outcomeWrite n none) s fun t =>
      findItem t n i.seq = none ∧ (∀ j ∈ t.dl.items, j ∈ settledItems s n) ∧ OnlyParts [.dl, .out, .cl, .fns] s t ∧
      ∃ first ys, t.out = s.out ++ first ++ ys ∧
        first = (if recordDue i then [Output.hostWrite (fnOf n) (32 * (s.shoe n).sheetBase + 32 * (s.shoe n).sheetProduce) (sheetRecord i (s.shoe n).sheetPhase)] else []) ∧
        ((∀ j ∈ rest, j.seq = i.seq) → (t.shoe n).lastScore = i.seq ∧
          (winOk s (fnOf n) (8 * (s.shoe n).scorecard) 8 = true → Output.hostWrite (fnOf n) (8 * (s.shoe n).scorecard) (leBytes 8 i.seq) ∈ ys)) := by
  have hw := writeOutcomes_reports hs hc hdue hitems hf hh
  have honly := writeOutcomes_only s n
  refine ⟨_, outcomeWrite_writes hd, ?_⟩
  rw [hw] at honly ⊢
  generalize hv : outcomePassed (fixOutcomes s n) n (settleOne n i) = v at honly ⊢
  generalize hr : reportItems n (rest.length + 1) v i.seq 1 (fIrqNow i.flags) = r at honly ⊢
  obtain ⟨w, hi, k, q⟩ := r
  have hsub : ∀ j ∈ (scored w n hi k q).dl.items, j ∈ (settledItems s n).filter fun j => !(j.shoe == n && j.seq == i.seq) := by
    intro j hj
    rw [scored_items] at hj
    have hjv := reportItems_sub n (rest.length + 1) v i.seq 1 (fIrqNow i.flags) j (by rw [hr]; exact hj)
    rwa [← hv, outcomePassed_items] at hjv
  obtain ⟨ys1, hfirst⟩ := outcomePassed_out (i := i) hc hok
  have hpass : ∃ ys2, w.out = v.out ++ ys2 := by
    have hsent := (reportItems_moves n (rest.length + 1) v i.seq 1 (fIrqNow i.flags) (Moves.refl 1160 v) rfl).sent
    rwa [hr] at hsent
  obtain ⟨ys2, hpass⟩ := hpass
  obtain ⟨ys3, hscore⟩ := scored_out w n hi k q
  rw [hv] at hfirst
  refine ⟨findItem_none fun j hj hkey => ?_, fun j hj => List.mem_of_mem_filter (hsub j hj), honly, _, _,
    by rw [hscore, hpass, hfirst]; simp only [List.append_assoc]; rfl, rfl, fun hsame => ?_⟩
  · have hnot := List.of_mem_filter (hsub j hj)
    simp [hkey.1, hkey.2] at hnot
  · have hlast : reportItems n (rest.length + 1) v i.seq 1 (fIrqNow i.flags) = (holdSheet v n, i.seq, 1, fIrqNow i.flags) :=
      reportItems_empty (hv ▸ outcomePassed_empty hitems hsame) _ _ _ _
    obtain ⟨rfl, rfl, rfl, rfl⟩ : holdSheet v n = w ∧ i.seq = hi ∧ 1 = k ∧ fIrqNow i.flags = q := by simpa using hlast.symm.trans hr
    refine ⟨(scored_shoe hn _ _ _).1, fun hwin => ?_⟩
    have hheld : ((holdSheet v n).shoe n).scorecard = (v.shoe n).scorecard := proj_tmod v.dl.shoes n n (g := Shoe.scorecard) fun _ => rfl
    have hcard : ((holdSheet v n).shoe n).scorecard = (s.shoe n).scorecard := hheld.trans (hv ▸ outcomePassed_scorecard)
    have hhost : hostOk (holdSheet v n) (fnOf n) (8 * (s.shoe n).scorecard) 8 = true := by
      subst hv
      exact (hostOk_outcomePassed _ _ _).trans ((hostOk_of_issue hc _ _).trans hwin)
    rw [hcard, hhost, if_pos rfl]
    simp

/-- Settles O29: what waits, the scorecard that is owed, and the oldest outcome with its record and scorecard. -/
theorem outcomesReported : Obligations.OutcomesReported := by
  unfold Obligations.OutcomesReported
  intro s n hd hn
  dsimp only
  refine ⟨fun hidle => outcomes_wait hd hn (if_neg ?_), fun hs hc => ⟨fun hb => ⟨fun hdue => ?_, fun hdue => ?_⟩, fun i rest hitems hf hdue => ⟨fun hheld => ?_, fun hleft hroom => ?_⟩⟩⟩
  · rintro ⟨hs, hc⟩
    rcases hidle with h | h
    · exact Bool.false_ne_true (h.symm.trans hs)
    · exact Bool.false_ne_true (h.symm.trans hc)
  · exact outcomes_wait hd hn (writeOutcomes_nothing hs hc hdue fun i rest h => .inl (hb i rest h))
  · exact outcomeWrite_scores hd hn hs hc hdue hb
  · have hheld := (outcomeHeld_of_issue hc i).2 hheld
    refine outcomes_wait hd hn (writeOutcomes_nothing hs hc hdue fun j rest' h => .inr ?_)
    obtain ⟨rfl, rfl⟩ := List.cons.inj (hitems.symm.trans h)
    exact (outcomeHeld_settleOne s n i).trans hheld
  · have hh : outcomeHeld s n i = false := Bool.eq_false_iff.2 fun h =>
      ((outcomeHeld_of_issue hc i).1 h).elim hleft fun hfull => (hroom hfull.1).1 hfull.2
    exact outcomeWrite_reports hd hn hs hc hdue hitems hf hh fun hr => (hroom hr).2

end Sys2Proof
end

section
/-! SUPPORT. What starts a redeal, its walk and its end (R101, R121, R354 to R363). -/

namespace Sys2Proof

open Machine

theorem timersExpire_none {s : State} {xs : List (Nat × Nat × Nat)} (h : xs.filter (timerRuns s) = []) (us : Nat) (finish : Bool) :
    timersExpire s us xs finish = s := by
  unfold timersExpire
  rw [h]
  rfl

/-- Timers of active commands start a redeal, laid to the lowest shoe among them (R101, R354). -/
theorem timersExpire_begun {s : State} {xs : List (Nat × Nat × Nat)} (h : xs.filter (timerRuns s) ≠ []) (hr : mayRedeal s = true) (us : Nat) (finish : Bool) :
    ∃ x ∈ xs.filter (timerRuns s), (∀ y ∈ xs.filter (timerRuns s), x.1 ≤ y.1) ∧
      redealBegun s (timersExpire s us xs finish) x.2.2 x.1 finish ∧ (timersExpire s us xs finish).redeal.faultSeq = x.2.1 := by
  obtain ⟨x, hx⟩ := firstExpiry_some h
  obtain ⟨hmem, hleast⟩ := firstExpiry_spec hx
  refine ⟨x, hmem, hleast, ?_⟩
  simp only [timersExpire, hx]
  exact startRedeal_begun (s := s.modItem x.1 x.2.1 fun i => { i with activeUs := us }) hr
    { cause := x.2.2, faulting := x.1, item := some (x.1, x.2.1), detail := min (us / 1000) (2 ^ 32 - 1), expired := xs.filter (timerRuns s) } finish

theorem laneTimes_of {m : MacroInst} {lane : Nat} (hg : m.granted = true) (hc : ∃ c ∈ m.cores, c ∈ laneCores lane) : laneTimes lane m = true := by
  simpa [laneTimes, hg] using hc

/-- The bound claim of a lane in timeout is at fault (R121). -/
theorem laneExpires_begun {s : State} {lane mid n : Nat} {m : MacroInst} (hn : rtClaimOf s lane = some n) (hm : findMacro s mid = some m)
    (htimes : laneTimes lane m = true) (hs : m.stopping = false) (hh : shoeHalted s n = false) (hr : mayRedeal s = true) (finish : Bool) :
    redealBegun s (laneExpires s lane mid finish) 0x0302 n finish := by
  simp only [laneExpires, hn, hm, htimes, hs, hh, Bool.not_false, and_self, if_true]
  exact (startRedeal_begun hr _ finish).1

theorem startRedeal_refused {s : State} (h : mayRedeal s = false) (t : Trigger) (finish : Bool) : startRedeal s t finish = s :=
  if_neg (h ▸ Bool.false_ne_true)

theorem redealResume_walking {s : State} (h : s.redeal.phase = .walking) : redealResume s = s.modRedeal fun r => { r with resumeSeen := true } := by
  simp only [redealResume, h]

/-- A resume that the redeal waits for ends it (R360). -/
theorem redealResume_over {s : State} (h : s.redeal.phase = .waiting) : redealOver s (redealResume s) := by
  simp only [redealResume, h]
  exact redealEnd_over (s.modRedeal fun r => { r with resumeSeen := true })

/-- A resume is ignored where no walk runs and none has ended (R360). -/
theorem redealResume_ignored {s : State} (h : s.redeal.phase = .none ∨ s.redeal.phase = .resolving) : redealResume s = s := by
  rcases h with h | h <;> simp only [redealResume, h]

theorem not_walking {s : State} (h : s.redeal.phase = .none ∨ s.redeal.phase = .resolving) : s.redeal.phase ≠ .walking := by
  rcases h with h | h <;> simp [h]

/-- Settles O34: each trigger in turn, the walk by the phase it finds, and the bound of step 5. -/
theorem redeals : Obligations.Redeals := by
  unfold Obligations.Redeals
  intro s hd
  dsimp only
  refine ⟨fun shoe seq us others finish => ⟨fun hnone => ?_, fun hsome hr => ?_⟩, ?_, fun finish hreg hw => ⟨fun hr => ?_, fun hr => ?_⟩,
    fun hwalk => ⟨fun hseen => ?_, fun hseen => ?_, fun hreg hw => ?_⟩, fun hwait => ⟨fun hreg hw => ?_, ?_⟩,
    fun hoff => ⟨fun hw => ?_, ?_⟩, fun hresolving hdev => ?_, fun hother => ?_⟩
  · rw [shoeTimeout_runs _ _ _ _ _ _ hd, timersExpire_none hnone]
  · obtain ⟨x, hx, hleast, hbegun⟩ := timersExpire_begun hsome hr us finish
    obtain ⟨y, -, rfl⟩ := List.mem_map.1 (List.mem_filter.1 hx).1
    exact ⟨_, hx, hleast, _, shoeTimeout_runs _ _ _ _ _ _ hd, hbegun⟩
  · intro lane mid finish n m hn hm hg hc hs hh hr
    exact ⟨_, rtLaneTimeout_runs _ _ _ _ hd, laneExpires_begun hn hm (laneTimes_of hg hc) hs hh hr finish⟩
  · exact ⟨_, (redealRequest_runs finish s hw).trans (congrArg _ (viaReg_pos hreg)), (startRedeal_begun hr _ finish).1⟩
  · rw [redealRequest_runs finish s hw, viaReg_pos hreg, startRedeal_refused hr]
  · exact ⟨_, redealWalkEnd_runs s hd, walkEnd_waits hwalk hseen⟩
  · exact ⟨_, redealWalkEnd_runs s hd, walkEnd_over hwalk hseen⟩
  · rw [redealResume_runs s hw, viaReg_pos hreg, redealResume_walking hwalk]
  · exact ⟨_, (redealResume_runs s hw).trans (congrArg _ (viaReg_pos hreg)), redealResume_over hwait⟩
  · exact ⟨_, (redealStallAlert_runs s hd).trans (congrArg _ (if_pos hwait)), alertLatch_bit s 4,
      (alertLatch_moves s 4 (Moves.refl 262152 s) rfl).only (covers_spec rfl)⟩
  · rw [redealResume_runs s hw, viaReg, redealResume_ignored hoff, ite_self]
  · rw [redealWalkEnd_runs s hd, walkEnd, if_pos (not_walking hoff)]
  · exact ⟨_, (redealBoundExpiry_runs s hd).trans (congrArg _ (if_pos hresolving)), runtimeFailed_now hdev 0x0707⟩
  · rw [redealBoundExpiry_runs s hd, redealBound, if_neg hother]

end Sys2Proof
end

section
/-! SUPPORT. What a tile group's kernel changes of the Dealer: the cores' program caches alone (R135, R145). -/

namespace Sys2Proof

open Machine

/-- Of the Dealer only what the cores' program caches hold differs. -/
def CachesOnly (s t : State) : Prop :=
  t.dl = { s.dl with cores := t.dl.cores } ∧ ∀ c, tget t.dl.cores c = { tget s.dl.cores c with cache := (tget t.dl.cores c).cache }

theorem CachesOnly.of_dl {s t : State} (h : t.dl = s.dl) : CachesOnly s t := by
  unfold CachesOnly
  rw [h]
  exact ⟨rfl, fun _ => rfl⟩

theorem CachesOnly.refl (s : State) : CachesOnly s s := .of_dl rfl

theorem CachesOnly.trans {s t u : State} (h : CachesOnly s t) (k : CachesOnly t u) : CachesOnly s u := by
  obtain ⟨hdl, hcore⟩ := h
  obtain ⟨kdl, kcore⟩ := k
  refine ⟨by rw [kdl, hdl], fun c => ?_⟩
  rw [kcore c, hcore c]

/-- An action on claim memory that leaves the Dealer but for the caches. -/
def Quiet {α : Type} (f : State → Run α) : Prop := ∀ s, CachesOnly s (f s).1

namespace Quiet

variable {α β : Type}

theorem pure (e : ReadEnd α) : Quiet fun s => (s, e) := .refl

theorem of_dl {f : State → Run α} (h : ∀ s, (f s).1.dl = s.dl) : Quiet f := fun s => .of_dl (h s)

theorem andThen {f : State → Run α} {k : α → State → Run β} (hf : Quiet f) (hk : ∀ a, Quiet (k a)) : Quiet fun s => (f s).andThen k := by
  intro s
  have hfs := hf s
  dsimp only
  generalize f s = r at hfs ⊢
  obtain ⟨t, _ | a⟩ := r
  · exact hfs
  · exact hfs.trans (hk a t)

theorem ite {c : Prop} [Decidable c] {f g : State → Run α} (hf : Quiet f) (hg : Quiet g) : Quiet fun s => if c then f s else g s := by
  intro s
  dsimp only
  split
  · exact hf s
  · exact hg s

theorem runEach {f : α → State → Run β} (hf : ∀ a, Quiet (f a)) (l : List α) : Quiet (runEach f l) := by
  induction l with
  | nil => exact .pure _
  | cons a l ih => exact (hf a).andThen fun _ => ih.andThen fun _ => .pure _

theorem runRows {f : Nat × Nat × Nat → State → Run Nat} (hf : ∀ i, Quiet (f i)) (is : List (Nat × Nat × Nat)) : Quiet (runRows f is) :=
  (Quiet.runEach hf is).andThen fun _ => .pure _

end Quiet

/-! Reads and writes of claim memory. -/

theorem readClaim_quiet (n va len : Nat) : Quiet fun s => readClaim s n va len :=
  .of_dl fun s => (readClaim_moves s n va len true (Moves.refl 271688 s) rfl).rest .dl rfl

theorem dropCached_caches (s : State) (n page : Nat) : CachesOnly s (dropCached s n page) := by
  unfold dropCached
  dsimp only
  split
  · refine ⟨rfl, fun c => ?_⟩
    by_cases hc : c < 96
    · rw [State.modDl_dl, tget_map _ _ hc]
    · rw [tget_ge _ (Nat.not_lt.1 hc), tget_ge _ (Nat.not_lt.1 hc)]
  · exact .refl s

theorem settleMove_dl (s : State) (p : Place2) : (settleMove s p).dl = s.dl := (settleMove_moves s p (Moves.refl 271688 s) rfl).rest .dl rfl

theorem writeFrame_dl (s : State) (n : Nat) (tier2 : Bool) (frame off : Nat) (bs : List Byte) (owner : Nat) :
    (writeFrame s n tier2 frame off bs owner).1.dl = s.dl := (writeFrame_moves s n tier2 frame off bs owner (Moves.refl 271688 s) rfl).rest .dl rfl

theorem touchPlace_dl (s : State) (n : Nat) (p : Place2) (heat : Bool) : (touchPlace s n p heat).dl = s.dl :=
  (touchPlace_moves s n p heat (Moves.refl 1352 s) rfl).rest .dl rfl

theorem writePieces_quiet (n : Nat) (heat : Bool) (ps : List Piece) (bs : List Byte) : Quiet (writePieces n heat ps bs) := by
  induction ps generalizing bs with
  | nil => exact .refl
  | cons x ps ih =>
    intro s
    unfold writePieces
    split
    · exact .refl s
    · rename_i p0 _
      dsimp only
      have hsettle : CachesOnly s (settleMove s p0) := .of_dl (settleMove_dl s p0)
      split
      · exact hsettle
      · rename_i p _
        have hframe := writeFrame_dl (settleMove s p0) n p.tier2 p.frame p.off (bs.take x.len) (accessOwner n p)
        split
        · rename_i s1 _ hw
          rw [hw] at hframe
          exact hsettle.trans (.of_dl hframe)
        · rename_i s1 _ hw
          rw [hw] at hframe
          exact (hsettle.trans (.of_dl hframe)).trans ((dropCached_caches s1 n _).trans ((CachesOnly.of_dl (touchPlace_dl _ n p _)).trans (ih _ _)))

theorem writeClaim_quiet (n va : Nat) (bs : List Byte) : Quiet fun s => writeClaim s n va bs := writePieces_quiet n true _ bs

/-! The kernels. -/

theorem readRow_quiet (n : Nat) (d : List Byte) (i : Nat × Nat × Nat) : Quiet (readRow n d i) :=
  (readClaim_quiet n _ _).andThen fun _ => .pure _

theorem readScaled_quiet (n : Nat) (d : List Byte) (i : Nat × Nat × Nat) : Quiet (readScaled n d i) :=
  (readRow_quiet n d i).andThen fun _ => .pure _

theorem writeRow_quiet (n : Nat) (d : List Byte) (i : Nat × Nat × Nat) (col : Nat) (xs : List FP) : Quiet (writeRow n d i col xs) :=
  (writeClaim_quiet n _ _).andThen fun _ => .pure _

theorem matmulGroup_quiet (m : MacroInst) (x : MatBlock) (chunk : Nat) (acc : List (List Word32)) : Quiet (matmulGroup m x chunk acc) :=
  .of_dl fun s => (matmulGroup_moves m x chunk acc s (Moves.refl 271688 s) rfl).rest .dl rfl

/-- A row that is read only where it is there. -/
theorem readScaled_if_quiet (b : Bool) (n : Nat) (d : List Byte) (i : Nat × Nat × Nat) :
    Quiet fun s => if b then readScaled n d i s else (s, .ok []) := .ite (readScaled_quiet n d i) (.pure _)

theorem matmulWrite_quiet (m : MacroInst) (x : MatBlock) (acc : List (List Word32)) : Quiet (matmulWrite m x acc) :=
  (readScaled_if_quiet (m.has 3) m.claim _ _).andThen fun _ =>
    (Quiet.runEach (fun _ => (readScaled_if_quiet _ m.claim _ _).andThen fun _ => (readScaled_if_quiet (m.has 4) m.claim _ _).andThen fun _ =>
      writeRow_quiet m.claim _ _ _ _) _).andThen fun _ => .pure _

theorem matmulRun_quiet (m : MacroInst) (blk chunk : Nat) (acc : List (List Word32)) : Quiet (matmulRun m blk chunk acc) :=
  (matmulGroup_quiet m _ chunk acc).andThen fun _ => .ite (.pure _) ((matmulWrite_quiet m _ _).andThen fun _ => .pure _)

theorem readState_quiet (m : MacroInst) (i : Nat × Nat × Nat) : Quiet (readState m i) :=
  .of_dl fun s => (readState_moves m i s (Moves.refl 271688 s) rfl).rest .dl rfl

theorem writeRowState_quiet (m : MacroInst) (fin : Bool) (i : Nat × Nat × Nat) (b : List Byte) : Quiet (writeRowState m fin i b) := by
  intro s
  unfold writeRowState
  split
  · split
    · exact writeClaim_quiet m.claim _ _ s
    · exact .of_dl rfl
  · exact writeClaim_quiet m.claim _ _ s

theorem attendBlock_quiet (m : MacroInst) (b3 h i : Nat) : Quiet (attendBlock m b3 h i) :=
  .ite (.pure _) <| (Quiet.runEach (fun _ => .runEach (fun _ => (readRow_quiet m.claim _ _).andThen fun _ => (readRow_quiet m.claim _ _).andThen fun _ =>
      .pure _) _) _).andThen fun _ =>
    (Quiet.runEach (fun _ => (readRow_quiet m.claim _ _).andThen fun _ => (Quiet.ite (readRow_quiet m.claim _ _) (.pure _)).andThen fun _ =>
      (readState_quiet m _).andThen fun _ => (Quiet.ite (.pure _) (writeRow_quiet m.claim _ _ _ _)).andThen fun _ =>
        (writeRowState_quiet m _ _ _).andThen fun _ => .pure _) _).andThen fun _ => .pure _

theorem bwdKeys_quiet (m : MacroInst) (b3 kv : Nat) : Quiet (bwdKeys m b3 kv) :=
  .of_dl fun s => (bwdKeys_moves m b3 kv s (Moves.refl 271688 s) rfl).rest .dl rfl

theorem bwdRow_quiet (m : MacroInst) (kvs : List (Nat × List FP × List FP)) (b3 h r : Nat) : Quiet (bwdRow m kvs b3 h r) :=
  .of_dl fun s => (bwdRow_moves m kvs b3 h r s (Moves.refl 271688 s) rfl).rest .dl rfl

theorem bwdQuery_quiet (m : MacroInst) (kvs : List (Nat × List FP × List FP)) (b3 h r : Nat) : Quiet (bwdQuery m kvs b3 h r) :=
  (bwdRow_quiet m kvs b3 h r).andThen fun _ => (readRow_quiet m.claim _ _).andThen fun _ => writeRow_quiet m.claim _ _ _ _

theorem bwdKeysOut_quiet (m : MacroInst) (kvs : List (Nat × List FP × List FP)) (b3 kv : Nat) : Quiet (bwdKeysOut m kvs b3 kv) :=
  (Quiet.runEach (fun _ => bwdRow_quiet m kvs b3 _ _) _).andThen fun _ =>
    (Quiet.runEach (fun _ => (writeRow_quiet m.claim _ _ _ _).andThen fun _ => (writeRow_quiet m.claim _ _ _ _).andThen fun _ => .pure _) _).andThen
      fun _ => .pure _

theorem backwardBlock_quiet (m : MacroInst) (b3 h i : Nat) : Quiet (backwardBlock m b3 h i) :=
  .ite (.pure _) <| (bwdKeys_quiet m b3 _).andThen fun kvs => (Quiet.runEach (fun _ => bwdQuery_quiet m kvs b3 h _) _).andThen fun _ =>
    (Quiet.ite (bwdKeysOut_quiet m kvs b3 _) (.pure _)).andThen fun _ => .pure _

theorem sfnRow_quiet (m : MacroInst) (i : Nat × Nat × Nat) : Quiet (sfnRow m i) :=
  (readScaled_quiet m.claim _ i).andThen fun _ => writeRow_quiet m.claim _ i _ _

theorem normRowRun_quiet (m : MacroInst) (i : Nat × Nat × Nat) : Quiet (normRowRun m i) :=
  (readScaled_quiet m.claim _ i).andThen fun _ => (readScaled_quiet m.claim _ _).andThen fun _ => (readScaled_if_quiet (m.has 2) m.claim _ _).andThen fun _ =>
    (writeRow_quiet m.claim _ i _ _).andThen fun _ => (Quiet.ite (writeRow_quiet m.claim _ i _ _) (.pure _)).andThen fun _ => .pure _

theorem hoistRow_quiet (m : MacroInst) (i : Nat × Nat × Nat) : Quiet (hoistRow m i) :=
  (readClaim_quiet m.claim _ _).andThen fun _ => (writeClaim_quiet m.claim _ _).andThen fun _ => .pure _

theorem convertRowRun_quiet (m : MacroInst) (i : Nat × Nat × Nat) : Quiet (convertRowRun m i) :=
  (readClaim_quiet m.claim _ _).andThen fun _ => (writeClaim_quiet m.claim _ _).andThen fun _ => .pure _

theorem reduceRow_quiet (m : MacroInst) (i : Nat × Nat × Nat) : Quiet (reduceRow m i) :=
  .ite ((readScaled_quiet m.claim _ i).andThen fun _ => writeRow_quiet m.claim _ i _ _)
    ((Quiet.runEach (fun _ => readScaled_quiet m.claim _ _) _).andThen fun _ => writeRow_quiet m.claim _ i _ _)

/-- The candidate of a record, read where the record is valid (R325). -/
theorem rerankQuery_quiet (m : MacroInst) (qi : Nat) : Quiet (rerankQuery m qi) :=
  (readRow_quiet m.claim _ _).andThen fun _ => (Quiet.runEach (fun _ => (readClaim_quiet m.claim _ _).andThen fun _ =>
    .ite (.pure _) (.ite (.pure _) ((readRow_quiet m.claim _ _).andThen fun _ => .pure _))) _).andThen fun _ =>
      (Quiet.runEach (fun _ => writeClaim_quiet m.claim _ _) _).andThen fun _ => .pure _

/-- A tile group leaves the Dealer but for the caches (R135, R145). -/
theorem runGroup_quiet (m : MacroInst) (w : GroupWork) : Quiet (runGroup m w) := by
  intro s
  unfold runGroup
  dsimp only
  split
  · exact (matmulRun_quiet m w.block w.chunk w.acc).andThen (fun _ => .pure _) s
  · exact Quiet.ite ((attendBlock_quiet m _ _ _).andThen fun _ => .pure _) (.pure _) s
  · exact Quiet.ite ((backwardBlock_quiet m _ _ _).andThen fun _ => .pure _) (.pure _) s
  · exact Quiet.runRows (sfnRow_quiet m) _ s
  · exact Quiet.runRows (normRowRun_quiet m) _ s
  · exact Quiet.runRows (reduceRow_quiet m) _ s
  · exact Quiet.runRows (hoistRow_quiet m) _ s
  · exact Quiet.runRows (convertRowRun_quiet m) _ s
  · exact Quiet.runRows (fun i => rerankQuery_quiet m i.1) _ s

end Sys2Proof
end

section
/-! SUPPORT. A failing round, and what an item that ends gives back: parts and contexts only leave (R98, R278). -/

namespace Sys2Proof

open Machine

/-! Contexts of a core. -/

theorem mem_contexts {c : Core} {p : Nat} : p ∈ c.contexts ↔ some p ∈ c.slots.toList := by
  simp [Core.contexts]

theorem mem_leaveCore {p mid : Nat} {c : Core} (h : p ∈ (leaveCore mid c).contexts) : p ∈ c.contexts ∧ p ≠ mid := by
  unfold leaveCore at h
  split at h
  · rw [mem_contexts, Vector.toList_map, List.mem_map] at h
    obtain ⟨x, hx, hp⟩ := h
    split at hp
    · exact absurd hp (by simp)
    · rename_i hne
      subst hp
      exact ⟨mem_contexts.2 hx, fun e => hne (congrArg some e)⟩
  · rename_i hno
    refine ⟨h, fun e => hno ?_⟩
    rw [List.contains_iff_mem]
    exact e ▸ h

theorem contexts_ge {v : Vector Core 96} {c : Nat} (h : 96 ≤ c) : (tget v c).contexts = [] := by
  rw [tget_ge v h]
  rfl

/-- Every part of t is one of s, and every context of t holds a part that it held in s. -/
def PartsLeave (s t : State) : Prop :=
  (∀ p, findMacro s p = none → findMacro t p = none) ∧ ∀ c p, p ∈ (tget t.dl.cores c).contexts → p ∈ (tget s.dl.cores c).contexts

theorem findMacro_none {s : State} {p : Nat} : findMacro s p = none ↔ ∀ m ∈ s.dl.macros, m.id ≠ p := by
  simp [findMacro]

namespace PartsLeave

theorem refl (s : State) : PartsLeave s s := ⟨fun _ h => h, fun _ _ h => h⟩

theorem trans {s t u : State} (h : PartsLeave s t) (k : PartsLeave t u) : PartsLeave s u :=
  ⟨fun p hp => k.1 p (h.1 p hp), fun c p hp => h.2 c p (k.2 c p hp)⟩

theorem of_dl {s t : State} (h : t.dl = s.dl) : PartsLeave s t := by
  unfold PartsLeave findMacro
  rw [h]
  exact ⟨fun _ h => h, fun _ _ h => h⟩

theorem of_same {s t : State} (hm : t.dl.macros = s.dl.macros) (hc : t.dl.cores = s.dl.cores) : PartsLeave s t := by
  unfold PartsLeave findMacro
  rw [hm, hc]
  exact ⟨fun _ h => h, fun _ _ h => h⟩

/-- Where each core's contexts are among those that it had, and parts keep their numbers or leave. -/
theorem of_cores {s t : State} (hm : ∀ m ∈ t.dl.macros, ∃ x ∈ s.dl.macros, x.id = m.id) {f : Core → Core} (hc : t.dl.cores = s.dl.cores.map f)
    (hf : ∀ x p, p ∈ (f x).contexts → p ∈ x.contexts) : PartsLeave s t := by
  refine ⟨fun p hp => ?_, fun c p hp => ?_⟩
  · rw [findMacro_none] at hp ⊢
    intro m hmem
    obtain ⟨x, hx, hid⟩ := hm m hmem
    exact hid ▸ hp x hx
  · by_cases h96 : c < 96
    · rw [hc, tget_map _ _ h96] at hp
      exact hf _ p hp
    · rw [contexts_ge (Nat.not_lt.1 h96)] at hp
      exact absurd hp (List.not_mem_nil)

theorem foldl {α : Type} {f : State → α → State} (hf : ∀ u x, PartsLeave u (f u x)) (l : List α) (s : State) : PartsLeave s (l.foldl f s) := by
  induction l generalizing s with
  | nil => exact .refl s
  | cons x l ih => exact (hf s x).trans (ih _)

theorem removeMacro (s : State) (mid : Nat) : PartsLeave s (removeMacro s mid) :=
  .of_cores (fun m hm => ⟨m, List.mem_of_mem_filter hm, rfl⟩) rfl fun _ _ h => (mem_leaveCore h).1

theorem dropMacro (s : State) (mid : Nat) : PartsLeave s (dropMacro s mid) := by
  unfold Machine.dropMacro
  split
  · refine .of_cores (f := fun c => if c.current = some mid then c else leaveCore mid c) (fun m hm => ?_) rfl fun c p h => ?_
    · obtain ⟨x, hx, rfl⟩ := List.mem_map.1 hm
      refine ⟨x, hx, ?_⟩
      split <;> rfl
    · split at h
      · exact h
      · exact (mem_leaveCore h).1
  · exact .removeMacro s mid

theorem releaseHoldings (s : State) (shoe seq : Nat) : PartsLeave s (releaseHoldings s shoe seq) :=
  (PartsLeave.foldl (fun u m => .dropMacro u m) (macrosOf s shoe seq) s).trans (.of_same rfl rfl)

theorem failItem (s : State) (shoe seq : Nat) (o : Outcome) : PartsLeave s (failItem s shoe seq o) := by
  unfold Machine.failItem
  split
  · exact .refl s
  · split
    · exact .refl s
    · exact (PartsLeave.releaseHoldings s shoe seq).trans (.of_same rfl rfl)

theorem failAt (s : State) (shoe seq l g cause d : Nat) : PartsLeave s (failAt s shoe seq l g cause d) := by
  unfold Machine.failAt
  split
  · exact .refl s
  · split <;> exact .failItem _ _ _ _

end PartsLeave

/-! Round controllers. -/

theorem armed_of_rounds {s t : State} (h : t.rounds.ctrls = s.rounds.ctrls) (k : Nat) : t.armed k = s.armed k := by
  unfold State.armed
  rw [h]

namespace ctrlStays

theorem of_ctrls {s t : State} (h : t.rounds.ctrls = s.rounds.ctrls) (k : Nat) : ctrlStays s t k := by
  have ha := armed_of_rounds h k
  unfold ctrlStays
  rw [ha, h]
  exact ⟨rfl, rfl⟩

theorem refl (s : State) (k : Nat) : ctrlStays s s k := .of_ctrls rfl k

theorem trans {s t u : State} {k : Nat} (h : ctrlStays s t k) (j : ctrlStays t u k) : ctrlStays s u k := by
  obtain ⟨hc, ha⟩ := h
  obtain ⟨jc, ja⟩ := j
  exact ⟨by rw [jc, hc], ja.trans ha⟩

/-- A change of what armed rounds wait for (R215, R217). -/
theorem modRoundsArmed (s : State) {f : Armed → Armed} (hf : ∀ a, { f a with startWait := .idle, readyWait := .idle } = { a with startWait := .idle, readyWait := .idle })
    (k : Nat) : ctrlStays s (s.modRoundsArmed f) k := by
  by_cases hk : k < 16
  · have hctrl : tget (s.modRoundsArmed f).rounds.ctrls k = { tget s.rounds.ctrls k with armed := (s.armed k).map f } := tget_map _ _ hk
    have harmed : (s.modRoundsArmed f).armed k = (s.armed k).map f := congrArg RoundCtl.armed hctrl
    refine ⟨by rw [hctrl, harmed], ?_⟩
    rw [harmed, Option.map_map]
    exact congrArg (fun g => (s.armed k).map g) (funext hf)
  · have hnone : ∀ u : State, tget u.rounds.ctrls k = default := fun u => tget_ge _ (Nat.not_lt.1 hk)
    have harmed : ∀ u : State, u.armed k = none := fun u => congrArg RoundCtl.armed (hnone u)
    exact ⟨by rw [hnone, hnone, harmed]; rfl, by rw [harmed, harmed]⟩

end ctrlStays

/-- What abandons work leaves: parts and contexts are among those there were, and controllers keep their rounds but for waits. -/
def Unwinds (s t : State) : Prop := PartsLeave s t ∧ ∀ k, ctrlStays s t k

namespace Unwinds

theorem refl (s : State) : Unwinds s s := ⟨.refl s, .refl s⟩

theorem trans {s t u : State} (h : Unwinds s t) (k : Unwinds t u) : Unwinds s u := ⟨h.1.trans k.1, fun c => (h.2 c).trans (k.2 c)⟩

theorem of_dl {s t : State} (hd : t.dl = s.dl) (hr : t.rounds.ctrls = s.rounds.ctrls) : Unwinds s t := ⟨.of_dl hd, .of_ctrls hr⟩

theorem of_leave {s t : State} (h : PartsLeave s t) (hr : t.rounds = s.rounds) : Unwinds s t := ⟨h, .of_ctrls (congrArg Rounds.ctrls hr)⟩

theorem foldl {α : Type} {f : State → α → State} (hf : ∀ u x, Unwinds u (f u x)) (l : List α) (s : State) : Unwinds s (l.foldl f s) := by
  induction l generalizing s with
  | nil => exact .refl s
  | cons x l ih => exact (hf s x).trans (ih _)

theorem failAt (s : State) (shoe seq l g cause d : Nat) : Unwinds s (failAt s shoe seq l g cause d) :=
  .of_leave (.failAt s shoe seq l g cause d) ((failAt_moves s shoe seq l g cause d (Moves.refl 128 s) rfl).rest .rounds rfl)

theorem endHostWait (s : State) (c w : Nat) (failed : Bool) : Unwinds s (endHostWait s c w failed) :=
  .of_leave (.of_dl (endHostWait_items s c w failed)) ((endHostWait_moves s c w failed (Moves.refl 1544 s) rfl).rest .rounds rfl)

theorem failWaiters (s : State) (n : Nat) : Unwinds s (failWaiters s n) := by
  unfold Machine.failWaiters
  have hwaits : Unwinds s (s.modRoundsArmed (Armed.failWaits n (s.tally n).cause)) := ⟨.of_dl rfl, .modRoundsArmed s fun _ => rfl⟩
  exact hwaits.trans ((Unwinds.foldl (fun u w => .failAt u _ _ _ _ _ _) _ _).trans (.foldl (fun u w => .endHostWait u _ _ _) _ _))

theorem poisonOne (s : State) (n cause : Nat) (o : Seat) : Unwinds s (poisonOne s n cause o) := by
  unfold Machine.poisonOne
  split
  · exact .refl s
  · have hmod : ∀ f, Unwinds s (s.modTally n f) := fun _ => .of_dl rfl rfl
    exact (hmod _).trans (.failWaiters _ n)

theorem poisonTrickHere (s : State) (k : Nat) (o : Seat) : Unwinds s (poisonTrickHere s k o) := by
  unfold Machine.poisonTrickHere
  split
  · exact .refl s
  · have hset : ∀ t, Unwinds s (s.setTrick k t) := fun _ => .of_dl rfl rfl
    exact (hset _).trans ((Unwinds.poisonOne _ _ _ _).trans (.poisonOne _ _ _ _))

theorem sendTrick (s : State) (seat : Seat) (msg : List Byte) : Unwinds s (sendTrick s seat msg) := by
  unfold Machine.sendTrick
  split
  · exact .refl s
  · exact .of_dl rfl rfl
  · exact .of_dl rfl rfl

theorem sendControl (s : State) (h : MsgHeader) : Unwinds s (sendControl s h) := by
  unfold Machine.sendControl
  split <;> exact .of_dl rfl rfl

theorem poisonTrick (s : State) (k cause : Nat) : Unwinds s (poisonTrick s k cause) := by
  unfold Machine.poisonTrick
  split
  · exact .refl s
  · split
    · exact .refl s
    · exact (Unwinds.foldl (fun u seat => .sendTrick u seat _) _ s).trans (.poisonTrickHere _ k _)

theorem poisonTally (s : State) (n cause : Nat) : Unwinds s (poisonTally s n cause) := by
  unfold Machine.poisonTally
  dsimp only
  split
  · exact .poisonOne s n cause _
  · split
    · exact (Unwinds.poisonOne s n cause _).trans (.poisonTrick _ _ cause)
    · exact .poisonOne s n cause _

theorem abortXfers (s : State) (c : Nat) : Unwinds s (abortXfers s c) := by
  have hdrop : ∀ (u : State) (id : Nat), Unwinds u (dropXfer u id) := fun _ _ => .of_dl rfl rfl
  have hgroup : ∀ (u : State) (d : Nat) (f : Group → Group), Unwinds u (u.modGroup d f) := fun _ _ _ => .of_dl rfl rfl
  have hsend : ∀ (u : State) (d : Nat) (f : Group → Group) (h : MsgHeader), Unwinds u (Machine.sendControl (u.modGroup d f) h) :=
    fun u d f h => (hgroup u d f).trans (sendControl _ h)
  unfold Machine.abortXfers
  refine foldl (fun u x => ?_) _ s
  refine (hdrop u x.id).trans (foldl (fun v d => ?_) _ _)
  split
  · exact refl v
  · dsimp only
    split
    · exact hsend v d _ _
    · exact hgroup v d _

theorem stopRoundMacros (s : State) (c : Nat) : Unwinds s (stopRoundMacros s c) :=
  .of_leave (.foldl (fun u m => .dropMacro u m) _ s) ((stopRoundMacros_moves s c (Moves.refl 128 s) rfl).rest .rounds rfl)

end Unwinds

/-! A round that fails (R278). -/

theorem freeRound_ctrls (s : State) (c : Nat) (a : Armed) : (freeRound s c a).rounds.ctrls = tmod s.rounds.ctrls c fun x => { x with armed := none } := by
  have htricks : ∀ (l : List Nat) (u : State), (l.foldl (fun s k => s.setTrick k none) u).rounds = u.rounds := by
    intro l
    induction l with
    | nil => exact fun _ => rfl
    | cons k l ih => exact fun u => ih _
  have hpins : (unpinPages s a.claim a.pins).rounds = s.rounds := (unpinPages_moves s a.claim a.pins (Moves.refl 256 s) rfl).rest .rounds rfl
  simp only [freeRound, State.modCtrl, State.modRounds, htricks, State.modDl_rounds, hpins]

theorem PartsLeave.freeRound (s : State) (c : Nat) (a : Armed) : PartsLeave s (freeRound s c a) := by
  have htricks : ∀ (l : List Nat) (u : State), (l.foldl (fun s k => s.setTrick k none) u).dl = u.dl := by
    intro l
    induction l with
    | nil => exact fun _ => rfl
    | cons k l ih => exact fun u => ih _
  have hpins : (unpinPages s a.claim a.pins).dl = s.dl := (unpinPages_moves s a.claim a.pins (Moves.refl 256 s) rfl).rest .dl rfl
  have hdl : (Machine.freeRound s c a).dl = { s.dl with cores := s.dl.cores.map (freeUnits (.pin c)) } := by
    change (a.tricks.foldl (fun s k => s.setTrick k none)
      ((unpinPages s a.claim a.pins).modDl fun d => { d with cores := d.cores.map (freeUnits (.pin c)) })).dl = _
    rw [htricks, State.modDl_dl, hpins]
  exact .of_cores (f := freeUnits (.pin c)) (fun m hm => ⟨m, by rwa [hdl] at hm, rfl⟩) (congrArg Dealer.cores hdl) fun _ _ h => h

/-- What a failing round does before its controller is free: it records the failure and abandons the work (R278, steps 1 to 5). -/
def roundUnwound (s : State) (c cause : Nat) (suspect : Seat) (a : Armed) : State :=
  [a.startTally, a.readyTally, a.doneTally].foldl (fun s rel => match resolveTally s a.claim rel with
    | some t => poisonTally s t 0x0503
    | none => s) (abortXfers (stopRoundMacros (a.tricks.foldl (fun s k => poisonTrick s k cause)
      (s.modCtrl c fun x => { x with failCause := cause, failOrigin := ownSeat s, failSuspect := suspect })) c) c)

theorem failRound_eq {s : State} {c : Nat} {a : Armed} (h : s.armed c = some a) (cause : Nat) (suspect : Seat) :
    failRound s c cause suspect = freeRound (roundUnwound s c cause suspect a) c a := by
  simp only [failRound, h]
  rfl

theorem Unwinds.roundUnwound (s : State) (c cause : Nat) (suspect : Seat) (a : Armed) :
    Unwinds (s.modCtrl c fun x => { x with failCause := cause, failOrigin := ownSeat s, failSuspect := suspect }) (roundUnwound s c cause suspect a) := by
  refine (Unwinds.foldl (fun u k => .poisonTrick u k cause) a.tricks _).trans
    ((Unwinds.stopRoundMacros _ c).trans ((Unwinds.abortXfers _ c).trans (.foldl (fun u rel => ?_) _ _)))
  split
  · exact .poisonTally u _ _
  · exact .refl u

/-- A failed round leaves its controller free with the failure, and the other controllers their rounds (R278). -/
theorem failRound_fails {s : State} {c : Nat} {a : Armed} (hc : c < 16) (h : s.armed c = some a) (cause : Nat) (suspect : Seat) :
    roundFails s (failRound s c cause suspect) c cause suspect := by
  rw [failRound_eq h]
  have hun := (Unwinds.roundUnwound s c cause suspect a).2
  generalize roundUnwound s c cause suspect a = u at hun ⊢
  refine ⟨?_, fun k hk => ?_⟩
  · rw [freeRound_ctrls, tget_tmod_same _ _ hc, (hun c).1, State.modCtrl, State.modRounds, tget_tmod_same _ _ hc]
  · have hmod : ctrlStays s (s.modCtrl c fun x => { x with failCause := cause, failOrigin := ownSeat s, failSuspect := suspect }) k := by
      have hctrl := tget_tmod_ne s.rounds.ctrls (fun x => { x with failCause := cause, failOrigin := ownSeat s, failSuspect := suspect }) (Ne.symm hk)
      have harmed := congrArg RoundCtl.armed hctrl
      exact ⟨hctrl.trans (by rw [show (s.modCtrl c _).armed k = s.armed k from harmed]; rfl), congrArg _ harmed⟩
    have hfree : ctrlStays u (freeRound u c a) k := by
      have hctrl : tget (freeRound u c a).rounds.ctrls k = tget u.rounds.ctrls k := by rw [freeRound_ctrls, tget_tmod_ne _ _ (Ne.symm hk)]
      have harmed : (freeRound u c a).armed k = u.armed k := congrArg RoundCtl.armed hctrl
      exact ⟨hctrl.trans (by rw [harmed]; rfl), congrArg _ harmed⟩
    exact hmod.trans ((hun k).trans hfree)

theorem PartsLeave.failRound (s : State) (c cause : Nat) (suspect : Seat) : PartsLeave s (failRound s c cause suspect) := by
  cases h : s.armed c with
  | none =>
    simp only [Machine.failRound, h]
    exact .refl s
  | some a =>
    rw [failRound_eq h]
    exact (PartsLeave.of_dl rfl).trans ((Unwinds.roundUnwound s c cause suspect a).1.trans (.freeRound _ c a))

theorem PartsLeave.fencedRounds (s : State) (c : Nat) : PartsLeave s (fencedRounds s c) := by
  unfold Machine.fencedRounds roundCoreFenced
  split
  · refine .foldl (fun u k => ?_) _ s
    split
    · split
      · exact .failRound u k _ _
      · exact .refl u
    · exact .refl u
  · exact .refl s

end Sys2Proof
end

section
/-! SUPPORT. Parts and their blocks, and a core that passes to its next context (R72, R132, R135). -/

namespace Sys2Proof

open Machine

/-! Looking up a part. -/

theorem findMacro_id {s : State} {p : Nat} {m : MacroInst} (h : findMacro s p = some m) : m.id = p := by
  simpa using List.find?_some h

theorem findMacro_congr {s t : State} (h : t.dl.macros = s.dl.macros) (p : Nat) : findMacro t p = findMacro s p := by
  unfold findMacro
  rw [h]

/-- A change of one part that keeps its number. -/
theorem findMacro_modMacro (s : State) (mid : Nat) {f : MacroInst → MacroInst} (hf : ∀ m, (f m).id = m.id) (p : Nat) :
    findMacro (s.modMacro mid f) p = (findMacro s p).map fun m => if p = mid then f m else m := by
  have hkey : (fun m : MacroInst => m.id == p) ∘ (fun m => if m.id == mid then f m else m) = fun m => m.id == p := by
    funext m
    simp only [Function.comp]
    split
    · rw [hf]
    · rfl
  change List.find? _ (s.dl.macros.map _) = _
  rw [List.find?_map, hkey]
  refine Option.map_congr fun m hm => ?_
  rw [findMacro_id (s := s) hm]
  simp

/-- A core, and what a test of every core finds. -/
theorem any_cores {v : Vector Core 96} {p : Core → Bool} (h : v.toList.any p = true) : ∃ c, c < 96 ∧ p (tget v c) = true := by
  obtain ⟨x, hx, hp⟩ := List.any_eq_true.1 h
  obtain ⟨i, hi, rfl⟩ := List.mem_iff_getElem.1 hx
  have h96 : i < 96 := by simpa using hi
  refine ⟨i, h96, ?_⟩
  simpa [tget, h96] using hp

/-! Blocks of the walk that cores work on (R135). -/

/-- A core that has a block keeps it. -/
theorem takeBlock_has {m : MacroInst} {c : Nat} {w : GroupWork} (h : m.workOn c = some w) : m.takeBlock c = m := by
  simp [MacroInst.takeBlock, h]

theorem takeBlock_other (m : MacroInst) {c k : Nat} (hk : k ≠ c) : (m.takeBlock c).workOn k = m.workOn k := by
  unfold MacroInst.takeBlock
  split
  · rfl
  · simp [MacroInst.workOn, Ne.symm hk]

theorem takeBlock_core {m : MacroInst} {c : Nat} {w : GroupWork} (h : m.workOn c = some w) : w.core = c := by
  simpa using List.find?_some h

/-- A core with work for it has a block once it has taken one. -/
theorem takeBlock_works {m : MacroInst} {c : Nat} (h : (m.workOn c).isSome = true ∨ m.nextBlock < m.blocks) : ((m.takeBlock c).workOn c).isSome = true := by
  unfold MacroInst.takeBlock
  split
  · rename_i hno
    exact h.elim id fun hlt => hno.resolve_right (by omega)
  · simp [MacroInst.workOn]

/-- A part that goes on: only its first grant and the blocks that core c works on differ; a block of that core stays its block. -/
def GoesOn (c : Nat) (x y : MacroInst) : Prop :=
  y = { x with granted := y.granted, nextBlock := y.nextBlock, works := y.works } ∧ (∀ k, k ≠ c → y.workOn k = x.workOn k) ∧
    ∀ w, x.workOn c = some w → ∃ saved, y.workOn c = some { w with inT0 := saved }

namespace GoesOn

theorem refl (c : Nat) (x : MacroInst) : GoesOn c x x := ⟨rfl, fun _ _ => rfl, fun w hw => ⟨w.inT0, hw⟩⟩

theorem trans {c : Nat} {x y z : MacroInst} (h : GoesOn c x y) (k : GoesOn c y z) : GoesOn c x z := by
  obtain ⟨hy, hother, hself⟩ := h
  obtain ⟨kz, kother, kself⟩ := k
  refine ⟨by rw [kz, hy], fun j hj => (kother j hj).trans (hother j hj), fun w hw => ?_⟩
  obtain ⟨_, hb⟩ := hself w hw
  obtain ⟨b, hb⟩ := kself _ hb
  exact ⟨b, hb⟩

theorem takeBlock (c : Nat) (x : MacroInst) : GoesOn c x (x.takeBlock c) := by
  refine ⟨?_, fun k hk => takeBlock_other x hk, fun w hw => ⟨w.inT0, by rw [takeBlock_has hw, hw]⟩⟩
  unfold MacroInst.takeBlock
  split <;> rfl

theorem granted (c : Nat) (x : MacroInst) : GoesOn c x { x with granted := true } := ⟨rfl, fun _ _ => rfl, fun w hw => ⟨w.inT0, hw⟩⟩

/-- A switch writes the accumulators of the core's block to T0 (R132). -/
theorem saved (c : Nat) (x : MacroInst) : GoesOn c x { x with works := x.works.map fun w => if w.core = c then { w with inT0 := true } else w } := by
  have hkey : ∀ k, (fun w : GroupWork => w.core == k) ∘ (fun w => if w.core = c then { w with inT0 := true } else w) = fun w => w.core == k := by
    intro k
    funext w
    simp only [Function.comp]
    split <;> rfl
  have hwork : ∀ k, (x.works.map fun w => if w.core = c then { w with inT0 := true } else w).find? (·.core == k) =
      (x.workOn k).map fun w => if w.core = c then { w with inT0 := true } else w := by
    intro k
    rw [List.find?_map, hkey]
    rfl
  refine ⟨rfl, fun k hk => ?_, fun w hw => ⟨true, ?_⟩⟩
  · refine (hwork k).trans ?_
    cases hw : x.workOn k with
    | none => rfl
    | some w => simp [takeBlock_core hw, hk]
  · refine (hwork c).trans ?_
    simp [hw, takeBlock_core hw]

end GoesOn

/-- Every part goes on, with the same contexts on every core, and no item changes. -/
structure PartsGoOn (c : Nat) (s t : State) : Prop where
  parts : ∀ p, (findMacro s p = none → findMacro t p = none) ∧ ∀ x, findMacro s p = some x → ∃ y, findMacro t p = some y ∧ GoesOn c x y
  contexts : ∀ k, (tget t.dl.cores k).contexts = (tget s.dl.cores k).contexts
  items : t.dl.items = s.dl.items

namespace PartsGoOn

theorem refl (c : Nat) (s : State) : PartsGoOn c s s := ⟨fun _ => ⟨id, fun x hx => ⟨x, hx, .refl c x⟩⟩, fun _ => rfl, rfl⟩

theorem trans {c : Nat} {s t u : State} (h : PartsGoOn c s t) (k : PartsGoOn c t u) : PartsGoOn c s u := by
  refine ⟨fun p => ⟨fun hp => (k.parts p).1 ((h.parts p).1 hp), fun x hx => ?_⟩, fun d => (k.contexts d).trans (h.contexts d), k.items.trans h.items⟩
  obtain ⟨y, hy, hxy⟩ := (h.parts p).2 x hx
  obtain ⟨z, hz, hyz⟩ := (k.parts p).2 y hy
  exact ⟨z, hz, hxy.trans hyz⟩

theorem leave {c : Nat} {s t : State} (h : PartsGoOn c s t) : PartsLeave s t := ⟨fun p => (h.parts p).1, fun k _ hp => (h.contexts k) ▸ hp⟩

/-- A change of cores that leaves their contexts. -/
theorem of_cores (c : Nat) {s t : State} (hm : t.dl.macros = s.dl.macros) (hi : t.dl.items = s.dl.items)
    (hc : ∀ k, (tget t.dl.cores k).slots = (tget s.dl.cores k).slots) : PartsGoOn c s t :=
  ⟨fun p => ⟨fun h => (findMacro_congr hm p).trans h, fun x hx => ⟨x, (findMacro_congr hm p).trans hx, .refl c x⟩⟩,
    fun k => congrArg (fun v : Vector (Option Nat) 12 => v.toList.filterMap id) (hc k), hi⟩

theorem modCore (c : Nat) (s : State) (i : Nat) {f : Core → Core} (hf : ∀ x, (f x).slots = x.slots) :
    PartsGoOn c s (s.modDl fun d => { d with cores := tmod d.cores i f }) :=
  .of_cores c rfl rfl fun k => proj_tmod s.dl.cores i k (g := Core.slots) hf

theorem modMacro (c : Nat) (s : State) (mid : Nat) {f : MacroInst → MacroInst} (hf : ∀ x, GoesOn c x (f x)) : PartsGoOn c s (s.modMacro mid f) := by
  have hid : ∀ m, (f m).id = m.id := fun m => by rw [(hf m).1]
  refine ⟨fun p => ⟨fun h => ?_, fun x hx => ?_⟩, fun _ => rfl, rfl⟩
  · rw [findMacro_modMacro s mid hid, h]
    rfl
  · refine ⟨_, by rw [findMacro_modMacro s mid hid, hx]; rfl, ?_⟩
    split
    · exact hf x
    · exact .refl c x

theorem chargeGrant (s : State) (c ns : Nat) : PartsGoOn c s (chargeGrant s (.core c) ns) := .modCore c s c fun _ => rfl

theorem grantNext (s : State) (c : Nat) : PartsGoOn c s (grantNext s (.core c)) := by
  unfold Machine.grantNext
  split
  · exact .refl c s
  · rename_i m _
    have harb : ∀ f, PartsGoOn c s (s.modArb (.core c) f) := fun f => .modCore c s c fun _ => rfl
    refine (harb _).trans (PartsGoOn.trans (.modMacro c _ m.id fun x => ?_) (.modCore c _ c fun _ => rfl))
    exact (GoesOn.granted c x).trans (.takeBlock c _)

end PartsGoOn

/-! Engines of a core. -/

theorem foldl_slots {α : Type} {f : Core → α → Core} (hf : ∀ c x, (f c x).slots = c.slots) (l : List α) (c : Core) : (l.foldl f c).slots = c.slots := by
  induction l generalizing c with
  | nil => rfl
  | cons x l ih => exact (ih _).trans (hf c x)

theorem writeRegion_slots (c : Core) (r : EngRegion) : (c.writeRegion r).slots = c.slots := by
  unfold Core.writeRegion
  split <;> rfl

theorem completeHead_slots (c : Core) (e : Nat) : (completeHead c e).slots = c.slots := by
  unfold completeHead
  dsimp only
  split
  · rfl
  · split
    · rfl
    · exact writeRegion_slots _ _

theorem completeHeads_slots (c : Core) : (completeHeads c).slots = c.slots := foldl_slots completeHead_slots _ c

theorem drainQueues_slots (c : Core) : (drainQueues c).slots = c.slots := foldl_slots (fun c _ => completeHeads_slots c) _ c

/-! The next context of a core (R72, R132). -/

namespace PartsGoOn

theorem switchFrom (s : State) (c : Nat) (old : Option Nat) : PartsGoOn c s (switchFrom s c old) := by
  unfold Machine.switchFrom
  split
  · exact .refl c s
  · split
    · exact .refl c s
    · exact (PartsGoOn.modCore c s c drainQueues_slots).trans (.modMacro c _ _ (GoesOn.saved c))

theorem followRail (c : Nat) (s : State) (d : Nat) : PartsGoOn c s (followRail s d) :=
  .of_cores c (by rw [followRail_dl]) (by rw [followRail_dl]) fun _ => by rw [followRail_dl]

end PartsGoOn

/-- The core has no context, and its grant is charged (R71, R132). -/
def coreIdle (s : State) (c ns : Nat) : State :=
  (chargeGrant s (.core c) ns).modDl fun d =>
    { d with cores := tmod d.cores c fun x => { x with current := none, clockMhz := if x.gated then 0 else tget s.power.clocks (c / 24) } }

theorem coreNext_eq (s : State) (c ns : Nat) :
    coreNext s c ns = switchFrom (followRail (grantNext (coreIdle s c ns) (.core c)) (c / 24)) c (tget s.dl.cores c).current := rfl

theorem PartsGoOn.coreIdle (s : State) (c ns : Nat) : PartsGoOn c s (coreIdle s c ns) := by
  refine (PartsGoOn.chargeGrant s c ns).trans ?_
  unfold Sys2Proof.coreIdle
  exact .modCore c _ c fun _ => rfl

theorem PartsGoOn.coreNext (s : State) (c ns : Nat) : PartsGoOn c s (coreNext s c ns) := by
  rw [coreNext_eq]
  exact (PartsGoOn.coreIdle s c ns).trans ((PartsGoOn.grantNext _ c).trans ((PartsGoOn.followRail c _ _).trans (.switchFrom _ c _)))

theorem followRail_out (s : State) (d : Nat) : ∃ ys, (followRail s d).out = s.out ++ ys ∧ ∀ y ∈ ys, ∃ rail mv, y = .avs rail mv := by
  unfold followRail
  dsimp only
  split
  · exact ⟨[], (List.append_nil _).symm, fun _ h => absurd h List.not_mem_nil⟩
  · refine ⟨[.avs d _], rfl, fun y hy => ⟨d, _, List.mem_singleton.1 hy⟩⟩

/-- Of what is sent a core that passes to its next context adds voltages alone (R78, R429). -/
theorem coreNext_out (s : State) (c ns : Nat) : ∃ ys, (coreNext s c ns).out = s.out ++ ys ∧ ∀ y ∈ ys, ∃ rail mv, y = .avs rail mv := by
  have hgrant : (grantNext (coreIdle s c ns) (.core c)).out = s.out :=
    ((grantNext_moves _ (.core c) (Moves.refl 128 _) rfl).rest .out rfl).trans ((chargeGrant_moves s (.core c) ns (Moves.refl 128 s) rfl).rest .out rfl)
  have hswitch : ∀ u old, (switchFrom u c old).out = u.out := fun u old => (switchFrom_moves u c old (Moves.refl 128 u) rfl).rest .out rfl
  rw [coreNext_eq, hswitch, ← hgrant]
  exact followRail_out _ _

end Sys2Proof
end

section
/-! SUPPORT. The end of a tile group (R98, R132, R133, R135, R278, R369, R386). -/

namespace Sys2Proof

open Machine

theorem CachesOnly.contexts {s t : State} (h : CachesOnly s t) (c : Nat) : (tget t.dl.cores c).contexts = (tget s.dl.cores c).contexts := by
  rw [h.2 c]
  rfl

theorem CachesOnly.items {s t : State} (h : CachesOnly s t) : t.dl.items = s.dl.items := by rw [h.1]

theorem CachesOnly.findMacro {s t : State} (h : CachesOnly s t) (p : Nat) : findMacro t p = findMacro s p := findMacro_congr (by rw [h.1]) p

theorem itemFails_congr {s t : State} {shoe seq cause : Nat} (h : t.dl.items = s.dl.items) (hf : itemFails s shoe seq cause) : itemFails t shoe seq cause := by
  obtain ⟨i, hi, hst⟩ := hf
  exact ⟨i, (findItem_congr h shoe seq).trans hi, hst⟩

/-! Which group a core ends. -/

section Group

variable {s : State} {c : Nat} {m : MacroInst}

theorem groupOf.current (h : groupOf s c m) : (tget s.dl.cores c).current.bind (findMacro s) = some m := by
  obtain ⟨-, -, hcur, hfind⟩ := h
  rw [hcur]
  exact hfind

/-- The context of a core, and whether it has a group in progress. -/
theorem groupRuns_iff (h : groupOf s c m) : groupRuns s c = true ↔ m.stopping = true ∨ groupLive m c := by
  simp only [groupRuns, h.current, groupLive, MacroInst.workFor]
  cases m.stopping <;> simp [and_assoc]

theorem groupRuns_idle (hd : diesUp s = true) (hc : c < 96) (h : ∀ m, groupOf s c m → m.stopping = false ∧ ¬ groupLive m c) : groupRuns s c = false := by
  cases hcur : (tget s.dl.cores c).current.bind (findMacro s) with
  | none => simp only [groupRuns, hcur]
  | some m =>
    obtain ⟨p, hp, hm⟩ := Option.bind_eq_some_iff.1 hcur
    have hid := findMacro_id hm
    have hgroup : groupOf s c m := ⟨hd, hc, by rw [hid]; exact hp, by rw [hid]; exact hm⟩
    obtain ⟨hstop, hlive⟩ := h m hgroup
    rw [Bool.eq_false_iff]
    intro hruns
    exact ((groupRuns_iff hgroup).1 hruns).elim (fun hs => Bool.false_ne_true (hstop.symm.trans hs)) hlive

theorem tileEnd_idle (h : groupRuns s c = false) (ns : Nat) : tileEnd c ns s = s := by
  simp only [tileEnd, h, Bool.not_false, if_true]

/-- TILE_GROUP_END has the effect of the group, after the moves that its writes meet (R197). -/
theorem tileGroupEnd_after (hd : diesUp s = true) {ns : Nat} {P : State → Prop} (h : P (tileEnd c ns s)) : RunsAfterMoves (.tileGroupEnd c ns none) s P :=
  ⟨_, h, tileGroupEnd_runs c ns none s hd⟩

theorem fencedRounds_of {t : State} (h : (tget t.fences.cores c).fenced = false) : fencedRounds t c = t := if_neg (h ▸ Bool.false_ne_true)

/-! A part that is stopping. -/

theorem tileEnd_stopping (h : groupOf s c m) (hs : m.stopping = true) (ns : Nat) :
    tileEnd c ns s = fencedRounds (coreNext (stopGroup s m c) c ns) c := by
  have hruns : groupRuns s c = true := (groupRuns_iff h).2 (.inl hs)
  have hend : groupEnd s c = (stopGroup s m c, none) := by simp only [groupEnd, h.current, hs, if_true]
  simp only [tileEnd, hruns, hend, Bool.not_true, Bool.false_eq_true, if_false]

/-- The group that a core still ends of a stopping part, where it has a block (R98). -/
def stopRun (s : State) (m : MacroInst) (c : Nat) : State :=
  match (m.takeBlock c).workOn c with
  | some w => (runGroup m w s).1
  | none => s

theorem stopRun_caches (s : State) (m : MacroInst) (c : Nat) : CachesOnly s (stopRun s m c) := by
  unfold stopRun
  split
  · exact runGroup_quiet m _ s
  · exact .refl s

/-- The core of a stopping part has left it (R98). -/
def stopLeft (s : State) (m : MacroInst) (c : Nat) : State :=
  ((stopRun s m c).modDl fun d => { d with cores := tmod d.cores c (leaveCore m.id) }).modMacro m.id fun x => { x with nextGroup := x.nextGroup + 1 }

theorem stopLeft_core (s : State) (m : MacroInst) (c k : Nat) :
    tget (stopLeft s m c).dl.cores k = tget (tmod (stopRun s m c).dl.cores c (leaveCore m.id)) k := rfl

theorem stopGroup_eq (s : State) (m : MacroInst) (c : Nat) : stopGroup s m c =
    if (stopLeft s m c).dl.cores.toList.any fun x => x.contexts.contains m.id then stopLeft s m c else removeMacro (stopLeft s m c) m.id := rfl

theorem stopLeft_contexts (hc : c < 96) (p k : Nat) (h : p ∈ (tget (stopLeft s m c).dl.cores k).contexts) :
    p ∈ (tget s.dl.cores k).contexts ∧ (k = c → p ≠ m.id) := by
  have hquiet := stopRun_caches s m c
  rw [stopLeft_core] at h
  rw [← hquiet.contexts k]
  by_cases hk : c = k
  · subst hk
    rw [tget_tmod_same _ _ hc] at h
    exact ⟨(mem_leaveCore h).1, fun _ => (mem_leaveCore h).2⟩
  · rw [tget_tmod_ne _ _ hk] at h
    exact ⟨h, fun e => absurd e.symm hk⟩

theorem findMacro_removeMacro (s : State) (mid : Nat) : findMacro (removeMacro s mid) mid = none := by
  rw [findMacro_none]
  intro m hm
  simpa using List.of_mem_filter hm

/-- A stopping part has left the core, and is gone with its last core (R98). -/
theorem stopGroup_leaves (hc : c < 96) : m.id ∉ (tget (stopGroup s m c).dl.cores c).contexts ∧
    ((∀ k, k ≠ c → m.id ∉ (tget s.dl.cores k).contexts) → findMacro (stopGroup s m c) m.id = none) := by
  rw [stopGroup_eq]
  split
  · rename_i hany
    refine ⟨fun h => (stopLeft_contexts hc _ _ h).2 rfl rfl, fun halone => ?_⟩
    obtain ⟨k, -, hk⟩ := any_cores hany
    obtain ⟨hmem, hne⟩ := stopLeft_contexts hc m.id k (by simpa using hk)
    by_cases h : k = c
    · exact absurd rfl (hne h)
    · exact absurd hmem (halone k h)
  · exact ⟨fun h => (stopLeft_contexts hc _ _ ((PartsLeave.removeMacro _ m.id).2 c _ h)).2 rfl rfl, fun _ => findMacro_removeMacro _ _⟩

/-- The end of a group of a stopping part (R98). -/
theorem tileEnd_leaves (h : groupOf s c m) (hs : m.stopping = true) (ns : Nat) : m.id ∉ (tget (tileEnd c ns s).dl.cores c).contexts ∧
    ((∀ k, k ≠ c → m.id ∉ (tget s.dl.cores k).contexts) → findMacro (tileEnd c ns s) m.id = none) := by
  have hleave : PartsLeave (stopGroup s m c) (tileEnd c ns s) := by
    rw [tileEnd_stopping h hs]
    exact (PartsGoOn.coreNext _ c ns).leave.trans (.fencedRounds _ c)
  obtain ⟨hcore, hgone⟩ := stopGroup_leaves (s := s) (m := m) h.2.1
  exact ⟨fun hmem => hcore (hleave.2 c _ hmem), fun halone => hleave.1 _ (hgone halone)⟩

/-! A group that ends its owner. -/

theorem groupLive.block (h : groupLive m c) : ∃ w, (m.takeBlock c).workOn c = some w :=
  Option.isSome_iff_exists.1 (takeBlock_works h.2.2.2)

theorem groupEnd_faulted (h : groupOf s c m) (hl : groupLive m c) (hf : (tget s.dl.cores c).faulted m.id = true) :
    groupEnd s c = (s.modEcc fun e => { e with unwritten := satInc 32 e.unwritten }, some (m, some (0x040A, 0))) := by
  obtain ⟨w, hw⟩ := hl.block
  obtain ⟨hstop, hphase, hhalt, -⟩ := hl
  simp [groupEnd, h.current, hstop, hphase, hhalt, hw, hf]

theorem groupEnd_failed (h : groupOf s c m) (hl : groupLive m c) {w : GroupWork} (hw : (m.takeBlock c).workOn c = some w)
    (hf : (tget s.dl.cores c).faulted m.id = false) {e : Nat × Nat} (he : (runGroup m w s).2 = .error e) :
    groupEnd s c = ((runGroup m w s).1, some (m, some e)) := by
  obtain ⟨hstop, hphase, hhalt, -⟩ := hl
  generalize hr : runGroup m w s = r at he
  obtain ⟨u, _ | _⟩ := r
  · cases he
    simp [groupEnd, h.current, hstop, hphase, hhalt, hw, hf, hr]
  · cases he

/-- What the group has left is in its part, and the core's program is at the group's end (R132, R135). -/
def groupLeft (u : State) (m : MacroInst) (c : Nat) (w : GroupWork) (g : GroupEnd) : State :=
  (u.modMacro m.id fun x => (x.takeBlock c).groupDone w g).modDl fun d => { d with cores := tmod d.cores c (endIssue m w.block w.chunk) }

theorem groupEnd_done (h : groupOf s c m) (hl : groupLive m c) {w : GroupWork} (hw : (m.takeBlock c).workOn c = some w)
    (hf : (tget s.dl.cores c).faulted m.id = false) {g : GroupEnd} (hg : (runGroup m w s).2 = .ok g) :
    groupEnd s c = (groupLeft (runGroup m w s).1 m c w g, some (m, none)) := by
  obtain ⟨hstop, hphase, hhalt, -⟩ := hl
  generalize hr : runGroup m w s = r at hg
  obtain ⟨u, _ | _⟩ := r
  · cases hg
  · cases hg
    simp [groupEnd, h.current, hstop, hphase, hhalt, hw, hf, hr, groupLeft]

end Group

end Sys2Proof
end

section
/-! SUPPORT. What the end of a tile group leaves: a part that goes on, or an owner that has ended (R98, R132, R135, R278, R386). -/

namespace Sys2Proof

open Machine

/-! A group that ends its item or its round. -/

theorem leaveFailed_items (s : State) (mid c : Nat) : (leaveFailed s mid c).dl.items = s.dl.items := by
  unfold leaveFailed
  dsimp only
  split <;> rfl

/-- An owner has ended at a group of core c, and the core goes on (R98, R278). -/
def ownerEnded (u : State) (m : MacroInst) (c ns : Nat) (e : Nat × Nat) : State := coreNext (leaveFailed (failOwner u m e.1 e.2) m.id c) c ns

theorem failOwner_item {m : MacroInst} {n seq l g : Nat} (h : m.owner = .item n seq l g) (u : State) (cause d : Nat) :
    failOwner u m cause d = failAt u n seq l g cause d := by
  simp only [failOwner, h]

theorem failOwner_round {m : MacroInst} {k : Nat} (h : m.owner = .round k) (u : State) (cause d : Nat) :
    failOwner u m cause d = failRound u k cause (0, 0, 0) := by
  simp only [failOwner, h]

theorem failOwner_fences (u : State) (m : MacroInst) (cause d : Nat) : (failOwner u m cause d).fences = u.fences := by
  unfold failOwner
  split
  · exact (failAt_moves u _ _ _ _ cause d (Moves.refl 128 u) rfl).rest .fences rfl
  · exact (failRound_moves u _ cause _ (Moves.refl 51080 u) rfl).rest .fences rfl

section Ended

variable {u : State} {m : MacroInst} {c ns : Nat} {e : Nat × Nat}

theorem ownerEnded_moves {k : Nat} (v : State) (hk : 131208 &&& k = 131208) : Moves k v (coreNext (leaveFailed v m.id c) c ns) :=
  coreNext_moves _ c ns (leaveFailed_moves v m.id c (Moves.refl k v) (mask_le hk (by decide))) hk

theorem ownerEnded_fences : (ownerEnded u m c ns e).fences = u.fences :=
  ((ownerEnded_moves _ (k := 131208) rfl).rest .fences rfl).trans (failOwner_fences u m e.1 e.2)

theorem ownerEnded_items : (ownerEnded u m c ns e).dl.items = (failOwner u m e.1 e.2).dl.items :=
  (PartsGoOn.coreNext _ c ns).items.trans (leaveFailed_items _ _ _)

/-- The item of a part fails with the group's cause (R98). -/
theorem ownerEnded_item {n seq l g : Nat} {i : Item} (h : m.owner = .item n seq l g) (hi : findItem u n seq = some i) (hf : i.fixed = false) :
    itemFails (ownerEnded u m c ns e) n seq e.1 ∧ othersStay u (ownerEnded u m c ns e) n seq ∧ (ownerEnded u m c ns e).ecc = u.ecc := by
  have hitems := ownerEnded_items (u := u) (m := m) (c := c) (ns := ns) (e := e)
  rw [failOwner_item h] at hitems
  refine ⟨itemFails_congr hitems (itemFails_failAt l g e.1 e.2 hi hf), (others_failAt u n seq l g e.1 e.2).trans (.of_items hitems), ?_⟩
  refine ((ownerEnded_moves _ (k := 131208) rfl).rest .ecc rfl).trans ?_
  rw [failOwner_item h]
  exact (failAt_moves u n seq l g e.1 e.2 (Moves.refl 128 u) rfl).rest .ecc rfl

/-- The round of a part fails with the group's cause (R278). -/
theorem ownerEnded_round {k : Nat} (h : m.owner = .round k) (hk : k < 16) (ha : (u.armed k).isSome = true) :
    roundFails u (ownerEnded u m c ns e) k e.1 (0, 0, 0) := by
  obtain ⟨a, ha⟩ := Option.isSome_iff_exists.1 ha
  have hrounds : (ownerEnded u m c ns e).rounds = (failRound u k e.1 (0, 0, 0)).rounds := by
    refine ((ownerEnded_moves _ (k := 131208) rfl).rest .rounds rfl).trans ?_
    rw [failOwner_round h]
  have hfails := failRound_fails hk ha e.1 (0, 0, 0)
  unfold roundFails ctrlStays State.armed at hfails ⊢
  rwa [hrounds]

end Ended

section Group

variable {s : State} {c ns : Nat} {m : MacroInst}

theorem tileEnd_ends (h : groupOf s c m) (hl : groupLive m c) (hfence : (tget s.fences.cores c).fenced = false) {u : State} {e : Nat × Nat}
    (hend : groupEnd s c = (u, some (m, some e))) (hu : u.fences = s.fences) : tileEnd c ns s = ownerEnded u m c ns e := by
  have hruns : groupRuns s c = true := (groupRuns_iff h).2 (.inr hl)
  simp only [tileEnd, hruns, hend, Bool.not_true, Bool.false_eq_true, if_false]
  exact fencedRounds_of ((congrArg (fun f => (tget f.cores c).fenced) (ownerEnded_fences (ns := ns).trans hu)).trans hfence)

/-- A group that has read bytes never written fails its part's item (R133). -/
theorem tileEnd_faulted (h : groupOf s c m) (hl : groupLive m c) (hf : (tget s.dl.cores c).faulted m.id = true)
    (hfence : (tget s.fences.cores c).fenced = false) {n seq l g : Nat} {i : Item} (ho : m.owner = .item n seq l g)
    (hi : findItem s n seq = some i) (hfix : i.fixed = false) :
    itemFails (tileEnd c ns s) n seq 0x040A ∧ othersStay s (tileEnd c ns s) n seq ∧ (tileEnd c ns s).ecc.unwritten = satInc 32 s.ecc.unwritten := by
  rw [tileEnd_ends h hl hfence (groupEnd_faulted h hl hf) rfl]
  obtain ⟨hfails, hothers, hecc⟩ := ownerEnded_item (u := s.modEcc fun e => { e with unwritten := satInc 32 e.unwritten }) (c := c) (ns := ns)
    (e := (0x040A, 0)) ho hi hfix
  exact ⟨hfails, hothers, by rw [hecc]; rfl⟩

theorem runGroup_fences (m : MacroInst) (w : GroupWork) (s : State) : (runGroup m w s).1.fences = s.fences :=
  (runGroup_moves m w s (Moves.refl 304584 s) rfl).rest .fences rfl

section Ends

variable {w : GroupWork} (h : groupEnds s c m w)
include h

theorem groupEnds.failed {e : Nat × Nat} (he : (runGroup m w s).2 = .error e) : tileEnd c ns s = ownerEnded (runGroup m w s).1 m c ns e := by
  obtain ⟨hof, hl, hw, -, hf, hfence⟩ := h
  exact tileEnd_ends hof hl hfence (groupEnd_failed hof hl hw hf he) (runGroup_fences m w s)

/-- A group that fails its part's item (R98). -/
theorem groupEnds.failed_item {e : Nat × Nat} (he : (runGroup m w s).2 = .error e) {n seq l g : Nat} {i : Item} (ho : m.owner = .item n seq l g)
    (hi : findItem s n seq = some i) (hfix : i.fixed = false) : itemFails (tileEnd c ns s) n seq e.1 ∧ othersStay s (tileEnd c ns s) n seq := by
  have hitems := (runGroup_quiet m w s).items
  rw [groupEnds.failed h he]
  obtain ⟨hfails, hothers, -⟩ := ownerEnded_item (u := (runGroup m w s).1) (c := c) (ns := ns) (e := e) ho ((findItem_congr hitems n seq).trans hi) hfix
  exact ⟨hfails, (othersStay.of_items hitems).trans hothers⟩

/-- A group that fails its part's round (R278). -/
theorem groupEnds.failed_round {e : Nat × Nat} (he : (runGroup m w s).2 = .error e) {k : Nat} (ho : m.owner = .round k) (hk : k < 16)
    (ha : ((runGroup m w s).1.armed k).isSome = true) : roundFails (runGroup m w s).1 (tileEnd c ns s) k e.1 (0, 0, 0) := by
  rw [groupEnds.failed h he]
  exact ownerEnded_round ho hk ha

end Ends

/-! A group after which its part goes on. -/

theorem groupDone_eq (m : MacroInst) (c : Nat) (w : GroupWork) (g : GroupEnd) : ∃ nb ws, (m.takeBlock c).groupDone w g =
    { m with nextGroup := m.nextGroup + 1, note := m.note ||| g.note, carry := g.carry ++ m.carry.filter fun y => g.carry.all fun z => z.1 != y.1
             nextBlock := nb, works := ws } := by
  unfold MacroInst.takeBlock
  split <;> exact ⟨_, _, rfl⟩

theorem find_works_other (ws : List GroupWork) {c k : Nat} (hk : k ≠ c) : (ws.filter (·.core != c)).find? (·.core == k) = ws.find? (·.core == k) := by
  rw [List.find?_filter]
  congr 1
  funext w
  by_cases hw : w.core = k
  · simp [hw, hk]
  · simp [hw]

theorem groupDone_works (m : MacroInst) (w : GroupWork) (g : GroupEnd) : (m.groupDone w g).works =
    if w.chunk + 1 < m.chunks then m.works.filter (·.core != w.core) ++ [{ w with chunk := w.chunk + 1, acc := g.acc, inT0 := false }]
    else m.works.filter (·.core != w.core) := rfl

/-- The other cores keep their blocks (R135). -/
theorem groupDone_other (m : MacroInst) {w : GroupWork} (g : GroupEnd) {c k : Nat} (hw : w.core = c) (hk : k ≠ c) : (m.groupDone w g).workOn k = m.workOn k := by
  subst hw
  rw [MacroInst.workOn, groupDone_works]
  split
  · rw [List.find?_append, find_works_other m.works hk]
    simp [MacroInst.workOn, Ne.symm hk]
  · exact find_works_other m.works hk

/-- The core goes on with the next chunk of its block (R135). -/
theorem groupDone_core (m : MacroInst) {w : GroupWork} (g : GroupEnd) {c : Nat} (hw : w.core = c) (hnext : w.chunk + 1 < m.chunks) :
    (m.groupDone w g).workOn c = some { w with chunk := w.chunk + 1, acc := g.acc, inT0 := false } := by
  subst hw
  rw [MacroInst.workOn, groupDone_works, if_pos hnext, List.find?_append, List.find?_eq_none.2 fun x hx => by simpa using List.of_mem_filter hx]
  simp

/-- Part m after its group: what a halt of its claim adds is in `halted` (R386). -/
def partAfter (s : State) (m : MacroInst) (c : Nat) (w : GroupWork) (g : GroupEnd) : MacroInst :=
  { (m.takeBlock c).groupDone w g with halted := if (tget s.dbg.wins m.claim).halted then c :: m.halted else m.halted }

theorem groupDone_id (m : MacroInst) (c : Nat) (w : GroupWork) (g : GroupEnd) : ((m.takeBlock c).groupDone w g).id = m.id := by
  obtain ⟨nb, ws, h⟩ := groupDone_eq m c w g
  rw [h]

theorem findMacro_groupLeft (u : State) (m : MacroInst) (c : Nat) (w : GroupWork) (g : GroupEnd) (p : Nat) :
    findMacro (groupLeft u m c w g) p = (findMacro u p).map fun x => if p = m.id then (x.takeBlock c).groupDone w g else x :=
  findMacro_modMacro u m.id (f := fun x => (x.takeBlock c).groupDone w g) (fun x => groupDone_id x c w g) p

/-- The halt of a claim holds the context whose group has ended; other parts are as they were (R386). -/
theorem findMacro_endStep (v : State) (m : MacroInst) (c p : Nat) : findMacro (endStep v m c) p = (findMacro v p).map fun x =>
    if p = m.id ∧ (tget v.dbg.wins m.claim).halted = true then { x with halted := if x.halted.contains c then x.halted else c :: x.halted } else x := by
  unfold endStep
  dsimp only
  split
  · rename_i hh
    simp only [hh, and_true]
    exact findMacro_modMacro v m.id (f := fun x => { x with halted := if x.halted.contains c then x.halted else c :: x.halted }) (fun _ => rfl) p
  · rename_i hh
    simp [hh]

theorem endStep_items (v : State) (m : MacroInst) (c : Nat) : (endStep v m c).dl.items = v.dl.items := by
  unfold endStep
  dsimp only
  split <;> rfl

/-- The state in which the group's effect and a halt have been recorded, before the core passes on. -/
def groupStepped (s : State) (m : MacroInst) (c : Nat) (w : GroupWork) (g : GroupEnd) : State := endStep (groupLeft (runGroup m w s).1 m c w g) m c

theorem groupStepped_rest {p : Part} (w : GroupWork) (g : GroupEnd) (hp : Nat.testBit 65664 p.bit = false) : p.same (runGroup m w s).1 (groupStepped s m c w g) := by
  have hleft : Moves 65664 (runGroup m w s).1 (groupLeft (runGroup m w s).1 m c w g) :=
    (State.modMacro_moves _ m.id _ (Moves.refl 65664 _) rfl).trans ((State.modDl_moves _ _ (Moves.refl 65664 _) rfl))
  exact (endStep_moves _ m c hleft rfl).rest p hp

theorem groupStepped_items (w : GroupWork) (g : GroupEnd) : (groupStepped s m c w g).dl.items = s.dl.items :=
  (endStep_items _ m c).trans (runGroup_quiet m w s).items

section Done

variable {w : GroupWork} {g : GroupEnd}

theorem partAfter_eq (s : State) (m : MacroInst) (c : Nat) (w : GroupWork) (g : GroupEnd) : ∃ nb ws, partAfter s m c w g =
    { m with nextGroup := m.nextGroup + 1, note := m.note ||| g.note, carry := g.carry ++ m.carry.filter fun y => g.carry.all fun z => z.1 != y.1
             halted := if (tget s.dbg.wins m.claim).halted then c :: m.halted else m.halted, nextBlock := nb, works := ws } := by
  obtain ⟨nb, ws, h⟩ := groupDone_eq m c w g
  exact ⟨nb, ws, by rw [partAfter, h]⟩

theorem groupLeft_dbg : (groupLeft (runGroup m w s).1 m c w g).dbg = s.dbg := (runGroup_moves m w s (Moves.refl 304584 s) rfl).rest .dbg rfl

/-- The part itself, once the group and a halt have been recorded. -/
theorem findMacro_groupStepped (hm : findMacro s m.id = some m) (hc : c ∉ m.halted) : findMacro (groupStepped s m c w g) m.id = some (partAfter s m c w g) := by
  obtain ⟨nb, ws, hdone⟩ := groupDone_eq m c w g
  rw [groupStepped, findMacro_endStep, findMacro_groupLeft, (runGroup_quiet m w s).findMacro, hm, groupLeft_dbg, partAfter, hdone]
  by_cases hh : (tget s.dbg.wins m.claim).halted = true <;> simp [hh, hc, hdone]

theorem findMacro_groupStepped_other {p : Nat} (hp : p ≠ m.id) : findMacro (groupStepped s m c w g) p = findMacro s p := by
  rw [groupStepped, findMacro_endStep, findMacro_groupLeft, (runGroup_quiet m w s).findMacro]
  simp [hp]

/-- What the next context of the core adds to a part after its group. -/
theorem groupTaken_of {t : State} {x : MacroInst} (hw : (m.takeBlock c).workOn c = some w) (hx : findMacro t m.id = some x)
    (hgo : GoesOn c (partAfter s m c w g) x) : groupTaken s t c m w g := by
  obtain ⟨heq, hothers, hself⟩ := hgo
  obtain ⟨nb, ws, hafter⟩ := partAfter_eq s m c w g
  have hcore := takeBlock_core hw
  refine ⟨x, hx, by rw [heq, hafter], fun k hk => ?_, fun hnext => ?_⟩
  · exact (hothers k hk).trans ((groupDone_other (m.takeBlock c) g hcore hk).trans (takeBlock_other m hk))
  · have hchunks : (m.takeBlock c).chunks = m.chunks := by
      unfold MacroInst.takeBlock
      split <;> rfl
    have hgroup := groupDone_core (m.takeBlock c) g hcore (hchunks ▸ hnext)
    obtain ⟨saved, hsaved⟩ := hself _ hgroup
    exact ⟨saved, hsaved⟩

theorem GoesOn.same_rest {x y : MacroInst} (h : GoesOn c x y) :
    { y with granted := true, nextBlock := 0, works := [] } = { x with granted := true, nextBlock := 0, works := [] } := by
  rw [h.1]

theorem fencedOut_of {t : State} {p : Nat} {x : MacroInst} (hx : findMacro t p = some x) (hf : x.fencedBy = none) : fencedOut t p = t := by
  simp only [fencedOut, hx, hf]

/-- A part after its group, when the core has passed on. -/
theorem groupEnds.part (h : groupEnds s c m w) (g : GroupEnd) (ns : Nat) : ∃ x, findMacro (coreNext (groupStepped s m c w g) c ns) m.id = some x ∧ GoesOn c (partAfter s m c w g) x := by
  obtain ⟨⟨-, -, -, hm⟩, ⟨-, -, hhalt, -⟩, -⟩ := h
  exact ((PartsGoOn.coreNext _ c ns).parts m.id).2 _ (findMacro_groupStepped hm hhalt)

variable (h : groupEnds s c m w) (hg : (runGroup m w s).2 = .ok g)
include h hg

theorem groupEnds.done : tileEnd c ns s = coreNext (groupStepped s m c w g) c ns := by
  obtain ⟨x, hx, hgo⟩ := groupEnds.part h g ns
  obtain ⟨hof, hl, hw, hnone, hf, hfence⟩ := h
  have hruns : groupRuns s c = true := (groupRuns_iff hof).2 (.inr hl)
  obtain ⟨nb, ws, hafter⟩ := partAfter_eq s m c w g
  have hby : x.fencedBy = none := by rw [hgo.1, hafter]; exact hnone
  have hfences : (coreNext (groupStepped s m c w g) c ns).fences = s.fences :=
    ((coreNext_moves _ c ns (Moves.refl 131208 _) rfl).rest .fences rfl).trans ((groupStepped_rest w g (p := .fences) rfl).trans (runGroup_fences m w s))
  simp only [tileEnd, hruns, groupEnd_done hof hl hw hf hg, Bool.not_true, Bool.false_eq_true, if_false]
  rw [← groupStepped, fencedOut_of hx hby]
  exact fencedRounds_of (by rw [hfences]; exact hfence)

theorem groupEnds.tiers : (tileEnd c ns s).tiers = (runGroup m w s).1.tiers := by
  rw [groupEnds.done h hg]
  exact ((coreNext_moves _ c ns (Moves.refl 131208 _) rfl).rest .tiers rfl).trans (groupStepped_rest w g (p := .tiers) rfl)

/-- The effect of a group after which its part goes on (R132, R135, R386). -/
theorem groupEnds.taken : groupTaken s (tileEnd c ns s) c m w g ∧
    (∀ k, k ≠ m.id → let rest : MacroInst → MacroInst := fun x => { x with granted := true, nextBlock := 0, works := [] }
      (findMacro (tileEnd c ns s) k).map rest = (findMacro s k).map rest) ∧
    (tileEnd c ns s).dl.items = s.dl.items ∧ (tileEnd c ns s).tiers = (runGroup m w s).1.tiers ∧
    ∃ ys, (tileEnd c ns s).out = (runGroup m w s).1.out ++ ys ∧ ∀ y ∈ ys, ∃ rail mv, y = .avs rail mv := by
  refine ⟨?_, fun k hk => ?_, ?_, groupEnds.tiers h hg, ?_⟩ <;> rw [groupEnds.done h hg]
  · obtain ⟨x, hx, hgo⟩ := groupEnds.part h g ns
    exact groupTaken_of h.2.2.1 hx hgo
  · have hother := findMacro_groupStepped_other (s := s) (m := m) (c := c) (w := w) (g := g) hk
    obtain ⟨hnone, hsome⟩ := (PartsGoOn.coreNext (groupStepped s m c w g) c ns).parts k
    dsimp only
    cases hx : findMacro s k with
    | none => rw [hnone (hother.trans hx)]
    | some x =>
      obtain ⟨y, hy, hgo⟩ := hsome x (hother.trans hx)
      rw [hy]
      exact congrArg some hgo.same_rest
  · exact (PartsGoOn.coreNext _ c ns).items.trans (groupStepped_items w g)
  · obtain ⟨ys, hout, hys⟩ := coreNext_out (groupStepped s m c w g) c ns
    exact ⟨ys, by rw [hout, groupStepped_rest w g (p := .out) rfl], hys⟩

end Done

/-! A group of one row (R155, R159, R166). -/

/-- The row that SFN, HOIST or CONVERT reads is computed and written. -/
theorem runGroup_row {w : GroupWork} (hcode : m.code = 4 ∨ m.code = 7 ∨ m.code = 8) {i : Nat × Nat × Nat} (hrows : blockRows m w.block = [i])
    {bs : List Byte} (hread : (readClaim s m.claim (dAddr (m.desc 0) i.1 i.2.1 i.2.2) (dRow (m.desc 0))).2 = .ok bs)
    {v : State} (hwrite : writeClaim (readClaim s m.claim (dAddr (m.desc 0) i.1 i.2.1 i.2.2) (dRow (m.desc 0))).1 m.claim
      (dAddr (m.desc 1) i.1 i.2.1 i.2.2) (padGranule (rowOut m bs)) = (v, .ok ())) : ∃ g, runGroup m w s = (v, .ok g) := by
  generalize hx : readClaim s m.claim (dAddr (m.desc 0) i.1 i.2.1 i.2.2) (dRow (m.desc 0)) = x at hread hwrite
  obtain ⟨u, _ | _⟩ := x
  · cases hread
  · cases hread
    rcases hcode with hcode | hcode | hcode
    · have hrow : rowOut m bs = encodeRow (m.desc 1) ((if hasScale (m.desc 0) then (decodeRow (dFmt (m.desc 0)) (dExt (m.desc 0) 0) bs).map
          fun x => mul32 x (scaleFPOf (m.desc 0)) else decodeRow (dFmt (m.desc 0)) (dExt (m.desc 0) 0) bs).map (evalTable ((m.table.map (·.2.2)).getD {}))) := by
        simp [rowOut, hcode]
      rw [hrow] at hwrite
      simp [runGroup, hcode, hrows, runRows, runEach, sfnRow, readScaled, readRow, writeRow, Run.andThen, hx, hwrite]
    · have hrow : rowOut m bs = bs := by simp [rowOut, hcode]
      rw [hrow] at hwrite
      simp [runGroup, hcode, hrows, runRows, runEach, hoistRow, Run.andThen, hx, hwrite]
    · have hrow : rowOut m bs = (convertRow (m.desc 0) (m.desc 1) m.param bs).1 := by simp [rowOut, hcode]
      rw [hrow] at hwrite
      simp [runGroup, hcode, hrows, runRows, runEach, convertRowRun, Run.andThen, hx, hwrite]

/-- What a group of one row writes stands (R155, R159, R166). -/
theorem groupEnds.row {w : GroupWork} (h : groupEnds s c m w) (hcode : m.code = 4 ∨ m.code = 7 ∨ m.code = 8) {i : Nat × Nat × Nat}
    (hrows : blockRows m w.block = [i]) {bs : List Byte} (hread : (readClaim s m.claim (dAddr (m.desc 0) i.1 i.2.1 i.2.2) (dRow (m.desc 0))).2 = .ok bs)
    {r : Run Unit} (hr : writeClaim (readClaim s m.claim (dAddr (m.desc 0) i.1 i.2.1 i.2.2) (dRow (m.desc 0))).1 m.claim
      (dAddr (m.desc 1) i.1 i.2.1 i.2.2) (padGranule (rowOut m bs)) = r) (hok : r.2 = .ok ()) : (tileEnd c ns s).tiers = r.1.tiers := by
  obtain ⟨g, hg⟩ := runGroup_row hcode hrows hread (v := r.1) (hr.trans (Prod.ext rfl hok))
  rw [groupEnds.tiers h (g := g) (by rw [hg]), hg]

end Group

end Sys2Proof
end

section
/-! SUPPORT. The start of a part on its cores (R133, R140, R391). -/

namespace Sys2Proof

open Machine

/-! Entries of a table changed in turn. -/

section Fold

variable {α β : Type} [Inhabited α] {k : Nat} (f : Nat × β → α → α)

theorem foldl_tmod_ne (ps : List (Nat × β)) (v : Vector α k) {x : Nat} (h : x ∉ ps.map Prod.fst) :
    tget (ps.foldl (fun v p => tmod v p.1 (f p)) v) x = tget v x := by
  induction ps generalizing v with
  | nil => rfl
  | cons p ps ih =>
    rw [List.map_cons, List.mem_cons, not_or] at h
    rw [List.foldl_cons, ih _ h.2, tget_tmod_ne _ _ (Ne.symm h.1)]

theorem foldl_tmod_mem (ps : List (Nat × β)) (hnd : (ps.map Prod.fst).Nodup) (v : Vector α k) {p : Nat × β} (hp : p ∈ ps) (hk : p.1 < k) :
    tget (ps.foldl (fun v p => tmod v p.1 (f p)) v) p.1 = f p (tget v p.1) := by
  induction ps generalizing v with
  | nil => exact absurd hp List.not_mem_nil
  | cons q ps ih =>
    rw [List.map_cons, List.nodup_cons] at hnd
    rw [List.foldl_cons]
    rcases List.mem_cons.1 hp with rfl | hp
    · rw [foldl_tmod_ne f ps _ hnd.1, tget_tmod_same _ _ hk]
    · have hne : q.1 ≠ p.1 := fun e => hnd.1 (e ▸ List.mem_map_of_mem hp)
      rw [ih hnd.2 _ hp, tget_tmod_ne _ _ hne]

end Fold

/-! A core takes a part. -/

/-- The use of a unit, where some units have passed to another use. -/
theorem foldl_takeUnit_use (claim : Nat) (use_ : T0Use) (us : List Nat) (v : Vector T0Unit 48) {u : Nat} (hu : u < 48) :
    (tget (us.foldl (fun v u => tmod v u (takeUnit claim use_)) v) u).use_ = if u ∈ us then use_ else (tget v u).use_ := by
  induction us generalizing v with
  | nil => rfl
  | cons x us ih =>
    rw [List.foldl_cons, ih]
    by_cases hx : x = u
    · subst hx
      rw [tget_tmod_same _ _ hu]
      simp [takeUnit]
    · rw [tget_tmod_ne _ _ hx]
      simp [Ne.symm hx]

theorem length_filter_not_take {l : List Nat} (hl : l.Nodup) (n : Nat) : (l.filter fun x => decide (x ∉ l.take n)).length = l.length - n := by
  have hsplit : l.filter (fun x => decide (x ∉ l.take n)) = l.drop n := by
    conv_lhs => rw [← List.take_append_drop n l, List.filter_append]
    rw [List.take_append_drop, List.filter_eq_nil_iff.2 fun x hx => by simpa using hx, List.nil_append, List.filter_eq_self.2]
    intro x hx
    exact decide_eq_true fun htake => List.disjoint_take_drop hl (Nat.le_refl n) htake hx
  rw [hsplit, List.length_drop]

theorem freeUnitList_nodup (x : Core) : (freeUnitList x).Nodup := List.nodup_range.filter _

/-- A working set comes out of the free units (R133). -/
theorem freeUnitList_take {x y : Core} {claim : Nat} {use_ : T0Use} (huse : use_ ≠ .free) {n : Nat}
    (hy : y.units = ((freeUnitList x).take n).foldl (fun v u => tmod v u (takeUnit claim use_)) x.units) (hn : n ≤ (freeUnitList x).length) :
    (freeUnitList y).length + n = (freeUnitList x).length := by
  have hlist : freeUnitList y = (freeUnitList x).filter fun u => decide (u ∉ (freeUnitList x).take n) := by
    generalize hus : (freeUnitList x).take n = us at hy ⊢
    unfold freeUnitList
    rw [List.filter_filter, hy]
    refine List.filter_congr fun u hu => ?_
    rw [foldl_takeUnit_use claim use_ us x.units (List.mem_range.1 hu)]
    split <;> simp [*]
  rw [hlist, length_filter_not_take (freeUnitList_nodup x), Nat.sub_add_cancel hn]

/-- A core with fewer than 12 contexts has a free one. -/
theorem free_context {x : Core} (h : x.contexts.length < 12) : (List.range 12).findIdx (fun i => (tget x.slots i).isNone) < 12 := by
  have hfree : ∃ a ∈ x.slots.toList, a.isSome = false := by
    by_contra hall
    have hfull : (x.slots.toList.filterMap id).length = x.slots.toList.length :=
      List.filterMap_length_eq_length.2 fun a ha => Option.isSome_iff_ne_none.2 fun hnone => hall ⟨a, ha, Option.isSome_eq_false_iff.2 (Option.isNone_iff_eq_none.2 hnone)⟩
    rw [Vector.length_toList] at hfull
    exact absurd hfull (Nat.ne_of_lt h)
  obtain ⟨a, ha, hnone⟩ := hfree
  obtain ⟨i, hi, rfl⟩ := List.mem_iff_getElem.1 ha
  have h12 : i < 12 := by simpa using hi
  have hmem : ∃ j ∈ List.range 12, (tget x.slots j).isNone = true := ⟨i, List.mem_range.2 h12, by simpa [tget, h12] using hnone⟩
  have hlt := List.findIdx_lt_length.2 hmem
  rwa [List.length_range] at hlt

theorem mem_contexts_of_slot {x : Core} {p k : Nat} (hk : k < 12) (h : tget x.slots k = some p) : p ∈ x.contexts := by
  rw [mem_contexts]
  have hget : x.slots[k] = some p := by simpa [tget, hk] using h
  exact hget ▸ by simp

section Take

variable {m : MacroInst} {x : Core} (mhz rank count : Nat) (loaded : List Byte)

theorem coreTake_context (h : x.contexts.length < 12) : m.id ∈ (coreTake m mhz rank count loaded x).contexts :=
  mem_contexts_of_slot (free_context h) (tget_tset_same x.slots (some m.id) (free_context h))

theorem coreTake_free (h : m.t0Units ≤ (freeUnitList x).length) :
    (freeUnitList (coreTake m mhz rank count loaded x)).length + m.t0Units = (freeUnitList x).length :=
  freeUnitList_take (claim := m.claim) (use_ := .work m.id) (fun e => nomatch e) rfl h

end Take

/-! The participants of a part. -/

theorem laneCores_nodup (l : Nat) : (laneCores l).Nodup := List.nodup_range.map fun _ _ h => Nat.add_left_cancel h

theorem coresFor_nodup (s : State) (m : MacroInst) : (coresFor s m).Nodup := by
  unfold coresFor participants
  split
  · refine List.Nodup.filter _ ?_
    split
    · exact List.nodup_range.filter _
    · exact List.nodup_nil
  · split
    · exact (laneCores_nodup _).filter _
    · exact List.nodup_nil

theorem coreReady_spec {s : State} {m : MacroInst} {c : Nat} (h : coreReady s m c = true) :
    (tget s.dl.cores c).contexts.length < 12 ∧ m.t0Units ≤ (freeUnitList (tget s.dl.cores c)).length := by
  simpa [coreReady] using h

theorem findMacro_takeCores {u : State} {m : MacroInst} (cs : List Nat) (loaded : List Byte) (h : findMacro u m.id = some m) :
    findMacro (takeCores u m cs loaded) m.id = some { m with phase := .running, cores := cs, age := u.now } := by
  refine (findMacro_modMacro _ m.id (f := fun x => { x with phase := .running, cores := cs, age := u.now }) (fun _ => rfl) m.id).trans ?_
  exact (congrArg (Option.map _) h).trans (by simp)

/-- The participants take the part, in a state that has the Dealer, the clocks and the time of s (R140). -/
theorem takeCores_taken {s u : State} {m : MacroInst} (h : partMayStart s m) (hd : u.dl = s.dl) (hp : u.power = s.power) (hnow : u.now = s.now)
    (loaded : List Byte) : coresTaken s (takeCores u m (coresFor s m) loaded) m := by
  obtain ⟨-, hm, -, -, -, -, -, hready⟩ := h
  have hcore : ∀ c, tget (takeCores u m (coresFor s m) loaded).dl.cores c = tget ((coresFor s m).zipIdx.foldl (fun v p =>
      tmod v p.1 (coreTake m (tget s.power.clocks (p.1 / 24)) p.2 (coresFor s m).length loaded)) s.dl.cores) c := by
    intro c
    rw [← hd, ← hp]
    rfl
  have hfst : (coresFor s m).zipIdx.map Prod.fst = coresFor s m := List.zipIdx_map_fst 0 _
  have htake := fun p => foldl_tmod_mem (fun p : Nat × Nat => coreTake m (tget s.power.clocks (p.1 / 24)) p.2 (coresFor s m).length loaded)
    (coresFor s m).zipIdx (hfst.symm ▸ coresFor_nodup s m) s.dl.cores (p := p)
  refine ⟨?_, fun c hc => ?_, fun c hc => ?_⟩
  · have hfind : findMacro u m.id = some m := (findMacro_congr (congrArg Dealer.macros hd) m.id).trans hm
    rw [findMacro_takeCores _ _ hfind, hnow]
  · obtain ⟨p, hp, rfl⟩ := List.mem_map.1 (hfst.symm ▸ hc)
    obtain ⟨h96, hcr⟩ := hready p.1 hc
    obtain ⟨hctx, hunits⟩ := coreReady_spec hcr
    dsimp only
    rw [hcore, htake p hp h96]
    exact ⟨coreTake_context _ _ _ _ hctx, rfl, rfl, coreTake_free _ _ _ _ hunits, rfl, rfl⟩
  · rw [hcore]
    exact foldl_tmod_ne _ _ _ (hfst.symm ▸ hc)

/-! MACRO_START. -/

section Start

variable {s : State} {m : MacroInst}

theorem startMacro_guard (h : partMayStart s m) : ¬ (m.phase ≠ .dispatched ∨ s.redealing ∨ shoeHalted s m.claim ∨ coresFor s m = [] ∨
    earlierPart s m ∨ !(coresFor s m).all (coreReady s m)) := by
  obtain ⟨-, -, hphase, hredeal, hhalt, hsome, hearlier, hready⟩ := h
  have hall : (coresFor s m).all (coreReady s m) = true := List.all_eq_true.2 fun c hc => (hready c hc).2
  simp [hphase, hredeal, hhalt, hsome, hearlier, hall]

/-- A part that may not start does not (R123, R132, R133, R140). -/
theorem macroStart_refused {p : Nat} (hd : diesUp s = true) (h : ∀ m, m.id = p → ¬ partMayStart s m)
    (hcores : ∀ m, findMacro s p = some m → ∀ c ∈ coresFor s m, c < 96) : macroStart s p = s := by
  have hstart : startMacro s p = (s, .ok ()) := by
    cases hm : findMacro s p with
    | none => simp only [startMacro, hm]
    | some m =>
      have hid := findMacro_id hm
      simp only [startMacro, hm]
      refine if_pos (by_contra fun hno => h m hid ?_)
      simp only [not_or, not_not, Bool.not_eq_true', Bool.not_eq_false, Bool.not_eq_true] at hno
      obtain ⟨hphase, hredeal, hhalt, hsome, hearlier, hall⟩ := hno
      exact ⟨hd, hid ▸ hm, hphase, hredeal, hhalt, hsome, hearlier, fun c hc => ⟨hcores m hm c hc, List.all_eq_true.1 hall c hc⟩⟩
  simp only [macroStart, hstart]

theorem macroStart_round (h : partMayStart s m) {k : Nat} (ho : m.owner = .round k) : macroStart s m.id = takeCores s m (coresFor s m) [] := by
  have hstart : startMacro s m.id = (takeCores s m (coresFor s m) [], .ok ()) := by
    simp only [startMacro, h.2.1, if_neg (startMacro_guard h), ho]
  simp only [macroStart, hstart]

theorem startMacro_item (h : partMayStart s m) {n seq l g : Nat} (ho : m.owner = .item n seq l g) : startMacro s m.id =
    (loadVariant m (coresFor s m) s).andThen fun loaded u => (takeCores u m (coresFor s m) loaded, .ok ()) := by
  simp only [startMacro, h.2.1, if_neg (startMacro_guard h), ho]

theorem macroStart_loaded (h : partMayStart s m) {n seq l g : Nat} (ho : m.owner = .item n seq l g) {bs : List Byte}
    (hr : (loadVariant m (coresFor s m) s).2 = .ok bs) :
    macroStart s m.id = takeCores (loadVariant m (coresFor s m) s).1 m (coresFor s m) bs := by
  have hstart := startMacro_item h ho
  generalize loadVariant m (coresFor s m) s = r at hr hstart ⊢
  obtain ⟨u, _ | _⟩ := r
  · cases hr
  · cases hr
    simp only [macroStart, hstart, Run.andThen]

theorem macroStart_unread (h : partMayStart s m) {n seq l g : Nat} (ho : m.owner = .item n seq l g) {e : Nat × Nat}
    (hr : (loadVariant m (coresFor s m) s).2 = .error e) :
    macroStart s m.id = failAt (loadVariant m (coresFor s m) s).1 n seq l g e.1 e.2 := by
  have hstart := startMacro_item h ho
  generalize loadVariant m (coresFor s m) s = r at hr hstart ⊢
  obtain ⟨u, _ | _⟩ := r
  · cases hr
    simp only [macroStart, hstart, Run.andThen, h.2.1, failOwner, ho]
  · cases hr

theorem loadVariant_dl (m : MacroInst) (cs : List Nat) (s : State) : (loadVariant m cs s).1.dl = s.dl :=
  (loadVariant_moves m cs s (Moves.refl 271688 s) rfl).rest .dl rfl

/-- A part of an item starts, or its item fails with the cause of the load (R140, R145). -/
theorem macroStart_item (h : partMayStart s m) {n seq l g : Nat} (ho : m.owner = .item n seq l g) :
    let r := loadVariant m (coresFor s m) s
    (∀ e i, r.2 = .error e → findItem s n seq = some i → i.fixed = false → Runs (.macroStart m.id) s fun t =>
      itemFails t n seq e.1 ∧ othersStay s t n seq) ∧
    (∀ bs, r.2 = .ok bs → Runs (.macroStart m.id) s fun t => coresTaken s t m) := by
  have hdl := loadVariant_dl m (coresFor s m) s
  refine ⟨fun e i hr hi hf => ⟨_, macroStart_runs m.id s h.1, ?_⟩, fun bs hr => ⟨_, macroStart_runs m.id s h.1, ?_⟩⟩
  · have hitems : (loadVariant m (coresFor s m) s).1.dl.items = s.dl.items := by rw [hdl]
    rw [macroStart_unread h ho hr]
    exact ⟨itemFails_failAt l g e.1 e.2 ((findItem_congr hitems n seq).trans hi) hf, (othersStay.of_items hitems).trans (others_failAt _ _ _ _ _ _ _)⟩
  · have hmoves := loadVariant_moves m (coresFor s m) s (Moves.refl 271688 s) rfl
    rw [macroStart_loaded h ho hr]
    exact takeCores_taken h hdl (hmoves.rest .power rfl) (hmoves.rest .now rfl) bs

/-- A round's part starts (R140). -/
theorem macroStart_taken (h : partMayStart s m) {k : Nat} (ho : m.owner = .round k) :
    Runs (.macroStart m.id) s fun t => coresTaken s t m ∧ OnlyParts [.dl] s t := by
  refine ⟨_, macroStart_runs m.id s h.1, ?_⟩
  rw [macroStart_round h ho]
  exact ⟨takeCores_taken h rfl rfl rfl [], (takeCores_moves s m _ [] (Moves.refl 128 s) rfl).only (covers_spec rfl)⟩

end Start

/-! P1 (R391). -/

/-- A core without contexts enters P1; one with contexts does not. -/
theorem p1Entry_gates {s : State} {c : Nat} (hd : diesUp s = true) (hc : c < 96) :
    ((tget s.dl.cores c).contexts ≠ [] → exec (.p1Entry c) s = .next s) ∧
    ((tget s.dl.cores c).contexts = [] → Runs (.p1Entry c) s fun t => OnlyParts [.dl] s t ∧
      tget t.dl.cores c = { tget s.dl.cores c with gated := true, clockMhz := 0, current := none } ∧
      ∀ k, k ≠ c → tget t.dl.cores k = tget s.dl.cores k) := by
  refine ⟨fun hsome => ?_, fun hnone => ⟨_, p1Entry_runs c s hd, modDl_only s _, ?_, fun k hk => tget_tmod_ne _ _ (Ne.symm hk)⟩⟩
  · have hsame : tmod s.dl.cores c (fun x => if x.contexts.isEmpty then { x with gated := true, clockMhz := 0, current := none } else x) = s.dl.cores := by
      have hbusy : (tget s.dl.cores c).contexts.isEmpty = false := by simpa using hsome
      rw [tmod, hbusy, if_neg Bool.false_ne_true]
      ext i hi
      simp only [tset, tget, Vector.getElem_setIfInBounds]
      split <;> simp [*]
    rw [p1Entry_runs c s hd, gateCore, State.modDl, hsame]
  · refine (tget_tmod_same s.dl.cores _ hc).trans ?_
    rw [hnone]
    rfl

end Sys2Proof
end

section
/-! SUPPORT. The completion of a part (R123, R133, R140, R276). -/

namespace Sys2Proof

open Machine

theorem activeCmd_modItem {s : State} {n seq : Nat} {f : Item → Item} (hk : ∀ i, (f i).shoe = i.shoe ∧ (f i).seq = i.seq)
    (hl : ∀ i, (f i).levels = i.levels) (hst : ∀ i, (f i).st = i.st) (l g : Nat) : activeCmd (s.modItem n seq f) n seq l g = activeCmd s n seq l g := by
  unfold activeCmd
  rw [modItem_self (f := f) hk]
  cases findItem s n seq with
  | none => rfl
  | some i => simp only [Option.map_some, Item.level, hl, hst]

/-! The note of an item (R162). -/

theorem activeCmd_noteItem (s : State) (n seq c d l g : Nat) : activeCmd (noteItem s n seq c d) n seq l g = activeCmd s n seq l g :=
  activeCmd_modItem (fun i => by split_ifs <;> exact ⟨rfl, rfl⟩) (fun i => by split_ifs <;> rfl) (fun i => by split_ifs <;> rfl) l g

/-! MACRO_COMPLETE. -/

section Complete

variable {s : State} {m : MacroInst}

/-- A part that has groups left, is stopping or fenced, or a redeal leaves the completion without effect (R140). -/
theorem macroComplete_idle {p : Nat} (hm : findMacro s p = some m)
    (h : m.phase ≠ .running ∨ m.nextGroup < m.groups ∨ m.stopping = true ∨ m.fencedBy.isSome = true ∨ s.redealing = true) : macroComplete s p = s := by
  have hguard : (!m.finished || m.stopping || m.fencedBy.isSome || s.redealing) = true := by
    rcases h with h | h | h | h | h <;> simp [MacroInst.finished, h]
  simp only [macroComplete, hm, hguard, if_true]

/-- Every participant has finished the part, and nothing has ended it (R140). -/
def partDone (s : State) (m : MacroInst) : Prop :=
  findMacro s m.id = some m ∧ m.phase = .running ∧ m.groups ≤ m.nextGroup ∧ m.stopping = false ∧ m.fencedBy = none ∧ s.redealing = false

theorem partDone.guard (h : partDone s m) : (!m.finished || m.stopping || m.fencedBy.isSome || s.redealing) = false := by
  obtain ⟨-, hphase, hgroups, hstop, hfence, hredeal⟩ := h
  simp [MacroInst.finished, hphase, hgroups, hstop, hfence, hredeal]

theorem macroComplete_faulted (h : partDone s m) (hf : partFaulted s m = true) :
    macroComplete s m.id = failOwner (s.modEcc fun e => { e with unwritten := satInc 32 e.unwritten }) m 0x040A 0 := by
  simp only [macroComplete, h.1, h.guard, hf, Bool.false_eq_true, if_false, if_true]

/-- A part that has read bytes never written fails its item (R133). -/
theorem macroComplete_fails (h : partDone s m) (hf : partFaulted s m = true) {n seq l g : Nat} {i : Item} (ho : m.owner = .item n seq l g)
    (hi : findItem s n seq = some i) (hfix : i.fixed = false) : itemFails (macroComplete s m.id) n seq 0x040A ∧ othersStay s (macroComplete s m.id) n seq ∧
      (macroComplete s m.id).ecc.unwritten = satInc 32 s.ecc.unwritten := by
  rw [macroComplete_faulted h hf, failOwner_item ho]
  generalize hu : (s.modEcc fun e => { e with unwritten := satInc 32 e.unwritten }) = u
  have hitems : u.dl.items = s.dl.items := by rw [← hu]; rfl
  refine ⟨itemFails_failAt l g 0x040A 0 ((findItem_congr hitems n seq).trans hi) hfix, (othersStay.of_items hitems).trans (others_failAt _ _ _ _ _ _ _), ?_⟩
  rw [(failAt_moves u n seq l g 0x040A 0 (Moves.refl 128 u) rfl).rest .ecc rfl, ← hu]
  rfl

/-! A round's part. -/

theorem macroComplete_round (h : partDone s m) (hf : partFaulted s m = false) {k : Nat} (ho : m.owner = .round k) :
    macroComplete s m.id = roundMacroDone s k m := by
  simp only [macroComplete, h.1, h.guard, hf, ho, Bool.false_eq_true, if_false]

theorem armed_removeMacro (s : State) (p k : Nat) : (removeMacro s p).armed k = s.armed k := armed_of_rounds (by rw [removeMacro_rounds]) k

theorem roundMacroDone_none {k : Nat} (ha : s.armed k = none) : roundMacroDone s k m = removeMacro s m.id := by
  simp only [roundMacroDone, armed_removeMacro, ha]

/-- A dealing round's backward part is followed by the REDUCE of its step (R276). -/
theorem roundMacroDone_reduces {k : Nat} {a : Armed} (ha : s.armed k = some a) (hc : m.code = 3) (hcomp : a.comp ≠ 0) :
    OnlyParts [.dl] s (roundMacroDone s k m) ∧ ∃ x, (roundMacroDone s k m).dl.macros = s.dl.macros.filter (fun y => y.id != m.id) ++ [x] ∧
      x.owner = .round k ∧ x.code = 6 ∧ x.claim = a.claim ∧ x.phase = .dispatched := by
  have hdone : roundMacroDone s k m = reducePartial (removeMacro s m.id) k a a.comp := by
    simp only [roundMacroDone, armed_removeMacro, ha]
    exact if_pos ⟨hc, hcomp⟩
  rw [hdone]
  exact ⟨(modDl_only s _).trans (modDl_only _ _), _, rfl, rfl, rfl, rfl, rfl⟩

/-! An item's part. -/

/-- Part x as it goes on after part m: the next part of m's length split takes its accumulators (R123, R180). -/
def carryTo (m x : MacroInst) : MacroInst :=
  if x.owner == m.owner && x.cut.batchLo == m.cut.batchLo && decide (x.cut.lenLo = m.cut.lenLo + m.cut.lenN) && decide (m.cut.lenN ≠ 0) then
    { x with carry := m.carry } else x

theorem carryTo_eq (m x : MacroInst) : carryTo m x = { x with carry := (carryTo m x).carry } ∧ ((carryTo m x).carry = x.carry ∨ (carryTo m x).carry = m.carry) := by
  unfold carryTo
  split
  · exact ⟨rfl, .inr rfl⟩
  · exact ⟨rfl, .inl rfl⟩

theorem carryTo_id (m x : MacroInst) : (carryTo m x).id = x.id := by rw [(carryTo_eq m x).1]
theorem carryTo_owner (m x : MacroInst) : (carryTo m x).owner = x.owner := by rw [(carryTo_eq m x).1]
theorem carryTo_stopping (m x : MacroInst) : (carryTo m x).stopping = x.stopping := by rw [(carryTo_eq m x).1]

/-- A finished part has left its lane and cores, and its item has its note (R140, R162). -/
def partGone (s : State) (m : MacroInst) (n seq : Nat) : State :=
  if m.note = 0 then removeMacro (carryOn s m) m.id else noteItem (removeMacro (carryOn s m) m.id) n seq 0x0021 m.note

theorem partGone_macros (s : State) (m : MacroInst) (n seq : Nat) :
    (partGone s m n seq).dl.macros = (s.dl.macros.filter fun y => y.id != m.id).map (carryTo m) := by
  have hkey : (fun y : MacroInst => y.id != m.id) ∘ carryTo m = fun y => y.id != m.id := funext fun y => by simp [carryTo_id]
  have hremove : (removeMacro (carryOn s m) m.id).dl.macros = (s.dl.macros.filter fun y => y.id != m.id).map (carryTo m) := by
    change (s.dl.macros.map (carryTo m)).filter (fun y => y.id != m.id) = _
    rw [List.filter_map, hkey]
  unfold partGone
  split <;> exact hremove

theorem partGone_cores (s : State) (m : MacroInst) (n seq : Nat) : (partGone s m n seq).dl.cores = s.dl.cores.map (leaveCore m.id) := by
  unfold partGone
  split <;> rfl

theorem partGone_levels (s : State) (m : MacroInst) (n seq l g : Nat) :
    levelOf (partGone s m n seq) n seq l = levelOf s n seq l ∧ activeCmd (partGone s m n seq) n seq l g = activeCmd s n seq l g := by
  unfold partGone
  split
  · exact ⟨rfl, rfl⟩
  · exact ⟨levelOf_noteItem _ _, activeCmd_noteItem _ n seq _ _ l g⟩

theorem partGone_others (s : State) (m : MacroInst) (n seq : Nat) : othersStay s (partGone s m n seq) n seq := by
  have hremove : othersStay s (removeMacro (carryOn s m) m.id) n seq := .of_items rfl
  unfold partGone
  split
  · exact hremove
  · exact hremove.trans (others_noteItem _ n seq _ _)

theorem mem_partsOf {u : State} {x : MacroInst} {n seq l g : Nat} :
    x ∈ partsOf u n seq l g ↔ x ∈ u.dl.macros ∧ x.owner = .item n seq l g ∧ x.stopping = false := by
  simp [partsOf]

/-- Another part of the same owner that is not stopping keeps the command running (R123). -/
theorem partGone_partsOf_ne_nil {n seq l g : Nat} (ho : m.owner = .item n seq l g)
    (h : ∃ x ∈ s.dl.macros, x.id ≠ m.id ∧ x.owner = m.owner ∧ x.stopping = false) : partsOf (partGone s m n seq) n seq l g ≠ [] := by
  obtain ⟨x, hx, hid, howner, hstop⟩ := h
  refine List.ne_nil_of_mem (a := carryTo m x) (mem_partsOf.2 ⟨?_, (carryTo_owner m x).trans (howner.trans ho), (carryTo_stopping m x).trans hstop⟩)
  rw [partGone_macros]
  exact List.mem_map_of_mem (List.mem_filter.2 ⟨hx, by simpa using hid⟩)

theorem partGone_partsOf_nil {n seq l g : Nat} (ho : m.owner = .item n seq l g)
    (h : ∀ x ∈ s.dl.macros, x.id ≠ m.id → x.owner = m.owner → x.stopping = true) : partsOf (partGone s m n seq) n seq l g = [] := by
  refine List.eq_nil_iff_forall_not_mem.2 fun y hy => ?_
  obtain ⟨hmem, howner, hstop⟩ := mem_partsOf.1 hy
  rw [partGone_macros] at hmem
  obtain ⟨x, hx, rfl⟩ := List.mem_map.1 hmem
  obtain ⟨hx, hid⟩ := List.mem_filter.1 hx
  rw [carryTo_owner] at howner
  rw [carryTo_stopping, h x hx (by simpa using hid) (howner.trans ho.symm)] at hstop
  cases hstop

theorem finishPart_goes {n seq l g : Nat} (h : partsOf (partGone s m n seq) n seq l g ≠ []) : finishPart s m n seq l g = partGone s m n seq := by
  obtain ⟨x, xs, hparts⟩ := List.exists_cons_of_ne_nil h
  unfold partGone at hparts ⊢
  simp only [finishPart, hparts]

theorem finishPart_ends {n seq l g : Nat} (h : partsOf (partGone s m n seq) n seq l g = []) {lv : Level} {a : Active} {b : List Byte}
    (ha : activeCmd s n seq l g = some (lv, a, b)) {ps : List Nat} (hst : a.st = .macroRun ps) :
    finishPart s m n seq l g = completeCmd (partGone s m n seq) n seq l g := by
  have hcmd := (partGone_levels s m n seq l g).2.trans ha
  unfold partGone at h hcmd ⊢
  simp only [finishPart, h, hcmd, hst]

/-- The end of a part completes its command, or leaves it as it is (R140). -/
theorem finishPart_cases (s : State) (m : MacroInst) (n seq l g : Nat) :
    finishPart s m n seq l g = partGone s m n seq ∨ finishPart s m n seq l g = completeCmd (partGone s m n seq) n seq l g := by
  unfold finishPart
  dsimp only
  split
  · split
    · split
      · exact .inr rfl
      · exact .inl rfl
    · exact .inl rfl
  · exact .inl rfl

/-- A part of an item that has finished frees its contexts, passes on its accumulators, and ends its command if it is the last (R123, R140). -/
theorem finishPart_finishes {n seq l g : Nat} (ho : m.owner = .item n seq l g) :
    List.Forall₂ (fun x y => y = { x with carry := y.carry } ∧ (y.carry = x.carry ∨ y.carry = m.carry)) (s.dl.macros.filter fun y => y.id != m.id)
      (finishPart s m n seq l g).dl.macros ∧ (∀ c, m.id ∉ (tget (finishPart s m n seq l g).dl.cores c).contexts) ∧
    othersStay s (finishPart s m n seq l g) n seq ∧ ∀ lv, levelOf s n seq l = some lv →
      ((∃ x ∈ s.dl.macros, x.id ≠ m.id ∧ x.owner = m.owner ∧ x.stopping = false) → levelOf (finishPart s m n seq l g) n seq l = some lv) ∧
      ((∀ x ∈ s.dl.macros, x.id ≠ m.id → x.owner = m.owner → x.stopping = true) →
        ∀ a b ps, cmdRuns s n seq l g lv a b → a.st = .macroRun ps → levelOf (finishPart s m n seq l g) n seq l = some (cmdEnded lv g)) := by
  have hdl : (finishPart s m n seq l g).dl.macros = (partGone s m n seq).dl.macros ∧ (finishPart s m n seq l g).dl.cores = (partGone s m n seq).dl.cores := by
    rcases finishPart_cases s m n seq l g with h | h <;> rw [h] <;> exact ⟨rfl, rfl⟩
  refine ⟨?_, fun c hc => ?_, ?_, fun lv hlv => ⟨fun hsome => ?_, fun hnone a b ps hruns hst => ?_⟩⟩
  · rw [hdl.1, partGone_macros, List.forall₂_map_right_iff]
    exact List.forall₂_same.2 fun x _ => carryTo_eq m x
  · rw [hdl.2, partGone_cores] at hc
    by_cases h96 : c < 96
    · rw [tget_map _ _ h96] at hc
      exact (mem_leaveCore hc).2 rfl
    · rw [contexts_ge (Nat.not_lt.1 h96)] at hc
      exact absurd hc List.not_mem_nil
  · rcases finishPart_cases s m n seq l g with h | h <;> rw [h]
    · exact partGone_others s m n seq
    · exact (partGone_others s m n seq).trans (others_completeCmd _ n seq l g)
  · rw [finishPart_goes (partGone_partsOf_ne_nil ho hsome), (partGone_levels s m n seq l g).1, hlv]
  · rw [finishPart_ends (partGone_partsOf_nil ho hnone) hruns.2 hst, levelOf_completeCmd, (partGone_levels s m n seq l g).1, hlv]
    rfl

theorem macroComplete_item (h : partDone s m) (hf : partFaulted s m = false) {n seq l g : Nat} (ho : m.owner = .item n seq l g) :
    macroComplete s m.id = finishPart s m n seq l g := by
  simp only [macroComplete, h.1, h.guard, hf, ho, Bool.false_eq_true, if_false]

end Complete

/-- Settles O57: the start, the ends of tile groups, a head fault with one, the completion, and P1, each from what its operation does. -/
theorem macroLife : Obligations.MacroLife := by
  unfold Obligations.MacroLife
  refine ⟨fun s p hd => ⟨fun hno hcores => ?_, fun hnone => ?_, fun m hm hidle => ?_⟩,
    fun s m h => ⟨fun k ho => macroStart_taken h ho, fun n seq l g ho => macroStart_item h ho⟩,
    fun s c ns hd hno hc => ?_, ?_, fun s c ns b hd => ?_, ?_, fun s c hd hc => p1Entry_gates hd hc⟩
  · rw [macroStart_runs p s hd, macroStart_refused hd hno hcores]
  · rw [macroComplete_runs p s hd]
    simp only [macroComplete, hnone]
  · rw [macroComplete_runs p s hd, macroComplete_idle hm hidle]
  · rw [tileGroupEnd_runs c ns none s hd]
    simp only [tileGroupEnd, afterMoves, tileEnd_idle (groupRuns_idle hd hc hno), ite_self]
  · intro s c ns m hof
    refine ⟨fun hs => tileGroupEnd_after hof.1 (tileEnd_leaves hof hs ns), fun hl hf hfence n seq l g i ho hi hfix => ?_,
      fun w hw => ⟨fun g hg => ?_, fun e he => ⟨fun n seq l g i ho hi hfix => ?_, fun k ho hk ha => ?_⟩, fun hcode i hrows bs hread hok => ?_⟩⟩
    · exact tileGroupEnd_after hof.1 (tileEnd_faulted hof hl hf hfence ho hi hfix)
    · exact tileGroupEnd_after hof.1 (groupEnds.taken hw hg)
    · exact tileGroupEnd_after hof.1 (groupEnds.failed_item hw he ho hi hfix)
    · exact tileGroupEnd_after hof.1 (groupEnds.failed_round hw he ho hk ha)
    · exact tileGroupEnd_after hof.1 (groupEnds.row hw hcode hrows hread rfl hok)
  · intro u hu
    rw [tileGroupEnd_runs c ns (some b) s hd, tileGroupEnd_runs c ns none u hu]
  · intro s m hd hm hphase hgroups hstop hfence hredeal
    have hdone : partDone s m := ⟨hm, hphase, hgroups, hstop, hfence, hredeal⟩
    refine ⟨fun hf n seq l g i ho hi hfix => ⟨_, macroComplete_runs m.id s hd, macroComplete_fails hdone hf ho hi hfix⟩,
      fun hf => ⟨fun k ho ha => ?_, fun k a ho _ ha hc hcomp => ⟨_, macroComplete_runs m.id s hd, ?_⟩,
        fun n seq l g ho => ⟨_, macroComplete_runs m.id s hd, ?_⟩⟩⟩
    · rw [macroComplete_runs m.id s hd, macroComplete_round hdone hf ho, roundMacroDone_none ha]
    · rw [macroComplete_round hdone hf ho]
      exact roundMacroDone_reduces ha hc hcomp
    · rw [macroComplete_item hdone hf ho]
      exact finishPart_finishes ho

end Sys2Proof
end

section
/-! SUPPORT. IF and LOOP: one level's next commands, by what a read of the tally finds (R110, R111, R113). -/

namespace Sys2Proof

open Machine

/-- A level of an item becomes `lv`: every other item stays, and so does every part of the state but the Dealer's. -/
def levelBecomes (s t : State) (shoe seq l : Nat) (lv : Level) : Prop :=
  othersStay s t shoe seq ∧ OnlyParts [.dl] s t ∧ levelOf t shoe seq l = some lv

/-- What the test of a command's tally leads to: the item fails where the tally is POISONED or does not resolve, and otherwise the
level is `yes` or `no` as the comparison holds (R110, R111, R113). -/
def testSteers (s t : State) (shoe seq l : Nat) (b : List Byte) (cmp : Nat) (yes no : Level) : Prop :=
  (∀ n, resolveTally s shoe (field b 8 2) = some n →
    ((s.tally n).poisoned = true → itemFails t shoe seq (s.tally n).cause) ∧
    ((s.tally n).poisoned = false →
      (condHolds cmp (s.tally n).value.toNat (field b 0xC 4) → levelOf t shoe seq l = some yes) ∧
      (¬ condHolds cmp (s.tally n).value.toNat (field b 0xC 4) → levelOf t shoe seq l = some no))) ∧
  (resolveTally s shoe (field b 8 2) = none → itemFails t shoe seq 0x0102)

/-- The command at granule g tests its tally: it fails its item, or goes on by the comparison. -/
def byTest (s : State) (shoe seq l g : Nat) (b : List Byte) (cmp : Nat) (go : Bool → State) : State :=
  match testCond s shoe b cmp with
  | .error (c, d) => failAt s shoe seq l g c d
  | .ok holds => go holds

theorem byTest_error {s : State} {shoe cmp c d : Nat} {b : List Byte} (h : testCond s shoe b cmp = .error (c, d)) (seq l g : Nat)
    (go : Bool → State) : byTest s shoe seq l g b cmp go = failAt s shoe seq l g c d := by
  simp only [byTest, h]

theorem byTest_ok {s : State} {shoe cmp : Nat} {b : List Byte} {holds : Bool} (h : testCond s shoe b cmp = .ok holds) (seq l g : Nat)
    (go : Bool → State) : byTest s shoe seq l g b cmp go = go holds := by
  simp only [byTest, h]

theorem byTest_steers {s : State} {shoe seq l : Nat} {i : Item} {yes no : Level} (hi : findItem s shoe seq = some i) (hr : i.st = .running)
    (g : Nat) (b : List Byte) (cmp : Nat) {go : Bool → State} (hyes : levelBecomes s (go true) shoe seq l yes)
    (hno : levelBecomes s (go false) shoe seq l no) : let t := byTest s shoe seq l g b cmp go
    othersStay s t shoe seq ∧ OnlyParts [.dl] s t ∧ testSteers s t shoe seq l b cmp yes no := by
  dsimp only
  have hfails := fun c d => itemFails_failAt l g c d hi (running_open hr)
  cases hn : resolveTally s shoe (field b 8 2) with
  | none =>
    rw [byTest_error (testCond_none cmp hn)]
    exact ⟨others_failAt _ _ _ _ _ _ _, failAt_only _ _ _ _ _ _ _, fun n h => (nomatch hn.symm.trans h), fun _ => hfails _ _⟩
  | some n =>
    suffices hsteers : let t := byTest s shoe seq l g b cmp go
        othersStay s t shoe seq ∧ OnlyParts [.dl] s t ∧ ((s.tally n).poisoned = true → itemFails t shoe seq (s.tally n).cause) ∧
        ((s.tally n).poisoned = false →
          (condHolds cmp (s.tally n).value.toNat (field b 0xC 4) → levelOf t shoe seq l = some yes) ∧
          (¬ condHolds cmp (s.tally n).value.toNat (field b 0xC 4) → levelOf t shoe seq l = some no)) by
      obtain ⟨hothers, honly, hcases⟩ := hsteers
      exact ⟨hothers, honly, fun m hm => Option.some.inj (hn.symm.trans hm) ▸ hcases, fun h => (nomatch hn.symm.trans h)⟩
    dsimp only
    cases hp : (s.tally n).poisoned with
    | true =>
      rw [byTest_error (testCond_poisoned cmp hn hp)]
      exact ⟨others_failAt _ _ _ _ _ _ _, failAt_only _ _ _ _ _ _ _, fun _ => hfails _ _, fun h => (nomatch h)⟩
    | false =>
      rw [byTest_ok (testCond_ok cmp hn hp), ← compareTally_iff]
      cases compareTally cmp (s.tally n).value.toNat (field b 0xC 4) with
      | true => exact ⟨hyes.1, hyes.2.1, fun h => (nomatch h), fun _ => ⟨fun _ => hyes.2.2, fun h => absurd rfl h⟩⟩
      | false => exact ⟨hno.1, hno.2.1, fun h => (nomatch h), fun _ => ⟨fun h => (nomatch h), fun _ => hno.2.2⟩⟩

/-! The levels that IF and LOOP leave. -/

theorem modLevel_only (s : State) (shoe seq l : Nat) (f : Level → Level) : OnlyParts [.dl] s (s.modLevel shoe seq l f) := modDl_only s _

/-- A change of a level that keeps its number. -/
theorem levelBecomes.modLevel {s t : State} {shoe seq l : Nat} {lv : Level} (h : levelBecomes s t shoe seq l lv) {f : Level → Level}
    (hk : ∀ v, (f v).id = v.id) : levelBecomes s (t.modLevel shoe seq l f) shoe seq l (f lv) := by
  obtain ⟨hothers, honly, hl⟩ := h
  exact ⟨hothers.trans (.modLevel _ _ _ _ _), honly.trans (modLevel_only _ _ _ _ _), by rw [levelOf_modLevel hk, hl]; rfl⟩

theorem levelBecomes.endLoop {s t : State} {shoe seq l : Nat} {lv : Level} (h : levelBecomes s t shoe seq l lv) (f : LoopFrame) :
    levelBecomes s (endLoop t shoe seq l f) shoe seq l (loopEnded lv f lv.loops.tail) :=
  (h.modLevel (f := fun v => { v with pc := f.last, loops := v.loops.tail }) fun _ => rfl).modLevel
    (f := fun v => { v with active := v.active.filter (·.granule != f.granule), events := signalled v f.granule }) fun _ => rfl

theorem levelBecomes_done {s : State} {shoe seq l : Nat} {lv : Level} (b : List Byte) (h : levelOf s shoe seq l = some lv) :
    levelBecomes s (doneCmd s shoe seq l lv.pc b) shoe seq l (cmdDone lv b) :=
  ⟨others_doneCmd _ _ _ _ _ _, doneCmd_only _ _ _ _ _ _, levelOf_doneCmd b h⟩

/-- The level inside a LOOP that has entered its first iteration (R111). -/
def loopInside (now : Nat) (lv : Level) (b : List Byte) : Level := { cmdHeld now lv b .loop with loops := loopFrame lv.pc b :: lv.loops }

/-- The LOOP at granule g is held, and its body is next. -/
def enterLoop (s : State) (shoe seq l g : Nat) (b : List Byte) : State :=
  (heldCmd s shoe seq l g b .loop).modLevel shoe seq l fun lv => { lv with loops := loopFrame g b :: lv.loops }

theorem levelBecomes_inside {s : State} {shoe seq l : Nat} {lv : Level} (b : List Byte) (h : levelOf s shoe seq l = some lv) :
    levelBecomes s (enterLoop s shoe seq l lv.pc b) shoe seq l (loopInside s.now lv b) :=
  ⟨(others_heldCmd _ _ _ _ _ _ _).trans (.modLevel _ _ _ _ _), (heldCmd_only _ _ _ _ _ _ _).trans (modLevel_only _ _ _ _ _),
    levelOf_enter b _ h⟩

/-- The innermost LOOP of a level begins another pass, with frame f' (R111). -/
def repeatLoop (s : State) (shoe seq l : Nat) (f f' : LoopFrame) (rest : List LoopFrame) : State :=
  s.modLevel shoe seq l fun lv => loopAgain lv f f' rest

theorem levelBecomes_again {s : State} {shoe seq l : Nat} {lv : Level} (h : levelOf s shoe seq l = some lv) (f f' : LoopFrame)
    (rest : List LoopFrame) : levelBecomes s (repeatLoop s shoe seq l f f' rest) shoe seq l (loopAgain lv f f' rest) :=
  levelBecomes.modLevel (f := fun v => loopAgain v f f' rest) ⟨.refl _ _ _, .refl _ _, h⟩ fun _ => rfl

theorem levelBecomes_ended {s : State} {shoe seq l : Nat} {lv : Level} {f : LoopFrame} {rest : List LoopFrame}
    (h : levelOf s shoe seq l = some lv) (hloops : lv.loops = f :: rest) :
    levelBecomes s (endLoop s shoe seq l f) shoe seq l (loopEnded lv f rest) := by
  have hend := levelBecomes.endLoop ⟨.refl s shoe seq, .refl _ s, h⟩ f
  rwa [hloops] at hend

/-! IF and LOOP act by their test. -/

/-- An IF completes; where its comparison fails the level skips its granules as well (R110). -/
theorem runIf_byTest (s : State) (shoe seq l g : Nat) (b : List Byte) : runIf s shoe seq l g b = byTest s shoe seq l g b (field b 6 1) fun holds =>
    if holds then doneCmd s shoe seq l g b
    else (doneCmd s shoe seq l g b).modLevel shoe seq l fun lv => { lv with pc := lv.pc + field b 0xA 2 } := rfl

/-- A LOOP of mode 0 enters its first iteration (R111). -/
theorem runLoop_counted {b : List Byte} (h : field b 6 1 = 0) (s : State) (shoe seq l g : Nat) :
    runLoop s shoe seq l g b = enterLoop s shoe seq l g b := by
  simp only [runLoop, h, if_true]
  rfl

/-- A LOOP of mode 1 enters its first iteration if its test holds, and otherwise ends at once (R111). -/
theorem runLoop_tested {b : List Byte} (h : field b 6 1 ≠ 0) (s : State) (shoe seq l g : Nat) :
    runLoop s shoe seq l g b = byTest s shoe seq l g b (field b 7 1) fun holds =>
      if holds then enterLoop s shoe seq l g b else endLoop (enterLoop s shoe seq l g b) shoe seq l (loopFrame g b) := by
  simp only [runLoop, byTest, h, if_false]
  rcases testCond s shoe b (field b 7 1) with ⟨c, d⟩ | _ | _ <;> rfl

section Waits

variable {s : State} {shoe seq l : Nat} {lv : Level} {f : LoopFrame} {rest : List LoopFrame} (h : loopWaits s shoe seq l lv f rest)
include h

theorem loopWaits_level : levelOf s shoe seq l = some lv := by
  obtain ⟨-, ⟨i, hi, -, hl⟩, -⟩ := h
  simp [levelOf, hi, hl]

/-- A LOOP whose body has run to its end goes on by its mode (R111). -/
theorem loopIterate_waits : loopIterate s shoe seq l =
    if field (cmdAt lv.bytes f.granule) 6 1 = 0 then
      if f.left = 0 then endLoop s shoe seq l f else repeatLoop s shoe seq l f { f with left := f.left - 1 } rest
    else byTest s shoe seq l f.granule (cmdAt lv.bytes f.granule) (field (cmdAt lv.bytes f.granule) 7 1) fun holds =>
      if holds then repeatLoop s shoe seq l f f rest else endLoop s shoe seq l f := by
  obtain ⟨-, ⟨i, hi, hr, hl⟩, hloops, hpc, hbody, hre, hhalt⟩ := h
  have hbusy : (lv.active.any fun a => decide (f.first ≤ a.granule) && decide (a.granule < f.last)) = false :=
    List.any_eq_false.2 fun a ha => by simpa using hbody a ha
  have hgo : ¬ (i.st ≠ .running ∨ lv.pc < f.last ∨ False ∨ False ∨ False) := by simp [hr, hpc]
  simp only [loopIterate, hi, hl, hloops, hbusy, hre, hhalt, Bool.false_eq_true, if_neg hgo, byTest]
  split
  · rfl
  · rcases testCond s shoe (cmdAt lv.bytes f.granule) (field (cmdAt lv.bytes f.granule) 7 1) with ⟨c, d⟩ | _ | _ <;> rfl

end Waits

section Starts

variable {s : State} {shoe seq l : Nat} {lv : Level} {b : List Byte}

theorem ifCmd_steers (h : cmdStarts s shoe seq l 0x07 lv b) : Runs (.ifCmd shoe seq l) s fun t =>
    othersStay s t shoe seq ∧ OnlyParts [.dl] s t ∧
      testSteers s t shoe seq l b (field b 6 1) (cmdDone lv b) { cmdDone lv b with pc := lv.pc + cmdSize b + field b 0xA 2 } := by
  obtain ⟨i, hi, hr, -, -, -, -, -, hl⟩ := nextCmd_some h.2.1
  have hdone := levelBecomes_done b hl
  refine ⟨runIf s shoe seq l lv.pc b, by rw [ifCmd_runs shoe seq l s h.1, gate_starts h rfl, withCmd_starts h], ?_⟩
  rw [runIf_byTest]
  exact byTest_steers hi hr _ _ _ hdone (hdone.modLevel (f := fun v => { v with pc := v.pc + field b 0xA 2 }) fun _ => rfl)

theorem loopCmd_runsLoop (h : cmdStarts s shoe seq l 0x08 lv b) : exec (.loopCmd shoe seq l) s = .next (runLoop s shoe seq l lv.pc b) := by
  rw [loopCmd_runs shoe seq l s h.1, gate_starts h rfl, withCmd_starts h]

theorem runLoop_steers (h : cmdStarts s shoe seq l 0x08 lv b) (hm : field b 6 1 ≠ 0) : let t := runLoop s shoe seq l lv.pc b
    othersStay s t shoe seq ∧ OnlyParts [.dl] s t ∧ testSteers s t shoe seq l b (field b 7 1) (loopInside s.now lv b)
      (loopEnded (loopInside s.now lv b) (loopFrame lv.pc b) lv.loops) := by
  obtain ⟨i, hi, hr, -, -, -, -, -, hl⟩ := nextCmd_some h.2.1
  have hin := levelBecomes_inside b hl
  rw [runLoop_tested hm]
  exact byTest_steers hi hr _ _ _ hin (hin.endLoop _)

theorem loopIterate_steers {f : LoopFrame} {rest : List LoopFrame} (h : loopWaits s shoe seq l lv f rest)
    (hm : field (cmdAt lv.bytes f.granule) 6 1 ≠ 0) : let t := loopIterate s shoe seq l
    othersStay s t shoe seq ∧ OnlyParts [.dl] s t ∧
      testSteers s t shoe seq l (cmdAt lv.bytes f.granule) (field (cmdAt lv.bytes f.granule) 7 1) (loopAgain lv f f rest) (loopEnded lv f rest) := by
  obtain ⟨i, hi, hr, -⟩ := h.2.1
  rw [loopIterate_waits h, if_neg hm]
  exact byTest_steers hi hr _ _ _ (levelBecomes_again (loopWaits_level h) f f rest) (levelBecomes_ended (loopWaits_level h) h.2.2.1)

end Starts

/-- Settles O22: an IF goes by its test, and a LOOP, at its start and at each end of its body, by its count or its test. -/
theorem controlCommands : Obligations.ControlCommands := by
  unfold Obligations.ControlCommands
  refine fun s shoe seq l => ⟨fun lv b h => ifCmd_steers h, fun lv b h => ⟨_, loopCmd_runsLoop h, ?_⟩,
    fun lv f rest h => ⟨_, loopIterationStart_runs shoe seq l s h.1, ?_⟩⟩
  · by_cases hm : field b 6 1 = 0
    · obtain ⟨-, -, -, -, -, -, -, -, hl⟩ := nextCmd_some h.2.1
      obtain ⟨hothers, honly, hin⟩ := levelBecomes_inside b hl
      rw [runLoop_counted hm]
      exact ⟨hothers, honly, fun _ => hin, fun hne => absurd hm hne, fun hne => absurd hm hne⟩
    · obtain ⟨hothers, honly, hresolved, hnone⟩ := runLoop_steers h hm
      exact ⟨hothers, honly, fun h0 => absurd h0 hm, fun _ => hresolved, fun _ => hnone⟩
  · have hl := loopWaits_level h
    by_cases hm : field (cmdAt lv.bytes f.granule) 6 1 = 0
    · rw [loopIterate_waits h, if_pos hm]
      by_cases hleft : f.left = 0
      · obtain ⟨hothers, honly, hend⟩ := levelBecomes_ended hl h.2.2.1
        rw [if_pos hleft]
        exact ⟨hothers, honly, fun _ _ => hend, fun _ h0 => absurd hleft h0.ne', fun hne => absurd hm hne, fun hne => absurd hm hne⟩
      · obtain ⟨hothers, honly, hagain⟩ := levelBecomes_again hl f { f with left := f.left - 1 } rest
        rw [if_neg hleft]
        exact ⟨hothers, honly, fun _ h0 => absurd h0 hleft, fun _ _ => hagain, fun hne => absurd hm hne, fun hne => absurd hm hne⟩
    · obtain ⟨hothers, honly, hresolved, hnone⟩ := loopIterate_steers h hm
      exact ⟨hothers, honly, fun h0 => absurd h0 hm, fun h0 => absurd h0 hm, fun _ => hresolved, fun _ => hnone⟩

end Sys2Proof
end

section
/-! SUPPORT. Decks within decks: a CALL or a LANE_DECK that starts reads, checks and opens its deck (R114 to R116, R119, R120). -/

namespace Sys2Proof

open Machine

theorem heldCmd_shoes (s : State) (shoe seq l g : Nat) (b : List Byte) (st : CmdState) : (heldCmd s shoe seq l g b st).dl.shoes = s.dl.shoes := by
  unfold heldCmd passCmd served
  split_ifs <;> rfl

theorem heldCmd_lanes (s : State) (shoe seq l g : Nat) (b : List Byte) (st : CmdState) : (heldCmd s shoe seq l g b st).dl.lanes = s.dl.lanes := by
  unfold heldCmd passCmd served
  split_ifs <;> rfl

theorem openLevel_shoes (u : State) (shoe seq l g depth : Nat) (kind : LevelKind) (run : Nat → CmdState) (bs : List Byte) :
    (openLevel u shoe seq l g depth kind run bs).dl.shoes = u.dl.shoes := by
  unfold openLevel
  split <;> rfl

theorem openLevel_lanes (u : State) (shoe seq l g depth : Nat) (kind : LevelKind) (run : Nat → CmdState) (bs : List Byte) :
    (openLevel u shoe seq l g depth kind run bs).dl.lanes = u.dl.lanes := by
  unfold openLevel
  split <;> rfl

theorem deckCheck_congr {s t : State} {shoe seq : Nat} (hcl : t.cl = s.cl)
    (hflags : (findItem t shoe seq).map (·.flags) = (findItem s shoe seq).map (·.flags)) (lane : Bool) (bs : List Byte) :
    deckCheck t shoe seq lane bs = deckCheck s shoe seq lane bs := by
  have hlane : (findItem t shoe seq).map (fun i => fLaneMode i.flags) = (findItem s shoe seq).map fun i => fLaneMode i.flags := by
    simpa only [Option.map_map, Function.comp_def] using congrArg (Option.map fLaneMode) hflags
  simp only [deckCheck, hlane, countsOf, State.claim, hcl]

/-- The command at granule g is held, and the read of the deck that it names has gone out. -/
def deckAsked (s : State) (shoe seq l g : Nat) (b : List Byte) (st : CmdState) : State :=
  (heldCmd s shoe seq l g b st).emit (.hostRead (fnOf shoe) (field b 8 8) (field b 0x10 4))

/-- A deck that a command names is read and checked, and opens where no check finds a fault. -/
def readNested (u : State) (shoe seq l g : Nat) (b : List Byte) (r : HostResp) (lane : Bool) (depth : Nat) (opens : State → List Byte → State) :
    State :=
  match readDeck u shoe seq l g b r with
  | .error t => t
  | .ok (s1, bs) =>
    match deckCheck s1 shoe seq lane bs with
    | some (cause, f) => levelFault s1 shoe seq (checkOutcome bs depth cause f)
    | none => opens s1 bs

section Starts

variable {s : State} {shoe seq l op : Nat} {lv : Level} {b : List Byte} (h : cmdStarts s shoe seq l op lv b)
include h

theorem deckCheck_asked (st : CmdState) (lane : Bool) (bs : List Byte) :
    deckCheck (deckAsked s shoe seq l lv.pc b st) shoe seq lane bs = deckCheck s shoe seq lane bs := by
  obtain ⟨i, i', hi, hi', -, -, hflags, -⟩ := held_item h st
  have hasked : findItem (deckAsked s shoe seq l lv.pc b st) shoe seq = some i' := (findItem_congr rfl _ _).trans hi'
  exact deckCheck_congr (t := deckAsked s shoe seq l lv.pc b st) (held_parts s shoe seq l lv.pc b st .cl (by decide)) (by rw [hasked, hi, Option.map_some, Option.map_some, hflags]) lane bs

/-- Where no check finds a fault, the deck that was read opens. -/
theorem readNested_opens (st : CmdState) {d : List Byte} (hok : hostOk s (fnOf shoe) (field b 8 8) (field b 0x10 4) = true) {lane : Bool}
    (hc : deckCheck s shoe seq lane (bytesAt d 0 (field b 0x10 4)) = none) (depth : Nat) (opens : State → List Byte → State) :
    readNested (heldCmd s shoe seq l lv.pc b st) shoe seq l lv.pc b (.ok d) lane depth opens =
      opens (deckAsked s shoe seq l lv.pc b st) (bytesAt d 0 (field b 0x10 4)) := by
  have hread : readDeck _ shoe seq l lv.pc b (.ok d) = .ok (deckAsked s shoe seq l lv.pc b st, _) := (readDeck_spec h st (.ok d)).2.2 hok _ rfl
  simp only [readNested, hread, deckCheck_asked h, hc]

/-- A deck in which a check finds a fault is malformed (R116, R120). -/
theorem readNested_malformed (st : CmdState) {d : List Byte} (hok : hostOk s (fnOf shoe) (field b 8 8) (field b 0x10 4) = true) {lane : Bool}
    {cause f : Nat} (hc : deckCheck s shoe seq lane (bytesAt d 0 (field b 0x10 4)) = some (cause, f)) (depth : Nat)
    (opens : State → List Byte → State) :
    nestedFault s (readNested (heldCmd s shoe seq l lv.pc b st) shoe seq l lv.pc b (.ok d) lane depth opens) shoe seq cause := by
  obtain ⟨i, i', -, hi', hr', -⟩ := held_item h st
  have hread : readDeck _ shoe seq l lv.pc b (.ok d) = .ok (deckAsked s shoe seq l lv.pc b st, _) := (readDeck_spec h st (.ok d)).2.2 hok _ rfl
  have hasked : findItem (deckAsked s shoe seq l lv.pc b st) shoe seq = some i' := (findItem_congr rfl _ _).trans hi'
  simp only [readNested, hread, deckCheck_asked h, hc]
  exact levelFault_nested hasked hr' (checkOutcome (bytesAt d 0 (field b 0x10 4)) depth cause f) rfl
    ((held_parts s shoe seq l lv.pc b st).trans (emit_parts _ _))

/-- The outcomes of a command that reads a nested deck, checks it and opens it to an effect `P` (R114, R116, R119, R120). -/
theorem readNested_runs {c : Instr} {st : CmdState} {r : HostResp} {lane : Bool} {depth : Nat} {opens : State → List Byte → State}
    (hexec : exec c s = .next (readNested (heldCmd s shoe seq l lv.pc b st) shoe seq l lv.pc b r lane depth opens))
    {P : List Byte → State → Prop} (hP : ∀ d, P d (opens (deckAsked s shoe seq l lv.pc b st) (bytesAt d 0 (field b 0x10 4)))) :
    let ok := hostOk s (fnOf shoe) (field b 8 8) (field b 0x10 4)
    (ok = false → Runs c s fun t => itemFails t shoe seq 0x0104) ∧ (ok = true → r = .err → Runs c s fun t => itemFails t shoe seq 0x0105) ∧
      ∀ d, ok = true → r = .ok d →
        (∀ cause f, deckCheck s shoe seq lane (bytesAt d 0 (field b 0x10 4)) = some (cause, f) → Runs c s fun t => nestedFault s t shoe seq cause) ∧
        (deckCheck s shoe seq lane (bytesAt d 0 (field b 0x10 4)) = none → Runs c s (P d)) := by
  obtain ⟨hoff, herr, -⟩ := readDeck_spec h st r
  refine ⟨fun hok => ⟨_, hexec, ?_⟩, fun hok hr => ⟨_, hexec, ?_⟩, fun d hok hr => ⟨fun cause f hc => ⟨_, hexec, ?_⟩, fun hc => ⟨_, hexec, ?_⟩⟩⟩
  · obtain ⟨t, ht, hfails⟩ := hoff hok
    simpa only [readNested, ht] using hfails
  · obtain ⟨t, ht, hfails⟩ := herr hok (by rw [hr]; rfl)
    simpa only [readNested, ht] using hfails
  · rw [hr]
    exact readNested_malformed h st hok hc depth opens
  · rw [hr, readNested_opens h st hok hc]
    exact hP d

/-- The level that a held command opens, from a state with its ledger. -/
theorem openLevel_opens {st : CmdState} {v : State} (hv : v.dl.items = (heldCmd s shoe seq l lv.pc b st).dl.items) (depth : Nat)
    (kind : LevelKind) (run : Nat → CmdState) (bs : List Byte) :
    levelOpens s (openLevel v shoe seq l lv.pc depth kind run bs) shoe seq l lv b run
      (fun id => { id := id, kind := kind, depth := depth, bytes := bs }) := by
  obtain ⟨i, i', hi, hi', -, hnext, -, hl, ha⟩ := held_item h st
  obtain ⟨j, lv', hj, hjnext, hlast, hjl, hpc, hact⟩ := openLevel_spec ((findItem_congr hv _ _).trans hi') hl ha depth kind run bs
  rw [hnext] at hjnext hlast hact
  exact ⟨i, j, lv', hi, hj, hjnext, hlast, by simp [levelOf, hj, hjl], hpc, hact⟩

end Starts

/-! CALL (R114, R115, R116). -/

/-- An item's CALL takes n bytes of the shoe's call store, beside those that the item uses where the store is its own (R115). -/
def takeCallStore (s : State) (shoe seq : Nat) (mine : Prop) [Decidable mine] (n : Nat) : State :=
  s.modShoe shoe fun h => { h with callOwner := some seq, callUsed := (if mine then h.callUsed else 0) + n }

section Call

variable {u : State} {shoe seq : Nat} (l g : Nat) (lv : Level) (b : List Byte) (r : HostResp)

theorem runCall_waits (h : ¬ ((u.shoe shoe).callOwner = none ∨ (u.shoe shoe).callOwner = some seq)) : runCall u shoe seq l g lv b r = u := by
  obtain ⟨hnone, hother⟩ := not_or.1 h
  simp only [runCall, hother, decide_false, Bool.not_false, Bool.true_and, Option.isSome_iff_ne_none.2 hnone, if_true]

section Mine

variable {lv b} (h : (u.shoe shoe).callOwner = none ∨ (u.shoe shoe).callOwner = some seq)
include h

theorem callStore_mine : (!decide ((u.shoe shoe).callOwner = some seq) && (u.shoe shoe).callOwner.isSome) = false := by
  rcases h with h | h <;> simp [h]

/-- A CALL too deep, or without room in the store, is malformed (R114, R115). -/
theorem runCall_overflows (hfits : ¬ (lv.depth < 4 ∧ storeUsed u shoe seq + field b 0x10 4 ≤ 1048576)) :
    runCall u shoe seq l g lv b r = levelFault u shoe seq (failOutcome lv g 0x0108 0) := by
  have hover : 4 ≤ lv.depth ∨ 1048576 < storeUsed u shoe seq + field b 0x10 4 := by omega
  simp only [storeUsed] at hover
  simp only [runCall, callStore_mine h, Bool.false_eq_true, if_false, decide_eq_true_eq, if_pos hover]

theorem runCall_reads (hfits : lv.depth < 4 ∧ storeUsed u shoe seq + field b 0x10 4 ≤ 1048576) :
    runCall u shoe seq l g lv b r = readNested u shoe seq l g b r false (lv.depth + 1) fun v bs =>
      openLevel (takeCallStore v shoe seq ((u.shoe shoe).callOwner = some seq) (field b 0x10 4)) shoe seq l g (lv.depth + 1) (.call l g) .callRun bs := by
  have hroom : ¬ (4 ≤ lv.depth ∨ 1048576 < storeUsed u shoe seq + field b 0x10 4) := by omega
  simp only [storeUsed] at hroom
  simp only [runCall, callStore_mine h, Bool.false_eq_true, if_false, decide_eq_true_eq, if_neg hroom, readNested]
  rfl

end Mine

end Call

theorem callCmd_starts {s : State} {shoe seq l : Nat} {lv : Level} {b : List Byte} (h : cmdFresh s shoe seq l 0x09 lv b) (r : HostResp) :
    exec (.callCmd shoe seq l lv.pc r) s = .next (runCall (heldCmd s shoe seq l lv.pc b .callWait) shoe seq l lv.pc lv b r) := by
  rw [callCmd_runs shoe seq l lv.pc r s h.1.1, cmdAtGate_starts h.1]
  simp only [callCmd, fresh_none h, h.1.2.1, if_true]

/-- A CALL that starts and finds no fault runs the level that it opens, and the store is its item's (R114, R115). -/
theorem callLevel_opens {s : State} {shoe seq l : Nat} {lv : Level} {b : List Byte} (hs : shoe < 9) (h : cmdStarts s shoe seq l 0x09 lv b)
    (n : Nat) (bs : List Byte) :
    let t := openLevel (takeCallStore (deckAsked s shoe seq l lv.pc b .callWait) shoe seq ((s.shoe shoe).callOwner = some seq) n) shoe seq l lv.pc (lv.depth + 1) (.call l lv.pc) .callRun bs
    levelOpens s t shoe seq l lv b .callRun (fun id => { id := id, kind := .call l lv.pc, depth := lv.depth + 1, bytes := bs }) ∧
      t.shoe shoe = { s.shoe shoe with callOwner := some seq, callUsed := storeUsed s shoe seq + n } := by
  refine ⟨openLevel_opens (st := .callWait) h (by rfl) _ _ _ _, ?_⟩
  have hasked : (deckAsked s shoe seq l lv.pc b .callWait).shoe shoe = s.shoe shoe :=
    congrArg (tget · shoe) (heldCmd_shoes s shoe seq l lv.pc b .callWait)
  rw [State.shoe, openLevel_shoes]
  exact (shoe_modShoe_same _ _ hs).trans (by rw [hasked, storeUsed])

/-! LANE_DECK (R119, R120). -/

/-- A lane's store holds a sub-deck of an item. -/
def takeLaneStore (s : State) (lane : Nat) (x : Nat × Nat × Nat) : State :=
  s.modDl fun d => { d with lanes := tmod d.lanes lane fun y => { y with subdeck := some x } }

/-- The number that the next level of an item takes. -/
def nextLevelOf (s : State) (shoe seq : Nat) : Nat := ((findItem s shoe seq).map (·.nextLevel)).getD 0

section LaneDeck

variable {u : State} (shoe seq l g : Nat) {b : List Byte} (r : HostResp)

theorem runLaneDeck_fenced (h : laneFenced u (field b 6 1) = true) :
    runLaneDeck u shoe seq l g b r = failAt u shoe seq l g 0x0702 (1 + 2 ^ 8 * field b 6 1) := by
  simp only [runLaneDeck, h, if_true]

theorem runLaneDeck_waits (h : laneFenced u (field b 6 1) = false) (hstore : (tget u.dl.lanes (field b 6 1)).subdeck.isSome = true) :
    runLaneDeck u shoe seq l g b r = u := by
  simp only [runLaneDeck, h, Bool.false_eq_true, if_false, hstore, if_true]

theorem runLaneDeck_reads (h : laneFenced u (field b 6 1) = false) (hstore : (tget u.dl.lanes (field b 6 1)).subdeck = none) :
    runLaneDeck u shoe seq l g b r = readNested u shoe seq l g b r true 1 fun v bs =>
      openLevel (takeLaneStore v (field b 6 1) (shoe, seq, nextLevelOf v shoe seq)) shoe seq l g 1 (.lane (field b 6 1) g) .laneRun bs := by
  simp only [runLaneDeck, h, hstore, Option.isSome_none, Bool.false_eq_true, if_false, readNested]
  rfl

end LaneDeck

theorem laneDeck_starts {s : State} {shoe seq l : Nat} {lv : Level} {b : List Byte} (h : cmdFresh s shoe seq l 0x02 lv b) (r : HostResp) :
    exec (.laneDeck shoe seq l lv.pc r) s = .next (runLaneDeck (heldCmd s shoe seq l lv.pc b .laneWait) shoe seq l lv.pc b r) := by
  rw [laneDeck_runs shoe seq l lv.pc r s h.1.1, cmdAtGate_starts h.1]
  simp only [laneDeckCmd, fresh_none h, h.1.2.1, if_true]

theorem laneFenced_heldCmd (s : State) (shoe seq l g : Nat) (b : List Byte) (st : CmdState) (lane : Nat) :
    laneFenced (heldCmd s shoe seq l g b st) lane = laneFenced s lane := by
  obtain ⟨d, hd⟩ := heldCmd_eq s shoe seq l g b st
  rw [hd]
  rfl

/-- A LANE_DECK that starts and finds no fault runs the level that it opens, at depth 1, and its lane's store is taken (R119). -/
theorem laneLevel_opens {s : State} {shoe seq l lane : Nat} {lv : Level} {b : List Byte} (hlane : lane < 16)
    (h : cmdStarts s shoe seq l 0x02 lv b) (id : Nat) (bs : List Byte) :
    let t := openLevel (takeLaneStore (deckAsked s shoe seq l lv.pc b .laneWait) lane (shoe, seq, id)) shoe seq l lv.pc 1 (.lane lane lv.pc) .laneRun bs
    levelOpens s t shoe seq l lv b .laneRun (fun id => { id := id, kind := .lane lane lv.pc, depth := 1, bytes := bs }) ∧
      (tget t.dl.lanes lane).subdeck = some (shoe, seq, id) := by
  refine ⟨openLevel_opens (st := .laneWait) h (by rfl) _ _ _ _, ?_⟩
  rw [openLevel_lanes]
  exact congrArg Lane.subdeck (tget_tmod_same _ _ hlane)

end Sys2Proof
end

section
/-! SUPPORT. The ends of called decks and sub-decks (R114, R115, R119). -/

namespace Sys2Proof

open Machine

/-- A level of an item closes. -/
def closeLevel (s : State) (shoe seq l : Nat) : State := s.modItem shoe seq fun i => { i with levels := i.levels.filter (·.id != l) }

theorem level_filter (i : Item) (l k : Nat) :
    ({ i with levels := i.levels.filter (·.id != l) } : Item).level k = if k = l then none else i.level k := by
  simp only [Item.level, List.find?_filter]
  split
  · rename_i hk
    exact List.find?_eq_none.2 fun v _ => by simp [hk]
  · rename_i hk
    congr 1
    funext v
    by_cases hv : v.id = k
    · simp [hv, hk]
    · simp [hv]

theorem findItem_closeLevel (s : State) (shoe seq l : Nat) : findItem (closeLevel s shoe seq l) shoe seq =
    (findItem s shoe seq).map fun i => { i with levels := i.levels.filter (·.id != l) } := by
  rw [closeLevel, findItem_modItem (f := fun i => { i with levels := i.levels.filter (·.id != l) }) fun _ => ⟨rfl, rfl⟩, if_pos ⟨rfl, rfl⟩]

theorem levelOf_closeLevel (s : State) (shoe seq l k : Nat) :
    levelOf (closeLevel s shoe seq l) shoe seq k = if k = l then none else levelOf s shoe seq k := by
  rw [levelOf, findItem_closeLevel, levelOf]
  cases findItem s shoe seq with
  | none => simp
  | some i => simp only [Option.map_some, Option.bind_some, level_filter]

theorem levelOf_completeCmd_ne {w : State} {shoe seq l p : Nat} (hp : p ≠ l) (g : Nat) :
    levelOf (completeCmd w shoe seq p g) shoe seq l = levelOf w shoe seq l :=
  levelOf_modLevel_ne (f := fun v => cmdEnded v g) (fun _ => rfl) fun ⟨_, _, hl⟩ => hp hl.symm

/-- The command that ran a closed level completes, from a state with the ledger that the closing left. -/
theorem completeCmd_closed {s w : State} {shoe seq l p : Nat} (hw : w.dl.items = (closeLevel s shoe seq l).dl.items) (hp : p ≠ l) (g : Nat) :
    levelOf (completeCmd w shoe seq p g) shoe seq l = none ∧
      levelOf (completeCmd w shoe seq p g) shoe seq p = (levelOf s shoe seq p).map (cmdEnded · g) := by
  refine ⟨?_, ?_⟩
  · rw [levelOf_completeCmd_ne hp, levelOf_congr hw, levelOf_closeLevel, if_pos rfl]
  · rw [levelOf_completeCmd, levelOf_congr hw, levelOf_closeLevel, if_neg hp]

/-- Without level l, a depth-1 deck that a CALL runs is open in the item (R115). -/
def callOpen (i : Item) (l : Nat) : Bool := (i.levels.filter (·.id != l)).any fun v => v.isCall && decide (v.depth = 1)

theorem callOpen_iff (i : Item) (l : Nat) : callOpen i l = true ↔ ∃ v ∈ i.levels, v.id ≠ l ∧ v.isCall = true ∧ v.depth = 1 := by
  simp [callOpen]

/-- A shoe's call store after a called deck of an item has ended: the deck's bytes are free, and the store with them once no other
depth-1 call of the item is open (R115). -/
def freeCallStore (seq : Nat) (open_ : Bool) (n : Nat) (h : Shoe) : Shoe :=
  if h.callOwner ≠ some seq then h
  else if open_ then { h with callUsed := h.callUsed - n }
  else { h with callOwner := none, callUsed := 0 }

/-- A lane's store is free (R119). -/
def freeLaneStore (s : State) (lane : Nat) : State := s.modDl fun d => { d with lanes := tmod d.lanes lane fun x => { x with subdeck := none } }

theorem freeCallStore_spec (seq l n : Nat) (i : Item) (h : Shoe) :
    let open_ := ∃ v ∈ i.levels, v.id ≠ l ∧ v.isCall = true ∧ v.depth = 1
    (h.callOwner ≠ some seq → freeCallStore seq (callOpen i l) n h = h) ∧
      (h.callOwner = some seq → open_ → freeCallStore seq (callOpen i l) n h = { h with callUsed := h.callUsed - n }) ∧
      (h.callOwner = some seq → ¬ open_ → freeCallStore seq (callOpen i l) n h = { h with callOwner := none, callUsed := 0 }) := by
  dsimp only
  rw [← callOpen_iff, freeCallStore]
  refine ⟨fun ho => if_pos ho, fun ho hopen => ?_, fun ho hopen => ?_⟩
  · rw [if_neg (not_not.2 ho), if_pos hopen]
  · rw [if_neg (not_not.2 ho), if_neg hopen]

section Ends

variable {s : State} {shoe seq l : Nat} {i : Item} {lv : Level} (hi : findItem s shoe seq = some i) (hr : i.st = .running)
  (hl : i.level l = some lv) (hend : lv.ended = true)
include hi hr hl hend

theorem callEnd_ends {p g : Nat} (hk : lv.kind = .call p g) : callEnd s shoe seq l =
    completeCmd ((closeLevel s shoe seq l).modShoe shoe (freeCallStore seq (callOpen i l) lv.bytes.length)) shoe seq p g := by
  have hopen : ((findItem (closeLevel s shoe seq l) shoe seq).any fun i => i.levels.any fun v => v.isCall && decide (v.depth = 1)) =
      callOpen i l := by
    rw [findItem_closeLevel, hi]
    rfl
  simp only [callEnd, hi, Option.bind_some, hr, if_true, hl, hk, hend, Bool.not_true, Bool.false_eq_true, if_false]
  rw [← hopen]
  rfl

theorem laneDeckEnd_ends {lane g : Nat} (hk : lv.kind = .lane lane g) : laneDeckEnd s shoe seq l =
    completeCmd (freeLaneStore (closeLevel s shoe seq l) lane) shoe seq (parentOf i g (.laneRun l)) g := by
  simp only [laneDeckEnd, hi, hr, if_true, hl, hk, hend, Bool.not_true, Bool.false_eq_true, if_false]
  rfl

end Ends

/-- Settles O36: a CALL or LANE_DECK that starts by its store and what the read and the checks of its deck give, and each end of a
deck by the kind of its level. -/
theorem nestedDecks : Obligations.NestedDecks := by
  unfold Obligations.NestedDecks
  refine fun s shoe seq l lv b hs => ⟨fun h r => ?_, fun h hlane r => ?_, fun hd i hi hr hl hend => ⟨fun p g hk hp => ?_, fun lane g hlane hk hp => ?_⟩⟩
  · let u := heldCmd s shoe seq l lv.pc b .callWait
    have hshoe : u.shoe shoe = s.shoe shoe := congrArg (tget · shoe) (heldCmd_shoes s shoe seq l lv.pc b .callWait)
    have hused : storeUsed u shoe seq = storeUsed s shoe seq := by simp only [storeUsed, hshoe]
    have hexec := callCmd_starts h r
    dsimp only
    rw [← hshoe, ← hused]
    refine ⟨fun hother => ?_, fun hmine hfits => ?_, fun hmine hfits => ?_⟩
    · rw [runCall_waits _ _ _ _ _ hother] at hexec
      exact ⟨u, hexec, (held_active h.1 _).1, heldCmd_only _ _ _ _ _ _ _, heldCmd_shoes _ _ _ _ _ _ _⟩
    · obtain ⟨-, i, -, hi, hr, -⟩ := held_item h.1 .callWait
      rw [runCall_overflows _ _ _ hmine hfits] at hexec
      exact ⟨_, hexec, levelFault_nested hi hr _ rfl (held_parts _ _ _ _ _ _ _)⟩
    · rw [runCall_reads _ _ _ hmine hfits] at hexec
      refine readNested_runs h.1 hexec fun d => ?_
      rw [hused, hshoe]
      exact callLevel_opens hs h.1 _ _
  · let u := heldCmd s shoe seq l lv.pc b .laneWait
    have hexec := laneDeck_starts h r
    dsimp only
    rw [← laneFenced_heldCmd s shoe seq l lv.pc b .laneWait, ← heldCmd_lanes s shoe seq l lv.pc b .laneWait]
    refine ⟨fun hf => ?_, fun hf hstore => ?_, fun hf hstore => ?_⟩
    · rw [runLaneDeck_fenced _ _ _ _ _ hf] at hexec
      exact ⟨_, hexec, fails_of_held h.1.2.1 rfl _ _ _⟩
    · rw [runLaneDeck_waits _ _ _ _ _ hf hstore] at hexec
      exact ⟨u, hexec, (held_active h.1 _).1, heldCmd_only _ _ _ _ _ _ _, rfl⟩
    · rw [runLaneDeck_reads _ _ _ _ _ hf hstore] at hexec
      refine readNested_runs h.1 hexec fun d => ?_
      obtain ⟨hlevel, hstore⟩ := laneLevel_opens hlane h.1 (nextLevelOf (deckAsked s shoe seq l lv.pc b .laneWait) shoe seq) (bytesAt d 0 (field b 0x10 4))
      exact ⟨hlevel, _, hstore⟩
  · let w := (closeLevel s shoe seq l).modShoe shoe (freeCallStore seq (callOpen i l) lv.bytes.length)
    obtain ⟨hclosed, hparent⟩ := completeCmd_closed (s := s) (w := w) (seq := seq) rfl hp g
    have hstore : (completeCmd w shoe seq p g).shoe shoe = freeCallStore seq (callOpen i l) lv.bytes.length (s.shoe shoe) :=
      shoe_modShoe_same (closeLevel s shoe seq l) _ hs
    refine ⟨completeCmd w shoe seq p g, (callComplete_runs shoe seq l s hd).trans (congrArg _ (callEnd_ends hi hr hl hend hk)), hclosed, hparent,
      ((modItem_only _ _ _ _).trans (modShoe_only _ _ _)).trans (completeCmd_only _ _ _ _ _), ?_⟩
    rw [hstore]
    exact freeCallStore_spec seq l _ i _
  · obtain ⟨hclosed, hparent⟩ := completeCmd_closed (s := s) (seq := seq)
      (w := freeLaneStore (closeLevel s shoe seq l) lane) rfl hp g
    exact ⟨_, (laneDeckComplete_runs shoe seq l s hd).trans (congrArg _ (laneDeckEnd_ends hi hr hl hend hk)), hclosed, hparent,
      congrArg Lane.subdeck (tget_tmod_same _ _ hlane),
      ((modItem_only _ _ _ _).trans (modDl_only _ _)).trans (completeCmd_only _ _ _ _ _)⟩

end Sys2Proof
end

section
/-! SUPPORT. Memory through a step: whatever it does, each operation on the way keeps both tiers and the flash canonical
(R186, R335). -/

namespace Sys2Proof

open Machine

/-- A command completes, and keeps memory canonical. -/
theorem exec_keeps_memWf {i : Instr} {s t : State} (hw : s.memWf = true) (he : exec i s = .next t) : t.memWf = true := by
  obtain ⟨m, -, u, hu, hm⟩ := exec_within i s
  cases hu.symm.trans he
  exact hm.mem hw

/-- Register writes that waited for P0 keep memory canonical one after another (R393). -/
theorem runHeld_keeps_memWf (cs : List Instr) {s t : State} (hw : s.memWf = true) (he : runHeld cs s = .next t) : t.memWf = true := by
  induction cs generalizing s with
  | nil =>
    cases he
    exact hw
  | cons c cs ih =>
    obtain ⟨u, hu, -, -⟩ := exec_completes c s
    rw [runHeld, hu] at he
    exact ih (exec_keeps_memWf hw hu) he

/-- Settles O5: a step is a command, the register writes that waited, or a tick, and each keeps memory canonical. -/
theorem stepKeepsMemoryCanonical : Obligations.StepKeepsMemoryCanonical := by
  intro s t hw he
  cases hq : s.pending with
  | cons c rest =>
    simp only [step, hq] at he
    exact exec_keeps_memWf (s := { s with pending := rest }) hw he
  | nil =>
    by_cases hn : s.held = [] ∨ s.power.level ≠ 0
    · cases (step_tick hq hn).symm.trans he
      exact (tick_moved s).mem hw
    · obtain ⟨hh, hp⟩ := not_or.1 hn
      rw [step_held hq hh (not_not.1 hp)] at he
      exact runHeld_keeps_memWf s.held (s := { s with held := [] }) hw he

end Sys2Proof
end

section
/-! SUPPORT. PAGE's operations on a claim's pages, and the moves that PROMOTE and DEMOTE start (R197, R198, R209). -/

namespace Sys2Proof

open Machine

section Starts

variable {s : State} {n seq l op : Nat} {lv : Level} {b : List Byte}

theorem clearNeeded_dl (s : State) (t2 : Bool) (c w : Nat) : (clearNeeded s t2 c w).dl = s.dl :=
  (clearNeeded_moves s t2 c w (Moves.refl 1352 s) rfl).rest .dl rfl

/-- A command fails from a state with the same items as the one where it starts. -/
theorem starts_fails (h : cmdStarts s n seq l op lv b) {u : State} (hu : u.dl.items = s.dl.items) (cause d : Nat) :
    othersStay s (failAt u n seq l lv.pc cause d) n seq ∧ itemFails (failAt u n seq l lv.pc cause d) n seq cause :=
  ⟨(othersStay.of_items hu).trans (others_failAt _ _ _ _ _ _ _), fails_of_next h.2.1 hu _ _ _⟩

/-- A command is done from a state with the same items as the one where it starts. -/
theorem starts_done (h : cmdStarts s n seq l op lv b) {u : State} (hu : u.dl.items = s.dl.items) :
    othersStay s (doneCmd u n seq l lv.pc b) n seq ∧ levelOf (doneCmd u n seq l lv.pc b) n seq l = some (cmdDone lv b) := by
  obtain ⟨-, -, -, -, -, -, -, -, hl⟩ := nextCmd_some h.2.1
  exact ⟨(othersStay.of_items hu).trans (others_doneCmd _ _ _ _ _ _), levelOf_doneCmd b ((levelOf_congr hu _ _ _).trans hl)⟩

/-- A page of a range is mapped. -/
theorem pageMap_mapped (h : pageStarts s n seq l 0 lv b) (hm : ∃ p ∈ pageSpan b, (pteOf s n p).isSome = true) :
    pageCmd s n seq l 0 = failAt s n seq l lv.pc 0x0406 := by
  have ha : ((pageSpan b).any fun p => (pteOf s n p).isSome) = true := List.any_eq_true.2 hm
  simp [pageCmd, h.2.1.2.1, h.2.2, ha]

/-- Where no page of the range is mapped, MAP answers as its range takes its pages (R195). -/
theorem pageMap_free (h : pageStarts s n seq l 0 lv b) (hm : ∀ p ∈ pageSpan b, pteOf s n p = none) {r : MapEnd}
    (hr : mapRange n (field b 7 1 == 2) s (pageSpan b) = r) :
    (r = .quota → pageCmd s n seq l 0 = failAt s n seq l lv.pc 0x0401) ∧
      (∀ t2, r = .frames t2 →
        pageCmd s n seq l 0 = failAt (clearNeeded s t2 n (if t2 then 256 * (pageSpan b).length else (pageSpan b).length)) n seq l lv.pc 0x0402) ∧
      ∀ u, r = .ok u → pageCmd s n seq l 0 = doneCmd u n seq l lv.pc b := by
  have ha : ((pageSpan b).any fun p => (pteOf s n p).isSome) = false := by
    rw [List.any_eq_false]
    intro p hp
    simp [hm p hp]
  refine ⟨?_, fun t2 => ?_, fun u => ?_⟩
  · rintro rfl
    simp [pageCmd, h.2.1.2.1, h.2.2, ha, hr]
  · rintro rfl
    simp [pageCmd, h.2.1.2.1, h.2.2, ha, hr]
  · rintro rfl
    simp [pageCmd, h.2.1.2.1, h.2.2, ha, hr]

theorem mapRange_dl {ps : List Nat} {p2 : Bool} {u : State} (h : mapRange n p2 s ps = .ok u) : u.dl = s.dl :=
  (mapRange_moves n p2 s ps h (Moves.refl 256 s) rfl).rest .dl rfl

/-- What MAP does (R209). -/
theorem pageMap_spec (h : pageStarts s n seq l 0 lv b) :
    let t := pageCmd s n seq l 0
    othersStay s t n seq ∧ ((∃ p ∈ pageSpan b, (pteOf s n p).isSome = true) → itemFails t n seq 0x0406 ∧ OnlyParts [.dl] s t) ∧
      ((∀ p ∈ pageSpan b, pteOf s n p = none) → let r := mapRange n (field b 7 1 == 2) s (pageSpan b)
        (r = .quota → itemFails t n seq 0x0401) ∧ (∀ t2, r = .frames t2 → itemFails t n seq 0x0402) ∧
        ∀ u, r = .ok u → levelOf t n seq l = some (cmdDone lv b) ∧ (∀ p ∈ pageSpan b, (pteOf t n p).isSome = true) ∧
          ∀ p, p ∉ pageSpan b → pteOf t n p = pteOf s n p) := by
  by_cases hm : ∃ p ∈ pageSpan b, (pteOf s n p).isSome = true
  · rw [pageMap_mapped h hm]
    obtain ⟨ho, hf⟩ := starts_fails h.2.1 rfl 0x0406 0
    refine ⟨ho, fun _ => ⟨hf, failAt_only _ _ _ _ _ _ _⟩, fun hno => ?_⟩
    obtain ⟨p, hp, hs⟩ := hm
    exact absurd hs (by simp [hno p hp])
  · have hno : ∀ p ∈ pageSpan b, pteOf s n p = none := fun p hp => by
      simpa using fun hs => hm ⟨p, hp, hs⟩
    cases hr : mapRange n (field b 7 1 == 2) s (pageSpan b) with
    | quota =>
      rw [(pageMap_free h hno hr).1 rfl]
      obtain ⟨ho, hf⟩ := starts_fails h.2.1 rfl 0x0401 0
      exact ⟨ho, fun hx => absurd hx hm, fun _ => ⟨fun _ => hf, fun _ hx => (nomatch hx), fun _ hx => (nomatch hx)⟩⟩
    | frames t2 =>
      rw [(pageMap_free h hno hr).2.1 t2 rfl]
      obtain ⟨ho, hf⟩ := starts_fails h.2.1 (congrArg Dealer.items (clearNeeded_dl s t2 n _)) 0x0402 0
      exact ⟨ho, fun hx => absurd hx hm, fun _ => ⟨fun hx => (nomatch hx), fun _ _ => hf, fun _ hx => (nomatch hx)⟩⟩
    | ok u =>
      rw [(pageMap_free h hno hr).2.2 u rfl]
      obtain ⟨ho, hl⟩ := starts_done h.2.1 (congrArg Dealer.items (mapRange_dl hr))
      obtain ⟨hin, hout⟩ := mapRange_pages (Nat.lt_succ_of_lt h.1) hr
      have hpte : ∀ p, pteOf (doneCmd u n seq l lv.pc b) n p = pteOf u n p := fun p =>
        pteOf_tables (by rw [State.ptab, doneCmd_only u n seq l lv.pc b .tiers (by decide)]; rfl) p
      refine ⟨ho, fun hx => absurd hx hm, fun _ => ⟨fun hx => (nomatch hx), fun _ hx => (nomatch hx), fun v hv => ?_⟩⟩
      cases hv
      exact ⟨hl, fun p hp => (hpte p).symm ▸ hin p hp, fun p hp => (hpte p).trans (hout p hp)⟩

theorem pageUnmap_unmapped (h : pageStarts s n seq l 1 lv b) (hm : ∃ p ∈ pageSpan b, pteOf s n p = none) :
    pageCmd s n seq l 1 = failAt s n seq l lv.pc 0x0406 := by
  have ha : ((pageSpan b).all fun p => (pteOf s n p).isSome) = false := by
    obtain ⟨p, hp, hs⟩ := hm
    rw [List.all_eq_false]
    exact ⟨p, hp, by simp [hs]⟩
  simp [pageCmd, h.2.1.2.1, h.2.2, ha]

/-- A page of a range is pinned. -/
def anyPinned (s : State) (n : Nat) (ps : List Nat) : Prop := ∃ p ∈ ps, ∃ e, pteOf s n p = some e ∧ e.pins ≠ 0

theorem anyPinned_iff (s : State) (n : Nat) (ps : List Nat) : (ps.any fun p => match pteOf s n p with
    | some e => decide (e.pins ≠ 0)
    | none => false) = true ↔ anyPinned s n ps := by
  rw [List.any_eq_true]
  refine exists_congr fun p => and_congr_right fun _ => ?_
  cases pteOf s n p with
  | none => simp
  | some e => simp

theorem pageUnmap_pinned (h : pageStarts s n seq l 1 lv b) (hm : ∀ p ∈ pageSpan b, (pteOf s n p).isSome = true)
    (hp : anyPinned s n (pageSpan b)) : pageCmd s n seq l 1 = failAt s n seq l lv.pc 0x0408 := by
  have ha : ((pageSpan b).all fun p => (pteOf s n p).isSome) = true := List.all_eq_true.2 hm
  have hq := (anyPinned_iff s n (pageSpan b)).2 hp
  simp only [pageCmd, h.2.1.2.1, h.2.2, ha, ne_eq, not_true_eq_false, if_false, if_true, Bool.not_true, Bool.false_eq_true, Nat.one_ne_zero]
  exact if_pos hq

theorem pageUnmap_goes (h : pageStarts s n seq l 1 lv b) (hm : ∀ p ∈ pageSpan b, (pteOf s n p).isSome = true)
    (hp : ¬ anyPinned s n (pageSpan b)) :
    pageCmd s n seq l 1 = settlePage (heldCmd s n seq l lv.pc b (.pages 0 0)) n seq l lv.pc b 0 0 := by
  have ha : ((pageSpan b).all fun p => (pteOf s n p).isSome) = true := List.all_eq_true.2 hm
  have hq := (anyPinned_iff s n (pageSpan b)).not.2 hp
  simp only [pageCmd, h.2.1.2.1, h.2.2, ha, ne_eq, not_true_eq_false, if_false, if_true, Bool.not_true, Bool.false_eq_true, Nat.one_ne_zero]
  exact if_neg hq

/-- What UNMAP does (R209). -/
theorem pageUnmap_spec (h : pageStarts s n seq l 1 lv b) :
    let t := pageCmd s n seq l 1
    othersStay s t n seq ∧ ((∃ p ∈ pageSpan b, pteOf s n p = none) → itemFails t n seq 0x0406 ∧ OnlyParts [.dl] s t) ∧
      ((∀ p ∈ pageSpan b, (pteOf s n p).isSome = true) →
        ((∃ p ∈ pageSpan b, ∃ e, pteOf s n p = some e ∧ e.pins ≠ 0) → itemFails t n seq 0x0408 ∧ OnlyParts [.dl] s t) ∧
        ((∀ p ∈ pageSpan b, ∀ e, pteOf s n p = some e → e.pins = 0) →
          (anyMoving s n (pageSpan b) = true → levelOf t n seq l = some (cmdHeld s.now lv b (.pages 0 0)) ∧ OnlyParts [.dl] s t) ∧
          (anyMoving s n (pageSpan b) = false → levelOf t n seq l = some (cmdDone lv b) ∧ (∀ p ∈ pageSpan b, pteOf t n p = none) ∧
            ∀ p, p ∉ pageSpan b → pteOf t n p = pteOf s n p))) := by
  by_cases hm : ∃ p ∈ pageSpan b, pteOf s n p = none
  · rw [pageUnmap_unmapped h hm]
    obtain ⟨ho, hf⟩ := starts_fails h.2.1 rfl 0x0406 0
    refine ⟨ho, fun _ => ⟨hf, failAt_only _ _ _ _ _ _ _⟩, fun hall => ?_⟩
    obtain ⟨p, hp, hs⟩ := hm
    exact absurd (hall p hp) (by simp [hs])
  have hall : ∀ p ∈ pageSpan b, (pteOf s n p).isSome = true := fun p hp => Option.isSome_iff_ne_none.2 fun hs => hm ⟨p, hp, hs⟩
  by_cases hp : anyPinned s n (pageSpan b)
  · rw [pageUnmap_pinned h hall hp]
    obtain ⟨ho, hf⟩ := starts_fails h.2.1 rfl 0x0408 0
    refine ⟨ho, fun hx => absurd hx hm, fun _ => ⟨fun _ => ⟨hf, failAt_only _ _ _ _ _ _ _⟩, fun hno => ?_⟩⟩
    obtain ⟨p, hp, e, he, hpin⟩ := hp
    exact absurd (hno p hp e he) hpin
  · have hheld := heldCmd_only s n seq l lv.pc b (.pages 0 0)
    have ht : (heldCmd s n seq l lv.pc b (.pages 0 0)).tiers = s.tiers := hheld .tiers (by decide)
    rw [pageUnmap_goes h hall hp, settle_unmap h.2.2, anyMoving_congr ht]
    cases hmov : anyMoving s n (pageSpan b) with
    | true =>
      exact ⟨others_heldCmd _ _ _ _ _ _ _, fun hx => absurd hx hm, fun _ => ⟨fun hx => absurd hx hp, fun _ =>
        ⟨fun _ => ⟨(held_active h.2.1 _).1, hheld⟩, nofun⟩⟩⟩
    | false =>
      obtain ⟨ho, hl⟩ := held_ends h.2.1 (congrArg Dealer.items (unmapAll_dl n (pageSpan b) (heldCmd s n seq l lv.pc b (.pages 0 0))))
      obtain ⟨hin, hout⟩ := unmap_pages (Nat.lt_succ_of_lt h.1) (pageSpan b) (heldCmd s n seq l lv.pc b (.pages 0 0))
      exact ⟨ho, fun hx => absurd hx hm, fun _ => ⟨fun hx => absurd hx hp, fun _ => ⟨nofun, fun _ =>
        ⟨hl, hin, fun p hq => (hout p hq).trans (pteOf_tables (by rw [State.ptab, ht]; rfl) p)⟩⟩⟩⟩

end Starts

end Sys2Proof
end

section
/-! SUPPORT. What PROMOTE and DEMOTE wait for (R198, R209): the masks of their ranges. -/

namespace Sys2Proof

open Machine

theorem total_eq_sum (l : List Nat) : total l = l.sum := List.sum_eq_foldl.symm

theorem snd_zipIdx_pairwise (ps : List Nat) : (ps.zipIdx.map (·.2)).Pairwise (· < ·) := by
  rw [show ps.zipIdx.map (·.2) = List.range' 0 ps.length from List.zipIdx_map_snd 0 ps]
  exact List.pairwise_lt_range'

/-- A bit of a mask over a range is that of a page with the property. -/
theorem testBit_mask (ps : List Nat) (f : Nat × Nat → Bool) (i : Nat) :
    (total ((ps.zipIdx.filter f).map fun p => 2 ^ p.2)).testBit i = true ↔ ∃ p ∈ ps.zipIdx, f p = true ∧ p.2 = i := by
  have hs : ((ps.zipIdx.filter f).map (·.2)).SortedLT :=
    (((snd_zipIdx_pairwise ps).sublist (List.filter_sublist.map _))).sortedLT
  have he : ((ps.zipIdx.filter f).map fun p => 2 ^ p.2) = ((ps.zipIdx.filter f).map (·.2)).map fun i => 2 ^ i := by
    rw [List.map_map]; rfl
  rw [total_eq_sum, he, ← Nat.mem_bitIndices, Nat.bitIndices_sum_map_two_pow hs]
  simp [and_assoc]

theorem snd_zipIdx_inj {ps : List Nat} {p q : Nat × Nat} (hp : p ∈ ps.zipIdx) (hq : q ∈ ps.zipIdx) (h : p.2 = q.2) : p = q := by
  have h1 := List.mem_zipIdx' hp
  have h2 := List.mem_zipIdx' hq
  ext
  · rw [h1.2, h2.2]; simp [h]
  · exact h

/-- The pages that DEMOTE has still to consider all move. -/
theorem lateMask_moves {s : State} {n : Nat} {ps : List Nat} {p : Nat × Nat} (hp : p ∈ ps.zipIdx)
    (h : (lateMask s n ps).testBit p.2 = true) : (moveOf s n p.1).isSome = true := by
  obtain ⟨q, hq, hm, he⟩ := (testBit_mask ps _ _).1 h
  obtain rfl := snd_zipIdx_inj hq hp he
  cases hmove : moveOf s n q.1 with
  | none => simp [hmove] at hm
  | some m => rfl

/-- DEMOTE considers no page while all of its mask move. -/
theorem demoteLate_waits {s : State} {n : Nat} {ps : List Nat} {m : Nat}
    (h : ∀ p ∈ ps.zipIdx, m.testBit p.2 = true → (moveOf s n p.1).isSome = true) : demoteLate s n ps m = (s, m) := by
  unfold demoteLate
  generalize ps.zipIdx = l at h
  induction l with
  | nil => rfl
  | cons x l ih =>
    rw [List.foldl_cons, if_neg]
    · exact ih fun p hp => h p (List.mem_cons_of_mem _ hp)
    · simp only [Bool.and_eq_true, not_and]
      intro hb
      simp [Option.isSome_iff_ne_none.1 (h x (by simp) hb)]

/-- Moves that have started are still in progress. -/
def movesGrow (s t : State) : Prop := ∀ n p, (moveOf s n p).isSome = true → (moveOf t n p).isSome = true

theorem movesGrow.refl (s : State) : movesGrow s s := fun _ _ h => h

theorem movesGrow.trans {s t u : State} (h : movesGrow s t) (k : movesGrow t u) : movesGrow s u := fun n p hs => k n p (h n p hs)

theorem movesGrow.of_append {s t : State} {ms : List Move} (h : t.tiers.moves = s.tiers.moves ++ ms) : movesGrow s t := by
  intro n p hs
  rw [moveOf, h, List.find?_append]
  rw [moveOf] at hs
  simp [hs]

theorem modPte_moves (s : State) (t p : Nat) (f : Pte → Pte) : (s.modPte t p f).tiers.moves = s.tiers.moves := by
  unfold State.modPte
  split <;> rfl

theorem clearNeeded_moves_stay (s : State) (t2 : Bool) (c w : Nat) : (clearNeeded s t2 c w).tiers.moves = s.tiers.moves := by
  unfold clearNeeded
  rw [(postEvent_moves _ _ _ _ _ (Moves.refl 1096 _) rfl).rest .tiers rfl]
  cases t2 <;> rfl

theorem startDemotion_grows (s : State) (t p : Nat) (c : Option Nat) (w : Option (Nat × Nat)) : movesGrow s (startDemotion s t p c w).1 := by
  unfold startDemotion
  split
  · exact .of_append ((clearNeeded_moves_stay _ _ _ _).trans (List.append_nil _).symm)
  · exact .of_append (modPte_moves _ _ _ _)

theorem demoteOwn_grows (s : State) (n p : Nat) (w : Option (Nat × Nat)) : movesGrow s (demoteOwn s n p w).1 := by
  unfold demoteOwn
  split
  · split
    · exact .refl s
    · exact startDemotion_grows _ _ _ _ _
  · exact .refl s

/-- The pages of a range are promoted, or demoted, where they may be (R209). -/
def startMoves (promote : Bool) (n : Nat) (ps : List Nat) (s : State) : State :=
  ps.foldl (fun s p => if promote then promoteRequest s n p n false else (demoteOwn s n p none).1) s

theorem startMoves_same (promote : Bool) (n : Nat) (ps : List Nat) (s : State) : tiersSame s (startMoves promote n ps s) :=
  same_foldl (fun u x => by
    split
    · exact promoteRequest_same _ _ _ _
    · exact demoteOwn_same _ _ _ _) ps s

theorem startMoves_dl (promote : Bool) (n : Nat) (ps : List Nat) (s : State) : (startMoves promote n ps s).dl = s.dl := by
  unfold startMoves
  induction ps generalizing s with
  | nil => rfl
  | cons x ps ih =>
    rw [List.foldl_cons, ih]
    split
    · exact promoteRequest_dl _ _ _ _ _
    · exact demoteOwn_dl _ _ _ _

theorem demotions_grow (n : Nat) (ps : List Nat) (s : State) : movesGrow s (startMoves false n ps s) := by
  unfold startMoves
  induction ps generalizing s with
  | nil => exact .refl s
  | cons x ps ih => exact (demoteOwn_grows s n x none).trans (ih _)

theorem movingMask_congr {s t : State} (h : t.tiers = s.tiers) (n : Nat) (d : Bool) (ps : List Nat) : movingMask t n d ps = movingMask s n d ps := by
  simp only [movingMask, moveOf_congr h]

/-- PROMOTE and DEMOTE start no move but those of DEMOTE's late pages when they look again. -/
theorem settlePage_tiers {u : State} {n seq l g m k : Nat} {b : List Byte} (hop : field b 6 1 ≠ 1) :
    (settlePage u n seq l g b m k).tiers = (demoteLate u n (pageSpan b) m).1.tiers := by
  unfold settlePage
  dsimp only
  rw [if_neg hop, if_neg hop]
  generalize demoteLate u n (pageSpan b) m = r
  generalize stillMoving r.1 n (field b 6 1 == 2) (pageSpan b)
    (k ||| (if field b 6 1 = 3 then movingMask r.1 n false (pageSpan b) ^^^ movingMask u n false (pageSpan b) else 0)) = mine
  have hv : (if r.2 = m ∧ mine = k then r.1 else setActive r.1 n seq l g (.pages r.2 mine)).tiers = r.1.tiers := by
    split
    · rfl
    · exact setActive_only _ _ _ _ _ _ .tiers (by decide)
  generalize (if r.2 = m ∧ mine = k then r.1 else setActive r.1 n seq l g (.pages r.2 mine)) = v at hv ⊢
  split
  · exact hv
  · rw [completeCmd_tiers]
    split <;> exact hv

section Starts

variable {s : State} {n seq l : Nat} {lv : Level} {b : List Byte}

/-- PROMOTE or DEMOTE after it has started its moves. -/
def movesAsked (s : State) (n seq l : Nat) (lv : Level) (b : List Byte) (promote : Bool) : State :=
  let mask := if promote then 0 else lateMask s n (pageSpan b)
  startMoves promote n (pageSpan b) (heldCmd s n seq l lv.pc b (.pages mask 0))

/-- PROMOTE and DEMOTE start their moves, and then look at those that are left (R209). -/
theorem pageMove_goes {op : Nat} (promote : Bool) (hop : op = if promote then 2 else 3) (h : pageStarts s n seq l op lv b) :
    let mask := if promote then 0 else lateMask s n (pageSpan b)
    let u := movesAsked s n seq l lv b promote
    let started := movingMask u n promote (pageSpan b) ^^^ movingMask s n promote (pageSpan b)
    pageCmd s n seq l op = settlePage (setActive u n seq l lv.pc (.pages mask started)) n seq l lv.pc b mask started := by
  cases promote with
  | true => subst hop; simp [pageCmd, h.2.1.2.1, h.2.2, movesAsked, startMoves]
  | false => subst hop; simp [pageCmd, h.2.1.2.1, h.2.2, movesAsked, startMoves]

/-- What PROMOTE and DEMOTE do (R198, R209). -/
theorem pageMove_spec {op : Nat} (promote : Bool) (hop : op = if promote then 2 else 3) (h : pageStarts s n seq l op lv b) :
    let t := pageCmd s n seq l op
    othersStay s t n seq ∧ tiersSame s t ∧ pageWaits s t n seq l lv b promote := by
  intro t
  have ht : t = _ := pageMove_goes promote hop h
  have hop1 : field b 6 1 ≠ 1 := by rw [h.2.2, hop]; cases promote <;> decide
  have hdir : (field b 6 1 == 2) = promote := by rw [h.2.2, hop]; cases promote <;> decide
  have hh := heldCmd_only s n seq l lv.pc b (.pages (if promote then 0 else lateMask s n (pageSpan b)) 0)
  have hht : _ = s.tiers := hh .tiers (by decide)
  have hheld := pageHeld_start h.2.1 (if promote then 0 else lateMask s n (pageSpan b)) 0
  have ho := others_heldCmd s n seq l lv.pc b (.pages (if promote then 0 else lateMask s n (pageSpan b)) 0)
  have hdl : (movesAsked s n seq l lv b promote).dl = _ := startMoves_dl promote n (pageSpan b) _
  have hsame : tiersSame _ (movesAsked s n seq l lv b promote) := startMoves_same promote n (pageSpan b) _
  have hlate : ∀ p ∈ (pageSpan b).zipIdx, (if promote then 0 else lateMask s n (pageSpan b)).testBit p.2 = true →
      (moveOf (movesAsked s n seq l lv b promote) n p.1).isSome = true := by
    intro p hp hb
    cases promote with
    | true => simp at hb
    | false =>
      refine demotions_grow n (pageSpan b) _ n p.1 ?_
      rw [moveOf_congr hht]
      exact lateMask_moves hp hb
  generalize movesAsked s n seq l lv b promote = u at ht hdl hsame hlate
  generalize hmask : (if promote then 0 else lateMask s n (pageSpan b)) = mask at ht hh hht hheld ho hdl hsame hlate
  generalize hst : movingMask u n promote (pageSpan b) ^^^ movingMask s n promote (pageSpan b) = started at ht
  have hv : (setActive u n seq l lv.pc (.pages mask started)).tiers = u.tiers := setActive_only _ _ _ _ _ _ .tiers (by decide)
  have hr : demoteLate (setActive u n seq l lv.pc (.pages mask started)) n (pageSpan b) mask =
      (setActive u n seq l lv.pc (.pages mask started), mask) :=
    demoteLate_waits fun p hp hb => by rw [moveOf_congr hv]; exact hlate p hp hb
  have hgoes := settlePage_goes ((hheld.of_dl hdl).set mask started)
    ((ho.trans (.of_items (congrArg Dealer.items hdl))).trans (others_setActive _ _ _ _ _ _)) hop1
  have htiers : t.tiers = u.tiers := by rw [ht, settlePage_tiers hop1, hr, hv]
  simp only [hr, hdir, Nat.xor_self, ite_self, Nat.or_zero, stillMoving, movingMask_congr hv, ← ht] at hgoes
  obtain ⟨hdone, hwait, hothers, -⟩ := hgoes
  refine ⟨hothers, ((tiersSame.of_tiers hht).trans hsame).trans (.of_tiers htiers), ?_⟩
  simp only [pageWaits, movingMask_congr htiers, hst, hmask]
  refine ⟨hdone, fun hn => ?_⟩
  obtain ⟨lv', hl, hpc, hact, -⟩ := hwait hn
  exact ⟨lv', hl, hpc, hact⟩

end Starts

end Sys2Proof
end

section
/-! SUPPORT. A move's commit (R197): where the page lies afterwards, whatever its room lets begin (R195, R198, R203, R204). -/

namespace Sys2Proof

open Machine

/-- The tier and the frame or handle of a page. -/
def placeOf (s : State) (t p : Nat) : Option (Bool × Nat) := (pteOf s t p).map fun e => (e.tier2, e.frame)

/-- Every page lies where it lay. -/
def placesStay (s u : State) : Prop := ∀ t p, placeOf u t p = placeOf s t p

namespace placesStay

theorem refl (s : State) : placesStay s s := fun _ _ => rfl

theorem trans {s u v : State} (h : placesStay s u) (k : placesStay u v) : placesStay s v := fun t p => (k t p).trans (h t p)

theorem of_tables {s u : State} (h : u.tiers.tables = s.tiers.tables) : placesStay s u := fun t p => by
  exact congrArg _ (pteOf_tables (congrArg PageTable.pages (congrArg (tget · t) h)) p)

/-- A change of an entry that leaves the page's place alone. -/
theorem modPte (s : State) (t p : Nat) {f : Pte → Pte} (hf : ∀ e, (f e).tier2 = e.tier2 ∧ (f e).frame = e.frame) : placesStay s (s.modPte t p f) := by
  intro a q
  unfold State.modPte
  split
  · rename_i e he
    by_cases ha : a = t
    · subst ha
      by_cases h9 : a < 9
      · by_cases hq : q = p
        · subst hq
          rw [placeOf, placeOf, pteOf_setPte_same _ h9, he]
          simp [hf e]
        · rw [placeOf, pteOf_setPte_ne _ h9 _ hq]; rfl
      · rw [placeOf, placeOf, pteOf_tables]
        exact (congrArg PageTable.pages ((tget_ge _ (by omega)).trans (tget_ge _ (by omega)).symm))
    · rw [placeOf, placeOf, pteOf_tables]
      exact congrArg PageTable.pages (tget_tmod_ne _ _ (Ne.symm ha))
  · rfl

theorem clearNeeded (s : State) (t2 : Bool) (c w : Nat) : placesStay s (clearNeeded s t2 c w) := by
  refine .of_tables ?_
  unfold Machine.clearNeeded
  rw [(postEvent_moves _ _ _ _ _ (Moves.refl 1096 _) rfl).rest .tiers rfl]
  cases t2 <;> rfl

theorem startDemotion (s : State) (t p : Nat) (c : Option Nat) (w : Option (Nat × Nat)) : placesStay s (startDemotion s t p c w).1 := by
  unfold Machine.startDemotion
  split
  · exact .clearNeeded _ _ _ _
  · exact .trans (.of_tables rfl) (.modPte _ _ _ fun _ => ⟨rfl, rfl⟩)

theorem demoteOwn (s : State) (n p : Nat) (w : Option (Nat × Nat)) : placesStay s (demoteOwn s n p w).1 := by
  unfold Machine.demoteOwn
  split
  · split
    · exact .refl _
    · exact .startDemotion _ _ _ _ _
  · exact .refl _

theorem commonSettle (s : State) (p : Nat) : placesStay s (commonSettle s p) := by
  unfold Machine.commonSettle
  split
  · split
    · exact .refl _
    · exact .startDemotion _ _ _ _ _
  · exact .refl _

theorem evictCharge (s : State) (n p : Nat) : placesStay s (evictCharge s n p) := by
  unfold Machine.evictCharge
  refine placesStay.trans ?_ (.commonSettle _ p)
  exact .modPte _ _ _ fun _ => ⟨rfl, rfl⟩

theorem victimStep (s : State) (n : Nat) (h : Option Nat) (w : Option (Nat × Nat)) : placesStay s (victimStep s n h w).1 := by
  unfold Machine.victimStep
  split
  · exact .refl _
  · split
    · exact .demoteOwn _ _ _ _
    · exact .evictCharge _ _ _

theorem relieveT1 (k : Nat) (s : State) (n : Nat) : placesStay s (relieveT1 k s n) := by
  induction k generalizing s with
  | zero => exact .refl _
  | succ k ih =>
    unfold Machine.relieveT1
    split
    · have hv := victimStep s n none none
      split
      · rename_i u hu
        rw [hu] at hv
        exact hv.trans (ih _)
      · rename_i u hu
        rw [hu] at hv
        exact hv
    · exact .refl _

theorem dropMove (s : State) (t p : Nat) : placesStay s (dropMove s t p) := .trans (.of_tables rfl) (.modPte _ _ _ fun _ => ⟨rfl, rfl⟩)

theorem cancelMove (s : State) (t p : Nat) : placesStay s (cancelMove s t p) := by
  unfold Machine.cancelMove
  split
  · exact .refl _
  · dsimp only
    split
    · exact (dropMove s t p).trans (.of_tables rfl)
    · exact (dropMove s t p).trans (.of_tables rfl)

theorem startPromotion {s u : State} {t p n : Nat} (h : startPromotion s t p n = some u) : placesStay s u := by
  unfold Machine.startPromotion at h
  split at h
  · cases h
  · rename_i f v hv
    cases h
    have htables : v.tiers.tables = s.tiers.tables := by
      obtain ⟨g, -, hg⟩ := Option.map_eq_some_iff.1 hv
      obtain ⟨-, rfl⟩ := Prod.mk.inj hg
      rfl
    exact .trans (.of_tables htables) (.trans (.of_tables rfl) (.modPte _ _ _ fun _ => ⟨rfl, rfl⟩))

/-- A promotion request that takes no victim. -/
theorem promoteRequest (s : State) (t p n : Nat) : placesStay s (promoteRequest s t p n false) := by
  unfold Machine.promoteRequest
  split
  · exact .refl _
  · split
    · split
      · exact .refl _
      · exact .cancelMove _ _ _
    · split
      · exact .refl _
      · split
        · exact .refl _
        · dsimp only
          split
          · split
            · rename_i u hu
              exact .startPromotion hu
            · exact .clearNeeded _ _ _ _
          · exact .refl _

theorem serveWaiter (s : State) (n t p : Nat) : placesStay s (serveWaiter s n t p) := by
  unfold Machine.serveWaiter
  split
  · exact .refl _
  · split
    · exact .promoteRequest _ _ _ _
    · split
      · exact .trans (.cancelMove _ _ _) (.modPte _ _ _ fun _ => ⟨rfl, rfl⟩)
      · exact .refl _

end placesStay

section Commit

variable {s : State} {t page : Nat} {m : Move} {e : Pte}

/-- Later changes leave the page where it has gone. -/
theorem place_kept {u v : State} {f : Pte} (h : pteOf u t page = some f) (hp : placesStay u v) :
    ∃ g, pteOf v t page = some g ∧ g.tier2 = f.tier2 ∧ g.frame = f.frame := by
  have hv := hp t page
  rw [placeOf, placeOf, h] at hv
  obtain ⟨g, hg, he⟩ := Option.map_eq_some_iff.1 hv
  obtain ⟨h1, h2⟩ := Prod.mk.inj he
  exact ⟨g, hg, h1, h2⟩

/-- The entry of a page whose promotion commits: a COMMON page keeps the charge of the claim that promoted it (R197, R203). -/
def promotedPte (t : Nat) (m : Move) (p : Pte) : Pte :=
  let only : BitVec 8 := 1#8 <<< m.charged.getD 0
  if t = 8 then { p with tier2 := false, frame := m.target, touchCur := p.touchCur &&& only, touchPrev := p.touchPrev &&& only }
  else { p with tier2 := false, frame := m.target }

theorem promotedPte_place (t : Nat) (m : Move) (p : Pte) :
    (promotedPte t m p).tier2 = false ∧ (promotedPte t m p).frame = m.target ∧ (promotedPte t m p).moving = p.moving := by
  unfold promotedPte
  dsimp only
  split <;> exact ⟨rfl, rfl, rfl⟩

/-- A page's bytes stand in its new frame, and its handle is free (R197). -/
def carriedUp (s : State) (t page : Nat) (m : Move) (e : Pte) : State :=
  let s1 := dropMove s t page
  let s2 := s1.setMem false (copyPage s1.tiers.t2 s1.tiers.t1 e.frame m.target)
  (s2.setMem true (memDrop s2.tiers.t2 (pageBase e.frame) 65536)).setHandle e.frame none

/-- A page's bytes stand in its new handle with the sectors that they take, and its frame is free (R197, R202). -/
def carriedDown (s : State) (t page : Nat) (m : Move) (e : Pte) : State :=
  let s1 := dropMove s t page
  let s2 := s1.setMem true (copyPage s1.tiers.t1 s1.tiers.t2 e.frame m.target)
  let s3 := (s2.setMem false (memDrop s2.tiers.t1 (pageBase e.frame) 65536)).setFrame e.frame none
  match alookup s3.tiers.handles m.target with
  | some o => s3.setHandle m.target (some { o with sectors := pageSectors s3.tiers.t2 m.target })
  | none => s3

theorem carriedUp_tables (s : State) (t page : Nat) (m : Move) (e : Pte) : (carriedUp s t page m e).tiers.tables = (dropMove s t page).tiers.tables := rfl

theorem carriedDown_tables (s : State) (t page : Nat) (m : Move) (e : Pte) : (carriedDown s t page m e).tiers.tables = (dropMove s t page).tiers.tables := by
  unfold carriedDown
  dsimp only
  split <;> rfl

/-- What follows a promotion whose entry has switched (R197, R203, R204). -/
def afterPromotion (t page : Nat) (m : Move) (v : State) : State :=
  let w := if t = 8 then commonSettle v page else v
  match m.charged with
  | some n => w.modTiers fun x => { x with promotions := tmod x.promotions n fun v => (v + 1) % 2 ^ 32 }
  | none => w

/-- What follows a demotion whose entry has switched (R195, R197, R201). -/
def afterDemotion (m : Move) (v : State) : State :=
  match m.charged with
  | some n =>
    let w := relieveT1 16 (v.modTiers fun x => { x with demotions := tmod x.demotions n fun v => (v + 1) % 2 ^ 32 }) n
    match m.waiter with
    | some p => serveWaiter w n p.1 p.2
    | none => w
  | none => v

theorem commitMove_up (hm : moveOf s t page = some m) (he : pteOf s t page = some e) (hp : m.promote = true) :
    commitMove s t page = afterPromotion t page m ((carriedUp s t page m e).modPte t page (promotedPte t m)) := by
  unfold commitMove
  simp only [hm, he, hp, if_true]
  rfl

theorem commitMove_down (hm : moveOf s t page = some m) (he : pteOf s t page = some e) (hp : m.promote = false) :
    commitMove s t page = afterDemotion m ((carriedDown s t page m e).modPte t page fun p => { p with tier2 := true, frame := m.target }) := by
  unfold commitMove
  simp only [hm, he, hp, Bool.false_eq_true, if_false]
  rfl

theorem afterPromotion_stays (t page : Nat) (m : Move) (v : State) : placesStay v (afterPromotion t page m v) := by
  have hw : placesStay v (if t = 8 then commonSettle v page else v) := by
    split
    · exact .commonSettle _ _
    · exact .refl _
  unfold afterPromotion
  dsimp only
  split
  · exact hw.trans (.of_tables rfl)
  · exact hw

/-- A claim's own page and its entry are not COMMON's to settle. -/
theorem afterPromotion_own {t : Nat} (ht : t ≠ 8) (page : Nat) (m : Move) (v : State) (p : Nat) : pteOf (afterPromotion t page m v) t p = pteOf v t p := by
  unfold afterPromotion
  rw [if_neg ht]
  split <;> rfl

theorem afterDemotion_stays (m : Move) (v : State) : placesStay v (afterDemotion m v) := by
  unfold afterDemotion
  split
  · rename_i n hn
    have hr : placesStay v (relieveT1 16 (v.modTiers fun x => { x with demotions := tmod x.demotions n fun v => (v + 1) % 2 ^ 32 }) n) :=
      .trans (.of_tables rfl) (.relieveT1 _ _ _)
    dsimp only
    split
    · exact hr.trans (.serveWaiter _ _ _ _)
    · exact hr
  · exact .refl _

theorem carried_pte (ht : t < 9) (he : pteOf s t page = some e) {u : State} (hu : u.tiers.tables = (dropMove s t page).tiers.tables) :
    pteOf u t page = some { e with moving := false } :=
  (pteOf_tables (congrArg PageTable.pages (congrArg (tget · t) hu)) page).trans (dropMove_pte s ht page he)

/-- Where a page lies once its move has committed (R197). -/
theorem commitMove_place (ht : t < 9) (hm : moveOf s t page = some m) (he : pteOf s t page = some e) :
    ∃ g, pteOf (commitMove s t page) t page = some g ∧ g.tier2 = !m.promote ∧ g.frame = m.target ∧
      (t ≠ 8 → m.promote = true ∨ m.charged = none → g.moving = false) := by
  cases hp : m.promote with
  | true =>
    have hpte := modPte_pte _ ht page (promotedPte t m) (carried_pte ht he (carriedUp_tables s t page m e))
    obtain ⟨h1, h2, h3⟩ := promotedPte_place t m { e with moving := false }
    obtain ⟨g, hg, h4, h5⟩ := place_kept hpte (afterPromotion_stays t page m _)
    rw [commitMove_up hm he hp]
    refine ⟨g, hg, h4.trans h1, h5.trans h2, fun h8 _ => ?_⟩
    rw [afterPromotion_own h8, hpte] at hg
    cases hg
    exact h3
  | false =>
    have hpte := modPte_pte _ ht page (fun p => { p with tier2 := true, frame := m.target }) (carried_pte ht he (carriedDown_tables s t page m e))
    obtain ⟨g, hg, h4, h5⟩ := place_kept hpte (afterDemotion_stays m _)
    rw [commitMove_down hm he hp]
    refine ⟨g, hg, h4, h5, fun _ hc => ?_⟩
    rw [afterDemotion, hc.resolve_left Bool.false_ne_true, hpte] at hg
    cases hg
    rfl

theorem moverReads_tiers (s : State) (t2 : Bool) (f : Nat) : (moverReads s t2 f).tiers = s.tiers :=
  (moverReads_moves s t2 f (Moves.refl 271432 s) rfl).rest .tiers rfl

theorem poisonWords_tiers (l : List Nat) (t2 : Bool) (f : Nat) (s : State) : (l.foldl (fun s k => poisonWord s t2 f k) s).tiers = s.tiers :=
  ((Moves.refl 8192 s).foldl fun u k => poisonWord_moves u t2 f k (Moves.refl 8192 u) rfl).rest .tiers rfl

theorem clearFrameMarks_tiers (s : State) (t2 : Bool) (f : Nat) : (clearFrameMarks s t2 f).tiers = s.tiers :=
  (clearFrameMarks_moves s t2 f (Moves.refl 8192 s) rfl).rest .tiers rfl

/-- The tiers after a commit that carries the page's losses are those of the commit (R337). -/
theorem commitCarry_tiers (hm : moveOf s t page = some m) (he : pteOf s t page = some e) :
    (commitCarry s t page).tiers = (commitMove (moverReads s m.promote e.frame) t page).tiers := by
  simp only [commitCarry, hm, he, poisonWords_tiers, clearFrameMarks_tiers]

/-- The same with what the mover carries. -/
theorem commitCarry_place (ht : t < 9) (hm : moveOf s t page = some m) (he : pteOf s t page = some e) :
    ∃ g, pteOf (commitCarry s t page) t page = some g ∧ g.tier2 = !m.promote ∧ g.frame = m.target ∧
      (t ≠ 8 → m.promote = true ∨ m.charged = none → g.moving = false) := by
  have hr := moverReads_tiers s m.promote e.frame
  have hpte : pteOf (commitCarry s t page) t page = pteOf (commitMove (moverReads s m.promote e.frame) t page) t page :=
    pteOf_tables (by rw [State.ptab, commitCarry_tiers hm he]; rfl) page
  rw [hpte]
  exact commitMove_place ht ((moveOf_congr hr _ _).trans hm) ((pteOf_tables (by rw [State.ptab, hr]; rfl) page).trans he)

end Commit

theorem moveCommit_idle {s : State} {t page : Nat} (h : moveOf s t page = none) : moveCommit s t page = settlePages s := by
  simp [moveCommit, h]

theorem moveCommit_commits {s : State} {t page : Nat} {m : Move} (h : moveOf s t page = some m) :
    moveCommit s t page = settlePages (commitCarry s t page) := by
  simp [moveCommit, h]

/-- A level-1 entry is valid where its level-2 table exists (R190, R212). -/
theorem l1Word_valid (pt : PageTable) (page : Nat) : bit (l1Word pt (page / 4096)) 0 = !needsL2 pt page := by
  unfold l1Word needsL2
  cases hf : pt.l2.find? fun e => e.1 == page / 4096 with
  | none =>
    rw [List.find?_eq_none] at hf
    rw [Bool.not_not, List.any_eq_false.2 hf]
    rfl
  | some x =>
    rw [Bool.not_not, List.any_eq_true.2 ⟨x, List.mem_of_find?_eq_some hf, by simpa using List.find?_some hf⟩]
    simp only [bit, Nat.testBit_zero, decide_eq_true_eq]
    omega

/-- The lookup reads a page's level-1 flag and its entry (R191, R212). -/
theorem tierLookup_reads (s : State) (va : Nat) {table : Nat} (h : table < 9) :
    (tierLookup s (va % 2 ^ 40 + 2 ^ 40 * (table % 16) + 2 ^ 63)).tiers = { s.tiers with
      lookupVa := va % 2 ^ 40, lookupTable := table, lookupDone := true
      lookupL1 := !needsL2 (s.ptab table) (va % 2 ^ 40 / 65536)
      lookupEntry := ((pteOf s table (va % 2 ^ 40 / 65536)).map pteWord).getD 0 } := by
  have hva : bits (va % 2 ^ 40 + 2 ^ 40 * (table % 16) + 2 ^ 63) 0 40 = va % 2 ^ 40 := by unfold bits; omega
  have htable : bits (va % 2 ^ 40 + 2 ^ 40 * (table % 16) + 2 ^ 63) 40 4 = table := by unfold bits; omega
  have h8 : table ≤ 8 := by omega
  simp only [tierLookup, hva, htable, h8, l1Word_valid, State.modTiers, decide_true, Bool.true_and, if_true]
  cases pteOf s table (va % 2 ^ 40 / 65536) <;> rfl

/-- A COMMON share may not be taken (R205): it rises over the claim's quota, or falls under what the pool uses. -/
def shareRefuses (s : State) (c v : Nat) : Prop :=
  let u := s.modTiers fun x => { x with shares := tset x.shares c (v % 65536) }
  (tget s.tiers.shares c < v % 65536 ∧ (s.claim c).t2Pages * 256 < t2Use u c) ∨ (v % 65536 < tget s.tiers.shares c ∧ poolCapacity u < poolUse s)

section Share

variable {s : State} {c v : Nat}

theorem writeShare_refused (h : shareRefuses s c v) : writeShare s c v = s.modTiers fun x => { x with shareRefused := true } := by
  have hb : bits v 0 16 = v % 65536 := by simp [bits]
  unfold writeShare
  rw [hb]
  exact if_pos (by simpa [shareRefuses] using h)

theorem writeShare_taken (h : ¬ shareRefuses s c v) : writeShare s c v = s.modTiers fun x => { x with shares := tset x.shares c (v % 65536) } := by
  have hb : bits v 0 16 = v % 65536 := by simp [bits]
  unfold writeShare
  rw [hb]
  exact if_neg (by simpa [shareRefuses] using h)

end Share

theorem modTiers_only (s : State) (f : Tiers → Tiers) : OnlyParts [.tiers] s (s.modTiers f) := by
  intro p hp
  cases p <;> first | exact absurd (by decide) hp | rfl

end Sys2Proof
end

section
/-! SUPPORT. PAGE, a move's commit, the lookup and COMMON's shares as the statement asks (R195 to R198, R205, R209, R212). -/

namespace Sys2Proof

open Machine

/-- Settles O37: MAP and UNMAP over a range, PROMOTE and DEMOTE by the pages they have moved, a commit by where its page goes, and the lookup
and the shares as register writes (R195 to R198, R205, R209, R212; log entry 51). -/
theorem claimPages : Obligations.ClaimPages := by
  intro s n seq l lv b
  refine ⟨fun h => ?_, fun h => ?_, fun h => ?_, fun h => ?_, fun hd t page ht => ⟨fun hm => ?_, fun m e hm he => ?_⟩,
    fun hr hw va table ht => ?_, fun c v hc hr hw => ?_⟩
  · exact ⟨_, (pageMap_runs n seq l s h.2.1.1).trans (congrArg _ (gate_starts h.2.1 (by simp [h.2.2]) _)), pageMap_spec h⟩
  · exact ⟨_, (pageUnmap_runs n seq l s h.2.1.1).trans (congrArg _ (gate_starts h.2.1 (by simp [h.2.2]) _)), pageUnmap_spec h⟩
  · exact ⟨_, (pagePromote_runs n seq l s h.2.1.1).trans (congrArg _ (gate_starts h.2.1 (by simp [h.2.2]) _)), pageMove_spec true rfl h⟩
  · exact ⟨_, (pageDemote_runs n seq l s h.2.1.1).trans (congrArg _ (gate_starts h.2.1 (by simp [h.2.2]) _)), pageMove_spec false rfl h⟩
  · rw [pageMoveCommit_runs t page s hd, moveCommit_idle hm]
  · obtain ⟨g, hg, hplace⟩ := commitCarry_place ht hm he
    exact ⟨commitCarry s t page, g, by rw [pageMoveCommit_runs t page s hd, moveCommit_commits hm], hg, hplace⟩
  · refine ⟨_, (tierLookup_runs va table s hw).trans (congrArg _ (viaWide_pos hr)), ?_, ?_⟩
    · rw [tierLookup_reads _ va ht, dropHold_tiers]
      rfl
    · exact ((modFn_only s _ _).sub rfl).trans ((modTiers_only _ _).sub rfl)
  · refine ⟨_, (tierCommonShareWrite_runs c v s hw).trans (congrArg _ (viaReg_pos hr)), ?_, fun h => ?_, fun h => ?_⟩
    · by_cases h : shareRefuses s c v
      · rw [writeShare_refused h]; exact modTiers_only _ _
      · rw [writeShare_taken h]; exact modTiers_only _ _
    · rw [writeShare_refused h]; rfl
    · rw [writeShare_taken h]

end Sys2Proof
end

section
/-! SUPPORT. An ADD to a tally leaves the round controllers their rounds, but for what their waits have met (R215, R222). -/

namespace Sys2Proof

open Machine

namespace ctrlStays

variable {k : Nat}

theorem foldl {α : Type} {f : State → α → State} (hf : ∀ u x, ctrlStays u (f u x) k) (l : List α) (s : State) : ctrlStays s (l.foldl f s) k := by
  induction l generalizing s with
  | nil => exact .refl s k
  | cons x l ih => exact (hf s x).trans (ih _)

/-- A change of what one controller's round waits for. -/
theorem modArmed (s : State) (c : Nat) {f : Armed → Armed}
    (hf : ∀ a, { f a with startWait := .idle, readyWait := .idle } = { a with startWait := .idle, readyWait := .idle }) : ctrlStays s (s.modArmed c f) k := by
  by_cases h : k < 16 ∧ k = c
  · obtain ⟨hk, rfl⟩ := h
    have hctrl : tget (s.modArmed k f).rounds.ctrls k = { tget s.rounds.ctrls k with armed := (s.armed k).map f } := tget_tmod_same _ _ hk
    have harmed : (s.modArmed k f).armed k = (s.armed k).map f := congrArg RoundCtl.armed hctrl
    refine ⟨by rw [hctrl, harmed], ?_⟩
    rw [harmed, Option.map_map]
    exact congrArg (fun g => (s.armed k).map g) (funext hf)
  · have hctrl : tget (s.modArmed c f).rounds.ctrls k = tget s.rounds.ctrls k := by
      by_cases hk : k < 16
      · exact tget_tmod_ne _ _ fun hc => h ⟨hk, hc.symm⟩
      · exact (tget_ge _ (Nat.not_lt.1 hk)).trans (tget_ge _ (Nat.not_lt.1 hk)).symm
    have harmed : (s.modArmed c f).armed k = s.armed k := congrArg RoundCtl.armed hctrl
    exact ⟨hctrl.trans (by rw [harmed]; rfl), by rw [harmed]⟩

theorem beginWaits (s : State) (c : Nat) : ctrlStays s (beginWaits s c) k := modArmed s c fun _ => rfl

theorem testTally (s : State) (n : Nat) : ctrlStays s (testTally s n) k := by
  have hwaits : ctrlStays s (s.modRoundsArmed (Armed.testWaits n (s.tally n).value.toNat)) k := .modRoundsArmed s (f := Armed.testWaits n _) (fun _ => rfl) k
  unfold Machine.testTally
  refine hwaits.trans ((foldl (fun u w => ?_) _ _).trans (foldl (fun u w => ?_) _ _))
  · split
    · exact .of_ctrls rfl k
    · exact .refl u k
  · dsimp only
    split
    · exact (Unwinds.endHostWait u _ _ _).2 k
    · exact .refl u k

theorem applyRelease (s : State) (j g : Nat) : ctrlStays s (applyRelease s j g) k := by
  unfold Machine.applyRelease
  split
  · exact .refl s k
  · rename_i t ht
    have htest : ctrlStays s (Machine.testTally ((s.setTrick j (some { t with gen := g + 1, arrived := false, arrivals := [] })).modTally t.releaseTally
        fun y => { y with value := BitVec.ofNat 32 g }) t.releaseTally) k := (of_ctrls rfl k).trans (testTally _ t.releaseTally)
    dsimp only
    split
    · exact htest.trans (beginWaits _ _)
    · exact htest

theorem collectArrival (s : State) (j : Nat) (o : Seat) : ctrlStays s (collectArrival s j o) k := by
  unfold Machine.collectArrival
  split
  · exact .refl s k
  · rename_i t _
    dsimp only
    generalize (if t.arrivals.contains o then t.arrivals else t.arrivals ++ [o]) = arr
    split
    · have hsent := foldl (fun u seat => (Unwinds.sendTrick u seat (trickMessage t 2 0 (ownSeat u))).2 k)
        ((distinctSeats t.seats).filter (· != ownSeat s)) s
      exact hsent.trans ((of_ctrls rfl k).trans (applyRelease _ j _))
    · exact .of_ctrls rfl k

theorem arriveFrom (n : Nat) (s : State) (j : Nat) : ctrlStays s (arriveFrom n s j) k := by
  induction n generalizing s with
  | zero => exact .refl s k
  | succ n ih =>
    unfold Machine.arriveFrom
    split
    · exact .refl s k
    · rename_i t ht
      have harrived : ctrlStays s (s.setTrick j (some { t with arrived := true })) k := .of_ctrls rfl k
      split
      · exact .refl s k
      · dsimp only
        split
        · exact harrived.trans ((collectArrival _ j _).trans (ih _))
        · exact harrived.trans ((Unwinds.sendTrick _ _ _).2 k)

theorem applyTally (s : State) (n : Nat) (v : Word32) : ctrlStays s (applyTally s n v) k := by
  have htest : ctrlStays s (Machine.testTally (s.modTally n fun t => { t with value := v }) n) k := (of_ctrls rfl k).trans (testTally _ n)
  unfold Machine.applyTally
  dsimp only
  split
  · split
    · exact htest.trans (arriveFrom _ _ _)
    · exact htest
  · exact htest

theorem agentAdd (s : State) (n v : Nat) : ctrlStays s (agentAdd s n v) k := by
  unfold Machine.agentAdd
  split
  · exact .refl s k
  · exact applyTally s n _

end ctrlStays

theorem agentAdd_ready {s : State} {n : Nat} (v : Nat) (hp : (s.tally n).poisoned = false) (hr : isRelease s n = false) :
    agentAdd s n v = applyTally s n ((s.tally n).value + BitVec.ofNat 32 v) := by
  simp [agentAdd, hp, hr]

/-! Answers to messages (R245, R247). -/

theorem sendReceipt_sent (s : State) (h : MsgHeader) (status cause : Nat) : receiptSent s (sendReceipt s h status cause) h status cause := by
  unfold receiptSent sendReceipt sendControl
  dsimp only
  refine ⟨fun hr => ?_, fun d hr => ?_, fun hr => ?_⟩
  · rw [hr]; rfl
  · rw [hr]; rfl
  · rw [hr]; rfl

theorem refuseMessage_refused (s : State) (h : MsgHeader) (status cause : Nat) : msgRefused s (refuseMessage s h status cause) h status cause :=
  sendReceipt_sent _ h status cause

theorem sendReceipt_tiers (s : State) (h : MsgHeader) (status cause : Nat) : (sendReceipt s h status cause).tiers = s.tiers :=
  (sendReceipt_moves s h status cause (Moves.refl 49152 s) rfl).rest .tiers rfl

theorem refuseMessage_tiers (s : State) (h : MsgHeader) (status cause : Nat) : (refuseMessage s h status cause).tiers = s.tiers :=
  sendReceipt_tiers _ h status cause

theorem deliver_delivered (s : State) (h : MsgHeader) : msgDelivered s (deliver s h) h := by
  unfold deliver
  refine ⟨fun hf => ?_, fun hf => ?_⟩
  · rw [if_pos hf]
    exact sendReceipt_sent s h 0 0
  · rw [if_neg hf]
    cases hn : resolveTally s h.claim h.tally with
    | none => exact ⟨s, sendReceipt_sent s h 0 0, rfl, ctrlStays.refl s, fun _ => rfl, fun n _ he => (nomatch he)⟩
    | some t =>
      refine ⟨agentAdd s t 1, sendReceipt_sent _ h 0 0, agentAdd_tiers s t 1, fun _ => .agentAdd s t 1, fun he => (nomatch he), fun n hn he hp hr => ?_⟩
      cases he
      rw [agentAdd_ready 1 hp hr]
      exact (applyTally_set _ hn hr).1

end Sys2Proof
end

section
/-! SUPPORT. Claim messages at their seat (R245 to R247): a hand, a put and a signal. -/

namespace Sys2Proof

open Machine

/-- An effect that leaves both tiers alone waits for no move (R197). -/
theorem afterMoves_now {k : State → State} {s : State} (h : (k s).tiers = s.tiers) : afterMoves k s = k s := by
  simp [afterMoves, no_move_commits h]

theorem afterMoves_id {k : State → State} {s : State} (h : k s = s) : afterMoves k s = s :=
  (afterMoves_now (congrArg State.tiers h)).trans h

theorem onMessage_here {s : State} {n : Nat} {b : List Byte} {h : MsgHeader} (hh : msgHere s n b h) (k : MsgHeader → State → State) :
    onMessage n b k s = k h s := by
  obtain ⟨-, rfl, hk, hd⟩ := hh
  exact if_pos ⟨hk, hd⟩

theorem onMessage_elsewhere {s : State} {n : Nat} {b : List Byte} (h : (MsgHeader.read b).kind ≠ n ∨ (MsgHeader.read b).dest ≠ ownSeat s)
    (k : MsgHeader → State → State) : onMessage n b k s = s :=
  if_neg fun hh => h.elim (· hh.1) (· hh.2)

section Commands

variable {s : State} {b data : List Byte} {ok : Bool} {h : MsgHeader}

theorem handReceived_now (hh : msgHere s 1 b h) (ht : (handReceived s h data ok).tiers = s.tiers) :
    exec (.handReceived b data ok) s = .next (handReceived s h data ok) := by
  have hk := onMessage_here hh fun h s => handReceived s h data ok
  rw [handReceived_runs _ _ _ _ hh.1, afterMoves_now (by rw [hk, ht]), hk]

theorem handReceived_later (hh : msgHere s 1 b h) {P : State → Prop} (hp : P (handReceived s h data ok)) : RunsAfterMoves (.handReceived b data ok) s P :=
  ⟨_, hp, by rw [handReceived_runs _ _ _ _ hh.1, afterMoves, onMessage_here hh]⟩

theorem putReceived_now (hh : msgHere s 2 b h) (ht : (putReceived s h data ok).tiers = s.tiers) :
    exec (.putReceived b data ok) s = .next (putReceived s h data ok) := by
  have hk := onMessage_here hh fun h s => putReceived s h data ok
  rw [putReceived_runs _ _ _ _ hh.1, afterMoves_now (by rw [hk, ht]), hk]

theorem putReceived_later (hh : msgHere s 2 b h) {P : State → Prop} (hp : P (putReceived s h data ok)) : RunsAfterMoves (.putReceived b data ok) s P :=
  ⟨_, hp, by rw [putReceived_runs _ _ _ _ hh.1, afterMoves, onMessage_here hh]⟩

theorem signalReceived_now (hh : msgHere s 3 b h) : exec (.signalReceived b) s = .next (signalReceived s h) := by
  rw [signalReceived_runs _ _ hh.1, onMessage_here hh]

/-- A message of another kind or for another seat changes nothing (R245). -/
theorem message_elsewhere {i : Instr} {k : Nat} (hi : (i, k) ∈ [(Instr.handReceived b data ok, 1), (.putReceived b data ok, 2), (.signalReceived b, 3),
    (.receiptReceived b, 4), (.abortReceived b, 5)]) (hd : diesUp s = true) (h : (MsgHeader.read b).kind ≠ k ∨ (MsgHeader.read b).dest ≠ ownSeat s) :
    exec i s = .next s := by
  simp only [List.mem_cons, List.not_mem_nil, or_false, Prod.mk.injEq] at hi
  rcases hi with ⟨rfl, rfl⟩ | ⟨rfl, rfl⟩ | ⟨rfl, rfl⟩ | ⟨rfl, rfl⟩ | ⟨rfl, rfl⟩
  · rw [handReceived_runs _ _ _ _ hd, afterMoves_id (onMessage_elsewhere h _)]
  · rw [putReceived_runs _ _ _ _ hd, afterMoves_id (onMessage_elsewhere h _)]
  · rw [signalReceived_runs _ _ hd, onMessage_elsewhere h]
  · rw [receiptReceived_runs _ _ hd, onMessage_elsewhere h]
  · rw [abortReceived_runs _ _ hd, onMessage_elsewhere h]

/-- A hand, a put or a signal that is only answered, in one way for all three, draws that answer (R245, R247). -/
theorem message_answered {i : Instr} {k : Nat} (hi : (i, k) ∈ [(Instr.handReceived b data ok, 1), (.putReceived b data ok, 2), (.signalReceived b, 3),
    (.receiptReceived b, 4), (.abortReceived b, 5)]) (hk : k < 4) (hh : msgHere s k b h) {t : State} (ht : t.tiers = s.tiers)
    (hand : k = 1 → handReceived s h data ok = t) (put : k = 2 → putReceived s h data ok = t) (sig : k = 3 → signalReceived s h = t) :
    exec i s = .next t := by
  simp only [List.mem_cons, List.not_mem_nil, or_false, Prod.mk.injEq] at hi
  rcases hi with ⟨rfl, rfl⟩ | ⟨rfl, rfl⟩ | ⟨rfl, rfl⟩ | ⟨rfl, rfl⟩ | ⟨rfl, rfl⟩
  · rw [handReceived_now hh (by rw [hand rfl, ht]), hand rfl]
  · rw [putReceived_now hh (by rw [put rfl, ht]), put rfl]
  · rw [signalReceived_now hh, sig rfl]
  · omega
  · omega

end Commands

/-! In a redeal, without a round, and for a live trick's release tally (R245, R247). -/

section Refusals

variable {s : State} {h : MsgHeader}

theorem answerRedealing_sends (hk : h.kind < 4) : answerRedealing s h = sendReceipt s h 2 0 := if_neg (by omega)

theorem handReceived_redealing (hr : s.redealing = true) (data : List Byte) (ok : Bool) : handReceived s h data ok = answerRedealing s h := if_pos hr

theorem putReceived_redealing (hr : s.redealing = true) (data : List Byte) (ok : Bool) : putReceived s h data ok = answerRedealing s h := if_pos hr

theorem signalReceived_redealing (hr : s.redealing = true) : signalReceived s h = answerRedealing s h := if_pos hr

theorem handReceived_unmatched (hr : s.redealing = false) (hm : messageRound s h = none) (data : List Byte) (ok : Bool) :
    handReceived s h data ok = refuseMessage s h 3 0 := by
  simp [handReceived, beginHand, hr, hm]

theorem putReceived_unmatched (hr : s.redealing = false) (hm : messageRound s h = none) (data : List Byte) (ok : Bool) :
    putReceived s h data ok = refuseMessage s h 3 0 := by
  simp [putReceived, beginPut, hr, hm]

theorem signalReceived_unmatched (hr : s.redealing = false) (hm : messageRound s h = none) : signalReceived s h = refuseMessage s h 3 0 := by
  simp [signalReceived, hr, hm]

theorem handReceived_release (hr : s.redealing = false) {r : Nat × Armed} (hm : messageRound s h = some r) (hn : namesRelease s h = true) (data : List Byte)
    (ok : Bool) : handReceived s h data ok = refuseMessage s h 5 0x0522 := by
  simp [handReceived, beginHand, hr, hm, hn]

theorem putReceived_release (hr : s.redealing = false) {r : Nat × Armed} (hm : messageRound s h = some r) (hn : namesRelease s h = true) (data : List Byte)
    (ok : Bool) : putReceived s h data ok = refuseMessage s h 5 0x0522 := by
  simp [putReceived, beginPut, hr, hm, hn]

theorem signalReceived_release (hr : s.redealing = false) {r : Nat × Armed} (hm : messageRound s h = some r) (hn : namesRelease s h = true) :
    signalReceived s h = refuseMessage s h 5 0x0522 := by
  simp [signalReceived, hr, hm, hn]

end Refusals

/-! A round's controller under a change of its own (R273). -/

theorem messageRound_congr {s t : State} (h : t.rounds.ctrls = s.rounds.ctrls) (m : MsgHeader) : messageRound t m = messageRound s m := by
  have ha : t.armed = s.armed := funext (armed_of_rounds h)
  simp only [messageRound, roundOf, ha]

theorem messageRound_armed {s : State} {h : MsgHeader} {c : Nat} {a : Armed} (hm : messageRound s h = some (c, a)) : s.armed c = some a := by
  unfold messageRound at hm
  split at hm
  · cases hm
  · split at hm
    · split at hm
      · obtain ⟨rfl, rfl⟩ := Prod.mk.inj (Option.some.inj hm)
        assumption
      · cases hm
    · cases hm

theorem modArmed_same {s : State} {c : Nat} {a : Armed} (hc : c < 16) (ha : s.armed c = some a) (f : Armed → Armed) :
    (s.modArmed c f).armed c = some (f a) :=
  (congrArg RoundCtl.armed (tget_tmod_same s.rounds.ctrls _ hc)).trans (congrArg (Option.map f) ha)

theorem modArmed_ne {s : State} {c d : Nat} (hd : d ≠ c) (f : Armed → Armed) : (s.modArmed c f).armed d = s.armed d :=
  congrArg RoundCtl.armed (tget_tmod_ne s.rounds.ctrls _ hd.symm)

theorem modArmed_at {s : State} {c : Nat} {a : Armed} (ha : s.armed c = some a) (f : Armed → Armed) : s.modArmed c f = s.modArmed c fun _ => f a := by
  have hc : (tget s.rounds.ctrls c).armed = some a := ha
  simp only [State.modArmed, State.modCtrl, State.modRounds, tmod, hc, Option.map_some]

/-- The round that a message names stays its round where only other fields of it change. -/
theorem messageRound_modArmed {s : State} {h : MsgHeader} {c : Nat} {a : Armed} (hc : c < 16) (hm : messageRound s h = some (c, a)) {f : Armed → Armed}
    (hf : (f a).claim = a.claim ∧ (f a).round = a.round ∧ (f a).tag = a.tag) : messageRound (s.modArmed c f) h = some (c, f a) := by
  have ha := messageRound_armed hm
  have hround : roundOf (s.modArmed c f) h.claim h.round = roundOf s h.claim h.round := by
    unfold roundOf
    refine congrArg (fun p => List.find? p (List.range 16)) (funext fun d => ?_)
    by_cases hd : d = c
    · subst hd
      simp only [modArmed_same hc ha, ha, hf.1, hf.2.1]
    · rw [modArmed_ne hd]
  unfold messageRound at hm ⊢
  rw [hround]
  cases hr : roundOf s h.claim h.round with
  | none => rw [hr] at hm; cases hm
  | some d =>
    rw [hr] at hm
    have hd : d = c := by
      dsimp only at hm
      split at hm
      · split at hm
        · exact (Prod.mk.inj (Option.some.inj hm)).1
        · cases hm
      · cases hm
    subst hd
    simp only [ha, modArmed_same hc ha, hf.2.2] at hm ⊢
    split at hm
    · rw [if_pos ‹_›]
    · cases hm

end Sys2Proof
end

section
/-! SUPPORT. A hand, a put and a signal for an armed round (R245, R246, R273). -/

namespace Sys2Proof

open Machine

section Hand

variable {s : State} {h : MsgHeader} {c : Nat} {a : Armed}

theorem expectedHand_none (hr : msgRound s h c a) (hn : expectedHand a h = none) (data : List Byte) (ok : Bool) :
    handReceived s h data ok = refuseMessage s h 3 0 := by
  obtain ⟨hred, hm, -, hrel⟩ := hr
  simp [handReceived, beginHand, hred, hm, hrel, hn]

/-- The controller's round once a hand that it expects has come: another one is accepted, or one sent again is no longer awaited (R246, R273). -/
def handTaken (a : Armed) (h : MsgHeader) (again : Bool) : Armed :=
  { a with accepted := if again then a.accepted else a.accepted + 1, resent := a.resent.filter fun x => x.1 != h.xfer }

/-- An expected hand goes to its slot and then closes, or faults (R245). -/
theorem handReceived_lands (hr : msgRound s h c a) {r : Nat} {again : Bool} (he : expectedHand a h = some (r, again)) (data : List Byte) (ok : Bool)
    {u : State} {x : ReadEnd Unit}
    (hw : writeClaim (s.modArmed c fun _ => handTaken a h again) a.claim (a.slotVa r) (padGranule (data.take h.length)) = (u, x)) :
    (∀ e, x = .error e → handReceived s h data ok = refuseMessage u h 5 e.1) ∧ (x = .ok () → handReceived s h data ok = closeHand u h r ok) := by
  obtain ⟨hred, hm, hc, hrel⟩ := hr
  have hmod := modArmed_at (messageRound_armed hm) fun a => handTaken a h again
  rw [← hmod] at hw
  unfold handTaken at hw
  refine ⟨fun e hx => ?_, fun hx => ?_⟩
  · subst hx
    simp [handReceived, beginHand, hred, hm, hrel, he, hw]
  · subst hx
    simp [handReceived, beginHand, hred, hm, hrel, he, hw]

theorem writeClaim_rounds (s : State) (n va : Nat) (bs : List Byte) : (writeClaim s n va bs).1.rounds = s.rounds :=
  (writeClaim_moves s n va bs true (Moves.refl 271816 s) rfl).rest .rounds rfl

/-- The round after the hand's bytes have been written is the one that took it. -/
theorem handTaken_round (hr : msgRound s h c a) (again : Bool) {u : State} (hu : u.rounds = (s.modArmed c fun _ => handTaken a h again).rounds) :
    messageRound u h = some (c, handTaken a h again) := by
  obtain ⟨-, hm, hc, -⟩ := hr
  rw [messageRound_congr (congrArg Rounds.ctrls hu)]
  exact messageRound_modArmed hc hm ⟨rfl, rfl, rfl⟩

theorem closeHand_bad {u : State} {x : Armed} (hm : messageRound u h = some (c, x)) (r : Nat) :
    closeHand u h r false = sendReceipt (u.modArmed c fun _ => { x with resent := (h.xfer, r) :: x.resent }) h 1 0 := by
  simp only [closeHand, hm, Bool.false_eq_true, if_false]
  rw [modArmed_at (messageRound_armed hm)]

theorem closeHand_good {u : State} {x : Armed} (hm : messageRound u h = some (c, x)) (r : Nat) :
    closeHand u h r true = deliver (u.modArmed c fun _ => { x with landed := x.landed ++ [{ number := r }] }) h := by
  simp only [closeHand, hm, if_true]
  rw [modArmed_at (messageRound_armed hm)]

end Hand

section Put

variable {s : State} {h : MsgHeader} {c : Nat} {a : Armed}

theorem putReceived_faults (hr : msgRound s h c a) {e : Nat × Nat} (he : rangeFault s a.claim h.target h.length = some e) (data : List Byte) (ok : Bool) :
    putReceived s h data ok = refuseMessage s h 5 e.1 := by
  obtain ⟨hred, hm, -, hrel⟩ := hr
  simp [putReceived, beginPut, hred, hm, hrel, he]

/-- A put with good data is written and then closes, or faults (R245). -/
theorem putReceived_good (hr : msgRound s h c a) (he : rangeFault s a.claim h.target h.length = none) (data : List Byte) {u : State} {x : ReadEnd Unit}
    (hw : writeClaim s a.claim h.target (data.take h.length) = (u, x)) :
    (∀ e, x = .error e → putReceived s h data true = refuseMessage u h 5 e.1) ∧ (x = .ok () → putReceived s h data true = closePut u h true) := by
  obtain ⟨hred, hm, -, hrel⟩ := hr
  refine ⟨fun e hx => ?_, fun hx => ?_⟩
  · subst hx
    simp [putReceived, beginPut, hred, hm, hrel, he, hw]
  · subst hx
    simp [putReceived, beginPut, hred, hm, hrel, he, hw]

/-- A put whose CRC fails leaves free bytes in its range, or faults (R245; log entry 1). -/
theorem putReceived_bad (hr : msgRound s h c a) (he : rangeFault s a.claim h.target h.length = none) (data : List Byte) {u : State} {x : ReadEnd Unit}
    (hw : writeClaim (freeBytes s h.length).1 a.claim h.target (freeBytes s h.length).2 = (u, x)) :
    (∀ e, x = .error e → putReceived s h data false = refuseMessage u h 5 e.1) ∧ (x = .ok () → putReceived s h data false = sendReceipt u h 1 0) := by
  obtain ⟨hred, hm, -, hrel⟩ := hr
  refine ⟨fun e hx => ?_, fun hx => ?_⟩
  · subst hx
    simp [putReceived, beginPut, closePut, hred, hm, hrel, he, hw]
  · subst hx
    simp [putReceived, beginPut, closePut, hred, hm, hrel, he, hw]

theorem closePut_good {u : State} (hm : messageRound u h = some (c, a)) :
    closePut u h true = if isResult a h then advanceRound ((deliver u h).modArmed c fun a => { a with resultIn := true }) c else deliver u h := by
  simp [closePut, hm]

theorem freeBytes_length (s : State) (n : Nat) : (freeBytes s n).2.length = n := by simp [freeBytes]

end Put

section Signal

variable {s : State} {h : MsgHeader} {c : Nat} {a : Armed}

theorem signalReceived_absent (hr : msgRound s h c a) (hn : resolveTally s h.claim (bits h.target 0 16) = none) :
    signalReceived s h = refuseMessage s h 3 0 := by
  obtain ⟨hred, hm, -, hrel⟩ := hr
  simp [signalReceived, hred, hm, hrel, hn]

theorem signalReceived_poisoned (hr : msgRound s h c a) {n : Nat} (hn : resolveTally s h.claim (bits h.target 0 16) = some n)
    (hp : (s.tally n).poisoned = true) : signalReceived s h = refuseMessage s h 5 (s.tally n).cause := by
  obtain ⟨hred, hm, -, hrel⟩ := hr
  simp [signalReceived, hred, hm, hrel, hn, hp]

theorem signalReceived_adds (hr : msgRound s h c a) {n : Nat} (hn : resolveTally s h.claim (bits h.target 0 16) = some n)
    (hp : (s.tally n).poisoned = false) : signalReceived s h = deliver (agentAdd s n (bits h.target 32 32)) h := by
  obtain ⟨hred, hm, -, hrel⟩ := hr
  simp [signalReceived, hred, hm, hrel, hn, hp]

/-- A signal's tally is no live trick's release tally where its message names none (R223). -/
theorem signal_release (hk : h.kind = 3) (hrel : namesRelease s h = false) {n : Nat} (hn : resolveTally s h.claim (bits h.target 0 16) = some n) :
    isRelease s n = false := by
  simp only [namesRelease, hk, hn, Bool.or_eq_false_iff, decide_true, Bool.true_and] at hrel
  exact hrel.2

end Signal

end Sys2Proof
end

section
/-! SUPPORT. Receipts, aborts and messages for other seats (R246, R247, R264, R265). -/

namespace Sys2Proof

open Machine

section Receipt

variable {s : State} {h : MsgHeader} {x : Xfer}

/-- The transfer that a receipt names. -/
def receiptFor (s : State) (h : MsgHeader) (x : Xfer) : Prop :=
  (s.link.xfers.find? fun x => x.id == h.xfer && decide (x.dest = h.src)) = some x

theorem receipt_late (hn : ∀ x ∈ s.link.xfers, ¬ (x.id = h.xfer ∧ x.dest = h.src)) :
    receiptReceived s h = s.modLink fun l => { l with late := satInc 32 l.late } := by
  have hf : (s.link.xfers.find? fun x => x.id == h.xfer && decide (x.dest = h.src)) = none :=
    List.find?_eq_none.2 fun x hx => by simpa using hn x hx
  simp only [receiptReceived, hf]

theorem receipt_delivers (hx : receiptFor s h x) (h0 : h.status = 0) (hk : x.kind = .signal ∨ x.kind = .result ∨ s.armed x.ctrl = none) :
    receiptReceived s h = dropXfer s x.id := by
  unfold receiptFor at hx
  simp only [receiptReceived, hx, h0]
  cases hc : x.kind with
  | hand k =>
    have ha : s.armed x.ctrl = none := by simpa [hc] using hk
    simp [handDelivered, show (dropXfer s x.id).armed x.ctrl = none from ha]
  | signal => rfl
  | result => rfl

/-- The transfers once a message is to be sent again: its first CRC status is counted (R246). -/
def sendAgain (x : Xfer) (l : Link) : Link :=
  { l with xfers := l.xfers.map fun z => if z.id = x.id then { x with crcFails := 1, awaiting := false } else z }

/-- A first CRC status sends the message again (R246). -/
theorem receipt_again (hx : receiptFor s h x) (h1 : h.status = 1) (hc : x.crcFails = 0) {d : Nat} (hd : routeFrom s x.dest = .dir d) :
    receiptReceived s h = enqueue (s.modLink (sendAgain x)) d
      { vc := kindVc (MsgHeader.read x.header).kind, dest := x.dest, xfer := some x.id, header := some x.header, data := x.data } := by
  have hroute : routeFrom (s.modLink (sendAgain x)) x.dest = .dir d := hd
  have hagain : receiptReceived s h = routeXfer (s.modLink (sendAgain x)) { x with crcFails := 1, awaiting := false } := by
    unfold receiptFor at hx
    simp only [receiptReceived, hx, h1, hc, if_true]
    rfl
  rw [hagain]
  simp only [routeXfer, hroute]

/-- The cause with which a receipt's status fails a transfer (R246, Table 12.8). -/
def receiptCause (x : Xfer) (h : MsgHeader) (cause : Nat) : Prop :=
  (h.status = 1 ∧ x.crcFails ≠ 0 ∧ cause = 0x0512) ∨ (h.status = 2 ∧ cause = 0x0513) ∨ (h.status = 3 ∧ cause = 0x0515) ∨
    (h.status = 4 ∧ cause = 0x0514) ∨ (5 ≤ h.status ∧ cause = h.cause)

theorem receipt_fails (hx : receiptFor s h x) {cause : Nat} (hc : receiptCause x h cause) : receiptReceived s h = failXfer s x.id cause := by
  unfold receiptFor at hx
  simp only [receiptReceived, hx]
  rcases hc with ⟨hs, hn, rfl⟩ | ⟨hs, rfl⟩ | ⟨hs, rfl⟩ | ⟨hs, rfl⟩ | ⟨hs, rfl⟩
  · simp only [hs, if_neg hn]
  · simp only [hs]
  · simp only [hs]
  · simp only [hs]
  · obtain ⟨m, hm⟩ := Nat.exists_eq_add_of_le' hs
    rw [hm]
    rfl

/-- A transfer that fails fails its controller's round (R246, R278). -/
theorem failXfer_fails {id : Nat} (hf : s.link.xfers.find? (·.id == id) = some x) (ha : (s.armed x.ctrl).isSome = true) (hc : x.ctrl < 16) (cause : Nat) :
    roundFails s (failXfer s id cause) x.ctrl cause x.dest := by
  obtain ⟨a, ha⟩ := Option.isSome_iff_exists.1 ha
  simp only [failXfer, hf]
  exact failRound_fails (s := dropXfer s id) hc ha cause x.dest

theorem find_id {l : List Xfer} {p : Xfer → Bool} (hx : l.find? p = some x) (huniq : ∀ y ∈ l, y.id = x.id → y = x) : l.find? (·.id == x.id) = some x := by
  cases hf : l.find? (·.id == x.id) with
  | none =>
    have hno := List.find?_eq_none.1 hf x (List.mem_of_find?_eq_some hx)
    exact absurd (beq_self_eq_true x.id) hno
  | some y => rw [huniq y (List.mem_of_find?_eq_some hf) (by simpa using List.find?_some hf)]

end Receipt

/-! ABORT (R247): the flits of the dropped messages leave their ports' buffers. -/

section Abort

theorem owe_port (s : State) (q : Nat × Flit) {p : Nat} (hp : p < 12) :
    (owe s q.1 q.2).port p = { s.port p with owed := (s.port p).owed ++ if q.1 = p then [(q.2.vc, q.2.dclass, 1)] else [] } := by
  unfold State.port owe State.modPort State.modLink
  by_cases h : q.1 = p
  · rw [h, tget_tmod_same _ _ hp, if_pos rfl]
  · rw [tget_tmod_ne _ _ h, if_neg h, List.append_nil]

theorem oweAll_port (fs : List (Nat × Flit)) (s : State) {p : Nat} (hp : p < 12) : (oweAll s fs).port p =
    { s.port p with owed := (s.port p).owed ++ (fs.filter fun q => q.1 == p).map fun q => (q.2.vc, q.2.dclass, 1) } := by
  induction fs generalizing s with
  | nil => simp [oweAll]
  | cons q fs ih =>
    have hcons : oweAll s (q :: fs) = oweAll (owe s q.1 q.2) fs := rfl
    rw [hcons, ih, owe_port s q hp]
    by_cases h : q.1 = p
    · simp [h, List.append_assoc]
    · simp [h]

theorem oweAll_link (fs : List (Nat × Flit)) (s : State) : (oweAll s fs).link = { s.link with ports := (oweAll s fs).link.ports } := by
  induction fs generalizing s with
  | nil => rfl
  | cons q fs ih => exact ih _

theorem oweAll_only (s : State) (fs : List (Nat × Flit)) : OnlyParts [.link] s (oweAll s fs) :=
  (oweAll_moves s fs (Moves.refl 16384 s) rfl).only (covers_spec rfl)

theorem enqueue_only (s : State) (d : Nat) (m : OutMsg) : OnlyParts [.link] s (enqueue s d m) :=
  (enqueue_moves s d m (Moves.refl 16384 s) rfl).only (covers_spec rfl)

theorem modLink_only (s : State) (f : Link → Link) : OnlyParts [.link] s (s.modLink f) :=
  (State.modLink_moves s f (Moves.refl 16384 s) rfl).only (covers_spec rfl)

theorem concerns_iff (m : InMsg) (h : MsgHeader) : m.concerns h = decide (m.header ≠ [] ∧ (MsgHeader.read m.header).dest = h.dest ∧
    (MsgHeader.read m.header).src = h.src ∧ (MsgHeader.read m.header).xfer = h.xfer) := by
  rw [Bool.eq_iff_iff]
  simp [InMsg.concerns, and_assoc]

/-- What a header does not concern is what stays out of the list of those that it does. -/
theorem filter_rest {α : Type} [DecidableEq α] (l : List α) (p : α → Bool) : (l.filter fun m => !p m) = l.filter fun m => !(l.filter p).contains m :=
  List.filter_congr fun m hm => by simp [hm]

end Abort

/-! Forwarding (R264, R265). -/

section Forward

variable {s : State} {dir cls d : Nat} {dest : Seat} {data b trailer : List Byte}

theorem forwardTrick_goes (h : routeOn s dir dest = .dir d) : forwardTrick s dir cls dest data =
    { s with
      link := queued s d { vc := 2, dclass := nextClass s dir d cls, own := false, dest := dest, data := data }
      rounds := { s.rounds with forwarded := satInc 32 s.rounds.forwarded } } := by
  simp only [forwardTrick, h]
  rfl

theorem forwardTrick_stops (h : ∀ d, routeOn s dir dest ≠ .dir d) : forwardTrick s dir cls dest data = countNoRoute s := by
  unfold forwardTrick
  split
  · rename_i d hd
    exact absurd hd (h d)
  · rfl

theorem forwardMessage_goes (h : routeOn s dir (MsgHeader.read b).dest = .dir d) : forwardMessage s dir cls b data trailer =
    { s with
      link := queued s d { vc := kindVc (MsgHeader.read b).kind, dclass := nextClass s dir d cls, own := false, dest := (MsgHeader.read b).dest
                           header := some b, data := data, trailer := if data.isEmpty then none else some trailer }
      rounds := { s.rounds with forwarded := satInc 32 s.rounds.forwarded } } := by
  simp only [forwardMessage, h]
  rfl

theorem forwardMessage_stops (h : ∀ d, routeOn s dir (MsgHeader.read b).dest ≠ .dir d) : forwardMessage s dir cls b data trailer = noWay s b := by
  unfold forwardMessage
  dsimp only
  split
  · rename_i d hd
    exact absurd hd (h d)
  · rfl

theorem noWay_counts (h : 4 ≤ (MsgHeader.read b).kind ∨ b = []) : noWay s b = countNoRoute s := if_pos (by simpa [or_comm] using h)

theorem noWay_answers (hk : (MsgHeader.read b).kind < 4) (hb : b ≠ []) : noWay s b = sendReceipt (countNoRoute s) (MsgHeader.read b) 5 0x0506 :=
  if_neg fun hc => hc.elim (fun he => hb (List.isEmpty_iff.1 he)) (Nat.not_le_of_lt hk)

end Forward

end Sys2Proof
end

section
/-! SUPPORT. Messages between seats as the statement asks (R197, R241, R245 to R247, R264, R265). -/

namespace Sys2Proof

open Machine

section Clauses

variable {s : State} {b data : List Byte} {ok : Bool} {h : MsgHeader} {c : Nat} {a : Armed}

theorem hand_spec (hh : msgHere s 1 b h) (hr : msgRound s h c a) :
    (expectedHand a h = none → Runs (.handReceived b data ok) s fun t => msgRefused s t h 3 0) ∧
      ∀ r again, expectedHand a h = some (r, again) →
        let taken := handTaken a h again
        let w := writeClaim (s.modArmed c fun _ => taken) a.claim (a.slotVa r) (padGranule (data.take h.length))
        (∀ e, w.2 = .error e → RunsAfterMoves (.handReceived b data ok) s fun t => msgRefused w.1 t h 5 e.1) ∧
        (w.2 = .ok () → RunsAfterMoves (.handReceived b data ok) s fun t =>
          (ok = false → receiptSent (w.1.modArmed c fun _ => { taken with resent := (h.xfer, r) :: taken.resent }) t h 1 0) ∧
          (ok = true → msgDelivered (w.1.modArmed c fun _ => { taken with landed := taken.landed ++ [{ number := r }] }) t h)) := by
  refine ⟨fun hn => ?_, fun r again he => ?_⟩
  · have hk := expectedHand_none hr hn data ok
    exact ⟨_, handReceived_now hh (by rw [hk, refuseMessage_tiers]), hk ▸ refuseMessage_refused s h 3 0⟩
  · dsimp only
    obtain ⟨hfault, hland⟩ := handReceived_lands hr he data ok Prod.mk.eta.symm
    refine ⟨fun e hx => handReceived_later hh ?_, fun hx => handReceived_later hh ?_⟩
    · rw [hfault e hx]
      exact refuseMessage_refused _ h 5 e.1
    · have hm := handTaken_round hr again (writeClaim_rounds (s.modArmed c fun _ => handTaken a h again) a.claim (a.slotVa r) (padGranule (data.take h.length)))
      rw [hland hx]
      refine ⟨fun hok => ?_, fun hok => ?_⟩
      · rw [hok, closeHand_bad hm]
        exact sendReceipt_sent _ h 1 0
      · rw [hok, closeHand_good hm]
        exact deliver_delivered _ h

theorem put_spec (hh : msgHere s 2 b h) (hr : msgRound s h c a) :
    (∀ e, rangeFault s a.claim h.target h.length = some e → Runs (.putReceived b data ok) s fun t => msgRefused s t h 5 e.1) ∧
    (rangeFault s a.claim h.target h.length = none →
      (ok = true → let w := writeClaim s a.claim h.target (data.take h.length)
        (∀ e, w.2 = .error e → RunsAfterMoves (.putReceived b data ok) s fun t => msgRefused w.1 t h 5 e.1) ∧
        (w.2 = .ok () → RunsAfterMoves (.putReceived b data ok) s fun t => ∃ u, msgDelivered w.1 u h ∧
          t = if isResult a h then advanceRound (u.modArmed c fun a => { a with resultIn := true }) c else u)) ∧
      (ok = false → RunsAfterMoves (.putReceived b data ok) s fun t => ∃ bytes : List Byte, bytes.length = h.length ∧
        let w := writeClaim { s with freeCtr := s.freeCtr + h.length } a.claim h.target bytes
        (∀ e, w.2 = .error e → msgRefused w.1 t h 5 e.1) ∧ (w.2 = .ok () → receiptSent w.1 t h 1 0))) := by
  refine ⟨fun e he => ?_, fun he => ⟨?_, ?_⟩⟩
  · have hk := putReceived_faults hr he data ok
    exact ⟨_, putReceived_now hh (by rw [hk, refuseMessage_tiers]), hk ▸ refuseMessage_refused s h 5 e.1⟩
  · rintro rfl
    dsimp only
    obtain ⟨hfault, hland⟩ := putReceived_good hr he data Prod.mk.eta.symm
    refine ⟨fun e hx => putReceived_later hh ?_, fun hx => putReceived_later hh ?_⟩
    · rw [hfault e hx]
      exact refuseMessage_refused _ h 5 e.1
    · have hm := (messageRound_congr (congrArg Rounds.ctrls (writeClaim_rounds s a.claim h.target (data.take h.length))) h).trans hr.2.1
      exact ⟨_, deliver_delivered _ h, by rw [hland hx, closePut_good hm]⟩
  · rintro rfl
    obtain ⟨hfault, hland⟩ := putReceived_bad hr he data Prod.mk.eta.symm
    refine putReceived_later hh ⟨_, freeBytes_length s h.length, fun e hx => ?_, fun hx => ?_⟩
    · rw [hfault e hx]
      exact refuseMessage_refused _ h 5 e.1
    · rw [hland hx]
      exact sendReceipt_sent _ h 1 0

theorem signal_spec (hh : msgHere s 3 b h) (hr : msgRound s h c a) :
    (resolveTally s h.claim (bits h.target 0 16) = none → Runs (.signalReceived b) s fun t => msgRefused s t h 3 0) ∧
    ∀ n, n < 1024 → resolveTally s h.claim (bits h.target 0 16) = some n →
      ((s.tally n).poisoned = true → Runs (.signalReceived b) s fun t => msgRefused s t h 5 (s.tally n).cause) ∧
      ((s.tally n).poisoned = false → Runs (.signalReceived b) s fun t =>
        ∃ u, tallySet s u n ((s.tally n).value + BitVec.ofNat 32 (bits h.target 32 32)) ∧ msgDelivered u t h) := by
  refine ⟨fun hn => ⟨_, signalReceived_now hh, ?_⟩, fun n hlt hn => ⟨fun hp => ⟨_, signalReceived_now hh, ?_⟩, fun hp => ⟨_, signalReceived_now hh, ?_⟩⟩⟩
  · rw [signalReceived_absent hr hn]
    exact refuseMessage_refused s h 3 0
  · rw [signalReceived_poisoned hr hn hp]
    exact refuseMessage_refused s h 5 _
  · have hrel := signal_release hh.2.2.1 hr.2.2.2 hn
    rw [signalReceived_adds hr hn hp, agentAdd_ready _ hp hrel]
    exact ⟨_, (applyTally_set _ hlt hrel).1, deliver_delivered _ h⟩

theorem receipt_spec (hh : msgHere s 4 b h) :
    ((∀ x ∈ s.link.xfers, ¬ (x.id = h.xfer ∧ x.dest = h.src)) → Runs (.receiptReceived b) s fun t =>
      OnlyParts [.link] s t ∧ t.link = { s.link with late := satInc 32 s.link.late }) ∧
    ∀ x, receiptFor s h x →
      (h.status = 0 → x.kind = .signal ∨ x.kind = .result ∨ s.armed x.ctrl = none → Runs (.receiptReceived b) s fun t =>
        OnlyParts [.link] s t ∧ t.link = { s.link with xfers := s.link.xfers.filter fun y => y.id != x.id }) ∧
      (h.status = 1 → x.crcFails = 0 → ∀ d, routeFrom s x.dest = .dir d → Runs (.receiptReceived b) s fun t => OnlyParts [.link] s t ∧
        t.link = { queued s d { vc := kindVc (MsgHeader.read x.header).kind, dest := x.dest, xfer := some x.id, header := some x.header, data := x.data } with
          xfers := s.link.xfers.map fun z => if z.id = x.id then { x with crcFails := 1, awaiting := false } else z }) ∧
      ((s.armed x.ctrl).isSome = true → x.ctrl < 16 → (∀ y ∈ s.link.xfers, y.id = x.id → y = x) → ∀ cause,
        receiptCause x h cause → Runs (.receiptReceived b) s fun t => roundFails s t x.ctrl cause x.dest) := by
  have hrun : exec (.receiptReceived b) s = .next (receiptReceived s h) := by rw [receiptReceived_runs _ _ hh.1, onMessage_here hh]
  refine ⟨fun hn => ⟨_, hrun, ?_⟩, fun x hx => ⟨fun h0 hk => ⟨_, hrun, ?_⟩, fun h1 hc d hd => ⟨_, hrun, ?_⟩, fun ha hc hu cause hcause => ⟨_, hrun, ?_⟩⟩⟩
  · rw [receipt_late hn]
    exact ⟨modLink_only s _, rfl⟩
  · rw [receipt_delivers hx h0 hk]
    exact ⟨modLink_only s _, rfl⟩
  · rw [receipt_again hx h1 hc hd]
    exact ⟨(modLink_only s _).trans (enqueue_only _ _ _), rfl⟩
  · rw [receipt_fails hx hcause]
    exact failXfer_fails (find_id hx hu) ha hc cause

theorem abort_spec (hh : msgHere s 5 b h) :
    let gone := s.link.inbox.filter fun m => decide (m.header ≠ [] ∧ (MsgHeader.read m.header).dest = h.dest ∧
        (MsgHeader.read m.header).src = h.src ∧ (MsgHeader.read m.header).xfer = h.xfer)
    Runs (.abortReceived b) s fun t => ∃ u, OnlyParts [.link] s u ∧
      u.link = { s.link with ports := u.link.ports, inbox := s.link.inbox.filter fun m => !gone.contains m } ∧
      (∀ p, p < 12 → u.port p = { s.port p with
        owed := (s.port p).owed ++ ((gone.flatMap (·.early)).filter fun q => q.1 == p).map fun q => (q.2.vc, q.2.dclass, 1) }) ∧
      receiptSent u t h (if s.redealing then 2 else 4) 0 := by
  have hrun : exec (.abortReceived b) s = .next (abortReceived s h) := by rw [abortReceived_runs _ _ hh.1, onMessage_here hh]
  have hgone : (fun m : InMsg => m.concerns h) = _ := funext fun m => concerns_iff m h
  dsimp only
  rw [← hgone, ← filter_rest]
  have hlink := oweAll_link ((s.link.inbox.filter (·.concerns h)).flatMap (·.early)) (s.modLink fun l => { l with inbox := l.inbox.filter fun m => !m.concerns h })
  exact ⟨_, hrun, _, (modLink_only s _).trans (oweAll_only _ _), hlink, fun p hp => oweAll_port _ _ hp, sendReceipt_sent _ h _ 0⟩

end Clauses

theorem receiptTimeout_idle {s : State} {id : Nat} (hn : ∀ x ∈ s.link.xfers, ¬ (x.id = id ∧ x.awaiting = true)) : receiptTimeout s id = s := by
  unfold receiptTimeout
  split
  · rename_i x hx
    have hid : x.id = id := by simpa using List.find?_some hx
    rw [if_neg fun hw => hn x (List.mem_of_find?_eq_some hx) ⟨hid, hw⟩]
  · rfl

theorem receiptTimeout_fails {s : State} {id : Nat} {x : Xfer} (hx : s.link.xfers.find? (·.id == id) = some x) (hw : x.awaiting = true) :
    receiptTimeout s id = failXfer s id 0x0516 := by
  simp only [receiptTimeout, hx, hw, if_true]

section Forward

variable {s : State} (hd : diesUp s = true) (p cls : Nat) (dest : Seat) (b data trailer : List Byte)
include hd

theorem forward_trick (hup : (s.port p).st = .up) (hgoal : dest ≠ ownSeat s) :
    exec (.messageForward p cls true dest b data trailer) s = .next (forwardTrick s (s.port p).dir cls dest data) := by
  rw [messageForward_runs _ _ _ _ _ _ _ _ hd]
  simp [hup, hgoal]

theorem forward_message (hup : (s.port p).st = .up) (hgoal : (MsgHeader.read b).dest ≠ ownSeat s) :
    exec (.messageForward p cls false dest b data trailer) s = .next (forwardMessage s (s.port p).dir cls b data trailer) := by
  rw [messageForward_runs _ _ _ _ _ _ _ _ hd]
  simp [hup, hgoal]

theorem forward_idle (trick : Bool) (h : (s.port p).st ≠ .up ∨ (if trick then dest else (MsgHeader.read b).dest) = ownSeat s) :
    exec (.messageForward p cls trick dest b data trailer) s = .next s := by
  rw [messageForward_runs _ _ _ _ _ _ _ _ hd]
  dsimp only
  by_cases hup : (s.port p).st = .up
  · have hgoal := h.resolve_left (not_not.2 hup)
    cases trick with
    | true => simp_all
    | false => simp_all
  · rw [if_pos hup]

end Forward

/-- Settles O54: each kind of message by the checks before its data, its write and its answer, receipts by their status, and forwarding by the
route that is left (R197, R241, R245 to R247, R264, R265; log entries 1, 56 and 70). -/
theorem linkMessages : Obligations.LinkMessages := by
  refine ⟨fun s b data ok hd => ⟨fun i k hi => ⟨message_elsewhere hi hd, fun hh hk => ⟨fun hred => ?_, fun hred hm => ?_, fun hred hm hrel => ?_⟩⟩,
    fun c a hh hr => hand_spec hh hr, fun c a hh hr => put_spec hh hr, fun c a hh hr => signal_spec hh hr, receipt_spec, abort_spec⟩,
    fun s id hd => ⟨fun hn => ?_, fun x hx hw ha hc => ⟨_, receiptTimeout_runs id s hd, ?_⟩⟩, fun s p cls trick dest b data trailer hd => ?_⟩
  · have hkind : (MsgHeader.read b).kind < 4 := hh.2.2.1 ▸ hk
    have hsent := answerRedealing_sends (s := s) hkind
    exact ⟨_, message_answered hi hk hh (sendReceipt_tiers s _ 2 0) (fun _ => (handReceived_redealing hred data ok).trans hsent)
      (fun _ => (putReceived_redealing hred data ok).trans hsent) fun _ => (signalReceived_redealing hred).trans hsent, sendReceipt_sent s _ 2 0⟩
  · exact ⟨_, message_answered hi hk hh (refuseMessage_tiers s _ 3 0) (fun _ => handReceived_unmatched hred hm data ok)
      (fun _ => putReceived_unmatched hred hm data ok) fun _ => signalReceived_unmatched hred hm, refuseMessage_refused s _ 3 0⟩
  · obtain ⟨r, hm⟩ := Option.ne_none_iff_exists'.1 hm
    exact ⟨_, message_answered hi hk hh (refuseMessage_tiers s _ 5 0x0522) (fun _ => handReceived_release hred hm hrel data ok)
      (fun _ => putReceived_release hred hm hrel data ok) fun _ => signalReceived_release hred hm hrel, refuseMessage_refused s _ 5 0x0522⟩
  · rw [receiptTimeout_runs id s hd, receiptTimeout_idle hn]
  · rw [receiptTimeout_fails hx hw]
    exact failXfer_fails hx ha hc 0x0516
  · refine ⟨forward_idle hd p cls dest b data trailer trick, fun hup hgoal => ?_⟩
    cases trick with
    | true =>
      rw [forward_trick hd p cls dest b data trailer hup hgoal]
      exact ⟨fun d hr => congrArg _ (forwardTrick_goes (dest := dest) hr),
        fun hr => ⟨fun _ => congrArg _ (forwardTrick_stops (dest := dest) hr), fun hf => absurd hf (by decide)⟩⟩
    | false =>
      have hrun := forward_message hd p cls dest b data trailer hup hgoal
      refine ⟨fun d hr => by rw [hrun, forwardMessage_goes hr]; rfl, fun hr => ⟨fun hc => ?_, fun _ hk hb => ⟨_, hrun, ?_⟩⟩⟩
      · rw [hrun, forwardMessage_stops hr, noWay_counts (hc.resolve_left (by decide))]
        rfl
      · rw [forwardMessage_stops hr, noWay_answers hk hb]
        exact sendReceipt_sent _ _ 5 0x0506

end Sys2Proof
end

section
/-! SUPPORT. Searches and merges: their descriptors, reads and writes (R309, R315, R318, R326). -/

namespace Sys2Proof

open Machine

/-! What the engine's reads and writes leave unchanged. -/

theorem writeResults_quiet (n k shift : Nat) (r : List Byte) (rows : List (List (List Byte))) : Quiet (writeResults n k shift r rows) := by
  unfold writeResults
  refine .ite (writeClaim_quiet n _ _) ((Quiet.runEach (fun x => .ite ?_ (writeClaim_quiet n _ _)) _).andThen fun _ => .pure _)
  exact (Quiet.runEach (fun y => writeClaim_quiet n _ _) _).andThen fun _ => .pure _

theorem runQuery_quiet (q : Search) (i : Nat) : Quiet (runQuery q i) :=
  .of_dl fun s => (runQuery_moves q i s (Moves.refl 271688 s) rfl).rest .dl rfl

theorem runSearch_quiet (q : Search) : Quiet (runSearch q) := by
  intro s
  unfold runSearch
  split
  · exact .refl s
  · exact ((Quiet.runEach (runQuery_quiet q) _).andThen fun _ => (writeResults_quiet _ _ _ _ _).andThen fun _ => .pure _) s

theorem readAssayDescs_items (n : Nat) (b : List Byte) (s : State) : (readAssayDescs n b s).1.dl.items = s.dl.items :=
  congrArg Dealer.items ((readAssayDescs_moves n b s (Moves.refl 271688 s) rfl).rest .dl rfl)

theorem readAssayDescs_asy (n : Nat) (b : List Byte) (s : State) : (readAssayDescs n b s).1.asy = s.asy :=
  (readAssayDescs_moves n b s (Moves.refl 271688 s) rfl).rest .asy rfl

theorem readAssayDescs_now (n : Nat) (b : List Byte) (s : State) : (readAssayDescs n b s).1.now = s.now :=
  (readAssayDescs_moves n b s (Moves.refl 271688 s) rfl).rest .now rfl

theorem failAt_asy (s : State) (shoe seq l g cause d : Nat) : (failAt s shoe seq l g cause d).asy = s.asy :=
  failAt_only s shoe seq l g cause d .asy (by decide)

/-- A note on results that fell short stands beside the item's levels (R318). -/
theorem noteShort_item (s : State) (n seq k : Nat) (rows : List (List (List Byte))) :
    othersStay s (noteShort s n seq k rows) n seq ∧ (∀ l, levelOf (noteShort s n seq k rows) n seq l = levelOf s n seq l) ∧
      OnlyParts [.dl] s (noteShort s n seq k rows) := by
  refine ⟨?_, ?_, (noteShort_moves s n seq k rows (Moves.refl 128 s) rfl).only (covers_spec rfl)⟩
  · unfold noteShort
    dsimp only
    split
    · exact .of_items rfl
    · exact others_noteItem s n seq _ _
  · intro l
    unfold noteShort
    dsimp only
    split
    · rfl
    · exact levelOf_noteItem _ _

section Starts

variable {s : State} {n seq l : Nat} {lv : Level} {b : List Byte}

/-! A search (R309, R315). -/

theorem assaySearch_unbound (h : cmdStarts s n seq l 0x0B lv b) (hi : field b 6 2 ≠ 0xFFFF)
    (hx : (s.index (field b 6 2)).st = .unbound ∨ (s.index (field b 6 2)).closing.isSome = true ∨ (s.index (field b 6 2)).claim ≠ n) :
    assaySearch s n seq l = failAt s n seq l lv.pc 0x0601 := by
  simp [assaySearch, h.2.1, asIndex, hi, if_pos hx]

/-- The search that a command asks for (R315). -/
def searchOf (s : State) (n seq l : Nat) (lv : Level) (b : List Byte) (ds : List Slot) : Search :=
  { shoe := n, seq := seq, level := l, granule := lv.pc, index := field b 6 2, k := field b 8 2, probes := field b 0xA 2, queries := field b 0xC 2
    qDesc := (ds.getD 0 none).getD [], pDesc := (ds.getD 1 none).getD [], rDesc := (ds.getD 2 none).getD [], age := s.now }

theorem assaySearch_reads (h : cmdStarts s n seq l 0x0B lv b) (hi : field b 6 2 ≠ 0xFFFF)
    (hx : ¬ ((s.index (field b 6 2)).st = .unbound ∨ (s.index (field b 6 2)).closing.isSome = true ∨ (s.index (field b 6 2)).claim ≠ n))
    {u : State} {r : ReadEnd (List Slot)} (hr : readAssayDescs n b s = (u, r)) :
    (∀ e, r = .error e → assaySearch s n seq l = failAt u n seq l lv.pc e.1 e.2) ∧
      ∀ ds, r = .ok ds →
        (∀ e, assayFault false (8 * sketchBytes (s.index (field b 6 2)).header) b ds = some e → assaySearch s n seq l = failAt u n seq l lv.pc e.1 e.2) ∧
        (assayFault false (8 * sketchBytes (s.index (field b 6 2)).header) b ds = none → assaySearch s n seq l =
          (heldCmd u n seq l lv.pc b .assay).modAsy fun a => { a with waiting := a.waiting ++ [searchOf u n seq l lv b ds] }) := by
  refine ⟨?_, fun ds => ?_⟩
  · rintro e rfl
    simp [assaySearch, h.2.1, asIndex, hi, if_neg hx, hr]
  · rintro rfl
    refine ⟨fun e he => ?_, fun he => ?_⟩
    · simp [assaySearch, h.2.1, asIndex, hi, if_neg hx, hr, he]
    · simp [assaySearch, h.2.1, asIndex, asK, asProbes, asQueries, hi, if_neg hx, hr, he, searchOf]

theorem assaySearch_spec (h : cmdStarts s n seq l 0x0B lv b) (hi : field b 6 2 ≠ 0xFFFF) :
    let r := readAssayDescs n b s
    let x := s.index (field b 6 2)
    let fails (cause : Nat) := Runs (.assaySearch n seq l) s fun t => itemFails t n seq cause ∧ othersStay s t n seq ∧ t.asy = s.asy
    (x.st = .unbound ∨ x.closing.isSome = true ∨ x.claim ≠ n → fails 0x0601) ∧
      (x.st ≠ .unbound → x.closing = none → x.claim = n →
        (∀ e, r.2 = .error e → fails e.1) ∧
        ∀ ds, r.2 = .ok ds → let f := assayFault false (8 * sketchBytes x.header) b ds
          (∀ e, f = some e → fails e.1) ∧
          (f = none → Runs (.assaySearch n seq l) s fun t => searchWaits s t n seq l lv b ds ∧ othersStay s t n seq)) := by
  have hrun : exec (.assaySearch n seq l) s = .next (assaySearch s n seq l) := by
    rw [assaySearch_runs n seq l s h.1, gate_starts h (by simpa [asIndex] using hi)]
  have hitems := readAssayDescs_items n b s
  have hasy := readAssayDescs_asy n b s
  have hfails : ∀ (u : State) (cause d : Nat), u.dl.items = s.dl.items → u.asy = s.asy → assaySearch s n seq l = failAt u n seq l lv.pc cause d →
      Runs (.assaySearch n seq l) s fun t => itemFails t n seq cause ∧ othersStay s t n seq ∧ t.asy = s.asy := fun u cause d hu ha he => by
    obtain ⟨ho, hf⟩ := starts_fails h hu cause d
    exact ⟨_, hrun, he ▸ ⟨hf, ho, (failAt_asy _ _ _ _ _ _ _).trans ha⟩⟩
  dsimp only
  refine ⟨fun hx => hfails s 0x0601 0 rfl rfl (assaySearch_unbound h hi hx), fun hst hcl hn => ?_⟩
  obtain ⟨herr, hok⟩ := assaySearch_reads h hi (fun hx => by simp [hst, hcl, hn] at hx) Prod.mk.eta.symm
  refine ⟨fun e he => hfails _ e.1 e.2 hitems hasy (herr e he), fun ds hds => ⟨fun e he => hfails _ e.1 e.2 hitems hasy ((hok ds hds).1 e he), fun hf => ?_⟩⟩
  obtain ⟨-, -, -, -, -, -, -, -, hl⟩ := nextCmd_some h.2.1
  have hlevel := levelOf_heldCmd b .assay ((levelOf_congr hitems n seq l).trans hl)
  rw [readAssayDescs_now] at hlevel
  refine ⟨_, hrun, ?_⟩
  rw [(hok ds hds).2 hf]
  refine ⟨⟨(levelOf_congr (by rfl) n seq l).trans hlevel, searchOf (readAssayDescs n b s).1 n seq l lv b ds, ?_, rfl, rfl, rfl, rfl, rfl, rfl, rfl, rfl, rfl, rfl, rfl, readAssayDescs_now n b s, rfl⟩, ?_⟩
  · have hheld : (heldCmd (readAssayDescs n b s).1 n seq l lv.pc b .assay).asy = s.asy := (heldCmd_only _ n seq l lv.pc b .assay .asy (by decide)).trans hasy
    rw [State.modAsy, hheld]
  · exact ((othersStay.of_items hitems).trans (others_heldCmd _ n seq l lv.pc b .assay)).trans (.of_items (by rfl))

/-! A merge (R326). -/

theorem assayMerge_reads (h : cmdStarts s n seq l 0x0B lv b) (hi : field b 6 2 = 0xFFFF) {u : State} {r : ReadEnd (List Slot)}
    (hr : readAssayDescs n b s = (u, r)) :
    (∀ e, r = .error e → assayMerge s n seq l = failAt u n seq l lv.pc e.1 e.2) ∧
      ∀ ds, r = .ok ds → ∀ e, assayFault true 0 b ds = some e → assayMerge s n seq l = failAt u n seq l lv.pc e.1 e.2 := by
  refine ⟨?_, ?_⟩
  · rintro e rfl
    simp [assayMerge, h.2.1, asIndex, hi, hr]
  · rintro ds rfl e he
    simp [assayMerge, h.2.1, asIndex, hi, hr, he]

/-- The merge of one query's lists (R326). -/
def mergeOf (n : Nat) (b : List Byte) (ds : List Slot) (i : Nat) (u : State) : Run (List (List Byte)) :=
  mergeQuery n (field b 8 2) ((ds.getD 0 none).getD []) (field b 0xA 2) i u

theorem assayMerge_merges (h : cmdStarts s n seq l 0x0B lv b) (hi : field b 6 2 = 0xFFFF) {u : State} {ds : List Slot} (hr : readAssayDescs n b s = (u, .ok ds))
    (hf : assayFault true 0 b ds = none) {v : State} {m : ReadEnd (List (List (List Byte)))}
    (hm : runEach (mergeOf n b ds) (List.range (field b 0xC 2)) u = (v, m)) :
    (∀ e, m = .error e → assayMerge s n seq l = failAt v n seq l lv.pc e.1 e.2) ∧
      ∀ rows, m = .ok rows → ∀ w x, writeResults n (field b 8 2) 0 ((ds.getD 2 none).getD []) rows v = (w, x) →
        (∀ e, x = .error e → assayMerge s n seq l = failAt w n seq l lv.pc e.1 e.2) ∧
        ∀ y, x = .ok y → assayMerge s n seq l = doneCmd (noteShort w n seq (field b 8 2) rows) n seq l lv.pc b := by
  unfold mergeOf at hm
  refine ⟨?_, ?_⟩
  · rintro e rfl
    simp only [assayMerge, h.2.1, asIndex, asK, asProbes, asQueries, hi, hr, hf, hm, ne_eq, not_true_eq_false, if_false]
  · rintro rows rfl w x hw
    refine ⟨?_, ?_⟩
    · rintro e rfl
      simp only [assayMerge, h.2.1, asIndex, asK, asProbes, asQueries, hi, hr, hf, hm, hw, ne_eq, not_true_eq_false, if_false]
    · rintro y rfl
      simp only [assayMerge, h.2.1, asIndex, asK, asProbes, asQueries, hi, hr, hf, hm, hw, ne_eq, not_true_eq_false, if_false]

theorem assayMerge_spec (h : cmdStarts s n seq l 0x0B lv b) (hi : field b 6 2 = 0xFFFF) :
    let r := readAssayDescs n b s
    let run := Instr.assayMerge n seq l
    let fails (cause : Nat) := RunsAfterMoves run s fun t => itemFails t n seq cause ∧ othersStay s t n seq ∧ t.asy = s.asy
    (∀ e, r.2 = .error e → fails e.1) ∧
      ∀ ds, r.2 = .ok ds →
        (∀ e, assayFault true 0 b ds = some e → fails e.1) ∧
        (assayFault true 0 b ds = none →
          let m := runEach (mergeOf n b ds) (List.range (field b 0xC 2)) r.1
          (∀ e, m.2 = .error e → fails e.1) ∧
          ∀ rows, m.2 = .ok rows → let w := writeResults n (field b 8 2) 0 ((ds.getD 2 none).getD []) rows m.1
            (∀ e, w.2 = .error e → fails e.1) ∧
            (∀ u, w.2 = .ok u → RunsAfterMoves run s fun t => levelOf t n seq l = some (cmdDone lv b) ∧ othersStay s t n seq ∧ t.tiers = w.1.tiers ∧
              t.asy = s.asy)) := by
  have hrun : exec (.assayMerge n seq l) s = .next (afterMoves (fun s => assayMerge s n seq l) s) := by
    rw [assayMerge_runs n seq l s h.1, gate_starts h (by simpa [asIndex] using hi)]
  have hfails : ∀ (u : State) (cause d : Nat), u.dl.items = s.dl.items → u.asy = s.asy → assayMerge s n seq l = failAt u n seq l lv.pc cause d →
      RunsAfterMoves (.assayMerge n seq l) s fun t => itemFails t n seq cause ∧ othersStay s t n seq ∧ t.asy = s.asy := fun u cause d hu ha he => by
    obtain ⟨ho, hf⟩ := starts_fails h hu cause d
    refine ⟨_, ?_, hrun⟩
    dsimp only
    rw [he]
    exact ⟨hf, ho, (failAt_asy _ _ _ _ _ _ _).trans ha⟩
  have hitems := readAssayDescs_items n b s
  have hasy := readAssayDescs_asy n b s
  dsimp only
  generalize hr : readAssayDescs n b s = r at hitems hasy ⊢
  obtain ⟨u, r⟩ := r
  obtain ⟨herr, hfault⟩ := assayMerge_reads h hi hr
  refine ⟨fun e he => hfails u e.1 e.2 hitems hasy (herr e he), fun ds hds => ⟨fun e he => hfails u e.1 e.2 hitems hasy (hfault ds hds e he), fun hf => ?_⟩⟩
  subst hds
  have hmoves := runEach_moves (mergeOf n b ds) (List.range (field b 0xC 2)) u (Moves.refl 271688 u) fun i t ht => mergeQuery_moves n _ _ _ i t ht rfl
  generalize hm : runEach (mergeOf n b ds) (List.range (field b 0xC 2)) u = m at hmoves ⊢
  obtain ⟨v, m⟩ := m
  have vitems : v.dl.items = s.dl.items := (congrArg Dealer.items (hmoves.rest .dl rfl)).trans hitems
  have vasy : v.asy = s.asy := (hmoves.rest .asy rfl).trans hasy
  obtain ⟨merr, mok⟩ := assayMerge_merges h hi hr hf hm
  refine ⟨fun e he => hfails v e.1 e.2 vitems vasy (merr e he), fun rows hrows => ?_⟩
  have wquiet := (writeResults_quiet n (field b 8 2) 0 ((ds.getD 2 none).getD []) rows v).items
  have wmoves := writeResults_moves n (field b 8 2) 0 ((ds.getD 2 none).getD []) rows v (Moves.refl 271816 v) rfl
  generalize hw : writeResults n (field b 8 2) 0 ((ds.getD 2 none).getD []) rows v = w at wquiet wmoves ⊢
  obtain ⟨w, x⟩ := w
  have witems : w.dl.items = s.dl.items := wquiet.trans vitems
  have wasy : w.asy = s.asy := (wmoves.rest .asy rfl).trans vasy
  obtain ⟨werr, wok⟩ := mok rows hrows w x hw
  refine ⟨fun e he => hfails w e.1 e.2 witems wasy (werr e he), fun y hy => ⟨_, ?_, hrun⟩⟩
  dsimp only
  rw [wok y hy]
  obtain ⟨-, -, -, -, -, -, -, -, hl⟩ := nextCmd_some h.2.1
  obtain ⟨hnote, hnoteLevel, hnoteOnly⟩ := noteShort_item w n seq (field b 8 2) rows
  have hdone := (hnoteOnly.trans (doneCmd_only (noteShort w n seq (field b 8 2) rows) n seq l lv.pc b))
  refine ⟨levelOf_doneCmd b ((hnoteLevel l).trans ((levelOf_congr witems n seq l).trans hl)), ?_, hdone .tiers (by decide), (hdone .asy (by decide)).trans wasy⟩
  exact (othersStay.of_items witems).trans (hnote.trans (others_doneCmd _ _ _ _ _ _))

end Starts

end Sys2Proof
end

section
/-! SUPPORT. The forming of a batch (R317, R319, R320). -/

namespace Sys2Proof

open Machine

section Form

variable {s : State}

theorem mem_waitingSearches {q : Search} : q ∈ waitingSearches s ↔ q ∈ s.asy.waiting ∧ searchLive s q = true := List.mem_filter

/-! The order of admission: by class, then as they came (R319). -/

theorem mem_insertSearch {x y : Search} (l : List Search) : y ∈ insertSearch s x l ↔ y = x ∨ y ∈ l := by
  induction l with
  | nil => simp [insertSearch]
  | cons z zs ih =>
    unfold insertSearch
    split
    · simp
    · simp only [List.mem_cons, ih]
      tauto

/-- Higher classes stand first. -/
def byClass (s : State) (l : List Search) : Prop := l.Pairwise fun a b => effClass s b.shoe ≤ effClass s a.shoe

theorem byClass_insert (x : Search) {l : List Search} (h : byClass s l) : byClass s (insertSearch s x l) := by
  induction l with
  | nil => exact List.pairwise_singleton _ _
  | cons z zs ih =>
    obtain ⟨hz, hzs⟩ := List.pairwise_cons.1 h
    unfold insertSearch
    split
    · rename_i hlt
      have hlt : effClass s z.shoe < effClass s x.shoe := of_decide_eq_true hlt
      refine List.pairwise_cons.2 ⟨fun y hy => ?_, h⟩
      rcases List.mem_cons.1 hy with rfl | hy
      · exact hlt.le
      · exact (hz y hy).trans hlt.le
    · rename_i hge
      have hge : effClass s x.shoe ≤ effClass s z.shoe := by simpa [searchBefore] using hge
      refine List.pairwise_cons.2 ⟨fun y hy => ?_, ih hzs⟩
      rcases (mem_insertSearch zs).1 hy with rfl | hy
      · exact hge
      · exact hz y hy

/-- The searches that wait, in the order of admission. -/
def inOrder (s : State) : List Search := (waitingSearches s).foldl (fun l q => insertSearch s q l) []

theorem inOrder_facts : (∀ q, q ∈ inOrder s ↔ q ∈ waitingSearches s) ∧ byClass s (inOrder s) := by
  have key : ∀ (w l : List Search), byClass s l → (∀ q, q ∈ w.foldl (fun l q => insertSearch s q l) l ↔ q ∈ w ∨ q ∈ l) ∧
      byClass s (w.foldl (fun l q => insertSearch s q l) l) := by
    intro w
    induction w with
    | nil => exact fun l hl => ⟨by simp, hl⟩
    | cons x w ih =>
      intro l hl
      obtain ⟨hmem, hord⟩ := ih _ (byClass_insert x hl)
      refine ⟨fun q => ?_, hord⟩
      rw [List.foldl_cons, hmem, mem_insertSearch, List.mem_cons]
      tauto
  obtain ⟨hmem, hord⟩ := key (waitingSearches s) [] List.Pairwise.nil
  exact ⟨fun q => (hmem q).trans (by simp), hord⟩

/-- The admitted searches are the first ones, at most 256 queries with the n before them. -/
theorem admitted256_split (n : Nat) (l : List Search) : ∃ rest, l = admitted256 n l ++ rest ∧
    (n ≤ 256 → ((admitted256 n l).map (·.queries)).foldl (· + ·) n ≤ 256) := by
  induction l generalizing n with
  | nil => exact ⟨[], rfl, fun h => h⟩
  | cons q qs ih =>
    unfold admitted256
    split
    · rename_i hq
      obtain ⟨rest, hl, hsum⟩ := ih (n + q.queries)
      exact ⟨rest, congrArg (q :: ·) hl, fun _ => hsum hq⟩
    · exact ⟨q :: qs, rfl, fun h => h⟩

/-- The searches that the next batch takes. -/
def admittedNow (s : State) : List Search := admitted256 0 (inOrder s)

theorem admittedNow_mem {q : Search} (h : q ∈ admittedNow s) : q ∈ waitingSearches s := by
  obtain ⟨rest, hl, -⟩ := admitted256_split 0 (inOrder s)
  exact (inOrder_facts.1 q).1 (hl ▸ List.mem_append_left rest h)

/-- A search that is left is of no higher class than one that is admitted. -/
theorem admittedNow_class {w q : Search} (hw : w ∈ waitingSearches s) (hn : w ∉ admittedNow s) (hq : q ∈ admittedNow s) :
    effClass s w.shoe ≤ effClass s q.shoe := by
  obtain ⟨rest, hl, -⟩ := admitted256_split 0 (inOrder s)
  have hord := (inOrder_facts (s := s)).2
  have hrest : w ∈ rest := by
    have hin := (inOrder_facts.1 w).2 hw
    rw [hl] at hin
    exact (List.mem_append.1 hin).resolve_left hn
  rw [byClass, hl] at hord
  exact (List.pairwise_append.1 hord).2.2 q hq w hrest

theorem admittedNow_ne {q : Search} (hq : q ∈ waitingSearches s) (hall : ∀ q ∈ s.asy.waiting, q.queries ≤ 256) : admittedNow s ≠ [] := by
  have hin := (inOrder_facts.1 q).2 hq
  have hfacts := (inOrder_facts (s := s)).1
  unfold admittedNow
  cases ho : inOrder s with
  | nil => rw [ho] at hin; exact absurd hin (List.not_mem_nil)
  | cons x xs =>
    have hx : x.queries ≤ 256 := hall x (mem_waitingSearches.1 ((hfacts x).1 (ho ▸ List.mem_cons_self))).1
    unfold admitted256
    rw [if_pos (by omega)]
    exact List.cons_ne_nil _ _

/-! What a batch's start fixes (R317, R324). -/

theorem startSearch_asy (u : State) (q : Search) : (startSearch u q).1.asy = u.asy := (startSearch_moves u q (Moves.refl 271688 u) rfl).rest .asy rfl

/-- A started search is the one that waited, with what its index holds. -/
def startedAs (s : State) (w q : Search) : Prop :=
  q = { w with header := (s.index w.index).header, epoch := (s.index w.index).epoch, heapHead := (s.index w.index).heapHead
               heapTaken := (s.index w.index).heapTaken, heads := q.heads, permit := q.permit, fail := q.fail }

theorem startedAs.fields {w q : Search} (h : startedAs s w q) :
    q.shoe = w.shoe ∧ q.seq = w.seq ∧ q.level = w.level ∧ q.granule = w.granule ∧ q.queries = w.queries := by
  rw [startedAs] at h
  rw [h]
  exact ⟨rfl, rfl, rfl, rfl, rfl⟩

theorem startSearch_started {u : State} (hu : u.asy = s.asy) (w : Search) : startedAs s w (startSearch u w).2 := by
  have hix : s.index w.index = u.index w.index := by rw [State.index, ← hu]; rfl
  unfold startedAs startSearch
  rw [hix]
  dsimp only
  split <;> rfl

/-- The admitted searches start one after another. -/
def startAll (s : State) (qs : List Search) : State × List Search :=
  qs.foldl (fun acc q => ((startSearch acc.1 q).1, acc.2 ++ [(startSearch acc.1 q).2])) (s, [])

theorem startAll_facts (s : State) (qs : List Search) : (startAll s qs).1.asy = s.asy ∧
    (startAll s qs).2.map (·.queries) = qs.map (·.queries) ∧ (∀ q ∈ (startAll s qs).2, ∃ w ∈ qs, startedAs s w q) ∧
    ∀ w ∈ qs, ∃ q ∈ (startAll s qs).2, startedAs s w q := by
  have key : ∀ (qs : List Search) (u : State) (done : List Search), u.asy = s.asy →
      let r := qs.foldl (fun acc q => ((startSearch acc.1 q).1, acc.2 ++ [(startSearch acc.1 q).2])) (u, done)
      r.1.asy = s.asy ∧ ∃ new, r.2 = done ++ new ∧ new.map (·.queries) = qs.map (·.queries) ∧ (∀ q ∈ new, ∃ w ∈ qs, startedAs s w q) ∧
        ∀ w ∈ qs, ∃ q ∈ new, startedAs s w q := by
    intro qs
    induction qs with
    | nil => exact fun u done hu => ⟨hu, [], (List.append_nil _).symm, rfl, fun q hq => absurd hq List.not_mem_nil, fun q hq => absurd hq List.not_mem_nil⟩
    | cons w qs ih =>
      intro u done hu
      obtain ⟨ha, new, hnew, hqueries, hback, hforth⟩ := ih (startSearch u w).1 (done ++ [(startSearch u w).2]) ((startSearch_asy u w).trans hu)
      have hw := startSearch_started hu w
      obtain ⟨-, -, -, -, hsame⟩ := hw.fields
      refine ⟨ha, (startSearch u w).2 :: new, by rw [List.foldl_cons, hnew, List.append_assoc]; rfl, by rw [List.map_cons, List.map_cons, hsame, hqueries], ?_, ?_⟩
      · intro q hq
        rcases List.mem_cons.1 hq with rfl | hq
        · exact ⟨w, List.mem_cons_self, hw⟩
        · obtain ⟨v, hv, hvq⟩ := hback q hq
          exact ⟨v, List.mem_cons_of_mem _ hv, hvq⟩
      · intro v hv
        rcases List.mem_cons.1 hv with rfl | hv
        · exact ⟨_, List.mem_cons_self, hw⟩
        · obtain ⟨q, hq, hvq⟩ := hforth v hv
          exact ⟨q, List.mem_cons_of_mem _ hq, hvq⟩
  obtain ⟨ha, new, hnew, hfacts⟩ := key qs s [] rfl
  have hall : (startAll s qs).2 = new := hnew
  rw [hall]
  exact ⟨ha, hfacts⟩

theorem formBatch_none (h : ∀ q ∈ s.asy.waiting, searchLive s q = false) : formBatch s = s := by
  have hw : waitingSearches s = [] := List.filter_eq_nil_iff.2 fun q hq => by simp [h q hq]
  simp [formBatch, hw, admitted256]

theorem formBatch_forms (h : admittedNow s ≠ []) : formBatch s = (startAll s (admittedNow s)).1.modAsy fun a =>
    { a with
      batch := some (startAll s (admittedNow s)).2
      waiting := (waitingSearches s).filter fun q => !(admittedNow s).contains q
      batches := (a.batches + 1) % 2 ^ 32 } := by
  have hne : (admitted256 0 ((waitingSearches s).foldl (fun l q => insertSearch s q l) [])).isEmpty = false := by
    rw [Bool.eq_false_iff, ne_eq, List.isEmpty_iff]
    exact h
  unfold formBatch
  dsimp only
  rw [hne]
  rfl

/-- The batch that forms (R317, R319). -/
theorem formBatch_spec (h : admittedNow s ≠ []) : ∃ qs, qs ≠ [] ∧ batchFormed s (formBatch s) qs := by
  obtain ⟨hasy, hqueries, hback, hforth⟩ := startAll_facts s (admittedNow s)
  obtain ⟨rest, -, hsum⟩ := admitted256_split 0 (inOrder s)
  have hne : (startAll s (admittedNow s)).2 ≠ [] := fun hnil => h (List.map_eq_nil_iff.1 (hqueries.symm.trans (by rw [hnil]; rfl)))
  rw [formBatch_forms h]
  refine ⟨(startAll s (admittedNow s)).2, hne, rfl, ?_, ?_, ?_, fun q hq => ?_, fun w hw => ?_, fun w hw hlive => ?_⟩
  · exact congrArg (fun a : Assay => (a.batches + 1) % 2 ^ 32) hasy
  · exact (rfl : _ = (startAll s (admittedNow s)).1.asy.indexes).trans (congrArg Assay.indexes hasy)
  · rw [hqueries]
    exact hsum (by decide)
  · obtain ⟨w, hw, hwq⟩ := hback q hq
    obtain ⟨hwait, hlive⟩ := mem_waitingSearches.1 (admittedNow_mem hw)
    exact ⟨w, hwait, hlive, hwq⟩
  · obtain ⟨hwait, hno⟩ := List.mem_filter.1 hw
    obtain ⟨hin, hlive⟩ := mem_waitingSearches.1 hwait
    refine ⟨hin, hlive, fun q hq => ?_⟩
    obtain ⟨v, hv, hvq⟩ := hback q hq
    obtain ⟨hshoe, -⟩ := hvq.fields
    rw [hshoe]
    exact admittedNow_class hwait (by simpa using hno) hv
  · have hwait := mem_waitingSearches.2 ⟨hw, hlive⟩
    by_cases hadm : w ∈ admittedNow s
    · obtain ⟨q, hq, hwq⟩ := hforth w hadm
      obtain ⟨hshoe, hseq, hlevel, hgranule, -⟩ := hwq.fields
      exact .inr ⟨q, hq, hshoe, hseq, hlevel, hgranule⟩
    · exact .inl (List.mem_filter.2 ⟨hwait, by simpa using hadm⟩)

end Form

end Sys2Proof
end

section
/-! SUPPORT. The end of a batch (R312, R317, R318, R322), and searches as the statement asks. -/

namespace Sys2Proof

open Machine

/-! Indexes whose unbinding waited for the batch (R312). -/

/-- An index once its unbinding has had its batch: it is free, and its register keeps what was written. -/
def closedIndex (x : Index) : Index :=
  match x.closing with
  | some w => { headerVa := w.1, claim := w.2, cause := x.cause }
  | none => x

theorem closedIndex_some {x : Index} {w : Nat × Nat} (h : x.closing = some w) : closedIndex x = { headerVa := w.1, claim := w.2, cause := x.cause } := by
  simp only [closedIndex, h]

theorem closedIndex_none {x : Index} (h : x.closing = none) : closedIndex x = x := by simp only [closedIndex, h]

theorem closedIndex_closed (x : Index) : closedIndex (closedIndex x) = closedIndex x := by
  refine closedIndex_none ?_
  cases h : x.closing with
  | some w => rw [closedIndex_some h]
  | none => rw [closedIndex_none h, h]

/-- One index's turn when a batch has completed. -/
def closeIndex (s : State) (i : Nat) : State :=
  match (s.index i).closing with
  | some w => releaseIndex s i w.1 w.2
  | none => s

theorem unpinPages_asy (s : State) (n : Nat) (pages : List Nat) : (unpinPages s n pages).asy = s.asy :=
  (unpinPages_moves s n pages (Moves.refl 256 s) rfl).rest .asy rfl

/-- Of the engine only the indexes differ. -/
def indexesOnly (s t : State) : Prop := { t.asy with indexes := s.asy.indexes } = s.asy

theorem indexesOnly.trans {s t u : State} (h : indexesOnly s t) (k : indexesOnly t u) : indexesOnly s u := by
  unfold indexesOnly at *
  rw [← h, ← k]

theorem indexesOnly.of_asy {s t : State} (h : t.asy = s.asy) : indexesOnly s t := by
  unfold indexesOnly
  rw [h]

theorem indexesOnly.batch {s t : State} (h : indexesOnly s t) : t.asy.batch = s.asy.batch := by rw [← h]

theorem indexesOnly.continuous {s t : State} (h : indexesOnly s t) : t.asy.continuous = s.asy.continuous := by rw [← h]

theorem indexesOnly.foldl {α : Type} {f : State → α → State} (hf : ∀ u x, indexesOnly u (f u x)) (l : List α) (s : State) : indexesOnly s (l.foldl f s) := by
  induction l generalizing s with
  | nil => exact .of_asy rfl
  | cons x l ih => exact (hf s x).trans (ih _)

theorem index_of_asy {s t : State} (h : t.asy = s.asy) (k : Nat) : t.index k = s.index k := by rw [State.index, h]; rfl

theorem releaseIndex_spec (s : State) {i : Nat} (hi : i < 64) (va n : Nat) : indexesOnly s (releaseIndex s i va n) ∧
    (releaseIndex s i va n).index i = { headerVa := va, claim := n, cause := (s.index i).cause } ∧
    ∀ k, k ≠ i → (releaseIndex s i va n).index k = s.index k := by
  have hasy := unpinPages_asy s (s.index i).claim (s.index i).pins
  refine ⟨indexesOnly.trans (.of_asy hasy) rfl, ?_, fun k hk => ?_⟩
  · rw [← index_of_asy hasy i]
    exact tget_tmod_same _ _ hi
  · rw [← index_of_asy hasy k]
    exact tget_tmod_ne _ _ hk.symm

theorem closeIndex_spec (s : State) {i : Nat} (hi : i < 64) : indexesOnly s (closeIndex s i) ∧ (closeIndex s i).index i = closedIndex (s.index i) ∧
    ∀ k, k ≠ i → (closeIndex s i).index k = s.index k := by
  unfold closeIndex
  cases h : (s.index i).closing with
  | some w =>
    rw [closedIndex_some h]
    exact releaseIndex_spec s hi w.1 w.2
  | none => exact ⟨.of_asy rfl, (closedIndex_none h).symm, fun _ _ => rfl⟩

/-- Every index whose unbinding waited is free, and no other one changes (R312). -/
theorem closeIndexes_spec (s : State) : indexesOnly s (closeIndexes s) ∧ ∀ k < 64, (closeIndexes s).index k = closedIndex (s.index k) := by
  have key : ∀ (l : List Nat) (u : State), (∀ i ∈ l, i < 64) → indexesOnly u (l.foldl closeIndex u) ∧
      ∀ k, (l.foldl closeIndex u).index k = if k ∈ l then closedIndex (u.index k) else u.index k := by
    intro l
    induction l with
    | nil => exact fun u _ => ⟨.of_asy rfl, fun k => (if_neg List.not_mem_nil).symm⟩
    | cons i l ih =>
      intro u hl
      obtain ⟨hi, hl⟩ := List.forall_mem_cons.1 hl
      obtain ⟨honly, hsame, hother⟩ := closeIndex_spec u hi
      obtain ⟨ionly, iindex⟩ := ih (closeIndex u i) hl
      refine ⟨honly.trans ionly, fun k => ?_⟩
      rw [List.foldl_cons, iindex]
      by_cases hk : k = i
      · subst hk
        simp [hsame, closedIndex_closed]
      · simp [hother k hk, hk]
  obtain ⟨honly, hindex⟩ := key (List.range 64) s fun i hi => List.mem_range.1 hi
  exact ⟨honly, fun k hk => (hindex k).trans (if_pos (List.mem_range.2 hk))⟩

/-- Where no unbinding waited, the batch's end closes nothing. -/
theorem closeIndexes_idle {s : State} (h : ∀ i < 64, (s.index i).closing = none) : closeIndexes s = s := by
  refine List.foldlRecOn (motive := fun t => t = s) _ _ rfl fun t ht i hi => ?_
  rw [ht]
  simp only [h i (List.mem_range.1 hi)]

/-! Eager advances leave the batch alone (R322). -/

theorem modIndex_only (s : State) (i : Nat) (f : Index → Index) : indexesOnly s (s.modIndex i f) := rfl

theorem storeGranule_asy (s : State) (i : Nat) : (storeGranule s i).asy = s.asy := (storeGranule_moves s i (Moves.refl 271816 s) rfl).rest .asy rfl

theorem readClaim_asy (s : State) (n va len : Nat) : (readClaim s n va len).1.asy = s.asy :=
  (readClaim_moves s n va len true (Moves.refl 271688 s) rfl).rest .asy rfl

theorem passRetired_only (fuel i : Nat) (s : State) : indexesOnly s (passRetired fuel i s) := by
  induction fuel generalizing s with
  | zero => exact .of_asy rfl
  | succ fuel ih =>
    unfold passRetired
    dsimp only
    split
    · exact modIndex_only s i _
    · have hasy := readClaim_asy s (s.index i).claim (heapAddr (s.index i).header (s.index i).heapHead) 32
      split
      · rename_i u _ hr
        rw [hr] at hasy
        exact .of_asy hasy
      · rename_i u _ hr
        rw [hr] at hasy
        have hu : indexesOnly s u := .of_asy hasy
        split
        · exact hu.trans ((modIndex_only u i _).trans (ih _))
        · exact hu.trans (modIndex_only u i _)

theorem advanceTake_only (s : State) (i : Nat) (x : Index) (want room : Nat) : indexesOnly s (advanceTake s i x want room) := by
  have hmoves := runEach_moves (fun p s => takeRecord i p (x.epoch + 1) s) (heapRange x.heapTaken (x.heapTaken + min want room)) s (Moves.refl 271816 s)
    fun p t ht => takeRecord_moves i p (x.epoch + 1) t ht rfl
  unfold advanceTake
  split
  · rename_i u _ hr
    rw [hr] at hmoves
    exact .of_asy (hmoves.rest .asy rfl)
  · rename_i u skips hr
    rw [hr] at hmoves
    exact (indexesOnly.of_asy (hmoves.rest .asy rfl)).trans ((modIndex_only u i _).trans ((passRetired_only _ i _).trans (.of_asy (storeGranule_asy _ i))))

theorem advanceIndex_only (s : State) (i : Nat) : indexesOnly s (advanceIndex s i) := by
  have hpoison : indexesOnly s (storeGranule (s.modIndex i fun x => { x with publishPoisoned := true }) i) :=
    (modIndex_only s i _).trans (.of_asy (storeGranule_asy _ i))
  unfold advanceIndex
  dsimp only
  split
  · exact .of_asy rfl
  · split
    · exact modIndex_only s i _
    · split
      · exact hpoison
      · split
        · exact hpoison
        · exact advanceTake_only s i _ _ _

theorem advanceEager_only (s : State) : indexesOnly s (advanceEager s) := by
  refine (indexesOnly.foldl (fun u i => ?_) _ s).trans (.of_asy ((settlePages_moves _ (Moves.refl 1480 _) rfl).rest .asy rfl))
  split
  · exact advanceIndex_only u i
  · exact .of_asy rfl

/-! BATCH_COMPLETE (R317, R319). -/

section Batch

variable {s : State} {qs : List Search}

/-- The engine once its batch has ended. -/
def batchDropped (s : State) : State := { s with asy := { s.asy with batch := none } }

/-- What the searches of a batch leave, and the indexes that it held up. -/
def batchRun (s : State) (qs : List Search) : State := closeIndexes (qs.foldl finishSearch (batchDropped s))

theorem finishSearches_asy (qs : List Search) (s : State) : (qs.foldl finishSearch s).asy = s.asy :=
  ((Moves.refl 271816 s).foldl fun u q => finishSearch_moves u q (Moves.refl 271816 u) rfl).rest .asy rfl

theorem batchRun_only (s : State) (qs : List Search) : indexesOnly (batchDropped s) (batchRun s qs) :=
  (indexesOnly.of_asy (finishSearches_asy qs _)).trans (closeIndexes_spec _).1

theorem batchRun_beat (s : State) (qs : List Search) : (batchRun s qs).beat = s.beat :=
  ((closeIndexes_moves _ (Moves.refl 2097408 _) rfl).rest .beat rfl).trans
    (((Moves.refl 271816 (batchDropped s)).foldl fun u q => finishSearch_moves u q (Moves.refl 271816 u) rfl).rest .beat rfl)

theorem batchComplete_eq (h : s.asy.batch = some qs) :
    batchComplete s = if asyContinuous (batchRun s qs) then advanceEager (batchRun s qs) else batchRun s qs := by
  simp only [batchComplete, h]
  rfl

/-- In a mode of windows no index advances at a batch's end. -/
theorem batchComplete_windows (h : s.asy.batch = some qs) (hc : s.asy.continuous = false) (ha : s.beat.aligned = true) : batchComplete s = batchRun s qs := by
  have hcont : (batchRun s qs).asy.continuous = false := (batchRun_only s qs).continuous.trans hc
  have hmode : asyContinuous (batchRun s qs) = false := by rw [asyContinuous, batchRun_beat, hcont, ha]; rfl
  rw [batchComplete_eq h, hmode]
  rfl

theorem batchComplete_drops (h : s.asy.batch = some qs) : (batchComplete s).asy.batch = none := by
  have hrun : (batchRun s qs).asy.batch = none := (batchRun_only s qs).batch
  rw [batchComplete_eq h]
  split
  · exact (advanceEager_only _).batch.trans hrun
  · exact hrun

theorem batchComplete_closes (h : s.asy.batch = some qs) (hc : s.asy.continuous = false) (ha : s.beat.aligned = true) {i : Nat} (hi : i < 64) {w : Nat × Nat}
    (hw : (s.index i).closing = some w) : (batchComplete s).index i = { headerVa := w.1, claim := w.2, cause := (s.index i).cause } := by
  have hindex : (qs.foldl finishSearch (batchDropped s)).index i = s.index i := index_of_asy (finishSearches_asy qs (batchDropped s)) i
  rw [batchComplete_windows h hc ha, batchRun, (closeIndexes_spec _).2 i hi, hindex, closedIndex_some hw]

/-- A search whose item is gone leaves nothing to do. -/
theorem finishSearches_gone (h : ∀ q ∈ qs, searchLive s q = false) : qs.foldl finishSearch (batchDropped s) = batchDropped s := by
  refine List.foldlRecOn (motive := fun t => t = batchDropped s) _ _ rfl fun t ht q hq => ?_
  have hlive : searchLive (batchDropped s) q = false := h q hq
  rw [ht, finishSearch, hlive]
  rfl

theorem batchComplete_gone (h : s.asy.batch = some qs) (hgone : ∀ q ∈ qs, searchLive s q = false) (hc : s.asy.continuous = false) (ha : s.beat.aligned = true)
    (hi : ∀ i < 64, (s.index i).closing = none) : batchComplete s = batchDropped s := by
  rw [batchComplete_windows h hc ha, batchRun, finishSearches_gone hgone]
  exact closeIndexes_idle hi

theorem searchLive_active {q : Search} (h : searchLive s q = true) : ∃ lv a b, activeCmd s q.shoe q.seq q.level q.granule = some (lv, a, b) := by
  unfold searchLive at h
  split at h
  · exact ⟨_, _, _, ‹_›⟩
  · cases h

theorem closeIndexes_items (s : State) : (closeIndexes s).dl.items = s.dl.items :=
  congrArg Dealer.items ((closeIndexes_moves s (Moves.refl 2097408 s) rfl).rest .dl rfl)

/-- A live search ends its command with its results, or fails its item (R318). -/
theorem finishSearch_live {q : Search} (hlive : searchLive s q = true) {u : State} {r : ReadEnd (List (List (List Byte)))} (hr : runSearch q s = (u, r)) :
    (∀ e, r = .error e → finishSearch s q = failAt u q.shoe q.seq q.level q.granule e.1 e.2) ∧
      ∀ rows, r = .ok rows → finishSearch s q = completeCmd (noteShort u q.shoe q.seq q.k rows) q.shoe q.seq q.level q.granule := by
  refine ⟨?_, ?_⟩
  · rintro e rfl
    simp only [finishSearch, hlive, hr, Bool.not_true, Bool.false_eq_true, if_false]
  · rintro rows rfl
    simp only [finishSearch, hlive, hr, Bool.not_true, Bool.false_eq_true, if_false]

theorem finishSearch_spec {q : Search} (hlive : searchLive s q = true) :
    (∀ e, (runSearch q s).2 = .error e → itemFails (finishSearch s q) q.shoe q.seq e.1 ∧ othersStay s (finishSearch s q) q.shoe q.seq) ∧
      ∀ rows, (runSearch q s).2 = .ok rows → othersStay s (finishSearch s q) q.shoe q.seq ∧
        ∀ lv, levelOf s q.shoe q.seq q.level = some lv → levelOf (finishSearch s q) q.shoe q.seq q.level = some (cmdEnded lv q.granule) := by
  have hitems := (runSearch_quiet q s).items
  obtain ⟨herr, hok⟩ := finishSearch_live hlive Prod.mk.eta.symm
  obtain ⟨lv, a, b, hact⟩ := searchLive_active hlive
  refine ⟨fun e he => ?_, fun rows hrows => ?_⟩
  · rw [herr e he]
    exact ⟨fails_of_active hact hitems _ _ _, (othersStay.of_items hitems).trans (others_failAt _ _ _ _ _ _ _)⟩
  · obtain ⟨hnote, hlevel, -⟩ := noteShort_item (runSearch q s).1 q.shoe q.seq q.k rows
    rw [hok rows hrows]
    refine ⟨(othersStay.of_items hitems).trans (hnote.trans (others_completeCmd _ _ _ _ _)), fun lv hl => ?_⟩
    rw [levelOf_completeCmd, hlevel, levelOf_congr hitems, hl]
    rfl

end Batch

/-- A batch of one live search ends it (R317, R318). -/
theorem batchComplete_single {s : State} {q : Search} (h : s.asy.batch = some [q]) (hlive : searchLive s q = true) (hc : s.asy.continuous = false)
    (ha : s.beat.aligned = true) :
    let r := runSearch q (batchDropped s)
    (∀ e, r.2 = .error e → itemFails (batchComplete s) q.shoe q.seq e.1 ∧ othersStay s (batchComplete s) q.shoe q.seq) ∧
      ∀ rows, r.2 = .ok rows → othersStay s (batchComplete s) q.shoe q.seq ∧
        ∀ lv, levelOf s q.shoe q.seq q.level = some lv → levelOf (batchComplete s) q.shoe q.seq q.level = some (cmdEnded lv q.granule) := by
  obtain ⟨herr, hok⟩ := finishSearch_spec (s := batchDropped s) (q := q) hlive
  have hrun : batchComplete s = closeIndexes (finishSearch (batchDropped s) q) := by
    rw [batchComplete_windows h hc ha, batchRun, List.foldl_cons, List.foldl_nil]
  have hclose := closeIndexes_items (finishSearch (batchDropped s) q)
  rw [hrun]
  refine ⟨fun e he => ?_, fun rows hrows => ?_⟩
  · obtain ⟨hf, ho⟩ := herr e he
    exact ⟨itemFails_congr hclose hf, ho.trans (.of_items hclose)⟩
  · obtain ⟨ho, hl⟩ := hok rows hrows
    exact ⟨ho.trans (.of_items hclose), fun lv hlv => (levelOf_congr hclose _ _ _).trans (hl lv hlv)⟩

theorem onRun_id {k : State → State} {s : State} (h : k s = s) : onRun k s = .next s := by
  unfold onRun
  rw [h, ite_self]

/-- Settles O59: a search and a merge by the first check that fails, a batch by the order of admission, and its end search by search (R197, R309,
R312, R315, R317 to R320, R326; log entries 56 and 78). -/
theorem assaySearches : Obligations.AssaySearches := by
  refine ⟨fun s n seq l lv b h => ⟨fun hi => ?_, fun hi => ?_, fun hi => assaySearch_spec h hi, fun hi => assayMerge_spec h hi⟩, fun s hd => ⟨fun hidle => ?_, ?_⟩,
    fun s hd => ⟨fun hb => ?_, fun hp => ⟨fun hb => ?_, fun qs hb hgone hc ha hi => ?_, fun q hb hlive hc ha => ?_⟩⟩⟩
  · rw [assaySearch_runs n seq l s h.1, gate_other h.2.1 (by simp [asIndex, hi])]
  · rw [assayMerge_runs n seq l s h.1, gate_other h.2.1 (by simp [asIndex, hi])]
  · refine onRun_id ?_
    unfold continuousBatch
    split
    · rename_i hgo
      simp only [asyContinuous, Bool.and_eq_true, Bool.or_eq_true, Bool.not_eq_true', Option.isNone_iff_eq_none] at hgo
      obtain ⟨⟨hcont, hnone⟩, hred⟩ := hgo
      exact formBatch_none (((hidle.resolve_left (not_not.2 hcont)).resolve_left (by simp [hnone])).resolve_left (by simp [hred]))
    · rfl
  · rintro hcont hnone hred hall ⟨q, hq, hlive⟩ hp
    have hgo : continuousBatch s = formBatch s := if_pos (by simp [asyContinuous, hcont, hnone, hred])
    obtain ⟨qs, hne, hformed⟩ := formBatch_spec (admittedNow_ne (mem_waitingSearches.2 ⟨hq, hlive⟩) hall)
    exact ⟨_, continuousBatch_runs s hd hp, qs, hne, hgo ▸ hformed⟩
  · refine onRun_id (afterMoves_id ?_)
    simp only [batchComplete, hb]
  · obtain ⟨qs, hb⟩ := Option.isSome_iff_exists.1 hb
    exact ⟨_, ⟨batchComplete_drops hb, fun hc ha i hi w hw => batchComplete_closes hb hc ha hi hw⟩, batchComplete_runs s hd hp⟩
  · have hk := batchComplete_gone hb hgone hc ha hi
    rw [batchComplete_runs s hd hp, afterMoves_now (by rw [hk]; rfl), hk]
    rfl
  · obtain ⟨herr, hok⟩ := batchComplete_single hb hlive hc ha
    exact ⟨fun e he => ⟨_, herr e he, batchComplete_runs s hd hp⟩, fun rows hrows => ⟨_, hok rows hrows, batchComplete_runs s hd hp⟩⟩

end Sys2Proof
end

section
/-! SUPPORT. What writes of claim memory leave of host accesses: the functions' windows and the claims' grants (R285, R288). -/

namespace Sys2Proof

open Machine

/-- What lets a function's requests through: its bus mastering, its power state and its windows. -/
def fnAccess (f : Fn) : Bool × Bool × Vector HostWin 4 := (f.busMaster, f.d3hot, f.wins)

/-- Every function may issue the same requests, and every claim is granted the same. -/
def accessStays (s t : State) : Prop := (∀ fn, fnAccess (tget t.fns fn) = fnAccess (tget s.fns fn)) ∧ t.cl.claims = s.cl.claims

namespace accessStays

theorem of_parts {s t : State} (hf : t.fns = s.fns) (hc : t.cl = s.cl) : accessStays s t := ⟨fun _ => by rw [hf], by rw [hc]⟩

theorem refl (s : State) : accessStays s s := .of_parts rfl rfl

theorem trans {s t u : State} (h : accessStays s t) (k : accessStays t u) : accessStays s u := ⟨fun fn => (k.1 fn).trans (h.1 fn), k.2.trans h.2⟩

theorem foldl {α : Type} {f : State → α → State} (hf : ∀ u x, accessStays u (f u x)) (l : List α) (s : State) : accessStays s (l.foldl f s) := by
  induction l generalizing s with
  | nil => exact .refl s
  | cons x l ih => exact (hf s x).trans (ih _)

/-! Events (R81, R82). -/

theorem modRing (s : State) (n : Nat) (f : EvtRing → EvtRing) : accessStays s (s.modRing n f) := ⟨fun _ => rfl, rfl⟩

theorem postHost (s : State) (fn a : Nat) (bs : List Byte) : accessStays s (postHost s fn a bs) := by
  unfold Machine.postHost
  split
  · exact .of_parts rfl rfl
  · exact .refl s

theorem raiseSource (s : State) (n src : Nat) : accessStays s (raiseSource s n src) := by
  unfold Machine.raiseSource raiseVector
  dsimp only
  split
  · split
    · exact .of_parts rfl rfl
    · exact ⟨fun fn => proj_tmod s.fns _ fn (g := fnAccess) fun _ => rfl, rfl⟩
  · exact .refl s

theorem writeRecords (n type cause : Nat) (bs : List (List Byte)) (s : State) : accessStays s (writeRecords s n type cause bs) := by
  induction bs generalizing s with
  | nil => exact .refl s
  | cons b bs ih => exact (postHost s _ _ _).trans ((modRing _ n _).trans (ih _))

theorem postEvent (s : State) (n type cause : Nat) (bs : List (List Byte)) : accessStays s (postEvent s n type cause bs) := by
  unfold Machine.postEvent writeEvent eventLost
  split
  · exact modRing s n _
  · split
    · exact (writeRecords n type cause bs s).trans ((modRing _ n _).trans (raiseSource _ n _))
    · exact (modRing s n _).trans (raiseSource _ n _)

theorem postSteward (s : State) (type cause : Nat) (body : List Byte) : accessStays s (postSteward s type cause body) := by
  have hoem := mgmtOem_moves (Machine.postEvent s 8 type cause [body]) type cause body (Moves.refl 262152 _) rfl
  exact (postEvent s 8 type cause [body]).trans (.of_parts (hoem.rest .fns rfl) (hoem.rest .cl rfl))

theorem modDie (s : State) (d : Nat) (f : EccDie → EccDie) : accessStays s (s.modDie d f) := .of_parts rfl rfl

theorem modEcc (s : State) (f : Ecc → Ecc) : accessStays s (s.modEcc f) := .of_parts rfl rfl

theorem eccEvent (s : State) (loc : WordLoc) (entry kind : Nat) : accessStays s (eccEvent s loc entry kind) := by
  have hpost := postSteward s 0x0015 0 (eccBody loc entry kind 0 loc.group)
  unfold Machine.eccEvent
  dsimp only
  split
  · have halert := alertLatch_moves (Machine.postSteward s 0x0015 0 (eccBody loc entry kind 0 loc.group)) 7 (Moves.refl 262152 _) rfl
    exact hpost.trans (.of_parts (halert.rest .fns rfl) (halert.rest .cl rfl))
  · exact hpost

theorem logDetection (s : State) (loc : WordLoc) (kind source syn bit owner : Nat) : accessStays s (logDetection s loc kind source syn bit owner).1 := by
  unfold Machine.logDetection
  dsimp only
  split
  · split
    · exact (modDie s _ _).trans (eccEvent _ _ _ _)
    · exact modDie s _ _
  · split
    · exact modDie s _ _
    · exact (modDie s _ _).trans (eccEvent _ _ _ _)

theorem countCorrected (s : State) (loc : WordLoc) : accessStays s (countCorrected s loc) := by
  unfold Machine.countCorrected
  dsimp only
  split
  · exact (modDie s _ _).trans (postSteward _ _ _ _)
  · exact modDie s _ _

/-! The tiers (R195 to R204). -/

theorem modTiers (s : State) (f : Tiers → Tiers) : accessStays s (s.modTiers f) := .of_parts rfl rfl

/-- What changes the tiers alone. -/
theorem of_tiers {s t : State} (h : Moves 256 s t) : accessStays s t := .of_parts (h.rest .fns rfl) (h.rest .cl rfl)

/-- What changes the words' marks alone. -/
theorem of_ecc {s t : State} (h : Moves 8192 s t) : accessStays s t := .of_parts (h.rest .fns rfl) (h.rest .cl rfl)

theorem modPte (s : State) (t p : Nat) (f : Pte → Pte) : accessStays s (s.modPte t p f) := .of_tiers (State.modPte_moves s t p f (Moves.refl 256 s) rfl)

theorem cancelMove (s : State) (t p : Nat) : accessStays s (cancelMove s t p) := .of_tiers (cancelMove_moves s t p (Moves.refl 256 s) rfl)

theorem markCommon (s : State) (n p : Nat) : accessStays s (markCommon s n p) := modPte s 8 p _

theorem clearNeeded (s : State) (t2 : Bool) (c w : Nat) : accessStays s (clearNeeded s t2 c w) := (modTiers s _).trans (postEvent _ _ _ _ _)

theorem startDemotion (s : State) (t p : Nat) (c : Option Nat) (w : Option (Nat × Nat)) : accessStays s (startDemotion s t p c w).1 := by
  unfold Machine.startDemotion
  split
  · exact clearNeeded s _ _ _
  · refine .trans ?_ (modPte _ t p _)
    exact .of_parts rfl rfl

theorem demoteOwn (s : State) (n p : Nat) (w : Option (Nat × Nat)) : accessStays s (demoteOwn s n p w).1 := by
  unfold Machine.demoteOwn
  split
  · split
    · exact .refl s
    · exact startDemotion s _ _ _ _
  · exact .refl s

theorem commonSettle (s : State) (p : Nat) : accessStays s (commonSettle s p) := by
  unfold Machine.commonSettle
  split
  · split
    · exact .refl s
    · exact startDemotion s _ _ _ _
  · exact .refl s

theorem victimStep (s : State) (n : Nat) (h : Option Nat) (w : Option (Nat × Nat)) : accessStays s (victimStep s n h w).1 := by
  unfold Machine.victimStep
  split
  · exact .refl s
  · split
    · exact demoteOwn s _ _ _
    · exact (modPte s 8 _ _).trans (commonSettle _ _)

theorem relieveT1 (k : Nat) (s : State) (n : Nat) : accessStays s (relieveT1 k s n) := by
  induction k generalizing s with
  | zero => exact .refl s
  | succ k ih =>
    have hv := victimStep s n none none
    unfold Machine.relieveT1
    split
    · split
      · rename_i u hu
        rw [hu] at hv
        exact hv.trans (ih _)
      · rename_i u hu
        rw [hu] at hv
        exact hv
    · exact .refl s

theorem startPromotion {s u : State} {t p n : Nat} (hu : startPromotion s t p n = some u) : accessStays s u :=
  .of_tiers (startPromotion_moves s t p n hu (Moves.refl 256 s) rfl)

theorem promoteRequest (s : State) (t p n : Nat) (victims : Bool) : accessStays s (promoteRequest s t p n victims) := by
  unfold Machine.promoteRequest
  split
  · exact .refl s
  · rename_i e _
    split
    · split
      · exact .refl s
      · exact cancelMove s _ _
    · split
      · exact .refl s
      · split
        · exact .refl s
        · dsimp only
          split
          · split
            · exact startPromotion ‹_›
            · exact clearNeeded s _ _ _
          · split
            · have hv := victimStep s n (some e.heat) (some (t, p))
              generalize Machine.victimStep s n (some e.heat) (some (t, p)) = r at hv ⊢
              obtain ⟨u, b⟩ := r
              cases b with
              | true =>
                dsimp only
                split
                · split
                  · exact hv.trans (startPromotion ‹_›)
                  · exact hv.trans (clearNeeded u _ _ _)
                · exact hv
              | false => exact hv
            · exact .refl s

theorem serveWaiter (s : State) (n t p : Nat) : accessStays s (serveWaiter s n t p) := by
  unfold Machine.serveWaiter
  split
  · exact .refl s
  · split
    · exact promoteRequest s _ _ _ _
    · split
      · exact (cancelMove s _ _).trans (markCommon _ _ _)
      · exact .refl s

theorem afterPromotion (t p : Nat) (m : Move) (s : State) : accessStays s (afterPromotion t p m s) := by
  have hw : accessStays s (if t = 8 then Machine.commonSettle s p else s) := by
    split
    · exact commonSettle s p
    · exact .refl s
  unfold Sys2Proof.afterPromotion
  dsimp only
  split
  · exact hw.trans (modTiers _ _)
  · exact hw

theorem afterDemotion (m : Move) (s : State) : accessStays s (afterDemotion m s) := by
  unfold Sys2Proof.afterDemotion
  split
  · rename_i n _
    have hcount : ∀ u, accessStays s (Machine.relieveT1 16 (s.modTiers u) n) := fun u => (modTiers s u).trans (relieveT1 16 _ n)
    dsimp only
    split
    · exact (hcount _).trans (serveWaiter _ n _ _)
    · exact hcount _
  · exact .refl s

theorem setMem (s : State) (t2 : Bool) (m : List Host.Cell) : accessStays s (s.setMem t2 m) := modTiers s _

theorem setHandle (s : State) (h : Nat) (o : Option Owned) : accessStays s (s.setHandle h o) := modTiers s _

theorem setFrame (s : State) (h : Nat) (o : Option Owned) : accessStays s (s.setFrame h o) := modTiers s _

theorem dropMove (s : State) (t p : Nat) : accessStays s (dropMove s t p) := .of_tiers (dropMove_moves s t p (Moves.refl 256 s) rfl)

theorem carriedUp (s : State) (t p : Nat) (m : Move) (e : Pte) : accessStays s (carriedUp s t p m e) :=
  (dropMove s t p).trans ((setMem _ _ _).trans ((setMem _ _ _).trans (setHandle _ _ _)))

theorem carriedDown (s : State) (t p : Nat) (m : Move) (e : Pte) : accessStays s (carriedDown s t p m e) := by
  unfold Sys2Proof.carriedDown
  dsimp only
  have hbytes : ∀ b b' f o, accessStays s ((((Machine.dropMove s t p).setMem true b).setMem false b').setFrame f o) := fun _ _ _ _ =>
    (dropMove s t p).trans ((setMem _ _ _).trans ((setMem _ _ _).trans (setFrame _ _ _)))
  split
  · exact (hbytes _ _ _ _).trans (setHandle _ _ _)
  · exact hbytes _ _ _ _

theorem commitMove (s : State) (t p : Nat) : accessStays s (commitMove s t p) := by
  cases hm : moveOf s t p with
  | none =>
    rw [Machine.commitMove, hm]
    exact .refl s
  | some m =>
    cases he : pteOf s t p with
    | none =>
      rw [Machine.commitMove, hm, he]
      exact .refl s
    | some e =>
      cases hp : m.promote with
      | true =>
        rw [commitMove_up hm he hp]
        exact (carriedUp s t p m e).trans ((modPte _ t p _).trans (afterPromotion t p m _))
      | false =>
        rw [commitMove_down hm he hp]
        exact (carriedDown s t p m e).trans ((modPte _ t p _).trans (afterDemotion m _))

theorem moverReads (s : State) (t2 : Bool) (f : Nat) : accessStays s (moverReads s t2 f) := by
  unfold Machine.moverReads
  dsimp only
  split
  · refine .trans (.foldl (fun u m => ?_) _ s) (logDetection _ _ _ _ _ _ _)
    split
    · exact (countCorrected u _).trans (logDetection _ _ _ _ _ _ _)
    · exact .refl u
  · refine .foldl (fun u m => ?_) _ s
    split
    · exact (countCorrected u _).trans (logDetection _ _ _ _ _ _ _)
    · exact .refl u

theorem clearFrameMarks (s : State) (t2 : Bool) (f : Nat) : accessStays s (clearFrameMarks s t2 f) :=
  .of_ecc (clearFrameMarks_moves s t2 f (Moves.refl 8192 s) rfl)

theorem poisonWord (s : State) (t2 : Bool) (f k : Nat) : accessStays s (poisonWord s t2 f k) := .of_ecc (poisonWord_moves s t2 f k (Moves.refl 8192 s) rfl)

theorem commitCarry (s : State) (t p : Nat) : accessStays s (commitCarry s t p) := by
  unfold Machine.commitCarry
  split
  · exact ((moverReads s _ _).trans (commitMove _ t p)).trans ((clearFrameMarks _ _ _).trans ((clearFrameMarks _ _ _).trans (.foldl (fun u k => poisonWord u _ _ k) _ _)))
  · exact .refl s

/-! Writes of claim memory (R188, R189, R197). -/

theorem settleMove (s : State) (p : Place2) : accessStays s (settleMove s p) := by
  unfold Machine.settleMove
  split
  · split
    · exact commitCarry s _ _
    · exact .refl s
  · exact .refl s

theorem resizeBlock {s t : State} {h b : Nat} (ht : resizeBlock s h b = some t) : accessStays s t := by
  unfold Machine.resizeBlock at ht
  split at ht
  · obtain rfl := Option.some.inj ht
    exact .refl s
  · dsimp only at ht
    split at ht
    · obtain rfl := Option.some.inj ht
      exact .of_parts rfl rfl
    · exact nomatch ht

theorem writeBlock (s : State) (n h off : Nat) (bs : List Byte) : accessStays s (writeBlock s n h off bs).1 := by
  unfold Machine.writeBlock
  dsimp only
  split
  · exact logDetection s _ _ _ _ _ _
  · split
    · rename_i u hu
      exact (setMem s _ _).trans ((modEcc _ _).trans (resizeBlock hu))
    · split
      · exact clearNeeded s _ _ _
      · exact .refl s

theorem writeFrame (s : State) (n : Nat) (t2 : Bool) (f off : Nat) (bs : List Byte) (own : Nat) : accessStays s (writeFrame s n t2 f off bs own).1 := by
  unfold Machine.writeFrame
  split
  · exact logDetection s _ _ _ _ _ _
  · split
    · exact writeBlock s _ _ _ _
    · exact (setMem s _ _).trans (modEcc _ _)

theorem dropCached (s : State) (n p : Nat) : accessStays s (dropCached s n p) := by
  unfold Machine.dropCached
  dsimp only
  split <;> exact .of_parts rfl rfl

theorem touchPage (s : State) (n t p : Nat) : accessStays s (touchPage s n t p) := by
  have hcharge : ∀ u, accessStays s u → accessStays s (Machine.markCommon (match moveOf u 8 p with
      | some m => if m.promote then u else Machine.cancelMove u 8 p
      | none => u) n p) := by
    intro u hu
    refine .trans ?_ (markCommon _ n p)
    split
    · split
      · exact hu
      · exact hu.trans (cancelMove u _ _)
    · exact hu
  cases he : pteOf s t p with
  | none =>
    rw [Machine.touchPage, he]
    exact .refl s
  | some e =>
    have hheat := modPte s t p fun p => { p with heat := min 255 (p.heat + 1) }
    rw [Machine.touchPage, he]
    dsimp only
    generalize s.modPte t p (fun p => { p with heat := min 255 (p.heat + 1) }) = s1 at hheat ⊢
    have hcommon : ∀ r : State, accessStays s r →
        accessStays s (if r.tiers.auto ∧ e.tier2 ∧ e.heat < 255 ∧ r.tiers.promote ≤ e.heat + 1 ∧ n < 8 then Machine.promoteRequest r t p n true else r) := by
      intro r hr
      split
      · exact hr.trans (promoteRequest r _ _ _ _)
      · exact hr
    apply hcommon
    split
    · split
      · exact hheat.trans (markCommon s1 n p)
      · split
        · exact hcharge s1 hheat
        · split
          · exact hheat
          · have hv := hheat.trans (victimStep s1 n (some (min 255 (e.heat + 1))) (some (8, p)))
            generalize Machine.victimStep s1 n (some (min 255 (e.heat + 1))) (some (8, p)) = r at hv ⊢
            obtain ⟨u, b⟩ := r
            cases b with
            | true =>
              dsimp only
              split
              · exact hcharge u hv
              · exact hv
            | false => exact hv
    · exact hheat

theorem touchPlace (s : State) (n : Nat) (p : Place2) (heat : Bool) : accessStays s (touchPlace s n p heat) := by
  unfold Machine.touchPlace
  split
  · exact touchPage s _ _ _
  · exact .refl s

theorem writePieces (n : Nat) (heat : Bool) (ps : List Piece) (bs : List Byte) (s : State) : accessStays s (writePieces n heat ps bs s).1 := by
  induction ps generalizing bs s with
  | nil => exact .refl s
  | cons x ps ih =>
    unfold Machine.writePieces
    split
    · exact .refl s
    · rename_i p0 _
      have hsettle := settleMove s p0
      dsimp only
      split
      · exact hsettle
      · rename_i p _
        have hframe := writeFrame (Machine.settleMove s p0) n p.tier2 p.frame p.off (bs.take x.len) (accessOwner n p)
        split
        · rename_i u _ hw
          rw [hw] at hframe
          exact hsettle.trans hframe
        · rename_i u _ hw
          rw [hw] at hframe
          exact (hsettle.trans hframe).trans ((dropCached u n _).trans ((touchPlace _ n p _).trans (ih _ _)))

theorem writeClaim (s : State) (n va : Nat) (bs : List Byte) : accessStays s (writeClaim s n va bs).1 := writePieces n true _ bs s

/-! What host accesses and the tally window then allow. -/

theorem winOk {s t : State} (h : accessStays s t) (fn a n : Nat) : winOk t fn a n = winOk s fn a n := by
  have hw : (tget t.fns fn).wins = (tget s.fns fn).wins := congrArg (fun x => x.2.2) (h.1 fn)
  unfold Machine.winOk
  rw [hw]

theorem canIssue {s t : State} (h : accessStays s t) (fn : Nat) : canIssue t fn = canIssue s fn := by
  have hm : (tget t.fns fn).busMaster = (tget s.fns fn).busMaster := congrArg (fun x => x.1) (h.1 fn)
  have hd : (tget t.fns fn).d3hot = (tget s.fns fn).d3hot := congrArg (fun x => x.2.1) (h.1 fn)
  unfold Machine.canIssue
  dsimp only
  rw [hm, hd]

theorem hostWritable {s t : State} (h : accessStays s t) (hs : t.sync = s.sync) (c n : Nat) : hostWritable t c n = hostWritable s c n := by
  unfold Machine.hostWritable State.claim
  rw [h.2, hs]

end accessStays

end Sys2Proof
end

section
/-! SUPPORT. Queue pairs under completion records and answers: what their queues keep, and when they are in ERR (R303). -/

namespace Sys2Proof

open Machine

section Becomes

variable {s t u : State} {c h : Nat} {q : Qp}

theorem findQp_of_qps (ht : t.net.qps = s.net.qps) (a b : Nat) : findQp t a b = findQp s a b := by
  unfold findQp
  rw [ht]

/-- The queue pair that a change of itself leaves. -/
theorem findQp_modQp_same {f : Qp → Qp} (hk : ∀ q, (f q).claim = q.claim ∧ (f q).handle = q.handle) (hq : findQp s c h = some q) :
    findQp (s.modQp c h f) c h = some (f q) := by
  rw [findQp_modQp hk, if_pos ⟨rfl, rfl⟩, hq]
  rfl

theorem qpBecomes_modQp {f : Qp → Qp} (hk : ∀ q, (f q).claim = q.claim ∧ (f q).handle = q.handle) (hq : findQp s c h = some q) :
    qpBecomes s (s.modQp c h f) c h (f q) :=
  ⟨findQp_modQp_same hk hq, fun a k hak => by rw [findQp_modQp hk, if_neg (by omega)]⟩

/-- What keeps the queue pairs keeps what has become of one. -/
theorem qpBecomes.keep (h1 : qpBecomes s t c h q) (hu : u.net.qps = t.net.qps) : qpBecomes s u c h q :=
  ⟨(findQp_of_qps hu c h).trans h1.1, fun a k hak => (findQp_of_qps hu a k).trans (h1.2 a k hak)⟩

theorem qpBecomes.from_net (h1 : qpBecomes u t c h q) (hu : u.net = s.net) : qpBecomes s t c h q :=
  ⟨h1.1, fun a k hak => (h1.2 a k hak).trans (findQp_of_qps (by rw [hu]) a k)⟩

theorem qpDead.keep (h1 : qpDead t c h) (hu : u.net.qps = t.net.qps) : qpDead u c h := by
  obtain ⟨q, hq, hq'⟩ := h1
  exact ⟨q, (findQp_of_qps hu c h).trans hq, hq'⟩

end Becomes

/-! Completion records (R303). -/

/-- The queue pairs differ in their completion queues alone, and some may have entered ERR. -/
def RecordsOnly (s t : State) : Prop :=
  ∀ a b q, findQp s a b = some q → ∃ q', findQp t a b = some q' ∧ qpWork q' = qpWork q ∧ (q'.st = q.st ∨ q'.st = .err)

namespace RecordsOnly

theorem of_net {s t : State} (h : t.net = s.net) : RecordsOnly s t := fun a b q hq => ⟨q, (findQp_of_qps (by rw [h]) a b).trans hq, rfl, .inl rfl⟩

theorem refl (s : State) : RecordsOnly s s := .of_net rfl

theorem trans {s t u : State} (h : RecordsOnly s t) (k : RecordsOnly t u) : RecordsOnly s u := fun a b q hq => by
  obtain ⟨q', hq', hwork, hst⟩ := h a b q hq
  obtain ⟨q'', hq'', kwork, kst⟩ := k a b q' hq'
  refine ⟨q'', hq'', kwork.trans hwork, ?_⟩
  rcases kst with e | e
  · rw [e]
    exact hst
  · exact .inr e

theorem modQp (s : State) (c h : Nat) {f : Qp → Qp} (hf : ∀ q, qpWork (f q) = qpWork q) (hs : ∀ q, (f q).st = q.st ∨ (f q).st = .err) : RecordsOnly s (s.modQp c h f) := by
  have hk : ∀ q, (f q).claim = q.claim ∧ (f q).handle = q.handle := fun q =>
    ⟨show (qpWork (f q)).claim = (qpWork q).claim by rw [hf], show (qpWork (f q)).handle = (qpWork q).handle by rw [hf]⟩
  intro a b q hq
  rw [findQp_modQp hk, hq]
  split
  · exact ⟨f q, rfl, hf q, hs q⟩
  · exact ⟨q, rfl, rfl, .inl rfl⟩

theorem writeCqe (s : State) (c h : Nat) (q : Qp) (r : List Byte × Nat) : RecordsOnly s (writeCqe s c h q r) := by
  unfold Machine.writeCqe
  dsimp only
  split
  · exact (modQp s c h (by intro _; rfl) (by intro _; exact .inr rfl)).trans (.of_net (completionPoison_net _ _ _ _))
  · exact (of_net (postHost_net s _ _ _)).trans ((modQp _ c h (by intro _; rfl) (by intro _; exact .inl rfl)).trans (.of_net (completionAdd_net _ _ _)))

theorem drainRecords (c h n : Nat) (s : State) : RecordsOnly s (drainRecords c h n s) := by
  induction n generalizing s with
  | zero => exact .refl s
  | succ n ih =>
    unfold Machine.drainRecords
    split
    · exact .refl s
    · split
      · exact .refl s
      · split
        · exact .refl s
        · exact (writeCqe s c h _ _).trans (ih _)

theorem pushRecord (s : State) (c h : Nat) (r : List Byte) (t : Nat) : RecordsOnly s (pushRecord s c h r t) :=
  (modQp s c h (by intro _; rfl) (by intro _; exact .inl rfl)).trans (drainRecords c h _ _)

end RecordsOnly

section Push

variable {s : State} {c h : Nat} {q : Qp}

/-- A record that a window holds is written without an error (R285). -/
theorem writeCqe_st (hq : findQp s c h = some q) (hw : winOk s (fnOf c) (field q.ctx 0x38 8 + 32 * q.cqProduce) 32 = true) (r : List Byte × Nat) :
    ∃ q', findQp (writeCqe s c h q r) c h = some q' ∧ q'.st = q.st := by
  unfold writeCqe
  simp only [hw, Bool.not_true, Bool.false_eq_true, if_false]
  refine ⟨_, (findQp_of_qps (by rw [completionAdd_net]) c h).trans (findQp_modQp_same (by intro _; exact ⟨rfl, rfl⟩) ((findQp_of_qps (by rw [postHost_net]) c h).trans hq)), rfl⟩

/-- Where no record waits and the next one's place lies in a window, a record that falls due leaves the state. -/
theorem pushRecord_st (hq : findQp s c h = some q) (hr : q.records = []) (hw : winOk s (fnOf c) (field q.ctx 0x38 8 + 32 * q.cqProduce) 32 = true)
    (b : List Byte) (n : Nat) : ∃ q', findQp (pushRecord s c h b n) c h = some q' ∧ q'.st = q.st := by
  have hput : findQp (s.modQp c h fun q => { q with records := q.records ++ [(b, n)] }) c h = some { q with records := [(b, n)] } := by
    rw [findQp_modQp_same (f := fun q => { q with records := q.records ++ [(b, n)] }) (fun _ => ⟨rfl, rfl⟩) hq, hr]
    rfl
  unfold pushRecord
  dsimp only
  rw [hput]
  show ∃ q', findQp (drainRecords c h 1 _) c h = some q' ∧ q'.st = q.st
  unfold drainRecords
  rw [hput]
  dsimp only
  split
  · exact ⟨_, hput, rfl⟩
  · exact writeCqe_st hput hw (b, n)

/-! Entering ERR (R303). -/

theorem settleErr_id (hq : findQp s c h = some q) (hn : ¬ (q.st = .err ∧ !(q.sent ++ q.waiting ++ q.recvs).isEmpty)) : settleErr s c h = s := by
  rw [settleErr, hq]
  exact if_neg hn

/-- A queue pair's name and the sequence it expects. -/
def qpSeq (q : Qp) : Nat × Nat × Nat := (q.claim, q.handle, q.rqPsn)

theorem qpsAlike.seq {s t : State} (h : qpsAlike qpWork s t) : qpsAlike qpSeq s t := by
  have := congrArg (List.map qpSeq) h
  rw [List.map_map, List.map_map] at this
  exact this

theorem enterErr_seq (s : State) (c h : Nat) : qpsAlike qpSeq s (enterErr s c h) := by
  unfold enterErr
  split
  · exact .refl _ _
  · exact (qpsAlike.modQp _ _ _ _ (by intro _; rfl)).trans
      (qpsAlike.seq ((drains_foldl (fun u w => failWqe_drains u c h false _ w) _ _).trans (drains_foldl (fun u w => failWqe_drains u c h true _ w) _ _)).1)

/-- Entering ERR keeps the expected sequence (R298). -/
theorem enterErr_rqPsn {q' : Qp} (hq : findQp s c h = some q) (hq' : findQp (enterErr s c h) c h = some q') : q'.rqPsn = q.rqPsn := by
  have hseq := findQp_alike (fun x : Nat × Nat × Nat => (x.1, x.2.1)) (fun _ => rfl) (enterErr_seq s c h) c h
  rw [hq, hq'] at hseq
  exact congrArg (fun x => x.2.2) (Option.some.inj hseq)

/-- After a record has fallen due the queue pair goes on as it was, or is in ERR without work. -/
theorem settleErr_takes (hq : findQp s c h = some q) :
    ∃ q', findQp (settleErr s c h) c h = some q' ∧ q'.rqPsn = q.rqPsn ∧ (q' = q ∨ q.st = .err) ∧
      (q.st = .err → q'.st = .err ∧ q'.waiting = [] ∧ q'.sent = [] ∧ q'.recvs = []) := by
  by_cases hn : q.st = .err ∧ (!(q.sent ++ q.waiting ++ q.recvs).isEmpty) = true
  · obtain ⟨q', hq', hst, hwait, hsent, hrecv, -⟩ := enterErr_dead hq
    rw [settleErr, hq]
    dsimp only
    rw [if_pos hn]
    exact ⟨q', hq', enterErr_rqPsn hq hq', .inr hn.1, fun _ => ⟨hst, hwait, hsent, hrecv⟩⟩
  · rw [settleErr_id hq hn]
    refine ⟨q, hq, rfl, .inl rfl, fun he => ?_⟩
    have hnone : q.sent ++ q.waiting ++ q.recvs = [] := by simpa [he] using hn
    obtain ⟨hsw, hrecv⟩ := List.append_eq_nil_iff.1 hnone
    obtain ⟨hsent, hwait⟩ := List.append_eq_nil_iff.1 hsw
    exact ⟨he, hwait, hsent, hrecv⟩

end Push

/-! The responder's answers. -/

theorem sendRoce_only (s : State) (q : Qp) (k d : Nat) (fs : List Nat) (b : List Byte) : OnlyParts [.net, .out] s (sendRoce s q k d fs b) := by
  have hm := sendRoce_moves s q k d fs b (Moves.refl 1048584 s) rfl
  exact hm.only (covers_spec rfl)

theorem sendRoce_out {s : State} {q : Qp} (hp : portSends s q.port) (k d : Nat) (fs : List Nat) (b : List Byte) :
    sendRoce s q k d fs b = s.emit (rocePacket s q k d fs b) := by
  obtain ⟨hup, hpause⟩ := hp
  unfold ethPort at hup hpause
  unfold sendRoce
  dsimp only
  rw [if_neg (by simp [hup]), if_neg (by simpa using hpause)]

/-- A packet of a queue pair is written from the ports' identities and the image's addresses alone (R295). -/
theorem rocePacket_congr {s t : State} (hp : t.net.ports = s.net.ports) (hi : t.image = s.image) (q : Qp) (k d : Nat) (fs : List Nat) (b : List Byte) :
    rocePacket t q k d fs b = rocePacket s q k d fs b := by
  unfold rocePacket roceAddr portMac
  rw [hp, hi]

theorem portSends_congr {s t : State} {p : Nat} (hp : t.net.ports = s.net.ports) (he : t.net.pfcEnable = s.net.pfcEnable) : portSends t p ↔ portSends s p := by
  unfold portSends ethPort
  rw [hp, he]

/-- Packets of a queue pair leave one after the other where its port sends. -/
theorem sendRoce_run {α : Type} {q : Qp} (k d : Nat) (fs : α → List Nat) (b : α → List Byte) (l : List α) {s : State} (hp : portSends s q.port) :
    (l.foldl (fun s x => sendRoce s q k d (fs x) (b x)) s).out = s.out ++ l.map fun x => rocePacket s q k d (fs x) (b x) := by
  induction l generalizing s with
  | nil => exact (List.append_nil _).symm
  | cons x l ih =>
    rw [List.foldl_cons, sendRoce_out hp, ih (s := s.emit _) hp, List.map_cons, State.emit_out, List.append_assoc]
    rfl

theorem sendRoce_run_qps {α : Type} (q : Qp) (k d : Nat) (fs : α → List Nat) (b : α → List Byte) (l : List α) (s : State) :
    (l.foldl (fun s x => sendRoce s q k d (fs x) (b x)) s).net.qps = s.net.qps := by
  induction l generalizing s with
  | nil => rfl
  | cons x l ih => rw [List.foldl_cons, ih, sendRoce_qps]

/-- A request that passed moves the expected sequence on (R298). -/
theorem acceptPsn_becomes {s : State} {c h : Nat} {q' : Qp} (hq : findQp s c h = some q') (k : Nat) (q : Qp) :
    qpBecomes s (acceptPsn s c h k q) c h { q' with rqPsn := (q'.rqPsn + k) % 2 ^ 24 } :=
  (qpBecomes_modQp (f := fun q' => { q' with rqPsn := (q'.rqPsn + k) % 2 ^ 24 }) (fun _ => ⟨rfl, rfl⟩) hq).keep (sendRoce_qps _ _ _ _ _ _)

/-- A message whose receive entry takes it, whose record falls due and whose sequence moves on (R301, R303). -/
theorem recvTaken_of {s s1 : State} {c h : Nat} {q : Qp} {ws : List Wqe} (hq : findQp s1 c h = some { q with recvs := ws }) (hst : q.st ≠ .err)
    (hwin : ∀ a, winOk s1 (fnOf c) a 32 = winOk s (fnOf c) a 32) (b : List Byte) (n len : Nat) :
    recvTaken s (acceptPsn (settleErr (pushRecord s1 c h b n) c h) c h (packetCount q.mtu len) q) c h q ws len := by
  obtain ⟨q2, hq2, hwork, hst2⟩ := RecordsOnly.pushRecord s1 c h b n c h _ hq
  obtain ⟨q3, hq3, hseq, hsame, herr⟩ := settleErr_takes hq2
  have hpsn : q3.rqPsn = q.rqPsn := hseq.trans (show (qpWork q2).rqPsn = q.rqPsn by rw [hwork]; rfl)
  have hrecvs : q2.recvs = ws := show (qpWork q2).recvs = ws by rw [hwork]; rfl
  have hgoes : q2.st = q.st → q3.st = q.st ∧ q3.recvs = ws := fun e => by
    rcases hsame with rfl | he
    · exact ⟨e, hrecvs⟩
    · exact absurd (e.symm.trans he) hst
  refine ⟨_, (acceptPsn_becomes hq3 _ q).1, by rw [hpsn], ?_, fun hr hw => ?_⟩
  · rcases hst2 with e | e
    · exact .inl (hgoes e)
    · exact .inr (herr e)
  · obtain ⟨q4, hq4, hst4⟩ := pushRecord_st hq hr ((hwin _).trans hw) b n
    obtain rfl := Option.some.inj (hq4.symm.trans hq2)
    exact hgoes hst4

end Sys2Proof
end

section
/-! SUPPORT. The requester: acknowledgements and NAKs, its timers and its rate (R298, R303, R305). -/

namespace Sys2Proof

open Machine

/-! Commands that wait for the moves their writes meet (R197). -/

section Later

variable {i : Instr} {s : State} {k : State → State} {P : State → Prop}

theorem runs_now (hi : exec i s = .next (afterMoves k s)) (ht : (k s).tiers = s.tiers) (hp : P (k s)) : Runs i s P :=
  ⟨k s, hi.trans (congrArg _ (afterMoves_now ht)), hp⟩

theorem runs_later (hi : exec i s = .next (afterMoves k s)) (hp : P (k s)) : RunsAfterMoves i s P := ⟨k s, hp, hi⟩

theorem runs_either (hi : exec i s = .next (afterMoves k s)) (hs : P s) (hk : P (k s)) : Runs i s P := by
  refine ⟨_, hi, ?_⟩
  unfold afterMoves
  dsimp only
  split
  · exact hs
  · exact hk

theorem stays_now (hi : exec i s = .next (afterMoves k s)) (hk : k s = s) : exec i s = .next s := hi.trans (congrArg _ (afterMoves_id hk))

end Later

section Requester

variable {s : State} {c h psn : Nat} {q : Qp} {w : Wqe} {ws : List Wqe}

theorem placeRead_net (s : State) (c : Nat) (w : Wqe) (d : List Byte) : (placeRead s c w d).1.net = s.net := by
  unfold placeRead
  split
  · split
    · split
      · rfl
      · exact postHost_net s _ _ _
    · rfl
  · exact writeClaim_net s _ _ _ _

theorem ackEntries_alike (c h psn n : Nat) (reads : List (List Byte)) (s : State) : qpsAlike qpFixed s (ackEntries c h psn n reads s) := by
  induction n generalizing reads s with
  | zero => exact .refl _ _
  | succ n ih =>
    unfold ackEntries
    split
    · exact .refl _ _
    · split
      · exact .refl _ _
      · rename_i w ws _
        have htaken : qpsAlike qpFixed s (s.modQp c h fun q => { q with sent := ws }) := .modQp _ _ _ _ (by intro _; rfl)
        split
        · exact .refl _ _
        · split
          · exact .refl _ _
          · split
            · split
              · exact .refl _ _
              · rename_i d ds
                have hput := htaken.trans (.of_net _ (placeRead_net (s.modQp c h fun q => { q with sent := ws }) c w d))
                generalize placeRead (s.modQp c h fun q => { q with sent := ws }) c w d = r at hput ⊢
                obtain ⟨u, e | _⟩ := r
                · exact hput.trans (failEntry_alike _ _ _ _ _ _).fixed
                · exact hput.trans ((completeWqe_alike _ _ _ _).fixed.trans (ih _ _))
            · exact htaken.trans ((completeWqe_alike _ _ _ _).fixed.trans (ih _ _))

/-- An acknowledgement short of the oldest request completes nothing (R303). -/
theorem ackEntries_short (hq : findQp s c h = some q) (hs : q.sent = w :: ws) (hp : psnAtLeast psn (w.psn + w.packets - 1) = false) (n : Nat)
    (reads : List (List Byte)) : ackEntries c h psn n reads s = s := by
  cases n with
  | zero => rfl
  | succ n =>
    unfold ackEntries
    rw [hq]
    dsimp only
    rw [hs]
    dsimp only
    rw [hp]
    rfl

/-- An acknowledgement that covers the only request, which is no READ, completes it (R303). -/
theorem ackEntries_only (hq : findQp s c h = some q) (hs : q.sent = [w]) (hp : psnAtLeast psn (w.psn + w.packets - 1) = true) (ho : wOp w.bytes ≠ 5)
    (reads : List (List Byte)) : ackEntries c h psn 1 reads s = completeWqe (s.modQp c h fun q => { q with sent := [] }) c h w := by
  unfold ackEntries
  rw [hq]
  dsimp only
  rw [hs]
  dsimp only
  rw [hp, if_neg (by decide), if_neg (fun h => ho h.1), if_neg ho]
  rfl

/-- A queue pair with nothing waiting reads and starts nothing without answers at hand. -/
theorem runSq_idle (hq : findQp s c h = some q) (hr : q.records = []) (hw : q.waiting = []) : runSq c h [] s = s := by
  have hdrain : drainRecords c h (((findQp s c h).map fun q => q.records.length).getD 0) s = s := by
    rw [hq, Option.map_some, Option.getD_some, hr]
    rfl
  unfold runSq
  rw [hdrain]
  dsimp only
  rw [hq, Option.map_some, Option.getD_some, hw]
  rfl

theorem roceAck_off (hq : findQp s c h = some q) (ho : q.st ≠ .rts ∨ s.redealing = true) (psn : Nat) (reads : List (List Byte)) (feeds : List (HostResp × HostResp)) :
    roceAck s c h psn reads feeds = s := by
  rw [roceAck, hq]
  refine if_neg fun hon => ?_
  rcases ho with e | e
  · exact e hon.1
  · simp [e] at hon

theorem roceNak_off (hq : findQp s c h = some q) (ho : q.st ≠ .rts ∨ s.redealing = true) (psn code : Nat) (reads : List (List Byte)) :
    roceNak s c h psn code reads = s := by
  rw [roceNak, hq]
  exact if_pos ho

theorem roceAck_on (hq : findQp s c h = some q) (hst : q.st = .rts) (hr : s.redealing = false) (psn : Nat) (reads : List (List Byte)) (feeds : List (HostResp × HostResp)) :
    roceAck s c h psn reads feeds = runSq c h feeds (ackEntries c h psn q.sent.length reads s) := by
  rw [roceAck, hq]
  exact if_pos ⟨hst, by rw [hr]; rfl⟩

theorem roceAck_alike (s : State) (c h psn : Nat) (reads : List (List Byte)) (feeds : List (HostResp × HostResp)) : qpsAlike qpFixed s (roceAck s c h psn reads feeds) := by
  unfold roceAck
  split
  · exact .refl _ _
  · split
    · exact (ackEntries_alike _ _ _ _ _ _).trans (runSq_alike _ _ _ _)
    · exact .refl _ _

theorem roceAck_only (hq : findQp s c h = some q) (hst : q.st = .rts) (hr : s.redealing = false) (hs : q.sent = [w])
    (hp : psnAtLeast psn (w.psn + w.packets - 1) = true) (hrec : q.records = []) (hwait : q.waiting = []) (ho : wOp w.bytes ≠ 5) (hsig : wSignal w.bytes = false)
    (reads : List (List Byte)) : roceAck s c h psn reads [] = completionAdd (s.modQp c h fun q => { q with sent := [] }) c (wTally w.bytes) := by
  have hdone : findQp (completionAdd (s.modQp c h fun q => { q with sent := [] }) c (wTally w.bytes)) c h = some { q with sent := [] } :=
    (findQp_of_qps (by rw [completionAdd_net]) c h).trans (findQp_modQp_same (f := fun q => { q with sent := [] }) (fun _ => ⟨rfl, rfl⟩) hq)
  rw [roceAck_on hq hst hr, hs, List.length_singleton, ackEntries_only hq hs hp ho, completeWqe, hsig]
  exact runSq_idle hdone hrec hwait

/-! Requests that are sent again or fail (R298, R303). -/

theorem resendAll_qps (s : State) (c h : Nat) : (resendAll s c h).net.qps = s.net.qps := by
  unfold resendAll
  split
  · rfl
  · rename_i q hq
    clear hq
    generalize q.sent = l
    induction l generalizing s with
    | nil => rfl
    | cons w l ih => rw [List.foldl_cons, ih, sendRequest_qps]

theorem retryHead_again (hq : findQp s c h = some q) (hs : q.sent = w :: ws) (ht : w.tries < field q.ctx 0x44 1) :
    qpBecomes s (retryHead s c h) c h { q with sent := { w with tries := w.tries + 1 } :: ws } := by
  unfold retryHead
  rw [hq]
  dsimp only
  rw [hs]
  dsimp only
  rw [if_pos ht]
  exact (qpBecomes_modQp (f := fun q => { q with sent := { w with tries := w.tries + 1 } :: ws }) (fun _ => ⟨rfl, rfl⟩) hq).keep (resendAll_qps _ c h)

/-- The oldest request fails with a cause and takes its queue pair into ERR. -/
theorem failHead_dead (hq : findQp s c h = some q) (ws : List Wqe) (k : Nat) (w : Wqe) :
    qpDead (failEntry (s.modQp c h fun q => { q with sent := ws }) c h false k w) c h :=
  failEntry_dead (findQp_modQp_same (f := fun q => { q with sent := ws }) (fun _ => ⟨rfl, rfl⟩) hq) false k w

theorem retryHead_dead (hq : findQp s c h = some q) (hs : q.sent = w :: ws) (ht : field q.ctx 0x44 1 ≤ w.tries) : qpDead (retryHead s c h) c h := by
  unfold retryHead
  rw [hq]
  dsimp only
  rw [hs]
  dsimp only
  rw [if_neg (Nat.not_lt.2 ht)]
  exact failHead_dead hq ws _ w

theorem retryHead_tiers (s : State) (c h : Nat) : (retryHead s c h).tiers = s.tiers := (retryHead_moves s c h (Moves.refl 1099400 s) rfl).rest .tiers rfl

/-- A NAK that completes nothing, by its code (log entry 82). -/
theorem roceNak_head (hq : findQp s c h = some q) (hst : q.st = .rts) (hr : s.redealing = false) (hs : q.sent = w :: ws)
    (hp : psnAtLeast ((psn + 2 ^ 24 - 1) % 2 ^ 24) (w.psn + w.packets - 1) = false) (code : Nat) (reads : List (List Byte)) :
    roceNak s c h psn code reads = if code = 0 then retryHead s c h else if code = 1 then s.modQp c h fun q => { q with rnrWait := true }
      else failEntry (s.modQp c h fun q => { q with sent := ws }) c h false (if code = 2 then 0x0421 else 0x0422) w := by
  unfold roceNak
  rw [hq]
  dsimp only
  rw [if_neg (by simp [hst, hr]), ackEntries_short hq hs hp, hq, Option.map_some, hs]

/-! The timers (R298, R303). -/

theorem ackTimeout_off (hq : findQp s c h = some q) (ho : q.st ≠ .rts ∨ field q.ctx 0x43 1 = 0 ∨ q.rnrWait = true ∨ q.sent = []) : ackTimeout s c h = s := by
  rw [ackTimeout, hq]
  dsimp only
  split
  · rename_i hon
    obtain ⟨hst, hf, hw⟩ := hon
    obtain hs : q.sent = [] := by
      rcases ho with e | e | e | e
      · exact absurd hst e
      · exact absurd e hf
      · rw [e] at hw
        exact absurd hw (by decide)
      · exact e
    rw [retryHead, hq]
    dsimp only
    rw [hs]
  · rfl

theorem ackTimeout_on (hq : findQp s c h = some q) (hst : q.st = .rts) (hf : field q.ctx 0x43 1 ≠ 0) (hw : q.rnrWait = false) : ackTimeout s c h = retryHead s c h := by
  rw [ackTimeout, hq]
  exact if_pos ⟨hst, hf, by rw [hw]; rfl⟩

theorem rnrExpiry_off (hq : findQp s c h = some q) (hw : q.rnrWait = false) : rnrExpiry s c h = s := by
  rw [rnrExpiry, hq]
  exact if_pos (by rw [hw]; rfl)

theorem rnrExpiry_again (hq : findQp s c h = some q) (hw : q.rnrWait = true) (hs : q.sent = w :: ws) (hn : field q.ctx 0x45 1 = 7 ∨ w.rnrTries < field q.ctx 0x45 1) :
    qpBecomes s (rnrExpiry s c h) c h { q with rnrWait := false, sent := { w with rnrTries := w.rnrTries + 1 } :: ws } := by
  unfold rnrExpiry
  rw [hq]
  dsimp only
  rw [if_neg (by rw [hw]; decide), hs]
  dsimp only
  rw [if_pos hn]
  exact (qpBecomes_modQp (f := fun q => { q with rnrWait := false, sent := { w with rnrTries := w.rnrTries + 1 } :: ws }) (fun _ => ⟨rfl, rfl⟩) hq).keep
    (resendAll_qps _ c h)

theorem rnrExpiry_dead (hq : findQp s c h = some q) (hw : q.rnrWait = true) (hs : q.sent = w :: ws) (h7 : field q.ctx 0x45 1 ≠ 7) (hn : field q.ctx 0x45 1 ≤ w.rnrTries) :
    qpDead (rnrExpiry s c h) c h := by
  unfold rnrExpiry
  rw [hq]
  dsimp only
  rw [if_neg (by rw [hw]; decide), hs]
  dsimp only
  rw [if_neg (by omega)]
  exact failHead_dead hq ws _ w

/-! The rate and CNPs (R305). -/

theorem modQp_only (s : State) (c h : Nat) (f : Qp → Qp) : OnlyParts [.net] s (s.modQp c h f) := netOnly s _

theorem cnpReceived_becomes (hq : findQp s c h = some q) :
    qpBecomes s (cnpReceived s c h) c h
      (if (∃ x, q.lastCut = some x ∧ s.now < x + 50000) then q else { q with rate := max 1000 (q.rate / 2), lastCut := some s.now }) := by
  have hcut : (if (∃ x, q.lastCut = some x ∧ s.now < x + 50000) then q else { q with rate := max 1000 (q.rate / 2), lastCut := some s.now }) =
      match q.lastCut with
      | some t => if s.now < t + 50000 then q else { q with rate := max 1000 (q.rate / 2), lastCut := some s.now }
      | none => { q with rate := max 1000 (q.rate / 2), lastCut := some s.now } := by
    cases hl : q.lastCut with
    | none => simp
    | some x => simp
  rw [hcut]
  refine qpBecomes_modQp (fun q => ?_) hq
  cases q.lastCut with
  | none => exact ⟨rfl, rfl⟩
  | some x =>
    dsimp only
    split <;> exact ⟨rfl, rfl⟩

theorem cePacket_off (hq : findQp s c h = some q) (ho : (∃ x, q.lastCnp = some x ∧ s.now < x + 50000) ∨ qpHeld s q = true) : cePacket s c h = s := by
  rw [cePacket, hq]
  refine if_neg ?_
  rcases ho with ⟨x, hx, hlt⟩ | hheld
  · simp only [hx, decide_eq_false (Nat.not_le.2 hlt)]
    simp
  · rw [hheld]
    simp

theorem cePacket_on (hq : findQp s c h = some q) (hdue : ∀ x, q.lastCnp = some x → x + 50000 ≤ s.now) (hheld : qpHeld s q = false) :
    cePacket s c h = sendRoce (s.modQp c h fun q => { q with lastCnp := some s.now }) q 6 s.net.cnpDscp [q.destQpn] [] := by
  rw [cePacket, hq]
  refine if_pos ?_
  cases hl : q.lastCnp with
  | none => simp [hheld]
  | some x => simp [hheld, hdue x hl]

end Requester

end Sys2Proof
end

section
/-! SUPPORT. The responder: requests in sequence and out of it, receive entries, RDMA writes and reads (R298, R301, R302, R304). -/

namespace Sys2Proof

open Machine

section Sequence

variable {s : State} {c h psn : Nat} {q : Qp}

/-- A queue pair that is ready and not held takes packets (R298, R304). -/
theorem mayAnswer (hst : q.st = .rtr ∨ q.st = .rts) (hheld : qpHeld s q = false) : ¬ (!(q.st = .rtr || q.st = .rts) || qpHeld s q) = true := by
  rcases hst with e | e <;> simp [e, hheld]

theorem atPsn_taken (ht : qpTakes s c h psn q) (k : Qp → State) : atPsn s c h psn k = k q := by
  obtain ⟨-, hq, hst, hheld, hpsn⟩ := ht
  rw [atPsn, hq]
  dsimp only
  rw [if_neg (mayAnswer hst hheld), if_pos hpsn]

theorem atPsn_discards (hq : findQp s c h = some q) (ho : (q.st ≠ .rtr ∧ q.st ≠ .rts) ∨ qpHeld s q = true) (k : Qp → State) : atPsn s c h psn k = s := by
  rw [atPsn, hq]
  refine if_pos ?_
  rcases ho with ⟨hr, hs⟩ | hheld
  · simp [hr, hs]
  · simp [hheld]

theorem atPsn_duplicate (hq : findQp s c h = some q) (hst : q.st = .rtr ∨ q.st = .rts) (hheld : qpHeld s q = false) (hne : psn % 2 ^ 24 ≠ q.rqPsn)
    (hp : psnAtLeast q.rqPsn psn = true) (k : Qp → State) :
    atPsn s c h psn k = sendRoce s q 2 q.dscp [q.destQpn, (q.rqPsn + 2 ^ 24 - 1) % 2 ^ 24] [] := by
  rw [atPsn, hq]
  dsimp only
  rw [if_neg (mayAnswer hst hheld), if_neg hne, if_pos hp]
  rfl

theorem atPsn_ahead (hq : findQp s c h = some q) (hst : q.st = .rtr ∨ q.st = .rts) (hheld : qpHeld s q = false) (hne : psn % 2 ^ 24 ≠ q.rqPsn)
    (hp : psnAtLeast q.rqPsn psn = false) (k : Qp → State) : atPsn s c h psn k = sendRoce s q 3 q.dscp [q.destQpn, q.rqPsn, 0] [] := by
  rw [atPsn, hq]
  dsimp only
  rw [if_neg (mayAnswer hst hheld), if_neg hne, if_neg (by rw [hp]; decide)]
  rfl

theorem sendRoce_tiers (s : State) (q : Qp) (k d : Nat) (fs : List Nat) (b : List Byte) : (sendRoce s q k d fs b).tiers = s.tiers :=
  (sendRoce_moves s q k d fs b (Moves.refl 1048584 s) rfl).rest .tiers rfl

theorem justSends_of {i : Instr} {k d : Nat} {fs : List Nat} (hi : exec i s = .next (sendRoce s q k d fs [])) : justSends i s q k d fs :=
  ⟨_, hi, sendRoce_qps _ _ _ _ _ _, sendRoce_only _ _ _ _ _ _, fun hp => by rw [sendRoce_out hp, State.emit_out]⟩

theorem justSends_now {i : Instr} {k : State → State} {n d : Nat} {fs : List Nat} (hi : exec i s = .next (afterMoves k s)) (hk : k s = sendRoce s q n d fs []) :
    justSends i s q n d fs :=
  justSends_of (hi.trans (congrArg _ ((afterMoves_now (by rw [hk, sendRoce_tiers])).trans hk)))

/-- A request's packet is handled by its sequence (R298). -/
theorem request_exec {i : Instr} (hd : diesUp s = true)
    (hi : (∃ d imm, i = .roceSendReceived c h psn d imm []) ∨ (∃ k a d imm, i = .rdmaWriteReceived c h psn k a d imm []) ∨ ∃ k a n r, i = .rdmaReadReceived c h psn k a n r) :
    ∃ k : Qp → State, (atPsn s c h psn k).tiers = s.tiers → exec i s = .next (atPsn s c h psn k) := by
  rcases hi with ⟨d, imm, rfl⟩ | ⟨k, a, d, imm, rfl⟩ | ⟨k, a, n, r, rfl⟩
  · exact ⟨_, fun ht => (roceSendReceived_runs c h psn d imm [] s hd).trans (congrArg _ (afterMoves_now ht))⟩
  · exact ⟨_, fun ht => (rdmaWriteReceived_runs c h psn k a d imm [] s hd).trans (congrArg _ (afterMoves_now ht))⟩
  · exact ⟨_, fun _ => rdmaReadReceived_runs c h psn k a n r s hd⟩

/-- A request that fails leaves its queue pair dead (R302). -/
theorem refuseRemote_dead {q' : Qp} (hq : findQp s c h = some q') (q : Qp) : qpDead (refuseRemote s c h psn q) c h :=
  (enterErr_dead hq).keep (sendRoce_qps _ _ _ _ _ _)

theorem refuseRemote_tiers (s : State) (c h psn : Nat) (q : Qp) : (refuseRemote s c h psn q).tiers = s.tiers :=
  (refuseRemote_moves s c h psn q (Moves.refl 1099400 s) rfl).rest .tiers rfl

end Sequence

/-! Receive entries (R300, R301). -/

section Receive

variable {s s1 u : State} {c h psn k len : Nat} {q : Qp} {w : Wqe} {ws : List Wqe} {d : List Byte} {imm : Option Nat} {x : ReadEnd Unit}

theorem postHost_access (s : State) (f a : Nat) (b : List Byte) : (postHost s f a b).tiers = s.tiers ∧ (postHost s f a b).sync = s.sync := by
  unfold postHost
  split <;> exact ⟨rfl, rfl⟩

/-- A payload put in its buffer leaves the network and the host accesses. -/
theorem placeRecv_stays (s : State) (c : Nat) (w : Wqe) (d : List Byte) : accessStays s (placeRecv s c w d).1 ∧ (placeRecv s c w d).1.net = s.net := by
  unfold placeRecv
  dsimp only
  split
  · exact ⟨.refl s, rfl⟩
  · split
    · exact ⟨.refl s, rfl⟩
    · split
      · split
        · exact ⟨.postHost s _ _ _, postHost_net s _ _ _⟩
        · exact ⟨.refl s, rfl⟩
      · split
        · exact ⟨.refl s, rfl⟩
        · exact ⟨.writeClaim s _ _ _, writeClaim_net s _ _ _ _⟩

/-- A payload for host memory leaves claim memory. -/
theorem placeRecv_tiers (hw : wHost w.bytes = true ∨ d = []) (s : State) (c : Nat) : (placeRecv s c w d).1.tiers = s.tiers := by
  unfold placeRecv
  dsimp only
  split
  · rfl
  · split
    · rfl
    · rename_i hd
      rw [if_pos (hw.resolve_right fun e => hd (by rw [e]; rfl))]
      split
      · exact (postHost_access s _ _ _).1
      · rfl

/-- An entry takes no payload at all by its own form and the tally window alone. -/
theorem placeRecv_nothing (s : State) (c : Nat) (w : Wqe) : (placeRecv s c w []).1 = s := by
  unfold placeRecv
  dsimp only
  split <;> rfl

theorem placeRecv_congr {t : State} (hh : hostWritable t c (wTally w.bytes) = hostWritable s c (wTally w.bytes)) : (placeRecv t c w []).2 = (placeRecv s c w []).2 := by
  unfold placeRecv
  dsimp only
  rw [hh]
  split <;> rfl

theorem consumeRecv_waits (ho : q.recvs = [] ∨ q.cqHold = true) : consumeRecv s c h psn k d len imm q = sendRnr s q psn := by
  unfold consumeRecv
  split
  · rfl
  · rename_i hq
    rw [if_pos (ho.resolve_left fun e => by rw [e] at hq; exact nomatch hq)]

theorem consumeRecv_held (hr : q.recvs = w :: ws) (hh : q.cqHold = false) (hw : wHost w.bytes = true) (hd : d ≠ []) (hi : canIssue s (fnOf c) = false) :
    consumeRecv s c h psn k d len imm q = s := by
  unfold consumeRecv
  rw [hr]
  dsimp only
  rw [if_neg (by rw [hh]; decide), if_pos ⟨hw, by simpa using hd, by rw [hi]; rfl⟩]

theorem consumeRecv_error {e : Nat × Nat} (hr : q.recvs = w :: ws) (hh : q.cqHold = false) (hi : wHost w.bytes = true → d ≠ [] → canIssue s (fnOf c) = true)
    (hp : placeRecv (s.modQp c h fun q => { q with recvs := ws }) c w d = (u, .error e)) :
    consumeRecv s c h psn k d len imm q = sendNakR (failEntry u c h true e.1 w) q psn 3 := by
  unfold consumeRecv
  rw [hr]
  dsimp only
  rw [if_neg (by rw [hh]; decide), if_neg (fun hn => by simpa [hi hn.1 (by simpa using hn.2.1)] using hn.2.2), hp]

theorem consumeRecv_ok (hr : q.recvs = w :: ws) (hh : q.cqHold = false) (hi : wHost w.bytes = true → d ≠ [] → canIssue s (fnOf c) = true)
    (hp : placeRecv (s.modQp c h fun q => { q with recvs := ws }) c w d = (u, .ok ())) :
    consumeRecv s c h psn k d len imm q = acceptPsn (settleErr (pushRecord u c h (cqeBytes h w true len 0 imm) (wTally w.bytes)) c h) c h k q := by
  unfold consumeRecv
  rw [hr]
  dsimp only
  rw [if_neg (by rw [hh]; decide), if_neg (fun hn => by simpa [hi hn.1 (by simpa using hn.2.1)] using hn.2.2), hp]

/-- A message in sequence fails its entry and its queue pair, or takes the entry (R301, R303). -/
theorem consumeRecv_takes (hq : findQp s1 c h = some q) (hst : q.st ≠ .err) (hwin : ∀ a, winOk s1 (fnOf c) a 32 = winOk s (fnOf c) a 32) (hr : q.recvs = w :: ws)
    (hh : q.cqHold = false) (hi : wHost w.bytes = true → d ≠ [] → canIssue s1 (fnOf c) = true)
    (hp : placeRecv (s1.modQp c h fun q => { q with recvs := ws }) c w d = (u, x)) (len : Nat) (imm : Option Nat) :
    let t := consumeRecv s1 c h psn (packetCount q.mtu len) d len imm q
    (∀ e, x = .error e → qpDead t c h) ∧ (x = .ok () → recvTaken s t c h q ws len) ∧ t.tiers = u.tiers := by
  have hstays := placeRecv_stays (s1.modQp c h fun q => { q with recvs := ws }) c w d
  rw [hp] at hstays
  obtain ⟨hacc, hnet⟩ := hstays
  have hu : findQp u c h = some { q with recvs := ws } :=
    (findQp_of_qps (by rw [hnet]) c h).trans (findQp_modQp_same (f := fun q => { q with recvs := ws }) (fun _ => ⟨rfl, rfl⟩) hq)
  dsimp only
  cases x with
  | error e =>
    rw [consumeRecv_error hr hh hi hp]
    refine ⟨fun _ _ => (failEntry_dead hu true e.1 w).keep (sendRoce_qps _ _ _ _ _ _), fun hx => (nomatch hx), ?_⟩
    exact (sendRoce_tiers _ _ _ _ _ _).trans ((failEntry_moves u c h true e.1 w (Moves.refl 1099400 u) rfl).rest .tiers rfl)
  | ok y =>
    rw [consumeRecv_ok hr hh hi hp]
    refine ⟨fun e hx => (nomatch hx), fun _ => recvTaken_of hu hst (fun a => (hacc.winOk _ _ _).trans (hwin a)) _ _ len, ?_⟩
    have hpush := pushRecord_moves u c h (cqeBytes h w true len 0 imm) (wTally w.bytes) (Moves.refl 1099400 u) rfl
    exact (sendRoce_tiers _ _ _ _ _ _).trans ((settleErr_moves _ c h hpush rfl).rest .tiers rfl)

end Receive

/-! RDMA WRITE (R302). -/

/-- An RDMA WRITE's payload goes to the host or to the claim (R302). -/
def remotePut (s : State) (c : Nat) (r : Region) (addr : Nat) (d : List Byte) : Run Unit :=
  if d.isEmpty then (s, .ok ())
  else if r.host then
    if hostOk s (fnOf c) addr d.length then (postHost s (fnOf c) addr d, .ok ()) else (s, .error (0x0424, 0))
  else writeClaim s c (addr % 2 ^ 40) d

/-- An RDMA WRITE draws RNR before its bytes are written: its immediate data finds no receive entry, or completions are held (R301). -/
def noEntry (q : Qp) (imm : Option Nat) : Prop := imm ≠ none ∧ (q.recvs = [] ∨ q.cqHold = true)

section Write

variable {s u : State} {c h psn rkey addr : Nat} {q : Qp} {d : List Byte} {imm : Option Nat} {r : Region}

theorem noEntry_iff : (imm.isSome && (q.recvs.isEmpty || q.cqHold)) = true ↔ noEntry q imm := by
  simp [noEntry, Option.isSome_iff_ne_none]

theorem rdmaWrite_denied (ht : qpTakes s c h psn q) (hr : regionFor s q rkey addr d.length true = none) :
    rdmaWrite s c h psn rkey addr d imm [] = refuseRemote s c h psn q := by
  show atPsn s c h psn _ = _
  rw [atPsn_taken ht]
  dsimp only [readRq]
  rw [hr]

theorem rdmaWrite_rnr (ht : qpTakes s c h psn q) (hr : regionFor s q rkey addr d.length true = some r) (hn : noEntry q imm) :
    rdmaWrite s c h psn rkey addr d imm [] = sendRnr s q psn := by
  show atPsn s c h psn _ = _
  rw [atPsn_taken ht]
  dsimp only [readRq]
  rw [hr]
  exact if_pos (noEntry_iff.2 hn)

theorem rdmaWrite_held (ht : qpTakes s c h psn q) (hr : regionFor s q rkey addr d.length true = some r) (hn : ¬ noEntry q imm) (hh : r.host = true) (hd : d ≠ [])
    (hi : canIssue s (fnOf c) = false) : rdmaWrite s c h psn rkey addr d imm [] = s := by
  show atPsn s c h psn _ = _
  rw [atPsn_taken ht]
  dsimp only [readRq]
  rw [hr]
  dsimp only
  rw [if_neg (noEntry_iff.not.2 hn), if_pos ⟨hh, by simpa using hd, by rw [hi]; rfl⟩]

theorem rdmaWrite_error {e : Nat × Nat} (ht : qpTakes s c h psn q) (hr : regionFor s q rkey addr d.length true = some r) (hn : ¬ noEntry q imm)
    (hi : r.host = true → d ≠ [] → canIssue s (fnOf c) = true) (hp : remotePut s c r addr d = (u, .error e)) :
    rdmaWrite s c h psn rkey addr d imm [] = refuseRemote u c h psn q := by
  show atPsn s c h psn _ = _
  rw [atPsn_taken ht]
  dsimp only [readRq]
  rw [hr]
  dsimp only
  rw [if_neg (noEntry_iff.not.2 hn), if_neg (fun hx => by simpa [hi hx.1 (by simpa using hx.2.1)] using hx.2.2)]
  change (match remotePut s c r addr d with | (s1, .error _) => _ | (s1, .ok _) => _) = _
  rw [hp]

theorem rdmaWrite_ok (ht : qpTakes s c h psn q) (hr : regionFor s q rkey addr d.length true = some r) (hn : ¬ noEntry q imm)
    (hi : r.host = true → d ≠ [] → canIssue s (fnOf c) = true) (hp : remotePut s c r addr d = (u, .ok ())) :
    rdmaWrite s c h psn rkey addr d imm [] =
      if imm.isSome then consumeRecv u c h psn (packetCount q.mtu d.length) [] d.length imm q else acceptPsn u c h (packetCount q.mtu d.length) q := by
  show atPsn s c h psn _ = _
  rw [atPsn_taken ht]
  dsimp only [readRq]
  rw [hr]
  dsimp only
  rw [if_neg (noEntry_iff.not.2 hn), if_neg (fun hx => by simpa [hi hx.1 (by simpa using hx.2.1)] using hx.2.2)]
  change (match remotePut s c r addr d with | (s1, .error _) => _ | (s1, .ok _) => _) = _
  rw [hp]

theorem remotePut_host (hh : r.host = true) (hd : d ≠ []) (hi : canIssue s (fnOf c) = true) :
    remotePut s c r addr d = if winOk s (fnOf c) addr d.length then (postHost s (fnOf c) addr d, .ok ()) else (s, .error (0x0424, 0)) := by
  unfold remotePut hostOk
  rw [if_neg (by simpa using hd), if_pos hh, hi, Bool.true_and]

theorem remotePut_claim (hh : r.host = false) (hd : d ≠ []) : remotePut s c r addr d = writeClaim s c (addr % 2 ^ 40) d := by
  unfold remotePut
  rw [if_neg (by simpa using hd), if_neg (by rw [hh]; decide)]

/-- A WRITE whose bytes are written passes: its sequence moves on, and its immediate data takes a receive entry or fails it (R301, R302). -/
theorem writeTaken_of (hq : findQp s c h = some q) (hst : q.st ≠ .err) (hn : ¬ noEntry q imm) (hnet : u.net = s.net) (hacc : accessStays s u) (hsync : u.sync = s.sync) (len : Nat) :
    let t := if imm.isSome then consumeRecv u c h psn (packetCount q.mtu len) [] len imm q else acceptPsn u c h (packetCount q.mtu len) q
    writeTaken s t c h q imm len ∧ t.tiers = u.tiers := by
  have hqu : findQp u c h = some q := (findQp_of_qps (by rw [hnet]) c h).trans hq
  dsimp only
  cases imm with
  | none => exact ⟨⟨fun _ => (acceptPsn_becomes hqu _ q).from_net hnet, fun _ _ hi => absurd rfl hi⟩, sendRoce_tiers _ _ _ _ _ _⟩
  | some v =>
    rw [Option.isSome_some, if_pos rfl]
    have hhold : q.cqHold = false := by
      cases hh : q.cqHold
      · rfl
      · exact absurd ⟨by simp, .inr hh⟩ hn
    cases hr : q.recvs with
    | nil => exact absurd ⟨by simp, .inl hr⟩ hn
    | cons w ws =>
      have hput : placeRecv (u.modQp c h fun q => { q with recvs := ws }) c w [] =
          (u.modQp c h fun q => { q with recvs := ws }, (placeRecv (s.modQp c h fun q => { q with recvs := ws }) c w []).2) :=
        Prod.ext (placeRecv_nothing _ c w) (placeRecv_congr (hacc.hostWritable hsync c _))
      obtain ⟨herr, hok, htiers⟩ := consumeRecv_takes (s := s) (psn := psn) hqu hst (fun a => hacc.winOk _ _ _) hr hhold (fun _ hd => absurd rfl hd) hput len (some v)
      refine ⟨⟨fun hi => (nomatch hi), fun w' ws' _ hr' => ?_⟩, htiers⟩
      obtain ⟨rfl, rfl⟩ := List.cons.inj (hr'.symm.trans hr)
      exact ⟨herr, hok⟩

end Write

/-! RDMA READ (R302). -/

section Read

variable {s u : State} {c h psn rkey addr n : Nat} {q : Qp} {r : Region} {data : HostResp}

/-- What an RDMA READ reads, from the host or the claim (R302). -/
def remoteRead (s : State) (c : Nat) (r : Region) (addr n : Nat) (data : HostResp) : Run (List Byte) :=
  if n = 0 then (s, .ok [])
  else if r.host then
    if hostOk s (fnOf c) addr n then
      match readHost s (fnOf c) addr n data with
      | (s1, some b) => (s1, .ok b)
      | (s1, none) => (s1, .error (0x0424, 0))
    else (s, .error (0x0424, 0))
  else readClaim s c (addr % 2 ^ 40) n

/-- The packets of an RDMA READ's answer (R298, R302). -/
def readAnswer (s : State) (q : Qp) (psn n : Nat) (bs : List Byte) : List Output :=
  (List.range (packetCount q.mtu n)).map fun k =>
    rocePacket s q 5 q.dscp [q.destQpn, (psn + k) % 2 ^ 24, k, packetCount q.mtu n] ((bs.drop (q.mtu * k)).take q.mtu)

/-- The answer leaves and the expected sequence moves on. -/
def readPassed (s : State) (c h psn n : Nat) (q : Qp) (bs : List Byte) : State :=
  (List.range (packetCount q.mtu n)).foldl (fun s k =>
    sendRoce s q 5 q.dscp [q.destQpn, (psn + k) % 2 ^ 24, k, packetCount q.mtu n] ((bs.drop (q.mtu * k)).take q.mtu))
    (s.modQp c h fun p => { p with rqPsn := (p.rqPsn + packetCount q.mtu n) % 2 ^ 24 })

theorem rdmaRead_denied (ht : qpTakes s c h psn q) (hr : regionFor s q rkey addr n false = none) : rdmaRead s c h psn rkey addr n data = refuseRemote s c h psn q := by
  rw [rdmaRead, atPsn_taken ht, hr]

theorem rdmaRead_held (ht : qpTakes s c h psn q) (hr : regionFor s q rkey addr n false = some r) (hh : r.host = true) (hn : n ≠ 0) (hi : canIssue s (fnOf c) = false) :
    rdmaRead s c h psn rkey addr n data = s := by
  rw [rdmaRead, atPsn_taken ht, hr]
  exact if_pos ⟨hh, hn, by rw [hi]; rfl⟩

theorem rdmaRead_error {e : Nat × Nat} (ht : qpTakes s c h psn q) (hr : regionFor s q rkey addr n false = some r) (hi : r.host = true → n ≠ 0 → canIssue s (fnOf c) = true)
    (hg : remoteRead s c r addr n data = (u, .error e)) : rdmaRead s c h psn rkey addr n data = refuseRemote u c h psn q := by
  rw [rdmaRead, atPsn_taken ht, hr]
  dsimp only
  rw [if_neg (fun hx => by simpa [hi hx.1 hx.2.1] using hx.2.2)]
  change (match remoteRead s c r addr n data with | (s1, .error _) => _ | (s1, .ok _) => _) = _
  rw [hg]

theorem rdmaRead_ok {bs : List Byte} (ht : qpTakes s c h psn q) (hr : regionFor s q rkey addr n false = some r) (hi : r.host = true → n ≠ 0 → canIssue s (fnOf c) = true)
    (hg : remoteRead s c r addr n data = (u, .ok bs)) : rdmaRead s c h psn rkey addr n data = readPassed u c h psn n q bs := by
  rw [rdmaRead, atPsn_taken ht, hr]
  dsimp only
  rw [if_neg (fun hx => by simpa [hi hx.1 hx.2.1] using hx.2.2)]
  change (match remoteRead s c r addr n data with | (s1, .error _) => _ | (s1, .ok _) => _) = _
  rw [hg]
  rfl

/-- An RDMA READ that has its bytes passes and is answered (R302). -/
theorem readPassed_answers (hq : findQp s c h = some q) (hnet : u.net = s.net) (himg : u.image = s.image) (bs : List Byte) :
    qpBecomes s (readPassed u c h psn n q bs) c h { q with rqPsn := (q.rqPsn + packetCount q.mtu n) % 2 ^ 24 } ∧
      (portSends s q.port → (readPassed u c h psn n q bs).out = u.out ++ readAnswer s q psn n bs) := by
  have hqu : findQp u c h = some q := (findQp_of_qps (by rw [hnet]) c h).trans hq
  have hpassed := qpBecomes_modQp (f := fun p => { p with rqPsn := (p.rqPsn + packetCount q.mtu n) % 2 ^ 24 }) (fun _ => ⟨rfl, rfl⟩) hqu
  refine ⟨(hpassed.from_net hnet).keep (sendRoce_run_qps q _ _ _ _ _ _), fun hp => ?_⟩
  have hsends : portSends (u.modQp c h fun p => { p with rqPsn := (p.rqPsn + packetCount q.mtu n) % 2 ^ 24 }) q.port :=
    (portSends_congr (s := s) (show u.net.ports = _ by rw [hnet]) (show u.net.pfcEnable = _ by rw [hnet])).2 hp
  refine (sendRoce_run 5 q.dscp _ _ _ hsends).trans (congrArg (u.out ++ ·) (List.map_congr_left fun k _ => ?_))
  exact rocePacket_congr (show u.net.ports = _ by rw [hnet]) himg _ _ _ _ _

end Read

end Sys2Proof
end

section
/-! SUPPORT. RoCE packets as commands: each answer, timer and request in turn (R285, R288, R298, R301 to R305). -/

namespace Sys2Proof

open Machine

/-! The requester's commands. -/

section Requester

variable {s : State} {c h psn : Nat} {q : Qp} {w : Wqe} {ws : List Wqe} {reads : List (List Byte)}

theorem roceAckReceived_alike (hd : diesUp s = true) (feeds : List (HostResp × HostResp)) :
    Runs (.roceAckReceived c h psn reads feeds) s fun t => qpsAlike qpFixed s t :=
  runs_either (roceAckReceived_runs c h psn reads feeds s hd) (.refl _ s) (roceAck_alike s c h psn reads feeds)

theorem roceAckReceived_short (hd : diesUp s = true) (hq : findQp s c h = some q) (hst : q.st = .rts) (hr : s.redealing = false) (hs : q.sent = w :: ws)
    (hp : psnAtLeast psn (w.psn + w.packets - 1) = false) (hrec : q.records = []) (hwait : q.waiting = []) : exec (.roceAckReceived c h psn reads []) s = .next s :=
  stays_now (roceAckReceived_runs c h psn reads [] s hd) (by rw [roceAck_on hq hst hr, ackEntries_short hq hs hp, runSq_idle hq hrec hwait])

theorem roceAckReceived_only (hd : diesUp s = true) (hq : findQp s c h = some q) (hst : q.st = .rts) (hr : s.redealing = false) (hs : q.sent = [w])
    (hp : psnAtLeast psn (w.psn + w.packets - 1) = true) (hrec : q.records = []) (hwait : q.waiting = []) (ho : wOp w.bytes ≠ 5) (hsig : wSignal w.bytes = false) :
    Runs (.roceAckReceived c h psn reads []) s fun t => qpBecomes s t c h { q with sent := [] } := by
  have hk := roceAck_only hq hst hr hs hp hrec hwait ho hsig reads
  have hdone := qpBecomes_modQp (f := fun q => { q with sent := [] }) (fun _ => ⟨rfl, rfl⟩) hq
  refine runs_now (roceAckReceived_runs c h psn reads [] s hd) ?_ ?_
  · rw [hk]
    exact (completionAdd_moves _ c _ (Moves.refl 50824 _) rfl).rest .tiers rfl
  · rw [hk]
    exact hdone.keep (by rw [completionAdd_net])

/-- A NAK that completes nothing does what its code says, and moves no page. -/
theorem roceNakReceived_head (hd : diesUp s = true) (hq : findQp s c h = some q) (hst : q.st = .rts) (hr : s.redealing = false) (hs : q.sent = w :: ws)
    (hp : psnAtLeast ((psn + 2 ^ 24 - 1) % 2 ^ 24) (w.psn + w.packets - 1) = false) (code : Nat) {P : State → Prop}
    (hcode : P (if code = 0 then retryHead s c h else if code = 1 then s.modQp c h fun q => { q with rnrWait := true }
      else failEntry (s.modQp c h fun q => { q with sent := ws }) c h false (if code = 2 then 0x0421 else 0x0422) w)) :
    Runs (.roceNakReceived c h psn code reads) s P := by
  have hk := roceNak_head hq hst hr hs hp code reads
  refine runs_now (roceNakReceived_runs c h psn code reads s hd) ?_ ?_
  · rw [hk]
    split
    · exact retryHead_tiers s c h
    · split
      · rfl
      · exact (failEntry_moves _ c h false _ w (Moves.refl 1099400 _) rfl).rest .tiers rfl
  · rw [hk]
    exact hcode

theorem qpAckTimeout_on (hd : diesUp s = true) (hq : findQp s c h = some q) (hst : q.st = .rts) (hf : field q.ctx 0x43 1 ≠ 0) (hw : q.rnrWait = false) :
    exec (.qpAckTimeout c h) s = .next (retryHead s c h) := by
  rw [qpAckTimeout_runs c h s hd, ackTimeout_on hq hst hf hw]

theorem cePacketReceived_on (hd : diesUp s = true) (hq : findQp s c h = some q) (hdue : ∀ x, q.lastCnp = some x → x + 50000 ≤ s.now) (hheld : qpHeld s q = false) :
    Runs (.cePacketReceived c h) s fun t => OnlyParts [.net, .out] s t ∧ qpBecomes s t c h { q with lastCnp := some s.now } ∧
      (portSends s q.port → t.out = s.out ++ [rocePacket s q 6 s.net.cnpDscp [q.destQpn] []]) := by
  refine ⟨_, (cePacketReceived_runs c h s hd).trans (congrArg _ (cePacket_on hq hdue hheld)), fun p hp => ?_, ?_, fun hp => ?_⟩
  · exact Part.same_trans (modQp_only s c h _ p (by simp at hp ⊢; exact hp.1)) (sendRoce_only _ q _ _ _ _ p hp)
  · exact (qpBecomes_modQp (f := fun q => { q with lastCnp := some s.now }) (fun _ => ⟨rfl, rfl⟩) hq).keep (sendRoce_qps _ _ _ _ _ _)
  · rw [sendRoce_out (s := s.modQp c h _) hp, State.emit_out]
    rfl

end Requester

/-! The responder's commands. -/

section Responder

variable {s : State} {c h psn rkey addr : Nat} {q : Qp} {d : List Byte} {imm : Option Nat} {r : Region}

theorem qpTakes.live (ht : qpTakes s c h psn q) : q.st ≠ .err := by
  obtain ⟨-, -, hst, -⟩ := ht
  rcases hst with e | e <;> rw [e] <;> decide

/-- A refused WRITE leaves the queue pair dead and moves no page (R302). -/
theorem rdmaWriteReceived_refused (ht : qpTakes s c h psn q) (hk : rdmaWrite s c h psn rkey addr d imm [] = refuseRemote s c h psn q) :
    Runs (.rdmaWriteReceived c h psn rkey addr d imm []) s fun t => qpDead t c h := by
  obtain ⟨hd, hq, -⟩ := ht
  refine runs_now (rdmaWriteReceived_runs c h psn rkey addr d imm [] s hd) ?_ ?_
  · rw [hk, refuseRemote_tiers]
  · rw [hk]
    exact refuseRemote_dead hq q

theorem rdmaWriteReceived_rnr (ht : qpTakes s c h psn q) (hr : regionFor s q rkey addr d.length true = some r) (hn : noEntry q imm) :
    justSends (.rdmaWriteReceived c h psn rkey addr d imm []) s q 4 q.dscp [q.destQpn, psn, field q.ctx 0x46 1] :=
  justSends_now (rdmaWriteReceived_runs c h psn rkey addr d imm [] s ht.1) (rdmaWrite_rnr ht hr hn)

theorem rdmaWriteReceived_outside (ht : qpTakes s c h psn q) (hr : regionFor s q rkey addr d.length true = some r) (hn : ¬ noEntry q imm) (hh : r.host = true) (hd : d ≠ [])
    (hi : canIssue s (fnOf c) = true) (hw : winOk s (fnOf c) addr d.length = false) : Runs (.rdmaWriteReceived c h psn rkey addr d imm []) s fun t => qpDead t c h :=
  rdmaWriteReceived_refused ht (rdmaWrite_error ht hr hn (fun _ _ => hi) ((remotePut_host hh hd hi).trans (if_neg (by rw [hw]; decide))))

/-- What a WRITE that passes sends, after what its payload sent. -/
theorem rdmaWritten_out {u : State} (k len : Nat) :
    ∃ ys, (if imm.isSome then consumeRecv u c h psn k [] len imm q else acceptPsn u c h k q).out = u.out ++ ys := by
  split
  · exact (consumeRecv_moves u c h psn k [] len imm q (Moves.refl 1370056 u) rfl).sent
  · exact (acceptPsn_moves u c h k q (Moves.refl 1048584 u) rfl).sent

theorem rdmaWriteReceived_host (ht : qpTakes s c h psn q) (hr : regionFor s q rkey addr d.length true = some r) (hn : ¬ noEntry q imm) (hh : r.host = true ∨ d = [])
    (hi : d ≠ [] → canIssue s (fnOf c) = true) (hw : d ≠ [] → winOk s (fnOf c) addr d.length = true) :
    Runs (.rdmaWriteReceived c h psn rkey addr d imm []) s fun t =>
      (∃ ys, t.out = s.out ++ (if d = [] then [] else [Output.hostWrite (fnOf c) addr d]) ++ ys) ∧ writeTaken s t c h q imm d.length := by
  obtain ⟨u, hput, hnet, hacc, hsync, htiers, hout⟩ : ∃ u, remotePut s c r addr d = (u, .ok ()) ∧ u.net = s.net ∧ accessStays s u ∧ u.sync = s.sync ∧
      u.tiers = s.tiers ∧ u.out = s.out ++ if d = [] then [] else [Output.hostWrite (fnOf c) addr d] := by
    by_cases hd : d = []
    · subst hd
      exact ⟨s, rfl, rfl, .refl s, rfl, rfl, by simp⟩
    · refine ⟨_, (remotePut_host (hh.resolve_right hd) hd (hi hd)).trans (if_pos (hw hd)), postHost_net s _ _ _, .postHost s _ _ _, (postHost_access s _ _ _).2,
        (postHost_access s _ _ _).1, ?_⟩
      rw [postHost_out, hostOk, hi hd, hw hd, if_neg hd]
      rfl
  have hk := rdmaWrite_ok ht hr hn (fun _ hd => hi hd) hput
  obtain ⟨htaken, hkeeps⟩ := writeTaken_of (psn := psn) ht.2.1 ht.live hn hnet hacc hsync d.length
  refine runs_now (rdmaWriteReceived_runs c h psn rkey addr d imm [] s ht.1) ?_ ?_
  · rw [hk]
    exact hkeeps.trans htiers
  · rw [hk]
    refine ⟨?_, htaken⟩
    rw [← hout]
    exact rdmaWritten_out _ _

theorem rdmaWriteReceived_claim (ht : qpTakes s c h psn q) (hr : regionFor s q rkey addr d.length true = some r) (hn : ¬ noEntry q imm) (hh : r.host = false) (hd : d ≠ []) :
    let p := writeClaim s c (addr % 2 ^ 40) d
    RunsAfterMoves (.rdmaWriteReceived c h psn rkey addr d imm []) s fun t => (∀ e, p.2 = .error e → qpDead t c h) ∧
      (p.2 = .ok () → t.tiers = p.1.tiers ∧ writeTaken s t c h q imm d.length) := by
  have hput := remotePut_claim (s := s) (c := c) (addr := addr) hh hd
  have hnet := writeClaim_net s c (addr % 2 ^ 40) d true
  have hacc := accessStays.writeClaim s c (addr % 2 ^ 40) d
  have hsync : (writeClaim s c (addr % 2 ^ 40) d).1.sync = s.sync := (writeClaim_moves s c _ d true (Moves.refl 271816 s) rfl).rest .sync rfl
  dsimp only
  refine runs_later (rdmaWriteReceived_runs c h psn rkey addr d imm [] s ht.1) ?_
  generalize writeClaim s c (addr % 2 ^ 40) d = p at hput hnet hacc hsync ⊢
  obtain ⟨u, e | ⟨⟩⟩ := p
  · rw [rdmaWrite_error ht hr hn (fun hx => absurd hx (by rw [hh]; decide)) hput]
    exact ⟨fun _ _ => refuseRemote_dead ((findQp_of_qps (congrArg Net.qps hnet) c h).trans ht.2.1) q, fun hx => (nomatch hx)⟩
  · rw [rdmaWrite_ok ht hr hn (fun hx => absurd hx (by rw [hh]; decide)) hput]
    obtain ⟨htaken, hkeeps⟩ := writeTaken_of (psn := psn) ht.2.1 ht.live hn hnet hacc hsync d.length
    exact ⟨fun e hx => (nomatch hx), fun _ => ⟨hkeeps, htaken⟩⟩

variable {n : Nat} {data : HostResp}

/-- A READ whose bytes cannot be read leaves the queue pair dead (R302). -/
theorem rdmaReadReceived_fails {u : State} {e : Nat × Nat} (ht : qpTakes s c h psn q) (hr : regionFor s q rkey addr n false = some r)
    (hi : r.host = true → n ≠ 0 → canIssue s (fnOf c) = true) (hg : remoteRead s c r addr n data = (u, .error e)) (hnet : u.net = s.net) :
    Runs (.rdmaReadReceived c h psn rkey addr n data) s fun t => qpDead t c h :=
  ⟨_, (rdmaReadReceived_runs c h psn rkey addr n data s ht.1).trans (congrArg _ (rdmaRead_error ht hr hi hg)),
    refuseRemote_dead ((findQp_of_qps (congrArg Net.qps hnet) c h).trans ht.2.1) q⟩

/-- A READ that has its bytes is answered with them and moves the sequence on (R302). -/
theorem rdmaReadReceived_passes {u : State} {bs : List Byte} (ht : qpTakes s c h psn q) (hr : regionFor s q rkey addr n false = some r)
    (hi : r.host = true → n ≠ 0 → canIssue s (fnOf c) = true) (hg : remoteRead s c r addr n data = (u, .ok bs)) (hnet : u.net = s.net) (himg : u.image = s.image) :
    Runs (.rdmaReadReceived c h psn rkey addr n data) s fun t =>
      qpBecomes s t c h { q with rqPsn := (q.rqPsn + packetCount q.mtu n) % 2 ^ 24 } ∧ (portSends s q.port → t.out = u.out ++ readAnswer s q psn n bs) :=
  ⟨_, (rdmaReadReceived_runs c h psn rkey addr n data s ht.1).trans (congrArg _ (rdmaRead_ok ht hr hi hg)), readPassed_answers ht.2.1 hnet himg bs⟩

theorem readHost_ok (s : State) (fn a n : Nat) (b : List Byte) : readHost s fn a n (.ok b) = (s.emit (.hostRead fn a n), some (bytesAt b 0 n)) := rfl

theorem remoteRead_host (hh : r.host = true) (hn : n ≠ 0) (hok : hostOk s (fnOf c) addr n = true) (b : List Byte) :
    remoteRead s c r addr n (.ok b) = (s.emit (.hostRead (fnOf c) addr n), .ok (bytesAt b 0 n)) := by
  unfold remoteRead
  rw [if_neg hn, if_pos hh, if_pos hok, readHost_ok]

/-- A READ of the host outside its windows or that the host fails brings nothing (R285, R289). -/
theorem remoteRead_failed (hh : r.host = true) (hn : n ≠ 0) (ho : winOk s (fnOf c) addr n = false ∨ data = .err) :
    ∃ u e, remoteRead s c r addr n data = (u, .error e) ∧ u.net = s.net := by
  unfold remoteRead
  rw [if_neg hn, if_pos hh]
  split
  · rename_i hok
    rcases ho with hw | rfl
    · rw [hostOk, hw, Bool.and_false] at hok
      exact absurd hok (by decide)
    · exact ⟨_, _, rfl, rfl⟩
  · exact ⟨s, _, rfl, rfl⟩

theorem remoteRead_claim (hh : r.host = false) (hn : n ≠ 0) : remoteRead s c r addr n data = readClaim s c (addr % 2 ^ 40) n := by
  unfold remoteRead
  rw [if_neg hn, if_neg (by rw [hh]; decide)]

theorem rdmaReadReceived_claim (ht : qpTakes s c h psn q) (hr : regionFor s q rkey addr n false = some r) (hn : n ≠ 0) (hh : r.host = false) :
    let p := readClaim s c (addr % 2 ^ 40) n
    (∀ e, p.2 = .error e → Runs (.rdmaReadReceived c h psn rkey addr n data) s fun t => qpDead t c h) ∧
      ∀ bs, p.2 = .ok bs → Runs (.rdmaReadReceived c h psn rkey addr n data) s fun t =>
        qpBecomes s t c h { q with rqPsn := (q.rqPsn + packetCount q.mtu n) % 2 ^ 24 } ∧ (portSends s q.port → t.out = p.1.out ++ readAnswer s q psn n bs) := by
  have hg := remoteRead_claim (s := s) (c := c) (addr := addr) (data := data) hh hn
  have hnet := readClaim_net s c (addr % 2 ^ 40) n true
  have hboot : (readClaim s c (addr % 2 ^ 40) n).1.boot = s.boot := (readClaim_moves s c _ n true (Moves.refl 271688 s) rfl).rest .boot rfl
  have hi : r.host = true → n ≠ 0 → canIssue s (fnOf c) = true := fun hx => absurd hx (by rw [hh]; decide)
  dsimp only
  generalize readClaim s c (addr % 2 ^ 40) n = p at hg hnet hboot ⊢
  obtain ⟨u, e | bs⟩ := p
  · exact ⟨fun _ _ => rdmaReadReceived_fails ht hr hi hg hnet, fun _ hx => (nomatch hx)⟩
  · refine ⟨fun _ hx => (nomatch hx), fun bs' hx => ?_⟩
    obtain rfl := Except.ok.inj hx
    exact rdmaReadReceived_passes ht hr hi hg hnet (by rw [State.image, hboot, State.image])

/-- A SEND with a receive entry, where completions are not held (R301, R303). -/
theorem roceSend_takes (ht : qpTakes s c h psn q) {w : Wqe} {ws : List Wqe} (hr : q.recvs = w :: ws) (hh : q.cqHold = false)
    (hi : wHost w.bytes = true → d ≠ [] → canIssue s (fnOf c) = true) :
    let p := placeRecv (s.modQp c h fun q => { q with recvs := ws }) c w d
    let t := roceSend s c h psn d imm []
    ((∀ e, p.2 = .error e → qpDead t c h) ∧ (p.2 = .ok () → recvTaken s t c h q ws d.length)) ∧ t.tiers = p.1.tiers := by
  have ht' := consumeRecv_takes (psn := psn) ht.2.1 ht.live (fun _ => rfl) hr hh hi Prod.mk.eta.symm d.length imm
  have hk : roceSend s c h psn d imm [] = consumeRecv s c h psn (packetCount q.mtu d.length) d d.length imm q := atPsn_taken ht _
  obtain ⟨herr, hok, htiers⟩ := ht'
  dsimp only
  rw [hk]
  exact ⟨⟨herr, hok⟩, htiers⟩

theorem roceSendReceived_waits (ht : qpTakes s c h psn q) (ho : q.recvs = [] ∨ q.cqHold = true) :
    justSends (.roceSendReceived c h psn d imm []) s q 4 q.dscp [q.destQpn, psn, field q.ctx 0x46 1] :=
  justSends_now (roceSendReceived_runs c h psn d imm [] s ht.1) ((atPsn_taken ht _).trans (consumeRecv_waits ho))

/-- A SEND for host memory has no effect while the function may not issue requests (R288, log entry 135). In `Obligations.RocePackets` this
stands as a premise, so it is proved here on its own. -/
theorem roceSendReceived_held (ht : qpTakes s c h psn q) {w : Wqe} {ws : List Wqe} (hr : q.recvs = w :: ws) (hh : q.cqHold = false) (hw : wHost w.bytes = true) (hd : d ≠ [])
    (hi : canIssue s (fnOf c) = false) : exec (.roceSendReceived c h psn d imm []) s = .next s :=
  stays_now (roceSendReceived_runs c h psn d imm [] s ht.1) ((atPsn_taken ht _).trans (consumeRecv_held hr hh hw hd hi))

end Responder

/-- Settles O51: the requester's answers, timers and rate, the responder's requests in sequence, and what comes out of sequence (R197, R285, R288,
R298, R301 to R305; log entries 56, 81, 82 and 135). -/
theorem rocePackets : Obligations.RocePackets := by
  unfold Obligations.RocePackets
  refine ⟨fun s c h q hd hq => ⟨fun ho psn reads feeds code => ⟨?_, ?_⟩, fun hst hr psn => ⟨fun reads feeds => roceAckReceived_alike hd feeds, fun w ws hs => ⟨?_, ?_, ?_⟩⟩,
    fun ho => ?_, fun hw => ?_, fun w ws hs => ⟨fun hst hf hw => ?_, fun hw => ?_⟩, ⟨_, cnpReceived_runs c h s hd, modQp_only s c h _, cnpReceived_becomes hq⟩,
    ⟨_, rateIncreaseTimer_runs c h s hd, modQp_only s c h _, qpBecomes_modQp (fun _ => ⟨rfl, rfl⟩) hq⟩, fun ho => ?_, cePacketReceived_on hd hq⟩,
    fun s c h psn rkey addr q ht => ⟨fun d imm => ⟨fun hr => ?_, fun r hr => ?_⟩, fun n data => ⟨fun hr => ?_, fun r hr => ?_⟩, fun d imm => ⟨fun ho => ?_, fun w ws hr hh => ?_⟩⟩,
    fun s c h psn q hd hq i hi => ?_⟩
  · exact stays_now (roceAckReceived_runs c h psn reads feeds s hd) (roceAck_off hq ho psn reads feeds)
  · exact stays_now (roceNakReceived_runs c h psn code reads s hd) (roceNak_off hq ho psn code reads)
  · exact fun hp hrec hwait reads => roceAckReceived_short hd hq hst hr hs hp hrec hwait
  · rintro hp rfl hrec hwait ho hsig reads
    exact roceAckReceived_only hd hq hst hr hs hp hrec hwait ho hsig
  · refine fun hp reads => ⟨fun ht => ?_, fun ht => ?_, ?_, fun code hcode => ?_⟩
    · exact roceNakReceived_head hd hq hst hr hs hp 0 (retryHead_again hq hs ht)
    · exact roceNakReceived_head hd hq hst hr hs hp 0 (retryHead_dead hq hs ht)
    · exact roceNakReceived_head hd hq hst hr hs hp 1 ⟨qpBecomes_modQp (fun _ => ⟨rfl, rfl⟩) hq, modQp_only s c h _⟩
    · refine roceNakReceived_head hd hq hst hr hs hp code ?_
      rw [if_neg (by omega), if_neg (by omega)]
      exact failHead_dead hq ws _ w
  · rw [qpAckTimeout_runs c h s hd, ackTimeout_off hq ho]
  · rw [rnrTimerExpiry_runs c h s hd, rnrExpiry_off hq hw]
  · exact ⟨fun ht => ⟨_, qpAckTimeout_on hd hq hst hf hw, retryHead_again hq hs ht⟩, fun ht => ⟨_, qpAckTimeout_on hd hq hst hf hw, retryHead_dead hq hs ht⟩⟩
  · exact ⟨fun hn => ⟨_, rnrTimerExpiry_runs c h s hd, rnrExpiry_again hq hw hs hn⟩, fun h7 hn => ⟨_, rnrTimerExpiry_runs c h s hd, rnrExpiry_dead hq hw hs h7 hn⟩⟩
  · rw [cePacketReceived_runs c h s hd, cePacket_off hq ho]
  · exact rdmaWriteReceived_refused ht (rdmaWrite_denied ht hr)
  · refine ⟨fun hn => rdmaWriteReceived_rnr ht hr hn, fun hn hh hd hi => ?_, fun hn hh hi => ⟨fun hd hw => ?_, fun hw => ?_⟩, fun hn hh hd => rdmaWriteReceived_claim ht hr hn hh hd⟩
    · exact stays_now (rdmaWriteReceived_runs c h psn rkey addr d imm [] s ht.1) (rdmaWrite_held ht hr hn hh hd hi)
    · exact rdmaWriteReceived_outside ht hr hn (hh.resolve_right hd) hd (hi hd) hw
    · exact rdmaWriteReceived_host ht hr hn hh hi hw
  · exact ⟨_, (rdmaReadReceived_runs c h psn rkey addr n data s ht.1).trans (congrArg _ (rdmaRead_denied ht hr)), refuseRemote_dead ht.2.1 q⟩
  · refine ⟨fun hn => ?_, fun hn hh hi => ?_, fun hn hh hi ho => ?_, fun b hn hh hok hb => ?_, fun hn hh => rdmaReadReceived_claim ht hr hn hh⟩
    · exact rdmaReadReceived_passes ht hr (fun _ hn' => absurd hn hn') (if_pos hn) rfl rfl
    · rw [rdmaReadReceived_runs c h psn rkey addr n data s ht.1, rdmaRead_held ht hr hh hn hi]
    · obtain ⟨u, e, hg, hnet⟩ := remoteRead_failed (s := s) (c := c) (addr := addr) hh hn ho
      exact rdmaReadReceived_fails ht hr (fun _ _ => hi) hg hnet
    · subst hb
      have hi : canIssue s (fnOf c) = true := (Bool.and_eq_true_iff.1 hok).1
      exact rdmaReadReceived_passes ht hr (fun _ _ => hi) (remoteRead_host hh hn hok b) rfl rfl
  · exact roceSendReceived_waits ht ho
  · rintro ⟨-, hi⟩
    obtain ⟨hafter, htiers⟩ := roceSend_takes (imm := imm) ht hr hh hi
    refine ⟨fun hw => runs_now (roceSendReceived_runs c h psn d imm [] s ht.1) ?_ hafter, fun _ _ => runs_later (roceSendReceived_runs c h psn d imm [] s ht.1) hafter⟩
    exact htiers.trans (placeRecv_tiers hw _ c)
  · obtain ⟨k, hk⟩ := request_exec hd hi
    refine ⟨fun ho => ?_, fun hst hheld hne => ⟨fun hp => ?_, fun hp => ?_⟩⟩
    · rw [atPsn_discards hq ho] at hk
      exact hk rfl
    · rw [atPsn_duplicate hq hst hheld hne hp] at hk
      exact justSends_of (hk (sendRoce_tiers _ _ _ _ _ _))
    · rw [atPsn_ahead hq hst hheld hne hp] at hk
      exact justSends_of (hk (sendRoce_tiers _ _ _ _ _ _))

end Sys2Proof
end

section
/-! SUPPORT. The TALLY commands of a deck (Table 11.1): what each does to its tally, its waiters and its own level. -/

namespace Sys2Proof

open Machine

/-! The level that a TALLY command leaves behind it. -/

/-- A change of a level leaves an item's failure. -/
theorem itemFails_modLevel {t : State} {a b cause : Nat} (h : itemFails t a b cause) (shoe seq l : Nat) (f : Level → Level) :
    itemFails (t.modLevel shoe seq l f) a b cause := by
  obtain ⟨i, hi, hst, hfailed, hcause⟩ := h
  rw [itemFails, findItem_modLevel, hi]
  split
  · exact ⟨_, rfl, hst, hfailed, hcause⟩
  · exact ⟨_, rfl, hst, hfailed, hcause⟩

theorem itemFails_doneCmd {t : State} {a b' cause : Nat} (h : itemFails t a b' cause) (shoe seq l g : Nat) (b : List Byte) :
    itemFails (doneCmd t shoe seq l g b) a b' cause :=
  itemFails_modLevel (itemFails_modLevel (itemFails_congr (turn_items t shoe seq l) h) shoe seq l _) shoe seq l _

theorem doneCmd_tally (t : State) (shoe seq l g : Nat) (b : List Byte) (n : Nat) : (doneCmd t shoe seq l g b).tally n = t.tally n := by
  rw [State.tally, doneCmd_sync, State.tally]

theorem doneCmd_poisoned {s t : State} {n : Nat} (h : tallyPoisoned s t n) (shoe seq l g : Nat) (b : List Byte) :
    tallyPoisoned s (doneCmd t shoe seq l g b) n :=
  ⟨(doneCmd_tally t shoe seq l g b n).trans h.1, fun w hw i hi hf => itemFails_doneCmd (h.2 w hw i hi hf) shoe seq l g b⟩

section Effect

variable {s : State} {shoe seq l : Nat} {lv : Level} {b : List Byte} {n : Nat}

/-- The command whose operation the granule names has that operation's effect (Table 5.4). -/
theorem tallyCommand_runs (h : cmdStarts s shoe seq l 0x03 lv b) {i : Instr} (hi : [Instr.tallyAdd shoe seq l, .tallySet shoe seq l,
    .tallyWaitGe shoe seq l, .tallyWaitEq shoe seq l, .tallyArm shoe seq l, .tallyPoison shoe seq l][field b 6 1]? = some i) :
    exec i s = .next (runTally s shoe seq l lv.pc b) := by
  have hgate := fun op (ho : field b 6 1 = op) => congrArg (Host.Outcome.next : State → Answer) (tallyCmd_starts h ho)
  generalize hop : field b 6 1 = op at hi
  match op, hi with
  | 0, rfl => exact (tallyAdd_runs shoe seq l s h.1).trans (hgate 0 hop)
  | 1, rfl => exact (tallySet_runs shoe seq l s h.1).trans (hgate 1 hop)
  | 2, rfl => exact (tallyWaitGe_runs shoe seq l s h.1).trans (hgate 2 hop)
  | 3, rfl => exact (tallyWaitEq_runs shoe seq l s h.1).trans (hgate 3 hop)
  | 4, rfl => exact (tallyArm_runs shoe seq l s h.1).trans (hgate 4 hop)
  | 5, rfl => exact (tallyPoison_runs shoe seq l s h.1).trans (hgate 5 hop)

theorem cmdStarts_level (h : cmdStarts s shoe seq l 0x03 lv b) : levelOf s shoe seq l = some lv := by
  obtain ⟨-, -, -, -, -, -, -, -, hl⟩ := nextCmd_some h.2.1
  exact hl

/-- A TALLY command that fails its item changes the Dealer alone (R213, R216, R223). -/
theorem tally_fails (h : cmdStarts s shoe seq l 0x03 lv b) {t : State} {cause d : Nat} (ht : t = failAt s shoe seq l lv.pc cause d) :
    itemFails t shoe seq cause ∧ OnlyParts [.dl] s t :=
  ht ▸ ⟨fails_of_next h.2.1 rfl lv.pc cause d, failAt_only s shoe seq l lv.pc cause d⟩

theorem runTally_absent (g : Nat) (hn : resolveTally s shoe (field b 8 2) = none) : runTally s shoe seq l g b = failAt s shoe seq l g 0x0102 := by
  simp only [runTally, hn]

variable (hn : resolveTally s shoe (field b 8 2) = some n)
include hn

/-- An operation other than ARM and POISON fails its item on a POISONED tally (R216). -/
theorem runTally_poisoned (g : Nat) (ho : field b 6 1 < 4) (hp : (s.tally n).poisoned = true) :
    runTally s shoe seq l g b = failAt s shoe seq l g (s.tally n).cause (poisonDetail (s.tally n) (field b 8 2)) := by
  have h5 : field b 6 1 ≠ 5 := by omega
  have h4 : field b 6 1 ≠ 4 := by omega
  simp only [runTally, hn, if_neg h5, if_neg h4, if_pos hp]

theorem runTally_release (g : Nat) (ho : field b 6 1 ≤ 1) (hp : (s.tally n).poisoned = false) (hr : isRelease s n = true) :
    runTally s shoe seq l g b = failAt s shoe seq l g 0x0522 := by
  have h5 : field b 6 1 ≠ 5 := by omega
  have h4 : field b 6 1 ≠ 4 := by omega
  simp [runTally, hn, h5, h4, hp, ho, hr]

/-- ADD and SET (Table 11.1). -/
theorem runTally_sets (g : Nat) (ho : field b 6 1 ≤ 1) (hp : (s.tally n).poisoned = false) (hr : isRelease s n = false) :
    runTally s shoe seq l g b = doneCmd (applyTally s n (if field b 6 1 = 0 then (s.tally n).value + BitVec.ofNat 32 (field b 0xC 4)
      else BitVec.ofNat 32 (field b 0xC 4))) shoe seq l g b := by
  have h5 : field b 6 1 ≠ 5 := by omega
  have h4 : field b 6 1 ≠ 4 := by omega
  by_cases h0 : field b 6 1 = 0
  · simp [runTally, hn, hp, hr, h0]
  · have h1 : field b 6 1 = 1 := by omega
    simp [runTally, hn, hp, hr, h1]

/-- WAIT_GE and WAIT_EQ (R215). -/
theorem runTally_waits (g : Nat) (ho : 2 ≤ field b 6 1) (ho' : field b 6 1 ≤ 3) (hp : (s.tally n).poisoned = false) :
    runTally s shoe seq l g b = if waitMet (field b 6 1 == 3) (s.tally n).value.toNat (field b 0xC 4) then doneCmd s shoe seq l g b
      else heldCmd s shoe seq l g b (.tallyWait n (field b 6 1 == 3) (field b 0xC 4)) := by
  have h5 : field b 6 1 ≠ 5 := by omega
  have h4 : field b 6 1 ≠ 4 := by omega
  have h1 : ¬ field b 6 1 ≤ 1 := by omega
  have h1' : field b 6 1 ≠ 1 := by omega
  have h0 : field b 6 1 ≠ 0 := by omega
  simp [runTally, hn, h5, h4, hp, h1, h1', h0]

theorem runTally_arm_release (g : Nat) (ho : field b 6 1 = 4) (hr : isRelease s n = true) : runTally s shoe seq l g b = failAt s shoe seq l g 0x0522 := by
  simp [runTally, hn, ho, hr]

theorem runTally_arm (g : Nat) (ho : field b 6 1 = 4) (hr : isRelease s n = false) :
    runTally s shoe seq l g b = doneCmd (armTally s n (field b 0xC 4)) shoe seq l g b := by
  simp [runTally, hn, ho, hr]

theorem runTally_poison (g : Nat) (ho : field b 6 1 = 5) : runTally s shoe seq l g b = doneCmd (poisonTally s n 0x0303) shoe seq l g b := by
  simp [runTally, hn, ho]

omit hn

/-- What a wait that starts leaves: it is done where it is met, and else it is held (R215). -/
theorem tally_waits (h : cmdStarts s shoe seq l 0x03 lv b) (eq : Bool) (v thr : Nat) :
    let t := if waitMet eq v thr then doneCmd s shoe seq l lv.pc b else heldCmd s shoe seq l lv.pc b (.tallyWait n eq thr)
    OnlyParts [.dl] s t ∧ othersStay s t shoe seq ∧ (waitMet eq v thr = true → levelOf t shoe seq l = some (cmdDone lv b)) ∧
      (waitMet eq v thr = false → levelOf t shoe seq l = some (cmdHeld s.now lv b (.tallyWait n eq thr))) := by
  have hl := cmdStarts_level h
  cases waitMet eq v thr with
  | true => exact ⟨doneCmd_only _ _ _ _ _ _, others_doneCmd _ _ _ _ _ _, fun _ => levelOf_doneCmd b hl, fun hc => (nomatch hc)⟩
  | false => exact ⟨heldCmd_only _ _ _ _ _ _ _, others_heldCmd _ _ _ _ _ _ _, fun hc => (nomatch hc), fun _ => levelOf_heldCmd b _ hl⟩

/-- A READY tally is poisoned, and the command's own item, where it does not wait on that tally, goes on (R217). -/
theorem tally_poisons (h : cmdStarts s shoe seq l 0x03 lv b) (hn : n < 1024) (hp : (s.tally n).poisoned = false) :
    let t := doneCmd (poisonTally s n 0x0303) shoe seq l lv.pc b
    tallyPoisoned s t n ∧ (trickOfTally s n = none → (∀ w ∈ waitersOn s n, ¬ (w.1 = shoe ∧ w.2.1 = seq)) →
      levelOf t shoe seq l = some (cmdDone lv b)) := by
  obtain ⟨hpoisoned, -, halone⟩ := poisonTally_ready hn hp
  refine ⟨doneCmd_poisoned hpoisoned shoe seq l lv.pc b, fun ht hw => levelOf_doneCmd b ?_⟩
  rw [levelOf, (halone ht).2 shoe seq hw]
  exact cmdStarts_level h

end Effect

/-- Settles O23: the command that the granule names runs its operation, and each operation by the tally's state (R213 to R218, R223). -/
theorem tallyDeckCommands : Obligations.TallyDeckCommands := by
  intro s shoe seq l lv b h cmd i hi
  have hrun := tallyCommand_runs h hi
  refine ⟨fun hn => ⟨_, hrun, tally_fails h (runTally_absent _ hn)⟩, fun n h1024 hn => ?_⟩
  refine ⟨fun ho hp => ⟨_, hrun, tally_fails h (runTally_poisoned hn _ ho hp)⟩,
    fun ho hp hr => ⟨_, hrun, tally_fails h (runTally_release hn _ (by simp at ho; omega) hp hr)⟩,
    fun ho hp hr => ⟨_, hrun, ?_⟩, fun ho hp => ⟨_, hrun, ?_⟩, fun ho hr => ⟨_, hrun, tally_fails h (runTally_arm_release hn _ ho hr)⟩,
    fun ho hr => ⟨_, hrun, ?_⟩, fun ho hp => ⟨_, hrun, ?_⟩, fun ho hp => ⟨_, hrun, ?_⟩⟩
  · obtain ⟨hset, hfalls⟩ := applyTally_set
      (if field b 6 1 = 0 then (s.tally n).value + BitVec.ofNat 32 (field b 0xC 4) else BitVec.ofNat 32 (field b 0xC 4)) h1024 hr
    rw [runTally_sets hn _ (by simp at ho; omega) hp hr]
    exact ⟨doneCmd_set shoe seq l lv.pc b hset, passed_of_falls b (cmdStarts_level h) hfalls⟩
  · have hop : 2 ≤ field b 6 1 ∧ field b 6 1 ≤ 3 := by simp at ho; omega
    obtain ⟨honly, hothers, hmet, hheld⟩ := tally_waits (n := n) h (field b 6 1 == 3) (s.tally n).value.toNat (field b 0xC 4)
    have hcmp : waitMet (field b 6 1 == 3) (s.tally n).value.toNat (field b 0xC 4) = true ↔
        if field b 6 1 = 3 then (s.tally n).value.toNat = field b 0xC 4 else field b 0xC 4 ≤ (s.tally n).value.toNat := by
      by_cases h3 : field b 6 1 = 3 <;> simp [waitMet, h3]
    rw [runTally_waits hn _ hop.1 hop.2 hp]
    exact ⟨honly, hothers, fun hm => hmet (hcmp.2 hm), fun hm => hheld (Bool.eq_false_iff.2 fun hc => hm (hcmp.1 hc))⟩
  · obtain ⟨htally, hrest, hfalls, -⟩ := armTally_set (field b 0xC 4) h1024 hr
    rw [runTally_arm hn _ ho hr]
    exact ⟨(doneCmd_tally _ _ _ _ _ _ n).trans htally, passed_of_falls b (cmdStarts_level h) hfalls,
      fun ht m hm => (doneCmd_tally _ _ _ _ _ _ m).trans (hrest ht m hm)⟩
  · rw [runTally_poison hn _ ho, poisonTally_poisoned _ hp]
    exact ⟨doneCmd_only _ _ _ _ _ _, levelOf_doneCmd b (cmdStarts_level h)⟩
  · rw [runTally_poison hn _ ho]
    exact tally_poisons h h1024 hp

end Sys2Proof
end

section
/-! SUPPORT. The tally windows of the host and of the steward, and the host's wait slots (R219, R220, R231). -/

namespace Sys2Proof

open Machine

theorem agentSet_ready {s : State} {n : Nat} (v : Nat) (hp : (s.tally n).poisoned = false) (hr : isRelease s n = false) :
    agentSet s n v = applyTally s n (BitVec.ofNat 32 v) := by
  simp [agentSet, hp, hr]

theorem agentAdd_poisoned {s : State} {n : Nat} (v : Nat) (hp : (s.tally n).poisoned = true) : agentAdd s n v = s := by
  simp [agentAdd, hp]

theorem agentSet_poisoned {s : State} {n : Nat} (v : Nat) (hp : (s.tally n).poisoned = true) : agentSet s n v = s := by
  simp [agentSet, hp]

/-! The window of a claim on its tallies (R219). -/

/-- The host may ADD to and SET claim tally n, which is package tally d: its mask bit is 1, it is READY, and no live trick's release tally
(R219, R223). -/
def windowTakes (s : State) (c n d : Nat) : Prop :=
  (tget (tget s.sync.claims c).masks (n / 64)).toNat.testBit (n % 64) = true ∧ (s.tally d).poisoned = false ∧ isRelease s d = false

section Window

variable {s : State} {c n : Nat} (hn : n < (s.claim c).tallyCount)
include hn

theorem tallyOp_add (v : Nat) : tallyOp s c n 0 v = windowOp s c n fun s d => agentAdd s d v := if_neg (Nat.not_le.2 hn)

theorem tallyOp_set (v : Nat) : tallyOp s c n 1 v = windowOp s c n fun s d => agentSet s d v := if_neg (Nat.not_le.2 hn)

theorem tallyOp_poison (v : Nat) : tallyOp s c n 5 v = poisonTally s ((s.claim c).tallyBase + n) 0x0303 := if_neg (Nat.not_le.2 hn)

theorem windowOp_takes (act : State → Nat → State) (h : windowTakes s c n ((s.claim c).tallyBase + n)) :
    windowOp s c n act = act s ((s.claim c).tallyBase + n) := by
  obtain ⟨hmask, hready, hfree⟩ := h
  exact if_pos (by simp [hostWritable, hn, hmask, hready, hfree])

omit hn in
theorem windowOp_refuses (act : State → Nat → State) (h : ¬ windowTakes s c n ((s.claim c).tallyBase + n)) : windowOp s c n act = windowRefused s c := by
  refine if_neg fun hc => h ?_
  simp only [hostWritable, Bool.and_eq_true, Bool.not_eq_true', decide_eq_true_eq, and_assoc] at hc
  obtain ⟨-, hmask, hready, hfree⟩ := hc
  exact ⟨hmask, hready, hfree⟩

/-- ADD and SET of a tally that the host may write. -/
theorem tallyOp_sets (v : Nat) (hd : (s.claim c).tallyBase + n < 1024) (h : windowTakes s c n ((s.claim c).tallyBase + n)) :
    tallySet s (tallyOp s c n 0 v) ((s.claim c).tallyBase + n) ((s.tally ((s.claim c).tallyBase + n)).value + BitVec.ofNat 32 v) ∧
      tallySet s (tallyOp s c n 1 v) ((s.claim c).tallyBase + n) (BitVec.ofNat 32 v) := by
  have hset := fun v => (applyTally_set v hd h.2.2).1
  rw [tallyOp_add hn, tallyOp_set hn, windowOp_takes hn _ h, windowOp_takes hn _ h, agentAdd_ready v h.2.1 h.2.2, agentSet_ready v h.2.1 h.2.2]
  exact ⟨hset _, hset _⟩

/-- ADD and SET of any other tally of the claim. -/
theorem tallyOp_refuses (v : Nat) (h : ¬ windowTakes s c n ((s.claim c).tallyBase + n)) :
    tallyOp s c n 0 v = windowRefused s c ∧ tallyOp s c n 1 v = windowRefused s c :=
  ⟨(tallyOp_add hn v).trans (windowOp_refuses _ h), (tallyOp_set hn v).trans (windowOp_refuses _ h)⟩

end Window

theorem windowRefused_reports (s : State) {c : Nat} (hc : c < 8) : (tget (windowRefused s c).sync.claims c).refused = true :=
  congrArg ClaimTally.refused (tget_tmod_same s.sync.claims _ hc)

theorem windowRefused_only (s : State) (c : Nat) : OnlyParts [.sync] s (windowRefused s c) :=
  (windowRefused_moves s c (Moves.refl 512 s) rfl).only (covers_spec rfl)

theorem dropHold_only (s : State) (fn off : Nat) : OnlyParts [.fns] s (dropHold s fn off) :=
  (dropHold_moves s fn off (Moves.refl 1024 s) rfl).only (covers_spec rfl)

/-! A held low half that a write ends says nothing of tallies, claims and waits. -/

theorem windowTakes_dropHold {s : State} {c n d fn off : Nat} : windowTakes (dropHold s fn off) c n d ↔ windowTakes s c n d := Iff.rfl

theorem tallySet_dropHold {s t : State} {n fn off : Nat} {v : Word32} : tallySet (dropHold s fn off) t n v ↔ tallySet s t n v := Iff.rfl

theorem tallyPoisoned_dropHold {s t : State} {n fn off : Nat} : tallyPoisoned (dropHold s fn off) t n ↔ tallyPoisoned s t n := Iff.rfl

section HostOps

variable {s : State} {c n : Nat} (hc : c < 8) (hreg : (regAt s (c + 1) (0x20008 + 16 * n)).isSome = true) (hw : writesWait s = false)
  (hn : n < (s.claim c).tallyCount)
include hc hreg hw

theorem tlyOpAdd_writes (v : Nat) : exec (.tlyOpAdd c n v) s = .next (tallyOp (dropHold s (c + 1) (0x20008 + 16 * n)) c n 0 (v % 2 ^ 32)) :=
  (tlyOpAdd_runs c n v s hw).trans (congrArg _ (viaClaimWide_pos hc hreg))

theorem tlyOpSet_writes (v : Nat) : exec (.tlyOpSet c n v) s = .next (tallyOp (dropHold s (c + 1) (0x20008 + 16 * n)) c n 1 (v % 2 ^ 32)) :=
  (tlyOpSet_runs c n v s hw).trans (congrArg _ (viaClaimWide_pos hc hreg))

include hn

theorem tlyOpPoison_writes : exec (.tlyOpPoison c n) s =
    .next (poisonTally (dropHold s (c + 1) (0x20008 + 16 * n)) ((s.claim c).tallyBase + n) 0x0303) :=
  (tlyOpPoison_runs c n s hw).trans (congrArg _ ((viaClaimWide_pos hc hreg).trans (tallyOp_poison (s := dropHold s _ _) hn 0)))

theorem tlyOp_takes (v : Nat) (hd : (s.claim c).tallyBase + n < 1024) (h : windowTakes s c n ((s.claim c).tallyBase + n)) :
    Runs (.tlyOpAdd c n v) s (fun t => tallySet s t ((s.claim c).tallyBase + n)
        ((s.tally ((s.claim c).tallyBase + n)).value + BitVec.ofNat 32 (v % 2 ^ 32))) ∧
      Runs (.tlyOpSet c n v) s (fun t => tallySet s t ((s.claim c).tallyBase + n) (BitVec.ofNat 32 (v % 2 ^ 32))) := by
  obtain ⟨hadd, hset⟩ := tallyOp_sets (s := dropHold s (c + 1) (0x20008 + 16 * n)) hn (v % 2 ^ 32) hd (windowTakes_dropHold.2 h)
  exact ⟨⟨_, tlyOpAdd_writes hc hreg hw v, tallySet_dropHold.1 hadd⟩, ⟨_, tlyOpSet_writes hc hreg hw v, tallySet_dropHold.1 hset⟩⟩

theorem tlyOp_refuses (v : Nat) (h : ¬ windowTakes s c n ((s.claim c).tallyBase + n)) : ∀ i ∈ [Instr.tlyOpAdd c n v, .tlyOpSet c n v],
    Runs i s fun t => (tget t.sync.claims c).refused = true ∧ t.sync.tallies = s.sync.tallies ∧ OnlyParts [.sync, .fns] s t := by
  obtain ⟨hadd, hset⟩ := tallyOp_refuses (s := dropHold s (c + 1) (0x20008 + 16 * n)) hn (v % 2 ^ 32) (fun hc => h (windowTakes_dropHold.1 hc))
  have honly : OnlyParts [.sync, .fns] s (windowRefused (dropHold s (c + 1) (0x20008 + 16 * n)) c) :=
    ((dropHold_only s _ _).sub rfl).trans ((windowRefused_only _ c).sub rfl)
  intro i hi
  rcases List.mem_pair.1 hi with rfl | rfl
  · refine ⟨_, tlyOpAdd_writes hc hreg hw v, ?_⟩
    rw [hadd]
    exact ⟨windowRefused_reports _ hc, rfl, honly⟩
  · refine ⟨_, tlyOpSet_writes hc hreg hw v, ?_⟩
    rw [hset]
    exact ⟨windowRefused_reports _ hc, rfl, honly⟩

theorem tlyOpPoison_ready (hd : (s.claim c).tallyBase + n < 1024) (hp : (s.tally ((s.claim c).tallyBase + n)).poisoned = false) :
    Runs (.tlyOpPoison c n) s fun t => tallyPoisoned s t ((s.claim c).tallyBase + n) :=
  ⟨_, tlyOpPoison_writes hc hreg hw hn, tallyPoisoned_dropHold.1 (poisonTally_ready (s := dropHold s _ _) hd hp).1⟩

theorem tlyOpPoison_poisoned (hp : (s.tally ((s.claim c).tallyBase + n)).poisoned = true) :
    exec (.tlyOpPoison c n) s = .next (dropHold s (c + 1) (0x20008 + 16 * n)) :=
  (tlyOpPoison_writes hc hreg hw hn).trans (congrArg _ (poisonTally_poisoned (s := dropHold s _ _) _ hp))

end HostOps

/-! The host's wait slots (R220). -/

/-- Host wait slot w of claim c. -/
def waitSlot (s : State) (c w : Nat) : HostWait := tget (tget s.sync.claims c).waits w

/-- The word of TLY_HOST_WAIT that arms a slot: tally n, eq and a threshold v (Table 11.6). -/
theorem armWord_fields {n v : Nat} (eq : Bool) (hn : n < 2 ^ 10) (hv : v < 2 ^ 32) :
    let x := n % 2 ^ 10 + 2 ^ 10 * b2n eq + 2 ^ 11 + 2 ^ 32 * (v % 2 ^ 32)
    bits x 0 10 = n ∧ bit x 10 = eq ∧ bit x 11 = true ∧ bit x 12 = false ∧ bit x 13 = false ∧ bits x 32 32 = v := by
  dsimp only
  simp only [bits, bit, Nat.testBit_eq_decide_div_mod_eq]
  cases eq <;> simp only [b2n, if_true, Bool.false_eq_true, if_false, decide_eq_true_eq, decide_eq_false_iff_not] <;> omega

/-- An armed slot once it is tested on the tally that it has latched (R215, R220). -/
def slotTested (x : Tally) (h : HostWait) : HostWait :=
  if x.poisoned then { h with arm := false, met := true, failed := true }
  else if waitMet h.latEq x.value.toNat h.latThreshold then { h with arm := false, met := true } else h

section Slot

variable {s : State} {c w : Nat} (hc : c < 8) (hw : w < 16)
include hc hw

theorem waitSlot_modWait (s : State) (f : HostWait → HostWait) : waitSlot (s.modWait c w f) c w = f (waitSlot s c w) := by
  have hclaim : tget (s.modWait c w f).sync.claims c = { tget s.sync.claims c with waits := tmod (tget s.sync.claims c).waits w f } :=
    tget_tmod_same s.sync.claims _ hc
  rw [waitSlot, hclaim]
  exact tget_tmod_same _ f hw

theorem waitSlot_endHostWait (s : State) (failed : Bool) :
    waitSlot (endHostWait s c w failed) c w = { waitSlot s c w with arm := false, met := true, failed := (waitSlot s c w).failed || failed } := by
  rw [waitSlot, endHostWait, raiseSource_sync]
  exact waitSlot_modWait hc hw s _

omit hw in
theorem waitSlot_windowRefused (s : State) : waitSlot (windowRefused s c) c w = waitSlot s c w := by
  have hclaim : tget (windowRefused s c).sync.claims c = { tget s.sync.claims c with refused := true } := tget_tmod_same s.sync.claims _ hc
  rw [waitSlot, hclaim, waitSlot]

/-- A slot that has just been armed is tested against its latched fields (R215, R220). -/
theorem testSlot_armed {h : HostWait} (hs : waitSlot s c w = h) (ha : h.arm = true) :
    waitSlot (testSlot s c w) c w = slotTested (s.tally h.latTally) h := by
  have hslot : tget (tget s.sync.claims c).waits w = h := hs
  simp only [testSlot, slotTested, hslot, ha, Bool.not_true, Bool.false_eq_true, if_false]
  split
  · rw [waitSlot_endHostWait hc hw, hs, Bool.or_true]
  · split
    · rw [waitSlot_endHostWait hc hw, hs, Bool.or_false]
    · exact hs

end Slot

theorem testSlot_tallies (s : State) (c w : Nat) : (testSlot s c w).sync.tallies = s.sync.tallies := by
  have hend : ∀ failed, (endHostWait s c w failed).sync.tallies = s.sync.tallies := fun failed => by rw [endHostWait_sync s c w failed]
  unfold testSlot
  dsimp only
  split
  · rfl
  · split
    · exact hend true
    · split
      · exact hend false
      · rfl

/-- The fields that a write of a slot stores (R220). -/
def slotStores (n : Nat) (eq : Bool) (v : Nat) (h : HostWait) : HostWait := { h with tally := n, eq := eq, threshold := v }

/-- An armed slot: it has latched package tally d and its other fields as they stand (R220). -/
def slotArms (d : Nat) (eq : Bool) (v : Nat) (h : HostWait) : HostWait := { h with arm := true, latTally := d, latEq := eq, latThreshold := v }

theorem slotTested_fields (x : Tally) (d n : Nat) (eq : Bool) (v : Nat) (h : HostWait) :
    let k := slotTested x (slotArms d eq v (slotStores n eq v h))
    (k.tally = n ∧ k.eq = eq ∧ k.threshold = v) ∧ k.latTally = d ∧ k.latEq = eq ∧ k.latThreshold = v := by
  unfold slotTested
  dsimp only
  split
  · exact ⟨⟨rfl, rfl, rfl⟩, rfl, rfl, rfl⟩
  · split <;> exact ⟨⟨rfl, rfl, rfl⟩, rfl, rfl, rfl⟩

theorem slotTested_ends (x : Tally) (h : HostWait) : let k := slotTested x h
    (x.poisoned = true → k.arm = false ∧ k.met = true ∧ k.failed = true) ∧
      (x.poisoned = false → waitMet h.latEq x.value.toNat h.latThreshold = true → k.arm = false ∧ k.met = true ∧ k.failed = h.failed) ∧
      (x.poisoned = false → ¬ waitMet h.latEq x.value.toNat h.latThreshold = true → k.arm = h.arm ∧ k.met = h.met ∧ k.failed = h.failed) := by
  refine ⟨fun hp => ?_, fun hp hm => ?_, fun hp hm => ?_⟩
  · rw [slotTested, if_pos hp]
    exact ⟨rfl, rfl, rfl⟩
  · rw [slotTested, if_neg (by simp [hp]), if_pos hm]
    exact ⟨rfl, rfl, rfl⟩
  · rw [slotTested, if_neg (by simp [hp]), if_neg hm]
    exact ⟨rfl, rfl, rfl⟩

section Arm

variable {s : State} {c w n v : Nat} {eq : Bool} (hn : n < 2 ^ 10) (hv : v < 2 ^ 32)
include hn hv

theorem waitWrite_outside (hout : (s.claim c).tallyCount ≤ n) : waitWrite s c w (n % 2 ^ 10 + 2 ^ 10 * b2n eq + 2 ^ 11 + 2 ^ 32 * (v % 2 ^ 32)) =
    windowRefused (s.modWait c w (slotStores n eq v)) c := by
  obtain ⟨htally, heq, harm, -, -, hthr⟩ := armWord_fields eq hn hv
  simp only [waitWrite, htally, heq, harm, hthr, Bool.not_true, Bool.false_eq_true, if_false, if_pos hout]
  rfl

theorem waitWrite_inside (hin : n < (s.claim c).tallyCount) : waitWrite s c w (n % 2 ^ 10 + 2 ^ 10 * b2n eq + 2 ^ 11 + 2 ^ 32 * (v % 2 ^ 32)) =
    testSlot ((s.modWait c w (slotStores n eq v)).modWait c w (slotArms ((s.claim c).tallyBase + n) eq v)) c w := by
  obtain ⟨htally, heq, harm, hmet, hfailed, hthr⟩ := armWord_fields eq hn hv
  simp only [waitWrite, htally, heq, harm, hthr, hmet, hfailed, Bool.not_true, Bool.not_false, Bool.and_true, Bool.false_eq_true, if_false,
    if_neg (Nat.not_le.2 hin)]
  rfl

end Arm

section HostWaits

variable {s : State} {c w n v : Nat} (hc : c < 8) (hw16 : w < 16) (hn : n < 2 ^ 10) (hv : v < 2 ^ 32) (eq : Bool)
include hc hw16 hn hv

/-- The slot that a write outside the range leaves (R220). -/
theorem armed_outside (hout : (s.claim c).tallyCount ≤ n) :
    let t := waitWrite s c w (n % 2 ^ 10 + 2 ^ 10 * b2n eq + 2 ^ 11 + 2 ^ 32 * (v % 2 ^ 32))
    t.sync.tallies = s.sync.tallies ∧ waitSlot t c w = slotStores n eq v (waitSlot s c w) ∧ (tget t.sync.claims c).refused = true := by
  dsimp only
  rw [waitWrite_outside hn hv hout]
  exact ⟨rfl, (waitSlot_windowRefused hc _).trans (waitSlot_modWait hc hw16 s _), windowRefused_reports _ hc⟩

/-- The slot that a write inside the range leaves, once it is tested (R220). -/
theorem armed_inside (hin : n < (s.claim c).tallyCount) :
    let t := waitWrite s c w (n % 2 ^ 10 + 2 ^ 10 * b2n eq + 2 ^ 11 + 2 ^ 32 * (v % 2 ^ 32))
    let d := (s.claim c).tallyBase + n
    t.sync.tallies = s.sync.tallies ∧ waitSlot t c w = slotTested (s.tally d) (slotArms d eq v (slotStores n eq v (waitSlot s c w))) := by
  dsimp only
  rw [waitWrite_inside hn hv hin]
  have hslot : waitSlot ((s.modWait c w (slotStores n eq v)).modWait c w (slotArms ((s.claim c).tallyBase + n) eq v)) c w =
      slotArms ((s.claim c).tallyBase + n) eq v (slotStores n eq v (waitSlot s c w)) := by
    rw [waitSlot_modWait hc hw16, waitSlot_modWait hc hw16]
  exact ⟨testSlot_tallies _ c w, testSlot_armed hc hw16 hslot rfl⟩

/-- TLY_HOST_WAIT_ARM (R220). -/
theorem tlyHostWaitArm_arms (hreg : (regAt s (c + 1) (0x28000 + 16 * w)).isSome = true) (hw : writesWait s = false) :
    let d := (s.claim c).tallyBase + n; let h := waitSlot s c w
    Runs (.tlyHostWaitArm c w n eq v) s fun t => let k := waitSlot t c w
      t.sync.tallies = s.sync.tallies ∧ k.tally = n ∧ k.eq = eq ∧ k.threshold = v ∧
      ((s.claim c).tallyCount ≤ n → (tget t.sync.claims c).refused = true ∧ k.arm = h.arm ∧ k.met = h.met ∧ k.failed = h.failed ∧ k.latTally = h.latTally) ∧
      (n < (s.claim c).tallyCount → k.latTally = d ∧ k.latEq = eq ∧ k.latThreshold = v ∧
        ((s.tally d).poisoned = true → k.arm = false ∧ k.met = true ∧ k.failed = true) ∧
        ((s.tally d).poisoned = false → (if eq then (s.tally d).value.toNat = v else v ≤ (s.tally d).value.toNat) → k.arm = false ∧ k.met = true ∧ k.failed = h.failed) ∧
        ((s.tally d).poisoned = false → ¬ (if eq then (s.tally d).value.toNat = v else v ≤ (s.tally d).value.toNat) → k.arm = true ∧ k.met = h.met ∧ k.failed = h.failed)) := by
  intro d h
  refine ⟨_, (tlyHostWaitArm_runs c w n eq v s hw).trans (congrArg _ (viaClaimWide_pos hc hreg)), ?_⟩
  dsimp only
  by_cases hin : n < (s.claim c).tallyCount
  · obtain ⟨htallies, hslot⟩ := armed_inside (s := dropHold s (c + 1) (0x28000 + 16 * w)) hc hw16 hn hv eq hin
    have hmet : waitMet eq (s.tally d).value.toNat v = true ↔ if eq then (s.tally d).value.toNat = v else v ≤ (s.tally d).value.toNat := by
      cases eq <;> simp [waitMet]
    obtain ⟨⟨htally, heq, hthr⟩, hltally, hleq, hlthr⟩ := slotTested_fields (s.tally d) d n eq v h
    have hends := slotTested_ends (s.tally d) (slotArms d eq v (slotStores n eq v h))
    rw [hslot, ← hmet]
    exact ⟨htallies, htally, heq, hthr, fun hout => absurd hin (Nat.not_lt.2 hout), fun _ => ⟨hltally, hleq, hlthr, hends⟩⟩
  · obtain ⟨htallies, hslot, hrefused⟩ := armed_outside (s := dropHold s (c + 1) (0x28000 + 16 * w)) hc hw16 hn hv eq (Nat.not_lt.1 hin)
    rw [hslot]
    exact ⟨htallies, rfl, rfl, rfl, fun _ => ⟨hrefused, rfl, rfl, rfl, rfl⟩, fun hc => absurd hc hin⟩

end HostWaits

end Sys2Proof
end

section
/-! SUPPORT. The steward's window on the device tallies (R231). -/

namespace Sys2Proof

open Machine

section DevOps

variable {s : State} {n : Nat} (hn : n < 64) (hreg : (regAt s 0 (tlyOff (0x8 + 16 * n))).isSome = true) (hw : writesWait s = false)

section Writes
include hreg hw

theorem tlyDevOpAdd_writes (v : Nat) : exec (.tlyDevOpAdd n v) s = .next (deviceOp (dropHold s 0 (tlyOff (0x8 + 16 * n))) n 0 (v % 2 ^ 32)) :=
  (tlyDevOpAdd_runs n v s hw).trans (congrArg _ (viaWide_pos hreg))

theorem tlyDevOpSet_writes (v : Nat) : exec (.tlyDevOpSet n v) s = .next (deviceOp (dropHold s 0 (tlyOff (0x8 + 16 * n))) n 1 (v % 2 ^ 32)) :=
  (tlyDevOpSet_runs n v s hw).trans (congrArg _ (viaWide_pos hreg))

theorem tlyDevOpArm_writes (v : Nat) : exec (.tlyDevOpArm n v) s = .next (deviceOp (dropHold s 0 (tlyOff (0x8 + 16 * n))) n 4 (v % 2 ^ 32)) :=
  (tlyDevOpArm_runs n v s hw).trans (congrArg _ (viaWide_pos hreg))

theorem tlyDevOpPoison_writes : exec (.tlyDevOpPoison n) s = .next (deviceOp (dropHold s 0 (tlyOff (0x8 + 16 * n))) n 5 0) :=
  (tlyDevOpPoison_runs n s hw).trans (congrArg _ (viaWide_pos hreg))

end Writes

section Ops
include hn

theorem deviceOp_add (v : Nat) : deviceOp s n 0 v = agentAdd s n v := if_neg (Nat.not_le.2 hn)

theorem deviceOp_set (v : Nat) : deviceOp s n 1 v = agentSet s n v := if_neg (Nat.not_le.2 hn)

theorem deviceOp_arm (v : Nat) : deviceOp s n 4 v = armTally s n v := if_neg (Nat.not_le.2 hn)

theorem deviceOp_poison (v : Nat) : deviceOp s n 5 v = poisonTally s n 0x0303 := if_neg (Nat.not_le.2 hn)

end Ops

include hn hreg hw

/-- ADD and SET of a READY device tally. -/
theorem tlyDevOp_sets (v : Nat) (hp : (s.tally n).poisoned = false) (hr : isRelease s n = false) :
    Runs (.tlyDevOpAdd n v) s (fun t => tallySet s t n ((s.tally n).value + BitVec.ofNat 32 (v % 2 ^ 32))) ∧
      Runs (.tlyDevOpSet n v) s (fun t => tallySet s t n (BitVec.ofNat 32 (v % 2 ^ 32))) := by
  have hset := fun v => (applyTally_set (s := dropHold s 0 (tlyOff (0x8 + 16 * n))) v (by omega) hr).1
  refine ⟨⟨_, tlyDevOpAdd_writes hreg hw v, ?_⟩, ⟨_, tlyDevOpSet_writes hreg hw v, ?_⟩⟩
  · rw [deviceOp_add hn]
    exact (agentAdd_ready (s := dropHold s _ _) _ hp hr) ▸ hset _
  · rw [deviceOp_set hn]
    exact (agentSet_ready (s := dropHold s _ _) _ hp hr) ▸ hset _

/-- On a POISONED device tally every operation but ARM only ends a held low half (R8). -/
theorem tlyDevOp_ignored (v : Nat) (hp : (s.tally n).poisoned = true) : ∀ i ∈ [Instr.tlyDevOpAdd n v, .tlyDevOpSet n v, .tlyDevOpPoison n],
    exec i s = .next (dropHold s 0 (tlyOff (0x8 + 16 * n))) := by
  intro i hi
  simp only [List.mem_cons, List.not_mem_nil, or_false] at hi
  rcases hi with rfl | rfl | rfl
  · rw [tlyDevOpAdd_writes hreg hw, deviceOp_add hn]
    exact congrArg _ (agentAdd_poisoned (s := dropHold s _ _) _ hp)
  · rw [tlyDevOpSet_writes hreg hw, deviceOp_set hn]
    exact congrArg _ (agentSet_poisoned (s := dropHold s _ _) _ hp)
  · rw [tlyDevOpPoison_writes hreg hw, deviceOp_poison hn]
    exact congrArg _ (poisonTally_poisoned (s := dropHold s _ _) _ hp)

theorem tlyDevOpArm_arms (v : Nat) (hr : isRelease s n = false) : Runs (.tlyDevOpArm n v) s fun t =>
    t.tally n = { value := BitVec.ofNat 32 (v % 2 ^ 32) } ∧ (trickOfTally s n = none → ∀ m, m ≠ n → t.tally m = s.tally m) := by
  obtain ⟨htally, hrest, -⟩ := armTally_set (s := dropHold s 0 (tlyOff (0x8 + 16 * n))) (v % 2 ^ 32) (by omega : n < 1024) hr
  refine ⟨_, tlyDevOpArm_writes hreg hw v, ?_⟩
  rw [deviceOp_arm hn]
  exact ⟨htally, hrest⟩

theorem tlyDevOpPoison_ready (hp : (s.tally n).poisoned = false) : Runs (.tlyDevOpPoison n) s fun t => tallyPoisoned s t n := by
  refine ⟨_, tlyDevOpPoison_writes hreg hw, ?_⟩
  rw [deviceOp_poison hn]
  exact (poisonTally_ready (s := dropHold s _ _) (by omega) hp).1

end DevOps

/-- Settles O24: the claim's window by what it takes, refuses and poisons, a wait slot by its arming, and the steward's window by the device
tally's state (R219, R220, R231). -/
theorem tallyWindows : Obligations.TallyWindows := by
  refine fun s n v => ⟨fun c hc hreg hw hn hd => ⟨fun h => tlyOp_takes hc hreg hw hn v hd h, fun h => tlyOp_refuses hc hreg hw hn v h,
    tlyOpPoison_ready hc hreg hw hn hd, tlyOpPoison_poisoned hc hreg hw hn⟩,
    fun c hc w hw16 hreg hw hn hv eq => tlyHostWaitArm_arms hc hw16 hn hv eq hreg hw, fun hn hreg hw => ?_⟩
  exact ⟨tlyDevOp_sets hn hreg hw v, tlyDevOp_ignored hn hreg hw v, tlyDevOpArm_arms hn hreg hw v, tlyDevOpPoison_ready hn hreg hw⟩

end Sys2Proof
end

section
/-! SUPPORT. Trick messages at their seat (R222, R224, R225): what discards one, how arrivals are collected and released, and POISON. -/

namespace Sys2Proof

open Machine

section Named

variable {s : State} {round index tag g : Nat} {o : Seat}

/-- A message that matches no live trick is discarded (R225). -/
theorem trickMessage_unmatched (hd : diesUp s = true) (h : trickNamed s round index tag = none) :
    ∀ i ∈ [Instr.trickArriveReceived round index g o tag, .trickReleaseReceived round index g tag, .trickPoisonReceived round index o tag],
      exec i s = .next (discarded s) := by
  intro i hi
  simp only [List.mem_cons, List.not_mem_nil, or_false] at hi
  rcases hi with rfl | rfl | rfl
  · rw [trickArriveReceived_runs _ _ _ _ _ _ hd, arriveReceived, h]; rfl
  · rw [trickReleaseReceived_runs _ _ _ _ _ hd, releaseReceived, h]; rfl
  · rw [trickPoisonReceived_runs _ _ _ _ _ hd, poisonReceived, h]; rfl

variable {k : Nat} {t : Trick} (hk : trickNamed s round index tag = some (k, t))
include hk

/-- An ARRIVE that the lead does not count (R225). -/
theorem arriveReceived_discards (h : t.lead = false ∨ g ≠ t.gen % 2 ^ 32 ∨ o ∈ t.arrivals ∨ o ∉ t.seats) :
    arriveReceived s round index g o tag = discarded s := by
  simp only [arriveReceived, hk]
  refine if_pos ?_
  simpa [or_assoc] using h

theorem releaseReceived_discards (h : g ≠ t.gen % 2 ^ 32) : releaseReceived s round index g tag = discarded s := by
  simp only [releaseReceived, hk]
  exact if_pos h

theorem releaseReceived_poisoned (h : g = t.gen % 2 ^ 32) (hp : t.poisoned = true) : releaseReceived s round index g tag = s := by
  simp only [releaseReceived, hk, if_neg (not_not.2 h), if_pos hp]

theorem releaseReceived_applies (h : g = t.gen % 2 ^ 32) (hp : t.poisoned = false) :
    releaseReceived s round index g tag = arriveCheck (applyRelease s k t.gen) k := by
  simp only [releaseReceived, hk, if_neg (not_not.2 h), hp, Bool.false_eq_true, if_false]

variable (hlead : t.lead = true) (hg : g = t.gen % 2 ^ 32) (hnew : o ∉ t.arrivals) (hseat : o ∈ t.seats)
include hlead hg hnew hseat

/-- The lead of a poisoned trick collects nothing further (log entry 66). -/
theorem arriveReceived_poisoned (hp : t.poisoned = true) : arriveReceived s round index g o tag = s := by
  simp [arriveReceived, hk, hlead, hg, hnew, hseat, hp]

/-- An ARRIVE that the lead counts (R222, step 2). -/
theorem arriveReceived_collects (hp : t.poisoned = false) : arriveReceived s round index g o tag = arriveCheck (collectArrival s k o) k := by
  simp [arriveReceived, hk, hlead, hg, hnew, hseat, hp]

end Named

/-- The lead has sent RELEASE to every other seat (R222, step 3). -/
def releaseSent (s : State) (t : Trick) : State :=
  ((distinctSeats t.seats).filter (· != ownSeat s)).foldl (fun x seat => sendTrick x seat (trickMessage t 2 0 (ownSeat x))) s

theorem releaseSent_sync (s : State) (t : Trick) : (releaseSent s t).sync = s.sync := (sendTricks_eq _ _ s).1

section Collect

variable {s : State} {k : Nat} {t : Trick} {o : Seat} (ht : tget s.sync.tricks k = some t) (hnew : o ∉ t.arrivals)
include ht hnew

/-- The lead counts an arrival, with seats still missing. -/
theorem collectArrival_counts (h : t.arrivals.length + 1 < (distinctSeats t.seats).length) :
    collectArrival s k o = s.setTrick k (some { t with arrivals := t.arrivals ++ [o] }) := by
  have hnot : t.arrivals.contains o = false := by simpa using hnew
  have hfew : ¬ (distinctSeats t.seats).length ≤ (t.arrivals ++ [o]).length := by simp; omega
  simp only [collectArrival, ht, hnot, Bool.false_eq_true, if_false, if_neg hfew]

/-- The last arrival: RELEASE goes out and is applied (R222, steps 3 and 4). -/
theorem collectArrival_releases (h : (distinctSeats t.seats).length ≤ t.arrivals.length + 1) :
    collectArrival s k o = applyRelease ((releaseSent s t).setTrick k (some { t with arrivals := t.arrivals ++ [o] })) k t.gen := by
  have hnot : t.arrivals.contains o = false := by simpa using hnew
  have hall : (distinctSeats t.seats).length ≤ (t.arrivals ++ [o]).length := by simpa using h
  simp only [collectArrival, ht, hnot, Bool.false_eq_true, if_false, if_pos hall]
  rfl

end Collect

section Release

variable {s : State} {k : Nat} {t : Trick} (hk : k < 64) (ht : tget s.sync.tricks k = some t) (hr : t.releaseTally < 1024) (hne : t.arriveTally ≠ t.releaseTally)
include hk ht hr hne

/-- A release that is applied where the next generation's quota is not reached yet (R222, steps 1 and 4). -/
theorem applyRelease_settles (hnot : notReached s t (t.gen + 1)) : arriveCheck (applyRelease s k t.gen) k = applyRelease s k t.gen := by
  obtain ⟨htrick, -, hrest, -⟩ := applyRelease_facts t.gen hk ht hr
  refine arriveCheck_stop htrick (.inr (.inr ?_))
  unfold notReached at hnot ⊢
  rwa [hrest _ hne]

end Release

/-! POISON (R224). -/

/-- A trick that is poisoned here has both tallies POISONED, each with its first cause. -/
theorem poisonTrickHere_tallies {s : State} {k : Nat} {t : Trick} (ht : tget s.sync.tricks k = some t) (o : Seat) {m : Nat} (hm : m < 1024)
    (h : m = t.arriveTally ∨ m = t.releaseTally) :
    (poisonTrickHere s k o).tally m = if (s.tally m).poisoned then s.tally m else { s.tally m with poisoned := true, cause := 0x0520, origin := o } := by
  cases hp : (s.tally m).poisoned with
  | true => exact (poisonTrickHere_facts s k o).2 m hp
  | false =>
    simp only [poisonTrickHere, ht]
    generalize hu : s.setTrick k (some { t with poisoned := true, origin := if t.poisoned = true then t.origin else o }) = u
    have htally : u.tally m = s.tally m := hu ▸ rfl
    by_cases harr : m = t.arriveTally
    · subst harr
      have hone := poisonOne_here (s := u) 0x0520 o hm (htally ▸ hp)
      rw [poisonOne_tally _ _ _ _ _ (.inl (by rw [hone])), hone, htally]
      rfl
    · have hkeep := poisonOne_tally u t.arriveTally 0x0520 o m (.inr harr)
      obtain rfl := h.resolve_left harr
      rw [poisonOne_here 0x0520 o hm (by rw [hkeep, htally, hp]), hkeep, htally]
      rfl

/-- What POISON poisons, the end of its round leaves (R278). -/
theorem poisonReceived_tallies {s : State} {round index tag k : Nat} {t : Trick} (hk : trickNamed s round index tag = some (k, t)) (o : Seat) {m : Nat}
    (hm : m < 1024) (h : m = t.arriveTally ∨ m = t.releaseTally) : (poisonReceived s round index o tag).tally m =
      if (s.tally m).poisoned then s.tally m else { s.tally m with poisoned := true, cause := 0x0520, origin := o } := by
  have hhere := poisonTrickHere_tallies (trickNamed_some hk).2 o hm h
  have hpoisoned : ((poisonTrickHere s k o).tally m).poisoned = true := by
    rw [hhere]
    split
    · assumption
    · rfl
  simp only [poisonReceived, hk]
  split
  · rw [roundPoisoned_kept _ _ o m hpoisoned, hhere]
  · exact hhere

/-- Settles O25: a message by what discards it (R225), arrivals by whether every seat has arrived and a release by its generation (R222), a
poisoned trick's by log entry 66, and POISON by what each tally was (R224, log entry 67). -/
theorem trickMessages : Obligations.TrickMessages := by
  intro s round index g o tag hd
  refine ⟨trickMessage_unmatched hd, fun k t hk => ?_⟩
  obtain ⟨h64, ht⟩ := trickNamed_some hk
  have harrive := trickArriveReceived_runs round index g o tag s hd
  have hrelease := trickReleaseReceived_runs round index g tag s hd
  refine ⟨fun h => ?_, fun h => ?_, fun hp hg => ⟨?_, fun hlead hnew hseat => ?_⟩, fun hp hg hr hne => ⟨fun hlead hnew hseat hfew hstop => ?_,
    fun hlead hnew hseat hall hnot => ?_, fun hnot => ?_⟩, _, trickPoisonReceived_runs round index o tag s hd, fun m hm h => poisonReceived_tallies hk o hm h⟩
  · rw [harrive, arriveReceived_discards hk h]
  · rw [hrelease, releaseReceived_discards hk h]
  · rw [hrelease, releaseReceived_poisoned hk hg hp]
  · rw [harrive, arriveReceived_poisoned hk hlead hg hnew hseat hp]
  · rw [harrive, arriveReceived_collects hk hlead hg hnew hseat hp, collectArrival_counts ht hnew hfew]
    exact congrArg _ (arriveCheck_stop (tget_setTrick s _ h64) (.inr hstop))
  · refine ⟨_, harrive, ?_⟩
    rw [arriveReceived_collects hk hlead hg hnew hseat hp, collectArrival_releases ht hnew hall]
    have hsync := releaseSent_sync s t
    have htrick := tget_setTrick (releaseSent s t) (some { t with arrivals := t.arrivals ++ [o] }) h64
    have htally : ∀ m, ((releaseSent s t).setTrick k (some { t with arrivals := t.arrivals ++ [o] })).tally m = s.tally m := fun m => by
      rw [setTrick_tally, State.tally, hsync, State.tally]
    obtain ⟨hnext, hset, -, hlink⟩ := applyRelease_facts t.gen h64 htrick hr
    rw [applyRelease_settles h64 htrick hr hne (by unfold notReached at hnot ⊢; rwa [htally])]
    exact ⟨hlink, hset.trans (by rw [htally]), hnext⟩
  · refine ⟨_, hrelease, ?_⟩
    rw [releaseReceived_applies hk hg hp, applyRelease_settles h64 ht hr hne hnot]
    obtain ⟨hnext, hset, hrest, hlink⟩ := applyRelease_facts t.gen h64 ht hr
    exact ⟨hset, hnext, hrest, hlink⟩

end Sys2Proof
end

section
/-! SUPPORT. A read of claim memory leaves all that a round goes by: its controller, the claims, tallies, tricks and the link (R194, R335, R339). -/

namespace Sys2Proof

open Machine

namespace accessStays

theorem readWord (s : State) (t2 : Bool) (f k source : Nat) : accessStays s (readWord s t2 f k source).1 := by
  unfold Machine.readWord
  dsimp only
  split
  · exact logDetection s _ _ _ _ _ _
  · split
    · exact .refl s
    · exact (countCorrected s _).trans ((logDetection _ _ _ _ _ _ _).trans (modEcc _ _))
    · exact modEcc s _
    · exact modEcc s _
    · exact logDetection s _ _ _ _ _ _

theorem readWords (t2 : Bool) (f source : Nat) (ks : List Nat) (s : State) : accessStays s (readWords t2 f source ks s).1 := by
  induction ks generalizing s with
  | nil => exact .refl s
  | cons k ks ih =>
    have hword := readWord s t2 f k source
    unfold Machine.readWords
    split
    · rename_i u _ hr
      rwa [hr] at hword
    · rename_i u _ hr
      rw [hr] at hword
      have hrest := hword.trans (ih u)
      split <;> (rename_i hk; rwa [hk] at hrest)

theorem readFrame (s : State) (t2 : Bool) (f off len own source : Nat) : accessStays s (readFrame s t2 f off len own source).1 := by
  have hwords := readWords t2 f source (rangeFrom (off / 8) ((off + len + 7) / 8 - off / 8)) s
  unfold Machine.readFrame
  split
  · exact logDetection s _ _ _ _ _ _
  · split
    · exact logDetection s _ _ _ _ _ _
    · dsimp only
      split <;> (rename_i hk; rwa [hk] at hwords)

theorem readPieces (n : Nat) (heat : Bool) (ps : List Piece) (s : State) : accessStays s (readPieces n heat ps s).1 := by
  induction ps generalizing s with
  | nil => exact .refl s
  | cons x ps ih =>
    unfold Machine.readPieces
    split
    · exact .refl s
    · rename_i p _
      have hframe := readFrame s p.tier2 p.frame p.off x.len (accessOwner n p) 0
      split
      · rename_i u _ hr
        rwa [hr] at hframe
      · rename_i u _ hr
        rw [hr] at hframe
        have hrest := hframe.trans ((touchPlace u n p (heat && x.first)).trans (ih _))
        split <;> (rename_i hk; rwa [hk] at hrest)

end accessStays

/-- Claim memory has been read: only the parts that a read may change differ, and the claims are as they were. -/
def memoryRead (s t : State) : Prop := Moves 271688 s t ∧ t.cl.claims = s.cl.claims

namespace memoryRead

theorem refl (s : State) : memoryRead s s := ⟨.refl _ s, rfl⟩

theorem trans {s t u : State} (h : memoryRead s t) (k : memoryRead t u) : memoryRead s u := ⟨h.1.trans k.1, k.2.trans h.2⟩

theorem readClaim (s : State) (n va len : Nat) : memoryRead s (readClaim s n va len).1 :=
  ⟨readClaim_moves s n va len true (Moves.refl 271688 s) rfl, (accessStays.readPieces n true _ s).2⟩

theorem andThen {α β : Type} {s : State} {r : Run α} {k : α → State → Run β} (hr : memoryRead s r.1) (hk : ∀ a u, memoryRead u (k a u).1) :
    memoryRead s (r.andThen k).1 := by
  obtain ⟨u, _ | a⟩ := r
  · exact hr
  · exact hr.trans (hk a u)

/-- What a hand is gathered from is read (R272, R276). -/
theorem gatherHand (s : State) (a : Armed) (deal j : Nat) : memoryRead s (gatherHand s a deal j).1 := by
  refine (readClaim s _ _ _).andThen fun k u => (readClaim u _ _ _).andThen fun v w => andThen ?_ fun p x => .refl x
  split
  · exact readClaim w _ _ _
  · exact .refl w

theorem dealBitmap (s : State) (a : Armed) : memoryRead s (dealBitmap s a).1 := by
  unfold Sys2Proof.dealBitmap
  split
  · exact .refl s
  · exact readClaim s _ _ _

variable {s t : State} (h : memoryRead s t)
include h

theorem rounds : t.rounds = s.rounds := h.1.rest .rounds rfl
theorem dl : t.dl = s.dl := h.1.rest .dl rfl
theorem sync : t.sync = s.sync := h.1.rest .sync rfl
theorem link : t.link = s.link := h.1.rest .link rfl
theorem fences : t.fences = s.fences := h.1.rest .fences rfl
theorem boot : t.boot = s.boot := h.1.rest .boot rfl

theorem armed (c : Nat) : t.armed c = s.armed c := congrArg (fun r => (tget r.ctrls c).armed) h.rounds

end memoryRead

end Sys2Proof
end

section
/-! SUPPORT. Round controllers: their waits, how one fails and what it does step by step (R272, R275, R278). -/

namespace Sys2Proof

open Machine

/-- Go on after a read of claim memory by how it ended. -/
def runEnds {α : Type} (r : Run α) (bad : State → Nat × Nat → State) (good : State → α → State) : State :=
  match r with
  | (s, .error e) => bad s e
  | (s, .ok a) => good s a

section Ends

variable {α : Type} {r : Run α} {bad : State → Nat × Nat → State} {good : State → α → State}

theorem runEnds_error {e : Nat × Nat} (h : r.2 = .error e) : runEnds r bad good = bad r.1 e := by
  obtain ⟨u, _⟩ := r
  subst h
  rfl

theorem runEnds_ok {a : α} (h : r.2 = .ok a) : runEnds r bad good = good r.1 a := by
  obtain ⟨u, _⟩ := r
  subst h
  rfl

end Ends

/-! Waits begin by the claims, tallies and tricks alone (R213, R215). -/

theorem barrierPassed_congr {s t : State} (hs : t.sync = s.sync) (a : Armed) : barrierPassed t a = barrierPassed s a := by
  simp only [barrierPassed, hs]

theorem waitFrom_congr {s t : State} (hs : t.sync = s.sync) (hc : t.cl.claims = s.cl.claims) (n rel thr : Nat) :
    waitFrom t n rel thr = waitFrom s n rel thr := by
  unfold waitFrom resolveTally State.claim State.tally
  rw [hs, hc]

theorem waitsBegun_congr {s t : State} (hs : t.sync = s.sync) (hc : t.cl.claims = s.cl.claims) (a : Armed) : waitsBegun t a = waitsBegun s a := by
  unfold waitsBegun
  rw [barrierPassed_congr hs, waitFrom_congr hs hc, waitFrom_congr hs hc]

namespace roundIs

variable {s t u : State} {c : Nat} {a b : Armed}

theorem of_ctrls (h : t.rounds.ctrls = s.rounds.ctrls) (ha : s.armed c = some a) : roundIs s t c a := by
  unfold roundIs
  rw [h, ← ha]
  exact ⟨rfl, fun _ _ => rfl⟩

theorem trans (h : roundIs s t c a) (k : roundIs t u c b) : roundIs s u c b := ⟨by rw [k.1, h.1], fun d hd => (k.2 d hd).trans (h.2 d hd)⟩

theorem armed (h : roundIs s t c a) : t.armed c = some a := congrArg RoundCtl.armed h.1

theorem congr (h : roundIs s t c a) (hu : u.rounds.ctrls = t.rounds.ctrls) : roundIs s u c a := h.trans (.of_ctrls hu h.armed)

theorem modArmed (hc : c < 16) (ha : s.armed c = some a) (f : Armed → Armed) : roundIs s (s.modArmed c f) c (f a) := by
  refine ⟨(tget_tmod_same s.rounds.ctrls _ hc).trans ?_, fun k hk => tget_tmod_ne s.rounds.ctrls _ hk.symm⟩
  rw [show (tget s.rounds.ctrls c).armed = some a from ha]
  rfl

theorem beginWaits (hc : c < 16) (ha : s.armed c = some a) : roundIs s (beginWaits s c) c (waitsBegun s a) := by
  have hstart : (if a.startWait = .idle ∧ barrierPassed s a = true ∧ (!a.dealing) = true then waitFrom s a.claim a.startTally (a.deal + 1) else a.startWait) =
      if a.startWait = .idle ∧ barrierPassed s a = true ∧ a.dealing = false then waitFrom s a.claim a.startTally (a.deal + 1) else a.startWait :=
    if_congr (by rw [Bool.not_eq_true']) rfl rfl
  unfold waitsBegun Machine.beginWaits
  rw [← hstart]
  exact modArmed hc ha _

end roundIs

/-- A round fails as it does in a state with the same rounds at the same seat (R278). -/
theorem roundFails_congr {s t u : State} {c cause : Nat} {suspect : Seat} (hr : u.rounds = s.rounds) (hb : u.boot = s.boot)
    (h : roundFails u t c cause suspect) : roundFails s t c cause suspect := by
  unfold roundFails ctrlStays State.armed ownSeat State.image at h ⊢
  rwa [hr, hb] at h

/-- A round that fails on a read fails with the read's cause (R278). -/
theorem memoryRead.fails {s u : State} {c : Nat} {a : Armed} (h : memoryRead s u) (hc : c < 16) (ha : s.armed c = some a) (cause : Nat) (suspect : Seat) :
    roundFails s (failRound u c cause suspect) c cause suspect :=
  roundFails_congr h.rounds h.boot (failRound_fails hc ((h.armed c).trans ha) cause suspect)

/-! A step's work for its cores (R109, R271, R275). -/

theorem roundMacro_appends (s : State) (c : Nat) (a : Armed) (code param : Nat) (descs : List (List Byte)) :
    ∃ m : MacroInst, (roundMacro s c a code param descs).dl.macros = s.dl.macros ++ [m] ∧ m.id = s.dl.nextMacro ∧ m.claim = a.claim ∧
      m.owner = .round c ∧ m.code = code ∧ m.param = param ∧ m.descs = descs ∧ m.phase = .dispatched :=
  ⟨_, rfl, rfl, rfl, rfl, rfl, rfl, rfl, rfl⟩

theorem roundMacro_only (s : State) (c : Nat) (a : Armed) (code param : Nat) (descs : List (List Byte)) :
    OnlyParts [.dl] s (roundMacro s c a code param descs) :=
  (roundMacro_moves s c a code param descs (Moves.refl 128 s) rfl).only (covers_spec rfl)

section Step

variable {s : State} {c : Nat} {a : Armed} (hc : c < 16) (ha : s.armed c = some a)
include ha

theorem runStep_attends {r : Bool} (hr : a.plan.getD a.trig none = some r) : runStep s c =
    roundMacro (beginWaits (s.modArmed c fun _ => lastPassed a) c) c a (if a.backward then 3 else 2) (a.stepParam a.trig r) (a.stepDescs a.trig) := by
  simp only [runStep, ha, hr]
  rw [modArmed_at ha]
  rfl

include hc

/-- A step that is attended gives its cores one piece of work (R272, R275). -/
theorem runStep_macro {r : Bool} (hr : a.plan.getD a.trig none = some r) : let t := runStep s c
    OnlyParts [.dl, .rounds] s t ∧ roundIs s t c (waitsBegun s (lastPassed a)) ∧ ∃ m, stepMacro s c a a.trig r m ∧ t.dl.macros = s.dl.macros ++ [m] := by
  dsimp only
  rw [runStep_attends ha hr]
  have hround : roundIs s (beginWaits (s.modArmed c fun _ => lastPassed a) c) c (waitsBegun s (lastPassed a)) :=
    have hmod := roundIs.modArmed hc ha fun _ => lastPassed a
    hmod.trans (.beginWaits hc hmod.armed)
  have honly : OnlyParts [.rounds] s (beginWaits (s.modArmed c fun _ => lastPassed a) c) :=
    (beginWaits_moves _ c (State.modArmed_moves s c _ (Moves.refl 32768 s) rfl) rfl).only (covers_spec rfl)
  generalize hu : beginWaits (s.modArmed c fun _ => lastPassed a) c = u at hround honly ⊢
  have hdl : u.dl = s.dl := honly .dl (by decide)
  obtain ⟨m, hm, hid, hfields⟩ := roundMacro_appends u c a (if a.backward then 3 else 2) (a.stepParam a.trig r) (a.stepDescs a.trig)
  have hmac := roundMacro_only u c a (if a.backward then 3 else 2) (a.stepParam a.trig r) (a.stepDescs a.trig)
  exact ⟨(honly.sub rfl).trans (hmac.sub rfl), hround.congr (congrArg Rounds.ctrls (hmac .rounds (by decide))), m,
    ⟨hid.trans (by rw [hdl]), hfields⟩, hm.trans (by rw [hdl])⟩

end Step

end Sys2Proof
end

section
/-! SUPPORT. A round's steps and its pass timeout (R272, R274, R275, R278): what holds a controller, what it then does. -/

namespace Sys2Proof

open Machine

/-! A controller without a round. -/

section Idle

variable {s : State} {c : Nat} (h : s.armed c = none)
include h

theorem triggerStep_none : triggerStep s c = s := by simp [triggerStep, h]

theorem sendHand_none : sendHand s c = s := by simp [sendHand, h]

theorem passTimeout_none : passTimeout s c = s := by simp [passTimeout, h]

end Idle

/-! The first step of a deal (R275). -/

/-- The first step of a deal is never a distant hand and never skipped: it works on the own hand. -/
theorem dealStarts_first {a : Armed} (h : a.rank < a.seatCount) (bm : List Byte) :
    (dealStarts a bm).plan.getD (dealStarts a bm).trig none = some false := by
  have hown : a.origin 0 = a.rank := by
    rw [Armed.origin, Nat.zero_mod, Nat.sub_zero, Nat.add_mod_right, Nat.mod_eq_of_lt h]
  have hpos : 0 < a.seatCount := by omega
  simp only [dealStarts, Armed.planOf, List.getD_eq_getElem?_getD, List.getElem?_map, List.getElem?_range hpos, Option.map_some, Option.getD_some, hown]
  rw [if_neg (by omega), if_neg (by omega)]

theorem startDeal_reads (s : State) (c : Nat) (a : Armed) : startDeal s c a =
    runEnds (dealBitmap s a) (fun s e => failRound s c e.1 (0, 0, 0)) fun s bm => runStep (s.modArmed c fun a => dealStarts a bm) c := by
  unfold startDeal
  show (match dealBitmap s a with | (s, .error e) => _ | (s, .ok bm) => _) = _
  obtain ⟨u, _ | bm⟩ := dealBitmap s a <;> rfl

section Step

variable {s : State} {c : Nat} {a : Armed}

/-- A deal whose recall bitmap cannot be read fails the round. -/
theorem startDeal_unread (hc : c < 16) (ha : s.armed c = some a) {e : Nat × Nat} (he : (dealBitmap s a).2 = .error e) :
    roundFails s (startDeal s c a) c e.1 (0, 0, 0) := by
  rw [startDeal_reads, runEnds_error he]
  exact (memoryRead.dealBitmap s a).fails hc ha _ _

/-- A deal that starts: its first step gives its cores one piece of work (R272, R275). -/
theorem startDeal_first (hc : c < 16) (ha : s.armed c = some a) {bm : List Byte} (he : (dealBitmap s a).2 = .ok bm) (hrank : a.rank < a.seatCount) :
    let t := startDeal s c a
    roundIs s t c (waitsBegun s { dealStarts a bm with trig := 1 }) ∧
      ∃ m, stepMacro s c (dealStarts a bm) 0 false m ∧ t.dl.macros = s.dl.macros ++ [m] := by
  have hread := memoryRead.dealBitmap s a
  dsimp only
  rw [startDeal_reads, runEnds_ok he]
  generalize (dealBitmap s a).1 = u at hread
  have hround : roundIs s (u.modArmed c fun a => dealStarts a bm) c (dealStarts a bm) :=
    (roundIs.of_ctrls (congrArg Rounds.ctrls hread.rounds) ha).trans (.modArmed hc ((hread.armed c).trans ha) fun a => dealStarts a bm)
  obtain ⟨-, hstep, m, hm, hmacros⟩ := runStep_macro hc hround.armed (dealStarts_first hrank bm)
  have hwaits := waitsBegun_congr (s := s) (t := u.modArmed c fun a => dealStarts a bm) hread.sync hread.2 (lastPassed (dealStarts a bm))
  have hdl : (u.modArmed c fun a => dealStarts a bm).dl = s.dl := hread.dl
  rw [hwaits] at hstep
  refine ⟨hround.trans hstep, m, ?_, by rw [hmacros, hdl]⟩
  unfold stepMacro at hm ⊢
  rwa [hdl] at hm

/-! ROUND_STEP_TRIGGER (R272). -/

/-- The barrier, a redeal or a halt holds the step. -/
theorem triggerStep_held (ha : s.armed c = some a) (h : barrierPassed s a = false ∨ s.redealing = true ∨ shoeHalted s a.claim = true) :
    triggerStep s c = s := by
  simp only [triggerStep, ha]
  refine if_pos ?_
  simpa using h

variable (h : roundRuns s c a)
include h

theorem triggerStep_waits (hd : a.dealing = false) (hw : stillWaits a.startWait) : triggerStep s c = s := by
  obtain ⟨-, -, ha, hb, hr, hh⟩ := h
  rcases hw with hw | ⟨n, hw⟩ <;> simp [triggerStep, ha, hb, hr, hh, hd, hw]

theorem triggerStep_poisoned (hd : a.dealing = false) {cause : Nat} (hw : a.startWait = .failed cause) :
    triggerStep s c = failRound s c cause (0, 0, 0) := by
  obtain ⟨-, -, ha, hb, hr, hh⟩ := h
  simp [triggerStep, ha, hb, hr, hh, hd, hw]

theorem triggerStep_begins (hd : a.dealing = false) (hw : a.startWait = .met) : triggerStep s c =
    if (maskCores a.coreMask).any fun k => (tget s.fences.cores k).fenced then failRound s c 0x0508 (0, 0, 0) else startDeal s c a := by
  obtain ⟨-, -, ha, hb, hr, hh⟩ := h
  simp [triggerStep, ha, hb, hr, hh, hd, hw]

theorem triggerStep_early (hd : a.dealing = true) (hw : ¬ (a.trig < a.seatCount ∧ a.comp = a.trig ∧ a.hasLanded a.trig = true)) :
    triggerStep s c = s := by
  obtain ⟨-, -, ha, hb, hr, hh⟩ := h
  simp [triggerStep, ha, hb, hr, hh, hd, hw]

theorem triggerStep_due (hd : a.dealing = true) (hw : a.trig < a.seatCount ∧ a.comp = a.trig ∧ a.hasLanded a.trig = true) :
    triggerStep s c = runStep s c := by
  obtain ⟨-, -, ha, hb, hr, hh⟩ := h
  simp [triggerStep, ha, hb, hr, hh, hd, hw]

end Step

/-! PASS_TIMEOUT (R274, R278). -/

section Timeout

variable {s : State} {c : Nat} {a : Armed} (ha : s.armed c = some a)
include ha

theorem passTimeout_fails {seat : Seat} (h : roundWait s a = some seat) : passTimeout s c = failRound s c 0x0507 seat := by
  simp only [passTimeout, ha, Option.bind_some, h]

theorem passTimeout_idle (h : roundWait s a = none) : passTimeout s c = s := by
  simp only [passTimeout, ha, Option.bind_some, h]

omit ha

theorem roundWait_barrier (hb : barrierPassed s a = false) : roundWait s a = some (0, 0, 0) := by simp [roundWait, hb]

theorem roundWait_ready (hb : barrierPassed s a = true) (hd : a.sendDue = true) {k : Nat} (hw : a.readyWait = .waiting k) :
    roundWait s a = some a.downstream := by
  simp [roundWait, hb, hd, hw, TallyWait.waits]

theorem waits_iff (w : TallyWait) : w.waits = true ↔ ∃ k, w = .waiting k := by
  cases w <;> simp [TallyWait.waits]

/-- A controller that holds no hand back for a ready credit waits on its upstream seat alone, for a step's hand. -/
theorem roundWait_landing (hb : barrierPassed s a = true) (hn : ¬ (a.sendDue = true ∧ ∃ k, a.readyWait = .waiting k)) : roundWait s a =
    if a.dealing = true ∧ 0 < a.trig ∧ a.trig < a.seatCount ∧ a.comp = a.trig ∧ a.hasLanded a.trig = false then some a.upstream else none := by
  rw [← waits_iff] at hn
  simp only [roundWait, hb, Bool.not_true, Bool.false_eq_true, if_false, if_neg hn, Bool.not_eq_true']

end Timeout

end Sys2Proof
end

section
/-! SUPPORT. A round's hands (R243, R246, R272): what holds one, how it is gathered, and the transfer that carries it downstream. -/

namespace Sys2Proof

open Machine

/-! The transfer of a message to another seat (R243, R264). -/

theorem field_head (b : Byte) (bs : List Byte) : field (b :: bs) 0 1 = b.toNat := by
  simp [field, bytesAt, leNat]

theorem bytes_head (h : MsgHeader) : h.bytes = BitVec.ofNat 8 h.kind :: h.bytes.tail := by
  simp only [MsgHeader.bytes, leBytes, List.append_assoc, List.cons_append, List.tail_cons]

theorem read_kind (h : MsgHeader) : (MsgHeader.read h.bytes).kind = h.kind % 256 := by
  have hread : (MsgHeader.read h.bytes).kind = field h.bytes 0 1 := by rw [MsgHeader.read]
  rw [hread, bytes_head, field_head, BitVec.toNat_ofNat]

theorem routeFrom_congr {s t : State} (hp : t.link.ports = s.link.ports) (hf : t.fences = s.fences) (hb : t.boot = s.boot) (dest : Seat) :
    routeFrom t dest = routeFrom s dest := by
  have hup : dirUp t = dirUp s := by
    funext d
    unfold dirUp upPorts State.port
    rw [hp, hf]
  have himage : t.image = s.image := congrArg (fun b : Boot => b.img.getD {}) hb
  have hdir : chooseDir t dest = chooseDir s dest := by
    unfold chooseDir ownSeat
    rw [himage]
  unfold routeFrom
  rw [hup, himage, hdir]

/-- The transfer that a controller starts for a message (R243). -/
def xferOf (s : State) (c : Nat) (kind : XferKind) (h : MsgHeader) (data : List Byte) : Xfer :=
  { id := s.link.nextXfer % 2 ^ 32, ctrl := c, kind := kind, dest := h.dest
    header := { h with xfer := s.link.nextXfer % 2 ^ 32, src := ownSeat s }.bytes, data := data }

/-- A transfer is listed, and its message waits in its direction's queue (R244). -/
def xferQueued (s t : State) (x : Xfer) : Prop :=
  t.link.xfers = s.link.xfers ++ [x] ∧ ∀ d, routeFrom s x.dest = .dir d → (tget t.link.groups d).msgs =
    if d < 6 then (tget s.link.groups d).msgs ++ [{ vc := kindVc (MsgHeader.read x.header).kind, dest := x.dest, xfer := some x.id
                                                    header := some x.header, data := x.data }] else (tget s.link.groups d).msgs

theorem xferOf_congr {s t : State} (hl : t.link = s.link) (hb : t.boot = s.boot) (c : Nat) (kind : XferKind) (h : MsgHeader) (data : List Byte) :
    xferOf t c kind h data = xferOf s c kind h data := by
  unfold xferOf ownSeat State.image
  rw [hl, hb]

theorem xferQueued_congr {s t u : State} {x : Xfer} (hl : t.link = s.link) (hr : ∀ dest, routeFrom t dest = routeFrom s dest) (h : xferQueued t u x) :
    xferQueued s u x := by
  unfold xferQueued at h ⊢
  rwa [hl, hr] at h

theorem enqueue_msgs (s : State) (d : Nat) (m : OutMsg) :
    (tget (enqueue s d m).link.groups d).msgs = if d < 6 then (tget s.link.groups d).msgs ++ [m] else (tget s.link.groups d).msgs := by
  split
  · exact congrArg Group.msgs (tget_tmod_same s.link.groups _ ‹_›)
  · exact congrArg Group.msgs ((tget_ge _ (Nat.not_lt.1 ‹_›)).trans (tget_ge _ (Nat.not_lt.1 ‹_›)).symm)

theorem startXfer_queues {s : State} (c : Nat) (kind : XferKind) {h : MsgHeader} (data : List Byte) (hr : routeFrom s h.dest ≠ .none) :
    let t := startXfer s c kind h data
    t.rounds = s.rounds ∧ xferQueued s t (xferOf s c kind h data) := by
  let x := xferOf s c kind h data
  let u := s.modLink fun l => { l with xfers := l.xfers ++ [x], nextXfer := l.nextXfer + 1 }
  have hroute : routeFrom u h.dest = routeFrom s h.dest := routeFrom_congr rfl rfl rfl h.dest
  have hstart : startXfer s c kind h data = routeXfer u x := rfl
  dsimp only
  rw [hstart, routeXfer, show x.dest = h.dest from rfl, hroute]
  cases hd : routeFrom s h.dest with
  | none => exact absurd hd hr
  | here => exact ⟨rfl, rfl, fun d hdir => nomatch hd.symm.trans hdir⟩
  | dir d =>
    refine ⟨rfl, rfl, fun d' hdir => ?_⟩
    obtain rfl : d = d' := Route.dir.inj (hd.symm.trans hdir)
    exact enqueue_msgs u d _

/-! ROUND_HAND_SEND (R272). -/

section Hand

variable {s : State} {c : Nat} {a : Armed}

/-- The send is not due, its ready credit is not there, or a redeal or a halt holds it. -/
theorem sendHand_held (ha : s.armed c = some a) (h : a.sendDue = false ∨ stillWaits a.readyWait ∨ s.redealing = true ∨ shoeHalted s a.claim = true) :
    sendHand s c = s := by
  simp only [sendHand, ha]
  split
  · rfl
  · rename_i hn
    simp only [Bool.not_eq_true', not_or, Bool.not_eq_true, Bool.not_eq_false] at hn
    have hw : stillWaits a.readyWait := by simpa [hn] using h
    rcases hw with hw | ⟨n, hw⟩ <;> rw [hw]

theorem sendHand_poisoned (ha : s.armed c = some a) (hd : a.sendDue = true) (hr : s.redealing = false) (hh : shoeHalted s a.claim = false) {cause : Nat}
    (hw : a.readyWait = .failed cause) : sendHand s c = failRound s c cause a.downstream := by
  simp [sendHand, ha, hd, hr, hh, hw]

/-- The header of the next hand (R246, R273). -/
def handHeader (a : Armed) (data : List Byte) : MsgHeader :=
  { kind := 1, claim := a.claim, round := a.round, dest := a.downstream, length := data.length
    target := handTarget a.sent a.sendStep.1 (a.origin a.sendStep.2), tag := a.tag }

/-- A round that has passed its next hand on waits for a ready credit anew (R272). -/
def handPassed (a : Armed) : Armed := { a with sent := a.sent + 1, readyWait := .idle }

variable (h : handDue s c a)
include h

theorem sendHand_gathers : sendHand s c =
    runEnds (gatherHand s a a.sendStep.1 a.sendStep.2) (fun s e => failRound s c e.1 a.downstream) fun s data =>
      startXfer (beginWaits (s.modArmed c handPassed) c) c (.hand a.sent) (handHeader a data) data := by
  obtain ⟨-, -, ha, hd, hw, hr, hh⟩ := h
  have hgo : ¬ ((!a.sendDue) = true ∨ s.redealing = true ∨ shoeHalted s a.claim = true) := by simp [hd, hr, hh]
  simp only [sendHand, ha, hw, if_neg hgo]
  obtain ⟨u, _ | data⟩ := gatherHand s a a.sendStep.1 a.sendStep.2 <;> rfl

/-- A hand that cannot be read fails the round (R278). -/
theorem sendHand_unread {e : Nat × Nat} (he : (gatherHand s a a.sendStep.1 a.sendStep.2).2 = .error e) :
    roundFails s (sendHand s c) c e.1 a.downstream := by
  rw [sendHand_gathers h, runEnds_error he]
  obtain ⟨-, hc, ha, -⟩ := h
  exact (memoryRead.gatherHand s a _ _).fails hc ha _ _

/-- A hand that is gathered goes out as one transfer (R246, R272). -/
theorem sendHand_sends {data : List Byte} (he : (gatherHand s a a.sendStep.1 a.sendStep.2).2 = .ok data) (hroute : routeFrom s a.downstream ≠ .none) :
    let t := sendHand s c
    roundIs s t c (waitsBegun s (handPassed a)) ∧ xferQueued s t (xferOf s c (.hand a.sent) (handHeader a data) data) := by
  have hread := memoryRead.gatherHand s a a.sendStep.1 a.sendStep.2
  dsimp only
  rw [sendHand_gathers h, runEnds_ok he]
  obtain ⟨-, hc, ha, -⟩ := h
  generalize (gatherHand s a a.sendStep.1 a.sendStep.2).1 = u at hread
  have hpassed : roundIs s (u.modArmed c handPassed) c (handPassed a) :=
    (roundIs.of_ctrls (congrArg Rounds.ctrls hread.rounds) ha).trans (.modArmed hc ((hread.armed c).trans ha) handPassed)
  have hwaits := roundIs.beginWaits hc hpassed.armed
  rw [waitsBegun_congr (s := s) (t := u.modArmed c handPassed) hread.sync hread.2] at hwaits
  have hround := hpassed.trans hwaits
  have hlink : (beginWaits (u.modArmed c handPassed) c).link = s.link := hread.link
  have hboot : (beginWaits (u.modArmed c handPassed) c).boot = s.boot := hread.boot
  have hfences : (beginWaits (u.modArmed c handPassed) c).fences = s.fences := hread.fences
  generalize beginWaits (u.modArmed c handPassed) c = v at hround hlink hboot hfences ⊢
  have hsame := routeFrom_congr (congrArg Link.ports hlink) hfences hboot
  obtain ⟨hrounds, hxfer⟩ := startXfer_queues (s := v) c (.hand a.sent) (h := handHeader a data) data (hsame a.downstream ▸ hroute)
  rw [xferOf_congr hlink hboot] at hxfer
  exact ⟨hround.congr (congrArg Rounds.ctrls hrounds), xferQueued_congr hlink hsame hxfer⟩

end Hand

end Sys2Proof
end

section
/-! SUPPORT. ROUND_ARM (R268) and the disarming of a round (R269): the checks only read, then arming takes a free controller. -/

namespace Sys2Proof

open Machine

/-! New tally values: commands that wait on them end, and rounds' waits (R215). -/

theorem applyTally_falls (s : State) (n : Nat) (v : Word32) : Falls s (applyTally s n v) := by
  have htest : Falls s (testTally (s.modTally n fun t => { t with value := v }) n) := (modTally_falls s n _).trans (testTally_falls _ n)
  unfold applyTally
  dsimp only
  split
  · split
    · exact htest.trans (arriveCheck_only _ _).falls
    · exact htest
  · exact htest

theorem agentAdd_falls (s : State) (n v : Nat) : Falls s (agentAdd s n v) := by
  unfold agentAdd
  split
  · exact .refl s
  · exact applyTally_falls s n _

/-- Levels but for commands that end, and controllers but for what their rounds wait for, are as they were. -/
def waitsEnd (s t : State) : Prop := Falls s t ∧ ∀ k, ctrlStays s t k

namespace waitsEnd

theorem refl (s : State) : waitsEnd s s := ⟨.refl s, .refl s⟩

theorem trans {s t u : State} (h : waitsEnd s t) (k : waitsEnd t u) : waitsEnd s u := ⟨h.1.trans k.1, fun c => (h.2 c).trans (k.2 c)⟩

theorem of_eq {s t : State} (hi : t.dl.items = s.dl.items) (hc : t.rounds.ctrls = s.rounds.ctrls) : waitsEnd s t := ⟨.of_items hi, .of_ctrls hc⟩

theorem of_moves {m : Nat} {s t : State} (h : Moves m s t) (hd : m.testBit Part.dl.bit = false) (hr : m.testBit Part.rounds.bit = false) : waitsEnd s t :=
  .of_eq (congrArg Dealer.items (h.rest .dl hd)) (congrArg Rounds.ctrls (h.rest .rounds hr))

theorem testTally (s : State) (n : Nat) : waitsEnd s (testTally s n) := ⟨testTally_falls s n, fun _ => .testTally s n⟩

theorem setTally (s : State) (n : Nat) (f : Tally → Tally) : waitsEnd s (Machine.testTally (s.modTally n f) n) :=
  (of_eq rfl rfl : waitsEnd s (s.modTally n f)).trans (testTally _ n)

theorem agentAdd (s : State) (n v : Nat) : waitsEnd s (agentAdd s n v) := ⟨agentAdd_falls s n v, fun _ => .agentAdd s n v⟩

theorem setRoundTally (s : State) (n rel v : Nat) : waitsEnd s (setRoundTally s n rel v) := by
  unfold Machine.setRoundTally
  split
  · exact .refl s
  · exact setTally s _ _

theorem foldl_fst {α β : Type} {f : State × β → α → State × β} (hf : ∀ acc x, waitsEnd acc.1 (f acc x).1) (l : List α) (acc : State × β) :
    waitsEnd acc.1 (l.foldl f acc).1 := by
  induction l generalizing acc with
  | nil => exact .refl _
  | cons x l ih => exact (hf acc x).trans (ih _)

theorem makeTricks (s : State) (n round : Nat) (b : List Byte) (seats : List Seat) : waitsEnd s (makeTricks s n round b seats).1 := by
  unfold Machine.makeTricks
  refine foldl_fst (fun acc i => ?_) _ (s, [])
  dsimp only
  split
  · exact .refl _
  · have hset : ∀ k t, waitsEnd acc.1 (acc.1.setTrick k t) := fun _ _ => .of_eq rfl rfl
    exact (hset _ _).trans ((setTally _ _ _).trans (setTally _ _ _))

end waitsEnd

/-! Arming (R268). -/

/-- A controller is given a round. -/
def ctrlArmed (s : State) (c : Nat) (a : Armed) : State := s.modCtrl c fun _ => { armed := some a }

theorem ctrlArmed_armed {s : State} {c : Nat} (hc : c < 16) (a : Armed) : (ctrlArmed s c a).armed c = some a :=
  congrArg RoundCtl.armed (tget_tmod_same s.rounds.ctrls _ hc)

theorem ctrlArmed_others {s : State} {c k : Nat} (h : k ≠ c) (a : Armed) : ctrlStays s (ctrlArmed s c a) k := by
  have hctrl : tget (ctrlArmed s c a).rounds.ctrls k = tget s.rounds.ctrls k := tget_tmod_ne s.rounds.ctrls _ h.symm
  have harmed : (ctrlArmed s c a).armed k = s.armed k := congrArg RoundCtl.armed hctrl
  unfold ctrlStays
  rw [hctrl, harmed]
  exact ⟨rfl, rfl⟩

/-- The pins and T0 units that a round takes (R133, R268). -/
def armPins (s : State) (n ctrl : Nat) (b : List Byte) : State :=
  (pinPages s n (slotPages b)).modDl fun d =>
    { d with cores := (maskCores (field b 0x28 12)).foldl (fun v c => tmod v c (pinUnits n ctrl (field b 0x26 1))) d.cores }

/-- What arming does to the tallies of a round (R268). -/
def armTallies (s : State) (n : Nat) (b : List Byte) : State :=
  let t := setRoundTally (setRoundTally (setRoundTally s n (field b 0x18 2) 0) n (field b 0x1C 2) 0) n (field b 0x1A 2) 2
  agentAdd t ((t.claim n).tallyBase + field b 0xA0 2) 1

theorem armRound_eq (s : State) (n round ctrl : Nat) (b : List Byte) (seats : List Seat) (ds : List Slot) (res : Slot) :
    armRound s n round ctrl b seats ds res = let m := makeTricks (armPins s n ctrl b) n round b seats
      armTallies (ctrlArmed m.1 ctrl (armedOf n round b seats ds res m.2)) n b := rfl

theorem armPins_waits (s : State) (n ctrl : Nat) (b : List Byte) : waitsEnd s (armPins s n ctrl b) := by
  have hpins : waitsEnd s (pinPages s n (slotPages b)) := .of_moves (pinPages_moves s n (slotPages b) (Moves.refl 256 s) rfl) rfl rfl
  exact hpins.trans (.of_eq rfl rfl)

theorem armTallies_waits (s : State) (n : Nat) (b : List Byte) : waitsEnd s (armTallies s n b) := by
  unfold armTallies
  have hset := fun (u : State) (rel v : Nat) => waitsEnd.setRoundTally u n rel v
  exact ((hset _ _ _).trans ((hset _ _ _).trans (hset _ _ _))).trans (.agentAdd _ _ _)

/-- Arming puts the round of the block into its controller; all else that it does to rounds and commands is to end waits. -/
theorem armRound_arms (s : State) (n round ctrl : Nat) (b : List Byte) (seats : List Seat) (ds : List Slot) (res : Slot) : ∃ u tricks,
    waitsEnd s u ∧ waitsEnd (ctrlArmed u ctrl (armedOf n round b seats ds res tricks)) (armRound s n round ctrl b seats ds res) := by
  rw [armRound_eq]
  exact ⟨_, _, (armPins_waits s n ctrl b).trans (.makeTricks _ n round b seats), armTallies_waits _ n b⟩

/-- How the arming of a round ends: a check fails, and only memory has been read, or a free controller is armed. -/
def armEnds (s : State) (n round : Nat) (r : Run Unit) : Prop :=
  (∀ e, r.2 = .error e → Moves 271688 s r.1) ∧
    (r.2 = .ok () → ∃ u c b seats ds res, Moves 271688 s u ∧ c < 16 ∧ s.armed c = none ∧ r.1 = armRound u n round c b seats ds res)

theorem armEnds.error {s u : State} {n round : Nat} (h : Moves 271688 s u) (e : Nat × Nat) : armEnds s n round (u, .error e) :=
  ⟨fun _ _ => h, fun hok => nomatch hok⟩

theorem tryArm_ends (n round va : Nat) (s : State) : armEnds s n round (tryArm n round va s) := by
  unfold tryArm
  split
  · exact .error (readRound_pmoves n va s ‹_› (Moves.refl _ s) rfl) _
  rename_i u b es ds res hread
  have hu : Moves 271688 s u := readRound_pmoves n va s hread (Moves.refl _ s) rfl
  dsimp only
  split
  · exact .error hu _
  split
  · exact .error hu _
  split
  · exact .error hu _
  split
  · exact .error hu _
  split
  · exact .error hu _
  rename_i ctrl hfind
  have hctrl : ctrl < 16 := List.mem_range.1 (List.mem_of_find?_eq_some hfind)
  have hfree : s.armed ctrl = none := by
    rw [← armed_of_rounds (congrArg Rounds.ctrls (hu.rest .rounds rfl))]
    simpa using List.find?_some hfind
  split
  · exact .error hu _
  split
  · exact .error hu _
  have hpages : Moves 271688 s (runEach (slotPage n) (slotPages b) u).1 := runEach_moves (slotPage n) _ u hu fun a t ht => slotPage_moves n a t ht rfl
  generalize runEach (slotPage n) (slotPages b) u = r at hpages ⊢
  obtain ⟨v, e | us⟩ := r
  · exact .error hpages e
  · unfold Run.andThen
    dsimp only
    split
    · exact .error hpages _
    · exact ⟨fun _ he => (nomatch he), fun _ => ⟨v, ctrl, b, _, ds, res, hpages, hctrl, hfree, rfl⟩⟩

/-! What disarming gives up (R269). -/

theorem foldl_ctrls {α : Type} {f : State → α → State} (hf : ∀ u x, (f u x).rounds.ctrls = u.rounds.ctrls) (l : List α) (s : State) :
    (l.foldl f s).rounds.ctrls = s.rounds.ctrls := by
  induction l generalizing s with
  | nil => rfl
  | cons x l ih => exact (ih _).trans (hf s x)

theorem sendControl_ctrls (s : State) (h : MsgHeader) : (sendControl s h).rounds.ctrls = s.rounds.ctrls := by
  unfold sendControl
  split <;> rfl

theorem abortXfers_ctrls (s : State) (c : Nat) : (abortXfers s c).rounds.ctrls = s.rounds.ctrls := by
  have hdrop : ∀ (u : State) (id : Nat), (dropXfer u id).rounds.ctrls = u.rounds.ctrls := fun _ _ => rfl
  unfold abortXfers
  refine foldl_ctrls (fun u x => ?_) _ s
  refine Eq.trans (foldl_ctrls (fun v d => ?_) _ _) (hdrop u x.id)
  split
  · rfl
  · dsimp only
    split
    · exact sendControl_ctrls _ _
    · rfl

theorem abortXfers_dl (s : State) (c : Nat) : (abortXfers s c).dl = s.dl := (abortXfers_moves s c (Moves.refl 49152 s) rfl).rest .dl rfl

theorem freeRound_items (s : State) (c : Nat) (a : Armed) : (freeRound s c a).dl.items = s.dl.items := by
  have hpins : (unpinPages s a.claim a.pins).dl = s.dl := (unpinPages_moves s a.claim a.pins (Moves.refl 256 s) rfl).rest .dl rfl
  have htricks : ∀ u : State, (a.tricks.foldl (fun s k => s.setTrick k none) u).dl = u.dl := fun u =>
    (Moves.foldl (Moves.refl 512 u) fun v k => State.setTrick_moves v k none (Moves.refl 512 v) rfl).rest .dl rfl
  have hcores : ((unpinPages s a.claim a.pins).modDl fun d => { d with cores := d.cores.map (freeUnits (.pin c)) }).dl.items = s.dl.items := by
    rw [State.modDl_dl, hpins]
  exact (congrArg Dealer.items (htricks _)).trans hcores

/-! The commands (Table 13.4). -/

section Commands

variable {s : State} {n seq l : Nat} {lv : Level} {b : List Byte}

theorem roundCmd_level {arm : Bool} (h : roundCmd s n seq l lv b arm) : levelOf s n seq l = some lv := by
  obtain ⟨-, -, -, -, -, -, -, -, hl⟩ := nextCmd_some h.1.2.1
  exact hl

theorem roundArm_carried (h : roundCmd s n seq l lv b true) : exec (.roundArm n seq l) s = .next (roundArm s n seq l lv.pc b) := by
  obtain ⟨hstart, hva⟩ := h
  rw [roundArm_runs _ _ _ _ hstart.1, gate_starts hstart (by simpa using hva), withCmd_starts hstart]

theorem roundDisarm_carried (h : roundCmd s n seq l lv b false) : exec (.roundDisarm n seq l) s = .next (roundDisarm s n seq l lv.pc b) := by
  obtain ⟨hstart, hva⟩ := h
  rw [roundDisarm_runs _ _ _ _ hstart.1, gate_starts hstart (by simpa using hva), withCmd_starts hstart]

theorem roundArm_error (g : Nat) {e : Nat × Nat} (he : (tryArm n (field b 6 2) (field b 8 5) s).2 = .error e) :
    roundArm s n seq l g b = failAt (tryArm n (field b 6 2) (field b 8 5) s).1 n seq l g e.1 e.2 := by
  unfold roundArm
  generalize tryArm n (field b 6 2) (field b 8 5) s = r at he ⊢
  obtain ⟨u, _⟩ := r
  subst he
  rfl

theorem roundArm_ok (g : Nat) (he : (tryArm n (field b 6 2) (field b 8 5) s).2 = .ok ()) :
    roundArm s n seq l g b = doneCmd (tryArm n (field b 6 2) (field b 8 5) s).1 n seq l g b := by
  unfold roundArm
  generalize tryArm n (field b 6 2) (field b 8 5) s = r at he ⊢
  obtain ⟨u, _⟩ := r
  subst he
  rfl

/-- A check of ROUND_ARM that fails leaves every round as it was (R268). -/
theorem roundArm_fails (h : roundCmd s n seq l lv b true) {e : Nat × Nat} (he : (tryArm n (field b 6 2) (field b 8 5) s).2 = .error e) :
    let t := roundArm s n seq l lv.pc b
    itemFails t n seq e.1 ∧ othersStay s t n seq ∧ t.rounds = s.rounds := by
  have hmoves := (tryArm_ends n (field b 6 2) (field b 8 5) s).1 e he
  dsimp only
  rw [roundArm_error _ he]
  have hitems := congrArg Dealer.items (hmoves.rest .dl rfl)
  exact ⟨fails_of_next h.1.2.1 hitems _ _ _, (othersStay.of_items hitems).trans (others_failAt _ _ _ _ _ _ _),
    (failAt_only _ _ _ _ _ _ _ .rounds (by decide)).trans (hmoves.rest .rounds rfl)⟩

/-- A round that is armed is idle in a controller that was free, and the command completes (R268). -/
theorem roundArm_arms (h : roundCmd s n seq l lv b true) (he : (tryArm n (field b 6 2) (field b 8 5) s).2 = .ok ()) :
    let t := roundArm s n seq l lv.pc b
    cmdPassed t n seq l lv b ∧ ∃ c a, c < 16 ∧ s.armed c = none ∧ t.armed c = some a ∧ a.claim = n ∧ a.round = field b 6 2 ∧ a.deal = 0 ∧
      a.dealing = false ∧ a.sent = 0 ∧ a.landed = [] ∧ ∀ k, k ≠ c → ctrlStays s t k := by
  obtain ⟨u, c, blk, seats, ds, res, hmoves, hc, hfree, harm⟩ := (tryArm_ends n (field b 6 2) (field b 8 5) s).2 he
  have hread : waitsEnd s u := .of_moves hmoves rfl rfl
  obtain ⟨v, tricks, hbefore, hafter⟩ := armRound_arms u n (field b 6 2) c blk seats ds res
  have hv := hread.trans hbefore
  dsimp only
  rw [roundArm_ok _ he, harm]
  have hrounds : (doneCmd (armRound u n (field b 6 2) c blk seats ds res) n seq l lv.pc b).rounds = (armRound u n (field b 6 2) c blk seats ds res).rounds :=
    doneCmd_only _ _ _ _ _ _ .rounds (by decide)
  have hdone := fun k => (hafter.2 k).trans (ctrlStays.of_ctrls (congrArg Rounds.ctrls hrounds) k)
  obtain ⟨-, hround⟩ := hdone c
  rw [ctrlArmed_armed hc] at hround
  obtain ⟨a, ha, hrest⟩ := Option.map_eq_some_iff.1 hround
  refine ⟨passed_of_falls b (roundCmd_level h) ((hv.1.trans (.of_items rfl)).trans hafter.1), c, a, hc, hfree, ha,
    congrArg Armed.claim hrest, congrArg Armed.round hrest, congrArg Armed.deal hrest, congrArg Armed.dealing hrest, congrArg Armed.sent hrest, congrArg Armed.landed hrest, fun k hk => ?_⟩
  exact ((hv.2 k).trans (ctrlArmed_others hk _)).trans (hdone k)

/-! Disarming (R269). -/

theorem roundOf_lt {c r : Nat} (h : roundOf s n r = some c) : c < 16 := List.mem_range.1 (List.mem_of_find?_eq_some h)

theorem roundOf_none {r : Nat} (h : ∀ c a, c < 16 → s.armed c = some a → ¬ (a.claim = n ∧ a.round = r)) : roundOf s n r = none := by
  refine List.find?_eq_none.2 fun c hc => ?_
  cases ha : s.armed c with
  | none => exact Bool.false_ne_true
  | some a => simpa using h c a (List.mem_range.1 hc) ha

theorem roundDisarm_absent (g : Nat) (h : roundOf s n (field b 6 2) = none) : roundDisarm s n seq l g b = failAt s n seq l g 0x0501 := by
  simp only [roundDisarm, disarmRound, h]

section Armed

variable {c : Nat} {a : Armed} (hround : roundOf s n (field b 6 2) = some c) (ha : s.armed c = some a)
include hround ha

theorem roundDisarm_deals (g : Nat) (hd : a.dealing = true) :
    roundDisarm s n seq l g b = doneCmd (failRound s c 0x0509 (0, 0, 0)) n seq l g b := by
  simp only [roundDisarm, disarmRound, hround, ha, hd, if_true]

theorem roundDisarm_frees (g : Nat) (hd : a.dealing = false) :
    roundDisarm s n seq l g b = doneCmd (freeRound (abortXfers s c) c a) n seq l g b := by
  simp only [roundDisarm, disarmRound, hround, ha, hd, Bool.false_eq_true, if_false]

end Armed

/-- A disarmed round that does not deal leaves its controller free (R269). -/
theorem roundDisarm_free {c : Nat} {a : Armed} (h : roundCmd s n seq l lv b false) (hround : roundOf s n (field b 6 2) = some c) (ha : s.armed c = some a)
    (hd : a.dealing = false) : let t := roundDisarm s n seq l lv.pc b
    levelOf t n seq l = some (cmdDone lv b) ∧ tget t.rounds.ctrls c = { tget s.rounds.ctrls c with armed := none } ∧
      ∀ k, k ≠ c → tget t.rounds.ctrls k = tget s.rounds.ctrls k := by
  dsimp only
  rw [roundDisarm_frees hround ha _ hd]
  have hitems : (freeRound (abortXfers s c) c a).dl.items = s.dl.items := (freeRound_items _ c a).trans (congrArg Dealer.items (abortXfers_dl s c))
  have hctrls : (doneCmd (freeRound (abortXfers s c) c a) n seq l lv.pc b).rounds.ctrls = tmod s.rounds.ctrls c fun x => { x with armed := none } := by
    rw [doneCmd_only _ _ _ _ _ _ .rounds (by decide), freeRound_ctrls, abortXfers_ctrls]
  rw [hctrls]
  exact ⟨levelOf_doneCmd b ((levelOf_congr hitems _ _ _).trans (roundCmd_level h)), tget_tmod_same _ _ (roundOf_lt hround), fun k hk => tget_tmod_ne _ _ hk.symm⟩

end Commands

end Sys2Proof
end

section
/-! SUPPORT. The commands of rounds (R268, R269, R272, R275, R278): each command runs its effect, and the effect is read off its parts. -/

namespace Sys2Proof

open Machine

section Commands

variable {s : State} {n seq l : Nat} {lv : Level} {b : List Byte}

/-- Disarming a round that deals fails it (R269, R278). -/
theorem roundDisarm_fails {c : Nat} {a : Armed} (hround : roundOf s n (field b 6 2) = some c) (ha : s.armed c = some a) (hd : a.dealing = true) :
    roundFails s (roundDisarm s n seq l lv.pc b) c 0x0509 (0, 0, 0) := by
  have hfails := failRound_fails (roundOf_lt hround) ha 0x0509 (0, 0, 0)
  rw [roundDisarm_deals hround ha _ hd]
  have hrounds : (doneCmd (failRound s c 0x0509 (0, 0, 0)) n seq l lv.pc b).rounds.ctrls = (failRound s c 0x0509 (0, 0, 0)).rounds.ctrls :=
    congrArg Rounds.ctrls (doneCmd_only _ _ _ _ _ _ .rounds (by decide))
  exact ⟨by rw [hrounds]; exact hfails.1, fun k hk => (hfails.2 k hk).trans (.of_ctrls hrounds k)⟩

/-- Disarming a round that is not armed fails the item (R269). -/
theorem roundDisarm_unarmed (h : roundCmd s n seq l lv b false)
    (hno : ∀ c a, c < 16 → s.armed c = some a → ¬ (a.claim = n ∧ a.round = field b 6 2)) : let t := roundDisarm s n seq l lv.pc b
    itemFails t n seq 0x0501 ∧ t.rounds = s.rounds := by
  dsimp only
  rw [roundDisarm_absent _ (roundOf_none hno)]
  exact ⟨fails_of_next h.1.2.1 rfl _ _ _, failAt_only _ _ _ _ _ _ _ .rounds (by decide)⟩

end Commands

section Runs

variable {s : State} {c : Nat} {a : Armed} (hup : diesUp s = true)
include hup

/-- A step that fails the round. -/
theorem trigger_fails (hc : c < 16) (ha : s.armed c = some a) {cause : Nat} {suspect : Seat} (h : triggerStep s c = failRound s c cause suspect) :
    Runs (.roundStepTrigger c) s fun t => roundFails s t c cause suspect :=
  ⟨_, roundStepTrigger_runs c s hup, h ▸ failRound_fails hc ha cause suspect⟩

theorem trigger_idle (h : triggerStep s c = s) : exec (.roundStepTrigger c) s = .next s := by rw [roundStepTrigger_runs c s hup, h]

theorem handSend_idle (h : sendHand s c = s) : exec (.roundHandSend c) s = .next s := by rw [roundHandSend_runs c s hup, h]

theorem timeout_idle (h : passTimeout s c = s) : exec (.passTimeout c) s = .next s := by rw [passTimeout_runs c s hup, h]

theorem timeout_fails (hc : c < 16) (ha : s.armed c = some a) {seat : Seat} (h : roundWait s a = some seat) :
    Runs (.passTimeout c) s fun t => roundFails s t c 0x0507 seat :=
  ⟨_, passTimeout_runs c s hup, passTimeout_fails ha h ▸ failRound_fails hc ha 0x0507 seat⟩

end Runs

/-- The first step of a deal (R272, R275): a fenced core or an unread recall bitmap fails the round, else the deal starts. -/
theorem firstStep_runs {s : State} {c : Nat} {a : Armed} (h : roundRuns s c a) (hd : a.dealing = false) (hw : a.startWait = .met) :
    let fenced := (maskCores a.coreMask).any fun k => (tget s.fences.cores k).fenced
    (fenced = true → Runs (.roundStepTrigger c) s fun t => roundFails s t c 0x0508 (0, 0, 0)) ∧
      (fenced = false → let r := dealBitmap s a
        (∀ e, r.2 = .error e → Runs (.roundStepTrigger c) s fun t => roundFails s t c e.1 (0, 0, 0)) ∧
        ∀ bm, r.2 = .ok bm → a.rank < a.seatCount → Runs (.roundStepTrigger c) s fun t =>
          roundIs s t c (waitsBegun s { dealStarts a bm with trig := 1 }) ∧ ∃ m, stepMacro s c (dealStarts a bm) 0 false m ∧ t.dl.macros = s.dl.macros ++ [m]) := by
  have hbegins := triggerStep_begins h hd hw
  obtain ⟨hup, hc, ha, -⟩ := h
  have hrun := roundStepTrigger_runs c s hup
  refine ⟨fun hf => trigger_fails hup hc ha (hbegins.trans (if_pos hf)), fun hf => ?_⟩
  rw [hbegins, if_neg (Bool.eq_false_iff.1 hf)] at hrun
  exact ⟨fun e he => ⟨_, hrun, startDeal_unread hc ha he⟩, fun bm he hrank => ⟨_, hrun, startDeal_first hc ha he hrank⟩⟩

/-- A hand that is due (R246, R272): a failed read fails the round, else the hand goes out downstream. -/
theorem dueHand_runs {s : State} {c : Nat} {a : Armed} (h : handDue s c a) : let r := gatherHand s a a.sendStep.1 a.sendStep.2
    (∀ e, r.2 = .error e → Runs (.roundHandSend c) s fun t => roundFails s t c e.1 a.downstream) ∧
    ∀ data, r.2 = .ok data → routeFrom s a.downstream ≠ .none → Runs (.roundHandSend c) s fun t =>
      roundIs s t c (waitsBegun s { a with sent := a.sent + 1, readyWait := .idle }) ∧
      ∃ x, t.link.xfers = s.link.xfers ++ [x] ∧ x.ctrl = c ∧ x.kind = .hand a.sent ∧ x.dest = a.downstream ∧ x.data = data ∧ x.id = s.link.nextXfer % 2 ^ 32 ∧
        ∀ d, routeFrom s a.downstream = .dir d → (tget t.link.groups d).msgs = (if d < 6 then (tget s.link.groups d).msgs ++
          [{ vc := 0, dest := a.downstream, xfer := some x.id, header := some x.header, data := data }] else (tget s.link.groups d).msgs) := by
  have hrun := roundHandSend_runs c s h.1
  refine ⟨fun e he => ⟨_, hrun, sendHand_unread h he⟩, fun data he hroute => ?_⟩
  obtain ⟨hround, hlisted, hqueued⟩ := sendHand_sends h he hroute
  have hvc : kindVc (MsgHeader.read (xferOf s c (.hand a.sent) (handHeader a data) data).header).kind = 0 :=
    (congrArg kindVc (read_kind _)).trans rfl
  rw [hvc] at hqueued
  exact ⟨_, hrun, hround, xferOf s c (.hand a.sent) (handHeader a data) data, hlisted, rfl, rfl, rfl, rfl, rfl, hqueued⟩

/-- Settles O55: arming and disarming by the checks' first end, steps, hands and the timeout by what a controller waits for (R268 to R278). -/
theorem roundCommands : Obligations.RoundCommands := by
  refine ⟨fun s n seq l lv b _ => ⟨fun h => ?_, fun h => ?_⟩, fun s c hup => ⟨fun hnone => ?_, fun a hc ha => ?_⟩, fun s c a h => ?_,
    fun s c a cause hup hc ha hd hr hh hw => ?_, fun s c a h => dueHand_runs h⟩
  · have hrun := roundArm_carried h
    exact ⟨fun e he => ⟨_, hrun, roundArm_fails h he⟩, fun he => ⟨_, hrun, roundArm_arms h he⟩⟩
  · have hrun := roundDisarm_carried h
    exact ⟨fun hno => ⟨_, hrun, roundDisarm_unarmed h hno⟩, fun c a hround ha =>
      ⟨fun hd => ⟨_, hrun, roundDisarm_fails hround ha hd⟩, fun hd => ⟨_, hrun, roundDisarm_free h hround ha hd⟩⟩⟩
  · exact ⟨trigger_idle hup (triggerStep_none hnone), handSend_idle hup (sendHand_none hnone), timeout_idle hup (passTimeout_none hnone)⟩
  · refine ⟨fun hheld => trigger_idle hup (triggerStep_held ha hheld), fun hheld => handSend_idle hup (sendHand_held ha hheld),
      fun hb => timeout_fails hup hc ha (roundWait_barrier hb), fun k hb hd hw => timeout_fails hup hc ha (roundWait_ready hb hd hw), fun hb hn => ?_⟩
    have hwait := roundWait_landing hb hn
    exact ⟨fun hw => timeout_fails hup hc ha (hwait.trans (if_pos hw)), fun hw => timeout_idle hup (passTimeout_idle ha (hwait.trans (if_neg hw)))⟩
  · obtain ⟨hup, hc, ha, -⟩ := id h
    refine ⟨fun hd hw => trigger_idle hup (triggerStep_waits h hd hw), fun cause hd hw => trigger_fails hup hc ha (triggerStep_poisoned h hd hw),
      firstStep_runs h, fun hd hw => trigger_idle hup (triggerStep_early h hd hw), fun hd hlt hcomp hland r hr => ⟨_, roundStepTrigger_runs c s hup, ?_⟩⟩
    rw [triggerStep_due h hd ⟨hlt, hcomp, hland⟩]
    exact runStep_macro hc ha hr
  · exact ⟨_, roundHandSend_runs c s hup, sendHand_poisoned ha hd hr hh hw ▸ failRound_fails hc ha cause a.downstream⟩

end Sys2Proof
end

section
/-! SUPPORT. What failing rounds and lost routes leave of the ports: the credits that a port owes, and nothing else (R241, R254, R264, R278). -/

namespace Sys2Proof

open Machine

/-- No port differs, and the link is idle or not as it was. -/
def PortsKept (s t : State) : Prop := t.link.ports = s.link.ports ∧ t.link.idle = s.link.idle

namespace PortsKept

theorem refl (s : State) : PortsKept s s := ⟨rfl, rfl⟩

theorem trans {s t u : State} (h : PortsKept s t) (k : PortsKept t u) : PortsKept s u := ⟨k.1.trans h.1, k.2.trans h.2⟩

theorem of_link {s t : State} (h : t.link = s.link) : PortsKept s t := ⟨congrArg Link.ports h, congrArg Link.idle h⟩

theorem foldl {α : Type} {f : State → α → State} (hf : ∀ u x, PortsKept u (f u x)) (l : List α) (s : State) : PortsKept s (l.foldl f s) := by
  induction l generalizing s with
  | nil => exact .refl s
  | cons x l ih => exact (hf s x).trans (ih _)

theorem port {s t : State} (h : PortsKept s t) (k : Nat) : t.port k = s.port k := congrArg (tget · k) h.1

theorem modGroup (s : State) (d : Nat) (f : Group → Group) : PortsKept s (s.modGroup d f) := ⟨rfl, rfl⟩

theorem sendControl (s : State) (h : MsgHeader) : PortsKept s (sendControl s h) := by
  unfold Machine.sendControl
  split <;> exact ⟨rfl, rfl⟩

theorem sendTrick (s : State) (seat : Seat) (msg : List Byte) : PortsKept s (sendTrick s seat msg) := by
  unfold Machine.sendTrick
  split <;> exact ⟨rfl, rfl⟩

theorem poisonTrick (s : State) (k cause : Nat) : PortsKept s (poisonTrick s k cause) := by
  unfold Machine.poisonTrick
  split
  · exact .refl s
  · split
    · exact .refl s
    · exact (foldl (fun u seat => .sendTrick u seat _) _ s).trans (.of_link ((poisonTrickHere_moves _ k _ (Moves.refl 34440 _) rfl).rest .link rfl))

theorem poisonTally (s : State) (n cause : Nat) : PortsKept s (poisonTally s n cause) := by
  have hone : PortsKept s (poisonOne s n cause (0, 0, 0)) := .of_link ((poisonOne_moves s n cause _ (Moves.refl 34440 s) rfl).rest .link rfl)
  unfold Machine.poisonTally
  dsimp only
  split
  · exact hone
  · split
    · exact hone.trans (.poisonTrick _ _ cause)
    · exact hone

theorem abortXfers (s : State) (c : Nat) : PortsKept s (abortXfers s c) := by
  unfold Machine.abortXfers
  refine foldl (fun u x => ?_) _ s
  refine trans (t := dropXfer u x.id) ⟨rfl, rfl⟩ (foldl (fun v d => ?_) _ _)
  split
  · exact .refl v
  · dsimp only
    split
    · exact (modGroup v d _).trans (.sendControl _ _)
    · exact modGroup v d _

theorem roundUnwound (s : State) (c cause : Nat) (suspect : Seat) (a : Armed) : PortsKept s (roundUnwound s c cause suspect a) := by
  have hmod : PortsKept s (s.modCtrl c fun x => { x with failCause := cause, failOrigin := ownSeat s, failSuspect := suspect }) := .of_link rfl
  have hstop : ∀ u, PortsKept u (stopRoundMacros u c) := fun u => .of_link ((stopRoundMacros_moves u c (Moves.refl 128 u) rfl).rest .link rfl)
  refine (hmod.trans (foldl (fun u k => .poisonTrick u k cause) a.tricks _)).trans ((hstop _).trans ((abortXfers _ c).trans (foldl (fun u rel => ?_) _ _)))
  split
  · exact .poisonTally u _ _
  · exact .refl u

theorem failRound (s : State) (c cause : Nat) (suspect : Seat) : PortsKept s (failRound s c cause suspect) := by
  cases h : s.armed c with
  | none =>
    simp only [Machine.failRound, h]
    exact .refl s
  | some a =>
    rw [failRound_eq h]
    exact (roundUnwound s c cause suspect a).trans (.of_link ((freeRound_moves _ c a (Moves.refl 33664 _) rfl).rest .link rfl))

theorem failXfers (r : State × List Nat) : PortsKept r.1 (failXfers r) := by
  refine foldl (fun u id => ?_) r.2 r.1
  unfold failXfer
  split
  · exact .refl u
  · exact trans (t := dropXfer u id) ⟨rfl, rfl⟩ (.failRound _ _ _ _)

end PortsKept

theorem port_ge (s : State) {k : Nat} (h : 12 ≤ k) : s.port k = default := tget_ge _ h

/-- Ports differ only in what those of a set owe: the ports whose receive buffers held flits that are discarded (R241). -/
def OwesOnly (held : Nat → Prop) (s t : State) : Prop :=
  t.link.idle = s.link.idle ∧ ∀ k, t.port k = { s.port k with owed := (t.port k).owed } ∧ (¬ held k → t.port k = s.port k)

/-- The ports whose receive buffers hold flits of a list. -/
def holders (fs : List (Nat × Flit)) (k : Nat) : Prop := ∃ q ∈ fs, q.1 = k

/-- The ports whose receive buffers hold flits of messages that are cut through. -/
def queueHolders (ms : List OutMsg) (k : Nat) : Prop := ∃ m ∈ ms, holders m.queue k

namespace OwesOnly

variable {held : Nat → Prop}

theorem of_kept {s t : State} (h : PortsKept s t) : OwesOnly held s t := ⟨h.2, fun k => by rw [h.port k]; exact ⟨rfl, fun _ => rfl⟩⟩

theorem trans {s t u : State} (h : OwesOnly held s t) (j : OwesOnly held t u) : OwesOnly held s u := by
  refine ⟨j.1.trans h.1, fun k => ⟨?_, fun hk => ((j.2 k).2 hk).trans ((h.2 k).2 hk)⟩⟩
  rw [(j.2 k).1, (h.2 k).1]

theorem mono {more : Nat → Prop} {s t : State} (h : OwesOnly held s t) (hm : ∀ k, held k → more k) : OwesOnly more s t :=
  ⟨h.1, fun k => ⟨(h.2 k).1, fun hk => (h.2 k).2 fun hh => hk (hm k hh)⟩⟩

theorem oweAll (s : State) (fs : List (Nat × Flit)) : OwesOnly (holders fs) s (oweAll s fs) := by
  refine ⟨by rw [oweAll_link], fun k => ?_⟩
  by_cases hk : k < 12
  · rw [oweAll_port fs s hk]
    refine ⟨rfl, fun hno => ?_⟩
    have hnil : (fs.filter fun q => q.1 == k) = [] := List.filter_eq_nil_iff.2 fun q hq => by simpa using fun he => hno ⟨q, hq, he⟩
    rw [hnil, List.map_nil, List.append_nil]
  · rw [port_ge _ (Nat.not_lt.1 hk), port_ge _ (Nat.not_lt.1 hk)]
    exact ⟨rfl, fun _ => rfl⟩

theorem dropMessage (s : State) (m : OutMsg) : OwesOnly (holders m.queue) s (dropMessage s m).1 := by
  have hcount : ∀ u, OwesOnly (holders m.queue) u (countNoRoute u) := fun u => .of_kept (.of_link rfl)
  have howe := OwesOnly.oweAll s m.queue
  unfold Machine.dropMessage
  dsimp only
  split
  · exact howe.trans (hcount _)
  · split
    · exact howe.trans (hcount _)
    · split
      · exact howe.trans (hcount _)
      · exact howe.trans ((hcount _).trans (.of_kept (.sendControl _ _)))

theorem rerouteMessage (s : State) (m : OutMsg) : OwesOnly (holders m.queue) s (rerouteMessage s m).1 := by
  unfold Machine.rerouteMessage
  split
  · split
    · exact .of_kept (.modGroup s _ _)
    · exact .dropMessage s m
  · exact .dropMessage s m

theorem rerouteAll (ms : List OutMsg) (acc : State × List Nat) : OwesOnly (queueHolders ms) acc.1 (ms.foldl (fun acc m =>
    let r := Machine.rerouteMessage acc.1 m
    (r.1, acc.2 ++ r.2)) acc).1 := by
  induction ms generalizing acc with
  | nil => exact .of_kept (.refl _)
  | cons m ms ih =>
    have hone := (OwesOnly.rerouteMessage acc.1 m).mono (more := queueHolders (m :: ms)) fun k hk => ⟨m, List.mem_cons_self, hk⟩
    have hrest := (ih (Machine.rerouteMessage acc.1 m |>.1, acc.2 ++ (Machine.rerouteMessage acc.1 m).2)).mono (more := queueHolders (m :: ms))
      fun k ⟨n, hn, hk⟩ => ⟨n, List.mem_cons_of_mem m hn, hk⟩
    exact hone.trans hrest

/-- A direction that gives its messages back to routing (R254, R264). -/
theorem failGroup (s : State) (d : Nat) : OwesOnly (queueHolders (tget s.link.groups d).msgs) s (failGroup s d).1 :=
  trans (t := s.modLink _) ⟨rfl, fun _ => ⟨rfl, fun _ => rfl⟩⟩ (rerouteAll _ _)

end OwesOnly

end Sys2Proof
end

section
/-! SUPPORT. How a port changes its state, leaves its direction, and is quarantined (R249, R250, R254, R259). -/

namespace Sys2Proof

open Machine

/-! Changes of one port. -/

namespace portAlone

variable {p : Nat}

theorem of_link {s t : State} (h : t.link = s.link) : portAlone s t p := ⟨fun k _ => congrArg (fun l : Link => tget l.ports k) h, by rw [h]⟩

theorem trans {s t u : State} (h : portAlone s t p) (j : portAlone t u p) : portAlone s u p :=
  ⟨fun k hk => (j.1 k hk).trans (h.1 k hk), (congrArg (fun l : Link => { l with ports := s.link.ports }) j.2).trans h.2⟩

theorem modPort (s : State) (f : Port → Port) : portAlone s (s.modPort p f) p := ⟨fun _ hk => port_modPort_ne s f hk.symm, rfl⟩

end portAlone

theorem portsOwe_of_stay {s t : State} {p : Nat} (h : portsStay s t p) : portsOwe s t p := fun k hk => by rw [h k hk]

theorem portsOwe_trans {s t u : State} {p : Nat} (h : portsOwe s t p) (j : portsOwe t u p) : portsOwe s u p := fun k hk => by
  rw [j k hk, h k hk]

theorem OwesOnly.portsOwe {held : Nat → Prop} {s t : State} (h : OwesOnly held s t) (p : Nat) : portsOwe s t p := fun k _ => (h.2 k).1

theorem tset_tget {α : Type} [Inhabited α] {n : Nat} (v : Vector α n) (i : Nat) : tset v i (tget v i) = v := by
  refine Vector.ext fun j hj => ?_
  by_cases h : i = j
  · subst h
    simp [tset, tget, hj]
  · simp [tset, h]

theorem modPort_congr {s : State} {p : Nat} {f g : Port → Port} (h : f (s.port p) = g (s.port p)) : s.modPort p f = s.modPort p g :=
  congrArg (fun x => s.modLink fun l => { l with ports := tset l.ports p x }) h

theorem modPort_unchanged {s : State} {p : Nat} {f : Port → Port} (h : f (s.port p) = s.port p) : s.modPort p f = s := by
  have hports : tset s.link.ports p (f (s.port p)) = s.link.ports := by rw [h, State.port, tset_tget]
  exact congrArg (fun v => s.modLink fun l => { l with ports := v }) hports

theorem linkEvent_link (s : State) (p : Nat) (old : PortState) : (linkEvent s p old).link = s.link :=
  (linkEvent_moves s p old (Moves.refl 263240 s) rfl).rest .link rfl

/-- A port enters a state, with the sticky event bit of that state where it is another than before (Table 12.12). -/
def portEnters (st : PortState) (x : Port) : Port :=
  if x.st = st then x
  else { x with st := st, evUp := x.evUp || decide (st = .up), evDown := x.evDown || decide (st = .down), evQuar := x.evQuar || decide (st = .quarantined) }

theorem setPort_link (s : State) (p : Nat) (st : PortState) : (setPort s p st).link = (s.modPort p (portEnters st)).link := by
  unfold setPort
  dsimp only
  split
  · rename_i h
    rw [modPort_unchanged (f := portEnters st) (if_pos h)]
  · rename_i h
    rw [linkEvent_link]
    exact congrArg State.link (modPort_congr (if_neg h).symm)

theorem setPort_alone (s : State) (p : Nat) (st : PortState) : portAlone s (setPort s p st) p :=
  (portAlone.modPort s (portEnters st)).trans (.of_link (setPort_link s p st))

theorem setPort_port (s : State) {p : Nat} (hp : p < 12) (st : PortState) : (setPort s p st).port p = portEnters st (s.port p) :=
  (congrArg (fun l : Link => tget l.ports p) (setPort_link s p st)).trans (port_modPort_same s _ hp)

/-! A port that becomes DOWN (R254). -/

theorem portEnters_down (x : Port) : portEnters .down x.cleared = portDown x := by
  unfold portEnters
  by_cases h : x.st = .down
  · rw [if_pos (show x.cleared.st = .down from h)]
    simp [portDown, Port.cleared, h]
  · rw [if_neg (show x.cleared.st ≠ .down from h)]
    simp [portDown, Port.cleared, h]

/-- A port has lost its lanes and traffic and is in a state, its direction not yet told. -/
def portLeft (s : State) (p : Nat) (st : PortState) : State := setPort ((s.modPort p Port.cleared).modLink (Link.disown p)) p st

theorem portLeft_down (s : State) {p : Nat} (hp : p < 12) : portIsDown s (portLeft s p .down) p := by
  have hset := setPort_alone ((s.modPort p Port.cleared).modLink (Link.disown p)) p .down
  refine ⟨?_, fun k hk => (hset.1 k hk).trans (port_modPort_ne s _ hk.symm), congrArg (fun l : Link => { l with ports := s.link.ports }) hset.2⟩
  rw [portLeft, setPort_port _ hp, ← portEnters_down]
  exact congrArg (portEnters .down) (port_modPort_same s Port.cleared hp)

theorem portLeft_groups (s : State) {p : Nat} (hp : p < 12) : (portLeft s p .down).link.groups = (s.link.disown p).groups := by
  have hlink := congrArg Link.groups (portLeft_down s hp).2.2
  exact hlink

theorem portLeft_idle (s : State) {p : Nat} (hp : p < 12) : (portLeft s p .down).link.idle = s.link.idle := by
  have hlink := congrArg Link.idle (portLeft_down s hp).2.2
  exact hlink

theorem leaveGroup_first {s : State} {p : Nat} (h : (s.port p).st ≠ .up ∨ 5 < (s.port p).dir) (st : PortState) :
    leaveGroup s p st = (portLeft s p st, []) := if_pos (by simpa using h)

theorem leaveGroup_up {s : State} {p : Nat} (hup : (s.port p).st = .up) (hdir : (s.port p).dir < 6) (st : PortState) : leaveGroup s p st =
    if dirUp (portLeft s p st) (s.port p).dir then
      ((portLeft s p st).modGroup (s.port p).dir fun g => { g with held := portFlits (s.port p) ++ g.held }, [])
    else failGroup (portLeft s p st) (s.port p).dir :=
  if_neg (by simp [hup]; omega)

/-- Where another port of the direction is UP and not fenced, the direction is. -/
theorem dirUp_other {s t : State} {p : Nat} (h : dirHasOther s p) (hstay : portsStay s t p) (hf : t.fences = s.fences) : dirUp t (s.port p).dir = true := by
  obtain ⟨q, hq, hqp, hup, hdir, hfree⟩ := h
  have hmem : q ∈ upPorts t (s.port p).dir := List.mem_filter.2 ⟨List.mem_range.2 hq, by rw [hstay q hqp, hf]; simp [hup, hdir, hfree]⟩
  simp [dirUp, List.ne_nil_of_mem hmem]

/-- The buffers of a port that is left count against no credit any more. -/
theorem disowned_queue {p : Nat} (hp : p < 12) (fs : List (Nat × Flit)) : ¬ holders (disown p fs) p := by
  rintro ⟨q, hq, rfl⟩
  obtain ⟨r, -, hr⟩ := List.mem_map.1 hq
  split at hr
  · subst hr
    exact Nat.lt_irrefl 12 hp
  · rename_i hne
    exact hne (congrArg Prod.fst hr)

theorem portLeft_holds (s : State) {p : Nat} (hp : p < 12) {d : Nat} (hd : d < 6) : ¬ queueHolders (tget (portLeft s p .down).link.groups d).msgs p := by
  rw [portLeft_groups s hp, Link.disown, tget_map _ _ hd]
  rintro ⟨m, hm, hh⟩
  obtain ⟨n, -, rfl⟩ := List.mem_map.1 hm
  exact disowned_queue hp n.queue hh

/-- What becomes of a port that fails from any state: it is DOWN, and another port changes at most in credits that it owes (R254, R264). -/
theorem leaveGroup_down (s : State) {p : Nat} (hp : p < 12) : let t := failXfers (leaveGroup s p .down)
    t.port p = portDown (s.port p) ∧ portsOwe s t p ∧ t.link.idle = s.link.idle := by
  have hleft := portLeft_down s hp
  have hidle := portLeft_idle s hp
  have hdone : ∀ r : State × List Nat, OwesOnly (queueHolders (tget (portLeft s p .down).link.groups (s.port p).dir).msgs) (portLeft s p .down) r.1 →
      (s.port p).dir < 6 → (failXfers r).port p = portDown (s.port p) ∧ portsOwe s (failXfers r) p ∧ (failXfers r).link.idle = s.link.idle := by
    intro r h hdir
    have hall := h.trans (.of_kept (PortsKept.failXfers r))
    exact ⟨((hall.2 p).2 (portLeft_holds s hp hdir)).trans hleft.1, portsOwe_trans (portsOwe_of_stay hleft.2.1) (hall.portsOwe p), hall.1.trans hidle⟩
  by_cases h : (s.port p).st = .up ∧ (s.port p).dir < 6
  · rw [leaveGroup_up h.1 h.2]
    split
    · exact hdone _ (.of_kept (.modGroup _ _ _)) h.2
    · exact hdone _ (.failGroup _ _) h.2
  · rw [leaveGroup_first (by rwa [not_and_or, Nat.not_lt, ← Nat.lt_iff_add_one_le] at h)]
    exact ⟨hleft.1, portsOwe_of_stay hleft.2.1, hidle⟩

theorem leaveGroup_isDown {s : State} {p : Nat} (hp : p < 12) (h : (s.port p).st ≠ .up) : portIsDown s (failXfers (leaveGroup s p .down)) p := by
  rw [leaveGroup_first (.inl h)]
  exact portLeft_down s hp

theorem portLeft_fences (s : State) (p : Nat) (st : PortState) : (portLeft s p st).fences = s.fences :=
  (setPort_moves ((s.modPort p Port.cleared).modLink (Link.disown p)) p st (Moves.refl 279624 _) rfl).rest .fences rfl

/-- Flits that join the front of a direction's queue. -/
theorem modGroup_held (s : State) {d : Nat} (hd : d < 6) (fs : List Flit) (e : Nat) :
    tget (s.modGroup d fun g => { g with held := fs ++ g.held }).link.groups e =
      if e = d then { tget s.link.groups e with held := fs ++ (tget s.link.groups e).held } else tget s.link.groups e := by
  split
  · rename_i he
    rw [he]
    exact tget_tmod_same _ _ hd
  · rename_i he
    exact tget_tmod_ne _ _ (Ne.symm he)

/-- The unacked flits of an UP port pass to the other ports of its direction (R254). -/
theorem leaveGroup_hands {s : State} {p : Nat} (hp : p < 12) (hup : (s.port p).st = .up) (hdir : (s.port p).dir < 6) (ho : dirHasOther s p) :
    flitsMove s (failXfers (leaveGroup s p .down)) (s.link.disown p) p := by
  have hleft := portLeft_down s hp
  rw [leaveGroup_up hup hdir, if_pos (dirUp_other ho hleft.2.1 (portLeft_fences s p .down))]
  refine ⟨hleft.2.1, fun d => ?_⟩
  rw [← portLeft_groups s hp]
  exact modGroup_held _ hdir _ d

end Sys2Proof
end

section
/-! SUPPORT. Training: the lanes that a port chooses, and what it then waits for (R234, R235, R241, R249). -/

namespace Sys2Proof

open Machine

/-! The width rule (R235). -/

theorem widthOf_zero {usable limit : Nat} (h : min usable limit = 0) : widthOf usable limit = 0 := by
  simp [widthOf, h]

theorem widthOf_width {usable limit : Nat} (h : min usable limit ≠ 0) : laneWidth (min usable limit) (widthOf usable limit) := by
  unfold laneWidth widthOf
  generalize min usable limit = m at h ⊢
  dsimp only
  split
  · simp; omega
  · split
    · simp; omega
    · split
      · simp; omega
      · simp; omega

/-- As many lanes are chosen as the width rule says. -/
theorem length_take_width (us : List Nat) (limit : Nat) : (us.take (widthOf us.length limit)).length = widthOf us.length limit := by
  rw [List.length_take]
  refine Nat.min_eq_left ?_
  by_cases h : min us.length limit = 0
  · rw [widthOf_zero h]
    exact Nat.zero_le _
  · exact (widthOf_width h).2.1.trans (Nat.min_le_left _ _)

theorem take_width_nil (us : List Nat) (limit : Nat) : (us.take (widthOf us.length limit)).isEmpty = true ↔ min us.length limit = 0 := by
  rw [List.isEmpty_iff, ← List.length_eq_zero_iff, length_take_width]
  refine ⟨fun hw => ?_, widthOf_zero⟩
  by_contra hm
  have hwidth := (widthOf_width hm).1
  rw [hw] at hwidth
  exact absurd hwidth (by decide)

/-! The lanes of a port that trains. -/

theorem tget_ofFn {α : Type} [Inhabited α] {n : Nat} (f : Fin n → α) {i : Nat} (h : i < n) : tget (Vector.ofFn f) i = f ⟨i, h⟩ := by
  simp [tget, h]

/-- The lanes that training finds. -/
def foundLanes (r : TrainResult) : Vector LinkLane 8 := Vector.ofFn fun i : Fin 8 => { good := r.good.testBit i, peerGood := r.peerGood.testBit i }

/-- The lanes with those of a list taken into use. -/
def lanesInUse (us : List Nat) (v : Vector LinkLane 8) : Vector LinkLane 8 := us.foldl (fun v i => tmod v i fun l => { l with inUse := true }) v

theorem lanesInUse_lane (us : List Nat) (v : Vector LinkLane 8) {i : Nat} (h : i < 8) :
    tget (lanesInUse us v) i = { tget v i with inUse := (tget v i).inUse || decide (i ∈ us) } := by
  unfold lanesInUse
  induction us generalizing v with
  | nil => simp
  | cons x us ih =>
    rw [List.foldl_cons, ih]
    by_cases hx : x = i
    · subst hx
      rw [tget_tmod_same _ _ h]
      simp
    · rw [tget_tmod_ne _ _ hx]
      simp [Ne.symm hx]

theorem foundLanes_use (r : TrainResult) (us : List Nat) {i : Nat} (h : i < 8) :
    tget (lanesInUse us (foundLanes r)) i = { good := r.good.testBit i, peerGood := r.peerGood.testBit i, inUse := decide (i ∈ us) } := by
  rw [lanesInUse_lane us _ h, foundLanes, tget_ofFn _ h, Bool.false_or]

/-- The lanes that are good at both ends (R235). -/
def usableLanes (r : TrainResult) : List Nat := (List.range 8).filter fun i => r.good.testBit i && r.peerGood.testBit i

theorem foundLanes_choice {x : Port} {r : TrainResult} (h : x.lanes = foundLanes r) (limit : Nat) :
    laneChoice x limit = (usableLanes r).take (widthOf (usableLanes r).length limit) := by
  have hus : ((List.range 8).filter fun i => (tget x.lanes i).usable) = usableLanes r :=
    List.filter_congr fun i hi => by rw [h, foundLanes, tget_ofFn _ (List.mem_range.1 hi), LinkLane.usable]
  rw [laneChoice, hus]

/-! Training (Table 12.2). -/

/-- A port that trains, before it chooses its lanes. -/
def portFresh (r : TrainResult) (x : Port) : Port :=
  { x with
    lanes := foundLanes r, reversed := r.isReversed, polarity := r.polarity % 256, peerMax := r.peerMax, credits := Vector.replicate 4 256
    used0 := Vector.replicate 4 0, owed := [], held := [], mgmt := [], reason := 0, changing := false
    echoes := List.replicate 16 r.roundTrip, latency := min 0xFFFF (r.roundTrip / 2) }

/-- The state in which a port chooses its lanes. -/
def trainingStarts (s : State) (p : Nat) (r : TrainResult) : State := (setPort (s.emit (.training p)) p .training).modPort p (portFresh r)

/-- A port uses lanes. -/
def portUses (us : List Nat) (x : Port) : Port := { x with width := us.length, lanes := lanesInUse us x.lanes }

theorem trainingStarts_port (s : State) {p : Nat} (hp : p < 12) (r : TrainResult) :
    (trainingStarts s p r).port p = portFresh r (portEnters .training (s.port p)) := by
  rw [trainingStarts, port_modPort_same _ _ hp, setPort_port _ hp]
  rfl

theorem trainingStarts_stay (s : State) (p : Nat) (r : TrainResult) : portsStay s (trainingStarts s p r) p := fun k hk => by
  rw [trainingStarts, port_modPort_ne _ _ hk.symm, (setPort_alone _ p .training).1 k hk]
  rfl

theorem portEnters_st (st : PortState) (x : Port) : (portEnters st x).st = st := by
  unfold portEnters
  split
  · assumption
  · rfl

theorem portEnters_keeps (st : PortState) (x : Port) : portEnters st x =
    { x with st := (portEnters st x).st, evUp := (portEnters st x).evUp, evDown := (portEnters st x).evDown, evQuar := (portEnters st x).evQuar } := by
  unfold portEnters
  split
  · rfl
  · rfl

theorem portEnters_width (st : PortState) (x : Port) : (portEnters st x).width = x.width := by rw [portEnters_keeps]
theorem portEnters_maxLanes (st : PortState) (x : Port) : (portEnters st x).maxLanes = x.maxLanes := by rw [portEnters_keeps]

theorem sendHello_port (s : State) {p : Nat} (hp : p < 12) :
    (sendHello s p).port p = { s.port p with mgmt := (s.port p).mgmt ++ [helloBytes s p], helloSent := true } := by
  rw [sendHello, queueMgmt, port_modPort_same _ _ hp, port_modPort_same _ _ hp]

theorem sendHello_alone (s : State) (p : Nat) : portAlone s (sendHello s p) p := (portAlone.modPort s _).trans (.modPort _ _)

/-- A HELLO is made of the image, the identity, and the port's direction and reach (Table 12.8). -/
theorem helloBytes_congr {s t : State} {p : Nat} (hb : t.boot = s.boot) (hd : (t.port p).dir = (s.port p).dir) (hr : (t.port p).reach = (s.port p).reach) :
    helloBytes t p = helloBytes s p := by
  simp only [helloBytes, State.image, inNewSeat, identityDigest, identityKey, hb, hd, hr]

/-- The lanes that a port trains on. -/
def chosenLanes (s : State) (p : Nat) (r : TrainResult) : List Nat :=
  (usableLanes r).take (widthOf (usableLanes r).length (min (s.port p).maxLanes r.peerMax))

/-- No lane is chosen exactly where none may be. -/
theorem chosenLanes_none (s : State) (p : Nat) (r : TrainResult) :
    (chosenLanes s p r).isEmpty = true ↔ min (usableLanes r).length (min (s.port p).maxLanes r.peerMax) = 0 := take_width_nil _ _

theorem trainPort_eq (s : State) {p : Nat} (hp : p < 12) (r : TrainResult) : trainPort s p r =
    if (chosenLanes s p r).isEmpty then setPort ((trainingStarts s p r).modPort p fun x => { x with width := 0 }) p .down
    else sendHello ((trainingStarts s p r).modPort p (portUses (chosenLanes s p r))) p := by
  have hx := trainingStarts_port s hp r
  have hmax : ((trainingStarts s p r).port p).maxLanes = (s.port p).maxLanes := by rw [hx]; exact portEnters_maxLanes _ _
  have hlanes : ((trainingStarts s p r).port p).lanes = foundLanes r := by rw [hx]; rfl
  have hchoice : laneChoice ((trainingStarts s p r).port p) (min ((trainingStarts s p r).port p).maxLanes r.peerMax) = chosenLanes s p r := by
    rw [hmax, foundLanes_choice hlanes, chosenLanes]
  rw [← hchoice]
  rfl

/-- A port that finds no lane is DOWN. -/
theorem trainPort_none (s : State) {p : Nat} (hp : p < 12) {r : TrainResult} (hm : min (usableLanes r).length (min (s.port p).maxLanes r.peerMax) = 0) :
    portsStay s (trainPort s p r) p ∧ ((trainPort s p r).port p).st = .down ∧ ((trainPort s p r).port p).width = 0 := by
  rw [trainPort_eq s hp, if_pos ((chosenLanes_none s p r).2 hm), setPort_port _ hp, port_modPort_same _ _ hp]
  refine ⟨fun k hk => ?_, portEnters_st _ _, portEnters_width _ _⟩
  rw [(setPort_alone _ p .down).1 k hk, port_modPort_ne _ _ hk.symm, trainingStarts_stay s p r k hk]

/-- A port that finds a lane has its HELLO to send on the lanes that it chose. -/
theorem trainPort_lanes (s : State) {p : Nat} (hp : p < 12) {r : TrainResult} (hm : min (usableLanes r).length (min (s.port p).maxLanes r.peerMax) ≠ 0) :
    portsStay s (trainPort s p r) p ∧ (trainPort s p r).port p =
      { portUses (chosenLanes s p r) (portFresh r (portEnters .training (s.port p))) with mgmt := [helloBytes (trainPort s p r) p], helloSent := true } := by
  rw [trainPort_eq s hp, if_neg fun h => hm ((chosenLanes_none s p r).1 h)]
  have hport := port_modPort_same (trainingStarts s p r) (portUses (chosenLanes s p r)) hp
  have hstay : portsStay s ((trainingStarts s p r).modPort p (portUses (chosenLanes s p r))) p := fun k hk => by
    rw [port_modPort_ne _ _ hk.symm, trainingStarts_stay s p r k hk]
  generalize (trainingStarts s p r).modPort p (portUses (chosenLanes s p r)) = u at hport hstay ⊢
  have hsent := sendHello_port u hp
  have hhello : helloBytes (sendHello u p) p = helloBytes u p := helloBytes_congr rfl (by rw [hsent]) (by rw [hsent])
  refine ⟨fun k hk => by rw [(sendHello_alone u p).1 k hk, hstay k hk], ?_⟩
  rw [hhello, hsent, hport, trainingStarts_port s hp r]
  rfl

/-- A port trains (R234): on its lowest usable lanes it waits for a HELLO, and without one it is DOWN. -/
theorem trainPort_trains (s : State) {p : Nat} (hp : p < 12) (r : TrainResult) : portTrains s (trainPort s p r) p r := by
  by_cases hm : min (usableLanes r).length (min (s.port p).maxLanes r.peerMax) = 0
  · obtain ⟨hstay, hdown⟩ := trainPort_none s hp hm
    exact ⟨portsOwe_of_stay hstay, fun _ => hstay, fun _ => hdown, fun h => absurd hm h⟩
  · obtain ⟨hstay, hport⟩ := trainPort_lanes s hp hm
    have hlen := length_take_width (usableLanes r) (min (s.port p).maxLanes r.peerMax)
    refine ⟨portsOwe_of_stay hstay, fun _ => hstay, fun h => absurd h hm, fun _ => ?_⟩
    generalize trainPort s p r = t at hport
    have hwidth : (t.port p).width = widthOf (usableLanes r).length (min (s.port p).maxLanes r.peerMax) := by rw [hport]; exact hlen
    rw [hwidth]
    refine ⟨by rw [hport]; exact portEnters_st _ _, widthOf_width hm, by rw [hport], fun v hv => ?_, fun i hi => ?_⟩
    · rw [hport]
      simp [portUses, portFresh, tget, hv]
    · rw [show (t.port p).lanes = lanesInUse (chosenLanes s p r) (foundLanes r) by rw [hport]; rfl, foundLanes_use r _ hi]
      exact ⟨rfl, rfl, rfl, rfl, rfl⟩

end Sys2Proof
end

section
/-! SUPPORT. HELLO and QUARANTINE (R249, R250, R251). -/

namespace Sys2Proof

open Machine

theorem portEnters_quarantined (x : Port) :
    portEnters .quarantined x = { x with st := .quarantined, evQuar := x.evQuar || decide (x.st ≠ .quarantined) } := by
  unfold portEnters
  split
  · rename_i h
    rw [← h]
    simp
  · rename_i h
    simp [h]

theorem portEnters_up {x : Port} (h : x.st ≠ .up) : portEnters .up x = { x with st := .up, evUp := true } := by
  unfold portEnters
  rw [if_neg h]
  simp

/-! A port that is quarantined. -/

section Quarantine

variable {s : State} {p : Nat} (hp : p < 12)
include hp

/-- A port that is not UP is quarantined alone. -/
theorem quarantinePort_first (h : (s.port p).st ≠ .up) (r : Nat) : portAlone s (failXfers (quarantinePort s p r)) p ∧
    (failXfers (quarantinePort s p r)).port p =
      { s.port p with st := .quarantined, reason := r, evQuar := (s.port p).evQuar || decide ((s.port p).st ≠ .quarantined) } := by
  have heq : quarantinePort s p r = (setPort (s.modPort p fun y => { y with reason := r }) p .quarantined, []) := if_neg h
  rw [heq]
  refine ⟨(portAlone.modPort s _).trans (setPort_alone _ p .quarantined), ?_⟩
  change (setPort _ p .quarantined).port p = _
  rw [setPort_port _ hp, port_modPort_same _ _ hp, portEnters_quarantined]

omit hp in
/-- An UP port that is quarantined, its direction not yet told: its flits but management's go on over other ports (log entry 134). -/
def portStops (s : State) (p r : Nat) : State :=
  setPort ((s.modPort p fun y =>
    { y with
      held := y.held.filter fun f => f.vc == 3
      lanes := y.lanes.map fun l => { l with buffer := l.buffer.map fun u => { u with moved := u.moved || u.flit.vc != 3 } } }).modPort p fun y =>
    { y with reason := r }) p .quarantined

omit hp in
theorem quarantinePort_up (h : (s.port p).st = .up) (r : Nat) : quarantinePort s p r =
    if dirUp (portStops s p r) (s.port p).dir then
      ((portStops s p r).modGroup (s.port p).dir fun g => { g with held := portFlits (s.port p) ++ g.held }, [])
    else failGroup (portStops s p r) (s.port p).dir := if_pos h

omit hp in
theorem portStops_alone (r : Nat) : portAlone s (portStops s p r) p :=
  ((portAlone.modPort s _).trans (.modPort _ _)).trans (setPort_alone _ p .quarantined)

theorem portStops_port (h : (s.port p).st = .up) (r : Nat) : ((portStops s p r).port p).st = .quarantined ∧ ((portStops s p r).port p).reason = r ∧
    ((portStops s p r).port p).evQuar = true := by
  rw [portStops, setPort_port _ hp, portEnters_quarantined, port_modPort_same _ _ hp, port_modPort_same _ _ hp]
  exact ⟨rfl, rfl, by simp [h]⟩

/-- An UP port is quarantined; other ports change at most in credits that they owe (R250, R264). -/
theorem quarantinePort_leaves (h : (s.port p).st = .up) (r : Nat) : let t := failXfers (quarantinePort s p r)
    portsOwe s t p ∧ (t.port p).st = .quarantined ∧ (t.port p).reason = r ∧ (t.port p).evQuar = true := by
  have howes : ∃ held, OwesOnly held (portStops s p r) (failXfers (quarantinePort s p r)) := by
    rw [quarantinePort_up h]
    split
    · exact ⟨fun _ => False, (OwesOnly.of_kept (.modGroup _ _ _)).trans (.of_kept (PortsKept.failXfers _))⟩
    · exact ⟨_, (OwesOnly.failGroup _ _).trans (.of_kept (PortsKept.failXfers _))⟩
  obtain ⟨held, howes⟩ := howes
  refine ⟨portsOwe_trans (portsOwe_of_stay (portStops_alone r).1) (howes.portsOwe p), ?_⟩
  rw [(howes.2 p).1]
  exact portStops_port hp h r

omit hp in
theorem portStops_fences (r : Nat) : (portStops s p r).fences = s.fences :=
  (setPort_moves _ p .quarantined (Moves.refl 279624 _) rfl).rest .fences rfl

omit hp in
/-- Its unacked flits pass to the other ports of its direction (R249). -/
theorem quarantinePort_hands (h : (s.port p).st = .up) (hdir : (s.port p).dir < 6) (ho : dirHasOther s p) (r : Nat) :
    flitsMove s (failXfers (quarantinePort s p r)) s.link p := by
  have halone : portAlone s (portStops s p r) p := portStops_alone r
  have hgroups := congrArg Link.groups halone.2
  rw [quarantinePort_up h, if_pos (dirUp_other ho halone.1 (portStops_fences r))]
  refine ⟨halone.1, fun d => ?_⟩
  rw [← hgroups]
  exact modGroup_held _ hdir _ d

omit hp in
/-- QUARANTINE from the peer: reason 6, unless the port has a reason of its own (R249). -/
theorem quarantineReceived_takes (h : (s.port p).st = .training ∨ ((s.port p).st = .quarantined ∧ ((s.port p).reason = 0 ∨ 6 ≤ (s.port p).reason))) :
    quarantineReceived s p = quarantinePort s p 6 := by
  unfold quarantineReceived
  dsimp only
  rw [if_neg (by rintro ⟨hq, hlo, hhi⟩; rcases h with h | ⟨-, h⟩; exacts [absurd (hq.symm.trans h) (by decide), by omega]), if_pos]
  rcases h with h | ⟨h, -⟩
  · exact .inr (.inl h)
  · exact .inr (.inr h)

end Quarantine

theorem quarantineReceived_up {s : State} {p : Nat} (h : (s.port p).st = .up) : quarantineReceived s p = quarantinePort s p 6 := by
  simp [quarantineReceived, h]

theorem quarantineReceived_idle {s : State} {p : Nat}
    (h : (s.port p).st = .dark ∨ (s.port p).st = .down ∨ ((s.port p).st = .quarantined ∧ 1 ≤ (s.port p).reason ∧ (s.port p).reason < 6)) :
    quarantineReceived s p = (s, []) := by
  unfold quarantineReceived
  dsimp only
  rcases h with h | h | h
  · simp [h]
  · simp [h]
  · rw [if_pos h]

/-! HELLO (R249, R251). -/

/-- A port has taken the peer's HELLO. -/
def portHears (b : List Byte) (x : Port) : Port :=
  { x with
    helloSent := false, peerCoords := (seatAt b 9).1 + 2 ^ 8 * (seatAt b 9).2.1 + 2 ^ 16 * (seatAt b 9).2.2, peerPort := field b 2 1 % 16
    digest := bytesAt b 0x10 48 }

/-- The management messages of a port that answers a HELLO with its own, where it has none outstanding (log entry 64). -/
def helloOwn (s : State) (p : Nat) : List (List Byte) := if (s.port p).helloSent then (s.port p).mgmt else (s.port p).mgmt ++ [helloBytes s p]

/-- A HELLO is answered and taken, and not yet judged. -/
def helloHeard (s : State) (p : Nat) (b : List Byte) : State := (if (s.port p).helloSent then s else sendHello s p).modPort p (portHears b)

theorem helloHeard_port (s : State) {p : Nat} (hp : p < 12) (b : List Byte) :
    (helloHeard s p b).port p = { portHears b (s.port p) with mgmt := helloOwn s p } := by
  rw [helloHeard, port_modPort_same _ _ hp, helloOwn]
  split
  · rfl
  · rw [sendHello_port s hp]
    rfl

theorem helloHeard_alone (s : State) (p : Nat) (b : List Byte) : portAlone s (helloHeard s p b) p := by
  unfold helloHeard
  split
  · exact .modPort s _
  · exact (sendHello_alone s p).trans (.modPort _ _)

theorem helloHeard_boot (s : State) (p : Nat) (b : List Byte) : (helloHeard s p b).boot = s.boot := by
  unfold helloHeard
  split <;> rfl

/-- A HELLO is judged by the image, the seat record and the port's direction (Table 12.9). -/
theorem helloReason_congr {s t : State} {p : Nat} (hb : t.boot = s.boot) (hd : (t.port p).dir = (s.port p).dir) (b : List Byte) :
    helloReason t p b = helloReason s p b := by
  unfold helloReason inNewSeat State.image
  dsimp only
  rw [hb, hd]

theorem helloReceived_judged {s : State} {p : Nat} (hp : p < 12) (h : (s.port p).st = .training ∨ (s.port p).st = .quarantined) (b : List Byte) :
    helloReceived s p b = match helloReason s p b with
      | none => (setPort ((helloHeard s p b).modPort p fun y => { y with reason := 0 }) p .up, [])
      | some r => quarantinePort (sendQuarantine (helloHeard s p b) p r) p r := by
  rw [← helloReason_congr (helloHeard_boot s p b) (by rw [helloHeard_port s hp]; rfl) b]
  exact if_pos h

section Hello

variable {s : State} {p : Nat} (hp : p < 12) (h : (s.port p).st = .training ∨ (s.port p).st = .quarantined) {b : List Byte}
include hp h

/-- A HELLO that agrees brings the port UP. -/
theorem helloReceived_agrees (hr : helloReason s p b = none) : let t := failXfers (helloReceived s p b)
    portAlone s t p ∧ t.port p = { portHears b (s.port p) with mgmt := helloOwn s p, st := .up, reason := 0, evUp := true } := by
  rw [helloReceived_judged hp h, hr]
  refine ⟨((helloHeard_alone s p b).trans (.modPort _ _)).trans (setPort_alone _ p .up), ?_⟩
  change (setPort _ p .up).port p = _
  have hne : (s.port p).st ≠ .up := by rcases h with h | h <;> rw [h] <;> decide
  rw [setPort_port _ hp, port_modPort_same _ _ hp, helloHeard_port s hp]
  exact portEnters_up hne

/-- A HELLO that does not agree quarantines the port with the first reason that holds, and the peer is told. -/
theorem helloReceived_differs {r : Nat} (hr : helloReason s p b = some r) : let t := failXfers (helloReceived s p b)
    portAlone s t p ∧ t.port p = { portHears b (s.port p) with
      mgmt := helloOwn s p ++ [0x06#8 :: leBytes 1 r], st := .quarantined, reason := r
      evQuar := (s.port p).evQuar || decide ((s.port p).st ≠ .quarantined) } := by
  have hport : (sendQuarantine (helloHeard s p b) p r).port p =
      { portHears b (s.port p) with mgmt := helloOwn s p ++ [0x06#8 :: leBytes 1 r] } := by
    rw [sendQuarantine, queueMgmt, port_modPort_same _ _ hp, helloHeard_port s hp]
    rfl
  have hne : (s.port p).st ≠ .up := by rcases h with h | h <;> rw [h] <;> decide
  obtain ⟨halone, hlast⟩ := quarantinePort_first (s := sendQuarantine (helloHeard s p b) p r) hp (by rw [hport]; exact hne) r
  rw [helloReceived_judged hp h, hr]
  exact ⟨((helloHeard_alone s p b).trans (.modPort _ _)).trans halone, hlast.trans (by rw [hport]; rfl)⟩

end Hello

theorem helloReceived_idle {s : State} {p : Nat} (h1 : (s.port p).st ≠ .training) (h2 : (s.port p).st ≠ .quarantined) (b : List Byte) :
    helloReceived s p b = (s, []) := if_neg fun h => h.elim h1 h2

end Sys2Proof
end

section
/-! SUPPORT. Ports as the statement asks: training, failure, quarantine, and the steward's hold and retrain (R234, R249, R250, R254, R256, R258). -/

namespace Sys2Proof

open Machine

/-- Whether a port may train goes by its direction and hold, the power and the boot (R234, R363, R392). -/
theorem mayTrain_congr {s t : State} {p : Nat} (hd : (t.port p).dir = (s.port p).dir) (hh : (t.port p).holdDown = (s.port p).holdDown)
    (hi : t.link.idle = s.link.idle) (hp : t.power = s.power) (hb : t.boot = s.boot) : mayTrain t p = mayTrain s p := by
  unfold mayTrain
  dsimp only
  rw [hd, hh, hi, hp, hb]

/-- The power and the boot go on while ports fail. -/
theorem leaveGroup_mayTrain (s : State) {p : Nat} (hp : p < 12) : mayTrain (failXfers (leaveGroup s p .down)) p = mayTrain s p := by
  obtain ⟨hport, -, hidle⟩ := leaveGroup_down s hp
  have hmoves := failXfers_moves (leaveGroup s p .down) (leaveGroup_moves s p .down (Moves.refl 313288 s) rfl) rfl
  exact mayTrain_congr (by rw [hport]; rfl) (by rw [hport]; rfl) hidle (hmoves.rest .power rfl) (hmoves.rest .boot rfl)

/-- A port that has left its direction and then trains has trained. -/
theorem portTrains_after {s u t : State} {p : Nat} {r : TrainResult} (hport : u.port p = portDown (s.port p)) (howe : portsOwe s u p)
    (hstay : (s.port p).st ≠ .up → portsStay s u p) (h : portTrains u t p r) : portTrains s t p r := by
  have hdown : (u.port p).st ≠ .up := by rw [hport]; exact fun he => nomatch he
  obtain ⟨howes, hstays, hrest⟩ := h
  rw [hport] at hrest
  exact ⟨portsOwe_trans howe howes, fun hne k hk => (hstays hdown k hk).trans (hstay hne k hk), hrest⟩

section Port

variable {s : State} {p : Nat}

theorem trainDown_idle (h : mayTrain s p = false ∨ (s.port p).st ≠ .down) (r : TrainResult) : trainDown s p r = s :=
  if_neg fun ht => h.elim (fun hf => Bool.false_ne_true (hf.symm.trans ht.1)) fun hne => hne ht.2

theorem trainDown_runs (hm : mayTrain s p = true) (hd : (s.port p).st = .down) (r : TrainResult) : trainDown s p r = trainPort s p r := if_pos ⟨hm, hd⟩

theorem trainTimeout_runs (h : (s.port p).st = .training) : trainTimeout s p = failXfers (leaveGroup s p .down) := if_pos h

theorem trainTimeout_idle (h : (s.port p).st ≠ .training) : trainTimeout s p = s := if_neg h

theorem portFails_runs (h : (s.port p).st = .up ∨ (s.port p).st = .quarantined ∨ (s.port p).st = .training) :
    portFails s p = failXfers (leaveGroup s p .down) := if_pos h

theorem portFails_idle (h : (s.port p).st = .dark ∨ (s.port p).st = .down) : portFails s p = s := by
  unfold portFails
  rcases h with h | h <;> simp [h]

/-! The steward's hold and retrain (R256). -/

theorem portHold_stays {hold : Bool} (h : hold = false ∨ (s.port p).st = .dark) : portHold s p hold = s.modPort p fun x => { x with holdDown := hold } :=
  if_pos (by simpa using h)

theorem portHold_held (h : (s.port p).st ≠ .dark) :
    portHold s p true = (failXfers (leaveGroup (s.modPort p fun x => { x with holdDown := true }) p .down)).emit (.idle p) := if_neg (by simpa using h)

theorem portRetrain_idle (h : (s.port p).st = .dark ∨ (s.port p).holdDown = true) (r : TrainResult) : portRetrain s p r = s := if_pos h

theorem portRetrain_down (hd : (s.port p).st = .down) (hh : (s.port p).holdDown = false) (r : TrainResult) :
    portRetrain s p r = if mayTrain s p then trainPort s p r else s := by
  simp [portRetrain, hd, hh]

theorem portRetrain_fails (hp : p < 12) (hk : (s.port p).st ≠ .dark) (hd : (s.port p).st ≠ .down) (hh : (s.port p).holdDown = false) (r : TrainResult) :
    portRetrain s p r = if mayTrain s p then trainPort (failXfers (leaveGroup s p .down)) p r else failXfers (leaveGroup s p .down) := by
  unfold portRetrain
  dsimp only
  rw [if_neg (by simp [hk, hh]), if_neg hd, leaveGroup_mayTrain s hp]

theorem mayTrain_free (h : mayTrain s p = true) : (s.port p).holdDown = false := by
  simp only [mayTrain, Bool.and_eq_true, Bool.not_eq_true'] at h
  tauto

theorem portRetrain_trains (hp : p < 12) (hk : (s.port p).st ≠ .dark) (hm : mayTrain s p = true) (r : TrainResult) : portTrains s (portRetrain s p r) p r := by
  by_cases hd : (s.port p).st = .down
  · rw [portRetrain_down hd (mayTrain_free hm), if_pos hm]
    exact trainPort_trains s hp r
  · rw [portRetrain_fails hp hk hd (mayTrain_free hm), if_pos hm]
    obtain ⟨hport, howe, -⟩ := leaveGroup_down s hp
    exact portTrains_after hport howe (fun hne => (leaveGroup_isDown hp hne).2.1) (trainPort_trains _ hp r)

/-- A port that is held is DOWN and idle (R256). -/
theorem portHold_holds (hp : p < 12) (hk : (s.port p).st ≠ .dark) : let t := portHold s p true
    portsOwe s t p ∧ t.port p = { portDown (s.port p) with holdDown := true } ∧ ∃ ys, t.out = s.out ++ ys ++ [.idle p] := by
  obtain ⟨hport, howe, -⟩ := leaveGroup_down (s.modPort p fun x => { x with holdDown := true }) hp
  have hmoves := failXfers_moves _ (leaveGroup_moves (s.modPort p fun x => { x with holdDown := true }) p .down (Moves.refl 313288 _) rfl) rfl
  obtain ⟨ys, hys⟩ := hmoves.sent
  rw [port_modPort_same _ _ hp] at hport
  rw [portHold_held hk]
  exact ⟨portsOwe_trans (portsOwe_of_stay (portAlone.modPort s _).1) howe, hport, ys, congrArg (· ++ [Output.idle p]) hys⟩

end Port

/-! The commands. -/

section Commands

variable {s : State} {p : Nat}

/-- PORT_TRAINING_START and PORT_RETRAIN_TIMER (R234). -/
theorem training_runs (hp : p < 12) (hd : diesUp s = true) {r : TrainResult} {i : Instr} (hi : i = .portTrainingStart p r ∨ i = .portRetrainTimer p r) :
    (mayTrain s p = false ∨ (s.port p).st ≠ .down → exec i s = .next s) ∧
      (mayTrain s p = true → (s.port p).st = .down → Runs i s fun t => portTrains s t p r) := by
  have hrun : exec i s = .next (trainDown s p r) := by
    rcases hi with rfl | rfl
    · exact portTrainingStart_runs p r s hd
    · exact portRetrainTimer_runs p r s hd
  exact ⟨fun h => hrun.trans (congrArg _ (trainDown_idle h r)), fun hm hst => ⟨_, hrun, trainDown_runs hm hst r ▸ trainPort_trains s hp r⟩⟩

/-- PORT_FAILURE (R254). -/
theorem failure_runs (hp : p < 12) (hd : diesUp s = true) :
    ((s.port p).st = .dark ∨ (s.port p).st = .down → exec (.portFailure p) s = .next s) ∧
    ((s.port p).st = .training ∨ (s.port p).st = .quarantined → Runs (.portFailure p) s fun t => portIsDown s t p) ∧
    ((s.port p).st = .up → Runs (.portFailure p) s fun t => t.port p = portDown (s.port p) ∧ portsOwe s t p ∧
      ((s.port p).dir < 6 → dirHasOther s p → flitsMove s t (s.link.disown p) p)) := by
  have hrun := portFailure_runs p s hd
  refine ⟨fun h => hrun.trans (congrArg _ (portFails_idle h)), fun h => ⟨_, hrun, ?_⟩, fun h => ⟨_, hrun, ?_⟩⟩
  · rw [portFails_runs (by tauto)]
    exact leaveGroup_isDown hp (by rcases h with h | h <;> rw [h] <;> decide)
  · rw [portFails_runs (.inl h)]
    obtain ⟨hport, howe, -⟩ := leaveGroup_down s hp
    exact ⟨hport, howe, fun hdir ho => leaveGroup_hands hp h hdir ho⟩

/-- QUARANTINE_RECEIVED (R249). -/
theorem quarantine_runs (hp : p < 12) (hd : diesUp s = true) :
    ((s.port p).st = .dark ∨ (s.port p).st = .down ∨ ((s.port p).st = .quarantined ∧ 1 ≤ (s.port p).reason ∧ (s.port p).reason < 6) →
      exec (.quarantineReceived p) s = .next s) ∧
    ((s.port p).st = .training ∨ ((s.port p).st = .quarantined ∧ ((s.port p).reason = 0 ∨ 6 ≤ (s.port p).reason)) →
      Runs (.quarantineReceived p) s fun t => portAlone s t p ∧
        t.port p = { s.port p with st := .quarantined, reason := 6, evQuar := (s.port p).evQuar || decide ((s.port p).st ≠ .quarantined) }) ∧
    ((s.port p).st = .up → Runs (.quarantineReceived p) s fun t => portsOwe s t p ∧ (t.port p).st = .quarantined ∧ (t.port p).reason = 6 ∧
      (t.port p).evQuar = true ∧ ((s.port p).dir < 6 → dirHasOther s p → flitsMove s t s.link p)) := by
  have hrun := quarantineReceived_runs p s hd
  refine ⟨fun h => hrun.trans (by rw [quarantineReceived_idle h]; rfl), fun h => ⟨_, hrun, ?_⟩, fun h => ⟨_, hrun, ?_⟩⟩
  · rw [quarantineReceived_takes h]
    exact quarantinePort_first hp (by rcases h with h | ⟨h, -⟩ <;> rw [h] <;> decide) 6
  · rw [quarantineReceived_up h]
    obtain ⟨howe, hst, hreason, hev⟩ := quarantinePort_leaves hp h 6
    exact ⟨howe, hst, hreason, hev, fun hdir ho => quarantinePort_hands h hdir ho 6⟩

/-- SZL_RETRAIN (R256). -/
theorem retrain_runs (hp : p < 12) (hr : (regAt s 0 (szlOff (0x100 * p + 0x20))).isSome = true) (hw : writesWait s = false) (r : TrainResult) :
    ((s.port p).st = .dark ∨ (s.port p).holdDown = true → exec (.szlRetrain p r) s = .next s) ∧
    ((s.port p).st ≠ .dark → (s.port p).holdDown = false → mayTrain s p = false → (s.port p).st = .down → exec (.szlRetrain p r) s = .next s) ∧
    ((s.port p).st ≠ .dark → (s.port p).holdDown = false → mayTrain s p = false → (s.port p).st ≠ .down →
      Runs (.szlRetrain p r) s fun t => portsOwe s t p ∧ t.port p = portDown (s.port p)) ∧
    ((s.port p).st ≠ .dark → mayTrain s p = true → Runs (.szlRetrain p r) s fun t => portTrains s t p r) := by
  have hrun : exec (.szlRetrain p r) s = .next (portRetrain s p r) := (szlRetrain_runs p r s hw).trans (congrArg _ (viaReg_pos hr))
  refine ⟨fun h => hrun.trans (congrArg _ (portRetrain_idle h r)), fun _ hh hm hst => hrun.trans ?_, fun hk hh hm hst => ⟨_, hrun, ?_⟩,
    fun hk hm => ⟨_, hrun, portRetrain_trains hp hk hm r⟩⟩
  · rw [portRetrain_down hst hh, hm]
    rfl
  · rw [portRetrain_fails hp hk hst hh, hm]
    obtain ⟨hport, howe, -⟩ := leaveGroup_down s hp
    exact ⟨howe, hport⟩

end Commands

/-- Settles O52: training by the lanes that both sides reach, a failure by the state that the port leaves, a HELLO by its first reason, and the
steward's writes by the port that they hold, retrain or clear (R234, R235, R241, R249, R250, R254, R256, R258; log entries 64 and 134). -/
theorem portTraining : Obligations.PortTraining := by
  refine fun s p hp => ⟨fun hd => ⟨fun r i hi => training_runs hp hd hi, fun h => ?_, fun h => ⟨_, portTrainingTimeout_runs p s hd, ?_⟩, (failure_runs hp hd).1,
    (failure_runs hp hd).2.1, (failure_runs hp hd).2.2, fun b => ⟨fun h1 h2 => ?_, fun h => ⟨fun hr => ?_, fun r hr => ?_⟩⟩, quarantine_runs hp hd⟩,
    fun hr hw => ⟨fun hold h => ⟨_, (szlHoldDown_runs p hold s hw).trans (congrArg _ (viaReg_pos hr)), ?_⟩,
      fun hk => ⟨_, (szlHoldDown_runs p true s hw).trans (congrArg _ (viaReg_pos hr)), portHold_holds hp hk⟩, retrain_runs hp hr hw,
      ⟨_, (szlClearCounters_runs p s hw).trans (congrArg _ (viaReg_pos hr)), modLink_only s _, .modPort s _, port_modPort_same s _ hp⟩⟩⟩
  · rw [portTrainingTimeout_runs p s hd, trainTimeout_idle h]
  · rw [trainTimeout_runs h]
    exact leaveGroup_isDown hp (by rw [h]; decide)
  · rw [helloReceived_runs p b s hd, helloReceived_idle h1 h2]
    rfl
  · exact ⟨_, helloReceived_runs p b s hd, helloReceived_agrees hp h hr⟩
  · exact ⟨_, helloReceived_runs p b s hd, helloReceived_differs hp h hr⟩
  · rw [portHold_stays h]
    exact ⟨modLink_only s _, .modPort s _, port_modPort_same s _ hp⟩

end Sys2Proof
end

section
/-! SUPPORT. What a flit's bytes carry: its header, and a CRC that its receiver finds to be right (R237, R238, Table 12.4). -/

namespace Sys2Proof

open Machine

theorem leNat_leBytes (n v : Nat) : leNat (leBytes n v) = v % 256 ^ n := by
  induction n generalizing v with
  | zero => simp [leBytes, leNat, Nat.mod_one]
  | succ n ih =>
    rw [leBytes, leNat, ih, BitVec.toNat_ofNat, show 256 ^ (n + 1) = 256 * 256 ^ n from Nat.pow_succ']
    exact Nat.mod_mul.symm

theorem bytesAt_left {a : List Byte} {n : Nat} (h : a.length = n) (b : List Byte) : bytesAt (a ++ b) 0 n = a := by
  subst h
  simp [bytesAt]

theorem bytesAt_right {a b : List Byte} {o n : Nat} (ha : a.length = o) (hb : b.length = n) : bytesAt (a ++ b) o n = b := by
  subst ha hb
  simp [bytesAt]

/-- The CRC has 64 bits (R238). -/
theorem crcBits_lt (n : Nat) {c : Nat} (h : c < 2 ^ 64) : crcBits n c < 2 ^ 64 := by
  induction n generalizing c with
  | zero => exact h
  | succ n ih =>
    rw [crcBits]
    refine ih ?_
    split
    · exact Nat.xor_lt_two_pow (Nat.mod_lt _ (by decide)) (by decide)
    · rename_i htop
      have hlow : c < 2 ^ 63 := by
        by_contra hge
        refine htop ((Nat.testBit_eq_decide_div_mod_eq ..).trans (decide_eq_true ?_))
        omega
      omega

theorem crc64_lt (bs : List Byte) : crc64 bs < 2 ^ 64 := by
  have hfold : ∀ (l : List Byte) (c : Nat), c < 2 ^ 64 → l.foldl crcByte c < 2 ^ 64 := by
    intro l
    induction l with
    | nil => exact fun _ hc => hc
    | cons b l ih => exact fun c hc => ih _ (crcBits_lt 8 (Nat.xor_lt_two_pow hc (by have := b.isLt; omega)))
  exact Nat.xor_lt_two_pow (hfold bs _ (by decide)) (by decide)

/-- A flit's header (Table 12.4). -/
def flitHeader (kind seq ack : Nat) (f : Flit) (credit : Nat × Nat × Nat) : Nat :=
  seq % 256 + 2 ^ 8 * (ack % 256) + 2 ^ 16 * f.vc + 2 ^ 18 * f.dclass + 2 ^ 19 * kind + 2 ^ 21 * b2n f.first + 2 ^ 22 * b2n f.closing + 2 ^ 23 * credit.1 +
    2 ^ 25 * credit.2.1 + 2 ^ 26 * credit.2.2 + 2 ^ 32 * (f.msgId % 4096) + 2 ^ 44 * (f.index % 2 ^ 20)

section Bytes

variable (kind seq ack : Nat) (f : Flit) (credit : Nat × Nat × Nat)

/-- The 248 bytes that a flit's CRC is over. -/
def flitBody : List Byte := leBytes 8 (flitHeader kind seq ack f credit) ++ bytesAt f.payload 0 240

theorem flitBody_length : (flitBody kind seq ack f credit).length = 248 := by
  rw [flitBody, List.length_append, leBytes_length, bytesAt_length]

theorem flitBytes_eq : flitBytes kind seq ack f credit = flitBody kind seq ack f credit ++ leBytes 8 (crc64 (flitBody kind seq ack f credit)) := rfl

theorem flitBytes_crc : crc64 (bytesAt (flitBytes kind seq ack f credit) 0 248) = field (flitBytes kind seq ack f credit) 248 8 := by
  have hlen := flitBody_length kind seq ack f credit
  rw [flitBytes_eq, bytesAt_left hlen, field, bytesAt_right hlen (leBytes_length 8 _), leNat_leBytes]
  exact (Nat.mod_eq_of_lt (crc64_lt _)).symm

theorem flitBytes_header : field (flitBytes kind seq ack f credit) 0 8 = flitHeader kind seq ack f credit % 2 ^ 64 := by
  rw [flitBytes_eq, flitBody, List.append_assoc, field, bytesAt_left (leBytes_length 8 _), leNat_leBytes]
  norm_num

end Bytes

end Sys2Proof
end

section
/-! SUPPORT. A NAK on the last usable lane of a port, for a flit that was sent 16 times: the port is DOWN, and keeps the credits that the NAK's own
flit returned (R241, R242, R252, R254). -/

namespace Sys2Proof

open Machine

variable {s : State} {p i : Nat}

/-- A flit on a lane in use whose CRC is right and which is a NAK returns credits, then acks and asks for what is left again (R242). -/
theorem flitReceived_nak {b : List Byte} (huse : (laneOf s p i).inUse = true) (hcrc : crc64 (bytesAt b 0 248) = field b 248 8)
    (hkind : bits (field b 0 8) 19 2 = 2) (dest : Seat) (ns : Nat) : flitReceived s p i b dest ns =
      nakReceived (applyCredits s p (bits (field b 0 8) 23 2) (bits (field b 0 8) 25 1) (bits (field b 0 8) 26 6)) p i (bits (field b 0 8) 8 8) := by
  unfold laneOf at huse
  simp only [flitReceived, huse, hcrc, hkind, Bool.not_true, ne_eq, not_true_eq_false, if_false, Bool.false_eq_true]

theorem applyAck_unknown {ack : Nat} (h : ∀ u ∈ (laneOf s p i).buffer, u.seq ≠ ack) : applyAck s p i ack = s := by
  have hnone : (tget (s.port p).lanes i).buffer.findIdx? (fun u => u.seq == ack) = none :=
    List.findIdx?_eq_none_iff.2 fun u hu => beq_false_of_ne (h u hu)
  simp only [applyAck, hnone]

theorem unackedAfter_unknown {ack : Nat} (h : ∀ u ∈ (laneOf s p i).buffer, u.seq ≠ ack) : unackedAfter s p i ack = (laneOf s p i).buffer := by
  have hnone : (laneOf s p i).buffer.findIdx? (fun u => u.seq == ack) = none := List.findIdx?_eq_none_iff.2 fun u hu => beq_false_of_ne (h u hu)
  simp only [unackedAfter, hnone]

/-- A NAK that acks nothing, where a flit has been sent 16 times, fails its lane (R242, R252). -/
theorem nakReceived_limit {ack : Nat} (h : ∀ u ∈ (laneOf s p i).buffer, u.seq ≠ ack) (hl : ∃ u ∈ (laneOf s p i).buffer, 16 ≤ u.sends) :
    nakReceived s p i ack = laneFailure s p i := by
  have hlimit : replayLimited s p i = true := List.any_eq_true.2 (by simpa [laneOf] using hl)
  simp only [nakReceived, applyAck_unknown h, hlimit, if_true]

theorem foldl_bits_zero {f : Nat → Bool} {l : List Nat} (h : ∀ j ∈ l, f j = false) (a : Nat) : l.foldl (fun a j => if f j then a + 2 ^ j else a) a = a := by
  induction l with
  | nil => rfl
  | cons j l ih => rw [List.foldl_cons, h j List.mem_cons_self, if_neg Bool.false_ne_true, ih fun k hk => h k (List.mem_cons_of_mem j hk)]

/-- A lane of a port is marked bad. -/
def laneBad (s : State) (p i : Nat) : State := s.modPort p fun x => { x with lanes := tmod x.lanes i fun l => { l with good := false } }

/-- A trained port whose last usable lane fails is DOWN (R252, R254). -/
theorem laneFailure_last (hp : p < 12) (hi : i < 8) (ht : trained s p) (hgood : (laneOf s p i).good = true) (hno : ¬ otherLane s p i) :
    (laneFailure s p i).port p = portDown (s.port p) := by
  have hport : (laneBad s p i).port p = { s.port p with lanes := tmod (s.port p).lanes i fun l => { l with good := false } } := port_modPort_same s _ hp
  have hmap : laneMap ((laneBad s p i).port p) LinkLane.usable = 0 := by
    refine foldl_bits_zero (fun j hj => ?_) 0
    rw [hport]
    by_cases hji : j = i
    · rw [hji, tget_tmod_same _ _ hi]
      rfl
    · rw [tget_tmod_ne _ _ (Ne.symm hji)]
      exact Bool.eq_false_iff.2 fun hu => hno ⟨j, List.mem_range.1 hj, hji, hu⟩
  have hlast : laneFails s p i = (laneBad s p i, true) := if_pos hmap
  have hfails : laneFailure s p i = portFails (laneBad s p i) p := by
    unfold laneFailure
    dsimp only
    rw [if_pos ⟨ht, hgood⟩, hlast]
    rfl
  have hst : ((laneBad s p i).port p).st = .up ∨ ((laneBad s p i).port p).st = .quarantined ∨ ((laneBad s p i).port p).st = .training := by
    rw [hport]
    exact ht.imp_right .inl
  rw [hfails, portFails_runs hst, (leaveGroup_down (laneBad s p i) hp).1, hport]
  rfl

/-- Port 0 is UP on lane 0 alone, whose one flit has been sent 16 times; it holds 255 of 256 credits for each channel. -/
def lastLane : State :=
  { State.reset with
    boot := { released := true }
    link :=
      { ports := tset (Vector.replicate 12 {}) 0
          { st := .up, dir := 0, width := 1, credits := Vector.replicate 4 255, used0 := Vector.replicate 4 1
            lanes := tset (Vector.replicate 8 {}) 0 { good := true, peerGood := true, inUse := true, buffer := [{ seq := 5, sends := 16, flit := {} }] } } } }

/-- A NAK that acks sequence 4, which is in no buffer, and returns one credit of channel 0. -/
def nakWithCredit : List Byte := flitBytes 2 0 4 {} (0, 0, 1)

theorem nakWithCredit_header : field nakWithCredit 0 8 = 2 ^ 26 + 2 ^ 20 + 2 ^ 10 := (flitBytes_header 2 0 4 {} (0, 0, 1)).trans (by decide)

theorem nakWithCredit_crc : crc64 (bytesAt nakWithCredit 0 248) = field nakWithCredit 248 8 := flitBytes_crc 2 0 4 {} (0, 0, 1)

/-- The port that fails is DOWN with the credit that the NAK has just returned to it. -/
theorem lastLane_fails : (flitReceived lastLane 0 0 nakWithCredit (0, 0, 0) 0).port 0 = portDown ((applyCredits lastLane 0 0 0 1).port 0) := by
  rw [flitReceived_nak (by decide) nakWithCredit_crc (by rw [nakWithCredit_header]; decide), nakWithCredit_header]
  change (nakReceived (applyCredits lastLane 0 0 0 1) 0 0 4).port 0 = _
  rw [nakReceived_limit (by decide) (by decide)]
  exact laneFailure_last (by decide) (by decide) (by unfold trained; decide) (by decide) (by unfold otherLane; decide)

/-- Refutes O53: what a NAK does is stated as if it returned no credits. A NAK flit returns its credit first (R241) and then, for a flit that was
sent 16 times, fails the last lane and with it the port (R242, R252, R254), whose credits stay: 256 of channel 0, where the statement has the 255
from before the flit. -/
theorem not_lanesAndFlits : ¬ Obligations.LanesAndFlits := by
  intro h
  obtain ⟨-, -, -, -, -, -, -, hflit⟩ := h.1 lastLane 0 0 (by decide) (by decide) (by decide)
  obtain ⟨-, -, hgood⟩ := hflit nakWithCredit (0, 0, 0) 0
  obtain ⟨-, hnak, -⟩ := hgood (by decide) nakWithCredit_crc
  obtain ⟨t, ht, htaken, -⟩ := hnak (by rw [nakWithCredit_header]; decide)
  have hruns : t = flitReceived lastLane 0 0 nakWithCredit (0, 0, 0) 0 := Host.Outcome.next.inj (ht.symm.trans (flitReceived_runs 0 0 _ _ 0 lastLane (by decide)))
  have hlimit : ∃ u ∈ unackedAfter lastLane 0 0 (bits (field nakWithCredit 0 8) 8 8), 16 ≤ u.sends := by
    rw [nakWithCredit_header, unackedAfter_unknown (by decide)]
    decide
  have hlost := ((htaken.2 hlimit).1 ⟨.inl (by decide), by decide⟩).1 (by unfold otherLane; decide)
  have hport : portDown ((applyCredits lastLane 0 0 0 1).port 0) = portDown (lastLane.port 0) := by rw [← lastLane_fails, ← hruns, hlost.1]
  exact absurd (congrArg (fun x : Port => tget x.credits 0) hport) (by decide)

end Sys2Proof
end

section
/-! SUPPORT. The commands of queue pairs: a go of ENT_QP_CMD, the read of its context, and what CREATE, MODIFY, DESTROY and QUERY then do
(R298, R299). -/

namespace Sys2Proof

open Machine

/-! A go of ENT_QP_CMD (R288, R298). -/

/-- The state in which a go that is taken runs: the claim's command holds the operation and the handle. -/
def goTaken (s : State) (c op h : Nat) : State := s.modClaimNet c fun n => { n with cmdOp := op, cmdHandle := h }

/-- The register of the claim's command answers, and a write of it applies at once. -/
def goReaches (s : State) (c : Nat) : Prop := c < 8 ∧ (regAt s (c + 1) 0x60008).isSome = true ∧ writesWait s = false

theorem qpReady.reaches {s : State} {c : Nat} (hr : qpReady s c) : goReaches s c := ⟨hr.1, hr.2.1, hr.2.2.1⟩

theorem qpReady.done {s : State} {c : Nat} (hr : qpReady s c) : (tget s.net.claims c).done = true := hr.2.2.2

section Go

variable {s : State} {c op h k : Nat} {host : Bool} {run : State → State} {i : Instr}

theorem goTaken_qpCtxAddr (hc : c < 8) : qpCtxAddr (goTaken s c op h) c = qpCtxAddr s c := by
  have hclaim : tget (goTaken s c op h).net.claims c = { tget s.net.claims c with cmdOp := op, cmdHandle := h } := tget_tmod_same _ _ hc
  rw [qpCtxAddr, hclaim]
  rfl

theorem goTaken_window (hc : c < 8) (n : Nat) :
    winOk (goTaken s c op h) (fnOf c) (qpCtxAddr (goTaken s c op h) c) n = winOk s (fnOf c) (qpCtxAddr s c) n := by
  rw [goTaken_qpCtxAddr hc]
  rfl

theorem qpGo_busy (hd : (tget s.net.claims c).done = false) : qpGo s c op h host run = s :=
  if_pos (by rw [hd]; rfl)

theorem qpGo_waits (hd : (tget s.net.claims c).done = true) (hn : canIssue s (fnOf c) = false) :
    qpGo s c op h true run = (goTaken s c op h).modClaimNet c fun n => { n with done := false } :=
  (if_neg (by rw [hd]; decide)).trans (if_pos (by rw [hn]; rfl))

theorem qpGo_runs (hd : (tget s.net.claims c).done = true) (hi : host = true → canIssue s (fnOf c) = true) :
    qpGo s c op h host run = run (goTaken s c op h) := by
  refine (if_neg (by rw [hd]; decide)).trans (if_neg fun hw => ?_)
  obtain ⟨hh, hn⟩ := Bool.and_eq_true_iff.1 hw
  rw [hi hh] at hn
  exact absurd hn (by decide)

theorem go_waits (hi : exec i s = .next (qpGo s c op h true run)) (hr : qpReady s c) (hn : canIssue s (fnOf c) = false) :
    Runs i s fun t => (tget t.net.claims c).done = false ∧ t.net.qps = s.net.qps ∧ OnlyParts [.net] s t :=
  ⟨_, hi.trans (congrArg _ (qpGo_waits hr.done hn)), congrArg ClaimNet.done (tget_tmod_same _ _ hr.1), rfl, (netOnly s _).trans (netOnly _ _)⟩

theorem go_runs {P : State → Prop} (hi : exec i s = .next (qpGo s c op h host run)) (hr : qpReady s c) (hh : host = true → canIssue s (fnOf c) = true)
    (hp : P (run (goTaken s c op h))) : Runs i s P :=
  ⟨_, hi.trans (congrArg _ (qpGo_runs hr.done hh)), hp⟩

/-- A command that ends with a cause after at most a read is refused. -/
theorem go_refused {v : State} (hi : exec i s = .next (qpGo s c op h host run)) (hr : qpReady s c) (hh : host = true → canIssue s (fnOf c) = true)
    (hrun : run (goTaken s c op h) = qpResult v c k) (hv : OnlyParts [.out, .pcie] (goTaken s c op h) v) : qpRefused i s c k := by
  have hnet : v.net = (goTaken s c op h).net := hv .net (by decide)
  obtain ⟨hans, hqps, hports⟩ := qpResult_answers v hr.1 k
  refine go_runs hi hr hh ?_
  rw [hrun]
  exact ⟨hans, hqps.trans (congrArg Net.qps hnet :), hports.trans (congrArg Net.ports hnet :),
    ((netOnly s _).sub rfl).trans ((hv.sub rfl).trans ((netOnly v _).sub rfl))⟩

end Go

section Exec

variable {s : State} {c : Nat} (hg : goReaches s c)
include hg

theorem exec_qpCreate (r : HostResp) : exec (.qpCreate c r) s = .next (qpGo s c 0 0 true fun s => qpCreate s c r) := by
  rw [qpCreate_runs c r s hg.2.2, viaClaim_pos hg.1 hg.2.1]

theorem exec_qpModify (h : Nat) (r : HostResp) : exec (.qpModify c h r) s = .next (qpGo s c 1 h true fun s => qpModify s c h r) := by
  rw [qpModify_runs c h r s hg.2.2, viaClaim_pos hg.1 hg.2.1]

theorem exec_qpDestroy (h : Nat) : exec (.qpDestroy c h) s = .next (qpGo s c 2 h false fun s => qpDestroy s c h) := by
  rw [qpDestroy_runs c h s hg.2.2, viaClaim_pos hg.1 hg.2.1]

theorem exec_qpQuery (h : Nat) : exec (.qpQuery c h) s = .next (qpGo s c 3 h true fun s => qpQuery s c h) := by
  rw [qpQuery_runs c h s hg.2.2, viaClaim_pos hg.1 hg.2.1]

/-- Each command is ignored while done reads 0 (R298). -/
theorem qpCommands_busy (hd : (tget s.net.claims c).done = false) (h : Nat) (r : HostResp) :
    ∀ i ∈ [Instr.qpCreate c r, .qpModify c h r, .qpDestroy c h, .qpQuery c h], exec i s = .next s := by
  simp only [List.forall_mem_cons, List.not_mem_nil, false_imp_iff, implies_true, and_true]
  rw [exec_qpCreate hg, exec_qpModify hg, exec_qpDestroy hg, exec_qpQuery hg]
  simp only [qpGo_busy hd, and_self]

end Exec

/-! The read of the context (R285, R289, R299). -/

section Context

variable {s v : State} {c h : Nat} {r : HostResp} {b : List Byte}

theorem readCtx_only (s : State) (c : Nat) (r : HostResp) : OnlyParts [.out, .pcie] s (readCtx s c r).1 :=
  (readCtx_moves s c r (Moves.refl 524296 s) rfl).only (covers_spec rfl)

theorem readCtx_unread (ho : winOk s (fnOf c) (qpCtxAddr s c) 128 = false ∨ r = .err) : (readCtx s c r).2 = none := by
  unfold readCtx
  dsimp only
  split
  · next hw =>
    have hf : ¬ winOk s (fnOf c) (qpCtxAddr s c) 128 = false := by
      rw [show winOk s (fnOf c) (qpCtxAddr s c) 128 = true from hw]
      decide
    rw [ho.resolve_left hf]
    rfl
  · rfl

theorem readCtx_read (hw : winOk s (fnOf c) (qpCtxAddr s c) 128 = true) (hb : b.length = 128) :
    readCtx s c (.ok b) = (s.emit (.hostRead (fnOf c) (qpCtxAddr s c) 128), some b) := by
  refine (if_pos hw).trans ?_
  rw [readHost_ok, bytesAt_whole hb]
  rfl

theorem qpCreate_unread (hn : (readCtx s c r).2 = none) : qpCreate s c r = qpResult (readCtx s c r).1 c 0x0430 := by
  unfold qpCreate
  generalize readCtx s c r = x at hn ⊢
  obtain ⟨v, y⟩ := x
  cases hn
  rfl

theorem qpModify_unread (hn : (readCtx s c r).2 = none) : qpModify s c h r = qpResult (readCtx s c r).1 c 0x0430 := by
  unfold qpModify
  generalize readCtx s c r = x at hn ⊢
  obtain ⟨v, y⟩ := x
  cases hn
  rfl

/-! CREATE with a context that was read (R298, R299). -/

theorem handleUsed_iff (s : State) (c h : Nat) : ((qpsOf s c).map (·.handle)).contains h = (findQp s c h).isSome := by
  rw [Bool.eq_iff_iff, findQp, List.find?_isSome]
  simp [qpsOf, and_assoc]

/-- The lowest device number that no queue pair has. -/
def freeDev (s : State) : Nat := ((List.range 2048).find? fun d => !(s.net.qps.any fun q => q.dev == d)).getD 0

theorem freeDev_free (hn : s.net.qps.length < 2048) : freeDev s < 2048 ∧ ∀ q ∈ s.net.qps, q.dev ≠ freeDev s := by
  unfold freeDev
  cases hf : (List.range 2048).find? fun d => !(s.net.qps.any fun q => q.dev == d) with
  | some d =>
    obtain ⟨hfree, hmem, -⟩ := List.find?_range_eq_some.1 hf
    exact ⟨List.mem_range.1 hmem, by simpa using hfree⟩
  | none =>
    have hsub : List.range 2048 ⊆ s.net.qps.map (·.dev) := fun d hd => by
      have hused := List.find?_eq_none.1 hf d hd
      simpa using hused
    have hlen := (List.subperm_of_subset List.nodup_range hsub).length_le
    rw [List.length_range, List.length_map] at hlen
    omega

/-- The queue pair that CREATE makes of a context. -/
def newQp (s : State) (c h : Nat) (b : List Byte) : Qp :=
  { claim := c, handle := h, dev := freeDev s, ctx := b, st := ctxState b, sqPsn := field b 8 3, rqPsn := field b 0xC 3 }

theorem newQp_qpn (s : State) (c h : Nat) (b : List Byte) : (newQp s c h b).qpn = 0x1000 + freeDev s := by rw [Qp.qpn, newQp]

/-- The state with a new queue pair under a handle, and its answer. -/
def qpCreated (s : State) (c h : Nat) (b : List Byte) : State :=
  (s.modNet fun n => { n with qps := n.qps ++ [newQp s c h b] }).modClaimNet c fun n =>
    { n with done := true, cause := 0, resHandle := h, qpn := (newQp s c h b).qpn }

theorem qpCreated_claim (s : State) (hc : c < 8) (h : Nat) (b : List Byte) : tget (qpCreated s c h b).net.claims c =
    { tget s.net.claims c with done := true, cause := 0, resHandle := h, qpn := (newQp s c h b).qpn } := tget_tmod_same _ _ hc

theorem qpCreate_bad (hx : readCtx s c r = (v, some b)) (hb : ctxOk v c b = false) : qpCreate s c r = qpResult v c 0x0430 := by
  rw [qpCreate, hx]
  exact if_pos (by rw [hb]; rfl)

theorem qpCreate_full (hx : readCtx s c r = (v, some b)) (hb : ctxOk v c b = true) (hn : (v.claim c).queuePairs ≤ (qpsOf v c).length) :
    qpCreate s c r = qpResult v c 0x0121 := by
  rw [qpCreate, hx]
  refine (if_neg (by rw [hb]; decide)).trans ?_
  dsimp only
  split
  · rfl
  · exact if_pos (by rwa [List.length_map])

theorem qpCreate_lowest (hx : readCtx s c r = (v, some b)) (hb : ctxOk v c b = true) (hn : (qpsOf v c).length < (v.claim c).queuePairs)
    (hh : h < (v.claim c).queuePairs) (hfree : findQp v c h = none) (hlow : ∀ j < h, (findQp v c j).isSome = true) :
    qpCreate s c r = qpCreated v c h b := by
  have hfind : (List.range (v.claim c).queuePairs).find? (fun h => !((qpsOf v c).map (·.handle)).contains h) = some h := by
    simp only [handleUsed_iff]
    exact List.find?_range_eq_some.2 ⟨by rw [hfree]; rfl, List.mem_range.2 hh, fun j hj => by rw [hlow j hj]; rfl⟩
  rw [qpCreate, hx]
  refine (if_neg (by rw [hb]; decide)).trans ?_
  dsimp only
  rw [hfind]
  exact if_neg (by rw [List.length_map]; omega)

/-! MODIFY with a context that was read (R298, R299). -/

theorem ctxState_rtr_iff (b : List Byte) : ctxState b = .rtr ↔ field b 0 1 = 2 := by
  unfold ctxState
  split <;> simp_all

theorem ctxState_rts_iff (b : List Byte) : ctxState b = .rts ↔ field b 0 1 = 3 := by
  unfold ctxState
  split <;> simp_all

theorem ctxState_err_iff (h1 : 1 ≤ field b 0 1) (h4 : field b 0 1 ≤ 4) : ctxState b = .err ↔ field b 0 1 = 4 := by
  unfold ctxState
  split <;> simp_all
  omega

theorem qpModify_outside (hx : readCtx s c r = (v, some b)) (hb : field b 0 1 = 0 ∨ 4 < field b 0 1) : qpModify s c h r = qpResult v c 0x0430 := by
  rw [qpModify, hx]
  exact if_pos hb

section Named

variable {q : Qp} (hx : readCtx s c r = (v, some b)) (h1 : 1 ≤ field b 0 1) (h4 : field b 0 1 ≤ 4)
include hx h1 h4

theorem qpModify_unknown (hq : findQp v c h = none) : qpModify s c h r = qpResult v c 0x0431 := by
  rw [qpModify, hx]
  refine (if_neg (by omega)).trans ?_
  rw [hq]

theorem qpModify_known (hq : findQp v c h = some q) : qpModify s c h r =
    if field b 0 1 = 4 then qpResult (enterErr v c h) c 0
    else if (q.st = .init ∧ field b 0 1 = 2) ∨ (q.st = .rtr ∧ field b 0 1 = 3) then qpResult (v.modQp c h fun q => { q with st := ctxState b }) c 0
    else qpResult v c 0x0431 := by
  rw [qpModify, hx]
  refine (if_neg (by omega)).trans ?_
  rw [hq]
  simp only [ctxState_err_iff h1 h4, ctxState_rtr_iff, ctxState_rts_iff]

end Named

/-! DESTROY and QUERY (R298, R299). -/

theorem qpDestroy_unknown (hq : findQp s c h = none) : qpDestroy s c h = qpResult s c 0x0431 := by rw [qpDestroy, hq]

theorem qpDestroy_known (hq : (findQp s c h).isSome = true) :
    qpDestroy s c h = qpResult (s.modNet fun n => { n with qps := n.qps.filter fun q => !(q.claim == c && q.handle == h) }) c 0 := by
  obtain ⟨q, hq⟩ := Option.isSome_iff_exists.1 hq
  rw [qpDestroy, hq]

theorem qpQuery_outside (hw : winOk s (fnOf c) (qpCtxAddr s c) 128 = false) : qpQuery s c h = qpResult s c 0x0430 :=
  if_pos (by rw [Bool.not_eq_true']; exact hw)

section Inside

variable (hw : winOk s (fnOf c) (qpCtxAddr s c) 128 = true)
include hw

theorem qpQuery_unknown (hq : findQp s c h = none) : qpQuery s c h = qpResult s c 0x0431 := by
  refine (if_neg (by rw [Bool.not_eq_true', Bool.not_eq_false]; exact hw)).trans ?_
  rw [hq]

theorem qpQuery_known {q : Qp} (hq : findQp s c h = some q) : qpQuery s c h = qpResult (postHost s (fnOf c) (qpCtxAddr s c) q.context) c 0 := by
  refine (if_neg (by rw [Bool.not_eq_true', Bool.not_eq_false]; exact hw)).trans ?_
  rw [hq]
  rfl

end Inside

theorem context_length (q : Qp) : q.context.length = 128 := by
  simp only [Qp.context, List.length_append, leBytes_length, bytesAt_length]

end Context

/-! What the commands answer (R298, R299). -/

/-- The state in which a taken go has read its context. -/
def ctxTaken (s : State) (c op h : Nat) : State := (goTaken s c op h).emit (.hostRead (fnOf c) (qpCtxAddr s c) 128)

theorem ctxTaken_only (s : State) (c op h : Nat) : OnlyParts [.out, .pcie] (goTaken s c op h) (ctxTaken s c op h) := (emit_only _ _).sub rfl

theorem ctxTaken_frame (s : State) (c op h : Nat) : OnlyParts [.net, .out] s (ctxTaken s c op h) :=
  ((netOnly s _).sub rfl).trans ((emit_only _ _).sub rfl)

section Answers

variable {s : State} {c h : Nat} {q : Qp} {r : HostResp} {b : List Byte} (hr : qpReady s c)
include hr

theorem qpDestroy_refused (hq : findQp s c h = none) : qpRefused (.qpDestroy c h) s c 0x0431 :=
  go_refused (exec_qpDestroy hr.reaches h) hr (fun e => absurd e (by decide)) (qpDestroy_unknown (s := goTaken s c 2 h) hq) (.refl _ _)

theorem qpDestroy_removes (hq : (findQp s c h).isSome = true) : Runs (.qpDestroy c h) s fun t => qpAnswered t c 0 ∧ OnlyParts [.net] s t ∧
    t.net.qps = s.net.qps.filter fun q => !(q.claim == c && q.handle == h) := by
  refine go_runs (exec_qpDestroy hr.reaches h) hr (fun e => absurd e (by decide)) ?_
  rw [qpDestroy_known (s := goTaken s c 2 h) hq]
  exact ⟨(qpResult_answers _ hr.1 0).1, (netOnly s _).trans ((netOnly _ _).trans (netOnly _ _)), rfl⟩

/-- What needs the host waits with done 0 while the function may not issue requests (R288). -/
theorem qpCommands_wait (hn : canIssue s (fnOf c) = false) (h : Nat) (r : HostResp) :
    ∀ i ∈ [Instr.qpCreate c r, .qpModify c h r, .qpQuery c h], Runs i s fun t =>
      (tget t.net.claims c).done = false ∧ t.net.qps = s.net.qps ∧ OnlyParts [.net] s t := by
  simp only [List.forall_mem_cons, List.not_mem_nil, false_imp_iff, implies_true, and_true]
  exact ⟨go_waits (exec_qpCreate hr.reaches r) hr hn, go_waits (exec_qpModify hr.reaches h r) hr hn, go_waits (exec_qpQuery hr.reaches h) hr hn⟩

variable (hi : canIssue s (fnOf c) = true)
include hi

theorem qpQuery_refused_outside (hn : winOk s (fnOf c) (qpCtxAddr s c) 128 = false) : qpRefused (.qpQuery c h) s c 0x0430 :=
  go_refused (exec_qpQuery hr.reaches h) hr (fun _ => hi) (qpQuery_outside ((goTaken_window hr.1 128).trans hn)) (.refl _ _)

section Window

variable (hwin : winOk s (fnOf c) (qpCtxAddr s c) 128 = true)
include hwin

theorem qpQuery_refused_unknown (hq : findQp s c h = none) : qpRefused (.qpQuery c h) s c 0x0431 :=
  go_refused (exec_qpQuery hr.reaches h) hr (fun _ => hi) (qpQuery_unknown (s := goTaken s c 3 h) ((goTaken_window hr.1 128).trans hwin) hq) (.refl _ _)

theorem qpQuery_writes (hq : findQp s c h = some q) : Runs (.qpQuery c h) s fun t => qpAnswered t c 0 ∧ t.net.qps = s.net.qps ∧
    OnlyParts [.net, .out] s t ∧ t.out = s.out ++ [.hostWrite (fnOf c) (qpCtxAddr s c) q.context] := by
  have hq' : findQp (goTaken s c 3 h) c h = some q := hq
  have hok : hostOk (goTaken s c 3 h) (fnOf c) (qpCtxAddr s c) q.context.length = true := by
    rw [context_length]
    exact Bool.and_eq_true_iff.2 ⟨hi, hwin⟩
  refine go_runs (exec_qpQuery hr.reaches h) hr (fun _ => hi) ?_
  rw [qpQuery_known ((goTaken_window hr.1 128).trans hwin) hq', goTaken_qpCtxAddr hr.1, postHost, if_pos hok]
  exact ⟨(qpResult_answers _ hr.1 0).1, rfl, ((netOnly s _).sub rfl).trans (((emit_only _ _).sub rfl).trans ((netOnly _ _).sub rfl)), rfl⟩

end Window

theorem qpCommands_unread (ho : winOk s (fnOf c) (qpCtxAddr s c) 128 = false ∨ r = .err) :
    qpRefused (.qpCreate c r) s c 0x0430 ∧ qpRefused (.qpModify c h r) s c 0x0430 := by
  have hn : ∀ op k, (readCtx (goTaken s c op k) c r).2 = none := fun op k =>
    readCtx_unread (ho.imp_left (goTaken_window hr.1 128).trans)
  exact ⟨go_refused (exec_qpCreate hr.reaches r) hr (fun _ => hi) (qpCreate_unread (hn 0 0)) (readCtx_only _ c r),
    go_refused (exec_qpModify hr.reaches h r) hr (fun _ => hi) (qpModify_unread (hn 1 h)) (readCtx_only _ c r)⟩

variable (hwin : winOk s (fnOf c) (qpCtxAddr s c) 128 = true) (hb : b.length = 128)
include hwin hb

omit hi in
theorem readCtx_taken (op k : Nat) : readCtx (goTaken s c op k) c (.ok b) = (ctxTaken s c op k, some b) := by
  rw [readCtx_read ((goTaken_window hr.1 128).trans hwin) hb, goTaken_qpCtxAddr hr.1]
  rfl

theorem qpCreate_refused_bad (hbad : ctxOk s c b = false) : qpRefused (.qpCreate c (.ok b)) s c 0x0430 :=
  go_refused (exec_qpCreate hr.reaches _) hr (fun _ => hi) (qpCreate_bad (readCtx_taken hr hwin hb 0 0) hbad) (ctxTaken_only s c 0 0)

theorem qpCreate_refused_full (hok : ctxOk s c b = true) (hn : (s.claim c).queuePairs ≤ (qpsOf s c).length) :
    qpRefused (.qpCreate c (.ok b)) s c 0x0121 :=
  go_refused (exec_qpCreate hr.reaches _) hr (fun _ => hi) (qpCreate_full (readCtx_taken hr hwin hb 0 0) hok hn) (ctxTaken_only s c 0 0)

theorem qpCreate_creates (hok : ctxOk s c b = true) (hn : (qpsOf s c).length < (s.claim c).queuePairs) (hh : h < (s.claim c).queuePairs)
    (hfree : findQp s c h = none) (hlow : ∀ j < h, (findQp s c j).isSome = true) :
    Runs (.qpCreate c (.ok b)) s fun t => qpAnswered t c 0 ∧ OnlyParts [.net, .out] s t ∧
      t.out = s.out ++ [.hostRead (fnOf c) (qpCtxAddr s c) 128] ∧ (tget t.net.claims c).resHandle = h ∧
      ∃ dev, (tget t.net.claims c).qpn = 0x1000 + dev ∧ (s.net.qps.length < 2048 → dev < 2048 ∧ ∀ q ∈ s.net.qps, q.dev ≠ dev) ∧
        t.net.qps = s.net.qps ++ [{ claim := c, handle := h, dev := dev, ctx := b, st := ctxState b, sqPsn := field b 8 3, rqPsn := field b 0xC 3 }] := by
  refine go_runs (exec_qpCreate hr.reaches _) hr (fun _ => hi) ?_
  rw [qpCreate_lowest (readCtx_taken hr hwin hb 0 0) hok hn hh hfree hlow]
  have hclaim := qpCreated_claim (ctxTaken s c 0 0) hr.1 h b
  refine ⟨⟨by rw [hclaim], by rw [hclaim]⟩, ?_, rfl, by rw [hclaim], freeDev (ctxTaken s c 0 0), by rw [hclaim, newQp_qpn], freeDev_free, rfl⟩
  exact (ctxTaken_frame s c _ _).trans (((netOnly _ _).sub rfl).trans ((netOnly _ _).sub rfl))

theorem qpModify_refused_outside (hst : field b 0 1 = 0 ∨ 4 < field b 0 1) : qpRefused (.qpModify c h (.ok b)) s c 0x0430 :=
  go_refused (exec_qpModify hr.reaches h _) hr (fun _ => hi) (qpModify_outside (readCtx_taken hr hwin hb 1 h) hst) (ctxTaken_only s c 1 h)

variable (h1 : 1 ≤ field b 0 1) (h4 : field b 0 1 ≤ 4)
include h1 h4

theorem qpModify_refused_unknown (hq : findQp s c h = none) : qpRefused (.qpModify c h (.ok b)) s c 0x0431 :=
  go_refused (exec_qpModify hr.reaches h _) hr (fun _ => hi) (qpModify_unknown (readCtx_taken hr hwin hb 1 h) h1 h4 hq) (ctxTaken_only s c 1 h)

variable (hq : findQp s c h = some q)
include hq

/-- MODIFY to ERR flushes the queue pair's work. -/
theorem qpModify_dead (he : field b 0 1 = 4) : Runs (.qpModify c h (.ok b)) s fun t => qpAnswered t c 0 ∧ qpDead t c h ∧ qpsAlike qpFixed s t := by
  have hq' : findQp (ctxTaken s c 1 h) c h = some q := hq
  refine go_runs (exec_qpModify hr.reaches h _) hr (fun _ => hi) ?_
  rw [qpModify_known (readCtx_taken hr hwin hb 1 h) h1 h4 hq', if_pos he]
  obtain ⟨hans, hqps, -⟩ := qpResult_answers (enterErr (ctxTaken s c 1 h) c h) hr.1 0
  exact ⟨hans, (enterErr_dead hq').keep hqps, (enterErr_alike (ctxTaken s c 1 h) c h).fixed.trans (.of_qps _ hqps)⟩

theorem qpModify_advances (ha : (q.st = .init ∧ field b 0 1 = 2) ∨ (q.st = .rtr ∧ field b 0 1 = 3)) :
    Runs (.qpModify c h (.ok b)) s fun t => qpAnswered t c 0 ∧ findQp t c h = some { q with st := ctxState b } ∧ OnlyParts [.net, .out] s t ∧
      ∀ a k, (a ≠ c ∨ k ≠ h) → findQp t a k = findQp s a k := by
  have hq' : findQp (ctxTaken s c 1 h) c h = some q := hq
  refine go_runs (exec_qpModify hr.reaches h _) hr (fun _ => hi) ?_
  rw [qpModify_known (readCtx_taken hr hwin hb 1 h) h1 h4 hq', if_neg (by omega), if_pos ha]
  obtain ⟨hself, hothers⟩ := qpBecomes_modQp (f := fun q => { q with st := ctxState b }) (fun _ => ⟨rfl, rfl⟩) hq'
  exact ⟨(qpResult_answers _ hr.1 0).1, hself,
    (ctxTaken_frame s c _ _).trans (((netOnly _ _).sub rfl).trans ((netOnly _ _).sub rfl)), hothers⟩

theorem qpModify_refused_change (hn : ¬ ((q.st = .init ∧ field b 0 1 = 2) ∨ (q.st = .rtr ∧ field b 0 1 = 3))) (he : field b 0 1 ≠ 4) :
    qpRefused (.qpModify c h (.ok b)) s c 0x0431 := by
  have hq' : findQp (ctxTaken s c 1 h) c h = some q := hq
  refine go_refused (exec_qpModify hr.reaches h _) hr (fun _ => hi) ?_ (ctxTaken_only s c 1 h)
  rw [qpModify_known (readCtx_taken hr hwin hb 1 h) h1 h4 hq', if_neg he, if_neg hn]

end Answers

end Sys2Proof
end

section
/-! SUPPORT. The doorbells of queue pairs: an index that is written, and the one entry that is read for it (R300, R303). -/

namespace Sys2Proof

open Machine

/-! The read of an entry (R285, R289, R300). -/

section Entry

variable {s : State} {c base idx : Nat} {r p : HostResp} {b : List Byte}

/-- An entry whose read is not issued or fails is lost; only a read that fails leaves a trace. -/
theorem readWqe_lost (ho : winOk s (fnOf c) (base + 64 * idx) 64 = false ∨ r = .err) : readWqe s c base idx r p =
    (if winOk s (fnOf c) (base + 64 * idx) 64 then aerLog (s.emit (.hostRead (fnOf c) (base + 64 * idx) 64)) else s,
      { index := idx, bytes := [], lost := true }) := by
  unfold readWqe
  dsimp only
  by_cases hw : winOk s (fnOf c) (base + 64 * idx) 64 = true
  · rw [ho.resolve_left (by rw [hw]; decide), if_pos hw, if_pos hw]
    rfl
  · rw [if_neg hw, if_neg hw]

theorem readWqe_outside (hw : winOk s (fnOf c) (base + 64 * idx) 64 = false) : (readWqe s c base idx r p).1 = s := by
  rw [readWqe_lost (.inl hw), hw]
  rfl

/-- An entry that carries nothing from host memory takes one read. -/
theorem readWqe_whole (hw : winOk s (fnOf c) (base + 64 * idx) 64 = true) (hb : b.length = 64) (ho : 4 < wOp b) :
    readWqe s c base idx (.ok b) p = (s.emit (.hostRead (fnOf c) (base + 64 * idx) 64), { index := idx, bytes := b }) := by
  unfold readWqe
  dsimp only
  rw [if_pos hw, readHost_ok, bytesAt_whole hb]
  refine if_neg fun h => ?_
  simp only [Bool.and_eq_true, Bool.or_eq_true, decide_eq_true_eq] at h
  omega

theorem readWqe_index : (readWqe s c base idx r p).2.index = idx := by
  unfold readWqe
  dsimp only
  split
  · split
    · rfl
    · split
      · split <;> rfl
      · rfl
  · rfl

theorem readHost_out (s : State) (fn a n : Nat) (r : HostResp) : (readHost s fn a n r).1.out = s.out ++ [.hostRead fn a n] := by
  cases r <;> rfl

theorem readWqe_out (hw : winOk s (fnOf c) (base + 64 * idx) 64 = true) :
    ∃ ys, (readWqe s c base idx r p).1.out = s.out ++ [.hostRead (fnOf c) (base + 64 * idx) 64] ++ ys := by
  unfold readWqe
  dsimp only
  rw [if_pos hw]
  have hread := readHost_out s (fnOf c) (base + 64 * idx) 64 r
  generalize readHost s (fnOf c) (base + 64 * idx) 64 r = x at hread ⊢
  obtain ⟨u, _ | b⟩ := x
  · exact ⟨[], by rw [List.append_nil]; exact hread⟩
  · dsimp only at hread ⊢
    split
    · have hpay := readHost_out u (fnOf c) (wLocal b) (wLen b) p
      generalize readHost u (fnOf c) (wLocal b) (wLen b) p = y at hpay ⊢
      obtain ⟨v, _ | d⟩ := y
      · exact ⟨_, hpay.trans (by rw [hread])⟩
      · exact ⟨_, hpay.trans (by rw [hread])⟩
    · exact ⟨[], by rw [List.append_nil]; exact hread⟩

end Entry

/-! One entry of an idle send queue (R300, R303). -/

section Send

variable {s : State} {c h : Nat} {q : Qp} {w : Wqe} {f : HostResp × HostResp}

theorem mayStart_of_idle (hi : qpIdle s c q) (hc : q.claim = c) : mayStart s q = true := by
  obtain ⟨hst, -, hrec, hfull, hrnr, hheld, hissue⟩ := hi
  simp [mayStart, Qp.cqHold, hst, hrec, hfull, hrnr, hheld, hc, hissue]

theorem qpIdle.records (hi : qpIdle s c q) : q.records = [] := hi.2.2.1

theorem qpIdle.waiting (hi : qpIdle s c q) : q.waiting = [] := hi.2.1

theorem drainRecords_empty (hq : findQp s c h = some q) (hrec : q.records = []) :
    drainRecords c h (((findQp s c h).map fun q => q.records.length).getD 0) s = s := by
  rw [hq, Option.map_some, Option.getD_some, hrec]
  rfl

theorem runSq_empty (hq : findQp s c h = some q) (hrec : q.records = []) : runSq c h [] s = startWaiting c h q.waiting.length s := by
  unfold runSq
  rw [drainRecords_empty hq hrec]
  dsimp only
  rw [hq]
  rfl

/-- The state in which an idle queue pair has read the entry at its index. -/
def sendTaken (s : State) (c h : Nat) (q : Qp) (f : HostResp × HostResp) : State :=
  (readWqe s c (field q.ctx 0x28 8) q.sqRead f.1 f.2).1.modQp c h fun p =>
    { p with sqRead := (p.sqRead + 1) % 2 ^ p.sqLog, waiting := [(readWqe s c (field q.ctx 0x28 8) q.sqRead f.1 f.2).2] }

theorem sendTaken_out : (sendTaken s c h q f).out = (readWqe s c (field q.ctx 0x28 8) q.sqRead f.1 f.2).1.out := by
  rw [sendTaken, State.modQp_out]

/-- With an answer at hand, an idle queue pair reads one entry unless it has read them all. -/
theorem runSq_idle_cons (hq : findQp s c h = some q) (hi : qpIdle s c q) (fs : List (HostResp × HostResp)) : runSq c h (f :: fs) s =
    if q.sqRead = q.sqProduce then s
    else runSq c h fs (sendTaken s c h q f) := by
  obtain ⟨hst, hwait, hrec, hfull, hrnr, hheld, hissue⟩ := hi
  have hstart : startWaiting c h (((findQp s c h).map fun q => q.waiting.length).getD 0) s = s := by
    rw [hq, Option.map_some, Option.getD_some, hwait]
    rfl
  rw [runSq, drainRecords_empty hq hrec]
  dsimp only
  rw [hstart, hq]
  simp [sendTaken, Qp.cqHold, hst, hwait, hrec, hfull, hrnr, hheld, hissue]

theorem entryFault_lost (s : State) (c : Nat) (hl : w.lost = true) : entryFault s c w = some 0x0424 := if_pos hl

/-- The bytes of a lost entry ask for no fence and no READ. -/
theorem headReady_unread (q : Qp) (i : Nat) : headReady q { index := i, bytes := [], lost := true } = true := by
  have hfence : wFence [] = false := by decide
  have hop : wOp [] = 0 := by decide
  simp [headReady, hfence, hop]

/-- A lost entry fails as it starts, and its queue pair is in ERR without work. -/
theorem startWaiting_lost (hq : findQp s c h = some q) (hw : q.waiting = [w]) (hm : mayStart s q = true) (hh : headReady q w = true) (hl : w.lost = true) :
    qpDead (startWaiting c h 1 s) c h := by
  have hput : findQp (s.modQp c h fun q => { q with waiting := [] }) c h = some { q with waiting := [] } :=
    findQp_modQp_same (f := fun q => { q with waiting := [] }) (fun _ => ⟨rfl, rfl⟩) hq
  rw [startWaiting, hq]
  dsimp only
  rw [hw]
  dsimp only
  rw [if_pos (by rw [hm, hh]; rfl), startWaiting, startEntry, hput, entryFault_lost _ c hl]
  exact failEntry_dead hput false 0x0424 w

theorem sendTaken_findQp (hq : findQp s c h = some q) : findQp (sendTaken s c h q f) c h =
    some { q with sqRead := (q.sqRead + 1) % 2 ^ q.sqLog, waiting := [(readWqe s c (field q.ctx 0x28 8) q.sqRead f.1 f.2).2] } :=
  findQp_modQp_same (f := fun p => { p with sqRead := (p.sqRead + 1) % 2 ^ p.sqLog, waiting := [(readWqe s c (field q.ctx 0x28 8) q.sqRead f.1 f.2).2] })
    (fun _ => ⟨rfl, rfl⟩) ((findQp_of_qps (congrArg Net.qps (readWqe_net ..)) c h).trans hq)

theorem runSq_idle_one (hq : findQp s c h = some q) (hi : qpIdle s c q) (hv : q.sqRead ≠ q.sqProduce) :
    runSq c h [f] s = startWaiting c h 1 (sendTaken s c h q f) := by
  rw [runSq_idle_cons hq hi, if_neg hv]
  exact runSq_empty (sendTaken_findQp hq) hi.records

theorem runSq_idle_done (hq : findQp s c h = some q) (hi : qpIdle s c q) (hv : q.sqRead = q.sqProduce) (feeds : List (HostResp × HostResp)) :
    runSq c h feeds s = s := by
  cases feeds with
  | nil => exact runSq_idle hq hi.records hi.waiting
  | cons f fs => rw [runSq_idle_cons hq hi, if_pos hv]

theorem startWaiting_sqRead (hq : findQp s c h = some q) (n : Nat) : ∃ q', findQp (startWaiting c h n s) c h = some q' ∧ q'.sqRead = q.sqRead := by
  have hcore := findQp_core (startWaiting_alike c h n s) c h
  rw [hq] at hcore
  obtain ⟨q', hq', he⟩ := Option.map_eq_some_iff.1 hcore
  exact ⟨q', hq', (congrArg Qp.sqRead he :)⟩

theorem startWaiting_out (c h n : Nat) (s : State) : ∃ ys, (startWaiting c h n s).out = s.out ++ ys :=
  (startWaiting_moves c h n s (Moves.refl 1370056 s) rfl).sent

/-- An entry of an idle queue pair that is lost leaves it in ERR without work. -/
theorem runSq_idle_lost (hq : findQp s c h = some q) (hi : qpIdle s c q) (hv : q.sqRead ≠ q.sqProduce)
    (ho : winOk s (fnOf c) (field q.ctx 0x28 8 + 64 * q.sqRead) 64 = false ∨ f.1 = .err) : qpDead (runSq c h [f] s) c h := by
  have hread := readWqe_lost (p := f.2) ho
  have hput := sendTaken_findQp (f := f) hq
  rw [hread] at hput
  have hmay : mayStart s q = true := mayStart_of_idle hi (findQp_key hq).1
  rw [runSq_idle_one hq hi hv]
  refine startWaiting_lost hput rfl ?_ ?_ rfl
  · rw [sendTaken, hread]
    dsimp only
    split <;> exact hmay
  · exact headReady_unread _ _

end Send

/-! One entry of a receive queue (R300). -/

section Receive

variable {s : State} {c h : Nat} {q : Qp} {r : HostResp}

theorem readRq_stops (hq : findQp s c h = some q) (ho : q.rqRead = q.rqProduce ∨ canIssue s (fnOf c) = false) (feeds : List HostResp) :
    readRq c h feeds s = s := by
  cases feeds with
  | nil => rfl
  | cons f fs =>
    rw [readRq, hq]
    exact if_pos (ho.imp_right fun e => by rw [e]; rfl)

/-- The state in which a queue pair has read the receive entry at its index. -/
def recvEntryTaken (s : State) (c h : Nat) (q : Qp) (r : HostResp) : State :=
  ((readWqe s c (field q.ctx 0x30 8) q.rqRead r .err).1.modQp c h fun p => { p with rqRead := (p.rqRead + 1) % 2 ^ p.rqLog }).modQp c h fun p =>
    { p with recvs := p.recvs ++ [(readWqe s c (field q.ctx 0x30 8) q.rqRead r .err).2] }

theorem readRq_one (hq : findQp s c h = some q) (hv : q.rqRead ≠ q.rqProduce) (hi : canIssue s (fnOf c) = true) (hst : q.st ≠ .err) :
    readRq c h [r] s = recvEntryTaken s c h q r := by
  rw [readRq, hq]
  dsimp only
  rw [if_neg (not_or.2 ⟨hv, by rw [hi]; decide⟩), if_neg hst]
  rfl

theorem recvEntryTaken_out : (recvEntryTaken s c h q r).out = (readWqe s c (field q.ctx 0x30 8) q.rqRead r .err).1.out := by
  rw [recvEntryTaken, State.modQp_out, State.modQp_out]

theorem recvEntryTaken_findQp (hq : findQp s c h = some q) : findQp (recvEntryTaken s c h q r) c h =
    some { q with rqRead := (q.rqRead + 1) % 2 ^ q.rqLog, recvs := q.recvs ++ [(readWqe s c (field q.ctx 0x30 8) q.rqRead r .err).2] } :=
  findQp_modQp_same (f := fun p => { p with recvs := p.recvs ++ [(readWqe s c (field q.ctx 0x30 8) q.rqRead r .err).2] }) (fun _ => ⟨rfl, rfl⟩)
    (findQp_modQp_same (f := fun p => { p with rqRead := (p.rqRead + 1) % 2 ^ p.rqLog }) (fun _ => ⟨rfl, rfl⟩)
      ((findQp_of_qps (congrArg Net.qps (readWqe_net ..)) c h).trans hq))

end Receive

/-! The doorbells as commands (R300, R303). -/

section Doors

variable {s : State} {c h v : Nat} {q : Qp}

theorem exec_sqDoorbell (hd : qpDoor s c h 0 q) (feeds : List (HostResp × HostResp)) : exec (.sqDoorbell c h v feeds) s =
    .next (if v < 2 ^ q.sqLog then runSq c h feeds (s.modQp c h fun q => { q with sqProduce := v }) else s) := by
  obtain ⟨hc, hreg, hw, hq⟩ := hd
  rw [sqDoorbell_runs c h v feeds s hw, viaClaim_pos hc hreg, sqDoorbell, hq]

theorem exec_rqDoorbell (hd : qpDoor s c h 4 q) (feeds : List HostResp) : exec (.rqDoorbell c h v feeds) s =
    .next (if v < 2 ^ q.rqLog then readRq c h feeds (s.modQp c h fun q => { q with rqProduce := v }) else s) := by
  obtain ⟨hc, hreg, hw, hq⟩ := hd
  rw [rqDoorbell_runs c h v feeds s hw, viaClaim_pos hc hreg, rqDoorbell, hq]

theorem exec_cqConsumedWrite (hd : qpDoor s c h 8 q) (feeds : List (HostResp × HostResp)) : exec (.cqConsumedWrite c h v feeds) s =
    .next (if v < 2 ^ q.cqLog then runSq c h feeds (s.modQp c h fun q => { q with cqConsumed := v }) else s) := by
  obtain ⟨hc, hreg, hw, hq⟩ := hd
  rw [cqConsumedWrite_runs c h v feeds s hw, viaClaim_pos hc hreg, cqConsumed, hq]

theorem sqDoorbell_rings (hd : qpDoor s c h 0 q) (hv : v < 2 ^ q.sqLog) (feeds : List (HostResp × HostResp)) :
    exec (.sqDoorbell c h v feeds) s = .next (runSq c h feeds (s.modQp c h fun q => { q with sqProduce := v })) := by
  rw [exec_sqDoorbell hd, if_pos hv]

theorem rqDoorbell_rings (hd : qpDoor s c h 4 q) (hv : v < 2 ^ q.rqLog) (feeds : List HostResp) :
    exec (.rqDoorbell c h v feeds) s = .next (readRq c h feeds (s.modQp c h fun q => { q with rqProduce := v })) := by
  rw [exec_rqDoorbell hd, if_pos hv]

theorem cqConsumedWrite_rings (hd : qpDoor s c h 8 q) (hv : v < 2 ^ q.cqLog) (feeds : List (HostResp × HostResp)) :
    exec (.cqConsumedWrite c h v feeds) s = .next (runSq c h feeds (s.modQp c h fun q => { q with cqConsumed := v })) := by
  rw [exec_cqConsumedWrite hd, if_pos hv]

theorem findQp_sqProduce (hd : qpDoor s c h 0 q) : findQp (s.modQp c h fun q => { q with sqProduce := v }) c h = some { q with sqProduce := v } :=
  findQp_modQp_same (f := fun q => { q with sqProduce := v }) (fun _ => ⟨rfl, rfl⟩) hd.2.2.2

theorem findQp_rqProduce (hd : qpDoor s c h 4 q) : findQp (s.modQp c h fun q => { q with rqProduce := v }) c h = some { q with rqProduce := v } :=
  findQp_modQp_same (f := fun q => { q with rqProduce := v }) (fun _ => ⟨rfl, rfl⟩) hd.2.2.2

theorem sqDoorbell_reads (hd : qpDoor s c h 0 q) (hv : v < 2 ^ q.sqLog) (hi : qpIdle s c q) (hne : v ≠ q.sqRead) (r p : HostResp) :
    let a := field q.ctx 0x28 8 + 64 * q.sqRead
    Runs (.sqDoorbell c h v [(r, p)]) s fun t => (∃ q', findQp t c h = some q' ∧ q'.sqRead = (q.sqRead + 1) % 2 ^ q.sqLog) ∧
      (winOk s (fnOf c) a 64 = true → ∃ ys, t.out = s.out ++ [.hostRead (fnOf c) a 64] ++ ys) ∧
      (winOk s (fnOf c) a 64 = false ∨ r = .err → qpDead t c h) := by
  intro a
  have hu := findQp_sqProduce (v := v) hd
  have hone := runSq_idle_one (f := (r, p)) hu hi hne.symm
  refine ⟨_, sqDoorbell_rings hd hv _, ?_, fun hw => ?_, fun ho => runSq_idle_lost hu hi hne.symm ho⟩
  · rw [hone]
    exact startWaiting_sqRead (sendTaken_findQp hu) 1
  · rw [hone]
    obtain ⟨ys, hys⟩ := readWqe_out (s := s.modQp c h fun q => { q with sqProduce := v }) (r := r) (p := p) hw
    obtain ⟨zs, hzs⟩ := startWaiting_out c h 1 (sendTaken (s.modQp c h fun q => { q with sqProduce := v }) c h { q with sqProduce := v } (r, p))
    refine ⟨ys ++ zs, ?_⟩
    rw [hzs, sendTaken_out, hys, List.append_assoc]
    rfl

theorem rqDoorbell_reads (hd : qpDoor s c h 4 q) (hv : v < 2 ^ q.rqLog) (hne : v ≠ q.rqRead) (hi : canIssue s (fnOf c) = true) (hst : q.st ≠ .err)
    (r : HostResp) : let a := field q.ctx 0x30 8 + 64 * q.rqRead
    Runs (.rqDoorbell c h v [r]) s fun t =>
      (∃ w, findQp t c h = some { q with rqProduce := v, rqRead := (q.rqRead + 1) % 2 ^ q.rqLog, recvs := q.recvs ++ [w] } ∧ w.index = q.rqRead ∧
        (winOk s (fnOf c) a 64 = false ∨ r = .err → w.lost = true) ∧
        ∀ b, winOk s (fnOf c) a 64 = true → r = .ok b → b.length = 64 → field b 0 1 = 0x10 → w.lost = false ∧ w.bytes = b) ∧
      (winOk s (fnOf c) a 64 = true → ∃ ys, t.out = s.out ++ [.hostRead (fnOf c) a 64] ++ ys) ∧ (winOk s (fnOf c) a 64 = false → t.out = s.out) := by
  intro a
  have hu := findQp_rqProduce (v := v) hd
  refine ⟨_, (rqDoorbell_rings hd hv [r]).trans (congrArg _ (readRq_one hu hne.symm hi hst)),
    ⟨_, recvEntryTaken_findQp hu, readWqe_index, fun ho => ?_, fun b hw hok hb hop => ?_⟩, fun hw => ?_, fun hw => ?_⟩
  · exact congrArg (fun x : State × Wqe => x.2.lost) (readWqe_lost (s := s.modQp c h fun q => { q with rqProduce := v }) ho)
  · subst hok
    have hread := readWqe_whole (s := s.modQp c h fun q => { q with rqProduce := v }) (p := .err) hw hb (by rw [wOp, hop]; decide)
    exact ⟨congrArg (fun x : State × Wqe => x.2.lost) hread, congrArg (fun x : State × Wqe => x.2.bytes) hread⟩
  · rw [recvEntryTaken_out]
    exact readWqe_out hw
  · rw [recvEntryTaken_out, readWqe_outside (s := s.modQp c h fun q => { q with rqProduce := v }) hw]
    rfl

end Doors

/-- Settles O50: a queue-pair command is a go of ENT_QP_CMD, which is ignored, waits or runs (R288, R298), and each run ends in the one case of
R299 that its context and its handle name; a doorbell writes its index and reads the entries whose answers are at hand (R300, R303). -/
theorem queuePairs : Obligations.QueuePairs := by
  unfold Obligations.QueuePairs
  refine ⟨fun s c hc hreg hw hd h r => qpCommands_busy ⟨hc, hreg, hw⟩ hd h r, fun s c h hr => ?_, fun s c h v q => ⟨fun hd feeds => ?_, fun hd => ?_, fun hd feeds => ?_⟩⟩
  · refine ⟨fun r hn => qpCommands_wait hr hn h r, qpDestroy_refused hr, qpDestroy_removes hr, fun hi => ⟨qpQuery_refused_outside hr hi,
      qpQuery_refused_unknown hr hi, fun q hq hwin => qpQuery_writes hr hi hwin hq, fun r => qpCommands_unread hr hi, fun b hwin hb => ?_⟩⟩
    exact ⟨qpCreate_refused_bad hr hi hwin hb, qpCreate_refused_full hr hi hwin hb, qpCreate_creates hr hi hwin hb, qpModify_refused_outside hr hi hwin hb,
      fun h1 h4 => ⟨qpModify_refused_unknown hr hi hwin hb h1 h4, fun q hq => ⟨qpModify_dead hr hi hwin hb h1 h4 hq,
        qpModify_advances hr hi hwin hb h1 h4 hq, qpModify_refused_change hr hi hwin hb h1 h4 hq⟩⟩⟩
  · refine ⟨fun hv => ?_, fun hv => ⟨⟨_, sqDoorbell_rings hd hv feeds, runSq_alike c h feeds _⟩, fun hi => ⟨?_, fun he => ?_, sqDoorbell_reads hd hv hi⟩⟩⟩
    · rw [exec_sqDoorbell hd, if_neg (by omega)]
    · rw [sqDoorbell_rings hd hv, runSq_idle (findQp_sqProduce (v := v) hd) hi.records hi.waiting]
    · rw [sqDoorbell_rings hd hv, runSq_idle_done (findQp_sqProduce (v := v) hd) hi he.symm]
  · refine ⟨fun hv feeds => ?_, fun hv => ⟨fun feeds => ⟨_, rqDoorbell_rings hd hv feeds, readRq_alike c h feeds _⟩, fun ho feeds => ?_, rqDoorbell_reads hd hv⟩⟩
    · rw [exec_rqDoorbell hd, if_neg (by omega)]
    · rw [rqDoorbell_rings hd hv, readRq_stops (findQp_rqProduce (v := v) hd) (ho.imp_left Eq.symm)]
  · refine ⟨fun hv => ?_, fun hv => ⟨⟨_, cqConsumedWrite_rings hd hv feeds, runSq_alike c h feeds _⟩, fun hrec hwait => ?_⟩⟩
    · rw [exec_cqConsumedWrite hd, if_neg (by omega)]
    · rw [cqConsumedWrite_rings hd hv, runSq_idle (findQp_modQp_same (f := fun q => { q with cqConsumed := v }) (fun _ => ⟨rfl, rfl⟩) hd.2.2.2) hrec hwait]

end Sys2Proof
end

section
/-! SUPPORT. One index at a time: what a change of one index leaves, what passing retired records may move, and an index's turn in a pass over
all of them (R310, R322). -/

namespace Sys2Proof

open Machine

theorem indexesOnly.asy {s t : State} (h : indexesOnly s t) : t.asy = { s.asy with indexes := t.asy.indexes } := by rw [← h]

theorem indexBecomes.trans {s t u : State} {i : Nat} {x y : Index} (h : indexBecomes s t i x) (k : indexBecomes t u i y) : indexBecomes s u i y := by
  obtain ⟨-, hother, hasy⟩ := h
  obtain ⟨hi, kother, kasy⟩ := k
  exact ⟨hi, fun j hj => (kother j hj).trans (hother j hj), kasy.trans (congrArg (fun a : Assay => { a with indexes := u.asy.indexes }) hasy)⟩

theorem indexBecomes.of_asy {s t : State} (h : t.asy = s.asy) (i : Nat) : indexBecomes s t i (s.index i) :=
  ⟨index_of_asy h i, fun k _ => index_of_asy h k, (indexesOnly.of_asy h).asy⟩

theorem modIndex_becomes {s t : State} (h : t.asy = s.asy) {i : Nat} (hi : i < 64) (f : Index → Index) :
    indexBecomes s (t.modIndex i f) i (f (s.index i)) := by
  rw [← index_of_asy h i]
  exact (indexBecomes.of_asy h i).trans ⟨tget_tmod_same _ f hi, fun k hk => tget_tmod_ne _ f hk.symm, rfl⟩

theorem indexBecomes.asy_after {s t u : State} {i : Nat} {x : Index} (h : indexBecomes s t i x) (hu : u.asy = t.asy) : indexBecomes s u i x := by
  have h' := h.trans (.of_asy hu i)
  rwa [h.1] at h'

/-- From s to t only the head of index i's heap and its blocked mark may move. -/
def headMoves (s t : State) (i : Nat) : Prop :=
  ∃ head blocked, indexBecomes s t i { s.index i with heapHead := head, heapBlocked := blocked }

theorem headMoves.of_asy {s t : State} (h : t.asy = s.asy) (i : Nat) : headMoves s t i :=
  ⟨(s.index i).heapHead, (s.index i).heapBlocked, .of_asy h i⟩

theorem headMoves.trans {s t u : State} {i : Nat} (h : headMoves s t i) (k : headMoves t u i) : headMoves s u i := by
  obtain ⟨_, _, h⟩ := h
  obtain ⟨head, blocked, k⟩ := k
  rw [h.1] at k
  exact ⟨head, blocked, h.trans k⟩

/-- What an index became stands but for what passing retired records moves. -/
theorem headMoves.after {s t u : State} {i : Nat} {x : Index} (h : indexBecomes s t i x) (k : headMoves t u i) :
    ∃ head blocked, indexBecomes s u i { x with heapHead := head, heapBlocked := blocked } := by
  obtain ⟨head, blocked, k⟩ := k
  rw [h.1] at k
  exact ⟨head, blocked, h.trans k⟩

/-- The heap's head passes retired records and nothing else of the engine moves (R322, R323). -/
theorem passRetired_head {i : Nat} (hi : i < 64) (fuel : Nat) (s : State) : headMoves s (passRetired fuel i s) i := by
  induction fuel generalizing s with
  | zero => exact .of_asy rfl i
  | succ fuel ih =>
    unfold passRetired
    dsimp only
    split
    · exact ⟨_, _, modIndex_becomes rfl hi _⟩
    · have hasy := readClaim_asy s (s.index i).claim (heapAddr (s.index i).header (s.index i).heapHead) 32
      split
      · rename_i u _ hr
        rw [hr] at hasy
        exact .of_asy hasy i
      · rename_i u _ hr
        rw [hr] at hasy
        split
        · exact headMoves.trans ⟨_, _, modIndex_becomes hasy hi _⟩ (ih _)
        · exact ⟨_, _, modIndex_becomes hasy hi _⟩

/-- The granule is stored once the retired records are passed (R310). -/
theorem granuleStored_head {i : Nat} (hi : i < 64) (fuel : Nat) (s : State) : headMoves s (storeGranule (passRetired fuel i s) i) i :=
  (passRetired_head hi fuel s).trans (.of_asy (storeGranule_asy _ i) i)

theorem settlePages_asy (s : State) : (settlePages s).asy = s.asy := (settlePages_moves s (Moves.refl 1480 s) rfl).rest .asy rfl

/-! An index's turn in a pass over indexes. -/

section Pass

variable {f : State → Nat → State} {l : List Nat} {i : Nat}

theorem foldl_stays {s : State} (h : ∀ k ∈ l, f s k = s) : l.foldl f s = s := by
  refine List.foldlRecOn (motive := fun t => t = s) _ _ rfl fun t ht k hk => ?_
  rw [ht, h k hk]

/-- The turns of other indexes leave an index as it was. -/
theorem foldl_index_other (hother : ∀ k ∈ l, ∀ u, (f u k).index i = u.index i) (s : State) : (l.foldl f s).index i = s.index i := by
  refine List.foldlRecOn (motive := fun t : State => t.index i = s.index i) _ _ rfl fun t ht k hk => ?_
  rw [hother k hk, ht]

/-- An index of a pass has one turn, from a state in which it is as it was before the pass. -/
theorem foldl_index_turn (hd : l.Nodup) (hi : i ∈ l) (hother : ∀ k ∈ l, k ≠ i → ∀ u, (f u k).index i = u.index i) (s : State) :
    ∃ u, u.index i = s.index i ∧ (l.foldl f s).index i = (f u i).index i := by
  obtain ⟨before, after, rfl⟩ := List.append_of_mem hi
  obtain ⟨-, hafter, hdisj⟩ := List.nodup_append.1 hd
  have hne : ∀ k ∈ before, k ≠ i := fun k hk => hdisj k hk i List.mem_cons_self
  refine ⟨before.foldl f s, foldl_index_other (fun k hk => hother k (List.mem_append_left _ hk) (hne k hk)) s, ?_⟩
  rw [List.foldl_append, List.foldl_cons]
  exact foldl_index_other (fun k hk => hother k (List.mem_append_right _ (List.mem_cons_of_mem _ hk)) fun e =>
    (List.nodup_cons.1 hafter).1 (e ▸ hk)) _

/-- A pass in which one index alone has something to do is that index's turn. -/
theorem foldl_one_turn (hd : l.Nodup) (hi : i ∈ l) {s : State} (hidle : ∀ k ∈ l, k ≠ i → ∀ u, u.index k = s.index k → f u k = u)
    (hother : ∀ k ∈ l, k ≠ i → (f s i).index k = s.index k) : l.foldl f s = f s i := by
  obtain ⟨before, after, rfl⟩ := List.append_of_mem hi
  obtain ⟨-, hafter, hdisj⟩ := List.nodup_append.1 hd
  have hmem : ∀ k ∈ after, k ∈ before ++ i :: after := fun k hk => List.mem_append_right _ (List.mem_cons_of_mem _ hk)
  have hne : ∀ k ∈ after, k ≠ i := fun k hk e => (List.nodup_cons.1 hafter).1 (e ▸ hk)
  rw [List.foldl_append, List.foldl_cons,
    foldl_stays fun k hk => hidle k (List.mem_append_left _ hk) (hdisj k hk i List.mem_cons_self) s rfl]
  exact foldl_stays fun k hk => hidle k (hmem k hk) (hne k hk) _ (hother k (hmem k hk) (hne k hk))

end Pass

end Sys2Proof
end

section
/-! SUPPORT. Binding an index and unbinding it (R310 to R312; log entries 79, 114 and 136). -/

namespace Sys2Proof

open Machine

/-! Binding (R311). -/

theorem asyIndexBind_lands {s : State} {i va n : Nat} (h : indexReg s i) (hva : va < 2 ^ 40) (hn : n < 8) :
    exec (.asyIndexBind i va n) s = .next (bindIndex (dropHold s 0 (asyOff (0x1000 + 16 * i))) i va n) := by
  obtain ⟨-, hreg, hw⟩ := h
  have hbind : bit (va + 2 ^ 40 * n + 2 ^ 63) 63 = true := bit_top (by omega)
  have hva' : bits (va + 2 ^ 40 * n + 2 ^ 63) 0 40 = va := by rw [bits_low (by decide)]; omega
  have hn' : bits (va + 2 ^ 40 * n + 2 ^ 63) 40 3 = n := by rw [bits]; omega
  rw [asyIndexBind_runs i va n s hw, viaWide_pos hreg, Nat.mod_eq_of_lt hva, Nat.mod_eq_of_lt hn, indexWrite, hbind, if_pos rfl, hva', hn']

/-- The failure of a binding: the index keeps the cause, and its register what was written (R311). -/
def bindFailed (u : State) (i va n cause : Nat) : State :=
  u.modIndex i fun x => { x with headerVa := va, claim := n, valid := true, cause := cause }

section Bind

variable {s u : State} {i va n : Nat}

theorem bindIndex_bound (h : (s.index i).st ≠ .unbound) : bindIndex s i va n = s := if_pos h

theorem bindIndex_reads (h : (s.index i).st = .unbound) {r : ReadEnd (List Byte)} (hr : readClaim s n va 256 = (u, r)) :
    (∀ e, r = .error e → bindIndex s i va n = bindFailed u i va n 0x0610) ∧
      ∀ b, r = .ok b → headerOk va b = false → bindIndex s i va n = bindFailed u i va n 0x0610 := by
  refine ⟨?_, ?_⟩
  · rintro e rfl
    simp only [bindIndex, h, ne_eq, not_true_eq_false, if_false, hr, bindFailed]
  · rintro b rfl hb
    simp only [bindIndex, h, ne_eq, not_true_eq_false, if_false, hr, hb, Bool.not_false, if_true, bindFailed]

theorem bindIndex_pins (h : (s.index i).st = .unbound) {b : List Byte} (hr : readClaim s n va 256 = (u, .ok b)) (hb : headerOk va b = true)
    {v : State} {p : ReadEnd (List Unit)} (hp : runEach (slotPage n) (headPages b) u = (v, p)) :
    (∀ e, p = .error e → bindIndex s i va n = bindFailed v i va n (if e.1 = 0x0401 ∨ e.1 = 0x0402 then e.1 else 0x0403)) ∧
      ∀ x, p = .ok x → ∀ w q, readHeads n b v = (w, q) →
        (∀ e, q = .error e → bindIndex s i va n = bindFailed w i va n 0x0611) ∧
        ∀ heads, q = .ok heads → bindIndex s i va n =
          if veinsOk b heads then (pinPages w n (headPages b)).modIndex i fun _ => indexBound va n b else bindFailed w i va n 0x0611 := by
  refine ⟨?_, ?_⟩
  · rintro e rfl
    simp only [bindIndex, h, ne_eq, not_true_eq_false, if_false, hr, hb, Bool.not_true, Bool.false_eq_true, hp, bindFailed]
  · rintro x rfl w q hq
    refine ⟨?_, ?_⟩
    · rintro e rfl
      simp only [bindIndex, h, ne_eq, not_true_eq_false, if_false, hr, hb, Bool.not_true, Bool.false_eq_true, hp, hq, bindFailed]
    · rintro heads rfl
      simp only [bindIndex, h, ne_eq, not_true_eq_false, if_false, hr, hb, Bool.not_true, Bool.false_eq_true, hp, hq, bindFailed]
      cases veinsOk b heads <;> rfl

theorem bindFailed_fails (hi : i < 64) (hu : u.asy = s.asy) (va n cause : Nat) : bindFails s (bindFailed u i va n cause) i va n cause :=
  modIndex_becomes hu hi fun x => { x with headerVa := va, claim := n, valid := true, cause := cause }

theorem pinPages_asy (s : State) (n : Nat) (pages : List Nat) : (pinPages s n pages).asy = s.asy :=
  (pinPages_moves s n pages (Moves.refl 256 s) rfl).rest .asy rfl

theorem slotPages_asy (s : State) (n : Nat) (pages : List Nat) : (runEach (slotPage n) pages s).1.asy = s.asy :=
  (runEach_moves (slotPage n) pages s (Moves.refl 271688 s) fun p t ht => slotPage_moves n p t ht rfl).rest .asy rfl

theorem readHeads_asy (s : State) (n : Nat) (b : List Byte) : (readHeads n b s).1.asy = s.asy :=
  (readHeads_moves n b s (Moves.refl 271688 s) rfl).rest .asy rfl

/-- A binding fails at the first check that does not hold, and binds where all do (R311). -/
theorem asyIndexBind_spec (hreg : indexReg s i) (hva : va < 2 ^ 40) (hn : n < 8) (hst : (s.index i).st = .unbound) :
    let fails (cause : Nat) := Runs (.asyIndexBind i va n) s fun t => bindFails s t i va n cause
    let r := readClaim (dropHold s 0 (asyOff (0x1000 + 16 * i))) n va 256
    (∀ e, r.2 = .error e → fails 0x0610) ∧
      ∀ h, r.2 = .ok h →
        (headerOk va h = false → fails 0x0610) ∧
        (headerOk va h = true → let p := runEach (slotPage n) (headPages h) r.1
          (∀ e, p.2 = .error e → (e.1 = 0x0401 ∨ e.1 = 0x0402 → fails e.1) ∧ (e.1 ≠ 0x0401 → e.1 ≠ 0x0402 → fails 0x0403)) ∧
          (∀ u, p.2 = .ok u → let q := readHeads n h p.1
            (∀ e, q.2 = .error e → fails 0x0611) ∧
            ∀ heads, q.2 = .ok heads → (veinsOk h heads = false → fails 0x0611) ∧
              (veinsOk h heads = true → Runs (.asyIndexBind i va n) s fun t => indexBecomes s t i (indexBound va n h)))) := by
  have hlands := asyIndexBind_lands hreg hva hn
  have hdrop : (dropHold s 0 (asyOff (0x1000 + 16 * i))).asy = s.asy := dropHold_asy s 0 _
  have hfree : ((dropHold s 0 (asyOff (0x1000 + 16 * i))).index i).st = .unbound := by rw [index_of_asy hdrop, hst]
  generalize dropHold s 0 (asyOff (0x1000 + 16 * i)) = d at hlands hdrop hfree ⊢
  have hfails : ∀ (u : State) (cause : Nat), u.asy = s.asy → bindIndex d i va n = bindFailed u i va n cause →
      Runs (.asyIndexBind i va n) s fun t => bindFails s t i va n cause := fun u cause hu he =>
    ⟨_, hlands, he ▸ bindFailed_fails hreg.1 hu va n cause⟩
  dsimp only
  have uasy := (readClaim_asy d n va 256).trans hdrop
  generalize hr : readClaim d n va 256 = r at uasy ⊢
  obtain ⟨u, r⟩ := r
  obtain ⟨herr, hbad⟩ := bindIndex_reads hfree hr
  refine ⟨fun e he => hfails u _ uasy (herr e he), fun b hb => ⟨fun hok => hfails u _ uasy (hbad b hb hok), fun hok => ?_⟩⟩
  subst hb
  have vasy := (slotPages_asy u n (headPages b)).trans uasy
  generalize hp : runEach (slotPage n) (headPages b) u = p at vasy ⊢
  obtain ⟨v, p⟩ := p
  obtain ⟨perr, pok⟩ := bindIndex_pins hfree hr hok hp
  refine ⟨fun e he => ⟨fun hc => hfails v _ vasy ?_, fun h1 h2 => hfails v _ vasy ?_⟩, fun x hx => ?_⟩
  · rw [perr e he, if_pos hc]
  · rw [perr e he, if_neg (not_or.2 ⟨h1, h2⟩)]
  have wasy := (readHeads_asy v n b).trans vasy
  generalize hq : readHeads n b v = q at wasy ⊢
  obtain ⟨w, q⟩ := q
  obtain ⟨qerr, qok⟩ := pok x hx w q hq
  refine ⟨fun e he => hfails w _ wasy (qerr e he), fun heads hh => ⟨fun hv => hfails w _ wasy ?_, fun hv => ⟨_, hlands, ?_⟩⟩⟩
  · rw [qok heads hh, hv]
    rfl
  · rw [qok heads hh, if_pos hv]
    exact modIndex_becomes ((pinPages_asy w n _).trans wasy) hreg.1 _

end Bind

/-! Unbinding (R312). -/

theorem asyIndexUnbind_lands {s : State} {i : Nat} (h : indexReg s i) (v : Nat) :
    exec (.asyIndexUnbind i v) s = .next (unbindIndex (dropHold s 0 (asyOff (0x1000 + 16 * i))) i (v % 2 ^ 40) (v / 2 ^ 40 % 8)) := by
  obtain ⟨-, hreg, hw⟩ := h
  have hfree : bit (v % 2 ^ 63) 63 = false := bit_low (Nat.mod_lt _ (by decide))
  have hva : bits (v % 2 ^ 63) 0 40 = v % 2 ^ 40 := by rw [bits]; omega
  have hn : bits (v % 2 ^ 63) 40 3 = v / 2 ^ 40 % 8 := by rw [bits]; omega
  rw [asyIndexUnbind_runs i v s hw, viaWide_pos hreg, indexWrite, hfree, if_neg Bool.false_ne_true, hva, hn]

theorem searchLive_congr {s t : State} {q : Search} (h : findItem t q.shoe q.seq = findItem s q.shoe q.seq) : searchLive t q = searchLive s q := by
  unfold searchLive activeCmd
  rw [h]

/-- The search of an item that has failed is no longer live. -/
theorem searchLive_failed {t : State} {q : Search} {cause : Nat} (h : itemFails t q.shoe q.seq cause) : searchLive t q = false := by
  obtain ⟨j, hj, hst, -⟩ := h
  rw [Bool.eq_false_iff]
  intro hlive
  obtain ⟨lv, a, b, ha⟩ := searchLive_active hlive
  obtain ⟨i, hi, hr, -⟩ := activeCmd_some ha
  rw [hj] at hi
  cases hi
  rw [hst] at hr
  cases hr

/-- The searches of a list fail with 0x0601 (R312). -/
def searchesFailed (s : State) (qs : List Search) : State := qs.foldl (fun s q => failAt s q.shoe q.seq q.level q.granule 0x0601) s

section Searches

variable {s : State} {qs : List Search} (hlive : ∀ q ∈ qs, searchLive s q = true)

theorem searchesFailed_asy (s : State) (qs : List Search) : (searchesFailed s qs).asy = s.asy :=
  List.foldlRecOn (motive := fun t : State => t.asy = s.asy) _ _ rfl fun _ ht _ _ => (Sys2Proof.failAt_asy _ _ _ _ _ _ _).trans ht

/-- The searches of a list as what failList fails: item, level and granule. -/
theorem searchesFailed_eq (s : State) (qs : List Search) : searchesFailed s qs =
    (qs.map fun q => (q.shoe, q.seq, q.level, q.granule, false, 0)).foldl (fun s w => failAt s w.1 w.2.1 w.2.2.1 w.2.2.2.1 0x0601 0) s := by
  rw [List.foldl_map]
  rfl

theorem searchesFailed_others {a b : Nat} (h : ∀ q ∈ qs, ¬ (q.shoe = a ∧ q.seq = b)) : findItem (searchesFailed s qs) a b = findItem s a b := by
  rw [searchesFailed_eq]
  exact (failList 0x0601 (fun _ _ => 0) _ s).2 a b (List.forall_mem_map.2 h)

include hlive

theorem searchesFailed_fails {q : Search} (hq : q ∈ qs) : itemFails (searchesFailed s qs) q.shoe q.seq 0x0601 := by
  obtain ⟨lv, a, b, ha⟩ := searchLive_active (hlive q hq)
  obtain ⟨i, hi, hr, -⟩ := activeCmd_some ha
  rw [searchesFailed_eq]
  exact (failList 0x0601 (fun _ _ => 0) _ s).1 _ (List.mem_map_of_mem hq) i hi (running_open hr)

/-- Failing searches makes no other search live. -/
theorem searchesFailed_live {q : Search} (h : searchLive s q = false) : searchLive (searchesFailed s qs) q = false := by
  by_cases hq : ∃ p ∈ qs, p.shoe = q.shoe ∧ p.seq = q.seq
  · obtain ⟨p, hp, hshoe, hseq⟩ := hq
    exact searchLive_failed (hshoe ▸ hseq ▸ searchesFailed_fails hlive hp)
  · rw [searchLive_congr (searchesFailed_others fun p hp he => hq ⟨p, hp, he⟩), h]

end Searches

section Unbind

variable {s : State} {i : Nat}

/-- The live waiting searches of an index. -/
def indexSearches (s : State) (i : Nat) : List Search := (waitingSearches s).filter fun q => q.index == i

theorem mem_indexSearches {q : Search} : q ∈ indexSearches s i ↔ q ∈ s.asy.waiting ∧ searchLive s q = true ∧ q.index = i := by
  simp only [indexSearches, waitingSearches, List.mem_filter, beq_iff_eq, and_assoc]

theorem indexSearches_live : ∀ q ∈ indexSearches s i, searchLive s q = true := fun _ h => (mem_indexSearches.1 h).2.1

/-- The state once the waiting searches of an index are gone (R312, step 1). -/
def searchesGone (s : State) (i : Nat) : State :=
  (searchesFailed s (indexSearches s i)).modAsy fun a => { a with waiting := a.waiting.filter fun q => q.index != i }

theorem searchesGone_asy (s : State) (i : Nat) : (searchesGone s i).asy = { s.asy with waiting := s.asy.waiting.filter fun q => q.index != i } :=
  congrArg (fun a : Assay => { a with waiting := a.waiting.filter fun q => q.index != i }) (searchesFailed_asy s (indexSearches s i))

theorem searchesGone_index (s : State) (i k : Nat) : (searchesGone s i).index k = s.index k := by
  rw [State.index, searchesGone_asy]
  rfl

theorem searchesGone_live (q : Search) : searchLive (searchesGone s i) q = searchLive (searchesFailed s (indexSearches s i)) q := searchLive_congr rfl

theorem unbindIndex_unbound (h : (s.index i).st = .unbound) (va n : Nat) :
    unbindIndex s i va n = s.modIndex i fun x => { x with valid := false, headerVa := va, claim := n } := if_pos h

theorem unbindIndex_bound (h : (s.index i).st ≠ .unbound) (va n : Nat) : unbindIndex s i va n =
    if batchUses (searchesGone s i) i then (searchesGone s i).modIndex i fun x => { x with valid := false, closing := some (va, n) }
    else releaseIndex (searchesGone s i) i va n := if_neg h

theorem batchUses_iff {t : State} : batchUses t i = true ↔ ∃ q ∈ t.asy.batch.getD [], q.index = i ∧ searchLive t q = true := by
  simp [batchUses]

/-- A batch that no live search of the index is in does not use it when the waiting searches are gone. -/
theorem batchUses_idle (h : ∀ q ∈ s.asy.batch.getD [], q.index = i → searchLive s q = false) : batchUses (searchesGone s i) i = false := by
  rw [Bool.eq_false_iff]
  intro huses
  obtain ⟨q, hq, hi, hlive⟩ := batchUses_iff.1 huses
  rw [searchesGone_asy] at hq
  rw [searchesGone_live, searchesFailed_live indexSearches_live (h q hq hi)] at hlive
  cases hlive

/-- A live search of the batch whose item has no waiting search of the index keeps the index in use. -/
theorem batchUses_live {q : Search} (hq : q ∈ s.asy.batch.getD []) (hi : q.index = i) (hlive : searchLive s q = true)
    (hitem : ∀ w ∈ s.asy.waiting, w.index = i → ¬ (w.shoe = q.shoe ∧ w.seq = q.seq)) : batchUses (searchesGone s i) i = true := by
  refine batchUses_iff.2 ⟨q, by rw [searchesGone_asy]; exact hq, hi, ?_⟩
  rw [searchesGone_live, searchLive_congr (searchesFailed_others fun w hw => ?_), hlive]
  obtain ⟨hwait, -, hindex⟩ := mem_indexSearches.1 hw
  exact hitem w hwait hindex

theorem releaseIndex_items (s : State) (i va n : Nat) : (releaseIndex s i va n).dl.items = s.dl.items :=
  congrArg Dealer.items ((releaseIndex_moves s i va n (Moves.refl 2097408 s) rfl).rest .dl rfl)

/-- However a bound index is unbound, its waiting searches are gone and no other index changes (R312). -/
theorem unbindIndex_leaves (hi : i < 64) (h : (s.index i).st ≠ .unbound) (va n : Nat) : let t := unbindIndex s i va n
    indexesOnly (searchesGone s i) t ∧ (∀ k, k ≠ i → t.index k = s.index k) ∧ t.dl.items = (searchesGone s i).dl.items := by
  dsimp only
  rw [unbindIndex_bound h]
  split
  · exact ⟨rfl, fun k hk => (tget_tmod_ne _ _ hk.symm).trans (searchesGone_index s i k), rfl⟩
  · obtain ⟨honly, -, hother⟩ := releaseIndex_spec (searchesGone s i) hi va n
    exact ⟨honly, fun k hk => (hother k hk).trans (searchesGone_index s i k), releaseIndex_items _ i va n⟩

theorem unbindIndex_spec (hi : i < 64) (h : (s.index i).st ≠ .unbound) (va n : Nat) : let t := unbindIndex s i va n
    ((∀ q ∈ s.asy.batch.getD [], q.index = i → searchLive s q = false) → t.index i = { headerVa := va, claim := n, cause := (s.index i).cause }) ∧
    (∀ q ∈ s.asy.batch.getD [], q.index = i → searchLive s q = true → (∀ w ∈ s.asy.waiting, w.index = i → ¬ (w.shoe = q.shoe ∧ w.seq = q.seq)) →
      t.index i = { s.index i with valid := false, closing := some (va, n) }) ∧
    (∀ k, k ≠ i → t.index k = s.index k) ∧ t.asy.batch = s.asy.batch ∧ t.asy.waiting = s.asy.waiting.filter (fun q => q.index != i) ∧
    ∀ q ∈ s.asy.waiting, q.index = i → searchLive s q = true → itemFails t q.shoe q.seq 0x0601 := by
  obtain ⟨honly, hother, hitems⟩ := unbindIndex_leaves hi h va n
  refine ⟨fun hidle => ?_, fun q hq hqi hlive hw => ?_, hother, by rw [honly.batch, searchesGone_asy], ?_, fun q hq hqi hlive => ?_⟩
  · rw [unbindIndex_bound h, batchUses_idle hidle, if_neg Bool.false_ne_true, ← searchesGone_index s i i]
    exact (releaseIndex_spec _ hi va n).2.1
  · rw [unbindIndex_bound h, batchUses_live hq hqi hlive hw, if_pos rfl, ← searchesGone_index s i i]
    exact tget_tmod_same _ _ hi
  · rw [honly.asy, searchesGone_asy]
  · refine itemFails_congr hitems ?_
    exact searchesFailed_fails indexSearches_live (mem_indexSearches.2 ⟨hq, hlive, hqi⟩)

end Unbind

end Sys2Proof
end

section
/-! SUPPORT. Advances, the window's close and backfill (R319, R320, R322, R323). -/

namespace Sys2Proof

open Machine

/-! An advance of one index (R322). -/

section Advance

variable {s : State} {i : Nat}

/-- The records that an index of heap x takes in, of those that are wanted and have room. -/
def recordsTaken (s : State) (i : Nat) (x : Index) (want room : Nat) : Run (List Nat) :=
  runEach (fun p u => takeRecord i p (x.epoch + 1) u) (heapRange x.heapTaken (x.heapTaken + min want room)) s

theorem recordsTaken_asy (s : State) (i : Nat) (x : Index) (want room : Nat) : (recordsTaken s i x want room).1.asy = s.asy :=
  (runEach_moves _ _ s (Moves.refl 271816 s) fun p t ht => takeRecord_moves i p (x.epoch + 1) t ht rfl).rest .asy rfl

/-- An index y that has taken in records into the epoch after e, with the counts of those it skipped (R322). -/
def indexAdvanced (y : Index) (e want room : Nat) (skips : List Nat) : Index :=
  { y with
    heapTaken := (y.heapTaken + min want room) % 2 ^ 32
    epoch := e + 1
    publishPoisoned := false
    skipped := (y.skipped + total skips) % 2 ^ 32
    st := if room < want then .stuck else y.st
    cause := if room < want then 0x0613 else y.cause }

theorem advanceTake_spec (hi : i < 64) (x : Index) (want room : Nat) :
    (∀ e, (recordsTaken s i x want room).2 = .error e → (advanceTake s i x want room).asy = s.asy) ∧
      ∀ skips, (recordsTaken s i x want room).2 = .ok skips → ∃ head blocked, indexBecomes s (advanceTake s i x want room) i
        { indexAdvanced (s.index i) x.epoch want room skips with heapHead := head, heapBlocked := blocked } := by
  have hasy := recordsTaken_asy s i x want room
  generalize hr : recordsTaken s i x want room = r at hasy ⊢
  obtain ⟨u, r⟩ := r
  unfold recordsTaken at hr
  refine ⟨?_, ?_⟩
  · rintro e rfl
    simpa only [advanceTake, hr] using hasy
  · rintro skips rfl
    have hstored := granuleStored_head hi (ihCapacity x.header + 1) (u.modIndex i fun y => indexAdvanced y x.epoch want room skips)
    simp only [advanceTake, hr]
    exact hstored.after (modIndex_becomes hasy hi fun y => indexAdvanced y x.epoch want room skips)

/-- The index's publish tally, if it has one, is poisoned. -/
def publishLost (s : State) (x : Index) : Prop := ∀ k, resolveTally s x.claim (ihTally x.header) = some k → (s.tally k).poisoned = true

/-- The records that an index wants: those up to a publish tally of value pub, none where it is behind (R322). -/
def recordsWanted (x : Index) (pub : Nat) : Nat := if dist32 x.heapTaken pub < 2 ^ 31 then dist32 x.heapTaken pub else 0

/-- The room in an index's heap. -/
def heapRoom (x : Index) : Nat := dist32 x.heapTaken (x.heapHead + ihCapacity x.header)

theorem advanceIndex_idle (h : (s.index i).st ≠ .bound) : advanceIndex s i = s := if_pos h

theorem advanceIndex_last (h : (s.index i).st = .bound) (he : (s.index i).epoch = 2 ^ 32 - 1) :
    advanceIndex s i = s.modIndex i fun x => { x with st := .stuck, cause := 0x0612 } :=
  (if_neg (not_not.2 h)).trans (if_pos he)

theorem advanceIndex_poisoned (h : (s.index i).st = .bound) (he : (s.index i).epoch ≠ 2 ^ 32 - 1) (hp : publishLost s (s.index i)) :
    advanceIndex s i = storeGranule (s.modIndex i fun x => { x with publishPoisoned := true }) i := by
  refine (if_neg (not_not.2 h)).trans ((if_neg he).trans ?_)
  split
  · rfl
  · rename_i k hk
    exact if_pos (hp k hk)

theorem advanceIndex_takes (h : (s.index i).st = .bound) (he : (s.index i).epoch ≠ 2 ^ 32 - 1) {k : Nat}
    (hk : resolveTally s (s.index i).claim (ihTally (s.index i).header) = some k) (hp : (s.tally k).poisoned = false) :
    advanceIndex s i = advanceTake s i (s.index i) (recordsWanted (s.index i) (s.tally k).value.toNat) (heapRoom (s.index i)) := by
  refine (if_neg (not_not.2 h)).trans ((if_neg he).trans ?_)
  simp only [hk, hp, Bool.false_eq_true, if_false]
  rfl

theorem advanceIndex_last_becomes (hi : i < 64) (h : (s.index i).st = .bound) (he : (s.index i).epoch = 2 ^ 32 - 1) :
    indexBecomes s (advanceIndex s i) i { s.index i with st := .stuck, cause := 0x0612 } := by
  rw [advanceIndex_last h he]
  exact modIndex_becomes rfl hi _

theorem advanceIndex_poisoned_becomes (hi : i < 64) (h : (s.index i).st = .bound) (he : (s.index i).epoch ≠ 2 ^ 32 - 1)
    (hp : publishLost s (s.index i)) : indexBecomes s (advanceIndex s i) i { s.index i with publishPoisoned := true } := by
  rw [advanceIndex_poisoned h he hp]
  exact (modIndex_becomes rfl hi _).asy_after (storeGranule_asy _ i)

/-- Whatever an advance does, it changes no other index (R322). -/
theorem advanceIndex_becomes (hi : i < 64) (s : State) : ∃ y, indexBecomes s (advanceIndex s i) i y := by
  by_cases hst : (s.index i).st = .bound
  · by_cases he : (s.index i).epoch = 2 ^ 32 - 1
    · exact ⟨_, advanceIndex_last_becomes hi hst he⟩
    · by_cases hp : publishLost s (s.index i)
      · exact ⟨_, advanceIndex_poisoned_becomes hi hst he hp⟩
      · obtain ⟨k, hk⟩ := not_forall.1 hp
        obtain ⟨hk, hp⟩ := Classical.not_imp.1 hk
        rw [advanceIndex_takes hst he hk (Bool.not_eq_true _ ▸ hp)]
        obtain ⟨herr, hok⟩ := advanceTake_spec (s := s) hi (s.index i) (recordsWanted (s.index i) (s.tally k).value.toNat) (heapRoom (s.index i))
        cases hr : (recordsTaken s i (s.index i) (recordsWanted (s.index i) (s.tally k).value.toNat) (heapRoom (s.index i))).2 with
        | error e => exact ⟨_, .of_asy (herr e hr) i⟩
        | ok skips =>
          obtain ⟨head, blocked, h⟩ := hok skips hr
          exact ⟨_, h⟩
  · rw [advanceIndex_idle hst]
    exact ⟨_, .of_asy rfl i⟩

theorem advanceIndex_other {k : Nat} (hk : k < 64) (hne : k ≠ i) (u : State) : (advanceIndex u k).index i = u.index i := by
  obtain ⟨y, -, hother, -⟩ := advanceIndex_becomes hk u
  exact hother i hne.symm

end Advance

/-! ASY_ADVANCE_WRITE (R322). -/

section Write

variable {s : State} {v : Nat} (hreg : (regAt s 0 (asyOff 0x10)).isSome = true) (hw : writesWait s = false)
include hreg hw

theorem asyAdvanceWrite_one (hv : v % 65536 < 64) : exec (.asyAdvanceWrite v) s = .next (settlePages (advanceIndex s (v % 65536))) := by
  rw [asyAdvanceWrite_runs v s hw, viaReg_pos hreg, advanceNamed, if_neg (by omega), if_pos hv]

theorem asyAdvanceWrite_all (hv : v % 65536 = 0xFFFF) : exec (.asyAdvanceWrite v) s = .next (settlePages ((List.range 64).foldl advanceIndex s)) := by
  rw [asyAdvanceWrite_runs v s hw, viaReg_pos hreg, advanceNamed, if_pos hv]

/-- What an advance of one index leaves of the engine stands when page commands look again. -/
theorem asyAdvanceWrite_becomes (hv : v % 65536 < 64) {x : Index} (h : indexBecomes s (advanceIndex s (v % 65536)) (v % 65536) x) :
    Runs (.asyAdvanceWrite v) s fun t => indexBecomes s t (v % 65536) x :=
  ⟨_, asyAdvanceWrite_one hreg hw hv, h.asy_after (settlePages_asy _)⟩

/-- An advance whose publish tally can be read takes in what it announces and the heap has room for (R322). -/
theorem asyAdvanceWrite_takes (hv : v % 65536 < 64) {k : Nat} : let x := s.index (v % 65536)
    x.st = .bound → x.epoch ≠ 2 ^ 32 - 1 → resolveTally s x.claim (ihTally x.header) = some k → (s.tally k).poisoned = false →
    let want := recordsWanted x (s.tally k).value.toNat
    let room := heapRoom x
    (∀ e, (recordsTaken s (v % 65536) x want room).2 = .error e → Runs (.asyAdvanceWrite v) s fun t => t.asy = s.asy) ∧
    ∀ skips, (recordsTaken s (v % 65536) x want room).2 = .ok skips → Runs (.asyAdvanceWrite v) s fun t =>
      ∃ head blocked, indexBecomes s t (v % 65536) { indexAdvanced x x.epoch want room skips with heapHead := head, heapBlocked := blocked } := by
  intro x hst he hk hp want room
  have hrun := asyAdvanceWrite_one hreg hw hv
  rw [advanceIndex_takes hst he hk hp] at hrun
  obtain ⟨herr, hok⟩ := advanceTake_spec (s := s) hv x want room
  refine ⟨fun e hr => ⟨_, hrun, (settlePages_asy _).trans (herr e hr)⟩, fun skips hr => ⟨_, hrun, ?_⟩⟩
  obtain ⟨head, blocked, h⟩ := hok skips hr
  exact ⟨head, blocked, h.asy_after (settlePages_asy _)⟩

end Write

/-- In an advance of all, an index that is not bound stays, and one at the last epoch is stuck (R322). -/
theorem advanceAll_spec (s : State) {i : Nat} (hi : i < 64) : let t := settlePages ((List.range 64).foldl advanceIndex s)
    ((s.index i).st ≠ .bound → t.index i = s.index i) ∧
      ((s.index i).st = .bound → (s.index i).epoch = 2 ^ 32 - 1 → t.index i = { s.index i with st := .stuck, cause := 0x0612 }) := by
  obtain ⟨u, hu, hturn⟩ := foldl_index_turn List.nodup_range (List.mem_range.2 hi)
    (fun _ hk hne => advanceIndex_other (List.mem_range.1 hk) hne) s
  dsimp only
  rw [index_of_asy (settlePages_asy _), hturn, ← hu]
  refine ⟨fun hst => ?_, fun hst he => (advanceIndex_last_becomes hi hst he).1⟩
  rw [advanceIndex_idle hst]

/-! The close of a window (R319, R322). -/

/-- One index's turn where the eager indexes advance. -/
def advanceIfDue (s : State) (i : Nat) : State := if advanceDue s i then advanceIndex s i else s

theorem advanceIfDue_idle {s : State} {i : Nat} (h : advanceDue s i = false) : advanceIfDue s i = s := by
  rw [advanceIfDue, h]
  rfl

theorem advanceIfDue_other {i k : Nat} (hk : k < 64) (hne : k ≠ i) (u : State) : (advanceIfDue u k).index i = u.index i := by
  unfold advanceIfDue
  split
  · exact advanceIndex_other hk hne u
  · rfl

/-- An advance is due of an eager index that is bound, and of no other (R322). -/
theorem advanceDue_false {s : State} {i : Nat} (h : (s.index i).st ≠ .bound ∨ ihEager (s.index i).header = false) : advanceDue s i = false := by
  unfold advanceDue
  dsimp only
  split
  · rcases h with h | h <;> simp [h]
  · rfl

theorem advanceEager_idle {s : State} (h : ∀ i < 64, advanceDue s i = false) : advanceEager s = settlePages s :=
  congrArg settlePages (foldl_stays (f := advanceIfDue) fun i hi => advanceIfDue_idle (h i (List.mem_range.1 hi)))

theorem advanceEager_index {s : State} {i : Nat} (hi : i < 64) (h : (s.index i).st ≠ .bound ∨ ihEager (s.index i).header = false) :
    (advanceEager s).index i = s.index i := by
  obtain ⟨u, hu, hturn⟩ := foldl_index_turn (f := advanceIfDue) List.nodup_range (List.mem_range.2 hi)
    (fun _ hk hne => advanceIfDue_other (List.mem_range.1 hk) hne) s
  rw [← hu] at h
  refine (index_of_asy (settlePages_asy _) i).trans (hturn.trans ?_)
  rw [advanceIfDue_idle (advanceDue_false h), hu]

theorem closeWindow_open {s : State} (h : s.asy.windowOpen = true) : closeWindow s = advanceEager { s with asy := { s.asy with windowOpen := false } } :=
  if_pos h

theorem closeWindow_closed {s : State} (h : s.asy.windowOpen = false) : closeWindow s = s := by
  rw [closeWindow, h]
  rfl

/-! Backfill (R320, R323). -/

section Backfill

variable {s : State} {i : Nat}

/-- The records of an index's heap go to their veins in heap order (R323). -/
def recordsBackfilled (s : State) (i : Nat) : Run (List Nat) :=
  runEach (fun p u => backfillRecord i p u) (heapRange (s.index i).heapHead (s.index i).heapTaken) s

theorem recordsBackfilled_asy (s : State) (i : Nat) : (recordsBackfilled s i).1.asy = s.asy :=
  (runEach_moves _ _ s (Moves.refl 271816 s) fun p t ht => backfillRecord_moves i p t ht rfl).rest .asy rfl

theorem backfillIndex_unbound (h : (s.index i).st = .unbound) : backfillIndex s i = s := if_pos h

theorem backfillIndex_spec (hi : i < 64) (h : (s.index i).st ≠ .unbound) :
    (∀ e, (recordsBackfilled s i).2 = .error e → (backfillIndex s i).asy = s.asy) ∧
      ∀ sp, (recordsBackfilled s i).2 = .ok sp → ∃ head blocked, indexBecomes s (backfillIndex s i) i
        { s.index i with spilled := ((s.index i).spilled + total sp) % 2 ^ 32, heapHead := head, heapBlocked := blocked } := by
  have hasy := recordsBackfilled_asy s i
  generalize hr : recordsBackfilled s i = r at hasy ⊢
  obtain ⟨u, r⟩ := r
  unfold recordsBackfilled at hr
  refine ⟨?_, ?_⟩
  · rintro e rfl
    simpa only [backfillIndex, h, if_false, hr] using hasy
  · rintro sp rfl
    simp only [backfillIndex, h, if_false, hr]
    exact (granuleStored_head hi _ _).after (modIndex_becomes hasy hi fun x => { x with spilled := (x.spilled + total sp) % 2 ^ 32 })

/-- Backfill of an index may change its heap's head, its blocked mark and its spill count, and no other index (R323). -/
theorem backfillIndex_becomes (hi : i < 64) (s : State) : ∃ head blocked spilled, indexBecomes s (backfillIndex s i) i
    { s.index i with heapHead := head, heapBlocked := blocked, spilled := spilled } := by
  by_cases h : (s.index i).st = .unbound
  · rw [backfillIndex_unbound h]
    exact ⟨(s.index i).heapHead, (s.index i).heapBlocked, (s.index i).spilled, .of_asy rfl i⟩
  · obtain ⟨herr, hok⟩ := backfillIndex_spec hi h
    cases hr : (recordsBackfilled s i).2 with
    | error e => exact ⟨(s.index i).heapHead, (s.index i).heapBlocked, (s.index i).spilled, .of_asy (herr e hr) i⟩
    | ok sp =>
      obtain ⟨head, blocked, hb⟩ := hok sp hr
      exact ⟨head, blocked, _, hb⟩

theorem backfillIndex_other {k : Nat} (hk : k < 64) (hne : k ≠ i) (u : State) : (backfillIndex u k).index i = u.index i := by
  obtain ⟨_, _, _, -, hother, -⟩ := backfillIndex_becomes hk u
  exact hother i hne.symm

/-- BACKFILL goes over every index (R320). -/
def backfilled (s : State) : State := (List.range 64).foldl backfillIndex s

theorem backfillIndex_only (s : State) {i : Nat} (hi : i < 64) : indexesOnly s (backfillIndex s i) := by
  obtain ⟨_, _, _, -, -, hasy⟩ := backfillIndex_becomes hi s
  unfold indexesOnly
  rw [hasy]

theorem backfilled_only (s : State) : indexesOnly s (backfilled s) :=
  List.foldlRecOn (motive := fun t => indexesOnly s t) _ _ (.of_asy rfl) fun t ht _ hk => ht.trans (backfillIndex_only t (List.mem_range.1 hk))

theorem backfilled_turn (hi : i < 64) : ∃ u, u.index i = s.index i ∧ (backfilled s).index i = (backfillIndex u i).index i :=
  foldl_index_turn List.nodup_range (List.mem_range.2 hi) (fun _ hk hne => backfillIndex_other (List.mem_range.1 hk) hne) s

theorem backfilled_unbound (hi : i < 64) (h : (s.index i).st = .unbound) : (backfilled s).index i = s.index i := by
  obtain ⟨u, hu, hturn⟩ := backfilled_turn (s := s) hi
  rw [hturn, backfillIndex_unbound (hu ▸ h), hu]

theorem backfilled_index (hi : i < 64) : ∃ head blocked spilled, (backfilled s).index i =
    { s.index i with heapHead := head, heapBlocked := blocked, spilled := spilled } := by
  obtain ⟨u, hu, hturn⟩ := backfilled_turn (s := s) hi
  obtain ⟨head, blocked, spilled, hb, -⟩ := backfillIndex_becomes hi u
  exact ⟨head, blocked, spilled, hturn.trans (hu ▸ hb)⟩

/-- Where one index alone is bound, backfill is that index's (R323). -/
theorem backfilled_alone (hi : i < 64) (h : ∀ k < 64, k ≠ i → (s.index k).st = .unbound) : backfilled s = backfillIndex s i := by
  refine foldl_one_turn List.nodup_range (List.mem_range.2 hi) (fun k hk hne _ hu => backfillIndex_unbound ?_) fun _ _ hne =>
    backfillIndex_other hi hne.symm s
  rw [hu, h k (List.mem_range.1 hk) hne]

theorem backfill_waits (h : (s.asy.windowOpen = true ∧ ¬ (s.asy.continuous = true ∨ s.beat.aligned = false)) ∨ s.asy.batch.isSome = true ∨ s.redealing = true) :
    backfill s = s := by
  refine if_neg fun hgo => ?_
  simp only [asyContinuous, Bool.and_eq_true, Bool.or_eq_true, Bool.not_eq_true', Option.isNone_iff_eq_none] at hgo
  obtain ⟨⟨hopen, hbatch⟩, hred⟩ := hgo
  rcases h with ⟨hwin, hcont⟩ | h | h
  · exact hopen.elim (fun hc => by simp [hwin] at hc) hcont
  · simp [hbatch] at h
  · simp [hred] at h

theorem backfill_goes (hopen : s.asy.windowOpen = false ∨ s.asy.continuous = true ∨ s.beat.aligned = false) (hbatch : s.asy.batch = none)
    (hred : s.redealing = false) : backfill s = backfilled s :=
  if_pos (by simp [asyContinuous, hopen, hbatch, hred])

end Backfill

/-! The statement. -/

/-- Settles O58: a binding by its first check that fails, an unbinding by the batch's use of the index, an advance by the epoch and the
publish tally, and a window's close and backfill by each index's one turn (R310 to R312, R319, R320, R322, R323; log entries 78, 79, 114 and
136). -/
theorem assayIndexes : Obligations.AssayIndexes := by
  refine ⟨fun s i va n hreg hva hn => ⟨fun hst => ?_, fun hst => asyIndexBind_spec hreg hva hn hst⟩, fun s i v hreg => ⟨fun hst => ?_, fun hst => ?_⟩,
    fun s v i hreg hw hv hi => ?_, fun s v hreg hw hv => ⟨_, asyAdvanceWrite_all hreg hw hv, fun i hi => advanceAll_spec s hi⟩,
    fun s hd => ⟨fun hwin => ?_, fun hwin hp => ⟨fun hdue => ?_, ?_⟩⟩,
    fun s hd => ⟨fun hwait => ?_, fun hopen hbatch hred hp => ⟨_, ?_, backfill_runs s hd hp⟩⟩⟩
  · rw [asyIndexBind_lands hreg hva hn, bindIndex_bound (by rwa [index_of_asy (dropHold_asy s 0 _)])]
  · have hdrop := dropHold_asy s 0 (asyOff (0x1000 + 16 * i))
    refine ⟨_, asyIndexUnbind_lands hreg v, ?_⟩
    rw [unbindIndex_unbound (by rwa [index_of_asy hdrop])]
    exact modIndex_becomes hdrop hreg.1 fun x => { x with valid := false, headerVa := v % 2 ^ 40, claim := v / 2 ^ 40 % 8 }
  · exact ⟨_, asyIndexUnbind_lands hreg v, unbindIndex_spec (s := dropHold s 0 (asyOff (0x1000 + 16 * i))) hreg.1 hst _ _⟩
  · subst hv
    refine ⟨fun hst => ?_, fun hst he => asyAdvanceWrite_becomes hreg hw hi (advanceIndex_last_becomes hi hst he), fun hst he =>
      ⟨fun hp => asyAdvanceWrite_becomes hreg hw hi (advanceIndex_poisoned_becomes hi hst he hp), fun k hk hp => ?_⟩⟩
    · rw [asyAdvanceWrite_one hreg hw hi, advanceIndex_idle hst]
    · obtain ⟨herr, hok⟩ := asyAdvanceWrite_takes hreg hw hi hst he hk hp
      refine ⟨herr, fun skips hr => ?_⟩
      obtain ⟨t, hrun, head, blocked, h⟩ := hok skips hr
      refine ⟨t, hrun, head, blocked, ?_⟩
      rw [indexAdvanced, hst] at h
      exact h
  · exact onRun_id (closeWindow_closed hwin)
  · rw [assayWindowClose_runs s hd hp, closeWindow_open hwin, advanceEager_idle hdue]
  · refine ⟨_, assayWindowClose_runs s hd hp, ?_⟩
    rw [closeWindow_open hwin]
    exact ⟨(advanceEager_only _).asy, fun i hi h => advanceEager_index (s := { s with asy := { s.asy with windowOpen := false } }) hi h⟩
  · exact onRun_id (afterMoves_id (backfill_waits hwait))
  · rw [backfill_goes hopen hbatch hred]
    refine ⟨(backfilled_only s).asy, fun i hi => ⟨backfilled_unbound hi, backfilled_index hi, fun halone hst => ?_⟩⟩
    obtain ⟨herr, hok⟩ := backfillIndex_spec hi hst
    rw [backfilled_alone hi halone]
    refine ⟨herr, fun sp hr => ?_⟩
    obtain ⟨head, blocked, hb, -⟩ := hok sp hr
    rw [hb]

end Sys2Proof
end

section
/-! SUPPORT. What every command keeps: its frame (chapter 20), the local timer (R50, R436; log entry 3), the queue and what was sent. -/

namespace Sys2Proof

open Machine

/-- Settles O4: the table of parts covers what each command may move. -/
theorem frameOfEveryCommand : Obligations.FrameOfEveryCommand := fun i s _ he => (exec_within i s).only_of he

/-- Settles O3: a command's answer is a next state, which keeps the queue and what was sent. -/
theorem everyCommandCompletes : Obligations.EveryCommandCompletes := by
  intro i s
  obtain ⟨m, -, t, ht, hm⟩ := exec_within i s
  exact ⟨t, ht, hm.queue, hm.sent⟩

/-- Settles O7: the local timer lies outside every command's frame. -/
theorem onlyTicksMoveTime : Obligations.OnlyTicksMoveTime := fun i s t he =>
  frameOfEveryCommand i s t he .now (now_not_mem_parts i)

/-- Settles O6: nothing is listed in the tiers and the flash of the reset state. -/
theorem resetMemoryCanonical : Obligations.ResetMemoryCanonical := ⟨rfl, rfl, rfl, rfl⟩

end Sys2Proof
end

section
/-! SUPPORT. PLDM base and monitoring commands (R406, R407). -/

namespace Sys2Proof

open Machine

/-- A command of the endpoint goes on where the endpoint answers (R401). -/
theorem exec_vendorGo {i : Instr} {s : State} {k : State → State} (h : mgmtUp s) (he : exec i s = .next (vendorGo s k)) :
    exec i s = .next (k s) := by
  rw [he, vendorGo_up h]

/-- The same, where what it does there is known. -/
theorem exec_vendorGo_eq {i : Instr} {s t : State} {k : State → State} (h : mgmtUp s) (he : exec i s = .next (vendorGo s k)) (hk : k s = t) :
    exec i s = .next t := hk ▸ exec_vendorGo h he

/-! The records of the repository. -/

theorem pdrs_numeric : ∀ h ≤ 30, 1 ≤ h → pdrs[h - 1]? = some (0, h, 0) := by decide

theorem pdrs_effecter : pdrs[47]? = some (2, 0x200, 0x8011) := rfl

theorem pdrs_numericEffecter : ∀ h ≤ 51, 49 ≤ h → pdrs[h - 1]? = some (3, 0x201 + (h - 49), 0) := by decide

theorem pdrs_length : pdrs.length = 51 := rfl

section Answers

variable {s : State} (hs : mgmtUp s)
include hs

theorem getPdr_record {h : Nat} {p : Nat × Nat × Nat} (h1 : 1 ≤ h) (hp : pdrs[h - 1]? = some p) :
    justAnswers (.getPdr h) s 1 0x51 0
      (leBytes 4 h ++ leBytes 4 (if h < 51 then h + 1 else 0) ++ leBytes 1 p.1 ++ leBytes 2 p.2.1 ++ leBytes 2 p.2.2) := by
  refine exec_vendorGo_eq hs (getPdr_runs h s) ?_
  dsimp only
  rw [Nat.max_eq_right h1, hp, pdrs_length]
  rfl

theorem getPdr_missing {h : Nat} (hh : 51 < h) : justAnswers (.getPdr h) s 1 0x51 0x82 [] := by
  refine exec_vendorGo_eq hs (getPdr_runs h s) ?_
  dsimp only
  rw [Nat.max_eq_right (by omega), List.getElem?_eq_none (by rw [pdrs_length]; omega)]
  rfl

theorem setTid_answers {v : Nat} (hv : v < 256) :
    (v = 0 ∨ v = 255 → justAnswers (.setTid v) s 1 0x01 2 []) ∧
    (v ≠ 0 → v ≠ 255 → mgmtBecomes (.setTid v) s (fun m => { m with tid := v }) 1 0x01 0 []) := by
  have hm : v % 256 = v := Nat.mod_eq_of_lt hv
  refine ⟨fun h => exec_vendorGo_eq hs (setTid_runs v s) ?_, fun h0 h1 => exec_vendorGo_eq hs (setTid_runs v s) ?_⟩
  · rw [hm, if_pos h]
    rfl
  · rw [hm, if_neg (by omega)]
    rfl

theorem getPldmVersion_answers (type : Nat) :
    (type = 2 → justAnswers (.getPldmVersion type) s 1 0x03 0 [0x00#8, 0xF0#8, 0xF2#8, 0xF1#8]) ∧
    (2 < type ∨ type = 1 → justAnswers (.getPldmVersion type) s 1 0x03 0x83 []) ∧
    (type = 0 → Runs (.getPldmVersion type) s fun t => OnlyParts [.freeCtr, .out] s t ∧ ∃ d, d.length = 4 ∧ t.out = s.out ++ [.mgmt 1 0x03 0 d]) := by
  have hx := exec_vendorGo hs (getPldmVersion_runs type s)
  match type with
  | 0 =>
    exact ⟨nofun, nofun, fun _ => ⟨_, hx, (exec_within _ s).only_of hx, _, freeBytes_length s 4, rfl⟩⟩
  | 1 => exact ⟨nofun, fun _ => hx, nofun⟩
  | 2 => exact ⟨fun _ => hx, by omega, nofun⟩
  | _ + 3 => exact ⟨nofun, fun _ => hx, nofun⟩

theorem getPldmCommands_answers (type : Nat) :
    (type = 0 → justAnswers (.getPldmCommands type) s 1 0x05 0 (leBytes 32 0x3E)) ∧
    (type = 2 → justAnswers (.getPldmCommands type) s 1 0x05 0
      (leBytes 32 (2 ^ 0x04 + 2 ^ 0x0B + 2 ^ 0x11 + 2 ^ 0x21 + 2 ^ 0x31 + 2 ^ 0x32 + 2 ^ 0x39 + 2 ^ 0x3A + 2 ^ 0x50 + 2 ^ 0x51))) ∧
    (type ≠ 0 → type ≠ 2 → justAnswers (.getPldmCommands type) s 1 0x05 0x83 []) := by
  have hx := exec_vendorGo hs (getPldmCommands_runs type s)
  match type with
  | 0 => exact ⟨fun _ => hx, nofun, fun h => absurd rfl h⟩
  | 1 => exact ⟨nofun, nofun, fun _ _ => hx⟩
  | 2 => exact ⟨nofun, fun _ => hx, fun _ h => absurd rfl h⟩
  | _ + 3 => exact ⟨nofun, nofun, fun _ _ => hx⟩

/-! Sensors and effecters. -/

omit hs in
theorem mem_rangeFrom {x lo n : Nat} : x ∈ rangeFrom lo n ↔ lo ≤ x ∧ x < lo + n := by
  simp only [rangeFrom, List.mem_map, List.mem_range]
  exact ⟨by omega, fun h => ⟨x - lo, by omega, by omega⟩⟩

omit hs in
/-- The temperatures of F0 to H, which the Lamphouse has while the main dies are neither held nor in P3 (R407). -/
theorem sensorValue_temperature (s : State) {id : Nat} (h3 : 3 ≤ id) (h9 : id ≤ 9) :
    sensorValue s id = if s.boot.released = true ∧ s.power.level ≠ 3 then some (tget s.power.temps (id - 3)) else none := by
  have hm : (mainSensors s = true) = (s.boot.released = true ∧ s.power.level ≠ 3) := by simp [mainSensors]
  interval_cases id <;> exact ite_congr hm (fun _ => rfl) fun _ => rfl

theorem getSensor_missing {id : Nat} (h : id = 0 ∨ 30 < id) : justAnswers (.getSensorReading id) s 1 0x11 0x80 [] := by
  have hc : ¬ id ∈ numericIds := by rw [numericIds, mem_rangeFrom]; omega
  exact exec_vendorGo_eq hs (getSensorReading_runs id s) (if_pos (by simp [hc]))

theorem getSensor_answers {id : Nat} (h1 : 1 ≤ id) (h30 : id ≤ 30) :
    (∀ v, sensorValue s id = some v → justAnswers (.getSensorReading id) s 1 0x11 0 ([0#8] ++ intBytes v)) ∧
    (sensorValue s id = none → justAnswers (.getSensorReading id) s 1 0x11 0 ([2#8] ++ intBytes 0)) := by
  have hc : id ∈ numericIds := by rw [numericIds, mem_rangeFrom]; omega
  have hx := exec_vendorGo_eq hs (getSensorReading_runs id s) (if_neg (by simp [hc]))
  exact ⟨fun v hv => by rw [hv] at hx; exact hx, fun hv => by rw [hv] at hx; exact hx⟩

theorem getStateSensor_answers {id : Nat} (h : id ∈ stateIds) :
    justAnswers (.getStateSensorReadings id) s 1 0x21 0 ([0#8] ++ leBytes 1 (stateValue s id)) :=
  exec_vendorGo_eq hs (getStateSensorReadings_runs id s) (if_pos (by simpa using h))

theorem getStateSensor_missing {id : Nat} (h : id < 0x100 ∨ (0x104 < id ∧ id < 0x110) ∨ 0x11B < id) :
    justAnswers (.getStateSensorReadings id) s 1 0x21 0x80 [] := by
  have hc : ¬ id ∈ stateIds := by rw [stateIds, List.mem_append, mem_rangeFrom, mem_rangeFrom]; omega
  exact exec_vendorGo_eq hs (getStateSensorReadings_runs id s) (if_neg (by simpa using hc))

theorem getNumericEffecter_missing {id : Nat} (h : id < 0x201 ∨ 0x203 < id) :
    justAnswers (.getNumericEffecterValue id) s 1 0x32 0x80 [] := by
  refine exec_vendorGo_eq hs (getNumericEffecterValue_runs id s) ?_
  split
  · omega
  · omega
  · omega
  · rfl

end Answers

/-- Settles O38: each PLDM command answers what the endpoint holds (R406, R407). -/
theorem pldmAnswers : Obligations.PldmAnswers := by
  intro s hs
  refine ⟨exec_vendorGo hs (getTid_runs s), fun v hv => setTid_answers hs hv, getPldmVersion_answers hs, exec_vendorGo hs (getPldmTypes_runs s),
    getPldmCommands_answers hs, exec_vendorGo hs (getPdrRepositoryInfo_runs s), fun h => ⟨getPdr_missing hs, fun h1 h30 => ?_, fun h49 h51 => ?_, ?_⟩,
    fun id => ⟨getSensor_missing hs, fun h1 h30 => (getSensor_answers hs h1 h30).1, fun h1 h30 => (getSensor_answers hs h1 h30).2,
      fun h3 h9 => sensorValue_temperature s h3 h9⟩,
    ⟨rfl, rfl, rfl, rfl, rfl, rfl, rfl, rfl, rfl⟩,
    ⟨getStateSensor_answers hs (by decide), getStateSensor_answers hs (by decide), getStateSensor_answers hs (by decide),
      getStateSensor_answers hs (by decide), fun id h => getStateSensor_missing hs h⟩,
    ⟨exec_vendorGo hs (getNumericEffecterValue_runs _ s), exec_vendorGo hs (getNumericEffecterValue_runs _ s),
      fun id h => getNumericEffecter_missing hs h, ?_⟩,
    exec_vendorGo_eq hs (getStateEffecterStates_runs _ s) (if_pos rfl), fun id h => exec_vendorGo_eq hs (getStateEffecterStates_runs id s) (if_neg h)⟩
  · have hr := getPdr_record hs h1 (pdrs_numeric h h30 h1)
    rwa [if_pos (by omega)] at hr
  · have hr := getPdr_record hs (by omega) (pdrs_numericEffecter h h51 h49)
    rwa [show (if h < 51 then h + 1 else 0) = if h = 51 then 0 else h + 1 by split_ifs <;> omega] at hr
  · rintro rfl
    exact getPdr_record hs (h := 48) (by omega) pdrs_effecter
  · have hx := exec_vendorGo hs (getNumericEffecterValue_runs 0x202 s)
    exact ⟨_, hx, (exec_within _ s).only_of hx, _, freeBytes_length s 4, rfl⟩

end Sys2Proof
end

section
/-! SUPPORT. The endpoint's id, its events and its alerts (R401, R409, R412). -/

namespace Sys2Proof

open Machine

/-- What a drive of the alert pins sends comes behind what was sent. -/
theorem drivePins_sent (s : State) : ∃ ys, (drivePins s).out = s.out ++ ys := (drivePins_moves s (Moves.refl 262152 s) rfl).sent

theorem setEid_answers {s : State} (hl : s.boot.lamphouse = true) (hr : s.mgmt.running = true) (eid : Nat) :
    (s.mgmt.staticEid = 0 → 8 ≤ eid → eid ≤ 254 → mgmtBecomes (.setEndpointId eid) s (fun m => { m with eid := eid }) 0 1 0 (leBytes 1 eid)) ∧
    (s.mgmt.staticEid ≠ 0 ∨ eid < 8 ∨ 254 < eid → justAnswers (.setEndpointId eid) s 0 1 2 []) := by
  have hrun : mgmtRuns s = true := by simp [mgmtRuns, hl, hr]
  have hx : exec (.setEndpointId eid) s = .next (if s.mgmt.staticEid ≠ 0 ∨ eid < 8 ∨ 254 < eid then answer s 0 1 2 []
      else answer (s.modMgmt fun m => { m with eid := eid }) 0 1 0 (leBytes 1 eid)) := by
    rw [setEndpointId_runs, setEid, hrun]
    rfl
  refine ⟨fun h0 h8 h254 => hx.trans ?_, fun h => hx.trans ?_⟩
  · rw [if_neg (by omega)]
    rfl
  · rw [if_pos h]
    rfl

section Events

variable {s : State} (hs : mgmtUp s)
include hs

theorem setReceiver_answers (mode : Nat) {receiver : Nat} (hr : receiver < 256) :
    (∀ m, (mode = 0 ∧ m = EventMode.off) ∨ (mode = 1 ∧ m = .async) ∨ (mode = 2 ∧ m = .polling) →
      Runs (.setEventReceiver mode receiver) s fun t => OnlyParts [.out, .mgmt] s t ∧ t.out = s.out ++ [.mgmt 1 0x04 0 []] ∧
        t.mgmt = { s.mgmt with mode := m, receiver := receiver, awaiting := false, tries := 0 }) ∧
    (2 < mode → justAnswers (.setEventReceiver mode receiver) s 1 0x04 2 []) := by
  have hx := exec_vendorGo hs (setEventReceiver_runs mode receiver s)
  refine ⟨fun m hm => ⟨_, hx, ((exec_within _ s).only_of hx).sub rfl, ?_⟩, fun h => hx.trans ?_⟩
  · rcases hm with ⟨rfl, rfl⟩ | ⟨rfl, rfl⟩ | ⟨rfl, rfl⟩ <;> simp [pldm, answer, Nat.mod_eq_of_lt hr]
  · match mode, h with
    | _ + 3, _ => rfl

theorem pollEvent_answers :
    (∀ e rest, s.mgmt.mode = .polling → s.mgmt.queue = e :: rest →
      mgmtBecomes .pollForPlatformEventMessage s (fun m => { m with queue := rest }) 1 0x0B 0 (eventBytes e)) ∧
    (s.mgmt.mode = .polling → s.mgmt.queue = [] → justAnswers .pollForPlatformEventMessage s 1 0x0B 0 []) ∧
    (s.mgmt.mode ≠ .polling → justAnswers .pollForPlatformEventMessage s 1 0x0B 4 []) := by
  have hx := exec_vendorGo hs (pollForPlatformEventMessage_runs s)
  refine ⟨fun e rest hm hq => ?_, fun hm hq => ?_, fun hm => ?_⟩
  · rw [hm, hq] at hx
    exact hx
  · rw [hm, hq] at hx
    exact hx
  · cases hmode : s.mgmt.mode with
    | polling => exact absurd hmode hm
    | off => rw [hmode] at hx; exact hx
    | async => rw [hmode] at hx; exact hx

/-- The oldest record is sent once, and again by the retries while its acknowledgement is awaited (R409). -/
theorem sendEvent_answers {e : MgmtEvent} {rest : List MgmtEvent} (hm : s.mgmt.mode = .async) (hq : s.mgmt.queue = e :: rest) :
    (s.mgmt.awaiting = false → mgmtBecomes .platformEventMessage s (fun m => { m with awaiting := true, tries := 1 }) 1 0x0A 0 (eventBytes e)) ∧
    (s.mgmt.awaiting = true → exec .platformEventMessage s = .next s ∧
      mgmtBecomes .platformEventRetry s (fun m => { m with tries := m.tries + 1 }) 1 0x0A 0 (eventBytes e)) := by
  have hup := mgmtAnswers_up hs
  refine ⟨fun ha => (platformEventMessage_runs s).trans ?_, fun ha => ⟨(platformEventMessage_runs s).trans ?_, (platformEventRetry_runs s).trans ?_⟩⟩
  all_goals simp [sendEvent, resendEvent, hm, hq, hup, ha]

theorem alertMask_answers {v : Nat} (hv : v < 65536) :
    Runs (.alertMask v) s fun t => OnlyParts [.out, .mgmt] s t ∧ (∃ ys, t.out = s.out ++ [.mgmt 1 0x31 0 []] ++ ys) ∧
      let m := { s.mgmt with mask := v }
      t.mgmt = { m with critLow := pinWanted m true, warnLow := pinWanted m false } := by
  have hx := exec_vendorGo hs (alertMask_runs v s)
  refine ⟨_, hx, ((exec_within _ s).only_of hx).sub rfl, drivePins_sent _, ?_⟩
  rw [drivePins_mgmt, Nat.mod_eq_of_lt hv]
  rfl

/-- The causes of the bitmap whose condition has gone clear, one after the other; bit 10 apart, each clearing leaves the others alone. -/
theorem alertAck_answers (v : Nat) :
    Runs (.alertAcknowledge v) s fun t => OnlyParts [.out, .mgmt] s t ∧
      ∀ k < 12, k ≠ 10 → t.mgmt.alerts.testBit k = (s.mgmt.alerts.testBit k && !(v.testBit k && !alertBlocked s k)) := by
  have hx := exec_vendorGo hs (alertAcknowledge_runs v s)
  refine ⟨_, hx, ((exec_within _ s).only_of hx).sub rfl, fun k hk hne => ?_⟩
  rw [(ack_fold v s (List.range 12) hne (pldm s 0x31 0) ((emit_only s _).sub rfl)).1]
  simp [pldm, answer, hk]

end Events

theorem ackEvent_awaited {s : State} (h : s.mgmt.awaiting = true) :
    exec .platformEventAck s = .next (s.modMgmt fun m => { m with queue := m.queue.tail, awaiting := false, tries := 0 }) :=
  (platformEventAck_runs s).trans (congrArg _ (if_pos h))

theorem ackEvent_unawaited {s : State} (h : s.mgmt.awaiting = false) : exec .platformEventAck s = .next s :=
  (platformEventAck_runs s).trans (congrArg _ (if_neg (by simp [h])))

/-- Settles O39: the endpoint's id, the receiver and its records, and the alert causes (R401, R409, R412). -/
theorem managementEvents : Obligations.ManagementEvents := by
  refine fun s => ⟨fun hl hr eid => setEid_answers hl hr eid, fun hs => ?_, ackEvent_awaited, ackEvent_unawaited⟩
  obtain ⟨htakes, hempty, hother⟩ := pollEvent_answers hs
  exact ⟨fun mode receiver hr => setReceiver_answers hs mode hr, htakes, hempty, hother, fun e rest hm hq => sendEvent_answers hs hm hq,
    fun v hv => alertMask_answers hs hv, alertAck_answers hs⟩

end Sys2Proof
end

section
/-! SUPPORT. The boot's retry and the power effecters of management (R405, R408, R414), over the power requests that PWR_CTRL shares with
them (R392 to R394). -/

namespace Sys2Proof

open Machine

/-! BOOT_RETRY. -/

/-- A boot that starts again and rests in step 2 holds no image (log entry 119). -/
theorem bootDiscover_rests (s : State) :
    (bootDiscover s 2).boot.step = 2 ∧ (bootDiscover s 2).boot.dev = .booting ∧ (bootDiscover s 2).boot.img = none := by
  simp [bootDiscover]

/-- Settles O40: a boot that failed starts again from step 2, and in any other state the request is answered STATE (R405; log entry 119). -/
theorem bootRetryOnlyAfterBootFailure : Obligations.BootRetryOnlyAfterBootFailure := by
  intro s env hs
  have hx := exec_vendorGo hs (bootRetry_runs env s)
  refine ⟨fun hd hr => ⟨_, ?_, rfl, fun h2 => by rw [h2]; exact bootDiscover_rests _⟩, fun h => ?_⟩
  · rw [if_pos (by simp [bootHasFailed, hd, hr])] at hx
    exact hx
  · rw [if_neg (by rcases h with h | h <;> simp [bootHasFailed, h])] at hx
    exact hx

/-! Requests for P2 and P3. -/

/-- What a request stores before it is decided does not bear on its refusal (R392). -/
theorem powerRequest_refused {s u : State} {k : Nat} (p3 : Bool) (hk : refusalCode s k) (hu : powerRefusal u = powerRefusal s) :
    powerRequest u p3 = powerRefuse u k := by
  obtain ⟨hr, h0⟩ := powerRefusal_of hk
  rw [powerRequest, hu, hr, if_pos h0]

theorem powerRequest_accepted {s u : State} (p3 : Bool) (hk : ∀ k, ¬ refusalCode s k) (hu : powerRefusal u = powerRefusal s) :
    powerRequest u p3 = if p3 then enterP3 u else enterP2 u := by
  rw [powerRequest, hu, powerRefusal_zero hk]
  rfl

/-- P3 holds the main dies with their supply off (R394). -/
theorem enterP3_spec (s : State) : coldStarted s (enterP3 s) ∧ (enterP3 s).power.level = 3 ∧ (enterP3 s).boot.mainEn = false :=
  ⟨setLevel_cold (mainReset_cold s), setLevel_level _ _, by simp [enterP3]⟩

theorem coldStarted.lost {s t : State} (h : coldStarted s t) : mainLost t := by
  obtain ⟨-, -, -, -, -, -, -, -, hl⟩ := h
  exact hl

/-! The effecters, by the column of Table 19.7. -/

theorem mgmtCol_up {s : State} (h : s.boot.dev = .newSeat ∨ s.boot.dev = .ready) : mgmtCol s = .up := by
  rcases h with h | h <;> simp [mgmtCol, h]

theorem mgmtCol_booting {s : State} (h : s.boot.dev = .booting) : mgmtCol s = .booting := by simp [mgmtCol, h]

theorem mgmtCol_held {s : State} (h : s.boot.dev = .held) : mgmtCol s = .held := by simp [mgmtCol, h]

theorem mgmtCol_redealing {s : State} (h : s.boot.dev = .redealing) : mgmtCol s = .redealing := by simp [mgmtCol, h]

theorem mgmtCol_failedReset {s : State} (h : s.boot.dev = .failed ∧ s.boot.released = false) : mgmtCol s = .failedReset := by
  simp [mgmtCol, h]

theorem mgmtCol_failedUp {s : State} (h : s.boot.dev = .failed ∧ s.boot.released = true) : mgmtCol s = .failedUp := by simp [mgmtCol, h]

/-- A request of the effecter has been answered, and is noted (R408). -/
def requestNoted (s : State) (r : Nat) : State := (s.emit (.mgmt 1 0x39 0 [])).modPower fun p => { p with request := r }

theorem powerRefusal_requestNoted (s : State) (r : Nat) : powerRefusal (requestNoted s r) = powerRefusal s := rfl

section Effecters

variable {s : State} (hs : mgmtUp s)
include hs

theorem limitEffecter_notReady (w : Nat) (h : mgmtCol s = .booting ∨ mgmtCol s = .held ∨ mgmtCol s = .failedReset) :
    justAnswers (.powerLimitEffecter w) s 1 0x31 4 [] :=
  exec_vendorGo_eq hs (powerLimitEffecter_runs w s) (if_pos h)

theorem limitEffecter_ready (w : Nat) (h : ¬ (mgmtCol s = .booting ∨ mgmtCol s = .held ∨ mgmtCol s = .failedReset)) :
    (400 ≤ w → w ≤ 1050 → exec (.powerLimitEffecter w) s = .next ((s.modPower fun p => { p with limitW := w }).emit (.mgmt 1 0x31 0 []))) ∧
    (w < 400 ∨ 1050 < w → justAnswers (.powerLimitEffecter w) s 1 0x31 2 []) := by
  have hx := exec_vendorGo_eq hs (powerLimitEffecter_runs w s) (if_neg h)
  refine ⟨fun h4 h10 => ?_, fun hw => ?_⟩
  · rwa [if_neg (by omega)] at hx
  · rwa [if_pos hw] at hx

theorem powerEffecter_other (env : BootEnv) {r : Nat} (h0 : r ≠ 0) (h2 : r ≠ 2) (h3 : r ≠ 3) :
    justAnswers (.powerRequestEffecter r env) s 1 0x39 2 [] := by
  have hx := exec_vendorGo hs (powerRequestEffecter_runs r env s)
  match r, h0, h2, h3 with
  | 1, _, _, _ => exact hx
  | _ + 4, _, _, _ => exact hx

theorem powerEffecter_notReady (env : BootEnv) {r : Nat} (hr : r = 0 ∨ r = 2 ∨ r = 3) (h : mgmtCol s = .booting ∨ mgmtCol s = .failedReset) :
    justAnswers (.powerRequestEffecter r env) s 1 0x39 4 [] := by
  have hx := exec_vendorGo hs (powerRequestEffecter_runs r env s)
  rcases hr with rfl | rfl | rfl <;> rcases h with h | h <;> rw [h] at hx <;> exact hx

theorem powerEffecter_held (env : BootEnv) {r : Nat} (hr : r = 2 ∨ r = 3) (h : mgmtCol s = .held) :
    justAnswers (.powerRequestEffecter r env) s 1 0x39 4 [] := by
  have hx := exec_vendorGo hs (powerRequestEffecter_runs r env s)
  rcases hr with rfl | rfl <;> rw [h] at hx <;> exact hx

/-- A request of the effecter that a state takes up is answered first, and noted (R408). -/
theorem powerEffecter_decided (env : BootEnv) {r : Nat} (hr : r = 2 ∨ r = 3) (h : mgmtCol s = .up) :
    exec (.powerRequestEffecter r env) s = .next (powerRequest (requestNoted s r) (decide (r = 3))) := by
  have hx := exec_vendorGo hs (powerRequestEffecter_runs r env s)
  rcases hr with rfl | rfl <;> rw [h] at hx <;> exact hx

theorem powerEffecter_redealing (env : BootEnv) {r : Nat} (hr : r = 2 ∨ r = 3) (h : mgmtCol s = .redealing) :
    exec (.powerRequestEffecter r env) s = .next (powerRefuse (requestNoted s r) 4) := by
  have hx := exec_vendorGo hs (powerRequestEffecter_runs r env s)
  rcases hr with rfl | rfl <;> rw [h] at hx <;> exact hx

theorem powerEffecter_wake (env : BootEnv) (h : mgmtCol s = .up) :
    exec (.powerRequestEffecter 0 env) s = .next (leaveP2 (s.emit (.mgmt 1 0x39 0 []))) := by
  have hx := exec_vendorGo hs (powerRequestEffecter_runs 0 env s)
  rw [h] at hx
  exact hx

end Effecters

theorem modPower_only (s : State) (f : Power → Power) : OnlyParts [.power] s (s.modPower f) :=
  (State.modPower_moves s f (Moves.refl 131072 s) rfl).only (covers_spec rfl)

/-- A refused request of the effecter: it is answered and noted, with the reason (R408). -/
theorem powerRefuse_requestNoted (s : State) (r k : Nat) :
    let t := powerRefuse (requestNoted s r) k
    OnlyParts [.out, .power] s t ∧ t.out = s.out ++ [.mgmt 1 0x39 0 []] ∧ t.power = { s.power with request := r, refused := true, reason := k } :=
  ⟨((emit_only s _).sub rfl).trans (((modPower_only _ _).sub rfl).trans ((modPower_only _ _).sub rfl)), rfl, rfl⟩

/-- Settles O41: the two effecters by the device state, and the request's refusal by the first condition of R392 (R408, R414). -/
theorem powerEffecters : Obligations.PowerEffecters := by
  refine fun s hs => ⟨fun w => ⟨fun h => limitEffecter_notReady hs w ?_, fun h => limitEffecter_ready hs w ?_⟩,
    fun env => ⟨fun r h0 h2 h3 => powerEffecter_other hs env h0 h2 h3, fun h r hr => powerEffecter_notReady hs env hr ?_,
      fun h r hr => powerEffecter_held hs env hr (mgmtCol_held h), fun h r hr => ?_, fun hup => ⟨fun r k hr hk => ?_, fun hk => ⟨?_, ?_⟩, fun h2 => ?_⟩⟩⟩
  · exact h.imp mgmtCol_booting (Or.imp mgmtCol_held mgmtCol_failedReset)
  · rcases h with h | h | h
    · rw [mgmtCol_up h]; decide
    · rw [mgmtCol_redealing h]; decide
    · rw [mgmtCol_failedUp h]; decide
  · exact h.imp mgmtCol_booting mgmtCol_failedReset
  · exact ⟨_, powerEffecter_redealing hs env hr (mgmtCol_redealing h), powerRefuse_requestNoted s r 4⟩
  · refine ⟨_, powerEffecter_decided hs env hr (mgmtCol_up hup), ?_⟩
    rw [powerRequest_refused _ hk (powerRefusal_requestNoted s _)]
    exact powerRefuse_requestNoted s r k
  · refine ⟨_, powerEffecter_decided hs env (.inl rfl) (mgmtCol_up hup), ?_⟩
    rw [powerRequest_accepted _ hk (powerRefusal_requestNoted s _), if_neg (by decide)]
    obtain ⟨hlevel, hreq, hidle, -⟩ := enterP2_spec (requestNoted s 2)
    exact ⟨hlevel, hreq, hidle⟩
  · refine ⟨_, powerEffecter_decided hs env (.inr rfl) (mgmtCol_up hup), ?_⟩
    rw [powerRequest_accepted _ hk (powerRefusal_requestNoted s _), if_pos (by decide)]
    obtain ⟨hcold, hlevel, hen⟩ := enterP3_spec (requestNoted s 3)
    exact ⟨hcold.lost, hlevel, hen⟩
  · obtain ⟨hlevel, -, hlink, -⟩ := leaveP2_spec (s.emit (.mgmt 1 0x39 0 [])) h2
    exact ⟨_, powerEffecter_wake hs env (mgmtCol_up hup), hlevel, hlink⟩

end Sys2Proof
end

section
/-! SUPPORT. The nonce, the flash through management, and the packets that messages come in (R400, R402, R403, R414). -/

namespace Sys2Proof

open Machine

theorem mgmtCol_ne_booting {s : State} (h : s.boot.dev ≠ .booting) : mgmtCol s ≠ .booting := by
  intro hc
  cases hd : s.boot.dev with
  | booting => exact h hd
  | failed => simp only [mgmtCol, hd] at hc; split at hc <;> cases hc
  | newSeat | ready | redealing | held => simp [mgmtCol, hd] at hc

section Commands

variable {s : State} (hs : mgmtUp s)
include hs

/-- While BOOTING a vendor command is answered BUSY (R414). -/
theorem vendor_busy {i : Instr} {cmd : Nat} {k : State → State} (hd : s.boot.dev = .booting)
    (he : exec i s = .next (vendorGo s fun s => if mgmtCol s = .booting then vendor s cmd 1 0 else k s)) : justAnswers i s 0x7F cmd 1 [0#8] :=
  exec_vendorGo_eq hs he (if_pos (mgmtCol_booting hd))

/-- After that it goes on. -/
theorem vendor_goes {i : Instr} {k : State → State} {b : State → State} (hd : s.boot.dev ≠ .booting)
    (he : exec i s = .next (vendorGo s fun s => if mgmtCol s = .booting then b s else k s)) : exec i s = .next (k s) :=
  exec_vendorGo_eq hs he (if_neg (mgmtCol_ne_booting hd))

variable (hd : s.boot.dev ≠ .booting)
include hd

theorem flashRead_answers (a n : Nat) :
    (1 ≤ n → n ≤ 256 → a + n ≤ 0x810000 → justAnswers (.flashRead a n) s 0x7F 3 0 ([0#8] ++ flashRead s.boot.flash a n)) ∧
    (n < 1 ∨ 256 < n ∨ 0x810000 < a + n → justAnswers (.flashRead a n) s 0x7F 3 2 [0#8]) := by
  have hx := vendor_goes hs hd (flashRead_runs a n s)
  refine ⟨fun h1 h2 h3 => ?_, fun h => ?_⟩
  · rwa [if_neg (by omega)] at hx
  · rwa [if_pos h] at hx

theorem flashErase_refused {a n : Nat} (ok : Bool) (h : a % 4096 ≠ 0 ∨ n < 1 ∨ 2048 < n ∨ 0x800000 < a + 4096 * n) :
    justAnswers (.flashErase a n ok) s 0x7F 4 2 [0#8] := by
  have hx := vendor_goes hs hd (flashErase_runs a n ok s)
  rwa [if_pos h] at hx

theorem flashErase_erases {a n : Nat} (ha : a % 4096 = 0) (h1 : 1 ≤ n) (h2 : n ≤ 2048) (h3 : a + 4096 * n ≤ 0x800000) :
    Runs (.flashErase a n true) s fun t => t.out.getLast? = some (.mgmt 0x7F 4 0 [0#8]) ∧ (s.boot.img.isSome = true → t.boot.imageStale = true) ∧
      ∀ x, memGet t.boot.flash.cells x = if a ≤ x ∧ x < a + 4096 * n then none else memGet s.boot.flash.cells x := by
  have hx := vendor_goes hs hd (flashErase_runs a n true s)
  rw [if_neg (by omega)] at hx
  obtain ⟨hflash, hstale⟩ := markStale_boot s
  refine ⟨_, hx, List.getLast?_concat, hstale, fun x => ?_⟩
  rw [← hflash]
  exact memGet_memDrop _ _ _ _

theorem flashWrite_refused {a : Nat} {d : List Byte} (ok : Bool)
    (h : d.length < 1 ∨ 256 < d.length ∨ 0x800000 < a + d.length ∨ a / 256 ≠ (a + d.length - 1) / 256) :
    justAnswers (.flashWrite a d ok) s 0x7F 5 2 [0#8] := by
  have hx := vendor_goes hs hd (flashWrite_runs a d ok s)
  rwa [if_pos h] at hx

omit hs hd in
/-- Erased flash takes the bytes as they are (R403). -/
theorem flashMix_flashRead {a : Nat} {d free : List Byte} (hf : free.length = d.length)
    (h : ∀ x, a ≤ x → x < a + d.length → memGet s.boot.flash.cells x = none) : flashMix (flashRead s.boot.flash a d.length) d free = d := by
  refine flashMix_erased d free _ (by simp [flashRead]) hf fun b hb => ?_
  obtain ⟨i, hi, rfl⟩ := List.mem_map.1 hb
  rw [h _ (by omega) (by have := List.mem_range.1 hi; omega)]
  rfl

theorem flashWrite_writes {a : Nat} {d : List Byte} (h1 : 1 ≤ d.length) (h2 : d.length ≤ 256) (h3 : a + d.length ≤ 0x800000)
    (h4 : a / 256 = (a + d.length - 1) / 256) (he : ∀ x, a ≤ x → x < a + d.length → memGet s.boot.flash.cells x = none) :
    Runs (.flashWrite a d true) s fun t => t.out.getLast? = some (.mgmt 0x7F 5 0 [0#8]) ∧ (s.boot.img.isSome = true → t.boot.imageStale = true) ∧
      ∀ x, (memGet t.boot.flash.cells x).getD 0xFF#8 =
        if a ≤ x ∧ x < a + d.length then d.getD (x - a) 0#8 else (memGet s.boot.flash.cells x).getD 0xFF#8 := by
  have hx := vendor_goes hs hd (flashWrite_runs a d true s)
  have hmix := flashMix_flashRead (s := s) (freeBytes_length (markStale s) d.length) he
  simp only [if_true, hmix, BEq.rfl, Bool.and_self] at hx
  rw [if_neg (by omega)] at hx
  obtain ⟨hflash, hstale⟩ := markStale_boot s
  refine ⟨_, hx, List.getLast?_concat, hstale, fun x => ?_⟩
  rw [← hflash]
  exact flashPut_get _ _ _ _

end Commands

/-! Packets. -/

section Packets

variable {s : State} {b : List Byte} {pec : Bool}

/-- A packet that is not whole, not good or not for this endpoint is dropped (R400). -/
theorem mctpPacket_elsewhere (ok : Bool) (env : BootEnv) (h : ¬ mctpHere s b pec) : mctpPacket s b pec ok env = s := by
  refine if_pos ?_
  by_contra hc
  simp only [mgmtRuns, Bool.not_eq_true', not_or, Bool.not_eq_false, Bool.and_eq_true] at hc
  obtain ⟨⟨hl, hr⟩, hp, h5, h68, hdest⟩ := hc
  exact h ⟨hl, hr, hp, by omega, by omega, by tauto⟩

variable (h : mctpHere s b pec) (ok : Bool) (env : BootEnv)
include h

theorem mctpPacket_message {as : List Assembly} {m : List Byte} (ha : assemble s.mgmt.assembly b = (as, some m)) :
    mctpPacket s b pec ok env = mgmtMessage (s.modMgmt fun x => { x with assembly := as }) m ok env := by
  rw [mctp_go h, ha]

theorem mctpPacket_waits {as : List Assembly} (ha : assemble s.mgmt.assembly b = (as, none)) :
    mctpPacket s b pec ok env = s.modMgmt fun x => { x with assembly := as } := by
  rw [mctp_go h, ha]

omit h in
/-- A first packet's payload is short of the bound on a message (R400). -/
theorem mctpHere.short (h : mctpHere s b pec) : ¬ 512 < b.length - 4 := by
  obtain ⟨-, -, -, -, h68, -⟩ := h
  omega

theorem assemble_whole (hsom : bit (field b 3 1) 7 = true) (heom : bit (field b 3 1) 6 = true) :
    assemble s.mgmt.assembly b = (otherParts s b, some (b.drop 4)) := by
  simp only [assemble, hsom, heom, List.length_drop, mctpHere.short h, decide_false, if_true, Bool.false_eq_true, if_false]
  rfl

theorem assemble_first (hsom : bit (field b 3 1) 7 = true) (heom : bit (field b 3 1) 6 = false) :
    assemble s.mgmt.assembly b =
      ({ src := field b 2 1, tag := field b 3 1 % 16, nextSeq := (bits (field b 3 1) 4 2 + 1) % 4, bytes := b.drop 4, tooLong := false } :: otherParts s b,
        none) := by
  simp only [assemble, hsom, heom, List.length_drop, mctpHere.short h, decide_false, if_true, Bool.false_eq_true, if_false]
  rfl

omit h in
theorem assemble_stray (hsom : bit (field b 3 1) 7 = false)
    (hno : ∀ a ∈ s.mgmt.assembly, ¬ (a.src = field b 2 1 ∧ a.tag = field b 3 1 % 16)) :
    assemble s.mgmt.assembly b = (s.mgmt.assembly, none) := by
  have hf : s.mgmt.assembly.find? (fun a => a.src == field b 2 1 && a.tag == field b 3 1 % 16) = none := by
    simpa [List.find?_eq_none] using hno
  simp [assemble, hsom, hf]

end Packets

/-- Settles O43: the nonce, the flash commands by their bounds, and a packet by what it is the packet of (R400, R402, R403, R414; log entry
101). -/
theorem nonceFlashAndPackets : Obligations.NonceFlashAndPackets := by
  refine ⟨fun s hs => ⟨fun hd => vendor_goes hs hd (getNonce_runs s), fun hd => ⟨vendor_busy hs hd (getNonce_runs s),
      fun a n => vendor_busy hs hd (flashRead_runs a n s), fun a n ok => vendor_busy hs hd (flashErase_runs a n ok s),
      fun a d ok => vendor_busy hs hd (flashWrite_runs a d ok s)⟩,
    fun hd => ⟨fun a n => (flashRead_answers hs hd a n).1, fun a n => (flashRead_answers hs hd a n).2, fun a n ok => flashErase_refused hs hd ok,
      fun a n => flashErase_erases hs hd, fun a d ok => flashWrite_refused hs hd ok, fun a d => flashWrite_writes hs hd⟩⟩,
    fun s b pec ok env => ⟨fun h => ?_, fun h => ⟨fun hsom heom => ?_, fun hsom heom => ?_, fun hsom hno => ?_⟩⟩⟩
  · exact (mctpPacketReceived_runs ..).trans (congrArg _ (mctpPacket_elsewhere ok env h))
  · exact (mctpPacketReceived_runs ..).trans (congrArg _ (mctpPacket_message h ok env (assemble_whole h hsom heom)))
  · refine ⟨_, (mctpPacketReceived_runs ..).trans (congrArg _ (mctpPacket_waits h ok env (assemble_first h hsom heom))),
      (State.modMgmt_moves s _ (Moves.refl 262144 s) rfl).only (covers_spec rfl), _, rfl, rfl, rfl, rfl, rfl⟩
  · exact (mctpPacketReceived_runs ..).trans (congrArg _ (mctpPacket_waits h ok env (assemble_stray hsom hno)))

end Sys2Proof
end

section
/-! SUPPORT. The SPDM exchange (R410, R411): what a request needs before it is answered, and the answers. -/

namespace Sys2Proof

open Machine

section Ready

variable {s : State} (hs : mgmtUp s) {measure needId : Bool} (k : State → State)
include hs

theorem spdmReady_unmeasured (needId : Bool) (hm : measured s = false) : spdmReady s true needId k = s.emit (.mgmt 5 0x7F 3 []) := by
  rw [spdmReady, vendorGo_up hs, if_pos (by simp [hm])]
  rfl

theorem spdmReady_early (hm : measure = true → measured s = true) (ha : s.mgmt.spdmAlgs = false) :
    spdmReady s measure needId k = s.emit (.mgmt 5 0x7F 4 []) := by
  rw [spdmReady, vendorGo_up hs, if_neg (by simpa using hm), if_pos (by simp [ha])]
  rfl

theorem spdmReady_noIdentity (hm : measure = true → measured s = true) (ha : s.mgmt.spdmAlgs = true) (hi : s.dbg.identity = false) :
    spdmReady s measure true k = s.emit (.mgmt 5 0x7F 7 []) := by
  rw [spdmReady, vendorGo_up hs, if_neg (by simpa using hm), if_neg (by simp [ha]), if_pos (by simp [hi])]
  rfl

theorem spdmReady_goes (hm : measure = true → measured s = true) (ha : s.mgmt.spdmAlgs = true) (hi : needId = true → s.dbg.identity = true) :
    spdmReady s measure needId k = k s := by
  rw [spdmReady, vendorGo_up hs, if_neg (by simpa using hm), if_neg (by simp [ha]), if_neg (by simpa using hi)]

end Ready

/-- The requests that need a measured boot (R410). -/
theorem exec_measuring {i : Instr} (h : i = .getDigests ∨ (∃ n, i = .challenge n) ∨ ∃ x g n, i = .getMeasurements x g n) (s : State) :
    ∃ needId k, exec i s = .next (spdmReady s true needId k) := by
  rcases h with rfl | ⟨n, rfl⟩ | ⟨x, g, n, rfl⟩
  · exact ⟨_, _, getDigests_runs s⟩
  · exact ⟨_, _, challenge_runs n s⟩
  · exact ⟨_, _, getMeasurements_runs x g n s⟩

section Exchange

variable {s : State} (hs : mgmtUp s)
include hs

theorem spdmCapabilities_answers :
    (s.mgmt.spdmVersion = false → justAnswers .getCapabilities s 5 0x7F 4 []) ∧
    (s.mgmt.spdmVersion = true → mgmtBecomes .getCapabilities s (fun m => { m with spdmCaps := true }) 5 0x61 0 (leBytes 4 (if s.dbg.identity then 22 else 8))) := by
  have hx := exec_vendorGo hs (getCapabilities_runs s)
  refine ⟨fun h => ?_, fun h => ?_⟩
  · rwa [if_pos (by simp [h])] at hx
  · rwa [if_neg (by simp [h])] at hx

theorem spdmAlgorithms_answers :
    (s.mgmt.spdmCaps = false → justAnswers .negotiateAlgorithms s 5 0x7F 4 []) ∧
    (s.mgmt.spdmCaps = true → mgmtBecomes .negotiateAlgorithms s (fun m => { m with spdmAlgs := true }) 5 0x63 0 ([1#8] ++ leBytes 4 0x80 ++ leBytes 4 2)) := by
  have hx := exec_vendorGo hs (negotiateAlgorithms_runs s)
  refine ⟨fun h => ?_, fun h => ?_⟩
  · rwa [if_pos (by simp [h])] at hx
  · rwa [if_neg (by simp [h])] at hx

theorem spdm_unmeasured {i : Instr} (h : i = .getDigests ∨ (∃ n, i = .challenge n) ∨ ∃ x g n, i = .getMeasurements x g n)
    (hm : measured s = false) : justAnswers i s 5 0x7F 3 [] := by
  obtain ⟨needId, k, hx⟩ := exec_measuring h s
  exact hx.trans (congrArg _ (spdmReady_unmeasured hs k needId hm))

theorem spdm_early {i : Instr} (h : (i = .getDigests ∨ (∃ n, i = .challenge n) ∨ ∃ x g n, i = .getMeasurements x g n) ∧ measured s = true ∨
    ∃ a o n, i = .getCertificate a o n) (ha : s.mgmt.spdmAlgs = false) : justAnswers i s 5 0x7F 4 [] := by
  rcases h with ⟨h, hm⟩ | ⟨a, o, n, rfl⟩
  · obtain ⟨needId, k, hx⟩ := exec_measuring h s
    exact hx.trans (congrArg _ (spdmReady_early hs k (fun _ => hm) ha))
  · exact (getCertificate_runs a o n s).trans (congrArg _ (spdmReady_early hs _ nofun ha))

variable (ha : s.mgmt.spdmAlgs = true)
include ha

theorem spdm_noIdentity (hi : s.dbg.identity = false) :
    (∀ a o n, justAnswers (.getCertificate a o n) s 5 0x7F 7 []) ∧
    (measured s = true → justAnswers .getDigests s 5 0x7F 7 [] ∧ ∀ n, justAnswers (.challenge n) s 5 0x7F 7 []) :=
  ⟨fun a o n => (getCertificate_runs a o n s).trans (congrArg _ (spdmReady_noIdentity hs _ nofun ha hi)), fun hm =>
    ⟨(getDigests_runs s).trans (congrArg _ (spdmReady_noIdentity hs _ (fun _ => hm) ha hi)),
      fun n => (challenge_runs n s).trans (congrArg _ (spdmReady_noIdentity hs _ (fun _ => hm) ha hi))⟩⟩

theorem spdmCertificate_answers (hi : s.dbg.identity = true) :
    (∀ a o n, a ≠ 0 ∨ (certChain s).length < o → justAnswers (.getCertificate a o n) s 5 0x7F 1 []) ∧
    (∀ o n, o ≤ (certChain s).length → ∃ part, part = ((certChain s).drop o).take (min 256 n) ∧ part.length ≤ 256 ∧
      justAnswers (.getCertificate 0 o n) s 5 0x02 0 (leBytes 2 part.length ++ leBytes 2 ((certChain s).length - o - part.length) ++ part)) := by
  have hx := fun a o n => (getCertificate_runs a o n s).trans (congrArg _ (spdmReady_goes hs _ nofun ha fun _ => hi))
  refine ⟨fun a o n h => (hx a o n).trans (congrArg _ (if_pos h)), fun o n ho => ⟨_, rfl, ?_, (hx 0 o n).trans (congrArg _ (if_neg (by omega)))⟩⟩
  rw [List.length_take]
  omega

variable (hm : measured s = true)
include hm

theorem spdmDigests_answers (hi : s.dbg.identity = true) : justAnswers .getDigests s 5 0x01 0 ([1#8] ++ sha384 (certChain s)) :=
  (getDigests_runs s).trans (congrArg _ (spdmReady_goes hs _ (fun _ => hm) ha fun _ => hi))

theorem spdmChallenge_answers (hi : s.dbg.identity = true) (n : List Byte) :
    Runs (.challenge n) s fun t => OnlyParts [.freeCtr, .out] s t ∧ ∃ fresh body, fresh.length = 32 ∧
      body = sha384 (certChain s) ++ fresh ++ sha384 ((rangeFrom 1 5).flatMap (measureBlock s)) ∧
      t.out = s.out ++ [.mgmt 5 0x03 0 (body ++ identitySign s (n ++ body))] := by
  have hx := (challenge_runs n s).trans (congrArg _ (spdmReady_goes hs _ (fun _ => hm) ha fun _ => hi))
  exact ⟨_, hx, ((exec_within _ s).only_of hx).sub rfl, _, _, freeBytes_length s 32, rfl, rfl⟩

theorem spdmMeasurements_refused {x : Nat} (h5 : 5 < x) (hx : x ≠ 0xFF) (g : Bool) (n : List Byte) :
    justAnswers (.getMeasurements x g n) s 5 0x7F 1 [] := by
  refine (getMeasurements_runs x g n s).trans (congrArg _ ((spdmReady_goes hs (needId := false) _ (fun _ => hm) ha nofun).trans (if_pos ⟨?_, by omega⟩)))
  rw [if_neg hx, if_neg (by omega)]

theorem spdmMeasurements_answers {x : Nat} {is : List Nat} (g : Bool) (n : List Byte)
    (h : (if x = 0xFF then rangeFrom 1 5 else if 1 ≤ x ∧ x ≤ 5 then [x] else []) = is) (h0 : is = [] → x = 0) :
    justAnswers (.getMeasurements x g n) s 5 0x60 0 (let body := [5#8] ++ is.flatMap (measureBlock s)
      if g && s.dbg.identity then body ++ identitySign s (n ++ body) else body) := by
  subst h
  exact (getMeasurements_runs x g n s).trans (congrArg _ ((spdmReady_goes hs (needId := false) _ (fun _ => hm) ha nofun).trans
    (if_neg fun hc => hc.2 (h0 hc.1))))

end Exchange

/-- Settles O44: the exchange in its order, and each answer (R410, R411; log entries 1 and 101). -/
theorem spdmAnswers : Obligations.SpdmAnswers := by
  intro s hs
  refine ⟨exec_vendorGo hs (getVersion_runs s), (spdmCapabilities_answers hs).1, (spdmCapabilities_answers hs).2, (spdmAlgorithms_answers hs).1,
    (spdmAlgorithms_answers hs).2, fun i => spdm_unmeasured hs, fun i => spdm_early hs, fun ha => ⟨spdm_noIdentity hs ha, fun hi => ?_, fun hm g n => ?_⟩⟩
  · obtain ⟨hrefused, hpart⟩ := spdmCertificate_answers hs ha hi
    exact ⟨hrefused, hpart, fun hm => ⟨spdmDigests_answers hs ha hm hi, spdmChallenge_answers hs ha hm hi⟩⟩
  · refine ⟨fun x h5 hx => spdmMeasurements_refused hs ha hm h5 hx g n, fun x => ⟨fun h1 h5 hg => ?_, fun h1 h5 hg hi => ?_⟩, fun hg => ⟨?_, ?_⟩⟩
    · have ht := spdmMeasurements_answers hs ha hm (x := x) (is := [x]) g n (by rw [if_neg (by omega), if_pos ⟨h1, h5⟩]) nofun
      simpa [hg] using ht
    · have ht := spdmMeasurements_answers hs ha hm (x := x) (is := [x]) g n (by rw [if_neg (by omega), if_pos ⟨h1, h5⟩]) nofun
      simpa [hg, hi] using ht
    · have ht := spdmMeasurements_answers hs ha hm (x := 0) (is := []) g n rfl fun _ => rfl
      simpa [hg] using ht
    · have ht := spdmMeasurements_answers hs ha hm (x := 0xFF) (is := rangeFrom 1 5) g n rfl nofun
      subst hg
      exact ht

end Sys2Proof
end

section
/-! SUPPORT. Power states, the power limit and temperatures (R392 to R395, R429, R436, R437). -/

namespace Sys2Proof

open Machine

/-! Register writes in P2. -/

/-- A write of a register that does not act in P2 waits there, behind the writes that wait already (R393; log entry 99). -/
theorem writeAt_waits {c : Instr} {fn off : Nat} {k : State → State} {s : State} (ha : actsInP2 fn off = false) (hp : s.power.level = 2) :
    writeAt c fn off k s = { s with held := s.held ++ [c] } := by
  rw [writeAt, if_neg (by simp [ha]), inP0, if_pos (by simp [writesWait, hp])]

/-! PWR_CTRL. -/

section Requests

variable {s : State} (wake : Bool) (hr : (regAt s 0 (pwrOff 0x8)).isSome = true)
include hr

theorem pwrRequestP2_goes : exec (.pwrRequestP2 wake) s = .next (powerRequest (powerWrite s 2 wake) false) :=
  (pwrRequestP2_runs wake s).trans (congrArg _ (viaReg_pos hr))

theorem pwrRequestP3_goes : exec (.pwrRequestP3 wake) s = .next (powerRequest (powerWrite s 3 wake) true) :=
  (pwrRequestP3_runs wake s).trans (congrArg _ (viaReg_pos hr))

theorem pwrRequestP0_goes : exec (.pwrRequestP0 wake) s = .next (leaveP2 (powerWrite s 0 wake)) :=
  (pwrRequestP0_runs wake s).trans (congrArg _ (viaReg_pos hr))

end Requests

theorem powerRefusal_powerWrite (s : State) (r : Nat) (wake : Bool) : powerRefusal (powerWrite s r wake) = powerRefusal s := rfl

/-- Settles O15: writes wait in P2, and a request of PWR_CTRL by the first condition of R392 that fails (R392 to R394, R429). -/
theorem powerRequests : Obligations.PowerRequests := by
  refine ⟨fun s fn off v w ha hp => ⟨congrArg Host.Outcome.next (writeAt_waits ha hp), congrArg Host.Outcome.next (writeAt_waits ha hp),
      congrArg Host.Outcome.next (writeAt_waits ha hp)⟩,
    fun s wake hr => ⟨fun k hk => ⟨?_, ?_⟩, fun hk => ⟨?_, ?_⟩, fun h2 => ?_⟩⟩
  · rw [pwrRequestP2_goes wake hr, powerRequest_refused _ hk (powerRefusal_powerWrite s 2 wake)]
    rfl
  · rw [pwrRequestP3_goes wake hr, powerRequest_refused _ hk (powerRefusal_powerWrite s 3 wake)]
    rfl
  · refine ⟨_, pwrRequestP2_goes wake hr, ?_⟩
    rw [powerRequest_accepted _ hk (powerRefusal_powerWrite s 2 wake), if_neg (by decide)]
    exact enterP2_spec (powerWrite s 2 wake)
  · refine ⟨_, pwrRequestP3_goes wake hr, ?_⟩
    rw [powerRequest_accepted _ hk (powerRefusal_powerWrite s 3 wake), if_pos rfl]
    obtain ⟨hcold, hlevel, hen⟩ := enterP3_spec (powerWrite s 3 wake)
    exact ⟨cold_congr hcold rfl rfl rfl rfl rfl, hlevel, hen⟩
  · exact ⟨_, pwrRequestP0_goes wake hr, leaveP2_spec (powerWrite s 0 wake) h2⟩

/-! The power limit, the rails and the temperatures. -/

theorem avsTimeout_uncommanded {s : State} {rail : Nat} (h : alookup s.power.rails rail = none) (readBack : Nat) :
    avsTimeout s rail readBack = s := by
  rw [avsTimeout, h]

theorem avsTimeout_commanded {s : State} {rail mv : Nat} (h : alookup s.power.rails rail = some mv) (readBack : Nat) :
    avsTimeout s rail readBack =
      if (alookup s.power.avsTries rail).getD 0 < 3 then
        (s.modPower fun p => { p with avsTries := ainsert p.avsTries rail ((alookup s.power.avsTries rail).getD 0 + 1) }).emit (.avs rail mv)
      else s.modPower fun p => { p with rails := ainsert p.rails rail readBack, avsTries := aerase p.avsTries rail, boostWithheld := true } := by
  rw [avsTimeout, h]

/-- Settles O16: the check of the power limit, the retries of a rail command, and a sample of the temperatures (R395, R429, R436, R437; log
entry 100). -/
theorem powerLimitAndRails : Obligations.PowerLimitAndRails := by
  refine ⟨fun s avg sample hr ha hs => ?_, fun s rail readBack => ⟨fun mv hmv hn => ?_, fun hc hn => ?_, fun hno => ?_⟩,
    fun s temps ht hr hq => ⟨fun h1 h2 h3 => ?_, fun h1 h2 => ?_⟩⟩
  · obtain ⟨havg, hpeak, hover, hunder, hbetween⟩ := limitCheck_spec s avg sample hr ha hs
    have hx := powerLimitCheck_runs avg sample s
    exact ⟨_, hx, havg, hpeak, hover, hunder, hbetween, ((exec_within _ s).only_of hx).sub rfl⟩
  · refine ⟨_, (avsbusCommandTimeout_runs ..).trans (congrArg _ ((avsTimeout_commanded hmv readBack).trans (if_pos hn))), rfl, rfl,
      alookup_ainsert_same _ _ _, ((modPower_only s _).sub rfl).trans ((emit_only _ _).sub rfl)⟩
  · obtain ⟨mv, hmv⟩ := Option.isSome_iff_exists.1 hc
    exact ⟨_, (avsbusCommandTimeout_runs ..).trans (congrArg _ ((avsTimeout_commanded hmv readBack).trans (if_neg (by omega)))),
      alookup_ainsert_same _ _ _, rfl, alookup_aerase_same _ _, modPower_only s _⟩
  · exact (avsbusCommandTimeout_runs ..).trans (congrArg _ (avsTimeout_uncommanded hno readBack))
  · exact (thermalSample_runs temps s).trans (congrArg _ (thermal_cool s temps ht hr hq h1 h2 h3))
  · exact ⟨_, thermalSample_runs temps s, thermal_hot s temps ht hr hq h1 h2⟩

end Sys2Proof
end

section
/-! SUPPORT. What holds the main dies or stops the Lamphouse (Table 17.8, R364 to R366, R434, R435). -/

namespace Sys2Proof

open Machine

theorem resetFall_cold {s : State} (h : s.boot.released = true) : coldStarted s (resetFall s) ∧ (resetFall s).boot.resetL = false := by
  have he : resetFall s = mainReset (s.modBoot fun b => { b with resetL := false }) .held := if_pos h
  rw [he]
  exact ⟨cold_congr (mainReset_cold _) rfl rfl rfl rfl rfl, by rw [mainReset_keeps]; rfl⟩

section Qualified

variable {s : State} (hr : s.boot.released = true) (hq : s.boot.qualified = true)
include hr hq

theorem pwrokFall_cold : coldStarted s (pwrokFall s) ∧ (pwrokFall s).boot.pwrok = false ∧ (pwrokFall s).boot.qualified = false := by
  obtain ⟨hc, hp, -, -, -, hn⟩ := qualify_cold s (fun b => { b with pwrok := false }) hr hq (by simp [powerGood]) rfl rfl rfl rfl rfl rfl
  exact ⟨hc, hp, hn⟩

theorem railFault_cold : coldStarted s (railFault s) ∧ (railFault s).boot.railsOk = false ∧ (railFault s).boot.qualified = false := by
  obtain ⟨hc, -, hf, -, -, hn⟩ := qualify_cold s (fun b => { b with railsOk := false }) hr hq (by simp [powerGood]) rfl rfl rfl rfl rfl rfl
  exact ⟨hc, hf, hn⟩

theorem refclkLoss_cold : coldStarted s (refclkLoss s) ∧ (refclkLoss s).boot.refclk = false ∧ (refclkLoss s).boot.qualified = false := by
  obtain ⟨hc, -, -, hf, -, hn⟩ := qualify_cold s (fun b => { b with refclk := false }) hr hq (by simp [powerGood]) rfl rfl rfl rfl rfl rfl
  exact ⟨hc, hf, hn⟩

theorem crystalLoss_cold : coldStarted s (crystalLoss s) ∧ (crystalLoss s).boot.crystal = false ∧ (crystalLoss s).boot.qualified = false := by
  obtain ⟨hc, -, -, -, hf, hn⟩ := qualify_cold s (fun b => { b with crystal := false }) hr hq (by simp [powerGood]) rfl rfl rfl rfl rfl rfl
  exact ⟨hc, hf, hn⟩

end Qualified

/-- A fall of STBY_PWROK stops the Lamphouse: beside the board's pins only flash, fuses and temperatures are kept (R364, R435). -/
theorem stbyFall_stops (s : State) :
    let t := stbyFall s
    t.boot.stbyPwrok = false ∧ t.boot.lamphouse = false ∧ t.boot.released = false ∧ t.boot.img = none ∧ t.boot.mainEn = false ∧
      t.boot.flash = s.boot.flash ∧ t.boot.fuses = s.boot.fuses ∧ mainLost t ∧ t.mgmt = {} ∧ t.dbg = {} ∧
      ∃ ys, t.out = s.out ++ ys ++ [.pin "MAIN_EN" false] := by
  have hb := silence_boot s
  obtain ⟨ys, hy⟩ := (silencePorts_moves s (Moves.refl 8 s) rfl).sent
  unfold stbyFall
  generalize silencePorts s = u at hb hy
  have hflash : u.boot.flash = s.boot.flash := congrArg Boot.flash hb
  have hfuses : u.boot.fuses = s.boot.fuses := congrArg Boot.fuses hb
  refine ⟨rfl, rfl, rfl, rfl, rfl, hflash, hfuses, ⟨rfl, rfl, rfl, rfl, rfl, rfl, rfl, rfl, rfl, rfl, rfl, rfl, rfl, rfl, rfl⟩,
    rfl, rfl, ys, ?_⟩
  rw [← hy]
  rfl

theorem heldAlarm_latches {s : State} (hl : s.boot.lamphouse = true) (hr : s.boot.released = false) (hp : s.power.level ≠ 3)
    (hh : s.boot.resetL = false ∨ s.boot.qualified = false) :
    (heldAlarm s).boot = { s.boot with heldAlert := true } ∧ (heldAlarm s).mgmt.alerts.testBit 0 = true := by
  have he : heldAlarm s = alertLatch (s.modBoot fun b => { b with heldAlert := true }) 0 :=
    if_pos ⟨hl, by simp [hr], hp, by simpa using hh⟩
  rw [he]
  exact ⟨by simp, alertLatch_bit _ _⟩

/-- Settles O14: each pin and condition that holds the dies starts them cold, STBY_PWROK stops the Lamphouse, and a long hold latches cause
0 (R364 to R366, R434, R435). -/
theorem coldStartEvents : Obligations.ColdStartEvents := by
  refine fun s => ⟨fun hr => ⟨⟨_, resetLFall_runs s, resetFall_cold hr⟩, fun hq => ⟨⟨_, pwrokFall_runs s, pwrokFall_cold hr hq⟩,
      ⟨_, railMonitorFault_runs s, railFault_cold hr hq⟩, ⟨_, refclkSzLoss_runs s, refclkLoss_cold hr hq⟩, ⟨_, crystalLoss_runs s, crystalLoss_cold hr hq⟩⟩⟩,
    ⟨_, stbyPwrokFall_runs s, stbyFall_stops s⟩, fun hl hr hp hh => ?_⟩
  have hx := resetHeldAlert_runs s
  obtain ⟨hboot, hbit⟩ := heldAlarm_latches hl hr hp hh
  exact ⟨_, hx, hboot, hbit, ((exec_within _ s).only_of hx).sub rfl⟩

end Sys2Proof
end

section
/-! SUPPORT. Fences of units, and FENCE_CLEAR (R368 to R370). -/

namespace Sys2Proof

open Machine

/-- A unit that is fenced already is not fenced again (R368). -/
theorem fence_fenced {s : State} {cls i : Nat} (h : (unitOf s cls i).fenced = true) (r : Nat) : fence s cls i r = s := if_pos (.inl h)

section Marks

variable {s : State} {cls i : Nat} (hc : cls < 4) (hi : i < classSize cls) {f : FenceUnit → FenceUnit} (hf : ∀ u, (f u).fenced = u.fenced)
include hc hi hf

/-- A change of a unit's flag fences a unit that is not fenced, and nothing else of one that is (R368). -/
theorem fence_modUnit (r : Nat) :
    ((unitOf s cls i).fenced = false → unitOf (fence (s.modUnit cls i f) cls i r) cls i = { f (unitOf s cls i) with fenced := true, agreed := 0 } ∧
      (fence (s.modUnit cls i f) cls i r).fences.fenceCount = satInc 32 s.fences.fenceCount ∧
      (fence (s.modUnit cls i f) cls i r).mgmt.alerts.testBit 8 = true) ∧
    ((unitOf s cls i).fenced = true → fence (s.modUnit cls i f) cls i r = s.modUnit cls i f) := by
  have hu : unitOf (s.modUnit cls i f) cls i = f (unitOf s cls i) := unitOf_modUnit s hc hi f
  have hcount : (s.modUnit cls i f).fences.fenceCount = s.fences.fenceCount := by
    match cls, hc with
    | 0, _ | 1, _ | 2, _ | 3, _ => rfl
  refine ⟨fun h => ?_, fun h => fence_fenced (by rw [hu, hf, h]) r⟩
  obtain ⟨hunit, hinc, halert⟩ := fence_unit hc hi (s := s.modUnit cls i f) (by rw [hu, hf, h]) r
  exact ⟨by rw [hunit, hu], by rw [hinc, hcount], halert⟩

end Marks

section Clear

variable {s : State} {seq l : Nat} {lv : Level} {b : List Byte} (h : cmdStarts s 8 seq l 0x46 lv b)
include h

theorem fenceClear_starts : exec (.fenceClear seq l) s = .next (let u := unitOf s (field b 6 1) (field b 8 2)
    let s1 := passCmd s 8 seq l b
    if !u.fenced then completeCmd s1 8 seq l lv.pc
    else if !(u.powered && u.enabled) then failAt s1 8 seq l lv.pc 0x0702 (field b 6 1 + 2 ^ 8 * field b 8 2)
    else completeCmd (unfence (s1.modUnit (field b 6 1) (field b 8 2) fun u => { u with faulted := false }) (field b 6 1) (field b 8 2) 2) 8 seq l lv.pc) := by
  obtain ⟨hd, hn, -⟩ := h
  rw [fenceClear_runs seq l s hd, fenceClear, hn]

/-- The level's command has completed once it has passed it and nothing else moved the ledger. -/
theorem levelOf_passed {u : State} (hu : u.dl.items = (passCmd s 8 seq l b).dl.items) :
    levelOf (completeCmd u 8 seq l lv.pc) 8 seq l = some (cmdDone lv b) := by
  obtain ⟨-, hn, -⟩ := h
  obtain ⟨i, -, -, -, -, -, -, -, hlv⟩ := nextCmd_some hn
  rw [levelOf_completeCmd, levelOf_congr hu, levelOf_passCmd, hlv]
  rfl

theorem fenceClear_unfenced (hf : (unitOf s (field b 6 1) (field b 8 2)).fenced = false) :
    Runs (.fenceClear seq l) s fun t => levelOf t 8 seq l = some (cmdDone lv b) ∧ OnlyParts [.dl] s t :=
  ⟨_, (fenceClear_starts h).trans (congrArg _ (if_pos (by simp [hf]))), levelOf_passed h rfl,
    (passCmd_parts s 8 seq l b).trans ((completeCmd_moves _ 8 seq l lv.pc (Moves.refl 128 _) rfl).only (covers_spec rfl))⟩

/-- The steward's clear of a unit that the Lamphouse does not call powered and enabled fails (R370). -/
theorem fenceClear_unready (hf : (unitOf s (field b 6 1) (field b 8 2)).fenced = true)
    (hn : (unitOf s (field b 6 1) (field b 8 2)).powered = false ∨ (unitOf s (field b 6 1) (field b 8 2)).enabled = false) :
    Runs (.fenceClear seq l) s fun t => itemFails t 8 seq 0x0702 ∧ OnlyParts [.dl] s t := by
  have hx := fenceClear_starts h
  dsimp only at hx
  rw [if_neg (by simp [hf]), if_pos (by rcases hn with hn | hn <;> simp [hn])] at hx
  obtain ⟨-, hnext, -⟩ := h
  exact ⟨_, hx, fails_of_pass hnext rfl _ _ _,
    (passCmd_parts s 8 seq l b).trans ((failAt_moves _ 8 seq l lv.pc _ _ (Moves.refl 128 _) rfl).only (covers_spec rfl))⟩

theorem fenceClear_ends (hc : field b 6 1 < 4) (hi : field b 8 2 < classSize (field b 6 1)) (hf : (unitOf s (field b 6 1) (field b 8 2)).fenced = true)
    (hp : (unitOf s (field b 6 1) (field b 8 2)).powered = true) (he : (unitOf s (field b 6 1) (field b 8 2)).enabled = true) :
    Runs (.fenceClear seq l) s fun t => levelOf t 8 seq l = some (cmdDone lv b) ∧
      unitOf t (field b 6 1) (field b 8 2) = { unitOf s (field b 6 1) (field b 8 2) with faulted := false, fenced := false } := by
  have hx := fenceClear_starts h
  dsimp only at hx
  rw [if_neg (by simp [hf]), if_neg (by simp [hp, he])] at hx
  obtain ⟨hunit, hdl⟩ := unfence_unit hc hi 2 (s := (passCmd s 8 seq l b).modUnit (field b 6 1) (field b 8 2) fun u => { u with faulted := false })
  refine ⟨_, hx, levelOf_passed h (congrArg Dealer.items hdl), ?_⟩
  rw [unitOf_fences (completeCmd_fences ..), hunit, unitOf_modUnit _ hc hi, unitOf_fences ((passCmd_parts s 8 seq l b) .fences (by decide))]

end Clear

/-- Settles O35: a unit's fault or its loss fences it at once, and FENCE_CLEAR ends a fence (R368 to R370; log entry 88). -/
theorem unitFences : Obligations.UnitFences := by
  refine fun s cls x hc hi => ⟨fun hd => ?_, fun seq l lv b hs hcls hx => ?_⟩
  · obtain ⟨hfault, hkept⟩ := fence_modUnit hc hi (s := s) (f := fun u => { u with faulted := true }) (fun _ => rfl) 2
    refine ⟨fun hf => ⟨_, dealerUnitFault_runs cls x s hd, hfault hf⟩, fun hf => (dealerUnitFault_runs cls x s hd).trans (congrArg _ (hkept hf)), fun power => ?_⟩
    obtain ⟨hlost, hkept⟩ := fence_modUnit hc hi (s := s) (f := fun u => if power then { u with powered := false } else { u with enabled := false })
      (fun u => by cases power <;> rfl) 3
    exact ⟨fun hf => ⟨_, lamphouseUnitDisable_runs cls x power s hd, hlost hf⟩,
      fun hf => (lamphouseUnitDisable_runs cls x power s hd).trans (congrArg _ (hkept hf))⟩
  · subst hcls hx
    exact ⟨fenceClear_unfenced hs, fenceClear_unready hs, fenceClear_ends hs hc hi⟩

end Sys2Proof
end

section
/-! SUPPORT. Security blocks through SEC_CMD and through management (R377, R378, R382 to R384, R404). -/

namespace Sys2Proof

open Machine

/-! What the statements say of a state depends on few parts of it. -/

theorem slotBlown.of {s u t : State} {b : List Byte} (h : slotBlown s u b) (hb : t.boot = u.boot) : slotBlown s t b := hb.trans h

theorem grantLives.of {s u t : State} {b : List Byte} (h : grantLives s u b) (hg : t.dbg.grants = u.dbg.grants) (hst : t.dbg.st = u.dbg.st)
    (hb : t.boot = u.boot) : grantLives s t b := by
  unfold grantLives
  rw [hg, hst, hb]
  exact h

theorem grantOver.of {s u t : State} {n : Nat} (h : grantOver s u n) (hg : t.dbg.grants = u.dbg.grants) (hw : t.dbg.wins = u.dbg.wins)
    (hst : t.dbg.st = u.dbg.st) (hb : t.boot = u.boot) : grantOver s t n := by
  unfold grantOver
  rw [hg, hw, hst, hb]
  exact h

/-! SEC_CMD. -/

/-- SEC_CMD has completed with a code, and a new nonce is drawn (R377). -/
def secDone (u : State) (code : Nat) : State := drawNonce (u.modDbg fun d => { d with done := true, code := code })

theorem secDone_boot (u : State) (code : Nat) : (secDone u code).boot = u.boot := rfl

/-- A block outside the windows, or one whose read fails, is refused with 0x02 (log entry 92). -/
theorem secBlock_unread {s : State} {len : Nat} {r : HostResp} (k : State → List Byte → State × Nat)
    (h : hostOk s 0 (32 * s.dbg.cmdAddr) len = false ∨ r = .err) : ∃ u, secBlock s len r k = secDone u 2 ∧ u.boot = s.boot := by
  unfold secBlock
  dsimp only
  cases hok : hostOk s 0 (32 * s.dbg.cmdAddr) len with
  | false => exact ⟨_, rfl, rfl⟩
  | true =>
    obtain rfl : r = .err := by simpa [hok] using h
    exact ⟨_, rfl, rfl⟩

theorem secBlock_read {s : State} {len : Nat} {b : List Byte} (k : State → List Byte → State × Nat)
    (hok : hostOk s 0 (32 * s.dbg.cmdAddr) len = true) (hb : b.length = len) :
    secBlock s len (.ok b) k = let r := k (s.emit (.hostRead 0 (32 * s.dbg.cmdAddr) len)) b
      secDone r.1 r.2 := by
  rw [secBlock, hok, readHost_ok, bytesAt_whole hb]
  rfl

section Commands

variable {s : State} (hr : (regAt s 0 (secOff 0x18)).isSome = true)
include hr

theorem secKeySlot_unread (r : HostResp) (v : Bool) (h : hostOk s 0 (32 * s.dbg.cmdAddr) 256 = false ∨ r = .err) :
    Runs (.secKeySlot r v) s fun t => t.dbg.code = 2 ∧ t.boot = s.boot ∧ nonceDrawn t := by
  obtain ⟨u, hu, hboot⟩ := secBlock_unread (fun s b => keySlotBlock s b v) h
  exact ⟨_, (secKeySlot_runs r v s).trans (congrArg _ ((viaReg_pos hr).trans hu)), rfl, hboot, nonce_ok _⟩

theorem secKeySlot_read {b : List Byte} (v : Bool) (hok : hostOk s 0 (32 * s.dbg.cmdAddr) 256 = true) (hb : b.length = 256) :
    Runs (.secKeySlot (.ok b) v) s fun t => let c := firstCode (keyChecks s b)
      nonceDrawn t ∧ t.dbg.done = true ∧ t.dbg.code = (if c ≠ 0 then c else if v then 0 else 0x0F) ∧ (c ≠ 0 → t.boot = s.boot) ∧
        (c = 0 → v = true → slotBlown s t b) := by
  obtain ⟨hcode, hkept, hblown⟩ := keySlot_spec (s.emit (.hostRead 0 (32 * s.dbg.cmdAddr) 256)) b v
  refine ⟨_, (secKeySlot_runs _ v s).trans (congrArg _ ((viaReg_pos hr).trans (secBlock_read _ hok hb))), ?_⟩
  dsimp only
  generalize keySlotBlock (s.emit (.hostRead 0 (32 * s.dbg.cmdAddr) 256)) b v = r at hcode hkept hblown ⊢
  refine ⟨nonce_ok _, rfl, hcode, fun hc => ?_, fun hc hv => (hblown hc hv).of rfl⟩
  rw [secDone_boot, hkept hc]
  rfl

theorem secDebugGrant_read {b : List Byte} (hok : hostOk s 0 (32 * s.dbg.cmdAddr) 224 = true) (hb : b.length = 224) :
    Runs (.secDebugGrant (.ok b)) s fun t => let c := firstCode (grantChecks s b)
      nonceDrawn t ∧ t.dbg.done = true ∧ t.dbg.code = c ∧ (c ≠ 0 → t.dbg.grants = s.dbg.grants ∧ t.dbg.st = s.dbg.st) ∧ (c = 0 → grantLives s t b) := by
  obtain ⟨hcode, hkept, hlives⟩ := grant_spec (s.emit (.hostRead 0 (32 * s.dbg.cmdAddr) 224)) b
  exact ⟨_, (secDebugGrant_runs _ s).trans (congrArg _ ((viaReg_pos hr).trans (secBlock_read _ hok hb))), nonce_ok _, rfl, hcode,
    fun hc => ⟨congrArg (·.dbg.grants) (hkept hc), congrArg (·.dbg.st) (hkept hc)⟩, fun hc => (hlives hc).of rfl rfl rfl⟩

end Commands

/-- A revocation ends a live grant and is accepted in any case (R384). -/
theorem revokeGrant_spec (s : State) {n : Nat} (hn : n < 8) : (revokeGrant s n).2 = 0 ∧
    ((tget s.dbg.grants n).live = true → grantOver s (revokeGrant s n).1 n) ∧
    ((tget s.dbg.grants n).live = false → (revokeGrant s n).1.dbg.grants = s.dbg.grants) := by
  refine ⟨rfl, fun hl => ?_, fun hl => ?_⟩
  · rw [revokeGrant, if_pos hl]
    exact endGrant_spec s hn hl
  · rw [revokeGrant, if_neg (by simp [hl]), secEvent_dbg]

theorem secDebugRevoke_answers {s : State} (hr : (regAt s 0 (secOff 0x18)).isSome = true) {n : Nat} (hn : n < 8) :
    Runs (.secDebugRevoke n) s fun t => t.dbg.done = true ∧ t.dbg.code = 0 ∧
      ((tget s.dbg.grants n).live = true → grantOver s t n) ∧ ((tget s.dbg.grants n).live = false → t.dbg.grants = s.dbg.grants) := by
  obtain ⟨hcode, hover, hkept⟩ := revokeGrant_spec s hn
  refine ⟨_, (secDebugRevoke_runs n s).trans (congrArg _ (viaReg_pos hr)), rfl, hcode, ?_⟩
  rw [Nat.mod_eq_of_lt hn]
  exact ⟨fun hl => (hover hl).of rfl rfl rfl rfl, hkept⟩

theorem debugGrantExpiry_answers {s : State} (hd : diesUp s = true) {n : Nat} (hn : n < 8) :
    ((tget s.dbg.grants n).live = false → exec (.debugGrantExpiry n) s = .next s) ∧
    ((tget s.dbg.grants n).live = true → Runs (.debugGrantExpiry n) s fun t => grantOver s t n) :=
  ⟨fun hl => (debugGrantExpiry_runs n s hd).trans (congrArg _ (if_neg (by simp [hl]))),
    fun hl => ⟨_, debugGrantExpiry_runs n s hd, endGrant_spec s hn hl⟩⟩

/-! The same through management. -/

section Management

variable {s : State} (hs : mgmtUp s)
include hs

theorem mgmtSecurity_busy (hd : s.boot.dev = .booting) (b : List Byte) (v : Bool) (n : Nat) :
    justAnswers (.mgmtSecurityKeySlot b v) s 0x7F 2 1 [0#8] ∧ justAnswers (.mgmtSecurityDebugGrant b) s 0x7F 2 1 [0#8] ∧
      justAnswers (.mgmtSecurityDebugRevoke n) s 0x7F 2 1 [0#8] ∧ ∀ env, justAnswers (.mgmtSecurityVendorOpen b env) s 0x7F 2 1 [0#8] := by
  have hcol := mgmtCol_booting hd
  refine ⟨vendor_busy hs hd (mgmtSecurityKeySlot_runs b v s), exec_vendorGo_eq hs (mgmtSecurityDebugGrant_runs b s) ?_,
    exec_vendorGo_eq hs (mgmtSecurityDebugRevoke_runs n s) ?_, fun env => exec_vendorGo_eq hs (mgmtSecurityVendorOpen_runs b env s) ?_⟩
  all_goals rw [hcol]; rfl

theorem mgmtKeySlot_answers (hd : s.boot.dev ≠ .booting) {b : List Byte} (v : Bool) (hb : b.length = 256) :
    Runs (.mgmtSecurityKeySlot b v) s fun t => let c := firstCode (keyChecks s b)
      let code := if c ≠ 0 then c else if v then 0 else 0x0F
      nonceDrawn t ∧ t.out.getLast? = some (.mgmt 0x7F 2 (if code = 0 then 0 else 5) (leBytes 1 code)) ∧ (c ≠ 0 → t.boot = s.boot) ∧
        (c = 0 → v = true → slotBlown s t b) := by
  have hx := vendor_goes hs hd (mgmtSecurityKeySlot_runs b v s)
  rw [if_neg (by simp [hb])] at hx
  obtain ⟨hcode, hkept, hblown⟩ := keySlot_spec s b v
  refine ⟨_, hx, ?_⟩
  generalize keySlotBlock s b v = r at hcode hkept hblown ⊢
  refine ⟨nonce_ok _, ?_, fun hc => (congrArg State.boot (hkept hc) : r.1.boot = s.boot), fun hc hv => (hblown hc hv).of rfl⟩
  rw [← hcode]
  exact List.getLast?_concat

variable (hup : s.boot.dev = .newSeat ∨ s.boot.dev = .ready)
include hup

theorem mgmtGrant_answers {b : List Byte} (hb : b.length = 224) :
    Runs (.mgmtSecurityDebugGrant b) s fun t => let c := firstCode (grantChecks s b)
      nonceDrawn t ∧ t.out.getLast? = some (.mgmt 0x7F 2 (if c = 0 then 0 else 5) (leBytes 1 c)) ∧ (c ≠ 0 → t.dbg.grants = s.dbg.grants) ∧
        (c = 0 → grantLives s t b) := by
  have hx := exec_vendorGo hs (mgmtSecurityDebugGrant_runs b s)
  simp only [mgmtCol_up hup, hb, ne_eq, not_true_eq_false, if_false] at hx
  obtain ⟨hcode, hkept, hlives⟩ := grant_spec s b
  refine ⟨_, hx, nonce_ok _, ?_, fun hc => congrArg (·.dbg.grants) (hkept hc), fun hc => (hlives hc).of rfl rfl rfl⟩
  rw [← hcode]
  exact List.getLast?_concat

theorem mgmtRevoke_answers {n : Nat} (hn : n < 8) :
    Runs (.mgmtSecurityDebugRevoke n) s fun t => t.out.getLast? = some (.mgmt 0x7F 2 0 [0#8]) ∧
      ((tget s.dbg.grants n).live = true → grantOver s t n) ∧ ((tget s.dbg.grants n).live = false → t.dbg.grants = s.dbg.grants) := by
  have hx := exec_vendorGo hs (mgmtSecurityDebugRevoke_runs n s)
  simp only [mgmtCol_up hup, Nat.not_lt.2 (Nat.le_of_lt_succ hn), if_false] at hx
  obtain ⟨-, hover, hkept⟩ := revokeGrant_spec s hn
  exact ⟨_, hx, List.getLast?_concat, fun hl => (hover hl).of rfl rfl rfl rfl, hkept⟩

end Management

/-- Settles O42: each security command by the first of its checks that fails, and the same through management (R377, R378, R382 to R384,
R404, R414; log entry 92). -/
theorem securityBlocks : Obligations.SecurityBlocks := fun _ =>
  ⟨fun hr => ⟨fun r v => secKeySlot_unread hr r v, fun _ v => secKeySlot_read hr v, fun _ => secDebugGrant_read hr, fun _ => secDebugRevoke_answers hr⟩,
    fun hd _ => debugGrantExpiry_answers hd,
    fun hs => ⟨fun hd b v n => mgmtSecurity_busy hs hd b v n, fun hd _ v => mgmtKeySlot_answers hs hd v,
      fun hup => ⟨fun _ => mgmtGrant_answers hs hup, fun _ => mgmtRevoke_answers hs hup⟩⟩⟩

end Sys2Proof
end

section
/-! SUPPORT. Debug windows, breaks, JTAG and the vendor unlock (R385 to R390, R396). -/

namespace Sys2Proof

open Machine

theorem modDbg_only (s : State) (f : Debug → Debug) : OnlyParts [.dbg] s (s.modDbg f) :=
  (State.modDbg_moves s f (Moves.refl 65536 s) rfl).only (covers_spec rfl)

theorem modWin_only (s : State) (n : Nat) (f : DebugWin → DebugWin) : OnlyParts [.dbg] s (s.modWin n f) := modDbg_only s _

/-! The vendor unlock (R385). -/

theorem unlockBlock_refused {s : State} {b : List Byte} (env : BootEnv) (h : firstCode (unlockChecks s b) ≠ 0) :
    unlockBlock s b env = (s, firstCode (unlockChecks s b)) := by
  rw [← unlockCode_eq] at h ⊢
  exact if_pos h

theorem unlockBlock_accepted {s : State} {b : List Byte} (env : BootEnv) (h : firstCode (unlockChecks s b) = 0) :
    ∃ u, vendorOpened u ∧ (s.boot.released = true → mainLost u) ∧ unlockBlock s b env = (tryRelease u env, 0) := by
  obtain ⟨u, hopen, hlost, he⟩ := vendorOpen_spec s b env
  refine ⟨u, hopen, hlost, ?_⟩
  rw [← he, unlockBlock, unlockCode_eq, h]
  rfl

section Unlock

variable {s : State} {b : List Byte} (env : BootEnv) (hb : b.length = 416)
include hb

theorem secVendorOpen_read (hr : (regAt s 0 (secOff 0x18)).isSome = true) (hok : hostOk s 0 (32 * s.dbg.cmdAddr) 416 = true) :
    exec (.secVendorOpen (.ok b) env) s = .next (let r := unlockBlock (s.emit (.hostRead 0 (32 * s.dbg.cmdAddr) 416)) b env
      secDone r.1 r.2) :=
  (secVendorOpen_runs _ env s).trans (congrArg _ ((viaReg_pos hr).trans (secBlock_read _ hok hb)))

theorem secVendorOpen_answers (hr : (regAt s 0 (secOff 0x18)).isSome = true) (hok : hostOk s 0 (32 * s.dbg.cmdAddr) 416 = true) :
    (firstCode (unlockChecks s b) ≠ 0 → Runs (.secVendorOpen (.ok b) env) s fun t =>
      t.dbg.code = firstCode (unlockChecks s b) ∧ t.boot = s.boot ∧ nonceDrawn t) ∧
    (firstCode (unlockChecks s b) = 0 → ∃ u, vendorOpened u ∧ (s.boot.released = true → mainLost u) ∧
      exec (.secVendorOpen (.ok b) env) s = .next (drawNonce ((tryRelease u env).modDbg fun d => { d with done := true, code := 0 }))) := by
  have hx := secVendorOpen_read env hb hr hok
  constructor
  · intro hc
    rw [unlockBlock_refused (s := s.emit (.hostRead 0 (32 * s.dbg.cmdAddr) 416)) env hc] at hx
    exact ⟨_, hx, rfl, rfl, nonce_ok _⟩
  · intro hc
    obtain ⟨u, hopen, hlost, he⟩ := unlockBlock_accepted (s := s.emit (.hostRead 0 (32 * s.dbg.cmdAddr) 416)) env hc
    rw [he] at hx
    exact ⟨u, hopen, hlost, hx⟩

theorem mgmtVendorOpen_answers (hs : mgmtUp s) (hup : s.boot.dev = .newSeat ∨ s.boot.dev = .ready) :
    (firstCode (unlockChecks s b) ≠ 0 → Runs (.mgmtSecurityVendorOpen b env) s fun t => t.boot = s.boot ∧ nonceDrawn t ∧
      t.out = s.out ++ [.mgmt 0x7F 2 5 (leBytes 1 (firstCode (unlockChecks s b)))]) ∧
    (firstCode (unlockChecks s b) = 0 → ∃ u, vendorOpened u ∧ (s.boot.released = true → mainLost u) ∧
      exec (.mgmtSecurityVendorOpen b env) s = .next ((drawNonce (tryRelease u env)).emit (.mgmt 0x7F 2 0 [0#8]))) := by
  have hx := exec_vendorGo hs (mgmtSecurityVendorOpen_runs b env s)
  simp only [mgmtCol_up hup, hb, ne_eq, not_true_eq_false, if_false] at hx
  constructor
  · intro hc
    rw [unlockBlock_refused env hc] at hx
    refine ⟨_, hx, rfl, nonce_ok _, ?_⟩
    rw [← if_neg (α := Nat) (t := 0) (e := 5) hc]
    rfl
  · intro hc
    obtain ⟨u, hopen, hlost, he⟩ := unlockBlock_accepted env hc
    rw [he] at hx
    exact ⟨u, hopen, hlost, hx⟩

end Unlock

/-! A claim's window: halt, step and resume (R386, R387). -/

section Window

variable {s : State} {n : Nat}

/-- A refusal sets the result of the claim's window and changes nothing else. -/
theorem dbgRefuse_spec (s : State) (hn : n < 8) (c : Nat) :
    (tget (dbgRefuse s n c).dbg.wins n).result = c ∧ OnlyParts [.dbg] s (dbgRefuse s n c) :=
  ⟨congrArg DebugWin.result (modWin_win s _ hn), modWin_only s n _⟩

theorem dbgHalt_refused {c : Nat} (h : dbgRefused s n (·.halt) c) : dbgHalt s n = dbgRefuse s n c := by
  rw [dbgHalt, dbgCheck_refused h]

theorem dbgStep_refused {c : Nat} (h : dbgRefused s n (·.halt) c) : dbgStep s n = dbgRefuse s n c := by
  rw [dbgStep, dbgCheck_refused h]

theorem dbgHalt_allowed (h : dbgAllowed s n (·.halt)) : dbgHalt s n = haltClaim s n := by
  rw [dbgHalt, dbgCheck_allowed h]

theorem dbgStep_busy (h : dbgAllowed s n (·.halt)) (hl : stepsLeft s n ≠ []) : dbgStep s n = dbgRefuse s n 1 := by
  rw [dbgStep, dbgCheck_allowed h]
  exact if_pos (by simpa using hl)

theorem dbgStep_allowed (h : dbgAllowed s n (·.halt)) (hl : stepsLeft s n = []) : dbgStep s n = stepClaim s n := by
  rw [dbgStep, dbgCheck_allowed h]
  exact if_neg (by simp [hl])

/-- A step lets run exactly the halted contexts with work left of the claim (R387). -/
theorem stepClaim_stepping (s : State) (hn : n < 8) (x : Nat × Nat) :
    x ∈ (tget (stepClaim s n).dbg.wins n).stepping ↔ ∃ m ∈ s.dl.macros, m.claim = n ∧ x.1 = m.id ∧ x.2 ∈ m.halted ∧ m.workFor x.2 = true := by
  unfold stepClaim
  rw [modWin_win _ _ hn]
  simp only [List.mem_flatMap, List.mem_filter, List.mem_map, beq_iff_eq]
  constructor
  · rintro ⟨m, ⟨hm, hcl⟩, c, ⟨hc, hw⟩, rfl⟩
    exact ⟨m, hm, hcl, rfl, hc, hw⟩
  · rintro ⟨m, hm, hcl, hid, hc, hw⟩
    exact ⟨m, ⟨hm, hcl⟩, x.2, ⟨hc, hw⟩, by rw [← hid]⟩

/-- What a step lets run is halted no more. -/
theorem stepClaim_runs (s : State) (hn : n < 8) {m : MacroInst} (hm : m ∈ (stepClaim s n).dl.macros) {c : Nat}
    (hc : (m.id, c) ∈ (tget (stepClaim s n).dbg.wins n).stepping) : c ∉ m.halted := by
  unfold stepClaim at hm hc
  rw [modWin_win _ _ hn] at hc
  obtain ⟨m0, -, rfl⟩ := List.mem_map.1 hm
  intro hh
  have hnot := (List.mem_filter.1 hh).2
  simp only [Bool.not_eq_true', List.contains_eq_mem, decide_eq_false_iff_not] at hnot
  exact hnot hc

theorem resumeClaim_spec (s : State) (hn : n < 8) :
    let t := resumeClaim s n
    (tget t.dbg.wins n).halted = false ∧ (tget t.dbg.wins n).stepping = [] ∧ ∀ m ∈ t.dl.macros, m.claim = n → m.halted = [] := by
  have hwin : tget (resumeClaim s n).dbg.wins n = { tget s.dbg.wins n with halted := false, stepping := [] } := modWin_win _ _ hn
  refine ⟨by rw [hwin], by rw [hwin], fun m hm hcl => ?_⟩
  obtain ⟨m0, -, rfl⟩ := List.mem_map.1 hm
  by_cases h0 : m0.claim = n
  · rw [if_pos h0]
  · rw [if_neg h0] at hcl
    exact absurd hcl h0

variable (hr : dbgReg s n 0x40008)
include hr

theorem dbgControl_refused {c : Nat} (h : dbgRefused s n (·.halt) c) {i : Instr} (hi : i = .dbgHalt n ∨ i = .dbgStep n) :
    Runs i s fun t => (tget t.dbg.wins n).result = c ∧ OnlyParts [.dbg] s t := by
  obtain ⟨hn, hreg⟩ := hr
  rcases hi with rfl | rfl
  · exact ⟨_, (dbgHalt_runs n s).trans (congrArg _ ((viaClaim_pos hn hreg).trans (dbgHalt_refused h))), dbgRefuse_spec s hn c⟩
  · exact ⟨_, (dbgStep_runs n s).trans (congrArg _ ((viaClaim_pos hn hreg).trans (dbgStep_refused h))), dbgRefuse_spec s hn c⟩

theorem dbgHalt_halts (h : dbgAllowed s n (·.halt)) : Runs (.dbgHalt n) s fun t => claimHalts s t n ∧ OnlyParts [.dl, .dbg] s t := by
  obtain ⟨hn, hreg⟩ := hr
  have hx := (dbgHalt_runs n s).trans (congrArg _ ((viaClaim_pos hn hreg).trans (dbgHalt_allowed h)))
  exact ⟨_, hx, haltClaim_spec s hn, ((dbgHalt_within n s).only_of hx).sub rfl⟩

theorem dbgStep_waits (h : dbgAllowed s n (·.halt)) (hl : stepsLeft s n ≠ []) :
    Runs (.dbgStep n) s fun t => (tget t.dbg.wins n).result = 1 ∧ OnlyParts [.dbg] s t := by
  obtain ⟨hn, hreg⟩ := hr
  exact ⟨_, (dbgStep_runs n s).trans (congrArg _ ((viaClaim_pos hn hreg).trans (dbgStep_busy h hl))), dbgRefuse_spec s hn 1⟩

theorem dbgStep_steps (h : dbgAllowed s n (·.halt)) (hl : stepsLeft s n = []) : Runs (.dbgStep n) s fun t => OnlyParts [.dl, .dbg] s t ∧
    (∀ x, x ∈ (tget t.dbg.wins n).stepping ↔ ∃ m ∈ s.dl.macros, m.claim = n ∧ x.1 = m.id ∧ x.2 ∈ m.halted ∧ m.workFor x.2 = true) ∧
    ∀ m ∈ t.dl.macros, ∀ c, (m.id, c) ∈ (tget t.dbg.wins n).stepping → c ∉ m.halted := by
  obtain ⟨hn, hreg⟩ := hr
  have hx := (dbgStep_runs n s).trans (congrArg _ ((viaClaim_pos hn hreg).trans (dbgStep_allowed h hl)))
  exact ⟨_, hx, ((dbgStep_within n s).only_of hx).sub rfl, stepClaim_stepping s hn, fun m hm c => stepClaim_runs s hn hm⟩

theorem dbgResume_idle (h : (tget s.dbg.grants n).live = false) : exec (.dbgResume n) s = .next s := by
  obtain ⟨hn, hreg⟩ := hr
  exact (dbgResume_runs n s).trans (congrArg _ ((viaClaim_pos hn hreg).trans (if_neg (by simp [h]))))

theorem dbgResume_releases (h : (tget s.dbg.grants n).live = true) : Runs (.dbgResume n) s fun t => OnlyParts [.dl, .dbg, .sync] s t ∧
    (tget t.dbg.wins n).halted = false ∧ (tget t.dbg.wins n).stepping = [] ∧ ∀ m ∈ t.dl.macros, m.claim = n → m.halted = [] := by
  obtain ⟨hn, hreg⟩ := hr
  exact ⟨_, (dbgResume_runs n s).trans (congrArg _ ((viaClaim_pos hn hreg).trans (if_pos h))), resumeClaim_items s n, resumeClaim_spec s hn⟩

end Window

/-! Observation through a claim's window (R388). -/

section Observe

variable {s : State} {n : Nat} (v : Nat)

/-- The claim's window has taken the selection, and the core it names is awake (R391). -/
def observing (s : State) (n v : Nat) : State := wakeCores (s.modWin n fun w => { w with obsSel := obsFields v }) [bits v 0 7]

theorem observing_win (s : State) (hn : n < 8) : tget (observing s n v).dbg.wins n = { tget s.dbg.wins n with obsSel := obsFields v } :=
  modWin_win s _ hn

theorem observing_awake (s : State) (n : Nat) (hx : bits v 0 7 < 96) : (tget (observing s n v).dl.cores (bits v 0 7)).gated = false := by
  have hcore : tget (observing s n v).dl.cores (bits v 0 7) = _ := tget_tmod_same s.dl.cores _ hx
  rw [hcore]
  split
  · rfl
  · rename_i h
    simpa using h

theorem dbgObserve_refused_eq {c : Nat} (h : dbgRefused s n (·.observe) c) :
    dbgObserve s n v = dbgRefuse (if (tget s.dbg.grants n).live then s.modWin n fun w => { w with obsSel := obsFields v } else s) n c := by
  rw [dbgObserve, dbgCheck_refused h]

theorem dbgObserve_own (h : dbgAllowed s n (·.observe)) {m : MacroInst} (hm : contextOf s (bits v 0 7) (bits v 12 4) = some m) (hcl : m.claim = n) :
    dbgObserve s n v = (observing s n v).modWin n fun w =>
      { w with obsData := observeValue m (tget (tget s.dl.cores (bits v 0 7)).seen (bits v 12 4)) (bits v 8 4) (bits v 16 5) } := by
  rw [dbgObserve, dbgCheck_allowed h]
  dsimp only
  rw [hm]
  exact if_pos hcl

theorem dbgObserve_other (h : dbgAllowed s n (·.observe)) (hm : ∀ m, contextOf s (bits v 0 7) (bits v 12 4) = some m → m.claim ≠ n) :
    dbgObserve s n v = dbgRefuse (observing s n v) n 9 := by
  rw [dbgObserve, dbgCheck_allowed h]
  dsimp only
  cases hc : contextOf s (bits v 0 7) (bits v 12 4) with
  | none => rfl
  | some m => exact if_neg (hm m hc)

variable (hr : dbgReg s n 0x40020)
include hr

theorem dbgObserve_refused {c : Nat} (h : dbgRefused s n (·.observe) c) : Runs (.dbgObserve n v) s fun t => OnlyParts [.dbg] s t ∧
    tget t.dbg.wins n = { tget s.dbg.wins n with obsSel := if (tget s.dbg.grants n).live then obsFields v else (tget s.dbg.wins n).obsSel, result := c } := by
  obtain ⟨hn, hreg⟩ := hr
  have hx := (dbgObserve_runs n v s).trans (congrArg _ ((viaClaim_pos hn hreg).trans (dbgObserve_refused_eq v h)))
  cases hl : (tget s.dbg.grants n).live with
  | false =>
    rw [hl] at hx
    exact ⟨_, hx, modWin_only s n _, modWin_win _ _ hn⟩
  | true =>
    rw [hl] at hx
    refine ⟨_, hx, (modWin_only s n _).trans (modWin_only _ n _), (modWin_win _ _ hn).trans ?_⟩
    rw [if_pos rfl, modWin_win _ _ hn]
    rfl

theorem dbgObserve_reads (h : dbgAllowed s n (·.observe)) : Runs (.dbgObserve n v) s fun t => OnlyParts [.dl, .dbg] s t ∧ t.dl.items = s.dl.items ∧
    (bits v 0 7 < 96 → (tget t.dl.cores (bits v 0 7)).gated = false) ∧
    (∀ m, contextOf s (bits v 0 7) (bits v 12 4) = some m → m.claim = n → tget t.dbg.wins n =
      { tget s.dbg.wins n with obsSel := obsFields v, obsData := observeValue m (tget (tget s.dl.cores (bits v 0 7)).seen (bits v 12 4)) (bits v 8 4) (bits v 16 5) }) ∧
    ((∀ m, contextOf s (bits v 0 7) (bits v 12 4) = some m → m.claim ≠ n) → tget t.dbg.wins n = { tget s.dbg.wins n with obsSel := obsFields v, result := 9 }) := by
  obtain ⟨hn, hreg⟩ := hr
  have hx := (dbgObserve_runs n v s).trans (congrArg _ (viaClaim_pos hn hreg))
  have honly := ((dbgObserve_within n v s).only_of hx).sub (qs := [.dl, .dbg]) rfl
  by_cases hown : ∃ m, contextOf s (bits v 0 7) (bits v 12 4) = some m ∧ m.claim = n
  · obtain ⟨m, hm, hcl⟩ := hown
    rw [dbgObserve_own v h hm hcl] at hx honly
    refine ⟨_, hx, honly, rfl, observing_awake v s n, fun m' hm' _ => ?_, fun hno => absurd hcl (hno m hm)⟩
    obtain rfl : m = m' := Option.some.inj (hm.symm.trans hm')
    rw [modWin_win _ _ hn, observing_win v s hn]
  · have hno : ∀ m, contextOf s (bits v 0 7) (bits v 12 4) = some m → m.claim ≠ n := fun m hm hcl => hown ⟨m, hm, hcl⟩
    rw [dbgObserve_other v h hno] at hx honly
    refine ⟨_, hx, honly, rfl, observing_awake v s n, fun m hm hcl => absurd hcl (hno m hm), fun _ => ?_⟩
    rw [dbgRefuse, modWin_win _ _ hn, observing_win v s hn]

end Observe

/-! Breaks (R389). -/

/-- A command whose count a break names is held (R389). -/
theorem gate_breaks {s : State} {n seq l op g : Nat} {lv : Level} {b : List Byte} {mine : List Byte → Bool} {k : State → State} (hn : n < 8)
    (hnext : nextCmd s n seq l op = some (lv, g, b)) (hmine : mine b = true) (hheld : (tget s.dbg.wins n).held = none)
    (hmode : (tget s.dbg.wins n).mode = 1) (hcount : (tget s.dbg.wins n).count = ((tget s.dbg.wins n).commands + 1) % 2 ^ 32)
    (h : dbgAllowed s n (·.halt)) :
    gate n seq l op mine k s = breakHit (s.modWin n fun w => { w with commands := ((tget s.dbg.wins n).commands + 1) % 2 ^ 32 }) n seq lv g := by
  have hcheck : dbgCheck (s.modWin n fun w => { w with commands := ((tget s.dbg.wins n).commands + 1) % 2 ^ 32 }) n (·.halt) = none :=
    dbgCheck_allowed h
  rw [gate, hnext]
  dsimp only
  rw [if_neg (by simp [hmine]), if_neg (by omega), if_neg (by simp [hheld]), if_neg (by simp [hmode]), if_pos (Or.inl ⟨hmode, hcount.symm⟩), hcheck]

theorem breakHit_spec (s : State) {n : Nat} (hn : n < 8) (seq : Nat) (lv : Level) (g : Nat) :
    let t := breakHit s n seq lv g
    (tget t.dbg.wins n).held = some (seq, lv.id, g) ∧ (tget t.dbg.wins n).breakHit = true ∧ (tget t.dbg.wins n).mode = 0 ∧
      (tget t.dbg.wins n).halted = true ∧ t.dl.items = s.dl.items := by
  obtain ⟨hhalted, hitems, -⟩ := haltClaim_spec s hn
  have hwin : tget (breakHit s n seq lv g).dbg.wins n =
      { tget (haltClaim s n).dbg.wins n with breakHit := true, mode := 0, held := some (seq, lv.id, g) } := by
    rw [breakHit, postEvent_dbg]
    exact modWin_win _ _ hn
  have hdl : (breakHit s n seq lv g).dl = (haltClaim s n).dl := by
    rw [breakHit, postEvent_dl]
    rfl
  simp only [hwin, hdl]
  exact ⟨trivial, trivial, trivial, hhalted, hitems⟩

theorem nop_breaks {s : State} {n seq l : Nat} {lv : Level} {b : List Byte} (hn : n < 8) (hd : diesUp s = true)
    (hnext : nextCmd s n seq l 0 = some (lv, lv.pc, b)) (hheld : (tget s.dbg.wins n).held = none) (hmode : (tget s.dbg.wins n).mode = 1)
    (hcount : (tget s.dbg.wins n).count = ((tget s.dbg.wins n).commands + 1) % 2 ^ 32) (h : dbgAllowed s n (·.halt)) :
    Runs (.nop n seq l) s fun t => (tget t.dbg.wins n).held = some (seq, lv.id, lv.pc) ∧ (tget t.dbg.wins n).breakHit = true ∧
      (tget t.dbg.wins n).mode = 0 ∧ (tget t.dbg.wins n).halted = true ∧ t.dl.items = s.dl.items :=
  ⟨_, (nop_runs n seq l s hd).trans (congrArg _ (gate_breaks hn hnext rfl hheld hmode hcount h)), breakHit_spec _ hn seq lv lv.pc⟩

/-! JTAG (R390). -/

section Jtag

variable {s : State}

theorem jtagIdcode_takes (s : State) : ∃ m, m < 2 ^ 11 ∧ Runs .jtagIdcode s fun t => jtagTakes s t 0 0 (1 * 2 ^ 28 + 0x5A01 * 2 ^ 12 + 2 * m + 1) :=
  ⟨_, Nat.mod_lt _ (by decide), _, jtagIdcode_runs s, rfl⟩

theorem boundary_scans (v : Nat) (h : s.boot.released = false ∨ s.power.level = 3) :
    Runs (.jtagSamplePreload v) s (fun t => jtagTakes s t 2 2 v) ∧ Runs (.jtagExtest v) s fun t => jtagTakes s t 3 2 v := by
  have hok : boundaryOk s = true := by simpa [boundaryOk] using h
  exact ⟨⟨_, (jtagSamplePreload_runs v s).trans (congrArg _ (if_pos hok)), rfl⟩, _, (jtagExtest_runs v s).trans (congrArg _ (if_pos hok)), rfl⟩

theorem boundary_bypassed (v : Nat) (hr : s.boot.released = true) (hp : s.power.level ≠ 3) :
    Runs (.jtagSamplePreload v) s (fun t => jtagTakes s t 1 1 0) ∧ Runs (.jtagExtest v) s fun t => jtagTakes s t 1 1 0 := by
  have hok : ¬ boundaryOk s = true := by simp [boundaryOk, hr, hp]
  exact ⟨⟨_, (jtagSamplePreload_runs v s).trans (congrArg _ (if_neg hok)), rfl⟩, _, (jtagExtest_runs v s).trans (congrArg _ (if_neg hok)), rfl⟩

theorem jtagLoad_only (s : State) (inst reg value : Nat) : OnlyParts [.out, .dbg] s (jtagLoad s inst reg value) :=
  (jtagLoad_moves s inst reg value (Moves.refl 65544 s) rfl).only (covers_spec rfl)

theorem jtagAccess_closed (a : DapAction) (h : s.dbg.st ≠ .vendorOpen) :
    Runs (.jtagDebugAccess a) s fun t => t.dbg = { s.dbg with jtag := 1, dapStatus := 0x0B } ∧ OnlyParts [.out, .dbg] s t :=
  ⟨_, (jtagDebugAccess_runs a s).trans (congrArg _ (if_pos h)), rfl, (jtagLoad_only s 1 1 0).trans ((modDbg_only _ _).sub rfl)⟩

theorem jtagAccess_unpowered (a : DapAction) (h : s.dbg.st = .vendorOpen) (hp : s.power.level ≠ 0) :
    Runs (.jtagDebugAccess a) s fun t => t.dbg = { s.dbg with jtag := 4, dapStatus := 0x0A } ∧ OnlyParts [.out, .dbg] s t :=
  ⟨_, (jtagDebugAccess_runs a s).trans (congrArg _ ((if_neg (not_not.2 h)).trans (if_pos hp))), rfl,
    (jtagLoad_only s 4 4 0).trans ((modDbg_only _ _).sub rfl)⟩

variable (h : s.dbg.st = .vendorOpen) (hp : s.power.level = 0)
include h hp

theorem jtagAccess_scan : Runs (.jtagDebugAccess .scan) s fun t => t.dbg = { s.dbg with jtag := 4, dapStatus := 0, scanned := true } ∧ diesUp t = false :=
  ⟨_, (jtagDebugAccess_runs .scan s).trans (congrArg _ ((if_neg (not_not.2 h)).trans (if_neg (not_not.2 hp)))), rfl, Bool.and_false _⟩

theorem jtagAccess_halt {n : Nat} (hn : n < 8) : Runs (.jtagDebugAccess (.halt n)) s fun t => claimHalts s t n ∧ t.dbg.dapStatus = 0 :=
  ⟨_, (jtagDebugAccess_runs (.halt n) s).trans (congrArg _ ((if_neg (not_not.2 h)).trans (if_neg (not_not.2 hp)))),
    haltClaim_spec (jtagLoad s 4 4 0) hn, rfl⟩

theorem jtagAccess_observe {c x r k : Nat} {m : MacroInst} (hm : contextOf s c x = some m) : Runs (.jtagDebugAccess (.observe c x r k)) s fun t =>
    t.dbg.dapStatus = 0 ∧ t.out = s.out ++ [.jtag 4 (observeValue m (tget (tget s.dl.cores c).seen x) r k)] := by
  have hx := (jtagDebugAccess_runs (.observe c x r k) s).trans (congrArg _ ((if_neg (not_not.2 h)).trans (if_neg (not_not.2 hp))))
  dsimp only at hx
  rw [hm] at hx
  exact ⟨_, hx, rfl, rfl⟩

end Jtag

/-- Settles O45: the vendor unlock, a claim's debug window, breaks and JTAG (R385 to R390, R396; log entry 97). -/
theorem debugActions : Obligations.DebugActions := by
  refine fun s => ⟨fun b env hr hok hb => secVendorOpen_answers env hb hr hok, fun b env hs hup hb => mgmtVendorOpen_answers env hb hs hup,
    fun n hr => ⟨fun c h i => dbgControl_refused hr h, dbgHalt_halts hr, dbgStep_waits hr, dbgStep_steps hr, dbgResume_idle hr, dbgResume_releases hr⟩,
    fun n v hr => ⟨fun c => dbgObserve_refused v hr, dbgObserve_reads v hr⟩, fun n seq l lv b => nop_breaks, jtagIdcode_takes s,
    ⟨_, jtagBypass_runs s, rfl⟩, fun v => ⟨boundary_scans v, boundary_bypassed v⟩,
    fun a => ⟨jtagAccess_closed a, jtagAccess_unpowered a, fun h hp => ⟨?_, ?_, ?_⟩⟩⟩
  · rintro rfl
    exact jtagAccess_scan h hp
  · rintro n hn rfl
    exact jtagAccess_halt h hp hn
  · rintro c x r k m rfl hm
    exact jtagAccess_observe h hp hm

end Sys2Proof
end

section
/-! SUPPORT. Write-backs, corrected-error counters, the error log, patches and checker tests (R338, R340, R342, R345 to R347). -/

namespace Sys2Proof

open Machine

theorem modEcc_only (s : State) (f : Ecc → Ecc) : OnlyParts [.ecc] s (s.modEcc f) :=
  (State.modEcc_moves s f (Moves.refl 8192 s) rfl).only (covers_spec rfl)

/-! Write-backs (R338). -/

/-- The oldest write-back leaves the queue. -/
def wbTaken (s : State) (rest : List Nat) : State := s.modEcc fun e => { e with writeBacks := rest }

theorem wbTaken_marked {s : State} {rest : List Nat} {key : Nat} (hm : (markOf s key).isSome = true) : ¬ (markOf (wbTaken s rest) key).isNone = true := by
  have hm' : (markOf (wbTaken s rest) key).isSome = true := hm
  rw [← Option.not_isSome, hm']
  decide

section WriteBack

variable {s : State} {key : Nat} {rest : List Nat} (hq : s.ecc.writeBacks = key :: rest)
include hq

theorem writeBack_unmarked (hm : markOf s key = none) : writeBack s = wbTaken s rest := by
  rw [writeBack, hq]
  exact if_pos (congrArg Option.isNone hm)

theorem writeBack_t0 (hm : (markOf s key).isSome = true) (hk : keyT0 key = true) :
    writeBack s = (wbTaken s rest).modEcc fun e => { e with marks := aerase e.marks key } := by
  rw [writeBack, hq]
  exact (if_neg (wbTaken_marked hm)).trans (if_pos hk)

theorem writeBack_word (hm : (markOf s key).isSome = true) (hk : keyT0 key = false) :
    let p := keyPlace key
    writeBack s = if (decodeWord s p.1 p.2.1 p.2.2 (0, 0)).1 = .corrected then rewriteWord (wbTaken s rest) p.1 p.2.1 p.2.2 else wbTaken s rest := by
  rw [writeBack, hq]
  exact (if_neg (wbTaken_marked hm)).trans (if_neg (by simp [hk]))

end WriteBack

/-- A word that is stored again holds its corrected bytes, unmarked (R338). -/
theorem rewriteWord_spec (s : State) (t2 : Bool) (f k : Nat) :
    let t := rewriteWord s t2 f k
    markOf t (if t2 then locT2 s f k else locT1 f k).key = none ∧
      ∀ i < 8, memGet (tierMem t t2) (pageBase f + 8 * k + i) = some ((leBytes 8 (decodeWord s t2 f k (0, 0)).2.2.2).getD i 0#8) := by
  refine ⟨markOf_clear _ _, fun i hi => ?_⟩
  have hmem : tierMem (rewriteWord s t2 f k) t2 =
      memPutAll (tierMem s t2) (pageBase f + 8 * k) (leBytes 8 (decodeWord s t2 f k (0, 0)).2.2.2) := setMem_tier s t2 _
  rw [hmem, putAll_get _ _ _ hi]

theorem rewriteWord_only (s : State) (t2 : Bool) (f k : Nat) : OnlyParts [.tiers, .ecc] s (rewriteWord s t2 f k) :=
  (rewriteWord_moves s t2 f k (Moves.refl 8448 s) rfl).only (covers_spec rfl)

theorem eccWriteBack_answers {s : State} (hd : diesUp s = true) {key : Nat} {rest : List Nat} (hq : s.ecc.writeBacks = key :: rest) :
    (markOf s key = none → exec .eccWriteBack s = .next (wbTaken s rest)) ∧
    ((markOf s key).isSome = true → keyT0 key = true → Runs .eccWriteBack s fun t => markOf t key = none ∧ OnlyParts [.ecc] s t) ∧
    ((markOf s key).isSome = true → keyT0 key = false → let p := keyPlace key; let w := decodeWord s p.1 p.2.1 p.2.2 (0, 0)
      (w.1 ≠ .corrected → exec .eccWriteBack s = .next (wbTaken s rest)) ∧
      (w.1 = .corrected → Runs .eccWriteBack s fun t => OnlyParts [.tiers, .ecc] s t ∧
        markOf t (if p.1 then locT2 s p.2.1 p.2.2 else locT1 p.2.1 p.2.2).key = none ∧
        ∀ i < 8, memGet (tierMem t p.1) (pageBase p.2.1 + 8 * p.2.2 + i) = some ((leBytes 8 w.2.2.2).getD i 0#8))) := by
  have hx := eccWriteBack_runs s hd
  refine ⟨fun hm => hx.trans (congrArg _ (writeBack_unmarked hq hm)), fun hm hk => ?_, fun hm hk => ⟨fun hw => ?_, fun hw => ?_⟩⟩
  · rw [writeBack_t0 hq hm hk] at hx
    exact ⟨_, hx, alookup_aerase_same _ _, (modEcc_only s _).trans (modEcc_only _ _)⟩
  · rw [writeBack_word hq hm hk, if_neg hw] at hx
    exact hx
  · rw [writeBack_word hq hm hk, if_pos hw] at hx
    exact ⟨_, hx, ((modEcc_only s _).sub rfl).trans (rewriteWord_only _ _ _ _), rewriteWord_spec (wbTaken s rest) _ _ _⟩

/-! Counters and the log of a die (R340, R342). -/

theorem eccCeOverClear_answers {s : State} {die group : Nat} (hd : die < 7) (hg : group < 88) (hr : eccReg s (0x1400 + 0x1000 * die + 4 * group)) :
    Runs (.eccCeOverClear die group) s fun t => OnlyParts [.ecc] s t ∧
      t.ecc = { s.ecc with dies := t.ecc.dies } ∧ (∀ d, d ≠ die → tget t.ecc.dies d = tget s.ecc.dies d) ∧
      tget t.ecc.dies die = { tget s.ecc.dies die with ce := (tget t.ecc.dies die).ce } ∧ ∀ g,
        tget (tget t.ecc.dies die).ce g = if g = group then (0, false) else tget (tget s.ecc.dies die).ce g := by
  obtain ⟨hreg, hw⟩ := hr
  have hdie : tget (countClear s die group).ecc.dies die =
      { tget s.ecc.dies die with ce := tset (tget s.ecc.dies die).ce group (0, false) } := tget_tmod_same _ _ hd
  refine ⟨_, (eccCeOverClear_runs die group s hw).trans (congrArg _ (viaReg_pos hreg)), modEcc_only s _, rfl, fun d h => tget_tmod_ne _ _ (Ne.symm h), ?_⟩
  rw [hdie]
  refine ⟨rfl, fun g => ?_⟩
  by_cases h : g = group
  · rw [if_pos h, h, tget_tset_same _ _ hg]
  · rw [if_neg h, tget_tset_ne _ _ (Ne.symm h)]

theorem eccLogRelease_answers {s : State} {die entry : Nat} (hd : die < 7) (he : entry < 16) (hr : eccReg s (0x1200 + 0x1000 * die)) :
    Runs (.eccLogRelease die entry) s fun t => OnlyParts [.ecc] s t ∧
      t.ecc = { s.ecc with dies := t.ecc.dies } ∧ (∀ d, d ≠ die → tget t.ecc.dies d = tget s.ecc.dies d) ∧
      tget t.ecc.dies die = { tget s.ecc.dies die with log := (tget t.ecc.dies die).log } ∧ ∀ e,
        tget (tget t.ecc.dies die).log e = if e = entry then none else tget (tget s.ecc.dies die).log e := by
  obtain ⟨hreg, hw⟩ := hr
  have hx := (eccLogRelease_runs die entry s hw).trans (congrArg _ (viaReg_pos hreg))
  rw [Nat.mod_eq_of_lt he] at hx
  have hdie : tget (logRelease s die entry).ecc.dies die = { tget s.ecc.dies die with log := tset (tget s.ecc.dies die).log entry none } :=
    tget_tmod_same _ _ hd
  refine ⟨_, hx, modEcc_only s _, rfl, fun d h => tget_tmod_ne _ _ (Ne.symm h), ?_⟩
  rw [hdie]
  refine ⟨rfl, fun e => ?_⟩
  by_cases h : e = entry
  · rw [if_pos h, h, tget_tset_same _ _ he]
  · rw [if_neg h, tget_tset_ne _ _ (Ne.symm h)]

/-! Patches (R345, R346). -/

/-- ECC_PATCH_CMD has taken its fields. -/
def patchTaken (s : State) (w : Nat) : State := (dropHold s 0 (eccOff 0x200)).modEcc fun e => { e with patchCmd := w % 2 ^ 32 }

theorem patchTaken_only (s : State) (w : Nat) : OnlyParts [.ecc, .fns] s (patchTaken s w) :=
  ((dropHold_only s 0 (eccOff 0x200)).sub rfl).trans ((modEcc_only _ _).sub rfl)

section Patch

variable {s : State} {die mac row word : Nat}

/-- A write of ECC_PATCH_CMD with go is the command that its fields name. -/
theorem patchWrite_word (remove : Bool) (hd : die < 8) (hm : mac < 16384) (hrow : row < 512) (hword : word < 32) :
    patchWrite (dropHold s 0 (eccOff 0x200)) (patchCmdWord die mac row word remove) =
      if remove then patchRemove (patchTaken s (patchCmdWord die mac row word remove)) die mac row word
      else patchInstall (patchTaken s (patchCmdWord die mac row word remove)) die mac row word := by
  obtain ⟨fdie, fmac, frow, fword, frem, fgo⟩ := patchWord_fields die mac row word remove
  rw [Nat.mod_eq_of_lt hd] at fdie
  rw [Nat.mod_eq_of_lt hm] at fmac
  rw [Nat.mod_eq_of_lt hrow] at frow
  rw [Nat.mod_eq_of_lt hword] at fword
  rw [patchWrite, fgo, frem, fdie, fmac, frow, fword]
  rfl

theorem eccPatchInstall_command (hr : eccReg s 0x200) (hd : die < 8) (hm : mac < 16384) (hrow : row < 512) (hword : word < 32) :
    exec (.eccPatchInstall die mac row word) s = .next (patchInstall (patchTaken s (patchCmdWord die mac row word false)) die mac row word) :=
  (eccPatchInstall_runs die mac row word s hr.2).trans (congrArg _ ((viaWide_pos hr.1).trans (patchWrite_word false hd hm hrow hword)))

theorem eccPatchRemove_command (hr : eccReg s 0x200) (hd : die < 8) (hm : mac < 16384) (hrow : row < 512) (hword : word < 32) :
    exec (.eccPatchRemove die mac row word) s = .next (patchRemove (patchTaken s (patchCmdWord die mac row word true)) die mac row word) :=
  (eccPatchRemove_runs die mac row word s hr.2).trans (congrArg _ ((viaWide_pos hr.1).trans (patchWrite_word true hd hm hrow hword)))

/-- A die that is not there has no patches. -/
theorem no_patches (hd : 7 ≤ die) (i : Nat) : tget (tget s.ecc.dies die).patches i = none := by
  rw [tget_ge _ hd]
  by_cases hi : i < 32
  · simp [tget, hi, default, instInhabitedEccDie.default]
  · rw [tget_ge _ (Nat.not_lt.1 hi)]
    rfl

theorem patchAt_found {i : Nat} (h : patchAt s die mac row word = some i) : die < 7 ∧ i < 32 := by
  have hi : i < 32 := List.mem_range.1 (List.mem_of_find?_eq_some h)
  refine ⟨Nat.lt_of_not_le fun hd => ?_, hi⟩
  have hp := List.find?_some h
  simp [no_patches hd] at hp

/-- A patch command that is refused says why and changes no entry. -/
theorem patch_refuses {i : Instr} {reason : Nat} {w : Nat} (hx : exec i s = .next (patchAnswer (patchTaken s w) 0 reason)) :
    Runs i s fun t => patchAnswered t 0 reason ∧ t.ecc.dies = s.ecc.dies ∧ OnlyParts [.ecc, .fns] s t :=
  ⟨_, hx, ⟨rfl, rfl, rfl, rfl⟩, rfl, (patchTaken_only s w).trans ((modEcc_only _ _).sub rfl)⟩

/-! The refusals of an installation, in their order (log entry 60). -/

/-- The lowest free entry of a die. -/
def freePatch (s : State) (die : Nat) : Option Nat := (List.range 32).find? fun i => (tget (tget s.ecc.dies die).patches i).isNone

@[simp] theorem patchTaken_ecc (s : State) (w : Nat) : (patchTaken s w).ecc = { s.ecc with patchCmd := w % 2 ^ 32 } := by
  rw [patchTaken, State.modEcc_ecc, dropHold_ecc]

@[simp] theorem freePatch_patchTaken (s : State) (w d : Nat) : freePatch (patchTaken s w) d = freePatch s d := by
  unfold freePatch
  rw [patchTaken_ecc]

@[simp] theorem patchAt_patchTaken (s : State) (w d mac row word : Nat) : patchAt (patchTaken s w) d mac row word = patchAt s d mac row word := by
  unfold patchAt
  rw [patchTaken_ecc]

@[simp] theorem redealing_patchTaken (s : State) (w : Nat) : (patchTaken s w).redealing = s.redealing := by
  rw [State.redealing, patchTaken, State.modEcc_boot, dropHold_boot, State.redealing]

theorem freePatch_none (h : ∀ i < 32, (tget (tget s.ecc.dies die).patches i).isSome = true) : freePatch s die = none :=
  List.find?_eq_none.2 fun i hi => by rw [← Option.not_isSome, h i (List.mem_range.1 hi)]; decide

theorem freePatch_some {i : Nat} (hi : i < 32) (hn : tget (tget s.ecc.dies die).patches i = none)
    (hj : ∀ j < i, (tget (tget s.ecc.dies die).patches j).isSome = true) : freePatch s die = some i :=
  List.find?_range_eq_some.2 ⟨by rw [hn]; rfl, List.mem_range.2 hi, fun j h => by rw [← Option.not_isSome, hj j h]; rfl⟩

theorem patchInstall_full (hd : die < 7) (h : freePatch s die = none) : patchInstall s die mac row word = patchAnswer s 0 1 := by
  unfold freePatch at h
  rw [patchInstall, h]
  dsimp only
  rw [if_pos hd]

/-- Of a die, the entry i serves a word, and the log entries of that word are patched (R345). -/
def patchPut (i mac row word : Nat) (x : EccDie) : EccDie :=
  { x with
    patches := tset x.patches i (some { runtime := true, mac := mac, row := row, word := word })
    log := x.log.map (Option.map fun e => if e.mac = mac ∧ e.row = row ∧ e.word = word then { e with patched := true } else e) }

/-- The place is one of the die's. -/
def patchInRange (die mac word : Nat) : Prop := die < 7 ∧ mac < dieMacros die ∧ word < rowWords die mac

variable {i : Nat} (hfree : freePatch s die = some i)
include hfree

theorem patchInstall_taken (hp : (patchAt s die mac row word).isSome = true) : patchInstall s die mac row word = patchAnswer s 0 2 := by
  unfold freePatch at hfree
  rw [patchInstall, hfree]
  exact if_pos hp

theorem patchInstall_outside (hp : patchAt s die mac row word = none) (hout : ¬ patchInRange die mac word) :
    patchInstall s die mac row word = patchAnswer s 0 4 := by
  unfold freePatch at hfree
  unfold patchInRange at hout
  rw [patchInstall, hfree]
  dsimp only
  rw [if_neg (by simp [hp]), if_pos (by
    simp only [Bool.not_eq_true', Bool.and_eq_false_iff, decide_eq_false_iff_not]
    tauto)]

theorem patchInstall_redealing (hp : patchAt s die mac row word = none) (hin : patchInRange die mac word) (hrow : row < 512)
    (hr : s.redealing = true) : patchInstall s die mac row word = patchAnswer s 0 5 := by
  obtain ⟨hd, hm, hw⟩ := hin
  unfold freePatch at hfree
  rw [patchInstall, hfree]
  dsimp only
  rw [if_neg (by simp [hp]), if_neg (by simp [hd, hm, hrow, hw]), if_pos hr]

theorem patchInstall_free (hp : patchAt s die mac row word = none) (hin : patchInRange die mac word) (hrow : row < 512)
    (hr : s.redealing = false) :
    patchInstall s die mac row word = patchAnswer (((keysAt s die mac row word).foldl patchFix s).modDie die (patchPut i mac row word)) i 0 := by
  obtain ⟨hd, hm, hw⟩ := hin
  unfold freePatch at hfree
  rw [patchInstall, hfree]
  dsimp only
  rw [if_neg (by simp [hp]), if_neg (by simp [hd, hm, hrow, hw]), if_neg (by simp [hr])]
  refine congrArg (fun f => patchAnswer (State.modDie _ die f) i 0) (funext fun x => ?_)
  refine congrArg (fun g => { x with patches := tset x.patches i (some ⟨true, mac, row, word⟩), log := x.log.map g }) (funext fun e => ?_)
  cases e with
  | none => rfl
  | some e => rw [Option.map_some, apply_ite some]

end Patch

theorem patchFix_dies (s : State) (key : Nat) : (patchFix s key).ecc.dies = s.ecc.dies := by
  have hrewrite : ∀ t2 f k, (rewriteWord s t2 f k).ecc.dies = s.ecc.dies := fun t2 f k => by cases t2 <;> rfl
  unfold patchFix
  split
  · dsimp only
    split <;> rfl
  · dsimp only
    split
    · exact hrewrite _ _ _
    · rfl

theorem patchFixes_dies (l : List Nat) (s : State) : (l.foldl patchFix s).ecc.dies = s.ecc.dies := by
  induction l generalizing s with
  | nil => rfl
  | cons k l ih => exact (ih _).trans (patchFix_dies s k)

section PatchCommands

variable {s : State} {die mac row word : Nat} (hr : eccReg s 0x200) (hd : die < 8) (hm : mac < 16384) (hrow : row < 512) (hword : word < 32)
include hr hd hm hrow hword

theorem eccPatchInstall_full (h : ∀ i < 32, (tget (tget s.ecc.dies die).patches i).isSome = true) :
    Runs (.eccPatchInstall die mac row word) s fun t => patchAnswered t 0 1 ∧ t.ecc.dies = s.ecc.dies ∧ OnlyParts [.ecc, .fns] s t := by
  have hd7 : die < 7 := Nat.lt_of_not_le fun h7 => by simpa [no_patches h7] using h 0 (by decide)
  have hx := eccPatchInstall_command hr hd hm hrow hword
  rw [patchInstall_full hd7 (by rw [freePatch_patchTaken, freePatch_none h])] at hx
  exact patch_refuses hx

variable {i : Nat}

section Free

variable (hfree : freePatch s die = some i)
include hfree

theorem eccPatchInstall_refused :
    ((patchAt s die mac row word).isSome = true → Runs (.eccPatchInstall die mac row word) s fun t =>
      patchAnswered t 0 2 ∧ t.ecc.dies = s.ecc.dies ∧ OnlyParts [.ecc, .fns] s t) ∧
    (patchAt s die mac row word = none → ¬ patchInRange die mac word → Runs (.eccPatchInstall die mac row word) s fun t =>
      patchAnswered t 0 4 ∧ t.ecc.dies = s.ecc.dies ∧ OnlyParts [.ecc, .fns] s t) ∧
    (patchAt s die mac row word = none → patchInRange die mac word → s.redealing = true → Runs (.eccPatchInstall die mac row word) s fun t =>
      patchAnswered t 0 5 ∧ t.ecc.dies = s.ecc.dies ∧ OnlyParts [.ecc, .fns] s t) := by
  have hx := eccPatchInstall_command hr hd hm hrow hword
  have hfree' := (freePatch_patchTaken s (patchCmdWord die mac row word false) die).trans hfree
  have hat := patchAt_patchTaken s (patchCmdWord die mac row word false) die mac row word
  have hdeal := redealing_patchTaken s (patchCmdWord die mac row word false)
  generalize hu : patchTaken s (patchCmdWord die mac row word false) = u at hx hfree' hat hdeal
  have hrefuse : ∀ reason, patchInstall u die mac row word = patchAnswer u 0 reason → Runs (.eccPatchInstall die mac row word) s fun t =>
      patchAnswered t 0 reason ∧ t.ecc.dies = s.ecc.dies ∧ OnlyParts [.ecc, .fns] s t := fun reason he => by
    rw [he, ← hu] at hx
    exact patch_refuses hx
  exact ⟨fun hp => hrefuse 2 (patchInstall_taken hfree' (hat ▸ hp)), fun hp hout => hrefuse 4 (patchInstall_outside hfree' (hat.trans hp) hout),
    fun hp hin hre => hrefuse 5 (patchInstall_redealing hfree' (hat.trans hp) hin hrow (hdeal.trans hre))⟩

theorem eccPatchInstall_done (hi : i < 32) (hp : patchAt s die mac row word = none) (hin : patchInRange die mac word) (hre : s.redealing = false) :
    Runs (.eccPatchInstall die mac row word) s fun t =>
      patchAnswered t i 0 ∧ OnlyParts [.tiers, .ecc, .fns] s t ∧ (∀ d, d ≠ die → tget t.ecc.dies d = tget s.ecc.dies d) ∧
      (∀ j, tget (tget t.ecc.dies die).patches j =
        if j = i then some { runtime := true, mac := mac, row := row, word := word } else tget (tget s.ecc.dies die).patches j) ∧
      ∀ j < 16, tget (tget t.ecc.dies die).log j = (tget (tget s.ecc.dies die).log j).map fun e =>
        if e.mac = mac ∧ e.row = row ∧ e.word = word then { e with patched := true } else e := by
  have hx := eccPatchInstall_command hr hd hm hrow hword
  have honly := (patchInstall_moves (patchTaken s (patchCmdWord die mac row word false)) die mac row word (Moves.refl 8448 _) rfl).only
    (ps := [.tiers, .ecc, .fns]) (covers_spec rfl)
  have hfree' := (freePatch_patchTaken s (patchCmdWord die mac row word false) die).trans hfree
  have hp' := (patchAt_patchTaken s (patchCmdWord die mac row word false) die mac row word).trans hp
  have hre' := (redealing_patchTaken s (patchCmdWord die mac row word false)).trans hre
  rw [patchInstall_free hfree' hp' hin hrow hre'] at hx honly
  have hdies := patchFixes_dies (keysAt (patchTaken s (patchCmdWord die mac row word false)) die mac row word)
    (patchTaken s (patchCmdWord die mac row word false))
  rw [patchTaken_ecc] at hdies
  generalize (keysAt (patchTaken s (patchCmdWord die mac row word false)) die mac row word).foldl patchFix _ = u at hx honly hdies
  have hdie : tget (u.modDie die (patchPut i mac row word)).ecc.dies die = patchPut i mac row word (tget s.ecc.dies die) := by
    have hu : tget (u.modDie die (patchPut i mac row word)).ecc.dies die = _ := tget_tmod_same u.ecc.dies _ hin.1
    rw [hu, hdies]
  refine ⟨_, hx, ⟨rfl, rfl, rfl, rfl⟩, ((patchTaken_only s _).sub rfl).trans honly, fun d hne => ?_, fun j => ?_, fun j hj => ?_⟩
  · exact (tget_tmod_ne _ _ (Ne.symm hne)).trans (congrArg (tget · d) hdies)
  · refine (congrArg (fun x => tget x.patches j) hdie).trans ?_
    by_cases h : j = i
    · rw [if_pos h, h]
      exact tget_tset_same _ _ hi
    · rw [if_neg h]
      exact tget_tset_ne _ _ (Ne.symm h)
  · exact (congrArg (fun x => tget x.log j) hdie).trans (tget_map _ _ hj)

end Free

theorem eccPatchRemove_unmatched (h : patchAt s die mac row word = none) :
    Runs (.eccPatchRemove die mac row word) s fun t => patchAnswered t 0 3 ∧ t.ecc.dies = s.ecc.dies ∧ OnlyParts [.ecc, .fns] s t := by
  have hx := eccPatchRemove_command hr hd hm hrow hword
  rw [patchRemove, patchAt_patchTaken, h] at hx
  exact patch_refuses hx

theorem eccPatchRemove_redealing (h : patchAt s die mac row word = some i) (hre : s.redealing = true) :
    Runs (.eccPatchRemove die mac row word) s fun t => patchAnswered t 0 5 ∧ t.ecc.dies = s.ecc.dies ∧ OnlyParts [.ecc, .fns] s t := by
  have hx := eccPatchRemove_command hr hd hm hrow hword
  rw [patchRemove, patchAt_patchTaken, h] at hx
  dsimp only at hx
  rw [redealing_patchTaken, if_pos hre] at hx
  exact patch_refuses hx

theorem eccPatchRemove_done (h : patchAt s die mac row word = some i) (hre : s.redealing = false) :
    Runs (.eccPatchRemove die mac row word) s fun t => patchAnswered t i 0 ∧ OnlyParts [.ecc, .fns] s t ∧
      (∀ d, d ≠ die → tget t.ecc.dies d = tget s.ecc.dies d) ∧
      ∀ j, tget (tget t.ecc.dies die).patches j = if j = i then none else tget (tget s.ecc.dies die).patches j := by
  obtain ⟨hd7, hi⟩ := patchAt_found h
  have hx := eccPatchRemove_command hr hd hm hrow hword
  rw [patchRemove, patchAt_patchTaken, h] at hx
  dsimp only at hx
  rw [redealing_patchTaken, if_neg (by simpa using hre)] at hx
  have htaken := patchTaken_only s (patchCmdWord die mac row word true)
  have hdies : (patchTaken s (patchCmdWord die mac row word true)).ecc.dies = s.ecc.dies := by rw [patchTaken_ecc]
  generalize patchTaken s (patchCmdWord die mac row word true) = u at hx htaken hdies
  rw [← hdies]
  refine ⟨_, hx, ⟨rfl, rfl, rfl, rfl⟩, (htaken.trans ((modEcc_only _ _).sub rfl)).trans ((modEcc_only _ _).sub rfl),
    fun d hne => tget_tmod_ne _ _ (Ne.symm hne), fun j => ?_⟩
  refine (congrArg (fun x => tget x.patches j) (tget_tmod_same u.ecc.dies _ hd7)).trans ?_
  by_cases hj : j = i
  · rw [if_pos hj, hj]
    exact tget_tset_same _ _ hi
  · rw [if_neg hj]
    exact tget_tset_ne _ _ (Ne.symm hj)

end PatchCommands

/-! Checker tests (R347). -/

theorem testRun_lives {s : State} (h : testLives s) (op : State → Nat → State) :
    testRun s op = (op s (testTarget s).1).modEcc fun e => { e with resDone := true } := by
  obtain ⟨htarget, hre⟩ := h
  exact if_neg (by simp [htarget, hre])

theorem testRun_refused {s : State} (h : ¬ testLives s) (op : State → Nat → State) : testRun s op = testRefused s := by
  refine if_pos ?_
  simp only [testLives, not_and, Bool.not_eq_false] at h
  cases htarget : (testTarget s).2 with
  | false => rfl
  | true => exact h htarget

/-- What a test write stores is what its answer leaves. -/
theorem testWritten_answered (s : State) (key diff : Nat) :
    testWritten (((testStore s key diff).modEcc fun e => { e with resClass := 0 }).modEcc fun e => { e with resDone := true }) s key diff := by
  obtain ⟨hmark, ht0, hword⟩ := testStore_spec s key diff
  generalize testStore s key diff = u at hmark ht0 hword
  exact ⟨rfl, rfl, hmark, ht0, hword⟩

section Tests

variable {s : State} (hr : eccReg s 0x128)
include hr

theorem eccTest_runs : exec .eccTestWriteNormal s = .next (testWriteNormal s) ∧ exec .eccTestWriteSplit s = .next (testWriteSplit s) ∧
    exec .eccTestRead s = .next (testRead s) ∧ exec .eccTestArmFlip s = .next (testArm s) :=
  ⟨(eccTestWriteNormal_runs s hr.2).trans (congrArg _ (viaReg_pos hr.1)), (eccTestWriteSplit_runs s hr.2).trans (congrArg _ (viaReg_pos hr.1)),
    (eccTestRead_runs s hr.2).trans (congrArg _ (viaReg_pos hr.1)), (eccTestArmFlip_runs s hr.2).trans (congrArg _ (viaReg_pos hr.1))⟩

theorem eccTest_refused (h : ¬ testLives s) {i : Instr} (hi : i ∈ [Instr.eccTestWriteNormal, .eccTestWriteSplit, .eccTestRead, .eccTestArmFlip]) :
    exec i s = .next (testRefused s) := by
  obtain ⟨hnormal, hsplit, hread, harm⟩ := eccTest_runs hr
  simp only [List.mem_cons, List.not_mem_nil, or_false] at hi
  rcases hi with rfl | rfl | rfl | rfl
  · exact hnormal.trans (congrArg _ (testRun_refused h _))
  · exact hsplit.trans (congrArg _ (testRun_refused h _))
  · exact hread.trans (congrArg _ (testRun_refused h _))
  · exact harm.trans (congrArg _ (testRun_refused h _))

variable (h : testLives s)
include h

theorem eccTestWriteNormal_writes :
    Runs .eccTestWriteNormal s fun t => testWritten t s (testTarget s).1 0 ∧ OnlyParts [.dl, .tiers, .ecc] s t := by
  obtain ⟨hx, -⟩ := eccTest_runs hr
  have honly := (testWriteNormal_moves s (Moves.refl 8576 s) rfl).only (ps := [.dl, .tiers, .ecc]) (covers_spec rfl)
  rw [testWriteNormal, testRun_lives h] at hx honly
  exact ⟨_, hx, testWritten_answered s _ 0, honly⟩

theorem eccTestWriteSplit_writes : Runs .eccTestWriteSplit s fun t => OnlyParts [.dl, .tiers, .ecc] s t ∧
    testWritten t s (testTarget s).1
      ((if keyT0 (testTarget s).1 then s.ecc.check % 2 ^ 20 else s.ecc.check % 2 ^ 8) ^^^ testCode s (testTarget s).1) := by
  obtain ⟨-, hx, -⟩ := eccTest_runs hr
  have honly := (testWriteSplit_moves s (Moves.refl 8576 s) rfl).only (ps := [.dl, .tiers, .ecc]) (covers_spec rfl)
  rw [testWriteSplit, testRun_lives h] at hx honly
  exact ⟨_, hx, honly, testWritten_answered s _ _⟩

theorem eccTestArmFlip_arms : Runs .eccTestArmFlip s fun t => OnlyParts [.ecc] s t ∧
    t.ecc = { s.ecc with armed := some ((testTarget s).1, s.ecc.flipData, s.ecc.flipCheck), resClass := 0, resDone := true } := by
  obtain ⟨-, -, -, hx⟩ := eccTest_runs hr
  rw [testArm, testRun_lives h] at hx
  exact ⟨_, hx, (modEcc_only s _).trans (modEcc_only _ _), rfl⟩

end Tests

/-- A read spends an armed flip of its word and changes nothing else (R347). -/
theorem testDecode_state (s : State) (key : Nat) :
    (testDecode s key).1 = if s.ecc.armed.map (·.1) = some key then s.modEcc fun e => { e with armed := none } else s := by
  unfold testDecode
  cases ha : s.ecc.armed with
  | none =>
    simp only [Bool.false_eq_true, if_false, Option.map_none, reduceCtorEq]
    split <;> rfl
  | some a =>
    simp only [beq_iff_eq, Option.map_some, Option.some.injEq]
    split <;> rfl

theorem testDecode_ecc (s : State) (key : Nat) :
    (testDecode s key).1.ecc = { s.ecc with armed := if s.ecc.armed.map (·.1) = some key then none else s.ecc.armed } ∧
      (testDecode s key).1.tiers = s.tiers := by
  rw [testDecode_state]
  split
  · exact ⟨rfl, rfl⟩
  · exact ⟨rfl, rfl⟩

/-- What counting and logging a word's class leaves of the result, the armed flip, the marks and the tiers. -/
def readKeeps (s t : State) : Prop :=
  t.ecc.resClass = s.ecc.resClass ∧ t.ecc.resSyndrome = s.ecc.resSyndrome ∧ t.ecc.resBit = s.ecc.resBit ∧ t.ecc.resData = s.ecc.resData ∧
    t.ecc.armed = s.ecc.armed ∧ t.ecc.marks = s.ecc.marks ∧ t.tiers = s.tiers

theorem readKeeps.trans {s t u : State} (h : readKeeps s t) (k : readKeeps t u) : readKeeps s u := by
  obtain ⟨h1, h2, h3, h4, h5, h6, h7⟩ := h
  obtain ⟨k1, k2, k3, k4, k5, k6, k7⟩ := k
  exact ⟨k1.trans h1, k2.trans h2, k3.trans h3, k4.trans h4, k5.trans h5, k6.trans h6, k7.trans h7⟩

/-- The counting, logging and word count of a read, by its class. -/
def testNoted (s : State) (cls : WordClass) (syn bit_ tag : Nat) (loc : WordLoc) : State :=
  let s3 := noteWord s loc cls syn bit_ tag 4
  match cls with
  | .unwritten => s3.modEcc fun e => { e with unwritten := satInc 32 e.unwritten }
  | .poisoned => (logDetection (s3.modEcc fun e => { e with poisoned := satInc 32 e.poisoned }) loc 2 4 syn bit_ tag).1
  | _ => s3

theorem testNoted_keeps (s : State) (cls : WordClass) (syn bit_ tag : Nat) (loc : WordLoc) : readKeeps s (testNoted s cls syn bit_ tag loc) := by
  have hnote : readKeeps s (noteWord s loc cls syn bit_ tag 4) := noteWord_res s loc cls syn bit_ tag 4
  cases cls with
  | clean => exact hnote
  | corrected => exact hnote
  | uncorrectable => exact hnote
  | unwritten => exact hnote
  | poisoned =>
    exact hnote.trans (t := (noteWord s loc .poisoned syn bit_ tag 4).modEcc fun e => { e with poisoned := satInc 32 e.poisoned })
      (noteWord_res _ loc .uncorrectable syn bit_ tag 4)

/-- A read's result registers hold what the decoder made of the word. -/
def testResult (s : State) (key : Nat) : State :=
  let r := testDecode s key
  r.1.modEcc fun e => { e with resClass := r.2.1.code, resSyndrome := r.2.2.1, resBit := r.2.2.2.1, resData := r.2.2.2.2.1 }

theorem testRead_lives {s : State} (h : testLives s) :
    let key := (testTarget s).1
    let r := testDecode s key
    testRead s = (testNoted (testResult s key) r.2.1 r.2.2.1 r.2.2.2.1 (testTag s key) r.2.2.2.2.2).modEcc fun e => { e with resDone := true } := by
  rw [testRead, testRun_lives h]
  rfl

theorem eccTestRead_reads {s : State} (hr : eccReg s 0x128) (h : testLives s) : Runs .eccTestRead s fun t =>
    let key := (testTarget s).1
    let r := testDecode s key
    t.ecc.resDone = true ∧ t.ecc.resClass = r.2.1.code ∧ t.ecc.resSyndrome = r.2.2.1 ∧ t.ecc.resBit = r.2.2.2.1 ∧
      t.ecc.resData = r.2.2.2.2.1 ∧ t.ecc.marks = s.ecc.marks ∧ t.tiers = s.tiers ∧
      t.ecc.armed = if s.ecc.armed.map (·.1) = some key then none else s.ecc.armed := by
  obtain ⟨-, -, hx, -⟩ := eccTest_runs hr
  rw [testRead_lives h] at hx
  obtain ⟨hecc, htiers⟩ := testDecode_ecc s (testTarget s).1
  have hmarks' : (testDecode s (testTarget s).1).1.ecc.marks = s.ecc.marks := by rw [hecc]
  have harmed' : (testDecode s (testTarget s).1).1.ecc.armed =
      if s.ecc.armed.map (·.1) = some (testTarget s).1 then none else s.ecc.armed := by rw [hecc]
  obtain ⟨hclass, hsyn, hbit, hdata, harmed, hmarks, hmem⟩ := testNoted_keeps (testResult s (testTarget s).1) (testDecode s (testTarget s).1).2.1
    (testDecode s (testTarget s).1).2.2.1 (testDecode s (testTarget s).1).2.2.2.1 (testTag s (testTarget s).1) (testDecode s (testTarget s).1).2.2.2.2.2
  generalize testNoted (testResult s (testTarget s).1) _ _ _ _ _ = u at hx hclass hsyn hbit hdata harmed hmarks hmem
  exact ⟨_, hx, rfl, hclass, hsyn, hbit, hdata, hmarks.trans hmarks', hmem.trans htiers, harmed.trans harmed'⟩

/-- Settles O47: write-backs, counters and log, patches and checker tests (R338, R340, R342, R345 to R347; log entries 59 and 60). -/
theorem eccCommands : Obligations.EccCommands := by
  refine fun s => ⟨fun hd => ⟨fun hq => ?_, fun key rest hq => eccWriteBack_answers hd hq⟩,
    fun die hd => ⟨fun group hg hr => eccCeOverClear_answers hd hg hr, fun entry he hr => eccLogRelease_answers hd he hr⟩,
    fun die mac row word hr hd hm hrow hword => ⟨eccPatchInstall_full hr hd hm hrow hword, fun i hi hn hj => ?_,
      eccPatchRemove_unmatched hr hd hm hrow hword,
      fun i hi => ⟨eccPatchRemove_redealing hr hd hm hrow hword hi, eccPatchRemove_done hr hd hm hrow hword hi⟩⟩,
    fun hr => ⟨fun h i hi => eccTest_refused hr h hi, fun h => ⟨eccTestWriteNormal_writes hr h, eccTestWriteSplit_writes hr h,
      eccTestArmFlip_arms hr h, eccTestRead_reads hr h⟩⟩⟩
  · refine (eccWriteBack_runs s hd).trans ?_
    rw [writeBack, hq]
  · have hfree := freePatch_some hi hn hj
    obtain ⟨htaken, hout, hre⟩ := eccPatchInstall_refused hr hd hm hrow hword hfree
    exact ⟨htaken, hout, hre, eccPatchInstall_done hr hd hm hrow hword hfree hi⟩

end Sys2Proof
end
